-- ==== Sys2Proof/Word.lean ====
section
/-! DEFINITION. Word types and the plainest containers. A count, a size, an index or a beat is a `Nat`; a bit vector is
kept for what the manual treats as bits. Everything a test could show wrong stands under Machine/. -/

namespace Sys2Proof

/-- One byte, the smallest addressable unit of every tier (R9). -/
abbrev Byte := BitVec 8

/-- One FP32 or raw 32-bit word (R25, Table 4.1). -/
abbrev W32 := BitVec 32

/-- One 64-bit word: scalar registers, tags, doorbell words. -/
abbrev W64 := BitVec 64

/-- A sparse table by number, in one canonical form: keys strictly rising, and no entry equal to what an unlisted key
reads as (`FMap.wf`). -/
abbrev FMap (α : Type) := List (Nat × α)

/-- Bytes by address, in the canonical form of `FMap` with 0 for an unlisted address. -/
abbrev Mem := FMap Byte

/-- A 16-bit status code (R12). -/
abbrev Status := Nat

end Sys2Proof
end

