-- ==== Sys2Proof/Syntax.lean ====
section
/-! DEFINITION. The commands and events of the module: one constructor per row of spec/opcode_table.json, with the
operands that the row takes from outside the state (a queue number, a message, a value, a completion's data). -/

namespace Sys2Proof

/-- The three dictionary roles of Table 0.1. -/
inductive Role where
  | maker | installer | operator
  deriving DecidableEq, Repr

/-- The three paths to the dictionary (R411), in the order in which R417 takes requests of one beat. -/
inductive Path where
  | bar0 | pcie | i3c
  deriving DecidableEq, Repr

/-- Who sends a dictionary request: a path and, inside an SPDM session, the session's number (R350, R412). -/
structure Requester where
  path : Path
  session : Option Nat
  deriving DecidableEq, Repr

/-- A hub die (R14). -/
inductive Hub where
  | east | west
  deriving DecidableEq, Repr

/-- Why a kill strikes a queue (R130, R131): a pre-emption, a fault that counts toward the three of R131, or a fault
kill that does not count (takeovers, R442, R449). -/
inductive KillKind where
  | preemption | fault | uncounted
  deriving DecidableEq, Repr

/-- The fields of a vector instruction besides its opcode (Table 4.2). -/
structure VArgs where
  vd : BitVec 5
  va : BitVec 5
  vb : BitVec 5
  vc : BitVec 5
  mask : BitVec 3
  ss : BitVec 4
  fn : BitVec 3
  imm : BitVec 26
  deriving DecidableEq, Repr

/-- The fields of an update instruction besides its opcode (Table 4.9). -/
structure UArgs where
  dst : BitVec 4
  sa : BitVec 5
  sb : BitVec 5
  sc : BitVec 5
  deriving DecidableEq, Repr

/-- Where an engine request comes from, in the service order of R356. -/
inductive EngineSource where
  | windway | spdm | reedKey | firmware
  deriving DecidableEq, Repr

/-- A P-384 public key as two coordinates (R354). -/
structure PubKey where
  x : Nat
  y : Nat
  deriving DecidableEq, Repr

/-- A value of the object dictionary (R11): a scalar as the bits of its width, or the bytes of a STR or BLOB. -/
inductive DVal where
  | num (n : Nat)
  | blob (b : List Byte)
  deriving DecidableEq, Repr

/-- One memory unit that an error names (Table 18.2): a core's SRAM, an HBM row, an LPDDR row. -/
inductive MemUnit where
  | core (core : Nat)
  | hbm (stack channel row : Nat)
  | lpddr (channel row : Nat)
  deriving DecidableEq, Repr

/-- What an uncorrectable read from a lower tier was for (R162, Table 6.8a). -/
inductive LowerRead where
  | command (q : Nat)
  | promote (part index : Nat)
  | writeBack (part index : Nat) (channelOut : Bool)
  deriving DecidableEq, Repr

/-- Whose watchdog expired (Table 18.2); for a cluster controller, whether the leader's reset of it succeeds. -/
inductive Watchdog where
  | control (hub : Hub)
  | cluster (c : Nat) (resetWorks : Bool)
  deriving DecidableEq, Repr

/-- One access through a BAR4 aperture, or a write of a window register (R343, Table 13.5). -/
inductive Bar4Op where
  | read (addr len : Nat)
  | write (addr : Nat) (data : List Byte)
  | window (w : Nat) (handle : BitVec 32) (offset : Nat)
  deriving DecidableEq, Repr

/-- The header of a firmware image (R399). `signed` tells whether the maker root signature and the digest check. -/
structure FwImage where
  svn : Nat
  version : Nat
  bytes : Nat
  digest : List Byte
  signed : Bool
  deriving DecidableEq, Repr

/-- What a start finds on the silicon and at the ports (Tables 16.2, 16.3): nothing in the state decides it. -/
structure StartObs where
  fuseOk : Bool                    -- step 1: no uncorrectable fuse error
  eastUp : Bool                    -- step 3: hub east's control complex comes up
  westUp : Bool
  failedCores : List Nat           -- physical cores 5c + i whose SRAM fails self-test
  failedLogic : List Nat           -- physical cores that fail the logic self-test
  failedHbm : List Nat             -- HBM channels 32s + ch that fail training
  failedLpddr : List Nat           -- LPDDR channels that fail training
  trainedPorts : List (Nat × Nat)  -- ports that train and key, each with its peer's module ID
  locked : Bool                    -- the time-sync step locks the beat counter
  domainChanged : Bool             -- warm start: the domain reference changed
  retentionOk : Bool               -- warm start: both drone retention areas pass their CRC (R390)
  badTables : List Nat             -- warm start: partitions whose base handle table fails its digest (R394)
  deriving DecidableEq, Repr

/-- The other end's part of a port key exchange (R339). -/
structure PeerHello where
  module : Nat
  system : Nat
  chainValid : Bool
  eph : PubKey
  sigValid : Bool
  deriving DecidableEq, Repr

/-- Lanes that a crook link loses on one of its modules (R18). -/
structure CrookLoss where
  link : Nat
  module : Nat
  lanes : Nat
  deriving DecidableEq, Repr

/-- The algorithms that an SPDM requester offers (R357). -/
structure SpdmOffer where
  ecdsaP384 : Bool
  sha384 : Bool
  secp384r1 : Bool
  aes256gcm : Bool
  deriving DecidableEq, Repr

/-- One remote packet of type 1 or 2 (Table 13.3, R332): the job, the sending module and command, the destination's
BUFS index and the bytes. `last` marks the command's last packet; `poisoned` tells that a poison bit is set in it (R436). -/
structure RemotePkt where
  job : Nat
  source : Nat
  cmd : Nat
  bufs : Nat
  offset : Nat
  data : List Byte
  last : Bool
  poisoned : Bool := false
  deriving DecidableEq, Repr

/-- What the other modules of a job contribute to a boundary (Table 9.4): sums of the words of F, sums of the words of
F + 1, maxima of the words of F + 2. Empty for a job of one module. -/
structure RemoteBoundary where
  f : List Nat
  sums : List Nat
  amax : List Nat
  deriving DecidableEq, Repr

/-- What happens to the fabric manager's lease (R340). -/
inductive FabricLease where
  | renewal (module epoch : Nat)
  | missed
  deriving DecidableEq, Repr

/-- A token of a job-wide barrier (R280): an arrival from a module, or the root's release. -/
inductive BarrierToken where
  | arrival (module : Nat)
  | release
  deriving DecidableEq, Repr

/-- A remote signal (R276): what it does to its target object. -/
inductive SyncSignal where
  | add (value : Nat)
  | set
  | clear
  deriving DecidableEq, Repr

/-- Every row of spec/opcode_table.json. `q` is a queue number, `core` is 4c + k, `fn` is a function number with 0 for
the PF, `part` is a partition number, `ctx` is a reed context. -/
inductive Instr where
  -- engine and front-end commands (Table 5.6): the oldest started command of that opcode in queue q runs
  | array (q : Nat)
  | vector (q : Nat)
  | reedUpGradient (q : Nat)
  | reedRankGradient (q : Nat)
  | reedDownGradient (q : Nat)
  | reedForwardPhaseOne (q : Nat)
  | moveCopy (q : Nat)
  | moveIntegerAdd (q : Nat)
  | syncCounterAdd (q : Nat)
  | syncCounterWait (q : Nat)
  | syncEventSet (q : Nat)
  | syncEventClear (q : Nat)
  | syncEventWait (q : Nat)
  | syncLockAcquire (q : Nat)
  | syncLockRelease (q : Nat)
  | syncBarrierArrive (q : Nat)
  | syncLaunchAtCount (q : Nat)
  | launchBeatReached (q : Nat)
  | commit (q : Nat)
  | sweep (q : Nat)
  | yield (q : Nat)
  | alloc (q : Nat)
  | free (q : Nat)
  | run (q : Nat)
  | step (q : Nat)
  | nop (q : Nat)
  -- vector instructions (Table 4.3), issued on one core's vector unit
  | vadd (core : Nat) (a : VArgs)
  | vsub (core : Nat) (a : VArgs)
  | vmul (core : Nat) (a : VArgs)
  | vfma (core : Nat) (a : VArgs)
  | vmax (core : Nat) (a : VArgs)
  | vmin (core : Nat) (a : VArgs)
  | vabs (core : Nat) (a : VArgs)
  | vneg (core : Nat) (a : VArgs)
  | vdiv (core : Nat) (a : VArgs)
  | vsqrt (core : Nat) (a : VArgs)
  | vrsqrt (core : Nat) (a : VArgs)
  | vrcp (core : Nat) (a : VArgs)
  | vexp (core : Nat) (a : VArgs)
  | vexp2 (core : Nat) (a : VArgs)
  | vln (core : Nat) (a : VArgs)
  | vlog2 (core : Nat) (a : VArgs)
  | vtanh (core : Nat) (a : VArgs)
  | verf (core : Nat) (a : VArgs)
  | vsig (core : Nat) (a : VArgs)
  | vcmp (core : Nat) (a : VArgs)
  | vsel (core : Nat) (a : VArgs)
  | vmov (core : Nat) (a : VArgs)
  | vbcast (core : Nat) (a : VArgs)
  | vlane (core : Nat) (a : VArgs)
  | vld (core : Nat) (a : VArgs)
  | vst (core : Nat) (a : VArgs)
  | vld8 (core : Nat) (a : VArgs)
  | vst8 (core : Nat) (a : VArgs)
  | vred (core : Nat) (a : VArgs)
  | vcomb (core : Nat) (a : VArgs)
  | vpass (core : Nat) (a : VArgs)
  | vtag (core : Nat) (a : VArgs)
  | vsend (core : Nat) (a : VArgs)
  | vrecv (core : Nat) (a : VArgs)
  | vrng (core : Nat) (a : VArgs)
  | vdrop (core : Nat) (a : VArgs)
  | vuni (core : Nat) (a : VArgs)
  | sli (core : Nat) (a : VArgs)
  | slih (core : Nat) (a : VArgs)
  | sadd (core : Nat) (a : VArgs)
  | loop (core : Nat) (a : VArgs)
  | endProgram (core : Nat) (a : VArgs)
  -- update instructions (Table 4.9), issued on one core's update unit
  | uadd (core : Nat) (a : UArgs)
  | usub (core : Nat) (a : UArgs)
  | umul (core : Nat) (a : UArgs)
  | ufma (core : Nat) (a : UArgs)
  | udiv (core : Nat) (a : UArgs)
  | usqrt (core : Nat) (a : UArgs)
  | ursqrt (core : Nat) (a : UArgs)
  | umax (core : Nat) (a : UArgs)
  | umin (core : Nat) (a : UArgs)
  | uabs (core : Nat) (a : UArgs)
  | usel (core : Nat) (a : UArgs)
  | uest (core : Nat) (a : UArgs)
  | ured (core : Nat) (a : UArgs)
  | umov (core : Nat) (a : UArgs)
  -- front end
  | ringCommandFetch (q : Nat) (records : List Byte)
  | commandStart (q : Nat)
  | commandCommit (q : Nat)
  | kill (q : Nat) (kind : KillKind)
  | mergeEntryArrival (core : Nat) (column : Nat)
  | tileRequestDone (core mover : Nat)
  | partialArrival (engine : Nat) (tag : W64) (lanes : List W64) (sender : Option Nat)
  | rootDelivery (engine redId : Nat)
  | stepBoundary (job : Nat) (others : RemoteBoundary)
  | stepBarrierBoundExpiry (job : Nat)
  | syncWaitBoundExpiry (q : Nat)
  | barrierTokenArrival (object : Nat) (token : BarrierToken)
  | doorbell (fn page : Nat) (word : W64) (wellSized : Bool)
  -- queue and job requests (class 1 and 2 messages at the head of the function's mailbox)
  | queueCreate (fn : Nat)
  | queueDestroy (fn : Nat)
  | queueReset (fn : Nat)
  | queueRestart (fn : Nat)
  | releaseQuarantine (fn : Nat)
  | jobSubmit (fn : Nat) (container : List Byte)
  | jobEnd (fn : Nat)
  | coreGrant (job : Nat)
  | preEmption (job : Nat)
  | yieldWaitBoundExpiry (job : Nat)
  | saveDone (job : Nat)
  | coreZeroingDone (core : Nat)
  -- mailboxes
  | mailboxDoorbell (fn : Nat) (word : W64) (wellSized : Bool) (message : List Byte)
  | mbxPageWrite (fn : Nat) (page : W64) (vector : BitVec 6)
  | mailboxResponseWrite (fn : Nat) (respRead : BitVec 32)
  -- placement (class 3)
  | promote (fn : Nat)
  | evict (fn : Nat)
  | pin (fn : Nat)
  | unpin (fn : Nat)
  | promoteCopyDone (part index : Nat)
  | writeBackStart (part index : Nat)
  | writeBackDone (part index : Nat)
  -- reeds (class 4)
  | keyRegistration (fn : Nat)
  | removeKey (fn : Nat)
  | register (fn : Nat) (image : List Byte)
  | relocate (fn : Nat) (image : List Byte)
  | remove (fn : Nat)
  | serveBind (fn : Nat) (image : List Byte)
  | serveBindComplete (ctx : Nat) (blob : List Byte) (readOk : Bool)
  | trainBind (fn : Nat)
  | unbind (fn : Nat)
  | unbindComplete (ctx : Nat)
  | seal (fn : Nat)
  -- bases (class 5)
  | baseLoad (fn : Nat) (head : List Byte)
  | baseReplace (fn : Nat) (head : List Byte)
  | baseReplaceAbort (fn : Nat)
  | layerSwap (part : Nat)
  | finalSwapBarrier (part : Nat)
  | baseTileMulticast (part tensor tile : Nat) (data : List Byte)
  -- dictionary requests (FDP messages) and the writes they make
  | get (who : Requester) (message : List Byte)
  | set (who : Requester) (message : List Byte)
  | info (who : Requester) (message : List Byte)
  | next (who : Requester) (message : List Byte)
  | subscribe (who : Requester) (message : List Byte)
  | snapshot (who : Requester) (message : List Byte)
  | alarmNotifyRepeat (slot : Nat)
  | stagedValueTimeout (who : Requester)
  | dictionaryWrite (role : Role) (index sub : Nat) (value : DVal)
  | mapWrite (role : Role) (part : Nat) (pairs : Bool) (value : Nat)
  | vfQuotaWrite (role : Role) (vf : Nat) (capacity : Bool) (value : Nat)
  | vfPartitionWrite (role : Role) (vf : Nat) (value : Nat)
  | poolWrite (role : Role) (part sub : Nat) (value : DVal)
  | functionReset (vf : Nat) (byWrite : Option Role)
  | pfReset (byWrite : Option Role)
  | drainLimitExpiry (fn : Nat)
  | epochFlush (role : Role) (part : Nat)
  | failoverRequest (role : Role)
  | eastLinkDownTimeout
  | startRequestWarm (role : Role) (inHold : Bool)
  | startRequestCold (role : Role) (inHold : Bool)
  | configurationCommit (role : Role) (value : List Byte)
  | configurationWriteDone
  | stopChange (role : Role) (group stop : Nat)
  | overlayWrite (role : Role) (stop : Nat) (value : List Byte)
  | operatorKeyWrite (role : Role) (slot : Nat) (key : List Byte)
  | checkpointRequest (role : Role)
  | auditExportWrite (role : Role) (value : Nat)
  | alarmAcknowledge (role : Role) (slot : Nat)
  | alarmClear (role : Role) (slot : Nat)
  | declareDead (role : Role) (cluster k : Nat)
  | gpioFunctionWrite (role : Role) (pin fn : Nat)
  | gpioParkEnd (pin : Nat)
  | bar4Access (fn : Nat) (op : Bar4Op)
  -- SPDM
  | getVersion
  | getCapabilities
  | negotiateAlgorithms (offer : SpdmOffer)
  | getDigests
  | getCertificate (slot offset len : Nat)
  | challenge (slot : Nat) (nonce : List Byte)
  | getMeasurements (index : Nat) (nonce : List Byte)
  | keyExchange (key : List Byte) (chainValid : Bool)
  | finish (session : Nat) (proofValid : Bool)
  | endSession (session : Nat)
  | heartbeat (session : Nat)
  -- public-key engines
  | keygen (hub : Hub) (src : EngineSource)
  | sign (hub : Hub) (src : EngineSource) (d : Nat) (h : List Byte)
  | verify (hub : Hub) (src : EngineSource) (key : PubKey) (h : List Byte) (r s : Nat)
  | ecdh (hub : Hub) (src : EngineSource) (d : Nat) (key : PubKey)
  | validate (hub : Hub) (src : EngineSource) (key : PubKey)
  | engineOperationDone (hub : Hub)
  -- start-up, power and pins
  | firmwareUpdate (hub : Hub) (image : FwImage)
  | coldStart (obs : StartObs)
  | warmStart (obs : StartObs)
  | startStepTimeout (step : Nat)
  | pwrEnRise (refclkOk : Bool)
  | pwrEnFall
  | aux12vApplied
  | aux12vLow
  | main48vOutOfRange
  | modrstAssert
  | refclkCheck (refclkOk : Bool)
  | beatSyncInEdge (highNs : Nat)
  | beatSyncOutPulse
  | timeSyncExchange (stamps : Option (Nat × Nat × Nat × Nat))
  | vcoreDroop (cluster : Nat)
  | droopThrottleEnd (cluster cycles : Nat) (persists : Bool)
  | brownOut (cluster : Nat)
  | powerSample (watts : Nat)
  | powerStep (cluster : Nat)
  | dieTemperatureHigh (die celsius : Nat)
  | wakeRequest (core : Nat)
  | rampEnd (core : Nat)
  | pllLock (cluster : Nat)
  | idleGateExpiry (core : Nat)
  | pllOffExpiry (cluster : Nat)
  -- leases and management
  | leaseRenewal
  | leaseTakeover
  | leaseDisagreement
  | demotion (hub : Hub)
  | managementMessage (cluster : Nat) (src : Hub) (epoch : Nat)
  | fabricManagerLease (event : FabricLease)
  | fence (module epoch : Nat) (lift : Bool)
  | fenceNotice (epoch : Nat)
  -- links
  | flitTagFailure (port : Nat) (consecutive : Bool)
  | laneFailure (port : Nat)
  | crookLinkLoss (loss : CrookLoss)
  | portKeyExchange (port : Nat) (peer : PeerHello)
  | portRekey (port : Nat)
  | keyRetryExpiry (port : Nat)
  | remoteWrite (pkt : RemotePkt)
  | remoteIntegerAdd (pkt : RemotePkt)
  | remoteCommit (job source cmd : Nat) (discard : Bool)
  | hostProxy (member : Nat) (addr : Nat) (data : Option (List Byte)) (len : Nat)
  | remoteSyncSignal (job object : Nat) (signal : SyncSignal)
  | destinationUnreachable (q : Nat)
  | hostReadCompletion (id : Nat) (ok : Bool) (data : List Byte)
  -- errors
  | correctedError (unit : MemUnit)
  | uncorrectableError (core : Nat) (q : Option Nat) (word : Option (Nat × Nat × Nat))
  | uncorrectableReadLowerTier (read : LowerRead) (unit : MemUnit) (word : Option (Nat × Nat × Nat))
  | coreHeartbeatLoss (core : Nat)
  | watchdogExpiry (who : Watchdog)
  | scrubPass (unit : MemUnit) (rows : List Nat) (seconds : Nat)
  | traceReadPoll (read : BitVec 32)
  | journalGap
  -- the rows added after the first 239
  | main48vApplied
  | pcieFundamentalReset (hub : Hub)
  | brownOutRecovery (cluster : Nat)
  | droopGapEnd (cluster : Nat) (present : Bool)
  | restoreDone (job : Nat)
  | unitZeroingDone (part : Nat)
  | remoteAcknowledgement (q : Nat)
  | replayInputRelease (job : Nat)
  | makerDebugUnlock (nonce : List Byte) (r s : Nat)
  | boundaryScan (intest : Bool)
  | randomSourceHealthTestFailure (hub : Hub)
  | completionTimeout (id : Nat)
  deriving DecidableEq, Repr

end Sys2Proof
end

