-- ==== Sys2Proof/Decode.lean ====
section
/-! DEFINITION. The command that a word spells. No row of spec/opcode_table.json gives bits, so no word spells a command:
commands reach the block as commands, not as words of the table. The records, messages and words that the manual does lay
out (64-byte command records, vector and update instructions, mailbox messages, dictionary messages) are decoded by the
meanings that read them, in Machine/Records.lean and beside it. -/

namespace Sys2Proof

/-- No row of the table gives bits. -/
def decodeTableWord (_nbits _w : Nat) : Option Instr := none

end Sys2Proof
end

