-- ==== Sys2Proof/Config.lean ====
section
/-! DEFINITION. What one implementation fixes and the free values: constants without a body, so that no proof can see what
they are (log entry 2). Log entries are notes/assumptions/<n>.md. -/

namespace Sys2Proof

/-- A random byte of the hardware random source (R353); the argument counts the bytes drawn. Free. -/
opaque Config.randomByte : Nat → Byte

/-- The rounding of a transcendental whose enclosure does not decide it, by operation and operand (log entry 6). Free. -/
opaque Config.freeRound : Nat → W32 → W32

/-- A value that the manual does not state, drawn fresh; the argument counts the values drawn. Free. -/
opaque Config.freeNat : Nat → Nat

/-- The unlock nonces of 0x8200.04: byte i of nonce n stands at 32n + i. Free. -/
opaque Config.nonceByte : Nat → Byte

/-- The maker root public key in the boot ROM (Table 14.3). Free. -/
opaque Config.makerRootX : Nat
/-- Its second coordinate. Free. -/
opaque Config.makerRootY : Nat

/-- SHA-384 of the boot ROM, by byte (Table 14.6). Free. -/
opaque Config.romDigestByte : Nat → Byte

/-- The certificate chain of slot 0 in DER: its length and its bytes (R353). Free. -/
opaque Config.chainLength : Nat
/-- The chain's bytes. Free. -/
opaque Config.chainByte : Nat → Byte

/-- The digest that the SPDM responder signs, over the transcript of a request with its nonce and blocks (R357). Free. -/
opaque Config.spdmDigest : List Byte → List Byte

/-- The module physical address of an address of a partition's range in a memory tier (R167): not stated (log entry 122). -/
opaque Config.physical (tier part addr : Nat) : Nat

end Sys2Proof
end

