-- ==== Sys2Proof/Machine/State.lean ====
section
/-! DEFINITION. The state of one module as plain data, and the state right after reset. A field's docstring names the rule
that gives it. Entries of the object dictionary, counters and configuration values among them, have one home, `dict`;
everything else has its own field. Log entries are notes/assumptions/<n>.md. -/

namespace Sys2Proof.Machine

open Sys2Proof

/-! ## One core: vector unit, update unit, array, movers, power -/

/-- One active loop (Table 4.1): first body instruction, length, repeats still to run. -/
structure LoopFrame where
  first : Nat
  body : Nat
  left : Nat
  deriving DecidableEq, Repr

/-- Vector unit state (Table 4.1). An unlisted register holds 512 zero lanes, an unlisted tag is absent, an unlisted mask
and an unlisted scalar are 0; mask 0 is never stored (it reads as all ones). `owner` is the VECTOR command, by queue and
command number, whose unit this is. -/
structure VecUnit where
  regs : FMap (List W32) := []
  tags : FMap W64 := []
  masks : FMap (BitVec 512) := []
  scalars : FMap W64 := []
  loops : List LoopFrame := []
  pc : Nat := 0
  owner : Option (Nat × Nat) := none
  deriving DecidableEq, Repr

/-- Update unit state (R91 to R93): registers u0–u15 of 64 lanes, constants c0–c15, the first element of the group in
flight, whether this is the row run of a vector program, and the values fed to the S tree by row. -/
structure UpdUnit where
  regs : FMap (List W32) := []
  consts : FMap W32 := []
  group : Nat := 0
  live : Nat := 64                        -- lanes that hold an element; the others are masked (R92)
  rowRun : Bool := false
  fed : FMap W32 := []
  owner : Option (Nat × Nat) := none
  deriving DecidableEq, Repr

/-- What an outstanding tile-mover request delivers (R170, R174, R175). -/
inductive MoverKind where
  | weightTile (tile : Nat)
  | stationary (block buffer : Nat)
  | moveData
  deriving DecidableEq, Repr

/-- One outstanding request of a tile mover (R170, R171). -/
structure MoverReq where
  mover : Nat
  queue : Nat
  cmd : Nat
  kind : MoverKind
  deadline : Nat
  offset : Nat
  length : Nat
  issuedAt : Nat                          -- the bound of Table 7.1 runs from here (R173)
  deriving DecidableEq, Repr

/-- A compute domain is gated, ramping or on (R374); `waiting` is a gated core whose wake waits on the breath budget. -/
inductive CorePower where
  | gated | waiting | ramping | ramped | on
  deriving DecidableEq, Repr

/-- One named core c.k. Drain accumulators (R65) hold the last column's sums by lane. -/
structure Core where
  vec : VecUnit := {}
  upd : UpdUnit := {}
  drainEven : FMap Int := []
  drainOdd : FMap Int := []
  stationary : FMap (Nat × Nat) := []     -- buffer 0 and 1: the command and block that it takes or holds (R175)
  window : FMap (Nat × Nat) := []         -- weight window slot: the command and tile that it takes or holds (R174)
  nextBuffer : Nat := 0                   -- stationary buffer after the latest ARRAY's last block (R175)
  active : Mem := []                      -- active stationary registers: the code of row k, token t at 512k + t (R57)
  shadow : Mem := []                      -- shadow stationary registers, as last loaded (R57, R58)
  arrayLast : Option (Nat × Nat) := none  -- the ARRAY that started last on the core: queue and command number (R71)
  mergeQueue : List Nat := []             -- columns whose reed terms wait (R68)
  mergeHeld : List Nat := []              -- terms that the reed engine holds back while the merge queue is full (R68)
  mergeWait : Option Nat := none          -- the column the array waits for (R68)
  mergePlan : List (Nat × Nat) := []      -- the wait under way and those still to come: column and cycles (R68)
  mergeOwner : Option (Nat × Nat) := none -- the ARRAY that waits: queue and command number
  movers : List MoverReq := []            -- outstanding requests of M0–M3 (R170)
  power : CorePower := .gated
  wakeAt : Nat := 0                       -- beat of the wake request (R377)
  rampAt : Nat := 0                       -- beat at which the ramp started (R378)
  wakePllOff : Bool := false              -- the PLL was stopped at the request (R379)
  deferredTo : Nat := 0                   -- beat at which the latest deferred wake ended (R379)
  idleSince : Nat := 0                    -- last beat a command held the core (R376)
  zeroing : Bool := false                 -- R142, R314
  holder : Option Nat := none             -- the job that holds the core (R312)
  inService : Bool := true                -- R14, R444
  faultKills : List Nat := []             -- beats of the latest fault kills, newest first (R441)
  deriving DecidableEq, Repr

/-- State of a cluster PLL (R375). -/
inductive PllState where
  | off | locking | on
  deriving DecidableEq, Repr

/-- One cluster: PLL and clock, droop throttle (R72, R380), power step (R382), crossbar epoch and fences (R23, R445). -/
structure Cluster where
  pll : PllState := .off
  pllSince : Nat := 0
  lastUse : Nat := 0                      -- last request that needed the cluster (R375)
  clock : Nat := 1500                     -- MHz
  throttled : Bool := false
  gap : Bool := false                     -- the 64 cycles after a throttle (R72)
  gapDroop : Bool := false                -- a droop began inside the gap
  brownedOut : Bool := false
  step : Option Bool := none              -- pending power step, true for up (R382)
  epochSeen : Nat := 1                    -- highest leader epoch the crossbar has seen (R23)
  epochFrom : Hub := .east                -- the complex whose message brought it (R448)
  fenced : List Nat := []                 -- physical cores fenced because declared dead (R442)
  controllerResets : List Nat := []       -- beats of failed controller resets (R439)
  inService : Bool := true
  takeoverCore : Option Nat := none       -- core whose identity the spare is taking (R442)
  names : List Nat := [0, 1, 2, 3]        -- physical core behind each name (R13, R445)
  spare : Option Nat := some 4            -- physical core that is the spare (R15, R445)
  deriving DecidableEq, Repr

/-! ## Power, pins -/

/-- Inputs, rails and the power controller (R371 to R383). -/
structure Power where
  aux12 : Bool := true                    -- 12 V in range
  auxSince : Nat := 0                     -- drone tick at which 12 V was applied
  main48 : Bool := true                   -- 48 V in range
  pwrEn : Bool := true
  rails : Bool := true                    -- every rail but VDRONE
  samples : List Nat := []                -- latest input-power samples, newest first (R381)
  lastStep : Nat := 0                     -- beat of the last step requested for power (R381)
  stepped : Bool := false                 -- a step for power has been requested since the start
  belowSince : Option Nat := none         -- R381: average below 95% of the limit since
  floorSince : Option Nat := none         -- R381: above the limit at the floor since
  hot : Bool := false                     -- a die sensor was above 105 °C, and not every one below 100 °C since (R383)
  temps : FMap Nat := []                  -- die sensor: its last reading in °C, where it is not 0 (R383)
  lastHotStep : Option Nat := none
  deriving DecidableEq, Repr

/-- The management pins that the module drives or samples (Table 19.2). An active-low pin's field is its level. -/
structure Pins where
  alertN : Bool := true
  thermtripN : Bool := true
  pwrGood : Bool := true
  modrstN : Bool := true
  gpioFn : FMap Nat := []                 -- function in place; 0 parked (R463)
  gpioPark : FMap Nat := []               -- pins in a park: the function enabled at its end (R464)
  gpioIn : BitVec 8 := 0
  missedEdges : Nat := 0                  -- consecutive expected BEAT_SYNC_IN edges missing or ignored (R462)
  deriving DecidableEq, Repr

/-! ## Dictionary service, telemetry, audit -/

/-- An alarm slot (Table 17.9); CODE and SLOT are fixed by the slot. -/
structure AlarmRec where
  last : Nat := 0
  first : Nat := 0
  count : Nat := 0
  detail : Nat := 0
  drone : Bool := false
  state : Nat := 0
  countAck : Nat := 0
  notifiedAt : Nat := 0
  notifiedCount : Nat := 0
  atLast : Nat := 0                       -- occurrences in the beat LAST
  deriving DecidableEq, Repr

/-- One log record (Table 17.11). -/
structure LogRec where
  seq : Nat
  time : Nat
  severity : Nat
  source : Nat
  drone : Bool
  code : Nat
  unit : Nat
  params : List Byte
  deriving DecidableEq, Repr

/-- One trace record (Table 17.12). -/
structure TraceRec where
  beat : Nat
  kind : Nat
  source : Nat
  queue : Nat
  arg0 : Nat
  arg1 : Nat
  arg2 : Nat
  deriving DecidableEq, Repr

/-- A value being written in segments (R416). -/
structure Staged where
  index : Nat
  sub : Nat
  bytes : List Byte
  at_ : Nat
  deriving DecidableEq, Repr

/-- Where the response to a write goes once its effect has completed: the path and the request's header (R417). -/
structure Reply where
  path : Path
  header : List Byte
  deriving DecidableEq, Repr

/-- A write that waits until its entry's earlier write has completed (R417). -/
structure HeldWrite where
  key : Nat
  role : Role
  value : DVal
  who : Option Nat
  reply : Option Reply
  deriving DecidableEq, Repr

/-- Telemetry and the dictionary's service state (R416 to R432). -/
structure Telemetry where
  alarms : FMap AlarmRec := []
  log : FMap LogRec := []                 -- by SEQ mod 4,096
  traceHeld : List TraceRec := []         -- trace share, oldest first (R429)
  traceDropped : Nat := 0                 -- records dropped since the last gap record
  traceDropBeat : Nat := 0
  traceRead : Nat := 0                    -- READ as last read
  traceWrite : Nat := 0
  journalHeld : List (List Byte) := []    -- R290: records waiting in the hub buffer, oldest first
  journalDropped : Nat := 0
  journalDropBeat : Nat := 0
  staged : FMap Staged := []              -- by requester: 0 the BAR0 window, n + 1 session n
  shadow : FMap DVal := []                -- counter snapshot (R423)
  subscribers : List Nat := []            -- sessions that subscribed (R427)
  dictAddr : BitVec 32 := 0               -- Table 17.5
  dictOffset : BitVec 32 := 0
  dictLength : BitVec 32 := 0
  dictStatus : Nat := 0
  dictBusy : Bool := false
  busy : FMap (Option Reply) := []        -- entries whose write is in progress, by 256 × index + sub (R417)
  heldWrites : List HeldWrite := []       -- later writes to them, in the order taken
  dictResult : Nat := 0
  dictData : List Byte := []
  fdpOut : FMap (List Byte) := []         -- last response by path: 0 BAR0, 1 PCIe VDM, 2 I3C
  notifies : List (Nat × Nat) := []       -- ALARM_NOTIFY messages out: subscriber, slot; oldest first
  msix : FMap Nat := []                   -- MSI-X messages raised, by 64 × function + vector
  deriving DecidableEq, Repr

/-- The audit log (R366): records by SEQ, and the CHAIN of the last one. -/
structure Audit where
  records : FMap (List Byte) := []
  chain : List Byte := List.replicate 48 0
  deriving DecidableEq, Repr

/-! ## Security -/

/-- Fuses (Table 14.1), but for ECC. Key fields are never read by a role. -/
structure Fuses where
  stepping : Nat
  serial : Nat
  lifecycle : Nat
  protection : BitVec 32
  antiRollback : Nat
  installerRevoked : BitVec 4
  installerKeys : FMap (List Byte)
  crookRoot : BitVec 256
  capXtsKey : BitVec 512
  hbmXtsKey : BitVec 512
  identityKey : Nat
  deriving DecidableEq, Repr

/-- An operation that a public-key engine performs (Table 14.4). -/
inductive EngineOp where
  | keygen
  | sign (d : Nat) (h : List Byte)
  | verify (key : PubKey) (h : List Byte) (r s : Nat)
  | ecdh (d : Nat) (key : PubKey)
  | validate (key : PubKey)
  deriving DecidableEq, Repr

/-- A key registration under way (R195). -/
structure KeyReg where
  message : List Byte
  seq : Nat
  part : Nat
  deriving DecidableEq, Repr

/-- What the engine's result is for. -/
inductive EngineUse where
  | none
  | keyVerify (fn : Nat) (reg : KeyReg)   -- R195 step 2
  | keyEcdh (fn : Nat) (reg : KeyReg)     -- R195 step 3
  | configCommit (role : Role) (value image : List Byte)   -- the digest signed was that of `image` (R403)
  | operatorKey (role : Role) (slot : Nat) (key : List Byte)
  | checkpoint (content : List Byte)      -- SEQ, CHAIN and beat (R368)
  | challenge (nonce : List Byte)
  | measurements (blocks : List (Nat × List Byte)) (nonce : List Byte)
  deriving DecidableEq, Repr

/-- One queued engine request (R356). -/
structure EngineReq where
  op : EngineOp
  src : EngineSource
  arrived : Nat
  use : EngineUse
  deriving DecidableEq, Repr

/-- The output of an engine operation (R354, R355): a status and the output bytes. -/
structure EngineOut where
  status : Status
  output : List Byte
  deriving DecidableEq, Repr

/-- One hub's public-key engine (R354 to R356). -/
structure Engine where
  running : Option (Nat × EngineReq) := none   -- start beat and request
  waiting : List EngineReq := []               -- at most 64
  held : List EngineReq := []                  -- requests whose source holds them (R356)
  last : Option EngineOut := none
  healthy : Bool := true                       -- last health test of the random source
  deriving DecidableEq, Repr

/-- One dictionary session (R350). `finished` is set by FINISH. -/
structure Session where
  role : Role
  finished : Bool
  deriving DecidableEq, Repr

/-- The SPDM responder's last answer (R357 to R359). -/
inductive SpdmResp where
  | version
  | capabilities
  | algorithms (agreed : Bool)
  | digests (chain : List Byte)
  | certificate (bytes : List Byte)
  | signed (blocks : List (Nat × List Byte)) (nonce sig : List Byte)
  | session (id : Nat)
  | finished
  | ended
  | alive
  | invalidRequest
  | sessionLimitExceeded
  | refused (code : Status)
  deriving DecidableEq, Repr

/-- Security state (Security and Attestation). -/
structure Security where
  fuses : Fuses
  east : Engine := {}
  west : Engine := {}
  sessions : FMap Session := []
  spdmOut : Option SpdmResp := none
  negotiated : Bool := false
  unlocked : Bool := false                -- maker debug unlock active (R365)
  scanActive : Bool := false              -- boundary scan active (R364)
  nextSession : Nat := 0                  -- number of the next session
  nonces : Nat := 0                       -- how many unlock nonces have been read
  startEast : List Byte := List.replicate 32 0  -- hub east's start value (R352)
  startWest : List Byte := List.replicate 32 0  -- hub west's
  debugKey : List Byte := List.replicate 64 0   -- the per-start debug key (R362)
  deriving DecidableEq, Repr

/-! ## Configuration, firmware, start -/

/-- Configuration copies, firmware slots and start records (Start-up and Configuration Storage). -/
structure ConfigStore where
  copyA : List Byte := []                 -- flash of hub east; empty: erased
  copyB : List Byte := []
  pendingWrites : List Nat := []          -- entries (256 × index + sub) written and not committed (R403)
  readDigest : List Byte := []            -- 0x2000.03 as last read while writes were pending (R404)
  writing : Option (Hub × List Byte) := none  -- copy being written
  erases : FMap Nat := []                 -- by 4,096 × hub + sector (R398)
  slots : FMap FwImage := []              -- by 2 × hub + slot (R399)
  latched : FMap (List Byte) := []        -- running image digest at the last Ready, by hub
  lastReady : Bool := true                -- the previous start reached Ready (R390)
  rangeLost : Bool := false               -- an input left its range, or a thermal trip, since then
  startWaits : Option Bool := none        -- start that waits for a configuration write, true for cold (R391)
  holdRequest : Option (Nat × Nat) := none  -- drone time and value of a start request made in hold (R396)
  auditStopped : Bool := false            -- an audit sector is at its erase limit (R398)
  updateStatus : List (Hub × Status) := []  -- answers to firmware updates since the start, oldest first (R400)
  deriving DecidableEq, Repr

/-! ## Buffers and memory tiers -/

/-- One buffer (R120, Table 5.19). `data` is the committed contents. `job` is the job that owns it (R121, R122). -/
structure Buf where
  gen : Nat
  size : Nat
  tier : Nat                              -- 0 core store, 1 HBM, 2 capacity tier
  cls : Nat                               -- 0 scratch, 1 input, 2 output, 3 pinned, 4 program
  core : Nat := 0
  ownerQ : Option Nat := none
  fn : Nat := 0
  job : Option Nat := none
  base : Bool := false                    -- a base buffer of the partition (R182)
  container : Bool := false               -- a container buffer (R332)
  addr : Nat := 0                         -- first byte in its core store or in the partition's range of its tier (log entry 125)
  freed : Bool := false                   -- freed, storage held by started commands (R124)
  data : Mem := []
  deriving DecidableEq, Repr

/-- One index of a partition's buffer table (R120, R123). -/
structure IndexState where
  gen : Nat := 0
  ever : Bool := false
  live : Bool := false
  retired : Bool := false
  deriving DecidableEq, Repr

/-- State of a tiered object (Table 6.5). -/
inductive TierState where
  | absent | promoting | resident | evicting | pinned
  deriving DecidableEq, Repr

/-- A placement request that waits on an object (R158), with what its completion needs. -/
structure PlaceReq where
  op : Nat
  cls : Nat
  fn : Nat
  queue : Nat
  tag : Nat
  seq : Nat
  arrived : Nat
  waited : Nat := 0                       -- beats waited before the request ran
  joined : Bool := false                  -- it joined another request's copy or eviction
  deriving DecidableEq, Repr

/-- The tiered-object record (Table 6.5). `copy` is the HBM copy's contents while one exists; the buffer's own `data` is
HOME. -/
structure Tiered where
  state : TierState := .absent
  copying : Bool := false
  dirty : Bool := false
  charged : Nat := 0
  objClass : Nat := 0
  changed : Nat := 0
  copy : Mem := []
  copyAddr : Nat := 0                     -- COPY: partition HBM address of the copy; 0 when none
  waiters : List PlaceReq := []           -- in the order they joined
  current : List PlaceReq := []           -- requests that complete at the copy's end
  locked : Bool := false                  -- R158: held only inside one request, so 0 between steps
  lockQ : Nat := 0
  deriving DecidableEq, Repr

/-! ## Bases -/

/-- One tensor of a base (Table 7.7) and the buffer index that holds it. -/
structure Tensor where
  layer : Nat
  tiles : Nat
  offset : Nat
  digest : List Byte
  index : Nat := 0
  deriving DecidableEq, Repr

/-- A base load or replacement in progress (R183 to R190). -/
structure BaseJob where
  replace : Bool
  tensors : List Tensor
  digest : List Byte
  next : Nat := 0                         -- tensor being read
  attempts : Nat := 0
  fn : Nat
  seq : Nat
  tag : Nat
  members : BitVec 64
  hostAddr : Nat := 0
  swapping : Option Nat := none           -- replacement: the layer whose swap has begun
  swapped : Nat := 0                      -- replacement: 0x5600.04 before it opened, for an abort (R189)
  keeps : Bool := true                    -- bit 0 of MEMBERS, or a member: this module receives the base
  member : Bool := false                  -- the image comes over Windway from the head
  loaded : List (List Byte) := []         -- tensors held until they are placed: a load's, a member's
  tileNext : Nat := 0                     -- members: tiles received of the tensor
  tileData : List Byte := []
  sideData : List Byte := []
  deriving DecidableEq, Repr

/-! ## Partitions -/

/-- One partition: its buffer table, base and key pair (R120, R182, R194). Pools, maps, quotas and base state are in
`dict`. -/
structure Part where
  tensors : List Tensor := []             -- resident base, in table order
  baseJob : Option BaseJob := none
  baseHandles : List Nat := []            -- base handle table (R182)
  incoming : List Nat := []               -- incoming handle table, while a replacement is open (R187)
  brokenStatus : Status := 0
  keyPair : Option (Nat × PubKey) := none -- R194
  pfHbm : Nat := 0                        -- bytes charged to the PF in HBM (R164)
  pfCap : Nat := 0                        -- bytes charged to the PF in the capacity tier
  zeroing : FMap Nat := []                -- map writes that wait for unit zeroing: new map by subindex (R145)
  deriving DecidableEq, Repr

/-! ## Reeds -/

/-- A key record (R193). -/
structure KeyRec where
  part : Nat
  owner : Nat
  pub : PubKey
  key : List Byte
  fn : Nat
  sealCount : Nat
  deriving DecidableEq, Repr

/-- A reed directory entry (Table 8.6), with the contract it was registered with. -/
structure DirEntry where
  reedId : Nat
  addr : Nat
  imageBytes : Nat
  keyId : Nat
  version : Nat
  baseGen : Nat
  context : Nat := 0
  bound : Bool := false
  location : Nat
  rank : Nat
  placement : Nat
  owner : Nat
  layers : Nat
  purpose : Nat
  handle : Nat
  contract : List Byte
  header : List Byte
  deriving DecidableEq, Repr

/-- A contract target (Table 8.4) as a context holds it, with the offsets of its parts in the working copy, or the
buffers of a train bind (R210). -/
structure ReedTarget where
  layer : Nat
  k : Nat
  nf : Nat
  wqA : Nat := 0
  wqB : Nat := 0
  uRing : Nat := 0
  deriving DecidableEq, Repr

/-- A context is free, binding, bound or unbinding (R207); a free context has no record. -/
inductive CtxState where
  | binding | bound | unbinding
  deriving DecidableEq, Repr

/-- One reed context (R207 to R212). `copy` is a serve working copy (R199). -/
structure Ctx where
  state : CtxState
  part : Nat
  dir : Nat
  job : Nat
  queue : Nat
  serve : Bool
  rank : Nat
  targets : List ReedTarget
  invalid : Bool := false
  baseGen : Nat
  copy : Mem := []
  charge : Nat := 0
  fn : Nat
  attempts : Nat := 0
  began : Nat := 0
  answer : Option (Nat × Nat × Nat) := none   -- request waiting for completion: function, SEQ, TAG
  deriving DecidableEq, Repr

/-! ## Scale rings, observations, jobs -/

/-- One scale ring entry (Table 2.5). -/
structure RingEntry where
  amax : W32
  nonfinite : Bool
  skipped : Bool
  batchLo : Nat
  deriving DecidableEq, Repr

/-- A scale ring (Table 2.4). `entries` lists the valid entries by index. -/
structure Ring where
  tensorId : Nat
  init : W32
  margin : W32
  h : Nat
  checked : Bool
  scale : W32
  recip : W32
  head : Nat := 0
  count : Nat := 0
  backoff : Nat := 0
  calm : Nat := 0
  clipped : Nat := 0
  elements : Nat := 0
  skippedTotal : Nat := 0
  entries : FMap RingEntry := []
  deriving DecidableEq, Repr

/-- A ring's observation record (Table 9.2). -/
structure Obs where
  amax : W32 := 0
  nonfinite : Bool := false
  clipped : Nat := 0
  elements : Nat := 0
  sweepScale : W32 := 0
  sweepRecip : W32 := 0
  deriving DecidableEq, Repr

/-- A reduction that the job declares (REDS, RLEN; R45). -/
structure RedDecl where
  id : Nat
  chunks : Nat
  partials : Nat
  integer : Bool
  op : Nat
  route : Nat
  length : Nat
  deriving DecidableEq, Repr

/-- A live range (LIVE, R132) and a yield point are kept as the container gives them. -/
structure LiveRange where
  symbol : Nat
  stream : Nat
  first : Nat
  last : Nat
  deriving DecidableEq, Repr

/-- One stream of a job (STRM): the queue role that runs it and its bound command records (64 or 128 bytes each). -/
structure Stream where
  role : Nat
  params : Nat
  cmds : List (List Byte)
  binds : List (Nat × Nat × Nat) := []    -- parameter references: command, byte offset of its field, parameter slot
  deriving DecidableEq, Repr

/-- A sweep window (R219, R234). -/
inductive Window where
  | none | committed | skipped | refused
  deriving DecidableEq, Repr

/-- A step record (Table 9.6). -/
structure StepRec where
  batch : Nat
  updates : Nat
  status : Status
  decided : Nat
  arrived : Nat
  nf : Nat
  absurd : Nat
  firstBad : Nat
  rings : Nat
  skippedTotal : Nat
  deriving DecidableEq, Repr

/-- A sweep record (Table 4.12). -/
structure SweepRec where
  batch : Nat
  index : Nat
  queue : Nat
  status : Status
  nonfinite : Nat
  clippedRows : Nat
  deriving DecidableEq, Repr

/-- Where a job stands with its cores (R312 to R314). -/
inductive Grant where
  | waiting      -- admitted or pre-empted, holds no core
  | restoring    -- granted again, live buffers being restored
  | holding
  | yielding     -- pre-empted, its queues hold at their next pre-emptible point
  | saving
  | zeroing      -- its cores are being zeroed
  deriving DecidableEq, Repr

/-- One admitted job on this module (R310 to R314, R218 to R234). -/
structure Job where
  part : Nat
  fn : Nat
  priority : Nat
  seed : W64
  batch : Nat                             -- current batch index (R218)
  updates : Nat                           -- update counter (R233)
  moduleIdx : Nat
  modules : Nat
  digest : List Byte                      -- program digest (R137)
  baseDigest : List Byte
  grouped : Bool
  roles : List Nat                        -- queue of each role
  streams : List Stream
  bufs : List Nat                         -- handle of each BUFS entry
  rings : FMap Ring
  obs : FMap Obs := []
  reds : List RedDecl
  syncs : List Nat                        -- object of each SYNC entry
  live : List LiveRange
  coreSet : List Nat
  clipT : Nat                             -- T of R42, taken at admission (R51)
  calmL : Nat                             -- L of R40
  reserved : Nat                          -- HBM bytes charged for the job (R164)
  reservedCap : Nat := 0                  -- capacity-tier bytes charged for the job's staging (R126, R164)
  coreStaging : FMap Nat := []            -- bytes of staging and reed-term buffers reserved in each core store (R284)
  grant : Grant := .waiting
  saved : FMap (FMap Mem) := []           -- save areas: queue, then buffer (R134)
  yieldSince : Nat := 0
  nf : Nat := 0                           -- NF of the job's flag word (R221)
  steps : Nat := 0                        -- boundaries passed
  arrivedAt : Nat := 0                    -- beat in which the last queue reached its STEP
  firstArrival : Option Nat := none       -- R220: the barrier bound runs from here
  committedLast : Bool := false           -- the decision at the last boundary was to commit (R233)
  window : Window := .none
  stepLog : FMap StepRec := []            -- by batch index mod 256 (R231)
  sweepLog : FMap SweepRec := []          -- by SWEEP count mod 4,096 (R99)
  sweeps : Nat := 0
  skippedTotal : Nat := 0
  barrierDepth : Nat := 0
  replay : Option (List (List Byte)) := none  -- journal records still to match (R291)
  replayHeld : List (Nat × Instr) := []   -- external inputs held in replay, with the beat each waits for
  ran : List Nat := []                    -- streams that a RUN has started (R285)
  accs : List Nat := []                   -- accumulators that contributions have reached, by buffer version (R226)
  launched : Option Nat := none           -- beat of the first RUN
  tiles : FMap Nat := []                  -- tiles that each core has fetched in the job: u of R174
  deriving DecidableEq, Repr

/-! ## Queues and commands -/

/-- One staged write (R126): destination buffer by version (2^25 × generation + 2^20 × partition + index), offset, bytes. -/
structure StageWrite where
  buf : Nat
  off : Nat
  data : List Byte
  deriving DecidableEq, Repr

/-- A contribution to a ring's observation record, held with the staging (R222). -/
structure ObsDelta where
  ring : Nat
  amax : W32
  nonfinite : Bool
  clipped : Nat
  elements : Nat
  deriving DecidableEq, Repr

/-- Progress of a command: fetched, started, or finished with a status (R102 to R104). -/
inductive CmdState where
  | fetched
  | started
  | finished (status : Status)
  deriving DecidableEq, Repr

/-- One fetched and uncommitted command. `uid` numbers commands in fetch order over the module. `bytes` is the record as
fetched, after binding: 64 bytes, or 128 with a lane-group map. -/
structure Cmd where
  uid : Nat
  bytes : List Byte
  stream : Option Nat := none             -- index in its stream; none for a ring command
  state : CmdState := .fetched
  fetchedAt : Nat := 0
  startedAt : Nat := 0
  awaiting : Nat := 0                     -- mover requests not yet delivered (R176)
  views : FMap Mem := []                  -- buffers it names, by version, as committed when it started (R126)
  staged : List StageWrite := []
  nf : Nat := 0                           -- reports held with the staging (R222)
  obs : List ObsDelta := []
  result : Nat := 0
  kills : Nat := 0                        -- consecutive fault kills (R131)
  reruns : Nat := 0
  waiting : Bool := false                 -- a SYNC that waits at its object (R270)
  waitSince : Nat := 0
  backstopped : Bool := false             -- killed once by the backstop (R285)
  heldTo : Nat := 0                       -- a remote signal: the beat in which it is applied at its target (R270, R280)
  waitCode : Nat := 0                     -- 256 × stall class + cause of that wait (R161)
  objectWait : Bool := false              -- waits at its start for a tiered object or a base layer (R159, R187)
  uses : List Nat := []                   -- buffers it started with, by version (R124)
  writes : List Nat := []                 -- buffers it stages writes to, by version, of those it uses (R129)
  ctxs : List Nat := []                   -- reed contexts it started with (R209)
  acked : Bool := true                    -- a remote MOVE's last packet has been acknowledged (R333)
  arrived : Bool := false                 -- a STEP that has reached its boundary (R220)
  merged : Bool := false                  -- its merge wait has been released (R68)
  chained : Bool := false                 -- an ARRAY that chains with its predecessor (R71)
  lead : Nat := 0                         -- idle cycles behind a predecessor whose last pass is short (R59, R71)
  firstBuffer : Nat := 0                  -- stationary buffer of an ARRAY's block 0 (R175)
  issued : Nat := 0                       -- requests issued: a MOVE's, an ARRAY's for its weight tiles (R170)
  issuedBlocks : Nat := 0                 -- an ARRAY's requests issued for its stationary blocks
  gotTiles : Nat := 0                     -- requests for weight tiles delivered
  gotBlocks : Nat := 0                    -- requests for stationary blocks delivered
  plan0 : Nat := 0                        -- an ARRAY's planned cycle 0, in beats (R171)
  cycle0 : Option Nat := none             -- its cycle 0, in beats, once its first streams are in (R176)
  shift : Nat := 0                        -- beats that its issue has been held since (R57, R68)
  sent : Bool := false                    -- a grouped ARRAY whose level-8 nodes have left (R49)
  sentAt : Nat := 0                       -- the beat in which they left: the root wait runs from here (R70)
  run : Nat := 0                          -- a stream command: the number of the RUN that runs its stream (R101)
  sweepRec : Option SweepRec := none
  deriving DecidableEq, Repr

/-- Accounting of one queue (Table 12.13). -/
structure Account where
  waitSum : Nat := 0
  waitMax : Nat := 0
  preemptions : Nat := 0
  lost : Nat := 0
  hist : FMap Nat := []
  deriving DecidableEq, Repr

/-- One queue (R101 to R109, R305 to R309). -/
structure Queue where
  part : Nat
  fn : Nat
  page : Nat                              -- doorbell index within the function (R106)
  ringBase : Nat
  cplBase : Nat
  slots : Nat
  ringHbm : Bool
  cplHbm : Bool
  vector : Nat
  gen : Nat := 0                          -- 16-bit queue generation (R269)
  tail : Nat := 0
  head : Nat := 0
  committed : Nat := 0                    -- SEQ of the last committed command
  expected : Nat := 0                     -- SEQ expected of the next ring command (R108)
  status : Status := 0                    -- STATUS[15:0]
  stopped : Bool := false
  quarantined : Bool := false
  offences : List Nat := []               -- beats of the latest offences, newest first, at most 16 (R125)
  badDoorbells : Nat := 0
  cpls : Nat := 0                         -- completion records written
  job : Option Nat := none
  cmds : List Cmd := []                   -- fetched, uncommitted commands in queue order
  running : Option Cmd := none            -- the RUN whose stream runs (R101); its stream commands stand in `cmds`
  earlierRuns : List Cmd := []            -- RUNs whose streams have ended inside a commit window still open, oldest first
  window : Option Nat := none             -- oldest open commit window: its first command (R128)
  laterWindows : List Nat := []           -- commit windows opened behind a started COMMIT, by first command, rising
  stopAt : Option Nat := none             -- the FREE whose offence quarantined the queue: nothing after it commits (R104, R125)
  heldKill : Option KillKind := none      -- a kill that waits for the end of a droop throttle (R73)
  steps : Nat := 0                        -- STEPs committed
  windowSweeps : Nat := 0                 -- SWEEPs committed in the current window (R99)
  waitingSince : Option Nat := none       -- R320
  held : Bool := false                    -- held at a pre-emptible point (R314)
  acct : Account := {}
  deriving DecidableEq, Repr

/-! ## Sync objects, tagged engines -/

/-- A SYNC that waits at an object (R270): its queue, its command and the beat in which it reached the object. -/
structure Waiter where
  queue : Nat
  cmd : Nat
  since : Nat                             -- beat in which it reached the object
  deriving DecidableEq, Repr

/-- A sync object in use (Table 11.2). -/
structure SyncObj where
  type : Nat                              -- 1 counter, 2 event, 3 lock, 4 barrier
  job : Nat
  value : Nat := 0
  changed : Nat := 0
  arrived : Nat := 0
  waiters : List Waiter := []             -- in the order they reached the object
  ownerQ : Nat := 0
  ownerGen : Nat := 0
  abandoned : Bool := false
  held : Bool := false
  jobWide : Bool := false
  parties : Nat := 0
  localDone : Bool := false               -- job-wide barrier: local count complete for this phase
  tokens : List Nat := []                 -- root: modules whose arrival token has come
  told : Bool := false                    -- job-wide barrier: this phase's arrival token has been sent (R280)
  released : Bool := false                -- a release token came while the local count was open (R278, log entry 131)
  deriving DecidableEq, Repr

/-- One node held by a tagged engine (R45). -/
structure RedNode where
  level : Nat
  node : Nat
  lanes : List W64
  deriving DecidableEq, Repr

/-- A reduction on the tagged engines of its route (R45, R46). `arrived` lists the tags accepted, as level and node.
`delivered` is set once the root has left; the next partial then opens the reduction afresh. -/
structure Reduction where
  counts : FMap Nat := []                 -- lane count that each engine has recorded
  nodes : List RedNode := []
  arrived : List (Nat × Nat) := []
  parts : List (Option Nat × RedNode) := []   -- the partials accepted, with the command that sent each (R222, log entry 145)
  resent : List (Nat × Nat × Nat) := []   -- delivered partials of killed commands, which re-run: command, level, node
  rejected : Bool := false
  root : Option (List W64) := none
  delivered : Bool := false
  deriving DecidableEq, Repr

/-! ## Mailboxes and host interface -/

/-- A request consumed from a mailbox, before its answer (R302). -/
structure MboxMsg where
  cls : Nat
  seq : Nat
  frames : Nat
  bytes : List Byte
  arrived : Nat
  deriving DecidableEq, Repr

/-- A response held on the hub (R304). -/
structure MboxResp where
  cls : Nat
  seq : Nat
  bytes : List Byte
  deriving DecidableEq, Repr

/-- One function's mailbox (Table 12.3). -/
structure Mailbox where
  page : W64 := 0
  vector : BitVec 6 := 0
  fresh : Bool := true                    -- no doorbell accepted since MBX_PAGE was written
  seq : Nat := 0                          -- SEQ of the last accepted doorbell
  posted : Nat := 0                       -- frames posted
  consumed : Nat := 0                     -- MBX_CONSUMED
  inbox : List MboxMsg := []
  held : List MboxResp := []
  respWrite : Nat := 0
  respRead : Nat := 0
  respFrame : Nat := 0                    -- next response frame
  respFrames : List Nat := []             -- frames of the descriptors not yet read, oldest first
  status : Status := 0
  badDoorbells : Nat := 0
  deriving DecidableEq, Repr

/-- What a read of host memory was issued for. -/
inductive ReadUse where
  | baseTensor (part : Nat)
  | proxy (member : Nat)
  deriving DecidableEq, Repr

/-- A read of host memory in flight (R317, R341). -/
structure HostRead where
  use : ReadUse
  fn : Nat
  addr : Nat
  len : Nat
  squashed : Bool := false
  deriving DecidableEq, Repr

/-- The host interface (R341 to R344). -/
structure HostIf where
  reads : FMap HostRead := []
  nextRead : Nat := 0
  discarded : Nat := 0                    -- completions discarded after a squash (R317)
  windows : FMap (BitVec 32 × Nat) := []  -- by 8 × function + window: HANDLE, OFFSET (R343)
  failedOver : Bool := false              -- failover has happened since the start
  eastUp : Bool := true
  westUp : Bool := true
  lastRead : Option (List Byte × Bool) := none  -- data of the last BAR4 read and its poison indication
  unsupported : Bool := false             -- the last BAR4 read completed as Unsupported Request
  proxied : FMap Nat := []                -- accesses proxied for each member
  proxyOut : List (Nat × Bool × List Byte) := []  -- completions returned to members: member, success, data
  resetting : FMap Nat := []              -- functions whose reset drains, by the beat of its start (R316)
  pfReset : Bool := false                 -- a PF reset waits for the resets of the VFs (R318)
  pausedTo : Nat := 0                     -- beat in which the west interface answers after a failover (R344)
  deriving DecidableEq, Repr

/-! ## Windway, lease, reliability -/

/-- Link-key state of a port (R339). -/
structure Port where
  tagFails : Nat := 0                     -- consecutive
  rekeys : Nat := 0
  flits : Nat := 0                        -- flit counter since the last key
  keys : List Byte := []                  -- key and salt of both directions
  retryAt : Option Nat := none
  deriving DecidableEq, Repr

/-- Remote writes and adds held for a source command (R333): bytes to write, 64-bit elements to add, and whether the last
packet has come. -/
structure RemoteStage where
  job : Nat
  source : Nat
  cmd : Nat
  writes : List StageWrite := []
  adds : List StageWrite := []
  complete : Bool := false
  nf : Nat := 0                           -- reports and observations of a conversion that the add completes (R227)
  obs : List ObsDelta := []
  deriving DecidableEq, Repr

/-- A flit as a trunk holds it (Table 13.2): CLASS (0 data, 1 barrier, 2 management, 3 link and time-sync), TYPE, DEST, the
deadline of a data flit (R172), and its LSEQ and port once it has been sent. -/
structure Flit where
  cls : Nat
  type : Nat
  dest : Nat
  deadline : Nat := 0
  bytes : Nat := 224                      -- payload bytes valid
  last : Bool := true                     -- last flit of its packet
  lseq : Nat := 0
  port : Nat := 0
  deriving DecidableEq, Repr

/-- One trunk's link layer (R329). A slot is one flit's turn; `linkAt`, `managementAt` and `barrierAt` are the slots after which
the class may take the next one. -/
structure Trunk where
  waiting : List Flit := []               -- handed over and not yet sent, oldest first
  unacked : List Flit := []               -- sent and held for replay, oldest first; at most 1,024
  lseq : Nat := 0                         -- LSEQ of the next flit sent
  turn : Nat := 0                         -- flits sent: the ports take turns
  linkAt : Nat := 0
  managementAt : Nat := 0
  barrierAt : Nat := 0
  expect : Nat := 0                       -- LSEQ of the next flit delivered here
  replays : Nat := 0                      -- flits requested again and not yet delivered
  deriving DecidableEq, Repr

/-- The fabric (R325 to R340). Port state and epochs are in `dict`. -/
structure Windway where
  ports : FMap Port := []
  trunks : FMap Trunk := []               -- by direction: +x, −x, +y, −y, +z, −z (R326)
  staged : List RemoteStage := []
  acks : List (Nat × Nat × Nat) := []     -- acknowledgements sent: job, source, command
  sent : List (Nat × Nat × Bool) := []    -- type 3 packets sent: queue, command, commit or discard
  forwarded : Nat := 0                    -- base tiles forwarded to members
  fences : FMap Nat := []                 -- fenced module: epoch of its fence
  spareState : Bool := false              -- this module was fenced (R340)
  manager : Option Nat := none            -- module that holds the role, once another than the first candidate does (R340)
  missed : Nat := 0                       -- renewals missed in a row
  stale : Nat := 0                        -- management packets dropped for a stale epoch
  staleTold : List Nat := []              -- their epochs, each answered to its sender with 0x0A05 (R340)
  noticed : List Nat := []                -- fenced modules that a fence notice has been returned to, oldest first (R340)
  notices : List (Nat × Nat × Nat × Status) := []  -- failure notices sent: job, source, command, status (R225)
  baseReports : List (Nat × Status) := [] -- base failures reported to the head: partition, status (R184)
  syncMissed : Nat := 0                   -- exchanges missed in a row (R338)
  offset8 : Int := 0                      -- measured offset to the parent, 1/8 beats (R338)
  slew : Nat := 0                         -- beats since the last slewed beat, at most 10^6 (R282)
  pause : Bool := false                   -- the counter holds for one beat: a slew of a counter that runs ahead
  out : List (Bool × RemotePkt) := []     -- data packets sent: true for an integer add (type 2)
  signals : List (Nat × Nat × Nat × Nat) := []  -- sent: module, SYNC index, kind (SYNC OP; 0x10 arrival, 0x11 release token), value
  deriving DecidableEq, Repr

/-- One lease arbiter (R446). -/
structure Arbiter where
  epoch : Nat := 1
  holder : Hub := .east
  renewed : Nat := 0
  deriving DecidableEq, Repr

/-- The leader lease (R446 to R449). `epochEast` and `epochWest` are the epochs that the control complexes act at. -/
structure Lease where
  east : Arbiter := {}
  west : Arbiter := {}
  heartbeat : Nat := 0
  epochEast : Nat := 1
  epochWest : Nat := 1
  leadsEast : Bool := true
  leadsWest : Bool := false
  upEast : Bool := true
  upWest : Bool := true
  deriving DecidableEq, Repr

/-- Error bookkeeping (R434 to R445). -/
structure Reliability where
  poison : List (Nat × Nat) := []         -- poisoned words: buffer key, offset / 8 (R436)
  corrected : FMap (List Nat) := []       -- rows with corrections seen by scrub, by channel number (R438)
  repair : FMap (List Nat) := []          -- repair list in drone retention, by channel number (R438)
  errors : FMap (List Nat) := []          -- beats of uncorrectable errors by channel (R438)
  lpddrOut : List Nat := []
  hbmOut : List Nat := []                 -- HBM channels out of service
  crookLanes : FMap Nat := []             -- spare lanes in use, by 5 × crook link + module (R18)
  corrections : FMap (List Nat) := []     -- beats of recent corrections by unit (alarm 0x0B10)
  deriving DecidableEq, Repr

/-! ## The module -/

/-- The state of one module. -/
structure State where
  now : Nat                               -- beat counter (R10)
  drone : Nat                             -- drone counter, ticks of 100 ns (R373)
  fresh : Nat                             -- THE MODEL'S OWN: counts free values drawn (log entry 2)
  uid : Nat                               -- THE MODEL'S OWN: number of the next command fetched
  dict : FMap DVal                        -- object dictionary values that differ from their defaults, by 256 × index + sub
  tel : Telemetry
  audit : Audit
  sec : Security
  cfg : ConfigStore
  pwr : Power
  pins : Pins
  clusters : FMap Cluster
  cores : FMap Core
  queues : FMap Queue
  jobs : FMap Job
  parts : FMap Part
  bufs : FMap Buf
  index : FMap IndexState
  tiered : FMap Tiered
  keys : FMap KeyRec                      -- by record slot (R193)
  keyGens : FMap Nat                      -- generation of each record slot
  dirs : FMap DirEntry                    -- by 2^22 × partition + entry
  ctxs : FMap Ctx                         -- contexts that are not free (R207)
  sync : FMap SyncObj                     -- objects in use (R267)
  reds : FMap Reduction                   -- reductions that a partial has reached, by 2^24 × job + RED_ID
  mbx : FMap Mailbox
  host : HostIf
  win : Windway
  miss : FMap (List Byte)                 -- miss logs (R178, R179): records by 256 × function + slot
  lease : Lease
  rel : Reliability
  hbm : Mem                               -- rings and completions placed in HBM: 2^40 × partition + address
  hostOut : Mem                           -- host memory as the module has written it
  pending : List Instr                    -- commands that wait, first in, first out
  deriving DecidableEq, Repr

/-- Why a run stops with a fault. No command of this module stops a run, so no meaning raises it. It stands here because
the interface names the type; a command whose cause is absent from the state has no effect (log entry 1). Safe. -/
inductive Fault where
  | unreachable
  deriving DecidableEq, Repr

/-- Why a command is refused. `notModelled` is raised by an arm of exec alone, for a command without a meaning; no
command of this module is one. Safe. -/
inductive Refusal where
  | notModelled (mnemonic : String)
  deriving DecidableEq, Repr

/-- The fuses of the module that this model starts from. Stepping A, a field module, MODEL and EAST_WINS set (R348); the
serial number, the installer keys, the keys fixed at manufacture and the identity scalar are the model's own (log entry 4). -/
def Fuses.reset : Fuses where
  stepping := 0x41
  serial := 0
  lifecycle := 3
  protection := 0x3
  antiRollback := 0
  installerRevoked := 0
  installerKeys := []
  crookRoot := 0
  capXtsKey := 0
  hbmXtsKey := 0
  identityKey := 1

/-- The image that both hubs run after reset: the lowest security version and version, with a digest of the model's own
(log entry 8). -/
def FwImage.reset : FwImage where
  svn := 0
  version := 0
  bytes := 0
  digest := List.replicate 48 0
  signed := true

/-- The module right after reset: Ready at the end of a cold start, every register and entry at its reset value (log
entry 3). -/
def State.reset : State where
  now := 0
  drone := 0
  fresh := 0
  uid := 0
  dict := []
  tel := {}
  audit := {}
  sec := { fuses := Fuses.reset }
  cfg := { slots := [(0, FwImage.reset), (2, FwImage.reset)], latched := [(0, FwImage.reset.digest), (1, FwImage.reset.digest)] }
  pwr := {}
  pins := {}
  clusters := []
  cores := []
  queues := []
  jobs := []
  parts := []
  bufs := []
  index := []
  tiered := []
  keys := []
  keyGens := []
  dirs := []
  ctxs := []
  sync := []
  reds := []
  mbx := []
  host := {}
  win := {}
  miss := []
  lease := {}
  rel := {}
  hbm := []
  hostOut := []
  pending := []

end Sys2Proof.Machine
end

