-- ==== Sys2Proof/Machine/Store.lean ====
section
/-! DEFINITION. Sparse tables and memories: the one place that reads and writes them. A table lists its entries with keys
strictly rising; a memory also lists no zero byte, since an unlisted byte reads 0. Log entries are
notes/assumptions/<n>.md. -/

namespace Sys2Proof

variable {α : Type}

/-- The entry at `k`, if the table lists one. -/
def FMap.get? (m : FMap α) (k : Nat) : Option α :=
  match m with
  | [] => none
  | (j, v) :: t => if j = k then some v else FMap.get? t k

/-- The entry at `k`, or `d` where none is listed. -/
def FMap.getD (m : FMap α) (k : Nat) (d : α) : α := (FMap.get? m k).getD d

/-- Whether the table lists `k`. -/
def FMap.has (m : FMap α) (k : Nat) : Bool := (FMap.get? m k).isSome

/-- The table without `k`. -/
def FMap.erase (m : FMap α) (k : Nat) : FMap α := m.filter fun e => e.1 != k

/-- The table with `v` at `k`. -/
def FMap.set (m : FMap α) (k : Nat) (v : α) : FMap α :=
  (m.filter fun e => e.1 < k) ++ (k, v) :: m.filter fun e => k < e.1

/-- The table with `v` at `k`, where an unlisted key reads as `d`: writing `d` removes the entry. -/
def FMap.put [DecidableEq α] (d : α) (m : FMap α) (k : Nat) (v : α) : FMap α :=
  if v = d then FMap.erase m k else FMap.set m k v

/-- The table with the entry at `k` replaced by `f` of it; nothing changes where `k` is not listed. -/
def FMap.modify (m : FMap α) (k : Nat) (f : α → α) : FMap α :=
  m.map fun e => if e.1 = k then (e.1, f e.2) else e

/-- The entries for which `p` holds. -/
def FMap.keep (m : FMap α) (p : Nat → α → Bool) : FMap α := m.filter fun e => p e.1 e.2

/-- Every entry replaced by `f` of it. -/
def FMap.mapVal (m : FMap α) (f : Nat → α → α) : FMap α := m.map fun e => (e.1, f e.1 e.2)

/-- Keys strictly rising. -/
def FMap.wf (m : FMap α) : Bool :=
  match m with
  | [] => true
  | e :: t => (t.all fun f => e.1 < f.1) && FMap.wf t

/-- The byte at address `a`; a byte that nothing has written reads 0 (log entry 5). -/
def Mem.byte (m : Mem) (a : Nat) : Byte := FMap.getD m a 0

/-- The cells of `bs` from address `a` up, zero bytes left out. -/
def Mem.cells (a : Nat) (bs : List Byte) : Mem :=
  match bs with
  | [] => []
  | b :: t => if b = 0 then Mem.cells (a + 1) t else (a, b) :: Mem.cells (a + 1) t

/-- The memory with `bs` stored from address `a` up. -/
def Mem.write (m : Mem) (a : Nat) (bs : List Byte) : Mem :=
  (m.filter fun e => e.1 < a) ++ Mem.cells a bs ++ m.filter fun e => a + bs.length ≤ e.1

/-- `n` bytes from address `a` up. -/
def Mem.read (m : Mem) (a n : Nat) : List Byte := (List.range n).map fun i => Mem.byte m (a + i)

/-- The canonical form of a memory: keys strictly rising, no zero byte listed. -/
def Mem.wf (m : Mem) : Bool := FMap.wf m && m.all fun e => e.2 != 0

end Sys2Proof
end

