-- ==== Sys2Proof/Machine/Bits.lean ====
section
/-! DEFINITION. Byte order, bit fields, sign extension, checksums and integer rounding: little-endian everywhere (R7). -/

namespace Sys2Proof

/-- The value of `bs`, least significant byte first (R7). -/
def leNat (bs : List Byte) : Nat :=
  match bs with
  | [] => 0
  | b :: t => b.toNat + 256 * leNat t

/-- `v` as `n` bytes, least significant first (R7). -/
def toLe (n v : Nat) : List Byte :=
  match n with
  | 0 => []
  | n + 1 => BitVec.ofNat 8 v :: toLe n (v / 256)

/-- The value of `bs`, most significant byte first. -/
def beNat (bs : List Byte) : Nat := leNat bs.reverse

/-- `v` as `n` bytes, most significant first. -/
def toBe (n v : Nat) : List Byte := (toLe n v).reverse

/-- `n` bytes of `bs` from offset `off`; bytes beyond the end read 0. -/
def slice (bs : List Byte) (off n : Nat) : List Byte :=
  let got := (bs.drop off).take n
  got ++ List.replicate (n - got.length) 0

/-- An `n`-byte little-endian field at offset `off`. -/
def field (bs : List Byte) (off n : Nat) : Nat := leNat (slice bs off n)

/-- Bits [hi:lo] of a word (R7). -/
def bits (v hi lo : Nat) : Nat := v / 2 ^ lo % 2 ^ (hi + 1 - lo)

/-- Bit [n] of a word (R7). -/
def bit (v n : Nat) : Bool := v / 2 ^ n % 2 = 1

/-- A word of `w` bits read as two's complement (R7). -/
def signed (w v : Nat) : Int :=
  let v := v % 2 ^ w
  if v < 2 ^ (w - 1) then v else (v : Int) - (2 ^ w : Nat)

/-- An integer as a two's-complement word of `w` bits (R7). -/
def unsigned (w : Nat) (i : Int) : Nat := (i % (2 ^ w : Nat)).toNat

/-- `bs` with `new` stored at offset `off`; the length stays. -/
def patch (bs : List Byte) (off : Nat) (new : List Byte) : List Byte :=
  (bs.take off ++ new ++ bs.drop (off + new.length)).take bs.length

/-- Least multiple of `n` that is at least `v`. -/
def roundUp (v n : Nat) : Nat := (v + n - 1) / n * n

/-- Quotient rounded up. -/
def ceilDiv (a b : Nat) : Nat := (a + b - 1) / b

/-- How many bits of `v` below bit `n` are 1. -/
def popcount (n v : Nat) : Nat := ((List.range n).filter fun i => bit v i).length

/-- The numbers below `n` whose bit in `v` is 1, rising. -/
def bitList (n v : Nat) : List Nat := (List.range n).filter fun i => bit v i

/-- The word with bit `n` set to `b`. -/
def setBit (v n : Nat) (b : Bool) : Nat :=
  let off := if bit v n then v - 2 ^ n else v
  if b then off + 2 ^ n else off

/-- One step of CRC-32C over one bit: reflected polynomial 0x82F6_3B78. -/
def crc32cBit (c : BitVec 32) : BitVec 32 :=
  if c.getLsbD 0 then (c >>> 1) ^^^ 0x82F63B78 else c >>> 1

/-- CRC-32C over one byte. -/
def crc32cByte (c : BitVec 32) (b : Byte) : BitVec 32 :=
  crc32cBit <| crc32cBit <| crc32cBit <| crc32cBit <| crc32cBit <| crc32cBit <| crc32cBit <| crc32cBit <|
    c ^^^ b.setWidth 32

/-- CRC-32C (Castagnoli) with initial and final value 0xFFFF_FFFF. -/
def crc32c (bs : List Byte) : Nat := ((bs.foldl crc32cByte 0xFFFFFFFF) ^^^ 0xFFFFFFFF).toNat

/-- The words of `bs`, `n` bytes each. -/
def chunks (n : Nat) (bs : List Byte) : List (List Byte) :=
  (List.range (ceilDiv bs.length n)).map fun i => (bs.drop (n * i)).take n

/-- The 32-bit words of `bs`. -/
def words32 (bs : List Byte) : List W32 := (chunks 4 bs).map fun w => BitVec.ofNat 32 (leNat w)

/-- The bytes of 32-bit words. -/
def bytes32 (ws : List W32) : List Byte := ws.flatMap fun w => toLe 4 w.toNat

/-- Whether every element is 0. -/
def allZero (bs : List Byte) : Bool := bs.all fun b => b == 0

/-- Whether a list holds no value twice. -/
def nodup (l : List Nat) : Bool :=
  match l with
  | [] => true
  | a :: t => !t.contains a && nodup t

/-- The greatest element, 0 for the empty list. -/
def maxOf (l : List Nat) : Nat := l.foldl max 0

/-- The text of a string as bytes. -/
def ascii (t : String) : List Byte := t.toList.map fun c => BitVec.ofNat 8 c.toNat

/-- A value as a number; 0 for bytes. -/
def DVal.toNat (v : DVal) : Nat :=
  match v with
  | .num n => n
  | .blob _ => 0

/-- A value as bytes; none for a number. -/
def DVal.bytes (v : DVal) : List Byte :=
  match v with
  | .num _ => []
  | .blob b => b

end Sys2Proof
end

