-- ==== Sys2Proof/Machine/Crypto.lean ====
section
/-! DEFINITION. The public algorithms that the manual names (R195, R197, R353 to R355, R366): SHA-384, HMAC and HKDF over
it, AES-256 with key wrap and GCM, and P-384. They follow their public standards (log entry 7). -/

namespace Sys2Proof

/-! ## SHA-384 -/

/-- Round constants 0 to 19 of SHA-384: the first 64 fraction bits of cube roots of primes. -/
def Sha.k0 : List W64 :=
  [0x428A2F98D728AE22, 0x7137449123EF65CD, 0xB5C0FBCFEC4D3B2F, 0xE9B5DBA58189DBBC,
   0x3956C25BF348B538, 0x59F111F1B605D019, 0x923F82A4AF194F9B, 0xAB1C5ED5DA6D8118,
   0xD807AA98A3030242, 0x12835B0145706FBE, 0x243185BE4EE4B28C, 0x550C7DC3D5FFB4E2,
   0x72BE5D74F27B896F, 0x80DEB1FE3B1696B1, 0x9BDC06A725C71235, 0xC19BF174CF692694,
   0xE49B69C19EF14AD2, 0xEFBE4786384F25E3, 0x0FC19DC68B8CD5B5, 0x240CA1CC77AC9C65]

/-- Round constants 20 to 39 of SHA-384: the first 64 fraction bits of cube roots of primes. -/
def Sha.k20 : List W64 :=
  [0x2DE92C6F592B0275, 0x4A7484AA6EA6E483, 0x5CB0A9DCBD41FBD4, 0x76F988DA831153B5,
   0x983E5152EE66DFAB, 0xA831C66D2DB43210, 0xB00327C898FB213F, 0xBF597FC7BEEF0EE4,
   0xC6E00BF33DA88FC2, 0xD5A79147930AA725, 0x06CA6351E003826F, 0x142929670A0E6E70,
   0x27B70A8546D22FFC, 0x2E1B21385C26C926, 0x4D2C6DFC5AC42AED, 0x53380D139D95B3DF,
   0x650A73548BAF63DE, 0x766A0ABB3C77B2A8, 0x81C2C92E47EDAEE6, 0x92722C851482353B]

/-- Round constants 40 to 59 of SHA-384: the first 64 fraction bits of cube roots of primes. -/
def Sha.k40 : List W64 :=
  [0xA2BFE8A14CF10364, 0xA81A664BBC423001, 0xC24B8B70D0F89791, 0xC76C51A30654BE30,
   0xD192E819D6EF5218, 0xD69906245565A910, 0xF40E35855771202A, 0x106AA07032BBD1B8,
   0x19A4C116B8D2D0C8, 0x1E376C085141AB53, 0x2748774CDF8EEB99, 0x34B0BCB5E19B48A8,
   0x391C0CB3C5C95A63, 0x4ED8AA4AE3418ACB, 0x5B9CCA4F7763E373, 0x682E6FF3D6B2B8A3,
   0x748F82EE5DEFB2FC, 0x78A5636F43172F60, 0x84C87814A1F0AB72, 0x8CC702081A6439EC]

/-- Round constants 60 to 79 of SHA-384: the first 64 fraction bits of cube roots of primes. -/
def Sha.k60 : List W64 :=
  [0x90BEFFFA23631E28, 0xA4506CEBDE82BDE9, 0xBEF9A3F7B2C67915, 0xC67178F2E372532B,
   0xCA273ECEEA26619C, 0xD186B8C721C0C207, 0xEADA7DD6CDE0EB1E, 0xF57D4F7FEE6ED178,
   0x06F067AA72176FBA, 0x0A637DC5A2C898A6, 0x113F9804BEF90DAE, 0x1B710B35131C471B,
   0x28DB77F523047D84, 0x32CAAB7B40C72493, 0x3C9EBE0A15C9BEBC, 0x431D67C49C100D4C,
   0x4CC5D4BECB3E42B6, 0x597F299CFC657E2A, 0x5FCB6FAB3AD6FAEC, 0x6C44198C4A475817]

/-- Initial hash value of SHA-384: the first 64 fraction bits of square roots of the ninth to sixteenth primes. -/
def Sha.init : List W64 :=
  [0xCBBB9D5DC1059ED8, 0x629A292A367CD507, 0x9159015A3070DD17, 0x152FECD8F70E5939,
   0x67332667FFC00B31, 0x8EB44A8768581511, 0xDB0C2E0D64F98FA7, 0x47B5481DBEFA4FA4]
/-- All eighty round constants. -/
def Sha.k : List W64 := Sha.k0 ++ Sha.k20 ++ Sha.k40 ++ Sha.k60

/-- The message schedule, newest word first, extended by `n` words. -/
def Sha.extend (n : Nat) (w : List W64) : List W64 :=
  match n with
  | 0 => w
  | n + 1 =>
    let x := w.getD 14 0
    let y := w.getD 1 0
    let s0 := x.rotateRight 1 ^^^ x.rotateRight 8 ^^^ (x >>> 7)
    let s1 := y.rotateRight 19 ^^^ y.rotateRight 61 ^^^ (y >>> 6)
    Sha.extend n ((s1 + w.getD 6 0 + s0 + w.getD 15 0) :: w)

/-- One round over the eight working words. -/
def Sha.round (v : List W64) (kw : W64 × W64) : List W64 :=
  match v with
  | [a, b, c, d, e, f, g, h] =>
    let t1 := h + (e.rotateRight 14 ^^^ e.rotateRight 18 ^^^ e.rotateRight 41) + ((e &&& f) ^^^ (~~~e &&& g)) + kw.1 + kw.2
    let t2 := (a.rotateRight 28 ^^^ a.rotateRight 34 ^^^ a.rotateRight 39) + ((a &&& b) ^^^ (a &&& c) ^^^ (b &&& c))
    [t1 + t2, a, b, c, d + t1, e, f, g]
  | _ => v

/-- One block of 128 bytes. -/
def Sha.block (h : List W64) (bs : List Byte) : List W64 :=
  let w := ((chunks 8 bs).map fun c => BitVec.ofNat 64 (beNat c)).reverse
  let v := (Sha.k.zip (Sha.extend 64 w).reverse).foldl Sha.round h
  h.zipWith (· + ·) v

/-- SHA-384 of a byte string. -/
def sha384 (bs : List Byte) : List Byte :=
  let zeros := (240 - (bs.length + 1) % 128) % 128
  let padded := bs ++ 0x80 :: List.replicate zeros 0 ++ toBe 16 (8 * bs.length)
  (((chunks 128 padded).foldl Sha.block Sha.init).take 6).flatMap fun w => toBe 8 w.toNat

/-- HMAC-SHA-384. -/
def hmac384 (key msg : List Byte) : List Byte :=
  let key := if 128 < key.length then sha384 key else key
  let key := key ++ List.replicate (128 - key.length) 0
  sha384 (key.map (· ^^^ 0x5C) ++ sha384 (key.map (· ^^^ 0x36) ++ msg))

/-- HKDF-SHA-384 (RFC 5869) for an output of at most 48 bytes. -/
def hkdf384 (salt ikm info : List Byte) (n : Nat) : List Byte :=
  (hmac384 (hmac384 salt ikm) (info ++ [1])).take n

/-! ## AES-256 -/

/-- Doubling in GF(2^8). -/
def Aes.dbl (b : Byte) : Byte := (b <<< 1) ^^^ (if b.getLsbD 7 then 0x1B else 0)

/-- Product in GF(2^8) over the low `n` bits of `b`. -/
def Aes.mulBits (n : Nat) (a b : Byte) : Byte :=
  match n with
  | 0 => 0
  | n + 1 => (if b.getLsbD 0 then a else 0) ^^^ Aes.mulBits n (Aes.dbl a) (b >>> 1)

/-- Product in GF(2^8). -/
def Aes.mul (a b : Byte) : Byte := Aes.mulBits 8 a b

/-- The S-box of one byte: inverse, then the affine map. -/
def Aes.sub (b : Byte) : Byte :=
  let x2 := Aes.mul b b
  let x4 := Aes.mul x2 x2
  let x8 := Aes.mul x4 x4
  let x16 := Aes.mul x8 x8
  let x32 := Aes.mul x16 x16
  let x64 := Aes.mul x32 x32
  let x128 := Aes.mul x64 x64
  let i := Aes.mul x128 (Aes.mul x64 (Aes.mul x32 (Aes.mul x16 (Aes.mul x8 (Aes.mul x4 x2)))))
  i ^^^ i.rotateLeft 1 ^^^ i.rotateLeft 2 ^^^ i.rotateLeft 3 ^^^ i.rotateLeft 4 ^^^ 0x63

/-- The S-box. -/
def Aes.sbox : List Byte := (List.range 256).map fun n => Aes.sub (BitVec.ofNat 8 n)

/-- The S-box of a byte, by table. -/
def Aes.s (b : Byte) : Byte := Aes.sbox.getD b.toNat 0

/-- The inverse S-box of a byte. -/
def Aes.invS (b : Byte) : Byte := BitVec.ofNat 8 (Aes.sbox.idxOf b)

/-- The key schedule, newest word first, extended by `n` words; `i` counts words. -/
def Aes.expand (n i : Nat) (rcon : Byte) (w : List (List Byte)) : List (List Byte) :=
  match n with
  | 0 => w
  | n + 1 =>
    let prev := w.headD []
    let t := if i % 8 = 0 then
        match (prev.drop 1 ++ prev.take 1).map Aes.s with
        | a :: r => (a ^^^ rcon) :: r
        | [] => []
      else if i % 8 = 4 then prev.map Aes.s else prev
    Aes.expand n (i + 1) (if i % 8 = 0 then Aes.dbl rcon else rcon) (((w.getD 7 []).zipWith (· ^^^ ·) t) :: w)

/-- The fifteen round keys of AES-256, 16 bytes each. -/
def Aes.keys (key : List Byte) : List (List Byte) :=
  chunks 16 ((Aes.expand 52 8 1 (chunks 4 key).reverse).reverse.flatten)

/-- Byte-wise exclusive or. -/
def xorBytes (a b : List Byte) : List Byte := a.zipWith (· ^^^ ·) b

/-- Bytes of the state moved to the places that `f` gives. -/
def Aes.permute (f : Nat → Nat) (s : List Byte) : List Byte := (List.range 16).map fun i => s.getD (f i) 0

/-- ShiftRows: byte r + 4c comes from column c + r. -/
def Aes.shiftRows (s : List Byte) : List Byte := Aes.permute (fun i => i % 4 + 4 * ((i / 4 + i % 4) % 4)) s

/-- The inverse of ShiftRows. -/
def Aes.unshiftRows (s : List Byte) : List Byte := Aes.permute (fun i => i % 4 + 4 * ((i / 4 + 4 - i % 4) % 4)) s

/-- Each column multiplied by the circulant matrix of `a b c d`. -/
def Aes.mixWith (a b c d : Byte) (s : List Byte) : List Byte :=
  (chunks 4 s).flatMap fun col =>
    (List.range 4).map fun r =>
      Aes.mul a (col.getD r 0) ^^^ Aes.mul b (col.getD ((r + 1) % 4) 0) ^^^ Aes.mul c (col.getD ((r + 2) % 4) 0)
        ^^^ Aes.mul d (col.getD ((r + 3) % 4) 0)

/-- AES-256 encryption of one block. -/
def Aes.encrypt (key block : List Byte) : List Byte :=
  match Aes.keys key with
  | [] => block
  | k0 :: ks =>
    let s := (ks.take 13).foldl (fun s k => xorBytes (Aes.mixWith 2 3 1 1 (Aes.shiftRows (s.map Aes.s))) k) (xorBytes block k0)
    xorBytes (Aes.shiftRows (s.map Aes.s)) (ks.getD 13 [])

/-- AES-256 decryption of one block. -/
def Aes.decrypt (key block : List Byte) : List Byte :=
  match (Aes.keys key).reverse with
  | [] => block
  | k14 :: ks =>
    let s := (ks.take 13).foldl (fun s k => Aes.mixWith 14 11 13 9 (xorBytes ((Aes.unshiftRows s).map Aes.invS) k)) (xorBytes block k14)
    xorBytes ((Aes.unshiftRows s).map Aes.invS) (ks.getD 13 [])

/-- The unwrap steps of RFC 3394 over four 8-byte registers, from step `t` down. -/
def Aes.unwrapSteps (key : List Byte) (t : Nat) (a : List Byte) (r : List (List Byte)) : List Byte × List (List Byte) :=
  match t with
  | 0 => (a, r)
  | t + 1 =>
    let i := t % 4
    let b := Aes.decrypt key (xorBytes a (toBe 8 (t + 1)) ++ r.getD i [])
    Aes.unwrapSteps key t (b.take 8) (r.set i (b.drop 8))

/-- AES Key Wrap unwrapping (RFC 3394) of a 32-byte key; none where the integrity check fails. -/
def Aes.unwrap (kek wrapped : List Byte) : Option (List Byte) :=
  let (a, r) := Aes.unwrapSteps kek 24 (wrapped.take 8) (chunks 8 (wrapped.drop 8))
  if a = List.replicate 8 0xA6 then some r.flatten else none

/-- Product in GF(2^128) as GCM numbers its bits, over the low `n` bits of `x`, most significant first. -/
def Gcm.mulBits (n : Nat) (x v z : BitVec 128) : BitVec 128 :=
  match n with
  | 0 => z
  | n + 1 =>
    let z := if x.getLsbD n then z ^^^ v else z
    Gcm.mulBits n x (if v.getLsbD 0 then (v >>> 1) ^^^ (0xE1#128 <<< 120) else v >>> 1) z

/-- GHASH of whole blocks. -/
def Gcm.hash (h : BitVec 128) (bs : List Byte) : BitVec 128 :=
  (chunks 16 bs).foldl (fun y b => Gcm.mulBits 128 (y ^^^ BitVec.ofNat 128 (beNat (slice b 0 16))) h 0) 0

/-- Zeros up to a multiple of 16 bytes. -/
def Gcm.pad (bs : List Byte) : List Byte := bs ++ List.replicate (roundUp bs.length 16 - bs.length) 0

/-- The counter mode of GCM over a text. -/
def Gcm.stream (key iv text : List Byte) : List Byte :=
  ((chunks 16 text).zipIdx).flatMap fun (b, i) => xorBytes b (Aes.encrypt key (iv ++ toBe 4 (i + 2)))

/-- The tag of a ciphertext. -/
def Gcm.tag (key iv aad ct : List Byte) : List Byte :=
  let h := BitVec.ofNat 128 (beNat (Aes.encrypt key (List.replicate 16 0)))
  let s := Gcm.hash h (Gcm.pad aad ++ Gcm.pad ct ++ toBe 8 (8 * aad.length) ++ toBe 8 (8 * ct.length))
  xorBytes (toBe 16 s.toNat) (Aes.encrypt key (iv ++ toBe 4 1))

/-- AES-256-GCM encryption with a 12-byte IV: the ciphertext, then its 16-byte tag. -/
def Gcm.encrypt (key iv aad text : List Byte) : List Byte :=
  let ct := Gcm.stream key iv text
  ct ++ Gcm.tag key iv aad ct

/-- AES-256-GCM decryption with a 12-byte IV; none where the tag fails. -/
def Gcm.open (key iv aad ct tag : List Byte) : Option (List Byte) :=
  if Gcm.tag key iv aad ct = tag then some (Gcm.stream key iv ct) else none

/-! ## P-384 -/

/-- The field prime. -/
def P384.p : Nat := 2 ^ 384 - 2 ^ 128 - 2 ^ 96 + 2 ^ 32 - 1

/-- The group order. -/
def P384.n : Nat :=
  0xffffffffffffffffffffffffffffffffffffffffffffffffc7634d81f4372ddf581a0db248b0a77aecec196accc52973

/-- The curve constant. -/
def P384.b : Nat :=
  0xb3312fa7e23ee7e4988e056be3f82d19181d9c6efe8141120314088f5013875ac656398d8a2ed19d2a85c8edd3ec2aef

/-- The base point. -/
def P384.g : Nat × Nat :=
  (0xaa87ca22be8b05378eb1c71ef320ad746e1d3b628ba79b9859f741e082542a385502f25dbf55296c3a545e3872760ab7,
   0x3617de4a96262c6f5d9e98bf9292dc29f8f41dbd289a147ce9da3113b5f0b8c00a60b1ce1d7e819d7a431d7c90ea0e5f)

/-- `a ^ e mod m` over the low `n` bits of `e`. -/
def powMod (n a e m acc : Nat) : Nat :=
  match n with
  | 0 => acc
  | n + 1 => powMod n (a * a % m) (e / 2) m (if e % 2 = 1 then acc * a % m else acc)

/-- The inverse modulo a prime below 2^384. -/
def invMod (a m : Nat) : Nat := powMod 384 (a % m) (m - 2) m 1

/-- The curve equation y² = x³ − 3x + b. -/
def P384.onCurve (q : Nat × Nat) : Bool :=
  q.2 * q.2 % P384.p == (q.1 * q.1 * q.1 + (P384.p - 3) * q.1 + P384.b) % P384.p

/-- Point addition; none is the point at infinity. -/
def P384.add (a b : Option (Nat × Nat)) : Option (Nat × Nat) :=
  match a, b with
  | none, q => q
  | q, none => q
  | some (x1, y1), some (x2, y2) =>
    if x1 = x2 && (y1 + y2) % P384.p = 0 then none
    else
      let l := if x1 = x2 then (3 * x1 * x1 + P384.p - 3) * invMod (2 * y1) P384.p
        else (y2 + P384.p - y1) * invMod (x2 + P384.p - x1) P384.p
      let x3 := (l * l + 2 * P384.p - x1 - x2) % P384.p
      some (x3, (l * (x1 + P384.p - x3) + P384.p - y1) % P384.p)

/-- Twice a point in Jacobian coordinates, where (X, Y, Z) stands for (X / Z², Y / Z³) and Z = 0 for infinity. -/
def P384.double (q : Nat × Nat × Nat) : Nat × Nat × Nat :=
  let (x, y, z) := q
  let g := y * y % P384.p
  let b := x * g % P384.p
  let d := z * z % P384.p
  let a := 3 * (x + P384.p - d) * (x + d) % P384.p
  let x3 := (a * a + 8 * (P384.p - b)) % P384.p
  (x3, (a * (4 * b + P384.p - x3) + 8 * g * (P384.p - g)) % P384.p, 2 * y * z % P384.p)

/-- The sum of two points in Jacobian coordinates. -/
def P384.sum (q r : Nat × Nat × Nat) : Nat × Nat × Nat :=
  let (x1, y1, z1) := q
  let (x2, y2, z2) := r
  if z1 = 0 then r
  else if z2 = 0 then q
  else
    let a := z1 * z1 % P384.p
    let b := z2 * z2 % P384.p
    let u := x1 * b % P384.p
    let h := (x2 * a + P384.p - u) % P384.p
    let t := y1 * b * z2 % P384.p
    let w := (y2 * a * z1 + P384.p - t) % P384.p
    if h = 0 then (if w = 0 then P384.double q else (1, 1, 0))
    else
      let hh := h * h % P384.p
      let c := h * hh % P384.p
      let v := u * hh % P384.p
      let x3 := (w * w + (P384.p - c) + 2 * (P384.p - v)) % P384.p
      (x3, (w * (v + P384.p - x3) + t * (P384.p - c)) % P384.p, h * z1 * z2 % P384.p)

/-- Scalar multiplication over the low `n` bits of `k`. -/
def P384.mulBits (n k : Nat) (q acc : Nat × Nat × Nat) : Nat × Nat × Nat :=
  match n with
  | 0 => acc
  | n + 1 => P384.mulBits n (k / 2) (P384.double q) (if k % 2 = 1 then P384.sum acc q else acc)

/-- Scalar multiplication; none is the point at infinity. -/
def P384.mul (k : Nat) (q : Nat × Nat) : Option (Nat × Nat) :=
  let (x, y, z) := P384.mulBits 384 k (q.1, q.2, 1) (1, 1, 0)
  if z = 0 then none
  else
    let i := invMod z P384.p
    some (x * i * i % P384.p, y * i * i * i % P384.p)

/-- Nonce candidates of RFC 6979: the first `V` in 1 … n − 1 for which `ok` holds. -/
def P384.nonce (fuel : Nat) (ok : Nat → Bool) (k v : List Byte) : Nat :=
  match fuel with
  | 0 => 0
  | fuel + 1 =>
    let v := hmac384 k v
    if ok (beNat v) then beNat v
    else
      let k := hmac384 k (v ++ [0])
      P384.nonce fuel ok k (hmac384 k v)

/-- r and s for one nonce; 0 where the nonce is unusable. -/
def P384.signWith (d z k : Nat) : Nat × Nat :=
  match P384.mul k P384.g with
  | none => (0, 0)
  | some (x, _) =>
    let r := x % P384.n
    (r, invMod k P384.n * (z + r * d) % P384.n)

/-- ECDSA signature over a 48-byte digest, nonce by RFC 6979 with SHA-384 (Table 14.4). -/
def P384.sign (d : Nat) (h : List Byte) : Nat × Nat :=
  let z := beNat h
  let seed := toBe 48 d ++ toBe 48 (z % P384.n)
  let v0 := List.replicate 48 (1 : Byte)
  let k1 := hmac384 (List.replicate 48 0) (v0 ++ [0] ++ seed)
  let v1 := hmac384 k1 v0
  let k2 := hmac384 k1 (v1 ++ [1] ++ seed)
  let usable k := decide (0 < k) && decide (k < P384.n)
    && decide ((P384.signWith d z k).1 ≠ 0) && decide ((P384.signWith d z k).2 ≠ 0)
  P384.signWith d z (P384.nonce 64 usable k2 (hmac384 k2 v1))

/-- ECDSA verification of inputs that pass Table 14.5. -/
def P384.verify (q : Nat × Nat) (h : List Byte) (r s : Nat) : Bool :=
  let w := invMod s P384.n
  match P384.add (P384.mul (beNat h * w % P384.n) P384.g) (P384.mul (r * w % P384.n) q) with
  | none => false
  | some (x, _) => x % P384.n == r

end Sys2Proof
end

