-- ==== Sys2Proof/Machine/Entries.lean ====
section
/-! DEFINITION. The entries of the object dictionary (R11, R415, R422), row by row from the entry tables of the chapters:
index range, subindex range, type, access, default, and the range of a written value. -/

namespace Sys2Proof.Machine

open Sys2Proof

/-- Entry types (Table 17.3). -/
inductive DType where
  | u8 | u16 | u32 | u64 | i32 | f32 | bool | enum | str | blob
  deriving DecidableEq, Repr

/-- Type code (Table 17.3). -/
def DType.code (t : DType) : Nat :=
  match t with
  | .u8 => 1 | .u16 => 2 | .u32 => 3 | .u64 => 4 | .i32 => 5 | .f32 => 6 | .bool => 7 | .enum => 8 | .str => 9 | .blob => 10

/-- Bytes of a scalar (Table 17.3); 0 for a STR or BLOB. -/
def DType.width (t : DType) : Nat :=
  match t with
  | .u8 => 1 | .u16 => 2 | .u32 => 4 | .u64 => 8 | .i32 => 4 | .f32 => 4 | .bool => 1 | .enum => 1 | .str => 0 | .blob => 0

/-- One row of an entry table: `n` consecutive indices and `k` consecutive subindices. `acc` is the access byte of INFO
(Table 17.3). `lo` and `hi` bound a written scalar, `maxLen` bounds a STR or BLOB; rules beyond a range stand with the
write itself. -/
structure Entry where
  idx : Nat
  n : Nat := 1
  sub : Nat
  k : Nat := 1
  ty : DType
  acc : Nat
  dflt : DVal := .num 0
  lo : Nat := 0
  hi : Nat := 2 ^ 64 - 1
  maxLen : Nat := 0
  deriving DecidableEq, Repr

/-- O:r I:r M:r. -/
def Acc.ro : Nat := 0x15
/-- O:r I:rw M:rw. -/
def Acc.cfg : Nat := 0x3D
/-- O:rw I:r M:r. -/
def Acc.oper : Nat := 0x17
/-- O:rw I:rw M:r. -/
def Acc.operInst : Nat := 0x1F
/-- O:rw I:rw M:rw. -/
def Acc.all : Nat := 0x3F
/-- O:r I:rw M:r. -/
def Acc.inst : Nat := 0x1D
/-- O:w I:w M:w. -/
def Acc.wAll : Nat := 0x2A
/-- O:w I:- M:-. -/
def Acc.wOper : Nat := 0x02
/-- O:w I:w M:-. -/
def Acc.wOperInst : Nat := 0x0A
/-- O:- I:w M:-. -/
def Acc.wInst : Nat := 0x08

/-- `n` bytes of 0. -/
def zeros (n : Nat) : List Byte := List.replicate n 0

/-- Identity, inventory and start (Tables 17.6, 1.8, 16.8). The enterprise number and the firmware versions have no value
in the manual (log entry 8). -/
def entriesIdentity : List Entry :=
  [ { idx := 0x1000, sub := 1, ty := .str, acc := Acc.ro, dflt := .blob (ascii "Fogenas"), maxLen := 7 },
    { idx := 0x1000, sub := 2, ty := .str, acc := Acc.ro, dflt := .blob (ascii "Kelyar TM32"), maxLen := 11 },
    { idx := 0x1000, sub := 3, ty := .str, acc := Acc.ro, dflt := .blob (ascii "FGS-TM32-A"), maxLen := 10 },
    { idx := 0x1000, sub := 4, ty := .u8, acc := Acc.ro, dflt := .num 0x41 },
    { idx := 0x1000, sub := 5, ty := .u32, acc := Acc.ro },
    { idx := 0x1000, sub := 6, ty := .u16, acc := Acc.ro, dflt := .num 1 },
    { idx := 0x1000, sub := 7, k := 2, ty := .u32, acc := Acc.ro },
    { idx := 0x1000, sub := 9, ty := .u64, acc := Acc.ro },
    { idx := 0x1100, sub := 1, ty := .u8, acc := Acc.ro, dflt := .num 8 },
    { idx := 0x1100, sub := 2, ty := .u8, acc := Acc.ro, dflt := .num 32 },
    { idx := 0x1100, sub := 3, ty := .u32, acc := Acc.ro, dflt := .num 0xFFFFFFFF },
    { idx := 0x1100, sub := 4, ty := .u8, acc := Acc.ro, dflt := .num 0xFF },
    { idx := 0x1100, sub := 5, ty := .u16, acc := Acc.ro, dflt := .num 0xFFFF },
    { idx := 0x1100, sub := 6, ty := .u32, acc := Acc.ro, dflt := .num 36 },
    { idx := 0x1100, sub := 7, ty := .u64, acc := Acc.ro, dflt := .num 0xFFFFFFFFFFFFFFFF },
    { idx := 0x1100, sub := 8, ty := .u32, acc := Acc.ro, dflt := .num 24 },
    { idx := 0x1100, sub := 9, ty := .u32, acc := Acc.ro, dflt := .num 0x3FFFF },
    { idx := 0x1100, sub := 10, ty := .u32, acc := Acc.ro, dflt := .num 0xFFFFFF },
    { idx := 0x1100, sub := 11, ty := .enum, acc := Acc.ro },
    { idx := 0x1200, sub := 1, k := 2, ty := .enum, acc := Acc.ro },
    { idx := 0x1200, sub := 3, ty := .u8, acc := Acc.ro },
    { idx := 0x1200, sub := 4, ty := .u16, acc := Acc.ro },
    { idx := 0x1200, sub := 5, ty := .u8, acc := Acc.ro },
    { idx := 0x1200, sub := 6, ty := .u32, acc := Acc.ro },
    { idx := 0x1200, sub := 7, ty := .enum, acc := Acc.wAll, lo := 1, hi := 2 },
    { idx := 0x1200, sub := 8, ty := .u8, acc := Acc.ro } ]

/-- Base configuration (Tables 16.8, 2.8, 9.13, 11.14, 12.15, 19.6). -/
def entriesConfig : List Entry :=
  [ { idx := 0x2000, sub := 1, ty := .enum, acc := Acc.ro, dflt := .num 2 },
    { idx := 0x2000, sub := 2, ty := .u32, acc := Acc.ro },
    { idx := 0x2000, sub := 3, ty := .blob, acc := Acc.ro, dflt := .blob (zeros 48), maxLen := 48 },
    { idx := 0x2000, sub := 4, ty := .blob, acc := Acc.wInst, dflt := .blob [], maxLen := 192 },
    { idx := 0x2000, sub := 5, ty := .enum, acc := Acc.ro },
    { idx := 0x2000, sub := 6, k := 2, ty := .u8, acc := Acc.ro, dflt := .num 64 },
    { idx := 0x2000, sub := 8, ty := .bool, acc := Acc.ro },
    { idx := 0x2200, sub := 1, ty := .u8, acc := Acc.cfg, dflt := .num 16, lo := 1, hi := 32 },
    { idx := 0x2200, sub := 2, ty := .f32, acc := Acc.cfg, dflt := .num 0x3FA00000, lo := 0x3F800000, hi := 0x41800000 },
    { idx := 0x2200, sub := 3, ty := .u16, acc := Acc.cfg, dflt := .num 655 },
    { idx := 0x2200, sub := 4, ty := .u16, acc := Acc.cfg, dflt := .num 16, lo := 1, hi := 1024 },
    { idx := 0x2200, sub := 5, ty := .u8, acc := Acc.ro, dflt := .num 8 },
    { idx := 0x2200, sub := 6, ty := .u32, acc := Acc.ro, dflt := .num 4194304 },
    { idx := 0x2210, sub := 1, ty := .u32, acc := Acc.cfg, dflt := .num 1000000000, lo := 1000 },
    { idx := 0x2300, sub := 1, ty := .u32, acc := Acc.cfg, dflt := .num 10000000, lo := 1000 },
    { idx := 0x2400, sub := 1, ty := .u32, acc := Acc.cfg, dflt := .num 100000000 },
    { idx := 0x2400, sub := 2, ty := .u32, acc := Acc.cfg, dflt := .num 50000000, hi := 80000000 },
    { idx := 0x2600, sub := 1, k := 8, ty := .enum, acc := Acc.cfg, hi := 7 },
    { idx := 0x2600, sub := 9, ty := .u8, acc := Acc.all },
    { idx := 0x2600, sub := 10, ty := .u8, acc := Acc.ro },
    { idx := 0x2600, sub := 11, ty := .u8, acc := Acc.cfg, dflt := .num 2, lo := 2 },
    { idx := 0x2600, sub := 12, ty := .u32, acc := Acc.ro } ]

/-- One overlay record (R405). -/
def overlayRecord (idx sub type value : Nat) : List Byte :=
  toLe 2 idx ++ toLe 1 sub ++ toLe 1 type ++ zeros 4 ++ toLe 8 value

/-- The overlay of a power stop at manufacture: limit, ceiling and cluster mask (R405, Table 15.5). -/
def powerOverlay (limit ceiling mask : Nat) : DVal :=
  .blob (overlayRecord 0x9000 1 3 limit ++ overlayRecord 0x9000 2 2 ceiling ++ overlayRecord 0x9000 3 1 mask)

/-- Stops (Tables 16.7, 16.8, 15.5). -/
def entriesStops : List Entry :=
  [ { idx := 0x3000, sub := 1, ty := .enum, acc := Acc.operInst, hi := 2 },
    { idx := 0x3000, sub := 2, ty := .enum, acc := Acc.operInst, dflt := .num 3, lo := 3, hi := 5 },
    { idx := 0x3000, sub := 3, ty := .enum, acc := Acc.operInst, dflt := .num 6, lo := 6, hi := 7 },
    { idx := 0x3000, sub := 4, ty := .enum, acc := Acc.operInst, dflt := .num 8, lo := 8, hi := 9 },
    { idx := 0x3000, sub := 0x11, ty := .enum, acc := Acc.inst, hi := 2 },
    { idx := 0x3000, sub := 0x12, ty := .enum, acc := Acc.inst, dflt := .num 3, lo := 3, hi := 5 },
    { idx := 0x3000, sub := 0x13, ty := .enum, acc := Acc.inst, dflt := .num 6, lo := 6, hi := 7 },
    { idx := 0x3000, sub := 0x14, ty := .enum, acc := Acc.inst, dflt := .num 8, lo := 8, hi := 9 },
    { idx := 0x3100, n := 10, sub := 1, ty := .u8, acc := Acc.ro },
    { idx := 0x3100, sub := 2, ty := .blob, acc := Acc.inst, dflt := powerOverlay 3600 1500 0xFF, maxLen := 1024 },
    { idx := 0x3101, sub := 2, ty := .blob, acc := Acc.inst, dflt := powerOverlay 2900 1200 0xFF, maxLen := 1024 },
    { idx := 0x3102, sub := 2, ty := .blob, acc := Acc.inst, dflt := powerOverlay 1800 800 0x0F, maxLen := 1024 },
    { idx := 0x3103, n := 2, sub := 2, ty := .blob, acc := Acc.inst, dflt := .blob [], maxLen := 1024 },
    { idx := 0x3105, sub := 2, ty := .blob, acc := Acc.inst, dflt := .blob (overlayRecord 0x2400 1 3 20000), maxLen := 1024 },
    { idx := 0x3106, n := 4, sub := 2, ty := .blob, acc := Acc.inst, dflt := .blob [], maxLen := 1024 } ]

/-- Rows of the pool entries for the partitions from `idx` on (Table 12.1). -/
def entriesPool (idx n cores queues ctxs : Nat) (blocks : List Byte) : List Entry :=
  [ { idx, n, sub := 1, ty := .u32, acc := Acc.oper, dflt := .num cores },
    { idx, n, sub := 2, ty := .u16, acc := Acc.oper, hi := 8192 },
    { idx, n, sub := 3, ty := .u16, acc := Acc.oper, dflt := .num queues, hi := 8192 },
    { idx, n, sub := 4, ty := .blob, acc := Acc.oper, dflt := .blob blocks, maxLen := 32 },
    { idx, n, sub := 5, ty := .u16, acc := Acc.oper, hi := 4096 },
    { idx, n, sub := 6, ty := .u16, acc := Acc.oper, dflt := .num ctxs, hi := 4096 },
    { idx, n, sub := 7, ty := .u32, acc := Acc.ro },
    { idx, n, sub := 8, ty := .bool, acc := Acc.wOper },
    { idx, n, sub := 9, k := 3, ty := .u16, acc := Acc.ro } ]

/-- Partitions, functions and reeds (Tables 12.1, 12.2, 8.9). -/
def entriesPartitions : List Entry :=
  entriesPool 0x4000 1 0xFFFFFFFF 8192 4096 (List.replicate 32 0xFF) ++ entriesPool 0x4001 31 0 0 0 (zeros 32) ++
  [ { idx := 0x4020, sub := 1, ty := .u8, acc := Acc.oper, dflt := .num 0xFE },
    { idx := 0x4020, sub := 2, ty := .u16, acc := Acc.oper, dflt := .num 8192, hi := 8192 },
    { idx := 0x4020, sub := 3, ty := .u16, acc := Acc.ro },
    { idx := 0x4020, sub := 4, ty := .u8, acc := Acc.oper, dflt := .num 7, hi := 7 },
    { idx := 0x4020, sub := 5, ty := .enum, acc := Acc.oper, hi := 1 },
    { idx := 0x4020, sub := 6, ty := .enum, acc := Acc.oper, dflt := .num 1, lo := 2, hi := 2 },
    { idx := 0x4100, n := 1024, sub := 1, ty := .u8, acc := Acc.oper, dflt := .num 0xFF },
    { idx := 0x4100, n := 1024, sub := 2, ty := .u16, acc := Acc.oper, dflt := .num 8, hi := 256 },
    { idx := 0x4100, n := 1024, sub := 3, ty := .u16, acc := Acc.ro },
    { idx := 0x4100, n := 1024, sub := 4, ty := .u8, acc := Acc.oper, dflt := .num 3, hi := 7 },
    { idx := 0x4100, n := 1024, sub := 5, ty := .enum, acc := Acc.oper, hi := 1 },
    { idx := 0x4100, n := 1024, sub := 6, ty := .enum, acc := Acc.oper, lo := 2, hi := 2 },
    { idx := 0x4E00, n := 32, sub := 1, ty := .u32, acc := Acc.oper },
    { idx := 0x4E00, n := 32, sub := 2, ty := .u16, acc := Acc.oper, hi := 16384 },
    { idx := 0x4E00, n := 32, sub := 3, k := 2, ty := .u16, acc := Acc.ro },
    { idx := 0x4E00, n := 32, sub := 5, ty := .u32, acc := Acc.ro },
    { idx := 0x4E00, n := 32, sub := 6, k := 2, ty := .u64, acc := Acc.ro } ]

/-- Memory maps, quotas and bases (Tables 6.11, 7.11). The account of P0 holds the fixed metadata part. -/
def entriesMemory : List Entry :=
  [ { idx := 0x5000, sub := 1, ty := .u64, acc := Acc.oper, dflt := .num 0xFFFFFFFFFFFFFFFF },
    { idx := 0x5000, sub := 2, ty := .u32, acc := Acc.oper, dflt := .num 0xFFFFFFFF },
    { idx := 0x5000, sub := 3, ty := .u64, acc := Acc.ro, dflt := .num (576 * 2 ^ 30) },
    { idx := 0x5000, sub := 4, ty := .u64, acc := Acc.ro, dflt := .num (1536 * 2 ^ 30) },
    { idx := 0x5000, sub := 5, ty := .u64, acc := Acc.ro, dflt := .num (128 * 2 ^ 20) },
    { idx := 0x5001, n := 31, sub := 1, ty := .u64, acc := Acc.oper },
    { idx := 0x5001, n := 31, sub := 2, ty := .u32, acc := Acc.oper },
    { idx := 0x5001, n := 31, sub := 3, k := 3, ty := .u64, acc := Acc.ro },
    { idx := 0x5000, n := 32, sub := 6, k := 2, ty := .u64, acc := Acc.ro },
    { idx := 0x5000, n := 32, sub := 8, ty := .u16, acc := Acc.ro },
    { idx := 0x5100, n := 1024, sub := 1, k := 2, ty := .u64, acc := Acc.oper },
    { idx := 0x5100, n := 1024, sub := 3, k := 3, ty := .u64, acc := Acc.ro },
    { idx := 0x5600, n := 32, sub := 1, ty := .enum, acc := Acc.ro },
    { idx := 0x5600, n := 32, sub := 2, k := 2, ty := .blob, acc := Acc.ro, dflt := .blob (zeros 48), maxLen := 48 },
    { idx := 0x5600, n := 32, sub := 4, k := 2, ty := .u32, acc := Acc.ro } ]

/-- Counters (Tables 17.14, 9.13, 3.7, 6.10, 12.11, 7.5, 11.14). -/
def entriesCounters : List Entry :=
  [ { idx := 0x6000, sub := 1, ty := .u64, acc := Acc.ro },
    { idx := 0x6200, n := 32, sub := 1, ty := .u64, acc := Acc.ro },
    { idx := 0x6200, n := 32, sub := 5, ty := .u64, acc := Acc.ro },
    { idx := 0x6200, n := 32, sub := 6, k := 2, ty := .u32, acc := Acc.ro },
    { idx := 0x6300, n := 32, sub := 1, k := 3, ty := .u64, acc := Acc.ro },
    { idx := 0x6300, n := 32, sub := 4, ty := .u32, acc := Acc.ro },
    { idx := 0x6300, n := 32, sub := 5, ty := .u64, acc := Acc.ro },
    { idx := 0x6300, n := 32, sub := 6, ty := .u32, acc := Acc.ro },
    { idx := 0x6300, n := 32, sub := 7, k := 5, ty := .u64, acc := Acc.ro },
    { idx := 0x6400, n := 6, sub := 1, k := 5, ty := .u64, acc := Acc.ro },
    { idx := 0x6400, n := 6, sub := 0x11, k := 5, ty := .u32, acc := Acc.ro },
    { idx := 0x6440, n := 64, sub := 1, ty := .u64, acc := Acc.ro },
    { idx := 0x6440, n := 64, sub := 2, k := 2, ty := .u32, acc := Acc.ro },
    { idx := 0x6440, n := 64, sub := 4, ty := .u64, acc := Acc.ro },
    { idx := 0x6480, n := 16, sub := 1, k := 32, ty := .u64, acc := Acc.ro },
    { idx := 0x6500, n := 1025, sub := 1, k := 4, ty := .u64, acc := Acc.ro },
    { idx := 0x6500, n := 1025, sub := 0x10, k := 16, ty := .u32, acc := Acc.ro },
    { idx := 0x6A00, n := 1025, sub := 1, k := 2, ty := .u64, acc := Acc.ro },
    { idx := 0x6A00, n := 1025, sub := 3, k := 2, ty := .u32, acc := Acc.ro },
    { idx := 0x6A00, n := 1025, sub := 5, ty := .u32, acc := Acc.oper },
    { idx := 0x6F00, sub := 1, ty := .u64, acc := Acc.ro },
    { idx := 0x6F00, sub := 2, ty := .enum, acc := Acc.ro },
    { idx := 0x6F00, sub := 3, ty := .u8, acc := Acc.ro },
    { idx := 0x6F00, sub := 4, ty := .u64, acc := Acc.ro },
    { idx := 0x6F00, sub := 5, k := 3, ty := .u32, acc := Acc.ro },
    { idx := 0x6F00, sub := 8, ty := .u64, acc := Acc.ro },
    { idx := 0x6F00, sub := 9, k := 3, ty := .u32, acc := Acc.ro },
    { idx := 0x6F00, sub := 12, ty := .u64, acc := Acc.ro },
    { idx := 0x6F10, sub := 1, k := 8, ty := .u16, acc := Acc.ro } ]

/-- Alarms, log, traces and journal (Tables 17.14, 11.14). -/
def entriesTelemetry : List Entry :=
  [ { idx := 0x7000, sub := 1, ty := .u16, acc := Acc.ro },
    { idx := 0x7000, sub := 2, ty := .u8, acc := Acc.ro },
    { idx := 0x7000, sub := 3, ty := .u64, acc := Acc.ro },
    { idx := 0x7000, sub := 4, ty := .u32, acc := Acc.ro },
    { idx := 0x7010, n := 128, sub := 1, ty := .blob, acc := Acc.ro, maxLen := 32 },
    { idx := 0x7010, n := 128, sub := 2, ty := .u8, acc := Acc.wAll, lo := 1, hi := 2 },
    { idx := 0x7100, sub := 1, ty := .u64, acc := Acc.ro },
    { idx := 0x7100, sub := 2, ty := .u64, acc := Acc.all },
    { idx := 0x7100, sub := 3, ty := .u64, acc := Acc.ro },
    { idx := 0x7100, sub := 4, ty := .blob, acc := Acc.ro, maxLen := 262144 },
    { idx := 0x7100, sub := 5, ty := .u8, acc := Acc.all, hi := 3 },
    { idx := 0x7200, sub := 1, ty := .u64, acc := Acc.oper },
    { idx := 0x7200, sub := 2, ty := .u32, acc := Acc.oper },
    { idx := 0x7200, sub := 3, ty := .u64, acc := Acc.oper },
    { idx := 0x7200, sub := 4, ty := .u32, acc := Acc.oper },
    { idx := 0x7200, sub := 5, k := 2, ty := .u64, acc := Acc.ro },
    { idx := 0x7200, sub := 7, ty := .u32, acc := Acc.ro },
    { idx := 0x7300, sub := 1, ty := .u64, acc := Acc.oper },
    { idx := 0x7300, sub := 2, ty := .u32, acc := Acc.oper },
    { idx := 0x7300, sub := 3, ty := .u32, acc := Acc.ro },
    { idx := 0x7300, sub := 4, ty := .u32, acc := Acc.oper },
    { idx := 0x7300, sub := 5, ty := .u64, acc := Acc.ro },
    { idx := 0x7300, sub := 6, ty := .u32, acc := Acc.ro },
    { idx := 0x7300, sub := 7, ty := .bool, acc := Acc.ro } ]

/-- Security, power, Windway, host and reliability (Tables 14.8, 15.8, 13.8, 19.6, 18.6). -/
def entriesEdges : List Entry :=
  [ { idx := 0x8000, sub := 1, ty := .u32, acc := Acc.ro },
    { idx := 0x8000, sub := 2, ty := .enum, acc := Acc.ro },
    { idx := 0x8000, sub := 3, k := 2, ty := .u8, acc := Acc.ro },
    { idx := 0x8000, sub := 5, ty := .u64, acc := Acc.ro },
    { idx := 0x8000, sub := 6, ty := .blob, acc := Acc.ro, maxLen := 96 },
    { idx := 0x8100, sub := 1, k := 8, ty := .blob, acc := Acc.inst, dflt := .blob (zeros 96), maxLen := 96 },
    { idx := 0x8200, sub := 1, k := 2, ty := .u64, acc := Acc.ro },
    { idx := 0x8200, sub := 3, ty := .u32, acc := Acc.ro },
    { idx := 0x8200, sub := 4, ty := .blob, acc := Acc.ro, maxLen := 32 },
    { idx := 0x8200, sub := 5, k := 2, ty := .u32, acc := Acc.ro },
    { idx := 0x8300, sub := 1, ty := .u64, acc := Acc.ro },
    { idx := 0x8300, sub := 2, ty := .u64, acc := Acc.operInst },
    { idx := 0x8300, sub := 3, ty := .blob, acc := Acc.ro, dflt := .blob (zeros 160), maxLen := 160 },
    { idx := 0x8300, sub := 4, ty := .bool, acc := Acc.wAll },
    { idx := 0x8300, sub := 5, ty := .u64, acc := Acc.all },
    { idx := 0x8300, sub := 6, ty := .blob, acc := Acc.ro, maxLen := 128 },
    { idx := 0x9000, sub := 1, ty := .u32, acc := Acc.cfg, dflt := .num 3600, lo := 600, hi := 3600 },
    { idx := 0x9000, sub := 2, ty := .u16, acc := Acc.cfg, dflt := .num 1500, lo := 400, hi := 1500 },
    { idx := 0x9000, sub := 3, ty := .u8, acc := Acc.cfg, dflt := .num 0xFF },
    { idx := 0x9000, sub := 4, ty := .u32, acc := Acc.cfg, dflt := .num 100000 },
    { idx := 0x9000, sub := 5, ty := .u32, acc := Acc.cfg, dflt := .num 1000000 },
    { idx := 0x9000, sub := 6, ty := .u8, acc := Acc.ro, dflt := .num 2 },
    { idx := 0x9000, sub := 7, ty := .u8, acc := Acc.ro, dflt := .num 6 },
    { idx := 0x9100, sub := 1, k := 2, ty := .u32, acc := Acc.ro },
    { idx := 0x9100, sub := 3, ty := .u16, acc := Acc.ro },
    { idx := 0x9100, sub := 4, ty := .u64, acc := Acc.ro },
    { idx := 0x9100, sub := 5, ty := .u32, acc := Acc.ro },
    { idx := 0x9200, n := 8, sub := 1, ty := .u64, acc := Acc.ro },
    { idx := 0x9200, n := 8, sub := 2, ty := .u32, acc := Acc.ro },
    { idx := 0x9200, n := 8, sub := 3, k := 2, ty := .u64, acc := Acc.ro },
    { idx := 0x9200, n := 8, sub := 5, k := 4, ty := .u32, acc := Acc.ro },
    { idx := 0x9200, n := 8, sub := 9, ty := .i32, acc := Acc.ro } ]

/-- Windway, host and reliability (Tables 13.8, 19.6, 18.6). -/
def entriesFabric : List Entry :=
  [ { idx := 0xA000, sub := 1, ty := .u32, acc := Acc.cfg },
    { idx := 0xA000, sub := 2, ty := .u16, acc := Acc.cfg },
    { idx := 0xA000, sub := 3, ty := .u64, acc := Acc.cfg },
    { idx := 0xA000, sub := 4, ty := .u32, acc := Acc.ro },
    { idx := 0xA000, sub := 5, ty := .blob, acc := Acc.cfg, dflt := .blob (zeros 8), maxLen := 8 },
    { idx := 0xA000, sub := 6, ty := .u32, acc := Acc.cfg, hi := 0x3FFFF },
    { idx := 0xA000, sub := 7, ty := .enum, acc := Acc.cfg, hi := 1 },
    { idx := 0xA010, n := 24, sub := 1, ty := .enum, acc := Acc.ro },
    { idx := 0xA010, n := 24, sub := 2, ty := .u8, acc := Acc.ro },
    { idx := 0xA010, n := 24, sub := 3, ty := .u64, acc := Acc.ro },
    { idx := 0xA010, n := 24, sub := 4, ty := .u32, acc := Acc.ro },
    { idx := 0xA010, n := 24, sub := 5, ty := .u16, acc := Acc.ro, dflt := .num 0xFFFF },
    { idx := 0xA030, sub := 1, ty := .u64, acc := Acc.ro },
    { idx := 0xA040, sub := 1, ty := .bool, acc := Acc.wOper },
    { idx := 0xA040, sub := 2, k := 2, ty := .u32, acc := Acc.ro },
    { idx := 0xA040, sub := 4, ty := .u64, acc := Acc.ro },
    { idx := 0xA050, sub := 1, ty := .u32, acc := Acc.ro },
    { idx := 0xA050, sub := 2, ty := .u64, acc := Acc.ro },
    { idx := 0xA200, n := 32, sub := 1, ty := .blob, acc := Acc.oper, dflt := .blob [], maxLen := 8192 },
    { idx := 0xB000, sub := 1, ty := .enum, acc := Acc.ro },
    { idx := 0xB000, sub := 2, ty := .u32, acc := Acc.ro, dflt := .num 1 },
    { idx := 0xB000, sub := 3, k := 2, ty := .u32, acc := Acc.ro },
    { idx := 0xB000, sub := 5, ty := .u64, acc := Acc.ro },
    { idx := 0xB100, n := 8, sub := 1, ty := .enum, acc := Acc.ro },
    { idx := 0xB100, n := 8, sub := 2, ty := .u8, acc := Acc.ro, dflt := .num 0xFF },
    { idx := 0xB100, n := 8, sub := 3, k := 2, ty := .u64, acc := Acc.ro },
    { idx := 0xB100, n := 8, sub := 5, k := 2, ty := .u32, acc := Acc.ro },
    { idx := 0xB100, n := 8, sub := 7, ty := .u8, acc := Acc.wAll, hi := 3 },
    { idx := 0xB200, n := 16, sub := 1, ty := .u64, acc := Acc.ro },
    { idx := 0xB200, n := 16, sub := 2, ty := .u32, acc := Acc.ro },
    { idx := 0xB200, n := 16, sub := 3, k := 2, ty := .u8, acc := Acc.ro },
    { idx := 0xB200, n := 16, sub := 5, ty := .u32, acc := Acc.ro },
    { idx := 0xB300, n := 64, sub := 1, ty := .u64, acc := Acc.ro },
    { idx := 0xB300, n := 64, sub := 2, ty := .u32, acc := Acc.ro },
    { idx := 0xB300, n := 64, sub := 3, ty := .u8, acc := Acc.ro },
    { idx := 0xB300, n := 64, sub := 5, ty := .u32, acc := Acc.ro },
    { idx := 0xB400, n := 18, sub := 1, ty := .u64, acc := Acc.ro },
    { idx := 0xB400, n := 18, sub := 2, ty := .u8, acc := Acc.ro },
    { idx := 0xB400, n := 18, sub := 3, ty := .enum, acc := Acc.ro, dflt := .num 1 } ]

/-- Every entry of the dictionary (Table 17.7). -/
def entryTable : List Entry :=
  entriesIdentity ++ entriesConfig ++ entriesStops ++ entriesPartitions ++ entriesMemory ++ entriesCounters
    ++ entriesTelemetry ++ entriesEdges ++ entriesFabric

/-- The key of entry index.sub in `State.dict`. -/
def dkey (index sub : Nat) : Nat := 256 * index + sub

/-- Whether a row covers an entry. -/
def Entry.covers (e : Entry) (index sub : Nat) : Bool :=
  e.idx ≤ index && index < e.idx + e.n && e.sub ≤ sub && sub < e.sub + e.k

/-- The row of an entry. -/
def entryAt (index sub : Nat) : Option Entry := entryTable.find? fun e => e.covers index sub

/-- The default of an entry; the records of the power and Cadence stops come from their overlays. -/
def entryDefault (key : Nat) : DVal :=
  if key = 0x310001 || key = 0x310101 || key = 0x310201 then .num 3
  else if key = 0x310501 then .num 1
  else ((entryAt (key / 256) (key % 256)).map Entry.dflt).getD (.num 0)

/-- The least key above `key` in a row. -/
def Entry.next (e : Entry) (key : Nat) : Option Nat :=
  let first := dkey e.idx e.sub
  if key < first then some first
  else
    let index := max e.idx (key / 256)
    let sub := key % 256
    let i := if e.idx ≤ key / 256 && sub < e.sub then index
      else if e.idx ≤ key / 256 && sub + 1 < e.sub + e.k then index else index + 1
    let s := if i = key / 256 then max e.sub (sub + 1) else e.sub
    if i < e.idx + e.n && s < e.sub + e.k then some (dkey i s) else none

/-- The next existing entry above `key` (NEXT, Table 17.2). -/
def entryNext (key : Nat) : Option Nat :=
  (entryTable.filterMap fun e => e.next key).foldl (fun m k => some (match m with | none => k | some j => min j k)) none

/-- Whether the configuration copy stores an entry (R403). -/
def entryStored (index sub : Nat) : Bool :=
  match entryAt index sub with
  | none => false
  | some e => bits e.acc 3 2 = 3 && !(index = 0x3000 && sub ≤ 4) && !(index = 0x8300 && (sub = 2 || sub = 5))

/-- The keys that a row covers, rising within each index. -/
def Entry.keys (e : Entry) : List Nat :=
  (List.range e.n).flatMap fun i => (List.range e.k).map fun j => dkey (e.idx + i) (e.sub + j)

/-- Lengths that a value must have besides its maximum: the entries whose BLOB is of one size. -/
def fixedLength (index sub len : Nat) : Bool :=
  if index = 0x2000 && sub = 4 then len = 192
  else if 0x4000 ≤ index && index < 0x4020 && sub = 4 then len = 32
  else if index = 0x8100 then len = 96
  else if index = 0xA000 then len = 8
  else if 0xA200 ≤ index && index < 0xA220 then len % 2 = 0
  else true

/-- A written value without its reserved bits (R8): those of the torus sides and the trace sources, and
bytes 4 to 7 of each overlay record (R405). -/
def withoutReserved (index sub : Nat) (v : DVal) : DVal :=
  match v with
  | .num n =>
    if index = 0xA000 && sub = 1 then .num (n % 2 ^ 12)
    else if index = 0x7200 && sub = 4 then .num (n % 2 ^ 5)
    else v
  | .blob b =>
    if 0x3100 ≤ index && index < 0x310A then .blob ((chunks 16 b).flatMap fun r => slice r 0 4 ++ zeros (min 4 (r.length - 4)) ++ r.drop 8)
    else v

/-- A value against the type, length and range of its entry (R418, checks 2, 5 and 6). An overlay of more than 64 records is
refused with 0x0C06 (R405). -/
def valueStatus (index sub : Nat) (v : DVal) : Nat :=
  match entryAt index sub with
  | none => 0x0D01
  | some e =>
    match v with
    | .num n =>
      if e.ty.width = 0 || 256 ^ e.ty.width ≤ n then 0x0D02
      else if n < e.lo || e.hi < n || (e.ty = .bool && 1 < n) then 0x0D03
      else if index = 0x9000 && sub = 2 && n % 50 ≠ 0 then 0x0D03
      else 0
    | .blob b =>
      if 0x3100 ≤ index && index < 0x310A && e.maxLen < b.length then 0x0C06
      else if e.ty.width ≠ 0 || e.maxLen < b.length || !fixedLength index sub b.length then 0x0D02 else 0

/-- Whether a role holds the read or the write right of an access byte (R11). -/
def Acc.may (acc : Nat) (role : Role) (write : Bool) : Bool :=
  bit acc ((match role with | .operator => 0 | .installer => 2 | .maker => 4) + if write then 1 else 0)

end Sys2Proof.Machine
end

