-- ==== Sys2Proof/Machine/Ops.lean ====
section
/-! DEFINITION. The shared operations over the state: dictionary values and counters, effective values, telemetry (alarms,
log, traces), audit, host-memory writes, random draws. Log entries are notes/assumptions/<n>.md. -/

namespace Sys2Proof.Machine

open Sys2Proof

/-- What a meaning answers. -/
abbrev Result := Host.Outcome State Fault Refusal

/-! ## Dictionary values -/

/-- The stored value of an entry by key. -/
def dget (s : State) (key : Nat) : DVal := FMap.getD s.dict key (entryDefault key)

/-- The stored number of entry index.sub. -/
def dnum (s : State) (index sub : Nat) : Nat := (dget s (dkey index sub)).toNat

/-- The stored bytes of entry index.sub. -/
def dblob (s : State) (index sub : Nat) : List Byte := (dget s (dkey index sub)).bytes

/-- The state with entry `key` at `v`: an entry at its default is not listed. -/
def dput (s : State) (key : Nat) (v : DVal) : State :=
  { s with dict := FMap.put (entryDefault key) s.dict key v }

/-- The state with entry index.sub at the number `n`. -/
def dset (s : State) (index sub n : Nat) : State := dput s (dkey index sub) (.num n)

/-- The state with entry index.sub at the bytes `b`. -/
def dsetB (s : State) (index sub : Nat) (b : List Byte) : State := dput s (dkey index sub) (.blob b)

/-- The greatest value of an entry's type. -/
def entryMax (index sub : Nat) : Nat :=
  match entryAt index sub with
  | none => 2 ^ 64 - 1
  | some e => 256 ^ e.ty.width - 1

/-- A counter raised by `n`, saturating at its maximum (R423). -/
def bump (s : State) (index sub n : Nat) : State :=
  dset s index sub (min (dnum s index sub + n) (entryMax index sub))

/-- A maximum kept in an entry, saturating. -/
def raiseTo (s : State) (index sub n : Nat) : State :=
  dset s index sub (min (max (dnum s index sub) n) (entryMax index sub))

/-! ## Stops and effective values -/

/-- The active stop of group `g`: 1 power, 2 service, 3 isolation, 4 observation (R407). -/
def activeStop (s : State) (g : Nat) : Nat := dnum s 0x3000 g

/-- The value that an overlay gives an entry (R405, R406). -/
def overlayValue (overlay : List Byte) (index sub : Nat) : Option Nat :=
  ((chunks 16 overlay).find? fun r => field r 0 2 = index && field r 2 1 = sub).map fun r => field r 8 8

/-- The effective value of a scalar entry: an active stop's overlay, else the stored value (R406). -/
def eff (s : State) (index sub : Nat) : Nat :=
  match [1, 2, 3, 4].findSome? fun g => overlayValue (dblob s (0x3100 + activeStop s g) 2) index sub with
  | some v => v
  | none => dnum s index sub

/-- The Service stop Throughput-Grouped is active (R49). -/
def groupedStop (s : State) : Bool := activeStop s 2 = 4
/-- The Service stop Cadence is active (R178). -/
def cadence (s : State) : Bool := activeStop s 2 = 5
/-- The Isolation stop Sealed is active (R214, R361). -/
def sealed (s : State) : Bool := activeStop s 3 = 7
/-- The Observation stop Record is active (R288). -/
def recording (s : State) : Bool := activeStop s 4 = 9

/-! ## Module state -/

/-- Ready: the 48 V rails on and the start completed (0x1200.02). -/
def isReady (s : State) : Bool := s.pwr.rails && dnum s 0x1200 2 = 0
/-- Hold (R396). -/
def isHold (s : State) : Bool := dnum s 0x1200 2 = 2
/-- Standby or hold: only the drone domains run (R372, R396). -/
def droneOnly (s : State) : Bool := !s.pwr.rails || isHold s
/-- The time of a record: beats, or drone ticks in standby and hold (R6). -/
def stamp (s : State) : Nat := if droneOnly s then s.drone else s.now
/-- The hub that leads (0xB000.01). -/
def leader (s : State) : Hub := if dnum s 0xB000 1 = 0 then .east else .west

/-- A bit of the fused protection word (Table 14.2). -/
def fuse (s : State) (n : Nat) : Bool := s.sec.fuses.protection.getLsbD n

/-! ## Random draws and host writes -/

/-- `n` random bytes of the hardware source (R353): free values (log entry 2). -/
def randomBytes (s : State) (n : Nat) : List Byte := (List.range n).map fun i => Config.randomByte (s.fresh + i)

/-- The state after `n` random bytes have been drawn. -/
def drawn (s : State) (n : Nat) : State := { s with fresh := s.fresh + n }

/-- A write of the module to host memory. -/
def hostWrite (s : State) (addr : Nat) (bs : List Byte) : State := { s with hostOut := s.hostOut.write addr bs }

/-- An MSI-X message of a function (0 for the PF). -/
def msix (s : State) (fn vector : Nat) : State :=
  let k := 64 * fn + vector
  { s with tel := { s.tel with msix := FMap.put 0 s.tel.msix k (FMap.getD s.tel.msix k 0 + 1) } }

/-! ## Alarms (R425 to R427) -/

/-- The alarm code of a slot (Tables 17.10 and 18.7); 0 for a reserved slot. -/
def alarmCode (slot : Nat) : Nat :=
  if 64 ≤ slot && slot ≤ 74 then 0x0B10 + (slot - 64)
  else [0x0711, 0x0709, 0x0902, 0x0903, 0x0C01, 0x0C05, 0x0C0A, 0x0D40, 0x0D41, 0x0D42, 0x0D43, 0x0D44, 0x0D45, 0x0D46].getD slot 0

/-- The record of a slot. -/
def alarmAt (s : State) (slot : Nat) : AlarmRec := FMap.getD s.tel.alarms slot {}

/-- The state with a slot's record; the pin ALERT# is low while any slot is active (R427), and the gauge 0x7000.01 counts
the active slots. -/
def putAlarm (s : State) (slot : Nat) (r : AlarmRec) : State :=
  let alarms := FMap.put {} s.tel.alarms slot r
  let active := (alarms.filter fun e => e.2.state = 1).length
  let s := { s with tel := { s.tel with alarms }, pins := { s.pins with alertN := active = 0 } }
  dset s 0x7000 1 active

/-- ALARM_NOTIFY to every subscriber, carrying the slot's record as it stands (R427). -/
def notifyAll (s : State) (slot : Nat) : State :=
  let r := alarmAt s slot
  let sent := s.tel.subscribers.map fun n => (n, slot)
  let s := { s with tel := { s.tel with notifies := s.tel.notifies ++ sent } }
  let s := putAlarm s slot { r with notifiedAt := s.now, notifiedCount := r.count }
  bump s 0x7000 3 sent.length

/-- One occurrence of an alarm (R425, R427). -/
def alarm (s : State) (slot detail : Nat) : State :=
  let r := alarmAt s slot
  let t := stamp s
  let entering := r.state != 1
  let r' := { r with
    last := t
    first := if r.state = 0 then t else r.first
    count := min (r.count + 1) (2 ^ 32 - 1)
    atLast := if r.last = t && r.state ≠ 0 then r.atLast + 1 else 1
    detail
    drone := droneOnly s
    state := 1 }
  let s := putAlarm s slot r'
  if entering then notifyAll (msix s 0 0) slot else s

/-- The 32 bytes of an alarm record (Table 17.9). -/
def alarmBytes (s : State) (slot : Nat) : List Byte :=
  let r := alarmAt s slot
  toLe 4 r.countAck ++ toLe 1 (r.state + if r.drone then 4 else 0) ++ toLe 1 slot ++ toLe 2 (alarmCode slot)
    ++ toLe 4 r.detail ++ toLe 4 r.count ++ toLe 8 r.first ++ toLe 8 r.last

/-! ## Log (R428) -/

/-- One log record; below the minimum severity nothing is written. An overwritten record at or above the mark counts as
dropped. The parameters, which the manual calls code-specific and states for no code, are free (log entry 121). -/
def logRecord (s : State) (severity code unit source : Nat) : State :=
  if severity < dnum s 0x7100 5 then s
  else
    let seq := dnum s 0x7100 1
    let dropped := match FMap.get? s.tel.log (seq % 4096) with
      | some old => decide (dnum s 0x7100 2 ≤ old.seq)
      | none => false
    let params := toLe 40 (Config.freeNat s.fresh)
    let r : LogRec := { seq, time := stamp s, severity, source, drone := droneOnly s, code, unit := unit % 65536, params }
    let s := { s with fresh := s.fresh + 1, tel := { s.tel with log := FMap.set s.tel.log (seq % 4096) r } }
    let s := if dropped then bump s 0x7100 3 1 else s
    bump s 0x7100 1 1

/-- The 64 bytes of a log record (Table 17.11). -/
def logBytes (r : LogRec) : List Byte :=
  toLe 8 r.seq ++ toLe 8 r.time ++ toLe 1 r.severity ++ toLe 1 r.source ++ toLe 1 (if r.drone then 1 else 0) ++ [0]
    ++ toLe 2 r.code ++ toLe 2 r.unit ++ r.params

/-- The log source of the leader hub (Table 17.11). -/
def leaderSource (s : State) : Nat := match leader s with | .east => 8 | .west => 9

/-- The log record that every detection writes (R453). The manual gives no severity: it is free (log entry 42). -/
def detectLog (s : State) (code unit source : Nat) : State :=
  logRecord { s with fresh := s.fresh + 1 } (Config.freeNat s.fresh % 4) code unit source

/-- The log record of a detection for which the manual names no code: the code is free too (log entry 42). -/
def detectFree (s : State) (unit source : Nat) : State :=
  detectLog { s with fresh := s.fresh + 1 } (Config.freeNat s.fresh % 65536) unit source

/-- An alarm with the log record of its detection. -/
def alarmLog (s : State) (slot detail source : Nat) : State := detectLog (alarm s slot detail) (alarmCode slot) detail source

/-! ## Traces (R429) -/

/-- The 32 bytes of a trace record (Table 17.12). -/
def traceBytes (r : TraceRec) : List Byte :=
  toLe 8 r.beat ++ toLe 1 r.kind ++ toLe 1 r.source ++ toLe 2 r.queue ++ toLe 4 r.arg0 ++ toLe 8 r.arg1 ++ toLe 8 r.arg2

/-- Records that the trace ring holds. -/
def traceSlots (s : State) : Nat := dnum s 0x7200 2 / 32

/-- Free places of the ring, by READ as last read. -/
def traceFree (s : State) : Nat := traceSlots s - (s.tel.traceWrite + 2 ^ 32 - s.tel.traceRead) % 2 ^ 32

/-- One record written to the ring, with WRITE in the control block. -/
def traceEmit (s : State) (r : TraceRec) : State :=
  let s := hostWrite s (dnum s 0x7200 1 + 32 * (s.tel.traceWrite % traceSlots s)) (traceBytes r)
  let w := (s.tel.traceWrite + 1) % 2 ^ 32
  let s := hostWrite { s with tel := { s.tel with traceWrite := w } } (dnum s 0x7200 3 + 4) (toLe 4 w)
  bump s 0x7200 5 1

/-- The source bit of a kind in 0x7200.04. -/
def traceBit (kind : Nat) : Nat :=
  if kind ≤ 3 then 0 else if kind = 4 then 1 else if kind ≤ 6 then 2 else if kind = 7 then 3 else 4

/-- Held records moved to the ring, as many as it has room for. -/
def traceDrain (s : State) (fuel : Nat) : State :=
  match fuel with
  | 0 => s
  | fuel + 1 =>
    match s.tel.traceHeld with
    | [] => s
    | r :: t =>
      if traceFree s = 0 then s
      else traceDrain (traceEmit { s with tel := { s.tel with traceHeld := t } } r) fuel

/-- One trace record: to the ring where it has room and nothing is held, else to the trace share, else dropped. A gap
record stands before the first record kept after a drop. -/
def trace (s : State) (kind source queue arg0 arg1 arg2 : Nat) : State :=
  let r : TraceRec := { beat := s.now, kind, source, queue, arg0 := arg0 % 2 ^ 32, arg1, arg2 }
  if !bit (dnum s 0x7200 4) (traceBit kind) then s
  else if s.tel.traceHeld.isEmpty && s.tel.traceDropped = 0 && 0 < traceFree s then traceEmit s r
  else if s.tel.traceDropped = 0 && s.tel.traceHeld.length < 16384 then
    { s with tel := { s.tel with traceHeld := s.tel.traceHeld ++ [r] } }
  else if s.tel.traceDropped ≠ 0 && s.tel.traceHeld.length + 1 < 16384 then
    let gap : TraceRec := { beat := s.now, kind := 0xFF, source := 24 + leaderSource s, queue := 0, arg0 := 0,
                            arg1 := s.tel.traceDropped, arg2 := s.now - s.tel.traceDropBeat }
    let s' := { s with tel := { s.tel with traceHeld := s.tel.traceHeld ++ [gap, r], traceDropped := 0 } }
    traceDrain (bump (bump s' 0x7200 6 s.tel.traceDropped) 0x7200 7 1) 16384
  else
    { s with tel := { s.tel with
      traceDropped := s.tel.traceDropped + 1
      traceDropBeat := if s.tel.traceDropped = 0 then s.now else s.tel.traceDropBeat } }

/-! ## Flash wear (R398) -/

/-- The number of a hub's flash device. -/
def hubNumber (h : Hub) : Nat := match h with | .east => 0 | .west => 1

/-- A sector of a device is erased. At the limit of 100,000 a spare replaces it; without one, a configuration sector makes
configuration read-only and an audit sector stops the log. -/
def eraseSector (s : State) (h : Hub) (sector : Nat) : State :=
  let key := 4096 * hubNumber h + sector
  let n := FMap.getD s.cfg.erases key 0 + 1
  let count (m : Nat) : State := { s with cfg := { s.cfg with erases := FMap.put 0 s.cfg.erases key m } }
  let spare := 6 + hubNumber h
  if n < 100000 then count n
  else if 0 < dnum s 0x2000 spare then dset (count 0) 0x2000 spare (dnum s 0x2000 spare - 1)
  else if 1024 ≤ sector && sector < 1028 then alarm (dset (count 100000) 0x2000 8 1) 5 0
  else if 1028 ≤ sector && sector < 1156 then { count 100000 with cfg := { (count 100000).cfg with auditStopped := true } }
  else count 100000

/-- Sectors `first` to `first + n − 1` of a device are erased. -/
def eraseSectors (s : State) (h : Hub) (first n : Nat) : State :=
  (List.range n).foldl (fun s i => eraseSector s h (first + i)) s

/-- The audit log's sector for a record is erased on both devices when the ring comes back to it (log entry 45). -/
def eraseAudit (s : State) (seq : Nat) : State :=
  if 65536 ≤ seq && seq % 512 = 0 then
    let sector := 1028 + seq / 512 % 128
    eraseSector (eraseSector s .east sector) .west sector
  else s

/-! ## Audit log (R366, R367) -/

/-- The role number of a record (Table 14.9). -/
def roleCode (r : Role) : Nat :=
  match r with
  | .maker => 1
  | .installer => 2
  | .operator => 3

/-- The log cannot take a record (R367, R398): the unexported records fill it. -/
def auditFull (s : State) : Bool := 65536 ≤ dnum s 0x8300 1 - dnum s 0x8300 2 || s.cfg.auditStopped

/-- One record appended (Table 14.9), with its CHAIN. When it fills the log, alarm slot 0 is raised. -/
def auditAppendAt (s : State) (time role flags index sub event : Nat) (old new : List Byte) : State :=
  let seq := dnum s 0x8300 1
  let s := eraseAudit s seq
  let head := toLe 8 seq ++ toLe 8 time ++ toLe 1 role ++ toLe 1 flags ++ toLe 2 index ++ toLe 1 sub
    ++ toLe 1 event ++ zeros 2 ++ slice old 0 28 ++ slice new 0 28
  let chain := sha384 (s.audit.chain ++ head)
  let s := { s with audit := { records := FMap.set s.audit.records (seq % 65536) (head ++ chain), chain } }
  let s := bump s 0x8300 1 1
  if auditFull s then alarm s 0 0 else s

/-- One record of the present time. -/
def auditAppend (s : State) (role flags index sub event : Nat) (old new : List Byte) : State :=
  auditAppendAt s (stamp s) role flags index sub event old new

/-- A value as the audit log holds it, with whether it is a digest. -/
def auditValue (index sub : Nat) (v : DVal) : List Byte × Bool :=
  match v with
  | .num n => (toLe (((entryAt index sub).map fun e => e.ty.width).getD 8) n, false)
  | .blob b => if b.length ≤ 28 then (b, false) else (sha384 b, true)

/-- The record of an accepted dictionary write (R6, R430). -/
def auditWrite (s : State) (role : Role) (index sub : Nat) (old new : DVal) : State :=
  let (o, od) := auditValue index sub old
  let (n, nd) := auditValue index sub new
  auditAppend s (roleCode role) ((if droneOnly s then 1 else 0) + (if od then 2 else 0) + if nd then 4 else 0)
    index sub 0 o n

/-- The record of an admission or a refused admission of a function (R366). -/
def auditAdmission (s : State) (fn : Nat) (jobId : Nat) (status : Status) (digest : List Byte) : State :=
  auditAppend s 4 (if status = 0 then 0 else 8) fn 0 (if status = 0 then 1 else 2) (toLe 8 jobId ++ toLe 2 status) digest

/-! ## Refusals without a code -/

/-- Codes that a refusal never answers: those that chapters call success, and those of alarms alone (R12, R426, R454). -/
def noRefusal : List Nat := [0x0502, 0x0683] ++ (List.range 11).map (0x0B10 + ·) ++ (List.range 7).map (0x0D40 + ·) ++ [0x0E42, 0x0F01]

/-- The status of a refusal that the manual does not name: any failure code that stepping A may return (Table 0.4; log entry
33). -/
def unnamedRefusal (s : State) : Nat :=
  noRefusal.foldl (fun v c => if c ≤ v then v + 1 else v) (1 + Config.freeNat s.fresh % 4073)

/-! ## Pools (R299) -/

/-- The partition whose pool holds a core. -/
def coreOwner (s : State) (core : Nat) : Option Nat := (List.range 32).find? fun n => bit (dnum s (0x4000 + n) 1) core

/-- A partition exists while it holds a core (R300). -/
def partExists (s : State) (part : Nat) : Bool := dnum s (0x4000 + part) 1 ≠ 0

/-- The partition of a function: none for the PF, which acts in any, and for an unassigned VF. -/
def fnPart (s : State) (fn : Nat) : Option Nat :=
  if fn = 0 then none
  else
    let p := dnum s (0x40FF + fn) 1
    if p < 32 then some p else none

/-- The dictionary index of a function's entries (Table 12.2). -/
def fnIndex (fn : Nat) : Nat := if fn = 0 then 0x4020 else 0x40FF + fn

/-- A function may act in a partition: the PF in any, a VF in its own (R297). -/
def mayAct (s : State) (fn part : Nat) : Bool := fn = 0 || fnPart s fn = some part

/-- The function is in reset (R316). -/
def inReset (s : State) (fn : Nat) : Bool := FMap.has s.host.resetting fn || (fn = 0 && s.host.pfReset)

/-! ## Idling -/

/-- The module with one beat passed; the counter wraps after 2⁶⁴ beats, and the drone counter ticks with every hundredth beat (R10, R373). With the 48 V rails off
no beat runs, and the drone counter ticks instead. -/
def idleBeat (s : State) : State :=
  if s.win.pause then { s with win := { s.win with pause := false } }
  else if !droneOnly s then { s with now := (s.now + 1) % 2 ^ 64, drone := if (s.now + 1) % 100 = 0 then s.drone + 1 else s.drone }
  else if s.pwr.aux12 then { s with drone := s.drone + 1 }
  else s

/-! ## Lookups by number -/

/-- A core's state; an unlisted core is as after reset. -/
def coreAt (s : State) (core : Nat) : Core := FMap.getD s.cores core {}
/-- The state with a core changed. -/
def updCore (s : State) (core : Nat) (f : Core → Core) : State :=
  { s with cores := FMap.put {} s.cores core (f (coreAt s core)) }
/-- A cluster's state. -/
def clusterAt (s : State) (c : Nat) : Cluster := FMap.getD s.clusters c {}
/-- The state with a cluster changed. -/
def updCluster (s : State) (c : Nat) (f : Cluster → Cluster) : State :=
  { s with clusters := FMap.put {} s.clusters c (f (clusterAt s c)) }
/-- A partition's state. -/
def partAt (s : State) (part : Nat) : Part := FMap.getD s.parts part {}
/-- The state with a partition changed. -/
def updPart (s : State) (part : Nat) (f : Part → Part) : State :=
  { s with parts := FMap.put {} s.parts part (f (partAt s part)) }
/-- A queue, if it exists. -/
def queueAt (s : State) (q : Nat) : Option Queue := FMap.get? s.queues q
/-- The state with a queue changed. -/
def updQueue (s : State) (q : Nat) (f : Queue → Queue) : State := { s with queues := FMap.modify s.queues q f }
/-- A job, if admitted. -/
def jobAt (s : State) (j : Nat) : Option Job := FMap.get? s.jobs j
/-- The state with a job changed. -/
def updJob (s : State) (j : Nat) (f : Job → Job) : State := { s with jobs := FMap.modify s.jobs j f }
/-- A mailbox; an unlisted one is as after reset. -/
def mboxAt (s : State) (fn : Nat) : Mailbox := FMap.getD s.mbx fn {}
/-- The state with a mailbox changed. -/
def updMbox (s : State) (fn : Nat) (f : Mailbox → Mailbox) : State :=
  { s with mbx := FMap.put {} s.mbx fn (f (mboxAt s fn)) }
/-- The state with one engine changed. -/
def updEngine (s : State) (hub : Hub) (f : Engine → Engine) : State :=
  match hub with
  | .east => { s with sec := { s.sec with east := f s.sec.east } }
  | .west => { s with sec := { s.sec with west := f s.sec.west } }
/-- One hub's engine. -/
def engineAt (s : State) (hub : Hub) : Engine :=
  match hub with
  | .east => s.sec.east
  | .west => s.sec.west

/-- The key of a buffer index of a partition. -/
def bufKey (part index : Nat) : Nat := part * 2 ^ 20 + index

/-- The index field of a handle (Table 5.14). -/
def hIndex (h : Nat) : Nat := h % 2 ^ 20
/-- The generation field of a handle. -/
def hGen (h : Nat) : Nat := h / 2 ^ 20 % 4096
/-- A handle from its fields. -/
def mkHandle (gen index : Nat) : Nat := gen * 2 ^ 20 + index

/-- A buffer version: its key with its generation, as a command holds it (R124). -/
def verKey (key gen : Nat) : Nat := 2 ^ 25 * gen + key
/-- The buffer key of a version. -/
def verBuf (ver : Nat) : Nat := ver % 2 ^ 25
/-- The buffer version that a handle names in a partition. -/
def hVer (part h : Nat) : Nat := verKey (bufKey part (hIndex h)) (hGen h)

end Sys2Proof.Machine
end

