-- ==== Sys2Proof/Machine/Records.lean ====
section
/-! DEFINITION. Command records (R110 to R118): their fields, their reserved bits and the ranges of their fields, as the
layouts of the command chapter give them. A record is 64 bytes, or 128 with its lane-group map. -/

namespace Sys2Proof.Machine

open Sys2Proof

/-! ## Header (Table 5.5) -/

/-- OP. -/
def rOp (r : List Byte) : Nat := field r 0 1
/-- FLAGS bit 0: an extension record follows. -/
def rExt (r : List Byte) : Bool := bit (field r 1 1) 0
/-- FLAGS bit 1. -/
def rIrq (r : List Byte) : Bool := bit (field r 1 1) 1
/-- FLAGS bit 2: opens a commit window. -/
def rHold (r : List Byte) : Bool := bit (field r 1 1) 2
/-- TARGET. -/
def rTarget (r : List Byte) : Nat := field r 2 1
/-- The core that TARGET names, 4c + k. -/
def rCore (r : List Byte) : Nat := bits (rTarget r) 4 0
/-- The tile mover that TARGET names. -/
def rMover (r : List Byte) : Nat := bits (rTarget r) 6 5
/-- SEQ. -/
def rSeq (r : List Byte) : Nat := field r 4 4
/-- TAG. -/
def rTag (r : List Byte) : Nat := field r 8 4
/-- LAYER. -/
def rLayer (r : List Byte) : Nat := field r 12 2
/-- A handle field at byte `o`. -/
def rH (r : List Byte) (o : Nat) : Nat := field r o 4
/-- A ring field at byte `o`. -/
def rRing (r : List Byte) (o : Nat) : Nat := field r o 3
/-- The ring field's value for none (R111). -/
def noRing : Nat := 0xFFFFFF

/-- Opcodes with an extension record (R110). -/
def opTwo (op : Nat) : Bool := op = 1 || op = 3
/-- Opcodes of Table 5.6. -/
def opKnown (op : Nat) : Bool := (1 ≤ op && op ≤ 11) || op = 13 || op = 15
/-- Opcodes that a ring may carry (Table 5.6). -/
def opRing (op : Nat) : Bool := op = 4 || op = 5 || op = 6 || op = 9 || op = 10 || op = 11 || op = 15
/-- Opcodes that a stream may carry (Table 5.6). -/
def opStream (op : Nat) : Bool := opKnown op && op ≠ 9 && op ≠ 11
/-- Opcodes whose TARGET names a core: those of an engine (Table 5.6). -/
def opEngine (op : Nat) : Bool := op = 1 || op = 2 || op = 3 || op = 4 || op = 7

/-! ## Lane-group map (R60) -/

/-- Entry of lane group `g`: bytes 64 + 4g on. -/
def laneEntry (r : List Byte) (g : Nat) : Nat := field r (64 + 4 * g) 4
/-- ACTIVE. -/
def laneActive (r : List Byte) (g : Nat) : Bool := bit (laneEntry r g) 31
/-- REED. -/
def laneReed (r : List Byte) (g : Nat) : Bool := bit (laneEntry r g) 30
/-- CONTEXT. -/
def laneCtx (r : List Byte) (g : Nat) : Nat := bits (laneEntry r g) 27 16
/-- TOKENS. -/
def laneTokens (r : List Byte) (g : Nat) : Nat := bits (laneEntry r g) 5 0
/-- The sixteen lane groups. -/
def laneGroups : List Nat := List.range 16

/-- An entry that R60 allows. -/
def laneOk (r : List Byte) (g : Nat) : Bool :=
  bits (laneEntry r g) 29 28 = 0 && bits (laneEntry r g) 15 6 = 0
    && (if laneActive r g then 1 ≤ laneTokens r g && laneTokens r g ≤ 32 else laneTokens r g = 0 && !laneReed r g)
    && (laneReed r g || laneCtx r g = 0)

/-- M of R63: the live tokens of the map. -/
def laneLive (r : List Byte) : Nat := (laneGroups.map (laneTokens r)).sum

/-- Column t carries a live token (R60, R61). -/
def tokenLive (r : List Byte) (t : Nat) : Bool := laneActive r (t / 32) && t % 32 < laneTokens r (t / 32)

/-- The lane groups that a reed context covers. -/
def covered (r : List Byte) : List Nat := laneGroups.filter (laneReed r)

/-! ## ARRAY (Table 5.7) -/

/-- MODE bit `n`. -/
def aMode (r : List Byte) (n : Nat) : Bool := bit (field r 54 1) n
/-- GROUPED. -/
def aGrouped (r : List Byte) : Bool := aMode r 1
/-- FP32OUT. -/
def aFp32 (r : List Byte) : Bool := aMode r 2
/-- ZERO_K. -/
def aZeroK (r : List Byte) : Bool := aMode r 3
/-- CARRY_IN. -/
def aCarryIn (r : List Byte) : Bool := aMode r 4
/-- CARRY_OUT. -/
def aCarryOut (r : List Byte) : Bool := aMode r 5
/-- ODD_LAST. -/
def aOddLast (r : List Byte) : Bool := aMode r 6
/-- Passes P. -/
def aPasses (r : List Byte) : Nat := field r 48 2 + 1
/-- Columns per pass. -/
def aCols (r : List Byte) : Nat := field r 50 2 + 1
/-- Passes per reduction. -/
def aRed (r : List Byte) : Nat := field r 52 2 + 1
/-- Depth of each reduction's last block. -/
def aLastKb (r : List Byte) : Nat := bits (field r 46 2) 8 0 + 1
/-- Declared reduction length (R33). -/
def aKDecl (r : List Byte) : Nat := field r 60 4 + 1
/-- Pass `i` runs in W4A8 (PMODE, MODE bit 0). -/
def aW4 (r : List Byte) (i : Nat) : Bool := if field r 36 4 = 0 then aMode r 0 else bit (field r 36 4) (i % 32)
/-- Reductions of the command. -/
def aReds (r : List Byte) : Nat := aPasses r / aRed r
/-- Reduction length of each reduction. -/
def aK (r : List Byte) : Nat := if aZeroK r then 0 else 512 * (aRed r - 1) + aLastKb r
/-- Block depth of the pass at position `p` of its reduction. -/
def aDepth (r : List Byte) (p : Nat) : Nat := if p + 1 = aRed r then aLastKb r else 512
/-- Output features of reduction `d`. -/
def aFeat (r : List Byte) (d : Nat) : Nat :=
  if aZeroK r then aCols r else if aW4 r (d * aRed r) then 2 * aCols r - (if aOddLast r then 1 else 0) else aCols r
/-- The command's first feature of reduction `d`. -/
def aBase (r : List Byte) (d : Nat) : Nat := ((List.range d).map (aFeat r)).sum
/-- Output features of the command, the features of a last reduction that carries out included. -/
def aFeats (r : List Byte) : Nat := aBase r (aReds r)
/-- Reduction `d` is final (R112). -/
def aFinal (r : List Byte) (d : Nat) : Bool := !(aCarryOut r && d + 1 = aReds r)
/-- Weight tiles: T of R149 for the columns that the command streams. -/
def aTiles (r : List Byte) : Nat := ceilDiv (aPasses r * aCols r) 128
/-- Cycles from a pass's first column to the next one's: its columns, the idle cycles of R59 and those of a grouped pass. -/
def aPassCycles (r : List Byte) : Nat := aCols r + (48 - aCols r) + if aGrouped r then 8 else 0
/-- S of R70: columns and bubbles between passes. -/
def aS (r : List Byte) : Nat := aPasses r * aCols r + (aPasses r - 1) * (48 - aCols r)
/-- T of R70 and R71; 12 cycles for K = 0 (R63). -/
def aCycles (r : List Byte) (chained : Bool) : Nat :=
  if aZeroK r then 12
  else aS r + (if chained then 25 else 57) + (if aGrouped r then 8 * aPasses r else 0)
/-- Bubble cycles of an unkilled command (Table 3.7). -/
def aBubbles (r : List Byte) : Nat :=
  if aZeroK r then 0 else (aPasses r - 1) * (48 - aCols r) + (if aGrouped r then 8 * aPasses r else 0)

/-! ## Reserved fields (R8) -/

/-- Bytes that are reserved after the header, as offset and length, by opcode. -/
def reservedBytes (op : Nat) : List (Nat × Nat) :=
  match op with
  | 1 => [(55, 1)]
  | 2 => [(20, 4), (59, 5)]
  | 3 => [(17, 3), (51, 1), (55, 1), (59, 5)]
  | 4 => [(18, 2)]
  | 5 => [(17, 3), (40, 24)]
  | 6 => [(16, 48)]
  | 7 => [(51, 1)]
  | 8 => [(20, 44)]
  | 9 => [(19, 1), (28, 36)]
  | 10 => [(20, 44)]
  | 11 => [(20, 4), (56, 8)]
  | 13 => [(27, 37)]
  | 15 => [(16, 48)]
  | _ => []

/-- Every reserved field of a record is 0 (R8). -/
def reservedOk (r : List Byte) : Bool :=
  bits (field r 1 1) 7 3 = 0 && field r 3 1 = 0 && field r 14 2 = 0
    && ((reservedBytes (rOp r)).all fun p => allZero (slice r p.1 p.2))
    && (rOp r ≠ 1 || (bits (field r 46 2) 15 9 = 0 && !aMode r 7))
    && (rOp r ≠ 5 || (bits (field r 20 4) 31 28 = 0 && (field r 16 1 ≠ 5 || bits (field r 24 8) 63 1 = 0)))

/-! ## Ranges (R111 to R118) -/

/-- TARGET and LAYER fit the opcode (Table 5.5). -/
def headerOk (r : List Byte) : Bool :=
  (if rOp r = 4 then rTarget r < 128 else if opEngine (rOp r) then rTarget r < 32 else rTarget r = 0)
    && (rOp r = 1 || rOp r = 3 || rLayer r = 0)

/-- The passes of each reduction take one mode (R112). -/
def aModesOk (r : List Byte) : Bool :=
  field r 36 4 = 0 ||
    (List.range (min (aReds r) 32)).all fun d => (List.range (min (aRed r) 32)).all fun p => aW4 r (d * aRed r + p) == aW4 r (d * aRed r)

/-- ARRAY fields in range (R112, R60, R63). -/
def arrayOk (r : List Byte) : Bool :=
  let carry := rH r 28
  laneGroups.all (laneOk r) && 0 < laneLive r && 0 < aFeat r 0
    && aPasses r % aRed r = 0 && aModesOk r
    && ((rRing r 43 = noRing) == aFp32 r)
    && (if aZeroK r then !aCarryIn r && !aCarryOut r && aPasses r = 1 && aRed r = 1 && rH r 16 = 0 && rH r 20 = 0 && rH r 56 = 0 && rRing r 40 = noRing
          && field r 60 4 = 0
        else rH r 16 ≠ 0 && rH r 20 ≠ 0 && rRing r 40 ≠ noRing)
    && (if aGrouped r then !aCarryIn r && !aCarryOut r && carry < 2 ^ 24 && (256 < aRed r || carry = 0)
        else (carry ≠ 0) == (1 < aRed r || aCarryIn r || aCarryOut r))
    && (rH r 24 ≠ 0 || (aCarryOut r && aReds r = 1))

/-- VECTOR fields in range (R113). -/
def vectorOk (r : List Byte) : Bool := rH r 16 ≠ 0

/-- REED fields in range (R114, R60). -/
def reedOk (r : List Byte) : Bool :=
  let kind := field r 16 1
  laneGroups.all (laneOk r) && 1 ≤ kind && kind ≤ 4 && 1 ≤ field r 40 4 && 1 ≤ field r 44 4
    && ((rH r 32 ≠ 0) == (kind = 2)) && ((rH r 36 ≠ 0) == (kind = 1 || kind = 3))
    && (kind ≠ 4 || rH r 24 = 0) && ((kind = 2) == (rRing r 48 ≠ noRing)) && ((kind = 2) == (rRing r 52 ≠ noRing))
    && ((kind = 4) == (rRing r 56 ≠ noRing))
    && (kind = 2 || kind = 4 || ((covered r).all fun g => laneCtx r g = laneCtx r ((covered r).headD 0)))

/-- MOVE fields in range (R115). -/
def moveOk (r : List Byte) : Bool :=
  field r 16 1 ≤ 1 && field r 17 1 ≤ 3 && rH r 20 ≠ 0 && rH r 24 ≠ 0
    && field r 28 8 % 64 = 0 && field r 36 8 % 64 = 0 && 64 ≤ field r 44 4 && field r 44 4 % 64 = 0
    && 1 ≤ field r 56 4 && (field r 56 4 ≠ 1 || (field r 48 4 = 0 && field r 52 4 = 0))

/-- SYNC operation known (R116). -/
def syncOk (r : List Byte) : Bool := 1 ≤ field r 16 1 && field r 16 1 ≤ 9

/-- SWEEP fields in range (R117). -/
def sweepOk (r : List Byte) : Bool :=
  1 ≤ field r 52 4 && 1 ≤ field r 56 4 && ((rH r 44 ≠ 0) == (rH r 60 ≠ 0))
    && rH r 16 ≠ 0 && rH r 20 ≠ 0 && rH r 36 ≠ 0 && rH r 40 ≠ 0 && rRing r 48 ≠ noRing

/-- ALLOC tier and class in range (Table 5.13); size and alignment have a code of their own (0x0203). -/
def allocOk (r : List Byte) : Bool :=
  let tier := field r 16 1
  let cls := field r 17 1
  (tier = 1 || tier = 2) && (cls = 0 || cls = 2 || (cls = 3 && tier = 1))

/-- ALLOC size and alignment in range (Table 5.13). -/
def allocSizeOk (r : List Byte) : Bool :=
  let align := field r 18 1
  let size := field r 20 8
  6 ≤ align && align ≤ 16 && 64 ≤ size && size ≤ 2 ^ 36 && size % 64 = 0

/-- STEP fields in range (Table 5.13, R228). -/
def stepOk (r : List Byte) : Bool :=
  rH r 16 ≠ 0 && 1 ≤ field r 20 4 && field r 20 4 ≤ 4194304 && field r 24 3 + 2 < 2 ^ 24

/-- Every field of a record in its stated range. A handle field that the layouts do not call optional is not 0: MOVE SRC and
DST, SWEEP W, G, CONST and EPROG, VECTOR PROG, STEP RINGLIST, ARRAY STAT, WGT and OUT (DESIGN CHOICE: the tables do not say
that 0 is refused; log entry 135). -/
def fieldsOk (r : List Byte) : Bool :=
  headerOk r &&
  match rOp r with
  | 1 => arrayOk r
  | 2 => vectorOk r
  | 3 => reedOk r
  | 4 => moveOk r
  | 5 => syncOk r
  | 7 => sweepOk r
  | 9 => allocOk r
  | 13 => stepOk r
  | _ => true

/-! ## Handle and ring fields -/

/-- Offsets of the handle fields of a record, in table order. -/
def handleFields (r : List Byte) : List Nat :=
  match rOp r with
  | 1 => [16, 20, 24] ++ (if aGrouped r then [] else [28]) ++ [32, 56]
  | 2 => [16, 24, 28, 32, 36, 40, 44, 48, 52]
  | 3 => [20, 24, 28, 32, 36]
  | 4 => [20, 24]
  | 7 => [16, 20, 24, 28, 32, 36, 40, 44, 60]
  | 10 => [16]
  | 11 => [24, 28, 32, 36, 40, 44, 48, 52]
  | 13 => [16]
  | _ => []

/-- Offsets of the ring fields of a record. -/
def ringFields (op : Nat) : List Nat :=
  match op with
  | 1 => [40, 43]
  | 2 => [56]
  | 3 => [48, 52, 56]
  | 7 => [48]
  | _ => []

/-- Offsets of the handle fields of the buffers that a command writes. -/
def writeFields (r : List Byte) : List Nat :=
  match rOp r with
  | 1 => [24] ++ (if !aGrouped r && (1 < aRed r || aCarryOut r) then [28] else [])
  | 2 => [24, 28, 32, 36, 40, 44, 48, 52]
  | 3 => match field r 16 1 with
    | 2 => [32]
    | 4 => [28]
    | _ => [36]
  | 4 => [24]
  | 7 => [16, 24, 28, 32]
  | _ => []

/-- The commands' fields as `Cmd` gives them. -/
def Cmd.op (c : Cmd) : Nat := rOp c.bytes
/-- SEQ of a command. -/
def Cmd.seq (c : Cmd) : Nat := rSeq c.bytes
/-- Core of a command. -/
def Cmd.core (c : Cmd) : Nat := rCore c.bytes
/-- A command that is finished. -/
def Cmd.done (c : Cmd) : Bool :=
  match c.state with
  | .finished _ => true
  | _ => false

end Sys2Proof.Machine
end

