-- ==== Sys2Proof/Machine/Operands.lean ====
section
/-! DEFINITION. What a command reads: buffers through staging and snapshots (R126), scale rings, contexts, declared
reductions. -/

namespace Sys2Proof.Machine

open Sys2Proof

/-! ## Buffers -/

/-- The committed contents of a buffer: the HBM copy of a tiered object while one holds it, else the buffer's own bytes
(R159). -/
def committed (s : State) (key : Nat) : Mem :=
  match FMap.get? s.tiered key with
  | some t =>
    match t.state with
    | .resident => t.copy
    | .pinned => t.copy
    | .evicting => t.copy
    | _ => ((FMap.get? s.bufs key).map Buf.data).getD []
  | none => ((FMap.get? s.bufs key).map Buf.data).getD []

/-- A memory with the staged writes to one buffer version applied in order. -/
def overlayWrites (m : Mem) (ver : Nat) (ws : List StageWrite) : Mem :=
  ws.foldl (fun m w => if w.buf = ver then m.write w.off w.data else m) m

/-- The staged writes that a command of a queue sees: its predecessors' and its own, oldest first (R126). -/
def visibleWrites (Q : Queue) (uid : Nat) : List StageWrite :=
  (Q.cmds.filter fun c => c.uid ≤ uid).flatMap Cmd.staged

/-- A buffer version as a command sees it: the contents it started with, under the staging it sees (R126). Staging for an
earlier or a later generation of the index is no part of it. -/
def viewOf (Q : Queue) (c : Cmd) (ver : Nat) : Mem :=
  overlayWrites (FMap.getD c.views ver []) ver (visibleWrites Q c.uid)

/-- `n` bytes that a command reads of the buffer named by a handle, from offset `off`; none for handle 0. -/
def readH (Q : Queue) (c : Cmd) (h off n : Nat) : List Byte :=
  if h = 0 then zeros n else (viewOf Q c (hVer Q.part h)).read off n

/-- The byte that a command reads. -/
def byteH (Q : Queue) (c : Cmd) (h off : Nat) : Byte := (readH Q c h off 1).headD 0

/-- The little-endian word of `n` bytes that a command reads. -/
def wordH (Q : Queue) (c : Cmd) (h off n : Nat) : Nat := leNat (readH Q c h off n)

/-- The FP32 word that a command reads. -/
def fpH (Q : Queue) (c : Cmd) (h off : Nat) : W32 := BitVec.ofNat 32 (wordH Q c h off 4)

/-- The INT8 code that a command reads. -/
def codeH (Q : Queue) (c : Cmd) (h off : Nat) : Int := (byteH Q c h off).toInt

/-- A staged write that the command sees covers a whole 64-bit word of a buffer. -/
def rewritten (Q : Queue) (c : Cmd) (key word : Nat) : Bool :=
  (visibleWrites Q c.uid).any fun w => verBuf w.buf = key && w.off ≤ 8 * word && 8 * word + 8 ≤ w.off + w.data.length

/-- The poisoned word that a command meets which reads `n` bytes of a buffer from `off` (R436). -/
def poisonIn (s : State) (Q : Queue) (c : Cmd) (key off n : Nat) : Option (Nat × Nat) :=
  s.rel.poison.find? fun w => w.1 = key && 8 * w.2 < off + n && off < 8 * w.2 + 8 && !rewritten Q c key w.2

/-- A staged write through a handle. -/
def writeH (Q : Queue) (h off : Nat) (data : List Byte) : StageWrite := ⟨hVer Q.part h, off, data⟩

/-- The live buffer behind a handle in a partition. -/
def bufAt (s : State) (part h : Nat) : Option Buf := FMap.get? s.bufs (bufKey part (hIndex h))

/-- The size of the buffer behind a handle; 0 where none is live. -/
def bufSize (s : State) (part h : Nat) : Nat := ((bufAt s part h).map Buf.size).getD 0

/-! ## Commands of a queue -/

/-- An earlier command of the queue that has not finished writes a buffer that this command uses: its data waits (R126). -/
def hazard (Q : Queue) (c : Cmd) : Bool :=
  Q.cmds.any fun d => d.uid < c.uid && !d.done && d.writes.any c.uses.contains

/-- The oldest command of a queue that has started and not finished and for which `p` holds, where its data is there. -/
def runningCmd (Q : Queue) (p : Cmd → Bool) : Option Cmd :=
  (Q.cmds.find? fun c => c.state = .started && p c).filter fun c => !hazard Q c

/-- A command by number. -/
def cmdAt (Q : Queue) (uid : Nat) : Option Cmd := Q.cmds.find? fun c => c.uid = uid

/-- The state with a command of a queue changed. -/
def updCmd (s : State) (q uid : Nat) (f : Cmd → Cmd) : State :=
  updQueue s q fun Q => { Q with cmds := Q.cmds.map fun c => if c.uid = uid then f c else c }

/-! ## Rings, reductions, contexts -/

/-- SCALE of a job's ring; +0.0 where the job has none. -/
def ringScale (J : Job) (i : Nat) : W32 := ((FMap.get? J.rings i).map Ring.scale).getD 0
/-- RECIP of a job's ring. -/
def ringRecip (J : Job) (i : Nat) : W32 := ((FMap.get? J.rings i).map Ring.recip).getD 0

/-- The declaration of a reduction (REDS). -/
def redDecl (J : Job) (id : Nat) : Option RedDecl := J.reds.find? fun d => d.id = id

/-- A bound context's target for a layer (R90). -/
def ctxTarget (x : Ctx) (layer : Nat) : Option ReedTarget := x.targets.find? fun t => t.layer = layer

end Sys2Proof.Machine
end

