-- ==== Sys2Proof/Machine/Address.lean ====
section
/-! DEFINITION. Addresses and routes: core-store banks, the maps from a partition's addresses to quarters and channels, the
slots of the base area, the crook links between two dies, and what one access of a command touches (R16, R20, R21, R140,
R146 to R148, R181). Log entries are notes/assumptions/<n>.md. -/

namespace Sys2Proof.Machine

open Sys2Proof

/-! ## Units of a partition (R143) -/

/-- The owned quarters in ascending order: U of R146. -/
def quarters (s : State) (part : Nat) : List Nat := bitList 64 (dnum s (0x5000 + part) 1)
/-- The channel list L of R148: Dp and then Dp+32 for each owned pair. -/
def channelsOf (s : State) (part : Nat) : List Nat := (bitList 32 (dnum s (0x5000 + part) 2)).flatMap fun p => [p, p + 32]

/-! ## Address maps (R140, R146, R148) -/

/-- The bank of a core-store address (R140). -/
def bankOf (a : Nat) : Nat := a / 512 % 32

/-- The HBM channel, numbered 32 × stack + channel, of the 512-byte unit `w` of a partition's range: in quarter
U[(A >> 12) mod n_q], channel (A >> 9) mod 8 of it (R143, R146). -/
def hbmUnit (s : State) (part w : Nat) : Nat :=
  let u := quarters s part
  8 * u.getD (w / 8 % u.length) 0 + w % 8

/-- The LPDDR channel of the 1 KiB granule `g` of a partition's capacity range (R148). -/
def capUnit (s : State) (part g : Nat) : Nat :=
  let l := channelsOf s part
  l.getD (g % l.length) 0

/-- The offset of a capacity-range address within its channel (R148). -/
def capOffset (s : State) (part a : Nat) : Nat := a / 1024 / (channelsOf s part).length * 1024 + a % 1024

/-- Bytes of the fixed part of the metadata region (R147). -/
def metaBytes : Nat := 134217728

/-- The tiles of a base that precede a tensor's buffer, in table order. -/
def tilesBefore (ts : List Tensor) (index : Nat) : Nat := ((ts.takeWhile fun t => t.index ≠ index).map Tensor.tiles).sum

/-- The quarter of base tile `g` and the offset of its 64 KiB slot in that quarter: above the quarter's share of the metadata
region (R181). -/
def baseSlot (s : State) (part g : Nat) : Nat × Nat :=
  let u := quarters s part
  let i := g % u.length
  let share := 4096 * ((metaBytes / 4096 + u.length - 1 - i) / u.length)
  (u.getD i 0, roundUp share 65536 + 65536 * (g / u.length))

/-- `n` numbers from `a` up to but not with `b`, at most `most` of them. -/
def rangeOf (a b most : Nat) : List Nat := (List.range (min (b - a) most)).map (a + ·)

/-- Where a buffer's committed contents lie: its tier and first byte, or the HBM copy of a tiered object while one is used
(R155, R159). -/
def homeOf (s : State) (key : Nat) (b : Buf) : Nat × Nat :=
  match FMap.get? s.tiered key with
  | some t => if t.state = .resident || t.state = .evicting || t.state = .pinned then (1, t.copyAddr) else (b.tier, b.addr)
  | none => (b.tier, b.addr)

/-- The HBM channels that bytes [lo, hi) of a buffer touch. A base buffer's tile lies with its sidecar in one quarter, over
all eight channels (R146, R181). -/
def hbmTouched (s : State) (part key addr lo hi : Nat) (b : Buf) : List Nat :=
  if b.base then
    let first := tilesBefore (partAt s part).tensors (key % 2 ^ 20)
    let n := b.size / 66560
    ((rangeOf (min n (lo / 65536)) (min n (ceilDiv hi 65536)) (quarters s part).length).flatMap fun t =>
      (List.range 8).map fun ch => 8 * (baseSlot s part (first + t)).1 + ch).eraseDups
  else (rangeOf ((addr + lo) / 512) (ceilDiv (addr + hi) 512) (8 * (quarters s part).length)).map (hbmUnit s part)

/-- The LPDDR channels that bytes [lo, hi) of a buffer touch. -/
def capTouched (s : State) (part addr lo hi : Nat) : List Nat :=
  (rangeOf ((addr + lo) / 1024) (ceilDiv (addr + hi) 1024) (channelsOf s part).length).map (capUnit s part)

/-! ## Routes (R16, R18) -/

/-- The crook links from one compute die to another: along the source column, then across the row (R16). -/
def dieRoute (a b : Nat) : List Nat :=
  let col := a / 4
  let lo := min (a % 4) (b % 4)
  let hi := max (a % 4) (b % 4)
  ((List.range (hi - lo)).map fun i => 8 + 3 * col + lo + i) ++ if a / 4 = b / 4 then [] else [14 + b % 4]

/-- The crook links from a hub to a compute die, and back (R16). -/
def hubRoute (hub c : Nat) : List Nat := (4 * hub + c % 4) :: if c / 4 = hub then [] else [14 + c % 4]

/-- A crook link is in service. -/
def linkUp (s : State) (n : Nat) : Bool := dnum s (0xB400 + n) 3 = 1

/-! ## One access of a command -/

/-- A command's access to a buffer: its key, the bytes [lo, hi), whether it reads and whether it writes them. -/
structure Access where
  key : Nat
  lo : Nat
  hi : Nat
  reads : Bool
  writes : Bool
  deriving DecidableEq, Repr

/-- The routes between a core's cluster and a die: toward the core for a read, from it for a write (R16). -/
def dieRoutes (a : Access) (die cluster : Nat) : List Nat :=
  (if a.reads then dieRoute die cluster else []) ++ if a.writes then dieRoute cluster die else []

/-- The crook links that an access of a core crosses, and whether every channel that it touches is in service (R16, R20, R21,
R162). -/
def accessPath (s : State) (part core : Nat) (a : Access) : List Nat × Bool :=
  match FMap.get? s.bufs a.key with
  | none => ([], true)
  | some b =>
    if a.hi ≤ a.lo then ([], true)
    else
      let (tier, addr) := homeOf s a.key b
      let c := core / 4
      match tier with
      | 0 => (dieRoutes a (b.core / 4) c, true)
      | 1 =>
        let l := hbmTouched s part a.key addr a.lo a.hi b
        (l.flatMap fun ch => dieRoutes a (ch / 64) c, l.all fun ch => !s.rel.hbmOut.contains ch)
      | _ =>
        let l := capTouched s part addr a.lo a.hi
        (l.flatMap fun ch => hubRoute (ch / 32) c, l.all fun ch => !s.rel.lpddrOut.contains ch)

/-- What the paths of a command's accesses answer: 0x0B03 for a route that crosses a link out of service, 0x0685 for a channel
out of service (R18, R162). -/
def pathStatus (s : State) (part core : Nat) (l : List Access) : Status :=
  let ps := l.map (accessPath s part core)
  if ps.any fun p => !p.1.all (linkUp s) then 0x0B03 else if ps.any fun p => !p.2 then 0x0685 else 0

/-! ## Addresses of buffers -/

/-- An address of a multiple of `align` for `size` bytes between `base` and `top`. Which one the module takes is not stated:
it is free, and nothing keeps two of them apart (log entry 125). -/
def freeAddr (s : State) (base top size align : Nat) : Nat :=
  base + align * (Config.freeNat s.fresh % ((top - base - size) / align + 1))

/-- The address that a new buffer takes: in the 40 MiB of its core store, above the metadata region in HBM, anywhere in the
capacity range. -/
def newAddr (s : State) (part tier size align : Nat) : Nat :=
  match tier with
  | 0 => freeAddr s 0 41943040 size align
  | 1 => freeAddr s metaBytes (dnum s (0x5000 + part) 3) size align
  | _ => freeAddr s 0 (dnum s (0x5000 + part) 4) size align

/-! ## Bytes of a partition's HBM range -/

/-- The live buffer that holds an address of a partition's HBM range, with the offset in it. -/
def hbmOwner (s : State) (part a : Nat) : Option (Nat × Nat) :=
  (s.bufs.find? fun e => e.1 / 2 ^ 20 = part && e.2.tier = 1 && !e.2.base && e.2.addr ≤ a && a < e.2.addr + e.2.size).map
    fun e => (e.1, a - e.2.addr)

/-- `n` bytes of a partition's HBM range that a ring occupies: the committed bytes of the buffer there, else what the module
has placed there. -/
def hbmRead (s : State) (part a n : Nat) : List Byte :=
  match hbmOwner s part a with
  | some (key, off) => (committed s key).read off n
  | none => s.hbm.read (2 ^ 40 * part + a) n

end Sys2Proof.Machine
end

