-- ==== Sys2Proof/Machine/Fp32.lean ====
section
/-! DEFINITION. FP32 arithmetic (R25, R31): every operation computes its result exactly, as a fraction in units of 2^-149,
and rounds once to nearest, ties to even. Subnormals are kept; every NaN result is 0x7FC0_0000. -/

namespace Sys2Proof

/-- The canonical NaN (R31). -/
def Fp.nan : W32 := 0x7FC00000

/-- Sign bit. -/
def Fp.neg (x : W32) : Bool := x.getLsbD 31

/-- The word without its sign: exponent and fraction as a number. -/
def Fp.mag (x : W32) : Nat := x.toNat % 2 ^ 31

/-- NaN of any encoding. -/
def Fp.isNan (x : W32) : Bool := 0x7F800000 < Fp.mag x

/-- Either infinity. -/
def Fp.isInf (x : W32) : Bool := Fp.mag x = 0x7F800000

/-- Either zero. -/
def Fp.isZero (x : W32) : Bool := Fp.mag x = 0

/-- Neither NaN nor infinity. -/
def Fp.isFin (x : W32) : Bool := Fp.mag x < 0x7F800000

/-- Non-finite for flags (R31): NaN, infinity, or magnitude 2^100 or more. -/
def Fp.nonfinite (x : W32) : Bool := 0x71800000 ≤ Fp.mag x

/-- The magnitude of a finite value in units of 2^-149. -/
def Fp.units (x : W32) : Nat :=
  let e := Fp.mag x / 2 ^ 23
  let f := Fp.mag x % 2 ^ 23
  if e = 0 then f else (2 ^ 23 + f) * 2 ^ (e - 1)

/-- A finite value in units of 2^-149. -/
def Fp.value (x : W32) : Int := if Fp.neg x then -(Fp.units x : Int) else Fp.units x

/-- A word from its sign and magnitude bits. -/
def Fp.mk (neg : Bool) (mag : Nat) : W32 := BitVec.ofNat 32 ((if neg then 2 ^ 31 else 0) + mag)

/-- Infinity with a sign. -/
def Fp.inf (neg : Bool) : W32 := Fp.mk neg 0x7F800000

/-- Zero with a sign. -/
def Fp.zero (neg : Bool) : W32 := Fp.mk neg 0

/-- Nearest integer to `n / d`, ties to even (rne_int of R31). -/
def rneDiv (n d : Nat) : Nat :=
  let q := n / d
  let r := n % d
  if 2 * r < d then q else if d < 2 * r then q + 1 else q + q % 2

/-- Magnitude bits of the FP32 value nearest to `num / den` units of 2^-149, ties to even; overflow gives infinity. -/
def Fp.roundMag (num den : Nat) : Nat :=
  let q := num / den
  let s := if q < 2 ^ 24 then 0 else Nat.log2 q - 23
  min (s * 2 ^ 23 + rneDiv num (den * 2 ^ s)) 0x7F800000

/-- rne of a signed fraction in units of 2^-149; an exact zero is +0.0. -/
def Fp.round (num : Int) (den : Nat) : W32 :=
  if num = 0 then 0 else Fp.mk (num < 0) (Fp.roundMag num.natAbs den)

/-- rne of an integer. -/
def Fp.ofInt (i : Int) : W32 := Fp.round (i * (2 ^ 149 : Nat)) 1

/-- rne of a natural fraction. -/
def Fp.ofFrac (n d : Nat) : W32 := Fp.round ((n * 2 ^ 149 : Nat) : Int) d

/-- The exact power of two 2^k as FP32, for −149 ≤ k ≤ 127. -/
def Fp.pow2 (k : Int) : W32 := Fp.mk false (Fp.roundMag (2 ^ (k + 149).toNat) 1)

/-- Negation changes the sign bit; a NaN gives the canonical NaN. -/
def Fp.negate (x : W32) : W32 := if Fp.isNan x then Fp.nan else Fp.mk (!Fp.neg x) (Fp.mag x)

/-- Magnitude; a NaN gives the canonical NaN. -/
def Fp.abs (x : W32) : W32 := if Fp.isNan x then Fp.nan else Fp.mk false (Fp.mag x)

/-- rne(x + y). -/
def Fp.add (x y : W32) : W32 :=
  if Fp.isNan x || Fp.isNan y then Fp.nan
  else if Fp.isInf x then if Fp.isInf y && Fp.neg x != Fp.neg y then Fp.nan else x
  else if Fp.isInf y then y
  else if Fp.isZero x && Fp.isZero y then Fp.zero (Fp.neg x && Fp.neg y)
  else Fp.round (Fp.value x + Fp.value y) 1

/-- rne(x − y). -/
def Fp.sub (x y : W32) : W32 := if Fp.isNan y then Fp.nan else Fp.add x (Fp.negate y)

/-- rne(x × y). -/
def Fp.mul (x y : W32) : W32 :=
  let s := Fp.neg x != Fp.neg y
  if Fp.isNan x || Fp.isNan y then Fp.nan
  else if Fp.isInf x || Fp.isInf y then if Fp.isZero x || Fp.isZero y then Fp.nan else Fp.inf s
  else Fp.mk s (Fp.roundMag (Fp.units x * Fp.units y) (2 ^ 149))

/-- rne(x × y + z), rounded once (R31). -/
def Fp.fma (x y z : W32) : W32 :=
  let s := Fp.neg x != Fp.neg y
  if Fp.isNan x || Fp.isNan y || Fp.isNan z then Fp.nan
  else if Fp.isInf x || Fp.isInf y then
    if Fp.isZero x || Fp.isZero y then Fp.nan
    else if Fp.isInf z && Fp.neg z != s then Fp.nan else Fp.inf s
  else if Fp.isInf z then z
  else if Fp.units x * Fp.units y = 0 && Fp.isZero z then Fp.zero (s && Fp.neg z)
  else Fp.round (Fp.value x * Fp.value y + Fp.value z * (2 ^ 149 : Nat)) (2 ^ 149)

/-- rne(x / y). -/
def Fp.div (x y : W32) : W32 :=
  let s := Fp.neg x != Fp.neg y
  if Fp.isNan x || Fp.isNan y then Fp.nan
  else if Fp.isInf x then if Fp.isInf y then Fp.nan else Fp.inf s
  else if Fp.isInf y then Fp.zero s
  else if Fp.isZero y then if Fp.isZero x then Fp.nan else Fp.inf s
  else Fp.mk s (Fp.roundMag (Fp.units x * 2 ^ 149) (Fp.units y))

/-- Greatest `r` with `r * r ≤ n`, bit by bit from bit `k` down. -/
def isqrtFrom (n k r : Nat) : Nat :=
  match k with
  | 0 => r
  | k + 1 => isqrtFrom n k (if (r + 2 ^ k) * (r + 2 ^ k) ≤ n then r + 2 ^ k else r)

/-- Integer square root. -/
def isqrt (n : Nat) : Nat := isqrtFrom n (Nat.log2 n / 2 + 1) 0

/-- Magnitude bits of the FP32 value nearest to the square root of `n / d`, in units of 2^-149: 64 further bits and a
sticky bit decide the rounding. -/
def Fp.sqrtMag (n d : Nat) : Nat :=
  let r := isqrt (n * 2 ^ 128 / d)
  Fp.roundMag (2 * r + (if r * r * d = n * 2 ^ 128 then 0 else 1)) (2 ^ 65)

/-- rne of the square root; −0.0 gives −0.0, a negative value gives NaN. -/
def Fp.sqrt (x : W32) : W32 :=
  if Fp.isNan x then Fp.nan
  else if Fp.isZero x then x
  else if Fp.neg x then Fp.nan
  else if Fp.isInf x then x
  else Fp.mk false (Fp.sqrtMag (Fp.units x * 2 ^ 149) 1)

/-- rne of 1 / √x. -/
def Fp.rsqrt (x : W32) : W32 :=
  if Fp.isNan x then Fp.nan
  else if Fp.isZero x then Fp.inf (Fp.neg x)
  else if Fp.neg x then Fp.nan
  else if Fp.isInf x then 0
  else Fp.mk false (Fp.sqrtMag (2 ^ 447) (Fp.units x))

/-- FP32 1.0. -/
def Fp.one : W32 := 0x3F800000

/-- rne(1 / x). -/
def Fp.rcp (x : W32) : W32 := Fp.div Fp.one x

/-- A total order on words other than NaN in which −0.0 lies below +0.0 (R44). -/
def Fp.key (x : W32) : Int := if Fp.neg x then -(Fp.mag x : Int) - 1 else Fp.mag x

/-- max of R44: −0.0 below +0.0, any NaN gives the canonical NaN. -/
def Fp.max (x y : W32) : W32 :=
  if Fp.isNan x || Fp.isNan y then Fp.nan else if Fp.key x < Fp.key y then y else x

/-- min of R44. -/
def Fp.min (x y : W32) : W32 :=
  if Fp.isNan x || Fp.isNan y then Fp.nan else if Fp.key y < Fp.key x then y else x

/-- finite-max of R44: non-finite operands are ignored, none finite gives +0.0. -/
def Fp.finiteMax (x y : W32) : W32 :=
  if Fp.nonfinite x then if Fp.nonfinite y then 0 else y
  else if Fp.nonfinite y then x else Fp.max x y

/-- Numeric less-than of IEEE 754: false with a NaN, −0.0 = +0.0. -/
def Fp.lt (x y : W32) : Bool :=
  !Fp.isNan x && !Fp.isNan y && !(Fp.isZero x && Fp.isZero y) && decide (Fp.key x < Fp.key y)

/-- Numeric equality of IEEE 754. -/
def Fp.eq (x y : W32) : Bool :=
  !Fp.isNan x && !Fp.isNan y && ((Fp.isZero x && Fp.isZero y) || x == y)

/-- rne_int of a finite value (R31). -/
def Fp.rneInt (x : W32) : Int :=
  let m := rneDiv (Fp.units x) (2 ^ 149)
  if Fp.neg x then -(m : Int) else m

/-- sat127 (R31). -/
def sat127 (i : Int) : Int := if i < -127 then -127 else if 127 < i then 127 else i

/-- What requantization gives for one element (R36): its code, whether it counts as clipped, and whether it raises the
non-finite flag. -/
structure Quant where
  code : Int
  clipped : Bool
  nonfinite : Bool
  deriving DecidableEq, Repr

/-- Step 6 of R35 with R36: the code of y under the reciprocal `m`. -/
def requantize (y m : W32) : Quant :=
  let nf := Fp.nonfinite y
  if Fp.isNan y then ⟨0, true, true⟩
  else
    let p := Fp.mul y m
    if Fp.isNan p then ⟨0, true, nf⟩
    else if Fp.isInf p then ⟨if Fp.neg p then -127 else 127, true, nf⟩
    else
      let i := Fp.rneInt p
      ⟨sat127 i, nf || decide (i.natAbs > 127), nf⟩

/-- An INT8 code as FP32, exactly. -/
def Fp.ofCode (b : Byte) : W32 := Fp.ofInt b.toInt

/-- A per-tensor or weight scale of R28: positive, in [2^-107, 2^100]. -/
def validScale (x : W32) : Bool := decide (0x0A000000 ≤ x.toNat ∧ x.toNat ≤ 0x71800000)

/-- The interval of R28 for a scale that a ring computed: [2^-107, 2^105]. -/
def validRingScale (x : W32) : Bool := decide (0x0A000000 ≤ x.toNat ∧ x.toNat ≤ 0x74000000)

/-- The four tree operations (R43). -/
inductive TreeOp where
  | sum | finiteMax | max | min
  deriving DecidableEq, Repr

/-- One combination of two present nodes (R44). -/
def TreeOp.apply (op : TreeOp) (x y : W32) : W32 :=
  match op with
  | .sum => Fp.add x y
  | .finiteMax => Fp.finiteMax x y
  | .max => Fp.max x y
  | .min => Fp.min x y

/-- A node whose right child is absent (R43); under finite-max a non-finite left child gives +0.0 (R44). -/
def TreeOp.pass (op : TreeOp) (x : W32) : W32 :=
  match op with
  | .finiteMax => Fp.finiteMax x x
  | _ => x

/-- One level of the pairwise tree (R43). -/
def treeLevel (op : TreeOp) (l : List W32) : List W32 :=
  match l with
  | x :: y :: t => op.apply x y :: treeLevel op t
  | [x] => [op.pass x]
  | [] => []

/-- `n` levels of the tree. -/
def treeLevels (op : TreeOp) (n : Nat) (l : List W32) : List W32 :=
  match n with
  | 0 => l
  | n + 1 => treeLevels op n (treeLevel op l)

/-- The canonical reduction of one axis (R43). The tree within 512-element chunks and the tree over chunks together are
one pairwise tree over the elements, since 512 is a power of two; a chunk always has its nine levels. -/
def treeReduce (op : TreeOp) (l : List W32) : W32 :=
  let depth := max 9 (Nat.log2 (l.length - 1) + 1)
  (treeLevels op depth l).headD (op.pass 0)

/-- The same tree over group results, without the nine levels of a chunk (R49). -/
def treeOver (op : TreeOp) (l : List W32) : W32 :=
  let depth := if l.length ≤ 1 then 0 else Nat.log2 (l.length - 1) + 1
  (treeLevels op depth l).headD 0

end Sys2Proof
end

