-- ==== Sys2Proof/Machine/Flags.lean ====
section
/-! DEFINITION. Flag and observation computations: what a written element adds to a ring's observation record and to the NF
count (R36, R82, R221 to R223). -/

namespace Sys2Proof.Machine

open Sys2Proof

/-- No contribution to a ring. -/
def ObsDelta.none (ring : Nat) : ObsDelta := { ring, amax := 0, nonfinite := false, clipped := 0, elements := 0 }

/-- A contribution with one more element: finite-max of |y|, non-finite, clipped and written counts (R36, R40). -/
def ObsDelta.observe (o : ObsDelta) (y : W32) (z : Quant) : ObsDelta :=
  { o with
    amax := Fp.finiteMax o.amax (Fp.mk false (Fp.mag y))
    nonfinite := o.nonfinite || z.nonfinite
    clipped := o.clipped + if z.clipped then 1 else 0
    elements := o.elements + 1 }

/-- The contribution of a list of requantized elements to a ring; nothing for no ring. -/
def observeAll (ring : Nat) (ys : List (W32 × Quant)) : List ObsDelta :=
  if ring = noRing then [] else [ys.foldl (fun o p => o.observe p.1 p.2) (ObsDelta.none ring)]

/-- The reports of a list of requantized elements: one for each non-finite y (Table 9.1). -/
def reportsOf (ys : List (W32 × Quant)) : Nat := (ys.filter fun p => p.2.nonfinite).length

/-- The reports of a list of values: one for each that R31 counts as non-finite. -/
def reportsFp (ys : List W32) : Nat := (ys.filter Fp.nonfinite).length

/-- A contribution folded into a ring's observation record (R223). -/
def Obs.fold (o : Obs) (d : ObsDelta) : Obs :=
  { o with
    amax := Fp.finiteMax o.amax d.amax
    nonfinite := o.nonfinite || d.nonfinite
    clipped := o.clipped + d.clipped
    elements := o.elements + d.elements }

/-- Contributions folded into a job's observation records, and reports into its flag word, at a commit (R221, R222). -/
def foldObs (J : Job) (nf : Nat) (ds : List ObsDelta) : Job :=
  { J with
    nf := min (J.nf + nf) (2 ^ 64 - 1)
    obs := ds.foldl (fun m d => FMap.put {} m d.ring ((FMap.getD m d.ring {}).fold d)) J.obs }

end Sys2Proof.Machine
end

