-- ==== Sys2Proof/Machine/Reduction.lean ====
section
/-! DEFINITION. Reductions on the tagged engines: tags, operations, the tree and its nodes (R43 to R46, R222). One record
holds a reduction's nodes on every engine of its route, and each engine's lane count (log entry 18). Log entries are notes/assumptions/<n>.md. -/

namespace Sys2Proof.Machine

open Sys2Proof

/-- The four operations by number (Table 5.19). -/
def treeOpOf (n : Nat) : TreeOp :=
  match n with
  | 1 => .finiteMax
  | 2 => .max
  | 3 => .min
  | _ => .sum

/-- RED_ID of a reduction tag (Table 2.6). -/
def tagRed (t : W64) : Nat := bits t.toNat 63 40
/-- LEVEL. -/
def tagLevel (t : W64) : Nat := bits t.toNat 39 32
/-- The reserved field. -/
def tagReserved (t : W64) : Nat := bits t.toNat 31 24
/-- NODE. -/
def tagNode (t : W64) : Nat := bits t.toNat 23 0

/-- Two lanes combined, the left one first: FP32 under R44, or 64-bit integers. -/
def RedDecl.lane (d : RedDecl) (x y : W64) : W64 :=
  if d.integer then
    match d.op with
    | 0 => x + y
    | 3 => if y.toInt < x.toInt then y else x
    | _ => if x.toInt < y.toInt then y else x
  else ((treeOpOf d.op).apply (x.setWidth 32) (y.setWidth 32)).setWidth 64

/-- A lane passed up past an absent sibling (R43, R44). -/
def RedDecl.pass (d : RedDecl) (x : W64) : W64 :=
  if d.integer then x else ((treeOpOf d.op).pass (x.setWidth 32)).setWidth 64

/-- The lanes of a rejected reduction (R46). -/
def RedDecl.rejectedLanes (d : RedDecl) (n : Nat) : List W64 :=
  List.replicate n (if d.integer then 0x8000000000000000 else Fp.nan.setWidth 64)

/-- A node arrives or is formed: the root, a node passed up, a parent formed with its sibling, or a node held (R45). Where two
siblings differ in their lane counts, the engine at which they meet rejects the later one. -/
def Reduction.place (d : RedDecl) (fuel level node : Nat) (lanes : List W64) (r : Reduction) : Reduction :=
  match fuel with
  | 0 => r
  | fuel + 1 =>
    if d.chunks ≤ 2 ^ level then { r with root := some (lanes.map d.pass) }
    else if node % 2 = 0 && d.chunks ≤ (node + 1) * 2 ^ level then
      Reduction.place d fuel (level + 1) (node / 2) (lanes.map d.pass) r
    else
      let sib := if node % 2 = 0 then node + 1 else node - 1
      match r.nodes.find? fun n => n.level = level && n.node = sib with
      | none => { r with nodes := r.nodes ++ [⟨level, node, lanes⟩] }
      | some n =>
        let r := { r with nodes := r.nodes.filter fun n => !(n.level = level && n.node = sib) }
        if n.lanes.length ≠ lanes.length then
          { r with rejected := true, root := some (d.rejectedLanes n.lanes.length) }
        else
        let both := if node % 2 = 0 then lanes.zipWith d.lane n.lanes else n.lanes.zipWith d.lane lanes
        Reduction.place d fuel (level + 1) (node / 2) both r

/-- Chunks that a tag covers overlap those of an accepted tag. -/
def tagsOverlap (a b : Nat × Nat) : Bool :=
  decide (a.2 * 2 ^ a.1 < (b.2 + 1) * 2 ^ b.1 ∧ b.2 * 2 ^ b.1 < (a.2 + 1) * 2 ^ a.1)

/-- The first rule that a partial breaks (R46); 0 for none. -/
def tagStatus (d : Option RedDecl) (r : Reduction) (engine : Nat) (tag : W64) (lanes : Nat) : Status :=
  if 24 < tagLevel tag || tagReserved tag ≠ 0 then 0x0E21
  else
    match d with
    | none => 0x0E23
    | some d =>
      if d.chunks ≤ tagNode tag * 2 ^ tagLevel tag then 0x0E21
      else if lanes = 0 || 512 < lanes || (FMap.get? r.counts engine).any (· ≠ lanes) then 0x0E21
      else if r.arrived.any (tagsOverlap (tagLevel tag, tagNode tag)) then 0x0E22
      else 0

/-- The key of a job's reduction. -/
def redKey (job red : Nat) : Nat := 2 ^ 24 * job + red

/-- A partial that the engine accepts. -/
def Reduction.accept (d : RedDecl) (engine : Nat) (sender : Option Nat) (level node : Nat) (lanes : List W64) (r : Reduction) :
    Reduction :=
  let r := { r with
    counts := if FMap.has r.counts engine then r.counts else FMap.set r.counts engine lanes.length
    arrived := r.arrived ++ [(level, node)], parts := r.parts ++ [(sender, ⟨level, node, lanes⟩)] }
  if r.rejected then r else Reduction.place d 26 level node lanes r

/-- A reduction without the partials that a killed command had sent: before the delivery of its root the tree is formed again
from the others; after it the command's re-run sends the same partials, which then have no effect (R222, log entry 145). -/
def Reduction.withdraw (d : RedDecl) (uid : Nat) (r : Reduction) : Reduction :=
  let mine : List (Option Nat × RedNode) := r.parts.filter fun p => p.1 = some uid
  let others : List (Option Nat × RedNode) := r.parts.filter fun p => p.1 ≠ some uid
  if mine.isEmpty then r
  else if r.delivered then { r with resent := r.resent ++ (mine.map Prod.snd).map fun n => (uid, n.level, n.node) }
  else
    let nodes : List RedNode := others.map Prod.snd
    let r : Reduction := { r with
      parts := others, arrived := nodes.map fun n => (n.level, n.node), nodes := [], root := if r.rejected then r.root else none }
    if r.rejected then r else nodes.foldl (fun r n => Reduction.place d 26 n.level n.node n.lanes r) r

/-- Every partial that a command has sent is withdrawn. -/
def withdrawPartials (s : State) (uid : Nat) : State :=
  { s with reds := FMap.mapVal s.reds fun key r =>
      match (jobAt s (key / 2 ^ 24)).bind fun J => redDecl J (key % 2 ^ 24) with
      | none => r
      | some d => r.withdraw d uid }

end Sys2Proof.Machine
end

