-- ==== Sys2Proof/Machine/Torus.lean ====
section
/-! DEFINITION. The torus: module coordinates, routes, placements, the six trunks and their link layer (R325, R326, R329, R330,
R334, R335). Log entries are notes/assumptions/<n>.md. -/

namespace Sys2Proof.Machine

open Sys2Proof

/-! ## Modules and routes (R325, R330, R334, R335) -/
/-- Modules along a dimension: 0 x, 1 y, 2 z. -/
def torusSide (s : State) (d : Nat) : Nat := bits (dnum s 0xA000 1) (4 * d + 3) (4 * d) + 1

/-- A coordinate of a module. -/
def coord (m d : Nat) : Nat := bits m (4 * d + 3) (4 * d)

/-- Hops of the route of R330 from one module to another. -/
def torusHops (s : State) (a b : Nat) : Nat :=
  ([0, 1, 2].map fun d =>
    let n := torusSide s d
    let k := (coord b d + n - coord a d % n) % n
    min k (n - k)).sum

/-- This module's ID. -/
def moduleId (s : State) : Nat := dnum s 0xA000 2

/-- The placement table of a partition (R334). -/
def placement (s : State) (part : Nat) : List Nat := (chunks 2 (dblob s (0xA200 + part) 1)).map leNat

/-- D of R335 for a job of `n` modules. -/
def treeDepth (s : State) (part n : Nat) : Nat :=
  let l := (placement s part).take n
  if n ≤ 1 then 0 else maxOf (l.map fun m => torusHops s (l.headD 0) m)

/-- The state of a port: 0 absent, 1 down, 2 training, 3 keying, 4 up, 5 out of service. -/
def portState (s : State) (w : Nat) : Nat := dnum s (0xA010 + w) 1

/-- The module ID of a job's module. -/
def jobModule (s : State) (J : Job) (m : Nat) : Nat := if J.modules = 1 then moduleId s else (placement s J.part).getD m (moduleId s)

/-- Steps along dimension `d` on the route from one module to another: the direction of its trunk, 2d for + and 2d + 1 for
−, and how many. At exactly half the side the route takes +; a side of 2 uses the + trunk (R326, R330). -/
def legOf (s : State) (a b d : Nat) : Nat × Nat :=
  let n := torusSide s d
  let k := (coord b d + n - coord a d % n) % n
  if 2 * k ≤ n then (2 * d, k) else (2 * d + 1, n - k)

/-- The trunk of the first hop of the route from this module to another: x first, then y, then z (R330). -/
def firstTrunk (s : State) (dest : Nat) : Option Nat :=
  (([0, 1, 2].map (legOf s (moduleId s) dest)).find? fun p => p.2 ≠ 0).map Prod.fst

/-- The trunk over which a module's packets reach this one: the last hop's, seen from here (R330). -/
def lastTrunk (s : State) (src : Nat) : Option Nat :=
  (([2, 1, 0].map (legOf s src (moduleId s))).find? fun p => p.2 ≠ 0).map fun p => if p.1 % 2 = 0 then p.1 + 1 else p.1 - 1

/-- The module ID with the coordinate of one dimension replaced. -/
def withCoord (m d v : Nat) : Nat := m - coord m d * 16 ^ d + v * 16 ^ d

/-! ## The host domain (Table 13.6) -/

/-- Modules of the host domain along a dimension. -/
def domainSide (s : State) (d : Nat) : Nat := bits (dnum s 0xA000 6) (13 + 2 * d) (12 + 2 * d) + 1

/-- The module at an offset from the domain's origin. -/
def domainAt (s : State) (x y z : Nat) : Nat :=
  let at_ (d o : Nat) : Nat := (coord (bits (dnum s 0xA000 6) 11 0) d + o) % torusSide s d
  at_ 0 x + 16 * at_ 1 y + 256 * at_ 2 z

/-- The head: offset ⌊(side − 1)/2⌋ in each dimension. -/
def domainHead (s : State) : Nat :=
  let half (d : Nat) : Nat := (domainSide s d - 1) / 2
  domainAt s (half 0) (half 1) (half 2)

/-- The modules of the domain in the order that MEMBERS and the PF's regions number them: the head first, then the others, x
before y before z (log entry 144). -/
def domainModules (s : State) : List Nat :=
  let box := (List.range (domainSide s 2)).flatMap fun z => (List.range (domainSide s 1)).flatMap fun y =>
    (List.range (domainSide s 0)).map fun x => domainAt s x y z
  domainHead s :: box.filter (· ≠ domainHead s)

/-- Module m of the host domain, m > 0. -/
def domainModule (s : State) (m : Nat) : Option Nat := if m = 0 then none else (domainModules s)[m]?

/-- The modules of the route from one module to another, both included (R330). -/
def routeFrom (s : State) (a b : Nat) : List Nat :=
  let walk (m d : Nat) : List Nat :=
    let n := torusSide s d
    let leg := legOf s m b d
    (List.range leg.2).map fun i =>
      withCoord m d (if leg.1 % 2 = 0 then (coord m d + i + 1) % n else (coord m d + n * n - i - 1) % n)
  let x := walk a 0
  let ax := x.getLastD a
  let y := walk ax 1
  let ay := y.getLastD ax
  a :: x ++ y ++ walk ay 2

/-! ## Trunks (R326, Table 13.1) -/

/-- The four ports of a trunk, two on each hub. -/
def trunkPorts (d : Nat) : List Nat := [2 * d, 2 * d + 1, 2 * d + 12, 2 * d + 13]
/-- The trunk of a port. -/
def trunkOf (w : Nat) : Nat := w % 12 / 2

/-- The neighbour that a trunk leads to; none where its side is 1. With a side of 2 both trunks of the dimension lead to one
neighbour. -/
def neighbour (s : State) (d : Nat) : Option Nat :=
  let n := torusSide s (d / 2)
  let c := coord (moduleId s) (d / 2)
  if n = 1 then none
  else some (withCoord (moduleId s) (d / 2) (if d % 2 = 0 then (c + 1) % n else (c + n - 1) % n))

/-- The ports of a trunk that are in service. -/
def livePorts (s : State) (d : Nat) : List Nat := (trunkPorts d).filter fun w => portState s w = 4

/-- A trunk carries traffic: it is connected, and one of its ports is in service (R331). -/
def trunkUp (s : State) (d : Nat) : Bool := (neighbour s d).isSome && !(livePorts s d).isEmpty

/-- A trunk's link layer. -/
def trunkAt (s : State) (d : Nat) : Trunk := FMap.getD s.win.trunks d {}
/-- The state with a trunk's link layer changed. -/
def updTrunk (s : State) (d : Nat) (f : Trunk → Trunk) : State :=
  { s with win := { s.win with trunks := FMap.put {} s.win.trunks d (f (trunkAt s d)) } }

/-- The route to a module is broken as far as this module can tell: its first trunk has no port in service, or the module
has been declared dead. A break further on is reported by the module that meets it (R331, log entry 142). -/
def routeBroken (s : State) (dest : Nat) : Bool :=
  (firstTrunk s dest).any fun d => !trunkUp s d || FMap.has s.win.fences dest

/-! ## Ports (Table 13.6) -/

/-- A port's link state. -/
def portAt (s : State) (w : Nat) : Port := FMap.getD s.win.ports w {}
/-- The state with a port changed. -/
def updPort (s : State) (w : Nat) (f : Port → Port) : State :=
  { s with win := { s.win with ports := FMap.put {} s.win.ports w (f (portAt s w)) } }
/-- The flit counters of the ports that some flits left on (R339). -/
def countFlits (s : State) (l : List Flit) : State :=
  l.foldl (fun s f => updPort s f.port fun p => { p with flits := p.flits + 1 }) s

/-! ## The link layer (R329) -/

/-- Flits that a trunk may hold for replay. -/
def replayWindow : Nat := 1024

/-- The data flit that is served first: the earliest deadline, then the one handed over first (R172). -/
def firstData (l : List Flit) : Option Flit :=
  (l.filter fun f => f.cls = 0).foldl (fun best f => match best with
    | none => some f
    | some b => if f.deadline < b.deadline then some f else some b) none

/-- The flit that takes a trunk's next slot: link and time-sync at most 1 slot in 256, management 1 in 64, barrier 1 in 3,
then data. -/
def nextFlit (t : Trunk) : Option Flit :=
  let waits (c at_ : Nat) : Option Flit := if at_ ≤ t.turn then t.waiting.find? fun f => f.cls = c else none
  (waits 3 t.linkAt).orElse fun _ => (waits 2 t.managementAt).orElse fun _ => (waits 1 t.barrierAt).orElse fun _ =>
    firstData t.waiting

/-- One slot of a trunk: the next flit leaves on the next of its in-service ports with the next LSEQ, and is held for
replay; a full window holds the trunk, and a slot without a flit passes. -/
def trunkSlot (ports : List Nat) (t : Trunk) : Trunk :=
  if replayWindow ≤ t.unacked.length || ports.isEmpty then t
  else
    match nextFlit t with
    | none => { t with turn := t.turn + 1 }
    | some f =>
      { t with
        waiting := t.waiting.erase f
        unacked := t.unacked ++ [{ f with lseq := t.lseq, port := ports.getD (t.turn % ports.length) 0 }]
        lseq := (t.lseq + 1) % 65536
        turn := t.turn + 1
        linkAt := if f.cls = 3 then t.turn + 256 else t.linkAt
        managementAt := if f.cls = 2 then t.turn + 64 else t.managementAt
        barrierAt := if f.cls = 1 then t.turn + 3 else t.barrierAt }

/-- One beat of a trunk: a slot for each in-service port, and the acknowledgement of some of the flits held, from the oldest
on. How many the neighbour acknowledges in a beat is not stated: free (log entry 132). -/
def trunkBeat (s : State) (d : Nat) : State :=
  let t := trunkAt s d
  if t.waiting.isEmpty && t.unacked.isEmpty then s
  else
    let ports := livePorts s d
    let held := t.unacked.length
    let t := ports.foldl (fun t _ => trunkSlot ports t) t
    let s := countFlits s (t.unacked.drop held)
    let acked := Config.freeNat s.fresh % (t.unacked.length + 1)
    { updTrunk s d fun _ => { t with unacked := t.unacked.drop acked } with fresh := s.fresh + 1 }

/-- What the module does in a beat in which no command is taken: the beat passes, and every trunk serves its flits (log entry
124). -/
def idleStep (s : State) : State := (List.range 6).foldl trunkBeat (idleBeat s)

/-- A packet of `bytes` bytes handed to the trunk of its route: one flit for each 224 bytes. A packet to this module itself
takes no trunk, and a module in spare state originates only link and management flits (R340). -/
def sendFlits (s : State) (cls type dest bytes deadline : Nat) : State :=
  match firstTrunk s dest with
  | none => s
  | some d =>
    if s.win.spareState && cls < 2 then s
    else
    updTrunk s d fun t =>
      let n := max 1 (ceilDiv bytes 224)
      { t with waiting := t.waiting ++ (List.range n).map fun i =>
          { cls, type, dest, deadline, bytes := min 224 (bytes - 224 * i), last := i + 1 = n } }

/-- The modules of a list whose route from the head of the domain leads through this module and on, one for each trunk that
leads there: the children of this module in a multicast tree (R185, R330). -/
def treeChildren (s : State) (l : List Nat) : List Nat :=
  (l.filter fun m => m ≠ moduleId s && (routeFrom s (domainHead s) m).contains (moduleId s)).foldl (fun kept m =>
    if kept.any fun k => firstTrunk s k = firstTrunk s m then kept else kept ++ [m]) []

/-- `n` base tiles with their sidecars handed on to each child (R185). -/
def forwardTiles (s : State) (l : List Nat) (n : Nat) : State :=
  (treeChildren s l).foldl (fun s m => (List.range n).foldl (fun s _ => sendFlits s 0 4 m 66560 (2 ^ 64)) s)
    { s with win := { s.win with forwarded := s.win.forwarded + n } }

/-- Flits of a packet from another module delivered here, in LSEQ order. -/
def takeFlits (s : State) (src bytes : Nat) : State :=
  match lastTrunk s src with
  | none => s
  | some d =>
    let n := max 1 (ceilDiv bytes 224)
    updTrunk s d fun t => { t with expect := (t.expect + n) % 65536, replays := t.replays - min n t.replays }

/-- The port on which the next flit of a module arrives; the ports of a trunk take turns (R329). -/
def arrivalPort (s : State) (src : Nat) : Nat :=
  (lastTrunk s src).elim 0 fun d =>
    let ports := livePorts s d
    ports.getD ((trunkAt s d).expect % ports.length) 0

/-- The flit at the trunk's next LSEQ was dropped and is requested again (R328). -/
def requestFlit (s : State) (w : Nat) : State := updTrunk s (trunkOf w) fun t => { t with replays := t.replays + 1 }

end Sys2Proof.Machine
end

