-- ==== Sys2Proof/Machine/Commands.lean ====
section
/-! DEFINITION. The life of a command: charges and buffers, completion records, failure, staging and commit, kill (R103 to
R131, R164, R165). Log entries are notes/assumptions/<n>.md. -/

namespace Sys2Proof.Machine

open Sys2Proof

/-! ## Charges (R164, R165) -/

/-- A charge: SIZE rounded up to a multiple of 64 KiB. -/
def charge64 (n : Nat) : Nat := roundUp n 65536

/-- Bytes of a tier of a partition: 1 HBM, 2 capacity. -/
def tierBytes (s : State) (part tier : Nat) : Nat := dnum s (0x5000 + part) (if tier = 1 then 3 else 4)

/-- The partition account in a tier; the capacity tier has none. -/
def partAccount (s : State) (part tier : Nat) : Nat := if tier = 1 then dnum s (0x5000 + part) 5 else 0

/-- Sum of the partition's VF quotas in a tier. -/
def quotaSum (s : State) (part tier : Nat) : Nat := dnum s (0x5000 + part) (if tier = 1 then 6 else 7)

/-- A function's charge in a tier of a partition. -/
def charged (s : State) (part fn tier : Nat) : Nat :=
  if fn = 0 then (if tier = 1 then (partAt s part).pfHbm else (partAt s part).pfCap)
  else dnum s (0x50FF + fn) (if tier = 1 then 3 else 4)

/-- What a function may be charged in a tier: a VF its quota, the PF what no VF quota and no account claims. -/
def quotaOf (s : State) (part fn tier : Nat) : Nat :=
  if fn = 0 then tierBytes s part tier - partAccount s part tier - quotaSum s part tier
  else dnum s (0x50FF + fn) (if tier = 1 then 1 else 2)

/-- A charge of `n` bytes fits. -/
def mayCharge (s : State) (part fn tier n : Nat) : Bool := charged s part fn tier + n ≤ quotaOf s part fn tier

/-- The state with a function's charge at `n`; the high-water entry follows a VF's HBM charge. -/
def setCharge (s : State) (part fn tier n : Nat) : State :=
  if fn = 0 then updPart s part fun p => if tier = 1 then { p with pfHbm := n } else { p with pfCap := n }
  else
    let s := dset s (0x50FF + fn) (if tier = 1 then 3 else 4) n
    if tier = 1 then raiseTo s (0x50FF + fn) 5 n else s

/-- A charge taken. -/
def charge (s : State) (part fn tier n : Nat) : State := setCharge s part fn tier (charged s part fn tier + n)
/-- A charge returned. -/
def uncharge (s : State) (part fn tier n : Nat) : State := setCharge s part fn tier (charged s part fn tier - n)

/-! ## Mailbox responses -/

/-- A response joins the function's held responses (R304). -/
def respond (s : State) (fn cls seq : Nat) (bytes : List Byte) : State :=
  updMbox s fn fun m => { m with held := m.held ++ [⟨cls, seq, bytes⟩] }

/-- The 32-byte response of R202. -/
def response32 (s : State) (tag status result : Nat) : List Byte :=
  toLe 4 tag ++ toLe 2 status ++ zeros 2 ++ toLe 4 result ++ zeros 4 ++ toLe 8 s.now ++ zeros 8

/-- A placement completion (Table 6.7); `done` is the beat in which the status was fixed. -/
def placementBytes (done tag status arrived waited : Nat) : List Byte :=
  toLe 4 tag ++ toLe 2 status ++ zeros 2 ++ toLe 8 arrived ++ toLe 8 done ++ toLe 8 waited

/-- A placement request completes, its status fixed in the beat `done` (R156); one fewer is outstanding. WAITED counts the
beats before it ran, or all of them where it joined another request. -/
def placementDone (s : State) (part : Nat) (r : PlaceReq) (status : Status) (done : Nat) : State :=
  let waited := if r.joined then done - r.arrived else r.waited
  let s := dset s (0x5000 + part) 8 (dnum s (0x5000 + part) 8 - 1)
  respond s r.fn 3 r.seq (placementBytes done r.tag status r.arrived waited)

/-! ## Buffers (R120 to R124) -/

/-- A full write of a 64-bit word clears its poison (R436). -/
def clearPoison (s : State) (p : Nat × Nat → Bool) : State :=
  { s with rel := { s.rel with poison := s.rel.poison.filter fun w => !p w } }

/-- The key under which a freed buffer's storage is held. -/
def heldKey (ver : Nat) : Nat := 2 ^ 40 + ver

/-- The RUNs of a queue that have begun and not committed, oldest first (R101). -/
def Queue.runs (Q : Queue) : List Cmd := Q.earlierRuns ++ Q.running.toList

/-- Every started, uncommitted command of the module. -/
def startedCmds (s : State) : List Cmd := s.queues.flatMap fun e => e.2.runs ++ e.2.cmds.filter fun c => c.state ≠ .fetched

/-- The requests pending on a tiered object whose buffer is freed complete with 0x0212: their handle is stale (DESIGN
CHOICE: the manual does not say how they end; log entry 126). -/
def endRequests (s : State) (part key : Nat) : State :=
  match FMap.get? s.tiered key with
  | none => s
  | some t =>
    let s := (t.current ++ t.waiters).foldl (fun s r => placementDone s part r 0x0212 s.now) s
    { s with tiered := FMap.set s.tiered key { t with current := [], waiters := [] } }

/-- Storage of a buffer returns to its account: its own charge and that of an HBM copy, whose record stands at `key`.
Core-store storage is not charged. -/
def returnStorage (s : State) (part key : Nat) (b : Buf) : State :=
  let s := if b.tier = 0 || b.base then s else uncharge s part b.fn b.tier (charge64 b.size)
  match FMap.get? s.tiered key with
  | none => s
  | some t =>
    let s := if t.state = .absent then s else uncharge s part t.charged 1 (charge64 b.size)
    { s with tiered := FMap.erase s.tiered key }

/-- A tiered-object record stands under another key. -/
def moveTiered (s : State) (key dest : Nat) : State :=
  match FMap.get? s.tiered key with
  | none => s
  | some t => { s with tiered := FMap.set (FMap.erase s.tiered key) dest t }

/-- The partition of a buffer key. -/
def keyPart (key : Nat) : Nat := key / 2 ^ 20

/-- A live buffer is freed: its generation increments, or the index retires at 4,095 (R123). Storage that started
commands hold stays, with the record of its HBM copy, and returns when the last of them has ended (R124). -/
def freeBuf (s : State) (key : Nat) : State :=
  match FMap.get? s.bufs key with
  | none => s
  | some b =>
    let ver := verKey key b.gen
    let held := (startedCmds s).any fun c => c.uses.contains ver
    let s := endRequests s (keyPart key) key
    let s' := { clearPoison s (fun w => w.1 = key) with
      bufs := FMap.erase s.bufs key
      index := FMap.set s.index key { gen := if b.gen = 4095 then 4095 else b.gen + 1, ever := true, live := false, retired := b.gen = 4095 } }
    if held then moveTiered { s' with bufs := FMap.set s'.bufs (heldKey ver) { b with freed := true } } key (heldKey ver)
    else returnStorage s' (keyPart key) key b

/-- Held storage that no started command uses any more returns (R124). -/
def releaseHeld (s : State) : State :=
  (s.bufs.filter fun e => e.2.freed).foldl (fun s e =>
    let ver := e.1 - 2 ^ 40
    if (startedCmds s).any fun c => c.uses.contains ver then s
    else returnStorage { s with bufs := FMap.erase s.bufs e.1 } (keyPart (verBuf ver)) e.1 e.2) s

/-- A write to a buffer's committed contents: to the HBM copy, which turns dirty, where a tiered object has one (R159). -/
def storeBuf (s : State) (key off : Nat) (data : List Byte) : State :=
  let s := clearPoison s fun w => w.1 = key && off ≤ 8 * w.2 && 8 * w.2 + 8 ≤ off + data.length
  let home := { s with bufs := FMap.modify s.bufs key fun b => { b with data := b.data.write off data } }
  match FMap.get? s.tiered key with
  | none => home
  | some t =>
    if t.state = .resident || t.state = .pinned || t.state = .evicting then
      { s with tiered := FMap.set s.tiered key { t with copy := t.copy.write off data, dirty := true } }
    else home

/-- A command's staged write reaches the version of the buffer that the command started with (R124, R127). -/
def storeStaged (s : State) (w : StageWrite) : State :=
  let key := verBuf w.buf
  match FMap.get? s.bufs key with
  | some b => if verKey key b.gen = w.buf then storeBuf s key w.off w.data else s
  | none => s

/-- The buffer that a started command holds under a key: the live one of its version, or the freed storage it holds. -/
def usedBuf (s : State) (c : Cmd) (key : Nat) : Option Buf :=
  match (FMap.get? s.bufs key).filter fun b => c.uses.contains (verKey key b.gen) with
  | some b => some b
  | none => (c.uses.find? fun v => verBuf v = key).bind fun v => FMap.get? s.bufs (heldKey v)

/-- The size of the buffer that a started command holds behind a handle; 0 for none. -/
def usedSize (s : State) (Q : Queue) (c : Cmd) (h : Nat) : Nat :=
  if h = 0 then 0 else ((usedBuf s c (bufKey Q.part (hIndex h))).map Buf.size).getD 0

/-- Bytes that the module writes to a ring in a partition's HBM range. -/
def hbmWrite (s : State) (part a : Nat) (bs : List Byte) : State :=
  match hbmOwner s part a with
  | some (key, off) => storeBuf s key off bs
  | none => { s with hbm := s.hbm.write (2 ^ 40 * part + a) bs }

/-! ## Completion records (R109) -/

/-- Statuses that complete a command without a failure: 0x0000 and the codes that their chapters call success. -/
def success (st : Status) : Bool :=
  st = 0 || st = 0x0502 || st = 0x0E42 || st = 0x0F01 || st = 0x0683

/-- The record of Table 5.4. -/
def cplBytes (s : State) (Q : Queue) (c : Cmd) (st : Status) : List Byte :=
  toLe 4 c.seq ++ toLe 4 (rTag c.bytes) ++ toLe 2 st
    ++ toLe 1 ((if Q.cpls / Q.slots % 2 = 0 then 1 else 0) + if c.stream.isSome then 2 else 0) ++ [0]
    ++ toLe 4 (c.stream.getD c.result) ++ toLe 8 s.now ++ toLe 4 c.reruns ++ zeros 4

/-- One completion record written, with the MSI-X message where the command asks for one or has failed. -/
def putCompletion (s : State) (q : Nat) (c : Cmd) (st : Status) : State :=
  match queueAt s q with
  | none => s
  | some Q =>
    let addr := Q.cplBase + 32 * (Q.cpls % Q.slots)
    let bs := cplBytes s Q c st
    let s := if Q.cplHbm then hbmWrite s Q.part addr bs else hostWrite s addr bs
    let s := updQueue s q fun Q => { Q with cpls := Q.cpls + 1 }
    if rIrq c.bytes || (!success st && st ≠ 0x0305) then msix s Q.fn Q.vector else s

/-! ## Pre-emptible points (R132 to R134, R314) -/

/-- The RUN that runs a stream command's stream. -/
def runOf (Q : Queue) (c : Cmd) : Option Cmd := Q.runs.find? fun r => r.uid = c.run

/-- The stream of the queue's oldest uncommitted command, with the boundary of the queue's resume point. -/
def resumePoint (Q : Queue) : Option (Nat × Nat) :=
  match Q.cmds with
  | c :: _ => c.stream.bind fun b => (runOf Q c).map fun r => (field r.bytes 16 4, b)
  | [] => none

/-- Keys of the core-store buffers that a job declares live at a queue's resume point (R132). -/
def liveAt (s : State) (J : Job) (Q : Queue) : List Nat :=
  match resumePoint Q with
  | none => []
  | some (stream, b) =>
    (J.live.filter fun l => l.stream = stream && l.first ≤ b && b ≤ l.last).filterMap fun l =>
      let key := bufKey J.part (hIndex (J.bufs.getD l.symbol 0))
      (FMap.get? s.bufs key).bind fun x => if x.tier = 0 then some key else none

/-- What a queue saves: the committed contents of its live buffers (R134). -/
def saveArea (s : State) (J : Job) (q : Nat) : FMap Mem :=
  match queueAt s q with
  | none => []
  | some Q => (liveAt s J Q).foldl (fun m key => FMap.set m key (committed s key)) []

/-- The save begins: every queue of the job holds. -/
def beginSave (s : State) (j : Nat) (J : Job) : State :=
  let saved := J.roles.foldl (fun m q => FMap.put [] m q (saveArea s J q)) []
  updJob s j fun J => { J with grant := .saving, saved }

/-- A queue of a job that yields is at a pre-emptible point: it holds there, and waits from here on where it has a command to
run (R320); with the last one the save begins. -/
def holdQueue (s : State) (q : Nat) : State :=
  match (queueAt s q).bind fun Q => Q.job.bind fun j => (jobAt s j).map fun J => (j, J) with
  | none => s
  | some (j, J) =>
    if J.grant ≠ .yielding then s
    else
      let s := updQueue s q fun Q =>
        { Q with
          held := true
          waitingSince := if Q.cmds.any fun c => c.state = .fetched && (c.stream.isSome || c.op = 11) then
              some (Q.waitingSince.getD s.now) else Q.waitingSince }
      if J.roles.all fun p => (queueAt s p).all Queue.held then beginSave s j J else s

/-! ## Stops and offences (R104, R125) -/

/-- The queue stops with a status on its page; a stopped queue is pre-emptible. -/
def stopQueue (s : State) (q : Nat) (st : Status) : State :=
  holdQueue (updQueue s q fun Q => { Q with status := st, stopped := true }) q

/-- One offence; the 16th within 10⁹ beats of the first of the last sixteen quarantines the queue. `cmd` is the command that
offended, if one did: nothing after it commits in a quarantined queue (R104). -/
def offence (s : State) (q : Nat) (cmd : Option Nat) : State :=
  updQueue s q fun Q =>
    let l := (s.now :: Q.offences).take 16
    if l.length = 16 && s.now - l.getD 15 0 ≤ 10 ^ 9 then
      { Q with offences := l, quarantined := true, stopped := true, stopAt := Q.stopAt.orElse fun _ => cmd }
    else { Q with offences := l }

/-- Statuses that count as an offence. -/
def isOffence (st : Status) : Bool := st = 0x0211 || st = 0x0505

/-! ## Engines -/

/-- The source of a command's trace records: its core, or the leader hub. -/
def traceSource (s : State) (c : Cmd) : Nat := if opEngine c.op then c.core else 24 + leaderSource s

/-- A command leaves its engines: its vector and update unit, its mover requests, its array's merge wait. -/
def leaveEngines (s : State) (q uid : Nat) : State :=
  { s with cores := FMap.mapVal s.cores fun _ k =>
      let waits := k.mergeOwner = some (q, uid)
      { k with
        vec := if k.vec.owner = some (q, uid) then {} else k.vec
        upd := if k.upd.owner = some (q, uid) then {} else k.upd
        movers := k.movers.filter fun m => !(m.queue = q && m.cmd = uid)
        mergeWait := if waits then none else k.mergeWait
        mergePlan := if waits then [] else k.mergePlan
        mergeOwner := if waits then none else k.mergeOwner } }

/-- What a kill of an ARRAY discards in its core: drain accumulators, shadow registers and the reed terms that wait (R65,
R72). An ARRAY queued behind the one that holds the array discards nothing. -/
def Core.discard (k : Core) (q uid : Nat) : Core :=
  if k.mergeOwner.all (· = (q, uid)) then { k with drainEven := [], drainOdd := [], shadow := [], mergeQueue := [], mergeHeld := [] }
  else k

/-- The array of a core gives up a started ARRAY (R72). -/
def discardArray (s : State) (q : Nat) (c : Cmd) : State :=
  if c.op = 1 && c.state = .started then updCore s c.core fun k => k.discard q c.uid else s

/-- A waiter is the wait of a command. -/
def Waiter.is (w : Waiter) (q uid : Nat) : Bool := w.queue = q && w.cmd = uid

/-- A command withdraws from the sync objects it waits at. The local count of a barrier phase that it had completed is open
again (R278). -/
def withdraw (s : State) (q uid : Nat) : State :=
  { s with sync := FMap.mapVal s.sync fun _ o =>
      if o.waiters.any fun w => w.is q uid then
        { o with
          waiters := o.waiters.filter fun w => !w.is q uid
          arrived := if o.type = 4 then o.arrived - 1 else o.arrived
          localDone := false }
      else o }

/-- A command with everything it held dropped. -/
def Cmd.bare (c : Cmd) : Cmd :=
  { c with staged := [], nf := 0, obs := [], views := [], uses := [], writes := [], ctxs := [], awaiting := 0
           waiting := false, arrived := false, merged := false, chained := false, issued := 0, sent := false, sentAt := 0, lead := 0
           objectWait := false, acked := true, heldTo := 0, sweepRec := none, result := 0
           issuedBlocks := 0, gotTiles := 0, gotBlocks := 0, cycle0 := none, shift := 0 }

/-- A MOVE with a side on another module: bits [60:48] of an offset hold its index plus one (R332). The front end clears
them at the start where they name this module. -/
def Cmd.remote (c : Cmd) : Bool := c.op = 4 && (bits (field c.bytes 28 8) 60 48 ≠ 0 || bits (field c.bytes 36 8) 60 48 ≠ 0)

/-- The destination of a MOVE lies on another module. -/
def Cmd.remoteDst (c : Cmd) : Bool := c.op = 4 && bits (field c.bytes 36 8) 60 48 ≠ 0

/-- The module that a MOVE's remote side lies on. -/
def remoteModule (s : State) (q : Nat) (c : Cmd) : Nat :=
  match ((queueAt s q).bind Queue.job).bind (jobAt s) with
  | none => moduleId s
  | some J => jobModule s J (max (bits (field c.bytes 28 8) 60 48) (bits (field c.bytes 36 8) 60 48) - 1)

/-- The type 3 packet of a MOVE to another module: its staging there commits, or is discarded (R333). -/
def tellRemote (s : State) (q : Nat) (c : Cmd) (commit : Bool) : State :=
  if c.remoteDst then
    sendFlits { s with win := { s.win with sent := s.win.sent ++ [(q, c.uid, commit)] } } 0 3 (remoteModule s q c) 32 s.now
  else s

/-! ## Cycles of an ARRAY (R59, R70, R71) -/

/-- Cycles of the cluster clock in a number of beats. -/
def cyclesOf (s : State) (core beats : Nat) : Nat := beats * (clusterAt s (core / 4)).clock / 1000

/-- The clock of a cluster is stopped: by a droop throttle or a brown-out (R72, R380). -/
def clockStopped (s : State) (c : Nat) : Bool := (clusterAt s c).throttled || (clusterAt s c).brownedOut

/-- Beats that a number of cycles of the cluster clock takes. -/
def beatsOf (s : State) (core cycles : Nat) : Nat := ceilDiv (1000 * cycles) (clusterAt s (core / 4)).clock

/-- The cycle of an ARRAY's first column: behind its first shadow load, unless it chains (R70, R71). -/
def firstColumn (chained : Bool) : Nat := if chained then 0 else 32

/-- The columns that an ARRAY has issued and the idle issue cycles it has had within `n` cycles of its cycle 0, pass after
pass (R59, R70). -/
def issuedIn (r : List Byte) (chained : Bool) (n : Nat) : Nat × Nat :=
  if aZeroK r then (0, 0)
  else
    let t := n - firstColumn chained
    let per := aPassCycles r
    (min (aPasses r * aCols r) (t / per * aCols r + min (t % per) (aCols r)),
     min (aBubbles r) (t / per * (per - aCols r) + (t % per - aCols r)))

/-- The cycle in which column `col` of pass `i` issues, from cycle 0 (R59, R70). -/
def issueCycle (r : List Byte) (chained : Bool) (i col : Nat) : Nat := firstColumn chained + i * aPassCycles r + col

/-- Columns and idle cycles that an ARRAY which stops `n` cycles after its cycle 0 has issued (log entry 123). -/
def countIssued (s : State) (c : Cmd) (n : Nat) : State :=
  let p := issuedIn c.bytes c.chained n
  let i := 0x6300 + c.core
  bump (bump s i 1 p.1) i 2 (p.2 + if c.cycle0.isSome then c.lead else 0)

/-- The cycles that a started ARRAY has run since its cycle 0 (R70, R71). -/
def arrayCycles (s : State) (c : Cmd) : Nat := c.cycle0.elim 0 fun z => cyclesOf s c.core (s.now - z)

/-- Those of them in which its issue was not held. -/
def issueCycles (s : State) (c : Cmd) : Nat := c.cycle0.elim 0 fun z => cyclesOf s c.core (s.now - z - c.shift)

/-! ## Stalls and miss logs (R161, R178, R179) -/

/-- One miss record of a function (Table 7.3). A record that overwrites an unread one counts as dropped. -/
def missRecord (s : State) (fn queue index planned arrived cause detail cls stream : Nat) : State :=
  if !cadence s || arrived ≤ planned then s
  else
    let late := min (arrived - planned) (2 ^ 32 - 1)
    let n := dnum s (0x6A00 + fn) 1
    let r := toLe 8 arrived ++ toLe 1 (64 * stream) ++ toLe 1 cls ++ toLe 1 detail ++ toLe 1 cause ++ toLe 2 (8 * queue)
      ++ toLe 2 0x0601 ++ toLe 4 index ++ toLe 4 late ++ toLe 8 planned
    let s := { s with miss := FMap.set s.miss (256 * fn + n % 256) r }
    let s := if 256 ≤ n && dnum s (0x6A00 + fn) 5 ≤ n - 256 then bump s (0x6A00 + fn) 4 1 else s
    raiseTo (bump (bump s (0x6A00 + fn) 1 1) (0x6A00 + fn) 2 late) (0x6A00 + fn) 3 late

/-- A stall of a class and a cause: beats and one event (R161). -/
def stall (s : State) (cls cause beats : Nat) : State :=
  bump (bump s (0x6400 + cls) cause beats) (0x6400 + cls) (0x10 + cause) 1

/-- A stalled start ends: its beats count by class and cause, with the trace record; a base-layer barrier writes a miss
record (R161, R188). A barrier has no cause of its own in the stall table; it counts under cause 1 (log entry 25). -/
def endStall (s : State) (q fn : Nat) (c : Cmd) : State :=
  if !c.objectWait then s
  else
    let cls := c.waitCode / 256
    let cause := c.waitCode % 256
    let beats := s.now - c.waitSince
    let s := stall s cls (if cause = 6 then 1 else cause) beats
    let s := trace s 4 (traceSource s c) q (256 * cls + if cause = 6 then 1 else cause) beats 0
    if cause = 6 then missRecord s fn q (c.stream.getD c.seq) c.waitSince s.now 6 0 cls 0 else s

/-! ## Failure (R104) -/

/-- A command fails: its staging is discarded, its record written, and the queue stops but for the statuses that leave it
running. The columns of an ARRAY that its own range check stops have been counted there (R65). -/
def failCmd (s : State) (q uid : Nat) (st : Status) (stops : Bool) : State :=
  match (queueAt s q).bind (cmdAt · uid) with
  | none => s
  | some c =>
    let s := endStall (withdraw (discardArray (leaveEngines s q uid) q c) q uid) q (((queueAt s q).map Queue.fn).getD 0) c
    let s := if c.op = 1 && c.state = .started && st ≠ 0x0F02 then countIssued s c (issueCycles s c) else s
    let s := updCmd s q uid fun c => { c.bare with state := .finished st }
    let s := putCompletion s q c st
    let s := if isOffence st then offence s q (some uid) else s
    releaseHeld (if stops then stopQueue s q st else s)

/-- A failure that stops the queue. -/
def fail (s : State) (q uid : Nat) (st : Status) : State := failCmd s q uid st true

/-- A command finishes with a success status and its staging. -/
def finish (s : State) (q uid : Nat) (st : Status) (f : Cmd → Cmd) : State :=
  updCmd (leaveEngines s q uid) q uid fun c => { f c with state := .finished st }

/-! ## Commit (R103, R127) -/

/-- The contents that later commands of the queue started with take the committed pages of a predecessor (R126). -/
def passOn (c d : Cmd) : Cmd :=
  { d with views := FMap.mapVal d.views fun key m => overlayWrites m key c.staged }

/-- A committed SWEEP's record joins the job's sweep log (R99). -/
def logSweep (s : State) (q : Nat) (r : SweepRec) : State :=
  match queueAt s q with
  | none => s
  | some Q =>
    let s := updQueue s q fun Q => { Q with windowSweeps := Q.windowSweeps + 1 }
    match Q.job with
    | none => s
    | some j => updJob s j fun J =>
        { J with sweepLog := FMap.set J.sweepLog (J.sweeps % 4096) { r with index := Q.windowSweeps }, sweeps := J.sweeps + 1 }

/-- The live buffer of a version. -/
def bufOfVer (s : State) (ver : Nat) : Option Buf :=
  (FMap.get? s.bufs (verBuf ver)).filter fun b => verKey (verBuf ver) b.gen = ver

/-- The handle of what a command adds into: ACC of REED KIND 1 and 3, a local DST of MOVE KIND 1. -/
def accField (c : Cmd) : Option Nat :=
  let kind := field c.bytes 16 1
  if c.op = 3 && (kind = 1 || kind = 3) then some (rH c.bytes 36)
  else if c.op = 4 && kind = 1 && bits (field c.bytes 36 8) 60 48 = 0 then some (rH c.bytes 24)
  else none

/-- A buffer version is a gradient accumulator's: a pinned HBM buffer (R224). -/
def isAcc (s : State) (ver : Nat) : Bool := (bufOfVer s ver).any fun b => b.tier = 1 && b.cls = 3

/-- The accumulator that a command contributes to, by version (R225). -/
def accOf (s : State) (Q : Queue) (c : Cmd) : Option Nat := ((accField c).map (hVer Q.part)).filter (isAcc s)

/-! ### Commit windows (R128) -/

/-- The open commit window that holds the command of a number: its first command. A COMMIT that has been fetched ends the
window, and lies outside it. -/
def windowOf (Q : Queue) (uid : Nat) : Option Nat :=
  (Q.window.toList ++ Q.laterWindows).find? fun f => f ≤ uid && !(Q.cmds.any fun d => d.op = 6 && f ≤ d.uid && d.uid ≤ uid)

/-- The command lies in an open commit window. -/
def inWindow (Q : Queue) (c : Cmd) : Bool := (windowOf Q c.uid).isSome

/-- Started commands of the open window that holds a command. -/
def windowCount (Q : Queue) (c : Cmd) : Nat :=
  (Q.cmds.filter fun d => inWindow Q d && windowOf Q d.uid = windowOf Q c.uid && d.state ≠ .fetched).length

/-- The open windows of a queue become `l`, rising. -/
def Queue.withWindows (Q : Queue) (l : List Nat) : Queue := { Q with window := l.head?, laterWindows := l.drop 1 }

/-- The queue's oldest RUN may commit: no command of its stream and no earlier command is left, no open window holds it,
the queue runs (R101, R103). -/
def runEnded (Q : Queue) (r : Cmd) : Bool :=
  !Q.stopped && !(Q.cmds.any fun c => (c.stream.isSome && c.run = r.uid) || c.uid < r.uid) && !inWindow Q r

/-- The queue's RUNs whose streams have ended commit, oldest first (R101, R103). -/
def commitRuns (fuel : Nat) (s : State) (q : Nat) : State :=
  match fuel with
  | 0 => s
  | fuel + 1 =>
    match queueAt s q with
    | none => s
    | some Q =>
      match Q.runs with
      | [] => s
      | r :: _ =>
        if !runEnded Q r then s
        else
          let s := trace s 2 (traceSource s r) q r.seq 0 0
          let s := updQueue (putCompletion s q r 0) q fun Q =>
            { Q with committed := r.seq, running := if Q.earlierRuns.isEmpty then none else Q.running, earlierRuns := Q.earlierRuns.drop 1 }
          commitRuns fuel (releaseHeld (holdQueue s q)) q

/-- The RUNs that may commit after a change of the queue. -/
def commitRun (s : State) (q : Nat) : State :=
  match queueAt s q with
  | none => s
  | some Q => commitRuns Q.runs.length s q

/-- The oldest uncommitted command commits: staged pages switch, reports and observations fold in, the record is written
or COMMITTED advances. -/
def commitOne (s : State) (q : Nat) (c : Cmd) (st : Status) : State :=
  let s := c.staged.foldl storeStaged s
  let s := match (queueAt s q).bind Queue.job with
    | none => s
    | some j => updJob s j fun J =>
        let J := foldObs J c.nf c.obs
        match (queueAt s q).bind (accOf s · c) with
        | none => J
        | some a => if J.accs.contains a then J else { J with accs := J.accs ++ [a] }
  let s := match c.sweepRec with
    | none => s
    | some r => logSweep s q r
  let s := if c.op = 1 then bump s (0x6300 + c.core) 3 1 else s
  let s := if opEngine c.op then updCore s c.core fun k => { k with idleSince := s.now } else s
  let s := trace s 2 (traceSource s c) q c.seq (c.stream.getD 0) 0
  let s := if c.stream.isNone || !success st then putCompletion s q c st else s
  let s := tellRemote s q c true
  let s := updQueue s q fun Q =>
    { Q with committed := c.seq, cmds := (Q.cmds.filter fun d => d.uid ≠ c.uid).map (passOn c) }
  commitRun (releaseHeld s) q

/-- The command is the oldest uncommitted one of its queue. -/
def isOldest (Q : Queue) (uid : Nat) : Bool :=
  match Q.cmds with
  | [] => false
  | c :: _ => c.uid = uid

/-- No quarantine by an earlier command's offence holds the command's commit back (R104, R125). -/
def mayCommit (Q : Queue) (c : Cmd) : Bool := !(Q.stopAt.any fun n => n < c.uid)

/-! ## Kill (R130, R131) -/

/-- The root wait of a grouped ARRAY that ends now (R49, R70). -/
def countRootWait (s : State) (c : Cmd) : State :=
  if c.sent then bump s (0x6300 + c.core) 11 (cyclesOf s c.core (s.now - c.sentAt)) else s

/-- The counters of a killed ARRAY (Table 3.7): the kill and the cycles up to it, its full count where it had finished;
columns, idle cycles and the root wait of one that had not (log entry 123). -/
def countKilledArray (s : State) (c : Cmd) : State :=
  let i := 0x6300 + c.core
  if c.state = .started then
    countRootWait (countIssued (bump (bump s i 4 1) i 5 (arrayCycles s c)) c (issueCycles s c)) c
  else if c.done then bump (bump s i 4 1) i 5 (aCycles c.bytes c.chained)
  else s

/-- A remote signal that has not reached its target is withdrawn: it leaves the list of signals sent. How the withdrawal
overtakes it is not stated (log entry 133). -/
def recallSignal (s : State) (c : Cmd) : State :=
  let e := (bits (field c.bytes 20 4) 27 16, field c.bytes 20 2, field c.bytes 16 1, field c.bytes 24 8)
  { s with win := { s.win with signals := s.win.signals.erase e } }

/-- A remote signal that has been applied at its target: it is fixed, and no kill reaches it (R278). -/
def Cmd.fixed (now : Nat) (c : Cmd) : Bool := c.heldTo ≠ 0 && c.heldTo ≤ now

/-- What a command that is killed or dropped leaves behind: its engines, the sync object it waits at, the stall of its start,
the counters of an ARRAY; its signal is recalled, its partials are withdrawn, and its remote writes are discarded (R72, R222,
R278, R333). -/
def giveUp (s : State) (q : Nat) (c : Cmd) : State :=
  let s := withdrawPartials (withdraw (discardArray (leaveEngines s q c.uid) q c) q c.uid) c.uid
  let s := endStall s q (((queueAt s q).map Queue.fn).getD 0) c
  let s := if c.op = 1 then countKilledArray s c else s
  let s := if c.heldTo ≠ 0 && !c.fixed s.now then recallSignal s c else s
  if c.state ≠ .fetched then tellRemote s q c false else s

/-- One started command is killed: counters, trace, its 0x0305 record; it stands fetched again with its kills counted.
RERUNS of the record counts the re-runs before this kill (DESIGN CHOICE: the manual does not say whether it includes the
kill that the record reports; log entry 127). -/
def killCmd (s : State) (q : Nat) (counts : Bool) (c : Cmd) : State :=
  let s := trace (giveUp s q c) 3 (traceSource s c) q c.seq (c.stream.getD 0) 0
  let d := { c with kills := if counts then c.kills + 1 else c.kills }
  if 3 ≤ d.kills then failCmd (updCmd s q c.uid fun _ => { d.bare with state := .fetched }) q c.uid 0x030C true
  else
    let s := putCompletion s q c 0x0305
    updCmd s q c.uid fun _ => { d.bare with state := .fetched, reruns := c.reruns + 1 }

/-- Statuses of a FREE that leave the queue running (R104). -/
def freeStatus (st : Status) : Bool := st = 0x0211 || st = 0x0212 || st = 0x0205

/-- A command that has failed stands and is not struck by a kill. A FREE refused without a stop has not failed the queue. -/
def Cmd.failed (c : Cmd) : Bool :=
  match c.state with
  | .finished st => !success st && !(c.op = 10 && freeStatus st)
  | _ => false

/-- The commands that a kill strikes: every one that has started, or waits at its start, and is neither failed nor a fixed
SYNC. -/
def struck (now : Nat) (Q : Queue) : List Cmd :=
  Q.cmds.filter fun c => (c.state ≠ .fetched || c.objectWait) && !c.failed && !c.fixed now

/-- Beats of the commands that a kill discards (R321). -/
def lostBeats (s : State) (Q : Queue) : Nat := ((struck s.now Q).map fun c => s.now - c.startedAt).sum

/-- The greatest value of an accounting field. -/
def accountMax : Nat := 2 ^ 64 - 1

/-- Beats lost by a queue. -/
def chargeLost (s : State) (q n : Nat) : State :=
  updQueue s q fun Q => { Q with acct := { Q.acct with lost := min accountMax (Q.acct.lost + n) } }

/-- A kill takes effect: the queue returns to its resume point. A fault kill counts for every command that it strikes
(R131); a pre-emption charges the beats that it discards (R321), and the queue holds there (R314). A window that a RUN under
way opened stays open with it. -/
def strikeQueue (s : State) (q : Nat) (kind : KillKind) : State :=
  match queueAt s q with
  | none => s
  | some Q =>
    let lost := lostBeats s Q
    let s := if kind = .preemption then bump (chargeLost s q lost) (0x6500 + Q.fn) 4 lost else s
    let s := (struck s.now Q).foldl (fun s c => killCmd s q (kind = .fault) c) s
    let s := releaseHeld (updQueue s q fun Q =>
      { Q.withWindows ((Q.window.toList ++ Q.laterWindows).filter fun f => Q.runs.any fun r => r.uid = f) with heldKill := none })
    if kind = .preemption then holdQueue s q else s

/-- A kill would strike an ARRAY on a cluster whose clock a droop throttle has stopped (R73). -/
def throttledKill (s : State) (Q : Queue) : Bool :=
  (struck s.now Q).any fun c => c.op = 1 && c.state = .started && (clusterAt s (c.core / 4)).throttled

/-- The kill that waits for a throttle's end, once another joins it: a fault kill counts (R73, R131). -/
def joinKills (a b : KillKind) : KillKind := if a = .fault || b = .fault then .fault else b

/-- A kill of a queue. It takes effect at once, or in the first cycle after the droop throttle that has stopped an ARRAY
which it strikes (R73). -/
def killQueue (s : State) (q : Nat) (kind : KillKind) : State :=
  match queueAt s q with
  | none => s
  | some Q =>
    if throttledKill s Q then updQueue s q fun Q => { Q with heldKill := some (Q.heldKill.elim kind (joinKills · kind)) }
    else strikeQueue s q kind

end Sys2Proof.Machine
end

