-- ==== Sys2Proof/Machine/Journal.lean ====
section
/-! DEFINITION. The replay journal of the Record stop, the matching of external inputs in replay (R288 to R291). Log entries are notes/assumptions/<n>.md. -/

namespace Sys2Proof.Machine

open Sys2Proof

/-! ## The journal ring -/

/-- Slots of the journal ring. -/
def journalSlots (s : State) : Nat := dnum s 0x7300 2 / 32

/-- The ring has a free place; one slot stays empty, so that a full ring differs from an empty one (log entry 20). -/
def journalRoom (s : State) : Bool :=
  0 < journalSlots s && (dnum s 0x7300 3 + 1) % journalSlots s ≠ dnum s 0x7300 4 % journalSlots s

/-- One record written to the ring (R289). -/
def journalEmit (s : State) (r : List Byte) : State :=
  let w := dnum s 0x7300 3
  dset (hostWrite s (dnum s 0x7300 1 + 32 * w) r) 0x7300 3 ((w + 1) % journalSlots s)

/-- Records held on the hub move to the ring, as many as it has room for. -/
def journalDrain (s : State) (fuel : Nat) : State :=
  match fuel with
  | 0 => s
  | fuel + 1 =>
    match s.tel.journalHeld with
    | [] => s
    | r :: t =>
      if journalRoom s then journalDrain (journalEmit { s with tel := { s.tel with journalHeld := t } } r) fuel else s

/-- Held records that have room leave; the buffer holds 32,768. -/
def journalFlush (s : State) : State := journalDrain s 32768

/-- The 32 bytes of a journal record (Table 11.8). -/
def journalBytes (beat kind module source value addr len crc : Nat) : List Byte :=
  toLe 8 beat ++ toLe 1 kind ++ toLe 1 module ++ toLe 2 source ++ toLe 4 value ++ toLe 8 addr ++ toLe 4 len ++ toLe 4 crc

/-- Records lost are told at the first free place of the hub's buffer: one gap record, the counters, REPLAYABLE cleared
and the alarm (R290). -/
def journalGap (s : State) : State :=
  if s.tel.journalDropped = 0 || 32768 ≤ s.tel.journalHeld.length then s
  else
    let gap := journalBytes s.now 6 0 0 s.tel.journalDropped (s.now - s.tel.journalDropBeat) 0 0
    let lost := s.tel.journalDropped
    let s := { s with tel := { s.tel with journalHeld := s.tel.journalHeld ++ [gap], journalDropped := 0 } }
    let s := dset (bump (bump s 0x7300 5 lost) 0x7300 6 1) 0x7300 7 0
    journalFlush (alarm s 9 0)

/-- The next record can be kept: in the ring, or in the hub's buffer (R290). -/
def journalKeeps (s : State) : Bool :=
  s.tel.journalDropped = 0 && ((s.tel.journalHeld.isEmpty && journalRoom s) || s.tel.journalHeld.length < 32768)

/-- One record: to the ring where nothing waits, else to the hub's buffer, else lost. An input is never held (R290). -/
def journalPut (s : State) (r : List Byte) : State :=
  let s := journalGap (journalFlush s)
  if s.tel.journalHeld.isEmpty && s.tel.journalDropped = 0 && journalRoom s then journalEmit s r
  else if journalKeeps s then { s with tel := { s.tel with journalHeld := s.tel.journalHeld ++ [r] } }
  else
    { s with tel := { s.tel with
      journalDropped := s.tel.journalDropped + 1
      journalDropBeat := if s.tel.journalDropped = 0 then s.now else s.tel.journalDropBeat } }

/-- The journal record of an external input (R288); nothing outside the Record stop. -/
def journal (s : State) (kind module source value addr : Nat) (carried : List Byte) : State :=
  if recording s then
    journalPut s (journalBytes s.now kind module source value addr carried.length
      (if carried.isEmpty then 0 else crc32c carried))
  else s

/-- The module index of a queue's job; 0 without one. -/
def moduleOf (s : State) (q : Nat) : Nat := (((queueAt s q).bind Queue.job).bind (jobAt s)).elim 0 Job.moduleIdx

/-- The launch record of a job: its first RUN starts on this module. Where it is kept, the journal is usable for replay again
(R290). -/
def journalLaunch (s : State) (J : Job) : State :=
  if recording s then
    let r := journalBytes s.now 7 J.moduleIdx (J.roles.headD 0) J.modules (leNat (J.digest.take 8)) 0 0
    if journalKeeps (journalGap (journalFlush s)) then dset (journalPut s r) 0x7300 7 1 else journalPut s r
  else s

/-- A Windway arrival from a module outside the job: KIND 5, with the port and the source module (R288). -/
def journalArrival (s : State) (port source : Nat) (carried : List Byte) : State := journal s 5 0 port source 0 carried

/-! ## Replay (R291) -/

/-- One divergence; the first one's beat is kept. -/
def diverge (s : State) : State :=
  let s := bump s 0x6F00 11 1
  if dnum s 0x6F00 12 = 0 then dset s 0x6F00 12 s.now else s

/-- The recorded launch beat of a journal. -/
def recordedLaunch (recs : List (List Byte)) : Nat := ((recs.find? fun r => field r 8 1 = 7).map fun r => field r 0 8).getD 0

/-- An external input to a job in replay is matched against the next record of its KIND and SOURCE. Answers the beat until
which the input is held, none where it is taken now. Before the replay's launch nothing is held (log entry 21). -/
def replayInput (s : State) (j kind source value : Nat) (carried : List Byte) : State × Option Nat :=
  match (jobAt s j).bind fun J => J.replay.map fun recs => (J, recs) with
  | none => (s, none)
  | some (J, recs) =>
    match recs.find? fun r => field r 8 1 = kind && field r 10 2 = source with
    | none => (diverge s, none)
    | some r =>
      let s := updJob s j fun J => { J with replay := some (recs.erase r) }
      let crc := if carried.isEmpty then 0 else crc32c carried
      if field r 12 4 ≠ value || field r 24 4 ≠ carried.length || field r 28 4 ≠ crc then (diverge s, none)
      else
        match J.launched with
        | none => (s, none)
        | some l =>
          let due := l + field r 0 8 - recordedLaunch recs
          if due < s.now then (diverge s, none) else if s.now < due then (s, some due) else (s, none)

/-- An input held until its beat. -/
def holdInput (s : State) (j due : Nat) (i : Instr) : State :=
  updJob s j fun J => { J with replayHeld := J.replayHeld ++ [(due, i)] }

/-- Records without an input at the end of the job are divergences. -/
def replayEnd (s : State) (J : Job) : State :=
  match J.replay with
  | none => s
  | some recs => (recs.filter fun r => field r 8 1 ≠ 6 && field r 8 1 ≠ 7).foldl (fun s _ => diverge s) s

/-! ## Meanings -/

/-- The gap record is written at the first free place (R290). -/
def execJournalGap (s : State) : Result := .next (journalGap (journalFlush s))

end Sys2Proof.Machine
end

