-- ==== Sys2Proof/Machine/ReedEngine.lean ====
section
/-! DEFINITION. The reed engine and gradient accumulators: what a context holds, the start checks of R90, the phases of
R88 and R89, REED KIND 1 to 4 (R114), contributions and conversions (R225, R227). Activations lie feature by feature:
feature f, token t at byte 512f + t (R151, log entry 19). Log entries are notes/assumptions/<n>.md. -/

namespace Sys2Proof.Machine

open Sys2Proof

/-! ## Working copies (R199, R210) -/

/-- A size padded to a multiple of 64 bytes. -/
def pad64 (n : Nat) : Nat := roundUp n 64

/-- The offsets of one target's parts in a serve working copy, from its first byte: A_q, s_A, B_q, s_B and the end
(R199). -/
def servePart (off rank k nf : Nat) : Nat × Nat × Nat × Nat × Nat :=
  let sA := off + pad64 (rank * k)
  let b := sA + pad64 (4 * rank)
  let sB := b + pad64 (nf * rank)
  (off, sA, b, sB, sB + pad64 (4 * nf))

/-- One target of a reed as the engine reads it: the memories that hold A and B with the offsets of their codes and row
scales, and s_u. -/
structure ReedView where
  rank : Nat
  k : Nat
  nf : Nat
  memA : Mem
  memB : Mem
  offA : Nat
  offSA : Nat
  offB : Nat
  offSB : Nat
  suScale : W32
  suRecip : W32
  ring : Nat
  deriving DecidableEq, Repr

/-- An FP32 word of a memory. -/
def memFp (m : Mem) (a : Nat) : W32 := BitVec.ofNat 32 (leNat (m.read a 4))
/-- An INT8 code of a memory. -/
def memCode (m : Mem) (a : Nat) : Int := (m.byte a).toInt

/-- The row scales of a train buffer: at the first 64 KiB boundary after the codes (R210). -/
def trainScales (n : Nat) : Nat := roundUp n 65536

/-- What the engine reads for a command's layer in a bound context: the working copy of a serve context, or the buffers of
a train context as the command sees them, with s_u from the layer table or from the job's ring. -/
def reedView (Q : Queue) (c : Cmd) (J : Job) (x : Ctx) (t : ReedTarget) : ReedView :=
  if x.serve then
    let (a, sA, b, sB, _) := servePart t.wqA x.rank t.k t.nf
    { rank := x.rank, k := t.k, nf := t.nf, memA := x.copy, memB := x.copy, offA := a, offSA := sA, offB := b, offSB := sB
      suScale := memFp x.copy (8 * t.uRing), suRecip := memFp x.copy (8 * t.uRing + 4), ring := noRing }
  else
    { rank := x.rank, k := t.k, nf := t.nf
      memA := viewOf Q c (hVer Q.part t.wqA), memB := viewOf Q c (hVer Q.part t.wqB)
      offA := 0, offSA := trainScales (x.rank * t.k), offB := 0, offSB := trainScales (t.nf * x.rank)
      suScale := ringScale J t.uRing, suRecip := ringRecip J t.uRing, ring := t.uRing }

/-- The view of the context that covers a lane group, if it has a target for the command's layer. -/
def laneView (s : State) (Q : Queue) (c : Cmd) (J : Job) (g : Nat) : Option ReedView :=
  (FMap.get? s.ctxs (laneCtx c.bytes g)).bind fun x => (ctxTarget x (rLayer c.bytes)).map (reedView Q c J x)

/-- The live tokens of a lane group. -/
def laneTokensOf (r : List Byte) (g : Nat) : List Nat := (List.range (laneTokens r g)).map fun i => 32 * g + i

/-! ## Start checks (R90) -/

/-- K and N_F of a command as R90 compares them: of each reduction for ARRAY, of the fields for REED. The features of the
reductions are numbered through the command (R35), so the last of them lies at their sum, which N_F must reach (DEDUCED: no
term is formed for a feature outside the target; log entry 140). -/
def reedShape (r : List Byte) : Nat × Nat :=
  if rOp r = 1 then (aK r, aFeats r) else (field r 40 4, field r 44 4)

/-- The status that a covered lane group gives a command at its start; 0 for none. -/
def laneStatus (s : State) (job : Nat) (r : List Byte) (g : Nat) : Status :=
  match FMap.get? s.ctxs (laneCtx r g) with
  | none => 0x0103
  | some x =>
    if x.state ≠ .bound then 0x0103
    else if x.job ≠ job then 0x0106
    else if x.invalid then 0x0107
    else
      match ctxTarget x (rLayer r) with
      | none => 0x0E31
      | some t => if t.k ≠ (reedShape r).1 || t.nf < (reedShape r).2 then 0x0E31 else 0

/-- The fault of the lowest-numbered lane group that has one (R90). -/
def reedStart (s : State) (job : Nat) (r : List Byte) : Status :=
  ((covered r).map (laneStatus s job r)).find? (· ≠ 0) |>.getD 0

/-! ## Phase one and phase two (R88) -/

/-- Σ over a range of an integer term. -/
def sumOver (n : Nat) (f : Nat → Int) : Int := (List.range n).foldl (fun a i => a + f i) 0

/-- One element u[t][j] of phase one, before requantization: steps 1 and 2 of R35 with c = rne(s_x × s_A[j]). -/
def phaseOneSum (v : ReedView) (x : Mem) (sx : W32) (t j : Nat) : W32 :=
  let acc := sumOver v.k fun k => memCode x (512 * k + t) * memCode v.memA (v.offA + j * v.k + k)
  Fp.mul (Fp.ofInt acc) (Fp.mul sx (memFp v.memA (v.offSA + 4 * j)))

/-- The phase-one results of a lane group's tokens: token, rank index, sum and its code. -/
def phaseOne (v : ReedView) (x : Mem) (sx : W32) (tokens : List Nat) : List (Nat × Nat × W32 × Quant) :=
  tokens.flatMap fun t => (List.range v.rank).map fun j =>
    let y := phaseOneSum v x sx t j
    (t, j, y, requantize y v.suRecip)

/-- u as INT8 codes by byte 512j + t. -/
def uMem (l : List (Nat × Nat × W32 × Quant)) : Mem :=
  l.foldl (fun m e => m.write (512 * e.2.1 + e.1) [BitVec.ofInt 8 e.2.2.2.code]) []

/-- One reed term acc_r[n][t] (phase two). -/
def phaseTwo (v : ReedView) (u : Mem) (n t : Nat) : Int :=
  sumOver v.rank fun j => memCode u (512 * j + t) * memCode v.memB (v.offB + n * v.rank + j)

/-! ## Cost (R89) -/

/-- Rank width w(r). -/
def rankWidth (r : Nat) : Nat := if r ≤ 16 then 16 else if r ≤ 32 then 32 else if r ≤ 64 then 64 else 64 * ceilDiv r 64

/-- β = ⌈W / 16⌉ over the covered lane groups. -/
def reedBeta (s : State) (r : List Byte) : Nat :=
  ceilDiv (((covered r).map fun g => rankWidth (((FMap.get? s.ctxs (laneCtx r g)).map Ctx.rank).getD 0)).sum) 16

/-- Progress of the reed plan: merge-wait cycles so far, the end of the last phase two, the cycles in which earlier final
passes wrote their last output (latest first), and the columns that wait, each with its cycles, in order. -/
structure ReedPlan where
  waits : Nat
  ended : Nat
  wrote : List Nat
  holds : List (Nat × Nat)
  deriving DecidableEq, Repr

/-- The plan of one final pass whose first column issues at `f` before any wait. -/
def planPass (r : List Byte) (beta f i : Nat) (w4 : Bool) (feats : Nat) (p : ReedPlan) : ReedPlan :=
  let start := max p.ended (p.wrote.getD 1 0)
  let per := if w4 then 32 else 64
  let q := (List.range (ceilDiv feats 64)).foldl (fun (q : Nat × List (Nat × Nat)) b =>
    let reads := f + per * b + 22 + q.1
    let ready := start + beta * (b + 1)
    if reads < ready then (q.1 + (ready - reads), q.2 ++ [(i * aCols r + per * b, ready - reads)]) else q) (p.waits, p.holds)
  { waits := q.1, ended := start + beta * ceilDiv feats 64, wrote := (f + aCols r - 1 + 25 + q.1) :: p.wrote, holds := q.2 }

/-- The reed plan of an ARRAY command: cycles from its cycle 0 (R89). -/
def reedPlan (s : State) (r : List Byte) (chained : Bool) : ReedPlan :=
  let beta := reedBeta s r
  let c1 := if rH r 56 = 0 then ceilDiv (aK r) 64 * beta else 0
  let finals := (List.range (aReds r)).filter (aFinal r)
  finals.foldl (fun p d =>
    let i := (d + 1) * aRed r - 1
    planPass r beta (issueCycle r chained i 0) i (aW4 r i) (aFeat r d) p)
    { waits := 0, ended := c1, wrote := [], holds := [] }

/-! ## Reads of the engine (R88, R212) -/

/-- Reads of the reed engine through the core's crossbar port count as a stall where they come late. By how many beats no row
tells, nor by which of causes 3 and 4: both are free (log entry 141). -/
def lateReads (s : State) (core q cls : Nat) : State :=
  let late := Config.freeNat s.fresh
  let cause := 3 + Config.freeNat (s.fresh + 1) % 2
  let s := { s with fresh := s.fresh + 2 }
  if late = 0 then s else trace (stall s cls cause late) 4 core q (256 * cls + cause) late 0

/-- What a command of the reed engine reads through that port: x of phase one from an HBM buffer (class 2, R88), and the
working copies of serve contexts (class 5, R212). -/
def reedReads (s : State) (q : Nat) (Q : Queue) (c : Cmd) : State :=
  let r := c.bytes
  let x : Option Nat :=
    if c.op = 1 then (if rH r 56 = 0 && !(covered r).isEmpty then some (rH r 16) else none)
    else if field r 16 1 = 4 then some (rH r 20) else none
  let s := if x.any fun h => (usedBuf s c (bufKey Q.part (hIndex h))).any fun b => b.tier = 1 then lateReads s c.core q 2 else s
  if (covered r).any fun g => (FMap.get? s.ctxs (laneCtx r g)).any Ctx.serve then lateReads s c.core q 5 else s

/-! ## Gradient accumulators (R224 to R227) -/

/-- EXPECTED of a header. -/
def hExpected (h : List Byte) : Nat := field h 60 4
/-- ARRIVED. -/
def hArrived (h : List Byte) : Nat := field h 56 4
/-- G. -/
def hG (h : List Byte) : Nat := field h 52 4
/-- G_RING. -/
def hGRing (h : List Byte) : Nat := field h 48 3
/-- A_RING. -/
def hARing (h : List Byte) : Nat := field h 44 3
/-- D_RING. -/
def hDRing (h : List Byte) : Nat := field h 40 3
/-- ROWS. -/
def hRows (h : List Byte) : Nat := field h 36 4
/-- COLS. -/
def hCols (h : List Byte) : Nat := field h 32 4
/-- CONVERTED. -/
def hConverted (h : List Byte) : Nat := field h 24 8
/-- CONV_CORE. -/
def hConvCore (h : List Byte) : Nat := field h 23 1

/-- Every reserved bit of a header is 0 and every field in its range (R225). -/
def accHeaderOk (h : List Byte) : Bool :=
  1 ≤ hExpected h && 1 ≤ hRows h && 1 ≤ hCols h && field h 51 1 = 0 && field h 47 1 = 0 && field h 43 1 = 0
    && allZero (slice h 0 23)

/-- Whether an accumulator header may take a contribution of the job (R225): ranges, rings, G and CONV_CORE. `gSize` is the
size of the live G buffer in HBM or the capacity tier. -/
def accStart (J : Job) (h : List Byte) (gSize : Option Nat) (shape : Option (Nat × Nat)) : Bool :=
  accHeaderOk h && [hGRing h, hARing h, hDRing h].all (FMap.has J.rings)
    && (gSize.any fun n => hRows h * hCols h ≤ n) && J.coreSet.contains (hConvCore h)
    && (shape.all fun p => hRows h = p.1 && hCols h = p.2)

/-- Element `e` of an accumulator. -/
def accElem (m : Mem) (e : Nat) : Int := signed 64 (leNat (m.read (64 + 8 * e) 8))

/-- What a contribution stages: the accumulator's writes, the conversion's codes where it brings ARRIVED to EXPECTED, and
the reports and observation of the conversion (R227). `m` is the accumulator as the command sees it with its products
already added. -/
def accFinish (J : Job) (part ver : Nat) (m : Mem) : List StageWrite × Nat × List ObsDelta :=
  let h := m.read 0 64
  if hArrived h + 1 ≠ hExpected h then ([⟨ver, 56, toLe 4 (hArrived h + 1)⟩], 0, [])
  else
    let c := Fp.mul (ringScale J (hARing h)) (ringScale J (hDRing h))
    let recip := ringRecip J (hGRing h)
    let ys := (List.range (hRows h * hCols h)).map fun e =>
      let y := Fp.mul (Fp.ofInt (accElem m e)) c
      (y, requantize y recip)
    ([⟨hVer part (hG h), 0, ys.map fun p => BitVec.ofInt 8 p.2.code⟩,
      ⟨ver, 64, zeros (8 * ys.length)⟩, ⟨ver, 56, toLe 4 0⟩, ⟨ver, 24, toLe 8 (hConverted h + 1)⟩],
     reportsOf ys, observeAll (hGRing h) ys)

/-- Products added to elements of an accumulator, as staged writes and as the memory that results. -/
def accAdd (ver : Nat) (m : Mem) (adds : List (Nat × Int)) : Mem × List StageWrite :=
  adds.foldl (fun p e =>
    let v := toLe 8 (unsigned 64 (accElem p.1 e.1 + e.2))
    (p.1.write (64 + 8 * e.1) v, p.2 ++ [⟨ver, 64 + 8 * e.1, v⟩])) (m, [])

/-- A whole contribution: products added, then ARRIVED or the conversion. -/
def contribute (J : Job) (part ver : Nat) (m : Mem) (adds : List (Nat × Int)) : List StageWrite × Nat × List ObsDelta :=
  let (m', ws) := accAdd ver m adds
  let (ws', nf, obs) := accFinish J part ver m'
  (ws ++ ws', nf, obs)

/-! ## REED commands (R114) -/

/-- The queue's oldest running REED of a kind, with its job. -/
def reedCmd (s : State) (q kind : Nat) : Option (Queue × Cmd × Job) :=
  match queueAt s q with
  | none => none
  | some Q =>
    match runningCmd Q fun c => c.op = 3 && field c.bytes 16 1 = kind && c.awaiting = 0 with
    | none => none
    | some c => (Q.job.bind (jobAt s)).map fun J => (Q, c, J)

/-- A buffer of the command as it sees it, by handle. -/
def seen (Q : Queue) (c : Cmd) (h : Nat) : Mem := viewOf Q c (hVer Q.part h)

/-- The tokens of all covered lane groups. -/
def coveredTokens (r : List Byte) : List Nat := (covered r).flatMap (laneTokensOf r)

/-- KIND 1 and 3: exact integer products over the tokens of the covered lane groups, added into ACC. `left` and `right`
give the operand codes of a row and a column. -/
def runGradient (s : State) (q kind : Nat) : State :=
  match reedCmd s q kind with
  | none => s
  | some (Q, c, J) =>
    let r := c.bytes
    let ver := hVer Q.part (rH r 36)
    let m := viewOf Q c ver
    let h := m.read 0 64
    let left := seen Q c (rH r 24)
    let right := if kind = 1 then seen Q c (rH r 28) else seen Q c (rH r 20)
    let tokens := coveredTokens r
    let adds := (List.range (hRows h)).flatMap fun i => (List.range (hCols h)).map fun j =>
      (i * hCols h + j, tokens.foldl (fun a t => a + memCode left (512 * i + t) * memCode right (512 * j + t)) 0)
    let (ws, nf, obs) := contribute J Q.part ver m adds
    finish (reedReads s q Q c) q c.uid 0 fun c => { c with staged := c.staged ++ ws, nf := c.nf + nf, obs := c.obs ++ obs }

/-- One element δu[t][j] of KIND 2: each product scaled, summed over n by the canonical tree. -/
def rankSum (v : ReedView) (delta : Mem) (sd : W32) (nf t j : Nat) : W32 :=
  treeReduce .sum ((List.range nf).map fun n =>
    Fp.mul (Fp.ofInt (memCode delta (512 * n + t) * memCode v.memB (v.offB + n * v.rank + j)))
      (Fp.mul sd (memFp v.memB (v.offSB + 4 * n))))

/-- KIND 2: the rank gradient, requantized against D_RING into OUT. -/
def runRankGradient (s : State) (q : Nat) : State :=
  match reedCmd s q 2 with
  | none => s
  | some (Q, c, J) =>
    let r := c.bytes
    let delta := seen Q c (rH r 24)
    let ys := (covered r).flatMap fun g =>
      match laneView s Q c J g with
      | none => []
      | some v => (laneTokensOf r g).flatMap fun t => (List.range v.rank).map fun j =>
          let y := rankSum v delta (ringScale J (rRing r 52)) (field r 44 4) t j
          (512 * j + t, y, requantize y (ringRecip J (rRing r 48)))
    let ws := ys.map fun e => writeH Q (rH r 32) e.1 [BitVec.ofInt 8 e.2.2.code]
    let pairs := ys.map fun e => e.2
    finish (reedReads s q Q c) q c.uid 0 fun c =>
      { c with staged := c.staged ++ ws, nf := c.nf + reportsOf pairs, obs := c.obs ++ observeAll (rRing r 48) pairs }

/-- Phase one of every covered lane group of a command, reading x from a memory under scale s_x: the codes, reports and
observations. -/
def phaseOneAll (s : State) (Q : Queue) (c : Cmd) (J : Job) (x : Mem) (sx : W32) :
    List (Nat × Nat × W32 × Quant) × Nat × List ObsDelta :=
  (covered c.bytes).foldl (fun acc g =>
    match laneView s Q c J g with
    | none => acc
    | some v =>
      let l := phaseOne v x sx (laneTokensOf c.bytes g)
      let pairs := l.map fun e => e.2.2
      (acc.1 ++ l, acc.2.1 + reportsOf pairs, acc.2.2 ++ observeAll v.ring pairs)) ([], 0, [])

/-- KIND 4: forward phase one, u written to U. -/
def runPhaseOne (s : State) (q : Nat) : State :=
  match reedCmd s q 4 with
  | none => s
  | some (Q, c, J) =>
    let r := c.bytes
    let (l, nf, obs) := phaseOneAll s Q c J (seen Q c (rH r 20)) (ringScale J (rRing r 56))
    let ws := l.map fun e => writeH Q (rH r 28) (512 * e.2.1 + e.1) [BitVec.ofInt 8 e.2.2.2.code]
    finish (reedReads s q Q c) q c.uid 0 fun c => { c with staged := c.staged ++ ws, nf := c.nf + nf, obs := c.obs ++ obs }

end Sys2Proof.Machine
end

