-- ==== Sys2Proof/Machine/Tagged.lean ====
section
/-! DEFINITION. Tagged reduction engines: partials that arrive, rejections, roots (R45, R46, R469). Log entries are
notes/assumptions/<n>.md. -/

namespace Sys2Proof.Machine

open Sys2Proof

/-- The engines of a reduction's route: clusters 0–7 of the job's cores, hub engines 8 and 9. -/
def onRoute (J : Job) (d : RedDecl) (engine : Nat) : Bool :=
  (bit d.route 0 && engine < 8 && J.coreSet.any fun c => c / 4 = engine) || (bit d.route 1 && (engine = 8 || engine = 9))

/-- A partial of a job arrives at an engine: the state, and the status where the engine rejects it. `uid` is the command that
sent it. A partial that follows the root's delivery opens the reduction afresh, but for one that a re-run sends again. -/
def partialAt (s : State) (job engine : Nat) (tag : W64) (lanes : List W64) (uid : Option Nat) : State × Status :=
  match jobAt s job with
  | none => (s, 0x0E23)
  | some J =>
    let d := (redDecl J (tagRed tag)).filter fun d => onRoute J d engine
    let key := redKey job (tagRed tag)
    let held := FMap.getD s.reds key {}
    let again := uid.map fun u => (u, tagLevel tag, tagNode tag)
    if again.any held.resent.contains then
      ({ s with reds := FMap.set s.reds key { held with resent := held.resent.filter fun x => some x ≠ again } }, 0)
    else
      let r := if held.delivered then {} else held
      let st := tagStatus d r engine tag lanes.length
      let reported := updJob s job fun J => { J with nf := min (J.nf + 1) (2 ^ 64 - 1) }
      match d with
      | none => (reported, st)
      | some d =>
        if st ≠ 0 then
          let n := ((r.counts.head?.map Prod.snd).getD lanes.length)
          ({ reported with reds := FMap.set s.reds key { r with rejected := true, root := some (d.rejectedLanes n) } }, st)
        else
          let r' := r.accept d engine uid (tagLevel tag) (tagNode tag) lanes
          let met := r'.rejected && !r.rejected
          ({ (if met then reported else s) with reds := FMap.set s.reds key r' }, if met then 0x0E21 else 0)

/-- The job whose partial or root a row means: that of the sender's queue, else the first that declares the reduction. -/
def redJob (s : State) (sender : Option Nat) (red : Nat) : Option Nat :=
  match (sender.bind (queueAt s)).bind Queue.job with
  | some j => some j
  | none => (s.jobs.find? fun e => (redDecl e.2 red).isSome).map Prod.fst

/-- A partial arrives from outside a running vector program; a rejection fails the sender's oldest running VECTOR
(R46). -/
def partialArrives (s : State) (engine : Nat) (tag : W64) (lanes : List W64) (sender : Option Nat) : State :=
  match redJob s sender (tagRed tag) with
  | none => s
  | some j =>
    let from_ := sender.bind fun q => ((queueAt s q).bind fun Q => runningCmd Q fun c => c.op = 2).map fun c => (q, c)
    let (s, st) := partialAt s j engine tag lanes (from_.map fun p => p.2.uid)
    if st = 0 then s
    else
      match from_ with
      | none => s
      | some (q, c) => fail s q c.uid st

/-- The root of a reduction leaves an engine of its route for every receiver (R469). -/
def deliverRoot (s : State) (engine red : Nat) : State :=
  match s.jobs.find? fun e =>
      ((redDecl e.2 red).any fun d => onRoute e.2 d engine)
        && ((FMap.get? s.reds (redKey e.1 red)).any fun r => r.root.isSome && !r.delivered) with
  | none => s
  | some e => { s with reds := FMap.modify s.reds (redKey e.1 red) fun r => { r with delivered := true } }

/-- The delivered root of a job's reduction. -/
def rootOf (s : State) (job red : Nat) : Option (List W64) :=
  match FMap.get? s.reds (redKey job red) with
  | none => none
  | some r => if r.delivered then r.root else none

/-- A partial arrives at a tagged engine (R45, R46). -/
def execPartialArrival (engine : Nat) (tag : W64) (lanes : List W64) (sender : Option Nat) (s : State) : Result :=
  .next (partialArrives s engine tag lanes sender)

/-- A root is delivered (R469). -/
def execRootDelivery (engine redId : Nat) (s : State) : Result := .next (deliverRoot s engine redId)

end Sys2Proof.Machine
end

