-- ==== Sys2Proof/Machine/Array.lean ====
section
/-! DEFINITION. The multiply-accumulate array and the bell stage: what an ARRAY command computes and stages (R35, R36, R49,
R52 to R69, R112), and the merge wait (R68). Log entries are notes/assumptions/<n>.md. -/

namespace Sys2Proof.Machine

open Sys2Proof

/-- The operands of a running ARRAY as it sees them. -/
structure ArrayIn where
  r : List Byte
  job : Nat
  J : Job
  part : Nat
  stat : Mem
  wgt : Mem
  carry : Mem
  bias : Mem
  u : Mem
  views : List (Nat × ReedView)           -- covered lane groups with their targets
  deriving DecidableEq, Repr

/-- The weight column that feature `f` of pass `i` rides on. -/
def weightCol (r : List Byte) (i f : Nat) : Nat := i * aCols r + if aW4 r i then f / 2 else f

/-- The weight of feature `f`, row `k` in pass `i`: an INT8 code, or a nibble of the INT4 pair (R27, R53, R149). -/
def weight (a : ArrayIn) (i f k : Nat) : Int :=
  let col := weightCol a.r i f
  let b := (a.wgt.byte (65536 * (col / 128) + 512 * (col % 128) + k)).toNat
  if aW4 a.r i then signed 4 (if f % 2 = 1 then b / 16 else b % 16) else signed 8 b

/-- The sidecar scale of feature `f` in pass `i` (Table 6.3). -/
def weightScale (a : ArrayIn) (i f : Nat) : W32 :=
  let col := weightCol a.r i f
  memFp a.wgt (65536 * aTiles a.r + 1024 * (col / 128) + 8 * (col % 128) + if aW4 a.r i && f % 2 = 1 then 4 else 0)

/-- The column sum of feature `f` for token `t` at position `p` of reduction `d`. -/
def columnSum (a : ArrayIn) (d p f t : Nat) : Int :=
  sumOver (aDepth a.r p) fun k => memCode a.stat (512 * (512 * p + k) + t) * weight a (d * aRed a.r + p) f k

/-- The drain accumulator after each pass of reduction `d`: the running sums, first pass first. -/
def runningSums (a : ArrayIn) (d f t : Nat) : List Int :=
  let start := if aCarryIn a.r && d = 0 then signed 64 (leNat (a.carry.read ((f * 512 + t) * 8) 8)) else 0
  ((List.range (aRed a.r)).foldl (fun (acc : Int × List Int) p =>
    let v := acc.1 + columnSum a d p f t
    (v, acc.2 ++ [v])) (start, [])).2

/-- A sum within the 48-bit register (R65). -/
def in48 (v : Int) : Bool := decide (-(2 ^ 47 : Nat) ≤ v ∧ v < (2 ^ 47 : Nat))

/-- Step 3 of R35: the reed term of feature `n` (of the command) on a covered lane; a feature beyond the contract's N_F has
none. -/
def reedMerge (a : ArrayIn) (n t : Nat) (y : W32) : W32 :=
  match a.views.find? fun e => e.1 = t / 32 with
  | none => y
  | some (_, v) =>
    if v.nf ≤ n then y
    else
      let cr := Fp.mul v.suScale (memFp v.memB (v.offSB + 4 * n))
      Fp.add y (Fp.mul (Fp.ofInt (phaseTwo v a.u n t)) cr)

/-- Step 4 of R35. -/
def biasAdd (a : ArrayIn) (n : Nat) (y : W32) : W32 := if rH a.r 32 = 0 then y else Fp.add y (memFp a.bias (4 * n))

/-- Steps 1 and 2 of R35 for one integer sum; a weight scale outside R28 gives the canonical NaN. -/
def convert (sIn sW : W32) (acc : Int) : W32 :=
  if validScale sW then Fp.mul (Fp.ofInt acc) (Fp.mul sIn sW) else Fp.nan

/-- The converted group sums of a grouped reduction, group by group (R49). -/
def groupSums (a : ArrayIn) (d f t : Nat) : List W32 :=
  (List.range (aRed a.r)).map fun g =>
    convert (ringScale a.J (rRing a.r 40 + g)) (weightScale a (d * aRed a.r + g) f) (columnSum a d g f t)

/-- The FP32 result of a final reduction before steps 3 and 4: the scaled sum, the group tree, or +0.0 for K = 0. `root`
gives the delivered root of a reduction of more than 256 groups. -/
def scaledSum (a : ArrayIn) (root : Nat → Nat → W32) (d f t : Nat) : W32 :=
  if aZeroK a.r then 0
  else if aGrouped a.r then
    if 256 < aRed a.r then root (aBase a.r d + f) t else treeOver .sum (groupSums a d f t)
  else convert (ringScale a.J (rRing a.r 40)) (weightScale a ((d + 1) * aRed a.r - 1) f) ((runningSums a d f t).getLastD 0)

/-- y of feature `f` of reduction `d` for a live token (R35). -/
def outputValue (a : ArrayIn) (root : Nat → Nat → W32) (d f t : Nat) : W32 :=
  let n := aBase a.r d + f
  let y := scaledSum a root d f t
  biasAdd a n (if aZeroK a.r then y else reedMerge a n t y)

/-- The 512 tokens. -/
def tokens512 : List Nat := List.range 512

/-- One feature's output: its bytes, 0 in masked and gated slots, and the values of its live tokens. -/
def featureOut (a : ArrayIn) (root : Nat → Nat → W32) (d f : Nat) : List Byte × List (W32 × Quant) :=
  let m := ringRecip a.J (rRing a.r 43)
  let ys := tokens512.map fun t =>
    if tokenLive a.r t then
      let y := outputValue a root d f t
      some (y, requantize y m)
    else none
  (ys.flatMap fun o =>
    match o with
    | none => if aFp32 a.r then zeros 4 else [0]
    | some (y, z) => if aFp32 a.r then toLe 4 y.toNat else [BitVec.ofInt 8 z.code],
   ys.filterMap id)

/-- The carry elements of a feature after position `p`: 64-bit, 0 in masked and gated lanes (R66). -/
def featureCarry (a : ArrayIn) (d p f : Nat) : List Byte :=
  tokens512.flatMap fun t => if tokenLive a.r t then toLe 8 (unsigned 64 ((runningSums a d f t).getD p 0)) else zeros 8

/-- The first sum that leaves the 48-bit register, by pass and column in the order of issue (R65). A grouped pass starts from
0 and a masked lane has no check. -/
def overflowAt (a : ArrayIn) : Option (Nat × Nat) :=
  if aZeroK a.r || aGrouped a.r then none
  else (List.range (aPasses a.r)).findSome? fun i =>
    let d := i / aRed a.r
    ((List.range (aCols a.r)).find? fun col => (List.range (aFeat a.r d)).any fun f =>
      (if aW4 a.r i then f / 2 else f) = col
        && tokens512.any fun t => tokenLive a.r t && !in48 ((runningSums a d f t).getD (i % aRed a.r) 0)).map fun col => (i, col)

/-- Every running sum of the command stays in the 48-bit register (R65). -/
def rangeOk (a : ArrayIn) : Bool := (overflowAt a).isNone

/-- Every weight scale that the bell stage reads lies in R28: those of final passes, or of every pass when grouped
(R150). -/
def scalesOk (a : ArrayIn) : Bool :=
  aZeroK a.r || (List.range (aReds a.r)).all fun d => !aFinal a.r d || (List.range (aFeat a.r d)).all fun f =>
    (if aGrouped a.r then List.range (aRed a.r) else [aRed a.r - 1]).all fun p => validScale (weightScale a (d * aRed a.r + p) f)

/-- Bytes that one output feature takes. -/
def featBytes (r : List Byte) : Nat := if aFp32 r then 2048 else 512

/-- The staged writes, reports and observed values of the command. The carry buffer keeps the partials of the last
non-final pass of each reduction. -/
def arrayOut (a : ArrayIn) (root : Nat → Nat → W32) (outVer carryVer : Nat) : List StageWrite × List (W32 × Quant) :=
  (List.range (aReds a.r)).foldl (fun acc d =>
    let lastCarry := if aFinal a.r d then aRed a.r - 2 else aRed a.r - 1
    let carries := if aGrouped a.r || (aFinal a.r d && aRed a.r < 2) then []
      else (List.range (aFeat a.r d)).map fun f => (⟨carryVer, f * 4096, featureCarry a d lastCarry f⟩ : StageWrite)
    let outs := if aFinal a.r d then (List.range (aFeat a.r d)).map fun f => (f, featureOut a root d f) else []
    (acc.1 ++ carries ++ outs.map fun e => (⟨outVer, featBytes a.r * (aBase a.r d + e.1), e.2.1⟩ : StageWrite),
     acc.2 ++ outs.flatMap fun e => e.2.2)) ([], [])

/-- A value as the 48-bit register holds it. -/
def wrap48 (v : Int) : Int := signed 48 (unsigned 48 v)

/-- The sum that feature `f` of the last pass leaves in lane `t`: a masked lane's tree runs, and its carry is 0 (R61, R66). -/
def drainSum (a : ArrayIn) (d f t : Nat) : Int :=
  let p := aRed a.r - 1
  if aGrouped a.r || (!tokenLive a.r t && p ≠ 0) then columnSum a d p f t else (runningSums a d f t).getLastD 0

/-- The drain accumulators after a command, even and odd by lane, from what they held (R65). The lanes of gated lane groups
are not clocked and keep theirs (R61); K = 0 sets every one to 0 (R63). A last column of INT8, or one with a single feature,
leaves the ODD registers as they were (DESIGN CHOICE: the manual gives them a use in W4A8 alone; log entry 137). -/
def drained (a : ArrayIn) (old : FMap Int × FMap Int) : FMap Int × FMap Int :=
  if aZeroK a.r then ([], [])
  else
    let d := aReds a.r - 1
    let w4 := aW4 a.r (aPasses a.r - 1)
    let f := if w4 then 2 * (aCols a.r - 1) else aCols a.r - 1
    let lanes (f : Nat) (m : FMap Int) : FMap Int :=
      (tokens512.filter fun t => laneTokens a.r (t / 32) ≠ 0).foldl (fun m t => FMap.put 0 m t (wrap48 (drainSum a d f t))) m
    (lanes f old.1, if w4 && !aOddLast a.r then lanes (f + 1) old.2 else old.2)

/-- The block of STAT at a position of a reduction as the registers hold it: row k, token t at 512k + t (R57). -/
def blockOf (m : Mem) (p : Nat) : Mem :=
  (m.filter fun e => 262144 * p ≤ e.1 && e.1 < 262144 * (p + 1)).map fun e => (e.1 - 262144 * p, e.2)

/-- The stationary registers after a command: at each pass change the shadow, loaded with the pass's block, is swapped into
the active registers (R58). -/
def Core.swapped (k : Core) (a : ArrayIn) : Core :=
  if aZeroK a.r then k
  else (List.range (aPasses a.r)).foldl (fun k i => { k with active := blockOf a.stat (i % aRed a.r), shadow := k.active }) k

/-- The queue's oldest running ARRAY whose streams have been delivered (R176). None runs while the clock of its cluster is
stopped (R72). -/
def arrayCmd (s : State) (q : Nat) : Option (Queue × Cmd × Nat × Job) :=
  match queueAt s q with
  | none => none
  | some Q =>
    match (runningCmd Q fun c => c.op = 1 && c.awaiting = 0).filter fun c => !clockStopped s (c.core / 4) with
    | none => none
    | some c => Q.job.bind fun j => (jobAt s j).map fun J => (Q, c, j, J)

/-- The command's operands; phase one runs where U is 0, and reads all of x from STAT (R88). -/
def arrayIn (s : State) (Q : Queue) (c : Cmd) (job : Nat) (J : Job) : ArrayIn × Nat × List ObsDelta :=
  let r := c.bytes
  let stat := seen Q c (rH r 16)
  let (l, nf, obs) := if rH r 56 = 0 && !aZeroK r then phaseOneAll s Q c J stat (ringScale J (rRing r 40)) else ([], 0, [])
  ({ r, job, J, part := Q.part, stat, wgt := seen Q c (rH r 20)
     carry := if aGrouped r then [] else seen Q c (rH r 28), bias := seen Q c (rH r 32)
     u := if rH r 56 = 0 then uMem l else seen Q c (rH r 56)
     views := (covered r).filterMap fun g => (laneView s Q c J g).map fun v => (g, v) }, nf, obs)

/-- The counters of an ARRAY that has issued all its columns (Table 3.7). -/
def countWhole (s : State) (c : Cmd) : State :=
  let i := 0x6300 + c.core
  let s := bump (bump s i 1 (if aZeroK c.bytes then 0 else aPasses c.bytes * aCols c.bytes)) i 2 (aBubbles c.bytes + c.lead)
  if c.chained then bump s i 10 1 else s

/-! ## The merge queue (R68) -/

/-- Of a list of queued terms, those that the bell stage does not take: it takes the first of each column in [lo, hi). -/
def unread (lo hi : Nat) (seen l : List Nat) : List Nat :=
  match l with
  | [] => []
  | n :: t => if lo ≤ n && n < hi && !seen.contains n then unread lo hi (n :: seen) t else n :: unread lo hi seen t

/-- The bell stage reads the terms of the columns in [lo, hi), and terms that the reed engine holds back follow into the 64
places. -/
def Core.readMerge (k : Core) (lo hi : Nat) : Core :=
  let l := unread lo hi [] (k.mergeQueue ++ k.mergeHeld)
  { k with mergeQueue := l.take 64, mergeHeld := l.drop 64 }

/-- A core's array waits for nothing more. -/
def Core.resume (k : Core) : Core := { k with mergeWait := none, mergePlan := [], mergeOwner := none }

/-- The command completes: staging, reports, observations, counters (Table 3.7), drain accumulators, stationary registers. -/
def arrayDone (s : State) (q : Nat) (Q : Queue) (c : Cmd) (a : ArrayIn) (nf : Nat) (obs : List ObsDelta)
    (root : Nat → Nat → W32) : State :=
  let r := c.bytes
  let (ws, ys) := arrayOut a root (hVer Q.part (rH r 24)) (hVer Q.part (rH r 28))
  let s := countRootWait (countWhole s c) c
  let s := updCore s c.core fun k =>
    let (even, odd) := drained a (k.drainEven, k.drainOdd)
    let k := if (covered r).isEmpty || aZeroK r then k else k.readMerge 0 (aPasses r * aCols r)
    { (k.swapped a).resume with drainEven := even, drainOdd := odd }
  finish (reedReads s q Q c) q c.uid (if scalesOk a then 0 else 0x0F01) fun c =>
    { c with staged := c.staged ++ ws
             nf := c.nf + nf + (ys.filter fun p => Fp.nonfinite p.1).length
             obs := c.obs ++ obs ++ observeAll (rRing r 43) ys }

/-- Level-8 nodes of a grouped reduction of more than 256 groups leave through the tagged engine, feature by feature; the
status of the first rejection, else 0 (R49). -/
def sendGroups (s : State) (c : Cmd) (a : ArrayIn) : State × Status :=
  (List.range (aReds a.r)).foldl (fun acc d => (List.range (aFeat a.r d)).foldl (fun acc f =>
    let sums := tokens512.map fun t => if tokenLive a.r t then groupSums a d f t else []
    (List.range (ceilDiv (aRed a.r) 256)).foldl (fun (acc : State × Status) n =>
      if acc.2 ≠ 0 then acc
      else
        let lanes := sums.map fun l => (treeOver .sum ((l.drop (256 * n)).take 256)).setWidth 64
        let tag := BitVec.ofNat 64 ((rH a.r 28 + aBase a.r d + f) * 2 ^ 40 + 8 * 2 ^ 32 + n)
        partialAt acc.1 a.job (c.core / 4) tag lanes (some c.uid)) acc) acc) (s, 0)

/-- Every root that the command waits for has been delivered. -/
def rootsHere (s : State) (a : ArrayIn) : Bool :=
  (List.range (aFeats a.r)).all fun n => (rootOf s a.job (rH a.r 28 + n)).isSome

/-- The waits that a command's reed plan holds it for, but for the columns whose terms are queued already (R68, R89). -/
def mergeWaits (s : State) (c : Cmd) : List (Nat × Nat) :=
  if aZeroK c.bytes || (covered c.bytes).isEmpty || c.merged then []
  else (reedPlan s c.bytes c.chained).holds.filter fun h => !((coreAt s c.core).mergeQueue.contains h.1)

/-- What an ARRAY does that nothing holds. -/
def runUnheld (s : State) (q : Nat) (Q : Queue) (c : Cmd) (job : Nat) (J : Job) : State :=
  let r := c.bytes
  let (a, nf, obs) := arrayIn s Q c job J
  match overflowAt a with
  | some (i, col) => fail (countIssued s c (issueCycle r c.chained i col + 21)) q c.uid 0x0F02
  | none =>
    if aGrouped r && 256 < aRed r then
      if !c.sent then
        let (s, st) := sendGroups s c a
        if st ≠ 0 then fail s q c.uid st else updCmd s q c.uid fun c => { c with sent := true, sentAt := s.now }
      else if rootsHere s a then
        arrayDone s q Q c a nf obs fun n t => (((rootOf s job (rH r 28 + n)).getD []).getD t 0).setWidth 32
      else s
    else arrayDone s q Q c a nf obs fun _ _ => 0

/-- ARRAY: the oldest running ARRAY of the queue. A planned merge wait holds it until the terms come (R68); a grouped
reduction of more than 256 groups holds it until its roots are delivered (R49). -/
def runArray (s : State) (q : Nat) : State :=
  match arrayCmd s q with
  | none => s
  | some (Q, c, job, J) =>
    if (coreAt s c.core).mergeOwner = some (q, c.uid) then s
    else
      match mergeWaits s c with
      | [] => runUnheld s q Q c job J
      | h :: t => updCore s c.core fun k => { k with mergeWait := some h.1, mergePlan := h :: t, mergeOwner := some (q, c.uid) }

/-- The wait that a core's array is in ends: its cycles count, the bell stage reads on, and the array waits for the next
column of its plan whose term is not queued, or runs on (R68). -/
def mergeResume (s : State) (core q uid : Nat) : State :=
  match (coreAt s core).mergePlan with
  | [] => updCore s core Core.resume
  | h :: t =>
    let rest := t.filter fun x => !(coreAt s core).mergeQueue.contains x.1
    let s := bump s (0x6300 + core) 8 h.2
    let s := updCmd s q uid fun c => { c with shift := c.shift + beatsOf s core h.2, merged := rest.isEmpty }
    updCore s core fun k => match rest with
      | [] => k.resume
      | x :: _ => { (k.readMerge (h.1 + 1) x.1) with mergeWait := some x.1, mergePlan := rest }

/-- A reed term reaches a core: the array that waits for its column takes it, else it waits in the queue of 64; with the
queue full the reed engine holds it back (R68). A stopped clock delivers none (R73). -/
def mergeEntry (s : State) (core column : Nat) : State :=
  let k := coreAt s core
  if clockStopped s (core / 4) then s
  else
    match k.mergeOwner.filter fun _ => k.mergeWait = some column with
    | some (q, uid) => mergeResume s core q uid
    | none => updCore s core fun k =>
        if k.mergeQueue.length < 64 then { k with mergeQueue := k.mergeQueue ++ [column] }
        else { k with mergeHeld := k.mergeHeld ++ [column] }

/-! ## Meanings -/

/-- A reed term arrives (R68). -/
def execMergeEntryArrival (core column : Nat) (s : State) : Result := .next (mergeEntry s core column)

end Sys2Proof.Machine
end

