-- ==== Sys2Proof/Machine/Boundary.lean ====
section
/-! DEFINITION. Scale rings and the step boundary (R37 to R42, R218 to R235). Log entries are notes/assumptions/<n>.md. -/

namespace Sys2Proof.Machine

open Sys2Proof

/-! ## Scale rings -/

/-- SCALE and RECIP recomputed (R39). -/
def Ring.rescale (g : Ring) : Ring :=
  let s :=
    if g.count = 0 then g.init
    else
      let a := (List.range g.count).foldl (fun a i => Fp.max a (((FMap.get? g.entries i).map RingEntry.amax).getD 0)) 0
      Fp.div (Fp.mul (Fp.max a (Fp.pow2 (-100))) g.margin) (Fp.ofInt 127)
  let s := Fp.mul s (Fp.pow2 g.backoff)
  { g with scale := s, recip := Fp.rcp s }

/-- close_ring of R40; `l` is the job's back-off recovery length. -/
def Ring.close (g : Ring) (l : Nat) (amax : W32) (nonfinite : Bool) (clipped elements : Nat) (skipped : Bool) (batch : Nat) : Ring :=
  let g := { g with
    entries := FMap.set g.entries g.head { amax, nonfinite, skipped, batchLo := batch % 65536 }
    head := (g.head + 1) % g.h
    count := min (g.count + 1) g.h
    clipped, elements }
  let g :=
    if skipped then { g with skippedTotal := g.skippedTotal + 1, backoff := min (g.backoff + 1) 8, calm := 0 }
    else if l ≤ g.calm + 1 then { g with calm := 0, backoff := g.backoff - 1 }
    else { g with calm := g.calm + 1 }
  g.rescale

/-- The absurd test of R42. -/
def Ring.absurd (g : Ring) (t clipped elements : Nat) : Bool := g.checked && t ≠ 0 && elements * t < clipped * 65536

/-! ## STEP (R220) -/

/-- The queue's STEP, if it is the oldest uncommitted command and has started. -/
def stepOf (s : State) (q : Nat) : Option (Queue × Cmd) :=
  match queueAt s q with
  | none => none
  | some Q =>
    match Q.cmds with
    | [] => none
    | c :: _ => if c.op = 13 && c.state = .started then some (Q, c) else none

/-- The queue has reached its STEP. -/
def stepArrived (s : State) (q : Nat) : Bool := (stepOf s q).any fun p => p.2.arrived

/-- Every queue of the job on this module has reached its STEP. -/
def allArrived (s : State) (J : Job) : Bool := J.roles.all (stepArrived s)

/-- A queue reaches its STEP with every earlier command committed. -/
def runStep (s : State) (q : Nat) : State :=
  match stepOf s q with
  | none => s
  | some (Q, c) =>
    match Q.job with
    | none => s
    | some j =>
      if c.arrived then s
      else
        let s := updCmd s q c.uid fun c => { c with arrived := true, waitSince := s.now }
        updJob s j fun J =>
          { J with firstArrival := some (J.firstArrival.getD s.now), arrivedAt := s.now }

/-! ## The boundary (R228 to R233) -/

/-- The ring list of one queue's STEP. -/
def ringList (s : State) (q : Nat) : List Nat :=
  match stepOf s q with
  | none => []
  | some (Q, c) =>
    let m := viewOf Q c (hVer Q.part (rH c.bytes 16))
    (List.range (field c.bytes 20 4)).map fun i => leNat (m.read (4 * i) 4)

/-- The step's list: the queues' lists in ascending role order. -/
def stepList (s : State) (J : Job) : List Nat := J.roles.flatMap (ringList s)

/-- Open accumulators: ARRIVED between 1 and EXPECTED − 1 (R226). -/
def openAccs (s : State) (J : Job) : Nat :=
  (J.accs.filter fun ver =>
    let h := (committed s (verBuf ver)).read 0 64
    isAcc s ver && 1 ≤ hArrived h && hArrived h < hExpected h).length

/-- X of R281. -/
def crossBeats (J : Job) (l : Nat) : Nat := if J.modules = 1 then 0 else 2 * (160 * J.barrierDepth + ceilDiv (32 + 32 * l) 224)

/-- One listed ring with its job-wide observation: AMAX, NONFINITE sum, CLIPPED, ELEMENTS (Table 9.4). -/
structure RingSum where
  ring : Nat
  amax : W32
  nonfinite : Nat
  clipped : Nat
  elements : Nat
  deriving DecidableEq, Repr

/-- The job-wide observation of the ring at list position `p`. -/
def ringSum (J : Job) (others : RemoteBoundary) (p ring : Nat) : RingSum :=
  let o := FMap.getD J.obs ring {}
  { ring
    amax := BitVec.ofNat 32 (max o.amax.toNat (others.amax.getD p 0))
    nonfinite := (if o.nonfinite then 1 else 0) + others.sums.getD (3 * p) 0
    clipped := o.clipped + others.sums.getD (3 * p + 1) 0
    elements := o.elements + others.sums.getD (3 * p + 2) 0 }

/-- A ring of the sum is absurd under the job's threshold. -/
def RingSum.absurd (J : Job) (e : RingSum) : Bool := ((FMap.get? J.rings e.ring).any fun g => g.absurd J.clipT e.clipped e.elements)

/-- Every STEP of the job that has arrived fails. -/
def failSteps (s : State) (j : Nat) (J : Job) (st : Status) : State :=
  let s := J.roles.foldl (fun s q =>
    match stepOf s q with
    | none => s
    | some (_, c) => if c.arrived then fail s q c.uid st else s) s
  updJob (bump s (0x6200 + J.part) 7 1) j fun J => { J with firstArrival := none }

/-- The job after a boundary that reached its decision. -/
def Job.decide (J : Job) (sums : List RingSum) (nfWord beat : Nat) : Job :=
  let updates := if J.committedLast then J.updates + 1 else J.updates
  let bad := sums.map fun e => e.nonfinite ≠ 0 || e.absurd J
  let skip := nfWord ≠ 0 || bad.contains true
  let status : Status := if skip then 0x0401 else if updates = 2 ^ 48 - 1 then 0x0402 else 0
  let window : Window := if skip then .skipped else if updates = 2 ^ 48 - 1 then .refused else .committed
  let kept : FMap Obs := J.obs.filterMap fun e =>
    if sums.any fun x => x.ring = e.1 then none
    else if e.2.sweepScale = 0 && e.2.sweepRecip = 0 then none
    else some (e.1, { sweepScale := e.2.sweepScale, sweepRecip := e.2.sweepRecip })
  let obs := sums.foldl (fun m e =>
    FMap.put {} m e.ring { sweepScale := ringScale J e.ring, sweepRecip := ringRecip J e.ring }) kept
  let rings := sums.foldl (fun m e =>
    FMap.modify m e.ring fun g => g.close J.calmL e.amax (e.nonfinite ≠ 0) e.clipped e.elements skip J.batch) J.rings
  let skippedTotal := if skip then J.skippedTotal + 1 else J.skippedTotal
  let rec_ : StepRec :=
    { batch := J.batch, updates, status, decided := beat, arrived := J.arrivedAt, nf := min nfWord (2 ^ 32 - 1)
      absurd := (sums.filter fun e => e.absurd J).length, firstBad := if bad.contains true then bad.idxOf true else 0xFFFFFFFF
      rings := sums.length, skippedTotal }
  { J with
    updates, obs, rings, skippedTotal, window
    batch := (J.batch + 1) % 2 ^ 64
    nf := 0
    steps := J.steps + 1
    committedLast := window = .committed
    firstArrival := none
    stepLog := FMap.set J.stepLog (J.batch % 256) rec_ }

/-- The boundary of one step, once every queue of the job on this module has reached its STEP (R229, R230). `others` gives
what the job's other modules contribute. -/
def stepBoundary (s : State) (j : Nat) (others : RemoteBoundary) : State :=
  match jobAt s j with
  | none => s
  | some J =>
    if !allArrived s J || J.roles.isEmpty then s
    else
      let list := stepList s J
      let l := list.length
      let known := list.filterMap fun r => FMap.get? J.rings r
      let crc := crc32c (known.flatMap fun g => toLe 4 g.tensorId)
      let word (i own : Nat) : Nat := own + others.f.getD i 0
      if word 1 (openAccs s J) ≠ 0 then failSteps s j J 0x0404
      else if !nodup list || known.length ≠ l || word 2 l ≠ J.modules * l || word 3 crc ≠ J.modules * crc then failSteps s j J 0x0407
      else
        let half := ceilDiv l 2
        let x := crossBeats J l
        let sums := (List.range l).zip list |>.map fun p => ringSum J others p.1 p.2
        let due := J.arrivedAt + 300 + 2 * half + x
        let s := updJob s j fun J => J.decide sums (word 0 J.nf) (J.arrivedAt + 236 + half + x)
        let s := { s with now := max s.now due }
        let i := 0x6200 + J.part
        let s := raiseTo (bump (bump s i 1 1) i 5 (300 + 2 * half + x)) i 6 (300 + 2 * half + x)
        J.roles.foldl (fun s q =>
          match stepOf s q with
          | none => s
          | some (_, c) =>
            updQueue (commitOne s q c 0) q fun Q => { Q with steps := Q.steps + 1, windowSweeps := 0 }) s

/-- The step barrier's bound expires before the boundary work begins: the arrived STEPs fail (R220). -/
def stepBound (s : State) (j : Nat) : State :=
  match jobAt s j with
  | none => s
  | some J =>
    match J.firstArrival with
    | none => s
    | some b =>
      if allArrived s J && J.modules = 1 then s
      else failSteps { s with now := max s.now (b + eff s 0x2210 1) } j J 0x0406

/-! ## Meanings -/

/-- The step boundary (R229). -/
def execStepBoundary (job : Nat) (others : RemoteBoundary) (s : State) : Result := .next (stepBoundary s job others)
/-- The step barrier bound expires (R220). -/
def execStepBarrierBoundExpiry (job : Nat) (s : State) : Result := .next (stepBound s job)

end Sys2Proof.Machine
end

