-- ==== Sys2Proof/Machine/Mover.lean ====
section
/-! DEFINITION. The tile movers: the requests of MOVE commands and of the implicit streams of an ARRAY, their deadlines, their
issue in deadline order, and their deliveries with what a late one counts (R161, R170 to R178). Log entries are
notes/assumptions/<n>.md. -/

namespace Sys2Proof.Machine

open Sys2Proof

/-! ## Fields (Table 5.10) -/

/-- FORMAT. -/
def mFormat (r : List Byte) : Nat := field r 17 1
/-- SRC. -/
def mSrc (r : List Byte) : Nat := rH r 20
/-- DST. -/
def mDst (r : List Byte) : Nat := rH r 24
/-- The local part of SRC_OFF. -/
def mSrcOff (r : List Byte) : Nat := field r 28 8 % 2 ^ 48
/-- The local part of DST_OFF. -/
def mDstOff (r : List Byte) : Nat := field r 36 8 % 2 ^ 48
/-- Job index plus one of the source's module; 0 for this one (R332). -/
def mSrcModule (r : List Byte) : Nat := bits (field r 28 8) 60 48
/-- Job index plus one of the destination's module. -/
def mDstModule (r : List Byte) : Nat := bits (field r 36 8) 60 48
/-- LENGTH. -/
def mLength (r : List Byte) : Nat := field r 44 4
/-- SRC_STRIDE. -/
def mSrcStride (r : List Byte) : Nat := field r 48 4
/-- DST_STRIDE. -/
def mDstStride (r : List Byte) : Nat := field r 52 4
/-- ROWS. -/
def mRows (r : List Byte) : Nat := field r 56 4
/-- RUN_DRY. -/
def mRunDry (r : List Byte) : Nat := field r 60 4

/-- The stall class of a MOVE whose object is not tiered (R161). -/
def mClass (r : List Byte) : Nat := if mFormat r ≤ 3 then mFormat r else 0

/-! ## Requests of a MOVE (R170, R171) -/

/-- A range of the source as offset and length, cut at its multiples of 4 KiB (R170). -/
def rangePieces (off len : Nat) : List (Nat × Nat) :=
  (List.range (ceilDiv (off % 4096 + len) 4096)).map fun i =>
    let lo := if i = 0 then off else off / 4096 * 4096 + 4096 * i
    (lo, min (off / 4096 * 4096 + 4096 * (i + 1)) (off + len) - lo)

/-- The requests of a MOVE, row by row. -/
def movePieces (r : List Byte) : List (Nat × Nat) :=
  (List.range (mRows r)).flatMap fun i => rangePieces (mSrcOff r + i * mSrcStride r) (mLength r)

/-- The deadline of a MOVE's requests: its plan's RUN_DRY from the stream's start, or from the fetch of a ring command. -/
def moveDeadline (Q : Queue) (c : Cmd) : Nat :=
  (if c.stream.isSome then ((runOf Q c).map Cmd.startedAt).getD c.fetchedAt else c.fetchedAt) + mRunDry c.bytes

/-! ## Requests of an ARRAY (R170, R174, R175) -/

/-- The weights of a started ARRAY stream through the window: WGT names an HBM buffer (R174). -/
def streamsTiles (s : State) (Q : Queue) (c : Cmd) : Bool :=
  !aZeroK c.bytes && (usedBuf s c (bufKey Q.part (hIndex (rH c.bytes 20)))).any fun b => b.tier = 1

/-- Requests for one tile: 16 for its 64 KiB and one for its sidecar. -/
def tileReqs : Nat := 17

/-- Request `k` of an ARRAY's weight stream: its tile, and its offset and length in WGT (R149, R174). -/
def tilePiece (r : List Byte) (k : Nat) : Nat × Nat × Nat :=
  let t := k / tileReqs
  let i := k % tileReqs
  if i < 16 then (t, 65536 * t + 4096 * i, 4096) else (t, 65536 * aTiles r + 1024 * t, 1024)

/-- Requests for the block at position `p` of a reduction: 4 KiB is eight rows of 512 tokens. -/
def blockReqs (r : List Byte) (p : Nat) : Nat := ceilDiv (aDepth r p) 128 * 16

/-- Requests for the blocks of one reduction. -/
def redReqs (r : List Byte) : Nat := 64 * (aRed r - 1) + blockReqs r (aRed r - 1)

/-- Request `k` of an ARRAY's stationary stream: its block, its number within the block, and its offset in STAT. -/
def blockPiece (r : List Byte) (k : Nat) : Nat × Nat × Nat :=
  let i := k % redReqs r
  let p := min (i / 64) (aRed r - 1)
  (k / redReqs r * aRed r + p, i - 64 * p, 262144 * p + 4096 * (i - 64 * p))

/-- All requests of an ARRAY's stationary stream. -/
def allBlockReqs (r : List Byte) : Nat := if aZeroK r then 0 else aReds r * redReqs r

/-- Requests for the blocks before block `b`. -/
def reqsBefore (r : List Byte) (b : Nat) : Nat := b / aRed r * redReqs r + 64 * (b % aRed r)

/-- The pass and the column within it of column `j` of a command. -/
def columnAt (r : List Byte) (j : Nat) : Nat × Nat := (j / aCols r, j % aCols r)

/-- The cycle in which column `j` of a command issues. -/
def columnCycle (c : Cmd) (j : Nat) : Nat := issueCycle c.bytes c.chained (columnAt c.bytes j).1 (columnAt c.bytes j).2

/-- The last column of tile `t`. -/
def lastColumn (r : List Byte) (t : Nat) : Nat := min (128 * t + 127) (aPasses r * aCols r - 1)

/-- The cycle in which the shadow load of block `b` begins: cycle 0 for the first, else 16 cycles behind the first column of
the pass before (R59, R70). -/
def loadCycle (c : Cmd) (b : Nat) : Nat := if b = 0 then 0 else issueCycle c.bytes c.chained (b - 1) 0 + 16

/-- A started command by number, with its queue. -/
def findCmd (s : State) (uid : Nat) : Option (Nat × Cmd) :=
  s.queues.findSome? fun e => (cmdAt e.2 uid).map fun c => (e.1, c)

/-- Cycle `n` of an ARRAY has passed. -/
def cyclePassed (s : State) (c : Cmd) (n : Nat) : Bool := c.cycle0.any fun z => z + c.shift + beatsOf s c.core n ≤ s.now

/-- An occupant of the window gives its slot up: the bell stage has converted the last column of its tile (R174). -/
def tileConverted (s : State) (uid t : Nat) : Bool :=
  match findCmd s uid with
  | none => true
  | some (_, c) =>
    c.state ≠ .started || (tileReqs * (t + 1) ≤ c.gotTiles && cyclePassed s c (columnCycle c (lastColumn c.bytes t) + 21))

/-- An occupant of a stationary buffer gives it up: the shadow load of its block has completed (R175). -/
def blockLoaded (s : State) (uid b : Nat) : Bool :=
  match findCmd s uid with
  | none => true
  | some (_, c) => c.state ≠ .started || (reqsBefore c.bytes (b + 1) ≤ c.gotBlocks && cyclePassed s c (loadCycle c b + 32))

/-- Tiles that a core has fetched in a queue's job: u of R174. -/
def tilesOf (s : State) (Q : Queue) (core : Nat) : Nat := (Q.job.bind (jobAt s)).elim 0 fun J => FMap.getD J.tiles core 0

/-- The ARRAYs that started before this one on its core and are still there. -/
def arraysAhead (s : State) (q : Nat) (c : Cmd) : List Cmd :=
  s.queues.flatMap fun e => e.2.cmds.filter fun d =>
    d.op = 1 && d.core = c.core && d.state = .started && d.uid ≠ c.uid
      && (d.startedAt < c.startedAt || (d.startedAt = c.startedAt && (e.1 < q || (e.1 = q && d.uid < c.uid))))

/-- An ARRAY's streams are open: at most one ARRAY that started before it on its core is still there (R176). -/
def streamsOpen (s : State) (q : Nat) (c : Cmd) : Bool := (arraysAhead s q c).length ≤ 1

/-- The next request of a MOVE. -/
def nextMove (Q : Queue) (c : Cmd) : Option (MoverKind × Nat × Nat × Nat) :=
  ((movePieces c.bytes)[c.issued]?).map fun p => (.moveData, moveDeadline Q c, p)

/-- The next request of an ARRAY's weight stream: the first of a tile waits for its slot. -/
def nextTile (s : State) (Q : Queue) (c : Cmd) : Option (MoverKind × Nat × Nat × Nat) :=
  let (t, p) := tilePiece c.bytes c.issued
  let free := (FMap.get? (coreAt s c.core).window (tilesOf s Q c.core % 8)).all fun o => tileConverted s o.1 o.2
  if aTiles c.bytes ≤ t || !streamsTiles s Q c || (c.issued % tileReqs = 0 && !free) then none
  else some (.weightTile t, c.plan0 + beatsOf s c.core (columnCycle c (128 * t)), p)

/-- The next request of an ARRAY's stationary stream: the first of a block waits for its buffer. -/
def nextBlock (s : State) (c : Cmd) : Option (MoverKind × Nat × Nat × Nat) :=
  let (b, i, off) := blockPiece c.bytes c.issuedBlocks
  let buffer := (c.firstBuffer + b) % 2
  let free := (FMap.get? (coreAt s c.core).stationary buffer).all fun o => blockLoaded s o.1 o.2
  if allBlockReqs c.bytes ≤ c.issuedBlocks || (i = 0 && !free) then none
  else some (.stationary b buffer, c.plan0 + beatsOf s c.core (loadCycle c b), off, 4096)

/-- The next request that a command has for mover `m` of its core, with its kind, deadline, offset and length. -/
def nextReq (s : State) (q : Nat) (Q : Queue) (c : Cmd) (m : Nat) : Option MoverReq :=
  let next :=
    if c.state ≠ .started then none
    else if c.op = 4 then (if rMover c.bytes = m then nextMove Q c else none)
    else if c.op = 1 && !aZeroK c.bytes && streamsOpen s q c then
      (if m = 3 then nextTile s Q c else if m = 2 then nextBlock s c else none)
    else none
  next.map fun n => { mover := m, queue := q, cmd := c.uid, kind := n.1, deadline := n.2.1, offset := n.2.2.1, length := n.2.2.2, issuedAt := s.now }

/-! ## Issue in deadline order (R170, R172) -/

/-- A request is served before another (R172): earlier deadline, lower queue number, earlier command, lower offset. -/
def MoverReq.before (a b : MoverReq) : Bool :=
  a.deadline < b.deadline || (a.deadline = b.deadline && (a.queue < b.queue || (a.queue = b.queue
    && (a.cmd < b.cmd || (a.cmd = b.cmd && a.offset < b.offset)))))

/-- The request of a list that is served first. -/
def firstReq (l : List MoverReq) : Option MoverReq :=
  l.foldl (fun best x => match best with
    | none => some x
    | some b => if x.before b then some x else some b) none

/-- Outstanding requests of one mover. -/
def outstanding (k : Core) (m : Nat) : Nat := (k.movers.filter fun x => x.mover = m).length

/-- The request that a mover's issue slot serves next. -/
def nextIssue (s : State) (core m : Nat) : Option MoverReq :=
  firstReq (s.queues.flatMap fun e => (e.2.cmds.filter fun c => c.core = core).filterMap fun c => nextReq s e.1 e.2 c m)

/-- The tile or block of an issued request takes its place: the next slot of the window, its stationary buffer. -/
def Core.take (k : Core) (slot : Nat) (x : MoverReq) : Core :=
  match x.kind with
  | .weightTile t => { k with window := FMap.set k.window slot (x.cmd, t) }
  | .stationary b buffer => { k with stationary := FMap.set k.stationary buffer (x.cmd, b) }
  | .moveData => k

/-- One more tile has been fetched in a queue's job (R174). -/
def countTile (s : State) (Q : Queue) (core : Nat) : State :=
  match Q.job with
  | none => s
  | some j => updJob s j fun J => { J with tiles := FMap.put 0 J.tiles core (FMap.getD J.tiles core 0 + 1) }

/-- A request is issued. -/
def issueReq (s : State) (core : Nat) (x : MoverReq) : State :=
  match queueAt s x.queue with
  | none => s
  | some Q =>
    let first := (cmdAt Q x.cmd).any fun c => c.issued % tileReqs = 0
    let slot := tilesOf s Q core % 8
    let s := updCore s core fun k => { k.take slot x with movers := k.movers ++ [x] }
    match x.kind with
    | .weightTile _ =>
      updCmd (if first then countTile s Q core else s) x.queue x.cmd fun c => { c with issued := c.issued + 1 }
    | .stationary _ _ => updCmd s x.queue x.cmd fun c => { c with issuedBlocks := c.issuedBlocks + 1 }
    | .moveData => updCmd s x.queue x.cmd fun c => { c with issued := c.issued + 1 }

/-- A mover issues requests in deadline order while fewer than 32 are outstanding. -/
def refillFor (fuel : Nat) (s : State) (core m : Nat) : State :=
  match fuel with
  | 0 => s
  | fuel + 1 =>
    if 32 ≤ outstanding (coreAt s core) m then s
    else
      match nextIssue s core m with
      | none => s
      | some x => refillFor fuel (issueReq s core x) core m

/-- Free places of a mover are filled. -/
def refill (s : State) (core m : Nat) : State := refillFor 32 s core m

/-! ## Late requests (R161, R173, R178) -/

/-- The handle that a request reads. -/
def reqHandle (c : Cmd) (k : MoverKind) : Nat :=
  match k with
  | .weightTile _ => rH c.bytes 20
  | .stationary _ _ => rH c.bytes 16
  | .moveData => mSrc c.bytes

/-- The stall class of a request and the miss record's STREAM. -/
def reqClass (s : State) (Q : Queue) (c : Cmd) (k : MoverKind) : Nat × Nat :=
  match k with
  | .weightTile _ => (1, 1)
  | .stationary _ _ => (2, 2)
  | .moveData =>
    match FMap.get? s.tiered (bufKey Q.part (hIndex (mSrc c.bytes))) with
    | some t => (t.objClass, 0)
    | none => (mClass c.bytes, 0)

/-- Where a request reads: the tier, its channels, and the hops of its longest route (R16, R20, R21); none for a source on
another module. -/
def reqPath (s : State) (Q : Queue) (c : Cmd) (x : MoverReq) : Option (Nat × List Nat × Nat) :=
  let key := bufKey Q.part (hIndex (reqHandle c x.kind))
  if x.kind = .moveData && mSrcModule c.bytes ≠ 0 then none
  else (usedBuf s c key).map fun b =>
    let (tier, addr) := homeOf s key b
    let lo := x.offset
    let hi := x.offset + x.length
    match tier with
    | 0 => (0, [], (dieRoute (b.core / 4) (c.core / 4)).length)
    | 1 =>
      let l := hbmTouched s Q.part key addr lo hi b
      (1, l, maxOf (l.map fun ch => (dieRoute (ch / 64) (c.core / 4)).length))
    | _ =>
      let l := capTouched s Q.part addr lo hi
      (2, l, maxOf (l.map fun ch => (hubRoute (ch / 32) (c.core / 4)).length))

/-- Beats of a route of `hops` crook hops (R17). -/
def routeBeats (hops : Nat) : Nat := if hops = 0 then 0 else 8 * hops + 4 * (hops - 1)

/-- The planned latency of a request (Table 7.1); none where the table has none. -/
def reqBound (s : State) (Q : Queue) (c : Cmd) (x : MoverReq) : Option Nat :=
  (reqPath s Q c x).bind fun p =>
    match p.1 with
    | 0 => if p.2.2 = 0 then none else some (routeBeats p.2.2 + beatsOf s c.core (4 * ceilDiv x.length 1024))
    | 1 => some (400 + routeBeats p.2.2)
    | _ => some (600 + routeBeats p.2.2)

/-- A channel on which a late request lost its time counts the beats. -/
def channelStall (s : State) (tier ch late : Nat) : State :=
  match tier with
  | 1 => bump s (0x6480 + ch / 32) (ch % 32 + 1) late
  | 2 => bump (bump s (0x6440 + ch) 1 late) (0x6440 + ch) 2 1
  | _ => s

/-- The stall cause of a late request: a channel out of service, else one of causes 3 and 4; which one the state does not
tell: free (log entry 22). -/
def stallCause (s : State) (tier : Nat) (chans : List Nat) : Nat :=
  if chans.any (if tier = 2 then s.rel.lpddrOut else s.rel.hbmOut).contains then 5 else 3 + Config.freeNat s.fresh % 2

/-- The cause and the detail of a miss record (Table 7.4): the wake of the core was deferred, the object was promoting or
evicting at the command's start, the clock was held, the capacity tier was late; else arbitration or an external input,
which the state does not tell apart: free (log entry 22). -/
def missCause (s : State) (c : Cmd) (tier detail : Nat) : Nat × Nat :=
  let cl := clusterAt s (c.core / 4)
  if c.fetchedAt < (coreAt s c.core).deferredTo then (3, 0)
  else if c.waitCode % 256 = 1 || c.waitCode % 256 = 2 then (2, c.waitCode % 256)
  else if cl.throttled || cl.gap || cl.step.isSome then (4, 0)
  else if tier = 2 then (2, detail)
  else (if Config.freeNat (s.fresh + 1) % 2 = 0 then 1 else 5, 0)

/-- The first streams of an ARRAY, whose lateness counts as start-wait beats and not request by request (R176). -/
def MoverReq.starts (x : MoverReq) : Bool :=
  match x.kind with
  | .weightTile t => t = 0
  | .stationary b _ => b ≤ 1
  | .moveData => false

/-- A request that ends after its deadline, or after the bound of its path, counts as a stall of its class; past its deadline
it writes a miss record in the Cadence stop. On which of its channels it lost its time is free (log entry 22). -/
def lateRequest (s : State) (q : Nat) (Q : Queue) (c : Cmd) (x : MoverReq) : State :=
  let planned := (reqBound s Q c x).elim x.deadline fun n => min x.deadline (x.issuedAt + n)
  if s.now ≤ planned then s
  else
    let late := s.now - planned
    let (cls, stream) := reqClass s Q c x.kind
    let (tier, chans, _) := (reqPath s Q c x).getD (0, [], 0)
    let detail := stallCause s tier chans
    let (cause, d) := missCause s c tier detail
    let ch := chans.getD (Config.freeNat (s.fresh + 2) % chans.length) 0
    let s := { s with fresh := s.fresh + 3 }
    let s := if x.starts then s else stall s cls detail late
    let s := if chans.isEmpty then s else channelStall s tier ch late
    let s := if x.starts then s else trace s 4 c.core q (256 * cls + detail) late 0
    missRecord s Q.fn q (c.stream.getD c.seq) x.deadline s.now cause d cls stream

/-! ## Deliveries -/

/-- The ARRAY whose end this ARRAY's cycle 0 waits for: the last to start before it on its core, while it runs. -/
def arrayAhead (s : State) (q : Nat) (c : Cmd) : Option Cmd :=
  ((arraysAhead s q c).filter fun d => !aZeroK d.bytes).foldl (fun best d => match best with
    | none => some d
    | some b => if b.startedAt ≤ d.startedAt then some d else some b) none

/-- The cycle of an ARRAY, from its own cycle 0, before which its successor's cycle 0 may not fall (R71). -/
def nextCycle0 (d : Cmd) (chained : Bool) : Nat :=
  let last := issueCycle d.bytes d.chained (aPasses d.bytes - 1) 0
  let ends := last + aCols d.bytes
  if chained then ends else max (last + 16) (ends - 32)

/-- The beat before which an ARRAY's cycle 0 may not fall, by its predecessor. -/
def earliest0 (s : State) (q : Nat) (c : Cmd) : Nat :=
  match arrayAhead s q c with
  | none => c.startedAt
  | some d => max c.startedAt (d.cycle0.getD s.now + d.shift + beatsOf s c.core (nextCycle0 d c.chained))

/-- Requests for the blocks that cycle 0 needs: block 0, and block 1 where there are two passes (R176). -/
def firstBlockReqs (r : List Byte) : Nat := reqsBefore r (min 2 (aPasses r))

/-- Everything that cycle 0 of an ARRAY needs is there (R176). -/
def streamsIn (s : State) (Q : Queue) (c : Cmd) : Bool :=
  aZeroK c.bytes || (firstBlockReqs c.bytes ≤ c.gotBlocks && (!streamsTiles s Q c || tileReqs ≤ c.gotTiles))

/-- The streams that cycle 0 of an ARRAY needs are in: it begins, and the beats that it has waited for them count as a stall
of class 1 or 2, by the stream that came last (R176). -/
def begin0 (s : State) (q : Nat) (Q : Queue) (c : Cmd) (cls : Nat) : State :=
  if c.op ≠ 1 || c.cycle0.isSome || !streamsIn s Q c then s
  else
    let from_ := earliest0 s q c
    let s := updCmd s q c.uid fun c => { c with cycle0 := some (max s.now from_) }
    if s.now ≤ from_ then s
    else
      let cause := 3 + Config.freeNat s.fresh % 2
      stall { s with fresh := s.fresh + 1 } cls cause (s.now - from_)

/-- A tile or block that comes after the array needed it holds the issue; the cycles that a shadow load waits are bubble
cycles (R57). -/
def holdIssue (s : State) (q : Nat) (c : Cmd) (x : MoverReq) : State :=
  let need : Option Nat := match x.kind with
    | .weightTile t => if c.gotTiles % tileReqs = 0 then some (columnCycle c (128 * t)) else none
    | .stationary b _ => if c.gotBlocks = reqsBefore c.bytes (b + 1) then some (loadCycle c b) else none
    | .moveData => none
  match need, c.cycle0 with
  | some n, some z =>
    let due := z + c.shift + beatsOf s c.core n
    if s.now ≤ due then s
    else
      let s := match x.kind with
        | .stationary _ _ => bump s (0x6300 + c.core) 2 (cyclesOf s c.core (s.now - due))
        | _ => s
      updCmd s q c.uid fun c => { c with shift := c.shift + (s.now - due) }
  | _, _ => s

/-- A delivered request of a command. -/
def Cmd.got (c : Cmd) (k : MoverKind) : Cmd :=
  match k with
  | .weightTile _ => { c with awaiting := c.awaiting - 1, gotTiles := c.gotTiles + 1 }
  | .stationary _ _ => { c with awaiting := c.awaiting - 1, gotBlocks := c.gotBlocks + 1 }
  | .moveData => { c with awaiting := c.awaiting - 1 }

/-- What follows a delivery: its lateness, the hold of the issue, cycle 0. -/
def delivered (s : State) (x : MoverReq) : State :=
  match (queueAt s x.queue).bind fun Q => (cmdAt Q x.cmd).map fun c => (Q, c.got x.kind) with
  | none => s
  | some (Q, c) =>
    let s := lateRequest (updCmd s x.queue x.cmd fun c => c.got x.kind) x.queue Q c x
    begin0 (holdIssue s x.queue c x) x.queue Q c (reqClass s Q c x.kind).1

/-- A tile-mover request completes: of the mover's outstanding requests the one with the earliest deadline (R170, R172). -/
def tileDone (s : State) (core m : Nat) : State :=
  let s := refill s core m
  match firstReq ((coreAt s core).movers.filter fun x => x.mover = m) with
  | none => s
  | some x => refill (delivered (updCore s core fun k => { k with movers := k.movers.erase x }) x) core m

/-- A command opens its requests: how many it awaits, the plan of an ARRAY and its first stationary buffer. The planned
cycle 0 of an ARRAY is the end of the planned predecessor's, or stands behind the latency of its first tile and the fill of
two blocks (log entry 26). -/
def openRequests (s : State) (q : Nat) (Q : Queue) (c : Cmd) : State :=
  match c.op with
  | 4 => refill (updCmd s q c.uid fun d => { d with awaiting := (movePieces c.bytes).length }) c.core (rMover c.bytes)
  | 1 =>
    if aZeroK c.bytes then updCmd s q c.uid fun d => { d with cycle0 := some s.now }
    else
      let own := s.now + 400 + beatsOf s c.core 512
      let plan := (arrayAhead s q c).elim own fun d =>
        let ends := d.plan0 + beatsOf s c.core (nextCycle0 d c.chained)
        if c.chained then ends else max own ends
      let first := if c.chained then (coreAt s c.core).nextBuffer else 0
      let s := updCore s c.core fun k => { k with nextBuffer := (first + aPasses c.bytes) % 2 }
      let s := updCmd s q c.uid fun d =>
        { d with
          awaiting := allBlockReqs c.bytes + if streamsTiles s Q d then tileReqs * aTiles c.bytes else 0
          plan0 := plan, firstBuffer := first }
      refill (refill s c.core 3) c.core 2
  | _ => s

/-! ## Meanings -/

/-- A tile-mover request completes (R170). -/
def execTileRequestDone (core mover : Nat) (s : State) : Result := .next (tileDone s core mover)

end Sys2Proof.Machine
end

