-- ==== Sys2Proof/Machine/Move.lean ====
section
/-! DEFINITION. MOVE: copies and integer adds, and its remote form (R115, R332, R333). Log entries are
notes/assumptions/<n>.md. -/

namespace Sys2Proof.Machine

open Sys2Proof

/-! ## MOVE (R115) -/

/-- The queue's oldest running MOVE of a kind whose data has arrived. -/
def moveCmd (s : State) (q kind : Nat) : Option (Queue × Cmd) :=
  match queueAt s q with
  | none => none
  | some Q => (runningCmd Q fun c => c.op = 4 && field c.bytes 16 1 = kind && c.awaiting = 0).map fun c => (Q, c)

/-- Free bytes that a remote source delivers (log entry 2). -/
def freeBytes (s : State) (n : Nat) : List Byte := (List.range n).map fun i => BitVec.ofNat 8 (Config.freeNat (s.fresh + i))

/-- 64-bit elements added one by one, modulo 2⁶⁴ (R34). -/
def addElems (a b : List Byte) : List Byte :=
  ((chunks 8 a).zip (chunks 8 b)).flatMap fun p => toLe 8 ((leNat p.1 + leNat p.2) % 2 ^ 64)

/-- One row of a MOVE onto a destination memory, with its staged write. Rows go in order, and a row sees what the rows
before it wrote (R126). -/
def moveRow (add : Bool) (r : List Byte) (same : Bool) (src : Mem) (key : Nat) (p : Mem × List StageWrite) (i : Nat) :
    Mem × List StageWrite :=
  let data := (if same then p.1 else src).read (mSrcOff r + i * mSrcStride r) (mLength r)
  let off := mDstOff r + i * mDstStride r
  let new := if add then addElems (p.1.read off (mLength r)) data else data
  (p.1.write off new, p.2 ++ [⟨key, off, new⟩])

/-- The packets of a MOVE to another module, one for each row (R332, R333). -/
def movePackets (J : Job) (job : Nat) (c : Cmd) (src : Mem) : List RemotePkt :=
  (List.range (mRows c.bytes)).map fun i =>
    { job, source := J.moduleIdx, cmd := c.uid, bufs := J.bufs.idxOf (mDst c.bytes)
      offset := mDstOff c.bytes + i * mDstStride c.bytes
      data := src.read (mSrcOff c.bytes + i * mSrcStride c.bytes) (mLength c.bytes), last := i + 1 = mRows c.bytes }

/-- MOVE: rows copied or added into the destination's staging. An add into a pinned HBM buffer is a contribution (R225). A
destination on another module takes packets, and the command awaits their acknowledgement. -/
def runMove (s : State) (q kind : Nat) : State :=
  match moveCmd s q kind with
  | none => s
  | some (Q, c) =>
    let r := c.bytes
    let src := if mSrcModule r = 0 then seen Q c (mSrc r)
      else Mem.write [] (mSrcOff r) (freeBytes s (mRows r * mSrcStride r + mLength r))
    let s := if mSrcModule r = 0 then s else drawn s (mRows r * mSrcStride r + mLength r)
    if mDstModule r ≠ 0 then
      match Q.job.bind fun j => (jobAt s j).map fun J => (j, J) with
      | none => s
      | some (j, J) =>
        let pkts := (movePackets J j c src).map fun p => (decide (kind = 1), p)
        let dest := jobModule s J (mDstModule r - 1)
        let s := pkts.foldl (fun s p => sendFlits s 0 (if p.1 then 2 else 1) dest p.2.data.length (moveDeadline Q c))
          { s with win := { s.win with out := s.win.out ++ pkts } }
        finish s q c.uid 0 fun c => { c with acked := false }
    else
      let ver := hVer Q.part (mDst r)
      let same := mSrcModule r = 0 && mSrc r % 2 ^ 20 = mDst r % 2 ^ 20
      let (m, ws) := (List.range (mRows r)).foldl (moveRow (kind = 1) r same src ver) (viewOf Q c ver, [])
      let acc := kind = 1 && (usedBuf s c (verBuf ver)).any fun b => b.tier = 1 && b.cls = 3
      match Q.job.bind (jobAt s) with
      | some J =>
        let (ws', nf, obs) := if acc then accFinish J Q.part ver m else ([], 0, [])
        finish s q c.uid 0 fun c => { c with staged := c.staged ++ ws ++ ws', nf := c.nf + nf, obs := c.obs ++ obs }
      | none => finish s q c.uid 0 fun c => { c with staged := c.staged ++ ws }

/-- The beat by which the acknowledgement of a remote MOVE is planned: its deadline and the route both ways, at most 150 beats a
hop (R331, R333). -/
def ackPlanned (s : State) (q : Nat) (Q : Queue) (c : Cmd) : Nat :=
  moveDeadline Q c + 300 * torusHops s (moduleId s) (remoteModule s q c)

/-- A trunk of fewer than four ports delivers late: the lateness of its MOVE is a stall with cause 5 (R331). -/
def lateFabric (s : State) (q : Nat) (Q : Queue) (c : Cmd) : State :=
  let planned := ackPlanned s q Q c
  let short := (firstTrunk s (remoteModule s q c)).any fun d => (livePorts s d).length < 4
  if short && planned < s.now then stall s (mClass c.bytes) 5 (s.now - planned) else s

/-- The last packet of a MOVE has been acknowledged (R333): its queue's oldest unacknowledged MOVE may commit. -/
def remoteAck (s : State) (q : Nat) : State :=
  match (queueAt s q).bind fun Q => (Q.cmds.find? fun c => !c.acked).map fun c => (Q, c) with
  | none => s
  | some (Q, c) => updCmd (lateFabric s q Q c) q c.uid fun c => { c with acked := true }

/-- A route of a remote MOVE is broken: the command fails (R331). -/
def unreachable (s : State) (q : Nat) : State :=
  match (queueAt s q).bind fun Q => Q.cmds.find? fun c => c.remote && c.state ≠ .fetched && !c.failed with
  | none => s
  | some c => fail s q c.uid 0x0A01

/-! ## Meanings -/

/-- A remote MOVE's last packet is acknowledged (R333). -/
def execRemoteAcknowledgement (q : Nat) (s : State) : Result := .next (remoteAck s q)
/-- A broken route's management packet reaches the source (R331). -/
def execDestinationUnreachable (q : Nat) (s : State) : Result := .next (unreachable s q)

end Sys2Proof.Machine
end

