-- ==== Sys2Proof/Machine/Power.lean ====
section
/-! DEFINITION. Core power, PLLs, the breath budget, droop, brown-out, power steps (R72, R374 to R385). Log entries are
notes/assumptions/<n>.md. -/

namespace Sys2Proof.Machine

open Sys2Proof

/-! ## PLLs and wakes -/

/-- A cluster lies in the active cluster mask (R385). -/
def inMask (s : State) (c : Nat) : Bool := bit (eff s 0x9000 3) c

/-- A request reaches a cluster: a stopped PLL starts (R375). -/
def useCluster (s : State) (c : Nat) : State :=
  let cl := clusterAt s c
  if cl.pll = .off then
    bump (updCluster s c fun cl => { cl with pll := .locking, pllSince := s.now, lastUse := s.now }) (0x9200 + c) 2 1
  else updCluster s c fun cl => { cl with lastUse := s.now }

/-- Cores that ramp, of a cluster or of the module. -/
def rampingCores (s : State) (p : Nat → Bool) : Nat := (s.cores.filter fun e => e.2.power = .ramping && p e.1).length

/-- The order in which waiting wakes start: the earlier request, ties to the lower core (R378). -/
def insertWake (e : Nat × Nat) (l : List (Nat × Nat)) : List (Nat × Nat) :=
  match l with
  | [] => [e]
  | f :: t => if e.1 < f.1 || (e.1 = f.1 && e.2 < f.2) then e :: f :: t else f :: insertWake e t

/-- The waiting wakes in their order, as request beat and core. -/
def waitingWakes (s : State) : List (Nat × Nat) :=
  ((s.cores.filter fun e => e.2.power = .waiting).map fun e => (e.2.wakeAt, e.1)).foldr insertWake []

/-- Every waiting wake that both limits allow starts: 2 ramps in a cluster, 6 in the module (R378). -/
def startRamps (s : State) : State :=
  (waitingWakes s).foldl (fun s e =>
    let core := e.2
    if rampingCores s (fun k => k / 4 = core / 4) < eff s 0x9000 6 && rampingCores s (fun _ => true) < eff s 0x9000 7 then
      updCore s core fun k => { k with power := .ramping, rampAt := s.now }
    else s) s

/-- A wake is requested of a gated core inside the cluster mask (R377, R385). -/
def requestWake (s : State) (core : Nat) : State :=
  let k := coreAt s core
  if k.power ≠ .gated || !inMask s (core / 4) || !k.inService then s
  else
    let off := (clusterAt s (core / 4)).pll ≠ .on
    let s := useCluster s (core / 4)
    let s := updCore s core fun k => { k with power := .waiting, wakeAt := s.now, wakePllOff := off }
    startRamps (bump s (0x9200 + core / 4) 1 1)

/-- A core whose ramp has ended and whose PLL runs is on. The restore of clocks and command processor takes 2 µs more,
which the deferral counts (R377, R379). The spare of a takeover is zeroed next (R442). -/
def coreOn (s : State) (core : Nat) : State :=
  let k := coreAt s core
  if k.power ≠ .ramped || (clusterAt s (core / 4)).pll ≠ .on then s
  else
    let at_ := s.now + 2000
    let planned := k.wakeAt + if k.wakePllOff then 22000 else 6000
    let s := trace s 5 core 0 0 0 0
    let s := if planned < at_ then
        bump (bump (updCore s core fun k => { k with deferredTo := at_ }) (0x9200 + core / 4) 3 1) (0x9200 + core / 4) 4 (at_ - planned)
      else s
    let served := (clusterAt s (core / 4)).takeoverCore = some (core % 4)
    updCore s core fun k => { k with power := .on, idleSince := s.now, zeroing := k.zeroing || served }

/-- A ramp ends; waiting wakes start (R378). -/
def rampEnd (s : State) (core : Nat) : State :=
  let k := coreAt s core
  if k.power ≠ .ramping then s
  else
    let s := { s with now := max s.now (k.rampAt + 4000) }
    startRamps (coreOn (updCore s core fun k => { k with power := .ramped }) core)

/-- A PLL locks; its ramped cores come on (R375). -/
def pllLock (s : State) (c : Nat) : State :=
  let cl := clusterAt s c
  if cl.pll ≠ .locking then s
  else
    let s := { s with now := max s.now (cl.pllSince + 20000) }
    let s := updCluster s c fun cl => { cl with pll := .on }
    [0, 1, 2, 3].foldl (fun s k => coreOn s (4 * c + k)) s

/-! ## Gating (R376) -/

/-- A fetched or started, uncommitted command names the core. -/
def coreNeeded (s : State) (core : Nat) : Bool :=
  s.queues.any fun e => e.2.cmds.any fun c => opEngine c.op && c.core = core

/-- The core's job saves or restores it. -/
def coreSaving (s : State) (core : Nat) : Bool :=
  ((coreAt s core).holder.bind (jobAt s)).any fun J => J.grant = .saving || J.grant = .restoring

/-- A compute domain gates: it holds no state (R374). -/
def gateCore (s : State) (core : Nat) : State :=
  let s := trace s 6 core 0 0 0 0
  updCore s core fun k =>
    { k with
      power := .gated, vec := {}, upd := {}, drainEven := [], drainOdd := [], active := [], shadow := []
      mergeQueue := [], mergeHeld := [], mergeWait := none, mergePlan := [], mergeOwner := none }

/-- The idle-gate delay passes. A delay of 0 keeps the cores of a job on. -/
def idleGate (s : State) (core : Nat) : State :=
  let k := coreAt s core
  let delay := eff s 0x9000 4
  if k.power ≠ .on || coreNeeded s core || coreSaving s core || (delay = 0 && k.holder.isSome) then s
  else gateCore { s with now := max s.now (k.idleSince + delay) } core

/-- The PLL-off delay passes with every core of the cluster gated. -/
def pllOff (s : State) (c : Nat) : State :=
  let cl := clusterAt s c
  if cl.pll ≠ .on || [0, 1, 2, 3].any (fun k => (coreAt s (4 * c + k)).power ≠ .gated) then s
  else
    let s := { s with now := max s.now (cl.lastUse + eff s 0x9000 5) }
    updCluster s c fun cl => { cl with pll := .off, pllSince := s.now }

/-! ## Power steps (R381, R382) -/

/-- A step requested of every in-service cluster. -/
def requestStep (s : State) (up : Bool) : State :=
  (List.range 8).foldl (fun s c => if (clusterAt s c).inService then updCluster s c fun cl => { cl with step := some up } else s) s

/-- The common frequency: that of the lowest cluster in service. -/
def commonClock (s : State) : Nat := (clusterAt s (((List.range 8).find? fun c => (clusterAt s c).inService).getD 0)).clock

/-- The 1 ms average of the samples at hand. -/
def averagePower (l : List Nat) : Nat := if l.isEmpty then 0 else l.sum / l.length

/-- A 10 µs sample of the 48 V input power steers the clock (R381). -/
def powerSample (s : State) (watts : Nat) : State :=
  let samples := (watts :: s.pwr.samples).take 100
  let avg := averagePower samples
  let limit := eff s 0x9000 1
  let s := dset { s with pwr := { s.pwr with samples } } 0x9100 1 avg
  if limit < avg then
    let s := { s with pwr := { s.pwr with belowSince := none } }
    if 400 < commonClock s then
      let s := { s with pwr := { s.pwr with floorSince := none } }
      if s.pwr.stepped && s.now - s.pwr.lastStep < 1000000 then s
      else requestStep { s with pwr := { s.pwr with stepped := true, lastStep := s.now } } false
    else
      let since := s.pwr.floorSince.getD s.now
      if 100000000 ≤ s.now - since then
        bump (alarmLog { s with pwr := { s.pwr with floorSince := some s.now } } 2 0 (leaderSource s)) 0x9100 5 1
      else { s with pwr := { s.pwr with floorSince := some since } }
  else
    let s := { s with pwr := { s.pwr with floorSince := none } }
    if avg * 100 < limit * 95 then
      let since := s.pwr.belowSince.getD s.now
      if 10000000 ≤ s.now - since && commonClock s < eff s 0x9000 2 then
        requestStep { s with pwr := { s.pwr with belowSince := some s.now } } true
      else { s with pwr := { s.pwr with belowSince := some since } }
    else { s with pwr := { s.pwr with belowSince := none } }

/-- An array of the cluster stands inside a pass, in a merge wait (R68, R72). -/
def midPass (s : State) (c : Nat) : Bool := [0, 1, 2, 3].any fun k => (coreAt s (4 * c + k)).mergeWait.isSome

/-- The arrays of a cluster stand still for a number of beats (R72). -/
def holdArrays (s : State) (c beats : Nat) : State :=
  { s with queues := FMap.mapVal s.queues fun _ Q =>
      { Q with cmds := Q.cmds.map fun d =>
          if d.op = 1 && d.core / 4 = c && d.state = .started && d.cycle0.isSome then { d with shift := d.shift + beats } else d } }

/-- A cluster takes its pending step at its pass boundary: the hold of 2,000 beats and the new clock (R382). It takes none
while its clock is stopped or an array stands inside a pass (R72, R73). A step down goes to the ceiling where that is lower
(log entry 46). At the floor or the ceiling no step is left and the request ends. The 2,000 beats count as held cycles of the
old clock (DESIGN CHOICE: the manual does not say at which of the two clocks they are counted; log entry 138). -/
def powerStep (s : State) (c : Nat) : State :=
  let cl := clusterAt s c
  match (if clockStopped s c || midPass s c then none else cl.step) with
  | none => s
  | some up =>
    let clock := if up then min (cl.clock + 50) (eff s 0x9000 2) else max (min (cl.clock - 50) (eff s 0x9000 2)) 400
    if clock = cl.clock then updCluster s c fun cl => { cl with step := none } else
    let held := 2000 * cl.clock / 1000
    let s := [0, 1, 2, 3].foldl (fun s k =>
      if (coreAt s (4 * c + k)).power = .on then bump s (0x6300 + 4 * c + k) 9 held else s) s
    let s := holdArrays { s with now := s.now + 2000 } c 2000
    let s := updCluster s c fun cl => { cl with clock, step := none }
    trace (bump s (0x9200 + c) (if up then 6 else 5) 1) 7 (24 + leaderSource s) 0 0 clock 0

/-! ## Droop and brown-out (R72, R380) -/

/-- A throttle begins: the clock of every core of the cluster stops. -/
def beginThrottle (s : State) (c : Nat) : State :=
  let s := updCluster s c fun cl => { cl with throttled := true, gap := false, gapDroop := false }
  [0, 1, 2, 3].foldl (fun s k => bump s (0x6300 + 4 * c + k) 6 1) s

/-- A droop of 5%: a throttle, or none inside the 64 cycles after one. -/
def droop (s : State) (c : Nat) : State :=
  let cl := clusterAt s c
  if cl.throttled || cl.brownedOut then s
  else if cl.gap then updCluster s c fun cl => { cl with gapDroop := true }
  else beginThrottle s c

/-- The kills that waited for a throttle's end take effect (R73). -/
def heldKills (s : State) : State :=
  s.queues.foldl (fun s e => match e.2.heldKill with
    | some kind => killQueue s e.1 kind
    | none => s) s

/-- A throttle ends after 1 to 16 cycles. A droop that persists requests a step down and raises its alarm. -/
def throttleEnd (s : State) (c cycles : Nat) (persists : Bool) : State :=
  if !(clusterAt s c).throttled then s
  else
    let n := min (max cycles 1) 16
    let s := [0, 1, 2, 3].foldl (fun s k => bump s (0x6300 + 4 * c + k) 7 n) s
    let s := holdArrays s c (beatsOf s (4 * c) n)
    let s := updCluster s c fun cl => { cl with throttled := false, gap := true, gapDroop := persists }
    let s := if persists && n = 16 then requestStep (bump (alarmLog s 10 c (leaderSource s)) (0x9200 + c) 7 1) false else s
    heldKills s

/-- The 64 cycles after a throttle end: a droop still present starts a throttle. -/
def gapEnd (s : State) (c : Nat) (present : Bool) : State :=
  if !(clusterAt s c).gap then s
  else
    let s := updCluster s c fun cl => { cl with gap := false, gapDroop := false }
    if present then beginThrottle s c else s

/-- Queues with a started, uncommitted command on a core for which `p` holds are fault-killed. -/
def killOnCores (s : State) (p : Nat → Bool) (kind : KillKind) : State :=
  s.queues.foldl (fun s e =>
    if e.2.cmds.any fun c => opEngine c.op && p c.core && c.state ≠ .fetched && !c.failed then killQueue s e.1 kind else s) s

/-- A droop of 12%: running commands are fault-killed and the clock stays stopped. -/
def brownOut (s : State) (c : Nat) : State :=
  let n := (s.queues.filter fun e => e.2.cmds.any fun d => opEngine d.op && d.core / 4 = c && d.state ≠ .fetched && !d.failed).length
  let s := updCluster s c fun cl => { cl with throttled := false, gap := false, gapDroop := false, brownedOut := true }
  let s := heldKills (killOnCores s (fun k => k / 4 = c) .fault)
  bump (bump (alarmLog s 3 c c) (0x9200 + c) 8 1) (0xB100 + c) 6 n

/-- VCORE has held for 100 µs: the clock restarts. -/
def brownOutRecovery (s : State) (c : Nat) : State := updCluster s c fun cl => { cl with brownedOut := false }

/-! ## Meanings -/

/-- A core wake is requested (R377). -/
def execWakeRequest (core : Nat) (s : State) : Result := .next (requestWake s core)
/-- A ramp ends (R378). -/
def execRampEnd (core : Nat) (s : State) : Result := .next (rampEnd s core)
/-- A PLL locks (R375). -/
def execPllLock (cluster : Nat) (s : State) : Result := .next (pllLock s cluster)
/-- The idle-gate delay passes (R376). -/
def execIdleGateExpiry (core : Nat) (s : State) : Result := .next (idleGate s core)
/-- The PLL-off delay passes (R375). -/
def execPllOffExpiry (cluster : Nat) (s : State) : Result := .next (pllOff s cluster)
/-- An input-power sample (R381). -/
def execPowerSample (watts : Nat) (s : State) : Result := .next (powerSample s watts)
/-- A cluster steps its clock (R382). -/
def execPowerStep (cluster : Nat) (s : State) : Result := .next (powerStep s cluster)
/-- A droop begins (R380). -/
def execVcoreDroop (cluster : Nat) (s : State) : Result := .next (droop s cluster)
/-- A throttle ends (R72). -/
def execDroopThrottleEnd (cluster cycles : Nat) (persists : Bool) (s : State) : Result := .next (throttleEnd s cluster cycles persists)
/-- The gap after a throttle ends (R72). -/
def execDroopGapEnd (cluster : Nat) (present : Bool) (s : State) : Result := .next (gapEnd s cluster present)
/-- A brown-out (R380). -/
def execBrownOut (cluster : Nat) (s : State) : Result := .next (brownOut s cluster)
/-- A cluster recovers from a brown-out (R380). -/
def execBrownOutRecovery (cluster : Nat) (s : State) : Result := .next (brownOutRecovery s cluster)

end Sys2Proof.Machine
end

