-- ==== Sys2Proof/Machine/Sync.lean ====
section
/-! DEFINITION. Sync objects, barriers, launch at count and the wait-for backstop (R267 to R285). A SYNC's effect and its
commit are one step (log entry 16). Log entries are notes/assumptions/<n>.md. -/

namespace Sys2Proof.Machine

open Sys2Proof

/-- SYNC OP of a record. -/
def yOp (r : List Byte) : Nat := field r 16 1
/-- OBJ[15:0]. -/
def yObj (r : List Byte) : Nat := field r 20 2
/-- OBJ[27:16]. -/
def yModule (r : List Byte) : Nat := bits (field r 20 4) 27 16
/-- VALUE. -/
def yValue (r : List Byte) : Nat := field r 24 8
/-- BOUND. -/
def yBound (r : List Byte) : Nat := field r 32 8
/-- Counter add, event set, event clear and lock release are signals (R270). -/
def isSignal (op : Nat) : Bool := op = 1 || op = 3 || op = 4 || op = 7
/-- Counter add, event set and event clear may name an object of another module (R276). -/
def mayNameRemote (op : Nat) : Bool := op = 1 || op = 3 || op = 4

/-- The object of this module that a SYNC names: a stream's SYNC index resolves through the job, a ring SYNC gives the
object itself (R136, R276). -/
def syncTarget (s : State) (Q : Queue) (c : Cmd) : Option Nat :=
  if c.stream.isSome then (Q.job.bind (jobAt s)).bind fun J => J.syncs[yObj c.bytes]? else some (yObj c.bytes)

/-- The record of an object in use. -/
def syncAt (s : State) (o : Nat) : Option SyncObj := FMap.get? s.sync o
/-- The state with an object's record. -/
def putSync (s : State) (o : Nat) (v : SyncObj) : State := { s with sync := FMap.set s.sync o v }

/-! ## Waits -/

/-- A wait's condition, with the object after the wait's own effect and the status it completes with (R271 to R273). -/
def waitMet (s : State) (q gen : Nat) (c : Cmd) (o : SyncObj) : Option (SyncObj × Status) :=
  match yOp c.bytes with
  | 2 => if yValue c.bytes ≤ o.value then some (o, 0) else none
  | 5 =>
    if o.value = 1 then some (if bit (yValue c.bytes) 0 then { o with value := 0, changed := s.now } else o, 0) else none
  | 6 =>
    if o.held then none
    else some ({ o with held := true, ownerQ := q, ownerGen := gen, abandoned := false, changed := s.now },
               if o.abandoned then 0x0502 else 0)
  | _ => none

/-- One waiter re-examined: where its condition holds, the object takes its effect and the wait commits. -/
def reexamineOne (obj : Nat) (s : State) (w : Waiter) : State :=
  match syncAt s obj, queueAt s w.queue with
  | some o, some Q =>
    match cmdAt Q w.cmd with
    | none => s
    | some c =>
      match waitMet s w.queue Q.gen c o with
      | none => s
      | some (o', st) =>
        commitOne (putSync s obj { o' with waiters := o'.waiters.filter fun x => !x.is w.queue w.cmd }) w.queue c st
  | _, _ => s

/-- Every waiter of an object re-examined, in the order in which they reached it (R270). -/
def reexamine (s : State) (obj : Nat) : State :=
  match syncAt s obj with
  | none => s
  | some o => o.waiters.foldl (reexamineOne obj) s

/-! ## Signals -/

/-- A change applied to an object, with the re-examination of its waiters; none where an add would overflow (R271,
R272). -/
def applyChange (s : State) (obj op value : Nat) : Option State :=
  match syncAt s obj with
  | none => some s
  | some o =>
    match op with
    | 1 => if 2 ^ 64 ≤ o.value + value then none
           else some (reexamine (putSync s obj { o with value := o.value + value, changed := s.now }) obj)
    | 3 => some (reexamine (putSync s obj { o with value := 1, changed := s.now }) obj)
    | 4 => some (reexamine (putSync s obj { o with value := 0, changed := s.now }) obj)
    | 7 => some (reexamine (putSync s obj { o with held := false, ownerQ := 0, ownerGen := 0, changed := s.now }) obj)
    | _ => some s

/-- The job of a stream's signal that names another module (R276). -/
def remoteJob (s : State) (Q : Queue) (c : Cmd) : Option Job :=
  if c.op = 5 && c.stream.isSome && mayNameRemote (yOp c.bytes) then (Q.job.bind (jobAt s)).filter fun J => J.moduleIdx ≠ yModule c.bytes
  else none

/-- A packet of the barrier class or of the sync class handed to the trunk toward a module of the job (Table 13.2). -/
def sendSignal (s : State) (J : Job) (cls type module index kind value : Nat) : State :=
  let s := { s with win := { s.win with signals := s.win.signals ++ [(module, index, kind, value)] } }
  sendFlits s cls type (jobModule s J module) 32 0

/-- A signal's effect: on its own module's object, or a remote signal sent to another module of the job (R276). -/
def signalEffect (s : State) (Q : Queue) (c : Cmd) : Option State :=
  match remoteJob s Q c with
  | some J => some (sendSignal s J 2 7 (yModule c.bytes) (yObj c.bytes) (yOp c.bytes) (yValue c.bytes))
  | none =>
    match syncTarget s Q c with
    | none => some s
    | some obj => applyChange s obj (yOp c.bytes) (yValue c.bytes)

/-- The SYNC that a row runs: the queue's oldest uncommitted command, or inside an open window the oldest unfinished one
(R270, R277). -/
def syncCmd (s : State) (q op : Nat) : Option (Queue × Cmd) :=
  match queueAt s q with
  | none => none
  | some Q =>
    match Q.cmds.find? fun c => !(inWindow Q c && c.done) with
    | none => none
    | some c =>
      if c.op = 5 && yOp c.bytes = op && c.state = .started && !c.waiting
          && ((isOldest Q c.uid && mayCommit Q c) || inWindow Q c) then some (Q, c)
      else none

/-- A counter add or event signal: applied and committed in one step, or held for the window's COMMIT. A remote one is on
its way for 160 beats per hop, and commits after them (R280). -/
def runSignal (s : State) (q op : Nat) : State :=
  match syncCmd s q op with
  | none => s
  | some (Q, c) =>
    if inWindow Q c then finish s q c.uid 0 id
    else
      match signalEffect s Q c, remoteJob s Q c with
      | none, _ => fail s q c.uid 0x0504
      | some s', some J => finish s' q c.uid 0 fun d =>
          { d with heldTo := s.now + 160 * torusHops s (moduleId s) (jobModule s J (yModule c.bytes)) }
      | some s', none => commitOne s' q c 0

/-- A lock release by its holder frees the lock; by another queue it fails as an offence (R273). -/
def runRelease (s : State) (q : Nat) : State :=
  match syncCmd s q 7 with
  | none => s
  | some (Q, c) =>
    match (syncTarget s Q c).bind (syncAt s) with
    | none => s
    | some o =>
      if !(o.held && o.ownerQ = q && o.ownerGen = Q.gen) then fail s q c.uid 0x0505
      else runSignal s q 7

/-! ## Waits as commands -/

/-- A waiter takes its place: the order in which they reached the object, in one beat the queue number (R270). -/
def insertWaiter (w : Waiter) (l : List Waiter) : List Waiter :=
  let first := l.takeWhile fun x => x.since < w.since || (x.since = w.since && x.queue < w.queue)
  first ++ w :: l.drop first.length

/-- A wait that stands at its object. -/
def joinWaiters (s : State) (q uid obj : Nat) (o : SyncObj) : State :=
  updCmd (putSync s obj { o with waiters := insertWaiter ⟨q, uid, s.now⟩ o.waiters }) q uid fun c =>
    { c with waiting := true, waitSince := s.now }

/-- A counter wait, event wait or lock acquire: commits where its condition holds, else waits at the object. An acquire
by the holder fails (R273). -/
def runWait (s : State) (q op : Nat) : State :=
  match syncCmd s q op with
  | none => s
  | some (Q, c) =>
    match syncTarget s Q c with
    | none => s
    | some obj =>
      match syncAt s obj with
      | none => s
      | some o =>
        if op = 6 && o.held && o.ownerQ = q && o.ownerGen = Q.gen then fail s q c.uid 0x0506
        else
          match waitMet s q Q.gen c o with
          | some (o', st) => commitOne (putSync s obj o') q c st
          | none => joinWaiters s q c.uid obj o

/-! ## Barriers (R275, R276, R280) -/

/-- A phase is released: every arrive of it commits (R275). -/
def releasePhase (s : State) (obj : Nat) : State :=
  match syncAt s obj with
  | none => s
  | some o =>
    let s := putSync s obj
      { o with value := o.value + 1, arrived := 0, changed := s.now, waiters := [], localDone := false, tokens := [], told := false, released := false }
    let s := bump (trace s 8 (24 + leaderSource s) 0 obj 0 0) 0x6F00 4 1
    o.waiters.foldl (fun s w =>
      match (queueAt s w.queue).bind (cmdAt · w.cmd) with
      | none => s
      | some c => commitOne s w.queue c 0) s

/-- The root releases a phase once its own count is complete and every other module's token has come (R280). The root is
module 0 of the job (log entry 17). -/
def rootRelease (s : State) (obj : Nat) : State :=
  match syncAt s obj with
  | none => s
  | some o =>
    match jobAt s o.job with
    | none => s
    | some J =>
      if o.localDone && J.modules ≤ o.tokens.length + 1 then
        let idx := J.syncs.idxOf obj
        releasePhase ((List.range (J.modules - 1)).foldl (fun s m => sendSignal s J 1 6 (m + 1) idx 0x11 0) s) obj
      else s

/-- The local count of a phase is complete. A module tells the root once in a phase; a release that has come while a
withdrawn arrival had opened the count again is applied now (R278, log entry 131). -/
def localComplete (s : State) (obj : Nat) : State :=
  match syncAt s obj with
  | none => s
  | some o =>
    match jobAt s o.job with
    | none => releasePhase s obj
    | some J =>
      if !o.jobWide || J.modules = 1 then releasePhase s obj
      else
        let s := putSync s obj { o with localDone := true, told := true }
        if J.moduleIdx = 0 then rootRelease s obj
        else if o.released then releasePhase s obj
        else if o.told then s
        else sendSignal s J 1 6 0 (J.syncs.idxOf obj) 0x10 J.moduleIdx

/-- One arrival in the current phase (R275). -/
def runArrive (s : State) (q : Nat) : State :=
  match syncCmd s q 8 with
  | none => s
  | some (Q, c) =>
    match syncTarget s Q c with
    | none => s
    | some obj =>
      match syncAt s obj with
      | none => s
      | some o =>
        let o := { o with arrived := o.arrived + 1 }
        let s := joinWaiters s q c.uid obj o
        if o.arrived = o.parties then localComplete s obj else s

/-- A token of a job-wide barrier reaches this module. -/
def barrierToken (s : State) (obj : Nat) (token : BarrierToken) : State :=
  match syncAt s obj with
  | none => s
  | some o =>
    if o.type ≠ 4 || !o.jobWide then s
    else
      let from_ := match token with
        | .arrival m => m
        | .release => 0
      let s := (jobAt s o.job).elim s fun J => takeFlits s (jobModule s J from_) 32
      match token with
      | .arrival m =>
        if o.tokens.contains m then s else rootRelease (putSync s obj { o with tokens := o.tokens ++ [m] }) obj
      | .release => if o.localDone then releasePhase s obj else if o.told then putSync s obj { o with released := true } else s

/-- A remote signal reaches its target, resolved through the job's SYNC list (R276). -/
def remoteSignal (s : State) (job index : Nat) (signal : SyncSignal) : State :=
  match (jobAt s job).bind fun J => J.syncs[index]? with
  | none => s
  | some obj =>
    match signal with
    | .add v => (applyChange s obj 1 v).getD s
    | .set => (applyChange s obj 3 0).getD s
    | .clear => (applyChange s obj 4 0).getD s

/-! ## Launch at count (R283) -/

/-- A module lies in this module's host domain: the box of 0xA000.06. -/
def inDomain (s : State) (m : Nat) : Bool :=
  let w := dnum s 0xA000 6
  [0, 1, 2].all fun d =>
    let n := torusSide s d
    (coord m d + n - coord (bits w 11 0) d % n) % n ≤ bits w (13 + 2 * d) (12 + 2 * d)

/-- The modules of a job lie in one host domain. -/
def oneDomain (s : State) (J : Job) : Bool := J.modules ≤ 1 || (List.range J.modules).all fun m => inDomain s (jobModule s J m)

/-- A launch at count at its commit point. -/
def runLaunch (s : State) (q : Nat) : State :=
  match syncCmd s q 9 with
  | none => s
  | some (Q, c) =>
    let v := yValue c.bytes
    if dnum s 0x6F00 2 ≠ 1 || !(Q.job.bind (jobAt s)).all (oneDomain s) then fail s q c.uid 0x0509
    else if v < s.now then fail (bump s 0x6F00 10 1) q c.uid 0x0508
    else if 2 ^ 36 < v - s.now then fail s q c.uid 0x0301
    else if v = s.now then commitOne s q c 0
    else updCmd s q c.uid fun c => { c with waiting := true, waitSince := s.now }

/-- The beat counter reaches VALUE of a waiting launch. -/
def launchBeat (s : State) (q : Nat) : State :=
  match queueAt s q with
  | none => s
  | some Q =>
    match Q.cmds.find? fun c => c.op = 5 && yOp c.bytes = 9 && c.waiting with
    | none => s
    | some c => commitOne { s with now := max s.now (yValue c.bytes) } q c 0

/-! ## COMMIT (R128) -/

/-- A window's command commits; a signal's effect comes with it (R277). -/
def commitMember (s : State) (q : Nat) (c : Cmd) : State :=
  let st := match c.state with
    | .finished st => st
    | _ => 0
  let s := if c.op = 5 && isSignal (yOp c.bytes) then
      ((queueAt s q).bind fun Q => signalEffect s Q c).getD s
    else s
  commitOne s q c st

/-- What a signal on an object of this module answers: 0x0504 for an add that would overflow, 0x0505 for a release by
another than the holder; 0 for none (R271, R273). -/
def signalStatus (q gen : Nat) (c : Cmd) (o : SyncObj) : Status :=
  match yOp c.bytes with
  | 1 => if 2 ^ 64 ≤ o.value + yValue c.bytes then 0x0504 else 0
  | 7 => if o.held && o.ownerQ = q && o.ownerGen = gen then 0 else 0x0505
  | _ => 0

/-- An object behind a signal on it, for the window's later signals. -/
def afterSignal (c : Cmd) (o : SyncObj) : SyncObj :=
  match yOp c.bytes with
  | 1 => { o with value := o.value + yValue c.bytes }
  | 7 => { o with held := false }
  | _ => o

/-- The first signal of a window that fails behind the window's earlier ones, with its status (R277). -/
def windowFault (s : State) (q : Nat) (Q : Queue) (objs : FMap SyncObj) : List Cmd → Option (Cmd × Status)
  | [] => none
  | c :: l =>
    if c.op ≠ 5 || (remoteJob s Q c).isSome then windowFault s q Q objs l
    else
      match (syncTarget s Q c).bind fun obj => (FMap.get? objs obj).map fun o => (obj, o) with
      | none => windowFault s q Q objs l
      | some (obj, o) =>
        if signalStatus q Q.gen c o ≠ 0 then some (c, signalStatus q Q.gen c o)
        else windowFault s q Q (FMap.set objs obj (afterSignal c o)) l

/-- COMMIT: with an open window, once all its commands have finished, they commit together; with none it commits at
once. A COMMIT ends the window that its fetch left open; one behind a window already ended is outside every window. -/
def runCommit (s : State) (q : Nat) : State :=
  match queueAt s q with
  | none => s
  | some Q =>
    match Q.cmds.find? fun c => c.op = 6 && c.state = .started with
    | none => s
    | some k =>
      let before := Q.cmds.takeWhile fun c => c.uid ≠ k.uid
      match Q.window with
      | none => if before.isEmpty && mayCommit Q k then commitOne s q k 0 else s
      | some first =>
        if k.uid < first then (if before.isEmpty && mayCommit Q k then commitOne s q k 0 else s)
        else if mayCommit Q k && before.all fun c => first ≤ c.uid && c.done && !c.failed && c.acked then
          match windowFault s q Q s.sync before with
          | some (c, st) => fail s q c.uid st
          | none =>
            let s := updQueue s q fun Q => Q.withWindows Q.laterWindows
            commitOne (before.foldl (fun s c => commitMember s q c) s) q k 0
        else s

/-! ## Wait-for backstop (R285) -/

/-- The commands that a queue may still run: fetched ones, and those of its role's streams that no RUN has started. -/
def futureRecords (J : Job) (Q : Queue) (q : Nat) : List (Bool × List Byte) :=
  Q.cmds.map (fun c => (c.stream.isSome, c.bytes))
    ++ ((List.range J.streams.length).flatMap fun i =>
      match J.streams[i]? with
      | some st => if J.roles[st.role]? = some q && !J.ran.contains i then st.cmds.map fun r => (true, r) else []
      | none => [])

/-- A record is a SYNC of one of `ops` on object `obj` of this module. -/
def namesObject (J : Job) (obj : Nat) (ops : List Nat) (r : Bool × List Byte) : Bool :=
  rOp r.2 = 5 && ops.contains (yOp r.2) && yModule r.2 = J.moduleIdx
    && (if r.1 then J.syncs[yObj r.2]? = some obj else yObj r.2 = obj)

/-- The queues of a job with a future SYNC of one of `ops` on an object. -/
def queuesNaming (s : State) (J : Job) (obj : Nat) (ops : List Nat) : List Nat :=
  J.roles.filter fun q =>
    match queueAt s q with
    | none => false
    | some Q => (futureRecords J Q q).any (namesObject J obj ops)

/-- The tiered objects or base buffers that a command waiting at its start waits for. -/
def objectsOf (s : State) (part : Nat) (c : Cmd) : List Nat :=
  (((handleFields c.bytes).map fun o => bufKey part (hIndex (rH c.bytes o)))
      ++ ((accField c).toList.map fun h => bufKey part (hIndex (field ((committed s (bufKey part (hIndex h))).read 0 64) 52 4)))).filter fun key =>
    match FMap.get? s.tiered key with
    | some t => t.state = .promoting || t.state = .evicting
    | none => ((FMap.get? s.bufs key).map Buf.base).getD false

/-- Out-edges of a queue (Table 11.6). -/
def waitEdges (s : State) (q : Nat) : List Nat :=
  match queueAt s q with
  | none => []
  | some Q =>
    match Q.cmds with
    | [] => []
    | c :: _ =>
      if c.objectWait then
        let keys := objectsOf s Q.part c
        (s.queues.filter fun e => e.1 ≠ q && e.2.cmds.any fun d => d.uses.any fun v => keys.contains (v % 2 ^ 25)).map Prod.fst
      else if !c.waiting then []
      else
        match (syncTarget s Q c).bind fun obj => (syncAt s obj).map fun o => (obj, o) with
        | none => []
        | some (obj, o) =>
          match jobAt s o.job with
          | none => []
          | some J =>
            match yOp c.bytes with
            | 6 => if o.held then [o.ownerQ] else []
            | 2 => queuesNaming s J obj [1]
            | 5 => queuesNaming s J obj [3, 4]
            | 8 => (queuesNaming s J obj [8]).filter fun p => !(o.waiters.any fun w => w.queue = p)
            | _ => []

/-- Queues reached from a set in at most `n` edges. -/
def reach (s : State) (n : Nat) (l : List Nat) : List Nat :=
  match n with
  | 0 => l
  | n + 1 =>
    let l' := (l.flatMap (waitEdges s)).foldl (fun acc q => if acc.contains q then acc else acc ++ [q]) l
    reach s n l'

/-- Queues that a queue's edges lead to. -/
def reached (s : State) (q : Nat) : List Nat := reach s s.queues.length (waitEdges s q)

/-- The queues on a cycle with the queue whose bound expired, or on the first other cycle of its partition. -/
def cycleQueues (s : State) (q part : Nat) : List Nat :=
  let nodes := q :: ((s.queues.filter fun e => e.2.part = part && e.1 ≠ q).map Prod.fst)
  match nodes.find? fun n => (reached s n).contains n with
  | none => []
  | some n => (reached s n).filter fun m => (reached s m).contains n

/-- The beat at which a queue's wait began. -/
def waitBegan (s : State) (q : Nat) : Nat := (((queueAt s q).bind fun Q => Q.cmds.head?).map Cmd.waitSince).getD 0

/-- The youngest wait of a cycle: the latest beginning, ties to the higher queue number. -/
def youngest (s : State) (l : List Nat) : Option Nat :=
  l.foldl (fun best q =>
    match best with
    | none => some q
    | some b =>
      if waitBegan s b < waitBegan s q || (waitBegan s b = waitBegan s q && b < q) then some q else some b) none

/-- The bound of a wait. -/
def waitBound (s : State) (c : Cmd) : Nat := if c.op = 5 && yBound c.bytes ≠ 0 then yBound c.bytes else eff s 0x2300 1

/-- A wait has exceeded its bound: the graph is built; in a cycle the youngest wait is killed, or fails at its second
detection; in no cycle one overrun counts. -/
def backstop (s : State) (q : Nat) : State :=
  match queueAt s q with
  | none => s
  | some Q =>
    match Q.cmds with
    | [] => s
    | c :: _ =>
      if !c.waiting && !c.objectWait then s
      else
        let s := bump { s with now := max s.now (c.waitSince + waitBound s c) } 0x6F00 5 1
        match youngest s (cycleQueues s q Q.part) with
        | none => bump s 0x6F00 8 1
        | some y =>
          match (queueAt s y).bind fun Y => Y.cmds.head? with
          | none => s
          | some d =>
            if d.backstopped then fail (bump s 0x6F00 7 1) y d.uid 0x0503
            else
              let s := killQueue (bump s 0x6F00 6 1) y .uncounted
              updCmd s y d.uid fun d => { d with backstopped := true }

/-! ## Reset of a holder (R274) -/

/-- Every lock that a queue holds is released as abandoned, and its waiters are re-examined. -/
def abandonLocks (s : State) (q : Nat) : State :=
  s.sync.foldl (fun s e =>
    if e.2.type = 3 && e.2.held && e.2.ownerQ = q then
      match syncAt s e.1 with
      | none => s
      | some o =>
        reexamine (bump (putSync s e.1 { o with held := false, abandoned := true, ownerQ := 0, ownerGen := 0, changed := s.now }) 0x6F00 9 1) e.1
    else s) s

/-! ## Meanings -/

/-- SYNC counter add (R271). -/
def execSyncCounterAdd (q : Nat) (s : State) : Result := .next (runSignal s q 1)
/-- SYNC counter wait (R271). -/
def execSyncCounterWait (q : Nat) (s : State) : Result := .next (runWait s q 2)
/-- SYNC event set (R272). -/
def execSyncEventSet (q : Nat) (s : State) : Result := .next (runSignal s q 3)
/-- SYNC event clear (R272). -/
def execSyncEventClear (q : Nat) (s : State) : Result := .next (runSignal s q 4)
/-- SYNC event wait (R272). -/
def execSyncEventWait (q : Nat) (s : State) : Result := .next (runWait s q 5)
/-- SYNC lock acquire (R273, R274). -/
def execSyncLockAcquire (q : Nat) (s : State) : Result := .next (runWait s q 6)
/-- SYNC lock release (R273). -/
def execSyncLockRelease (q : Nat) (s : State) : Result := .next (runRelease s q)
/-- SYNC barrier arrive (R275). -/
def execSyncBarrierArrive (q : Nat) (s : State) : Result := .next (runArrive s q)
/-- SYNC launch at count (R283). -/
def execSyncLaunchAtCount (q : Nat) (s : State) : Result := .next (runLaunch s q)
/-- The beat counter reaches VALUE (R283). -/
def execLaunchBeatReached (q : Nat) (s : State) : Result := .next (launchBeat s q)
/-- COMMIT (R128). -/
def execCommit (q : Nat) (s : State) : Result := .next (runCommit s q)
/-- A wait exceeds its bound (R285). -/
def execSyncWaitBoundExpiry (q : Nat) (s : State) : Result := .next (backstop s q)
/-- A token of a job-wide barrier arrives (R280). -/
def execBarrierTokenArrival (object : Nat) (token : BarrierToken) (s : State) : Result := .next (barrierToken s object token)
/-- A remote signal arrives (R276). -/
def execRemoteSyncSignal (job object : Nat) (signal : SyncSignal) (s : State) : Result := .next (remoteSignal s job object signal)

end Sys2Proof.Machine
end

