-- ==== Sys2Proof/Machine/UpdateUnit.lean ====
section
/-! DEFINITION. The update unit: instructions, images, and the SWEEP over one tensor's adapter state (R91 to R99, R29, R30,
R117, R234, R235). Log entries are notes/assumptions/<n>.md. -/

namespace Sys2Proof.Machine

open Sys2Proof

/-! ## Registers -/

/-- 64 lanes of +0.0. -/
def group0 : List W32 := List.replicate 64 0

/-- A register u0–u15. -/
def UpdUnit.reg (u : UpdUnit) (n : Nat) : List W32 := FMap.getD u.regs n group0
/-- A constant c0–c15. -/
def UpdUnit.const (u : UpdUnit) (n : Nat) : W32 := FMap.getD u.consts n 0
/-- A source: 0–15 u0–u15, 16–31 c0–c15 in every lane (Table 4.9). -/
def UpdUnit.src (u : UpdUnit) (n : Nat) : List W32 := if n < 16 then u.reg n else List.replicate 64 (u.const (n - 16))
/-- A register written. -/
def UpdUnit.put (u : UpdUnit) (n : Nat) (v : List W32) : UpdUnit := { u with regs := FMap.put group0 u.regs n v }

/-- One source. -/
def updOp1 (f : W32 → W32) (a : UArgs) (u : UpdUnit) : UpdUnit := u.put a.dst.toNat ((u.src a.sa.toNat).map f)
/-- Two sources. -/
def updOp2 (f : W32 → W32 → W32) (a : UArgs) (u : UpdUnit) : UpdUnit :=
  u.put a.dst.toNat ((u.src a.sa.toNat).zipWith f (u.src a.sb.toNat))
/-- Three sources. -/
def updOp3 (f : W32 → W32 → W32 → W32) (a : UArgs) (u : UpdUnit) : UpdUnit :=
  u.put a.dst.toNat (((u.src a.sa.toNat).zip ((u.src a.sb.toNat).zip (u.src a.sc.toNat))).map fun p => f p.1 p.2.1 p.2.2)

/-- SEL: c > +0.0 ? a : b; NaN selects b. -/
def updSel (x y c : W32) : W32 := if Fp.lt 0 c then x else y
/-- EST: rne(rne(R × C) / S); S = +0.0 gives +0.0 (R30). -/
def updEst (x y z : W32) : W32 := if z = 0 then 0 else Fp.div (Fp.mul x y) z

/-- RED: feeds a into the S tree, element by element of the group's live lanes; no effect but on the row run (R91). -/
def updRed (a : UArgs) (u : UpdUnit) : UpdUnit :=
  if !u.rowRun then u
  else { u with fed := ((List.range u.live).zip (u.src a.sa.toNat)).foldl (fun m p => FMap.set m (u.group + p.1) p.2) u.fed }

/-- One update instruction by opcode (Table 4.9). -/
def updIssue (op : Nat) (a : UArgs) (u : UpdUnit) : UpdUnit :=
  match op with
  | 0x01 => updOp2 Fp.add a u
  | 0x02 => updOp2 Fp.sub a u
  | 0x03 => updOp2 Fp.mul a u
  | 0x04 => updOp3 Fp.fma a u
  | 0x05 => updOp2 Fp.div a u
  | 0x06 => updOp1 Fp.sqrt a u
  | 0x07 => updOp1 Fp.rsqrt a u
  | 0x08 => updOp2 Fp.max a u
  | 0x09 => updOp2 Fp.min a u
  | 0x0A => updOp1 Fp.abs a u
  | 0x0B => updOp3 updSel a u
  | 0x0C => updOp3 updEst a u
  | 0x0D => updRed a u
  | 0x0E => updOp1 id a u
  | _ => u

/-- The state with one core's update unit changed. -/
def updUnit (s : State) (core : Nat) (f : UpdUnit → UpdUnit) : State := updCore s core fun k => { k with upd := f k.upd }

/-! ## Images (R93, Tables 4.8 and 4.9) -/

/-- OP of an instruction word. -/
def uOp (w : Nat) : Nat := bits w 31 26
/-- The fields of an instruction word. -/
def uArgs (w : Nat) : UArgs where
  dst := BitVec.ofNat 4 (bits w 25 22)
  sa := BitVec.ofNat 5 (bits w 21 17)
  sb := BitVec.ofNat 5 (bits w 16 12)
  sc := BitVec.ofNat 5 (bits w 11 7)

/-- KIND of an image. -/
def iKind (b : List Byte) : Nat := field b 0 1
/-- LEN. -/
def iLen (b : List Byte) : Nat := field b 1 1
/-- WRITES bit `n`. -/
def iWrites (b : List Byte) (n : Nat) : Bool := bit (field b 2 1) n
/-- READS bit `n`. -/
def iReads (b : List Byte) (n : Nat) : Bool := bit (field b 3 1) n
/-- BC. -/
def iBc (b : List Byte) : Bool := bit (field b 4 1) 0
/-- The instructions. -/
def iWords (b : List Byte) : List Nat := (List.range (iLen b)).map fun i => field b (16 + 4 * i) 4

/-- An image that R93 accepts. -/
def imageOk (b : List Byte) : Bool :=
  iKind b ≤ 1 && 1 ≤ iLen b && iLen b ≤ 48
    && (if iKind b = 0 then field b 2 1 < 16 && field b 3 1 < 128 else field b 2 1 < 2 && field b 3 1 < 4)
    && field b 4 1 < 2 && allZero (slice b 5 11)
    && (iWords b).all fun w => 1 ≤ uOp w && uOp w ≤ 0x0E && bits w 6 0 = 0

/-- The pairing of an element image with a SWEEP's fields (R93): whether it has a vector program, and WQ. -/
def imagesPair (e : List Byte) (vector : Bool) (wq : Nat) : Bool :=
  iKind e = 0 && (!iWrites e 3 || wq ≠ 0)
    && if vector then !iReads e 6 && !iWrites e 2 else !(iReads e 3 || iReads e 4 || iReads e 5)

/-- A vector program's image is valid and paired. -/
def vectorImageOk (v : List Byte) : Bool := imageOk v && iKind v = 1

/-- The images of a SWEEP are valid and paired. `e` and `v` are the bytes of the buffers EPROG and VPROG. -/
def sweepImagesOk (e : List Byte) (v : Option (List Byte)) (wq : Nat) : Bool :=
  imageOk e && v.all vectorImageOk && imagesPair e v.isSome wq

/-- Bytes of an image buffer that the check reads. -/
def imageBytes : Nat := 16 + 4 * 48

/-! ## Bias correction (R93) -/

/-- An interval of positive reals lo·2^e to hi·2^e. -/
structure Mant where
  lo : Nat
  hi : Nat
  e : Int
  deriving DecidableEq, Repr

/-- The interval with its ends cut to about 512 bits, outward. -/
def Mant.cut (m : Mant) : Mant :=
  let k := Nat.log2 m.hi - 512
  if k = 0 then m else ⟨m.lo / 2 ^ k, ceilDiv m.hi (2 ^ k), m.e + k⟩

/-- A product. -/
def Mant.mul (a b : Mant) : Mant := Mant.cut ⟨a.lo * b.lo, a.hi * b.hi, a.e + b.e⟩

/-- x to the n by squaring over `k` bits of n. -/
def Mant.pow (k n : Nat) (x acc : Mant) : Mant :=
  match k with
  | 0 => acc
  | k + 1 => Mant.pow k (n / 2) (Mant.mul x x) (if n % 2 = 1 then Mant.mul acc x else acc)

/-- The FP32 magnitude nearest to m·2^e. -/
def mantMag (m : Nat) (e : Int) : Nat :=
  if m = 0 then 0
  else
    let top := (Nat.log2 m : Int) + e
    if top < -200 then 0
    else if 200 < top then 0x7F800000
    else if 0 ≤ e + 149 then Fp.roundMag (m * 2 ^ (e + 149).toNat) 1
    else Fp.roundMag m (2 ^ (-(e + 149)).toNat)

/-- xⁿ, correctly rounded, n at least 1; an enclosure that does not decide the rounding leaves it free (log entry 6). -/
def Fp.powN (x : W32) (n : Nat) : W32 :=
  let neg := Fp.neg x && n % 2 = 1
  if Fp.isNan x then Fp.nan
  else if Fp.isInf x then Fp.inf neg
  else if Fp.isZero x then Fp.zero neg
  else
    let m := Mant.pow 64 n ⟨Fp.units x, Fp.units x, -149⟩ ⟨1, 1, 0⟩
    let a := mantMag m.lo m.e
    if a = mantMag m.hi m.e then Fp.mk neg a else Config.freeRound 10 x

/-- rne(1 / rne(1 − xⁿ)). -/
def biasTerm (x : W32) (n : Nat) : W32 := Fp.rcp (Fp.sub Fp.one (Fp.powN x n))

/-- The constants of a SWEEP, with c14 and c15 overwritten where an image sets BC. -/
def sweepConsts (block : List W32) (bc : Bool) (n : Nat) : FMap W32 :=
  let at_ (i : Nat) : W32 :=
    if bc && i = 14 then biasTerm (block.getD 0 0) n
    else if bc && i = 15 then biasTerm (block.getD 7 0) n
    else block.getD i 0
  (List.range 16).foldl (fun m i => FMap.put 0 m i (at_ i)) []

/-! ## The arrays of a SWEEP -/

/-- ROWS. -/
def wRows (r : List Byte) : Nat := field r 52 4
/-- COLS. -/
def wCols (r : List Byte) : Nat := field r 56 4
/-- E. -/
def wElems (r : List Byte) : Nat := wRows r * wCols r

/-- What a running SWEEP reads: its memories and the step's s_g. -/
structure SweepIn where
  r : List Byte
  w : Mem
  g : Mem
  m : Mem
  v2 : Mem
  wq : Mem
  q : Mem
  eimg : List Byte
  vimg : Option (List Byte)
  sg : W32
  consts : FMap W32
  deriving DecidableEq, Repr

/-- What the programs have written so far, beside the counts of Table 4.12: the arrays as memories with the writes in
order (array number 0 W, 1 M, 2 V2, 3 WQ). -/
structure SweepOut where
  w : Mem
  m : Mem
  v2 : Mem
  wq : Mem
  writes : List (Nat × Nat × List Byte)
  nonfinite : Nat
  amax : FMap W32                         -- finite-max of |W| by row
  clipped : List Nat                      -- WQ rows that have clipped
  unit : UpdUnit
  deriving DecidableEq, Repr

/-- A write to one array. -/
def SweepOut.put (o : SweepOut) (arr off : Nat) (bs : List Byte) : SweepOut :=
  let o := { o with writes := o.writes ++ [(arr, off, bs)] }
  match arr with
  | 0 => { o with w := o.w.write off bs }
  | 1 => { o with m := o.m.write off bs }
  | 2 => { o with v2 := o.v2.write off bs }
  | _ => { o with wq := o.wq.write off bs }

/-- The unit at the start of a group: loaded registers, every other one +0.0. -/
def UpdUnit.begin (u : UpdUnit) (group live : Nat) (rowRun : Bool) (inputs : List (Nat × List W32)) : UpdUnit :=
  inputs.foldl (fun u p => u.put p.1 p.2) { u with regs := [], group, live, rowRun }

/-- The program run on the group in flight. -/
def UpdUnit.run (u : UpdUnit) (words : List Nat) : UpdUnit := words.foldl (fun u w => updIssue (uOp w) (uArgs w) u) u

/-- Lanes loaded from the live elements, +0.0 beyond. -/
def lanesFrom (live : Nat) (f : Nat → W32) : List W32 := (List.range 64).map fun l => if l < live then f l else 0

/-- Groups of a run over `n` elements: first element and live lanes. -/
def groupsOf (n : Nat) : List (Nat × Nat) := (List.range (ceilDiv n 64)).map fun i => (64 * i, min 64 (n - 64 * i))

/-- An FP32 word of a memory. -/
def fpOf (m : Mem) (at_ : Nat) : W32 := BitVec.ofNat 32 (leNat (m.read at_ 4))

/-- The vector program over one vector (rows at offset 0 of V2 and QSUM, or columns after them). -/
def vectorRun (a : SweepIn) (img : List Byte) (n base : Nat) (row : Bool) (o : SweepOut) : SweepOut :=
  (groupsOf n).foldl (fun o g =>
    let inputs := (if iReads img 0 then [(0, lanesFrom g.2 fun l => fpOf o.v2 (base + 4 * (g.1 + l)))] else [])
      ++ (if iReads img 1 then [(1, lanesFrom g.2 fun l => fpOf a.q (base + 4 * (g.1 + l)))] else [])
    let u := (o.unit.begin g.1 g.2 row inputs).run (iWords img)
    let o := { o with unit := u }
    if !iWrites img 0 then o
    else
      let xs := (u.reg 0).take g.2
      { o.put 2 (base + 4 * g.1) (bytes32 xs) with nonfinite := o.nonfinite + reportsFp xs }) o

/-- S after the row run: the canonical sum of the fed values, or as it stood where the program fed none (R91). -/
def sweepS (a : SweepIn) (img : List Byte) (o : SweepOut) : SweepOut :=
  if (iWords img).any fun w => uOp w = 0x0D then
    let s := treeReduce .sum ((List.range (wRows a.r)).map fun i => FMap.getD o.unit.fed i 0)
    o.put 2 (4 * (wRows a.r + wCols a.r)) (toLe 4 s.toNat)
  else o

/-- The codes and block scale of a first-moment block (R29). -/
def momentBlock (vals : List W32) : List Byte :=
  let amax := vals.foldl (fun a v => Fp.finiteMax a (Fp.mk false (Fp.mag v))) 0
  let sb := Fp.div amax (Fp.ofInt 127)
  let code (v : W32) : Int :=
    if Fp.isNan v then 0
    else if Fp.nonfinite v then if Fp.neg v then -127 else 127
    else if sb = 0 then 0 else sat127 (Fp.rneInt (Fp.div v sb))
  let codes := vals.map fun v => BitVec.ofInt 8 (code v)
  codes ++ zeros (64 - codes.length) ++ toLe 4 sb.toNat

/-- The row scale that the previous sweep recorded, and its offset in WQ (R97, R210). -/
def wqScaleAt (r : List Byte) (row : Nat) : Nat := roundUp (wElems r) 65536 + 4 * row

/-- The element program on one group. NONFINITE counts every output that WRITES names, W and WQ each on their own (R99, log
entry 77). -/
def elementGroup (a : SweepIn) (o : SweepOut) (g : Nat × Nat) : SweepOut :=
  let c := wCols a.r
  let rows := wRows a.r
  let row (l : Nat) : Nat := (g.1 + l) / c
  let col (l : Nat) : Nat := (g.1 + l) % c
  let block := g.1 / 64 * 68
  let img := a.eimg
  let load (n : Nat) (f : Nat → W32) : List (Nat × List W32) := if iReads img n then [(n, lanesFrom g.2 f)] else []
  let inputs := load 0 (fun l => fpOf a.w (4 * (g.1 + l)))
    ++ load 1 (fun l => Fp.mul (Fp.ofCode (a.g.byte (g.1 + l))) a.sg)
    ++ load 2 (fun l => Fp.mul (Fp.ofCode (a.m.byte (block + l))) (fpOf a.m (block + 64)))
    ++ load 3 (fun l => fpOf o.v2 (4 * row l))
    ++ load 4 (fun l => fpOf o.v2 (4 * (rows + col l)))
    ++ load 5 (fun _ => fpOf o.v2 (4 * (rows + c)))
    ++ load 6 (fun l => fpOf a.v2 (4 * (g.1 + l)))
  let u := (o.unit.begin g.1 g.2 false inputs).run (iWords img)
  let o := { o with unit := u }
  let vals (n : Nat) : List W32 := (u.reg n).take g.2
  let o := if iWrites img 0 then { o.put 0 (4 * g.1) (bytes32 (vals 0)) with nonfinite := o.nonfinite + reportsFp (vals 0) } else o
  let o := if iWrites img 1 then { o.put 1 block (momentBlock (vals 2)) with nonfinite := o.nonfinite + reportsFp (vals 2) } else o
  let o := if iWrites img 2 then { o.put 2 (4 * g.1) (bytes32 (vals 6)) with nonfinite := o.nonfinite + reportsFp (vals 6) } else o
  if iWrites img 3 then
    ((List.range g.2).zip (vals 0)).foldl (fun (o : SweepOut) p =>
      let ρ := row p.1
      let z := requantize p.2 (Fp.rcp (fpOf a.wq (wqScaleAt a.r ρ)))
      let o := o.put 3 (g.1 + p.1) [BitVec.ofInt 8 z.code]
      { o with
        amax := FMap.set o.amax ρ (Fp.finiteMax (FMap.getD o.amax ρ 0) (Fp.mk false (Fp.mag p.2)))
        clipped := if z.clipped && !o.clipped.contains ρ then o.clipped ++ [ρ] else o.clipped })
      { o with nonfinite := o.nonfinite + reportsFp (vals 0) }
  else o

/-- The row scales that WQ takes at the end of the tensor: rne(max(amax, 2^-100) / 127). -/
def wqScales (a : SweepIn) (o : SweepOut) : SweepOut :=
  if !iWrites a.eimg 3 then o
  else (List.range (wRows a.r)).foldl (fun o ρ =>
    let s := Fp.div (Fp.max (FMap.getD o.amax ρ 0) (Fp.pow2 (-100))) (Fp.ofInt 127)
    o.put 3 (wqScaleAt a.r ρ) (toLe 4 s.toNat)) o

/-- The whole SWEEP: vector program over R, S, vector program over C, then the element program (R91). -/
def sweepAll (a : SweepIn) (owner : Option (Nat × Nat)) : SweepOut :=
  let o : SweepOut := { w := a.w, m := a.m, v2 := a.v2, wq := a.wq, writes := [], nonfinite := 0, amax := [], clipped := []
                        unit := { consts := a.consts, owner } }
  let o := match a.vimg with
    | none => o
    | some img =>
      let o := sweepS a img (vectorRun a img (wRows a.r) 0 true o)
      vectorRun a img (wCols a.r) (4 * wRows a.r) false o
  wqScales a ((groupsOf (wElems a.r)).foldl (elementGroup a) o)

/-- The image bytes behind a handle. -/
def imageOf (Q : Queue) (c : Cmd) (h : Nat) : List Byte := readH Q c h 0 imageBytes

/-- The operands of a running SWEEP. Its bias exponent is the update counter plus one; s_g is the SWEEP_SCALE of G_RING's
observation record (R234, R235). -/
def sweepIn (Q : Queue) (c : Cmd) (J : Job) : SweepIn :=
  let r := c.bytes
  let m (o : Nat) : Mem := if rH r o = 0 then [] else viewOf Q c (hVer Q.part (rH r o))
  let eimg := imageOf Q c (rH r 40)
  let vimg := if rH r 44 = 0 then none else some (imageOf Q c (rH r 44))
  { r, w := m 16, g := m 20, m := m 24, v2 := m 28, wq := m 32, q := m 60, eimg, vimg
    sg := (FMap.getD J.obs (rRing r 48) {}).sweepScale
    consts := sweepConsts (words32 (readH Q c (rH r 36) 0 64)) (iBc eimg || (vimg.any iBc)) (J.updates + 1) }

/-- SWEEP: runs in a committed window; in a skipped or refused one it does nothing (R234). Its record joins the sweep log
at commit (R99). -/
def runSweep (s : State) (q : Nat) : State :=
  match queueAt s q with
  | none => s
  | some Q =>
    match runningCmd Q fun c => c.op = 7 with
    | none => s
    | some c =>
      match Q.job.bind (jobAt s) with
      | none => s
      | some J =>
        let batch := (J.batch + 2 ^ 64 - 1) % 2 ^ 64
        if J.window ≠ .committed then
          finish s q c.uid 0 fun c =>
            { c with sweepRec := some { batch, index := 0, queue := q, status := 0, nonfinite := 0, clippedRows := 0 } }
        else
          let o := sweepAll (sweepIn Q c J) (some (q, c.uid))
          let st := if o.nonfinite = 0 then 0 else 0x0E42
          let ver (arr : Nat) : Nat := hVer Q.part (rH c.bytes (if arr = 0 then 16 else if arr = 1 then 24 else if arr = 2 then 28 else 32))
          let ws := o.writes.map fun w => (⟨ver w.1, w.2.1, w.2.2⟩ : StageWrite)
          finish s q c.uid st fun c =>
            { c with staged := c.staged ++ ws
                     sweepRec := some { batch, index := 0, queue := q, status := st, nonfinite := o.nonfinite, clippedRows := o.clipped.length } }

/-! ## Meanings -/

/-- ADD. -/
def execUadd (core : Nat) (a : UArgs) (s : State) : Result := .next (updUnit s core (updOp2 Fp.add a))
/-- SUB. -/
def execUsub (core : Nat) (a : UArgs) (s : State) : Result := .next (updUnit s core (updOp2 Fp.sub a))
/-- MUL. -/
def execUmul (core : Nat) (a : UArgs) (s : State) : Result := .next (updUnit s core (updOp2 Fp.mul a))
/-- FMA. -/
def execUfma (core : Nat) (a : UArgs) (s : State) : Result := .next (updUnit s core (updOp3 Fp.fma a))
/-- DIV. -/
def execUdiv (core : Nat) (a : UArgs) (s : State) : Result := .next (updUnit s core (updOp2 Fp.div a))
/-- SQRT. -/
def execUsqrt (core : Nat) (a : UArgs) (s : State) : Result := .next (updUnit s core (updOp1 Fp.sqrt a))
/-- RSQRT. -/
def execUrsqrt (core : Nat) (a : UArgs) (s : State) : Result := .next (updUnit s core (updOp1 Fp.rsqrt a))
/-- MAX. -/
def execUmax (core : Nat) (a : UArgs) (s : State) : Result := .next (updUnit s core (updOp2 Fp.max a))
/-- MIN. -/
def execUmin (core : Nat) (a : UArgs) (s : State) : Result := .next (updUnit s core (updOp2 Fp.min a))
/-- ABS. -/
def execUabs (core : Nat) (a : UArgs) (s : State) : Result := .next (updUnit s core (updOp1 Fp.abs a))
/-- SEL. -/
def execUsel (core : Nat) (a : UArgs) (s : State) : Result := .next (updUnit s core (updOp3 updSel a))
/-- EST (R30). -/
def execUest (core : Nat) (a : UArgs) (s : State) : Result := .next (updUnit s core (updOp3 updEst a))
/-- RED (R91). -/
def execUred (core : Nat) (a : UArgs) (s : State) : Result := .next (updUnit s core (updRed a))
/-- MOV. -/
def execUmov (core : Nat) (a : UArgs) (s : State) : Result := .next (updUnit s core (updOp1 id a))

end Sys2Proof.Machine
end

