-- ==== Sys2Proof/Machine/Trans.lean ====
section
/-! DEFINITION. The transcendentals of Table 4.3 (R80): the exact result, rounded once. A result is enclosed between two
fixed-point numbers of 512 fraction bits, and both ends are rounded; where they disagree the result is a free value (log
entry 6). The inputs whose exact result is a binary fraction are answered first. -/

namespace Sys2Proof

/-- An enclosure of a non-negative real, both ends in units of 2^-512. -/
structure Encl where
  lo : Nat
  hi : Nat
  deriving DecidableEq, Repr

/-- 1 in units of 2^-512. -/
def Encl.unit : Nat := 2 ^ 512

/-- The exact number `n / 2^149`. -/
def Encl.ofUnits (n : Nat) : Encl := ⟨n * 2 ^ 363, n * 2 ^ 363⟩

/-- The integer `n`. -/
def Encl.ofNat (n : Nat) : Encl := ⟨n * Encl.unit, n * Encl.unit⟩

/-- Sum. -/
def Encl.add (a b : Encl) : Encl := ⟨a.lo + b.lo, a.hi + b.hi⟩

/-- Difference of a greater and a lesser number. -/
def Encl.sub (a b : Encl) : Encl := ⟨a.lo - b.hi, a.hi - b.lo⟩

/-- Product. -/
def Encl.mul (a b : Encl) : Encl := ⟨a.lo * b.lo / Encl.unit, ceilDiv (a.hi * b.hi) Encl.unit⟩

/-- Quotient by a number that is not 0. -/
def Encl.div (a b : Encl) : Encl := ⟨a.lo * Encl.unit / b.hi, ceilDiv (a.hi * Encl.unit) b.lo⟩

/-- Product with an integer. -/
def Encl.scale (a : Encl) (n : Nat) : Encl := ⟨a.lo * n, a.hi * n⟩

/-- Quotient by an integer. -/
def Encl.over (a : Encl) (n : Nat) : Encl := ⟨a.lo / n, ceilDiv a.hi n⟩

/-- A series of positive terms, each at most half the one before: term `i + 1` is term `i` times `x` times `num i` over
`den i`. The last term bounds the rest of the series. -/
def Encl.series (x : Encl) (num den : Nat → Nat) (n i : Nat) (term sum : Encl) : Encl :=
  match n with
  | 0 => ⟨sum.lo, sum.hi + 2 * term.hi⟩
  | n + 1 =>
    let t := ((term.mul x).scale (num i)).over (den i)
    Encl.series x num den n (i + 1) t (sum.add t)

/-- An enclosure squared `n` times. -/
def Encl.squares (n : Nat) (a : Encl) : Encl :=
  match n with
  | 0 => a
  | n + 1 => Encl.squares n (a.mul a)

/-- e^x for 0 ≤ x < 256: the Taylor series at x / 2^16, squared 16 times. -/
def Encl.exp (x : Encl) : Encl :=
  Encl.squares 16 (Encl.series (x.over (2 ^ 16)) (fun _ => 1) (fun i => i + 1) 60 0 (Encl.ofNat 1) (Encl.ofNat 1))

/-- The sum over i of z^(2i+1) / (2i+1), for z at most 1/3: the inverse hyperbolic tangent. -/
def Encl.atanh (z : Encl) : Encl :=
  Encl.series (z.mul z) (fun i => 2 * i + 1) (fun i => 2 * i + 3) 170 0 z z

/-- ln 2 = 2 atanh(1/3). -/
def Encl.ln2 : Encl := (Encl.atanh ((Encl.ofNat 1).over 3)).scale 2

/-- The even and odd parts of the alternating series of the inverse tangent of 1/n, as positive sums: term i is
1 / ((2i+1) n^(2i+1)). -/
def Encl.atanParts (n : Nat) (fuel i : Nat) (even odd : Encl) : Encl × Encl :=
  match fuel with
  | 0 => (⟨even.lo, even.hi + 1⟩, ⟨odd.lo, odd.hi + 1⟩)
  | fuel + 1 =>
    let t := (Encl.ofNat 1).over ((2 * i + 1) * n ^ (2 * i + 1))
    if i % 2 = 0 then Encl.atanParts n fuel (i + 1) (even.add t) odd
    else Encl.atanParts n fuel (i + 1) even (odd.add t)

/-- The inverse tangent of 1/n for n at least 5. -/
def Encl.atanInv (n : Nat) : Encl :=
  let (e, o) := Encl.atanParts n 120 0 (Encl.ofNat 0) (Encl.ofNat 0)
  e.sub o

/-- π by Machin's formula. -/
def Encl.pi : Encl := ((Encl.atanInv 5).scale 16).sub ((Encl.atanInv 239).scale 4)

/-- Square root. -/
def Encl.sqrt (a : Encl) : Encl := ⟨isqrt (a.lo * Encl.unit), isqrt (a.hi * Encl.unit) + 1⟩

/-- ln of a positive finite word, with its sign: true for a negative result. -/
def Encl.ln (x : W32) : Bool × Encl :=
  let u := Fp.units x
  let k := Nat.log2 u
  -- x = m · 2^(k − 149) with 1 ≤ m < 2
  let m := (Encl.ofNat u).over (2 ^ k)
  let lnm := (Encl.atanh ((m.sub (Encl.ofNat 1)).div (m.add (Encl.ofNat 1)))).scale 2
  if 149 ≤ k then (false, (Encl.ln2.scale (k - 149)).add lnm)
  else (true, (Encl.ln2.scale (149 - k)).sub lnm)

/-- erf x for 0 < x < 8: 2/√π · e^(−x²) · Σ 2^n x^(2n+1) / (2n+1)!!. -/
def Encl.erf (x : Encl) : Encl :=
  let xx := x.mul x
  let sum := Encl.series xx (fun _ => 2) (fun i => 2 * i + 3) 700 0 x x
  ((sum.scale 2).div (Encl.exp xx)).div (Encl.sqrt Encl.pi)

/-- The FP32 value of an enclosed real with a sign, for operation `op` on `x`. -/
def Encl.round (op : Nat) (x : W32) (neg : Bool) (e : Encl) : W32 :=
  let a := Fp.roundMag (e.lo * 2 ^ 149) Encl.unit
  let b := Fp.roundMag (e.hi * 2 ^ 149) Encl.unit
  if a = b then Fp.mk neg a else Config.freeRound op x

/-- e^|x| or its reciprocal. -/
def Encl.expSigned (neg : Bool) (a : Encl) : Encl :=
  if neg then (Encl.ofNat 1).div (Encl.exp a) else Encl.exp a

/-- e^x (VEXP). -/
def Fp.exp (x : W32) : W32 :=
  if Fp.isNan x then Fp.nan
  else if Fp.isZero x then Fp.one
  else if 0x43000000 ≤ Fp.mag x then if Fp.neg x then 0 else Fp.inf false
  else Encl.round 0x0D x false (Encl.expSigned (Fp.neg x) (Encl.ofUnits (Fp.units x)))

/-- 2^x (VEXP2); an integer x gives an exact power of two. -/
def Fp.exp2 (x : W32) : W32 :=
  if Fp.isNan x then Fp.nan
  else if 0x43800000 ≤ Fp.mag x then if Fp.neg x then 0 else Fp.inf false
  else if Fp.units x % 2 ^ 149 = 0 then
    let k := Fp.units x / 2 ^ 149
    Fp.mk false (if Fp.neg x then Fp.roundMag (2 ^ 149) (2 ^ k) else Fp.roundMag (2 ^ (149 + k)) 1)
  else Encl.round 0x0E x false (Encl.expSigned (Fp.neg x) ((Encl.ofUnits (Fp.units x)).mul Encl.ln2))

/-- ln x (VLN). -/
def Fp.ln (x : W32) : W32 :=
  if Fp.isNan x then Fp.nan
  else if Fp.isZero x then Fp.inf true
  else if Fp.neg x then Fp.nan
  else if Fp.isInf x then x
  else if x = Fp.one then 0
  else let (s, e) := Encl.ln x; Encl.round 0x0F x s e

/-- log₂ x (VLOG2); a power of two gives an exact integer. -/
def Fp.log2 (x : W32) : W32 :=
  if Fp.isNan x then Fp.nan
  else if Fp.isZero x then Fp.inf true
  else if Fp.neg x then Fp.nan
  else if Fp.isInf x then x
  else if Fp.units x = 2 ^ Nat.log2 (Fp.units x) then Fp.ofInt ((Nat.log2 (Fp.units x) : Int) - 149)
  else let (s, e) := Encl.ln x; Encl.round 0x10 x s (e.div Encl.ln2)

/-- tanh x (VTANH) = (e^2x − 1) / (e^2x + 1) on the magnitude. -/
def Fp.tanh (x : W32) : W32 :=
  if Fp.isNan x then Fp.nan
  else if Fp.isZero x then x
  else if 0x42800000 ≤ Fp.mag x then Fp.mk (Fp.neg x) 0x3F800000
  else
    let e := Encl.exp (Encl.ofUnits (2 * Fp.units x))
    Encl.round 0x11 x (Fp.neg x) ((e.sub (Encl.ofNat 1)).div (e.add (Encl.ofNat 1)))

/-- erf x (VERF). -/
def Fp.erf (x : W32) : W32 :=
  if Fp.isNan x then Fp.nan
  else if Fp.isZero x then x
  else if 0x41000000 ≤ Fp.mag x then Fp.mk (Fp.neg x) 0x3F800000
  else Encl.round 0x12 x (Fp.neg x) (Encl.erf (Encl.ofUnits (Fp.units x)))

/-- 1 / (1 + e^−x) (VSIG). -/
def Fp.sig (x : W32) : W32 :=
  if Fp.isNan x then Fp.nan
  else if Fp.isZero x then 0x3F000000
  else if 0x43000000 ≤ Fp.mag x then if Fp.neg x then 0 else Fp.one
  else
    let e := Encl.expSigned (!Fp.neg x) (Encl.ofUnits (Fp.units x))
    Encl.round 0x13 x false ((Encl.ofNat 1).div ((Encl.ofNat 1).add e))

end Sys2Proof
end

