-- ==== Sys2Proof/Machine/VectorUnit.lean ====
section
/-! DEFINITION. The vector unit: instructions, the program check and the run of a VECTOR command (R77 to R86, R113). An
instruction that needs its command (memory, reductions, random numbers, END) has no effect on an idle unit (log entry
1). Log entries are notes/assumptions/<n>.md. -/

namespace Sys2Proof.Machine

open Sys2Proof

/-! ## Registers (Table 4.1) -/

/-- 512 zero lanes. -/
def lanes0 : List W32 := List.replicate 512 0

/-- A vector register. -/
def VecUnit.reg (u : VecUnit) (n : Nat) : List W32 := FMap.getD u.regs n lanes0
/-- A mask; k0 reads as all ones. -/
def VecUnit.maskOf (u : VecUnit) (n : Nat) : BitVec 512 := if n = 0 then BitVec.allOnes 512 else FMap.getD u.masks n 0
/-- A scalar register. -/
def VecUnit.scalar (u : VecUnit) (n : Nat) : W64 := FMap.getD u.scalars n 0
/-- A register's tag. -/
def VecUnit.tagOf (u : VecUnit) (n : Nat) : Option W64 := FMap.get? u.tags n
/-- The lanes of a mask. -/
def maskLanes (m : BitVec 512) : List Bool := (List.range 512).map m.getLsbD

/-- New lanes where the mask is 1, old ones elsewhere. -/
def mergeLanes (m : List Bool) (new old : List W32) : List W32 :=
  (m.zip (new.zip old)).map fun p => if p.1 then p.2.1 else p.2.2

/-- VD written under MK with a tag; none clears the tag (R83). -/
def VecUnit.write (u : VecUnit) (a : VArgs) (vals : List W32) (tag : Option W64) : VecUnit :=
  let d := a.vd.toNat
  let new := if a.mask = 0 then vals else mergeLanes (maskLanes (u.maskOf a.mask.toNat)) vals (u.reg d)
  { u with
    regs := FMap.put lanes0 u.regs d new
    tags := match tag with
      | none => FMap.erase u.tags d
      | some t => FMap.set u.tags d t }

/-- The next program position: the loop stack repeats or leaves the loops that end here. A loop whose last body instruction is
itself a LOOP ends behind that loop's body (log entry 148). -/
def loopBack (fuel : Nat) (pc : Nat) (l : List LoopFrame) : Nat × List LoopFrame :=
  match fuel, l with
  | 0, _ => (pc, l)
  | _, [] => (pc, [])
  | fuel + 1, f :: t =>
    if f.first + f.body ≤ pc then
      if 0 < f.left then (f.first, { f with left := f.left - 1 } :: t) else loopBack fuel pc t
    else (pc, l)

/-- The unit after an instruction has issued. -/
def VecUnit.next (u : VecUnit) : VecUnit :=
  let (pc, loops) := loopBack 5 (u.pc + 1) u.loops
  { u with pc, loops }

/-- The state with a core's vector unit changed. -/
def updVec (s : State) (core : Nat) (f : VecUnit → VecUnit) : State := updCore s core fun k => { k with vec := f k.vec }
/-- A core's vector unit. -/
def vecOf (s : State) (core : Nat) : VecUnit := (coreAt s core).vec

/-- The VECTOR command whose unit this is. -/
def vecOwner (s : State) (core : Nat) : Option (Nat × Queue × Cmd) :=
  match (vecOf s core).owner with
  | none => none
  | some (q, uid) =>
    match queueAt s q with
    | none => none
    | some Q => (cmdAt Q uid).map fun c => (q, Q, c)

/-- The command fails at issue. -/
def vecFail (s : State) (core : Nat) (st : Status) : State :=
  match (vecOf s core).owner with
  | none => s
  | some (q, uid) => fail s q uid st

/-! ## Lane-wise instructions -/

/-- One source, lane by lane. -/
def vecLane1 (f : W32 → W32) (core : Nat) (a : VArgs) (s : State) : State :=
  updVec s core fun u => (u.write a ((u.reg a.va.toNat).map f) none).next

/-- Two sources, lane by lane. -/
def vecLane2 (f : W32 → W32 → W32) (core : Nat) (a : VArgs) (s : State) : State :=
  updVec s core fun u => (u.write a ((u.reg a.va.toNat).zipWith f (u.reg a.vb.toNat)) none).next

/-- Three sources, lane by lane. -/
def vecLane3 (f : W32 → W32 → W32 → W32) (core : Nat) (a : VArgs) (s : State) : State :=
  updVec s core fun u =>
    (u.write a (((u.reg a.va.toNat).zip ((u.reg a.vb.toNat).zip (u.reg a.vc.toNat))).map fun p => f p.1 p.2.1 p.2.2) none).next

/-- The comparison that FN selects (Table 4.3). -/
def vecCompare (fn : Nat) (x y : W32) : Bool :=
  match fn with
  | 0 => Fp.lt x y
  | 1 => Fp.lt x y || Fp.eq x y
  | 2 => Fp.eq x y
  | _ => Fp.isNan x || Fp.isNan y

/-- A mask from its lanes. -/
def laneMask (l : List Bool) : BitVec 512 :=
  BitVec.ofNat 512 (l.reverse.foldl (fun n b => 2 * n + if b then 1 else 0) 0)

/-- VCMP: mask VD[2:0], where MK is 1; k0 ignores the write. -/
def vecCmp (core : Nat) (a : VArgs) (s : State) : State :=
  if 3 < a.fn.toNat then vecFail s core 0x0E01
  else updVec s core fun u =>
    let d := a.vd.toNat % 8
    let new := laneMask ((u.reg a.va.toNat).zipWith (vecCompare a.fn.toNat) (u.reg a.vb.toNat))
    let m := u.maskOf a.mask.toNat
    let merged := (new &&& m) ||| (u.maskOf d &&& ~~~m)
    (if d = 0 then u else { u with masks := FMap.put 0 u.masks d merged }).next

/-- VSEL: mask MK ? va : vb, for all lanes. -/
def vecSel (core : Nat) (a : VArgs) (s : State) : State :=
  updVec s core fun u =>
    (u.write { a with mask := 0 } (mergeLanes (maskLanes (u.maskOf a.mask.toNat)) (u.reg a.va.toNat) (u.reg a.vb.toNat)) none).next

/-- VMOV: va with its tag. -/
def vecMov (core : Nat) (a : VArgs) (s : State) : State :=
  updVec s core fun u => (u.write a (u.reg a.va.toNat) (u.tagOf a.va.toNat)).next

/-- VBCAST: lane IMM[8:0] of va. -/
def vecBcast (core : Nat) (a : VArgs) (s : State) : State :=
  updVec s core fun u => (u.write a (List.replicate 512 ((u.reg a.va.toNat).getD (bits a.imm.toNat 8 0) 0)) none).next

/-- VLANE: the lane index as FP32. -/
def vecLaneIdx (core : Nat) (a : VArgs) (s : State) : State :=
  updVec s core fun u => (u.write a ((List.range 512).map fun i : Nat => Fp.ofInt i) none).next

/-- VDROP: kept where the word's bits [31:8] reach the threshold, scaled by vc[0] (R86). -/
def vecDrop (core : Nat) (a : VArgs) (s : State) : State :=
  updVec s core fun u =>
    let scale := (u.reg a.vc.toNat).getD 0 0
    let t := bits a.imm.toNat 23 0
    (u.write a ((u.reg a.va.toNat).zipWith (fun w x => if t ≤ w.toNat / 256 then Fp.mul x scale else 0) (u.reg a.vb.toNat)) none).next

/-- VUNI of one word: rne(word[31:8] × 2^-24). -/
def vecUni (w : W32) : W32 := Fp.ofFrac (w.toNat / 256) (2 ^ 24)

/-! ## Scalars and control -/

/-- A 26-bit immediate, sign-extended. -/
def immSigned (a : VArgs) : W64 := BitVec.signExtend 64 a.imm

/-- A scalar register written; VD[3:0] names it. -/
def vecScalar (f : W64 → W64) (core : Nat) (a : VArgs) (s : State) : State :=
  updVec s core fun u =>
    let d := a.vd.toNat % 16
    ({ u with scalars := FMap.put 0 u.scalars d (f (u.scalar d)) }).next

/-- SLIH: bits [63:38] from IMM. -/
def slihWord (imm : BitVec 26) (x : W64) : W64 := BitVec.ofNat 64 (x.toNat % 2 ^ 38 + imm.toNat * 2 ^ 38)

/-- LOOP: the next IMM[25:16] instructions run IMM[15:0] + 1 times; an empty body does nothing. A fifth active loop breaks
R78. -/
def vecLoop (core : Nat) (a : VArgs) (s : State) : State :=
  let body := bits a.imm.toNat 25 16
  if body ≠ 0 && 4 ≤ (vecOf s core).loops.length then vecFail s core 0x0E01
  else updVec s core fun u =>
    if body = 0 then u.next
    else { u with loops := ⟨u.pc + 1, body, bits a.imm.toNat 15 0⟩ :: u.loops, pc := u.pc + 1 }

/-- END: the command has finished; its staging waits for the commit. -/
def vecEnd (core : Nat) (s : State) : State :=
  match (vecOf s core).owner with
  | none => s
  | some (q, uid) => finish s q uid 0 id

/-! ## Memory (R81, R82) -/

/-- The address s[SS] + IMM. -/
def vecAddr (u : VecUnit) (a : VArgs) : Nat := (u.scalar a.ss.toNat + a.imm.setWidth 64).toNat

/-- The handle and offset that an access of `n` bytes reaches, or its status (R81, R113). -/
def vecReach (s : State) (Q : Queue) (c : Cmd) (addr n : Nat) : Except Status (Nat × Nat) :=
  if addr % 64 ≠ 0 then .error 0x0E11
  else
    let d := addr / 2 ^ 23
    let off := addr % 2 ^ 23
    let h := rH c.bytes (24 + 4 * d)
    if d < 8 && h ≠ 0 && off + n ≤ usedSize s Q c h then .ok (h, off) else .error 0x0E12

/-- A load of `n` bytes. -/
def vecLoad (n : Nat) (conv : VecUnit → List Byte → List W32) (core : Nat) (a : VArgs) (s : State) : State :=
  match vecOwner s core with
  | none => s
  | some (_, Q, c) =>
    match vecReach s Q c (vecAddr (vecOf s core) a) n with
    | .error st => vecFail s core st
    | .ok (h, off) =>
      let bs := readH Q c h off n
      updVec s core fun u => (u.write a (conv u bs) none).next

/-- The poisoned word that a load of `n` bytes reads. -/
def vecLoadMet (n core : Nat) (a : VArgs) (s : State) : Option (Nat × Nat) :=
  match vecOwner s core with
  | none => none
  | some (_, Q, c) =>
    match vecReach s Q c (vecAddr (vecOf s core) a) n with
    | .error _ => none
    | .ok (h, off) => poisonIn s Q c (bufKey Q.part (hIndex h)) off n

/-- The poisoned word of which a store of lanes of `w` bytes would keep bytes under its mask. -/
def vecStoreMet (w core : Nat) (a : VArgs) (s : State) : Option (Nat × Nat) :=
  match vecOwner s core with
  | none => none
  | some (_, Q, c) =>
    let u := vecOf s core
    match vecReach s Q c (vecAddr u a) (512 * w) with
    | .error _ => none
    | .ok (h, off) =>
      let key := bufKey Q.part (hIndex h)
      let m := u.maskOf a.mask.toNat
      let kept (i : Nat) : Bool := (List.range (8 / w)).any fun l => !m.getLsbD (8 / w * i + l)
      if s.rel.poison = [] then none
      else (List.range (64 * w)).findSome? fun i => if kept i then poisonIn s Q c key (off + 8 * i) 8 else none

/-- VLD8: rne(code × vb[0]). -/
def vecDequant (a : VArgs) (u : VecUnit) (bs : List Byte) : List W32 :=
  let m := (u.reg a.vb.toNat).getD 0 0
  bs.map fun b => Fp.mul (Fp.ofCode b) m

/-- The lanes that a store writes: unmasked ones. -/
def liveLanes {α : Type} (m : BitVec 512) (l : List α) : List α := ((maskLanes m).zip l).filterMap fun p => if p.1 then some p.2 else none

/-- A store of lanes of `w` bytes: masked lanes keep their old bytes; reports and observations are held with the staging
(R82, R222). -/
def vecStore (w : Nat) (code : List W32 → List (List Byte)) (obs : Nat → List W32 → List ObsDelta) (core : Nat) (a : VArgs)
    (s : State) : State :=
  match vecOwner s core with
  | none => s
  | some (q, Q, c) =>
    let u := vecOf s core
    match vecReach s Q c (vecAddr u a) (512 * w) with
    | .error st => vecFail s core st
    | .ok (h, off) =>
      let m := u.maskOf a.mask.toNat
      let v := u.reg a.va.toNat
      let old := chunks w (readH Q c h off (512 * w))
      let new := ((maskLanes m).zip ((code v).zip old)).flatMap fun p => if p.1 then p.2.1 else p.2.2
      let live := liveLanes m v
      let s := updCmd s q c.uid fun c =>
        { c with staged := c.staged ++ [writeH Q h off new]
                 nf := c.nf + reportsFp live
                 obs := c.obs ++ obs (rRing c.bytes 56) live }
      updVec s core VecUnit.next

/-- VST. -/
def vecSt (core : Nat) (a : VArgs) (s : State) : State :=
  vecStore 4 (fun v => v.map fun x => toLe 4 x.toNat) (fun _ _ => []) core a s

/-- VST8: codes under vb[0], observed under R36 into VRING. -/
def vecSt8 (core : Nat) (a : VArgs) (s : State) : State :=
  let m := ((vecOf s core).reg a.vb.toNat).getD 0 0
  vecStore 1 (fun v => v.map fun x => toLe 1 (unsigned 8 (requantize x m).code))
    (fun ring live => observeAll ring (live.map fun x => (x, requantize x m))) core a s

/-! ## Reductions (R83) -/

/-- RED_ID of a local tag (Table 4.4). -/
def lRed (t : W64) : Nat := bits t.toNat 63 40
/-- HEIGHT. -/
def lHeight (t : W64) : Nat := bits t.toNat 39 34
/-- NODE. -/
def lNode (t : W64) : Nat := bits t.toNat 33 0
/-- A local tag. -/
def lTag (red height node : Nat) : W64 := BitVec.ofNat 64 (red * 2 ^ 40 + height * 2 ^ 34 + node)
/-- A tag that names a node of a reduction of 2³³ elements or fewer. -/
def lValid (t : W64) : Bool := lHeight t ≤ 33 && lNode t < 2 ^ (33 - lHeight t)

/-- The declaration that an instruction's reduction has in its job (R83). -/
def vecDecl (s : State) (core red : Nat) : Option (Nat × RedDecl) :=
  match vecOwner s core with
  | none => none
  | some (_, Q, _) => Q.job.bind fun j => ((jobAt s j).bind fun J => redDecl J red).map fun d => (j, d)

/-- VRED: the nine-level tree over the lanes of a chunk. -/
def vecRed (core : Nat) (a : VArgs) (s : State) : State :=
  let u := vecOf s core
  let t := u.scalar a.ss.toNat
  let e0 := lNode t
  let m := u.maskOf a.mask.toNat
  let n := popcount 512 m.toNat
  if 3 < a.fn.toNat then vecFail s core 0x0E01
  else if lHeight t ≠ 0 then vecFail s core 0x0E24
  else if 2 ^ 33 ≤ e0 then vecFail s core 0x0E28
  else
    match vecDecl s core (lRed t) with
    | none => vecFail s core 0x0E23
    | some (_, d) =>
      let prefixOk := e0 / 512 + 1 = d.chunks && m.toNat = 2 ^ n - 1 && e0 + n = d.length
      if e0 % 512 ≠ 0 || !(n = 512 || prefixOk) then vecFail s core 0x0E24
      else updVec s core fun u =>
        let r := treeReduce (treeOpOf a.fn.toNat) ((u.reg a.va.toNat).take n)
        (u.write { a with mask := 0 } (List.replicate 512 r) (some (lTag (lRed t) 9 (e0 / 512)))).next

/-- VCOMB: the lanes of two sibling partials combined, va first. -/
def vecComb (core : Nat) (a : VArgs) (s : State) : State :=
  let u := vecOf s core
  if 3 < a.fn.toNat then vecFail s core 0x0E01
  else
    match u.tagOf a.va.toNat, u.tagOf a.vb.toNat with
    | some t, some t' =>
      if !(lRed t = lRed t' && lHeight t = lHeight t' && lNode t % 2 = 0 && lNode t' = lNode t + 1) then vecFail s core 0x0E24
      else if (vecDecl s core (lRed t)).isNone then vecFail s core 0x0E23
      else updVec s core fun u =>
        (u.write a ((u.reg a.va.toNat).zipWith (treeOpOf a.fn.toNat).apply (u.reg a.vb.toNat))
          (some (lTag (lRed t) (lHeight t + 1) (lNode t / 2)))).next
    | _, _ => vecFail s core 0x0E24

/-- A lane of a reduction's node that passes up: under finite-max a non-finite one becomes +0.0 (R44). -/
def RedDecl.pass32 (d : RedDecl) (x : W32) : W32 := if d.integer then x else (treeOpOf d.op).pass x

/-- VPASS: va one height up, past a right sibling that starts at or beyond the axis end. An odd node has no right sibling, and
an untagged register names no node; the manual gives neither a status, and the model answers 0x0E27 (DESIGN CHOICE, log
entry 149). -/
def vecPass (core : Nat) (a : VArgs) (s : State) : State :=
  let u := vecOf s core
  match u.tagOf a.va.toNat with
  | none => vecFail s core 0x0E27
  | some t =>
    match vecDecl s core (lRed t) with
    | none => vecFail s core 0x0E23
    | some (_, d) =>
      if lNode t % 2 = 1 || (lNode t + 1) * 2 ^ lHeight t < d.length then vecFail s core 0x0E27
      else if 33 ≤ lHeight t then vecFail s core 0x0E28
      else updVec s core fun u =>
        (u.write a ((u.reg a.va.toNat).map d.pass32) (some (lTag (lRed t) (lHeight t + 1) (lNode t / 2)))).next

/-- VTAG: the tag in s[SS] attached to VD. -/
def vecTag (core : Nat) (a : VArgs) (s : State) : State :=
  let t := (vecOf s core).scalar a.ss.toNat
  if !lValid t then vecFail s core 0x0E28
  else if (vecDecl s core (lRed t)).isNone then vecFail s core 0x0E23
  else updVec s core fun u => ({ u with tags := FMap.set u.tags a.vd.toNat t }).next

/-- The lanes of a partial: FP32 words; in an integer reduction the manual states no value for a 32-bit lane, so each is
free (log entry 2). -/
def sentLanes (s : State) (d : RedDecl) (l : List W32) : State × List W64 :=
  if d.integer then (drawn s l.length, (List.range l.length).map fun i => BitVec.ofNat 64 (Config.freeNat (s.fresh + i)))
  else (s, l.map fun x => x.setWidth 64)

/-- VSEND: lanes 0 … IMM[9:0] − 1 to the tagged engine of the core's cluster. -/
def vecSend (core : Nat) (a : VArgs) (s : State) : State :=
  let u := vecOf s core
  let n := bits a.imm.toNat 9 0
  if n = 0 || 512 < n then vecFail s core 0x0E01
  else
    match u.tagOf a.va.toNat with
    | none => vecFail s core 0x0E25
    | some t =>
      if lHeight t < 9 then vecFail s core 0x0E25
      else
        match vecOwner s core, vecDecl s core (lRed t) with
        | some (q, _, c), some (j, d) =>
          let lanes := (u.reg a.va.toNat).take n
          let live := liveLanes (u.maskOf a.mask.toNat) lanes
          let (s, sent) := sentLanes s d lanes
          let tag := BitVec.ofNat 64 (lRed t * 2 ^ 40 + (lHeight t - 9) * 2 ^ 32 + lNode t)
          let (s, st) := partialAt s j (core / 4) tag sent (some c.uid)
          if st ≠ 0 then vecFail s core st
          else updVec (updCmd s q c.uid fun c => { c with nf := c.nf + reportsFp live }) core VecUnit.next
        | _, _ => vecFail s core 0x0E23

/-- VRECV: the delivered root, lanes beyond its width +0.0; an undelivered root holds the issue. -/
def vecRecv (core : Nat) (a : VArgs) (s : State) : State :=
  let red := bits a.imm.toNat 23 0
  match vecDecl s core red with
  | none => vecFail s core 0x0E23
  | some (j, d) =>
    match rootOf s j red with
    | none => s
    | some lanes =>
      let vals := if d.integer then (List.range lanes.length).map fun i => BitVec.ofNat 32 (Config.freeNat (s.fresh + i))
        else lanes.map fun x => x.setWidth 32
      let s := if d.integer then drawn s lanes.length else s
      updVec s core fun u => (u.write a ((vals ++ lanes0).take 512) none).next

/-! ## Random numbers (R84, R85) -/

/-- The rounds of Philox-4x32-10 on a counter, with the key of the round at hand. -/
def philoxRounds (n : Nat) (k0 k1 : W32) (c : W32 × W32 × W32 × W32) : W32 × W32 × W32 × W32 :=
  match n with
  | 0 => c
  | n + 1 =>
    let (c0, c1, c2, c3) := c
    let p0 := 0xD2511F53 * c0.toNat
    let p1 := 0xCD9E8D57 * c2.toNat
    let hi (p : Nat) : W32 := BitVec.ofNat 32 (p / 2 ^ 32)
    let lo (p : Nat) : W32 := BitVec.ofNat 32 p
    philoxRounds n (k0 + 0x9E3779B9) (k1 + 0xBB67AE85) (hi p1 ^^^ c1 ^^^ k0, lo p1, hi p0 ^^^ c3 ^^^ k1, lo p0)

/-- The four words of one call: the key is the job seed, the counter as R84 lays it out. -/
def philox (seed : W64) (block layer tensor batch : Nat) : List W32 :=
  let c1 := BitVec.ofNat 32 (layer % 65536 * 65536 + block / 2 ^ 32 % 2 ^ 14)
  let (w0, w1, w2, w3) := philoxRounds 10 (seed.setWidth 32) ((seed >>> 32).setWidth 32)
    (BitVec.ofNat 32 block, c1, BitVec.ofNat 32 tensor, BitVec.ofNat 32 batch)
  [w0, w1, w2, w3]

/-- VRNG: lane L takes the word of element s[SS] + L. -/
def vecRng (core : Nat) (a : VArgs) (s : State) : State :=
  let u := vecOf s core
  let e0 := (u.scalar a.ss.toNat).toNat
  let key := (u.scalar (a.ss.toNat + 1)).toNat
  if a.ss.toNat = 15 then vecFail s core 0x0E01
  else if e0 % 4 ≠ 0 || 2 ^ 48 - 512 < e0 then vecFail s core 0x0E26
  else
    match (vecOwner s core).bind fun o => o.2.1.job.bind (jobAt s) with
    | none => s
    | some J => updVec s core fun u =>
      (u.write a ((List.range 128).flatMap fun g => philox J.seed (e0 / 4 + g) (bits key 63 48) (bits key 31 0) J.batch) none).next

/-! ## Programs (R78, Table 4.2) -/

/-- OP of an instruction word. -/
def vOp (w : Nat) : Nat := bits w 63 56

/-- The fields of an instruction word. -/
def vArgs (w : Nat) : VArgs where
  vd := BitVec.ofNat 5 (bits w 55 51)
  va := BitVec.ofNat 5 (bits w 50 46)
  vb := BitVec.ofNat 5 (bits w 45 41)
  vc := BitVec.ofNat 5 (bits w 40 36)
  mask := BitVec.ofNat 3 (bits w 35 33)
  ss := BitVec.ofNat 4 (bits w 32 29)
  fn := BitVec.ofNat 3 (bits w 28 26)
  imm := BitVec.ofNat 26 (bits w 25 0)

/-- Opcodes of Table 4.3. -/
def vKnown (op : Nat) : Bool :=
  (1 ≤ op && op ≤ 0x13) || (0x18 ≤ op && op ≤ 0x1C) || (0x20 ≤ op && op ≤ 0x23) || (0x28 ≤ op && op ≤ 0x2D)
    || (0x30 ≤ op && op ≤ 0x32) || (0x38 ≤ op && op ≤ 0x3A) || op = 0x3C || op = 0x3F

/-- One instruction fits R78, nesting aside. -/
def vecInsOk (w : Nat) : Bool :=
  let op := vOp w
  let a := vArgs w
  vKnown op && (!(op = 0x18 || op = 0x28 || op = 0x29) || a.fn.toNat ≤ 3)
    && (op ≠ 0x2C || (1 ≤ bits a.imm.toNat 9 0 && bits a.imm.toNat 9 0 ≤ 512)) && (op ≠ 0x30 || a.ss ≠ 15)

/-- Loop nesting of R78: `ends` holds the last body instruction and the depth of each open loop, innermost first. A body may
end with END. -/
def vecNestOk (ws : List Nat) (i endAt : Nat) (ends : List (Nat × Nat)) : Bool :=
  match ws with
  | [] => true
  | w :: t =>
    let ends := ends.dropWhile fun e => e.1 < i
    if vOp w = 0x3C then
      let last := i + bits (vArgs w).imm.toNat 25 16
      let depth := (ends.head?.map Prod.snd).getD 0 + 1
      decide (depth ≤ 4) && decide (last ≤ endAt) && (ends.all fun e => decide (e.1 ≤ i) || decide (last ≤ e.1))
        && vecNestOk t (i + 1) endAt (if i < last then (last, depth) :: ends else ends)
    else vecNestOk t (i + 1) endAt ends

/-- The instructions of a program image up to its END; none where no END stands among the first 4,096. -/
def vecProgram (image : List Byte) : Option (List Nat) :=
  let ws := ((chunks 8 (image.take 32768)).filter fun b => b.length = 8).map leNat
  let body := ws.takeWhile fun w => vOp w ≠ 0x3F
  (ws[body.length]?).map fun w => body ++ [w]

/-- The check of R78. -/
def vecProgOk (image : List Byte) : Bool :=
  match vecProgram image with
  | none => false
  | some ws => ws.all vecInsOk && vecNestOk ws 0 (ws.length - 1) []

/-- One instruction issued, by opcode (Table 4.3). -/
def vecIssue (op core : Nat) (a : VArgs) (s : State) : State :=
  match op with
  | 0x01 => vecLane2 Fp.add core a s
  | 0x02 => vecLane2 Fp.sub core a s
  | 0x03 => vecLane2 Fp.mul core a s
  | 0x04 => vecLane3 Fp.fma core a s
  | 0x05 => vecLane2 Fp.max core a s
  | 0x06 => vecLane2 Fp.min core a s
  | 0x07 => vecLane1 Fp.abs core a s
  | 0x08 => vecLane1 Fp.negate core a s
  | 0x09 => vecLane2 Fp.div core a s
  | 0x0A => vecLane1 Fp.sqrt core a s
  | 0x0B => vecLane1 Fp.rsqrt core a s
  | 0x0C => vecLane1 Fp.rcp core a s
  | 0x0D => vecLane1 Fp.exp core a s
  | 0x0E => vecLane1 Fp.exp2 core a s
  | 0x0F => vecLane1 Fp.ln core a s
  | 0x10 => vecLane1 Fp.log2 core a s
  | 0x11 => vecLane1 Fp.tanh core a s
  | 0x12 => vecLane1 Fp.erf core a s
  | 0x13 => vecLane1 Fp.sig core a s
  | 0x18 => vecCmp core a s
  | 0x19 => vecSel core a s
  | 0x1A => vecMov core a s
  | 0x1B => vecBcast core a s
  | 0x1C => vecLaneIdx core a s
  | 0x20 => vecLoad 2048 (fun _ bs => words32 bs) core a s
  | 0x21 => vecSt core a s
  | 0x22 => vecLoad 512 (vecDequant a) core a s
  | 0x23 => vecSt8 core a s
  | 0x28 => vecRed core a s
  | 0x29 => vecComb core a s
  | 0x2A => vecPass core a s
  | 0x2B => vecTag core a s
  | 0x2C => vecSend core a s
  | 0x2D => vecRecv core a s
  | 0x30 => vecRng core a s
  | 0x31 => vecDrop core a s
  | 0x32 => vecLane1 vecUni core a s
  | 0x38 => vecScalar (fun _ => immSigned a) core a s
  | 0x39 => vecScalar (slihWord a.imm) core a s
  | 0x3A => vecScalar (fun x => x + immSigned a) core a s
  | 0x3C => vecLoop core a s
  | 0x3F => vecEnd core s
  | _ => vecFail s core 0x0E01

/-- The poisoned word that the unit's next instruction reads: one of the program, or that of a load or store. -/
def vecMet (s : State) (core : Nat) : Option (Nat × Nat) :=
  match vecOwner s core with
  | none => none
  | some (_, Q, c) =>
    let prog := bufKey Q.part (hIndex (rH c.bytes 16))
    let pc := (vecOf s core).pc
    let w := wordH Q c (rH c.bytes 16) (8 * pc) 8
    (poisonIn s Q c prog (8 * pc) 8).orElse fun _ =>
      match vOp w with
      | 0x20 => vecLoadMet 2048 core (vArgs w) s
      | 0x21 => vecStoreMet 4 core (vArgs w) s
      | 0x22 => vecLoadMet 512 core (vArgs w) s
      | 0x23 => vecStoreMet 1 core (vArgs w) s
      | _ => none

/-- The program runs on from its position until END, a failure, a poisoned word or a VRECV whose root is not delivered. -/
def vecRun (fuel core : Nat) (s : State) : State :=
  match fuel with
  | 0 => s
  | fuel + 1 =>
    match vecOwner s core with
    | none => s
    | some (_, Q, c) =>
      let u := vecOf s core
      let w := wordH Q c (rH c.bytes 16) (8 * u.pc) 8
      let s' := vecIssue (vOp w) core (vArgs w) s
      if (vecMet s core).isSome then s
      else if vecOf s' core = u && vOp w = 0x2D then s'
      else vecRun fuel core s'

/-- More instructions than any program issues: 4,096 under four loops of 65,536. -/
def vecFuel : Nat := 2 ^ 76

/-- VECTOR: the oldest running VECTOR of the queue takes its core's unit, cleared, and its program runs. -/
def runVector (s : State) (q : Nat) : State :=
  match queueAt s q with
  | none => s
  | some Q =>
    match runningCmd Q fun c => c.op = 2 with
    | none => s
    | some c =>
      match (vecOf s c.core).owner with
      | none => vecRun vecFuel c.core (updVec s c.core fun _ => { owner := some (q, c.uid) })
      | some o => if o = (q, c.uid) then vecRun vecFuel c.core s else s

/-! ## The buffers that a program reaches (R79, R129, R132) -/

/-- A vector program followed through its scalars alone (R79): the buffers that it loads from and stores to. -/
structure VecTrace where
  pc : Nat := 0
  loops : List LoopFrame := []
  scalars : FMap W64 := []
  reads : List Nat := []
  writes : List Nat := []
  deriving DecidableEq, Repr

/-- The position after an instruction that ends at `pc`: loops whose body ends there repeat or close. -/
def VecTrace.next (v : VecTrace) : VecTrace :=
  let u := ({ loops := v.loops, pc := v.pc } : VecUnit).next
  { v with pc := u.pc, loops := u.loops }

/-- One instruction's effect on the scalars and the buffers. -/
def VecTrace.issue (v : VecTrace) (w : Nat) : VecTrace :=
  let a := vArgs w
  let d := a.vd.toNat % 16
  let x := FMap.getD v.scalars d 0
  let addr := (FMap.getD v.scalars a.ss.toNat 0 + a.imm.setWidth 64).toNat / 2 ^ 23
  let put (y : W64) : VecTrace := ({ v with scalars := FMap.put 0 v.scalars d y }).next
  let body := bits a.imm.toNat 25 16
  match vOp w with
  | 0x38 => put (immSigned a)
  | 0x39 => put (slihWord a.imm x)
  | 0x3A => put (x + immSigned a)
  | 0x3C => if body = 0 then v.next else { v with loops := ⟨v.pc + 1, body, bits a.imm.toNat 15 0⟩ :: v.loops, pc := v.pc + 1 }
  | 0x20 => ({ v with reads := if v.reads.contains addr then v.reads else addr :: v.reads }).next
  | 0x22 => ({ v with reads := if v.reads.contains addr then v.reads else addr :: v.reads }).next
  | 0x21 => ({ v with writes := if v.writes.contains addr then v.writes else addr :: v.writes }).next
  | 0x23 => ({ v with writes := if v.writes.contains addr then v.writes else addr :: v.writes }).next
  | _ => v.next

/-- The program followed to its END. -/
def vecTrace (fuel : Nat) (ws : List Nat) (v : VecTrace) : VecTrace :=
  match fuel with
  | 0 => v
  | fuel + 1 =>
    match ws[v.pc]? with
    | none => v
    | some w => if vOp w = 0x3F then v else vecTrace fuel ws (v.issue w)

/-- The buffers, by field offset, that a VECTOR of a program reads and writes; all of them for no program. -/
def programFields (prog : Option (List Byte)) : List Nat × List Nat :=
  let slots := (List.range 8).map fun d => 24 + 4 * d
  match prog.bind vecProgram with
  | none => (slots, slots)
  | some ws =>
    let v := vecTrace vecFuel ws {}
    (v.reads.map fun d => 24 + 4 * d, v.writes.map fun d => 24 + 4 * d)

/-! ## Meanings -/

/-- VADD. -/
def execVadd (core : Nat) (a : VArgs) (s : State) : Result := .next (vecLane2 Fp.add core a s)
/-- VSUB. -/
def execVsub (core : Nat) (a : VArgs) (s : State) : Result := .next (vecLane2 Fp.sub core a s)
/-- VMUL. -/
def execVmul (core : Nat) (a : VArgs) (s : State) : Result := .next (vecLane2 Fp.mul core a s)
/-- VFMA. -/
def execVfma (core : Nat) (a : VArgs) (s : State) : Result := .next (vecLane3 Fp.fma core a s)
/-- VMAX (R44). -/
def execVmax (core : Nat) (a : VArgs) (s : State) : Result := .next (vecLane2 Fp.max core a s)
/-- VMIN (R44). -/
def execVmin (core : Nat) (a : VArgs) (s : State) : Result := .next (vecLane2 Fp.min core a s)
/-- VABS. -/
def execVabs (core : Nat) (a : VArgs) (s : State) : Result := .next (vecLane1 Fp.abs core a s)
/-- VNEG. -/
def execVneg (core : Nat) (a : VArgs) (s : State) : Result := .next (vecLane1 Fp.negate core a s)
/-- VDIV (R80). -/
def execVdiv (core : Nat) (a : VArgs) (s : State) : Result := .next (vecLane2 Fp.div core a s)
/-- VSQRT (R80). -/
def execVsqrt (core : Nat) (a : VArgs) (s : State) : Result := .next (vecLane1 Fp.sqrt core a s)
/-- VRSQRT (R80). -/
def execVrsqrt (core : Nat) (a : VArgs) (s : State) : Result := .next (vecLane1 Fp.rsqrt core a s)
/-- VRCP (R80). -/
def execVrcp (core : Nat) (a : VArgs) (s : State) : Result := .next (vecLane1 Fp.rcp core a s)
/-- VEXP (R80, Table 4.5). -/
def execVexp (core : Nat) (a : VArgs) (s : State) : Result := .next (vecLane1 Fp.exp core a s)
/-- VEXP2. -/
def execVexp2 (core : Nat) (a : VArgs) (s : State) : Result := .next (vecLane1 Fp.exp2 core a s)
/-- VLN. -/
def execVln (core : Nat) (a : VArgs) (s : State) : Result := .next (vecLane1 Fp.ln core a s)
/-- VLOG2. -/
def execVlog2 (core : Nat) (a : VArgs) (s : State) : Result := .next (vecLane1 Fp.log2 core a s)
/-- VTANH. -/
def execVtanh (core : Nat) (a : VArgs) (s : State) : Result := .next (vecLane1 Fp.tanh core a s)
/-- VERF. -/
def execVerf (core : Nat) (a : VArgs) (s : State) : Result := .next (vecLane1 Fp.erf core a s)
/-- VSIG. -/
def execVsig (core : Nat) (a : VArgs) (s : State) : Result := .next (vecLane1 Fp.sig core a s)
/-- VCMP. -/
def execVcmp (core : Nat) (a : VArgs) (s : State) : Result := .next (vecCmp core a s)
/-- VSEL. -/
def execVsel (core : Nat) (a : VArgs) (s : State) : Result := .next (vecSel core a s)
/-- VMOV. -/
def execVmov (core : Nat) (a : VArgs) (s : State) : Result := .next (vecMov core a s)
/-- VBCAST. -/
def execVbcast (core : Nat) (a : VArgs) (s : State) : Result := .next (vecBcast core a s)
/-- VLANE. -/
def execVlane (core : Nat) (a : VArgs) (s : State) : Result := .next (vecLaneIdx core a s)
/-- VRED (R83). -/
def execVred (core : Nat) (a : VArgs) (s : State) : Result := .next (vecRed core a s)
/-- VCOMB (R83). -/
def execVcomb (core : Nat) (a : VArgs) (s : State) : Result := .next (vecComb core a s)
/-- VPASS (R83). -/
def execVpass (core : Nat) (a : VArgs) (s : State) : Result := .next (vecPass core a s)
/-- VTAG (R83). -/
def execVtag (core : Nat) (a : VArgs) (s : State) : Result := .next (vecTag core a s)
/-- VSEND (R83). -/
def execVsend (core : Nat) (a : VArgs) (s : State) : Result := .next (vecSend core a s)
/-- VRECV (R83). -/
def execVrecv (core : Nat) (a : VArgs) (s : State) : Result := .next (vecRecv core a s)
/-- VRNG (R85). -/
def execVrng (core : Nat) (a : VArgs) (s : State) : Result := .next (vecRng core a s)
/-- VDROP (R86). -/
def execVdrop (core : Nat) (a : VArgs) (s : State) : Result := .next (vecDrop core a s)
/-- VUNI. -/
def execVuni (core : Nat) (a : VArgs) (s : State) : Result := .next (vecLane1 vecUni core a s)
/-- SLI. -/
def execSli (core : Nat) (a : VArgs) (s : State) : Result := .next (vecScalar (fun _ => immSigned a) core a s)
/-- SLIH. -/
def execSlih (core : Nat) (a : VArgs) (s : State) : Result := .next (vecScalar (slihWord a.imm) core a s)
/-- SADD. -/
def execSadd (core : Nat) (a : VArgs) (s : State) : Result := .next (vecScalar (fun x => x + immSigned a) core a s)
/-- LOOP. -/
def execLoop (core : Nat) (a : VArgs) (s : State) : Result := .next (vecLoop core a s)
/-- END. -/
def execEndProgram (core : Nat) (_a : VArgs) (s : State) : Result := .next (vecEnd core s)

end Sys2Proof.Machine
end

