-- ==== Sys2Proof/Machine/FrontEnd.lean ====
section
/-! DEFINITION. The queue front end: fetch of ring commands, the start of a command with all its checks, commit, and the
commands that the front end runs itself (R101 to R129, R153, R159). Log entries are notes/assumptions/<n>.md. -/

namespace Sys2Proof.Machine

open Sys2Proof

/-! ## Fetch of ring commands (R101, R107, R108) -/

/-- Records that a header's opcode takes. -/
def recordCount (head : List Byte) : Nat := if opTwo (rOp head) then 2 else 1

/-- Records that the host has written and the front end has not fetched. -/
def recordsWaiting (Q : Queue) : Nat := (Q.tail + 2 ^ 32 - Q.head) % 2 ^ 32

/-- A commit window is open after the last fetched command: a command with HOLD that no later COMMIT follows. -/
def windowAtTail (Q : Queue) : Bool :=
  (Q.runs ++ Q.cmds).any fun c => rHold c.bytes && c.op ≠ 6 && !(Q.cmds.any fun d => d.op = 6 && c.uid < d.uid)

/-- The module's partition holds a core. -/
def corePart (s : State) (part core : Nat) : Bool := bit (dnum s (0x4000 + part) 1) core

/-- The operation suits the object's type (R268). -/
def suits (op type : Nat) : Bool :=
  match op with
  | 1 => type = 1
  | 2 => type = 1
  | 3 => type = 2
  | 4 => type = 2
  | 5 => type = 2
  | 6 => type = 3
  | 7 => type = 3
  | 8 => type = 4
  | _ => true

/-- A SYNC's fields: lock operations and a barrier arrive carry VALUE 0, a launch OBJ 0 (R273, R275, R283). -/
def syncFieldsOk (r : List Byte) : Bool :=
  syncOk r && (!([6, 7, 8].contains (yOp r)) || yValue r = 0) && (yOp r ≠ 9 || field r 20 4 = 0)

/-- What the fetch of a ring SYNC answers (R268, R276, R277); 0 for none. -/
def ringSyncStatus (s : State) (Q : Queue) (r : List Byte) : Status :=
  let J := Q.job.bind (jobAt s)
  if !syncFieldsOk r || (J.elim 1 Job.modules) ≤ yModule r then 0x0301
  else if !isSignal (yOp r) && (windowAtTail Q || rHold r) then 0x0503
  else if yOp r = 9 then 0
  else if yModule r ≠ J.elim 0 Job.moduleIdx then 0x0507
  else
    match syncAt s (yObj r) with
    | none => 0x050B
    | some o => if some o.job ≠ Q.job then 0x050B else if suits (yOp r) o.type then 0 else 0x0301

/-- The status with which a ring record fails at fetch; 0 for none. The order is that of the admission checks (log entry
23). -/
def fetchStatus (s : State) (Q : Queue) (r : List Byte) : Status :=
  if Q.quarantined then 0x0213
  else if opKnown (rOp r) && !reservedOk r then 0x0302
  else if !opRing (rOp r) then 0x0303
  else if rExt r then 0x0301
  else if rSeq r ≠ Q.expected then 0x030E
  else if !fieldsOk r then 0x0301
  else if rOp r = 9 && !allocSizeOk r then 0x0203
  else if rOp r = 4 && !corePart s Q.part (rCore r) then 0x030F
  else if rOp r = 5 then ringSyncStatus s Q r
  else 0

/-- The west interface has not answered yet after a failover, so no record is read from host memory (R344). -/
def fetchPaused (s : State) (Q : Queue) : Bool := !Q.ringHbm && decide (s.now < s.host.pausedTo)

/-- The front end may fetch the next ring command: the queue runs, no stream runs, its records lie before TAIL. A stream
whose last command leaves a commit window open has ended once its commands have all finished (R101, R107). -/
def mayFetch (Q : Queue) (n : Nat) : Bool :=
  (!Q.stopped || Q.quarantined) && n ≤ recordsWaiting Q
    && (Q.running.isNone || (windowAtTail Q && Q.cmds.all Cmd.done)) && !(Q.cmds.any fun c => c.op = 11)

/-! ### Grants (R312, R320) -/

/-- A command that needs the cores of the queue's job: a stream command, or the RUN that starts a stream (R312). -/
def needsGrant (c : Cmd) : Bool := c.stream.isSome || c.op = 11

/-- The queue's job holds its cores. -/
def granted (s : State) (Q : Queue) : Bool :=
  match Q.job.bind (jobAt s) with
  | none => true
  | some J => J.grant = .holding || (J.grant = .yielding && !Q.held)

/-- The queue's job does not hold its cores: before its first grant, or while it is pre-empted (R320). -/
def lacksCores (s : State) (Q : Queue) : Bool :=
  (Q.job.bind (jobAt s)).any fun J => J.grant = .waiting || J.grant = .saving || J.grant = .zeroing || Q.held

/-- A queue whose next command has been fetched and needs cores that its job does not hold is waiting from this beat on
(R320). -/
def noteWaiting (s : State) (q : Nat) : State :=
  match queueAt s q with
  | none => s
  | some Q =>
    if lacksCores s Q && (Q.cmds.find? fun c => c.state = .fetched).any needsGrant then
      updQueue s q fun Q => { Q with waitingSince := some (Q.waitingSince.getD s.now) }
    else s

/-- A command joins its queue, and the core that it targets is woken (R377). -/
def enqueue (s : State) (q : Nat) (c : Cmd) : State :=
  let s := { updQueue s q fun Q => { Q with cmds := Q.cmds ++ [c] } with uid := s.uid + 1 }
  noteWaiting (if opEngine c.op then requestWake s c.core else s) q

/-- The record in slot count mod SLOTS of a ring in HBM (R107). -/
def ringSlot (s : State) (Q : Queue) (count : Nat) : List Byte :=
  hbmRead s Q.part (Q.ringBase + 64 * (count % Q.slots)) 64

/-- The records of the next ring command: from the ring's slots where it lies in HBM, else what the read of host memory
returned. -/
def fetchedRecords (s : State) (Q : Queue) (records : List Byte) : List Byte :=
  if Q.ringHbm then ringSlot s Q Q.head ++ ringSlot s Q (Q.head + 1) else records

/-- The next ring command is read: HEAD advances, and the record becomes a command or fails. `records` is what a read of
host memory returned; it is journaled in the Record stop, and in replay it may be held. -/
def ringFetch (s : State) (q : Nat) (records : List Byte) : State :=
  match queueAt s q with
  | none => s
  | some Q =>
    let records := fetchedRecords s Q records
    let n := recordCount records
    let r := slice records 0 (64 * n)
    if !mayFetch Q n || inReset s Q.fn || fetchPaused s Q then s
    else
      let s := if Q.ringHbm then s
        else journal s 2 (moduleOf s q) q 0 (Q.ringBase + 64 * (Q.head % Q.slots)) r
      let st := fetchStatus s Q r
      let c : Cmd := { uid := s.uid, bytes := r, fetchedAt := s.now }
      let s := updQueue s q fun Q => { Q with head := (Q.head + n) % 2 ^ 32, expected := (Q.expected + 1) % 2 ^ 32 }
      if st ≠ 0 then
        fail { updQueue s q fun Q => { Q with cmds := Q.cmds ++ [c] } with uid := s.uid + 1 } q c.uid st
      else enqueue s q c

/-- The fetch as an external input: held in replay until its recorded beat (R291). -/
def ringFetchInput (s : State) (q : Nat) (records : List Byte) : State :=
  match queueAt s q with
  | none => s
  | some Q =>
    if Q.ringHbm || !mayFetch Q (recordCount records) || inReset s Q.fn || fetchPaused s Q then ringFetch s q records
    else
      match Q.job with
      | none => ringFetch s q records
      | some j =>
        match replayInput s j 2 q 0 (slice records 0 (64 * recordCount records)) with
        | (s, none) => ringFetch s q records
        | (s, some due) => holdInput s j due (.ringCommandFetch q records)

/-! ## Handles at a start (R122, R153) -/

/-- The buffer index that an incoming base handle names, one generation ahead of the resident one (R187). -/
def incomingHandle (s : State) (part h : Nat) : Bool :=
  (partAt s part).baseJob.any fun b => b.replace
    && ((b.tensors.drop b.next).any fun t => t.index = hIndex h && b.swapping ≠ some t.layer)
    && (bufAt s part h).any fun x => x.base && hGen h = x.gen + 1

/-- A base handle whose layer is being written (R188). -/
def layerBusy (s : State) (part h : Nat) : Bool :=
  (partAt s part).baseJob.any fun b => b.replace && b.swapping.any fun l =>
    (partAt s part).tensors.any fun t => t.layer = l && t.index = hIndex h && (bufAt s part h).any Buf.base

/-- The index has held a buffer. -/
def everHeld (s : State) (part h : Nat) : Bool := hIndex h ≠ 0 && (FMap.get? s.index (bufKey part (hIndex h))).any IndexState.ever

/-- The handle names the live buffer of its index. -/
def liveHandle (s : State) (part h : Nat) : Bool := (bufAt s part h).any (fun b => b.gen = hGen h) || incomingHandle s part h

/-- A queue may name a buffer: its job's, one it allocated, or a base buffer of the partition (R121, R122, R182). -/
def mayName (q : Nat) (Q : Queue) (b : Buf) : Bool := b.base || b.ownerQ = some q || (Q.job.isSome && b.job = Q.job)

/-- The first three conditions of R122 over a list of handles; 0 where all hold (R122). -/
def handleStatus (s : State) (q : Nat) (Q : Queue) (hs : List Nat) : Status :=
  if !hs.all (everHeld s Q.part) then 0x0201
  else if !hs.all (liveHandle s Q.part) then 0x0212
  else if !hs.all (fun h => (bufAt s Q.part h).all (mayName q Q)) then 0x0211
  else 0

/-- The tier and core that a field may name (Table 6.4, R113, R182). -/
def tierOk (r : List Byte) (ring : Bool) (o : Nat) (b : Buf) : Bool :=
  let own := b.tier = 0 && b.core = rCore r
  let written := (writeFields r).contains o
  (!b.base || !written) &&
  match rOp r with
  | 1 => own || b.tier = 1
  | 2 => own && (o ≠ 16 || b.cls = 4)
  | 3 => if o = 36 then b.tier = 1 && b.cls = 3 else own || b.tier = 1
  | 4 => b.tier ≠ 0 || !ring
  | 7 => if o = 36 || o = 40 || o = 44 then own else b.tier ≠ 0
  | 13 => b.tier = 1
  | _ => true

/-- The greatest rank over the covered lane groups. -/
def coveredRank (s : State) (r : List Byte) : Nat :=
  maxOf ((covered r).map fun g => ((FMap.get? s.ctxs (laneCtx r g)).map Ctx.rank).getD 0)

/-- Output features of the final reductions of an ARRAY. -/
def finalFeats (r : List Byte) : Nat := (((List.range (aReds r)).filter (aFinal r)).map (aFeat r)).sum

/-- Bytes of an accumulator: its header and its elements (R122, R224). -/
def accReach (h : List Byte) : Nat := 64 + 8 * (hRows h * hCols h)

/-- Bytes that a command's fields and shapes reach in the buffer of a field (R122). `head` is what the command reads at the
start of that buffer; `acc` tells that DST of a MOVE is an accumulator. -/
def reachOf (s : State) (r : List Byte) (acc : Bool) (head : Nat → List Byte) (o : Nat) : Nat :=
  match rOp r with
  | 1 =>
    if o = 16 then (if aZeroK r then 0 else 65536 * (4 * (aRed r - 1) + ceilDiv (aLastKb r) 128))
    else if o = 20 then 66560 * aTiles r
    else if o = 24 then featBytes r * finalFeats r
    else if o = 28 then 4096 * maxOf ((List.range (aReds r)).map (aFeat r))
    else if o = 32 then 4 * aFeats r
    else 512 * coveredRank s r
  | 3 =>
    let kind := field r 16 1
    let rank := coveredRank s r
    if o = 20 then 512 * field r 40 4
    else if o = 24 then 512 * (if kind = 3 then rank else field r 44 4)
    else if o = 36 then accReach (head o)
    else 512 * rank
  | 4 =>
    if o = 20 then mSrcOff r + (mRows r - 1) * mSrcStride r + mLength r
    else max (mDstOff r + (mRows r - 1) * mDstStride r + mLength r)
      (if field r 16 1 = 1 && acc then accReach (head o) else 0)
  | 7 =>
    let e := wElems r
    if o = 16 then 4 * e
    else if o = 20 then e
    else if o = 24 then 68 * ceilDiv e 64
    else if o = 28 then (if rH r 44 = 0 then 4 * e else 4 * (wRows r + wCols r + 1))
    else if o = 32 then roundUp e 65536 + 4 * wRows r
    else if o = 36 then 64
    else if o = 60 then 4 * (wRows r + wCols r)
    else 16 + 4 * iLen (head o)
  | 13 => 4 * field r 20 4
  | _ => 0

/-- The handle fields of a record that name a buffer of this module which the command itself reads or writes, as offset
and handle. `startHandles` checks those of FREE and RUN. -/
def localFields (r : List Byte) : List (Nat × Nat) :=
  if rOp r = 10 || rOp r = 11 then []
  else ((handleFields r).map fun o => (o, rH r o)).filter fun p =>
    p.2 ≠ 0 && !(rOp r = 4 && ((p.1 = 20 && mSrcModule r ≠ 0) || (p.1 = 24 && mDstModule r ≠ 0)))

/-- A remote reference that R332 refuses. -/
def remoteBad (J : Option Job) (r : List Byte) : Bool :=
  rOp r = 4 && (mSrcModule r ≠ 0 || mDstModule r ≠ 0) &&
    match J with
    | none => true
    | some J =>
      (mSrcModule r ≠ 0 && mDstModule r ≠ 0)
        || J.modules < max (mSrcModule r) (mDstModule r)
        || !J.bufs.contains (if mSrcModule r ≠ 0 then mSrc r else mDst r)

/-- The route of a remote MOVE or of a remote signal is broken at its start (R331). -/
def routeDown (s : State) (J : Option Job) (Q : Queue) (c : Cmd) : Bool :=
  let r := c.bytes
  if rOp r = 4 && (mSrcModule r ≠ 0 || mDstModule r ≠ 0) then
    J.any fun J => routeBroken s (jobModule s J (max (mSrcModule r) (mDstModule r) - 1))
  else (remoteJob s Q c).any fun J => routeBroken s (jobModule s J (yModule r))

/-- An offset that names this module by its own index names it as 0 does. -/
def localize (J : Option Job) (r : List Byte) : List Byte :=
  match J with
  | none => r
  | some J =>
    if rOp r ≠ 4 then r
    else
      let own := J.moduleIdx + 1
      let r := if mSrcModule r = own then patch r 28 (toLe 8 (mSrcOff r)) else r
      if mDstModule r = own then patch r 36 (toLe 8 (mDstOff r)) else r

/-! ## Accesses at a start (R16, R162) -/

/-- The command reads the buffer of a field: every field that it does not write, and those whose old contents it needs: the
carry buffer, accumulators, the arrays that a sweep updates. -/
def readsField (r : List Byte) (o : Nat) : Bool :=
  !(writeFields r).contains o ||
  match rOp r with
  | 1 => o = 28
  | 3 => o = 36
  | 4 => field r 16 1 = 1
  | 7 => o = 16 || o = 24 || o = 28
  | _ => false

/-- The accesses of a command to the buffers of its fields, over the bytes that its fields reach. `use` is the fields that
it reads and those that it writes; a VECTOR reaches the whole buffer. -/
def accessesOf (s : State) (part : Nat) (r : List Byte) (acc : Bool) (head : Nat → List Byte) (use : List Nat × List Nat)
    (fs : List (Nat × Nat)) : List Access :=
  fs.map fun p =>
    { key := bufKey part (hIndex p.2)
      lo := if rOp r = 4 then (if p.1 = 20 then mSrcOff r else mDstOff r) else 0
      hi := if rOp r = 2 then bufSize s part p.2 else reachOf s r acc head p.1
      reads := use.1.contains p.1
      writes := use.2.contains p.1 }

/-! ## Start (R102, R122) -/

/-- The buffers that a command's start waits for: a tiered object that is promoting or being copied home, or a base layer
that is being written. The wait's class and cause (R159, R161, R187). -/
def startWait (s : State) (part : Nat) (fs : List (Nat × Nat)) : Option (Nat × Nat) :=
  fs.findSome? fun p =>
    match FMap.get? s.tiered (bufKey part (hIndex p.2)) with
    | some t =>
      if t.state = .promoting then some (t.objClass, 1)
      else if t.state = .evicting && t.copying then some (t.objClass, 2)
      else none
    | none => if incomingHandle s part p.2 || layerBusy s part p.2 then some (1, 6) else none

/-- Started and uncommitted commands outside every open window. The RUN whose stream is under way is not among them (DESIGN
CHOICE: the manual does not say whether it counts; log entry 128). -/
def startedOutside (Q : Queue) : Nat := (Q.cmds.filter fun c => c.state ≠ .fetched && !inWindow Q c && !c.failed).length

/-- An earlier command holds back every later one: a SYNC outside a window, a STEP, a RUN that has not run, a YIELD, at
which nothing may have to be killed (R101, R133, R220, R270; log entry 27). -/
def fence (Q : Queue) (c : Cmd) : Bool :=
  Q.cmds.any fun d => d.uid < c.uid && ((d.op = 5 && !inWindow Q d) || d.op = 8 || d.op = 13 || d.op = 11 || d.failed)

/-- The core that a command targets is on, clocked and not being zeroed. -/
def coreReady (s : State) (c : Cmd) : Bool :=
  let k := coreAt s c.core
  let cl := clusterAt s (c.core / 4)
  !opEngine c.op || (k.power = .on && !k.zeroing && !cl.brownedOut) || !k.inService || !cl.inService

/-- The queue's first fetched command, where nothing holds its start back. Once a queue is stopped none starts, also none
that precedes a ring command which has failed at fetch (DESIGN CHOICE: the manual states it of later commands only; log entry
129). -/
def nextStart (s : State) (q : Nat) : Option (Queue × Cmd) :=
  match queueAt s q with
  | none => none
  | some Q =>
    match Q.cmds.find? fun c => c.state = .fetched with
    | none => none
    | some c =>
      let windowed := inWindow Q c || (rHold c.bytes && c.op ≠ 6)
      if Q.stopped || fence Q c || (!windowed && 16 ≤ startedOutside Q) then none else some (Q, c)

/-- The header of an accumulator as a contribution will meet it: ARRIVED counts the earlier contributions of its queue that
have not committed (R225). -/
def accHeader (s : State) (Q : Queue) (c : Cmd) (ver : Nat) : List Byte :=
  let h := (overlayWrites (committed s (verBuf ver)) ver (visibleWrites Q c.uid)).read 0 64
  let ahead := (Q.cmds.filter fun d => d.uid < c.uid && !d.done && (accField d).any fun x => hVer Q.part x = ver).length
  patch h 56 (toLe 4 (hArrived h + ahead))

/-- The gradient buffer behind a header, where it is live and the job's. -/
def gradientBuf (s : State) (q : Nat) (Q : Queue) (h : List Byte) : Option Buf :=
  if !liveHandle s Q.part (hG h) then none
  else (bufAt s Q.part (hG h)).filter fun b => !b.base && mayName q Q b

/-- The shape that R114 gives a REED contribution. -/
def gradientShape (s : State) (r : List Byte) : Option (Nat × Nat) :=
  match covered r with
  | [] => none
  | g :: _ =>
    (FMap.get? s.ctxs (laneCtx r g)).bind fun x => (ctxTarget x (rLayer r)).map fun t =>
      if field r 16 1 = 1 then (t.nf, x.rank) else (x.rank, t.k)

/-- A contribution brings ARRIVED to EXPECTED, so its command converts (R227). -/
def completesAcc (h : List Byte) : Bool := hArrived h + 1 = hExpected h

/-- The status of an accumulator at a start; 0 for none. A conversion into the core store is a handle in a tier that Table
6.4 forbids (R153, R225). -/
def accStatus (s : State) (q : Nat) (Q : Queue) (c : Cmd) : Status :=
  match accOf s Q c with
  | none => 0
  | some ver =>
    match Q.job.bind (jobAt s) with
    | none => 0x0403
    | some J =>
      let h := accHeader s Q c ver
      let g := gradientBuf s q Q h
      let shape := if c.op = 3 then gradientShape s c.bytes else none
      if completesAcc h && g.any (fun b => b.tier = 0) then 0x0204
      else if accStart J h ((g.filter fun b => b.tier ≠ 0).map Buf.size) shape then 0
      else 0x0403

/-- The gradient buffer that a contribution converts into, by handle, with the bytes that it writes (R227). -/
def convertsInto (s : State) (Q : Queue) (c : Cmd) : Option (Nat × Nat) :=
  (accOf s Q c).bind fun ver =>
    let h := accHeader s Q c ver
    if completesAcc h then some (hG h, hRows h * hCols h) else none

/-- The handles whose objects a command's start waits for: those of its fields, and the gradient buffer that it converts into
(R154, R159). -/
def waitFields (s : State) (Q : Queue) (c : Cmd) : List (Nat × Nat) :=
  localFields c.bytes ++ ((convertsInto s Q c).map fun g => (0, g.1)).toList

/-- Buffers of the train contexts that a command's lane groups name, by version (R210). -/
def trainBuffers (s : State) (part : Nat) (r : List Byte) : List Nat :=
  (covered r).flatMap fun g =>
    match FMap.get? s.ctxs (laneCtx r g) with
    | none => []
    | some x => if x.serve then []
        else (x.targets.filter fun t => t.layer = rLayer r).flatMap fun t => [hVer part t.wqA, hVer part t.wqB]

/-- A program image that a VECTOR names, as the command sees it. -/
def programAt (s : State) (Q : Queue) (c : Cmd) (h n : Nat) : List Byte :=
  let ver := hVer Q.part h
  (overlayWrites (committed s (verBuf ver)) ver (visibleWrites Q c.uid)).read 0 (min n (bufSize s Q.part h))

/-- The checks of programs and images at a start (R78, R93). -/
def programStatus (s : State) (Q : Queue) (c : Cmd) : Status :=
  let r := c.bytes
  if c.op = 2 then (if vecProgOk (programAt s Q c (rH r 16) 32768) then 0 else 0x0E01)
  else if c.op = 7 then
    let e := slice (programAt s Q c (rH r 40) imageBytes) 0 imageBytes
    let v := if rH r 44 = 0 then none else some (slice (programAt s Q c (rH r 44) imageBytes) 0 imageBytes)
    if sweepImagesOk e v (rH r 32) then 0 else 0x0E41
  else 0

/-- The handle fields whose buffers a command will read, and those whose buffers it will write: a VECTOR's are those that
its program loads from and stores to. -/
def fieldUse (s : State) (Q : Queue) (c : Cmd) : List Nat × List Nat :=
  if c.op = 2 then
    let p := programFields (some (programAt s Q c (rH c.bytes 16) 32768))
    (16 :: p.1, p.2)
  else ((handleFields c.bytes).filter (readsField c.bytes), writeFields c.bytes)

/-- The buffers that a command will write, by version. -/
def writeVers (s : State) (Q : Queue) (c : Cmd) : List Nat :=
  let own := (localFields c.bytes).filterMap fun p =>
    if (fieldUse s Q c).2.contains p.1 then some (hVer Q.part p.2) else none
  own ++ ((convertsInto s Q c).map fun g => hVer Q.part g.1).toList

/-- Another queue, or another module of the job, holds uncommitted staging for one of the buffers (R129). -/
def writeConflict (s : State) (q : Nat) (vers : List Nat) : Bool :=
  (s.queues.any fun e => e.1 ≠ q && e.2.cmds.any fun d => d.state ≠ .fetched && d.writes.any vers.contains)
    || s.win.staged.any fun x => (x.writes ++ x.adds).any fun w => vers.contains w.buf

/-! ### FREE and RUN (R122, R136) -/

/-- The status of a FREE's handle (R122, R123, R182). -/
def freeCheck (s : State) (q : Nat) (Q : Queue) (h : Nat) : Status :=
  if !everHeld s Q.part h then 0x0201
  else
    match bufAt s Q.part h with
    | none => 0x0212
    | some b => if b.gen ≠ hGen h then 0x0212 else if b.base || b.ownerQ ≠ some q then 0x0211 else 0

/-- ARG of a parameter slot. -/
def runArg (r : List Byte) (p : Nat) : Nat := rH r (24 + 4 * p)

/-- A stream's record with the RUN's arguments and SEQ bound into it (R108, R136). -/
def bindRecord (st : Stream) (run : List Byte) (i : Nat) (r : List Byte) : List Byte :=
  (st.binds.filter fun b => b.1 = i).foldl (fun r b => patch r b.2.1 (toLe 4 (runArg run b.2.2))) (patch r 4 (toLe 4 (rSeq run)))

/-- The stream that a RUN names, where the queue's role runs it. -/
def runStream (s : State) (q : Nat) (Q : Queue) (c : Cmd) : Option Stream :=
  (Q.job.bind (jobAt s)).bind fun J => (J.streams[field c.bytes 16 4]?).filter fun st => J.roles[st.role]? = some q

/-- The arguments that a RUN binds. -/
def runArgs (st : Stream) (r : List Byte) : List Nat := (List.range st.params).map (runArg r)

/-- Every argument lies in a tier and class that the fields bound to its slot allow; none lies in the core store (Table 5.13,
R122, R136). -/
def runTiersOk (s : State) (Q : Queue) (st : Stream) (run : List Byte) : Bool :=
  !((runArgs st run).any fun h => (bufAt s Q.part h).any fun b => b.tier = 0)
    && st.binds.all fun b => (bufAt s Q.part (runArg run b.2.2)).all
        (tierOk (bindRecord st run b.1 (st.cmds.getD b.1 [])) false b.2.1)

/-- The status of a RUN; 0 where its stream may start. A stream that the job lacks or that another role runs, an argument of
0, and a RUN on a queue without a job answer 0x0309, as admission's check of references does (DESIGN CHOICE: the manual gives
no code for them; log entry 130). -/
def runStatus (s : State) (q : Nat) (Q : Queue) (c : Cmd) : Status :=
  match runStream s q Q c with
  | none => 0x0309
  | some st =>
    let args := runArgs st c.bytes
    if args.contains 0 then 0x0309
    else if handleStatus s q Q args ≠ 0 then handleStatus s q Q args
    else if !runTiersOk s Q st c.bytes then 0x0204
    else 0

/-- What the handles of a FREE or a RUN answer at its start; 0 for another command. -/
def startHandles (s : State) (q : Nat) (Q : Queue) (c : Cmd) : Status :=
  if c.op = 10 then freeCheck s q Q (rH c.bytes 16) else if c.op = 11 then runStatus s q Q c else 0

/-- The buffers, by version, that a RUN's arguments hold until it commits (R124). -/
def runUses (s : State) (q : Nat) (Q : Queue) (c : Cmd) : List Nat :=
  if c.op = 11 then ((runStream s q Q c).elim [] fun st => runArgs st c.bytes).map (hVer Q.part) else []

/-- What the paths of a command's transfers answer: 0x0B03, 0x0685, or 0 (R18, R162). -/
def pathsOf (s : State) (Q : Queue) (c : Cmd) : Status :=
  let acc := c.op = 4 && (accOf s Q c).isSome
  let head (o : Nat) : List Byte := programAt s Q c (rH c.bytes o) 64
  pathStatus s Q.part c.core (accessesOf s Q.part c.bytes acc head (fieldUse s Q c) (localFields c.bytes) ++
    ((convertsInto s Q c).map fun g => (⟨bufKey Q.part (hIndex g.1), 0, g.2, false, true⟩ : Access)).toList)

/-- Every check of a command at its start, in order; 0 where it may start. -/
def startStatus (s : State) (q : Nat) (Q : Queue) (c : Cmd) : Status :=
  let r := c.bytes
  let fs := localFields r
  let hs := fs.map Prod.snd
  let J := Q.job.bind (jobAt s)
  let head (o : Nat) : List Byte := programAt s Q c (rH r o) 64
  let hst := handleStatus s q Q hs
  let acc := c.op = 4 && (accOf s Q c).isSome
  if opEngine c.op && !((coreAt s c.core).inService && (clusterAt s (c.core / 4)).inService) then 0x0B02
  else if remoteBad J r then 0x0A02
  else if routeDown s J Q c then 0x0A01
  else if (c.op = 9 || c.op = 10) && (inWindow Q c || rHold r) then 0x0205
  else if c.op = 5 && !isSignal (yOp r) && (inWindow Q c || rHold r) then 0x0503
  else if startHandles s q Q c ≠ 0 then startHandles s q Q c
  else if hst ≠ 0 then hst
  else if !fs.all (fun p => (bufAt s Q.part p.2).all (tierOk r c.stream.isNone p.1)) then 0x0204
  else if !fs.all (fun p => reachOf s r acc head p.1 ≤ bufSize s Q.part p.2) then 0x0206
  else if c.op = 2 && !(fs.all fun p => p.1 = 16 || bufSize s Q.part p.2 ≤ 2 ^ 23) then 0x0301
  else if opEngine c.op && pathsOf s Q c ≠ 0 then pathsOf s Q c
  else if c.op = 7 && Q.steps = 0 then 0x0405
  else if programStatus s Q c ≠ 0 then programStatus s Q c
  else if (c.op = 1 || c.op = 3) && reedStart s (Q.job.getD (2 ^ 64)) r ≠ 0 then reedStart s (Q.job.getD (2 ^ 64)) r
  else if accStatus s q Q c ≠ 0 then accStatus s q Q c
  else if writeConflict s q (writeVers s Q c) then 0x030B
  else 0

/-- An ARRAY's predecessor on its core: the ARRAY that started there last, while it runs (R71). -/
def arrayBefore (s : State) (c : Cmd) : Option Cmd :=
  (coreAt s c.core).arrayLast.bind fun p => ((queueAt s p.1).bind (cmdAt · p.2)).filter fun d =>
    d.op = 1 && d.state = .started && d.uid ≠ c.uid

/-- An ARRAY chains with a predecessor whose last pass has at least 48 columns and has not issued its first column; K = 0 has
no pass to chain (R63, R71). -/
def chains (s : State) (c : Cmd) : Bool :=
  !aZeroK c.bytes && (arrayBefore s c).any fun d => !aZeroK d.bytes && 48 ≤ aCols d.bytes
    && !cyclePassed s d (issueCycle d.bytes d.chained (aPasses d.bytes - 1) 0)

/-- The idle cycles before an ARRAY's first column behind a predecessor whose last pass is short (R59, R71). -/
def leadOf (s : State) (c : Cmd) : Nat :=
  if aZeroK c.bytes then 0 else (arrayBefore s c).elim 0 fun d => if aZeroK d.bytes then 0 else 48 - aCols d.bytes

/-- The buffers, by version, that a command reads or writes: those of its fields, of its train contexts and of its
conversion. -/
def namedVers (s : State) (Q : Queue) (c : Cmd) : List Nat :=
  (((localFields c.bytes).map fun p => hVer Q.part p.2) ++ trainBuffers s Q.part c.bytes
    ++ ((convertsInto s Q c).map fun g => hVer Q.part g.1).toList).filter fun v => (bufOfVer s v).isSome

/-- The command starts: its versions and views are taken, its requests go to the mover, the trace record is written. A HOLD
outside every open window opens one (R128). -/
def beginCmd (s : State) (q : Nat) (Q : Queue) (c : Cmd) : State :=
  let s := endStall s q Q.fn c
  let vers := namedVers s Q c
  let uses := vers ++ runUses s q Q c
  let writes := writeVers s Q c
  let views := vers.foldl (fun m v => FMap.set m v (committed s (verBuf v))) []
  let ctxs := if c.op = 1 || c.op = 3 then (covered c.bytes).map (laneCtx c.bytes) else []
  let c' : Cmd := { c with
    state := .started, startedAt := s.now, objectWait := false, uses, writes, views, ctxs
    chained := decide (c.op = 1) && chains s c, lead := if c.op = 1 then leadOf s c else 0 }
  let s := updCmd s q c.uid fun _ => c'
  let s := if c.op = 1 then updCore s c.core fun k => { k with arrayLast := some (q, c.uid) } else s
  let opens := rHold c.bytes && c.op ≠ 6 && !inWindow Q c
  let s := updQueue s q fun Q =>
    { (if opens then Q.withWindows (Q.window.toList ++ Q.laterWindows ++ [c.uid]) else Q) with waitingSince := none }
  let s := if opEngine c.op then useCluster s (c.core / 4) else s
  let s := trace s 1 (traceSource s c) q c.seq (c.stream.getD 0) 0
  match queueAt s q with
  | none => s
  | some Q => openRequests s q Q c'

/-- A window takes at most 64 commands; its COMMIT is not one of them (R128). -/
def windowFull (Q : Queue) (c : Cmd) : Bool := inWindow Q c && 64 ≤ windowCount Q c

/-- A command fails at its start. A FREE whose status leaves the queue running stands finished with it (R104). -/
def failStart (s : State) (q : Nat) (c : Cmd) (st : Status) : State :=
  if c.op = 10 && freeStatus st then
    let s := finish (updCmd s q c.uid fun _ => { c with state := .started }) q c.uid st id
    if isOffence st then offence s q (some c.uid) else s
  else fail s q c.uid st

/-- COMMAND_START: the next command of the queue starts, waits, or fails before any side effect. -/
def commandStart (s : State) (q : Nat) : State :=
  match nextStart s q with
  | none => s
  | some (Q, c₀) =>
    let c := { c₀ with bytes := localize (Q.job.bind (jobAt s)) c₀.bytes }
    if needsGrant c && !granted s Q then noteWaiting s q
    else if !coreReady s c then s
    else if windowFull Q c then fail s q c.uid 0x0301
    else
      let st := startStatus s q Q c
      if st ≠ 0 then failStart s q c st
      else
        match startWait s Q.part (waitFields s Q c) with
        | some (cls, cause) =>
          updCmd s q c.uid fun d =>
            { d with objectWait := true, waitCode := 256 * cls + cause, waitSince := if d.objectWait then d.waitSince else s.now }
        | none => beginCmd s q Q c

/-! ## Commit (R103, R127) -/

/-- COMMAND_COMMIT: the oldest uncommitted command commits once it has finished; a window's commands wait for COMMIT. -/
def commandCommit (s : State) (q : Nat) : State :=
  match queueAt s q with
  | none => s
  | some Q =>
    match Q.cmds with
    | [] => s
    | c :: _ =>
      match c.state with
      | .finished st => if c.failed || !c.acked || s.now < c.heldTo || inWindow Q c || !mayCommit Q c then s else commitOne s q c st
      | _ => s

/-! ## Commands of the front end (R118, R119, R123, R133) -/

/-- The queue's oldest uncommitted command, if it has started and carries an opcode. -/
def oldestOf (s : State) (q op : Nat) : Option (Queue × Cmd) :=
  match queueAt s q with
  | none => none
  | some Q =>
    match Q.cmds with
    | [] => none
    | c :: _ => if c.op = op && c.state = .started && !inWindow Q c && mayCommit Q c then some (Q, c) else none

/-- NOP: commits at once; inside a window it holds for the COMMIT. -/
def runNop (s : State) (q : Nat) : State :=
  match oldestOf s q 15 with
  | some (_, c) => commitOne s q c 0
  | none =>
    match queueAt s q with
    | none => s
    | some Q =>
      match Q.cmds.find? fun c => c.op = 15 && c.state = .started && inWindow Q c with
      | none => s
      | some c => finish s q c.uid 0 id

/-- YIELD: commits with every earlier command committed; a queue of a yielding job holds there. -/
def runYield (s : State) (q : Nat) : State :=
  match oldestOf s q 8 with
  | none => s
  | some (_, c) => holdQueue (commitOne s q c 0) q

/-- The lowest free index of a partition's buffer table; retired indices are not free (R119, R123). -/
def lowestFree (s : State) (part : Nat) : Nat :=
  (s.index.filter fun e => keyPart e.1 = part && (e.2.live || e.2.retired)).foldl (fun n e => if e.1 % 2 ^ 20 = n then n + 1 else n) 1

/-- A buffer put at an index of a partition, at an address of a multiple of `align`, with its tiered-object record where it
lies in the capacity tier (R155). -/
def placeBuf (s : State) (part index align : Nat) (b : Buf) : State :=
  let key := bufKey part index
  let s := { s with
    fresh := s.fresh + 1
    bufs := FMap.set s.bufs key { b with addr := newAddr s part b.tier b.size align }
    index := FMap.set s.index key { gen := b.gen, ever := true, live := true, retired := false } }
  if b.tier = 2 then { s with tiered := FMap.set s.tiered key {} } else s

/-- The generation that a new buffer at an index takes. -/
def nextGen (s : State) (part index : Nat) : Nat := ((FMap.get? s.index (bufKey part index)).map IndexState.gen).getD 0

/-- ALLOC (R119, R165): the lowest free index, charged to the queue's function; the handle goes to RESULT. -/
def runAlloc (s : State) (q : Nat) : State :=
  match oldestOf s q 9 with
  | none => s
  | some (Q, c) =>
    let tier := field c.bytes 16 1
    let size := field c.bytes 20 8
    let i := lowestFree s Q.part
    if 2 ^ 20 ≤ i then fail s q c.uid 0x0202
    else if !mayCharge s Q.part Q.fn tier (charge64 size) then fail s q c.uid 0x0681
    else
      let b : Buf := { gen := nextGen s Q.part i, size, tier, cls := field c.bytes 17 1, ownerQ := some q, fn := Q.fn, job := Q.job }
      let s := charge (placeBuf s Q.part i (2 ^ field c.bytes 18 1) b) Q.part Q.fn tier (charge64 size)
      commitOne s q { c with result := mkHandle b.gen i } 0

/-- FREE: by the owner with the current generation the buffer is freed; a stale or foreign one leaves the queue running. -/
def runFree (s : State) (q : Nat) : State :=
  match oldestOf s q 10 with
  | none => s
  | some (Q, c) =>
    let h := rH c.bytes 16
    let st := freeCheck s q Q h
    if st = 0x0201 then fail s q c.uid st
    else if st ≠ 0 then
      let s := commitOne s q c st
      if st = 0x0211 then offence s q (some c.uid) else s
    else commitOne (freeBuf s (bufKey Q.part (hIndex h))) q c 0

/-! ## RUN (R101, R136) -/

/-- The stream's commands join the queue in order. -/
def streamCmds (s : State) (q : Nat) (st : Stream) (run : Cmd) : State :=
  (List.range st.cmds.length).foldl (fun s i =>
    enqueue s q { uid := s.uid, bytes := bindRecord st run.bytes i (st.cmds.getD i []), stream := some i, run := run.uid, fetchedAt := s.now }) s

/-- RUN: the arguments are bound and the stream starts; the first RUN of a job is its launch (R289). -/
def runRun (s : State) (q : Nat) : State :=
  match queueAt s q with
  | none => s
  | some Q =>
    match Q.cmds.find? fun c => c.op = 11 && c.state = .started with
    | none => s
    | some c =>
      let st := runStatus s q Q c
      if st ≠ 0 then fail s q c.uid st
      else
        match Q.job.bind fun j => (jobAt s j).map fun J => (j, J) with
        | none => s
        | some (j, J) =>
          let i := field c.bytes 16 4
          let s := if J.launched.isNone then journalLaunch s J else s
          let s := updJob s j fun J =>
            { J with launched := some (J.launched.getD s.now), ran := if J.ran.contains i then J.ran else J.ran ++ [i] }
          let s := updQueue s q fun Q =>
            { Q with
              earlierRuns := Q.runs
              running := some { c with startedAt := s.now }
              cmds := Q.cmds.filter fun d => d.uid ≠ c.uid }
          commitRun (streamCmds s q (J.streams.getD i { role := 0, params := 0, cmds := [] }) c) q

/-! ## Internal events of a beat (R468) -/

/-- A launch at count whose beat has come commits. -/
def dueLaunch (s : State) (q : Nat) : State :=
  if (queueAt s q).any fun Q => Q.cmds.any fun c => c.op = 5 && yOp c.bytes = 9 && c.waiting && yValue c.bytes ≤ s.now then
    launchBeat s q
  else s

/-- Each queue's launch that is due, and its oldest command where that has finished, commit. -/
def settleRound (s : State) : State := s.queues.foldl (fun s e => commandCommit (dueLaunch s e.1) e.1) s

/-- `n` such rounds. -/
def settleFor (n : Nat) (s : State) : State :=
  match n with
  | 0 => s
  | n + 1 => settleFor n (settleRound s)

/-- The internal events that are due in this beat, completed: every commit, with the sync-object changes and the releases of
storage that come with it. An external input is taken behind them (R468). -/
def settle (s : State) : State :=
  if droneOnly s then s else settleFor ((s.queues.map fun e => e.2.cmds.length).sum) s

/-! ## Meanings -/

/-- The next ring command is fetched (R107). -/
def execRingCommandFetch (q : Nat) (records : List Byte) (s : State) : Result := .next (ringFetchInput s q records)
/-- The next command starts (R122). -/
def execCommandStart (q : Nat) (s : State) : Result := .next (commandStart s q)
/-- The oldest finished command commits (R127). -/
def execCommandCommit (q : Nat) (s : State) : Result := .next (commandCommit s q)
/-- NOP (R118). -/
def execNop (q : Nat) (s : State) : Result := .next (runNop s q)
/-- YIELD (R133). -/
def execYield (q : Nat) (s : State) : Result := .next (runYield s q)
/-- ALLOC (R119). -/
def execAlloc (q : Nat) (s : State) : Result := .next (runAlloc s q)
/-- FREE (R123). -/
def execFree (q : Nat) (s : State) : Result := .next (runFree s q)
/-- RUN (R101). -/
def execRun (q : Nat) (s : State) : Result := .next (runRun s q)

end Sys2Proof.Machine
end

