-- ==== Sys2Proof/Machine/Mailbox.lean ====
section
/-! DEFINITION. Function mailboxes: the page, the doorbell, the request at the head, the written responses (R301 to R304).
Log entries are notes/assumptions/<n>.md. -/

namespace Sys2Proof.Machine

open Sys2Proof

/-! ## Functions -/

/-- The PF, or a VF that is assigned to a partition (R297). -/
def assigned (s : State) (fn : Nat) : Bool := fn = 0 || (fn ≤ 1024 && (fnPart s fn).isSome)

/-- The function's registers answer: it is usable, not in reset, and the module runs more than its drone domains. -/
def usable (s : State) (fn : Nat) : Bool := assigned s fn && !inReset s fn && !droneOnly s

/-- The host's BARs answer; after a failover the west interface does so 1,000 beats later, and what reaches the module before is
lost (R344). -/
def barsAnswer (s : State) : Bool := decide (s.host.pausedTo ≤ s.now)

/-! ## The page (R301) -/

/-- MBX_PAGE bit 0. -/
def Mailbox.enabled (m : Mailbox) : Bool := m.page.getLsbD 0

/-- The page address. -/
def Mailbox.base (m : Mailbox) : Nat := m.page.toNat / 4096 * 4096

/-- MBX_PAGE written: the frame and descriptor counts return to 0, and requests that stand in the old page are dropped
(log entry 30). -/
def pageWrite (s : State) (fn : Nat) (page : W64) (vector : BitVec 6) : State :=
  if !usable s fn || !barsAnswer s then s
  else updMbox s fn fun m =>
    { m with
      page := BitVec.ofNat 64 (page.toNat / 4096 * 4096 + page.toNat % 2)
      vector, fresh := true, seq := 0, posted := 0, consumed := 0, inbox := [], respWrite := 0, respRead := 0
      respFrame := 0, respFrames := [] }

/-! ## Requests (R302, R303) -/

/-- Fields of the mailbox doorbell word (Table 12.5): CLASS, FRAMES, FIRST, reserved, SEQ. -/
def mdClass (w : Nat) : Nat := bits w 63 56
/-- FRAMES. -/
def mdFrames (w : Nat) : Nat := bits w 55 48
/-- FIRST. -/
def mdFirst (w : Nat) : Nat := bits w 47 40
/-- SEQ. -/
def mdSeq (w : Nat) : Nat := bits w 31 0

/-- The conditions of R302. -/
def Mailbox.accepts (m : Mailbox) (w : Nat) (wellSized : Bool) : Bool :=
  wellSized && bits w 39 32 = 0 && mdSeq w = (if m.fresh then 0 else (m.seq + 1) % 2 ^ 32)
    && mdFirst w = m.posted % 32 && 1 ≤ mdFrames w && mdFrames w ≤ 31
    && (m.posted + mdFrames w + 2 ^ 32 - m.consumed) % 2 ^ 32 ≤ 32

/-- Frames of a message of a class, by its bytes (Table 12.6); none outside the table. -/
def messageFrames (cls : Nat) (b : List Byte) : Option Nat :=
  match cls with
  | 1 => some 2
  | 2 => some (ceilDiv (128 + 2 * field b 2 2) 64)
  | 3 => some 1
  | 4 => some (if field b 0 1 = 8 then 6 else 1)
  | 5 => some 1
  | _ => none

/-- TAG of a message. -/
def messageTag (cls : Nat) (b : List Byte) : Nat :=
  match cls with
  | 3 => field b 16 4
  | 4 => if field b 0 1 = 8 then field b 240 4 else field b 24 4
  | 5 => field b 32 4
  | _ => field b 4 4

/-- Reserved bytes of a message, as offset and length. -/
def messageReserved (cls : Nat) : List (Nat × Nat) :=
  match cls with
  | 1 => [(3, 1), (10, 54)]
  | 2 => [(68, 60)]
  | 3 => [(2, 2), (10, 6), (20, 12)]
  | 5 => [(2, 6), (36, 28)]
  | _ => []

/-- Queue numbers of a message keep their reserved bits [15:13] at 0. -/
def messageQueuesOk (cls : Nat) (b : List Byte) : Bool :=
  match cls with
  | 1 => field b 8 2 < 8192
  | 2 => field b 0 1 ≠ 1 || (List.range (field b 2 2)).all fun i => field b (128 + 2 * i) 2 < 8192
  | 3 => field b 8 2 < 8192
  | _ => true

/-- Operations of a class. -/
def messageOps (cls : Nat) : Nat :=
  match cls with
  | 1 => 5
  | 2 => 2
  | 3 => 4
  | 4 => 9
  | _ => 3

/-- The status with which a message is refused before its request runs; 0 for none (R8, R303). The fields of a class 4
message are checked by its request. -/
def messageStatus (fn : Nat) (m : MboxMsg) : Status :=
  let op := field m.bytes 0 1
  if messageFrames m.cls m.bytes ≠ some m.frames then 0x0807
  else if m.cls = 5 && fn ≠ 0 then 0x0808
  else if !((messageReserved m.cls).all fun p => allZero (slice m.bytes p.1 p.2)) || !messageQueuesOk m.cls m.bytes then 0x0807
  else if op = 0 || messageOps m.cls < op then 0x0301
  else 0

/-- A base load completion (Table 7.9). -/
def baseBytes (s : State) (tag status failed : Nat) (digest : List Byte) : List Byte :=
  toLe 4 tag ++ toLe 2 status ++ zeros 2 ++ toLe 8 failed ++ toLe 8 s.now ++ slice digest 0 48

/-- The response to a message that carries only a status. -/
def statusBytes (s : State) (m : MboxMsg) (st : Status) : List Byte :=
  let tag := messageTag m.cls m.bytes
  match m.cls with
  | 3 => placementBytes s.now tag st m.arrived 0
  | 5 => baseBytes s tag st 0 []
  | _ => response32 s tag st 0

/-- A message is answered with a status and a RESULT. -/
def answer (s : State) (fn : Nat) (m : MboxMsg) (st : Status) (result : Nat) : State :=
  if m.cls = 3 || m.cls = 5 then respond s fn m.cls m.seq (statusBytes s m st)
  else respond s fn m.cls m.seq (response32 s (messageTag m.cls m.bytes) st result)

/-- The message at the head leaves the page. -/
def popMessage (s : State) (fn : Nat) (m : MboxMsg) : State :=
  updMbox s fn fun b => { b with inbox := b.inbox.tail, consumed := (b.consumed + m.frames) % 2 ^ 32 }

/-- The message that the function's mailbox serves next; none while 64 responses are held (R304). -/
def headMessage (s : State) (fn : Nat) : Option MboxMsg :=
  let b := mboxAt s fn
  if usable s fn && b.held.length < 64 then b.inbox.head? else none

/-- Messages at the head that no request can take are answered with their refusal. -/
def refuseHeads (s : State) (fn fuel : Nat) : State :=
  match fuel with
  | 0 => s
  | fuel + 1 =>
    match headMessage s fn with
    | none => s
    | some m =>
      match messageStatus fn m with
      | 0 => s
      | st => refuseHeads (answer (popMessage s fn m) fn m st 0) fn fuel

/-- The request at the head, where it is of a class and an operation, is consumed and runs. -/
def onMessage (s : State) (fn cls op : Nat) (run : State → MboxMsg → State) : State :=
  match headMessage s fn with
  | none => s
  | some m =>
    if m.cls = cls && field m.bytes 0 1 = op then refuseHeads (run (popMessage s fn m) m) fn 32 else s

/-- Another function's request at its head came before this one on the same object: in an earlier beat, or in the same beat
for a lower queue (R158, R202). `queue` and `object` read a request; `object` answers none where the request is of another
kind. -/
def earlierHead (s : State) (fn : Nat) (m : MboxMsg) (queue : MboxMsg → Nat) (object : Nat → MboxMsg → Option Nat) : Bool :=
  (object fn m).isSome && s.mbx.any fun e => e.1 ≠ fn && (headMessage s e.1).any fun h =>
    h.cls = m.cls && object e.1 h = object fn m
      && (h.arrived < m.arrived || (h.arrived = m.arrived && (queue h < queue m || (queue h = queue m && e.1 < fn))))

/-- The module index in the job that a message concerns: the job of the queue that it names (R289). -/
def messageModule (s : State) (cls : Nat) (b : List Byte) : Nat :=
  match cls with
  | 1 => if field b 0 1 = 1 then 0 else moduleOf s (field b 8 2)
  | 3 => moduleOf s (field b 8 2)
  | 4 => if field b 0 1 = 8 then 0 else moduleOf s (field b 2 2)
  | _ => 0

/-- The job in replay that a function's message reaches. -/
def replayJob (s : State) (fn : Nat) : Option Nat := (s.jobs.find? fun e => e.2.fn = fn && e.2.replay.isSome).map Prod.fst

/-- An accepted doorbell posts its message; in the Record stop the message is journaled. -/
def postMessage (s : State) (fn w : Nat) (message : List Byte) : State :=
  let msg : MboxMsg := { cls := mdClass w, seq := mdSeq w, frames := mdFrames w, bytes := slice message 0 (64 * mdFrames w),
                         arrived := s.now }
  let s := journal s 4 (messageModule s msg.cls msg.bytes) fn (field msg.bytes 0 1) 0 msg.bytes
  let s := updMbox s fn fun m =>
    { m with fresh := false, seq := msg.seq, posted := (m.posted + msg.frames) % 2 ^ 32, inbox := m.inbox ++ [msg] }
  refuseHeads s fn 32

/-- The mailbox doorbell (R302). A message to a job in replay may be held (R291). -/
def mailboxDoorbell (s : State) (fn : Nat) (word : W64) (wellSized : Bool) (message : List Byte) : State :=
  let m := mboxAt s fn
  let w := word.toNat
  if !usable s fn || !barsAnswer s || !m.enabled then s
  else if !m.accepts w wellSized then
    updMbox s fn fun m => { m with badDoorbells := m.badDoorbells + 1, status := 0x0807 }
  else
    match replayJob s fn with
    | none => postMessage s fn w message
    | some j =>
      let bytes := slice message 0 (64 * mdFrames w)
      match replayInput s j 4 fn (field bytes 0 1) bytes with
      | (s, none) => postMessage s fn w message
      | (s, some due) => holdInput s j due (.mailboxDoorbell fn word wellSized message)

/-! ## Responses (R304) -/

/-- Frames of a held response. -/
def MboxResp.frames (r : MboxResp) : Nat := ceilDiv r.bytes.length 64

/-- One held response is written: its frames, its descriptor, the count, the vector. -/
def writeResponse (s : State) (fn : Nat) (r : MboxResp) : State :=
  let m := mboxAt s fn
  let s := (chunks 64 (r.bytes ++ zeros (64 * r.frames - r.bytes.length))).zipIdx.foldl
    (fun s c => hostWrite s (m.base + 0x800 + 64 * ((m.respFrame + c.2) % 28)) c.1) s
  let desc := toLe 1 r.cls ++ toLe 1 r.frames ++ toLe 1 m.respFrame ++ toLe 1 (if m.respWrite / 16 % 2 = 0 then 1 else 0)
    ++ toLe 4 r.seq ++ toLe 8 s.now
  let s := hostWrite s (m.base + 0xF00 + 16 * (m.respWrite % 16)) desc
  let s := updMbox s fn fun m =>
    { m with
      held := m.held.tail, respWrite := (m.respWrite + 1) % 2 ^ 32, respFrame := (m.respFrame + r.frames) % 28
      respFrames := m.respFrames ++ [r.frames] }
  msix s fn m.vector.toNat

/-- Descriptors written and not read. -/
def Mailbox.unread (m : Mailbox) : Nat := (m.respWrite + 2 ^ 32 - m.respRead) % 2 ^ 32

/-- Held responses are written while a descriptor and enough frames are free. -/
def writeResponses (s : State) (fn fuel : Nat) : State :=
  match fuel with
  | 0 => s
  | fuel + 1 =>
    let m := mboxAt s fn
    match m.held with
    | [] => s
    | r :: _ =>
      if m.enabled && m.unread < 16 && m.respFrames.sum + r.frames ≤ 28 then writeResponses (writeResponse s fn r) fn fuel
      else s

/-- The driver has read up to RESP_READ: descriptors and frames are free again, held responses are written, and requests
that waited for them are served. -/
def responseWrite (s : State) (fn : Nat) (read : BitVec 32) : State :=
  if !usable s fn || !barsAnswer s then s
  else
    let s := updMbox s fn fun m =>
      let m := { m with respRead := read.toNat }
      { m with respFrames := m.respFrames.drop (m.respFrames.length - m.unread) }
    refuseHeads (writeResponses s fn 64) fn 32

/-! ## Meanings -/

/-- The mailbox doorbell (R302), behind the internal events of its beat (R468). -/
def execMailboxDoorbell (fn : Nat) (word : W64) (wellSized : Bool) (message : List Byte) (s : State) : Result :=
  .next (mailboxDoorbell (settle s) fn word wellSized message)
/-- MBX_PAGE and MBX_VECTOR are written (R301). -/
def execMbxPageWrite (fn : Nat) (page : W64) (vector : BitVec 6) (s : State) : Result := .next (pageWrite s fn page vector)
/-- Held responses are written (R304). -/
def execMailboxResponseWrite (fn : Nat) (respRead : BitVec 32) (s : State) : Result := .next (responseWrite s fn respRead)

end Sys2Proof.Machine
end

