-- ==== Sys2Proof/Machine/Engines.lean ====
section
/-! DEFINITION. The public-key engines: requests and their order, the operations and their checks (R354 to R356). What a
result is for stands in Late.lean. Log entries are notes/assumptions/<n>.md. -/

namespace Sys2Proof.Machine

open Sys2Proof

/-! ## Operations (Tables 14.4 and 14.5) -/

/-- A public key as 96 bytes, x then y, big-endian. -/
def encodeKey (k : PubKey) : List Byte := toBe 48 k.x ++ toBe 48 k.y
/-- The public key that 96 bytes spell. -/
def decodeKey (b : List Byte) : PubKey := { x := beNat (slice b 0 48), y := beNat (slice b 48 48) }

/-- A scalar in 1 … n − 1. -/
def scalarOk (d : Nat) : Bool := 1 ≤ d && d < P384.n

/-- Scalars of an operation. -/
def EngineOp.scalars (o : EngineOp) : List Nat :=
  match o with
  | .keygen => []
  | .sign d _ => [d]
  | .verify _ _ r s => [r, s]
  | .ecdh d _ => [d]
  | .validate _ => []

/-- The public key of an operation. -/
def EngineOp.key (o : EngineOp) : Option PubKey :=
  match o with
  | .keygen => none
  | .sign _ _ => none
  | .verify k _ _ _ => some k
  | .ecdh _ k => some k
  | .validate k => some k

/-- The first check of Table 14.5 that fails; 0 for none. -/
def engineCheck (healthy : Bool) (o : EngineOp) : Status :=
  if !o.scalars.all scalarOk then 0x0701
  else if !(o.key.all fun k => k.x < P384.p && k.y < P384.p) then 0x0703
  else if !(o.key.all fun k => P384.onCurve (k.x, k.y)) then 0x0702
  else if o = .keygen && !healthy then 0x0709
  else 0

/-- Output of an operation whose checks pass; `v` is the random draw of a KEYGEN. -/
def engineOutput (o : EngineOp) (v : Nat) : EngineOut :=
  match o with
  | .keygen =>
    let d := v % (P384.n - 1) + 1
    match P384.mul d P384.g with
    | some q => { status := 0, output := toBe 48 d ++ toBe 48 q.1 ++ toBe 48 q.2 }
    | none => { status := 0, output := toBe 48 d ++ zeros 96 }
  | .sign d h => let (r, s) := P384.sign d h; { status := 0, output := toBe 48 r ++ toBe 48 s }
  | .verify k h r s => { status := if P384.verify (k.x, k.y) h r s then 0 else 0x0704, output := [] }
  | .ecdh d k => { status := 0, output := toBe 48 (((P384.mul d (k.x, k.y)).map Prod.fst).getD 0) }
  | .validate _ => { status := 0, output := [] }

/-- Bytes that an operation's output has. -/
def EngineOp.outputBytes (o : EngineOp) : Nat :=
  match o with
  | .keygen => 144
  | .sign _ _ => 96
  | .verify _ _ _ _ => 0
  | .ecdh _ _ => 48
  | .validate _ => 0

/-- A whole operation: every output byte is 0 on a failure. -/
def engineRun (healthy : Bool) (o : EngineOp) (v : Nat) : EngineOut :=
  if engineCheck healthy o ≠ 0 then { status := engineCheck healthy o, output := zeros o.outputBytes }
  else engineOutput o v

/-- A signature that verifies, its inputs checked. -/
def signatureOk (k : PubKey) (h sig : List Byte) : Bool :=
  (engineRun true (.verify k h (beNat (slice sig 0 48)) (beNat (slice sig 48 48))) 0).status = 0

/-- The random number of 512 bits at a place of the draws. -/
def random512 (s : State) : Nat := beNat (randomBytes s 64)

/-- A key pair from a draw. -/
def keyPairOf (v : Nat) : Nat × PubKey :=
  let o := (engineOutput .keygen v).output
  (beNat (slice o 0 48), decodeKey (slice o 48 96))

/-! ## Requests (R356) -/

/-- Service order of sources within a beat. -/
def sourceRank (x : EngineSource) : Nat :=
  match x with
  | .windway => 0
  | .spdm => 1
  | .reedKey => 2
  | .firmware => 3

/-- One request before another: by arrival, then by source. -/
def EngineReq.before (a b : EngineReq) : Bool :=
  a.arrived < b.arrived || (a.arrived = b.arrived && sourceRank a.src < sourceRank b.src)

/-- A request put in its place among waiting ones. -/
def insertReq (r : EngineReq) (l : List EngineReq) : List EngineReq :=
  match l with
  | [] => [r]
  | x :: t => if r.before x then r :: x :: t else x :: insertReq r t

/-- The engine starts its first waiting request where it is idle; a held request then finds a place and counts as arriving
in this beat. -/
def Engine.advance (e : Engine) (now : Nat) : Engine :=
  match e.running, e.waiting with
  | none, r :: t =>
    let e := { e with running := some (now, r), waiting := t }
    match e.held with
    | [] => e
    | h :: held => { e with waiting := insertReq { h with arrived := now } e.waiting, held }
  | _, _ => e

/-- A request arrives. One that started in this beat gives way to a source that is served before it. -/
def Engine.submit (e : Engine) (now : Nat) (r : EngineReq) : Engine :=
  match e.running with
  | none => ({ e with waiting := insertReq r e.waiting } : Engine).advance now
  | some (t, x) =>
    if t = now && r.before x && e.waiting.length < 64 then { e with running := some (t, r), waiting := insertReq x e.waiting }
    else if e.waiting.length < 64 then { e with waiting := insertReq r e.waiting }
    else { e with held := e.held ++ [r] }

/-- An operation requested of a hub's engine. -/
def submitEngine (s : State) (hub : Hub) (op : EngineOp) (src : EngineSource) (use : EngineUse) : State :=
  updEngine s hub fun e => e.submit s.now { op, src, arrived := s.now, use }

/-- Beats of every operation (R354). -/
def engineBeats : Nat := 1200000

/-- The running operation ends: its beat, its output, the counters, the next request. Answers the request and its output. -/
def engineEnd (s : State) (hub : Hub) : State × Option (EngineReq × EngineOut) :=
  match (engineAt s hub).running with
  | none => (s, none)
  | some (t, r) =>
    let s := { s with now := max s.now (t + engineBeats) }
    let o := engineRun (engineAt s hub).healthy r.op (random512 s)
    let s := if r.op = .keygen then drawn s 64 else s
    let s := bump s 0x8200 (match hub with | .east => 1 | .west => 2) 1
    let s := if 0x0701 ≤ o.status && o.status ≤ 0x0703 then bump s 0x8200 3 1 else s
    (updEngine s hub fun e => ({ e with running := none, last := some o } : Engine).advance s.now, some (r, o))

/-! ## Meanings -/

/-- KEYGEN is requested (Table 14.4). -/
def execKeygen (hub : Hub) (src : EngineSource) (s : State) : Result := .next (submitEngine s hub .keygen src .none)
/-- SIGN is requested. -/
def execSign (hub : Hub) (src : EngineSource) (d : Nat) (h : List Byte) (s : State) : Result :=
  .next (submitEngine s hub (.sign d h) src .none)
/-- VERIFY is requested. -/
def execVerify (hub : Hub) (src : EngineSource) (key : PubKey) (h : List Byte) (r sg : Nat) (s : State) : Result :=
  .next (submitEngine s hub (.verify key h r sg) src .none)
/-- ECDH is requested. -/
def execEcdh (hub : Hub) (src : EngineSource) (d : Nat) (key : PubKey) (s : State) : Result :=
  .next (submitEngine s hub (.ecdh d key) src .none)
/-- VALIDATE is requested. -/
def execValidate (hub : Hub) (src : EngineSource) (key : PubKey) (s : State) : Result :=
  .next (submitEngine s hub (.validate key) src .none)

end Sys2Proof.Machine
end

