-- ==== Sys2Proof/Machine/Container.lean ====
section
/-! DEFINITION. The .dtk container and the admission checks that its contents decide: checks 1 to 9 and 11 of Table 5.20
(R132, R135 to R137). Log entries are notes/assumptions/<n>.md. -/

namespace Sys2Proof.Machine

open Sys2Proof

/-! ## Sections (Tables 5.16 to 5.18) -/

/-- One entry of the section table (Table 5.17). -/
structure Section where
  type : Nat
  count : Nat
  off : Nat
  size : Nat
  crc : Nat
  reserved : Nat
  deriving DecidableEq, Repr

/-- A section table entry from its 32 bytes. -/
def readSection (b : List Byte) : Section where
  type := field b 0 4
  count := field b 4 4
  off := field b 8 8
  size := field b 16 8
  crc := field b 24 4
  reserved := field b 28 4

/-- SECTIONS. -/
def kSections (k : List Byte) : Nat := field k 16 4
/-- TABLE_OFF. -/
def kTable (k : List Byte) : Nat := field k 24 8
/-- GROUPED. -/
def kGrouped (k : List Byte) : Bool := bit (field k 12 4) 0

/-- The section table; at most 64 entries are read. -/
def sections (k : List Byte) : List Section :=
  (List.range (min (kSections k) 64)).map fun i => readSection (slice k (kTable k + 32 * i) 32)

/-- Entry sizes by type (Table 5.18); none for a type outside the table. -/
def entrySize (type : Nat) : Option Nat :=
  match type with
  | 1 => some 64
  | 2 => some 32
  | 3 => some 64
  | 4 => some 32
  | 5 => some 1
  | 6 => some 16
  | 7 => some 16
  | 8 => some 64
  | 9 => some 16
  | 10 => some 16
  | 11 => some 1
  | 12 => some 16
  | _ => none

/-- The section of a type. -/
def sectionOf (k : List Byte) (type : Nat) : Option Section := (sections k).find? fun e => e.type = type

/-- The bytes of the section of a type; none where it is absent. -/
def sectionBytes (k : List Byte) (type : Nat) : List Byte :=
  match sectionOf k type with
  | none => []
  | some e => slice k e.off e.size

/-- The entries of the section of a type. -/
def entriesOf (k : List Byte) (type : Nat) : List (List Byte) :=
  match sectionOf k type with
  | none => []
  | some e => (List.range e.count).map fun i => slice k (e.off + (entrySize type).getD 1 * i) ((entrySize type).getD 1)

/-- Check 1: the header. -/
def headerCheck (k : List Byte) : Bool :=
  64 ≤ k.length && slice k 0 4 = ascii "DTK1" && field k 4 2 = 1 && field k 8 4 = 64
    && field k 60 4 = crc32c (slice k 0 60) && field k 32 8 = k.length

/-- Two ranges share a byte. -/
def rangesMeet (a b : Nat × Nat) : Bool := a.1 < b.1 + b.2 && b.1 < a.1 + a.2

/-- No two ranges of a list share a byte. -/
def rangesApart (l : List (Nat × Nat)) : Bool :=
  match l with
  | [] => true
  | a :: t => !(t.any (rangesMeet a)) && rangesApart t

/-- One section table entry keeps R135. -/
def sectionCheck (k : List Byte) (e : Section) : Bool :=
  e.off % 64 = 0 && e.off + e.size ≤ k.length && e.crc = crc32c (slice k e.off e.size)
    && match entrySize e.type with
      | some n => e.size = e.count * n
      | none => 2 ^ 31 ≤ e.type

/-- Check 2: the section table. -/
def tableCheck (k : List Byte) : Bool :=
  let l := sections k
  let known := (l.map Section.type).filter fun t => (entrySize t).isSome
  4 ≤ kSections k && kSections k ≤ 64 && kTable k % 64 = 0 && kTable k + 32 * kSections k ≤ k.length
    && l.all (sectionCheck k) && nodup known && [1, 2, 3, 4].all known.contains
    && ((sectionOf k 1).any fun e => e.count = 1)
    && rangesApart ((0, 64) :: (kTable k, 32 * kSections k) :: l.map fun e => (e.off, e.size))

/-! ## Entries (Table 5.19) -/

/-- META: base digest. -/
def kDigest (k : List Byte) : List Byte := slice (sectionBytes k 1) 0 48
/-- META: queue roles. -/
def kRoles (k : List Byte) : Nat := field (sectionBytes k 1) 48 4
/-- BUFS entries. -/
def kBufs (k : List Byte) : List (List Byte) := entriesOf k 4
/-- SIZE of a BUFS entry. -/
def bSize (b : List Byte) : Nat := field b 0 8
/-- INIT. -/
def bInit (b : List Byte) : Nat := field b 8 8
/-- TIER. -/
def bTier (b : List Byte) : Nat := field b 16 1
/-- CLASS. -/
def bClass (b : List Byte) : Nat := field b 17 1
/-- ALIGN. -/
def bAlign (b : List Byte) : Nat := field b 18 1
/-- CORE. -/
def bCore (b : List Byte) : Nat := field b 20 4
/-- OWNER. -/
def bOwner (b : List Byte) : Nat := field b 24 4
/-- An entry has initial contents. -/
def bHasInit (b : List Byte) : Bool := bInit b ≠ 2 ^ 64 - 1

/-- `n` initial bytes of a BUFS entry; none without INIT. -/
def initBytes (k : List Byte) (b : List Byte) (n : Nat) : List Byte :=
  match sectionOf k 5 with
  | none => []
  | some e => if bHasInit b then slice k (e.off + bInit b) (min n (bSize b)) else []

/-- The buffer that a BUFS entry describes. -/
def bufOf (b : List Byte) : Buf :=
  { gen := 0, size := bSize b, tier := bTier b, cls := bClass b, core := if bTier b = 0 then bCore b else 0, container := true }

/-- The records of a stream, 64 or 128 bytes each, from `n` slots; none where an extension record lies past the end. -/
def walkRecords (fuel : Nat) (cmds : List Byte) (at_ left : Nat) : Option (List (List Byte)) :=
  match fuel with
  | 0 => some []
  | fuel + 1 =>
    if left = 0 then some []
    else
      let n := recordCount (slice cmds at_ 64)
      if left < n then none
      else (walkRecords fuel cmds (at_ + 64 * n) (left - n)).map fun l => slice cmds at_ (64 * n) :: l

/-- A stream of the container: role, parameters, records (none where it breaks its bounds). -/
structure KStream where
  role : Nat
  params : Nat
  cmds : Option (List (List Byte))
  deriving DecidableEq, Repr

/-- A STRM entry with its records. -/
def readStream (cmds : List Byte) (b : List Byte) : KStream where
  role := field b 0 4
  params := field b 16 4
  cmds :=
    if field b 8 8 % 64 = 0 && field b 8 8 + 64 * field b 4 4 ≤ cmds.length then
      walkRecords (field b 4 4) cmds (field b 8 8) (field b 4 4)
    else none

/-- The streams of a container. -/
def kStreams (k : List Byte) : List KStream := (entriesOf k 2).map (readStream (sectionBytes k 3))

/-- The records of a stream. -/
def KStream.records (t : KStream) : List (List Byte) := t.cmds.getD []

/-- Every record of every stream, with its stream. -/
def kRecords (k : List Byte) : List (KStream × List Byte) := (kStreams k).flatMap fun t => t.records.map fun r => (t, r)

/-- A reduction that REDS declares, with its length (R45). -/
def readRed (rlen : List (List Byte)) (b : List Byte) : RedDecl where
  id := field b 0 3
  chunks := field b 4 4
  partials := field b 8 4
  integer := field b 12 1 = 1
  op := field b 13 1
  route := field b 14 1
  length := ((rlen.find? fun e => field e 0 3 = field b 0 3).map fun e => field e 8 8).getD (512 * field b 4 4)

/-- The reductions of a container. -/
def kReds (k : List Byte) : List RedDecl := (entriesOf k 9).map (readRed (entriesOf k 12))

/-- TYPE of a SYNC section entry. -/
def ySecType (b : List Byte) : Nat := field b 0 1
/-- CLUSTER. -/
def ySecCluster (b : List Byte) : Nat := field b 4 4
/-- INIT. -/
def ySecInit (b : List Byte) : Nat := field b 8 8

/-! ## Check 4: the base (R184, R187, R190) -/

/-- A container's base digest is accepted: zero, or the resident base's; while a base is replaced, the incoming one's. -/
def baseCheck (s : State) (part : Nat) (d : List Byte) : Bool :=
  allZero d ||
    match dnum s (0x5600 + part) 1 with
    | 2 => d = dblob s (0x5600 + part) 2
    | 3 => d = dblob s (0x5600 + part) 3
    | _ => false

/-! ## Check 5: reserved fields (R8) -/

/-- Reserved fields of an entry of a section are 0. -/
def entryReserved (type : Nat) (b : List Byte) : Bool :=
  match type with
  | 1 => allZero (slice b 52 12)
  | 2 => allZero (slice b 20 12)
  | 4 => field b 19 1 = 0 && field b 28 4 = 0
  | 8 => allZero (slice b 56 8) && bits (field b 24 8) 63 17 = 0
  | 9 => field b 3 1 = 0 && field b 15 1 = 0
  | 10 => allZero (slice b 1 3)
  | 12 => field b 3 1 = 0 && field b 4 4 = 0
  | _ => true

/-- Check 5. -/
def reservedCheck (k : List Byte) : Bool :=
  bits (field k 12 4) 31 1 = 0 && field k 20 4 = 0 && allZero (slice k 41 3) && allZero (slice k 48 12)
    && ((sections k).all fun e => e.reserved = 0)
    && ([1, 2, 4, 8, 9, 10, 12].all fun t => (entriesOf k t).all (entryReserved t))
    && ((kRecords k).all fun p => reservedOk p.2)

/-! ## Check 6: opcodes -/

/-- Check 6: the status, 0 where it passes. -/
def opcodeCheck (k : List Byte) : Status :=
  match (kRecords k).find? fun p => !opStream (rOp p.2) || rExt p.2 ≠ opTwo (rOp p.2) with
  | none => 0
  | some p => if opStream (rOp p.2) then 0x0301 else 0x0303

/-! ## Check 7: ranges -/

/-- What a handle field names (R136). -/
inductive SymRef where
  | none
  | buf (i : Nat)
  | param (p : Nat)
  | bad
  deriving DecidableEq, Repr

/-- A handle field resolved against the container. -/
def symRef (bufs : Nat) (t : KStream) (h : Nat) : SymRef :=
  if h = 0 then .none
  else if 2 ^ 31 ≤ h && h < 2 ^ 31 + bufs then .buf (h - 2 ^ 31)
  else if 2 ^ 30 ≤ h && h < 2 ^ 30 + t.params then .param (h - 2 ^ 30)
  else .bad

/-- The BUFS entries that a record's handle fields name, as offset and entry. -/
def recordBufs (bufs : List (List Byte)) (t : KStream) (r : List Byte) : List (Nat × List Byte) :=
  (handleFields r).filterMap fun o =>
    match symRef bufs.length t (rH r o) with
    | .buf i => (bufs[i]?).map fun b => (o, b)
    | _ => none

/-- A BUFS entry in range. SIZE is at least 64 (DESIGN CHOICE: the manual states a multiple of 64 and no lower bound; log
entry 134). -/
def bufCheck (roles data : Nat) (b : List Byte) : Bool :=
  bSize b % 64 = 0 && 64 ≤ bSize b && bSize b ≤ 2 ^ 36 && bTier b ≤ 2 && bClass b ≤ 4
    && 6 ≤ bAlign b && bAlign b ≤ 16 && bOwner b < roles && (bClass b ≠ 3 || bTier b = 1)
    && (bHasInit b || bClass b ≠ 4) && (!bHasInit b || bInit b + bSize b ≤ data)
    && (if bTier b = 0 then bCore b < 32 else bCore b = 2 ^ 32 - 1)

/-- A REDS entry in range. PARTIALS and ROUTE are not 0 (DESIGN CHOICE: the manual states no lower bound; log entry 134). -/
def redCheck (b : List Byte) : Bool :=
  1 ≤ field b 4 4 && field b 4 4 ≤ 2 ^ 24 && 1 ≤ field b 8 4 && field b 12 1 ≤ 1 && field b 13 1 ≤ 3
    && 1 ≤ field b 14 1 && field b 14 1 ≤ 3

/-- An RLEN entry fits a REDS entry. -/
def rlenCheck (reds : List (List Byte)) (b : List Byte) : Bool :=
  reds.any fun e => field e 0 3 = field b 0 3 && 512 * (field e 4 4 - 1) < field b 8 8 && field b 8 8 ≤ 512 * field e 4 4

/-- A SYNC section entry in range (Table 11.1). -/
def syncEntryCheck (b : List Byte) : Bool :=
  let n := ySecInit b
  ySecCluster b < 8 &&
    match ySecType b with
    | 1 => true
    | 2 => n ≤ 1
    | 3 => n = 0
    | 4 => 1 ≤ n % 2 ^ 14 && n % 2 ^ 14 ≤ 8192 && n - n % 2 ^ 14 ∈ [0, 2 ^ 16]
    | _ => false

/-- The declaration that GRED + f needs for feature f of a grouped command that spans more than 256 groups (R49). -/
def gredOk (reds : List RedDecl) (r : List Byte) : Bool :=
  !(aGrouped r && 256 < aRed r) || (List.range (aFeats r)).all fun f =>
    reds.any fun d => d.id = rH r 28 + f && !d.integer && d.op = 0 && d.chunks = aRed r && bit d.route 0

/-- One boundary reduction is declared (Table 9.4). -/
def boundaryRed (reds : List RedDecl) (id op : Nat) (ok : Nat → Bool) : Bool :=
  reds.any fun d => d.id = id && d.integer && d.op = op && bit d.route 1 && ok d.chunks

/-- The counts of the STEPs under a FLAG_RED in the streams of one role. -/
def stepCounts (k : List Byte) (role f : Nat) : List Nat :=
  (kRecords k).filterMap fun p =>
    if p.1.role = role && rOp p.2 = 13 && field p.2 24 3 = f then some (field p.2 20 4) else none

/-- A chunk count of `n` elements a ring fits the step lists under a FLAG_RED, which join one STEP's list of every role (R228).
It is exact where each role's STEPs under that FLAG_RED have one count; a role whose STEPs come from its ring bounds it from
below alone (log entry 32). -/
def stepChunks (k : List Byte) (f n chunks : Nat) : Bool :=
  let counts := (List.range (kRoles k)).map fun i => stepCounts k i f
  let low := (counts.map fun l => l.foldl min (l.headD 0)).sum
  let high := (counts.map fun l => l.foldl max 0).sum
  max 1 (ceilDiv (n * low) 512) ≤ chunks && (counts.any List.isEmpty || chunks ≤ max 1 (ceilDiv (n * high) 512))

/-- The three reductions of a STEP are declared (Table 9.4). -/
def stepReds (k : List Byte) (reds : List RedDecl) (r : List Byte) : Bool :=
  let f := field r 24 3
  boundaryRed reds f 0 (· = 1) && boundaryRed reds (f + 1) 0 (stepChunks k f 3) && boundaryRed reds (f + 2) 2 (stepChunks k f 1)

/-- A stream SYNC's status at admission (R268, R275 to R277, R283). `windowed` tells whether a commit window is open. -/
def streamSyncStatus (k : List Byte) (modules own : Nat) (windowed : Bool) (r : List Byte) : Status :=
  if !syncFieldsOk r || modules ≤ yModule r then 0x0301
  else if !isSignal (yOp r) && windowed then 0x0503
  else if yOp r = 9 then 0
  else if !mayNameRemote (yOp r) && yModule r ≠ own then 0x0507
  else
    match (entriesOf k 10)[yObj r]? with
    | none => 0
    | some e => if suits (yOp r) (ySecType e) then 0 else 0x0301

/-- Whether each record of a stream stands in a commit window, its own HOLD included (R128). -/
def windowFlags (open_ : Bool) (l : List (List Byte)) : List Bool :=
  match l with
  | [] => []
  | r :: t =>
    let w := open_ || rHold r
    w :: windowFlags (w && rOp r ≠ 6) t

/-- The bytes that a record reaches in the container buffers it names fit them (R122). Ranks of contexts are not known
here; a header or an image counts where the container holds it. -/
def sizesOk (s : State) (k : List Byte) (bufs : List (List Byte)) (t : KStream) (r : List Byte) : Bool :=
  let l := recordBufs bufs t r
  let head (o : Nat) : List Byte := ((l.find? fun p => p.1 = o).map fun p => initBytes k p.2 64).getD []
  l.all fun p =>
    (rOp r = 4 && ((p.1 = 20 && mSrcModule r ≠ 0) || (p.1 = 24 && mDstModule r ≠ 0)))
      || reachOf { s with ctxs := [] } r (bTier p.2 = 1 && bClass p.2 = 3) head p.1 ≤ bSize p.2

/-- One record in range: the status, 0 where it passes. -/
def recordStatus (s : State) (k : List Byte) (modules own : Nat) (reds : List RedDecl) (t : KStream) (w : Bool) (r : List Byte) : Status :=
  let bufs := kBufs k
  if !fieldsOk r then 0x0301
  else if rOp r = 5 && streamSyncStatus k modules own w r ≠ 0 then streamSyncStatus k modules own w r
  else if rOp r = 1 && ((aGrouped r && !kGrouped k) || !gredOk reds r) then 0x0301
  else if rOp r = 13 && !stepReds k reds r then 0x0301
  else if rOp r = 2 && ((recordBufs bufs t r).any fun p => p.1 ≠ 16 && 2 ^ 23 < bSize p.2) then 0x0301
  else if !sizesOk s k bufs t r then 0x0301
  else 0

/-- The first status other than 0. -/
def firstStatus (l : List Status) : Status := (l.find? (· ≠ 0)).getD 0

/-- Check 7: the status, 0 where it passes. -/
def rangeCheck (s : State) (k : List Byte) (modules own roles : Nat) : Status :=
  let reds := entriesOf k 9
  let rlen := entriesOf k 12
  if kRoles k = 0 || 256 < kRoles k || kRoles k ≠ roles
      || !((kStreams k).all fun t => t.cmds.isSome && t.role < kRoles k && t.params ≤ 8)
      || !((kBufs k).all (bufCheck (kRoles k) (sectionBytes k 5).length))
      || !(reds.all redCheck) || !nodup (reds.map fun e => field e 0 3)
      || !(rlen.all (rlenCheck reds)) || !nodup (rlen.map fun e => field e 0 3)
      || !((entriesOf k 10).all syncEntryCheck) then 0x0301
  else
    firstStatus ((kStreams k).flatMap fun t =>
      (t.records.zip (windowFlags false t.records)).map fun p => recordStatus s k modules own (kReds k) t p.2 p.1)

/-! ## Check 8: references, tiers, cores -/

/-- Every reference of a record resolves (R136). -/
def refsOk (k : List Byte) (t : KStream) (r : List Byte) : Bool :=
  let rings := (entriesOf k 8).length
  ((handleFields r).all fun o => symRef (kBufs k).length t (rH r o) ≠ .bad)
    && ((ringFields (rOp r)).all fun o => rRing r o = noRing || rRing r o < rings)
    && (!(rOp r = 1 && aGrouped r) || rRing r 40 + aRed r ≤ rings)
    && (rOp r ≠ 5 || yOp r = 9 || yObj r < (entriesOf k 10).length)

/-- Cores that a record names: its TARGET, and those of its core-store buffers. -/
def recordCores (k : List Byte) (t : KStream) (r : List Byte) : List Nat :=
  (if opEngine (rOp r) then [rCore r] else [])
    ++ (recordBufs (kBufs k) t r).filterMap fun p => if bTier p.2 = 0 then some (bCore p.2) else none

/-- Every core that the container names (R312). -/
def kCores (k : List Byte) : List Nat :=
  let named := (kRecords k).flatMap (fun p => recordCores k p.1 p.2)
    ++ (kBufs k).filterMap fun b => if bTier b = 0 then some (bCore b) else none
  (List.range 32).filter named.contains

/-- The tiers and cores of a record's buffers fit their fields. -/
def tiersOk (k : List Byte) (t : KStream) (r : List Byte) : Bool :=
  (recordBufs (kBufs k) t r).all fun p => tierOk r false p.1 (bufOf p.2)

/-- A core and its cluster are in service (R440, R444). -/
def coreServes (s : State) (core : Nat) : Bool := (coreAt s core).inService && (clusterAt s (core / 4)).inService

/-- The initial bytes of the BUFS entry behind a field, where it has any. -/
def fieldInit (k : List Byte) (t : KStream) (r : List Byte) (o n : Nat) : Option (List Byte) :=
  ((recordBufs (kBufs k) t r).find? fun p => p.1 = o && bHasInit p.2).map fun p => initBytes k p.2 n

/-- The declared buffers, by field offset, that a VECTOR reads and writes; all of them where its program is not the
container's. -/
def vectorFields (k : List Byte) (t : KStream) (r : List Byte) : List Nat × List Nat := programFields (fieldInit k t r 16 32768)

/-- Offsets of the fields whose buffers a record reads. -/
def readFields (k : List Byte) (t : KStream) (r : List Byte) : List Nat :=
  match rOp r with
  | 1 => [16, 20, 32, 56] ++ if aCarryIn r then [28] else []
  | 2 => 16 :: (vectorFields k t r).1
  | 3 => if field r 16 1 = 4 then [20, 24] else [20, 24, 28]
  | 4 => if field r 16 1 = 1 then [20, 24] else [20]
  | 7 => [36, 40, 44]
  | _ => []

/-- Offsets of the fields whose buffers a record writes, for R132. -/
def wroteFields (k : List Byte) (t : KStream) (r : List Byte) : List Nat :=
  if rOp r = 2 then (vectorFields k t r).2 else writeFields r

/-- The crook links that a record's planned routes may cross, in the direction of each transfer. A buffer has no address
before its job is admitted: every quarter or channel of the partition's map may hold a part of it (log entry 24). -/
def plannedLinks (s : State) (part : Nat) (k : List Byte) (t : KStream) (r : List Byte) : List Nat :=
  let c := rCore r / 4
  (recordBufs (kBufs k) t r).flatMap fun p =>
    let a : Access :=
      { key := 0, lo := 0, hi := 0
        reads := (readFields k t r).contains p.1 || (rOp r ≠ 2 && readsField r p.1)
        writes := (wroteFields k t r).contains p.1 }
    match bTier p.2 with
    | 0 => dieRoutes a (bCore p.2 / 4) c
    | 1 => (quarters s part).flatMap fun u => dieRoutes a (u / 8) c
    | _ => (channelsOf s part).flatMap fun ch => hubRoute (ch / 32) c

/-- Check 8: the status, 0 where it passes. -/
def referenceCheck (s : State) (part : Nat) (k : List Byte) : Status :=
  let l := kRecords k
  if !(l.all fun p => refsOk k p.1 p.2) then 0x0309
  else if !(l.all fun p => tiersOk k p.1 p.2) then 0x0204
  else if !((kCores k).all (corePart s part)) then 0x030F
  else if !((kCores k).all (coreServes s)) then 0x0B02
  else if l.any fun p => opEngine (rOp p.2) && !(plannedLinks s part k p.1 p.2).all (linkUp s) then 0x0B03
  else 0

/-! ## Check 9: programs and images (R78, R93) -/

/-- One record's program or images; those that stand in no initial contents are checked at the start. -/
def programCheck (k : List Byte) (t : KStream) (r : List Byte) : Status :=
  match rOp r with
  | 2 => if (fieldInit k t r 16 32768).all vecProgOk then 0 else 0x0E01
  | 7 =>
    let e := (fieldInit k t r 40 imageBytes).map fun b => slice b 0 imageBytes
    let v := (fieldInit k t r 44 imageBytes).map fun b => slice b 0 imageBytes
    if e.all (fun b => imageOk b && imagesPair b (rH r 44 ≠ 0) (rH r 32)) && v.all vectorImageOk then 0
    else 0x0E41
  | _ => 0

/-! ## Check 11: live ranges and yield points (R132, R128) -/

/-- The BUFS indices behind some fields. -/
def symbols (k : List Byte) (t : KStream) (r : List Byte) (os : List Nat) : List Nat :=
  os.filterMap fun o =>
    match symRef (kBufs k).length t (rH r o) with
    | .buf i => if (handleFields r).contains o then some i else none
    | _ => none

/-- A LIVE entry. -/
def readLive (b : List Byte) : LiveRange where
  symbol := field b 0 4
  stream := field b 4 4
  first := field b 8 4
  last := field b 12 4

/-- Live ranges of a container. -/
def kLive (k : List Byte) : List LiveRange := (entriesOf k 6).map readLive

/-- A symbol is live at a boundary of a stream. -/
def liveBoundary (l : List LiveRange) (stream symbol b : Nat) : Bool :=
  l.any fun e => e.symbol = symbol && e.stream = stream && e.first ≤ b && b ≤ e.last

/-- Live core-store bytes at a boundary (R132, R134). -/
def liveBytes (k : List Byte) (stream b : Nat) : Nat :=
  let l := kLive k
  ((kBufs k).zipIdx.map fun p => if bTier p.1 = 0 && liveBoundary l stream p.2 b then bSize p.1 else 0).sum

/-- Every core-store read of a stream is covered: from the boundary after the latest earlier write up to the reader. -/
def liveCheck (k : List Byte) (i : Nat) (t : KStream) : Bool :=
  let l := kLive k
  let acc := t.records.map fun r => (symbols k t r (readFields k t r), symbols k t r (wroteFields k t r))
  (List.range acc.length).all fun c =>
    ((acc.getD c ([], [])).1.filter fun x => ((kBufs k)[x]?).any fun b => bTier b = 0).all fun x =>
      let w := ((List.range c).filter fun d => (acc.getD d ([], [])).2.contains x).foldl (fun _ d => d + 1) 0
      (List.range (c + 1 - w)).all fun n => liveBoundary l i x (w + n)

/-- The YIELDs of a stream stand outside windows, each at its YILD entry's boundary. -/
def yieldCheck (k : List Byte) (i : Nat) (t : KStream) : Bool :=
  let ys := entriesOf k 7
  ((t.records.zip (windowFlags false t.records)).zipIdx).all fun p =>
    rOp p.1.1 ≠ 8 || (!p.1.2 &&
      (ys[field p.1.1 16 4]?).any fun y => field y 0 4 = i && field y 4 4 = p.2 + 1)

/-- A LIVE entry of a buffer outside the core store is ignored (R132). -/
def ignoredLive (k : List Byte) (e : LiveRange) : Bool := ((kBufs k)[e.symbol]?).any fun b => bTier b ≠ 0

/-- Check 11. A LIVE or YILD entry that names a symbol or a stream which the container lacks fails here, with the check's
0x030D (DESIGN CHOICE: check 8 could refuse it with 0x0309; log entry 134). -/
def rangesCheck (k : List Byte) : Bool :=
  let ts := kStreams k
  ((kLive k).all fun e => ignoredLive k e || (e.symbol < (kBufs k).length && e.first ≤ e.last
      && (ts[e.stream]?).any fun t => e.last ≤ t.records.length))
    && (ts.zipIdx.all fun p => liveCheck k p.2 p.1 && yieldCheck k p.2 p.1)
    && (entriesOf k 7).all fun y =>
      (ts[field y 0 4]?).any fun t =>
        1 ≤ field y 4 4 && ((t.records[field y 4 4 - 1]?).any fun r => rOp r = 8)
          && field y 8 8 = liveBytes k (field y 0 4) (field y 4 4)

end Sys2Proof.Machine
end

