-- ==== Sys2Proof/Machine/Registers.lean ====
section
/-! DEFINITION. What a read of a function's registers returns: doorbell pages, mailbox registers, function control and window
registers (Tables 5.2, 12.3, 13.5; R106, R301, R343). Log entries are notes/assumptions/<n>.md. -/

namespace Sys2Proof.Machine

open Sys2Proof

/-- The queue behind a doorbell page of a function. -/
def pageQueue (s : State) (fn page : Nat) : Option (Nat × Queue) := s.queues.find? fun e => e.2.fn = fn && e.2.page = page

/-- STATUS of a doorbell page (Table 5.2). -/
def Queue.statusWord (Q : Queue) : Nat :=
  Q.status % 65536 + (if Q.stopped then 2 ^ 16 else 0) + if Q.quarantined then 2 ^ 17 else 0

/-- The 32-bit word at an offset of a doorbell page; DOORBELL is write-only, the rest reads 0 (Table 5.2). -/
def Queue.pageWord (Q : Queue) (off : Nat) : Nat :=
  match off with
  | 0x008 => Q.head
  | 0x00C => Q.committed
  | 0x010 => Q.statusWord
  | _ => 0

/-- A read of a doorbell page by the function that owns the queue. -/
def pageRead (s : State) (fn page off : Nat) : Option Nat :=
  if usable s fn then (pageQueue s fn page).map fun e => e.2.pageWord off else none

/-- MBX_STATUS (Table 12.3). -/
def mboxStatus (s : State) (fn : Nat) : Nat :=
  (mboxAt s fn).status % 65536 + (if (mboxAt s fn).enabled then 2 ^ 16 else 0) + if inReset s fn then 2 ^ 17 else 0

/-- A mailbox register of a function by its offset (Table 12.3). -/
def mboxRead (s : State) (fn off : Nat) : Nat :=
  let m := mboxAt s fn
  match off with
  | 0x00 => m.page.toNat
  | 0x10 => m.consumed
  | 0x14 => m.respWrite
  | 0x18 => m.respRead
  | 0x1C => mboxStatus s fn
  | 0x20 => m.vector.toNat
  | _ => 0

/-- A BAR4 window register of a function: HANDLE, then OFFSET above it (R343). -/
def windowRead (s : State) (fn w : Nat) : Nat :=
  (FMap.get? s.host.windows (8 * fn + w)).elim 0 fun e => e.1.toNat + 2 ^ 64 * e.2

/-- The word at an offset of a function's BAR0, for the registers of Table 13.5 that this model holds. -/
def bar0Read (s : State) (fn off : Nat) : Nat :=
  if off = 0 then dnum s (fnIndex fn) 6 % 256
  else if 0x1000 ≤ off && off < 0x2000 then mboxRead s fn (off - 0x1000)
  else if 0x4000 ≤ off && off < 0x4080 then windowRead s fn ((off - 0x4000) / 16) / 2 ^ (8 * (off % 16)) % 2 ^ 64
  else 0

end Sys2Proof.Machine
end

