-- ==== Sys2Proof/Machine/Sched.lean ====
section
/-! DEFINITION. Granting cores, pre-emption, save, zeroing and restore, queue accounting; the reset of a queue and the end
of a job (R307, R311 to R321). Log entries are notes/assumptions/<n>.md. -/

namespace Sys2Proof.Machine

open Sys2Proof

/-! ## Accounting (R320, R321) -/

/-- The histogram bin of an episode. -/
def waitBin (w : Nat) : Nat := if w < 1024 then 0 else min 15 (Nat.log2 w - 9)

/-- A waiting episode of a queue ends: its record and its function's entries take it. -/
def endEpisode (s : State) (q : Nat) : State :=
  match queueAt s q with
  | none => s
  | some Q =>
    match Q.waitingSince with
    | none => s
    | some t =>
      let w := s.now - t
      let b := waitBin w
      let s := updQueue s q fun Q =>
        { Q with
          waitingSince := none
          acct := { Q.acct with
            waitSum := min accountMax (Q.acct.waitSum + w)
            waitMax := max Q.acct.waitMax w
            hist := FMap.put 0 Q.acct.hist b (min (2 ^ 32 - 1) (FMap.getD Q.acct.hist b 0 + 1)) } }
      let i := 0x6500 + Q.fn
      bump (raiseTo (bump s i 1 w) i 2 w) i (0x10 + b) 1

/-- The queue holds commands to run. -/
def holdsCommands (s : State) (q : Nat) : Bool := (queueAt s q).any fun Q => !Q.cmds.isEmpty || !Q.runs.isEmpty

/-- Beats lost by every queue of a job that holds commands, and once by its function (log entry 28). -/
def loseBeats (s : State) (J : Job) (n : Nat) : State :=
  bump (J.roles.foldl (fun s q => if holdsCommands s q then chargeLost s q n else s) s) (0x6500 + J.fn) 4 n

/-! ## Rank and grant (R313) -/

/-- Job `i` ranks before job `j`: higher priority, then lower JOB_ID. -/
def outranks (i : Nat) (I : Job) (j : Nat) (J : Job) : Bool := J.priority < I.priority || (I.priority = J.priority && i < j)

/-- A core is free for a grant: not held, not being zeroed, inside the cluster mask (R385). -/
def coreFree (s : State) (k : Nat) : Bool := let c := coreAt s k; c.holder.isNone && !c.zeroing && inMask s (k / 4)

/-- Whether a waiting job of higher rank wants a core of this one. -/
def blocked (s : State) (j : Nat) (J : Job) : Bool :=
  s.jobs.any fun e => e.1 ≠ j && e.2.grant = .waiting && outranks e.1 e.2 j J && e.2.coreSet.any J.coreSet.contains

/-- Beats of a save or a restore: 4 KiB per cycle per core, all cores at once, plus 400; none where nothing is live. -/
def saveBeats (s : State) (saved : FMap (FMap Mem)) : Nat :=
  let keys := saved.flatMap fun e => e.2.map Prod.fst
  let per (k : Nat) : Nat := (keys.map fun key => match FMap.get? s.bufs key with
    | some b => if b.core = k then b.size else 0
    | none => 0).sum
  if keys.isEmpty then 0
  else 400 + maxOf ((List.range 32).map fun k => ceilDiv (ceilDiv (per k) 4096 * 1000) (clusterAt s (k / 4)).clock)

/-- The cores of a waiting job are granted to it: each is woken, its queues' episodes end, and saved contents are restored
before anything starts. -/
def grantCores (s : State) (j : Nat) : State :=
  match jobAt s j with
  | none => s
  | some J =>
    if J.grant ≠ .waiting || !(J.coreSet.all (coreFree s)) || blocked s j J then s
    else
      let s := J.coreSet.foldl (fun s k => requestWake (updCore s k fun c => { c with holder := some j, idleSince := s.now }) k) s
      let s := J.roles.foldl (fun s q => updQueue (endEpisode s q) q fun Q => { Q with held := false }) s
      updJob s j fun J => { J with grant := if J.saved.isEmpty then .holding else .restoring }

/-- The restore is done: the saved contents stand in their buffers again. -/
def restoreDone (s : State) (j : Nat) : State :=
  match jobAt s j with
  | none => s
  | some J =>
    if J.grant ≠ .restoring then s
    else
      let s := loseBeats s J (saveBeats s J.saved)
      let s := J.saved.foldl (fun s e => e.2.foldl (fun s b =>
        { s with bufs := FMap.modify s.bufs b.1 fun x => { x with data := b.2 } }) s) s
      updJob s j fun J => { J with grant := .holding, saved := [] }

/-! ## Pre-emption (R314) -/

/-- A queue stands at a pre-emptible point: stopped, or between ring commands or RUNs. -/
def atPoint (Q : Queue) : Bool := Q.stopped || Q.runs.isEmpty

/-- The yield wait bound expires: queues not yet held are killed back to their resume points, and hold there; with the last
one the save begins. -/
def yieldExpiry (s : State) (j : Nat) : State :=
  match jobAt s j with
  | none => s
  | some J =>
    if J.grant ≠ .yielding then s
    else
      let s := { s with now := max s.now (J.yieldSince + eff s 0x2400 1) }
      J.roles.foldl (fun s q => if (queueAt s q).all Queue.held then s else killQueue s q .preemption) s

/-- A waiting job of higher rank wants a core that this one holds: pre-emption begins. -/
def preempt (s : State) (j : Nat) : State :=
  match jobAt s j with
  | none => s
  | some J =>
    if J.grant ≠ .holding || !(s.jobs.any fun e =>
        e.1 ≠ j && e.2.grant = .waiting && outranks e.1 e.2 j J && e.2.coreSet.any J.coreSet.contains) then s
    else
      let s := updJob s j fun J => { J with grant := .yielding, yieldSince := s.now }
      let s := bump (J.roles.foldl (fun s q =>
        if holdsCommands s q then
          updQueue s q fun Q => { Q with acct := { Q.acct with preemptions := min accountMax (Q.acct.preemptions + 1) } }
        else s) s) (0x6500 + J.fn) 3 1
      let s := J.roles.foldl (fun s q => if (queueAt s q).any atPoint then holdQueue s q else s) s
      if eff s 0x2400 1 = 0 then yieldExpiry s j else s

/-- The save is done: the job's cores are zeroed next. -/
def saveDone (s : State) (j : Nat) : State :=
  match jobAt s j with
  | none => s
  | some J =>
    if J.grant ≠ .saving then s
    else
      let s := loseBeats s J (saveBeats s J.saved)
      let s := J.coreSet.foldl (fun s k => useCluster (updCore s k fun c => { c with zeroing := true }) (k / 4)) s
      updJob s j fun J => { J with grant := if J.coreSet.isEmpty then .waiting else .zeroing }

/-- A core store and both stationary buffers are zeroed: every core-store buffer on the core that `p` names reads 0. The
stationary registers are cleared with the buffers that feed them (log entry 139). -/
def zeroStore (s : State) (core : Nat) (p : Buf → Bool) : State :=
  let s := { s with bufs := FMap.mapVal s.bufs fun _ b => if b.tier = 0 && b.core = core && p b then { b with data := [] } else b }
  updCore s core fun c => { c with stationary := [], window := [], active := [], shadow := [] }

/-- The zeroing of a core ends. A pre-empted job's buffers on it are cleared; a job whose cores are all zeroed waits for
them again (R314). -/
def zeroingDone (s : State) (core : Nat) : State :=
  let k := coreAt s core
  if !k.zeroing then s
  else
    let s := zeroStore s core fun b => k.holder.isNone || b.job = k.holder
    let s := updCore s core fun c => { c with zeroing := false, holder := none, idleSince := s.now }
    match k.holder with
    | none => s
    | some j =>
      match jobAt s j with
      | none => s
      | some J =>
        if J.grant = .zeroing && J.coreSet.all (fun c => !(coreAt s c).zeroing) then
          updJob s j fun J => { J with grant := .waiting }
        else s

/-! ## Reset of a queue (R307, R317) -/

/-- A command is killed without re-run and without a record. -/
def dropCmd (s : State) (q : Nat) (c : Cmd) : State :=
  let s := giveUp s q c
  if c.state = .fetched then s else trace s 3 (traceSource s c) q c.seq (c.stream.getD 0) 0

/-- Steps 1 to 5 of a queue reset. TAIL returns to 0 with HEAD (log entry 29). A queue has no transfer in flight between
steps, so draining and squashing leave the same state (log entry 40). -/
def resetQueue (s : State) (q : Nat) : State :=
  match queueAt s q with
  | none => s
  | some Q =>
    let s := (Q.cmds.filter fun c => !c.failed).foldl (fun s c => dropCmd s q c) s
    let s := updQueue s q fun Q => { Q with cmds := [], running := none, earlierRuns := [], window := none, laterWindows := [] }
    let s := abandonLocks s q
    let s := updQueue s q fun Q =>
      { Q with
        gen := (Q.gen + 1) % 65536, tail := 0, head := 0, committed := 0, expected := 0, status := 0, stopped := false
        steps := 0, windowSweeps := 0, waitingSince := none, held := false, stopAt := none, heldKill := none }
    releaseHeld s

/-! ## End of a job (R311) -/

/-- A context moves to unbinding (R209); a bind under way ends with 0x0103. -/
def beginUnbind (s : State) (ctx : Nat) : State :=
  match FMap.get? s.ctxs ctx with
  | none => s
  | some x =>
    let s := match x.state, x.answer with
      | .binding, some (fn, seq, tag) => respond s fn 4 seq (response32 s tag 0x0103 0)
      | _, _ => s
    { s with ctxs := FMap.set s.ctxs ctx { x with
        state := .unbinding, answer := if x.state = .binding then none else x.answer } }

/-- The sync objects of a job become free; their clusters' counts fall. -/
def freeSync (s : State) (j : Nat) : State :=
  let mine := s.sync.filter fun e => e.2.job = j
  let s := { s with sync := s.sync.filter fun e => e.2.job ≠ j }
  mine.foldl (fun s e => dset s 0x6F10 (e.1 / 8192 + 1) (dnum s 0x6F10 (e.1 / 8192 + 1) - 1)) s

/-- The job ends on this module: its queues are reset and serve no job; its cores, reservations, sync objects, save areas,
container buffers and staged remote writes are released, and its contexts unbind. -/
def endJob (s : State) (j : Nat) : State :=
  match jobAt s j with
  | none => s
  | some J =>
    let s := J.roles.foldl (fun s q => updQueue (resetQueue s q) q fun Q => { Q with job := none }) s
    let s := replayEnd s J
    let s := freeSync s j
    let s := uncharge (uncharge s J.part J.fn 1 J.reserved) J.part J.fn 2 J.reservedCap
    let keys := (s.bufs.filter fun e => e.2.container && e.2.job = some j && !e.2.freed).map Prod.fst
    let s := keys.foldl freeBuf s
    let s := { s with bufs := FMap.mapVal s.bufs fun _ b => if b.job = some j then { b with job := none } else b }
    let s := (s.ctxs.filter fun e => e.2.job = j).foldl (fun s e => beginUnbind s e.1) s
    let s := { s with
      cores := FMap.mapVal s.cores fun _ k => if k.holder = some j && !k.zeroing then { k with holder := none, idleSince := s.now } else k
      reds := s.reds.filter fun e => e.1 / 2 ^ 24 ≠ j
      win := { s.win with staged := s.win.staged.filter fun x => x.job ≠ j }
      jobs := FMap.erase s.jobs j }
    dset s (0x4000 + J.part) 9 (dnum s (0x4000 + J.part) 9 - 1)

/-! ## Meanings -/

/-- The cores of a job are granted (R313). -/
def execCoreGrant (job : Nat) (s : State) : Result := .next (grantCores s job)
/-- A job is pre-empted (R314). -/
def execPreEmption (job : Nat) (s : State) : Result := .next (preempt s job)
/-- The yield wait bound expires (R314). -/
def execYieldWaitBoundExpiry (job : Nat) (s : State) : Result := .next (yieldExpiry s job)
/-- A save ends (R314). -/
def execSaveDone (job : Nat) (s : State) : Result := .next (saveDone s job)
/-- A restore ends (R314). -/
def execRestoreDone (job : Nat) (s : State) : Result := .next (restoreDone s job)

end Sys2Proof.Machine
end

