-- ==== Sys2Proof/Machine/Queues.lean ====
section
/-! DEFINITION. Queues: the doorbell, and the queue requests of the mailbox (R105 to R107, R305 to R309). Log entries are
notes/assumptions/<n>.md. -/

namespace Sys2Proof.Machine

open Sys2Proof

/-! ## Doorbell (R106, R107) -/

/-- The conditions of R107. -/
def doorbellOk (q : Nat) (Q : Queue) (w : Nat) (wellSized : Bool) : Bool :=
  let tail := bits w 31 0
  wellSized && bits w 44 32 = q && bits w 63 45 = 0
    && (tail + 2 ^ 32 - Q.head) % 2 ^ 32 ≤ Q.slots && (tail + 2 ^ 32 - Q.tail) % 2 ^ 32 ≤ Q.slots

/-- An accepted doorbell: TAIL moves, and the Record stop journals it. -/
def takeDoorbell (s : State) (q tail : Nat) : State :=
  updQueue (journal s 1 (moduleOf s q) q tail 0 []) q fun Q => { Q with tail }

/-- A doorbell in region m of the PF's BAR2, 32 MiB each, goes to member m of the host domain (R342). -/
def memberDoorbell (s : State) (fn m : Nat) : State :=
  if fn ≠ 0 || !usable s fn then s
  else
    match domainModule s m with
    | none => s
    | some dest => sendFlits { s with host := { s.host with
        proxied := FMap.put 0 s.host.proxied m (FMap.getD s.host.proxied m 0 + 1) } } 0 5 dest 8 s.now

/-- The doorbell: ignored and counted where it is invalid or the queue is quarantined; one that repeats TAIL has no
effect. In replay an accepted one may be held. -/
def doorbell (s : State) (fn page : Nat) (word : W64) (wellSized : Bool) : State :=
  if !barsAnswer s then s
  else if 8192 ≤ page then memberDoorbell s fn (page / 8192)
  else
  match pageQueue s fn page with
  | none => s
  | some (q, Q) =>
    let tail := bits word.toNat 31 0
    if !usable s fn then s
    else if Q.quarantined then updQueue s q fun Q => { Q with badDoorbells := Q.badDoorbells + 1 }
    else if !doorbellOk q Q word.toNat wellSized then
      updQueue s q fun Q => { Q with badDoorbells := Q.badDoorbells + 1, status := 0x0310 }
    else if tail = Q.tail then s
    else
      match Q.job with
      | none => takeDoorbell s q tail
      | some j =>
        match replayInput s j 1 q tail [] with
        | (s, none) => takeDoorbell s q tail
        | (s, some due) => holdInput s j due (.doorbell fn page word wellSized)

/-! ## Queue requests (Table 12.7) -/

/-- The partition that a queue request acts in: the one the PF names, a VF's own. -/
def requestPart (s : State) (fn : Nat) (b : List Byte) : Nat := if fn = 0 then field b 2 1 else (fnPart s fn).getD 0

/-- PARTITION in range: 0 for a VF. -/
def requestPartOk (fn : Nat) (b : List Byte) : Bool := if fn = 0 then field b 2 1 < 32 else field b 2 1 = 0

/-- The queue descriptor keeps Table 5.1. -/
def descriptorOk (fn : Nat) (d : List Byte) : Bool :=
  let slots := field d 16 4
  field d 0 8 % 4096 = 0 && field d 8 8 % 4096 = 0 && 16 ≤ slots && slots ≤ 32768 && slots = 2 ^ Nat.log2 slots
    && bits (field d 20 1) 7 2 = 0 && field d 21 1 < (if fn = 0 then 64 else 8) && allZero (slice d 22 42)

/-- The least number from `n` up, within `fuel` of them, that `used` does not hold. -/
def firstFree (used : Nat → Bool) (n fuel : Nat) : Option Nat :=
  match fuel with
  | 0 => none
  | fuel + 1 => if used n then firstFree used (n + 1) fuel else some n

/-- Create (R306). -/
def createQueue (s : State) (fn : Nat) (m : MboxMsg) : State :=
  let b := m.bytes
  let part := requestPart s fn b
  let d := slice b 64 64
  let held := dnum s (fnIndex fn) 3
  if !requestPartOk fn b || field b 1 1 ≠ 0 then answer s fn m 0x0301 0
  else if dnum s (fnIndex fn) 2 ≤ held then answer s fn m 0x0802 0
  else
    match firstFree (FMap.has s.queues) (dnum s (0x4000 + part) 2) (dnum s (0x4000 + part) 3) with
    | none => answer s fn m 0x0802 0
    | some q =>
      if !descriptorOk fn d then answer s fn m 0x080E 0
      else
        let page := (firstFree (fun i => (pageQueue s fn i).isSome) 0 8192).getD 0
        let Q : Queue := {
          part, fn, page
          ringBase := field d 0 8
          cplBase := field d 8 8
          slots := field d 16 4
          ringHbm := bit (field d 20 1) 0
          cplHbm := bit (field d 20 1) 1
          vector := field d 21 1 }
        let s := { s with queues := FMap.set s.queues q Q }
        let s := bump (bump s (0x4000 + part) 10 1) (fnIndex fn) 3 1
        answer s fn m 0 q

/-- What OP 2 to 5 check before their queue (R298, R309): the status, 0 where the queue is the partition's. -/
def queueRequestStatus (s : State) (fn : Nat) (b : List Byte) (modes : Nat) : Status :=
  if !requestPartOk fn b || modes < field b 1 1 then 0x0301
  else if field b 0 1 = 5 && fn ≠ 0 then 0x0808
  else
    match queueAt s (field b 8 2) with
    | none => 0x0803
    | some Q => if Q.part ≠ requestPart s fn b || (field b 0 1 ≠ 5 && Q.fn ≠ fn) then 0x0803 else 0

/-- Reset of a queue, which ends the job that it serves (R307). -/
def resetWithJob (s : State) (q : Nat) : State :=
  match (queueAt s q).bind Queue.job with
  | none => resetQueue s q
  | some j => endJob s j

/-- Every buffer that a queue owns is freed (R123). -/
def freeOwned (s : State) (q : Nat) : State :=
  ((s.bufs.filter fun e => e.2.ownerQ = some q && !e.2.freed).map Prod.fst).foldl freeBuf s

/-- Reset, free of every buffer owned, release of the number and the doorbell index (R307). -/
def destroyQueue (s : State) (q : Nat) : State :=
  match queueAt s q with
  | none => s
  | some Q =>
    let s := freeOwned (resetWithJob s q) q
    let s := { s with queues := FMap.erase s.queues q }
    let s := dset s (0x4000 + Q.part) 10 (dnum s (0x4000 + Q.part) 10 - 1)
    dset s (fnIndex Q.fn) 3 (dnum s (fnIndex Q.fn) 3 - 1)

/-- A queue request that acts on a queue, once its checks pass. -/
def queueRequest (s : State) (fn : Nat) (m : MboxMsg) (modes : Nat) (run : State → Nat → Nat → State × Status) : State :=
  let st := queueRequestStatus s fn m.bytes modes
  if st ≠ 0 then answer s fn m st 0
  else
    match run s (field m.bytes 8 2) (field m.bytes 1 1) with
    | (s, st) => answer s fn m st 0

/-- Records that the fetched commands of a queue take in the ring. -/
def ringRecords (cs : List Cmd) : Nat := (cs.map fun c => if c.stream.isSome then 0 else c.bytes.length / 64).sum

/-- A command returns to its place before its start; a core that has gated meanwhile is woken again (R377). -/
def restartCmd (s : State) (q : Nat) (c : Cmd) : State :=
  let s := withdraw (discardArray (leaveEngines s q c.uid) q c) q c.uid
  let s := if c.heldTo ≠ 0 then recallSignal s c else s
  let s := if opEngine c.op then requestWake s c.core else s
  updCmd s q c.uid fun c => { c.bare with state := .fetched }

/-- The windows of a queue that RUNs still under way have opened. -/
def Queue.runWindows (Q : Queue) : Queue :=
  Q.withWindows ((Q.window.toList ++ Q.laterWindows).filter fun f => Q.runs.any fun r => r.uid = f)

/-- The queue runs again (R308): the uncommitted ring commands are fetched again, a stream continues from its resume
point, a skipped ring command stands as committed (log entry 31). Ring commands that stand behind a stream are fetched
again too. -/
def restartQueue (s : State) (q : Nat) (skip : Bool) : State × Status :=
  match queueAt s q with
  | none => (s, 0x0803)
  | some Q =>
    let failed := Q.cmds.find? Cmd.failed
    let inStream := (Q.cmds.head?.any fun c => c.stream.isSome) || failed.any fun c => c.stream.isSome
    if !Q.stopped || Q.quarantined || (skip && inStream) then (s, 0x080C)
    else
      let s := updQueue s q fun Q => { Q with stopped := false, stopAt := none }
      match (if skip then failed else none) with
      | some f =>
        let before := Q.cmds.takeWhile fun c => c.uid ≠ f.uid
        let later := Q.cmds.drop (before.length + 1)
        (updQueue s q fun Q =>
          { Q with
            cmds := before
            head := (Q.head + 2 ^ 32 - ringRecords later) % 2 ^ 32
            expected := (Q.expected + 2 ^ 32 - later.length) % 2 ^ 32
            committed := if before.isEmpty then f.seq else Q.committed }, 0)
      | none =>
        let keeps := Q.cmds.filter fun c => c.stream.isSome
        let drops := Q.cmds.filter fun c => c.stream.isNone
        let s := (drops.filter fun c => !c.failed).foldl (fun s c => dropCmd s q c) s
        let s := keeps.foldl (fun s c => restartCmd s q c) s
        let s := updQueue s q fun Q =>
          { Q.runWindows with
            cmds := Q.cmds.filter fun c => c.stream.isSome
            head := (Q.head + 2 ^ 32 - ringRecords drops) % 2 ^ 32
            expected := (Q.expected + 2 ^ 32 - drops.length) % 2 ^ 32 }
        (releaseHeld s, 0)

/-- A quarantine is released; the queue stays stopped (R309). -/
def releaseQueue (s : State) (q : Nat) : State := updQueue s q fun Q => { Q with quarantined := false, offences := [] }

/-! ## Meanings -/

/-- A queue doorbell (R107), behind the internal events of its beat (R468). -/
def execDoorbell (fn page : Nat) (word : W64) (wellSized : Bool) (s : State) : Result :=
  .next (doorbell (settle s) fn page word wellSized)
/-- Queue request OP 1 (R306). -/
def execQueueCreate (fn : Nat) (s : State) : Result := .next (onMessage s fn 1 1 fun s m => createQueue s fn m)
/-- Queue request OP 2 (R307). -/
def execQueueDestroy (fn : Nat) (s : State) : Result :=
  .next (onMessage s fn 1 2 fun s m => queueRequest s fn m 1 fun s q _ => (destroyQueue s q, 0))
/-- Queue request OP 3 (R307). -/
def execQueueReset (fn : Nat) (s : State) : Result :=
  .next (onMessage s fn 1 3 fun s m => queueRequest s fn m 1 fun s q _ => (resetWithJob s q, 0))
/-- Queue request OP 4 (R308). -/
def execQueueRestart (fn : Nat) (s : State) : Result :=
  .next (onMessage s fn 1 4 fun s m => queueRequest s fn m 1 fun s q mode => restartQueue s q (mode = 1))
/-- Queue request OP 5 (R309). -/
def execReleaseQuarantine (fn : Nat) (s : State) : Result :=
  .next (onMessage s fn 1 5 fun s m => queueRequest s fn m 0 fun s q _ => (releaseQueue s q, 0))

end Sys2Proof.Machine
end

