-- ==== Sys2Proof/Machine/Jobs.lean ====
section
/-! DEFINITION. Job requests: submission with its reservations and the job it creates, and the end of a job (R136, R137,
R243, R310, R311, R334, R335). Log entries are notes/assumptions/<n>.md. -/

namespace Sys2Proof.Machine

open Sys2Proof

/-! ## Scale rings (R37, R38, R243) -/

/-- MARGIN in [1.0, 16.0]. -/
def marginOk (m : W32) : Bool := 0x3F800000 ≤ m.toNat && m.toNat ≤ 0x41800000

/-- The rw fields of a ring header (Table 2.4). -/
def ringHeader (b : List Byte) : Ring where
  tensorId := field b 0 4
  init := BitVec.ofNat 32 (field b 4 4)
  margin := BitVec.ofNat 32 (field b 8 4)
  h := field b 20 1
  checked := bit (field b 26 1) 0
  scale := 0
  recip := 0

/-- A ring from a RING section entry, with the base defaults for 0 (R38); none where it is refused. -/
def ringOfEntry (s : State) (b : List Byte) : Option Ring :=
  let g := ringHeader b
  if validScale g.init && (g.margin = 0 || marginOk g.margin) && g.h ≤ 32
      && allZero (slice b 12 8) && allZero (slice b 21 5) && allZero (slice b 32 24) then
    some { g with
      margin := if g.margin = 0 then BitVec.ofNat 32 (eff s 0x2200 2) else g.margin
      h := if g.h = 0 then eff s 0x2200 1 else g.h : Ring }.rescale
  else none

/-- One entry of a ring record (Table 2.5). -/
def ringEntryOf (e : List Byte) : RingEntry where
  amax := BitVec.ofNat 32 (field e 0 4)
  nonfinite := bit (field e 4 1) 2
  skipped := bit (field e 4 1) 1
  batchLo := field e 6 2

/-- A ring from a kind-9 shard's 320 bytes; none where it is refused. -/
def ringOfShard (b : List Byte) : Option Ring :=
  let g := ringHeader b
  let count := field b 22 1
  let head := field b 21 1
  let entry (i : Nat) : List Byte := slice b (64 + 8 * i) 8
  let valid (e : List Byte) : Bool :=
    bit (field e 4 1) 0 && bits (field e 4 2) 15 3 = 0 && field e 0 4 < 0x71800000
  if validScale g.init && marginOk g.margin && 1 ≤ g.h && g.h ≤ 32 && count ≤ g.h && head < g.h
      && (count = g.h || head = count) && field b 23 1 ≤ 8
      && bits (field b 24 8) 63 17 = 0 && allZero (slice b 56 8)
      && (List.range 32).all fun i => if i < count then valid (entry i) else allZero (entry i) then
    some { g with
      head, count, backoff := field b 23 1, calm := field b 24 2, clipped := field b 32 8, elements := field b 40 8
      skippedTotal := field b 48 8
      entries := (List.range count).map fun i => (i, ringEntryOf (entry i)) : Ring }.rescale
  else none

/-- The kind-9 shards of a buffer, by TENSOR_ID; shards lie end to end until a header whose MAGIC is not "FSH1". None where
one fails its CRCs or holds a non-zero reserved field (R242). -/
def shardRings (fuel : Nat) (m : Mem) (size off : Nat) : Option (List (Nat × List Byte)) :=
  match fuel with
  | 0 => some []
  | fuel + 1 =>
    let h := m.read off 128
    let n := field h 112 8
    if size < off + 128 || slice h 0 4 ≠ ascii "FSH1" then some []
    else if field h 4 2 ≠ 9 then shardRings fuel m size (off + 128 + n)
    else
      let d := m.read (off + 128) 320
      if n = 320 && off + 448 ≤ size && field h 6 2 = 0 && field h 22 2 = 0 && field h 30 2 = 0
          && field h 124 4 = crc32c (slice h 0 124) && field h 120 4 = crc32c d then
        (shardRings fuel m size (off + 128 + n)).map fun l => (field h 16 4, d) :: l
      else none

/-- A buffer that a submission names (SHARDS, JOURNAL): its status, 0 where it may be read. -/
def namedStatus (s : State) (fn part h : Nat) (tiers : List Nat) : Status :=
  if h = 0 then 0
  else if !everHeld s part h then 0x0201
  else
    match bufAt s part h with
    | none => 0x0212
    | some b => if b.gen ≠ hGen h then 0x0212 else if b.fn ≠ fn then 0x0211 else if tiers.contains b.tier then 0 else 0x0204

/-- Rings that the partition holds. -/
def partRings (s : State) (part : Nat) : Nat := ((s.jobs.filter fun e => e.2.part = part).map fun e => e.2.rings.length).sum

/-- Check 10: the job's rings, each from its shard where SHARDS holds one, or the status. -/
def ringCheck (s : State) (fn part shards : Nat) (k : List Byte) : Except Status (FMap Ring) :=
  let st := namedStatus s fn part shards [1, 2]
  if st ≠ 0 then .error st
  else
    match (if shards = 0 then some [] else
        shardRings (bufSize s part shards / 128 + 1) (committed s (bufKey part (hIndex shards))) (bufSize s part shards) 0) with
    | none => .error 0x030A
    | some l =>
      let rings := (entriesOf k 8).map fun b =>
        match l.find? fun e => e.1 = field b 0 4 with
        | some e => ringOfShard e.2
        | none => ringOfEntry s b
      if rings.any Option.isNone || 4194304 < partRings s part + rings.length then .error 0x030A
      else .ok ((rings.filterMap id).zipIdx.map fun p => (p.2, p.1))

/-! ## Replay journal (R291) -/

/-- The records of a journal buffer, up to the first that is all zeros. -/
def journalRecords (s : State) (part h : Nat) : List (List Byte) :=
  if h = 0 then []
  else (chunks 32 ((committed s (bufKey part (hIndex h))).read 0 (bufSize s part h))).takeWhile fun r => !allZero r

/-- The status of a journal: that of its buffer, or 0x050A for one that holds a gap. -/
def journalStatus (s : State) (fn part h : Nat) : Status :=
  let st := namedStatus s fn part h [1]
  if st ≠ 0 then st
  else if (journalRecords s part h).any fun r => field r 8 1 = 6 then 0x050A
  else 0

/-! ## Check 12: reservations (R47, R49, R134, R164, R284) -/

/-- The greatest sum of `n` consecutive numbers of a list. -/
def runSum (n : Nat) (l : List Nat) : Nat := maxOf ((List.range l.length).map fun i => ((l.drop i).take n).sum)

/-- The greatest sum over a commit window: runs of numbers whose flag is set, cut after a COMMIT. -/
def windowSum (l : List (Nat × Bool × Bool)) (acc best : Nat) : Nat :=
  match l with
  | [] => best
  | (n, inside, last) :: t =>
    let acc := if inside then acc + n else 0
    windowSum t (if last then 0 else acc) (max best acc)

/-- Bytes of staging for a write through a parameter slot: what the record's fields reach, in HBM and, where the field may
name it, in the capacity tier; an argument never lies in a core store (R136, R153). -/
def paramStaging (s : State) (r : List Byte) (tier o : Nat) : Nat :=
  if tier = 1 || (tier = 2 && (rOp r = 4 || rOp r = 7)) then
    charge64 (reachOf { s with ctxs := [] } r false (fun _ => []) o)
  else 0

/-- Bytes of staging that one record can hold in a tier, for the core store in that of `core`: each container buffer that it
writes, in 64 KiB pages, and its writes through parameter slots (R126, R284). -/
def stagedBytes (s : State) (k : List Byte) (t : KStream) (tier core : Nat) (r : List Byte) : Nat :=
  ((wroteFields k t r).map fun o =>
    if !(handleFields r).contains o || (rOp r = 4 && mDstModule r ≠ 0) then 0
    else
      match symRef (kBufs k).length t (rH r o) with
      | .buf i => if ((kBufs k)[i]?).any fun b => bTier b = tier && (tier ≠ 0 || bCore b = core) then
          charge64 (((kBufs k)[i]?).elim 0 bSize) else 0
      | .param _ => paramStaging s r tier o
      | _ => 0).sum

/-- Staging of one stream in a tier: its largest window or its largest 16 consecutive commands. -/
def streamStaging (s : State) (k : List Byte) (tier core : Nat) (t : KStream) : Nat :=
  let l := t.records.map (stagedBytes s k t tier core)
  let w := (l.zip ((windowFlags false t.records).zip (t.records.map fun r => decide (rOp r = 6))))
  max (runSum 16 l) (windowSum w 0 0)

/-- Staging of a container in a tier, for the core store in that of `core`: for each role the largest of its streams. -/
def kStaging (s : State) (k : List Byte) (tier core : Nat) : Nat :=
  ((List.range (kRoles k)).map fun i =>
    charge64 (maxOf (((kStreams k).filter fun t => t.role = i).map (streamStaging s k tier core)))).sum

/-- The reed-term buffer that a container needs on a core: two slots, each for the terms of its largest final pass there (R88,
R284). -/
def kReedTerms (k : List Byte) (core : Nat) : Nat :=
  maxOf ((kRecords k).map fun p =>
    if rOp p.2 = 1 && rCore p.2 = core && !(covered p.2).isEmpty then
      4096 * maxOf (((List.range (aReds p.2)).filter (aFinal p.2)).map (aFeat p.2))
    else 0)

/-- Bytes that a container reserves in a core store for its commands: staging and the reed-term buffer (R284). -/
def kCoreStaging (s : State) (k : List Byte) (core : Nat) : Nat := kStaging s k 0 core + kReedTerms k core

/-- Save areas: for each role the largest live total over the boundaries of its streams (R134). -/
def kSaves (k : List Byte) : Nat :=
  ((List.range (kRoles k)).map fun i =>
    charge64 (maxOf ((kStreams k).zipIdx.map fun p =>
      if p.1.role = i then maxOf ((List.range (p.1.records.length + 1)).map (liveBytes k p.2)) else 0))).sum

/-- The job pages of a job with a number of rings: observation records, step log, sweep log (R147). -/
def jobPages (rings : Nat) : Nat := 32 * rings + 65536 + 131072

/-- HBM bytes that a job is charged beside its buffers (R164): rings, job pages, staging, save areas. -/
def kReserved (s : State) (k : List Byte) : Nat :=
  320 * (entriesOf k 8).length + jobPages (entriesOf k 8).length + kStaging s k 1 0 + kSaves k

/-- Charges of the container's buffers in a tier. -/
def kBufCharge (k : List Byte) (tier : Nat) : Nat := ((kBufs k).map fun b => if bTier b = tier then charge64 (bSize b) else 0).sum

/-- Cores on which a container's ARRAYs stream weights from HBM, each with a weight window (R174). -/
def kWindows (k : List Byte) : List Nat :=
  let l := (kRecords k).filterMap fun p =>
    if rOp p.2 ≠ 1 then none
    else
      match symRef (kBufs k).length p.1 (rH p.2 20) with
      | .buf i => if ((kBufs k)[i]?).any fun b => bTier b = 1 then some (rCore p.2) else none
      | .param _ => some (rCore p.2)
      | _ => none
  (List.range 32).filter l.contains

/-- Cores on which an admitted job holds a weight window: WGT names an HBM buffer or stands in a parameter slot. -/
def jobWindows (s : State) (J : Job) : List Nat :=
  let l := J.streams.flatMap fun t => t.cmds.zipIdx.filterMap fun p =>
    let bound := t.binds.any fun b => b.1 = p.2 && b.2.1 = 20
    if rOp p.1 = 1 && rH p.1 20 ≠ 0 && (bound || (bufAt s J.part (rH p.1 20)).all fun b => b.tier ≠ 0) then some (rCore p.1) else none
  (List.range 32).filter l.contains

/-- Bytes of a weight window: eight slots of tile and sidecar. -/
def windowBytes : Nat := 532480

/-- The core store of a core holds what is placed and reserved there and what the container adds (R169, R174, R284). -/
def coreFits (s : State) (k : List Byte) (core : Nat) : Bool :=
  let held := (s.bufs.map fun e => if e.2.tier = 0 && e.2.core = core then e.2.size else 0).sum
  let windows := (s.jobs.filter fun e => (jobWindows s e.2).contains core).length + if (kWindows k).contains core then 1 else 0
  let new := ((kBufs k).map fun b => if bTier b = 0 && bCore b = core then roundUp (bSize b) (2 ^ bAlign b) else 0).sum
  let staging := kCoreStaging s k core + (s.jobs.map fun e => FMap.getD e.2.coreStaging core 0).sum
  held + new + windowBytes * windows + staging ≤ 40 * 2 ^ 20

/-- A sync block of the partition holds an object. -/
def syncOwned (s : State) (part o : Nat) : Bool := bit (leNat (dblob s (0x4000 + part) 4)) (o / 256)

/-- The object that a SYNC section entry takes: the lowest free one of the partition in its cluster (R267). -/
def freeObject (s : State) (part cluster : Nat) : Option Nat :=
  firstFree (fun o => FMap.has s.sync o || !syncOwned s part o) (8192 * cluster) 8192

/-- Free objects of a partition in a cluster. -/
def freeObjects (s : State) (part cluster : Nat) : Nat :=
  ((List.range 32).filter fun b => bit (leNat (dblob s (0x4000 + part) 4)) (32 * cluster + b)).length * 256
    - (s.sync.filter fun e => e.1 / 8192 = cluster && syncOwned s part e.1).length

/-- The clusters' sync objects suffice. -/
def syncsFit (s : State) (part : Nat) (k : List Byte) : Bool :=
  (List.range 8).all fun c => ((entriesOf k 10).filter fun e => ySecCluster e = c).length ≤ freeObjects s part c

/-- An engine lies on a reduction's route for a core set. -/
def routeHas (cores : List Nat) (d : RedDecl) (engine : Nat) : Bool :=
  (bit d.route 0 && engine < 8 && cores.any fun c => c / 4 = engine) || (bit d.route 1 && 8 ≤ engine)

/-- Slots that declared reductions reserve on an engine (R47). -/
def slotsOn (cores : List Nat) (ds : List RedDecl) (engine : Nat) : Nat :=
  (ds.map fun d => if routeHas cores d engine then d.partials - 1 else 0).sum

/-- Every engine's slots suffice: 1,024 of a cluster engine, 4,096 of a hub engine. -/
def slotsFit (s : State) (k : List Byte) : Bool :=
  (List.range 10).all fun e =>
    (s.jobs.map fun j => slotsOn j.2.coreSet j.2.reds e).sum + slotsOn (kCores k) (kReds k) e ≤ if e < 8 then 1024 else 4096

/-- Live and retired indices of a partition. -/
def indicesUsed (s : State) (part : Nat) : Nat := (s.index.filter fun e => keyPart e.1 = part && (e.2.live || e.2.retired)).length

/-- Check 12. -/
def reservationCheck (s : State) (fn part : Nat) (k : List Byte) : Bool :=
  (groupedStop s || !(kGrouped k || (kRecords k).any fun p => rOp p.2 = 1 && aGrouped p.2))
    && ((kCores k).all fun c => inMask s (c / 4))
    && mayCharge s part fn 1 (kReserved s k + kBufCharge k 1)
    && mayCharge s part fn 2 (kStaging s k 2 0 + kBufCharge k 2)
    && indicesUsed s part + (kBufs k).length ≤ 2 ^ 20 - 1
    && (kCores k).all (coreFits s k) && syncsFit s part k && slotsFit s k

/-! ## The job (R136) -/

/-- The container's buffers placed in order; answers their handles. -/
def placeBufs (s : State) (fn part job : Nat) (roles : List Nat) (k : List Byte) : State × List Nat :=
  (kBufs k).foldl (fun p b =>
    let s := p.1
    let i := lowestFree s part
    let gen := nextGen s part i
    let x : Buf := { bufOf b with
      gen, ownerQ := roles[bOwner b]?, fn, job := some job, data := Mem.write [] 0 (initBytes k b (bSize b)) }
    let s := placeBuf s part i (2 ^ field b 18 1) x
    let s := if bTier b = 0 then s else charge s part fn (bTier b) (charge64 (bSize b))
    (s, p.2 ++ [mkHandle gen i])) (s, [])

/-- A record with its symbols replaced by the handles of the container's buffers. -/
def bindSymbols (k : List Byte) (t : KStream) (handles : List Nat) (r : List Byte) : List Byte :=
  (handleFields r).foldl (fun r o =>
    match symRef (kBufs k).length t (rH r o) with
    | .buf i => patch r o (toLe 4 (handles.getD i 0))
    | _ => r) r

/-- The parameter references of a stream: command, offset, slot. -/
def paramRefs (k : List Byte) (t : KStream) : List (Nat × Nat × Nat) :=
  t.records.zipIdx.flatMap fun p => (handleFields p.1).filterMap fun o =>
    match symRef (kBufs k).length t (rH p.1 o) with
    | .param n => some (p.2, o, n)
    | _ => none

/-- A stream of the job. -/
def bindStream (k : List Byte) (handles : List Nat) (t : KStream) : Stream where
  role := t.role
  params := t.params
  cmds := t.records.map (bindSymbols k t handles)
  binds := paramRefs k t

/-- A new sync object (Table 11.1). -/
def newSync (s : State) (job : Nat) (e : List Byte) : SyncObj :=
  let n := ySecInit e
  let o : SyncObj := { type := ySecType e, job, changed := s.now }
  match ySecType e with
  | 1 => { o with value := n }
  | 2 => { o with value := n }
  | 4 => { o with parties := n % 2 ^ 14, jobWide := bit n 16 }
  | _ => o

/-- The job's sync objects taken in order; answers their numbers. -/
def placeSyncs (s : State) (part job : Nat) (k : List Byte) : State × List Nat :=
  (entriesOf k 10).foldl (fun p e =>
    match freeObject p.1 part (ySecCluster e) with
    | none => p
    | some o => (bump (putSync p.1 o (newSync p.1 job e)) 0x6F10 (ySecCluster e + 1) 1, p.2 ++ [o])) (s, [])

/-- JOB_ID of a job request. -/
def qJob (b : List Byte) : Nat := field b 8 8
/-- MODULES of a job request; encoded as the count − 1. -/
def qModules (b : List Byte) : Nat := field b 66 2 + 1
/-- MODULE. -/
def qModule (b : List Byte) : Nat := field b 64 2
/-- ROLE_MAP. -/
def qRoles (b : List Byte) : List Nat := (List.range (field b 2 2)).map fun i => field b (128 + 2 * i) 2

/-- The job that an admitted container makes: reservations charged, buffers and objects placed, its queues serving it. -/
def createJob (s : State) (fn part : Nat) (b k : List Byte) (rings : FMap Ring) (digest : List Byte) : State :=
  let id := qJob b
  let roles := qRoles b
  let journal := field b 60 4
  let recs := journalRecords s part journal
  let reserved := kReserved s k
  let cap := kStaging s k 2 0
  let stores := (kCores k).map fun core => (core, kCoreStaging s k core)
  let s := charge (charge s part fn 1 reserved) part fn 2 cap
  let (s, handles) := placeBufs s fn part id roles k
  let (s, syncs) := placeSyncs s part id k
  let depth := treeDepth s part (qModules b)
  let J : Job := {
    part, fn
    priority := field b 1 1
    seed := BitVec.ofNat 64 (field b 16 8)
    batch := field b 24 8
    updates := field b 32 6
    moduleIdx := qModule b
    modules := qModules b
    digest
    baseDigest := kDigest k
    grouped := kGrouped k
    roles
    streams := (kStreams k).map (bindStream k handles)
    bufs := handles
    rings
    reds := kReds k
    syncs
    live := kLive k
    coreSet := kCores k
    clipT := eff s 0x2200 3
    calmL := eff s 0x2200 4
    reserved
    reservedCap := cap
    coreStaging := stores.filter fun e => e.2 ≠ 0
    barrierDepth := depth
    replay := if journal = 0 then none else some recs }
  let s := { s with jobs := FMap.set s.jobs id J }
  let s := roles.foldl (fun s q => updQueue s q fun Q => { Q with job := some id }) s
  let s := if journal = 0 then s else dset (dset s 0x6F00 11 0) 0x6F00 12 0
  dset (bump s (0x4000 + part) 9 1) 0x6F00 3 depth

/-! ## Submission (R310, R311) -/

/-- The partition of a job: that of its queues. -/
def submitPart (s : State) (fn : Nat) (roles : List Nat) : Nat :=
  match roles.head?.bind (queueAt s) with
  | some Q => Q.part
  | none => (fnPart s fn).getD 0

/-- The queues of ROLE_MAP belong to the function, lie in one partition and serve no job. -/
def rolesStatus (s : State) (fn : Nat) (roles : List Nat) : Status :=
  let part := submitPart s fn roles
  if !(roles.all fun q => (queueAt s q).any fun Q => Q.fn = fn && Q.part = part) then 0x0803
  else if !nodup roles || !(roles.all fun q => (queueAt s q).any fun Q => Q.job.isNone) then 0x0804
  else 0

/-- What a submission checks before it reads the container (Table 12.8, R311, R334). -/
def submitStatus (s : State) (fn : Nat) (b : List Byte) : Status :=
  let roles := qRoles b
  let modules := qModules b
  let table := placement s (submitPart s fn roles)
  if 7 < field b 1 1 || 256 < field b 2 2 || field b 38 2 ≠ 0 || field b 40 8 % 4096 ≠ 0 || 4096 < modules || modules ≤ qModule b then
    0x0301
  else if eff s (fnIndex fn) 4 < field b 1 1 then 0x080A
  else if FMap.has s.jobs (qJob b) then 0x080B
  else if rolesStatus s fn roles ≠ 0 then rolesStatus s fn roles
  else if 1 < modules && (table.length < modules || table[qModule b]? ≠ some (moduleId s)) then 0x0A03
  else 0

/-- Admission of a container (Table 5.20): the rings it gives, or the status of the first check that fails. -/
def admissionChecks (s : State) (fn part : Nat) (b k : List Byte) : Except Status (FMap Ring) :=
  if !headerCheck k || field b 48 8 ≠ k.length then .error 0x0306
  else if !tableCheck k then .error 0x0306
  else if field k 40 1 ≠ 0x41 || field k 44 4 ≠ qModules b then .error 0x0307
  else if !baseCheck s part (kDigest k) then .error 0x0308
  else if !reservedCheck k then .error 0x0302
  else if opcodeCheck k ≠ 0 then .error (opcodeCheck k)
  else if rangeCheck s k (qModules b) (qModule b) (field b 2 2) ≠ 0 then .error (rangeCheck s k (qModules b) (qModule b) (field b 2 2))
  else if referenceCheck s part k ≠ 0 then .error (referenceCheck s part k)
  else if firstStatus ((kRecords k).map fun p => programCheck k p.1 p.2) ≠ 0 then
    .error (firstStatus ((kRecords k).map fun p => programCheck k p.1 p.2))
  else
    match ringCheck s fn part (field b 56 4) k with
    | .error st => .error st
    | .ok rings =>
      if !rangesCheck k then .error 0x030D
      else if journalStatus s fn part (field b 60 4) ≠ 0 then .error (journalStatus s fn part (field b 60 4))
      else if !reservationCheck s fn part k then .error 0x0304
      else .ok rings

/-- The rings of a submission that passes every check, or its status: the request's own checks, spare state, admission. -/
def submitChecks (s : State) (fn part : Nat) (b k : List Byte) : Except Status (FMap Ring) :=
  if submitStatus s fn b ≠ 0 then .error (submitStatus s fn b)
  else if s.win.spareState then .error (unnamedRefusal s)
  else admissionChecks s fn part b k

/-- Submission: the checks, the audit record of the admission or the refusal, the job. A full audit log refuses every
submission (R367). -/
def submitJob (s : State) (fn : Nat) (m : MboxMsg) (container : List Byte) : State :=
  let b := m.bytes
  if auditFull s then answer s fn m 0x0711 0
  else
    let part := submitPart s fn (qRoles b)
    let k := container.take (field b 48 8)
    let digest := sha384 k
    let checked := { s with fresh := s.fresh + 1 }
    match submitChecks s fn part b k with
    | .error st => answer (auditAdmission checked fn (qJob b) st digest) fn m st 0
    | .ok rings => answer (auditAdmission (createJob checked fn part b k rings digest) fn (qJob b) 0 digest) fn m 0 0

/-- End of a job by request. -/
def endRequest (s : State) (fn : Nat) (m : MboxMsg) : State :=
  let mode := field m.bytes 38 2
  if 1 < mode then answer s fn m 0x0301 0
  else if !((jobAt s (qJob m.bytes)).any fun J => J.fn = fn) then answer s fn m 0x0803 0
  else answer (endJob s (qJob m.bytes)) fn m 0 0

/-! ## Meanings -/

/-- Job request OP 1 (R310). `container` is what the read of host memory returned. -/
def execJobSubmit (fn : Nat) (container : List Byte) (s : State) : Result :=
  .next (onMessage s fn 2 1 fun s m => submitJob s fn m container)
/-- Job request OP 2 (R311). -/
def execJobEnd (fn : Nat) (s : State) : Result := .next (onMessage s fn 2 2 fun s m => endRequest s fn m)

end Sys2Proof.Machine
end

