-- ==== Sys2Proof/Machine/Reeds.lean ====
section
/-! DEFINITION. Reeds: keys, images and contracts, the directory, binding, sealing, base generations (R193 to R214). Log
entries are notes/assumptions/<n>.md. -/

namespace Sys2Proof.Machine

open Sys2Proof

/-! ## Key records (R193 to R196) -/

/-- The current KEY_ID of a slot. -/
def keyIdOf (s : State) (slot : Nat) : Nat := FMap.getD s.keyGens slot 0 * 2 ^ 14 + slot

/-- The record that a KEY_ID names; none where its generation is not current. -/
def keyRecord (s : State) (id : Nat) : Option KeyRec :=
  if keyIdOf s (id % 2 ^ 14) = id then FMap.get? s.keys (id % 2 ^ 14) else none

/-- The record that a function may name by a KEY_ID. -/
def keyFor (s : State) (fn id : Nat) : Option KeyRec := (keyRecord s id).filter fun k => fn = 0 || k.fn = fn

/-- The key pair of a partition (R194): drawn when it is first looked at (log entry 36). -/
def partKey (s : State) (part : Nat) : State × (Nat × PubKey) :=
  match (partAt s part).keyPair with
  | some k => (s, k)
  | none =>
    let k := keyPairOf (random512 s)
    (updPart (drawn s 64) part fun p => { p with keyPair := some k }, k)

/-- OWNER of a key registration. -/
def kOwner (b : List Byte) : Nat := field b 4 4

/-- Step 1 of R195. -/
def keyMessageOk (b : List Byte) : Bool := field b 1 3 = 0 && kOwner b ≠ 0 && allZero (slice b 244 44)

/-- The request that a registration under way answers. -/
def regMessage (r : KeyReg) : MboxMsg := { cls := 4, seq := r.seq, frames := 6, bytes := r.message, arrived := 0 }

/-- The partition in which a function's reed request acts when no queue names one: a VF's own, P0 for the PF (log entry
35). -/
def reedPart (s : State) (fn : Nat) : Nat := (fnPart s fn).getD 0

/-- A key registration begins: its signature goes to the leader's engine. -/
def beginKeyRegistration (s : State) (fn : Nat) (m : MboxMsg) : State :=
  let b := m.bytes
  if !keyMessageOk b then answer s fn m 0x0102 0
  else
    submitEngine s (leader s)
      (.verify (decodeKey (slice b 8 96)) (sha384 (slice b 0 288)) (beNat (slice b 288 48)) (beNat (slice b 336 48)))
      .reedKey (.keyVerify fn { message := b, seq := m.seq, part := reedPart s fn })

/-- The signature has been verified: the shared secret is computed. -/
def keyVerified (s : State) (fn : Nat) (r : KeyReg) (o : EngineOut) : State :=
  if o.status = 0x0704 then answer s fn (regMessage r) 0x010E 0
  else if o.status ≠ 0 then answer s fn (regMessage r) o.status 0
  else
    let (s, k) := partKey s r.part
    submitEngine s (leader s) (.ecdh k.1 (decodeKey (slice r.message 104 96))) .reedKey (.keyEcdh fn r)

/-- Another owner holds a key record of the partition while Sealed is active (R214). -/
def secondOwner (s : State) (part owner : Nat) : Bool := sealed s && s.keys.any fun e => e.2.part = part && e.2.owner ≠ owner

/-- The shared secret is known: steps 4 to 6 of R195. -/
def keyShared (s : State) (fn : Nat) (r : KeyReg) (o : EngineOut) : State :=
  let b := r.message
  let m := regMessage r
  let (s, k) := partKey s r.part
  if o.status ≠ 0 then answer s fn m o.status 0
  else
    let kek := hkdf384 (sha384 (encodeKey k.2)) o.output (ascii "FGS-REED-KEK" ++ toLe 4 (kOwner b)) 32
    match Aes.unwrap kek (slice b 200 40) with
    | none => answer s fn m 0x010D 0
    | some key =>
      if secondOwner s r.part (kOwner b) then answer s fn m 0x0113 0
      else if dnum s (0x4E00 + r.part) 2 ≤ dnum s (0x4E00 + r.part) 3 then answer s fn m 0x010F 0
      else
        match firstFree (FMap.has s.keys) 0 16384 with
        | none => answer s fn m 0x010F 0
        | some slot =>
          let rec_ : KeyRec := { part := r.part, owner := kOwner b, pub := decodeKey (slice b 8 96), key, fn, sealCount := 0 }
          let s := bump { s with keys := FMap.set s.keys slot rec_ } (0x4E00 + r.part) 3 1
          answer s fn m 0 (keyIdOf s slot)

/-! ## Requests (R202) -/

/-- QUEUE. -/
def dQueue (b : List Byte) : Nat := field b 2 2
/-- DIR_INDEX. -/
def dIndex (b : List Byte) : Nat := field b 4 4
/-- LOCATION. -/
def dLocation (b : List Byte) : Nat := field b 1 1
/-- CONTEXT. -/
def dContext (b : List Byte) : Nat := field b 8 2
/-- HANDLE. -/
def dHandle (b : List Byte) : Nat := field b 12 4

/-- Reserved fields of a reed request are 0. -/
def reedMessageOk (b : List Byte) : Bool := dQueue b < 8192 && field b 10 2 = 0 && allZero (slice b 32 32)

/-- The operations that name a queue: serve bind, train bind, seal. -/
def reedNeedsQueue (op : Nat) : Bool := op = 4 || op = 5 || op = 7

/-- The queue that a request names, where it is the function's. -/
def reedQueue (s : State) (fn : Nat) (b : List Byte) : Option Queue := (queueAt s (dQueue b)).filter fun Q => Q.fn = fn

/-- The partition of a request: its queue's, or the function's. -/
def requestReedPart (s : State) (fn : Nat) (b : List Byte) : Nat :=
  if reedNeedsQueue (field b 0 1) then ((reedQueue s fn b).map Queue.part).getD (reedPart s fn) else reedPart s fn

/-- The key of a directory entry. -/
def dirKey (part index : Nat) : Nat := 2 ^ 22 * part + index
/-- A directory entry that is USED. -/
def dirAt (s : State) (part index : Nat) : Option DirEntry :=
  if index < 2 ^ 22 then FMap.get? s.dirs (dirKey part index) else none
/-- The state with a directory entry changed. -/
def updDir (s : State) (part index : Nat) (f : DirEntry → DirEntry) : State :=
  { s with dirs := FMap.modify s.dirs (dirKey part index) f }

/-- An earlier request holds the entry's lock: a bind that streams, an unbind that waits. -/
def entryLocked (s : State) (part index : Nat) : Bool :=
  s.ctxs.any fun e => e.2.part = part && e.2.dir = index && e.2.answer.isSome

/-- The directory entry that a reed request names; a key request names none. -/
def reedObject (s : State) (fn : Nat) (m : MboxMsg) : Option Nat :=
  if field m.bytes 0 1 ≤ 7 then some (dirKey (requestReedPart s fn m.bytes) (dIndex m.bytes)) else none

/-- The reed request at the head is consumed and runs; one whose entry is locked, or that came after another function's
request on the entry, waits (R202). -/
def onReed (s : State) (fn op : Nat) (run : State → MboxMsg → State) : State :=
  match headMessage s fn with
  | none => s
  | some m =>
    if entryLocked s (requestReedPart s fn m.bytes) (dIndex m.bytes)
        || earlierHead s fn m (fun x => dQueue x.bytes) (reedObject s) then s
    else onMessage s fn 4 op fun s m => if reedMessageOk m.bytes then run s m else answer s fn m 0x0102 0

/-! ## Images (R197 to R199) -/

/-- One reed image's header and contract. -/
def imContract (im : List Byte) : List Byte := slice im 64 (field im 4 4)
/-- IMAGE_BYTES. -/
def imBytes (im : List Byte) : Nat := field im 8 8
/-- BLOB_OFF. -/
def imBlobOff (im : List Byte) : Nat := field im 16 8
/-- BLOB_BYTES. -/
def imBlobBytes (im : List Byte) : Nat := field im 24 8
/-- RANK of a contract. -/
def coRank (c : List Byte) : Nat := field c 72 2
/-- LAYERS. -/
def coLayers (c : List Byte) : Nat := field c 78 2
/-- PURPOSE. -/
def coPurpose (c : List Byte) : Nat := field c 75 1
/-- PLACEMENT. -/
def coPlacement (c : List Byte) : Nat := field c 76 1
/-- Target entry `i`: LAYER, K, N_F. -/
def coTarget (c : List Byte) (i : Nat) : Nat × Nat × Nat :=
  let e := slice c (128 + 16 * i) 16
  (field e 0 2, field e 4 4, field e 8 4)
/-- The target entries. -/
def coTargets (c : List Byte) : List (Nat × Nat × Nat) := (List.range (coLayers c)).map (coTarget c)

/-- Contexts' targets of a serve working copy, and its size (R199). -/
def serveTargets (rank : Nat) (ts : List (Nat × Nat × Nat)) : List ReedTarget × Nat :=
  let p := ts.foldl (fun (p : List ReedTarget × Nat × Nat) t =>
    let (_, _, _, _, next) := servePart p.2.1 rank t.2.1 t.2.2
    (p.1 ++ [{ layer := t.1, k := t.2.1, nf := t.2.2, wqA := p.2.1, uRing := p.2.2 : ReedTarget }], next, p.2.2 + 1))
    ([], pad64 (8 * ts.length), 0)
  (p.1, p.2.1)

/-- Locations that a placement class allows (Table 8.5). -/
def placementAllows (cls location : Nat) : Bool :=
  match cls with
  | 0 => location = 1
  | 1 => location = 1 || location = 2
  | 2 => 1 ≤ location && location ≤ 4
  | 3 => location = 4
  | _ => false

/-- LAYER values rise strictly. -/
def rising (l : List Nat) : Bool :=
  match l with
  | [] => true
  | [_] => true
  | a :: b :: t => a < b && rising (b :: t)

/-- The contract's layout, ranges and reserved fields (Tables 8.3 and 8.4); RANK has a check of its own. -/
def contractOk (c : List Byte) : Bool :=
  let ts := coTargets c
  slice c 0 4 = ascii "FRC1" && field c 68 4 ≠ 0 && field c 74 1 = 1 && coPurpose c ≠ 0 && coPurpose c < 4
    && field c 77 1 = 0 && allZero (slice c 80 48) && 1 ≤ coLayers c && coLayers c ≤ 1024
    && (List.range (coLayers c)).all (fun i => field c (128 + 16 * i + 2) 2 = 0 && field c (128 + 16 * i + 12) 4 = 0)
    && ts.all (fun t => t.2.1 ≠ 0 && t.2.2 ≠ 0) && rising (ts.map fun t => t.1)

/-- Header and contract agree with each other and with the size of what holds the image. -/
def reedImageOk (im : List Byte) (room : Option Nat) : Bool :=
  let c := imContract im
  slice im 0 4 = ascii "FRI1" && allZero (slice im 44 20)
    && field im 4 4 ≤ 128 + 16 * 1024 + 96 && contractOk c && field im 4 4 = 128 + 16 * coLayers c + 96
    && imBlobOff im % 64 = 0 && 64 + field im 4 4 ≤ imBlobOff im
    && imBlobBytes im = (serveTargets (coRank c) (coTargets c)).2
    && imBytes im = imBlobOff im + imBlobBytes im + 16 && room.all (imBytes im ≤ ·)

/-- Where an image is read from: a buffer for LOCATION 1 and 2, what the read returned for 3 and 4. -/
def imageAt (s : State) (part location handle : Nat) (image : List Byte) : List Byte :=
  if location ≤ 2 then (committed s (bufKey part (hIndex handle))).read 0 (64 + 128 + 16 * 1024 + 96) else image

/-- The size of the buffer that holds an image. -/
def imageRoom (s : State) (part location handle : Nat) : Option Nat := if location ≤ 2 then some (bufSize s part handle) else none

/-- The buffer of LOCATION 1 lies in HBM, that of 2 in the capacity tier, and the function may name it. -/
def imageBufStatus (s : State) (fn part location handle : Nat) : Status :=
  if location = 0 || 2 < location then 0 else if handle = 0 then 0x0201 else namedStatus s fn part handle [location]

/-! ## Register, relocate, remove (R203) -/

/-- A base is resident and has the contract's digest. -/
def residentBase (s : State) (part : Nat) (digest : List Byte) : Bool :=
  let st := dnum s (0x5600 + part) 1
  (st = 2 || st = 3) && digest = dblob s (0x5600 + part) 2

/-- The base generation of a partition (R204). -/
def baseGen (s : State) (part : Nat) : Nat := dnum s (0x4E00 + part) 5

/-- The checks of R203 in order; 0 where the entry may be written. -/
def registerStatus (s : State) (fn part : Nat) (b im : List Byte) : Status :=
  let c := imContract im
  let st := imageBufStatus s fn part (dLocation b) (dHandle b)
  let rec_ := (keyFor s fn (field c 64 4)).filter fun k => k.part = part && k.owner = field c 4 4
  if dnum s (0x4E00 + part) 1 ≤ dIndex b then 0x0101
  else if st ≠ 0 then st
  else if !reedImageOk im (imageRoom s part (dLocation b) (dHandle b)) || !placementAllows (coPlacement c) (dLocation b) then 0x0102
  else if coRank c = 0 || 256 < coRank c then 0x010B
  else
    match rec_ with
    | none => 0x0111
    | some k =>
      if !signatureOk k.pub (sha384 (c.take (c.length - 96))) (c.drop (c.length - 96)) then 0x010E
      else if !residentBase s part (slice c 16 48) then 0x0108
      else
        match dirAt s part (dIndex b) with
        | none => 0
        | some e => if e.bound then 0x0109 else if e.reedId = field c 8 8 && e.version < field c 68 4 then 0 else 0x0110

/-- Register (OP 1). -/
def registerReed (s : State) (fn : Nat) (m : MboxMsg) (image : List Byte) : State :=
  let b := m.bytes
  let part := reedPart s fn
  let loc := dLocation b
  let im := imageAt s part loc (dHandle b) image
  let c := imContract im
  let st := registerStatus s fn part b im
  if st ≠ 0 then answer s fn m st 0
  else
    let e : DirEntry := {
      reedId := field c 8 8
      addr := if loc ≤ 2 then 0 else field b 16 8
      imageBytes := imBytes im
      keyId := field c 64 4
      version := field c 68 4
      baseGen := baseGen s part
      location := loc
      rank := coRank c
      placement := coPlacement c
      owner := field c 4 4
      layers := coLayers c
      purpose := coPurpose c
      handle := if loc ≤ 2 then dHandle b else 0
      contract := c
      header := slice im 0 64 }
    answer { s with dirs := FMap.set s.dirs (dirKey part (dIndex b)) e } fn m 0 0

/-- Relocate (OP 2). -/
def relocateReed (s : State) (fn : Nat) (m : MboxMsg) (image : List Byte) : State :=
  let b := m.bytes
  let part := reedPart s fn
  let loc := dLocation b
  match dirAt s part (dIndex b) with
  | none => answer s fn m 0x0101 0
  | some e =>
    let im := imageAt s part loc (dHandle b) image
    let st := imageBufStatus s fn part loc (dHandle b)
    if e.baseGen ≠ baseGen s part then answer s fn m 0x0107 0
    else if e.bound then answer s fn m 0x0109 0
    else if st ≠ 0 then answer s fn m st 0
    else if !placementAllows e.placement loc || !reedImageOk im (imageRoom s part loc (dHandle b)) || imContract im ≠ e.contract then
      answer s fn m 0x0102 0
    else
      let s := updDir s part (dIndex b) fun e =>
        { e with
          location := loc, header := slice im 0 64
          addr := if loc ≤ 2 then 0 else field b 16 8, handle := if loc ≤ 2 then dHandle b else 0 }
      answer s fn m 0 0

/-- Remove (OP 3). -/
def removeReed (s : State) (fn : Nat) (m : MboxMsg) : State :=
  let part := reedPart s fn
  match dirAt s part (dIndex m.bytes) with
  | none => answer s fn m 0x0101 0
  | some e =>
    if e.bound then answer s fn m 0x0109 0
    else answer { s with dirs := FMap.erase s.dirs (dirKey part (dIndex m.bytes)) } fn m 0 0

/-- Remove key (OP 9): the slot's generation increments. -/
def removeKey (s : State) (fn : Nat) (m : MboxMsg) : State :=
  let id := field m.bytes 28 4
  let slot := id % 2 ^ 14
  match keyFor s fn id with
  | none => answer s fn m 0x0111 0
  | some k =>
    if fn ≠ 0 && k.part ≠ reedPart s fn then answer s fn m 0x0111 0
    else if s.dirs.any fun e => e.1 / 2 ^ 22 = k.part && e.2.keyId = id then answer s fn m 0x010C 0
    else
      let s := { s with
        keys := FMap.erase s.keys slot
        keyGens := FMap.put 0 s.keyGens slot ((FMap.getD s.keyGens slot 0 + 1) % 2 ^ 18) }
      answer (dset s (0x4E00 + k.part) 3 (dnum s (0x4E00 + k.part) 3 - 1)) fn m 0 0

/-! ## Binding (R207 to R210) -/

/-- A context lies in a partition's range. -/
def ctxOwned (s : State) (part ctx : Nat) : Bool :=
  let first := dnum s (0x4000 + part) 5
  first ≤ ctx && ctx < first + dnum s (0x4000 + part) 6

/-- The lowest free context of a partition. -/
def freeCtx (s : State) (part : Nat) : Option Nat :=
  firstFree (FMap.has s.ctxs) (dnum s (0x4000 + part) 5) (dnum s (0x4000 + part) 6)

/-- The context that a bind takes. -/
def chosenCtx (s : State) (part : Nat) (b : List Byte) : Option Nat :=
  if dContext b = 0xFFFF then freeCtx s part else some (dContext b)

/-- The checks of R208 but for the quota, in order: a status with its RESULT. `need` is the PURPOSE bit. -/
def bindStatus (s : State) (Q : Queue) (b : List Byte) (need : Nat) : Status × Nat :=
  let part := Q.part
  if !((Q.job.bind (jobAt s)).any fun J => !allZero J.baseDigest) then (0x0108, 0)
  else
    match dirAt s part (dIndex b) with
    | none => (0x0101, 0)
    | some e =>
      if e.baseGen ≠ baseGen s part then (0x0107, 0)
      else if !bit e.purpose need then (0x0102, 0)
      else if e.bound then (0x0109, e.context)
      else if dContext b ≠ 0xFFFF && !ctxOwned s part (dContext b) then (0x0105, 0)
      else if dContext b ≠ 0xFFFF && FMap.has s.ctxs (dContext b) then (0x0104, 0)
      else if dContext b = 0xFFFF && (freeCtx s part).isNone then (0x0103, 0)
      else (0, 0)

/-- A context taken by a bind, with its entry BOUND. -/
def takeCtx (s : State) (ctx : Nat) (x : Ctx) : State :=
  let s := { s with ctxs := FMap.set s.ctxs ctx x }
  bump (updDir s x.part x.dir fun e => { e with bound := true, context := ctx }) (0x4E00 + x.part) 4 1

/-- A context freed: its charge returns, BOUND clears. -/
def releaseCtx (s : State) (ctx : Nat) : State :=
  match FMap.get? s.ctxs ctx with
  | none => s
  | some x =>
    let s := uncharge { s with ctxs := FMap.erase s.ctxs ctx } x.part x.fn 1 x.charge
    let s := updDir s x.part x.dir fun e => if e.context = ctx then { e with bound := false, context := 0 } else e
    dset s (0x4E00 + x.part) 4 (dnum s (0x4E00 + x.part) 4 - 1)

/-- A request on a queue of the function. -/
def withReedQueue (s : State) (fn : Nat) (m : MboxMsg) (run : Queue → State) : State :=
  match reedQueue s fn m.bytes with
  | none => answer s fn m 0x0803 0
  | some Q => run Q

/-- Serve bind (OP 4): the checks, the contract read, and the blob's stream begins. -/
def serveBind (s : State) (fn : Nat) (m : MboxMsg) (image : List Byte) : State :=
  withReedQueue s fn m fun Q =>
    let b := m.bytes
    let (st, res) := bindStatus s Q b 0
    if st ≠ 0 then answer s fn m st res
    else
      match dirAt s Q.part (dIndex b), chosenCtx s Q.part b with
      | some e, some ctx =>
        let job := Q.job.getD 0
        let jfn := ((jobAt s job).map Job.fn).getD fn
        let (targets, size) := serveTargets e.rank (coTargets e.contract)
        let n := charge64 size
        let im := imageAt s Q.part e.location e.handle image
        if !mayCharge s Q.part jfn 1 n then answer s fn m 0x0681 0
        else if !reedImageOk im none || imContract im ≠ e.contract then answer s fn m 0x0102 0
        else
          let s := updDir s Q.part (dIndex b) fun e => { e with header := slice im 0 64 }
          takeCtx (charge s Q.part jfn 1 n) ctx {
            state := .binding
            part := Q.part
            dir := dIndex b
            job
            queue := dQueue b
            serve := true
            rank := e.rank
            targets
            baseGen := e.baseGen
            charge := n
            fn := jfn
            began := m.arrived
            answer := some (fn, m.seq, messageTag 4 b) }
      | _, _ => s

/-- The answer that a context's request waits for. -/
def answerCtx (s : State) (x : Ctx) (st : Status) (result : Nat) : State :=
  match x.answer with
  | none => s
  | some (fn, seq, tag) => respond s fn 4 seq (response32 s tag st result)

/-- The blob has been read, or its read has failed three times. `blob` is what the reads of LOCATION 3 and 4 returned: the
ciphertext and its tag. -/
def serveBindComplete (s : State) (ctx : Nat) (blob : List Byte) (readOk : Bool) : State :=
  match FMap.get? s.ctxs ctx with
  | none => s
  | some x =>
    if x.state ≠ .binding then s
    else
      match dirAt s x.part x.dir with
      | none => s
      | some e =>
        let n := imBlobBytes e.header
        let data := if e.location ≤ 2 then (committed s (bufKey x.part (hIndex e.handle))).read (imBlobOff e.header) (n + 16)
          else slice blob 0 (n + 16)
        let key := ((keyRecord s e.keyId).map KeyRec.key).getD []
        let refuse (st : Status) : State := releaseCtx (answerCtx s x st 0) ctx
        if !readOk then refuse 0x0112
        else
          match Gcm.open key (slice e.header 32 12) e.contract (data.take n) (data.drop n) with
          | none => refuse 0x010A
          | some plain =>
            if e.baseGen ≠ baseGen s x.part then refuse 0x0107
            else
              let s := { s with ctxs := FMap.set s.ctxs ctx { x with state := .bound, copy := Mem.write [] 0 plain, answer := none } }
              let s := bump (bump s (0x4E00 + x.part) 6 1) (0x4E00 + x.part) 7 (s.now - x.began)
              answerCtx s x 0 ctx

/-- The train state table entry of a target: WQ handles of A and B, ring of s_u. -/
def trainEntry (table : List Byte) (i : Nat) : Nat × Nat × Nat :=
  (field table (32 * i) 4, field table (32 * i + 4) 4, field table (32 * i + 8) 3)

/-- What the state table of a train bind answers; 0 where it serves: its buffers are HBM buffers of the job (R122), large
enough, and its rings the job's. -/
def trainTableStatus (s : State) (Q : Queue) (J : Job) (q rank : Nat) (ts : List (Nat × Nat × Nat)) (table : List Byte) : Status :=
  let rows := ts.zipIdx.map fun t => (t.1, trainEntry table t.2)
  let hs := rows.flatMap fun r => [r.2.1, r.2.2.1]
  let st := handleStatus s q Q hs
  if !((List.range ts.length).all fun i => allZero (slice table (32 * i + 11) 21)) then 0x0102
  else if st ≠ 0 then st
  else if !(hs.all fun h => (bufAt s Q.part h).any fun b => b.tier = 1 && !b.base) then 0x0204
  else if !(rows.all fun r =>
      trainScales (rank * r.1.2.1) + 4 * rank ≤ bufSize s Q.part r.2.1
        && trainScales (r.1.2.2 * rank) + 4 * r.1.2.2 ≤ bufSize s Q.part r.2.2.1) then 0x0206
  else if !(rows.all fun r => FMap.has J.rings r.2.2.2) then 0x0102
  else 0

/-- Train bind (OP 5): done 400 beats and 4 per target entry after its arrival. -/
def trainBind (s : State) (fn : Nat) (m : MboxMsg) : State :=
  withReedQueue s fn m fun Q =>
    let b := m.bytes
    let q := dQueue b
    let (st, res) := bindStatus s Q b 1
    if st ≠ 0 then answer s fn m st res
    else
      match dirAt s Q.part (dIndex b), chosenCtx s Q.part b, Q.job.bind (jobAt s) with
      | some e, some ctx, some J =>
        let ts := coTargets e.contract
        let h := dHandle b
        let table := (committed s (bufKey Q.part (hIndex h))).read 0 (32 * e.layers)
        let st := handleStatus s q Q [h]
        let st := if st ≠ 0 then st
          else if !((bufAt s Q.part h).any fun x => x.tier ≠ 0) then 0x0204
          else if bufSize s Q.part h < 32 * e.layers then 0x0206
          else trainTableStatus s Q J q e.rank ts table
        if st ≠ 0 then
          let s := answer s fn m st 0
          if isOffence st then offence s q none else s
        else
          let targets := ts.zipIdx.map fun t =>
            let (a, b, r) := trainEntry table t.2
            { layer := t.1.1, k := t.1.2.1, nf := t.1.2.2, wqA := a, wqB := b, uRing := r : ReedTarget }
          let s := takeCtx s ctx {
            state := .bound
            part := Q.part
            dir := dIndex b
            job := Q.job.getD 0
            queue := q
            serve := false
            rank := e.rank
            targets
            baseGen := e.baseGen
            fn
            began := m.arrived }
          let s := { s with now := max s.now (m.arrived + 400 + 4 * e.layers) }
          let s := bump (bump s (0x4E00 + Q.part) 6 1) (0x4E00 + Q.part) 7 (s.now - m.arrived)
          answer s fn m 0 ctx
      | _, _, _ => s

/-- Unbind (OP 6): the entry's context moves to unbinding. -/
def unbindReed (s : State) (fn : Nat) (m : MboxMsg) : State :=
  let part := reedPart s fn
  match dirAt s part (dIndex m.bytes) with
  | none => answer s fn m 0x0101 0
  | some e =>
    match (FMap.get? s.ctxs e.context).filter fun x => e.bound && x.state = .bound with
    | none => answer s fn m 0x0103 0
    | some x =>
      let x : Ctx := { x with state := .unbinding, answer := some (fn, m.seq, messageTag 4 m.bytes) }
      { s with ctxs := FMap.set s.ctxs e.context x }

/-- A command that started with the context has neither committed nor been killed. -/
def ctxHeld (s : State) (ctx : Nat) : Bool := (startedCmds s).any fun c => c.ctxs.contains ctx

/-- The last holder is gone: the working copy is zeroed, the charge returns, the context is free. -/
def unbindComplete (s : State) (ctx : Nat) : State :=
  match FMap.get? s.ctxs ctx with
  | none => s
  | some x => if x.state ≠ .unbinding || ctxHeld s ctx then s else answerCtx (releaseCtx s ctx) x 0 0

/-! ## Seal (R211) -/

/-- A part of the blob, padded. -/
def padded (bs : List Byte) : List Byte := bs ++ zeros (pad64 bs.length - bs.length)

/-- The plaintext of a train-bound reed: its rings' scales, then the codes and row scales of its buffers. -/
def trainPlain (s : State) (J : Job) (x : Ctx) : List Byte :=
  let mem (h : Nat) : Mem := committed s (bufKey x.part (hIndex h))
  padded (x.targets.flatMap fun t => toLe 4 (ringScale J t.uRing).toNat ++ toLe 4 (ringRecip J t.uRing).toNat)
    ++ x.targets.flatMap fun t =>
      padded ((mem t.wqA).read 0 (x.rank * t.k)) ++ padded ((mem t.wqA).read (trainScales (x.rank * t.k)) (4 * x.rank))
        ++ padded ((mem t.wqB).read 0 (t.nf * x.rank)) ++ padded ((mem t.wqB).read (trainScales (t.nf * x.rank)) (4 * t.nf))

/-- An uncommitted command holds a train-bound context: it started with it, or writes one of its buffers. -/
def trainHeld (s : State) (ctx : Nat) (x : Ctx) : Bool :=
  let vers := x.targets.flatMap fun t => [hVer x.part t.wqA, hVer x.part t.wqB]
  ctxHeld s ctx || (startedCmds s).any fun c => c.writes.any vers.contains

/-- Seal (OP 7), once no uncommitted command holds the context. -/
def sealReed (s : State) (fn : Nat) (m : MboxMsg) : State :=
  withReedQueue s fn m fun Q =>
    let b := m.bytes
    let q := dQueue b
    match dirAt s Q.part (dIndex b) with
    | none => answer s fn m 0x0101 0
    | some e =>
      if e.baseGen ≠ baseGen s Q.part then answer s fn m 0x0107 0
      else
        match (FMap.get? s.ctxs e.context).filter fun x => e.bound && x.state = .bound && !x.serve with
        | none => answer s fn m 0x0103 0
        | some x =>
          match (jobAt s x.job).filter fun _ => Q.job = some x.job, keyRecord s e.keyId with
          | some J, some k =>
            let h := dHandle b
            let st := handleStatus s q Q [h]
            if k.sealCount = 2 ^ 64 - 1 then answer s fn m 0x010F 0
            else if st ≠ 0 then
              let s := answer s fn m st 0
              if isOffence st then offence s q none else s
            else if !((bufAt s Q.part h).any fun x => x.tier ≠ 0 && !x.base) then answer s fn m 0x0204 0
            else if bufSize s Q.part h < max e.imageBytes (imBytes e.header) then answer s fn m 0x0206 0
            else
              let iv := toLe 8 k.sealCount ++ zeros 4
              let head := patch e.header 32 iv
              let gap := zeros (imBlobOff e.header - 64 - e.contract.length)
              let image := head ++ e.contract ++ gap ++ Gcm.encrypt k.key iv e.contract (trainPlain s J x)
              let s := storeBuf s (bufKey Q.part (hIndex h)) 0 image
              let s := { s with keys := FMap.modify s.keys (e.keyId % 2 ^ 14) fun k => { k with sealCount := k.sealCount + 1 } }
              answer s fn m 0 0
          | _, _ => answer s fn m 0x0106 0

/-- The context that a seal waits for is held. -/
def sealWaits (s : State) (fn : Nat) : Bool :=
  match headMessage s fn with
  | none => false
  | some m =>
    match (reedQueue s fn m.bytes).bind fun Q => dirAt s Q.part (dIndex m.bytes) with
    | none => false
    | some e => e.bound && (FMap.get? s.ctxs e.context).any fun x => !x.serve && trainHeld s e.context x

/-! ## Base generations (R204, R205) -/

/-- The base generation increments: every context of an older one becomes invalid, and a bound one unbinds. -/
def bumpBaseGen (s : State) (part : Nat) : State :=
  let gen := (baseGen s part + 1) % 2 ^ 32
  let s := dset s (0x4E00 + part) 5 gen
  { s with ctxs := FMap.mapVal s.ctxs fun _ x =>
      if x.part = part && x.baseGen ≠ gen then
        { x with invalid := true, state := if x.state = .bound then .unbinding else x.state }
      else x }

/-! ## Meanings -/

/-- Reed request OP 8 (R195). -/
def execKeyRegistration (fn : Nat) (s : State) : Result := .next (onMessage s fn 4 8 fun s m => beginKeyRegistration s fn m)
/-- Reed request OP 9 (R196). -/
def execRemoveKey (fn : Nat) (s : State) : Result :=
  .next (onMessage s fn 4 9 fun s m => if reedMessageOk m.bytes then removeKey s fn m else answer s fn m 0x0102 0)
/-- Reed request OP 1 (R203). -/
def execRegister (fn : Nat) (image : List Byte) (s : State) : Result := .next (onReed s fn 1 fun s m => registerReed s fn m image)
/-- Reed request OP 2 (R203). -/
def execRelocate (fn : Nat) (image : List Byte) (s : State) : Result := .next (onReed s fn 2 fun s m => relocateReed s fn m image)
/-- Reed request OP 3 (R203). -/
def execRemove (fn : Nat) (s : State) : Result := .next (onReed s fn 3 fun s m => removeReed s fn m)
/-- Reed request OP 4 (R208). -/
def execServeBind (fn : Nat) (image : List Byte) (s : State) : Result := .next (onReed s fn 4 fun s m => serveBind s fn m image)
/-- A serve bind's blob has been read (R208). -/
def execServeBindComplete (ctx : Nat) (blob : List Byte) (readOk : Bool) (s : State) : Result :=
  .next (serveBindComplete s ctx blob readOk)
/-- Reed request OP 5 (R210). -/
def execTrainBind (fn : Nat) (s : State) : Result := .next (onReed s fn 5 fun s m => trainBind s fn m)
/-- Reed request OP 6 (R209). -/
def execUnbind (fn : Nat) (s : State) : Result := .next (onReed s fn 6 fun s m => unbindReed s fn m)
/-- An unbinding context is zeroed and freed (R209). -/
def execUnbindComplete (ctx : Nat) (s : State) : Result := .next (unbindComplete s ctx)
/-- Reed request OP 7 (R211). -/
def execSeal (fn : Nat) (s : State) : Result :=
  .next (if sealWaits s fn then s else onReed s fn 7 fun s m => sealReed s fn m)

end Sys2Proof.Machine
end

