-- ==== Sys2Proof/Machine/Bases.lean ====
section
/-! DEFINITION. Bases: images, loading, replacement under load, members, reads of host memory (R180 to R190, R341). Log
entries are notes/assumptions/<n>.md. -/

namespace Sys2Proof.Machine

open Sys2Proof

/-! ## Images (R180) -/

/-- TENSORS. -/
def hTensors (h : List Byte) : Nat := field h 4 4
/-- Bytes of header and table. -/
def headBytes (h : List Byte) : Nat := 64 + 64 * hTensors h
/-- IMAGE_BYTES. -/
def hImage (h : List Byte) : Nat := field h 16 8
/-- Tensor entry `i`. -/
def readTensor (h : List Byte) (i : Nat) : Tensor where
  layer := field h (64 + 64 * i) 2
  tiles := field h (64 + 64 * i + 4) 4
  offset := field h (64 + 64 * i + 8) 8
  digest := slice h (64 + 64 * i + 16) 48
/-- The tensor table. -/
def readTensors (h : List Byte) : List Tensor := (List.range (min 65535 (hTensors h))).map (readTensor h)
/-- Bytes of a tensor: tiles, then sidecars. -/
def Tensor.bytes (t : Tensor) : Nat := 66560 * t.tiles

/-- LAYER values never fall. -/
def ascending (l : List Nat) : Bool :=
  match l with
  | [] => true
  | [_] => true
  | a :: b :: t => a ≤ b && ascending (b :: t)

/-- Header and table are well formed; `length` is LENGTH of the request. -/
def baseHeadOk (h : List Byte) (length : Nat) : Bool :=
  let ts := readTensors h
  slice h 0 4 = ascii "FBS1" && 1 ≤ hTensors h && hTensors h ≤ 65535 && headBytes h ≤ h.length
    && allZero (slice h 9 7) && allZero (slice h 24 40) && hImage h = length
    && (List.range (hTensors h)).all (fun i => field h (64 + 64 * i + 2) 2 = 0)
    && ascending (ts.map Tensor.layer)
    && ts.all fun t => 1 ≤ t.tiles && t.tiles ≤ 2 ^ 20 && t.offset % 65536 = 0 && headBytes h ≤ t.offset
        && t.offset + t.bytes ≤ hImage h

/-- The base digest. -/
def headDigest (h : List Byte) : List Byte := sha384 (h.take (headBytes h))

/-- Bytes that a base is charged (R181). -/
def baseCharge (ts : List Tensor) : Nat := (ts.map fun t => charge64 t.bytes).sum

/-! ## Reads of host memory -/

/-- A read of host memory is issued. -/
def issueRead (s : State) (r : HostRead) : State :=
  { s with host := { s.host with reads := FMap.set s.host.reads s.host.nextRead r, nextRead := s.host.nextRead + 1 } }

/-! ## Parts of a base job -/

/-- The load or replacement under way in a partition. -/
def baseJobAt (s : State) (part : Nat) : Option BaseJob := (partAt s part).baseJob
/-- The state with it changed. -/
def updBaseJob (s : State) (part : Nat) (f : BaseJob → BaseJob) : State :=
  updPart s part fun p => { p with baseJob := p.baseJob.map f }
/-- Base state (Table 7.10). -/
def setBaseState (s : State) (part n : Nat) : State := dset s (0x5600 + part) 1 n

/-- The next tensor is read from host memory. -/
def readNext (s : State) (part : Nat) (b : BaseJob) : State :=
  match b.tensors[b.next]? with
  | none => s
  | some t => issueRead s { use := .baseTensor part, fn := b.fn, addr := b.hostAddr + t.offset, len := t.bytes }

/-- The partition account grows or falls by a base. -/
def chargeBase (s : State) (part : Nat) (add sub : Nat) : State :=
  dset s (0x5000 + part) 5 (dnum s (0x5000 + part) 5 + add - sub)

/-- The resident base is freed: its buffers' generations increment, its charge returns. -/
def freeBase (s : State) (part : Nat) : State :=
  let ts := (partAt s part).tensors
  let s := ts.foldl (fun s t => freeBuf s (bufKey part t.index)) s
  updPart (chargeBase s part 0 (baseCharge ts)) part fun p => { p with tensors := [], baseHandles := [], incoming := [] }

/-- The partition has no base. -/
def noBase (s : State) (part st : Nat) : State :=
  let s := setBaseState s part st
  let s := dsetB (dsetB s (0x5600 + part) 2 (zeros 48)) (0x5600 + part) 3 (zeros 48)
  dset (dset s (0x5600 + part) 4 0) (0x5600 + part) 5 0

/-- Members that do not complete, and the first failing code where one does not: what other modules report is free (log
entry 37). -/
def memberReport (s : State) (b : BaseJob) (st : Status) : Status × Nat :=
  let others := setBit b.members.toNat 0 false
  let failed := (b.members &&& BitVec.ofNat 64 (Config.freeNat s.fresh)).toNat
  let failed := if others = 0 then 0 else setBit failed 0 false
  let mine := if st = 0 then 0 else 1
  (if st = 0 && failed ≠ 0 then unnamedRefusal { s with fresh := s.fresh + 1 } else st, failed + mine)

/-- A member's failure reaches the head as its bit of FAILED (R184). -/
def reportBase (s : State) (part : Nat) (st : Status) : State :=
  sendFlits { s with win := { s.win with baseReports := s.win.baseReports ++ [(part, st)] } } 2 7 (domainHead s) 32 0

/-- The request completes (Table 7.9); a member reports only its failure. -/
def answerBase (s : State) (part : Nat) (b : BaseJob) (st : Status) : State :=
  if b.member then (if st = 0 then s else reportBase s part st)
  else
    let (code, failed) := memberReport s b st
    let s := { s with fresh := s.fresh + 2 }
    respond s b.fn 5 b.seq (baseBytes s b.tag code failed b.digest)

/-- A waiting incoming command of a base that broke fails with the failure's status. -/
def failIncoming (s : State) (part : Nat) (st : Status) : State :=
  s.queues.foldl (fun s e =>
    if e.2.part ≠ part then s
    else
      match e.2.cmds.find? fun c => c.objectWait && c.waitCode % 256 = 6 && !c.failed with
      | none => s
      | some c => fail s e.1 c.uid st) s

/-- The buffers of a layer take their next generation. -/
def turnLayer (s : State) (part : Nat) (ts : List Tensor) : State :=
  ts.foldl (fun s t =>
    let key := bufKey part t.index
    { s with
      bufs := FMap.modify s.bufs key fun b => { b with gen := b.gen + 1 }
      index := FMap.modify s.index key fun i => { i with gen := i.gen + 1 } }) s

/-- A replacement breaks the base: every base handle, outgoing and incoming, becomes stale. The layers that have not been swapped
pass the generation of their incoming handles (R190). -/
def breakBase (s : State) (part : Nat) (b : BaseJob) : State :=
  let rest := (b.tensors.drop b.next).filter fun t => b.swapping ≠ some t.layer
  freeBase (turnLayer s part rest) part

/-- A load or replacement fails: the partition is left with no base, or a broken one (R185, R190). -/
def baseFail (s : State) (part : Nat) (b : BaseJob) (st : Status) : State :=
  let s := updPart s part fun p => { p with baseJob := none }
  if !b.keeps then answerBase s part b st
  else if b.replace then
    let s := noBase (breakBase s part b) part 4
    let s := updPart s part fun p => { p with brokenStatus := st }
    answerBase (bumpBaseGen (failIncoming s part st) part) part b st
  else answerBase (noBase (chargeBase s part 0 (baseCharge b.tensors)) part 0) part b st

/-- One tensor becomes a buffer of the partition at the lowest free index. -/
def placeTensor (s : State) (part : Nat) (t : Tensor) (data : List Byte) : State :=
  let i := lowestFree s part
  let b : Buf := { gen := nextGen s part i, size := t.bytes, tier := 1, cls := 1, base := true, data := Mem.write [] 0 data }
  updPart (placeBuf s part i 65536 b) part fun p => { p with tensors := p.tensors ++ [{ t with index := i }] }

/-- The handles of a list of base buffers, `ahead` generations on (R182, R187). -/
def handlesOf (s : State) (part : Nat) (ts : List Tensor) (ahead : Nat) : List Nat :=
  ts.map fun t => mkHandle (((FMap.get? s.bufs (bufKey part t.index)).map Buf.gen).getD 0 + ahead) t.index

/-- A load is done: buffers, handle table, resident digest, base generation (R184). -/
def publishBase (s : State) (part : Nat) (b : BaseJob) : State :=
  let s := updPart s part fun p => { p with baseJob := none }
  if !b.keeps then answerBase s part b 0
  else if 2 ^ 20 - 1 < indicesUsed s part + b.tensors.length then
    baseFail s part { b with replace := false } 0x0202
  else
    let s := (b.tensors.zip b.loaded).foldl (fun s p => placeTensor s part p.1 p.2) s
    let s := updPart s part fun p => { p with baseHandles := handlesOf s part p.tensors 0 }
    let s := dsetB (setBaseState s part 2) (0x5600 + part) 2 b.digest
    let s := dset s (0x5600 + part) 5 b.tensors.length
    answerBase (bumpBaseGen s part) part b 0

/-! ## Requests (R183 to R186) -/

/-- PARTITION. -/
def bPart (b : List Byte) : Nat := field b 1 1

/-- A base request is refused: no member completes. -/
def refuseBase (s : State) (fn : Nat) (m : MboxMsg) (st : Status) (digest : List Byte) : State :=
  respond s fn 5 m.seq (baseBytes s (messageTag 5 m.bytes) st (field m.bytes 8 8) digest)

/-- PARTITION and HOST_ADDR in range. -/
def baseMessageOk (b : List Byte) : Bool := bPart b < 32 && field b 16 8 % 4096 = 0

/-- The base job of a request. -/
def baseJobOf (fn : Nat) (m : MboxMsg) (head : List Byte) (replace : Bool) (tensors : List Tensor) : BaseJob where
  replace
  tensors
  digest := headDigest head
  fn
  seq := m.seq
  tag := messageTag 5 m.bytes
  members := BitVec.ofNat 64 (field m.bytes 8 8)
  hostAddr := field m.bytes 16 8
  keeps := bit (field m.bytes 8 1) 0

/-- An admitted job of the partition references a base. -/
def baseReferenced (s : State) (part : Nat) : Bool := s.jobs.any fun e => e.2.part = part && !allZero e.2.baseDigest

/-- The partition charge of a base fits (R165): what remains covers the VF quotas. -/
def baseFits (s : State) (part : Nat) (ts : List Tensor) : Bool :=
  dnum s (0x5000 + part) 5 - baseCharge (partAt s part).tensors + baseCharge ts + quotaSum s part 1 ≤ tierBytes s part 1

/-- A load begins: the previous base is freed, and the charge is taken. -/
def beginLoad (s : State) (part : Nat) (b : BaseJob) : State :=
  let s := if b.keeps then
      chargeBase (setBaseState (noBase (freeBase s part) part 0) part 1) part (baseCharge b.tensors) 0
    else s
  updPart s part fun p => { p with baseJob := some b, brokenStatus := if b.keeps then 0 else p.brokenStatus }

/-- The status of a load; 0 where it begins. `head` is what the read of header and table returned, nothing where it failed
three times. -/
def loadStatus (s : State) (part : Nat) (keeps : Bool) (head : List Byte) (length : Nat) : Status :=
  if (baseJobAt s part).isSome then 0x0617
  else if keeps && baseReferenced s part then 0x061A
  else if head.isEmpty then 0x0618
  else if !baseHeadOk head length then 0x0611
  else if field head 8 1 ≠ 0x41 then 0x0612
  else if keeps && !baseFits s part (readTensors head) then 0x0681
  else 0

/-- OP 1: a load. -/
def loadBase (s : State) (fn : Nat) (m : MboxMsg) (head : List Byte) : State :=
  let part := bPart m.bytes
  let keeps := bit (field m.bytes 8 1) 0
  if !baseMessageOk m.bytes then refuseBase s fn m 0x0301 []
  else
    let st := loadStatus s part keeps head (field m.bytes 24 8)
    if st ≠ 0 then refuseBase s fn m st (if head.isEmpty then [] else headDigest head)
    else
      let b := baseJobOf fn m head false (readTensors head)
      readNext (beginLoad s part b) part b

/-- The incoming base has the resident one's shape (R186). -/
def sameShape (a b : List Tensor) : Bool := a.map (fun t => (t.layer, t.tiles)) = b.map fun t => (t.layer, t.tiles)

/-- The status of a replacement, in the order of R186's table; 0 where it opens. -/
def replaceStatus (s : State) (part : Nat) (keeps : Bool) (head : List Byte) (length : Nat) : Status :=
  let ts := (partAt s part).tensors
  if head.isEmpty then 0x0618
  else if keeps && (!sameShape ts (readTensors head) || ts.isEmpty) then 0x0615
  else if keeps && ts.any (fun t => (FMap.get? s.bufs (bufKey part t.index)).any fun b => b.gen = 4095) then 0x0616
  else if (baseJobAt s part).isSome then 0x0617
  else if !baseHeadOk head length then 0x0611
  else if field head 8 1 ≠ 0x41 then 0x0612
  else 0

/-- Incoming tensors at the indices of the resident ones. -/
def withIndices (s : State) (part : Nat) (ts : List Tensor) : List Tensor :=
  (ts.zip (partAt s part).tensors).map fun p => { p.1 with index := p.2.index }

/-- A replacement opens: the incoming digest stands beside the resident one, and the incoming handles, one generation ahead, are
published (R187). -/
def beginReplace (s : State) (part : Nat) (b : BaseJob) : State :=
  let b := { b with swapped := dnum s (0x5600 + part) 4 }
  let incoming := handlesOf s part b.tensors 1
  let s := dset (dsetB (setBaseState s part 3) (0x5600 + part) 3 b.digest) (0x5600 + part) 4 0
  updPart s part fun p => { p with baseJob := some b, incoming }

/-- OP 2: a replacement under load. A head that receives no base only reads and forwards. -/
def replaceBase (s : State) (fn : Nat) (m : MboxMsg) (head : List Byte) : State :=
  let part := bPart m.bytes
  let keeps := bit (field m.bytes 8 1) 0
  if !baseMessageOk m.bytes then refuseBase s fn m 0x0301 []
  else
    let st := replaceStatus s part keeps head (field m.bytes 24 8)
    if st ≠ 0 then refuseBase s fn m st (if head.isEmpty then [] else headDigest head)
    else if keeps then beginReplace s part (baseJobOf fn m head true (withIndices s part (readTensors head)))
    else
      let b := baseJobOf fn m head false (readTensors head)
      readNext (beginLoad s part b) part b

/-- OP 3: a replacement is aborted before its first layer's swap begins. The replacement's own request completes with a
status that the manual does not name (log entry 39). -/
def abortReplace (s : State) (fn : Nat) (m : MboxMsg) : State :=
  let part := bPart m.bytes
  if 32 ≤ part then refuseBase s fn m 0x0301 []
  else
    match (baseJobAt s part).filter fun b => b.replace && b.next = 0 && b.swapping.isNone with
    | none => refuseBase s fn m 0x0619 []
    | some b =>
      let s := updPart s part fun p => { p with baseJob := none, incoming := [] }
      let s := dset (dsetB (setBaseState s part 2) (0x5600 + part) 3 (zeros 48)) (0x5600 + part) 4 b.swapped
      let s := answerBase { s with fresh := s.fresh + 1 } part b (unnamedRefusal s)
      respond s fn 5 m.seq (baseBytes s (messageTag 5 m.bytes) 0 0 b.digest)

/-! ## Layers (R188, R189) -/

/-- A command or a running RUN holds a handle. -/
def handleHeld (s : State) (part h : Nat) : Bool :=
  let names (r : List Byte) : Bool := (handleFields r).any fun o => rH r o = h
  s.queues.any fun e => e.2.part = part
    && ((e.2.cmds.any fun c => !c.failed && names c.bytes)
      || (e.2.runs.any fun r =>
        ((e.2.cmds.any fun c => c.state = .fetched && c.stream.isSome && c.run = r.uid) && names r.bytes)
          || ((e.2.job.bind (jobAt s)).bind fun J => J.streams[field r.bytes 16 4]?).any fun st => st.cmds.any names))

/-- A command holds an outgoing handle of a layer. -/
def layerHeld (s : State) (part : Nat) (b : BaseJob) (layer : Nat) : Bool :=
  b.tensors.any fun t => t.layer = layer
    && (FMap.get? s.bufs (bufKey part t.index)).any fun x => handleHeld s part (mkHandle x.gen t.index)

/-- Tensors of a layer. -/
def layerTensors (b : BaseJob) (layer : Nat) : List Tensor := b.tensors.filter fun t => t.layer = layer

/-- A tensor's new bytes stand in its buffer. -/
def writeTensor (s : State) (part : Nat) (t : Tensor) (data : List Byte) : State :=
  { s with bufs := FMap.modify s.bufs (bufKey part t.index) fun b => { b with data := Mem.write [] 0 data } }

/-- The layer barrier releases. -/
def releaseLayer (s : State) (part : Nat) : State :=
  bump (updBaseJob s part fun b => { b with swapping := none }) (0x5600 + part) 4 1

/-- The next layer's swap: once nothing holds its outgoing handles, its generations increment and its tensors are read; on a
member it is written once it has all come. -/
def layerSwap (s : State) (part : Nat) : State :=
  match baseJobAt s part with
  | none => s
  | some b =>
    match b.tensors[b.next]? with
    | none => s
    | some t =>
      let ts := layerTensors b t.layer
      if !b.replace || b.swapping.isSome || layerHeld s part b t.layer then s
      else if b.member then
        if b.loaded.length < b.next + ts.length then s
        else
          let s := turnLayer s part ts
          let s := (ts.zip (b.loaded.drop b.next)).foldl (fun s p => writeTensor s part p.1 p.2) s
          releaseLayer (updBaseJob s part fun b => { b with next := b.next + ts.length }) part
      else
        let s := turnLayer s part ts
        readNext (updBaseJob s part fun b => { b with swapping := some t.layer }) part b

/-- The final swap barrier: the incoming base is the resident one, and reeds of the outgoing one are invalid. -/
def finalSwap (s : State) (part : Nat) : State :=
  match (baseJobAt s part).filter fun b => b.replace && b.swapping.isNone && b.tensors.length ≤ b.next with
  | none => s
  | some b =>
    let s := updPart s part fun p => { p with baseJob := none, tensors := b.tensors, baseHandles := p.incoming, incoming := [] }
    let s := dsetB (dsetB (setBaseState s part 2) (0x5600 + part) 2 b.digest) (0x5600 + part) 3 (zeros 48)
    answerBase (bumpBaseGen s part) part b 0

/-! ## Tensors that arrive (R184, R185) -/

/-- A tensor has come whole and its digest matches: a load keeps it, a replacement writes it and releases its layer after
the last. -/
def acceptTensor (s : State) (part : Nat) (b : BaseJob) (t : Tensor) (data : List Byte) : State :=
  let b := { b with next := b.next + 1, attempts := 0, loaded := if b.keeps && !b.replace then b.loaded ++ [data] else b.loaded }
  let s := updBaseJob s part fun _ => b
  if b.replace then
    let s := writeTensor s part t data
    if (b.tensors[b.next]?).any fun n => n.layer = t.layer then readNext s part b else releaseLayer s part
  else if b.tensors.length ≤ b.next then publishBase s part b
  else readNext s part b

/-- The modules of the host domain that receive the base of a request, but for the head (Table 7.8). -/
def baseMembers (s : State) (b : BaseJob) : List Nat :=
  (List.range 64).filterMap fun m => if b.members.getLsbD m then domainModule s m else none

/-- The tiles of a tensor go to the members as they arrive, before its digest is checked (R184). -/
def sendTensor (s : State) (b : BaseJob) (data : List Byte) : State :=
  if (baseMembers s b).isEmpty then s else forwardTiles s (baseMembers s b) (data.length / 66560)

/-- A read of the next tensor has ended: one that fails is repeated up to two more times. -/
def tensorRead (s : State) (part : Nat) (ok : Bool) (data : List Byte) : State :=
  match (baseJobAt s part).filter fun b => !b.member with
  | none => s
  | some b =>
    match b.tensors[b.next]? with
    | none => s
    | some t =>
      let good := decide (data.length = t.bytes) && sha384 data = t.digest
      let s := if ok then sendTensor s b data else s
      if ok && good then acceptTensor s part b t data
      else if b.attempts < 2 then
        let b := { b with attempts := b.attempts + 1 }
        readNext (updBaseJob s part fun _ => b) part b
      else baseFail s part b (if ok then 0x0613 else 0x0618)

/-- A completion of a read that the module issued. One of a squashed read is discarded and counted (R317); one
of the module's own reads is journaled, with no queue as its source (R288). -/
def hostReadDone (s : State) (id : Nat) (ok : Bool) (data : List Byte) : State :=
  match FMap.get? s.host.reads id with
  | none => s
  | some r =>
    let s := { s with host := { s.host with reads := FMap.erase s.host.reads id } }
    if r.squashed then { s with host := { s.host with discarded := s.host.discarded + 1 } }
    else
      match r.use with
      | .baseTensor part => tensorRead (if ok then journal s 2 0 0 0 r.addr data else s) part ok data
      | .proxy member =>
        let s := { s with host := { s.host with proxyOut := s.host.proxyOut ++ [(member, ok, slice data 0 r.len)] } }
        (domainModule s member).elim s fun m => sendFlits s 0 5 m r.len s.now

/-- A read reaches the completion timeout: it counts as failed. A squashed one is forgotten. -/
def readTimeout (s : State) (id : Nat) : State :=
  match FMap.get? s.host.reads id with
  | none => s
  | some r =>
    if r.squashed then { s with host := { s.host with reads := FMap.erase s.host.reads id } } else hostReadDone s id false []

/-! ## Members (R184) -/

/-- The tensor number under which the head sends header and table to its members (log entry 38). -/
def headTensor : Nat := 65535

/-- The head's announcement is refused on this member: it reports, and after a load it keeps no base (R184). A refused
replacement has no side effect (R186). -/
def memberRefuse (s : State) (part op : Nat) (st : Status) : State :=
  let s := reportBase s part st
  if op = 2 then s
  else
    let s := updPart (noBase (freeBase s part) part 0) part fun p => { p with baseJob := none, brokenStatus := 0 }
    bumpBaseGen s part

/-- The head's announcement: a load or, for `op` 2, a replacement begins on this member. -/
def memberBegin (s : State) (part op : Nat) (head : List Byte) : State :=
  let b (replace : Bool) (ts : List Tensor) : BaseJob :=
    { replace, tensors := ts, digest := headDigest head, fn := 0, seq := 0, tag := 0, members := 0, member := true }
  if op = 2 then
    let st := replaceStatus s part true head (hImage head)
    if st ≠ 0 then memberRefuse s part op st
    else beginReplace s part (b true (withIndices s part (readTensors head)))
  else
    let st := loadStatus s part true head (hImage head)
    if st ≠ 0 then memberRefuse s part op st else beginLoad s part (b false (readTensors head))

/-- A tile with its sidecar arrives at a member: it is forwarded and kept. With the tensor's last tile its digest is
checked; a tensor that does not match comes again up to two more times, and after the third the member keeps no base
(R184, R185). -/
def memberTile (s : State) (part tensor tile : Nat) (data : List Byte) : State :=
  match (baseJobAt s part).filter fun b => b.member && b.loaded.length = tensor && b.tileNext = tile with
  | none => s
  | some b =>
    match b.tensors[tensor]? with
    | none => s
    | some t =>
      let b := { b with
        tileNext := b.tileNext + 1, tileData := b.tileData ++ slice data 0 65536, sideData := b.sideData ++ slice data 65536 1024 }
      if b.tileNext < t.tiles then updBaseJob s part fun _ => b
      else
        let whole := b.tileData ++ b.sideData
        let good := decide (sha384 whole = t.digest)
        let b := { b with tileNext := 0, tileData := [], sideData := []
                          loaded := if good then b.loaded ++ [whole] else b.loaded, attempts := if good then 0 else b.attempts + 1 }
        if !good then (if 3 ≤ b.attempts then baseFail s part b 0x0613 else updBaseJob s part fun _ => b)
        else if b.replace || b.loaded.length < b.tensors.length then updBaseJob s part fun _ => b
        else publishBase s part b

/-- A base packet is taken: it is journaled and forwarded. To which modules the load goes is not told to a member, so it goes
on to every one of the domain behind this one (R185, R288, log entry 38). -/
def basePacket (s : State) (part tensor tile : Nat) (data : List Byte) : State :=
  let head := domainHead s
  let s := journalArrival s (arrivalPort s head) head data
  let s := forwardTiles s (domainModules s) 1
  if 32 ≤ part then s
  else if tensor = headTensor then memberBegin s part tile data
  else memberTile s part tensor tile data

/-- A base packet of the multicast tree arrives. While a job of its partition replays, it may be held (R291). -/
def baseMulticast (s : State) (part tensor tile : Nat) (data : List Byte) : State :=
  let head := domainHead s
  let s := takeFlits s head data.length
  match s.jobs.find? fun e => e.2.part = part && e.2.replay.isSome with
  | none => basePacket s part tensor tile data
  | some e =>
    match replayInput s e.1 5 (arrivalPort s head) head data with
    | (s, none) => basePacket s part tensor tile data
    | (s, some due) => holdInput s e.1 due (.baseTileMulticast part tensor tile data)

/-! ## Host proxy (R341) -/

/-- A hostless member's access through the head, under the head's PF. -/
def hostProxy (s : State) (member addr : Nat) (data : Option (List Byte)) (len : Nat) : State :=
  let s := (domainModule s member).elim s fun m => takeFlits s m ((data.map List.length).getD 8)
  let s := { s with host := { s.host with proxied := FMap.put 0 s.host.proxied member (FMap.getD s.host.proxied member 0 + 1) } }
  match data with
  | some bs => hostWrite s addr bs
  | none => issueRead s { use := .proxy member, fn := 0, addr, len }

/-! ## Meanings -/

/-- Base request OP 1 (R184). -/
def execBaseLoad (fn : Nat) (head : List Byte) (s : State) : Result := .next (onMessage s fn 5 1 fun s m => loadBase s fn m head)
/-- Base request OP 2 (R187). -/
def execBaseReplace (fn : Nat) (head : List Byte) (s : State) : Result :=
  .next (onMessage s fn 5 2 fun s m => replaceBase s fn m head)
/-- Base request OP 3 (R189). -/
def execBaseReplaceAbort (fn : Nat) (s : State) : Result := .next (onMessage s fn 5 3 fun s m => abortReplace s fn m)
/-- A layer is swapped (R188). -/
def execLayerSwap (part : Nat) (s : State) : Result := .next (layerSwap s part)
/-- The final swap barrier (R189). -/
def execFinalSwapBarrier (part : Nat) (s : State) : Result := .next (finalSwap s part)
/-- A base tile arrives at a member (R185). -/
def execBaseTileMulticast (part tensor tile : Nat) (data : List Byte) (s : State) : Result :=
  .next (baseMulticast (settle s) part tensor tile data)
/-- Host traffic of a hostless member (R341). -/
def execHostProxy (member addr : Nat) (data : Option (List Byte)) (len : Nat) (s : State) : Result :=
  .next (hostProxy s member addr data len)

end Sys2Proof.Machine
end

