-- ==== Sys2Proof/Machine/Placement.lean ====
section
/-! DEFINITION. Tiered objects: the placement requests and the copies they start (R155 to R160, Table 6.8a). Log entries are
notes/assumptions/<n>.md. -/

namespace Sys2Proof.Machine

open Sys2Proof

/-- The record of a tiered object. -/
def tieredAt (s : State) (key : Nat) : Tiered := FMap.getD s.tiered key {}
/-- The state with the record of a tiered object. -/
def putTiered (s : State) (key : Nat) (t : Tiered) : State := { s with tiered := FMap.set s.tiered key t }
/-- The beat in which a change of a tiered object takes effect: the one after its cause, which is the present beat or the
object's latest change (R157). -/
def Tiered.next (t : Tiered) (s : State) : Nat := max s.now t.changed + 1
/-- A state change of a tiered object, with its beat. -/
def Tiered.to (t : Tiered) (s : State) (st : TierState) : Tiered := { t with state := st, changed := t.next s }

/-- The charge of a tiered object's copy. -/
def copyCharge (s : State) (key : Nat) : Nat := charge64 (((FMap.get? s.bufs key).map Buf.size).getD 0)

/-- Every request of a list completes with a status in a beat. -/
def completeAll (s : State) (part : Nat) (l : List PlaceReq) (st : Status) (done : Nat) : State :=
  l.foldl (fun s r => placementDone s part r st done) s

/-- A request completes without a change, in the beat in which it is served: the present one, or that of the change it waited
for. -/
def placeAnswer (s : State) (part key : Nat) (r : PlaceReq) (st : Status) : State :=
  placementDone s part r st (max s.now (tieredAt s key).changed)

/-- A request completes with a change of its object. -/
def placeChange (s : State) (part key : Nat) (r : PlaceReq) (st : TierState) : State :=
  let t := (tieredAt s key).to s st
  placementDone (putTiered s key t) part r 0 t.changed

/-- A copy between an object's home and an HBM address touches a channel out of service (R162, R439). -/
def copyOut (s : State) (part key addr : Nat) : Bool :=
  (FMap.get? s.bufs key).any fun b =>
    (capTouched s part b.addr 0 b.size).any s.rel.lpddrOut.contains
      || (hbmTouched s part key addr 0 b.size { b with base := false }).any s.rel.hbmOut.contains

/-- A promote from Absent: the copy is placed and charged to the requester, or 0x0681; a copy that a channel out of
service would fail answers 0x0685 (R439). -/
def promoteAbsent (s : State) (part key : Nat) (r : PlaceReq) : State :=
  let n := copyCharge s key
  if !mayCharge s part r.fn 1 n then placeAnswer s part key r 0x0681
  else
    let t := (tieredAt s key).to s .promoting
    let copyAddr := newAddr s part 1 n 64
    if copyOut s part key copyAddr then placeAnswer { s with fresh := s.fresh + 1 } part key r 0x0685
    else
      putTiered { charge s part r.fn 1 n with fresh := s.fresh + 1 } key
        { t with copying := true, dirty := false, charged := r.fn, copyAddr, current := [r] }

/-- A promote that meets an eviction whose copy home has not begun: the eviction is cancelled, and the charge moves. -/
def promoteEvicting (s : State) (part key : Nat) (r : PlaceReq) : State :=
  let t := tieredAt s key
  let n := copyCharge s key
  if t.charged ≠ r.fn && !mayCharge s part r.fn 1 n then placeAnswer s part key r 0x0681
  else
    let s := charge (uncharge s part t.charged 1 n) part r.fn 1 n
    let s := putTiered s key { t.to s .resident with charged := r.fn, current := [] }
    placementDone (completeAll s part t.current 0x0683 (t.next s)) part r 0 (t.next s)

/-- A request joins the requests that complete with the copy or the eviction under way. -/
def joinCurrent (s : State) (key : Nat) (r : PlaceReq) : State :=
  let t := tieredAt s key
  putTiered s key { t with current := t.current ++ [{ r with joined := true }] }

/-- A request waits for the next stable state. -/
def placeWait (s : State) (key : Nat) (r : PlaceReq) : State :=
  let t := tieredAt s key
  putTiered s key { t with waiters := t.waiters ++ [r] }

/-- One request's row of Table 6.8a. -/
def placeRow (s : State) (part key : Nat) (r : PlaceReq) : State :=
  let t := { tieredAt s key with objClass := r.cls }
  let s := putTiered s key t
  match t.state, r.op with
  | .absent, 1 => promoteAbsent s part key r
  | .absent, 2 => placeAnswer s part key r 0
  | .absent, 3 => placeAnswer s part key r 0x0689
  | .absent, _ => placeAnswer s part key r 0x068A
  | .promoting, 1 => joinCurrent s key r
  | .promoting, _ => placeWait s key r
  | .resident, 1 => placeAnswer s part key r 0
  | .resident, 2 => putTiered s key { t.to s .evicting with copying := false, current := [r] }
  | .resident, 3 => placeChange s part key r .pinned
  | .resident, _ => placeAnswer s part key r 0x068A
  | .evicting, 1 => if t.copying then placeWait s key r else promoteEvicting s part key r
  | .evicting, 2 => joinCurrent s key r
  | .evicting, _ => placeWait s key r
  | .pinned, 2 => placeAnswer s part key r 0x068C
  | .pinned, 4 => placeChange s part key r .resident
  | .pinned, _ => placeAnswer s part key r 0

/-- The waiters are served, in the order in which they joined, while the object is in a stable state (R158). -/
def serveWaiters (s : State) (part key fuel : Nat) : State :=
  match fuel with
  | 0 => s
  | fuel + 1 =>
    let t := tieredAt s key
    if t.waiters.isEmpty || t.state = .promoting || t.state = .evicting then s
    else
      let s := t.waiters.foldl (fun s r => placeRow s part key { r with waited := max s.now t.changed - r.arrived })
        (putTiered s key { t with waiters := [] })
      serveWaiters s part key fuel

/-- A partition has at most 256 requests outstanding. -/
def serveAll (s : State) (part key : Nat) : State := serveWaiters s part key 257

/-- A placement request is checked as a command of its queue would be, then runs (R156). The limit of 256 requests is
looked at before the handle (DESIGN CHOICE: the manual does not order the two; log entry 136). -/
def placeRequest (s : State) (fn : Nat) (m : MboxMsg) : State :=
  let b := m.bytes
  let q := field b 8 2
  let h := field b 4 4
  if 5 < field b 1 1 then answer s fn m 0x0301 0
  else
    match (queueAt s q).filter fun Q => Q.fn = fn with
    | none => answer s fn m 0x0803 0
    | some Q =>
      let st := handleStatus s q Q [h]
      if 256 ≤ dnum s (0x5000 + Q.part) 8 then answer s fn m 0x068D 0
      else if st ≠ 0 then
        let s := answer s fn m st 0
        if isOffence st then offence s q none else s
      else if !((bufAt s Q.part h).any fun x => x.tier = 2) then answer s fn m 0x0682 0
      else
        let key := bufKey Q.part (hIndex h)
        let r : PlaceReq := { op := field b 0 1, cls := field b 1 1, fn, queue := q, tag := field b 16 4, seq := m.seq, arrived := m.arrived }
        serveAll (placeRow (bump s (0x5000 + Q.part) 8 1) Q.part key r) Q.part key

/-- Of the first `n` bytes of a capacity range over `len` channels, those on the channel at position `at_` of the list
(R148). -/
def channelShare (len n at_ : Nat) : Nat := n / (1024 * len) * 1024 + min 1024 (n % (1024 * len) - 1024 * at_)

/-- Bytes of a placement copy by channel: those of HOME, from its address on (R148). -/
def copyBytes (s : State) (part addr n : Nat) : State :=
  let l := channelsOf s part
  l.zipIdx.foldl (fun s c =>
    bump s (0x6440 + c.1) 4 (channelShare l.length (addr + n) c.2 - channelShare l.length addr c.2)) s

/-- The copy of a promote is done. -/
def promoteDone (s : State) (part index : Nat) : State :=
  let key := bufKey part index
  let t := tieredAt s key
  if t.state ≠ .promoting then s
  else
    let b := FMap.get? s.bufs key
    let s := copyBytes s part ((b.map Buf.addr).getD 0) ((b.map Buf.size).getD 0)
    let s := putTiered s key { t.to s .resident with copying := false, dirty := false, copy := (b.map Buf.data).getD [], current := [] }
    serveAll (completeAll s part t.current 0 (t.next s)) part key

/-- The copy is dropped and its charge released; the evictors complete. -/
def dropCopy (s : State) (part key : Nat) (st : Status) : State :=
  let t := tieredAt s key
  let s := uncharge s part t.charged 1 (copyCharge s key)
  let s := putTiered s key { t.to s .absent with copying := false, dirty := false, charged := 0, copy := [], copyAddr := 0, current := [] }
  serveAll (completeAll s part t.current st (t.next s)) part key

/-- A copy under way fails with a status: a promote falls back to the home, a write-back to the copy, and no data is lost
(Table 6.8a). -/
def copyFails (s : State) (part key : Nat) (st : Status) : State :=
  let t := tieredAt s key
  if !t.copying then s
  else if t.state = .promoting then dropCopy s part key st
  else if t.state = .evicting then
    let s := putTiered s key { t.to s .resident with copying := false, dirty := true, current := [] }
    serveAll (completeAll s part t.current st (t.next s)) part key
  else s

/-- Commands that started with the object and have not ended. -/
def copyUsed (s : State) (key : Nat) : Bool :=
  (FMap.get? s.bufs key).any fun b => (startedCmds s).any fun c => c.uses.contains (verKey key b.gen)

/-- The last user of an evicting object has committed: the copy goes home where it is dirty, else it is dropped. -/
def beginWriteBack (s : State) (part index : Nat) : State :=
  let key := bufKey part index
  let t := tieredAt s key
  if t.state ≠ .evicting || t.copying || copyUsed s key then s
  else if t.dirty then
    let s := putTiered s key { t.to s .evicting with copying := true }
    if copyOut s part key t.copyAddr then copyFails s part key 0x0685 else s
  else dropCopy s part key 0

/-- The copy has been written home. -/
def endWriteBack (s : State) (part index : Nat) : State :=
  let key := bufKey part index
  let t := tieredAt s key
  if t.state ≠ .evicting || !t.copying then s
  else
    let b := FMap.get? s.bufs key
    let s := copyBytes s part ((b.map Buf.addr).getD 0) ((b.map Buf.size).getD 0)
    dropCopy { s with bufs := FMap.modify s.bufs key fun b => { b with data := t.copy } } part key 0

/-- The object that a placement request names. -/
def placeObject (s : State) (_ : Nat) (m : MboxMsg) : Option Nat :=
  (queueAt s (field m.bytes 8 2)).map fun Q => bufKey Q.part (hIndex (field m.bytes 4 4))

/-- The placement request at the head is consumed and runs; one that came after another function's on the same object waits
for it (R158). -/
def onPlacement (s : State) (fn op : Nat) : State :=
  match headMessage s fn with
  | none => s
  | some m =>
    if earlierHead s fn m (fun x => field x.bytes 8 2) (placeObject s) then s
    else onMessage s fn 3 op fun s m => placeRequest s fn m

/-! ## Meanings -/

/-- Placement OP 1 (R157). -/
def execPromote (fn : Nat) (s : State) : Result := .next (onPlacement s fn 1)
/-- Placement OP 2 (R157). -/
def execEvict (fn : Nat) (s : State) : Result := .next (onPlacement s fn 2)
/-- Placement OP 3 (R157). -/
def execPin (fn : Nat) (s : State) : Result := .next (onPlacement s fn 3)
/-- Placement OP 4 (R157). -/
def execUnpin (fn : Nat) (s : State) : Result := .next (onPlacement s fn 4)
/-- A promote's copy is done (R157). -/
def execPromoteCopyDone (part index : Nat) (s : State) : Result := .next (promoteDone s part index)
/-- The write-back of an evicting object starts (R157). -/
def execWriteBackStart (part index : Nat) (s : State) : Result := .next (beginWriteBack s part index)
/-- A write-back is done (R157). -/
def execWriteBackDone (part index : Nat) (s : State) : Result := .next (endWriteBack s part index)

end Sys2Proof.Machine
end

