-- ==== Sys2Proof/Machine/Errors.lean ====
section
/-! DEFINITION. Errors and what follows: kills, poison, channels and links out of service, a core declared dead and the
spare's takeover, watchdogs, scrub (R18, R130, R131, R434 to R445, R450). Log entries are notes/assumptions/<n>.md. -/

namespace Sys2Proof.Machine

open Sys2Proof

/-! ## Units (Table 18.6) -/

/-- The number of a unit in an alarm's DETAIL: a core, an HBM channel 32s + ch, an LPDDR channel. -/
def unitNumber (u : MemUnit) : Nat :=
  match u with
  | .core c => c
  | .hbm stack channel _ => 32 * stack + channel
  | .lpddr channel _ => channel

/-- The key of a unit among the units of every kind: cores, then HBM channels, then LPDDR channels. -/
def unitKey (u : MemUnit) : Nat :=
  match u with
  | .core c => c
  | .hbm stack channel _ => 32 + 32 * stack + channel
  | .lpddr channel _ => 544 + channel

/-- The log source of a unit: its cluster, or the hub that holds its LPDDR channel. -/
def unitSource (u : MemUnit) : Nat :=
  match u with
  | .core c => c / 4
  | .hbm stack _ _ => stack / 2
  | .lpddr channel _ => 8 + channel / 32

/-- The inventory has changed (R24). -/
def inventoryChange (s : State) (detail : Nat) : State := alarm s 7 detail

/-! ## A core declared dead (R441 to R445) -/

/-- Dead and out-of-service cores leave the inventory's counts (R24). -/
def inventoryCores (s : State) : State :=
  let map := dnum s 0x1100 3
  let s := dset s 0x1100 2 (popcount 32 map)
  dset s 0x1100 1 ((List.range 8).filter fun c => bits map (4 * c + 3) (4 * c) ≠ 0).length

/-- A core leaves service. -/
def coreOut (s : State) (core : Nat) : State :=
  let s := updCore s core fun k => { k with inService := false, power := .gated }
  inventoryCores (dset s 0x1100 3 (setBit (dnum s 0x1100 3) core false))

/-- The contents of a core's store are lost: nothing tells what its buffers hold (log entry 43). -/
def loseStore (s : State) (core : Nat) : State :=
  let mine := s.bufs.filter fun e => e.2.tier = 0 && e.2.core = core
  mine.foldl (fun s e =>
    let data := Mem.write [] 0 (freeBytes s e.2.size)
    { drawn s e.2.size with bufs := FMap.modify s.bufs e.1 fun b => { b with data } }) s

/-- The queue's resume point has live core-store bytes on a core, and no save area holds them (R443). -/
def losesLive (s : State) (core : Nat) (Q : Queue) : Bool :=
  match Q.job.bind (jobAt s) with
  | none => false
  | some J => (J.grant = .holding || J.grant = .yielding)
      && (liveAt s J Q).any fun key => (FMap.get? s.bufs key).any fun b => b.core = core

/-- The queue has a started or fetched command on a core. -/
def queueOn (core : Nat) (Q : Queue) : Bool := Q.cmds.any fun c => opEngine c.op && c.core = core && !c.failed

/-- Beat 0 of Table 18.4 for the queues: those with a command on the core are fault-killed without counting, and those
whose resume point lost live bytes stop. -/
def strikeCore (s : State) (core : Nat) : State :=
  let lost := (s.queues.filter fun e => losesLive s core e.2 && !e.2.stopped).map Prod.fst
  let s := s.queues.foldl (fun s e => if queueOn core e.2 then strikeQueue s e.1 .uncounted else s) s
  lost.foldl (fun s q => stopQueue s q 0x0B01) s

/-- Beat 1: the spare leaves its fence under the dead core's name, with the name's place in the pool and its holder, and
its wake is requested. -/
def wakeSpare (s : State) (core : Nat) : State :=
  let old := coreAt s core
  let s := updCore s core fun _ => { holder := old.holder, zeroing := old.zeroing, idleSince := s.now }
  requestWake s core

/-- The spare of a cluster is no longer available: it died while it took a name over, or its cluster left service (R24). -/
def spareGone (s : State) (c : Nat) : State :=
  dset (updCluster s c fun cl => { cl with takeoverCore := none }) 0x1100 4 (setBit (dnum s 0x1100 4) c false)

/-- A core is declared dead: its fence bit is set, its queues are struck, and the cluster's spare takes its name, or the
core leaves service where no spare remains. -/
def declareDead (s : State) (core : Nat) : State :=
  let c := core / 4
  let k := core % 4
  let cl := clusterAt s c
  if !(coreAt s core).inService then s
  else
    let s := updCluster s c fun cl => { cl with fenced := cl.fenced ++ [cl.names.getD k 0] }
    let s := strikeCore (alarmLog s 66 core c) core
    let s := loseStore s core
    match cl.spare with
    | some p =>
      let s := updCluster s c fun cl => { cl with names := cl.names.set k p, spare := none, takeoverCore := some k }
      wakeSpare s core
    | none =>
      let served := dnum s (0xB100 + c) 1 = 1 && dnum s (0xB100 + c) 2 = k
      let s := if served || cl.takeoverCore = some k then dset s (0xB100 + c) 1 2 else s
      let s := if cl.takeoverCore = some k then spareGone s c else s
      let s := if (coreAt s core).zeroing then zeroingDone s core else s
      inventoryChange (coreOut (alarmLog s 67 core c) core) core

/-- Beat 6,001 to 7,708 of Table 18.4 ends: the spare's store is zeroed and it has the identity. -/
def takeIdentity (s : State) (core : Nat) : State :=
  let c := core / 4
  let s := dset (dset (dset s (0xB100 + c) 1 1) (0xB100 + c) 2 (core % 4)) 0x1100 4 (setBit (dnum s 0x1100 4) c false)
  let s := updCluster s c fun cl => { cl with takeoverCore := none }
  inventoryChange s core

/-- The zeroing of a core ends: a spare that takes a name has it now and stays with the name's job, unless that job had
given the core up. -/
def coreZeroed (s : State) (core : Nat) : State :=
  let k := coreAt s core
  if !k.zeroing then s
  else
    let s := clearPoison s fun w => (FMap.get? s.bufs w.1).any fun b => b.tier = 0 && b.core = core
    if (clusterAt s (core / 4)).takeoverCore = some (core % 4) then
      let s := takeIdentity (zeroStore s core fun _ => true) core
      match k.holder.bind (jobAt s) with
      | some J => if J.grant = .zeroing then zeroingDone s core else updCore s core fun k => { k with zeroing := false }
      | none => zeroingDone s core
    else zeroingDone s core

/-- A spare takeover under way starts again from beat 0 (R450). -/
def repeatTakeover (s : State) (c : Nat) : State :=
  match (clusterAt s c).takeoverCore with
  | none => s
  | some k => wakeSpare (strikeCore s (4 * c + k)) (4 * c + k)

/-- One fault kill from a detection in a core; the 16th within 10⁹ beats declares the core dead (R441). -/
def noteFaultKill (s : State) (core : Nat) : State :=
  let l := (s.now :: (coreAt s core).faultKills).take 16
  let s := updCore s core fun k => { k with faultKills := l }
  let s := bump s (0xB100 + core / 4) 6 1
  if l.length = 16 && s.now - l.getD 15 0 ≤ 10 ^ 9 then declareDead s core else s

/-- The core of the oldest engine command that a kill of the queue strikes. -/
def struckCore (s : State) (q : Nat) : Option Nat :=
  ((queueAt s q).map (struck s.now)).bind fun l => (l.find? fun c => opEngine c.op).map Cmd.core

/-- A kill of a queue (R130). A fault kill counts against the core of the command that it strikes. -/
def kill (s : State) (q : Nat) (kind : KillKind) : State :=
  let core := struckCore s q
  let s := killQueue s q kind
  match kind, core with
  | .fault, some k => noteFaultKill s k
  | _, _ => s

/-! ## Corrected errors, scrub (R434, R437, R438) -/

/-- The entry index that counts a unit's errors, with its corrections' and its uncorrectable errors' subindices. -/
def unitEntry (u : MemUnit) : Nat × Nat × Nat :=
  match u with
  | .core c => (0xB100 + c / 4, 4, 5)
  | .hbm stack _ _ => (0xB200 + stack, 1, 2)
  | .lpddr channel _ => (0xB300 + channel, 1, 2)

/-- A corrected error: counted, logged, a re-read on an LPDDR channel; more than 1,000 in 1 s on one unit raise the alarm. -/
def corrected (s : State) (u : MemUnit) : State :=
  let (i, c, _) := unitEntry u
  let key := unitKey u
  let l := (s.now :: FMap.getD s.rel.corrections key []).take 1001
  let s := bump { s with rel := { s.rel with corrections := FMap.set s.rel.corrections key l } } i c 1
  let s := match u with
    | .lpddr channel _ => bump s (0x6440 + channel) 3 1
    | _ => s
  if l.length = 1001 && s.now - l.getD 1000 0 ≤ 10 ^ 9 then alarmLog s 64 (unitNumber u) (unitSource u)
  else detectFree s (unitNumber u) (unitSource u)

/-- Rows on the repair lists of one stack or channel. -/
def repairRows (s : State) (u : MemUnit) : Nat :=
  match u with
  | .core _ => 0
  | .hbm stack _ _ => ((List.range 32).map fun ch => (FMap.getD s.rel.repair (32 + 32 * stack + ch) []).length).sum
  | .lpddr channel _ => (FMap.getD s.rel.repair (544 + channel) []).length

/-- Rows that a repair list holds. -/
def repairLimit (u : MemUnit) : Nat :=
  match u with
  | .core _ => 0
  | .hbm _ _ _ => 64
  | .lpddr _ _ => 16

/-- Scrub corrected errors in a row: the second pass that does so enters the row, while the list has room. -/
def scrubRow (u : MemUnit) (s : State) (row : Nat) : State :=
  let key := unitKey u
  let seen := FMap.getD s.rel.corrected key []
  let list := FMap.getD s.rel.repair key []
  if !seen.contains row then { s with rel := { s.rel with corrected := FMap.set s.rel.corrected key (seen ++ [row]) } }
  else if list.contains row || repairLimit u ≤ repairRows s u then s
  else { s with rel := { s.rel with repair := FMap.set s.rel.repair key (list ++ [row]) } }

/-- The period of a unit's scrub in seconds. -/
def scrubPeriod (u : MemUnit) : Nat :=
  match u with
  | .core _ => 60
  | .hbm _ _ _ => 28800
  | .lpddr _ _ => 86400

/-- A scrub pass over a unit ends after `seconds`, with the rows in which it corrected errors. -/
def scrub (s : State) (u : MemUnit) (rows : List Nat) (seconds : Nat) : State :=
  let (i, _, _) := unitEntry u
  let s := match u with
    | .core _ => s
    | _ =>
      let s := rows.eraseDups.foldl (scrubRow u) s
      dset (dset s i 3 (repairRows s u)) i 5 (min seconds (2 ^ 32 - 1))
  if 2 * scrubPeriod u < seconds then alarmLog s 74 (unitNumber u) (unitSource u) else s

/-! ## Uncorrectable errors (R162, R435, R436, R438, R439) -/

/-- A word of a live buffer is poisoned: its partition, index and offset. -/
def poisonWord (s : State) (word : Option (Nat × Nat × Nat)) (p : Buf → Bool) : State :=
  match word with
  | none => s
  | some (part, index, off) =>
    let w := (bufKey part index, off / 8)
    if (FMap.get? s.bufs w.1).any (fun b => p b && off < b.size) && !s.rel.poison.contains w then
      { s with rel := { s.rel with poison := s.rel.poison ++ [w] } }
    else s

/-- An uncorrectable error or a parity error in a core: the command that met it is fault-killed, the word is poisoned. -/
def uncorrectable (s : State) (core : Nat) (q : Option Nat) (word : Option (Nat × Nat × Nat)) : State :=
  let s := alarmLog (bump s (0xB100 + core / 4) 5 1) 65 core (core / 4)
  let s := poisonWord s word fun b => b.tier = 0 && b.core = core
  match q with
  | none => s
  | some q => if (queueAt s q).any (fun Q => !(struck s.now Q).isEmpty) then noteFaultKill (killQueue s q .fault) core else s

/-- Transfers under way that need a channel out of service: the first such command of each queue fails, and so do copies of
tiered objects (R162, R439). -/
def failTransfers (s : State) : State :=
  let s := s.queues.foldl (fun s e =>
    match e.2.cmds.find? fun c => c.state = .started && opEngine c.op && !c.failed && pathsOf s e.2 c = 0x0685 with
    | none => s
    | some c => fail s e.1 c.uid 0x0685) s
  s.tiered.foldl (fun s e =>
    if e.2.copying && copyOut s (keyPart e.1) e.1 e.2.copyAddr then copyFails s (keyPart e.1) e.1 0x0685 else s) s

/-- A memory channel leaves service: an HBM channel with its quarter. -/
def channelOut (s : State) (u : MemUnit) : State :=
  let s := match u with
    | .core _ => s
    | .hbm stack channel _ =>
      let quarter := (List.range 8).map fun i => 32 * stack + channel / 8 * 8 + i
      let s := { s with rel := { s.rel with hbmOut := s.rel.hbmOut ++ quarter.filter fun ch => !s.rel.hbmOut.contains ch } }
      let out := setBit (dnum s (0xB200 + stack) 4) (channel / 8) true
      let s := dset s (0xB200 + stack) 4 out
      if out = 15 then dset s 0x1100 5 (setBit (dnum s 0x1100 5) stack false) else s
    | .lpddr channel _ =>
      let s := { s with rel := { s.rel with lpddrOut := s.rel.lpddrOut ++ [channel] } }
      dset s 0x1100 7 (setBit (dnum s 0x1100 7) channel false)
  failTransfers (inventoryChange (alarmLog s 69 (unitNumber u) (unitSource u)) (unitNumber u))

/-- The channel of a unit is out of service. -/
def unitOut (s : State) (u : MemUnit) : Bool :=
  match u with
  | .core _ => false
  | .hbm stack channel _ => s.rel.hbmOut.contains (32 * stack + channel)
  | .lpddr channel _ => s.rel.lpddrOut.contains channel

/-- An uncorrectable error of a lower tier is counted; the channel's fourth within 24 h takes it out of service. -/
def channelError (s : State) (u : MemUnit) : State :=
  match u with
  | .core _ => s
  | _ =>
    let (i, _, c) := unitEntry u
    let key := unitKey u
    let l := (s.now :: FMap.getD s.rel.errors key []).take 4
    let s := alarmLog (bump s i c 1) 65 (unitNumber u) (unitSource u)
    let s := { s with rel := { s.rel with errors := FMap.set s.rel.errors key l } }
    if l.length = 4 && s.now - l.getD 3 0 ≤ 86400 * 10 ^ 9 && !unitOut s u then channelOut s u else s

/-- The outcome of an uncorrectable read for what it was for: a command fails, a promote falls back to the home, a
write-back falls back to the copy. -/
def lowerRead (s : State) (read : LowerRead) : State :=
  match read with
  | .command q =>
    match (queueAt s q).bind fun Q => Q.cmds.find? fun c => c.state = .started && opEngine c.op with
    | none => s
    | some c => fail s q c.uid 0x0684
  | .promote part index =>
    if (tieredAt s (bufKey part index)).state = .promoting then copyFails s part (bufKey part index) 0x0684 else s
  | .writeBack part index channelOut =>
    if (tieredAt s (bufKey part index)).state = .evicting then
      copyFails s part (bufKey part index) (if channelOut then 0x0685 else 0x0684)
    else s

/-- An uncorrectable read from a lower tier: its own outcome first, then what the error means for its channel. -/
def uncorrectableLower (s : State) (read : LowerRead) (u : MemUnit) (word : Option (Nat × Nat × Nat)) : State :=
  channelError (lowerRead (poisonWord s word fun b => b.tier ≠ 0) read) u

/-! ## Clusters and links out of service (R18, R439) -/

/-- A cluster leaves service with its cores: their commands are fault-killed without counting and then fail at start. -/
def clusterOut (s : State) (c : Nat) : State :=
  if !(clusterAt s c).inService then s
  else
    let s := spareGone (updCluster s c fun cl => { cl with inService := false }) c
    let s := s.queues.foldl (fun s e => if [0, 1, 2, 3].any fun k => queueOn (4 * c + k) e.2 then strikeQueue s e.1 .uncounted else s) s
    let s := [0, 1, 2, 3].foldl (fun s k => coreOut (if (coreAt s (4 * c + k)).zeroing then zeroingDone s (4 * c + k) else s) (4 * c + k)) s
    inventoryChange s (4 * c)

/-- The hub of the active host interface (0x1100.0B). -/
def activeHub (s : State) : Nat := dnum s 0x1100 11

/-- Clusters that the active hub cannot reach leave service. -/
def checkReach (s : State) : State :=
  (List.range 8).foldl (fun s c => if (hubRoute (activeHub s) c).all (linkUp s) then s else clusterOut s c) s

/-- A module of a crook link loses lanes. Its two spare lanes replace as many; a link that loses more goes out of service
(R18, log entry 147). -/
def linkLoss (s : State) (link module lanes : Nat) : State :=
  let used := FMap.getD s.rel.crookLanes (5 * link + module) 0
  if !linkUp s link then s
  else if used + lanes ≤ 2 then
    bump { s with rel := { s.rel with crookLanes := FMap.put 0 s.rel.crookLanes (5 * link + module) (used + lanes) } } (0xB400 + link) 2 lanes
  else
    let s := dset (dset s (0xB400 + link) 3 0) 0x1100 9 (setBit (dnum s 0x1100 9) link false)
    checkReach (inventoryChange (alarmLog s 68 link (leaderSource s)) link)

/-- A watchdog expires. A control complex that resets leads no longer; a cluster controller is reset by the leader, and its
second failed reset within 1 s takes the cluster out. -/
def watchdog (s : State) (who : Watchdog) : State :=
  match who with
  | .control hub =>
    let s := detectFree s (match hub with | .east => 0 | .west => 1) (match hub with | .east => 8 | .west => 9)
    match hub with
    | .east => { s with lease := { s.lease with leadsEast := false } }
    | .west => { s with lease := { s.lease with leadsWest := false } }
  | .cluster c works =>
    let n := (s.queues.filter fun e => e.2.cmds.any fun d => opEngine d.op && d.core / 4 = c && d.state ≠ .fetched && !d.failed).length
    let s := bump (killOnCores (detectFree s c c) (fun k => k / 4 = c) .fault) (0xB100 + c) 6 n
    if works then s
    else
      let l := (s.now :: (clusterAt s c).controllerResets).take 2
      let s := updCluster s c fun cl => { cl with controllerResets := l }
      if l.length = 2 && s.now - l.getD 1 0 ≤ 10 ^ 9 then clusterOut s c else s

/-- 100 µs of heartbeat silence declare a core dead. -/
def heartbeatLoss (s : State) (core : Nat) : State := declareDead s core

/-! ## Meanings -/

/-- A kill (R130). -/
def execKill (q : Nat) (kind : KillKind) (s : State) : Result := .next (kill s q kind)
/-- A corrected error (R435). -/
def execCorrectedError (unit : MemUnit) (s : State) : Result := .next (corrected s unit)
/-- An uncorrectable error in a core (R435). -/
def execUncorrectableError (core : Nat) (q : Option Nat) (word : Option (Nat × Nat × Nat)) (s : State) : Result :=
  .next (uncorrectable s core q word)
/-- An uncorrectable read from a lower tier (R162). -/
def execUncorrectableReadLowerTier (read : LowerRead) (unit : MemUnit) (word : Option (Nat × Nat × Nat)) (s : State) : Result :=
  .next (uncorrectableLower s read unit word)
/-- A core's heartbeat is lost (R441). -/
def execCoreHeartbeatLoss (core : Nat) (s : State) : Result := .next (heartbeatLoss s core)
/-- A watchdog expires (R435). -/
def execWatchdogExpiry (who : Watchdog) (s : State) : Result := .next (watchdog s who)
/-- A scrub pass ends (R437). -/
def execScrubPass (unit : MemUnit) (rows : List Nat) (seconds : Nat) (s : State) : Result := .next (scrub s unit rows seconds)
/-- Lanes of a crook link are lost (R18). -/
def execCrookLinkLoss (loss : CrookLoss) (s : State) : Result := .next (linkLoss s loss.link loss.module loss.lanes)
/-- The zeroing of a core ends (R142, R314, R442). -/
def execCoreZeroingDone (core : Nat) (s : State) : Result := .next (coreZeroed s core)

end Sys2Proof.Machine
end

