-- ==== Sys2Proof/Machine/Lease.lean ====
section
/-! DEFINITION. The leader lease, takeover and demotion, crossbar epochs, and the failover of the host interface (R23, R344,
R446 to R450). Log entries are notes/assumptions/<n>.md. -/

namespace Sys2Proof.Machine

open Sys2Proof

/-! ## Sessions and requests in progress (R350, R431) -/

/-- Requester number of a session. -/
def sessionRequester (id : Nat) : Nat := id + 1

/-- A session ends; its staged value is discarded (R416). -/
def endSession (s : State) (id : Nat) : State :=
  { s with
    sec := { s.sec with sessions := FMap.erase s.sec.sessions id }
    tel := { s.tel with staged := FMap.erase s.tel.staged (sessionRequester id) } }

/-- Every session ends, and every request and staged value in progress is lost with no effect. -/
def dropRequests (s : State) : State :=
  let s := { s with
    sec := { s.sec with sessions := [] }
    tel := { s.tel with staged := [], busy := [], heldWrites := [], dictBusy := false } }
  { s with parts := FMap.mapVal s.parts fun _ p => { p with zeroing := [] } }

/-- Requests of an engine that no one waits for any more run without a use. -/
def forgetUses (e : Engine) (p : EngineUse → Bool) : Engine :=
  let f (r : EngineReq) : EngineReq := if p r.use then { r with use := .none } else r
  { e with running := e.running.map fun x => (x.1, f x.2), waiting := e.waiting.map f, held := e.held.map f }

/-- Both engines forget the uses for which `p` holds. -/
def forgetAll (s : State) (p : EngineUse → Bool) : State :=
  updEngine (updEngine s .east fun e => forgetUses e p) .west fun e => forgetUses e p

/-- Requests of an engine, the running one first. -/
def engineReqs (e : Engine) : List EngineReq := (e.running.map Prod.snd).toList ++ e.waiting ++ e.held

/-! ## Mailbox requests at a leader change (R449) -/

/-- Key registrations that an engine still works for are answered with 0x0B04. -/
def abandonKeys (s : State) : State :=
  let regs := (engineReqs s.sec.east ++ engineReqs s.sec.west).filterMap fun r => match r.use with
    | .keyVerify fn g => some (fn, g)
    | .keyEcdh fn g => some (fn, g)
    | _ => none
  regs.foldl (fun s e => respond s e.1 4 e.2.seq (response32 s (field e.2.message 240 4) 0x0B04 0)) s

/-- Requests that wait for a bind or an unbinding are answered; a bind under way is undone. -/
def abandonBinds (s : State) : State :=
  s.ctxs.foldl (fun s e =>
    match e.2.answer with
    | none => s
    | some (fn, seq, tag) =>
      let s := respond s fn 4 seq (response32 s tag 0x0B04 0)
      let state : CtxState := if e.2.state = .binding then .unbinding else e.2.state
      { s with ctxs := FMap.set s.ctxs e.1 { e.2 with state, answer := none } }) s

/-- Placement requests are answered; a copy under way is undone: a promote back to the home, an eviction back to the copy. -/
def abandonPlacement (s : State) : State :=
  s.tiered.foldl (fun s e =>
    let part := keyPart e.1
    let t := e.2
    let s := completeAll s part (t.current ++ t.waiters) 0x0B04 s.now
    let t := { t with current := [], waiters := [] }
    match t.state with
    | .promoting =>
      putTiered (uncharge s part t.charged 1 (copyCharge s e.1)) e.1 { t.to s .absent with copying := false, charged := 0, copyAddr := 0 }
    | .evicting => putTiered s e.1 { t.to s .resident with copying := false }
    | _ => putTiered s e.1 t) s

/-- A base load or replacement in progress leaves the base broken (R190). -/
def abandonBase (s : State) (part : Nat) : State :=
  match baseJobAt s part with
  | none => s
  | some b =>
    let s := updPart s part fun p => { p with baseJob := none }
    let s := { s with host := { s.host with reads := FMap.mapVal s.host.reads fun _ r =>
      if r.use = (.baseTensor part) then { r with squashed := true } else r } }
    let s := if !b.keeps then s
      else
        let s := if b.replace then breakBase s part b else chargeBase s part 0 (baseCharge b.tensors)
        let s := updPart (noBase s part 4) part fun p => { p with brokenStatus := 0x0B04 }
        bumpBaseGen (failIncoming s part 0x0B04) part
    if b.member then s else respond s b.fn 5 b.seq (baseBytes s b.tag 0x0B04 b.members.toNat b.digest)

/-- Requests that stand in a mailbox are answered with 0x0B04. -/
def abandonInbox (s : State) (fn : Nat) : State :=
  (mboxAt s fn).inbox.foldl (fun s m => answer (popMessage s fn m) fn m 0x0B04 0) s

/-- Every mailbox request without a completion is abandoned and answered. -/
def abandonRequests (s : State) : State :=
  let s := (s.parts.map Prod.fst).foldl abandonBase s
  let s := abandonPlacement (abandonBinds (abandonKeys s))
  (s.mbx.map Prod.fst).foldl abandonInbox s

/-! ## Failover of the host interface (R344) -/

/-- Failover, at most once per start: east goes idle, reads in flight are lost, west becomes the active interface. -/
def failover (s : State) : State :=
  if s.host.failedOver || activeHub s = 1 then s
  else
    let lost := s.host.reads.filter fun e => !e.2.squashed
    let s := { s with host := { s.host with
      failedOver := true, eastUp := false, pausedTo := s.now + 1000, reads := s.host.reads.filter fun e => !e.2.squashed } }
    let s := bump (bump (dset s 0x1100 11 1) 0xA040 2 1) 0xA040 3 lost.length
    let s := lost.foldl (fun s e => hostReadDone s e.1 false []) (alarm s 8 0)
    checkReach s

/-! ## The lease (R446 to R448) -/

/-- A hub's arbiter. -/
def arbiterAt (s : State) (h : Hub) : Arbiter := match h with | .east => s.lease.east | .west => s.lease.west
/-- The epoch at which a control complex acts. -/
def epochOf (s : State) (h : Hub) : Nat := match h with | .east => s.lease.epochEast | .west => s.lease.epochWest
/-- The complex runs and acts as leader. -/
def leads (s : State) (h : Hub) : Bool :=
  match h with
  | .east => s.lease.leadsEast && s.lease.upEast
  | .west => s.lease.leadsWest && s.lease.upWest
/-- The other hub. -/
def otherHub (h : Hub) : Hub := match h with | .east => .west | .west => .east

/-- A complex acts at an epoch, as leader or follower. -/
def setLead (s : State) (h : Hub) (epoch : Nat) (lead : Bool) : State :=
  match h with
  | .east => { s with lease := { s.lease with epochEast := epoch, leadsEast := lead } }
  | .west => { s with lease := { s.lease with epochWest := epoch, leadsWest := lead } }

/-- A leader demotes itself to follower at the epoch that its arbiter holds. -/
def demote (s : State) (h : Hub) : State :=
  if leads s h then bump (setLead s h (arbiterAt s h).epoch false) 0xB000 4 1 else s

/-- Both arbiters take an epoch, a holder and a renewal. -/
def writeArbiters (s : State) (h : Hub) (epoch : Nat) : State :=
  let a : Arbiter := { epoch, holder := h, renewed := s.now }
  { s with lease := { s.lease with east := a, west := a, heartbeat := s.now } }

/-- A leading complex renews, or sees a higher epoch in its arbiter and demotes itself. -/
def renewHub (s : State) (h : Hub) : State :=
  if !leads s h then s
  else if epochOf s h < (arbiterAt s h).epoch then demote s h
  else writeArbiters s h (epochOf s h)

/-- The follower takes the lease: three renewals are missed and the heartbeat is silent for 3 ms. -/
def takeover (s : State) : State :=
  let h := otherHub (leader s)
  let up := match h with | .east => s.lease.upEast | .west => s.lease.upWest
  let epoch := (arbiterAt s h).epoch
  if !up then s
  else if 2 ^ 32 - 1 ≤ epoch then alarmLog s 73 0 (match h with | .east => 8 | .west => 9)
  else
    let s := { s with now := max s.now (max (arbiterAt s h).renewed s.lease.heartbeat + 3000000) }
    let s := setLead (writeArbiters s h (epoch + 1)) h (epoch + 1) true
    let s := (List.range 8).foldl (fun s c => if (clusterAt s c).inService then
      updCluster s c fun cl => { cl with epochSeen := epoch + 1, epochFrom := h } else s) s
    let s := bump (dset (dset s 0xB000 1 (match h with | .east => 0 | .west => 1)) 0xB000 2 (epoch + 1)) 0xB000 3 1
    let s := alarmLog s 70 0 (leaderSource s)
    let s := s.queues.foldl (fun s e => killQueue s e.1 .uncounted) s
    let s := forgetAll (dropRequests (abandonRequests s)) fun _ => true
    let s := (List.range 8).foldl repeatTakeover s
    if h = .west then failover s else s

/-- A crossbar takes a management message of the highest epoch it has seen, and of two complexes at one epoch east's; it
drops and counts any other, and a sender at a lower epoch demotes itself. -/
def management (s : State) (c : Nat) (src : Hub) (epoch : Nat) : State :=
  let cl := clusterAt s c
  let tie := epoch = cl.epochSeen && src = .west && cl.epochFrom = .east && fuse s 1
  if epoch < cl.epochSeen || tie then
    let s := alarmLog (bump s 0xB000 5 1) 72 c c
    if epoch < cl.epochSeen && epochOf s src < cl.epochSeen then demote s src else s
  else updCluster s c fun cl => { cl with epochSeen := epoch, epochFrom := src }

/-! ## Meanings -/

/-- The leader renews the lease (R446). -/
def execLeaseRenewal (s : State) : Result := .next (renewHub (renewHub s .east) .west)
/-- Only one of the two conditions holds for 3 ms (R447). -/
def execLeaseDisagreement (s : State) : Result := .next (alarmLog s 71 0 (leaderSource s))
/-- A complex that sees a higher epoch demotes itself (R448). -/
def execDemotion (hub : Hub) (s : State) : Result :=
  .next (if epochOf s hub < max (arbiterAt s hub).epoch (dnum s 0xB000 2) then demote s hub else s)
/-- A management message reaches a cluster crossbar (R23). -/
def execManagementMessage (cluster : Nat) (src : Hub) (epoch : Nat) (s : State) : Result := .next (management s cluster src epoch)

end Sys2Proof.Machine
end

