-- ==== Sys2Proof/Machine/ConfigStore.lean ====
section
/-! DEFINITION. Configuration copies, commits and firmware updates (R397 to R404). Log entries are
notes/assumptions/<n>.md. -/

namespace Sys2Proof.Machine

open Sys2Proof

/-! ## Copies (Table 16.6) -/

/-- The entries that a copy stores, in ascending order (R403). -/
def storedKeys : List Nat := (entryTable.flatMap Entry.keys).filter fun k => entryStored (k / 256) (k % 256)

/-- A value as its bytes. -/
def valueBytes (key : Nat) (v : DVal) : List Byte :=
  match v with
  | .num n => toLe (((entryAt (key / 256) (key % 256)).map fun e => e.ty.width).getD 8) n
  | .blob b => b

/-- One body record (R401). -/
def copyRecord (key : Nat) (v : DVal) : List Byte :=
  let b := valueBytes key v
  let code := ((entryAt (key / 256) (key % 256)).map fun e => e.ty.code).getD 0
  toLe 2 (key / 256) ++ toLe 1 (key % 256) ++ toLe 1 code ++ toLe 4 b.length ++ b ++ zeros (roundUp b.length 8 - b.length)

/-- Header and body of a copy. -/
def copyImage (seq : Nat) (body : List (Nat × DVal)) : List Byte :=
  let b := body.flatMap fun e => copyRecord e.1 e.2
  [0x46, 0x43, 0x46, 0x31] ++ toLe 4 seq ++ toLe 4 b.length ++ toLe 4 body.length ++ [0x41] ++ zeros 47 ++ b

/-- A whole copy: header, body, the installer's slot and key, its signature, the CRC. -/
def copyWhole (image : List Byte) (slot : Nat) (value : List Byte) : List Byte :=
  let b := image ++ toLe 4 slot ++ value
  b ++ toLe 4 (crc32c b)

/-- SEQ of a copy. -/
def copySeq (c : List Byte) : Nat := field c 4 4
/-- Bytes of its header and body. -/
def copyLength (c : List Byte) : Nat := 64 + field c 8 4

/-- The records of a body, `n` of them; none where one runs past the end. -/
def bodyRecords (n : Nat) (b : List Byte) : Option (List (Nat × Nat × List Byte)) :=
  match n with
  | 0 => if b.isEmpty then some [] else none
  | n + 1 =>
    let len := field b 4 4
    let size := 8 + roundUp len 8
    if b.length < size then none
    else (bodyRecords n (b.drop size)).map fun t => (dkey (field b 0 2) (field b 2 1), field b 3 1, slice b 8 len) :: t

/-- The value of a record, where its entry may be stored and the value has the entry's type and lies in its range. -/
def recordValue (r : Nat × Nat × List Byte) : Option (Nat × DVal) :=
  let index := r.1 / 256
  let sub := r.1 % 256
  match entryAt index sub with
  | none => none
  | some e =>
    let v : DVal := if e.ty.width = 0 then .blob r.2.2 else .num (leNat r.2.2)
    if entryStored index sub && e.ty.code = r.2.1 && (e.ty.width = 0 || e.ty.width = r.2.2.length) && valueStatus index sub v = 0
    then some (r.1, withoutReserved index sub v) else none

/-- The values that a copy stores; none where a record is not valid. -/
def copyValues (c : List Byte) : Option (List (Nat × DVal)) :=
  (bodyRecords (field c 12 4) (slice c 64 (field c 8 4))).bind fun rs => rs.mapM recordValue

/-- An installer key fills a slot that is not revoked (Table 14.3): the first such slot. -/
def installerSlot (s : State) (pub : List Byte) : Option Nat :=
  (List.range 4).find? fun i => !s.sec.fuses.installerRevoked.getLsbD i && FMap.get? s.sec.fuses.installerKeys i = some (sha384 pub)

/-- A copy is valid (R402). -/
def copyValid (s : State) (c : List Byte) : Bool :=
  let n := copyLength c
  let pub := slice c (n + 4) 96
  let slot := field c n 4
  c.length = n + 200 && slice c 0 4 = [0x46, 0x43, 0x46, 0x31] && field c 8 4 % 8 = 0 && slice c 16 1 = [0x41]
    && field c (n + 196) 4 = crc32c (c.take (n + 196))
    && slot < 4 && !s.sec.fuses.installerRevoked.getLsbD slot
    && FMap.get? s.sec.fuses.installerKeys slot = some (sha384 pub)
    && signatureOk (decodeKey pub) (sha384 (c.take n)) (slice c (n + 100) 96)
    && (copyValues c).isSome

/-- The copy of a hub's flash. -/
def copyOf (s : State) (h : Hub) : List Byte := match h with | .east => s.cfg.copyA | .west => s.cfg.copyB

/-- The copy that a start uses, and whether the choice was ambiguous (R402). -/
def chooseCopy (s : State) : Option Hub × Bool :=
  match copyValid s s.cfg.copyA, copyValid s s.cfg.copyB with
  | false, false => (none, false)
  | true, false => (some .east, false)
  | false, true => (some .west, false)
  | true, true =>
    let d := (copySeq s.cfg.copyB + 2 ^ 32 - copySeq s.cfg.copyA) % 2 ^ 32
    if d = 0 || d = 2 ^ 31 then (some .east, true) else if d < 2 ^ 31 then (some .west, false) else (some .east, false)

/-! ## The pending copy (R403) -/

/-- The values of the active copy; none of them while the defaults are in use. -/
def activeValues (s : State) : List (Nat × DVal) :=
  match dnum s 0x2000 1 with
  | 0 => (copyValues s.cfg.copyA).getD []
  | 1 => (copyValues s.cfg.copyB).getD []
  | _ => []

/-- What a copy's values, or the defaults, give an entry. -/
def storedValue (vs : List (Nat × DVal)) (key : Nat) : DVal := ((vs.find? fun e => e.1 = key).map Prod.snd).getD (entryDefault key)

/-- Header and body of the pending copy: the active copy's values with every pending write, SEQ one above. -/
def pendingImage (s : State) : List Byte :=
  let active := activeValues s
  copyImage ((dnum s 0x2000 2 + 1) % 2 ^ 32)
    (storedKeys.map fun k => (k, if s.cfg.pendingWrites.contains k then dget s k else storedValue active k))

/-- The value of 0x2000.03. -/
def pendingDigest (s : State) : List Byte := if s.cfg.pendingWrites.isEmpty then zeros 48 else sha384 (pendingImage s)

/-- The state of 0x2000.05 outside a write. -/
def commitIdle (s : State) : State := dset s 0x2000 5 (if s.cfg.pendingWrites.isEmpty then 0 else 1)

/-- An installer's write to a stored entry is pending until a commit. -/
def markPending (s : State) (role : Role) (key : Nat) : State :=
  if role = .installer && entryStored (key / 256) (key % 256) then
    let p := if s.cfg.pendingWrites.contains key then s.cfg.pendingWrites else s.cfg.pendingWrites ++ [key]
    let s := { s with cfg := { s.cfg with pendingWrites := p } }
    if s.cfg.writing.isSome then s else commitIdle s
  else s

/-! ## Commit (R403, R404) -/

/-- A commit is in progress: its signature is being verified, or its copy written. -/
def committing (s : State) : Bool :=
  s.cfg.writing.isSome || (engineReqs s.sec.east ++ engineReqs s.sec.west).any fun r => match r.use with
    | .configCommit _ _ _ => true
    | _ => false

/-- Whether a commit is refused before its signature is looked at. -/
def commitStatus (s : State) : Status :=
  if committing s then 0x0C04
  else if dnum s 0x2000 8 = 1 then 0x0C05
  else if s.cfg.pendingWrites.isEmpty || s.cfg.readDigest ≠ pendingDigest s then 0x0C03
  else 0

/-- A commit begins: the signature goes to the leader's engine. -/
def beginCommit (s : State) (role : Role) (value : List Byte) : State :=
  let image := pendingImage s
  submitEngine s (leader s)
    (.verify (decodeKey (slice value 0 96)) (sha384 image) (beNat (slice value 96 48)) (beNat (slice value 144 48)))
    .firmware (.configCommit role value image)

/-- The hub whose copy a commit rewrites: the older or invalid one; copy A where neither is in use (log entry 47). -/
def commitTarget (s : State) : Hub := if dnum s 0x2000 1 = 0 then .west else .east

/-- The status with which the engine's answer ends a commit. -/
def verifiedStatus (s : State) (value : List Byte) (o : EngineOut) : Status :=
  if o.status ≠ 0 || (installerSlot s (slice value 0 96)).isNone then 0x0C02 else 0

/-- The verified copy is written: four sectors of the target's device are erased. A write after the signature was made
stays pending. -/
def writeCopy (s : State) (value image : List Byte) : State :=
  let h := commitTarget s
  let stored := (copyValues image).getD []
  let pendingWrites := s.cfg.pendingWrites.filter fun k => storedValue stored k ≠ dget s k
  let s := eraseSectors s h 1024 4
  let copy := copyWhole image ((installerSlot s (slice value 0 96)).getD 0) value
  dset { s with cfg := { s.cfg with writing := some (h, copy), pendingWrites, readDigest := [] } } 0x2000 5 2

/-- The copy is written and active. -/
def copyWritten (s : State) (h : Hub) (copy : List Byte) : State :=
  let cfg := match h with
    | .east => { s.cfg with copyA := copy, writing := none }
    | .west => { s.cfg with copyB := copy, writing := none }
  commitIdle (dset (dset { s with cfg } 0x2000 1 (hubNumber h)) 0x2000 2 (copySeq copy))

/-! ## Firmware (R398 to R400) -/

/-- The slot that a hub runs (0x1200.08). -/
def runningSlot (s : State) (h : Hub) : Nat := if bit (dnum s 0x1200 8) (hubNumber h) then 1 else 0
/-- The image in a slot of a hub's device. -/
def slotImage (s : State) (h : Hub) (slot : Nat) : Option FwImage := FMap.get? s.cfg.slots (2 * hubNumber h + slot)

/-- A slot has a sector at its erase limit. -/
def slotWorn (s : State) (h : Hub) (slot : Nat) : Bool :=
  s.cfg.erases.any fun e => e.1 / 4096 = hubNumber h && e.1 % 4096 / 512 = slot && 100000 ≤ e.2

/-- An image whose security version is refused, at update and at boot (R399, R400). -/
def versionRefused (s : State) (image : FwImage) : Bool :=
  image.svn < s.sec.fuses.antiRollback || (s.sec.fuses.antiRollback = 128 && 128 < image.svn)

/-- The answer to an update of the slot that a hub does not run. -/
def updateCheck (s : State) (h : Hub) (image : FwImage) : Status :=
  if 32 * 2 ^ 20 < image.bytes then 0x0C07
  else if versionRefused s image then 0x0C08
  else if slotWorn s h (1 - runningSlot s h) then unnamedRefusal s
  else 0

/-- A firmware update of one device: it takes effect at the next start. -/
def firmwareUpdate (s : State) (h : Hub) (image : FwImage) : State :=
  if droneOnly s then s
  else
    let st := updateCheck s h image
    let s := drawn { s with cfg := { s.cfg with updateStatus := s.cfg.updateStatus ++ [(h, st)] } } 1
    if st ≠ 0 then s
    else
      let slot := 1 - runningSlot s h
      let s := eraseSectors s h (512 * slot) (ceilDiv image.bytes 65536)
      { s with cfg := { s.cfg with slots := FMap.set s.cfg.slots (2 * hubNumber h + slot) image } }

/-! ## Meanings -/

/-- A firmware update (R400). -/
def execFirmwareUpdate (hub : Hub) (image : FwImage) (s : State) : Result := .next (firmwareUpdate s hub image)

end Sys2Proof.Machine
end

