-- ==== Sys2Proof/Machine/Functions.lean ====
section
/-! DEFINITION. Functions and partitions: resets, pools, maps, quotas, assignments, epoch flush, BAR4 (R142 to R145, R165,
R166, R297 to R300, R316 to R319, R342, R343). Log entries are notes/assumptions/<n>.md. -/

namespace Sys2Proof.Machine

open Sys2Proof

/-! ## Function reset (R316 to R318) -/

/-- The value of a function's state entry outside a reset (Table 12.2). -/
def readyState (s : State) (fn : Nat) : Nat := if assigned s fn then 1 else 0

/-- Placement requests of a function are dropped without a response. -/
def dropPlacement (s : State) (fn : Nat) : State :=
  s.tiered.foldl (fun s e =>
    let mine := (e.2.current ++ e.2.waiters).filter fun r => r.fn = fn
    let i := 0x5000 + keyPart e.1
    let s := dset s i 8 (dnum s i 8 - mine.length)
    putTiered s e.1 { e.2 with
      current := e.2.current.filter fun r => r.fn ≠ fn, waiters := e.2.waiters.filter fun r => r.fn ≠ fn }) s

/-- Every pending request of a function is abandoned, and no response is written. -/
def dropPending (s : State) (fn : Nat) : State :=
  let s := forgetAll s fun u => match u with
    | .keyVerify f _ => f = fn
    | .keyEcdh f _ => f = fn
    | _ => false
  let s := { s with ctxs := FMap.mapVal s.ctxs fun _ x => match x.answer with
    | some (f, _, _) => if f = fn then { x with answer := none } else x
    | none => x }
  let s := if fn = 0 then (s.parts.map Prod.fst).foldl abandonBase s else s
  updMbox (dropPlacement s fn) fn fun m => { m with inbox := [], held := [] }

/-- Queues of a function. -/
def queuesOf (s : State) (fn : Nat) : List Nat := (s.queues.filter fun e => e.2.fn = fn).map Prod.fst

/-- A read of the function in flight that has not been squashed. -/
def readsOut (s : State) (fn : Nat) : Bool := s.host.reads.any fun e => e.2.fn = fn && !e.2.squashed

/-- The end of a reset: jobs end, buffers are freed, queues are destroyed, and the function is ready again. -/
def finishReset (s : State) (fn : Nat) : State :=
  let s := ((s.jobs.filter fun e => e.2.fn = fn).map Prod.fst).foldl endJob s
  let s := ((s.bufs.filter fun e => e.2.fn = fn && !e.2.base && !e.2.freed).map Prod.fst).foldl freeBuf s
  let s := (queuesOf s fn).foldl destroyQueue s
  let s := { s with
    mbx := FMap.put {} s.mbx fn { badDoorbells := (mboxAt s fn).badDoorbells }
    host := { s.host with
      windows := s.host.windows.filter fun e => e.1 / 8 ≠ fn, resetting := FMap.erase s.host.resetting fn } }
  dset s (fnIndex fn) 6 (readyState s fn)

/-- A reset begins: fetch, doorbells and mailbox stop, every uncommitted command is killed without re-run, and transfers are
drained or squashed. -/
def beginReset (s : State) (fn : Nat) : State :=
  if inReset s fn then s
  else
    let s := dropPending (dset s (fnIndex fn) 6 2) fn
    let s := (queuesOf s fn).foldl resetQueue s
    if dnum s (fnIndex fn) 5 = 0 && readsOut s fn then
      { s with host := { s.host with resetting := FMap.set s.host.resetting fn s.now } }
    else
      finishReset { s with host := { s.host with reads := FMap.mapVal s.host.reads fun _ r =>
        if r.fn = fn then { r with squashed := true } else r } } fn

/-- The PF's own reset, once no VF is in reset any more (R318). -/
def pfTurn (s : State) : State :=
  if s.host.pfReset && s.host.resetting.isEmpty then beginReset { s with host := { s.host with pfReset := false } } 0 else s

/-- The PF reset: every assigned VF at once, then the PF, which is in reset throughout (R316, R318). -/
def resetAll (s : State) : State :=
  if inReset s 0 then s
  else
    let vfs := (List.range 1024).filter fun i => assigned s (i + 1)
    let s := vfs.foldl (fun s i => beginReset s (i + 1)) (dset s (fnIndex 0) 6 2)
    pfTurn { s with host := { s.host with pfReset := true } }

/-- A draining function whose last read has ended is reset to its end. -/
def drainCheck (s : State) : State :=
  pfTurn ((s.host.resetting.map Prod.fst).foldl (fun s fn => if readsOut s fn then s else finishReset s fn) s)

/-- The drain limit expires: reads still outstanding are squashed. -/
def drainLimit (s : State) (fn : Nat) : State :=
  match FMap.get? s.host.resetting fn with
  | none => s
  | some t =>
    let s := { s with
      now := max s.now (t + eff s 0x2400 2)
      host := { s.host with reads := FMap.mapVal s.host.reads fun _ r => if r.fn = fn then { r with squashed := true } else r } }
    pfTurn (finishReset s fn)

/-! ## Pools (R299, R300) -/

/-- Two ranges of numbers share a number. -/
def numbersMeet (a n b m : Nat) : Bool := 0 < n && 0 < m && a < b + m && b < a + n

/-- A range of queues or contexts that would be another partition's. -/
def rangeTaken (s : State) (part sub first count : Nat) : Bool :=
  (List.range 32).any fun p => p ≠ part && numbersMeet first count (dnum s (0x4000 + p) sub) (dnum s (0x4000 + p) (sub + 1))

/-- An admitted job of a partition names a core. -/
def coreInUse (s : State) (part core : Nat) : Bool := s.jobs.any fun e => e.2.part = part && e.2.coreSet.contains core

/-- A sync block of a partition serves a job. -/
def blockInUse (s : State) (block : Nat) : Bool := s.sync.any fun e => e.1 / 256 = block

/-- No partition can be created: after a maker debug unlock, during boundary scan, outside the field (R349, R364, R365). -/
def noCreation (s : State) : Bool := s.sec.unlocked || s.sec.scanActive || s.sec.fuses.lifecycle ≠ 3

/-- The status of a core map. -/
def coreMapStatus (s : State) (part map : Nat) : Status :=
  let old := dnum s (0x4000 + part) 1
  if (List.range 32).any fun p => p ≠ part && (dnum s (0x4000 + p) 1) &&& map ≠ 0 then 0x0805
  else if (bitList 32 old).any fun k => !bit map k && coreInUse s part k then 0x0806
  else if old = 0 && map ≠ 0 && noCreation s then unnamedRefusal s
  else 0

/-- The status of a range of queues (`sub` 2) or contexts (`sub` 5). -/
def rangeStatus (s : State) (part sub first count limit : Nat) : Status :=
  let inside (n : Nat) : Bool := first ≤ n && n < first + count
  if limit < first + count then 0x0D03
  else if rangeTaken s part sub first count then 0x0805
  else if sub = 2 && s.queues.any (fun e => e.2.part = part && !inside e.1) then 0x0806
  else if sub = 5 && s.ctxs.any (fun e => e.2.part = part && !inside e.1) then 0x0806
  else 0

/-- The status of a sync block map. -/
def blockMapStatus (s : State) (part : Nat) (map : List Byte) : Status :=
  let old := leNat (dblob s (0x4000 + part) 4)
  let new := leNat map
  if map.length ≠ 32 then 0x0D02
  else if (List.range 32).any fun p => p ≠ part && (leNat (dblob s (0x4000 + p) 4)) &&& new ≠ 0 then 0x0805
  else if (bitList 256 old).any fun b => !bit new b && blockInUse s b then 0x0806
  else 0

/-- The status of a pool write (Table 12.1). -/
def poolStatus (s : State) (part sub : Nat) (v : DVal) : Status :=
  let i := 0x4000 + part
  match sub with
  | 1 => coreMapStatus s part v.toNat
  | 2 => rangeStatus s part 2 v.toNat (dnum s i 3) 8192
  | 3 => rangeStatus s part 2 (dnum s i 2) v.toNat 8192
  | 4 => blockMapStatus s part v.bytes
  | 5 => rangeStatus s part 5 v.toNat (dnum s i 6) 4096
  | _ => rangeStatus s part 5 (dnum s i 5) v.toNat 4096

/-- A pool entry takes its value. Cores that leave are zeroed; the key pair goes with the last core (R194). -/
def poolEffect (s : State) (part sub : Nat) (v : DVal) : State :=
  let i := 0x4000 + part
  let old := dnum s i 1
  let s := dput s (dkey i sub) v
  if sub ≠ 1 then s
  else
    let gone := (bitList 32 old).filter fun k => !bit v.toNat k
    let s := gone.foldl (fun s k => useCluster (updCore s k fun c => { c with zeroing := true }) (k / 4)) s
    if v.toNat = 0 then updPart s part fun p => { p with keyPair := none } else s

/-! ## Memory maps (R143 to R146) -/

/-- Another partition's map holds a unit, or is about to. -/
def unitTaken (s : State) (part sub map : Nat) : Bool :=
  (List.range 32).any fun p => p ≠ part
    && ((dnum s (0x5000 + p) sub ||| FMap.getD (partAt s p).zeroing sub 0) &&& map) ≠ 0

/-- The partition holds an object in a tier: 1 HBM, 2 capacity (R144). A configured reed directory holds its entries in
HBM (R200). Job pages are metadata and count as no object (R147). -/
def tierHolds (s : State) (part tier : Nat) : Bool :=
  (s.bufs.any fun e => keyPart (if e.2.freed then (e.1 - 2 ^ 40) % 2 ^ 25 else e.1) = part && e.2.tier = tier)
    || (if tier = 1 then decide (0 < dnum s (0x4E00 + part) 1) else s.dirs.any fun e => e.1 / 2 ^ 22 = part && e.2.location = 2)
    || (s.jobs.any fun e => e.2.part = part && (if tier = 1 then jobPages e.2.rings.length < e.2.reserved else 0 < e.2.reservedCap))
    || (tier = 1 && ((s.tiered.any fun e => keyPart e.1 = part && e.2.state ≠ .absent)
      || s.ctxs.any fun e => e.2.part = part && 0 < e.2.charge))

/-- The status of a map write: subindex 1 quarters, 2 pairs. -/
def mapStatus (s : State) (part sub map : Nat) : Status :=
  if unitTaken s part sub map then 0x0687
  else if map ≠ dnum s (0x5000 + part) sub && tierHolds s part sub then 0x0686
  else 0

/-- A map takes its value: the tier's bytes follow, and the metadata region comes with the first quarter and goes with the
last. -/
def applyMap (s : State) (part sub map : Nat) : State :=
  let i := 0x5000 + part
  let old := dnum s i sub
  let s := dset s i sub map
  if sub = 1 then
    let s := dset s i 3 (9 * 2 ^ 30 * popcount 64 map)
    if old = 0 && map ≠ 0 then dset s i 5 (dnum s i 5 + 128 * 2 ^ 20)
    else if old ≠ 0 && map = 0 then dset s i 5 (dnum s i 5 - 128 * 2 ^ 20)
    else s
  else dset s i 4 (48 * 2 ^ 30 * popcount 32 map)

/-- A map write that adds no unit applies at once; one that adds units waits for their zeroing. Tells whether it waits. -/
def mapEffect (s : State) (part sub map : Nat) : State × Bool :=
  let old := dnum s (0x5000 + part) sub
  if (bitList 64 map).all fun u => bit old u then (applyMap s part sub map, false)
  else (updPart s part fun p => { p with zeroing := FMap.set p.zeroing sub map }, true)

/-- The units that joined a partition are zeroed: the write takes effect. Answers the entry whose write is complete. -/
def mapDone (s : State) (part : Nat) : State × Option Nat :=
  match (partAt s part).zeroing with
  | [] => (s, none)
  | (sub, map) :: _ =>
    (applyMap (updPart s part fun p => { p with zeroing := FMap.erase p.zeroing sub }) part sub map, some (dkey (0x5000 + part) sub))

/-! ## VF quotas and assignment (R165, R166, R297, R342) -/

/-- The status of a VF quota: subindex 1 HBM, 2 capacity. -/
def quotaStatus (s : State) (vf sub n : Nat) : Status :=
  let i := 0x50FF + vf
  let fits := match fnPart s vf with
    | none => true
    | some p => quotaSum s p sub - dnum s i sub + n + partAccount s p sub ≤ tierBytes s p sub
  if n % 65536 ≠ 0 || !fits || n < dnum s i (sub + 2) then 0x0688 else 0

/-- A VF quota takes its value, and its partition's sum follows. -/
def quotaEffect (s : State) (vf sub n : Nat) : State :=
  let i := 0x50FF + vf
  let old := dnum s i sub
  let s := dset s i sub n
  match fnPart s vf with
  | none => s
  | some p => dset s (0x5000 + p) (sub + 5) (dnum s (0x5000 + p) (sub + 5) - old + n)

/-- This module lies in its host domain as a member, not as its head (Table 13.6). -/
def isMember (s : State) : Bool :=
  (domainModules s).contains (moduleId s) && moduleId s ≠ domainHead s

/-- The VF holds queues, jobs, buffers, charges or key records. -/
def vfHolds (s : State) (vf : Nat) : Bool :=
  s.queues.any (fun e => e.2.fn = vf) || s.jobs.any (fun e => e.2.fn = vf) || s.bufs.any (fun e => e.2.fn = vf && !e.2.base)
    || dnum s (0x50FF + vf) 3 ≠ 0 || dnum s (0x50FF + vf) 4 ≠ 0 || s.keys.any fun e => e.2.fn = vf

/-- The status of an assignment. -/
def assignStatus (s : State) (vf n : Nat) : Status :=
  if 32 ≤ n && n ≠ 0xFF then 0x0D03
  else if isMember s && n ≠ 0xFF then 0x0A04
  else if n ≠ dnum s (0x40FF + vf) 1 && vfHolds s vf then 0x0806
  else 0

/-- A VF joins or leaves a partition's counts. -/
def countVf (s : State) (vf part : Nat) (joins : Bool) : State :=
  let i := 0x5000 + part
  let move (a b : Nat) : Nat := if joins then a + b else a - b
  let s := dset s (0x4000 + part) 11 (move (dnum s (0x4000 + part) 11) 1)
  dset (dset s i 6 (move (dnum s i 6) (dnum s (0x50FF + vf) 1))) i 7 (move (dnum s i 7) (dnum s (0x50FF + vf) 2))

/-- An assignment: the partition's counts follow, and it counts as the VF's creation. -/
def assignEffect (s : State) (vf n : Nat) : State :=
  let i := 0x40FF + vf
  if n = dnum s i 1 then s
  else
    let s := match fnPart s vf with
      | none => s
      | some p => countVf s vf p false
    let s := dset (dset s i 1 n) i 6 (if n < 32 then 1 else 0)
    if n < 32 then
      let s := countVf s vf n true
      let s := [1, 2, 3, 4, 5].foldl (fun s k => dset s (0x6A00 + vf) k 0) s
      let s := ([1, 2, 3, 4] ++ (List.range 16).map (16 + ·)).foldl (fun s k => dset s (0x6500 + vf) k 0) s
      dset s (0x50FF + vf) 5 0
    else s

/-! ## Epoch flush (R319) -/

/-- The status of a flush. -/
def flushStatus (s : State) (part : Nat) : Status :=
  if s.jobs.any (fun e => e.2.part = part) || s.queues.any (fun e => e.2.part = part) then 0x0809 else 0

/-- Every retired index of the partition returns with generation 0, and an index without a buffer counts as one that has
held none (R122); base buffers keep their indices and generations. -/
def flush (s : State) (part : Nat) : State :=
  let kept := s.index.filter fun e => !(keyPart e.1 = part && e.2.retired && !e.2.live)
  let index := FMap.mapVal kept fun k x => if keyPart k = part && !x.live then { x with ever := false } else x
  bump { s with index } (0x4000 + part) 7 1

/-! ## Internal events (R468) -/

/-- The internal events that are due in this beat: commits, then the write-backs that wait for nothing more. -/
def settleAll (s : State) : State :=
  let s := settle s
  if droneOnly s then s
  else s.tiered.foldl (fun s e => if e.1 < 2 ^ 25 then beginWriteBack s (keyPart e.1) (e.1 % 2 ^ 20) else s) s

/-! ## BAR4 (R343) -/

/-- What an access of `len` bytes at an aperture address reaches: a queue of the function that may name the handle, its
partition, the buffer's key and the offset. -/
def barTarget (s : State) (fn addr len : Nat) (write : Bool) : Option (Nat × Nat × Nat) :=
  match FMap.get? s.host.windows (8 * fn + addr / 2 ^ 33) with
  | none => none
  | some (handle, offset) =>
    let h := handle.toNat
    let off := offset + addr % 2 ^ 33
    (s.queues.find? fun e => e.2.fn = fn && handleStatus s e.1 e.2 [h] = 0).bind fun e =>
      match bufAt s e.2.part h with
      | none => none
      | some b =>
        if b.gen = hGen h && (b.tier = 1 || b.tier = 2) && off + len ≤ b.size && addr % 2 ^ 33 + len ≤ 2 ^ 33 && !(write && b.base)
        then some (e.1, bufKey e.2.part (hIndex h), off) else none

/-- An access that fails a check: counted; a read completes as Unsupported Request. -/
def barRefuse (s : State) (read : Bool) : State :=
  let s := bump s 0xA040 4 1
  if read then { s with host := { s.host with lastRead := none, unsupported := true } } else s

/-- A host write through BAR4 lands: it commits at once as the buffer's newest version. -/
def barWrite (s : State) (q addr key off : Nat) (data : List Byte) : State :=
  storeBuf (journal s 3 (moduleOf s q) q 0 addr data) key off data

/-- An access through BAR4, or a write of a window register. A write to a job in replay may be held (R291). -/
def bar4 (s : State) (fn : Nat) (op : Bar4Op) : State :=
  if !usable s fn || !barsAnswer s then s
  else
    match op with
    | .window w handle offset =>
      if 8 ≤ w then s
      else { s with host := { s.host with windows := FMap.set s.host.windows (8 * fn + w) (handle, offset / 4096 * 4096) } }
    | .read addr len =>
      match barTarget s fn addr len false with
      | none => barRefuse s true
      | some (_, key, off) =>
        let poison := s.rel.poison.any fun w => w.1 = key && 8 * w.2 < off + len && off < 8 * w.2 + 8
        { s with host := { s.host with lastRead := some ((committed s key).read off len, poison), unsupported := false } }
    | .write addr data =>
      match barTarget s fn addr data.length true with
      | none => barRefuse s false
      | some (q, key, off) =>
        match (queueAt s q).bind Queue.job with
        | none => barWrite s q addr key off data
        | some j =>
          match replayInput s j 3 q 0 data with
          | (s, none) => barWrite s q addr key off data
          | (s, some due) => holdInput s j due (.bar4Access fn (.write addr data))

/-! ## Meanings -/

/-- An access through BAR4 (R343), behind the internal events of its beat (R468). -/
def execBar4Access (fn : Nat) (op : Bar4Op) (s : State) : Result := .next (bar4 (settleAll s) fn op)
end Sys2Proof.Machine
end

