-- ==== Sys2Proof/Machine/Links.lean ====
section
/-! DEFINITION. Windway: ports and their keys, remote packets at their destination, the fabric manager's lease, fences (R327,
R328, R333, R339, R340). Log entries are notes/assumptions/<n>.md. -/

namespace Sys2Proof.Machine

open Sys2Proof

/-! ## Ports (Table 13.6) -/

/-- The log source of a port's hub. -/
def portSource (w : Nat) : Nat := 8 + w / 12
/-- The hub of a port. -/
def portHub (w : Nat) : Hub := if w < 12 then .east else .west

/-- A flit's tag fails: the flit is replayed; the eighth failure in a row makes the port retrain. `consecutive` tells that
no flit has passed since the failure before. -/
def tagFailure (s : State) (w : Nat) (consecutive : Bool) : State :=
  if portState s w ≠ 4 then s
  else
    let n := if consecutive then (portAt s w).tagFails + 1 else 1
    let s := requestFlit (bump (detectFree s w (portSource w)) (0xA010 + w) 3 1) w
    if n < 8 then updPort s w fun p => { p with tagFails := n }
    else inventoryChange (dset (updPort s w fun p => { p with tagFails := 0 }) (0xA010 + w) 1 2) w

/-- A data lane fails: the spare takes its place; with none left the port leaves service until the next start. -/
def laneLoss (s : State) (w : Nat) : State :=
  if portState s w = 0 || portState s w = 5 then s
  else
    let s := detectFree s w (portSource w)
    if dnum s (0xA010 + w) 2 = 0 then dset s (0xA010 + w) 2 1
    else inventoryChange (dset (updPort s w fun p => { p with retryAt := none }) (0xA010 + w) 1 5) w

/-! ## Keys (R339) -/

/-- What one end checks of the other: the chain, the signature, the system identifier, and the ephemeral key. -/
def helloOk (s : State) (peer : PeerHello) : Bool :=
  peer.chainValid && peer.sigValid && peer.system = dnum s 0xA000 3 && engineCheck true (.validate peer.eph) = 0

/-- The keys of both directions, the direction from the lower module ID first. Nothing states the messages that the
transcript hashes, so the hash is free (log entry 44). -/
def linkKeys (hash z : List Byte) : List Byte :=
  hkdf384 hash z (ascii "FGS-WW-LINK" ++ [0]) 36 ++ hkdf384 hash z (ascii "FGS-WW-LINK" ++ [1]) 36

/-- A port exchanges keys after its training: five engine operations, then up or out of service for 1 s. -/
def exchangeKeys (s : State) (w : Nat) (peer : PeerHello) : State :=
  if portState s w ≠ 2 && portState s w ≠ 3 then s
  else
    let hub := portHub w
    let s := bump s 0x8200 (match hub with | .east => 1 | .west => 2) 5
    let bad := engineCheck true (.validate peer.eph)
    let s := if 0x0701 ≤ bad && bad ≤ 0x0703 then bump s 0x8200 3 1 else s
    let own := keyPairOf (random512 s)
    let s := drawn s 64
    let hash := freeBytes s 48
    let s := drawn s 48
    if helloOk s peer && (engineAt s hub).healthy then
      let z := (engineOutput (.ecdh own.1 peer.eph) 0).output
      let s := updPort s w fun p => { p with tagFails := 0, rekeys := 0, flits := 0, keys := linkKeys hash z, retryAt := none }
      dset (dset s (0xA010 + w) 1 4) (0xA010 + w) 5 peer.module
    else
      let s := updPort s w fun p => { p with keys := [], retryAt := some (s.now + 10 ^ 9) }
      alarmLog (bump (dset s (0xA010 + w) 1 5) (0xA010 + w) 4 1) 11 w (portSource w)

/-- A live session rekeys before a counter reaches 2⁴⁰: the new keys are free (log entry 44). -/
def rekey (s : State) (w : Nat) : State :=
  if portState s w ≠ 4 then s
  else drawn (updPort s w fun p => { p with keys := freeBytes s 72, flits := 0, rekeys := p.rekeys + 1 }) 72

/-- The second after a failed exchange is over: the port keys again. -/
def keyRetry (s : State) (w : Nat) : State :=
  match (portAt s w).retryAt with
  | none => s
  | some t => dset (updPort { s with now := max s.now t } w fun p => { p with retryAt := none }) (0xA010 + w) 1 3

/-! ## Flits (R328) -/

/-- A flit's header (Table 13.2): a flit of the link class goes to the neighbour only, and PLEN 0 encodes 224 bytes. -/
def flitHeader (s : State) (f : Flit) : Nat :=
  (if f.cls = 3 then 0xFFF else f.dest % 2 ^ 12) * 2 ^ 116 + moduleId s % 2 ^ 12 * 2 ^ 104 + dnum s 0xA000 4 % 2 ^ 32 * 2 ^ 72
    + f.lseq % 2 ^ 16 * 2 ^ 56 + f.cls % 16 * 2 ^ 52 + f.type % 16 * 2 ^ 48 + f.bytes % 224 * 2 ^ 40 + if f.last then 1 else 0

/-- The key and the salt of the flits that leave a port: those of the direction from the lower module ID, or of the other
(R339). -/
def sendKeys (s : State) (w : Nat) : List Byte :=
  if moduleId s < dnum s (0xA010 + w) 5 then (portAt s w).keys.take 36 else (portAt s w).keys.drop 36

/-- The 256 bytes of a flit on its port: the header, which is authenticated, the encrypted payload and the tag; the IV is the
salt, then the port's flit counter (R328, R339). -/
def flitBytes (s : State) (f : Flit) (payload : List Byte) : List Byte :=
  let head := toLe 16 (flitHeader s f)
  let k := sendKeys s f.port
  head ++ Gcm.encrypt (k.take 32) (k.drop 32 ++ toLe 8 (portAt s f.port).flits) head payload

/-! ## Remote packets (R332, R333) -/

/-- A packet from a fenced module (R340). -/
def fencedSource (s : State) (job source : Nat) : Bool :=
  (jobAt s job).any fun J => FMap.has s.win.fences (jobModule s J source)

/-- It is dropped and counted at the port, and a fence notice goes back: a fenced module that still originates data has not
taken the fence's epoch (R340, log entry 143). -/
def dropFenced (s : State) (job source : Nat) : State :=
  match jobAt s job with
  | none => s
  | some J =>
    let m := jobModule s J source
    sendFlits { bump s 0xA030 1 1 with win := { s.win with noticed := s.win.noticed ++ [m] } } 2 7 m 32 0

/-- A packet of a job's module arrives over its trunk. -/
def arriveFrom (s : State) (job source bytes : Nat) : State :=
  match jobAt s job with
  | none => s
  | some J => takeFlits s (jobModule s J source) bytes

/-- The staging held for a source command. -/
def remoteAt (s : State) (job source cmd : Nat) : RemoteStage :=
  (s.win.staged.find? fun x => x.job = job && x.source = source && x.cmd = cmd).getD { job, source, cmd }

/-- The state with it replaced. -/
def putRemote (s : State) (x : RemoteStage) : State :=
  { s with win := { s.win with
    staged := (s.win.staged.filter fun y => !(y.job = x.job && y.source = x.source && y.cmd = x.cmd)) ++ [x] } }

/-- The buffer that a packet reaches, by version: the job's handle behind its BUFS index, live, with room. -/
def remoteTarget (s : State) (p : RemotePkt) : Option (Job × Nat) :=
  (jobAt s p.job).bind fun J => (J.bufs[p.bufs]?).bind fun h =>
    (bufAt s J.part h).bind fun b =>
      if b.gen = hGen h && p.offset + p.data.length ≤ b.size then some (J, hVer J.part h) else none

/-- Another command holds uncommitted staging for a buffer: one of this module's queues, or another source (R129). -/
def stagedElsewhere (s : State) (x : RemoteStage) (ver : Nat) : Bool :=
  (s.queues.any fun e => e.2.cmds.any fun c => c.state ≠ .fetched && c.writes.contains ver)
    || s.win.staged.any fun y => !(y.job = x.job && y.source = x.source && y.cmd = x.cmd)
      && (y.writes ++ y.adds).any fun w => w.buf = ver

/-- The gradient buffer behind an accumulator's header on this module: its size, where it is live, of the job and in a lower
tier (R225). -/
def remoteGradient (s : State) (job : Nat) (J : Job) (h : List Byte) : Option Nat :=
  ((bufAt s J.part (hG h)).filter fun b => b.gen = hGen (hG h) && b.tier ≠ 0 && !b.base && b.job = some job).map Buf.size

/-- Why a packet is not staged: 0x0684 where it carries poisoned data, as an uncorrectable read (R436); 0x030B where another staging of its buffer stands, 0x0403 where an add reaches an accumulator
whose header may take no contribution (R129, R225, log entry 146); 0 for none. -/
def remoteRefusal (s : State) (p : RemotePkt) (J : Job) (ver : Nat) (add : Bool) : Status :=
  let h := (committed s (verBuf ver)).read 0 64
  if p.poisoned then 0x0684
  else if stagedElsewhere s (remoteAt s p.job p.source p.cmd) ver then 0x030B
  else if add && isAcc s ver && !accStart J h (remoteGradient s p.job J h) none then 0x0403
  else 0

/-- The elements of an add on what a memory holds. -/
def addInto (m : Mem) (w : StageWrite) : Mem := m.write w.off (addElems (m.read w.off w.data.length) w.data)

/-- What a complete add into an accumulator stages beside its elements: ARRIVED, or the conversion that it completes (R225,
R227). -/
def remoteContribution (s : State) (J : Job) (x : RemoteStage) (ver : Nat) : RemoteStage :=
  if x.adds.isEmpty || !isAcc s ver then x
  else
    let m := (x.adds.filter fun w => w.buf = ver).foldl addInto (committed s (verBuf ver))
    let (ws, nf, obs) := accFinish J J.part ver m
    { x with writes := x.writes ++ ws, nf, obs }

/-- A packet of a remote MOVE arrives: its bytes are staged for the source command, and the last is acknowledged, behind the
conversion that it completes. One that cannot be staged is answered with a failure notice. -/
def remotePacket (s : State) (p : RemotePkt) (add : Bool) : State :=
  if fencedSource s p.job p.source then dropFenced s p.job p.source
  else
    let s := arriveFrom s p.job p.source p.data.length
    match remoteTarget s p with
    | none => s
    | some (J, ver) =>
      let st := remoteRefusal s p J ver add
      if st ≠ 0 then
        sendFlits { s with win := { s.win with notices := s.win.notices ++ [(p.job, p.source, p.cmd, st)] } } 2 7
          (jobModule s J p.source) 32 0
      else
        let x := remoteAt s p.job p.source p.cmd
        let w : StageWrite := ⟨ver, p.offset, p.data⟩
        let x := if add then { x with adds := x.adds ++ [w] } else { x with writes := x.writes ++ [w] }
        let x := { (if p.last then remoteContribution s J x ver else x) with complete := p.last }
        let s := putRemote s x
        if p.last then { s with win := { s.win with acks := s.win.acks ++ [(p.job, p.source, p.cmd)] } } else s

/-- One contribution's elements added to the committed contents of its buffer. -/
def remoteAdd (s : State) (w : StageWrite) : State :=
  storeStaged s { w with data := addElems ((committed s (verBuf w.buf)).read w.off w.data.length) w.data }

/-- The source's commit switches what is staged for its command; its discard drops it. An add commits as one contribution: its
elements, then what it stages beside them, with its reports (R225, R227, R333). -/
def remoteCommit (s : State) (job source cmd : Nat) (discard : Bool) : State :=
  if fencedSource s job source then dropFenced s job source
  else
    let s := arriveFrom s job source 32
    match s.win.staged.find? fun x => x.job = job && x.source = source && x.cmd = cmd with
    | none => s
    | some x =>
      let s := { s with win := { s.win with staged := s.win.staged.filter (· ≠ x) } }
      if discard || !x.complete then s
      else
        let s := x.writes.foldl storeStaged (x.adds.foldl remoteAdd s)
        let accs := ((x.adds.map StageWrite.buf).filter (isAcc s)).eraseDups
        updJob s job fun J =>
          let J := foldObs J x.nf x.obs
          { J with accs := J.accs ++ accs.filter fun a => !J.accs.contains a }

/-! ## The fabric manager (R340) -/

/-- Candidates for the manager's role. -/
def candidates (s : State) : List Nat := ((chunks 2 (dblob s 0xA000 5)).map leNat).filter (· ≠ 0xFFFF)

/-- The module that holds the role. -/
def manager (s : State) : Option Nat := s.win.manager.or (candidates s).head?

/-- A management packet at a fabric epoch: taken at the highest epoch seen, else dropped and counted, and its sender receives
0x0A05. -/
def fabricPacket (s : State) (epoch : Nat) (take : State → State) : State :=
  if epoch < dnum s 0xA000 4 then
    { s with win := { s.win with stale := s.win.stale + 1, staleTold := s.win.staleTold ++ [epoch] } }
  else take (dset s 0xA000 4 epoch)

/-- A renewal of the manager's lease: of two candidates at one epoch the lower module ID holds the role. -/
def managerRenewal (s : State) (m epoch : Nat) : State :=
  if !(candidates s).contains m then s
  else
    let later := dnum s 0xA000 4 < epoch
    fabricPacket s epoch fun s =>
      let holder := if later then m else ((manager s).map fun h => min h m).getD m
      { s with win := { s.win with manager := some holder, missed := 0 } }

/-- A renewal is missed; with the third in a row the next candidate takes the role, and with this module as that candidate
the fabric epoch rises. -/
def managerMissed (s : State) : State :=
  let n := s.win.missed + 1
  if n < 3 then { s with win := { s.win with missed := n } }
  else
    let rest := ((candidates s).dropWhile fun m => some m ≠ manager s).drop 1
    let s := { s with win := { s.win with missed := 0 } }
    match rest with
    | [] => s
    | m :: _ =>
      let s := { s with win := { s.win with manager := some m } }
      if m = moduleId s then bump s 0xA000 4 1 else s

/-- A fence names a dead module, or the operator's lift ends one. -/
def fenceModule (s : State) (m epoch : Nat) (lift : Bool) : State :=
  fabricPacket s epoch fun s =>
    if lift then
      { s with win := { s.win with
        fences := FMap.erase s.win.fences m, spareState := if m = moduleId s then false else s.win.spareState } }
    else { s with win := { s.win with fences := FMap.set s.win.fences m epoch } }

/-- This module was fenced: it resets into spare state, and its jobs end. -/
def fencedNotice (s : State) (epoch : Nat) : State :=
  fabricPacket s epoch fun s =>
    if s.win.spareState then s
    else (s.jobs.map Prod.fst).foldl endJob { s with win := { s.win with spareState := true } }

/-! ## Meanings -/

/-- A flit's tag fails (R328). -/
def execFlitTagFailure (port : Nat) (consecutive : Bool) (s : State) : Result := .next (tagFailure s port consecutive)
/-- A lane fails (R327). -/
def execLaneFailure (port : Nat) (s : State) : Result := .next (laneLoss s port)
/-- A port's key exchange (R339). -/
def execPortKeyExchange (port : Nat) (peer : PeerHello) (s : State) : Result := .next (exchangeKeys s port peer)
/-- A port rekeys (R339). -/
def execPortRekey (port : Nat) (s : State) : Result := .next (rekey s port)
/-- A failed exchange is tried again (R339). -/
def execKeyRetryExpiry (port : Nat) (s : State) : Result := .next (keyRetry s port)
/-- A packet of type 1 (R333). -/
def execRemoteWrite (pkt : RemotePkt) (s : State) : Result := .next (remotePacket s pkt false)
/-- A packet of type 2 (R333). -/
def execRemoteIntegerAdd (pkt : RemotePkt) (s : State) : Result := .next (remotePacket s pkt true)
/-- A packet of type 3 (R333). -/
def execRemoteCommit (job source cmd : Nat) (discard : Bool) (s : State) : Result := .next (remoteCommit s job source cmd discard)
/-- The fabric manager's lease (R340). -/
def execFabricManagerLease (event : FabricLease) (s : State) : Result :=
  .next (match event with
    | .renewal module epoch => managerRenewal (settleAll s) module epoch
    | .missed => managerMissed (settleAll s))
/-- A fence, or its lift (R340). -/
def execFence (module epoch : Nat) (lift : Bool) (s : State) : Result := .next (fenceModule (settleAll s) module epoch lift)
/-- A fence notice (R340). -/
def execFenceNotice (epoch : Nat) (s : State) : Result := .next (fencedNotice (settleAll s) epoch)

end Sys2Proof.Machine
end

