-- ==== Sys2Proof/Machine/Startup.lean ====
section
/-! DEFINITION. Starts: what ends, what stays, the steps and their failures, hold; the loss of power (R372, R390 to R396,
R399, R400, R402, R407, R445, R446, R459, R464). Log entries are notes/assumptions/<n>.md. -/

namespace Sys2Proof.Machine

open Sys2Proof

/-! ## What a start ends (R391, R394) -/

/-- Telemetry that every start ends: stagings, writes in progress, subscriptions, held trace and journal records. -/
def clearTelemetry (t : Telemetry) : Telemetry :=
  { t with
    staged := [], busy := [], heldWrites := [], subscribers := [], dictBusy := false
    traceHeld := [], traceDropped := 0, traceDropBeat := 0, traceRead := 0, traceWrite := 0
    journalHeld := [], journalDropped := 0, journalDropBeat := 0 }

/-- A base buffer that is kept. -/
def keptBuf (b : Buf) : Bool := b.base && !b.freed

/-- Every session, job, queue, engine request and pending dictionary change ends, and with them every object of a partition
but its base. -/
def clearRuntime (s : State) : State :=
  let s := (s.parts.map Prod.fst).foldl abandonBase s
  let bufs := s.bufs.filter fun e => keptBuf e.2
  { s with
    tel := clearTelemetry s.tel
    sec := { s.sec with
      east := { healthy := s.sec.east.healthy }, west := { healthy := s.sec.west.healthy }
      sessions := [], spdmOut := none, negotiated := false }
    cfg := { s.cfg with pendingWrites := [], readDigest := [], startWaits := none, updateStatus := [] }
    cores := FMap.mapVal s.cores fun _ c => { inService := c.inService, faultKills := c.faultKills }
    queues := []
    jobs := []
    parts := FMap.mapVal s.parts fun _ p => { tensors := p.tensors, baseHandles := p.baseHandles, brokenStatus := p.brokenStatus }
    bufs
    index := s.index.filter fun e => FMap.has bufs e.1
    tiered := []
    keys := []
    keyGens := s.keys.foldl (fun m e => FMap.put 0 m e.1 ((FMap.getD m e.1 0 + 1) % 2 ^ 18)) s.keyGens
    dirs := []
    ctxs := []
    sync := []
    reds := []
    mbx := []
    host := { eastUp := s.host.eastUp, westUp := s.host.westUp, proxyOut := s.host.proxyOut, proxied := s.host.proxied }
    win := { s.win with
      staged := [], forwarded := 0, fences := [], spareState := false, manager := none, missed := 0, stale := 0, syncMissed := 0
      trunks := []
      offset8 := 0, slew := 0, pause := false }
    miss := []
    rel := { s.rel with poison := s.rel.poison.filter fun w => FMap.has bufs w.1 } }

/-- Nothing of HBM, the capacity tier or the silicon is left: no partition's base either. -/
def clearMemory (s : State) : State :=
  { clearRuntime s with
    parts := [], bufs := [], index := [], keyGens := [], hbm := [], cores := [], clusters := []
    rel := { repair := s.rel.repair } }

/-- Entries that a cold start keeps: the audit log's sequence, the sector map, the start entries. -/
def keepsCold (key : Nat) : Bool :=
  let i := key / 256
  let k := key % 256
  i = 0x1200 || (i = 0x2000 && 6 ≤ k) || (i = 0x8300 && k ≤ 2)

/-- Entries that a warm start keeps: those, counters, and what drone retention holds (log entry 48). -/
def keepsWarm (key : Nat) : Bool :=
  let i := key / 256
  let k := key % 256
  keepsCold key
    || (0x6000 ≤ i && i < 0x7000 && i ≠ 0x6F10)
    || (0x4000 ≤ i && i < 0x4020 && k ≠ 9 && k ≠ 10)
    || (i = 0x4020 && k ≠ 3 && k ≠ 6) || (0x4100 ≤ i && i < 0x4500 && k ≠ 3)
    || (0x4E00 ≤ i && i < 0x4E20 && k ≠ 3 && k ≠ 4)
    || (0x5000 ≤ i && i < 0x5100 && k ≠ 8) || (0x5100 ≤ i && i < 0x5500 && k ≠ 3 && k ≠ 4)
    || (0x5600 ≤ i && i < 0x5620)
    || (i = 0x7000 && k ≠ 2) || (i = 0x7100 && (k = 1 || k = 3)) || (i = 0x7200 && 5 ≤ k) || (i = 0x7300 && (k = 5 || k = 6))
    || i = 0x8200 || (i = 0x8300 && k = 3) || (i = 0x9100 && k = 5) || (0x9200 ≤ i && i < 0x9208)
    || (0xA010 ≤ i && i < 0xA028) || i = 0xA030 || (i = 0xA040 && 2 ≤ k) || i = 0xA050 || (0xA200 ≤ i && i < 0xA220)
    || (i = 0xB000 && 3 ≤ k) || (0xB100 ≤ i && i < 0xB500) || (i = 0x2600 && k = 12) || i = 0x1100

/-- The value that a kept entry has: a function in reset is ready again. -/
def keptValue (key : Nat) (v : DVal) : DVal :=
  if 0x410000 ≤ key && key < 0x450000 && key % 256 = 6 && v = .num 2 then .num 1 else v

/-- The dictionary with only the entries that are kept. -/
def keepEntries (s : State) (p : Nat → Bool) : State :=
  { s with dict := (s.dict.filter fun e => p e.1).map fun e => (e.1, keptValue e.1 e.2) }

/-! ## A start begins (R390, R391, R459) -/

/-- A warm start is possible: the previous start reached Ready, and nothing was lost since. -/
def warmAllowed (s : State) : Bool := s.cfg.lastReady && !s.cfg.rangeLost

/-- Outputs are released and every GPIO pin is parked. -/
def releasePins (s : State) : State :=
  { s with pins := { s.pins with alertN := true, gpioFn := [], gpioPark := [] } }

/-- A start begins: everything in progress ends, and the outputs are released. -/
def beginStart (s : State) (cold : Bool) : State :=
  let s := releasePins (clearRuntime s)
  let s := { s with
    cfg := { s.cfg with lastReady := false }
    pins := { s.pins with thermtripN := s.pins.thermtripN || cold } }
  dset (dset s 0x1200 1 (if cold then 0 else 1)) 0x1200 2 1

/-- A start is requested: it waits for a commit in progress (Table 16.9). A start that cannot be warm is cold. -/
def requestStart (s : State) (cold : Bool) : State :=
  let cold := cold || !warmAllowed s
  if committing s then { s with cfg := { s.cfg with startWaits := some cold } } else beginStart s cold

/-- A start that reaches hold ends there only by a start request, MODRST# or the loss of 12 V (R396): a cold start begins,
and the failures are forgotten. -/
def leaveHold (s : State) : State := dset (beginStart s true) 0x1200 5 0

/-- A copy being written when power is lost is not valid (R402). -/
def tearCopy (s : State) : State :=
  match s.cfg.writing with
  | none => s
  | some (.east, _) => dset { s with cfg := { s.cfg with copyA := [], writing := none } } 0x2000 5 0
  | some (.west, _) => dset { s with cfg := { s.cfg with copyB := [], writing := none } } 0x2000 5 0

/-- Every rail but VDRONE goes off: work and memory contents are lost, and the next start is cold (R372). -/
def railsOff (s : State) : State :=
  if !s.pwr.rails then s
  else
    let hold := isHold s
    let s := releasePins (clearMemory (tearCopy s))
    let s := { s with
      cfg := { s.cfg with rangeLost := true, lastReady := false }
      pins := { s.pins with pwrGood := false }
      pwr := { s.pwr with rails := false, samples := [], belowSince := none, floorSince := none, hot := false, temps := [], lastHotStep := none } }
    if hold then s else dset s 0x1200 2 1

/-! ## Firmware at boot (R393, R399) -/

/-- The slots of a hub, the one with the higher security version and version first. -/
def bootOrder (s : State) (h : Hub) : List Nat :=
  match slotImage s h 0, slotImage s h 1 with
  | some a, some b => if a.svn < b.svn || (a.svn = b.svn && a.version < b.version) then [1, 0] else [0, 1]
  | _, _ => [0, 1]

/-- An image that boots. -/
def imageBoots (s : State) (i : FwImage) : Bool := i.signed && i.bytes ≤ 32 * 2 ^ 20 && !versionRefused s i

/-- The slot that the ROM of a hub boots. -/
def bootSlot (s : State) (h : Hub) : Option Nat := (bootOrder s h).find? fun k => (slotImage s h k).any (imageBoots s)

/-- The digest of the running image is the one latched at the last Ready. -/
def digestSame (s : State) (h : Hub) : Bool :=
  (slotImage s h (runningSlot s h)).map FwImage.digest = FMap.get? s.cfg.latched (hubNumber h)

/-- The slot that a start boots on a hub. -/
def startSlot (s : State) (warm : Bool) (h : Hub) : Option Nat :=
  if warm && digestSame s h then some (runningSlot s h) else bootSlot s h

/-! ## Cores, memory, ports (R392, R441, R445) -/

/-- The physical cores of a cluster that fail the tests of a start. -/
def failedIn (failed : List Nat) (c : Nat) : List Nat := [0, 1, 2, 3, 4].filter fun i => failed.contains (5 * c + i)

/-- The passing cores of a cluster. -/
def passingIn (failed : List Nat) (c : Nat) : List Nat := [0, 1, 2, 3, 4].filter fun i => !failed.contains (5 * c + i)

/-- A core that fails the self-test is declared dead; which name it would have had is not told (log entry 49). -/
def deadAlarm (s : State) (c : Nat) : State :=
  alarmLog (drawn s 1) 66 (4 * c + Config.freeNat s.fresh % 4) c

/-- A cold start names the passing cores of a cluster in ascending order; the fifth is the spare. -/
def nameCores (failed : List Nat) (s : State) (c : Nat) : State :=
  let ok := passingIn failed c
  let s := (failedIn failed c).foldl (fun s _ => deadAlarm s c) s
  let s := updCluster s c fun _ => { names := ok.take 4, spare := ok[4]?, inService := 0 < ok.length }
  let s := if ok.length = 5 then s
    else dset (dset s (0xB100 + c) 1 2) 0x1100 4 (setBit (dnum s 0x1100 4) c false)
  ([0, 1, 2, 3].filter fun k => ok.length ≤ k).foldl (fun s k => coreOut (alarmLog s 67 c c) (4 * c + k)) s

/-- A warm start keeps the names; a named core that fails gives its name to a spare that passes. -/
def renameCores (failed : List Nat) (s : State) (c : Nat) : State :=
  let bad := failedIn failed c
  let cl := clusterAt s c
  let s := updCluster s c fun cl => { cl with
    pll := .off, throttled := false, gap := false, gapDroop := false, brownedOut := false, step := none, takeoverCore := none }
  let s := if cl.spare.any fun p => bad.contains p then
      let s := updCluster (deadAlarm s c) c fun cl => { cl with spare := none }
      dset (dset s (0xB100 + c) 1 2) 0x1100 4 (setBit (dnum s 0x1100 4) c false)
    else s
  ([0, 1, 2, 3].filter fun k => (cl.names[k]?).any (bad.contains ·) && (coreAt s (4 * c + k)).inService).foldl (fun s k =>
    let s := alarmLog s 66 (4 * c + k) c
    match (clusterAt s c).spare with
    | some p =>
      takeIdentity (updCluster s c fun cl => { cl with names := cl.names.set k p, spare := none }) (4 * c + k)
    | none => coreOut (alarmLog s 67 c c) (4 * c + k)) s

/-- No active core remains where these physical cores fail (Table 16.4). -/
def noneActive (failed : List Nat) : Bool := (List.range 8).all fun c => (passingIn failed c).isEmpty

/-- A port that trains and keys; its keys are free (log entry 44). -/
def trainPort (s : State) (e : Nat × Nat) : State :=
  let w := e.1
  if 24 ≤ w || portState s w = 4 then s
  else
    let s := drawn (updPort s w fun _ => { keys := freeBytes s 72 }) 72
    dset (dset s (0xA010 + w) 1 4) (0xA010 + w) 5 (e.2 % 65536)

/-- Every port that is not up is down. -/
def portsDown (s : State) : State :=
  (List.range 24).foldl (fun s w => if portState s w = 4 || !bit (dnum s 0x1100 10) w then s else dset s (0xA010 + w) 1 1) s

/-! ## Configuration at a start (R402, R407, R464) -/

/-- The copy is chosen and its values apply; then the start stops, the overlay counts and the pins' functions. -/
def applyConfig (s : State) : State :=
  let (copy, tie) := chooseCopy s
  let s := match copy with
    | none => alarm (dset (dset s 0x2000 1 2) 0x2000 2 0) 4 0
    | some h =>
      let c := copyOf s h
      let s := ((copyValues c).getD []).foldl (fun s e => dput s e.1 e.2) s
      dset (dset s 0x2000 1 (hubNumber h)) 0x2000 2 (copySeq c)
  let s := if tie then alarm s 6 0 else s
  let s := (List.range 10).foldl (fun s k => dset s (0x3100 + k) 1 ((dblob s (0x3100 + k) 2).length / 16)) s
  let s := [1, 2, 3, 4].foldl (fun s g =>
    let stop := dnum s 0x3000 (16 + g)
    dset s 0x3000 g (if stop = 7 && !fuse s 2 then 6 else stop)) s
  let fns := (List.range 8).filter fun n => dnum s 0x2600 (n + 1) ≠ 0
  let s := bump s 0x2600 12 fns.length
  { s with pins := { s.pins with gpioFn := fns.foldl (fun m n => FMap.set m n (dnum s 0x2600 (n + 1))) [], gpioPark := [] } }

/-- The leader of a start: hub east, unless its control complex does not come up (R446). -/
def startLease (s : State) (obs : StartObs) : State :=
  let h : Hub := if obs.eastUp then .east else .west
  let a : Arbiter := { holder := h, renewed := s.now }
  let s := { s with lease := {
    east := a, west := a, heartbeat := s.now, leadsEast := obs.eastUp, leadsWest := !obs.eastUp, upEast := obs.eastUp, upWest := obs.westUp } }
  let s := (List.range 8).foldl (fun s c => updCluster s c fun cl => { cl with epochSeen := 1, epochFrom := h }) s
  dset (dset s 0xB000 1 (hubNumber h)) 0xB000 2 1

/-- The images that run: versions, slots, latched digests, the alarm for different digests, the fused version (R399,
R400). -/
def runImages (s : State) (warm : Bool) : State :=
  let e := (startSlot s warm .east).getD 0
  let w := (startSlot s warm .west).getD 0
  match slotImage s .east e, slotImage s .west w with
  | some a, some b =>
    let s := dset (dset (dset s 0x1200 8 (e + 2 * w)) 0x1000 7 a.version) 0x1000 8 b.version
    let fused := max s.sec.fuses.antiRollback (min (min a.svn b.svn) 128)
    let s := { s with
      cfg := { s.cfg with latched := [(0, a.digest), (1, b.digest)] }
      sec := { s.sec with fuses := { s.sec.fuses with antiRollback := fused } } }
    if a.digest = b.digest then s else alarm s 12 0
  | _, _ => s

/-- The audit record of a start request made in hold, with its drone time and its value (R396). -/
def recordHoldRequest (s : State) : State :=
  match s.cfg.holdRequest with
  | none => s
  | some (t, n) =>
    if auditFull s then s
    else auditAppendAt { s with cfg := { s.cfg with holdRequest := none } } t 2 1 0x1200 7 0 [0] (toLe 1 n)

/-! ## The starts -/

/-- A start fails at a step; the third consecutive failure leaves the module in hold, otherwise a cold start follows
(R395, R396). -/
def startFailed (s : State) (stepNo : Nat) (st : Status) : State :=
  let s := dset (dset (bump s 0x1200 5 1) 0x1200 3 stepNo) 0x1200 4 st
  let s := { s with cfg := { s.cfg with lastReady := false } }
  dset (dset s 0x1200 1 0) 0x1200 2 (if 3 ≤ dnum s 0x1200 5 then 2 else 1)

/-- The first step that fails of Table 16.4. -/
def failedStep (s : State) (obs : StartObs) (warm : Bool) : Option (Nat × Status) :=
  if !warm && !obs.fuseOk then some (1, 0x0C09)
  else if (startSlot s warm .east).isNone || (startSlot s warm .west).isNone then some (2, 0x0C07)
  else if !obs.eastUp && !obs.westUp then some (3, 0x0C09)
  else if noneActive obs.failedCores then some (6, 0x0C09)
  else if !warm && noneActive (obs.failedCores ++ obs.failedLogic) then some (7, 0x0C09)
  else none

/-- The random values of a start: each hub's start value (R352) and the debug key (R362). -/
def drawStart (s : State) : State :=
  let bs := randomBytes s 128
  drawn { s with sec := { s.sec with startEast := bs.take 32, startWest := (bs.drop 32).take 32, debugKey := bs.drop 64 } } 128

/-- What both starts do at their end: configuration, lease, ports, time sync, clocks, start entries, the inventory. -/
def reachReady (s : State) (obs : StartObs) (warm : Bool) (ms : Nat) : State :=
  let s := startLease (runImages (applyConfig s) warm) obs
  let s := portsDown (obs.trainedPorts.foldl trainPort s)
  let s := dset s 0x6F00 2 (if obs.locked || (warm && !obs.domainChanged && dnum s 0x6F00 2 = 1) then 1 else 0)
  let clock := eff s 0x9000 2
  let s := (List.range 8).foldl (fun s c => updCluster s c fun cl => { cl with clock }) s
  let s := drawStart s
  let s := { s with
    cfg := { s.cfg with lastReady := true, rangeLost := false }
    pins := { s.pins with pwrGood := true, thermtripN := s.pins.thermtripN || !warm }
    pwr := { s.pwr with samples := [], lastStep := 0, stepped := false, belowSince := none, floorSince := none, hot := false, temps := [], lastHotStep := none } }
  let s := dset (dset (dset (dset (dset s 0x1200 1 (if warm then 1 else 0)) 0x1200 2 0) 0x1200 5 0) 0x1200 6 ms) 0x1100 11 0
  let s := { s with drone := s.drone + 10000 * ms }
  let s := inventoryCores s
  let s := recordHoldRequest s
  let s := inventoryChange s 0
  { s with pins := { s.pins with alertN := dnum s 0x7000 1 = 0 } }

/-- Rows on the repair lists, as the entries report them (R438). -/
def reportRepairs (s : State) : State :=
  let s := (List.range 16).foldl (fun s n => dset s (0xB200 + n) 3 (repairRows s (.hbm n 0 0))) s
  (List.range 64).foldl (fun s n => dset s (0xB300 + n) 3 (repairRows s (.lpddr n 0))) s

/-- The cold start: nothing but flash, fuses and drone retention is trusted. The beat counter runs from it. -/
def runCold (s : State) (obs : StartObs) : State :=
  let tel := s.tel
  let s := keepEntries (clearMemory s) keepsCold
  let s := { s with
    now := 0
    tel := { fdpOut := tel.fdpOut, notifies := tel.notifies, msix := tel.msix }
    sec := { s.sec with east := {}, west := {}, unlocked := false, scanActive := false }
    win := {} }
  match failedStep s obs false with
  | some (n, st) => startFailed s n st
  | none =>
    let s := obs.failedHbm.foldl (fun s ch => if ch < 512 then channelOut s (.hbm (ch / 32) (ch % 32) 0) else s) s
    let s := obs.failedLpddr.foldl (fun s ch => if ch < 64 then channelOut s (.lpddr ch 0) else s) s
    let s := (List.range 8).foldl (nameCores (obs.failedCores ++ obs.failedLogic)) s
    reachReady (reportRepairs s) obs false 23132

/-- A partition whose base handle table does not match its digest loses its base (R394). -/
def dropBase (s : State) (part : Nat) : State :=
  if part < 32 then bumpBaseGen (noBase (freeBase s part) part 0) part else s

/-- Milliseconds of a warm start (Table 16.3). -/
def warmTime (s : State) (obs : StartObs) : Nat :=
  1430 + (if obs.trainedPorts.any fun e => portState s e.1 ≠ 4 then 4000 else 0) + (if obs.domainChanged then 800 else 0)
    + if digestSame s .east && digestSame s .west then 0 else 1

/-- The warm start: what survived because power stayed applied is kept. -/
def runWarm (s : State) (obs : StartObs) : State :=
  let s := keepEntries (clearRuntime s) keepsWarm
  match failedStep s obs true with
  | some (n, st) => startFailed s n st
  | none =>
    let ms := warmTime s obs
    let s := obs.badTables.foldl dropBase s
    let s := (List.range 8).foldl (renameCores obs.failedCores) s
    let s := { s with now := s.now + 1000000 * ms }
    reachReady s obs true ms

/-- A start of a kind is under way, and nothing holds it up. -/
def starting (s : State) (kind : Nat) : Bool := s.pwr.rails && dnum s 0x1200 2 = 1 && dnum s 0x1200 1 = kind

/-- The cold start that is under way runs to Ready or fails. -/
def coldStart (s : State) (obs : StartObs) : State := if starting s 0 then runCold s obs else s

/-- The warm start that is under way runs to Ready or fails; where drone retention is damaged it is cold (R390). -/
def warmStart (s : State) (obs : StartObs) : State :=
  if !starting s 1 then s
  else if obs.retentionOk then runWarm s obs
  else runCold (dset s 0x1200 1 0) obs

/-- The status of a step that runs longer than twice its time. -/
def stepStatus (n : Nat) : Status := if n = 2 then 0x0C07 else 0x0C09

/-- A step of the start under way runs too long (R395). -/
def stepTimeout (s : State) (n : Nat) : State :=
  if s.pwr.rails && dnum s 0x1200 2 = 1 && 1 ≤ n && n ≤ 9 then startFailed s n (stepStatus n) else s

/-! ## Inputs and pins (R372, R383, R390, R460, R461) -/

/-- The rails come up where both inputs and PWR_EN allow it and the reference is good: a cold start begins. -/
def railsOn (s : State) (refclkOk : Bool) : State :=
  if s.pwr.rails || !s.pwr.pwrEn || !s.pwr.main48 || !s.pwr.aux12 then s
  else if !refclkOk then detectFree s 0 8
  else
    let s := { s with
      pwr := { s.pwr with rails := true }, pins := { s.pins with pwrGood := true }
      drone := max s.drone (s.pwr.auxSince + 500000) + 300000 }
    if isHold s then s else beginStart s true

/-- PWR_EN rises. -/
def pwrEnRise (s : State) (refclkOk : Bool) : State := railsOn { s with pwr := { s.pwr with pwrEn := true } } refclkOk
/-- PWR_EN falls. -/
def pwrEnFall (s : State) : State := railsOff { s with pwr := { s.pwr with pwrEn := false } }

/-- 12 V is applied: the drone domains come out of reset with a new count, and the rails come up where PWR_EN is high. -/
def aux12Applied (s : State) : State :=
  if s.pwr.aux12 then s else railsOn { s with pwr := { s.pwr with aux12 := true, auxSince := 0 }, drone := 0 } true

/-- 12 V falls below its range: the drone domains reset, every output is undriven, and hold is left. -/
def aux12Low (s : State) : State :=
  if !s.pwr.aux12 then s
  else
    let s := railsOff s
    let s := { s with
      pwr := { s.pwr with aux12 := false }, drone := 0
      rel := { s.rel with repair := [] }
      cfg := { s.cfg with holdRequest := none, rangeLost := true }
      pins := { s.pins with thermtripN := true, gpioFn := [], gpioPark := [] } }
    if isHold s then dset (dset s 0x1200 2 1) 0x1200 5 0 else s

/-- 48 V leaves its range. -/
def main48Out (s : State) : State := railsOff { s with pwr := { s.pwr with main48 := false } }
/-- 48 V is in its range again; the reference counts as good. -/
def main48Applied (s : State) : State := railsOn { s with pwr := { s.pwr with main48 := true } } true

/-- MODRST# is low for 1 µs with both inputs present. -/
def modrst (s : State) : State :=
  if !s.pwr.rails then s else if isHold s then leaveHold s else requestStart s false

/-- A die sensor (cluster 0 to 7, or a hub) reads high: a step down once per 1 ms until every sensor reads below 100 °C, at 115 °C a thermal trip. -/
def dieTemperature (s : State) (die celsius : Nat) : State :=
  if !s.pwr.rails then s
  else
    let s := if die < 8 then raiseTo s (0x9200 + die) 9 (min celsius (2 ^ 31 - 1)) else s
    let s := { s with pwr := { s.pwr with temps := FMap.put 0 s.pwr.temps die celsius } }
    if 115 ≤ celsius then
      let s := alarmLog s 13 0 (leaderSource s)
      let s := railsOff s
      { s with pins := { s.pins with thermtripN := false } }
    else
      let s := if 105 < celsius then
          let s := if s.pwr.hot then s else alarmLog s 13 0 (leaderSource s)
          { s with pwr := { s.pwr with hot := true } }
        else if s.pwr.temps.all fun e => e.2 < 100 then { s with pwr := { s.pwr with hot := false } }
        else s
      if s.pwr.hot && (match s.pwr.lastHotStep with | none => true | some t => decide (1000000 ≤ s.now - t)) then
        requestStep { s with pwr := { s.pwr with lastHotStep := some s.now } } false
      else s

/-- The PCIe fundamental reset of one hub's interface starts no start: the reads in flight through it are lost (log entry
50). -/
def perst (s : State) (h : Hub) : State :=
  if activeHub s ≠ hubNumber h then s
  else
    let reads := s.host.reads.filter fun e => !e.2.squashed
    reads.foldl (fun s e => hostReadDone s e.1 false []) s

/-! ## Meanings -/

/-- A cold start (R392). -/
def execColdStart (obs : StartObs) (s : State) : Result := .next (coldStart s obs)
/-- A warm start (R393). -/
def execWarmStart (obs : StartObs) (s : State) : Result := .next (warmStart s obs)
/-- A step runs longer than twice its time (R395). -/
def execStartStepTimeout (step : Nat) (s : State) : Result := .next (stepTimeout s step)
/-- PWR_EN rises (R460). -/
def execPwrEnRise (refclkOk : Bool) (s : State) : Result := .next (pwrEnRise s refclkOk)
/-- PWR_EN falls (R460). -/
def execPwrEnFall (s : State) : Result := .next (pwrEnFall s)
/-- 12 V is applied (R460). -/
def execAux12vApplied (s : State) : Result := .next (aux12Applied s)
/-- 12 V falls below its range (R372). -/
def execAux12vLow (s : State) : Result := .next (aux12Low s)
/-- 48 V leaves its range (R372). -/
def execMain48vOutOfRange (s : State) : Result := .next (main48Out s)
/-- 48 V returns into its range (R390). -/
def execMain48vApplied (s : State) : Result := .next (main48Applied s)
/-- MODRST# is asserted (R390). -/
def execModrstAssert (s : State) : Result := .next (modrst s)
/-- The reference is checked every 100 ms while the rails are off (R461). -/
def execRefclkCheck (refclkOk : Bool) (s : State) : Result := .next (railsOn s refclkOk)
/-- A die sensor reads high (R383). -/
def execDieTemperatureHigh (die celsius : Nat) (s : State) : Result := .next (dieTemperature s die celsius)
end Sys2Proof.Machine
end

