-- ==== Sys2Proof/Machine/Pins.lean ====
section
/-! DEFINITION. Pins of beat sync and time sync, GPIO levels (R282, R337, R338, R462, R463). Log entries are
notes/assumptions/<n>.md. -/

namespace Sys2Proof.Machine

open Sys2Proof

/-- The beat counter is locked (0x6F00.02). -/
def locked (s : State) : Bool := dnum s 0x6F00 2 = 1

/-- The counter is locked, or unlocked; nothing is expected of either side then. -/
def setLock (s : State) (b : Bool) : State :=
  let s := dset s 0x6F00 2 (if b then 1 else 0)
  if b then { s with pins := { s.pins with missedEdges := 0 }, win := { s.win with syncMissed := 0 } } else s

/-- BEAT_SYNC_OUT is high for 100 beats from each multiple of 2²⁰ while the counter is locked (R462). -/
def beatSyncLevel (s : State) : Bool := locked s && s.now % 2 ^ 20 < 100

/-- A beat within ±2 beats of a multiple of 2²⁰. -/
def nearPulse (now : Nat) : Bool := now % 2 ^ 20 ≤ 2 || 2 ^ 20 - 2 ≤ now % 2 ^ 20

/-- A rising edge on BEAT_SYNC_IN that stays high for `highNs`. A locked head takes it where it lies near the pulse, and
counts every other; an unlocked head locks on one (log entry 53). -/
def beatEdge (s : State) (highNs : Nat) : State :=
  if highNs < 20 || eff s 0xA000 7 = 0 || isMember s || !isReady s then s
  else if nearPulse s.now then setLock s true
  else if locked s then bump s 0xA050 1 1
  else s

/-- The beat reaches a multiple of 2²⁰ while the counter is locked: a pulse goes out, and an edge is expected. After 16
edges missing in a row the head is unlocked. -/
def beatPulse (s : State) : State :=
  if !locked s || !isReady s then s
  else
    let s := bump { s with now := roundUp s.now (2 ^ 20) } 0xA050 2 1
    if eff s 0xA000 7 = 0 || isMember s then s
    else if 16 ≤ s.pins.missedEdges then setLock s false
    else { s with pins := { s.pins with missedEdges := s.pins.missedEdges + 1 } }

/-- The offset to the parent in 1/8 beats, from the four timestamps of an exchange (log entry 54). -/
def exchangeOffset (t : Nat × Nat × Nat × Nat) : Int :=
  (((t.2.1 : Int) - t.1) + ((t.2.2.1 : Int) - t.2.2.2)) / 2

/-- The counter is slewed toward the parent by at most one beat in 10⁶, never backward (R282). -/
def slew (s : State) : State :=
  let beats := min (s.win.slew + 65536) 1000000
  let s := { s with win := { s.win with slew := beats } }
  if beats < 1000000 then s
  else if 8 ≤ s.win.offset8 then { s with now := s.now + 1, win := { s.win with slew := 0 } }
  else if s.win.offset8 ≤ -8 then { s with win := { s.win with slew := 0, pause := true } }
  else s

/-- One exchange of a member with its parent, or a missed one; 16 missed in a row unlock the counter. -/
def timeSync (s : State) (stamps : Option (Nat × Nat × Nat × Nat)) : State :=
  if !isMember s || !isReady s then s
  else
    match stamps with
    | none =>
      let n := s.win.syncMissed + 1
      let s := { s with win := { s.win with syncMissed := n } }
      if 16 ≤ n then setLock s false else s
    | some t =>
      let s := { s with win := { s.win with offset8 := exchangeOffset t, syncMissed := 0 } }
      if locked s then slew s else if -8 ≤ s.win.offset8 && s.win.offset8 ≤ 8 then setLock s true else slew s

/-- The level at a GPIO pin by its function (R463): a driven level, or what the board gives. -/
def gpioLevel (s : State) (pin : Nat) : Bool :=
  let board := s.pins.gpioIn.getLsbD pin
  let out := bit (dnum s 0x2600 9) pin
  match FMap.getD s.pins.gpioFn pin 0 with
  | 2 => out
  | 3 => out && board
  | 4 => true
  | 6 => !s.pwr.temps.any fun e => 105 < e.2
  | 7 => isReady s
  | _ => board

/-! ## Meanings -/

/-- A rising edge on BEAT_SYNC_IN (R462). -/
def execBeatSyncInEdge (highNs : Nat) (s : State) : Result := .next (beatEdge s highNs)
/-- A pulse on BEAT_SYNC_OUT (R462). -/
def execBeatSyncOutPulse (s : State) : Result := .next (beatPulse s)
/-- A time-sync exchange (R338). -/
def execTimeSyncExchange (stamps : Option (Nat × Nat × Nat × Nat)) (s : State) : Result := .next (timeSync s stamps)

end Sys2Proof.Machine
end

