-- ==== Sys2Proof/Machine/Writes.lean ====
section
/-! DEFINITION. Writes to the object dictionary: the checks of Table 17.4, each entry's own rules, the audit record, the
effect, and the response once the effect has completed (R361, R365, R404 to R407, R417, R418, R425, R430, R441, R464). Log
entries are notes/assumptions/<n>.md. -/

namespace Sys2Proof.Machine

open Sys2Proof

/-! ## Responses (R413, R417, R419) -/

/-- The number of a path in the state. -/
def pathNumber (p : Path) : Nat :=
  match p with
  | .bar0 => 0
  | .pcie => 1
  | .i3c => 2

/-- The response to a request: its header with the status, then the data. The BAR0 window shows both in its registers. -/
def fdpReply (s : State) (path : Path) (header : List Byte) (st : Status) (data : List Byte) : State :=
  let r := slice header 0 14 ++ toLe 2 st ++ data
  let s := { s with tel := { s.tel with fdpOut := FMap.set s.tel.fdpOut (pathNumber path) r } }
  match path with
  | .bar0 => { s with tel := { s.tel with
      dictStatus := st, dictBusy := false, dictResult := data.length, dictData := if data.isEmpty then s.tel.dictData else data } }
  | .pcie => s
  | .i3c => s

/-- The response to a write, where one is due. -/
def replyWrite (s : State) (reply : Option Reply) (st : Status) : State :=
  match reply with
  | none => s
  | some r => fdpReply s r.path r.header st []

/-! ## Stops and overlays (R385, R405 to R407) -/

/-- The group of a stop (Table 16.7). -/
def stopGroup (stop : Nat) : Nat := if stop ≤ 2 then 1 else if stop ≤ 5 then 2 else if stop ≤ 7 then 3 else 4

/-- An admitted job names a core outside the effective cluster mask. -/
def maskDrops (s : State) : Bool := s.jobs.any fun e => e.2.coreSet.any fun k => !inMask s (k / 4)

/-- A partition holds key records of two owners. -/
def twoOwners (s : State) : Bool := s.keys.any fun a => s.keys.any fun b => a.2.part = b.2.part && a.2.owner ≠ b.2.owner

/-- The status of a change of a group's active stop. -/
def stopStatus (s : State) (g stop : Nat) : Status :=
  if stop = activeStop s g then 0
  else if maskDrops (dset s 0x3000 g stop) then 0x0901
  else if stop = 7 && twoOwners s then 0x0113
  else if stop = 7 && !fuse s 2 then 0x0706
  else if groupedStop s && g = 2 && s.jobs.any (fun e => e.2.grouped) then 0x0C0B
  else 0

/-- One record of an overlay is valid. -/
def overlayRecordOk (s : State) (stop : Nat) (r : List Byte) : Bool :=
  let index := field r 0 2
  let sub := field r 2 1
  match entryAt index sub with
  | none => false
  | some e =>
    0 < e.ty.width && bits e.acc 3 2 = 3 && ((0x2000 ≤ index && index < 0x3000) || (0x9000 ≤ index && index < 0xA000))
      && field r 3 1 = e.ty.code && valueStatus index sub (.num (field r 8 8)) = 0
      && (List.range 10).all fun o => stopGroup o = stopGroup stop || (overlayValue (dblob s (0x3100 + o) 2) index sub).isNone

/-- The status of an overlay. -/
def overlayStatus (s : State) (stop : Nat) (b : List Byte) : Status :=
  let rs := chunks 16 b
  if b.length % 16 ≠ 0 || !rs.all (overlayRecordOk s stop) || !nodup (rs.map fun r => field r 0 3) then 0x0C06
  else if maskDrops (dsetB s (0x3100 + stop) 2 b) then 0x0901
  else 0

/-- A new ceiling below the current clock: a step down is requested at once (R385). -/
def ceilingStep (s : State) : State := if eff s 0x9000 2 < commonClock s then requestStep s false else s

/-! ## Reeds' entries (R200, R215) -/

/-- The status of a directory size. -/
def directoryStatus (s : State) (part n : Nat) : Status :=
  let old := dnum s (0x4E00 + part) 1
  if 4194304 < n || s.dirs.any (fun e => e.1 / 2 ^ 22 = part && n ≤ e.1 % 2 ^ 22) then 0x0101
  else if old < n && tierBytes s part 1 < partAccount s part 1 - charge64 (64 * old) + charge64 (64 * n) + quotaSum s part 1 then 0x0681
  else 0

/-- The status of a key limit. -/
def keyLimitStatus (s : State) (part n : Nat) : Status :=
  let others := (((List.range 32).filter fun p => p ≠ part).map fun p => dnum s (0x4E00 + p) 2).sum
  if n < dnum s (0x4E00 + part) 3 || 16384 < others + n then 0x010F else 0

/-! ## Checks (Table 17.4) -/

/-- The index of an entry of the reduced dictionary (R396). -/
def reducedEntry (index sub : Nat) : Bool :=
  (0x1000 ≤ index && index < 0x2000) || index = 0x2000 || index = 0x3000 || (0x3100 ≤ index && index < 0x310A)
    || (index = 0x8000 && sub ≤ 6)

/-- Rules of one entry beyond its type and range, where they are the entry's own: trace and journal rings, alarms, the log
mark, the audit export. -/
def telemetryStatus (s : State) (index sub n : Nat) : Status :=
  let ringSize := n % 4096 = 0 && 65536 ≤ n
  if 0x7010 ≤ index && index < 0x7090 then if n = 2 && (alarmAt s (index - 0x7010)).state = 1 then 0x0D03 else 0
  else if index = 0x7100 && sub = 2 then if n < dnum s 0x7100 2 || dnum s 0x7100 1 < n then 0x0D03 else 0
  else if index = 0x7200 && sub ≤ 3 then
    if (sub = 1 && n % 4096 ≠ 0) || (sub = 2 && !ringSize) || (sub = 3 && n % 64 ≠ 0) then 0x0D03
    else if dnum s 0x7200 4 ≠ 0 && n ≠ dnum s 0x7200 sub then 0x0D04
    else 0
  else if index = 0x7300 && sub ≤ 2 then
    if (sub = 1 && n % 4096 ≠ 0) || (sub = 2 && !ringSize) then 0x0D03
    else if recording s then unnamedRefusal s
    else 0
  else if index = 0x8300 && sub = 2 then if n < dnum s 0x8300 2 || dnum s 0x8300 1 < n then 0x0D03 else 0
  else 0

/-- The rules of the entry written, as its owning chapter states them. -/
def ownStatus (s : State) (index sub : Nat) (v : DVal) : Status :=
  let n := v.toNat
  if index = 0x2000 && sub = 4 then commitStatus s
  else if index = 0x3000 && sub ≤ 4 then stopStatus s sub n
  else if 0x3100 ≤ index && index < 0x310A then overlayStatus s (index - 0x3100) v.bytes
  else if 0x4000 ≤ index && index < 0x4020 then
    if sub = 8 then (if n = 1 then flushStatus s (index - 0x4000) else 0) else poolStatus s (index - 0x4000) sub v
  else if index = 0x4020 && sub = 1 then 0x0D03
  else if 0x4100 ≤ index && index < 0x4500 then
    if sub = 1 then assignStatus s (index - 0x40FF) n
    else if sub = 6 && !assigned s (index - 0x40FF) then 0x0D03
    else 0
  else if 0x4E00 ≤ index && index < 0x4E20 then
    if sub = 1 then directoryStatus s (index - 0x4E00) n else keyLimitStatus s (index - 0x4E00) n
  else if 0x5000 ≤ index && index < 0x5020 then mapStatus s (index - 0x5000) sub n
  else if 0x5100 ≤ index && index < 0x5500 then quotaStatus s (index - 0x50FF) sub n
  else if index = 0x9000 && sub = 3 then if maskDrops (dset s 0x9000 3 n) then 0x0901 else 0
  else telemetryStatus s index sub n

/-- Writes that have no audit record (R367). -/
def auditExempt (index sub : Nat) : Bool := index = 0x8300 && (sub = 2 || sub = 4 || sub = 5)

/-- Checks 2 to 4: the entry, the reduced dictionary, the role. Maker diagnostics have no entry (log entry 51). -/
def rightStatus (s : State) (role : Role) (index sub : Nat) (write : Bool) : Status :=
  if 0xF000 ≤ index then (if role = .maker then 0x0D01 else 0x0706)
  else
    match entryAt index sub with
    | none => 0x0D01
    | some e =>
      if droneOnly s && !reducedEntry index sub then 0x0D06
      else if isHold s && write && !(index = 0x1200 && sub = 7) then 0x0D06
      else if droneOnly s && !isHold s && write then 0x0706
      else if !Acc.may e.acc role write then 0x0706
      else 0

/-- Another requester stages the entry. -/
def stagedByOther (s : State) (who : Option Nat) (index sub : Nat) : Bool :=
  s.tel.staged.any fun e => some e.1 ≠ who && e.2.index = index && e.2.sub = sub

/-- The status of a write, by the checks in their order. -/
def writeStatus (s : State) (role : Role) (who : Option Nat) (index sub : Nat) (v : DVal) : Status :=
  if rightStatus s role index sub true ≠ 0 then rightStatus s role index sub true
  else if valueStatus index sub v ≠ 0 then
    (if 0x4E00 ≤ index && index < 0x4E20 && valueStatus index sub v = 0x0D03 then keyLimitStatus s (index - 0x4E00) v.toNat else valueStatus index sub v)
  else if ownStatus s index sub v ≠ 0 then ownStatus s index sub v
  else if stagedByOther s who index sub then 0x0D04
  else if !auditExempt index sub && auditFull s && !isHold s then 0x0711
  else 0

/-! ## Effects -/

/-- An entry takes its value; an installer's write to a stored entry is pending. -/
def storeEntry (s : State) (role : Role) (index sub : Nat) (v : DVal) : State :=
  markPending (dput s (dkey index sub) v) role (dkey index sub)

/-- Acknowledge or clear an alarm slot (R425). An occurrence of the same beat applies after the acknowledgement. Neither
changes a clear slot (log entry 52). -/
def alarmAction (s : State) (slot n : Nat) : State :=
  let r := alarmAt s slot
  if r.state = 0 then s
  else if n = 1 then
    if r.last = stamp s && r.state = 1 then putAlarm s slot { r with countAck := r.count - r.atLast }
    else putAlarm s slot { r with countAck := r.count, state := 2 }
  else if r.state = 2 then putAlarm s slot {}
  else s

/-- A function of a GPIO pin is written: the pin parks, unless the function is in place (R464). -/
def gpioWrite (s : State) (role : Role) (pin fn : Nat) : State × Bool :=
  if FMap.getD s.pins.gpioFn pin 0 = fn then (s, false)
  else
    let s := markPending s role (dkey 0x2600 (pin + 1))
    ({ s with pins := { s.pins with gpioFn := FMap.erase s.pins.gpioFn pin, gpioPark := FMap.set s.pins.gpioPark pin fn } }, true)

/-- The last written SEQ; where none is written, no value is stated. -/
def lastSeq (s : State) : Nat := if dnum s 0x8300 1 = 0 then Config.freeNat s.fresh % 2 ^ 64 else dnum s 0x8300 1 - 1

/-- A checkpoint is requested: the identity key signs its 64 bytes (R368). -/
def checkpoint (s : State) : State :=
  let content := toLe 8 (lastSeq s) ++ s.audit.chain ++ toLe 8 s.now
  submitEngine (drawn s 1) (leader s) (.sign s.sec.fuses.identityKey (sha384 content)) .firmware (.checkpoint content)

/-- A start request: in hold it starts a cold start, with its audit record to follow (R396). -/
def startRequest (s : State) (cold : Bool) : State :=
  if isHold s then leaveHold { s with cfg := { s.cfg with holdRequest := some (s.drone, if cold then 2 else 1) } } else requestStart s cold

/-- The directory's size is charged to the partition account. -/
def directoryEffect (s : State) (part n : Nat) : State :=
  let old := dnum s (0x4E00 + part) 1
  dset (chargeBase s part (charge64 (64 * n)) (charge64 (64 * old))) (0x4E00 + part) 1 n

/-- A reset of a function, or of the PF and every VF, by a write of 2. Tells whether it drains. -/
def resetEffect (s : State) (fn : Nat) : State × Bool :=
  let s := if fn = 0 then resetAll s else beginReset s fn
  (s, inReset s fn)

/-- The effect of a write on the partition, function and memory entries. -/
def partitionEffect (s : State) (index sub : Nat) (v : DVal) : State × Bool :=
  let n := v.toNat
  if index < 0x4020 then
    if sub = 8 then (if n = 1 then flush s (index - 0x4000) else s, false) else (poolEffect s (index - 0x4000) sub v, false)
  else if index = 0x4020 then if sub = 6 then resetEffect s 0 else (dput s (dkey index sub) v, false)
  else if index < 0x4500 then
    if sub = 1 then (assignEffect s (index - 0x40FF) n, false)
    else if sub = 6 then resetEffect s (index - 0x40FF)
    else (dput s (dkey index sub) v, false)
  else if index < 0x4E20 then
    if sub = 1 then (directoryEffect s (index - 0x4E00) n, false) else (dput s (dkey index sub) v, false)
  else if index < 0x5020 then mapEffect s (index - 0x5000) sub n
  else (quotaEffect s (index - 0x50FF) sub n, false)

/-- The effect of an accepted write, and whether it completes only later. -/
def writeEffect (s : State) (role : Role) (index sub : Nat) (v : DVal) : State × Bool :=
  let n := v.toNat
  if index = 0x1200 then (startRequest s (n = 2), false)
  else if index = 0x2000 then (beginCommit s role v.bytes, true)
  else if index = 0x2600 && sub ≤ 8 then gpioWrite s role (sub - 1) n
  else if index = 0x3000 && sub ≤ 4 then (ceilingStep (dset s 0x3000 sub n), false)
  else if 0x3100 ≤ index && index < 0x310A then
    (ceilingStep (dset (storeEntry s role index sub v) index 1 (v.bytes.length / 16)), false)
  else if 0x4000 ≤ index && index < 0x5500 then partitionEffect s index sub v
  else if 0x7010 ≤ index && index < 0x7090 then (alarmAction s (index - 0x7010) n, false)
  else if index = 0x7300 && sub = 4 then (journalFlush (dset s 0x7300 4 n), false)
  else if index = 0x8100 then
    (submitEngine s (leader s) (.validate (decodeKey v.bytes)) .firmware (.operatorKey role sub v.bytes), true)
  else if index = 0x8300 && sub = 2 then (recordHoldRequest (dset s 0x8300 2 n), false)
  else if index = 0x8300 && sub = 4 then if n = 1 then (checkpoint s, true) else (s, false)
  else if index = 0x9000 && sub = 2 then (ceilingStep (storeEntry s role index sub v), false)
  else if index = 0xA040 then if n = 1 then (drainCheck (failover s), false) else (s, false)
  else if 0xB100 ≤ index && index < 0xB108 then (declareDead s (4 * (index - 0xB100) + n), false)
  else (storeEntry s role index sub v, false)

/-- A write whose audit record follows the engine's answer, since only then is it accepted. -/
def auditLater (index : Nat) : Bool := index = 0x2000 || index = 0x8100

/-- An accepted write: its record first, then its effect; a start request in hold is recorded by the start. Reserved bits
that the value sets are ignored (R8). -/
def applyWrite (s : State) (role : Role) (index sub : Nat) (value : DVal) (reply : Option Reply) : State :=
  let v := withoutReserved index sub value
  let s := if auditExempt index sub || auditLater index || isHold s then s
    else auditWrite s role index sub (dget s (dkey index sub)) v
  let (s, waits) := writeEffect s role index sub v
  if waits then { s with tel := { s.tel with busy := FMap.set s.tel.busy (dkey index sub) reply } } else replyWrite s reply 0

/-- Requests are served: by the leader once a start has reached Ready, by the drone domains in standby and hold. -/
def served (s : State) : Bool := isReady s || droneOnly s

/-- A write to entry index.sub. It waits while an earlier write of the entry has not completed; a commit does not wait
(R404). -/
def writeEntry (s : State) (role : Role) (who : Option Nat) (index sub : Nat) (v : DVal) (reply : Option Reply) : State :=
  let key := dkey index sub
  if !served s then s
  else if FMap.has s.tel.busy key && index ≠ 0x2000 then
    { s with tel := { s.tel with heldWrites := s.tel.heldWrites ++ [{ key, role, value := v, who, reply }] } }
  else
    let st := writeStatus s role who index sub v
    if st ≠ 0 then replyWrite (drawn s 1) reply st else applyWrite s role index sub v reply

/-- Held writes to an entry are taken in their order until one of them has a long effect. -/
def runHeld (fuel : Nat) (s : State) (key : Nat) : State :=
  match fuel with
  | 0 => s
  | fuel + 1 =>
    if FMap.has s.tel.busy key then s
    else
      match s.tel.heldWrites.find? fun w => w.key = key with
      | none => s
      | some w =>
        let s := { s with tel := { s.tel with heldWrites := s.tel.heldWrites.erase w } }
        runHeld fuel (writeEntry s w.role w.who (key / 256) (key % 256) w.value w.reply) key

/-- A write with a long effect has completed: its response is sent, and later writes to the entry are taken. -/
def writeDone (s : State) (key : Nat) (st : Status) : State :=
  match FMap.get? s.tel.busy key with
  | none => s
  | some reply =>
    let s := replyWrite { s with tel := { s.tel with busy := FMap.erase s.tel.busy key } } reply st
    runHeld (s.tel.heldWrites.length + 1) s key

/-- Function resets that have ended: the writes that requested them complete. -/
def settleResets (s : State) : State :=
  let waiting := (s.tel.busy.map Prod.fst).filter fun k => k = 0x402006 || (0x410000 ≤ k && k < 0x450000 && k % 256 = 6)
  waiting.foldl (fun s k =>
    let fn := if k = 0x402006 then 0 else k / 256 - 0x40FF
    if !inReset s fn then writeDone s k 0 else s) s

/-- A pin's park has ended: the new function is enabled, and the write completes. -/
def gpioEnable (s : State) (pin : Nat) : State :=
  match FMap.get? s.pins.gpioPark pin with
  | none => s
  | some fn =>
    let s := { s with
      drone := s.drone + dnum s 0x2600 11
      pins := { s.pins with gpioPark := FMap.erase s.pins.gpioPark pin, gpioFn := FMap.put 0 s.pins.gpioFn pin fn } }
    writeDone (bump (dset s 0x2600 (pin + 1) fn) 0x2600 12 1) (dkey 0x2600 (pin + 1)) 0

/-! ## Meanings

A write is taken behind the internal events of its beat (R468). -/

/-- A write to any entry (R418). -/
def execDictionaryWrite (role : Role) (index sub : Nat) (value : DVal) (s : State) : Result :=
  .next (writeEntry (settleAll s) role none index sub value none)
/-- A write of a partition's quarter map, or of its pair map (R144). -/
def execMapWrite (role : Role) (part : Nat) (pairs : Bool) (value : Nat) (s : State) : Result :=
  .next (if part < 32 then writeEntry (settleAll s) role none (0x5000 + part) (if pairs then 2 else 1) (.num value) none else s)
/-- A write of a VF's quota (R165). -/
def execVfQuotaWrite (role : Role) (vf : Nat) (capacity : Bool) (value : Nat) (s : State) : Result :=
  .next (if 1 ≤ vf && vf ≤ 1024 then writeEntry (settleAll s) role none (0x50FF + vf) (if capacity then 2 else 1) (.num value) none else s)
/-- A VF's partition is written (R297). -/
def execVfPartitionWrite (role : Role) (vf value : Nat) (s : State) : Result :=
  .next (if 1 ≤ vf && vf ≤ 1024 then writeEntry (settleAll s) role none (0x40FF + vf) 1 (.num value) none else s)
/-- A write of a pool entry (R299). -/
def execPoolWrite (role : Role) (part sub : Nat) (value : DVal) (s : State) : Result :=
  .next (if part < 32 && 1 ≤ sub && sub ≤ 6 then writeEntry (settleAll s) role none (0x4000 + part) sub value none else s)
/-- A VF is reset, by a write of 2 or by an FLR (R316). -/
def execFunctionReset (vf : Nat) (byWrite : Option Role) (s : State) : Result :=
  .next (match byWrite with
    | some role => if 1 ≤ vf && vf ≤ 1024 then writeEntry (settleAll s) role none (0x40FF + vf) 6 (.num 2) none else s
    | none => if 1 ≤ vf && usable s vf then beginReset s vf else s)
/-- The PF is reset, by a write of 2 or by an FLR (R318). -/
def execPfReset (byWrite : Option Role) (s : State) : Result :=
  .next (match byWrite with
    | some role => writeEntry (settleAll s) role none 0x4020 6 (.num 2) none
    | none => if usable s 0 then resetAll s else s)
/-- An epoch flush is requested (R319). -/
def execEpochFlush (role : Role) (part : Nat) (s : State) : Result :=
  .next (if part < 32 then writeEntry (settleAll s) role none (0x4000 + part) 8 (.num 1) none else s)
/-- Failover is requested (R344). -/
def execFailoverRequest (role : Role) (s : State) : Result := .next (writeEntry (settleAll s) role none 0xA040 1 (.num 1) none)
/-- A warm start is requested (R390); in hold over I3C (R396). -/
def execStartRequestWarm (role : Role) (inHold : Bool) (s : State) : Result :=
  .next (if inHold = isHold s then writeEntry (settleAll s) (if inHold then .installer else role) none 0x1200 7 (.num 1) none else s)
/-- A cold start is requested (R390); in hold over I3C (R396). -/
def execStartRequestCold (role : Role) (inHold : Bool) (s : State) : Result :=
  .next (if inHold = isHold s then writeEntry (settleAll s) (if inHold then .installer else role) none 0x1200 7 (.num 2) none else s)
/-- A commit is requested (R403). -/
def execConfigurationCommit (role : Role) (value : List Byte) (s : State) : Result :=
  .next (writeEntry (settleAll s) role none 0x2000 4 (.blob value) none)
/-- A group's active stop is written (R407). -/
def execStopChange (role : Role) (group stop : Nat) (s : State) : Result :=
  .next (if 1 ≤ group && group ≤ 4 then writeEntry (settleAll s) role none 0x3000 group (.num stop) none else s)
/-- An overlay is written (R405). -/
def execOverlayWrite (role : Role) (stop : Nat) (value : List Byte) (s : State) : Result :=
  .next (if stop < 10 then writeEntry (settleAll s) role none (0x3100 + stop) 2 (.blob value) none else s)
/-- An operator key is written (R369). -/
def execOperatorKeyWrite (role : Role) (slot : Nat) (key : List Byte) (s : State) : Result :=
  .next (if 1 ≤ slot && slot ≤ 8 then writeEntry (settleAll s) role none 0x8100 slot (.blob key) none else s)
/-- A checkpoint is requested (R368). -/
def execCheckpointRequest (role : Role) (s : State) : Result := .next (writeEntry (settleAll s) role none 0x8300 4 (.num 1) none)
/-- The exported sequence is written (R367). -/
def execAuditExportWrite (role : Role) (value : Nat) (s : State) : Result :=
  .next (writeEntry (settleAll s) role none 0x8300 2 (.num value) none)
/-- An alarm slot is acknowledged (R425). -/
def execAlarmAcknowledge (role : Role) (slot : Nat) (s : State) : Result :=
  .next (if slot < 128 then writeEntry (settleAll s) role none (0x7010 + slot) 2 (.num 1) none else s)
/-- An alarm slot is cleared (R425). -/
def execAlarmClear (role : Role) (slot : Nat) (s : State) : Result :=
  .next (if slot < 128 then writeEntry (settleAll s) role none (0x7010 + slot) 2 (.num 2) none else s)
/-- A core is declared dead (R441). -/
def execDeclareDead (role : Role) (cluster k : Nat) (s : State) : Result :=
  .next (if cluster < 8 then writeEntry (settleAll s) role none (0xB100 + cluster) 7 (.num k) none else s)
/-- A pin's function is written (R464). -/
def execGpioFunctionWrite (role : Role) (pin fn : Nat) (s : State) : Result :=
  .next (if pin < 8 then writeEntry (settleAll s) role none 0x2600 (pin + 1) (.num fn) none else s)
/-- A pin's park ends (R464). -/
def execGpioParkEnd (pin : Nat) (s : State) : Result := .next (gpioEnable s pin)

end Sys2Proof.Machine
end

