-- ==== Sys2Proof/Machine/Fdp.lean ====
section
/-! DEFINITION. Dictionary requests: header, checks, GET, SET with its segments, INFO, NEXT, SUBSCRIBE, SNAPSHOT, and the
timed events of telemetry (R350, R411 to R420, R423, R427 to R429). Log entries are notes/assumptions/<n>.md. -/

namespace Sys2Proof.Machine

open Sys2Proof

/-! ## Header fields (Table 17.1) -/

/-- OP. -/
def fOp (b : List Byte) : Nat := field b 1 1
/-- INDEX. -/
def fIndex (b : List Byte) : Nat := field b 4 2
/-- SUB. -/
def fSub (b : List Byte) : Nat := field b 6 1
/-- LAST. -/
def fLast (b : List Byte) : Bool := bit (field b 7 1) 0
/-- SNAPSHOT. -/
def fSnapshot (b : List Byte) : Bool := bit (field b 7 1) 1
/-- OFFSET. -/
def fOffset (b : List Byte) : Nat := field b 8 4
/-- LENGTH. -/
def fLength (b : List Byte) : Nat := field b 12 2
/-- DATA. -/
def fData (b : List Byte) : List Byte := slice b 16 (fLength b)

/-- Check 1 of Table 17.4. -/
def fdpHeaderOk (who : Requester) (b : List Byte) : Bool :=
  field b 0 1 = 1 && 1 ≤ fOp b && fOp b ≤ 6 && field b 7 1 < 4 && field b 14 2 = 0 && fLength b ≤ 1024
    && b.length = 16 + (if fOp b = 2 || fOp b = 5 then fLength b else 0)
    && !(who.path = .bar0 && fOp b = 5)

/-! ## Requesters (R350, R412, R416) -/

/-- The role with which a request acts, where it has one. -/
def roleOf (s : State) (who : Requester) : Option Role :=
  match who.path, who.session with
  | .bar0, _ => some .operator
  | _, none => none
  | _, some n => ((FMap.get? s.sec.sessions n).filter Session.finished).map Session.role

/-- The number under which a requester stages a value. -/
def requesterNumber (who : Requester) : Option Nat :=
  match who.path, who.session with
  | .bar0, _ => some 0
  | _, none => none
  | _, some n => some (sessionRequester n)

/-- A session that a message names is open: a message of any other session cannot be read. -/
def sessionOpen (s : State) (who : Requester) : Bool :=
  match who.path, who.session with
  | .bar0, _ => true
  | _, none => true
  | _, some n => (FMap.get? s.sec.sessions n).any Session.finished

/-- The request reaches a server: the leader, or in standby and hold the drone domains overlaid I3C. -/
def reaches (s : State) (who : Requester) : Bool :=
  sessionOpen s who && (isReady s || (droneOnly s && s.pwr.aux12 && who.path = .i3c))

/-- The status of a request that names an entry, by checks 2 to 4. Without a session a request reads the identity range, in
standby and hold the reduced dictionary. -/
def accessStatus (s : State) (who : Requester) (index sub : Nat) (write : Bool) : Status :=
  match roleOf s who with
  | some role =>
    let st := rightStatus s role index sub write
    if st ≠ 0 then st else if who.path = .bar0 && write && !fuse s 5 then 0x0706 else 0
  | none =>
    if write then
      let st := rightStatus s .installer index sub true
      if st ≠ 0 then st else if isHold s && who.path = .i3c && index = 0x1200 && sub = 7 then 0 else 0x0706
    else
      let st := rightStatus s .operator index sub false
      if st ≠ 0 then st
      else if (0x1000 ≤ index && index < 0x2000) || (droneOnly s && reducedEntry index sub) then 0
      else 0x0706

/-! ## Values -/

/-- The bytes of the installer slot states (0x8000.04). -/
def slotStates (s : State) : Nat :=
  let used := ((List.range 4).map fun i =>
    if (FMap.get? s.sec.fuses.installerKeys i).any fun k => !allZero k then 2 ^ i else 0).sum
  used + 16 * s.sec.fuses.installerRevoked.toNat

/-- The identity public key (R353). -/
def identityPublic (s : State) : PubKey :=
  match P384.mul s.sec.fuses.identityKey P384.g with
  | some q => ⟨q.1, q.2⟩
  | none => ⟨0, 0⟩

/-- The unlock nonce that the next read of 0x8200.04 returns. -/
def unlockNonce (n : Nat) : List Byte := (List.range 32).map fun i => Config.nonceByte (32 * n + i)

/-- `n` bytes of the log window from an offset (R428); a place that holds no record reads 0. -/
def logWindow (s : State) (off n : Nat) : List Byte :=
  let first := off / 64
  let recs := (List.range (ceilDiv (off + n) 64 - first)).flatMap fun i =>
    match FMap.get? s.tel.log (first + i) with
    | some r => logBytes r
    | none => zeros 64
  slice recs (off % 64) n

/-- The audit record that 0x8300.05 selects; zeros where it is no longer held. -/
def auditRead (s : State) : List Byte :=
  let seq := dnum s 0x8300 5
  match FMap.get? s.audit.records (seq % 65536) with
  | some r => if field r 0 8 = seq then r else zeros 128
  | none => zeros 128

/-- The value of an entry as a GET finds it: sampled, mirrored or stored; where a stop overlays it, the effective value (log
entry 55). -/
def entryValue (s : State) (index sub : Nat) : DVal :=
  let f := s.sec.fuses
  if index = 0x1000 && sub = 9 then .num f.serial
  else if index = 0x2000 && sub = 3 then .blob (pendingDigest s)
  else if index = 0x2600 && sub = 10 then .num ((List.range 8).map fun n => if gpioLevel s n then 2 ^ n else 0).sum
  else if index = 0x6F00 && sub = 1 then .num s.now
  else if 0x7010 ≤ index && index < 0x7090 then .blob (alarmBytes s (index - 0x7010))
  else if index = 0x8000 then
    match sub with
    | 1 => .num f.protection.toNat
    | 2 => .num f.lifecycle
    | 3 => .num f.antiRollback
    | 4 => .num (slotStates s)
    | 5 => .num f.serial
    | _ => .blob (encodeKey (identityPublic s))
  else if index = 0x8200 && sub = 4 then .blob (unlockNonce s.sec.nonces)
  else if index = 0x8300 && sub = 6 then .blob (auditRead s)
  else if index = 0x9100 && sub = 3 then .num (if s.clusters.any fun e => e.2.pll = .on then commonClock s else 0)
  else if index = 0x9100 && sub = 4 then .num s.drone
  else
    match dget s (dkey index sub) with
    | .num _ => .num (eff s index sub)
    | .blob b => .blob b

/-- The value in the counter snapshot (R423); an entry outside the counters has none and reads as it stands (log entry
56). -/
def snapshotValue (s : State) (index sub : Nat) : DVal :=
  if 0x6000 ≤ index && index < 0x7000 then FMap.getD s.tel.shadow (dkey index sub) (entryDefault (dkey index sub))
  else entryValue s index sub

/-- The length of an entry's value. -/
def valueLength (s : State) (index sub : Nat) : Nat :=
  match entryAt index sub with
  | none => 0
  | some e => if e.ty.width ≠ 0 then e.ty.width else if index = 0x7100 && sub = 4 then 262144 else (entryValue s index sub).bytes.length

/-! ## GET, INFO, NEXT, SUBSCRIBE, SNAPSHOT -/

/-- The status of a GET. -/
def getStatus (s : State) (who : Requester) (b : List Byte) : Status :=
  let st := accessStatus s who (fIndex b) (fSub b) false
  let len := valueLength s (fIndex b) (fSub b)
  let scalar := (entryAt (fIndex b) (fSub b)).any fun e => e.ty.width ≠ 0
  if st ≠ 0 then st
  else if scalar && (fOffset b ≠ 0 || (fLength b ≠ 0 && fLength b ≠ len)) then 0x0D02
  else if len < fOffset b then 0x0D02
  else 0

/-- The data of a GET: from OFFSET, LENGTH bytes or up to the end, at most 1,024. -/
def getData (s : State) (b : List Byte) : List Byte :=
  let index := fIndex b
  let sub := fSub b
  let n := min (valueLength s index sub - fOffset b) (if fLength b = 0 then 1024 else fLength b)
  if index = 0x7100 && sub = 4 then logWindow s (fOffset b) n
  else
    let v := if fSnapshot b then snapshotValue s index sub else entryValue s index sub
    slice (valueBytes (dkey index sub) v) (fOffset b) n

/-- What reading an entry leaves behind: the digest that a commit must still match, a new nonce. -/
def afterGet (s : State) (index sub : Nat) : State :=
  if index = 0x2000 && sub = 3 then { s with cfg := { s.cfg with readDigest := if s.cfg.pendingWrites.isEmpty then [] else pendingDigest s } }
  else if index = 0x8200 && sub = 4 then { s with sec := { s.sec with nonces := s.sec.nonces + 1 } }
  else s

/-- GET. -/
def fdpGet (s : State) (who : Requester) (b : List Byte) : State :=
  let st := getStatus s who b
  if st ≠ 0 then fdpReply s who.path b st []
  else afterGet (fdpReply s who.path b 0 (getData s b)) (fIndex b) (fSub b)

/-- The status of an INFO: it needs any right of the role on the entry (log entry 57). -/
def infoStatus (s : State) (who : Requester) (b : List Byte) : Status :=
  let st := accessStatus s who (fIndex b) (fSub b) false
  let other := accessStatus s who (fIndex b) (fSub b) true
  if st = 0x0706 && other = 0 then 0 else if st ≠ 0 then st else if fLength b ≠ 0 then 0x0D02 else 0

/-- The 16 bytes of INFO (Table 17.3). -/
def infoData (s : State) (index sub : Nat) : List Byte :=
  match entryAt index sub with
  | none => []
  | some e =>
    let overlaid := [1, 2, 3, 4].any fun g => (overlayValue (dblob s (0x3100 + activeStop s g) 2) index sub).isSome
    toLe 1 e.ty.code ++ toLe 1 e.acc ++ [0, 0] ++ toLe 4 (valueLength s index sub)
      ++ toLe 4 (if e.ty.width ≠ 0 then e.ty.width else e.maxLen) ++ [if overlaid then 1 else 0, if entryStored index sub then 1 else 0] ++ [0, 0]

/-- INFO. -/
def fdpInfo (s : State) (who : Requester) (b : List Byte) : State :=
  let st := infoStatus s who b
  fdpReply s who.path b st (if st = 0 then infoData s (fIndex b) (fSub b) else [])

/-- NEXT: it walks from any INDEX.SUB. -/
def fdpNext (s : State) (who : Requester) (b : List Byte) : State :=
  let allowed := (roleOf s who).isSome || (0x1000 ≤ fIndex b && fIndex b < 0x2000) || (droneOnly s && reducedEntry (fIndex b) (fSub b))
  if !allowed then fdpReply s who.path b 0x0706 []
  else if fLength b ≠ 0 then fdpReply s who.path b 0x0D02 []
  else
    match entryNext (dkey (fIndex b) (fSub b)) with
    | none => fdpReply s who.path b 0x0D01 []
    | some k => fdpReply s who.path b 0 (toLe 2 (k / 256) ++ toLe 1 (k % 256) ++ [0])

/-- The subscribers are `l`, as 0x7000.02 counts them. -/
def putSubscribers (s : State) (l : List Nat) : State := dset { s with tel := { s.tel with subscribers := l } } 0x7000 2 l.length

/-- SUBSCRIBE, inside an operator or installer session (R427). -/
def fdpSubscribe (s : State) (who : Requester) (b : List Byte) : State :=
  let v := field (fData b) 0 1
  match roleOf s who, who.session with
  | some role, some n =>
    if role = .maker then fdpReply s who.path b 0x0706 []
    else if fLength b ≠ 1 then fdpReply s who.path b 0x0D02 []
    else if 1 < v then fdpReply s who.path b 0x0D03 []
    else if v = 0 then fdpReply (putSubscribers s (s.tel.subscribers.filter (· ≠ n))) who.path b 0 []
    else if s.tel.subscribers.contains n then fdpReply s who.path b 0 []
    else if 8 ≤ s.tel.subscribers.length then fdpReply s who.path b 0x0D08 []
    else fdpReply (putSubscribers s (s.tel.subscribers ++ [n])) who.path b 0 []
  | _, _ => fdpReply s who.path b 0x0706 []

/-- Every counter of 0x6000–0x6FFF latched in this beat (R423). -/
def latch (s : State) : State :=
  let s := dset s 0x6000 1 s.now
  let counters := s.dict.filter fun e => 0x600000 ≤ e.1 && e.1 < 0x700000
  { s with tel := { s.tel with shadow := FMap.set counters 0x6F0001 (.num s.now) } }

/-- SNAPSHOT. -/
def fdpSnapshot (s : State) (who : Requester) (b : List Byte) : State :=
  if (roleOf s who).isNone then fdpReply s who.path b 0x0706 []
  else if fLength b ≠ 0 then fdpReply s who.path b 0x0D02 []
  else fdpReply (latch s) who.path b 0 (toLe 8 s.now)

/-! ## SET (R416) -/

/-- The value that a requester stages. -/
def stagedOf (s : State) (n : Nat) : Option Staged := FMap.get? s.tel.staged n

/-- The state without a requester's staged value. -/
def dropStaged (s : State) (n : Nat) : State := { s with tel := { s.tel with staged := FMap.erase s.tel.staged n } }

/-- A requester's staged value ends with the write that it makes; a write that is refused has no effect, on it neither
(R416, R418). -/
def endStaged (s : State) (role : Role) (who : Option Nat) (index sub : Nat) (v : DVal) : State :=
  let waits := FMap.has s.tel.busy (dkey index sub) && index ≠ 0x2000
  match who with
  | none => s
  | some n => if waits || writeStatus s role who index sub v = 0 then dropStaged s n else s

/-- The bytes staged before this segment; none where the segment is out of order or too late. -/
def segmentBase (s : State) (n : Nat) (b : List Byte) : Option (List Byte) :=
  if fOffset b = 0 then some []
  else
    match stagedOf s n with
    | none => none
    | some g =>
      if g.index = fIndex b && g.sub = fSub b && g.bytes.length = fOffset b && s.now - g.at_ < 100000000 then some g.bytes else none

/-- A segment of a STR or BLOB: staged, or with LAST applied as one write. -/
def fdpSegment (s : State) (who : Requester) (n : Nat) (role : Role) (e : Entry) (b : List Byte) : State :=
  let index := fIndex b
  let sub := fSub b
  match segmentBase s n b with
  | none => fdpReply (dropStaged s n) who.path b 0x0D05 []
  | some base =>
    let bytes := base ++ fData b
    if e.maxLen < bytes.length then fdpReply s who.path b (valueStatus index sub (.blob bytes)) []
    else if fLast b then
      writeEntry (endStaged s role (some n) index sub (.blob bytes)) role (some n) index sub (.blob bytes) (some ⟨who.path, slice b 0 16⟩)
    else if stagedByOther s (some n) index sub then fdpReply s who.path b 0x0D04 []
    else
      let s := { s with tel := { s.tel with staged := FMap.set s.tel.staged n { index, sub, bytes, at_ := s.now } } }
      fdpReply s who.path b 0 []

/-- SET. -/
def fdpSet (s : State) (who : Requester) (b : List Byte) : State :=
  let st := accessStatus s who (fIndex b) (fSub b) true
  let role := (roleOf s who).getD .installer
  match entryAt (fIndex b) (fSub b) with
  | none => fdpReply s who.path b (if st = 0 then 0x0D01 else st) []
  | some e =>
    if st ≠ 0 then fdpReply s who.path b st []
    else if e.ty.width ≠ 0 then
      if fOffset b ≠ 0 || fLength b ≠ e.ty.width then fdpReply s who.path b 0x0D02 []
      else
        let v : DVal := .num (leNat (fData b))
        writeEntry (endStaged s role (requesterNumber who) (fIndex b) (fSub b) v) role (requesterNumber who) (fIndex b) (fSub b) v
          (some ⟨who.path, slice b 0 16⟩)
    else
      match requesterNumber who with
      | some n => fdpSegment s who n role e b
      | none => fdpReply s who.path b 0x0706 []

/-! ## A request arrives -/

/-- The registers of the BAR0 window as a request leaves them (Table 17.5). -/
def windowRegisters (s : State) (b : List Byte) : State :=
  { s with tel := { s.tel with
    dictAddr := BitVec.ofNat 32 (fIndex b + 2 ^ 16 * fSub b + 2 ^ 24 * fOp b)
    dictOffset := BitVec.ofNat 32 (fOffset b)
    dictLength := BitVec.ofNat 32 (fLength b + (if fLast b then 2 ^ 16 else 0) + if fSnapshot b then 2 ^ 17 else 0)
    dictBusy := true
    dictData := if fOp b = 2 then fData b else s.tel.dictData } }

/-- A request of operation `op` is taken: in the BAR0 window one at a time, the others counted; then check 1, then the
operation. The internal events of the beat come first (R468). -/
def request (s : State) (who : Requester) (b : List Byte) (op : Nat) (run : State → Requester → List Byte → State) : State :=
  let s := settleAll s
  if b.length < 16 || !reaches s who || (fOp b ≠ op && 1 ≤ fOp b && fOp b ≤ 6) then s
  else if who.path = .bar0 && s.tel.dictBusy then bump s 0x7000 4 1
  else
    let s := if who.path = .bar0 then windowRegisters s b else s
    if fdpHeaderOk who b then run s who b else fdpReply s who.path b 0x0D07 []

/-! ## Timed events -/

/-- 10⁸ beats without a segment: the staged value is discarded. -/
def stagedTimeout (s : State) (who : Requester) : State :=
  match requesterNumber who with
  | none => s
  | some n =>
    match stagedOf s n with
    | none => s
    | some g => dropStaged { s with now := max s.now (g.at_ + 100000000) } n

/-- The notify of an alarm whose COUNT has changed is repeated 10⁶ beats after the last one (R427). -/
def notifyRepeat (s : State) (slot : Nat) : State :=
  let r := alarmAt s slot
  if r.state = 0 || r.count = r.notifiedCount || !isReady s then s
  else notifyAll { s with now := max s.now (r.notifiedAt + 1000000) } slot

/-- READ is read again, and held records are written (R429). -/
def tracePoll (s : State) (read : BitVec 32) : State :=
  if !isReady s || traceSlots s = 0 then s else traceDrain { s with tel := { s.tel with traceRead := read.toNat } } 16384

/-! ## Meanings -/

/-- GET (R414). -/
def execGet (who : Requester) (message : List Byte) (s : State) : Result := .next (request s who message 1 fdpGet)
/-- SET (R416). -/
def execSet (who : Requester) (message : List Byte) (s : State) : Result := .next (request s who message 2 fdpSet)
/-- INFO (R414). -/
def execInfo (who : Requester) (message : List Byte) (s : State) : Result := .next (request s who message 3 fdpInfo)
/-- NEXT (R414). -/
def execNext (who : Requester) (message : List Byte) (s : State) : Result := .next (request s who message 4 fdpNext)
/-- SUBSCRIBE (R427). -/
def execSubscribe (who : Requester) (message : List Byte) (s : State) : Result := .next (request s who message 5 fdpSubscribe)
/-- SNAPSHOT (R423). -/
def execSnapshot (who : Requester) (message : List Byte) (s : State) : Result := .next (request s who message 6 fdpSnapshot)
/-- A staged value times out (R416). -/
def execStagedValueTimeout (who : Requester) (s : State) : Result := .next (stagedTimeout s who)
/-- An alarm's notify is repeated (R427). -/
def execAlarmNotifyRepeat (slot : Nat) (s : State) : Result := .next (notifyRepeat s slot)
/-- The module reads READ of the trace control block (R429). -/
def execTraceReadPoll (read : BitVec 32) (s : State) : Result := .next (tracePoll s read)

end Sys2Proof.Machine
end

