-- ==== Sys2Proof/Machine/Spdm.lean ====
section
/-! DEFINITION. The SPDM responder, sessions, measurements, and debug: maker unlock, boundary scan, random source (R349, R350,
R353, R357 to R359, R364, R365, R426). Log entries are notes/assumptions/<n>.md. -/

namespace Sys2Proof.Machine

open Sys2Proof

/-! ## The responder -/

/-- The responder's answer. -/
def spdmReply (s : State) (r : SpdmResp) : State := { s with sec := { s.sec with spdmOut := some r } }

/-- The certificate chain of slot 0 (R353). -/
def certChain : List Byte := (List.range Config.chainLength).map Config.chainByte

/-- A module that was returned answers with its lifecycle in the fuse block and nothing else (R349). -/
def returned (s : State) : Bool := s.sec.fuses.lifecycle = 7

/-- A request reaches the responder, which runs on the leader. A returned module answers only measurements. -/
def respondSpdm (s : State) (f : State → State) : State :=
  if !isReady s then s else if returned s then spdmReply s .invalidRequest else f s

/-- GET_VERSION opens a connection afresh. -/
def spdmVersion (s : State) : State :=
  respondSpdm s fun s => spdmReply { s with sec := { s.sec with negotiated := false } } .version

/-- NEGOTIATE_ALGORITHMS: each of the responder's algorithms must be offered. -/
def spdmAlgorithms (s : State) (o : SpdmOffer) : State :=
  let ok := o.ecdsaP384 && o.sha384 && o.secp384r1 && o.aes256gcm
  respondSpdm s fun s => spdmReply { s with sec := { s.sec with negotiated := ok } } (.algorithms ok)

/-- GET_CERTIFICATE: a portion of the chain in slot 0. -/
def spdmCertificate (s : State) (slot offset len : Nat) : State :=
  respondSpdm s fun s =>
    if slot ≠ 0 || certChain.length < offset then spdmReply s .invalidRequest
    else spdmReply s (.certificate ((certChain.drop offset).take len))

/-- CHALLENGE: the leader's engine signs. -/
def spdmChallenge (s : State) (slot : Nat) (nonce : List Byte) : State :=
  respondSpdm s fun s =>
    if slot ≠ 0 then spdmReply s .invalidRequest
    else submitEngine s (leader s) (.sign s.sec.fuses.identityKey (Config.spdmDigest nonce)) .spdm (.challenge nonce)

/-! ## Measurements (Table 14.6) -/

/-- The fuse block, 0x05. -/
def fuseBlock (s : State) : List Byte :=
  let f := s.sec.fuses
  [1, 2, 3, 4].flatMap (fun g => toLe 1 (activeStop s g)) ++ toLe 4 f.protection.toNat ++ toLe 1 f.lifecycle
    ++ toLe 1 f.antiRollback ++ toLe 1 (slotStates s) ++ toLe 1 f.stepping ++ toLe 8 f.serial ++ zeros 4

/-- Open sessions of the operator, as the profiling sessions of block 0x06 (log entry 58). -/
def operatorSessions (s : State) : Nat := (s.sec.sessions.filter fun e => e.2.role = .operator && e.2.finished).length

/-- The debug block, 0x06. -/
def debugBlock (s : State) : List Byte :=
  toLe 1 ((if s.sec.unlocked then 2 else 0) + (if s.sec.scanActive then 4 else 0) + if recording s then 8 else 0)
    ++ toLe 1 (operatorSessions s) ++ zeros 6

/-- The layout of one partition in block 0x07. -/
def layoutBytes (s : State) (part : Nat) : List Byte :=
  let i := 0x4000 + part
  toLe 4 (dnum s i 1) ++ toLe 8 (dnum s (0x5000 + part) 1) ++ toLe 4 (dnum s (0x5000 + part) 2) ++ toLe 2 (dnum s i 2)
    ++ toLe 2 (dnum s i 3) ++ toLe 2 (dnum s i 5) ++ toLe 2 (dnum s i 6) ++ slice (dblob s i 4) 0 32

/-- The block of a partition, 0x10 + n; all zeros without a core. Its key pair exists from its first core (R194). -/
def partitionBlock (s : State) (part : Nat) : State × List Byte :=
  if !partExists s part then (s, zeros 200)
  else
    let (s, k) := partKey s part
    let jobs := s.jobs.filter fun e => e.2.part = part
    let list := sha384 (jobs.flatMap fun e => toLe 8 e.1 ++ slice e.2.digest 0 48)
    (s, slice (dblob s (0x5600 + part) 2) 0 48 ++ toLe 4 (dnum s (0x4E00 + part) 5) ++ encodeKey k.2
      ++ toLe 4 (dnum s (0x4000 + part) 9) ++ list)

/-- The configuration block, 0x04; without an active copy no digest is stated, and it is free. -/
def configBlock (s : State) : State × List Byte :=
  let a := dnum s 0x2000 1
  let head := toLe 4 a ++ toLe 4 (dnum s 0x2000 2)
  if a = 0 then (s, head ++ sha384 s.cfg.copyA)
  else if a = 1 then (s, head ++ sha384 s.cfg.copyB)
  else (drawn s 48, head ++ freeBytes s 48)

/-- The content of one measurement block. -/
def block (s : State) (index : Nat) : State × List Byte :=
  match index with
  | 1 => (s, (List.range 48).map Config.romDigestByte)
  | 2 => (s, slice (FMap.getD s.cfg.latched 0 []) 0 48)
  | 3 => (s, slice (FMap.getD s.cfg.latched 1 []) 0 48)
  | 4 => configBlock s
  | 5 => (s, fuseBlock s)
  | 6 => (s, debugBlock s)
  | 7 => (s, (List.range 32).flatMap (layoutBytes s))
  | 8 => (s, toLe 4 (dnum s 0x1100 3) ++ toLe 1 (dnum s 0x1100 4) ++ toLe 1 (activeHub s) ++ zeros 10)
  | n => partitionBlock s (n - 16)

/-- The listed indices. -/
def blockIndices : List Nat := [1, 2, 3, 4, 5, 6, 7, 8] ++ (List.range 32).map (16 + ·)

/-- Blocks of one snapshot. -/
def measure (s : State) (l : List Nat) : State × List (Nat × List Byte) :=
  l.foldl (fun a i =>
    let (s, b) := block a.1 i
    (s, a.2 ++ [(i, b)])) (s, [])

/-- GET_MEASUREMENTS: every block as it stands in the beat of acceptance, then the signature (R359). -/
def spdmMeasurements (s : State) (index : Nat) (nonce : List Byte) : State :=
  if !isReady s then s
  else if returned s then
    if index = 5 then spdmReply s (.signed [(5, zeros 8 ++ toLe 1 7 ++ zeros 15)] nonce []) else spdmReply s .invalidRequest
  else if index ≠ 0xFF && !blockIndices.contains index then spdmReply s .invalidRequest
  else
    let (s, blocks) := measure s (if index = 0xFF then blockIndices else [index])
    let text := nonce ++ blocks.flatMap fun e => toLe 1 e.1 ++ e.2
    submitEngine s (leader s) (.sign s.sec.fuses.identityKey (Config.spdmDigest text)) .spdm (.measurements blocks nonce)

/-! ## Sessions (R350) -/

/-- The role that Table 14.3 gives a key. -/
def roleOfKey (s : State) (key : List Byte) : Option Role :=
  if decodeKey key = ⟨Config.makerRootX, Config.makerRootY⟩ then some .maker
  else if (installerSlot s key).isSome then some .installer
  else if (List.range 8).any fun i => dblob s 0x8100 (i + 1) = key && !allZero key then some .operator
  else none

/-- KEY_EXCHANGE: a ninth session is refused; outside the field only the maker's sessions open (R349). -/
def spdmKeyExchange (s : State) (key : List Byte) (chainValid : Bool) : State :=
  if !isReady s then s
  else if 8 ≤ s.sec.sessions.length then spdmReply s .sessionLimitExceeded
  else if !chainValid then spdmReply s (.refused 0x0705)
  else
    match roleOfKey s key with
    | none => spdmReply s (.refused 0x0705)
    | some role =>
      if s.sec.fuses.lifecycle ≠ 3 && role ≠ .maker then spdmReply s (.refused 0x0706)
      else
        let n := s.sec.nextSession
        let sec := { s.sec with sessions := FMap.set s.sec.sessions n ⟨role, false⟩, nextSession := n + 1 }
        spdmReply { s with sec } (.session n)

/-- FINISH: the requester's proof completes the handshake, or ends the session. -/
def spdmFinish (s : State) (n : Nat) (proofValid : Bool) : State :=
  if !isReady s then s
  else
    match FMap.get? s.sec.sessions n with
    | none => spdmReply s .invalidRequest
    | some x =>
      if x.finished then spdmReply s .invalidRequest
      else if proofValid then
        spdmReply { s with sec := { s.sec with sessions := FMap.set s.sec.sessions n { x with finished := true } } } .finished
      else spdmReply (endSession s n) .invalidRequest

/-- END_SESSION. -/
def spdmEnd (s : State) (n : Nat) : State :=
  if !isReady s then s
  else if FMap.has s.sec.sessions n then spdmReply (endSession s n) .ended else spdmReply s .invalidRequest

/-- HEARTBEAT. -/
def spdmHeartbeat (s : State) (n : Nat) : State :=
  if !isReady s then s else spdmReply s (if FMap.has s.sec.sessions n then .alive else .invalidRequest)

/-! ## Debug (R364, R365, R426) -/

/-- A partition holds a core. -/
def anyPartition (s : State) : Bool := (List.range 32).any (partExists s)

/-- The digest that an unlock token signs: the serial, then the nonce (log entry 59). -/
def unlockDigest (s : State) (nonce : List Byte) : List Byte := sha384 (toLe 8 s.sec.fuses.serial ++ nonce)

/-- A maker debug unlock: over the nonce last read, accepted while MAKER_DEBUG is 1 and no partition holds a core. -/
def unlock (s : State) (nonce : List Byte) (r sg : Nat) : State :=
  let fresh := 0 < s.sec.nonces && nonce = unlockNonce (s.sec.nonces - 1)
  let key : PubKey := ⟨Config.makerRootX, Config.makerRootY⟩
  if fuse s 3 && !anyPartition s && fresh && (engineRun true (.verify key (unlockDigest s nonce) r sg) 0).status = 0 then
    { s with sec := { s.sec with unlocked := true } }
  else bump s 0x8200 5 1

/-- A boundary-scan instruction is accepted, or replaced by BYPASS and counted. -/
def scan (s : State) : State :=
  if fuse s 4 && !anyPartition s then { s with sec := { s.sec with scanActive := true } } else bump s 0x8200 5 1

/-- A random source fails its health test. -/
def healthFailure (s : State) (h : Hub) : State :=
  alarm (bump (updEngine s h fun e => { e with healthy := false }) 0x8200 6 1) 1 0

/-! ## Meanings -/

/-- GET_VERSION (R357). -/
def execGetVersion (s : State) : Result := .next (spdmVersion s)
/-- GET_CAPABILITIES (R357). -/
def execGetCapabilities (s : State) : Result := .next (respondSpdm s fun s => spdmReply s .capabilities)
/-- NEGOTIATE_ALGORITHMS (R357). -/
def execNegotiateAlgorithms (offer : SpdmOffer) (s : State) : Result := .next (spdmAlgorithms s offer)
/-- GET_DIGESTS (R357). -/
def execGetDigests (s : State) : Result := .next (respondSpdm s fun s => spdmReply s (.digests (sha384 certChain)))
/-- GET_CERTIFICATE (R353). -/
def execGetCertificate (slot offset len : Nat) (s : State) : Result := .next (spdmCertificate s slot offset len)
/-- CHALLENGE (R357). -/
def execChallenge (slot : Nat) (nonce : List Byte) (s : State) : Result := .next (spdmChallenge s slot nonce)
/-- GET_MEASUREMENTS: its snapshot holds what commits in its beat (R359). -/
def execGetMeasurements (index : Nat) (nonce : List Byte) (s : State) : Result :=
  .next (spdmMeasurements (settleAll s) index nonce)
/-- KEY_EXCHANGE (R350). -/
def execKeyExchange (key : List Byte) (chainValid : Bool) (s : State) : Result := .next (spdmKeyExchange s key chainValid)
/-- FINISH (R357). -/
def execFinish (session : Nat) (proofValid : Bool) (s : State) : Result := .next (spdmFinish s session proofValid)
/-- END_SESSION (R350). -/
def execEndSession (session : Nat) (s : State) : Result := .next (spdmEnd s session)
/-- HEARTBEAT (R357). -/
def execHeartbeat (session : Nat) (s : State) : Result := .next (spdmHeartbeat s session)
/-- A maker debug unlock (R365). -/
def execMakerDebugUnlock (nonce : List Byte) (r sg : Nat) (s : State) : Result := .next (unlock s nonce r sg)
/-- A boundary-scan instruction (R364); EXTEST and INTEST have the same rule. -/
def execBoundaryScan (_intest : Bool) (s : State) : Result := .next (scan s)
/-- A random source fails its health test (R426). -/
def execRandomSourceHealthTestFailure (hub : Hub) (s : State) : Result := .next (healthFailure s hub)

end Sys2Proof.Machine
end

