-- ==== Sys2Proof/Machine/Late.lean ====
section
/-! DEFINITION. Events that complete an earlier command: engine results, configuration writes, zeroed units, the ends of
drains, inputs released in replay, and the leader takeover (R145, R195, R291, R317, R344, R354, R368, R403, R447). Log entries are
notes/assumptions/<n>.md. -/

namespace Sys2Proof.Machine

open Sys2Proof

/-! ## Engine results (R354 to R356) -/

/-- A start that waited for a commit begins (R391). -/
def startAfterCommit (s : State) : State :=
  match s.cfg.startWaits with
  | none => s
  | some cold => if committing s then s else beginStart { s with cfg := { s.cfg with startWaits := none } } cold

/-- The signature of a commit has been checked: the copy is written, or the commit fails, also where the audit log has filled
meanwhile. -/
def commitVerified (s : State) (role : Role) (value image : List Byte) (o : EngineOut) : State :=
  let st := if verifiedStatus s value o ≠ 0 then verifiedStatus s value o else if auditFull s then 0x0711 else 0
  if st ≠ 0 then startAfterCommit (writeDone s (dkey 0x2000 4) st)
  else writeCopy (auditWrite s role 0x2000 4 (.blob []) (.blob value)) value image

/-- An operator key has been validated: it is stored, or the write fails with the engine's code, or with 0x0711 where the
audit log has filled meanwhile. -/
def keyValidated (s : State) (role : Role) (slot : Nat) (key : List Byte) (o : EngineOut) : State :=
  let k := dkey 0x8100 slot
  if o.status ≠ 0 then writeDone s k o.status
  else if auditFull s then writeDone s k 0x0711
  else writeDone (storeEntry (auditWrite s role 0x8100 slot (dget s k) (.blob key)) role 0x8100 slot (.blob key)) k 0

/-- A checkpoint has been signed. -/
def checkpointSigned (s : State) (content : List Byte) (o : EngineOut) : State :=
  let s := if o.status = 0 then dsetB s 0x8300 3 (content ++ o.output) else s
  writeDone s (dkey 0x8300 4) o.status

/-- What an engine's result is for happens with it. -/
def useResult (s : State) (u : EngineUse) (o : EngineOut) : State :=
  match u with
  | .none => s
  | .keyVerify fn reg => keyVerified s fn reg o
  | .keyEcdh fn reg => keyShared s fn reg o
  | .configCommit role value image => commitVerified s role value image o
  | .operatorKey role slot key => keyValidated s role slot key o
  | .checkpoint content => checkpointSigned s content o
  | .challenge nonce => spdmReply s (.signed [] nonce o.output)
  | .measurements blocks nonce => spdmReply s (.signed blocks nonce o.output)

/-- The running operation of an engine ends. -/
def engineDone (s : State) (h : Hub) : State :=
  match engineEnd s h with
  | (s, none) => s
  | (s, some (r, o)) => useResult s r.use o

/-! ## Writes with long effects -/

/-- The configuration copy is written: it is active, and a start that waited for it begins (R391). -/
def configurationDone (s : State) : State :=
  match s.cfg.writing with
  | none => s
  | some (h, copy) =>
    startAfterCommit (writeDone (copyWritten s h copy) (dkey 0x2000 4) 0)

/-- The units that join a partition are zeroed: the map takes effect, and its write responds (R145). -/
def unitsZeroed (s : State) (part : Nat) : State :=
  match mapDone s part with
  | (s, none) => s
  | (s, some key) => writeDone s key 0

/-- Reads have ended: functions that drained are reset, and the writes that asked for it respond. -/
def afterReads (s : State) : State := settleResets (drainCheck s)

/-! ## Inputs released in replay (R291) -/

/-- A held input is taken as it would have been, without a second match. -/
def takeHeld (s : State) (i : Instr) : State :=
  match i with
  | .ringCommandFetch q records => ringFetch s q records
  | .doorbell fn page word _ =>
    match pageQueue s fn page with
    | none => s
    | some (q, _) => takeDoorbell s q (bits word.toNat 31 0)
  | .mailboxDoorbell fn word _ message => if usable s fn then postMessage s fn word.toNat message else s
  | .bar4Access fn (.write addr data) =>
    match barTarget s fn addr data.length true with
    | none => barRefuse s false
    | some (q, key, off) => barWrite s q addr key off data
  | .baseTileMulticast part tensor tile data => basePacket s part tensor tile data
  | _ => s

/-- The first held input of a job in replay is released at its beat. -/
def releaseInput (s : State) (j : Nat) : State :=
  match (jobAt s j).map Job.replayHeld with
  | some ((due, i) :: t) =>
    takeHeld (updJob { s with now := max s.now due } j fun J => { J with replayHeld := t }) i
  | _ => s

/-! ## Meanings -/

/-- An engine operation ends (R354). -/
def execEngineOperationDone (hub : Hub) (s : State) : Result := .next (engineDone s hub)
/-- The configuration copy is written (R403). -/
def execConfigurationWriteDone (s : State) : Result := .next (configurationDone s)
/-- Joining quarters or pairs are zeroed (R145). -/
def execUnitZeroingDone (part : Nat) (s : State) : Result := .next (unitsZeroed s part)
/-- A held input of a job in replay is released (R291). -/
def execReplayInputRelease (job : Nat) (s : State) : Result := .next (releaseInput s job)
/-- The drain limit of a function's reset expires (R317). -/
def execDrainLimitExpiry (fn : Nat) (s : State) : Result := .next (settleResets (drainLimit s fn))
/-- A completion of a host read (R288). -/
def execHostReadCompletion (id : Nat) (ok : Bool) (data : List Byte) (s : State) : Result :=
  .next (afterReads (hostReadDone s id ok data))
/-- The PCIe completion timeout of a host read (R317). -/
def execCompletionTimeout (id : Nat) (s : State) : Result := .next (afterReads (readTimeout s id))
/-- The follower takes over (R447). -/
def execLeaseTakeover (s : State) : Result := .next (startAfterCommit (afterReads (takeover s)))
/-- The east link has been down for 10 ms (R344). -/
def execEastLinkDownTimeout (s : State) : Result :=
  .next (afterReads (failover { s with host := { s.host with eastUp := false } }))
/-- PERST# of one hub (R456). -/
def execPcieFundamentalReset (hub : Hub) (s : State) : Result := .next (afterReads (perst s hub))

end Sys2Proof.Machine
end

