-- ==== Sys2Proof/Machine/Poison.lean ====
section
/-! DEFINITION. Commands that read buffers, and what happens where one meets a poisoned word: in a core store the command is
fault-killed, in a lower tier it fails with 0x0684, and nothing is computed on the word (R162, R435, R436). Log entries are
notes/assumptions/<n>.md. -/

namespace Sys2Proof.Machine

open Sys2Proof

/-! ## What a command reads -/

/-- The buffers of a train bind that a REED or a merge reads: A with its row scales in phase one, B with its own in phase
two (R210). A serve working copy is no buffer. -/
def trainReads (s : State) (c : Cmd) (first second : Bool) : List (Nat × Nat × Nat) :=
  (covered c.bytes).flatMap fun g =>
    match (FMap.get? s.ctxs (laneCtx c.bytes g)).bind fun x => (ctxTarget x (rLayer c.bytes)).map fun t => (x, t) with
    | none => []
    | some (x, t) =>
      if x.serve then []
      else (if first then [(t.wqA, 0, x.rank * t.k), (t.wqA, trainScales (x.rank * t.k), 4 * x.rank)] else [])
        ++ (if second then [(t.wqB, 0, t.nf * x.rank), (t.wqB, trainScales (t.nf * x.rank), 4 * t.nf)] else [])

/-- The whole reach of the command in the buffer of each field (R122). -/
def fieldReads (s : State) (Q : Queue) (c : Cmd) (fields : List Nat) : List (Nat × Nat × Nat) :=
  fields.map fun o => (rH c.bytes o, 0, reachOf s c.bytes (c.op = 4 && (accOf s Q c).isSome) (fun o => (seen Q c (rH c.bytes o)).read 0 64) o)

/-- What a command other than VECTOR reads, as handle, offset and length. An add of MOVE into an accumulator reads its
header, and every element where it is the step's last contribution. -/
def readsOf (s : State) (Q : Queue) (c : Cmd) : List (Nat × Nat × Nat) :=
  let r := c.bytes
  match c.op with
  | 1 =>
    let merges := rH r 56 = 0 && !aZeroK r
    fieldReads s Q c ((if aZeroK r then [] else [16, 20]) ++ (if aCarryIn r && !aGrouped r then [28] else []) ++ [32, 56])
      ++ trainReads s c merges (!aZeroK r)
  | 3 =>
    match field r 16 1 with
    | 1 => fieldReads s Q c [24, 28, 36]
    | 2 => fieldReads s Q c [24] ++ trainReads s c false true
    | 3 => fieldReads s Q c [24, 20, 36]
    | _ => fieldReads s Q c [20] ++ trainReads s c true false
  | 4 =>
    let h := (seen Q c (mDst r)).read 0 64
    let acc := (usedBuf s c (bufKey Q.part (hIndex (mDst r)))).any fun b => b.tier = 1 && b.cls = 3
    let rows (h off stride : Nat) : List (Nat × Nat × Nat) := (List.range (mRows r)).map fun i => (h, off + i * stride, mLength r)
    (if mSrcModule r = 0 then rows (mSrc r) (mSrcOff r) (mSrcStride r) else [])
      ++ (if field r 16 1 = 1 && mDstModule r = 0 then rows (mDst r) (mDstOff r) (mDstStride r) else [])
      ++ (if field r 16 1 = 1 && mDstModule r = 0 && acc then
            [(mDst r, 0, if hArrived h + 1 = hExpected h then 64 + 8 * (hRows h * hCols h) else 64)] else [])
  | 7 =>
    if (Q.job.bind (jobAt s)).any fun J => J.window = .committed then
      fieldReads s Q c [16, 20, 24, 28, 36, 40, 44, 60] ++ [(rH r 32, roundUp (wElems r) 65536, 4 * wRows r)]
    else []
  | 13 => fieldReads s Q c [16]
  | _ => []

/-- The first poisoned word that a command other than VECTOR reads. -/
def poisonMet (s : State) (Q : Queue) (c : Cmd) : Option (Nat × Nat) :=
  if s.rel.poison = [] then none
  else (readsOf s Q c).findSome? fun x => if x.1 = 0 then none else poisonIn s Q c (bufKey Q.part (hIndex x.1)) x.2.1 x.2.2

/-! ## What follows -/

/-- The memory channel that holds a word of a buffer in a lower tier. An uncorrectable error does not look at its row. -/
def wordUnit (s : State) (w : Nat × Nat) : Option MemUnit :=
  (FMap.get? s.bufs w.1).bind fun b =>
    let (tier, addr) := homeOf s w.1 b
    match tier with
    | 0 => none
    | 1 =>
      let l := hbmTouched s (keyPart w.1) w.1 addr (8 * w.2) (8 * w.2 + 8) b
      (l[w.2 / 64 % l.length]?).map fun ch => .hbm (ch / 32) (ch % 32) 0
    | _ => ((capTouched s (keyPart w.1) addr (8 * w.2) (8 * w.2 + 8)).head?).map fun ch => .lpddr ch 0

/-- A command meets a poisoned word: a fault kill in a core store; in a lower tier 0x0684, and an uncorrectable error of the
channel (R162, R435, R436). -/
def meetPoison (s : State) (q uid : Nat) (w : Nat × Nat) : State :=
  match FMap.get? s.bufs w.1 with
  | none => s
  | some b =>
    if b.tier = 0 then uncorrectable s b.core (some q) none
    else (wordUnit s w).elim (fail s q uid 0x0684) (channelError (fail s q uid 0x0684))

/-- A row runs its command where no poisoned word stands in what it reads. -/
def unlessPoisoned (s : State) (q : Nat) (sel : Option (Queue × Cmd)) (run : State) : State :=
  match sel with
  | none => run
  | some (Q, c) =>
    match poisonMet s Q c with
    | none => run
    | some w => meetPoison s q c.uid w

/-- An instruction of a core's VECTOR command runs where it meets no poisoned word. -/
def vecUnlessPoisoned (s : State) (core : Nat) (met : Option (Nat × Nat)) (run : State) : State :=
  match met, vecOwner s core with
  | some w, some (q, _, c) => meetPoison s q c.uid w
  | _, _ => run

/-- The oldest running VECTOR of a queue runs on; where it stops before an instruction that reads a poisoned word, it meets
that word. -/
def vecUntilPoison (s : State) (q : Nat) : State :=
  match (queueAt s q).bind fun Q => runningCmd Q fun c => c.op = 2 with
  | none => s
  | some c =>
    let t := runVector s q
    if (vecOf t c.core).owner = some (q, c.uid) then vecUnlessPoisoned t c.core (vecMet t c.core) t else t

/-! ## Meanings -/

/-- ARRAY (R112). -/
def execArray (q : Nat) (s : State) : Result :=
  .next (unlessPoisoned s q ((arrayCmd s q).map fun x => (x.1, x.2.1)) (runArray s q))
/-- VECTOR (R113). -/
def execVector (q : Nat) (s : State) : Result := .next (vecUntilPoison s q)
/-- VLD (R81). -/
def execVld (core : Nat) (a : VArgs) (s : State) : Result :=
  .next (vecUnlessPoisoned s core (vecLoadMet 2048 core a s) (vecLoad 2048 (fun _ bs => words32 bs) core a s))
/-- VST (R81, R82). -/
def execVst (core : Nat) (a : VArgs) (s : State) : Result :=
  .next (vecUnlessPoisoned s core (vecStoreMet 4 core a s) (vecSt core a s))
/-- VLD8. -/
def execVld8 (core : Nat) (a : VArgs) (s : State) : Result :=
  .next (vecUnlessPoisoned s core (vecLoadMet 512 core a s) (vecLoad 512 (vecDequant a) core a s))
/-- VST8 (R82). -/
def execVst8 (core : Nat) (a : VArgs) (s : State) : Result :=
  .next (vecUnlessPoisoned s core (vecStoreMet 1 core a s) (vecSt8 core a s))
/-- REED KIND 1: dB += δᵀ·u (R114). -/
def execReedUpGradient (q : Nat) (s : State) : Result :=
  .next (unlessPoisoned s q ((reedCmd s q 1).map fun x => (x.1, x.2.1)) (runGradient s q 1))
/-- REED KIND 2 (R114). -/
def execReedRankGradient (q : Nat) (s : State) : Result :=
  .next (unlessPoisoned s q ((reedCmd s q 2).map fun x => (x.1, x.2.1)) (runRankGradient s q))
/-- REED KIND 3: dA += δu_qᵀ·x (R114). -/
def execReedDownGradient (q : Nat) (s : State) : Result :=
  .next (unlessPoisoned s q ((reedCmd s q 3).map fun x => (x.1, x.2.1)) (runGradient s q 3))
/-- REED KIND 4 (R88, R114). -/
def execReedForwardPhaseOne (q : Nat) (s : State) : Result :=
  .next (unlessPoisoned s q ((reedCmd s q 4).map fun x => (x.1, x.2.1)) (runPhaseOne s q))
/-- MOVE KIND 0 (R115). -/
def execMoveCopy (q : Nat) (s : State) : Result := .next (unlessPoisoned s q (moveCmd s q 0) (runMove s q 0))
/-- MOVE KIND 1 (R115, R34). -/
def execMoveIntegerAdd (q : Nat) (s : State) : Result := .next (unlessPoisoned s q (moveCmd s q 1) (runMove s q 1))
/-- SWEEP (R117). -/
def execSweep (q : Nat) (s : State) : Result :=
  .next (unlessPoisoned s q ((queueAt s q).bind fun Q => (runningCmd Q fun c => c.op = 7).map fun c => (Q, c)) (runSweep s q))
/-- STEP (R220). -/
def execStep (q : Nat) (s : State) : Result := .next (unlessPoisoned s q (stepOf s q) (runStep s q))

end Sys2Proof.Machine
end

