-- ==== Sys2Proof/Machine/Dispatch.lean ====
section
/-! DEFINITION. One arm per command: a direct call of its meaning. -/

namespace Sys2Proof.Machine

open Sys2Proof

/-- The effect of a command on everything but the queue of waiting commands. -/
def exec (i : Instr) (s : State) : Host.Outcome State Fault Refusal :=
  match i with
  | .array q => Sys2Proof.Machine.execArray q s
  | .vector q => Sys2Proof.Machine.execVector q s
  | .reedUpGradient q => Sys2Proof.Machine.execReedUpGradient q s
  | .reedRankGradient q => Sys2Proof.Machine.execReedRankGradient q s
  | .reedDownGradient q => Sys2Proof.Machine.execReedDownGradient q s
  | .reedForwardPhaseOne q => Sys2Proof.Machine.execReedForwardPhaseOne q s
  | .moveCopy q => Sys2Proof.Machine.execMoveCopy q s
  | .moveIntegerAdd q => Sys2Proof.Machine.execMoveIntegerAdd q s
  | .syncCounterAdd q => Sys2Proof.Machine.execSyncCounterAdd q s
  | .syncCounterWait q => Sys2Proof.Machine.execSyncCounterWait q s
  | .syncEventSet q => Sys2Proof.Machine.execSyncEventSet q s
  | .syncEventClear q => Sys2Proof.Machine.execSyncEventClear q s
  | .syncEventWait q => Sys2Proof.Machine.execSyncEventWait q s
  | .syncLockAcquire q => Sys2Proof.Machine.execSyncLockAcquire q s
  | .syncLockRelease q => Sys2Proof.Machine.execSyncLockRelease q s
  | .syncBarrierArrive q => Sys2Proof.Machine.execSyncBarrierArrive q s
  | .syncLaunchAtCount q => Sys2Proof.Machine.execSyncLaunchAtCount q s
  | .launchBeatReached q => Sys2Proof.Machine.execLaunchBeatReached q s
  | .commit q => Sys2Proof.Machine.execCommit q s
  | .sweep q => Sys2Proof.Machine.execSweep q s
  | .yield q => Sys2Proof.Machine.execYield q s
  | .alloc q => Sys2Proof.Machine.execAlloc q s
  | .free q => Sys2Proof.Machine.execFree q s
  | .run q => Sys2Proof.Machine.execRun q s
  | .step q => Sys2Proof.Machine.execStep q s
  | .nop q => Sys2Proof.Machine.execNop q s
  | .vadd core a => Sys2Proof.Machine.execVadd core a s
  | .vsub core a => Sys2Proof.Machine.execVsub core a s
  | .vmul core a => Sys2Proof.Machine.execVmul core a s
  | .vfma core a => Sys2Proof.Machine.execVfma core a s
  | .vmax core a => Sys2Proof.Machine.execVmax core a s
  | .vmin core a => Sys2Proof.Machine.execVmin core a s
  | .vabs core a => Sys2Proof.Machine.execVabs core a s
  | .vneg core a => Sys2Proof.Machine.execVneg core a s
  | .vdiv core a => Sys2Proof.Machine.execVdiv core a s
  | .vsqrt core a => Sys2Proof.Machine.execVsqrt core a s
  | .vrsqrt core a => Sys2Proof.Machine.execVrsqrt core a s
  | .vrcp core a => Sys2Proof.Machine.execVrcp core a s
  | .vexp core a => Sys2Proof.Machine.execVexp core a s
  | .vexp2 core a => Sys2Proof.Machine.execVexp2 core a s
  | .vln core a => Sys2Proof.Machine.execVln core a s
  | .vlog2 core a => Sys2Proof.Machine.execVlog2 core a s
  | .vtanh core a => Sys2Proof.Machine.execVtanh core a s
  | .verf core a => Sys2Proof.Machine.execVerf core a s
  | .vsig core a => Sys2Proof.Machine.execVsig core a s
  | .vcmp core a => Sys2Proof.Machine.execVcmp core a s
  | .vsel core a => Sys2Proof.Machine.execVsel core a s
  | .vmov core a => Sys2Proof.Machine.execVmov core a s
  | .vbcast core a => Sys2Proof.Machine.execVbcast core a s
  | .vlane core a => Sys2Proof.Machine.execVlane core a s
  | .vld core a => Sys2Proof.Machine.execVld core a s
  | .vst core a => Sys2Proof.Machine.execVst core a s
  | .vld8 core a => Sys2Proof.Machine.execVld8 core a s
  | .vst8 core a => Sys2Proof.Machine.execVst8 core a s
  | .vred core a => Sys2Proof.Machine.execVred core a s
  | .vcomb core a => Sys2Proof.Machine.execVcomb core a s
  | .vpass core a => Sys2Proof.Machine.execVpass core a s
  | .vtag core a => Sys2Proof.Machine.execVtag core a s
  | .vsend core a => Sys2Proof.Machine.execVsend core a s
  | .vrecv core a => Sys2Proof.Machine.execVrecv core a s
  | .vrng core a => Sys2Proof.Machine.execVrng core a s
  | .vdrop core a => Sys2Proof.Machine.execVdrop core a s
  | .vuni core a => Sys2Proof.Machine.execVuni core a s
  | .sli core a => Sys2Proof.Machine.execSli core a s
  | .slih core a => Sys2Proof.Machine.execSlih core a s
  | .sadd core a => Sys2Proof.Machine.execSadd core a s
  | .loop core a => Sys2Proof.Machine.execLoop core a s
  | .endProgram core a => Sys2Proof.Machine.execEndProgram core a s
  | .uadd core a => Sys2Proof.Machine.execUadd core a s
  | .usub core a => Sys2Proof.Machine.execUsub core a s
  | .umul core a => Sys2Proof.Machine.execUmul core a s
  | .ufma core a => Sys2Proof.Machine.execUfma core a s
  | .udiv core a => Sys2Proof.Machine.execUdiv core a s
  | .usqrt core a => Sys2Proof.Machine.execUsqrt core a s
  | .ursqrt core a => Sys2Proof.Machine.execUrsqrt core a s
  | .umax core a => Sys2Proof.Machine.execUmax core a s
  | .umin core a => Sys2Proof.Machine.execUmin core a s
  | .uabs core a => Sys2Proof.Machine.execUabs core a s
  | .usel core a => Sys2Proof.Machine.execUsel core a s
  | .uest core a => Sys2Proof.Machine.execUest core a s
  | .ured core a => Sys2Proof.Machine.execUred core a s
  | .umov core a => Sys2Proof.Machine.execUmov core a s
  | .ringCommandFetch q records => Sys2Proof.Machine.execRingCommandFetch q records s
  | .commandStart q => Sys2Proof.Machine.execCommandStart q s
  | .commandCommit q => Sys2Proof.Machine.execCommandCommit q s
  | .kill q kind => Sys2Proof.Machine.execKill q kind s
  | .mergeEntryArrival core column => Sys2Proof.Machine.execMergeEntryArrival core column s
  | .tileRequestDone core mover => Sys2Proof.Machine.execTileRequestDone core mover s
  | .partialArrival engine tag lanes sender => Sys2Proof.Machine.execPartialArrival engine tag lanes sender s
  | .rootDelivery engine redId => Sys2Proof.Machine.execRootDelivery engine redId s
  | .stepBoundary job others => Sys2Proof.Machine.execStepBoundary job others s
  | .stepBarrierBoundExpiry job => Sys2Proof.Machine.execStepBarrierBoundExpiry job s
  | .syncWaitBoundExpiry q => Sys2Proof.Machine.execSyncWaitBoundExpiry q s
  | .barrierTokenArrival object token => Sys2Proof.Machine.execBarrierTokenArrival object token s
  | .doorbell fn page word wellSized => Sys2Proof.Machine.execDoorbell fn page word wellSized s
  | .queueCreate fn => Sys2Proof.Machine.execQueueCreate fn s
  | .queueDestroy fn => Sys2Proof.Machine.execQueueDestroy fn s
  | .queueReset fn => Sys2Proof.Machine.execQueueReset fn s
  | .queueRestart fn => Sys2Proof.Machine.execQueueRestart fn s
  | .releaseQuarantine fn => Sys2Proof.Machine.execReleaseQuarantine fn s
  | .jobSubmit fn container => Sys2Proof.Machine.execJobSubmit fn container s
  | .jobEnd fn => Sys2Proof.Machine.execJobEnd fn s
  | .coreGrant job => Sys2Proof.Machine.execCoreGrant job s
  | .preEmption job => Sys2Proof.Machine.execPreEmption job s
  | .yieldWaitBoundExpiry job => Sys2Proof.Machine.execYieldWaitBoundExpiry job s
  | .saveDone job => Sys2Proof.Machine.execSaveDone job s
  | .coreZeroingDone core => Sys2Proof.Machine.execCoreZeroingDone core s
  | .mailboxDoorbell fn word wellSized message => Sys2Proof.Machine.execMailboxDoorbell fn word wellSized message s
  | .mbxPageWrite fn page vector => Sys2Proof.Machine.execMbxPageWrite fn page vector s
  | .mailboxResponseWrite fn respRead => Sys2Proof.Machine.execMailboxResponseWrite fn respRead s
  | .promote fn => Sys2Proof.Machine.execPromote fn s
  | .evict fn => Sys2Proof.Machine.execEvict fn s
  | .pin fn => Sys2Proof.Machine.execPin fn s
  | .unpin fn => Sys2Proof.Machine.execUnpin fn s
  | .promoteCopyDone part index => Sys2Proof.Machine.execPromoteCopyDone part index s
  | .writeBackStart part index => Sys2Proof.Machine.execWriteBackStart part index s
  | .writeBackDone part index => Sys2Proof.Machine.execWriteBackDone part index s
  | .keyRegistration fn => Sys2Proof.Machine.execKeyRegistration fn s
  | .removeKey fn => Sys2Proof.Machine.execRemoveKey fn s
  | .register fn image => Sys2Proof.Machine.execRegister fn image s
  | .relocate fn image => Sys2Proof.Machine.execRelocate fn image s
  | .remove fn => Sys2Proof.Machine.execRemove fn s
  | .serveBind fn image => Sys2Proof.Machine.execServeBind fn image s
  | .serveBindComplete ctx blob readOk => Sys2Proof.Machine.execServeBindComplete ctx blob readOk s
  | .trainBind fn => Sys2Proof.Machine.execTrainBind fn s
  | .unbind fn => Sys2Proof.Machine.execUnbind fn s
  | .unbindComplete ctx => Sys2Proof.Machine.execUnbindComplete ctx s
  | .seal fn => Sys2Proof.Machine.execSeal fn s
  | .baseLoad fn head => Sys2Proof.Machine.execBaseLoad fn head s
  | .baseReplace fn head => Sys2Proof.Machine.execBaseReplace fn head s
  | .baseReplaceAbort fn => Sys2Proof.Machine.execBaseReplaceAbort fn s
  | .layerSwap part => Sys2Proof.Machine.execLayerSwap part s
  | .finalSwapBarrier part => Sys2Proof.Machine.execFinalSwapBarrier part s
  | .baseTileMulticast part tensor tile data => Sys2Proof.Machine.execBaseTileMulticast part tensor tile data s
  | .get who message => Sys2Proof.Machine.execGet who message s
  | .set who message => Sys2Proof.Machine.execSet who message s
  | .info who message => Sys2Proof.Machine.execInfo who message s
  | .next who message => Sys2Proof.Machine.execNext who message s
  | .subscribe who message => Sys2Proof.Machine.execSubscribe who message s
  | .snapshot who message => Sys2Proof.Machine.execSnapshot who message s
  | .alarmNotifyRepeat slot => Sys2Proof.Machine.execAlarmNotifyRepeat slot s
  | .stagedValueTimeout who => Sys2Proof.Machine.execStagedValueTimeout who s
  | .dictionaryWrite role index sub value => Sys2Proof.Machine.execDictionaryWrite role index sub value s
  | .mapWrite role part pairs value => Sys2Proof.Machine.execMapWrite role part pairs value s
  | .vfQuotaWrite role vf capacity value => Sys2Proof.Machine.execVfQuotaWrite role vf capacity value s
  | .vfPartitionWrite role vf value => Sys2Proof.Machine.execVfPartitionWrite role vf value s
  | .poolWrite role part sub value => Sys2Proof.Machine.execPoolWrite role part sub value s
  | .functionReset vf byWrite => Sys2Proof.Machine.execFunctionReset vf byWrite s
  | .pfReset byWrite => Sys2Proof.Machine.execPfReset byWrite s
  | .drainLimitExpiry fn => Sys2Proof.Machine.execDrainLimitExpiry fn s
  | .epochFlush role part => Sys2Proof.Machine.execEpochFlush role part s
  | .failoverRequest role => Sys2Proof.Machine.execFailoverRequest role s
  | .eastLinkDownTimeout => Sys2Proof.Machine.execEastLinkDownTimeout s
  | .startRequestWarm role inHold => Sys2Proof.Machine.execStartRequestWarm role inHold s
  | .startRequestCold role inHold => Sys2Proof.Machine.execStartRequestCold role inHold s
  | .configurationCommit role value => Sys2Proof.Machine.execConfigurationCommit role value s
  | .configurationWriteDone => Sys2Proof.Machine.execConfigurationWriteDone s
  | .stopChange role group stop => Sys2Proof.Machine.execStopChange role group stop s
  | .overlayWrite role stop value => Sys2Proof.Machine.execOverlayWrite role stop value s
  | .operatorKeyWrite role slot key => Sys2Proof.Machine.execOperatorKeyWrite role slot key s
  | .checkpointRequest role => Sys2Proof.Machine.execCheckpointRequest role s
  | .auditExportWrite role value => Sys2Proof.Machine.execAuditExportWrite role value s
  | .alarmAcknowledge role slot => Sys2Proof.Machine.execAlarmAcknowledge role slot s
  | .alarmClear role slot => Sys2Proof.Machine.execAlarmClear role slot s
  | .declareDead role cluster k => Sys2Proof.Machine.execDeclareDead role cluster k s
  | .gpioFunctionWrite role pin fn => Sys2Proof.Machine.execGpioFunctionWrite role pin fn s
  | .gpioParkEnd pin => Sys2Proof.Machine.execGpioParkEnd pin s
  | .bar4Access fn op => Sys2Proof.Machine.execBar4Access fn op s
  | .getVersion => Sys2Proof.Machine.execGetVersion s
  | .getCapabilities => Sys2Proof.Machine.execGetCapabilities s
  | .negotiateAlgorithms offer => Sys2Proof.Machine.execNegotiateAlgorithms offer s
  | .getDigests => Sys2Proof.Machine.execGetDigests s
  | .getCertificate slot offset len => Sys2Proof.Machine.execGetCertificate slot offset len s
  | .challenge slot nonce => Sys2Proof.Machine.execChallenge slot nonce s
  | .getMeasurements index nonce => Sys2Proof.Machine.execGetMeasurements index nonce s
  | .keyExchange key chainValid => Sys2Proof.Machine.execKeyExchange key chainValid s
  | .finish session proofValid => Sys2Proof.Machine.execFinish session proofValid s
  | .endSession session => Sys2Proof.Machine.execEndSession session s
  | .heartbeat session => Sys2Proof.Machine.execHeartbeat session s
  | .keygen hub src => Sys2Proof.Machine.execKeygen hub src s
  | .sign hub src d h => Sys2Proof.Machine.execSign hub src d h s
  | .verify hub src key h r s0 => Sys2Proof.Machine.execVerify hub src key h r s0 s
  | .ecdh hub src d key => Sys2Proof.Machine.execEcdh hub src d key s
  | .validate hub src key => Sys2Proof.Machine.execValidate hub src key s
  | .engineOperationDone hub => Sys2Proof.Machine.execEngineOperationDone hub s
  | .firmwareUpdate hub image => Sys2Proof.Machine.execFirmwareUpdate hub image s
  | .coldStart obs => Sys2Proof.Machine.execColdStart obs s
  | .warmStart obs => Sys2Proof.Machine.execWarmStart obs s
  | .startStepTimeout step => Sys2Proof.Machine.execStartStepTimeout step s
  | .pwrEnRise refclkOk => Sys2Proof.Machine.execPwrEnRise refclkOk s
  | .pwrEnFall => Sys2Proof.Machine.execPwrEnFall s
  | .aux12vApplied => Sys2Proof.Machine.execAux12vApplied s
  | .aux12vLow => Sys2Proof.Machine.execAux12vLow s
  | .main48vOutOfRange => Sys2Proof.Machine.execMain48vOutOfRange s
  | .modrstAssert => Sys2Proof.Machine.execModrstAssert s
  | .refclkCheck refclkOk => Sys2Proof.Machine.execRefclkCheck refclkOk s
  | .beatSyncInEdge highNs => Sys2Proof.Machine.execBeatSyncInEdge highNs s
  | .beatSyncOutPulse => Sys2Proof.Machine.execBeatSyncOutPulse s
  | .timeSyncExchange stamps => Sys2Proof.Machine.execTimeSyncExchange stamps s
  | .vcoreDroop cluster => Sys2Proof.Machine.execVcoreDroop cluster s
  | .droopThrottleEnd cluster cycles persists => Sys2Proof.Machine.execDroopThrottleEnd cluster cycles persists s
  | .brownOut cluster => Sys2Proof.Machine.execBrownOut cluster s
  | .powerSample watts => Sys2Proof.Machine.execPowerSample watts s
  | .powerStep cluster => Sys2Proof.Machine.execPowerStep cluster s
  | .dieTemperatureHigh die celsius => Sys2Proof.Machine.execDieTemperatureHigh die celsius s
  | .wakeRequest core => Sys2Proof.Machine.execWakeRequest core s
  | .rampEnd core => Sys2Proof.Machine.execRampEnd core s
  | .pllLock cluster => Sys2Proof.Machine.execPllLock cluster s
  | .idleGateExpiry core => Sys2Proof.Machine.execIdleGateExpiry core s
  | .pllOffExpiry cluster => Sys2Proof.Machine.execPllOffExpiry cluster s
  | .leaseRenewal => Sys2Proof.Machine.execLeaseRenewal s
  | .leaseTakeover => Sys2Proof.Machine.execLeaseTakeover s
  | .leaseDisagreement => Sys2Proof.Machine.execLeaseDisagreement s
  | .demotion hub => Sys2Proof.Machine.execDemotion hub s
  | .managementMessage cluster src epoch => Sys2Proof.Machine.execManagementMessage cluster src epoch s
  | .fabricManagerLease event => Sys2Proof.Machine.execFabricManagerLease event s
  | .fence module epoch lift => Sys2Proof.Machine.execFence module epoch lift s
  | .fenceNotice epoch => Sys2Proof.Machine.execFenceNotice epoch s
  | .flitTagFailure port consecutive => Sys2Proof.Machine.execFlitTagFailure port consecutive s
  | .laneFailure port => Sys2Proof.Machine.execLaneFailure port s
  | .crookLinkLoss loss => Sys2Proof.Machine.execCrookLinkLoss loss s
  | .portKeyExchange port peer => Sys2Proof.Machine.execPortKeyExchange port peer s
  | .portRekey port => Sys2Proof.Machine.execPortRekey port s
  | .keyRetryExpiry port => Sys2Proof.Machine.execKeyRetryExpiry port s
  | .remoteWrite pkt => Sys2Proof.Machine.execRemoteWrite pkt s
  | .remoteIntegerAdd pkt => Sys2Proof.Machine.execRemoteIntegerAdd pkt s
  | .remoteCommit job source cmd discard => Sys2Proof.Machine.execRemoteCommit job source cmd discard s
  | .hostProxy member addr data len => Sys2Proof.Machine.execHostProxy member addr data len s
  | .remoteSyncSignal job object signal => Sys2Proof.Machine.execRemoteSyncSignal job object signal s
  | .destinationUnreachable q => Sys2Proof.Machine.execDestinationUnreachable q s
  | .hostReadCompletion id ok data => Sys2Proof.Machine.execHostReadCompletion id ok data s
  | .correctedError unit => Sys2Proof.Machine.execCorrectedError unit s
  | .uncorrectableError core q word => Sys2Proof.Machine.execUncorrectableError core q word s
  | .uncorrectableReadLowerTier read unit word => Sys2Proof.Machine.execUncorrectableReadLowerTier read unit word s
  | .coreHeartbeatLoss core => Sys2Proof.Machine.execCoreHeartbeatLoss core s
  | .watchdogExpiry who => Sys2Proof.Machine.execWatchdogExpiry who s
  | .scrubPass unit rows seconds => Sys2Proof.Machine.execScrubPass unit rows seconds s
  | .traceReadPoll read => Sys2Proof.Machine.execTraceReadPoll read s
  | .journalGap => Sys2Proof.Machine.execJournalGap s
  | .main48vApplied => Sys2Proof.Machine.execMain48vApplied s
  | .pcieFundamentalReset hub => Sys2Proof.Machine.execPcieFundamentalReset hub s
  | .brownOutRecovery cluster => Sys2Proof.Machine.execBrownOutRecovery cluster s
  | .droopGapEnd cluster present => Sys2Proof.Machine.execDroopGapEnd cluster present s
  | .restoreDone job => Sys2Proof.Machine.execRestoreDone job s
  | .unitZeroingDone part => Sys2Proof.Machine.execUnitZeroingDone part s
  | .remoteAcknowledgement q => Sys2Proof.Machine.execRemoteAcknowledgement q s
  | .replayInputRelease job => Sys2Proof.Machine.execReplayInputRelease job s
  | .makerDebugUnlock nonce r s0 => Sys2Proof.Machine.execMakerDebugUnlock nonce r s0 s
  | .boundaryScan intest => Sys2Proof.Machine.execBoundaryScan intest s
  | .randomSourceHealthTestFailure hub => Sys2Proof.Machine.execRandomSourceHealthTestFailure hub s
  | .completionTimeout id => Sys2Proof.Machine.execCompletionTimeout id s

end Sys2Proof.Machine
end

