-- ==== Sys2Proof/WellFormed.lean ====
section
/-! DEFINITION. Which commands are well formed: every unit, queue, function, slot and index they name exists on the module
(Table 0.6 and the limits of the chapters). Values that the manual makes the module itself check stay free. -/

namespace Sys2Proof

/-- A memory unit that exists (Table 0.6). -/
def MemUnit.wf (u : MemUnit) : Bool :=
  match u with
  | .core c => c < 32
  | .hbm stack channel _ => stack < 16 && channel < 32
  | .lpddr channel _ => channel < 64

/-- A watchdog that exists. -/
def Watchdog.wf (w : Watchdog) : Bool :=
  match w with
  | .control _ => true
  | .cluster c _ => c < 8

/-- A command is well formed. -/
def Instr.wf (i : Instr) : Bool :=
  match i with
  | .array q => q < 8192
  | .vector q => q < 8192
  | .reedUpGradient q => q < 8192
  | .reedRankGradient q => q < 8192
  | .reedDownGradient q => q < 8192
  | .reedForwardPhaseOne q => q < 8192
  | .moveCopy q => q < 8192
  | .moveIntegerAdd q => q < 8192
  | .syncCounterAdd q => q < 8192
  | .syncCounterWait q => q < 8192
  | .syncEventSet q => q < 8192
  | .syncEventClear q => q < 8192
  | .syncEventWait q => q < 8192
  | .syncLockAcquire q => q < 8192
  | .syncLockRelease q => q < 8192
  | .syncBarrierArrive q => q < 8192
  | .syncLaunchAtCount q => q < 8192
  | .launchBeatReached q => q < 8192
  | .commit q => q < 8192
  | .sweep q => q < 8192
  | .yield q => q < 8192
  | .alloc q => q < 8192
  | .free q => q < 8192
  | .run q => q < 8192
  | .step q => q < 8192
  | .nop q => q < 8192
  | .vadd coreN _ => coreN < 32
  | .vsub coreN _ => coreN < 32
  | .vmul coreN _ => coreN < 32
  | .vfma coreN _ => coreN < 32
  | .vmax coreN _ => coreN < 32
  | .vmin coreN _ => coreN < 32
  | .vabs coreN _ => coreN < 32
  | .vneg coreN _ => coreN < 32
  | .vdiv coreN _ => coreN < 32
  | .vsqrt coreN _ => coreN < 32
  | .vrsqrt coreN _ => coreN < 32
  | .vrcp coreN _ => coreN < 32
  | .vexp coreN _ => coreN < 32
  | .vexp2 coreN _ => coreN < 32
  | .vln coreN _ => coreN < 32
  | .vlog2 coreN _ => coreN < 32
  | .vtanh coreN _ => coreN < 32
  | .verf coreN _ => coreN < 32
  | .vsig coreN _ => coreN < 32
  | .vcmp coreN _ => coreN < 32
  | .vsel coreN _ => coreN < 32
  | .vmov coreN _ => coreN < 32
  | .vbcast coreN _ => coreN < 32
  | .vlane coreN _ => coreN < 32
  | .vld coreN _ => coreN < 32
  | .vst coreN _ => coreN < 32
  | .vld8 coreN _ => coreN < 32
  | .vst8 coreN _ => coreN < 32
  | .vred coreN _ => coreN < 32
  | .vcomb coreN _ => coreN < 32
  | .vpass coreN _ => coreN < 32
  | .vtag coreN _ => coreN < 32
  | .vsend coreN _ => coreN < 32
  | .vrecv coreN _ => coreN < 32
  | .vrng coreN _ => coreN < 32
  | .vdrop coreN _ => coreN < 32
  | .vuni coreN _ => coreN < 32
  | .sli coreN _ => coreN < 32
  | .slih coreN _ => coreN < 32
  | .sadd coreN _ => coreN < 32
  | .loop coreN _ => coreN < 32
  | .endProgram coreN _ => coreN < 32
  | .uadd coreN _ => coreN < 32
  | .usub coreN _ => coreN < 32
  | .umul coreN _ => coreN < 32
  | .ufma coreN _ => coreN < 32
  | .udiv coreN _ => coreN < 32
  | .usqrt coreN _ => coreN < 32
  | .ursqrt coreN _ => coreN < 32
  | .umax coreN _ => coreN < 32
  | .umin coreN _ => coreN < 32
  | .uabs coreN _ => coreN < 32
  | .usel coreN _ => coreN < 32
  | .uest coreN _ => coreN < 32
  | .ured coreN _ => coreN < 32
  | .umov coreN _ => coreN < 32
  | .ringCommandFetch q _ => q < 8192
  | .commandStart q => q < 8192
  | .commandCommit q => q < 8192
  | .kill q _ => q < 8192
  | .mergeEntryArrival coreN column => coreN < 32 && column < 2 ^ 32
  | .tileRequestDone coreN mover => coreN < 32 && mover < 4
  | .partialArrival engine _ lanes _ => engine < 10 && 1 ≤ lanes.length && lanes.length ≤ 512
  | .rootDelivery engine redId => engine < 10 && redId < 2 ^ 24
  | .stepBoundary job _ => job < 2 ^ 64
  | .stepBarrierBoundExpiry job => job < 2 ^ 64
  | .syncWaitBoundExpiry q => q < 8192
  | .barrierTokenArrival object _ => object < 65536
  | .doorbell fn page _ _ => fn ≤ 1024 && page < (if fn = 0 then 524288 else 256)
  | .queueCreate fn => fn ≤ 1024
  | .queueDestroy fn => fn ≤ 1024
  | .queueReset fn => fn ≤ 1024
  | .queueRestart fn => fn ≤ 1024
  | .releaseQuarantine fn => fn ≤ 1024
  | .jobSubmit fn _ => fn ≤ 1024
  | .jobEnd fn => fn ≤ 1024
  | .coreGrant job => job < 2 ^ 64
  | .preEmption job => job < 2 ^ 64
  | .yieldWaitBoundExpiry job => job < 2 ^ 64
  | .saveDone job => job < 2 ^ 64
  | .coreZeroingDone coreN => coreN < 32
  | .mailboxDoorbell fn _ _ _ => fn ≤ 1024
  | .mbxPageWrite fn _ _ => fn ≤ 1024
  | .mailboxResponseWrite fn _ => fn ≤ 1024
  | .promote fn => fn ≤ 1024
  | .evict fn => fn ≤ 1024
  | .pin fn => fn ≤ 1024
  | .unpin fn => fn ≤ 1024
  | .promoteCopyDone part index => part < 32 && index < 2 ^ 20
  | .writeBackStart part index => part < 32 && index < 2 ^ 20
  | .writeBackDone part index => part < 32 && index < 2 ^ 20
  | .keyRegistration fn => fn ≤ 1024
  | .removeKey fn => fn ≤ 1024
  | .register fn _ => fn ≤ 1024
  | .relocate fn _ => fn ≤ 1024
  | .remove fn => fn ≤ 1024
  | .serveBind fn _ => fn ≤ 1024
  | .serveBindComplete ctx _ _ => ctx < 4096
  | .trainBind fn => fn ≤ 1024
  | .unbind fn => fn ≤ 1024
  | .unbindComplete ctx => ctx < 4096
  | .seal fn => fn ≤ 1024
  | .baseLoad fn _ => fn ≤ 1024
  | .baseReplace fn _ => fn ≤ 1024
  | .baseReplaceAbort fn => fn ≤ 1024
  | .layerSwap part => part < 32
  | .finalSwapBarrier part => part < 32
  | .baseTileMulticast part _ _ _ => part < 32
  | .get _ _ => true
  | .set _ _ => true
  | .info _ _ => true
  | .next _ _ => true
  | .subscribe _ _ => true
  | .snapshot _ _ => true
  | .alarmNotifyRepeat slot => slot < 128
  | .stagedValueTimeout _ => true
  | .dictionaryWrite _ index sub _ => index < 65536 && sub < 256
  | .mapWrite _ part _ _ => part < 32
  | .vfQuotaWrite _ vf _ _ => 1 ≤ vf && vf ≤ 1024
  | .vfPartitionWrite _ vf _ => 1 ≤ vf && vf ≤ 1024
  | .poolWrite _ part sub _ => part < 32 && 1 ≤ sub && sub ≤ 6
  | .functionReset vf _ => 1 ≤ vf && vf ≤ 1024
  | .pfReset _ => true
  | .drainLimitExpiry fn => fn ≤ 1024
  | .epochFlush _ part => part < 32
  | .failoverRequest _ => true
  | .eastLinkDownTimeout => true
  | .startRequestWarm _ _ => true
  | .startRequestCold _ _ => true
  | .configurationCommit _ _ => true
  | .configurationWriteDone => true
  | .stopChange _ group stop => 1 ≤ group && group ≤ 4 && stop < 10
  | .overlayWrite _ stop _ => stop < 10
  | .operatorKeyWrite _ slot _ => 1 ≤ slot && slot ≤ 8
  | .checkpointRequest _ => true
  | .auditExportWrite _ _ => true
  | .alarmAcknowledge _ slot => slot < 128
  | .alarmClear _ slot => slot < 128
  | .declareDead _ cluster k => cluster < 8 && k < 4
  | .gpioFunctionWrite _ pinN fn => pinN < 8 && fn ≤ 7
  | .gpioParkEnd pinN => pinN < 8
  | .bar4Access fn _ => fn ≤ 1024
  | .getVersion => true
  | .getCapabilities => true
  | .negotiateAlgorithms _ => true
  | .getDigests => true
  | .getCertificate slot _ _ => slot < 16
  | .challenge slot nonce => slot < 16 && nonce.length = 32
  | .getMeasurements _ nonce => nonce.length = 32
  | .keyExchange _ _ => true
  | .finish _ _ => true
  | .endSession _ => true
  | .heartbeat _ => true
  | .keygen _ _ => true
  | .sign _ _ _ _ => true
  | .verify _ _ _ _ _ _ => true
  | .ecdh _ _ _ _ => true
  | .validate _ _ _ => true
  | .engineOperationDone _ => true
  | .firmwareUpdate _ _ => true
  | .coldStart _ => true
  | .warmStart _ => true
  | .startStepTimeout stepN => 1 ≤ stepN && stepN ≤ 9
  | .pwrEnRise _ => true
  | .pwrEnFall => true
  | .aux12vApplied => true
  | .aux12vLow => true
  | .main48vOutOfRange => true
  | .modrstAssert => true
  | .refclkCheck _ => true
  | .beatSyncInEdge _ => true
  | .beatSyncOutPulse => true
  | .timeSyncExchange _ => true
  | .vcoreDroop cluster => cluster < 8
  | .droopThrottleEnd cluster _ _ => cluster < 8
  | .brownOut cluster => cluster < 8
  | .powerSample _ => true
  | .powerStep cluster => cluster < 8
  | .dieTemperatureHigh die _ => die < 10
  | .wakeRequest coreN => coreN < 32
  | .rampEnd coreN => coreN < 32
  | .pllLock cluster => cluster < 8
  | .idleGateExpiry coreN => coreN < 32
  | .pllOffExpiry cluster => cluster < 8
  | .leaseRenewal => true
  | .leaseTakeover => true
  | .leaseDisagreement => true
  | .demotion _ => true
  | .managementMessage cluster _ epoch => cluster < 8 && epoch < 2 ^ 32
  | .fabricManagerLease _ => true
  | .fence module epoch _ => module < 4096 && epoch < 2 ^ 32
  | .fenceNotice epoch => epoch < 2 ^ 32
  | .flitTagFailure port _ => port < 24
  | .laneFailure port => port < 24
  | .crookLinkLoss loss => loss.link < 18 && loss.module < 5 && 1 ≤ loss.lanes && loss.lanes ≤ 64
  | .portKeyExchange port _ => port < 24
  | .portRekey port => port < 24
  | .keyRetryExpiry port => port < 24
  | .remoteWrite pkt => pkt.data.length ≤ 224
  | .remoteIntegerAdd pkt => pkt.data.length ≤ 224
  | .remoteCommit job _ _ _ => job < 2 ^ 64
  | .hostProxy member _ _ _ => member < 4096
  | .remoteSyncSignal job object _ => job < 2 ^ 64 && object < 65536
  | .destinationUnreachable q => q < 8192
  | .hostReadCompletion _ _ _ => true
  | .correctedError unit => unit.wf
  | .uncorrectableError coreN _ _ => coreN < 32
  | .uncorrectableReadLowerTier _ unit _ => unit.wf
  | .coreHeartbeatLoss coreN => coreN < 32
  | .watchdogExpiry who => who.wf
  | .scrubPass unit _ _ => unit.wf
  | .traceReadPoll _ => true
  | .journalGap => true
  | .main48vApplied => true
  | .pcieFundamentalReset _ => true
  | .brownOutRecovery cluster => cluster < 8
  | .droopGapEnd cluster _ => cluster < 8
  | .restoreDone job => job < 2 ^ 64
  | .unitZeroingDone part => part < 32
  | .remoteAcknowledgement q => q < 8192
  | .replayInputRelease job => job < 2 ^ 64
  | .makerDebugUnlock nonce _ _ => nonce.length = 32
  | .boundaryScan _ => true
  | .randomSourceHealthTestFailure _ => true
  | .completionTimeout _ => true

end Sys2Proof
end

