-- ==== Sys2Proof/Safety.lean ====
section
/-! DEFINITION. The terms in which the statements speak: a command runs, what a command leaves alone, how a command of a queue
ends, and the invariants of the machine. -/

namespace Sys2Proof.Machine

open Sys2Proof

/-- The command answers a next state of which `P` holds. -/
def Runs (c : Instr) (s : State) (P : State → Prop) : Prop := ∃ t, exec c s = .next t ∧ P t

/-! ## Cores -/

/-- Nothing changed but core `core`. -/
def OnlyCore (s t : State) (core : Nat) : Prop :=
  t = { s with cores := t.cores } ∧ ∀ c, c ≠ core → coreAt t c = coreAt s c

/-- Nothing changed but the vector unit of `core`, whose command stays. -/
def OnlyVec (s t : State) (core : Nat) : Prop :=
  OnlyCore s t core ∧ coreAt t core = { coreAt s core with vec := vecOf t core }
    ∧ (vecOf t core).owner = (vecOf s core).owner

/-- A vector instruction wrote register `d` alone, with this tag: every other register and tag, the masks and the scalars
are as before. -/
def VecWrote (s t : State) (core d : Nat) (tag : Option W64) : Prop :=
  OnlyVec s t core ∧ (vecOf t core).masks = (vecOf s core).masks ∧ (vecOf t core).scalars = (vecOf s core).scalars
    ∧ (vecOf t core).tagOf d = tag
    ∧ ∀ n, n ≠ d → (vecOf t core).reg n = (vecOf s core).reg n ∧ (vecOf t core).tagOf n = (vecOf s core).tagOf n

/-- What VD holds once `new` has been written under MK: with MK = 0, k0, every lane; else the old lane where the mask bit
is 0 (R82). -/
def underMask (u : VecUnit) (a : VArgs) (new : List W32) : List W32 :=
  if a.mask = 0 then new else mergeLanes (maskLanes (u.maskOf a.mask.toNat)) new (u.reg a.vd.toNat)

/-- The vector unit's registers, masks, scalars and loops are as before; only the program position may have moved on. -/
def VecKept (s t : State) (core : Nat) : Prop :=
  OnlyVec s t core ∧ (vecOf t core).regs = (vecOf s core).regs ∧ (vecOf t core).tags = (vecOf s core).tags
    ∧ (vecOf t core).masks = (vecOf s core).masks ∧ (vecOf t core).scalars = (vecOf s core).scalars

/-- Nothing changed but register `d` of the update unit of `core`. -/
def UpdWrote (s t : State) (core d : Nat) : Prop :=
  OnlyCore s t core ∧ coreAt t core = { coreAt s core with upd := (coreAt t core).upd }
    ∧ (coreAt t core).upd = { (coreAt s core).upd with regs := (coreAt t core).upd.regs }
    ∧ ∀ n, n ≠ d → (coreAt t core).upd.reg n = (coreAt s core).upd.reg n

/-! ## Commands of a queue -/

/-- Command `uid` of queue `q` has failed with `st`: it stands finished, and the queue has stopped with that status on its
page (R104). -/
def Failed (t : State) (q uid : Nat) (st : Status) : Prop :=
  ∃ Q c, queueAt t q = some Q ∧ cmdAt Q uid = some c ∧ c.state = .finished st ∧ Q.stopped = true ∧ Q.status = st

/-- Command `uid` of queue `q` has finished with `st` and waits for its commit. -/
def Finished (t : State) (q uid : Nat) (st : Status) : Prop :=
  ∃ Q c, queueAt t q = some Q ∧ cmdAt Q uid = some c ∧ c.state = .finished st

/-- Command `uid` of queue `q` has left the queue. -/
def Gone (t : State) (q uid : Nat) : Prop := ∃ Q, queueAt t q = some Q ∧ cmdAt Q uid = none

/-- The queue with a command gone. -/
def without (Q : Queue) (uid : Nat) : Queue := { Q with cmds := Q.cmds.filter fun d => d.uid ≠ uid }

/-- No RUN of the queue ends with the commit of `c`: none runs, or the oldest goes on without that command. -/
def RunGoesOn (Q : Queue) (c : Cmd) : Prop := (Q.runs.head?.all fun r => !runEnded (without Q c.uid) r) = true

/-- Command `c` of queue `q`, which held `Q`, has committed: it has left the queue, and COMMITTED holds its SEQ, or that of a
RUN which has ended with it (R101, R103). -/
def Committed (Q : Queue) (t : State) (q : Nat) (c : Cmd) : Prop :=
  ∃ Q', queueAt t q = some Q' ∧ cmdAt Q' c.uid = none ∧ (RunGoesOn Q c → Q'.committed = c.seq)
    ∧ (¬RunGoesOn Q c → ∃ r ∈ Q.runs, Q'.committed = r.seq)

/-- Nothing but queue `q` and sync object `obj` changed among queues, objects, cores and the beat counter. -/
def SyncFrame (s t : State) (q obj : Nat) : Prop :=
  (∀ k, k ≠ obj → syncAt t k = syncAt s k) ∧ (∀ p, p ≠ q → queueAt t p = queueAt s p) ∧ t.cores = s.cores ∧ t.now = s.now

/-- SYNC `c` of `Q` names an object of this module: a ring SYNC does, a stream's where its module index is the job's. -/
def NamesOwn (s : State) (Q : Queue) (c : Cmd) : Prop :=
  c.stream.isSome = true → ((Q.job.bind (jobAt s)).map Job.moduleIdx).getD 0 = yModule c.bytes

/-! ## Requests of a mailbox -/

/-- Message `m` of a class and an operation stands alone at the head of function `fn`'s mailbox and may be served. -/
def AtHead (s : State) (fn : Nat) (m : MboxMsg) (cls op : Nat) : Prop :=
  headMessage s fn = some m ∧ (mboxAt s fn).inbox = [m] ∧ m.cls = cls ∧ field m.bytes 0 1 = op

/-- Message `m` has been taken from the mailbox: its frames are consumed. -/
def Consumed (s t : State) (fn : Nat) (m : MboxMsg) : Prop :=
  (mboxAt t fn).inbox = [] ∧ (mboxAt t fn).consumed = ((mboxAt s fn).consumed + m.frames) % 2 ^ 32

/-- Message `m` has been taken and answered with status `st`: one response more is held, of its class and SEQ. -/
def Answered (s t : State) (fn : Nat) (m : MboxMsg) (st : Status) : Prop :=
  Consumed s t fn m ∧ ∃ r, (mboxAt t fn).held = (mboxAt s fn).held ++ [r] ∧ r.cls = m.cls ∧ r.seq = m.seq ∧ field r.bytes 4 2 = st

/-- Message `m` has been taken, and the last response held is its answer with status `st`; other requests that end with it are
answered before. -/
def AnsweredLast (s t : State) (fn : Nat) (m : MboxMsg) (st : Status) : Prop :=
  Consumed s t fn m ∧ ∃ r, (mboxAt t fn).held.getLast? = some r ∧ r.cls = m.cls ∧ r.seq = m.seq ∧ field r.bytes 4 2 = st

/-- No freed buffer's storage is held by a command. -/
def NoHeldStorage (s : State) : Prop := ∀ e ∈ s.bufs, e.2.freed = false

/-! ## Dictionary -/

/-- Counter index.sub has risen by `n`, up to the greatest value of its type (R423). -/
def Counted (s t : State) (index sub n : Nat) : Prop := dnum t index sub = min (dnum s index sub + n) (entryMax index sub)

/-- A write is accepted at once: requests are served, no earlier write of the entry is in progress, its checks pass. -/
def Accepted (s : State) (role : Role) (index sub : Nat) (v : DVal) : Prop :=
  served s = true ∧ FMap.has s.tel.busy (dkey index sub) = false ∧ writeStatus s role none index sub v = 0

/-- The audit log takes a record without erasing a sector or filling up, and the module is not in hold. -/
def AuditRoom (s : State) : Prop := dnum s 0x8300 1 < 65535 ∧ s.cfg.auditStopped = false ∧ isHold s = false

/-- One audit record more, of this role and entry (R366, R430). -/
def Recorded (s t : State) (role : Role) (index sub : Nat) : Prop :=
  dnum t 0x8300 1 = dnum s 0x8300 1 + 1 ∧ ∃ r, FMap.get? t.audit.records (dnum s 0x8300 1) = some r
    ∧ field r 0 8 = dnum s 0x8300 1 ∧ field r 16 1 = roleCode role ∧ field r 18 2 = index ∧ field r 20 1 = sub

/-- Every entry has the value it had, but for those of `keys` and the number of audit records. -/
def EntriesKept (s t : State) (keys : List Nat) : Prop := ∀ k, k ∉ keys → k ≠ dkey 0x8300 1 → dget t k = dget s k

/-- A request of operation `op` arrives whole, reaches its server, and keeps the header's rules (Table 17.1). -/
def RequestArrives (s : State) (who : Requester) (b : List Byte) (op : Nat) : Prop :=
  16 ≤ b.length ∧ reaches s who = true ∧ fOp b = op ∧ (who.path = .bar0 → s.tel.dictBusy = false) ∧ fdpHeaderOk who b = true

/-- The state in which a request is served: in the BAR0 window its registers hold the request. -/
def served0 (s : State) (who : Requester) (b : List Byte) : State := if who.path = .bar0 then windowRegisters s b else s

/-- The response on the request's path: its header with the status, then the data (R413). -/
def Replied (t : State) (who : Requester) (b : List Byte) (st : Status) (data : List Byte) : Prop :=
  FMap.get? t.tel.fdpOut (pathNumber who.path) = some (slice b 0 14 ++ toLe 2 st ++ data)

/-- Alarm `slot` has occurred once more: it is active, and ALERT# is low (R425, R427). -/
def Raised (s t : State) (slot : Nat) : Prop :=
  (alarmAt t slot).state = 1 ∧ (alarmAt t slot).count = min ((alarmAt s slot).count + 1) (2 ^ 32 - 1) ∧ t.pins.alertN = false

/-- The engine of `hub` idles. -/
def EngineIdle (s : State) (hub : Hub) : Prop :=
  (engineAt s hub).running = none ∧ (engineAt s hub).waiting = [] ∧ (engineAt s hub).held = []

/-- An operation for `use` has started in the present beat on the engine of `hub`. -/
def EngineStarted (s t : State) (hub : Hub) (use : EngineUse) : Prop :=
  (engineAt t hub).running.map (fun r => (r.1, r.2.use)) = some (s.now, use)

/-! ## Invariants -/

/-- The fuses are those of `f`, but that ANTI_ROLLBACK may have risen. -/
def FusesFrom (f : Fuses) (s : State) : Prop :=
  s.sec.fuses = { f with antiRollback := s.sec.fuses.antiRollback } ∧ f.antiRollback ≤ s.sec.fuses.antiRollback

/-- Every waiting command is well formed. -/
def PendingOk (s : State) : Prop := ∀ c ∈ s.pending, c.wf = true

/-- Host memory as written, and the rings and completion records in HBM, have the canonical form. -/
def MemoryOk (s : State) : Prop := s.hostOut.wf = true ∧ s.hbm.wf = true

end Sys2Proof.Machine
end

