-- ==== Sys2Proof/Certificates/Slice0/Obligations.lean ====
section
/-! DEFINITION. The statements for the provers. -/

open Sys2Proof Sys2Proof.Machine

/-! ## The queue of waiting commands -/

/-- A step takes the command at the front of the queue and answers its outcome on the state with the queue's rest. Every
command answers a next state, whatever state it meets (log entry 1). -/
def Obligations.StepRunsTheFrontCommand : Prop :=
  (∀ (s : State) (c : Instr) (rest : List Instr), s.pending = c :: rest → step s = exec c { s with pending := rest })
  ∧ ∀ (s : State) (c : Instr), ∃ t, exec c s = .next t

/-! ## Vector unit -/

/-- VABS to VSIG and VUNI (R80): one source, every lane, under MK; VD's tag is cleared, and nothing else changes.
VADD to VDIV (R80, R44): two sources, every lane, under MK; VD's tag is cleared, and nothing else changes. -/
def Obligations.VectorArithmetic : Prop :=
  (∀ op ∈ [(Instr.vabs, Fp.abs), (Instr.vneg, Fp.negate), (Instr.vsqrt, Fp.sqrt), (Instr.vrsqrt, Fp.rsqrt), (Instr.vrcp, Fp.rcp),
      (Instr.vexp, Fp.exp), (Instr.vexp2, Fp.exp2), (Instr.vln, Fp.ln), (Instr.vlog2, Fp.log2), (Instr.vtanh, Fp.tanh),
      (Instr.verf, Fp.erf), (Instr.vsig, Fp.sig), (Instr.vuni, fun w : W32 => Fp.ofFrac (w.toNat / 256) (2 ^ 24))],
    ∀ (core : Nat) (a : VArgs) (s : State), Runs (op.1 core a) s fun t =>
      VecWrote s t core a.vd.toNat none
        ∧ (vecOf t core).reg a.vd.toNat = underMask (vecOf s core) a (((vecOf s core).reg a.va.toNat).map op.2))
  ∧ (∀ op ∈ [(Instr.vadd, Fp.add), (Instr.vsub, Fp.sub), (Instr.vmul, Fp.mul), (Instr.vmax, Fp.max), (Instr.vmin, Fp.min),
      (Instr.vdiv, Fp.div)],
    ∀ (core : Nat) (a : VArgs) (s : State), Runs (op.1 core a) s fun t =>
      VecWrote s t core a.vd.toNat none
        ∧ (vecOf t core).reg a.vd.toNat
          = underMask (vecOf s core) a (((vecOf s core).reg a.va.toNat).zipWith op.2 ((vecOf s core).reg a.vb.toNat)))

/-- VFMA, VDROP, VSEL, VMOV, VBCAST, VLANE: VD alone is written. VMOV takes the tag of its source along, the others clear
VD's; VSEL writes every lane.
What a masked write leaves in each of the 512 lanes: the new value where the mask bit is 1, the old one elsewhere. -/
def Obligations.VectorRegisterMoves : Prop :=
  (∀ (core : Nat) (a : VArgs) (s : State),
    let u := vecOf s core
    let va := u.reg a.va.toNat
    let vb := u.reg a.vb.toNat
    let vc := u.reg a.vc.toNat
    (Runs (.vfma core a) s fun t => VecWrote s t core a.vd.toNat none
      ∧ (vecOf t core).reg a.vd.toNat = underMask u a ((va.zip (vb.zip vc)).map fun p => Fp.fma p.1 p.2.1 p.2.2))
    ∧ (Runs (.vdrop core a) s fun t => VecWrote s t core a.vd.toNat none
      ∧ (vecOf t core).reg a.vd.toNat = underMask u a (va.zipWith (fun w x =>
          if bits a.imm.toNat 23 0 ≤ bits w.toNat 31 8 then Fp.mul x (vc.getD 0 0) else 0) vb))
    ∧ (Runs (.vsel core a) s fun t => VecWrote s t core a.vd.toNat none
      ∧ (vecOf t core).reg a.vd.toNat = mergeLanes (maskLanes (u.maskOf a.mask.toNat)) va vb)
    ∧ (Runs (.vmov core a) s fun t => VecWrote s t core a.vd.toNat (u.tagOf a.va.toNat)
      ∧ (vecOf t core).reg a.vd.toNat = underMask u a va)
    ∧ (Runs (.vbcast core a) s fun t => VecWrote s t core a.vd.toNat none
      ∧ (vecOf t core).reg a.vd.toNat = underMask u a (List.replicate 512 (va.getD (bits a.imm.toNat 8 0) 0)))
    ∧ (Runs (.vlane core a) s fun t => VecWrote s t core a.vd.toNat none
      ∧ (vecOf t core).reg a.vd.toNat = underMask u a ((List.range 512).map fun i : Nat => Fp.ofInt i)))
  ∧ (∀ (u : VecUnit) (a : VArgs) (new : List W32) (i : Nat), a.mask ≠ 0 → i < new.length → i < (u.reg a.vd.toNat).length → i < 512 →
    (underMask u a new).getD i 0
      = if (u.maskOf a.mask.toNat).getLsbD i then new.getD i 0 else (u.reg a.vd.toNat).getD i 0)

/-- VCMP with FN at most 3: bit i of mask VD[2:0] is the comparison of lane i where MK is 1, else the old bit (log entry 73:
the model's reading of Table 4.2 for a mask as destination); k0 stays all ones. With FN above 3 the command whose unit it is
fails with 0x0E01.
SLI, SLIH, SADD write scalar VD[3:0] alone: SLI the sign-extended IMM, SADD its sum with the old value, SLIH bits [63:38].
LOOP with fewer than four active loops pushes its body and count and goes on at the first body instruction; a fifth fails the
command with 0x0E01; an empty body does nothing but move on. END: the command whose unit it is has finished with 0x0000, and
its unit is free. -/
def Obligations.VectorMasksScalarsLoops : Prop :=
  ((∀ (core : Nat) (a : VArgs) (s : State), a.fn.toNat ≤ 3 →
    let u := vecOf s core
    let d := a.vd.toNat % 8
    let new := (u.reg a.va.toNat).zipWith (vecCompare a.fn.toNat) (u.reg a.vb.toNat)
    Runs (.vcmp core a) s fun t => OnlyVec s t core ∧ (vecOf t core).regs = u.regs ∧ (vecOf t core).tags = u.tags
      ∧ (vecOf t core).scalars = u.scalars ∧ (∀ n, n ≠ d → (vecOf t core).maskOf n = u.maskOf n)
      ∧ ∀ i, i < 512 → ((vecOf t core).maskOf d).getLsbD i
        = if d = 0 then true else if (u.maskOf a.mask.toNat).getLsbD i then new.getD i false else (u.maskOf d).getLsbD i)
  ∧ ∀ (core : Nat) (a : VArgs) (s : State) (q : Nat) (Q : Queue) (c : Cmd), 3 < a.fn.toNat →
    (vecOf s core).owner = some (q, c.uid) → vecOwner s core = some (q, Q, c) →
    Runs (.vcmp core a) s fun t => Failed t q c.uid 0x0E01)
  ∧ (∀ (core : Nat) (a : VArgs) (s : State),
    let d := a.vd.toNat % 16
    let old := (vecOf s core).scalar d
    let wrote (t : State) (v : W64) : Prop := OnlyVec s t core ∧ (vecOf t core).regs = (vecOf s core).regs
      ∧ (vecOf t core).tags = (vecOf s core).tags ∧ (vecOf t core).masks = (vecOf s core).masks
      ∧ (vecOf t core).scalar d = v ∧ ∀ n, n ≠ d → (vecOf t core).scalar n = (vecOf s core).scalar n
    (Runs (.sli core a) s fun t => wrote t (BitVec.signExtend 64 a.imm))
    ∧ (Runs (.slih core a) s fun t => wrote t (BitVec.ofNat 64 (a.imm.toNat * 2 ^ 38 + old.toNat % 2 ^ 38)))
    ∧ (Runs (.sadd core a) s fun t => wrote t (old + BitVec.signExtend 64 a.imm)))
  ∧ (∀ (core : Nat) (a : VArgs) (s : State),
    let u := vecOf s core
    let body := bits a.imm.toNat 25 16
    (body = 0 → Runs (.loop core a) s fun t => VecKept s t core ∧ vecOf t core = u.next)
    ∧ (body ≠ 0 → u.loops.length < 4 → Runs (.loop core a) s fun t => VecKept s t core ∧ (vecOf t core).pc = u.pc + 1
      ∧ (vecOf t core).loops = ⟨u.pc + 1, body, bits a.imm.toNat 15 0⟩ :: u.loops)
    ∧ ∀ (q : Nat) (Q : Queue) (c : Cmd), body ≠ 0 → 4 ≤ u.loops.length → u.owner = some (q, c.uid) →
      vecOwner s core = some (q, Q, c) → Runs (.loop core a) s fun t => Failed t q c.uid 0x0E01)
  ∧ ∀ (core : Nat) (a : VArgs) (s : State) (q : Nat) (Q : Queue) (c : Cmd), (vecOf s core).owner = some (q, c.uid) →
    vecOwner s core = some (q, Q, c) →
    Runs (.endProgram core a) s fun t => Finished t q c.uid 0 ∧ vecOf t core = {}
      ∧ (∀ p, p ≠ q → queueAt t p = queueAt s p) ∧ t = { s with cores := t.cores, queues := t.queues }

/-- VLD and VLD8 from an aligned address inside a declared buffer, where no poisoned word stands, write VD under MK: the words,
or the codes times lane 0 of VB. An address that is not a multiple of 64 fails the command with 0x0E11; an aligned one where
the bytes do not lie in one declared buffer with 0x0E12 (R81); so do those of VST and VST8. Where a poisoned word is met,
nothing is computed on it (R162, R435). -/
def Obligations.VectorLoads : Prop :=
  ∀ (core : Nat) (a : VArgs) (s : State) (q : Nat) (Q : Queue) (c : Cmd),
    (vecOf s core).owner = some (q, c.uid) → vecOwner s core = some (q, Q, c) →
    let u := vecOf s core
    let addr := vecAddr u a
    let h := rH c.bytes (24 + 4 * (addr / 2 ^ 23))
    let off := addr % 2 ^ 23
    let inside (n : Nat) : Prop := addr / 2 ^ 23 < 8 ∧ h ≠ 0 ∧ off + n ≤ usedSize s Q c h
    (addr % 64 = 0 → inside 2048 → vecLoadMet 2048 core a s = none → Runs (.vld core a) s fun t => VecWrote s t core a.vd.toNat none
      ∧ (vecOf t core).reg a.vd.toNat = underMask u a (words32 (readH Q c h off 2048)))
    ∧ (addr % 64 = 0 → inside 512 → vecLoadMet 512 core a s = none → Runs (.vld8 core a) s fun t => VecWrote s t core a.vd.toNat none
      ∧ (vecOf t core).reg a.vd.toNat = underMask u a ((readH Q c h off 512).map fun b =>
          Fp.mul (Fp.ofCode b) ((u.reg a.vb.toNat).getD 0 0)))
    ∧ (∀ i ∈ [Instr.vld, Instr.vld8, Instr.vst, Instr.vst8], addr % 64 ≠ 0 → Runs (i core a) s fun t => Failed t q c.uid 0x0E11)
    ∧ (∀ i ∈ [(Instr.vld, 2048), (Instr.vld8, 512), (Instr.vst, 2048), (Instr.vst8, 512)], addr % 64 = 0 → ¬inside i.2 →
      Runs (i.1 core a) s fun t => Failed t q c.uid 0x0E12)
    ∧ ∀ i ∈ [(Instr.vld, vecLoadMet 2048), (Instr.vld8, vecLoadMet 512), (Instr.vst, vecStoreMet 4), (Instr.vst8, vecStoreMet 1)],
      ∀ w, i.2 core a s = some w → Runs (i.1 core a) s fun t => t = meetPoison s q c.uid w

/-- VST and VST8 stage one write of 512 lanes at the address, for the version of the buffer that the command holds: the lane's
word or code where the mask is 1, the old bytes where it is 0; each unmasked non-finite lane adds one report, and VST8
observes its unmasked lanes into VRING. The unit keeps its registers, committed memory does not change, and no other command
of any queue does. -/
def Obligations.VectorStores : Prop :=
  ∀ (core : Nat) (a : VArgs) (s : State) (q : Nat) (Q : Queue) (c : Cmd),
    vecOwner s core = some (q, Q, c) →
    let u := vecOf s core
    let v := u.reg a.va.toNat
    let m := maskLanes (u.maskOf a.mask.toNat)
    let live := (m.zip v).filterMap fun p => if p.1 then some p.2 else none
    let sent (x : W32) := requantize x ((u.reg a.vb.toNat).getD 0 0)
    let code (x : W32) : List Byte := toLe 1 (unsigned 8 (sent x).code)
    let stored (w h off : Nat) (new : List (List Byte)) : StageWrite :=
      ⟨hVer Q.part h, off,
        (m.zip (new.zip (chunks w (readH Q c h off (512 * w))))).flatMap fun p => if p.1 then p.2.1 else p.2.2⟩
    let staged (t : State) (w : StageWrite) (obs : List ObsDelta) : Prop := ∃ Q' c', queueAt t q = some Q' ∧ cmdAt Q' c.uid = some c'
      ∧ c'.staged = c.staged ++ [w] ∧ c'.nf = c.nf + (live.filter Fp.nonfinite).length ∧ c'.state = c.state
      ∧ c'.obs = c.obs ++ obs ∧ (∀ n, n ≠ c.uid → cmdAt Q' n = cmdAt Q n)
    let kept (t : State) : Prop := t = { s with cores := t.cores, queues := t.queues }
      ∧ (∀ p, p ≠ q → queueAt t p = queueAt s p) ∧ (vecOf t core).regs = u.regs ∧ (vecOf t core).masks = u.masks
    (∀ h off, vecReach s Q c (vecAddr u a) 2048 = .ok (h, off) → vecStoreMet 4 core a s = none → Runs (.vst core a) s fun t =>
      kept t ∧ staged t (stored 4 h off (v.map fun x => toLe 4 x.toNat)) [])
    ∧ (∀ h off, vecReach s Q c (vecAddr u a) 512 = .ok (h, off) → vecStoreMet 1 core a s = none → Runs (.vst8 core a) s fun t =>
      kept t ∧ staged t (stored 1 h off (v.map code)) (observeAll (rRing c.bytes 56) (live.map fun x => (x, sent x))))

/-- The reductions of the vector unit (R83). VRED with FN at most 3, a tag of height 0 at the head of a chunk and a mask of the
whole chunk, or of the lanes that the last chunk has: the root of the unmasked lanes in every lane of VD, its tag at height 9.
VCOMB of two siblings joins them one height up, the left one first. VPASS takes a left node one height up past a right
sibling that starts at or beyond the axis end, its lanes as the declared operation passes them. VTAG attaches a valid tag in
s[SS]. What they refuse: FN above 3 with 0x0E01; a tag that does not fit with 0x0E24; a reduction that the job does not
declare with 0x0E23; a VPASS with a sibling present, and as the model's choice one of an odd node or of an untagged register,
with 0x0E27 (log entry 149); an element or a height out of range with 0x0E28. The order of the checks is the model's reading
(log entry 74).
VRNG gives lane L the word of element s[SS] + L: word (e mod 4) of the Philox call of block e / 4, under the job's seed
and batch index and the layer and tensor of s[SS+1] (R85). An element index that is no multiple of 4, or that leaves 48 bits,
fails the command with 0x0E26; SS = 15 with 0x0E01. -/
def Obligations.VectorTagsAndRandom : Prop :=
  (∀ (core : Nat) (a : VArgs) (s : State) (j : Nat) (d : RedDecl) (t0 : W64),
    let u := vecOf s core
    let va := u.reg a.va.toNat
    let vb := u.reg a.vb.toNat
    let m := u.maskOf a.mask.toNat
    let up := lTag (lRed t0) (lHeight t0 + 1) (lNode t0 / 2)
    vecDecl s core (lRed t0) = some (j, d) →
    (∀ n, u.scalar a.ss.toNat = t0 → a.fn.toNat ≤ 3 → lHeight t0 = 0 → lNode t0 < 2 ^ 33 → lNode t0 % 512 = 0 → n ≤ 512 →
      m = BitVec.ofNat 512 (2 ^ n - 1) → (n = 512 ∨ (lNode t0 / 512 + 1 = d.chunks ∧ lNode t0 + n = d.length)) →
      Runs (.vred core a) s fun t => VecWrote s t core a.vd.toNat (some (lTag (lRed t0) 9 (lNode t0 / 512)))
        ∧ (vecOf t core).reg a.vd.toNat = List.replicate 512 (treeReduce (treeOpOf a.fn.toNat) (va.take n)))
    ∧ (∀ t1, u.tagOf a.va.toNat = some t0 → u.tagOf a.vb.toNat = some t1 → a.fn.toNat ≤ 3 → lRed t1 = lRed t0 →
      lHeight t1 = lHeight t0 → lNode t0 % 2 = 0 → lNode t1 = lNode t0 + 1 →
      Runs (.vcomb core a) s fun t => VecWrote s t core a.vd.toNat (some up)
        ∧ (vecOf t core).reg a.vd.toNat = underMask u a (va.zipWith (treeOpOf a.fn.toNat).apply vb))
    ∧ (u.tagOf a.va.toNat = some t0 → lNode t0 % 2 = 0 → d.length ≤ (lNode t0 + 1) * 2 ^ lHeight t0 → lHeight t0 < 33 →
      Runs (.vpass core a) s fun t => VecWrote s t core a.vd.toNat (some up)
        ∧ (vecOf t core).reg a.vd.toNat = underMask u a (if d.integer then va else va.map (treeOpOf d.op).pass))
    ∧ (u.scalar a.ss.toNat = t0 → lHeight t0 ≤ 33 → lNode t0 < 2 ^ (33 - lHeight t0) → Runs (.vtag core a) s fun t =>
        VecWrote s t core a.vd.toNat (some t0) ∧ (vecOf t core).reg a.vd.toNat = u.reg a.vd.toNat))
  ∧ (∀ (core : Nat) (a : VArgs) (s : State) (q : Nat) (Q : Queue) (c : Cmd),
    (vecOf s core).owner = some (q, c.uid) → vecOwner s core = some (q, Q, c) →
    let u := vecOf s core
    let t0 := u.scalar a.ss.toNat
    let fails (i : Instr) (st : Status) : Prop := Runs i s fun t => Failed t q c.uid st
    (3 < a.fn.toNat → fails (.vred core a) 0x0E01 ∧ fails (.vcomb core a) 0x0E01)
    ∧ (a.fn.toNat ≤ 3 → lHeight t0 ≠ 0 → fails (.vred core a) 0x0E24)
    ∧ (a.fn.toNat ≤ 3 → lHeight t0 = 0 → 2 ^ 33 ≤ lNode t0 → fails (.vred core a) 0x0E28)
    ∧ (a.fn.toNat ≤ 3 → lHeight t0 = 0 → lNode t0 < 2 ^ 33 → vecDecl s core (lRed t0) = none → fails (.vred core a) 0x0E23)
    ∧ (∀ p, a.fn.toNat ≤ 3 → lHeight t0 = 0 → lNode t0 < 2 ^ 33 → vecDecl s core (lRed t0) = some p → lNode t0 % 512 ≠ 0 →
      fails (.vred core a) 0x0E24)
    ∧ (∀ p, a.fn.toNat ≤ 3 → lHeight t0 = 0 → lNode t0 < 2 ^ 33 → vecDecl s core (lRed t0) = some p → lNode t0 % 512 = 0 →
      (∀ n, n ≤ 512 → u.maskOf a.mask.toNat = BitVec.ofNat 512 (2 ^ n - 1) →
        n ≠ 512 ∧ ¬(lNode t0 / 512 + 1 = p.2.chunks ∧ lNode t0 + n = p.2.length)) → fails (.vred core a) 0x0E24)
    ∧ (a.fn.toNat ≤ 3 → u.tagOf a.va.toNat = none ∨ u.tagOf a.vb.toNat = none → fails (.vcomb core a) 0x0E24)
    ∧ (∀ t1 t2, u.tagOf a.va.toNat = some t1 → u.tagOf a.vb.toNat = some t2 → a.fn.toNat ≤ 3 →
      (lRed t1 ≠ lRed t2 ∨ lHeight t1 ≠ lHeight t2 ∨ lNode t1 % 2 = 1 ∨ lNode t2 ≠ lNode t1 + 1) → fails (.vcomb core a) 0x0E24)
    ∧ (u.tagOf a.va.toNat = none → fails (.vpass core a) 0x0E27)
    ∧ (∀ t1, u.tagOf a.va.toNat = some t1 → vecDecl s core (lRed t1) = none → fails (.vpass core a) 0x0E23)
    ∧ (∀ t1 p, u.tagOf a.va.toNat = some t1 → vecDecl s core (lRed t1) = some p →
      (lNode t1 % 2 = 1 ∨ (lNode t1 + 1) * 2 ^ lHeight t1 < p.2.length) → fails (.vpass core a) 0x0E27)
    ∧ ((33 < lHeight t0 ∨ 2 ^ (33 - lHeight t0) ≤ lNode t0) → fails (.vtag core a) 0x0E28)
    ∧ (lHeight t0 ≤ 33 → lNode t0 < 2 ^ (33 - lHeight t0) → vecDecl s core (lRed t0) = none → fails (.vtag core a) 0x0E23))
  ∧ (∀ (core : Nat) (a : VArgs) (s : State) (q : Nat) (Q : Queue) (c : Cmd) (j : Nat) (J : Job),
    (vecOf s core).owner = some (q, c.uid) → vecOwner s core = some (q, Q, c) → Q.job = some j → jobAt s j = some J →
    let u := vecOf s core
    let e := (u.scalar a.ss.toNat).toNat
    let key := (u.scalar (a.ss.toNat + 1)).toNat
    (a.ss.toNat < 15 → e % 4 = 0 → e ≤ 2 ^ 48 - 512 → Runs (.vrng core a) s fun t => VecWrote s t core a.vd.toNat none
      ∧ ∃ new : List W32, new.length = 512 ∧ (vecOf t core).reg a.vd.toNat = underMask u a new
        ∧ ∀ L, L < 512 → new.getD L 0
          = (philox J.seed ((e + L) / 4) (bits key 63 48) (bits key 31 0) J.batch).getD ((e + L) % 4) 0)
    ∧ (a.ss.toNat < 15 → (e % 4 ≠ 0 ∨ 2 ^ 48 - 512 < e) → Runs (.vrng core a) s fun t => Failed t q c.uid 0x0E26)
    ∧ (a.ss.toNat = 15 → Runs (.vrng core a) s fun t => Failed t q c.uid 0x0E01))

/-! ## Update unit -/

/-- ADD to MOV of the update unit: every lane of DST from its sources, registers or constants; no other register and no
constant changes. EST computes rne(rne(a × b) / c), and +0.0 where c is +0.0 (R30).
RED feeds the live lanes of its source into the S tree on the row run, lane l as element GROUP + l; on the column run and
in an element program it has no effect (R91). -/
def Obligations.UpdateUnitInstructions : Prop :=
  (∀ (core : Nat) (a : UArgs) (s : State),
    let u := (coreAt s core).upd
    let x := u.src a.sa.toNat
    let y := u.src a.sb.toNat
    let z := u.src a.sc.toNat
    let three (f : W32 → W32 → W32 → W32) : List W32 := (x.zip (y.zip z)).map fun p => f p.1 p.2.1 p.2.2
    ∀ op ∈ [(Instr.uadd, x.zipWith Fp.add y), (Instr.usub, x.zipWith Fp.sub y), (Instr.umul, x.zipWith Fp.mul y),
        (Instr.ufma, three Fp.fma), (Instr.udiv, x.zipWith Fp.div y), (Instr.usqrt, x.map Fp.sqrt), (Instr.ursqrt, x.map Fp.rsqrt),
        (Instr.umax, x.zipWith Fp.max y), (Instr.umin, x.zipWith Fp.min y), (Instr.uabs, x.map Fp.abs),
        (Instr.usel, three fun p r c => if Fp.lt 0 c then p else r),
        (Instr.uest, three fun p r c => if c = 0 then 0 else Fp.div (Fp.mul p r) c), (Instr.umov, x)],
      Runs (op.1 core a) s fun t => UpdWrote s t core a.dst.toNat ∧ (coreAt t core).upd.reg a.dst.toNat = op.2)
  ∧ (∀ (core : Nat) (a : UArgs) (s : State),
    let u := (coreAt s core).upd
    (u.rowRun = false → Runs (.ured core a) s fun t => OnlyCore s t core ∧ coreAt t core = coreAt s core)
    ∧ (u.rowRun = true → Runs (.ured core a) s fun t => OnlyCore s t core
      ∧ coreAt t core = { coreAt s core with upd := { u with fed := (coreAt t core).upd.fed } }
      ∧ ∀ e, FMap.get? (coreAt t core).upd.fed e
          = if u.group ≤ e ∧ e < u.group + min u.live (u.src a.sa.toNat).length then (u.src a.sa.toNat)[e - u.group]?
            else FMap.get? u.fed e))

/-! ## Tagged reductions -/

/-- A partial that keeps the rules is held until its sibling comes; the pair is combined with the left node first. So the
two chunks of a two-chunk reduction give the same root whichever of them arrives first (R45).
A partial whose level is above 24 or whose reserved field is not 0 is rejected with 0x0E21: the job's flag word takes one
report, the command that sent it fails, and the result is the canonical NaN, or −2⁶³ in integer mode, in every lane
(R46).
ROOT_DELIVERY hands the root to every receiver, and VRECV then writes it, lanes beyond its width +0.0 (R83, R469); before the
delivery VRECV holds, and an undeclared reduction fails its command with 0x0E23. VSEND of a partial of height 9 or more
reaches the engine as a partial of LEVEL HEIGHT − 9, and its cluster's engine records the lane count; a width outside 1 to 512
fails with 0x0E01, a partial below height 9 or an untagged register with 0x0E25. -/
def Obligations.TaggedReductions : Prop :=
  (∀ (s : State) (j : Nat) (J : Job) (d : RedDecl) (engine red : Nat) (x y : List W64) (sender : Option Nat),
    jobAt s j = some J → redJob s sender red = some j → redDecl J red = some d → onRoute J d engine = true → red < 2 ^ 24 →
    d.chunks = 2 → x.length = y.length → 1 ≤ x.length → x.length ≤ 512 → FMap.get? s.reds (redKey j red) = none →
    let left := BitVec.ofNat 64 (red * 2 ^ 40)
    let right := BitVec.ofNat 64 (red * 2 ^ 40 + 1)
    let root := some ((x.zipWith d.lane y).map d.pass)
    (Runs (.partialArrival engine left x sender) s fun s1 => (FMap.getD s1.reds (redKey j red) {}).root = none
      ∧ Runs (.partialArrival engine right y sender) s1 fun t => (FMap.getD t.reds (redKey j red) {}).root = root)
    ∧ (Runs (.partialArrival engine right y sender) s fun s1 => (FMap.getD s1.reds (redKey j red) {}).root = none
      ∧ Runs (.partialArrival engine left x sender) s1 fun t => (FMap.getD t.reds (redKey j red) {}).root = root))
  ∧ (∀ (s : State) (j : Nat) (J : Job) (d : RedDecl) (engine red q : Nat) (Q : Queue) (c : Cmd) (tag : W64) (x : List W64),
    jobAt s j = some J → queueAt s q = some Q → Q.job = some j → redDecl J red = some d → onRoute J d engine = true →
    bits tag.toNat 63 40 = red → (24 < bits tag.toNat 39 32 ∨ bits tag.toNat 31 24 ≠ 0) →
    FMap.get? s.reds (redKey j red) = none → runningCmd Q (fun c => c.op = 2) = some c → J.nf < 2 ^ 64 - 1 →
    Runs (.partialArrival engine tag x (some q)) s fun t => Failed t q c.uid 0x0E21
      ∧ ((jobAt t j).map Job.nf = some (J.nf + 1))
      ∧ (FMap.getD t.reds (redKey j red) {}).root
        = some (List.replicate x.length (if d.integer then 0x8000000000000000 else 0x7FC00000)))
  ∧ (∀ (s : State) (j : Nat) (J : Job) (d : RedDecl) (engine red : Nat) (R : Reduction),
    (s.jobs.find? fun e => ((redDecl e.2 red).any fun d => onRoute e.2 d engine)
        && ((FMap.get? s.reds (redKey e.1 red)).any fun r => r.root.isSome && !r.delivered)) = some (j, J) →
    redDecl J red = some d → FMap.get? s.reds (redKey j red) = some R →
    Runs (.rootDelivery engine red) s fun t => t = { s with reds := t.reds }
      ∧ FMap.get? t.reds (redKey j red) = some { R with delivered := true }
      ∧ ∀ k, k ≠ redKey j red → FMap.get? t.reds k = FMap.get? s.reds k)
  ∧ (∀ (core : Nat) (a : VArgs) (s : State) (j : Nat) (d : RedDecl),
    let red := bits a.imm.toNat 23 0
    vecDecl s core red = some (j, d) →
    (rootOf s j red = none → Runs (.vrecv core a) s fun t => t = s)
    ∧ (∀ lanes : List W64, rootOf s j red = some lanes → lanes.length ≤ 512 →
      Runs (.vrecv core a) s fun t => VecWrote { s with fresh := t.fresh } t core a.vd.toNat none
        ∧ ∃ vals : List W32, vals.length = lanes.length ∧ (d.integer = false → vals = lanes.map (fun x => x.setWidth 32) ∧ t.fresh = s.fresh)
          ∧ (vecOf t core).reg a.vd.toNat = underMask (vecOf s core) a (vals ++ List.replicate (512 - lanes.length) 0)))
  ∧ (∀ (core : Nat) (a : VArgs) (s : State) (q : Nat) (Q : Queue) (c : Cmd) (j : Nat) (J : Job) (d : RedDecl) (red h n w : Nat),
    vecOwner s core = some (q, Q, c) → Q.job = some j → jobAt s j = some J → redDecl J red = some d → d.integer = false →
    onRoute J d (core / 4) = true → red < 2 ^ 24 → n < 2 ^ 24 → 9 ≤ h → h ≤ 33 → w = bits a.imm.toNat 9 0 → 1 ≤ w → w ≤ 512 →
    (vecOf s core).tagOf a.va.toNat = some (lTag red h n) →
    n * 2 ^ (h - 9) < d.chunks → FMap.get? s.reds (redKey j red) = none →
    let sent := ((vecOf s core).reg a.va.toNat).take w
    1 ≤ sent.length →
    Runs (.vsend core a) s fun t => VecKept { s with queues := t.queues, reds := t.reds } t core
      ∧ (FMap.getD t.reds (redKey j red) {}).arrived = [(h - 9, n)]
      ∧ FMap.get? (FMap.getD t.reds (redKey j red) {}).counts (core / 4) = some sent.length)
  ∧ (∀ (core : Nat) (a : VArgs) (s : State) (q : Nat) (Q : Queue) (c : Cmd),
    (vecOf s core).owner = some (q, c.uid) → vecOwner s core = some (q, Q, c) →
    let w := bits a.imm.toNat 9 0
    let tag := (vecOf s core).tagOf a.va.toNat
    let fails (i : Instr) (st : Status) : Prop := Runs i s fun t => Failed t q c.uid st
    ((w = 0 ∨ 512 < w) → fails (.vsend core a) 0x0E01)
    ∧ (1 ≤ w → w ≤ 512 → (tag = none ∨ ∃ t0, tag = some t0 ∧ lHeight t0 < 9) → fails (.vsend core a) 0x0E25)
    ∧ (∀ t0, 1 ≤ w → w ≤ 512 → tag = some t0 → 9 ≤ lHeight t0 → vecDecl s core (lRed t0) = none → fails (.vsend core a) 0x0E23)
    ∧ (vecDecl s core (bits a.imm.toNat 23 0) = none → fails (.vrecv core a) 0x0E23))

/-! ## Synchronization -/

/-- A counter add, an event set and an event clear on an object of this module: the object takes its new value in the present
beat, its waiters are examined in their order, and the command commits in the same step; with no waiter nothing else
changes (R270 to R272). An add past 2⁶⁴ − 1 fails with 0x0504 and changes no object. Inside an open commit window each
finishes, and its change waits for COMMIT (R277).
A waiter examined: a counter wait commits where the counter has reached its VALUE; an event wait where the event is set, and
clears it where its VALUE[0] is 1; a lock acquire takes a free lock; where its condition does not hold it waits on (R270).
A stream's signal that names an object of another module goes on the trunk and finishes; it commits once it has had the 160
beats of each hop to its target (R276, R280). A signal from another module changes the object behind its index in the job's
SYNC list, as a local one would. -/
def Obligations.SyncSignals : Prop :=
  (∀ (s : State) (q obj op : Nat) (Q : Queue) (c : Cmd) (o : SyncObj),
    syncCmd s q op = some (Q, c) → remoteJob s Q c = none → syncTarget s Q c = some obj → syncAt s obj = some o →
    (inWindow Q c = true → ∀ i ∈ [(Instr.syncCounterAdd q, 1), (Instr.syncEventSet q, 3), (Instr.syncEventClear q, 4)], op = i.2 →
      Runs i.1 s fun t => t = { s with cores := t.cores, queues := t.queues } ∧ Finished t q c.uid 0
        ∧ ∀ p, p ≠ q → queueAt t p = queueAt s p)
    ∧ (inWindow Q c = false →
      let took (v : Nat) (t : State) : Prop :=
        let o' := { o with value := v, changed := s.now }
        t = commitOne (o.waiters.foldl (reexamineOne obj) (putSync s obj o')) q c 0 ∧ Gone t q c.uid
          ∧ (o.waiters = [] → Committed Q t q c ∧ syncAt t obj = some o' ∧ SyncFrame s t q obj)
      (op = 1 → o.value + yValue c.bytes < 2 ^ 64 → Runs (.syncCounterAdd q) s (took (o.value + yValue c.bytes)))
      ∧ (op = 1 → 2 ^ 64 ≤ o.value + yValue c.bytes → Runs (.syncCounterAdd q) s fun t => Failed t q c.uid 0x0504
          ∧ t.sync = (withdraw s q c.uid).sync)
      ∧ (op = 3 → Runs (.syncEventSet q) s (took 1))
      ∧ (op = 4 → Runs (.syncEventClear q) s (took 0))))
  ∧ (∀ (s : State) (obj : Nat) (w : Waiter) (o : SyncObj) (Q : Queue) (d : Cmd),
    syncAt s obj = some o → queueAt s w.queue = some Q → cmdAt Q w.cmd = some d →
    let t := reexamineOne obj s w
    let served (o' : SyncObj) : Prop := Committed Q t w.queue d
      ∧ syncAt t obj = some { o' with waiters := o.waiters.filter fun x => !(x.queue = w.queue && x.cmd = w.cmd) }
    (yOp d.bytes = 2 → (yValue d.bytes ≤ o.value → served o) ∧ (o.value < yValue d.bytes → t = s))
    ∧ (yOp d.bytes = 5 → (o.value = 1 → served (if bit (yValue d.bytes) 0 then { o with value := 0, changed := s.now } else o))
        ∧ (o.value ≠ 1 → t = s))
    ∧ (yOp d.bytes = 6 → (o.held = false → served { o with held := true, ownerQ := w.queue, ownerGen := Q.gen, abandoned := false, changed := s.now })
        ∧ (o.held = true → t = s)))
  ∧ (∀ (s : State) (q op : Nat) (Q : Queue) (c : Cmd) (J : Job), syncCmd s q op = some (Q, c) → remoteJob s Q c = some J →
    inWindow Q c = false → ∀ i ∈ [(Instr.syncCounterAdd q, 1), (Instr.syncEventSet q, 3), (Instr.syncEventClear q, 4)], op = i.2 →
    Runs i.1 s fun t => t.sync = s.sync ∧ t.win.signals = s.win.signals ++ [(yModule c.bytes, yObj c.bytes, op, yValue c.bytes)]
      ∧ ∃ Q' c', queueAt t q = some Q' ∧ cmdAt Q' c.uid = some c' ∧ c'.state = .finished 0
        ∧ c'.heldTo = s.now + 160 * torusHops s (moduleId s) (jobModule s J (yModule c.bytes)))
  ∧ (∀ (s : State) (job index v : Nat),
    (((jobAt s job).bind fun J => J.syncs[index]?) = none → ∀ g, Runs (.remoteSyncSignal job index g) s fun t => t = s)
    ∧ ∀ (J : Job) (obj : Nat) (o : SyncObj), jobAt s job = some J → J.syncs[index]? = some obj → syncAt s obj = some o →
      let took (v : Nat) (t : State) : Prop :=
        let o' := { o with value := v, changed := s.now }
        t = o.waiters.foldl (reexamineOne obj) (putSync s obj o')
          ∧ (o.waiters = [] → t = { s with sync := t.sync } ∧ syncAt t obj = some o' ∧ ∀ k, k ≠ obj → syncAt t k = syncAt s k)
      (o.value + v < 2 ^ 64 → Runs (.remoteSyncSignal job index (.add v)) s (took (o.value + v)))
      ∧ Runs (.remoteSyncSignal job index .set) s (took 1)
      ∧ Runs (.remoteSyncSignal job index .clear) s (took 0))

/-- A counter wait whose counter has reached VALUE commits and changes no object; an event wait on a set event commits and
clears it where VALUE[0] is 1. Where the condition does not hold the command waits at the object, behind those that
came before it, in one beat by queue number (R270 to R272).
A free lock goes to the queue that acquires it, with its generation; a held one makes the command wait; an acquire by the
holder fails with 0x0506. A release by the holder frees the lock, and its waiters are examined; inside an open commit window
it finishes, and the lock is freed by COMMIT (R277). Any other release fails with 0x0505 and counts as an offence (R273). -/
def Obligations.SyncWaitsAndLocks : Prop :=
  ∀ (s : State) (q obj op : Nat) (Q : Queue) (c : Cmd) (o : SyncObj),
    syncCmd s q op = some (Q, c) → syncTarget s Q c = some obj → syncAt s obj = some o →
    let waits (t : State) : Prop := t = { s with sync := t.sync, queues := t.queues } ∧ SyncFrame s t q obj
      ∧ syncAt t obj = some { o with waiters := insertWaiter ⟨q, c.uid, s.now⟩ o.waiters }
      ∧ ∃ Q' c', queueAt t q = some Q' ∧ cmdAt Q' c.uid = some c' ∧ c'.waiting = true ∧ c'.waitSince = s.now
    let holder : Prop := o.held = true ∧ o.ownerQ = q ∧ o.ownerGen = Q.gen
    ((op = 2 → yValue c.bytes ≤ o.value → Runs (.syncCounterWait q) s fun t =>
      Committed Q t q c ∧ syncAt t obj = some o ∧ SyncFrame s t q obj)
    ∧ (op = 2 → o.value < yValue c.bytes → Runs (.syncCounterWait q) s waits)
    ∧ (op = 5 → o.value = 1 → Runs (.syncEventWait q) s fun t => Committed Q t q c ∧ SyncFrame s t q obj
      ∧ syncAt t obj = some (if bit (yValue c.bytes) 0 then { o with value := 0, changed := s.now } else o))
    ∧ (op = 5 → o.value ≠ 1 → Runs (.syncEventWait q) s waits))
    ∧ (op = 6 → o.held = false → Runs (.syncLockAcquire q) s fun t => Committed Q t q c ∧ SyncFrame s t q obj
      ∧ syncAt t obj = some { o with held := true, ownerQ := q, ownerGen := Q.gen, abandoned := false, changed := s.now })
    ∧ (op = 6 → o.held = true → ¬holder → Runs (.syncLockAcquire q) s waits)
    ∧ (op = 6 → holder → Runs (.syncLockAcquire q) s fun t => Failed t q c.uid 0x0506)
    ∧ (op = 7 → holder → inWindow Q c = false → Runs (.syncLockRelease q) s fun t =>
        let o' := { o with held := false, ownerQ := 0, ownerGen := 0, changed := s.now }
        t = commitOne (o.waiters.foldl (reexamineOne obj) (putSync s obj o')) q c 0 ∧ Gone t q c.uid
          ∧ (o.waiters = [] → Committed Q t q c ∧ syncAt t obj = some o' ∧ SyncFrame s t q obj))
    ∧ (op = 7 → holder → inWindow Q c = true → Runs (.syncLockRelease q) s fun t =>
        t = { s with cores := t.cores, queues := t.queues } ∧ Finished t q c.uid 0 ∧ ∀ p, p ≠ q → queueAt t p = queueAt s p)
    ∧ (op = 7 → ¬holder → Runs (.syncLockRelease q) s fun t =>
        Failed t q c.uid 0x0505 ∧ (queueAt t q).map Queue.offences = some ((s.now :: Q.offences).take 16))

/-- An arrival at a barrier raises the count and waits until the last party's, which releases the phase of a barrier of one
module: the phase number rises by one, the count returns to 0, and the arrivals commit (R275).
With the last local arrival at a job-wide barrier of several modules, a module that is not the root (module 0, log entry 17)
sends its token to the root, once in a phase, and waits, or releases the phase where the release token has come; the root
releases it once every other module's token has come, and sends them the release tokens (R280). A release token that comes
while a withdrawn arrival has opened the local count again is kept for it (R278, log entry 131).
A token is counted once for each module. -/
def Obligations.SyncBarriers : Prop :=
  let renewed (s : State) (o : SyncObj) : SyncObj :=
    { o with value := o.value + 1, arrived := 0, changed := s.now, waiters := [], localDone := false, tokens := [], told := false, released := false }
  let released (s t : State) (obj : Nat) (o : SyncObj) : Prop := syncAt t obj = some (renewed s o)
    ∧ (∀ k, k ≠ obj → syncAt t k = syncAt s k) ∧ ∀ w ∈ o.waiters, (queueAt s w.queue).isSome = true → Gone t w.queue w.cmd
  let tell (J : Job) (obj : Nat) : List (Nat × Nat × Nat × Nat) :=
    (List.range (J.modules - 1)).map fun m => (m + 1, J.syncs.idxOf obj, 0x11, 0)
  (∀ (s : State) (q obj : Nat) (Q : Queue) (c : Cmd) (o₀ : SyncObj),
    syncCmd s q 8 = some (Q, c) → syncTarget s Q c = some obj → syncAt s obj = some o₀ →
    let o := { o₀ with arrived := o₀.arrived + 1, waiters := insertWaiter ⟨q, c.uid, s.now⟩ o₀.waiters }
    let waits (t : State) (v : SyncObj) : Prop := SyncFrame s t q obj ∧ syncAt t obj = some v
      ∧ ∃ Q' c', queueAt t q = some Q' ∧ cmdAt Q' c.uid = some c' ∧ c'.waiting = true ∧ c'.waitSince = s.now
    (o.arrived ≠ o.parties → Runs (.syncBarrierArrive q) s fun t => t = { s with sync := t.sync, queues := t.queues } ∧ waits t o)
    ∧ (o.arrived = o.parties → (o.jobWide = false ∨ ∀ J, jobAt s o.job = some J → J.modules = 1) →
        Runs (.syncBarrierArrive q) s fun t => released s t obj o ∧ Gone t q c.uid)
    ∧ ∀ J, o.arrived = o.parties → o.jobWide = true → jobAt s o.job = some J → J.modules ≠ 1 →
      let done := { o with localDone := true, told := true }
      (J.moduleIdx = 0 → o.tokens.length + 1 < J.modules → Runs (.syncBarrierArrive q) s fun t => waits t done)
      ∧ (J.moduleIdx = 0 → J.modules ≤ o.tokens.length + 1 → Runs (.syncBarrierArrive q) s fun t =>
          released s t obj o ∧ Gone t q c.uid ∧ t.win.signals = s.win.signals ++ tell J obj)
      ∧ (J.moduleIdx ≠ 0 → o.released = true → Runs (.syncBarrierArrive q) s fun t => released s t obj o ∧ Gone t q c.uid)
      ∧ (J.moduleIdx ≠ 0 → o.released = false → Runs (.syncBarrierArrive q) s fun t => waits t done
          ∧ t.win.signals = s.win.signals ++ if o.told then [] else [(0, J.syncs.idxOf obj, 0x10, J.moduleIdx)]))
  ∧ ∀ (s : State) (obj m : Nat) (o : SyncObj), syncAt s obj = some o → o.type = 4 → o.jobWide = true →
    let kept (t : State) (v : SyncObj) : Prop :=
      t = { s with sync := t.sync, win := { s.win with trunks := t.win.trunks } } ∧ syncAt t obj = some v
        ∧ ∀ k, k ≠ obj → syncAt t k = syncAt s k
    let next := { o with tokens := o.tokens ++ [m] }
    let complete : Prop := o.localDone = true ∧ ∃ J, jobAt s o.job = some J ∧ J.modules ≤ o.tokens.length + 2
    (m ∈ o.tokens → Runs (.barrierTokenArrival obj (.arrival m)) s fun t => kept t o)
    ∧ (m ∉ o.tokens → ¬complete → Runs (.barrierTokenArrival obj (.arrival m)) s fun t => kept t next)
    ∧ (m ∉ o.tokens → complete → Runs (.barrierTokenArrival obj (.arrival m)) s fun t => released s t obj o
        ∧ ∀ J, jobAt s o.job = some J → t.win.signals = s.win.signals ++ tell J obj)
    ∧ (o.localDone = true → Runs (.barrierTokenArrival obj .release) s fun t => released s t obj o)
    ∧ (o.localDone = false → o.told = true → Runs (.barrierTokenArrival obj .release) s fun t => kept t { o with released := true })
    ∧ (o.localDone = false → o.told = false → Runs (.barrierTokenArrival obj .release) s fun t => kept t o)

/-- Launch at count with the counter locked and the job in one host domain: in the beat VALUE it commits; before it, at most
2³⁶ beats away, it waits, and the beat's arrival commits it; further away it fails with 0x0301; past it, with 0x0508 and one
late launch counted; with the counter not locked, or a job of several host domains, with 0x0509 (R283).
A wait past its bound with no queue waiting for another counts one overrun. In a cycle the youngest wait is killed, and
its command stands to be run again, marked; a marked one fails with 0x0503 (R285). While a droop throttle has stopped an ARRAY
that the kill strikes, the kill waits for its end (R73). -/
def Obligations.LaunchesAndWaitBounds : Prop :=
  ((∀ (s : State) (q : Nat) (Q : Queue) (c : Cmd), syncCmd s q 9 = some (Q, c) →
    let v := yValue c.bytes
    let may : Prop := dnum s 0x6F00 2 = 1 ∧ ∀ J, Q.job.bind (jobAt s) = some J → oneDomain s J = true
    (may → v = s.now → Runs (.syncLaunchAtCount q) s fun t => Committed Q t q c)
    ∧ (may → s.now < v → v ≤ s.now + 2 ^ 36 → Runs (.syncLaunchAtCount q) s fun t =>
        t = { s with queues := t.queues } ∧ ∃ Q' c', queueAt t q = some Q' ∧ cmdAt Q' c.uid = some c' ∧ c'.waiting = true)
    ∧ (may → s.now + 2 ^ 36 < v → Runs (.syncLaunchAtCount q) s fun t => Failed t q c.uid 0x0301)
    ∧ (may → v < s.now → Runs (.syncLaunchAtCount q) s fun t => Failed t q c.uid 0x0508
        ∧ t = fail (bump s 0x6F00 10 1) q c.uid 0x0508)
    ∧ (¬may → Runs (.syncLaunchAtCount q) s fun t => Failed t q c.uid 0x0509))
  ∧ ∀ (s : State) (q : Nat) (Q : Queue) (c : Cmd), queueAt s q = some Q →
    (Q.cmds.find? fun c => c.op = 5 && yOp c.bytes = 9 && c.waiting) = some c →
    Runs (.launchBeatReached q) s fun t => Committed Q t q c ∧ t.now = max s.now (yValue c.bytes))
  ∧ (∀ (s : State) (q : Nat) (Q : Queue) (c : Cmd) (rest : List Cmd),
    queueAt s q = some Q → Q.cmds = c :: rest → (c.waiting = true ∨ c.objectWait = true) →
    ((∀ p, waitEdges s p = []) → Runs (.syncWaitBoundExpiry q) s fun t => Counted s t 0x6F00 5 1 ∧ Counted s t 0x6F00 8 1
        ∧ t = { s with now := max s.now (c.waitSince + waitBound s c), dict := t.dict })
    ∧ let u := bump { s with now := max s.now (c.waitSince + waitBound s c) } 0x6F00 5 1
      ∀ (y : Nat) (Y : Queue) (d : Cmd) (more : List Cmd), youngest s (cycleQueues s q Q.part) = some y → queueAt s y = some Y →
      Y.cmds = d :: more →
      (d.backstopped = true → Runs (.syncWaitBoundExpiry q) s fun t => Failed t y d.uid 0x0503
          ∧ t = fail (bump u 0x6F00 7 1) y d.uid 0x0503)
      ∧ (d.backstopped = false → throttledKill u Y = true → Runs (.syncWaitBoundExpiry q) s fun t =>
          ∃ Y' d', queueAt t y = some Y' ∧ cmdAt Y' d.uid = some d' ∧ d'.backstopped = true ∧ d'.state = d.state ∧ Y'.heldKill.isSome = true)
      ∧ (d.backstopped = false → throttledKill u Y = false →
        (∀ e ∈ Y.cmds, e.uid = d.uid → e.kills < 3 ∧ e.heldTo = 0 ∧ (e.state = .started ∨ e.state = .fetched ∧ e.objectWait = true)) →
        Runs (.syncWaitBoundExpiry q) s fun t =>
          t = updCmd (strikeQueue (bump u 0x6F00 6 1) y .uncounted) y d.uid (fun d => { d with backstopped := true })
          ∧ ∃ Y' d', queueAt t y = some Y' ∧ cmdAt Y' d.uid = some d'
          ∧ d'.state = .fetched ∧ d'.backstopped = true ∧ d'.waiting = false ∧ d'.staged = []))

/-- COMMIT with no open window, or behind a window that an earlier COMMIT has ended, commits at once as the oldest command.
With one, once every command of the window has finished without a failure, they leave the queue together and the window
closes. Where a signal of the window fails behind the window's earlier ones, its command fails with the status that it
answers, and none of them commits (R128, R277). A quarantine by an earlier command's offence holds COMMIT back (R104). -/
def Obligations.CommitWindow : Prop :=
  ∀ (s : State) (q : Nat) (Q : Queue) (k : Cmd), queueAt s q = some Q →
    (Q.cmds.find? fun c => c.op = 6 && c.state = .started) = some k → mayCommit Q k = true →
    let before := Q.cmds.takeWhile fun c => c.uid ≠ k.uid
    ((∀ first, Q.window = some first → k.uid < first) → before = [] → Runs (.commit q) s fun t => Committed Q t q k)
    ∧ ∀ first, Q.window = some first → first ≤ k.uid → (before.all fun c => first ≤ c.uid && c.done && !c.failed && c.acked) = true →
      (windowFault s q Q s.sync before = none →
        Runs (.commit q) s fun t => Gone t q k.uid ∧ (∀ c ∈ before, Gone t q c.uid) ∧ (queueAt t q).map Queue.window = some Q.laterWindows.head?)
      ∧ ∀ c st, windowFault s q Q s.sync before = some (c, st) → Runs (.commit q) s fun t => Failed t q c.uid st ∧ t.sync = (withdraw s q c.uid).sync

/-! ## Engines -/

/-- ARRAY whose operands have been delivered and whose cluster's clock runs. With a planned merge wait ahead it holds at the
plan's first column whose reed term is not queued, and changes nothing else (R68). With none: where a running sum leaves the
48-bit register it fails with 0x0F02, its columns up to there counted (R65); else it finishes with 0x0000, or 0x0F01 where a
weight scale lies outside R28. Each live token of a final reduction's feature is staged as the code of its value under
OUT_RING, or as its FP32 word, each other slot as 0; the counter of issued columns rises (Table 3.7). A grouped reduction of
more than 256 groups first sends its level-8 nodes, fails where an engine rejects one, and waits until every root is
delivered (R49).
A value of ARRAY (R35): with K = 0, +0.0, else without groups and reed rne of the exact integer sum, carried sum included,
times the product of the input and weight scales, or the canonical NaN for a weight scale outside R28; then the bias. -/
def Obligations.ArrayCompletes : Prop :=
  (∀ (s : State) (q job : Nat) (Q : Queue) (c : Cmd) (J : Job), arrayCmd s q = some (Q, c, job, J) →
    poisonMet s Q c = none → (coreAt s c.core).mergeOwner ≠ some (q, c.uid) →
    let r := c.bytes
    let a := (arrayIn s Q c job J).1
    let ring := ringRecip J (rRing r 43)
    let many : Prop := aGrouped r = true ∧ 256 < aRed r
    let done (root : Nat → Nat → W32) (t : State) : Prop := Finished t q c.uid (if scalesOk a then 0 else 0x0F01)
      ∧ t = { s with cores := t.cores, queues := t.queues, dict := t.dict, fresh := t.fresh, tel := t.tel, hostOut := t.hostOut }
      ∧ (c.core < 32 → Counted s t (0x6300 + c.core) 1 (if aZeroK r then 0 else aPasses r * aCols r))
      ∧ ∀ d f n, d < aReds r → aFinal r d = true → f < aFeat r d → n < 512 →
          ∃ Q' c' w, queueAt t q = some Q' ∧ cmdAt Q' c.uid = some c' ∧ w ∈ c'.staged
            ∧ w.buf = hVer Q.part (rH r 24) ∧ w.off = featBytes r * (aBase r d + f)
            ∧ (aFp32 r = false → w.data[n]? = some (if tokenLive r n then
                BitVec.ofInt 8 (requantize (outputValue a root d f n) ring).code else 0))
            ∧ (aFp32 r = true → (w.data.drop (4 * n)).take 4 = if tokenLive r n then toLe 4 (outputValue a root d f n).toNat else zeros 4)
    (∀ h l, mergeWaits s c = h :: l → Runs (.array q) s fun t => OnlyCore s t c.core
      ∧ coreAt t c.core = { coreAt s c.core with mergeWait := some h.1, mergePlan := h :: l, mergeOwner := some (q, c.uid) })
    ∧ (mergeWaits s c = [] →
      (∀ i col, overflowAt a = some (i, col) → Runs (.array q) s fun t => Failed t q c.uid 0x0F02
        ∧ t = fail (countIssued s c (issueCycle r c.chained i col + 21)) q c.uid 0x0F02)
      ∧ (overflowAt a = none →
        (¬many → Runs (.array q) s (done fun _ _ => 0))
        ∧ (many → c.sent = false →
          ((sendGroups s c a).2 ≠ 0 → Runs (.array q) s fun t => t = fail (sendGroups s c a).1 q c.uid (sendGroups s c a).2)
          ∧ ((sendGroups s c a).2 = 0 → Runs (.array q) s fun t =>
              t = updCmd (sendGroups s c a).1 q c.uid fun c => { c with sent := true, sentAt := s.now }))
        ∧ (many → c.sent = true → rootsHere s a = true → Runs (.array q) s
            (done fun n t => (((rootOf s job (rH r 28 + n)).getD []).getD t 0).setWidth 32))
        ∧ (many → c.sent = true → rootsHere s a = false → Runs (.array q) s fun t => t = s))))
  ∧ (∀ (a : ArrayIn) (root : Nat → Nat → W32) (d f t : Nat),
    let bias (y : W32) : W32 := if rH a.r 32 = 0 then y else Fp.add y (memFp a.bias (4 * (aBase a.r d + f)))
    let carried : Int := if aCarryIn a.r = true ∧ d = 0 then signed 64 (leNat (a.carry.read ((f * 512 + t) * 8) 8)) else 0
    let scale := weightScale a ((d + 1) * aRed a.r - 1) f
    (aZeroK a.r = true → outputValue a root d f t = bias 0)
    ∧ (aZeroK a.r = false → aGrouped a.r = false → a.views = [] → 1 ≤ aRed a.r →
      outputValue a root d f t = bias (if validScale scale then
          Fp.mul (Fp.ofInt (carried + ((List.range (aRed a.r)).map fun p =>
              ((List.range (aDepth a.r p)).map fun k =>
                memCode a.stat (512 * (512 * p + k) + t) * weight a (d * aRed a.r + p) f k).sum).sum))
            (Fp.mul (ringScale a.J (rRing a.r 40)) scale)
        else Fp.nan)))

/-- A reed term that the array waits for ends the wait: its planned cycles count, and the array holds at the next column of
its plan whose term is not queued, or runs on. Another joins the merge queue while fewer than 64 wait, else the reed engine
holds it back (R68). A stopped clock delivers none (R73).
A mover has at most 32 requests outstanding, and issues those of the earliest deadline first, ties to the lower queue, the
earlier command and the lower offset (R170, R172). A completion takes the first outstanding request in that order; free
places are filled before it and behind it. A request of a MOVE that comes in time leaves its command awaiting one less and
changes nothing else. Once the streams that cycle 0 of an ARRAY needs are in, it begins, and beats past the predecessor's end
count as one stall of the class that came last (R176); of which of causes 3 and 4 is free (log entry 22). -/
def Obligations.MergesAndTiles : Prop :=
  (∀ (s : State) (core column : Nat),
    let k := coreAt s core
    (clockStopped s (core / 4) = true → Runs (.mergeEntryArrival core column) s fun t => t = s)
    ∧ (clockStopped s (core / 4) = false → (k.mergeOwner = none ∨ k.mergeWait ≠ some column) →
      Runs (.mergeEntryArrival core column) s fun t => OnlyCore s t core
        ∧ coreAt t core = if k.mergeQueue.length < 64 then { k with mergeQueue := k.mergeQueue ++ [column] }
            else { k with mergeHeld := k.mergeHeld ++ [column] })
    ∧ ∀ (q uid : Nat) (h : Nat × Nat) (l : List (Nat × Nat)), clockStopped s (core / 4) = false → k.mergeOwner = some (q, uid) →
      k.mergeWait = some column → k.mergePlan = h :: l →
      let rest := l.filter fun x => !k.mergeQueue.contains x.1
      Runs (.mergeEntryArrival core column) s fun t =>
        t = { s with cores := t.cores, queues := t.queues, dict := t.dict } ∧ Counted s t (0x6300 + core) 8 h.2
          ∧ (coreAt t core).mergeWait = rest.head?.map Prod.fst ∧ (coreAt t core).mergePlan = rest
          ∧ (coreAt t core).mergeOwner = (if rest = [] then none else some (q, uid))
          ∧ ∀ Q c, queueAt s q = some Q → cmdAt Q uid = some c → ∃ Q', queueAt t q = some Q'
            ∧ cmdAt Q' uid = some { c with shift := c.shift + beatsOf s core h.2, merged := rest.isEmpty })
  ∧ (∀ (l : List MoverReq) (x : MoverReq), firstReq l = some x → x ∈ l ∧ ∀ y ∈ l, y.before x = false)
  ∧ (∀ (s : State) (core m : Nat), outstanding (coreAt s core) m ≤ 32 → outstanding (coreAt (refill s core m) core) m ≤ 32)
  ∧ (∀ (s : State) (core m : Nat),
    let s1 := refill s core m
    let l := (coreAt s1 core).movers.filter fun x => x.mover = m
    (firstReq l = none → Runs (.tileRequestDone core m) s fun t => t = s1)
    ∧ ∀ x, firstReq l = some x → Runs (.tileRequestDone core m) s fun t =>
        t = refill (delivered (updCore s1 core fun k => { k with movers := k.movers.erase x }) x) core m)
  ∧ (∀ (s : State) (x : MoverReq) (Q : Queue) (c : Cmd), queueAt s x.queue = some Q → cmdAt Q x.cmd = some c → c.op = 4 →
    x.kind = .moveData → s.now ≤ x.deadline →
    let d := { c with awaiting := c.awaiting - 1 }
    (∀ n, reqBound (updCmd s x.queue x.cmd fun c => { c with awaiting := c.awaiting - 1 }) Q d x = some n → s.now ≤ x.issuedAt + n) →
    delivered s x = { s with queues := (delivered s x).queues }
      ∧ ∃ Q', queueAt (delivered s x) x.queue = some Q' ∧ cmdAt Q' x.cmd = some d)
  ∧ ∀ (s : State) (q cls : Nat) (Q : Queue) (c : Cmd), queueAt s q = some Q → cmdAt Q c.uid = some c → c.op = 1 → c.cycle0 = none →
    streamsIn s Q c = true → cls < 256 →
    let due := earliest0 s q c
    let t := begin0 s q Q c cls
    (∃ Q', queueAt t q = some Q' ∧ cmdAt Q' c.uid = some { c with cycle0 := some (max s.now due) })
    ∧ (s.now ≤ due → t = { s with queues := t.queues })
    ∧ (due < s.now → ∃ cause, (cause = 3 ∨ cause = 4) ∧ Counted s t (0x6400 + cls) cause (s.now - due)
        ∧ Counted s t (0x6400 + cls) (0x10 + cause) 1)

/-- VECTOR takes its core's idle unit, cleared, and runs its program from the unit's position, instruction by instruction: one
that is END alone finishes with 0x0000 and leaves the unit idle; one of a single instruction before END ends as that
instruction leaves it. A VRECV whose root is not delivered holds the program there, and its next row resumes it (R79). -/
def Obligations.VectorCommand : Prop :=
  (∀ (s : State) (q : Nat) (Q : Queue) (c : Cmd), queueAt s q = some Q → (runningCmd Q fun c => c.op = 2) = some c →
    cmdAt Q c.uid = some c → (vecOf s c.core).owner = none →
    let s1 := updVec s c.core fun _ => { owner := some (q, c.uid) }
    let word (s : State) (pc : Nat) : Option Nat := (vecOwner s c.core).map fun o => wordH o.2.1 o.2.2 (rH o.2.2.bytes 16) (8 * pc) 8
    vecMet s1 c.core = none →
    (∀ w, word s1 0 = some w → vOp w = 0x3F → Runs (.vector q) s fun t => Finished t q c.uid 0 ∧ vecOf t c.core = {}
      ∧ t = { s with cores := t.cores, queues := t.queues })
    ∧ ∀ w w', word s1 0 = some w → vOp w ≠ 0x3F →
      let s2 := vecIssue (vOp w) c.core (vArgs w) s1
      (vecOf s2 c.core).pc = 1 → vecMet s2 c.core = none → word s2 1 = some w' → vOp w' = 0x3F →
      Runs (.vector q) s fun t => t = vecEnd c.core s2)
  ∧ ∀ (n core : Nat) (s : State) (q : Nat) (Q : Queue) (c : Cmd), vecOwner s core = some (q, Q, c) → vecMet s core = none →
    let w := wordH Q c (rH c.bytes 16) (8 * (vecOf s core).pc) 8
    let s' := vecIssue (vOp w) core (vArgs w) s
    (vOp w ≠ 0x2D → vecRun (n + 1) core s = vecRun n core s')
    ∧ (vOp w = 0x2D → ∀ j d, vecDecl s core (bits (vArgs w).imm.toNat 23 0) = some (j, d) →
        (rootOf s j (bits (vArgs w).imm.toNat 23 0) = none → vecRun (n + 1) core s = s))

/-- REED KIND 1 and 3 stage one contribution: into element (i, j) the exact product sum of row i and column j over the live
tokens of the covered lane groups; KIND 2 and 4 stage their codes under their rings. Each finishes with 0x0000 and changes
nothing but its command, its core's units and, for reads of the reed engine that come late, stall counters and traces (R88,
R114, R212; by how many beats they come late is free, log entry 141). -/
def Obligations.ReedCommands : Prop :=
  ∀ (s : State) (q kind : Nat) (Q : Queue) (c : Cmd) (J : Job), reedCmd s q kind = some (Q, c, J) → cmdAt Q c.uid = some c →
    poisonMet s Q c = none →
    let r := c.bytes
    let ver := hVer Q.part (rH r 36)
    let h := (viewOf Q c ver).read 0 64
    let products (right : Mem) : List (Nat × Int) :=
      (List.range (hRows h)).flatMap fun i => (List.range (hCols h)).map fun j =>
        (i * hCols h + j, (coveredTokens r).foldl (fun a n => a + memCode (seen Q c (rH r 24)) (512 * i + n) * memCode right (512 * j + n)) 0)
    let done (t : State) (ws : List StageWrite) : Prop :=
      t = { s with cores := t.cores, queues := t.queues, dict := t.dict, fresh := t.fresh, tel := t.tel, hostOut := t.hostOut }
      ∧ (∀ p, p ≠ q → queueAt t p = queueAt s p)
      ∧ ∃ Q' c', queueAt t q = some Q' ∧ cmdAt Q' c.uid = some c' ∧ c'.state = .finished 0 ∧ c'.staged = c.staged ++ ws
    (kind = 1 → Runs (.reedUpGradient q) s fun t => done t (contribute J Q.part ver (viewOf Q c ver) (products (seen Q c (rH r 28)))).1)
    ∧ (kind = 3 → Runs (.reedDownGradient q) s fun t => done t (contribute J Q.part ver (viewOf Q c ver) (products (seen Q c (rH r 20)))).1)
    ∧ (kind = 2 → Runs (.reedRankGradient q) s fun t => done t ((covered r).flatMap fun g =>
        match laneView s Q c J g with
        | none => []
        | some v => (laneTokensOf r g).flatMap fun n => (List.range v.rank).map fun j =>
            writeH Q (rH r 32) (512 * j + n) [BitVec.ofInt 8 (requantize
              (rankSum v (seen Q c (rH r 24)) (ringScale J (rRing r 52)) (field r 44 4) n j) (ringRecip J (rRing r 48))).code]))
    ∧ (kind = 4 → Runs (.reedForwardPhaseOne q) s fun t => done t ((covered r).flatMap fun g =>
        match laneView s Q c J g with
        | none => []
        | some v => (laneTokensOf r g).flatMap fun n => (List.range v.rank).map fun j =>
            writeH Q (rH r 28) (512 * j + n) [BitVec.ofInt 8 (requantize
              (phaseOneSum v (seen Q c (rH r 20)) (ringScale J (rRing r 56)) n j) v.suRecip).code]))

/-- Products added to distinct elements of an accumulator: each element is its old value plus its product modulo 2⁶⁴, every
other element is as before, and the bytes outside the elements are (R34, R224).
A contribution that is not the last of a step raises ARRIVED by one; the last converts every element, sets the
accumulator to 0 and ARRIVED to 0, and raises CONVERTED (R225, R227). -/
def Obligations.Accumulators : Prop :=
  (∀ (key : Nat) (m : Mem) (adds : List (Nat × Int)), (adds.map Prod.fst).Nodup →
    let m' := (accAdd key m adds).1
    (∀ e v, (e, v) ∈ adds → accElem m' e = signed 64 (unsigned 64 (accElem m e + v)))
    ∧ (∀ e, e ∉ adds.map Prod.fst → accElem m' e = accElem m e)
    ∧ ∀ b, b < 64 → m'.byte b = m.byte b)
  ∧ (∀ (J : Job) (part key : Nat) (m : Mem),
    let h := m.read 0 64
    (hArrived h + 1 ≠ hExpected h → (accFinish J part key m).1 = [⟨key, 56, toLe 4 (hArrived h + 1)⟩])
    ∧ (hArrived h + 1 = hExpected h → ∃ codes : StageWrite, (accFinish J part key m).1
        = [codes, ⟨key, 64, zeros (8 * (hRows h * hCols h))⟩, ⟨key, 56, toLe 4 0⟩, ⟨key, 24, toLe 8 (hConverted h + 1)⟩]
        ∧ codes.buf = hVer part (hG h) ∧ codes.off = 0
        ∧ ∀ e, e < hRows h * hCols h → codes.data[e]? = some (BitVec.ofInt 8 (requantize
            (Fp.mul (Fp.ofInt (accElem m e)) (Fp.mul (ringScale J (hARing h)) (ringScale J (hDRing h)))) (ringRecip J (hGRing h))).code)))

/-- MOVE with its destination on this module finishes with 0x0000 and stages its rows in order, then, where it adds into a
gradient accumulator, what the contribution brings (R115, R225). A copy between two buffers of this module stages each row of
the source at its place in the destination; an integer add of one row stages the sums of the 64-bit elements modulo 2⁶⁴
(R34). What a source on another module delivers is free (log entry 2).
MOVE to another module sends one packet for each row and finishes unacknowledged; the acknowledgement of its last packet
lets it commit, and where a trunk of fewer than four ports delivers late its beats count as a stall with cause 5; a broken
route fails it with 0x0A01 (R331 to R333). -/
def Obligations.Moves : Prop :=
  (∀ (s : State) (q kind : Nat) (Q : Queue) (c : Cmd), moveCmd s q kind = some (Q, c) → cmdAt Q c.uid = some c →
    poisonMet s Q c = none → mDstModule c.bytes = 0 →
    let r := c.bytes
    let far := mRows r * mSrcStride r + mLength r
    let here : Prop := mSrcModule r = 0
    let src := if mSrcModule r = 0 then viewOf Q c (hVer Q.part (mSrc r)) else Mem.write [] (mSrcOff r) (freeBytes s far)
    let ver := hVer Q.part (mDst r)
    let same : Bool := mSrcModule r = 0 && mSrc r % 2 ^ 20 = mDst r % 2 ^ 20
    let acc : Bool := kind = 1 && (usedBuf s c (verBuf ver)).any fun b => b.tier = 1 && b.cls = 3
    let out := (List.range (mRows r)).foldl (moveRow (kind = 1) r same src ver) (viewOf Q c ver, [])
    let done (t : State) (ws : List StageWrite) : Prop := t = { s with cores := t.cores, queues := t.queues, fresh := t.fresh }
      ∧ (here → t.fresh = s.fresh) ∧ (∀ p, p ≠ q → queueAt t p = queueAt s p)
      ∧ ∃ Q' c', queueAt t q = some Q' ∧ cmdAt Q' c.uid = some c' ∧ c'.state = .finished 0 ∧ c'.staged = c.staged ++ ws
    (∀ i ∈ [(Instr.moveCopy q, 0), (Instr.moveIntegerAdd q, 1)], kind = i.2 →
      (acc = false → Runs i.1 s fun t => done t out.2)
      ∧ ∀ j J, acc = true → Q.job = some j → jobAt s j = some J →
        Runs i.1 s fun t => done t (out.2 ++ (accFinish J Q.part ver out.1).1))
    ∧ (kind = 0 → same = false → out.2 = (List.range (mRows r)).map fun i =>
        ⟨ver, mDstOff r + i * mDstStride r, src.read (mSrcOff r + i * mSrcStride r) (mLength r)⟩)
    ∧ (kind = 1 → mRows r = 1 → same = false → out.2
        = [⟨ver, mDstOff r, addElems ((viewOf Q c ver).read (mDstOff r) (mLength r)) (src.read (mSrcOff r) (mLength r))⟩]))
  ∧ ((∀ (s : State) (q j kind : Nat) (Q : Queue) (c : Cmd) (J : Job), moveCmd s q kind = some (Q, c) → cmdAt Q c.uid = some c →
    Q.job = some j → jobAt s j = some J → mSrcModule c.bytes = 0 → mDstModule c.bytes ≠ 0 → poisonMet s Q c = none →
    ∀ i ∈ [(Instr.moveCopy q, 0), (Instr.moveIntegerAdd q, 1)], kind = i.2 →
    Runs i.1 s fun t => t = { s with cores := t.cores, queues := t.queues, win := t.win }
      ∧ t.win.out = s.win.out ++ (movePackets J j c (seen Q c (mSrc c.bytes))).map (fun p => (decide (kind = 1), p))
      ∧ (movePackets J j c (seen Q c (mSrc c.bytes))).length = mRows c.bytes
      ∧ ∃ Q' c', queueAt t q = some Q' ∧ cmdAt Q' c.uid = some c' ∧ c'.state = .finished 0 ∧ c'.acked = false)
  ∧ (∀ (s : State) (q : Nat) (Q : Queue) (c : Cmd), queueAt s q = some Q → (Q.cmds.find? fun c => !c.acked) = some c →
    cmdAt Q c.uid = some c →
    let late : Prop := ackPlanned s q Q c < s.now
      ∧ ∃ d, firstTrunk s (remoteModule s q c) = some d ∧ (livePorts s d).length < 4
    Runs (.remoteAcknowledgement q) s fun t => t = { s with queues := t.queues, dict := t.dict }
      ∧ (∃ Q', queueAt t q = some Q' ∧ cmdAt Q' c.uid = some { c with acked := true })
      ∧ (¬late → t.dict = s.dict)
      ∧ (late → Counted s t (0x6400 + mClass c.bytes) 5 (s.now - ackPlanned s q Q c)))
  ∧ ∀ (s : State) (q : Nat) (Q : Queue) (c : Cmd), queueAt s q = some Q →
    (Q.cmds.find? fun c => c.remote && c.state ≠ .fetched && !c.failed) = some c →
    Runs (.destinationUnreachable q) s fun t => Failed t q c.uid 0x0A01)

/-! ## The update sweep and the step boundary -/

/-- SWEEP in a committed window stages what its programs write, each write for the version of the buffer that the command
names, and finishes with 0x0000, or 0x0E42 where an element is non-finite; in a skipped or refused window it stages nothing
and finishes with 0x0000 (R99, R234). Its record names the batch of the step that has closed. -/
def Obligations.Sweep : Prop :=
  ∀ (s : State) (q j : Nat) (Q : Queue) (c : Cmd) (J : Job), queueAt s q = some Q → (runningCmd Q fun c => c.op = 7) = some c →
    cmdAt Q c.uid = some c → Q.job = some j → jobAt s j = some J → poisonMet s Q c = none →
    let o := sweepAll (sweepIn Q c J) (some (q, c.uid))
    let handle (arr : Nat) : Nat := rH c.bytes (if arr = 0 then 16 else if arr = 1 then 24 else if arr = 2 then 28 else 32)
    let done (t : State) (st : Status) (ws : List StageWrite) (n k : Nat) : Prop := t = { s with cores := t.cores, queues := t.queues }
      ∧ (∀ p, p ≠ q → queueAt t p = queueAt s p)
      ∧ ∃ Q' c', queueAt t q = some Q' ∧ cmdAt Q' c.uid = some c' ∧ c'.state = .finished st ∧ c'.staged = c.staged ++ ws
        ∧ c'.sweepRec = some { batch := (J.batch + 2 ^ 64 - 1) % 2 ^ 64, index := 0, queue := q, status := st, nonfinite := n, clippedRows := k }
    (J.window = .committed → Runs (.sweep q) s fun t => done t (if o.nonfinite = 0 then 0 else 0x0E42)
      (o.writes.map fun w => ⟨hVer Q.part (handle w.1), w.2.1, w.2.2⟩) o.nonfinite o.clipped.length)
    ∧ (J.window ≠ .committed → Runs (.sweep q) s fun t => done t 0 [] 0 0)

/-- STEP: its queue has reached the boundary in the present beat; the barrier bound runs from the job's first arrival (R220).
At a boundary with an accumulator open on some module of the job every STEP of the job fails with 0x0404; with a ring list
that names a ring twice, a ring that the job lacks, or other modules' lists that differ, with 0x0407; where the barrier bound
expires before every queue has arrived, every arrived STEP with 0x0406 (R220, R226, R228). Each counts as one failed step of
the partition. -/
def Obligations.StepArrivesOrFails : Prop :=
  (∀ (s : State) (q j : Nat) (Q : Queue) (c : Cmd) (J : Job), stepOf s q = some (Q, c) → Q.job = some j → jobAt s j = some J →
    c.arrived = false → poisonMet s Q c = none →
    Runs (.step q) s fun t => t = { s with queues := t.queues, jobs := t.jobs } ∧ stepArrived t q = true
      ∧ jobAt t j = some { J with firstArrival := some (J.firstArrival.getD s.now), arrivedAt := s.now }
      ∧ ∀ p, p ≠ q → queueAt t p = queueAt s p)
  ∧ (∀ (s : State) (j : Nat) (J : Job), jobAt s j = some J → J.part < 32 →
    let failed (st : Status) (t : State) : Prop := Counted s t (0x6200 + J.part) 7 1
      ∧ ∀ q ∈ J.roles, ∀ Q c, stepOf s q = some (Q, c) → c.arrived = true → Failed t q c.uid st
    let l := (stepList s J).length
    (∀ others : RemoteBoundary, allArrived s J = true → J.roles ≠ [] →
      (openAccs s J + others.f.getD 1 0 ≠ 0 → Runs (.stepBoundary j others) s (failed 0x0404))
      ∧ (openAccs s J + others.f.getD 1 0 = 0 → (¬(stepList s J).Nodup ∨ (∃ r ∈ stepList s J, FMap.has J.rings r = false)
            ∨ l + others.f.getD 2 0 ≠ J.modules * l) →
        Runs (.stepBoundary j others) s (failed 0x0407)))
    ∧ ∀ b, J.firstArrival = some b → (allArrived s J = false ∨ J.modules ≠ 1) →
        Runs (.stepBarrierBoundExpiry j) s fun t => failed 0x0406 t ∧ max s.now (b + eff s 0x2210 1) = t.now)

/-- The boundary of a job whose queues have all arrived, with a ring list of distinct rings of the job that every module
gives alike, and no open accumulator (R228 to R233): the step is skipped exactly where a report has been counted, or a listed
ring has seen a non-finite element or is absurd on the modules together; else it is committed, or refused at the last update
count. The batch index advances; the update counter advances where the previous decision was to commit; every listed ring is
closed with the modules' observations together; the STEPs commit. -/
def Obligations.StepBoundary : Prop :=
  ∀ (s : State) (j : Nat) (J : Job) (others : RemoteBoundary), jobAt s j = some J → J.roles ≠ [] → allArrived s J = true →
    openAccs s J + others.f.getD 1 0 = 0 → (stepList s J).Nodup → (∀ r ∈ stepList s J, FMap.has J.rings r = true) →
    let l := (stepList s J).length
    let crc := crc32c ((stepList s J).flatMap fun r => toLe 4 (((FMap.get? J.rings r).map Ring.tensorId).getD 0))
    l + others.f.getD 2 0 = J.modules * l → crc + others.f.getD 3 0 = J.modules * crc →
    let sums := ((List.range l).zip (stepList s J)).map fun p => ringSum J others p.1 p.2
    let bad (e : RingSum) : Prop := e.nonfinite ≠ 0 ∨ ∃ g, FMap.get? J.rings e.ring = some g ∧ g.checked = true ∧ J.clipT ≠ 0
      ∧ e.elements * J.clipT < e.clipped * 65536
    let skip : Prop := J.nf + others.f.getD 0 0 ≠ 0 ∨ ∃ e ∈ sums, bad e
    let updates := if J.committedLast then J.updates + 1 else J.updates
    let status (J' : Job) : Option Status := (FMap.get? J'.stepLog (J.batch % 256)).map StepRec.status
    Runs (.stepBoundary j others) s fun t => t.now = max s.now (J.arrivedAt + 300 + 2 * ((l + 1) / 2) + crossBeats J l)
      ∧ (∃ J', jobAt t j = some J' ∧ J'.batch = (J.batch + 1) % 2 ^ 64 ∧ J'.updates = updates
        ∧ (skip → J'.window = .skipped ∧ status J' = some 0x0401)
        ∧ (¬skip → updates ≠ 2 ^ 48 - 1 → J'.window = .committed ∧ status J' = some 0)
        ∧ (¬skip → updates = 2 ^ 48 - 1 → J'.window = .refused ∧ status J' = some 0x0402)
        ∧ ∀ e ∈ sums, ∀ g, FMap.get? J.rings e.ring = some g → ∃ b : Bool, (b = true ↔ skip) ∧
            FMap.get? J'.rings e.ring = some (g.close J.calmL e.amax (decide (e.nonfinite ≠ 0)) e.clipped e.elements b J.batch))
      ∧ ∀ q ∈ J.roles, ∀ Q c, stepOf s q = some (Q, c) → Gone t q c.uid

/-! ## Front end -/

/-- A ring command whose records lie before TAIL is fetched: HEAD and the expected SEQ advance. A record that passes every
check joins the queue under the next number; one that does not fails with the first check's status and stops the queue
(R101, R107, R108). The records come from the ring's slots where the ring lies in HBM, else from the read of host memory,
which the journal records first; in replay such a read is matched, and may be held until its recorded beat (R288, R291). A
queue that may not fetch, a function in reset and, for host memory, an interface that has not answered yet fetch nothing
(R344).
The checks of a fetched ring record, in order: a quarantined queue, reserved bits, the opcodes that a ring may carry, EXT,
and SEQ (R101, R105, R108, R110, R125). -/
def Obligations.RingFetch : Prop :=
  (∀ (s : State) (q : Nat) (Q : Queue) (records : List Byte), queueAt s q = some Q →
    let rs := fetchedRecords s Q records
    let n := recordCount rs
    let r := slice rs 0 (64 * n)
    let may : Prop := mayFetch Q n = true ∧ inReset s Q.fn = false ∧ fetchPaused s Q = false
    (¬may → Runs (.ringCommandFetch q records) s fun t => t = s)
    ∧ (may → (Q.ringHbm = true ∨ ∀ j J, Q.job = some j → jobAt s j = some J → J.replay = none) →
      let s1 := if Q.ringHbm then s else journal s 2 (moduleOf s q) q 0 (Q.ringBase + 64 * (Q.head % Q.slots)) r
      (fetchStatus s1 Q r = 0 → Runs (.ringCommandFetch q records) s fun t => t.uid = s.uid + 1
        ∧ (∀ p, p ≠ q → queueAt t p = queueAt s p)
        ∧ ∃ Q', queueAt t q = some Q' ∧ Q'.head = (Q.head + n) % 2 ^ 32 ∧ Q'.expected = (Q.expected + 1) % 2 ^ 32
          ∧ Q'.cmds = Q.cmds ++ [{ uid := s.uid, bytes := r, fetchedAt := s.now }])
      ∧ (fetchStatus s1 Q r ≠ 0 → Runs (.ringCommandFetch q records) s fun t => Failed t q s.uid (fetchStatus s1 Q r)
        ∧ (queueAt t q).map Queue.head = some ((Q.head + n) % 2 ^ 32)))
    ∧ ∀ j s', may → Q.ringHbm = false → Q.job = some j →
      (∀ due, replayInput s j 2 q 0 r = (s', some due) →
        Runs (.ringCommandFetch q records) s fun t => t = holdInput s' j due (.ringCommandFetch q records))
      ∧ (replayInput s j 2 q 0 r = (s', none) → Runs (.ringCommandFetch q records) s fun t => t = ringFetch s' q records))
  ∧ (∀ (s : State) (Q : Queue) (r : List Byte),
    (Q.quarantined = true → fetchStatus s Q r = 0x0213)
    ∧ (Q.quarantined = false → opKnown (rOp r) = true → reservedOk r = false → fetchStatus s Q r = 0x0302)
    ∧ (Q.quarantined = false → (reservedOk r = true ∨ opKnown (rOp r) = false) → rOp r ∉ [4, 5, 6, 9, 10, 11, 15] →
        fetchStatus s Q r = 0x0303)
    ∧ (Q.quarantined = false → reservedOk r = true → rOp r ∈ [4, 5, 6, 9, 10, 11, 15] → rExt r = false → rSeq r ≠ Q.expected →
        fetchStatus s Q r = 0x030E))

/-- The next command of a queue starts where nothing holds it back: it stands started in the present beat, and one with HOLD
outside every open window opens one. A job without its cores waits, and so does a command whose core is not on yet; a check
that fails ends the command before any side effect, and a FREE with a status that leaves the queue running stands finished
with it; a tiered object on its way makes the command wait (R102, R104, R122, R128, R159, R312). -/
def Obligations.CommandStarts : Prop :=
  ∀ (s : State) (q : Nat) (Q : Queue) (c₀ : Cmd), nextStart s q = some (Q, c₀) →
    let c : Cmd := { c₀ with bytes := localize (Q.job.bind (jobAt s)) c₀.bytes }
    let st := startStatus s q Q c
    (needsGrant c = true → granted s Q = false → Runs (.commandStart q) s fun t => t = { s with queues := t.queues }
      ∧ queueAt t q = some { Q with waitingSince := some (Q.waitingSince.getD s.now) })
    ∧ ((needsGrant c = false ∨ granted s Q = true) →
      (coreReady s c = false → Runs (.commandStart q) s fun t => t = s)
      ∧ (coreReady s c = true → windowFull Q c = true → Runs (.commandStart q) s fun t => Failed t q c.uid 0x0301)
      ∧ (coreReady s c = true → windowFull Q c = false → st ≠ 0 → ¬(c.op = 10 ∧ freeStatus st = true) →
          Runs (.commandStart q) s fun t => Failed t q c.uid st)
      ∧ (coreReady s c = true → windowFull Q c = false → st ≠ 0 → c.op = 10 → freeStatus st = true →
          Runs (.commandStart q) s fun t => Finished t q c.uid st ∧ t = { s with cores := t.cores, queues := t.queues }
            ∧ (st = 0x0211 → (queueAt t q).map Queue.offences = some ((s.now :: Q.offences).take 16)))
      ∧ (coreReady s c = true → windowFull Q c = false → st = 0 → ∀ w, startWait s Q.part (waitFields s Q c) = some w →
          Runs (.commandStart q) s fun t => t = { s with queues := t.queues } ∧ ∃ Q' c', queueAt t q = some Q' ∧ cmdAt Q' c.uid = some c'
            ∧ c'.objectWait = true ∧ c'.waitCode = 256 * w.1 + w.2)
      ∧ (coreReady s c = true → windowFull Q c = false → st = 0 → startWait s Q.part (waitFields s Q c) = none →
          Runs (.commandStart q) s fun t => ∃ Q' c', queueAt t q = some Q' ∧ cmdAt Q' c.uid = some c' ∧ c'.state = .started
            ∧ c'.startedAt = s.now ∧ c'.objectWait = false ∧ c'.bytes = c.bytes
            ∧ Q'.window.toList ++ Q'.laterWindows
              = Q.window.toList ++ Q.laterWindows ++ if rHold c.bytes && c.op ≠ 6 && !inWindow Q c then [c.uid] else []))

/-- The oldest command commits once it has finished without a failure, outside every open window, acknowledged, and past the
beats that a remote signal takes to its target; an earlier command's quarantine holds it back (R103, R104, R278). Its staged
writes reach the versions of the buffers that it names, in order, in the copy in HBM where a tiered object has one; every
other buffer reads as before (R124, R126, R127, R159). -/
def Obligations.CommandCommits : Prop :=
  ∀ (s : State) (q : Nat) (Q : Queue) (c : Cmd) (rest : List Cmd) (st : Status), queueAt s q = some Q → Q.cmds = c :: rest →
    c.state = .finished st → c.failed = false → c.acked = true → c.heldTo ≤ s.now → inWindow Q c = false → mayCommit Q c = true →
    Runs (.commandCommit q) s fun t => Committed Q t q c ∧ (∀ p, p ≠ q → queueAt t p = queueAt s p) ∧ t.now = s.now
      ∧ ∀ k b, FMap.get? s.bufs k = some b → (∀ e ∈ s.bufs, e.1 = k → e.2 = b) → b.freed = false → k < 2 ^ 25 →
          (Q.cplHbm = false ∨ b.tier ≠ 1) → committed t k = overlayWrites (committed s k) (verKey k b.gen) c.staged

/-- A kill returns every command that has started and neither failed nor been fixed to be run again, with nothing staged; of
the open windows those stay that a RUN under way has opened. While a droop throttle has stopped an ARRAY that it strikes, it
waits for the throttle's end, and changes no command (R73).
A fault kill of the oldest command is counted, and the third fails it with 0x030C; the core that the command runs on is not
yet declared dead (R130, R131). -/
def Obligations.KillReturnsCommands : Prop :=
  ∀ (s : State) (q : Nat) (kind : KillKind) (Q : Queue), queueAt s q = some Q →
    (kind ≠ .fault → throttledKill s Q = true → Runs (.kill q kind) s fun t => t = { s with queues := t.queues }
      ∧ queueAt t q = some { Q with heldKill := some (Q.heldKill.elim kind (joinKills · kind)) })
    ∧ (kind ≠ .fault → throttledKill s Q = false → Runs (.kill q kind) s fun t => ∃ Q', queueAt t q = some Q'
      ∧ Q'.window.toList ++ Q'.laterWindows = (Q.window.toList ++ Q.laterWindows).filter (fun f => Q.runs.any fun r => r.uid = f)
      ∧ (∀ d ∈ Q'.cmds, d.state = .fetched ∨ d.failed = true ∨ d.fixed s.now = true) ∧ ∀ p, p ≠ q → queueAt t p = queueAt s p)
    ∧ ∀ c, Q.cmds = [c] → c.state = .started → c.heldTo = 0 → throttledKill s Q = false →
      (kind ≠ .fault → c.kills < 3 → Runs (.kill q kind) s fun t => ∃ Q' c', queueAt t q = some Q' ∧ Q'.cmds = [c']
        ∧ c'.bytes = c.bytes ∧ c'.state = .fetched ∧ c'.staged = [] ∧ c'.kills = c.kills ∧ c'.reruns = c.reruns + 1)
      ∧ (kind = .fault → (coreAt s c.core).faultKills.length < 15 →
        (c.kills < 2 → Runs (.kill q kind) s fun t => ∃ Q' c', queueAt t q = some Q' ∧ Q'.cmds = [c']
          ∧ c'.bytes = c.bytes ∧ c'.state = .fetched ∧ c'.staged = [] ∧ c'.kills = c.kills + 1 ∧ c'.reruns = c.reruns + 1)
        ∧ (2 ≤ c.kills → Runs (.kill q kind) s fun t => Failed t q c.uid 0x030C))

/-- NOP and YIELD, as the oldest command outside a window, commit at once and change no core; NOP inside a window finishes for
the COMMIT (R118, R133).
RUN with valid arguments starts its stream: the stream's commands, bound to the arguments and to the RUN's SEQ, join the
queue in order, and the RUN waits for them. One that is not valid fails (R101, R108, R136; with 0x0309 where its stream is
not the queue's, the model's choice of log entry 130). -/
def Obligations.NopYieldRun : Prop :=
  (∀ (s : State) (q : Nat) (Q : Queue) (c : Cmd),
    (oldestOf s q 15 = some (Q, c) → Runs (.nop q) s fun t => Committed Q t q c ∧ t.cores = s.cores ∧ t.now = s.now)
    ∧ (oldestOf s q 8 = some (Q, c) → Runs (.yield q) s fun t => Committed Q t q c ∧ t.cores = s.cores ∧ t.now = s.now)
    ∧ (oldestOf s q 15 = none → queueAt s q = some Q →
        (Q.cmds.find? fun c => c.op = 15 && c.state = .started && inWindow Q c) = some c →
        Runs (.nop q) s fun t => Finished t q c.uid 0 ∧ t = { s with cores := t.cores, queues := t.queues }))
  ∧ (∀ (s : State) (q : Nat) (Q : Queue) (c : Cmd), queueAt s q = some Q → (Q.cmds.find? fun c => c.op = 11 && c.state = .started) = some c →
    (runStatus s q Q c ≠ 0 → Runs (.run q) s fun t => Failed t q c.uid (runStatus s q Q c))
    ∧ (runStream s q Q c = none → runStatus s q Q c = 0x0309)
    ∧ ∀ j J st, runStatus s q Q c = 0 → Q.job = some j → jobAt s j = some J → J.streams[field c.bytes 16 4]? = some st →
      Runs (.run q) s fun t => ∃ Q', queueAt t q = some Q' ∧ (st.cmds ≠ [] → (Q'.running.map Cmd.uid) = some c.uid)
        ∧ Q'.cmds.take (Q.cmds.filter fun d => d.uid ≠ c.uid).length = (Q.cmds.filter fun d => d.uid ≠ c.uid)
        ∧ (Q'.cmds.drop (Q.cmds.filter fun d => d.uid ≠ c.uid).length).map (fun d => (d.stream, d.run, d.bytes))
          = (List.range st.cmds.length).map fun i => (some i, c.uid, bindRecord st c.bytes i (st.cmds.getD i [])))

/-- ALLOC takes the lowest free index of the partition's buffer table, charges the queue's function and gives the handle in
RESULT of its completion record; with no index free it fails with 0x0202, with no room in the quota with 0x0681
(R119, R123, R165).
FREE by the owner with the current generation ends the buffer: its index takes the next generation, or retires at 4,095.
An index that never held a buffer fails with 0x0201. A stale handle completes with 0x0212 and a foreign one with 0x0211,
which counts as an offence, and neither frees anything (R122 to R125). -/
def Obligations.AllocAndFree : Prop :=
  let kept (s t : State) (Q : Queue) (c : Cmd) (k : Nat) : Prop := ∀ x, FMap.get? s.bufs k = some x → (∀ e ∈ s.bufs, e.1 = k → e.2 = x) →
    x.freed = false → c.staged = [] → Q.cplHbm = false → FMap.get? t.bufs k = some x
  (∀ (s : State) (q : Nat) (Q : Queue) (c : Cmd), oldestOf s q 9 = some (Q, c) →
    let tier := field c.bytes 16 1
    let size := field c.bytes 20 8
    let i := lowestFree s Q.part
    let gen := ((FMap.get? s.index (bufKey Q.part i)).map IndexState.gen).getD 0
    (2 ^ 20 ≤ i → Runs (.alloc q) s fun t => Failed t q c.uid 0x0202)
    ∧ (i < 2 ^ 20 → mayCharge s Q.part Q.fn tier (charge64 size) = false → Runs (.alloc q) s fun t => Failed t q c.uid 0x0681)
    ∧ (i < 2 ^ 20 → mayCharge s Q.part Q.fn tier (charge64 size) = true →
        Runs (.alloc q) s fun t => Committed Q t q c
          ∧ (∃ b, FMap.get? t.bufs (bufKey Q.part i) = some b ∧ b.gen = gen ∧ b.size = size ∧ b.tier = tier ∧ b.ownerQ = some q
              ∧ b.fn = Q.fn ∧ b.cls = field c.bytes 17 1 ∧ b.freed = false ∧ (c.staged = [] → Q.cplHbm = false → b.data = []))
          ∧ (∀ k, k ≠ bufKey Q.part i → kept s t Q c k)
          ∧ (FMap.get? t.index (bufKey Q.part i)).map IndexState.live = some true
          ∧ (NoHeldStorage s → charged t Q.part Q.fn tier = charged s Q.part Q.fn tier + charge64 size)
          ∧ (c.stream = none → Q.cplHbm = false → RunGoesOn Q c →
              t.hostOut.read (Q.cplBase + 32 * (Q.cpls % Q.slots) + 12) 4 = toLe 4 (gen * 2 ^ 20 + i))))
  ∧ (∀ (s : State) (q : Nat) (Q : Queue) (c : Cmd), oldestOf s q 10 = some (Q, c) →
    let h := rH c.bytes 16
    let key := bufKey Q.part (hIndex h)
    (freeCheck s q Q h = 0x0201 → Runs (.free q) s fun t => Failed t q c.uid 0x0201)
    ∧ (freeCheck s q Q h = 0x0212 → Runs (.free q) s fun t => Committed Q t q c ∧ ∀ k, kept s t Q c k)
    ∧ (freeCheck s q Q h = 0x0211 → Runs (.free q) s fun t => Committed Q t q c ∧ (∀ k, kept s t Q c k)
        ∧ (queueAt t q).map Queue.offences = some ((s.now :: Q.offences).take 16))
    ∧ ∀ b, freeCheck s q Q h = 0 → FMap.get? s.bufs key = some b →
        Runs (.free q) s fun t => Committed Q t q c ∧ FMap.get? t.bufs key = none
          ∧ (∀ k, k ≠ key → k ≠ heldKey (verKey key b.gen) → kept s t Q c k)
          ∧ ∃ x, FMap.get? t.index key = some x ∧ x.live = false ∧ x.ever = true ∧ x.retired = decide (b.gen = 4095)
            ∧ x.gen = if b.gen = 4095 then 4095 else b.gen + 1)
  ∧ ∀ (s : State) (q : Nat) (Q : Queue) (h : Nat),
    (everHeld s Q.part h = false → freeCheck s q Q h = 0x0201)
    ∧ (everHeld s Q.part h = true →
      ((∀ b, bufAt s Q.part h = some b → b.gen ≠ hGen h) → freeCheck s q Q h = 0x0212)
      ∧ ∀ b, bufAt s Q.part h = some b → b.gen = hGen h →
        ((b.base = true ∨ b.ownerQ ≠ some q) → freeCheck s q Q h = 0x0211)
        ∧ (b.base = false → b.ownerQ = some q → freeCheck s q Q h = 0))

/-! ## Doorbells and mailboxes -/

/-- A queue doorbell of a usable function while the BARs answer, behind the internal events of its beat (R468): an accepted one
moves TAIL alone; one that breaks R107 is ignored, counted and noted in STATUS as 0x0310; one that repeats TAIL changes
nothing; a quarantined queue's is ignored and counted (R107). To a job in replay, an accepted one without a record of its
kind and queue is taken and counts as a divergence, and one that matches its record is held until its recorded beat (R291).
A doorbell beyond the first 32 MiB of the PF's BAR2 goes to the member of that region and counts there alone (R342). Of a
function that does not answer, nothing changes.
MBX_PAGE written by a usable function: page and vector are taken, the counts return to 0 and standing requests are
dropped; other functions' mailboxes do not change (R301; log entry 30: that the requests are dropped is the model's).
A mailbox doorbell with the next SEQ, the next frame and room posts its message; a head message that no request can take
is answered at once with its refusal. One that breaks R302 is ignored, counted and noted as 0x0807.
A write of RESP_READ frees what the driver has read, and held responses are written as far as there is room. A held
response of one frame is written so: its bytes into the next frame, its descriptor with the phase of the pass, one more
descriptor counted, one MSI-X message on the function's vector (R304). -/
def Obligations.DoorbellsAndMailboxes : Prop :=
  (∀ (s₀ : State) (fn page : Nat) (word : W64) (sized : Bool), let s := settle s₀
    (barsAnswer s = false → Runs (.doorbell fn page word sized) s₀ fun t => t = s)
    ∧ (barsAnswer s = true → 8192 ≤ page → (fn ≠ 0 ∨ usable s fn = false ∨ domainModule s (page / 8192) = none) →
        Runs (.doorbell fn page word sized) s₀ fun t => t = s)
    ∧ (∀ dest, barsAnswer s = true → 8192 ≤ page → fn = 0 → usable s 0 = true → domainModule s (page / 8192) = some dest →
        Runs (.doorbell fn page word sized) s₀ fun t => t = { s with host := t.host, win := t.win }
          ∧ FMap.getD t.host.proxied (page / 8192) 0 = FMap.getD s.host.proxied (page / 8192) 0 + 1)
    ∧ (barsAnswer s = true → page < 8192 → (pageQueue s fn page = none ∨ usable s fn = false) →
        Runs (.doorbell fn page word sized) s₀ fun t => t = s))
  ∧ (∀ (s₀ : State) (fn page q : Nat) (Q : Queue) (word : W64) (sized : Bool), let s := settle s₀
    barsAnswer s = true → page < 8192 → pageQueue s fn page = some (q, Q) → queueAt s q = some Q → usable s fn = true →
    let tail := bits word.toNat 31 0
    let ok := doorbellOk q Q word.toNat sized
    let taken (t : State) : Prop := queueAt t q = some { Q with tail := tail } ∧ (∀ p, p ≠ q → queueAt t p = queueAt s p)
      ∧ t.cores = s.cores
    (Q.quarantined = false → ok = true → tail ≠ Q.tail →
      ((∀ j J, Q.job = some j → jobAt s j = some J → J.replay = none) → Runs (.doorbell fn page word sized) s₀ fun t =>
        taken t ∧ t.jobs = s.jobs)
      ∧ ∀ j J recs, Q.job = some j → jobAt s j = some J → J.replay = some recs →
        ((∀ r ∈ recs, ¬(field r 8 1 = 1 ∧ field r 10 2 = q)) → Runs (.doorbell fn page word sized) s₀ fun t =>
          taken t ∧ t.jobs = s.jobs ∧ Counted s t 0x6F00 11 1)
        ∧ ∀ r, recs.find? (fun r => field r 8 1 = 1 && field r 10 2 = q) = some r →
          let J' : Job := { J with replay := some (recs.erase r) }
          ((field r 12 4 ≠ tail ∨ field r 24 4 ≠ 0 ∨ field r 28 4 ≠ 0) → Runs (.doorbell fn page word sized) s₀ fun t =>
            taken t ∧ jobAt t j = some J' ∧ Counted s t 0x6F00 11 1)
          ∧ ∀ l, field r 12 4 = tail → field r 24 4 = 0 → field r 28 4 = 0 → J.launched = some l →
            let due := l + field r 0 8 - recordedLaunch recs
            (s.now < due → Runs (.doorbell fn page word sized) s₀ fun t => t = { s with jobs := t.jobs }
              ∧ jobAt t j = some { J' with replayHeld := J.replayHeld ++ [(due, .doorbell fn page word sized)] })
            ∧ (s.now = due → Runs (.doorbell fn page word sized) s₀ fun t => taken t ∧ jobAt t j = some J')
            ∧ (due < s.now → Runs (.doorbell fn page word sized) s₀ fun t =>
                taken t ∧ jobAt t j = some J' ∧ Counted s t 0x6F00 11 1))
    ∧ (Q.quarantined = false → ok = true → tail = Q.tail → Runs (.doorbell fn page word sized) s₀ fun t => t = s)
    ∧ (Q.quarantined = false → ok = false → Runs (.doorbell fn page word sized) s₀ fun t => t = { s with queues := t.queues }
      ∧ queueAt t q = some { Q with badDoorbells := Q.badDoorbells + 1, status := 0x0310 }
      ∧ ∀ p, p ≠ q → queueAt t p = queueAt s p)
    ∧ (Q.quarantined = true → Runs (.doorbell fn page word sized) s₀ fun t => t = { s with queues := t.queues }
      ∧ queueAt t q = some { Q with badDoorbells := Q.badDoorbells + 1 } ∧ ∀ p, p ≠ q → queueAt t p = queueAt s p))
  ∧ (∀ (s : State) (fn : Nat) (page : W64) (vector : BitVec 6),
    ((usable s fn = false ∨ barsAnswer s = false) → Runs (.mbxPageWrite fn page vector) s fun t => t = s)
    ∧ (usable s fn = true → barsAnswer s = true → Runs (.mbxPageWrite fn page vector) s fun t => t = { s with mbx := t.mbx }
      ∧ (mboxAt t fn).base = page.toNat / 4096 * 4096 ∧ (mboxAt t fn).enabled = page.getLsbD 0 ∧ (mboxAt t fn).vector = vector
      ∧ (mboxAt t fn).fresh = true ∧ (mboxAt t fn).posted = 0 ∧ (mboxAt t fn).consumed = 0 ∧ (mboxAt t fn).inbox = []
      ∧ (mboxAt t fn).respWrite = 0 ∧ (mboxAt t fn).respRead = 0
      ∧ ∀ g, g ≠ fn → mboxAt t g = mboxAt s g))
  ∧ (∀ (s₀ : State) (fn : Nat) (word : W64) (sized : Bool) (message : List Byte), let s := settle s₀
    let m := mboxAt s fn
    let w := word.toNat
    let msg : MboxMsg := { cls := bits w 63 56, seq := bits w 31 0, frames := bits w 55 48,
                           bytes := slice message 0 (64 * bits w 55 48), arrived := s.now }
    let posted : Mailbox := { m with fresh := false, seq := msg.seq, posted := (m.posted + msg.frames) % 2 ^ 32, inbox := m.inbox ++ [msg] }
    ((usable s fn = false ∨ barsAnswer s = false ∨ m.enabled = false) → Runs (.mailboxDoorbell fn word sized message) s₀ fun t => t = s)
    ∧ (usable s fn = true → barsAnswer s = true → m.enabled = true →
      (m.accepts w sized = false → Runs (.mailboxDoorbell fn word sized message) s₀ fun t => t = { s with mbx := t.mbx }
        ∧ mboxAt t fn = { m with badDoorbells := m.badDoorbells + 1, status := 0x0807 } ∧ ∀ g, g ≠ fn → mboxAt t g = mboxAt s g)
      ∧ (m.accepts w sized = true → replayJob s fn = none → Runs (.mailboxDoorbell fn word sized message) s₀ fun t =>
          ((64 ≤ m.held.length ∨ messageStatus fn (m.inbox.headD msg) = 0) → mboxAt t fn = posted
            ∧ (recording s = false → t = { s with mbx := t.mbx }))
          ∧ (m.held.length < 64 → m.inbox = [] → messageStatus fn msg ≠ 0 → Answered s t fn msg (messageStatus fn msg))
          ∧ ∀ g, g ≠ fn → mboxAt t g = mboxAt s g)
      ∧ ∀ j, m.accepts w sized = true → replayJob s fn = some j →
          let r := replayInput s j 4 fn (field msg.bytes 0 1) msg.bytes
          (r.2 = none → Runs (.mailboxDoorbell fn word sized message) s₀ fun t =>
            (64 ≤ m.held.length ∨ messageStatus fn (m.inbox.headD msg) = 0) → mboxAt t fn = posted)
          ∧ ∀ due, r.2 = some due → Runs (.mailboxDoorbell fn word sized message) s₀ fun t => t = { r.1 with jobs := t.jobs }
            ∧ t.mbx = s.mbx
            ∧ (jobAt t j).map Job.replayHeld
              = (jobAt s j).map fun J => J.replayHeld ++ [(due, .mailboxDoorbell fn word sized message)]))
  ∧ ∀ (s : State) (fn : Nat) (read : BitVec 32), let m := mboxAt s fn
    let unread := (m.respWrite + 2 ^ 32 - read.toNat) % 2 ^ 32
    let frames := m.respFrames.drop (m.respFrames.length - unread)
    ((usable s fn = false ∨ barsAnswer s = false) → Runs (.mailboxResponseWrite fn read) s fun t => t = s)
    ∧ (usable s fn = true → barsAnswer s = true →
      (m.inbox = [] → (m.enabled = false ∨ 16 ≤ unread ∨ (∀ r, m.held.head? = some r → 28 < frames.sum + r.frames)) →
        Runs (.mailboxResponseWrite fn read) s fun t => t = { s with mbx := t.mbx }
          ∧ mboxAt t fn = { m with respRead := read.toNat, respFrames := frames } ∧ ∀ g, g ≠ fn → mboxAt t g = mboxAt s g)
      ∧ ∀ r, m.enabled = true → m.held = [r] → m.inbox = [] → r.bytes.length = 32 → unread < 16 → frames.sum < 28 →
        Runs (.mailboxResponseWrite fn read) s fun t => (mboxAt t fn).held = [] ∧ (mboxAt t fn).respWrite = (m.respWrite + 1) % 2 ^ 32
          ∧ (mboxAt t fn).respFrame = (m.respFrame + 1) % 28 ∧ (mboxAt t fn).respRead = read.toNat
          ∧ t.hostOut.read (m.base + 0x800 + 64 * (m.respFrame % 28)) 32 = r.bytes
          ∧ t.hostOut.read (m.base + 0xF00 + 16 * (m.respWrite % 16)) 16
            = toLe 1 r.cls ++ [1] ++ toLe 1 m.respFrame ++ (if m.respWrite / 16 % 2 = 0 then [1] else [0]) ++ toLe 4 r.seq ++ toLe 8 s.now
          ∧ FMap.getD t.tel.msix (64 * fn + m.vector.toNat) 0 = FMap.getD s.tel.msix (64 * fn + m.vector.toNat) 0 + 1
          ∧ t.queues = s.queues ∧ t.jobs = s.jobs ∧ t.dict = s.dict ∧ ∀ g, g ≠ fn → mboxAt t g = mboxAt s g)

/-! ## Queue requests -/

/-- Create: the lowest free number of the partition's pool block, as the descriptor says, empty and running, behind the lowest
free doorbell page; the number is the RESULT. With a field out of range, 0x0301; with the function's limit reached, or no
number free, 0x0802; with a descriptor outside Table 5.1, 0x080E (R306).
Destroy, reset and restart of a queue that is not the caller's answer 0x0803, and change no queue (R269).
Reset empties a queue, returns its counters and its stop and gives it the next generation; destroy removes it and frees
every buffer that it owns; where it serves a job, both end the job first (R307).
Restart of a stopped queue that is not quarantined: the uncommitted ring commands are fetched again, HEAD and SEQ stepping
back over them, and a stream's commands stand fetched again from its resume point; with MODE 1 the failed ring command
counts as committed, and what stands behind it is fetched again. One that runs, one in quarantine, and a skip inside a
stream answer 0x080C (R308; log entry 31: what a restart does to the commands between is the model's choice). -/
def Obligations.QueueRequests : Prop :=
  (∀ (s : State) (fn : Nat) (m : MboxMsg), AtHead s fn m 1 1 →
    let part := requestPart s fn m.bytes
    let d := slice m.bytes 64 64
    let free := firstFree (FMap.has s.queues) (dnum s (0x4000 + part) 2) (dnum s (0x4000 + part) 3)
    ((requestPartOk fn m.bytes = false ∨ field m.bytes 1 1 ≠ 0) → Runs (.queueCreate fn) s fun t =>
      Answered s t fn m 0x0301 ∧ t.queues = s.queues)
    ∧ (requestPartOk fn m.bytes = true → field m.bytes 1 1 = 0 →
      (dnum s (fnIndex fn) 2 ≤ dnum s (fnIndex fn) 3 → Runs (.queueCreate fn) s fun t => Answered s t fn m 0x0802 ∧ t.queues = s.queues)
      ∧ (dnum s (fnIndex fn) 3 < dnum s (fnIndex fn) 2 → free = none → Runs (.queueCreate fn) s fun t =>
          Answered s t fn m 0x0802 ∧ t.queues = s.queues)
      ∧ ∀ q, dnum s (fnIndex fn) 3 < dnum s (fnIndex fn) 2 → free = some q →
        (descriptorOk fn d = false → Runs (.queueCreate fn) s fun t => Answered s t fn m 0x080E ∧ t.queues = s.queues)
        ∧ (descriptorOk fn d = true → Runs (.queueCreate fn) s fun t => Answered s t fn m 0
          ∧ ((mboxAt t fn).held.getLast?).map (fun r => field r.bytes 8 4) = some (q % 2 ^ 32)
          ∧ (∀ p, p ≠ q → queueAt t p = queueAt s p) ∧ Counted s t (0x4000 + part) 10 1 ∧ Counted s t (fnIndex fn) 3 1
          ∧ ∃ Q, queueAt t q = some Q ∧ Q.part = part ∧ Q.fn = fn ∧ Q.ringBase = field d 0 8 ∧ Q.cplBase = field d 8 8
            ∧ Q.slots = field d 16 4 ∧ Q.ringHbm = bit (field d 20 1) 0 ∧ Q.cplHbm = bit (field d 20 1) 1 ∧ Q.vector = field d 21 1
            ∧ Q.page = (firstFree (fun i => (pageQueue s fn i).isSome) 0 8192).getD 0
            ∧ Q.tail = 0 ∧ Q.head = 0 ∧ Q.cmds = [] ∧ Q.stopped = false ∧ Q.job = none)))
  ∧ (∀ (s : State) (fn : Nat) (m : MboxMsg), queueRequestStatus s fn m.bytes 1 ≠ 0 →
    let refused (t : State) : Prop := Answered s t fn m (queueRequestStatus s fn m.bytes 1) ∧ t.queues = s.queues
    (AtHead s fn m 1 2 → Runs (.queueDestroy fn) s refused) ∧ (AtHead s fn m 1 3 → Runs (.queueReset fn) s refused)
    ∧ (AtHead s fn m 1 4 → Runs (.queueRestart fn) s refused))
  ∧ (∀ (s : State) (fn : Nat) (m : MboxMsg) (q : Nat) (Q : Queue), q = field m.bytes 8 2 → queueAt s q = some Q →
    field m.bytes 1 1 ≤ 1 → requestPartOk fn m.bytes = true → field m.bytes 0 1 ≠ 5 → (Q.part ≠ requestPart s fn m.bytes ∨ Q.fn ≠ fn) →
    queueRequestStatus s fn m.bytes 1 = 0x0803)
  ∧ (∀ (s : State) (fn : Nat) (m : MboxMsg) (q : Nat) (Q : Queue), q = field m.bytes 8 2 → queueAt s q = some Q →
    queueRequestStatus s fn m.bytes 1 = 0 →
    (Q.job = none → AtHead s fn m 1 3 → Runs (.queueReset fn) s fun t => Answered s t fn m 0
        ∧ ∃ Q', queueAt t q = some Q' ∧ Q'.cmds = [] ∧ Q'.runs = [] ∧ Q'.window = none ∧ Q'.laterWindows = []
          ∧ Q'.gen = (Q.gen + 1) % 65536
          ∧ Q'.head = 0 ∧ Q'.tail = 0 ∧ Q'.committed = 0 ∧ Q'.expected = 0 ∧ Q'.status = 0 ∧ Q'.stopped = false
          ∧ Q'.ringBase = Q.ringBase ∧ Q'.slots = Q.slots)
    ∧ (∀ j J, Q.job = some j → jobAt s j = some J → q ∈ J.roles → AtHead s fn m 1 3 → Runs (.queueReset fn) s fun t =>
        AnsweredLast s t fn m 0 ∧ jobAt t j = none ∧ ∃ Q', queueAt t q = some Q' ∧ Q'.cmds = [] ∧ Q'.runs = [] ∧ Q'.job = none)
    ∧ (AtHead s fn m 1 2 → Runs (.queueDestroy fn) s fun t => AnsweredLast s t fn m 0 ∧ queueAt t q = none
        ∧ (∀ key b, FMap.get? t.bufs key = some b → b.ownerQ = some q → b.freed = true)
        ∧ ∀ j J, Q.job = some j → jobAt s j = some J → jobAt t j = none))
  ∧ ∀ (s : State) (fn : Nat) (m : MboxMsg) (q : Nat) (Q : Queue), AtHead s fn m 1 4 → q = field m.bytes 8 2 → queueAt s q = some Q →
    queueRequestStatus s fn m.bytes 1 = 0 →
    let skip := decide (field m.bytes 1 1 = 1)
    let failed := Q.cmds.find? Cmd.failed
    let inStream := (Q.cmds.head?.any fun c => c.stream.isSome) || failed.any fun c => c.stream.isSome
    let drops := Q.cmds.filter fun c => c.stream.isNone
    ((Q.stopped = false ∨ Q.quarantined = true ∨ (skip = true ∧ inStream = true)) →
      Runs (.queueRestart fn) s fun t => Answered s t fn m 0x080C ∧ t.queues = s.queues)
    ∧ (Q.stopped = true → Q.quarantined = false → (skip = false ∨ (failed = none ∧ inStream = false)) →
        Runs (.queueRestart fn) s fun t => Answered s t fn m 0
          ∧ ∃ Q', queueAt t q = some Q' ∧ Q'.stopped = false ∧ Q'.stopAt = none ∧ Q'.committed = Q.committed ∧ Q'.runs = Q.runs
            ∧ Q'.cmds.map Cmd.uid = (Q.cmds.filter fun c => c.stream.isSome).map Cmd.uid
            ∧ (∀ c ∈ Q'.cmds, c.state = .fetched ∧ c.stream.isSome = true)
            ∧ (Q.runs = [] → Q'.window = none ∧ Q'.laterWindows = [])
            ∧ Q'.head = (Q.head + 2 ^ 32 - ringRecords drops) % 2 ^ 32
            ∧ Q'.expected = (Q.expected + 2 ^ 32 - drops.length) % 2 ^ 32)
    ∧ ∀ f, Q.stopped = true → Q.quarantined = false → skip = true → inStream = false → failed = some f →
        let before := Q.cmds.takeWhile fun c => c.uid ≠ f.uid
        let later := Q.cmds.drop (before.length + 1)
        Runs (.queueRestart fn) s fun t => Answered s t fn m 0 ∧ (∀ p, p ≠ q → queueAt t p = queueAt s p)
          ∧ queueAt t q = some { Q with
              stopped := false, stopAt := none, cmds := before
              head := (Q.head + 2 ^ 32 - ringRecords later) % 2 ^ 32
              expected := (Q.expected + 2 ^ 32 - later.length) % 2 ^ 32
              committed := if before.isEmpty then f.seq else Q.committed }

/-- Release of a quarantine is accepted from the PF only, and a VF gets 0x0808. It clears the quarantine, STATUS bit 17, and
the offence history; the queue stays stopped, fetching nothing, until a restart or a reset, which now run it again
(R309). -/
def Obligations.QuarantineRelease : Prop :=
  ∀ (s : State) (fn : Nat) (m : MboxMsg) (q : Nat) (Q : Queue), AtHead s fn m 1 5 → q = field m.bytes 8 2 → queueAt s q = some Q →
    field m.bytes 1 1 = 0 →
    (fn ≠ 0 → field m.bytes 2 1 = 0 → Runs (.releaseQuarantine fn) s fun t => Answered s t fn m 0x0808 ∧ t.queues = s.queues)
    ∧ (fn = 0 → field m.bytes 2 1 = Q.part → Q.part < 32 → Runs (.releaseQuarantine fn) s fun t => Answered s t fn m 0
      ∧ queueAt t q = some { Q with quarantined := false, offences := [] } ∧ (∀ p, p ≠ q → queueAt t p = queueAt s p)
      ∧ (Q.stopped = true → (Runs (.commandStart q) t fun u => u = t) ∧ (∀ records, Runs (.ringCommandFetch q records) t fun u => u = t)
        ∧ (restartQueue t q false).2 = 0 ∧ (queueAt (restartQueue t q false).1 q).map Queue.stopped = some false))

/-! ## Jobs and cores -/

/-- Submission: a full audit log refuses it with 0x0711; a check that fails gives its status and makes no job; one that passes
every check makes the job that the request and the container give, its queues serving it. Each decision but the first is
one audit record (R310, R311, R366, R367).
End of a job by its function: the job is gone, its queues are empty and serve no job, its sync objects are free, it holds no
core but those being zeroed, and the request is answered with 0x0000; with a MODE above 1, 0x0301; another function's, or a
job that is not there, 0x0803 (R311). -/
def Obligations.JobSubmitAndEnd : Prop :=
  (∀ (s : State) (fn : Nat) (m : MboxMsg) (container : List Byte), AtHead s fn m 2 1 →
    let b := m.bytes
    let k := container.take (field b 48 8)
    let p := popMessage s fn m
    let part := submitPart p fn (qRoles b)
    (auditFull s = true → Runs (.jobSubmit fn container) s fun t => Answered s t fn m 0x0711 ∧ t.jobs = s.jobs ∧ t.queues = s.queues)
    ∧ (∀ st, auditFull s = false → submitChecks p fn part b k = .error st → st < 2 ^ 16 → Runs (.jobSubmit fn container) s fun t =>
        Answered s t fn m st ∧ t.jobs = s.jobs ∧ t.queues = s.queues
          ∧ dnum t 0x8300 1 = min (dnum s 0x8300 1 + 1) (2 ^ 64 - 1))
    ∧ ∀ rings, auditFull s = false → submitChecks p fn part b k = .ok rings → Runs (.jobSubmit fn container) s fun t =>
        Answered s t fn m 0
          ∧ (∃ J, jobAt t (field b 8 8) = some J ∧ J.part = part ∧ J.fn = fn ∧ J.priority = field b 1 1
              ∧ J.seed = BitVec.ofNat 64 (field b 16 8) ∧ J.batch = field b 24 8 ∧ J.updates = field b 32 6
              ∧ J.modules = field b 66 2 + 1 ∧ J.moduleIdx = field b 64 2 ∧ J.roles = qRoles b ∧ J.rings = rings
              ∧ J.digest = sha384 k ∧ J.grant = .waiting ∧ J.nf = 0)
          ∧ (∀ q ∈ qRoles b, ∀ Q, queueAt t q = some Q → Q.job = some (field b 8 8))
          ∧ (∀ j, j ≠ field b 8 8 → jobAt t j = jobAt s j)
          ∧ dnum t 0x8300 1 = min (dnum s 0x8300 1 + 1) (2 ^ 64 - 1))
  ∧ (∀ (s : State) (fn : Nat) (m : MboxMsg), AtHead s fn m 2 2 → let j := field m.bytes 8 8
    (1 < field m.bytes 38 2 → Runs (.jobEnd fn) s fun t => Answered s t fn m 0x0301 ∧ t.jobs = s.jobs ∧ t.queues = s.queues)
    ∧ (field m.bytes 38 2 ≤ 1 → ((jobAt s j).any fun J => J.fn = fn) = false → Runs (.jobEnd fn) s fun t =>
        Answered s t fn m 0x0803 ∧ t.jobs = s.jobs ∧ t.queues = s.queues)
    ∧ ∀ J, field m.bytes 38 2 ≤ 1 → jobAt s j = some J → J.fn = fn → Runs (.jobEnd fn) s fun t =>
      AnsweredLast s t fn m 0 ∧ jobAt t j = none
        ∧ (∀ q ∈ J.roles, ∀ Q, queueAt t q = some Q → Q.job = none ∧ Q.cmds = [])
        ∧ (∀ o O, syncAt t o = some O → O.job ≠ j) ∧ (∀ k, (coreAt t k).holder = some j → (coreAt t k).zeroing = true)
        ∧ ∀ i, i ≠ j → (jobAt t i).isSome = (jobAt s i).isSome)

/-- The cores of a waiting job, free and not wanted by a waiting job of higher rank, are granted together: the job holds each
of them, its queues go on, and it runs, or first restores what a pre-emption saved. A core that is not free, or a job of
higher rank that waits for one of them, keeps it waiting (R312, R313).
Pre-emption of a job that holds its cores, by a waiting job of higher rank that wants one: it yields from now on, or saves
at once; when the yield wait bound expires every queue holds and the save begins, but where a droop throttle holds a kill
back (R73); when the save is done its cores are zeroed (R314).
The zeroing of a core ends: nobody holds it, its stationary buffers, stationary registers (log entry 139) and window are
empty, and the core-store buffers of the job that held it read 0; with the last of its cores the job waits again (R314). The
restore ends: the saved contents stand in their buffers again and the job holds its cores. An event for a job or a core
that is not at that point changes nothing. -/
def Obligations.CoreScheduling : Prop :=
  (∀ (s : State) (j : Nat), jobAt s j = none → Runs (.coreGrant j) s (· = s) ∧ Runs (.preEmption j) s (· = s)
      ∧ Runs (.yieldWaitBoundExpiry j) s (· = s) ∧ Runs (.saveDone j) s (· = s) ∧ Runs (.restoreDone j) s (· = s))
  ∧ (∀ (s : State) (j : Nat) (J : Job), jobAt s j = some J →
      (J.grant ≠ .waiting → Runs (.coreGrant j) s (· = s)) ∧ (J.grant ≠ .holding → Runs (.preEmption j) s (· = s))
      ∧ (J.grant ≠ .yielding → Runs (.yieldWaitBoundExpiry j) s (· = s)) ∧ (J.grant ≠ .saving → Runs (.saveDone j) s (· = s))
      ∧ (J.grant ≠ .restoring → Runs (.restoreDone j) s (· = s)))
  ∧ (∀ (s : State) (j : Nat) (J : Job), jobAt s j = some J → J.grant = .waiting →
    (J.coreSet.all (coreFree s) = true → blocked s j J = false → Runs (.coreGrant j) s fun t =>
      jobAt t j = some { J with grant := if J.saved.isEmpty then .holding else .restoring }
        ∧ (∀ k ∈ J.coreSet, (coreAt t k).holder = some j) ∧ (∀ k, k ∉ J.coreSet → (coreAt t k).holder = (coreAt s k).holder)
        ∧ (∀ q ∈ J.roles, ∀ Q, queueAt t q = some Q → Q.held = false ∧ Q.waitingSince = none)
        ∧ (∀ i, i ≠ j → jobAt t i = jobAt s i) ∧ t.now = s.now)
    ∧ ((∃ k ∈ J.coreSet, coreFree s k = false) → Runs (.coreGrant j) s (· = s))
    ∧ (∀ i I, (i, I) ∈ s.jobs → i ≠ j → I.grant = .waiting → (J.priority < I.priority ∨ (J.priority = I.priority ∧ i < j)) →
        (∃ k ∈ I.coreSet, k ∈ J.coreSet) → Runs (.coreGrant j) s (· = s)))
  ∧ (∀ (s : State) (j : Nat) (J : Job), jobAt s j = some J →
    (∀ i I, J.grant = .holding → (i, I) ∈ s.jobs → i ≠ j → I.grant = .waiting →
        (J.priority < I.priority ∨ (J.priority = I.priority ∧ i < j)) → (∃ k ∈ I.coreSet, k ∈ J.coreSet) →
        Runs (.preEmption j) s fun t => (∃ J', jobAt t j = some J' ∧ (J'.grant = .yielding ∨ J'.grant = .saving))
          ∧ ((∀ q ∈ J.roles, (queueAt s q).any atPoint = false) → eff s 0x2400 1 ≠ 0 →
              jobAt t j = some { J with grant := .yielding, yieldSince := s.now }))
    ∧ (J.grant = .holding →
        (∀ i I, (i, I) ∈ s.jobs → i ≠ j → I.grant = .waiting → outranks i I j J = true → ∀ k ∈ I.coreSet, k ∉ J.coreSet) →
        Runs (.preEmption j) s (· = s))
    ∧ (J.grant = .yielding → let now := max s.now (J.yieldSince + eff s 0x2400 1)
        Runs (.yieldWaitBoundExpiry j) s fun t => t.now = now
          ∧ ((∀ q ∈ J.roles, ∀ Q, queueAt s q = some Q → Q.job = some j ∧ throttledKill { s with now } Q = false) →
            (∃ q ∈ J.roles, (queueAt s q).any (fun Q => !Q.held) = true) →
            (∃ J', jobAt t j = some J' ∧ J'.grant = .saving) ∧ ∀ q ∈ J.roles, ∀ Q, queueAt t q = some Q → Q.held = true))
    ∧ (J.grant = .saving → Runs (.saveDone j) s fun t =>
        jobAt t j = some { J with grant := if J.coreSet.isEmpty then .waiting else .zeroing }
          ∧ (∀ k ∈ J.coreSet, (coreAt t k).zeroing = true) ∧ t.bufs = s.bufs))
  ∧ (∀ (s : State) (core : Nat), (coreAt s core).zeroing = false → Runs (.coreZeroingDone core) s (· = s))
  ∧ (∀ (s : State) (core : Nat), (coreAt s core).zeroing = true → Runs (.coreZeroingDone core) s fun t =>
      OnlyCore { s with bufs := t.bufs, jobs := t.jobs } t core
        ∧ (coreAt t core).zeroing = false ∧ (coreAt t core).holder = none ∧ (coreAt t core).stationary = [] ∧ (coreAt t core).window = []
        ∧ (coreAt t core).active = [] ∧ (coreAt t core).shadow = []
        ∧ (∀ key b, FMap.get? s.bufs key = some b → FMap.get? t.bufs key
            = some (if b.tier = 0 ∧ b.core = core ∧ ((coreAt s core).holder = none ∨ b.job = (coreAt s core).holder) then { b with data := [] } else b))
        ∧ ∀ j J, (coreAt s core).holder = some j → jobAt s j = some J → J.grant = .zeroing →
            (∀ k ∈ J.coreSet, k ≠ core → (coreAt s k).zeroing = false) → jobAt t j = some { J with grant := .waiting })
  ∧ ∀ (s : State) (j : Nat) (J : Job), jobAt s j = some J → J.grant = .restoring →
    let saved := J.saved.flatMap Prod.snd
    Runs (.restoreDone j) s fun t => jobAt t j = some { J with grant := .holding, saved := [] }
      ∧ (∀ k, (∀ e ∈ saved, e.1 ≠ k) → FMap.get? t.bufs k = FMap.get? s.bufs k)
      ∧ ∀ e ∈ saved, (∀ f ∈ saved, f.1 = e.1 → f.2 = e.2) →
          FMap.get? t.bufs e.1 = (FMap.get? s.bufs e.1).map fun b => { b with data := e.2 }

/-! ## Placement -/

/-- A placement request whose turn it is (R158) is checked and follows Table 6.8a. CLASS above 5 answers 0x0301, a queue of
another function 0x0803, the 257th outstanding request 0x068D (log entry 136: before the handle is looked at), a handle that
the queue may not name its own status, an object outside the capacity tier 0x0682 (R156).
Promote of an absent object charges the copy and starts it, or answers 0x0681, or 0x0685 for a channel out of service; of
a resident or pinned one it completes; evict of a resident one starts the eviction; pin and unpin change between resident
and pinned; the others complete with 0x0689, 0x068A or 0x068C. While a copy is under way a request of the same kind joins
it and the others wait; a promote that meets an eviction whose copy home has not begun cancels it, and its evictors
complete with 0x0683 (R157, R159). A change takes effect in the beat after its cause.
The end of the copy, the start and the end of the write-back follow the same table: the requests under way complete with
0x0000, or with 0x0685 where a channel is out of service; an object that is not at that point does not change. -/
def Obligations.Placement : Prop :=
  (∀ (s : State) (fn op : Nat) (m : MboxMsg), AtHead s fn m 3 op → 1 ≤ op → op ≤ 4 →
    let q := field m.bytes 8 2
    let h := field m.bytes 4 4
    let cmd : Instr := match op with | 1 => .promote fn | 2 => .evict fn | 3 => .pin fn | _ => .unpin fn
    let turn := !earlierHead s fn m (fun x => field x.bytes 8 2) (placeObject s)
    (turn = false → Runs cmd s (· = s))
    ∧ (turn = true → 5 < field m.bytes 1 1 → Runs cmd s fun t => Answered s t fn m 0x0301 ∧ t.queues = s.queues ∧ t.tiered = s.tiered)
    ∧ (turn = true → field m.bytes 1 1 ≤ 5 → ((queueAt s q).all fun Q => Q.fn ≠ fn) = true →
        Runs cmd s fun t => Answered s t fn m 0x0803 ∧ t.queues = s.queues ∧ t.tiered = s.tiered)
    ∧ ∀ Q, turn = true → field m.bytes 1 1 ≤ 5 → queueAt s q = some Q → Q.fn = fn →
      (256 ≤ dnum s (0x5000 + Q.part) 8 → Runs cmd s fun t => Answered s t fn m 0x068D ∧ t.queues = s.queues ∧ t.tiered = s.tiered)
      ∧ (dnum s (0x5000 + Q.part) 8 < 256 → handleStatus s q Q [h] ≠ 0 → Runs cmd s fun t =>
          Answered s t fn m (handleStatus s q Q [h]) ∧ t.tiered = s.tiered
            ∧ (handleStatus s q Q [h] ≠ 0x0211 → t.queues = s.queues)
            ∧ (handleStatus s q Q [h] = 0x0211 → (queueAt t q).map Queue.offences = some ((s.now :: Q.offences).take 16)))
      ∧ (dnum s (0x5000 + Q.part) 8 < 256 → handleStatus s q Q [h] = 0 → ((bufAt s Q.part h).any fun b => b.tier = 2) = false →
          Runs cmd s fun t => Answered s t fn m 0x0682 ∧ t.queues = s.queues ∧ t.tiered = s.tiered))
  ∧ (∀ (s : State) (fn op q h : Nat) (m : MboxMsg) (Q : Queue), AtHead s fn m 3 op → q = field m.bytes 8 2 → h = field m.bytes 4 4 →
    earlierHead s fn m (fun x => field x.bytes 8 2) (placeObject s) = false →
    field m.bytes 1 1 ≤ 5 → queueAt s q = some Q → Q.fn = fn → handleStatus s q Q [h] = 0 →
    ((bufAt s Q.part h).any fun b => b.tier = 2) = true → Q.part < 32 → dnum s (0x5000 + Q.part) 8 < 256 →
    let key := bufKey Q.part (hIndex h)
    let T := tieredAt s key
    let frame (t : State) : Prop := (∀ k, k ≠ key → tieredAt t k = tieredAt s k) ∧ (tieredAt t key).objClass = field m.bytes 1 1
      ∧ t = { s with mbx := t.mbx, tiered := t.tiered, dict := t.dict, parts := t.parts, fresh := t.fresh }
    let stays (t : State) : Prop := (tieredAt t key).state = T.state ∧ (tieredAt t key).changed = T.changed ∧ frame t
    let turns (st : TierState) (t : State) : Prop :=
      (tieredAt t key).state = st ∧ (tieredAt t key).changed = max s.now T.changed + 1 ∧ frame t
    let waits (t : State) : Prop := Consumed s t fn m ∧ (mboxAt t fn).held = (mboxAt s fn).held
    let answers (st : Status) (t : State) : Prop := Answered s t fn m st ∧ stays t
    let joins (t : State) : Prop := waits t ∧ stays t ∧ (tieredAt t key).waiters = T.waiters
      ∧ (tieredAt t key).current.length = T.current.length + 1
    let queues (t : State) : Prop := waits t ∧ stays t ∧ (tieredAt t key).current = T.current
      ∧ (tieredAt t key).waiters.length = T.waiters.length + 1
    (T.waiters = [] →
      (op = 1 → (T.state = .resident ∨ T.state = .pinned) → Runs (.promote fn) s (answers 0))
      ∧ (op = 1 → T.state = .absent → mayCharge s Q.part fn 1 (copyCharge s key) = false → Runs (.promote fn) s (answers 0x0681))
      ∧ (op = 1 → T.state = .absent → mayCharge s Q.part fn 1 (copyCharge s key) = true → Runs (.promote fn) s fun t =>
          (waits t ∧ turns .promoting t ∧ charged t Q.part fn 1 = charged s Q.part fn 1 + copyCharge s key
              ∧ copyOut s Q.part key (tieredAt t key).copyAddr = false)
            ∨ (answers 0x0685 t ∧ ¬(s.rel.lpddrOut = [] ∧ s.rel.hbmOut = [])))
      ∧ (op = 2 → T.state = .resident → Runs (.evict fn) s fun t => waits t ∧ turns .evicting t)
      ∧ (op = 2 → T.state = .absent → Runs (.evict fn) s (answers 0))
      ∧ (op = 2 → T.state = .pinned → Runs (.evict fn) s (answers 0x068C))
      ∧ (op = 3 → T.state = .resident → Runs (.pin fn) s fun t => Answered s t fn m 0 ∧ turns .pinned t)
      ∧ (op = 3 → T.state = .pinned → Runs (.pin fn) s (answers 0))
      ∧ (op = 3 → T.state = .absent → Runs (.pin fn) s (answers 0x0689))
      ∧ (op = 4 → T.state = .pinned → Runs (.unpin fn) s fun t => Answered s t fn m 0 ∧ turns .resident t)
      ∧ (op = 4 → T.state ∈ [.absent, .resident] → Runs (.unpin fn) s (answers 0x068A)))
    ∧ (T.state = .promoting → (op = 1 → Runs (.promote fn) s joins) ∧ (op = 2 → Runs (.evict fn) s queues)
        ∧ (op = 3 → Runs (.pin fn) s queues) ∧ (op = 4 → Runs (.unpin fn) s queues))
    ∧ (T.state = .evicting → (op = 2 → Runs (.evict fn) s joins) ∧ (op = 3 → Runs (.pin fn) s queues)
        ∧ (op = 4 → Runs (.unpin fn) s queues) ∧ (op = 1 → T.copying = true → Runs (.promote fn) s queues)
        ∧ (op = 1 → T.copying = false → T.charged ≠ fn → mayCharge s Q.part fn 1 (copyCharge s key) = false →
            Runs (.promote fn) s (answers 0x0681))
        ∧ (op = 1 → T.copying = false → (T.charged = fn ∨ mayCharge s Q.part fn 1 (copyCharge s key) = true) →
            Runs (.promote fn) s fun t => Consumed s t fn m
              ∧ (∃ y ∈ (mboxAt t fn).held, y.cls = 3 ∧ y.seq = m.seq ∧ field y.bytes 4 2 = 0)
              ∧ (∀ x ∈ T.current, ∃ y ∈ (mboxAt t x.fn).held, y.cls = 3 ∧ y.seq = x.seq ∧ field y.bytes 4 2 = 0x0683)
              ∧ (T.waiters = [] → turns .resident t ∧ (tieredAt t key).charged = fn))))
  ∧ ∀ (s : State) (part index : Nat), let key := bufKey part index
    let T := tieredAt s key
    let others (t : State) : Prop := (∀ k, k ≠ key → tieredAt t k = tieredAt s k) ∧ t.queues = s.queues ∧ t.jobs = s.jobs
    let complete (st : Status) (t : State) : Prop :=
      ∀ r ∈ T.current, ∃ x ∈ (mboxAt t r.fn).held, x.cls = 3 ∧ x.seq = r.seq ∧ field x.bytes 4 2 = st
    (T.state ≠ .promoting → Runs (.promoteCopyDone part index) s (· = s))
    ∧ ((T.state ≠ .evicting ∨ T.copying = true ∨ copyUsed s key = true) → Runs (.writeBackStart part index) s (· = s))
    ∧ ((T.state ≠ .evicting ∨ T.copying = false) → Runs (.writeBackDone part index) s (· = s))
    ∧ ∀ b, FMap.get? s.bufs key = some b →
      (T.state = .promoting → Runs (.promoteCopyDone part index) s fun t => others t ∧ t.bufs = s.bufs ∧ complete 0 t
        ∧ (T.waiters = [] → (tieredAt t key).state = .resident ∧ (tieredAt t key).copy = b.data ∧ (tieredAt t key).dirty = false
            ∧ (tieredAt t key).current = [] ∧ (tieredAt t key).changed = max s.now T.changed + 1))
      ∧ (T.state = .evicting → T.copying = false → copyUsed s key = false → T.dirty = true →
        (copyOut s part key T.copyAddr = false → Runs (.writeBackStart part index) s fun t => t = { s with tiered := t.tiered } ∧ others t
          ∧ (tieredAt t key).state = .evicting ∧ (tieredAt t key).copying = true ∧ (tieredAt t key).copy = T.copy)
        ∧ (copyOut s part key T.copyAddr = true → Runs (.writeBackStart part index) s fun t => others t ∧ t.bufs = s.bufs
          ∧ complete 0x0685 t ∧ (T.waiters = [] → (tieredAt t key).state = .resident ∧ (tieredAt t key).dirty = true
              ∧ (tieredAt t key).copy = T.copy)))
      ∧ (T.state = .evicting → T.copying = false → copyUsed s key = false → T.dirty = false →
        Runs (.writeBackStart part index) s fun t => others t ∧ t.bufs = s.bufs ∧ complete 0 t
          ∧ (T.waiters = [] → (tieredAt t key).state = .absent))
      ∧ (T.state = .evicting → T.copying = true → Runs (.writeBackDone part index) s fun t => others t ∧ complete 0 t
          ∧ (T.waiters = [] → (tieredAt t key).state = .absent) ∧ FMap.get? t.bufs key = some { b with data := T.copy }
          ∧ ∀ k, k ≠ key → FMap.get? t.bufs k = FMap.get? s.bufs k)

/-! ## Reeds -/

/-- A reed request on an entry that an earlier request holds, or that came after another function's request on the entry,
waits (R202); one whose reserved fields are not 0 answers 0x0102.
Register writes the contract and the location of a new entry, relocate a new location, remove drops an unbound entry;
each check that fails gives its status and changes no entry (R203). Remove key frees the slot of a key that no entry
names, and its KEY_ID is current no longer; a key that the function does not name answers 0x0111 (R196). A key registration
whose message breaks R195 answers 0x0102; else its signature goes to the leader's engine. -/
def Obligations.ReedPool : Prop :=
  (∀ (s : State) (fn op : Nat) (m : MboxMsg) (image : List Byte), AtHead s fn m 4 op → 1 ≤ op → op ≤ 3 →
    let cmd : Instr := match op with | 1 => .register fn image | 2 => .relocate fn image | _ => .remove fn
    let waits := entryLocked s (reedPart s fn) (dIndex m.bytes) || earlierHead s fn m (fun x => dQueue x.bytes) (reedObject s)
    (waits = true → Runs cmd s (· = s))
    ∧ (waits = false → reedMessageOk m.bytes = false → Runs cmd s fun t => Answered s t fn m 0x0102 ∧ t.dirs = s.dirs))
  ∧ (∀ (s : State) (fn : Nat) (m : MboxMsg) (image : List Byte),
    let b := m.bytes
    let part := reedPart s fn
    let im := imageAt s part (dLocation b) (dHandle b) image
    let key := dirKey part (dIndex b)
    let buf := imageBufStatus s fn part (dLocation b) (dHandle b)
    let others (t : State) : Prop := (∀ k, k ≠ key → FMap.get? t.dirs k = FMap.get? s.dirs k) ∧ t = { s with mbx := t.mbx, dirs := t.dirs }
    let refused (st : Status) (t : State) : Prop := Answered s t fn m st ∧ t.dirs = s.dirs
    reedMessageOk b = true → entryLocked s part (dIndex b) = false →
    earlierHead s fn m (fun x => dQueue x.bytes) (reedObject s) = false →
      (AtHead s fn m 4 1 → registerStatus s fn part b im = 0 → Runs (.register fn image) s fun t => Answered s t fn m 0 ∧ others t
        ∧ ∃ e, FMap.get? t.dirs key = some e ∧ e.reedId = field (imContract im) 8 8 ∧ e.version = field (imContract im) 68 4
          ∧ e.location = dLocation b ∧ e.rank = coRank (imContract im) ∧ e.keyId = field (imContract im) 64 4
          ∧ e.owner = field (imContract im) 4 4 ∧ e.placement = coPlacement (imContract im) ∧ e.contract = imContract im
          ∧ e.addr = (if dLocation b ≤ 2 then 0 else field b 16 8) ∧ e.handle = (if dLocation b ≤ 2 then dHandle b else 0)
          ∧ e.baseGen = baseGen s part ∧ e.imageBytes = imBytes im ∧ e.purpose = coPurpose (imContract im)
          ∧ e.layers = coLayers (imContract im) ∧ e.bound = false)
      ∧ (AtHead s fn m 4 1 → registerStatus s fn part b im ≠ 0 →
          Runs (.register fn image) s (refused (registerStatus s fn part b im)))
      ∧ (AtHead s fn m 4 2 → dirAt s part (dIndex b) = none → Runs (.relocate fn image) s (refused 0x0101))
      ∧ (AtHead s fn m 4 3 → dirAt s part (dIndex b) = none → Runs (.remove fn) s (refused 0x0101))
      ∧ ∀ e, dirAt s part (dIndex b) = some e →
        let agrees := placementAllows e.placement (dLocation b) && reedImageOk im (imageRoom s part (dLocation b) (dHandle b))
          && decide (imContract im = e.contract)
        (AtHead s fn m 4 2 → e.baseGen = baseGen s part → e.bound = false → buf = 0 → agrees = true →
          Runs (.relocate fn image) s fun t => Answered s t fn m 0 ∧ others t
            ∧ FMap.get? t.dirs key = some { e with
                location := dLocation b, header := slice im 0 64
                addr := if dLocation b ≤ 2 then 0 else field b 16 8, handle := if dLocation b ≤ 2 then dHandle b else 0 })
        ∧ (AtHead s fn m 4 2 → e.baseGen ≠ baseGen s part → Runs (.relocate fn image) s (refused 0x0107))
        ∧ (AtHead s fn m 4 2 → e.baseGen = baseGen s part → e.bound = true → Runs (.relocate fn image) s (refused 0x0109))
        ∧ (AtHead s fn m 4 2 → e.baseGen = baseGen s part → e.bound = false → buf ≠ 0 → Runs (.relocate fn image) s (refused buf))
        ∧ (AtHead s fn m 4 2 → e.baseGen = baseGen s part → e.bound = false → buf = 0 → agrees = false →
            Runs (.relocate fn image) s (refused 0x0102))
        ∧ (AtHead s fn m 4 3 → e.bound = false → Runs (.remove fn) s fun t => Answered s t fn m 0 ∧ others t ∧ FMap.get? t.dirs key = none)
        ∧ (AtHead s fn m 4 3 → e.bound = true → Runs (.remove fn) s (refused 0x0109)))
  ∧ (∀ (s : State) (fn : Nat) (m : MboxMsg), AtHead s fn m 4 9 → let id := field m.bytes 28 4
      let slot := id % 2 ^ 14
      let named (k : KeyRec) : Bool := s.dirs.any fun e => e.1 / 2 ^ 22 = k.part && e.2.keyId = id
      (reedMessageOk m.bytes = false → Runs (.removeKey fn) s fun t => Answered s t fn m 0x0102 ∧ t.keys = s.keys)
      ∧ (reedMessageOk m.bytes = true → ((keyFor s fn id).all fun k => fn ≠ 0 && k.part ≠ reedPart s fn) = true →
          Runs (.removeKey fn) s fun t => Answered s t fn m 0x0111 ∧ t.keys = s.keys)
      ∧ ∀ k, reedMessageOk m.bytes = true → keyFor s fn id = some k → (fn = 0 ∨ k.part = reedPart s fn) →
        (named k = true → Runs (.removeKey fn) s fun t => Answered s t fn m 0x010C ∧ t.keys = s.keys)
        ∧ (named k = false → Runs (.removeKey fn) s fun t => Answered s t fn m 0
          ∧ FMap.get? t.keys slot = none ∧ (∀ n, n ≠ slot → FMap.get? t.keys n = FMap.get? s.keys n)
          ∧ FMap.getD t.keyGens slot 0 = (FMap.getD s.keyGens slot 0 + 1) % 2 ^ 18 ∧ keyRecord t id = none
          ∧ t = { s with mbx := t.mbx, keys := t.keys, keyGens := t.keyGens, dict := t.dict }))
  ∧ ∀ (s : State) (fn : Nat) (m : MboxMsg), AtHead s fn m 4 8 → let b := m.bytes
    (keyMessageOk b = false → Runs (.keyRegistration fn) s fun t => Answered s t fn m 0x0102 ∧ t = { s with mbx := t.mbx })
    ∧ (keyMessageOk b = true → Runs (.keyRegistration fn) s fun t => Consumed s t fn m
        ∧ t = { s with mbx := t.mbx, sec := t.sec } ∧ (mboxAt t fn).held = (mboxAt s fn).held
        ∧ engineAt t (leader s) = (engineAt s (leader s)).submit s.now {
            op := .verify (decodeKey (slice b 8 96)) (sha384 (slice b 0 288)) (beNat (slice b 288 48)) (beNat (slice b 336 48))
            src := .reedKey, arrived := s.now, use := .keyVerify fn { message := b, seq := m.seq, part := reedPart s fn } }
        ∧ (∀ g, g ≠ leader s → engineAt t g = engineAt s g))

/-- A serve bind that passes R208 takes its context, charges the working copy and streams the blob; the end of the stream
binds the context where the tag checks, and frees it with 0x010A, or 0x0112 for a read that failed, or 0x0107 for a base
that has gone, where it does not. A train bind binds at once (its duration is that of R210). Unbind waits for the last
holder, then frees the context and answers. Seal writes the image that R211 gives and counts the seal (R208 to R211). A
request on a queue of another function answers 0x0803; each check that fails gives its status and takes no context; a
request whose entry is locked, or whose turn has not come, waits, and so does a seal whose context a command holds
(R202). -/
def Obligations.ReedBinding : Prop :=
  (∀ (s : State) (fn op : Nat) (m : MboxMsg) (image : List Byte), AtHead s fn m 4 op → 4 ≤ op → op ≤ 7 →
    let cmd : Instr := match op with | 4 => .serveBind fn image | 5 => .trainBind fn | 6 => .unbind fn | _ => .seal fn
    let waits := entryLocked s (requestReedPart s fn m.bytes) (dIndex m.bytes)
      || earlierHead s fn m (fun x => dQueue x.bytes) (reedObject s)
    let held := decide (op = 7) && sealWaits s fn
    let refused (st : Status) (t : State) : Prop := Answered s t fn m st ∧ t = { s with mbx := t.mbx }
    ((waits = true ∨ held = true) → Runs cmd s (· = s))
    ∧ (waits = false → held = false → reedMessageOk m.bytes = false → Runs cmd s (refused 0x0102))
    ∧ (waits = false → held = false → reedMessageOk m.bytes = true → op ≠ 6 → reedQueue s fn m.bytes = none → Runs cmd s (refused 0x0803)))
  ∧ (∀ (s : State) (fn : Nat) (m : MboxMsg) (image : List Byte) (Q : Queue), reedMessageOk m.bytes = true → reedQueue s fn m.bytes = some Q →
    Q.part < 32 → entryLocked s Q.part (dIndex m.bytes) = false →
    earlierHead s fn m (fun x => dQueue x.bytes) (reedObject s) = false →
    let b := m.bytes
    let refused (st : Status) (t : State) : Prop := Answered s t fn m st ∧ t.ctxs = s.ctxs ∧ t.dirs = s.dirs
    (AtHead s fn m 4 4 → (bindStatus s Q b 0).1 ≠ 0 → Runs (.serveBind fn image) s (refused (bindStatus s Q b 0).1))
    ∧ (AtHead s fn m 4 5 → (bindStatus s Q b 1).1 ≠ 0 → Runs (.trainBind fn) s (refused (bindStatus s Q b 1).1))
    ∧ ∀ e ctx j J, dirAt s Q.part (dIndex b) = some e → chosenCtx s Q.part b = some ctx → Q.job = some j → jobAt s j = some J →
      let took (t : State) (x : Ctx) : Prop := FMap.get? t.ctxs ctx = some x ∧ x.part = Q.part ∧ x.dir = dIndex b ∧ x.job = j
        ∧ x.rank = e.rank ∧ x.invalid = false ∧ (∀ n, n ≠ ctx → FMap.get? t.ctxs n = FMap.get? s.ctxs n)
        ∧ (dirAt t Q.part (dIndex b)).map (fun e => (e.bound, e.context)) = some (true, ctx)
        ∧ t.bufs = s.bufs ∧ t.queues = s.queues ∧ t.jobs = s.jobs
      let im := imageAt s Q.part e.location e.handle image
      let imageOk := reedImageOk im none && decide (imContract im = e.contract)
      let size := charge64 (serveTargets e.rank (coTargets e.contract)).2
      let h := dHandle b
      let hs := handleStatus s (dQueue b) Q [h]
      let trainSt : Status := if hs ≠ 0 then hs
        else if !((bufAt s Q.part h).any fun x => x.tier ≠ 0) then 0x0204
        else if bufSize s Q.part h < 32 * e.layers then 0x0206
        else trainTableStatus s Q J (dQueue b) e.rank (coTargets e.contract)
          ((committed s (bufKey Q.part (hIndex h))).read 0 (32 * e.layers))
      (AtHead s fn m 4 4 → (bindStatus s Q b 0).1 = 0 →
        (mayCharge s Q.part J.fn 1 size = true → imageOk = true →
          Runs (.serveBind fn image) s fun t => Consumed s t fn m ∧ (mboxAt t fn).held = (mboxAt s fn).held
            ∧ charged t Q.part J.fn 1 = charged s Q.part J.fn 1 + size
            ∧ ∃ x, took t x ∧ x.state = .binding ∧ x.serve = true ∧ x.answer = some (fn, m.seq, messageTag 4 b))
        ∧ (mayCharge s Q.part J.fn 1 size = false → Runs (.serveBind fn image) s (refused 0x0681))
        ∧ (mayCharge s Q.part J.fn 1 size = true → imageOk = false → Runs (.serveBind fn image) s (refused 0x0102)))
      ∧ (AtHead s fn m 4 5 → (bindStatus s Q b 1).1 = 0 →
        (trainSt = 0 → Runs (.trainBind fn) s fun t => Answered s t fn m 0
            ∧ t.now = max s.now (m.arrived + 400 + 4 * e.layers)
            ∧ ∃ x, took t x ∧ x.state = .bound ∧ x.serve = false ∧ x.answer = none)
        ∧ (trainSt ≠ 0 → Runs (.trainBind fn) s (refused trainSt))))
  ∧ (∀ (s : State) (ctx : Nat) (blob : List Byte) (ok : Bool),
      ((FMap.get? s.ctxs ctx).all fun x => x.state ≠ .binding || (dirAt s x.part x.dir).isNone) = true →
      Runs (.serveBindComplete ctx blob ok) s (· = s))
  ∧ (∀ (s : State) (ctx : Nat) (x : Ctx) (e : DirEntry) (blob : List Byte), FMap.get? s.ctxs ctx = some x →
    x.state = .binding → x.part < 32 → dirAt s x.part x.dir = some e →
    let n := imBlobBytes e.header
    let data := if e.location ≤ 2 then (committed s (bufKey x.part (hIndex e.handle))).read (imBlobOff e.header) (n + 16)
      else slice blob 0 (n + 16)
    let plain := Gcm.open (((keyRecord s e.keyId).map KeyRec.key).getD []) (slice e.header 32 12) e.contract (data.take n) (data.drop n)
    let answers (st : Status) (t : State) : Prop := ∀ f seq tag, x.answer = some (f, seq, tag) →
      ∃ r, (mboxAt t f).held = (mboxAt s f).held ++ [r] ∧ r.cls = 4 ∧ r.seq = seq ∧ field r.bytes 4 2 = st
    let freed (st : Status) (t : State) : Prop := answers st t ∧ FMap.get? t.ctxs ctx = none
      ∧ (∀ k, k ≠ ctx → FMap.get? t.ctxs k = FMap.get? s.ctxs k)
      ∧ (e.context = ctx → (dirAt t x.part x.dir).map DirEntry.bound = some false)
    Runs (.serveBindComplete ctx blob false) s (freed 0x0112)
    ∧ (plain = none → Runs (.serveBindComplete ctx blob true) s (freed 0x010A))
    ∧ ∀ p, plain = some p →
      (e.baseGen ≠ baseGen s x.part → Runs (.serveBindComplete ctx blob true) s (freed 0x0107))
      ∧ (e.baseGen = baseGen s x.part → Runs (.serveBindComplete ctx blob true) s fun t => answers 0 t
        ∧ FMap.get? t.ctxs ctx = some { x with state := .bound, copy := Mem.write [] 0 p, answer := none }
        ∧ t = { s with ctxs := t.ctxs, dict := t.dict, mbx := t.mbx }))
  ∧ (∀ (s : State) (fn : Nat) (m : MboxMsg), AtHead s fn m 4 6 → reedMessageOk m.bytes = true →
    entryLocked s (reedPart s fn) (dIndex m.bytes) = false →
    earlierHead s fn m (fun x => dQueue x.bytes) (reedObject s) = false →
    (dirAt s (reedPart s fn) (dIndex m.bytes) = none → Runs (.unbind fn) s fun t => Answered s t fn m 0x0101 ∧ t = { s with mbx := t.mbx })
    ∧ ∀ e, dirAt s (reedPart s fn) (dIndex m.bytes) = some e →
      (((FMap.get? s.ctxs e.context).any fun x => e.bound && x.state = .bound) = false →
        Runs (.unbind fn) s fun t => Answered s t fn m 0x0103 ∧ t = { s with mbx := t.mbx })
      ∧ ∀ x, e.bound = true → FMap.get? s.ctxs e.context = some x → x.state = .bound →
        Runs (.unbind fn) s fun t => Consumed s t fn m ∧ (mboxAt t fn).held = (mboxAt s fn).held ∧ t = { s with mbx := t.mbx, ctxs := t.ctxs }
          ∧ FMap.get? t.ctxs e.context = some { x with state := .unbinding, answer := some (fn, m.seq, messageTag 4 m.bytes) })
  ∧ (∀ (s : State) (ctx : Nat), ((FMap.get? s.ctxs ctx).all fun x => x.state ≠ .unbinding) = true → Runs (.unbindComplete ctx) s (· = s))
  ∧ (∀ (s : State) (ctx : Nat) (x : Ctx), FMap.get? s.ctxs ctx = some x → x.state = .unbinding →
    (ctxHeld s ctx = true → Runs (.unbindComplete ctx) s (· = s))
    ∧ (ctxHeld s ctx = false → Runs (.unbindComplete ctx) s fun t => FMap.get? t.ctxs ctx = none
      ∧ (∀ n, n ≠ ctx → FMap.get? t.ctxs n = FMap.get? s.ctxs n)
      ∧ dirAt t x.part x.dir = (dirAt s x.part x.dir).map (fun e => if e.context = ctx then { e with bound := false, context := 0 } else e)
      ∧ ∀ f seq tag, x.answer = some (f, seq, tag) →
          ∃ r, (mboxAt t f).held = (mboxAt s f).held ++ [r] ∧ r.cls = 4 ∧ r.seq = seq ∧ field r.bytes 4 2 = 0))
  ∧ ∀ (s : State) (fn : Nat) (m : MboxMsg) (Q : Queue),
    AtHead s fn m 4 7 → reedMessageOk m.bytes = true → sealWaits s fn = false → reedQueue s fn m.bytes = some Q →
    entryLocked s Q.part (dIndex m.bytes) = false → earlierHead s fn m (fun x => dQueue x.bytes) (reedObject s) = false →
    let refused (st : Status) (t : State) : Prop := Answered s t fn m st ∧ t.bufs = s.bufs ∧ t.keys = s.keys
    (dirAt s Q.part (dIndex m.bytes) = none → Runs (.seal fn) s (refused 0x0101))
    ∧ ∀ e, dirAt s Q.part (dIndex m.bytes) = some e →
      (e.baseGen ≠ baseGen s Q.part → Runs (.seal fn) s (refused 0x0107))
      ∧ (e.baseGen = baseGen s Q.part → ((FMap.get? s.ctxs e.context).any fun x => e.bound && x.state = .bound && !x.serve) = false →
          Runs (.seal fn) s (refused 0x0103))
      ∧ ∀ x, e.baseGen = baseGen s Q.part → e.bound = true → FMap.get? s.ctxs e.context = some x → x.state = .bound → x.serve = false →
        ((Q.job ≠ some x.job ∨ jobAt s x.job = none ∨ keyRecord s e.keyId = none) → Runs (.seal fn) s (refused 0x0106))
        ∧ ∀ J k, Q.job = some x.job → jobAt s x.job = some J → keyRecord s e.keyId = some k →
          let h := dHandle m.bytes
          let hs := handleStatus s (dQueue m.bytes) Q [h]
          let st : Status := if k.sealCount = 2 ^ 64 - 1 then 0x010F else if hs ≠ 0 then hs
            else if !((bufAt s Q.part h).any fun b => b.tier ≠ 0 && !b.base) then 0x0204
            else if bufSize s Q.part h < max e.imageBytes (imBytes e.header) then 0x0206 else 0
          let key := bufKey Q.part (hIndex h)
          let iv := toLe 8 k.sealCount ++ zeros 4
          let image := patch e.header 32 iv ++ e.contract ++ zeros (imBlobOff e.header - 64 - e.contract.length)
            ++ Gcm.encrypt k.key iv e.contract (trainPlain s J x)
          (st ≠ 0 → Runs (.seal fn) s (refused st))
          ∧ (st = 0 → Runs (.seal fn) s fun t => Answered s t fn m 0
              ∧ t = { storeBuf s key 0 image with mbx := t.mbx, keys := t.keys }
              ∧ (∀ b, FMap.get? s.bufs key = some b → FMap.get? s.tiered key = none →
                  FMap.get? t.bufs key = some { b with data := b.data.write 0 image })
              ∧ (∀ n, n ≠ key → FMap.get? t.bufs n = FMap.get? s.bufs n)
              ∧ keyRecord t e.keyId = some { k with sealCount := k.sealCount + 1 })

/-! ## Bases -/

/-- A base load frees the resident base, charges the new one and reads its first tensor; a replacement takes the resident
one's place layer by layer; each check that fails gives its status and changes nothing; HOST_ADDR or PARTITION out of range
answers 0x0301. Abort before the first swap restores the resident base; after it 0x0619 (R184 to R187, R189). The layers swap
in order, each once nothing holds its outgoing handles, on a member once its tensors have come; the final barrier makes the
incoming base the resident one, with a new base generation (R188, R189, R204). A tile that comes to a member, behind the
internal events of its beat (R468), is forwarded and kept; with the last of a tensor its digest is checked, a tensor that
does not match is awaited again up to two more times, and after the third the base is given up (R184, R185; log entry 38:
the packet's form). While a job of the partition replays, a tile may be held (R291). -/
def Obligations.Bases : Prop :=
  (∀ (s : State) (fn op : Nat) (m : MboxMsg) (head : List Byte), AtHead s fn m 5 op → (op = 1 ∨ op = 2) →
    baseMessageOk m.bytes = false → Runs (if op = 1 then .baseLoad fn head else .baseReplace fn head) s fun t =>
      Answered s t fn m 0x0301 ∧ t = { s with mbx := t.mbx })
  ∧ (∀ (s : State) (fn : Nat) (m : MboxMsg) (head : List Byte), baseMessageOk m.bytes = true →
    let part := bPart m.bytes
    let keeps := bit (field m.bytes 8 1) 0
    let len := field m.bytes 24 8
    let refused (st : Status) (t : State) : Prop := Answered s t fn m st ∧ t = { s with mbx := t.mbx }
    let reads (t : State) : Prop := ∃ x, (readTensors head)[0]? = some x ∧ FMap.get? t.host.reads s.host.nextRead
      = some { use := .baseTensor part, fn := fn, addr := field m.bytes 16 8 + x.offset, len := x.bytes }
    (AtHead s fn m 5 1 → loadStatus s part keeps head len ≠ 0 → Runs (.baseLoad fn head) s (refused (loadStatus s part keeps head len)))
    ∧ (AtHead s fn m 5 1 → loadStatus s part keeps head len = 0 → Runs (.baseLoad fn head) s fun t => Consumed s t fn m
      ∧ baseJobAt t part = some (baseJobOf fn m head false (readTensors head)) ∧ reads t
      ∧ (keeps = true → dnum t (0x5600 + part) 1 = 1 ∧ (partAt t part).tensors = [] ∧ dblob t (0x5600 + part) 2 = zeros 48))
    ∧ (AtHead s fn m 5 2 → replaceStatus s part keeps head len ≠ 0 →
        Runs (.baseReplace fn head) s (refused (replaceStatus s part keeps head len)))
    ∧ (AtHead s fn m 5 2 → replaceStatus s part keeps head len = 0 → keeps = true → Runs (.baseReplace fn head) s fun t =>
        Consumed s t fn m ∧ t = { s with mbx := t.mbx, dict := t.dict, parts := t.parts }
          ∧ baseJobAt t part = some { baseJobOf fn m head true (withIndices s part (readTensors head)) with
              swapped := dnum s (0x5600 + part) 4 }
          ∧ (partAt t part).incoming = handlesOf s part (withIndices s part (readTensors head)) 1
          ∧ dnum t (0x5600 + part) 1 = 3 ∧ dblob t (0x5600 + part) 3 = headDigest head ∧ dnum t (0x5600 + part) 4 = 0)
    ∧ (AtHead s fn m 5 2 → replaceStatus s part keeps head len = 0 → keeps = false → Runs (.baseReplace fn head) s fun t =>
        Consumed s t fn m ∧ baseJobAt t part = some (baseJobOf fn m head false (readTensors head)) ∧ reads t
          ∧ t = { s with mbx := t.mbx, parts := t.parts, host := t.host }))
  ∧ (∀ (s : State) (fn : Nat) (m : MboxMsg), AtHead s fn m 5 3 → let part := bPart m.bytes
    (32 ≤ part → Runs (.baseReplaceAbort fn) s fun t => Answered s t fn m 0x0301 ∧ t = { s with mbx := t.mbx })
    ∧ (part < 32 → ((baseJobAt s part).filter fun b => b.replace && b.next = 0 && b.swapping.isNone) = none →
        Runs (.baseReplaceAbort fn) s fun t => Answered s t fn m 0x0619 ∧ t = { s with mbx := t.mbx })
    ∧ ∀ b, part < 32 → baseJobAt s part = some b → b.replace = true → b.next = 0 → b.swapping = none →
      Runs (.baseReplaceAbort fn) s fun t => AnsweredLast s t fn m 0 ∧ baseJobAt t part = none ∧ dnum t (0x5600 + part) 1 = 2
        ∧ dblob t (0x5600 + part) 3 = zeros 48 ∧ dnum t (0x5600 + part) 4 = b.swapped ∧ (partAt t part).incoming = []
        ∧ (partAt t part).tensors = (partAt s part).tensors ∧ t.bufs = s.bufs)
  ∧ (∀ (s : State) (part : Nat),
      ((baseJobAt s part).all fun b => !b.replace || b.swapping.isSome || decide (b.tensors.length ≤ b.next)) = true →
      Runs (.layerSwap part) s (· = s))
  ∧ (∀ (s : State) (part : Nat) (b : BaseJob) (x : Tensor), baseJobAt s part = some b → b.replace = true → b.swapping = none →
    b.tensors[b.next]? = some x →
    let ts := layerTensors b x.layer
    let turned (t : State) : Prop := ∀ k, ((∀ y ∈ ts, k ≠ bufKey part y.index) → FMap.get? t.bufs k = FMap.get? s.bufs k)
      ∧ ((ts.map Tensor.index).Nodup → ∀ y ∈ ts, k = bufKey part y.index →
          (FMap.get? t.bufs k).map Buf.gen = (FMap.get? s.bufs k).map fun v => v.gen + 1)
    (layerHeld s part b x.layer = true → Runs (.layerSwap part) s (· = s))
    ∧ (layerHeld s part b x.layer = false → b.member = false → Runs (.layerSwap part) s fun t =>
      t = { s with bufs := t.bufs, index := t.index, parts := t.parts, host := t.host } ∧ turned t
        ∧ baseJobAt t part = some { b with swapping := some x.layer }
        ∧ FMap.get? t.host.reads s.host.nextRead
          = some { use := .baseTensor part, fn := b.fn, addr := b.hostAddr + x.offset, len := x.bytes })
    ∧ (layerHeld s part b x.layer = false → b.member = true → b.loaded.length < b.next + ts.length → Runs (.layerSwap part) s (· = s))
    ∧ (layerHeld s part b x.layer = false → b.member = true → b.next + ts.length ≤ b.loaded.length → Runs (.layerSwap part) s fun t =>
      t = { s with bufs := t.bufs, index := t.index, parts := t.parts, dict := t.dict } ∧ turned t
        ∧ baseJobAt t part = some { b with next := b.next + ts.length } ∧ Counted s t (0x5600 + part) 4 1))
  ∧ (∀ (s : State) (part : Nat),
      ((baseJobAt s part).all fun b => !b.replace || b.swapping.isSome || decide (b.next < b.tensors.length)) = true →
      Runs (.finalSwapBarrier part) s (· = s))
  ∧ (∀ (s : State) (part : Nat) (b : BaseJob), part < 32 → baseJobAt s part = some b → b.replace = true → b.swapping = none →
    b.tensors.length ≤ b.next → Runs (.finalSwapBarrier part) s fun t => baseJobAt t part = none ∧ (partAt t part).tensors = b.tensors
      ∧ (partAt t part).baseHandles = (partAt s part).incoming ∧ (partAt t part).incoming = []
      ∧ dnum t (0x5600 + part) 1 = 2 ∧ dblob t (0x5600 + part) 2 = b.digest ∧ dblob t (0x5600 + part) 3 = zeros 48
      ∧ baseGen t part = (baseGen s part + 1) % 2 ^ 32 ∧ t.bufs = s.bufs
      ∧ (b.member = false → ∃ r, (mboxAt t b.fn).held = (mboxAt s b.fn).held ++ [r] ∧ r.cls = 5 ∧ r.seq = b.seq
          ∧ (setBit b.members.toNat 0 false = 0 → field r.bytes 4 2 = 0))
      ∧ ∀ c x, FMap.get? s.ctxs c = some x → x.part = part → x.baseGen ≠ baseGen t part →
        (FMap.get? t.ctxs c).map Ctx.invalid = some true)
  ∧ ∀ (s₀ : State) (part tile tensor : Nat) (data : List Byte), let s := settle s₀
    let taken := takeFlits s (domainHead s) data.length
    let port := arrivalPort taken (domainHead s)
    let run := Runs (.baseTileMulticast part tensor tile data) s₀
    (∀ e due, s.jobs.find? (fun e => e.2.part = part && e.2.replay.isSome) = some e →
        (replayInput taken e.1 5 port (domainHead s) data).2 = some due →
        run fun t => t.parts = s.parts ∧ t.bufs = s.bufs
          ∧ (jobAt t e.1).map Job.replayHeld
            = (jobAt s e.1).map fun J => J.replayHeld ++ [(due, .baseTileMulticast part tensor tile data)])
    ∧ (s.jobs.find? (fun e => e.2.part = part && e.2.replay.isSome) = none →
      (part < 32 → tensor ≠ 65535 →
        ((baseJobAt s part).all fun b => !b.member || b.loaded.length ≠ tensor || b.tileNext ≠ tile || (b.tensors[tensor]?).isNone) = true →
        run fun t => t.parts = s.parts ∧ t.bufs = s.bufs ∧ t.win.forwarded = s.win.forwarded + 1)
      ∧ (part < 32 → tensor = 65535 → tile = 2 → replaceStatus s part true data (hImage data) = 0 → run fun t =>
          dnum t (0x5600 + part) 1 = 3 ∧ t.bufs = s.bufs ∧ t.win.forwarded = s.win.forwarded + 1
            ∧ ∃ b, baseJobAt t part = some b ∧ b.replace = true ∧ b.member = true ∧ b.digest = headDigest data)
      ∧ (part < 32 → tensor = 65535 → tile ≠ 2 → loadStatus s part true data (hImage data) = 0 → run fun t =>
          dnum t (0x5600 + part) 1 = 1 ∧ (partAt t part).tensors = [] ∧ t.win.forwarded = s.win.forwarded + 1
            ∧ ∃ b, baseJobAt t part = some b ∧ b.replace = false ∧ b.member = true ∧ b.digest = headDigest data)
      ∧ (part < 32 → tensor = 65535 → tile = 2 → replaceStatus s part true data (hImage data) ≠ 0 → run fun t =>
          t.parts = s.parts ∧ t.bufs = s.bufs
            ∧ t.win.baseReports = s.win.baseReports ++ [(part, replaceStatus s part true data (hImage data))])
      ∧ (part < 32 → tensor = 65535 → tile ≠ 2 → loadStatus s part true data (hImage data) ≠ 0 → run fun t =>
          baseJobAt t part = none ∧ dnum t (0x5600 + part) 1 = 0 ∧ (partAt t part).tensors = []
            ∧ t.win.baseReports = s.win.baseReports ++ [(part, loadStatus s part true data (hImage data))])
      ∧ ∀ b x, part < 32 → tensor ≠ 65535 →
        baseJobAt s part = some b → b.member = true → b.loaded.length = tensor → b.tileNext = tile → b.tensors[tensor]? = some x →
        let b' : BaseJob := { b with
          tileNext := tile + 1, tileData := b.tileData ++ slice data 0 65536, sideData := b.sideData ++ slice data 65536 1024 }
        let whole := b'.tileData ++ b'.sideData
        let again : BaseJob := { b with tileNext := 0, tileData := [], sideData := [], attempts := b.attempts + 1 }
        let complete : BaseJob := { again with loaded := b.loaded ++ [whole], attempts := 0 }
        (tile + 1 < x.tiles → run fun t =>
          baseJobAt t part = some b' ∧ t.bufs = s.bufs ∧ t.win.forwarded = s.win.forwarded + 1)
        ∧ (x.tiles ≤ tile + 1 → sha384 whole ≠ x.digest → again.attempts < 3 → run fun t => baseJobAt t part = some again ∧ t.bufs = s.bufs)
        ∧ (x.tiles ≤ tile + 1 → sha384 whole ≠ x.digest → 3 ≤ again.attempts → run fun t => baseJobAt t part = none)
        ∧ (x.tiles ≤ tile + 1 → sha384 whole = x.digest → (b.replace = true ∨ tensor + 1 < b.tensors.length) → run fun t =>
            baseJobAt t part = some complete ∧ t.bufs = s.bufs)
        ∧ (x.tiles ≤ tile + 1 → sha384 whole = x.digest → b.replace = false → b.tensors.length ≤ tensor + 1 → b.keeps = true →
            indicesUsed s part + b.tensors.length ≤ 2 ^ 20 - 1 → run fun t => baseJobAt t part = none
              ∧ dnum t (0x5600 + part) 1 = 2 ∧ dblob t (0x5600 + part) 2 = b.digest))

/-! ## Public-key engines -/

/-- An operation requested of an idle engine starts in the present beat; one requested of an engine that runs an operation
of an earlier beat waits in the order of R356; in the same beat a source that is served first goes first; with 64 requests
waiting it is held. 1,200,000 beats after its start the operation answers what Table 14.5 and P-384 give, is counted, and the
next request starts; the end of an operation at an idle engine changes nothing (R354 to R356). -/
def Obligations.EngineOperations : Prop :=
  (∀ (s : State) (hub : Hub) (src : EngineSource) (d r sg : Nat) (h : List Byte) (key : PubKey),
    ∀ c ∈ [(Instr.keygen hub src, EngineOp.keygen), (.sign hub src d h, .sign d h), (.verify hub src key h r sg, .verify key h r sg),
        (.ecdh hub src d key, .ecdh d key), (.validate hub src key, .validate key)],
      let e := engineAt s hub
      let q : EngineReq := { op := c.2, src, arrived := s.now, use := .none }
      let only (t : State) : Prop := t = { s with sec := t.sec } ∧ ∀ g, g ≠ hub → engineAt t g = engineAt s g
      Runs c.1 s only
      ∧ (e.running = none → e.waiting = [] → e.held = [] → Runs c.1 s fun t => only t
        ∧ engineAt t hub = { e with running := some (s.now, q) })
      ∧ (∀ t0 x, e.running = some (t0, x) → (t0 ≠ s.now ∨ q.before x = false) → e.waiting.length < 64 → Runs c.1 s fun t => only t
        ∧ engineAt t hub = { e with waiting := insertReq q e.waiting })
      ∧ (∀ x, e.running = some (s.now, x) → q.before x = true → e.waiting.length < 64 → Runs c.1 s fun t => only t
        ∧ engineAt t hub = { e with running := some (s.now, q), waiting := insertReq x e.waiting })
      ∧ (∀ p, e.running = some p → 64 ≤ e.waiting.length → Runs c.1 s fun t => only t ∧ engineAt t hub = { e with held := e.held ++ [q] }))
  ∧ (∀ (s : State) (hub : Hub), (engineAt s hub).running = none → Runs (.engineOperationDone hub) s (· = s))
  ∧ ∀ (s : State) (hub : Hub) (t0 : Nat) (r : EngineReq), (engineAt s hub).running = some (t0, r) → r.use = .none →
    let sub := match hub with | .east => 1 | .west => 2
    Runs (.engineOperationDone hub) s fun t => t.now = max s.now (t0 + 1200000) ∧ Counted s t 0x8200 sub 1
      ∧ (engineAt t hub).last = some (engineRun (engineAt s hub).healthy r.op (random512 s))
      ∧ ((engineAt s hub).waiting = [] → (engineAt t hub).running = none)
      ∧ (∀ x l, (engineAt s hub).waiting = x :: l → (engineAt t hub).running = some (t.now, x))
      ∧ t = { s with now := t.now, fresh := t.fresh, dict := t.dict, sec := t.sec }

/-! ## SPDM -/

/-- A module that is not Ready answers no request. The responder of a Ready module that was not returned answers each
request as R350, R353 and R357 to R359 say: a ninth session is refused, a key of no role is refused with 0x0705, outside the
field a session of another role than the maker with 0x0706, a finished handshake stays, one whose proof fails ends its
session, and CHALLENGE and GET_MEASUREMENTS wait for the leader's engine, the latter over the blocks as they stand behind
the internal events of its beat (R468). A returned module answers measurement 5 alone (R349). -/
def Obligations.SpdmResponder : Prop :=
  (∀ (s : State), isReady s = false →
    ∀ c ∈ [Instr.getVersion, .getCapabilities, .getDigests], Runs c s (· = s))
  ∧ (∀ (s : State) (o : SpdmOffer) (a b c : Nat) (key nonce : List Byte) (ok : Bool), isReady s = false →
    ∀ r ∈ [Instr.negotiateAlgorithms o, .getCertificate a b c, .challenge a nonce, .keyExchange key ok, .finish a ok, .endSession a,
      .heartbeat a], Runs r s (· = s))
  ∧ (∀ (s : State) (o : SpdmOffer) (a b c : Nat) (nonce : List Byte), isReady s = true → s.sec.fuses.lifecycle = 7 →
    ∀ r ∈ [Instr.getVersion, .getCapabilities, .negotiateAlgorithms o, .getDigests, .getCertificate a b c, .challenge a nonce],
      Runs r s fun t => t = { s with sec := { s.sec with spdmOut := some .invalidRequest } })
  ∧ (∀ (s : State), isReady s = true → s.sec.fuses.lifecycle ≠ 7 →
    let replies (r : SpdmResp) (t : State) : Prop := t = { s with sec := { s.sec with spdmOut := some r } }
    (Runs .getVersion s fun t => t = { s with sec := { s.sec with negotiated := false, spdmOut := some .version } })
    ∧ (Runs .getCapabilities s (replies .capabilities))
    ∧ (∀ o, let ok := o.ecdsaP384 && o.sha384 && o.secp384r1 && o.aes256gcm
        Runs (.negotiateAlgorithms o) s fun t => t = { s with sec := { s.sec with negotiated := ok, spdmOut := some (.algorithms ok) } })
    ∧ (Runs .getDigests s (replies (.digests (sha384 certChain))))
    ∧ (∀ slot offset len, (slot ≠ 0 ∨ certChain.length < offset → Runs (.getCertificate slot offset len) s (replies .invalidRequest))
        ∧ (slot = 0 → offset ≤ certChain.length →
          Runs (.getCertificate slot offset len) s (replies (.certificate ((certChain.drop offset).take len)))))
    ∧ (∀ slot nonce, (slot ≠ 0 → Runs (.challenge slot nonce) s (replies .invalidRequest))
        ∧ (slot = 0 → Runs (.challenge slot nonce) s fun t => t = { s with sec := t.sec }
            ∧ engineAt t (leader s) = (engineAt s (leader s)).submit s.now {
                op := .sign s.sec.fuses.identityKey (Config.spdmDigest nonce), src := .spdm, arrived := s.now, use := .challenge nonce }
            ∧ ∀ g, g ≠ leader s → engineAt t g = engineAt s g)))
  ∧ (∀ (s₀ : State) (index : Nat) (nonce : List Byte), let s := settleAll s₀
    let replies (r : SpdmResp) (t : State) : Prop := t = { s with sec := { s.sec with spdmOut := some r } }
    let l := if index = 0xFF then blockIndices else [index]
    (isReady s = false → Runs (.getMeasurements index nonce) s₀ fun t => t = s)
    ∧ (isReady s = true → s.sec.fuses.lifecycle = 7 → index ≠ 5 → Runs (.getMeasurements index nonce) s₀ (replies .invalidRequest))
    ∧ (isReady s = true → s.sec.fuses.lifecycle = 7 → index = 5 →
        Runs (.getMeasurements index nonce) s₀ (replies (.signed [(5, zeros 8 ++ toLe 1 7 ++ zeros 15)] nonce [])))
    ∧ (isReady s = true → s.sec.fuses.lifecycle ≠ 7 → index ≠ 0xFF → index ∉ blockIndices →
        Runs (.getMeasurements index nonce) s₀ (replies .invalidRequest))
    ∧ (isReady s = true → s.sec.fuses.lifecycle ≠ 7 → (index = 0xFF ∨ index ∈ blockIndices) →
        let m := measure s l
        m.2.map Prod.fst = l ∧ Runs (.getMeasurements index nonce) s₀ fun t => t = { m.1 with sec := t.sec }
          ∧ engineAt t (leader m.1) = (engineAt m.1 (leader m.1)).submit m.1.now {
              op := .sign m.1.sec.fuses.identityKey (Config.spdmDigest (nonce ++ m.2.flatMap fun e => toLe 1 e.1 ++ e.2))
              src := .spdm, arrived := m.1.now, use := .measurements m.2 nonce }
          ∧ (index = 5 → m = (s, [(5, fuseBlock s)]))))
  ∧ (∀ (s : State) (key : List Byte) (ok : Bool), isReady s = true →
    let replies (r : SpdmResp) (t : State) : Prop := t = { s with sec := { s.sec with spdmOut := some r } }
    (8 ≤ s.sec.sessions.length → Runs (.keyExchange key ok) s (replies .sessionLimitExceeded))
    ∧ (s.sec.sessions.length < 8 → (ok = false ∨ roleOfKey s key = none) → Runs (.keyExchange key ok) s (replies (.refused 0x0705)))
    ∧ ∀ role, s.sec.sessions.length < 8 → ok = true → roleOfKey s key = some role →
      (s.sec.fuses.lifecycle ≠ 3 → role ≠ .maker → Runs (.keyExchange key ok) s (replies (.refused 0x0706)))
      ∧ ((s.sec.fuses.lifecycle = 3 ∨ role = .maker) → Runs (.keyExchange key ok) s fun t =>
          t = { s with sec := t.sec } ∧ t.sec.spdmOut = some (.session s.sec.nextSession) ∧ t.sec.nextSession = s.sec.nextSession + 1
            ∧ FMap.get? t.sec.sessions s.sec.nextSession = some ⟨role, false⟩
            ∧ ∀ n, n ≠ s.sec.nextSession → FMap.get? t.sec.sessions n = FMap.get? s.sec.sessions n))
  ∧ ∀ (s : State) (n : Nat), isReady s = true →
    let replies (r : SpdmResp) (t : State) : Prop := t = { s with sec := { s.sec with spdmOut := some r } }
    let ended (r : SpdmResp) (t : State) : Prop := FMap.get? t.sec.sessions n = none ∧ t.sec.spdmOut = some r
      ∧ (∀ k, k ≠ n → FMap.get? t.sec.sessions k = FMap.get? s.sec.sessions k)
      ∧ FMap.get? t.tel.staged (sessionRequester n) = none ∧ t = { s with sec := t.sec, tel := t.tel }
    (FMap.get? s.sec.sessions n = none → (∀ ok, Runs (.finish n ok) s (replies .invalidRequest))
        ∧ Runs (.endSession n) s (replies .invalidRequest) ∧ Runs (.heartbeat n) s (replies .invalidRequest))
    ∧ ∀ x, FMap.get? s.sec.sessions n = some x →
      Runs (.heartbeat n) s (replies .alive) ∧ Runs (.endSession n) s (ended .ended)
      ∧ (x.finished = true → ∀ ok, Runs (.finish n ok) s (replies .invalidRequest))
      ∧ (x.finished = false → Runs (.finish n false) s (ended .invalidRequest))
      ∧ (x.finished = false → Runs (.finish n true) s fun t => t = { s with sec := t.sec } ∧ t.sec.spdmOut = some .finished
          ∧ FMap.get? t.sec.sessions n = some { x with finished := true }
          ∧ ∀ k, k ≠ n → FMap.get? t.sec.sessions k = FMap.get? s.sec.sessions k)

/-! ## Dictionary -/

/-- A request, taken behind the internal events of its beat (R468), that does not arrive whole at its server changes nothing;
one that finds the BAR0 window busy is counted; one whose header breaks Table 17.1 is answered with 0x0D07.
A request that arrives is answered with its status and its data: GET with the entry's value, INFO with Table 17.3, NEXT
with the next entry, SNAPSHOT with the beat in which every counter is latched, SUBSCRIBE, and SET with the write it makes,
or the segment it stages (R412 to R417, R423, R427). A read of 0x8200.04 uses its nonce up. A staged value times out 10⁸
beats after its last segment; the notify of an alarm whose COUNT has changed is repeated. -/
def Obligations.DictionaryRequests : Prop :=
  (∀ (s₀ : State) (who : Requester) (b : List Byte),
    ∀ c ∈ [(Instr.get who b, 1), (.set who b, 2), (.info who b, 3), (.next who b, 4), (.subscribe who b, 5), (.snapshot who b, 6)],
      let s := settleAll s₀
      let here := decide (16 ≤ b.length) && reaches s who && (fOp b = c.2 || fOp b = 0 || 6 < fOp b)
      (here = false → Runs c.1 s₀ fun t => t = s)
      ∧ (here = true → who.path = .bar0 → s.tel.dictBusy = true → Runs c.1 s₀ fun t => t = { s with dict := t.dict } ∧ Counted s t 0x7000 4 1)
      ∧ (here = true → (who.path = .bar0 → s.tel.dictBusy = false) → fdpHeaderOk who b = false →
          Runs c.1 s₀ fun t => t = { s with tel := t.tel } ∧ Replied t who b 0x0D07 []))
  ∧ (∀ (s₀ : State) (who : Requester) (b : List Byte), let s := settleAll s₀
    let s0 := served0 s who b
    let i := fIndex b
    let k := fSub b
    let telOnly (t : State) : Prop := t = { s with tel := t.tel }
    let refused (st : Status) (t : State) : Prop := telOnly t ∧ Replied t who b st []
    (RequestArrives s who b 1 → (getStatus s0 who b ≠ 0 → Runs (.get who b) s₀ (refused (getStatus s0 who b)))
      ∧ (getStatus s0 who b = 0 → Runs (.get who b) s₀ fun t => t = { s with tel := t.tel, cfg := t.cfg, sec := t.sec }
          ∧ Replied t who b 0 (getData s0 b) ∧ t.sec = { s.sec with nonces := s.sec.nonces + if i = 0x8200 ∧ k = 4 then 1 else 0 }))
    ∧ (RequestArrives s who b 3 → Runs (.info who b) s₀ fun t => telOnly t
        ∧ Replied t who b (infoStatus s0 who b) (if infoStatus s0 who b = 0 then infoData s0 i k else []))
    ∧ (RequestArrives s who b 4 →
        let allowed := (roleOf s0 who).isSome || (0x1000 ≤ i && i < 0x2000) || (droneOnly s && reducedEntry i k)
        (allowed = false → Runs (.next who b) s₀ (refused 0x0706))
        ∧ (allowed = true → fLength b ≠ 0 → Runs (.next who b) s₀ (refused 0x0D02))
        ∧ (allowed = true → fLength b = 0 → Runs (.next who b) s₀ fun t => telOnly t
          ∧ match entryNext (dkey i k) with
            | none => Replied t who b 0x0D01 []
            | some n => Replied t who b 0 (toLe 2 (n / 256) ++ toLe 1 (n % 256) ++ [0])))
    ∧ (RequestArrives s who b 5 → ((roleOf s0 who = none ∨ who.session = none ∨ roleOf s0 who = some .maker) →
          Runs (.subscribe who b) s₀ (refused 0x0706))
        ∧ ∀ role n, roleOf s0 who = some role → who.session = some n → role ≠ .maker →
          (fLength b ≠ 1 → Runs (.subscribe who b) s₀ (refused 0x0D02))
          ∧ (fLength b = 1 → 1 < field (fData b) 0 1 → Runs (.subscribe who b) s₀ (refused 0x0D03))
          ∧ (fLength b = 1 → field (fData b) 0 1 = 0 → Runs (.subscribe who b) s₀ fun t => t = { s with tel := t.tel, dict := t.dict }
            ∧ Replied t who b 0 []
            ∧ t.tel.subscribers = s.tel.subscribers.filter (· ≠ n) ∧ dnum t 0x7000 2 = t.tel.subscribers.length)
          ∧ (fLength b = 1 → field (fData b) 0 1 = 1 → n ∈ s.tel.subscribers → Runs (.subscribe who b) s₀ (refused 0))
          ∧ (fLength b = 1 → field (fData b) 0 1 = 1 → n ∉ s.tel.subscribers → s.tel.subscribers.length < 8 →
            Runs (.subscribe who b) s₀ fun t => t = { s with tel := t.tel, dict := t.dict } ∧ Replied t who b 0 []
              ∧ t.tel.subscribers = s.tel.subscribers ++ [n] ∧ dnum t 0x7000 2 = t.tel.subscribers.length)
          ∧ (fLength b = 1 → field (fData b) 0 1 = 1 → n ∉ s.tel.subscribers → 8 ≤ s.tel.subscribers.length →
            Runs (.subscribe who b) s₀ (refused 0x0D08)))
    ∧ (RequestArrives s who b 6 → (roleOf s0 who = none → Runs (.snapshot who b) s₀ (refused 0x0706))
        ∧ ((roleOf s0 who).isSome = true → fLength b ≠ 0 → Runs (.snapshot who b) s₀ (refused 0x0D02))
        ∧ ((roleOf s0 who).isSome = true → fLength b = 0 → Runs (.snapshot who b) s₀ fun t =>
          t = { s with tel := t.tel, dict := t.dict } ∧ Replied t who b 0 (toLe 8 s.now) ∧ dnum t 0x6000 1 = s.now
            ∧ ∀ key, 0x600000 ≤ key → key < 0x700000 → key ≠ 0x6F0001 → FMap.getD t.tel.shadow key (entryDefault key) = dget t key))
    ∧ (RequestArrives s who b 2 →
        let access := accessStatus s0 who i k true
        (entryAt i k = none → Runs (.set who b) s₀ (refused (if access = 0 then 0x0D01 else access)))
        ∧ ∀ e, entryAt i k = some e →
          (access ≠ 0 → Runs (.set who b) s₀ (refused access))
          ∧ (access = 0 → e.ty.width ≠ 0 → (fOffset b ≠ 0 ∨ fLength b ≠ e.ty.width) → Runs (.set who b) s₀ (refused 0x0D02))
          ∧ (access = 0 → e.ty.width ≠ 0 → fOffset b = 0 → fLength b = e.ty.width →
              let role := (roleOf s0 who).getD .installer
              let v : DVal := .num (leNat (fData b))
              (Runs (.set who b) s₀ fun t =>
                t = writeEntry (endStaged s0 role (requesterNumber who) i k v) role (requesterNumber who) i k v (some ⟨who.path, slice b 0 16⟩))
              ∧ (FMap.has s.tel.busy (dkey i k) = false → writeStatus s0 role (requesterNumber who) i k v ≠ 0 →
                  Runs (.set who b) s₀ fun t => t = { s with tel := t.tel, fresh := t.fresh } ∧ t.tel.staged = s.tel.staged
                    ∧ Replied t who b (writeStatus s0 role (requesterNumber who) i k v) [])
              ∧ (0x2100 ≤ i → i < 0x3000 → ¬(i = 0x2600 ∧ k ≤ 8) → FMap.has s.tel.busy (dkey i k) = false → AuditRoom s →
                  writeStatus s0 role (requesterNumber who) i k v = 0 → Runs (.set who b) s₀ fun t =>
                    dget t (dkey i k) = v ∧ Replied t who b 0 [] ∧ Recorded s t role i k))
          ∧ (access = 0 → e.ty.width = 0 → requesterNumber who = none → Runs (.set who b) s₀ (refused 0x0706))
          ∧ ∀ n, access = 0 → e.ty.width = 0 → requesterNumber who = some n →
            (segmentBase s0 n b = none → Runs (.set who b) s₀ fun t => refused 0x0D05 t ∧ stagedOf t n = none)
            ∧ ∀ base, segmentBase s0 n b = some base → let bytes := base ++ fData b
              (e.maxLen < bytes.length → Runs (.set who b) s₀ (refused (valueStatus i k (.blob bytes))))
              ∧ (bytes.length ≤ e.maxLen → fLast b = true → Runs (.set who b) s₀ fun t =>
                  let role := (roleOf s0 who).getD .installer
                  t = writeEntry (endStaged s0 role (some n) i k (.blob bytes)) role (some n) i k (.blob bytes) (some ⟨who.path, slice b 0 16⟩))
              ∧ (bytes.length ≤ e.maxLen → fLast b = false → stagedByOther s0 (some n) i k = true → Runs (.set who b) s₀ (refused 0x0D04))
              ∧ (bytes.length ≤ e.maxLen → fLast b = false → stagedByOther s0 (some n) i k = false → Runs (.set who b) s₀ fun t =>
                  telOnly t ∧ Replied t who b 0 [] ∧ stagedOf t n = some { index := i, sub := k, bytes, at_ := s.now })))
  ∧ (∀ (s : State) (who : Requester), ((requesterNumber who).all fun n => (stagedOf s n).isNone) = true →
    Runs (.stagedValueTimeout who) s (· = s))
  ∧ (∀ (s : State) (who : Requester) (n : Nat) (g : Staged), requesterNumber who = some n → stagedOf s n = some g →
    Runs (.stagedValueTimeout who) s fun t => t = { s with tel := t.tel, now := t.now } ∧ t.now = max s.now (g.at_ + 100000000)
      ∧ stagedOf t n = none ∧ ∀ m, m ≠ n → stagedOf t m = stagedOf s m)
  ∧ ∀ (s : State) (slot : Nat),
    (((alarmAt s slot).state = 0 ∨ (alarmAt s slot).count = (alarmAt s slot).notifiedCount ∨ isReady s = false) →
      Runs (.alarmNotifyRepeat slot) s (· = s))
    ∧ ((alarmAt s slot).state ≠ 0 → (alarmAt s slot).count ≠ (alarmAt s slot).notifiedCount → isReady s = true →
      Runs (.alarmNotifyRepeat slot) s fun t => t.now = max s.now ((alarmAt s slot).notifiedAt + 1000000)
        ∧ t.tel.notifies = s.tel.notifies ++ s.tel.subscribers.map (fun n => (n, slot))
        ∧ alarmAt t slot = { alarmAt s slot with notifiedAt := t.now, notifiedCount := (alarmAt s slot).count }
        ∧ ∀ x, x ≠ slot → alarmAt t x = alarmAt s x)

/-- Every command that names an entry is the write of that entry, taken behind the internal events of its beat (R468). A write
is not taken while no server runs; it waits while an earlier one of its entry is in progress; one that its checks refuse
changes no entry. An accepted one of a configuration entry stores its value with one audit
record, and no other entry changes but the commit state. Acknowledge makes an active alarm acknowledged, clear an
acknowledged one clear, and neither changes a clear one (log entry 52); the exported sequence has no audit record; a
checkpoint and an operator key go to the leader's engine; a GPIO function parks its pin and is enabled at the park's end
(R366 to R369, R403, R417, R418, R425, R464). -/
def Obligations.DictionaryWrites : Prop :=
  (∀ (s : State) (role : Role) (part n sub : Nat) (flag : Bool) (w : DVal) (bs : List Byte),
    let W (i k : Nat) (v : DVal) := exec (.dictionaryWrite role i k v) s
    exec (.mapWrite role part flag n) s = (if part < 32 then W (0x5000 + part) (if flag then 2 else 1) (.num n) else .next s)
    ∧ exec (.vfQuotaWrite role part flag n) s
      = (if 1 ≤ part ∧ part ≤ 1024 then W (0x50FF + part) (if flag then 2 else 1) (.num n) else .next s)
    ∧ exec (.vfPartitionWrite role part n) s = (if 1 ≤ part ∧ part ≤ 1024 then W (0x40FF + part) 1 (.num n) else .next s)
    ∧ exec (.poolWrite role part sub w) s = (if part < 32 ∧ 1 ≤ sub ∧ sub ≤ 6 then W (0x4000 + part) sub w else .next s)
    ∧ exec (.functionReset part (some role)) s = (if 1 ≤ part ∧ part ≤ 1024 then W (0x40FF + part) 6 (.num 2) else .next s)
    ∧ exec (.pfReset (some role)) s = W 0x4020 6 (.num 2)
    ∧ exec (.epochFlush role part) s = (if part < 32 then W (0x4000 + part) 8 (.num 1) else .next s)
    ∧ exec (.failoverRequest role) s = W 0xA040 1 (.num 1)
    ∧ exec (.configurationCommit role bs) s = W 0x2000 4 (.blob bs)
    ∧ exec (.stopChange role sub n) s = (if 1 ≤ sub ∧ sub ≤ 4 then W 0x3000 sub (.num n) else .next s)
    ∧ exec (.overlayWrite role sub bs) s = (if sub < 10 then W (0x3100 + sub) 2 (.blob bs) else .next s)
    ∧ exec (.operatorKeyWrite role sub bs) s = (if 1 ≤ sub ∧ sub ≤ 8 then W 0x8100 sub (.blob bs) else .next s)
    ∧ exec (.checkpointRequest role) s = W 0x8300 4 (.num 1)
    ∧ exec (.auditExportWrite role n) s = W 0x8300 2 (.num n)
    ∧ exec (.alarmAcknowledge role sub) s = (if sub < 128 then W (0x7010 + sub) 2 (.num 1) else .next s)
    ∧ exec (.alarmClear role sub) s = (if sub < 128 then W (0x7010 + sub) 2 (.num 2) else .next s)
    ∧ exec (.declareDead role sub n) s = (if sub < 8 then W (0xB100 + sub) 7 (.num n) else .next s)
    ∧ exec (.gpioFunctionWrite role sub n) s = (if sub < 8 then W 0x2600 (sub + 1) (.num n) else .next s))
  ∧ (∀ (s₀ : State) (role : Role), let s := settleAll s₀
    (∀ index sub v, (served s = false → Runs (.dictionaryWrite role index sub v) s₀ fun t => t = s)
      ∧ (served s = true → FMap.has s.tel.busy (dkey index sub) = true → index ≠ 0x2000 →
          Runs (.dictionaryWrite role index sub v) s₀ fun t => t = { s with tel := { s.tel with
            heldWrites := s.tel.heldWrites ++ [{ key := dkey index sub, role, value := v, who := none, reply := none }] } })
      ∧ (served s = true → (FMap.has s.tel.busy (dkey index sub) = false ∨ index = 0x2000) → writeStatus s role none index sub v ≠ 0 →
          Runs (.dictionaryWrite role index sub v) s₀ fun t => t = { s with fresh := t.fresh }))
    ∧ (∀ index sub v, 0x2100 ≤ index → index < 0x3000 → ¬(index = 0x2600 ∧ sub ≤ 8) → sub < 256 → Accepted s role index sub v → AuditRoom s →
        Runs (.dictionaryWrite role index sub v) s₀ fun t => Recorded s t role index sub ∧ dget t (dkey index sub) = v
          ∧ EntriesKept s t [dkey index sub, dkey 0x2000 5] ∧ t = { s with dict := t.dict, audit := t.audit, cfg := t.cfg })
    ∧ (∀ slot, slot < 128 → AuditRoom s →
        (Accepted s role (0x7010 + slot) 2 (.num 1) → Runs (.alarmAcknowledge role slot) s₀ fun t => Recorded s t role (0x7010 + slot) 2
            ∧ (∀ x, x ≠ slot → alarmAt t x = alarmAt s x)
            ∧ ((alarmAt s slot).state = 0 → alarmAt t slot = alarmAt s slot)
            ∧ ((alarmAt s slot).state = 1 → (alarmAt s slot).last = stamp s → alarmAt t slot
              = { alarmAt s slot with countAck := (alarmAt s slot).count - (alarmAt s slot).atLast })
            ∧ ((alarmAt s slot).state ≠ 0 → ((alarmAt s slot).state ≠ 1 ∨ (alarmAt s slot).last ≠ stamp s) → alarmAt t slot
              = { alarmAt s slot with countAck := (alarmAt s slot).count, state := 2 }))
        ∧ (Accepted s role (0x7010 + slot) 2 (.num 2) → Runs (.alarmClear role slot) s₀ fun t =>
            Recorded s t role (0x7010 + slot) 2 ∧ (∀ x, x ≠ slot → alarmAt t x = alarmAt s x)
              ∧ ((alarmAt s slot).state = 2 → alarmAt t slot = {}) ∧ ((alarmAt s slot).state = 0 → alarmAt t slot = alarmAt s slot)))
    ∧ (∀ n, Accepted s role 0x8300 2 (.num n) → Runs (.auditExportWrite role n) s₀ fun t => dnum t 0x8300 2 = n
        ∧ (s.cfg.holdRequest = none → t = { s with dict := t.dict } ∧ dnum t 0x8300 1 = dnum s 0x8300 1 ∧ EntriesKept s t [dkey 0x8300 2]))
    ∧ (Accepted s role 0x8300 4 (.num 1) → Runs (.checkpointRequest role) s₀ fun t =>
        let content := toLe 8 (lastSeq s) ++ s.audit.chain ++ toLe 8 s.now
        engineAt t (leader s) = (engineAt s (leader s)).submit s.now {
            op := .sign s.sec.fuses.identityKey (sha384 content), src := .firmware, arrived := s.now, use := .checkpoint content }
          ∧ (EngineIdle s (leader s) → EngineStarted s t (leader s) (.checkpoint content))
          ∧ FMap.has t.tel.busy (dkey 0x8300 4) = true ∧ t = { s with sec := t.sec, tel := t.tel, fresh := t.fresh })
    ∧ (∀ slot key, 1 ≤ slot → slot ≤ 8 → Accepted s role 0x8100 slot (.blob key) →
        Runs (.operatorKeyWrite role slot key) s₀ fun t => engineAt t (leader s) = (engineAt s (leader s)).submit s.now {
            op := .validate (decodeKey key), src := .firmware, arrived := s.now, use := .operatorKey role slot key }
          ∧ (EngineIdle s (leader s) → EngineStarted s t (leader s) (.operatorKey role slot key))
          ∧ FMap.has t.tel.busy (dkey 0x8100 slot) = true ∧ t = { s with sec := t.sec, tel := t.tel })
    ∧ ∀ pin fn, pin < 8 →
      (Accepted s role 0x2600 (pin + 1) (.num fn) → AuditRoom s → FMap.getD s.pins.gpioFn pin 0 ≠ fn →
        Runs (.gpioFunctionWrite role pin fn) s₀ fun t => Recorded s t role 0x2600 (pin + 1) ∧ FMap.get? t.pins.gpioPark pin = some fn
          ∧ FMap.get? t.pins.gpioFn pin = none ∧ FMap.has t.tel.busy (dkey 0x2600 (pin + 1)) = true)
      ∧ (Accepted s role 0x2600 (pin + 1) (.num fn) → AuditRoom s → FMap.getD s.pins.gpioFn pin 0 = fn →
        Runs (.gpioFunctionWrite role pin fn) s₀ fun t => Recorded s t role 0x2600 (pin + 1) ∧ t.pins = s.pins))
  ∧ ∀ (s : State) (pin : Nat), (FMap.get? s.pins.gpioPark pin = none → Runs (.gpioParkEnd pin) s (· = s))
    ∧ ∀ fn, FMap.get? s.pins.gpioPark pin = some fn → pin < 8 → Runs (.gpioParkEnd pin) s fun t =>
      (s.tel.heldWrites = [] → FMap.get? t.pins.gpioPark pin = none ∧ FMap.getD t.pins.gpioFn pin 0 = fn ∧ dnum t 0x2600 (pin + 1) = fn
          ∧ t.drone = s.drone + dnum s 0x2600 11 ∧ FMap.has t.tel.busy (dkey 0x2600 (pin + 1)) = false
          ∧ t = { s with pins := t.pins, dict := t.dict, tel := t.tel, drone := t.drone })

/-! ## Partitions and functions -/

/-- An accepted map that adds no unit takes effect at once with the tier's bytes; one that adds units takes effect when they
are zeroed (R143 to R145). A VF's quota moves its partition's sum, an assignment its partition's count of VFs (R165, R297);
a pool entry takes its value, and a core that leaves is zeroed (R299, R300). Each is one audit record. -/
def Obligations.PartitionWrites : Prop :=
  (∀ (s₀ : State) (role : Role) (part v : Nat), part < 32 → let s := settleAll s₀
    (∀ pairs : Bool, let i := 0x5000 + part
      let sub := if pairs then 2 else 1
      Accepted s role i sub (.num v) → AuditRoom s →
      (((bitList 64 v).all fun u => bit (dnum s i sub) u) = true → Runs (.mapWrite role part pairs v) s₀ fun t => Recorded s t role i sub
        ∧ dnum t i sub = v ∧ dnum t i (if pairs then 4 else 3) = (if pairs then 48 * 2 ^ 30 * popcount 32 v else 9 * 2 ^ 30 * popcount 64 v)
        ∧ t = { s with dict := t.dict, audit := t.audit })
      ∧ (((bitList 64 v).all fun u => bit (dnum s i sub) u) = false → Runs (.mapWrite role part pairs v) s₀ fun t => Recorded s t role i sub
        ∧ FMap.get? (partAt t part).zeroing sub = some v ∧ dnum t i sub = dnum s i sub ∧ FMap.has t.tel.busy (dkey i sub) = true))
    ∧ (∀ vf (capacity : Bool), let i := 0x50FF + vf
      let sub := if capacity then 2 else 1
      1 ≤ vf → vf ≤ 1024 → Accepted s role i sub (.num v) → AuditRoom s → Runs (.vfQuotaWrite role vf capacity v) s₀ fun t =>
        Recorded s t role i sub ∧ dnum t i sub = v ∧ t = { s with dict := t.dict, audit := t.audit }
          ∧ ∀ p, fnPart s vf = some p → dnum t (0x5000 + p) (sub + 5) = dnum s (0x5000 + p) (sub + 5) - dnum s i sub + v)
    ∧ (∀ vf, 1 ≤ vf → vf ≤ 1024 → Accepted s role (0x40FF + vf) 1 (.num v) → AuditRoom s →
        Runs (.vfPartitionWrite role vf v) s₀ fun t => Recorded s t role (0x40FF + vf) 1 ∧ t = { s with dict := t.dict, audit := t.audit }
          ∧ dnum t (0x40FF + vf) 1 = v
          ∧ (dnum s (0x40FF + vf) 1 ≠ v → dnum t (0x40FF + vf) 6 = (if v < 32 then 1 else 0)
            ∧ (v < 32 → dnum t (0x4000 + v) 11 = dnum s (0x4000 + v) 11 + 1)
            ∧ ∀ p, fnPart s vf = some p → dnum t (0x4000 + p) 11 = dnum s (0x4000 + p) 11 - 1))
    ∧ (∀ sub w, 1 ≤ sub → sub ≤ 6 → Accepted s role (0x4000 + part) sub w → AuditRoom s → Runs (.poolWrite role part sub w) s₀ fun t =>
        Recorded s t role (0x4000 + part) sub ∧ dget t (dkey (0x4000 + part) sub) = w
          ∧ (sub ≠ 1 → t = { s with dict := t.dict, audit := t.audit })
          ∧ (sub = 1 → ∀ k, k < 32 → bit (dnum s (0x4000 + part) 1) k = true → bit w.toNat k = false → (coreAt t k).zeroing = true)))
  ∧ ∀ (s : State) (part : Nat), part < 32 →
    ((partAt s part).zeroing = [] → Runs (.unitZeroingDone part) s (· = s))
    ∧ ∀ sub v l, (sub = 1 ∨ sub = 2) → (partAt s part).zeroing = (sub, v) :: l → Runs (.unitZeroingDone part) s fun t =>
      s.tel.heldWrites = [] → (partAt t part).zeroing = FMap.erase ((sub, v) :: l) sub ∧ dnum t (0x5000 + part) sub = v
        ∧ dnum t (0x5000 + part) (if sub = 1 then 3 else 4)
          = (if sub = 1 then 9 * 2 ^ 30 * popcount 64 v else 48 * 2 ^ 30 * popcount 32 v)
        ∧ FMap.has t.tel.busy (dkey (0x5000 + part) sub) = false

/-- A write of 1 to 0x4000.08 flushes the partition, but only when the partition holds no admitted job and no queue; otherwise
the write fails with 0x0809 and has no effect. The flush returns every retired buffer index with generation 0 and
increments 0x4000.07; base buffers keep their indices and generations, and no queue is left that could carry a handle
(R319). Every other index keeps its generation and counts as one that has held no buffer (R122). The write is taken behind
the internal events of its beat (R468). -/
def Obligations.EpochFlush : Prop :=
  ∀ (s₀ : State) (role : Role) (part : Nat), let s := settleAll s₀
    part < 32 → served s = true → FMap.has s.tel.busy (dkey (0x4000 + part) 8) = false →
    rightStatus s role (0x4000 + part) 8 true = 0 →
    let used : Prop := (∃ j J, (j, J) ∈ s.jobs ∧ J.part = part) ∨ ∃ q Q, (q, Q) ∈ s.queues ∧ Q.part = part
    (used → writeStatus s role none (0x4000 + part) 8 (.num 1) = 0x0809
      ∧ Runs (.epochFlush role part) s₀ fun t => t = { s with fresh := t.fresh })
    ∧ (¬used → stagedByOther s none (0x4000 + part) 8 = false → AuditRoom s → auditFull s = false →
      Runs (.epochFlush role part) s₀ fun t =>
        t = { s with index := t.index, dict := t.dict, audit := t.audit } ∧ Counted s t (0x4000 + part) 7 1
          ∧ Recorded s t role (0x4000 + part) 8
          ∧ (FMap.wf s.index = true → ∀ k, FMap.get? t.index k = (FMap.get? s.index k).bind fun x =>
              if keyPart k = part ∧ x.live = false then (if x.retired then none else some { x with ever := false }) else some x)
          ∧ ∀ q Q, (q, Q) ∈ t.queues → Q.part ≠ part)

/-- A reset with no read to drain is over at once: the function has no job, no queue and no mailbox request, and is ready
again; one that drains ends with the drain limit at the latest, and meanwhile its commands are gone and its mailbox is
empty (R316, R317). The PF's reset resets every assigned VF and the PF, which waits for the last of them (R318). A function
that does not answer is not reset by an FLR.
A window register takes its handle and its 4 KiB aligned offset. A read inside a buffer that a queue of the function may
name answers its committed bytes, a write of a function without a job lands at once, and one to a job in replay as R291
says; an access that no window and buffer takes is counted, and a read of it completes as Unsupported Request (R342, R343).
An access is taken behind the internal events of its beat (R468). -/
def Obligations.ResetsAndHostWindows : Prop :=
  ((∀ (s : State) (vf : Nat), (vf = 0 ∨ usable s vf = false) → Runs (.functionReset vf none) s (· = s))
  ∧ (∀ (s₀ s : State) (vf : Nat) (by_ : Option Role), 1 ≤ vf → inReset s vf = false →
    (by_ = none ∧ s₀ = s ∧ usable s vf = true
      ∨ s = settleAll s₀ ∧ vf ≤ 1024 ∧ AuditRoom s ∧ ∃ role, by_ = some role ∧ Accepted s role (0x40FF + vf) 6 (.num 2)) →
    let drains := decide (dnum s (fnIndex vf) 5 = 0) && readsOut s vf
    (drains = false → Runs (.functionReset vf by_) s₀ fun t =>
      mboxAt t vf = { badDoorbells := (mboxAt s vf).badDoorbells } ∧ inReset t vf = false
        ∧ (∀ q Q, queueAt t q = some Q → Q.fn ≠ vf) ∧ (∀ j J, jobAt t j = some J → J.fn ≠ vf) ∧ dnum t (fnIndex vf) 6 = 1)
    ∧ (drains = true → Runs (.functionReset vf by_) s₀ fun t =>
      FMap.get? t.host.resetting vf = some s.now ∧ (mboxAt t vf).inbox = [] ∧ (mboxAt t vf).held = [] ∧ dnum t (fnIndex vf) 6 = 2
        ∧ (∀ q Q, queueAt t q = some Q → Q.fn = vf → Q.cmds = [] ∧ Q.runs = [])
        ∧ (by_ ≠ none → FMap.has t.tel.busy (dkey (0x40FF + vf) 6) = true)))
  ∧ (∀ (s : State), usable s 0 = false → Runs (.pfReset none) s (· = s))
  ∧ (∀ (s : State), usable s 0 = true → s.host.resetting = [] →
    (s.host.reads = [] → Runs (.pfReset none) s fun t => inReset t 0 = false
      ∧ (∀ q Q, queueAt t q = some Q → assigned s Q.fn = false) ∧ ∀ j J, jobAt t j = some J → assigned s J.fn = false)
    ∧ ((∃ vf, 1 ≤ vf ∧ vf ≤ 1024 ∧ assigned s vf = true ∧ dnum s (fnIndex vf) 5 = 0 ∧ readsOut s vf = true) →
        Runs (.pfReset none) s fun t => t.host.pfReset = true ∧ inReset t 0 = true))
  ∧ (∀ (s : State) (fn : Nat), FMap.get? s.host.resetting fn = none → s.tel.busy = [] → Runs (.drainLimitExpiry fn) s (· = s))
  ∧ ∀ (s : State) (fn t0 : Nat), FMap.get? s.host.resetting fn = some t0 → Runs (.drainLimitExpiry fn) s fun t =>
      (s.tel.heldWrites = [] → (fn = 0 → s.host.pfReset = false) → t.now = max s.now (t0 + eff s 0x2400 2) ∧ inReset t fn = false
        ∧ ∀ q Q, queueAt t q = some Q → Q.fn ≠ fn))
  ∧ (∀ (s₀ : State) (fn : Nat) (op : Bar4Op), let s := settleAll s₀
    (usable s fn = false ∨ barsAnswer s = false) → Runs (.bar4Access fn op) s₀ fun t => t = s)
  ∧ ∀ (s₀ : State) (fn addr : Nat), let s := settleAll s₀
    usable s fn = true → barsAnswer s = true →
    (∀ w handle offset, 8 ≤ w → Runs (.bar4Access fn (.window w handle offset)) s₀ fun t => t = s)
    ∧ (∀ w handle offset, w < 8 → Runs (.bar4Access fn (.window w handle offset)) s₀ fun t => t = { s with host := t.host }
      ∧ FMap.get? t.host.windows (8 * fn + w) = some (handle, offset / 4096 * 4096)
      ∧ ∀ k, k ≠ 8 * fn + w → FMap.get? t.host.windows k = FMap.get? s.host.windows k)
    ∧ (∀ len, barTarget s fn addr len false = none → Runs (.bar4Access fn (.read addr len)) s₀ fun t =>
        t = { s with host := t.host, dict := t.dict } ∧ t.host.unsupported = true ∧ Counted s t 0xA040 4 1)
    ∧ (∀ len q key off, barTarget s fn addr len false = some (q, key, off) → Runs (.bar4Access fn (.read addr len)) s₀ fun t =>
        t = { s with host := t.host } ∧ t.host.unsupported = false
          ∧ t.host.lastRead.map Prod.fst = some ((committed s key).read off len))
    ∧ (∀ data, barTarget s fn addr data.length true = none → Runs (.bar4Access fn (.write addr data)) s₀ fun t =>
        t = { s with dict := t.dict } ∧ Counted s t 0xA040 4 1)
    ∧ ∀ data q key off, barTarget s fn addr data.length true = some (q, key, off) →
      let lands (t : State) : Prop := t.queues = s.queues ∧ t.mbx = s.mbx ∧ t.cores = s.cores
        ∧ (∀ b, FMap.get? s.bufs key = some b → FMap.get? s.tiered key = none →
            FMap.get? t.bufs key = some { b with data := b.data.write off data })
        ∧ ∀ k, k ≠ key → FMap.get? t.bufs k = FMap.get? s.bufs k
      ((∀ j J, (queueAt s q).bind Queue.job = some j → jobAt s j = some J → J.replay = none) →
        Runs (.bar4Access fn (.write addr data)) s₀ fun t => lands t ∧ t.jobs = s.jobs
          ∧ (recording s = false → t = { s with bufs := t.bufs, rel := t.rel, tiered := t.tiered }))
      ∧ ∀ j, (queueAt s q).bind Queue.job = some j →
        ((replayInput s j 3 q 0 data).2 = none → Runs (.bar4Access fn (.write addr data)) s₀ lands)
        ∧ ∀ due, (replayInput s j 3 q 0 data).2 = some due → Runs (.bar4Access fn (.write addr data)) s₀ fun t =>
          t.bufs = s.bufs ∧ t.queues = s.queues ∧ (jobAt t j).map Job.replayHeld
            = (jobAt s j).map fun J => J.replayHeld ++ [(due, .bar4Access fn (.write addr data))]

/-! ## Configuration, stops, firmware -/

/-- A commit that passes the checks sends the signature over the pending copy to the leader's engine and stands in progress;
one that does not changes nothing, as does one that finds nobody to serve it. The end of the copy's writing makes it the
active one, and a start that waited for it begins (R391, R401, R403). An accepted stop or overlay is in effect at once, the
overlay without its reserved bytes (R8, R405, R407). A firmware image that may be taken fills the slot that the hub does not
run, and every update is answered (R399, R400). The commands of the dictionary are taken behind the internal events of their
beat (R468). -/
def Obligations.ConfigurationStore : Prop :=
  (∀ (s₀ : State) (role : Role), let s := settleAll s₀
    (∀ value, Runs (.configurationCommit role value) s₀ fun t =>
        (served s = false → t = s)
        ∧ (served s = true → writeStatus s role none 0x2000 4 (.blob value) ≠ 0 → t = { s with fresh := t.fresh })
        ∧ (served s = true → writeStatus s role none 0x2000 4 (.blob value) = 0 →
            let image := pendingImage s
            engineAt t (leader s) = (engineAt s (leader s)).submit s.now {
                op := .verify (decodeKey (slice value 0 96)) (sha384 image) (beNat (slice value 96 48)) (beNat (slice value 144 48))
                src := .firmware, arrived := s.now, use := .configCommit role value image }
              ∧ (EngineIdle s (leader s) → EngineStarted s t (leader s) (.configCommit role value image))
              ∧ engineAt t (otherHub (leader s)) = engineAt s (otherHub (leader s))
              ∧ FMap.has t.tel.busy (dkey 0x2000 4) = true ∧ t = { s with sec := t.sec, tel := t.tel }))
    ∧ (∀ group stop, 1 ≤ group → group ≤ 4 → Accepted s role 0x3000 group (.num stop) → AuditRoom s → Runs (.stopChange role group stop) s₀ fun t =>
        Recorded s t role 0x3000 group ∧ activeStop t group = stop ∧ EntriesKept s t [dkey 0x3000 group]
          ∧ t = { s with dict := t.dict, audit := t.audit, clusters := t.clusters })
    ∧ ∀ stop value, stop < 10 → Accepted s role (0x3100 + stop) 2 (.blob value) → AuditRoom s →
        Runs (.overlayWrite role stop value) s₀ fun t =>
        Recorded s t role (0x3100 + stop) 2 ∧ dnum t (0x3100 + stop) 1 = value.length / 16
          ∧ dblob t (0x3100 + stop) 2 = (chunks 16 value).flatMap (fun r => slice r 0 4 ++ zeros 4 ++ r.drop 8)
          ∧ EntriesKept s t [dkey (0x3100 + stop) 1, dkey (0x3100 + stop) 2, dkey 0x2000 5]
          ∧ t = { s with dict := t.dict, audit := t.audit, clusters := t.clusters, cfg := t.cfg })
  ∧ ∀ (s : State),
    (s.cfg.writing = none → Runs .configurationWriteDone s (· = s))
    ∧ (∀ h copy, s.cfg.writing = some (h, copy) → Runs .configurationWriteDone s fun t =>
        let ended : State := { s with cfg := { s.cfg with writing := none } }
        let kept := t.cfg.writing = none ∧ copyOf t h = copy ∧ copyOf t (otherHub h) = copyOf s (otherHub h)
          ∧ dnum t 0x2000 1 = hubNumber h ∧ dnum t 0x2000 2 = copySeq copy ∧ FMap.has t.tel.busy (dkey 0x2000 4) = false
        (s.tel.heldWrites = [] → (s.cfg.startWaits = none ∨ committing ended = true) → kept
          ∧ t = { s with cfg := t.cfg, dict := t.dict, tel := t.tel })
        ∧ ∀ cold, s.tel.heldWrites = [] → s.cfg.startWaits = some cold → committing ended = false → kept
          ∧ dnum t 0x1200 2 = 1 ∧ dnum t 0x1200 1 = (if cold then 0 else 1) ∧ t.cfg.startWaits = none
          ∧ t.queues = [] ∧ t.jobs = [] ∧ t.sec.sessions = [])
    ∧ ∀ hub image,
      (droneOnly s = true → Runs (.firmwareUpdate hub image) s (· = s))
      ∧ (droneOnly s = false → updateCheck s hub image ≠ 0 → Runs (.firmwareUpdate hub image) s fun t =>
        t = { s with cfg := { s.cfg with updateStatus := s.cfg.updateStatus ++ [(hub, updateCheck s hub image)] }, fresh := t.fresh })
      ∧ (droneOnly s = false → updateCheck s hub image = 0 → Runs (.firmwareUpdate hub image) s fun t =>
        slotImage t hub (1 - runningSlot s hub) = some image ∧ runningSlot t hub = runningSlot s hub
          ∧ (∀ k, k ≠ 2 * hubNumber hub + (1 - runningSlot s hub) → FMap.get? t.cfg.slots k = FMap.get? s.cfg.slots k)
          ∧ t.cfg.updateStatus = s.cfg.updateStatus ++ [(hub, 0)] ∧ t.queues = s.queues ∧ t.jobs = s.jobs ∧ t.sec = s.sec)

/-! ## Starts, inputs and pins -/

/-- A cold start that is under way and meets no failing step of Table 16.4 leaves the module Ready with nothing of memory,
jobs or queues; a warm one keeps the beat counter running and every base buffer that it does not find damaged; a failing
step, or one that runs too long, is recorded, and the third failure in a row is hold (R390 to R396). Without a start under
way none of these does anything. A start request begins a start, which is cold where a warm one is not allowed, and waits
while a commit is in progress; in hold it is a cold one, the failures are forgotten, and its audit record is to follow. -/
def Obligations.Starts : Prop :=
  (∀ (s : State) (obs : StartObs),
    (starting s 0 = false → Runs (.coldStart obs) s (· = s)) ∧ (starting s 1 = false → Runs (.warmStart obs) s (· = s)))
  ∧ (∀ (s : State) (obs : StartObs), starting s 0 = true →
    (failedStep s obs false = none → Runs (.coldStart obs) s fun t => isReady t = true ∧ t.now = 0 ∧ dnum t 0x1200 5 = 0
      ∧ t.queues = [] ∧ t.jobs = [] ∧ t.bufs = [] ∧ t.keys = [] ∧ t.mbx = [] ∧ t.hbm = [] ∧ t.sec.sessions = []
      ∧ dnum t 0xB000 1 = (if obs.eastUp then 0 else 1) ∧ dnum t 0xB000 2 = 1 ∧ leads t (if obs.eastUp then .east else .west) = true)
    ∧ ∀ n st, failedStep s obs false = some (n, st) → Runs (.coldStart obs) s fun t => t.now = 0 ∧ t.queues = [] ∧ t.bufs = []
      ∧ dnum t 0x1200 3 = n ∧ dnum t 0x1200 4 = st ∧ Counted s t 0x1200 5 1
      ∧ dnum t 0x1200 2 = if 3 ≤ dnum t 0x1200 5 then 2 else 1)
  ∧ (∀ (s : State) (obs : StartObs), starting s 1 = true →
    (obs.retentionOk = true → failedStep s obs true = none →
      Runs (.warmStart obs) s fun t => isReady t = true ∧ t.now = s.now + 1000000 * dnum t 0x1200 6 ∧ t.queues = [] ∧ t.jobs = []
        ∧ t.sec.sessions = [] ∧ ((∀ e ∈ s.parts, e.2.baseJob = none) → obs.badTables = [] →
          ∀ key b, FMap.get? s.bufs key = some b → keptBuf b = true → FMap.get? t.bufs key = some b))
    ∧ (∀ n st, obs.retentionOk = true → failedStep s obs true = some (n, st) → Runs (.warmStart obs) s fun t => t.now = s.now
      ∧ t.queues = [] ∧ t.jobs = [] ∧ dnum t 0x1200 1 = 0 ∧ dnum t 0x1200 3 = n ∧ dnum t 0x1200 4 = st ∧ Counted s t 0x1200 5 1
      ∧ dnum t 0x1200 2 = if 3 ≤ dnum t 0x1200 5 then 2 else 1)
    ∧ (obs.retentionOk = false → Runs (.warmStart obs) s fun t => t.now = 0 ∧ dnum t 0x1200 1 = 0 ∧ t.bufs = []))
  ∧ (∀ (s : State) (n : Nat), let under := s.pwr.rails = true ∧ dnum s 0x1200 2 = 1 ∧ 1 ≤ n ∧ n ≤ 9
    (¬under → Runs (.startStepTimeout n) s (· = s))
    ∧ (under → Runs (.startStepTimeout n) s fun t =>
      dnum t 0x1200 3 = n ∧ dnum t 0x1200 4 = stepStatus n ∧ Counted s t 0x1200 5 1 ∧ dnum t 0x1200 1 = 0
        ∧ dnum t 0x1200 2 = (if 3 ≤ dnum t 0x1200 5 then 2 else 1) ∧ t = { s with dict := t.dict, cfg := t.cfg }))
  ∧ (∀ (s₀ : State) (role : Role), let s := settleAll s₀
    let begun (cold : Bool) (t : State) : Prop := dnum t 0x1200 2 = 1 ∧ dnum t 0x1200 1 = (if cold then 0 else 1)
      ∧ t.queues = [] ∧ t.jobs = [] ∧ t.sec.sessions = [] ∧ t.pins.gpioFn = [] ∧ t.pwr = s.pwr ∧ t.now = s.now
    let waits (cold : Bool) (t : State) : Prop := t.cfg.startWaits = some cold ∧ t = { s with dict := t.dict, audit := t.audit, cfg := t.cfg }
    (∀ h, h ≠ isHold s₀ → Runs (.startRequestWarm role h) s₀ (· = s₀) ∧ Runs (.startRequestCold role h) s₀ (· = s₀))
    ∧ (isHold s₀ = false → AuditRoom s →
      (Accepted s role 0x1200 7 (.num 1) → Runs (.startRequestWarm role false) s₀ fun t =>
        Recorded s t role 0x1200 7 ∧ if committing s then waits (!warmAllowed s) t else begun (!warmAllowed s) t)
      ∧ (Accepted s role 0x1200 7 (.num 2) → Runs (.startRequestCold role false) s₀ fun t =>
        Recorded s t role 0x1200 7 ∧ if committing s then waits true t else begun true t))
    ∧ (isHold s₀ = true →
      (Accepted s .installer 0x1200 7 (.num 1) → Runs (.startRequestWarm role true) s₀ fun t =>
        begun true t ∧ dnum t 0x1200 5 = 0 ∧ t.cfg.holdRequest = some (s.drone, 1))
      ∧ (Accepted s .installer 0x1200 7 (.num 2) → Runs (.startRequestCold role true) s₀ fun t =>
        begun true t ∧ dnum t 0x1200 5 = 0 ∧ t.cfg.holdRequest = some (s.drone, 2))))
  ∧ ∀ (s : State),
    let begun (cold : Bool) (t : State) : Prop := dnum t 0x1200 2 = 1 ∧ dnum t 0x1200 1 = (if cold then 0 else 1)
      ∧ t.queues = [] ∧ t.jobs = [] ∧ t.sec.sessions = [] ∧ t.pins.gpioFn = [] ∧ t.pwr = s.pwr ∧ t.now = s.now
    (s.pwr.rails = false → Runs .modrstAssert s (· = s))
    ∧ (s.pwr.rails = true → isHold s = false → committing s = true → Runs .modrstAssert s fun t =>
        t = { s with cfg := { s.cfg with startWaits := some (!warmAllowed s) } })
    ∧ (s.pwr.rails = true → isHold s = false → committing s = false → Runs .modrstAssert s (begun (!warmAllowed s)))
    ∧ (s.pwr.rails = true → isHold s = true → Runs .modrstAssert s fun t => begun true t ∧ dnum t 0x1200 5 = 0)

/-- The rails come up where both inputs are in range, PWR_EN is high and the reference is good, and a cold start begins; with
a bad reference the finding is logged and nothing else happens; with an input missing nothing does. They go down, and
everything that they held is lost, where PWR_EN falls or an input leaves its range; the loss of 12 V resets the drone
counter and clears the repair lists (R372, R438, R460, R461). A die sensor above 105 °C makes the module hot until one
reads below 100 °C, with a step down of every cluster in service at most once in 1 ms meanwhile; at 115 °C the rails go off
and THERMTRIP# falls (R383). -/
def Obligations.InputsAndRails : Prop :=
  (∀ (s : State) (ok : Bool),
    let fed (u : State) : Prop := u.pwr.rails = false ∧ u.pwr.pwrEn = true ∧ u.pwr.main48 = true ∧ u.pwr.aux12 = true
    let supplied (u : State) (ok : Bool) (t : State) : Prop :=
      (¬fed u → t = u)
      ∧ (fed u → ok = false → t = { u with tel := t.tel, dict := t.dict, fresh := t.fresh })
      ∧ (fed u → ok = true → t.pwr = { u.pwr with rails := true } ∧ t.pins.pwrGood = true
          ∧ t.drone = max u.drone (u.pwr.auxSince + 500000) + 300000
          ∧ (isHold u = false → dnum t 0x1200 2 = 1 ∧ dnum t 0x1200 1 = 0 ∧ t.queues = []))
    (Runs (.pwrEnRise ok) s (supplied { s with pwr := { s.pwr with pwrEn := true } } ok))
    ∧ (Runs (.refclkCheck ok) s (supplied s ok))
    ∧ (Runs .main48vApplied s (supplied { s with pwr := { s.pwr with main48 := true } } true))
    ∧ (s.pwr.aux12 = true → Runs .aux12vApplied s (· = s))
    ∧ (s.pwr.aux12 = false → Runs .aux12vApplied s
        (supplied { s with pwr := { s.pwr with aux12 := true, auxSince := 0 }, drone := 0 } true)))
  ∧ ∀ (s : State),
    let down (t : State) : Prop := t.pwr.rails = false ∧ (s.pwr.rails = true → t.pins.pwrGood = false ∧ t.queues = [] ∧ t.jobs = []
      ∧ t.bufs = [] ∧ t.hbm = [] ∧ t.cores = [] ∧ t.cfg.rangeLost = true)
    (Runs .pwrEnFall s fun t => down t ∧ t.pwr.pwrEn = false)
    ∧ (s.pwr.aux12 = false → Runs .aux12vLow s (· = s))
    ∧ (s.pwr.aux12 = true → Runs .aux12vLow s fun t => down t ∧ t.pwr.aux12 = false ∧ t.drone = 0 ∧ t.rel.repair = [] ∧ t.cfg.holdRequest = none
        ∧ t.cfg.rangeLost = true ∧ isHold t = false ∧ (isHold s = true → dnum t 0x1200 2 = 1 ∧ dnum t 0x1200 5 = 0))
    ∧ (Runs .main48vOutOfRange s fun t => down t ∧ t.pwr.main48 = false)
    ∧ ∀ die celsius,
      let stepDue := (match s.pwr.lastHotStep with | none => true | some b => decide (1000000 ≤ s.now - b)) = true
      let stepped (t : State) : Prop := (stepDue → t.pwr.lastHotStep = some s.now
            ∧ ∀ d, d < 8 → (clusterAt s d).inService = true → (clusterAt t d).step = some false)
          ∧ (¬stepDue → t.clusters = s.clusters ∧ t.pwr.lastHotStep = s.pwr.lastHotStep)
      let read (t : State) : Prop := FMap.getD t.pwr.temps die 0 = celsius ∧ (die < 8 →
        dnum t (0x9200 + die) 9 = min (max (dnum s (0x9200 + die) 9) (min celsius (2 ^ 31 - 1))) (2 ^ 32 - 1))
      let warm : Prop := ∃ d c, (d, c) ∈ s.pwr.temps ∧ d ≠ die ∧ 100 ≤ c
      (s.pwr.rails = false → Runs (.dieTemperatureHigh die celsius) s (· = s))
      ∧ (s.pwr.rails = true →
        (115 ≤ celsius → Runs (.dieTemperatureHigh die celsius) s fun t => down t ∧ t.pins.thermtripN = false
          ∧ (alarmAt t 13).count = min ((alarmAt s 13).count + 1) (2 ^ 32 - 1))
        ∧ (105 < celsius → celsius < 115 → Runs (.dieTemperatureHigh die celsius) s fun t => t.pwr.hot = true ∧ t.pwr.rails = true
            ∧ t.queues = s.queues ∧ (s.pwr.hot = false → Raised s t 13) ∧ stepped t ∧ read t)
        ∧ (100 ≤ celsius ∨ warm → celsius ≤ 105 → Runs (.dieTemperatureHigh die celsius) s fun t => t.pwr.hot = s.pwr.hot ∧ t.queues = s.queues
            ∧ t.tel = s.tel ∧ (s.pwr.hot = true → stepped t) ∧ (s.pwr.hot = false → t.clusters = s.clusters) ∧ read t)
        ∧ (celsius < 100 → ¬warm → Runs (.dieTemperatureHigh die celsius) s fun t =>
            t = { s with pwr := { s.pwr with hot := false, temps := t.pwr.temps }, dict := t.dict } ∧ read t))

/-- An edge on BEAT_SYNC_IN near the pulse locks the head's counter, any other on a locked head is counted, and one high for
less than 20 ns is none; at each multiple of 2²⁰ a locked module sends a pulse, and 16 missing edges in a row unlock the
head (R462; log entry 53 names the model's reading of an edge on an unlocked head). An exchange gives a member its offset
(log entry 54); a locked counter moves by at most one beat and never backward, an unlocked one locks within one beat of its
parent, and 16 missed exchanges unlock it (R282, R338). On a module that is not Ready, an unlocked one's pulse, an edge at
one that is no head with an input, and an exchange at one that is no member, change nothing. -/
def Obligations.BeatCounter : Prop :=
  (∀ (s : State) (ns : Nat), let head := isReady s = true ∧ eff s 0xA000 7 ≠ 0 ∧ isMember s = false
    (ns < 20 ∨ ¬head → Runs (.beatSyncInEdge ns) s (· = s))
    ∧ (20 ≤ ns → head → nearPulse s.now = true → Runs (.beatSyncInEdge ns) s fun t =>
        locked t = true ∧ t.pins.missedEdges = 0 ∧ t.now = s.now ∧ t = { s with dict := t.dict, pins := t.pins, win := t.win })
    ∧ (20 ≤ ns → head → nearPulse s.now = false → locked s = true →
        Runs (.beatSyncInEdge ns) s fun t => t = { s with dict := t.dict } ∧ Counted s t 0xA050 1 1)
    ∧ (20 ≤ ns → head → nearPulse s.now = false → locked s = false → Runs (.beatSyncInEdge ns) s (· = s))
    ∧ (isReady s = false ∨ locked s = false → Runs .beatSyncOutPulse s (· = s))
    ∧ (isReady s = true → locked s = true → Runs .beatSyncOutPulse s fun t => t.now = roundUp s.now (2 ^ 20) ∧ Counted s t 0xA050 2 1
        ∧ t = { s with now := t.now, dict := t.dict, pins := t.pins }
        ∧ (¬head → locked t = true ∧ t.pins = s.pins)
        ∧ (head → s.pins.missedEdges < 16 → locked t = true ∧ t.pins.missedEdges = s.pins.missedEdges + 1)
        ∧ (head → 16 ≤ s.pins.missedEdges → locked t = false)))
  ∧ ∀ (s : State) (stamps : Nat × Nat × Nat × Nat), let off := exchangeOffset stamps
    (isReady s = false ∨ isMember s = false → Runs (.timeSyncExchange none) s (· = s) ∧ Runs (.timeSyncExchange (some stamps)) s (· = s))
    ∧ (isReady s = true → isMember s = true →
      (Runs (.timeSyncExchange none) s fun t => t.now = s.now ∧ (16 ≤ s.win.syncMissed + 1 → locked t = false)
        ∧ t = { s with dict := t.dict, win := { s.win with syncMissed := s.win.syncMissed + 1 } })
      ∧ (locked s = false → -8 ≤ off → off ≤ 8 → Runs (.timeSyncExchange (some stamps)) s fun t => locked t = true ∧ t.now = s.now
        ∧ t.pins.missedEdges = 0 ∧ t = { s with dict := t.dict, pins := t.pins, win := { s.win with offset8 := off, syncMissed := 0 } })
      ∧ (locked s = true ∨ off < -8 ∨ 8 < off → Runs (.timeSyncExchange (some stamps)) s fun t =>
        let due := 1000000 ≤ s.win.slew + 65536
        t.win.offset8 = off ∧ t.win.syncMissed = 0 ∧ t = { s with now := t.now, win := t.win }
          ∧ t.now = (if due ∧ 8 ≤ off then s.now + 1 else s.now)
          ∧ (s.win.pause = false → (t.win.pause = true ↔ due ∧ off ≤ -8))))

/-! ## Core power -/

/-- A wake of a gated core in the cluster mask starts a stopped PLL and makes the core wait or ramp; one that no other wake
waits before ramps where both limits of the budget leave room (R375, R377, R378, R385). The ramp's end puts the core on where
its cluster's PLL runs, and counts a deferral; the PLL's lock puts the ramped cores on. An idle core gates and loses what
its domain held, and the PLL of a cluster with every core gated stops (R374 to R376). In any other state these events
change nothing. -/
def Obligations.CorePower : Prop :=
  ∀ (s : State) (core c : Nat),
    let own := coreAt s core
    let stays := own.power ≠ .on ∨ coreNeeded s core = true ∨ coreSaving s core = true ∨ (eff s 0x9000 4 = 0 ∧ own.holder.isSome = true)
    let allGated := ∀ k, k < 4 → (coreAt s (4 * c + k)).power = .gated
    (¬(own.power = .gated ∧ inMask s (core / 4) = true ∧ own.inService = true) → Runs (.wakeRequest core) s (· = s))
    ∧ (own.power = .gated → inMask s (core / 4) = true → own.inService = true → Runs (.wakeRequest core) s fun t =>
      ((coreAt t core).power = .waiting ∨ (coreAt t core).power = .ramping) ∧ (coreAt t core).wakeAt = s.now
        ∧ (clusterAt t (core / 4)).pll = (if (clusterAt s (core / 4)).pll = .off then .locking else (clusterAt s (core / 4)).pll)
        ∧ (clusterAt t (core / 4)).lastUse = s.now ∧ Counted s t (0x9200 + core / 4) 1 1
        ∧ t = { s with cores := t.cores, clusters := t.clusters, dict := t.dict }
        ∧ ((∀ e ∈ s.cores, e.2.power ≠ .waiting ∧ (e.1 = core → e.2.power ≠ .ramping)) → (coreAt t core).power
          = if rampingCores s (fun k => k / 4 = core / 4) < eff s 0x9000 6 ∧ rampingCores s (fun _ => true) < eff s 0x9000 7
            then .ramping else .waiting)
        ∧ ∀ k, k ≠ core → (∀ e ∈ s.cores, e.1 = k → e.2.power ≠ .waiting) → coreAt t k = coreAt s k)
    ∧ (own.power ≠ .ramping → Runs (.rampEnd core) s (· = s))
    ∧ (own.power = .ramping → Runs (.rampEnd core) s fun t => t.now = max s.now (own.rampAt + 4000)
        ∧ ((clusterAt s (core / 4)).pll ≠ .on → (coreAt t core).power = .ramped)
        ∧ ((clusterAt s (core / 4)).pll = .on → (coreAt t core).power = .on ∧ (coreAt t core).idleSince = t.now
          ∧ let planned := own.wakeAt + if own.wakePllOff then 22000 else 6000
            (planned < t.now + 2000 → Counted s t (0x9200 + core / 4) 3 1
              ∧ Counted s t (0x9200 + core / 4) 4 (t.now + 2000 - planned) ∧ (coreAt t core).deferredTo = t.now + 2000)
            ∧ (t.now + 2000 ≤ planned → dnum t (0x9200 + core / 4) 3 = dnum s (0x9200 + core / 4) 3)))
    ∧ ((clusterAt s c).pll ≠ .locking → Runs (.pllLock c) s (· = s))
    ∧ ((clusterAt s c).pll = .locking → Runs (.pllLock c) s fun t => (clusterAt t c).pll = .on
        ∧ t.now = max s.now ((clusterAt s c).pllSince + 20000) ∧ (∀ d, d ≠ c → clusterAt t d = clusterAt s d)
        ∧ (∀ k, k < 4 → (coreAt s (4 * c + k)).power = .ramped → (coreAt t (4 * c + k)).power = .on)
        ∧ ∀ k, k / 4 ≠ c ∨ (coreAt s k).power ≠ .ramped → coreAt t k = coreAt s k)
    ∧ (stays → Runs (.idleGateExpiry core) s (· = s))
    ∧ (¬stays → Runs (.idleGateExpiry core) s fun t =>
        t.now = max s.now (own.idleSince + eff s 0x9000 4)
          ∧ coreAt t core = { own with
              power := .gated, vec := {}, upd := {}, drainEven := [], drainOdd := [], active := [], shadow := []
              mergeQueue := [], mergeHeld := [], mergeWait := none, mergePlan := [], mergeOwner := none }
          ∧ (∀ k, k ≠ core → coreAt t k = coreAt s k) ∧ t.clusters = s.clusters ∧ t.queues = s.queues ∧ t.bufs = s.bufs)
    ∧ ((clusterAt s c).pll ≠ .on ∨ ¬allGated → Runs (.pllOffExpiry c) s (· = s))
    ∧ ((clusterAt s c).pll = .on → allGated → Runs (.pllOffExpiry c) s fun t =>
        clusterAt t c = { clusterAt s c with pll := .off, pllSince := t.now }
          ∧ t.now = max s.now ((clusterAt s c).lastUse + eff s 0x9000 5)
          ∧ (∀ d, d ≠ c → clusterAt t d = clusterAt s d) ∧ t = { s with now := t.now, clusters := t.clusters })

/-- A sample above the limit requests a step down of every cluster in service, one in 1 ms, and at the floor raises the alarm
after 100 ms; 10 ms below 95% of it, a step up under the ceiling (R381). A step moves the clock by 50 MHz and holds its
cluster for 2,000 beats, counted as cycles of the old clock (log entry 138 names that choice), but not inside a pass and not
while the clock is stopped; at the floor or the ceiling the request ends (R72, R382). A droop throttles a cluster for 1 to
16 cycles, not again inside 64, and one that persists steps down; a kill that waited for the throttle's end takes effect
there (R73). A brown-out kills what runs on the cluster and holds it until VCORE recovers (R72, R380). -/
def Obligations.ClockAndDroop : Prop :=
  (∀ (s : State) (watts : Nat), let avg := averagePower ((watts :: s.pwr.samples).take 100)
    let limit := eff s 0x9000 1
    let due := s.pwr.stepped = false ∨ 1000000 ≤ s.now - s.pwr.lastStep
    let steps (b : Bool) (t : State) : Prop := ∀ d, d < 8 → (clusterAt s d).inService = true → (clusterAt t d).step = some b
    Runs (.powerSample watts) s fun t => dnum t 0x9100 1 = avg ∧ t.cores = s.cores ∧ t.queues = s.queues ∧ t.now = s.now
      ∧ (limit < avg → t.pwr.belowSince = none
        ∧ (400 < commonClock s → t.pwr.floorSince = none ∧ (due → steps false t ∧ t.pwr.lastStep = s.now) ∧ (¬due → t.clusters = s.clusters))
        ∧ (commonClock s ≤ 400 → t.clusters = s.clusters ∧ let since := s.pwr.floorSince.getD s.now
            (100000000 ≤ s.now - since → Raised s t 2 ∧ Counted s t 0x9100 5 1 ∧ t.pwr.floorSince = some s.now)
            ∧ (s.now - since < 100000000 → t.tel = s.tel ∧ t.pwr.floorSince = some since)))
      ∧ (avg ≤ limit → avg * 100 < limit * 95 → t.pwr.floorSince = none ∧ let since := s.pwr.belowSince.getD s.now
        let up := 10000000 ≤ s.now - since ∧ commonClock s < eff s 0x9000 2
        (up → steps true t ∧ t.pwr.belowSince = some s.now) ∧ (¬up → t.clusters = s.clusters ∧ t.pwr.belowSince = some since))
      ∧ (avg ≤ limit → limit * 95 ≤ avg * 100 → t.clusters = s.clusters ∧ t.pwr.belowSince = none))
  ∧ ∀ (s : State) (c : Nat), let cl := clusterAt s c
    let others (t : State) : Prop := ∀ d, d ≠ c → clusterAt t d = clusterAt s d
    let blocked := clockStopped s c = true ∨ midPass s c = true
    let alone (q : Nat) (Q : Queue) : Prop := s.queues = [(q, Q)] ∧ ∀ d ∈ Q.cmds, d.core / 4 ≠ c → (clusterAt s (d.core / 4)).throttled = false
    let struckIn (q : Nat) (t : State) : Prop := ∃ Q', queueAt t q = some Q' ∧ Q'.heldKill = none
      ∧ ∀ d ∈ Q'.cmds, d.state = .fetched ∨ d.failed = true ∨ d.fixed s.now = true
    (blocked ∨ cl.step = none → Runs (.powerStep c) s (· = s))
    ∧ (∀ up, ¬blocked → cl.step = some up →
        let clock := if up then min (cl.clock + 50) (eff s 0x9000 2) else max (min (cl.clock - 50) (eff s 0x9000 2)) 400
        (clock = cl.clock → Runs (.powerStep c) s fun t => t = { s with clusters := t.clusters } ∧ clusterAt t c = { cl with step := none } ∧ others t)
        ∧ (clock ≠ cl.clock → Runs (.powerStep c) s fun t => t.now = s.now + 2000 ∧ clusterAt t c = { cl with clock, step := none } ∧ others t
          ∧ Counted s t (0x9200 + c) (if up then 6 else 5) 1
          ∧ (∀ k, k < 4 → (coreAt s (4 * c + k)).power = .on → Counted s t (0x6300 + 4 * c + k) 9 (2000 * cl.clock / 1000))
          ∧ t.cores = s.cores ∧ t.bufs = s.bufs ∧ t.jobs = s.jobs))
    ∧ (cl.throttled = true ∨ cl.brownedOut = true → Runs (.vcoreDroop c) s (· = s))
    ∧ (cl.throttled = false → cl.brownedOut = false →
        (cl.gap = false → Runs (.vcoreDroop c) s fun t => clusterAt t c = { cl with throttled := true, gap := false, gapDroop := false }
          ∧ others t ∧ (∀ k, k < 4 → Counted s t (0x6300 + 4 * c + k) 6 1) ∧ t = { s with clusters := t.clusters, dict := t.dict })
        ∧ (cl.gap = true → Runs (.vcoreDroop c) s fun t => t = { s with clusters := t.clusters } ∧ clusterAt t c = { cl with gapDroop := true }
          ∧ others t))
    ∧ (∀ cycles persists, cl.throttled = false → Runs (.droopThrottleEnd c cycles persists) s (· = s))
    ∧ (∀ cycles persists, c < 8 → cl.throttled = true → Runs (.droopThrottleEnd c cycles persists) s fun t =>
        (clusterAt t c).throttled = false ∧ (clusterAt t c).gap = true ∧ (clusterAt t c).gapDroop = persists
          ∧ ((∀ e ∈ s.queues, e.2.heldKill = none) → ∀ k, k < 4 → Counted s t (0x6300 + 4 * c + k) 7 (min (max cycles 1) 16))
          ∧ (persists = true → 16 ≤ cycles → Raised s t 10 ∧ ∀ d, d < 8 → (clusterAt s d).inService = true → (clusterAt t d).step = some false)
          ∧ ∀ q Q, alone q Q → Q.heldKill.isSome = true → struckIn q t)
    ∧ (∀ b, cl.gap = false → Runs (.droopGapEnd c b) s (· = s))
    ∧ (cl.gap = true → Runs (.droopGapEnd c true) s (fun t => clusterAt t c = { cl with throttled := true, gap := false, gapDroop := false }
          ∧ others t ∧ (∀ k, k < 4 → Counted s t (0x6300 + 4 * c + k) 6 1) ∧ t = { s with clusters := t.clusters, dict := t.dict })
        ∧ Runs (.droopGapEnd c false) s (fun t => t = { s with clusters := t.clusters }
          ∧ clusterAt t c = { cl with gap := false, gapDroop := false } ∧ others t))
    ∧ (Runs (.brownOut c) s fun t => (clusterAt t c).brownedOut = true ∧ (clusterAt t c).throttled = false ∧ Raised s t 3
        ∧ ∀ q Q d, alone q Q → d ∈ Q.cmds → opEngine d.op = true → d.core / 4 = c → d.state ≠ .fetched → d.failed = false → struckIn q t)
    ∧ (Runs (.brownOutRecovery c) s fun t => t = { s with clusters := t.clusters }
        ∧ clusterAt t c = { cl with brownedOut := false } ∧ others t)

/-! ## Leader and host interface -/

/-- Each leading complex renews both arbiters, or demotes itself where its arbiter has a higher epoch, hub east first; one that
sees a higher epoch demotes itself; the follower that runs takes over at the next epoch, with every session and staged value
lost, and raises its alarm where no epoch is left; a crossbar takes a message of the highest epoch it has seen, and of two
complexes at one epoch hub east's, and drops and counts any other (R446 to R450, R23). Failover makes west the active
interface, once per start, and counts the reads that it loses (R344). -/
def Obligations.LeaderAndFailover : Prop :=
  (∀ (s : State),
    let renewed (h : Hub) (u v : State) : Prop :=
      (leads u h = false → v = u)
      ∧ (leads u h = true → epochOf u h < (arbiterAt u h).epoch → leads v h = false ∧ epochOf v h = (arbiterAt u h).epoch
        ∧ Counted u v 0xB000 4 1 ∧ v = { u with lease := v.lease, dict := v.dict })
      ∧ (leads u h = true → (arbiterAt u h).epoch ≤ epochOf u h → v = { u with lease := v.lease } ∧ leads v h = true
        ∧ v.lease.heartbeat = u.now ∧ ∀ g, arbiterAt v g = { epoch := epochOf u h, holder := h, renewed := u.now })
    Runs .leaseRenewal s fun t => ∃ m, renewed .east s m ∧ renewed .west m t)
  ∧ (∀ (s : State) (h : Hub),
    let sees := leads s h = true ∧ epochOf s h < max (arbiterAt s h).epoch (dnum s 0xB000 2)
    (¬sees → Runs (.demotion h) s (· = s))
    ∧ (sees → Runs (.demotion h) s fun t => leads t h = false
      ∧ epochOf t h = (arbiterAt s h).epoch ∧ Counted s t 0xB000 4 1 ∧ t = { s with lease := t.lease, dict := t.dict })
    ∧ (h = otherHub (leader s) →
      let runs := (match h with | .east => s.lease.upEast | .west => s.lease.upWest) = true
      let quiet := s.host.resetting = [] ∧ s.host.pfReset = false ∧ s.cfg.startWaits = none
      (¬runs → Runs .leaseTakeover s fun t => quiet → s.tel.busy = [] → t = s)
      ∧ (runs → 2 ^ 32 - 1 ≤ (arbiterAt s h).epoch → Runs .leaseTakeover s fun t => quiet → s.tel.busy = [] →
          Raised s t 73 ∧ t = { s with tel := t.tel, dict := t.dict, pins := t.pins, fresh := t.fresh })
      ∧ (runs → (arbiterAt s h).epoch < 2 ^ 32 - 1 → Runs .leaseTakeover s fun t => leads t h = true ∧ epochOf t h = (arbiterAt s h).epoch + 1
        ∧ (∀ g, (arbiterAt t g).epoch = (arbiterAt s h).epoch + 1 ∧ (arbiterAt t g).holder = h) ∧ t.sec.sessions = [] ∧ t.tel.staged = []
        ∧ (quiet → (∀ e ∈ s.parts, e.2.baseJob = none) → (∀ e ∈ s.queues, e.2.cmds = []) → leader t = h
          ∧ dnum t 0xB000 2 = (arbiterAt s h).epoch + 1 ∧ Counted s t 0xB000 3 1))))
  ∧ (∀ (s : State), Runs .leaseDisagreement s fun t => Raised s t 71
    ∧ t = { s with tel := t.tel, dict := t.dict, pins := t.pins, fresh := t.fresh })
  ∧ (∀ (s : State) (c epoch : Nat) (src : Hub), let cl := clusterAt s c
    let tie := epoch = cl.epochSeen ∧ src = .west ∧ cl.epochFrom = .east ∧ fuse s 1 = true
    (cl.epochSeen ≤ epoch → ¬tie →
      Runs (.managementMessage c src epoch) s fun t => t = { s with clusters := t.clusters }
        ∧ clusterAt t c = { cl with epochSeen := epoch, epochFrom := src } ∧ ∀ d, d ≠ c → clusterAt t d = clusterAt s d)
    ∧ (epoch < cl.epochSeen ∨ tie → Runs (.managementMessage c src epoch) s fun t => t.clusters = s.clusters
      ∧ Counted s t 0xB000 5 1 ∧ Raised s t 72
      ∧ (epoch < cl.epochSeen → epochOf s src < cl.epochSeen → leads t src = false)
      ∧ (tie → t.lease = s.lease)))
  ∧ (∀ (s : State),
    let quiet := s.host.resetting = [] ∧ s.host.pfReset = false ∧ s.tel.busy = []
    (activeHub s = 1 ∨ s.host.failedOver = true → Runs .eastLinkDownTimeout s fun t => quiet → t = { s with host := { s.host with eastUp := false } })
    ∧ (activeHub s ≠ 1 → s.host.failedOver = false → Runs .eastLinkDownTimeout s fun t =>
        activeHub t = 1 ∧ t.host.failedOver = true ∧ t.host.eastUp = false ∧ Raised s t 8
        ∧ (quiet → (∀ e ∈ s.host.reads, ∀ p, e.2.use = .baseTensor p → p < 32) → (∀ c, c < 8 → (hubRoute 1 c).all (linkUp s) = true) →
          Counted s t 0xA040 2 1 ∧ Counted s t 0xA040 3 (s.host.reads.filter fun e => !e.2.squashed).length
            ∧ t.host.pausedTo = s.now + 1000)))
  ∧ ∀ (s₀ : State) (role : Role), let s := settleAll s₀
    Accepted s role 0xA040 1 (.num 1) → AuditRoom s →
      (activeHub s ≠ 1 → s.host.failedOver = false → Runs (.failoverRequest role) s₀ fun t =>
        activeHub t = 1 ∧ t.host.failedOver = true ∧ Raised s t 8)
      ∧ (activeHub s = 1 ∨ s.host.failedOver = true → Runs (.failoverRequest role) s₀ fun t =>
        s.host.resetting = [] → s.host.pfReset = false → Recorded s t role 0xA040 1
          ∧ t = { s with dict := t.dict, audit := t.audit })

/-! ## Windway -/

/-- Tag failures of a live port are counted, each has its flit replayed, and the eighth in a row makes it retrain; the second
lost lane takes the port out of service (R327, R328). A key exchange that checks brings the port up with its peer, one that
does not, or whose engine's source has failed, takes it out for a second; a rekey starts its counter again (R339). A crook
link repairs two lanes of each module and is down with the third (R18). The fabric manager's lease, fences and fence notices,
taken behind the internal events of their beat (R468), follow the highest epoch; of two candidates at one epoch the lower
module holds the role, and the third renewal missed in a row hands it to the next candidate (R340). -/
def Obligations.WindwayPorts : Prop :=
  (∀ (s : State) (w : Nat),
    let others (t : State) : Prop := ∀ p, p ≠ w → portAt t p = portAt s p
    let keys := portState s w = 2 ∨ portState s w = 3
    let sub := match portHub w with | .east => 1 | .west => 2
    (∀ again : Bool, let n := if again then (portAt s w).tagFails + 1 else 1
      (portState s w ≠ 4 → Runs (.flitTagFailure w again) s (· = s))
      ∧ (portState s w = 4 → Runs (.flitTagFailure w again) s fun t => Counted s t (0xA010 + w) 3 1 ∧ others t
        ∧ (trunkAt t (trunkOf w)).replays = (trunkAt s (trunkOf w)).replays + 1
        ∧ (n < 8 → portState t w = 4 ∧ (portAt t w).tagFails = n) ∧ (8 ≤ n → portState t w = 2 ∧ (portAt t w).tagFails = 0 ∧ Raised s t 7)))
    ∧ (portState s w = 0 ∨ portState s w = 5 → Runs (.laneFailure w) s (· = s))
    ∧ (portState s w ≠ 0 → portState s w ≠ 5 →
      (dnum s (0xA010 + w) 2 = 0 → Runs (.laneFailure w) s fun t => portState t w = portState s w ∧ dnum t (0xA010 + w) 2 = 1 ∧ t.win = s.win)
      ∧ (dnum s (0xA010 + w) 2 ≠ 0 → Runs (.laneFailure w) s fun t => portState t w = 5 ∧ Raised s t 7 ∧ (portAt t w).retryAt = none ∧ others t))
    ∧ (∀ peer, ¬keys → Runs (.portKeyExchange w peer) s (· = s))
    ∧ (∀ peer, keys → helloOk s peer = true → (engineAt s (portHub w)).healthy = true → Runs (.portKeyExchange w peer) s fun t =>
          portState t w = 4 ∧ dnum t (0xA010 + w) 5 = peer.module ∧ (portAt t w).flits = 0 ∧ (portAt t w).tagFails = 0
            ∧ (portAt t w).retryAt = none ∧ Counted s t 0x8200 sub 5 ∧ others t)
    ∧ (∀ peer, keys → helloOk s peer = false ∨ (engineAt s (portHub w)).healthy = false → Runs (.portKeyExchange w peer) s fun t =>
          portState t w = 5 ∧ (portAt t w).keys = [] ∧ (portAt t w).retryAt = some (s.now + 10 ^ 9) ∧ Counted s t (0xA010 + w) 4 1
            ∧ Raised s t 11 ∧ Counted s t 0x8200 sub 5 ∧ others t)
    ∧ (portState s w ≠ 4 → Runs (.portRekey w) s (· = s))
    ∧ (portState s w = 4 → Runs (.portRekey w) s fun t => t = { s with win := t.win, fresh := t.fresh } ∧ (portAt t w).flits = 0
        ∧ (portAt t w).rekeys = (portAt s w).rekeys + 1 ∧ others t)
    ∧ ((portAt s w).retryAt = none → Runs (.keyRetryExpiry w) s (· = s))
    ∧ (∀ t0, (portAt s w).retryAt = some t0 → Runs (.keyRetryExpiry w) s fun t => portState t w = 3 ∧ (portAt t w).retryAt = none
        ∧ t.now = max s.now t0 ∧ others t))
  ∧ (∀ (s : State) (link module lanes : Nat), let used := FMap.getD s.rel.crookLanes (5 * link + module) 0
    (linkUp s link = false → Runs (.crookLinkLoss ⟨link, module, lanes⟩) s (· = s))
    ∧ (linkUp s link = true → used + lanes ≤ 2 → Runs (.crookLinkLoss ⟨link, module, lanes⟩) s fun t =>
        t = { s with rel := t.rel, dict := t.dict } ∧ linkUp t link = true ∧ Counted s t (0xB400 + link) 2 lanes
          ∧ FMap.getD t.rel.crookLanes (5 * link + module) 0 = used + lanes)
    ∧ (linkUp s link = true → 2 < used + lanes → Runs (.crookLinkLoss ⟨link, module, lanes⟩) s fun t =>
        ∃ u, u = { s with dict := u.dict, tel := u.tel, pins := u.pins, fresh := u.fresh } ∧ linkUp u link = false ∧ Raised s u 68
          ∧ t = checkReach u ∧ ((∀ c, c < 8 → (hubRoute (activeHub u) c).all (linkUp u) = true) → t = u)))
  ∧ ∀ (s₀ : State) (m epoch : Nat), let s := settleAll s₀
    let seen := dnum s 0xA000 4
    let stale (t : State) : Prop := t = { s with win := { s.win with stale := s.win.stale + 1, staleTold := s.win.staleTold ++ [epoch] } }
    (m ∉ candidates s → Runs (.fabricManagerLease (.renewal m epoch)) s₀ (· = s))
    ∧ (epoch < seen → (m ∈ candidates s → Runs (.fabricManagerLease (.renewal m epoch)) s₀ stale)
      ∧ (∀ lift, Runs (.fence m epoch lift) s₀ stale) ∧ Runs (.fenceNotice epoch) s₀ stale)
    ∧ (seen ≤ epoch → m ∈ candidates s → Runs (.fabricManagerLease (.renewal m epoch)) s₀ fun t => dnum t 0xA000 4 = epoch
        ∧ manager t = some (if seen < epoch then m else ((manager s).map fun h => min h m).getD m) ∧ t.win.missed = 0
        ∧ t = { s with win := t.win, dict := t.dict })
    ∧ (s.win.missed < 2 → Runs (.fabricManagerLease .missed) s₀ fun t => t = { s with win := { s.win with missed := s.win.missed + 1 } })
    ∧ (2 ≤ s.win.missed → Runs (.fabricManagerLease .missed) s₀ fun t => t.win.missed = 0 ∧ t = { s with win := t.win, dict := t.dict }
        ∧ match ((candidates s).dropWhile fun x => some x ≠ manager s).drop 1 with
          | [] => t = { s with win := { s.win with missed := 0 } }
          | x :: _ => manager t = some x ∧ (x = moduleId s → Counted s t 0xA000 4 1) ∧ (x ≠ moduleId s → dnum t 0xA000 4 = seen))
    ∧ (seen ≤ epoch → Runs (.fence m epoch false) s₀ (fun t => t = { s with win := t.win, dict := t.dict } ∧ dnum t 0xA000 4 = epoch
          ∧ FMap.get? t.win.fences m = some epoch ∧ ∀ n, n ≠ m → FMap.get? t.win.fences n = FMap.get? s.win.fences n)
        ∧ Runs (.fence m epoch true) s₀ (fun t => t = { s with win := t.win, dict := t.dict } ∧ dnum t 0xA000 4 = epoch
          ∧ FMap.get? t.win.fences m = none ∧ (∀ n, n ≠ m → FMap.get? t.win.fences n = FMap.get? s.win.fences n)
          ∧ t.win.spareState = (if m = moduleId s then false else s.win.spareState))
        ∧ (s.win.spareState = true → Runs (.fenceNotice epoch) s₀ fun t => t = { s with dict := t.dict } ∧ dnum t 0xA000 4 = epoch)
        ∧ (s.win.spareState = false → Runs (.fenceNotice epoch) s₀ fun t => t.win.spareState = true ∧ t.jobs = []))

/-- A packet of a remote MOVE is staged for its source command, the last one acknowledged, and where it completes an add into
an accumulator it stages ARRIVED or the conversion beside it (R225, R227, R331 to R333); one that cannot be staged is
answered with a failure notice (log entry 146 names its codes), one that reaches no live buffer is delivered without effect,
and one of a fenced module is dropped, counted and answered with a fence notice (R340; log entry 143 names the notice as the
model's reading). The source's commit makes what is staged the buffer's contents, its discard drops it. A hostless member's
write reaches host memory, its read is issued for it and its completion returned; a completion of a squashed read is
discarded; a read of a base tensor goes on to the next tensor, is tried again, or ends the load (R184, R317, R341). A
fundamental reset of the interface ends the reads in flight through it, and changes nothing where it is not active (R456). -/
def Obligations.RemoteAndHostTraffic : Prop :=
  (∀ (s : State) (p : RemotePkt),
    let old := remoteAt s p.job p.source p.cmd
    let now (t : State) : RemoteStage := remoteAt t p.job p.source p.cmd
    ∀ c ∈ [(Instr.remoteWrite p, false), (.remoteIntegerAdd p, true)],
      (∀ J, jobAt s p.job = some J → fencedSource s p.job p.source = true → Runs c.1 s fun t =>
        t = { s with dict := t.dict, win := { s.win with trunks := t.win.trunks, noticed := s.win.noticed ++ [jobModule s J p.source] } }
          ∧ Counted s t 0xA030 1 1)
      ∧ (fencedSource s p.job p.source = false → remoteTarget s p = none → Runs c.1 s fun t =>
        t = { s with win := { s.win with trunks := t.win.trunks } })
      ∧ ∀ J ver, fencedSource s p.job p.source = false → remoteTarget s p = some (J, ver) →
        let st := remoteRefusal s p J ver c.2
        (st ≠ 0 → Runs c.1 s fun t =>
          t = { s with win := { s.win with trunks := t.win.trunks, notices := s.win.notices ++ [(p.job, p.source, p.cmd, st)] } })
        ∧ (st = 0 → Runs c.1 s fun t =>
          t = { s with win := { s.win with trunks := t.win.trunks, staged := t.win.staged, acks := t.win.acks } }
            ∧ (now t).complete = p.last ∧ t.win.acks = s.win.acks ++ (if p.last then [(p.job, p.source, p.cmd)] else [])
            ∧ (now t).adds = old.adds ++ (if c.2 then [⟨ver, p.offset, p.data⟩] else [])
            ∧ (p.last = false ∨ isAcc s ver = false ∨ (now t).adds = [] → (now t).nf = old.nf ∧ (now t).obs = old.obs
              ∧ (now t).writes = old.writes ++ (if c.2 then [] else [⟨ver, p.offset, p.data⟩]))
            ∧ (p.last = true → isAcc s ver = true → (now t).adds ≠ [] →
              let f := accFinish J J.part ver (((now t).adds.filter fun w => w.buf = ver).foldl addInto (committed s (verBuf ver)))
              (now t).writes = old.writes ++ (if c.2 then [] else [⟨ver, p.offset, p.data⟩]) ++ f.1 ∧ (now t).nf = f.2.1 ∧ (now t).obs = f.2.2)))
  ∧ (∀ (s : State) (job source cmd : Nat) (discard : Bool),
    (∀ J, jobAt s job = some J → fencedSource s job source = true → Runs (.remoteCommit job source cmd discard) s fun t =>
      t = { s with dict := t.dict, win := { s.win with trunks := t.win.trunks, noticed := s.win.noticed ++ [jobModule s J source] } }
        ∧ Counted s t 0xA030 1 1)
    ∧ (fencedSource s job source = false →
      let found := s.win.staged.find? fun x => x.job = job && x.source = source && x.cmd = cmd
      (found = none → Runs (.remoteCommit job source cmd discard) s fun t => t = { s with win := { s.win with trunks := t.win.trunks } })
      ∧ ∀ x, found = some x →
        let dropped (t : State) : Prop := t.win = { s.win with trunks := t.win.trunks, staged := s.win.staged.filter (· ≠ x) }
        (discard = true ∨ x.complete = false → Runs (.remoteCommit job source cmd discard) s fun t => dropped t ∧ t = { s with win := t.win })
        ∧ (discard = false → x.complete = true → ∀ w b, let key := verBuf w.buf
          FMap.get? s.bufs key = some b → verKey key b.gen = w.buf → FMap.get? s.tiered key = none →
          let stored (t : State) (m : Mem) : Prop := dropped t ∧ FMap.get? t.bufs key = some { b with data := m }
            ∧ ∀ k, k ≠ key → FMap.get? t.bufs k = FMap.get? s.bufs k
          (x.writes = [w] → x.adds = [] → Runs (.remoteCommit job source cmd discard) s fun t => stored t (b.data.write w.off w.data)
            ∧ jobAt t job = (jobAt s job).map fun J => foldObs J x.nf x.obs)
          ∧ (x.writes = [] → x.adds = [w] → Runs (.remoteCommit job source cmd discard) s fun t =>
            stored t (b.data.write w.off (addElems (b.data.read w.off w.data.length) w.data))
              ∧ jobAt t job = (jobAt s job).map fun J => { foldObs J x.nf x.obs with
                accs := J.accs ++ if isAcc s w.buf && !J.accs.contains w.buf then [w.buf] else [] }))))
  ∧ (∀ (s : State) (member addr len : Nat) (bs : List Byte),
    let passed (t : State) : Prop := FMap.getD t.host.proxied member 0 = FMap.getD s.host.proxied member 0 + 1
    (Runs (.hostProxy member addr (some bs) len) s fun t => passed t ∧ t.host.reads = s.host.reads
      ∧ t = { s with host := t.host, hostOut := s.hostOut.write addr bs, win := { s.win with trunks := t.win.trunks } })
    ∧ (Runs (.hostProxy member addr none len) s fun t => passed t ∧ t = { s with host := t.host, win := { s.win with trunks := t.win.trunks } }
      ∧ t.host.nextRead = s.host.nextRead + 1
      ∧ FMap.get? t.host.reads s.host.nextRead = some { use := .proxy member, fn := 0, addr, len }))
  ∧ ∀ (s : State) (id : Nat) (data : List Byte),
    let quiet := s.host.resetting = [] ∧ s.host.pfReset = false ∧ s.tel.busy = []
    (FMap.get? s.host.reads id = none → (∀ ok, Runs (.hostReadCompletion id ok data) s fun t => quiet → t = s)
      ∧ Runs (.completionTimeout id) s fun t => quiet → t = s)
    ∧ (∀ hub, activeHub s ≠ hubNumber hub → Runs (.pcieFundamentalReset hub) s fun t => quiet → t = s)
    ∧ ∀ r, FMap.get? s.host.reads id = some r →
      let left (t : State) : Prop := FMap.get? t.host.reads id = none ∧ ∀ k, k ≠ id → FMap.get? t.host.reads k = FMap.get? s.host.reads k
      let returned (member : Nat) (ok : Bool) (bs : List Byte) (t : State) : Prop :=
        t.host.proxyOut = s.host.proxyOut ++ [(member, ok, slice bs 0 r.len)]
          ∧ (quiet → left t ∧ t = { s with host := t.host, win := { s.win with trunks := t.win.trunks } })
      (∀ ok, r.squashed = true → Runs (.hostReadCompletion id ok data) s fun t => t.host.discarded = s.host.discarded + 1
        ∧ (quiet → left t ∧ t = { s with host := t.host }))
      ∧ (r.squashed = true → Runs (.completionTimeout id) s fun t => t.host.discarded = s.host.discarded
        ∧ (quiet → left t ∧ t = { s with host := t.host }))
      ∧ (∀ member, r.use = .proxy member → r.squashed = false → (∀ ok, Runs (.hostReadCompletion id ok data) s (returned member ok data))
        ∧ Runs (.completionTimeout id) s (returned member false [])
        ∧ ∀ hub, activeHub s = hubNumber hub → s.host.reads = [(id, r)] → Runs (.pcieFundamentalReset hub) s (returned member false []))
      ∧ ∀ part b x, r.use = .baseTensor part → r.squashed = false → baseJobAt s part = some b → b.member = false → b.tensors[b.next]? = some x →
        let reads (y : Tensor) (t : State) : Prop := FMap.get? t.host.reads s.host.nextRead
          = some { use := .baseTensor part, fn := b.fn, addr := b.hostAddr + y.offset, len := y.bytes }
        let again (t : State) : Prop := quiet → baseJobAt t part = some { b with attempts := b.attempts + 1 } ∧ reads x t ∧ t.bufs = s.bufs
        (∀ y, data.length = x.bytes → sha384 data = x.digest → b.replace = false → b.tensors[b.next + 1]? = some y →
          Runs (.hostReadCompletion id true data) s fun t => quiet → reads y t ∧ t.bufs = s.bufs
            ∧ baseJobAt t part = some { b with
                next := b.next + 1, attempts := 0, loaded := if b.keeps then b.loaded ++ [data] else b.loaded })
        ∧ (b.attempts < 2 → (data.length ≠ x.bytes ∨ sha384 data ≠ x.digest → Runs (.hostReadCompletion id true data) s again)
          ∧ Runs (.hostReadCompletion id false data) s again ∧ Runs (.completionTimeout id) s again)
        ∧ (2 ≤ b.attempts → Runs (.completionTimeout id) s fun t => quiet → baseJobAt t part = none)

/-! ## Errors -/

/-- A corrected error is counted, and more than 1,000 in 1 s on one unit raise the alarm; a scrub pass writes the rows under
repair and its time (R434, R437, R438). An uncorrectable error in a core is counted and raises its alarm, and kills the
queue that met it; one of a lower tier fails the command that read, drops the promote's copy, or returns the eviction to its
copy, and the fourth in 24 h takes the channel out of service (R162, R435, R439). A MOVE that reads a poisoned word of a lower
tier fails with 0x0684 and counts as an error of the word's channel, one that reads it in a core store is fault-killed (R436). A core declared dead, by its silence or by
a write, is fenced, and the cluster's spare takes its name; without a spare the core leaves service (R441 to R445). A control
complex that a watchdog resets leads no longer; a cluster whose controller does not come back twice in 1 s leaves service
(R435, R439). -/
def Obligations.Errors : Prop :=
  (∀ (s : State) (u : MemUnit), let e := unitEntry u
    let logged (t : State) : Prop := t = { s with rel := t.rel, dict := t.dict, tel := t.tel, pins := t.pins, fresh := t.fresh }
    let seen := FMap.getD s.rel.corrections (unitKey u) []
    let many := 1000 ≤ seen.length ∧ s.now - seen.getD 999 0 ≤ 10 ^ 9
    (Runs (.correctedError u) s fun t => Counted s t e.1 e.2.1 1 ∧ logged t ∧ (many → Raised s t 64) ∧ (¬many → alarmAt t 64 = alarmAt s 64))
    ∧ ∀ rows seconds, Runs (.scrubPass u rows seconds) s fun t => logged t
      ∧ (2 * scrubPeriod u < seconds → Raised s t 74) ∧ (seconds ≤ 2 * scrubPeriod u → t.tel = s.tel)
      ∧ ((∀ c, u ≠ .core c) → dnum t e.1 3 = repairRows t u ∧ dnum t e.1 5 = min seconds (2 ^ 32 - 1))
      ∧ (∀ c, u = .core c → t.rel = s.rel))
  ∧ (∀ (s : State) (core part index off : Nat), (Runs (.uncorrectableError core none none) s fun t =>
      Counted s t (0xB100 + core / 4) 5 1 ∧ Raised s t 65 ∧ t.queues = s.queues ∧ t.rel = s.rel)
    ∧ (∀ b, FMap.get? s.bufs (bufKey part index) = some b → b.tier = 0 → b.core = core → off < b.size →
      Runs (.uncorrectableError core none (some (part, index, off))) s fun t => (bufKey part index, off / 8) ∈ t.rel.poison ∧ Raised s t 65)
    ∧ ∀ q Q word, queueAt s q = some Q →
      (struck s.now Q = [] → Runs (.uncorrectableError core (some q) word) s fun t => Raised s t 65 ∧ t.queues = s.queues)
      ∧ (struck s.now Q ≠ [] → throttledKill s Q = false → (coreAt s core).faultKills.length < 15 →
        Runs (.uncorrectableError core (some q) word) s fun t => Raised s t 65
          ∧ ∃ Q', queueAt t q = some Q' ∧ ∀ d ∈ Q'.cmds, d.state = .fetched ∨ d.failed = true ∨ d.fixed s.now = true))
  ∧ (∀ (s : State) (u : MemUnit) (read : LowerRead) (word : Option (Nat × Nat × Nat)),
    let old := FMap.getD s.rel.errors (unitKey u) []
    Runs (.uncorrectableReadLowerTier read u word) s fun t => (∀ c, u ≠ .core c) → Raised s t 65
      ∧ (3 ≤ old.length → s.now - old.getD 2 0 ≤ 86400 * 10 ^ 9 → unitOut s u = false → unitOut t u = true ∧ Raised s t 69 ∧ Raised s t 7))
  ∧ (∀ (s : State) (u : MemUnit) (part index : Nat), let key := bufKey part index
    let T := tieredAt s key
    let few := (FMap.getD s.rel.errors (unitKey u) []).length < 3
    (∀ q Q c, queueAt s q = some Q → (Q.cmds.find? fun c => c.state = .started && opEngine c.op) = some c → cmdAt Q c.uid = some c →
      Runs (.uncorrectableReadLowerTier (.command q) u none) s fun t => few → Failed t q c.uid 0x0684)
    ∧ (T.waiters = [] → T.state = .promoting → T.copying = true → Runs (.uncorrectableReadLowerTier (.promote part index) u none) s fun t =>
        few → (tieredAt t key).state = .absent ∧ t.bufs = s.bufs)
    ∧ (T.waiters = [] → T.state = .evicting → T.copying = true → ∀ out, Runs (.uncorrectableReadLowerTier (.writeBack part index out) u none) s fun t =>
        few → (tieredAt t key).state = .resident ∧ (tieredAt t key).dirty = true ∧ (tieredAt t key).copy = T.copy ∧ t.bufs = s.bufs))
  ∧ (∀ (s : State) (q : Nat) (Q : Queue) (c : Cmd) (w : Nat × Nat) (b : Buf), moveCmd s q 0 = some (Q, c) → cmdAt Q c.uid = some c →
    poisonMet s Q c = some w → FMap.get? s.bufs w.1 = some b →
    (b.tier ≠ 0 → (∀ u, wordUnit s w = some u → (FMap.getD s.rel.errors (unitKey u) []).length < 3) →
        Runs (.moveCopy q) s fun t => Failed t q c.uid 0x0684 ∧ (wordUnit s w ≠ none → Raised s t 65))
    ∧ (b.tier = 0 → queueAt s q = some Q → struck s.now Q ≠ [] → throttledKill s Q = false → (coreAt s b.core).faultKills.length < 15 →
        Runs (.moveCopy q) s fun t => Raised s t 65
          ∧ ∃ Q', queueAt t q = some Q' ∧ ∀ d ∈ Q'.cmds, d.state = .fetched ∨ d.failed = true ∨ d.fixed s.now = true))
  ∧ (∀ (s₀ : State) (c k : Nat) (role : Role), k < 4 →
    let spared (s : State) (p : Nat) (t : State) : Prop := Raised s t 66
      ∧ (clusterAt t c).fenced = (clusterAt s c).fenced ++ [(clusterAt s c).names.getD k 0]
      ∧ (clusterAt t c).spare = none ∧ (clusterAt t c).names = (clusterAt s c).names.set k p ∧ (clusterAt t c).takeoverCore = some k
      ∧ (coreAt t (4 * c + k)).inService = true
    let gone (s t : State) : Prop := Raised s t 66 ∧ Raised s t 67 ∧ (coreAt t (4 * c + k)).inService = false
      ∧ (coreAt t (4 * c + k)).power = .gated ∧ dnum t 0x1100 3 = setBit (dnum s 0x1100 3) (4 * c + k) false
    (∀ s, s = s₀ →
      ((coreAt s (4 * c + k)).inService = false → Runs (.coreHeartbeatLoss (4 * c + k)) s (· = s))
      ∧ ((coreAt s (4 * c + k)).inService = true →
        (∀ p, (clusterAt s c).spare = some p → Runs (.coreHeartbeatLoss (4 * c + k)) s (spared s p))
        ∧ ((clusterAt s c).spare = none → Runs (.coreHeartbeatLoss (4 * c + k)) s (gone s))))
    ∧ ∀ s, s = settleAll s₀ → c < 8 → Accepted s role (0xB100 + c) 7 (.num k) → AuditRoom s →
      ((coreAt s (4 * c + k)).inService = false → Runs (.declareDead role c k) s₀ fun t => Recorded s t role (0xB100 + c) 7
        ∧ t = { s with dict := t.dict, audit := t.audit })
      ∧ ((coreAt s (4 * c + k)).inService = true →
        (∀ p, (clusterAt s c).spare = some p → Runs (.declareDead role c k) s₀ (spared s p))
        ∧ ((clusterAt s c).spare = none → Runs (.declareDead role c k) s₀ (gone s))))
  ∧ ∀ (s : State), (∀ hub, Runs (.watchdogExpiry (.control hub)) s fun t => leads t hub = false ∧ leads t (otherHub hub) = leads s (otherHub hub)
      ∧ t = { s with lease := t.lease, tel := t.tel, dict := t.dict, fresh := t.fresh })
    ∧ ∀ c,
      let again := ∃ b rest, (clusterAt s c).controllerResets = b :: rest ∧ s.now - b ≤ 10 ^ 9
      (Runs (.watchdogExpiry (.cluster c true)) s fun t => t.clusters = s.clusters
        ∧ ∀ q Q d, s.queues = [(q, Q)] → throttledKill s Q = false → d ∈ Q.cmds → opEngine d.op = true → d.core / 4 = c → d.state ≠ .fetched →
          d.failed = false → ∃ Q', queueAt t q = some Q' ∧ ∀ d ∈ Q'.cmds, d.state = .fetched ∨ d.failed = true ∨ d.fixed s.now = true)
      ∧ (¬again → Runs (.watchdogExpiry (.cluster c false)) s fun t =>
          clusterAt t c = { clusterAt s c with controllerResets := (s.now :: (clusterAt s c).controllerResets).take 2 })
      ∧ (again → (clusterAt s c).inService = true → Runs (.watchdogExpiry (.cluster c false)) s fun t =>
          (clusterAt t c).inService = false ∧ Raised s t 7 ∧ ∀ k, k < 4 → (coreAt t (4 * c + k)).inService = false)

/-! ## Telemetry, replay, debug -/

/-- Held trace records go to the ring once READ leaves room (R429). Held journal records go to their ring as it has room; lost
ones leave a gap record, two counts, an alarm and a journal that cannot be replayed (R290). A held input takes effect at its
recorded beat, without a second match, and releasing none changes nothing (R291). A debug unlock is accepted only as R365
says, and else counted; a failed health test raises its alarm (R426). -/
def Obligations.TelemetryAndDebug : Prop :=
  ∀ (s : State),
    (∀ read : BitVec 32, let slots := traceSlots s
      let behind := (s.tel.traceWrite + 2 ^ 32 - read.toNat) % 2 ^ 32
      let readIs (t : State) : Prop := t = { s with tel := { s.tel with traceRead := read.toNat } }
      (isReady s = false ∨ slots = 0 → Runs (.traceReadPoll read) s (· = s))
      ∧ (isReady s = true → slots ≠ 0 →
        (s.tel.traceHeld = [] ∨ slots ≤ behind → Runs (.traceReadPoll read) s readIs)
        ∧ ∀ r, s.tel.traceHeld = [r] → behind < slots → Runs (.traceReadPoll read) s fun t =>
          t.tel.traceHeld = [] ∧ t.tel.traceWrite = (s.tel.traceWrite + 1) % 2 ^ 32 ∧ Counted s t 0x7200 5 1
            ∧ t.hostOut = (s.hostOut.write (dnum s 0x7200 1 + 32 * (s.tel.traceWrite % slots)) (traceBytes r)).write
                (dnum s 0x7200 3 + 4) (toLe 4 t.tel.traceWrite)))
    ∧ (s.tel.journalHeld = [] → s.tel.journalDropped ≠ 0 → Runs .journalGap s fun t => t.tel.journalDropped = 0 ∧ dnum t 0x7300 7 = 0
        ∧ Counted s t 0x7300 5 s.tel.journalDropped ∧ Counted s t 0x7300 6 1 ∧ Raised s t 9
        ∧ t.tel.journalHeld.length = (if journalRoom s then 0 else 1))
    ∧ (s.tel.journalDropped = 0 → (s.tel.journalHeld = [] ∨ journalRoom s = false → Runs .journalGap s (· = s))
      ∧ ∀ r, s.tel.journalHeld = [r] → journalRoom s = true → Runs .journalGap s fun t => t.tel.journalHeld = []
        ∧ t.hostOut = s.hostOut.write (dnum s 0x7300 1 + 32 * dnum s 0x7300 3) r
        ∧ dnum t 0x7300 3 = (dnum s 0x7300 3 + 1) % journalSlots s)
    ∧ (∀ j, (jobAt s j).all (fun J => J.replayHeld.isEmpty) = true → Runs (.replayInputRelease j) s (· = s))
    ∧ (∀ j J due i rest, jobAt s j = some J → J.replayHeld = (due, i) :: rest →
        let u : State := updJob { s with now := max s.now due } j fun J => { J with replayHeld := rest }
        (∀ q records, i = .ringCommandFetch q records → Runs (.replayInputRelease j) s (· = ringFetch u q records))
        ∧ (∀ fn page word sized, i = .doorbell fn page word sized →
          (pageQueue s fn page = none → Runs (.replayInputRelease j) s (· = u))
          ∧ ∀ q Q, pageQueue s fn page = some (q, Q) → Runs (.replayInputRelease j) s fun t => jobAt t j = some { J with replayHeld := rest }
            ∧ t.now = max s.now due ∧ (∀ p, p ≠ q → queueAt t p = queueAt s p)
            ∧ (queueAt s q = some Q → queueAt t q = some { Q with tail := bits word.toNat 31 0 }))
        ∧ (∀ fn word sized message, i = .mailboxDoorbell fn word sized message →
          Runs (.replayInputRelease j) s (· = if usable u fn then postMessage u fn word.toNat message else u))
        ∧ (∀ fn addr data, i = .bar4Access fn (.write addr data) → Runs (.replayInputRelease j) s fun t =>
          ∀ q key off, barTarget u fn addr data.length true = some (q, key, off) → t = barWrite u q addr key off data)
        ∧ (∀ part tensor tile data, i = .baseTileMulticast part tensor tile data →
          Runs (.replayInputRelease j) s (· = basePacket u part tensor tile data)))
    ∧ (∀ nonce r sg,
        let ok := fuse s 3 && !anyPartition s && (decide (0 < s.sec.nonces) && decide (nonce = unlockNonce (s.sec.nonces - 1)))
          && decide ((engineRun true (.verify ⟨Config.makerRootX, Config.makerRootY⟩ (unlockDigest s nonce) r sg) 0).status = 0)
        (ok = true → Runs (.makerDebugUnlock nonce r sg) s fun t => t = { s with sec := { s.sec with unlocked := true } })
        ∧ (ok = false → Runs (.makerDebugUnlock nonce r sg) s fun t => t = { s with dict := t.dict } ∧ Counted s t 0x8200 5 1))
    ∧ ∀ hub, Runs (.randomSourceHealthTestFailure hub) s fun t => engineAt t hub = { engineAt s hub with healthy := false }
      ∧ Counted s t 0x8200 6 1 ∧ Raised s t 1 ∧ (∀ g, g ≠ hub → engineAt t g = engineAt s g)
      ∧ t = { s with sec := t.sec, dict := t.dict, tel := t.tel, pins := t.pins }

/-- Boundary scan, EXTEST or INTEST, is accepted only while JTAG_EXTEST is 1 and no partition holds a core; otherwise it is
BYPASS, which changes nothing, and is recorded in 0x8200.05. While boundary scan is active, no partition can be created: a
first core for a partition is refused (R364). The write is taken behind the internal events of its beat (R468). -/
def Obligations.BoundaryScan : Prop :=
  (∀ (s : State) (intest : Bool),
    let allowed : Prop := bit s.sec.fuses.protection.toNat 4 = true ∧ ∀ part, part < 32 → dnum s (0x4000 + part) 1 = 0
    (allowed → Runs (.boundaryScan intest) s fun t => t = { s with sec := { s.sec with scanActive := true } })
    ∧ (¬allowed → Runs (.boundaryScan intest) s fun t => t = { s with dict := t.dict } ∧ Counted s t 0x8200 5 1
      ∧ ∀ key, key ≠ dkey 0x8200 5 → dget t key = dget s key))
  ∧ ∀ (s₀ : State) (role : Role) (part : Nat) (map : DVal), let s := settleAll s₀
    s.sec.scanActive = true → part < 32 → dnum s (0x4000 + part) 1 = 0 → map.toNat ≠ 0 →
      served s = true → FMap.has s.tel.busy (dkey (0x4000 + part) 1) = false →
      writeStatus s role none (0x4000 + part) 1 map ≠ 0
        ∧ Runs (.poolWrite role part 1 map) s₀ fun t => t = { s with fresh := t.fresh } ∧ dnum t (0x4000 + part) 1 = 0

/-! ## Reset and invariants -/

/-- The module right after reset: Ready, hub east leading at epoch 1, no queue, job, buffer, session, alarm or waiting command,
the beat counter at 0, every core in service and gated, the start stops active (R407). What a value is where the spec states none is the
model's choice (log entries 3 to 5 and 8). -/
def Obligations.ResetState : Prop :=
  let s := State.reset
  isReady s = true ∧ s.now = 0 ∧ leader s = .east ∧ leads s .east = true ∧ leads s .west = false ∧ dnum s 0xB000 2 = 1
    ∧ s.queues = [] ∧ s.jobs = [] ∧ s.bufs = [] ∧ s.sec.sessions = [] ∧ s.pending = [] ∧ s.pins.alertN = true
    ∧ dnum s 0x8300 1 = 0 ∧ dnum s 0x2000 1 = 2 ∧ (∀ core, core < 32 → (coreAt s core).inService = true ∧ (coreAt s core).power = .gated)
    ∧ [1, 2, 3, 4].map (activeStop s) = [0, 3, 6, 8] ∧ FusesFrom Fuses.reset s ∧ PendingOk s ∧ MemoryOk s

/-- Every step keeps the invariants: the fuses stay as they are but for ANTI_ROLLBACK, which never falls (R400); the commands
that wait stay well formed; host memory as written and the rings in HBM keep their canonical form. -/
def Obligations.StepKeepsInvariants : Prop :=
  ∀ (f : Fuses) (s t : State), step s = .next t →
    (FusesFrom f s → FusesFrom f t) ∧ (PendingOk s → PendingOk t) ∧ (MemoryOk s → MemoryOk t)

/-- A command's effect leaves the queue of waiting commands alone, whatever the command. On an empty queue a beat passes (log
entry 9 names that as the model's choice): the beat counter rises by one and wraps at 2⁶⁴, unless a slew holds it for that
beat; with the 48 V rails off or in hold the drone counter ticks instead; and each trunk serves its flits, which the ports
count (R10, R329, R339). -/
def Obligations.QueueIsTheSendersAlone : Prop :=
  (∀ (c : Instr) (s t : State), exec c s = .next t → t.pending = s.pending)
  ∧ ∀ (s : State), s.pending = [] → ∃ t, step s = .next t
    ∧ t = { s with now := t.now, drone := t.drone, fresh := t.fresh, win := { s.win with pause := t.win.pause, trunks := t.win.trunks, ports := t.win.ports } }
    ∧ (∀ w, portAt t w = { portAt s w with flits := (portAt t w).flits })
    ∧ (s.win.pause = true → t.now = s.now ∧ t.drone = s.drone ∧ t.win.pause = false)
    ∧ (s.win.pause = false → droneOnly s = false → t.now = (s.now + 1) % 2 ^ 64
        ∧ t.drone = if (s.now + 1) % 100 = 0 then s.drone + 1 else s.drone)
    ∧ (s.win.pause = false → droneOnly s = true → t.now = s.now ∧ t.drone = if s.pwr.aux12 then s.drone + 1 else s.drone)
    ∧ ∀ d, d < 6 → (trunkAt s d).waiting = [] → (trunkAt s d).unacked = [] → trunkAt t d = trunkAt s d
end

