-- ==== Sys2Proof/Laws/Store.lean ====
section
/-! SUPPORT. Laws of sparse tables and memories: reading after writing, and the canonical form that every operation keeps. -/

namespace Sys2Proof

variable {α : Type}

/-! ## Reading after writing -/

theorem FMap.get?_append (a b : FMap α) (k : Nat) :
    FMap.get? (a ++ b) k = (FMap.get? a k).or (FMap.get? b k) := by
  induction a with
  | nil => simp [FMap.get?]
  | cons e t ih =>
    obtain ⟨j, v⟩ := e
    by_cases h : j = k <;> simp [FMap.get?, h, ih]

theorem FMap.get?_filter_ne (m : FMap α) (p : Nat → Bool) (k : Nat) (h : p k = false) :
    FMap.get? (m.filter fun e => p e.1) k = none := by
  induction m with
  | nil => rfl
  | cons e t ih =>
    obtain ⟨j, v⟩ := e
    by_cases hj : j = k
    · subst hj; simp [List.filter, h, ih]
    · cases hp : p j <;> simp [List.filter, hp, FMap.get?, hj, ih]

theorem FMap.get?_filter_eq (m : FMap α) (p : Nat → Bool) (k : Nat) (h : p k = true) :
    FMap.get? (m.filter fun e => p e.1) k = FMap.get? m k := by
  induction m with
  | nil => rfl
  | cons e t ih =>
    obtain ⟨j, v⟩ := e
    by_cases hj : j = k
    · subst hj; simp [List.filter, h, FMap.get?]
    · cases hp : p j <;> simp [List.filter, hp, FMap.get?, hj, ih]

@[simp] theorem FMap.get?_nil (k : Nat) : FMap.get? ([] : FMap α) k = none := rfl

@[simp] theorem FMap.get?_erase_self (m : FMap α) (k : Nat) : FMap.get? (FMap.erase m k) k = none :=
  FMap.get?_filter_ne m (fun j => j != k) k (by simp)

@[simp] theorem FMap.get?_erase_other (m : FMap α) (k j : Nat) (h : j ≠ k) :
    FMap.get? (FMap.erase m k) j = FMap.get? m j :=
  FMap.get?_filter_eq m (fun i => i != k) j (by simpa using h)

@[simp] theorem FMap.get?_set_self (m : FMap α) (k : Nat) (v : α) : FMap.get? (FMap.set m k v) k = some v := by
  rw [FMap.set, FMap.get?_append, FMap.get?_filter_ne m (fun j => decide (j < k)) k (by simp)]
  simp [FMap.get?]

@[simp] theorem FMap.get?_set_other (m : FMap α) (k j : Nat) (v : α) (h : j ≠ k) :
    FMap.get? (FMap.set m k v) j = FMap.get? m j := by
  rw [FMap.set, FMap.get?_append]
  simp only [FMap.get?, if_neg (Ne.symm h)]
  rcases Nat.lt_or_gt_of_ne h with hlt | hgt
  · rw [FMap.get?_filter_eq m (fun i => decide (i < k)) j (by simpa using hlt),
      FMap.get?_filter_ne m (fun i => decide (k < i)) j (by simp; omega)]
    simp
  · rw [FMap.get?_filter_ne m (fun i => decide (i < k)) j (by simp; omega),
      FMap.get?_filter_eq m (fun i => decide (k < i)) j (by simpa using hgt)]
    simp

@[simp] theorem FMap.getD_put_self [DecidableEq α] (d : α) (m : FMap α) (k : Nat) (v : α) :
    FMap.getD (FMap.put d m k v) k d = v := by
  unfold FMap.put FMap.getD
  split <;> simp_all

@[simp] theorem FMap.getD_put_other [DecidableEq α] (d d' : α) (m : FMap α) (k j : Nat) (v : α) (h : j ≠ k) :
    FMap.getD (FMap.put d m k v) j d' = FMap.getD m j d' := by
  unfold FMap.put FMap.getD
  split <;> simp [h]

@[simp] theorem FMap.get?_modify (m : FMap α) (k j : Nat) (f : α → α) :
    FMap.get? (FMap.modify m k f) j = if j = k then (FMap.get? m j).map f else FMap.get? m j := by
  induction m with
  | nil => simp [FMap.modify]
  | cons e t ih =>
    obtain ⟨i, v⟩ := e
    by_cases hi : i = k <;> by_cases hj : i = j <;> simp_all [FMap.modify, FMap.get?]

@[simp] theorem FMap.get?_mapVal (m : FMap α) (f : Nat → α → α) (j : Nat) :
    FMap.get? (FMap.mapVal m f) j = (FMap.get? m j).map (f j) := by
  induction m with
  | nil => rfl
  | cons e t ih =>
    obtain ⟨i, v⟩ := e
    by_cases hj : i = j
    · subst hj; simp [FMap.mapVal, FMap.get?]
    · simpa [FMap.mapVal, FMap.get?, hj] using ih

/-! ## The canonical form of a table -/

theorem FMap.wf_iff (m : FMap α) : FMap.wf m = true ↔ m.Pairwise fun a b => a.1 < b.1 := by
  induction m with
  | nil => simp [FMap.wf]
  | cons e t ih => simp [FMap.wf, ih]

theorem FMap.wf_filter (m : FMap α) (p : Nat × α → Bool) (h : FMap.wf m = true) : FMap.wf (m.filter p) = true :=
  (FMap.wf_iff _).2 (((FMap.wf_iff m).1 h).filter p)

theorem FMap.wf_erase (m : FMap α) (k : Nat) (h : FMap.wf m = true) : FMap.wf (FMap.erase m k) = true :=
  FMap.wf_filter m _ h

theorem FMap.wf_set (m : FMap α) (k : Nat) (v : α) (h : FMap.wf m = true) : FMap.wf (FMap.set m k v) = true := by
  have hp := (FMap.wf_iff m).1 h
  refine (FMap.wf_iff _).2 ?_
  rw [FMap.set, List.pairwise_append, List.pairwise_cons]
  refine ⟨hp.filter _, ⟨?_, hp.filter _⟩, ?_⟩
  · intro b hb; simpa using (List.mem_filter.1 hb).2
  · intro a ha b hb
    have ha' := (List.mem_filter.1 ha).2
    rcases List.mem_cons.1 hb with rfl | hb
    · simpa using ha'
    · have hb' := (List.mem_filter.1 hb).2
      simp at ha' hb'
      exact Nat.lt_trans ha' hb'

theorem FMap.wf_put [DecidableEq α] (d : α) (m : FMap α) (k : Nat) (v : α) (h : FMap.wf m = true) :
    FMap.wf (FMap.put d m k v) = true := by
  unfold FMap.put
  split
  · exact FMap.wf_erase m k h
  · exact FMap.wf_set m k v h

theorem FMap.wf_mapVal (m : FMap α) (f : Nat → α → α) (h : FMap.wf m = true) : FMap.wf (FMap.mapVal m f) = true := by
  have hp := (FMap.wf_iff m).1 h
  refine (FMap.wf_iff _).2 ?_
  rw [FMap.mapVal, List.pairwise_map]
  exact hp

theorem FMap.wf_modify (m : FMap α) (k : Nat) (f : α → α) (h : FMap.wf m = true) : FMap.wf (FMap.modify m k f) = true := by
  have hp := (FMap.wf_iff m).1 h
  refine (FMap.wf_iff _).2 ?_
  rw [FMap.modify, List.pairwise_map]
  refine hp.imp ?_
  intro a b hab
  split <;> split <;> simpa using hab

/-! ## Memory -/

theorem Mem.get?_cells_low (bs : List Byte) (a k : Nat) (h : k < a) : FMap.get? (Mem.cells a bs) k = none := by
  induction bs generalizing a with
  | nil => rfl
  | cons b t ih =>
    unfold Mem.cells
    split
    · exact ih (a + 1) (by omega)
    · simp only [FMap.get?, if_neg (show ¬a = k by omega)]
      exact ih (a + 1) (by omega)

theorem Mem.getD_cells (bs : List Byte) (a i : Nat) (h : i < bs.length) :
    FMap.getD (Mem.cells a bs) (a + i) 0 = bs[i] := by
  induction bs generalizing a i with
  | nil => simp at h
  | cons b t ih =>
    cases i with
    | zero =>
      unfold Mem.cells
      split
      · simp [FMap.getD, Mem.get?_cells_low t (a + 1) a (by omega), *]
      · simp [FMap.getD, FMap.get?]
    | succ i =>
      have hi : i < t.length := by simpa using h
      have := ih (a + 1) i hi
      rw [show a + 1 + i = a + (i + 1) by omega] at this
      unfold Mem.cells
      split
      · simpa using this
      · simpa [FMap.getD, FMap.get?] using this

theorem Mem.get?_cells_high (bs : List Byte) (a k : Nat) (h : a + bs.length ≤ k) : FMap.get? (Mem.cells a bs) k = none := by
  induction bs generalizing a with
  | nil => rfl
  | cons b t ih =>
    simp at h
    unfold Mem.cells
    split
    · exact ih (a + 1) (by omega)
    · simp only [FMap.get?, if_neg (show ¬a = k by omega)]
      exact ih (a + 1) (by omega)

/-- A byte inside what was stored reads as stored. -/
theorem Mem.byte_write_in (m : Mem) (a : Nat) (bs : List Byte) (i : Nat) (h : i < bs.length) :
    (m.write a bs).byte (a + i) = bs[i] := by
  have h1 := FMap.get?_filter_ne m (fun j => decide (j < a)) (a + i) (by simp)
  have h2 := FMap.get?_filter_ne m (fun j => decide (a + bs.length ≤ j)) (a + i) (by simp; omega)
  have h3 := Mem.getD_cells bs a i h
  unfold Mem.byte Mem.write
  unfold FMap.getD at h3 ⊢
  rw [FMap.get?_append, FMap.get?_append, h1, h2]
  simpa using h3

/-- A byte outside what was stored reads as before. -/
theorem Mem.byte_write_out (m : Mem) (a : Nat) (bs : List Byte) (k : Nat) (h : k < a ∨ a + bs.length ≤ k) :
    (m.write a bs).byte k = m.byte k := by
  unfold Mem.byte Mem.write FMap.getD
  rw [FMap.get?_append, FMap.get?_append]
  rcases h with h | h
  · rw [FMap.get?_filter_eq m (fun j => decide (j < a)) k (by simpa using h), Mem.get?_cells_low bs a k h,
      FMap.get?_filter_ne m (fun j => decide (a + bs.length ≤ j)) k (by simp; omega)]
    simp
  · rw [FMap.get?_filter_ne m (fun j => decide (j < a)) k (by simp; omega), Mem.get?_cells_high bs a k h,
      FMap.get?_filter_eq m (fun j => decide (a + bs.length ≤ j)) k (by simpa using h)]
    simp

theorem Mem.cells_bounds (bs : List Byte) (a : Nat) : ∀ e ∈ Mem.cells a bs, a ≤ e.1 ∧ e.1 < a + bs.length ∧ e.2 ≠ 0 := by
  induction bs generalizing a with
  | nil => simp [Mem.cells]
  | cons b t ih =>
    intro e he
    unfold Mem.cells at he
    split at he
    · obtain ⟨h1, h2, h3⟩ := ih (a + 1) e he
      refine ⟨Nat.le_of_succ_le h1, ?_, h3⟩
      rw [List.length_cons]; omega
    · rcases List.mem_cons.1 he with rfl | he
      · simp_all
      · obtain ⟨h1, h2, h3⟩ := ih (a + 1) e he
        refine ⟨Nat.le_of_succ_le h1, ?_, h3⟩
        rw [List.length_cons]; omega

theorem Mem.wf_cells (bs : List Byte) (a : Nat) : FMap.wf (Mem.cells a bs) = true := by
  induction bs generalizing a with
  | nil => rfl
  | cons b t ih =>
    unfold Mem.cells
    split
    · exact ih (a + 1)
    · simp only [FMap.wf, Bool.and_eq_true, List.all_eq_true, decide_eq_true_eq]
      exact ⟨fun f hf => by have := (Mem.cells_bounds t (a + 1) f hf).1; omega, ih (a + 1)⟩

/-- Every store keeps the canonical form. -/
theorem Mem.wf_write (m : Mem) (a : Nat) (bs : List Byte) (h : Mem.wf m = true) : Mem.wf (m.write a bs) = true := by
  simp only [Mem.wf, Bool.and_eq_true, List.all_eq_true] at h ⊢
  have hp := (FMap.wf_iff m).1 h.1
  refine ⟨(FMap.wf_iff _).2 ?_, ?_⟩
  · rw [Mem.write, List.pairwise_append, List.pairwise_append]
    refine ⟨⟨hp.filter _, (FMap.wf_iff _).1 (Mem.wf_cells bs a), ?_⟩, hp.filter _, ?_⟩
    · intro x hx y hy
      have h1 := (List.mem_filter.1 hx).2
      have h2 := (Mem.cells_bounds bs a y hy).1
      simp at h1
      omega
    · intro x hx y hy
      have h2 := (List.mem_filter.1 hy).2
      simp at h2
      rcases List.mem_append.1 hx with hx | hx
      · have h1 := (List.mem_filter.1 hx).2
        simp at h1
        omega
      · have h1 := (Mem.cells_bounds bs a x hx).2.1
        omega
  · intro e he
    rcases List.mem_append.1 he with he | he
    · rcases List.mem_append.1 he with he | he
      · exact h.2 e (List.mem_filter.1 he).1
      · simpa using (Mem.cells_bounds bs a e he).2.2
    · exact h.2 e (List.mem_filter.1 he).1

/-- The memory of the reset state has the canonical form. -/
theorem Mem.wf_nil : Mem.wf [] = true := rfl

end Sys2Proof
end

