-- ==== Sys2Proof/Laws/State.lean ====
section
/-! SUPPORT. What the updates of one field leave alone, field by field, and what is read back after them. -/

namespace Sys2Proof.Machine

open Sys2Proof

/-! ### dput -/

@[simp] theorem dput_now (s : State) (key : Nat) (v : DVal) : (dput s key v).now = s.now := rfl
@[simp] theorem dput_drone (s : State) (key : Nat) (v : DVal) : (dput s key v).drone = s.drone := rfl
@[simp] theorem dput_fresh (s : State) (key : Nat) (v : DVal) : (dput s key v).fresh = s.fresh := rfl
@[simp] theorem dput_uid (s : State) (key : Nat) (v : DVal) : (dput s key v).uid = s.uid := rfl
@[simp] theorem dput_tel (s : State) (key : Nat) (v : DVal) : (dput s key v).tel = s.tel := rfl
@[simp] theorem dput_audit (s : State) (key : Nat) (v : DVal) : (dput s key v).audit = s.audit := rfl
@[simp] theorem dput_sec (s : State) (key : Nat) (v : DVal) : (dput s key v).sec = s.sec := rfl
@[simp] theorem dput_cfg (s : State) (key : Nat) (v : DVal) : (dput s key v).cfg = s.cfg := rfl
@[simp] theorem dput_pwr (s : State) (key : Nat) (v : DVal) : (dput s key v).pwr = s.pwr := rfl
@[simp] theorem dput_pins (s : State) (key : Nat) (v : DVal) : (dput s key v).pins = s.pins := rfl
@[simp] theorem dput_clusters (s : State) (key : Nat) (v : DVal) : (dput s key v).clusters = s.clusters := rfl
@[simp] theorem dput_cores (s : State) (key : Nat) (v : DVal) : (dput s key v).cores = s.cores := rfl
@[simp] theorem dput_queues (s : State) (key : Nat) (v : DVal) : (dput s key v).queues = s.queues := rfl
@[simp] theorem dput_jobs (s : State) (key : Nat) (v : DVal) : (dput s key v).jobs = s.jobs := rfl
@[simp] theorem dput_parts (s : State) (key : Nat) (v : DVal) : (dput s key v).parts = s.parts := rfl
@[simp] theorem dput_bufs (s : State) (key : Nat) (v : DVal) : (dput s key v).bufs = s.bufs := rfl
@[simp] theorem dput_index (s : State) (key : Nat) (v : DVal) : (dput s key v).index = s.index := rfl
@[simp] theorem dput_tiered (s : State) (key : Nat) (v : DVal) : (dput s key v).tiered = s.tiered := rfl
@[simp] theorem dput_keys (s : State) (key : Nat) (v : DVal) : (dput s key v).keys = s.keys := rfl
@[simp] theorem dput_keyGens (s : State) (key : Nat) (v : DVal) : (dput s key v).keyGens = s.keyGens := rfl
@[simp] theorem dput_dirs (s : State) (key : Nat) (v : DVal) : (dput s key v).dirs = s.dirs := rfl
@[simp] theorem dput_ctxs (s : State) (key : Nat) (v : DVal) : (dput s key v).ctxs = s.ctxs := rfl
@[simp] theorem dput_sync (s : State) (key : Nat) (v : DVal) : (dput s key v).sync = s.sync := rfl
@[simp] theorem dput_reds (s : State) (key : Nat) (v : DVal) : (dput s key v).reds = s.reds := rfl
@[simp] theorem dput_mbx (s : State) (key : Nat) (v : DVal) : (dput s key v).mbx = s.mbx := rfl
@[simp] theorem dput_host (s : State) (key : Nat) (v : DVal) : (dput s key v).host = s.host := rfl
@[simp] theorem dput_win (s : State) (key : Nat) (v : DVal) : (dput s key v).win = s.win := rfl
@[simp] theorem dput_miss (s : State) (key : Nat) (v : DVal) : (dput s key v).miss = s.miss := rfl
@[simp] theorem dput_lease (s : State) (key : Nat) (v : DVal) : (dput s key v).lease = s.lease := rfl
@[simp] theorem dput_rel (s : State) (key : Nat) (v : DVal) : (dput s key v).rel = s.rel := rfl
@[simp] theorem dput_hbm (s : State) (key : Nat) (v : DVal) : (dput s key v).hbm = s.hbm := rfl
@[simp] theorem dput_hostOut (s : State) (key : Nat) (v : DVal) : (dput s key v).hostOut = s.hostOut := rfl
@[simp] theorem dput_pending (s : State) (key : Nat) (v : DVal) : (dput s key v).pending = s.pending := rfl

/-! ### dset -/

@[simp] theorem dset_now (s : State) (i j n : Nat) : (dset s i j n).now = s.now := rfl
@[simp] theorem dset_drone (s : State) (i j n : Nat) : (dset s i j n).drone = s.drone := rfl
@[simp] theorem dset_fresh (s : State) (i j n : Nat) : (dset s i j n).fresh = s.fresh := rfl
@[simp] theorem dset_uid (s : State) (i j n : Nat) : (dset s i j n).uid = s.uid := rfl
@[simp] theorem dset_tel (s : State) (i j n : Nat) : (dset s i j n).tel = s.tel := rfl
@[simp] theorem dset_audit (s : State) (i j n : Nat) : (dset s i j n).audit = s.audit := rfl
@[simp] theorem dset_sec (s : State) (i j n : Nat) : (dset s i j n).sec = s.sec := rfl
@[simp] theorem dset_cfg (s : State) (i j n : Nat) : (dset s i j n).cfg = s.cfg := rfl
@[simp] theorem dset_pwr (s : State) (i j n : Nat) : (dset s i j n).pwr = s.pwr := rfl
@[simp] theorem dset_pins (s : State) (i j n : Nat) : (dset s i j n).pins = s.pins := rfl
@[simp] theorem dset_clusters (s : State) (i j n : Nat) : (dset s i j n).clusters = s.clusters := rfl
@[simp] theorem dset_cores (s : State) (i j n : Nat) : (dset s i j n).cores = s.cores := rfl
@[simp] theorem dset_queues (s : State) (i j n : Nat) : (dset s i j n).queues = s.queues := rfl
@[simp] theorem dset_jobs (s : State) (i j n : Nat) : (dset s i j n).jobs = s.jobs := rfl
@[simp] theorem dset_parts (s : State) (i j n : Nat) : (dset s i j n).parts = s.parts := rfl
@[simp] theorem dset_bufs (s : State) (i j n : Nat) : (dset s i j n).bufs = s.bufs := rfl
@[simp] theorem dset_index (s : State) (i j n : Nat) : (dset s i j n).index = s.index := rfl
@[simp] theorem dset_tiered (s : State) (i j n : Nat) : (dset s i j n).tiered = s.tiered := rfl
@[simp] theorem dset_keys (s : State) (i j n : Nat) : (dset s i j n).keys = s.keys := rfl
@[simp] theorem dset_keyGens (s : State) (i j n : Nat) : (dset s i j n).keyGens = s.keyGens := rfl
@[simp] theorem dset_dirs (s : State) (i j n : Nat) : (dset s i j n).dirs = s.dirs := rfl
@[simp] theorem dset_ctxs (s : State) (i j n : Nat) : (dset s i j n).ctxs = s.ctxs := rfl
@[simp] theorem dset_sync (s : State) (i j n : Nat) : (dset s i j n).sync = s.sync := rfl
@[simp] theorem dset_reds (s : State) (i j n : Nat) : (dset s i j n).reds = s.reds := rfl
@[simp] theorem dset_mbx (s : State) (i j n : Nat) : (dset s i j n).mbx = s.mbx := rfl
@[simp] theorem dset_host (s : State) (i j n : Nat) : (dset s i j n).host = s.host := rfl
@[simp] theorem dset_win (s : State) (i j n : Nat) : (dset s i j n).win = s.win := rfl
@[simp] theorem dset_miss (s : State) (i j n : Nat) : (dset s i j n).miss = s.miss := rfl
@[simp] theorem dset_lease (s : State) (i j n : Nat) : (dset s i j n).lease = s.lease := rfl
@[simp] theorem dset_rel (s : State) (i j n : Nat) : (dset s i j n).rel = s.rel := rfl
@[simp] theorem dset_hbm (s : State) (i j n : Nat) : (dset s i j n).hbm = s.hbm := rfl
@[simp] theorem dset_hostOut (s : State) (i j n : Nat) : (dset s i j n).hostOut = s.hostOut := rfl
@[simp] theorem dset_pending (s : State) (i j n : Nat) : (dset s i j n).pending = s.pending := rfl

/-! ### dsetB -/

@[simp] theorem dsetB_now (s : State) (i j : Nat) (b : List Byte) : (dsetB s i j b).now = s.now := rfl
@[simp] theorem dsetB_drone (s : State) (i j : Nat) (b : List Byte) : (dsetB s i j b).drone = s.drone := rfl
@[simp] theorem dsetB_fresh (s : State) (i j : Nat) (b : List Byte) : (dsetB s i j b).fresh = s.fresh := rfl
@[simp] theorem dsetB_uid (s : State) (i j : Nat) (b : List Byte) : (dsetB s i j b).uid = s.uid := rfl
@[simp] theorem dsetB_tel (s : State) (i j : Nat) (b : List Byte) : (dsetB s i j b).tel = s.tel := rfl
@[simp] theorem dsetB_audit (s : State) (i j : Nat) (b : List Byte) : (dsetB s i j b).audit = s.audit := rfl
@[simp] theorem dsetB_sec (s : State) (i j : Nat) (b : List Byte) : (dsetB s i j b).sec = s.sec := rfl
@[simp] theorem dsetB_cfg (s : State) (i j : Nat) (b : List Byte) : (dsetB s i j b).cfg = s.cfg := rfl
@[simp] theorem dsetB_pwr (s : State) (i j : Nat) (b : List Byte) : (dsetB s i j b).pwr = s.pwr := rfl
@[simp] theorem dsetB_pins (s : State) (i j : Nat) (b : List Byte) : (dsetB s i j b).pins = s.pins := rfl
@[simp] theorem dsetB_clusters (s : State) (i j : Nat) (b : List Byte) : (dsetB s i j b).clusters = s.clusters := rfl
@[simp] theorem dsetB_cores (s : State) (i j : Nat) (b : List Byte) : (dsetB s i j b).cores = s.cores := rfl
@[simp] theorem dsetB_queues (s : State) (i j : Nat) (b : List Byte) : (dsetB s i j b).queues = s.queues := rfl
@[simp] theorem dsetB_jobs (s : State) (i j : Nat) (b : List Byte) : (dsetB s i j b).jobs = s.jobs := rfl
@[simp] theorem dsetB_parts (s : State) (i j : Nat) (b : List Byte) : (dsetB s i j b).parts = s.parts := rfl
@[simp] theorem dsetB_bufs (s : State) (i j : Nat) (b : List Byte) : (dsetB s i j b).bufs = s.bufs := rfl
@[simp] theorem dsetB_index (s : State) (i j : Nat) (b : List Byte) : (dsetB s i j b).index = s.index := rfl
@[simp] theorem dsetB_tiered (s : State) (i j : Nat) (b : List Byte) : (dsetB s i j b).tiered = s.tiered := rfl
@[simp] theorem dsetB_keys (s : State) (i j : Nat) (b : List Byte) : (dsetB s i j b).keys = s.keys := rfl
@[simp] theorem dsetB_keyGens (s : State) (i j : Nat) (b : List Byte) : (dsetB s i j b).keyGens = s.keyGens := rfl
@[simp] theorem dsetB_dirs (s : State) (i j : Nat) (b : List Byte) : (dsetB s i j b).dirs = s.dirs := rfl
@[simp] theorem dsetB_ctxs (s : State) (i j : Nat) (b : List Byte) : (dsetB s i j b).ctxs = s.ctxs := rfl
@[simp] theorem dsetB_sync (s : State) (i j : Nat) (b : List Byte) : (dsetB s i j b).sync = s.sync := rfl
@[simp] theorem dsetB_reds (s : State) (i j : Nat) (b : List Byte) : (dsetB s i j b).reds = s.reds := rfl
@[simp] theorem dsetB_mbx (s : State) (i j : Nat) (b : List Byte) : (dsetB s i j b).mbx = s.mbx := rfl
@[simp] theorem dsetB_host (s : State) (i j : Nat) (b : List Byte) : (dsetB s i j b).host = s.host := rfl
@[simp] theorem dsetB_win (s : State) (i j : Nat) (b : List Byte) : (dsetB s i j b).win = s.win := rfl
@[simp] theorem dsetB_miss (s : State) (i j : Nat) (b : List Byte) : (dsetB s i j b).miss = s.miss := rfl
@[simp] theorem dsetB_lease (s : State) (i j : Nat) (b : List Byte) : (dsetB s i j b).lease = s.lease := rfl
@[simp] theorem dsetB_rel (s : State) (i j : Nat) (b : List Byte) : (dsetB s i j b).rel = s.rel := rfl
@[simp] theorem dsetB_hbm (s : State) (i j : Nat) (b : List Byte) : (dsetB s i j b).hbm = s.hbm := rfl
@[simp] theorem dsetB_hostOut (s : State) (i j : Nat) (b : List Byte) : (dsetB s i j b).hostOut = s.hostOut := rfl
@[simp] theorem dsetB_pending (s : State) (i j : Nat) (b : List Byte) : (dsetB s i j b).pending = s.pending := rfl

/-! ### bump -/

@[simp] theorem bump_now (s : State) (i j n : Nat) : (bump s i j n).now = s.now := rfl
@[simp] theorem bump_drone (s : State) (i j n : Nat) : (bump s i j n).drone = s.drone := rfl
@[simp] theorem bump_fresh (s : State) (i j n : Nat) : (bump s i j n).fresh = s.fresh := rfl
@[simp] theorem bump_uid (s : State) (i j n : Nat) : (bump s i j n).uid = s.uid := rfl
@[simp] theorem bump_tel (s : State) (i j n : Nat) : (bump s i j n).tel = s.tel := rfl
@[simp] theorem bump_audit (s : State) (i j n : Nat) : (bump s i j n).audit = s.audit := rfl
@[simp] theorem bump_sec (s : State) (i j n : Nat) : (bump s i j n).sec = s.sec := rfl
@[simp] theorem bump_cfg (s : State) (i j n : Nat) : (bump s i j n).cfg = s.cfg := rfl
@[simp] theorem bump_pwr (s : State) (i j n : Nat) : (bump s i j n).pwr = s.pwr := rfl
@[simp] theorem bump_pins (s : State) (i j n : Nat) : (bump s i j n).pins = s.pins := rfl
@[simp] theorem bump_clusters (s : State) (i j n : Nat) : (bump s i j n).clusters = s.clusters := rfl
@[simp] theorem bump_cores (s : State) (i j n : Nat) : (bump s i j n).cores = s.cores := rfl
@[simp] theorem bump_queues (s : State) (i j n : Nat) : (bump s i j n).queues = s.queues := rfl
@[simp] theorem bump_jobs (s : State) (i j n : Nat) : (bump s i j n).jobs = s.jobs := rfl
@[simp] theorem bump_parts (s : State) (i j n : Nat) : (bump s i j n).parts = s.parts := rfl
@[simp] theorem bump_bufs (s : State) (i j n : Nat) : (bump s i j n).bufs = s.bufs := rfl
@[simp] theorem bump_index (s : State) (i j n : Nat) : (bump s i j n).index = s.index := rfl
@[simp] theorem bump_tiered (s : State) (i j n : Nat) : (bump s i j n).tiered = s.tiered := rfl
@[simp] theorem bump_keys (s : State) (i j n : Nat) : (bump s i j n).keys = s.keys := rfl
@[simp] theorem bump_keyGens (s : State) (i j n : Nat) : (bump s i j n).keyGens = s.keyGens := rfl
@[simp] theorem bump_dirs (s : State) (i j n : Nat) : (bump s i j n).dirs = s.dirs := rfl
@[simp] theorem bump_ctxs (s : State) (i j n : Nat) : (bump s i j n).ctxs = s.ctxs := rfl
@[simp] theorem bump_sync (s : State) (i j n : Nat) : (bump s i j n).sync = s.sync := rfl
@[simp] theorem bump_reds (s : State) (i j n : Nat) : (bump s i j n).reds = s.reds := rfl
@[simp] theorem bump_mbx (s : State) (i j n : Nat) : (bump s i j n).mbx = s.mbx := rfl
@[simp] theorem bump_host (s : State) (i j n : Nat) : (bump s i j n).host = s.host := rfl
@[simp] theorem bump_win (s : State) (i j n : Nat) : (bump s i j n).win = s.win := rfl
@[simp] theorem bump_miss (s : State) (i j n : Nat) : (bump s i j n).miss = s.miss := rfl
@[simp] theorem bump_lease (s : State) (i j n : Nat) : (bump s i j n).lease = s.lease := rfl
@[simp] theorem bump_rel (s : State) (i j n : Nat) : (bump s i j n).rel = s.rel := rfl
@[simp] theorem bump_hbm (s : State) (i j n : Nat) : (bump s i j n).hbm = s.hbm := rfl
@[simp] theorem bump_hostOut (s : State) (i j n : Nat) : (bump s i j n).hostOut = s.hostOut := rfl
@[simp] theorem bump_pending (s : State) (i j n : Nat) : (bump s i j n).pending = s.pending := rfl

/-! ### raiseTo -/

@[simp] theorem raiseTo_now (s : State) (i j n : Nat) : (raiseTo s i j n).now = s.now := rfl
@[simp] theorem raiseTo_drone (s : State) (i j n : Nat) : (raiseTo s i j n).drone = s.drone := rfl
@[simp] theorem raiseTo_fresh (s : State) (i j n : Nat) : (raiseTo s i j n).fresh = s.fresh := rfl
@[simp] theorem raiseTo_uid (s : State) (i j n : Nat) : (raiseTo s i j n).uid = s.uid := rfl
@[simp] theorem raiseTo_tel (s : State) (i j n : Nat) : (raiseTo s i j n).tel = s.tel := rfl
@[simp] theorem raiseTo_audit (s : State) (i j n : Nat) : (raiseTo s i j n).audit = s.audit := rfl
@[simp] theorem raiseTo_sec (s : State) (i j n : Nat) : (raiseTo s i j n).sec = s.sec := rfl
@[simp] theorem raiseTo_cfg (s : State) (i j n : Nat) : (raiseTo s i j n).cfg = s.cfg := rfl
@[simp] theorem raiseTo_pwr (s : State) (i j n : Nat) : (raiseTo s i j n).pwr = s.pwr := rfl
@[simp] theorem raiseTo_pins (s : State) (i j n : Nat) : (raiseTo s i j n).pins = s.pins := rfl
@[simp] theorem raiseTo_clusters (s : State) (i j n : Nat) : (raiseTo s i j n).clusters = s.clusters := rfl
@[simp] theorem raiseTo_cores (s : State) (i j n : Nat) : (raiseTo s i j n).cores = s.cores := rfl
@[simp] theorem raiseTo_queues (s : State) (i j n : Nat) : (raiseTo s i j n).queues = s.queues := rfl
@[simp] theorem raiseTo_jobs (s : State) (i j n : Nat) : (raiseTo s i j n).jobs = s.jobs := rfl
@[simp] theorem raiseTo_parts (s : State) (i j n : Nat) : (raiseTo s i j n).parts = s.parts := rfl
@[simp] theorem raiseTo_bufs (s : State) (i j n : Nat) : (raiseTo s i j n).bufs = s.bufs := rfl
@[simp] theorem raiseTo_index (s : State) (i j n : Nat) : (raiseTo s i j n).index = s.index := rfl
@[simp] theorem raiseTo_tiered (s : State) (i j n : Nat) : (raiseTo s i j n).tiered = s.tiered := rfl
@[simp] theorem raiseTo_keys (s : State) (i j n : Nat) : (raiseTo s i j n).keys = s.keys := rfl
@[simp] theorem raiseTo_keyGens (s : State) (i j n : Nat) : (raiseTo s i j n).keyGens = s.keyGens := rfl
@[simp] theorem raiseTo_dirs (s : State) (i j n : Nat) : (raiseTo s i j n).dirs = s.dirs := rfl
@[simp] theorem raiseTo_ctxs (s : State) (i j n : Nat) : (raiseTo s i j n).ctxs = s.ctxs := rfl
@[simp] theorem raiseTo_sync (s : State) (i j n : Nat) : (raiseTo s i j n).sync = s.sync := rfl
@[simp] theorem raiseTo_reds (s : State) (i j n : Nat) : (raiseTo s i j n).reds = s.reds := rfl
@[simp] theorem raiseTo_mbx (s : State) (i j n : Nat) : (raiseTo s i j n).mbx = s.mbx := rfl
@[simp] theorem raiseTo_host (s : State) (i j n : Nat) : (raiseTo s i j n).host = s.host := rfl
@[simp] theorem raiseTo_win (s : State) (i j n : Nat) : (raiseTo s i j n).win = s.win := rfl
@[simp] theorem raiseTo_miss (s : State) (i j n : Nat) : (raiseTo s i j n).miss = s.miss := rfl
@[simp] theorem raiseTo_lease (s : State) (i j n : Nat) : (raiseTo s i j n).lease = s.lease := rfl
@[simp] theorem raiseTo_rel (s : State) (i j n : Nat) : (raiseTo s i j n).rel = s.rel := rfl
@[simp] theorem raiseTo_hbm (s : State) (i j n : Nat) : (raiseTo s i j n).hbm = s.hbm := rfl
@[simp] theorem raiseTo_hostOut (s : State) (i j n : Nat) : (raiseTo s i j n).hostOut = s.hostOut := rfl
@[simp] theorem raiseTo_pending (s : State) (i j n : Nat) : (raiseTo s i j n).pending = s.pending := rfl

/-! ### drawn -/

@[simp] theorem drawn_now (s : State) (n : Nat) : (drawn s n).now = s.now := rfl
@[simp] theorem drawn_drone (s : State) (n : Nat) : (drawn s n).drone = s.drone := rfl
@[simp] theorem drawn_uid (s : State) (n : Nat) : (drawn s n).uid = s.uid := rfl
@[simp] theorem drawn_dict (s : State) (n : Nat) : (drawn s n).dict = s.dict := rfl
@[simp] theorem drawn_tel (s : State) (n : Nat) : (drawn s n).tel = s.tel := rfl
@[simp] theorem drawn_audit (s : State) (n : Nat) : (drawn s n).audit = s.audit := rfl
@[simp] theorem drawn_sec (s : State) (n : Nat) : (drawn s n).sec = s.sec := rfl
@[simp] theorem drawn_cfg (s : State) (n : Nat) : (drawn s n).cfg = s.cfg := rfl
@[simp] theorem drawn_pwr (s : State) (n : Nat) : (drawn s n).pwr = s.pwr := rfl
@[simp] theorem drawn_pins (s : State) (n : Nat) : (drawn s n).pins = s.pins := rfl
@[simp] theorem drawn_clusters (s : State) (n : Nat) : (drawn s n).clusters = s.clusters := rfl
@[simp] theorem drawn_cores (s : State) (n : Nat) : (drawn s n).cores = s.cores := rfl
@[simp] theorem drawn_queues (s : State) (n : Nat) : (drawn s n).queues = s.queues := rfl
@[simp] theorem drawn_jobs (s : State) (n : Nat) : (drawn s n).jobs = s.jobs := rfl
@[simp] theorem drawn_parts (s : State) (n : Nat) : (drawn s n).parts = s.parts := rfl
@[simp] theorem drawn_bufs (s : State) (n : Nat) : (drawn s n).bufs = s.bufs := rfl
@[simp] theorem drawn_index (s : State) (n : Nat) : (drawn s n).index = s.index := rfl
@[simp] theorem drawn_tiered (s : State) (n : Nat) : (drawn s n).tiered = s.tiered := rfl
@[simp] theorem drawn_keys (s : State) (n : Nat) : (drawn s n).keys = s.keys := rfl
@[simp] theorem drawn_keyGens (s : State) (n : Nat) : (drawn s n).keyGens = s.keyGens := rfl
@[simp] theorem drawn_dirs (s : State) (n : Nat) : (drawn s n).dirs = s.dirs := rfl
@[simp] theorem drawn_ctxs (s : State) (n : Nat) : (drawn s n).ctxs = s.ctxs := rfl
@[simp] theorem drawn_sync (s : State) (n : Nat) : (drawn s n).sync = s.sync := rfl
@[simp] theorem drawn_reds (s : State) (n : Nat) : (drawn s n).reds = s.reds := rfl
@[simp] theorem drawn_mbx (s : State) (n : Nat) : (drawn s n).mbx = s.mbx := rfl
@[simp] theorem drawn_host (s : State) (n : Nat) : (drawn s n).host = s.host := rfl
@[simp] theorem drawn_win (s : State) (n : Nat) : (drawn s n).win = s.win := rfl
@[simp] theorem drawn_miss (s : State) (n : Nat) : (drawn s n).miss = s.miss := rfl
@[simp] theorem drawn_lease (s : State) (n : Nat) : (drawn s n).lease = s.lease := rfl
@[simp] theorem drawn_rel (s : State) (n : Nat) : (drawn s n).rel = s.rel := rfl
@[simp] theorem drawn_hbm (s : State) (n : Nat) : (drawn s n).hbm = s.hbm := rfl
@[simp] theorem drawn_hostOut (s : State) (n : Nat) : (drawn s n).hostOut = s.hostOut := rfl
@[simp] theorem drawn_pending (s : State) (n : Nat) : (drawn s n).pending = s.pending := rfl

/-! ### hostWrite -/

@[simp] theorem hostWrite_now (s : State) (a : Nat) (bs : List Byte) : (hostWrite s a bs).now = s.now := rfl
@[simp] theorem hostWrite_drone (s : State) (a : Nat) (bs : List Byte) : (hostWrite s a bs).drone = s.drone := rfl
@[simp] theorem hostWrite_fresh (s : State) (a : Nat) (bs : List Byte) : (hostWrite s a bs).fresh = s.fresh := rfl
@[simp] theorem hostWrite_uid (s : State) (a : Nat) (bs : List Byte) : (hostWrite s a bs).uid = s.uid := rfl
@[simp] theorem hostWrite_dict (s : State) (a : Nat) (bs : List Byte) : (hostWrite s a bs).dict = s.dict := rfl
@[simp] theorem hostWrite_tel (s : State) (a : Nat) (bs : List Byte) : (hostWrite s a bs).tel = s.tel := rfl
@[simp] theorem hostWrite_audit (s : State) (a : Nat) (bs : List Byte) : (hostWrite s a bs).audit = s.audit := rfl
@[simp] theorem hostWrite_sec (s : State) (a : Nat) (bs : List Byte) : (hostWrite s a bs).sec = s.sec := rfl
@[simp] theorem hostWrite_cfg (s : State) (a : Nat) (bs : List Byte) : (hostWrite s a bs).cfg = s.cfg := rfl
@[simp] theorem hostWrite_pwr (s : State) (a : Nat) (bs : List Byte) : (hostWrite s a bs).pwr = s.pwr := rfl
@[simp] theorem hostWrite_pins (s : State) (a : Nat) (bs : List Byte) : (hostWrite s a bs).pins = s.pins := rfl
@[simp] theorem hostWrite_clusters (s : State) (a : Nat) (bs : List Byte) : (hostWrite s a bs).clusters = s.clusters := rfl
@[simp] theorem hostWrite_cores (s : State) (a : Nat) (bs : List Byte) : (hostWrite s a bs).cores = s.cores := rfl
@[simp] theorem hostWrite_queues (s : State) (a : Nat) (bs : List Byte) : (hostWrite s a bs).queues = s.queues := rfl
@[simp] theorem hostWrite_jobs (s : State) (a : Nat) (bs : List Byte) : (hostWrite s a bs).jobs = s.jobs := rfl
@[simp] theorem hostWrite_parts (s : State) (a : Nat) (bs : List Byte) : (hostWrite s a bs).parts = s.parts := rfl
@[simp] theorem hostWrite_bufs (s : State) (a : Nat) (bs : List Byte) : (hostWrite s a bs).bufs = s.bufs := rfl
@[simp] theorem hostWrite_index (s : State) (a : Nat) (bs : List Byte) : (hostWrite s a bs).index = s.index := rfl
@[simp] theorem hostWrite_tiered (s : State) (a : Nat) (bs : List Byte) : (hostWrite s a bs).tiered = s.tiered := rfl
@[simp] theorem hostWrite_keys (s : State) (a : Nat) (bs : List Byte) : (hostWrite s a bs).keys = s.keys := rfl
@[simp] theorem hostWrite_keyGens (s : State) (a : Nat) (bs : List Byte) : (hostWrite s a bs).keyGens = s.keyGens := rfl
@[simp] theorem hostWrite_dirs (s : State) (a : Nat) (bs : List Byte) : (hostWrite s a bs).dirs = s.dirs := rfl
@[simp] theorem hostWrite_ctxs (s : State) (a : Nat) (bs : List Byte) : (hostWrite s a bs).ctxs = s.ctxs := rfl
@[simp] theorem hostWrite_sync (s : State) (a : Nat) (bs : List Byte) : (hostWrite s a bs).sync = s.sync := rfl
@[simp] theorem hostWrite_reds (s : State) (a : Nat) (bs : List Byte) : (hostWrite s a bs).reds = s.reds := rfl
@[simp] theorem hostWrite_mbx (s : State) (a : Nat) (bs : List Byte) : (hostWrite s a bs).mbx = s.mbx := rfl
@[simp] theorem hostWrite_host (s : State) (a : Nat) (bs : List Byte) : (hostWrite s a bs).host = s.host := rfl
@[simp] theorem hostWrite_win (s : State) (a : Nat) (bs : List Byte) : (hostWrite s a bs).win = s.win := rfl
@[simp] theorem hostWrite_miss (s : State) (a : Nat) (bs : List Byte) : (hostWrite s a bs).miss = s.miss := rfl
@[simp] theorem hostWrite_lease (s : State) (a : Nat) (bs : List Byte) : (hostWrite s a bs).lease = s.lease := rfl
@[simp] theorem hostWrite_rel (s : State) (a : Nat) (bs : List Byte) : (hostWrite s a bs).rel = s.rel := rfl
@[simp] theorem hostWrite_hbm (s : State) (a : Nat) (bs : List Byte) : (hostWrite s a bs).hbm = s.hbm := rfl
@[simp] theorem hostWrite_pending (s : State) (a : Nat) (bs : List Byte) : (hostWrite s a bs).pending = s.pending := rfl

/-! ### msix -/

@[simp] theorem msix_now (s : State) (fn v : Nat) : (msix s fn v).now = s.now := rfl
@[simp] theorem msix_drone (s : State) (fn v : Nat) : (msix s fn v).drone = s.drone := rfl
@[simp] theorem msix_fresh (s : State) (fn v : Nat) : (msix s fn v).fresh = s.fresh := rfl
@[simp] theorem msix_uid (s : State) (fn v : Nat) : (msix s fn v).uid = s.uid := rfl
@[simp] theorem msix_dict (s : State) (fn v : Nat) : (msix s fn v).dict = s.dict := rfl
@[simp] theorem msix_audit (s : State) (fn v : Nat) : (msix s fn v).audit = s.audit := rfl
@[simp] theorem msix_sec (s : State) (fn v : Nat) : (msix s fn v).sec = s.sec := rfl
@[simp] theorem msix_cfg (s : State) (fn v : Nat) : (msix s fn v).cfg = s.cfg := rfl
@[simp] theorem msix_pwr (s : State) (fn v : Nat) : (msix s fn v).pwr = s.pwr := rfl
@[simp] theorem msix_pins (s : State) (fn v : Nat) : (msix s fn v).pins = s.pins := rfl
@[simp] theorem msix_clusters (s : State) (fn v : Nat) : (msix s fn v).clusters = s.clusters := rfl
@[simp] theorem msix_cores (s : State) (fn v : Nat) : (msix s fn v).cores = s.cores := rfl
@[simp] theorem msix_queues (s : State) (fn v : Nat) : (msix s fn v).queues = s.queues := rfl
@[simp] theorem msix_jobs (s : State) (fn v : Nat) : (msix s fn v).jobs = s.jobs := rfl
@[simp] theorem msix_parts (s : State) (fn v : Nat) : (msix s fn v).parts = s.parts := rfl
@[simp] theorem msix_bufs (s : State) (fn v : Nat) : (msix s fn v).bufs = s.bufs := rfl
@[simp] theorem msix_index (s : State) (fn v : Nat) : (msix s fn v).index = s.index := rfl
@[simp] theorem msix_tiered (s : State) (fn v : Nat) : (msix s fn v).tiered = s.tiered := rfl
@[simp] theorem msix_keys (s : State) (fn v : Nat) : (msix s fn v).keys = s.keys := rfl
@[simp] theorem msix_keyGens (s : State) (fn v : Nat) : (msix s fn v).keyGens = s.keyGens := rfl
@[simp] theorem msix_dirs (s : State) (fn v : Nat) : (msix s fn v).dirs = s.dirs := rfl
@[simp] theorem msix_ctxs (s : State) (fn v : Nat) : (msix s fn v).ctxs = s.ctxs := rfl
@[simp] theorem msix_sync (s : State) (fn v : Nat) : (msix s fn v).sync = s.sync := rfl
@[simp] theorem msix_reds (s : State) (fn v : Nat) : (msix s fn v).reds = s.reds := rfl
@[simp] theorem msix_mbx (s : State) (fn v : Nat) : (msix s fn v).mbx = s.mbx := rfl
@[simp] theorem msix_host (s : State) (fn v : Nat) : (msix s fn v).host = s.host := rfl
@[simp] theorem msix_win (s : State) (fn v : Nat) : (msix s fn v).win = s.win := rfl
@[simp] theorem msix_miss (s : State) (fn v : Nat) : (msix s fn v).miss = s.miss := rfl
@[simp] theorem msix_lease (s : State) (fn v : Nat) : (msix s fn v).lease = s.lease := rfl
@[simp] theorem msix_rel (s : State) (fn v : Nat) : (msix s fn v).rel = s.rel := rfl
@[simp] theorem msix_hbm (s : State) (fn v : Nat) : (msix s fn v).hbm = s.hbm := rfl
@[simp] theorem msix_hostOut (s : State) (fn v : Nat) : (msix s fn v).hostOut = s.hostOut := rfl
@[simp] theorem msix_pending (s : State) (fn v : Nat) : (msix s fn v).pending = s.pending := rfl

/-! ### updCore -/

@[simp] theorem updCore_now (s : State) (c : Nat) (f : Core → Core) : (updCore s c f).now = s.now := rfl
@[simp] theorem updCore_drone (s : State) (c : Nat) (f : Core → Core) : (updCore s c f).drone = s.drone := rfl
@[simp] theorem updCore_fresh (s : State) (c : Nat) (f : Core → Core) : (updCore s c f).fresh = s.fresh := rfl
@[simp] theorem updCore_uid (s : State) (c : Nat) (f : Core → Core) : (updCore s c f).uid = s.uid := rfl
@[simp] theorem updCore_dict (s : State) (c : Nat) (f : Core → Core) : (updCore s c f).dict = s.dict := rfl
@[simp] theorem updCore_tel (s : State) (c : Nat) (f : Core → Core) : (updCore s c f).tel = s.tel := rfl
@[simp] theorem updCore_audit (s : State) (c : Nat) (f : Core → Core) : (updCore s c f).audit = s.audit := rfl
@[simp] theorem updCore_sec (s : State) (c : Nat) (f : Core → Core) : (updCore s c f).sec = s.sec := rfl
@[simp] theorem updCore_cfg (s : State) (c : Nat) (f : Core → Core) : (updCore s c f).cfg = s.cfg := rfl
@[simp] theorem updCore_pwr (s : State) (c : Nat) (f : Core → Core) : (updCore s c f).pwr = s.pwr := rfl
@[simp] theorem updCore_pins (s : State) (c : Nat) (f : Core → Core) : (updCore s c f).pins = s.pins := rfl
@[simp] theorem updCore_clusters (s : State) (c : Nat) (f : Core → Core) : (updCore s c f).clusters = s.clusters := rfl
@[simp] theorem updCore_queues (s : State) (c : Nat) (f : Core → Core) : (updCore s c f).queues = s.queues := rfl
@[simp] theorem updCore_jobs (s : State) (c : Nat) (f : Core → Core) : (updCore s c f).jobs = s.jobs := rfl
@[simp] theorem updCore_parts (s : State) (c : Nat) (f : Core → Core) : (updCore s c f).parts = s.parts := rfl
@[simp] theorem updCore_bufs (s : State) (c : Nat) (f : Core → Core) : (updCore s c f).bufs = s.bufs := rfl
@[simp] theorem updCore_index (s : State) (c : Nat) (f : Core → Core) : (updCore s c f).index = s.index := rfl
@[simp] theorem updCore_tiered (s : State) (c : Nat) (f : Core → Core) : (updCore s c f).tiered = s.tiered := rfl
@[simp] theorem updCore_keys (s : State) (c : Nat) (f : Core → Core) : (updCore s c f).keys = s.keys := rfl
@[simp] theorem updCore_keyGens (s : State) (c : Nat) (f : Core → Core) : (updCore s c f).keyGens = s.keyGens := rfl
@[simp] theorem updCore_dirs (s : State) (c : Nat) (f : Core → Core) : (updCore s c f).dirs = s.dirs := rfl
@[simp] theorem updCore_ctxs (s : State) (c : Nat) (f : Core → Core) : (updCore s c f).ctxs = s.ctxs := rfl
@[simp] theorem updCore_sync (s : State) (c : Nat) (f : Core → Core) : (updCore s c f).sync = s.sync := rfl
@[simp] theorem updCore_reds (s : State) (c : Nat) (f : Core → Core) : (updCore s c f).reds = s.reds := rfl
@[simp] theorem updCore_mbx (s : State) (c : Nat) (f : Core → Core) : (updCore s c f).mbx = s.mbx := rfl
@[simp] theorem updCore_host (s : State) (c : Nat) (f : Core → Core) : (updCore s c f).host = s.host := rfl
@[simp] theorem updCore_win (s : State) (c : Nat) (f : Core → Core) : (updCore s c f).win = s.win := rfl
@[simp] theorem updCore_miss (s : State) (c : Nat) (f : Core → Core) : (updCore s c f).miss = s.miss := rfl
@[simp] theorem updCore_lease (s : State) (c : Nat) (f : Core → Core) : (updCore s c f).lease = s.lease := rfl
@[simp] theorem updCore_rel (s : State) (c : Nat) (f : Core → Core) : (updCore s c f).rel = s.rel := rfl
@[simp] theorem updCore_hbm (s : State) (c : Nat) (f : Core → Core) : (updCore s c f).hbm = s.hbm := rfl
@[simp] theorem updCore_hostOut (s : State) (c : Nat) (f : Core → Core) : (updCore s c f).hostOut = s.hostOut := rfl
@[simp] theorem updCore_pending (s : State) (c : Nat) (f : Core → Core) : (updCore s c f).pending = s.pending := rfl

/-! ### updCluster -/

@[simp] theorem updCluster_now (s : State) (c : Nat) (f : Cluster → Cluster) : (updCluster s c f).now = s.now := rfl
@[simp] theorem updCluster_drone (s : State) (c : Nat) (f : Cluster → Cluster) : (updCluster s c f).drone = s.drone := rfl
@[simp] theorem updCluster_fresh (s : State) (c : Nat) (f : Cluster → Cluster) : (updCluster s c f).fresh = s.fresh := rfl
@[simp] theorem updCluster_uid (s : State) (c : Nat) (f : Cluster → Cluster) : (updCluster s c f).uid = s.uid := rfl
@[simp] theorem updCluster_dict (s : State) (c : Nat) (f : Cluster → Cluster) : (updCluster s c f).dict = s.dict := rfl
@[simp] theorem updCluster_tel (s : State) (c : Nat) (f : Cluster → Cluster) : (updCluster s c f).tel = s.tel := rfl
@[simp] theorem updCluster_audit (s : State) (c : Nat) (f : Cluster → Cluster) : (updCluster s c f).audit = s.audit := rfl
@[simp] theorem updCluster_sec (s : State) (c : Nat) (f : Cluster → Cluster) : (updCluster s c f).sec = s.sec := rfl
@[simp] theorem updCluster_cfg (s : State) (c : Nat) (f : Cluster → Cluster) : (updCluster s c f).cfg = s.cfg := rfl
@[simp] theorem updCluster_pwr (s : State) (c : Nat) (f : Cluster → Cluster) : (updCluster s c f).pwr = s.pwr := rfl
@[simp] theorem updCluster_pins (s : State) (c : Nat) (f : Cluster → Cluster) : (updCluster s c f).pins = s.pins := rfl
@[simp] theorem updCluster_cores (s : State) (c : Nat) (f : Cluster → Cluster) : (updCluster s c f).cores = s.cores := rfl
@[simp] theorem updCluster_queues (s : State) (c : Nat) (f : Cluster → Cluster) : (updCluster s c f).queues = s.queues := rfl
@[simp] theorem updCluster_jobs (s : State) (c : Nat) (f : Cluster → Cluster) : (updCluster s c f).jobs = s.jobs := rfl
@[simp] theorem updCluster_parts (s : State) (c : Nat) (f : Cluster → Cluster) : (updCluster s c f).parts = s.parts := rfl
@[simp] theorem updCluster_bufs (s : State) (c : Nat) (f : Cluster → Cluster) : (updCluster s c f).bufs = s.bufs := rfl
@[simp] theorem updCluster_index (s : State) (c : Nat) (f : Cluster → Cluster) : (updCluster s c f).index = s.index := rfl
@[simp] theorem updCluster_tiered (s : State) (c : Nat) (f : Cluster → Cluster) : (updCluster s c f).tiered = s.tiered := rfl
@[simp] theorem updCluster_keys (s : State) (c : Nat) (f : Cluster → Cluster) : (updCluster s c f).keys = s.keys := rfl
@[simp] theorem updCluster_keyGens (s : State) (c : Nat) (f : Cluster → Cluster) : (updCluster s c f).keyGens = s.keyGens := rfl
@[simp] theorem updCluster_dirs (s : State) (c : Nat) (f : Cluster → Cluster) : (updCluster s c f).dirs = s.dirs := rfl
@[simp] theorem updCluster_ctxs (s : State) (c : Nat) (f : Cluster → Cluster) : (updCluster s c f).ctxs = s.ctxs := rfl
@[simp] theorem updCluster_sync (s : State) (c : Nat) (f : Cluster → Cluster) : (updCluster s c f).sync = s.sync := rfl
@[simp] theorem updCluster_reds (s : State) (c : Nat) (f : Cluster → Cluster) : (updCluster s c f).reds = s.reds := rfl
@[simp] theorem updCluster_mbx (s : State) (c : Nat) (f : Cluster → Cluster) : (updCluster s c f).mbx = s.mbx := rfl
@[simp] theorem updCluster_host (s : State) (c : Nat) (f : Cluster → Cluster) : (updCluster s c f).host = s.host := rfl
@[simp] theorem updCluster_win (s : State) (c : Nat) (f : Cluster → Cluster) : (updCluster s c f).win = s.win := rfl
@[simp] theorem updCluster_miss (s : State) (c : Nat) (f : Cluster → Cluster) : (updCluster s c f).miss = s.miss := rfl
@[simp] theorem updCluster_lease (s : State) (c : Nat) (f : Cluster → Cluster) : (updCluster s c f).lease = s.lease := rfl
@[simp] theorem updCluster_rel (s : State) (c : Nat) (f : Cluster → Cluster) : (updCluster s c f).rel = s.rel := rfl
@[simp] theorem updCluster_hbm (s : State) (c : Nat) (f : Cluster → Cluster) : (updCluster s c f).hbm = s.hbm := rfl
@[simp] theorem updCluster_hostOut (s : State) (c : Nat) (f : Cluster → Cluster) : (updCluster s c f).hostOut = s.hostOut := rfl
@[simp] theorem updCluster_pending (s : State) (c : Nat) (f : Cluster → Cluster) : (updCluster s c f).pending = s.pending := rfl

/-! ### updPart -/

@[simp] theorem updPart_now (s : State) (p : Nat) (f : Part → Part) : (updPart s p f).now = s.now := rfl
@[simp] theorem updPart_drone (s : State) (p : Nat) (f : Part → Part) : (updPart s p f).drone = s.drone := rfl
@[simp] theorem updPart_fresh (s : State) (p : Nat) (f : Part → Part) : (updPart s p f).fresh = s.fresh := rfl
@[simp] theorem updPart_uid (s : State) (p : Nat) (f : Part → Part) : (updPart s p f).uid = s.uid := rfl
@[simp] theorem updPart_dict (s : State) (p : Nat) (f : Part → Part) : (updPart s p f).dict = s.dict := rfl
@[simp] theorem updPart_tel (s : State) (p : Nat) (f : Part → Part) : (updPart s p f).tel = s.tel := rfl
@[simp] theorem updPart_audit (s : State) (p : Nat) (f : Part → Part) : (updPart s p f).audit = s.audit := rfl
@[simp] theorem updPart_sec (s : State) (p : Nat) (f : Part → Part) : (updPart s p f).sec = s.sec := rfl
@[simp] theorem updPart_cfg (s : State) (p : Nat) (f : Part → Part) : (updPart s p f).cfg = s.cfg := rfl
@[simp] theorem updPart_pwr (s : State) (p : Nat) (f : Part → Part) : (updPart s p f).pwr = s.pwr := rfl
@[simp] theorem updPart_pins (s : State) (p : Nat) (f : Part → Part) : (updPart s p f).pins = s.pins := rfl
@[simp] theorem updPart_clusters (s : State) (p : Nat) (f : Part → Part) : (updPart s p f).clusters = s.clusters := rfl
@[simp] theorem updPart_cores (s : State) (p : Nat) (f : Part → Part) : (updPart s p f).cores = s.cores := rfl
@[simp] theorem updPart_queues (s : State) (p : Nat) (f : Part → Part) : (updPart s p f).queues = s.queues := rfl
@[simp] theorem updPart_jobs (s : State) (p : Nat) (f : Part → Part) : (updPart s p f).jobs = s.jobs := rfl
@[simp] theorem updPart_bufs (s : State) (p : Nat) (f : Part → Part) : (updPart s p f).bufs = s.bufs := rfl
@[simp] theorem updPart_index (s : State) (p : Nat) (f : Part → Part) : (updPart s p f).index = s.index := rfl
@[simp] theorem updPart_tiered (s : State) (p : Nat) (f : Part → Part) : (updPart s p f).tiered = s.tiered := rfl
@[simp] theorem updPart_keys (s : State) (p : Nat) (f : Part → Part) : (updPart s p f).keys = s.keys := rfl
@[simp] theorem updPart_keyGens (s : State) (p : Nat) (f : Part → Part) : (updPart s p f).keyGens = s.keyGens := rfl
@[simp] theorem updPart_dirs (s : State) (p : Nat) (f : Part → Part) : (updPart s p f).dirs = s.dirs := rfl
@[simp] theorem updPart_ctxs (s : State) (p : Nat) (f : Part → Part) : (updPart s p f).ctxs = s.ctxs := rfl
@[simp] theorem updPart_sync (s : State) (p : Nat) (f : Part → Part) : (updPart s p f).sync = s.sync := rfl
@[simp] theorem updPart_reds (s : State) (p : Nat) (f : Part → Part) : (updPart s p f).reds = s.reds := rfl
@[simp] theorem updPart_mbx (s : State) (p : Nat) (f : Part → Part) : (updPart s p f).mbx = s.mbx := rfl
@[simp] theorem updPart_host (s : State) (p : Nat) (f : Part → Part) : (updPart s p f).host = s.host := rfl
@[simp] theorem updPart_win (s : State) (p : Nat) (f : Part → Part) : (updPart s p f).win = s.win := rfl
@[simp] theorem updPart_miss (s : State) (p : Nat) (f : Part → Part) : (updPart s p f).miss = s.miss := rfl
@[simp] theorem updPart_lease (s : State) (p : Nat) (f : Part → Part) : (updPart s p f).lease = s.lease := rfl
@[simp] theorem updPart_rel (s : State) (p : Nat) (f : Part → Part) : (updPart s p f).rel = s.rel := rfl
@[simp] theorem updPart_hbm (s : State) (p : Nat) (f : Part → Part) : (updPart s p f).hbm = s.hbm := rfl
@[simp] theorem updPart_hostOut (s : State) (p : Nat) (f : Part → Part) : (updPart s p f).hostOut = s.hostOut := rfl
@[simp] theorem updPart_pending (s : State) (p : Nat) (f : Part → Part) : (updPart s p f).pending = s.pending := rfl

/-! ### updQueue -/

@[simp] theorem updQueue_now (s : State) (q : Nat) (f : Queue → Queue) : (updQueue s q f).now = s.now := rfl
@[simp] theorem updQueue_drone (s : State) (q : Nat) (f : Queue → Queue) : (updQueue s q f).drone = s.drone := rfl
@[simp] theorem updQueue_fresh (s : State) (q : Nat) (f : Queue → Queue) : (updQueue s q f).fresh = s.fresh := rfl
@[simp] theorem updQueue_uid (s : State) (q : Nat) (f : Queue → Queue) : (updQueue s q f).uid = s.uid := rfl
@[simp] theorem updQueue_dict (s : State) (q : Nat) (f : Queue → Queue) : (updQueue s q f).dict = s.dict := rfl
@[simp] theorem updQueue_tel (s : State) (q : Nat) (f : Queue → Queue) : (updQueue s q f).tel = s.tel := rfl
@[simp] theorem updQueue_audit (s : State) (q : Nat) (f : Queue → Queue) : (updQueue s q f).audit = s.audit := rfl
@[simp] theorem updQueue_sec (s : State) (q : Nat) (f : Queue → Queue) : (updQueue s q f).sec = s.sec := rfl
@[simp] theorem updQueue_cfg (s : State) (q : Nat) (f : Queue → Queue) : (updQueue s q f).cfg = s.cfg := rfl
@[simp] theorem updQueue_pwr (s : State) (q : Nat) (f : Queue → Queue) : (updQueue s q f).pwr = s.pwr := rfl
@[simp] theorem updQueue_pins (s : State) (q : Nat) (f : Queue → Queue) : (updQueue s q f).pins = s.pins := rfl
@[simp] theorem updQueue_clusters (s : State) (q : Nat) (f : Queue → Queue) : (updQueue s q f).clusters = s.clusters := rfl
@[simp] theorem updQueue_cores (s : State) (q : Nat) (f : Queue → Queue) : (updQueue s q f).cores = s.cores := rfl
@[simp] theorem updQueue_jobs (s : State) (q : Nat) (f : Queue → Queue) : (updQueue s q f).jobs = s.jobs := rfl
@[simp] theorem updQueue_parts (s : State) (q : Nat) (f : Queue → Queue) : (updQueue s q f).parts = s.parts := rfl
@[simp] theorem updQueue_bufs (s : State) (q : Nat) (f : Queue → Queue) : (updQueue s q f).bufs = s.bufs := rfl
@[simp] theorem updQueue_index (s : State) (q : Nat) (f : Queue → Queue) : (updQueue s q f).index = s.index := rfl
@[simp] theorem updQueue_tiered (s : State) (q : Nat) (f : Queue → Queue) : (updQueue s q f).tiered = s.tiered := rfl
@[simp] theorem updQueue_keys (s : State) (q : Nat) (f : Queue → Queue) : (updQueue s q f).keys = s.keys := rfl
@[simp] theorem updQueue_keyGens (s : State) (q : Nat) (f : Queue → Queue) : (updQueue s q f).keyGens = s.keyGens := rfl
@[simp] theorem updQueue_dirs (s : State) (q : Nat) (f : Queue → Queue) : (updQueue s q f).dirs = s.dirs := rfl
@[simp] theorem updQueue_ctxs (s : State) (q : Nat) (f : Queue → Queue) : (updQueue s q f).ctxs = s.ctxs := rfl
@[simp] theorem updQueue_sync (s : State) (q : Nat) (f : Queue → Queue) : (updQueue s q f).sync = s.sync := rfl
@[simp] theorem updQueue_reds (s : State) (q : Nat) (f : Queue → Queue) : (updQueue s q f).reds = s.reds := rfl
@[simp] theorem updQueue_mbx (s : State) (q : Nat) (f : Queue → Queue) : (updQueue s q f).mbx = s.mbx := rfl
@[simp] theorem updQueue_host (s : State) (q : Nat) (f : Queue → Queue) : (updQueue s q f).host = s.host := rfl
@[simp] theorem updQueue_win (s : State) (q : Nat) (f : Queue → Queue) : (updQueue s q f).win = s.win := rfl
@[simp] theorem updQueue_miss (s : State) (q : Nat) (f : Queue → Queue) : (updQueue s q f).miss = s.miss := rfl
@[simp] theorem updQueue_lease (s : State) (q : Nat) (f : Queue → Queue) : (updQueue s q f).lease = s.lease := rfl
@[simp] theorem updQueue_rel (s : State) (q : Nat) (f : Queue → Queue) : (updQueue s q f).rel = s.rel := rfl
@[simp] theorem updQueue_hbm (s : State) (q : Nat) (f : Queue → Queue) : (updQueue s q f).hbm = s.hbm := rfl
@[simp] theorem updQueue_hostOut (s : State) (q : Nat) (f : Queue → Queue) : (updQueue s q f).hostOut = s.hostOut := rfl
@[simp] theorem updQueue_pending (s : State) (q : Nat) (f : Queue → Queue) : (updQueue s q f).pending = s.pending := rfl

/-! ### updJob -/

@[simp] theorem updJob_now (s : State) (j : Nat) (f : Job → Job) : (updJob s j f).now = s.now := rfl
@[simp] theorem updJob_drone (s : State) (j : Nat) (f : Job → Job) : (updJob s j f).drone = s.drone := rfl
@[simp] theorem updJob_fresh (s : State) (j : Nat) (f : Job → Job) : (updJob s j f).fresh = s.fresh := rfl
@[simp] theorem updJob_uid (s : State) (j : Nat) (f : Job → Job) : (updJob s j f).uid = s.uid := rfl
@[simp] theorem updJob_dict (s : State) (j : Nat) (f : Job → Job) : (updJob s j f).dict = s.dict := rfl
@[simp] theorem updJob_tel (s : State) (j : Nat) (f : Job → Job) : (updJob s j f).tel = s.tel := rfl
@[simp] theorem updJob_audit (s : State) (j : Nat) (f : Job → Job) : (updJob s j f).audit = s.audit := rfl
@[simp] theorem updJob_sec (s : State) (j : Nat) (f : Job → Job) : (updJob s j f).sec = s.sec := rfl
@[simp] theorem updJob_cfg (s : State) (j : Nat) (f : Job → Job) : (updJob s j f).cfg = s.cfg := rfl
@[simp] theorem updJob_pwr (s : State) (j : Nat) (f : Job → Job) : (updJob s j f).pwr = s.pwr := rfl
@[simp] theorem updJob_pins (s : State) (j : Nat) (f : Job → Job) : (updJob s j f).pins = s.pins := rfl
@[simp] theorem updJob_clusters (s : State) (j : Nat) (f : Job → Job) : (updJob s j f).clusters = s.clusters := rfl
@[simp] theorem updJob_cores (s : State) (j : Nat) (f : Job → Job) : (updJob s j f).cores = s.cores := rfl
@[simp] theorem updJob_queues (s : State) (j : Nat) (f : Job → Job) : (updJob s j f).queues = s.queues := rfl
@[simp] theorem updJob_parts (s : State) (j : Nat) (f : Job → Job) : (updJob s j f).parts = s.parts := rfl
@[simp] theorem updJob_bufs (s : State) (j : Nat) (f : Job → Job) : (updJob s j f).bufs = s.bufs := rfl
@[simp] theorem updJob_index (s : State) (j : Nat) (f : Job → Job) : (updJob s j f).index = s.index := rfl
@[simp] theorem updJob_tiered (s : State) (j : Nat) (f : Job → Job) : (updJob s j f).tiered = s.tiered := rfl
@[simp] theorem updJob_keys (s : State) (j : Nat) (f : Job → Job) : (updJob s j f).keys = s.keys := rfl
@[simp] theorem updJob_keyGens (s : State) (j : Nat) (f : Job → Job) : (updJob s j f).keyGens = s.keyGens := rfl
@[simp] theorem updJob_dirs (s : State) (j : Nat) (f : Job → Job) : (updJob s j f).dirs = s.dirs := rfl
@[simp] theorem updJob_ctxs (s : State) (j : Nat) (f : Job → Job) : (updJob s j f).ctxs = s.ctxs := rfl
@[simp] theorem updJob_sync (s : State) (j : Nat) (f : Job → Job) : (updJob s j f).sync = s.sync := rfl
@[simp] theorem updJob_reds (s : State) (j : Nat) (f : Job → Job) : (updJob s j f).reds = s.reds := rfl
@[simp] theorem updJob_mbx (s : State) (j : Nat) (f : Job → Job) : (updJob s j f).mbx = s.mbx := rfl
@[simp] theorem updJob_host (s : State) (j : Nat) (f : Job → Job) : (updJob s j f).host = s.host := rfl
@[simp] theorem updJob_win (s : State) (j : Nat) (f : Job → Job) : (updJob s j f).win = s.win := rfl
@[simp] theorem updJob_miss (s : State) (j : Nat) (f : Job → Job) : (updJob s j f).miss = s.miss := rfl
@[simp] theorem updJob_lease (s : State) (j : Nat) (f : Job → Job) : (updJob s j f).lease = s.lease := rfl
@[simp] theorem updJob_rel (s : State) (j : Nat) (f : Job → Job) : (updJob s j f).rel = s.rel := rfl
@[simp] theorem updJob_hbm (s : State) (j : Nat) (f : Job → Job) : (updJob s j f).hbm = s.hbm := rfl
@[simp] theorem updJob_hostOut (s : State) (j : Nat) (f : Job → Job) : (updJob s j f).hostOut = s.hostOut := rfl
@[simp] theorem updJob_pending (s : State) (j : Nat) (f : Job → Job) : (updJob s j f).pending = s.pending := rfl

/-! ### updMbox -/

@[simp] theorem updMbox_now (s : State) (fn : Nat) (f : Mailbox → Mailbox) : (updMbox s fn f).now = s.now := rfl
@[simp] theorem updMbox_drone (s : State) (fn : Nat) (f : Mailbox → Mailbox) : (updMbox s fn f).drone = s.drone := rfl
@[simp] theorem updMbox_fresh (s : State) (fn : Nat) (f : Mailbox → Mailbox) : (updMbox s fn f).fresh = s.fresh := rfl
@[simp] theorem updMbox_uid (s : State) (fn : Nat) (f : Mailbox → Mailbox) : (updMbox s fn f).uid = s.uid := rfl
@[simp] theorem updMbox_dict (s : State) (fn : Nat) (f : Mailbox → Mailbox) : (updMbox s fn f).dict = s.dict := rfl
@[simp] theorem updMbox_tel (s : State) (fn : Nat) (f : Mailbox → Mailbox) : (updMbox s fn f).tel = s.tel := rfl
@[simp] theorem updMbox_audit (s : State) (fn : Nat) (f : Mailbox → Mailbox) : (updMbox s fn f).audit = s.audit := rfl
@[simp] theorem updMbox_sec (s : State) (fn : Nat) (f : Mailbox → Mailbox) : (updMbox s fn f).sec = s.sec := rfl
@[simp] theorem updMbox_cfg (s : State) (fn : Nat) (f : Mailbox → Mailbox) : (updMbox s fn f).cfg = s.cfg := rfl
@[simp] theorem updMbox_pwr (s : State) (fn : Nat) (f : Mailbox → Mailbox) : (updMbox s fn f).pwr = s.pwr := rfl
@[simp] theorem updMbox_pins (s : State) (fn : Nat) (f : Mailbox → Mailbox) : (updMbox s fn f).pins = s.pins := rfl
@[simp] theorem updMbox_clusters (s : State) (fn : Nat) (f : Mailbox → Mailbox) : (updMbox s fn f).clusters = s.clusters := rfl
@[simp] theorem updMbox_cores (s : State) (fn : Nat) (f : Mailbox → Mailbox) : (updMbox s fn f).cores = s.cores := rfl
@[simp] theorem updMbox_queues (s : State) (fn : Nat) (f : Mailbox → Mailbox) : (updMbox s fn f).queues = s.queues := rfl
@[simp] theorem updMbox_jobs (s : State) (fn : Nat) (f : Mailbox → Mailbox) : (updMbox s fn f).jobs = s.jobs := rfl
@[simp] theorem updMbox_parts (s : State) (fn : Nat) (f : Mailbox → Mailbox) : (updMbox s fn f).parts = s.parts := rfl
@[simp] theorem updMbox_bufs (s : State) (fn : Nat) (f : Mailbox → Mailbox) : (updMbox s fn f).bufs = s.bufs := rfl
@[simp] theorem updMbox_index (s : State) (fn : Nat) (f : Mailbox → Mailbox) : (updMbox s fn f).index = s.index := rfl
@[simp] theorem updMbox_tiered (s : State) (fn : Nat) (f : Mailbox → Mailbox) : (updMbox s fn f).tiered = s.tiered := rfl
@[simp] theorem updMbox_keys (s : State) (fn : Nat) (f : Mailbox → Mailbox) : (updMbox s fn f).keys = s.keys := rfl
@[simp] theorem updMbox_keyGens (s : State) (fn : Nat) (f : Mailbox → Mailbox) : (updMbox s fn f).keyGens = s.keyGens := rfl
@[simp] theorem updMbox_dirs (s : State) (fn : Nat) (f : Mailbox → Mailbox) : (updMbox s fn f).dirs = s.dirs := rfl
@[simp] theorem updMbox_ctxs (s : State) (fn : Nat) (f : Mailbox → Mailbox) : (updMbox s fn f).ctxs = s.ctxs := rfl
@[simp] theorem updMbox_sync (s : State) (fn : Nat) (f : Mailbox → Mailbox) : (updMbox s fn f).sync = s.sync := rfl
@[simp] theorem updMbox_reds (s : State) (fn : Nat) (f : Mailbox → Mailbox) : (updMbox s fn f).reds = s.reds := rfl
@[simp] theorem updMbox_host (s : State) (fn : Nat) (f : Mailbox → Mailbox) : (updMbox s fn f).host = s.host := rfl
@[simp] theorem updMbox_win (s : State) (fn : Nat) (f : Mailbox → Mailbox) : (updMbox s fn f).win = s.win := rfl
@[simp] theorem updMbox_miss (s : State) (fn : Nat) (f : Mailbox → Mailbox) : (updMbox s fn f).miss = s.miss := rfl
@[simp] theorem updMbox_lease (s : State) (fn : Nat) (f : Mailbox → Mailbox) : (updMbox s fn f).lease = s.lease := rfl
@[simp] theorem updMbox_rel (s : State) (fn : Nat) (f : Mailbox → Mailbox) : (updMbox s fn f).rel = s.rel := rfl
@[simp] theorem updMbox_hbm (s : State) (fn : Nat) (f : Mailbox → Mailbox) : (updMbox s fn f).hbm = s.hbm := rfl
@[simp] theorem updMbox_hostOut (s : State) (fn : Nat) (f : Mailbox → Mailbox) : (updMbox s fn f).hostOut = s.hostOut := rfl
@[simp] theorem updMbox_pending (s : State) (fn : Nat) (f : Mailbox → Mailbox) : (updMbox s fn f).pending = s.pending := rfl

/-! ### putAlarm, updEngine -/

@[simp] theorem putAlarm_now (s : State) (slot : Nat) (r : AlarmRec) : (putAlarm s slot r).now = s.now := rfl
@[simp] theorem putAlarm_drone (s : State) (slot : Nat) (r : AlarmRec) : (putAlarm s slot r).drone = s.drone := rfl
@[simp] theorem putAlarm_fresh (s : State) (slot : Nat) (r : AlarmRec) : (putAlarm s slot r).fresh = s.fresh := rfl
@[simp] theorem putAlarm_uid (s : State) (slot : Nat) (r : AlarmRec) : (putAlarm s slot r).uid = s.uid := rfl
@[simp] theorem putAlarm_audit (s : State) (slot : Nat) (r : AlarmRec) : (putAlarm s slot r).audit = s.audit := rfl
@[simp] theorem putAlarm_sec (s : State) (slot : Nat) (r : AlarmRec) : (putAlarm s slot r).sec = s.sec := rfl
@[simp] theorem putAlarm_cfg (s : State) (slot : Nat) (r : AlarmRec) : (putAlarm s slot r).cfg = s.cfg := rfl
@[simp] theorem putAlarm_pwr (s : State) (slot : Nat) (r : AlarmRec) : (putAlarm s slot r).pwr = s.pwr := rfl
@[simp] theorem putAlarm_clusters (s : State) (slot : Nat) (r : AlarmRec) : (putAlarm s slot r).clusters = s.clusters := rfl
@[simp] theorem putAlarm_cores (s : State) (slot : Nat) (r : AlarmRec) : (putAlarm s slot r).cores = s.cores := rfl
@[simp] theorem putAlarm_queues (s : State) (slot : Nat) (r : AlarmRec) : (putAlarm s slot r).queues = s.queues := rfl
@[simp] theorem putAlarm_jobs (s : State) (slot : Nat) (r : AlarmRec) : (putAlarm s slot r).jobs = s.jobs := rfl
@[simp] theorem putAlarm_parts (s : State) (slot : Nat) (r : AlarmRec) : (putAlarm s slot r).parts = s.parts := rfl
@[simp] theorem putAlarm_bufs (s : State) (slot : Nat) (r : AlarmRec) : (putAlarm s slot r).bufs = s.bufs := rfl
@[simp] theorem putAlarm_index (s : State) (slot : Nat) (r : AlarmRec) : (putAlarm s slot r).index = s.index := rfl
@[simp] theorem putAlarm_tiered (s : State) (slot : Nat) (r : AlarmRec) : (putAlarm s slot r).tiered = s.tiered := rfl
@[simp] theorem putAlarm_keys (s : State) (slot : Nat) (r : AlarmRec) : (putAlarm s slot r).keys = s.keys := rfl
@[simp] theorem putAlarm_keyGens (s : State) (slot : Nat) (r : AlarmRec) : (putAlarm s slot r).keyGens = s.keyGens := rfl
@[simp] theorem putAlarm_dirs (s : State) (slot : Nat) (r : AlarmRec) : (putAlarm s slot r).dirs = s.dirs := rfl
@[simp] theorem putAlarm_ctxs (s : State) (slot : Nat) (r : AlarmRec) : (putAlarm s slot r).ctxs = s.ctxs := rfl
@[simp] theorem putAlarm_sync (s : State) (slot : Nat) (r : AlarmRec) : (putAlarm s slot r).sync = s.sync := rfl
@[simp] theorem putAlarm_reds (s : State) (slot : Nat) (r : AlarmRec) : (putAlarm s slot r).reds = s.reds := rfl
@[simp] theorem putAlarm_mbx (s : State) (slot : Nat) (r : AlarmRec) : (putAlarm s slot r).mbx = s.mbx := rfl
@[simp] theorem putAlarm_host (s : State) (slot : Nat) (r : AlarmRec) : (putAlarm s slot r).host = s.host := rfl
@[simp] theorem putAlarm_win (s : State) (slot : Nat) (r : AlarmRec) : (putAlarm s slot r).win = s.win := rfl
@[simp] theorem putAlarm_miss (s : State) (slot : Nat) (r : AlarmRec) : (putAlarm s slot r).miss = s.miss := rfl
@[simp] theorem putAlarm_lease (s : State) (slot : Nat) (r : AlarmRec) : (putAlarm s slot r).lease = s.lease := rfl
@[simp] theorem putAlarm_rel (s : State) (slot : Nat) (r : AlarmRec) : (putAlarm s slot r).rel = s.rel := rfl
@[simp] theorem putAlarm_hbm (s : State) (slot : Nat) (r : AlarmRec) : (putAlarm s slot r).hbm = s.hbm := rfl
@[simp] theorem putAlarm_hostOut (s : State) (slot : Nat) (r : AlarmRec) : (putAlarm s slot r).hostOut = s.hostOut := rfl
@[simp] theorem putAlarm_pending (s : State) (slot : Nat) (r : AlarmRec) : (putAlarm s slot r).pending = s.pending := rfl
@[simp] theorem updEngine_now (s : State) (h : Hub) (f : Engine → Engine) : (updEngine s h f).now = s.now := by cases h <;> rfl
@[simp] theorem updEngine_drone (s : State) (h : Hub) (f : Engine → Engine) : (updEngine s h f).drone = s.drone := by cases h <;> rfl
@[simp] theorem updEngine_fresh (s : State) (h : Hub) (f : Engine → Engine) : (updEngine s h f).fresh = s.fresh := by cases h <;> rfl
@[simp] theorem updEngine_uid (s : State) (h : Hub) (f : Engine → Engine) : (updEngine s h f).uid = s.uid := by cases h <;> rfl
@[simp] theorem updEngine_dict (s : State) (h : Hub) (f : Engine → Engine) : (updEngine s h f).dict = s.dict := by cases h <;> rfl
@[simp] theorem updEngine_tel (s : State) (h : Hub) (f : Engine → Engine) : (updEngine s h f).tel = s.tel := by cases h <;> rfl
@[simp] theorem updEngine_audit (s : State) (h : Hub) (f : Engine → Engine) : (updEngine s h f).audit = s.audit := by cases h <;> rfl
@[simp] theorem updEngine_cfg (s : State) (h : Hub) (f : Engine → Engine) : (updEngine s h f).cfg = s.cfg := by cases h <;> rfl
@[simp] theorem updEngine_pwr (s : State) (h : Hub) (f : Engine → Engine) : (updEngine s h f).pwr = s.pwr := by cases h <;> rfl
@[simp] theorem updEngine_pins (s : State) (h : Hub) (f : Engine → Engine) : (updEngine s h f).pins = s.pins := by cases h <;> rfl
@[simp] theorem updEngine_clusters (s : State) (h : Hub) (f : Engine → Engine) : (updEngine s h f).clusters = s.clusters := by cases h <;> rfl
@[simp] theorem updEngine_cores (s : State) (h : Hub) (f : Engine → Engine) : (updEngine s h f).cores = s.cores := by cases h <;> rfl
@[simp] theorem updEngine_queues (s : State) (h : Hub) (f : Engine → Engine) : (updEngine s h f).queues = s.queues := by cases h <;> rfl
@[simp] theorem updEngine_jobs (s : State) (h : Hub) (f : Engine → Engine) : (updEngine s h f).jobs = s.jobs := by cases h <;> rfl
@[simp] theorem updEngine_parts (s : State) (h : Hub) (f : Engine → Engine) : (updEngine s h f).parts = s.parts := by cases h <;> rfl
@[simp] theorem updEngine_bufs (s : State) (h : Hub) (f : Engine → Engine) : (updEngine s h f).bufs = s.bufs := by cases h <;> rfl
@[simp] theorem updEngine_index (s : State) (h : Hub) (f : Engine → Engine) : (updEngine s h f).index = s.index := by cases h <;> rfl
@[simp] theorem updEngine_tiered (s : State) (h : Hub) (f : Engine → Engine) : (updEngine s h f).tiered = s.tiered := by cases h <;> rfl
@[simp] theorem updEngine_keys (s : State) (h : Hub) (f : Engine → Engine) : (updEngine s h f).keys = s.keys := by cases h <;> rfl
@[simp] theorem updEngine_keyGens (s : State) (h : Hub) (f : Engine → Engine) : (updEngine s h f).keyGens = s.keyGens := by cases h <;> rfl
@[simp] theorem updEngine_dirs (s : State) (h : Hub) (f : Engine → Engine) : (updEngine s h f).dirs = s.dirs := by cases h <;> rfl
@[simp] theorem updEngine_ctxs (s : State) (h : Hub) (f : Engine → Engine) : (updEngine s h f).ctxs = s.ctxs := by cases h <;> rfl
@[simp] theorem updEngine_sync (s : State) (h : Hub) (f : Engine → Engine) : (updEngine s h f).sync = s.sync := by cases h <;> rfl
@[simp] theorem updEngine_reds (s : State) (h : Hub) (f : Engine → Engine) : (updEngine s h f).reds = s.reds := by cases h <;> rfl
@[simp] theorem updEngine_mbx (s : State) (h : Hub) (f : Engine → Engine) : (updEngine s h f).mbx = s.mbx := by cases h <;> rfl
@[simp] theorem updEngine_host (s : State) (h : Hub) (f : Engine → Engine) : (updEngine s h f).host = s.host := by cases h <;> rfl
@[simp] theorem updEngine_win (s : State) (h : Hub) (f : Engine → Engine) : (updEngine s h f).win = s.win := by cases h <;> rfl
@[simp] theorem updEngine_miss (s : State) (h : Hub) (f : Engine → Engine) : (updEngine s h f).miss = s.miss := by cases h <;> rfl
@[simp] theorem updEngine_lease (s : State) (h : Hub) (f : Engine → Engine) : (updEngine s h f).lease = s.lease := by cases h <;> rfl
@[simp] theorem updEngine_rel (s : State) (h : Hub) (f : Engine → Engine) : (updEngine s h f).rel = s.rel := by cases h <;> rfl
@[simp] theorem updEngine_hbm (s : State) (h : Hub) (f : Engine → Engine) : (updEngine s h f).hbm = s.hbm := by cases h <;> rfl
@[simp] theorem updEngine_hostOut (s : State) (h : Hub) (f : Engine → Engine) : (updEngine s h f).hostOut = s.hostOut := by cases h <;> rfl
@[simp] theorem updEngine_pending (s : State) (h : Hub) (f : Engine → Engine) : (updEngine s h f).pending = s.pending := by cases h <;> rfl
@[simp] theorem updEngine_fuses (s : State) (h : Hub) (f : Engine → Engine) : (updEngine s h f).sec.fuses = s.sec.fuses := by
  cases h <;> rfl

/-! ### What is read back -/

@[simp] theorem dget_dput_self (s : State) (key : Nat) (v : DVal) : dget (dput s key v) key = v := by
  simp [dget, dput]

@[simp] theorem dget_dput_other (s : State) (key k : Nat) (v : DVal) (h : k ≠ key) : dget (dput s key v) k = dget s k := by
  simp [dget, dput, h]

theorem dkey_inj (i j i' j' : Nat) (hj : j < 256) (hj' : j' < 256) : dkey i j = dkey i' j' ↔ i = i' ∧ j = j' := by
  unfold dkey; omega

@[simp] theorem dnum_dset_self (s : State) (i j n : Nat) : dnum (dset s i j n) i j = n := by
  simp [dnum, dset, DVal.toNat]

@[simp] theorem dnum_dset_other (s : State) (i j n i' j' : Nat) (h : dkey i' j' ≠ dkey i j) :
    dnum (dset s i j n) i' j' = dnum s i' j' := by
  simp [dnum, dset, h]

@[simp] theorem dblob_dsetB_self (s : State) (i j : Nat) (b : List Byte) : dblob (dsetB s i j b) i j = b := by
  simp [dblob, dsetB, DVal.bytes]

@[simp] theorem coreAt_updCore_self (s : State) (c : Nat) (f : Core → Core) : coreAt (updCore s c f) c = f (coreAt s c) := by
  simp [coreAt, updCore]

@[simp] theorem coreAt_updCore_other (s : State) (c d : Nat) (f : Core → Core) (h : d ≠ c) :
    coreAt (updCore s c f) d = coreAt s d := by
  simp [coreAt, updCore, h]

@[simp] theorem clusterAt_updCluster_self (s : State) (c : Nat) (f : Cluster → Cluster) :
    clusterAt (updCluster s c f) c = f (clusterAt s c) := by
  simp [clusterAt, updCluster]

@[simp] theorem clusterAt_updCluster_other (s : State) (c d : Nat) (f : Cluster → Cluster) (h : d ≠ c) :
    clusterAt (updCluster s c f) d = clusterAt s d := by
  simp [clusterAt, updCluster, h]

@[simp] theorem partAt_updPart_self (s : State) (p : Nat) (f : Part → Part) : partAt (updPart s p f) p = f (partAt s p) := by
  simp [partAt, updPart]

@[simp] theorem mboxAt_updMbox_self (s : State) (fn : Nat) (f : Mailbox → Mailbox) :
    mboxAt (updMbox s fn f) fn = f (mboxAt s fn) := by
  simp [mboxAt, updMbox]

@[simp] theorem queueAt_updQueue (s : State) (q p : Nat) (f : Queue → Queue) :
    queueAt (updQueue s q f) p = if p = q then (queueAt s p).map f else queueAt s p := by
  simp [queueAt, updQueue]

@[simp] theorem jobAt_updJob (s : State) (j i : Nat) (f : Job → Job) :
    jobAt (updJob s j f) i = if i = j then (jobAt s i).map f else jobAt s i := by
  simp [jobAt, updJob]

@[simp] theorem engineAt_updEngine (s : State) (h : Hub) (f : Engine → Engine) : engineAt (updEngine s h f) h = f (engineAt s h) := by
  cases h <;> rfl

/-- A counter raised: the new value. -/
theorem dnum_bump_self (s : State) (i j n : Nat) : dnum (bump s i j n) i j = min (dnum s i j + n) (entryMax i j) := by
  simp [bump]

/-- A counter raised: every other entry. -/
theorem dget_bump_other (s : State) (i j n k : Nat) (h : k ≠ dkey i j) : dget (bump s i j n) k = dget s k := by
  simp [bump, dset, h]

end Sys2Proof.Machine
end

