-- ==== Sys2Proof/Laws/Commands.lean ====
section
/-! SUPPORT. How a command of a queue ends: what failing, finishing and committing do to its queue. -/

namespace Sys2Proof.Machine

open Sys2Proof

/-! ## What leaves the queues alone -/

@[simp] theorem trace_queues (s : State) (a b c d e f : Nat) : (trace s a b c d e f).queues = s.queues := by
  have drain : ∀ (n : Nat) (s : State), (traceDrain s n).queues = s.queues := by
    intro n
    induction n with
    | zero => intro s; rfl
    | succ n ih =>
      intro s
      unfold traceDrain
      split
      · rfl
      · split
        · rfl
        · rw [ih]; rfl
  unfold trace
  split
  · rfl
  split
  · rfl
  split
  · rfl
  split
  · exact drain _ _
  · rfl

@[simp] theorem leaveEngines_queues (s : State) (q uid : Nat) : (leaveEngines s q uid).queues = s.queues := rfl
@[simp] theorem withdraw_queues (s : State) (q uid : Nat) : (withdraw s q uid).queues = s.queues := rfl
@[simp] theorem respond_queues (s : State) (fn c n : Nat) (b : List Byte) : (respond s fn c n b).queues = s.queues := rfl
@[simp] theorem setCharge_queues (s : State) (p fn t n : Nat) : (setCharge s p fn t n).queues = s.queues := by
  unfold setCharge
  split
  · rfl
  · split <;> rfl
@[simp] theorem charge_queues (s : State) (p fn t n : Nat) : (charge s p fn t n).queues = s.queues := setCharge_queues ..
@[simp] theorem uncharge_queues (s : State) (p fn t n : Nat) : (uncharge s p fn t n).queues = s.queues := setCharge_queues ..
@[simp] theorem placementDone_queues (s : State) (p : Nat) (r : PlaceReq) (st : Status) (n : Nat) :
    (placementDone s p r st n).queues = s.queues := rfl

/-- A fold of steps that leave the queues alone leaves them alone. -/
theorem foldl_queues {α : Type} (f : State → α → State) (h : ∀ s a, (f s a).queues = s.queues) (l : List α) (s : State) :
    (l.foldl f s).queues = s.queues := by
  induction l generalizing s with
  | nil => rfl
  | cons a t ih => simp [ih, h]

@[simp] theorem discardArray_queues (s : State) (q : Nat) (c : Cmd) : (discardArray s q c).queues = s.queues := by
  unfold discardArray
  split <;> rfl
@[simp] theorem countIssued_queues (s : State) (c : Cmd) (n : Nat) : (countIssued s c n).queues = s.queues := rfl
@[simp] theorem stall_queues (s : State) (a b n : Nat) : (stall s a b n).queues = s.queues := rfl

@[simp] theorem missRecord_queues (s : State) (a b c d e f g h i : Nat) : (missRecord s a b c d e f g h i).queues = s.queues := by
  unfold missRecord
  split
  · rfl
  · dsimp only
    split <;> rfl

@[simp] theorem endStall_queues (s : State) (q fn : Nat) (c : Cmd) : (endStall s q fn c).queues = s.queues := by
  unfold endStall
  split
  · rfl
  · dsimp only
    split <;> simp

@[simp] theorem sendFlits_queues (s : State) (p k m n t : Nat) : (sendFlits s p k m n t).queues = s.queues := by
  unfold sendFlits
  repeat' split
  all_goals rfl

@[simp] theorem tellRemote_queues (s : State) (q : Nat) (c : Cmd) (b : Bool) : (tellRemote s q c b).queues = s.queues := by
  unfold tellRemote
  split <;> simp

@[simp] theorem returnStorage_queues (s : State) (p k : Nat) (b : Buf) : (returnStorage s p k b).queues = s.queues := by
  unfold returnStorage
  dsimp only
  repeat' split
  all_goals simp

@[simp] theorem releaseHeld_queues (s : State) : (releaseHeld s).queues = s.queues := by
  unfold releaseHeld
  refine foldl_queues _ (fun s e => ?_) _ _
  simp only
  split <;> simp

@[simp] theorem clearPoison_queues (s : State) (p : Nat × Nat → Bool) : (clearPoison s p).queues = s.queues := rfl

@[simp] theorem storeBuf_queues (s : State) (k o : Nat) (d : List Byte) : (storeBuf s k o d).queues = s.queues := by
  unfold storeBuf
  simp only
  split
  · rfl
  · split <;> rfl

@[simp] theorem storeStaged_queues (s : State) (w : StageWrite) : (storeStaged s w).queues = s.queues := by
  unfold storeStaged
  dsimp only
  split
  · split <;> simp
  · rfl

@[simp] theorem hbmWrite_queues (s : State) (p a : Nat) (bs : List Byte) : (hbmWrite s p a bs).queues = s.queues := by
  unfold hbmWrite
  split <;> simp

@[simp] theorem beginSave_queues (s : State) (j : Nat) (J : Job) : (beginSave s j J).queues = s.queues := rfl

/-! ## One queue of the state -/

@[simp] theorem queueAt_releaseHeld (s : State) (q : Nat) : queueAt (releaseHeld s) q = queueAt s q := by simp [queueAt]
@[simp] theorem queueAt_trace (s : State) (a b c d e f q : Nat) : queueAt (trace s a b c d e f) q = queueAt s q := by simp [queueAt]

/-- Nothing of a queue but its hold and its waiting changes where it holds: the command list, the status and the stop stand. -/
theorem holdQueue_queue (s : State) (q p : Nat) :
    ∃ (h : Queue → Bool) (w : Queue → Option Nat),
      queueAt (holdQueue s q) p = (queueAt s p).map fun Q => { Q with held := h Q, waitingSince := w Q } := by
  have same : ∃ (h : Queue → Bool) (w : Queue → Option Nat),
      queueAt s p = (queueAt s p).map fun Q => { Q with held := h Q, waitingSince := w Q } :=
    ⟨Queue.held, Queue.waitingSince, by cases queueAt s p <;> rfl⟩
  unfold holdQueue
  split
  · exact same
  · split
    · exact same
    · extract_lets s1
      have h1 : ∃ (h : Queue → Bool) (w : Queue → Option Nat),
          queueAt s1 p = (queueAt s p).map fun Q => { Q with held := h Q, waitingSince := w Q } := by
        show ∃ (h : Queue → Bool) (w : Queue → Option Nat), queueAt (updQueue s q _) p = _
        rw [queueAt_updQueue]
        split
        · exact ⟨_, _, rfl⟩
        · exact same
      split <;> exact h1

/-- Stopping a queue: its status and stop are set, its commands stand, no other queue is stopped. -/
theorem stopQueue_queue (s : State) (q : Nat) (st : Status) (Q : Queue) (h : queueAt s q = some Q) :
    ∃ b w, queueAt (stopQueue s q st) q = some { Q with status := st, stopped := true, held := b, waitingSince := w } := by
  obtain ⟨f, w, hf⟩ := holdQueue_queue (updQueue s q fun Q => { Q with status := st, stopped := true }) q q
  refine ⟨f { Q with status := st, stopped := true }, w { Q with status := st, stopped := true }, ?_⟩
  unfold stopQueue
  rw [hf, queueAt_updQueue, if_pos rfl, h]
  rfl

/-- A completion record leaves the queue's commands as they are. -/
theorem putCompletion_queue (s : State) (q : Nat) (c : Cmd) (st : Status) (Q : Queue) (h : queueAt s q = some Q) :
    queueAt (putCompletion s q c st) q = some { Q with cpls := Q.cpls + 1 } := by
  unfold putCompletion
  rw [h]
  simp only
  have key : ∀ t : State, t.queues = s.queues → queueAt (updQueue t q fun Q => { Q with cpls := Q.cpls + 1 }) q
      = some { Q with cpls := Q.cpls + 1 } := by
    intro t ht
    rw [queueAt_updQueue, if_pos rfl]
    have : queueAt t q = some Q := by unfold queueAt at h ⊢; rw [ht]; exact h
    rw [this]; rfl
  split <;> split <;> exact key _ (by simp)

/-- A change of one command of a queue. -/
theorem updCmd_queue (s : State) (q uid : Nat) (f : Cmd → Cmd) (Q : Queue) (h : queueAt s q = some Q) :
    queueAt (updCmd s q uid f) q = some { Q with cmds := Q.cmds.map fun c => if c.uid = uid then f c else c } := by
  simp [updCmd, h]

/-- The changed command, found by its number. -/
theorem cmdAt_map_self (l : List Cmd) (uid : Nat) (f : Cmd → Cmd) (c : Cmd) (hf : ∀ c, (f c).uid = c.uid)
    (h : (l.find? fun c => c.uid = uid) = some c) :
    ((l.map fun c => if c.uid = uid then f c else c).find? fun c => c.uid = uid) = some (f c) := by
  induction l with
  | nil => simp at h
  | cons d t ih =>
    by_cases hd : d.uid = uid
    · simp [List.find?, hd] at h ⊢
      subst h
      simp [hf, hd]
    · simp [List.find?, hd] at h ⊢
      simpa using ih h

/-- Every other command of the queue is found as before. -/
theorem cmdAt_map_other (l : List Cmd) (uid n : Nat) (f : Cmd → Cmd) (hf : ∀ c, (f c).uid = c.uid) (h : n ≠ uid) :
    ((l.map fun c => if c.uid = uid then f c else c).find? fun c => c.uid = n) = l.find? fun c => c.uid = n := by
  induction l with
  | nil => rfl
  | cons d t ih =>
    by_cases hd : d.uid = uid
    · have : ¬d.uid = n := fun e => h (e ▸ hd)
      simp [List.find?, hd, hf, Ne.symm h, ih]
    · by_cases hn : d.uid = n
      · simp [List.find?, hn, h]
      · simp [List.find?, hd, hn, ih]

/-- What a queue holds is told by the queues alone. -/
theorem queueAt_of_queues (s t : State) (q : Nat) (e : t.queues = s.queues) : queueAt t q = queueAt s q := by
  unfold queueAt
  rw [e]

/-- Failure (R104): the command stands finished with the status, and the queue has stopped with it. -/
theorem fail_failed (s : State) (q uid : Nat) (st : Status) (Q : Queue) (c : Cmd) (hq : queueAt s q = some Q)
    (hc : cmdAt Q uid = some c) : Failed (fail s q uid st) q uid st := by
  unfold fail failCmd
  rw [hq]
  have hb : (some Q).bind (cmdAt · uid) = some c := hc
  rw [hb]
  dsimp -zeta only
  extract_lets s1 s2 s3 s4 s5
  have h1 : queueAt s1 q = some Q := (queueAt_of_queues s s1 q (by simp [s1])).trans hq
  have h2 : queueAt s2 q = some Q := (queueAt_of_queues s1 s2 q (by simp only [s2]; split <;> simp)).trans h1
  have h3 := updCmd_queue s2 q uid (fun c => { c.bare with state := .finished st }) Q h2
  have h4 : queueAt s4 q = _ := putCompletion_queue s3 q c st _ h3
  have hm := cmdAt_map_self Q.cmds uid (fun c => { c.bare with state := .finished st }) c (fun _ => rfl) hc
  have done : ∀ (t : State) (P : Queue), queueAt t q = some P →
      P.cmds = (Q.cmds.map fun c => if c.uid = uid then { c.bare with state := .finished st } else c) →
      Failed (releaseHeld (stopQueue t q st)) q uid st := by
    intro t P ht hP
    obtain ⟨b, w, hb⟩ := stopQueue_queue t q st P ht
    refine ⟨_, { c.bare with state := .finished st }, by rw [queueAt_releaseHeld]; exact hb, ?_, rfl, rfl, rfl⟩
    unfold cmdAt
    simp only [hP]
    exact hm
  have h5 : ∃ P, queueAt s5 q = some P ∧
      P.cmds = (Q.cmds.map fun c => if c.uid = uid then { c.bare with state := .finished st } else c) := by
    simp only [s5]
    split
    · refine ⟨_, by rw [offence, queueAt_updQueue, if_pos rfl, h4]; rfl, ?_⟩
      dsimp only
      split <;> rfl
    · exact ⟨_, h4, rfl⟩
  obtain ⟨P, hP, hP'⟩ := h5
  exact done s5 P hP hP'

/-- A command that finishes stands in its queue with the status. -/
theorem finish_finished (s : State) (q uid : Nat) (st : Status) (f : Cmd → Cmd) (Q : Queue) (c : Cmd)
    (hf : ∀ c, (f c).uid = c.uid) (hq : queueAt s q = some Q) (hc : cmdAt Q uid = some c) :
    ∃ Q', queueAt (finish s q uid st f) q = some Q' ∧ cmdAt Q' uid = some { f c with state := .finished st } := by
  have h0 : queueAt (leaveEngines s q uid) q = some Q := hq
  refine ⟨_, updCmd_queue _ q uid _ Q h0, ?_⟩
  exact cmdAt_map_self Q.cmds uid _ c hf hc

/-- While the oldest RUN of a queue goes on, the commit of RUNs changes nothing. -/
theorem commitRun_of_running (s : State) (q : Nat) (Q : Queue) (hq : queueAt s q = some Q)
    (h : Q.runs = [] ∨ ∃ r l, Q.runs = r :: l ∧ runEnded Q r = false) : commitRun s q = s := by
  unfold commitRun
  rw [hq]
  dsimp only
  rcases h with h | ⟨r, l, h, hr⟩
  · rw [h]; rfl
  · rw [h]
    unfold commitRuns
    rw [hq]
    dsimp only
    rw [h]
    simp [hr]

/-- A RUN that commits: COMMITTED holds its SEQ, the queue's commands stand, and the other RUNs are left (R101, R103). -/
theorem commitRuns_step (s : State) (q n : Nat) (Q : Queue) (r : Cmd) (l : List Cmd) (hq : queueAt s q = some Q)
    (hr : Q.runs = r :: l) (he : runEnded Q r = true) :
    ∃ s' Q', commitRuns (n + 1) s q = commitRuns n s' q ∧ queueAt s' q = some Q' ∧ Q'.cmds = Q.cmds ∧ Q'.committed = r.seq
      ∧ Q'.runs = l := by
  have e : commitRuns (n + 1) s q = _ := commitRuns.eq_2 s q n
  rw [hq] at e
  dsimp only at e
  rw [hr] at e
  simp only [he, Bool.not_true, Bool.false_eq_true, if_false] at e
  rw [e]
  generalize hs : updQueue _ q _ = s2
  have h2 : queueAt s2 q = some { Q with
      cpls := Q.cpls + 1, committed := r.seq, running := if Q.earlierRuns.isEmpty then none else Q.running,
      earlierRuns := Q.earlierRuns.drop 1 } := by
    rw [← hs, queueAt_updQueue, if_pos rfl, putCompletion_queue _ q r 0 Q (by rw [queueAt_trace]; exact hq)]
    rfl
  obtain ⟨f, w, hf⟩ := holdQueue_queue s2 q q
  rw [h2] at hf
  have hf' := (queueAt_releaseHeld (holdQueue s2 q) q).trans hf
  refine ⟨_, _, rfl, hf', rfl, rfl, ?_⟩
  show (Queue.runs { Q with running := if Q.earlierRuns.isEmpty then none else Q.running, earlierRuns := Q.earlierRuns.drop 1 }) = l
  revert hr
  unfold Queue.runs
  cases Q.earlierRuns with
  | nil => cases Q.running <;> simp
  | cons a t => intro hr; simp at hr ⊢; exact hr.2

/-- What the commit of RUNs leaves of a queue: its commands, and COMMITTED as it was or at one of its RUNs. -/
theorem commitRuns_queue (q n : Nat) : ∀ (s : State) (Q : Queue), queueAt s q = some Q →
    ∃ Q', queueAt (commitRuns n s q) q = some Q' ∧ Q'.cmds = Q.cmds
      ∧ (Q'.committed = Q.committed ∨ ∃ r ∈ Q.runs, Q'.committed = r.seq) := by
  induction n with
  | zero => exact fun s Q hq => ⟨Q, hq, rfl, .inl rfl⟩
  | succ n ih =>
    intro s Q hq
    cases hr : Q.runs with
    | nil =>
      refine ⟨Q, ?_, rfl, .inl rfl⟩
      unfold commitRuns
      rw [hq]
      dsimp only
      rw [hr]
      exact hq
    | cons r l =>
      by_cases he : runEnded Q r = true
      · obtain ⟨s', Q', e, hq', hc, hs, hl⟩ := commitRuns_step s q n Q r l hq hr he
        obtain ⟨P, hP, hPc, hPs⟩ := ih s' Q' hq'
        rw [e]
        refine ⟨P, hP, hPc.trans hc, .inr ?_⟩
        rcases hPs with h | ⟨x, hx, h⟩
        · exact ⟨r, by simp, h.trans hs⟩
        · exact ⟨x, by rw [hl] at hx; simp [hx], h⟩
      · refine ⟨Q, ?_, rfl, .inl rfl⟩
        unfold commitRuns
        rw [hq]
        dsimp only
        rw [hr]
        simpa [he] using hq

/-- Same commands, same RUNs, same windows: what the parts of a commit leave of a queue. -/
structure QueueCmds (t : State) (q : Nat) (P : Queue) : Prop where
  intro ::
  same : ∃ Q, queueAt t q = some Q ∧ Q.cmds = P.cmds ∧ Q.running = P.running ∧ Q.earlierRuns = P.earlierRuns
    ∧ Q.window = P.window ∧ Q.laterWindows = P.laterWindows ∧ Q.stopped = P.stopped

theorem QueueCmds.of_queues (s t : State) (q : Nat) (P : Queue) (h : QueueCmds s q P) (e : t.queues = s.queues) :
    QueueCmds t q P := by
  obtain ⟨Q, hq, h⟩ := h.same
  exact ⟨Q, (queueAt_of_queues s t q e).trans hq, h⟩

theorem QueueCmds.logSweep (s : State) (q : Nat) (P : Queue) (x : SweepRec) (h : QueueCmds s q P) :
    QueueCmds (logSweep s q x) q P := by
  obtain ⟨Q, hq, h⟩ := h.same
  unfold Machine.logSweep
  rw [hq]
  dsimp only
  have h' : QueueCmds (updQueue s q fun Q => { Q with windowSweeps := Q.windowSweeps + 1 }) q P :=
    ⟨{ Q with windowSweeps := Q.windowSweeps + 1 }, by rw [queueAt_updQueue, if_pos rfl, hq]; rfl, h⟩
  split
  · exact h'
  · exact h'.of_queues _ _ _ _ rfl

theorem QueueCmds.putCompletion (s : State) (q : Nat) (P : Queue) (c : Cmd) (st : Status) (h : QueueCmds s q P) :
    QueueCmds (putCompletion s q c st) q P := by
  obtain ⟨Q, hq, h⟩ := h.same
  exact ⟨{ Q with cpls := Q.cpls + 1 }, putCompletion_queue s q c st Q hq, h⟩

/-- Commit (R103): the command has left the queue and COMMITTED holds its SEQ; where a RUN of the queue ends with it, that of
a RUN. -/
theorem commitOne_committed (s : State) (q : Nat) (c : Cmd) (st : Status) (Q : Queue) (hq : queueAt s q = some Q) :
    Committed Q (commitOne s q c st) q c := by
  have h0 : QueueCmds s q Q := ⟨Q, hq, rfl, rfl, rfl, rfl, rfl, rfl⟩
  unfold commitOne
  extract_lets s1 s2 s3 s4 s5 s6 s7 s8 s9
  have h1 : QueueCmds s1 q Q := h0.of_queues _ _ _ _ (foldl_queues _ (fun s w => storeStaged_queues s w) _ _)
  have h2 : QueueCmds s2 q Q := h1.of_queues _ _ _ _ (by simp only [s2]; split <;> rfl)
  have h3 : QueueCmds s3 q Q := by
    simp only [s3]
    split
    · exact h2
    · exact h2.logSweep _ _ _ _
  have h4 : QueueCmds s4 q Q := h3.of_queues _ _ _ _ (by simp only [s4]; split <;> rfl)
  have h5 : QueueCmds s5 q Q := h4.of_queues _ _ _ _ (by simp only [s5]; split <;> rfl)
  have h6 : QueueCmds s6 q Q := h5.of_queues _ _ _ _ (trace_queues ..)
  have h7 : QueueCmds s7 q Q := by
    simp only [s7]
    split
    · exact h6.putCompletion _ _ _ _ _
    · exact h6
  have h8 : QueueCmds s8 q Q := h7.of_queues _ _ _ _ (tellRemote_queues ..)
  obtain ⟨P, hP, hc, hrun, hearlier, hw, hl, hstop⟩ := h8.same
  have h9 : queueAt (releaseHeld s9) q
      = some { P with committed := c.seq, cmds := (P.cmds.filter fun d => d.uid ≠ c.uid).map (passOn c) } := by
    rw [queueAt_releaseHeld]
    show queueAt (updQueue s8 q _) q = _
    rw [queueAt_updQueue, if_pos rfl, hP]
    rfl
  have gone : ∀ l : List Cmd, ((l.filter fun d => d.uid ≠ c.uid).map (passOn c)).find? (fun d => d.uid = c.uid) = none := by
    intro l
    rw [List.find?_eq_none]
    intro x hx
    obtain ⟨y, hy, rfl⟩ := List.mem_map.1 hx
    exact fun e => of_decide_eq_true (List.mem_filter.1 hy).2 (of_decide_eq_true e)
  obtain ⟨P1, hP1⟩ : ∃ x : Queue, x = { P with committed := c.seq, cmds := (P.cmds.filter fun d : Cmd => d.uid ≠ c.uid).map (passOn c) } :=
    ⟨_, rfl⟩
  rw [← hP1] at h9
  have hruns : P1.runs = Q.runs := by subst hP1; simp [Queue.runs, hrun, hearlier]
  have hcmds : P1.cmds = (P.cmds.filter fun d => d.uid ≠ c.uid).map (passOn c) := by subst hP1; rfl
  have hseq : P1.committed = c.seq := by subst hP1; rfl
  have hended : ∀ r, runEnded P1 r = runEnded (without Q c.uid) r := by
    intro r
    have key : ∀ (p : Cmd → Bool), (∀ d, p (passOn c d) = p d) → ∀ l : List Cmd, (l.map (passOn c)).any p = l.any p := by
      intro p hp l
      simp [List.any_map, Function.comp_def, hp]
    rw [hP1]
    unfold runEnded inWindow windowOf without
    simp only [hstop, hc, hw, hl]
    rw [key (fun d => (d.stream.isSome && d.run = r.uid) || d.uid < r.uid) fun d => rfl]
    have hcommit : ∀ n : Nat, (((Q.cmds.filter fun d => d.uid ≠ c.uid).map (passOn c)).any fun d => d.op = 6 && n ≤ d.uid && d.uid ≤ r.uid)
        = (Q.cmds.filter fun d => d.uid ≠ c.uid).any fun d => d.op = 6 && n ≤ d.uid && d.uid ≤ r.uid :=
      fun n => key (fun d => d.op = 6 && n ≤ d.uid && d.uid ≤ r.uid) (fun d => rfl) _
    simp only [hcommit]
  have hgone : ∀ P' : Queue, P'.cmds = P1.cmds → cmdAt P' c.uid = none := by
    intro P' e
    unfold cmdAt
    rw [e, hcmds]
    exact gone _
  by_cases hr : RunGoesOn Q c
  · rw [commitRun_of_running _ _ _ h9]
    · exact ⟨P1, h9, hgone _ rfl, fun _ => hseq, fun h => absurd hr h⟩
    · cases hl' : P1.runs with
      | nil => exact Or.inl rfl
      | cons r t =>
        refine Or.inr ⟨r, t, rfl, ?_⟩
        have hq' : Q.runs = r :: t := hruns ▸ hl'
        rw [hended]
        simpa [RunGoesOn, hq'] using hr
  · cases hl' : Q.runs with
    | nil => exact absurd (by simp [RunGoesOn, hl']) hr
    | cons r t =>
      have he : runEnded P1 r = true := by
        rw [hended]
        cases h : runEnded (without Q c.uid) r with
        | true => rfl
        | false => exact absurd (by simp [RunGoesOn, hl', h]) hr
      obtain ⟨s', Q', e, hq', hc', hs', hr'⟩ := commitRuns_step _ q t.length P1 r t h9 (hruns.trans hl') he
      obtain ⟨P', hP', hPc, hPs⟩ := commitRuns_queue q t.length s' Q' hq'
      have e' : commitRun (releaseHeld s9) q = commitRuns t.length s' q := by
        unfold commitRun
        rw [h9]
        dsimp only
        rw [hruns, hl']
        exact e
      rw [e']
      refine ⟨P', hP', hgone _ (hPc.trans hc'), fun h => absurd h hr, fun _ => ?_⟩
      rw [hr'] at hPs
      rcases hPs with h | ⟨x, hx, h⟩
      · exact ⟨r, hl' ▸ List.mem_cons_self, h.trans hs'⟩
      · exact ⟨x, hl' ▸ List.mem_cons_of_mem _ hx, h⟩

end Sys2Proof.Machine
end

