-- ==== Sys2Proof/Laws/PerInstr.lean ====
section
/-! SUPPORT. What well-formedness says of each command: the queue, the core and the function that it names exist. -/

namespace Sys2Proof.Laws

open Sys2Proof

/-- The queue that a command names. -/
def WellFormed.queueNo (i : Instr) : Option Nat :=
  match i with
  | .array u | .vector u | .reedUpGradient u | .reedRankGradient u | .reedDownGradient u | .reedForwardPhaseOne u
  | .moveCopy u | .moveIntegerAdd u | .syncCounterAdd u | .syncCounterWait u | .syncEventSet u | .syncEventClear u
  | .syncEventWait u | .syncLockAcquire u | .syncLockRelease u | .syncBarrierArrive u | .syncLaunchAtCount u
  | .launchBeatReached u | .commit u | .sweep u | .yield u | .alloc u | .free u | .run u | .step u | .nop u
  | .ringCommandFetch u _ | .commandStart u | .commandCommit u | .kill u _ | .syncWaitBoundExpiry u
  | .destinationUnreachable u | .remoteAcknowledgement u => some u
  | _ => none

/-- The core that a command names. -/
def WellFormed.coreNo (i : Instr) : Option Nat :=
  match i with
  | .vadd u _ | .vsub u _ | .vmul u _ | .vfma u _ | .vmax u _ | .vmin u _ | .vabs u _ | .vneg u _ | .vdiv u _ | .vsqrt u _
  | .vrsqrt u _ | .vrcp u _ | .vexp u _ | .vexp2 u _ | .vln u _ | .vlog2 u _ | .vtanh u _ | .verf u _ | .vsig u _
  | .vcmp u _ | .vsel u _ | .vmov u _ | .vbcast u _ | .vlane u _ | .vld u _ | .vst u _ | .vld8 u _ | .vst8 u _ | .vred u _
  | .vcomb u _ | .vpass u _ | .vtag u _ | .vsend u _ | .vrecv u _ | .vrng u _ | .vdrop u _ | .vuni u _ | .sli u _
  | .slih u _ | .sadd u _ | .loop u _ | .endProgram u _ | .uadd u _ | .usub u _ | .umul u _ | .ufma u _ | .udiv u _
  | .usqrt u _ | .ursqrt u _ | .umax u _ | .umin u _ | .uabs u _ | .usel u _ | .uest u _ | .ured u _ | .umov u _
  | .mergeEntryArrival u _ | .tileRequestDone u _ | .coreZeroingDone u | .wakeRequest u | .rampEnd u | .idleGateExpiry u
  | .uncorrectableError u _ _ | .coreHeartbeatLoss u => some u
  | _ => none

/-- The function that a command names. -/
def WellFormed.fnNo (i : Instr) : Option Nat :=
  match i with
  | .doorbell u _ _ _ | .queueCreate u | .queueDestroy u | .queueReset u | .queueRestart u | .releaseQuarantine u
  | .jobSubmit u _ | .jobEnd u | .mailboxDoorbell u _ _ _ | .mbxPageWrite u _ _ | .mailboxResponseWrite u _ | .promote u
  | .evict u | .pin u | .unpin u | .keyRegistration u | .removeKey u | .register u _ | .relocate u _ | .remove u
  | .serveBind u _ | .trainBind u | .unbind u | .seal u | .baseLoad u _ | .baseReplace u _ | .baseReplaceAbort u
  | .vfQuotaWrite _ u _ _ | .vfPartitionWrite _ u _ | .functionReset u _ | .drainLimitExpiry u | .bar4Access u _ => some u
  | _ => none

/-- A well-formed command names a queue of the module, one of its 32 cores, and the PF or one of its 1,024 VFs. -/
def WellFormed.Statement (i : Instr) : Prop :=
  i.wf = true → (∀ q, queueNo i = some q → q < 8192) ∧ (∀ c, coreNo i = some c → c < 32) ∧ ∀ f, fnNo i = some f → f ≤ 1024

/-- A command that names a queue. -/
theorem WellFormed.ofQueue {i : Instr} {n : Nat} (hq : queueNo i = some n) (hc : coreNo i = none) (hf : fnNo i = none)
    (h : i.wf = true → n < 8192) : Statement i := by
  intro w
  exact ⟨by simpa [hq] using h w, by simp [hc], by simp [hf]⟩

/-- A command that names a core. -/
theorem WellFormed.ofCore {i : Instr} {n : Nat} (hq : queueNo i = none) (hc : coreNo i = some n) (hf : fnNo i = none)
    (h : i.wf = true → n < 32) : Statement i := by
  intro w
  exact ⟨by simp [hq], by simpa [hc] using h w, by simp [hf]⟩

/-- A command that names a function. -/
theorem WellFormed.ofFn {i : Instr} {n : Nat} (hq : queueNo i = none) (hc : coreNo i = none) (hf : fnNo i = some n)
    (h : i.wf = true → n ≤ 1024) : Statement i := by
  intro w
  exact ⟨by simp [hq], by simp [hc], by simpa [hf] using h w⟩

/-- A command that names none of the three. -/
theorem WellFormed.ofNone {i : Instr} (hq : queueNo i = none) (hc : coreNo i = none) (hf : fnNo i = none) : Statement i := by
  intro _
  exact ⟨by simp [hq], by simp [hc], by simp [hf]⟩

theorem WellFormed.array (q : Nat) : WellFormed.Statement (.array q) := WellFormed.ofQueue rfl rfl rfl of_decide_eq_true
theorem WellFormed.vector (q : Nat) : WellFormed.Statement (.vector q) := WellFormed.ofQueue rfl rfl rfl of_decide_eq_true
theorem WellFormed.reedUpGradient (q : Nat) : WellFormed.Statement (.reedUpGradient q) :=
  WellFormed.ofQueue rfl rfl rfl of_decide_eq_true
theorem WellFormed.reedRankGradient (q : Nat) : WellFormed.Statement (.reedRankGradient q) :=
  WellFormed.ofQueue rfl rfl rfl of_decide_eq_true
theorem WellFormed.reedDownGradient (q : Nat) : WellFormed.Statement (.reedDownGradient q) :=
  WellFormed.ofQueue rfl rfl rfl of_decide_eq_true
theorem WellFormed.reedForwardPhaseOne (q : Nat) : WellFormed.Statement (.reedForwardPhaseOne q) :=
  WellFormed.ofQueue rfl rfl rfl of_decide_eq_true
theorem WellFormed.moveCopy (q : Nat) : WellFormed.Statement (.moveCopy q) :=
  WellFormed.ofQueue rfl rfl rfl of_decide_eq_true
theorem WellFormed.moveIntegerAdd (q : Nat) : WellFormed.Statement (.moveIntegerAdd q) :=
  WellFormed.ofQueue rfl rfl rfl of_decide_eq_true
theorem WellFormed.syncCounterAdd (q : Nat) : WellFormed.Statement (.syncCounterAdd q) :=
  WellFormed.ofQueue rfl rfl rfl of_decide_eq_true
theorem WellFormed.syncCounterWait (q : Nat) : WellFormed.Statement (.syncCounterWait q) :=
  WellFormed.ofQueue rfl rfl rfl of_decide_eq_true
theorem WellFormed.syncEventSet (q : Nat) : WellFormed.Statement (.syncEventSet q) :=
  WellFormed.ofQueue rfl rfl rfl of_decide_eq_true
theorem WellFormed.syncEventClear (q : Nat) : WellFormed.Statement (.syncEventClear q) :=
  WellFormed.ofQueue rfl rfl rfl of_decide_eq_true
theorem WellFormed.syncEventWait (q : Nat) : WellFormed.Statement (.syncEventWait q) :=
  WellFormed.ofQueue rfl rfl rfl of_decide_eq_true
theorem WellFormed.syncLockAcquire (q : Nat) : WellFormed.Statement (.syncLockAcquire q) :=
  WellFormed.ofQueue rfl rfl rfl of_decide_eq_true
theorem WellFormed.syncLockRelease (q : Nat) : WellFormed.Statement (.syncLockRelease q) :=
  WellFormed.ofQueue rfl rfl rfl of_decide_eq_true
theorem WellFormed.syncBarrierArrive (q : Nat) : WellFormed.Statement (.syncBarrierArrive q) :=
  WellFormed.ofQueue rfl rfl rfl of_decide_eq_true
theorem WellFormed.syncLaunchAtCount (q : Nat) : WellFormed.Statement (.syncLaunchAtCount q) :=
  WellFormed.ofQueue rfl rfl rfl of_decide_eq_true
theorem WellFormed.launchBeatReached (q : Nat) : WellFormed.Statement (.launchBeatReached q) :=
  WellFormed.ofQueue rfl rfl rfl of_decide_eq_true
theorem WellFormed.commit (q : Nat) : WellFormed.Statement (.commit q) := WellFormed.ofQueue rfl rfl rfl of_decide_eq_true
theorem WellFormed.sweep (q : Nat) : WellFormed.Statement (.sweep q) := WellFormed.ofQueue rfl rfl rfl of_decide_eq_true
theorem WellFormed.yield (q : Nat) : WellFormed.Statement (.yield q) := WellFormed.ofQueue rfl rfl rfl of_decide_eq_true
theorem WellFormed.alloc (q : Nat) : WellFormed.Statement (.alloc q) := WellFormed.ofQueue rfl rfl rfl of_decide_eq_true
theorem WellFormed.free (q : Nat) : WellFormed.Statement (.free q) := WellFormed.ofQueue rfl rfl rfl of_decide_eq_true
theorem WellFormed.run (q : Nat) : WellFormed.Statement (.run q) := WellFormed.ofQueue rfl rfl rfl of_decide_eq_true
theorem WellFormed.step (q : Nat) : WellFormed.Statement (.step q) := WellFormed.ofQueue rfl rfl rfl of_decide_eq_true
theorem WellFormed.nop (q : Nat) : WellFormed.Statement (.nop q) := WellFormed.ofQueue rfl rfl rfl of_decide_eq_true
theorem WellFormed.vadd (core : Nat) (a : VArgs) : WellFormed.Statement (.vadd core a) :=
  WellFormed.ofCore rfl rfl rfl of_decide_eq_true
theorem WellFormed.vsub (core : Nat) (a : VArgs) : WellFormed.Statement (.vsub core a) :=
  WellFormed.ofCore rfl rfl rfl of_decide_eq_true
theorem WellFormed.vmul (core : Nat) (a : VArgs) : WellFormed.Statement (.vmul core a) :=
  WellFormed.ofCore rfl rfl rfl of_decide_eq_true
theorem WellFormed.vfma (core : Nat) (a : VArgs) : WellFormed.Statement (.vfma core a) :=
  WellFormed.ofCore rfl rfl rfl of_decide_eq_true
theorem WellFormed.vmax (core : Nat) (a : VArgs) : WellFormed.Statement (.vmax core a) :=
  WellFormed.ofCore rfl rfl rfl of_decide_eq_true
theorem WellFormed.vmin (core : Nat) (a : VArgs) : WellFormed.Statement (.vmin core a) :=
  WellFormed.ofCore rfl rfl rfl of_decide_eq_true
theorem WellFormed.vabs (core : Nat) (a : VArgs) : WellFormed.Statement (.vabs core a) :=
  WellFormed.ofCore rfl rfl rfl of_decide_eq_true
theorem WellFormed.vneg (core : Nat) (a : VArgs) : WellFormed.Statement (.vneg core a) :=
  WellFormed.ofCore rfl rfl rfl of_decide_eq_true
theorem WellFormed.vdiv (core : Nat) (a : VArgs) : WellFormed.Statement (.vdiv core a) :=
  WellFormed.ofCore rfl rfl rfl of_decide_eq_true
theorem WellFormed.vsqrt (core : Nat) (a : VArgs) : WellFormed.Statement (.vsqrt core a) :=
  WellFormed.ofCore rfl rfl rfl of_decide_eq_true
theorem WellFormed.vrsqrt (core : Nat) (a : VArgs) : WellFormed.Statement (.vrsqrt core a) :=
  WellFormed.ofCore rfl rfl rfl of_decide_eq_true
theorem WellFormed.vrcp (core : Nat) (a : VArgs) : WellFormed.Statement (.vrcp core a) :=
  WellFormed.ofCore rfl rfl rfl of_decide_eq_true
theorem WellFormed.vexp (core : Nat) (a : VArgs) : WellFormed.Statement (.vexp core a) :=
  WellFormed.ofCore rfl rfl rfl of_decide_eq_true
theorem WellFormed.vexp2 (core : Nat) (a : VArgs) : WellFormed.Statement (.vexp2 core a) :=
  WellFormed.ofCore rfl rfl rfl of_decide_eq_true
theorem WellFormed.vln (core : Nat) (a : VArgs) : WellFormed.Statement (.vln core a) :=
  WellFormed.ofCore rfl rfl rfl of_decide_eq_true
theorem WellFormed.vlog2 (core : Nat) (a : VArgs) : WellFormed.Statement (.vlog2 core a) :=
  WellFormed.ofCore rfl rfl rfl of_decide_eq_true
theorem WellFormed.vtanh (core : Nat) (a : VArgs) : WellFormed.Statement (.vtanh core a) :=
  WellFormed.ofCore rfl rfl rfl of_decide_eq_true
theorem WellFormed.verf (core : Nat) (a : VArgs) : WellFormed.Statement (.verf core a) :=
  WellFormed.ofCore rfl rfl rfl of_decide_eq_true
theorem WellFormed.vsig (core : Nat) (a : VArgs) : WellFormed.Statement (.vsig core a) :=
  WellFormed.ofCore rfl rfl rfl of_decide_eq_true
theorem WellFormed.vcmp (core : Nat) (a : VArgs) : WellFormed.Statement (.vcmp core a) :=
  WellFormed.ofCore rfl rfl rfl of_decide_eq_true
theorem WellFormed.vsel (core : Nat) (a : VArgs) : WellFormed.Statement (.vsel core a) :=
  WellFormed.ofCore rfl rfl rfl of_decide_eq_true
theorem WellFormed.vmov (core : Nat) (a : VArgs) : WellFormed.Statement (.vmov core a) :=
  WellFormed.ofCore rfl rfl rfl of_decide_eq_true
theorem WellFormed.vbcast (core : Nat) (a : VArgs) : WellFormed.Statement (.vbcast core a) :=
  WellFormed.ofCore rfl rfl rfl of_decide_eq_true
theorem WellFormed.vlane (core : Nat) (a : VArgs) : WellFormed.Statement (.vlane core a) :=
  WellFormed.ofCore rfl rfl rfl of_decide_eq_true
theorem WellFormed.vld (core : Nat) (a : VArgs) : WellFormed.Statement (.vld core a) :=
  WellFormed.ofCore rfl rfl rfl of_decide_eq_true
theorem WellFormed.vst (core : Nat) (a : VArgs) : WellFormed.Statement (.vst core a) :=
  WellFormed.ofCore rfl rfl rfl of_decide_eq_true
theorem WellFormed.vld8 (core : Nat) (a : VArgs) : WellFormed.Statement (.vld8 core a) :=
  WellFormed.ofCore rfl rfl rfl of_decide_eq_true
theorem WellFormed.vst8 (core : Nat) (a : VArgs) : WellFormed.Statement (.vst8 core a) :=
  WellFormed.ofCore rfl rfl rfl of_decide_eq_true
theorem WellFormed.vred (core : Nat) (a : VArgs) : WellFormed.Statement (.vred core a) :=
  WellFormed.ofCore rfl rfl rfl of_decide_eq_true
theorem WellFormed.vcomb (core : Nat) (a : VArgs) : WellFormed.Statement (.vcomb core a) :=
  WellFormed.ofCore rfl rfl rfl of_decide_eq_true
theorem WellFormed.vpass (core : Nat) (a : VArgs) : WellFormed.Statement (.vpass core a) :=
  WellFormed.ofCore rfl rfl rfl of_decide_eq_true
theorem WellFormed.vtag (core : Nat) (a : VArgs) : WellFormed.Statement (.vtag core a) :=
  WellFormed.ofCore rfl rfl rfl of_decide_eq_true
theorem WellFormed.vsend (core : Nat) (a : VArgs) : WellFormed.Statement (.vsend core a) :=
  WellFormed.ofCore rfl rfl rfl of_decide_eq_true
theorem WellFormed.vrecv (core : Nat) (a : VArgs) : WellFormed.Statement (.vrecv core a) :=
  WellFormed.ofCore rfl rfl rfl of_decide_eq_true
theorem WellFormed.vrng (core : Nat) (a : VArgs) : WellFormed.Statement (.vrng core a) :=
  WellFormed.ofCore rfl rfl rfl of_decide_eq_true
theorem WellFormed.vdrop (core : Nat) (a : VArgs) : WellFormed.Statement (.vdrop core a) :=
  WellFormed.ofCore rfl rfl rfl of_decide_eq_true
theorem WellFormed.vuni (core : Nat) (a : VArgs) : WellFormed.Statement (.vuni core a) :=
  WellFormed.ofCore rfl rfl rfl of_decide_eq_true
theorem WellFormed.sli (core : Nat) (a : VArgs) : WellFormed.Statement (.sli core a) :=
  WellFormed.ofCore rfl rfl rfl of_decide_eq_true
theorem WellFormed.slih (core : Nat) (a : VArgs) : WellFormed.Statement (.slih core a) :=
  WellFormed.ofCore rfl rfl rfl of_decide_eq_true
theorem WellFormed.sadd (core : Nat) (a : VArgs) : WellFormed.Statement (.sadd core a) :=
  WellFormed.ofCore rfl rfl rfl of_decide_eq_true
theorem WellFormed.loop (core : Nat) (a : VArgs) : WellFormed.Statement (.loop core a) :=
  WellFormed.ofCore rfl rfl rfl of_decide_eq_true
theorem WellFormed.endProgram (core : Nat) (a : VArgs) : WellFormed.Statement (.endProgram core a) :=
  WellFormed.ofCore rfl rfl rfl of_decide_eq_true
theorem WellFormed.uadd (core : Nat) (a : UArgs) : WellFormed.Statement (.uadd core a) :=
  WellFormed.ofCore rfl rfl rfl of_decide_eq_true
theorem WellFormed.usub (core : Nat) (a : UArgs) : WellFormed.Statement (.usub core a) :=
  WellFormed.ofCore rfl rfl rfl of_decide_eq_true
theorem WellFormed.umul (core : Nat) (a : UArgs) : WellFormed.Statement (.umul core a) :=
  WellFormed.ofCore rfl rfl rfl of_decide_eq_true
theorem WellFormed.ufma (core : Nat) (a : UArgs) : WellFormed.Statement (.ufma core a) :=
  WellFormed.ofCore rfl rfl rfl of_decide_eq_true
theorem WellFormed.udiv (core : Nat) (a : UArgs) : WellFormed.Statement (.udiv core a) :=
  WellFormed.ofCore rfl rfl rfl of_decide_eq_true
theorem WellFormed.usqrt (core : Nat) (a : UArgs) : WellFormed.Statement (.usqrt core a) :=
  WellFormed.ofCore rfl rfl rfl of_decide_eq_true
theorem WellFormed.ursqrt (core : Nat) (a : UArgs) : WellFormed.Statement (.ursqrt core a) :=
  WellFormed.ofCore rfl rfl rfl of_decide_eq_true
theorem WellFormed.umax (core : Nat) (a : UArgs) : WellFormed.Statement (.umax core a) :=
  WellFormed.ofCore rfl rfl rfl of_decide_eq_true
theorem WellFormed.umin (core : Nat) (a : UArgs) : WellFormed.Statement (.umin core a) :=
  WellFormed.ofCore rfl rfl rfl of_decide_eq_true
theorem WellFormed.uabs (core : Nat) (a : UArgs) : WellFormed.Statement (.uabs core a) :=
  WellFormed.ofCore rfl rfl rfl of_decide_eq_true
theorem WellFormed.usel (core : Nat) (a : UArgs) : WellFormed.Statement (.usel core a) :=
  WellFormed.ofCore rfl rfl rfl of_decide_eq_true
theorem WellFormed.uest (core : Nat) (a : UArgs) : WellFormed.Statement (.uest core a) :=
  WellFormed.ofCore rfl rfl rfl of_decide_eq_true
theorem WellFormed.ured (core : Nat) (a : UArgs) : WellFormed.Statement (.ured core a) :=
  WellFormed.ofCore rfl rfl rfl of_decide_eq_true
theorem WellFormed.umov (core : Nat) (a : UArgs) : WellFormed.Statement (.umov core a) :=
  WellFormed.ofCore rfl rfl rfl of_decide_eq_true
theorem WellFormed.ringCommandFetch (q : Nat) (records : List Byte) : WellFormed.Statement (.ringCommandFetch q records) :=
  WellFormed.ofQueue rfl rfl rfl of_decide_eq_true
theorem WellFormed.commandStart (q : Nat) : WellFormed.Statement (.commandStart q) :=
  WellFormed.ofQueue rfl rfl rfl of_decide_eq_true
theorem WellFormed.commandCommit (q : Nat) : WellFormed.Statement (.commandCommit q) :=
  WellFormed.ofQueue rfl rfl rfl of_decide_eq_true
theorem WellFormed.kill (q : Nat) (kind : KillKind) : WellFormed.Statement (.kill q kind) :=
  WellFormed.ofQueue rfl rfl rfl of_decide_eq_true
theorem WellFormed.mergeEntryArrival (core : Nat) (column : Nat) : WellFormed.Statement (.mergeEntryArrival core column) :=
  WellFormed.ofCore rfl rfl rfl fun h => of_decide_eq_true (Bool.and_eq_true_iff.mp h).1
theorem WellFormed.tileRequestDone (core mover : Nat) : WellFormed.Statement (.tileRequestDone core mover) :=
  WellFormed.ofCore rfl rfl rfl fun h => of_decide_eq_true (Bool.and_eq_true_iff.mp h).1
theorem WellFormed.partialArrival (engine : Nat) (tag : W64) (lanes : List W64) (sender : Option Nat) : WellFormed.Statement (.partialArrival engine tag lanes sender) :=
  WellFormed.ofNone rfl rfl rfl
theorem WellFormed.rootDelivery (engine redId : Nat) : WellFormed.Statement (.rootDelivery engine redId) :=
  WellFormed.ofNone rfl rfl rfl
theorem WellFormed.stepBoundary (job : Nat) (others : RemoteBoundary) : WellFormed.Statement (.stepBoundary job others) :=
  WellFormed.ofNone rfl rfl rfl
theorem WellFormed.stepBarrierBoundExpiry (job : Nat) : WellFormed.Statement (.stepBarrierBoundExpiry job) :=
  WellFormed.ofNone rfl rfl rfl
theorem WellFormed.syncWaitBoundExpiry (q : Nat) : WellFormed.Statement (.syncWaitBoundExpiry q) :=
  WellFormed.ofQueue rfl rfl rfl of_decide_eq_true
theorem WellFormed.barrierTokenArrival (object : Nat) (token : BarrierToken) : WellFormed.Statement (.barrierTokenArrival object token) :=
  WellFormed.ofNone rfl rfl rfl
theorem WellFormed.doorbell (fn page : Nat) (word : W64) (wellSized : Bool) : WellFormed.Statement (.doorbell fn page word wellSized) :=
  WellFormed.ofFn rfl rfl rfl fun h => of_decide_eq_true (Bool.and_eq_true_iff.mp h).1
theorem WellFormed.queueCreate (fn : Nat) : WellFormed.Statement (.queueCreate fn) :=
  WellFormed.ofFn rfl rfl rfl of_decide_eq_true
theorem WellFormed.queueDestroy (fn : Nat) : WellFormed.Statement (.queueDestroy fn) :=
  WellFormed.ofFn rfl rfl rfl of_decide_eq_true
theorem WellFormed.queueReset (fn : Nat) : WellFormed.Statement (.queueReset fn) :=
  WellFormed.ofFn rfl rfl rfl of_decide_eq_true
theorem WellFormed.queueRestart (fn : Nat) : WellFormed.Statement (.queueRestart fn) :=
  WellFormed.ofFn rfl rfl rfl of_decide_eq_true
theorem WellFormed.releaseQuarantine (fn : Nat) : WellFormed.Statement (.releaseQuarantine fn) :=
  WellFormed.ofFn rfl rfl rfl of_decide_eq_true
theorem WellFormed.jobSubmit (fn : Nat) (container : List Byte) : WellFormed.Statement (.jobSubmit fn container) :=
  WellFormed.ofFn rfl rfl rfl of_decide_eq_true
theorem WellFormed.jobEnd (fn : Nat) : WellFormed.Statement (.jobEnd fn) := WellFormed.ofFn rfl rfl rfl of_decide_eq_true
theorem WellFormed.coreGrant (job : Nat) : WellFormed.Statement (.coreGrant job) := WellFormed.ofNone rfl rfl rfl
theorem WellFormed.preEmption (job : Nat) : WellFormed.Statement (.preEmption job) := WellFormed.ofNone rfl rfl rfl
theorem WellFormed.yieldWaitBoundExpiry (job : Nat) : WellFormed.Statement (.yieldWaitBoundExpiry job) :=
  WellFormed.ofNone rfl rfl rfl
theorem WellFormed.saveDone (job : Nat) : WellFormed.Statement (.saveDone job) := WellFormed.ofNone rfl rfl rfl
theorem WellFormed.coreZeroingDone (core : Nat) : WellFormed.Statement (.coreZeroingDone core) :=
  WellFormed.ofCore rfl rfl rfl of_decide_eq_true
theorem WellFormed.mailboxDoorbell (fn : Nat) (word : W64) (wellSized : Bool) (message : List Byte) : WellFormed.Statement (.mailboxDoorbell fn word wellSized message) :=
  WellFormed.ofFn rfl rfl rfl of_decide_eq_true
theorem WellFormed.mbxPageWrite (fn : Nat) (page : W64) (vector : BitVec 6) : WellFormed.Statement (.mbxPageWrite fn page vector) :=
  WellFormed.ofFn rfl rfl rfl of_decide_eq_true
theorem WellFormed.mailboxResponseWrite (fn : Nat) (respRead : BitVec 32) : WellFormed.Statement (.mailboxResponseWrite fn respRead) :=
  WellFormed.ofFn rfl rfl rfl of_decide_eq_true
theorem WellFormed.promote (fn : Nat) : WellFormed.Statement (.promote fn) := WellFormed.ofFn rfl rfl rfl of_decide_eq_true
theorem WellFormed.evict (fn : Nat) : WellFormed.Statement (.evict fn) := WellFormed.ofFn rfl rfl rfl of_decide_eq_true
theorem WellFormed.pin (fn : Nat) : WellFormed.Statement (.pin fn) := WellFormed.ofFn rfl rfl rfl of_decide_eq_true
theorem WellFormed.unpin (fn : Nat) : WellFormed.Statement (.unpin fn) := WellFormed.ofFn rfl rfl rfl of_decide_eq_true
theorem WellFormed.promoteCopyDone (part index : Nat) : WellFormed.Statement (.promoteCopyDone part index) :=
  WellFormed.ofNone rfl rfl rfl
theorem WellFormed.writeBackStart (part index : Nat) : WellFormed.Statement (.writeBackStart part index) :=
  WellFormed.ofNone rfl rfl rfl
theorem WellFormed.writeBackDone (part index : Nat) : WellFormed.Statement (.writeBackDone part index) :=
  WellFormed.ofNone rfl rfl rfl
theorem WellFormed.keyRegistration (fn : Nat) : WellFormed.Statement (.keyRegistration fn) :=
  WellFormed.ofFn rfl rfl rfl of_decide_eq_true
theorem WellFormed.removeKey (fn : Nat) : WellFormed.Statement (.removeKey fn) :=
  WellFormed.ofFn rfl rfl rfl of_decide_eq_true
theorem WellFormed.register (fn : Nat) (image : List Byte) : WellFormed.Statement (.register fn image) :=
  WellFormed.ofFn rfl rfl rfl of_decide_eq_true
theorem WellFormed.relocate (fn : Nat) (image : List Byte) : WellFormed.Statement (.relocate fn image) :=
  WellFormed.ofFn rfl rfl rfl of_decide_eq_true
theorem WellFormed.remove (fn : Nat) : WellFormed.Statement (.remove fn) := WellFormed.ofFn rfl rfl rfl of_decide_eq_true
theorem WellFormed.serveBind (fn : Nat) (image : List Byte) : WellFormed.Statement (.serveBind fn image) :=
  WellFormed.ofFn rfl rfl rfl of_decide_eq_true
theorem WellFormed.serveBindComplete (ctx : Nat) (blob : List Byte) (readOk : Bool) : WellFormed.Statement (.serveBindComplete ctx blob readOk) :=
  WellFormed.ofNone rfl rfl rfl
theorem WellFormed.trainBind (fn : Nat) : WellFormed.Statement (.trainBind fn) :=
  WellFormed.ofFn rfl rfl rfl of_decide_eq_true
theorem WellFormed.unbind (fn : Nat) : WellFormed.Statement (.unbind fn) := WellFormed.ofFn rfl rfl rfl of_decide_eq_true
theorem WellFormed.unbindComplete (ctx : Nat) : WellFormed.Statement (.unbindComplete ctx) := WellFormed.ofNone rfl rfl rfl
theorem WellFormed.seal (fn : Nat) : WellFormed.Statement (.seal fn) := WellFormed.ofFn rfl rfl rfl of_decide_eq_true
theorem WellFormed.baseLoad (fn : Nat) (head : List Byte) : WellFormed.Statement (.baseLoad fn head) :=
  WellFormed.ofFn rfl rfl rfl of_decide_eq_true
theorem WellFormed.baseReplace (fn : Nat) (head : List Byte) : WellFormed.Statement (.baseReplace fn head) :=
  WellFormed.ofFn rfl rfl rfl of_decide_eq_true
theorem WellFormed.baseReplaceAbort (fn : Nat) : WellFormed.Statement (.baseReplaceAbort fn) :=
  WellFormed.ofFn rfl rfl rfl of_decide_eq_true
theorem WellFormed.layerSwap (part : Nat) : WellFormed.Statement (.layerSwap part) := WellFormed.ofNone rfl rfl rfl
theorem WellFormed.finalSwapBarrier (part : Nat) : WellFormed.Statement (.finalSwapBarrier part) :=
  WellFormed.ofNone rfl rfl rfl
theorem WellFormed.baseTileMulticast (part tensor tile : Nat) (data : List Byte) : WellFormed.Statement (.baseTileMulticast part tensor tile data) :=
  WellFormed.ofNone rfl rfl rfl
theorem WellFormed.get (who : Requester) (message : List Byte) : WellFormed.Statement (.get who message) :=
  WellFormed.ofNone rfl rfl rfl
theorem WellFormed.set (who : Requester) (message : List Byte) : WellFormed.Statement (.set who message) :=
  WellFormed.ofNone rfl rfl rfl
theorem WellFormed.info (who : Requester) (message : List Byte) : WellFormed.Statement (.info who message) :=
  WellFormed.ofNone rfl rfl rfl
theorem WellFormed.next (who : Requester) (message : List Byte) : WellFormed.Statement (.next who message) :=
  WellFormed.ofNone rfl rfl rfl
theorem WellFormed.subscribe (who : Requester) (message : List Byte) : WellFormed.Statement (.subscribe who message) :=
  WellFormed.ofNone rfl rfl rfl
theorem WellFormed.snapshot (who : Requester) (message : List Byte) : WellFormed.Statement (.snapshot who message) :=
  WellFormed.ofNone rfl rfl rfl
theorem WellFormed.alarmNotifyRepeat (slot : Nat) : WellFormed.Statement (.alarmNotifyRepeat slot) :=
  WellFormed.ofNone rfl rfl rfl
theorem WellFormed.stagedValueTimeout (who : Requester) : WellFormed.Statement (.stagedValueTimeout who) :=
  WellFormed.ofNone rfl rfl rfl
theorem WellFormed.dictionaryWrite (role : Role) (index sub : Nat) (value : DVal) : WellFormed.Statement (.dictionaryWrite role index sub value) :=
  WellFormed.ofNone rfl rfl rfl
theorem WellFormed.mapWrite (role : Role) (part : Nat) (pairs : Bool) (value : Nat) : WellFormed.Statement (.mapWrite role part pairs value) :=
  WellFormed.ofNone rfl rfl rfl
theorem WellFormed.vfQuotaWrite (role : Role) (vf : Nat) (capacity : Bool) (value : Nat) : WellFormed.Statement (.vfQuotaWrite role vf capacity value) :=
  WellFormed.ofFn rfl rfl rfl fun h => of_decide_eq_true (Bool.and_eq_true_iff.mp h).2
theorem WellFormed.vfPartitionWrite (role : Role) (vf : Nat) (value : Nat) : WellFormed.Statement (.vfPartitionWrite role vf value) :=
  WellFormed.ofFn rfl rfl rfl fun h => of_decide_eq_true (Bool.and_eq_true_iff.mp h).2
theorem WellFormed.poolWrite (role : Role) (part sub : Nat) (value : DVal) : WellFormed.Statement (.poolWrite role part sub value) :=
  WellFormed.ofNone rfl rfl rfl
theorem WellFormed.functionReset (vf : Nat) (byWrite : Option Role) : WellFormed.Statement (.functionReset vf byWrite) :=
  WellFormed.ofFn rfl rfl rfl fun h => of_decide_eq_true (Bool.and_eq_true_iff.mp h).2
theorem WellFormed.pfReset (byWrite : Option Role) : WellFormed.Statement (.pfReset byWrite) := WellFormed.ofNone rfl rfl rfl
theorem WellFormed.drainLimitExpiry (fn : Nat) : WellFormed.Statement (.drainLimitExpiry fn) :=
  WellFormed.ofFn rfl rfl rfl of_decide_eq_true
theorem WellFormed.epochFlush (role : Role) (part : Nat) : WellFormed.Statement (.epochFlush role part) :=
  WellFormed.ofNone rfl rfl rfl
theorem WellFormed.failoverRequest (role : Role) : WellFormed.Statement (.failoverRequest role) :=
  WellFormed.ofNone rfl rfl rfl
theorem WellFormed.eastLinkDownTimeout : WellFormed.Statement (.eastLinkDownTimeout) := WellFormed.ofNone rfl rfl rfl
theorem WellFormed.startRequestWarm (role : Role) (inHold : Bool) : WellFormed.Statement (.startRequestWarm role inHold) :=
  WellFormed.ofNone rfl rfl rfl
theorem WellFormed.startRequestCold (role : Role) (inHold : Bool) : WellFormed.Statement (.startRequestCold role inHold) :=
  WellFormed.ofNone rfl rfl rfl
theorem WellFormed.configurationCommit (role : Role) (value : List Byte) : WellFormed.Statement (.configurationCommit role value) :=
  WellFormed.ofNone rfl rfl rfl
theorem WellFormed.configurationWriteDone : WellFormed.Statement (.configurationWriteDone) := WellFormed.ofNone rfl rfl rfl
theorem WellFormed.stopChange (role : Role) (group stop : Nat) : WellFormed.Statement (.stopChange role group stop) :=
  WellFormed.ofNone rfl rfl rfl
theorem WellFormed.overlayWrite (role : Role) (stop : Nat) (value : List Byte) : WellFormed.Statement (.overlayWrite role stop value) :=
  WellFormed.ofNone rfl rfl rfl
theorem WellFormed.operatorKeyWrite (role : Role) (slot : Nat) (key : List Byte) : WellFormed.Statement (.operatorKeyWrite role slot key) :=
  WellFormed.ofNone rfl rfl rfl
theorem WellFormed.checkpointRequest (role : Role) : WellFormed.Statement (.checkpointRequest role) :=
  WellFormed.ofNone rfl rfl rfl
theorem WellFormed.auditExportWrite (role : Role) (value : Nat) : WellFormed.Statement (.auditExportWrite role value) :=
  WellFormed.ofNone rfl rfl rfl
theorem WellFormed.alarmAcknowledge (role : Role) (slot : Nat) : WellFormed.Statement (.alarmAcknowledge role slot) :=
  WellFormed.ofNone rfl rfl rfl
theorem WellFormed.alarmClear (role : Role) (slot : Nat) : WellFormed.Statement (.alarmClear role slot) :=
  WellFormed.ofNone rfl rfl rfl
theorem WellFormed.declareDead (role : Role) (cluster k : Nat) : WellFormed.Statement (.declareDead role cluster k) :=
  WellFormed.ofNone rfl rfl rfl
theorem WellFormed.gpioFunctionWrite (role : Role) (pin fn : Nat) : WellFormed.Statement (.gpioFunctionWrite role pin fn) :=
  WellFormed.ofNone rfl rfl rfl
theorem WellFormed.gpioParkEnd (pin : Nat) : WellFormed.Statement (.gpioParkEnd pin) := WellFormed.ofNone rfl rfl rfl
theorem WellFormed.bar4Access (fn : Nat) (op : Bar4Op) : WellFormed.Statement (.bar4Access fn op) :=
  WellFormed.ofFn rfl rfl rfl of_decide_eq_true
theorem WellFormed.getVersion : WellFormed.Statement (.getVersion) := WellFormed.ofNone rfl rfl rfl
theorem WellFormed.getCapabilities : WellFormed.Statement (.getCapabilities) := WellFormed.ofNone rfl rfl rfl
theorem WellFormed.negotiateAlgorithms (offer : SpdmOffer) : WellFormed.Statement (.negotiateAlgorithms offer) :=
  WellFormed.ofNone rfl rfl rfl
theorem WellFormed.getDigests : WellFormed.Statement (.getDigests) := WellFormed.ofNone rfl rfl rfl
theorem WellFormed.getCertificate (slot offset len : Nat) : WellFormed.Statement (.getCertificate slot offset len) :=
  WellFormed.ofNone rfl rfl rfl
theorem WellFormed.challenge (slot : Nat) (nonce : List Byte) : WellFormed.Statement (.challenge slot nonce) :=
  WellFormed.ofNone rfl rfl rfl
theorem WellFormed.getMeasurements (index : Nat) (nonce : List Byte) : WellFormed.Statement (.getMeasurements index nonce) :=
  WellFormed.ofNone rfl rfl rfl
theorem WellFormed.keyExchange (key : List Byte) (chainValid : Bool) : WellFormed.Statement (.keyExchange key chainValid) :=
  WellFormed.ofNone rfl rfl rfl
theorem WellFormed.finish (session : Nat) (proofValid : Bool) : WellFormed.Statement (.finish session proofValid) :=
  WellFormed.ofNone rfl rfl rfl
theorem WellFormed.endSession (session : Nat) : WellFormed.Statement (.endSession session) := WellFormed.ofNone rfl rfl rfl
theorem WellFormed.heartbeat (session : Nat) : WellFormed.Statement (.heartbeat session) := WellFormed.ofNone rfl rfl rfl
theorem WellFormed.keygen (hub : Hub) (src : EngineSource) : WellFormed.Statement (.keygen hub src) :=
  WellFormed.ofNone rfl rfl rfl
theorem WellFormed.sign (hub : Hub) (src : EngineSource) (d : Nat) (h : List Byte) : WellFormed.Statement (.sign hub src d h) :=
  WellFormed.ofNone rfl rfl rfl
theorem WellFormed.verify (hub : Hub) (src : EngineSource) (key : PubKey) (h : List Byte) (r s : Nat) : WellFormed.Statement (.verify hub src key h r s) :=
  WellFormed.ofNone rfl rfl rfl
theorem WellFormed.ecdh (hub : Hub) (src : EngineSource) (d : Nat) (key : PubKey) : WellFormed.Statement (.ecdh hub src d key) :=
  WellFormed.ofNone rfl rfl rfl
theorem WellFormed.validate (hub : Hub) (src : EngineSource) (key : PubKey) : WellFormed.Statement (.validate hub src key) :=
  WellFormed.ofNone rfl rfl rfl
theorem WellFormed.engineOperationDone (hub : Hub) : WellFormed.Statement (.engineOperationDone hub) :=
  WellFormed.ofNone rfl rfl rfl
theorem WellFormed.firmwareUpdate (hub : Hub) (image : FwImage) : WellFormed.Statement (.firmwareUpdate hub image) :=
  WellFormed.ofNone rfl rfl rfl
theorem WellFormed.coldStart (obs : StartObs) : WellFormed.Statement (.coldStart obs) := WellFormed.ofNone rfl rfl rfl
theorem WellFormed.warmStart (obs : StartObs) : WellFormed.Statement (.warmStart obs) := WellFormed.ofNone rfl rfl rfl
theorem WellFormed.startStepTimeout (step : Nat) : WellFormed.Statement (.startStepTimeout step) :=
  WellFormed.ofNone rfl rfl rfl
theorem WellFormed.pwrEnRise (refclkOk : Bool) : WellFormed.Statement (.pwrEnRise refclkOk) := WellFormed.ofNone rfl rfl rfl
theorem WellFormed.pwrEnFall : WellFormed.Statement (.pwrEnFall) := WellFormed.ofNone rfl rfl rfl
theorem WellFormed.aux12vApplied : WellFormed.Statement (.aux12vApplied) := WellFormed.ofNone rfl rfl rfl
theorem WellFormed.aux12vLow : WellFormed.Statement (.aux12vLow) := WellFormed.ofNone rfl rfl rfl
theorem WellFormed.main48vOutOfRange : WellFormed.Statement (.main48vOutOfRange) := WellFormed.ofNone rfl rfl rfl
theorem WellFormed.modrstAssert : WellFormed.Statement (.modrstAssert) := WellFormed.ofNone rfl rfl rfl
theorem WellFormed.refclkCheck (refclkOk : Bool) : WellFormed.Statement (.refclkCheck refclkOk) :=
  WellFormed.ofNone rfl rfl rfl
theorem WellFormed.beatSyncInEdge (highNs : Nat) : WellFormed.Statement (.beatSyncInEdge highNs) :=
  WellFormed.ofNone rfl rfl rfl
theorem WellFormed.beatSyncOutPulse : WellFormed.Statement (.beatSyncOutPulse) := WellFormed.ofNone rfl rfl rfl
theorem WellFormed.timeSyncExchange (stamps : Option (Nat × Nat × Nat × Nat)) : WellFormed.Statement (.timeSyncExchange stamps) :=
  WellFormed.ofNone rfl rfl rfl
theorem WellFormed.vcoreDroop (cluster : Nat) : WellFormed.Statement (.vcoreDroop cluster) := WellFormed.ofNone rfl rfl rfl
theorem WellFormed.droopThrottleEnd (cluster cycles : Nat) (persists : Bool) : WellFormed.Statement (.droopThrottleEnd cluster cycles persists) :=
  WellFormed.ofNone rfl rfl rfl
theorem WellFormed.brownOut (cluster : Nat) : WellFormed.Statement (.brownOut cluster) := WellFormed.ofNone rfl rfl rfl
theorem WellFormed.powerSample (watts : Nat) : WellFormed.Statement (.powerSample watts) := WellFormed.ofNone rfl rfl rfl
theorem WellFormed.powerStep (cluster : Nat) : WellFormed.Statement (.powerStep cluster) := WellFormed.ofNone rfl rfl rfl
theorem WellFormed.dieTemperatureHigh (die celsius : Nat) : WellFormed.Statement (.dieTemperatureHigh die celsius) :=
  WellFormed.ofNone rfl rfl rfl
theorem WellFormed.wakeRequest (core : Nat) : WellFormed.Statement (.wakeRequest core) :=
  WellFormed.ofCore rfl rfl rfl of_decide_eq_true
theorem WellFormed.rampEnd (core : Nat) : WellFormed.Statement (.rampEnd core) :=
  WellFormed.ofCore rfl rfl rfl of_decide_eq_true
theorem WellFormed.pllLock (cluster : Nat) : WellFormed.Statement (.pllLock cluster) := WellFormed.ofNone rfl rfl rfl
theorem WellFormed.idleGateExpiry (core : Nat) : WellFormed.Statement (.idleGateExpiry core) :=
  WellFormed.ofCore rfl rfl rfl of_decide_eq_true
theorem WellFormed.pllOffExpiry (cluster : Nat) : WellFormed.Statement (.pllOffExpiry cluster) :=
  WellFormed.ofNone rfl rfl rfl
theorem WellFormed.leaseRenewal : WellFormed.Statement (.leaseRenewal) := WellFormed.ofNone rfl rfl rfl
theorem WellFormed.leaseTakeover : WellFormed.Statement (.leaseTakeover) := WellFormed.ofNone rfl rfl rfl
theorem WellFormed.leaseDisagreement : WellFormed.Statement (.leaseDisagreement) := WellFormed.ofNone rfl rfl rfl
theorem WellFormed.demotion (hub : Hub) : WellFormed.Statement (.demotion hub) := WellFormed.ofNone rfl rfl rfl
theorem WellFormed.managementMessage (cluster : Nat) (src : Hub) (epoch : Nat) : WellFormed.Statement (.managementMessage cluster src epoch) :=
  WellFormed.ofNone rfl rfl rfl
theorem WellFormed.fabricManagerLease (event : FabricLease) : WellFormed.Statement (.fabricManagerLease event) :=
  WellFormed.ofNone rfl rfl rfl
theorem WellFormed.fence (module epoch : Nat) (lift : Bool) : WellFormed.Statement (.fence module epoch lift) :=
  WellFormed.ofNone rfl rfl rfl
theorem WellFormed.fenceNotice (epoch : Nat) : WellFormed.Statement (.fenceNotice epoch) := WellFormed.ofNone rfl rfl rfl
theorem WellFormed.flitTagFailure (port : Nat) (consecutive : Bool) : WellFormed.Statement (.flitTagFailure port consecutive) :=
  WellFormed.ofNone rfl rfl rfl
theorem WellFormed.laneFailure (port : Nat) : WellFormed.Statement (.laneFailure port) := WellFormed.ofNone rfl rfl rfl
theorem WellFormed.crookLinkLoss (loss : CrookLoss) : WellFormed.Statement (.crookLinkLoss loss) := WellFormed.ofNone rfl rfl rfl
theorem WellFormed.portKeyExchange (port : Nat) (peer : PeerHello) : WellFormed.Statement (.portKeyExchange port peer) :=
  WellFormed.ofNone rfl rfl rfl
theorem WellFormed.portRekey (port : Nat) : WellFormed.Statement (.portRekey port) := WellFormed.ofNone rfl rfl rfl
theorem WellFormed.keyRetryExpiry (port : Nat) : WellFormed.Statement (.keyRetryExpiry port) := WellFormed.ofNone rfl rfl rfl
theorem WellFormed.remoteWrite (pkt : RemotePkt) : WellFormed.Statement (.remoteWrite pkt) := WellFormed.ofNone rfl rfl rfl
theorem WellFormed.remoteIntegerAdd (pkt : RemotePkt) : WellFormed.Statement (.remoteIntegerAdd pkt) :=
  WellFormed.ofNone rfl rfl rfl
theorem WellFormed.remoteCommit (job source cmd : Nat) (discard : Bool) : WellFormed.Statement (.remoteCommit job source cmd discard) :=
  WellFormed.ofNone rfl rfl rfl
theorem WellFormed.hostProxy (member : Nat) (addr : Nat) (data : Option (List Byte)) (len : Nat) : WellFormed.Statement (.hostProxy member addr data len) :=
  WellFormed.ofNone rfl rfl rfl
theorem WellFormed.remoteSyncSignal (job object : Nat) (signal : SyncSignal) : WellFormed.Statement (.remoteSyncSignal job object signal) :=
  WellFormed.ofNone rfl rfl rfl
theorem WellFormed.destinationUnreachable (q : Nat) : WellFormed.Statement (.destinationUnreachable q) :=
  WellFormed.ofQueue rfl rfl rfl of_decide_eq_true
theorem WellFormed.hostReadCompletion (id : Nat) (ok : Bool) (data : List Byte) : WellFormed.Statement (.hostReadCompletion id ok data) :=
  WellFormed.ofNone rfl rfl rfl
theorem WellFormed.correctedError (unit : MemUnit) : WellFormed.Statement (.correctedError unit) :=
  WellFormed.ofNone rfl rfl rfl
theorem WellFormed.uncorrectableError (core : Nat) (q : Option Nat) (word : Option (Nat × Nat × Nat)) : WellFormed.Statement (.uncorrectableError core q word) :=
  WellFormed.ofCore rfl rfl rfl of_decide_eq_true
theorem WellFormed.uncorrectableReadLowerTier (read : LowerRead) (unit : MemUnit) (word : Option (Nat × Nat × Nat)) : WellFormed.Statement (.uncorrectableReadLowerTier read unit word) :=
  WellFormed.ofNone rfl rfl rfl
theorem WellFormed.coreHeartbeatLoss (core : Nat) : WellFormed.Statement (.coreHeartbeatLoss core) :=
  WellFormed.ofCore rfl rfl rfl of_decide_eq_true
theorem WellFormed.watchdogExpiry (who : Watchdog) : WellFormed.Statement (.watchdogExpiry who) :=
  WellFormed.ofNone rfl rfl rfl
theorem WellFormed.scrubPass (unit : MemUnit) (rows : List Nat) (seconds : Nat) : WellFormed.Statement (.scrubPass unit rows seconds) :=
  WellFormed.ofNone rfl rfl rfl
theorem WellFormed.traceReadPoll (read : BitVec 32) : WellFormed.Statement (.traceReadPoll read) :=
  WellFormed.ofNone rfl rfl rfl
theorem WellFormed.journalGap : WellFormed.Statement (.journalGap) := WellFormed.ofNone rfl rfl rfl
theorem WellFormed.main48vApplied : WellFormed.Statement (.main48vApplied) := WellFormed.ofNone rfl rfl rfl
theorem WellFormed.pcieFundamentalReset (hub : Hub) : WellFormed.Statement (.pcieFundamentalReset hub) :=
  WellFormed.ofNone rfl rfl rfl
theorem WellFormed.brownOutRecovery (cluster : Nat) : WellFormed.Statement (.brownOutRecovery cluster) :=
  WellFormed.ofNone rfl rfl rfl
theorem WellFormed.droopGapEnd (cluster : Nat) (present : Bool) : WellFormed.Statement (.droopGapEnd cluster present) :=
  WellFormed.ofNone rfl rfl rfl
theorem WellFormed.restoreDone (job : Nat) : WellFormed.Statement (.restoreDone job) := WellFormed.ofNone rfl rfl rfl
theorem WellFormed.unitZeroingDone (part : Nat) : WellFormed.Statement (.unitZeroingDone part) :=
  WellFormed.ofNone rfl rfl rfl
theorem WellFormed.remoteAcknowledgement (q : Nat) : WellFormed.Statement (.remoteAcknowledgement q) :=
  WellFormed.ofQueue rfl rfl rfl of_decide_eq_true
theorem WellFormed.replayInputRelease (job : Nat) : WellFormed.Statement (.replayInputRelease job) :=
  WellFormed.ofNone rfl rfl rfl
theorem WellFormed.makerDebugUnlock (nonce : List Byte) (r s : Nat) : WellFormed.Statement (.makerDebugUnlock nonce r s) :=
  WellFormed.ofNone rfl rfl rfl
theorem WellFormed.boundaryScan (intest : Bool) : WellFormed.Statement (.boundaryScan intest) :=
  WellFormed.ofNone rfl rfl rfl
theorem WellFormed.randomSourceHealthTestFailure (hub : Hub) : WellFormed.Statement (.randomSourceHealthTestFailure hub) :=
  WellFormed.ofNone rfl rfl rfl
theorem WellFormed.completionTimeout (id : Nat) : WellFormed.Statement (.completionTimeout id) :=
  WellFormed.ofNone rfl rfl rfl

end Sys2Proof.Laws
end

