-- ==== Sys2Proof/Laws/Settle.lean ====
section
/-! SUPPORT. What the internal events of a beat can do (R468): nothing where nothing is under way, and what every commit, launch
and write-back keeps, they keep together. -/

namespace Sys2Proof.Machine

/-- A fold keeps what each of its steps keeps. -/
theorem foldl_keeps {α : Type} (P : State → Prop) (f : State → α → State) (h : ∀ s a, P s → P (f s a)) (l : List α) (s : State)
    (hs : P s) : P (l.foldl f s) := by
  induction l generalizing s with
  | nil => exact hs
  | cons a l ih => exact ih _ (h s a hs)

/-- One round keeps what commits and launches keep. -/
theorem settleRound_keeps (P : State → Prop) (hc : ∀ s q, P s → P (commandCommit s q)) (hl : ∀ s q, P s → P (launchBeat s q))
    (s : State) (hs : P s) : P (settleRound s) := by
  refine foldl_keeps P _ (fun s e hs => hc _ _ ?_) _ _ hs
  unfold dueLaunch
  split
  · exact hl _ _ hs
  · exact hs

/-- So do several rounds. -/
theorem settleFor_keeps (P : State → Prop) (hc : ∀ s q, P s → P (commandCommit s q)) (hl : ∀ s q, P s → P (launchBeat s q))
    (n : Nat) (s : State) (hs : P s) : P (settleFor n s) := by
  induction n generalizing s with
  | zero => exact hs
  | succ n ih => exact ih _ (settleRound_keeps P hc hl s hs)

/-- The internal events of a beat keep what every commit and every launch at count keeps. -/
theorem settle_keeps (P : State → Prop) (hc : ∀ s q, P s → P (commandCommit s q)) (hl : ∀ s q, P s → P (launchBeat s q))
    (s : State) (hs : P s) : P (settle s) := by
  unfold settle
  split
  · exact hs
  · exact settleFor_keeps P hc hl _ s hs

/-- With the write-backs that begin in the beat as well. -/
theorem settleAll_keeps (P : State → Prop) (hc : ∀ s q, P s → P (commandCommit s q)) (hl : ∀ s q, P s → P (launchBeat s q))
    (hw : ∀ s part index, P s → P (beginWriteBack s part index)) (s : State) (hs : P s) : P (settleAll s) := by
  have h := settle_keeps P hc hl s hs
  unfold settleAll
  dsimp only
  split
  · exact h
  · refine foldl_keeps P _ (fun s e hs => ?_) _ _ h
    split
    · exact hw _ _ _ hs
    · exact hs

/-- In standby and hold nothing commits. -/
theorem settleAll_of_droneOnly (s : State) (h : droneOnly s = true) : settleAll s = s := by
  have e : settle s = s := by simp [settle, h]
  simp [settleAll, e, h]

/-- Queues without commands have no internal event. -/
theorem settle_of_idle (s : State) (h : ∀ e ∈ s.queues, e.2.cmds = []) : settle s = s := by
  have e : (s.queues.map fun e => e.2.cmds.length).sum = 0 := by
    have : s.queues.map (fun e => e.2.cmds.length) = List.replicate s.queues.length 0 :=
      List.eq_replicate_iff.2 ⟨by simp, fun n hn => by
        obtain ⟨e, he, rfl⟩ := List.mem_map.1 hn
        simp [h e he]⟩
    simp [this]
  simp [settle, e, settleFor]

/-- Nor do they with no tiered object. -/
theorem settleAll_of_idle (s : State) (h : ∀ e ∈ s.queues, e.2.cmds = []) (t : s.tiered = []) : settleAll s = s := by
  simp [settleAll, settle_of_idle s h, t]

end Sys2Proof.Machine
end

