-- ==== Sys2Proof/Laws/Torus.lean ====
section
/-! SUPPORT. What the trunks can do to the state: handing flits over, and taking them, changes the link layer alone. -/

namespace Sys2Proof.Machine

/-- The state with only the link layer of the trunks replaced. -/
theorem updTrunk_eq (s : State) (d : Nat) (f : Trunk → Trunk) :
    updTrunk s d f = { s with win := { s.win with trunks := (updTrunk s d f).win.trunks } } := rfl

/-- Flits handed over change the trunks alone. -/
theorem sendFlits_eq (s : State) (cls type dest bytes deadline : Nat) :
    sendFlits s cls type dest bytes deadline
      = { s with win := { s.win with trunks := (sendFlits s cls type dest bytes deadline).win.trunks } } := by
  unfold sendFlits
  split
  · rfl
  · split <;> rfl

/-- Flits taken change the trunks alone. -/
theorem takeFlits_eq (s : State) (src bytes : Nat) :
    takeFlits s src bytes = { s with win := { s.win with trunks := (takeFlits s src bytes).win.trunks } } := by
  unfold takeFlits
  split <;> rfl

/-- A flit requested again changes the trunks alone. -/
theorem requestFlit_eq (s : State) (w : Nat) :
    requestFlit s w = { s with win := { s.win with trunks := (requestFlit s w).win.trunks } } := rfl

/-- A trunk that has nothing to send and nothing held for replay is idle. -/
theorem trunkBeat_of_idle (s : State) (d : Nat) (h : (trunkAt s d).waiting = []) (k : (trunkAt s d).unacked = []) : trunkBeat s d = s := by
  simp [trunkBeat, h, k]

/-- Counting flits changes the ports alone. -/
theorem countFlits_eq (s : State) (l : List Flit) :
    countFlits s l = { s with win := { s.win with ports := (countFlits s l).win.ports } } := by
  unfold countFlits
  induction l generalizing s with
  | nil => rfl
  | cons f l ih => rw [List.foldl_cons, ih]; rfl

/-- A trunk's beat changes the trunks and the flit counters of the ports, and may draw one free value. -/
theorem trunkBeat_eq (s : State) (d : Nat) :
    trunkBeat s d = { s with
      win := { s.win with trunks := (trunkBeat s d).win.trunks, ports := (trunkBeat s d).win.ports }
      fresh := (trunkBeat s d).fresh } := by
  unfold trunkBeat
  dsimp only
  split
  · rfl
  · rw [countFlits_eq]; rfl

end Sys2Proof.Machine
end

