-- ==== Sys2Proof/Laws/Vector.lean ====
section
/-! SUPPORT. What an instruction of the vector unit or of the update unit can do to the state. -/

namespace Sys2Proof.Machine

open Sys2Proof

theorem vecOf_updVec (s : State) (c : Nat) (f : VecUnit → VecUnit) : vecOf (updVec s c f) c = f (vecOf s c) := by
  simp [vecOf, updVec]

theorem VecUnit.write_reg_self (u : VecUnit) (a : VArgs) (v : List W32) (t : Option W64) :
    (u.write a v t).reg a.vd.toNat = underMask u a v := by
  simp [VecUnit.write, VecUnit.reg, underMask]

theorem VecUnit.write_reg_other (u : VecUnit) (a : VArgs) (v : List W32) (t : Option W64) (n : Nat) (h : n ≠ a.vd.toNat) :
    (u.write a v t).reg n = u.reg n := by
  simp [VecUnit.write, VecUnit.reg, h]

theorem VecUnit.write_tag_self (u : VecUnit) (a : VArgs) (v : List W32) (t : Option W64) :
    (u.write a v t).tagOf a.vd.toNat = t := by
  unfold VecUnit.tagOf VecUnit.write
  cases t <;> simp

theorem VecUnit.write_tag_other (u : VecUnit) (a : VArgs) (v : List W32) (t : Option W64) (n : Nat) (h : n ≠ a.vd.toNat) :
    (u.write a v t).tagOf n = u.tagOf n := by
  unfold VecUnit.tagOf VecUnit.write
  cases t <;> simp [h]

theorem VecUnit.next_reg (u : VecUnit) (n : Nat) : u.next.reg n = u.reg n := rfl
theorem VecUnit.next_tagOf (u : VecUnit) (n : Nat) : u.next.tagOf n = u.tagOf n := rfl
theorem VecUnit.next_maskOf (u : VecUnit) (n : Nat) : u.next.maskOf n = u.maskOf n := rfl
theorem VecUnit.next_scalar (u : VecUnit) (n : Nat) : u.next.scalar n = u.scalar n := rfl

/-- A change of the vector unit that keeps its owner changes nothing else. -/
theorem updVec_only (s : State) (core : Nat) (f : VecUnit → VecUnit) (h : (f (vecOf s core)).owner = (vecOf s core).owner) :
    OnlyVec s (updVec s core f) core := by
  refine ⟨⟨rfl, fun c hc => by simp [updVec, hc]⟩, by simp [updVec, vecOf], ?_⟩
  rw [vecOf_updVec, h]

/-- One register written and the program moved on: everything that such an instruction does. -/
theorem updVec_write (s : State) (core : Nat) (a : VArgs) (v : VecUnit → List W32) (tg : VecUnit → Option W64) :
    VecWrote s (updVec s core fun u => (u.write a (v u) (tg u)).next) core a.vd.toNat (tg (vecOf s core)) := by
  refine ⟨updVec_only s core _ rfl, ?_, ?_, ?_, fun n h => ?_⟩
  · rw [vecOf_updVec]; rfl
  · rw [vecOf_updVec]; rfl
  · rw [vecOf_updVec, VecUnit.next_tagOf, VecUnit.write_tag_self]
  · rw [vecOf_updVec, VecUnit.next_tagOf, VecUnit.next_reg]
    exact ⟨VecUnit.write_reg_other _ a _ _ n h, VecUnit.write_tag_other _ a _ _ n h⟩

/-- What the written register holds afterwards. -/
theorem updVec_write_reg (s : State) (core : Nat) (a : VArgs) (v : VecUnit → List W32) (tg : VecUnit → Option W64) :
    (vecOf (updVec s core fun u => (u.write a (v u) (tg u)).next) core).reg a.vd.toNat
      = underMask (vecOf s core) a (v (vecOf s core)) := by
  rw [vecOf_updVec, VecUnit.next_reg, VecUnit.write_reg_self]

/-- One register of the update unit written: everything that such an instruction does. -/
theorem updUnit_put (s : State) (core d : Nat) (v : UpdUnit → List W32) :
    UpdWrote s (updUnit s core fun u => u.put d (v u)) core d
      ∧ (coreAt (updUnit s core fun u => u.put d (v u)) core).upd.reg d = v (coreAt s core).upd := by
  refine ⟨⟨⟨rfl, fun c h => by simp [updUnit, h]⟩, by simp [updUnit], by simp [updUnit, UpdUnit.put], fun n h => ?_⟩, ?_⟩
  · simp [updUnit, UpdUnit.put, UpdUnit.reg, h]
  · simp [updUnit, UpdUnit.put, UpdUnit.reg]

end Sys2Proof.Machine
end

