-- ==== Sys2Proof/Machine/Cipher.lean ====
section
/-! DEFINITION. The ciphers of stored data and of crook links: AES-256-XTS over the units of the two memory tiers and over
a core's storage as a debug read returns it (R167, R351, R362, Table 14.7), and the keys and payloads of crook links
(R352). Log entries are notes/assumptions/<n>.md. -/

namespace Sys2Proof.Machine

open Sys2Proof

/-- The XTS tweak after one block: multiplied by x, with the first byte the least significant. -/
def Xts.double (t : List Byte) : List Byte :=
  let v := leNat t
  toLe 16 (if v < 2 ^ 127 then 2 * v else (2 * v) ^^^ 0x87)

/-- The blocks of one data unit under the block key, from the encrypted tweak on. -/
def Xts.blocks (key : List Byte) (t : List Byte) (bs : List (List Byte)) : List Byte :=
  match bs with
  | [] => []
  | b :: rest => xorBytes (Aes.encrypt key (xorBytes b t)) t ++ Xts.blocks key (Xts.double t) rest

/-- AES-256-XTS of one data unit of whole blocks: the first 32 key bytes encrypt blocks, the last 32 the tweak. -/
def xts (key : List Byte) (tweak : Nat) (unit : List Byte) : List Byte :=
  Xts.blocks (key.take 32) (Aes.encrypt (key.drop 32) (toLe 16 tweak)) (chunks 16 unit)

/-- The tweak of a 64-byte unit (R167): its module physical address divided by 64, the tier, the partition. -/
def unitTweak (addr : Nat) (capacity : Bool) (part : Nat) : Nat :=
  addr / 64 % 2 ^ 48 + (if capacity then 2 ^ 48 else 0) + part % 32 * 2 ^ 49

/-- The ciphertext of a 64-byte unit as HBM or the capacity tier stores it, which is what a debug read of the tier returns
(R167, Table 14.7). The bytes of a fused key stand in its first bits first (log entry 122). -/
def storedUnit (s : State) (addr : Nat) (capacity : Bool) (part : Nat) (unit : List Byte) : List Byte :=
  let key := if capacity then s.sec.fuses.capXtsKey else s.sec.fuses.hbmXtsKey
  xts (toLe 64 key.toNat) (unitTweak addr capacity part) unit

/-- What a debug read of a core's storage returns of 16 bytes at `addr` (Table 14.7): ciphertext under the debug key of this
start. The tweak holds the core index above the address (log entry 122). -/
def debugUnit (s : State) (core addr : Nat) (unit : List Byte) : List Byte :=
  xts s.sec.debugKey (addr % 2 ^ 64 + core * 2 ^ 64) unit

/-- The start value that a hub drew at this start (R352). -/
def startValue (s : State) (hub : Hub) : List Byte := match hub with | .east => s.sec.startEast | .west => s.sec.startWest

/-- The key of one direction of a crook link (R352), by the hub whose start value keys it (log entry 122). -/
def crookKey (s : State) (hub : Hub) (link : Nat) (dir : Bool) : List Byte :=
  hkdf384 (startValue s hub) (toLe 32 s.sec.fuses.crookRoot.toNat) (ascii "FGS-CROOK" ++ toLe 1 link ++ toLe 1 (if dir then 1 else 0)) 32

/-- A flit payload on a crook link: its ciphertext with the tag that stands in place of a CRC; the IV is 4 zero bytes and the
flit counter (R352). -/
def crookFlit (key : List Byte) (counter : Nat) (payload : List Byte) : List Byte :=
  Gcm.encrypt key (zeros 4 ++ toLe 8 counter) [] payload

end Sys2Proof.Machine
end

