-- ==== Sys2Proof/Machine/Metadata.lean ====
section
/-! DEFINITION. What a read of a partition's metadata region returns: the fixed part of Table 6.1a with its records, the pages of
a job, the reed directory; and the ciphertext that a memory tier holds (R99, R147, R155, R167, R179, R182, R187, R200, R223,
R231, R269, R321). Log entries are notes/assumptions/<n>.md. -/

namespace Sys2Proof.Machine

open Sys2Proof

/-! ## Records -/

/-- A bit as a number. -/
def flag (b : Bool) : Nat := if b then 1 else 0

/-- STATE of a tiered object (Table 6.5). -/
def TierState.code (t : TierState) : Nat :=
  match t with
  | .absent => 0
  | .promoting => 1
  | .resident => 2
  | .evicting => 3
  | .pinned => 4

/-- The tiered-object record of a buffer (Table 6.5). -/
def tieredRecord (b : Buf) (t : Tiered) : List Byte :=
  toLe 8 (t.state.code + 32 * flag t.copying + 64 * flag t.dirty + 2 ^ 56 * t.objClass)
    ++ toLe 8 (2 ^ 7 * t.charged + 2 ^ 18 * flag t.locked + 2 ^ 19 * t.lockQ + 2 ^ 32 * t.waiters.length)
    ++ zeros 16 ++ toLe 8 t.changed ++ toLe 8 b.size ++ toLe 8 t.copyAddr ++ toLe 8 b.addr

/-- The record of a sync object (Table 11.2). -/
def syncRecord (o : SyncObj) : List Byte :=
  toLe 32 (o.type + 2 ^ 40 * o.parties + 2 ^ 54 * flag o.jobWide + 2 ^ 55 * flag o.held + 2 ^ 56 * flag o.abandoned
    + 2 ^ 57 * o.ownerGen + 2 ^ 73 * o.ownerQ + 2 ^ 86 * o.waiters.length + 2 ^ 100 * o.arrived + 2 ^ 128 * o.changed
    + 2 ^ 192 * o.value)

/-- The accounting record of a queue (Table 12.13). -/
def accountRecord (a : Account) : List Byte :=
  toLe 8 a.waitSum ++ toLe 8 a.waitMax ++ toLe 8 a.preemptions ++ toLe 8 a.lost ++ zeros 32
    ++ (List.range 16).flatMap fun n => toLe 4 (FMap.getD a.hist n 0)

/-- The observation record of a ring (Table 9.2). -/
def Obs.bytes (o : Obs) : List Byte :=
  toLe 4 o.amax.toNat ++ toLe 4 (flag o.nonfinite) ++ toLe 4 o.sweepScale.toNat ++ toLe 4 o.sweepRecip.toNat
    ++ toLe 8 o.clipped ++ toLe 8 o.elements

/-- A step record (Table 9.6). -/
def StepRec.bytes (r : StepRec) : List Byte :=
  zeros 8 ++ toLe 8 r.skippedTotal ++ toLe 4 r.rings ++ toLe 4 r.firstBad ++ toLe 4 r.absurd ++ toLe 4 (min r.nf (2 ^ 32 - 1))
    ++ toLe 8 r.arrived ++ toLe 8 r.decided ++ toLe 2 r.status ++ toLe 6 r.updates ++ toLe 8 r.batch

/-- A sweep record (Table 4.12). -/
def SweepRec.bytes (r : SweepRec) : List Byte :=
  toLe 8 r.batch ++ toLe 4 r.index ++ toLe 2 r.queue ++ toLe 2 r.status ++ toLe 8 r.nonfinite ++ toLe 4 r.clippedRows ++ zeros 4

/-- A directory entry (Table 8.6). -/
def DirEntry.record (e : DirEntry) : List Byte :=
  toLe 4 1 ++ toLe 4 e.handle
    ++ toLe 8 (2 ^ 8 * e.purpose + 2 ^ 16 * e.layers + 2 ^ 32 * e.owner)
    ++ toLe 8 (e.placement + 2 ^ 8 * (e.rank - 1) + 2 ^ 16 * e.location + 2 ^ 19 * flag e.bound
      + 2 ^ 20 * (if e.bound then e.context else 0) + 2 ^ 32 * e.baseGen)
    ++ toLe 4 e.version ++ toLe 4 e.keyId ++ zeros 8 ++ toLe 8 e.imageBytes ++ toLe 8 e.addr ++ toLe 8 e.reedId

/-! ## The fixed part (Table 6.1a) -/

/-- A table of the fixed part: its first byte, the bytes of a record, how many it has, and record `i`. -/
structure MetaTable where
  base : Nat
  size : Nat
  count : Nat
  record : Nat → List Byte

/-- The record of an index in the buffer table. No table gives its layout, so its bytes are free (log entry 12). -/
def bufferRecord (s : State) (part i : Nat) : List Byte :=
  if FMap.has s.index (bufKey part i) then toLe 32 (Config.freeNat (bufKey part i)) else zeros 32

/-- The tables of the fixed part. -/
def metaTables (s : State) (part : Nat) : List MetaTable :=
  let key (i : Nat) := bufKey part i
  let handles (l : List Nat) (i : Nat) : List Byte := toLe 4 (l.getD i 0)
  [ ⟨0, 32, 2 ^ 20, bufferRecord s part⟩,
    ⟨32768 * 1024, 64, 2 ^ 20, fun i =>
      ((FMap.get? s.bufs (key i)).bind fun b => (FMap.get? s.tiered (key i)).map (tieredRecord b)).getD (zeros 64)⟩,
    ⟨98304 * 1024, 32, 65536, fun i =>
      ((FMap.get? s.sync i).filter fun o => (jobAt s o.job).any fun J => J.part = part).elim (zeros 32) syncRecord⟩,
    ⟨100352 * 1024, 128, 8192, fun i =>
      ((queueAt s i).filter fun Q => Q.part = part).elim (zeros 128) fun Q => accountRecord Q.acct⟩,
    ⟨101376 * 1024, 32, 256 * 1025, fun i =>
      if mayAct s (i / 256) part then FMap.getD s.miss i (zeros 32) else zeros 32⟩,
    ⟨109576 * 1024, 4, 65536, handles (partAt s part).baseHandles⟩,
    ⟨109832 * 1024, 4, 65536, handles (partAt s part).incoming⟩ ]

/-- The byte at an offset of the fixed part; what no table holds reads 0. -/
def metaByte (s : State) (part a : Nat) : Byte :=
  match (metaTables s part).find? fun t => t.base ≤ a && a < t.base + t.size * t.count with
  | none => 0
  | some t => (t.record ((a - t.base) / t.size)).getD ((a - t.base) % t.size) 0

/-- `n` bytes of the fixed part of a partition that holds a quarter. -/
def metaRead (s : State) (part a n : Nat) : List Byte := (List.range n).map fun i => metaByte s part (a + i)

/-- A function may read the record at an offset of the fixed part: the PF every one; a function of the partition the handle
tables, its own queues' accounts, its own miss log and the sync objects of its jobs (R155, R179, R182, R269, R321). -/
def metaMay (s : State) (fn part a : Nat) : Bool :=
  let at_ (base size : Nat) : Nat := (a - base * 1024) / size
  if fn = 0 then true
  else if fnPart s fn ≠ some part || a < 98304 * 1024 then false
  else if a < 100352 * 1024 then
    (FMap.get? s.sync (at_ 98304 32)).any fun o => (jobAt s o.job).any fun J => J.fn = fn
  else if a < 101376 * 1024 then (queueAt s (at_ 100352 128)).any fun Q => Q.fn = fn
  else if a < 109576 * 1024 then decide (at_ 101376 8192 = fn)
  else true

/-- What a read of the fixed part returns to a function; none where it may not read there. -/
def metaAccess (s : State) (fn part a n : Nat) : Option (List Byte) :=
  if (List.range n).all fun i => metaMay s fn part (a + i) then some (metaRead s part a n) else none

/-! ## Job pages and the directory (R99, R147, R200, R223, R231) -/

/-- The observation records of a job, by ring as the job lists them. -/
def Job.obsPage (J : Job) : List (List Byte) := J.rings.map fun e => (FMap.getD J.obs e.1 {}).bytes

/-- Slot `i` of a job's step log. -/
def Job.stepSlot (J : Job) (i : Nat) : List Byte := (FMap.get? J.stepLog (i % 256)).elim (zeros 64) StepRec.bytes

/-- Slot `i` of a job's sweep log. -/
def Job.sweepSlot (J : Job) (i : Nat) : List Byte := (FMap.get? J.sweepLog (i % 4096)).elim (zeros 32) SweepRec.bytes

/-- The pages of a job as the function that runs it reads them: observation records, step log, sweep log; none for another
function. -/
def jobPagesRead (s : State) (fn j : Nat) : Option (List Byte) :=
  ((jobAt s j).filter fun J => J.fn = fn).map fun J =>
    J.obsPage.flatten ++ (List.range 256).flatMap J.stepSlot ++ (List.range 4096).flatMap J.sweepSlot

/-- Entry `i` of a partition's reed directory as a function of the partition reads it; an entry without a registration
reads 0. -/
def directoryRead (s : State) (fn part i : Nat) : Option (List Byte) :=
  if mayAct s fn part && i < dnum s (0x4E00 + part) 1 then
    some ((FMap.get? s.dirs (2 ^ 22 * part + i)).elim (zeros 64) DirEntry.record)
  else none

/-! ## Stored bytes (R167) -/

/-- The ciphertext of the 64-byte unit `u` of a buffer as its tier holds it: of HOME, or of the HBM copy of a tiered object. The
module physical address of a partition address is not stated: free (log entry 122). -/
def storedOf (s : State) (key u : Nat) : Option (List Byte) :=
  (FMap.get? s.bufs key).bind fun b =>
    let (tier, addr) := homeOf s key b
    if tier = 0 || b.size ≤ 64 * u then none
    else some (storedUnit s (Config.physical tier (keyPart key) (addr + 64 * u)) (tier = 2) (keyPart key)
      ((committed s key).read (64 * u) 64))

end Sys2Proof.Machine
end

