-- ==== Sys2Proof/Tests/Slice0.lean ====
section
/-! SUPPORT. Tests. First, terms that are not well formed, one for each check. Then, for each statement with hypotheses, states and
operands that meet them, each clause at the edge of its range. Then single steps, with results from the manual or worked
out by hand. -/

namespace Sys2Proof.Tests

open Sys2Proof Sys2Proof.Machine

-- One thread: a thread for each small theorem exhausts the memory of a build.
set_option Elab.async false

/-! ## Helpers -/

/-- `n` zero bytes with bytes laid over them at the given offsets. -/
def bytesOf (n : Nat) (l : List (Nat × List Byte)) : List Byte := l.foldl (fun r p => patch r p.1 p.2) (zeros n)

/-- A started command of opcode `op` with the given fields. -/
def cmdOf (uid op : Nat) (l : List (Nat × List Byte)) : Cmd :=
  { uid, bytes := bytesOf 64 ((0, toLe 1 op) :: l), state := .started }

/-- A queue of partition 0 and of the PF, serving job 7. -/
def queueOf (cmds : List Cmd) : Queue :=
  { part := 0, fn := 0, page := 0, ringBase := 0, cplBase := 0, slots := 64, ringHbm := true, cplHbm := false, vector := 0, job := some 7, cmds }

/-- A job of one module with queue 0. -/
def jobOf : Job :=
  { part := 0, fn := 0, priority := 4, seed := 9, batch := 0, updates := 0, moduleIdx := 0, modules := 1, digest := [], baseDigest := []
    grouped := false, roles := [0], streams := [], bufs := [], rings := [], reds := [], syncs := [3], live := [], coreSet := [0]
    clipT := 65, calmL := 16, reserved := 0 }

/-- Queue 0 with these commands, and its job. -/
def world (J : Job) (cmds : List Cmd) : State := { State.reset with queues := [(0, queueOf cmds)], jobs := [(7, J)] }

/-- A scratch buffer of HBM. -/
def bufOf (size : Nat) : Buf := { gen := 0, size, tier := 1, cls := 0 }

/-- Arguments of a vector instruction. -/
def vargs (vd va vb mask ss fn imm : Nat) : VArgs :=
  ⟨BitVec.ofNat 5 vd, BitVec.ofNat 5 va, BitVec.ofNat 5 vb, 0, BitVec.ofNat 3 mask, BitVec.ofNat 4 ss, BitVec.ofNat 3 fn, BitVec.ofNat 26 imm⟩

/-! ## Ill-formed terms -/

theorem illFormed_queue : ([.array 8192, .nop 8192, .kill 8192 .fault, .doorbell 1 256 0 true,
    .doorbell 0 (2 ^ 19) 0 true] : List Instr).all (fun i => !i.wf) = true := by
  decide

theorem illFormed_core : ([.vadd 32 (vargs 0 0 0 0 0 0 0), .uadd 32 ⟨0, 0, 0, 0⟩, .wakeRequest 32, .mergeEntryArrival 32 0, .mergeEntryArrival 0 (2 ^ 32),
    .tileRequestDone 32 0, .tileRequestDone 0 4, .coreHeartbeatLoss 32] : List Instr).all (fun i => !i.wf) = true := by
  decide

theorem illFormed_function : ([.queueCreate 1025, .vfQuotaWrite .installer 0 true 0, .vfQuotaWrite .installer 1025 true 0,
    .functionReset 0 none, .bar4Access 1025 (.read 0 4)] : List Instr).all (fun i => !i.wf) = true := by
  decide

theorem illFormed_job : ([.coreGrant (2 ^ 64), .remoteCommit (2 ^ 64) 0 0 true, .remoteSyncSignal 0 65536 .set] : List Instr).all (fun i => !i.wf) = true := by
  decide

theorem illFormed_partial : ([.partialArrival 10 0 [0] none, .partialArrival 0 0 [] none, .partialArrival 0 0 (List.replicate 513 0) none,
    .rootDelivery 10 0, .rootDelivery 0 (2 ^ 24)] : List Instr).all (fun i => !i.wf) = true := by
  decide +kernel

theorem illFormed_partition : ([.layerSwap 32, .mapWrite .installer 32 true 0, .poolWrite .installer 0 0 (.num 0), .poolWrite .installer 0 7 (.num 0),
    .promoteCopyDone 0 (2 ^ 20), .serveBindComplete 4096 [] true] : List Instr).all (fun i => !i.wf) = true := by
  decide

theorem illFormed_entry : ([.dictionaryWrite .installer 65536 0 (.num 0), .dictionaryWrite .installer 0 256 (.num 0), .alarmClear .installer 128,
    .stopChange .installer 0 0, .stopChange .installer 5 0, .stopChange .installer 1 10, .operatorKeyWrite .installer 0 [],
    .operatorKeyWrite .installer 9 [], .gpioFunctionWrite .installer 8 0, .gpioFunctionWrite .installer 0 8, .startStepTimeout 0,
    .startStepTimeout 10] : List Instr).all (fun i => !i.wf) = true := by
  decide

theorem illFormed_link : ([.crookLinkLoss ⟨18, 0, 1⟩, .crookLinkLoss ⟨0, 5, 1⟩, .crookLinkLoss ⟨0, 0, 0⟩, .crookLinkLoss ⟨0, 0, 65⟩, .laneFailure 24, .fence 4096 0 true, .fenceNotice (2 ^ 32), .managementMessage 8 .east 0,
    .hostProxy 4096 0 none 0, .remoteWrite ⟨0, 0, 0, 0, 0, zeros 225, true, false⟩] : List Instr).all (fun i => !i.wf) = true := by
  decide +kernel

theorem illFormed_unit : ([.correctedError (.core 32), .correctedError (.hbm 16 0 0), .correctedError (.hbm 0 32 0), .scrubPass (.lpddr 64 0) [] 0,
    .watchdogExpiry (.cluster 8 true), .dieTemperatureHigh 10 0, .declareDead .installer 8 0, .declareDead .installer 0 4] : List Instr).all (fun i => !i.wf) = true := by
  decide

theorem illFormed_spdm : ([.getCertificate 16 0 0, .challenge 0 (zeros 31), .getMeasurements 0 (zeros 33), .makerDebugUnlock [] 0 0] : List Instr).all (fun i => !i.wf) = true := by
  decide

theorem wellFormed_edges : ([.array 8191, .wakeRequest 31, .queueCreate 1024, .coreGrant (2 ^ 64 - 1), .layerSwap 31, .laneFailure 23,
    .crookLinkLoss ⟨17, 4, 64⟩, .correctedError (.hbm 15 31 0), .startStepTimeout 9] : List Instr).all Instr.wf = true := by
  decide

/-! ## Witnesses: the vector unit -/

theorem stepRunsTheFrontCommand_witness : ({ State.reset with pending := [.getVersion] } : State).pending = .getVersion :: [] := rfl

theorem vectorRegisterMoves_witness :
    let a := vargs 31 0 0 7 0 0 0
    let u : VecUnit := {}
    a.mask ≠ 0 ∧ (List.replicate 512 (1 : W32)).length = 512 ∧ (u.reg a.vd.toNat).length = 512 ∧ 511 < 512 := by
  decide +kernel

/-- A VECTOR command with buffer 0 behind its last window. -/
def vecCmd : Cmd := { cmdOf 5 2 [(52, toLe 4 (2 ^ 20))] with uses := [verKey 0 1] }

/-- The unit of core 0 with this command's program under way. -/
def vecWorld (u : VecUnit) (J : Job) : State :=
  { world J [vecCmd] with cores := [(0, { vec := { u with owner := some (0, 5) } })], bufs := [(0, { bufOf 4096 with gen := 1 })] }

theorem vectorMasksScalarsLoops_witness :
    let s := vecWorld {} jobOf
    ((3 ≤ 3 ∧ ((vecOf s 0).reg 0).length = 512 ∧ ((vecOf s 0).reg 31).length = 512)
      ∧ (3 < (vargs 0 0 0 0 0 4 0).fn.toNat ∧ (vecOf s 0).owner = some (0, vecCmd.uid) ∧ vecOwner s 0 = some (0, queueOf [vecCmd], vecCmd)))
    ∧ (vecOf (vecWorld { loops := List.replicate 3 ⟨0, 1, 1⟩ } jobOf) 0).loops.length < 4
    ∧ bits (vargs 0 0 0 0 0 0 65535).imm.toNat 25 16 = 0 := by
  decide +kernel

/-- The last place of the buffer that 2,048 bytes fit, behind window 7. -/
def lastPlace : VecUnit := { scalars := [(0, BitVec.ofNat 64 (7 * 2 ^ 23))] }

theorem vectorLoads_witness :
    let s := vecWorld lastPlace jobOf
    let Q := queueOf [vecCmd]
    ((vecOf s 0).owner = some (0, vecCmd.uid) ∧ vecOwner s 0 = some (0, Q, vecCmd))
    ∧ vecReach s Q vecCmd (vecAddr (vecOf s 0) (vargs 0 0 0 0 0 0 2048)) 2048 = .ok (2 ^ 20, 2048)
    ∧ vecReach s Q vecCmd (vecAddr (vecOf s 0) (vargs 0 0 0 0 0 0 3584)) 512 = .ok (2 ^ 20, 3584)
    ∧ vecAddr (vecOf s 0) (vargs 0 0 0 0 0 0 63) % 64 ≠ 0
    ∧ (let addr := vecAddr (vecOf s 0) (vargs 0 0 0 0 1 0 0);
       addr % 64 = 0 ∧ ∀ d, d < 8 → d = addr / 2 ^ 23 → rH vecCmd.bytes (24 + 4 * d) = 0)
    ∧ vecLoadMet 2048 0 (vargs 0 0 0 0 0 0 2048) s = none ∧ vecLoadMet 512 0 (vargs 0 0 0 0 0 0 3584) s = none := by
  refine ⟨?_, by rfl, by rfl, ?_, ?_, ?_, ?_⟩ <;> decide +kernel

/-- A word of the buffer is poisoned where the load reads. -/
theorem poisonedAccess_witness :
    let s (u : VecUnit) : State := { vecWorld u jobOf with rel := { ({} : Reliability) with poison := [(0, 511)] } }
    vecLoadMet 2048 0 (vargs 0 0 0 0 0 0 2048) (s lastPlace) = some (0, 511) ∧ vecLoadMet 512 0 (vargs 0 0 0 0 0 0 3584) (s lastPlace) = some (0, 511)
    ∧ vecStoreMet 4 0 (vargs 0 0 0 7 0 0 2048) (s { lastPlace with masks := [(7, 0)] }) = some (0, 511)
    ∧ vecStoreMet 1 0 (vargs 0 0 0 7 0 0 3584) (s { lastPlace with masks := [(7, 0)] }) = some (0, 511) := by
  decide +kernel

theorem vectorStores_witness :
    let s := vecWorld lastPlace jobOf
    let Q := queueOf [vecCmd]
    vecOwner s 0 = some (0, Q, vecCmd)
      ∧ vecReach s Q vecCmd (vecAddr (vecOf s 0) (vargs 0 0 0 0 0 0 2048)) 2048 = .ok (2 ^ 20, 2048)
      ∧ vecReach s Q vecCmd (vecAddr (vecOf s 0) (vargs 0 0 0 0 0 0 3584)) 512 = .ok (2 ^ 20, 3584)
      ∧ vecStoreMet 4 0 (vargs 0 0 0 0 0 0 2048) s = none ∧ vecStoreMet 1 0 (vargs 0 0 0 0 0 0 3584) s = none := by
  refine ⟨by decide +kernel, by rfl, by rfl, by decide +kernel, by decide +kernel⟩

/-- A reduction of two chunks, of 1,000 elements, on engines of clusters. -/
def red2 : RedDecl := { id := 2 ^ 24 - 1, chunks := 2, partials := 2, integer := false, op := 0, route := 1, length := 1000 }

/-- The job with that reduction. -/
def redJobOf : Job := { jobOf with reds := [red2] }

theorem vectorTagsAndRandom_witness :
    let red := 2 ^ 24 - 1
    let t (h n : Nat) : W64 := lTag red h n
    let s (u : VecUnit) := vecWorld u redJobOf
    let decl (u : VecUnit) : Prop := vecDecl (s u) 0 red = some (7, red2)
    (let u : VecUnit := { scalars := [(0, t 0 0)] };
      decl u ∧ (vecOf (s u) 0).scalar 0 = t 0 0 ∧ 0 % 512 = 0 ∧ (vecOf (s u) 0).maskOf 0 = BitVec.allOnes 512 ∧ 3 ≤ 3)
    ∧ (let u : VecUnit := { tags := [(0, t 32 0), (1, t 32 1)] };
      decl u ∧ 0 < 2 ^ (33 - 32) ∧ (vecOf (s u) 0).tagOf 0 = some (t 32 0) ∧ (vecOf (s u) 0).tagOf 1 = some (lTag red 32 (0 + 1)) ∧ 0 % 2 = 0
        ∧ 0 + 1 < 2 ^ (33 - 32))
    ∧ (let u : VecUnit := { tags := [(0, t 9 1)] };
      decl u ∧ 1 < 2 ^ (33 - 9) ∧ (vecOf (s u) 0).tagOf 0 = some (t 9 1) ∧ red2.length ≤ (1 + 1) * 2 ^ 9 ∧ 9 < 33)
    ∧ (let u : VecUnit := { scalars := [(15, t 33 0)] };
      decl u ∧ 0 < 2 ^ (33 - 33) ∧ 33 ≤ 33 ∧ (vecOf (s u) 0).scalar 15 = t 33 0)
    ∧ (let u : VecUnit := { scalars := [(14, BitVec.ofNat 64 (2 ^ 48 - 512)), (15, 1)] };
      (vecOf (s u) 0).owner = some (0, vecCmd.uid) ∧ vecOwner (s u) 0 = some (0, queueOf [vecCmd], vecCmd) ∧ (queueOf [vecCmd]).job = some 7
        ∧ jobAt (s u) 7 = some redJobOf ∧ (14 : Nat) < 15
        ∧ ((vecOf (s u) 0).scalar 14).toNat % 4 = 0 ∧ ((vecOf (s u) 0).scalar 14).toNat ≤ 2 ^ 48 - 512 ∧ ((vecOf (s u) 0).scalar 15).toNat % 4 ≠ 0) := by
  decide +kernel

theorem vectorTagErrors_witness :
    let red := 2 ^ 24 - 1
    let s (u : VecUnit) := vecWorld u redJobOf
    let ok (u : VecUnit) : Prop := (vecOf (s u) 0).owner = some (0, vecCmd.uid) ∧ vecOwner (s u) 0 = some (0, queueOf [vecCmd], vecCmd)
    (ok {} ∧ 3 < (vargs 0 0 0 0 0 4 0).fn.toNat)
    ∧ (let u : VecUnit := { scalars := [(0, lTag red 1 0)] }; ok u ∧ lHeight ((vecOf (s u) 0).scalar 0) ≠ 0)
    ∧ (let u : VecUnit := { scalars := [(0, lTag red 0 (2 ^ 33))] }
       ok u ∧ lHeight ((vecOf (s u) 0).scalar 0) = 0 ∧ 2 ^ 33 ≤ lNode ((vecOf (s u) 0).scalar 0))
    ∧ (let u : VecUnit := { scalars := [(0, lTag 0 0 (2 ^ 33 - 1))], tags := [(0, lTag 0 9 0)] }
       ok u ∧ lNode ((vecOf (s u) 0).scalar 0) < 2 ^ 33 ∧ vecDecl (s u) 0 (lRed ((vecOf (s u) 0).scalar 0)) = none
         ∧ (vecOf (s u) 0).tagOf 0 = some (lTag 0 9 0) ∧ vecDecl (s u) 0 (lRed (lTag 0 9 0)) = none)
    ∧ (let u : VecUnit := { scalars := [(0, lTag red 0 1)] }
       ok u ∧ vecDecl (s u) 0 (lRed ((vecOf (s u) 0).scalar 0)) = some (7, red2) ∧ lNode ((vecOf (s u) 0).scalar 0) % 512 ≠ 0)
    ∧ (ok {} ∧ (vecOf (s {}) 0).tagOf 0 = none)
    ∧ (let u : VecUnit := { tags := [(0, lTag red 9 1), (1, lTag red 9 2)] }
       ok u ∧ (vecOf (s u) 0).tagOf 0 = some (lTag red 9 1) ∧ lNode (lTag red 9 1) % 2 = 1)
    ∧ (let u : VecUnit := { tags := [(0, lTag red 9 0)] }
       ok u ∧ vecDecl (s u) 0 (lRed (lTag red 9 0)) = some (7, red2) ∧ (lNode (lTag red 9 0) + 1) * 2 ^ lHeight (lTag red 9 0) < red2.length)
    ∧ (let u : VecUnit := { scalars := [(0, lTag red 33 1)] }
       ok u ∧ lHeight ((vecOf (s u) 0).scalar 0) ≤ 33 ∧ 2 ^ (33 - lHeight ((vecOf (s u) 0).scalar 0)) ≤ lNode ((vecOf (s u) 0).scalar 0)) := by
  dsimp only
  repeat' apply And.intro
  all_goals decide +kernel

/-- A mask of lane 1 alone is none of the first lanes of a chunk. -/
theorem maskShape_witness :
    let s := vecWorld { scalars := [(0, lTag (2 ^ 24 - 1) 0 512)], masks := [(1, 2)] } redJobOf
    ∀ n, n ≤ 512 → (vecOf s 0).maskOf (vargs 0 0 0 1 0 0 0).mask.toNat = BitVec.ofNat 512 (2 ^ n - 1) →
      n ≠ 512 ∧ ¬(lNode ((vecOf s 0).scalar 0) / 512 + 1 = red2.chunks ∧ lNode ((vecOf s 0).scalar 0) + n = red2.length) := by
  decide +kernel

theorem updateUnit_witness :
    let u : UpdUnit := { rowRun := true, live := 64 }
    u.rowRun = true ∧ (u.src 31).length = 64 ∧ u.live ≤ 64 ∧ ({} : UpdUnit).rowRun = false := by
  decide +kernel

theorem taggedReductions_witness :
    let s := world redJobOf [cmdOf 5 2 []]
    let red := 2 ^ 24 - 1
    (jobAt s 7 = some redJobOf ∧ redJob s none red = some 7 ∧ redDecl redJobOf red = some red2 ∧ onRoute redJobOf red2 0 = true ∧ red < 2 ^ 24
      ∧ red2.chunks = 2 ∧ [(1 : W64)].length = [(2 : W64)].length ∧ 1 ≤ [(1 : W64)].length ∧ [(1 : W64)].length ≤ 512
      ∧ FMap.get? s.reds (redKey 7 red) = none)
    ∧ (let tag (level res : Nat) : W64 := BitVec.ofNat 64 (red * 2 ^ 40 + level * 2 ^ 32 + res * 2 ^ 24);
      queueAt s 0 = some (queueOf [cmdOf 5 2 []]) ∧ (queueOf [cmdOf 5 2 []]).job = some 7 ∧ bits (tag 25 0).toNat 63 40 = red
        ∧ 24 < bits (tag 25 0).toNat 39 32 ∧ bits (tag 24 1).toNat 31 24 ≠ 0
        ∧ runningCmd (queueOf [cmdOf 5 2 []]) (fun c => c.op = 2) = some (cmdOf 5 2 []) ∧ redJobOf.nf < 2 ^ 64 - 1)
    ∧ (let R : Reduction := { counts := [(0, 1)], root := some [1] };
      let s := { s with reds := [(redKey 7 red, R)] };
      (s.jobs.find? fun e => ((redDecl e.2 red).any fun d => onRoute e.2 d 0)
        && ((FMap.get? s.reds (redKey e.1 red)).any fun r => r.root.isSome && !r.delivered)) = some (7, redJobOf)
        ∧ FMap.get? s.reds (redKey 7 red) = some R)
    ∧ (let R : Reduction := { counts := [(0, 512)], root := some (List.replicate 512 1), delivered := true };
      let s := { vecWorld {} redJobOf with reds := [(redKey 7 red, R)] };
      vecDecl s 0 (bits (vargs 0 0 0 0 0 0 red).imm.toNat 23 0) = some (7, red2) ∧ red2.integer = false
        ∧ rootOf s 7 red = some (List.replicate 512 1) ∧ (List.replicate 512 (1 : W64)).length ≤ 512)
    ∧ (let s := vecWorld { tags := [(0, lTag red 9 1)] } redJobOf;
      vecOwner s 0 = some (0, queueOf [vecCmd], vecCmd) ∧ onRoute redJobOf red2 (0 / 4) = true ∧ 1 < 2 ^ 24 ∧ 9 ≤ 9 ∧ 9 ≤ 33
        ∧ 512 = bits (vargs 0 0 0 0 0 0 512).imm.toNat 9 0 ∧ 1 ≤ 512 ∧ ((vecOf s 0).reg 0).length = 512
        ∧ (vecOf s 0).tagOf 0 = some (lTag red 9 1) ∧ 1 * 2 ^ (9 - 9) < red2.chunks ∧ FMap.get? s.reds (redKey 7 red) = none) := by
  decide +kernel

theorem taggedErrors_witness :
    let red := 2 ^ 24 - 1
    let s (tags : FMap W64) := vecWorld { tags } redJobOf
    let ok (tags : FMap W64) : Prop := (vecOf (s tags) 0).owner = some (0, vecCmd.uid) ∧ vecOwner (s tags) 0 = some (0, queueOf [vecCmd], vecCmd)
    (ok [] ∧ bits (vargs 0 0 0 0 0 0 0).imm.toNat 9 0 = 0 ∧ 512 < bits (vargs 0 0 0 0 0 0 513).imm.toNat 9 0)
    ∧ (ok [] ∧ (vecOf (s []) 0).tagOf 0 = none ∧ vecDecl (s []) 0 0 = none)
    ∧ (ok [(0, lTag red 8 0)] ∧ (vecOf (s [(0, lTag red 8 0)]) 0).tagOf 0 = some (lTag red 8 0) ∧ lHeight (lTag red 8 0) < 9)
    ∧ (ok [(0, lTag 0 9 0)] ∧ 9 ≤ lHeight (lTag 0 9 0) ∧ vecDecl (s [(0, lTag 0 9 0)]) 0 (lRed (lTag 0 9 0)) = none)
    ∧ (vecDecl (s []) 0 red = some (7, red2) ∧ rootOf (s []) 7 red = none) := by
  dsimp only
  repeat' apply And.intro
  all_goals decide +kernel

/-! ## Witnesses: synchronization -/

/-- A ring SYNC of queue 0 on object 65,535. -/
def syncOf (op value : Nat) : Cmd := cmdOf 5 5 [(16, toLe 1 op), (20, toLe 2 65535), (24, toLe 8 value)]

/-- Queue 0 with this SYNC, and the object. -/
def syncWorld (o : SyncObj) (cmds : List Cmd) : State := { world { jobOf with syncs := [65535] } cmds with sync := [(65535, o)] }

/-- A counter. -/
def counterOf (value : Nat) : SyncObj := { type := 1, job := 7, value }

/-- A lock held by queue 0 in generation 0, or free. -/
def lockOf (held : Bool) (ownerQ : Nat) : SyncObj := { type := 3, job := 7, held, ownerQ }

theorem syncSignals_witness :
    let ok (o : SyncObj) (op value : Nat) : Prop :=
      let c := syncOf op value
      let Q := queueOf [c]
      let s := syncWorld o [c]
      syncCmd s 0 op = some (Q, c) ∧ inWindow Q c = false ∧ remoteJob s Q c = none ∧ syncTarget s Q c = some 65535 ∧ syncAt s 65535 = some o
        ∧ o.waiters = [] ∧ yValue c.bytes = value
    (ok (counterOf 1) 1 (2 ^ 64 - 2) ∧ 1 + (2 ^ 64 - 2) < 2 ^ 64)
    ∧ (ok (counterOf 1) 1 (2 ^ 64 - 1) ∧ 2 ^ 64 ≤ 1 + (2 ^ 64 - 1))
    ∧ ok { type := 2, job := 7 } 3 0 ∧ ok { type := 2, job := 7, value := 1 } 4 0
    ∧ (let s := syncWorld (counterOf 1) []
       let J := { jobOf with syncs := [65535] }
       jobAt s 7 = some J ∧ J.syncs[0]? = some 65535 ∧ syncAt s 65535 = some (counterOf 1) ∧ (counterOf 1).value + (2 ^ 64 - 2) < 2 ^ 64) := by
  dsimp only
  repeat' apply And.intro
  all_goals decide +kernel

/-- A stream's SYNC of queue 0 on object 65,535 of a job with another module index. -/
def farSync : Cmd := { syncOf 1 1 with stream := some 0 }

theorem syncElsewhere_witness :
    (let c := syncOf 1 1
     let Q := { queueOf [c] with window := some 5 }
     let s := { syncWorld (counterOf 1) [c] with queues := [(0, Q)] }
     syncCmd s 0 1 = some (Q, c) ∧ inWindow Q c = true ∧ remoteJob s Q c = none ∧ syncTarget s Q c = some 65535 ∧ syncAt s 65535 = some (counterOf 1))
    ∧ (∀ p ∈ [(2, counterOf 3, 3), (2, counterOf 2, 3), (5, { type := 2, job := 7, value := 1 }, 1), (5, { type := 2, job := 7 }, 0),
        (6, lockOf false 0, 0), (6, lockOf true 1, 0)],
       let c := syncOf p.1 p.2.2
       let s := syncWorld p.2.1 [c]
       syncAt s 65535 = some p.2.1 ∧ queueAt s 0 = some (queueOf [c]) ∧ cmdAt (queueOf [c]) 5 = some c ∧ yOp c.bytes = p.1 ∧ yValue c.bytes = p.2.2)
    ∧ (let J := { jobOf with modules := 2, moduleIdx := 1 }
       let s := world J [farSync]
       syncCmd s 0 1 = some (queueOf [farSync], farSync) ∧ remoteJob s (queueOf [farSync]) farSync = some J ∧ inWindow (queueOf [farSync]) farSync = false)
    ∧ jobAt State.reset 8 = none := by
  dsimp only
  repeat' apply And.intro
  all_goals decide +kernel

theorem syncWaitsAndLocks_witness :
    let ok (o : SyncObj) (op value : Nat) : Prop :=
      let c := syncOf op value
      let Q := queueOf [c]
      let s := syncWorld o [c]
      syncCmd s 0 op = some (Q, c) ∧ syncTarget s Q c = some 65535 ∧ syncAt s 65535 = some o ∧ yValue c.bytes = value
        ∧ inWindow Q c = false ∧ o.waiters = []
    (ok (counterOf 3) 2 3 ∧ 3 ≤ 3) ∧ (ok (counterOf 3) 2 4 ∧ 3 < 4)
    ∧ ok { type := 2, job := 7, value := 1 } 5 1 ∧ ok { type := 2, job := 7 } 5 1
    ∧ ok (lockOf false 0) 6 0 ∧ (ok (lockOf true 1) 6 0 ∧ (lockOf true 1).ownerQ ≠ 0) ∧ ok (lockOf true 0) 6 0 ∧ (lockOf true 0).ownerGen = (queueOf []).gen
    ∧ ok (lockOf true 0) 7 0 ∧ ok (lockOf true 1) 7 0
    ∧ (let c := syncOf 7 0
       let Q := { queueOf [c] with window := some 5 }
       let s := { syncWorld (lockOf true 0) [c] with queues := [(0, Q)] }
       syncCmd s 0 7 = some (Q, c) ∧ inWindow Q c = true ∧ syncTarget s Q c = some 65535 ∧ syncAt s 65535 = some (lockOf true 0)) := by
  dsimp only
  repeat' apply And.intro
  all_goals decide +kernel

theorem syncBarriers_witness :
    let s (o : SyncObj) (n m : Nat) : State :=
      { world { jobOf with syncs := [65535], modules := n, moduleIdx := m } [syncOf 8 0] with sync := [(65535, o)] }
    let ok (o : SyncObj) (n m : Nat) : Prop :=
      let c := syncOf 8 0
      syncCmd (s o n m) 0 8 = some (queueOf [c], c) ∧ syncTarget (s o n m) (queueOf [c]) c = some 65535 ∧ syncAt (s o n m) 65535 = some o
        ∧ (jobAt (s o n m) o.job).map (fun J => (J.modules, J.moduleIdx)) = some (n, m)
    let bar (arrived : Nat) : SyncObj := { type := 4, job := 7, parties := 2, arrived }
    let wide (arrived : Nat) (tokens : List Nat) : SyncObj := { bar arrived with jobWide := true, tokens }
    (ok (bar 0) 1 0 ∧ (bar 0).arrived + 1 ≠ (bar 0).parties) ∧ (ok (bar 1) 1 0 ∧ (bar 1).arrived + 1 = (bar 1).parties)
    ∧ ok (wide 1 []) 1 0
    ∧ (ok (wide 1 []) 2 0 ∧ (wide 1 []).tokens.length + 1 < 2) ∧ (ok (wide 1 [1]) 2 0 ∧ 2 ≤ (wide 1 [1]).tokens.length + 1)
    ∧ ok { wide 1 [] with released := true } 2 1 ∧ ok (wide 1 []) 2 1
    ∧ (ok (wide 0 [1]) 3 0 ∧ 1 ∈ (wide 0 [1]).tokens ∧ 2 ∉ (wide 0 [1]).tokens ∧ (wide 0 [1]).localDone = false ∧ (wide 0 [1]).told = false)
    ∧ (ok { wide 0 [1] with localDone := true } 3 0 ∧ 3 ≤ (wide 0 [1]).tokens.length + 2)
    ∧ ok { wide 0 [] with told := true } 3 1 := by
  dsimp only
  repeat' apply And.intro
  all_goals decide +kernel

/-- Queue 0 with a launch at count, the counter locked or not. -/
def launchWorld (value now locked : Nat) : State := dset { world jobOf [syncOf 9 value] with now } 0x6F00 2 locked

/-- A counter wait that waits since beat 4. -/
def waitingOf (backstopped : Bool) : Cmd := { syncOf 2 9 with waiting := true, waitSince := 4, backstopped }

/-- Queue 0 waits for a counter that only its own later command adds to: a cycle. -/
def cycleWorld (backstopped : Bool) : State := syncWorld (counterOf 0) [waitingOf backstopped, { syncOf 1 9 with uid := 6, state := .fetched }]

theorem launchesAndWaitBounds_witness :
    let ok (s : State) (v : Nat) : Prop :=
      syncCmd s 0 9 = some (queueOf [syncOf 9 v], syncOf 9 v) ∧ yValue (syncOf 9 v).bytes = v
        ∧ ((queueOf [syncOf 9 v]).job.bind (jobAt s)).map (oneDomain s) = some true
    (ok (launchWorld 100 100 1) 100 ∧ dnum (launchWorld 100 100 1) 0x6F00 2 = 1)
    ∧ (ok (launchWorld (100 + 2 ^ 36) 100 1) (100 + 2 ^ 36) ∧ 100 < 100 + 2 ^ 36 ∧ 100 + 2 ^ 36 ≤ 100 + 2 ^ 36)
    ∧ (ok (launchWorld (101 + 2 ^ 36) 100 1) (101 + 2 ^ 36) ∧ 100 + 2 ^ 36 < 101 + 2 ^ 36)
    ∧ (ok (launchWorld 99 100 1) 99 ∧ 99 < 100)
    ∧ (ok (launchWorld 99 100 0) 99 ∧ dnum (launchWorld 99 100 0) 0x6F00 2 ≠ 1)
    ∧ (let J := { jobOf with modules := 2 }
       let s := dsetB (dset (dset { world J [syncOf 9 100] with now := 100 } 0x6F00 2 1) 0xA000 1 0xFFF) 0xA200 1 [0, 0, 1, 0]
       syncCmd s 0 9 = some (queueOf [syncOf 9 100], syncOf 9 100) ∧ ((queueOf [syncOf 9 100]).job.bind (jobAt s)) = some J ∧ oneDomain s J = false)
    ∧ (let c := { syncOf 9 100 with waiting := true };
       queueAt (world jobOf [c]) 0 = some (queueOf [c]) ∧ ((queueOf [c]).cmds.find? fun c => c.op = 5 && yOp c.bytes = 9 && c.waiting) = some c)
    ∧ (let s := cycleWorld false
       let Q := queueOf [waitingOf false, { syncOf 1 9 with uid := 6, state := .fetched }]
       queueAt s 0 = some Q ∧ (waitingOf false).waiting = true ∧ youngest s (cycleQueues s 0 Q.part) = some 0 ∧ throttledKill s Q = false
         ∧ (∀ e ∈ Q.cmds, e.uid = (waitingOf false).uid → e.kills < 3 ∧ e.heldTo = 0 ∧ e.state = .started))
    ∧ (let l := [waitingOf false, { syncOf 1 9 with uid := 6, state := .fetched }, cmdOf 7 1 []]
       let s := { syncWorld (counterOf 0) l with clusters := [(0, { throttled := true })] }
       queueAt s 0 = some (queueOf l) ∧ youngest s (cycleQueues s 0 0) = some 0 ∧ throttledKill s (queueOf l) = true)
    ∧ (youngest (cycleWorld true) (cycleQueues (cycleWorld true) 0 0) = some 0 ∧ (waitingOf true).backstopped = true) := by
  dsimp only
  repeat' apply And.intro
  all_goals decide +kernel

/-- No queue waits for another where the only queue waits for a counter that no command adds to. -/
theorem noCycle_witness :
    let s := syncWorld (counterOf 0) [waitingOf false]
    (∀ p, waitEdges s p = []) ∧ dnum s 0x6F00 5 < 2 ^ 32 - 1 := by
  refine ⟨fun p => ?_, by decide +kernel⟩
  by_cases h : p = 0
  · subst h; decide +kernel
  · have : queueAt (syncWorld (counterOf 0) [waitingOf false]) p = none := by
      simp [queueAt, syncWorld, world, FMap.get?, Ne.symm h]
    simp [waitEdges, this]

theorem commitWindow_witness :
    let k := cmdOf 9 6 []
    let d (uid n : Nat) : Cmd := { syncOf 1 n with uid, state := .finished 0 }
    (let Q := queueOf [k]; queueAt (world jobOf [k]) 0 = some Q ∧ (Q.cmds.find? fun c => c.op = 6 && c.state = .started) = some k
      ∧ mayCommit Q k = true ∧ Q.window = none ∧ (Q.cmds.takeWhile fun c => c.uid ≠ k.uid) = [])
    ∧ (∀ n ∈ [2 ^ 64 - 2, 2 ^ 64 - 1],
       let l := [d 5 n, d 6 1]
       let Q := { queueOf (l ++ [k]) with window := some 5 }
       let s := { syncWorld (counterOf 0) [] with queues := [(0, Q)] }
       queueAt s 0 = some Q ∧ (Q.cmds.find? fun c => c.op = 6 && c.state = .started) = some k ∧ mayCommit Q k = true
         ∧ (l.all fun c => 5 ≤ c.uid && c.done && !c.failed && c.acked) = true ∧ (Q.cmds.takeWhile fun c => c.uid ≠ k.uid) = l
         ∧ windowFault s 0 Q s.sync l = if n = 2 ^ 64 - 1 then some (d 6 1, 0x0504) else none) := by
  dsimp only
  repeat' apply And.intro
  all_goals decide +kernel

/-! ## Witnesses: engines -/

/-- An ARRAY of one column and one row for one live token, without reed; MODE and one field more as given. -/
def arrayOf (mode : Nat) (l : List (Nat × List Byte)) : Cmd :=
  { uid := 5, state := .started
    bytes := bytesOf 128 ([(0, [1]), (16, toLe 4 1), (20, toLe 4 2), (24, toLe 4 3), (54, toLe 1 mode), (64, toLe 4 (2 ^ 31 + 1))] ++ l) }

/-- The carried sum 2⁴⁷ − `n` for token 0, with weight and input code 1. -/
def carryViews (n : Nat) : FMap Mem :=
  [(1, [(0, 1)]), (2, Mem.write [] 0 [1]), (4, Mem.write [] 0 (toLe 8 (2 ^ 47 - n)))]

theorem arrayCompletes_witness :
    let ok (c : Cmd) : Prop := arrayCmd (world jobOf [c]) 0 = some (queueOf [c], c, 7, jobOf) ∧ covered c.bytes = []
      ∧ poisonMet (world jobOf [c]) (queueOf [c]) c = none ∧ (coreAt (world jobOf [c]) c.core).mergeOwner ≠ some (0, c.uid)
      ∧ (aGrouped c.bytes && decide (256 < aRed c.bytes)) = false
    let a (c : Cmd) : ArrayIn := (arrayIn (world jobOf [c]) (queueOf [c]) c 7 jobOf).1
    let c (n : Nat) : Cmd := { arrayOf 16 [(28, toLe 4 4)] with views := carryViews n }
    (ok (c 1) ∧ overflowAt (a (c 1)) = some (0, 0) ∧ mergeWaits (world jobOf [c 1]) (c 1) = [])
    ∧ (ok (c 2) ∧ overflowAt (a (c 2)) = none ∧ aZeroK (c 2).bytes = false ∧ aFp32 (c 2).bytes = false ∧ 0 < aReds (c 2).bytes
        ∧ aFinal (c 2).bytes 0 = true ∧ 0 < aFeat (c 2).bytes 0 ∧ (c 2).core < 32
        ∧ dnum (world jobOf [c 2]) (0x6300 + (c 2).core) 1 + aPasses (c 2).bytes * aCols (c 2).bytes < 2 ^ 64)
    ∧ (let c : Cmd := { arrayOf 0 [] with views := [(2, Mem.write [] 65536 (toLe 4 0x3F800000))] };
       aZeroK (a c).r = false ∧ aGrouped (a c).r = false ∧ rH (a c).r 32 = 0 ∧ (a c).views = [] ∧ aCarryIn (a c).r = false
         ∧ validScale (weightScale (a c) ((0 + 1) * aRed (a c).r - 1) 0) = true ∧ 1 ≤ aRed (a c).r) := by
  dsimp only
  repeat' apply And.intro
  all_goals decide +kernel

theorem arrayWaits_witness :
    (let c := arrayOf 0 [(46, toLe 2 511), (64, (List.replicate 7 (toLe 4 (2 ^ 31 + 2 ^ 30 + 1))).flatten)]
     arrayCmd (world jobOf [c]) 0 = some (queueOf [c], c, 7, jobOf) ∧ poisonMet (world jobOf [c]) (queueOf [c]) c = none
       ∧ mergeWaits (world jobOf [c]) c = [(0, 9)])
    ∧ (let J := { jobOf with reds := [{ id := 9, chunks := 257, partials := 2, integer := false, op := 0, route := 1, length := 257 }] }
       let many (red : Nat) (sent : Bool) : Cmd := { arrayOf 2 [(28, toLe 4 red), (48, toLe 2 256), (52, toLe 2 256)] with sent }
       let a (s : State) (c : Cmd) : ArrayIn := (arrayIn s (queueOf [c]) c 7 J).1
       (∀ c ∈ [many 8 false, many 9 false, many 9 true],
         arrayCmd (world J [c]) 0 = some (queueOf [c], c, 7, J) ∧ mergeWaits (world J [c]) c = [] ∧ overflowAt (a (world J [c]) c) = none
           ∧ aGrouped c.bytes = true ∧ 256 < aRed c.bytes)
       ∧ (sendGroups (world J [many 8 false]) (many 8 false) (a (world J [many 8 false]) (many 8 false))).2 = 0x0E23
       ∧ (sendGroups (world J [many 9 false]) (many 9 false) (a (world J [many 9 false]) (many 9 false))).2 = 0
       ∧ rootsHere (world J [many 9 true]) (a (world J [many 9 true]) (many 9 true)) = false
       ∧ (let s := { world J [many 9 true] with reds := [(redKey 7 9, { root := some [], delivered := true })] };
          rootsHere s (a s (many 9 true)) = true)) := by
  dsimp only
  repeat' apply And.intro
  all_goals decide +kernel

/-- A mover request of queue `q` for command 5. -/
def reqOf (q : Nat) (kind : MoverKind) : MoverReq :=
  { mover := 3, queue := q, cmd := 5, kind, deadline := 9, offset := 0, length := 64, issuedAt := 0 }

/-- A MOVE of KIND `kind` from buffer 1 to buffer 2, the destination on the module with this index plus one. -/
def moveOf (kind dst : Nat) : Cmd :=
  cmdOf 5 4 [(16, toLe 1 kind), (20, toLe 4 1), (24, toLe 4 2), (36, toLe 8 (dst * 2 ^ 48)), (44, toLe 4 64), (56, toLe 4 1)]

theorem mergesAndTiles_witness :
    let s (k : Core) (l : List Cmd) : State := { world jobOf l with cores := [(0, k)] }
    let full : Core := { mergeQueue := List.replicate 63 0, mergeWait := some 4, mergePlan := [(4, 9), (68, 3)], mergeOwner := some (0, 5) }
    let c := arrayOf 0 []
    clockStopped { world jobOf [] with clusters := [(0, { throttled := true })] } 0 = true
    ∧ (clockStopped (s full []) 0 = false ∧ (coreAt (s full []) 0).mergeWait ≠ some 5 ∧ (coreAt (s full []) 0).mergeQueue.length < 64)
    ∧ ((coreAt (s full [c]) 0).mergeOwner = some (0, c.uid) ∧ (coreAt (s full [c]) 0).mergeWait = some 4
        ∧ (coreAt (s full [c]) 0).mergePlan = [(4, 9), (68, 3)] ∧ queueAt (s full [c]) 0 = some (queueOf [c]) ∧ cmdAt (queueOf [c]) c.uid = some c)
    ∧ (outstanding (coreAt (s { movers := List.replicate 32 (reqOf 9 .moveData) } []) 0) 3 ≤ 32
        ∧ firstReq [reqOf 9 .moveData, reqOf 8 .moveData] = some (reqOf 8 .moveData) ∧ firstReq [] = none)
    ∧ (let c := { moveOf 0 0 with awaiting := 1, uses := [verKey 1 0] }
       let s := { s { movers := [reqOf 0 .moveData] } [c] with now := 9, bufs := [(1, bufOf 64)] }
       let x := reqOf 0 .moveData
       queueAt s x.queue = some (queueOf [c]) ∧ cmdAt (queueOf [c]) x.cmd = some c ∧ c.op = 4 ∧ x.kind = .moveData ∧ s.now ≤ x.deadline
         ∧ reqBound (updCmd s 0 5 fun c => { c with awaiting := c.awaiting - 1 }) (queueOf [c]) { c with awaiting := c.awaiting - 1 } x = some 400
         ∧ s.now ≤ x.issuedAt + 400)
    ∧ (∀ now ∈ [0, 5],
       let c := arrayOf 8 []
       let s := { world jobOf [c] with now }
       queueAt s 0 = some (queueOf [c]) ∧ cmdAt (queueOf [c]) c.uid = some c ∧ c.op = 1 ∧ c.cycle0 = none ∧ streamsIn s (queueOf [c]) c = true
         ∧ earliest0 s 0 c = 0) := by
  dsimp only
  repeat' apply And.intro
  all_goals decide +kernel

/-- A VECTOR command whose program is these instruction words. -/
def programOf (words : List Nat) : Cmd :=
  { cmdOf 5 2 [(16, toLe 4 1)] with views := [(1, Mem.write [] 0 (words.flatMap (toLe 8)))] }

theorem vectorCommand_witness :
    let ok (c : Cmd) : Prop := queueAt (world jobOf [c]) 0 = some (queueOf [c]) ∧ (runningCmd (queueOf [c]) fun c => c.op = 2) = some c
      ∧ cmdAt (queueOf [c]) c.uid = some c ∧ (vecOf (world jobOf [c]) c.core).owner = none
      ∧ vecMet (updVec (world jobOf [c]) c.core fun _ => { owner := some (0, c.uid) }) c.core = none
    let s1 (c : Cmd) : State := updVec (world jobOf [c]) c.core fun _ => { owner := some (0, c.uid) }
    let word (s : State) (c : Cmd) (pc : Nat) : Option Nat := (vecOwner s c.core).map fun o => wordH o.2.1 o.2.2 (rH o.2.2.bytes 16) (8 * pc) 8
    let stop := 0x3F * 2 ^ 56
    let one := programOf [stop]
    let two := programOf [0x1C * 2 ^ 56, stop]
    (ok one ∧ word (s1 one) one 0 = some stop ∧ vOp stop = 0x3F)
    ∧ (ok two ∧ word (s1 two) two 0 = some (0x1C * 2 ^ 56) ∧ vOp (0x1C * 2 ^ 56) ≠ 0x3F
        ∧ (let s2 := vecIssue 0x1C two.core (vArgs (0x1C * 2 ^ 56)) (s1 two)
           (vecOf s2 two.core).pc = 1 ∧ vecMet s2 two.core = none ∧ word s2 two 1 = some stop)) := by
  dsimp only
  repeat' apply And.intro
  all_goals decide +kernel

theorem reedCommands_witness :
    ∀ kind ∈ [1, 2, 3, 4],
      let c := { cmdOf 5 3 [(16, toLe 1 kind)] with bytes := bytesOf 128 [(0, [3]), (16, toLe 1 kind)] }
      reedCmd (world jobOf [c]) 0 kind = some (queueOf [c], c, jobOf) ∧ cmdAt (queueOf [c]) c.uid = some c
        ∧ poisonMet (world jobOf [c]) (queueOf [c]) c = none := by
  decide +kernel

theorem accumulators_witness :
    (([(0, -1), (2 ^ 32, 1)] : List (Nat × Int)).map Prod.fst).Nodup ∧ (0, (-1 : Int)) ∈ [(0, (-1 : Int)), (2 ^ 32, 1)] ∧ 1 ∉ [0, 2 ^ 32] ∧ 63 < 64
      ∧ (let h (arrived : Nat) := (Mem.write [] 0 (bytesOf 64 [(56, toLe 4 arrived), (60, toLe 4 2)])).read 0 64
         hArrived (h 0) + 1 ≠ hExpected (h 0) ∧ hArrived (h 1) + 1 = hExpected (h 1)) := by
  refine ⟨by decide, by decide, by decide, by decide, ?_⟩
  decide +kernel

theorem moves_witness :
    let ok (c : Cmd) (kind : Nat) : Prop := moveCmd (world jobOf [c]) 0 kind = some (queueOf [c], c) ∧ cmdAt (queueOf [c]) c.uid = some c
      ∧ poisonMet (world jobOf [c]) (queueOf [c]) c = none
    (∀ kind ∈ [0, 1], let c := moveOf kind 0
      ok c kind ∧ mSrcModule c.bytes = 0 ∧ mDstModule c.bytes = 0 ∧ mSrc c.bytes % 2 ^ 20 ≠ mDst c.bytes % 2 ^ 20 ∧ mRows c.bytes = 1
        ∧ ((usedBuf (world jobOf [c]) c (bufKey 0 2)).any fun b => b.tier = 1 && b.cls = 3) = false)
    ∧ (let c := moveOf 0 4096
       ok c 0 ∧ mSrcModule c.bytes = 0 ∧ mDstModule c.bytes ≠ 0 ∧ (queueOf [c]).job = some 7 ∧ jobAt (world jobOf [c]) 7 = some jobOf
         ∧ ((queueOf [c]).cmds.find? fun c => c.remote && c.state ≠ .fetched && !c.failed) = some c)
    ∧ (let c := { moveOf 0 4096 with acked := false }
       ((queueOf [c]).cmds.find? fun c => !c.acked) = some c ∧ cmdAt (queueOf [c]) c.uid = some c) := by
  dsimp only
  repeat' apply And.intro
  all_goals decide +kernel

theorem movesElsewhere_witness :
    (let c := { moveOf 1 0 with uses := [verKey 2 0] }
     let s := { world jobOf [c] with bufs := [(2, { bufOf 128 with cls := 3 })] }
     moveCmd s 0 1 = some (queueOf [c], c) ∧ cmdAt (queueOf [c]) c.uid = some c ∧ poisonMet s (queueOf [c]) c = none ∧ mDstModule c.bytes = 0
       ∧ ((usedBuf s c (verBuf (hVer 0 (mDst c.bytes)))).any fun b => b.tier = 1 && b.cls = 3) = true ∧ jobAt s 7 = some jobOf)
    ∧ (let c := { moveOf 0 2 with acked := false }
       let s := dsetB (dset { world { jobOf with modules := 2 } [c] with now := 2 ^ 40 } 0xA000 1 0xFFF) 0xA200 1 [0, 0, 1, 0]
       queueAt s 0 = some (queueOf [c]) ∧ ((queueOf [c]).cmds.find? fun c => !c.acked) = some c ∧ cmdAt (queueOf [c]) c.uid = some c
         ∧ ackPlanned s 0 (queueOf [c]) c < s.now ∧ (firstTrunk s (remoteModule s 0 c)).map (fun d => (livePorts s d).length) = some 0) := by
  dsimp only
  repeat' apply And.intro
  all_goals decide +kernel

theorem sweep_witness :
    ∀ w ∈ [Window.committed, .skipped, .refused, .none],
      let c := cmdOf 5 7 []
      let J := { jobOf with window := w }
      let s := world J [c]
      queueAt s 0 = some (queueOf [c]) ∧ (runningCmd (queueOf [c]) fun c => c.op = 7) = some c ∧ cmdAt (queueOf [c]) c.uid = some c
        ∧ (queueOf [c]).job = some 7 ∧ jobAt s 7 = some J ∧ poisonMet s (queueOf [c]) c = none := by
  decide +kernel

/-! ## Witnesses: the step boundary -/

/-- A STEP that lists these rings, arrived or not. -/
def stepCmd (rings : List Nat) (arrived : Bool) : Cmd :=
  { cmdOf 5 13 [(16, toLe 4 1), (20, toLe 4 rings.length)] with views := [(1, Mem.write [] 0 (rings.flatMap (toLe 4)))], arrived }

/-- A job with one ring, 9, and its accumulator in buffer 4. -/
def stepJob : Job := { jobOf with
  rings := [(9, { tensorId := 0, init := 0x3F800000, margin := 0x3F800000, h := 1, checked := true, scale := 0x3F800000, recip := 0x3F800000 })]
  accs := [4], firstArrival := some 3 }

/-- The accumulator with ARRIVED 1 or 0 of 2. -/
def accWorld (arrived : Nat) (c : Cmd) : State :=
  { world stepJob [c] with bufs := [(4, { bufOf 128 with cls := 3, data := Mem.write [] 0 (bytesOf 64 [(56, toLe 4 arrived), (60, toLe 4 2)]) })] }

theorem stepArrivesOrFails_witness :
    (let c := stepCmd [9] false
     stepOf (world stepJob [c]) 0 = some (queueOf [c], c) ∧ (queueOf [c]).job = some 7 ∧ jobAt (world stepJob [c]) 7 = some stepJob ∧ c.arrived = false
       ∧ poisonMet (world stepJob [c]) (queueOf [c]) c = none
       ∧ stepJob.firstArrival = some 3 ∧ allArrived (world stepJob [c]) stepJob = false)
    ∧ (let s := accWorld 1 (stepCmd [9] true)
       jobAt s 7 = some stepJob ∧ stepJob.part < 32 ∧ allArrived s stepJob = true ∧ stepJob.roles ≠ [] ∧ openAccs s stepJob ≠ 0)
    ∧ (let s := accWorld 0 (stepCmd [9, 9] true)
       allArrived s stepJob = true ∧ openAccs s stepJob = 0 ∧ ¬(stepList s stepJob).Nodup)
    ∧ (let s := accWorld 0 (stepCmd [8] true)
       openAccs s stepJob = 0 ∧ 8 ∈ stepList s stepJob ∧ FMap.has stepJob.rings 8 = false)
    ∧ (let s := accWorld 0 (stepCmd [9] true)
       openAccs s stepJob = 0 ∧ (stepList s stepJob).length + 1 ≠ stepJob.modules * (stepList s stepJob).length) := by
  repeat' apply And.intro
  all_goals decide +kernel

theorem stepBoundary_witness :
    let s := accWorld 0 (stepCmd [9] true)
    (jobAt s 7 = some stepJob ∧ stepJob.roles ≠ [] ∧ allArrived s stepJob = true ∧ openAccs s stepJob = 0 ∧ stepList s stepJob = [9]
      ∧ FMap.has stepJob.rings 9 = true ∧ stepJob.modules = 1)
    ∧ (let sum (o : Obs) (sums : List Nat) : RingSum := ringSum { stepJob with obs := [(9, o)] } ⟨[0, 0, 0, 0], sums, [0]⟩ 0 9
       (sum { elements := 1009, clipped := 1 } []).clipped * 65536 ≤ (sum { elements := 1009, clipped := 1 } []).elements * stepJob.clipT
         ∧ (sum { elements := 1008, clipped := 1 } []).elements * stepJob.clipT < (sum { elements := 1008, clipped := 1 } []).clipped * 65536
         ∧ (sum {} [1, 0, 0]).nonfinite ≠ 0) := by
  dsimp only
  repeat' apply And.intro
  all_goals decide +kernel

/-! ## Witnesses: the front end -/

theorem ringFetch_witness :
    let full (Q : Queue) : State := { State.reset with queues := [(0, Q)] }
    let Q : Queue := { queueOf [] with tail := 0, head := 2 ^ 32 - 2, expected := 2 ^ 32 - 1 }
    let nop := bytesOf 64 [(0, [15]), (4, toLe 4 (2 ^ 32 - 1))]
    (queueAt (full Q) 0 = some Q ∧ mayFetch Q (recordCount nop) = true ∧ inReset (full Q) Q.fn = false
      ∧ fetchPaused (full Q) Q = false ∧ Q.ringHbm = true ∧ fetchStatus (full Q) Q (slice nop 0 (64 * recordCount nop)) = 0)
    ∧ (mayFetch (queueOf []) 1 = false
      ∧ fetchPaused { full { Q with ringHbm := false } with host := { State.reset.host with pausedTo := 1 } } { Q with ringHbm := false } = true)
    ∧ (∀ beat ∈ [7, 4],
       let rec7 := bytesOf 32 [(0, toLe 8 2), (8, [7])]
       let rec2 := bytesOf 32 [(0, toLe 8 beat), (8, [2]), (24, toLe 4 64), (28, toLe 4 (crc32c nop))]
       let J := { jobOf with replay := some [rec7, rec2], launched := some 0 }
       let s := { world J [] with queues := [(0, { Q with ringHbm := false })], now := 2 }
       (replayInput s 7 2 0 0 nop).2 = if beat = 4 then none else some 5)
    ∧ (let array := bytesOf 128 [(0, [1])];
       mayFetch Q (recordCount array) = true ∧ fetchStatus (full Q) Q (slice array 0 (64 * recordCount array)) ≠ 0)
    ∧ ({ Q with quarantined := true } : Queue).quarantined = true
    ∧ (Q.quarantined = false ∧ opKnown (rOp (bytesOf 64 [(0, [15]), (63, [1])])) = true ∧ reservedOk (bytesOf 64 [(0, [15]), (63, [1])]) = false)
    ∧ (∀ op ∈ [0, 1, 3, 8, 12, 13, 14, 16, 255], let r := bytesOf 64 [(0, toLe 1 op)]
        (reservedOk r = true ∨ opKnown (rOp r) = false) ∧ rOp r ∉ [4, 5, 6, 9, 10, 11, 15])
    ∧ (let r := bytesOf 64 [(0, [15])];
       reservedOk r = true ∧ rOp r ∈ [4, 5, 6, 9, 10, 11, 15] ∧ rExt r = false ∧ rSeq r ≠ Q.expected) := by
  dsimp only
  repeat' apply And.intro
  all_goals decide +kernel

/-- A fetched command of opcode `op`. -/
def fetchedOf (op : Nat) (l : List (Nat × List Byte)) : Cmd := { cmdOf 5 op l with state := .fetched }

theorem commandStarts_witness :
    let J := { jobOf with grant := .holding }
    let ok (s : State) (Q : Queue) (c : Cmd) : Prop := nextStart s 0 = some (Q, c) ∧ localize (Q.job.bind (jobAt s)) c.bytes = c.bytes
    (let c := { fetchedOf 6 [] with stream := some 0 }
     ok (world jobOf [c]) (queueOf [c]) c ∧ needsGrant c = true ∧ granted (world jobOf [c]) (queueOf [c]) = false)
    ∧ (let l := (List.range 64).map fun i => { cmdOf i 4 [] with state := .finished 0 }
       let c := { fetchedOf 15 [] with uid := 64 }
       let Q := { queueOf (l ++ [c]) with window := some 0 }
       let s := { world J [] with queues := [(0, Q)] }
       ok s Q c ∧ needsGrant c = false ∧ coreReady s c = true ∧ windowFull Q c = true)
    ∧ (let c := fetchedOf 9 [(1, [4])]
       let s := world J [c]
       ok s (queueOf [c]) c ∧ needsGrant c = false ∧ coreReady s c = true ∧ windowFull (queueOf [c]) c = false ∧ startStatus s 0 (queueOf [c]) c = 0x0205
         ∧ c.op ≠ 10)
    ∧ (let c := fetchedOf 4 [(20, toLe 4 1), (24, toLe 4 1), (44, toLe 4 64), (56, toLe 4 1)]
       let on : Core := { power := .on }
       let s := { world J [c] with
         cores := [(0, on)], bufs := [(1, { bufOf 64 with tier := 2, ownerQ := some 0 })], index := [(1, { ever := true, live := true })]
         tiered := [(1, { state := .promoting })] }
       ok s (queueOf [c]) c ∧ coreReady s c = true ∧ windowFull (queueOf [c]) c = false ∧ startStatus s 0 (queueOf [c]) c = 0
         ∧ startWait s 0 (waitFields s (queueOf [c]) c) ≠ none)
    ∧ (let c := { fetchedOf 15 [(1, [4])] with stream := some 0 }
       let s := world J [c]
       ok s (queueOf [c]) c ∧ needsGrant c = true ∧ granted s (queueOf [c]) = true ∧ coreReady s c = true ∧ windowFull (queueOf [c]) c = false
         ∧ startStatus s 0 (queueOf [c]) c = 0 ∧ startWait s 0 (waitFields s (queueOf [c]) c) = none)
    ∧ (let c := fetchedOf 4 [(20, toLe 4 1), (24, toLe 4 1), (44, toLe 4 64), (56, toLe 4 1)]
       let s := world J [c]
       ok s (queueOf [c]) c ∧ coreReady s c = false)
    ∧ (let c := fetchedOf 10 [(16, toLe 4 1)]
       let s := { world J [c] with bufs := [(1, { bufOf 64 with ownerQ := some 1 })], index := [(1, { ever := true, live := true })] }
       ok s (queueOf [c]) c ∧ coreReady s c = true ∧ windowFull (queueOf [c]) c = false ∧ startStatus s 0 (queueOf [c]) c = 0x0211 ∧ c.op = 10
         ∧ freeStatus (startStatus s 0 (queueOf [c]) c) = true) := by
  dsimp only
  repeat' apply And.intro
  all_goals decide +kernel

theorem commandCommits_witness :
    let w : StageWrite := ⟨verKey 1 4095, 0, [7]⟩
    let c : Cmd := { cmdOf 5 4 [] with state := .finished 0x0F01, staged := [w], uses := [verKey 1 4095] }
    let b : Buf := { bufOf 64 with gen := 4095 }
    let s := { world jobOf [c] with bufs := [(1, b)] }
    queueAt s 0 = some (queueOf [c]) ∧ (queueOf [c]).cmds = c :: [] ∧ c.failed = false ∧ c.acked = true ∧ c.heldTo ≤ s.now
      ∧ inWindow (queueOf [c]) c = false ∧ mayCommit (queueOf [c]) c = true ∧ (queueOf [c]).cplHbm = false
      ∧ FMap.get? s.bufs 1 = some b ∧ (∀ e ∈ s.bufs, e.1 = 1 → e.2 = b) ∧ b.freed = false := by
  decide +kernel

theorem killReturnsCommands_witness :
    (∀ k ∈ [0, 1, 2], let c : Cmd := { cmdOf 5 4 [] with kills := k }
      let s := { world jobOf [c] with cores := [(0, { faultKills := List.replicate 14 0 })] }
      queueAt s 0 = some (queueOf [c]) ∧ (queueOf [c]).cmds = [c] ∧ c.state = .started ∧ c.heldTo = 0 ∧ throttledKill s (queueOf [c]) = false
        ∧ (coreAt s c.core).faultKills.length < 15 ∧ c.kills < 3)
    ∧ (let c := cmdOf 5 1 []
       let s := { world jobOf [c] with clusters := [(0, { throttled := true })] }
       queueAt s 0 = some (queueOf [c]) ∧ throttledKill s (queueOf [c]) = true) := by
  decide +kernel

/-- A stream of one NOP, run by role 0. -/
def streamOf : Stream := { role := 0, params := 0, cmds := [bytesOf 64 [(0, [15])]] }

theorem nopYieldRun_witness :
    (let c := cmdOf 5 15 []; oldestOf (world jobOf [c]) 0 15 = some (queueOf [c], c))
    ∧ (let c := cmdOf 5 8 []; oldestOf (world jobOf [c]) 0 8 = some (queueOf [c], c))
    ∧ (let c := cmdOf 5 15 []
       let Q := { queueOf [c] with window := some 5 }
       let s := { world jobOf [] with queues := [(0, Q)] }
       oldestOf s 0 15 = none ∧ queueAt s 0 = some Q ∧ (Q.cmds.find? fun c => c.op = 15 && c.state = .started && inWindow Q c) = some c)
    ∧ (let c := cmdOf 5 11 []
       let J := { jobOf with streams := [streamOf] }
       let Q := queueOf [c]
       (queueAt (world J [c]) 0 = some Q ∧ (Q.cmds.find? fun c => c.op = 11 && c.state = .started) = some c ∧ runStatus (world J [c]) 0 Q c = 0
         ∧ Q.job = some 7 ∧ jobAt (world J [c]) 7 = some J ∧ J.streams[field c.bytes 16 4]? = some streamOf ∧ streamOf.cmds ≠ [])
       ∧ runStream (world jobOf [c]) 0 Q c = none ∧ runStatus (world jobOf [c]) 0 Q c ≠ 0) := by
  dsimp only
  repeat' apply And.intro
  all_goals decide +kernel

/-- The buffer table of partition 0 with its first `n` indices after index 0 live. -/
def fullIndex (n : Nat) : FMap IndexState := (List.range n).map fun i => (i + 1, { ever := true, live := true })

theorem lowestFree_fullIndex (n : Nat) (hn : n < 2 ^ 20) : lowestFree { State.reset with index := fullIndex n } 0 = n + 1 := by
  have h : ∀ m, m < 2 ^ 20 → ((fullIndex m).filter fun e => keyPart e.1 = 0 && (e.2.live || e.2.retired)) = fullIndex m := by
    intro m hm
    simp only [fullIndex, keyPart, List.filter_eq_self, List.mem_map, List.mem_range]
    rintro _ ⟨i, hi, rfl⟩
    have : i + 1 < 2 ^ 20 := by omega
    simp only [Nat.div_eq_of_lt this, decide_true, Bool.true_or, Bool.and_true]
  simp only [lowestFree, h n hn]
  induction n with
  | zero => rfl
  | succ n ih =>
    have : n + 1 < 2 ^ 20 := hn
    have step := ih (by omega)
    simp only [fullIndex, List.range_succ, List.map_append, List.foldl_append, List.map_cons, List.map_nil, List.foldl_cons, List.foldl_nil] at step ⊢
    rw [step, Nat.mod_eq_of_lt this, if_pos rfl]

/-- No index is free where all of them are live. -/
theorem indexExhausted_witness : 2 ^ 20 ≤ lowestFree { State.reset with index := fullIndex (2 ^ 20 - 1) } 0 := by
  rw [lowestFree_fullIndex _ (by decide)]; decide

theorem allocAndFree_witness :
    let s (c : Cmd) (hbm : Nat) : State := dset { world jobOf [] with queues := [(0, { queueOf [c] with ringHbm := false })] } 0x5000 3 hbm
    let Q (c : Cmd) : Queue := { queueOf [c] with ringHbm := false }
    let a := cmdOf 5 9 [(16, [1]), (18, [6]), (20, toLe 8 65536)]
    (oldestOf (s a (2 ^ 27 + 65535)) 0 9 = some (Q a, a) ∧ queueAt (s a (2 ^ 27 + 65535)) 0 = some (Q a) ∧ lowestFree (s a (2 ^ 27 + 65535)) 0 < 2 ^ 20
      ∧ mayCharge (s a (2 ^ 27 + 65535)) 0 0 1 (charge64 65536) = false)
    ∧ (oldestOf (s a (2 ^ 27 + 65536)) 0 9 = some (Q a, a) ∧ mayCharge (s a (2 ^ 27 + 65536)) 0 0 1 (charge64 65536) = true ∧ RunGoesOn (Q a) a ∧ a.staged = [] ∧ a.stream = none
      ∧ (Q a).cplHbm = false ∧ (Q a).running = none ∧ NoHeldStorage (s a (2 ^ 27 + 65536)))
    ∧ (let f := cmdOf 5 10 [(16, toLe 4 1)]
       let s (b : Buf) : State := { world jobOf [f] with bufs := [(1, b)], index := [(1, { gen := b.gen, ever := true, live := true })] }
       let ok (b : Buf) : Prop := oldestOf (s b) 0 10 = some (queueOf [f], f) ∧ FMap.get? (s b).bufs (bufKey 0 1) = some b ∧ everHeld (s b) 0 1 = true
         ∧ RunGoesOn (queueOf [f]) f ∧ f.staged = [] ∧ NoHeldStorage (s b)
       freeCheck (world jobOf [f]) 0 (queueOf [f]) 1 = 0x0201
         ∧ (ok { bufOf 64 with ownerQ := some 0 } ∧ ((startedCmds (s { bufOf 64 with ownerQ := some 0 })).any fun d => d.uses.contains (verKey 1 0)) = false)
         ∧ (ok { bufOf 64 with gen := 1 } ∧ 1 ≠ hGen 1) ∧ (ok { bufOf 64 with ownerQ := some 1 } ∧ 0 = hGen 1) ∧ ok { bufOf 64 with base := true }) := by
  simp only [RunGoesOn, NoHeldStorage]
  repeat' apply And.intro
  all_goals decide +kernel

/-! ## Witnesses: doorbells, mailboxes, queue requests -/

theorem doorbell_witness :
    let s (Q : Queue) : State := settle { State.reset with queues := [(8191, Q)] }
    let ok (Q : Queue) : Prop := barsAnswer (s Q) = true ∧ pageQueue (s Q) 0 0 = some (8191, Q) ∧ queueAt (s Q) 8191 = some Q
      ∧ usable (s Q) 0 = true ∧ Q.job = none
    let Q : Queue := { queueOf [] with job := none }
    let word (tail : Nat) : Nat := 8191 * 2 ^ 32 + tail
    ok Q ∧ doorbellOk 8191 Q (word 64) true = true ∧ bits (word 64) 31 0 ≠ Q.tail ∧ doorbellOk 8191 Q (word 0) true = true ∧ bits (word 0) 31 0 = Q.tail
      ∧ doorbellOk 8191 Q (word 65) true = false ∧ doorbellOk 8191 Q (word 64) false = false ∧ ok { Q with quarantined := true } := by
  repeat' apply And.intro
  all_goals decide +kernel

/-- A doorbell to a job in replay whose next record lies at this beat after the launch at 0, and one of a member of the host domain. -/
theorem doorbellElsewhere_witness :
    (∀ beat ∈ [1, 2, 3],
      let r := bytesOf 32 [(0, toLe 8 beat), (8, [1]), (10, toLe 2 8191), (12, toLe 4 64)]
      let Q := queueOf []
      let s : State := settle { world { jobOf with replay := some [r], launched := some 0 } [] with queues := [(8191, Q)], now := 2 }
      queueAt s 8191 = some Q ∧ s.now = 2 ∧ (jobAt s 7).map (fun J => (J.replay, J.launched)) = some (some [r], some 0)
        ∧ [r].find? (fun r => field r 8 1 = 1 && field r 10 2 = 8191) = some r ∧ 0 + field r 0 8 - recordedLaunch [r] = beat
        ∧ field r 12 4 = 64 ∧ field r 24 4 = 0 ∧ field r 28 4 = 0)
    ∧ (let s := settle (dset (dset State.reset 0xA000 1 1) 0xA000 6 (2 ^ 12))
       barsAnswer s = true ∧ usable s 0 = true ∧ domainModule s (8192 / 8192) = some 1)
    ∧ barsAnswer (settle { State.reset with host := { State.reset.host with pausedTo := 1 } }) = false := by
  dsimp only
  repeat' apply And.intro
  all_goals decide +kernel

/-- The state with one mailbox of function `fn`. -/
def mboxWorld (fn : Nat) (b : Mailbox) : State := { State.reset with mbx := [(fn, b)] }

theorem mailbox_witness :
    let b : Mailbox := { page := 1, fresh := false, seq := 2 ^ 32 - 1, posted := 2 ^ 32 - 1, consumed := 2 ^ 32 - 32 }
    let s := settle (mboxWorld 0 b)
    let word (cls frames : Nat) : Nat := cls * 2 ^ 56 + frames * 2 ^ 48 + 31 * 2 ^ 40
    (usable s 0 = true ∧ barsAnswer s = true ∧ (mboxAt s 0).enabled = true ∧ b.accepts (word 3 1) true = true ∧ replayJob s 0 = none ∧ b.inbox = [] ∧ recording s = false)
    ∧ messageStatus 0 { cls := 3, seq := 0, frames := 1, bytes := bytesOf 64 [(0, [4])], arrived := 0 } = 0
    ∧ (messageStatus 0 { cls := 3, seq := 0, frames := 1, bytes := bytesOf 64 [(0, [5])], arrived := 0 } ≠ 0 ∧ b.held.length < 64)
    ∧ (∀ beat ∈ [7, 4],
       let data := bytesOf 64 [(0, [4])]
       let rec7 := bytesOf 32 [(0, toLe 8 2), (8, [7])]
       let rec4 := bytesOf 32 [(0, toLe 8 beat), (8, [4]), (12, [4]), (24, toLe 4 64), (28, toLe 4 (crc32c data))]
       let s := settle { mboxWorld 0 b with jobs := [(7, { jobOf with replay := some [rec7, rec4], launched := some 0 })], now := 2 }
       replayJob s 0 = some 7 ∧ (replayInput s 7 4 0 4 data).2 = if beat = 4 then none else some 5)
    ∧ b.accepts (word 3 2) true = false ∧ b.accepts (word 3 1) false = false := by
  repeat' apply And.intro
  all_goals decide +kernel

theorem mailboxResponse_witness :
    let r : MboxResp := { cls := 1, seq := 0, bytes := zeros 32 }
    let b : Mailbox := { page := 1, held := [r], respWrite := 15, respFrames := List.replicate 15 1 ++ [13] }
    let s := mboxWorld 0 b
    usable s 0 = true ∧ barsAnswer s = true ∧ (mboxAt s 0).held = [r] ∧ (mboxAt s 0).inbox = [] ∧ (mboxAt s 0).enabled = true ∧ r.bytes.length = 32
      ∧ (b.respWrite + 2 ^ 32 - 0) % 2 ^ 32 < 16 ∧ (b.respFrames.drop (b.respFrames.length - 15)).sum < 28
      ∧ 28 < ([27] : List Nat).sum + ({ r with bytes := zeros 128 } : MboxResp).frames := by
  repeat' apply And.intro
  all_goals decide +kernel

/-- A message of class `cls` with the given bytes. -/
def msgOf (cls frames : Nat) (l : List (Nat × List Byte)) : MboxMsg := { cls, seq := 0, frames, bytes := bytesOf (64 * frames) l, arrived := 0 }

/-- The message alone at the head of a function's mailbox. -/
def headWorld (fn : Nat) (m : MboxMsg) (s : State) : State := { s with mbx := [(fn, { page := 1, inbox := [m] })] }

/-- Partition 31 with `n` queue numbers from 8,191 on, the PF allowed one queue. -/
def poolWorld (n : Nat) : State := dset (dset (dset State.reset 0x401F 2 8191) 0x401F 3 n) 0x4020 2 1

theorem queueCreate_witness :
    let m (slots : Nat) := msgOf 1 2 [(0, [1]), (2, [31]), (64 + 16, toLe 4 slots)]
    let s (n slots : Nat) : State := headWorld 0 (m slots) (poolWorld n)
    let ok (n slots : Nat) : Prop := AtHead (s n slots) 0 (m slots) 1 1 ∧ requestPartOk 0 (m slots).bytes = true ∧ field (m slots).bytes 1 1 = 0
    let free (n slots : Nat) : Option Nat := firstFree (FMap.has (s n slots).queues) (dnum (s n slots) 0x401F 2) (dnum (s n slots) 0x401F 3)
    (ok 0 16 ∧ (let s := headWorld 0 (m 16) (dset (poolWorld 1) 0x4020 3 1); dnum s 0x4020 2 ≤ dnum s 0x4020 3))
    ∧ (dnum (s 0 16) 0x4020 3 < dnum (s 0 16) 0x4020 2 ∧ free 0 16 = none)
    ∧ (ok 1 16 ∧ free 1 16 = some 8191 ∧ descriptorOk 0 (slice (m 16).bytes 64 64) = true)
    ∧ (ok 1 15 ∧ free 1 15 = some 8191 ∧ descriptorOk 0 (slice (m 15).bytes 64 64) = false)
    ∧ descriptorOk 0 (slice (m 32768).bytes 64 64) = true ∧ descriptorOk 0 (slice (m 65536).bytes 64 64) = false := by
  simp only [AtHead]
  repeat' apply And.intro
  all_goals decide +kernel

theorem queueRequests_witness :
    let m (op q : Nat) := msgOf 1 2 [(0, toLe 1 op), (8, toLe 2 q)]
    let s (op q : Nat) (Q : Queue) : State := headWorld 0 (m op q) { State.reset with queues := [(8191, Q)] }
    let Q : Queue := { queueOf [] with job := none }
    let ok (op q : Nat) (Q : Queue) : Prop := AtHead (s op q Q) 0 (m op q) 1 op ∧ q = field (m op q).bytes 8 2
    (ok 3 8190 Q ∧ queueRequestStatus (s 3 8190 Q) 0 (m 3 8190).bytes 1 = 0x0803)
    ∧ (let Q := { Q with fn := 1 }
       queueAt (s 3 8191 Q) 8191 = some Q ∧ field (m 3 8191).bytes 1 1 ≤ 1 ∧ requestPartOk 0 (m 3 8191).bytes = true ∧ field (m 3 8191).bytes 0 1 ≠ 5
         ∧ Q.fn ≠ 0)
    ∧ (let s := headWorld 0 (m 3 0) (world jobOf [])
       AtHead s 0 (m 3 0) 1 3 ∧ queueRequestStatus s 0 (m 3 0).bytes 1 = 0 ∧ queueAt s 0 = some (queueOf []) ∧ jobAt s 7 = some jobOf ∧ 0 ∈ jobOf.roles)
    ∧ (∀ op ∈ [2, 3, 4], queueRequestStatus (s op 8191 Q) 0 (m op 8191).bytes 1 = 0 ∧ queueAt (s op 8191 Q) 8191 = some Q ∧ Q.job = none)
    ∧ ok 2 8191 Q ∧ ok 3 8191 Q ∧ (ok 4 8191 Q ∧ Q.stopped = false)
    ∧ (let Q := { Q with stopped := true }
       ok 4 8191 Q ∧ queueRequestStatus (s 4 8191 Q) 0 (m 4 8191).bytes 1 = 0 ∧ field (m 4 8191).bytes 1 1 = 0 ∧ Q.stopped = true ∧ Q.quarantined = false
         ∧ Q.cmds.find? Cmd.failed = none)
    ∧ ok 4 8191 { Q with stopped := true, quarantined := true }
    ∧ (let f := { cmdOf 5 4 [] with state := .finished 0x0301 }
       let m := msgOf 1 2 [(0, [4]), (1, [1]), (8, toLe 2 8191)]
       let Q := { Q with cmds := [f], stopped := true }
       let s := headWorld 0 m { State.reset with queues := [(8191, Q)] }
       AtHead s 0 m 1 4 ∧ queueAt s 8191 = some Q ∧ queueRequestStatus s 0 m.bytes 1 = 0 ∧ Q.cmds.find? Cmd.failed = some f ∧ f.stream = none
         ∧ ((Q.cmds.head?.any fun c => c.stream.isSome) || (Q.cmds.find? Cmd.failed).any fun c => c.stream.isSome) = false) := by
  simp only [AtHead]
  repeat' apply And.intro
  all_goals decide +kernel

/-- VF 1,024 assigned to partition 0. -/
def vfWorld : State := dset State.reset 0x44FF 1 0

theorem quarantineRelease_witness :
    let m := msgOf 1 2 [(0, [5]), (8, toLe 2 8191)]
    let Q : Queue := { queueOf [] with job := none, stopped := true, quarantined := true }
    let s (fn : Nat) : State := headWorld fn m { vfWorld with queues := [(8191, Q)] }
    let ok (fn : Nat) : Prop := AtHead (s fn) fn m 1 5 ∧ 8191 = field m.bytes 8 2 ∧ queueAt (s fn) 8191 = some Q ∧ field m.bytes 1 1 = 0
    (ok 1024 ∧ field m.bytes 2 1 = 0) ∧ (ok 0 ∧ field m.bytes 2 1 = Q.part ∧ Q.part < 32 ∧ Q.stopped = true) := by
  simp only [AtHead]
  repeat' apply And.intro
  all_goals decide +kernel

/-! ## Witnesses: jobs and cores -/

/-- The least container: META with one role, and empty STRM, CMDS and BUFS. -/
def leastContainer : List Byte :=
  let meta_ := bytesOf 64 [(48, toLe 4 1)]
  let entry (type count off size crc : Nat) : List Byte := toLe 4 type ++ toLe 4 count ++ toLe 8 off ++ toLe 8 size ++ toLe 4 crc ++ zeros 4
  let table := entry 1 1 192 64 (crc32c meta_) ++ entry 2 0 256 0 0 ++ entry 3 0 256 0 0 ++ entry 4 0 256 0 0
  let head := bytesOf 60 [(0, ascii "DTK1"), (4, [1]), (8, [64]), (16, [4]), (24, [64]), (32, toLe 8 256), (40, [0x41]), (44, [1])]
  head ++ toLe 4 (crc32c head) ++ table ++ meta_

/-- Whether a check refuses with this status. -/
def refuses {α : Type} (x : Except Nat α) (n : Nat) : Bool := match x with | .error m => m == n | .ok _ => false

/-- Whether a check passes with this value. -/
def passes {α : Type} [DecidableEq α] (x : Except Nat α) (a : α) : Bool := match x with | .error _ => false | .ok b => b = a

theorem refuses_eq {α : Type} (x : Except Nat α) (n : Nat) (h : refuses x n = true) : x = .error n := by
  cases x <;> simp_all [refuses]

theorem passes_eq {α : Type} [DecidableEq α] (x : Except Nat α) (a : α) (h : passes x a = true) : x = .ok a := by
  cases x <;> simp_all [passes]

theorem jobSubmit_witness :
    let m (prio : Nat) := msgOf 2 3 [(0, [1]), (1, toLe 1 prio), (2, [1]), (8, toLe 8 (2 ^ 64 - 1)), (24, toLe 8 (2 ^ 64 - 1)), (48, toLe 8 256), (128, toLe 2 8191)]
    let Q : Queue := { queueOf [] with job := none }
    let s (prio : Nat) : State := headWorld 0 (m prio) { State.reset with queues := [(8191, Q)] }
    let part := submitPart (popMessage (s 7) 0 (m 7)) 0 (qRoles (m 7).bytes)
    (AtHead (s 7) 0 (m 7) 2 1 ∧ auditFull (s 7) = false
      ∧ submitChecks (popMessage (s 7) 0 (m 7)) 0 part (m 7).bytes (leastContainer.take (field (m 7).bytes 48 8)) = .ok [])
    ∧ (AtHead (s 8) 0 (m 8) 2 1 ∧ submitChecks (popMessage (s 8) 0 (m 8)) 0 part (m 8).bytes leastContainer = .error 0x0301 ∧ 0x0301 < 2 ^ 16)
    ∧ (let f := dset (s 7) 0x8300 1 65536;
       AtHead f 0 (m 7) 2 1 ∧ auditFull f = true) := by
  simp only [AtHead]
  refine ⟨⟨by decide +kernel, by decide +kernel, passes_eq _ _ (by decide +kernel)⟩, ⟨by decide +kernel, refuses_eq _ _ (by decide +kernel), by decide⟩, by decide +kernel⟩

theorem jobEnd_witness :
    let m := msgOf 2 2 [(0, [2]), (8, [7]), (38, [1])]
    let s := headWorld 0 m (world jobOf [])
    (AtHead s 0 m 2 2 ∧ field m.bytes 38 2 ≤ 1 ∧ jobAt s (field m.bytes 8 8) = some jobOf ∧ jobOf.fn = 0)
    ∧ 1 < field (msgOf 2 2 [(0, [2]), (38, [2])]).bytes 38 2
    ∧ ((jobAt s 8).any fun J => J.fn = 0) = false := by
  simp only [AtHead]
  repeat' apply And.intro
  all_goals decide +kernel

/-- Job 7, which holds core 0, and job 6 of its rank but for the lower JOB_ID, which waits for the core. -/
def twoJobs (g : Grant) : State :=
  let s := world { jobOf with grant := g } []
  { s with jobs := [(6, { jobOf with roles := [] }), (7, { jobOf with grant := g })], cores := [(0, { holder := some 7 })] }

theorem coreScheduling_witness :
    (let J := { jobOf with coreSet := [] }
     let s := world J []
     jobAt s 7 = some J ∧ J.grant = .waiting ∧ J.coreSet.all (coreFree s) = true ∧ blocked s 7 J = false)
    ∧ (let s := world { jobOf with coreSet := [0] } []
       jobOf.coreSet.all (coreFree s) = true ∧ blocked s 7 jobOf = false)
    ∧ (let s := twoJobs .waiting
       jobAt s 7 = some jobOf ∧ (6, { jobOf with roles := [] }) ∈ s.jobs ∧ 6 ≠ 7 ∧ (jobOf.priority < jobOf.priority ∨ (jobOf.priority = jobOf.priority ∧ 6 < 7))
         ∧ ∃ k ∈ jobOf.coreSet, k ∈ jobOf.coreSet)
    ∧ (let s := twoJobs .holding
       jobAt s 7 = some { jobOf with grant := .holding } ∧ (6, { jobOf with roles := [] }) ∈ s.jobs ∧ eff s 0x2400 1 ≠ 0)
    ∧ (let c := { cmdOf 5 15 [] with stream := some 0 }
       let Q := { queueOf [c] with running := some (cmdOf 4 11 []) }
       let s := { twoJobs .holding with queues := [(0, Q)] }
       ∀ q ∈ jobOf.roles, (queueAt s q).any atPoint = false)
    ∧ (let s : State := { twoJobs .yielding with queues := [(0, queueOf [])] }
       jobAt s 7 = some { jobOf with grant := .yielding }
         ∧ (∀ q ∈ jobOf.roles, (queueAt s q).any (fun Q => Q.job = some 7 && !throttledKill s Q && !Q.held) = true))
    ∧ (jobAt (twoJobs .holding) 5 = none ∧ (coreAt (twoJobs .holding) 0).zeroing = false ∧ coreFree (twoJobs .holding) 0 = false
        ∧ outranks 6 jobOf 5 jobOf = false)
    ∧ (jobAt (twoJobs .saving) 7 = some { jobOf with grant := .saving } ∧ jobOf.coreSet ≠ [])
    ∧ (let s := { twoJobs .zeroing with cores := [(0, { holder := some 7, zeroing := true })] }
       (coreAt s 0).zeroing = true ∧ (coreAt s 0).holder = some 7 ∧ jobAt s 7 = some { jobOf with grant := .zeroing }
         ∧ ∀ k ∈ jobOf.coreSet, k ≠ 0 → (coreAt s k).zeroing = false)
    ∧ (let J := { jobOf with grant := .restoring, saved := [(0, [(1, [(0, 1)])])] }
       let s := { world J [] with bufs := [(1, bufOf 64)] }
       jobAt s 7 = some J ∧ J.grant = .restoring ∧ J.saved = [(0, [(1, [(0, 1)])])] ∧ FMap.get? s.bufs 1 = some (bufOf 64)) := by
  repeat' apply And.intro
  all_goals decide +kernel

/-! ## Witnesses: placement -/

/-- A capacity-tier buffer 1 of queue 0 with this record. -/
def tieredWorld (T : Tiered) : State :=
  { world jobOf [] with bufs := [(1, { bufOf 64 with tier := 2, ownerQ := some 0 })], index := [(1, { ever := true, live := true })], tiered := [(1, T)] }

theorem placement_witness :
    let m (op : Nat) := msgOf 3 1 [(0, toLe 1 op), (1, [5]), (4, toLe 4 1)]
    let s (op n : Nat) (T : Tiered) : State := headWorld 0 (m op) (dset (tieredWorld T) 0x5000 8 n)
    let ok (op n : Nat) (T : Tiered) : Prop := headMessage (s op n T) 0 = some (m op) ∧ (mboxAt (s op n T) 0).inbox = [m op] ∧ (m op).cls = 3
      ∧ field (m op).bytes 0 1 = op ∧ 0 = field (m op).bytes 8 2 ∧ 1 = field (m op).bytes 4 4
      ∧ earlierHead (s op n T) 0 (m op) (fun x => field x.bytes 8 2) (placeObject (s op n T)) = false
      ∧ field (m op).bytes 1 1 ≤ 5 ∧ queueAt (s op n T) 0 = some (queueOf []) ∧ handleStatus (s op n T) 0 (queueOf []) [1] = 0
      ∧ ((bufAt (s op n T) 0 1).any fun b => b.tier = 2) = true ∧ dnum (s op n T) (0x5000 + 0) 8 = n ∧ (tieredAt (s op n T) (bufKey 0 1)).waiters = []
    (∀ op ∈ [1, 2, 3, 4], ∀ st ∈ [TierState.resident, .absent, .pinned, .promoting, .evicting], ok op 255 { state := st })
      ∧ ok 1 255 { state := .evicting, copying := true } ∧ ok 1 255 { state := .evicting, charged := 1 } ∧ ok 1 256 {}
      ∧ handleStatus (tieredWorld {}) 0 (queueOf []) [2] ≠ 0 ∧ ((queueAt (tieredWorld {}) 1).all fun Q => Q.fn ≠ 0) = true
      ∧ 5 < field (msgOf 3 1 [(1, [6])]).bytes 1 1
      ∧ ((bufAt { tieredWorld {} with bufs := [(1, { bufOf 64 with ownerQ := some 0 })] } 0 1).any fun b => b.tier = 2) = false
      ∧ mayCharge (s 1 255 {}) 0 0 1 (copyCharge (s 1 255 {}) 1) = true
      ∧ mayCharge (dset (s 1 255 {}) 0x5000 3 0) 0 0 1 (copyCharge (s 1 255 {}) 1) = false := by
  repeat' apply And.intro
  all_goals decide +kernel

/-- A request on an object waits behind one of the same queue that came before it. -/
theorem placementTurn_witness :
    let m (t : Nat) : MboxMsg := { msgOf 3 1 [(0, [1]), (4, toLe 4 1)] with arrived := t }
    let s : State := { dset (tieredWorld {}) 0x44FF 1 0 with mbx := [(0, { page := 1, inbox := [m 9] }), (1024, { page := 1, inbox := [m 8] })] }
    earlierHead s 0 (m 9) (fun x => field x.bytes 8 2) (placeObject s) = true := by
  decide +kernel

theorem copies_witness :
    let r : PlaceReq := { op := 1, cls := 0, fn := 0, queue := 0, tag := 0, seq := 0, arrived := 0 }
    let s (T : Tiered) : State := tieredWorld T
    FMap.get? (s {}).bufs (bufKey 0 1) = some { bufOf 64 with tier := 2, ownerQ := some 0 }
      ∧ (tieredAt (s { state := .promoting, current := [r] }) 1).current = [r]
      ∧ (∀ dirty ∈ [true, false], copyUsed (s { state := .evicting, dirty }) 1 = false)
      ∧ copyUsed { s { state := .evicting } with queues := [(0, queueOf [{ cmdOf 5 4 [] with uses := [verKey 1 0] }])] } 1 = true
      ∧ (tieredAt (s { state := .evicting, copying := true }) 1).waiters = []
      ∧ copyOut (s {}) 0 1 0 = false ∧ copyOut { s {} with rel := { (s {}).rel with hbmOut := List.range 512 } } 0 1 0 = true := by
  repeat' apply And.intro
  all_goals decide +kernel

/-! ## Witnesses: reeds -/

/-- A contract of rank 1 with one target of one row and one feature, signed for the key of the scalar 1 with the nonce 1. -/
def contractOf : List Byte :=
  let body := bytesOf 144 [(0, ascii "FRC1"), (4, [5]), (68, [1]), (72, [1]), (74, [1]), (75, [3]), (76, [2]), (78, [1]), (132, [1]), (136, [1])]
  let r := P384.g.1 % P384.n
  body ++ toBe 48 r ++ toBe 48 ((beNat (sha384 body) + r) % P384.n)

/-- The blob of that reed before encryption. -/
def blobOf : List Byte := zeros (serveTargets 1 [(0, 1, 1)]).2

/-- The key record of KEY_ID 0. -/
def keyOf : KeyRec := { part := 0, owner := 5, pub := { x := P384.g.1, y := P384.g.2 }, key := zeros 32, fn := 0, sealCount := 0 }

/-- The image's header. -/
def reedHeader : List Byte :=
  bytesOf 64 [(0, ascii "FRI1"), (4, toLe 4 240), (8, toLe 8 (320 + blobOf.length + 16)), (16, toLe 8 320), (24, toLe 8 blobOf.length)]

/-- The image of the reed. -/
def reedImage : List Byte := reedHeader ++ contractOf ++ zeros 16 ++ Gcm.encrypt keyOf.key (zeros 12) contractOf blobOf

/-- The directory entry that the image makes at LOCATION 4. -/
def entryOf : DirEntry :=
  { reedId := 0, addr := 0, imageBytes := 320 + blobOf.length + 16, keyId := 0, version := 1, baseGen := 0, location := 4, rank := 1, placement := 2, owner := 5
    layers := 1, purpose := 3, handle := 0, contract := contractOf, header := reedHeader }

/-- Partition 0 with a resident base, the key and a directory of one entry. -/
def reedWorld : State := { dset (dset (world { jobOf with baseDigest := [1] } []) 0x5600 1 2) 0x4E00 1 1 with keys := [(0, keyOf)] }

/-- A reed message. -/
def reedMsg (op : Nat) (l : List (Nat × List Byte)) : MboxMsg := msgOf 4 1 ([(0, toLe 1 op), (1, [4])] ++ l)

theorem reedRegister_witness :
    let m := reedMsg 1 []
    let s := headWorld 0 m reedWorld
    let im := imageAt s (reedPart s 0) (dLocation m.bytes) (dHandle m.bytes) reedImage
    reedMessageOk m.bytes = true ∧ entryLocked s 0 0 = false ∧ earlierHead (s) 0 (m) (fun x => dQueue x.bytes) (reedObject (s)) = false
      ∧ AtHead s 0 m 4 1 ∧ registerStatus s 0 0 m.bytes im = 0
      ∧ registerStatus (dset s 0x4E00 1 0) 0 0 m.bytes im ≠ 0 ∧ reedMessageOk (reedMsg 1 [(63, [1])]).bytes = false := by
  simp only [AtHead]
  repeat' apply And.intro
  all_goals decide +kernel

theorem reedEntry_witness :
    let m (op : Nat) := reedMsg op []
    let s (op : Nat) (e : DirEntry) : State := headWorld 0 (m op) { reedWorld with dirs := [(dirKey 0 0, e)] }
    (∀ op ∈ [2, 3], reedMessageOk (m op).bytes = true ∧ entryLocked (s op entryOf) 0 0 = false ∧ earlierHead (s op entryOf) 0 (m op) (fun x => dQueue x.bytes) (reedObject (s op entryOf)) = false ∧ AtHead (s op entryOf) 0 (m op) 4 op
        ∧ dirAt (s op entryOf) 0 0 = some entryOf ∧ dirAt (headWorld 0 (m op) reedWorld) 0 0 = none)
    ∧ (let im := imageAt (s 2 entryOf) 0 4 0 reedImage
       entryOf.baseGen = baseGen (s 2 entryOf) 0 ∧ entryOf.bound = false ∧ imageBufStatus (s 2 entryOf) 0 0 4 0 = 0
         ∧ placementAllows entryOf.placement 4 = true ∧ reedImageOk im (imageRoom (s 2 entryOf) 0 4 0) = true ∧ imContract im = entryOf.contract)
    ∧ ({ entryOf with bound := true } : DirEntry).bound = true ∧ ({ entryOf with baseGen := 1 } : DirEntry).baseGen ≠ baseGen (s 2 entryOf) 0
    ∧ imageBufStatus (s 2 entryOf) 0 0 1 0 ≠ 0 ∧ placementAllows 0 4 = false := by
  simp only [AtHead]
  repeat' apply And.intro
  all_goals decide +kernel

theorem reedKeys_witness :
    let m := reedMsg 9 []
    let s := headWorld 0 m reedWorld
    let r := msgOf 4 6 [(0, [8]), (4, [5])]
    (AtHead s 0 m 4 9 ∧ reedMessageOk m.bytes = true ∧ keyFor s 0 (field m.bytes 28 4) = some keyOf
      ∧ keyFor { s with keys := [] } 0 (field m.bytes 28 4) = none ∧ reedMessageOk (reedMsg 9 [(63, [1])]).bytes = false
      ∧ (s.dirs.any fun e => e.1 / 2 ^ 22 = keyOf.part && e.2.keyId = field m.bytes 28 4) = false
      ∧ (({ s with dirs := [(0, entryOf)] } : State).dirs.any fun e => e.1 / 2 ^ 22 = keyOf.part && e.2.keyId = field m.bytes 28 4) = true)
    ∧ (let s := headWorld 0 r reedWorld
       AtHead s 0 r 4 8 ∧ keyMessageOk r.bytes = true ∧ (engineAt s (leader s)).running = none ∧ (engineAt s (leader s)).waiting = []
         ∧ (engineAt s (leader s)).held = [])
    ∧ (let r := msgOf 4 6 [(0, [8])];
       AtHead (headWorld 0 r reedWorld) 0 r 4 8 ∧ keyMessageOk r.bytes = false) := by
  simp only [AtHead]
  repeat' apply And.intro
  all_goals decide +kernel

/-- The reed world with the entry, ten contexts, and the buffers of a train bind: the state table, A and B. -/
def bindWorld (e : DirEntry) : State :=
  let J := { jobOf with baseDigest := [1], rings := stepJob.rings }
  let table := bytesOf 32 [(0, toLe 4 2), (4, toLe 4 3), (8, toLe 3 9)]
  let b (n : Nat) : Buf := { bufOf n with ownerQ := some 0 }
  { dset (dset { reedWorld with jobs := [(7, J)] } 0x4000 5 4095) 0x4000 6 1 with
    dirs := [(dirKey 0 0, e)]
    bufs := [(1, { b 64 with data := Mem.write [] 0 table }), (2, b 131072), (3, b 131072)]
    index := [1, 2, 3].map fun i => (i, { ever := true, live := true }) }

theorem reedBind_witness :
    let J := { jobOf with baseDigest := [1], rings := stepJob.rings }
    let Q := queueOf []
    let m (op : Nat) := reedMsg op [(8, toLe 2 65535), (12, toLe 4 1)]
    let s (op : Nat) : State := headWorld 0 (m op) (bindWorld entryOf)
    (∀ op ∈ [4, 5], reedMessageOk (m op).bytes = true ∧ reedQueue (s op) 0 (m op).bytes = some Q ∧ Q.part < 32 ∧ entryLocked (s op) Q.part 0 = false
        ∧ earlierHead (s op) 0 (m op) (fun x => dQueue x.bytes) (reedObject (s op)) = false
        ∧ AtHead (s op) 0 (m op) 4 op ∧ dirAt (s op) 0 0 = some entryOf ∧ chosenCtx (s op) 0 (m op).bytes = some 4095 ∧ Q.job = some 7
        ∧ jobAt (s op) 7 = some J ∧ bindStatus (s op) Q (m op).bytes (op - 4) = (0, 0))
    ∧ (let im := imageAt (s 4) 0 entryOf.location entryOf.handle reedImage
       mayCharge (s 4) 0 J.fn 1 (charge64 (serveTargets entryOf.rank (coTargets entryOf.contract)).2) = true ∧ reedImageOk im none = true
         ∧ imContract im = entryOf.contract)
    ∧ (let table := (committed (s 5) (bufKey 0 1)).read 0 (32 * entryOf.layers)
       handleStatus (s 5) 0 Q [1] = 0 ∧ ((bufAt (s 5) 0 1).any fun x => x.tier ≠ 0) = true ∧ 32 * entryOf.layers ≤ bufSize (s 5) 0 1
         ∧ trainTableStatus (s 5) Q J 0 entryOf.rank (coTargets entryOf.contract) table = 0)
    ∧ (let s := headWorld 0 (m 4) (bindWorld { entryOf with bound := true, context := 4095 })
       bindStatus s Q (m 4).bytes 0 = (0x0109, 4095) ∧ (0x0109 : Nat) ≠ 0)
    ∧ (reedQueue (s 4) 1 (m 4).bytes = none ∧ reedMessageOk (reedMsg 4 [(63, [1])]).bytes = false ∧ reedImageOk [] none = false
      ∧ handleStatus (s 5) 0 Q [2 ^ 20] ≠ 0
      ∧ mayCharge (dset (s 4) 0x5000 3 0) 0 J.fn 1 (charge64 (serveTargets entryOf.rank (coTargets entryOf.contract)).2) = false) := by
  simp only [AtHead]
  repeat' apply And.intro
  all_goals decide +kernel

/-- A context of the entry, at this stage. -/
def ctxOf (state : CtxState) (serve : Bool) (answer : Option (Nat × Nat × Nat)) : Ctx :=
  { state, part := 0, dir := 0, job := 7, queue := 0, serve, rank := 1, targets := [{ layer := 0, k := 1, nf := 1, wqA := 2, wqB := 3, uRing := 9 }], baseGen := 0, fn := 0, answer }

/-- The bind world with context 4,095. -/
def ctxWorld (x : Ctx) : State := { bindWorld { entryOf with bound := true, context := 4095 } with ctxs := [(4095, x)] }

/-- The tag is that of the empty text under the zero key and IV, as the published GCM test vectors give it. -/
theorem reedStream_witness :
    let x := ctxOf .binding true (some (0, 0, 0))
    let e : DirEntry := { entryOf with bound := true, context := 4095, header := zeros 64, contract := [] }
    let s : State := { ctxWorld x with dirs := [(dirKey 0 0, e)] }
    let good := toBe 16 0x530f8afbc74536b9a963b4f1c4cb738b
    let n := imBlobBytes e.header
    let opened (blob : List Byte) : Option (List Byte) :=
      Gcm.open (((keyRecord s e.keyId).map KeyRec.key).getD []) (slice e.header 32 12) e.contract ((slice blob 0 (n + 16)).take n) ((slice blob 0 (n + 16)).drop n)
    (FMap.get? s.ctxs 4095 = some x ∧ x.state = .binding ∧ x.part < 32 ∧ dirAt s x.part x.dir = some e ∧ x.answer = some (0, 0, 0))
      ∧ opened good = some [] ∧ e.baseGen = baseGen s x.part ∧ opened [] = none
      ∧ ({ e with baseGen := 1 } : DirEntry).baseGen ≠ baseGen s x.part ∧ FMap.get? s.ctxs 4094 = none := by
  repeat' apply And.intro
  all_goals decide +kernel

theorem reedUnbind_witness :
    let m := reedMsg 6 []
    let s := headWorld 0 m (ctxWorld (ctxOf .bound true none))
    (AtHead s 0 m 4 6 ∧ reedMessageOk m.bytes = true ∧ entryLocked s (reedPart s 0) 0 = false ∧ earlierHead (s) 0 (m) (fun x => dQueue x.bytes) (reedObject (s)) = false
      ∧ dirAt s (reedPart s 0) 0 = some { entryOf with bound := true, context := 4095 } ∧ FMap.get? s.ctxs 4095 = some (ctxOf .bound true none))
    ∧ (let x := ctxOf .binding true none
       ((FMap.get? (ctxWorld x).ctxs 4095).any fun y => true && y.state = .bound) = false ∧ dirAt (ctxWorld x) 0 1 = none)
    ∧ (let x := ctxOf .unbinding true (some (0, 0, 0))
       entryLocked (ctxWorld x) 0 0 = true)
    ∧ (let x := ctxOf .unbinding true (some (0, 0, 0))
       ctxHeld (ctxWorld x) 4095 = false ∧ FMap.get? (ctxWorld x).ctxs 4095 = some x
         ∧ ctxHeld { ctxWorld x with queues := [(0, queueOf [{ cmdOf 5 1 [] with ctxs := [4095] }])] } 4095 = true) := by
  simp only [AtHead]
  repeat' apply And.intro
  all_goals decide +kernel

theorem reedSeal_witness :
    let m := reedMsg 7 [(12, toLe 4 1)]
    let x := ctxOf .bound false none
    let b : Buf := { bufOf (2 ^ 20) with ownerQ := some 0 }
    let k : KeyRec := { keyOf with sealCount := 2 ^ 64 - 2 }
    let s := headWorld 0 m { ctxWorld x with keys := [(0, k)], bufs := [(1, b), (2, b), (3, b)] }
    let J := { jobOf with baseDigest := [1], rings := stepJob.rings }
    let Q := queueOf []
    AtHead s 0 m 4 7 ∧ reedMessageOk m.bytes = true ∧ sealWaits s 0 = false ∧ reedQueue s 0 m.bytes = some Q ∧ entryLocked s Q.part (dIndex m.bytes) = false
      ∧ earlierHead (s) 0 (m) (fun x => dQueue x.bytes) (reedObject (s)) = false
      ∧ dirAt s Q.part (dIndex m.bytes) = some { entryOf with bound := true, context := 4095 } ∧ entryOf.baseGen = baseGen s Q.part
      ∧ FMap.get? s.ctxs 4095 = some x ∧ Q.job = some 7 ∧ jobAt s 7 = some J ∧ keyRecord s 0 = some k ∧ k.sealCount < 2 ^ 64 - 1
      ∧ handleStatus s (dQueue m.bytes) Q [1] = 0 ∧ bufAt s Q.part 1 = some b ∧ b.tier ≠ 0 ∧ b.base = false
      ∧ max entryOf.imageBytes (imBytes entryOf.header) ≤ bufSize s Q.part 1
      ∧ FMap.get? s.tiered (bufKey Q.part 1) = none
      ∧ keyRecord { s with keys := [] } 0 = none ∧ (ctxOf .bound true none).serve = true ∧ bufSize { s with bufs := [(1, bufOf 64)] } Q.part 1 < entryOf.imageBytes
      ∧ sealWaits { s with queues := [(0, queueOf [{ cmdOf 5 1 [] with ctxs := [4095] }])] } 0 = true := by
  simp only [AtHead]
  repeat' apply And.intro
  all_goals decide +kernel

/-! ## Witnesses: bases -/

/-- Header and table of a base of one tensor of one tile. -/
def baseHead : List Byte :=
  bytesOf 128 [(0, ascii "FBS1"), (4, [1]), (8, [0x41]), (16, toLe 8 132096), (68, [1]), (72, toLe 8 65536)]

/-- A base request of partition 31 for members `members`. -/
def baseMsg (op members : Nat) : MboxMsg := msgOf 5 1 [(0, toLe 1 op), (1, [31]), (8, toLe 8 members), (16, toLe 8 4096), (24, toLe 8 132096)]

/-- Partition 31 with HBM for a base, a resident base of one tensor, and a base job. -/
def baseWorld (j : Option BaseJob) : State :=
  { dset (dset State.reset 0x501F 3 (2 ^ 30)) 0x561F 1 2 with
    parts := [(31, { tensors := [{ layer := 0, tiles := 1, offset := 65536, digest := zeros 48, index := 1 }], baseJob := j })]
    bufs := [(bufKey 31 1, { gen := 4094, size := 66560, tier := 1, cls := 1, base := true })] }

/-- A base job of two tensors of layer 0. -/
def baseJobs (replace member : Bool) (next : Nat) : BaseJob :=
  { replace, digest := zeros 48, fn := 0, seq := 0, tag := 0, members := 1, next, member
    tensors := [{ layer := 0, tiles := 2, offset := 65536, digest := zeros 48, index := 1 }, { layer := 0, tiles := 1, offset := 262144, digest := zeros 48, index := 2 }] }

theorem bases_witness :
    let ask (op members : Nat) (s : State) : State := headWorld 0 (baseMsg op members) s
    let head (op members : Nat) (s : State) : Prop := AtHead (ask op members s) 0 (baseMsg op members) 5 op ∧ baseMessageOk (baseMsg op members).bytes = true
    let w := baseWorld none
    (baseMessageOk (msgOf 5 1 [(0, [1]), (1, [32])]).bytes = false ∧ 32 ≤ bPart (msgOf 5 1 [(0, [3]), (1, [32])]).bytes)
    ∧ (head 1 1 w ∧ loadStatus (ask 1 1 w) 31 true baseHead 132096 = 0 ∧ loadStatus (ask 1 1 w) 31 true [] 132096 = 0x0618)
    ∧ (head 1 2 w ∧ loadStatus (ask 1 2 w) 31 false baseHead 132096 = 0 ∧ loadStatus (ask 1 2 w) 31 false [] 132096 = 0x0618)
    ∧ (head 2 1 w ∧ replaceStatus (ask 2 1 w) 31 true baseHead 132096 = 0 ∧ replaceStatus (ask 2 1 w) 31 true [] 132096 = 0x0618)
    ∧ (head 3 1 w ∧ ((baseJobAt (ask 3 1 w) 31).filter fun b => b.replace && b.next = 0 && b.swapping.isNone) = none)
    ∧ (let b := baseJobs true false 0
       head 3 1 (baseWorld (some b)) ∧ baseJobAt (ask 3 1 (baseWorld (some b))) 31 = some b ∧ b.replace = true ∧ b.next = 0 ∧ b.swapping = none)
    ∧ (let b := baseJobs true false 0
       let s := baseWorld (some b)
       let x : Tensor := { layer := 0, tiles := 2, offset := 65536, digest := zeros 48, index := 1 }
       baseJobAt s 31 = some b ∧ b.tensors[b.next]? = some x ∧ b.replace = true ∧ b.swapping = none ∧ b.member = false ∧ layerHeld s 31 b x.layer = false
         ∧ ((layerTensors b x.layer).map Tensor.index).Nodup
         ∧ (let Q : Queue := { queueOf [cmdOf 5 4 [(20, toLe 4 (mkHandle 4094 1))]] with part := 31 }
            layerHeld { s with queues := [(0, Q)] } 31 b 0 = true))
    ∧ (let b := baseJobs true false 2;
       baseJobAt (baseWorld (some b)) 31 = some b ∧ b.replace = true ∧ b.swapping = none ∧ b.tensors.length ≤ b.next)
    ∧ (let b := { baseJobs true true 0 with loaded := [[], []] }
       let s := baseWorld (some b)
       baseJobAt s 31 = some b ∧ layerHeld s 31 b 0 = false ∧ b.next + (layerTensors b 0).length ≤ b.loaded.length)
    ∧ (let b := { baseJobs true true 0 with loaded := [[]] }
       layerHeld (baseWorld (some b)) 31 b 0 = false ∧ b.loaded.length < b.next + (layerTensors b 0).length) := by
  simp only [AtHead]
  repeat' apply And.intro
  all_goals decide +kernel

/-- A tile that comes to a member: one of several, and the last of a tensor, whose digest it meets or misses. -/
theorem baseTensor_witness (data : List Byte) :
    let whole := slice data 0 65536 ++ slice data 65536 1024
    let job (x : Tensor) (attempts : Nat) : BaseJob := { baseJobs false true 0 with keeps := true, tensors := [x], attempts }
    let ok (x : Tensor) (attempts : Nat) : Prop :=
      let s := settle (baseWorld (some (job x attempts)))
      s.jobs = [] ∧ baseJobAt s 31 = some (job x attempts) ∧ (job x attempts).member = true ∧ (job x attempts).loaded.length = 0
        ∧ (job x attempts).tensors[0]? = some x ∧ indicesUsed s 31 = 0 ∧ ((job x attempts).tileData ++ slice data 0 65536)
          ++ ((job x attempts).sideData ++ slice data 65536 1024) = whole
    let x (tiles : Nat) (digest : List Byte) : Tensor := { layer := 0, tiles, offset := 65536, digest, index := 1 }
    ok (x 2 []) 0 ∧ ok (x 1 (sha384 whole)) 0 ∧ (∀ n, ok (x 1 (0 :: sha384 whole)) n) ∧ sha384 whole ≠ 0 :: sha384 whole := by
  have h (j) : settle (baseWorld j) = baseWorld j := settle_of_idle _ (by simp [baseWorld, dset, dput, State.reset])
  simp only [h]
  refine ⟨?_, ?_, fun n => ?_, (List.cons_ne_self _ _).symm⟩ <;> exact ⟨rfl, rfl, rfl, rfl, rfl, rfl, rfl⟩

/-- The head of a base that comes to a member, and a tile in replay. -/
theorem baseTiles_witness :
    let w := settle (baseWorld none)
    (w.jobs.find? (fun e => e.2.part = 31 && e.2.replay.isSome) = none
      ∧ loadStatus w 31 true baseHead 132096 = 0 ∧ replaceStatus w 31 true baseHead 132096 = 0
      ∧ loadStatus w 31 true [] 0 ≠ 0 ∧ replaceStatus w 31 true [] 0 ≠ 0)
    ∧ (∀ beat ∈ [7, 4],
       let rec7 := bytesOf 32 [(0, toLe 8 2), (8, [7])]
       let rec5 := bytesOf 32 [(0, toLe 8 beat), (8, [5])]
       let s := settle { baseWorld none with jobs := [(7, { jobOf with part := 31, replay := some [rec7, rec5], launched := some 0 })], now := 2 }
       (s.jobs.find? fun e => e.2.part = 31 && e.2.replay.isSome).map Prod.fst = some 7
         ∧ (replayInput (takeFlits s (domainHead s) 0) 7 5 0 0 []).2 = if beat = 4 then none else some 5) := by
  dsimp only
  repeat' apply And.intro
  all_goals decide +kernel

/-! ## Witnesses: engines and SPDM -/

/-- The module with this engine in hub west. -/
def engineWorld (e : Engine) : State := { State.reset with now := 5, sec := { State.reset.sec with west := e } }

theorem engineOperations_witness :
    let r : EngineReq := { op := .keygen, src := .spdm, arrived := 4, use := .none }
    let busy : Engine := { running := some (4, r), waiting := List.replicate 63 r }
    ((engineAt (engineWorld {}) .west).running = none ∧ (engineAt (engineWorld {}) .west).waiting = [] ∧ (engineAt (engineWorld {}) .west).held = [])
      ∧ ((engineAt (engineWorld busy) .west).running = some (4, r) ∧ 4 ≠ (engineWorld busy).now
        ∧ (engineAt (engineWorld busy) .west).waiting.length < 64 ∧ r.use = .none)
      ∧ (let q : EngineReq := { op := .keygen, src := .spdm, arrived := 5, use := .none }
         q.before { q with src := .firmware } = true ∧ q.before { q with src := .windway } = false) := by
  repeat' apply And.intro
  all_goals decide +kernel

/-- The module with `n` finished sessions of the installer. -/
def sessionWorld (n : Nat) : State :=
  { State.reset with sec := { State.reset.sec with sessions := (List.range n).map fun i : Nat => (i, ⟨.installer, true⟩), nextSession := n } }

/-- The module with an installer's key. -/
def installerWorld : State :=
  { State.reset with sec := { State.reset.sec with fuses := { State.reset.sec.fuses with installerKeys := [(3, sha384 (encodeKey ⟨1, 2⟩))] } } }

theorem spdmResponder_witness :
    let s := State.reset
    (isReady s = true ∧ s.sec.fuses.lifecycle = 3 ∧ (engineAt s (leader s)).running = none ∧ (engineAt s (leader s)).waiting = []
      ∧ (engineAt s (leader s)).held = [] ∧ (∃ offset, certChain.length < offset) ∧ (0xFE ≠ 0xFF ∧ 0xFE ∉ blockIndices)
      ∧ FMap.get? s.sec.sessions 0 = none)
    ∧ (isReady (settleAll s) = true ∧ (settleAll s).sec.fuses.lifecycle ≠ 7 ∧ 5 ∈ blockIndices)
    ∧ isReady { s with pwr := { s.pwr with rails := false } } = false
    ∧ (let s := { s with sec := { s.sec with fuses := { s.sec.fuses with lifecycle := 7 } } }; isReady s = true ∧ s.sec.fuses.lifecycle = 7)
    ∧ (isReady (sessionWorld 8) = true ∧ (sessionWorld 8).sec.fuses.lifecycle = 3 ∧ 8 ≤ (sessionWorld 8).sec.sessions.length)
    ∧ ((sessionWorld 7).sec.sessions.length < 8 ∧ FMap.get? (sessionWorld 7).sec.sessions 6 = some ⟨.installer, true⟩)
    ∧ (isReady installerWorld = true ∧ installerWorld.sec.fuses.lifecycle = 3)
    ∧ ({ sessionWorld 7 with sec := { (sessionWorld 7).sec with sessions := [(0, ⟨.operator, false⟩)] } } : State).sec.sessions = [(0, ⟨.operator, false⟩)] := by
  repeat' apply And.intro
  all_goals first | exact ⟨_, Nat.lt_succ_self _⟩ | decide +kernel

/-- The key of an installer slot has a role, whatever the maker's key is. -/
theorem installerKey_witness : (roleOfKey installerWorld (encodeKey ⟨1, 2⟩)).isSome = true := by
  unfold roleOfKey
  split
  · rfl
  · rw [if_pos (by decide +kernel)]
    rfl

/-! ## Witnesses: the dictionary -/

/-- A dictionary request: operation, entry, length and data. -/
def request (op index sub flags len : Nat) (data : List Byte) : List Byte :=
  bytesOf 16 [(0, [1]), (1, toLe 1 op), (4, toLe 2 index), (6, toLe 1 sub), (7, toLe 1 flags), (12, toLe 2 len)] ++ data

/-- Session 7's requester on PCIe. -/
def installer : Requester := ⟨.pcie, some 6⟩

/-- A state of the witnesses of the dictionary has no internal event in its beat: a command that takes the beat's events first
meets the state itself. -/
theorem settled_witness :
    (∀ n, settleAll (sessionWorld n) = sessionWorld n) ∧ (∀ i k n, settleAll (dset State.reset i k n) = dset State.reset i k n)
      ∧ (∀ i k n i' k' n', settleAll (dset (dset State.reset i k n) i' k' n') = dset (dset State.reset i k n) i' k' n')
      ∧ (∀ l t, settleAll { State.reset with now := t, tel := l } = { State.reset with now := t, tel := l })
      ∧ (∀ q h b x, settleAll { State.reset with queues := [(0, queueOf [])], host := h, bufs := b, index := x, dict := q }
          = { State.reset with queues := [(0, queueOf [])], host := h, bufs := b, index := x, dict := q }) := by
  refine ⟨fun n => settleAll_of_idle _ ?_ rfl, fun i k n => settleAll_of_idle _ ?_ rfl, fun _ _ _ _ _ _ => settleAll_of_idle _ ?_ rfl,
    fun _ _ => settleAll_of_idle _ ?_ rfl, fun _ _ _ _ => settleAll_of_idle _ ?_ rfl⟩ <;>
  simp [sessionWorld, dset, dput, State.reset, queueOf]

/-- Requests that do not arrive, or that the server turns away. -/
theorem dictionaryRefusals_witness :
    let s := sessionWorld 7
    let r (op index sub flags len : Nat) (data : List Byte) : List Byte := request op index sub flags len data
    (fOp (r 7 0 0 0 0 []) = 7 ∧ reaches s installer = true ∧ fdpHeaderOk installer (r 7 0 0 0 0 []) = false ∧ (r 7 0 0 0 0 []).length = 16)
    ∧ (({ s with tel := { s.tel with dictBusy := true } } : State).tel.dictBusy = true ∧ reaches s ⟨.bar0, none⟩ = true)
    ∧ (RequestArrives s ⟨.pcie, none⟩ (r 4 0x2000 0 0 0 []) 4 ∧ roleOf (served0 s ⟨.pcie, none⟩ (r 4 0x2000 0 0 0 [])) ⟨.pcie, none⟩ = none
        ∧ droneOnly s = false)
    ∧ fLength (r 4 0 0 0 1 [0]) ≠ 0 ∧ fLength (r 5 0 0 0 2 [0, 0]) ≠ 1 ∧ 1 < field (fData (r 5 0 0 0 1 [2])) 0 1
    ∧ (RequestArrives s installer (r 2 0x2300 0xFE 0 0 []) 2 ∧ entryAt 0x2300 0xFE = none)
    ∧ fLength (r 2 0x2300 1 0 3 [0, 0, 0]) ≠ 4
    ∧ (let v := r 2 0x2300 1 1 4 (toLe 4 999); writeStatus s .installer (some 7) 0x2300 1 (.num (leNat (fData v))) ≠ 0)
    ∧ (segmentBase s 7 (r 2 0x3109 2 0 16 (zeros 16)) = some [])
    ∧ (let g : Staged := { index := 0x3109, sub := 2, bytes := [], at_ := 0 }
       stagedByOther { s with tel := { s.tel with staged := [(8, g)] } } (some 7) 0x3109 2 = true)
    ∧ requesterNumber ⟨.pcie, none⟩ = none ∧ (alarmAt s 5).state = 0 := by
  simp only [RequestArrives]
  repeat' apply And.intro
  all_goals decide +kernel

theorem dictionaryRequests_witness :
    let s := sessionWorld 7
    let arrives (op index sub flags len : Nat) (data : List Byte) : Prop := RequestArrives s installer (request op index sub flags len data) op
    (arrives 1 0x2300 1 0 0 [] ∧ getStatus (served0 s installer (request 1 0x2300 1 0 0 [])) installer (request 1 0x2300 1 0 0 []) = 0)
    ∧ (arrives 1 0x2300 1 0 9 [] ∧ getStatus (served0 s installer (request 1 0x2300 1 0 9 [])) installer (request 1 0x2300 1 0 9 []) = 0x0D02)
    ∧ arrives 3 0x2300 1 0 0 [] ∧ (arrives 4 0xFFFF 255 0 0 [] ∧ (roleOf s installer).isSome = true ∧ fLength (request 4 0xFFFF 255 0 0 []) = 0)
    ∧ (∀ on ∈ [0, 1], arrives 5 0 0 0 1 [BitVec.ofNat 8 on] ∧ fLength (request 5 0 0 0 1 [BitVec.ofNat 8 on]) = 1
        ∧ field (fData (request 5 0 0 0 1 [BitVec.ofNat 8 on])) 0 1 = on)
    ∧ (6 ∉ s.tel.subscribers ∧ s.tel.subscribers.length < 8)
    ∧ (let f : State := { s with tel := { s.tel with subscribers := [8, 9, 10, 11, 12, 13, 14, 15] } }
       RequestArrives f installer (request 5 0 0 0 1 [1]) 5 ∧ 6 ∉ f.tel.subscribers ∧ 8 ≤ f.tel.subscribers.length)
    ∧ arrives 6 0 0 0 0 []
    ∧ (RequestArrives s ⟨.bar0, none⟩ (request 1 0x6F00 1 2 8 []) 1)
    ∧ (arrives 2 0x6F00 1 0 8 (zeros 8) ∧ accessStatus s installer 0x6F00 1 true = 0x0706 ∧ (entryAt 0x6F00 1).isSome = true)
    ∧ (let b := request 2 0x2300 1 1 4 (toLe 4 1000)
       arrives 2 0x2300 1 1 4 (toLe 4 1000) ∧ accessStatus s installer 0x2300 1 true = 0 ∧ stagedOf s 7 = none ∧ requesterNumber installer = some 7
         ∧ fOffset b = 0 ∧ fLength b = 4 ∧ FMap.has s.tel.busy (dkey 0x2300 1) = false ∧ AuditRoom s
         ∧ writeStatus s .installer (some 7) 0x2300 1 (.num (leNat (fData b))) = 0 ∧ ((entryAt 0x2300 1).any fun e => e.ty.width = 4) = true)
    ∧ (let b := request 2 0x3109 2 0 16 (zeros 16)
       RequestArrives s installer b 2 ∧ accessStatus s installer 0x3109 2 true = 0 ∧ ((entryAt 0x3109 2).any fun e => e.ty.width = 0 && 16 ≤ e.maxLen) = true
         ∧ fLast b = false ∧ stagedByOther s (some 7) 0x3109 2 = false)
    ∧ (let g : Staged := { index := 0x3109, sub := 2, bytes := [], at_ := 0 };
       stagedOf { s with tel := { s.tel with staged := [(7, g)] } } 7 = some g)
    ∧ (let a : State := { s with tel := { s.tel with alarms := [(127, { state := 1, count := 1 })] } };
       (alarmAt a 127).state ≠ 0 ∧ (alarmAt a 127).count ≠ (alarmAt a 127).notifiedCount ∧ isReady a = true) := by
  simp only [RequestArrives, AuditRoom]
  repeat' apply And.intro
  all_goals decide +kernel

/-! ## Witnesses: dictionary writes -/

/-- An occurring alarm in slot 127, in state `state`. -/
def alarmWorld (state : Nat) : State := { State.reset with now := 9, tel := { State.reset.tel with alarms := [(127, { last := 4, count := 1, state })] } }

theorem dictionaryWrites_witness :
    let s := State.reset
    let ok (s : State) (i k : Nat) (v : DVal) : Prop := Accepted s .installer i k v
    (served (dset s 0x1200 2 1) = false
      ∧ FMap.has ({ s with tel := { s.tel with busy := [(dkey 0x8300 4, none)] } } : State).tel.busy (dkey 0x8300 4) = true)
    ∧ (ok s 0x2300 1 (.num 1000) ∧ AuditRoom s ∧ writeStatus s .operator none 0x2300 1 (.num 1000) = 0x0706
      ∧ writeStatus s .installer none 0x2300 1 (.num 999) = 0x0D03)
    ∧ (ok (alarmWorld 1) 0x708F 2 (.num 1) ∧ (alarmAt (alarmWorld 1) 127).state = 1 ∧ (alarmAt (alarmWorld 1) 127).last ≠ stamp (alarmWorld 1))
    ∧ (ok (alarmWorld 2) 0x708F 2 (.num 2) ∧ (alarmAt (alarmWorld 2) 127).state = 2)
    ∧ (alarmAt s 127).state = 0 ∧ (let a : State := { alarmWorld 1 with now := 4 }; (alarmAt a 127).last = stamp a)
    ∧ (ok (dset s 0x8300 1 5) 0x8300 2 (.num 5) ∧ (dset s 0x8300 1 5).cfg.holdRequest = none)
    ∧ (ok s 0x8300 4 (.num 1) ∧ EngineIdle s (leader s)) ∧ ok s 0x8100 8 (.blob (zeros 96)) ∧ ok s 0x8100 1 (.blob (zeros 96))
    ∧ (ok s 0x2600 8 (.num 5) ∧ FMap.getD s.pins.gpioFn 7 0 ≠ 5) ∧ (ok s 0x2600 1 (.num 0) ∧ FMap.getD s.pins.gpioFn 0 0 = 0)
    ∧ (let p : State := { s with pins := { s.pins with gpioPark := [(7, 5)] } };
       FMap.get? p.pins.gpioPark 7 = some 5 ∧ p.tel.heldWrites = []) := by
  simp only [Accepted, AuditRoom, EngineIdle]
  repeat' apply And.intro
  all_goals decide +kernel

/-! ## Witnesses: partitions and functions -/

theorem partitionWrites_witness :
    let s := dset State.reset 0x5000 1 0
    let ok (s : State) (i k : Nat) (v : DVal) : Prop := Accepted s .operator i k v
    (ok s 0x501F 1 (.num 0) ∧ ((bitList 64 0).all fun u => bit (dnum s 0x501F 1) u) = true)
    ∧ (ok s 0x501F 1 (.num (2 ^ 63)) ∧ ((bitList 64 (2 ^ 63)).all fun u => bit (dnum s 0x501F 1) u) = false)
    ∧ (ok (dset s 0x5000 2 0) 0x501F 2 (.num (2 ^ 31)))
    ∧ (∀ sub ∈ [1, 2], let w : State := { s with parts := [(31, { zeroing := [(sub, 3)] })] }
       (partAt w 31).zeroing = [(sub, 3)] ∧ w.tel.heldWrites = [])
    ∧ (∀ vf ∈ [1, 1024], ok s (0x50FF + vf) 1 (.num 65536) ∧ ok s (0x50FF + vf) 2 (.num 65536) ∧ fnPart s vf = none
       ∧ ok s (0x40FF + vf) 1 (.num 31))
    ∧ (fnPart vfWorld 1024 = some 0 ∧ ok (dset vfWorld 0x5000 5 0) 0x54FF 1 (.num 65536))
    ∧ (ok s 0x4000 6 (.num 0) ∧ ok s 0x401F 3 (.num 0) ∧ ok (dset s 0x4000 1 0) 0x401F 1 (.num (2 ^ 31)))
    ∧ (ok s 0x4000 1 (.num 1) ∧ bit (dnum s 0x4000 1) 31 = true ∧ bit (DVal.num 1).toNat 31 = false) := by
  simp only [Accepted]
  repeat' apply And.intro
  all_goals decide +kernel

theorem epochFlush_witness :
    let s : State := { State.reset with index := [(bufKey 31 5, { retired := true, ever := true, gen := 4095 }), (bufKey 31 6, { ever := true, gen := 1 })] }
    let J := { jobOf with part := 31 }
    let used : State := { s with jobs := [(7, J)] }
    (served s = true ∧ FMap.has s.tel.busy (dkey 0x401F 8) = false ∧ rightStatus s .operator 0x401F 8 true = 0
      ∧ stagedByOther s none 0x401F 8 = false ∧ AuditRoom s ∧ auditFull s = false ∧ s.jobs = [] ∧ s.queues = [])
    ∧ (served used = true ∧ rightStatus used .operator 0x401F 8 true = 0 ∧ (7, J) ∈ used.jobs ∧ J.part = 31 ∧ writeStatus used .operator none 0x401F 8 (.num 1) = 0x0809)
    ∧ (FMap.wf s.index = true ∧ FMap.get? s.index (bufKey 31 5) = some { retired := true, ever := true, gen := 4095 } ∧ keyPart (bufKey 31 5) = 31) := by
  simp only [AuditRoom]
  repeat' apply And.intro
  all_goals decide +kernel

/-- VF 1,024 of partition 0 with a queue, and one read of its memory in flight. -/
def readWorld (reset : Bool) : State :=
  let s := dset (dset State.reset 0x44FF 1 0) 0x44FF 5 0
  { s with
    queues := [(0, { queueOf [] with fn := 1024, job := none })]
    bufs := [(bufKey 0 1, { gen := 0, size := 64, tier := 1, cls := 0, ownerQ := some 0 })], index := [(bufKey 0 1, { ever := true, live := true })]
    host := { s.host with
      windows := [(8192, (1, 0))], reads := [(0, { use := .proxy 1, fn := 1024, addr := 0, len := 1 })], resetting := if reset then [(1024, 3)] else [] } }

theorem resetsAndHostWindows_witness :
    let s := readWorld false
    let idle := dset vfWorld 0x44FF 5 1
    (usable State.reset 1024 = false ∧ barsAnswer s = true ∧ barsAnswer { s with host := { s.host with pausedTo := 1 } } = false)
    ∧ (1 ≤ 1024 ∧ inReset idle 1024 = false ∧ usable idle 1024 = true ∧ dnum idle (fnIndex 1024) 5 ≠ 0
      ∧ Accepted idle .operator 0x44FF 6 (.num 2) ∧ AuditRoom idle)
    ∧ (inReset vfWorld 1024 = false ∧ usable vfWorld 1024 = true ∧ readsOut vfWorld 1024 = false)
    ∧ (inReset s 1024 = false ∧ usable s 1024 = true ∧ dnum s (fnIndex 1024) 5 = 0 ∧ readsOut s 1024 = true)
    ∧ (usable State.reset 0 = true ∧ State.reset.host.resetting = [] ∧ State.reset.host.reads = [])
    ∧ (usable s 0 = true ∧ (readWorld false).host.resetting = [] ∧ assigned s 1024 = true)
    ∧ (FMap.get? (readWorld true).host.resetting 1024 = some 3 ∧ (readWorld true).tel.heldWrites = [] ∧ (readWorld true).tel.busy = [] ∧ FMap.get? (readWorld true).host.resetting 1 = none)
    ∧ (barTarget s 1024 0 64 false = some (0, bufKey 0 1, 0) ∧ barTarget s 1024 1 64 false = none ∧ barTarget s 1024 (2 ^ 33) 1 false = none
      ∧ barTarget s 1024 (2 ^ 33) 1 true = none)
    ∧ (barTarget s 1024 63 1 true = some (0, bufKey 0 1, 63) ∧ (queueAt s 0).bind Queue.job = none ∧ recording s = false
      ∧ (FMap.get? s.bufs (bufKey 0 1)).isSome = true ∧ FMap.get? s.tiered (bufKey 0 1) = none)
    ∧ (∀ beat ∈ [7, 4],
       let rec7 := bytesOf 32 [(0, toLe 8 2), (8, [7])]
       let rec3 := bytesOf 32 [(0, toLe 8 beat), (8, [3]), (24, [1]), (28, toLe 4 (crc32c [9]))]
       let r := { s with
         queues := [(0, { queueOf [] with fn := 1024 })], jobs := [(7, { jobOf with fn := 1024, replay := some [rec7, rec3], launched := some 0 })], now := 2 }
       barTarget r 1024 63 1 true = some (0, bufKey 0 1, 63) ∧ (queueAt r 0).bind Queue.job = some 7
         ∧ (replayInput r 7 3 0 0 [9]).2 = if beat = 4 then none else some 5) := by
  simp only [Accepted, AuditRoom]
  repeat' apply And.intro
  all_goals decide +kernel

/-! ## Witnesses: configuration, starts, inputs -/

/-- One entry is written and not committed, and the pending digest has been read. -/
def pendingWorld : State :=
  let s : State := { State.reset with cfg := { State.reset.cfg with pendingWrites := [0x230001] } }
  { s with cfg := { s.cfg with readDigest := pendingDigest s } }

/-- The digest that was read has no part in the pending digest. -/
theorem pendingDigest_read (s : State) (d : List Byte) : pendingDigest { s with cfg := { s.cfg with readDigest := d } } = pendingDigest s := rfl

/-- A commit checks what R403 and R404 say, and nothing else. -/
theorem ownStatus_commit (s : State) (v : DVal) : ownStatus s 0x2000 4 v = commitStatus s := by simp [ownStatus]

theorem configurationCommit_witness : Accepted pendingWorld .installer 0x2000 4 (.blob (zeros 192)) ∧ EngineIdle pendingWorld (leader pendingWorld) := by
  have h2 : pendingWorld.cfg.readDigest = pendingDigest pendingWorld := by
    rw [show pendingDigest pendingWorld = _ from pendingDigest_read _ _]
    simp only [pendingWorld]
  have h : commitStatus pendingWorld = 0 := by
    unfold commitStatus
    rw [if_neg (by decide +kernel), if_neg (by decide +kernel), if_neg]
    have h1 : pendingWorld.cfg.pendingWrites.isEmpty = false := by decide +kernel
    simp [h1, h2]
  refine ⟨⟨by decide +kernel, by decide +kernel, ?_⟩, by decide +kernel, by decide +kernel, by decide +kernel⟩
  unfold writeStatus
  rw [if_neg (by decide +kernel), if_neg (by decide +kernel), ownStatus_commit, h, if_neg (by decide), if_neg (by decide +kernel), if_neg (by decide +kernel)]

/-- An image for hub west. -/
def imageOf (bytes : Nat) : FwImage := { FwImage.reset with bytes, version := 1 }

theorem configurationStore_witness :
    let s := State.reset
    let w : State := { s with cfg := { s.cfg with writing := some (.west, [1]) } }
    (w.cfg.writing = some (.west, [1]) ∧ w.cfg.startWaits = none ∧ w.tel.heldWrites = [] ∧ s.cfg.writing = none)
    ∧ (let v : State := { w with cfg := { w.cfg with startWaits := some true } };
       v.cfg.startWaits = some true ∧ committing { v with cfg := { v.cfg with writing := none } } = false)
    ∧ droneOnly (dset s 0x1200 2 2) = true
    ∧ (served s = true ∧ writeStatus s .installer none 0x2000 4 (.blob []) ≠ 0)
    ∧ (Accepted s .installer 0x3000 1 (.num 2) ∧ Accepted s .installer 0x3000 4 (.num 9) ∧ AuditRoom s)
    ∧ (Accepted s .installer 0x3100 2 (.blob []) ∧ Accepted s .installer 0x3109 2 (.blob []))
    ∧ (droneOnly s = false ∧ updateCheck s .west (imageOf (2 ^ 25)) = 0 ∧ updateCheck s .west (imageOf (2 ^ 25 + 1)) = 0x0C07) := by
  simp only [Accepted, AuditRoom]
  repeat' apply And.intro
  all_goals decide +kernel

/-! ## Witnesses: starts, inputs, power -/

/-- A start in which every part comes up but those named. -/
def obsOf (fuseOk eastUp : Bool) : StartObs :=
  { fuseOk, eastUp, westUp := true, failedCores := [], failedLogic := [], failedHbm := [], failedLpddr := [], trainedPorts := [], locked := false
    domainChanged := false, retentionOk := true, badTables := [] }

/-- The module in a start of this kind, after `failures` failures. -/
def startWorld (kind failures : Nat) : State := dset (dset (dset State.reset 0x1200 1 kind) 0x1200 2 1) 0x1200 5 failures

/-- The module in hold. -/
def holdWorld : State := dset State.reset 0x1200 2 2

/-- In hold no event of the compute part is due. -/
theorem holdSettled_witness : settleAll holdWorld = holdWorld := settleAll_of_droneOnly _ (by decide +kernel)

theorem starts_witness :
    (starting (startWorld 0 0) 0 = true ∧ (∀ east ∈ [true, false], failedStep (startWorld 0 0) (obsOf true east) false = none)
      ∧ ∀ n ∈ [0, 2], failedStep (startWorld 0 n) (obsOf false true) false = some (1, 0x0C09))
    ∧ (starting (startWorld 1 0) 1 = true ∧ (obsOf true true).retentionOk = true ∧ failedStep (startWorld 1 0) (obsOf true true) true = none
      ∧ (startWorld 1 0).parts = [] ∧ (obsOf true true).badTables = [] ∧ ({ obsOf true true with retentionOk := false } : StartObs).retentionOk = false)
    ∧ failedStep (startWorld 1 0) { obsOf true false with westUp := false } true = some (3, 0x0C09)
    ∧ (starting State.reset 0 = false ∧ starting State.reset 1 = false)
    ∧ ((startWorld 0 2).pwr.rails = true ∧ dnum (startWorld 0 2) 0x1200 2 = 1)
    ∧ (∀ n ∈ [1, 2], Accepted State.reset .installer 0x1200 7 (.num n) ∧ AuditRoom State.reset ∧ committing State.reset = false)
    ∧ committing { State.reset with cfg := { State.reset.cfg with writing := some (.west, []) } } = true
    ∧ (isHold holdWorld = true ∧ droneOnly holdWorld = true ∧ holdWorld.pwr.rails = true ∧ ∀ n ∈ [1, 2], Accepted holdWorld .installer 0x1200 7 (.num n))
    ∧ (State.reset.pwr.rails = true ∧ isHold State.reset = false) := by
  simp only [Accepted, AuditRoom]
  repeat' apply And.intro
  all_goals decide +kernel

/-- The module with the rails off and these inputs. -/
def offWorld (aux12 main48 pwrEn : Bool) : State := { State.reset with pwr := { rails := false, aux12, main48, pwrEn } }

theorem inputsAndRails_witness :
    (∀ p ∈ [true, false], (offWorld true true p).pwr.rails = false ∧ (offWorld true true p).pwr.main48 = true ∧ (offWorld true true p).pwr.aux12 = true
      ∧ (offWorld true true p).pwr.pwrEn = p ∧ (offWorld false true p).pwr.aux12 = false ∧ (offWorld false true p).pwr.pwrEn = p)
    ∧ (State.reset.pwr.rails = true ∧ State.reset.pwr.aux12 = true ∧ State.reset.pwr.hot = false)
    ∧ (105 < 106 ∧ 114 < 115) ∧ State.reset.pwr.lastHotStep = none
    ∧ (let s : State := { State.reset with now := 5, pwr := { State.reset.pwr with hot := true, lastHotStep := some 5 } };
       s.pwr.hot = true ∧ ¬(1000000 ≤ s.now - 5))
    ∧ (let s : State := { State.reset with pwr := { State.reset.pwr with temps := [(9, 100)] } }; (9, 100) ∈ s.pwr.temps ∧ 9 ≠ 0 ∧ 100 ≤ 100)
    ∧ isHold (offWorld true true true) = false ∧ isHold { offWorld true true true with dict := holdWorld.dict } = true := by
  repeat' apply And.intro
  all_goals decide +kernel

/-- A head of a host domain, or a member, in beat `now`. -/
def pulseWorld (member : Bool) (now lockedBit missed : Nat) : State :=
  let s := dset (dset State.reset 0xA000 7 1) 0x6F00 2 lockedBit
  let s := if member then dset (dset (dset s 0xA000 1 1) 0xA000 2 1) 0xA000 6 (2 ^ 12) else s
  { s with now, pins := { s.pins with missedEdges := missed }, win := { s.win with syncMissed := missed } }

theorem beatCounter_witness :
    (∀ now ∈ [0, 2, 2 ^ 20 - 2], isReady (pulseWorld false now 0 0) = true ∧ eff (pulseWorld false now 0 0) 0xA000 7 ≠ 0
      ∧ isMember (pulseWorld false now 0 0) = false ∧ nearPulse now = true)
    ∧ (∀ now ∈ [3, 2 ^ 20 - 3], nearPulse (pulseWorld false now 1 0).now = false ∧ locked (pulseWorld false now 1 0) = true)
    ∧ (∀ missed ∈ [15, 16], locked (pulseWorld false 5 1 missed) = true ∧ isMember (pulseWorld false 5 1 missed) = false)
    ∧ (∀ l ∈ [0, 1], isReady (pulseWorld true 5 l 15) = true ∧ isMember (pulseWorld true 5 l 15) = true ∧ locked (pulseWorld true 5 l 15) = decide (l = 1))
    ∧ (isReady (dset (pulseWorld true 5 1 0) 0x1200 2 1) = false ∧ nearPulse 3 = false ∧ locked (pulseWorld false 3 0 0) = false
      ∧ eff (dset (pulseWorld false 3 0 0) 0xA000 7 0) 0xA000 7 = 0)
    ∧ 8 < exchangeOffset (0, 80, 80, 0) ∧ exchangeOffset (80, 0, 0, 80) < -8
    ∧ (-8 ≤ exchangeOffset (0, 0, 0, 0) ∧ exchangeOffset (0, 0, 0, 0) ≤ 8) := by
  repeat' apply And.intro
  all_goals decide +kernel

/-- Core 31 in this power state, its cluster's PLL in that one. -/
def domainWorld (power : CorePower) (pll : PllState) : State :=
  { State.reset with cores := [(31, { power })], clusters := [(7, { pll })] }

theorem corePower_witness :
    (let s := domainWorld .gated .off
     (∀ e ∈ s.cores, e.2.power ≠ .waiting ∧ (e.1 = 31 → e.2.power ≠ .ramping)) ∧ (coreAt s 31).power = .gated ∧ inMask s (31 / 4) = true ∧ (coreAt s 31).inService = true)
    ∧ (∀ pll ∈ [PllState.on, .locking], let s := domainWorld .ramping pll
       (coreAt s 31).power = .ramping ∧ (clusterAt s 7).pll = pll)
    ∧ (let s := domainWorld .ramped .locking;
       (clusterAt s 7).pll = .locking ∧ (coreAt s (4 * 7 + 3)).power = .ramped)
    ∧ (let s := domainWorld .on .on
       (coreAt s 31).power = .on ∧ coreNeeded s 31 = false ∧ coreSaving s 31 = false ∧ eff s 0x9000 4 ≠ 0
         ∧ coreNeeded { s with queues := [(0, queueOf [cmdOf 5 1 [(2, [31])]])] } 31 = true)
    ∧ (let s := domainWorld .gated .on;
       (clusterAt s 7).pll = .on ∧ ∀ k, k < 4 → (coreAt s (4 * 7 + k)).power = .gated) := by
  repeat' apply And.intro
  all_goals decide +kernel

/-- The module in beat 20,000,000 at a clock of `clock` MHz, with a power history. -/
def clockWorld (clock : Nat) (stepped : Bool) : State :=
  { State.reset with
    now := 20000000, clusters := (List.range 8).map fun c => (c, { clock, pll := .on }), pwr := { stepped, lastStep := 19000000, belowSince := some 10000000 } }

theorem clockAndDroop_witness :
    (∀ b ∈ [true, false], let s := clockWorld 450 b
      eff s 0x9000 1 < averagePower ((100000 :: s.pwr.samples).take 100) ∧ 400 < commonClock s ∧ 1000000 ≤ s.now - s.pwr.lastStep)
    ∧ (let s := clockWorld 1450 true
       averagePower ((0 :: s.pwr.samples).take 100) ≤ eff s 0x9000 1 ∧ 0 * 100 < eff s 0x9000 1 * 95 ∧ s.pwr.belowSince = some 10000000
         ∧ 10000000 ≤ s.now - 10000000 ∧ commonClock s < eff s 0x9000 2)
    ∧ (let s := clockWorld 1450 true
       let w := eff s 0x9000 1;
       averagePower ((w :: s.pwr.samples).take 100) ≤ w ∧ w * 95 ≤ averagePower ((w :: s.pwr.samples).take 100) * 100)
    ∧ (∀ up ∈ [true, false], (clusterAt { State.reset with clusters := [(7, { step := some up })] } 7).step = some up)
    ∧ (∀ gap ∈ [true, false], let s : State := { State.reset with clusters := [(7, { pll := .on, gap })] }
       (clusterAt s 7).throttled = false ∧ (clusterAt s 7).brownedOut = false ∧ (clusterAt s 7).gap = gap)
    ∧ (clusterAt { State.reset with clusters := [(7, { throttled := true })] } 7).throttled = true
    ∧ midPass { State.reset with cores := [(31, { mergeWait := some 0 })] } 7 = true
    ∧ (let s := clockWorld 400 true
       eff s 0x9000 1 < averagePower ((100000 :: s.pwr.samples).take 100) ∧ commonClock s ≤ 400
         ∧ ∀ since ∈ [none, some 5], 20000000 - ({ s with pwr := { s.pwr with floorSince := since } } : State).pwr.floorSince.getD s.now < 100000000)
    ∧ (let Q := { queueOf [cmdOf 5 1 [(2, [31])]] with heldKill := some .uncounted }
       let s : State := { State.reset with queues := [(0, Q)], clusters := [(7, { throttled := true })] }
       s.queues = [(0, Q)] ∧ (∀ d ∈ Q.cmds, d.core / 4 = 7 ∧ opEngine d.op = true ∧ d.state ≠ .fetched ∧ d.failed = false)
         ∧ (clusterAt s 7).throttled = true ∧ Q.heldKill.isSome = true) := by
  repeat' apply And.intro
  all_goals decide +kernel

/-! ## Witnesses: leader, Windway, errors -/

/-- Hub west has taken over at epoch 9; east still leads at its own epoch. -/
def twoLeaders : State :=
  { State.reset with
    lease := { State.reset.lease with east := { epoch := 9, holder := .west }, west := { epoch := 9, holder := .west } }
    clusters := [(7, { epochSeen := 9, epochFrom := .west })] }

theorem leaderAndFailover_witness :
    let s := State.reset
    (leads s .east = true ∧ leads s (otherHub .east) = false ∧ (arbiterAt s .east).epoch ≤ epochOf s .east)
    ∧ (leads twoLeaders .east = true ∧ leads twoLeaders (otherHub .east) = false ∧ epochOf twoLeaders .east < (arbiterAt twoLeaders .east).epoch)
    ∧ (.west = otherHub (leader s) ∧ s.lease.upWest = true ∧ (arbiterAt s .west).epoch < 2 ^ 32 - 1 ∧ s.parts = [] ∧ s.queues = [] ∧ s.host.resetting = []
      ∧ s.host.pfReset = false ∧ s.cfg.startWaits = none ∧ s.tel.busy = [])
    ∧ (let u : State := { s with lease := { s.lease with upWest := false } }; .west = otherHub (leader u) ∧ u.lease.upWest = false)
    ∧ (let u : State := { s with lease := { s.lease with west := { epoch := 2 ^ 32 - 1, holder := .east } } };
       .west = otherHub (leader u) ∧ 2 ^ 32 - 1 ≤ (arbiterAt u .west).epoch)
    ∧ ((∀ e ∈ [9, 10], (clusterAt twoLeaders 7).epochSeen ≤ e ∧ ¬(e = (clusterAt twoLeaders 7).epochSeen ∧ Hub.east = .west))
      ∧ 8 < (clusterAt twoLeaders 7).epochSeen ∧ epochOf twoLeaders .east < (clusterAt twoLeaders 7).epochSeen)
    ∧ (let u : State := { s with clusters := [(7, { epochSeen := 9, epochFrom := .east })], sec := { s.sec with fuses := { s.sec.fuses with protection := 2 } } };
       (clusterAt u 7).epochSeen = 9 ∧ (clusterAt u 7).epochFrom = .east ∧ fuse u 1 = true)
    ∧ (activeHub s ≠ 1 ∧ s.host.failedOver = false ∧ Accepted s .operator 0xA040 1 (.num 1) ∧ AuditRoom s
      ∧ ∀ c, c < 8 → (hubRoute 1 c).all (linkUp s) = true)
    ∧ ({ s with host := { s.host with failedOver := true } } : State).host.failedOver = true := by
  simp only [Accepted, AuditRoom]
  repeat' apply And.intro
  all_goals decide +kernel

/-- Port 23 in state `st` after `fails` tag failures in a row. -/
def portWorld (st fails lanes : Nat) : State :=
  let s := dset (dset State.reset 0xA027 1 st) 0xA027 2 lanes
  { s with win := { s.win with ports := [(23, { tagFails := fails })] } }

/-- The other end's hello. -/
def helloOf (chainValid : Bool) : PeerHello := { module := 1, system := 0, chainValid, eph := { x := P384.g.1, y := P384.g.2 }, sigValid := true }

theorem windwayPorts_witness :
    (∀ fails ∈ [6, 7], portState (portWorld 4 fails 0) 23 = 4 ∧ (portAt (portWorld 4 fails 0) 23).tagFails + 1 = fails + 1)
    ∧ (∀ lanes ∈ [0, 1], portState (portWorld 4 0 lanes) 23 ≠ 0 ∧ portState (portWorld 4 0 lanes) 23 ≠ 5 ∧ dnum (portWorld 4 0 lanes) 0xA027 2 = lanes)
    ∧ (helloOk (portWorld 3 0 0) (helloOf true) = true ∧ helloOk (portWorld 3 0 0) (helloOf false) = false
      ∧ (engineAt (portWorld 3 0 0) (portHub 23)).healthy = true ∧ portState (portWorld 3 0 0) 23 = 3)
    ∧ (portAt { State.reset with win := { State.reset.win with ports := [(23, { retryAt := some 5 })] } } 23).retryAt = some 5
    ∧ (portState (portWorld 5 0 0) 23 = 5 ∧ portState (portWorld 3 0 0) 23 ≠ 4
      ∧ ({ (portAt (portWorld 3 0 0) 23) with retryAt := none } : Port).retryAt = none)
    ∧ (∀ used ∈ [0, 2], let s : State := { State.reset with rel := { State.reset.rel with crookLanes := [(0, used)] } }
       linkUp s 0 = true ∧ FMap.getD s.rel.crookLanes (5 * 0 + 0) 0 = used)
    ∧ (linkUp (dset State.reset 0xB400 3 0) 0 = false)
    ∧ (let s := dset (dsetB State.reset 0xA000 5 [1, 0, 2, 0]) 0xA000 4 5
       (4 < dnum s 0xA000 4 ∧ 2 ∈ candidates s ∧ dnum s 0xA000 4 < 6 ∧ dnum s 0xA000 4 ≤ 5) ∧ s.win.missed < 2 ∧ s.win.spareState = false ∧ 7 ∉ candidates s
       ∧ (∀ missed ∈ [1, 2], ({ s with win := { s.win with missed } } : State).win.missed = missed)
       ∧ ({ s with win := { s.win with spareState := true } } : State).win.spareState = true) := by
  repeat' apply And.intro
  all_goals decide +kernel

/-- Job 7 of two modules with buffer 1 of 64 bytes, and a staged write or add at its last byte. -/
def remoteWorld (x : List RemoteStage) : State :=
  { world { jobOf with modules := 2, bufs := [1] } [] with bufs := [(1, bufOf 64)], win := { State.reset.win with staged := x } }

theorem remoteAndHostTraffic_witness :
    let p : RemotePkt := { job := 7, source := 0, cmd := 5, bufs := 0, offset := 63, data := [1], last := true }
    let w : StageWrite := ⟨verKey 1 0, 56, zeros 8⟩
    let J := { jobOf with modules := 2, bufs := [1] }
    let x (adds : Bool) : RemoteStage :=
      { job := 7, source := 0, cmd := 5, writes := if adds then [] else [w], adds := if adds then [w] else [], complete := true }
    (jobAt (remoteWorld []) 7 = some J ∧ fencedSource (remoteWorld []) p.job p.source = false ∧ remoteTarget (remoteWorld []) p = some (J, verKey 1 0)
      ∧ remoteTarget (remoteWorld []) { p with offset := 64 } = none
      ∧ (∀ adds ∈ [true, false], remoteRefusal (remoteWorld []) p J (verKey 1 0) adds = 0)
      ∧ fencedSource { remoteWorld [] with win := { State.reset.win with fences := (remoteWorld []).jobs.map fun e => (jobModule (remoteWorld []) e.2 0, 1) } } 7 0 = true)
    ∧ (let s := remoteWorld [{ job := 7, source := 0, cmd := 6, writes := [w] }]
       remoteTarget s p = some (J, verKey 1 0) ∧ remoteRefusal s p J (verKey 1 0) false = 0x030B)
    ∧ (let h := bytesOf 64 [(56, toLe 4 0), (60, toLe 4 2)]
       let s : State := { remoteWorld [] with bufs := [(1, { bufOf 72 with cls := 3, data := Mem.write [] 0 h })] }
       isAcc s (verKey 1 0) = true)
    ∧ (∀ adds ∈ [true, false], let s := remoteWorld [x adds]
       fencedSource s 7 0 = false ∧ (s.win.staged.find? fun x => x.job = 7 && x.source = 0 && x.cmd = 5) = some (x adds) ∧ (x adds).complete = true
         ∧ FMap.get? s.bufs (verBuf w.buf) = some (bufOf 64) ∧ verKey (verBuf w.buf) (bufOf 64).gen = w.buf
         ∧ (jobAt s 7).isSome = true ∧ FMap.get? s.tiered (verBuf w.buf) = none)
    ∧ (∀ squashed ∈ [true, false], let r : HostRead := { use := .proxy 63, fn := 0, addr := 0, len := 1, squashed }
       let s : State := { State.reset with host := { State.reset.host with reads := [(3, r)] } }
       FMap.get? s.host.reads 3 = some r ∧ FMap.get? s.host.reads 4 = none ∧ s.host.resetting = [] ∧ s.host.pfReset = false ∧ s.tel.busy = []
         ∧ r.use = .proxy 63 ∧ activeHub s ≠ hubNumber .west ∧ activeHub s = hubNumber .east ∧ s.host.reads = [(3, r)]) := by
  dsimp only
  repeat' apply And.intro
  all_goals decide +kernel

/-- A read of a base's tensor, which another follows, on its first or its last attempt. -/
theorem baseRead_witness (data : List Byte) :
    let x : Tensor := { layer := 0, tiles := 1, offset := 65536, digest := sha384 data, index := 1 }
    let job (attempts : Nat) : BaseJob := { baseJobs false false 0 with tensors := [x, x], attempts }
    let s (attempts : Nat) : State :=
      { baseWorld (some (job attempts)) with host := { State.reset.host with reads := [(3, { use := .baseTensor 31, fn := 0, addr := 0, len := 66560 })] } }
    ∀ n, baseJobAt (s n) 31 = some (job n) ∧ (job n).member = false ∧ (job n).replace = false ∧ (job n).tensors[(job n).next]? = some x
      ∧ (job n).tensors[(job n).next + 1]? = some x ∧ x.bytes = 66560 ∧ x.digest = sha384 data ∧ (s n).host.resetting = [] ∧ (s n).tel.busy = []
      ∧ FMap.get? (s n).host.reads 3 = some { use := .baseTensor 31, fn := 0, addr := 0, len := 66560 } := by
  intro x job s n
  exact ⟨rfl, rfl, rfl, rfl, rfl, rfl, rfl, rfl, rfl, rfl⟩

theorem errors_witness :
    let u : MemUnit := .hbm 15 31 7
    (let s : State := { State.reset with now := 10 ^ 9, rel := { State.reset.rel with corrections := [(unitKey u, List.replicate 1000 0)] } };
      1000 ≤ (FMap.getD s.rel.corrections (unitKey u) []).length ∧ s.now - (FMap.getD s.rel.corrections (unitKey u) []).getD 999 0 ≤ 10 ^ 9)
    ∧ (∀ c ∈ List.range 32, u ≠ .core c) ∧ 2 * scrubPeriod u < 57601
    ∧ (let b : Buf := { bufOf 64 with tier := 0, core := 31 };
       FMap.get? ({ State.reset with bufs := [(bufKey 31 1, b)] } : State).bufs (bufKey 31 1) = some b ∧ b.tier = 0 ∧ b.core = 31 ∧ 63 < b.size)
    ∧ (FMap.getD State.reset.rel.errors (unitKey u) []).length < 3
    ∧ (let s : State := { State.reset with now := 86400 * 10 ^ 9, rel := { State.reset.rel with errors := [(unitKey u, [2, 1, 0])] } };
       3 ≤ (FMap.getD s.rel.errors (unitKey u) []).length ∧ s.now - (FMap.getD s.rel.errors (unitKey u) []).getD 2 0 ≤ 86400 * 10 ^ 9 ∧ unitOut s u = false)
    ∧ (let c := cmdOf 5 4 []
       let s := world jobOf [c]
       queueAt s 0 = some (queueOf [c]) ∧ struck s.now (queueOf [c]) ≠ [] ∧ throttledKill s (queueOf [c]) = false ∧ ((queueOf [c]).cmds.find? fun c => c.state = .started && opEngine c.op) = some c ∧ cmdAt (queueOf [c]) c.uid = some c)
    ∧ (∀ tier ∈ [0, 1, 2], let c := moveOf 0 0
       let b : Buf := { bufOf 64 with tier, core := 31 }
       let w := world jobOf [c]
       let s : State := { w with bufs := [(1, b)], rel := { w.rel with poison := [(1, 7)] } };
       moveCmd s 0 0 = some (queueOf [c], c) ∧ cmdAt (queueOf [c]) c.uid = some c ∧ poisonMet s (queueOf [c]) c = some (1, 7) ∧ ((wordUnit s (1, 7)).isSome = decide (tier ≠ 0))
         ∧ (∀ u, wordUnit s (1, 7) = some u → (FMap.getD s.rel.errors (unitKey u) []).length < 3)
         ∧ FMap.get? s.bufs 1 = some b ∧ struck s.now (queueOf [c]) ≠ [] ∧ throttledKill s (queueOf [c]) = false ∧ (coreAt s b.core).faultKills.length < 15)
    ∧ (let s := tieredWorld { state := .promoting, copying := true };
       (tieredAt s (bufKey 0 1)).waiters = [] ∧ (tieredAt s (bufKey 0 1)).state = .promoting ∧ (tieredAt s (bufKey 0 1)).copying = true)
    ∧ (let s := tieredWorld { state := .evicting, copying := true };
       (tieredAt s (bufKey 0 1)).waiters = [] ∧ (tieredAt s (bufKey 0 1)).state = .evicting ∧ (tieredAt s (bufKey 0 1)).copying = true)
    ∧ (let s := State.reset
       (coreAt { s with cores := [(31, { inService := false })] } (4 * 7 + 3)).inService = false ∧ (coreAt s (4 * 7 + 3)).inService = true ∧ (clusterAt s 7).spare = some 4 ∧ Accepted s .operator 0xB107 7 (.num 3) ∧ AuditRoom s
         ∧ (clusterAt { s with clusters := [(7, { spare := none })] } 7).spare = none)
    ∧ (let s : State := { State.reset with now := 10 ^ 9, clusters := [(7, { controllerResets := [0] })] };
       (clusterAt s 7).inService = true ∧ (clusterAt s 7).controllerResets = [0] ∧ s.now - 0 ≤ 10 ^ 9) := by
  simp only [Accepted, AuditRoom]
  repeat' apply And.intro
  all_goals decide +kernel

theorem telemetryAndDebug_witness :
    let s := dset State.reset 0x7200 2 65536
    let r : TraceRec := { beat := 0, kind := 0, source := 0, queue := 0, arg0 := 0, arg1 := 0, arg2 := 0 }
    let held : State := { s with tel := { s.tel with traceHeld := [r], traceWrite := 2047 } }
    (isReady s = true ∧ traceSlots s = 2048 ∧ s.tel.traceHeld = [])
    ∧ (isReady held = true ∧ traceSlots held ≠ 0 ∧ held.tel.traceHeld = [r]
      ∧ (held.tel.traceWrite + 2 ^ 32 - (0 : BitVec 32).toNat) % 2 ^ 32 < traceSlots held)
    ∧ (let j : State := { dset (dset s 0x7300 2 64) 0x7300 4 0 with tel := { s.tel with journalHeld := [zeros 32] } };
       j.tel.journalHeld = [zeros 32] ∧ journalRoom j = true ∧ j.tel.journalDropped = 0)
    ∧ journalRoom s = false ∧ traceSlots State.reset = 0
    ∧ (s.tel.journalHeld = [] ∧ s.tel.journalDropped = 0
      ∧ ({ s with tel := { s.tel with journalDropped := 1 } } : State).tel.journalDropped ≠ 0)
    ∧ (let J := { jobOf with replayHeld := [(9, .doorbell 0 0 5 false)] }
       let s := world J []
       jobAt s 7 = some J ∧ J.replayHeld = [(9, .doorbell 0 0 5 false)] ∧ pageQueue s 0 0 = some (0, queueOf []) ∧ queueAt s 0 = some (queueOf []))
    ∧ jobAt s 7 = none
    ∧ fuse State.reset 3 = false := by
  repeat' apply And.intro
  all_goals decide +kernel

theorem boundaryScan_witness :
    let free := dset State.reset 0x4000 1 0
    let s : State := { free with sec := { free.sec with scanActive := true } }
    let f : State := { free with sec := { free.sec with fuses := { free.sec.fuses with protection := 0x13 } } }
    (bit f.sec.fuses.protection.toNat 4 = true ∧ ∀ part, part < 32 → dnum f (0x4000 + part) 1 = 0)
    ∧ (bit State.reset.sec.fuses.protection.toNat 4 = false)
    ∧ (s.sec.scanActive = true ∧ dnum s 0x401F 1 = 0 ∧ (DVal.num 1).toNat ≠ 0 ∧ served s = true ∧ FMap.has s.tel.busy (dkey 0x401F 1) = false) := by
  repeat' apply And.intro
  all_goals decide +kernel

/-! ## Witnesses: invariants -/

theorem reset_invariants : FusesFrom Fuses.reset State.reset ∧ PendingOk State.reset ∧ MemoryOk State.reset := by
  simp only [FusesFrom, PendingOk, MemoryOk]
  repeat' apply And.intro
  all_goals decide +kernel

theorem stepKeepsInvariants_witness :
    let s : State := { State.reset with pending := [.brownOut 7, .droopGapEnd 7 true], hostOut := [⟨4096, 1⟩] }
    (∃ t, step s = .next t) ∧ FusesFrom Fuses.reset s ∧ PendingOk s ∧ MemoryOk s := by
  simp only [FusesFrom, PendingOk, MemoryOk]
  refine ⟨⟨_, rfl⟩, ⟨by decide +kernel, by decide +kernel⟩, by decide +kernel, by decide +kernel⟩

theorem queueIsTheSendersAlone_witness :
    (∃ t, exec (.brownOut 7) State.reset = .next t) ∧ State.reset.pending = [] ∧ droneOnly State.reset = false ∧ State.reset.win.pause = false := by
  refine ⟨⟨_, rfl⟩, by decide +kernel, by decide +kernel, by decide +kernel⟩
/-! ## Single operations and steps -/

/-- The state after a command. -/
def after (c : Instr) (s : State) : State :=
  match exec c s with
  | .next t => t
  | .fault _ => s
  | .refused _ => s

-- The worked example of R36: 1,234,567 × 2⁻¹⁷ − 3,000 × 2⁻¹² = 1,138,567 × 2⁻¹⁷, times 8, is code 69, not clipped.
theorem test_requantize_example :
    let y := Fp.fma (Fp.ofInt (-3000)) (Fp.pow2 (-12)) (Fp.mul (Fp.ofInt 1234567) (Fp.pow2 (-17)))
    y = Fp.mul (Fp.ofInt 1138567) (Fp.pow2 (-17)) ∧ requantize y (Fp.ofInt 8) = ⟨69, false, false⟩ := by decide +kernel

-- R36: a NaN gives code 0, the infinities ±127, and each raises the non-finite flag.
theorem test_requantize_nonfinite :
    requantize 0x7FC00000 Fp.one = ⟨0, true, true⟩ ∧ requantize 0xFF800000 Fp.one = ⟨-127, true, true⟩
      ∧ requantize 0x7F800000 Fp.one = ⟨127, true, true⟩ := by decide +kernel

-- By hand: 1.5 × 1.5 = 2.25, 1 + 2⁻²⁴ ties to 1, 1 + 3 × 2⁻²⁴ ties to 1 + 2⁻²², and 1 / 0 is infinite.
theorem test_fp32 :
    Fp.mul 0x3FC00000 0x3FC00000 = 0x40100000 ∧ Fp.add Fp.one (Fp.pow2 (-24)) = Fp.one
      ∧ Fp.add Fp.one (Fp.mul (Fp.ofInt 3) (Fp.pow2 (-24))) = 0x3F800002 ∧ Fp.div Fp.one 0 = 0x7F800000
      ∧ Fp.sqrt 0x40800000 = 0x40000000 ∧ Fp.max 0x80000000 0 = 0 ∧ Fp.min 0 0x80000000 = 0x80000000 := by decide +kernel

/-- The ring of the worked example of R41 with H = 4 and MARGIN 1.25. -/
def exampleRing : Ring :=
  { tensorId := 0, init := Fp.one, margin := 0x3FA00000, h := 4, checked := false, scale := Fp.one, recip := Fp.one, count := 4
    entries := [(0, ⟨0x40500000, false, false, 0⟩), (1, ⟨0x40800000, false, false, 0⟩), (2, ⟨0x40600000, false, false, 0⟩), (3, ⟨0x40700000, false, false, 0⟩)] }

-- The worked example of R41: step t begins with rne(5.0 / 127); step t is skipped with 6.5, which gives rne(8.125 / 127) × 2.
theorem test_ring_example :
    exampleRing.rescale.scale = Fp.div (Fp.ofInt 5) (Fp.ofInt 127)
      ∧ (let g := exampleRing.close 16 0x40D00000 true 0 0 true 0;
         g.backoff = 1 ∧ g.calm = 0 ∧ g.scale = Fp.mul (Fp.div 0x41020000 (Fp.ofInt 127)) (Fp.ofInt 2))
      ∧ (let g := ({ exampleRing with backoff := 1, calm := 15 } : Ring).close 16 0x40800000 false 0 0 false 0;
         g.backoff = 0 ∧ g.calm = 0) := by decide +kernel

-- FIPS 180-4: SHA-384 of "abc". CRC-32C of "123456789", its published check value.
theorem test_digests :
    beNat (sha384 (ascii "abc"))
        = 0xcb00753f45a35e8bb5a03d699ac65007272c32ab0eded1631a8b605a43ff5bed8086072ba1e7cc2358baeca134c825a7
      ∧ crc32c (ascii "123456789") = 0xE3069283 := by decide +kernel

-- The worked example of R354 to R356: a point whose x is p completes ECDH with 0x0703 and zeros.
theorem test_ecdh_bad_point : engineRun true (.ecdh 5 ⟨P384.p, 3⟩) 0 = { status := 0x0703, output := zeros 48 } := by decide +kernel

-- The worked example of R402: SEQ 0 in copy B follows 0xFFFF_FFFF in copy A.
theorem test_serial_example : (0 + 2 ^ 32 - 0xFFFFFFFF) % 2 ^ 32 = 1 := by decide

-- Table 5.19's worked example: index 1,042 of generation 3 is handle 0x0030_0412, freed it stands at generation 4.
theorem test_free_example :
    let c := cmdOf 5 10 [(16, toLe 4 0x00300412)]
    let s : State := { world jobOf [c] with bufs := [(1042, { bufOf 64 with gen := 3, ownerQ := some 0 })], index := [(1042, { gen := 3, ever := true, live := true })] }
    let t := after (.free 0) s
    mkHandle 3 1042 = 0x00300412 ∧ FMap.get? t.bufs 1042 = none ∧ ((FMap.get? t.index 1042).map IndexState.gen) = some 4
      ∧ freeCheck { t with queues := s.queues } 0 (queueOf [c]) 0x00300412 = 0x0212 := by
  dsimp only
  repeat' apply And.intro
  all_goals decide +kernel

-- R80, by hand: lane i of VLANE is i; VADD adds lane by lane; a mask keeps the other lanes.
theorem test_vlane_vadd :
    let s := after (.vlane 3 (vargs 1 0 0 0 0 0 0)) State.reset
    let t := after (.vadd 3 (vargs 2 1 1 0 0 0 0)) s
    ((vecOf t 3).reg 2).getD 511 0 = Fp.ofInt 1022 ∧ ((vecOf t 3).reg 2).getD 1 0 = 0x40000000 ∧ vecOf t 2 = vecOf State.reset 2 := by
  dsimp only
  repeat' apply And.intro
  all_goals decide +kernel

-- R80, by hand: SLI of −1 fills the scalar, SADD of 2 wraps it to 1.
theorem test_sli_sadd :
    let t := after (.sadd 0 (vargs 15 0 0 0 0 0 2)) (after (.sli 0 (vargs 15 0 0 0 0 0 (2 ^ 26 - 1))) State.reset)
    (vecOf t 0).scalar 15 = 1 := by decide +kernel

-- Table 11.3, by hand: an add of 1 to a counter of 41 makes it 42 and commits.
theorem test_counter_add :
    let t := after (.syncCounterAdd 0) (syncWorld (counterOf 41) [syncOf 1 1])
    (syncAt t 65535).map SyncObj.value = some 42 ∧ (queueAt t 0).map Queue.cmds = some [] := by
  dsimp only
  repeat' apply And.intro
  all_goals decide +kernel

-- The worked example of R464: the park lasts two drone ticks, and the new function is in place at its end.
theorem test_gpio_example :
    let t := after (.gpioFunctionWrite .installer 2 4) { State.reset with pins := { State.reset.pins with gpioFn := [(2, 2)] } }
    let u := after (.gpioParkEnd 2) t
    FMap.get? t.pins.gpioFn 2 = none ∧ u.drone = 2 ∧ FMap.get? u.pins.gpioFn 2 = some 4 := by
  dsimp only
  repeat' apply And.intro
  all_goals decide +kernel

-- The worked example of R446 to R448: west writes epoch 2; east's message of epoch 1 to cluster 3 is then dropped and counted.
theorem test_lease_example :
    let t := after .leaseTakeover State.reset
    let u := after (.managementMessage 3 .east 1) (after (.managementMessage 3 .west 2) t)
    dnum t 0xB000 2 = 2 ∧ leader t = .west ∧ dnum u 0xB000 5 = 1 ∧ (alarmAt u 72).state = 1 := by
  dsimp only
  repeat' apply And.intro
  all_goals decide +kernel

-- Table 15.4: the first wakes start their ramps at once and their clusters' PLLs with them.
theorem test_wake_example :
    let t := after (.wakeRequest 0) State.reset
    (coreAt t 0).power = .ramping ∧ (clusterAt t 0).pll = .locking ∧ (after (.rampEnd 0) t).now = 4000
      ∧ (coreAt (after (.rampEnd 0) t) 0).power = .ramped ∧ (coreAt (after (.pllLock 0) (after (.rampEnd 0) t)) 0).power = .on := by
  dsimp only
  repeat' apply And.intro
  all_goals decide +kernel

-- R387 and R390, by the table of steps: a start whose fuse check fails is recorded with step 1 and 0x0C09.
theorem test_start_failure :
    let t := after (.coldStart { obsOf true true with fuseOk := false }) (startWorld 0 2)
    dnum t 0x1200 3 = 1 ∧ dnum t 0x1200 4 = 0x0C09 ∧ dnum t 0x1200 2 = 2 := by
  dsimp only
  repeat' apply And.intro
  all_goals decide +kernel

-- R383: 115 °C takes the rails and THERMTRIP#; 106 °C raises the over-temperature alarm.
theorem test_temperature :
    (after (.dieTemperatureHigh 0 115) State.reset).pins.thermtripN = false ∧ (after (.dieTemperatureHigh 0 115) State.reset).pwr.rails = false
      ∧ (alarmAt (after (.dieTemperatureHigh 0 106) State.reset) 13).state = 1 := by
  repeat' apply And.intro
  all_goals decide +kernel

-- Table 17.4: an operator may not write a configuration entry; 0x0706 goes back in the response's status, bytes 14 and 15.
theorem test_set_refused :
    let s : State := { State.reset with sec := { State.reset.sec with sessions := [(0, ⟨.operator, true⟩)] } }
    let t := after (.set ⟨.pcie, some 0⟩ (request 2 0x2300 1 1 4 (toLe 4 1000))) s
    ((FMap.get? t.tel.fdpOut 1).map fun r => field r 14 2) = some 0x0706 ∧ dnum t 0x2300 1 = 10000000 := by
  dsimp only
  repeat' apply And.intro
  all_goals decide +kernel

-- R417: a read of the beat counter answers the beat in which it was taken.
theorem test_get_beat :
    let s : State := { State.reset with now := 77, sec := { State.reset.sec with sessions := [(0, ⟨.operator, true⟩)] } }
    let t := after (.get ⟨.pcie, some 0⟩ (request 1 0x6F00 1 0 0 [])) s
    ((FMap.get? t.tel.fdpOut 1).map fun r => r.drop 14) = some (toLe 2 0 ++ toLe 8 77) := by
  decide +kernel

-- R80: VCMP with FN 4 is illegal; the command fails with 0x0E01 and its queue stops.
theorem test_vcmp_illegal :
    let t := after (.vcmp 0 (vargs 0 0 0 0 0 4 0)) (vecWorld { owner := some (0, 5) } jobOf)
    (queueAt t 0).map (fun Q => (Q.stopped, Q.status)) = some (true, 0x0E01) := by
  decide +kernel

-- R107 and Table 12.4: a doorbell of the wrong size changes no TAIL and is counted.
theorem test_doorbell :
    let s := world jobOf []
    (queueAt (after (.doorbell 0 0 5 true) s) 0).map Queue.tail = some 5 ∧ (queueAt (after (.doorbell 0 0 5 false) s) 0).map Queue.tail = some 0 := by
  dsimp only
  repeat' apply And.intro
  all_goals decide +kernel

-- R344: failover makes hub west's interface the active one.
theorem test_failover :
    activeHub (after (.failoverRequest .operator) State.reset) = 1
      ∧ activeHub (after .eastLinkDownTimeout (after (.failoverRequest .operator) State.reset)) = 1 := by
  repeat' apply And.intro
  all_goals decide +kernel

-- R444: a core declared dead gives its name to the spare, physical core 4 of its cluster.
theorem test_declare_dead :
    let t := after (.declareDead .operator 2 1) State.reset
    (clusterAt t 2).names = [0, 4, 2, 3] ∧ (clusterAt t 2).spare = none ∧ (clusterAt t 2).fenced = [1] := by
  dsimp only
  repeat' apply And.intro
  all_goals decide +kernel

-- The table gives a row no bits, so a word spells no command.
theorem test_no_word : decodeTableWord 16 0 = none ∧ State.reset.withFetchWord 16 0 = State.reset := by
  repeat' apply And.intro
  all_goals decide +kernel

-- R167: AES-256-XTS, the first block of vector 10 of IEEE 1619 (keys from the digits of e and of pi, data unit 0xFF).
theorem test_xts_vector :
    xts (toBe 32 0x2718281828459045235360287471352662497757247093699959574966967627
        ++ toBe 32 0x3141592653589793238462643383279502884197169399375105820974944592) 0xFF (toBe 16 0x000102030405060708090a0b0c0d0e0f)
      = toBe 16 0x1c3b3a102f770386e4836c99e370cf9b := by
  decide +kernel

-- R167: the tweak of physical address 128 in the capacity tier, partition 3.
theorem test_unit_tweak : unitTweak 128 true 3 = 0x0007000000000002 := by decide +kernel

-- Tables 13.1 and 13.2: trunk 0 and the trunk of W23; a barrier token's header, field by field.
theorem test_trunk_ports : trunkPorts 0 = [0, 1, 12, 13] ∧ trunkOf 23 = 5
    ∧ flitHeader State.reset { cls := 1, type := 6, dest := 5, lseq := 2 } = 0x00500000000000000216000000000001 := by
  decide +kernel

end Sys2Proof.Tests
end

/-! SUPPORT. Fields of byte records, filters of sparse tables, and how a mailbox request is taken and answered. -/

namespace Sys2Proof

/-! ## Bytes: a field read back from a record -/

@[simp] theorem length_toLe (n v : Nat) : (toLe n v).length = n := by
  induction n generalizing v with
  | zero => rfl
  | succ n ih => simp [toLe, ih]

/-- A number that fits in `n` bytes is read back from them. -/
theorem leNat_toLe (n v : Nat) (h : v < 256 ^ n) : leNat (toLe n v) = v := by
  induction n generalizing v with
  | zero => simp [toLe, leNat]; omega
  | succ n ih =>
    have hq : v / 256 < 256 ^ n := Nat.div_lt_of_lt_mul (by rw [Nat.pow_succ] at h; omega)
    simp [toLe, leNat, ih _ hq, Nat.mod_add_div]

/-- A little-endian field behind `off` bytes holds the number that stands there. -/
theorem field_append_toLe (a rest : List Byte) (off n v : Nat) (ha : a.length = off) (hv : v < 256 ^ n) :
    field (a ++ (toLe n v ++ rest)) off n = v := by
  have hs : slice (a ++ (toLe n v ++ rest)) off n = toLe n v := by simp [slice, ← ha]
  rw [field, hs, leNat_toLe n v hv]

/-! ## Tables: reading after a filter -/

namespace FMap

variable {α : Type}

theorem get?_eq_none_of_keys_ne (m : FMap α) (k : Nat) (h : ∀ e ∈ m, e.1 ≠ k) : get? m k = none := by
  induction m with
  | nil => rfl
  | cons e t ih =>
    obtain ⟨j, v⟩ := e
    have hj : j ≠ k := h (j, v) List.mem_cons_self
    simp [get?, hj, ih fun e he => h e (List.mem_cons_of_mem _ he)]

/-- In a table with rising keys, a filter keeps the entry of a key exactly where it keeps that entry. -/
theorem get?_filter_of_wf (m : FMap α) (p : Nat × α → Bool) (k : Nat) (h : wf m = true) :
    get? (m.filter p) k = (get? m k).filter fun v => p (k, v) := by
  induction m with
  | nil => rfl
  | cons e t ih =>
    obtain ⟨j, v⟩ := e
    obtain ⟨hlt, ht⟩ := List.pairwise_cons.1 ((wf_iff _).1 h)
    have ih := ih ((wf_iff t).2 ht)
    by_cases hj : j = k
    · subst hj
      have hnone : get? (t.filter p) j = none :=
        get?_eq_none_of_keys_ne _ _ fun e he => Nat.ne_of_gt (hlt e (List.mem_filter.1 he).1)
      cases hp : p (j, v) <;> simp [List.filter, hp, get?, hnone, Option.filter_some]
    · cases hp : p (j, v) <;> simp [List.filter, hp, get?, hj, ih]

end FMap

namespace Machine

/-! ## Requests of a mailbox -/

@[simp] theorem popMessage_queues (s : State) (fn : Nat) (m : MboxMsg) : (popMessage s fn m).queues = s.queues := rfl

@[simp] theorem answer_queues (s : State) (fn : Nat) (m : MboxMsg) (st : Status) (n : Nat) :
    (answer s fn m st n).queues = s.queues := by
  unfold answer
  split <;> rfl

/-- Whatever its class, an answer is one response whose bytes are TAG, then the status. -/
theorem answer_eq_respond (s : State) (fn : Nat) (m : MboxMsg) (st : Status) (n : Nat) :
    ∃ rest, answer s fn m st n
      = respond s fn m.cls m.seq (toLe 4 (messageTag m.cls m.bytes) ++ (toLe 2 st ++ rest)) := by
  unfold answer
  split
  next h =>
    unfold statusBytes
    split
    next e => exact ⟨_, by simp only [placementBytes, e, List.append_assoc]; rfl⟩
    next e => exact ⟨_, by simp only [baseBytes, e, List.append_assoc]; rfl⟩
    next h3 h5 => simp_all
  next => exact ⟨_, by simp only [response32, List.append_assoc]; rfl⟩

/-- A request that was taken from the mailbox and is answered, its run having left the mailbox alone. -/
theorem answered_answer (s t : State) (fn : Nat) (m : MboxMsg) (st : Status) (n : Nat) (hin : (mboxAt s fn).inbox = [m])
    (ht : mboxAt t fn = mboxAt (popMessage s fn m) fn) (hst : st < 2 ^ 16) :
    Answered s (answer t fn m st n) fn m st := by
  obtain ⟨rest, e⟩ := answer_eq_respond t fn m st n
  have hbox : mboxAt (answer t fn m st n) fn = { mboxAt s fn with
      inbox := [], consumed := ((mboxAt s fn).consumed + m.frames) % 2 ^ 32
      held := (mboxAt s fn).held ++ [⟨m.cls, m.seq, toLe 4 (messageTag m.cls m.bytes) ++ (toLe 2 st ++ rest)⟩] } := by
    rw [e, respond, mboxAt_updMbox_self, ht, popMessage, mboxAt_updMbox_self, hin]
    rfl
  refine ⟨⟨by rw [hbox], by rw [hbox]⟩, _, by rw [hbox], rfl, rfl, ?_⟩
  exact field_append_toLe _ rest 4 2 st (length_toLe 4 _) hst

theorem refuseHeads_of_empty (s : State) (fn n : Nat) (h : (mboxAt s fn).inbox = []) : refuseHeads s fn n = s := by
  have hhead : headMessage s fn = none := by simp [headMessage, h]
  cases n with
  | zero => rfl
  | succ n => rw [refuseHeads, hhead]

/-- The request that stands alone at the head is taken and runs; nothing behind it is refused. -/
theorem onMessage_of_atHead (s : State) (fn cls op : Nat) (m : MboxMsg) (run : State → MboxMsg → State)
    (h : AtHead s fn m cls op) (hrun : (mboxAt (run (popMessage s fn m) m) fn).inbox = []) :
    onMessage s fn cls op run = run (popMessage s fn m) m := by
  obtain ⟨hhead, -, hcls, hop⟩ := h
  rw [onMessage, hhead]
  simp only [hcls, hop, decide_true, Bool.and_self, if_true]
  exact refuseHeads_of_empty _ _ _ hrun

/-! ## Queue requests -/

@[simp] theorem queueRequestStatus_popMessage (s : State) (fn fn' : Nat) (m : MboxMsg) (b : List Byte) (modes : Nat) :
    queueRequestStatus (popMessage s fn m) fn' b modes = queueRequestStatus s fn' b modes := rfl

/-- A queue request whose checks refuse it is answered with their status. -/
theorem onMessage_queueRequest_refused (s : State) (fn op : Nat) (m : MboxMsg) (modes : Nat)
    (run : State → Nat → Nat → State × Status) (h : AtHead s fn m 1 op) (hst : queueRequestStatus s fn m.bytes modes ≠ 0)
    (hlt : queueRequestStatus s fn m.bytes modes < 2 ^ 16) :
    ∃ t, onMessage s fn 1 op (fun s m => queueRequest s fn m modes run) = t
      ∧ Answered s t fn m (queueRequestStatus s fn m.bytes modes) ∧ t.queues = s.queues := by
  have hrun : queueRequest (popMessage s fn m) fn m modes run
      = answer (popMessage s fn m) fn m (queueRequestStatus s fn m.bytes modes) 0 := by simp [queueRequest, hst]
  obtain ⟨-, hin, -⟩ := id h
  have ha := answered_answer s (popMessage s fn m) fn m _ 0 hin rfl hlt
  have e := onMessage_of_atHead s fn 1 op m (fun s m => queueRequest s fn m modes run) h (by
    simp only [hrun]; exact ha.1.1)
  refine ⟨_, e, ?_⟩
  simp only [hrun]
  exact ⟨ha, by simp⟩

/-- A queue request whose checks pass runs and is answered with its status, where the run leaves the mailbox alone. -/
theorem onMessage_queueRequest_run (s t : State) (fn op : Nat) (m : MboxMsg) (modes : Nat) (st : Status)
    (run : State → Nat → Nat → State × Status) (h : AtHead s fn m 1 op) (hok : queueRequestStatus s fn m.bytes modes = 0)
    (hrun : run (popMessage s fn m) (field m.bytes 8 2) (field m.bytes 1 1) = (t, st))
    (ht : mboxAt t fn = mboxAt (popMessage s fn m) fn) (hlt : st < 2 ^ 16) :
    onMessage s fn 1 op (fun s m => queueRequest s fn m modes run) = answer t fn m st 0
      ∧ Answered s (answer t fn m st 0) fn m st := by
  have hq : queueRequest (popMessage s fn m) fn m modes run = answer t fn m st 0 := by simp [queueRequest, hok, hrun]
  obtain ⟨-, hin, -⟩ := id h
  have ha := answered_answer s t fn m st 0 hin ht hlt
  have e := onMessage_of_atHead s fn 1 op m (fun s m => queueRequest s fn m modes run) h (by
    simp only [hq]; exact ha.1.1)
  exact ⟨e.trans hq, ha⟩

end Machine
end Sys2Proof

/-! PROOFS. Queues: what giving up and restarting commands leave alone, a stopped queue, the release of a quarantine. -/

namespace Sys2Proof.Machine

/-! ## What leaves the queues alone -/

@[simp] theorem withdrawPartials_queues (s : State) (uid : Nat) : (withdrawPartials s uid).queues = s.queues := rfl
@[simp] theorem recallSignal_queues (s : State) (c : Cmd) : (recallSignal s c).queues = s.queues := rfl

@[simp] theorem countKilledArray_queues (s : State) (c : Cmd) : (countKilledArray s c).queues = s.queues := by
  have hroot (s : State) : (countRootWait s c).queues = s.queues := by
    unfold countRootWait
    split <;> rfl
  unfold countKilledArray
  dsimp only
  split
  · simp [hroot]
  · split <;> rfl

@[simp] theorem giveUp_queues (s : State) (q : Nat) (c : Cmd) : (giveUp s q c).queues = s.queues := by
  unfold giveUp
  extract_lets s1 s2 s3 s4
  have h2 : s2.queues = s.queues := by simp [s2, s1]
  have h3 : s3.queues = s.queues := by
    simp only [s3]
    split <;> simp [h2]
  have h4 : s4.queues = s.queues := by
    simp only [s4]
    split <;> simp [h3]
  split <;> simp [h4]

@[simp] theorem dropCmd_queues (s : State) (q : Nat) (c : Cmd) : (dropCmd s q c).queues = s.queues := by
  unfold dropCmd
  dsimp only
  split <;> simp

@[simp] theorem useCluster_queues (s : State) (c : Nat) : (useCluster s c).queues = s.queues := by
  unfold useCluster
  dsimp only
  split <;> rfl

@[simp] theorem startRamps_queues (s : State) : (startRamps s).queues = s.queues := by
  unfold startRamps
  refine foldl_queues _ (fun s e => ?_) _ _
  dsimp only
  split <;> rfl

@[simp] theorem requestWake_queues (s : State) (core : Nat) : (requestWake s core).queues = s.queues := by
  unfold requestWake
  dsimp only
  split <;> simp

/-! ## A queue that is stopped, and its restart (R308) -/

theorem commandStart_of_stopped (s : State) (q : Nat) (Q : Queue) (hq : queueAt s q = some Q) (h : Q.stopped = true) :
    commandStart s q = s := by
  have hnone : nextStart s q = none := by
    unfold nextStart
    rw [hq]
    dsimp only
    split <;> simp [h]
  rw [commandStart, hnone]

theorem mayFetch_of_stopped (Q : Queue) (n : Nat) (h : Q.stopped = true) (hn : Q.quarantined = false) : mayFetch Q n = false := by
  simp [mayFetch, h, hn]

theorem ringFetchInput_of_stopped (s : State) (q : Nat) (records : List Byte) (Q : Queue) (hq : queueAt s q = some Q)
    (h : Q.stopped = true) (hn : Q.quarantined = false) : ringFetchInput s q records = s := by
  simp [ringFetchInput, ringFetch, hq, mayFetch_of_stopped Q _ h hn]

/-- Queue `q` exists and is not stopped. -/
def QueueRuns (s : State) (q : Nat) : Prop := (queueAt s q).map Queue.stopped = some false

/-- A command that returns to its place before its start leaves its queue's stop as it is. -/
theorem restartCmd_stopped (s : State) (q : Nat) (c : Cmd) :
    (queueAt (restartCmd s q c) q).map Queue.stopped = (queueAt s q).map Queue.stopped := by
  unfold restartCmd
  extract_lets s1 s2 s3
  have h2 : s2.queues = s.queues := by
    simp only [s2]
    split <;> simp [s1]
  have h3 : queueAt s3 q = queueAt s q := queueAt_of_queues s s3 q (by
    simp only [s3]
    split <;> simp [h2])
  rw [updCmd, queueAt_updQueue, if_pos rfl, h3, Option.map_map]
  rfl

/-- A restart of a stopped queue that is not quarantined succeeds, and the queue runs again. -/
theorem restartQueue_of_stopped (s : State) (q : Nat) (Q : Queue) (hq : queueAt s q = some Q) (h : Q.stopped = true)
    (hn : Q.quarantined = false) :
    (restartQueue s q false).2 = 0 ∧ QueueRuns (restartQueue s q false).1 q := by
  unfold restartQueue QueueRuns
  rw [hq]
  simp only [h, hn, Bool.not_true, Bool.false_and, Bool.or_self, Bool.false_eq_true, if_false, true_and]
  rw [queueAt_releaseHeld, queueAt_updQueue, if_pos rfl, Option.map_map]
  refine foldl_keeps (QueueRuns · q) _ (fun t c ht => (restartCmd_stopped t q c).trans ht) _ _ ?_
  refine foldl_keeps (QueueRuns · q) _ (fun t c ht => ?_) _ _ ?_
  · exact (congrArg _ (queueAt_of_queues t _ q (dropCmd_queues t q c))).trans ht
  · simp [QueueRuns, hq]

/-! ## Release of a quarantine (R309) -/

/-- What the checks of a release answer a VF. -/
theorem queueRequestStatus_release_of_vf (s : State) (fn : Nat) (b : List Byte) (hop : field b 0 1 = 5) (hmode : field b 1 1 = 0)
    (hfn : fn ≠ 0) (hpart : field b 2 1 = 0) : queueRequestStatus s fn b 0 = 0x0808 := by
  simp [queueRequestStatus, requestPartOk, hop, hmode, hfn, hpart]

/-- They pass where the PF names a queue of the partition. -/
theorem queueRequestStatus_release_of_pf (s : State) (b : List Byte) (Q : Queue) (hop : field b 0 1 = 5) (hmode : field b 1 1 = 0)
    (hq : queueAt s (field b 8 2) = some Q) (hpart : field b 2 1 = Q.part) (hlt : Q.part < 32) :
    queueRequestStatus s 0 b 0 = 0 := by
  simp [queueRequestStatus, requestPartOk, requestPart, hop, hmode, hq, hpart, hlt]

theorem exec_releaseQuarantine (fn : Nat) (s : State) : exec (.releaseQuarantine fn) s
    = .next (onMessage s fn 1 5 fun s m => queueRequest s fn m 0 fun s q _ => (releaseQueue s q, 0)) := rfl

/-- Settles O32: the checks of a release tell PF from VF, and what a released queue does follows from its stop alone. -/
theorem quarantineRelease : Obligations.QuarantineRelease := by
  unfold Obligations.QuarantineRelease
  rintro s fn m q Q hat rfl hq hmode
  obtain ⟨-, -, -, hop⟩ := id hat
  refine ⟨fun hfn hpart => ?_, fun hfn hpart hlt => ?_⟩
  · have hst := queueRequestStatus_release_of_vf s fn m.bytes hop hmode hfn hpart
    obtain ⟨t, e, ha, ht⟩ := onMessage_queueRequest_refused s fn 5 m 0 (fun s q _ => (releaseQueue s q, 0)) hat
      (by simp [hst]) (by simp [hst])
    exact ⟨t, by rw [exec_releaseQuarantine, e], hst ▸ ha, ht⟩
  · subst hfn
    obtain ⟨e, ha⟩ := onMessage_queueRequest_run s (releaseQueue (popMessage s 0 m) (field m.bytes 8 2)) 0 5 m 0 0
      (fun s q _ => (releaseQueue s q, 0)) hat (queueRequestStatus_release_of_pf s m.bytes Q hop hmode hq hpart hlt) rfl rfl (by decide)
    generalize ht : answer _ 0 m 0 0 = t at e ha
    have hqueue (p : Nat) : queueAt t p
        = if p = field m.bytes 8 2 then (queueAt s p).map fun Q => { Q with quarantined := false, offences := [] } else queueAt s p := by
      rw [← ht, queueAt_of_queues _ _ p (answer_queues ..), releaseQueue, queueAt_updQueue]
      rfl
    have hself : queueAt t (field m.bytes 8 2) = some { Q with quarantined := false, offences := [] } := by
      rw [hqueue, if_pos rfl, hq]
      rfl
    refine ⟨t, by rw [exec_releaseQuarantine, e], ha, hself, fun p hp => by rw [hqueue, if_neg hp], fun hstop => ⟨?_, ?_, ?_⟩⟩
    · exact ⟨_, rfl, commandStart_of_stopped t _ _ hself hstop⟩
    · exact fun records => ⟨_, rfl, ringFetchInput_of_stopped t _ records _ hself hstop rfl⟩
    · exact restartQueue_of_stopped t _ _ hself hstop rfl

end Sys2Proof.Machine

/-! PROOFS. Dictionary writes: the audit record of an accepted write, and the epoch flush. -/

namespace Sys2Proof.Machine

/-! ## The audit log takes a record (R366, R367, R430) -/

theorem entryMax_auditCount : entryMax 0x8300 1 = 2 ^ 64 - 1 := by decide +kernel

/-- A record of the log up to its CHAIN (Table 14.9). -/
def auditHead (seq time role flags index sub event : Nat) (old new : List Byte) : List Byte :=
  toLe 8 seq ++ toLe 8 time ++ toLe 1 role ++ toLe 1 flags ++ toLe 2 index ++ toLe 1 sub
    ++ toLe 1 event ++ zeros 2 ++ slice old 0 28 ++ slice new 0 28

/-- The fields of a record that tell its place, its role and its entry. -/
theorem field_auditHead (seq time role flags index sub event : Nat) (old new rest : List Byte) (hseq : seq < 2 ^ 64)
    (hrole : role < 2 ^ 8) (hindex : index < 2 ^ 16) (hsub : sub < 2 ^ 8) :
    let r := auditHead seq time role flags index sub event old new ++ rest
    field r 0 8 = seq ∧ field r 16 1 = role ∧ field r 18 2 = index ∧ field r 20 1 = sub := by
  simp only [auditHead, List.append_assoc]
  refine ⟨field_append_toLe [] _ 0 8 seq rfl hseq, ?_, ?_, ?_⟩
  · simpa using field_append_toLe (toLe 8 seq ++ toLe 8 time) _ 16 1 role (by simp) hrole
  · simpa using field_append_toLe (toLe 8 seq ++ toLe 8 time ++ toLe 1 role ++ toLe 1 flags) _ 18 2 index (by simp) hindex
  · simpa using field_append_toLe (toLe 8 seq ++ toLe 8 time ++ toLe 1 role ++ toLe 1 flags ++ toLe 2 index) _ 20 1 sub
      (by simp) hsub

/-- With room the log takes a record without erasing a sector, filling up or raising its alarm. -/
theorem auditAppend_of_room (s : State) (role flags index sub event : Nat) (old new : List Byte) (h : AuditRoom s) :
    ∃ chain, auditAppend s role flags index sub event old new = dset
      { s with audit := {
          records := FMap.set s.audit.records (dnum s 0x8300 1)
            (auditHead (dnum s 0x8300 1) (stamp s) role flags index sub event old new ++ chain)
          chain } }
      0x8300 1 (dnum s 0x8300 1 + 1) := by
  obtain ⟨hroom, hrun, -⟩ := h
  have herase : eraseAudit s (dnum s 0x8300 1) = s := by simp [eraseAudit]; omega
  have hmod : dnum s 0x8300 1 % 65536 = dnum s 0x8300 1 := Nat.mod_eq_of_lt (by omega)
  have hbump (a : Audit) : bump { s with audit := a } 0x8300 1 1 = dset { s with audit := a } 0x8300 1 (dnum s 0x8300 1 + 1) := by
    have e : dnum { s with audit := a } 0x8300 1 = dnum s 0x8300 1 := rfl
    rw [bump, entryMax_auditCount, e, Nat.min_eq_left (by omega)]
  have hfull (a : Audit) : auditFull (dset { s with audit := a } 0x8300 1 (dnum s 0x8300 1 + 1)) = false := by
    simp [auditFull, hrun]; omega
  unfold auditAppend auditAppendAt
  simp only [herase, hmod, hbump, hfull, Bool.false_eq_true, if_false]
  exact ⟨_, rfl⟩

/-- The record of an accepted write: one more, of its role and entry, and nothing else changes. -/
theorem auditWrite_of_room (s : State) (role : Role) (index sub : Nat) (old new : DVal) (h : AuditRoom s) (hi : index < 2 ^ 16)
    (hs : sub < 2 ^ 8) :
    Recorded s (auditWrite s role index sub old new) role index sub ∧ EntriesKept s (auditWrite s role index sub old new) []
      ∧ auditWrite s role index sub old new
        = { s with dict := (auditWrite s role index sub old new).dict, audit := (auditWrite s role index sub old new).audit } := by
  obtain ⟨chain, e⟩ := auditAppend_of_room s (roleCode role)
    ((if droneOnly s then 1 else 0) + (if (auditValue index sub old).2 then 2 else 0) + if (auditValue index sub new).2 then 4 else 0)
    index sub 0 (auditValue index sub old).1 (auditValue index sub new).1 h
  have e : auditWrite s role index sub old new = _ := e
  obtain ⟨hroom, -, -⟩ := h
  rw [e]
  refine ⟨⟨dnum_dset_self .., _, FMap.get?_set_self .., ?_⟩, fun k _ hk => dget_dput_other _ _ _ _ hk, rfl⟩
  exact field_auditHead _ _ _ _ index sub _ _ _ chain (by omega) (by cases role <;> decide) hi hs

/-! ## The epoch flush (R319) -/

/-- The partition holds an admitted job or a queue. -/
def PartUsed (s : State) (part : Nat) : Prop :=
  (∃ j J, (j, J) ∈ s.jobs ∧ J.part = part) ∨ ∃ q Q, (q, Q) ∈ s.queues ∧ Q.part = part

theorem flushStatus_of_used (s : State) (part : Nat) (h : PartUsed s part) : flushStatus s part = 0x0809 := by
  rcases h with ⟨j, J, hmem, hp⟩ | ⟨q, Q, hmem, hp⟩
  · have : (s.jobs.any fun e => e.2.part = part) = true := List.any_eq_true.2 ⟨_, hmem, by simpa using hp⟩
    simp [flushStatus, this]
  · have : (s.queues.any fun e => e.2.part = part) = true := List.any_eq_true.2 ⟨_, hmem, by simpa using hp⟩
    simp [flushStatus, this]

theorem flushStatus_of_unused (s : State) (part : Nat) (h : ¬PartUsed s part) : flushStatus s part = 0 := by
  have hj : (s.jobs.any fun e => e.2.part = part) = false :=
    List.any_eq_false.2 fun e he hp => h (.inl ⟨e.1, e.2, he, by simpa using hp⟩)
  have hq : (s.queues.any fun e => e.2.part = part) = false :=
    List.any_eq_false.2 fun e he hp => h (.inr ⟨e.1, e.2, he, by simpa using hp⟩)
  simp [flushStatus, hj, hq]

/-- 1 is a value of the entry: a flag of one byte. -/
theorem valueStatus_flush (part : Nat) (h : part < 32) : valueStatus (0x4000 + part) 8 (.num 1) = 0 := by
  revert part
  decide +kernel

theorem ownStatus_flush (s : State) (part : Nat) (h : part < 32) :
    ownStatus s (0x4000 + part) 8 (.num 1) = flushStatus s part := by
  unfold ownStatus
  dsimp only
  rw [if_neg (by simp), if_neg (by simp), if_neg (by simp; omega), if_pos (by simp; omega), if_pos rfl]
  simp [DVal.toNat]

/-- A role that may write the entry meets the flush's own check first, then the staging and the audit log. -/
theorem writeStatus_flush (s : State) (role : Role) (part : Nat) (h : part < 32)
    (hright : rightStatus s role (0x4000 + part) 8 true = 0) :
    writeStatus s role none (0x4000 + part) 8 (.num 1)
      = if flushStatus s part ≠ 0 then flushStatus s part
        else if stagedByOther s none (0x4000 + part) 8 then 0x0D04
        else if auditFull s && !isHold s then 0x0711 else 0 := by
  have hex : auditExempt (0x4000 + part) 8 = false := by simp [auditExempt]
  unfold writeStatus
  rw [hright, valueStatus_flush part h, ownStatus_flush s part h, hex]
  simp

theorem writeEffect_flush (s : State) (role : Role) (part : Nat) (h : part < 32) :
    writeEffect s role (0x4000 + part) 8 (.num 1) = (flush s part, false) := by
  have hp : partitionEffect s (0x4000 + part) 8 (.num 1) = (flush s part, false) := by
    unfold partitionEffect
    rw [if_pos (by omega)]
    simp [DVal.toNat]
  unfold writeEffect
  dsimp only
  rw [if_neg (by omega), if_neg (by omega), if_neg (by simp; omega), if_neg (by simp), if_neg (by simp; omega), if_pos (by simp; omega), hp]

theorem exec_epochFlush (role : Role) (part : Nat) (s : State) (h : part < 32) : exec (.epochFlush role part) s
    = .next (writeEntry (settleAll s) role none (0x4000 + part) 8 (.num 1) none) := by
  show Machine.execEpochFlush role part s = _
  rw [execEpochFlush, if_pos h]

/-- A refused write draws one free value and changes nothing else. -/
theorem writeEntry_of_refused (s : State) (role : Role) (index sub : Nat) (v : DVal) (hserved : served s = true)
    (hidle : FMap.has s.tel.busy (dkey index sub) = false) (hst : writeStatus s role none index sub v ≠ 0) :
    writeEntry s role none index sub v none = drawn s 1 := by
  simp [writeEntry, hserved, hidle, hst, replyWrite]

theorem writeEntry_of_accepted (s : State) (role : Role) (index sub : Nat) (v : DVal) (reply : Option Reply)
    (h : Accepted s role index sub v) : writeEntry s role none index sub v reply = applyWrite s role index sub v reply := by
  obtain ⟨hserved, hidle, hst⟩ := h
  simp [writeEntry, hserved, hidle, hst]

/-- An accepted flush is recorded, and then takes effect. -/
theorem applyWrite_flush (s : State) (role : Role) (part : Nat) (h : part < 32) (hhold : isHold s = false) :
    applyWrite s role (0x4000 + part) 8 (.num 1) none
      = flush (auditWrite s role (0x4000 + part) 8 (dget s (dkey (0x4000 + part) 8)) (.num 1)) part := by
  have hv : withoutReserved (0x4000 + part) 8 (.num 1) = .num 1 := by simp [withoutReserved]
  have hnow : (auditExempt (0x4000 + part) 8 || auditLater (0x4000 + part) || isHold s) = false := by
    simp [auditExempt, auditLater, hhold]; omega
  unfold applyWrite
  simp only [hv, hnow, writeEffect_flush _ _ _ h, Bool.false_eq_true, if_false, replyWrite]

/-- The indices after a flush: a retired one of the partition without a buffer is free at generation 0, any other without a
buffer counts as one that has held none. -/
theorem get?_flush_index (s : State) (part k : Nat) (h : FMap.wf s.index = true) :
    FMap.get? (flush s part).index k = (FMap.get? s.index k).bind fun x =>
      if keyPart k = part ∧ x.live = false then (if x.retired then none else some { x with ever := false }) else some x := by
  have e : (flush s part).index = FMap.mapVal (s.index.filter fun e => !(keyPart e.1 = part && e.2.retired && !e.2.live))
      fun k x => if keyPart k = part && !x.live then { x with ever := false } else x := rfl
  rw [e, FMap.get?_mapVal, FMap.get?_filter_of_wf _ _ _ h]
  cases FMap.get? s.index k with
  | none => rfl
  | some x =>
    by_cases hp : keyPart k = part <;> cases hl : x.live <;> cases hr : x.retired <;> simp [Option.filter_some, hp, hl, hr]

theorem flush_frame (s : State) (part : Nat) :
    flush s part = { s with index := (flush s part).index, dict := (flush s part).dict } := rfl

/-- Settles O44: the write's status is the flush's own, and the flush follows its audit record. -/
theorem epochFlush : Obligations.EpochFlush := by
  unfold Obligations.EpochFlush
  intro s₀ role part s hpart hserved hidle hright used
  have hexec : exec (.epochFlush role part) s₀ = .next (writeEntry s role none (0x4000 + part) 8 (.num 1) none) :=
    exec_epochFlush role part s₀ hpart
  have hstatus := writeStatus_flush s role part hpart hright
  refine ⟨fun hused => ?_, fun hunused hstaged hroom hfull => ?_⟩
  · have hrefused : writeStatus s role none (0x4000 + part) 8 (.num 1) = 0x0809 := by
      rw [hstatus, flushStatus_of_used s part hused]
      rfl
    refine ⟨hrefused, _, hexec, ?_⟩
    rw [writeEntry_of_refused s role _ _ _ hserved hidle (by simp [hrefused])]
    rfl
  · have haccepted : Accepted s role (0x4000 + part) 8 (.num 1) :=
      ⟨hserved, hidle, by simp [hstatus, flushStatus_of_unused s part hunused, hstaged, hfull]⟩
    obtain ⟨-, -, hhold⟩ := id hroom
    have hwrite := (writeEntry_of_accepted s role _ _ _ none haccepted).trans (applyWrite_flush s role part hpart hhold)
    obtain ⟨⟨hcount, record⟩, hkept, hframe⟩ := auditWrite_of_room s role (0x4000 + part) 8
      (dget s (dkey (0x4000 + part) 8)) (.num 1) hroom (by omega) (by omega)
    generalize auditWrite s role (0x4000 + part) 8 _ _ = u at hwrite hcount record hkept hframe
    have hindex : u.index = s.index := by rw [hframe]
    refine ⟨flush u part, hexec.trans (congrArg _ hwrite), ?_, ?_, ⟨?_, record⟩, fun hwf k => ?_, fun q Q hmem hp => ?_⟩
    · rw [flush_frame, hframe]
    · have hepoch : dnum u (0x4000 + part) 7 = dnum s (0x4000 + part) 7 :=
        congrArg DVal.toNat (hkept _ (by simp) (by simp [dkey]; omega))
      rw [Counted, ← hepoch]
      exact dnum_bump_self ..
    · rw [← hcount]
      exact congrArg DVal.toNat (dget_bump_other _ _ _ _ _ (by simp [dkey]; omega))
    · rw [get?_flush_index u part k (by rw [hindex]; exact hwf), hindex]
    · rw [flush_frame, hframe] at hmem
      exact hunused (.inr ⟨q, Q, hmem, hp⟩)

end Sys2Proof.Machine

/-! PROOFS. Boundary scan: when it is accepted, and the refusal of a partition's first core while it is active. -/

namespace Sys2Proof.Machine

/-! ## Acceptance (R364) -/

theorem fuse_eq_bit (s : State) (n : Nat) : fuse s n = bit s.sec.fuses.protection.toNat n :=
  Nat.testBit_eq_decide_div_mod_eq

theorem anyPartition_eq_false_iff (s : State) :
    anyPartition s = false ↔ ∀ part, part < 32 → dnum s (0x4000 + part) 1 = 0 := by
  simp [anyPartition, partExists, List.any_eq_false]

/-- What a boundary-scan instruction needs: JTAG_EXTEST, and no partition that holds a core. -/
def ScanAllowed (s : State) : Prop :=
  bit s.sec.fuses.protection.toNat 4 = true ∧ ∀ part, part < 32 → dnum s (0x4000 + part) 1 = 0

theorem scanAllowed_iff (s : State) : ScanAllowed s ↔ (fuse s 4 && !anyPartition s) = true := by
  rw [ScanAllowed, ← fuse_eq_bit, ← anyPartition_eq_false_iff, Bool.and_eq_true, Bool.not_eq_true']

theorem scan_of_allowed (s : State) (h : ScanAllowed s) : scan s = { s with sec := { s.sec with scanActive := true } } :=
  if_pos ((scanAllowed_iff s).1 h)

theorem scan_of_not_allowed (s : State) (h : ¬ScanAllowed s) : scan s = bump s 0x8200 5 1 :=
  if_neg (mt (scanAllowed_iff s).2 h)

/-- A raised counter changes the dictionary alone. -/
theorem bump_frame (s : State) (index sub n : Nat) :
    bump s index sub n = { s with dict := (bump s index sub n).dict } := rfl

theorem exec_boundaryScan (intest : Bool) (s : State) : exec (.boundaryScan intest) s = .next (scan s) := rfl

/-! ## No partition is created during boundary scan (R364) -/

/-- Stepping past the codes that no refusal takes never goes down, so the code is not 0. -/
theorem unnamedRefusal_ne_zero (s : State) : unnamedRefusal s ≠ 0 := by
  have hstep (l : List Nat) (v : Nat) : v ≤ l.foldl (fun v c => if c ≤ v then v + 1 else v) v := by
    induction l generalizing v with
    | nil => exact Nat.le_refl v
    | cons c l ih =>
      refine Nat.le_trans ?_ (ih _)
      dsimp only
      split <;> omega
  have := hstep noRefusal (1 + Config.freeNat s.fresh % 4073)
  unfold unnamedRefusal
  omega

/-- A first core for a partition is refused where no partition can be created: by an earlier check, or by that one. -/
theorem coreMapStatus_of_noCreation (s : State) (part map : Nat) (h : noCreation s = true)
    (hfirst : dnum s (0x4000 + part) 1 = 0) (hmap : map ≠ 0) : coreMapStatus s part map ≠ 0 := by
  unfold coreMapStatus
  dsimp only
  split
  · decide
  split
  · decide
  rw [if_pos (by simp [hfirst, hmap, h])]
  exact unnamedRefusal_ne_zero s

theorem ownStatus_coreMap (s : State) (part : Nat) (map : DVal) (h : part < 32) :
    ownStatus s (0x4000 + part) 1 map = coreMapStatus s part map.toNat := by
  unfold ownStatus
  dsimp only
  rw [if_neg (by simp), if_neg (by simp; omega), if_neg (by simp; omega), if_pos (by simp; omega), if_neg (by decide),
    Nat.add_sub_cancel_left]
  rfl

/-- Outside the key limits a write that its own check refuses is refused, whichever check answers first. -/
theorem writeStatus_ne_zero_of_own (s : State) (role : Role) (who : Option Nat) (index sub : Nat) (v : DVal)
    (hindex : index < 0x4E00) (hown : ownStatus s index sub v ≠ 0) : writeStatus s role who index sub v ≠ 0 := by
  unfold writeStatus
  split
  next hright => exact hright
  split
  next hvalue => rwa [if_neg (by simp; omega)]
  exact hown

theorem exec_poolWrite_coreMap (role : Role) (part : Nat) (map : DVal) (s : State) (h : part < 32) :
    exec (.poolWrite role part 1 map) s = .next (writeEntry (settleAll s) role none (0x4000 + part) 1 map none) := by
  show Machine.execPoolWrite role part 1 map s = _
  rw [execPoolWrite, if_pos (by simp [h])]

/-- Settles O57: an instruction is accepted or counted by its two conditions, and a first core meets the core map's own check. -/
theorem boundaryScan : Obligations.BoundaryScan := by
  unfold Obligations.BoundaryScan
  refine ⟨fun s intest => ⟨fun hallowed => ?_, fun hrefused => ?_⟩, ?_⟩
  · exact ⟨scan s, exec_boundaryScan intest s, scan_of_allowed s hallowed⟩
  · refine ⟨bump s 0x8200 5 1, ?_, bump_frame .., dnum_bump_self .., dget_bump_other s _ _ _⟩
    rw [exec_boundaryScan, scan_of_not_allowed s hrefused]
  · intro s₀ role part map s hactive hpart hfirst hmap hserved hidle
    have hno : noCreation s = true := by simp [noCreation, hactive]
    have hstatus : writeStatus s role none (0x4000 + part) 1 map ≠ 0 := by
      refine writeStatus_ne_zero_of_own s role none _ 1 map (by omega) ?_
      rw [ownStatus_coreMap s part map hpart]
      exact coreMapStatus_of_noCreation s part map.toNat hno hfirst hmap
    refine ⟨hstatus, drawn s 1, ?_, rfl, hfirst⟩
    rw [exec_poolWrite_coreMap role part map s₀ hpart, writeEntry_of_refused s role _ 1 map hserved hidle hstatus]

end Sys2Proof.Machine

/-! PROOFS. Frames: which fields of the state an operation may touch. One lemma for each operation, in the order of the
definitions; with its frame each operation keeps the fuses and the canonical form of the memories. -/

namespace Sys2Proof.Machine

/-! ## Frames -/

/-- The fields of the state. -/
inductive StateField where
  | now | drone | fresh | uid | dict | tel | audit | sec | cfg | pwr | pins | clusters | cores | queues | jobs | parts | bufs |
    index | tiered | keys | keyGens | dirs | ctxs | sync | reds | mbx | host | win | miss | lease | rel | hbm | hostOut |
    pending
  deriving DecidableEq

/-- A field has the same value in both states. -/
@[simp] def StateField.same (s t : State) : StateField → Prop
  | .now => t.now = s.now
  | .drone => t.drone = s.drone
  | .fresh => t.fresh = s.fresh
  | .uid => t.uid = s.uid
  | .dict => t.dict = s.dict
  | .tel => t.tel = s.tel
  | .audit => t.audit = s.audit
  | .sec => t.sec = s.sec
  | .cfg => t.cfg = s.cfg
  | .pwr => t.pwr = s.pwr
  | .pins => t.pins = s.pins
  | .clusters => t.clusters = s.clusters
  | .cores => t.cores = s.cores
  | .queues => t.queues = s.queues
  | .jobs => t.jobs = s.jobs
  | .parts => t.parts = s.parts
  | .bufs => t.bufs = s.bufs
  | .index => t.index = s.index
  | .tiered => t.tiered = s.tiered
  | .keys => t.keys = s.keys
  | .keyGens => t.keyGens = s.keyGens
  | .dirs => t.dirs = s.dirs
  | .ctxs => t.ctxs = s.ctxs
  | .sync => t.sync = s.sync
  | .reds => t.reds = s.reds
  | .mbx => t.mbx = s.mbx
  | .host => t.host = s.host
  | .win => t.win = s.win
  | .miss => t.miss = s.miss
  | .lease => t.lease = s.lease
  | .rel => t.rel = s.rel
  | .hbm => t.hbm = s.hbm
  | .hostOut => t.hostOut = s.hostOut
  | .pending => t.pending = s.pending

/-- Every field of `F` is one of `G`; on two lists written out this computes. -/
def StateField.within (F G : List StateField) : Bool := F.all fun k => G.contains k

theorem StateField.subset_of_within {F G : List StateField} (h : StateField.within F G = true) : F ⊆ G := fun k hk => by
  simpa using List.all_eq_true.1 h k hk

/-- The fuses are as before, but that ANTI_ROLLBACK may have risen (R400). -/
def FusesRise (s t : State) : Prop := FusesFrom s.sec.fuses t

/-- Only the fields of `F` differ from `s` in `t`; the fuses have at most risen, and memories keep their canonical form. -/
structure Only (F : List StateField) (s t : State) : Prop where
  same : ∀ k, k ∉ F → k.same s t
  fuses : FusesRise s t
  memory : MemoryOk s → MemoryOk t

namespace Only

variable {F G : List StateField} {s t u : State}

theorem refl (s : State) : Only [] s s := ⟨fun k _ => by cases k <;> rfl, ⟨rfl, Nat.le_refl _⟩, id⟩

theorem weaken (h : Only F s t) (hF : F ⊆ G) : Only G s t :=
  ⟨fun k hk => h.same k fun hm => hk (hF hm), h.fuses, h.memory⟩

/-- A wider frame, where both lists are written out. -/
theorem mono (hF : StateField.within F G = true) (h : Only F s t) : Only G s t :=
  h.weaken (StateField.subset_of_within hF)

theorem same_trans (k : StateField) (h : k.same s t) (h' : k.same t u) : k.same s u := by
  cases k <;> exact Eq.trans h' h

theorem fuses_trans (h : FusesRise s t) (h' : FusesRise t u) : FusesRise s u := by
  obtain ⟨e, hle⟩ := h
  obtain ⟨e', hle'⟩ := h'
  exact ⟨e'.trans (by rw [e]), Nat.le_trans hle hle'⟩

theorem trans (h : Only F s t) (h' : Only G t u) : Only (F ++ G) s u where
  same k hk :=
    have hk := not_or.1 fun hm => hk (List.mem_append.2 hm)
    same_trans k (h.same k hk.1) (h'.same k hk.2)
  fuses := fuses_trans h.fuses h'.fuses
  memory hs := h'.memory (h.memory hs)

/-- A frame within the frame that stands before it. -/
theorem andThen (h : Only F s t) (h' : Only F t u) : Only F s u := (h.trans h').weaken (by simp)

/-- A step between two others of one frame. -/
theorem around {v : State} (h : Only F s t) (h' : Only G t u) (h'' : Only F u v) : Only (F ++ G) s v :=
  (h.trans (h'.trans h'')).weaken (by simp)

/-- Nothing changed, for any frame. -/
theorem self (s : State) : Only F s s := (refl s).weaken (List.nil_subset F)

theorem left (h : Only F s t) : Only (F ++ G) s t := h.weaken (List.subset_append_left F G)

theorem right (h : Only G s t) : Only (F ++ G) s t := h.weaken (List.subset_append_right F G)

/-- The state of a pair, taken apart. -/
theorem of_fst {α : Type} {p : State × α} {a : α} (h : Only F s p.1) (e : p = (t, a)) : Only F s t := by
  subst e
  exact h

theorem ite {c : Prop} [Decidable c] (h : Only F s t) (h' : Only G s u) : Only (F ++ G) s (if c then t else u) := by
  split
  · exact h.weaken (List.subset_append_left F G)
  · exact h'.weaken (List.subset_append_right F G)

theorem foldl {α : Type} {f : State → α → State} (h : ∀ s a, Only F s (f s a)) (l : List α) (s : State) :
    Only F s (l.foldl f s) := by
  induction l generalizing s with
  | nil => exact (refl s).weaken (List.nil_subset F)
  | cons a l ih => exact (h s a).andThen (ih _)

/-- Either way within one frame. -/
theorem either_fst {α : Type} {c : Prop} [Decidable c] {p q : State × α} (h : Only F s p.1) (h' : Only F s q.1) :
    Only F s (if c then p else q).1 := by
  split
  · exact h
  · exact h'

theorem foldl_fst {α β : Type} {f : State × β → α → State × β} (h : ∀ p a, Only F p.1 (f p a).1) (l : List α) (p : State × β) :
    Only F p.1 (l.foldl f p).1 := by
  induction l generalizing p with
  | nil => exact self p.1
  | cons a l ih => exact (h p a).andThen (ih _)

theorem elim {α : Type} {o : Option α} {f : α → State} (h : Only F s t) (h' : ∀ a, Only G s (f a)) :
    Only (F ++ G) s (o.elim t f) := by
  cases o with
  | none => exact h.weaken (List.subset_append_left F G)
  | some a => exact (h' a).weaken (List.subset_append_right F G)

end Only

/-- Changes of the fields of `F` that leave the fuses and both memories alone. -/
theorem Only.of_same {F : List StateField} {s t : State} (h : ∀ k, k ∉ F → k.same s t) (hf : t.sec.fuses = s.sec.fuses)
    (hh : t.hbm = s.hbm) (ho : t.hostOut = s.hostOut) : Only F s t :=
  ⟨h, by simp [FusesRise, FusesFrom, hf], fun hm => by simpa [MemoryOk, hh, ho] using hm⟩

/-! ## One field replaced -/

theorem setNow_only (s : State) (v : Nat) : Only [.now] s { s with now := v } :=
  .of_same (fun k hk => by cases k <;> simp_all [StateField.same]) rfl rfl rfl
theorem setDrone_only (s : State) (v : Nat) : Only [.drone] s { s with drone := v } :=
  .of_same (fun k hk => by cases k <;> simp_all [StateField.same]) rfl rfl rfl
theorem setFresh_only (s : State) (v : Nat) : Only [.fresh] s { s with fresh := v } :=
  .of_same (fun k hk => by cases k <;> simp_all [StateField.same]) rfl rfl rfl
theorem setUid_only (s : State) (v : Nat) : Only [.uid] s { s with uid := v } :=
  .of_same (fun k hk => by cases k <;> simp_all [StateField.same]) rfl rfl rfl
theorem setDict_only (s : State) (v : FMap DVal) : Only [.dict] s { s with dict := v } :=
  .of_same (fun k hk => by cases k <;> simp_all [StateField.same]) rfl rfl rfl
theorem setTel_only (s : State) (v : Telemetry) : Only [.tel] s { s with tel := v } :=
  .of_same (fun k hk => by cases k <;> simp_all [StateField.same]) rfl rfl rfl
theorem setAudit_only (s : State) (v : Audit) : Only [.audit] s { s with audit := v } :=
  .of_same (fun k hk => by cases k <;> simp_all [StateField.same]) rfl rfl rfl
theorem setCfg_only (s : State) (v : ConfigStore) : Only [.cfg] s { s with cfg := v } :=
  .of_same (fun k hk => by cases k <;> simp_all [StateField.same]) rfl rfl rfl
theorem setPwr_only (s : State) (v : Power) : Only [.pwr] s { s with pwr := v } :=
  .of_same (fun k hk => by cases k <;> simp_all [StateField.same]) rfl rfl rfl
theorem setPins_only (s : State) (v : Pins) : Only [.pins] s { s with pins := v } :=
  .of_same (fun k hk => by cases k <;> simp_all [StateField.same]) rfl rfl rfl
theorem setClusters_only (s : State) (v : FMap Cluster) : Only [.clusters] s { s with clusters := v } :=
  .of_same (fun k hk => by cases k <;> simp_all [StateField.same]) rfl rfl rfl
theorem setCores_only (s : State) (v : FMap Core) : Only [.cores] s { s with cores := v } :=
  .of_same (fun k hk => by cases k <;> simp_all [StateField.same]) rfl rfl rfl
theorem setQueues_only (s : State) (v : FMap Queue) : Only [.queues] s { s with queues := v } :=
  .of_same (fun k hk => by cases k <;> simp_all [StateField.same]) rfl rfl rfl
theorem setJobs_only (s : State) (v : FMap Job) : Only [.jobs] s { s with jobs := v } :=
  .of_same (fun k hk => by cases k <;> simp_all [StateField.same]) rfl rfl rfl
theorem setParts_only (s : State) (v : FMap Part) : Only [.parts] s { s with parts := v } :=
  .of_same (fun k hk => by cases k <;> simp_all [StateField.same]) rfl rfl rfl
theorem setBufs_only (s : State) (v : FMap Buf) : Only [.bufs] s { s with bufs := v } :=
  .of_same (fun k hk => by cases k <;> simp_all [StateField.same]) rfl rfl rfl
theorem setIndex_only (s : State) (v : FMap IndexState) : Only [.index] s { s with index := v } :=
  .of_same (fun k hk => by cases k <;> simp_all [StateField.same]) rfl rfl rfl
theorem setTiered_only (s : State) (v : FMap Tiered) : Only [.tiered] s { s with tiered := v } :=
  .of_same (fun k hk => by cases k <;> simp_all [StateField.same]) rfl rfl rfl
theorem setKeys_only (s : State) (v : FMap KeyRec) : Only [.keys] s { s with keys := v } :=
  .of_same (fun k hk => by cases k <;> simp_all [StateField.same]) rfl rfl rfl
theorem setKeyGens_only (s : State) (v : FMap Nat) : Only [.keyGens] s { s with keyGens := v } :=
  .of_same (fun k hk => by cases k <;> simp_all [StateField.same]) rfl rfl rfl
theorem setDirs_only (s : State) (v : FMap DirEntry) : Only [.dirs] s { s with dirs := v } :=
  .of_same (fun k hk => by cases k <;> simp_all [StateField.same]) rfl rfl rfl
theorem setCtxs_only (s : State) (v : FMap Ctx) : Only [.ctxs] s { s with ctxs := v } :=
  .of_same (fun k hk => by cases k <;> simp_all [StateField.same]) rfl rfl rfl
theorem setSync_only (s : State) (v : FMap SyncObj) : Only [.sync] s { s with sync := v } :=
  .of_same (fun k hk => by cases k <;> simp_all [StateField.same]) rfl rfl rfl
theorem setReds_only (s : State) (v : FMap Reduction) : Only [.reds] s { s with reds := v } :=
  .of_same (fun k hk => by cases k <;> simp_all [StateField.same]) rfl rfl rfl
theorem setMbx_only (s : State) (v : FMap Mailbox) : Only [.mbx] s { s with mbx := v } :=
  .of_same (fun k hk => by cases k <;> simp_all [StateField.same]) rfl rfl rfl
theorem setHost_only (s : State) (v : HostIf) : Only [.host] s { s with host := v } :=
  .of_same (fun k hk => by cases k <;> simp_all [StateField.same]) rfl rfl rfl
theorem setWin_only (s : State) (v : Windway) : Only [.win] s { s with win := v } :=
  .of_same (fun k hk => by cases k <;> simp_all [StateField.same]) rfl rfl rfl
theorem setMiss_only (s : State) (v : FMap (List Byte)) : Only [.miss] s { s with miss := v } :=
  .of_same (fun k hk => by cases k <;> simp_all [StateField.same]) rfl rfl rfl
theorem setLease_only (s : State) (v : Lease) : Only [.lease] s { s with lease := v } :=
  .of_same (fun k hk => by cases k <;> simp_all [StateField.same]) rfl rfl rfl
theorem setRel_only (s : State) (v : Reliability) : Only [.rel] s { s with rel := v } :=
  .of_same (fun k hk => by cases k <;> simp_all [StateField.same]) rfl rfl rfl
theorem setSec_only (s : State) (v : Security) (h : v.fuses = s.sec.fuses) : Only [.sec] s { s with sec := v } :=
  .of_same (fun k hk => by cases k <;> simp_all [StateField.same]) h rfl rfl
theorem setHbm_only (s : State) (v : Mem) (h : s.hbm.wf = true → v.wf = true) : Only [.hbm] s { s with hbm := v } :=
  ⟨fun k hk => by cases k <;> simp_all [StateField.same], ⟨rfl, Nat.le_refl _⟩, fun ⟨ho, hh⟩ => ⟨ho, h hh⟩⟩
theorem setHostOut_only (s : State) (v : Mem) (h : s.hostOut.wf = true → v.wf = true) : Only [.hostOut] s { s with hostOut := v } :=
  ⟨fun k hk => by cases k <;> simp_all [StateField.same], ⟨rfl, Nat.le_refl _⟩, fun ⟨ho, hh⟩ => ⟨h ho, hh⟩⟩

/-- A boot raises ANTI_ROLLBACK and latches its images (R393, R400). -/
theorem setAntiRollback_only (s : State) (n : Nat) (c : ConfigStore) (h : s.sec.fuses.antiRollback ≤ n) :
    Only [.sec, .cfg] s { s with cfg := c, sec := { s.sec with fuses := { s.sec.fuses with antiRollback := n } } } :=
  ⟨fun k hk => by cases k <;> simp_all [StateField.same], ⟨rfl, h⟩, id⟩

/-! ## Several fields replaced -/

theorem setDronePins_only (s : State) (a : Nat) (b : Pins) :
    Only [.drone, .pins] s { s with drone := a, pins := b } :=
  .of_same (fun k hk => by cases k <;> simp_all [StateField.same]) rfl rfl rfl
theorem setNowWin_only (s : State) (a : Nat) (b : Windway) :
    Only [.now, .win] s { s with now := a, win := b } :=
  .of_same (fun k hk => by cases k <;> simp_all [StateField.same]) rfl rfl rfl
theorem setPinsWin_only (s : State) (a : Pins) (b : Windway) :
    Only [.pins, .win] s { s with pins := a, win := b } :=
  .of_same (fun k hk => by cases k <;> simp_all [StateField.same]) rfl rfl rfl
theorem setSecCfg_only (s : State) (a : Security) (b : ConfigStore) (h : a.fuses = s.sec.fuses) :
    Only [.sec, .cfg] s { s with sec := a, cfg := b } :=
  .of_same (fun k hk => by cases k <;> simp_all [StateField.same]) h rfl rfl
theorem setNowHost_only (s : State) (a : Nat) (b : HostIf) :
    Only [.now, .host] s { s with now := a, host := b } :=
  .of_same (fun k hk => by cases k <;> simp_all [StateField.same]) rfl rfl rfl
theorem setTelSec_only (s : State) (a : Telemetry) (b : Security) (h : b.fuses = s.sec.fuses) :
    Only [.tel, .sec] s { s with tel := a, sec := b } :=
  .of_same (fun k hk => by cases k <;> simp_all [StateField.same]) h rfl rfl
theorem setKeysKeyGens_only (s : State) (a : FMap KeyRec) (b : FMap Nat) :
    Only [.keys, .keyGens] s { s with keys := a, keyGens := b } :=
  .of_same (fun k hk => by cases k <;> simp_all [StateField.same]) rfl rfl rfl
theorem setFreshBufsIndex_only (s : State) (a : Nat) (b : FMap Buf) (c : FMap IndexState) :
    Only [.fresh, .bufs, .index] s { s with fresh := a, bufs := b, index := c } :=
  .of_same (fun k hk => by cases k <;> simp_all [StateField.same]) rfl rfl rfl
theorem setBufsIndex_only (s : State) (a : FMap Buf) (b : FMap IndexState) :
    Only [.bufs, .index] s { s with bufs := a, index := b } :=
  .of_same (fun k hk => by cases k <;> simp_all [StateField.same]) rfl rfl rfl
theorem setNowDrone_only (s : State) (a : Nat) (b : Nat) :
    Only [.now, .drone] s { s with now := a, drone := b } :=
  .of_same (fun k hk => by cases k <;> simp_all [StateField.same]) rfl rfl rfl
theorem setFreshTel_only (s : State) (a : Nat) (b : Telemetry) :
    Only [.fresh, .tel] s { s with fresh := a, tel := b } :=
  .of_same (fun k hk => by cases k <;> simp_all [StateField.same]) rfl rfl rfl
theorem setTelPins_only (s : State) (a : Telemetry) (b : Pins) :
    Only [.tel, .pins] s { s with tel := a, pins := b } :=
  .of_same (fun k hk => by cases k <;> simp_all [StateField.same]) rfl rfl rfl
theorem setDronePwrPins_only (s : State) (a : Nat) (b : Power) (c : Pins) :
    Only [.drone, .pwr, .pins] s { s with drone := a, pwr := b, pins := c } :=
  .of_same (fun k hk => by cases k <;> simp_all [StateField.same]) rfl rfl rfl
theorem setCoresJobsRedsWin_only (s : State) (a : FMap Core) (b : FMap Job) (c : FMap Reduction) (d : Windway) :
    Only [.cores, .jobs, .reds, .win] s { s with cores := a, jobs := b, reds := c, win := d } :=
  .of_same (fun k hk => by cases k <;> simp_all [StateField.same]) rfl rfl rfl
theorem setMbxHost_only (s : State) (a : FMap Mailbox) (b : HostIf) :
    Only [.mbx, .host] s { s with mbx := a, host := b } :=
  .of_same (fun k hk => by cases k <;> simp_all [StateField.same]) rfl rfl rfl
theorem setCfgPins_only (s : State) (a : ConfigStore) (b : Pins) :
    Only [.cfg, .pins] s { s with cfg := a, pins := b } :=
  .of_same (fun k hk => by cases k <;> simp_all [StateField.same]) rfl rfl rfl
theorem setDronePwr_only (s : State) (a : Nat) (b : Power) :
    Only [.drone, .pwr] s { s with drone := a, pwr := b } :=
  .of_same (fun k hk => by cases k <;> simp_all [StateField.same]) rfl rfl rfl
theorem setCfgPwrPins_only (s : State) (a : ConfigStore) (b : Power) (c : Pins) :
    Only [.cfg, .pwr, .pins] s { s with cfg := a, pwr := b, pins := c } :=
  .of_same (fun k hk => by cases k <;> simp_all [StateField.same]) rfl rfl rfl
theorem setDroneCfgPwrPinsRel_only (s : State) (a : Nat) (b : ConfigStore) (c : Power) (d : Pins) (e : Reliability) :
    Only [.drone, .cfg, .pwr, .pins, .rel] s { s with drone := a, cfg := b, pwr := c, pins := d, rel := e } :=
  .of_same (fun k hk => by cases k <;> simp_all [StateField.same]) rfl rfl rfl
theorem setNowTelSecWin_only (s : State) (a : Nat) (b : Telemetry) (c : Security) (d : Windway) (h : c.fuses = s.sec.fuses) :
    Only [.now, .tel, .sec, .win] s { s with now := a, tel := b, sec := c, win := d } :=
  .of_same (fun k hk => by cases k <;> simp_all [StateField.same]) h rfl rfl

/-- What a command answers is a next state of this frame. -/
def Answers (F : List StateField) (s : State) (r : Result) : Prop := ∃ t, r = .next t ∧ Only F s t

theorem Only.answers {F : List StateField} {s t : State} (h : Only F s t) : Answers F s (.next t) := ⟨t, rfl, h⟩

theorem Answers.weaken {F G : List StateField} {s : State} {r : Result} (h : Answers F s r) (hF : F ⊆ G) : Answers G s r :=
  let ⟨t, e, ht⟩ := h
  ⟨t, e, ht.weaken hF⟩

/-- A wider frame, where both lists are written out. -/
theorem Answers.mono {F G : List StateField} {s : State} {r : Result} (hF : StateField.within F G = true)
    (h : Answers F s r) : Answers G s r :=
  h.weaken (StateField.subset_of_within hF)

theorem Answers.ite {F G : List StateField} {s : State} {r r' : Result} {c : Prop} [Decidable c] (h : Answers F s r) (h' : Answers G s r') :
    Answers (F ++ G) s (if c then r else r') := by
  split
  · exact h.weaken (List.subset_append_left F G)
  · exact h'.weaken (List.subset_append_right F G)

/-! ## Shared operations -/

theorem dput_only (s : State) (key : Nat) (v : DVal) : Only [.dict] s (dput s key v) := by
  unfold dput
  exact .mono (by rfl) <| setDict_only _ _

theorem dset_only (s : State) (index sub n : Nat) : Only [.dict] s (dset s index sub n) := by
  unfold dset
  exact .mono (by rfl) <| dput_only ..

theorem dsetB_only (s : State) (index sub : Nat) (b : List Byte) : Only [.dict] s (dsetB s index sub b) := by
  unfold dsetB
  exact .mono (by rfl) <| dput_only ..

theorem bump_only (s : State) (index sub n : Nat) : Only [.dict] s (bump s index sub n) := by
  unfold bump
  exact .mono (by rfl) <| dset_only ..

theorem raiseTo_only (s : State) (index sub n : Nat) : Only [.dict] s (raiseTo s index sub n) := by
  unfold raiseTo
  exact .mono (by rfl) <| dset_only ..

theorem drawn_only (s : State) (n : Nat) : Only [.fresh] s (drawn s n) := by
  unfold drawn
  exact .mono (by rfl) <| setFresh_only _ _

theorem hostWrite_only (s : State) (addr : Nat) (bs : List Byte) : Only [.hostOut] s (hostWrite s addr bs) := by
  unfold hostWrite
  exact .mono (by rfl) <| setHostOut_only _ _ fun h => Mem.wf_write _ _ _ h

theorem msix_only (s : State) (fn vector : Nat) : Only [.tel] s (msix s fn vector) := by
  unfold msix
  exact .mono (by rfl) <| setTel_only _ _

theorem putAlarm_only (s : State) (slot : Nat) (r : AlarmRec) : Only [.dict, .tel, .pins] s (putAlarm s slot r) := by
  unfold putAlarm
  exact .mono (by rfl) <| (setTelPins_only _ _ _).trans <| dset_only ..

theorem notifyAll_only (s : State) (slot : Nat) : Only [.dict, .tel, .pins] s (notifyAll s slot) := by
  unfold notifyAll
  exact .mono (by rfl) <| (setTel_only _ _).trans <| (putAlarm_only ..).trans <| bump_only ..

theorem alarm_only (s : State) (slot detail : Nat) : Only [.dict, .tel, .pins] s (alarm s slot detail) := by
  unfold alarm
  extract_lets +onlyGivenNames r1 t2 entering3 r'4 s5
  have h5 : Only [.dict, .tel, .pins] s s5 := .mono (by rfl) <| putAlarm_only ..
  exact .mono (by rfl) <| .ite (h5.trans <| (msix_only ..).trans <| notifyAll_only ..) h5

theorem logRecord_only (s : State) (severity code unit source : Nat) :
    Only [.fresh, .dict, .tel] s (logRecord s severity code unit source) := by
  unfold logRecord
  split
  · exact .mono (by rfl) <| .refl _
  · extract_lets +onlyGivenNames seq1 dropped2 params3 r4 src5 s6 s7
    have h6 : Only [.fresh, .tel] s s6 := .mono (by rfl) <| setFreshTel_only _ _ _
    have h7 : Only [.fresh, .tel, .dict] s s7 := .mono (by rfl) <| .ite (h6.trans <| bump_only ..) h6
    exact .mono (by rfl) <| h7.trans <| bump_only ..

theorem detectLog_only (s : State) (code unit source : Nat) : Only [.fresh, .dict, .tel] s (detectLog s code unit source) := by
  unfold detectLog
  exact .mono (by rfl) <| (setFresh_only _ _).trans <| logRecord_only ..

theorem detectFree_only (s : State) (unit source : Nat) : Only [.fresh, .dict, .tel] s (detectFree s unit source) := by
  unfold detectFree
  exact .mono (by rfl) <| (setFresh_only _ _).trans <| detectLog_only ..

theorem alarmLog_only (s : State) (slot detail source : Nat) :
    Only [.fresh, .dict, .tel, .pins] s (alarmLog s slot detail source) := by
  unfold alarmLog
  exact .mono (by rfl) <| (alarm_only ..).trans <| detectLog_only ..

theorem traceEmit_only (s : State) (r : TraceRec) : Only [.dict, .tel, .hostOut] s (traceEmit s r) := by
  unfold traceEmit
  exact .mono (by rfl) <| (hostWrite_only ..).trans <| (setTel_only _ _).trans <| (hostWrite_only ..).trans <| bump_only ..

theorem traceDrain_only (s : State) (fuel : Nat) : Only [.dict, .tel, .hostOut] s (traceDrain s fuel) := by
  induction fuel generalizing s with
  | zero => exact .mono (by rfl) <| .refl _
  | succ n ih =>
    unfold traceDrain
    split
    · exact .mono (by rfl) <| .refl _
    · exact .mono (by rfl) <| .ite (.refl _) ((setTel_only _ _).trans <| (traceEmit_only ..).trans <| ih ..)

theorem trace_only (s : State) (kind source queue arg0 arg1 arg2 : Nat) :
    Only [.dict, .tel, .hostOut] s (trace s kind source queue arg0 arg1 arg2) := by
  unfold trace
  exact .mono (by rfl) <| .ite (.refl _) (.ite (traceEmit_only ..) (.ite (setTel_only _ _) (.ite ((setTel_only _ _).trans <|
    (bump_only ..).trans <| (bump_only ..).trans <| traceDrain_only ..) (setTel_only _ _))))

theorem eraseSector_only (s : State) (h : Hub) (sector : Nat) : Only [.dict, .tel, .cfg, .pins] s (eraseSector s h sector) := by
  unfold eraseSector
  exact .mono (by rfl) <| .ite (setCfg_only _ _) (.ite ((setCfg_only _ _).trans <| dset_only ..) (.ite ((setCfg_only _ _).trans <|
    (dset_only ..).trans <| alarm_only ..) (.ite ((setCfg_only _ _).trans <| setCfg_only _ _) (setCfg_only _ _))))

theorem eraseSectors_only (s : State) (h : Hub) (first n : Nat) :
    Only [.dict, .tel, .cfg, .pins] s (eraseSectors s h first n) := by
  unfold eraseSectors
  exact .mono (by rfl) <| .foldl (fun _ _ => eraseSector_only ..) _ _

theorem eraseAudit_only (s : State) (seq : Nat) : Only [.dict, .tel, .cfg, .pins] s (eraseAudit s seq) := by
  unfold eraseAudit
  exact .mono (by rfl) <| .ite ((eraseSector_only ..).trans <| eraseSector_only ..) (.refl _)

theorem auditAppendAt_only (s : State) (time role flags index sub event : Nat) (old new : List Byte) :
    Only [.dict, .tel, .audit, .cfg, .pins] s (auditAppendAt s time role flags index sub event old new) := by
  unfold auditAppendAt
  extract_lets +onlyGivenNames seq1 s2 head3 chain4 s5 s6
  have h2 : Only [.dict, .tel, .cfg, .pins] s s2 := .mono (by rfl) <| eraseAudit_only ..
  have h5 : Only [.dict, .tel, .cfg, .pins, .audit] s s5 := .mono (by rfl) <| h2.trans <| setAudit_only _ _
  have h6 : Only [.dict, .tel, .cfg, .pins, .audit] s s6 := .mono (by rfl) <| h5.trans <| bump_only ..
  exact .mono (by rfl) <| .ite (h6.trans <| alarm_only ..) h6

theorem auditAppend_only (s : State) (role flags index sub event : Nat) (old new : List Byte) :
    Only [.dict, .tel, .audit, .cfg, .pins] s (auditAppend s role flags index sub event old new) := by
  unfold auditAppend
  exact .mono (by rfl) <| auditAppendAt_only ..

theorem auditWrite_only (s : State) (role : Role) (index sub : Nat) (old new : DVal) :
    Only [.dict, .tel, .audit, .cfg, .pins] s (auditWrite s role index sub old new) := by
  unfold auditWrite
  split
  · split
    · exact .mono (by rfl) <| auditAppend_only ..

theorem auditAdmission_only (s : State) (fn jobId : Nat) (status : Status) (digest : List Byte) :
    Only [.dict, .tel, .audit, .cfg, .pins] s (auditAdmission s fn jobId status digest) := by
  unfold auditAdmission
  exact .mono (by rfl) <| auditAppend_only ..

theorem idleBeat_only (s : State) : Only [.now, .drone, .win] s (idleBeat s) := by
  unfold idleBeat
  exact .mono (by rfl) <| .ite (setWin_only _ _) (.ite (setNowDrone_only _ _ _) (.ite (setDrone_only _ _) (.refl _)))

theorem updCore_only (s : State) (core : Nat) (f : Core → Core) : Only [.cores] s (updCore s core f) := by
  unfold updCore
  exact .mono (by rfl) <| setCores_only _ _

theorem updCluster_only (s : State) (c : Nat) (f : Cluster → Cluster) : Only [.clusters] s (updCluster s c f) := by
  unfold updCluster
  exact .mono (by rfl) <| setClusters_only _ _

theorem updPart_only (s : State) (part : Nat) (f : Part → Part) : Only [.parts] s (updPart s part f) := by
  unfold updPart
  exact .mono (by rfl) <| setParts_only _ _

theorem updQueue_only (s : State) (q : Nat) (f : Queue → Queue) : Only [.queues] s (updQueue s q f) := by
  unfold updQueue
  exact .mono (by rfl) <| setQueues_only _ _

theorem updJob_only (s : State) (j : Nat) (f : Job → Job) : Only [.jobs] s (updJob s j f) := by
  unfold updJob
  exact .mono (by rfl) <| setJobs_only _ _

theorem updMbox_only (s : State) (fn : Nat) (f : Mailbox → Mailbox) : Only [.mbx] s (updMbox s fn f) := by
  unfold updMbox
  exact .mono (by rfl) <| setMbx_only _ _

theorem updEngine_only (s : State) (hub : Hub) (f : Engine → Engine) : Only [.sec] s (updEngine s hub f) := by
  unfold updEngine
  split
  · exact .mono (by rfl) <| setSec_only _ _ (by rfl)
  · exact .mono (by rfl) <| setSec_only _ _ (by rfl)

/-! ## Operands -/

theorem updCmd_only (s : State) (q uid : Nat) (f : Cmd → Cmd) : Only [.queues] s (updCmd s q uid f) := by
  unfold updCmd
  exact .mono (by rfl) <| updQueue_only ..

/-! ## Reductions -/

theorem withdrawPartials_only (s : State) (uid : Nat) : Only [.reds] s (withdrawPartials s uid) := by
  unfold withdrawPartials
  exact .mono (by rfl) <| setReds_only _ _

/-! ## The torus and its trunks -/

theorem updTrunk_only (s : State) (d : Nat) (f : Trunk → Trunk) : Only [.win] s (updTrunk s d f) := by
  unfold updTrunk
  exact .mono (by rfl) <| setWin_only _ _

theorem updPort_only (s : State) (w : Nat) (f : Port → Port) : Only [.win] s (updPort s w f) := by
  unfold updPort
  exact .mono (by rfl) <| setWin_only _ _

theorem countFlits_only (s : State) (l : List Flit) : Only [.win] s (countFlits s l) := by
  unfold countFlits
  exact .mono (by rfl) <| .foldl (fun _ _ => updPort_only ..) _ _

theorem trunkBeat_only (s : State) (d : Nat) : Only [.fresh, .win] s (trunkBeat s d) := by
  unfold trunkBeat
  exact .mono (by rfl) <| .ite (.refl _) ((countFlits_only ..).trans <| (updTrunk_only ..).trans <| setFresh_only _ _)

theorem idleStep_only (s : State) : Only [.now, .drone, .fresh, .win] s (idleStep s) := by
  unfold idleStep
  exact .mono (by rfl) <| (idleBeat_only ..).trans <| .foldl (fun _ _ => trunkBeat_only ..) _ _

theorem sendFlits_only (s : State) (cls type dest bytes deadline : Nat) :
    Only [.win] s (sendFlits s cls type dest bytes deadline) := by
  unfold sendFlits
  split
  · exact .mono (by rfl) <| .refl _
  · exact .mono (by rfl) <| .ite (.refl _) (updTrunk_only ..)

theorem forwardTiles_only (s : State) (l : List Nat) (n : Nat) : Only [.win] s (forwardTiles s l n) := by
  unfold forwardTiles
  exact .mono (by rfl) <| (setWin_only _ _).trans <| .foldl (fun _ _ => .foldl (fun _ _ => sendFlits_only ..) _ _) _ _

theorem takeFlits_only (s : State) (src bytes : Nat) : Only [.win] s (takeFlits s src bytes) := by
  unfold takeFlits
  split
  · exact .mono (by rfl) <| .refl _
  · exact .mono (by rfl) <| updTrunk_only ..

theorem requestFlit_only (s : State) (w : Nat) : Only [.win] s (requestFlit s w) := by
  unfold requestFlit
  exact .mono (by rfl) <| updTrunk_only ..

/-! ## The life of a command -/

theorem setCharge_only (s : State) (part fn tier n : Nat) : Only [.dict, .parts] s (setCharge s part fn tier n) := by
  unfold setCharge
  split
  · exact .mono (by rfl) <| updPart_only ..
  · extract_lets +onlyGivenNames s1
    have h1 : Only [.dict] s s1 := .mono (by rfl) <| dset_only ..
    exact .mono (by rfl) <| .ite (h1.trans <| raiseTo_only ..) h1

theorem charge_only (s : State) (part fn tier n : Nat) : Only [.dict, .parts] s (charge s part fn tier n) := by
  unfold charge
  exact .mono (by rfl) <| setCharge_only ..

theorem uncharge_only (s : State) (part fn tier n : Nat) : Only [.dict, .parts] s (uncharge s part fn tier n) := by
  unfold uncharge
  exact .mono (by rfl) <| setCharge_only ..

theorem respond_only (s : State) (fn cls seq : Nat) (bytes : List Byte) : Only [.mbx] s (respond s fn cls seq bytes) := by
  unfold respond
  exact .mono (by rfl) <| updMbox_only ..

theorem placementDone_only (s : State) (part : Nat) (r : PlaceReq) (status : Status) (done : Nat) :
    Only [.dict, .mbx] s (placementDone s part r status done) := by
  unfold placementDone
  exact .mono (by rfl) <| (dset_only ..).trans <| respond_only ..

theorem clearPoison_only (s : State) (p : Nat × Nat → Bool) : Only [.rel] s (clearPoison s p) := by
  unfold clearPoison
  exact .mono (by rfl) <| setRel_only _ _

theorem endRequests_only (s : State) (part key : Nat) : Only [.dict, .tiered, .mbx] s (endRequests s part key) := by
  unfold endRequests
  split
  · exact .mono (by rfl) <| .refl _
  · exact .mono (by rfl) <| .trans (.foldl (fun _ _ => placementDone_only ..) _ _) <| setTiered_only _ _

theorem returnStorage_only (s : State) (part key : Nat) (b : Buf) :
    Only [.dict, .parts, .tiered] s (returnStorage s part key b) := by
  unfold returnStorage
  extract_lets +onlyGivenNames s1
  have h1 : Only [.dict, .parts] s s1 := .mono (by rfl) <| .ite (.refl _) (uncharge_only ..)
  split
  · exact .mono (by rfl) <| h1
  · exact .mono (by rfl) <| .trans (.ite h1 (h1.trans <| uncharge_only ..)) <| setTiered_only _ _

theorem moveTiered_only (s : State) (key dest : Nat) : Only [.tiered] s (moveTiered s key dest) := by
  unfold moveTiered
  split
  · exact .mono (by rfl) <| .refl _
  · exact .mono (by rfl) <| setTiered_only _ _

theorem freeBuf_only (s : State) (key : Nat) : Only [.dict, .parts, .bufs, .index, .tiered, .mbx, .rel] s (freeBuf s key) := by
  unfold freeBuf
  split
  · exact .mono (by rfl) <| .refl _
  · extract_lets +onlyGivenNames ver1 held2 s3 src4 s6
    have h3 : Only [.dict, .tiered, .mbx] s s3 := .mono (by rfl) <| endRequests_only ..
    have h6 : Only [.dict, .tiered, .mbx, .rel, .bufs, .index] s s6 := .mono (by rfl) <| h3.trans <| (clearPoison_only ..).trans <|
      setBufsIndex_only _ _ _
    exact .mono (by rfl) <| .ite (h6.trans <| (setBufs_only _ _).trans <| moveTiered_only ..) (h6.trans <| returnStorage_only ..)

theorem releaseHeld_only (s : State) : Only [.dict, .parts, .bufs, .tiered] s (releaseHeld s) := by
  unfold releaseHeld
  exact .mono (by rfl) <| .foldl (fun _ _ => .ite (.refl _) ((setBufs_only _ _).trans <| returnStorage_only ..)) _ _

theorem storeBuf_only (s : State) (key off : Nat) (data : List Byte) :
    Only [.bufs, .tiered, .rel] s (storeBuf s key off data) := by
  unfold storeBuf
  extract_lets +onlyGivenNames s1 s2
  have h1 : Only [.rel] s s1 := .mono (by rfl) <| clearPoison_only ..
  have h2 : Only [.rel, .bufs] s s2 := .mono (by rfl) <| h1.trans <| setBufs_only _ _
  split
  · exact .mono (by rfl) <| h2
  · exact .mono (by rfl) <| .ite (h1.trans <| setTiered_only _ _) h2

theorem storeStaged_only (s : State) (w : StageWrite) : Only [.bufs, .tiered, .rel] s (storeStaged s w) := by
  unfold storeStaged
  extract_lets +onlyGivenNames key1
  split
  · exact .mono (by rfl) <| .ite (storeBuf_only ..) (.refl _)
  · exact .mono (by rfl) <| .refl _

theorem hbmWrite_only (s : State) (part a : Nat) (bs : List Byte) :
    Only [.bufs, .tiered, .rel, .hbm] s (hbmWrite s part a bs) := by
  unfold hbmWrite
  split
  · exact .mono (by rfl) <| storeBuf_only ..
  · exact .mono (by rfl) <| setHbm_only _ _ fun h => Mem.wf_write _ _ _ h

theorem putCompletion_only (s : State) (q : Nat) (c : Cmd) (st : Status) :
    Only [.tel, .queues, .bufs, .tiered, .rel, .hbm, .hostOut] s (putCompletion s q c st) := by
  unfold putCompletion
  split
  · exact .mono (by rfl) <| .refl _
  · extract_lets +onlyGivenNames addr1 bs2 s3 s4
    have h3 : Only [.bufs, .tiered, .rel, .hbm, .hostOut] s s3 := .mono (by rfl) <| .ite (hbmWrite_only ..) (hostWrite_only ..)
    have h4 : Only [.bufs, .tiered, .rel, .hbm, .hostOut, .queues] s s4 := .mono (by rfl) <| h3.trans <| updQueue_only ..
    exact .mono (by rfl) <| .ite (h4.trans <| msix_only ..) h4

theorem beginSave_only (s : State) (j : Nat) (J : Job) : Only [.jobs] s (beginSave s j J) := by
  unfold beginSave
  exact .mono (by rfl) <| updJob_only ..

theorem holdQueue_only (s : State) (q : Nat) : Only [.queues, .jobs] s (holdQueue s q) := by
  unfold holdQueue
  split
  · exact .mono (by rfl) <| .refl _
  · split
    · exact .mono (by rfl) <| .refl _
    · extract_lets +onlyGivenNames s1
      have h1 : Only [.queues] s s1 := .mono (by rfl) <| updQueue_only ..
      exact .mono (by rfl) <| .ite (h1.trans <| beginSave_only ..) h1

theorem stopQueue_only (s : State) (q : Nat) (st : Status) : Only [.queues, .jobs] s (stopQueue s q st) := by
  unfold stopQueue
  exact .mono (by rfl) <| (updQueue_only ..).trans <| holdQueue_only ..

theorem offence_only (s : State) (q : Nat) (cmd : Option Nat) : Only [.queues] s (offence s q cmd) := by
  unfold offence
  exact .mono (by rfl) <| updQueue_only ..

theorem leaveEngines_only (s : State) (q uid : Nat) : Only [.cores] s (leaveEngines s q uid) := by
  unfold leaveEngines
  exact .mono (by rfl) <| setCores_only _ _

theorem discardArray_only (s : State) (q : Nat) (c : Cmd) : Only [.cores] s (discardArray s q c) := by
  unfold discardArray
  exact .mono (by rfl) <| .ite (updCore_only ..) (.refl _)

theorem withdraw_only (s : State) (q uid : Nat) : Only [.sync] s (withdraw s q uid) := by
  unfold withdraw
  exact .mono (by rfl) <| setSync_only _ _

theorem tellRemote_only (s : State) (q : Nat) (c : Cmd) (commit : Bool) : Only [.win] s (tellRemote s q c commit) := by
  unfold tellRemote
  exact .mono (by rfl) <| .ite ((setWin_only _ _).trans <| sendFlits_only ..) (.refl _)

theorem countIssued_only (s : State) (c : Cmd) (n : Nat) : Only [.dict] s (countIssued s c n) := by
  unfold countIssued
  exact .mono (by rfl) <| (bump_only ..).trans <| bump_only ..

theorem missRecord_only (s : State) (fn queue index planned arrived cause detail cls stream : Nat) :
    Only [.dict, .miss] s (missRecord s fn queue index planned arrived cause detail cls stream) := by
  unfold missRecord
  split
  · exact .mono (by rfl) <| .refl _
  · extract_lets +onlyGivenNames late1 n2 r3 s4 s5
    have h4 : Only [.miss] s s4 := .mono (by rfl) <| setMiss_only _ _
    have h5 : Only [.miss, .dict] s s5 := .mono (by rfl) <| .ite (h4.trans <| bump_only ..) h4
    exact .mono (by rfl) <| h5.trans <| (bump_only ..).trans <| (bump_only ..).trans <| raiseTo_only ..

theorem stall_only (s : State) (cls cause beats : Nat) : Only [.dict] s (stall s cls cause beats) := by
  unfold stall
  exact .mono (by rfl) <| (bump_only ..).trans <| bump_only ..

theorem endStall_only (s : State) (q fn : Nat) (c : Cmd) : Only [.dict, .tel, .miss, .hostOut] s (endStall s q fn c) := by
  unfold endStall
  split
  · exact .mono (by rfl) <| .refl _
  · extract_lets +onlyGivenNames cls1 cause2 beats3 s4 s5
    have h4 : Only [.dict] s s4 := .mono (by rfl) <| stall_only ..
    have h5 : Only [.dict, .tel, .hostOut] s s5 := .mono (by rfl) <| h4.trans <| trace_only ..
    exact .mono (by rfl) <| .ite (h5.trans <| missRecord_only ..) h5

theorem failCmd_only (s : State) (q uid : Nat) (st : Status) (stops : Bool) :
    Only [.dict, .tel, .cores, .queues, .jobs, .parts, .bufs, .tiered, .sync, .miss, .rel, .hbm,
      .hostOut] s (failCmd s q uid st stops) := by
  unfold failCmd
  split
  · exact .mono (by rfl) <| .refl _
  · extract_lets +onlyGivenNames s1 s2 s3 s4 s5
    have h1 : Only [.cores, .sync, .dict, .tel, .miss, .hostOut] s s1 := .mono (by rfl) <| (leaveEngines_only ..).trans <|
      (discardArray_only ..).trans <| (withdraw_only ..).trans <| endStall_only ..
    have h2 : Only [.cores, .sync, .dict, .tel, .miss, .hostOut] s s2 := .mono (by rfl) <| .ite (h1.trans <| countIssued_only ..) h1
    have h3 : Only [.cores, .sync, .dict, .tel, .miss, .hostOut, .queues] s s3 := .mono (by rfl) <| h2.trans <| updCmd_only ..
    have h4 : Only [.cores, .sync, .dict, .tel, .miss, .hostOut, .queues, .bufs, .tiered, .rel, .hbm] s s4 := .mono (by rfl) <|
      h3.trans <| putCompletion_only ..
    have h5 : Only [.cores, .sync, .dict, .tel, .miss, .hostOut, .queues, .bufs, .tiered, .rel, .hbm] s s5 := .mono (by rfl) <|
      .ite (h4.trans <| offence_only ..) h4
    exact .mono (by rfl) <| .trans (.ite (h5.trans <| stopQueue_only ..) h5) <| releaseHeld_only ..

theorem fail_only (s : State) (q uid : Nat) (st : Status) :
    Only [.dict, .tel, .cores, .queues, .jobs, .parts, .bufs, .tiered, .sync, .miss, .rel, .hbm,
      .hostOut] s (fail s q uid st) := by
  unfold fail
  exact .mono (by rfl) <| failCmd_only ..

theorem finish_only (s : State) (q uid : Nat) (st : Status) (f : Cmd → Cmd) :
    Only [.cores, .queues] s (finish s q uid st f) := by
  unfold finish
  exact .mono (by rfl) <| (leaveEngines_only ..).trans <| updCmd_only ..

theorem logSweep_only (s : State) (q : Nat) (r : SweepRec) : Only [.queues, .jobs] s (logSweep s q r) := by
  unfold logSweep
  split
  · exact .mono (by rfl) <| .refl _
  · extract_lets +onlyGivenNames s1
    have h1 : Only [.queues] s s1 := .mono (by rfl) <| updQueue_only ..
    split
    · exact .mono (by rfl) <| h1
    · exact .mono (by rfl) <| h1.trans <| updJob_only ..

theorem commitRuns_only (fuel : Nat) (s : State) (q : Nat) :
    Only [.dict, .tel, .queues, .jobs, .parts, .bufs, .tiered, .rel, .hbm, .hostOut] s (commitRuns fuel s q) := by
  induction fuel generalizing s with
  | zero => exact .mono (by rfl) <| .refl _
  | succ n ih =>
    unfold commitRuns
    split
    · exact .mono (by rfl) <| .refl _
    · split
      · exact .mono (by rfl) <| .refl _
      · exact .mono (by rfl) <| .ite (.refl _) ((trace_only ..).trans <| (putCompletion_only ..).trans <| (updQueue_only ..).trans <|
          (holdQueue_only ..).trans <| (releaseHeld_only ..).trans <| ih ..)

theorem commitRun_only (s : State) (q : Nat) :
    Only [.dict, .tel, .queues, .jobs, .parts, .bufs, .tiered, .rel, .hbm, .hostOut] s (commitRun s q) := by
  unfold commitRun
  split
  · exact .mono (by rfl) <| .refl _
  · exact .mono (by rfl) <| commitRuns_only ..

theorem commitOne_only (s : State) (q : Nat) (c : Cmd) (st : Status) :
    Only [.dict, .tel, .cores, .queues, .jobs, .parts, .bufs, .tiered, .win, .rel, .hbm, .hostOut] s (commitOne s q c st) := by
  unfold commitOne
  extract_lets +onlyGivenNames s1 s2 s3 s4 s5 s6 s7 s8 s9
  have h1 : Only [.bufs, .tiered, .rel] s s1 := .mono (by rfl) <| .foldl (fun _ _ => storeStaged_only ..) _ _
  have h2 : Only [.bufs, .tiered, .rel, .jobs] s s2 := by
    simp only [s2]
    split
    · exact .mono (by rfl) <| h1
    · exact .mono (by rfl) <| h1.trans <| updJob_only ..
  have h3 : Only [.bufs, .tiered, .rel, .jobs, .queues] s s3 := by
    simp only [s3]
    split
    · exact .mono (by rfl) <| h2
    · exact .mono (by rfl) <| h2.trans <| logSweep_only ..
  have h4 : Only [.bufs, .tiered, .rel, .jobs, .queues, .dict] s s4 := .mono (by rfl) <| .ite (h3.trans <| bump_only ..) h3
  have h5 : Only [.bufs, .tiered, .rel, .jobs, .queues, .dict, .cores] s s5 := .mono (by rfl) <| .ite (h4.trans <| updCore_only ..) h4
  have h6 : Only [.bufs, .tiered, .rel, .jobs, .queues, .dict, .cores, .tel, .hostOut] s s6 := .mono (by rfl) <| h5.trans <|
    trace_only ..
  have h7 : Only [.bufs, .tiered, .rel, .jobs, .queues, .dict, .cores, .tel, .hostOut, .hbm] s s7 := .mono (by rfl) <|
    .ite (h6.trans <| putCompletion_only ..) h6
  have h8 : Only [.bufs, .tiered, .rel, .jobs, .queues, .dict, .cores, .tel, .hostOut, .hbm, .win] s s8 := .mono (by rfl) <|
    h7.trans <| tellRemote_only ..
  have h9 : Only [.bufs, .tiered, .rel, .jobs, .queues, .dict, .cores, .tel, .hostOut, .hbm, .win] s s9 := .mono (by rfl) <|
    h8.trans <| updQueue_only ..
  exact .mono (by rfl) <| h9.trans <| (releaseHeld_only ..).trans <| commitRun_only ..

theorem countRootWait_only (s : State) (c : Cmd) : Only [.dict] s (countRootWait s c) := by
  unfold countRootWait
  exact .mono (by rfl) <| .ite (bump_only ..) (.refl _)

theorem countKilledArray_only (s : State) (c : Cmd) : Only [.dict] s (countKilledArray s c) := by
  unfold countKilledArray
  exact .mono (by rfl) <| .ite ((bump_only ..).trans <| (bump_only ..).trans <| (countIssued_only ..).trans <|
    countRootWait_only ..) (.ite ((bump_only ..).trans <| bump_only ..) (.refl _))

theorem recallSignal_only (s : State) (c : Cmd) : Only [.win] s (recallSignal s c) := by
  unfold recallSignal
  exact .mono (by rfl) <| setWin_only _ _

theorem giveUp_only (s : State) (q : Nat) (c : Cmd) :
    Only [.dict, .tel, .cores, .sync, .reds, .win, .miss, .hostOut] s (giveUp s q c) := by
  unfold giveUp
  extract_lets +onlyGivenNames s1 s2 s3 s4
  have h1 : Only [.cores, .sync, .reds] s s1 := .mono (by rfl) <| (leaveEngines_only ..).trans <| (discardArray_only ..).trans <|
    (withdraw_only ..).trans <| withdrawPartials_only ..
  have h2 : Only [.cores, .sync, .reds, .dict, .tel, .miss, .hostOut] s s2 := .mono (by rfl) <| h1.trans <| endStall_only ..
  have h3 : Only [.cores, .sync, .reds, .dict, .tel, .miss, .hostOut] s s3 := .mono (by rfl) <| .ite (h2.trans <|
    countKilledArray_only ..) h2
  have h4 : Only [.cores, .sync, .reds, .dict, .tel, .miss, .hostOut, .win] s s4 := .mono (by rfl) <| .ite (h3.trans <|
    recallSignal_only ..) h3
  exact .mono (by rfl) <| .ite (h4.trans <| tellRemote_only ..) h4

theorem killCmd_only (s : State) (q : Nat) (counts : Bool) (c : Cmd) :
    Only [.dict, .tel, .cores, .queues, .jobs, .parts, .bufs, .tiered, .sync, .reds, .win, .miss, .rel, .hbm,
      .hostOut] s (killCmd s q counts c) := by
  unfold killCmd
  extract_lets +onlyGivenNames s1 d2
  have h1 : Only [.dict, .tel, .cores, .sync, .reds, .win, .miss, .hostOut] s s1 := .mono (by rfl) <| (giveUp_only ..).trans <|
    trace_only ..
  exact .mono (by rfl) <| .ite (h1.trans <| (updCmd_only ..).trans <| failCmd_only ..) (h1.trans <| (putCompletion_only ..).trans <|
    updCmd_only ..)

theorem chargeLost_only (s : State) (q n : Nat) : Only [.queues] s (chargeLost s q n) := by
  unfold chargeLost
  exact .mono (by rfl) <| updQueue_only ..

theorem strikeQueue_only (s : State) (q : Nat) (kind : KillKind) :
    Only [.dict, .tel, .cores, .queues, .jobs, .parts, .bufs, .tiered, .sync, .reds, .win, .miss, .rel, .hbm,
      .hostOut] s (strikeQueue s q kind) := by
  unfold strikeQueue
  split
  · exact .mono (by rfl) <| .refl _
  · extract_lets +onlyGivenNames lost1 s2 s3 s4
    have h2 : Only [.queues, .dict] s s2 := .mono (by rfl) <| .ite ((chargeLost_only ..).trans <| bump_only ..) (.refl _)
    have h3 : Only [.queues, .dict, .tel, .cores, .jobs, .parts, .bufs, .tiered, .sync, .reds, .win, .miss, .rel, .hbm,
      .hostOut] s s3 := .mono (by rfl) <| h2.trans <| .foldl (fun _ _ => killCmd_only ..) _ _
    have h4 : Only [.queues, .dict, .tel, .cores, .jobs, .parts, .bufs, .tiered, .sync, .reds, .win, .miss, .rel, .hbm,
      .hostOut] s s4 := .mono (by rfl) <| h3.trans <| (updQueue_only ..).trans <| releaseHeld_only ..
    exact .mono (by rfl) <| .ite (h4.trans <| holdQueue_only ..) h4

theorem killQueue_only (s : State) (q : Nat) (kind : KillKind) :
    Only [.dict, .tel, .cores, .queues, .jobs, .parts, .bufs, .tiered, .sync, .reds, .win, .miss, .rel, .hbm,
      .hostOut] s (killQueue s q kind) := by
  unfold killQueue
  split
  · exact .mono (by rfl) <| .refl _
  · exact .mono (by rfl) <| .ite (updQueue_only ..) (strikeQueue_only ..)

/-! ## The replay journal -/

theorem journalEmit_only (s : State) (r : List Byte) : Only [.dict, .hostOut] s (journalEmit s r) := by
  unfold journalEmit
  exact .mono (by rfl) <| (hostWrite_only ..).trans <| dset_only ..

theorem journalDrain_only (s : State) (fuel : Nat) : Only [.dict, .tel, .hostOut] s (journalDrain s fuel) := by
  induction fuel generalizing s with
  | zero => exact .mono (by rfl) <| .refl _
  | succ n ih =>
    unfold journalDrain
    split
    · exact .mono (by rfl) <| .refl _
    · exact .mono (by rfl) <| .ite ((setTel_only _ _).trans <| (journalEmit_only ..).trans <| ih ..) (.refl _)

theorem journalFlush_only (s : State) : Only [.dict, .tel, .hostOut] s (journalFlush s) := by
  unfold journalFlush
  exact .mono (by rfl) <| journalDrain_only ..

theorem journalGap_only (s : State) : Only [.dict, .tel, .pins, .hostOut] s (journalGap s) := by
  unfold journalGap
  exact .mono (by rfl) <| .ite (.refl _) ((setTel_only _ _).trans <| (bump_only ..).trans <| (bump_only ..).trans <|
    (dset_only ..).trans <| (alarm_only ..).trans <| journalFlush_only ..)

theorem journalPut_only (s : State) (r : List Byte) : Only [.dict, .tel, .pins, .hostOut] s (journalPut s r) := by
  unfold journalPut
  extract_lets +onlyGivenNames s1
  have h1 : Only [.dict, .tel, .hostOut, .pins] s s1 := .mono (by rfl) <| (journalFlush_only ..).trans <| journalGap_only ..
  exact .mono (by rfl) <| .ite (h1.trans <| journalEmit_only ..) (.ite (h1.trans <| setTel_only _ _) (h1.trans <| setTel_only _ _))

theorem journal_only (s : State) (kind module source value addr : Nat) (carried : List Byte) :
    Only [.dict, .tel, .pins, .hostOut] s (journal s kind module source value addr carried) := by
  unfold journal
  exact .mono (by rfl) <| .ite (journalPut_only ..) (.refl _)

theorem journalLaunch_only (s : State) (J : Job) : Only [.dict, .tel, .pins, .hostOut] s (journalLaunch s J) := by
  unfold journalLaunch
  exact .mono (by rfl) <| .ite (.ite ((journalPut_only ..).trans <| dset_only ..) (journalPut_only ..)) (.refl _)

theorem journalArrival_only (s : State) (port source : Nat) (carried : List Byte) :
    Only [.dict, .tel, .pins, .hostOut] s (journalArrival s port source carried) := by
  unfold journalArrival
  exact .mono (by rfl) <| journal_only ..

theorem diverge_only (s : State) : Only [.dict] s (diverge s) := by
  unfold diverge
  extract_lets +onlyGivenNames s1
  have h1 : Only [.dict] s s1 := .mono (by rfl) <| bump_only ..
  exact .mono (by rfl) <| .ite (h1.trans <| dset_only ..) h1

theorem replayInput_only (s : State) (j kind source value : Nat) (carried : List Byte) :
    Only [.dict, .jobs] s (replayInput s j kind source value carried).1 := by
  unfold replayInput
  split
  · exact .mono (by rfl) <| .refl _
  · split
    · exact .mono (by rfl) <| diverge_only ..
    · extract_lets +onlyGivenNames s1 crc2
      have h1 : Only [.jobs] s s1 := .mono (by rfl) <| updJob_only ..
      split
      · exact .mono (by rfl) <| h1.trans <| diverge_only ..
      · split
        · exact .mono (by rfl) <| h1
        · extract_lets +onlyGivenNames due3
          split
          · exact .mono (by rfl) <| h1.trans <| diverge_only ..
          · split
            · exact .mono (by rfl) <| h1
            · exact .mono (by rfl) <| h1

theorem holdInput_only (s : State) (j due : Nat) (i : Instr) : Only [.jobs] s (holdInput s j due i) := by
  unfold holdInput
  exact .mono (by rfl) <| updJob_only ..

theorem replayEnd_only (s : State) (J : Job) : Only [.dict] s (replayEnd s J) := by
  unfold replayEnd
  split
  · exact .mono (by rfl) <| .refl _
  · exact .mono (by rfl) <| .foldl (fun _ _ => diverge_only ..) _ _

theorem execJournalGap_only (s : State) : Answers [.dict, .tel, .pins, .hostOut] s (execJournalGap s) := by
  unfold execJournalGap
  exact Only.answers (.mono (by rfl) <| (journalFlush_only ..).trans <| journalGap_only ..)

/-! ## The reed engine -/

theorem lateReads_only (s : State) (core q cls : Nat) : Only [.fresh, .dict, .tel, .hostOut] s (lateReads s core q cls) := by
  unfold lateReads
  extract_lets +onlyGivenNames late1 cause2 s3
  have h3 : Only [.fresh] s s3 := .mono (by rfl) <| setFresh_only _ _
  exact .mono (by rfl) <| .ite h3 (h3.trans <| (stall_only ..).trans <| trace_only ..)

theorem reedReads_only (s : State) (q : Nat) (Q : Queue) (c : Cmd) :
    Only [.fresh, .dict, .tel, .hostOut] s (reedReads s q Q c) := by
  unfold reedReads
  extract_lets +onlyGivenNames r1 x2 s3
  have h3 : Only [.fresh, .dict, .tel, .hostOut] s s3 := .mono (by rfl) <| .ite (lateReads_only ..) (.refl _)
  exact .mono (by rfl) <| .ite (h3.trans <| lateReads_only ..) h3

theorem runGradient_only (s : State) (q kind : Nat) :
    Only [.fresh, .dict, .tel, .cores, .queues, .hostOut] s (runGradient s q kind) := by
  unfold runGradient
  split
  · exact .mono (by rfl) <| .refl _
  · extract_lets +onlyGivenNames r1 ver2 m3 h4 left5 right6 tokens7 adds8
    split
    · exact .mono (by rfl) <| (reedReads_only ..).trans <| finish_only ..

theorem runRankGradient_only (s : State) (q : Nat) :
    Only [.fresh, .dict, .tel, .cores, .queues, .hostOut] s (runRankGradient s q) := by
  unfold runRankGradient
  split
  · exact .mono (by rfl) <| .refl _
  · exact .mono (by rfl) <| (reedReads_only ..).trans <| finish_only ..

theorem runPhaseOne_only (s : State) (q : Nat) : Only [.fresh, .dict, .tel, .cores, .queues, .hostOut] s (runPhaseOne s q) := by
  unfold runPhaseOne
  split
  · exact .mono (by rfl) <| .refl _
  · extract_lets +onlyGivenNames r1
    split
    · exact .mono (by rfl) <| (reedReads_only ..).trans <| finish_only ..

/-! ## Tagged reductions -/

theorem partialAt_only (s : State) (job engine : Nat) (tag : W64) (lanes : List W64) (uid : Option Nat) :
    Only [.jobs, .reds] s (partialAt s job engine tag lanes uid).1 := by
  unfold partialAt
  split
  · exact .mono (by rfl) <| .refl _
  · extract_lets +onlyGivenNames d1 key2 held3 again4
    split
    · exact .mono (by rfl) <| setReds_only _ _
    · extract_lets +onlyGivenNames r5 st6 s7
      have h7 : Only [.jobs] s s7 := .mono (by rfl) <| updJob_only ..
      clear_value d1
      split
      · exact .mono (by rfl) <| h7
      · split
        · extract_lets +onlyGivenNames n8
          exact .mono (by rfl) <| h7.trans <| setReds_only _ _
        · extract_lets +onlyGivenNames r'9 met10
          exact .mono (by rfl) <| .trans (.ite h7 (.refl _)) <| setReds_only _ _

theorem partialArrives_only (s : State) (engine : Nat) (tag : W64) (lanes : List W64) (sender : Option Nat) :
    Only [.dict, .tel, .cores, .queues, .jobs, .parts, .bufs, .tiered, .sync, .reds, .miss, .rel, .hbm,
      .hostOut] s (partialArrives s engine tag lanes sender) := by
  unfold partialArrives
  split
  · exact .mono (by rfl) <| .refl _
  · extract_lets +onlyGivenNames from_1
    split
    next heq =>
      have h2 : Only [.jobs, .reds] s _ := (Only.of_fst (partialAt_only ..) heq).mono (by rfl)
      split
      · exact .mono (by rfl) <| h2
      · clear_value from_1
        split
        · exact .mono (by rfl) <| h2
        · exact .mono (by rfl) <| h2.trans <| fail_only ..

theorem deliverRoot_only (s : State) (engine red : Nat) : Only [.reds] s (deliverRoot s engine red) := by
  unfold deliverRoot
  split
  · exact .mono (by rfl) <| .refl _
  · exact .mono (by rfl) <| setReds_only _ _

theorem execPartialArrival_only (engine : Nat) (tag : W64) (lanes : List W64) (sender : Option Nat) (s : State) :
    Answers [.dict, .tel, .cores, .queues, .jobs, .parts, .bufs, .tiered, .sync, .reds, .miss, .rel, .hbm,
      .hostOut] s (execPartialArrival engine tag lanes sender s) := by
  unfold execPartialArrival
  exact Only.answers (.mono (by rfl) <| partialArrives_only ..)

theorem execRootDelivery_only (engine redId : Nat) (s : State) : Answers [.reds] s (execRootDelivery engine redId s) := by
  unfold execRootDelivery
  exact Only.answers (.mono (by rfl) <| deliverRoot_only ..)

/-! ## The array -/

theorem countWhole_only (s : State) (c : Cmd) : Only [.dict] s (countWhole s c) := by
  unfold countWhole
  extract_lets +onlyGivenNames i1 s2
  have h2 : Only [.dict] s s2 := .mono (by rfl) <| (bump_only ..).trans <| bump_only ..
  exact .mono (by rfl) <| .ite (h2.trans <| bump_only ..) h2

theorem arrayDone_only (s : State) (q : Nat) (Q : Queue) (c : Cmd) (a : ArrayIn) (nf : Nat) (obs : List ObsDelta)
    (root : Nat → Nat → W32) :
    Only [.fresh, .dict, .tel, .cores, .queues, .hostOut] s (arrayDone s q Q c a nf obs root) := by
  unfold arrayDone
  extract_lets +onlyGivenNames r1
  split
  · exact .mono (by rfl) <| (countWhole_only ..).trans <| (countRootWait_only ..).trans <| (updCore_only ..).trans <|
      (reedReads_only ..).trans <| finish_only ..

theorem sendGroups_only (s : State) (c : Cmd) (a : ArrayIn) : Only [.jobs, .reds] s (sendGroups s c a).1 := by
  unfold sendGroups
  refine .foldl_fst (fun p d => .foldl_fst (fun p f => .foldl_fst (fun p n => ?_) _ p) _ p) _ (s, 0)
  split
  · exact .self _
  · exact partialAt_only ..

theorem runUnheld_only (s : State) (q : Nat) (Q : Queue) (c : Cmd) (job : Nat) (J : Job) :
    Only [.fresh, .dict, .tel, .cores, .queues, .jobs, .parts, .bufs, .tiered, .sync, .reds, .miss, .rel, .hbm,
      .hostOut] s (runUnheld s q Q c job J) := by
  unfold runUnheld
  extract_lets +onlyGivenNames r1
  split
  · split
    · exact .mono (by rfl) <| (countIssued_only ..).trans <| fail_only ..
    · split
      · split
        · split
          next heq =>
            have h2 : Only [.jobs, .reds] s _ := (Only.of_fst (sendGroups_only ..) heq).mono (by rfl)
            exact .mono (by rfl) <| .ite (h2.trans <| fail_only ..) (h2.trans <| updCmd_only ..)
        · exact .mono (by rfl) <| .ite (arrayDone_only ..) (.refl _)
      · exact .mono (by rfl) <| arrayDone_only ..

theorem runArray_only (s : State) (q : Nat) :
    Only [.fresh, .dict, .tel, .cores, .queues, .jobs, .parts, .bufs, .tiered, .sync, .reds, .miss, .rel, .hbm,
      .hostOut] s (runArray s q) := by
  unfold runArray
  split
  · exact .mono (by rfl) <| .refl _
  · split
    · exact .mono (by rfl) <| .refl _
    · split
      · exact .mono (by rfl) <| runUnheld_only ..
      · exact .mono (by rfl) <| updCore_only ..

theorem mergeResume_only (s : State) (core q uid : Nat) : Only [.dict, .cores, .queues] s (mergeResume s core q uid) := by
  unfold mergeResume
  split
  · exact .mono (by rfl) <| updCore_only ..
  · exact .mono (by rfl) <| (bump_only ..).trans <| (updCmd_only ..).trans <| updCore_only ..

theorem mergeEntry_only (s : State) (core column : Nat) : Only [.dict, .cores, .queues] s (mergeEntry s core column) := by
  unfold mergeEntry
  extract_lets +onlyGivenNames k1
  split
  · exact .mono (by rfl) <| .refl _
  · split
    · exact .mono (by rfl) <| mergeResume_only ..
    · exact .mono (by rfl) <| updCore_only ..

theorem execMergeEntryArrival_only (core column : Nat) (s : State) :
    Answers [.dict, .cores, .queues] s (execMergeEntryArrival core column s) := by
  unfold execMergeEntryArrival
  exact Only.answers (.mono (by rfl) <| mergeEntry_only ..)

/-! ## The step boundary -/

theorem runStep_only (s : State) (q : Nat) : Only [.queues, .jobs] s (runStep s q) := by
  unfold runStep
  split
  · exact .mono (by rfl) <| .refl _
  · split
    · exact .mono (by rfl) <| .refl _
    · exact .mono (by rfl) <| .ite (.refl _) ((updCmd_only ..).trans <| updJob_only ..)

theorem failSteps_only (s : State) (j : Nat) (J : Job) (st : Status) :
    Only [.dict, .tel, .cores, .queues, .jobs, .parts, .bufs, .tiered, .sync, .miss, .rel, .hbm,
      .hostOut] s (failSteps s j J st) := by
  unfold failSteps
  extract_lets +onlyGivenNames s1
  have h1 : Only [.dict, .tel, .cores, .queues, .jobs, .parts, .bufs, .tiered, .sync, .miss, .rel, .hbm, .hostOut] s s1 := by
    simp only [s1]
    refine .mono (by rfl) <|
      .foldl (F := [.dict, .tel, .cores, .queues, .jobs, .parts, .bufs, .tiered, .sync, .miss, .rel, .hbm,
      .hostOut]) (fun t _ => ?_) _ _
    split
    · exact .mono (by rfl) <| .refl _
    · exact .mono (by rfl) <| .ite (fail_only ..) (.refl _)
  exact .mono (by rfl) <| h1.trans <| (bump_only ..).trans <| updJob_only ..

theorem stepBoundary_only (s : State) (j : Nat) (others : RemoteBoundary) :
    Only [.now, .dict, .tel, .cores, .queues, .jobs, .parts, .bufs, .tiered, .sync, .win, .miss, .rel, .hbm,
      .hostOut] s (stepBoundary s j others) := by
  unfold stepBoundary
  split
  · exact .mono (by rfl) <| .refl _
  · split
    · exact .mono (by rfl) <| .refl _
    · extract_lets +onlyGivenNames list1 l2 known3 crc4 word5
      split
      · exact .mono (by rfl) <| failSteps_only ..
      · split
        · exact .mono (by rfl) <| failSteps_only ..
        · extract_lets +onlyGivenNames half6 x7 sums8 due9 s10 s11 i12 s13
          have h10 : Only [.jobs] s s10 := .mono (by rfl) <| updJob_only ..
          have h11 : Only [.jobs, .now] s s11 := .mono (by rfl) <| h10.trans <| setNow_only _ _
          have h13 : Only [.jobs, .now, .dict] s s13 := .mono (by rfl) <| h11.trans <| (bump_only ..).trans <| (bump_only ..).trans <|
            raiseTo_only ..
          refine .mono (by rfl) <| .trans h13 <|
            .foldl (F := [.dict, .tel, .cores, .queues, .jobs, .parts, .bufs, .tiered, .win, .rel, .hbm,
            .hostOut]) (fun t _ => ?_) _ _
          split
          · exact .mono (by rfl) <| .refl _
          · exact .mono (by rfl) <| (commitOne_only ..).trans <| updQueue_only ..

theorem stepBound_only (s : State) (j : Nat) :
    Only [.now, .dict, .tel, .cores, .queues, .jobs, .parts, .bufs, .tiered, .sync, .miss, .rel, .hbm,
      .hostOut] s (stepBound s j) := by
  unfold stepBound
  split
  · exact .mono (by rfl) <| .refl _
  · split
    · exact .mono (by rfl) <| .refl _
    · exact .mono (by rfl) <| .ite (.refl _) ((setNow_only _ _).trans <| failSteps_only ..)

theorem execStepBoundary_only (job : Nat) (others : RemoteBoundary) (s : State) :
    Answers [.now, .dict, .tel, .cores, .queues, .jobs, .parts, .bufs, .tiered, .sync, .win, .miss, .rel, .hbm,
      .hostOut] s (execStepBoundary job others s) := by
  unfold execStepBoundary
  exact Only.answers (.mono (by rfl) <| stepBoundary_only ..)

theorem execStepBarrierBoundExpiry_only (job : Nat) (s : State) :
    Answers [.now, .dict, .tel, .cores, .queues, .jobs, .parts, .bufs, .tiered, .sync, .miss, .rel, .hbm,
      .hostOut] s (execStepBarrierBoundExpiry job s) := by
  unfold execStepBarrierBoundExpiry
  exact Only.answers (.mono (by rfl) <| stepBound_only ..)

/-! ## The tile movers -/

theorem countTile_only (s : State) (Q : Queue) (core : Nat) : Only [.jobs] s (countTile s Q core) := by
  unfold countTile
  split
  · exact .mono (by rfl) <| .refl _
  · exact .mono (by rfl) <| updJob_only ..

theorem issueReq_only (s : State) (core : Nat) (x : MoverReq) : Only [.cores, .queues, .jobs] s (issueReq s core x) := by
  unfold issueReq
  split
  · exact .mono (by rfl) <| .refl _
  · extract_lets +onlyGivenNames first1 slot2 s3
    have h3 : Only [.cores] s s3 := .mono (by rfl) <| updCore_only ..
    split
    · exact .mono (by rfl) <| .trans (.ite (h3.trans <| countTile_only ..) h3) <| updCmd_only ..
    · exact .mono (by rfl) <| h3.trans <| updCmd_only ..
    · exact .mono (by rfl) <| h3.trans <| updCmd_only ..

theorem refillFor_only (fuel : Nat) (s : State) (core m : Nat) : Only [.cores, .queues, .jobs] s (refillFor fuel s core m) := by
  induction fuel generalizing s with
  | zero => exact .mono (by rfl) <| .refl _
  | succ n ih =>
    unfold refillFor
    split
    · exact .mono (by rfl) <| .refl _
    · split
      · exact .mono (by rfl) <| .refl _
      · exact .mono (by rfl) <| (issueReq_only ..).trans <| ih ..

theorem refill_only (s : State) (core m : Nat) : Only [.cores, .queues, .jobs] s (refill s core m) := by
  unfold refill
  exact .mono (by rfl) <| refillFor_only ..

theorem channelStall_only (s : State) (tier ch late : Nat) : Only [.dict] s (channelStall s tier ch late) := by
  unfold channelStall
  split
  · exact .mono (by rfl) <| bump_only ..
  · exact .mono (by rfl) <| (bump_only ..).trans <| bump_only ..
  · exact .mono (by rfl) <| .refl _

theorem lateRequest_only (s : State) (q : Nat) (Q : Queue) (c : Cmd) (x : MoverReq) :
    Only [.fresh, .dict, .tel, .miss, .hostOut] s (lateRequest s q Q c x) := by
  unfold lateRequest
  extract_lets +onlyGivenNames planned1
  split
  · exact .mono (by rfl) <| .refl _
  · extract_lets +onlyGivenNames late2
    split
    · split
      · extract_lets +onlyGivenNames detail3
        split
        · extract_lets +onlyGivenNames ch4 s5 s6 s7 s8
          have h5 : Only [.fresh] s s5 := .mono (by rfl) <| setFresh_only _ _
          have h6 : Only [.fresh, .dict] s s6 := .mono (by rfl) <| .ite h5 (h5.trans <| stall_only ..)
          have h7 : Only [.fresh, .dict] s s7 := .mono (by rfl) <| .ite h6 (h6.trans <| channelStall_only ..)
          have h8 : Only [.fresh, .dict, .tel, .hostOut] s s8 := .mono (by rfl) <| .ite h7 (h7.trans <| trace_only ..)
          exact .mono (by rfl) <| h8.trans <| missRecord_only ..

theorem begin0_only (s : State) (q : Nat) (Q : Queue) (c : Cmd) (cls : Nat) :
    Only [.fresh, .dict, .queues] s (begin0 s q Q c cls) := by
  unfold begin0
  split
  · exact .mono (by rfl) <| .refl _
  · extract_lets +onlyGivenNames from_1 s2
    have h2 : Only [.queues] s s2 := .mono (by rfl) <| updCmd_only ..
    exact .mono (by rfl) <| .ite h2 (h2.trans <| (setFresh_only _ _).trans <| stall_only ..)

theorem holdIssue_only (s : State) (q : Nat) (c : Cmd) (x : MoverReq) : Only [.dict, .queues] s (holdIssue s q c x) := by
  unfold holdIssue
  extract_lets +onlyGivenNames need1
  clear_value need1
  split
  · extract_lets +onlyGivenNames due2
    split
    · exact .mono (by rfl) <| .refl _
    · extract_lets +onlyGivenNames s3
      have h3 : Only [.dict] s s3 := by
        simp only [s3]
        split
        · exact .mono (by rfl) <| bump_only ..
        · exact .mono (by rfl) <| .refl _
      exact .mono (by rfl) <| h3.trans <| updCmd_only ..
  · exact .mono (by rfl) <| .refl _

theorem delivered_only (s : State) (x : MoverReq) : Only [.fresh, .dict, .tel, .queues, .miss, .hostOut] s (delivered s x) := by
  unfold delivered
  split
  · exact .mono (by rfl) <| .refl _
  · exact .mono (by rfl) <| (updCmd_only ..).trans <| (lateRequest_only ..).trans <| (holdIssue_only ..).trans <| begin0_only ..

theorem tileDone_only (s : State) (core m : Nat) :
    Only [.fresh, .dict, .tel, .cores, .queues, .jobs, .miss, .hostOut] s (tileDone s core m) := by
  unfold tileDone
  extract_lets +onlyGivenNames s1
  have h1 : Only [.cores, .queues, .jobs] s s1 := .mono (by rfl) <| refill_only ..
  split
  · exact .mono (by rfl) <| h1
  · exact .mono (by rfl) <| h1.trans <| (updCore_only ..).trans <| (delivered_only ..).trans <| refill_only ..

theorem openRequests_only (s : State) (q : Nat) (Q : Queue) (c : Cmd) :
    Only [.cores, .queues, .jobs] s (openRequests s q Q c) := by
  unfold openRequests
  split
  · exact .mono (by rfl) <| (updCmd_only ..).trans <| refill_only ..
  · exact .mono (by rfl) <| .ite (updCmd_only ..) ((updCore_only ..).trans <| (updCmd_only ..).trans <| (refill_only ..).trans <|
      refill_only ..)
  · exact .mono (by rfl) <| .refl _

theorem execTileRequestDone_only (core mover : Nat) (s : State) :
    Answers [.fresh, .dict, .tel, .cores, .queues, .jobs, .miss, .hostOut] s (execTileRequestDone core mover s) := by
  unfold execTileRequestDone
  exact Only.answers (.mono (by rfl) <| tileDone_only ..)

/-! ## MOVE -/

theorem runMove_only (s : State) (q kind : Nat) : Only [.fresh, .cores, .queues, .win] s (runMove s q kind) := by
  unfold runMove
  split
  · exact .mono (by rfl) <| .refl _
  · extract_lets +onlyGivenNames r1 src2 s3
    have h3 : Only [.fresh] s s3 := .mono (by rfl) <| .ite (.refl _) (drawn_only ..)
    split
    · split
      · exact .mono (by rfl) <| h3
      · exact .mono (by rfl) <| h3.trans <| (setWin_only _ _).trans <| .trans (.foldl (fun _ _ => sendFlits_only ..) _ _) <|
          finish_only ..
    · extract_lets +onlyGivenNames ver8 same9
      split
      · extract_lets +onlyGivenNames acc10
        split
        · split
          · exact .mono (by rfl) <| h3.trans <| finish_only ..
        · exact .mono (by rfl) <| h3.trans <| finish_only ..

theorem lateFabric_only (s : State) (q : Nat) (Q : Queue) (c : Cmd) : Only [.dict] s (lateFabric s q Q c) := by
  unfold lateFabric
  exact .mono (by rfl) <| .ite (stall_only ..) (.refl _)

theorem remoteAck_only (s : State) (q : Nat) : Only [.dict, .queues] s (remoteAck s q) := by
  unfold remoteAck
  split
  · exact .mono (by rfl) <| .refl _
  · exact .mono (by rfl) <| (lateFabric_only ..).trans <| updCmd_only ..

theorem unreachable_only (s : State) (q : Nat) :
    Only [.dict, .tel, .cores, .queues, .jobs, .parts, .bufs, .tiered, .sync, .miss, .rel, .hbm,
      .hostOut] s (unreachable s q) := by
  unfold unreachable
  split
  · exact .mono (by rfl) <| .refl _
  · exact .mono (by rfl) <| fail_only ..

theorem execRemoteAcknowledgement_only (q : Nat) (s : State) : Answers [.dict, .queues] s (execRemoteAcknowledgement q s) := by
  unfold execRemoteAcknowledgement
  exact Only.answers (.mono (by rfl) <| remoteAck_only ..)

theorem execDestinationUnreachable_only (q : Nat) (s : State) :
    Answers [.dict, .tel, .cores, .queues, .jobs, .parts, .bufs, .tiered, .sync, .miss, .rel, .hbm,
      .hostOut] s (execDestinationUnreachable q s) := by
  unfold execDestinationUnreachable
  exact Only.answers (.mono (by rfl) <| unreachable_only ..)

/-! ## Power -/

theorem useCluster_only (s : State) (c : Nat) : Only [.dict, .clusters] s (useCluster s c) := by
  unfold useCluster
  exact .mono (by rfl) <| .ite ((updCluster_only ..).trans <| bump_only ..) (updCluster_only ..)

theorem startRamps_only (s : State) : Only [.cores] s (startRamps s) := by
  unfold startRamps
  exact .mono (by rfl) <| .foldl (fun _ _ => .ite (updCore_only ..) (.refl _)) _ _

theorem requestWake_only (s : State) (core : Nat) : Only [.dict, .clusters, .cores] s (requestWake s core) := by
  unfold requestWake
  exact .mono (by rfl) <| .ite (.refl _) ((useCluster_only ..).trans <| (updCore_only ..).trans <| (bump_only ..).trans <|
    startRamps_only ..)

theorem coreOn_only (s : State) (core : Nat) : Only [.dict, .tel, .cores, .hostOut] s (coreOn s core) := by
  unfold coreOn
  extract_lets +onlyGivenNames k1
  split
  · exact .mono (by rfl) <| .refl _
  · extract_lets +onlyGivenNames at_2 planned3 s4 s5 served6
    have h4 : Only [.dict, .tel, .hostOut] s s4 := .mono (by rfl) <| trace_only ..
    have h5 : Only [.dict, .tel, .hostOut, .cores] s s5 := .mono (by rfl) <| .ite (h4.trans <| (updCore_only ..).trans <|
      (bump_only ..).trans <| bump_only ..) h4
    exact .mono (by rfl) <| h5.trans <| updCore_only ..

theorem rampEnd_only (s : State) (core : Nat) : Only [.now, .dict, .tel, .cores, .hostOut] s (rampEnd s core) := by
  unfold rampEnd
  exact .mono (by rfl) <| .ite (.refl _) ((setNow_only _ _).trans <| (updCore_only ..).trans <| (coreOn_only ..).trans <|
    startRamps_only ..)

theorem pllLock_only (s : State) (c : Nat) : Only [.now, .dict, .tel, .clusters, .cores, .hostOut] s (pllLock s c) := by
  unfold pllLock
  exact .mono (by rfl) <| .ite (.refl _) ((setNow_only _ _).trans <| (updCluster_only ..).trans <|
    .foldl (fun _ _ => coreOn_only ..) _ _)

theorem gateCore_only (s : State) (core : Nat) : Only [.dict, .tel, .cores, .hostOut] s (gateCore s core) := by
  unfold gateCore
  exact .mono (by rfl) <| (trace_only ..).trans <| updCore_only ..

theorem idleGate_only (s : State) (core : Nat) : Only [.now, .dict, .tel, .cores, .hostOut] s (idleGate s core) := by
  unfold idleGate
  exact .mono (by rfl) <| .ite (.refl _) ((setNow_only _ _).trans <| gateCore_only ..)

theorem pllOff_only (s : State) (c : Nat) : Only [.now, .clusters] s (pllOff s c) := by
  unfold pllOff
  exact .mono (by rfl) <| .ite (.refl _) ((setNow_only _ _).trans <| updCluster_only ..)

theorem requestStep_only (s : State) (up : Bool) : Only [.clusters] s (requestStep s up) := by
  unfold requestStep
  exact .mono (by rfl) <| .foldl (fun _ _ => .ite (updCluster_only ..) (.refl _)) _ _

theorem powerSample_only (s : State) (watts : Nat) :
    Only [.fresh, .dict, .tel, .pwr, .pins, .clusters] s (powerSample s watts) := by
  unfold powerSample
  extract_lets +onlyGivenNames samples1 avg2 limit3 src4 s5
  have h5 : Only [.pwr, .dict] s s5 := .mono (by rfl) <| (setPwr_only _ _).trans <| dset_only ..
  split
  · extract_lets +onlyGivenNames src6 s7
    have h7 : Only [.pwr, .dict] s s7 := .mono (by rfl) <| h5.trans <| setPwr_only _ _
    split
    · extract_lets +onlyGivenNames src8 s9
      have h9 : Only [.pwr, .dict] s s9 := .mono (by rfl) <| h7.trans <| setPwr_only _ _
      exact .mono (by rfl) <| .ite h9 (h9.trans <| (setPwr_only _ _).trans <| requestStep_only ..)
    · exact .mono (by rfl) <| .ite (h7.trans <| (setPwr_only _ _).trans <| (alarmLog_only ..).trans <| bump_only ..) (h7.trans <|
        setPwr_only _ _)
  · extract_lets +onlyGivenNames src11 s12
    have h12 : Only [.pwr, .dict] s s12 := .mono (by rfl) <| h5.trans <| setPwr_only _ _
    exact .mono (by rfl) <| .ite (.ite (h12.trans <| (setPwr_only _ _).trans <| requestStep_only ..) (h12.trans <|
      setPwr_only _ _)) (h12.trans <| setPwr_only _ _)

theorem holdArrays_only (s : State) (c beats : Nat) : Only [.queues] s (holdArrays s c beats) := by
  unfold holdArrays
  exact .mono (by rfl) <| setQueues_only _ _

theorem powerStep_only (s : State) (c : Nat) : Only [.now, .dict, .tel, .clusters, .queues, .hostOut] s (powerStep s c) := by
  unfold powerStep
  extract_lets +onlyGivenNames cl1
  split
  · exact .mono (by rfl) <| .refl _
  · exact .mono (by rfl) <| .ite (updCluster_only ..) (.trans (.foldl (fun _ _ => .ite (bump_only ..) (.refl _)) _ _) <|
      (setNow_only _ _).trans <| (holdArrays_only ..).trans <| (updCluster_only ..).trans <| (bump_only ..).trans <|
      trace_only ..)

theorem beginThrottle_only (s : State) (c : Nat) : Only [.dict, .clusters] s (beginThrottle s c) := by
  unfold beginThrottle
  exact .mono (by rfl) <| (updCluster_only ..).trans <| .foldl (fun _ _ => bump_only ..) _ _

theorem droop_only (s : State) (c : Nat) : Only [.dict, .clusters] s (droop s c) := by
  unfold droop
  exact .mono (by rfl) <| .ite (.refl _) (.ite (updCluster_only ..) (beginThrottle_only ..))

theorem heldKills_only (s : State) :
    Only [.dict, .tel, .cores, .queues, .jobs, .parts, .bufs, .tiered, .sync, .reds, .win, .miss, .rel, .hbm,
      .hostOut] s (heldKills s) := by
  unfold heldKills
  refine .mono (by rfl) <|
    .foldl (F := [.dict, .tel, .cores, .queues, .jobs, .parts, .bufs, .tiered, .sync, .reds, .win, .miss, .rel, .hbm,
    .hostOut]) (fun t _ => ?_) _ _
  split
  · exact .mono (by rfl) <| killQueue_only ..
  · exact .mono (by rfl) <| .refl _

theorem throttleEnd_only (s : State) (c cycles : Nat) (persists : Bool) :
    Only [.fresh, .dict, .tel, .pins, .clusters, .cores, .queues, .jobs, .parts, .bufs, .tiered, .sync, .reds, .win, .miss,
      .rel, .hbm, .hostOut] s (throttleEnd s c cycles persists) := by
  unfold throttleEnd
  split
  · exact .mono (by rfl) <| .refl _
  · extract_lets +onlyGivenNames n1 s2 s3 s4 s5
    have h2 : Only [.dict] s s2 := .mono (by rfl) <| .foldl (fun _ _ => bump_only ..) _ _
    have h3 : Only [.dict, .queues] s s3 := .mono (by rfl) <| h2.trans <| holdArrays_only ..
    have h4 : Only [.dict, .queues, .clusters] s s4 := .mono (by rfl) <| h3.trans <| updCluster_only ..
    have h5 : Only [.dict, .queues, .clusters, .fresh, .tel, .pins] s s5 := .mono (by rfl) <| .ite (h4.trans <|
      (alarmLog_only ..).trans <| (bump_only ..).trans <| requestStep_only ..) h4
    exact .mono (by rfl) <| h5.trans <| heldKills_only ..

theorem gapEnd_only (s : State) (c : Nat) (present : Bool) : Only [.dict, .clusters] s (gapEnd s c present) := by
  unfold gapEnd
  split
  · exact .mono (by rfl) <| .refl _
  · extract_lets +onlyGivenNames s1
    have h1 : Only [.clusters] s s1 := .mono (by rfl) <| updCluster_only ..
    exact .mono (by rfl) <| .ite (h1.trans <| beginThrottle_only ..) h1

theorem killOnCores_only (s : State) (p : Nat → Bool) (kind : KillKind) :
    Only [.dict, .tel, .cores, .queues, .jobs, .parts, .bufs, .tiered, .sync, .reds, .win, .miss, .rel, .hbm,
      .hostOut] s (killOnCores s p kind) := by
  unfold killOnCores
  exact .mono (by rfl) <| .foldl (fun _ _ => .ite (killQueue_only ..) (.refl _)) _ _

theorem brownOut_only (s : State) (c : Nat) :
    Only [.fresh, .dict, .tel, .pins, .clusters, .cores, .queues, .jobs, .parts, .bufs, .tiered, .sync, .reds, .win, .miss,
      .rel, .hbm, .hostOut] s (brownOut s c) := by
  unfold brownOut
  exact .mono (by rfl) <| (updCluster_only ..).trans <| (killOnCores_only ..).trans <| (heldKills_only ..).trans <|
    (alarmLog_only ..).trans <| (bump_only ..).trans <| bump_only ..

theorem brownOutRecovery_only (s : State) (c : Nat) : Only [.clusters] s (brownOutRecovery s c) := by
  unfold brownOutRecovery
  exact .mono (by rfl) <| updCluster_only ..

theorem execWakeRequest_only (core : Nat) (s : State) : Answers [.dict, .clusters, .cores] s (execWakeRequest core s) := by
  unfold execWakeRequest
  exact Only.answers (.mono (by rfl) <| requestWake_only ..)

theorem execRampEnd_only (core : Nat) (s : State) : Answers [.now, .dict, .tel, .cores, .hostOut] s (execRampEnd core s) := by
  unfold execRampEnd
  exact Only.answers (.mono (by rfl) <| rampEnd_only ..)

theorem execPllLock_only (cluster : Nat) (s : State) :
    Answers [.now, .dict, .tel, .clusters, .cores, .hostOut] s (execPllLock cluster s) := by
  unfold execPllLock
  exact Only.answers (.mono (by rfl) <| pllLock_only ..)

theorem execIdleGateExpiry_only (core : Nat) (s : State) :
    Answers [.now, .dict, .tel, .cores, .hostOut] s (execIdleGateExpiry core s) := by
  unfold execIdleGateExpiry
  exact Only.answers (.mono (by rfl) <| idleGate_only ..)

theorem execPllOffExpiry_only (cluster : Nat) (s : State) : Answers [.now, .clusters] s (execPllOffExpiry cluster s) := by
  unfold execPllOffExpiry
  exact Only.answers (.mono (by rfl) <| pllOff_only ..)

theorem execPowerSample_only (watts : Nat) (s : State) :
    Answers [.fresh, .dict, .tel, .pwr, .pins, .clusters] s (execPowerSample watts s) := by
  unfold execPowerSample
  exact Only.answers (.mono (by rfl) <| powerSample_only ..)

theorem execPowerStep_only (cluster : Nat) (s : State) :
    Answers [.now, .dict, .tel, .clusters, .queues, .hostOut] s (execPowerStep cluster s) := by
  unfold execPowerStep
  exact Only.answers (.mono (by rfl) <| powerStep_only ..)

theorem execVcoreDroop_only (cluster : Nat) (s : State) : Answers [.dict, .clusters] s (execVcoreDroop cluster s) := by
  unfold execVcoreDroop
  exact Only.answers (.mono (by rfl) <| droop_only ..)

theorem execDroopThrottleEnd_only (cluster cycles : Nat) (persists : Bool) (s : State) :
    Answers [.fresh, .dict, .tel, .pins, .clusters, .cores, .queues, .jobs, .parts, .bufs, .tiered, .sync, .reds, .win, .miss,
      .rel, .hbm, .hostOut] s (execDroopThrottleEnd cluster cycles persists s) := by
  unfold execDroopThrottleEnd
  exact Only.answers (.mono (by rfl) <| throttleEnd_only ..)

theorem execDroopGapEnd_only (cluster : Nat) (present : Bool) (s : State) :
    Answers [.dict, .clusters] s (execDroopGapEnd cluster present s) := by
  unfold execDroopGapEnd
  exact Only.answers (.mono (by rfl) <| gapEnd_only ..)

theorem execBrownOut_only (cluster : Nat) (s : State) :
    Answers [.fresh, .dict, .tel, .pins, .clusters, .cores, .queues, .jobs, .parts, .bufs, .tiered, .sync, .reds, .win, .miss,
      .rel, .hbm, .hostOut] s (execBrownOut cluster s) := by
  unfold execBrownOut
  exact Only.answers (.mono (by rfl) <| brownOut_only ..)

theorem execBrownOutRecovery_only (cluster : Nat) (s : State) : Answers [.clusters] s (execBrownOutRecovery cluster s) := by
  unfold execBrownOutRecovery
  exact Only.answers (.mono (by rfl) <| brownOutRecovery_only ..)

/-! ## Synchronization -/

theorem putSync_only (s : State) (o : Nat) (v : SyncObj) : Only [.sync] s (putSync s o v) := by
  unfold putSync
  exact .mono (by rfl) <| setSync_only _ _

theorem reexamineOne_only (obj : Nat) (s : State) (w : Waiter) :
    Only [.dict, .tel, .cores, .queues, .jobs, .parts, .bufs, .tiered, .sync, .win, .rel, .hbm,
      .hostOut] s (reexamineOne obj s w) := by
  unfold reexamineOne
  split
  · split
    · exact .mono (by rfl) <| .refl _
    · split
      · exact .mono (by rfl) <| .refl _
      · exact .mono (by rfl) <| (putSync_only ..).trans <| commitOne_only ..
  · exact .mono (by rfl) <| .refl _

theorem reexamine_only (s : State) (obj : Nat) :
    Only [.dict, .tel, .cores, .queues, .jobs, .parts, .bufs, .tiered, .sync, .win, .rel, .hbm,
      .hostOut] s (reexamine s obj) := by
  unfold reexamine
  split
  · exact .self _
  · exact .foldl (fun _ _ => reexamineOne_only ..) _ _

theorem applyChange_some_only (s t : State) (obj op value : Nat) (h : applyChange s obj op value = some t) :
    Only [.dict, .tel, .cores, .queues, .jobs, .parts, .bufs, .tiered, .sync, .win, .rel, .hbm, .hostOut] s t := by
  have change (o : SyncObj) : Only [.dict, .tel, .cores, .queues, .jobs, .parts, .bufs, .tiered, .sync, .win, .rel, .hbm,
    .hostOut] s (reexamine (putSync s obj o) obj) :=
    .mono (by rfl) <| (putSync_only ..).trans <| reexamine_only ..
  unfold applyChange at h
  split at h
  · cases h; exact .self _
  · split at h
    · split at h
      · cases h
      · cases h; exact change _
    all_goals cases h
    · exact change _
    · exact change _
    · exact change _
    · exact .self _

theorem applyChange_only (s : State) (obj op value : Nat) :
    Only [.dict, .tel, .cores, .queues, .jobs, .parts, .bufs, .tiered, .sync, .win, .rel, .hbm,
      .hostOut] s ((applyChange s obj op value).getD s) := by
  cases h : applyChange s obj op value with
  | none => exact .self _
  | some t => exact applyChange_some_only s t obj op value h

theorem sendSignal_only (s : State) (J : Job) (cls type module index kind value : Nat) :
    Only [.win] s (sendSignal s J cls type module index kind value) := by
  unfold sendSignal
  exact .mono (by rfl) <| (setWin_only _ _).trans <| sendFlits_only ..

theorem signalEffect_some_only (s t : State) (Q : Queue) (c : Cmd) (h : signalEffect s Q c = some t) :
    Only [.dict, .tel, .cores, .queues, .jobs, .parts, .bufs, .tiered, .sync, .win, .rel, .hbm, .hostOut] s t := by
  unfold signalEffect at h
  split at h
  · cases h; exact .mono (by rfl) <| sendSignal_only ..
  · split at h
    · cases h; exact .self _
    · exact .mono (by rfl) <| applyChange_some_only _ _ _ _ _ h

theorem runSignal_only (s : State) (q op : Nat) :
    Only [.dict, .tel, .cores, .queues, .jobs, .parts, .bufs, .tiered, .sync, .win, .miss, .rel, .hbm,
      .hostOut] s (runSignal s q op) := by
  unfold runSignal
  split
  · exact .self _
  next Q c _ =>
    split
    · exact .mono (by rfl) <| finish_only ..
    · cases h : signalEffect s Q c with
      | none => exact .mono (by rfl) <| fail_only ..
      | some t =>
        have ht := signalEffect_some_only s t Q c h
        cases remoteJob s Q c with
        | none => exact .mono (by rfl) <| ht.trans <| commitOne_only ..
        | some J => exact .mono (by rfl) <| ht.trans <| finish_only ..

theorem runRelease_only (s : State) (q : Nat) :
    Only [.dict, .tel, .cores, .queues, .jobs, .parts, .bufs, .tiered, .sync, .win, .miss, .rel, .hbm,
      .hostOut] s (runRelease s q) := by
  unfold runRelease
  split
  · exact .mono (by rfl) <| .refl _
  · split
    · exact .mono (by rfl) <| .refl _
    · exact .mono (by rfl) <| .ite (fail_only ..) (runSignal_only ..)

theorem joinWaiters_only (s : State) (q uid obj : Nat) (o : SyncObj) : Only [.queues, .sync] s (joinWaiters s q uid obj o) := by
  unfold joinWaiters
  exact .mono (by rfl) <| (putSync_only ..).trans <| updCmd_only ..

theorem runWait_only (s : State) (q op : Nat) :
    Only [.dict, .tel, .cores, .queues, .jobs, .parts, .bufs, .tiered, .sync, .win, .miss, .rel, .hbm,
      .hostOut] s (runWait s q op) := by
  unfold runWait
  split
  · exact .mono (by rfl) <| .refl _
  · split
    · exact .mono (by rfl) <| .refl _
    · split
      · exact .mono (by rfl) <| .refl _
      · split
        · exact .mono (by rfl) <| fail_only ..
        · split
          · exact .mono (by rfl) <| (putSync_only ..).trans <| commitOne_only ..
          · exact .mono (by rfl) <| joinWaiters_only ..

theorem releasePhase_only (s : State) (obj : Nat) :
    Only [.dict, .tel, .cores, .queues, .jobs, .parts, .bufs, .tiered, .sync, .win, .rel, .hbm,
      .hostOut] s (releasePhase s obj) := by
  unfold releasePhase
  split
  · exact .mono (by rfl) <| .refl _
  · extract_lets +onlyGivenNames s1 s2
    have h1 : Only [.sync] s s1 := .mono (by rfl) <| putSync_only ..
    have h2 : Only [.sync, .dict, .tel, .hostOut] s s2 := .mono (by rfl) <| h1.trans <| (trace_only ..).trans <| bump_only ..
    refine .mono (by rfl) <| .trans h2 <|
      .foldl (F := [.dict, .tel, .cores, .queues, .jobs, .parts, .bufs, .tiered, .win, .rel, .hbm,
      .hostOut]) (fun t _ => ?_) _ _
    split
    · exact .mono (by rfl) <| .refl _
    · exact .mono (by rfl) <| commitOne_only ..

theorem rootRelease_only (s : State) (obj : Nat) :
    Only [.dict, .tel, .cores, .queues, .jobs, .parts, .bufs, .tiered, .sync, .win, .rel, .hbm,
      .hostOut] s (rootRelease s obj) := by
  unfold rootRelease
  split
  · exact .mono (by rfl) <| .refl _
  · split
    · exact .mono (by rfl) <| .refl _
    · exact .mono (by rfl) <| .ite (.trans (.foldl (fun _ _ => sendSignal_only ..) _ _) <| releasePhase_only ..) (.refl _)

theorem localComplete_only (s : State) (obj : Nat) :
    Only [.dict, .tel, .cores, .queues, .jobs, .parts, .bufs, .tiered, .sync, .win, .rel, .hbm,
      .hostOut] s (localComplete s obj) := by
  unfold localComplete
  split
  · exact .mono (by rfl) <| .refl _
  · split
    · exact .mono (by rfl) <| releasePhase_only ..
    · split
      · exact .mono (by rfl) <| releasePhase_only ..
      · extract_lets +onlyGivenNames s1
        have h1 : Only [.sync] s s1 := .mono (by rfl) <| putSync_only ..
        exact .mono (by rfl) <| .ite (h1.trans <| rootRelease_only ..) (.ite (h1.trans <| releasePhase_only ..) (.ite h1 (h1.trans <|
          sendSignal_only ..)))

theorem runArrive_only (s : State) (q : Nat) :
    Only [.dict, .tel, .cores, .queues, .jobs, .parts, .bufs, .tiered, .sync, .win, .rel, .hbm,
      .hostOut] s (runArrive s q) := by
  unfold runArrive
  split
  · exact .mono (by rfl) <| .refl _
  · split
    · exact .mono (by rfl) <| .refl _
    · split
      · exact .mono (by rfl) <| .refl _
      · extract_lets +onlyGivenNames o1 s2
        have h2 : Only [.queues, .sync] s s2 := .mono (by rfl) <| joinWaiters_only ..
        exact .mono (by rfl) <| .ite (h2.trans <| localComplete_only ..) h2

theorem barrierToken_only (s : State) (obj : Nat) (token : BarrierToken) :
    Only [.dict, .tel, .cores, .queues, .jobs, .parts, .bufs, .tiered, .sync, .win, .rel, .hbm,
      .hostOut] s (barrierToken s obj token) := by
  unfold barrierToken
  split
  · exact .mono (by rfl) <| .refl _
  · split
    · exact .mono (by rfl) <| .refl _
    · extract_lets +onlyGivenNames from_1 s2
      have h2 : Only [.win] s s2 := .mono (by rfl) <| .elim (.refl _) (fun _ => takeFlits_only ..)
      split
      · exact .mono (by rfl) <| .ite h2 (h2.trans <| (putSync_only ..).trans <| rootRelease_only ..)
      · exact .mono (by rfl) <| .ite (h2.trans <| releasePhase_only ..) (.ite (h2.trans <| putSync_only ..) h2)

theorem remoteSignal_only (s : State) (job index : Nat) (signal : SyncSignal) :
    Only [.dict, .tel, .cores, .queues, .jobs, .parts, .bufs, .tiered, .sync, .win, .rel, .hbm,
      .hostOut] s (remoteSignal s job index signal) := by
  unfold remoteSignal
  split
  · exact .mono (by rfl) <| .refl _
  · split
    · exact .mono (by rfl) <| applyChange_only ..
    · exact .mono (by rfl) <| applyChange_only ..
    · exact .mono (by rfl) <| applyChange_only ..

theorem runLaunch_only (s : State) (q : Nat) :
    Only [.dict, .tel, .cores, .queues, .jobs, .parts, .bufs, .tiered, .sync, .win, .miss, .rel, .hbm,
      .hostOut] s (runLaunch s q) := by
  unfold runLaunch
  split
  · exact .mono (by rfl) <| .refl _
  · exact .mono (by rfl) <| .ite (fail_only ..) (.ite ((bump_only ..).trans <|
      fail_only ..) (.ite (fail_only ..) (.ite (commitOne_only ..) (updCmd_only ..))))

theorem launchBeat_only (s : State) (q : Nat) :
    Only [.now, .dict, .tel, .cores, .queues, .jobs, .parts, .bufs, .tiered, .win, .rel, .hbm,
      .hostOut] s (launchBeat s q) := by
  unfold launchBeat
  split
  · exact .mono (by rfl) <| .refl _
  · split
    · exact .mono (by rfl) <| .refl _
    · exact .mono (by rfl) <| (setNow_only _ _).trans <| commitOne_only ..

theorem commitMember_only (s : State) (q : Nat) (c : Cmd) :
    Only [.dict, .tel, .cores, .queues, .jobs, .parts, .bufs, .tiered, .sync, .win, .rel, .hbm,
      .hostOut] s (commitMember s q c) := by
  unfold commitMember
  extract_lets st s1
  have h1 : Only [.dict, .tel, .cores, .queues, .jobs, .parts, .bufs, .tiered, .sync, .win, .rel, .hbm, .hostOut] s s1 := by
    simp only [s1]
    split
    · cases h : (queueAt s q).bind fun Q => signalEffect s Q c with
      | none => exact .self _
      | some t =>
        obtain ⟨Q, -, ht⟩ := Option.bind_eq_some_iff.1 h
        exact signalEffect_some_only s t Q c ht
    · exact .self _
  exact .mono (by rfl) <| h1.trans <| commitOne_only ..

theorem runCommit_only (s : State) (q : Nat) :
    Only [.dict, .tel, .cores, .queues, .jobs, .parts, .bufs, .tiered, .sync, .win, .miss, .rel, .hbm,
      .hostOut] s (runCommit s q) := by
  unfold runCommit
  split
  · exact .mono (by rfl) <| .refl _
  · split
    · exact .mono (by rfl) <| .refl _
    · extract_lets +onlyGivenNames before1
      split
      · exact .mono (by rfl) <| .ite (commitOne_only ..) (.refl _)
      · split
        · exact .mono (by rfl) <| .ite (commitOne_only ..) (.refl _)
        · split
          · split
            · exact .mono (by rfl) <| fail_only ..
            · exact .mono (by rfl) <| (updQueue_only ..).trans <| .trans (.foldl (fun _ _ => commitMember_only ..) _ _) <|
                commitOne_only ..
          · exact .mono (by rfl) <| .refl _

theorem backstop_only (s : State) (q : Nat) :
    Only [.now, .dict, .tel, .cores, .queues, .jobs, .parts, .bufs, .tiered, .sync, .reds, .win, .miss, .rel, .hbm,
      .hostOut] s (backstop s q) := by
  unfold backstop
  split
  · exact .mono (by rfl) <| .refl _
  · split
    · exact .mono (by rfl) <| .refl _
    · split
      · exact .mono (by rfl) <| .refl _
      · extract_lets +onlyGivenNames s1
        have h1 : Only [.now, .dict] s s1 := .mono (by rfl) <| (setNow_only _ _).trans <| bump_only ..
        split
        · exact .mono (by rfl) <| h1.trans <| bump_only ..
        · split
          · exact .mono (by rfl) <| h1
          · exact .mono (by rfl) <| .ite (h1.trans <| (bump_only ..).trans <| fail_only ..) (h1.trans <| (bump_only ..).trans <|
              (killQueue_only ..).trans <| updCmd_only ..)

theorem abandonLocks_only (s : State) (q : Nat) :
    Only [.dict, .tel, .cores, .queues, .jobs, .parts, .bufs, .tiered, .sync, .win, .rel, .hbm,
      .hostOut] s (abandonLocks s q) := by
  unfold abandonLocks
  refine .mono (by rfl) <|
    .foldl (F := [.sync, .dict, .tel, .cores, .queues, .jobs, .parts, .bufs, .tiered, .win, .rel, .hbm,
    .hostOut]) (fun t _ => ?_) _ _
  split
  · split
    · exact .mono (by rfl) <| .refl _
    · exact .mono (by rfl) <| (putSync_only ..).trans <| (bump_only ..).trans <| reexamine_only ..
  · exact .mono (by rfl) <| .refl _

theorem execSyncCounterAdd_only (q : Nat) (s : State) :
    Answers [.dict, .tel, .cores, .queues, .jobs, .parts, .bufs, .tiered, .sync, .win, .miss, .rel, .hbm,
      .hostOut] s (execSyncCounterAdd q s) := by
  unfold execSyncCounterAdd
  exact Only.answers (.mono (by rfl) <| runSignal_only ..)

theorem execSyncCounterWait_only (q : Nat) (s : State) :
    Answers [.dict, .tel, .cores, .queues, .jobs, .parts, .bufs, .tiered, .sync, .win, .miss, .rel, .hbm,
      .hostOut] s (execSyncCounterWait q s) := by
  unfold execSyncCounterWait
  exact Only.answers (.mono (by rfl) <| runWait_only ..)

theorem execSyncEventSet_only (q : Nat) (s : State) :
    Answers [.dict, .tel, .cores, .queues, .jobs, .parts, .bufs, .tiered, .sync, .win, .miss, .rel, .hbm,
      .hostOut] s (execSyncEventSet q s) := by
  unfold execSyncEventSet
  exact Only.answers (.mono (by rfl) <| runSignal_only ..)

theorem execSyncEventClear_only (q : Nat) (s : State) :
    Answers [.dict, .tel, .cores, .queues, .jobs, .parts, .bufs, .tiered, .sync, .win, .miss, .rel, .hbm,
      .hostOut] s (execSyncEventClear q s) := by
  unfold execSyncEventClear
  exact Only.answers (.mono (by rfl) <| runSignal_only ..)

theorem execSyncEventWait_only (q : Nat) (s : State) :
    Answers [.dict, .tel, .cores, .queues, .jobs, .parts, .bufs, .tiered, .sync, .win, .miss, .rel, .hbm,
      .hostOut] s (execSyncEventWait q s) := by
  unfold execSyncEventWait
  exact Only.answers (.mono (by rfl) <| runWait_only ..)

theorem execSyncLockAcquire_only (q : Nat) (s : State) :
    Answers [.dict, .tel, .cores, .queues, .jobs, .parts, .bufs, .tiered, .sync, .win, .miss, .rel, .hbm,
      .hostOut] s (execSyncLockAcquire q s) := by
  unfold execSyncLockAcquire
  exact Only.answers (.mono (by rfl) <| runWait_only ..)

theorem execSyncLockRelease_only (q : Nat) (s : State) :
    Answers [.dict, .tel, .cores, .queues, .jobs, .parts, .bufs, .tiered, .sync, .win, .miss, .rel, .hbm,
      .hostOut] s (execSyncLockRelease q s) := by
  unfold execSyncLockRelease
  exact Only.answers (.mono (by rfl) <| runRelease_only ..)

theorem execSyncBarrierArrive_only (q : Nat) (s : State) :
    Answers [.dict, .tel, .cores, .queues, .jobs, .parts, .bufs, .tiered, .sync, .win, .rel, .hbm,
      .hostOut] s (execSyncBarrierArrive q s) := by
  unfold execSyncBarrierArrive
  exact Only.answers (.mono (by rfl) <| runArrive_only ..)

theorem execSyncLaunchAtCount_only (q : Nat) (s : State) :
    Answers [.dict, .tel, .cores, .queues, .jobs, .parts, .bufs, .tiered, .sync, .win, .miss, .rel, .hbm,
      .hostOut] s (execSyncLaunchAtCount q s) := by
  unfold execSyncLaunchAtCount
  exact Only.answers (.mono (by rfl) <| runLaunch_only ..)

theorem execLaunchBeatReached_only (q : Nat) (s : State) :
    Answers [.now, .dict, .tel, .cores, .queues, .jobs, .parts, .bufs, .tiered, .win, .rel, .hbm,
      .hostOut] s (execLaunchBeatReached q s) := by
  unfold execLaunchBeatReached
  exact Only.answers (.mono (by rfl) <| launchBeat_only ..)

theorem execCommit_only (q : Nat) (s : State) :
    Answers [.dict, .tel, .cores, .queues, .jobs, .parts, .bufs, .tiered, .sync, .win, .miss, .rel, .hbm,
      .hostOut] s (execCommit q s) := by
  unfold execCommit
  exact Only.answers (.mono (by rfl) <| runCommit_only ..)

theorem execSyncWaitBoundExpiry_only (q : Nat) (s : State) :
    Answers [.now, .dict, .tel, .cores, .queues, .jobs, .parts, .bufs, .tiered, .sync, .reds, .win, .miss, .rel, .hbm,
      .hostOut] s (execSyncWaitBoundExpiry q s) := by
  unfold execSyncWaitBoundExpiry
  exact Only.answers (.mono (by rfl) <| backstop_only ..)

theorem execBarrierTokenArrival_only (object : Nat) (token : BarrierToken) (s : State) :
    Answers [.dict, .tel, .cores, .queues, .jobs, .parts, .bufs, .tiered, .sync, .win, .rel, .hbm,
      .hostOut] s (execBarrierTokenArrival object token s) := by
  unfold execBarrierTokenArrival
  exact Only.answers (.mono (by rfl) <| barrierToken_only ..)

theorem execRemoteSyncSignal_only (job object : Nat) (signal : SyncSignal) (s : State) :
    Answers [.dict, .tel, .cores, .queues, .jobs, .parts, .bufs, .tiered, .sync, .win, .rel, .hbm,
      .hostOut] s (execRemoteSyncSignal job object signal s) := by
  unfold execRemoteSyncSignal
  exact Only.answers (.mono (by rfl) <| remoteSignal_only ..)

/-! ## The update unit -/

theorem updUnit_only (s : State) (core : Nat) (f : UpdUnit → UpdUnit) : Only [.cores] s (updUnit s core f) := by
  unfold updUnit
  exact .mono (by rfl) <| updCore_only ..

theorem runSweep_only (s : State) (q : Nat) : Only [.cores, .queues] s (runSweep s q) := by
  unfold runSweep
  split
  · exact .mono (by rfl) <| .refl _
  · split
    · exact .mono (by rfl) <| .refl _
    · split
      · exact .mono (by rfl) <| .refl _
      · exact .mono (by rfl) <| .ite (finish_only ..) (finish_only ..)

theorem execUadd_only (core : Nat) (a : UArgs) (s : State) : Answers [.cores] s (execUadd core a s) := by
  unfold execUadd
  exact Only.answers (.mono (by rfl) <| updUnit_only ..)

theorem execUsub_only (core : Nat) (a : UArgs) (s : State) : Answers [.cores] s (execUsub core a s) := by
  unfold execUsub
  exact Only.answers (.mono (by rfl) <| updUnit_only ..)

theorem execUmul_only (core : Nat) (a : UArgs) (s : State) : Answers [.cores] s (execUmul core a s) := by
  unfold execUmul
  exact Only.answers (.mono (by rfl) <| updUnit_only ..)

theorem execUfma_only (core : Nat) (a : UArgs) (s : State) : Answers [.cores] s (execUfma core a s) := by
  unfold execUfma
  exact Only.answers (.mono (by rfl) <| updUnit_only ..)

theorem execUdiv_only (core : Nat) (a : UArgs) (s : State) : Answers [.cores] s (execUdiv core a s) := by
  unfold execUdiv
  exact Only.answers (.mono (by rfl) <| updUnit_only ..)

theorem execUsqrt_only (core : Nat) (a : UArgs) (s : State) : Answers [.cores] s (execUsqrt core a s) := by
  unfold execUsqrt
  exact Only.answers (.mono (by rfl) <| updUnit_only ..)

theorem execUrsqrt_only (core : Nat) (a : UArgs) (s : State) : Answers [.cores] s (execUrsqrt core a s) := by
  unfold execUrsqrt
  exact Only.answers (.mono (by rfl) <| updUnit_only ..)

theorem execUmax_only (core : Nat) (a : UArgs) (s : State) : Answers [.cores] s (execUmax core a s) := by
  unfold execUmax
  exact Only.answers (.mono (by rfl) <| updUnit_only ..)

theorem execUmin_only (core : Nat) (a : UArgs) (s : State) : Answers [.cores] s (execUmin core a s) := by
  unfold execUmin
  exact Only.answers (.mono (by rfl) <| updUnit_only ..)

theorem execUabs_only (core : Nat) (a : UArgs) (s : State) : Answers [.cores] s (execUabs core a s) := by
  unfold execUabs
  exact Only.answers (.mono (by rfl) <| updUnit_only ..)

theorem execUsel_only (core : Nat) (a : UArgs) (s : State) : Answers [.cores] s (execUsel core a s) := by
  unfold execUsel
  exact Only.answers (.mono (by rfl) <| updUnit_only ..)

theorem execUest_only (core : Nat) (a : UArgs) (s : State) : Answers [.cores] s (execUest core a s) := by
  unfold execUest
  exact Only.answers (.mono (by rfl) <| updUnit_only ..)

theorem execUred_only (core : Nat) (a : UArgs) (s : State) : Answers [.cores] s (execUred core a s) := by
  unfold execUred
  exact Only.answers (.mono (by rfl) <| updUnit_only ..)

theorem execUmov_only (core : Nat) (a : UArgs) (s : State) : Answers [.cores] s (execUmov core a s) := by
  unfold execUmov
  exact Only.answers (.mono (by rfl) <| updUnit_only ..)

/-! ## The vector unit -/

theorem updVec_onlyFields (s : State) (core : Nat) (f : VecUnit → VecUnit) : Only [.cores] s (updVec s core f) := by
  unfold updVec
  exact .mono (by rfl) <| updCore_only ..

theorem vecFail_only (s : State) (core : Nat) (st : Status) :
    Only [.dict, .tel, .cores, .queues, .jobs, .parts, .bufs, .tiered, .sync, .miss, .rel, .hbm,
      .hostOut] s (vecFail s core st) := by
  unfold vecFail
  split
  · exact .mono (by rfl) <| .refl _
  · exact .mono (by rfl) <| fail_only ..

theorem vecLane1_only (f : W32 → W32) (core : Nat) (a : VArgs) (s : State) : Only [.cores] s (vecLane1 f core a s) := by
  unfold vecLane1
  exact .mono (by rfl) <| updVec_onlyFields ..

theorem vecLane2_only (f : W32 → W32 → W32) (core : Nat) (a : VArgs) (s : State) : Only [.cores] s (vecLane2 f core a s) := by
  unfold vecLane2
  exact .mono (by rfl) <| updVec_onlyFields ..

theorem vecLane3_only (f : W32 → W32 → W32 → W32) (core : Nat) (a : VArgs) (s : State) :
    Only [.cores] s (vecLane3 f core a s) := by
  unfold vecLane3
  exact .mono (by rfl) <| updVec_onlyFields ..

theorem vecCmp_only (core : Nat) (a : VArgs) (s : State) :
    Only [.dict, .tel, .cores, .queues, .jobs, .parts, .bufs, .tiered, .sync, .miss, .rel, .hbm,
      .hostOut] s (vecCmp core a s) := by
  unfold vecCmp
  exact .mono (by rfl) <| .ite (vecFail_only ..) (updVec_onlyFields ..)

theorem vecSel_only (core : Nat) (a : VArgs) (s : State) : Only [.cores] s (vecSel core a s) := by
  unfold vecSel
  exact .mono (by rfl) <| updVec_onlyFields ..

theorem vecMov_only (core : Nat) (a : VArgs) (s : State) : Only [.cores] s (vecMov core a s) := by
  unfold vecMov
  exact .mono (by rfl) <| updVec_onlyFields ..

theorem vecBcast_only (core : Nat) (a : VArgs) (s : State) : Only [.cores] s (vecBcast core a s) := by
  unfold vecBcast
  exact .mono (by rfl) <| updVec_onlyFields ..

theorem vecLaneIdx_only (core : Nat) (a : VArgs) (s : State) : Only [.cores] s (vecLaneIdx core a s) := by
  unfold vecLaneIdx
  exact .mono (by rfl) <| updVec_onlyFields ..

theorem vecDrop_only (core : Nat) (a : VArgs) (s : State) : Only [.cores] s (vecDrop core a s) := by
  unfold vecDrop
  exact .mono (by rfl) <| updVec_onlyFields ..

theorem vecScalar_only (f : W64 → W64) (core : Nat) (a : VArgs) (s : State) : Only [.cores] s (vecScalar f core a s) := by
  unfold vecScalar
  exact .mono (by rfl) <| updVec_onlyFields ..

theorem vecLoop_only (core : Nat) (a : VArgs) (s : State) :
    Only [.dict, .tel, .cores, .queues, .jobs, .parts, .bufs, .tiered, .sync, .miss, .rel, .hbm,
      .hostOut] s (vecLoop core a s) := by
  unfold vecLoop
  exact .mono (by rfl) <| .ite (vecFail_only ..) (updVec_onlyFields ..)

theorem vecEnd_only (core : Nat) (s : State) : Only [.cores, .queues] s (vecEnd core s) := by
  unfold vecEnd
  split
  · exact .mono (by rfl) <| .refl _
  · exact .mono (by rfl) <| finish_only ..

theorem vecLoad_only (n : Nat) (conv : VecUnit → List Byte → List W32) (core : Nat) (a : VArgs) (s : State) :
    Only [.dict, .tel, .cores, .queues, .jobs, .parts, .bufs, .tiered, .sync, .miss, .rel, .hbm,
      .hostOut] s (vecLoad n conv core a s) := by
  unfold vecLoad
  split
  · exact .mono (by rfl) <| .refl _
  · split
    · exact .mono (by rfl) <| vecFail_only ..
    · exact .mono (by rfl) <| updVec_onlyFields ..

theorem vecStore_only (w : Nat) (code : List W32 → List (List Byte)) (obs : Nat → List W32 → List ObsDelta) (core : Nat)
    (a : VArgs) (s : State) :
    Only [.dict, .tel, .cores, .queues, .jobs, .parts, .bufs, .tiered, .sync, .miss, .rel, .hbm,
      .hostOut] s (vecStore w code obs core a s) := by
  unfold vecStore
  split
  · exact .mono (by rfl) <| .refl _
  · extract_lets +onlyGivenNames u1
    split
    · exact .mono (by rfl) <| vecFail_only ..
    · exact .mono (by rfl) <| (updCmd_only ..).trans <| updVec_onlyFields ..

theorem vecSt_only (core : Nat) (a : VArgs) (s : State) :
    Only [.dict, .tel, .cores, .queues, .jobs, .parts, .bufs, .tiered, .sync, .miss, .rel, .hbm,
      .hostOut] s (vecSt core a s) := by
  unfold vecSt
  exact .mono (by rfl) <| vecStore_only ..

theorem vecSt8_only (core : Nat) (a : VArgs) (s : State) :
    Only [.dict, .tel, .cores, .queues, .jobs, .parts, .bufs, .tiered, .sync, .miss, .rel, .hbm,
      .hostOut] s (vecSt8 core a s) := by
  unfold vecSt8
  exact .mono (by rfl) <| vecStore_only ..

theorem vecRed_only (core : Nat) (a : VArgs) (s : State) :
    Only [.dict, .tel, .cores, .queues, .jobs, .parts, .bufs, .tiered, .sync, .miss, .rel, .hbm,
      .hostOut] s (vecRed core a s) := by
  unfold vecRed
  extract_lets +onlyGivenNames u1 t2 e03 m4 n5
  split
  · exact .mono (by rfl) <| vecFail_only ..
  · split
    · exact .mono (by rfl) <| vecFail_only ..
    · split
      · exact .mono (by rfl) <| vecFail_only ..
      · split
        · exact .mono (by rfl) <| vecFail_only ..
        · exact .mono (by rfl) <| .ite (vecFail_only ..) (updVec_onlyFields ..)

theorem vecComb_only (core : Nat) (a : VArgs) (s : State) :
    Only [.dict, .tel, .cores, .queues, .jobs, .parts, .bufs, .tiered, .sync, .miss, .rel, .hbm,
      .hostOut] s (vecComb core a s) := by
  unfold vecComb
  extract_lets +onlyGivenNames u1
  split
  · exact .mono (by rfl) <| vecFail_only ..
  · split
    · exact .mono (by rfl) <| .ite (vecFail_only ..) (.ite (vecFail_only ..) (updVec_onlyFields ..))
    · exact .mono (by rfl) <| vecFail_only ..

theorem vecPass_only (core : Nat) (a : VArgs) (s : State) :
    Only [.dict, .tel, .cores, .queues, .jobs, .parts, .bufs, .tiered, .sync, .miss, .rel, .hbm,
      .hostOut] s (vecPass core a s) := by
  unfold vecPass
  extract_lets +onlyGivenNames u1
  split
  · exact .mono (by rfl) <| vecFail_only ..
  · split
    · exact .mono (by rfl) <| vecFail_only ..
    · exact .mono (by rfl) <| .ite (vecFail_only ..) (.ite (vecFail_only ..) (updVec_onlyFields ..))

theorem vecTag_only (core : Nat) (a : VArgs) (s : State) :
    Only [.dict, .tel, .cores, .queues, .jobs, .parts, .bufs, .tiered, .sync, .miss, .rel, .hbm,
      .hostOut] s (vecTag core a s) := by
  unfold vecTag
  exact .mono (by rfl) <| .ite (vecFail_only ..) (.ite (vecFail_only ..) (updVec_onlyFields ..))

theorem sentLanes_only (s : State) (d : RedDecl) (l : List W32) : Only [.fresh] s (sentLanes s d l).1 := by
  unfold sentLanes
  split
  · exact .mono (by rfl) <| drawn_only ..
  · exact .mono (by rfl) <| .refl _

theorem vecSend_only (core : Nat) (a : VArgs) (s : State) :
    Only [.fresh, .dict, .tel, .cores, .queues, .jobs, .parts, .bufs, .tiered, .sync, .reds, .miss, .rel, .hbm,
      .hostOut] s (vecSend core a s) := by
  unfold vecSend
  extract_lets +onlyGivenNames u1 n2
  split
  · exact .mono (by rfl) <| vecFail_only ..
  · split
    · exact .mono (by rfl) <| vecFail_only ..
    · split
      · exact .mono (by rfl) <| vecFail_only ..
      · split
        · extract_lets +onlyGivenNames lanes3 live4
          split
          next heq =>
            have h7 : Only [.fresh] s _ := (Only.of_fst (sentLanes_only ..) heq).mono (by rfl)
            extract_lets +onlyGivenNames tag8
            split
            next heq =>
              have h9 : Only [.fresh, .jobs, .reds] s _ := (Only.of_fst (h7.trans <| partialAt_only ..) heq).mono (by rfl)
              exact .mono (by rfl) <| .ite (h9.trans <| vecFail_only ..) (h9.trans <| (updCmd_only ..).trans <| updVec_onlyFields ..)
        · exact .mono (by rfl) <| vecFail_only ..

theorem vecRecv_only (core : Nat) (a : VArgs) (s : State) :
    Only [.fresh, .dict, .tel, .cores, .queues, .jobs, .parts, .bufs, .tiered, .sync, .miss, .rel, .hbm,
      .hostOut] s (vecRecv core a s) := by
  unfold vecRecv
  extract_lets +onlyGivenNames red1
  split
  · exact .mono (by rfl) <| vecFail_only ..
  · split
    · exact .mono (by rfl) <| .refl _
    · exact .mono (by rfl) <| .trans (.ite (drawn_only ..) (.refl _)) <| updVec_onlyFields ..

theorem vecRng_only (core : Nat) (a : VArgs) (s : State) :
    Only [.dict, .tel, .cores, .queues, .jobs, .parts, .bufs, .tiered, .sync, .miss, .rel, .hbm,
      .hostOut] s (vecRng core a s) := by
  unfold vecRng
  extract_lets +onlyGivenNames u1 e02 key3
  split
  · exact .mono (by rfl) <| vecFail_only ..
  · split
    · exact .mono (by rfl) <| vecFail_only ..
    · split
      · exact .mono (by rfl) <| .refl _
      · exact .mono (by rfl) <| updVec_onlyFields ..

theorem vecIssue_only (op core : Nat) (a : VArgs) (s : State) :
    Only [.fresh, .dict, .tel, .cores, .queues, .jobs, .parts, .bufs, .tiered, .sync, .reds, .miss, .rel, .hbm,
      .hostOut] s (vecIssue op core a s) := by
  unfold vecIssue
  split
  · exact .mono (by rfl) <| vecLane2_only ..
  · exact .mono (by rfl) <| vecLane2_only ..
  · exact .mono (by rfl) <| vecLane2_only ..
  · exact .mono (by rfl) <| vecLane3_only ..
  · exact .mono (by rfl) <| vecLane2_only ..
  · exact .mono (by rfl) <| vecLane2_only ..
  · exact .mono (by rfl) <| vecLane1_only ..
  · exact .mono (by rfl) <| vecLane1_only ..
  · exact .mono (by rfl) <| vecLane2_only ..
  · exact .mono (by rfl) <| vecLane1_only ..
  · exact .mono (by rfl) <| vecLane1_only ..
  · exact .mono (by rfl) <| vecLane1_only ..
  · exact .mono (by rfl) <| vecLane1_only ..
  · exact .mono (by rfl) <| vecLane1_only ..
  · exact .mono (by rfl) <| vecLane1_only ..
  · exact .mono (by rfl) <| vecLane1_only ..
  · exact .mono (by rfl) <| vecLane1_only ..
  · exact .mono (by rfl) <| vecLane1_only ..
  · exact .mono (by rfl) <| vecLane1_only ..
  · exact .mono (by rfl) <| vecCmp_only ..
  · exact .mono (by rfl) <| vecSel_only ..
  · exact .mono (by rfl) <| vecMov_only ..
  · exact .mono (by rfl) <| vecBcast_only ..
  · exact .mono (by rfl) <| vecLaneIdx_only ..
  · exact .mono (by rfl) <| vecLoad_only ..
  · exact .mono (by rfl) <| vecSt_only ..
  · exact .mono (by rfl) <| vecLoad_only ..
  · exact .mono (by rfl) <| vecSt8_only ..
  · exact .mono (by rfl) <| vecRed_only ..
  · exact .mono (by rfl) <| vecComb_only ..
  · exact .mono (by rfl) <| vecPass_only ..
  · exact .mono (by rfl) <| vecTag_only ..
  · exact .mono (by rfl) <| vecSend_only ..
  · exact .mono (by rfl) <| vecRecv_only ..
  · exact .mono (by rfl) <| vecRng_only ..
  · exact .mono (by rfl) <| vecDrop_only ..
  · exact .mono (by rfl) <| vecLane1_only ..
  · exact .mono (by rfl) <| vecScalar_only ..
  · exact .mono (by rfl) <| vecScalar_only ..
  · exact .mono (by rfl) <| vecScalar_only ..
  · exact .mono (by rfl) <| vecLoop_only ..
  · exact .mono (by rfl) <| vecEnd_only ..
  · exact .mono (by rfl) <| vecFail_only ..

theorem vecRun_only (fuel core : Nat) (s : State) :
    Only [.fresh, .dict, .tel, .cores, .queues, .jobs, .parts, .bufs, .tiered, .sync, .reds, .miss, .rel, .hbm,
      .hostOut] s (vecRun fuel core s) := by
  induction fuel generalizing s with
  | zero => exact .mono (by rfl) <| .refl _
  | succ n ih =>
    unfold vecRun
    split
    · exact .mono (by rfl) <| .refl _
    · extract_lets +onlyGivenNames u1 w2 s3
      have h3 : Only [.fresh, .dict, .tel, .cores, .queues, .jobs, .parts, .bufs, .tiered, .sync, .reds, .miss, .rel, .hbm,
        .hostOut] s s3 := .mono (by rfl) <| vecIssue_only ..
      exact .mono (by rfl) <| .ite (.refl _) (.ite h3 (h3.trans <| ih ..))

theorem runVector_only (s : State) (q : Nat) :
    Only [.fresh, .dict, .tel, .cores, .queues, .jobs, .parts, .bufs, .tiered, .sync, .reds, .miss, .rel, .hbm,
      .hostOut] s (runVector s q) := by
  unfold runVector
  split
  · exact .mono (by rfl) <| .refl _
  · split
    · exact .mono (by rfl) <| .refl _
    · split
      · exact .mono (by rfl) <| (updVec_onlyFields ..).trans <| vecRun_only ..
      · exact .mono (by rfl) <| .ite (vecRun_only ..) (.refl _)

theorem execVadd_only (core : Nat) (a : VArgs) (s : State) : Answers [.cores] s (execVadd core a s) := by
  unfold execVadd
  exact Only.answers (.mono (by rfl) <| vecLane2_only ..)

theorem execVsub_only (core : Nat) (a : VArgs) (s : State) : Answers [.cores] s (execVsub core a s) := by
  unfold execVsub
  exact Only.answers (.mono (by rfl) <| vecLane2_only ..)

theorem execVmul_only (core : Nat) (a : VArgs) (s : State) : Answers [.cores] s (execVmul core a s) := by
  unfold execVmul
  exact Only.answers (.mono (by rfl) <| vecLane2_only ..)

theorem execVfma_only (core : Nat) (a : VArgs) (s : State) : Answers [.cores] s (execVfma core a s) := by
  unfold execVfma
  exact Only.answers (.mono (by rfl) <| vecLane3_only ..)

theorem execVmax_only (core : Nat) (a : VArgs) (s : State) : Answers [.cores] s (execVmax core a s) := by
  unfold execVmax
  exact Only.answers (.mono (by rfl) <| vecLane2_only ..)

theorem execVmin_only (core : Nat) (a : VArgs) (s : State) : Answers [.cores] s (execVmin core a s) := by
  unfold execVmin
  exact Only.answers (.mono (by rfl) <| vecLane2_only ..)

theorem execVabs_only (core : Nat) (a : VArgs) (s : State) : Answers [.cores] s (execVabs core a s) := by
  unfold execVabs
  exact Only.answers (.mono (by rfl) <| vecLane1_only ..)

theorem execVneg_only (core : Nat) (a : VArgs) (s : State) : Answers [.cores] s (execVneg core a s) := by
  unfold execVneg
  exact Only.answers (.mono (by rfl) <| vecLane1_only ..)

theorem execVdiv_only (core : Nat) (a : VArgs) (s : State) : Answers [.cores] s (execVdiv core a s) := by
  unfold execVdiv
  exact Only.answers (.mono (by rfl) <| vecLane2_only ..)

theorem execVsqrt_only (core : Nat) (a : VArgs) (s : State) : Answers [.cores] s (execVsqrt core a s) := by
  unfold execVsqrt
  exact Only.answers (.mono (by rfl) <| vecLane1_only ..)

theorem execVrsqrt_only (core : Nat) (a : VArgs) (s : State) : Answers [.cores] s (execVrsqrt core a s) := by
  unfold execVrsqrt
  exact Only.answers (.mono (by rfl) <| vecLane1_only ..)

theorem execVrcp_only (core : Nat) (a : VArgs) (s : State) : Answers [.cores] s (execVrcp core a s) := by
  unfold execVrcp
  exact Only.answers (.mono (by rfl) <| vecLane1_only ..)

theorem execVexp_only (core : Nat) (a : VArgs) (s : State) : Answers [.cores] s (execVexp core a s) := by
  unfold execVexp
  exact Only.answers (.mono (by rfl) <| vecLane1_only ..)

theorem execVexp2_only (core : Nat) (a : VArgs) (s : State) : Answers [.cores] s (execVexp2 core a s) := by
  unfold execVexp2
  exact Only.answers (.mono (by rfl) <| vecLane1_only ..)

theorem execVln_only (core : Nat) (a : VArgs) (s : State) : Answers [.cores] s (execVln core a s) := by
  unfold execVln
  exact Only.answers (.mono (by rfl) <| vecLane1_only ..)

theorem execVlog2_only (core : Nat) (a : VArgs) (s : State) : Answers [.cores] s (execVlog2 core a s) := by
  unfold execVlog2
  exact Only.answers (.mono (by rfl) <| vecLane1_only ..)

theorem execVtanh_only (core : Nat) (a : VArgs) (s : State) : Answers [.cores] s (execVtanh core a s) := by
  unfold execVtanh
  exact Only.answers (.mono (by rfl) <| vecLane1_only ..)

theorem execVerf_only (core : Nat) (a : VArgs) (s : State) : Answers [.cores] s (execVerf core a s) := by
  unfold execVerf
  exact Only.answers (.mono (by rfl) <| vecLane1_only ..)

theorem execVsig_only (core : Nat) (a : VArgs) (s : State) : Answers [.cores] s (execVsig core a s) := by
  unfold execVsig
  exact Only.answers (.mono (by rfl) <| vecLane1_only ..)

theorem execVcmp_only (core : Nat) (a : VArgs) (s : State) :
    Answers [.dict, .tel, .cores, .queues, .jobs, .parts, .bufs, .tiered, .sync, .miss, .rel, .hbm,
      .hostOut] s (execVcmp core a s) := by
  unfold execVcmp
  exact Only.answers (.mono (by rfl) <| vecCmp_only ..)

theorem execVsel_only (core : Nat) (a : VArgs) (s : State) : Answers [.cores] s (execVsel core a s) := by
  unfold execVsel
  exact Only.answers (.mono (by rfl) <| vecSel_only ..)

theorem execVmov_only (core : Nat) (a : VArgs) (s : State) : Answers [.cores] s (execVmov core a s) := by
  unfold execVmov
  exact Only.answers (.mono (by rfl) <| vecMov_only ..)

theorem execVbcast_only (core : Nat) (a : VArgs) (s : State) : Answers [.cores] s (execVbcast core a s) := by
  unfold execVbcast
  exact Only.answers (.mono (by rfl) <| vecBcast_only ..)

theorem execVlane_only (core : Nat) (a : VArgs) (s : State) : Answers [.cores] s (execVlane core a s) := by
  unfold execVlane
  exact Only.answers (.mono (by rfl) <| vecLaneIdx_only ..)

theorem execVred_only (core : Nat) (a : VArgs) (s : State) :
    Answers [.dict, .tel, .cores, .queues, .jobs, .parts, .bufs, .tiered, .sync, .miss, .rel, .hbm,
      .hostOut] s (execVred core a s) := by
  unfold execVred
  exact Only.answers (.mono (by rfl) <| vecRed_only ..)

theorem execVcomb_only (core : Nat) (a : VArgs) (s : State) :
    Answers [.dict, .tel, .cores, .queues, .jobs, .parts, .bufs, .tiered, .sync, .miss, .rel, .hbm,
      .hostOut] s (execVcomb core a s) := by
  unfold execVcomb
  exact Only.answers (.mono (by rfl) <| vecComb_only ..)

theorem execVpass_only (core : Nat) (a : VArgs) (s : State) :
    Answers [.dict, .tel, .cores, .queues, .jobs, .parts, .bufs, .tiered, .sync, .miss, .rel, .hbm,
      .hostOut] s (execVpass core a s) := by
  unfold execVpass
  exact Only.answers (.mono (by rfl) <| vecPass_only ..)

theorem execVtag_only (core : Nat) (a : VArgs) (s : State) :
    Answers [.dict, .tel, .cores, .queues, .jobs, .parts, .bufs, .tiered, .sync, .miss, .rel, .hbm,
      .hostOut] s (execVtag core a s) := by
  unfold execVtag
  exact Only.answers (.mono (by rfl) <| vecTag_only ..)

theorem execVsend_only (core : Nat) (a : VArgs) (s : State) :
    Answers [.fresh, .dict, .tel, .cores, .queues, .jobs, .parts, .bufs, .tiered, .sync, .reds, .miss, .rel, .hbm,
      .hostOut] s (execVsend core a s) := by
  unfold execVsend
  exact Only.answers (.mono (by rfl) <| vecSend_only ..)

theorem execVrecv_only (core : Nat) (a : VArgs) (s : State) :
    Answers [.fresh, .dict, .tel, .cores, .queues, .jobs, .parts, .bufs, .tiered, .sync, .miss, .rel, .hbm,
      .hostOut] s (execVrecv core a s) := by
  unfold execVrecv
  exact Only.answers (.mono (by rfl) <| vecRecv_only ..)

theorem execVrng_only (core : Nat) (a : VArgs) (s : State) :
    Answers [.dict, .tel, .cores, .queues, .jobs, .parts, .bufs, .tiered, .sync, .miss, .rel, .hbm,
      .hostOut] s (execVrng core a s) := by
  unfold execVrng
  exact Only.answers (.mono (by rfl) <| vecRng_only ..)

theorem execVdrop_only (core : Nat) (a : VArgs) (s : State) : Answers [.cores] s (execVdrop core a s) := by
  unfold execVdrop
  exact Only.answers (.mono (by rfl) <| vecDrop_only ..)

theorem execVuni_only (core : Nat) (a : VArgs) (s : State) : Answers [.cores] s (execVuni core a s) := by
  unfold execVuni
  exact Only.answers (.mono (by rfl) <| vecLane1_only ..)

theorem execSli_only (core : Nat) (a : VArgs) (s : State) : Answers [.cores] s (execSli core a s) := by
  unfold execSli
  exact Only.answers (.mono (by rfl) <| vecScalar_only ..)

theorem execSlih_only (core : Nat) (a : VArgs) (s : State) : Answers [.cores] s (execSlih core a s) := by
  unfold execSlih
  exact Only.answers (.mono (by rfl) <| vecScalar_only ..)

theorem execSadd_only (core : Nat) (a : VArgs) (s : State) : Answers [.cores] s (execSadd core a s) := by
  unfold execSadd
  exact Only.answers (.mono (by rfl) <| vecScalar_only ..)

theorem execLoop_only (core : Nat) (a : VArgs) (s : State) :
    Answers [.dict, .tel, .cores, .queues, .jobs, .parts, .bufs, .tiered, .sync, .miss, .rel, .hbm,
      .hostOut] s (execLoop core a s) := by
  unfold execLoop
  exact Only.answers (.mono (by rfl) <| vecLoop_only ..)

theorem execEndProgram_only (core : Nat) (_a : VArgs) (s : State) : Answers [.cores, .queues] s (execEndProgram core _a s) := by
  unfold execEndProgram
  exact Only.answers (.mono (by rfl) <| vecEnd_only ..)

/-! ## The queue front end -/

theorem noteWaiting_only (s : State) (q : Nat) : Only [.queues] s (noteWaiting s q) := by
  unfold noteWaiting
  split
  · exact .mono (by rfl) <| .refl _
  · exact .mono (by rfl) <| .ite (updQueue_only ..) (.refl _)

theorem enqueue_only (s : State) (q : Nat) (c : Cmd) : Only [.uid, .dict, .clusters, .cores, .queues] s (enqueue s q c) := by
  unfold enqueue
  extract_lets +onlyGivenNames src1 s3
  have h3 : Only [.queues, .uid] s s3 := .mono (by rfl) <| (updQueue_only ..).trans <| setUid_only _ _
  exact .mono (by rfl) <| .trans (.ite (h3.trans <| requestWake_only ..) h3) <| noteWaiting_only ..

theorem ringFetch_only (s : State) (q : Nat) (records : List Byte) :
    Only [.uid, .dict, .tel, .pins, .clusters, .cores, .queues, .jobs, .parts, .bufs, .tiered, .sync, .miss, .rel, .hbm,
      .hostOut] s (ringFetch s q records) := by
  unfold ringFetch
  split
  · exact .mono (by rfl) <| .refl _
  · extract_lets +onlyGivenNames records1 n2 r3
    split
    · exact .mono (by rfl) <| .refl _
    · extract_lets +onlyGivenNames s4 st5 c6 s7
      have h4 : Only [.dict, .tel, .pins, .hostOut] s s4 := .mono (by rfl) <| .ite (.refl _) (journal_only ..)
      have h7 : Only [.dict, .tel, .pins, .hostOut, .queues] s s7 := .mono (by rfl) <| h4.trans <| updQueue_only ..
      exact .mono (by rfl) <| .ite (h7.trans <| (updQueue_only ..).trans <| (setUid_only _ _).trans <| fail_only ..) (h7.trans <|
        enqueue_only ..)

theorem ringFetchInput_only (s : State) (q : Nat) (records : List Byte) :
    Only [.uid, .dict, .tel, .pins, .clusters, .cores, .queues, .jobs, .parts, .bufs, .tiered, .sync, .miss, .rel, .hbm,
      .hostOut] s (ringFetchInput s q records) := by
  unfold ringFetchInput
  split
  · exact .mono (by rfl) <| .refl _
  · split
    · exact .mono (by rfl) <| ringFetch_only ..
    · split
      · exact .mono (by rfl) <| ringFetch_only ..
      · split
        next heq =>
          have h1 : Only [.dict, .jobs] s _ := (Only.of_fst (replayInput_only ..) heq).mono (by rfl)
          exact .mono (by rfl) <| h1.trans <| ringFetch_only ..
        next heq =>
          have h1 : Only [.dict, .jobs] s _ := (Only.of_fst (replayInput_only ..) heq).mono (by rfl)
          exact .mono (by rfl) <| h1.trans <| holdInput_only ..

theorem beginCmd_only (s : State) (q : Nat) (Q : Queue) (c : Cmd) :
    Only [.dict, .tel, .clusters, .cores, .queues, .jobs, .miss, .hostOut] s (beginCmd s q Q c) := by
  unfold beginCmd
  extract_lets +onlyGivenNames s1 vers2 uses3 writes4 views5 ctxs6 c'7 s8 s9 opens10 s11 s12 s13
  have h1 : Only [.dict, .tel, .miss, .hostOut] s s1 := .mono (by rfl) <| endStall_only ..
  have h8 : Only [.dict, .tel, .miss, .hostOut, .queues] s s8 := .mono (by rfl) <| h1.trans <| updCmd_only ..
  have h9 : Only [.dict, .tel, .miss, .hostOut, .queues, .cores] s s9 := .mono (by rfl) <| .ite (h8.trans <| updCore_only ..) h8
  have h11 : Only [.dict, .tel, .miss, .hostOut, .queues, .cores] s s11 := .mono (by rfl) <| h9.trans <| updQueue_only ..
  have h12 : Only [.dict, .tel, .miss, .hostOut, .queues, .cores, .clusters] s s12 := .mono (by rfl) <| .ite (h11.trans <|
    useCluster_only ..) h11
  have h13 : Only [.dict, .tel, .miss, .hostOut, .queues, .cores, .clusters] s s13 := .mono (by rfl) <| h12.trans <| trace_only ..
  split
  · exact .mono (by rfl) <| h13
  · exact .mono (by rfl) <| h13.trans <| openRequests_only ..

theorem failStart_only (s : State) (q : Nat) (c : Cmd) (st : Status) :
    Only [.dict, .tel, .cores, .queues, .jobs, .parts, .bufs, .tiered, .sync, .miss, .rel, .hbm,
      .hostOut] s (failStart s q c st) := by
  unfold failStart
  split
  · extract_lets +onlyGivenNames s1
    have h1 : Only [.queues, .cores] s s1 := .mono (by rfl) <| (updCmd_only ..).trans <| finish_only ..
    exact .mono (by rfl) <| .ite (h1.trans <| offence_only ..) h1
  · exact .mono (by rfl) <| fail_only ..

theorem commandStart_only (s : State) (q : Nat) :
    Only [.dict, .tel, .clusters, .cores, .queues, .jobs, .parts, .bufs, .tiered, .sync, .miss, .rel, .hbm,
      .hostOut] s (commandStart s q) := by
  unfold commandStart
  split
  · exact .mono (by rfl) <| .refl _
  · extract_lets +onlyGivenNames c1
    split
    · exact .mono (by rfl) <| noteWaiting_only ..
    · split
      · exact .mono (by rfl) <| .refl _
      · split
        · exact .mono (by rfl) <| fail_only ..
        · extract_lets +onlyGivenNames st2
          split
          · exact .mono (by rfl) <| failStart_only ..
          · split
            · exact .mono (by rfl) <| updCmd_only ..
            · exact .mono (by rfl) <| beginCmd_only ..

theorem commandCommit_only (s : State) (q : Nat) :
    Only [.dict, .tel, .cores, .queues, .jobs, .parts, .bufs, .tiered, .win, .rel, .hbm, .hostOut] s (commandCommit s q) := by
  unfold commandCommit
  split
  · exact .mono (by rfl) <| .refl _
  · split
    · exact .mono (by rfl) <| .refl _
    · split
      · exact .mono (by rfl) <| .ite (.refl _) (commitOne_only ..)
      · exact .mono (by rfl) <| .refl _

theorem runNop_only (s : State) (q : Nat) :
    Only [.dict, .tel, .cores, .queues, .jobs, .parts, .bufs, .tiered, .win, .rel, .hbm, .hostOut] s (runNop s q) := by
  unfold runNop
  split
  · exact .mono (by rfl) <| commitOne_only ..
  · split
    · exact .mono (by rfl) <| .refl _
    · split
      · exact .mono (by rfl) <| .refl _
      · exact .mono (by rfl) <| finish_only ..

theorem runYield_only (s : State) (q : Nat) :
    Only [.dict, .tel, .cores, .queues, .jobs, .parts, .bufs, .tiered, .win, .rel, .hbm, .hostOut] s (runYield s q) := by
  unfold runYield
  split
  · exact .mono (by rfl) <| .refl _
  · exact .mono (by rfl) <| (commitOne_only ..).trans <| holdQueue_only ..

theorem placeBuf_only (s : State) (part index align : Nat) (b : Buf) :
    Only [.fresh, .bufs, .index, .tiered] s (placeBuf s part index align b) := by
  unfold placeBuf
  extract_lets +onlyGivenNames key1 s2
  have h2 : Only [.fresh, .bufs, .index] s s2 := .mono (by rfl) <| setFreshBufsIndex_only _ _ _ _
  exact .mono (by rfl) <| .ite (h2.trans <| setTiered_only _ _) h2

theorem runAlloc_only (s : State) (q : Nat) :
    Only [.fresh, .dict, .tel, .cores, .queues, .jobs, .parts, .bufs, .index, .tiered, .sync, .win, .miss, .rel, .hbm,
      .hostOut] s (runAlloc s q) := by
  unfold runAlloc
  split
  · exact .mono (by rfl) <| .refl _
  · exact .mono (by rfl) <| .ite (fail_only ..) (.ite (fail_only ..) ((placeBuf_only ..).trans <| (charge_only ..).trans <|
      commitOne_only ..))

theorem runFree_only (s : State) (q : Nat) :
    Only [.dict, .tel, .cores, .queues, .jobs, .parts, .bufs, .index, .tiered, .sync, .mbx, .win, .miss, .rel, .hbm,
      .hostOut] s (runFree s q) := by
  unfold runFree
  split
  · exact .mono (by rfl) <| .refl _
  · extract_lets +onlyGivenNames h1 st2
    split
    · exact .mono (by rfl) <| fail_only ..
    · split
      · extract_lets +onlyGivenNames s3
        have h3 : Only [.dict, .tel, .cores, .queues, .jobs, .parts, .bufs, .tiered, .win, .rel, .hbm,
          .hostOut] s s3 := .mono (by rfl) <| commitOne_only ..
        exact .mono (by rfl) <| .ite (h3.trans <| offence_only ..) h3
      · exact .mono (by rfl) <| (freeBuf_only ..).trans <| commitOne_only ..

theorem streamCmds_only (s : State) (q : Nat) (st : Stream) (run : Cmd) :
    Only [.uid, .dict, .clusters, .cores, .queues] s (streamCmds s q st run) := by
  unfold streamCmds
  exact .mono (by rfl) <| .foldl (fun _ _ => enqueue_only ..) _ _

theorem runRun_only (s : State) (q : Nat) :
    Only [.uid, .dict, .tel, .pins, .clusters, .cores, .queues, .jobs, .parts, .bufs, .tiered, .sync, .miss, .rel, .hbm,
      .hostOut] s (runRun s q) := by
  unfold runRun
  split
  · exact .mono (by rfl) <| .refl _
  · split
    · exact .mono (by rfl) <| .refl _
    · extract_lets +onlyGivenNames st1
      split
      · exact .mono (by rfl) <| fail_only ..
      · split
        · exact .mono (by rfl) <| .refl _
        · exact .mono (by rfl) <| .trans (.ite (journalLaunch_only ..) (.refl _)) <| (updJob_only ..).trans <|
            (updQueue_only ..).trans <| (streamCmds_only ..).trans <| commitRun_only ..

theorem dueLaunch_only (s : State) (q : Nat) :
    Only [.now, .dict, .tel, .cores, .queues, .jobs, .parts, .bufs, .tiered, .win, .rel, .hbm, .hostOut] s (dueLaunch s q) := by
  unfold dueLaunch
  exact .mono (by rfl) <| .ite (launchBeat_only ..) (.refl _)

theorem settleRound_only (s : State) :
    Only [.now, .dict, .tel, .cores, .queues, .jobs, .parts, .bufs, .tiered, .win, .rel, .hbm, .hostOut] s (settleRound s) := by
  unfold settleRound
  exact .mono (by rfl) <| .foldl (fun _ _ => (dueLaunch_only ..).trans <| commandCommit_only ..) _ _

theorem settleFor_only (n : Nat) (s : State) :
    Only [.now, .dict, .tel, .cores, .queues, .jobs, .parts, .bufs, .tiered, .win, .rel, .hbm, .hostOut] s (settleFor n s) := by
  induction n generalizing s with
  | zero => exact .mono (by rfl) <| .refl _
  | succ n ih =>
    unfold settleFor
    exact .mono (by rfl) <| (settleRound_only ..).trans <| ih ..

theorem settle_only (s : State) :
    Only [.now, .dict, .tel, .cores, .queues, .jobs, .parts, .bufs, .tiered, .win, .rel, .hbm, .hostOut] s (settle s) := by
  unfold settle
  exact .mono (by rfl) <| .ite (.refl _) (settleFor_only ..)

theorem execRingCommandFetch_only (q : Nat) (records : List Byte) (s : State) :
    Answers [.uid, .dict, .tel, .pins, .clusters, .cores, .queues, .jobs, .parts, .bufs, .tiered, .sync, .miss, .rel, .hbm,
      .hostOut] s (execRingCommandFetch q records s) := by
  unfold execRingCommandFetch
  exact Only.answers (.mono (by rfl) <| ringFetchInput_only ..)

theorem execCommandStart_only (q : Nat) (s : State) :
    Answers [.dict, .tel, .clusters, .cores, .queues, .jobs, .parts, .bufs, .tiered, .sync, .miss, .rel, .hbm,
      .hostOut] s (execCommandStart q s) := by
  unfold execCommandStart
  exact Only.answers (.mono (by rfl) <| commandStart_only ..)

theorem execCommandCommit_only (q : Nat) (s : State) :
    Answers [.dict, .tel, .cores, .queues, .jobs, .parts, .bufs, .tiered, .win, .rel, .hbm,
      .hostOut] s (execCommandCommit q s) := by
  unfold execCommandCommit
  exact Only.answers (.mono (by rfl) <| commandCommit_only ..)

theorem execNop_only (q : Nat) (s : State) :
    Answers [.dict, .tel, .cores, .queues, .jobs, .parts, .bufs, .tiered, .win, .rel, .hbm, .hostOut] s (execNop q s) := by
  unfold execNop
  exact Only.answers (.mono (by rfl) <| runNop_only ..)

theorem execYield_only (q : Nat) (s : State) :
    Answers [.dict, .tel, .cores, .queues, .jobs, .parts, .bufs, .tiered, .win, .rel, .hbm, .hostOut] s (execYield q s) := by
  unfold execYield
  exact Only.answers (.mono (by rfl) <| runYield_only ..)

theorem execAlloc_only (q : Nat) (s : State) :
    Answers [.fresh, .dict, .tel, .cores, .queues, .jobs, .parts, .bufs, .index, .tiered, .sync, .win, .miss, .rel, .hbm,
      .hostOut] s (execAlloc q s) := by
  unfold execAlloc
  exact Only.answers (.mono (by rfl) <| runAlloc_only ..)

theorem execFree_only (q : Nat) (s : State) :
    Answers [.dict, .tel, .cores, .queues, .jobs, .parts, .bufs, .index, .tiered, .sync, .mbx, .win, .miss, .rel, .hbm,
      .hostOut] s (execFree q s) := by
  unfold execFree
  exact Only.answers (.mono (by rfl) <| runFree_only ..)

theorem execRun_only (q : Nat) (s : State) :
    Answers [.uid, .dict, .tel, .pins, .clusters, .cores, .queues, .jobs, .parts, .bufs, .tiered, .sync, .miss, .rel, .hbm,
      .hostOut] s (execRun q s) := by
  unfold execRun
  exact Only.answers (.mono (by rfl) <| runRun_only ..)

/-! ## Mailboxes -/

theorem pageWrite_only (s : State) (fn : Nat) (page : W64) (vector : BitVec 6) :
    Only [.mbx] s (pageWrite s fn page vector) := by
  unfold pageWrite
  exact .mono (by rfl) <| .ite (.refl _) (updMbox_only ..)

theorem answer_only (s : State) (fn : Nat) (m : MboxMsg) (st : Status) (result : Nat) :
    Only [.mbx] s (answer s fn m st result) := by
  unfold answer
  exact .mono (by rfl) <| .ite (respond_only ..) (respond_only ..)

theorem popMessage_only (s : State) (fn : Nat) (m : MboxMsg) : Only [.mbx] s (popMessage s fn m) := by
  unfold popMessage
  exact .mono (by rfl) <| updMbox_only ..

theorem refuseHeads_only (s : State) (fn fuel : Nat) : Only [.mbx] s (refuseHeads s fn fuel) := by
  induction fuel generalizing s with
  | zero => exact .mono (by rfl) <| .refl _
  | succ n ih =>
    unfold refuseHeads
    split
    · exact .mono (by rfl) <| .refl _
    · split
      · exact .mono (by rfl) <| .refl _
      · exact .mono (by rfl) <| (popMessage_only ..).trans <| (answer_only ..).trans <| ih ..

theorem onMessage_only {F : List StateField} {s : State} {fn cls op : Nat} {run : State → MboxMsg → State}
    (h : ∀ s m, Only F s (run s m)) : Only ([.mbx] ++ F) s (onMessage s fn cls op run) := by
  unfold onMessage
  split
  · exact .self _
  · split
    · exact ((popMessage_only ..).mono (by rfl)).around (h ..) ((refuseHeads_only ..).mono (by rfl))
    · exact .self _

theorem postMessage_only (s : State) (fn w : Nat) (message : List Byte) :
    Only [.dict, .tel, .pins, .mbx, .hostOut] s (postMessage s fn w message) := by
  unfold postMessage
  exact .mono (by rfl) <| (journal_only ..).trans <| (updMbox_only ..).trans <| refuseHeads_only ..

theorem mailboxDoorbell_only (s : State) (fn : Nat) (word : W64) (wellSized : Bool) (message : List Byte) :
    Only [.dict, .tel, .pins, .jobs, .mbx, .hostOut] s (mailboxDoorbell s fn word wellSized message) := by
  unfold mailboxDoorbell
  extract_lets +onlyGivenNames m1 w2
  split
  · exact .mono (by rfl) <| .refl _
  · split
    · exact .mono (by rfl) <| updMbox_only ..
    · split
      · exact .mono (by rfl) <| postMessage_only ..
      · extract_lets +onlyGivenNames bytes3
        split
        next heq =>
          have h4 : Only [.dict, .jobs] s _ := (Only.of_fst (replayInput_only ..) heq).mono (by rfl)
          exact .mono (by rfl) <| h4.trans <| postMessage_only ..
        next heq =>
          have h4 : Only [.dict, .jobs] s _ := (Only.of_fst (replayInput_only ..) heq).mono (by rfl)
          exact .mono (by rfl) <| h4.trans <| holdInput_only ..

theorem writeResponse_only (s : State) (fn : Nat) (r : MboxResp) : Only [.tel, .mbx, .hostOut] s (writeResponse s fn r) := by
  unfold writeResponse
  exact .mono (by rfl) <| .trans (.foldl (fun _ _ => hostWrite_only ..) _ _) <| (hostWrite_only ..).trans <|
    (updMbox_only ..).trans <| msix_only ..

theorem writeResponses_only (s : State) (fn fuel : Nat) : Only [.tel, .mbx, .hostOut] s (writeResponses s fn fuel) := by
  induction fuel generalizing s with
  | zero => exact .mono (by rfl) <| .refl _
  | succ n ih =>
    unfold writeResponses
    extract_lets +onlyGivenNames m1
    split
    · exact .mono (by rfl) <| .refl _
    · exact .mono (by rfl) <| .ite ((writeResponse_only ..).trans <| ih ..) (.refl _)

theorem responseWrite_only (s : State) (fn : Nat) (read : BitVec 32) :
    Only [.tel, .mbx, .hostOut] s (responseWrite s fn read) := by
  unfold responseWrite
  exact .mono (by rfl) <| .ite (.refl _) ((updMbox_only ..).trans <| (writeResponses_only ..).trans <| refuseHeads_only ..)

theorem execMailboxDoorbell_only (fn : Nat) (word : W64) (wellSized : Bool) (message : List Byte) (s : State) :
    Answers [.now, .dict, .tel, .pins, .cores, .queues, .jobs, .parts, .bufs, .tiered, .mbx, .win, .rel, .hbm,
      .hostOut] s (execMailboxDoorbell fn word wellSized message s) := by
  unfold execMailboxDoorbell
  exact Only.answers (.mono (by rfl) <| (settle_only ..).trans <| mailboxDoorbell_only ..)

theorem execMbxPageWrite_only (fn : Nat) (page : W64) (vector : BitVec 6) (s : State) :
    Answers [.mbx] s (execMbxPageWrite fn page vector s) := by
  unfold execMbxPageWrite
  exact Only.answers (.mono (by rfl) <| pageWrite_only ..)

theorem execMailboxResponseWrite_only (fn : Nat) (respRead : BitVec 32) (s : State) :
    Answers [.tel, .mbx, .hostOut] s (execMailboxResponseWrite fn respRead s) := by
  unfold execMailboxResponseWrite
  exact Only.answers (.mono (by rfl) <| responseWrite_only ..)

/-! ## Public-key engines -/

theorem submitEngine_only (s : State) (hub : Hub) (op : EngineOp) (src : EngineSource) (use : EngineUse) :
    Only [.sec] s (submitEngine s hub op src use) := by
  unfold submitEngine
  exact .mono (by rfl) <| updEngine_only ..

theorem engineEnd_only (s : State) (hub : Hub) : Only [.now, .fresh, .dict, .sec] s (engineEnd s hub).1 := by
  unfold engineEnd
  split
  · dsimp only
    exact .mono (by rfl) <| .refl _
  · extract_lets +onlyGivenNames s1 o2 s3 s4 s5
    have h1 : Only [.now] s s1 := .mono (by rfl) <| setNow_only _ _
    have h3 : Only [.now, .fresh] s s3 := .mono (by rfl) <| .ite (h1.trans <| drawn_only ..) h1
    have h4 : Only [.now, .fresh, .dict] s s4 := .mono (by rfl) <| h3.trans <| bump_only ..
    have h5 : Only [.now, .fresh, .dict] s s5 := .mono (by rfl) <| .ite (h4.trans <| bump_only ..) h4
    dsimp only
    exact .mono (by rfl) <| h5.trans <| updEngine_only ..

theorem execKeygen_only (hub : Hub) (src : EngineSource) (s : State) : Answers [.sec] s (execKeygen hub src s) := by
  unfold execKeygen
  exact Only.answers (.mono (by rfl) <| submitEngine_only ..)

theorem execSign_only (hub : Hub) (src : EngineSource) (d : Nat) (h : List Byte) (s : State) :
    Answers [.sec] s (execSign hub src d h s) := by
  unfold execSign
  exact Only.answers (.mono (by rfl) <| submitEngine_only ..)

theorem execVerify_only (hub : Hub) (src : EngineSource) (key : PubKey) (h : List Byte) (r sg : Nat) (s : State) :
    Answers [.sec] s (execVerify hub src key h r sg s) := by
  unfold execVerify
  exact Only.answers (.mono (by rfl) <| submitEngine_only ..)

theorem execEcdh_only (hub : Hub) (src : EngineSource) (d : Nat) (key : PubKey) (s : State) :
    Answers [.sec] s (execEcdh hub src d key s) := by
  unfold execEcdh
  exact Only.answers (.mono (by rfl) <| submitEngine_only ..)

theorem execValidate_only (hub : Hub) (src : EngineSource) (key : PubKey) (s : State) :
    Answers [.sec] s (execValidate hub src key s) := by
  unfold execValidate
  exact Only.answers (.mono (by rfl) <| submitEngine_only ..)

/-! ## Cores and jobs -/

theorem endEpisode_only (s : State) (q : Nat) : Only [.dict, .queues] s (endEpisode s q) := by
  unfold endEpisode
  split
  · exact .mono (by rfl) <| .refl _
  · split
    · exact .mono (by rfl) <| .refl _
    · exact .mono (by rfl) <| (updQueue_only ..).trans <| (bump_only ..).trans <| (raiseTo_only ..).trans <| bump_only ..

theorem loseBeats_only (s : State) (J : Job) (n : Nat) : Only [.dict, .queues] s (loseBeats s J n) := by
  unfold loseBeats
  exact .mono (by rfl) <| .trans (.foldl (fun _ _ => .ite (chargeLost_only ..) (.refl _)) _ _) <| bump_only ..

theorem grantCores_only (s : State) (j : Nat) : Only [.dict, .clusters, .cores, .queues, .jobs] s (grantCores s j) := by
  unfold grantCores
  split
  · exact .mono (by rfl) <| .refl _
  · exact .mono (by rfl) <| .ite (.refl _) (.trans (.foldl (fun _ _ => (updCore_only ..).trans <| requestWake_only ..) _ _) <|
      .trans (.foldl (fun _ _ => (endEpisode_only ..).trans <| updQueue_only ..) _ _) <| updJob_only ..)

theorem restoreDone_only (s : State) (j : Nat) : Only [.dict, .queues, .jobs, .bufs] s (restoreDone s j) := by
  unfold restoreDone
  split
  · exact .mono (by rfl) <| .refl _
  · exact .mono (by rfl) <| .ite (.refl _) ((loseBeats_only ..).trans <|
      .trans (.foldl (fun _ _ => .foldl (fun _ _ => setBufs_only _ _) _ _) _ _) <| updJob_only ..)

theorem yieldExpiry_only (s : State) (j : Nat) :
    Only [.now, .dict, .tel, .cores, .queues, .jobs, .parts, .bufs, .tiered, .sync, .reds, .win, .miss, .rel, .hbm,
      .hostOut] s (yieldExpiry s j) := by
  unfold yieldExpiry
  split
  · exact .mono (by rfl) <| .refl _
  · exact .mono (by rfl) <| .ite (.refl _) ((setNow_only _ _).trans <| .foldl (fun _ _ => .ite (.refl _) (killQueue_only ..)) _ _)

theorem preempt_only (s : State) (j : Nat) :
    Only [.now, .dict, .tel, .cores, .queues, .jobs, .parts, .bufs, .tiered, .sync, .reds, .win, .miss, .rel, .hbm,
      .hostOut] s (preempt s j) := by
  unfold preempt
  split
  · exact .mono (by rfl) <| .refl _
  · split
    · exact .mono (by rfl) <| .refl _
    · extract_lets +onlyGivenNames s1 s2 s3
      have h1 : Only [.jobs] s s1 := .mono (by rfl) <| updJob_only ..
      have h2 : Only [.jobs, .queues, .dict] s s2 := .mono (by rfl) <| h1.trans <|
        .trans (.foldl (fun _ _ => .ite (updQueue_only ..) (.refl _)) _ _) <| bump_only ..
      have h3 : Only [.jobs, .queues, .dict] s s3 := .mono (by rfl) <| h2.trans <|
        .foldl (fun _ _ => .ite (holdQueue_only ..) (.refl _)) _ _
      exact .mono (by rfl) <| .ite (h3.trans <| yieldExpiry_only ..) h3

theorem saveDone_only (s : State) (j : Nat) : Only [.dict, .clusters, .cores, .queues, .jobs] s (saveDone s j) := by
  unfold saveDone
  split
  · exact .mono (by rfl) <| .refl _
  · exact .mono (by rfl) <| .ite (.refl _) ((loseBeats_only ..).trans <| .trans (.foldl (fun _ _ => (updCore_only ..).trans <|
      useCluster_only ..) _ _) <| updJob_only ..)

theorem zeroStore_only (s : State) (core : Nat) (p : Buf → Bool) : Only [.cores, .bufs] s (zeroStore s core p) := by
  unfold zeroStore
  exact .mono (by rfl) <| (setBufs_only _ _).trans <| updCore_only ..

theorem zeroingDone_only (s : State) (core : Nat) : Only [.cores, .jobs, .bufs] s (zeroingDone s core) := by
  unfold zeroingDone
  extract_lets +onlyGivenNames k1
  split
  · exact .mono (by rfl) <| .refl _
  · extract_lets +onlyGivenNames s2 s3
    have h2 : Only [.cores, .bufs] s s2 := .mono (by rfl) <| zeroStore_only ..
    have h3 : Only [.cores, .bufs] s s3 := .mono (by rfl) <| h2.trans <| updCore_only ..
    split
    · exact .mono (by rfl) <| h3
    · split
      · exact .mono (by rfl) <| h3
      · exact .mono (by rfl) <| .ite (h3.trans <| updJob_only ..) h3

theorem dropCmd_only (s : State) (q : Nat) (c : Cmd) :
    Only [.dict, .tel, .cores, .sync, .reds, .win, .miss, .hostOut] s (dropCmd s q c) := by
  unfold dropCmd
  extract_lets +onlyGivenNames s1
  have h1 : Only [.dict, .tel, .cores, .sync, .reds, .win, .miss, .hostOut] s s1 := .mono (by rfl) <| giveUp_only ..
  exact .mono (by rfl) <| .ite h1 (h1.trans <| trace_only ..)

theorem resetQueue_only (s : State) (q : Nat) :
    Only [.dict, .tel, .cores, .queues, .jobs, .parts, .bufs, .tiered, .sync, .reds, .win, .miss, .rel, .hbm,
      .hostOut] s (resetQueue s q) := by
  unfold resetQueue
  split
  · exact .mono (by rfl) <| .refl _
  · exact .mono (by rfl) <| .trans (.foldl (fun _ _ => dropCmd_only ..) _ _) <| (updQueue_only ..).trans <|
      (abandonLocks_only ..).trans <| (updQueue_only ..).trans <| releaseHeld_only ..

theorem beginUnbind_only (s : State) (ctx : Nat) : Only [.ctxs, .mbx] s (beginUnbind s ctx) := by
  unfold beginUnbind
  split
  · exact .mono (by rfl) <| .refl _
  · extract_lets +onlyGivenNames s1
    have h1 : Only [.mbx] s s1 := by
      simp only [s1]
      split
      · exact .mono (by rfl) <| respond_only ..
      · exact .mono (by rfl) <| .refl _
    exact .mono (by rfl) <| h1.trans <| setCtxs_only _ _

theorem freeSync_only (s : State) (j : Nat) : Only [.dict, .sync] s (freeSync s j) := by
  unfold freeSync
  exact .mono (by rfl) <| (setSync_only _ _).trans <| .foldl (fun _ _ => dset_only ..) _ _

theorem endJob_only (s : State) (j : Nat) :
    Only [.dict, .tel, .cores, .queues, .jobs, .parts, .bufs, .index, .tiered, .ctxs, .sync, .reds, .mbx, .win, .miss, .rel,
      .hbm, .hostOut] s (endJob s j) := by
  unfold endJob
  split
  · exact .mono (by rfl) <| .refl _
  · exact .mono (by rfl) <| .trans (.foldl (fun _ _ => (resetQueue_only ..).trans <| updQueue_only ..) _ _) <|
      (replayEnd_only ..).trans <| (freeSync_only ..).trans <| (uncharge_only ..).trans <| (uncharge_only ..).trans <|
      .trans (.foldl (fun _ _ => freeBuf_only ..) _ _) <| (setBufs_only _ _).trans <|
      .trans (.foldl (fun _ _ => beginUnbind_only ..) _ _) <| (setCoresJobsRedsWin_only _ _ _ _ _).trans <| dset_only ..

theorem execCoreGrant_only (job : Nat) (s : State) :
    Answers [.dict, .clusters, .cores, .queues, .jobs] s (execCoreGrant job s) := by
  unfold execCoreGrant
  exact Only.answers (.mono (by rfl) <| grantCores_only ..)

theorem execPreEmption_only (job : Nat) (s : State) :
    Answers [.now, .dict, .tel, .cores, .queues, .jobs, .parts, .bufs, .tiered, .sync, .reds, .win, .miss, .rel, .hbm,
      .hostOut] s (execPreEmption job s) := by
  unfold execPreEmption
  exact Only.answers (.mono (by rfl) <| preempt_only ..)

theorem execYieldWaitBoundExpiry_only (job : Nat) (s : State) :
    Answers [.now, .dict, .tel, .cores, .queues, .jobs, .parts, .bufs, .tiered, .sync, .reds, .win, .miss, .rel, .hbm,
      .hostOut] s (execYieldWaitBoundExpiry job s) := by
  unfold execYieldWaitBoundExpiry
  exact Only.answers (.mono (by rfl) <| yieldExpiry_only ..)

theorem execSaveDone_only (job : Nat) (s : State) :
    Answers [.dict, .clusters, .cores, .queues, .jobs] s (execSaveDone job s) := by
  unfold execSaveDone
  exact Only.answers (.mono (by rfl) <| saveDone_only ..)

theorem execRestoreDone_only (job : Nat) (s : State) : Answers [.dict, .queues, .jobs, .bufs] s (execRestoreDone job s) := by
  unfold execRestoreDone
  exact Only.answers (.mono (by rfl) <| restoreDone_only ..)

/-! ## Queues -/

theorem takeDoorbell_only (s : State) (q tail : Nat) :
    Only [.dict, .tel, .pins, .queues, .hostOut] s (takeDoorbell s q tail) := by
  unfold takeDoorbell
  exact .mono (by rfl) <| (journal_only ..).trans <| updQueue_only ..

theorem memberDoorbell_only (s : State) (fn m : Nat) : Only [.host, .win] s (memberDoorbell s fn m) := by
  unfold memberDoorbell
  split
  · exact .mono (by rfl) <| .refl _
  · split
    · exact .mono (by rfl) <| .refl _
    · exact .mono (by rfl) <| (setHost_only _ _).trans <| sendFlits_only ..

theorem doorbell_only (s : State) (fn page : Nat) (word : W64) (wellSized : Bool) :
    Only [.dict, .tel, .pins, .queues, .jobs, .host, .win, .hostOut] s (doorbell s fn page word wellSized) := by
  unfold doorbell
  split
  · exact .mono (by rfl) <| .refl _
  · split
    · exact .mono (by rfl) <| memberDoorbell_only ..
    · split
      · exact .mono (by rfl) <| .refl _
      · extract_lets +onlyGivenNames tail1
        split
        · exact .mono (by rfl) <| .refl _
        · split
          · exact .mono (by rfl) <| updQueue_only ..
          · split
            · exact .mono (by rfl) <| updQueue_only ..
            · split
              · exact .mono (by rfl) <| .refl _
              · split
                · exact .mono (by rfl) <| takeDoorbell_only ..
                · split
                  next heq =>
                    have h2 : Only [.dict, .jobs] s _ := (Only.of_fst (replayInput_only ..) heq).mono (by rfl)
                    exact .mono (by rfl) <| h2.trans <| takeDoorbell_only ..
                  next heq =>
                    have h2 : Only [.dict, .jobs] s _ := (Only.of_fst (replayInput_only ..) heq).mono (by rfl)
                    exact .mono (by rfl) <| h2.trans <| holdInput_only ..

theorem createQueue_only (s : State) (fn : Nat) (m : MboxMsg) : Only [.dict, .queues, .mbx] s (createQueue s fn m) := by
  unfold createQueue
  extract_lets +onlyGivenNames b1 part2 d3 held4
  split
  · exact .mono (by rfl) <| answer_only ..
  · split
    · exact .mono (by rfl) <| answer_only ..
    · split
      · exact .mono (by rfl) <| answer_only ..
      · exact .mono (by rfl) <| .ite (answer_only ..) ((setQueues_only _ _).trans <| (bump_only ..).trans <| (bump_only ..).trans <|
          answer_only ..)

theorem resetWithJob_only (s : State) (q : Nat) :
    Only [.dict, .tel, .cores, .queues, .jobs, .parts, .bufs, .index, .tiered, .ctxs, .sync, .reds, .mbx, .win, .miss, .rel,
      .hbm, .hostOut] s (resetWithJob s q) := by
  unfold resetWithJob
  split
  · exact .mono (by rfl) <| resetQueue_only ..
  · exact .mono (by rfl) <| endJob_only ..

theorem freeOwned_only (s : State) (q : Nat) : Only [.dict, .parts, .bufs, .index, .tiered, .mbx, .rel] s (freeOwned s q) := by
  unfold freeOwned
  exact .mono (by rfl) <| .foldl (fun _ _ => freeBuf_only ..) _ _

theorem destroyQueue_only (s : State) (q : Nat) :
    Only [.dict, .tel, .cores, .queues, .jobs, .parts, .bufs, .index, .tiered, .ctxs, .sync, .reds, .mbx, .win, .miss, .rel,
      .hbm, .hostOut] s (destroyQueue s q) := by
  unfold destroyQueue
  split
  · exact .mono (by rfl) <| .refl _
  · exact .mono (by rfl) <| (resetWithJob_only ..).trans <| (freeOwned_only ..).trans <| (setQueues_only _ _).trans <|
      (dset_only ..).trans <| dset_only ..

theorem queueRequest_only {F : List StateField} {s : State} {fn : Nat} {m : MboxMsg} {modes : Nat}
    {run : State → Nat → Nat → State × Status} (h : ∀ s q mode, Only F s (run s q mode).1) :
    Only ([.mbx] ++ F) s (queueRequest s fn m modes run) := by
  unfold queueRequest
  extract_lets st
  split
  · exact (answer_only ..).left
  · have hrun := h s (field m.bytes 8 2) (field m.bytes 1 1)
    generalize run s (field m.bytes 8 2) (field m.bytes 1 1) = r at hrun ⊢
    obtain ⟨t, st'⟩ := r
    exact (Only.self s).around hrun (answer_only ..)

theorem restartCmd_only (s : State) (q : Nat) (c : Cmd) :
    Only [.dict, .clusters, .cores, .queues, .sync, .win] s (restartCmd s q c) := by
  unfold restartCmd
  extract_lets +onlyGivenNames s1 s2 s3
  have h1 : Only [.cores, .sync] s s1 := .mono (by rfl) <| (leaveEngines_only ..).trans <| (discardArray_only ..).trans <|
    withdraw_only ..
  have h2 : Only [.cores, .sync, .win] s s2 := .mono (by rfl) <| .ite (h1.trans <| recallSignal_only ..) h1
  have h3 : Only [.cores, .sync, .win, .dict, .clusters] s s3 := .mono (by rfl) <| .ite (h2.trans <| requestWake_only ..) h2
  exact .mono (by rfl) <| h3.trans <| updCmd_only ..

theorem restartQueue_only (s : State) (q : Nat) (skip : Bool) :
    Only [.dict, .tel, .clusters, .cores, .queues, .parts, .bufs, .tiered, .sync, .reds, .win, .miss,
      .hostOut] s (restartQueue s q skip).1 := by
  unfold restartQueue
  split
  · exact .mono (by rfl) <| .refl _
  · extract_lets +onlyGivenNames failed1 inStream2
    split
    · exact .mono (by rfl) <| .refl _
    · extract_lets +onlyGivenNames s3
      have h3 : Only [.queues] s s3 := .mono (by rfl) <| updQueue_only ..
      split
      · extract_lets +onlyGivenNames before4 later5
        exact .mono (by rfl) <| h3.trans <| updQueue_only ..
      · extract_lets +onlyGivenNames keeps6 drops7 s8 s9 s10
        have h8 : Only [.queues, .dict, .tel, .cores, .sync, .reds, .win, .miss, .hostOut] s s8 := .mono (by rfl) <| h3.trans <|
          .foldl (fun _ _ => dropCmd_only ..) _ _
        have h9 : Only [.queues, .dict, .tel, .cores, .sync, .reds, .win, .miss, .hostOut, .clusters] s s9 := .mono (by rfl) <|
          h8.trans <| .foldl (fun _ _ => restartCmd_only ..) _ _
        have h10 : Only [.queues, .dict, .tel, .cores, .sync, .reds, .win, .miss, .hostOut, .clusters] s s10 := .mono (by rfl) <|
          h9.trans <| updQueue_only ..
        exact .mono (by rfl) <| h10.trans <| releaseHeld_only ..

theorem releaseQueue_only (s : State) (q : Nat) : Only [.queues] s (releaseQueue s q) := by
  unfold releaseQueue
  exact .mono (by rfl) <| updQueue_only ..

theorem execDoorbell_only (fn page : Nat) (word : W64) (wellSized : Bool) (s : State) :
    Answers [.now, .dict, .tel, .pins, .cores, .queues, .jobs, .parts, .bufs, .tiered, .host, .win, .rel, .hbm,
      .hostOut] s (execDoorbell fn page word wellSized s) := by
  unfold execDoorbell
  exact Only.answers (.mono (by rfl) <| (settle_only ..).trans <| doorbell_only ..)

theorem execQueueCreate_only (fn : Nat) (s : State) : Answers [.dict, .queues, .mbx] s (execQueueCreate fn s) := by
  unfold execQueueCreate
  exact Only.answers (.mono (by rfl) <| onMessage_only fun _ _ => createQueue_only ..)

theorem execQueueDestroy_only (fn : Nat) (s : State) :
    Answers [.dict, .tel, .cores, .queues, .jobs, .parts, .bufs, .index, .tiered, .ctxs, .sync, .reds, .mbx, .win, .miss,
      .rel, .hbm, .hostOut] s (execQueueDestroy fn s) := by
  unfold execQueueDestroy
  exact Only.answers (.mono (by rfl) <| onMessage_only fun _ _ => queueRequest_only fun _ _ _ => destroyQueue_only ..)

theorem execQueueReset_only (fn : Nat) (s : State) :
    Answers [.dict, .tel, .cores, .queues, .jobs, .parts, .bufs, .index, .tiered, .ctxs, .sync, .reds, .mbx, .win, .miss,
      .rel, .hbm, .hostOut] s (execQueueReset fn s) := by
  unfold execQueueReset
  exact Only.answers (.mono (by rfl) <| onMessage_only fun _ _ => queueRequest_only fun _ _ _ => resetWithJob_only ..)

theorem execQueueRestart_only (fn : Nat) (s : State) :
    Answers [.dict, .tel, .clusters, .cores, .queues, .parts, .bufs, .tiered, .sync, .reds, .mbx, .win, .miss,
      .hostOut] s (execQueueRestart fn s) := by
  unfold execQueueRestart
  exact Only.answers (.mono (by rfl) <| onMessage_only fun _ _ => queueRequest_only fun _ _ _ => restartQueue_only ..)

theorem execReleaseQuarantine_only (fn : Nat) (s : State) : Answers [.queues, .mbx] s (execReleaseQuarantine fn s) := by
  unfold execReleaseQuarantine
  exact Only.answers (.mono (by rfl) <| onMessage_only fun _ _ => queueRequest_only fun _ _ _ => releaseQueue_only ..)

/-! ## Job requests -/

theorem placeBufs_only (s : State) (fn part job : Nat) (roles : List Nat) (k : List Byte) :
    Only [.fresh, .dict, .parts, .bufs, .index, .tiered] s (placeBufs s fn part job roles k).1 := by
  unfold placeBufs
  refine .foldl_fst (fun p b => ?_) _ (s, [])
  dsimp only
  exact .mono (by rfl) <| .ite (placeBuf_only ..) <| (placeBuf_only ..).trans <| charge_only ..

theorem placeSyncs_only (s : State) (part job : Nat) (k : List Byte) :
    Only [.dict, .sync] s (placeSyncs s part job k).1 := by
  unfold placeSyncs
  refine .foldl_fst (fun p e => ?_) _ (s, [])
  split
  · exact .self _
  · exact .mono (by rfl) <| (putSync_only ..).trans <| bump_only ..

theorem createJob_only (s : State) (fn part : Nat) (b k : List Byte) (rings : FMap Ring) (digest : List Byte) :
    Only [.fresh, .dict, .queues, .jobs, .parts, .bufs, .index, .tiered, .sync] s (createJob s fn part b k rings digest) := by
  unfold createJob
  extract_lets +onlyGivenNames id1 roles2 journal3 recs4 reserved5 cap6 stores7 s8
  have h8 : Only [.dict, .parts] s s8 := .mono (by rfl) <| (charge_only ..).trans <| charge_only ..
  split
  next heq =>
    have h20 : Only [.dict, .parts, .fresh, .bufs, .index, .tiered] s _ := (Only.of_fst (h8.trans <|
      placeBufs_only ..) heq).mono (by rfl)
    split
    next heq =>
      have h26 : Only [.dict, .parts, .fresh, .bufs, .index, .tiered, .sync] s _ := (Only.of_fst (h20.trans <|
        placeSyncs_only ..) heq).mono (by rfl)
      extract_lets +onlyGivenNames depth27 J28 s29 s30 s31
      have h29 : Only [.dict, .parts, .fresh, .bufs, .index, .tiered, .sync, .jobs] s s29 := .mono (by rfl) <| h26.trans <|
        setJobs_only _ _
      have h30 : Only [.dict, .parts, .fresh, .bufs, .index, .tiered, .sync, .jobs, .queues] s s30 := .mono (by rfl) <| h29.trans <|
        .foldl (fun _ _ => updQueue_only ..) _ _
      have h31 : Only [.dict, .parts, .fresh, .bufs, .index, .tiered, .sync, .jobs, .queues] s s31 := .mono (by rfl) <|
        .ite h30 (h30.trans <| (dset_only ..).trans <| dset_only ..)
      exact .mono (by rfl) <| h31.trans <| (bump_only ..).trans <| dset_only ..

theorem submitJob_only (s : State) (fn : Nat) (m : MboxMsg) (container : List Byte) :
    Only [.fresh, .dict, .tel, .audit, .cfg, .pins, .queues, .jobs, .parts, .bufs, .index, .tiered, .sync,
      .mbx] s (submitJob s fn m container) := by
  unfold submitJob
  extract_lets +onlyGivenNames b1
  split
  · exact .mono (by rfl) <| answer_only ..
  · extract_lets +onlyGivenNames part2 k3 digest4 s5
    have h5 : Only [.fresh] s s5 := .mono (by rfl) <| setFresh_only _ _
    split
    · exact .mono (by rfl) <| h5.trans <| (auditAdmission_only ..).trans <| answer_only ..
    · exact .mono (by rfl) <| h5.trans <| (createJob_only ..).trans <| (auditAdmission_only ..).trans <| answer_only ..

theorem endRequest_only (s : State) (fn : Nat) (m : MboxMsg) :
    Only [.dict, .tel, .cores, .queues, .jobs, .parts, .bufs, .index, .tiered, .ctxs, .sync, .reds, .mbx, .win, .miss, .rel,
      .hbm, .hostOut] s (endRequest s fn m) := by
  unfold endRequest
  exact .mono (by rfl) <| .ite (answer_only ..) (.ite (answer_only ..) ((endJob_only ..).trans <| answer_only ..))

theorem execJobSubmit_only (fn : Nat) (container : List Byte) (s : State) :
    Answers [.fresh, .dict, .tel, .audit, .cfg, .pins, .queues, .jobs, .parts, .bufs, .index, .tiered, .sync,
      .mbx] s (execJobSubmit fn container s) := by
  unfold execJobSubmit
  exact Only.answers (.mono (by rfl) <| onMessage_only fun _ _ => submitJob_only ..)

theorem execJobEnd_only (fn : Nat) (s : State) :
    Answers [.dict, .tel, .cores, .queues, .jobs, .parts, .bufs, .index, .tiered, .ctxs, .sync, .reds, .mbx, .win, .miss,
      .rel, .hbm, .hostOut] s (execJobEnd fn s) := by
  unfold execJobEnd
  exact Only.answers (.mono (by rfl) <| onMessage_only fun _ _ => endRequest_only ..)

/-! ## Reeds -/

theorem partKey_only (s : State) (part : Nat) : Only [.fresh, .parts] s (partKey s part).1 := by
  unfold partKey
  split
  · dsimp only
    exact .mono (by rfl) <| .refl _
  · extract_lets +onlyGivenNames k1
    dsimp only
    exact .mono (by rfl) <| (drawn_only ..).trans <| updPart_only ..

theorem beginKeyRegistration_only (s : State) (fn : Nat) (m : MboxMsg) : Only [.sec, .mbx] s (beginKeyRegistration s fn m) := by
  unfold beginKeyRegistration
  exact .mono (by rfl) <| .ite (answer_only ..) (submitEngine_only ..)

theorem keyVerified_only (s : State) (fn : Nat) (r : KeyReg) (o : EngineOut) :
    Only [.fresh, .sec, .parts, .mbx] s (keyVerified s fn r o) := by
  unfold keyVerified
  exact .mono (by rfl) <| .ite (answer_only ..) (.ite (answer_only ..) ((partKey_only ..).trans <| submitEngine_only ..))

theorem keyShared_only (s : State) (fn : Nat) (r : KeyReg) (o : EngineOut) :
    Only [.fresh, .dict, .parts, .keys, .mbx] s (keyShared s fn r o) := by
  unfold keyShared
  extract_lets +onlyGivenNames b1 m2
  split
  next heq =>
    have h6 : Only [.fresh, .parts] s _ := (Only.of_fst (partKey_only ..) heq).mono (by rfl)
    split
    · exact .mono (by rfl) <| h6.trans <| answer_only ..
    · extract_lets +onlyGivenNames kek7
      split
      · exact .mono (by rfl) <| h6.trans <| answer_only ..
      · split
        · exact .mono (by rfl) <| h6.trans <| answer_only ..
        · split
          · exact .mono (by rfl) <| h6.trans <| answer_only ..
          · split
            · exact .mono (by rfl) <| h6.trans <| answer_only ..
            · exact .mono (by rfl) <| h6.trans <| (setKeys_only _ _).trans <| (bump_only ..).trans <| answer_only ..

theorem updDir_only (s : State) (part index : Nat) (f : DirEntry → DirEntry) : Only [.dirs] s (updDir s part index f) := by
  unfold updDir
  exact .mono (by rfl) <| setDirs_only _ _

theorem onReed_only {F : List StateField} {s : State} {fn op : Nat} {run : State → MboxMsg → State}
    (h : ∀ s m, Only F s (run s m)) : Only ([.mbx] ++ F) s (onReed s fn op run) := by
  unfold onReed
  split
  · exact .self _
  · split
    · exact .self _
    · refine (onMessage_only (F := [.mbx] ++ F) fun s m => ?_).weaken (by simp)
      split
      · exact (h ..).right
      · exact (answer_only ..).left

theorem registerReed_only (s : State) (fn : Nat) (m : MboxMsg) (image : List Byte) :
    Only [.dirs, .mbx] s (registerReed s fn m image) := by
  unfold registerReed
  exact .mono (by rfl) <| .ite (answer_only ..) ((setDirs_only _ _).trans <| answer_only ..)

theorem relocateReed_only (s : State) (fn : Nat) (m : MboxMsg) (image : List Byte) :
    Only [.dirs, .mbx] s (relocateReed s fn m image) := by
  unfold relocateReed
  extract_lets +onlyGivenNames b1 part2 loc3
  split
  · exact .mono (by rfl) <| answer_only ..
  · exact .mono (by rfl) <|
      .ite (answer_only ..) (.ite (answer_only ..) (.ite (answer_only ..) (.ite (answer_only ..) ((updDir_only ..).trans <|
      answer_only ..))))

theorem removeReed_only (s : State) (fn : Nat) (m : MboxMsg) : Only [.dirs, .mbx] s (removeReed s fn m) := by
  unfold removeReed
  extract_lets +onlyGivenNames part1
  split
  · exact .mono (by rfl) <| answer_only ..
  · exact .mono (by rfl) <| .ite (answer_only ..) ((setDirs_only _ _).trans <| answer_only ..)

theorem removeKey_only (s : State) (fn : Nat) (m : MboxMsg) : Only [.dict, .keys, .keyGens, .mbx] s (removeKey s fn m) := by
  unfold removeKey
  extract_lets +onlyGivenNames id1 slot2
  split
  · exact .mono (by rfl) <| answer_only ..
  · exact .mono (by rfl) <| .ite (answer_only ..) (.ite (answer_only ..) ((setKeysKeyGens_only _ _ _).trans <| (dset_only ..).trans <|
      answer_only ..))

theorem takeCtx_only (s : State) (ctx : Nat) (x : Ctx) : Only [.dict, .dirs, .ctxs] s (takeCtx s ctx x) := by
  unfold takeCtx
  exact .mono (by rfl) <| (setCtxs_only _ _).trans <| (updDir_only ..).trans <| bump_only ..

theorem releaseCtx_only (s : State) (ctx : Nat) : Only [.dict, .parts, .dirs, .ctxs] s (releaseCtx s ctx) := by
  unfold releaseCtx
  split
  · exact .mono (by rfl) <| .refl _
  · exact .mono (by rfl) <| (setCtxs_only _ _).trans <| (uncharge_only ..).trans <| (updDir_only ..).trans <| dset_only ..

theorem withReedQueue_only {F : List StateField} {s : State} {fn : Nat} {m : MboxMsg} {run : Queue → State}
    (h : ∀ Q, Only F s (run Q)) : Only ([.mbx] ++ F) s (withReedQueue s fn m run) := by
  unfold withReedQueue
  split
  · exact (answer_only ..).left
  · exact (h _).right

theorem serveBind_only (s : State) (fn : Nat) (m : MboxMsg) (image : List Byte) :
    Only [.dict, .parts, .dirs, .ctxs, .mbx] s (serveBind s fn m image) := by
  unfold serveBind
  refine .mono (by rfl) <| withReedQueue_only (F := [.mbx, .dirs, .dict, .parts, .ctxs]) fun _ => ?_
  extract_lets +onlyGivenNames b1
  split
  · split
    · exact .mono (by rfl) <| answer_only ..
    · split
      · extract_lets +onlyGivenNames job2 jfn3
        split
        · exact .mono (by rfl) <| .ite (answer_only ..) (.ite (answer_only ..) ((updDir_only ..).trans <| (charge_only ..).trans <|
            takeCtx_only ..))
      · exact .mono (by rfl) <| .refl _

theorem answerCtx_only (s : State) (x : Ctx) (st : Status) (result : Nat) : Only [.mbx] s (answerCtx s x st result) := by
  unfold answerCtx
  split
  · exact .mono (by rfl) <| .refl _
  · exact .mono (by rfl) <| respond_only ..

theorem serveBindComplete_only (s : State) (ctx : Nat) (blob : List Byte) (readOk : Bool) :
    Only [.dict, .parts, .dirs, .ctxs, .mbx] s (serveBindComplete s ctx blob readOk) := by
  unfold serveBindComplete
  split
  · exact .mono (by rfl) <| .refl _
  · split
    · exact .mono (by rfl) <| .refl _
    · split
      · exact .mono (by rfl) <| .refl _
      · extract_lets +onlyGivenNames n1 data2 key3 refuse4
        split
        · exact .mono (by rfl) <| (answerCtx_only ..).trans <| releaseCtx_only ..
        · split
          · exact .mono (by rfl) <| (answerCtx_only ..).trans <| releaseCtx_only ..
          · exact .mono (by rfl) <| .ite ((answerCtx_only ..).trans <| releaseCtx_only ..) ((setCtxs_only _ _).trans <|
              (bump_only ..).trans <| (bump_only ..).trans <| answerCtx_only ..)

theorem trainBind_only (s : State) (fn : Nat) (m : MboxMsg) :
    Only [.now, .dict, .queues, .dirs, .ctxs, .mbx] s (trainBind s fn m) := by
  unfold trainBind
  refine .mono (by rfl) <| withReedQueue_only (F := [.mbx, .queues, .dict, .dirs, .ctxs, .now]) fun _ => ?_
  extract_lets +onlyGivenNames b1 q2
  split
  · split
    · exact .mono (by rfl) <| answer_only ..
    · split
      · extract_lets +onlyGivenNames ts3 h4 table5 st6 st7
        split
        · extract_lets +onlyGivenNames s8
          have h8 : Only [.mbx] s s8 := .mono (by rfl) <| answer_only ..
          exact .mono (by rfl) <| .ite (h8.trans <| offence_only ..) h8
        · exact .mono (by rfl) <| (takeCtx_only ..).trans <| (setNow_only _ _).trans <| (bump_only ..).trans <|
            (bump_only ..).trans <| answer_only ..
      · exact .mono (by rfl) <| .refl _

theorem unbindReed_only (s : State) (fn : Nat) (m : MboxMsg) : Only [.ctxs, .mbx] s (unbindReed s fn m) := by
  unfold unbindReed
  extract_lets +onlyGivenNames part1
  split
  · exact .mono (by rfl) <| answer_only ..
  · split
    · exact .mono (by rfl) <| answer_only ..
    · exact .mono (by rfl) <| setCtxs_only _ _

theorem unbindComplete_only (s : State) (ctx : Nat) : Only [.dict, .parts, .dirs, .ctxs, .mbx] s (unbindComplete s ctx) := by
  unfold unbindComplete
  split
  · exact .mono (by rfl) <| .refl _
  · exact .mono (by rfl) <| .ite (.refl _) ((releaseCtx_only ..).trans <| answerCtx_only ..)

theorem sealReed_only (s : State) (fn : Nat) (m : MboxMsg) :
    Only [.queues, .bufs, .tiered, .keys, .mbx, .rel] s (sealReed s fn m) := by
  unfold sealReed
  refine .mono (by rfl) <| withReedQueue_only (F := [.mbx, .queues, .bufs, .tiered, .rel, .keys]) fun _ => ?_
  extract_lets +onlyGivenNames b1 q2
  split
  · exact .mono (by rfl) <| answer_only ..
  · split
    · exact .mono (by rfl) <| answer_only ..
    · split
      · exact .mono (by rfl) <| answer_only ..
      · split
        · extract_lets +onlyGivenNames h3 st4
          split
          · exact .mono (by rfl) <| answer_only ..
          · split
            · extract_lets +onlyGivenNames s5
              have h5 : Only [.mbx] s s5 := .mono (by rfl) <| answer_only ..
              exact .mono (by rfl) <| .ite (h5.trans <| offence_only ..) h5
            · exact .mono (by rfl) <| .ite (answer_only ..) (.ite (answer_only ..) ((storeBuf_only ..).trans <|
                (setKeys_only _ _).trans <| answer_only ..))
        · exact .mono (by rfl) <| answer_only ..

theorem bumpBaseGen_only (s : State) (part : Nat) : Only [.dict, .ctxs] s (bumpBaseGen s part) := by
  unfold bumpBaseGen
  exact .mono (by rfl) <| (dset_only ..).trans <| setCtxs_only _ _

theorem execKeyRegistration_only (fn : Nat) (s : State) : Answers [.sec, .mbx] s (execKeyRegistration fn s) := by
  unfold execKeyRegistration
  exact Only.answers (.mono (by rfl) <| onMessage_only fun _ _ => beginKeyRegistration_only ..)

theorem execRemoveKey_only (fn : Nat) (s : State) : Answers [.dict, .keys, .keyGens, .mbx] s (execRemoveKey fn s) := by
  unfold execRemoveKey
  exact Only.answers (.mono (by rfl) <| onMessage_only fun _ _ => .ite (removeKey_only ..) (answer_only ..))

theorem execRegister_only (fn : Nat) (image : List Byte) (s : State) : Answers [.dirs, .mbx] s (execRegister fn image s) := by
  unfold execRegister
  exact Only.answers (.mono (by rfl) <| onReed_only fun _ _ => registerReed_only ..)

theorem execRelocate_only (fn : Nat) (image : List Byte) (s : State) : Answers [.dirs, .mbx] s (execRelocate fn image s) := by
  unfold execRelocate
  exact Only.answers (.mono (by rfl) <| onReed_only fun _ _ => relocateReed_only ..)

theorem execRemove_only (fn : Nat) (s : State) : Answers [.dirs, .mbx] s (execRemove fn s) := by
  unfold execRemove
  exact Only.answers (.mono (by rfl) <| onReed_only fun _ _ => removeReed_only ..)

theorem execServeBind_only (fn : Nat) (image : List Byte) (s : State) :
    Answers [.dict, .parts, .dirs, .ctxs, .mbx] s (execServeBind fn image s) := by
  unfold execServeBind
  exact Only.answers (.mono (by rfl) <| onReed_only fun _ _ => serveBind_only ..)

theorem execServeBindComplete_only (ctx : Nat) (blob : List Byte) (readOk : Bool) (s : State) :
    Answers [.dict, .parts, .dirs, .ctxs, .mbx] s (execServeBindComplete ctx blob readOk s) := by
  unfold execServeBindComplete
  exact Only.answers (.mono (by rfl) <| serveBindComplete_only ..)

theorem execTrainBind_only (fn : Nat) (s : State) :
    Answers [.now, .dict, .queues, .dirs, .ctxs, .mbx] s (execTrainBind fn s) := by
  unfold execTrainBind
  exact Only.answers (.mono (by rfl) <| onReed_only fun _ _ => trainBind_only ..)

theorem execUnbind_only (fn : Nat) (s : State) : Answers [.ctxs, .mbx] s (execUnbind fn s) := by
  unfold execUnbind
  exact Only.answers (.mono (by rfl) <| onReed_only fun _ _ => unbindReed_only ..)

theorem execUnbindComplete_only (ctx : Nat) (s : State) :
    Answers [.dict, .parts, .dirs, .ctxs, .mbx] s (execUnbindComplete ctx s) := by
  unfold execUnbindComplete
  exact Only.answers (.mono (by rfl) <| unbindComplete_only ..)

theorem execSeal_only (fn : Nat) (s : State) : Answers [.queues, .bufs, .tiered, .keys, .mbx, .rel] s (execSeal fn s) := by
  unfold execSeal
  exact Only.answers (.mono (by rfl) <| .ite (.refl _) (onReed_only fun _ _ => sealReed_only ..))

/-! ## Bases -/

theorem issueRead_only (s : State) (r : HostRead) : Only [.host] s (issueRead s r) := by
  unfold issueRead
  exact .mono (by rfl) <| setHost_only _ _

theorem updBaseJob_only (s : State) (part : Nat) (f : BaseJob → BaseJob) : Only [.parts] s (updBaseJob s part f) := by
  unfold updBaseJob
  exact .mono (by rfl) <| updPart_only ..

theorem setBaseState_only (s : State) (part n : Nat) : Only [.dict] s (setBaseState s part n) := by
  unfold setBaseState
  exact .mono (by rfl) <| dset_only ..

theorem readNext_only (s : State) (part : Nat) (b : BaseJob) : Only [.host] s (readNext s part b) := by
  unfold readNext
  split
  · exact .mono (by rfl) <| .refl _
  · exact .mono (by rfl) <| issueRead_only ..

theorem chargeBase_only (s : State) (part add sub : Nat) : Only [.dict] s (chargeBase s part add sub) := by
  unfold chargeBase
  exact .mono (by rfl) <| dset_only ..

theorem freeBase_only (s : State) (part : Nat) :
    Only [.dict, .parts, .bufs, .index, .tiered, .mbx, .rel] s (freeBase s part) := by
  unfold freeBase
  exact .mono (by rfl) <| .trans (.foldl (fun _ _ => freeBuf_only ..) _ _) <| (chargeBase_only ..).trans <| updPart_only ..

theorem noBase_only (s : State) (part st : Nat) : Only [.dict] s (noBase s part st) := by
  unfold noBase
  exact .mono (by rfl) <| (setBaseState_only ..).trans <| (dsetB_only ..).trans <| (dsetB_only ..).trans <| (dset_only ..).trans <|
    dset_only ..

theorem reportBase_only (s : State) (part : Nat) (st : Status) : Only [.win] s (reportBase s part st) := by
  unfold reportBase
  exact .mono (by rfl) <| (setWin_only _ _).trans <| sendFlits_only ..

theorem answerBase_only (s : State) (part : Nat) (b : BaseJob) (st : Status) :
    Only [.fresh, .mbx, .win] s (answerBase s part b st) := by
  unfold answerBase
  split
  · exact .mono (by rfl) <| .ite (.refl _) (reportBase_only ..)
  · split
    · exact .mono (by rfl) <| (setFresh_only _ _).trans <| respond_only ..

theorem failIncoming_only (s : State) (part : Nat) (st : Status) :
    Only [.dict, .tel, .cores, .queues, .jobs, .parts, .bufs, .tiered, .sync, .miss, .rel, .hbm,
      .hostOut] s (failIncoming s part st) := by
  unfold failIncoming
  refine .mono (by rfl) <|
    .foldl (F := [.dict, .tel, .cores, .queues, .jobs, .parts, .bufs, .tiered, .sync, .miss, .rel, .hbm,
    .hostOut]) (fun t _ => ?_) _ _
  split
  · exact .mono (by rfl) <| .refl _
  · split
    · exact .mono (by rfl) <| .refl _
    · exact .mono (by rfl) <| fail_only ..

theorem turnLayer_only (s : State) (part : Nat) (ts : List Tensor) : Only [.bufs, .index] s (turnLayer s part ts) := by
  unfold turnLayer
  exact .mono (by rfl) <| .foldl (fun _ _ => setBufsIndex_only _ _ _) _ _

theorem breakBase_only (s : State) (part : Nat) (b : BaseJob) :
    Only [.dict, .parts, .bufs, .index, .tiered, .mbx, .rel] s (breakBase s part b) := by
  unfold breakBase
  exact .mono (by rfl) <| (turnLayer_only ..).trans <| freeBase_only ..

theorem baseFail_only (s : State) (part : Nat) (b : BaseJob) (st : Status) :
    Only [.fresh, .dict, .tel, .cores, .queues, .jobs, .parts, .bufs, .index, .tiered, .ctxs, .sync, .mbx, .win, .miss, .rel,
      .hbm, .hostOut] s (baseFail s part b st) := by
  unfold baseFail
  extract_lets +onlyGivenNames s1
  have h1 : Only [.parts] s s1 := .mono (by rfl) <| updPart_only ..
  exact .mono (by rfl) <| .ite (h1.trans <| answerBase_only ..) (.ite (h1.trans <| (breakBase_only ..).trans <|
    (noBase_only ..).trans <| (updPart_only ..).trans <| (failIncoming_only ..).trans <| (bumpBaseGen_only ..).trans <|
    answerBase_only ..) (h1.trans <| (chargeBase_only ..).trans <| (noBase_only ..).trans <| answerBase_only ..))

theorem placeTensor_only (s : State) (part : Nat) (t : Tensor) (data : List Byte) :
    Only [.fresh, .parts, .bufs, .index, .tiered] s (placeTensor s part t data) := by
  unfold placeTensor
  exact .mono (by rfl) <| (placeBuf_only ..).trans <| updPart_only ..

theorem publishBase_only (s : State) (part : Nat) (b : BaseJob) :
    Only [.fresh, .dict, .tel, .cores, .queues, .jobs, .parts, .bufs, .index, .tiered, .ctxs, .sync, .mbx, .win, .miss, .rel,
      .hbm, .hostOut] s (publishBase s part b) := by
  unfold publishBase
  extract_lets +onlyGivenNames s1
  have h1 : Only [.parts] s s1 := .mono (by rfl) <| updPart_only ..
  exact .mono (by rfl) <| .ite (h1.trans <| answerBase_only ..) (.ite (h1.trans <| baseFail_only ..) (h1.trans <|
    .trans (.foldl (fun _ _ => placeTensor_only ..) _ _) <| (updPart_only ..).trans <| (setBaseState_only ..).trans <|
    (dsetB_only ..).trans <| (dset_only ..).trans <| (bumpBaseGen_only ..).trans <| answerBase_only ..))

theorem refuseBase_only (s : State) (fn : Nat) (m : MboxMsg) (st : Status) (digest : List Byte) :
    Only [.mbx] s (refuseBase s fn m st digest) := by
  unfold refuseBase
  exact .mono (by rfl) <| respond_only ..

theorem beginLoad_only (s : State) (part : Nat) (b : BaseJob) :
    Only [.dict, .parts, .bufs, .index, .tiered, .mbx, .rel] s (beginLoad s part b) := by
  unfold beginLoad
  exact .mono (by rfl) <| .trans (.ite ((freeBase_only ..).trans <| (noBase_only ..).trans <| (setBaseState_only ..).trans <|
    chargeBase_only ..) (.refl _)) <| updPart_only ..

theorem loadBase_only (s : State) (fn : Nat) (m : MboxMsg) (head : List Byte) :
    Only [.dict, .parts, .bufs, .index, .tiered, .mbx, .host, .rel] s (loadBase s fn m head) := by
  unfold loadBase
  exact .mono (by rfl) <| .ite (refuseBase_only ..) (.ite (refuseBase_only ..) ((beginLoad_only ..).trans <| readNext_only ..))

theorem beginReplace_only (s : State) (part : Nat) (b : BaseJob) : Only [.dict, .parts] s (beginReplace s part b) := by
  unfold beginReplace
  exact .mono (by rfl) <| (setBaseState_only ..).trans <| (dsetB_only ..).trans <| (dset_only ..).trans <| updPart_only ..

theorem replaceBase_only (s : State) (fn : Nat) (m : MboxMsg) (head : List Byte) :
    Only [.dict, .parts, .bufs, .index, .tiered, .mbx, .host, .rel] s (replaceBase s fn m head) := by
  unfold replaceBase
  exact .mono (by rfl) <|
    .ite (refuseBase_only ..) (.ite (refuseBase_only ..) (.ite (beginReplace_only ..) ((beginLoad_only ..).trans <|
    readNext_only ..)))

theorem abortReplace_only (s : State) (fn : Nat) (m : MboxMsg) :
    Only [.fresh, .dict, .parts, .mbx, .win] s (abortReplace s fn m) := by
  unfold abortReplace
  extract_lets +onlyGivenNames part1
  split
  · exact .mono (by rfl) <| refuseBase_only ..
  · split
    · exact .mono (by rfl) <| refuseBase_only ..
    · exact .mono (by rfl) <| (updPart_only ..).trans <| (setBaseState_only ..).trans <| (dsetB_only ..).trans <|
        (dset_only ..).trans <| (setFresh_only _ _).trans <| (answerBase_only ..).trans <| respond_only ..

theorem writeTensor_only (s : State) (part : Nat) (t : Tensor) (data : List Byte) :
    Only [.bufs] s (writeTensor s part t data) := by
  unfold writeTensor
  exact .mono (by rfl) <| setBufs_only _ _

theorem releaseLayer_only (s : State) (part : Nat) : Only [.dict, .parts] s (releaseLayer s part) := by
  unfold releaseLayer
  exact .mono (by rfl) <| (updBaseJob_only ..).trans <| bump_only ..

theorem layerSwap_only (s : State) (part : Nat) : Only [.dict, .parts, .bufs, .index, .host] s (layerSwap s part) := by
  unfold layerSwap
  split
  · exact .mono (by rfl) <| .refl _
  · split
    · exact .mono (by rfl) <| .refl _
    · exact .mono (by rfl) <| .ite (.refl _) (.ite (.ite (.refl _) ((turnLayer_only ..).trans <|
        .trans (.foldl (fun _ _ => writeTensor_only ..) _ _) <| (updBaseJob_only ..).trans <|
        releaseLayer_only ..)) ((turnLayer_only ..).trans <| (updBaseJob_only ..).trans <| readNext_only ..))

theorem finalSwap_only (s : State) (part : Nat) : Only [.fresh, .dict, .parts, .ctxs, .mbx, .win] s (finalSwap s part) := by
  unfold finalSwap
  split
  · exact .mono (by rfl) <| .refl _
  · exact .mono (by rfl) <| (updPart_only ..).trans <| (setBaseState_only ..).trans <| (dsetB_only ..).trans <|
      (dsetB_only ..).trans <| (bumpBaseGen_only ..).trans <| answerBase_only ..

theorem acceptTensor_only (s : State) (part : Nat) (b : BaseJob) (t : Tensor) (data : List Byte) :
    Only [.fresh, .dict, .tel, .cores, .queues, .jobs, .parts, .bufs, .index, .tiered, .ctxs, .sync, .mbx, .host, .win, .miss,
      .rel, .hbm, .hostOut] s (acceptTensor s part b t data) := by
  unfold acceptTensor
  extract_lets +onlyGivenNames b1 s2
  have h2 : Only [.parts] s s2 := .mono (by rfl) <| updBaseJob_only ..
  split
  · extract_lets +onlyGivenNames s3
    have h3 : Only [.parts, .bufs] s s3 := .mono (by rfl) <| h2.trans <| writeTensor_only ..
    exact .mono (by rfl) <| .ite (h3.trans <| readNext_only ..) (h3.trans <| releaseLayer_only ..)
  · exact .mono (by rfl) <| .ite (h2.trans <| publishBase_only ..) (h2.trans <| readNext_only ..)

theorem sendTensor_only (s : State) (b : BaseJob) (data : List Byte) : Only [.win] s (sendTensor s b data) := by
  unfold sendTensor
  exact .mono (by rfl) <| .ite (.refl _) (forwardTiles_only ..)

theorem tensorRead_only (s : State) (part : Nat) (ok : Bool) (data : List Byte) :
    Only [.fresh, .dict, .tel, .cores, .queues, .jobs, .parts, .bufs, .index, .tiered, .ctxs, .sync, .mbx, .host, .win, .miss,
      .rel, .hbm, .hostOut] s (tensorRead s part ok data) := by
  unfold tensorRead
  split
  · exact .mono (by rfl) <| .refl _
  · split
    · exact .mono (by rfl) <| .refl _
    · extract_lets +onlyGivenNames good1 s2
      have h2 : Only [.win] s s2 := .mono (by rfl) <| .ite (sendTensor_only ..) (.refl _)
      exact .mono (by rfl) <| .ite (h2.trans <| acceptTensor_only ..) (.ite (h2.trans <| (updBaseJob_only ..).trans <|
        readNext_only ..) (h2.trans <| baseFail_only ..))

theorem hostReadDone_only (s : State) (id : Nat) (ok : Bool) (data : List Byte) :
    Only [.fresh, .dict, .tel, .pins, .cores, .queues, .jobs, .parts, .bufs, .index, .tiered, .ctxs, .sync, .mbx, .host, .win,
      .miss, .rel, .hbm, .hostOut] s (hostReadDone s id ok data) := by
  unfold hostReadDone
  split
  · exact .mono (by rfl) <| .refl _
  · extract_lets +onlyGivenNames src1 s2
    have h2 : Only [.host] s s2 := .mono (by rfl) <| setHost_only _ _
    split
    · exact .mono (by rfl) <| h2.trans <| setHost_only _ _
    · split
      · exact .mono (by rfl) <| .trans (.ite (h2.trans <| journal_only ..) h2) <| tensorRead_only ..
      · extract_lets +onlyGivenNames src3 s4
        have h4 : Only [.host] s s4 := .mono (by rfl) <| h2.trans <| setHost_only _ _
        exact .mono (by rfl) <| .elim h4 (fun _ => h4.trans <| sendFlits_only ..)

theorem readTimeout_only (s : State) (id : Nat) :
    Only [.fresh, .dict, .tel, .pins, .cores, .queues, .jobs, .parts, .bufs, .index, .tiered, .ctxs, .sync, .mbx, .host, .win,
      .miss, .rel, .hbm, .hostOut] s (readTimeout s id) := by
  unfold readTimeout
  split
  · exact .mono (by rfl) <| .refl _
  · exact .mono (by rfl) <| .ite (setHost_only _ _) (hostReadDone_only ..)

theorem memberRefuse_only (s : State) (part op : Nat) (st : Status) :
    Only [.dict, .parts, .bufs, .index, .tiered, .ctxs, .mbx, .win, .rel] s (memberRefuse s part op st) := by
  unfold memberRefuse
  extract_lets +onlyGivenNames s1
  have h1 : Only [.win] s s1 := .mono (by rfl) <| reportBase_only ..
  exact .mono (by rfl) <| .ite h1 (h1.trans <| (freeBase_only ..).trans <| (noBase_only ..).trans <| (updPart_only ..).trans <|
    bumpBaseGen_only ..)

theorem memberBegin_only (s : State) (part op : Nat) (head : List Byte) :
    Only [.dict, .parts, .bufs, .index, .tiered, .ctxs, .mbx, .win, .rel] s (memberBegin s part op head) := by
  unfold memberBegin
  exact .mono (by rfl) <| .ite (.ite (memberRefuse_only ..) (beginReplace_only ..)) (.ite (memberRefuse_only ..) (beginLoad_only ..))

theorem memberTile_only (s : State) (part tensor tile : Nat) (data : List Byte) :
    Only [.fresh, .dict, .tel, .cores, .queues, .jobs, .parts, .bufs, .index, .tiered, .ctxs, .sync, .mbx, .win, .miss, .rel,
      .hbm, .hostOut] s (memberTile s part tensor tile data) := by
  unfold memberTile
  split
  · exact .mono (by rfl) <| .refl _
  · split
    · exact .mono (by rfl) <| .refl _
    · exact .mono (by rfl) <|
        .ite (updBaseJob_only ..) (.ite (.ite (baseFail_only ..) (updBaseJob_only ..)) (.ite (updBaseJob_only ..)
        (publishBase_only ..)))

theorem basePacket_only (s : State) (part tensor tile : Nat) (data : List Byte) :
    Only [.fresh, .dict, .tel, .pins, .cores, .queues, .jobs, .parts, .bufs, .index, .tiered, .ctxs, .sync, .mbx, .win, .miss,
      .rel, .hbm, .hostOut] s (basePacket s part tensor tile data) := by
  unfold basePacket
  extract_lets +onlyGivenNames head1 s2 s3
  have h2 : Only [.dict, .tel, .pins, .hostOut] s s2 := .mono (by rfl) <| journalArrival_only ..
  have h3 : Only [.dict, .tel, .pins, .hostOut, .win] s s3 := .mono (by rfl) <| h2.trans <| forwardTiles_only ..
  exact .mono (by rfl) <| .ite h3 (.ite (h3.trans <| memberBegin_only ..) (h3.trans <| memberTile_only ..))

theorem baseMulticast_only (s : State) (part tensor tile : Nat) (data : List Byte) :
    Only [.fresh, .dict, .tel, .pins, .cores, .queues, .jobs, .parts, .bufs, .index, .tiered, .ctxs, .sync, .mbx, .win, .miss,
      .rel, .hbm, .hostOut] s (baseMulticast s part tensor tile data) := by
  unfold baseMulticast
  extract_lets +onlyGivenNames head1 s2
  have h2 : Only [.win] s s2 := .mono (by rfl) <| takeFlits_only ..
  split
  · exact .mono (by rfl) <| h2.trans <| basePacket_only ..
  · split
    next heq =>
      have h3 : Only [.win, .dict, .jobs] s _ := (Only.of_fst (h2.trans <| replayInput_only ..) heq).mono (by rfl)
      exact .mono (by rfl) <| h3.trans <| basePacket_only ..
    next heq =>
      have h3 : Only [.win, .dict, .jobs] s _ := (Only.of_fst (h2.trans <| replayInput_only ..) heq).mono (by rfl)
      exact .mono (by rfl) <| h3.trans <| holdInput_only ..

theorem hostProxy_only (s : State) (member addr : Nat) (data : Option (List Byte)) (len : Nat) :
    Only [.host, .win, .hostOut] s (hostProxy s member addr data len) := by
  unfold hostProxy
  extract_lets +onlyGivenNames s1 src2 s3
  have h1 : Only [.win] s s1 := .mono (by rfl) <| .elim (.refl _) (fun _ => takeFlits_only ..)
  have h3 : Only [.win, .host] s s3 := .mono (by rfl) <| h1.trans <| setHost_only _ _
  split
  · exact .mono (by rfl) <| h3.trans <| hostWrite_only ..
  · exact .mono (by rfl) <| h3.trans <| issueRead_only ..

theorem execBaseLoad_only (fn : Nat) (head : List Byte) (s : State) :
    Answers [.dict, .parts, .bufs, .index, .tiered, .mbx, .host, .rel] s (execBaseLoad fn head s) := by
  unfold execBaseLoad
  exact Only.answers (.mono (by rfl) <| onMessage_only fun _ _ => loadBase_only ..)

theorem execBaseReplace_only (fn : Nat) (head : List Byte) (s : State) :
    Answers [.dict, .parts, .bufs, .index, .tiered, .mbx, .host, .rel] s (execBaseReplace fn head s) := by
  unfold execBaseReplace
  exact Only.answers (.mono (by rfl) <| onMessage_only fun _ _ => replaceBase_only ..)

theorem execBaseReplaceAbort_only (fn : Nat) (s : State) :
    Answers [.fresh, .dict, .parts, .mbx, .win] s (execBaseReplaceAbort fn s) := by
  unfold execBaseReplaceAbort
  exact Only.answers (.mono (by rfl) <| onMessage_only fun _ _ => abortReplace_only ..)

theorem execLayerSwap_only (part : Nat) (s : State) :
    Answers [.dict, .parts, .bufs, .index, .host] s (execLayerSwap part s) := by
  unfold execLayerSwap
  exact Only.answers (.mono (by rfl) <| layerSwap_only ..)

theorem execFinalSwapBarrier_only (part : Nat) (s : State) :
    Answers [.fresh, .dict, .parts, .ctxs, .mbx, .win] s (execFinalSwapBarrier part s) := by
  unfold execFinalSwapBarrier
  exact Only.answers (.mono (by rfl) <| finalSwap_only ..)

theorem execBaseTileMulticast_only (part tensor tile : Nat) (data : List Byte) (s : State) :
    Answers [.now, .fresh, .dict, .tel, .pins, .cores, .queues, .jobs, .parts, .bufs, .index, .tiered, .ctxs, .sync, .mbx,
      .win, .miss, .rel, .hbm, .hostOut] s (execBaseTileMulticast part tensor tile data s) := by
  unfold execBaseTileMulticast
  exact Only.answers (.mono (by rfl) <| (settle_only ..).trans <| baseMulticast_only ..)

theorem execHostProxy_only (member addr : Nat) (data : Option (List Byte)) (len : Nat) (s : State) :
    Answers [.host, .win, .hostOut] s (execHostProxy member addr data len s) := by
  unfold execHostProxy
  exact Only.answers (.mono (by rfl) <| hostProxy_only ..)

/-! ## Tiered objects -/

theorem putTiered_only (s : State) (key : Nat) (t : Tiered) : Only [.tiered] s (putTiered s key t) := by
  unfold putTiered
  exact .mono (by rfl) <| setTiered_only _ _

theorem completeAll_only (s : State) (part : Nat) (l : List PlaceReq) (st : Status) (done : Nat) :
    Only [.dict, .mbx] s (completeAll s part l st done) := by
  unfold completeAll
  exact .mono (by rfl) <| .foldl (fun _ _ => placementDone_only ..) _ _

theorem placeAnswer_only (s : State) (part key : Nat) (r : PlaceReq) (st : Status) :
    Only [.dict, .mbx] s (placeAnswer s part key r st) := by
  unfold placeAnswer
  exact .mono (by rfl) <| placementDone_only ..

theorem placeChange_only (s : State) (part key : Nat) (r : PlaceReq) (st : TierState) :
    Only [.dict, .tiered, .mbx] s (placeChange s part key r st) := by
  unfold placeChange
  exact .mono (by rfl) <| (putTiered_only ..).trans <| placementDone_only ..

theorem promoteAbsent_only (s : State) (part key : Nat) (r : PlaceReq) :
    Only [.fresh, .dict, .parts, .tiered, .mbx] s (promoteAbsent s part key r) := by
  unfold promoteAbsent
  exact .mono (by rfl) <| .ite (placeAnswer_only ..) (.ite ((setFresh_only _ _).trans <|
    placeAnswer_only ..) ((charge_only ..).trans <| (setFresh_only _ _).trans <| putTiered_only ..))

theorem promoteEvicting_only (s : State) (part key : Nat) (r : PlaceReq) :
    Only [.dict, .parts, .tiered, .mbx] s (promoteEvicting s part key r) := by
  unfold promoteEvicting
  exact .mono (by rfl) <| .ite (placeAnswer_only ..) ((uncharge_only ..).trans <| (charge_only ..).trans <|
    (putTiered_only ..).trans <| (completeAll_only ..).trans <| placementDone_only ..)

theorem joinCurrent_only (s : State) (key : Nat) (r : PlaceReq) : Only [.tiered] s (joinCurrent s key r) := by
  unfold joinCurrent
  exact .mono (by rfl) <| putTiered_only ..

theorem placeWait_only (s : State) (key : Nat) (r : PlaceReq) : Only [.tiered] s (placeWait s key r) := by
  unfold placeWait
  exact .mono (by rfl) <| putTiered_only ..

theorem placeRow_only (s : State) (part key : Nat) (r : PlaceReq) :
    Only [.fresh, .dict, .parts, .tiered, .mbx] s (placeRow s part key r) := by
  unfold placeRow
  extract_lets +onlyGivenNames src1 t2 s3
  have h3 : Only [.tiered] s s3 := .mono (by rfl) <| putTiered_only ..
  split
  · exact .mono (by rfl) <| h3.trans <| promoteAbsent_only ..
  · exact .mono (by rfl) <| h3.trans <| placeAnswer_only ..
  · exact .mono (by rfl) <| h3.trans <| placeAnswer_only ..
  · exact .mono (by rfl) <| h3.trans <| placeAnswer_only ..
  · exact .mono (by rfl) <| h3.trans <| joinCurrent_only ..
  · exact .mono (by rfl) <| h3.trans <| placeWait_only ..
  · exact .mono (by rfl) <| h3.trans <| placeAnswer_only ..
  · exact .mono (by rfl) <| h3.trans <| putTiered_only ..
  · exact .mono (by rfl) <| h3.trans <| placeChange_only ..
  · exact .mono (by rfl) <| h3.trans <| placeAnswer_only ..
  · exact .mono (by rfl) <| .ite (h3.trans <| placeWait_only ..) (h3.trans <| promoteEvicting_only ..)
  · exact .mono (by rfl) <| h3.trans <| joinCurrent_only ..
  · exact .mono (by rfl) <| h3.trans <| placeWait_only ..
  · exact .mono (by rfl) <| h3.trans <| placeAnswer_only ..
  · exact .mono (by rfl) <| h3.trans <| placeChange_only ..
  · exact .mono (by rfl) <| h3.trans <| placeAnswer_only ..

theorem serveWaiters_only (s : State) (part key fuel : Nat) :
    Only [.fresh, .dict, .parts, .tiered, .mbx] s (serveWaiters s part key fuel) := by
  induction fuel generalizing s with
  | zero => exact .mono (by rfl) <| .refl _
  | succ n ih =>
    unfold serveWaiters
    exact .mono (by rfl) <| .ite (.refl _) ((putTiered_only ..).trans <| .trans (.foldl (fun _ _ => placeRow_only ..) _ _) <| ih ..)

theorem serveAll_only (s : State) (part key : Nat) : Only [.fresh, .dict, .parts, .tiered, .mbx] s (serveAll s part key) := by
  unfold serveAll
  exact .mono (by rfl) <| serveWaiters_only ..

theorem placeRequest_only (s : State) (fn : Nat) (m : MboxMsg) :
    Only [.fresh, .dict, .queues, .parts, .tiered, .mbx] s (placeRequest s fn m) := by
  unfold placeRequest
  extract_lets +onlyGivenNames b1 q2 h3
  split
  · exact .mono (by rfl) <| answer_only ..
  · split
    · exact .mono (by rfl) <| answer_only ..
    · extract_lets +onlyGivenNames st4
      split
      · exact .mono (by rfl) <| answer_only ..
      · split
        · extract_lets +onlyGivenNames s5
          have h5 : Only [.mbx] s s5 := .mono (by rfl) <| answer_only ..
          exact .mono (by rfl) <| .ite (h5.trans <| offence_only ..) h5
        · exact .mono (by rfl) <| .ite (answer_only ..) ((bump_only ..).trans <| (placeRow_only ..).trans <| serveAll_only ..)

theorem copyBytes_only (s : State) (part addr n : Nat) : Only [.dict] s (copyBytes s part addr n) := by
  unfold copyBytes
  exact .mono (by rfl) <| .foldl (fun _ _ => bump_only ..) _ _

theorem promoteDone_only (s : State) (part index : Nat) :
    Only [.fresh, .dict, .parts, .tiered, .mbx] s (promoteDone s part index) := by
  unfold promoteDone
  exact .mono (by rfl) <| .ite (.refl _) ((copyBytes_only ..).trans <| (putTiered_only ..).trans <| (completeAll_only ..).trans <|
    serveAll_only ..)

theorem dropCopy_only (s : State) (part key : Nat) (st : Status) :
    Only [.fresh, .dict, .parts, .tiered, .mbx] s (dropCopy s part key st) := by
  unfold dropCopy
  exact .mono (by rfl) <| (uncharge_only ..).trans <| (putTiered_only ..).trans <| (completeAll_only ..).trans <| serveAll_only ..

theorem copyFails_only (s : State) (part key : Nat) (st : Status) :
    Only [.fresh, .dict, .parts, .tiered, .mbx] s (copyFails s part key st) := by
  unfold copyFails
  exact .mono (by rfl) <| .ite (.refl _) (.ite (dropCopy_only ..) (.ite ((putTiered_only ..).trans <| (completeAll_only ..).trans <|
    serveAll_only ..) (.refl _)))

theorem beginWriteBack_only (s : State) (part index : Nat) :
    Only [.fresh, .dict, .parts, .tiered, .mbx] s (beginWriteBack s part index) := by
  unfold beginWriteBack
  extract_lets +onlyGivenNames key1 t2
  split
  · exact .mono (by rfl) <| .refl _
  · split
    · extract_lets +onlyGivenNames src3 s4
      have h4 : Only [.tiered] s s4 := .mono (by rfl) <| putTiered_only ..
      exact .mono (by rfl) <| .ite (h4.trans <| copyFails_only ..) h4
    · exact .mono (by rfl) <| dropCopy_only ..

theorem endWriteBack_only (s : State) (part index : Nat) :
    Only [.fresh, .dict, .parts, .bufs, .tiered, .mbx] s (endWriteBack s part index) := by
  unfold endWriteBack
  exact .mono (by rfl) <| .ite (.refl _) ((copyBytes_only ..).trans <| (setBufs_only _ _).trans <| dropCopy_only ..)

theorem onPlacement_only (s : State) (fn op : Nat) :
    Only [.fresh, .dict, .queues, .parts, .tiered, .mbx] s (onPlacement s fn op) := by
  unfold onPlacement
  split
  · exact .mono (by rfl) <| .refl _
  · exact .mono (by rfl) <| .ite (.refl _) (onMessage_only fun _ _ => placeRequest_only ..)

theorem execPromote_only (fn : Nat) (s : State) :
    Answers [.fresh, .dict, .queues, .parts, .tiered, .mbx] s (execPromote fn s) := by
  unfold execPromote
  exact Only.answers (.mono (by rfl) <| onPlacement_only ..)

theorem execEvict_only (fn : Nat) (s : State) : Answers [.fresh, .dict, .queues, .parts, .tiered, .mbx] s (execEvict fn s) := by
  unfold execEvict
  exact Only.answers (.mono (by rfl) <| onPlacement_only ..)

theorem execPin_only (fn : Nat) (s : State) : Answers [.fresh, .dict, .queues, .parts, .tiered, .mbx] s (execPin fn s) := by
  unfold execPin
  exact Only.answers (.mono (by rfl) <| onPlacement_only ..)

theorem execUnpin_only (fn : Nat) (s : State) : Answers [.fresh, .dict, .queues, .parts, .tiered, .mbx] s (execUnpin fn s) := by
  unfold execUnpin
  exact Only.answers (.mono (by rfl) <| onPlacement_only ..)

theorem execPromoteCopyDone_only (part index : Nat) (s : State) :
    Answers [.fresh, .dict, .parts, .tiered, .mbx] s (execPromoteCopyDone part index s) := by
  unfold execPromoteCopyDone
  exact Only.answers (.mono (by rfl) <| promoteDone_only ..)

theorem execWriteBackStart_only (part index : Nat) (s : State) :
    Answers [.fresh, .dict, .parts, .tiered, .mbx] s (execWriteBackStart part index s) := by
  unfold execWriteBackStart
  exact Only.answers (.mono (by rfl) <| beginWriteBack_only ..)

theorem execWriteBackDone_only (part index : Nat) (s : State) :
    Answers [.fresh, .dict, .parts, .bufs, .tiered, .mbx] s (execWriteBackDone part index s) := by
  unfold execWriteBackDone
  exact Only.answers (.mono (by rfl) <| endWriteBack_only ..)

/-! ## Errors -/

theorem inventoryChange_only (s : State) (detail : Nat) : Only [.dict, .tel, .pins] s (inventoryChange s detail) := by
  unfold inventoryChange
  exact .mono (by rfl) <| alarm_only ..

theorem inventoryCores_only (s : State) : Only [.dict] s (inventoryCores s) := by
  unfold inventoryCores
  exact .mono (by rfl) <| (dset_only ..).trans <| dset_only ..

theorem coreOut_only (s : State) (core : Nat) : Only [.dict, .cores] s (coreOut s core) := by
  unfold coreOut
  exact .mono (by rfl) <| (updCore_only ..).trans <| (dset_only ..).trans <| inventoryCores_only ..

theorem loseStore_only (s : State) (core : Nat) : Only [.fresh, .bufs] s (loseStore s core) := by
  unfold loseStore
  exact .mono (by rfl) <| .foldl (fun _ _ => (drawn_only ..).trans <| setBufs_only _ _) _ _

theorem strikeCore_only (s : State) (core : Nat) :
    Only [.dict, .tel, .cores, .queues, .jobs, .parts, .bufs, .tiered, .sync, .reds, .win, .miss, .rel, .hbm,
      .hostOut] s (strikeCore s core) := by
  unfold strikeCore
  exact .mono (by rfl) <| .trans (.foldl (fun _ _ => .ite (strikeQueue_only ..) (.refl _)) _ _) <|
    .foldl (fun _ _ => stopQueue_only ..) _ _

theorem wakeSpare_only (s : State) (core : Nat) : Only [.dict, .clusters, .cores] s (wakeSpare s core) := by
  unfold wakeSpare
  exact .mono (by rfl) <| (updCore_only ..).trans <| requestWake_only ..

theorem spareGone_only (s : State) (c : Nat) : Only [.dict, .clusters] s (spareGone s c) := by
  unfold spareGone
  exact .mono (by rfl) <| (updCluster_only ..).trans <| dset_only ..

theorem declareDead_only (s : State) (core : Nat) :
    Only [.fresh, .dict, .tel, .pins, .clusters, .cores, .queues, .jobs, .parts, .bufs, .tiered, .sync, .reds, .win, .miss,
      .rel, .hbm, .hostOut] s (declareDead s core) := by
  unfold declareDead
  extract_lets +onlyGivenNames c1 k2 cl3
  split
  · exact .mono (by rfl) <| .refl _
  · extract_lets +onlyGivenNames s4 s5 s6
    have h4 : Only [.clusters] s s4 := .mono (by rfl) <| updCluster_only ..
    have h5 : Only [.clusters, .fresh, .dict, .tel, .pins, .cores, .queues, .jobs, .parts, .bufs, .tiered, .sync, .reds, .win,
      .miss, .rel, .hbm, .hostOut] s s5 := .mono (by rfl) <| h4.trans <| (alarmLog_only ..).trans <| strikeCore_only ..
    have h6 : Only [.clusters, .fresh, .dict, .tel, .pins, .cores, .queues, .jobs, .parts, .bufs, .tiered, .sync, .reds, .win,
      .miss, .rel, .hbm, .hostOut] s s6 := .mono (by rfl) <| h5.trans <| loseStore_only ..
    split
    · exact .mono (by rfl) <| h6.trans <| (updCluster_only ..).trans <| wakeSpare_only ..
    · extract_lets +onlyGivenNames served8 s9 s10 s11
      have h9 : Only [.clusters, .fresh, .dict, .tel, .pins, .cores, .queues, .jobs, .parts, .bufs, .tiered, .sync, .reds,
        .win, .miss, .rel, .hbm, .hostOut] s s9 := .mono (by rfl) <| .ite (h6.trans <| dset_only ..) h6
      have h10 : Only [.clusters, .fresh, .dict, .tel, .pins, .cores, .queues, .jobs, .parts, .bufs, .tiered, .sync, .reds,
        .win, .miss, .rel, .hbm, .hostOut] s s10 := .mono (by rfl) <| .ite (h9.trans <| spareGone_only ..) h9
      have h11 : Only [.clusters, .fresh, .dict, .tel, .pins, .cores, .queues, .jobs, .parts, .bufs, .tiered, .sync, .reds,
        .win, .miss, .rel, .hbm, .hostOut] s s11 := .mono (by rfl) <| .ite (h10.trans <| zeroingDone_only ..) h10
      exact .mono (by rfl) <| h11.trans <| (alarmLog_only ..).trans <| (coreOut_only ..).trans <| inventoryChange_only ..

theorem takeIdentity_only (s : State) (core : Nat) : Only [.dict, .tel, .pins, .clusters] s (takeIdentity s core) := by
  unfold takeIdentity
  exact .mono (by rfl) <| (dset_only ..).trans <| (dset_only ..).trans <| (dset_only ..).trans <| (updCluster_only ..).trans <|
    inventoryChange_only ..

theorem coreZeroed_only (s : State) (core : Nat) :
    Only [.dict, .tel, .pins, .clusters, .cores, .jobs, .bufs, .rel] s (coreZeroed s core) := by
  unfold coreZeroed
  extract_lets +onlyGivenNames k1
  split
  · exact .mono (by rfl) <| .refl _
  · extract_lets +onlyGivenNames s2
    have h2 : Only [.rel] s s2 := .mono (by rfl) <| clearPoison_only ..
    split
    · extract_lets +onlyGivenNames s3
      have h3 : Only [.rel, .cores, .bufs, .dict, .tel, .pins, .clusters] s s3 := .mono (by rfl) <| h2.trans <|
        (zeroStore_only ..).trans <| takeIdentity_only ..
      split
      · exact .mono (by rfl) <| .ite (h3.trans <| zeroingDone_only ..) (h3.trans <| updCore_only ..)
      · exact .mono (by rfl) <| h3.trans <| zeroingDone_only ..
    · exact .mono (by rfl) <| h2.trans <| zeroingDone_only ..

theorem repeatTakeover_only (s : State) (c : Nat) :
    Only [.dict, .tel, .clusters, .cores, .queues, .jobs, .parts, .bufs, .tiered, .sync, .reds, .win, .miss, .rel, .hbm,
      .hostOut] s (repeatTakeover s c) := by
  unfold repeatTakeover
  split
  · exact .mono (by rfl) <| .refl _
  · exact .mono (by rfl) <| (strikeCore_only ..).trans <| wakeSpare_only ..

theorem noteFaultKill_only (s : State) (core : Nat) :
    Only [.fresh, .dict, .tel, .pins, .clusters, .cores, .queues, .jobs, .parts, .bufs, .tiered, .sync, .reds, .win, .miss,
      .rel, .hbm, .hostOut] s (noteFaultKill s core) := by
  unfold noteFaultKill
  extract_lets +onlyGivenNames l1 s2 s3
  have h2 : Only [.cores] s s2 := .mono (by rfl) <| updCore_only ..
  have h3 : Only [.cores, .dict] s s3 := .mono (by rfl) <| h2.trans <| bump_only ..
  exact .mono (by rfl) <| .ite (h3.trans <| declareDead_only ..) h3

theorem kill_only (s : State) (q : Nat) (kind : KillKind) :
    Only [.fresh, .dict, .tel, .pins, .clusters, .cores, .queues, .jobs, .parts, .bufs, .tiered, .sync, .reds, .win, .miss,
      .rel, .hbm, .hostOut] s (kill s q kind) := by
  unfold kill
  extract_lets +onlyGivenNames core1 s2
  have h2 : Only [.dict, .tel, .cores, .queues, .jobs, .parts, .bufs, .tiered, .sync, .reds, .win, .miss, .rel, .hbm,
    .hostOut] s s2 := .mono (by rfl) <| killQueue_only ..
  clear_value core1
  split
  · exact .mono (by rfl) <| h2.trans <| noteFaultKill_only ..
  · exact .mono (by rfl) <| h2

theorem corrected_only (s : State) (u : MemUnit) : Only [.fresh, .dict, .tel, .pins, .rel] s (corrected s u) := by
  unfold corrected
  split
  · extract_lets +onlyGivenNames key1 l2 src3 s4 s5
    have h4 : Only [.rel, .dict] s s4 := .mono (by rfl) <| (setRel_only _ _).trans <| bump_only ..
    have h5 : Only [.rel, .dict] s s5 := by
      simp only [s5]
      split
      · exact .mono (by rfl) <| h4.trans <| bump_only ..
      · exact .mono (by rfl) <| h4
    exact .mono (by rfl) <| .ite (h5.trans <| alarmLog_only ..) (h5.trans <| detectFree_only ..)

theorem scrubRow_only (u : MemUnit) (s : State) (row : Nat) : Only [.rel] s (scrubRow u s row) := by
  unfold scrubRow
  exact .mono (by rfl) <| .ite (setRel_only _ _) (.ite (.refl _) (setRel_only _ _))

theorem scrub_only (s : State) (u : MemUnit) (rows : List Nat) (seconds : Nat) :
    Only [.fresh, .dict, .tel, .pins, .rel] s (scrub s u rows seconds) := by
  unfold scrub
  split
  · extract_lets +onlyGivenNames src1 s3
    have h3 : Only [.rel, .dict] s s3 := by
      simp only [s3]
      split
      · exact .mono (by rfl) <| .refl _
      · exact .mono (by rfl) <| .trans (.foldl (fun _ _ => scrubRow_only ..) _ _) <| (dset_only ..).trans <| dset_only ..
    exact .mono (by rfl) <| .ite (h3.trans <| alarmLog_only ..) h3

theorem poisonWord_only (s : State) (word : Option (Nat × Nat × Nat)) (p : Buf → Bool) :
    Only [.rel] s (poisonWord s word p) := by
  unfold poisonWord
  split
  · exact .mono (by rfl) <| .refl _
  · exact .mono (by rfl) <| .ite (setRel_only _ _) (.refl _)

theorem uncorrectable_only (s : State) (core : Nat) (q : Option Nat) (word : Option (Nat × Nat × Nat)) :
    Only [.fresh, .dict, .tel, .pins, .clusters, .cores, .queues, .jobs, .parts, .bufs, .tiered, .sync, .reds, .win, .miss,
      .rel, .hbm, .hostOut] s (uncorrectable s core q word) := by
  unfold uncorrectable
  extract_lets +onlyGivenNames s1 s2
  have h1 : Only [.dict, .fresh, .tel, .pins] s s1 := .mono (by rfl) <| (bump_only ..).trans <| alarmLog_only ..
  have h2 : Only [.dict, .fresh, .tel, .pins, .rel] s s2 := .mono (by rfl) <| h1.trans <| poisonWord_only ..
  split
  · exact .mono (by rfl) <| h2
  · exact .mono (by rfl) <| .ite (h2.trans <| (killQueue_only ..).trans <| noteFaultKill_only ..) h2

theorem failTransfers_only (s : State) :
    Only [.fresh, .dict, .tel, .cores, .queues, .jobs, .parts, .bufs, .tiered, .sync, .mbx, .miss, .rel, .hbm,
      .hostOut] s (failTransfers s) := by
  unfold failTransfers
  extract_lets +onlyGivenNames s1
  have h1 : Only [.dict, .tel, .cores, .queues, .jobs, .parts, .bufs, .tiered, .sync, .miss, .rel, .hbm, .hostOut] s s1 := by
    simp only [s1]
    refine .mono (by rfl) <|
      .foldl (F := [.dict, .tel, .cores, .queues, .jobs, .parts, .bufs, .tiered, .sync, .miss, .rel, .hbm,
      .hostOut]) (fun t _ => ?_) _ _
    split
    · exact .mono (by rfl) <| .refl _
    · exact .mono (by rfl) <| fail_only ..
  exact .mono (by rfl) <| h1.trans <| .foldl (fun _ _ => .ite (copyFails_only ..) (.refl _)) _ _

theorem channelOut_only (s : State) (u : MemUnit) :
    Only [.fresh, .dict, .tel, .pins, .cores, .queues, .jobs, .parts, .bufs, .tiered, .sync, .mbx, .miss, .rel, .hbm,
      .hostOut] s (channelOut s u) := by
  unfold channelOut
  extract_lets +onlyGivenNames src1 s7
  have h7 : Only [.rel, .dict] s s7 := by
    unfold s7
    split
    · exact .mono (by rfl) <| .refl _
    · extract_lets +onlyGivenNames quarter2 s3 out4 s5
      have h3 : Only [.rel] s s3 := .mono (by rfl) <| setRel_only _ _
      have h5 : Only [.rel, .dict] s s5 := .mono (by rfl) <| h3.trans <| dset_only ..
      exact .mono (by rfl) <| .ite (h5.trans <| dset_only ..) h5
    · exact .mono (by rfl) <| (setRel_only _ _).trans <| dset_only ..
  exact .mono (by rfl) <| h7.trans <| (alarmLog_only ..).trans <| (inventoryChange_only ..).trans <| failTransfers_only ..

theorem channelError_only (s : State) (u : MemUnit) :
    Only [.fresh, .dict, .tel, .pins, .cores, .queues, .jobs, .parts, .bufs, .tiered, .sync, .mbx, .miss, .rel, .hbm,
      .hostOut] s (channelError s u) := by
  unfold channelError
  split
  · exact .mono (by rfl) <| .refl _
  · split
    · extract_lets +onlyGivenNames key1 l2 s3 src4 s5
      have h3 : Only [.dict, .fresh, .tel, .pins] s s3 := .mono (by rfl) <| (bump_only ..).trans <| alarmLog_only ..
      have h5 : Only [.dict, .fresh, .tel, .pins, .rel] s s5 := .mono (by rfl) <| h3.trans <| setRel_only _ _
      exact .mono (by rfl) <| .ite (h5.trans <| channelOut_only ..) h5

theorem lowerRead_only (s : State) (read : LowerRead) :
    Only [.fresh, .dict, .tel, .cores, .queues, .jobs, .parts, .bufs, .tiered, .sync, .mbx, .miss, .rel, .hbm,
      .hostOut] s (lowerRead s read) := by
  unfold lowerRead
  split
  · split
    · exact .mono (by rfl) <| .refl _
    · exact .mono (by rfl) <| fail_only ..
  · exact .mono (by rfl) <| .ite (copyFails_only ..) (.refl _)
  · exact .mono (by rfl) <| .ite (copyFails_only ..) (.refl _)

theorem uncorrectableLower_only (s : State) (read : LowerRead) (u : MemUnit) (word : Option (Nat × Nat × Nat)) :
    Only [.fresh, .dict, .tel, .pins, .cores, .queues, .jobs, .parts, .bufs, .tiered, .sync, .mbx, .miss, .rel, .hbm,
      .hostOut] s (uncorrectableLower s read u word) := by
  unfold uncorrectableLower
  exact .mono (by rfl) <| (poisonWord_only ..).trans <| (lowerRead_only ..).trans <| channelError_only ..

theorem clusterOut_only (s : State) (c : Nat) :
    Only [.dict, .tel, .pins, .clusters, .cores, .queues, .jobs, .parts, .bufs, .tiered, .sync, .reds, .win, .miss, .rel,
      .hbm, .hostOut] s (clusterOut s c) := by
  unfold clusterOut
  exact .mono (by rfl) <| .ite (.refl _) ((updCluster_only ..).trans <| (spareGone_only ..).trans <|
    .trans (.foldl (fun _ _ => .ite (strikeQueue_only ..) (.refl _)) _ _) <|
    .trans (.foldl (fun _ _ => .trans (.ite (zeroingDone_only ..) (.refl _)) <| coreOut_only ..) _ _) <|
    inventoryChange_only ..)

theorem checkReach_only (s : State) :
    Only [.dict, .tel, .pins, .clusters, .cores, .queues, .jobs, .parts, .bufs, .tiered, .sync, .reds, .win, .miss, .rel,
      .hbm, .hostOut] s (checkReach s) := by
  unfold checkReach
  exact .mono (by rfl) <| .foldl (fun _ _ => .ite (.refl _) (clusterOut_only ..)) _ _

theorem linkLoss_only (s : State) (link module lanes : Nat) :
    Only [.fresh, .dict, .tel, .pins, .clusters, .cores, .queues, .jobs, .parts, .bufs, .tiered, .sync, .reds, .win, .miss,
      .rel, .hbm, .hostOut] s (linkLoss s link module lanes) := by
  unfold linkLoss
  exact .mono (by rfl) <| .ite (.refl _) (.ite ((setRel_only _ _).trans <| bump_only ..) ((dset_only ..).trans <|
    (dset_only ..).trans <| (alarmLog_only ..).trans <| (inventoryChange_only ..).trans <| checkReach_only ..))

theorem watchdog_only (s : State) (who : Watchdog) :
    Only [.fresh, .dict, .tel, .pins, .clusters, .cores, .queues, .jobs, .parts, .bufs, .tiered, .sync, .reds, .win, .miss,
      .lease, .rel, .hbm, .hostOut] s (watchdog s who) := by
  unfold watchdog
  split
  · extract_lets +onlyGivenNames s1
    have h1 : Only [.fresh, .dict, .tel] s s1 := .mono (by rfl) <| detectFree_only ..
    split
    · exact .mono (by rfl) <| h1.trans <| setLease_only _ _
    · exact .mono (by rfl) <| h1.trans <| setLease_only _ _
  · extract_lets +onlyGivenNames n2 s3
    have h3 : Only [.fresh, .dict, .tel, .cores, .queues, .jobs, .parts, .bufs, .tiered, .sync, .reds, .win, .miss, .rel,
      .hbm, .hostOut] s s3 := .mono (by rfl) <| (detectFree_only ..).trans <| (killOnCores_only ..).trans <| bump_only ..
    split
    · exact .mono (by rfl) <| h3
    · extract_lets +onlyGivenNames l4 s5
      have h5 : Only [.fresh, .dict, .tel, .cores, .queues, .jobs, .parts, .bufs, .tiered, .sync, .reds, .win, .miss, .rel,
        .hbm, .hostOut, .clusters] s s5 := .mono (by rfl) <| h3.trans <| updCluster_only ..
      exact .mono (by rfl) <| .ite (h5.trans <| clusterOut_only ..) h5

theorem heartbeatLoss_only (s : State) (core : Nat) :
    Only [.fresh, .dict, .tel, .pins, .clusters, .cores, .queues, .jobs, .parts, .bufs, .tiered, .sync, .reds, .win, .miss,
      .rel, .hbm, .hostOut] s (heartbeatLoss s core) := by
  unfold heartbeatLoss
  exact .mono (by rfl) <| declareDead_only ..

theorem execKill_only (q : Nat) (kind : KillKind) (s : State) :
    Answers [.fresh, .dict, .tel, .pins, .clusters, .cores, .queues, .jobs, .parts, .bufs, .tiered, .sync, .reds, .win, .miss,
      .rel, .hbm, .hostOut] s (execKill q kind s) := by
  unfold execKill
  exact Only.answers (.mono (by rfl) <| kill_only ..)

theorem execCorrectedError_only (unit : MemUnit) (s : State) :
    Answers [.fresh, .dict, .tel, .pins, .rel] s (execCorrectedError unit s) := by
  unfold execCorrectedError
  exact Only.answers (.mono (by rfl) <| corrected_only ..)

theorem execUncorrectableError_only (core : Nat) (q : Option Nat) (word : Option (Nat × Nat × Nat)) (s : State) :
    Answers [.fresh, .dict, .tel, .pins, .clusters, .cores, .queues, .jobs, .parts, .bufs, .tiered, .sync, .reds, .win, .miss,
      .rel, .hbm, .hostOut] s (execUncorrectableError core q word s) := by
  unfold execUncorrectableError
  exact Only.answers (.mono (by rfl) <| uncorrectable_only ..)

theorem execUncorrectableReadLowerTier_only (read : LowerRead) (unit : MemUnit) (word : Option (Nat × Nat × Nat)) (s : State) :
    Answers [.fresh, .dict, .tel, .pins, .cores, .queues, .jobs, .parts, .bufs, .tiered, .sync, .mbx, .miss, .rel, .hbm,
      .hostOut] s (execUncorrectableReadLowerTier read unit word s) := by
  unfold execUncorrectableReadLowerTier
  exact Only.answers (.mono (by rfl) <| uncorrectableLower_only ..)

theorem execCoreHeartbeatLoss_only (core : Nat) (s : State) :
    Answers [.fresh, .dict, .tel, .pins, .clusters, .cores, .queues, .jobs, .parts, .bufs, .tiered, .sync, .reds, .win, .miss,
      .rel, .hbm, .hostOut] s (execCoreHeartbeatLoss core s) := by
  unfold execCoreHeartbeatLoss
  exact Only.answers (.mono (by rfl) <| heartbeatLoss_only ..)

theorem execWatchdogExpiry_only (who : Watchdog) (s : State) :
    Answers [.fresh, .dict, .tel, .pins, .clusters, .cores, .queues, .jobs, .parts, .bufs, .tiered, .sync, .reds, .win, .miss,
      .lease, .rel, .hbm, .hostOut] s (execWatchdogExpiry who s) := by
  unfold execWatchdogExpiry
  exact Only.answers (.mono (by rfl) <| watchdog_only ..)

theorem execScrubPass_only (unit : MemUnit) (rows : List Nat) (seconds : Nat) (s : State) :
    Answers [.fresh, .dict, .tel, .pins, .rel] s (execScrubPass unit rows seconds s) := by
  unfold execScrubPass
  exact Only.answers (.mono (by rfl) <| scrub_only ..)

theorem execCrookLinkLoss_only (loss : CrookLoss) (s : State) :
    Answers [.fresh, .dict, .tel, .pins, .clusters, .cores, .queues, .jobs, .parts, .bufs, .tiered, .sync, .reds, .win, .miss,
      .rel, .hbm, .hostOut] s (execCrookLinkLoss loss s) := by
  unfold execCrookLinkLoss
  exact Only.answers (.mono (by rfl) <| linkLoss_only ..)

theorem execCoreZeroingDone_only (core : Nat) (s : State) :
    Answers [.dict, .tel, .pins, .clusters, .cores, .jobs, .bufs, .rel] s (execCoreZeroingDone core s) := by
  unfold execCoreZeroingDone
  exact Only.answers (.mono (by rfl) <| coreZeroed_only ..)

/-! ## The leader lease -/

theorem endSession_only (s : State) (id : Nat) : Only [.tel, .sec] s (endSession s id) := by
  unfold endSession
  exact .mono (by rfl) <| setTelSec_only _ _ _ (by rfl)

theorem dropRequests_only (s : State) : Only [.tel, .sec, .parts] s (dropRequests s) := by
  unfold dropRequests
  exact .mono (by rfl) <| (setTelSec_only _ _ _ (by rfl)).trans <| setParts_only _ _

theorem forgetAll_only (s : State) (p : EngineUse → Bool) : Only [.sec] s (forgetAll s p) := by
  unfold forgetAll
  exact .mono (by rfl) <| (updEngine_only ..).trans <| updEngine_only ..

theorem abandonKeys_only (s : State) : Only [.mbx] s (abandonKeys s) := by
  unfold abandonKeys
  exact .mono (by rfl) <| .foldl (fun _ _ => respond_only ..) _ _

theorem abandonBinds_only (s : State) : Only [.ctxs, .mbx] s (abandonBinds s) := by
  unfold abandonBinds
  refine .mono (by rfl) <| .foldl (F := [.mbx, .ctxs]) (fun t _ => ?_) _ _
  split
  · exact .mono (by rfl) <| .refl _
  · exact .mono (by rfl) <| (respond_only ..).trans <| setCtxs_only _ _

theorem abandonPlacement_only (s : State) : Only [.dict, .parts, .tiered, .mbx] s (abandonPlacement s) := by
  unfold abandonPlacement
  refine .mono (by rfl) <| .foldl (F := [.dict, .mbx, .parts, .tiered]) (fun t _ => ?_) _ _
  extract_lets +onlyGivenNames part1 t2 s3 t4
  have h3 : Only [.dict, .mbx] t s3 := .mono (by rfl) <| completeAll_only ..
  split
  · exact .mono (by rfl) <| h3.trans <| (uncharge_only ..).trans <| putTiered_only ..
  · exact .mono (by rfl) <| h3.trans <| putTiered_only ..
  · exact .mono (by rfl) <| h3.trans <| putTiered_only ..

theorem abandonBase_only (s : State) (part : Nat) :
    Only [.dict, .tel, .cores, .queues, .jobs, .parts, .bufs, .index, .tiered, .ctxs, .sync, .mbx, .host, .miss, .rel, .hbm,
      .hostOut] s (abandonBase s part) := by
  unfold abandonBase
  split
  · exact .mono (by rfl) <| .refl _
  · extract_lets +onlyGivenNames s1 src2 s3 src4 src5 s8
    have h1 : Only [.parts] s s1 := .mono (by rfl) <| updPart_only ..
    have h3 : Only [.parts, .host] s s3 := .mono (by rfl) <| h1.trans <| setHost_only _ _
    have h8 : Only [.parts, .host, .dict, .bufs, .index, .tiered, .mbx, .rel, .tel, .cores, .queues, .jobs, .sync, .miss,
      .hbm, .hostOut, .ctxs] s s8 := .mono (by rfl) <| .ite h3 (.trans (.ite (h3.trans <| breakBase_only ..) (h3.trans <|
      chargeBase_only ..)) <| (noBase_only ..).trans <| (updPart_only ..).trans <| (failIncoming_only ..).trans <|
      bumpBaseGen_only ..)
    exact .mono (by rfl) <| .ite h8 (h8.trans <| respond_only ..)

theorem abandonInbox_only (s : State) (fn : Nat) : Only [.mbx] s (abandonInbox s fn) := by
  unfold abandonInbox
  exact .mono (by rfl) <| .foldl (fun _ _ => (popMessage_only ..).trans <| answer_only ..) _ _

theorem abandonRequests_only (s : State) :
    Only [.dict, .tel, .cores, .queues, .jobs, .parts, .bufs, .index, .tiered, .ctxs, .sync, .mbx, .host, .miss, .rel, .hbm,
      .hostOut] s (abandonRequests s) := by
  unfold abandonRequests
  exact .mono (by rfl) <| .trans (.foldl (fun _ _ => abandonBase_only ..) _ _) <| (abandonKeys_only ..).trans <|
    (abandonBinds_only ..).trans <| (abandonPlacement_only ..).trans <| .foldl (fun _ _ => abandonInbox_only ..) _ _

theorem failover_only (s : State) :
    Only [.fresh, .dict, .tel, .pins, .clusters, .cores, .queues, .jobs, .parts, .bufs, .index, .tiered, .ctxs, .sync, .reds,
      .mbx, .host, .win, .miss, .rel, .hbm, .hostOut] s (failover s) := by
  unfold failover
  exact .mono (by rfl) <| .ite (.refl _) ((setHost_only _ _).trans <| (dset_only ..).trans <| (bump_only ..).trans <|
    (bump_only ..).trans <| (alarm_only ..).trans <| .trans (.foldl (fun _ _ => hostReadDone_only ..) _ _) <|
    checkReach_only ..)

theorem setLead_only (s : State) (h : Hub) (epoch : Nat) (lead : Bool) : Only [.lease] s (setLead s h epoch lead) := by
  unfold setLead
  split
  · exact .mono (by rfl) <| setLease_only _ _
  · exact .mono (by rfl) <| setLease_only _ _

theorem demote_only (s : State) (h : Hub) : Only [.dict, .lease] s (demote s h) := by
  unfold demote
  exact .mono (by rfl) <| .ite ((setLead_only ..).trans <| bump_only ..) (.refl _)

theorem writeArbiters_only (s : State) (h : Hub) (epoch : Nat) : Only [.lease] s (writeArbiters s h epoch) := by
  unfold writeArbiters
  exact .mono (by rfl) <| setLease_only _ _

theorem renewHub_only (s : State) (h : Hub) : Only [.dict, .lease] s (renewHub s h) := by
  unfold renewHub
  exact .mono (by rfl) <| .ite (.refl _) (.ite (demote_only ..) (writeArbiters_only ..))

theorem takeover_only (s : State) :
    Only [.now, .fresh, .dict, .tel, .sec, .pins, .clusters, .cores, .queues, .jobs, .parts, .bufs, .index, .tiered, .ctxs,
      .sync, .reds, .mbx, .host, .win, .miss, .lease, .rel, .hbm, .hostOut] s (takeover s) := by
  unfold takeover
  extract_lets +onlyGivenNames h1 up2 epoch3
  split
  · exact .mono (by rfl) <| .refl _
  · split
    · exact .mono (by rfl) <| alarmLog_only ..
    · extract_lets +onlyGivenNames s4 s5 s6 s7 s8 s9 s10 s11
      have h4 : Only [.now] s s4 := .mono (by rfl) <| setNow_only _ _
      have h5 : Only [.now, .lease] s s5 := .mono (by rfl) <| h4.trans <| (writeArbiters_only ..).trans <| setLead_only ..
      have h6 : Only [.now, .lease, .clusters] s s6 := .mono (by rfl) <| h5.trans <|
        .foldl (fun _ _ => .ite (updCluster_only ..) (.refl _)) _ _
      have h7 : Only [.now, .lease, .clusters, .dict] s s7 := .mono (by rfl) <| h6.trans <| (dset_only ..).trans <|
        (dset_only ..).trans <| bump_only ..
      have h8 : Only [.now, .lease, .clusters, .dict, .fresh, .tel, .pins] s s8 := .mono (by rfl) <| h7.trans <| alarmLog_only ..
      have h9 : Only [.now, .lease, .clusters, .dict, .fresh, .tel, .pins, .cores, .queues, .jobs, .parts, .bufs, .tiered,
        .sync, .reds, .win, .miss, .rel, .hbm, .hostOut] s s9 := .mono (by rfl) <| h8.trans <| .foldl (fun _ _ => killQueue_only ..) _ _
      have h10 : Only [.now, .lease, .clusters, .dict, .fresh, .tel, .pins, .cores, .queues, .jobs, .parts, .bufs, .tiered,
        .sync, .reds, .win, .miss, .rel, .hbm, .hostOut, .index, .ctxs, .mbx, .host, .sec] s s10 := .mono (by rfl) <| h9.trans <|
        (abandonRequests_only ..).trans <| (dropRequests_only ..).trans <| forgetAll_only ..
      have h11 : Only [.now, .lease, .clusters, .dict, .fresh, .tel, .pins, .cores, .queues, .jobs, .parts, .bufs, .tiered,
        .sync, .reds, .win, .miss, .rel, .hbm, .hostOut, .index, .ctxs, .mbx, .host, .sec] s s11 := .mono (by rfl) <| h10.trans <|
        .foldl (fun _ _ => repeatTakeover_only ..) _ _
      exact .mono (by rfl) <| .ite (h11.trans <| failover_only ..) h11

theorem management_only (s : State) (c : Nat) (src : Hub) (epoch : Nat) :
    Only [.fresh, .dict, .tel, .pins, .clusters, .lease] s (management s c src epoch) := by
  unfold management
  extract_lets +onlyGivenNames cl1 tie2
  split
  · extract_lets +onlyGivenNames s3
    have h3 : Only [.dict, .fresh, .tel, .pins] s s3 := .mono (by rfl) <| (bump_only ..).trans <| alarmLog_only ..
    exact .mono (by rfl) <| .ite (h3.trans <| demote_only ..) h3
  · exact .mono (by rfl) <| updCluster_only ..

theorem execLeaseRenewal_only (s : State) : Answers [.dict, .lease] s (execLeaseRenewal s) := by
  unfold execLeaseRenewal
  exact Only.answers (.mono (by rfl) <| (renewHub_only ..).trans <| renewHub_only ..)

theorem execLeaseDisagreement_only (s : State) : Answers [.fresh, .dict, .tel, .pins] s (execLeaseDisagreement s) := by
  unfold execLeaseDisagreement
  exact Only.answers (.mono (by rfl) <| alarmLog_only ..)

theorem execDemotion_only (hub : Hub) (s : State) : Answers [.dict, .lease] s (execDemotion hub s) := by
  unfold execDemotion
  exact Only.answers (.mono (by rfl) <| .ite (demote_only ..) (.refl _))

theorem execManagementMessage_only (cluster : Nat) (src : Hub) (epoch : Nat) (s : State) :
    Answers [.fresh, .dict, .tel, .pins, .clusters, .lease] s (execManagementMessage cluster src epoch s) := by
  unfold execManagementMessage
  exact Only.answers (.mono (by rfl) <| management_only ..)

/-! ## Configuration and firmware -/

theorem commitIdle_only (s : State) : Only [.dict] s (commitIdle s) := by
  unfold commitIdle
  exact .mono (by rfl) <| dset_only ..

theorem markPending_only (s : State) (role : Role) (key : Nat) : Only [.dict, .cfg] s (markPending s role key) := by
  unfold markPending
  split
  · extract_lets +onlyGivenNames p1 src2 s3
    have h3 : Only [.cfg] s s3 := .mono (by rfl) <| setCfg_only _ _
    exact .mono (by rfl) <| .ite h3 (h3.trans <| commitIdle_only ..)
  · exact .mono (by rfl) <| .refl _

theorem beginCommit_only (s : State) (role : Role) (value : List Byte) : Only [.sec] s (beginCommit s role value) := by
  unfold beginCommit
  exact .mono (by rfl) <| submitEngine_only ..

theorem writeCopy_only (s : State) (value image : List Byte) : Only [.dict, .tel, .cfg, .pins] s (writeCopy s value image) := by
  unfold writeCopy
  exact .mono (by rfl) <| (eraseSectors_only ..).trans <| (setCfg_only _ _).trans <| dset_only ..

theorem copyWritten_only (s : State) (h : Hub) (copy : List Byte) : Only [.dict, .cfg] s (copyWritten s h copy) := by
  unfold copyWritten
  exact .mono (by rfl) <| (setCfg_only _ _).trans <| (dset_only ..).trans <| (dset_only ..).trans <| commitIdle_only ..

theorem firmwareUpdate_only (s : State) (h : Hub) (image : FwImage) :
    Only [.fresh, .dict, .tel, .cfg, .pins] s (firmwareUpdate s h image) := by
  unfold firmwareUpdate
  split
  · exact .mono (by rfl) <| .refl _
  · extract_lets +onlyGivenNames st1 src2 s3
    have h3 : Only [.cfg, .fresh] s s3 := .mono (by rfl) <| (setCfg_only _ _).trans <| drawn_only ..
    exact .mono (by rfl) <| .ite h3 (h3.trans <| (eraseSectors_only ..).trans <| setCfg_only _ _)

theorem execFirmwareUpdate_only (hub : Hub) (image : FwImage) (s : State) :
    Answers [.fresh, .dict, .tel, .cfg, .pins] s (execFirmwareUpdate hub image s) := by
  unfold execFirmwareUpdate
  exact Only.answers (.mono (by rfl) <| firmwareUpdate_only ..)

/-! ## Functions and partitions -/

theorem dropPlacement_only (s : State) (fn : Nat) : Only [.dict, .tiered] s (dropPlacement s fn) := by
  unfold dropPlacement
  exact .mono (by rfl) <| .foldl (fun _ _ => (dset_only ..).trans <| putTiered_only ..) _ _

theorem dropPending_only (s : State) (fn : Nat) :
    Only [.dict, .tel, .sec, .cores, .queues, .jobs, .parts, .bufs, .index, .tiered, .ctxs, .sync, .mbx, .host, .miss, .rel,
      .hbm, .hostOut] s (dropPending s fn) := by
  unfold dropPending
  extract_lets +onlyGivenNames s1 s2 s3
  have h1 : Only [.sec] s s1 := .mono (by rfl) <| forgetAll_only ..
  have h2 : Only [.sec, .ctxs] s s2 := .mono (by rfl) <| h1.trans <| setCtxs_only _ _
  have h3 : Only [.sec, .ctxs, .dict, .tel, .cores, .queues, .jobs, .parts, .bufs, .index, .tiered, .sync, .mbx, .host, .miss,
    .rel, .hbm, .hostOut] s s3 := .mono (by rfl) <| .ite (h2.trans <| .foldl (fun _ _ => abandonBase_only ..) _ _) h2
  exact .mono (by rfl) <| h3.trans <| (dropPlacement_only ..).trans <| updMbox_only ..

theorem finishReset_only (s : State) (fn : Nat) :
    Only [.dict, .tel, .cores, .queues, .jobs, .parts, .bufs, .index, .tiered, .ctxs, .sync, .reds, .mbx, .host, .win, .miss,
      .rel, .hbm, .hostOut] s (finishReset s fn) := by
  unfold finishReset
  exact .mono (by rfl) <| .trans (.foldl (fun _ _ => endJob_only ..) _ _) <| .trans (.foldl (fun _ _ => freeBuf_only ..) _ _) <|
    .trans (.foldl (fun _ _ => destroyQueue_only ..) _ _) <| (setMbxHost_only _ _ _).trans <| dset_only ..

theorem beginReset_only (s : State) (fn : Nat) :
    Only [.dict, .tel, .sec, .cores, .queues, .jobs, .parts, .bufs, .index, .tiered, .ctxs, .sync, .reds, .mbx, .host, .win,
      .miss, .rel, .hbm, .hostOut] s (beginReset s fn) := by
  unfold beginReset
  split
  · exact .mono (by rfl) <| .refl _
  · extract_lets +onlyGivenNames s1 s2
    have h1 : Only [.dict, .tel, .sec, .cores, .queues, .jobs, .parts, .bufs, .index, .tiered, .ctxs, .sync, .mbx, .host,
      .miss, .rel, .hbm, .hostOut] s s1 := .mono (by rfl) <| (dset_only ..).trans <| dropPending_only ..
    have h2 : Only [.dict, .tel, .sec, .cores, .queues, .jobs, .parts, .bufs, .index, .tiered, .ctxs, .sync, .mbx, .host,
      .miss, .rel, .hbm, .hostOut, .reds, .win] s s2 := .mono (by rfl) <| h1.trans <| .foldl (fun _ _ => resetQueue_only ..) _ _
    exact .mono (by rfl) <| .ite (h2.trans <| setHost_only _ _) (h2.trans <| (setHost_only _ _).trans <| finishReset_only ..)

theorem pfTurn_only (s : State) :
    Only [.dict, .tel, .sec, .cores, .queues, .jobs, .parts, .bufs, .index, .tiered, .ctxs, .sync, .reds, .mbx, .host, .win,
      .miss, .rel, .hbm, .hostOut] s (pfTurn s) := by
  unfold pfTurn
  exact .mono (by rfl) <| .ite ((setHost_only _ _).trans <| beginReset_only ..) (.refl _)

theorem resetAll_only (s : State) :
    Only [.dict, .tel, .sec, .cores, .queues, .jobs, .parts, .bufs, .index, .tiered, .ctxs, .sync, .reds, .mbx, .host, .win,
      .miss, .rel, .hbm, .hostOut] s (resetAll s) := by
  unfold resetAll
  exact .mono (by rfl) <| .ite (.refl _) ((dset_only ..).trans <| .trans (.foldl (fun _ _ => beginReset_only ..) _ _) <|
    (setHost_only _ _).trans <| pfTurn_only ..)

theorem drainCheck_only (s : State) :
    Only [.dict, .tel, .sec, .cores, .queues, .jobs, .parts, .bufs, .index, .tiered, .ctxs, .sync, .reds, .mbx, .host, .win,
      .miss, .rel, .hbm, .hostOut] s (drainCheck s) := by
  unfold drainCheck
  exact .mono (by rfl) <| .trans (.foldl (fun _ _ => .ite (.refl _) (finishReset_only ..)) _ _) <| pfTurn_only ..

theorem drainLimit_only (s : State) (fn : Nat) :
    Only [.now, .dict, .tel, .sec, .cores, .queues, .jobs, .parts, .bufs, .index, .tiered, .ctxs, .sync, .reds, .mbx, .host,
      .win, .miss, .rel, .hbm, .hostOut] s (drainLimit s fn) := by
  unfold drainLimit
  split
  · exact .mono (by rfl) <| .refl _
  · exact .mono (by rfl) <| (setNowHost_only _ _ _).trans <| (finishReset_only ..).trans <| pfTurn_only ..

theorem poolEffect_only (s : State) (part sub : Nat) (v : DVal) :
    Only [.dict, .clusters, .cores, .parts] s (poolEffect s part sub v) := by
  unfold poolEffect
  extract_lets +onlyGivenNames i1 old2 s3
  have h3 : Only [.dict] s s3 := .mono (by rfl) <| dput_only ..
  split
  · exact .mono (by rfl) <| h3
  · extract_lets +onlyGivenNames gone4 s5
    have h5 : Only [.dict, .cores, .clusters] s s5 := .mono (by rfl) <| h3.trans <| .foldl (fun _ _ => (updCore_only ..).trans <|
      useCluster_only ..) _ _
    exact .mono (by rfl) <| .ite (h5.trans <| updPart_only ..) h5

theorem applyMap_only (s : State) (part sub map : Nat) : Only [.dict] s (applyMap s part sub map) := by
  unfold applyMap
  extract_lets +onlyGivenNames i1 old2 s3
  have h3 : Only [.dict] s s3 := .mono (by rfl) <| dset_only ..
  split
  · extract_lets +onlyGivenNames s4
    have h4 : Only [.dict] s s4 := .mono (by rfl) <| h3.trans <| dset_only ..
    exact .mono (by rfl) <| .ite (h4.trans <| dset_only ..) (.ite (h4.trans <| dset_only ..) h4)
  · exact .mono (by rfl) <| h3.trans <| dset_only ..

theorem mapEffect_only (s : State) (part sub map : Nat) : Only [.dict, .parts] s (mapEffect s part sub map).1 := by
  unfold mapEffect
  extract_lets +onlyGivenNames old1
  split
  · dsimp only
    exact .mono (by rfl) <| applyMap_only ..
  · dsimp only
    exact .mono (by rfl) <| updPart_only ..

theorem mapDone_only (s : State) (part : Nat) : Only [.dict, .parts] s (mapDone s part).1 := by
  unfold mapDone
  split
  · exact .mono (by rfl) <| .refl _
  · exact .mono (by rfl) <| (updPart_only ..).trans <| applyMap_only ..

theorem quotaEffect_only (s : State) (vf sub n : Nat) : Only [.dict] s (quotaEffect s vf sub n) := by
  unfold quotaEffect
  extract_lets +onlyGivenNames i1 old2 s3
  have h3 : Only [.dict] s s3 := .mono (by rfl) <| dset_only ..
  split
  · exact .mono (by rfl) <| h3
  · exact .mono (by rfl) <| h3.trans <| dset_only ..

theorem countVf_only (s : State) (vf part : Nat) (joins : Bool) : Only [.dict] s (countVf s vf part joins) := by
  unfold countVf
  exact .mono (by rfl) <| (dset_only ..).trans <| (dset_only ..).trans <| dset_only ..

theorem assignEffect_only (s : State) (vf n : Nat) : Only [.dict] s (assignEffect s vf n) := by
  unfold assignEffect
  extract_lets +onlyGivenNames i1
  split
  · exact .mono (by rfl) <| .refl _
  · extract_lets +onlyGivenNames s2 s3
    have h2 : Only [.dict] s s2 := by
      simp only [s2]
      split
      · exact .mono (by rfl) <| .refl _
      · exact .mono (by rfl) <| countVf_only ..
    have h3 : Only [.dict] s s3 := .mono (by rfl) <| h2.trans <| (dset_only ..).trans <| dset_only ..
    exact .mono (by rfl) <| .ite (h3.trans <| (countVf_only ..).trans <| .trans (.foldl (fun _ _ => dset_only ..) _ _) <|
      .trans (.foldl (fun _ _ => dset_only ..) _ _) <| dset_only ..) h3

theorem flush_only (s : State) (part : Nat) : Only [.dict, .index] s (flush s part) := by
  unfold flush
  exact .mono (by rfl) <| (setIndex_only _ _).trans <| bump_only ..

theorem settleAll_only (s : State) :
    Only [.now, .fresh, .dict, .tel, .cores, .queues, .jobs, .parts, .bufs, .tiered, .mbx, .win, .rel, .hbm,
      .hostOut] s (settleAll s) := by
  unfold settleAll
  extract_lets +onlyGivenNames s1
  have h1 : Only [.now, .dict, .tel, .cores, .queues, .jobs, .parts, .bufs, .tiered, .win, .rel, .hbm,
    .hostOut] s s1 := .mono (by rfl) <| settle_only ..
  exact .mono (by rfl) <| .ite h1 (h1.trans <| .foldl (fun _ _ => .ite (beginWriteBack_only ..) (.refl _)) _ _)

theorem barRefuse_only (s : State) (read : Bool) : Only [.dict, .host] s (barRefuse s read) := by
  unfold barRefuse
  extract_lets +onlyGivenNames s1
  have h1 : Only [.dict] s s1 := .mono (by rfl) <| bump_only ..
  exact .mono (by rfl) <| .ite (h1.trans <| setHost_only _ _) h1

theorem barWrite_only (s : State) (q addr key off : Nat) (data : List Byte) :
    Only [.dict, .tel, .pins, .bufs, .tiered, .rel, .hostOut] s (barWrite s q addr key off data) := by
  unfold barWrite
  exact .mono (by rfl) <| (journal_only ..).trans <| storeBuf_only ..

theorem bar4_only (s : State) (fn : Nat) (op : Bar4Op) :
    Only [.dict, .tel, .pins, .jobs, .bufs, .tiered, .host, .rel, .hostOut] s (bar4 s fn op) := by
  unfold bar4
  split
  · exact .mono (by rfl) <| .refl _
  · split
    · exact .mono (by rfl) <| .ite (.refl _) (setHost_only _ _)
    · split
      · exact .mono (by rfl) <| barRefuse_only ..
      · exact .mono (by rfl) <| setHost_only _ _
    · split
      · exact .mono (by rfl) <| barRefuse_only ..
      · split
        · exact .mono (by rfl) <| barWrite_only ..
        · split
          next heq =>
            have h2 : Only [.dict, .jobs] s _ := (Only.of_fst (replayInput_only ..) heq).mono (by rfl)
            exact .mono (by rfl) <| h2.trans <| barWrite_only ..
          next heq =>
            have h2 : Only [.dict, .jobs] s _ := (Only.of_fst (replayInput_only ..) heq).mono (by rfl)
            exact .mono (by rfl) <| h2.trans <| holdInput_only ..

theorem execBar4Access_only (fn : Nat) (op : Bar4Op) (s : State) :
    Answers [.now, .fresh, .dict, .tel, .pins, .cores, .queues, .jobs, .parts, .bufs, .tiered, .mbx, .host, .win, .rel, .hbm,
      .hostOut] s (execBar4Access fn op s) := by
  unfold execBar4Access
  exact Only.answers (.mono (by rfl) <| (settleAll_only ..).trans <| bar4_only ..)

/-! ## Windway -/

theorem tagFailure_only (s : State) (w : Nat) (consecutive : Bool) :
    Only [.fresh, .dict, .tel, .pins, .win] s (tagFailure s w consecutive) := by
  unfold tagFailure
  split
  · exact .mono (by rfl) <| .refl _
  · extract_lets +onlyGivenNames n1 s2
    have h2 : Only [.fresh, .dict, .tel, .win] s s2 := .mono (by rfl) <| (detectFree_only ..).trans <| (bump_only ..).trans <|
      requestFlit_only ..
    exact .mono (by rfl) <| .ite (h2.trans <| updPort_only ..) (h2.trans <| (updPort_only ..).trans <| (dset_only ..).trans <|
      inventoryChange_only ..)

theorem laneLoss_only (s : State) (w : Nat) : Only [.fresh, .dict, .tel, .pins, .win] s (laneLoss s w) := by
  unfold laneLoss
  split
  · exact .mono (by rfl) <| .refl _
  · extract_lets +onlyGivenNames s1
    have h1 : Only [.fresh, .dict, .tel] s s1 := .mono (by rfl) <| detectFree_only ..
    exact .mono (by rfl) <| .ite (h1.trans <| dset_only ..) (h1.trans <| (updPort_only ..).trans <| (dset_only ..).trans <|
      inventoryChange_only ..)

theorem exchangeKeys_only (s : State) (w : Nat) (peer : PeerHello) :
    Only [.fresh, .dict, .tel, .pins, .win] s (exchangeKeys s w peer) := by
  unfold exchangeKeys
  split
  · exact .mono (by rfl) <| .refl _
  · extract_lets +onlyGivenNames hub1 s2 bad3 s4 own5 s6 hash7 s8
    have h2 : Only [.dict] s s2 := .mono (by rfl) <| bump_only ..
    have h4 : Only [.dict] s s4 := .mono (by rfl) <| .ite (h2.trans <| bump_only ..) h2
    have h6 : Only [.dict, .fresh] s s6 := .mono (by rfl) <| h4.trans <| drawn_only ..
    have h8 : Only [.dict, .fresh] s s8 := .mono (by rfl) <| h6.trans <| drawn_only ..
    exact .mono (by rfl) <| .ite (h8.trans <| (updPort_only ..).trans <| (dset_only ..).trans <| dset_only ..) (h8.trans <|
      (updPort_only ..).trans <| (dset_only ..).trans <| (bump_only ..).trans <| alarmLog_only ..)

theorem rekey_only (s : State) (w : Nat) : Only [.fresh, .win] s (rekey s w) := by
  unfold rekey
  exact .mono (by rfl) <| .ite (.refl _) ((updPort_only ..).trans <| drawn_only ..)

theorem keyRetry_only (s : State) (w : Nat) : Only [.now, .dict, .win] s (keyRetry s w) := by
  unfold keyRetry
  split
  · exact .mono (by rfl) <| .refl _
  · exact .mono (by rfl) <| (setNow_only _ _).trans <| (updPort_only ..).trans <| dset_only ..

theorem dropFenced_only (s : State) (job source : Nat) : Only [.dict, .win] s (dropFenced s job source) := by
  unfold dropFenced
  split
  · exact .mono (by rfl) <| .refl _
  · exact .mono (by rfl) <| (bump_only ..).trans <| (setWin_only _ _).trans <| sendFlits_only ..

theorem arriveFrom_only (s : State) (job source bytes : Nat) : Only [.win] s (arriveFrom s job source bytes) := by
  unfold arriveFrom
  split
  · exact .mono (by rfl) <| .refl _
  · exact .mono (by rfl) <| takeFlits_only ..

theorem putRemote_only (s : State) (x : RemoteStage) : Only [.win] s (putRemote s x) := by
  unfold putRemote
  exact .mono (by rfl) <| setWin_only _ _

theorem remotePacket_only (s : State) (p : RemotePkt) (add : Bool) : Only [.dict, .win] s (remotePacket s p add) := by
  unfold remotePacket
  split
  · exact .mono (by rfl) <| dropFenced_only ..
  · extract_lets +onlyGivenNames s1
    have h1 : Only [.win] s s1 := .mono (by rfl) <| arriveFrom_only ..
    split
    · exact .mono (by rfl) <| h1
    · extract_lets +onlyGivenNames st2
      split
      · exact .mono (by rfl) <| h1.trans <| (setWin_only _ _).trans <| sendFlits_only ..
      · extract_lets +onlyGivenNames x3 w4 x5 src6 x7 s8
        have h8 : Only [.win] s s8 := .mono (by rfl) <| h1.trans <| putRemote_only ..
        exact .mono (by rfl) <| .ite (h8.trans <| setWin_only _ _) h8

theorem remoteAdd_only (s : State) (w : StageWrite) : Only [.bufs, .tiered, .rel] s (remoteAdd s w) := by
  unfold remoteAdd
  exact .mono (by rfl) <| storeStaged_only ..

theorem remoteCommit_only (s : State) (job source cmd : Nat) (discard : Bool) :
    Only [.dict, .jobs, .bufs, .tiered, .win, .rel] s (remoteCommit s job source cmd discard) := by
  unfold remoteCommit
  split
  · exact .mono (by rfl) <| dropFenced_only ..
  · extract_lets +onlyGivenNames s1
    have h1 : Only [.win] s s1 := .mono (by rfl) <| arriveFrom_only ..
    split
    · exact .mono (by rfl) <| h1
    · extract_lets +onlyGivenNames src2 s3
      have h3 : Only [.win] s s3 := .mono (by rfl) <| h1.trans <| setWin_only _ _
      exact .mono (by rfl) <| .ite h3 (h3.trans <| .trans (.foldl (fun _ _ => remoteAdd_only ..) _ _) <|
        .trans (.foldl (fun _ _ => storeStaged_only ..) _ _) <| updJob_only ..)

theorem fabricPacket_only {F : List StateField} {s : State} {epoch : Nat} {take : State → State} (h : ∀ s, Only F s (take s)) :
    Only ([.dict, .win] ++ F) s (fabricPacket s epoch take) := by
  unfold fabricPacket
  split
  · exact ((setWin_only _ _).mono (by rfl)).left
  · exact ((dset_only ..).mono (by rfl)).around (h _) (.self _)

theorem managerRenewal_only (s : State) (m epoch : Nat) : Only [.dict, .win] s (managerRenewal s m epoch) := by
  unfold managerRenewal
  exact .mono (by rfl) <| .ite (.refl _) (fabricPacket_only fun _ => setWin_only _ _)

theorem managerMissed_only (s : State) : Only [.dict, .win] s (managerMissed s) := by
  unfold managerMissed
  extract_lets +onlyGivenNames n1
  split
  · exact .mono (by rfl) <| setWin_only _ _
  · extract_lets +onlyGivenNames rest2 src3 s4
    have h4 : Only [.win] s s4 := .mono (by rfl) <| setWin_only _ _
    clear_value rest2
    split
    · exact .mono (by rfl) <| h4
    · extract_lets +onlyGivenNames src5 s6
      have h6 : Only [.win] s s6 := .mono (by rfl) <| h4.trans <| setWin_only _ _
      exact .mono (by rfl) <| .ite (h6.trans <| bump_only ..) h6

theorem fenceModule_only (s : State) (m epoch : Nat) (lift : Bool) : Only [.dict, .win] s (fenceModule s m epoch lift) := by
  unfold fenceModule
  exact .mono (by rfl) <| fabricPacket_only fun _ => .ite (setWin_only _ _) (setWin_only _ _)

theorem fencedNotice_only (s : State) (epoch : Nat) :
    Only [.dict, .tel, .cores, .queues, .jobs, .parts, .bufs, .index, .tiered, .ctxs, .sync, .reds, .mbx, .win, .miss, .rel,
      .hbm, .hostOut] s (fencedNotice s epoch) := by
  unfold fencedNotice
  exact .mono (by rfl) <| fabricPacket_only fun _ => .ite (.refl _) ((setWin_only _ _).trans <| .foldl (fun _ _ => endJob_only ..) _ _)

theorem execFlitTagFailure_only (port : Nat) (consecutive : Bool) (s : State) :
    Answers [.fresh, .dict, .tel, .pins, .win] s (execFlitTagFailure port consecutive s) := by
  unfold execFlitTagFailure
  exact Only.answers (.mono (by rfl) <| tagFailure_only ..)

theorem execLaneFailure_only (port : Nat) (s : State) :
    Answers [.fresh, .dict, .tel, .pins, .win] s (execLaneFailure port s) := by
  unfold execLaneFailure
  exact Only.answers (.mono (by rfl) <| laneLoss_only ..)

theorem execPortKeyExchange_only (port : Nat) (peer : PeerHello) (s : State) :
    Answers [.fresh, .dict, .tel, .pins, .win] s (execPortKeyExchange port peer s) := by
  unfold execPortKeyExchange
  exact Only.answers (.mono (by rfl) <| exchangeKeys_only ..)

theorem execPortRekey_only (port : Nat) (s : State) : Answers [.fresh, .win] s (execPortRekey port s) := by
  unfold execPortRekey
  exact Only.answers (.mono (by rfl) <| rekey_only ..)

theorem execKeyRetryExpiry_only (port : Nat) (s : State) : Answers [.now, .dict, .win] s (execKeyRetryExpiry port s) := by
  unfold execKeyRetryExpiry
  exact Only.answers (.mono (by rfl) <| keyRetry_only ..)

theorem execRemoteWrite_only (pkt : RemotePkt) (s : State) : Answers [.dict, .win] s (execRemoteWrite pkt s) := by
  unfold execRemoteWrite
  exact Only.answers (.mono (by rfl) <| remotePacket_only ..)

theorem execRemoteIntegerAdd_only (pkt : RemotePkt) (s : State) : Answers [.dict, .win] s (execRemoteIntegerAdd pkt s) := by
  unfold execRemoteIntegerAdd
  exact Only.answers (.mono (by rfl) <| remotePacket_only ..)

theorem execRemoteCommit_only (job source cmd : Nat) (discard : Bool) (s : State) :
    Answers [.dict, .jobs, .bufs, .tiered, .win, .rel] s (execRemoteCommit job source cmd discard s) := by
  unfold execRemoteCommit
  exact Only.answers (.mono (by rfl) <| remoteCommit_only ..)

theorem execFabricManagerLease_only (event : FabricLease) (s : State) :
    Answers [.now, .fresh, .dict, .tel, .cores, .queues, .jobs, .parts, .bufs, .tiered, .mbx, .win, .rel, .hbm,
      .hostOut] s (execFabricManagerLease event s) := by
  unfold execFabricManagerLease
  split
  · exact Only.answers (.mono (by rfl) <| (settleAll_only ..).trans <| managerRenewal_only ..)
  · exact Only.answers (.mono (by rfl) <| (settleAll_only ..).trans <| managerMissed_only ..)

theorem execFence_only (module epoch : Nat) (lift : Bool) (s : State) :
    Answers [.now, .fresh, .dict, .tel, .cores, .queues, .jobs, .parts, .bufs, .tiered, .mbx, .win, .rel, .hbm,
      .hostOut] s (execFence module epoch lift s) := by
  unfold execFence
  exact Only.answers (.mono (by rfl) <| (settleAll_only ..).trans <| fenceModule_only ..)

theorem execFenceNotice_only (epoch : Nat) (s : State) :
    Answers [.now, .fresh, .dict, .tel, .cores, .queues, .jobs, .parts, .bufs, .index, .tiered, .ctxs, .sync, .reds, .mbx,
      .win, .miss, .rel, .hbm, .hostOut] s (execFenceNotice epoch s) := by
  unfold execFenceNotice
  exact Only.answers (.mono (by rfl) <| (settleAll_only ..).trans <| fencedNotice_only ..)

/-! ## Starts -/

theorem clearRuntime_only (s : State) :
    Only [.dict, .tel, .sec, .cfg, .cores, .queues, .jobs, .parts, .bufs, .index, .tiered, .keys, .keyGens, .dirs, .ctxs,
      .sync, .reds, .mbx, .host, .win, .miss, .rel, .hbm, .hostOut]
      s (clearRuntime s) := by
  unfold clearRuntime
  extract_lets +onlyGivenNames s1
  have h1 : Only [.dict, .tel, .cores, .queues, .jobs, .parts, .bufs, .index, .tiered, .ctxs, .sync, .mbx, .host, .miss, .rel,
    .hbm, .hostOut] s s1 := .mono (by rfl) <| .foldl (fun _ _ => abandonBase_only ..) _ _
  refine (h1.mono (by rfl)).andThen (.of_same (fun k hk => ?_) rfl rfl rfl)
  cases k <;> simp at hk <;> rfl

theorem clearMemory_only (s : State) :
    Only [.dict, .tel, .sec, .cfg, .clusters, .cores, .queues, .jobs, .parts, .bufs, .index, .tiered, .keys, .keyGens, .dirs,
      .ctxs, .sync, .reds, .mbx, .host, .win, .miss, .rel, .hbm, .hostOut] s (clearMemory s) := by
  unfold clearMemory
  refine ((clearRuntime_only s).mono (by rfl)).andThen ⟨fun k hk => ?_, ⟨rfl, Nat.le_refl _⟩, fun h => ⟨h.1, Mem.wf_nil⟩⟩
  cases k <;> simp at hk <;> rfl

theorem keepEntries_only (s : State) (p : Nat → Bool) : Only [.dict] s (keepEntries s p) := by
  unfold keepEntries
  exact .mono (by rfl) <| setDict_only _ _

theorem releasePins_only (s : State) : Only [.pins] s (releasePins s) := by
  unfold releasePins
  exact .mono (by rfl) <| setPins_only _ _

theorem beginStart_only (s : State) (cold : Bool) :
    Only [.dict, .tel, .sec, .cfg, .pins, .cores, .queues, .jobs, .parts, .bufs, .index, .tiered, .keys, .keyGens, .dirs,
      .ctxs, .sync, .reds, .mbx, .host, .win, .miss, .rel, .hbm, .hostOut] s (beginStart s cold) := by
  unfold beginStart
  exact .mono (by rfl) <| (clearRuntime_only ..).trans <| (releasePins_only ..).trans <| (setCfgPins_only _ _ _).trans <|
    (dset_only ..).trans <| dset_only ..

theorem requestStart_only (s : State) (cold : Bool) :
    Only [.dict, .tel, .sec, .cfg, .pins, .cores, .queues, .jobs, .parts, .bufs, .index, .tiered, .keys, .keyGens, .dirs,
      .ctxs, .sync, .reds, .mbx, .host, .win, .miss, .rel, .hbm, .hostOut] s (requestStart s cold) := by
  unfold requestStart
  exact .mono (by rfl) <| .ite (setCfg_only _ _) (beginStart_only ..)

theorem leaveHold_only (s : State) :
    Only [.dict, .tel, .sec, .cfg, .pins, .cores, .queues, .jobs, .parts, .bufs, .index, .tiered, .keys, .keyGens, .dirs,
      .ctxs, .sync, .reds, .mbx, .host, .win, .miss, .rel, .hbm, .hostOut] s (leaveHold s) := by
  unfold leaveHold
  exact .mono (by rfl) <| (beginStart_only ..).trans <| dset_only ..

theorem tearCopy_only (s : State) : Only [.dict, .cfg] s (tearCopy s) := by
  unfold tearCopy
  split
  · exact .mono (by rfl) <| .refl _
  · exact .mono (by rfl) <| (setCfg_only _ _).trans <| dset_only ..
  · exact .mono (by rfl) <| (setCfg_only _ _).trans <| dset_only ..

theorem railsOff_only (s : State) :
    Only [.dict, .tel, .sec, .cfg, .pwr, .pins, .clusters, .cores, .queues, .jobs, .parts, .bufs, .index, .tiered, .keys,
      .keyGens, .dirs, .ctxs, .sync, .reds, .mbx, .host, .win, .miss, .rel, .hbm, .hostOut] s (railsOff s) := by
  unfold railsOff
  split
  · exact .mono (by rfl) <| .refl _
  · extract_lets +onlyGivenNames hold1 s2 src3 src4 src5 s6
    have h2 : Only [.dict, .cfg, .tel, .sec, .clusters, .cores, .queues, .jobs, .parts, .bufs, .index, .tiered, .keys,
      .keyGens, .dirs, .ctxs, .sync, .reds, .mbx, .host, .win, .miss, .rel, .hbm, .hostOut, .pins] s s2 := .mono (by rfl) <|
      (tearCopy_only ..).trans <| (clearMemory_only ..).trans <| releasePins_only ..
    have h6 : Only [.dict, .cfg, .tel, .sec, .clusters, .cores, .queues, .jobs, .parts, .bufs, .index, .tiered, .keys,
      .keyGens, .dirs, .ctxs, .sync, .reds, .mbx, .host, .win, .miss, .rel, .hbm, .hostOut, .pins, .pwr] s s6 := .mono (by rfl) <|
      h2.trans <| setCfgPwrPins_only _ _ _ _
    exact .mono (by rfl) <| .ite h6 (h6.trans <| dset_only ..)

theorem deadAlarm_only (s : State) (c : Nat) : Only [.fresh, .dict, .tel, .pins] s (deadAlarm s c) := by
  unfold deadAlarm
  exact .mono (by rfl) <| (drawn_only ..).trans <| alarmLog_only ..

theorem nameCores_only (failed : List Nat) (s : State) (c : Nat) :
    Only [.fresh, .dict, .tel, .pins, .clusters, .cores] s (nameCores failed s c) := by
  unfold nameCores
  extract_lets +onlyGivenNames ok1 s2 s3 s4
  have h2 : Only [.fresh, .dict, .tel, .pins] s s2 := .mono (by rfl) <| .foldl (fun _ _ => deadAlarm_only ..) _ _
  have h3 : Only [.fresh, .dict, .tel, .pins, .clusters] s s3 := .mono (by rfl) <| h2.trans <| updCluster_only ..
  have h4 : Only [.fresh, .dict, .tel, .pins, .clusters] s s4 := .mono (by rfl) <| .ite h3 (h3.trans <| (dset_only ..).trans <|
    dset_only ..)
  exact .mono (by rfl) <| h4.trans <| .foldl (fun _ _ => (alarmLog_only ..).trans <| coreOut_only ..) _ _

theorem renameCores_only (failed : List Nat) (s : State) (c : Nat) :
    Only [.fresh, .dict, .tel, .pins, .clusters, .cores] s (renameCores failed s c) := by
  unfold renameCores
  extract_lets +onlyGivenNames bad1 cl2 s3 src4 s6
  have h3 : Only [.clusters] s s3 := .mono (by rfl) <| updCluster_only ..
  have h6 : Only [.clusters, .fresh, .dict, .tel, .pins] s s6 := .mono (by rfl) <| .ite (h3.trans <| (deadAlarm_only ..).trans <|
    (updCluster_only ..).trans <| (dset_only ..).trans <| dset_only ..) h3
  refine .mono (by rfl) <| .trans h6 <| .foldl (F := [.fresh, .dict, .tel, .pins, .clusters, .cores]) (fun t _ => ?_) _ _
  extract_lets +onlyGivenNames s7
  have h7 : Only [.fresh, .dict, .tel, .pins] t s7 := .mono (by rfl) <| alarmLog_only ..
  split
  · exact .mono (by rfl) <| h7.trans <| (updCluster_only ..).trans <| takeIdentity_only ..
  · exact .mono (by rfl) <| h7.trans <| (alarmLog_only ..).trans <| coreOut_only ..

theorem trainPort_only (s : State) (e : Nat × Nat) : Only [.fresh, .dict, .win] s (trainPort s e) := by
  unfold trainPort
  exact .mono (by rfl) <| .ite (.refl _) ((updPort_only ..).trans <| (drawn_only ..).trans <| (dset_only ..).trans <| dset_only ..)

theorem portsDown_only (s : State) : Only [.dict] s (portsDown s) := by
  unfold portsDown
  exact .mono (by rfl) <| .foldl (fun _ _ => .ite (.refl _) (dset_only ..)) _ _

theorem applyConfig_only (s : State) : Only [.dict, .tel, .pins] s (applyConfig s) := by
  unfold applyConfig
  split
  · extract_lets +onlyGivenNames s3 s4 s5 s7 fns8 s9
    have h3 : Only [.dict, .tel, .pins] s s3 := by
      simp only [s3]
      split
      · exact .mono (by rfl) <| (dset_only ..).trans <| (dset_only ..).trans <| alarm_only ..
      · exact .mono (by rfl) <| .trans (.foldl (fun _ _ => dput_only ..) _ _) <| (dset_only ..).trans <| dset_only ..
    have h4 : Only [.dict, .tel, .pins] s s4 := .mono (by rfl) <| .ite (h3.trans <| alarm_only ..) h3
    have h5 : Only [.dict, .tel, .pins] s s5 := .mono (by rfl) <| h4.trans <| .foldl (fun _ _ => dset_only ..) _ _
    have h7 : Only [.dict, .tel, .pins] s s7 := .mono (by rfl) <| h5.trans <| .foldl (fun _ _ => dset_only ..) _ _
    have h9 : Only [.dict, .tel, .pins] s s9 := .mono (by rfl) <| h7.trans <| bump_only ..
    exact .mono (by rfl) <| h9.trans <| setPins_only _ _

theorem startLease_only (s : State) (obs : StartObs) : Only [.dict, .clusters, .lease] s (startLease s obs) := by
  unfold startLease
  exact .mono (by rfl) <| (setLease_only _ _).trans <| .trans (.foldl (fun _ _ => updCluster_only ..) _ _) <| (dset_only ..).trans <|
    dset_only ..

theorem runImages_only (s : State) (warm : Bool) : Only [.dict, .tel, .sec, .cfg, .pins] s (runImages s warm) := by
  unfold runImages
  extract_lets +onlyGivenNames e w
  split
  next a b _ _ =>
    extract_lets +onlyGivenNames s1 fused
    have h1 : Only [.dict] s s1 := .mono (by rfl) <| (dset_only ..).trans <| (dset_only ..).trans <| dset_only ..
    have h2 (c : ConfigStore) := h1.trans (setAntiRollback_only s1 fused c (Nat.le_max_left ..))
    exact .mono (by rfl) <| .ite (h2 _) <| (h2 _).trans <| alarm_only ..
  · exact .self _

theorem recordHoldRequest_only (s : State) : Only [.dict, .tel, .audit, .cfg, .pins] s (recordHoldRequest s) := by
  unfold recordHoldRequest
  split
  · exact .mono (by rfl) <| .refl _
  · exact .mono (by rfl) <| .ite (.refl _) ((setCfg_only _ _).trans <| auditAppendAt_only ..)

theorem startFailed_only (s : State) (stepNo : Nat) (st : Status) : Only [.dict, .cfg] s (startFailed s stepNo st) := by
  unfold startFailed
  exact .mono (by rfl) <| (bump_only ..).trans <| (dset_only ..).trans <| (dset_only ..).trans <| (setCfg_only _ _).trans <|
    (dset_only ..).trans <| dset_only ..

theorem drawStart_only (s : State) : Only [.fresh, .sec] s (drawStart s) := by
  unfold drawStart
  exact .mono (by rfl) <| (setSec_only _ _ (by rfl)).trans <| drawn_only ..

theorem reachReady_only (s : State) (obs : StartObs) (warm : Bool) (ms : Nat) :
    Only [.drone, .fresh, .dict, .tel, .audit, .sec, .cfg, .pwr, .pins, .clusters, .win,
      .lease] s (reachReady s obs warm ms) := by
  unfold reachReady
  exact .mono (by rfl) <| (applyConfig_only ..).trans <| (runImages_only ..).trans <| (startLease_only ..).trans <|
    .trans (.foldl (fun _ _ => trainPort_only ..) _ _) <| (portsDown_only ..).trans <| (dset_only ..).trans <|
    .trans (.foldl (fun _ _ => updCluster_only ..) _ _) <| (drawStart_only ..).trans <| (setCfgPwrPins_only _ _ _ _).trans <|
    (dset_only ..).trans <| (dset_only ..).trans <| (dset_only ..).trans <| (dset_only ..).trans <| (dset_only ..).trans <|
    (setDrone_only _ _).trans <| (inventoryCores_only ..).trans <| (recordHoldRequest_only ..).trans <|
    (inventoryChange_only ..).trans <| setPins_only _ _

theorem reportRepairs_only (s : State) : Only [.dict] s (reportRepairs s) := by
  unfold reportRepairs
  exact .mono (by rfl) <| .trans (.foldl (fun _ _ => dset_only ..) _ _) <| .foldl (fun _ _ => dset_only ..) _ _

theorem runCold_only (s : State) (obs : StartObs) :
    Only [.now, .drone, .fresh, .dict, .tel, .audit, .sec, .cfg, .pwr, .pins, .clusters, .cores, .queues, .jobs, .parts,
      .bufs, .index, .tiered, .keys, .keyGens, .dirs, .ctxs, .sync, .reds, .mbx, .host, .win, .miss, .lease, .rel, .hbm,
      .hostOut] s (runCold s obs) := by
  unfold runCold
  extract_lets +onlyGivenNames tel1 s2 src3 s4
  have h2 : Only [.dict, .tel, .sec, .cfg, .clusters, .cores, .queues, .jobs, .parts, .bufs, .index, .tiered, .keys, .keyGens,
    .dirs, .ctxs, .sync, .reds, .mbx, .host, .win, .miss, .rel, .hbm, .hostOut] s s2 := .mono (by rfl) <|
    (clearMemory_only ..).trans <| keepEntries_only ..
  have h4 : Only [.dict, .tel, .sec, .cfg, .clusters, .cores, .queues, .jobs, .parts, .bufs, .index, .tiered, .keys, .keyGens,
    .dirs, .ctxs, .sync, .reds, .mbx, .host, .win, .miss, .rel, .hbm, .hostOut, .now] s s4 := .mono (by rfl) <| h2.trans <|
    setNowTelSecWin_only _ _ _ _ _ (by rfl)
  split
  · exact .mono (by rfl) <| h4.trans <| startFailed_only ..
  · exact .mono (by rfl) <| h4.trans <| .trans (.foldl (fun _ _ => .ite (channelOut_only ..) (.refl _)) _ _) <|
      .trans (.foldl (fun _ _ => .ite (channelOut_only ..) (.refl _)) _ _) <|
      .trans (.foldl (fun _ _ => nameCores_only ..) _ _) <| (reportRepairs_only ..).trans <| reachReady_only ..

theorem dropBase_only (s : State) (part : Nat) :
    Only [.dict, .parts, .bufs, .index, .tiered, .ctxs, .mbx, .rel] s (dropBase s part) := by
  unfold dropBase
  exact .mono (by rfl) <| .ite ((freeBase_only ..).trans <| (noBase_only ..).trans <| bumpBaseGen_only ..) (.refl _)

theorem runWarm_only (s : State) (obs : StartObs) :
    Only [.now, .drone, .fresh, .dict, .tel, .audit, .sec, .cfg, .pwr, .pins, .clusters, .cores, .queues, .jobs, .parts,
      .bufs, .index, .tiered, .keys, .keyGens, .dirs, .ctxs, .sync, .reds, .mbx, .host, .win, .miss, .lease, .rel, .hbm,
      .hostOut] s (runWarm s obs) := by
  unfold runWarm
  extract_lets +onlyGivenNames s1
  have h1 : Only [.dict, .tel, .sec, .cfg, .cores, .queues, .jobs, .parts, .bufs, .index, .tiered, .keys, .keyGens, .dirs,
    .ctxs, .sync, .reds, .mbx, .host, .win, .miss, .rel, .hbm, .hostOut] s s1 := .mono (by rfl) <| (clearRuntime_only ..).trans <|
    keepEntries_only ..
  split
  · exact .mono (by rfl) <| h1.trans <| startFailed_only ..
  · exact .mono (by rfl) <| h1.trans <| .trans (.foldl (fun _ _ => dropBase_only ..) _ _) <|
      .trans (.foldl (fun _ _ => renameCores_only ..) _ _) <| (setNow_only _ _).trans <| reachReady_only ..

theorem coldStart_only (s : State) (obs : StartObs) :
    Only [.now, .drone, .fresh, .dict, .tel, .audit, .sec, .cfg, .pwr, .pins, .clusters, .cores, .queues, .jobs, .parts,
      .bufs, .index, .tiered, .keys, .keyGens, .dirs, .ctxs, .sync, .reds, .mbx, .host, .win, .miss, .lease, .rel, .hbm,
      .hostOut] s (coldStart s obs) := by
  unfold coldStart
  exact .mono (by rfl) <| .ite (runCold_only ..) (.refl _)

theorem warmStart_only (s : State) (obs : StartObs) :
    Only [.now, .drone, .fresh, .dict, .tel, .audit, .sec, .cfg, .pwr, .pins, .clusters, .cores, .queues, .jobs, .parts,
      .bufs, .index, .tiered, .keys, .keyGens, .dirs, .ctxs, .sync, .reds, .mbx, .host, .win, .miss, .lease, .rel, .hbm,
      .hostOut] s (warmStart s obs) := by
  unfold warmStart
  exact .mono (by rfl) <| .ite (.refl _) (.ite (runWarm_only ..) ((dset_only ..).trans <| runCold_only ..))

theorem stepTimeout_only (s : State) (n : Nat) : Only [.dict, .cfg] s (stepTimeout s n) := by
  unfold stepTimeout
  exact .mono (by rfl) <| .ite (startFailed_only ..) (.refl _)

theorem railsOn_only (s : State) (refclkOk : Bool) :
    Only [.drone, .fresh, .dict, .tel, .sec, .cfg, .pwr, .pins, .cores, .queues, .jobs, .parts, .bufs, .index, .tiered, .keys,
      .keyGens, .dirs, .ctxs, .sync, .reds, .mbx, .host, .win, .miss, .rel, .hbm, .hostOut] s (railsOn s refclkOk) := by
  unfold railsOn
  split
  · exact .mono (by rfl) <| .refl _
  · split
    · exact .mono (by rfl) <| detectFree_only ..
    · extract_lets +onlyGivenNames src1 src2 s3
      have h3 : Only [.drone, .pwr, .pins] s s3 := .mono (by rfl) <| setDronePwrPins_only _ _ _ _
      exact .mono (by rfl) <| .ite h3 (h3.trans <| beginStart_only ..)

theorem pwrEnRise_only (s : State) (refclkOk : Bool) :
    Only [.drone, .fresh, .dict, .tel, .sec, .cfg, .pwr, .pins, .cores, .queues, .jobs, .parts, .bufs, .index, .tiered, .keys,
      .keyGens, .dirs, .ctxs, .sync, .reds, .mbx, .host, .win, .miss, .rel, .hbm, .hostOut] s (pwrEnRise s refclkOk) := by
  unfold pwrEnRise
  exact .mono (by rfl) <| (setPwr_only _ _).trans <| railsOn_only ..

theorem pwrEnFall_only (s : State) :
    Only [.dict, .tel, .sec, .cfg, .pwr, .pins, .clusters, .cores, .queues, .jobs, .parts, .bufs, .index, .tiered, .keys,
      .keyGens, .dirs, .ctxs, .sync, .reds, .mbx, .host, .win, .miss, .rel, .hbm, .hostOut] s (pwrEnFall s) := by
  unfold pwrEnFall
  exact .mono (by rfl) <| (setPwr_only _ _).trans <| railsOff_only ..

theorem aux12Applied_only (s : State) :
    Only [.drone, .fresh, .dict, .tel, .sec, .cfg, .pwr, .pins, .cores, .queues, .jobs, .parts, .bufs, .index, .tiered, .keys,
      .keyGens, .dirs, .ctxs, .sync, .reds, .mbx, .host, .win, .miss, .rel, .hbm, .hostOut] s (aux12Applied s) := by
  unfold aux12Applied
  exact .mono (by rfl) <| .ite (.refl _) ((setDronePwr_only _ _ _).trans <| railsOn_only ..)

theorem aux12Low_only (s : State) :
    Only [.drone, .dict, .tel, .sec, .cfg, .pwr, .pins, .clusters, .cores, .queues, .jobs, .parts, .bufs, .index, .tiered,
      .keys, .keyGens, .dirs, .ctxs, .sync, .reds, .mbx, .host, .win, .miss, .rel, .hbm, .hostOut] s (aux12Low s) := by
  unfold aux12Low
  split
  · exact .mono (by rfl) <| .refl _
  · extract_lets +onlyGivenNames s1 src2 src3 src4 src5 s6
    have h1 : Only [.dict, .tel, .sec, .cfg, .pwr, .pins, .clusters, .cores, .queues, .jobs, .parts, .bufs, .index, .tiered,
      .keys, .keyGens, .dirs, .ctxs, .sync, .reds, .mbx, .host, .win, .miss, .rel, .hbm, .hostOut] s s1 := .mono (by rfl) <|
      railsOff_only ..
    have h6 : Only [.dict, .tel, .sec, .cfg, .pwr, .pins, .clusters, .cores, .queues, .jobs, .parts, .bufs, .index, .tiered,
      .keys, .keyGens, .dirs, .ctxs, .sync, .reds, .mbx, .host, .win, .miss, .rel, .hbm, .hostOut, .drone] s s6 := .mono (by rfl) <|
      h1.trans <| setDroneCfgPwrPinsRel_only _ _ _ _ _ _
    exact .mono (by rfl) <| .ite (h6.trans <| (dset_only ..).trans <| dset_only ..) h6

theorem main48Out_only (s : State) :
    Only [.dict, .tel, .sec, .cfg, .pwr, .pins, .clusters, .cores, .queues, .jobs, .parts, .bufs, .index, .tiered, .keys,
      .keyGens, .dirs, .ctxs, .sync, .reds, .mbx, .host, .win, .miss, .rel, .hbm, .hostOut] s (main48Out s) := by
  unfold main48Out
  exact .mono (by rfl) <| (setPwr_only _ _).trans <| railsOff_only ..

theorem main48Applied_only (s : State) :
    Only [.drone, .fresh, .dict, .tel, .sec, .cfg, .pwr, .pins, .cores, .queues, .jobs, .parts, .bufs, .index, .tiered, .keys,
      .keyGens, .dirs, .ctxs, .sync, .reds, .mbx, .host, .win, .miss, .rel, .hbm, .hostOut] s (main48Applied s) := by
  unfold main48Applied
  exact .mono (by rfl) <| (setPwr_only _ _).trans <| railsOn_only ..

theorem modrst_only (s : State) :
    Only [.dict, .tel, .sec, .cfg, .pins, .cores, .queues, .jobs, .parts, .bufs, .index, .tiered, .keys, .keyGens, .dirs,
      .ctxs, .sync, .reds, .mbx, .host, .win, .miss, .rel, .hbm, .hostOut] s (modrst s) := by
  unfold modrst
  exact .mono (by rfl) <| .ite (.refl _) (.ite (leaveHold_only ..) (requestStart_only ..))

theorem dieTemperature_only (s : State) (die celsius : Nat) :
    Only [.fresh, .dict, .tel, .sec, .cfg, .pwr, .pins, .clusters, .cores, .queues, .jobs, .parts, .bufs, .index, .tiered,
      .keys, .keyGens, .dirs, .ctxs, .sync, .reds, .mbx, .host, .win, .miss, .rel, .hbm,
      .hostOut] s (dieTemperature s die celsius) := by
  unfold dieTemperature
  split
  · exact .mono (by rfl) <| .refl _
  · extract_lets +onlyGivenNames s1 src2 s3
    have h1 : Only [.dict] s s1 := .mono (by rfl) <| .ite (raiseTo_only ..) (.refl _)
    have h3 : Only [.dict, .pwr] s s3 := .mono (by rfl) <| h1.trans <| setPwr_only _ _
    split
    · exact .mono (by rfl) <| h3.trans <| (alarmLog_only ..).trans <| (railsOff_only ..).trans <| setPins_only _ _
    · extract_lets +onlyGivenNames src6 src7 src8 s10
      have h10 : Only [.dict, .pwr, .fresh, .tel, .pins] s s10 := .mono (by rfl) <| .ite (.trans (.ite h3 (h3.trans <|
        alarmLog_only ..)) <| setPwr_only _ _) (.ite (h3.trans <| setPwr_only _ _) h3)
      exact .mono (by rfl) <| .ite (h10.trans <| (setPwr_only _ _).trans <| requestStep_only ..) h10

theorem perst_only (s : State) (h : Hub) :
    Only [.fresh, .dict, .tel, .pins, .cores, .queues, .jobs, .parts, .bufs, .index, .tiered, .ctxs, .sync, .mbx, .host, .win,
      .miss, .rel, .hbm, .hostOut] s (perst s h) := by
  unfold perst
  exact .mono (by rfl) <| .ite (.refl _) (.foldl (fun _ _ => hostReadDone_only ..) _ _)

theorem execColdStart_only (obs : StartObs) (s : State) :
    Answers [.now, .drone, .fresh, .dict, .tel, .audit, .sec, .cfg, .pwr, .pins, .clusters, .cores, .queues, .jobs, .parts,
      .bufs, .index, .tiered, .keys, .keyGens, .dirs, .ctxs, .sync, .reds, .mbx, .host, .win, .miss, .lease, .rel, .hbm,
      .hostOut] s (execColdStart obs s) := by
  unfold execColdStart
  exact Only.answers (.mono (by rfl) <| coldStart_only ..)

theorem execWarmStart_only (obs : StartObs) (s : State) :
    Answers [.now, .drone, .fresh, .dict, .tel, .audit, .sec, .cfg, .pwr, .pins, .clusters, .cores, .queues, .jobs, .parts,
      .bufs, .index, .tiered, .keys, .keyGens, .dirs, .ctxs, .sync, .reds, .mbx, .host, .win, .miss, .lease, .rel, .hbm,
      .hostOut] s (execWarmStart obs s) := by
  unfold execWarmStart
  exact Only.answers (.mono (by rfl) <| warmStart_only ..)

theorem execStartStepTimeout_only (step : Nat) (s : State) : Answers [.dict, .cfg] s (execStartStepTimeout step s) := by
  unfold execStartStepTimeout
  exact Only.answers (.mono (by rfl) <| stepTimeout_only ..)

theorem execPwrEnRise_only (refclkOk : Bool) (s : State) :
    Answers [.drone, .fresh, .dict, .tel, .sec, .cfg, .pwr, .pins, .cores, .queues, .jobs, .parts, .bufs, .index, .tiered,
      .keys, .keyGens, .dirs, .ctxs, .sync, .reds, .mbx, .host, .win, .miss, .rel, .hbm,
      .hostOut] s (execPwrEnRise refclkOk s) := by
  unfold execPwrEnRise
  exact Only.answers (.mono (by rfl) <| pwrEnRise_only ..)

theorem execPwrEnFall_only (s : State) :
    Answers [.dict, .tel, .sec, .cfg, .pwr, .pins, .clusters, .cores, .queues, .jobs, .parts, .bufs, .index, .tiered, .keys,
      .keyGens, .dirs, .ctxs, .sync, .reds, .mbx, .host, .win, .miss, .rel, .hbm, .hostOut] s (execPwrEnFall s) := by
  unfold execPwrEnFall
  exact Only.answers (.mono (by rfl) <| pwrEnFall_only ..)

theorem execAux12vApplied_only (s : State) :
    Answers [.drone, .fresh, .dict, .tel, .sec, .cfg, .pwr, .pins, .cores, .queues, .jobs, .parts, .bufs, .index, .tiered,
      .keys, .keyGens, .dirs, .ctxs, .sync, .reds, .mbx, .host, .win, .miss, .rel, .hbm, .hostOut] s (execAux12vApplied s) := by
  unfold execAux12vApplied
  exact Only.answers (.mono (by rfl) <| aux12Applied_only ..)

theorem execAux12vLow_only (s : State) :
    Answers [.drone, .dict, .tel, .sec, .cfg, .pwr, .pins, .clusters, .cores, .queues, .jobs, .parts, .bufs, .index, .tiered,
      .keys, .keyGens, .dirs, .ctxs, .sync, .reds, .mbx, .host, .win, .miss, .rel, .hbm, .hostOut] s (execAux12vLow s) := by
  unfold execAux12vLow
  exact Only.answers (.mono (by rfl) <| aux12Low_only ..)

theorem execMain48vOutOfRange_only (s : State) :
    Answers [.dict, .tel, .sec, .cfg, .pwr, .pins, .clusters, .cores, .queues, .jobs, .parts, .bufs, .index, .tiered, .keys,
      .keyGens, .dirs, .ctxs, .sync, .reds, .mbx, .host, .win, .miss, .rel, .hbm, .hostOut] s (execMain48vOutOfRange s) := by
  unfold execMain48vOutOfRange
  exact Only.answers (.mono (by rfl) <| main48Out_only ..)

theorem execMain48vApplied_only (s : State) :
    Answers [.drone, .fresh, .dict, .tel, .sec, .cfg, .pwr, .pins, .cores, .queues, .jobs, .parts, .bufs, .index, .tiered,
      .keys, .keyGens, .dirs, .ctxs, .sync, .reds, .mbx, .host, .win, .miss, .rel, .hbm,
      .hostOut] s (execMain48vApplied s) := by
  unfold execMain48vApplied
  exact Only.answers (.mono (by rfl) <| main48Applied_only ..)

theorem execModrstAssert_only (s : State) :
    Answers [.dict, .tel, .sec, .cfg, .pins, .cores, .queues, .jobs, .parts, .bufs, .index, .tiered, .keys, .keyGens, .dirs,
      .ctxs, .sync, .reds, .mbx, .host, .win, .miss, .rel, .hbm, .hostOut] s (execModrstAssert s) := by
  unfold execModrstAssert
  exact Only.answers (.mono (by rfl) <| modrst_only ..)

theorem execRefclkCheck_only (refclkOk : Bool) (s : State) :
    Answers [.drone, .fresh, .dict, .tel, .sec, .cfg, .pwr, .pins, .cores, .queues, .jobs, .parts, .bufs, .index, .tiered,
      .keys, .keyGens, .dirs, .ctxs, .sync, .reds, .mbx, .host, .win, .miss, .rel, .hbm,
      .hostOut] s (execRefclkCheck refclkOk s) := by
  unfold execRefclkCheck
  exact Only.answers (.mono (by rfl) <| railsOn_only ..)

theorem execDieTemperatureHigh_only (die celsius : Nat) (s : State) :
    Answers [.fresh, .dict, .tel, .sec, .cfg, .pwr, .pins, .clusters, .cores, .queues, .jobs, .parts, .bufs, .index, .tiered,
      .keys, .keyGens, .dirs, .ctxs, .sync, .reds, .mbx, .host, .win, .miss, .rel, .hbm,
      .hostOut] s (execDieTemperatureHigh die celsius s) := by
  unfold execDieTemperatureHigh
  exact Only.answers (.mono (by rfl) <| dieTemperature_only ..)

/-! ## Pins -/

theorem setLock_only (s : State) (b : Bool) : Only [.dict, .pins, .win] s (setLock s b) := by
  unfold setLock
  extract_lets +onlyGivenNames s1
  have h1 : Only [.dict] s s1 := .mono (by rfl) <| dset_only ..
  exact .mono (by rfl) <| .ite (h1.trans <| setPinsWin_only _ _ _) h1

theorem beatEdge_only (s : State) (highNs : Nat) : Only [.dict, .pins, .win] s (beatEdge s highNs) := by
  unfold beatEdge
  exact .mono (by rfl) <| .ite (.refl _) (.ite (setLock_only ..) (.ite (bump_only ..) (.refl _)))

theorem beatPulse_only (s : State) : Only [.now, .dict, .pins, .win] s (beatPulse s) := by
  unfold beatPulse
  split
  · exact .mono (by rfl) <| .refl _
  · extract_lets +onlyGivenNames s1
    have h1 : Only [.now, .dict] s s1 := .mono (by rfl) <| (setNow_only _ _).trans <| bump_only ..
    exact .mono (by rfl) <| .ite h1 (.ite (h1.trans <| setLock_only ..) (h1.trans <| setPins_only _ _))

theorem slew_only (s : State) : Only [.now, .win] s (slew s) := by
  unfold slew
  extract_lets +onlyGivenNames beats1 src2 s3
  have h3 : Only [.win] s s3 := .mono (by rfl) <| setWin_only _ _
  exact .mono (by rfl) <| .ite h3 (.ite (h3.trans <| setNowWin_only _ _ _) (.ite (h3.trans <| setWin_only _ _) h3))

theorem timeSync_only (s : State) (stamps : Option (Nat × Nat × Nat × Nat)) :
    Only [.now, .dict, .pins, .win] s (timeSync s stamps) := by
  unfold timeSync
  split
  · exact .mono (by rfl) <| .refl _
  · split
    · extract_lets +onlyGivenNames n1 src2 s3
      have h3 : Only [.win] s s3 := .mono (by rfl) <| setWin_only _ _
      exact .mono (by rfl) <| .ite (h3.trans <| setLock_only ..) h3
    · extract_lets +onlyGivenNames src4 s5
      have h5 : Only [.win] s s5 := .mono (by rfl) <| setWin_only _ _
      exact .mono (by rfl) <| .ite (h5.trans <| slew_only ..) (.ite (h5.trans <| setLock_only ..) (h5.trans <| slew_only ..))

theorem execBeatSyncInEdge_only (highNs : Nat) (s : State) : Answers [.dict, .pins, .win] s (execBeatSyncInEdge highNs s) := by
  unfold execBeatSyncInEdge
  exact Only.answers (.mono (by rfl) <| beatEdge_only ..)

theorem execBeatSyncOutPulse_only (s : State) : Answers [.now, .dict, .pins, .win] s (execBeatSyncOutPulse s) := by
  unfold execBeatSyncOutPulse
  exact Only.answers (.mono (by rfl) <| beatPulse_only ..)

theorem execTimeSyncExchange_only (stamps : Option (Nat × Nat × Nat × Nat)) (s : State) :
    Answers [.now, .dict, .pins, .win] s (execTimeSyncExchange stamps s) := by
  unfold execTimeSyncExchange
  exact Only.answers (.mono (by rfl) <| timeSync_only ..)

/-! ## Dictionary writes -/

theorem fdpReply_only (s : State) (path : Path) (header : List Byte) (st : Status) (data : List Byte) :
    Only [.tel] s (fdpReply s path header st data) := by
  unfold fdpReply
  extract_lets +onlyGivenNames r1 src2 s3
  have h3 : Only [.tel] s s3 := .mono (by rfl) <| setTel_only _ _
  split
  · exact .mono (by rfl) <| h3.trans <| setTel_only _ _
  · exact .mono (by rfl) <| h3
  · exact .mono (by rfl) <| h3

theorem replyWrite_only (s : State) (reply : Option Reply) (st : Status) : Only [.tel] s (replyWrite s reply st) := by
  unfold replyWrite
  split
  · exact .mono (by rfl) <| .refl _
  · exact .mono (by rfl) <| fdpReply_only ..

theorem ceilingStep_only (s : State) : Only [.clusters] s (ceilingStep s) := by
  unfold ceilingStep
  exact .mono (by rfl) <| .ite (requestStep_only ..) (.refl _)

theorem storeEntry_only (s : State) (role : Role) (index sub : Nat) (v : DVal) :
    Only [.dict, .cfg] s (storeEntry s role index sub v) := by
  unfold storeEntry
  exact .mono (by rfl) <| (dput_only ..).trans <| markPending_only ..

theorem alarmAction_only (s : State) (slot n : Nat) : Only [.dict, .tel, .pins] s (alarmAction s slot n) := by
  unfold alarmAction
  exact .mono (by rfl) <| .ite (.refl _) (.ite (.ite (putAlarm_only ..) (putAlarm_only ..)) (.ite (putAlarm_only ..) (.refl _)))

theorem gpioWrite_only (s : State) (role : Role) (pin fn : Nat) : Only [.dict, .cfg, .pins] s (gpioWrite s role pin fn).1 := by
  unfold gpioWrite
  split
  · exact .mono (by rfl) <| .refl _
  · extract_lets +onlyGivenNames s1
    have h1 : Only [.dict, .cfg] s s1 := .mono (by rfl) <| markPending_only ..
    exact .mono (by rfl) <| h1.trans <| setPins_only _ _

theorem checkpoint_only (s : State) : Only [.fresh, .sec] s (checkpoint s) := by
  unfold checkpoint
  exact .mono (by rfl) <| (drawn_only ..).trans <| submitEngine_only ..

theorem startRequest_only (s : State) (cold : Bool) :
    Only [.dict, .tel, .sec, .cfg, .pins, .cores, .queues, .jobs, .parts, .bufs, .index, .tiered, .keys, .keyGens, .dirs,
      .ctxs, .sync, .reds, .mbx, .host, .win, .miss, .rel, .hbm, .hostOut] s (startRequest s cold) := by
  unfold startRequest
  exact .mono (by rfl) <| .ite ((setCfg_only _ _).trans <| leaveHold_only ..) (requestStart_only ..)

theorem directoryEffect_only (s : State) (part n : Nat) : Only [.dict] s (directoryEffect s part n) := by
  unfold directoryEffect
  exact .mono (by rfl) <| (chargeBase_only ..).trans <| dset_only ..

theorem resetEffect_only (s : State) (fn : Nat) :
    Only [.dict, .tel, .sec, .cores, .queues, .jobs, .parts, .bufs, .index, .tiered, .ctxs, .sync, .reds, .mbx, .host, .win,
      .miss, .rel, .hbm, .hostOut] s (resetEffect s fn).1 := by
  unfold resetEffect
  extract_lets +onlyGivenNames s1
  have h1 : Only [.dict, .tel, .sec, .cores, .queues, .jobs, .parts, .bufs, .index, .tiered, .ctxs, .sync, .reds, .mbx, .host,
    .win, .miss, .rel, .hbm, .hostOut] s s1 := .mono (by rfl) <| .ite (resetAll_only ..) (beginReset_only ..)
  exact .mono (by rfl) <| h1

theorem partitionEffect_only (s : State) (index sub : Nat) (v : DVal) :
    Only [.dict, .tel, .sec, .clusters, .cores, .queues, .jobs, .parts, .bufs, .index, .tiered, .ctxs, .sync, .reds, .mbx,
      .host, .win, .miss, .rel, .hbm, .hostOut] s (partitionEffect s index sub v).1 := by
  unfold partitionEffect
  extract_lets +onlyGivenNames n1
  split
  · split
    · dsimp only
      exact .mono (by rfl) <| .ite (flush_only ..) (.refl _)
    · dsimp only
      exact .mono (by rfl) <| poolEffect_only ..
  · split
    · split
      · exact .mono (by rfl) <| resetEffect_only ..
      · dsimp only
        exact .mono (by rfl) <| dput_only ..
    · split
      · split
        · dsimp only
          exact .mono (by rfl) <| assignEffect_only ..
        · split
          · exact .mono (by rfl) <| resetEffect_only ..
          · dsimp only
            exact .mono (by rfl) <| dput_only ..
      · split
        · split
          · dsimp only
            exact .mono (by rfl) <| directoryEffect_only ..
          · dsimp only
            exact .mono (by rfl) <| dput_only ..
        · split
          · exact .mono (by rfl) <| mapEffect_only ..
          · dsimp only
            exact .mono (by rfl) <| quotaEffect_only ..

theorem writeEffect_only (s : State) (role : Role) (index sub : Nat) (v : DVal) :
    Only [.fresh, .dict, .tel, .audit, .sec, .cfg, .pins, .clusters, .cores, .queues, .jobs, .parts, .bufs, .index, .tiered,
      .keys, .keyGens, .dirs, .ctxs, .sync, .reds, .mbx, .host, .win, .miss, .rel, .hbm, .hostOut]
      s (writeEffect s role index sub v).1 := by
  unfold writeEffect
  extract_lets n
  exact .either_fst ((startRequest_only ..).mono (by rfl)) <| .either_fst ((beginCommit_only ..).mono (by rfl)) <|
    .either_fst ((gpioWrite_only ..).mono (by rfl)) <| .either_fst (((dset_only ..).trans (ceilingStep_only ..)).mono (by rfl)) <|
    .either_fst (((storeEntry_only ..).trans <| (dset_only ..).trans (ceilingStep_only ..)).mono (by rfl)) <|
    .either_fst ((partitionEffect_only ..).mono (by rfl)) <| .either_fst ((alarmAction_only ..).mono (by rfl)) <|
    .either_fst (((dset_only ..).trans (journalFlush_only ..)).mono (by rfl)) <| .either_fst ((submitEngine_only ..).mono (by rfl)) <|
    .either_fst (((dset_only ..).trans (recordHoldRequest_only ..)).mono (by rfl)) <|
    .either_fst (.either_fst ((checkpoint_only ..).mono (by rfl)) (.self _)) <|
    .either_fst (((storeEntry_only ..).trans (ceilingStep_only ..)).mono (by rfl)) <|
    .either_fst (.either_fst (((failover_only ..).trans (drainCheck_only ..)).mono (by rfl)) (.self _)) <|
    .either_fst ((declareDead_only ..).mono (by rfl)) ((storeEntry_only ..).mono (by rfl))

theorem applyWrite_only (s : State) (role : Role) (index sub : Nat) (value : DVal) (reply : Option Reply) :
    Only [.fresh, .dict, .tel, .audit, .sec, .cfg, .pins, .clusters, .cores, .queues, .jobs, .parts, .bufs, .index, .tiered,
      .keys, .keyGens, .dirs, .ctxs, .sync, .reds, .mbx, .host, .win, .miss, .rel, .hbm,
      .hostOut] s (applyWrite s role index sub value reply) := by
  unfold applyWrite
  extract_lets +onlyGivenNames v1 s2
  have h2 : Only [.dict, .tel, .audit, .cfg, .pins] s s2 := .mono (by rfl) <| .ite (.refl _) (auditWrite_only ..)
  split
  next heq =>
    have h3 : Only [.dict, .tel, .audit, .cfg, .pins, .fresh, .sec, .clusters, .cores, .queues, .jobs, .parts, .bufs, .index,
      .tiered, .keys, .keyGens, .dirs, .ctxs, .sync, .reds, .mbx, .host, .win, .miss, .rel, .hbm,
      .hostOut] s _ := (Only.of_fst (h2.trans <| writeEffect_only ..) heq).mono (by rfl)
    exact .mono (by rfl) <| .ite (h3.trans <| setTel_only _ _) (h3.trans <| replyWrite_only ..)

theorem writeEntry_only (s : State) (role : Role) (who : Option Nat) (index sub : Nat) (v : DVal) (reply : Option Reply) :
    Only [.fresh, .dict, .tel, .audit, .sec, .cfg, .pins, .clusters, .cores, .queues, .jobs, .parts, .bufs, .index, .tiered,
      .keys, .keyGens, .dirs, .ctxs, .sync, .reds, .mbx, .host, .win, .miss, .rel, .hbm,
      .hostOut] s (writeEntry s role who index sub v reply) := by
  unfold writeEntry
  exact .mono (by rfl) <| .ite (.refl _) (.ite (setTel_only _ _) (.ite ((drawn_only ..).trans <|
    replyWrite_only ..) (applyWrite_only ..)))

theorem runHeld_only (fuel : Nat) (s : State) (key : Nat) :
    Only [.fresh, .dict, .tel, .audit, .sec, .cfg, .pins, .clusters, .cores, .queues, .jobs, .parts, .bufs, .index, .tiered,
      .keys, .keyGens, .dirs, .ctxs, .sync, .reds, .mbx, .host, .win, .miss, .rel, .hbm, .hostOut] s (runHeld fuel s key) := by
  induction fuel generalizing s with
  | zero => exact .mono (by rfl) <| .refl _
  | succ n ih =>
    unfold runHeld
    split
    · exact .mono (by rfl) <| .refl _
    · split
      · exact .mono (by rfl) <| .refl _
      · exact .mono (by rfl) <| (setTel_only _ _).trans <| (writeEntry_only ..).trans <| ih ..

theorem writeDone_only (s : State) (key : Nat) (st : Status) :
    Only [.fresh, .dict, .tel, .audit, .sec, .cfg, .pins, .clusters, .cores, .queues, .jobs, .parts, .bufs, .index, .tiered,
      .keys, .keyGens, .dirs, .ctxs, .sync, .reds, .mbx, .host, .win, .miss, .rel, .hbm, .hostOut] s (writeDone s key st) := by
  unfold writeDone
  split
  · exact .mono (by rfl) <| .refl _
  · exact .mono (by rfl) <| (setTel_only _ _).trans <| (replyWrite_only ..).trans <| runHeld_only ..

theorem settleResets_only (s : State) :
    Only [.fresh, .dict, .tel, .audit, .sec, .cfg, .pins, .clusters, .cores, .queues, .jobs, .parts, .bufs, .index, .tiered,
      .keys, .keyGens, .dirs, .ctxs, .sync, .reds, .mbx, .host, .win, .miss, .rel, .hbm, .hostOut] s (settleResets s) := by
  unfold settleResets
  exact .mono (by rfl) <| .foldl (fun _ _ => .ite (writeDone_only ..) (.refl _)) _ _

theorem gpioEnable_only (s : State) (pin : Nat) :
    Only [.drone, .fresh, .dict, .tel, .audit, .sec, .cfg, .pins, .clusters, .cores, .queues, .jobs, .parts, .bufs, .index,
      .tiered, .keys, .keyGens, .dirs, .ctxs, .sync, .reds, .mbx, .host, .win, .miss, .rel, .hbm,
      .hostOut] s (gpioEnable s pin) := by
  unfold gpioEnable
  split
  · exact .mono (by rfl) <| .refl _
  · exact .mono (by rfl) <| (setDronePins_only _ _ _).trans <| (dset_only ..).trans <| (bump_only ..).trans <| writeDone_only ..

theorem execDictionaryWrite_only (role : Role) (index sub : Nat) (value : DVal) (s : State) :
    Answers [.now, .fresh, .dict, .tel, .audit, .sec, .cfg, .pins, .clusters, .cores, .queues, .jobs, .parts, .bufs, .index,
      .tiered, .keys, .keyGens, .dirs, .ctxs, .sync, .reds, .mbx, .host, .win, .miss, .rel, .hbm,
      .hostOut] s (execDictionaryWrite role index sub value s) := by
  unfold execDictionaryWrite
  exact Only.answers (.mono (by rfl) <| (settleAll_only ..).trans <| writeEntry_only ..)

theorem execMapWrite_only (role : Role) (part : Nat) (pairs : Bool) (value : Nat) (s : State) :
    Answers [.now, .fresh, .dict, .tel, .audit, .sec, .cfg, .pins, .clusters, .cores, .queues, .jobs, .parts, .bufs, .index,
      .tiered, .keys, .keyGens, .dirs, .ctxs, .sync, .reds, .mbx, .host, .win, .miss, .rel, .hbm,
      .hostOut] s (execMapWrite role part pairs value s) := by
  unfold execMapWrite
  exact Only.answers (.mono (by rfl) <| .ite ((settleAll_only ..).trans <| writeEntry_only ..) (.refl _))

theorem execVfQuotaWrite_only (role : Role) (vf : Nat) (capacity : Bool) (value : Nat) (s : State) :
    Answers [.now, .fresh, .dict, .tel, .audit, .sec, .cfg, .pins, .clusters, .cores, .queues, .jobs, .parts, .bufs, .index,
      .tiered, .keys, .keyGens, .dirs, .ctxs, .sync, .reds, .mbx, .host, .win, .miss, .rel, .hbm,
      .hostOut] s (execVfQuotaWrite role vf capacity value s) := by
  unfold execVfQuotaWrite
  exact Only.answers (.mono (by rfl) <| .ite ((settleAll_only ..).trans <| writeEntry_only ..) (.refl _))

theorem execVfPartitionWrite_only (role : Role) (vf value : Nat) (s : State) :
    Answers [.now, .fresh, .dict, .tel, .audit, .sec, .cfg, .pins, .clusters, .cores, .queues, .jobs, .parts, .bufs, .index,
      .tiered, .keys, .keyGens, .dirs, .ctxs, .sync, .reds, .mbx, .host, .win, .miss, .rel, .hbm,
      .hostOut] s (execVfPartitionWrite role vf value s) := by
  unfold execVfPartitionWrite
  exact Only.answers (.mono (by rfl) <| .ite ((settleAll_only ..).trans <| writeEntry_only ..) (.refl _))

theorem execPoolWrite_only (role : Role) (part sub : Nat) (value : DVal) (s : State) :
    Answers [.now, .fresh, .dict, .tel, .audit, .sec, .cfg, .pins, .clusters, .cores, .queues, .jobs, .parts, .bufs, .index,
      .tiered, .keys, .keyGens, .dirs, .ctxs, .sync, .reds, .mbx, .host, .win, .miss, .rel, .hbm,
      .hostOut] s (execPoolWrite role part sub value s) := by
  unfold execPoolWrite
  exact Only.answers (.mono (by rfl) <| .ite ((settleAll_only ..).trans <| writeEntry_only ..) (.refl _))

theorem execFunctionReset_only (vf : Nat) (byWrite : Option Role) (s : State) :
    Answers [.now, .fresh, .dict, .tel, .audit, .sec, .cfg, .pins, .clusters, .cores, .queues, .jobs, .parts, .bufs, .index,
      .tiered, .keys, .keyGens, .dirs, .ctxs, .sync, .reds, .mbx, .host, .win, .miss, .rel, .hbm,
      .hostOut] s (execFunctionReset vf byWrite s) := by
  unfold execFunctionReset
  split
  · exact Only.answers (.mono (by rfl) <| .ite ((settleAll_only ..).trans <| writeEntry_only ..) (.refl _))
  · exact Only.answers (.mono (by rfl) <| .ite (beginReset_only ..) (.refl _))

theorem execPfReset_only (byWrite : Option Role) (s : State) :
    Answers [.now, .fresh, .dict, .tel, .audit, .sec, .cfg, .pins, .clusters, .cores, .queues, .jobs, .parts, .bufs, .index,
      .tiered, .keys, .keyGens, .dirs, .ctxs, .sync, .reds, .mbx, .host, .win, .miss, .rel, .hbm,
      .hostOut] s (execPfReset byWrite s) := by
  unfold execPfReset
  split
  · exact Only.answers (.mono (by rfl) <| (settleAll_only ..).trans <| writeEntry_only ..)
  · exact Only.answers (.mono (by rfl) <| .ite (resetAll_only ..) (.refl _))

theorem execEpochFlush_only (role : Role) (part : Nat) (s : State) :
    Answers [.now, .fresh, .dict, .tel, .audit, .sec, .cfg, .pins, .clusters, .cores, .queues, .jobs, .parts, .bufs, .index,
      .tiered, .keys, .keyGens, .dirs, .ctxs, .sync, .reds, .mbx, .host, .win, .miss, .rel, .hbm,
      .hostOut] s (execEpochFlush role part s) := by
  unfold execEpochFlush
  exact Only.answers (.mono (by rfl) <| .ite ((settleAll_only ..).trans <| writeEntry_only ..) (.refl _))

theorem execFailoverRequest_only (role : Role) (s : State) :
    Answers [.now, .fresh, .dict, .tel, .audit, .sec, .cfg, .pins, .clusters, .cores, .queues, .jobs, .parts, .bufs, .index,
      .tiered, .keys, .keyGens, .dirs, .ctxs, .sync, .reds, .mbx, .host, .win, .miss, .rel, .hbm,
      .hostOut] s (execFailoverRequest role s) := by
  unfold execFailoverRequest
  exact Only.answers (.mono (by rfl) <| (settleAll_only ..).trans <| writeEntry_only ..)

theorem execStartRequestWarm_only (role : Role) (inHold : Bool) (s : State) :
    Answers [.now, .fresh, .dict, .tel, .audit, .sec, .cfg, .pins, .clusters, .cores, .queues, .jobs, .parts, .bufs, .index,
      .tiered, .keys, .keyGens, .dirs, .ctxs, .sync, .reds, .mbx, .host, .win, .miss, .rel, .hbm,
      .hostOut] s (execStartRequestWarm role inHold s) := by
  unfold execStartRequestWarm
  exact Only.answers (.mono (by rfl) <| .ite ((settleAll_only ..).trans <| writeEntry_only ..) (.refl _))

theorem execStartRequestCold_only (role : Role) (inHold : Bool) (s : State) :
    Answers [.now, .fresh, .dict, .tel, .audit, .sec, .cfg, .pins, .clusters, .cores, .queues, .jobs, .parts, .bufs, .index,
      .tiered, .keys, .keyGens, .dirs, .ctxs, .sync, .reds, .mbx, .host, .win, .miss, .rel, .hbm,
      .hostOut] s (execStartRequestCold role inHold s) := by
  unfold execStartRequestCold
  exact Only.answers (.mono (by rfl) <| .ite ((settleAll_only ..).trans <| writeEntry_only ..) (.refl _))

theorem execConfigurationCommit_only (role : Role) (value : List Byte) (s : State) :
    Answers [.now, .fresh, .dict, .tel, .audit, .sec, .cfg, .pins, .clusters, .cores, .queues, .jobs, .parts, .bufs, .index,
      .tiered, .keys, .keyGens, .dirs, .ctxs, .sync, .reds, .mbx, .host, .win, .miss, .rel, .hbm,
      .hostOut] s (execConfigurationCommit role value s) := by
  unfold execConfigurationCommit
  exact Only.answers (.mono (by rfl) <| (settleAll_only ..).trans <| writeEntry_only ..)

theorem execStopChange_only (role : Role) (group stop : Nat) (s : State) :
    Answers [.now, .fresh, .dict, .tel, .audit, .sec, .cfg, .pins, .clusters, .cores, .queues, .jobs, .parts, .bufs, .index,
      .tiered, .keys, .keyGens, .dirs, .ctxs, .sync, .reds, .mbx, .host, .win, .miss, .rel, .hbm,
      .hostOut] s (execStopChange role group stop s) := by
  unfold execStopChange
  exact Only.answers (.mono (by rfl) <| .ite ((settleAll_only ..).trans <| writeEntry_only ..) (.refl _))

theorem execOverlayWrite_only (role : Role) (stop : Nat) (value : List Byte) (s : State) :
    Answers [.now, .fresh, .dict, .tel, .audit, .sec, .cfg, .pins, .clusters, .cores, .queues, .jobs, .parts, .bufs, .index,
      .tiered, .keys, .keyGens, .dirs, .ctxs, .sync, .reds, .mbx, .host, .win, .miss, .rel, .hbm,
      .hostOut] s (execOverlayWrite role stop value s) := by
  unfold execOverlayWrite
  exact Only.answers (.mono (by rfl) <| .ite ((settleAll_only ..).trans <| writeEntry_only ..) (.refl _))

theorem execOperatorKeyWrite_only (role : Role) (slot : Nat) (key : List Byte) (s : State) :
    Answers [.now, .fresh, .dict, .tel, .audit, .sec, .cfg, .pins, .clusters, .cores, .queues, .jobs, .parts, .bufs, .index,
      .tiered, .keys, .keyGens, .dirs, .ctxs, .sync, .reds, .mbx, .host, .win, .miss, .rel, .hbm,
      .hostOut] s (execOperatorKeyWrite role slot key s) := by
  unfold execOperatorKeyWrite
  exact Only.answers (.mono (by rfl) <| .ite ((settleAll_only ..).trans <| writeEntry_only ..) (.refl _))

theorem execCheckpointRequest_only (role : Role) (s : State) :
    Answers [.now, .fresh, .dict, .tel, .audit, .sec, .cfg, .pins, .clusters, .cores, .queues, .jobs, .parts, .bufs, .index,
      .tiered, .keys, .keyGens, .dirs, .ctxs, .sync, .reds, .mbx, .host, .win, .miss, .rel, .hbm,
      .hostOut] s (execCheckpointRequest role s) := by
  unfold execCheckpointRequest
  exact Only.answers (.mono (by rfl) <| (settleAll_only ..).trans <| writeEntry_only ..)

theorem execAuditExportWrite_only (role : Role) (value : Nat) (s : State) :
    Answers [.now, .fresh, .dict, .tel, .audit, .sec, .cfg, .pins, .clusters, .cores, .queues, .jobs, .parts, .bufs, .index,
      .tiered, .keys, .keyGens, .dirs, .ctxs, .sync, .reds, .mbx, .host, .win, .miss, .rel, .hbm,
      .hostOut] s (execAuditExportWrite role value s) := by
  unfold execAuditExportWrite
  exact Only.answers (.mono (by rfl) <| (settleAll_only ..).trans <| writeEntry_only ..)

theorem execAlarmAcknowledge_only (role : Role) (slot : Nat) (s : State) :
    Answers [.now, .fresh, .dict, .tel, .audit, .sec, .cfg, .pins, .clusters, .cores, .queues, .jobs, .parts, .bufs, .index,
      .tiered, .keys, .keyGens, .dirs, .ctxs, .sync, .reds, .mbx, .host, .win, .miss, .rel, .hbm,
      .hostOut] s (execAlarmAcknowledge role slot s) := by
  unfold execAlarmAcknowledge
  exact Only.answers (.mono (by rfl) <| .ite ((settleAll_only ..).trans <| writeEntry_only ..) (.refl _))

theorem execAlarmClear_only (role : Role) (slot : Nat) (s : State) :
    Answers [.now, .fresh, .dict, .tel, .audit, .sec, .cfg, .pins, .clusters, .cores, .queues, .jobs, .parts, .bufs, .index,
      .tiered, .keys, .keyGens, .dirs, .ctxs, .sync, .reds, .mbx, .host, .win, .miss, .rel, .hbm,
      .hostOut] s (execAlarmClear role slot s) := by
  unfold execAlarmClear
  exact Only.answers (.mono (by rfl) <| .ite ((settleAll_only ..).trans <| writeEntry_only ..) (.refl _))

theorem execDeclareDead_only (role : Role) (cluster k : Nat) (s : State) :
    Answers [.now, .fresh, .dict, .tel, .audit, .sec, .cfg, .pins, .clusters, .cores, .queues, .jobs, .parts, .bufs, .index,
      .tiered, .keys, .keyGens, .dirs, .ctxs, .sync, .reds, .mbx, .host, .win, .miss, .rel, .hbm,
      .hostOut] s (execDeclareDead role cluster k s) := by
  unfold execDeclareDead
  exact Only.answers (.mono (by rfl) <| .ite ((settleAll_only ..).trans <| writeEntry_only ..) (.refl _))

theorem execGpioFunctionWrite_only (role : Role) (pin fn : Nat) (s : State) :
    Answers [.now, .fresh, .dict, .tel, .audit, .sec, .cfg, .pins, .clusters, .cores, .queues, .jobs, .parts, .bufs, .index,
      .tiered, .keys, .keyGens, .dirs, .ctxs, .sync, .reds, .mbx, .host, .win, .miss, .rel, .hbm,
      .hostOut] s (execGpioFunctionWrite role pin fn s) := by
  unfold execGpioFunctionWrite
  exact Only.answers (.mono (by rfl) <| .ite ((settleAll_only ..).trans <| writeEntry_only ..) (.refl _))

theorem execGpioParkEnd_only (pin : Nat) (s : State) :
    Answers [.drone, .fresh, .dict, .tel, .audit, .sec, .cfg, .pins, .clusters, .cores, .queues, .jobs, .parts, .bufs, .index,
      .tiered, .keys, .keyGens, .dirs, .ctxs, .sync, .reds, .mbx, .host, .win, .miss, .rel, .hbm,
      .hostOut] s (execGpioParkEnd pin s) := by
  unfold execGpioParkEnd
  exact Only.answers (.mono (by rfl) <| gpioEnable_only ..)

/-! ## Dictionary requests -/

theorem afterGet_only (s : State) (index sub : Nat) : Only [.sec, .cfg] s (afterGet s index sub) := by
  unfold afterGet
  exact .mono (by rfl) <| .ite (setCfg_only _ _) (.ite (setSec_only _ _ (by rfl)) (.refl _))

theorem fdpGet_only (s : State) (who : Requester) (b : List Byte) : Only [.tel, .sec, .cfg] s (fdpGet s who b) := by
  unfold fdpGet
  exact .mono (by rfl) <| .ite (fdpReply_only ..) ((fdpReply_only ..).trans <| afterGet_only ..)

theorem fdpInfo_only (s : State) (who : Requester) (b : List Byte) : Only [.tel] s (fdpInfo s who b) := by
  unfold fdpInfo
  exact .mono (by rfl) <| fdpReply_only ..

theorem fdpNext_only (s : State) (who : Requester) (b : List Byte) : Only [.tel] s (fdpNext s who b) := by
  unfold fdpNext
  extract_lets +onlyGivenNames allowed1
  split
  · exact .mono (by rfl) <| fdpReply_only ..
  · split
    · exact .mono (by rfl) <| fdpReply_only ..
    · split
      · exact .mono (by rfl) <| fdpReply_only ..
      · exact .mono (by rfl) <| fdpReply_only ..

theorem putSubscribers_only (s : State) (l : List Nat) : Only [.dict, .tel] s (putSubscribers s l) := by
  unfold putSubscribers
  exact .mono (by rfl) <| (setTel_only _ _).trans <| dset_only ..

theorem fdpSubscribe_only (s : State) (who : Requester) (b : List Byte) : Only [.dict, .tel] s (fdpSubscribe s who b) := by
  unfold fdpSubscribe
  extract_lets +onlyGivenNames v1
  split
  · exact .mono (by rfl) <|
      .ite (fdpReply_only ..) (.ite (fdpReply_only ..) (.ite (fdpReply_only ..) (.ite ((putSubscribers_only ..).trans <|
      fdpReply_only ..) (.ite (fdpReply_only ..) (.ite (fdpReply_only ..) ((putSubscribers_only ..).trans <|
      fdpReply_only ..))))))
  · exact .mono (by rfl) <| fdpReply_only ..

theorem latch_only (s : State) : Only [.dict, .tel] s (latch s) := by
  unfold latch
  exact .mono (by rfl) <| (dset_only ..).trans <| setTel_only _ _

theorem fdpSnapshot_only (s : State) (who : Requester) (b : List Byte) : Only [.dict, .tel] s (fdpSnapshot s who b) := by
  unfold fdpSnapshot
  exact .mono (by rfl) <| .ite (fdpReply_only ..) (.ite (fdpReply_only ..) ((latch_only ..).trans <| fdpReply_only ..))

theorem dropStaged_only (s : State) (n : Nat) : Only [.tel] s (dropStaged s n) := by
  unfold dropStaged
  exact .mono (by rfl) <| setTel_only _ _

theorem endStaged_only (s : State) (role : Role) (who : Option Nat) (index sub : Nat) (v : DVal) :
    Only [.tel] s (endStaged s role who index sub v) := by
  unfold endStaged
  extract_lets +onlyGivenNames waits1
  split
  · exact .mono (by rfl) <| .refl _
  · exact .mono (by rfl) <| .ite (dropStaged_only ..) (.refl _)

theorem fdpSegment_only (s : State) (who : Requester) (n : Nat) (role : Role) (e : Entry) (b : List Byte) :
    Only [.fresh, .dict, .tel, .audit, .sec, .cfg, .pins, .clusters, .cores, .queues, .jobs, .parts, .bufs, .index, .tiered,
      .keys, .keyGens, .dirs, .ctxs, .sync, .reds, .mbx, .host, .win, .miss, .rel, .hbm,
      .hostOut] s (fdpSegment s who n role e b) := by
  unfold fdpSegment
  extract_lets +onlyGivenNames index1 sub2
  split
  · exact .mono (by rfl) <| (dropStaged_only ..).trans <| fdpReply_only ..
  · exact .mono (by rfl) <| .ite (fdpReply_only ..) (.ite ((endStaged_only ..).trans <|
      writeEntry_only ..) (.ite (fdpReply_only ..) ((setTel_only _ _).trans <| fdpReply_only ..)))

theorem fdpSet_only (s : State) (who : Requester) (b : List Byte) :
    Only [.fresh, .dict, .tel, .audit, .sec, .cfg, .pins, .clusters, .cores, .queues, .jobs, .parts, .bufs, .index, .tiered,
      .keys, .keyGens, .dirs, .ctxs, .sync, .reds, .mbx, .host, .win, .miss, .rel, .hbm, .hostOut] s (fdpSet s who b) := by
  unfold fdpSet
  extract_lets +onlyGivenNames st1 role2
  split
  · exact .mono (by rfl) <| fdpReply_only ..
  · split
    · exact .mono (by rfl) <| fdpReply_only ..
    · split
      · exact .mono (by rfl) <| .ite (fdpReply_only ..) ((endStaged_only ..).trans <| writeEntry_only ..)
      · split
        · exact .mono (by rfl) <| fdpSegment_only ..
        · exact .mono (by rfl) <| fdpReply_only ..

theorem windowRegisters_only (s : State) (b : List Byte) : Only [.tel] s (windowRegisters s b) := by
  unfold windowRegisters
  exact .mono (by rfl) <| setTel_only _ _

theorem request_only {F : List StateField} {s : State} {who : Requester} {b : List Byte} {op : Nat}
    {run : State → Requester → List Byte → State} (h : ∀ s who b, Only F s (run s who b)) :
    Only ([.now, .fresh, .dict, .tel, .cores, .queues, .jobs, .parts, .bufs, .tiered, .mbx, .win, .rel, .hbm,
      .hostOut] ++ F) s (request s who b op run) := by
  unfold request
  extract_lets s1 s2
  have h1 : Only [.now, .fresh, .dict, .tel, .cores, .queues, .jobs, .parts, .bufs, .tiered, .mbx, .win, .rel, .hbm,
    .hostOut] s s1 := settleAll_only ..
  split
  · exact (h1.mono (by rfl)).left
  · split
    · exact ((h1.trans (bump_only ..)).mono (by rfl)).left
    · have h2 : Only [.now, .fresh, .dict, .tel, .cores, .queues, .jobs, .parts, .bufs, .tiered, .mbx, .win, .rel, .hbm,
        .hostOut] s s2 := .mono (by rfl) <| .ite (h1.trans <| windowRegisters_only ..) h1
      split
      · exact (h2.mono (by rfl)).around (h ..) (.self _)
      · exact ((h2.trans (fdpReply_only ..)).mono (by rfl)).left

theorem stagedTimeout_only (s : State) (who : Requester) : Only [.now, .tel] s (stagedTimeout s who) := by
  unfold stagedTimeout
  split
  · exact .mono (by rfl) <| .refl _
  · split
    · exact .mono (by rfl) <| .refl _
    · exact .mono (by rfl) <| (setNow_only _ _).trans <| dropStaged_only ..

theorem notifyRepeat_only (s : State) (slot : Nat) : Only [.now, .dict, .tel, .pins] s (notifyRepeat s slot) := by
  unfold notifyRepeat
  exact .mono (by rfl) <| .ite (.refl _) ((setNow_only _ _).trans <| notifyAll_only ..)

theorem tracePoll_only (s : State) (read : BitVec 32) : Only [.dict, .tel, .hostOut] s (tracePoll s read) := by
  unfold tracePoll
  exact .mono (by rfl) <| .ite (.refl _) ((setTel_only _ _).trans <| traceDrain_only ..)

theorem execGet_only (who : Requester) (message : List Byte) (s : State) :
    Answers [.now, .fresh, .dict, .tel, .sec, .cfg, .cores, .queues, .jobs, .parts, .bufs, .tiered, .mbx, .win, .rel, .hbm,
      .hostOut] s (execGet who message s) := by
  unfold execGet
  exact Only.answers (.mono (by rfl) <| request_only fun _ _ _ => fdpGet_only ..)

theorem execSet_only (who : Requester) (message : List Byte) (s : State) :
    Answers [.now, .fresh, .dict, .tel, .audit, .sec, .cfg, .pins, .clusters, .cores, .queues, .jobs, .parts, .bufs, .index,
      .tiered, .keys, .keyGens, .dirs, .ctxs, .sync, .reds, .mbx, .host, .win, .miss, .rel, .hbm,
      .hostOut] s (execSet who message s) := by
  unfold execSet
  exact Only.answers (.mono (by rfl) <| request_only fun _ _ _ => fdpSet_only ..)

theorem execInfo_only (who : Requester) (message : List Byte) (s : State) :
    Answers [.now, .fresh, .dict, .tel, .cores, .queues, .jobs, .parts, .bufs, .tiered, .mbx, .win, .rel, .hbm,
      .hostOut] s (execInfo who message s) := by
  unfold execInfo
  exact Only.answers (.mono (by rfl) <| request_only fun _ _ _ => fdpInfo_only ..)

theorem execNext_only (who : Requester) (message : List Byte) (s : State) :
    Answers [.now, .fresh, .dict, .tel, .cores, .queues, .jobs, .parts, .bufs, .tiered, .mbx, .win, .rel, .hbm,
      .hostOut] s (execNext who message s) := by
  unfold execNext
  exact Only.answers (.mono (by rfl) <| request_only fun _ _ _ => fdpNext_only ..)

theorem execSubscribe_only (who : Requester) (message : List Byte) (s : State) :
    Answers [.now, .fresh, .dict, .tel, .cores, .queues, .jobs, .parts, .bufs, .tiered, .mbx, .win, .rel, .hbm,
      .hostOut] s (execSubscribe who message s) := by
  unfold execSubscribe
  exact Only.answers (.mono (by rfl) <| request_only fun _ _ _ => fdpSubscribe_only ..)

theorem execSnapshot_only (who : Requester) (message : List Byte) (s : State) :
    Answers [.now, .fresh, .dict, .tel, .cores, .queues, .jobs, .parts, .bufs, .tiered, .mbx, .win, .rel, .hbm,
      .hostOut] s (execSnapshot who message s) := by
  unfold execSnapshot
  exact Only.answers (.mono (by rfl) <| request_only fun _ _ _ => fdpSnapshot_only ..)

theorem execStagedValueTimeout_only (who : Requester) (s : State) : Answers [.now, .tel] s (execStagedValueTimeout who s) := by
  unfold execStagedValueTimeout
  exact Only.answers (.mono (by rfl) <| stagedTimeout_only ..)

theorem execAlarmNotifyRepeat_only (slot : Nat) (s : State) :
    Answers [.now, .dict, .tel, .pins] s (execAlarmNotifyRepeat slot s) := by
  unfold execAlarmNotifyRepeat
  exact Only.answers (.mono (by rfl) <| notifyRepeat_only ..)

theorem execTraceReadPoll_only (read : BitVec 32) (s : State) :
    Answers [.dict, .tel, .hostOut] s (execTraceReadPoll read s) := by
  unfold execTraceReadPoll
  exact Only.answers (.mono (by rfl) <| tracePoll_only ..)

/-! ## SPDM -/

theorem spdmReply_only (s : State) (r : SpdmResp) : Only [.sec] s (spdmReply s r) := by
  unfold spdmReply
  exact .mono (by rfl) <| setSec_only _ _ (by rfl)

theorem respondSpdm_only {F : List StateField} {s : State} {f : State → State} (h : ∀ s, Only F s (f s)) :
    Only ([.sec] ++ F) s (respondSpdm s f) := by
  unfold respondSpdm
  split
  · exact .self _
  · split
    · exact (spdmReply_only ..).left
    · exact (h s).right

theorem spdmVersion_only (s : State) : Only [.sec] s (spdmVersion s) := by
  unfold spdmVersion
  exact .mono (by rfl) <| respondSpdm_only fun _ => (setSec_only _ _ (by rfl)).trans <| spdmReply_only ..

theorem spdmAlgorithms_only (s : State) (o : SpdmOffer) : Only [.sec] s (spdmAlgorithms s o) := by
  unfold spdmAlgorithms
  exact .mono (by rfl) <| respondSpdm_only fun _ => (setSec_only _ _ (by rfl)).trans <| spdmReply_only ..

theorem spdmCertificate_only (s : State) (slot offset len : Nat) : Only [.sec] s (spdmCertificate s slot offset len) := by
  unfold spdmCertificate
  exact .mono (by rfl) <| respondSpdm_only fun _ => .ite (spdmReply_only ..) (spdmReply_only ..)

theorem spdmChallenge_only (s : State) (slot : Nat) (nonce : List Byte) : Only [.sec] s (spdmChallenge s slot nonce) := by
  unfold spdmChallenge
  exact .mono (by rfl) <| respondSpdm_only fun _ => .ite (spdmReply_only ..) (submitEngine_only ..)

theorem partitionBlock_only (s : State) (part : Nat) : Only [.fresh, .parts] s (partitionBlock s part).1 := by
  unfold partitionBlock
  split
  · exact .mono (by rfl) <| .refl _
  · split
    next heq =>
      have h3 : Only [.fresh, .parts] s _ := (Only.of_fst (partKey_only ..) heq).mono (by rfl)
      extract_lets +onlyGivenNames jobs4 list5
      exact .mono (by rfl) <| h3

theorem configBlock_only (s : State) : Only [.fresh] s (configBlock s).1 := by
  unfold configBlock
  extract_lets +onlyGivenNames a1 head2
  split
  · exact .mono (by rfl) <| .refl _
  · split
    · exact .mono (by rfl) <| .refl _
    · exact .mono (by rfl) <| drawn_only ..

theorem block_only (s : State) (index : Nat) : Only [.fresh, .parts] s (block s index).1 := by
  unfold block
  split
  · exact .mono (by rfl) <| .refl _
  · exact .mono (by rfl) <| .refl _
  · exact .mono (by rfl) <| .refl _
  · exact .mono (by rfl) <| configBlock_only ..
  · exact .mono (by rfl) <| .refl _
  · exact .mono (by rfl) <| .refl _
  · exact .mono (by rfl) <| .refl _
  · exact .mono (by rfl) <| .refl _
  · exact .mono (by rfl) <| partitionBlock_only ..

theorem measure_only (s : State) (l : List Nat) : Only [.fresh, .parts] s (measure s l).1 := by
  unfold measure
  refine .foldl_fst (fun p i => ?_) l (s, [])
  exact block_only p.1 i

theorem spdmMeasurements_only (s : State) (index : Nat) (nonce : List Byte) :
    Only [.fresh, .sec, .parts] s (spdmMeasurements s index nonce) := by
  unfold spdmMeasurements
  split
  · exact .mono (by rfl) <| .refl _
  · split
    · exact .mono (by rfl) <| .ite (spdmReply_only ..) (spdmReply_only ..)
    · split
      · exact .mono (by rfl) <| spdmReply_only ..
      · split
        next heq =>
          have h2 : Only [.fresh, .parts] s _ := (Only.of_fst (measure_only ..) heq).mono (by rfl)
          exact .mono (by rfl) <| h2.trans <| submitEngine_only ..

theorem spdmKeyExchange_only (s : State) (key : List Byte) (chainValid : Bool) :
    Only [.sec] s (spdmKeyExchange s key chainValid) := by
  unfold spdmKeyExchange
  split
  · exact .mono (by rfl) <| .refl _
  · split
    · exact .mono (by rfl) <| spdmReply_only ..
    · split
      · exact .mono (by rfl) <| spdmReply_only ..
      · split
        · exact .mono (by rfl) <| spdmReply_only ..
        · exact .mono (by rfl) <| .ite (spdmReply_only ..) ((setSec_only _ _ (by rfl)).trans <| spdmReply_only ..)

theorem spdmFinish_only (s : State) (n : Nat) (proofValid : Bool) : Only [.tel, .sec] s (spdmFinish s n proofValid) := by
  unfold spdmFinish
  split
  · exact .mono (by rfl) <| .refl _
  · split
    · exact .mono (by rfl) <| spdmReply_only ..
    · exact .mono (by rfl) <| .ite (spdmReply_only ..) (.ite ((setSec_only _ _ (by rfl)).trans <|
        spdmReply_only ..) ((endSession_only ..).trans <| spdmReply_only ..))

theorem spdmEnd_only (s : State) (n : Nat) : Only [.tel, .sec] s (spdmEnd s n) := by
  unfold spdmEnd
  exact .mono (by rfl) <| .ite (.refl _) (.ite ((endSession_only ..).trans <| spdmReply_only ..) (spdmReply_only ..))

theorem spdmHeartbeat_only (s : State) (n : Nat) : Only [.sec] s (spdmHeartbeat s n) := by
  unfold spdmHeartbeat
  exact .mono (by rfl) <| .ite (.refl _) (spdmReply_only ..)

theorem unlock_only (s : State) (nonce : List Byte) (r sg : Nat) : Only [.dict, .sec] s (unlock s nonce r sg) := by
  unfold unlock
  exact .mono (by rfl) <| .ite (setSec_only _ _ (by rfl)) (bump_only ..)

theorem scan_only (s : State) : Only [.dict, .sec] s (scan s) := by
  unfold scan
  exact .mono (by rfl) <| .ite (setSec_only _ _ (by rfl)) (bump_only ..)

theorem healthFailure_only (s : State) (h : Hub) : Only [.dict, .tel, .sec, .pins] s (healthFailure s h) := by
  unfold healthFailure
  exact .mono (by rfl) <| (updEngine_only ..).trans <| (bump_only ..).trans <| alarm_only ..

theorem execGetVersion_only (s : State) : Answers [.sec] s (execGetVersion s) := by
  unfold execGetVersion
  exact Only.answers (.mono (by rfl) <| spdmVersion_only ..)

theorem execGetCapabilities_only (s : State) : Answers [.sec] s (execGetCapabilities s) := by
  unfold execGetCapabilities
  exact Only.answers (.mono (by rfl) <| respondSpdm_only fun _ => spdmReply_only ..)

theorem execNegotiateAlgorithms_only (offer : SpdmOffer) (s : State) : Answers [.sec] s (execNegotiateAlgorithms offer s) := by
  unfold execNegotiateAlgorithms
  exact Only.answers (.mono (by rfl) <| spdmAlgorithms_only ..)

theorem execGetDigests_only (s : State) : Answers [.sec] s (execGetDigests s) := by
  unfold execGetDigests
  exact Only.answers (.mono (by rfl) <| respondSpdm_only fun _ => spdmReply_only ..)

theorem execGetCertificate_only (slot offset len : Nat) (s : State) :
    Answers [.sec] s (execGetCertificate slot offset len s) := by
  unfold execGetCertificate
  exact Only.answers (.mono (by rfl) <| spdmCertificate_only ..)

theorem execChallenge_only (slot : Nat) (nonce : List Byte) (s : State) : Answers [.sec] s (execChallenge slot nonce s) := by
  unfold execChallenge
  exact Only.answers (.mono (by rfl) <| spdmChallenge_only ..)

theorem execGetMeasurements_only (index : Nat) (nonce : List Byte) (s : State) :
    Answers [.now, .fresh, .dict, .tel, .sec, .cores, .queues, .jobs, .parts, .bufs, .tiered, .mbx, .win, .rel, .hbm,
      .hostOut] s (execGetMeasurements index nonce s) := by
  unfold execGetMeasurements
  exact Only.answers (.mono (by rfl) <| (settleAll_only ..).trans <| spdmMeasurements_only ..)

theorem execKeyExchange_only (key : List Byte) (chainValid : Bool) (s : State) :
    Answers [.sec] s (execKeyExchange key chainValid s) := by
  unfold execKeyExchange
  exact Only.answers (.mono (by rfl) <| spdmKeyExchange_only ..)

theorem execFinish_only (session : Nat) (proofValid : Bool) (s : State) :
    Answers [.tel, .sec] s (execFinish session proofValid s) := by
  unfold execFinish
  exact Only.answers (.mono (by rfl) <| spdmFinish_only ..)

theorem execEndSession_only (session : Nat) (s : State) : Answers [.tel, .sec] s (execEndSession session s) := by
  unfold execEndSession
  exact Only.answers (.mono (by rfl) <| spdmEnd_only ..)

theorem execHeartbeat_only (session : Nat) (s : State) : Answers [.sec] s (execHeartbeat session s) := by
  unfold execHeartbeat
  exact Only.answers (.mono (by rfl) <| spdmHeartbeat_only ..)

theorem execMakerDebugUnlock_only (nonce : List Byte) (r sg : Nat) (s : State) :
    Answers [.dict, .sec] s (execMakerDebugUnlock nonce r sg s) := by
  unfold execMakerDebugUnlock
  exact Only.answers (.mono (by rfl) <| unlock_only ..)

theorem execBoundaryScan_only (_intest : Bool) (s : State) : Answers [.dict, .sec] s (execBoundaryScan _intest s) := by
  unfold execBoundaryScan
  exact Only.answers (.mono (by rfl) <| scan_only ..)

theorem execRandomSourceHealthTestFailure_only (hub : Hub) (s : State) :
    Answers [.dict, .tel, .sec, .pins] s (execRandomSourceHealthTestFailure hub s) := by
  unfold execRandomSourceHealthTestFailure
  exact Only.answers (.mono (by rfl) <| healthFailure_only ..)

/-! ## Completions -/

theorem startAfterCommit_only (s : State) :
    Only [.dict, .tel, .sec, .cfg, .pins, .cores, .queues, .jobs, .parts, .bufs, .index, .tiered, .keys, .keyGens, .dirs,
      .ctxs, .sync, .reds, .mbx, .host, .win, .miss, .rel, .hbm, .hostOut] s (startAfterCommit s) := by
  unfold startAfterCommit
  split
  · exact .mono (by rfl) <| .refl _
  · exact .mono (by rfl) <| .ite (.refl _) ((setCfg_only _ _).trans <| beginStart_only ..)

theorem commitVerified_only (s : State) (role : Role) (value image : List Byte) (o : EngineOut) :
    Only [.fresh, .dict, .tel, .audit, .sec, .cfg, .pins, .clusters, .cores, .queues, .jobs, .parts, .bufs, .index, .tiered,
      .keys, .keyGens, .dirs, .ctxs, .sync, .reds, .mbx, .host, .win, .miss, .rel, .hbm,
      .hostOut] s (commitVerified s role value image o) := by
  unfold commitVerified
  exact .mono (by rfl) <| .ite ((writeDone_only ..).trans <| startAfterCommit_only ..) ((auditWrite_only ..).trans <| writeCopy_only ..)

theorem keyValidated_only (s : State) (role : Role) (slot : Nat) (key : List Byte) (o : EngineOut) :
    Only [.fresh, .dict, .tel, .audit, .sec, .cfg, .pins, .clusters, .cores, .queues, .jobs, .parts, .bufs, .index, .tiered,
      .keys, .keyGens, .dirs, .ctxs, .sync, .reds, .mbx, .host, .win, .miss, .rel, .hbm,
      .hostOut] s (keyValidated s role slot key o) := by
  unfold keyValidated
  exact .mono (by rfl) <| .ite (writeDone_only ..) (.ite (writeDone_only ..) ((auditWrite_only ..).trans <|
    (storeEntry_only ..).trans <| writeDone_only ..))

theorem checkpointSigned_only (s : State) (content : List Byte) (o : EngineOut) :
    Only [.fresh, .dict, .tel, .audit, .sec, .cfg, .pins, .clusters, .cores, .queues, .jobs, .parts, .bufs, .index, .tiered,
      .keys, .keyGens, .dirs, .ctxs, .sync, .reds, .mbx, .host, .win, .miss, .rel, .hbm,
      .hostOut] s (checkpointSigned s content o) := by
  unfold checkpointSigned
  exact .mono (by rfl) <| .trans (.ite (dsetB_only ..) (.refl _)) <| writeDone_only ..

theorem useResult_only (s : State) (u : EngineUse) (o : EngineOut) :
    Only [.fresh, .dict, .tel, .audit, .sec, .cfg, .pins, .clusters, .cores, .queues, .jobs, .parts, .bufs, .index, .tiered,
      .keys, .keyGens, .dirs, .ctxs, .sync, .reds, .mbx, .host, .win, .miss, .rel, .hbm, .hostOut] s (useResult s u o) := by
  unfold useResult
  split
  · exact .mono (by rfl) <| .refl _
  · exact .mono (by rfl) <| keyVerified_only ..
  · exact .mono (by rfl) <| keyShared_only ..
  · exact .mono (by rfl) <| commitVerified_only ..
  · exact .mono (by rfl) <| keyValidated_only ..
  · exact .mono (by rfl) <| checkpointSigned_only ..
  · exact .mono (by rfl) <| spdmReply_only ..
  · exact .mono (by rfl) <| spdmReply_only ..

theorem engineDone_only (s : State) (h : Hub) :
    Only [.now, .fresh, .dict, .tel, .audit, .sec, .cfg, .pins, .clusters, .cores, .queues, .jobs, .parts, .bufs, .index,
      .tiered, .keys, .keyGens, .dirs, .ctxs, .sync, .reds, .mbx, .host, .win, .miss, .rel, .hbm,
      .hostOut] s (engineDone s h) := by
  have hend := engineEnd_only s h
  unfold engineDone
  split
  next heq => exact .mono (by rfl) <| heq ▸ hend
  next heq =>
    rw [heq] at hend
    exact .mono (by rfl) <| hend.trans <| useResult_only ..

theorem configurationDone_only (s : State) :
    Only [.fresh, .dict, .tel, .audit, .sec, .cfg, .pins, .clusters, .cores, .queues, .jobs, .parts, .bufs, .index, .tiered,
      .keys, .keyGens, .dirs, .ctxs, .sync, .reds, .mbx, .host, .win, .miss, .rel, .hbm, .hostOut] s (configurationDone s) := by
  unfold configurationDone
  split
  · exact .mono (by rfl) <| .refl _
  · exact .mono (by rfl) <| (copyWritten_only ..).trans <| (writeDone_only ..).trans <| startAfterCommit_only ..

theorem unitsZeroed_only (s : State) (part : Nat) :
    Only [.fresh, .dict, .tel, .audit, .sec, .cfg, .pins, .clusters, .cores, .queues, .jobs, .parts, .bufs, .index, .tiered,
      .keys, .keyGens, .dirs, .ctxs, .sync, .reds, .mbx, .host, .win, .miss, .rel, .hbm, .hostOut] s (unitsZeroed s part) := by
  have hdone := mapDone_only s part
  unfold unitsZeroed
  split
  next heq => exact .mono (by rfl) <| heq ▸ hdone
  next heq =>
    rw [heq] at hdone
    exact .mono (by rfl) <| hdone.trans <| writeDone_only ..

theorem afterReads_only (s : State) :
    Only [.fresh, .dict, .tel, .audit, .sec, .cfg, .pins, .clusters, .cores, .queues, .jobs, .parts, .bufs, .index, .tiered,
      .keys, .keyGens, .dirs, .ctxs, .sync, .reds, .mbx, .host, .win, .miss, .rel, .hbm, .hostOut] s (afterReads s) := by
  unfold afterReads
  exact .mono (by rfl) <| (drainCheck_only ..).trans <| settleResets_only ..

theorem takeHeld_only (s : State) (i : Instr) :
    Only [.fresh, .uid, .dict, .tel, .pins, .clusters, .cores, .queues, .jobs, .parts, .bufs, .index, .tiered, .ctxs, .sync,
      .mbx, .host, .win, .miss, .rel, .hbm, .hostOut] s (takeHeld s i) := by
  unfold takeHeld
  split
  · exact .mono (by rfl) <| ringFetch_only ..
  · split
    · exact .mono (by rfl) <| .refl _
    · exact .mono (by rfl) <| takeDoorbell_only ..
  · exact .mono (by rfl) <| .ite (postMessage_only ..) (.refl _)
  · split
    · exact .mono (by rfl) <| barRefuse_only ..
    · exact .mono (by rfl) <| barWrite_only ..
  · exact .mono (by rfl) <| basePacket_only ..
  · exact .mono (by rfl) <| .refl _

theorem releaseInput_only (s : State) (j : Nat) :
    Only [.now, .fresh, .uid, .dict, .tel, .pins, .clusters, .cores, .queues, .jobs, .parts, .bufs, .index, .tiered, .ctxs,
      .sync, .mbx, .host, .win, .miss, .rel, .hbm, .hostOut] s (releaseInput s j) := by
  unfold releaseInput
  split
  · exact .mono (by rfl) <| (setNow_only _ _).trans <| (updJob_only ..).trans <| takeHeld_only ..
  · exact .mono (by rfl) <| .refl _

theorem execEngineOperationDone_only (hub : Hub) (s : State) :
    Answers [.now, .fresh, .dict, .tel, .audit, .sec, .cfg, .pins, .clusters, .cores, .queues, .jobs, .parts, .bufs, .index,
      .tiered, .keys, .keyGens, .dirs, .ctxs, .sync, .reds, .mbx, .host, .win, .miss, .rel, .hbm,
      .hostOut] s (execEngineOperationDone hub s) := by
  unfold execEngineOperationDone
  exact Only.answers (.mono (by rfl) <| engineDone_only ..)

theorem execConfigurationWriteDone_only (s : State) :
    Answers [.fresh, .dict, .tel, .audit, .sec, .cfg, .pins, .clusters, .cores, .queues, .jobs, .parts, .bufs, .index,
      .tiered, .keys, .keyGens, .dirs, .ctxs, .sync, .reds, .mbx, .host, .win, .miss, .rel, .hbm,
      .hostOut] s (execConfigurationWriteDone s) := by
  unfold execConfigurationWriteDone
  exact Only.answers (.mono (by rfl) <| configurationDone_only ..)

theorem execUnitZeroingDone_only (part : Nat) (s : State) :
    Answers [.fresh, .dict, .tel, .audit, .sec, .cfg, .pins, .clusters, .cores, .queues, .jobs, .parts, .bufs, .index,
      .tiered, .keys, .keyGens, .dirs, .ctxs, .sync, .reds, .mbx, .host, .win, .miss, .rel, .hbm,
      .hostOut] s (execUnitZeroingDone part s) := by
  unfold execUnitZeroingDone
  exact Only.answers (.mono (by rfl) <| unitsZeroed_only ..)

theorem execReplayInputRelease_only (job : Nat) (s : State) :
    Answers [.now, .fresh, .uid, .dict, .tel, .pins, .clusters, .cores, .queues, .jobs, .parts, .bufs, .index, .tiered, .ctxs,
      .sync, .mbx, .host, .win, .miss, .rel, .hbm, .hostOut] s (execReplayInputRelease job s) := by
  unfold execReplayInputRelease
  exact Only.answers (.mono (by rfl) <| releaseInput_only ..)

theorem execDrainLimitExpiry_only (fn : Nat) (s : State) :
    Answers [.now, .fresh, .dict, .tel, .audit, .sec, .cfg, .pins, .clusters, .cores, .queues, .jobs, .parts, .bufs, .index,
      .tiered, .keys, .keyGens, .dirs, .ctxs, .sync, .reds, .mbx, .host, .win, .miss, .rel, .hbm,
      .hostOut] s (execDrainLimitExpiry fn s) := by
  unfold execDrainLimitExpiry
  exact Only.answers (.mono (by rfl) <| (drainLimit_only ..).trans <| settleResets_only ..)

theorem execHostReadCompletion_only (id : Nat) (ok : Bool) (data : List Byte) (s : State) :
    Answers [.fresh, .dict, .tel, .audit, .sec, .cfg, .pins, .clusters, .cores, .queues, .jobs, .parts, .bufs, .index,
      .tiered, .keys, .keyGens, .dirs, .ctxs, .sync, .reds, .mbx, .host, .win, .miss, .rel, .hbm,
      .hostOut] s (execHostReadCompletion id ok data s) := by
  unfold execHostReadCompletion
  exact Only.answers (.mono (by rfl) <| (hostReadDone_only ..).trans <| afterReads_only ..)

theorem execCompletionTimeout_only (id : Nat) (s : State) :
    Answers [.fresh, .dict, .tel, .audit, .sec, .cfg, .pins, .clusters, .cores, .queues, .jobs, .parts, .bufs, .index,
      .tiered, .keys, .keyGens, .dirs, .ctxs, .sync, .reds, .mbx, .host, .win, .miss, .rel, .hbm,
      .hostOut] s (execCompletionTimeout id s) := by
  unfold execCompletionTimeout
  exact Only.answers (.mono (by rfl) <| (readTimeout_only ..).trans <| afterReads_only ..)

theorem execLeaseTakeover_only (s : State) :
    Answers [.now, .fresh, .dict, .tel, .audit, .sec, .cfg, .pins, .clusters, .cores, .queues, .jobs, .parts, .bufs, .index,
      .tiered, .keys, .keyGens, .dirs, .ctxs, .sync, .reds, .mbx, .host, .win, .miss, .lease, .rel, .hbm,
      .hostOut] s (execLeaseTakeover s) := by
  unfold execLeaseTakeover
  exact Only.answers (.mono (by rfl) <| (takeover_only ..).trans <| (afterReads_only ..).trans <| startAfterCommit_only ..)

theorem execEastLinkDownTimeout_only (s : State) :
    Answers [.fresh, .dict, .tel, .audit, .sec, .cfg, .pins, .clusters, .cores, .queues, .jobs, .parts, .bufs, .index,
      .tiered, .keys, .keyGens, .dirs, .ctxs, .sync, .reds, .mbx, .host, .win, .miss, .rel, .hbm,
      .hostOut] s (execEastLinkDownTimeout s) := by
  unfold execEastLinkDownTimeout
  exact Only.answers (.mono (by rfl) <| (setHost_only _ _).trans <| (failover_only ..).trans <| afterReads_only ..)

theorem execPcieFundamentalReset_only (hub : Hub) (s : State) :
    Answers [.fresh, .dict, .tel, .audit, .sec, .cfg, .pins, .clusters, .cores, .queues, .jobs, .parts, .bufs, .index,
      .tiered, .keys, .keyGens, .dirs, .ctxs, .sync, .reds, .mbx, .host, .win, .miss, .rel, .hbm,
      .hostOut] s (execPcieFundamentalReset hub s) := by
  unfold execPcieFundamentalReset
  exact Only.answers (.mono (by rfl) <| (perst_only ..).trans <| afterReads_only ..)

/-! ## Poisoned words -/

theorem meetPoison_only (s : State) (q uid : Nat) (w : Nat × Nat) :
    Only [.fresh, .dict, .tel, .pins, .clusters, .cores, .queues, .jobs, .parts, .bufs, .tiered, .sync, .reds, .mbx, .win,
      .miss, .rel, .hbm, .hostOut] s (meetPoison s q uid w) := by
  unfold meetPoison
  split
  · exact .mono (by rfl) <| .refl _
  · exact .mono (by rfl) <| .ite (uncorrectable_only ..) (.elim (fail_only ..) (fun _ => (fail_only ..).trans <| channelError_only ..))

theorem unlessPoisoned_only {F : List StateField} {s : State} {q : Nat} {sel : Option (Queue × Cmd)} {run : State}
    (h : Only F s run) : Only ([.fresh, .dict, .tel, .pins, .clusters, .cores, .queues, .jobs, .parts, .bufs, .tiered, .sync,
      .reds, .mbx, .win, .miss, .rel, .hbm, .hostOut] ++ F) s (unlessPoisoned s q sel run) := by
  unfold unlessPoisoned
  split
  · exact h.right
  · split
    · exact h.right
    · exact (meetPoison_only ..).left

theorem vecUnlessPoisoned_only {F : List StateField} {s : State} {core : Nat} {met : Option (Nat × Nat)} {run : State}
    (h : Only F s run) : Only ([.fresh, .dict, .tel, .pins, .clusters, .cores, .queues, .jobs, .parts, .bufs, .tiered, .sync,
      .reds, .mbx, .win, .miss, .rel, .hbm, .hostOut] ++ F) s (vecUnlessPoisoned s core met run) := by
  unfold vecUnlessPoisoned
  split
  · exact (meetPoison_only ..).left
  · exact h.right

theorem vecUntilPoison_only (s : State) (q : Nat) :
    Only [.fresh, .dict, .tel, .pins, .clusters, .cores, .queues, .jobs, .parts, .bufs, .tiered, .sync, .reds, .mbx, .win,
      .miss, .rel, .hbm, .hostOut] s (vecUntilPoison s q) := by
  unfold vecUntilPoison
  split
  · exact .mono (by rfl) <| .refl _
  · extract_lets +onlyGivenNames s1
    have h1 : Only [.fresh, .dict, .tel, .cores, .queues, .jobs, .parts, .bufs, .tiered, .sync, .reds, .miss, .rel, .hbm,
      .hostOut] s s1 := .mono (by rfl) <| runVector_only ..
    exact .mono (by rfl) <| .ite (h1.trans <| vecUnlessPoisoned_only (.refl _)) h1

theorem execArray_only (q : Nat) (s : State) :
    Answers [.fresh, .dict, .tel, .pins, .clusters, .cores, .queues, .jobs, .parts, .bufs, .tiered, .sync, .reds, .mbx, .win,
      .miss, .rel, .hbm, .hostOut] s (execArray q s) := by
  unfold execArray
  exact Only.answers (.mono (by rfl) <| unlessPoisoned_only (runArray_only ..))

theorem execVector_only (q : Nat) (s : State) :
    Answers [.fresh, .dict, .tel, .pins, .clusters, .cores, .queues, .jobs, .parts, .bufs, .tiered, .sync, .reds, .mbx, .win,
      .miss, .rel, .hbm, .hostOut] s (execVector q s) := by
  unfold execVector
  exact Only.answers (.mono (by rfl) <| vecUntilPoison_only ..)

theorem execVld_only (core : Nat) (a : VArgs) (s : State) :
    Answers [.fresh, .dict, .tel, .pins, .clusters, .cores, .queues, .jobs, .parts, .bufs, .tiered, .sync, .reds, .mbx, .win,
      .miss, .rel, .hbm, .hostOut] s (execVld core a s) := by
  unfold execVld
  exact Only.answers (.mono (by rfl) <| vecUnlessPoisoned_only (vecLoad_only ..))

theorem execVst_only (core : Nat) (a : VArgs) (s : State) :
    Answers [.fresh, .dict, .tel, .pins, .clusters, .cores, .queues, .jobs, .parts, .bufs, .tiered, .sync, .reds, .mbx, .win,
      .miss, .rel, .hbm, .hostOut] s (execVst core a s) := by
  unfold execVst
  exact Only.answers (.mono (by rfl) <| vecUnlessPoisoned_only (vecSt_only ..))

theorem execVld8_only (core : Nat) (a : VArgs) (s : State) :
    Answers [.fresh, .dict, .tel, .pins, .clusters, .cores, .queues, .jobs, .parts, .bufs, .tiered, .sync, .reds, .mbx, .win,
      .miss, .rel, .hbm, .hostOut] s (execVld8 core a s) := by
  unfold execVld8
  exact Only.answers (.mono (by rfl) <| vecUnlessPoisoned_only (vecLoad_only ..))

theorem execVst8_only (core : Nat) (a : VArgs) (s : State) :
    Answers [.fresh, .dict, .tel, .pins, .clusters, .cores, .queues, .jobs, .parts, .bufs, .tiered, .sync, .reds, .mbx, .win,
      .miss, .rel, .hbm, .hostOut] s (execVst8 core a s) := by
  unfold execVst8
  exact Only.answers (.mono (by rfl) <| vecUnlessPoisoned_only (vecSt8_only ..))

theorem execReedUpGradient_only (q : Nat) (s : State) :
    Answers [.fresh, .dict, .tel, .pins, .clusters, .cores, .queues, .jobs, .parts, .bufs, .tiered, .sync, .reds, .mbx, .win,
      .miss, .rel, .hbm, .hostOut] s (execReedUpGradient q s) := by
  unfold execReedUpGradient
  exact Only.answers (.mono (by rfl) <| unlessPoisoned_only (runGradient_only ..))

theorem execReedRankGradient_only (q : Nat) (s : State) :
    Answers [.fresh, .dict, .tel, .pins, .clusters, .cores, .queues, .jobs, .parts, .bufs, .tiered, .sync, .reds, .mbx, .win,
      .miss, .rel, .hbm, .hostOut] s (execReedRankGradient q s) := by
  unfold execReedRankGradient
  exact Only.answers (.mono (by rfl) <| unlessPoisoned_only (runRankGradient_only ..))

theorem execReedDownGradient_only (q : Nat) (s : State) :
    Answers [.fresh, .dict, .tel, .pins, .clusters, .cores, .queues, .jobs, .parts, .bufs, .tiered, .sync, .reds, .mbx, .win,
      .miss, .rel, .hbm, .hostOut] s (execReedDownGradient q s) := by
  unfold execReedDownGradient
  exact Only.answers (.mono (by rfl) <| unlessPoisoned_only (runGradient_only ..))

theorem execReedForwardPhaseOne_only (q : Nat) (s : State) :
    Answers [.fresh, .dict, .tel, .pins, .clusters, .cores, .queues, .jobs, .parts, .bufs, .tiered, .sync, .reds, .mbx, .win,
      .miss, .rel, .hbm, .hostOut] s (execReedForwardPhaseOne q s) := by
  unfold execReedForwardPhaseOne
  exact Only.answers (.mono (by rfl) <| unlessPoisoned_only (runPhaseOne_only ..))

theorem execMoveCopy_only (q : Nat) (s : State) :
    Answers [.fresh, .dict, .tel, .pins, .clusters, .cores, .queues, .jobs, .parts, .bufs, .tiered, .sync, .reds, .mbx, .win,
      .miss, .rel, .hbm, .hostOut] s (execMoveCopy q s) := by
  unfold execMoveCopy
  exact Only.answers (.mono (by rfl) <| unlessPoisoned_only (runMove_only ..))

theorem execMoveIntegerAdd_only (q : Nat) (s : State) :
    Answers [.fresh, .dict, .tel, .pins, .clusters, .cores, .queues, .jobs, .parts, .bufs, .tiered, .sync, .reds, .mbx, .win,
      .miss, .rel, .hbm, .hostOut] s (execMoveIntegerAdd q s) := by
  unfold execMoveIntegerAdd
  exact Only.answers (.mono (by rfl) <| unlessPoisoned_only (runMove_only ..))

theorem execSweep_only (q : Nat) (s : State) :
    Answers [.fresh, .dict, .tel, .pins, .clusters, .cores, .queues, .jobs, .parts, .bufs, .tiered, .sync, .reds, .mbx, .win,
      .miss, .rel, .hbm, .hostOut] s (execSweep q s) := by
  unfold execSweep
  exact Only.answers (.mono (by rfl) <| unlessPoisoned_only (runSweep_only ..))

theorem execStep_only (q : Nat) (s : State) :
    Answers [.fresh, .dict, .tel, .pins, .clusters, .cores, .queues, .jobs, .parts, .bufs, .tiered, .sync, .reds, .mbx, .win,
      .miss, .rel, .hbm, .hostOut] s (execStep q s) := by
  unfold execStep
  exact Only.answers (.mono (by rfl) <| unlessPoisoned_only (runStep_only ..))

/-! ## Every command -/

/-- The fields that a command may touch: every one but the queue of waiting commands. -/
def commandFields : List StateField :=
  [.now, .drone, .fresh, .uid, .dict, .tel, .audit, .sec, .cfg, .pwr, .pins, .clusters, .cores, .queues, .jobs, .parts, .bufs,
    .index, .tiered, .keys, .keyGens, .dirs, .ctxs, .sync, .reds, .mbx, .host, .win, .miss, .lease, .rel, .hbm, .hostOut]

/-- Every command answers a next state, and none touches the queue of waiting commands. -/
theorem exec_only (i : Instr) (s : State) : Answers commandFields s (exec i s) :=
  match i with
  | .array .. => (execArray_only ..).mono (by rfl)
  | .vector .. => (execVector_only ..).mono (by rfl)
  | .reedUpGradient .. => (execReedUpGradient_only ..).mono (by rfl)
  | .reedRankGradient .. => (execReedRankGradient_only ..).mono (by rfl)
  | .reedDownGradient .. => (execReedDownGradient_only ..).mono (by rfl)
  | .reedForwardPhaseOne .. => (execReedForwardPhaseOne_only ..).mono (by rfl)
  | .moveCopy .. => (execMoveCopy_only ..).mono (by rfl)
  | .moveIntegerAdd .. => (execMoveIntegerAdd_only ..).mono (by rfl)
  | .syncCounterAdd .. => (execSyncCounterAdd_only ..).mono (by rfl)
  | .syncCounterWait .. => (execSyncCounterWait_only ..).mono (by rfl)
  | .syncEventSet .. => (execSyncEventSet_only ..).mono (by rfl)
  | .syncEventClear .. => (execSyncEventClear_only ..).mono (by rfl)
  | .syncEventWait .. => (execSyncEventWait_only ..).mono (by rfl)
  | .syncLockAcquire .. => (execSyncLockAcquire_only ..).mono (by rfl)
  | .syncLockRelease .. => (execSyncLockRelease_only ..).mono (by rfl)
  | .syncBarrierArrive .. => (execSyncBarrierArrive_only ..).mono (by rfl)
  | .syncLaunchAtCount .. => (execSyncLaunchAtCount_only ..).mono (by rfl)
  | .launchBeatReached .. => (execLaunchBeatReached_only ..).mono (by rfl)
  | .commit .. => (execCommit_only ..).mono (by rfl)
  | .sweep .. => (execSweep_only ..).mono (by rfl)
  | .yield .. => (execYield_only ..).mono (by rfl)
  | .alloc .. => (execAlloc_only ..).mono (by rfl)
  | .free .. => (execFree_only ..).mono (by rfl)
  | .run .. => (execRun_only ..).mono (by rfl)
  | .step .. => (execStep_only ..).mono (by rfl)
  | .nop .. => (execNop_only ..).mono (by rfl)
  | .vadd .. => (execVadd_only ..).mono (by rfl)
  | .vsub .. => (execVsub_only ..).mono (by rfl)
  | .vmul .. => (execVmul_only ..).mono (by rfl)
  | .vfma .. => (execVfma_only ..).mono (by rfl)
  | .vmax .. => (execVmax_only ..).mono (by rfl)
  | .vmin .. => (execVmin_only ..).mono (by rfl)
  | .vabs .. => (execVabs_only ..).mono (by rfl)
  | .vneg .. => (execVneg_only ..).mono (by rfl)
  | .vdiv .. => (execVdiv_only ..).mono (by rfl)
  | .vsqrt .. => (execVsqrt_only ..).mono (by rfl)
  | .vrsqrt .. => (execVrsqrt_only ..).mono (by rfl)
  | .vrcp .. => (execVrcp_only ..).mono (by rfl)
  | .vexp .. => (execVexp_only ..).mono (by rfl)
  | .vexp2 .. => (execVexp2_only ..).mono (by rfl)
  | .vln .. => (execVln_only ..).mono (by rfl)
  | .vlog2 .. => (execVlog2_only ..).mono (by rfl)
  | .vtanh .. => (execVtanh_only ..).mono (by rfl)
  | .verf .. => (execVerf_only ..).mono (by rfl)
  | .vsig .. => (execVsig_only ..).mono (by rfl)
  | .vcmp .. => (execVcmp_only ..).mono (by rfl)
  | .vsel .. => (execVsel_only ..).mono (by rfl)
  | .vmov .. => (execVmov_only ..).mono (by rfl)
  | .vbcast .. => (execVbcast_only ..).mono (by rfl)
  | .vlane .. => (execVlane_only ..).mono (by rfl)
  | .vld .. => (execVld_only ..).mono (by rfl)
  | .vst .. => (execVst_only ..).mono (by rfl)
  | .vld8 .. => (execVld8_only ..).mono (by rfl)
  | .vst8 .. => (execVst8_only ..).mono (by rfl)
  | .vred .. => (execVred_only ..).mono (by rfl)
  | .vcomb .. => (execVcomb_only ..).mono (by rfl)
  | .vpass .. => (execVpass_only ..).mono (by rfl)
  | .vtag .. => (execVtag_only ..).mono (by rfl)
  | .vsend .. => (execVsend_only ..).mono (by rfl)
  | .vrecv .. => (execVrecv_only ..).mono (by rfl)
  | .vrng .. => (execVrng_only ..).mono (by rfl)
  | .vdrop .. => (execVdrop_only ..).mono (by rfl)
  | .vuni .. => (execVuni_only ..).mono (by rfl)
  | .sli .. => (execSli_only ..).mono (by rfl)
  | .slih .. => (execSlih_only ..).mono (by rfl)
  | .sadd .. => (execSadd_only ..).mono (by rfl)
  | .loop .. => (execLoop_only ..).mono (by rfl)
  | .endProgram core args => (execEndProgram_only core args s).mono (by rfl)
  | .uadd .. => (execUadd_only ..).mono (by rfl)
  | .usub .. => (execUsub_only ..).mono (by rfl)
  | .umul .. => (execUmul_only ..).mono (by rfl)
  | .ufma .. => (execUfma_only ..).mono (by rfl)
  | .udiv .. => (execUdiv_only ..).mono (by rfl)
  | .usqrt .. => (execUsqrt_only ..).mono (by rfl)
  | .ursqrt .. => (execUrsqrt_only ..).mono (by rfl)
  | .umax .. => (execUmax_only ..).mono (by rfl)
  | .umin .. => (execUmin_only ..).mono (by rfl)
  | .uabs .. => (execUabs_only ..).mono (by rfl)
  | .usel .. => (execUsel_only ..).mono (by rfl)
  | .uest .. => (execUest_only ..).mono (by rfl)
  | .ured .. => (execUred_only ..).mono (by rfl)
  | .umov .. => (execUmov_only ..).mono (by rfl)
  | .ringCommandFetch .. => (execRingCommandFetch_only ..).mono (by rfl)
  | .commandStart .. => (execCommandStart_only ..).mono (by rfl)
  | .commandCommit .. => (execCommandCommit_only ..).mono (by rfl)
  | .kill .. => (execKill_only ..).mono (by rfl)
  | .mergeEntryArrival .. => (execMergeEntryArrival_only ..).mono (by rfl)
  | .tileRequestDone .. => (execTileRequestDone_only ..).mono (by rfl)
  | .partialArrival .. => (execPartialArrival_only ..).mono (by rfl)
  | .rootDelivery .. => (execRootDelivery_only ..).mono (by rfl)
  | .stepBoundary .. => (execStepBoundary_only ..).mono (by rfl)
  | .stepBarrierBoundExpiry .. => (execStepBarrierBoundExpiry_only ..).mono (by rfl)
  | .syncWaitBoundExpiry .. => (execSyncWaitBoundExpiry_only ..).mono (by rfl)
  | .barrierTokenArrival .. => (execBarrierTokenArrival_only ..).mono (by rfl)
  | .doorbell .. => (execDoorbell_only ..).mono (by rfl)
  | .queueCreate .. => (execQueueCreate_only ..).mono (by rfl)
  | .queueDestroy .. => (execQueueDestroy_only ..).mono (by rfl)
  | .queueReset .. => (execQueueReset_only ..).mono (by rfl)
  | .queueRestart .. => (execQueueRestart_only ..).mono (by rfl)
  | .releaseQuarantine .. => (execReleaseQuarantine_only ..).mono (by rfl)
  | .jobSubmit .. => (execJobSubmit_only ..).mono (by rfl)
  | .jobEnd .. => (execJobEnd_only ..).mono (by rfl)
  | .coreGrant .. => (execCoreGrant_only ..).mono (by rfl)
  | .preEmption .. => (execPreEmption_only ..).mono (by rfl)
  | .yieldWaitBoundExpiry .. => (execYieldWaitBoundExpiry_only ..).mono (by rfl)
  | .saveDone .. => (execSaveDone_only ..).mono (by rfl)
  | .coreZeroingDone .. => (execCoreZeroingDone_only ..).mono (by rfl)
  | .mailboxDoorbell .. => (execMailboxDoorbell_only ..).mono (by rfl)
  | .mbxPageWrite .. => (execMbxPageWrite_only ..).mono (by rfl)
  | .mailboxResponseWrite .. => (execMailboxResponseWrite_only ..).mono (by rfl)
  | .promote .. => (execPromote_only ..).mono (by rfl)
  | .evict .. => (execEvict_only ..).mono (by rfl)
  | .pin .. => (execPin_only ..).mono (by rfl)
  | .unpin .. => (execUnpin_only ..).mono (by rfl)
  | .promoteCopyDone .. => (execPromoteCopyDone_only ..).mono (by rfl)
  | .writeBackStart .. => (execWriteBackStart_only ..).mono (by rfl)
  | .writeBackDone .. => (execWriteBackDone_only ..).mono (by rfl)
  | .keyRegistration .. => (execKeyRegistration_only ..).mono (by rfl)
  | .removeKey .. => (execRemoveKey_only ..).mono (by rfl)
  | .register .. => (execRegister_only ..).mono (by rfl)
  | .relocate .. => (execRelocate_only ..).mono (by rfl)
  | .remove .. => (execRemove_only ..).mono (by rfl)
  | .serveBind .. => (execServeBind_only ..).mono (by rfl)
  | .serveBindComplete .. => (execServeBindComplete_only ..).mono (by rfl)
  | .trainBind .. => (execTrainBind_only ..).mono (by rfl)
  | .unbind .. => (execUnbind_only ..).mono (by rfl)
  | .unbindComplete .. => (execUnbindComplete_only ..).mono (by rfl)
  | .seal .. => (execSeal_only ..).mono (by rfl)
  | .baseLoad .. => (execBaseLoad_only ..).mono (by rfl)
  | .baseReplace .. => (execBaseReplace_only ..).mono (by rfl)
  | .baseReplaceAbort .. => (execBaseReplaceAbort_only ..).mono (by rfl)
  | .layerSwap .. => (execLayerSwap_only ..).mono (by rfl)
  | .finalSwapBarrier .. => (execFinalSwapBarrier_only ..).mono (by rfl)
  | .baseTileMulticast .. => (execBaseTileMulticast_only ..).mono (by rfl)
  | .get .. => (execGet_only ..).mono (by rfl)
  | .set .. => (execSet_only ..).mono (by rfl)
  | .info .. => (execInfo_only ..).mono (by rfl)
  | .next .. => (execNext_only ..).mono (by rfl)
  | .subscribe .. => (execSubscribe_only ..).mono (by rfl)
  | .snapshot .. => (execSnapshot_only ..).mono (by rfl)
  | .alarmNotifyRepeat .. => (execAlarmNotifyRepeat_only ..).mono (by rfl)
  | .stagedValueTimeout .. => (execStagedValueTimeout_only ..).mono (by rfl)
  | .dictionaryWrite .. => (execDictionaryWrite_only ..).mono (by rfl)
  | .mapWrite .. => (execMapWrite_only ..).mono (by rfl)
  | .vfQuotaWrite .. => (execVfQuotaWrite_only ..).mono (by rfl)
  | .vfPartitionWrite .. => (execVfPartitionWrite_only ..).mono (by rfl)
  | .poolWrite .. => (execPoolWrite_only ..).mono (by rfl)
  | .functionReset .. => (execFunctionReset_only ..).mono (by rfl)
  | .pfReset .. => (execPfReset_only ..).mono (by rfl)
  | .drainLimitExpiry .. => (execDrainLimitExpiry_only ..).mono (by rfl)
  | .epochFlush .. => (execEpochFlush_only ..).mono (by rfl)
  | .failoverRequest .. => (execFailoverRequest_only ..).mono (by rfl)
  | .eastLinkDownTimeout => (execEastLinkDownTimeout_only ..).mono (by rfl)
  | .startRequestWarm .. => (execStartRequestWarm_only ..).mono (by rfl)
  | .startRequestCold .. => (execStartRequestCold_only ..).mono (by rfl)
  | .configurationCommit .. => (execConfigurationCommit_only ..).mono (by rfl)
  | .configurationWriteDone => (execConfigurationWriteDone_only ..).mono (by rfl)
  | .stopChange .. => (execStopChange_only ..).mono (by rfl)
  | .overlayWrite .. => (execOverlayWrite_only ..).mono (by rfl)
  | .operatorKeyWrite .. => (execOperatorKeyWrite_only ..).mono (by rfl)
  | .checkpointRequest .. => (execCheckpointRequest_only ..).mono (by rfl)
  | .auditExportWrite .. => (execAuditExportWrite_only ..).mono (by rfl)
  | .alarmAcknowledge .. => (execAlarmAcknowledge_only ..).mono (by rfl)
  | .alarmClear .. => (execAlarmClear_only ..).mono (by rfl)
  | .declareDead .. => (execDeclareDead_only ..).mono (by rfl)
  | .gpioFunctionWrite .. => (execGpioFunctionWrite_only ..).mono (by rfl)
  | .gpioParkEnd .. => (execGpioParkEnd_only ..).mono (by rfl)
  | .bar4Access .. => (execBar4Access_only ..).mono (by rfl)
  | .getVersion => (execGetVersion_only ..).mono (by rfl)
  | .getCapabilities => (execGetCapabilities_only ..).mono (by rfl)
  | .negotiateAlgorithms .. => (execNegotiateAlgorithms_only ..).mono (by rfl)
  | .getDigests => (execGetDigests_only ..).mono (by rfl)
  | .getCertificate .. => (execGetCertificate_only ..).mono (by rfl)
  | .challenge .. => (execChallenge_only ..).mono (by rfl)
  | .getMeasurements .. => (execGetMeasurements_only ..).mono (by rfl)
  | .keyExchange .. => (execKeyExchange_only ..).mono (by rfl)
  | .finish .. => (execFinish_only ..).mono (by rfl)
  | .endSession .. => (execEndSession_only ..).mono (by rfl)
  | .heartbeat .. => (execHeartbeat_only ..).mono (by rfl)
  | .keygen .. => (execKeygen_only ..).mono (by rfl)
  | .sign .. => (execSign_only ..).mono (by rfl)
  | .verify .. => (execVerify_only ..).mono (by rfl)
  | .ecdh .. => (execEcdh_only ..).mono (by rfl)
  | .validate .. => (execValidate_only ..).mono (by rfl)
  | .engineOperationDone .. => (execEngineOperationDone_only ..).mono (by rfl)
  | .firmwareUpdate .. => (execFirmwareUpdate_only ..).mono (by rfl)
  | .coldStart .. => (execColdStart_only ..).mono (by rfl)
  | .warmStart .. => (execWarmStart_only ..).mono (by rfl)
  | .startStepTimeout .. => (execStartStepTimeout_only ..).mono (by rfl)
  | .pwrEnRise .. => (execPwrEnRise_only ..).mono (by rfl)
  | .pwrEnFall => (execPwrEnFall_only ..).mono (by rfl)
  | .aux12vApplied => (execAux12vApplied_only ..).mono (by rfl)
  | .aux12vLow => (execAux12vLow_only ..).mono (by rfl)
  | .main48vOutOfRange => (execMain48vOutOfRange_only ..).mono (by rfl)
  | .modrstAssert => (execModrstAssert_only ..).mono (by rfl)
  | .refclkCheck .. => (execRefclkCheck_only ..).mono (by rfl)
  | .beatSyncInEdge .. => (execBeatSyncInEdge_only ..).mono (by rfl)
  | .beatSyncOutPulse => (execBeatSyncOutPulse_only ..).mono (by rfl)
  | .timeSyncExchange .. => (execTimeSyncExchange_only ..).mono (by rfl)
  | .vcoreDroop .. => (execVcoreDroop_only ..).mono (by rfl)
  | .droopThrottleEnd .. => (execDroopThrottleEnd_only ..).mono (by rfl)
  | .brownOut .. => (execBrownOut_only ..).mono (by rfl)
  | .powerSample .. => (execPowerSample_only ..).mono (by rfl)
  | .powerStep .. => (execPowerStep_only ..).mono (by rfl)
  | .dieTemperatureHigh .. => (execDieTemperatureHigh_only ..).mono (by rfl)
  | .wakeRequest .. => (execWakeRequest_only ..).mono (by rfl)
  | .rampEnd .. => (execRampEnd_only ..).mono (by rfl)
  | .pllLock .. => (execPllLock_only ..).mono (by rfl)
  | .idleGateExpiry .. => (execIdleGateExpiry_only ..).mono (by rfl)
  | .pllOffExpiry .. => (execPllOffExpiry_only ..).mono (by rfl)
  | .leaseRenewal => (execLeaseRenewal_only ..).mono (by rfl)
  | .leaseTakeover => (execLeaseTakeover_only ..).mono (by rfl)
  | .leaseDisagreement => (execLeaseDisagreement_only ..).mono (by rfl)
  | .demotion .. => (execDemotion_only ..).mono (by rfl)
  | .managementMessage .. => (execManagementMessage_only ..).mono (by rfl)
  | .fabricManagerLease .. => (execFabricManagerLease_only ..).mono (by rfl)
  | .fence .. => (execFence_only ..).mono (by rfl)
  | .fenceNotice .. => (execFenceNotice_only ..).mono (by rfl)
  | .flitTagFailure .. => (execFlitTagFailure_only ..).mono (by rfl)
  | .laneFailure .. => (execLaneFailure_only ..).mono (by rfl)
  | .crookLinkLoss .. => (execCrookLinkLoss_only ..).mono (by rfl)
  | .portKeyExchange .. => (execPortKeyExchange_only ..).mono (by rfl)
  | .portRekey .. => (execPortRekey_only ..).mono (by rfl)
  | .keyRetryExpiry .. => (execKeyRetryExpiry_only ..).mono (by rfl)
  | .remoteWrite .. => (execRemoteWrite_only ..).mono (by rfl)
  | .remoteIntegerAdd .. => (execRemoteIntegerAdd_only ..).mono (by rfl)
  | .remoteCommit .. => (execRemoteCommit_only ..).mono (by rfl)
  | .hostProxy .. => (execHostProxy_only ..).mono (by rfl)
  | .remoteSyncSignal .. => (execRemoteSyncSignal_only ..).mono (by rfl)
  | .destinationUnreachable .. => (execDestinationUnreachable_only ..).mono (by rfl)
  | .hostReadCompletion .. => (execHostReadCompletion_only ..).mono (by rfl)
  | .correctedError .. => (execCorrectedError_only ..).mono (by rfl)
  | .uncorrectableError .. => (execUncorrectableError_only ..).mono (by rfl)
  | .uncorrectableReadLowerTier .. => (execUncorrectableReadLowerTier_only ..).mono (by rfl)
  | .coreHeartbeatLoss .. => (execCoreHeartbeatLoss_only ..).mono (by rfl)
  | .watchdogExpiry .. => (execWatchdogExpiry_only ..).mono (by rfl)
  | .scrubPass .. => (execScrubPass_only ..).mono (by rfl)
  | .traceReadPoll .. => (execTraceReadPoll_only ..).mono (by rfl)
  | .journalGap => (execJournalGap_only ..).mono (by rfl)
  | .main48vApplied => (execMain48vApplied_only ..).mono (by rfl)
  | .pcieFundamentalReset .. => (execPcieFundamentalReset_only ..).mono (by rfl)
  | .brownOutRecovery .. => (execBrownOutRecovery_only ..).mono (by rfl)
  | .droopGapEnd .. => (execDroopGapEnd_only ..).mono (by rfl)
  | .restoreDone .. => (execRestoreDone_only ..).mono (by rfl)
  | .unitZeroingDone .. => (execUnitZeroingDone_only ..).mono (by rfl)
  | .remoteAcknowledgement .. => (execRemoteAcknowledgement_only ..).mono (by rfl)
  | .replayInputRelease .. => (execReplayInputRelease_only ..).mono (by rfl)
  | .makerDebugUnlock .. => (execMakerDebugUnlock_only ..).mono (by rfl)
  | .boundaryScan intest => (execBoundaryScan_only intest s).mono (by rfl)
  | .randomSourceHealthTestFailure .. => (execRandomSourceHealthTestFailure_only ..).mono (by rfl)
  | .completionTimeout .. => (execCompletionTimeout_only ..).mono (by rfl)

end Sys2Proof.Machine

namespace Sys2Proof.Machine

/-- The fields of `F` as in `t`, the others as in `s`. -/
def overlay (F : List StateField) (s t : State) : State where
  now := if .now ∈ F then t.now else s.now
  drone := if .drone ∈ F then t.drone else s.drone
  fresh := if .fresh ∈ F then t.fresh else s.fresh
  uid := if .uid ∈ F then t.uid else s.uid
  dict := if .dict ∈ F then t.dict else s.dict
  tel := if .tel ∈ F then t.tel else s.tel
  audit := if .audit ∈ F then t.audit else s.audit
  sec := if .sec ∈ F then t.sec else s.sec
  cfg := if .cfg ∈ F then t.cfg else s.cfg
  pwr := if .pwr ∈ F then t.pwr else s.pwr
  pins := if .pins ∈ F then t.pins else s.pins
  clusters := if .clusters ∈ F then t.clusters else s.clusters
  cores := if .cores ∈ F then t.cores else s.cores
  queues := if .queues ∈ F then t.queues else s.queues
  jobs := if .jobs ∈ F then t.jobs else s.jobs
  parts := if .parts ∈ F then t.parts else s.parts
  bufs := if .bufs ∈ F then t.bufs else s.bufs
  index := if .index ∈ F then t.index else s.index
  tiered := if .tiered ∈ F then t.tiered else s.tiered
  keys := if .keys ∈ F then t.keys else s.keys
  keyGens := if .keyGens ∈ F then t.keyGens else s.keyGens
  dirs := if .dirs ∈ F then t.dirs else s.dirs
  ctxs := if .ctxs ∈ F then t.ctxs else s.ctxs
  sync := if .sync ∈ F then t.sync else s.sync
  reds := if .reds ∈ F then t.reds else s.reds
  mbx := if .mbx ∈ F then t.mbx else s.mbx
  host := if .host ∈ F then t.host else s.host
  win := if .win ∈ F then t.win else s.win
  miss := if .miss ∈ F then t.miss else s.miss
  lease := if .lease ∈ F then t.lease else s.lease
  rel := if .rel ∈ F then t.rel else s.rel
  hbm := if .hbm ∈ F then t.hbm else s.hbm
  hostOut := if .hostOut ∈ F then t.hostOut else s.hostOut
  pending := if .pending ∈ F then t.pending else s.pending

/-- States that agree in every field are equal. -/
theorem State.eq_of_same {s t : State} (h : ∀ k, StateField.same s t k) : t = s := by
  cases s
  cases t
  rw [State.mk.injEq]
  exact ⟨h .now, h .drone, h .fresh, h .uid, h .dict, h .tel, h .audit, h .sec, h .cfg, h .pwr, h .pins, h .clusters,
    h .cores, h .queues, h .jobs, h .parts, h .bufs, h .index, h .tiered, h .keys, h .keyGens, h .dirs, h .ctxs,
    h .sync, h .reds, h .mbx, h .host, h .win, h .miss, h .lease, h .rel, h .hbm, h .hostOut, h .pending⟩

/-- A frame as an equation: for a list of fields written out, the right side computes to `s` with these fields of `t`. -/
theorem Only.eq_overlay {F : List StateField} {s t : State} (h : Only F s t) : t = overlay F s t := by
  refine State.eq_of_same fun k => ?_
  cases k <;> simp only [StateField.same, overlay] <;> split <;> first | rfl | exact h.same _ ‹_›

end Sys2Proof.Machine

/-! PROOFS. The queue of waiting commands: a step takes the front command, a command leaves the queue alone, and an empty
queue lets a beat pass; what every step keeps, and the state right after reset. -/

namespace Sys2Proof.Machine

/-! ## A step, and what it keeps -/

theorem step_of_cons {s : State} {c : Instr} {rest : List Instr} (h : s.pending = c :: rest) :
    step s = exec c { s with pending := rest } := by
  unfold step
  rw [h]

theorem step_of_nil {s : State} (h : s.pending = []) : step s = .next (idleStep s) := by
  unfold step
  rw [h]

theorem setPending_only (s : State) (l : List Instr) : Only [.pending] s { s with pending := l } :=
  .of_same (fun k hk => by cases k <;> simp_all) rfl rfl rfl

/-- A command that answers `t` changes at most what a command may change. -/
theorem exec_next_only {c : Instr} {s t : State} (h : exec c s = .next t) : Only commandFields s t := by
  obtain ⟨u, hu, honly⟩ := exec_only c s
  exact Host.Outcome.next.inj (hu.symm.trans h) ▸ honly

/-- Whatever stands in front, a step changes the commands that wait at most by taking the front one. -/
theorem step_only {s t : State} (h : step s = .next t) :
    Only (.pending :: commandFields) s t ∧ t.pending = s.pending.tail := by
  cases hp : s.pending with
  | nil =>
    rw [step_of_nil hp] at h
    cases h
    exact ⟨(idleStep_only s).mono (by rfl), ((idleStep_only s).same .pending (by decide)).trans hp⟩
  | cons c rest =>
    rw [step_of_cons hp] at h
    have honly := exec_next_only h
    exact ⟨((setPending_only s rest).trans honly).mono (by rfl), honly.same .pending (by decide)⟩

theorem FusesFrom.of_rise {f : Fuses} {s t : State} (h : FusesRise s t) (hs : FusesFrom f s) : FusesFrom f t := by
  obtain ⟨heq, hle⟩ := h
  obtain ⟨heq', hle'⟩ := hs
  exact ⟨heq.trans (by rw [heq']), hle'.trans hle⟩

/-- Settles O59: the frame of a step keeps the fuses and the memories, and the waiting commands are the tail of those before. -/
theorem stepKeepsInvariants : Obligations.StepKeepsInvariants := by
  intro f s t h
  obtain ⟨honly, hpending⟩ := step_only h
  refine ⟨.of_rise honly.fuses, fun hs c hc => hs c ?_, honly.memory⟩
  rw [hpending] at hc
  exact List.mem_of_mem_tail hc

/-- Settles O1: the front command takes effect on the state with the queue's rest, and every command answers a next state. -/
theorem stepRunsTheFrontCommand : Obligations.StepRunsTheFrontCommand :=
  ⟨fun _ _ _ => step_of_cons, fun s c => (exec_only c s).imp fun _ h => h.1⟩

/-! ## An idle beat -/

theorem portAt_updTrunk (s : State) (d w : Nat) (f : Trunk → Trunk) : portAt (updTrunk s d f) w = portAt s w := rfl

theorem trunkAt_updTrunk_other (s : State) {d e : Nat} (f : Trunk → Trunk) (h : e ≠ d) : trunkAt (updTrunk s d f) e = trunkAt s e :=
  FMap.getD_put_other _ _ _ _ _ _ h

/-- Counting flits touches only the flit counters. -/
theorem portAt_countFlits (s : State) (l : List Flit) (w : Nat) :
    portAt (countFlits s l) w = { portAt s w with flits := (portAt (countFlits s l) w).flits } := by
  induction l generalizing s with
  | nil => rfl
  | cons f l ih =>
    have hstep : portAt (updPort s f.port fun p => { p with flits := p.flits + 1 }) w
        = { portAt s w with flits := (portAt (updPort s f.port fun p => { p with flits := p.flits + 1 }) w).flits } := by
      by_cases hw : w = f.port
      · subst hw
        simp [portAt, updPort]
      · simp [portAt, updPort, hw]
    have htail := ih (updPort s f.port fun p => { p with flits := p.flits + 1 })
    rw [hstep] at htail
    exact htail

theorem portAt_trunkBeat (s : State) (d w : Nat) :
    portAt (trunkBeat s d) w = { portAt s w with flits := (portAt (trunkBeat s d) w).flits } := by
  unfold trunkBeat
  dsimp only
  split
  · rfl
  · exact portAt_countFlits s _ w

/-- A trunk's beat leaves the other trunks alone. -/
theorem trunkAt_trunkBeat_other (s : State) {d e : Nat} (h : e ≠ d) : trunkAt (trunkBeat s d) e = trunkAt s e := by
  unfold trunkBeat
  dsimp only
  split
  · rfl
  · simp [trunkAt, updTrunk, h]
    rw [countFlits_eq]

theorem trunkAt_trunkBeat_of_idle (s : State) (d e : Nat) (hw : (trunkAt s e).waiting = []) (hu : (trunkAt s e).unacked = []) :
    trunkAt (trunkBeat s d) e = trunkAt s e := by
  by_cases h : e = d
  · subst h
    rw [trunkBeat_of_idle s e hw hu]
  · exact trunkAt_trunkBeat_other s h

/-- Only the free-value count, the trunks and the ports differ. -/
def TrunksOnly (s t : State) : Prop :=
  t = { s with fresh := t.fresh, win := { s.win with trunks := t.win.trunks, ports := t.win.ports } }

theorem TrunksOnly.trans {s t u : State} (h : TrunksOnly s t) (h' : TrunksOnly t u) : TrunksOnly s u := by
  unfold TrunksOnly at *
  rw [h] at h'
  exact h'

/-- What the beats of some trunks leave: only the free-value count, the trunks and the ports' flit counters differ. -/
theorem trunkBeats_frame (l : List Nat) (s : State) :
    let t := l.foldl trunkBeat s
    TrunksOnly s t ∧ (∀ w, portAt t w = { portAt s w with flits := (portAt t w).flits })
      ∧ ∀ d, (trunkAt s d).waiting = [] → (trunkAt s d).unacked = [] → trunkAt t d = trunkAt s d := by
  induction l generalizing s with
  | nil => exact ⟨rfl, fun _ => rfl, fun _ _ _ => rfl⟩
  | cons d l ih =>
    obtain ⟨hframe, hports, hidle⟩ := ih (trunkBeat s d)
    refine ⟨?_, fun w => ?_, fun e hw hu => ?_⟩
    · exact TrunksOnly.trans (trunkBeat_eq s d) hframe
    · have h := hports w
      rw [portAt_trunkBeat s d w] at h
      exact h
    · have he := trunkAt_trunkBeat_of_idle s d e hw hu
      exact (hidle e (he ▸ hw) (he ▸ hu)).trans he

/-- Only the counters and the pause of a slew differ. -/
def ClocksOnly (s t : State) : Prop := t = { s with now := t.now, drone := t.drone, win := { s.win with pause := t.win.pause } }

theorem ClocksOnly.trunks {s b t : State} (h : ClocksOnly s b) (h' : TrunksOnly b t) :
    t = { s with
      now := t.now, drone := t.drone, fresh := t.fresh
      win := { s.win with pause := t.win.pause, trunks := t.win.trunks, ports := t.win.ports } } := by
  unfold ClocksOnly at h
  unfold TrunksOnly at h'
  have hnow : t.now = b.now := by rw [h']
  have hdrone : t.drone = b.drone := by rw [h']
  have hpause : t.win.pause = b.win.pause := by rw [h']
  rw [hnow, hdrone, hpause]
  rw [h] at h'
  exact h'

theorem idleBeat_clocksOnly (s : State) : ClocksOnly s (idleBeat s) := by
  unfold ClocksOnly idleBeat
  repeat' split
  all_goals rfl

theorem idleBeat_of_pause {s : State} (h : s.win.pause = true) :
    (idleBeat s).now = s.now ∧ (idleBeat s).drone = s.drone ∧ (idleBeat s).win.pause = false := by
  simp [idleBeat, h]

theorem idleBeat_of_beats {s : State} (h : s.win.pause = false) (hd : droneOnly s = false) :
    (idleBeat s).now = (s.now + 1) % 2 ^ 64
      ∧ (idleBeat s).drone = if (s.now + 1) % 100 = 0 then s.drone + 1 else s.drone := by
  simp [idleBeat, h, hd]

theorem idleBeat_of_droneOnly {s : State} (h : s.win.pause = false) (hd : droneOnly s = true) :
    (idleBeat s).now = s.now ∧ (idleBeat s).drone = if s.pwr.aux12 then s.drone + 1 else s.drone := by
  cases haux : s.pwr.aux12 <;> simp [idleBeat, h, hd, haux]

theorem idleStep_frame (s : State) :
    TrunksOnly (idleBeat s) (idleStep s)
      ∧ (∀ w, portAt (idleStep s) w = { portAt (idleBeat s) w with flits := (portAt (idleStep s) w).flits })
      ∧ ∀ d, (trunkAt (idleBeat s) d).waiting = [] → (trunkAt (idleBeat s) d).unacked = []
          → trunkAt (idleStep s) d = trunkAt (idleBeat s) d :=
  trunkBeats_frame (List.range 6) (idleBeat s)

/-- Settles O60: the frame of a command leaves the queue out; the beat of an empty queue is the idle beat and the trunks' beats. -/
theorem queueIsTheSendersAlone : Obligations.QueueIsTheSendersAlone := by
  refine ⟨fun c s t h => (exec_next_only h).same .pending (by decide), fun s hp => ⟨_, step_of_nil hp, ?_⟩⟩
  have hbeat := idleBeat_clocksOnly s
  have hslew := @idleBeat_of_pause s
  have hcount := @idleBeat_of_beats s
  have hdrone := @idleBeat_of_droneOnly s
  obtain ⟨hframe, hports, hidle⟩ := idleStep_frame s
  generalize idleStep s = t at *
  generalize idleBeat s = b at *
  have hnow : t.now = b.now := by rw [hframe]
  have hdroneEq : t.drone = b.drone := by rw [hframe]
  have hpause : t.win.pause = b.win.pause := by rw [hframe]
  have hportAt (w) : portAt b w = portAt s w := by rw [hbeat]; rfl
  have htrunkAt (d) : trunkAt b d = trunkAt s d := by rw [hbeat]; rfl
  refine ⟨hbeat.trunks hframe, fun w => ?_, ?_, ?_, ?_, fun d _ hw hu => ?_⟩
  · rw [← hportAt w]
    exact hports w
  · rw [hnow, hdroneEq, hpause]
    exact hslew
  · rw [hnow, hdroneEq]
    exact hcount
  · rw [hnow, hdroneEq]
    exact hdrone
  · rw [← htrunkAt d] at hw hu ⊢
    exact hidle d hw hu

/-! ## Right after reset -/

/-- A module without a core written yet has every core in service and gated. -/
theorem coreAt_of_nil {s : State} (h : s.cores = []) (core : Nat) : coreAt s core = {} := by
  unfold coreAt
  rw [h]
  rfl

/-- Settles O58: each clause is read off the state right after reset. -/
theorem resetState : Obligations.ResetState := by
  refine ⟨by decide +kernel, rfl, by decide +kernel, by decide +kernel, by decide +kernel, by decide +kernel, rfl, rfl, rfl, rfl, rfl, rfl,
    by decide +kernel, by decide +kernel, fun core _ => ?_, by decide +kernel, ⟨rfl, Nat.le_refl _⟩, nofun, rfl, rfl⟩
  rw [coreAt_of_nil rfl]
  exact ⟨rfl, rfl⟩

end Sys2Proof.Machine

/-! PROOFS. The vector unit: lane-wise instructions, register moves, masks, scalars and loops. -/

namespace Sys2Proof.Machine

/-! ## Lane-wise instructions write one register -/

theorem vecLane1_wrote (f : W32 → W32) (core : Nat) (a : VArgs) (s : State) :
    VecWrote s (vecLane1 f core a s) core a.vd.toNat none
      ∧ (vecOf (vecLane1 f core a s) core).reg a.vd.toNat
        = underMask (vecOf s core) a (((vecOf s core).reg a.va.toNat).map f) := by
  unfold vecLane1
  exact ⟨updVec_write s core a _ _, updVec_write_reg s core a _ _⟩

theorem vecLane2_wrote (f : W32 → W32 → W32) (core : Nat) (a : VArgs) (s : State) :
    VecWrote s (vecLane2 f core a s) core a.vd.toNat none
      ∧ (vecOf (vecLane2 f core a s) core).reg a.vd.toNat
        = underMask (vecOf s core) a (((vecOf s core).reg a.va.toNat).zipWith f ((vecOf s core).reg a.vb.toNat)) := by
  unfold vecLane2
  exact ⟨updVec_write s core a _ _, updVec_write_reg s core a _ _⟩

/-- Settles O2: each instruction is the one-source or the two-source map under the mask. -/
theorem vectorArithmetic : Obligations.VectorArithmetic := by
  unfold Obligations.VectorArithmetic
  simp only [List.forall_mem_cons, List.not_mem_nil, false_implies, implies_true, and_true]
  refine ⟨⟨?_, ?_, ?_, ?_, ?_, ?_, ?_, ?_, ?_, ?_, ?_, ?_, ?_⟩, ?_, ?_, ?_, ?_, ?_, ?_⟩ <;> intro core a s
  · exact ⟨_, rfl, vecLane1_wrote Fp.abs core a s⟩
  · exact ⟨_, rfl, vecLane1_wrote Fp.negate core a s⟩
  · exact ⟨_, rfl, vecLane1_wrote Fp.sqrt core a s⟩
  · exact ⟨_, rfl, vecLane1_wrote Fp.rsqrt core a s⟩
  · exact ⟨_, rfl, vecLane1_wrote Fp.rcp core a s⟩
  · exact ⟨_, rfl, vecLane1_wrote Fp.exp core a s⟩
  · exact ⟨_, rfl, vecLane1_wrote Fp.exp2 core a s⟩
  · exact ⟨_, rfl, vecLane1_wrote Fp.ln core a s⟩
  · exact ⟨_, rfl, vecLane1_wrote Fp.log2 core a s⟩
  · exact ⟨_, rfl, vecLane1_wrote Fp.tanh core a s⟩
  · exact ⟨_, rfl, vecLane1_wrote Fp.erf core a s⟩
  · exact ⟨_, rfl, vecLane1_wrote Fp.sig core a s⟩
  · exact ⟨_, rfl, vecLane1_wrote vecUni core a s⟩
  · exact ⟨_, rfl, vecLane2_wrote Fp.add core a s⟩
  · exact ⟨_, rfl, vecLane2_wrote Fp.sub core a s⟩
  · exact ⟨_, rfl, vecLane2_wrote Fp.mul core a s⟩
  · exact ⟨_, rfl, vecLane2_wrote Fp.max core a s⟩
  · exact ⟨_, rfl, vecLane2_wrote Fp.min core a s⟩
  · exact ⟨_, rfl, vecLane2_wrote Fp.div core a s⟩

/-! ## Register moves -/

/-- Bits [31:8] of a word, as the threshold of VDROP compares them. -/
theorem bits_word_high (w : W32) : bits w.toNat 31 8 = w.toNat / 256 := by
  have h := w.isLt
  unfold bits
  omega

/-- A lane of a merge: the new one where the mask lane is 1. -/
theorem mergeLanes_getD (m : List Bool) (new old : List W32) (i : Nat) (hm : i < m.length) (hn : i < new.length)
    (ho : i < old.length) : (mergeLanes m new old).getD i 0 = if m[i] then new.getD i 0 else old.getD i 0 := by
  simp [mergeLanes, List.getD_eq_getElem?_getD, hm, hn, ho]

theorem vecLane3_wrote (f : W32 → W32 → W32 → W32) (core : Nat) (a : VArgs) (s : State) :
    VecWrote s (vecLane3 f core a s) core a.vd.toNat none
      ∧ (vecOf (vecLane3 f core a s) core).reg a.vd.toNat = underMask (vecOf s core) a
        ((((vecOf s core).reg a.va.toNat).zip (((vecOf s core).reg a.vb.toNat).zip ((vecOf s core).reg a.vc.toNat))).map
          fun p => f p.1 p.2.1 p.2.2) := by
  unfold vecLane3
  exact ⟨updVec_write s core a _ _, updVec_write_reg s core a _ _⟩

theorem vecDrop_wrote (core : Nat) (a : VArgs) (s : State) :
    VecWrote s (vecDrop core a s) core a.vd.toNat none
      ∧ (vecOf (vecDrop core a s) core).reg a.vd.toNat = underMask (vecOf s core) a
        (((vecOf s core).reg a.va.toNat).zipWith (fun w x =>
          if bits a.imm.toNat 23 0 ≤ bits w.toNat 31 8 then Fp.mul x (((vecOf s core).reg a.vc.toNat).getD 0 0) else 0)
          ((vecOf s core).reg a.vb.toNat)) := by
  simp only [bits_word_high]
  unfold vecDrop
  exact ⟨updVec_write s core a _ _, updVec_write_reg s core a _ _⟩

/-- VSEL writes every lane: its mask chooses the source. -/
theorem vecSel_wrote (core : Nat) (a : VArgs) (s : State) :
    VecWrote s (vecSel core a s) core a.vd.toNat none
      ∧ (vecOf (vecSel core a s) core).reg a.vd.toNat = mergeLanes (maskLanes ((vecOf s core).maskOf a.mask.toNat))
        ((vecOf s core).reg a.va.toNat) ((vecOf s core).reg a.vb.toNat) := by
  unfold vecSel
  exact ⟨updVec_write s core { a with mask := 0 } _ _, updVec_write_reg s core { a with mask := 0 } _ _⟩

theorem vecMov_wrote (core : Nat) (a : VArgs) (s : State) :
    VecWrote s (vecMov core a s) core a.vd.toNat ((vecOf s core).tagOf a.va.toNat)
      ∧ (vecOf (vecMov core a s) core).reg a.vd.toNat = underMask (vecOf s core) a ((vecOf s core).reg a.va.toNat) := by
  unfold vecMov
  exact ⟨updVec_write s core a _ _, updVec_write_reg s core a _ _⟩

theorem vecBcast_wrote (core : Nat) (a : VArgs) (s : State) :
    VecWrote s (vecBcast core a s) core a.vd.toNat none
      ∧ (vecOf (vecBcast core a s) core).reg a.vd.toNat = underMask (vecOf s core) a
        (List.replicate 512 (((vecOf s core).reg a.va.toNat).getD (bits a.imm.toNat 8 0) 0)) := by
  unfold vecBcast
  exact ⟨updVec_write s core a _ _, updVec_write_reg s core a _ _⟩

theorem vecLaneIdx_wrote (core : Nat) (a : VArgs) (s : State) :
    VecWrote s (vecLaneIdx core a s) core a.vd.toNat none
      ∧ (vecOf (vecLaneIdx core a s) core).reg a.vd.toNat
        = underMask (vecOf s core) a ((List.range 512).map fun i : Nat => Fp.ofInt i) := by
  unfold vecLaneIdx
  exact ⟨updVec_write s core a _ _, updVec_write_reg s core a _ _⟩

/-- Settles O3: each move is one register written; a masked write keeps the old lane where the mask bit is 0. -/
theorem vectorRegisterMoves : Obligations.VectorRegisterMoves := by
  refine ⟨fun core a s => ?_, ?_⟩
  · intro u va vb vc
    exact ⟨⟨_, rfl, vecLane3_wrote Fp.fma core a s⟩, ⟨_, rfl, vecDrop_wrote core a s⟩, ⟨_, rfl, vecSel_wrote core a s⟩,
      ⟨_, rfl, vecMov_wrote core a s⟩, ⟨_, rfl, vecBcast_wrote core a s⟩, ⟨_, rfl, vecLaneIdx_wrote core a s⟩⟩
  · intro u a new i hmask hnew hold hi
    have hlen : i < (maskLanes (u.maskOf a.mask.toNat)).length := by simpa [maskLanes] using hi
    simp only [underMask, hmask, if_false, mergeLanes_getD _ _ _ _ hlen hnew hold]
    simp [maskLanes]

end Sys2Proof.Machine

/-! PROOFS. The vector unit: comparisons, scalars, loops and the end of a program. -/

namespace Sys2Proof.Machine

/-! ## Masks -/

/-- Bit `i` of the number that the lanes spell. -/
theorem testBit_lanes (l : List Bool) (i : Nat) :
    (l.reverse.foldl (fun (n : Nat) (b : Bool) => 2 * n + if b then 1 else 0) 0).testBit i = l.getD i false := by
  rw [List.foldl_reverse]
  induction l generalizing i with
  | nil => simp
  | cons b l ih =>
    have hbit (n : Nat) : (2 * n + if b then 1 else 0) = Nat.bit b n := by cases b <;> simp [Nat.bit_val]
    rw [List.foldr_cons, hbit]
    cases i with
    | zero => simp
    | succ i => rw [Nat.testBit_bit_succ, ih, List.getD_cons_succ]

theorem laneMask_getLsbD (l : List Bool) (i : Nat) (h : i < 512) : (laneMask l).getLsbD i = l.getD i false := by
  unfold laneMask
  rw [BitVec.getLsbD_ofNat, testBit_lanes]
  simp [h]

theorem VecUnit.maskOf_zero (u : VecUnit) : u.maskOf 0 = BitVec.allOnes 512 := rfl

theorem VecUnit.maskOf_put_self (u : VecUnit) (d : Nat) (m : BitVec 512) (h : d ≠ 0) :
    ({ u with masks := FMap.put 0 u.masks d m } : VecUnit).maskOf d = m := by
  simp [VecUnit.maskOf, h]

theorem VecUnit.maskOf_put_other (u : VecUnit) {d n : Nat} (m : BitVec 512) (h : n ≠ d) :
    ({ u with masks := FMap.put 0 u.masks d m } : VecUnit).maskOf n = u.maskOf n := by
  simp [VecUnit.maskOf, h]

/-- VCMP with a comparison that exists changes mask VD[2:0] alone. -/
theorem vecCmp_wrote (core : Nat) (a : VArgs) (s : State) (hfn : a.fn.toNat ≤ 3) :
    let u := vecOf s core
    let d := a.vd.toNat % 8
    let new := (u.reg a.va.toNat).zipWith (vecCompare a.fn.toNat) (u.reg a.vb.toNat)
    let t := vecCmp core a s
    OnlyVec s t core ∧ (vecOf t core).regs = u.regs ∧ (vecOf t core).tags = u.tags
      ∧ (vecOf t core).scalars = u.scalars ∧ (∀ n, n ≠ d → (vecOf t core).maskOf n = u.maskOf n)
      ∧ ∀ i, i < 512 → ((vecOf t core).maskOf d).getLsbD i
        = if d = 0 then true else if (u.maskOf a.mask.toNat).getLsbD i then new.getD i false else (u.maskOf d).getLsbD i := by
  dsimp only
  unfold vecCmp
  rw [if_neg (Nat.not_lt.2 hfn)]
  dsimp only
  by_cases hd : a.vd.toNat % 8 = 0
  · simp only [hd, if_true]
    refine ⟨updVec_only s core _ rfl, ?_, ?_, ?_, fun n _ => ?_, fun i hi => ?_⟩ <;> rw [vecOf_updVec]
    · rfl
    · rfl
    · rfl
    · rfl
    · exact (BitVec.getLsbD_allOnes ..).trans (decide_eq_true hi)
  · simp only [hd, if_false]
    refine ⟨updVec_only s core _ rfl, ?_, ?_, ?_, fun n hn => ?_, fun i hi => ?_⟩ <;> rw [vecOf_updVec]
    · rfl
    · rfl
    · rfl
    · exact VecUnit.maskOf_put_other _ _ hn
    · rw [VecUnit.next_maskOf, VecUnit.maskOf_put_self _ _ _ hd]
      cases hm : ((vecOf s core).maskOf a.mask.toNat).getLsbD i <;>
        simp only [BitVec.getLsbD_or, BitVec.getLsbD_and, BitVec.getLsbD_not, laneMask_getLsbD _ i hi, hm, hi] <;> simp

/-! ## Scalars -/

/-- A scalar instruction writes scalar VD[3:0] alone. -/
theorem vecScalar_wrote (f : W64 → W64) (core : Nat) (a : VArgs) (s : State) :
    let t := vecScalar f core a s
    OnlyVec s t core ∧ (vecOf t core).regs = (vecOf s core).regs ∧ (vecOf t core).tags = (vecOf s core).tags
      ∧ (vecOf t core).masks = (vecOf s core).masks ∧ (vecOf t core).scalar (a.vd.toNat % 16) = f ((vecOf s core).scalar (a.vd.toNat % 16))
      ∧ ∀ n, n ≠ a.vd.toNat % 16 → (vecOf t core).scalar n = (vecOf s core).scalar n := by
  dsimp only
  unfold vecScalar
  refine ⟨updVec_only s core _ rfl, ?_, ?_, ?_, ?_, fun n hn => ?_⟩ <;> rw [vecOf_updVec]
  · rfl
  · rfl
  · rfl
  · exact FMap.getD_put_self ..
  · exact FMap.getD_put_other _ _ _ _ _ _ hn

/-! ## How a vector instruction fails and a program ends -/

/-- The command whose unit a core's vector unit is. -/
theorem vecOwner_some {s : State} {core q : Nat} {Q : Queue} {c : Cmd} (h : vecOwner s core = some (q, Q, c)) :
    (vecOf s core).owner = some (q, c.uid) ∧ queueAt s q = some Q ∧ cmdAt Q c.uid = some c := by
  unfold vecOwner at h
  split at h
  · cases h
  · next q' uid howner =>
    split at h
    · cases h
    · next Q' hQ =>
      simp only [Option.map_eq_some_iff, Prod.mk.injEq] at h
      obtain ⟨c', hc, rfl, rfl, rfl⟩ := h
      have huid : c'.uid = uid := by simpa using List.find?_some hc
      exact ⟨huid ▸ howner, hQ, huid ▸ hc⟩

/-- A failure at issue fails the command whose unit it is. -/
theorem vecFail_failed (s : State) (core : Nat) (st : Status) {q : Nat} {Q : Queue} {c : Cmd}
    (h : vecOwner s core = some (q, Q, c)) : Failed (vecFail s core st) q c.uid st := by
  obtain ⟨howner, hQ, hc⟩ := vecOwner_some h
  unfold vecFail
  rw [howner]
  exact fail_failed s q c.uid st Q c hQ hc

/-- A command that leaves its engines clears the vector unit that it held. -/
theorem vecOf_leaveEngines_owner {s : State} {core q uid : Nat} (h : (vecOf s core).owner = some (q, uid)) :
    vecOf (leaveEngines s q uid) core = {} := by
  unfold vecOf coreAt FMap.getD at h ⊢
  simp only [leaveEngines, FMap.get?_mapVal]
  cases hk : FMap.get? s.cores core with
  | none => rfl
  | some k =>
    rw [hk] at h
    simp only [Option.getD_some] at h
    simp [h]

/-- A finish touches no other queue. -/
theorem finish_queueAt_other (s : State) (q uid : Nat) (st : Status) (f : Cmd → Cmd) {p : Nat} (h : p ≠ q) :
    queueAt (finish s q uid st f) p = queueAt s p := by
  unfold finish updCmd
  rw [queueAt_updQueue, if_neg h]
  rfl

/-- END finishes the command, and its unit is free. -/
theorem vecEnd_finished (s : State) (core : Nat) {q : Nat} {Q : Queue} {c : Cmd} (h : vecOwner s core = some (q, Q, c)) :
    let t := vecEnd core s
    Finished t q c.uid 0 ∧ vecOf t core = {} ∧ (∀ p, p ≠ q → queueAt t p = queueAt s p)
      ∧ t = { s with cores := t.cores, queues := t.queues } := by
  obtain ⟨howner, hQ, hc⟩ := vecOwner_some h
  dsimp only
  unfold vecEnd
  rw [howner]
  obtain ⟨Q', hQ', hc'⟩ := finish_finished s q c.uid 0 id Q c (fun _ => rfl) hQ hc
  exact ⟨⟨Q', _, hQ', hc', rfl⟩, vecOf_leaveEngines_owner howner, fun p hp => finish_queueAt_other s q c.uid 0 id hp,
    (finish_only s q c.uid 0 id).eq_overlay⟩

/-- A change of loops and position keeps the unit's registers. -/
theorem updVec_kept (s : State) (core : Nat) (f : VecUnit → VecUnit)
    (h : f (vecOf s core) = { vecOf s core with loops := (f (vecOf s core)).loops, pc := (f (vecOf s core)).pc }) :
    VecKept s (updVec s core f) core := by
  refine ⟨updVec_only s core f (by rw [h]), ?_, ?_, ?_, ?_⟩ <;> rw [vecOf_updVec, h]

/-- Settles O4. -/
theorem vectorMasksScalarsLoops : Obligations.VectorMasksScalarsLoops := by
  refine ⟨⟨fun core a s hfn => ⟨_, rfl, vecCmp_wrote core a s hfn⟩, fun core a s q Q c hfn howner h => ⟨_, rfl, ?_⟩⟩, ?_, ?_, ?_⟩
  · unfold vecCmp
    rw [if_pos hfn]
    exact vecFail_failed s core _ h
  · intro core a s d old wrote
    have hslih (x : W64) : slihWord a.imm x = BitVec.ofNat 64 (a.imm.toNat * 2 ^ 38 + x.toNat % 2 ^ 38) := by
      unfold slihWord
      rw [Nat.add_comm]
    refine ⟨⟨_, rfl, vecScalar_wrote _ core a s⟩, ⟨_, rfl, ?_⟩, ⟨_, rfl, vecScalar_wrote _ core a s⟩⟩
    rw [← hslih]
    exact vecScalar_wrote (slihWord a.imm) core a s
  · intro core a s u body
    refine ⟨fun hbody => ⟨_, rfl, ?_⟩, fun hbody hdepth => ⟨_, rfl, ?_⟩, fun q Q c hbody hdepth _ h => ⟨_, rfl, ?_⟩⟩
    · have ht : vecLoop core a s = updVec s core VecUnit.next := by simp [vecLoop, show bits a.imm.toNat 25 16 = 0 from hbody]
      rw [ht]
      exact ⟨updVec_kept s core _ rfl, vecOf_updVec s core _⟩
    · have ht : vecLoop core a s = updVec s core fun u =>
          { u with loops := ⟨u.pc + 1, body, bits a.imm.toNat 15 0⟩ :: u.loops, pc := u.pc + 1 } := by
        simp [vecLoop, show bits a.imm.toNat 25 16 ≠ 0 from hbody,
          show ¬4 ≤ (vecOf s core).loops.length from Nat.not_le.2 hdepth, body]
      rw [ht]
      refine ⟨updVec_kept s core _ rfl, ?_, ?_⟩ <;> rw [vecOf_updVec]
    · have ht : vecLoop core a s = vecFail s core 0x0E01 := by
        simp [vecLoop, show bits a.imm.toNat 25 16 ≠ 0 from hbody, show 4 ≤ (vecOf s core).loops.length from hdepth]
      rw [ht]
      exact vecFail_failed s core _ h
  · exact fun core a s q Q c _ h => ⟨_, rfl, vecEnd_finished s core h⟩

end Sys2Proof.Machine

/-! PROOFS. The update unit: its instructions, and the elements that RED feeds. -/

namespace Sys2Proof.Machine

/-- Entries set one behind the other from `k` on: what a table holds afterwards. -/
theorem get?_foldl_set {α : Type} (g : Nat) (xs : List α) (k n : Nat) (m : FMap α) (e : Nat) :
    FMap.get? (((List.range' k n).zip xs).foldl (fun m p => FMap.set m (g + p.1) p.2) m) e
      = if g + k ≤ e ∧ e < g + k + min n xs.length then xs[e - (g + k)]? else FMap.get? m e := by
  induction xs generalizing k n m with
  | nil => simp
  | cons x xs ih =>
    cases n with
    | zero => simp
    | succ n =>
      rw [List.range'_succ, List.zip_cons_cons, List.foldl_cons, ih]
      by_cases he : e = g + k
      · subst he
        simp
      · rw [FMap.get?_set_other _ _ _ _ he]
        by_cases hin : g + (k + 1) ≤ e ∧ e < g + (k + 1) + min n xs.length
        · have hidx : e - (g + k) = e - (g + (k + 1)) + 1 := by omega
          rw [if_pos hin, if_pos (by simp only [List.length_cons]; omega), hidx, List.getElem?_cons_succ]
        · rw [if_neg hin, if_neg (by simp only [List.length_cons]; omega)]

theorem updOp1_wrote (f : W32 → W32) (core : Nat) (a : UArgs) (s : State) :
    UpdWrote s (updUnit s core (updOp1 f a)) core a.dst.toNat
      ∧ (coreAt (updUnit s core (updOp1 f a)) core).upd.reg a.dst.toNat = ((coreAt s core).upd.src a.sa.toNat).map f :=
  updUnit_put s core a.dst.toNat fun u => (u.src a.sa.toNat).map f

theorem updOp2_wrote (f : W32 → W32 → W32) (core : Nat) (a : UArgs) (s : State) :
    UpdWrote s (updUnit s core (updOp2 f a)) core a.dst.toNat
      ∧ (coreAt (updUnit s core (updOp2 f a)) core).upd.reg a.dst.toNat
        = ((coreAt s core).upd.src a.sa.toNat).zipWith f ((coreAt s core).upd.src a.sb.toNat) :=
  updUnit_put s core a.dst.toNat fun u => (u.src a.sa.toNat).zipWith f (u.src a.sb.toNat)

theorem updOp3_wrote (f : W32 → W32 → W32 → W32) (core : Nat) (a : UArgs) (s : State) :
    UpdWrote s (updUnit s core (updOp3 f a)) core a.dst.toNat
      ∧ (coreAt (updUnit s core (updOp3 f a)) core).upd.reg a.dst.toNat
        = (((coreAt s core).upd.src a.sa.toNat).zip (((coreAt s core).upd.src a.sb.toNat).zip
            ((coreAt s core).upd.src a.sc.toNat))).map fun p => f p.1 p.2.1 p.2.2 := by
  unfold updOp3
  exact updUnit_put s core a.dst.toNat _

/-- A change of the update unit changes nothing but its core. -/
theorem updUnit_onlyCore (s : State) (core : Nat) (f : UpdUnit → UpdUnit) : OnlyCore s (updUnit s core f) core :=
  ⟨rfl, fun _ h => coreAt_updCore_other _ _ _ _ h⟩

theorem coreAt_updUnit (s : State) (core : Nat) (f : UpdUnit → UpdUnit) :
    coreAt (updUnit s core f) core = { coreAt s core with upd := f (coreAt s core).upd } :=
  coreAt_updCore_self ..

/-- Settles O8: each instruction is one register put; RED sets the live lanes' elements one behind the other. -/
theorem updateUnitInstructions : Obligations.UpdateUnitInstructions := by
  refine ⟨?_, ?_⟩
  · intro core a s u x y z three
    simp only [List.forall_mem_cons, List.not_mem_nil, false_implies, implies_true, and_true]
    refine ⟨?_, ?_, ?_, ?_, ?_, ?_, ?_, ?_, ?_, ?_, ?_, ?_, ?_⟩
    · exact ⟨_, rfl, updOp2_wrote Fp.add core a s⟩
    · exact ⟨_, rfl, updOp2_wrote Fp.sub core a s⟩
    · exact ⟨_, rfl, updOp2_wrote Fp.mul core a s⟩
    · exact ⟨_, rfl, updOp3_wrote Fp.fma core a s⟩
    · exact ⟨_, rfl, updOp2_wrote Fp.div core a s⟩
    · exact ⟨_, rfl, updOp1_wrote Fp.sqrt core a s⟩
    · exact ⟨_, rfl, updOp1_wrote Fp.rsqrt core a s⟩
    · exact ⟨_, rfl, updOp2_wrote Fp.max core a s⟩
    · exact ⟨_, rfl, updOp2_wrote Fp.min core a s⟩
    · exact ⟨_, rfl, updOp1_wrote Fp.abs core a s⟩
    · exact ⟨_, rfl, updOp3_wrote updSel core a s⟩
    · exact ⟨_, rfl, updOp3_wrote updEst core a s⟩
    · have h := updOp1_wrote id core a s
      rw [List.map_id] at h
      exact ⟨_, rfl, h⟩
  · intro core a s u
    refine ⟨fun hrow => ⟨_, rfl, updUnit_onlyCore s core _, ?_⟩, fun hrow => ⟨_, rfl, updUnit_onlyCore s core _, ?_, fun e => ?_⟩⟩
    · rw [coreAt_updUnit]
      simp [updRed, show (coreAt s core).upd.rowRun = false from hrow]
    · rw [coreAt_updUnit]
      simp [updRed, show (coreAt s core).upd.rowRun = true from hrow, u]
    · rw [coreAt_updUnit]
      simp only [updRed, show (coreAt s core).upd.rowRun = true from hrow, List.range_eq_range']
      exact get?_foldl_set u.group (u.src a.sa.toNat) 0 u.live u.fed e

end Sys2Proof.Machine

/-! PROOFS. The vector unit's loads and stores. -/

namespace Sys2Proof.Machine

/-! ## The address of an access -/

theorem vecReach_ok {s : State} {Q : Queue} {c : Cmd} {addr n : Nat} (ha : addr % 64 = 0)
    (hin : addr / 2 ^ 23 < 8 ∧ rH c.bytes (24 + 4 * (addr / 2 ^ 23)) ≠ 0
      ∧ addr % 2 ^ 23 + n ≤ usedSize s Q c (rH c.bytes (24 + 4 * (addr / 2 ^ 23)))) :
    vecReach s Q c addr n = .ok (rH c.bytes (24 + 4 * (addr / 2 ^ 23)), addr % 2 ^ 23) := by
  unfold vecReach
  rw [if_neg (not_not.2 ha)]
  dsimp only
  rw [if_pos (by simpa [and_assoc] using hin)]

theorem vecReach_unaligned {s : State} {Q : Queue} {c : Cmd} {addr n : Nat} (ha : addr % 64 ≠ 0) :
    vecReach s Q c addr n = .error 0x0E11 := by
  unfold vecReach
  rw [if_pos ha]

theorem vecReach_outside {s : State} {Q : Queue} {c : Cmd} {addr n : Nat} (ha : addr % 64 = 0)
    (hout : ¬(addr / 2 ^ 23 < 8 ∧ rH c.bytes (24 + 4 * (addr / 2 ^ 23)) ≠ 0
      ∧ addr % 2 ^ 23 + n ≤ usedSize s Q c (rH c.bytes (24 + 4 * (addr / 2 ^ 23))))) :
    vecReach s Q c addr n = .error 0x0E12 := by
  unfold vecReach
  rw [if_neg (not_not.2 ha)]
  dsimp only
  rw [if_neg (by simpa [and_assoc] using hout)]

section
variable {s : State} {core q : Nat} {Q : Queue} {c : Cmd} (howner : vecOwner s core = some (q, Q, c))
include howner

theorem vecLoad_of_reach {n : Nat} {conv : VecUnit → List Byte → List W32} {a : VArgs} {h off : Nat}
    (hr : vecReach s Q c (vecAddr (vecOf s core) a) n = .ok (h, off)) :
    vecLoad n conv core a s = updVec s core fun u => (u.write a (conv u (readH Q c h off n)) none).next := by
  unfold vecLoad
  rw [howner]
  dsimp only
  rw [hr]

theorem vecLoad_of_error {n : Nat} {conv : VecUnit → List Byte → List W32} {a : VArgs} {st : Status}
    (hr : vecReach s Q c (vecAddr (vecOf s core) a) n = .error st) : vecLoad n conv core a s = vecFail s core st := by
  unfold vecLoad
  rw [howner]
  dsimp only
  rw [hr]

theorem vecStore_of_error {w : Nat} {code : List W32 → List (List Byte)} {obs : Nat → List W32 → List ObsDelta} {a : VArgs} {st : Status}
    (hr : vecReach s Q c (vecAddr (vecOf s core) a) (512 * w) = .error st) :
    vecStore w code obs core a s = vecFail s core st := by
  unfold vecStore
  rw [howner]
  dsimp only
  rw [hr]

theorem vecLoadMet_of_error {n : Nat} {a : VArgs} {st : Status}
    (hr : vecReach s Q c (vecAddr (vecOf s core) a) n = .error st) : vecLoadMet n core a s = none := by
  unfold vecLoadMet
  rw [howner]
  dsimp only
  rw [hr]

theorem vecStoreMet_of_error {w : Nat} {a : VArgs} {st : Status}
    (hr : vecReach s Q c (vecAddr (vecOf s core) a) (512 * w) = .error st) : vecStoreMet w core a s = none := by
  unfold vecStoreMet
  rw [howner]
  dsimp only
  rw [hr]

theorem vecUnlessPoisoned_some (w : Nat × Nat) (run : State) :
    vecUnlessPoisoned s core (some w) run = meetPoison s q c.uid w := by
  unfold vecUnlessPoisoned
  rw [howner]

end

theorem vecUnlessPoisoned_none (s : State) (core : Nat) (run : State) : vecUnlessPoisoned s core none run = run := rfl

/-- A load from an address that it reaches writes VD, where it meets no poisoned word. -/
theorem vecLoad_wrote {s : State} {core q : Nat} {Q : Queue} {c : Cmd} (howner : vecOwner s core = some (q, Q, c)) {n : Nat}
    {conv : VecUnit → List Byte → List W32} {a : VArgs} {h off : Nat}
    (hr : vecReach s Q c (vecAddr (vecOf s core) a) n = .ok (h, off)) :
    VecWrote s (vecLoad n conv core a s) core a.vd.toNat none
      ∧ (vecOf (vecLoad n conv core a s) core).reg a.vd.toNat
        = underMask (vecOf s core) a (conv (vecOf s core) (readH Q c h off n)) := by
  rw [vecLoad_of_reach howner hr]
  exact ⟨updVec_write s core a (fun u => conv u (readH Q c h off n)) fun _ => none,
    updVec_write_reg s core a (fun u => conv u (readH Q c h off n)) fun _ => none⟩

/-- An access whose address has no buffer behind it fails the command with the status of the address. -/
theorem vecAccess_failed {s : State} {core q : Nat} {Q : Queue} {c : Cmd} (howner : vecOwner s core = some (q, Q, c)) (a : VArgs)
    (st : Status) :
    ∀ i ∈ [(Instr.vld, 2048), (Instr.vld8, 512), (Instr.vst, 2048), (Instr.vst8, 512)],
      vecReach s Q c (vecAddr (vecOf s core) a) i.2 = .error st → Runs (i.1 core a) s fun t => Failed t q c.uid st := by
  simp only [List.forall_mem_cons, List.not_mem_nil, false_implies, implies_true, and_true]
  refine ⟨fun hr => ⟨_, rfl, ?_⟩, fun hr => ⟨_, rfl, ?_⟩, fun hr => ⟨_, rfl, ?_⟩, fun hr => ⟨_, rfl, ?_⟩⟩
  · rw [vecLoadMet_of_error howner hr, vecUnlessPoisoned_none, vecLoad_of_error howner hr]
    exact vecFail_failed s core st howner
  · rw [vecLoadMet_of_error howner hr, vecUnlessPoisoned_none, vecLoad_of_error howner hr]
    exact vecFail_failed s core st howner
  · unfold vecSt
    rw [vecStoreMet_of_error (w := 4) howner hr, vecUnlessPoisoned_none, vecStore_of_error (w := 4) howner hr]
    exact vecFail_failed s core st howner
  · unfold vecSt8
    rw [vecStoreMet_of_error (w := 1) howner hr, vecUnlessPoisoned_none, vecStore_of_error (w := 1) howner hr]
    exact vecFail_failed s core st howner

/-- Settles O5. -/
theorem vectorLoads : Obligations.VectorLoads := by
  intro core a s q Q c _ howner u addr h off inside
  refine ⟨fun ha hin hmet => ⟨_, rfl, ?_⟩, fun ha hin hmet => ⟨_, rfl, ?_⟩, ?_, ?_, ?_⟩
  · rw [hmet, vecUnlessPoisoned_none]
    exact vecLoad_wrote howner (vecReach_ok ha hin)
  · rw [hmet, vecUnlessPoisoned_none]
    exact vecLoad_wrote howner (vecReach_ok ha hin)
  · have hfail := vecAccess_failed howner a 0x0E11
    simp only [List.forall_mem_cons, List.not_mem_nil, false_implies, implies_true, and_true] at hfail ⊢
    obtain ⟨hld, hld8, hst, hst8⟩ := hfail
    exact ⟨fun ha => hld (vecReach_unaligned ha), fun ha => hld8 (vecReach_unaligned ha), fun ha => hst (vecReach_unaligned ha),
      fun ha => hst8 (vecReach_unaligned ha)⟩
  · intro i hi ha hout
    have hr : vecReach s Q c addr i.2 = .error 0x0E12 := vecReach_outside ha hout
    exact vecAccess_failed howner a 0x0E12 i hi hr
  · simp only [List.forall_mem_cons, List.not_mem_nil, false_implies, implies_true, and_true]
    refine ⟨fun w hw => ⟨_, rfl, ?_⟩, fun w hw => ⟨_, rfl, ?_⟩, fun w hw => ⟨_, rfl, ?_⟩, fun w hw => ⟨_, rfl, ?_⟩⟩ <;>
      rw [hw, vecUnlessPoisoned_some howner]

/-! ## Stores -/

/-- The unit's command with a store staged: its write, its reports and its observations. -/
def Cmd.withStore (u : VecUnit) (a : VArgs) (w : StageWrite) (obs : Nat → List W32 → List ObsDelta) (c : Cmd) : Cmd :=
  let live := liveLanes (u.maskOf a.mask.toNat) (u.reg a.va.toNat)
  { c with staged := c.staged ++ [w], nf := c.nf + reportsFp live, obs := c.obs ++ obs (rRing c.bytes 56) live }

/-- The write that a store of lanes of `w` bytes stages: the codes where the mask is 1, the old bytes elsewhere. -/
def storeWrite (u : VecUnit) (a : VArgs) (Q : Queue) (c : Cmd) (h off w : Nat) (code : List W32 → List (List Byte)) : StageWrite :=
  writeH Q h off (((maskLanes (u.maskOf a.mask.toNat)).zip ((code (u.reg a.va.toNat)).zip
    (chunks w (readH Q c h off (512 * w))))).flatMap fun p => if p.1 then p.2.1 else p.2.2)

/-- A store to an address that it reaches stages one write, its reports and its observations. -/
theorem vecStore_of_reach {s : State} {core q : Nat} {Q : Queue} {c : Cmd} (howner : vecOwner s core = some (q, Q, c)) {w : Nat}
    {code : List W32 → List (List Byte)} {obs : Nat → List W32 → List ObsDelta} {a : VArgs} {h off : Nat}
    (hr : vecReach s Q c (vecAddr (vecOf s core) a) (512 * w) = .ok (h, off)) :
    vecStore w code obs core a s =
      updVec (updCmd s q c.uid (Cmd.withStore (vecOf s core) a (storeWrite (vecOf s core) a Q c h off w code) obs)) core
        VecUnit.next := by
  unfold vecStore
  rw [howner]
  dsimp only
  rw [hr]
  rfl

/-- A change of one command and of the vector unit's position: what it leaves alone. -/
theorem updVec_updCmd_kept (s : State) (q uid core : Nat) (f : Cmd → Cmd) :
    let t := updVec (updCmd s q uid f) core VecUnit.next
    t = { s with cores := t.cores, queues := t.queues } ∧ (∀ p, p ≠ q → queueAt t p = queueAt s p)
      ∧ (vecOf t core).regs = (vecOf s core).regs ∧ (vecOf t core).masks = (vecOf s core).masks := by
  refine ⟨rfl, fun p hp => ?_, ?_, ?_⟩
  · change queueAt (updCmd s q uid f) p = _
    rw [updCmd, queueAt_updQueue, if_neg hp]
  · rw [vecOf_updVec]
    rfl
  · rw [vecOf_updVec]
    rfl

/-- The changed command, and the queue's others, after the change of one command and of the vector unit's position. -/
theorem updVec_updCmd_cmd {s : State} {q core : Nat} {Q : Queue} {c : Cmd} {f : Cmd → Cmd} (hf : ∀ c, (f c).uid = c.uid)
    (hq : queueAt s q = some Q) (hc : cmdAt Q c.uid = some c) :
    ∃ Q', queueAt (updVec (updCmd s q c.uid f) core VecUnit.next) q = some Q' ∧ cmdAt Q' c.uid = some (f c)
      ∧ ∀ n, n ≠ c.uid → cmdAt Q' n = cmdAt Q n :=
  ⟨_, updCmd_queue s q c.uid f Q hq, cmdAt_map_self Q.cmds c.uid f c hf hc, fun n hn => cmdAt_map_other Q.cmds c.uid n f hf hn⟩

/-- Settles O6: the store is a change of its command, and of the unit's position. -/
theorem vectorStores : Obligations.VectorStores := by
  intro core a s q Q c howner u v m live sent code stored staged kept
  obtain ⟨_, hq, hc⟩ := vecOwner_some howner
  refine ⟨fun h off hr hmet => ⟨_, rfl, ?_⟩, fun h off hr hmet => ⟨_, rfl, ?_⟩⟩
  · rw [hmet, vecUnlessPoisoned_none, vecSt, vecStore_of_reach (w := 4) howner hr]
    refine ⟨updVec_updCmd_kept s q c.uid core _, ?_⟩
    obtain ⟨Q', hQ', hc', hothers⟩ := updVec_updCmd_cmd (core := core)
      (f := Cmd.withStore u a (storeWrite u a Q c h off 4 fun v => v.map fun x => toLe 4 x.toNat) fun _ _ => []) (fun _ => rfl) hq hc
    exact ⟨Q', _, hQ', hc', rfl, rfl, rfl, rfl, hothers⟩
  · rw [hmet, vecUnlessPoisoned_none, vecSt8, vecStore_of_reach (w := 1) howner hr]
    refine ⟨updVec_updCmd_kept s q c.uid core _, ?_⟩
    obtain ⟨Q', hQ', hc', hothers⟩ := updVec_updCmd_cmd (core := core)
      (f := Cmd.withStore u a (storeWrite u a Q c h off 1 fun v => v.map code)
        fun ring live => observeAll ring (live.map fun x => (x, sent x))) (fun _ => rfl) hq hc
    exact ⟨Q', _, hQ', hc', rfl, rfl, rfl, rfl, hothers⟩

end Sys2Proof.Machine

/-! PROOFS. The vector unit's reductions, tags and random numbers. -/

namespace Sys2Proof.Machine

/-! ## Counting the lanes of a mask -/

theorem bit_eq_testBit (v i : Nat) : bit v i = v.testBit i := by
  simp [bit, Nat.testBit_eq_decide_div_mod_eq]

theorem popcount_le (n v : Nat) : popcount n v ≤ n := by
  simpa [popcount] using List.length_filter_le (fun i => bit v i) (List.range n)

/-- A mask of the first `k` lanes has `k` lanes. -/
theorem popcount_prefix {n k : Nat} (h : k ≤ n) : popcount n (2 ^ k - 1) = k := by
  obtain ⟨j, rfl⟩ := Nat.exists_eq_add_of_le h
  have hlow : (List.range k).filter (fun i => bit (2 ^ k - 1) i) = List.range k := by
    refine List.filter_eq_self.2 fun i hi => ?_
    rw [bit_eq_testBit, Nat.testBit_two_pow_sub_one]
    simpa using hi
  have hhigh : ((List.range j).map (k + ·)).filter (fun i => bit (2 ^ k - 1) i) = [] := by
    refine List.filter_eq_nil_iff.2 fun i hi => ?_
    obtain ⟨l, _, rfl⟩ := List.mem_map.1 hi
    rw [bit_eq_testBit, Nat.testBit_two_pow_sub_one]
    simp
  rw [popcount, List.range_add, List.filter_append, hlow, hhigh]
  simp

/-- A mask in which every lane is counted has every lane. -/
theorem eq_of_popcount_full {n : Nat} (m : BitVec n) (h : popcount n m.toNat = n) : m = BitVec.ofNat n (2 ^ n - 1) := by
  have hall : ∀ i ∈ List.range n, bit m.toNat i = true := by
    refine List.length_filter_eq_length_iff.1 ?_
    simpa [popcount] using h
  refine BitVec.eq_of_getLsbD_eq fun i hi => ?_
  have hi' := hall i (List.mem_range.2 hi)
  rw [bit_eq_testBit] at hi'
  rw [BitVec.getLsbD_ofNat, Nat.testBit_two_pow_sub_one, BitVec.getLsbD, hi']
  simp [hi]

theorem toNat_prefix {w n : Nat} (h : n ≤ w) : (BitVec.ofNat w (2 ^ n - 1)).toNat = 2 ^ n - 1 := by
  rw [BitVec.toNat_ofNat]
  exact Nat.mod_eq_of_lt (lt_of_lt_of_le (Nat.sub_lt (Nat.two_pow_pos n) Nat.one_pos) (Nat.pow_le_pow_right (by decide) h))

/-! ## Reductions -/

/-- A mask of a chunk's first `n` lanes, where these are the whole chunk or what the last chunk has. -/
theorem vecRed_wrote {s : State} {core : Nat} {a : VArgs} {j : Nat} {d : RedDecl} {t0 : W64} {n : Nat}
    (hdecl : vecDecl s core (lRed t0) = some (j, d)) (ht : (vecOf s core).scalar a.ss.toNat = t0) (hfn : a.fn.toNat ≤ 3)
    (hh : lHeight t0 = 0) (he : lNode t0 < 2 ^ 33) (hchunk : lNode t0 % 512 = 0) (hn : n ≤ 512)
    (hm : (vecOf s core).maskOf a.mask.toNat = BitVec.ofNat 512 (2 ^ n - 1))
    (hlast : n = 512 ∨ (lNode t0 / 512 + 1 = d.chunks ∧ lNode t0 + n = d.length)) :
    VecWrote s (vecRed core a s) core a.vd.toNat (some (lTag (lRed t0) 9 (lNode t0 / 512)))
      ∧ (vecOf (vecRed core a s) core).reg a.vd.toNat
        = List.replicate 512 (treeReduce (treeOpOf a.fn.toNat) (((vecOf s core).reg a.va.toNat).take n)) := by
  have hcount : popcount 512 ((vecOf s core).maskOf a.mask.toNat).toNat = n := by
    rw [hm, toNat_prefix hn, popcount_prefix hn]
  have hmask : ((vecOf s core).maskOf a.mask.toNat).toNat = 2 ^ n - 1 := by rw [hm, toNat_prefix hn]
  unfold vecRed
  dsimp only
  rw [ht, hcount, hmask, hdecl, if_neg (Nat.not_lt.2 hfn), if_neg (not_not.2 hh), if_neg (Nat.not_le.2 he)]
  dsimp only
  rw [if_neg (by simpa [hchunk] using hlast.resolve_left)]
  exact ⟨updVec_write s core { a with mask := 0 } _ _, updVec_write_reg s core { a with mask := 0 } _ _⟩

theorem vecComb_wrote {s : State} {core : Nat} {a : VArgs} {p : Nat × RedDecl} {t0 t1 : W64}
    (hdecl : vecDecl s core (lRed t0) = some p) (ht0 : (vecOf s core).tagOf a.va.toNat = some t0)
    (ht1 : (vecOf s core).tagOf a.vb.toNat = some t1) (hfn : a.fn.toNat ≤ 3) (hred : lRed t1 = lRed t0)
    (hheight : lHeight t1 = lHeight t0) (heven : lNode t0 % 2 = 0) (hnext : lNode t1 = lNode t0 + 1) :
    VecWrote s (vecComb core a s) core a.vd.toNat (some (lTag (lRed t0) (lHeight t0 + 1) (lNode t0 / 2)))
      ∧ (vecOf (vecComb core a s) core).reg a.vd.toNat = underMask (vecOf s core) a
        (((vecOf s core).reg a.va.toNat).zipWith (treeOpOf a.fn.toNat).apply ((vecOf s core).reg a.vb.toNat)) := by
  unfold vecComb
  dsimp only
  rw [if_neg (Nat.not_lt.2 hfn), ht0, ht1]
  dsimp only
  rw [if_neg (by simp [hred, hheight, heven, hnext]), if_neg (by simp [hdecl])]
  exact ⟨updVec_write s core a _ _, updVec_write_reg s core a _ _⟩

theorem RedDecl.map_pass32 (d : RedDecl) (l : List W32) :
    l.map d.pass32 = if d.integer then l else l.map (treeOpOf d.op).pass := by
  unfold RedDecl.pass32
  cases d.integer <;> simp

theorem vecPass_wrote {s : State} {core : Nat} {a : VArgs} {j : Nat} {d : RedDecl} {t0 : W64}
    (hdecl : vecDecl s core (lRed t0) = some (j, d)) (ht0 : (vecOf s core).tagOf a.va.toNat = some t0)
    (heven : lNode t0 % 2 = 0) (hlast : d.length ≤ (lNode t0 + 1) * 2 ^ lHeight t0) (hheight : lHeight t0 < 33) :
    VecWrote s (vecPass core a s) core a.vd.toNat (some (lTag (lRed t0) (lHeight t0 + 1) (lNode t0 / 2)))
      ∧ (vecOf (vecPass core a s) core).reg a.vd.toNat = underMask (vecOf s core) a
        (if d.integer then (vecOf s core).reg a.va.toNat else ((vecOf s core).reg a.va.toNat).map (treeOpOf d.op).pass) := by
  unfold vecPass
  dsimp only
  rw [ht0]
  dsimp only
  rw [hdecl]
  dsimp only
  rw [if_neg (by simp [heven, hlast]), if_neg (Nat.not_le.2 hheight), ← RedDecl.map_pass32]
  exact ⟨updVec_write s core a _ _, updVec_write_reg s core a _ _⟩

theorem lValid_iff (t : W64) : lValid t = true ↔ lHeight t ≤ 33 ∧ lNode t < 2 ^ (33 - lHeight t) := by
  simp [lValid]

/-- VTAG attaches the tag and leaves the register. -/
theorem vecTag_wrote {s : State} {core : Nat} {a : VArgs} {p : Nat × RedDecl} {t0 : W64}
    (hdecl : vecDecl s core (lRed t0) = some p) (ht : (vecOf s core).scalar a.ss.toNat = t0) (hvalid : lValid t0 = true) :
    VecWrote s (vecTag core a s) core a.vd.toNat (some t0)
      ∧ (vecOf (vecTag core a s) core).reg a.vd.toNat = (vecOf s core).reg a.vd.toNat := by
  unfold vecTag
  dsimp only
  rw [ht, if_neg (by simp [hvalid]), if_neg (by simp [hdecl])]
  refine ⟨⟨updVec_only s core _ rfl, ?_, ?_, ?_, fun n hn => ?_⟩, ?_⟩ <;> rw [vecOf_updVec]
  · rfl
  · rfl
  · exact FMap.get?_set_self ..
  · exact ⟨rfl, FMap.get?_set_other _ _ _ _ hn⟩
  · rfl

/-! ## Random numbers -/

/-- The lane of a list that is made of groups of four. -/
theorem getElem?_flatMap_four {α : Type} (f : Nat → List α) (hf : ∀ g, (f g).length = 4) (k n L : Nat) (hL : L < 4 * n) :
    ((List.range' k n).flatMap f)[L]? = (f (k + L / 4))[L % 4]? := by
  induction n generalizing k L with
  | zero => omega
  | succ n ih =>
    rw [List.range'_succ, List.flatMap_cons]
    by_cases hlt : L < 4
    · rw [List.getElem?_append_left (by simpa [hf] using hlt), Nat.div_eq_of_lt hlt, Nat.mod_eq_of_lt hlt, Nat.add_zero]
    · rw [List.getElem?_append_right (by simpa [hf] using hlt), hf, ih (k + 1) (L - 4) (by omega)]
      have hgroup : k + 1 + (L - 4) / 4 = k + L / 4 := by omega
      have hword : (L - 4) % 4 = L % 4 := by omega
      rw [hgroup, hword]

theorem philox_length (seed : W64) (block layer tensor batch : Nat) : (philox seed block layer tensor batch).length = 4 := rfl

theorem vecRng_wrote {s : State} {core : Nat} {a : VArgs} {q j : Nat} {Q : Queue} {c : Cmd} {J : Job}
    (howner : vecOwner s core = some (q, Q, c)) (hj : Q.job = some j) (hJ : jobAt s j = some J) (hss : a.ss.toNat < 15)
    (halign : ((vecOf s core).scalar a.ss.toNat).toNat % 4 = 0) (hmax : ((vecOf s core).scalar a.ss.toNat).toNat ≤ 2 ^ 48 - 512) :
    let e := ((vecOf s core).scalar a.ss.toNat).toNat
    let key := ((vecOf s core).scalar (a.ss.toNat + 1)).toNat
    VecWrote s (vecRng core a s) core a.vd.toNat none
      ∧ ∃ new : List W32, new.length = 512 ∧ (vecOf (vecRng core a s) core).reg a.vd.toNat = underMask (vecOf s core) a new
        ∧ ∀ L, L < 512 → new.getD L 0
          = (philox J.seed ((e + L) / 4) (bits key 63 48) (bits key 31 0) J.batch).getD ((e + L) % 4) 0 := by
  intro e key
  have hrng : vecRng core a s = updVec s core fun u => (u.write a ((List.range 128).flatMap fun g =>
      philox J.seed (e / 4 + g) (bits key 63 48) (bits key 31 0) J.batch) none).next := by
    unfold vecRng
    dsimp only
    rw [if_neg (Nat.ne_of_lt hss), if_neg (by simpa [halign] using hmax), howner]
    simp only [Option.bind_some, hj, hJ]
    rfl
  rw [hrng]
  refine ⟨updVec_write s core a _ _, _, ?_, updVec_write_reg s core a _ _, fun L hL => ?_⟩
  · simp [List.length_flatMap, philox_length]
  · rw [List.getD_eq_getElem?_getD, List.getD_eq_getElem?_getD, List.range_eq_range',
      getElem?_flatMap_four _ (fun _ => philox_length ..) 0 128 L (by omega)]
    have hblock : e / 4 + (0 + L / 4) = (e + L) / 4 := by omega
    have hword : L % 4 = (e + L) % 4 := by omega
    rw [hblock, hword]

/-! ## What the reductions refuse -/

/-- A mask that is not the beginning of a chunk which VRED may reduce. -/
theorem vecRed_prefix_refused {m : BitVec 512} {d : RedDecl} {e : Nat}
    (h : ∀ n, n ≤ 512 → m = BitVec.ofNat 512 (2 ^ n - 1) → n ≠ 512 ∧ ¬(e / 512 + 1 = d.chunks ∧ e + n = d.length)) :
    (popcount 512 m.toNat = 512
      || (e / 512 + 1 = d.chunks && m.toNat = 2 ^ popcount 512 m.toNat - 1 && e + popcount 512 m.toNat = d.length)) = false := by
  rw [Bool.eq_false_iff]
  intro hok
  simp only [Bool.or_eq_true, Bool.and_eq_true, decide_eq_true_eq] at hok
  rcases hok with hfull | ⟨⟨hchunk, hmask⟩, hlen⟩
  · exact (h 512 le_rfl (eq_of_popcount_full m hfull)).1 rfl
  · have hm : m = BitVec.ofNat 512 (2 ^ popcount 512 m.toNat - 1) := by
      rw [← hmask]
      simp
    exact (h _ (popcount_le 512 m.toNat) hm).2 ⟨hchunk, hlen⟩

theorem vecRed_of_undeclared {s : State} {core : Nat} {a : VArgs} (hfn : a.fn.toNat ≤ 3)
    (hh : lHeight ((vecOf s core).scalar a.ss.toNat) = 0) (he : lNode ((vecOf s core).scalar a.ss.toNat) < 2 ^ 33)
    (hdecl : vecDecl s core (lRed ((vecOf s core).scalar a.ss.toNat)) = none) : vecRed core a s = vecFail s core 0x0E23 := by
  unfold vecRed
  dsimp only
  rw [if_neg (Nat.not_lt.2 hfn), if_neg (not_not.2 hh), if_neg (Nat.not_le.2 he), hdecl]

/-- VRED refuses a tag within a chunk and a mask that is neither a chunk nor what the last chunk has. -/
theorem vecRed_of_unfit {s : State} {core : Nat} {a : VArgs} {p : Nat × RedDecl} (hfn : a.fn.toNat ≤ 3)
    (hh : lHeight ((vecOf s core).scalar a.ss.toNat) = 0) (he : lNode ((vecOf s core).scalar a.ss.toNat) < 2 ^ 33)
    (hdecl : vecDecl s core (lRed ((vecOf s core).scalar a.ss.toNat)) = some p)
    (hunfit : lNode ((vecOf s core).scalar a.ss.toNat) % 512 ≠ 0
      ∨ ∀ n, n ≤ 512 → (vecOf s core).maskOf a.mask.toNat = BitVec.ofNat 512 (2 ^ n - 1) → n ≠ 512
        ∧ ¬(lNode ((vecOf s core).scalar a.ss.toNat) / 512 + 1 = p.2.chunks
          ∧ lNode ((vecOf s core).scalar a.ss.toNat) + n = p.2.length)) : vecRed core a s = vecFail s core 0x0E24 := by
  unfold vecRed
  dsimp only
  rw [if_neg (Nat.not_lt.2 hfn), if_neg (not_not.2 hh), if_neg (Nat.not_le.2 he), hdecl]
  refine if_pos ?_
  rcases hunfit with h | h
  · rw [decide_eq_true h, Bool.true_or]
  · rw [vecRed_prefix_refused h, Bool.not_false, Bool.or_true]

theorem vecComb_of_untagged {s : State} {core : Nat} {a : VArgs} (hfn : a.fn.toNat ≤ 3)
    (h : (vecOf s core).tagOf a.va.toNat = none ∨ (vecOf s core).tagOf a.vb.toNat = none) :
    vecComb core a s = vecFail s core 0x0E24 := by
  unfold vecComb
  dsimp only
  rw [if_neg (Nat.not_lt.2 hfn)]
  rcases h with h | h <;> rw [h]
  cases (vecOf s core).tagOf a.va.toNat <;> rfl

theorem vecTag_of_invalid {s : State} {core : Nat} {a : VArgs} (h : lValid ((vecOf s core).scalar a.ss.toNat) = false) :
    vecTag core a s = vecFail s core 0x0E28 := by
  simp [vecTag, h]

theorem vecTag_of_undeclared {s : State} {core : Nat} {a : VArgs} (h : lValid ((vecOf s core).scalar a.ss.toNat) = true)
    (hdecl : vecDecl s core (lRed ((vecOf s core).scalar a.ss.toNat)) = none) : vecTag core a s = vecFail s core 0x0E23 := by
  simp [vecTag, h, hdecl]

/-- Settles O7. -/
theorem vectorTagsAndRandom : Obligations.VectorTagsAndRandom := by
  refine ⟨?_, ?_, ?_⟩
  · intro core a s j d t0 u va vb m up hdecl
    refine ⟨fun n ht hfn hh he hchunk hn hm hlast => ⟨_, rfl, vecRed_wrote hdecl ht hfn hh he hchunk hn hm hlast⟩,
      fun t1 ht0 ht1 hfn hred hheight heven hnext => ⟨_, rfl, vecComb_wrote hdecl ht0 ht1 hfn hred hheight heven hnext⟩,
      fun ht0 heven hlast hheight => ⟨_, rfl, vecPass_wrote hdecl ht0 heven hlast hheight⟩,
      fun ht hheight hnode => ⟨_, rfl, vecTag_wrote hdecl ht ((lValid_iff t0).2 ⟨hheight, hnode⟩)⟩⟩
  · intro core a s q Q c _ howner u t0 fails
    have failed (st : Status) {i : Instr} {f : State} (hi : exec i s = .next f) (h : f = vecFail s core st) : fails i st :=
      ⟨f, hi, h ▸ vecFail_failed s core st howner⟩
    refine ⟨fun hfn => ⟨failed _ rfl ?_, failed _ rfl ?_⟩, fun hfn hh => failed _ rfl ?_, fun hfn hh he => failed _ rfl ?_,
      fun hfn hh he hdecl => failed _ rfl ?_, fun p hfn hh he hdecl hchunk => failed _ rfl ?_,
      fun p hfn hh he hdecl hchunk hmask => failed _ rfl ?_, fun hfn htag => failed _ rfl ?_,
      fun t1 t2 ht1 ht2 hfn hbad => failed _ rfl ?_, fun htag => failed _ rfl ?_, fun t1 ht1 hdecl => failed _ rfl ?_,
      fun t1 p ht1 hdecl hbad => failed _ rfl ?_, fun hbad => failed _ rfl ?_, fun hheight hnode hdecl => failed _ rfl ?_⟩
    · unfold vecRed
      exact if_pos hfn
    · unfold vecComb
      exact if_pos hfn
    · unfold vecRed
      exact (if_neg (Nat.not_lt.2 hfn)).trans (if_pos hh)
    · unfold vecRed
      exact (if_neg (Nat.not_lt.2 hfn)).trans ((if_neg (not_not.2 hh)).trans (if_pos he))
    · exact vecRed_of_undeclared hfn hh he hdecl
    · exact vecRed_of_unfit hfn hh he hdecl (.inl hchunk)
    · exact vecRed_of_unfit hfn hh he hdecl (.inr hmask)
    · exact vecComb_of_untagged hfn htag
    · unfold vecComb
      rw [if_neg (Nat.not_lt.2 hfn), ht1, ht2]
      refine if_pos ?_
      simp only [Bool.not_eq_true', Bool.and_eq_false_iff, decide_eq_false_iff_not]
      omega
    · unfold vecPass
      dsimp only
      rw [htag]
    · unfold vecPass
      dsimp only
      rw [ht1]
      dsimp only
      rw [hdecl]
    · unfold vecPass
      dsimp only
      rw [ht1]
      dsimp only
      rw [hdecl]
      exact if_pos (by simpa using hbad)
    · exact vecTag_of_invalid (Bool.eq_false_iff.2 (mt (lValid_iff t0).1 (by omega)))
    · exact vecTag_of_undeclared ((lValid_iff t0).2 ⟨hheight, hnode⟩) hdecl
  · intro core a s q Q c j J _ howner hj hJ u e key
    refine ⟨fun hss halign hmax => ⟨_, rfl, vecRng_wrote howner hj hJ hss halign hmax⟩, fun hss hbad => ⟨_, rfl, ?_⟩,
      fun hss => ⟨_, rfl, ?_⟩⟩
    · have hfail : vecRng core a s = vecFail s core 0x0E26 := by
        unfold vecRng
        dsimp only
        rw [if_neg (Nat.ne_of_lt hss), if_pos (by simpa using hbad)]
      exact hfail ▸ vecFail_failed s core _ howner
    · have hfail : vecRng core a s = vecFail s core 0x0E01 := by
        unfold vecRng
        dsimp only
        rw [if_pos hss]
      exact hfail ▸ vecFail_failed s core _ howner

end Sys2Proof.Machine

/-! PROOFS. What a frame says of the entries of a table, and how the job of a failed command fares. -/

namespace Sys2Proof.Machine

/-! ## Entries of the tables outside a frame -/

section
variable {F : List StateField} {s t : State} (h : Only F s t)
include h

theorem Only.queueAt (hF : .queues ∉ F) (q : Nat) : queueAt t q = Machine.queueAt s q := queueAt_of_queues s t q (h.same .queues hF)

theorem Only.jobAt (hF : .jobs ∉ F) (j : Nat) : jobAt t j = Machine.jobAt s j := by
  unfold Machine.jobAt
  rw [h.same .jobs hF]

theorem Only.coreAt (hF : .cores ∉ F) (c : Nat) : coreAt t c = Machine.coreAt s c := by
  unfold Machine.coreAt
  rw [h.same .cores hF]

theorem Only.clusterAt (hF : .clusters ∉ F) (c : Nat) : clusterAt t c = Machine.clusterAt s c := by
  unfold Machine.clusterAt
  rw [h.same .clusters hF]

theorem Only.syncAt (hF : .sync ∉ F) (k : Nat) : syncAt t k = Machine.syncAt s k := by
  unfold Machine.syncAt
  rw [h.same .sync hF]

theorem Only.partAt (hF : .parts ∉ F) (p : Nat) : partAt t p = Machine.partAt s p := by
  unfold Machine.partAt
  rw [h.same .parts hF]

theorem Only.mboxAt (hF : .mbx ∉ F) (fn : Nat) : mboxAt t fn = Machine.mboxAt s fn := by
  unfold Machine.mboxAt
  rw [h.same .mbx hF]

theorem Only.portAt (hF : .win ∉ F) (w : Nat) : portAt t w = Machine.portAt s w := by
  unfold Machine.portAt
  rw [h.same .win hF]

theorem Only.alarmAt (hF : .tel ∉ F) (slot : Nat) : alarmAt t slot = Machine.alarmAt s slot := by
  unfold Machine.alarmAt
  rw [h.same .tel hF]

theorem Only.engineAt (hF : .sec ∉ F) (hub : Hub) : engineAt t hub = Machine.engineAt s hub := by
  unfold Machine.engineAt
  rw [h.same .sec hF]

theorem Only.dget (hF : .dict ∉ F) (k : Nat) : dget t k = Machine.dget s k := by
  unfold Machine.dget
  rw [h.same .dict hF]

theorem Only.dnum (hF : .dict ∉ F) (i j : Nat) : dnum t i j = Machine.dnum s i j := by
  unfold Machine.dnum
  rw [h.dget hF]

theorem Only.vecOf (hF : .cores ∉ F) (c : Nat) : vecOf t c = Machine.vecOf s c := by
  unfold Machine.vecOf
  rw [h.coreAt hF]

end

/-! ## Commands of a queue -/

theorem runningCmd_some {Q : Queue} {p : Cmd → Bool} {c : Cmd} (h : runningCmd Q p = some c) :
    c ∈ Q.cmds ∧ c.state = .started ∧ p c = true ∧ hazard Q c = false := by
  unfold runningCmd at h
  obtain ⟨hfind, hhaz⟩ := Option.filter_eq_some_iff.1 h
  have hp := List.find?_some hfind
  simp only [Bool.and_eq_true, decide_eq_true_eq] at hp
  exact ⟨List.mem_of_find?_eq_some hfind, hp.1, hp.2, by simpa using hhaz⟩

/-- The number of a queue's command names a command. -/
theorem cmdAt_of_mem {Q : Queue} {c : Cmd} (h : c ∈ Q.cmds) : ∃ d, cmdAt Q c.uid = some d := by
  unfold cmdAt
  exact Option.isSome_iff_exists.1 (List.find?_isSome.2 ⟨c, h, by simp⟩)

/-! ## The job of a queue that stops -/

/-- Only the grant of a job and what it saves differ. -/
def GrantOnly (J J' : Job) : Prop := J' = { J with grant := J'.grant, saved := J'.saved }

theorem GrantOnly.trans {J J' J'' : Job} (h : GrantOnly J J') (h' : GrantOnly J' J'') : GrantOnly J J'' := by
  unfold GrantOnly at *
  rw [h] at h'
  exact h'

/-- Job `j` is there as before, but for its grant and what it saves. -/
def JobKept (s t : State) (j : Nat) : Prop := ∃ f : Job → Job, jobAt t j = (jobAt s j).map f ∧ ∀ J, GrantOnly J (f J)

theorem JobKept.of_eq {s t : State} {j : Nat} (h : jobAt t j = jobAt s j) : JobKept s t j := ⟨id, by simp [h], fun _ => rfl⟩

theorem JobKept.of_only {F : List StateField} {s t : State} (h : Only F s t) (hF : .jobs ∉ F) (j : Nat) : JobKept s t j :=
  .of_eq (h.jobAt hF j)

theorem JobKept.trans {s t u : State} {j : Nat} (h : JobKept s t j) (h' : JobKept t u j) : JobKept s u j := by
  obtain ⟨f, hf, hk⟩ := h
  obtain ⟨g, hg, hk'⟩ := h'
  exact ⟨g ∘ f, by rw [hg, hf, Option.map_map], fun J => (hk J).trans (hk' (f J))⟩

/-- The job of a table in which it stands, read after a change of its grant alone. -/
theorem JobKept.some {s t : State} {j : Nat} {J : Job} (h : JobKept s t j) (hJ : jobAt s j = some J) :
    ∃ J', jobAt t j = some J' ∧ GrantOnly J J' := by
  obtain ⟨f, hf, hk⟩ := h
  exact ⟨f J, by rw [hf, hJ, Option.map_some], hk J⟩

/-- A queue that holds changes of its job at most the grant and what it saves. -/
theorem holdQueue_jobKept (s : State) (q j : Nat) : JobKept s (holdQueue s q) j := by
  unfold holdQueue
  split
  · exact .of_eq rfl
  · next i J _ =>
    split
    · exact .of_eq rfl
    · extract_lets t
      have ht : JobKept s t j := .of_only (updQueue_only s q _) (by decide) j
      split
      · refine ht.trans ?_
        unfold beginSave
        extract_lets saved
        refine ⟨fun J => if j = i then { J with grant := .saving, saved } else J, ?_, fun J => ?_⟩
        · rw [jobAt_updJob]
          split <;> simp
        · unfold GrantOnly
          split <;> rfl
      · exact ht

/-- A failure changes of a job at most the grant and what it saves. -/
theorem failCmd_jobKept (s : State) (q uid : Nat) (st : Status) (stops : Bool) (j : Nat) : JobKept s (failCmd s q uid st stops) j := by
  unfold failCmd
  split
  · exact .of_eq rfl
  · next c _ =>
    extract_lets s1 s2 s3 s4 s5
    have h1 : JobKept s s1 j :=
      .of_only ((leaveEngines_only ..).trans <| (discardArray_only ..).trans <| (withdraw_only ..).trans <| endStall_only ..)
        (by decide) j
    have h2 : JobKept s s2 j := by
      simp only [s2]
      split
      · exact h1.trans (.of_only (countIssued_only ..) (by decide) j)
      · exact h1
    have h4 : JobKept s s4 j := h2.trans (.of_only ((updCmd_only ..).trans <| putCompletion_only ..) (by decide) j)
    have h5 : JobKept s s5 j := by
      simp only [s5]
      split
      · exact h4.trans (.of_only (offence_only ..) (by decide) j)
      · exact h4
    refine JobKept.trans (t := if stops then stopQueue s5 q st else s5) ?_ (.of_only (releaseHeld_only _) (by decide) j)
    split
    · exact h5.trans <| (JobKept.of_only (updQueue_only ..) (by decide) j).trans (holdQueue_jobKept _ q j)
    · exact h5

theorem fail_jobKept (s : State) (q uid : Nat) (st : Status) (j : Nat) : JobKept s (fail s q uid st) j :=
  failCmd_jobKept s q uid st true j

end Sys2Proof.Machine

/-! PROOFS. Tagged reductions: partials, roots, and how a vector program sends and receives them. -/

namespace Sys2Proof.Machine

/-! ## A partial at an engine -/

/-- The tag of a node: RED_ID, LEVEL and NODE, reserved bits 0. -/
theorem tag_fields {red level node : Nat} (hr : red < 2 ^ 24) (hl : level < 2 ^ 8) (hn : node < 2 ^ 24) :
    let t := BitVec.ofNat 64 (red * 2 ^ 40 + level * 2 ^ 32 + node)
    tagRed t = red ∧ tagLevel t = level ∧ tagReserved t = 0 ∧ tagNode t = node := by
  have hlt : red * 2 ^ 40 + level * 2 ^ 32 + node < 2 ^ 64 := by omega
  simp only [tagRed, tagLevel, tagReserved, tagNode, bits, BitVec.toNat_ofNat, Nat.mod_eq_of_lt hlt]
  omega

/-- The fields of a local tag. -/
theorem lTag_fields {red height node : Nat} (hr : red < 2 ^ 24) (hh : height < 2 ^ 6) (hn : node < 2 ^ 34) :
    lRed (lTag red height node) = red ∧ lHeight (lTag red height node) = height ∧ lNode (lTag red height node) = node := by
  have hlt : red * 2 ^ 40 + height * 2 ^ 34 + node < 2 ^ 64 := by omega
  simp only [lTag, lRed, lHeight, lNode, bits, BitVec.toNat_ofNat, Nat.mod_eq_of_lt hlt]
  omega

/-- A partial that its engine accepts becomes part of its reduction. -/
theorem partialAt_accepted {s : State} {j engine : Nat} {tag : W64} {lanes : List W64} {uid : Option Nat} {J : Job} {d : RedDecl}
    {r : Reduction} (hJ : jobAt s j = some J) (hd : redDecl J (tagRed tag) = some d) (hroute : onRoute J d engine = true)
    (hheld : FMap.getD s.reds (redKey j (tagRed tag)) {} = r) (hresent : r.resent = []) (hopen : r.delivered = false)
    (hst : tagStatus (some d) r engine tag lanes.length = 0)
    (hrej : (r.accept d engine uid (tagLevel tag) (tagNode tag) lanes).rejected = false) :
    partialAt s j engine tag lanes uid
      = ({ s with reds := FMap.set s.reds (redKey j (tagRed tag)) (r.accept d engine uid (tagLevel tag) (tagNode tag) lanes) }, 0) := by
  have hagain : (uid.map fun u => (u, tagLevel tag, tagNode tag)).any (List.contains []) = false := by cases uid <;> rfl
  unfold partialAt
  rw [hJ]
  dsimp only
  rw [hd, hheld, hresent, hopen, if_neg (by simp [hagain]), Option.filter_some, if_pos hroute]
  dsimp only
  simp only [Bool.false_eq_true, if_false, hst, ne_eq, not_true_eq_false, hrej, Bool.false_and]

/-- A reduction behind a partial that an engine rejects. -/
theorem partialAt_rejected {s : State} {j engine : Nat} {tag : W64} {lanes : List W64} {uid : Option Nat} {J : Job} {d : RedDecl}
    {st : Status} (hJ : jobAt s j = some J) (hd : redDecl J (tagRed tag) = some d) (hroute : onRoute J d engine = true)
    (hheld : FMap.get? s.reds (redKey j (tagRed tag)) = none) (hst : tagStatus (some d) {} engine tag lanes.length = st) (hst0 : st ≠ 0) :
    partialAt s j engine tag lanes uid
      = ({ updJob s j (fun J => { J with nf := min (J.nf + 1) (2 ^ 64 - 1) }) with
            reds := FMap.set s.reds (redKey j (tagRed tag)) { rejected := true, root := some (d.rejectedLanes lanes.length) } }, st) := by
  have hnew : FMap.getD s.reds (redKey j (tagRed tag)) {} = {} := by rw [FMap.getD, hheld, Option.getD_none]
  have hagain : (uid.map fun u => (u, tagLevel tag, tagNode tag)).any (List.contains []) = false := by cases uid <;> rfl
  unfold partialAt
  rw [hJ]
  dsimp only
  rw [hd, hnew, if_neg (by simp [hagain]), Option.filter_some, if_pos hroute]
  simp only [Bool.false_eq_true, if_false, hst, ne_eq, hst0, not_false_eq_true, if_true]
  rfl

/-- A partial of a declared reduction arrives, and its engine takes it: nothing but the reduction changes. -/
theorem partialArrives_accepted {s : State} {j engine : Nat} {tag : W64} {lanes : List W64} {sender : Option Nat} {J : Job} {d : RedDecl}
    {r : Reduction} (hj : redJob s sender (tagRed tag) = some j) (hJ : jobAt s j = some J) (hd : redDecl J (tagRed tag) = some d)
    (hroute : onRoute J d engine = true) (hheld : FMap.getD s.reds (redKey j (tagRed tag)) {} = r) (hresent : r.resent = [])
    (hopen : r.delivered = false) (hst : tagStatus (some d) r engine tag lanes.length = 0)
    (hrej : ∀ uid, (r.accept d engine uid (tagLevel tag) (tagNode tag) lanes).rejected = false) :
    ∃ uid, partialArrives s engine tag lanes sender
      = { s with reds := FMap.set s.reds (redKey j (tagRed tag)) (r.accept d engine uid (tagLevel tag) (tagNode tag) lanes) } := by
  unfold partialArrives
  rw [hj]
  dsimp only
  rw [partialAt_accepted hJ hd hroute hheld hresent hopen hst (hrej _)]
  exact ⟨_, rfl⟩

/-! ## A reduction of two chunks -/

/-- The reduction that has taken the partial of one of its two chunks. -/
def oneOfTwo (engine node : Nat) (uid : Option Nat) (x : List W64) : Reduction where
  counts := FMap.set [] engine x.length
  arrived := [(0, node)]
  parts := [(uid, ⟨0, node, x⟩)]
  nodes := [⟨0, node, x⟩]

theorem accept_first {d : RedDecl} {node : Nat} (hd : d.chunks = 2) (hn : node < 2) (engine : Nat) (uid : Option Nat) (x : List W64) :
    Reduction.accept d engine uid 0 node x {} = oneOfTwo engine node uid x := by
  have hnode : node = 0 ∨ node = 1 := by omega
  rcases hnode with rfl | rfl <;> simp [Reduction.accept, Reduction.place, hd, oneOfTwo, FMap.has]

/-- The right chunk comes to the left one. -/
theorem accept_right {d : RedDecl} (hd : d.chunks = 2) (engine : Nat) (uid uid' : Option Nat) {x y : List W64} (hlen : x.length = y.length) :
    ((oneOfTwo engine 0 uid x).accept d engine uid' 0 1 y).root = some ((x.zipWith d.lane y).map d.pass)
      ∧ ((oneOfTwo engine 0 uid x).accept d engine uid' 0 1 y).rejected = false := by
  simp [Reduction.accept, Reduction.place, hd, oneOfTwo, FMap.has, hlen]

/-- The left chunk comes to the right one. -/
theorem accept_left {d : RedDecl} (hd : d.chunks = 2) (engine : Nat) (uid uid' : Option Nat) {x y : List W64} (hlen : x.length = y.length) :
    ((oneOfTwo engine 1 uid y).accept d engine uid' 0 0 x).root = some ((x.zipWith d.lane y).map d.pass)
      ∧ ((oneOfTwo engine 1 uid y).accept d engine uid' 0 0 x).rejected = false := by
  simp [Reduction.accept, Reduction.place, hd, oneOfTwo, FMap.has, hlen]

theorem tagStatus_first {d : RedDecl} {tag : W64} {n : Nat} (hl : tagLevel tag ≤ 24) (hres : tagReserved tag = 0)
    (hchunk : tagNode tag * 2 ^ tagLevel tag < d.chunks) (h1 : 1 ≤ n) (h512 : n ≤ 512) (engine : Nat) :
    tagStatus (some d) {} engine tag n = 0 := by
  simp [tagStatus, Nat.not_lt.2 hl, hres, Nat.not_le.2 hchunk, Nat.ne_of_gt h1, Nat.not_lt.2 h512]

theorem tagStatus_second {d : RedDecl} {tag : W64} {node : Nat} {x : List W64} {n : Nat} (hl : tagLevel tag = 0) (hres : tagReserved tag = 0)
    (hchunk : tagNode tag < d.chunks) (hne : tagNode tag ≠ node) (h1 : 1 ≤ n) (h512 : n ≤ 512) (hlen : x.length = n) (engine : Nat)
    (uid : Option Nat) : tagStatus (some d) (oneOfTwo engine node uid x) engine tag n = 0 := by
  have hoverlap : tagsOverlap (0, tagNode tag) (0, node) = false := by
    simp only [tagsOverlap, decide_eq_false_iff_not]
    omega
  simp [tagStatus, oneOfTwo, hl, hres, Nat.not_le.2 hchunk, Nat.ne_of_gt h1, Nat.not_lt.2 h512, hlen, hoverlap]

/-- One of two chunks comes, then the other: the reduction holds the first, and has its root with the second. -/
theorem two_partials {s : State} {j engine red node : Nat} {J : Job} {d : RedDecl} {x y root : List W64} {sender : Option Nat}
    (hJ : jobAt s j = some J) (hj : redJob s sender red = some j) (hd : redDecl J red = some d) (hroute : onRoute J d engine = true)
    (hred : red < 2 ^ 24) (hchunks : d.chunks = 2) (hlen : x.length = y.length) (h1 : 1 ≤ x.length) (h512 : x.length ≤ 512)
    (hnone : FMap.get? s.reds (redKey j red) = none) (hnode : node < 2)
    (hmeet : ∀ uid uid', ((oneOfTwo engine node uid x).accept d engine uid' 0 (1 - node) y).root = some root
      ∧ ((oneOfTwo engine node uid x).accept d engine uid' 0 (1 - node) y).rejected = false) :
    Runs (.partialArrival engine (BitVec.ofNat 64 (red * 2 ^ 40 + 0 * 2 ^ 32 + node)) x sender) s fun s1 =>
      (FMap.getD s1.reds (redKey j red) {}).root = none
        ∧ Runs (.partialArrival engine (BitVec.ofNat 64 (red * 2 ^ 40 + 0 * 2 ^ 32 + (1 - node))) y sender) s1 fun t =>
          (FMap.getD t.reds (redKey j red) {}).root = some root := by
  obtain ⟨hr0, hl0, hs0, hn0⟩ := tag_fields hred (level := 0) (by decide) (show node < 2 ^ 24 by omega)
  obtain ⟨hr1, hl1, hs1, hn1⟩ := tag_fields hred (level := 0) (by decide) (show 1 - node < 2 ^ 24 by omega)
  generalize BitVec.ofNat 64 (red * 2 ^ 40 + 0 * 2 ^ 32 + node) = tag0 at *
  generalize BitVec.ofNat 64 (red * 2 ^ 40 + 0 * 2 ^ 32 + (1 - node)) = tag1 at *
  have hnew : FMap.getD s.reds (redKey j red) {} = {} := by rw [FMap.getD, hnone, Option.getD_none]
  have hfirst (uid : Option Nat) : Reduction.accept d engine uid (tagLevel tag0) (tagNode tag0) x {} = oneOfTwo engine node uid x := by
    rw [hl0, hn0]
    exact accept_first hchunks hnode engine uid x
  obtain ⟨uid, hs1eq⟩ := partialArrives_accepted (r := {}) (lanes := x) (hr0 ▸ hj) hJ (hr0 ▸ hd) hroute (hr0 ▸ hnew) rfl rfl
    (tagStatus_first (by omega) hs0 (by rw [hl0, hn0]; omega) h1 h512 engine) fun uid => by rw [hfirst]; rfl
  rw [hfirst, hr0] at hs1eq
  refine ⟨_, rfl, ?_⟩
  rw [hs1eq]
  refine ⟨by simp [FMap.getD, oneOfTwo], ?_⟩
  have hheld : FMap.getD (FMap.set s.reds (redKey j red) (oneOfTwo engine node uid x)) (redKey j (tagRed tag1)) {}
      = oneOfTwo engine node uid x := by
    simp [FMap.getD, hr1]
  obtain ⟨uid', hteq⟩ := partialArrives_accepted
    (s := { s with reds := FMap.set s.reds (redKey j red) (oneOfTwo engine node uid x) }) (lanes := y)
    (r := oneOfTwo engine node uid x) (hr1 ▸ hj) hJ (hr1 ▸ hd) hroute hheld rfl rfl
    (tagStatus_second hl1 hs1 (by omega) (by omega) (hlen ▸ h1) (hlen ▸ h512) hlen engine uid)
    fun uid' => by rw [hl1, hn1]; exact (hmeet uid uid').2
  refine ⟨_, rfl, ?_⟩
  rw [hteq, hr1, hl1, hn1]
  simp [FMap.getD, (hmeet uid uid').1]

/-! ## Rejection, delivery -/

theorem tagStatus_malformed {d : Option RedDecl} {r : Reduction} {engine : Nat} {tag : W64} {n : Nat}
    (h : 24 < tagLevel tag ∨ tagReserved tag ≠ 0) : tagStatus d r engine tag n = 0x0E21 := by
  unfold tagStatus
  rw [if_pos (by simpa using h)]

/-- A failure keeps the report count of a job. -/
theorem fail_nf {s : State} {q uid j : Nat} {st : Status} {J : Job} (hJ : jobAt s j = some J) :
    (jobAt (fail s q uid st) j).map Job.nf = some J.nf := by
  obtain ⟨J', hJ', hkept⟩ := (fail_jobKept s q uid st j).some hJ
  rw [hJ', Option.map_some, hkept]

/-- A rejected partial fails the sender's oldest running VECTOR, and counts one report (R46). -/
theorem partialArrives_rejected {s : State} {j engine q : Nat} {tag : W64} {x : List W64} {J : Job} {d : RedDecl} {Q : Queue} {c : Cmd}
    (hJ : jobAt s j = some J) (hQ : queueAt s q = some Q) (hQj : Q.job = some j) (hd : redDecl J (tagRed tag) = some d)
    (hroute : onRoute J d engine = true) (hbad : 24 < tagLevel tag ∨ tagReserved tag ≠ 0)
    (hnone : FMap.get? s.reds (redKey j (tagRed tag)) = none) (hc : runningCmd Q (fun c => c.op = 2) = some c) (hnf : J.nf < 2 ^ 64 - 1) :
    let t := partialArrives s engine tag x (some q)
    Failed t q c.uid 0x0E21 ∧ (jobAt t j).map Job.nf = some (J.nf + 1)
      ∧ (FMap.getD t.reds (redKey j (tagRed tag)) {}).root = some (d.rejectedLanes x.length) := by
  have hj : redJob s (some q) (tagRed tag) = some j := by
    unfold redJob
    rw [Option.bind_some, hQ, Option.bind_some, hQj]
  have hfrom : ((queueAt s q).bind fun Q => runningCmd Q fun c => c.op = 2).map (fun c => (q, c)) = some (q, c) := by
    rw [hQ, Option.bind_some, hc, Option.map_some]
  obtain ⟨c', hc'⟩ := cmdAt_of_mem (runningCmd_some hc).1
  have hjob : jobAt (updJob s j fun J => { J with nf := min (J.nf + 1) (2 ^ 64 - 1) }) j
      = some { J with nf := min (J.nf + 1) (2 ^ 64 - 1) } := by
    rw [jobAt_updJob, if_pos rfl, hJ, Option.map_some]
  dsimp only
  unfold partialArrives
  rw [hj]
  dsimp only
  rw [Option.bind_some, hfrom, partialAt_rejected hJ hd hroute hnone (tagStatus_malformed hbad) (by decide)]
  dsimp only
  rw [if_neg (by decide)]
  refine ⟨fail_failed _ q c.uid _ Q c' hQ hc', ?_, ?_⟩
  · have hmin : min (J.nf + 1) (2 ^ 64 - 1) = J.nf + 1 := min_eq_left (by omega)
    refine (fail_nf (J := { J with nf := min (J.nf + 1) (2 ^ 64 - 1) }) ?_).trans (congrArg some hmin)
    exact hjob
  · rw [(fail_only ..).same .reds (by decide)]
    simp [FMap.getD]

/-- The root leaves for every receiver, and nothing else changes (R469). -/
theorem deliverRoot_some {s : State} {engine red j : Nat} {J : Job} {R : Reduction}
    (hfind : (s.jobs.find? fun e => ((redDecl e.2 red).any fun d => onRoute e.2 d engine)
      && ((FMap.get? s.reds (redKey e.1 red)).any fun r => r.root.isSome && !r.delivered)) = some (j, J))
    (hR : FMap.get? s.reds (redKey j red) = some R) :
    let t := deliverRoot s engine red
    t = { s with reds := t.reds } ∧ FMap.get? t.reds (redKey j red) = some { R with delivered := true }
      ∧ ∀ k, k ≠ redKey j red → FMap.get? t.reds k = FMap.get? s.reds k := by
  dsimp only
  unfold deliverRoot
  rw [hfind]
  refine ⟨rfl, ?_, fun k hk => ?_⟩
  · simp [hR]
  · simp [hk]

/-! ## A vector program sends and receives -/

theorem vecRecv_waits {s : State} {core j : Nat} {a : VArgs} {d : RedDecl} (hd : vecDecl s core (bits a.imm.toNat 23 0) = some (j, d))
    (hroot : rootOf s j (bits a.imm.toNat 23 0) = none) : vecRecv core a s = s := by
  unfold vecRecv
  dsimp only
  rw [hd]
  dsimp only
  rw [hroot]

/-- VRECV of a delivered root: its lanes, then +0.0. -/
theorem vecRecv_wrote {s : State} {core j : Nat} {a : VArgs} {d : RedDecl} {lanes : List W64}
    (hd : vecDecl s core (bits a.imm.toNat 23 0) = some (j, d)) (hroot : rootOf s j (bits a.imm.toNat 23 0) = some lanes)
    (hlen : lanes.length ≤ 512) :
    let t := vecRecv core a s
    VecWrote { s with fresh := t.fresh } t core a.vd.toNat none
      ∧ ∃ vals : List W32, vals.length = lanes.length ∧ (d.integer = false → vals = lanes.map (fun x => x.setWidth 32) ∧ t.fresh = s.fresh)
        ∧ (vecOf t core).reg a.vd.toNat = underMask (vecOf s core) a (vals ++ List.replicate (512 - lanes.length) 0) := by
  have hfill (vals : List W32) (h : vals.length = lanes.length) :
      (vals ++ lanes0).take 512 = vals ++ List.replicate (512 - lanes.length) 0 := by
    rw [List.take_append, List.take_of_length_le (by omega), lanes0, List.take_replicate, h]
    congr 2
    omega
  dsimp only
  unfold vecRecv
  dsimp only
  rw [hd]
  dsimp only
  rw [hroot]
  dsimp only
  cases hi : d.integer with
  | true =>
    simp only [if_true]
    refine ⟨updVec_write (drawn s lanes.length) core a _ _,
      (List.range lanes.length).map fun i => BitVec.ofNat 32 (Config.freeNat (s.fresh + i)), by simp, nofun, ?_⟩
    rw [← hfill _ (by simp)]
    exact updVec_write_reg (drawn s lanes.length) core a _ _
  | false =>
    simp only [Bool.false_eq_true, if_false]
    refine ⟨updVec_write s core a _ _, lanes.map fun x => x.setWidth 32, by simp, fun _ => ⟨rfl, rfl⟩, ?_⟩
    rw [← hfill _ (by simp)]
    exact updVec_write_reg s core a _ _

/-- While no sibling is held, placing a node changes only nodes and root. -/
theorem place_of_nodes_nil (d : RedDecl) (fuel level node : Nat) (lanes : List W64) (r : Reduction) (h : r.nodes = []) :
    Reduction.place d fuel level node lanes r
      = { r with nodes := (Reduction.place d fuel level node lanes r).nodes, root := (Reduction.place d fuel level node lanes r).root } := by
  induction fuel generalizing level node lanes with
  | zero => rfl
  | succ n ih =>
    unfold Reduction.place
    split
    · rfl
    · split
      · exact ih ..
      · simp [h]

theorem vecDecl_some {s : State} {core q j red : Nat} {Q : Queue} {c : Cmd} {J : Job} {d : RedDecl}
    (howner : vecOwner s core = some (q, Q, c)) (hQj : Q.job = some j) (hJ : jobAt s j = some J) (hd : redDecl J red = some d) :
    vecDecl s core red = some (j, d) := by
  unfold vecDecl
  rw [howner]
  simp [hQj, hJ, hd]

theorem sentLanes_fp {s : State} {d : RedDecl} {l : List W32} (h : d.integer = false) :
    sentLanes s d l = (s, l.map fun x => x.setWidth 64) := by
  simp [sentLanes, h]

theorem accept_empty (d : RedDecl) (engine : Nat) (uid : Option Nat) (level node : Nat) (lanes : List W64) :
    ∃ nodes root, Reduction.accept d engine uid level node lanes {}
      = { counts := FMap.set [] engine lanes.length, arrived := [(level, node)], parts := [(uid, ⟨level, node, lanes⟩)], nodes, root } := by
  unfold Reduction.accept
  dsimp only
  rw [if_neg (by decide), place_of_nodes_nil _ _ _ _ _ _ rfl]
  exact ⟨_, _, rfl⟩

theorem vecSend_of_untagged {s : State} {core : Nat} {a : VArgs} (hw1 : 1 ≤ bits a.imm.toNat 9 0) (hw512 : bits a.imm.toNat 9 0 ≤ 512)
    (h : (vecOf s core).tagOf a.va.toNat = none ∨ ∃ t, (vecOf s core).tagOf a.va.toNat = some t ∧ lHeight t < 9) :
    vecSend core a s = vecFail s core 0x0E25 := by
  unfold vecSend
  dsimp only
  rw [if_neg (by simp; omega)]
  rcases h with h | ⟨t, h, hlow⟩ <;> rw [h]
  exact if_pos hlow

theorem vecSend_of_undeclared {s : State} {core : Nat} {a : VArgs} {t : W64} (hw1 : 1 ≤ bits a.imm.toNat 9 0)
    (hw512 : bits a.imm.toNat 9 0 ≤ 512) (ht : (vecOf s core).tagOf a.va.toNat = some t) (h9 : 9 ≤ lHeight t)
    (hd : vecDecl s core (lRed t) = none) : vecSend core a s = vecFail s core 0x0E23 := by
  unfold vecSend
  dsimp only
  rw [if_neg (by simp; omega), ht]
  dsimp only
  rw [if_neg (Nat.not_lt.2 h9), hd]
  cases vecOwner s core <;> rfl

/-- VSEND of a first partial: the reduction takes it, and the unit moves on. -/
theorem vecSend_sent {s : State} {core q j red h n : Nat} {a : VArgs} {Q : Queue} {c : Cmd} {J : Job} {d : RedDecl}
    (howner : vecOwner s core = some (q, Q, c)) (hQj : Q.job = some j) (hJ : jobAt s j = some J) (hd : redDecl J red = some d)
    (hfp : d.integer = false) (hroute : onRoute J d (core / 4) = true) (hred : red < 2 ^ 24) (hn : n < 2 ^ 24) (h9 : 9 ≤ h) (h33 : h ≤ 33)
    (hw1 : 1 ≤ bits a.imm.toNat 9 0) (hw512 : bits a.imm.toNat 9 0 ≤ 512)
    (htag : (vecOf s core).tagOf a.va.toNat = some (lTag red h n)) (hchunk : n * 2 ^ (h - 9) < d.chunks)
    (hnone : FMap.get? s.reds (redKey j red) = none) (hsent : 1 ≤ (((vecOf s core).reg a.va.toNat).take (bits a.imm.toNat 9 0)).length) :
    let t := vecSend core a s
    VecKept { s with queues := t.queues, reds := t.reds } t core
      ∧ (FMap.getD t.reds (redKey j red) {}).arrived = [(h - 9, n)]
      ∧ FMap.get? (FMap.getD t.reds (redKey j red) {}).counts (core / 4)
        = some (((vecOf s core).reg a.va.toNat).take (bits a.imm.toNat 9 0)).length := by
  obtain ⟨hlr, hlh, hln⟩ := lTag_fields hred (show h < 2 ^ 6 by omega) (show n < 2 ^ 34 by omega)
  obtain ⟨htr, htl, hts, htn⟩ := tag_fields hred (level := h - 9) (by omega) hn
  have hnew : FMap.getD s.reds (redKey j red) {} = {} := by rw [FMap.getD, hnone, Option.getD_none]
  have h512 : (((vecOf s core).reg a.va.toNat).take (bits a.imm.toNat 9 0)).length ≤ 512 :=
    (List.length_take_le _ _).trans hw512
  dsimp only
  unfold vecSend
  dsimp only
  rw [if_neg (by simp; omega), htag]
  dsimp only
  rw [hlr, hlh, hln, if_neg (Nat.not_lt.2 h9), howner, vecDecl_some howner hQj hJ hd]
  dsimp only
  rw [sentLanes_fp hfp]
  dsimp only
  generalize ((vecOf s core).reg a.va.toNat).take (bits a.imm.toNat 9 0) = lanes at *
  generalize BitVec.ofNat 64 (red * 2 ^ 40 + (h - 9) * 2 ^ 32 + n) = tag at *
  have hlen : (lanes.map fun x => x.setWidth 64).length = lanes.length := List.length_map _
  have hst : tagStatus (some d) {} (core / 4) tag (lanes.map fun x => x.setWidth 64).length = 0 :=
    tagStatus_first (by omega) hts (by rw [htl, htn]; exact hchunk) (hlen ▸ hsent) (hlen ▸ h512) _
  obtain ⟨nodes, root, hfirst⟩ := accept_empty d (core / 4) (some c.uid) (h - 9) n (lanes.map fun x => x.setWidth 64)
  rw [partialAt_accepted hJ (htr.symm ▸ hd) hroute (htr.symm ▸ hnew) rfl rfl hst (by rw [htl, htn, hfirst])]
  dsimp only
  rw [if_neg (by simp), htr, htl, htn, hfirst]
  refine ⟨updVec_kept _ core _ rfl, ?_, ?_⟩
  · change (FMap.getD (FMap.set s.reds (redKey j red) _) (redKey j red) {}).arrived = _
    simp [FMap.getD]
  · change FMap.get? (FMap.getD (FMap.set s.reds (redKey j red) _) (redKey j red) {}).counts (core / 4) = _
    simp [FMap.getD]

/-- Settles O9. -/
theorem taggedReductions : Obligations.TaggedReductions := by
  refine ⟨?_, ?_, ?_, ?_, ?_, ?_⟩
  · intro s j J d engine red x y sender hJ hj hd hroute hred hchunks hlen h1 h512 hnone left right root
    have hleft : left = BitVec.ofNat 64 (red * 2 ^ 40 + 0 * 2 ^ 32 + 0) := by simp [left]
    have hright : right = BitVec.ofNat 64 (red * 2 ^ 40 + 0 * 2 ^ 32 + 1) := by simp [right]
    rw [hleft, hright]
    exact ⟨two_partials (node := 0) hJ hj hd hroute hred hchunks hlen h1 h512 hnone (by decide)
        fun uid uid' => accept_right hchunks engine uid uid' hlen,
      two_partials (node := 1) hJ hj hd hroute hred hchunks hlen.symm (hlen ▸ h1) (hlen ▸ h512) hnone (by decide)
        fun uid uid' => accept_left hchunks engine uid uid' hlen⟩
  · intro s j J d engine red q Q c tag x hJ hQ hQj hd hroute htag hbad hnone hc hnf
    subst htag
    exact ⟨_, rfl, partialArrives_rejected hJ hQ hQj hd hroute hbad hnone hc hnf⟩
  · exact fun s j J d engine red R hfind _ hR => ⟨_, rfl, deliverRoot_some hfind hR⟩
  · exact fun core a s j d hd => ⟨fun hroot => ⟨_, rfl, vecRecv_waits hd hroot⟩,
      fun lanes hroot hlen => ⟨_, rfl, vecRecv_wrote hd hroot hlen⟩⟩
  · intro core a s q Q c j J d red h n w howner hQj hJ hd hfp hroute hred hn h9 h33 hw hw1 hw512 htag hchunk hnone sent hsent
    subst hw
    exact ⟨_, rfl, vecSend_sent howner hQj hJ hd hfp hroute hred hn h9 h33 hw1 hw512 htag hchunk hnone hsent⟩
  · intro core a s q Q c _ howner w tag fails
    have failed (st : Status) {i : Instr} {f : State} (hi : exec i s = .next f) (h : f = vecFail s core st) : fails i st :=
      ⟨f, hi, h ▸ vecFail_failed s core st howner⟩
    refine ⟨fun hw => failed _ rfl ?_, fun hw1 hw512 htag => failed _ rfl ?_, fun t0 hw1 hw512 ht0 h9 hd => failed _ rfl ?_,
      fun hd => failed _ rfl ?_⟩
    · unfold vecSend
      exact if_pos (by simpa using hw)
    · exact vecSend_of_untagged hw1 hw512 htag
    · exact vecSend_of_undeclared hw1 hw512 ht0 h9 hd
    · unfold vecRecv
      dsimp only
      rw [hd]

end Sys2Proof.Machine

/-! PROOFS. The run of a VECTOR command. -/

namespace Sys2Proof.Machine

/-! ## One instruction of a program -/

/-- A program whose unit is idle stands still. -/
theorem vecRun_of_idle (fuel : Nat) {core : Nat} {s : State} (h : (vecOf s core).owner = none) : vecRun fuel core s = s := by
  cases fuel with
  | zero => rfl
  | succ n =>
    unfold vecRun vecOwner
    rw [h]

/-- An instruction other than VRECV, which meets no poisoned word, issues, and the program goes on. -/
theorem vecRun_issue (n : Nat) {core q : Nat} {s : State} {Q : Queue} {c : Cmd} (howner : vecOwner s core = some (q, Q, c))
    (hmet : vecMet s core = none)
    (hgo : vecOf (vecIssue (vOp (wordH Q c (rH c.bytes 16) (8 * (vecOf s core).pc) 8)) core
        (vArgs (wordH Q c (rH c.bytes 16) (8 * (vecOf s core).pc) 8)) s) core ≠ vecOf s core
      ∨ vOp (wordH Q c (rH c.bytes 16) (8 * (vecOf s core).pc) 8) ≠ 0x2D) :
    vecRun (n + 1) core s = vecRun n core (vecIssue (vOp (wordH Q c (rH c.bytes 16) (8 * (vecOf s core).pc) 8)) core
      (vArgs (wordH Q c (rH c.bytes 16) (8 * (vecOf s core).pc) 8)) s) := by
  conv_lhs => unfold vecRun
  rw [howner]
  dsimp only
  rw [hmet, if_neg (by simp), if_neg (by simp only [Bool.and_eq_true, decide_eq_true_eq]; tauto)]

/-- A VRECV whose root is not delivered holds the program. -/
theorem vecRun_recv_waits (n : Nat) {core q j : Nat} {s : State} {Q : Queue} {c : Cmd} {d : RedDecl}
    (howner : vecOwner s core = some (q, Q, c)) (hop : vOp (wordH Q c (rH c.bytes 16) (8 * (vecOf s core).pc) 8) = 0x2D)
    (hd : vecDecl s core (bits (vArgs (wordH Q c (rH c.bytes 16) (8 * (vecOf s core).pc) 8)).imm.toNat 23 0) = some (j, d))
    (hroot : rootOf s j (bits (vArgs (wordH Q c (rH c.bytes 16) (8 * (vecOf s core).pc) 8)).imm.toNat 23 0) = none) :
    vecRun (n + 1) core s = s := by
  unfold vecRun
  rw [howner]
  dsimp only
  rw [hop]
  have hissue : vecIssue 0x2D core (vArgs (wordH Q c (rH c.bytes 16) (8 * (vecOf s core).pc) 8)) s = s := vecRecv_waits hd hroot
  rw [hissue]
  simp

theorem vecOf_vecEnd {core q : Nat} {s : State} {Q : Queue} {c : Cmd} (howner : vecOwner s core = some (q, Q, c)) :
    vecOf (vecEnd core s) core = {} := (vecEnd_finished s core howner).2.1

/-- END ends the program. -/
theorem vecRun_end (n : Nat) {core q : Nat} {s : State} {Q : Queue} {c : Cmd} (howner : vecOwner s core = some (q, Q, c))
    (hmet : vecMet s core = none) (hop : vOp (wordH Q c (rH c.bytes 16) (8 * (vecOf s core).pc) 8) = 0x3F) :
    vecRun (n + 1) core s = vecEnd core s := by
  rw [vecRun_issue n howner hmet (.inr (by rw [hop]; decide)), hop]
  change vecRun n core (vecEnd core s) = _
  exact vecRun_of_idle n (by rw [vecOf_vecEnd howner])

/-! ## A VECTOR that takes its unit -/

theorem vecFuel_eq : ∃ n, vecFuel = n + 2 := ⟨2 ^ 76 - 2, by unfold vecFuel; norm_num⟩

/-- The row of a VECTOR whose core's unit is idle, where the program ends. -/
theorem vecUntilPoison_of_end {s t : State} {q : Nat} {Q : Queue} {c : Cmd} (hQ : queueAt s q = some Q)
    (hc : runningCmd Q (fun c => c.op = 2) = some c) (hidle : (vecOf s c.core).owner = none)
    (hrun : vecRun vecFuel c.core (updVec s c.core fun _ => { owner := some (q, c.uid) }) = t) (hend : vecOf t c.core = {}) :
    vecUntilPoison s q = t := by
  have hvector : runVector s q = t := by
    unfold runVector
    rw [hQ]
    dsimp only
    rw [hc]
    dsimp only
    rw [hidle]
    exact hrun
  unfold vecUntilPoison
  rw [hQ, Option.bind_some, hc]
  dsimp only
  rw [hvector, if_neg (by rw [hend]; simp)]

/-- Settles O17. -/
theorem vectorCommand : Obligations.VectorCommand := by
  refine ⟨?_, ?_⟩
  · intro s q Q c hQ hc hcmd hidle s1 word hmet
    have hunit : vecOf s1 c.core = { owner := some (q, c.uid) } := vecOf_updVec s c.core _
    have howner : vecOwner s1 c.core = some (q, Q, c) := by
      unfold vecOwner
      rw [hunit]
      dsimp only
      rw [show queueAt s1 q = some Q from hQ]
      dsimp only
      rw [hcmd, Option.map_some]
    have hpc : (vecOf s1 c.core).pc = 0 := by rw [hunit]
    obtain ⟨n, hn⟩ := vecFuel_eq
    refine ⟨fun w hw hop => ⟨_, rfl, ?_⟩, fun w w' hw hop => ?_⟩
    · simp only [word, howner, Option.map_some, Option.some.injEq] at hw
      have hrun : vecRun vecFuel c.core s1 = vecEnd c.core s1 := by
        rw [hn]
        exact vecRun_end (n + 1) howner hmet (by rw [hpc, hw, hop])
      rw [vecUntilPoison_of_end hQ hc hidle hrun (vecOf_vecEnd howner)]
      obtain ⟨hfin, hunit', _, hframe⟩ := vecEnd_finished s1 c.core howner
      exact ⟨hfin, hunit', hframe⟩
    · dsimp only
      generalize hs2 : vecIssue (vOp w) c.core (vArgs w) s1 = s2
      intro hpc2 hmet2 hw' hop'
      refine ⟨_, rfl, ?_⟩
      simp only [word, howner, Option.map_some, Option.some.injEq] at hw
      obtain ⟨⟨q2, Q2, c2⟩, howner2, hword2⟩ := Option.map_eq_some_iff.1 hw'
      have hrun : vecRun vecFuel c.core s1 = vecEnd c.core s2 := by
        have hissue := vecRun_issue (n + 1) howner hmet (.inl ?_)
        · rw [hpc, hw, hs2] at hissue
          rw [hn, hissue]
          exact vecRun_end n howner2 hmet2 (by rw [hpc2, hword2, hop'])
        · rw [hpc, hw, hs2]
          intro h
          have hone : (vecOf s2 c.core).pc = (vecOf s1 c.core).pc := by rw [← h]
          omega
      exact vecUntilPoison_of_end hQ hc hidle hrun (vecOf_vecEnd howner2)
  · intro n core s q Q c howner hmet w s'
    exact ⟨fun hop => vecRun_issue n howner hmet (.inr hop), fun hop j d hd hroot => vecRun_recv_waits n howner hop hd hroot⟩

end Sys2Proof.Machine

/-! PROOFS. The REED commands. -/

namespace Sys2Proof.Machine

/-! ## A command that finishes -/

/-- A command that finishes with what `f` adds to it, behind a change of nothing but counters, traces and free values. -/
theorem finish_done {s u : State} {q : Nat} {Q : Queue} {c : Cmd} {f : Cmd → Cmd} (st : Status)
    (hu : Only [.fresh, .dict, .tel, .hostOut] s u) (hQ : queueAt s q = some Q) (hc : cmdAt Q c.uid = some c)
    (hf : ∀ c, (f c).uid = c.uid) :
    let t := finish u q c.uid st f
    t = { s with cores := t.cores, queues := t.queues, dict := t.dict, fresh := t.fresh, tel := t.tel, hostOut := t.hostOut }
      ∧ (∀ p, p ≠ q → queueAt t p = queueAt s p)
      ∧ ∃ Q' c', queueAt t q = some Q' ∧ cmdAt Q' c.uid = some c' ∧ c'.state = .finished st ∧ c'.staged = (f c).staged := by
  have hframe := (hu.trans (finish_only u q c.uid st f)).eq_overlay
  obtain ⟨Q', hQ', hc'⟩ := finish_finished u q c.uid st f Q c hf ((hu.queueAt (by decide) q).trans hQ) hc
  exact ⟨hframe, fun p hp => (finish_queueAt_other u q c.uid st f hp).trans (hu.queueAt (by decide) p),
    Q', _, hQ', hc', rfl, rfl⟩

/-! ## Kinds 1 to 4 -/

theorem reedCmd_some {s : State} {q kind : Nat} {Q : Queue} {c : Cmd} {J : Job} (h : reedCmd s q kind = some (Q, c, J)) :
    queueAt s q = some Q ∧ c ∈ Q.cmds ∧ c.state = .started ∧ Q.job.bind (jobAt s) = some J := by
  unfold reedCmd at h
  split at h
  · cases h
  · next Q' hQ =>
    split at h
    · cases h
    · next c' hrun =>
      simp only [Option.map_eq_some_iff, Prod.mk.injEq] at h
      obtain ⟨J', hJ, rfl, rfl, rfl⟩ := h
      exact ⟨hQ, (runningCmd_some hrun).1, (runningCmd_some hrun).2.1, hJ⟩

theorem unlessPoisoned_none {s : State} {q : Nat} {Q : Queue} {c : Cmd} (h : poisonMet s Q c = none) (run : State) :
    unlessPoisoned s q (some (Q, c)) run = run := by
  unfold unlessPoisoned
  dsimp only
  rw [h]

/-- A fold that appends to its first component collects what it appends. -/
theorem foldl_fst_append {α β γ : Type} {f : List β × γ → α → List β × γ} {k : α → List β} (h : ∀ acc a, (f acc a).1 = acc.1 ++ k a)
    (l : List α) (acc : List β × γ) : (l.foldl f acc).1 = acc.1 ++ l.flatMap k := by
  induction l generalizing acc with
  | nil => simp
  | cons a l ih => rw [List.foldl_cons, ih, h, List.flatMap_cons, List.append_assoc]

/-- The codes of phase one, lane group by lane group. -/
theorem phaseOneAll_codes (s : State) (Q : Queue) (c : Cmd) (J : Job) (x : Mem) (sx : W32) :
    (phaseOneAll s Q c J x sx).1 = (covered c.bytes).flatMap fun g =>
      match laneView s Q c J g with
      | none => []
      | some v => phaseOne v x sx (laneTokensOf c.bytes g) := by
  unfold phaseOneAll
  rw [foldl_fst_append (k := fun g =>
    match laneView s Q c J g with
    | none => []
    | some v => phaseOne v x sx (laneTokensOf c.bytes g))]
  · rfl
  · intro acc g
    dsimp only
    cases laneView s Q c J g <;> simp

/-- What a gradient command contributes: the exact product sums over the tokens of its covered lane groups. -/
def gradientOf (Q : Queue) (c : Cmd) (J : Job) (kind : Nat) : List StageWrite × Nat × List ObsDelta :=
  let r := c.bytes
  let m := viewOf Q c (hVer Q.part (rH r 36))
  let right := if kind = 1 then seen Q c (rH r 28) else seen Q c (rH r 20)
  contribute J Q.part (hVer Q.part (rH r 36)) m <|
    (List.range (hRows (m.read 0 64))).flatMap fun i => (List.range (hCols (m.read 0 64))).map fun j =>
      (i * hCols (m.read 0 64) + j,
        (coveredTokens r).foldl (fun a t => a + memCode (seen Q c (rH r 24)) (512 * i + t) * memCode right (512 * j + t)) 0)

theorem runGradient_eq {s : State} {q kind : Nat} {Q : Queue} {c : Cmd} {J : Job} (h : reedCmd s q kind = some (Q, c, J)) :
    runGradient s q kind = finish (reedReads s q Q c) q c.uid 0 fun d =>
      { d with
        staged := d.staged ++ (gradientOf Q c J kind).1, nf := d.nf + (gradientOf Q c J kind).2.1
        obs := d.obs ++ (gradientOf Q c J kind).2.2 } := by
  unfold runGradient gradientOf
  rw [h]

theorem runPhaseOne_eq {s : State} {q : Nat} {Q : Queue} {c : Cmd} {J : Job} (h : reedCmd s q 4 = some (Q, c, J)) :
    runPhaseOne s q =
      let p := phaseOneAll s Q c J (seen Q c (rH c.bytes 20)) (ringScale J (rRing c.bytes 56))
      finish (reedReads s q Q c) q c.uid 0 fun d =>
        { d with
          staged := d.staged ++ p.1.map fun e => writeH Q (rH c.bytes 28) (512 * e.2.1 + e.1) [BitVec.ofInt 8 e.2.2.2.code]
          nf := d.nf + p.2.1, obs := d.obs ++ p.2.2 } := by
  unfold runPhaseOne
  rw [h]

/-- Settles O18. -/
theorem reedCommands : Obligations.ReedCommands := by
  intro s q kind Q c J hcmd hc hpoison r ver h products done
  obtain ⟨hQ, _⟩ := reedCmd_some hcmd
  have finished (ws : List StageWrite) (n : Nat) (o : List ObsDelta) :
      done (finish (reedReads s q Q c) q c.uid 0 fun d => { d with staged := d.staged ++ ws, nf := d.nf + n, obs := d.obs ++ o }) ws :=
    finish_done 0 (reedReads_only s q Q c) hQ hc fun _ => rfl
  refine ⟨fun hk => ⟨_, rfl, ?_⟩, fun hk => ⟨_, rfl, ?_⟩, fun hk => ⟨_, rfl, ?_⟩, fun hk => ⟨_, rfl, ?_⟩⟩ <;> subst hk <;>
    rw [hcmd, Option.map_some, unlessPoisoned_none hpoison]
  · rw [runGradient_eq hcmd]
    exact finished (gradientOf Q c J _).1 _ _
  · rw [runGradient_eq hcmd]
    exact finished (gradientOf Q c J _).1 _ _
  · unfold runRankGradient
    rw [hcmd]
    refine (congrArg (done _) ?_).mp (finished _ _ _)
    rw [List.map_flatMap]
    refine congrArg (fun f => (covered r).flatMap f) (funext fun g => ?_)
    cases laneView s Q c J g with
    | none => rfl
    | some v =>
      simp only [List.map_flatMap, List.map_map]
      rfl
  · rw [runPhaseOne_eq hcmd]
    refine (congrArg (done _) ?_).mp (finished (List.map _ (phaseOneAll s Q c J _ _).1) _ _)
    rw [phaseOneAll_codes, List.map_flatMap]
    refine congrArg (fun f => (covered r).flatMap f) (funext fun g => ?_)
    cases laneView s Q c J g with
    | none => rfl
    | some v =>
      simp only [phaseOne, List.map_flatMap, List.map_map]
      rfl

end Sys2Proof.Machine

/-! PROOFS. Gradient accumulators. -/

namespace Sys2Proof

/-! ## Reading what was written -/

theorem Mem.length_read (m : Mem) (a n : Nat) : (m.read a n).length = n := by simp [Mem.read]

/-- A write read back. -/
theorem Mem.read_write_same (m : Mem) (a : Nat) (bs : List Byte) : (m.write a bs).read a bs.length = bs := by
  refine List.ext_getElem (Mem.length_read ..) fun i _ hi => ?_
  simp [Mem.read, Mem.byte_write_in m a bs i hi]

/-- Bytes beside a write. -/
theorem Mem.read_write_apart (m : Mem) (a : Nat) (bs : List Byte) (b n : Nat) (h : b + n ≤ a ∨ a + bs.length ≤ b) :
    (m.write a bs).read b n = m.read b n := by
  unfold Mem.read
  refine List.map_congr_left fun i hi => ?_
  have hi' := List.mem_range.1 hi
  exact Mem.byte_write_out m a bs (b + i) (by omega)

theorem unsigned_lt (w : Nat) (i : Int) : unsigned w i < 2 ^ w := by
  unfold unsigned
  have hpos : (0 : Int) < (2 ^ w : Nat) := by exact_mod_cast Nat.two_pow_pos w
  have hlt := Int.emod_lt_of_pos i hpos
  have hnonneg := Int.emod_nonneg i (ne_of_gt hpos)
  omega

end Sys2Proof

namespace Sys2Proof.Machine

/-! ## Products added to elements -/

/-- An element of an accumulator written. -/
theorem accElem_write_same (m : Mem) (e : Nat) (v : Int) :
    accElem (m.write (64 + 8 * e) (toLe 8 (unsigned 64 v))) e = signed 64 (unsigned 64 v) := by
  have hread := Mem.read_write_same m (64 + 8 * e) (toLe 8 (unsigned 64 v))
  rw [length_toLe] at hread
  unfold accElem
  rw [hread, leNat_toLe 8 _ (unsigned_lt 64 v)]

/-- The other elements stay. -/
theorem accElem_write_other (m : Mem) (e d : Nat) (v : Nat) (h : d ≠ e) :
    accElem (m.write (64 + 8 * e) (toLe 8 v)) d = accElem m d := by
  unfold accElem
  rw [Mem.read_write_apart _ _ _ _ _ (by rw [length_toLe]; omega)]

theorem accAdd_cons (key : Nat) (m : Mem) (e : Nat × Int) (l : List (Nat × Int)) :
    (accAdd key m (e :: l)).1 = (accAdd key (m.write (64 + 8 * e.1) (toLe 8 (unsigned 64 (accElem m e.1 + e.2)))) l).1 := by
  have hfst (l : List (Nat × Int)) (p q : Mem × List StageWrite) (h : p.1 = q.1) :
      (l.foldl (fun (p : Mem × List StageWrite) e =>
        let v := toLe 8 (unsigned 64 (accElem p.1 e.1 + e.2))
        (p.1.write (64 + 8 * e.1) v, p.2 ++ [⟨key, 64 + 8 * e.1, v⟩])) p).1
        = (l.foldl (fun (p : Mem × List StageWrite) e =>
        let v := toLe 8 (unsigned 64 (accElem p.1 e.1 + e.2))
        (p.1.write (64 + 8 * e.1) v, p.2 ++ [⟨key, 64 + 8 * e.1, v⟩])) q).1 := by
    induction l generalizing p q with
    | nil => exact h
    | cons d l ih => exact ih _ _ (by dsimp only; rw [h])
  exact hfst l _ _ rfl

/-- An element to which no product is added stays. -/
theorem accElem_accAdd_other (key : Nat) (adds : List (Nat × Int)) (m : Mem) (e : Nat) (h : e ∉ adds.map Prod.fst) :
    accElem (accAdd key m adds).1 e = accElem m e := by
  induction adds generalizing m with
  | nil => rfl
  | cons a l ih =>
    simp only [List.map_cons, List.mem_cons, not_or] at h
    rw [accAdd_cons, ih _ h.2, accElem_write_other _ _ _ _ h.1]

theorem accElem_accAdd_mem (key : Nat) (adds : List (Nat × Int)) (m : Mem) (hnodup : (adds.map Prod.fst).Nodup) (e : Nat) (v : Int)
    (h : (e, v) ∈ adds) : accElem (accAdd key m adds).1 e = signed 64 (unsigned 64 (accElem m e + v)) := by
  induction adds generalizing m with
  | nil => cases h
  | cons a l ih =>
    rw [List.map_cons, List.nodup_cons] at hnodup
    rw [accAdd_cons]
    rcases List.mem_cons.1 h with rfl | hl
    · rw [accElem_accAdd_other _ _ _ _ hnodup.1, accElem_write_same]
    · have hne : e ≠ a.1 := fun he => hnodup.1 (he ▸ List.mem_map.2 ⟨_, hl, rfl⟩)
      rw [ih _ hnodup.2 hl, accElem_write_other _ _ _ _ hne]

/-- The header stays. -/
theorem byte_accAdd_header (key : Nat) (adds : List (Nat × Int)) (m : Mem) (b : Nat) (h : b < 64) :
    (accAdd key m adds).1.byte b = m.byte b := by
  induction adds generalizing m with
  | nil => rfl
  | cons a l ih => rw [accAdd_cons, ih, Mem.byte_write_out _ _ _ _ (by omega)]

/-- The values that the last contribution of a step converts, with their codes (R227). -/
def accConverted (J : Job) (m : Mem) : List (W32 × Quant) :=
  let h := m.read 0 64
  (List.range (hRows h * hCols h)).map fun e =>
    let y := Fp.mul (Fp.ofInt (accElem m e)) (Fp.mul (ringScale J (hARing h)) (ringScale J (hDRing h)))
    (y, requantize y (ringRecip J (hGRing h)))

theorem accFinish_last (J : Job) (part key : Nat) (m : Mem)
    (h : hArrived (m.read 0 64) + 1 = hExpected (m.read 0 64)) :
    (accFinish J part key m).1 = [⟨hVer part (hG (m.read 0 64)), 0, (accConverted J m).map fun p => BitVec.ofInt 8 p.2.code⟩,
      ⟨key, 64, zeros (8 * (accConverted J m).length)⟩, ⟨key, 56, toLe 4 0⟩,
      ⟨key, 24, toLe 8 (hConverted (m.read 0 64) + 1)⟩] := by
  unfold accFinish
  rw [if_neg (not_not.2 h)]
  rfl

theorem length_accConverted (J : Job) (m : Mem) :
    (accConverted J m).length = hRows (m.read 0 64) * hCols (m.read 0 64) := by
  simp [accConverted]

theorem accConverted_code (J : Job) (m : Mem) (e : Nat) (he : e < hRows (m.read 0 64) * hCols (m.read 0 64)) :
    ((accConverted J m).map fun p => BitVec.ofInt 8 p.2.code)[e]? = some (BitVec.ofInt 8 (requantize
      (Fp.mul (Fp.ofInt (accElem m e)) (Fp.mul (ringScale J (hARing (m.read 0 64))) (ringScale J (hDRing (m.read 0 64)))))
      (ringRecip J (hGRing (m.read 0 64)))).code) := by
  simp only [accConverted, List.getElem?_map, List.getElem?_range he, Option.map_some]

/-- Settles O19. -/
theorem accumulators : Obligations.Accumulators := by
  refine ⟨fun key m adds hnodup => ⟨fun e v h => accElem_accAdd_mem key adds m hnodup e v h,
    fun e h => accElem_accAdd_other key adds m e h, fun b hb => byte_accAdd_header key adds m b hb⟩, fun J part key m => ?_⟩
  dsimp only
  constructor
  · intro hmore
    unfold accFinish
    exact congrArg Prod.fst (if_pos hmore)
  · intro hlast
    have hfinish := accFinish_last J part key m hlast
    rw [length_accConverted] at hfinish
    refine ⟨⟨hVer part (hG (m.read 0 64)), 0, (accConverted J m).map fun p => BitVec.ofInt 8 p.2.code⟩, ?_, ?_, ?_, ?_⟩
    · exact hfinish
    · rfl
    · rfl
    · dsimp only
      intro e he
      rw [accConverted_code J m e he]

end Sys2Proof.Machine

/-! PROOFS. The update sweep. -/

namespace Sys2Proof.Machine

theorem runSweep_eq {s : State} {q j : Nat} {Q : Queue} {c : Cmd} {J : Job} (hQ : queueAt s q = some Q)
    (hrun : (runningCmd Q fun c => c.op = 7) = some c) (hj : Q.job = some j) (hJ : jobAt s j = some J) :
    runSweep s q =
      let batch := (J.batch + 2 ^ 64 - 1) % 2 ^ 64
      if J.window ≠ .committed then
        finish s q c.uid 0 fun c =>
          { c with sweepRec := some { batch, index := 0, queue := q, status := 0, nonfinite := 0, clippedRows := 0 } }
      else
        let o := sweepAll (sweepIn Q c J) (some (q, c.uid))
        let st := if o.nonfinite = 0 then 0 else 0x0E42
        let ver (arr : Nat) : Nat := hVer Q.part (rH c.bytes (if arr = 0 then 16 else if arr = 1 then 24 else if arr = 2 then 28 else 32))
        let ws := o.writes.map fun w => (⟨ver w.1, w.2.1, w.2.2⟩ : StageWrite)
        finish s q c.uid st fun c =>
          { c with staged := c.staged ++ ws
                   sweepRec := some { batch, index := 0, queue := q, status := st, nonfinite := o.nonfinite, clippedRows := o.clipped.length } } := by
  unfold runSweep
  rw [hQ]
  dsimp only
  rw [hrun, hj]
  dsimp only [Option.bind]
  rw [hJ]

/-- A command of a queue that finishes: its own entry in its queue and its engines change, and nothing else. -/
theorem finish_alone {s : State} {q : Nat} {Q : Queue} {c : Cmd} {f : Cmd → Cmd} (st : Status) (hQ : queueAt s q = some Q)
    (hc : cmdAt Q c.uid = some c) (hf : ∀ c, (f c).uid = c.uid) :
    let t := finish s q c.uid st f
    t = { s with cores := t.cores, queues := t.queues } ∧ (∀ p, p ≠ q → queueAt t p = queueAt s p)
      ∧ ∃ Q', queueAt t q = some Q' ∧ cmdAt Q' c.uid = some { f c with state := .finished st } := by
  obtain ⟨Q', hQ', hc'⟩ := finish_finished s q c.uid st f Q c hf hQ hc
  exact ⟨(finish_only s q c.uid st f).eq_overlay, fun p hp => finish_queueAt_other s q c.uid st f hp, Q', hQ', hc'⟩

/-- Settles O21. -/
theorem sweep : Obligations.Sweep := by
  intro s q j Q c J hQ hrun hc hj hJ hpoison o handle done
  have heq := runSweep_eq hQ hrun hj hJ
  have hexec : exec (.sweep q) s = .next (runSweep s q) := by
    show Host.Outcome.next (unlessPoisoned s q ((queueAt s q).bind fun Q => (runningCmd Q fun c => c.op = 7).map fun c => (Q, c)) _) = _
    rw [hQ, Option.bind_some, hrun, Option.map_some, unlessPoisoned_none hpoison]
  refine ⟨fun hwin => ⟨_, hexec, ?_⟩, fun hwin => ⟨_, hexec, ?_⟩⟩
  · rw [heq]
    dsimp only
    rw [if_neg (not_not.2 hwin)]
    obtain ⟨hframe, hother, Q', hQ', hc'⟩ := finish_alone (f := fun c =>
      { c with staged := c.staged ++ o.writes.map fun w => ⟨hVer Q.part (handle w.1), w.2.1, w.2.2⟩
               sweepRec := some { batch := (J.batch + 2 ^ 64 - 1) % 2 ^ 64, index := 0, queue := q
                                  status := if o.nonfinite = 0 then 0 else 0x0E42, nonfinite := o.nonfinite
                                  clippedRows := o.clipped.length } })
      (if o.nonfinite = 0 then 0 else 0x0E42) hQ hc fun _ => rfl
    exact ⟨hframe, hother, Q', _, hQ', hc', rfl, rfl, rfl⟩
  · rw [heq]
    dsimp only
    rw [if_pos hwin]
    obtain ⟨hframe, hother, Q', hQ', hc'⟩ := finish_alone (f := fun c =>
      { c with sweepRec := some { batch := (J.batch + 2 ^ 64 - 1) % 2 ^ 64, index := 0, queue := q
                                  status := 0, nonfinite := 0, clippedRows := 0 } }) 0 hQ hc fun _ => rfl
    exact ⟨hframe, hother, Q', _, hQ', hc', rfl, (List.append_nil _).symm, rfl⟩

end Sys2Proof.Machine

/-! PROOFS. MOVE. -/

namespace Sys2Proof.Machine

/-! ## The selected MOVE -/

theorem moveCmd_some {s : State} {q kind : Nat} {Q : Queue} {c : Cmd} (h : moveCmd s q kind = some (Q, c)) :
    queueAt s q = some Q := by
  unfold moveCmd at h
  split at h
  · cases h
  · next Q' hQ =>
    obtain ⟨_, _, heq⟩ := Option.map_eq_some_iff.1 h
    cases heq
    exact hQ

/-- Both instructions run the selected MOVE, where no poisoned word is met. -/
theorem runs_move {s : State} {q kind : Nat} {Q : Queue} {c : Cmd} {P : State → Prop} (hmove : moveCmd s q kind = some (Q, c))
    (hpoison : poisonMet s Q c = none) (h : P (runMove s q kind)) :
    ∀ i ∈ [(Instr.moveCopy q, 0), (Instr.moveIntegerAdd q, 1)], kind = i.2 → Runs i.1 s P := by
  intro i hi hk
  have hrun : unlessPoisoned s q (moveCmd s q kind) (runMove s q kind) = runMove s q kind := by
    rw [hmove, unlessPoisoned_none hpoison]
  simp only [List.mem_cons, List.not_mem_nil, or_false] at hi
  rcases hi with rfl | rfl <;> subst hk <;> exact ⟨_, rfl, by rwa [hrun]⟩

/-! ## On this module -/

/-- The source of a MOVE. -/
def moveSource (s : State) (Q : Queue) (c : Cmd) : Mem :=
  if mSrcModule c.bytes = 0 then seen Q c (mSrc c.bytes)
  else Mem.write [] (mSrcOff c.bytes) (freeBytes s (mRows c.bytes * mSrcStride c.bytes + mLength c.bytes))

/-- The state once the source's bytes are there. -/
def moveDrawn (s : State) (c : Cmd) : State :=
  if mSrcModule c.bytes = 0 then s else drawn s (mRows c.bytes * mSrcStride c.bytes + mLength c.bytes)

/-- What a MOVE onto this module makes of its destination, and what it stages for it. -/
def moveRows (s : State) (Q : Queue) (c : Cmd) (kind : Nat) : Mem × List StageWrite :=
  (List.range (mRows c.bytes)).foldl (moveRow (kind = 1) c.bytes
    (mSrcModule c.bytes = 0 && mSrc c.bytes % 2 ^ 20 = mDst c.bytes % 2 ^ 20) (moveSource s Q c) (hVer Q.part (mDst c.bytes)))
    (viewOf Q c (hVer Q.part (mDst c.bytes)), [])

/-- Whether a MOVE adds into a gradient accumulator. -/
def moveIntoAcc (s : State) (Q : Queue) (c : Cmd) (kind : Nat) : Bool :=
  kind = 1 && (usedBuf s c (verBuf (hVer Q.part (mDst c.bytes)))).any fun b => b.tier = 1 && b.cls = 3

theorem moveDrawn_only (s : State) (c : Cmd) : Only [.fresh] s (moveDrawn s c) := by
  unfold moveDrawn
  exact .ite (.refl _) (drawn_only ..)

theorem runMove_here {s : State} {q kind : Nat} {Q : Queue} {c : Cmd} (hmove : moveCmd s q kind = some (Q, c))
    (hdst : mDstModule c.bytes = 0) :
    runMove s q kind =
      match Q.job.bind (jobAt (moveDrawn s c)) with
      | some J =>
        let acc := if moveIntoAcc (moveDrawn s c) Q c kind then accFinish J Q.part (hVer Q.part (mDst c.bytes)) (moveRows s Q c kind).1
          else ([], 0, [])
        finish (moveDrawn s c) q c.uid 0 fun d =>
          { d with staged := d.staged ++ (moveRows s Q c kind).2 ++ acc.1, nf := d.nf + acc.2.1, obs := d.obs ++ acc.2.2 }
      | none => finish (moveDrawn s c) q c.uid 0 fun d => { d with staged := d.staged ++ (moveRows s Q c kind).2 } := by
  unfold runMove
  rw [hmove]
  dsimp only
  rw [if_neg (not_not.2 hdst)]
  rfl

/-- What a MOVE onto this module leaves: its command finished with `ws` staged, its engines free, the source's bytes drawn. -/
theorem finish_move {s : State} {q : Nat} {Q : Queue} {c : Cmd} {f : Cmd → Cmd} {ws : List StageWrite} (hQ : queueAt s q = some Q)
    (hc : cmdAt Q c.uid = some c) (hf : ∀ c, (f c).uid = c.uid) (hws : (f c).staged = c.staged ++ ws) :
    let t := finish (moveDrawn s c) q c.uid 0 f
    t = { s with cores := t.cores, queues := t.queues, fresh := t.fresh }
      ∧ (mSrcModule c.bytes = 0 → t.fresh = s.fresh) ∧ (∀ p, p ≠ q → queueAt t p = queueAt s p)
      ∧ ∃ Q' c', queueAt t q = some Q' ∧ cmdAt Q' c.uid = some c' ∧ c'.state = .finished 0 ∧ c'.staged = c.staged ++ ws := by
  have hdraw := moveDrawn_only s c
  have hfinish := finish_only (moveDrawn s c) q c.uid 0 f
  obtain ⟨_, hother, Q', hQ', hc'⟩ := finish_alone 0 ((hdraw.queueAt (by decide) q).trans hQ) hc hf
  refine ⟨(hdraw.trans hfinish).eq_overlay, fun hsrc => ?_, fun p hp => (hother p hp).trans (hdraw.queueAt (by decide) p),
    Q', _, hQ', hc', rfl, hws⟩
  rw [hfinish.same .fresh (by decide)]
  exact congrArg State.fresh (if_pos hsrc)

theorem runMove_stages {s : State} {q kind : Nat} {Q : Queue} {c : Cmd} (hmove : moveCmd s q kind = some (Q, c))
    (hc : cmdAt Q c.uid = some c) (hdst : mDstModule c.bytes = 0) (hacc : moveIntoAcc s Q c kind = false) :
    let t := runMove s q kind
    t = { s with cores := t.cores, queues := t.queues, fresh := t.fresh }
      ∧ (mSrcModule c.bytes = 0 → t.fresh = s.fresh) ∧ (∀ p, p ≠ q → queueAt t p = queueAt s p)
      ∧ ∃ Q' c', queueAt t q = some Q' ∧ cmdAt Q' c.uid = some c' ∧ c'.state = .finished 0
        ∧ c'.staged = c.staged ++ (moveRows s Q c kind).2 := by
  have hQ := moveCmd_some hmove
  have hacc' : moveIntoAcc (moveDrawn s c) Q c kind = false := by
    rw [← hacc]
    unfold moveIntoAcc usedBuf
    rw [(moveDrawn_only s c).same .bufs (by decide)]
  rw [runMove_here hmove hdst, hacc']
  cases Q.job.bind (jobAt (moveDrawn s c)) with
  | none => exact finish_move hQ hc (fun _ => rfl) rfl
  | some J => exact finish_move hQ hc (fun _ => rfl) (List.append_nil _)

theorem runMove_accumulates {s : State} {q kind j : Nat} {Q : Queue} {c : Cmd} {J : Job} (hmove : moveCmd s q kind = some (Q, c))
    (hc : cmdAt Q c.uid = some c) (hdst : mDstModule c.bytes = 0) (hacc : moveIntoAcc s Q c kind = true)
    (hj : Q.job = some j) (hJ : jobAt s j = some J) :
    let t := runMove s q kind
    t = { s with cores := t.cores, queues := t.queues, fresh := t.fresh }
      ∧ (mSrcModule c.bytes = 0 → t.fresh = s.fresh) ∧ (∀ p, p ≠ q → queueAt t p = queueAt s p)
      ∧ ∃ Q' c', queueAt t q = some Q' ∧ cmdAt Q' c.uid = some c' ∧ c'.state = .finished 0
        ∧ c'.staged = c.staged ++ ((moveRows s Q c kind).2
          ++ (accFinish J Q.part (hVer Q.part (mDst c.bytes)) (moveRows s Q c kind).1).1) := by
  have hacc' : moveIntoAcc (moveDrawn s c) Q c kind = true := by
    rw [← hacc]
    unfold moveIntoAcc usedBuf
    rw [(moveDrawn_only s c).same .bufs (by decide)]
  have hJ' : Q.job.bind (jobAt (moveDrawn s c)) = some J := by
    rw [hj, Option.bind_some, (moveDrawn_only s c).jobAt (by decide), hJ]
  rw [runMove_here hmove hdst, hJ', hacc']
  dsimp only
  rw [if_pos rfl]
  generalize accFinish J Q.part (hVer Q.part (mDst c.bytes)) (moveRows s Q c kind).1 = acc
  exact finish_move (moveCmd_some hmove) hc (fun _ => rfl) (List.append_assoc ..)

/-- The rows of a MOVE collect one write each. -/
theorem foldl_snd_append {α β γ : Type} {f : γ × List β → α → γ × List β} {g : α → β}
    (h : ∀ acc a, (f acc a).2 = acc.2 ++ [g a]) (l : List α) (acc : γ × List β) : (l.foldl f acc).2 = acc.2 ++ l.map g := by
  induction l generalizing acc with
  | nil => simp
  | cons a l ih => rw [List.foldl_cons, ih, h, List.map_cons, List.append_assoc, List.singleton_append]

/-! ## To another module -/

theorem foldl_sendFlits_trunks {α : Type} (a b e f g : α → Nat) (l : List α) (s : State) :
    let t := l.foldl (fun s p => sendFlits s (a p) (b p) (e p) (f p) (g p)) s
    t = { s with win := { s.win with trunks := t.win.trunks } } := by
  induction l generalizing s with
  | nil => rfl
  | cons p l ih =>
    dsimp only
    rw [List.foldl_cons, ih, sendFlits_eq]

/-- The state in which the packets of a MOVE to another module are on their way. -/
def moveSent (s : State) (j : Nat) (J : Job) (Q : Queue) (c : Cmd) (kind : Nat) : State :=
  let pkts := (movePackets J j c (seen Q c (mSrc c.bytes))).map fun p => (decide (kind = 1), p)
  pkts.foldl (fun t p => sendFlits t 0 (if p.1 then 2 else 1) (jobModule s J (mDstModule c.bytes - 1)) p.2.data.length (moveDeadline Q c))
    { s with win := { s.win with out := s.win.out ++ pkts } }

theorem moveSent_only (s : State) (j : Nat) (J : Job) (Q : Queue) (c : Cmd) (kind : Nat) : Only [.win] s (moveSent s j J Q c kind) := by
  unfold moveSent
  exact .mono (by rfl) <| (setWin_only _ _).trans <| .foldl (fun _ _ => sendFlits_only ..) _ _

theorem moveSent_out (s : State) (j : Nat) (J : Job) (Q : Queue) (c : Cmd) (kind : Nat) : (moveSent s j J Q c kind).win.out
    = s.win.out ++ (movePackets J j c (seen Q c (mSrc c.bytes))).map fun p => (decide (kind = 1), p) := by
  unfold moveSent
  dsimp only
  rw [foldl_sendFlits_trunks (fun _ => 0) (fun p : Bool × RemotePkt => if p.1 then 2 else 1) (fun _ => _) (fun p => p.2.data.length)
    (fun _ => moveDeadline Q c)]

theorem runMove_away {s : State} {q j kind : Nat} {Q : Queue} {c : Cmd} {J : Job} (hmove : moveCmd s q kind = some (Q, c))
    (hsrc : mSrcModule c.bytes = 0) (hdst : mDstModule c.bytes ≠ 0) (hj : Q.job = some j) (hJ : jobAt s j = some J) :
    runMove s q kind = finish (moveSent s j J Q c kind) q c.uid 0 fun d => { d with acked := false } := by
  unfold runMove
  rw [hmove]
  dsimp only
  rw [if_pos hdst, if_pos hsrc, if_pos hsrc, hj, Option.bind_some, hJ]
  rfl

theorem length_movePackets (J : Job) (j : Nat) (c : Cmd) (src : Mem) : (movePackets J j c src).length = mRows c.bytes := by
  simp [movePackets]

/-! ## Acknowledgement -/

/-- A stall counts its beats under its cause. -/
theorem stall_counted (s : State) (cls n : Nat) : Counted s (stall s cls 5 n) (0x6400 + cls) 5 n := by
  unfold Counted stall dnum
  rw [dget_bump_other]
  · exact dnum_bump_self ..
  · unfold dkey
    omega

theorem remoteAck_eq {s : State} {q : Nat} {Q : Queue} {c : Cmd} (hQ : queueAt s q = some Q)
    (hfind : (Q.cmds.find? fun c => !c.acked) = some c) :
    remoteAck s q = updCmd (lateFabric s q Q c) q c.uid fun c => { c with acked := true } := by
  unfold remoteAck
  rw [hQ, Option.bind_some, hfind]
  rfl

theorem unreachable_eq {s : State} {q : Nat} {Q : Queue} {c : Cmd} (hQ : queueAt s q = some Q)
    (hfind : (Q.cmds.find? fun c => c.remote && c.state ≠ .fetched && !c.failed) = some c) :
    unreachable s q = fail s q c.uid 0x0A01 := by
  unfold unreachable
  rw [hQ, Option.bind_some, hfind]

/-- The trunk through which a remote MOVE went delivers late. -/
theorem lateFabric_of_late {s : State} {q : Nat} {Q : Queue} {c : Cmd} {d : Nat} (hlate : ackPlanned s q Q c < s.now)
    (htrunk : firstTrunk s (remoteModule s q c) = some d) (hports : (livePorts s d).length < 4) :
    lateFabric s q Q c = stall s (mClass c.bytes) 5 (s.now - ackPlanned s q Q c) := by
  unfold lateFabric
  rw [htrunk]
  simp [hlate, hports]

theorem lateFabric_of_timely {s : State} {q : Nat} {Q : Queue} {c : Cmd} (h : ¬(ackPlanned s q Q c < s.now
    ∧ ∃ d, firstTrunk s (remoteModule s q c) = some d ∧ (livePorts s d).length < 4)) : lateFabric s q Q c = s := by
  unfold lateFabric
  refine if_neg fun hcond => h ?_
  obtain ⟨hshort, hlate⟩ := Bool.and_eq_true_iff.1 hcond
  obtain ⟨d, hd, hports⟩ := Option.any_eq_true .. |>.1 hshort
  exact ⟨of_decide_eq_true hlate, d, hd, of_decide_eq_true hports⟩

/-- Settles O20. -/
theorem moves : Obligations.Moves := by
  refine ⟨fun s q kind Q c hmove hc hpoison hdst => ?_, fun s q j kind Q c J hmove hc hj hJ hsrc hdst hpoison => ?_,
    fun s q Q c hQ hfind hc => ?_, fun s q Q c hQ hfind => ?_⟩
  · intro r far here src ver same acc out done
    refine ⟨fun i hi hk => ⟨fun hacc => ?_, fun j J hacc hj hJ => ?_⟩, fun hk hsame => ?_, fun hk hrows hsame => ?_⟩
    · exact runs_move hmove hpoison (runMove_stages hmove hc hdst hacc) i hi hk
    · exact runs_move hmove hpoison (runMove_accumulates hmove hc hdst hacc hj hJ) i hi hk
    · subst hk
      have hrows := foldl_snd_append (f := moveRow (decide (0 = 1)) r same src ver)
        (g := fun i => ⟨ver, mDstOff r + i * mDstStride r, src.read (mSrcOff r + i * mSrcStride r) (mLength r)⟩)
        (fun acc i => by rw [hsame]; rfl) (List.range (mRows r)) (viewOf Q c ver, [])
      exact hrows
    · subst hk
      show ((List.range (mRows r)).foldl (moveRow (decide (1 = 1)) r same src ver) (viewOf Q c ver, [])).2 = _
      rw [hrows, hsame]
      simp [moveRow, List.range_succ]
  · refine runs_move hmove hpoison ?_
    have hsent := moveSent_only s j J Q c kind
    have hout := moveSent_out s j J Q c kind
    obtain ⟨hframe, _, Q', hQ', hc'⟩ := finish_alone (s := moveSent s j J Q c kind) (f := fun d => { d with acked := false }) 0
      ((hsent.queueAt (by decide) q).trans (moveCmd_some hmove)) hc fun _ => rfl
    have hfinish := finish_only (moveSent s j J Q c kind) q c.uid 0 fun d => { d with acked := false }
    rw [runMove_away hmove hsrc hdst hj hJ]
    exact ⟨(hsent.trans hfinish).eq_overlay, (congrArg Windway.out (hfinish.same .win (by decide))).trans hout,
      length_movePackets .., Q', _, hQ', hc', rfl, rfl⟩
  · intro late
    refine ⟨_, rfl, ?_⟩
    rw [remoteAck_eq hQ hfind]
    have hlater := lateFabric_only s q Q c
    have hupd := updCmd_only (lateFabric s q Q c) q c.uid fun c => { c with acked := true }
    refine ⟨(hlater.trans hupd).eq_overlay, ⟨_, updCmd_queue _ q c.uid _ Q ((hlater.queueAt (by decide) q).trans hQ),
      cmdAt_map_self _ _ _ c (fun _ => rfl) hc⟩, fun htimely => ?_, fun ⟨hbeats, d, htrunk, hports⟩ => ?_⟩
    · rw [hupd.same .dict (by decide), lateFabric_of_timely htimely]
    · have hcount := stall_counted s (mClass c.bytes) (s.now - ackPlanned s q Q c)
      rw [← lateFabric_of_late hbeats htrunk hports] at hcount
      exact (hupd.dnum (by decide) _ _).trans hcount
  · refine ⟨_, rfl, ?_⟩
    rw [unreachable_eq hQ hfind]
    obtain ⟨d, hd⟩ := cmdAt_of_mem (List.mem_of_find?_eq_some hfind)
    exact fail_failed s q c.uid 0x0A01 Q d hQ hd

end Sys2Proof.Machine

/-! PROOFS. What a commit and a failure of one queue leave of the other queues and of the cores. -/

namespace Sys2Proof.Machine

/-! ## The other queues -/

/-- Every queue but `q` is as before. -/
structure OtherQueues (q : Nat) (s t : State) : Prop where
  same : ∀ p, p ≠ q → queueAt t p = queueAt s p

namespace OtherQueues

variable {q : Nat} {s t u : State}

theorem refl (s : State) : OtherQueues q s s := ⟨fun _ _ => rfl⟩

theorem trans (h : OtherQueues q s t) (k : OtherQueues q t u) : OtherQueues q s u :=
  ⟨fun p hp => (k.same p hp).trans (h.same p hp)⟩

theorem of_queues (h : t.queues = s.queues) : OtherQueues q s t :=
  ⟨fun p _ => queueAt_of_queues s t p h⟩

theorem of_only {F : List StateField} (h : Only F s t) (hF : StateField.queues ∉ F) : OtherQueues q s t :=
  ⟨fun p _ => h.queueAt hF p⟩

theorem ite {c : Prop} [Decidable c] (h : OtherQueues q s t) (k : OtherQueues q s u) : OtherQueues q s (if c then t else u) := by
  split
  · exact h
  · exact k

end OtherQueues

theorem updQueue_others (s : State) (q : Nat) (f : Queue → Queue) : OtherQueues q s (updQueue s q f) :=
  ⟨fun p hp => by rw [queueAt_updQueue, if_neg hp]⟩

theorem updCmd_others (s : State) (q uid : Nat) (f : Cmd → Cmd) : OtherQueues q s (updCmd s q uid f) := updQueue_others ..

theorem putCompletion_others (s : State) (q : Nat) (c : Cmd) (st : Status) : OtherQueues q s (putCompletion s q c st) := by
  unfold putCompletion
  split
  · exact .refl s
  · next Q _ =>
    extract_lets addr bs s1 s2
    have h1 : OtherQueues q s s1 := .ite (.of_queues (hbmWrite_queues ..)) (.of_queues rfl)
    have h2 : OtherQueues q s s2 := h1.trans (updQueue_others ..)
    exact .ite (h2.trans (.of_queues rfl)) h2

theorem holdQueue_others (s : State) (q : Nat) : OtherQueues q s (holdQueue s q) := by
  unfold holdQueue
  split
  · exact .refl s
  · refine .ite (.refl s) ?_
    extract_lets s1
    have h1 : OtherQueues q s s1 := updQueue_others ..
    exact .ite (h1.trans (.of_queues (beginSave_queues ..))) h1

theorem stopQueue_others (s : State) (q : Nat) (st : Status) : OtherQueues q s (stopQueue s q st) :=
  (updQueue_others ..).trans (holdQueue_others ..)

theorem offence_others (s : State) (q : Nat) (cmd : Option Nat) : OtherQueues q s (offence s q cmd) := updQueue_others ..

theorem logSweep_others (s : State) (q : Nat) (r : SweepRec) : OtherQueues q s (logSweep s q r) := by
  unfold logSweep
  split
  · exact .refl s
  · extract_lets s1
    have h1 : OtherQueues q s s1 := updQueue_others ..
    split
    · exact h1
    · exact h1.trans (.of_queues rfl)

theorem commitRuns_others (fuel : Nat) (s : State) (q : Nat) : OtherQueues q s (commitRuns fuel s q) := by
  induction fuel generalizing s with
  | zero => exact .refl s
  | succ n ih =>
    unfold commitRuns
    split
    · exact .refl s
    · split
      · exact .refl s
      · next r _ _ =>
        refine .ite (.refl s) ?_
        extract_lets s1 s2
        have h1 : OtherQueues q s s1 := .of_queues (trace_queues ..)
        have h2 : OtherQueues q s s2 := (h1.trans (putCompletion_others ..)).trans (updQueue_others ..)
        exact ((h2.trans (holdQueue_others ..)).trans (.of_queues (releaseHeld_queues _))).trans (ih _)

theorem commitRun_others (s : State) (q : Nat) : OtherQueues q s (commitRun s q) := by
  unfold commitRun
  split
  · exact .refl s
  · exact commitRuns_others ..

/-- A commit changes no other queue. -/
theorem commitOne_others (s : State) (q : Nat) (c : Cmd) (st : Status) : OtherQueues q s (commitOne s q c st) := by
  unfold commitOne
  extract_lets s1 s2 s3 s4 s5 s6 s7 s8 s9
  have h1 : OtherQueues q s s1 := .of_queues (foldl_queues _ (fun s w => storeStaged_queues s w) _ _)
  have h2 : OtherQueues q s1 s2 := .of_queues (by simp only [s2]; split <;> rfl)
  have h3 : OtherQueues q s2 s3 := by
    simp only [s3]
    split
    · exact .refl _
    · exact logSweep_others ..
  have h4 : OtherQueues q s3 s4 := .ite (.of_queues rfl) (.refl _)
  have h5 : OtherQueues q s4 s5 := .ite (.of_queues rfl) (.refl _)
  have h6 : OtherQueues q s5 s6 := .of_queues (trace_queues ..)
  have h7 : OtherQueues q s6 s7 := .ite (putCompletion_others ..) (.refl _)
  have h8 : OtherQueues q s7 s8 := .of_queues (tellRemote_queues ..)
  have h9 : OtherQueues q s8 s9 := updQueue_others ..
  have h10 : OtherQueues q s9 (releaseHeld s9) := .of_queues (releaseHeld_queues _)
  exact ((((((((h1.trans h2).trans h3).trans h4).trans h5).trans h6).trans h7).trans h8).trans h9).trans
    (h10.trans (commitRun_others ..))

/-- A failure changes no other queue. -/
theorem failCmd_others (s : State) (q uid : Nat) (st : Status) (stops : Bool) : OtherQueues q s (failCmd s q uid st stops) := by
  unfold failCmd
  split
  · exact .refl s
  · next c _ =>
    extract_lets s1 s2 s3 s4 s5
    have h1 : OtherQueues q s s1 := .of_queues (by simp [s1])
    have h2 : OtherQueues q s1 s2 := .ite (.of_queues (countIssued_queues ..)) (.refl _)
    have h3 : OtherQueues q s2 s3 := updCmd_others ..
    have h4 : OtherQueues q s3 s4 := putCompletion_others ..
    have h5 : OtherQueues q s4 s5 := .ite (offence_others ..) (.refl _)
    have h6 : OtherQueues q s5 (if stops then stopQueue s5 q st else s5) := .ite (stopQueue_others ..) (.refl _)
    exact (((((h1.trans h2).trans h3).trans h4).trans h5).trans h6).trans (.of_queues (releaseHeld_queues _))

/-! ## The cores -/

/-- The commit of a command that no engine runs changes no core. -/
theorem commitOne_cores (s : State) (q : Nat) (c : Cmd) (st : Status) (hop : opEngine c.op = false) :
    (commitOne s q c st).cores = s.cores := by
  unfold commitOne
  extract_lets s1 s2 s3 s4 s5 s6 s7 s8 s9
  have h1 : Only [.bufs, .tiered, .rel] s s1 := .foldl (fun _ _ => storeStaged_only ..) _ _
  have h2 : Only [.jobs] s1 s2 := by
    simp only [s2]
    split
    · exact .mono (by rfl) <| .refl _
    · exact updJob_only ..
  have h3 : Only [.jobs, .queues] s2 s3 := by
    simp only [s3]
    split
    · exact .mono (by rfl) <| .refl _
    · exact .mono (by rfl) <| logSweep_only ..
  have h4 : Only [.dict] s3 s4 := .mono (by rfl) <| .ite (bump_only ..) (.refl _)
  have h5 : s5 = s4 := if_neg (by rw [hop]; decide)
  have h6 : Only [.dict, .tel, .hostOut] s5 s6 := trace_only ..
  have h7 : Only [.tel, .queues, .bufs, .tiered, .rel, .hbm, .hostOut] s6 s7 := .mono (by rfl) <| .ite (putCompletion_only ..) (.refl _)
  have h8 : Only [.win] s7 s8 := tellRemote_only ..
  have h9 : Only [.queues] s8 s9 := updQueue_only ..
  rw [h5] at h6
  exact (((((((((h1.trans h2).trans h3).trans h4).trans h6).trans h7).trans h8).trans h9).trans (releaseHeld_only s9)).trans
    (commitRun_only _ q)).same .cores (by decide)

end Sys2Proof.Machine

/-! PROOFS. Sync objects: signals, waits, locks, and the waiters that a change lets go on. -/

namespace Sys2Proof.Machine

/-! ## Commits that follow one another -/

theorem Committed.gone {Q : Queue} {t : State} {q : Nat} {c : Cmd} (h : Committed Q t q c) : Gone t q c.uid := by
  obtain ⟨Q', hQ', hc, _⟩ := h
  exact ⟨Q', hQ', hc⟩

/-- A commit removes no queue. -/
theorem commitOne_isSome (s : State) (p : Nat) (c : Cmd) (st : Status) {q : Nat} (h : (queueAt s q).isSome = true) :
    (queueAt (commitOne s p c st) q).isSome = true := by
  by_cases hp : q = p
  · subst hp
    obtain ⟨Q, hQ⟩ := Option.isSome_iff_exists.1 h
    obtain ⟨Q', hQ', _⟩ := commitOne_committed s q c st Q hQ
    rw [hQ']
    rfl
  · rwa [(commitOne_others s p c st).same q hp]

theorem reexamineOne_isSome (obj : Nat) (s : State) (w : Waiter) {q : Nat} (h : (queueAt s q).isSome = true) :
    (queueAt (reexamineOne obj s w) q).isSome = true := by
  unfold reexamineOne
  split
  · split
    · exact h
    · split
      · exact h
      · exact commitOne_isSome _ _ _ _ h
  · exact h

theorem foldl_reexamineOne_isSome (obj : Nat) (l : List Waiter) (s : State) {q : Nat} (h : (queueAt s q).isSome = true) :
    (queueAt (l.foldl (reexamineOne obj) s) q).isSome = true :=
  foldl_keeps (fun s => (queueAt s q).isSome = true) _ (fun s w hs => reexamineOne_isSome obj s w hs) l s h

theorem commitOne_gone (s : State) (q : Nat) (c : Cmd) (st : Status) (h : (queueAt s q).isSome = true) :
    Gone (commitOne s q c st) q c.uid := by
  obtain ⟨Q, hQ⟩ := Option.isSome_iff_exists.1 h
  exact (commitOne_committed s q c st Q hQ).gone

/-! ## Objects -/

@[simp] theorem syncAt_putSync_self (s : State) (obj : Nat) (o : SyncObj) : syncAt (putSync s obj o) obj = some o :=
  FMap.get?_set_self ..

theorem syncAt_putSync_other (s : State) {obj k : Nat} (o : SyncObj) (h : k ≠ obj) : syncAt (putSync s obj o) k = syncAt s k :=
  FMap.get?_set_other _ _ _ _ h

theorem commitOne_syncAt (s : State) (q : Nat) (c : Cmd) (st : Status) (k : Nat) : syncAt (commitOne s q c st) k = syncAt s k :=
  (commitOne_only s q c st).syncAt (by decide) k

/-- The commit of a SYNC behind the change of its object. -/
theorem commitOne_syncFrame (s : State) (q obj : Nat) (c : Cmd) (o : SyncObj) (st : Status) (hop : c.op = 5) :
    SyncFrame s (commitOne (putSync s obj o) q c st) q obj :=
  ⟨fun k hk => (commitOne_syncAt ..).trans (syncAt_putSync_other s o hk),
    (commitOne_others (putSync s obj o) q c st).same,
    commitOne_cores (putSync s obj o) q c st (by rw [hop]; rfl),
    (commitOne_only (putSync s obj o) q c st).same .now (by decide)⟩

/-! ## The SYNC that a row runs -/

theorem syncCmd_some {s : State} {q op : Nat} {Q : Queue} {c : Cmd} (h : syncCmd s q op = some (Q, c)) :
    queueAt s q = some Q ∧ c ∈ Q.cmds ∧ c.op = 5 ∧ yOp c.bytes = op := by
  unfold syncCmd at h
  split at h
  · cases h
  · next Q' hQ =>
    split at h
    · cases h
    · next c' hfind =>
      split at h
      · next hcond =>
        cases h
        simp only [Bool.and_eq_true, decide_eq_true_eq] at hcond
        exact ⟨hQ, List.mem_of_find?_eq_some hfind, hcond.1.1.1.1, hcond.1.1.1.2⟩
      · cases h

/-- A change of an object that its waiters see: they are examined in their order. -/
theorem reexamine_putSync (s : State) (obj : Nat) (o : SyncObj) :
    reexamine (putSync s obj o) obj = o.waiters.foldl (reexamineOne obj) (putSync s obj o) := by
  unfold reexamine
  rw [syncAt_putSync_self]

/-! ## Signals -/

section Signal

variable {s s' : State} {q op : Nat} {Q : Queue} {c : Cmd} {J : Job}

theorem runSignal_held (h : syncCmd s q op = some (Q, c)) (hwin : inWindow Q c = true) : runSignal s q op = finish s q c.uid 0 id := by
  unfold runSignal
  rw [h]
  exact if_pos hwin

theorem runSignal_overflow (h : syncCmd s q op = some (Q, c)) (hwin : inWindow Q c = false)
    (heffect : signalEffect s Q c = none) : runSignal s q op = fail s q c.uid 0x0504 := by
  unfold runSignal
  rw [h]
  dsimp only
  rw [hwin, heffect]
  rfl

theorem runSignal_sent (h : syncCmd s q op = some (Q, c)) (hwin : inWindow Q c = false)
    (heffect : signalEffect s Q c = some s') (hremote : remoteJob s Q c = some J) :
    runSignal s q op = finish s' q c.uid 0 fun d =>
      { d with heldTo := s.now + 160 * torusHops s (moduleId s) (jobModule s J (yModule c.bytes)) } := by
  unfold runSignal
  rw [h]
  dsimp only
  rw [hwin, heffect, hremote]
  rfl

theorem runSignal_applied (h : syncCmd s q op = some (Q, c)) (hwin : inWindow Q c = false)
    (heffect : signalEffect s Q c = some s') (hremote : remoteJob s Q c = none) : runSignal s q op = commitOne s' q c 0 := by
  unfold runSignal
  rw [h]
  dsimp only
  rw [hwin, heffect, hremote]
  rfl

end Signal

theorem signalEffect_here {s : State} {Q : Queue} {c : Cmd} {obj : Nat} (hremote : remoteJob s Q c = none)
    (htarget : syncTarget s Q c = some obj) : signalEffect s Q c = applyChange s obj (yOp c.bytes) (yValue c.bytes) := by
  unfold signalEffect
  rw [hremote, htarget]

/-- A signal inside an open window finishes. -/
theorem runSignal_inWindow {s : State} {q op : Nat} {Q : Queue} {c : Cmd} (h : syncCmd s q op = some (Q, c))
    (hwin : inWindow Q c = true) :
    let t := runSignal s q op
    t = { s with cores := t.cores, queues := t.queues } ∧ Finished t q c.uid 0 ∧ ∀ p, p ≠ q → queueAt t p = queueAt s p := by
  obtain ⟨hQ, hmem, _⟩ := syncCmd_some h
  obtain ⟨d, hd⟩ := cmdAt_of_mem hmem
  rw [runSignal_held h hwin]
  obtain ⟨Q', hQ', hd'⟩ := finish_finished s q c.uid 0 id Q d (fun _ => rfl) hQ hd
  exact ⟨(finish_only s q c.uid 0 id).eq_overlay, ⟨Q', _, hQ', hd', rfl⟩,
    fun p hp => finish_queueAt_other s q c.uid 0 id hp⟩

/-- A signal whose object takes the value `o'`: its waiters are examined, and the command commits. -/
theorem runSignal_took {s : State} {q op obj : Nat} {Q : Queue} {c : Cmd} {o' : SyncObj} (h : syncCmd s q op = some (Q, c))
    (hwin : inWindow Q c = false) (hremote : remoteJob s Q c = none) (htarget : syncTarget s Q c = some obj)
    (hchange : applyChange s obj op (yValue c.bytes) = some (reexamine (putSync s obj o') obj)) :
    let t := runSignal s q op
    t = commitOne (o'.waiters.foldl (reexamineOne obj) (putSync s obj o')) q c 0 ∧ Gone t q c.uid
      ∧ (o'.waiters = [] → Committed Q t q c ∧ syncAt t obj = some o' ∧ SyncFrame s t q obj) := by
  obtain ⟨hQ, _, hop, hyop⟩ := syncCmd_some h
  have hQ' : queueAt (putSync s obj o') q = some Q := hQ
  have heq : runSignal s q op = commitOne (o'.waiters.foldl (reexamineOne obj) (putSync s obj o')) q c 0 := by
    rw [← reexamine_putSync]
    exact runSignal_applied h hwin (by rw [signalEffect_here hremote htarget, hyop, hchange]) hremote
  dsimp only
  rw [heq]
  refine ⟨rfl, commitOne_gone _ _ _ _ (foldl_reexamineOne_isSome _ _ _ (by rw [hQ']; rfl)), fun hnone => ?_⟩
  rw [hnone]
  exact ⟨commitOne_committed _ q c 0 Q hQ', (commitOne_syncAt ..).trans (syncAt_putSync_self ..),
    commitOne_syncFrame s q obj c o' 0 hop⟩

theorem applyChange_add {s : State} {obj v : Nat} {o : SyncObj} (ho : syncAt s obj = some o) (hv : o.value + v < 2 ^ 64) :
    applyChange s obj 1 v = some (reexamine (putSync s obj { o with value := o.value + v, changed := s.now }) obj) := by
  unfold applyChange
  rw [ho]
  exact if_neg (Nat.not_le.2 hv)

theorem applyChange_overflow {s : State} {obj v : Nat} {o : SyncObj} (ho : syncAt s obj = some o) (hv : 2 ^ 64 ≤ o.value + v) :
    applyChange s obj 1 v = none := by
  unfold applyChange
  rw [ho]
  exact if_pos hv

theorem applyChange_set {s : State} {obj v : Nat} {o : SyncObj} (ho : syncAt s obj = some o) :
    applyChange s obj 3 v = some (reexamine (putSync s obj { o with value := 1, changed := s.now }) obj) := by
  simp only [applyChange, ho]

theorem applyChange_clear {s : State} {obj v : Nat} {o : SyncObj} (ho : syncAt s obj = some o) :
    applyChange s obj 4 v = some (reexamine (putSync s obj { o with value := 0, changed := s.now }) obj) := by
  simp only [applyChange, ho]

theorem applyChange_release {s : State} {obj v : Nat} {o : SyncObj} (ho : syncAt s obj = some o) :
    applyChange s obj 7 v = some (reexamine (putSync s obj { o with held := false, ownerQ := 0, ownerGen := 0, changed := s.now }) obj) := by
  simp only [applyChange, ho]

/-- A failed command has left the sync objects that it waited at, and no other object changes. -/
theorem fail_sync (s : State) (q uid : Nat) (st : Status) {Q : Queue} {c : Cmd} (hQ : queueAt s q = some Q)
    (hc : cmdAt Q uid = some c) : (fail s q uid st).sync = (withdraw s q uid).sync := by
  unfold fail failCmd
  rw [hQ, Option.bind_some, hc]
  dsimp -zeta only
  extract_lets s1 s2 s3 s4 s5
  have h0 : Only [.cores] s (discardArray (leaveEngines s q uid) q c) :=
    .mono (by rfl) <| (leaveEngines_only ..).trans <| discardArray_only ..
  have hs : (withdraw (discardArray (leaveEngines s q uid) q c) q uid).sync = (withdraw s q uid).sync := by
    unfold withdraw
    rw [h0.same .sync (by decide)]
  have h1 : Only [.dict, .tel, .miss, .hostOut] (withdraw (discardArray (leaveEngines s q uid) q c) q uid) s1 := endStall_only ..
  have h2 : Only [.dict] s1 s2 := .mono (by rfl) <| .ite (countIssued_only ..) (.refl _)
  have h3 : Only [.queues] s2 s3 := updCmd_only ..
  have h4 : Only [.tel, .queues, .bufs, .tiered, .rel, .hbm, .hostOut] s3 s4 := putCompletion_only ..
  have h5 : Only [.queues] s4 s5 := .mono (by rfl) <| .ite (offence_only ..) (.refl _)
  rw [if_pos rfl, ← hs]
  exact ((((((h1.trans h2).trans h3).trans h4).trans h5).trans (stopQueue_only s5 q st)).trans (releaseHeld_only _)).same .sync
    (by decide)

/-- The instructions of the three signals that an object of another module may have. -/
theorem runs_signal {s : State} {q op : Nat} {P : State → Prop} (h : P (runSignal s q op)) :
    ∀ i ∈ [(Instr.syncCounterAdd q, 1), (Instr.syncEventSet q, 3), (Instr.syncEventClear q, 4)], op = i.2 → Runs i.1 s P := by
  intro i hi hop
  simp only [List.mem_cons, List.not_mem_nil, or_false] at hi
  rcases hi with rfl | rfl | rfl <;> subst hop <;> exact ⟨_, rfl, h⟩

/-! ## Waiters -/

theorem waitMet_counter {s : State} {q gen : Nat} {c : Cmd} {o : SyncObj} (hop : yOp c.bytes = 2) :
    waitMet s q gen c o = if yValue c.bytes ≤ o.value then some (o, 0) else none := by
  simp only [waitMet, hop]

theorem waitMet_event {s : State} {q gen : Nat} {c : Cmd} {o : SyncObj} (hop : yOp c.bytes = 5) :
    waitMet s q gen c o =
      if o.value = 1 then some (if bit (yValue c.bytes) 0 then { o with value := 0, changed := s.now } else o, 0) else none := by
  simp only [waitMet, hop]

theorem waitMet_lock {s : State} {q gen : Nat} {c : Cmd} {o : SyncObj} (hop : yOp c.bytes = 6) :
    waitMet s q gen c o =
      if o.held then none
      else some ({ o with held := true, ownerQ := q, ownerGen := gen, abandoned := false, changed := s.now },
        if o.abandoned then 0x0502 else 0) := by
  simp only [waitMet, hop]

section Waiter

variable {s : State} {obj : Nat} {w : Waiter} {o : SyncObj} {Q : Queue} {d : Cmd}

theorem reexamineOne_waits (ho : syncAt s obj = some o) (hQ : queueAt s w.queue = some Q) (hd : cmdAt Q w.cmd = some d)
    (hmet : waitMet s w.queue Q.gen d o = none) : reexamineOne obj s w = s := by
  unfold reexamineOne
  rw [ho, hQ]
  dsimp only
  rw [hd]
  dsimp only
  rw [hmet]

/-- A waiter whose condition holds: the object takes its effect and no longer lists it, and it commits. -/
theorem reexamineOne_served {o' : SyncObj} {st : Status} (ho : syncAt s obj = some o) (hQ : queueAt s w.queue = some Q)
    (hd : cmdAt Q w.cmd = some d) (hmet : waitMet s w.queue Q.gen d o = some (o', st)) (hwaiters : o'.waiters = o.waiters) :
    Committed Q (reexamineOne obj s w) w.queue d
      ∧ syncAt (reexamineOne obj s w) obj = some { o' with waiters := o.waiters.filter fun x => !(x.queue = w.queue && x.cmd = w.cmd) } := by
  have heq : reexamineOne obj s w = commitOne (putSync s obj
      { o' with waiters := o.waiters.filter fun x => !(x.queue = w.queue && x.cmd = w.cmd) }) w.queue d st := by
    unfold reexamineOne
    rw [ho, hQ]
    dsimp only
    rw [hd]
    dsimp only
    rw [hmet, ← hwaiters]
    rfl
  rw [heq]
  have hQ' : queueAt (putSync s obj
      { o' with waiters := o.waiters.filter fun x => !(x.queue = w.queue && x.cmd = w.cmd) }) w.queue = some Q := hQ
  exact ⟨commitOne_committed _ w.queue d st Q hQ', (commitOne_syncAt ..).trans (syncAt_putSync_self ..)⟩

end Waiter

/-! ## Signals between modules -/

theorem sendSignal_signals (s : State) (J : Job) (cls type module index kind value : Nat) :
    (sendSignal s J cls type module index kind value).win.signals = s.win.signals ++ [(module, index, kind, value)] := by
  unfold sendSignal
  rw [sendFlits_eq]

/-- A signal on an object of another module goes on the trunk; it commits once it has had its beats. -/
theorem runSignal_away {s : State} {q op : Nat} {Q : Queue} {c : Cmd} {J : Job} (h : syncCmd s q op = some (Q, c))
    (hwin : inWindow Q c = false) (hremote : remoteJob s Q c = some J) :
    let t := runSignal s q op
    t.sync = s.sync ∧ t.win.signals = s.win.signals ++ [(yModule c.bytes, yObj c.bytes, op, yValue c.bytes)]
      ∧ ∃ Q' c', queueAt t q = some Q' ∧ cmdAt Q' c.uid = some c' ∧ c'.state = .finished 0
        ∧ c'.heldTo = s.now + 160 * torusHops s (moduleId s) (jobModule s J (yModule c.bytes)) := by
  obtain ⟨hQ, hmem, _, hyop⟩ := syncCmd_some h
  obtain ⟨d, hd⟩ := cmdAt_of_mem hmem
  have heffect : signalEffect s Q c = some (sendSignal s J 2 7 (yModule c.bytes) (yObj c.bytes) op (yValue c.bytes)) := by
    unfold signalEffect
    rw [hremote, hyop]
  have hsend := sendSignal_only s J 2 7 (yModule c.bytes) (yObj c.bytes) op (yValue c.bytes)
  have hsignals := sendSignal_signals s J 2 7 (yModule c.bytes) (yObj c.bytes) op (yValue c.bytes)
  rw [runSignal_sent h hwin heffect hremote]
  generalize sendSignal s J 2 7 (yModule c.bytes) (yObj c.bytes) op (yValue c.bytes) = u at hsend hsignals
  dsimp only
  obtain ⟨Q', hQ', hd'⟩ := finish_finished u q c.uid 0
    (fun d => { d with heldTo := s.now + 160 * torusHops s (moduleId s) (jobModule s J (yModule c.bytes)) }) Q d (fun _ => rfl)
    ((hsend.queueAt (by decide) q).trans hQ) hd
  exact ⟨hsend.same .sync (by decide), hsignals, Q', _, hQ', hd', rfl, rfl⟩

theorem remoteSignal_took {s : State} {job index obj op v : Nat} {o' : SyncObj} (signal : SyncSignal)
    (hsignal : remoteSignal s job index signal = (applyChange s obj op v).getD s)
    (hchange : applyChange s obj op v = some (reexamine (putSync s obj o') obj)) :
    let t := remoteSignal s job index signal
    t = o'.waiters.foldl (reexamineOne obj) (putSync s obj o')
      ∧ (o'.waiters = [] → t = { s with sync := t.sync } ∧ syncAt t obj = some o' ∧ ∀ k, k ≠ obj → syncAt t k = syncAt s k) := by
  have heq : remoteSignal s job index signal = o'.waiters.foldl (reexamineOne obj) (putSync s obj o') := by
    rw [hsignal, hchange, Option.getD_some, reexamine_putSync]
  dsimp only
  rw [heq]
  refine ⟨rfl, fun hnone => ?_⟩
  rw [hnone]
  exact ⟨rfl, syncAt_putSync_self .., fun k hk => syncAt_putSync_other s o' hk⟩

/-- Settles O10. -/
theorem syncSignals : Obligations.SyncSignals := by
  refine ⟨fun s q obj op Q c o h hremote htarget ho => ⟨fun hwin => ?_, fun hwin => ?_⟩, fun s obj w o Q d ho hQ hd => ?_,
    fun s q op Q c J h hremote hwin => ?_, fun s job index v => ⟨fun hnone g => ?_, fun J obj o hJ hobj ho => ?_⟩⟩
  · exact runs_signal (runSignal_inWindow h hwin)
  · intro took
    refine ⟨fun hop hv => ?_, fun hop hv => ?_, fun hop => ?_, fun hop => ?_⟩ <;> subst hop
    · exact ⟨_, rfl, runSignal_took h hwin hremote htarget (applyChange_add ho hv)⟩
    · obtain ⟨hQ, hmem, _, hyop⟩ := syncCmd_some h
      obtain ⟨d, hd⟩ := cmdAt_of_mem hmem
      have heffect : signalEffect s Q c = none := by
        rw [signalEffect_here hremote htarget, hyop, applyChange_overflow ho hv]
      refine ⟨_, rfl, ?_⟩
      rw [runSignal_overflow h hwin heffect]
      exact ⟨fail_failed s q c.uid 0x0504 Q d hQ hd, fail_sync s q c.uid 0x0504 hQ hd⟩
    · exact ⟨_, rfl, runSignal_took h hwin hremote htarget (applyChange_set ho)⟩
    · exact ⟨_, rfl, runSignal_took h hwin hremote htarget (applyChange_clear ho)⟩
  · intro t served
    refine ⟨fun hop => ⟨fun hv => ?_, fun hv => ?_⟩, fun hop => ⟨fun hv => ?_, fun hv => ?_⟩, fun hop => ⟨fun hheld => ?_, fun hheld => ?_⟩⟩
    · exact reexamineOne_served ho hQ hd ((waitMet_counter hop).trans (if_pos hv)) rfl
    · exact reexamineOne_waits ho hQ hd ((waitMet_counter hop).trans (if_neg (Nat.not_le.2 hv)))
    · exact reexamineOne_served ho hQ hd ((waitMet_event hop).trans (if_pos hv)) (by split <;> rfl)
    · exact reexamineOne_waits ho hQ hd ((waitMet_event hop).trans (if_neg hv))
    · exact reexamineOne_served ho hQ hd ((waitMet_lock hop).trans (if_neg (by rw [hheld]; decide))) rfl
    · exact reexamineOne_waits ho hQ hd ((waitMet_lock hop).trans (if_pos hheld))
  · exact runs_signal (runSignal_away h hwin hremote)
  · refine ⟨_, rfl, ?_⟩
    unfold remoteSignal
    rw [hnone]
  · have htarget (op v : Nat) (g : SyncSignal) (hg : ∀ obj, (match g with
        | .add v => (applyChange s obj 1 v).getD s
        | .set => (applyChange s obj 3 0).getD s
        | .clear => (applyChange s obj 4 0).getD s) = (applyChange s obj op v).getD s) :
        remoteSignal s job index g = (applyChange s obj op v).getD s := by
      unfold remoteSignal
      rw [hJ, Option.bind_some, hobj]
      exact hg obj
    intro took
    refine ⟨fun hv => ?_, ?_, ?_⟩
    · exact ⟨_, rfl, remoteSignal_took (.add v) (htarget 1 v (.add v) fun _ => rfl) (applyChange_add ho hv)⟩
    · exact ⟨_, rfl, remoteSignal_took .set (htarget 3 0 .set fun _ => rfl) (applyChange_set ho)⟩
    · exact ⟨_, rfl, remoteSignal_took .clear (htarget 4 0 .clear fun _ => rfl) (applyChange_clear ho)⟩

end Sys2Proof.Machine

/-! PROOFS. Waits as commands, and locks. -/

namespace Sys2Proof.Machine

/-! ## Offences -/

/-- A failure that counts as an offence is the queue's latest. -/
theorem failCmd_offences (s : State) (q uid : Nat) (st : Status) (stops : Bool) {Q : Queue} {c : Cmd} (hst : isOffence st = true)
    (hQ : queueAt s q = some Q) (hc : cmdAt Q uid = some c) :
    (queueAt (failCmd s q uid st stops) q).map Queue.offences = some ((s.now :: Q.offences).take 16) := by
  unfold failCmd
  rw [hQ, Option.bind_some, hc]
  dsimp -zeta only
  extract_lets s1 s2 s3 s4 s5
  have h1 : queueAt s1 q = some Q := (queueAt_of_queues s s1 q (by simp [s1])).trans hQ
  have h2 : queueAt s2 q = some Q := (queueAt_of_queues s1 s2 q (by simp only [s2]; split <;> simp)).trans h1
  have h3 := updCmd_queue s2 q uid (fun c => { c.bare with state := .finished st }) Q h2
  have h4 : queueAt s4 q = _ := putCompletion_queue s3 q c st _ h3
  have hnow : s4.now = s.now := by
    have hw : (withdraw (discardArray (leaveEngines s q uid) q c) q uid).now = s.now :=
      ((leaveEngines_only ..).trans (discardArray_only ..)).same .now (by decide)
    have h1 : s1.now = s.now := ((endStall_only ..).same .now (by decide)).trans hw
    have h2 : Only [.dict] s1 s2 := .mono (by rfl) <| .ite (countIssued_only ..) (.refl _)
    have h4 := (h2.trans (updCmd_only s2 q uid _)).trans (putCompletion_only s3 q c st)
    exact (h4.same .now (by decide)).trans h1
  have h5 : (queueAt s5 q).map Queue.offences = some ((s.now :: Q.offences).take 16) := by
    show (queueAt (if isOffence st then offence s4 q (some uid) else s4) q).map Queue.offences = _
    rw [if_pos hst, offence, queueAt_updQueue, if_pos rfl, h4]
    simp only [Option.map_some, hnow]
    split <;> rfl
  have hstop (t : State) (l : List Nat) (h : (queueAt t q).map Queue.offences = some l) :
      (queueAt (stopQueue t q st) q).map Queue.offences = some l := by
    obtain ⟨P, hP, rfl⟩ := Option.map_eq_some_iff.1 h
    obtain ⟨b, w, hb⟩ := stopQueue_queue t q st P hP
    rw [hb]
    rfl
  rw [queueAt_releaseHeld]
  split
  · exact hstop s5 _ h5
  · exact h5

/-! ## Waits -/

section Wait

variable {s : State} {q obj op : Nat} {Q : Queue} {c : Cmd} {o : SyncObj}

theorem runWait_met {o' : SyncObj} {st : Status} (h : syncCmd s q op = some (Q, c)) (htarget : syncTarget s Q c = some obj)
    (ho : syncAt s obj = some o) (hholder : (op = 6 && o.held && o.ownerQ = q && o.ownerGen = Q.gen) = false)
    (hmet : waitMet s q Q.gen c o = some (o', st)) : runWait s q op = commitOne (putSync s obj o') q c st := by
  unfold runWait
  rw [h]
  dsimp only
  rw [htarget]
  dsimp only
  rw [ho]
  dsimp only
  rw [hholder, hmet]
  rfl

theorem runWait_joins (h : syncCmd s q op = some (Q, c)) (htarget : syncTarget s Q c = some obj)
    (ho : syncAt s obj = some o) (hholder : (op = 6 && o.held && o.ownerQ = q && o.ownerGen = Q.gen) = false)
    (hmet : waitMet s q Q.gen c o = none) : runWait s q op = joinWaiters s q c.uid obj o := by
  unfold runWait
  rw [h]
  dsimp only
  rw [htarget]
  dsimp only
  rw [ho]
  dsimp only
  rw [hholder, hmet]
  rfl

theorem runWait_holder (h : syncCmd s q op = some (Q, c)) (htarget : syncTarget s Q c = some obj)
    (ho : syncAt s obj = some o) (hholder : (op = 6 && o.held && o.ownerQ = q && o.ownerGen = Q.gen) = true) :
    runWait s q op = fail s q c.uid 0x0506 := by
  unfold runWait
  rw [h]
  dsimp only
  rw [htarget]
  dsimp only
  rw [ho]
  exact if_pos hholder

/-- A wait whose condition holds commits, and its object takes `o'`. -/
theorem runWait_commits {o' : SyncObj} {st : Status} (h : syncCmd s q op = some (Q, c)) (htarget : syncTarget s Q c = some obj)
    (ho : syncAt s obj = some o) (hholder : (op = 6 && o.held && o.ownerQ = q && o.ownerGen = Q.gen) = false)
    (hmet : waitMet s q Q.gen c o = some (o', st)) :
    Committed Q (runWait s q op) q c ∧ syncAt (runWait s q op) obj = some o' ∧ SyncFrame s (runWait s q op) q obj := by
  obtain ⟨hQ, _, hop, _⟩ := syncCmd_some h
  rw [runWait_met h htarget ho hholder hmet]
  have hQ' : queueAt (putSync s obj o') q = some Q := hQ
  exact ⟨commitOne_committed _ q c st Q hQ', (commitOne_syncAt ..).trans (syncAt_putSync_self ..),
    commitOne_syncFrame s q obj c o' st hop⟩

/-- A command that joins the waiters of an object. -/
theorem joinWaiters_waits {uid : Nat} {d : Cmd} (o : SyncObj) (hQ : queueAt s q = some Q) (hd : cmdAt Q uid = some d) :
    let t := joinWaiters s q uid obj o
    t = { s with sync := t.sync, queues := t.queues } ∧ SyncFrame s t q obj
      ∧ syncAt t obj = some { o with waiters := insertWaiter ⟨q, uid, s.now⟩ o.waiters }
      ∧ ∃ Q' c', queueAt t q = some Q' ∧ cmdAt Q' uid = some c' ∧ c'.waiting = true ∧ c'.waitSince = s.now := by
  have hupd := updCmd_only (putSync s obj { o with waiters := insertWaiter ⟨q, uid, s.now⟩ o.waiters }) q uid
    fun c => { c with waiting := true, waitSince := s.now }
  have hQ' : queueAt (putSync s obj { o with waiters := insertWaiter ⟨q, uid, s.now⟩ o.waiters }) q = some Q := hQ
  refine ⟨rfl, ⟨fun k hk => ?_, fun p hp => ?_, rfl, rfl⟩, ?_, _, _, updCmd_queue _ q uid _ Q hQ',
    cmdAt_map_self Q.cmds uid (fun c => { c with waiting := true, waitSince := s.now }) d (fun _ => rfl) hd, rfl, rfl⟩
  · exact (hupd.syncAt (by decide) k).trans (syncAt_putSync_other s _ hk)
  · exact (updCmd_others _ q uid _).same p hp
  · exact (hupd.syncAt (by decide) obj).trans (syncAt_putSync_self ..)

theorem runWait_waits (h : syncCmd s q op = some (Q, c)) (htarget : syncTarget s Q c = some obj)
    (ho : syncAt s obj = some o) (hholder : (op = 6 && o.held && o.ownerQ = q && o.ownerGen = Q.gen) = false)
    (hmet : waitMet s q Q.gen c o = none) :
    let t := runWait s q op
    t = { s with sync := t.sync, queues := t.queues } ∧ SyncFrame s t q obj
      ∧ syncAt t obj = some { o with waiters := insertWaiter ⟨q, c.uid, s.now⟩ o.waiters }
      ∧ ∃ Q' c', queueAt t q = some Q' ∧ cmdAt Q' c.uid = some c' ∧ c'.waiting = true ∧ c'.waitSince = s.now := by
  obtain ⟨hQ, hmem, _⟩ := syncCmd_some h
  obtain ⟨d, hd⟩ := cmdAt_of_mem hmem
  rw [runWait_joins h htarget ho hholder hmet]
  exact joinWaiters_waits o hQ hd

/-! ## Locks -/

theorem runRelease_holder (h : syncCmd s q 7 = some (Q, c)) (htarget : syncTarget s Q c = some obj)
    (ho : syncAt s obj = some o) (hholder : o.held = true ∧ o.ownerQ = q ∧ o.ownerGen = Q.gen) :
    runRelease s q = runSignal s q 7 := by
  unfold runRelease
  rw [h]
  dsimp only
  rw [htarget, Option.bind_some, ho]
  obtain ⟨hheld, hq, hgen⟩ := hholder
  simp [hheld, hq, hgen]

theorem runRelease_other (h : syncCmd s q 7 = some (Q, c)) (htarget : syncTarget s Q c = some obj)
    (ho : syncAt s obj = some o) (hholder : ¬(o.held = true ∧ o.ownerQ = q ∧ o.ownerGen = Q.gen)) :
    runRelease s q = fail s q c.uid 0x0505 := by
  unfold runRelease
  rw [h]
  dsimp only
  rw [htarget, Option.bind_some, ho]
  refine if_pos ?_
  rw [Bool.not_eq_true', Bool.eq_false_iff]
  simpa [and_assoc] using hholder

/-- A release names an object of this module. -/
theorem remoteJob_release (h : syncCmd s q 7 = some (Q, c)) : remoteJob s Q c = none := by
  obtain ⟨_, _, _, hyop⟩ := syncCmd_some h
  unfold remoteJob
  rw [hyop]
  exact if_neg (by simp [mayNameRemote])

end Wait

/-- Settles O11. -/
theorem syncWaitsAndLocks : Obligations.SyncWaitsAndLocks := by
  intro s q obj op Q c o h htarget ho waits holder
  obtain ⟨_, _, _, hyop⟩ := syncCmd_some h
  refine ⟨⟨fun hop hv => ?_, fun hop hv => ?_, fun hop hv => ?_, fun hop hv => ?_⟩, fun hop hfree => ?_, fun hop hheld hother => ?_,
    fun hop hholder => ?_, fun hop hholder hwin => ?_, fun hop hholder hwin => ?_, fun hop hother => ?_⟩ <;> subst hop
  · exact ⟨_, rfl, runWait_commits h htarget ho rfl ((waitMet_counter hyop).trans (if_pos hv))⟩
  · exact ⟨_, rfl, runWait_waits h htarget ho rfl ((waitMet_counter hyop).trans (if_neg (Nat.not_le.2 hv)))⟩
  · obtain ⟨hcommit, hobj, hframe⟩ := runWait_commits h htarget ho rfl ((waitMet_event hyop).trans (if_pos hv))
    exact ⟨_, rfl, hcommit, hframe, hobj⟩
  · exact ⟨_, rfl, runWait_waits h htarget ho rfl ((waitMet_event hyop).trans (if_neg hv))⟩
  · obtain ⟨hcommit, hobj, hframe⟩ := runWait_commits h htarget ho (by simp [hfree])
      ((waitMet_lock hyop).trans (if_neg (by rw [hfree]; decide)))
    exact ⟨_, rfl, hcommit, hframe, hobj⟩
  · refine ⟨_, rfl, runWait_waits h htarget ho ?_ ((waitMet_lock hyop).trans (if_pos hheld))⟩
    rw [Bool.eq_false_iff]
    simpa [holder, and_assoc] using hother
  · obtain ⟨hheld, hq, hgen⟩ := hholder
    obtain ⟨hQ, hmem, _⟩ := syncCmd_some h
    obtain ⟨d, hd⟩ := cmdAt_of_mem hmem
    refine ⟨_, rfl, ?_⟩
    rw [runWait_holder h htarget ho (by simp [hheld, hq, hgen])]
    exact fail_failed s q c.uid 0x0506 Q d hQ hd
  · refine ⟨_, rfl, ?_⟩
    rw [runRelease_holder h htarget ho hholder]
    exact runSignal_took h hwin (remoteJob_release h) htarget (applyChange_release ho)
  · refine ⟨_, rfl, ?_⟩
    rw [runRelease_holder h htarget ho hholder]
    exact runSignal_inWindow h hwin
  · obtain ⟨hQ, hmem, _⟩ := syncCmd_some h
    obtain ⟨d, hd⟩ := cmdAt_of_mem hmem
    refine ⟨_, rfl, ?_⟩
    rw [runRelease_other h htarget ho hother]
    exact ⟨fail_failed s q c.uid 0x0505 Q d hQ hd, failCmd_offences s q c.uid 0x0505 true rfl hQ hd⟩

end Sys2Proof.Machine

/-! PROOFS. Barriers: arrivals, tokens and the release of a phase. -/

namespace Sys2Proof.Machine

/-! ## The commands that a commit leaves -/

/-- A commit up to the removal of its command: the queue keeps its commands, RUNs and windows. -/
theorem commitOne_split (s : State) (q : Nat) (c : Cmd) (st : Status) :
    ∃ u, (∀ P, QueueCmds s q P → QueueCmds u q P) ∧ commitOne s q c st = commitRun (releaseHeld (updQueue u q fun Q =>
      { Q with committed := c.seq, cmds := (Q.cmds.filter fun d => d.uid ≠ c.uid).map (passOn c) })) q := by
  unfold commitOne
  extract_lets s1 s2 s3 s4 s5 s6 s7 s8 s9
  refine ⟨s8, fun P h0 => ?_, rfl⟩
  have h1 : QueueCmds s1 q P := h0.of_queues _ _ _ _ (foldl_queues _ (fun s w => storeStaged_queues s w) _ _)
  have h2 : QueueCmds s2 q P := h1.of_queues _ _ _ _ (by simp only [s2]; split <;> rfl)
  have h3 : QueueCmds s3 q P := by
    simp only [s3]
    split
    · exact h2
    · exact h2.logSweep _ _ _ _
  have h4 : QueueCmds s4 q P := h3.of_queues _ _ _ _ (by simp only [s4]; split <;> rfl)
  have h5 : QueueCmds s5 q P := h4.of_queues _ _ _ _ (by simp only [s5]; split <;> rfl)
  have h6 : QueueCmds s6 q P := h5.of_queues _ _ _ _ (trace_queues ..)
  have h7 : QueueCmds s7 q P := by
    simp only [s7]
    split
    · exact h6.putCompletion _ _ _ _ _
    · exact h6
  exact h7.of_queues _ _ _ _ (tellRemote_queues ..)

theorem commitRun_window (s : State) (q : Nat) {Q : Queue} (hQ : queueAt s q = some Q) :
    ∃ Q', queueAt (commitRun s q) q = some Q' ∧ Q'.cmds = Q.cmds ∧ Q'.window = Q.window := by
  have hruns (n : Nat) : ∀ (s : State) (Q : Queue), queueAt s q = some Q →
      ∃ Q', queueAt (commitRuns n s q) q = some Q' ∧ Q'.cmds = Q.cmds ∧ Q'.window = Q.window := by
    induction n with
    | zero => exact fun s Q hQ => ⟨Q, hQ, rfl, rfl⟩
    | succ n ih =>
      intro s Q hQ
      unfold commitRuns
      rw [hQ]
      dsimp only
      split
      · exact ⟨Q, hQ, rfl, rfl⟩
      · next r _ _ =>
        split
        · exact ⟨Q, hQ, rfl, rfl⟩
        · generalize hs : updQueue _ q _ = s2
          have h2 : queueAt s2 q = some { Q with
              cpls := Q.cpls + 1, committed := r.seq, running := if Q.earlierRuns.isEmpty then none else Q.running
              earlierRuns := Q.earlierRuns.drop 1 } := by
            rw [← hs, queueAt_updQueue, if_pos rfl, putCompletion_queue _ q r 0 Q ((queueAt_trace ..).trans hQ)]
            rfl
          obtain ⟨f, w, hf⟩ := holdQueue_queue s2 q q
          rw [h2] at hf
          have hnext := (queueAt_releaseHeld (holdQueue s2 q) q).trans hf
          obtain ⟨Q', hQ', hcmds, hwindow⟩ := ih _ _ hnext
          exact ⟨Q', hQ', hcmds, hwindow⟩
  unfold commitRun
  rw [hQ]
  exact hruns _ s Q hQ

/-- A commit takes its command out of the queue, hands its writes to the others, and closes no window. -/
theorem commitOne_cmds (s : State) (q : Nat) (c : Cmd) (st : Status) {Q : Queue} (hQ : queueAt s q = some Q) :
    ∃ Q', queueAt (commitOne s q c st) q = some Q' ∧ Q'.cmds = (Q.cmds.filter fun d => d.uid ≠ c.uid).map (passOn c)
      ∧ Q'.window = Q.window := by
  obtain ⟨u, hu, heq⟩ := commitOne_split s q c st
  obtain ⟨P, hP, hcmds, _, _, hwindow, _⟩ := (hu Q ⟨Q, hQ, rfl, rfl, rfl, rfl, rfl, rfl⟩).same
  have hupd : queueAt (releaseHeld (updQueue u q fun Q =>
      { Q with committed := c.seq, cmds := (Q.cmds.filter fun d => d.uid ≠ c.uid).map (passOn c) })) q
      = some { P with committed := c.seq, cmds := (P.cmds.filter fun d => d.uid ≠ c.uid).map (passOn c) } := by
    rw [queueAt_releaseHeld, queueAt_updQueue, if_pos rfl, hP]
    rfl
  obtain ⟨Q', hQ', hc, hw⟩ := commitRun_window _ q hupd
  rw [heq, ← hcmds, ← hwindow]
  exact ⟨Q', hQ', hc, hw⟩

theorem cmdAt_eq_none {Q : Queue} {uid : Nat} : cmdAt Q uid = none ↔ ∀ d ∈ Q.cmds, d.uid ≠ uid := by
  unfold cmdAt
  simp [List.find?_eq_none]

/-- A command that has left its queue stays away when others commit. -/
theorem Gone.commitOne {s : State} {q uid : Nat} (h : Gone s q uid) (p : Nat) (c : Cmd) (st : Status) :
    Gone (commitOne s p c st) q uid := by
  obtain ⟨Q, hQ, hnone⟩ := h
  by_cases hp : q = p
  · subst hp
    obtain ⟨Q', hQ', hcmds, _⟩ := commitOne_cmds s q c st hQ
    refine ⟨Q', hQ', cmdAt_eq_none.2 fun d hd => ?_⟩
    rw [hcmds, List.mem_map] at hd
    obtain ⟨e, he, rfl⟩ := hd
    exact cmdAt_eq_none.1 hnone e (List.mem_filter.1 he).1
  · exact ⟨Q, ((commitOne_others s p c st).same q hp).trans hQ, hnone⟩

/-! ## Signals on their way -/

theorem tellRemote_signals (s : State) (q : Nat) (c : Cmd) (b : Bool) : (tellRemote s q c b).win.signals = s.win.signals := by
  unfold tellRemote
  split
  · rw [sendFlits_eq]
  · rfl

/-- A commit sends no signal. -/
theorem commitOne_signals (s : State) (q : Nat) (c : Cmd) (st : Status) : (commitOne s q c st).win.signals = s.win.signals := by
  unfold commitOne
  extract_lets s1 s2 s3 s4 s5 s6 s7 s8 s9
  have h1 : Only [.bufs, .tiered, .rel] s s1 := .foldl (fun _ _ => storeStaged_only ..) _ _
  have h2 : Only [.jobs] s1 s2 := by
    simp only [s2]
    split
    · exact .mono (by rfl) <| .refl _
    · exact updJob_only ..
  have h3 : Only [.jobs, .queues] s2 s3 := by
    simp only [s3]
    split
    · exact .mono (by rfl) <| .refl _
    · exact .mono (by rfl) <| logSweep_only ..
  have h4 : Only [.dict] s3 s4 := .mono (by rfl) <| .ite (bump_only ..) (.refl _)
  have h5 : Only [.cores] s4 s5 := .mono (by rfl) <| .ite (updCore_only ..) (.refl _)
  have h6 : Only [.dict, .tel, .hostOut] s5 s6 := trace_only ..
  have h7 : Only [.tel, .queues, .bufs, .tiered, .rel, .hbm, .hostOut] s6 s7 := .mono (by rfl) <| .ite (putCompletion_only ..) (.refl _)
  have hbefore : s7.win = s.win := ((((((h1.trans h2).trans h3).trans h4).trans h5).trans h6).trans h7).same .win (by decide)
  have h8 : s8.win.signals = s7.win.signals := tellRemote_signals ..
  have h9 : Only [.queues] s8 s9 := updQueue_only ..
  have hafter : (commitRun (releaseHeld s9) q).win = s8.win :=
    ((h9.trans (releaseHeld_only s9)).trans (commitRun_only _ q)).same .win (by decide)
  rw [hafter, h8, hbefore]

/-! ## The release of a phase -/

/-- A barrier whose phase has been released. -/
def renewedPhase (s : State) (o : SyncObj) : SyncObj :=
  { o with value := o.value + 1, arrived := 0, changed := s.now, waiters := [], localDone := false, tokens := [], told := false, released := false }

/-- The phase of object `obj`, which held `o`, has been released: its arrivals have committed. -/
def PhaseReleased (s t : State) (obj : Nat) (o : SyncObj) : Prop :=
  syncAt t obj = some (renewedPhase s o)
    ∧ (∀ k, k ≠ obj → syncAt t k = syncAt s k) ∧ ∀ w ∈ o.waiters, (queueAt s w.queue).isSome = true → Gone t w.queue w.cmd

/-- The arrival of a waiter commits, where its command is still there. -/
def commitArrival (s : State) (w : Waiter) : State :=
  match (queueAt s w.queue).bind (cmdAt · w.cmd) with
  | none => s
  | some c => commitOne s w.queue c 0

theorem commitArrival_keeps (P : State → Prop) (hP : ∀ s q c, P s → P (commitOne s q c 0)) (s : State) (w : Waiter) (h : P s) :
    P (commitArrival s w) := by
  unfold commitArrival
  split
  · exact h
  · exact hP _ _ _ h

theorem foldl_commitArrival_keeps (P : State → Prop) (hP : ∀ s q c, P s → P (commitOne s q c 0)) (l : List Waiter) (s : State) (h : P s) :
    P (l.foldl commitArrival s) :=
  foldl_keeps P _ (commitArrival_keeps P hP) l s h

theorem cmdAt_some_uid {Q : Queue} {uid : Nat} {c : Cmd} (h : cmdAt Q uid = some c) : c.uid = uid := by
  simpa using List.find?_some h

theorem commitArrival_gone (s : State) (w : Waiter) (h : (queueAt s w.queue).isSome = true) : Gone (commitArrival s w) w.queue w.cmd := by
  obtain ⟨Q, hQ⟩ := Option.isSome_iff_exists.1 h
  unfold commitArrival
  rw [hQ, Option.bind_some]
  cases hc : cmdAt Q w.cmd with
  | none => exact ⟨Q, hQ, hc⟩
  | some c =>
    have hgone := commitOne_gone s w.queue c 0 h
    rwa [cmdAt_some_uid hc] at hgone

/-- Every arrival of a phase has left its queue. -/
theorem foldl_commitArrival_gone (l : List Waiter) (s : State) (w : Waiter) (hw : w ∈ l) (h : (queueAt s w.queue).isSome = true) :
    Gone (l.foldl commitArrival s) w.queue w.cmd := by
  induction l generalizing s with
  | nil => cases hw
  | cons v l ih =>
    rcases List.mem_cons.1 hw with rfl | hl
    · exact foldl_commitArrival_keeps (fun s => Gone s w.queue w.cmd) (fun s q c hs => hs.commitOne q c 0) l _ (commitArrival_gone s w h)
    · exact ih _ hl (commitArrival_keeps (fun s => (queueAt s w.queue).isSome = true) (fun s q c hs => commitOne_isSome s q c 0 hs) s v h)

theorem releasePhase_eq {s : State} {obj : Nat} {o : SyncObj} (ho : syncAt s obj = some o) :
    releasePhase s obj = o.waiters.foldl commitArrival
      (bump (trace (putSync s obj (renewedPhase s o)) 8 (24 + leaderSource (putSync s obj (renewedPhase s o))) 0 obj 0 0) 0x6F00 4 1) := by
  unfold releasePhase
  rw [ho]
  rfl

theorem releasePhase_released {s : State} {obj : Nat} {o : SyncObj} (ho : syncAt s obj = some o) :
    PhaseReleased s (releasePhase s obj) obj o ∧ (releasePhase s obj).win.signals = s.win.signals := by
  rw [releasePhase_eq ho]
  have hcount : Only [.dict, .tel, .hostOut] (putSync s obj (renewedPhase s o)) (bump (trace (putSync s obj (renewedPhase s o)) 8
      (24 + leaderSource (putSync s obj (renewedPhase s o))) 0 obj 0 0) 0x6F00 4 1) :=
    .mono (by rfl) <| (trace_only ..).trans <| bump_only ..
  generalize bump (trace (putSync s obj (renewedPhase s o)) 8
    (24 + leaderSource (putSync s obj (renewedPhase s o))) 0 obj 0 0) 0x6F00 4 1 = u at hcount
  have hsync (k : Nat) : syncAt (o.waiters.foldl commitArrival u) k = syncAt (putSync s obj (renewedPhase s o)) k :=
    foldl_commitArrival_keeps (fun t => syncAt t k = syncAt (putSync s obj (renewedPhase s o)) k)
      (fun t q c ht => (commitOne_syncAt ..).trans ht) _ u (hcount.syncAt (by decide) k)
  refine ⟨⟨(hsync obj).trans (syncAt_putSync_self ..), fun k hk => (hsync k).trans (syncAt_putSync_other s _ hk), fun w hw hq => ?_⟩, ?_⟩
  · refine foldl_commitArrival_gone o.waiters u w hw ?_
    rw [hcount.queueAt (by decide)]
    exact hq
  · exact foldl_commitArrival_keeps (fun t => t.win.signals = s.win.signals) (fun t q c ht => (commitOne_signals ..).trans ht) _ u
      (congrArg Windway.signals (hcount.same .win (by decide)))

end Sys2Proof.Machine

/-! PROOFS. Barriers: what an arrival and a token lead to. -/

namespace Sys2Proof.Machine

/-! ## A release behind a change of the barrier itself -/

/-- A phase released behind a change of its own object. -/
theorem PhaseReleased.behind {s u t : State} {obj : Nat} {o o' : SyncObj} (h : PhaseReleased u t obj o') (hnow : u.now = s.now)
    (hother : ∀ k, k ≠ obj → syncAt u k = syncAt s k) (hqueues : ∀ p, (queueAt s p).isSome = true → (queueAt u p).isSome = true)
    (hrenewed : renewedPhase s o' = renewedPhase s o) (hwaiters : o'.waiters = o.waiters) : PhaseReleased s t obj o := by
  obtain ⟨hobj, hothers, hgone⟩ := h
  refine ⟨?_, fun k hk => (hothers k hk).trans (hother k hk), fun w hw hq => hgone w (hwaiters ▸ hw) (hqueues _ hq)⟩
  rw [hobj, ← hrenewed]
  unfold renewedPhase
  rw [hnow]

/-! ## The root -/

/-- The release tokens to the other modules of the job. -/
def releaseTokens (s : State) (J : Job) (obj : Nat) : State :=
  (List.range (J.modules - 1)).foldl (fun s m => sendSignal s J 1 6 (m + 1) (J.syncs.idxOf obj) 0x11 0) s

theorem releaseTokens_only (s : State) (J : Job) (obj : Nat) : Only [.win] s (releaseTokens s J obj) :=
  .foldl (fun _ _ => sendSignal_only ..) _ _

theorem foldl_sendSignal_signals (J : Job) (idx : Nat) (l : List Nat) (s : State) :
    (l.foldl (fun s m => sendSignal s J 1 6 (m + 1) idx 0x11 0) s).win.signals
      = s.win.signals ++ l.map fun m => (m + 1, idx, 0x11, 0) := by
  induction l generalizing s with
  | nil => simp
  | cons m l ih => rw [List.foldl_cons, ih, sendSignal_signals, List.map_cons, List.append_assoc, List.singleton_append]

section Root

variable {s : State} {obj : Nat} {o : SyncObj} {J : Job}

theorem rootRelease_keeps (ho : syncAt s obj = some o)
    (h : ¬(o.localDone = true ∧ ∃ J, jobAt s o.job = some J ∧ J.modules ≤ o.tokens.length + 1)) : rootRelease s obj = s := by
  unfold rootRelease
  rw [ho]
  dsimp only
  cases hJ : jobAt s o.job with
  | none => rfl
  | some J =>
    refine if_neg fun hcond => h ?_
    simp only [Bool.and_eq_true, decide_eq_true_eq] at hcond
    exact ⟨hcond.1, J, hJ, hcond.2⟩

theorem rootRelease_released (ho : syncAt s obj = some o) (hJ : jobAt s o.job = some J) (hdone : o.localDone = true)
    (hall : J.modules ≤ o.tokens.length + 1) :
    PhaseReleased s (rootRelease s obj) obj o ∧ (rootRelease s obj).win.signals
      = s.win.signals ++ (List.range (J.modules - 1)).map fun m => (m + 1, J.syncs.idxOf obj, 0x11, 0) := by
  have heq : rootRelease s obj = releasePhase (releaseTokens s J obj) obj := by
    unfold rootRelease
    rw [ho]
    dsimp only
    rw [hJ]
    exact if_pos (by simp [hdone, hall])
  have hsent := releaseTokens_only s J obj
  obtain ⟨hreleased, hsignals⟩ := releasePhase_released ((hsent.syncAt (by decide) obj).trans ho)
  rw [heq]
  exact ⟨hreleased.behind (hsent.same .now (by decide)) (fun k _ => hsent.syncAt (by decide) k)
    (fun p hp => by rwa [hsent.queueAt (by decide)]) rfl rfl, hsignals.trans (foldl_sendSignal_signals ..)⟩

/-! ## The local count -/

theorem localComplete_alone (ho : syncAt s obj = some o)
    (h : o.jobWide = false ∨ ∀ J, jobAt s o.job = some J → J.modules = 1) : localComplete s obj = releasePhase s obj := by
  unfold localComplete
  rw [ho]
  dsimp only
  cases hJ : jobAt s o.job with
  | none => rfl
  | some J =>
    refine if_pos ?_
    rcases h with h | h
    · simp [h]
    · simp [h J hJ]

theorem localComplete_shared (ho : syncAt s obj = some o) (hwide : o.jobWide = true) (hJ : jobAt s o.job = some J)
    (hmodules : J.modules ≠ 1) :
    localComplete s obj =
      let u := putSync s obj { o with localDone := true, told := true }
      if J.moduleIdx = 0 then rootRelease u obj
      else if o.released then releasePhase u obj
      else if o.told then u
      else sendSignal u J 1 6 0 (J.syncs.idxOf obj) 0x10 J.moduleIdx := by
  unfold localComplete
  rw [ho]
  dsimp only
  rw [hJ]
  exact if_neg (by simp [hwide, hmodules])

end Root

/-! ## Arrivals -/

/-- A barrier with the arrival of a command of queue `q`. -/
def arrivedAtBarrier (s : State) (q uid : Nat) (o : SyncObj) : SyncObj :=
  { o with arrived := o.arrived + 1, waiters := insertWaiter ⟨q, uid, s.now⟩ o.waiters }

theorem mem_insertWaiter (w : Waiter) (l : List Waiter) : w ∈ insertWaiter w l := by
  simp [insertWaiter]

/-- What an arrival that waits leaves: its command stands waiting at the object, which holds `v`. -/
def ArrivalWaits (s t : State) (q uid obj : Nat) (v : SyncObj) : Prop :=
  SyncFrame s t q obj ∧ syncAt t obj = some v
    ∧ ∃ Q' c', queueAt t q = some Q' ∧ cmdAt Q' uid = some c' ∧ c'.waiting = true ∧ c'.waitSince = s.now

/-- An arrival goes on waiting while only its own object and the trunks change. -/
theorem ArrivalWaits.behind {s u t : State} {q uid obj : Nat} {v v' : SyncObj} (h : ArrivalWaits s u q uid obj v)
    (hu : Only [.sync, .win] u t) (hobj : syncAt t obj = some v') (hother : ∀ k, k ≠ obj → syncAt t k = syncAt u k) :
    ArrivalWaits s t q uid obj v' := by
  obtain ⟨⟨hothers, hqueues, hcores, hnow⟩, _, Q', c', hQ', hc'⟩ := h
  exact ⟨⟨fun k hk => (hother k hk).trans (hothers k hk), fun p hp => (hu.queueAt (by decide) p).trans (hqueues p hp),
    (hu.same .cores (by decide)).trans hcores, (hu.same .now (by decide)).trans hnow⟩, hobj, Q', c',
    (hu.queueAt (by decide) q).trans hQ', hc'⟩

theorem runArrive_eq {s : State} {q obj : Nat} {Q : Queue} {c : Cmd} {o : SyncObj} (h : syncCmd s q 8 = some (Q, c))
    (htarget : syncTarget s Q c = some obj) (ho : syncAt s obj = some o) :
    runArrive s q =
      let u := joinWaiters s q c.uid obj { o with arrived := o.arrived + 1 }
      if o.arrived + 1 = o.parties then localComplete u obj else u := by
  unfold runArrive
  rw [h]
  dsimp only
  rw [htarget]
  dsimp only
  rw [ho]

/-- The facts about the state in which the arrival has joined. -/
theorem arrival_joins {s : State} {q obj : Nat} {Q : Queue} {c : Cmd} {o : SyncObj} (h : syncCmd s q 8 = some (Q, c)) :
    let u := joinWaiters s q c.uid obj { o with arrived := o.arrived + 1 }
    u = { s with sync := u.sync, queues := u.queues } ∧ ArrivalWaits s u q c.uid obj (arrivedAtBarrier s q c.uid o)
      ∧ ∀ p, (queueAt s p).isSome = true → (queueAt u p).isSome = true := by
  obtain ⟨hQ, hmem, _⟩ := syncCmd_some h
  obtain ⟨d, hd⟩ := cmdAt_of_mem hmem
  obtain ⟨hframe, hsync, hobj, Q', c', hQ', hc'⟩ := joinWaiters_waits (obj := obj) { o with arrived := o.arrived + 1 } hQ hd
  refine ⟨hframe, ⟨hsync, hobj, Q', c', hQ', hc'⟩, fun p hp => ?_⟩
  by_cases hpq : p = q
  · subst hpq
    rw [hQ']
    rfl
  · obtain ⟨_, hqueues, _⟩ := hsync
    rwa [hqueues p hpq]

/-! ## Tokens -/

/-- What a token leaves of the state that takes it: the object holds `v`, the trunks have moved on. -/
def TokenKept (s t : State) (obj : Nat) (v : SyncObj) : Prop :=
  t = { s with sync := t.sync, win := { s.win with trunks := t.win.trunks } } ∧ syncAt t obj = some v
    ∧ ∀ k, k ≠ obj → syncAt t k = syncAt s k

/-- The state once the flits of a token have been taken. -/
def tokenTaken (s : State) (o : SyncObj) (sender : Nat) : State :=
  (jobAt s o.job).elim s fun J => takeFlits s (jobModule s J sender) 32

theorem tokenTaken_eq (s : State) (o : SyncObj) (sender : Nat) :
    tokenTaken s o sender = { s with win := { s.win with trunks := (tokenTaken s o sender).win.trunks } } := by
  unfold tokenTaken
  cases jobAt s o.job with
  | none => rfl
  | some J => exact takeFlits_eq ..

theorem tokenTaken_only (s : State) (o : SyncObj) (sender : Nat) : Only [.win] s (tokenTaken s o sender) := by
  unfold tokenTaken
  exact .mono (by rfl) <| .elim (.refl _) fun _ => takeFlits_only ..

theorem tokenTaken_kept (s : State) (o v : SyncObj) (obj sender : Nat) :
    TokenKept s (putSync (tokenTaken s o sender) obj v) obj v := by
  refine ⟨?_, syncAt_putSync_self .., fun k hk => ?_⟩
  · unfold putSync
    rw [tokenTaken_eq]
  · rw [syncAt_putSync_other _ v hk]
    exact (tokenTaken_only s o sender).syncAt (by decide) k

theorem tokenTaken_kept_self {s : State} {o : SyncObj} {obj : Nat} (ho : syncAt s obj = some o) (sender : Nat) :
    TokenKept s (tokenTaken s o sender) obj o := by
  have htaken := tokenTaken_only s o sender
  refine ⟨?_, (htaken.syncAt (by decide) obj).trans ho, fun k _ => htaken.syncAt (by decide) k⟩
  rw [htaken.same .sync (by decide)]
  exact tokenTaken_eq ..

section Token

variable {s : State} {obj m : Nat} {o : SyncObj}

theorem barrierToken_arrival (ho : syncAt s obj = some o) (htype : o.type = 4) (hwide : o.jobWide = true) :
    barrierToken s obj (.arrival m) =
      if o.tokens.contains m then tokenTaken s o m
      else rootRelease (putSync (tokenTaken s o m) obj { o with tokens := o.tokens ++ [m] }) obj := by
  unfold barrierToken
  rw [ho]
  dsimp only
  rw [if_neg (by simp [htype, hwide])]
  rfl

theorem barrierToken_release (ho : syncAt s obj = some o) (htype : o.type = 4) (hwide : o.jobWide = true) :
    barrierToken s obj .release =
      if o.localDone then releasePhase (tokenTaken s o 0) obj
      else if o.told then putSync (tokenTaken s o 0) obj { o with released := true } else tokenTaken s o 0 := by
  unfold barrierToken
  rw [ho]
  dsimp only
  rw [if_neg (by simp [htype, hwide])]
  rfl

end Token

/-- Settles O12. -/
theorem syncBarriers : Obligations.SyncBarriers := by
  unfold Obligations.SyncBarriers
  intro renewed released tell
  refine ⟨fun s q obj Q c o₀ h htarget ho₀ => ?_, fun s obj m o ho htype hwide => ?_⟩
  · obtain ⟨hframe, hjoined, hpresent⟩ := arrival_joins (obj := obj) (o := o₀) h
    obtain ⟨⟨hothers, hqueues, hcores, hnow⟩, hobj, hwaits⟩ := hjoined
    have hrun := runArrive_eq h htarget ho₀
    have hq : (queueAt s q).isSome = true := by rw [(syncCmd_some h).1]; rfl
    generalize joinWaiters s q c.uid obj { o₀ with arrived := o₀.arrived + 1 } = u at hframe hothers hqueues hcores hnow hobj hwaits hpresent hrun
    have hjobs (j : Nat) : jobAt u j = jobAt s j := by rw [hframe]; rfl
    have hsignals : u.win.signals = s.win.signals := by rw [hframe]
    intro o waits
    have hgone {t : State} (ht : PhaseReleased s t obj o) : released s t obj o ∧ Gone t q c.uid :=
      ⟨ht, ht.2.2 _ (mem_insertWaiter ..) hq⟩
    refine ⟨fun hmore => ⟨_, rfl, ?_⟩, fun hlast halone => ⟨_, rfl, ?_⟩, fun J hlast hwide hJ hmodules => ?_⟩
    · rw [hrun]
      dsimp only
      rw [if_neg hmore]
      exact ⟨hframe, ⟨hothers, hqueues, hcores, hnow⟩, hobj, hwaits⟩
    · rw [hrun]
      dsimp only
      rw [if_pos hlast, localComplete_alone hobj (halone.imp_right fun hall J hJ => hall J ((hjobs _).symm.trans hJ))]
      exact hgone ((releasePhase_released hobj).1.behind hnow hothers hpresent rfl rfl)
    · intro done
      have hdone : syncAt (putSync u obj done) obj = some done := syncAt_putSync_self ..
      have hput := putSync_only u obj done
      have hbehind (k : Nat) (hk : k ≠ obj) : syncAt (putSync u obj done) k = syncAt s k :=
        (syncAt_putSync_other u done hk).trans (hothers k hk)
      have hwaiting : ArrivalWaits s (putSync u obj done) q c.uid obj done :=
        ArrivalWaits.behind (v := o) ⟨⟨hothers, hqueues, hcores, hnow⟩, hobj, hwaits⟩ (.mono (by rfl) hput) hdone
          fun k hk => syncAt_putSync_other u done hk
      have hJ' : jobAt (putSync u obj done) done.job = some J := (hjobs _).trans hJ
      have hcomplete : runArrive s q =
          if J.moduleIdx = 0 then rootRelease (putSync u obj done) obj
          else if o.released then releasePhase (putSync u obj done) obj
          else if o.told then putSync u obj done
          else sendSignal (putSync u obj done) J 1 6 0 (J.syncs.idxOf obj) 0x10 J.moduleIdx :=
        hrun.trans ((if_pos hlast).trans (localComplete_shared hobj hwide ((hjobs _).trans hJ) hmodules))
      refine ⟨fun hroot hfew => ⟨_, rfl, ?_⟩, fun hroot hall => ⟨_, rfl, ?_⟩, fun hmember hcome => ⟨_, rfl, ?_⟩,
        fun hmember hcome => ⟨_, rfl, ?_⟩⟩
      · rw [hcomplete, if_pos hroot, rootRelease_keeps hdone]
        · exact hwaiting
        · rintro ⟨_, J', hJ'', hle⟩
          rw [hJ'] at hJ''
          cases hJ''
          exact absurd hfew (Nat.not_lt.2 hle)
      · rw [hcomplete, if_pos hroot]
        obtain ⟨hreleased, htold⟩ := rootRelease_released hdone hJ' rfl hall
        obtain ⟨h1, h2⟩ := hgone (hreleased.behind hnow hbehind hpresent rfl rfl)
        exact ⟨h1, h2, htold.trans (congrArg (· ++ tell J obj) hsignals)⟩
      · rw [hcomplete, if_neg hmember, if_pos hcome]
        exact hgone ((releasePhase_released hdone).1.behind hnow hbehind hpresent rfl rfl)
      · rw [hcomplete, if_neg hmember, if_neg (show ¬o.released = true by rw [hcome]; decide)]
        by_cases htold : o.told = true
        · rw [if_pos htold, if_pos htold, List.append_nil]
          exact ⟨hwaiting, hsignals⟩
        · rw [if_neg htold, if_neg htold]
          have hsend := sendSignal_only (putSync u obj done) J 1 6 0 (J.syncs.idxOf obj) 0x10 J.moduleIdx
          exact ⟨hwaiting.behind (.mono (by rfl) hsend) ((hsend.syncAt (by decide) obj).trans hdone) fun k _ => hsend.syncAt (by decide) k,
            (sendSignal_signals ..).trans (congrArg (· ++ _) hsignals)⟩
  · intro kept next complete
    have htaken := tokenTaken_only s o m
    have hnext : syncAt (putSync (tokenTaken s o m) obj next) obj = some next := syncAt_putSync_self ..
    refine ⟨fun hm => ⟨_, rfl, ?_⟩, fun hm hnot => ⟨_, rfl, ?_⟩, fun hm ⟨hdone, J, hJ, hall⟩ => ⟨_, rfl, ?_⟩, fun hdone => ⟨_, rfl, ?_⟩,
      fun hdone htold => ⟨_, rfl, ?_⟩, fun hdone htold => ⟨_, rfl, ?_⟩⟩
    · rw [barrierToken_arrival ho htype hwide, if_pos (by simpa using hm)]
      exact tokenTaken_kept_self ho m
    · rw [barrierToken_arrival ho htype hwide, if_neg (by simpa using hm), rootRelease_keeps hnext]
      · exact tokenTaken_kept s o next obj m
      · rintro ⟨hdone, J, hJ, hle⟩
        refine hnot ⟨hdone, J, (htaken.jobAt (by decide) _).symm.trans hJ, ?_⟩
        simpa [next] using hle
    · rw [barrierToken_arrival ho htype hwide, if_neg (by simpa using hm)]
      obtain ⟨hreleased, hsent⟩ := rootRelease_released (J := J) hnext ((htaken.jobAt (by decide) _).trans hJ) hdone
        (by simpa [next] using hall)
      refine ⟨hreleased.behind (htaken.same .now (by decide)) (fun k hk => ?_) (fun p hp => ?_) rfl rfl, fun J' hJ' => ?_⟩
      · exact (syncAt_putSync_other _ next hk).trans (htaken.syncAt (by decide) k)
      · rwa [show queueAt (putSync (tokenTaken s o m) obj next) p = queueAt s p from htaken.queueAt (by decide) p]
      · rw [hJ] at hJ'
        cases hJ'
        refine hsent.trans (congrArg (· ++ tell J obj) ?_)
        show (tokenTaken s o m).win.signals = _
        rw [tokenTaken_eq]
    · rw [barrierToken_release ho htype hwide, if_pos hdone]
      have htaken := tokenTaken_only s o 0
      exact (releasePhase_released ((htaken.syncAt (by decide) obj).trans ho)).1.behind (htaken.same .now (by decide))
        (fun k _ => htaken.syncAt (by decide) k) (fun p hp => by rwa [htaken.queueAt (by decide)]) rfl rfl
    · rw [barrierToken_release ho htype hwide, if_neg (by rw [hdone]; decide), if_pos htold]
      exact tokenTaken_kept s o _ obj 0
    · rw [barrierToken_release ho htype hwide, if_neg (by rw [hdone]; decide), if_neg (by rw [htold]; decide)]
      exact tokenTaken_kept_self ho 0

end Sys2Proof.Machine

/-! PROOFS. Failures and kills: what they leave of the queue that they strike. -/

namespace Sys2Proof.Machine

/-! ## RUNs and windows of a queue -/

/-- The same RUNs under way and the same open windows. -/
structure SameRuns (P Q : Queue) : Prop where
  running : Q.running = P.running
  earlierRuns : Q.earlierRuns = P.earlierRuns
  window : Q.window = P.window
  laterWindows : Q.laterWindows = P.laterWindows

theorem SameRuns.refl (P : Queue) : SameRuns P P := ⟨rfl, rfl, rfl, rfl⟩

theorem SameRuns.trans {P Q R : Queue} (h : SameRuns P Q) (k : SameRuns Q R) : SameRuns P R :=
  ⟨k.running.trans h.running, k.earlierRuns.trans h.earlierRuns, k.window.trans h.window, k.laterWindows.trans h.laterWindows⟩

theorem SameRuns.runs {P Q : Queue} (h : SameRuns P Q) : Q.runs = P.runs := by
  unfold Queue.runs
  rw [h.running, h.earlierRuns]

/-! ## Failure -/

/-- Queue `Q` is queue `P` but for what a failure touches: commands, completion count, status, stop, offences and hold. -/
def FailFrame (P Q : Queue) : Prop :=
  Q = { P with
    cmds := Q.cmds, cpls := Q.cpls, status := Q.status, stopped := Q.stopped, quarantined := Q.quarantined, offences := Q.offences
    stopAt := Q.stopAt, held := Q.held, waitingSince := Q.waitingSince }

theorem FailFrame.trans {P Q R : Queue} (h : FailFrame P Q) (k : FailFrame Q R) : FailFrame P R := by
  unfold FailFrame at *
  refine k.trans ?_
  rw [h]

theorem FailFrame.sameRuns {P Q : Queue} (h : FailFrame P Q) : SameRuns P Q := by
  unfold FailFrame at h
  rw [h]
  exact ⟨rfl, rfl, rfl, rfl⟩

/-- A failure changes the failed command of its queue, and no RUN and no window. -/
theorem failCmd_queue (s : State) (q uid : Nat) (st : Status) (stops : Bool) {Q : Queue} {c : Cmd} (hQ : queueAt s q = some Q)
    (hc : cmdAt Q uid = some c) :
    ∃ Q', queueAt (failCmd s q uid st stops) q = some Q' ∧ FailFrame Q Q'
      ∧ Q'.cmds = Q.cmds.map fun c => if c.uid = uid then { c.bare with state := .finished st } else c := by
  unfold failCmd
  rw [hQ, Option.bind_some, hc]
  dsimp -zeta only
  extract_lets s1 s2 s3 s4 s5
  have h1 : queueAt s1 q = some Q := (queueAt_of_queues s s1 q (by simp [s1])).trans hQ
  have h2 : queueAt s2 q = some Q := (queueAt_of_queues s1 s2 q (by simp only [s2]; split <;> simp)).trans h1
  have h3 := updCmd_queue s2 q uid (fun c => { c.bare with state := .finished st }) Q h2
  have h4 : queueAt s4 q = _ := putCompletion_queue s3 q c st _ h3
  have h5 : ∃ P, queueAt s5 q = some P ∧ FailFrame Q P
      ∧ P.cmds = Q.cmds.map fun c => if c.uid = uid then { c.bare with state := .finished st } else c := by
    show ∃ P, queueAt (if isOffence st then offence s4 q (some uid) else s4) q = some P ∧ _
    split
    · refine ⟨_, by rw [offence, queueAt_updQueue, if_pos rfl, h4]; rfl, ?_, ?_⟩ <;> dsimp only <;> split <;> rfl
    · exact ⟨_, h4, rfl, rfl⟩
  obtain ⟨P, hP, hframe, hcmds⟩ := h5
  rw [queueAt_releaseHeld]
  split
  · obtain ⟨b, w, hb⟩ := stopQueue_queue s5 q st P hP
    exact ⟨_, hb, hframe.trans rfl, hcmds⟩
  · exact ⟨P, hP, hframe, hcmds⟩

/-! ## One command killed -/

/-- The kills of a command behind one more, which counts or does not (R131). -/
def killCount (counts : Bool) (c : Cmd) : Nat := if counts then c.kills + 1 else c.kills

/-- What a kill makes of a command: it stands fetched again, or failed where it is its third fault kill. -/
def killedCmd (counts : Bool) (c : Cmd) : Cmd :=
  if 3 ≤ killCount counts c then
    { c.bare with kills := killCount counts c, state := .finished 0x030C }
  else { c.bare with kills := killCount counts c, state := .fetched, reruns := c.reruns + 1 }

theorem killedCmd_uid (counts : Bool) (c : Cmd) : (killedCmd counts c).uid = c.uid := by
  unfold killedCmd
  split <;> rfl

/-- A kill of one command: the commands of its number change, and no RUN and no window. -/
theorem killCmd_queue (s : State) (q : Nat) (counts : Bool) (c : Cmd) {Q : Queue} (hQ : queueAt s q = some Q) :
    ∃ Q', queueAt (killCmd s q counts c) q = some Q' ∧ SameRuns Q Q'
      ∧ Q'.cmds = Q.cmds.map fun d => if d.uid = c.uid then killedCmd counts c else d := by
  unfold killCmd
  extract_lets +onlyGivenNames s1 d
  have h1 : queueAt s1 q = some Q := (queueAt_trace ..).trans ((queueAt_of_queues s _ q (giveUp_queues s q c)).trans hQ)
  have hkills : d.kills = killCount counts c := rfl
  split
  · next h3 =>
    rw [hkills] at h3
    have hset := updCmd_queue s1 q c.uid (fun _ => { d.bare with state := .fetched }) Q h1
    have hkilled : killedCmd counts c = { ({ d.bare with state := .fetched } : Cmd).bare with state := .finished 0x030C } := by
      unfold killedCmd
      rw [if_pos h3]
      rfl
    cases hfind : cmdAt { Q with cmds := Q.cmds.map fun e => if e.uid = c.uid then { d.bare with state := .fetched } else e } c.uid with
    | some e =>
      obtain ⟨Q', hQ', hframe, hcmds⟩ := failCmd_queue _ q c.uid 0x030C true hset hfind
      have hruns := hframe.sameRuns
      refine ⟨Q', hQ', ⟨hruns.running, hruns.earlierRuns, hruns.window, hruns.laterWindows⟩, ?_⟩
      rw [hcmds, hkilled, List.map_map]
      refine List.map_congr_left fun x _ => ?_
      by_cases hx : x.uid = c.uid
      · simp only [Function.comp_apply, hx, if_true]
        exact if_pos rfl
      · simp only [Function.comp_apply, hx, if_false]
    | none =>
      have hno : ∀ x ∈ Q.cmds, x.uid ≠ c.uid := by
        intro x hx he
        refine cmdAt_eq_none.1 hfind { d.bare with state := .fetched } (List.mem_map.2 ⟨x, hx, if_pos he⟩) rfl
      have hsame (k : Cmd) : (Q.cmds.map fun e => if e.uid = c.uid then k else e) = Q.cmds :=
        (List.map_congr_left fun x hx => if_neg (hno x hx)).trans (List.map_id _)
      have hfail : failCmd (updCmd s1 q c.uid fun _ => { d.bare with state := .fetched }) q c.uid 0x030C true
          = updCmd s1 q c.uid fun _ => { d.bare with state := .fetched } := by
        unfold failCmd
        rw [hset, Option.bind_some, hfind]
      rw [hfail]
      exact ⟨_, hset, ⟨rfl, rfl, rfl, rfl⟩, (hsame _).trans (hsame _).symm⟩
  · next h3 =>
    rw [hkills] at h3
    extract_lets +onlyGivenNames s2
    have h2 := putCompletion_queue s1 q c 0x0305 Q h1
    refine ⟨_, updCmd_queue s2 q c.uid _ _ h2, ⟨rfl, rfl, rfl, rfl⟩, ?_⟩
    unfold killedCmd
    rw [if_neg h3]
    rfl

theorem killCmd_others (s : State) (q : Nat) (counts : Bool) (c : Cmd) : OtherQueues q s (killCmd s q counts c) := by
  unfold killCmd
  extract_lets +onlyGivenNames s1 d
  have h1 : OtherQueues q s s1 := .of_queues ((trace_queues ..).trans (giveUp_queues s q c))
  exact .ite ((h1.trans (updCmd_others ..)).trans (failCmd_others ..)) ((h1.trans (putCompletion_others ..)).trans (updCmd_others ..))

/-! ## Commands killed one after another -/

/-- The commands of a queue once those of `l` have been killed. -/
def killAll (counts : Bool) (l cmds : List Cmd) : List Cmd :=
  l.foldl (fun cmds c => cmds.map fun d => if d.uid = c.uid then killedCmd counts c else d) cmds

theorem foldl_killCmd_queue (q : Nat) (counts : Bool) (l : List Cmd) (s : State) {Q : Queue} (hQ : queueAt s q = some Q) :
    ∃ Q', queueAt (l.foldl (fun s c => killCmd s q counts c) s) q = some Q' ∧ SameRuns Q Q' ∧ Q'.cmds = killAll counts l Q.cmds := by
  induction l generalizing s Q with
  | nil => exact ⟨Q, hQ, .refl Q, rfl⟩
  | cons c l ih =>
    obtain ⟨P, hP, hruns, hcmds⟩ := killCmd_queue s q counts c hQ
    obtain ⟨Q', hQ', hruns', hcmds'⟩ := ih _ hP
    refine ⟨Q', hQ', hruns.trans hruns', ?_⟩
    rw [hcmds', hcmds]
    rfl

theorem foldl_killCmd_others (q : Nat) (counts : Bool) (l : List Cmd) (s : State) :
    OtherQueues q s (l.foldl (fun s c => killCmd s q counts c) s) := by
  induction l generalizing s with
  | nil => exact .refl s
  | cons c l ih => exact (killCmd_others s q counts c).trans (ih _)

/-- Every command has been killed, or is one that the kills left alone. -/
theorem mem_killAll {counts : Bool} {l cmds : List Cmd} {d : Cmd} (h : d ∈ killAll counts l cmds) :
    (∃ c ∈ l, d = killedCmd counts c) ∨ (d ∈ cmds ∧ ∀ c ∈ l, c.uid ≠ d.uid) := by
  induction l generalizing cmds with
  | nil => exact .inr ⟨h, by simp⟩
  | cons c l ih =>
    rcases ih h with ⟨e, he, rfl⟩ | ⟨hd, hl⟩
    · exact .inl ⟨e, List.mem_cons_of_mem _ he, rfl⟩
    · obtain ⟨x, hx, rfl⟩ := List.mem_map.1 hd
      by_cases hxc : x.uid = c.uid
      · rw [if_pos hxc]
        exact .inl ⟨c, List.mem_cons_self, rfl⟩
      · rw [if_neg hxc] at hl ⊢
        refine .inr ⟨hx, fun e he => ?_⟩
        rcases List.mem_cons.1 he with rfl | he
        · exact fun h => hxc h.symm
        · exact hl e he

/-! ## A kill that takes effect -/

/-- The queue behind a kill: the struck commands killed, the windows that RUNs under way have opened left. -/
theorem strikeQueue_queue (s : State) (q : Nat) (kind : KillKind) {Q : Queue} (hQ : queueAt s q = some Q) :
    ∃ Q', queueAt (strikeQueue s q kind) q = some Q' ∧ Q'.cmds = killAll (kind = .fault) (struck s.now Q) Q.cmds
      ∧ Q'.window.toList ++ Q'.laterWindows = (Q.window.toList ++ Q.laterWindows).filter fun f => Q.runs.any fun r => r.uid = f := by
  unfold strikeQueue
  rw [hQ]
  dsimp -zeta only
  extract_lets lost s1 s2 s3
  have h1 : ∃ P, queueAt s1 q = some P ∧ SameRuns Q P ∧ P.cmds = Q.cmds ∧ s1.now = s.now := by
    show ∃ P, queueAt (if kind = .preemption then bump (chargeLost s q lost) (0x6500 + Q.fn) 4 lost else s) q = some P ∧ _ ∧ _
      ∧ (if kind = .preemption then bump (chargeLost s q lost) (0x6500 + Q.fn) 4 lost else s).now = s.now
    split
    · refine ⟨{ Q with acct := { Q.acct with lost := min accountMax (Q.acct.lost + lost) } }, ?_, ⟨rfl, rfl, rfl, rfl⟩, rfl, rfl⟩
      show queueAt (chargeLost s q lost) q = _
      rw [chargeLost, queueAt_updQueue, if_pos rfl, hQ]
      rfl
    · exact ⟨Q, hQ, .refl Q, rfl, rfl⟩
  obtain ⟨P, hP, hruns, hcmds, hnow⟩ := h1
  obtain ⟨R, hR, hruns', hcmds'⟩ := foldl_killCmd_queue q (kind = .fault) (struck s1.now Q) s1 hP
  have h2 : queueAt s2 q = some R := hR
  have hsame := hruns.trans hruns'
  have h3 : queueAt s3 q = some { R.withWindows ((Q.window.toList ++ Q.laterWindows).filter fun f => Q.runs.any fun r => r.uid = f) with heldKill := none } := by
    show queueAt (releaseHeld (updQueue s2 q _)) q = _
    rw [queueAt_releaseHeld, queueAt_updQueue, if_pos rfl, h2, Option.map_some, hsame.window, hsame.laterWindows, hsame.runs]
  have hwindows (l : List Nat) : l.head?.toList ++ l.drop 1 = l := by cases l <;> rfl
  have hlast : R.cmds = killAll (kind = .fault) (struck s.now Q) Q.cmds := by rw [hcmds', hcmds, hnow]
  split
  · obtain ⟨f, w, hf⟩ := holdQueue_queue s3 q q
    rw [h3] at hf
    exact ⟨_, hf, hlast, hwindows _⟩
  · exact ⟨_, h3, hlast, hwindows _⟩

theorem strikeQueue_others (s : State) (q : Nat) (kind : KillKind) : OtherQueues q s (strikeQueue s q kind) := by
  unfold strikeQueue
  split
  · exact .refl s
  · next Q _ =>
    extract_lets lost s1 s2 s3
    have hcharge : OtherQueues q s (chargeLost s q lost) := updQueue_others ..
    have h1 : OtherQueues q s s1 := .ite (hcharge.trans (.of_queues rfl)) (.refl s)
    have h2 : OtherQueues q s1 s2 := foldl_killCmd_others ..
    have h3 : OtherQueues q s2 s3 := (updQueue_others s2 q _).trans (.of_queues (releaseHeld_queues _))
    have hall := (h1.trans h2).trans h3
    exact .ite (hall.trans (holdQueue_others ..)) hall

end Sys2Proof.Machine

/-! PROOFS. Kills: what they leave of the cores, and a queue whose commands they return. -/

namespace Sys2Proof.Machine

/-! ## The cores that killed commands leave -/

/-- Core `b` is core `a` but for its engines: units, drain and shadow registers, merge queue and movers. -/
def EnginesOnly (a b : Core) : Prop :=
  b = { a with
    vec := b.vec, upd := b.upd, drainEven := b.drainEven, drainOdd := b.drainOdd, shadow := b.shadow, mergeQueue := b.mergeQueue
    mergeHeld := b.mergeHeld, mergeWait := b.mergeWait, mergePlan := b.mergePlan, mergeOwner := b.mergeOwner, movers := b.movers }

theorem EnginesOnly.faultKills {a b : Core} (h : EnginesOnly a b) : b.faultKills = a.faultKills := by
  rw [show b = _ from h]

theorem EnginesOnly.trans {a b c : Core} (h : EnginesOnly a b) (k : EnginesOnly b c) : EnginesOnly a c := by
  unfold EnginesOnly at *
  refine k.trans ?_
  rw [h]

/-- Every core is as before but for its engines. -/
structure CoresKept (s t : State) : Prop where
  core : ∀ k, EnginesOnly (coreAt s k) (coreAt t k)

namespace CoresKept

variable {s t u : State}

theorem refl (s : State) : CoresKept s s := ⟨fun _ => rfl⟩

theorem trans (h : CoresKept s t) (k : CoresKept t u) : CoresKept s u := ⟨fun n => (h.core n).trans (k.core n)⟩

theorem of_only {F : List StateField} (h : Only F s t) (hF : StateField.cores ∉ F) : CoresKept s t := by
  refine ⟨fun k => ?_⟩
  rw [h.coreAt hF]
  rfl

theorem ite {c : Prop} [Decidable c] (h : CoresKept s t) (k : CoresKept s u) : CoresKept s (if c then t else u) := by
  split
  · exact h
  · exact k

theorem faultKills (h : CoresKept s t) (k : Nat) : (coreAt t k).faultKills = (coreAt s k).faultKills :=
  (h.core k).faultKills

end CoresKept

theorem leaveEngines_coresKept (s : State) (q uid : Nat) : CoresKept s (leaveEngines s q uid) := by
  refine ⟨fun k => ?_⟩
  unfold coreAt leaveEngines FMap.getD
  rw [FMap.get?_mapVal]
  cases FMap.get? s.cores k <;> rfl

theorem discardArray_coresKept (s : State) (q : Nat) (c : Cmd) : CoresKept s (discardArray s q c) := by
  unfold discardArray
  refine .ite ⟨fun k => ?_⟩ (.refl s)
  by_cases hk : k = c.core
  · subst hk
    rw [coreAt_updCore_self]
    unfold Core.discard
    split <;> rfl
  · rw [coreAt_updCore_other _ _ _ _ hk]
    rfl

theorem giveUp_coresKept (s : State) (q : Nat) (c : Cmd) : CoresKept s (giveUp s q c) := by
  unfold giveUp
  extract_lets +onlyGivenNames s1 s2 s3 s4
  have h1 : CoresKept s s1 := (leaveEngines_coresKept s q c.uid).trans ((discardArray_coresKept _ q c).trans
    (.of_only (F := [.sync, .reds]) (.mono (by rfl) <| (withdraw_only ..).trans (withdrawPartials_only ..)) (by decide)))
  have h2 : CoresKept s1 s2 := .of_only (endStall_only ..) (by decide)
  have h3 : CoresKept s2 s3 := .ite (.of_only (countKilledArray_only ..) (by decide)) (.refl _)
  have h4 : CoresKept s3 s4 := .ite (.of_only (recallSignal_only ..) (by decide)) (.refl _)
  exact .ite ((((h1.trans h2).trans h3).trans h4).trans (.of_only (tellRemote_only ..) (by decide))) (((h1.trans h2).trans h3).trans h4)

theorem failCmd_coresKept (s : State) (q uid : Nat) (st : Status) (stops : Bool) : CoresKept s (failCmd s q uid st stops) := by
  unfold failCmd
  split
  · exact .refl s
  · next c _ =>
    extract_lets s1 s2 s3 s4 s5
    have h1 : CoresKept s s1 := (leaveEngines_coresKept s q uid).trans ((discardArray_coresKept _ q c).trans
      (.of_only (F := [.sync, .dict, .tel, .miss, .hostOut]) (.mono (by rfl) <| (withdraw_only ..).trans (endStall_only ..)) (by decide)))
    have h2 : CoresKept s1 s2 := .ite (.of_only (countIssued_only ..) (by decide)) (.refl _)
    have h3 : CoresKept s2 s3 := .of_only (updCmd_only ..) (by decide)
    have h4 : CoresKept s3 s4 := .of_only (putCompletion_only ..) (by decide)
    have h5 : CoresKept s4 s5 := .ite (.of_only (offence_only ..) (by decide)) (.refl _)
    have h6 : CoresKept s5 (if stops then stopQueue s5 q st else s5) := .ite (.of_only (stopQueue_only ..) (by decide)) (.refl _)
    exact (((((h1.trans h2).trans h3).trans h4).trans h5).trans h6).trans (.of_only (releaseHeld_only _) (by decide))

theorem killCmd_coresKept (s : State) (q : Nat) (counts : Bool) (c : Cmd) : CoresKept s (killCmd s q counts c) := by
  unfold killCmd
  extract_lets +onlyGivenNames s1 d
  have h1 : CoresKept s s1 := (giveUp_coresKept s q c).trans (.of_only (trace_only ..) (by decide))
  refine .ite ((h1.trans (.of_only (updCmd_only ..) (by decide))).trans (failCmd_coresKept ..)) ?_
  exact (h1.trans (.of_only (putCompletion_only s1 q c 0x0305) (by decide))).trans (.of_only (updCmd_only ..) (by decide))

theorem foldl_killCmd_coresKept (q : Nat) (counts : Bool) (l : List Cmd) (s : State) :
    CoresKept s (l.foldl (fun s c => killCmd s q counts c) s) := by
  induction l generalizing s with
  | nil => exact .refl s
  | cons c l ih => exact (killCmd_coresKept s q counts c).trans (ih _)

theorem strikeQueue_coresKept (s : State) (q : Nat) (kind : KillKind) : CoresKept s (strikeQueue s q kind) := by
  unfold strikeQueue
  split
  · exact .refl s
  · next Q _ =>
    extract_lets lost s1 s2 s3
    have h1 : CoresKept s s1 := .of_only (F := [.queues, .dict])
      (.mono (by rfl) <| .ite ((chargeLost_only ..).trans (bump_only ..)) (.refl _)) (by decide)
    have h2 : CoresKept s1 s2 := foldl_killCmd_coresKept ..
    have h3 : CoresKept s2 s3 := (CoresKept.of_only (updQueue_only s2 q _) (by decide)).trans (.of_only (releaseHeld_only _) (by decide))
    have hall := (h1.trans h2).trans h3
    exact .ite (hall.trans (.of_only (holdQueue_only ..) (by decide))) hall

/-! ## A queue that is killed -/

theorem killQueue_throttled {s : State} {q : Nat} {Q : Queue} (kind : KillKind) (hQ : queueAt s q = some Q)
    (h : throttledKill s Q = true) :
    killQueue s q kind = updQueue s q fun Q => { Q with heldKill := some (Q.heldKill.elim kind (joinKills · kind)) } := by
  unfold killQueue
  rw [hQ]
  exact if_pos h

theorem killQueue_strikes {s : State} {q : Nat} {Q : Queue} (kind : KillKind) (hQ : queueAt s q = some Q)
    (h : throttledKill s Q = false) : killQueue s q kind = strikeQueue s q kind := by
  unfold killQueue
  rw [hQ]
  exact if_neg (by rw [h]; decide)

theorem kill_other {s : State} {q : Nat} {kind : KillKind} (h : kind ≠ .fault) : kill s q kind = killQueue s q kind := by
  unfold kill
  cases kind with
  | fault => exact absurd rfl h
  | preemption => rfl
  | uncounted => rfl

theorem mem_struck {now : Nat} {Q : Queue} {c : Cmd} (hc : c ∈ Q.cmds) :
    c ∈ struck now Q ↔ (c.state ≠ .fetched ∨ c.objectWait = true) ∧ c.failed = false ∧ c.fixed now = false := by
  simp [struck, hc, and_assoc]

theorem killedCmd_settled (counts : Bool) (c : Cmd) : (killedCmd counts c).state = .fetched ∨ (killedCmd counts c).failed = true := by
  unfold killedCmd
  split
  · exact .inr (by simp [Cmd.failed, success, freeStatus])
  · exact .inl rfl

/-- What a kill leaves of a queue's commands: each stands fetched, has failed, or is fixed. -/
theorem killAll_settled {now : Nat} {Q : Queue} {counts : Bool} {d : Cmd} (h : d ∈ killAll counts (struck now Q) Q.cmds) :
    d.state = .fetched ∨ d.failed = true ∨ d.fixed now = true := by
  rcases mem_killAll h with ⟨c, _, rfl⟩ | ⟨hd, hleft⟩
  · exact (killedCmd_settled counts c).imp_right .inl
  · by_cases hstate : d.state = .fetched
    · exact .inl hstate
    · by_contra hcon
      simp only [not_or, Bool.not_eq_true] at hcon
      exact hleft d ((mem_struck hd).2 ⟨.inl hstate, hcon.2.1, hcon.2.2⟩) rfl

/-! ## A queue with one command -/

theorem struck_one {now : Nat} {Q : Queue} {c : Cmd} (hcmds : Q.cmds = [c]) (hstate : c.state = .started) (hheld : c.heldTo = 0) :
    struck now Q = [c] := by
  unfold struck
  rw [hcmds]
  simp [hstate, hheld, Cmd.failed, Cmd.fixed]

theorem strikeQueue_one {s : State} {q : Nat} {kind : KillKind} {Q : Queue} {c : Cmd} (hQ : queueAt s q = some Q)
    (hcmds : Q.cmds = [c]) (hstate : c.state = .started) (hheld : c.heldTo = 0) :
    ∃ Q', queueAt (strikeQueue s q kind) q = some Q' ∧ Q'.cmds = [killedCmd (kind = .fault) c] := by
  obtain ⟨Q', hQ', hc, _⟩ := strikeQueue_queue s q kind hQ
  refine ⟨Q', hQ', ?_⟩
  rw [hc, struck_one hcmds hstate hheld, hcmds]
  simp [killAll]

theorem killedCmd_returned {counts : Bool} {c : Cmd} (h : killCount counts c < 3) :
    killedCmd counts c = { c.bare with kills := killCount counts c, state := .fetched, reruns := c.reruns + 1 } :=
  if_neg (Nat.not_le.2 h)

/-- A fault kill noted against a core that stays in service changes no queue. -/
theorem noteFaultKill_queueAt {s : State} {core : Nat} (h : (coreAt s core).faultKills.length < 15) (p : Nat) :
    queueAt (noteFaultKill s core) p = queueAt s p := by
  unfold noteFaultKill
  extract_lets l s1 s2
  have hfew : l.length ≠ 16 := by
    simp only [l, List.length_take, List.length_cons]
    omega
  rw [if_neg (by simp [hfew])]
  rfl

/-- The fault kill of a queue whose one command is struck. -/
theorem kill_fault_one {s : State} {q : Nat} {Q : Queue} {c : Cmd} (hQ : queueAt s q = some Q) (hcmds : Q.cmds = [c])
    (hstate : c.state = .started) (hheld : c.heldTo = 0) (hthrottle : throttledKill s Q = false)
    (hcore : (coreAt s c.core).faultKills.length < 15) (p : Nat) :
    queueAt (kill s q .fault) p = queueAt (strikeQueue s q .fault) p := by
  have hstruck : struckCore s q = if opEngine c.op then some c.core else none := by
    unfold struckCore
    rw [hQ, Option.map_some, Option.bind_some, struck_one hcmds hstate hheld]
    cases h : opEngine c.op <;> simp [h]
  unfold kill
  rw [killQueue_strikes .fault hQ hthrottle, hstruck]
  split
  · refine noteFaultKill_queueAt ?_ p
    rwa [(strikeQueue_coresKept s q .fault).faultKills]
  · rfl

/-- A kill that fails the one command of its queue stops the queue. -/
theorem strikeQueue_fails {s : State} {q : Nat} {Q : Queue} {c : Cmd} (hQ : queueAt s q = some Q) (hcmds : Q.cmds = [c])
    (hstate : c.state = .started) (hheld : c.heldTo = 0) (hkills : 2 ≤ c.kills) : Failed (strikeQueue s q .fault) q c.uid 0x030C := by
  have hkill : ∃ Q', queueAt (killCmd s q true c) q = some Q' ∧ ∃ d, cmdAt Q' c.uid = some d ∧ d.state = .finished 0x030C
      ∧ Q'.stopped = true ∧ Q'.status = 0x030C := by
    unfold killCmd
    extract_lets +onlyGivenNames s1 d
    have h1 : queueAt s1 q = some Q := (queueAt_trace ..).trans ((queueAt_of_queues s _ q (giveUp_queues s q c)).trans hQ)
    rw [if_pos (show 3 ≤ d.kills from Nat.succ_le_succ hkills)]
    have hset := updCmd_queue s1 q c.uid (fun _ => { d.bare with state := .fetched }) Q h1
    obtain ⟨Q', e, hQ', he, hdone⟩ := fail_failed _ q c.uid 0x030C _ { d.bare with state := .fetched } hset (by
      simp [cmdAt, hcmds, d, Cmd.bare])
    exact ⟨Q', hQ', e, he, hdone⟩
  obtain ⟨Q', hQ', d, hd, hfinished, hstopped, hstatus⟩ := hkill
  unfold strikeQueue
  rw [hQ]
  dsimp -zeta only
  extract_lets lost s1 s2 s3
  have hs2 : s2 = killCmd s q true c := by
    show (struck s.now Q).foldl (fun s c => killCmd s q (decide (KillKind.fault = .fault)) c) s = _
    rw [struck_one hcmds hstate hheld]
    rfl
  have hs3 : queueAt s3 q = (some Q').map fun R => { R.withWindows ((R.window.toList ++ R.laterWindows).filter fun f => R.runs.any fun r => r.uid = f) with heldKill := none } := by
    show queueAt (releaseHeld (updQueue s2 q _)) q = _
    rw [queueAt_releaseHeld, queueAt_updQueue, if_pos rfl, hs2, hQ']
  exact ⟨_, d, hs3, hd, hfinished, hstopped, hstatus⟩

/-- Settles O27. -/
theorem killReturnsCommands : Obligations.KillReturnsCommands := by
  intro s q kind Q hQ
  refine ⟨fun hkind hthrottle => ⟨_, rfl, ?_⟩, fun hkind hthrottle => ⟨_, rfl, ?_⟩,
    fun c hcmds hstate hheld hthrottle => ⟨fun hkind hkills => ⟨_, rfl, ?_⟩, fun hkind hcore => ⟨fun hkills => ⟨_, rfl, ?_⟩, fun hkills => ⟨_, rfl, ?_⟩⟩⟩⟩
  · rw [kill_other hkind, killQueue_throttled kind hQ hthrottle]
    refine ⟨(updQueue_only ..).eq_overlay, ?_⟩
    rw [queueAt_updQueue, if_pos rfl, hQ]
    rfl
  · rw [kill_other hkind, killQueue_strikes kind hQ hthrottle]
    obtain ⟨Q', hQ', hcmds, hwindows⟩ := strikeQueue_queue s q kind hQ
    refine ⟨Q', hQ', hwindows, fun d hd => ?_, (strikeQueue_others s q kind).same⟩
    rw [hcmds] at hd
    exact killAll_settled hd
  · rw [kill_other hkind, killQueue_strikes kind hQ hthrottle]
    obtain ⟨Q', hQ', hc⟩ := strikeQueue_one (kind := kind) hQ hcmds hstate hheld
    have hcount : killCount (decide (kind = .fault)) c = c.kills := by simp [killCount, hkind]
    rw [killedCmd_returned (by rw [hcount]; exact hkills)] at hc
    exact ⟨Q', _, hQ', hc, rfl, rfl, rfl, hcount, rfl⟩
  · subst hkind
    obtain ⟨Q', hQ', hc⟩ := strikeQueue_one (kind := .fault) hQ hcmds hstate hheld
    rw [decide_eq_true rfl, killedCmd_returned (show killCount true c < 3 from Nat.succ_lt_succ hkills)] at hc
    exact ⟨Q', _, (kill_fault_one hQ hcmds hstate hheld hthrottle hcore q).trans hQ', hc, rfl, rfl, rfl, rfl, rfl⟩
  · subst hkind
    obtain ⟨Q', d, hQ', hfailed⟩ := strikeQueue_fails hQ hcmds hstate hheld hkills
    exact ⟨Q', d, (kill_fault_one hQ hcmds hstate hheld hthrottle hcore q).trans hQ', hfailed⟩

end Sys2Proof.Machine

/-! PROOFS. Launch at count, and the backstop of a wait. -/

namespace Sys2Proof.Machine

/-! ## Launch at count -/

section Launch

variable {s : State} {q : Nat} {Q : Queue} {c : Cmd}

theorem runLaunch_eq (h : syncCmd s q 9 = some (Q, c)) :
    runLaunch s q =
      let v := yValue c.bytes
      if dnum s 0x6F00 2 ≠ 1 || !(Q.job.bind (jobAt s)).all (oneDomain s) then fail s q c.uid 0x0509
      else if v < s.now then fail (bump s 0x6F00 10 1) q c.uid 0x0508
      else if 2 ^ 36 < v - s.now then fail s q c.uid 0x0301
      else if v = s.now then commitOne s q c 0
      else updCmd s q c.uid fun c => { c with waiting := true, waitSince := s.now } := by
  unfold runLaunch
  rw [h]

/-- The test of R283 that a launch may count on the beat counter. -/
theorem launchRefused_iff :
    (dnum s 0x6F00 2 ≠ 1 || !(Q.job.bind (jobAt s)).all (oneDomain s)) = true
      ↔ ¬(dnum s 0x6F00 2 = 1 ∧ ∀ J, Q.job.bind (jobAt s) = some J → oneDomain s J = true) := by
  cases Q.job.bind (jobAt s) with
  | none => simp
  | some J => simp [imp_iff_not_or]

theorem fail_syncCmd {op : Nat} (h : syncCmd s q op = some (Q, c)) {u : State} (hu : queueAt u q = queueAt s q) (st : Status) :
    Failed (fail u q c.uid st) q c.uid st := by
  obtain ⟨hQ, hmem, _⟩ := syncCmd_some h
  obtain ⟨d, hd⟩ := cmdAt_of_mem hmem
  exact fail_failed u q c.uid st Q d (hu.trans hQ) hd

end Launch

theorem launchBeat_eq {s : State} {q : Nat} {Q : Queue} {c : Cmd} (hQ : queueAt s q = some Q)
    (h : (Q.cmds.find? fun c => c.op = 5 && yOp c.bytes = 9 && c.waiting) = some c) :
    launchBeat s q = commitOne { s with now := max s.now (yValue c.bytes) } q c 0 := by
  unfold launchBeat
  rw [hQ]
  dsimp only
  rw [h]

/-! ## The graph of the waits -/

theorem waitEdges_clock (s : State) (n : Nat) (d : FMap DVal) (p : Nat) : waitEdges { s with now := n, dict := d } p = waitEdges s p := rfl

theorem reach_congr {s t : State} (h : ∀ p, waitEdges t p = waitEdges s p) (n : Nat) (l : List Nat) : reach t n l = reach s n l := by
  have hedges : waitEdges t = waitEdges s := funext h
  induction n generalizing l with
  | zero => rfl
  | succ n ih =>
    unfold reach
    rw [ih, hedges]

theorem reached_congr {s t : State} (h : ∀ p, waitEdges t p = waitEdges s p) (hqueues : t.queues = s.queues) (p : Nat) :
    reached t p = reached s p := by
  unfold reached
  rw [reach_congr h, h, hqueues]

theorem cycleQueues_congr {s t : State} (h : ∀ p, waitEdges t p = waitEdges s p) (hqueues : t.queues = s.queues) (q part : Nat) :
    cycleQueues t q part = cycleQueues s q part := by
  have hreached : reached t = reached s := funext (reached_congr h hqueues)
  unfold cycleQueues
  rw [hreached, hqueues]

theorem youngest_congr {s t : State} (hqueues : t.queues = s.queues) (l : List Nat) : youngest t l = youngest s l := by
  have hbegan : waitBegan t = waitBegan s := by
    funext p
    unfold waitBegan
    rw [queueAt_of_queues s t p hqueues]
  unfold youngest
  rw [hbegan]

theorem reach_nil {s : State} (n : Nat) : reach s n [] = [] := by
  induction n with
  | zero => rfl
  | succ n ih => exact ih

/-- With no edge there is no cycle. -/
theorem cycleQueues_of_no_edges {s : State} (h : ∀ p, waitEdges s p = []) (q part : Nat) : cycleQueues s q part = [] := by
  have hreached : ∀ p, reached s p = [] := fun p => by
    unfold reached
    rw [h, reach_nil]
  unfold cycleQueues
  simp only [hreached, List.contains_nil, List.filter_nil]
  split <;> rfl

/-! ## The backstop -/

/-- The state in which the backstop has noted that a wait has exceeded its bound. -/
def boundPassed (s : State) (c : Cmd) : State := bump { s with now := max s.now (c.waitSince + waitBound s c) } 0x6F00 5 1

theorem boundPassed_youngest (s : State) (c : Cmd) (q part : Nat) :
    youngest (boundPassed s c) (cycleQueues (boundPassed s c) q part) = youngest s (cycleQueues s q part) := by
  have hclock : boundPassed s c = { s with now := max s.now (c.waitSince + waitBound s c), dict := (boundPassed s c).dict } := rfl
  have hqueues : (boundPassed s c).queues = s.queues := rfl
  have hedges (p : Nat) : waitEdges (boundPassed s c) p = waitEdges s p := by
    rw [hclock]
    exact waitEdges_clock ..
  rw [cycleQueues_congr hedges hqueues, youngest_congr hqueues]

section Backstop

variable {s : State} {q y : Nat} {Q Y : Queue} {c d : Cmd} {rest more : List Cmd}

theorem backstop_eq (hQ : queueAt s q = some Q) (hcmds : Q.cmds = c :: rest) (hwait : c.waiting = true ∨ c.objectWait = true) :
    backstop s q =
      match youngest s (cycleQueues s q Q.part) with
      | none => bump (boundPassed s c) 0x6F00 8 1
      | some y =>
        match (queueAt (boundPassed s c) y).bind fun Y => Y.cmds.head? with
        | none => boundPassed s c
        | some d =>
          if d.backstopped then fail (bump (boundPassed s c) 0x6F00 7 1) y d.uid 0x0503
          else updCmd (killQueue (bump (boundPassed s c) 0x6F00 6 1) y .uncounted) y d.uid fun d => { d with backstopped := true } := by
  rw [← boundPassed_youngest s c]
  unfold backstop
  rw [hQ]
  dsimp only
  rw [hcmds]
  dsimp only
  rw [if_neg (by rcases hwait with h | h <;> simp [h])]
  rfl

theorem backstop_strikes (hQ : queueAt s q = some Q) (hcmds : Q.cmds = c :: rest) (hwait : c.waiting = true ∨ c.objectWait = true)
    (hy : youngest s (cycleQueues s q Q.part) = some y) (hY : queueAt s y = some Y) (hd : Y.cmds = d :: more) :
    backstop s q =
      if d.backstopped then fail (bump (boundPassed s c) 0x6F00 7 1) y d.uid 0x0503
      else updCmd (killQueue (bump (boundPassed s c) 0x6F00 6 1) y .uncounted) y d.uid fun d => { d with backstopped := true } := by
  have hY' : queueAt (boundPassed s c) y = some Y := hY
  rw [backstop_eq hQ hcmds hwait, hy]
  dsimp only
  rw [hY', Option.bind_some, hd]
  rfl

end Backstop

/-- The command of a number that kills have struck stands fetched again, where none of those of its number was killed for the third time. -/
theorem find?_killAll {l cmds : List Cmd} {n : Nat} (hl : ∀ e ∈ l, e.uid = n → e.kills < 3)
    (hcmds : ∃ x, (cmds.find? fun c => c.uid = n) = some x ∧ ((x.state = .fetched ∧ x.waiting = false ∧ x.staged = []) ∨ ∃ e ∈ l, e.uid = n)) :
    ∃ x, ((killAll false l cmds).find? fun c => c.uid = n) = some x ∧ x.state = .fetched ∧ x.waiting = false ∧ x.staged = [] := by
  induction l generalizing cmds with
  | nil =>
    obtain ⟨x, hx, hreturned | ⟨e, he, _⟩⟩ := hcmds
    · exact ⟨x, hx, hreturned⟩
    · cases he
  | cons c l ih =>
    obtain ⟨x, hx, hor⟩ := hcmds
    refine ih (fun e he => hl e (List.mem_cons_of_mem _ he)) ?_
    by_cases hc : c.uid = n
    · subst hc
      have hreturned := killedCmd_returned (counts := false) (c := c) (hl c List.mem_cons_self rfl)
      have hself : ((cmds.map fun d => if d.uid = c.uid then killedCmd false c else d).find? fun d => d.uid = c.uid) = some (killedCmd false c) := by
        induction cmds with
        | nil => cases hx
        | cons z zs ihz =>
          by_cases hz : z.uid = c.uid
          · simp [hz, killedCmd_uid]
          · rw [List.find?_cons, decide_eq_false hz] at hx
            simpa [hz] using ihz hx
      refine ⟨_, hself, .inl ?_⟩
      rw [hreturned]
      exact ⟨rfl, rfl, rfl⟩
    · have hother : ((cmds.map fun d => if d.uid = c.uid then killedCmd false c else d).find? fun d => d.uid = n) = some x := by
        rw [← hx]
        clear hx hor
        induction cmds with
        | nil => rfl
        | cons z zs ihz =>
          by_cases hz : z.uid = c.uid
          · have hzn : z.uid ≠ n := fun h => hc (hz.symm.trans h)
            simp [hz, killedCmd_uid, hc, ihz]
          · simp [hz, List.find?_cons, ihz]
      refine ⟨x, hother, hor.imp_right fun ⟨e, he, hen⟩ => ?_⟩
      rcases List.mem_cons.1 he with rfl | he
      · exact absurd hen hc
      · exact ⟨e, he, hen⟩

/-- The youngest wait of a cycle, killed by the backstop, stands fetched again and marked. -/
theorem backstop_returns {s : State} {y : Nat} {Y : Queue} {d : Cmd} {more : List Cmd} (hY : queueAt s y = some Y) (hd : Y.cmds = d :: more)
    (hall : ∀ e ∈ Y.cmds, e.uid = d.uid → e.kills < 3 ∧ e.heldTo = 0 ∧ (e.state = .started ∨ e.state = .fetched ∧ e.objectWait = true)) :
    ∃ Y' d', queueAt (updCmd (strikeQueue s y .uncounted) y d.uid fun d => { d with backstopped := true }) y = some Y'
      ∧ cmdAt Y' d.uid = some d' ∧ d'.state = .fetched ∧ d'.backstopped = true ∧ d'.waiting = false ∧ d'.staged = [] := by
  obtain ⟨Y', hY', hcmds, _⟩ := strikeQueue_queue s y .uncounted hY
  have hmem : d ∈ Y.cmds := by rw [hd]; exact List.mem_cons_self
  have hstruck : d ∈ struck s.now Y := by
    obtain ⟨_, hheld, hstate⟩ := hall d hmem rfl
    refine (mem_struck hmem).2 ⟨?_, ?_, ?_⟩
    · rcases hstate with h | ⟨_, h⟩
      · exact .inl (by rw [h]; decide)
      · exact .inr h
    · rcases hstate with h | ⟨h, _⟩ <;> simp [Cmd.failed, h]
    · simp [Cmd.fixed, hheld]
  have hkilled := find?_killAll (l := struck s.now Y) (cmds := Y.cmds) (n := d.uid)
    (fun e he hen => (hall e (List.mem_filter.1 he).1 hen).1) ⟨d, by rw [hd]; simp, .inr ⟨d, hstruck, rfl⟩⟩
  obtain ⟨x, hx, hstate, hwaiting, hstaged⟩ := hkilled
  have hfind : cmdAt Y' d.uid = some x := by
    unfold cmdAt
    rw [hcmds]
    exact hx
  exact ⟨_, _, updCmd_queue _ y d.uid _ Y' hY', cmdAt_map_self Y'.cmds d.uid (fun d => { d with backstopped := true }) x (fun _ => rfl) hfind,
    hstate, rfl, hwaiting, hstaged⟩

/-- Settles O13. -/
theorem launchesAndWaitBounds : Obligations.LaunchesAndWaitBounds := by
  refine ⟨⟨fun s q Q c h => ?_, fun s q Q c hQ hfind => ?_⟩, fun s q Q c rest hQ hcmds hwait => ⟨fun hedges => ⟨_, rfl, ?_⟩, ?_⟩⟩
  · intro v may
    have hrun := runLaunch_eq h
    dsimp only at hrun
    obtain ⟨hQ, hmem, _⟩ := syncCmd_some h
    have hpass (hmay : may) : runLaunch s q = _ := hrun.trans (if_neg (launchRefused_iff.not.2 (not_not.2 hmay)))
    refine ⟨fun hmay hv => ⟨_, rfl, ?_⟩, fun hmay hlater hnear => ⟨_, rfl, ?_⟩, fun hmay hfar => ⟨_, rfl, ?_⟩, fun hmay hpast => ⟨_, rfl, ?_⟩,
      fun hmay => ⟨_, rfl, ?_⟩⟩
    · rw [hpass hmay, if_neg (show ¬yValue c.bytes < s.now by omega), if_neg (show ¬2 ^ 36 < yValue c.bytes - s.now by omega),
        if_pos (show yValue c.bytes = s.now from hv)]
      exact commitOne_committed s q c 0 Q hQ
    · obtain ⟨d, hd⟩ := cmdAt_of_mem hmem
      rw [hpass hmay, if_neg (show ¬yValue c.bytes < s.now by omega), if_neg (show ¬2 ^ 36 < yValue c.bytes - s.now by omega),
        if_neg (show ¬yValue c.bytes = s.now by omega)]
      exact ⟨(updCmd_only ..).eq_overlay, _, _, updCmd_queue s q c.uid _ Q hQ,
        cmdAt_map_self Q.cmds c.uid (fun c => { c with waiting := true, waitSince := s.now }) d (fun _ => rfl) hd, rfl⟩
    · rw [hpass hmay, if_neg (show ¬yValue c.bytes < s.now by omega), if_pos (show 2 ^ 36 < yValue c.bytes - s.now by omega)]
      exact fail_syncCmd h rfl 0x0301
    · rw [hpass hmay, if_pos hpast]
      exact ⟨fail_syncCmd h (u := bump s 0x6F00 10 1) rfl 0x0508, rfl⟩
    · rw [hrun, if_pos (launchRefused_iff.2 hmay)]
      exact fail_syncCmd h rfl 0x0509
  · refine ⟨_, rfl, ?_⟩
    rw [launchBeat_eq hQ hfind]
    exact ⟨commitOne_committed _ q c 0 Q hQ, (commitOne_only ..).same .now (by decide)⟩
  · have hnone : youngest s (cycleQueues s q Q.part) = none := by
      rw [cycleQueues_of_no_edges hedges]
      rfl
    rw [backstop_eq hQ hcmds hwait, hnone]
    refine ⟨?_, ?_, rfl⟩
    · unfold Counted dnum
      rw [dget_bump_other _ _ _ _ _ (by decide)]
      exact dnum_bump_self ..
    · refine (dnum_bump_self ..).trans ?_
      unfold dnum boundPassed
      rw [dget_bump_other _ _ _ _ _ (by decide)]
      rfl
  · intro u y Y d more hy hY hd
    have heq := backstop_strikes hQ hcmds hwait hy hY hd
    have hmem : d ∈ Y.cmds := by rw [hd]; exact List.mem_cons_self
    have hfound : cmdAt Y d.uid = some d := by
      unfold cmdAt
      rw [hd]
      simp
    have hY' : queueAt (bump (boundPassed s c) 0x6F00 6 1) y = some Y := hY
    refine ⟨fun hmarked => ⟨_, rfl, ?_⟩, fun hmarked hthrottle => ⟨_, rfl, ?_⟩, fun hmarked hthrottle hall => ⟨_, rfl, ?_⟩⟩
    · rw [heq, if_pos hmarked]
      exact ⟨fail_failed _ y d.uid 0x0503 Y d hY hfound, rfl⟩
    · rw [heq, if_neg (by rw [hmarked]; decide), killQueue_throttled .uncounted hY' hthrottle]
      have hheld : queueAt (updQueue (bump (boundPassed s c) 0x6F00 6 1) y fun Q =>
          { Q with heldKill := some (Q.heldKill.elim .uncounted (joinKills · .uncounted)) }) y
          = some { Y with heldKill := some (Y.heldKill.elim .uncounted (joinKills · .uncounted)) } := by
        rw [queueAt_updQueue, if_pos rfl, show queueAt (bump (boundPassed s c) 0x6F00 6 1) y = some Y from hY]
        rfl
      exact ⟨_, _, updCmd_queue _ y d.uid _ _ hheld, cmdAt_map_self Y.cmds d.uid (fun d => { d with backstopped := true }) d (fun _ => rfl) hfound,
        rfl, rfl, rfl⟩
    · rw [heq, if_neg (by rw [hmarked]; decide), killQueue_strikes .uncounted hY' hthrottle]
      exact ⟨rfl, backstop_returns hY' hd hall⟩

end Sys2Proof.Machine

/-! PROOFS. COMMIT and the commands of its window. -/

namespace Sys2Proof.Machine

/-! ## What the commits of a window keep -/

/-- Queue `q` is there, and its oldest open window is `w`. -/
def WindowIs (q : Nat) (w : Option Nat) (s : State) : Prop := (queueAt s q).map Queue.window = some w

theorem WindowIs.isSome {q : Nat} {w : Option Nat} {s : State} (h : WindowIs q w s) : (queueAt s q).isSome = true := by
  obtain ⟨Q, hQ, _⟩ := Option.map_eq_some_iff.1 h
  rw [hQ]
  rfl

theorem WindowIs.commitOne {q : Nat} {w : Option Nat} {s : State} (h : WindowIs q w s) (p : Nat) (c : Cmd) (st : Status) :
    WindowIs q w (commitOne s p c st) := by
  by_cases hp : q = p
  · subst hp
    obtain ⟨Q, hQ, rfl⟩ := Option.map_eq_some_iff.1 h
    obtain ⟨Q', hQ', _, hwindow⟩ := commitOne_cmds s q c st hQ
    unfold WindowIs
    rw [hQ', Option.map_some, hwindow]
  · unfold WindowIs
    rw [(commitOne_others s p c st).same q hp]
    exact h

/-- A signal's effect keeps what commits keep, where it tells of the queues alone. -/
theorem signalEffect_keeps (P : State → Prop) (hcommit : ∀ s q c st, P s → P (commitOne s q c st))
    (hqueues : ∀ s t, t.queues = s.queues → P s → P t) {s t : State} {Q : Queue} {c : Cmd} (h : signalEffect s Q c = some t) (hs : P s) :
    P t := by
  have hput (s : State) (obj : Nat) (o : SyncObj) (hs : P s) : P (putSync s obj o) := hqueues s _ rfl hs
  have hone (obj : Nat) (s : State) (w : Waiter) (hs : P s) : P (reexamineOne obj s w) := by
    unfold reexamineOne
    split
    · split
      · exact hs
      · split
        · exact hs
        · exact hcommit _ _ _ _ (hput _ _ _ hs)
    · exact hs
  have hexamined (obj : Nat) (o : SyncObj) : P (reexamine (putSync s obj o) obj) := by
    rw [reexamine_putSync]
    exact foldl_keeps P _ (hone obj) _ _ (hput s obj o hs)
  unfold signalEffect at h
  split at h
  · cases h
    exact hqueues _ _ ((sendSignal_only ..).same .queues (by decide)) hs
  · split at h
    · cases h
      exact hs
    · unfold applyChange at h
      split at h
      · cases h
        exact hs
      · split at h
        · split at h
          · cases h
          · cases h
            exact hexamined ..
        · cases h
          exact hexamined ..
        · cases h
          exact hexamined ..
        · cases h
          exact hexamined ..
        · cases h
          exact hs

/-- The state in which a member of a window commits: its signal has taken effect. -/
def memberSignalled (s : State) (q : Nat) (c : Cmd) : State :=
  if c.op = 5 && isSignal (yOp c.bytes) then ((queueAt s q).bind fun Q => signalEffect s Q c).getD s else s

theorem memberSignalled_keeps (P : State → Prop) (hcommit : ∀ s q c st, P s → P (commitOne s q c st))
    (hqueues : ∀ s t, t.queues = s.queues → P s → P t) (s : State) (q : Nat) (c : Cmd) (hs : P s) : P (memberSignalled s q c) := by
  unfold memberSignalled
  split
  · cases heffect : (queueAt s q).bind fun Q => signalEffect s Q c with
    | none => exact hs
    | some t =>
      obtain ⟨Q, _, h⟩ := Option.bind_eq_some_iff.1 heffect
      exact signalEffect_keeps P hcommit hqueues h hs
  · exact hs

theorem commitMember_eq (s : State) (q : Nat) (c : Cmd) : ∃ st, commitMember s q c = commitOne (memberSignalled s q c) q c st := ⟨_, rfl⟩

theorem commitMember_keeps (P : State → Prop) (hcommit : ∀ s q c st, P s → P (commitOne s q c st))
    (hqueues : ∀ s t, t.queues = s.queues → P s → P t) (q : Nat) (s : State) (c : Cmd) (hs : P s) : P (commitMember s q c) := by
  obtain ⟨st, heq⟩ := commitMember_eq s q c
  rw [heq]
  exact hcommit _ _ _ _ (memberSignalled_keeps P hcommit hqueues s q c hs)

theorem WindowIs.of_queues {q : Nat} {w : Option Nat} (s t : State) (ht : t.queues = s.queues) (h : WindowIs q w s) : WindowIs q w t := by
  unfold WindowIs
  rw [queueAt_of_queues s t q ht]
  exact h

theorem Gone.of_queues {q uid : Nat} (s t : State) (ht : t.queues = s.queues) (h : Gone s q uid) : Gone t q uid := by
  obtain ⟨Q, hQ, hnone⟩ := h
  exact ⟨Q, (queueAt_of_queues s t q ht).trans hQ, hnone⟩

theorem commitMember_window {q : Nat} {w : Option Nat} {s : State} (h : WindowIs q w s) (c : Cmd) : WindowIs q w (commitMember s q c) :=
  commitMember_keeps (WindowIs q w) (fun _ p d st hs => hs.commitOne p d st) .of_queues q s c h

theorem commitMember_gone {q : Nat} {s : State} {w : Option Nat} (h : WindowIs q w s) (c : Cmd) : Gone (commitMember s q c) q c.uid := by
  obtain ⟨st, heq⟩ := commitMember_eq s q c
  rw [heq]
  exact commitOne_gone _ q c st
    (memberSignalled_keeps (WindowIs q w) (fun _ p d st hs => hs.commitOne p d st) .of_queues s q c h).isSome

/-- The members of a window commit one after another: each leaves the queue, and no window closes. -/
theorem foldl_commitMember {q : Nat} {w : Option Nat} (l : List Cmd) (s : State) (h : WindowIs q w s) :
    let t := l.foldl (fun s c => commitMember s q c) s
    WindowIs q w t ∧ ∀ c ∈ l, Gone t q c.uid := by
  induction l generalizing s with
  | nil => exact ⟨h, by simp⟩
  | cons c l ih =>
    obtain ⟨hwindow, hgone⟩ := ih _ (commitMember_window h c)
    refine ⟨hwindow, fun d hd => ?_⟩
    rcases List.mem_cons.1 hd with rfl | hl
    · refine foldl_keeps (fun s => Gone s q d.uid) _ (fun s c hs => ?_) l _ (commitMember_gone h d)
      exact commitMember_keeps (fun s => Gone s q d.uid) (fun _ p d st hs => hs.commitOne p d st) .of_queues q s c hs
    · exact hgone d hl

/-! ## The fault of a window -/

theorem windowFault_mem {s : State} {q : Nat} {Q : Queue} {objs : FMap SyncObj} {l : List Cmd} {c : Cmd} {st : Status}
    (h : windowFault s q Q objs l = some (c, st)) : c ∈ l := by
  induction l generalizing objs with
  | nil => cases h
  | cons d l ih =>
    unfold windowFault at h
    split at h
    · exact List.mem_cons_of_mem _ (ih h)
    · split at h
      · exact List.mem_cons_of_mem _ (ih h)
      · split at h
        · cases h
          exact List.mem_cons_self
        · exact List.mem_cons_of_mem _ (ih h)

/-! ## COMMIT -/

section Commit

variable {s : State} {q first : Nat} {Q : Queue} {k : Cmd}

theorem runCommit_alone (hQ : queueAt s q = some Q) (hk : (Q.cmds.find? fun c => c.op = 6 && c.state = .started) = some k)
    (hmay : mayCommit Q k = true) (hwindow : ∀ first, Q.window = some first → k.uid < first)
    (hbefore : (Q.cmds.takeWhile fun c => c.uid ≠ k.uid) = []) : runCommit s q = commitOne s q k 0 := by
  unfold runCommit
  rw [hQ]
  dsimp only
  rw [hk]
  dsimp only
  rw [hbefore]
  cases hw : Q.window with
  | none => exact if_pos (by simp [hmay])
  | some first =>
    dsimp only
    rw [if_pos (hwindow first hw)]
    exact if_pos (by simp [hmay])

theorem runCommit_fault {c : Cmd} {st : Status} (hQ : queueAt s q = some Q) (hk : (Q.cmds.find? fun c => c.op = 6 && c.state = .started) = some k)
    (hmay : mayCommit Q k = true) (hwindow : Q.window = some first) (hfirst : first ≤ k.uid)
    (hall : ((Q.cmds.takeWhile fun c => c.uid ≠ k.uid).all fun c => first ≤ c.uid && c.done && !c.failed && c.acked) = true)
    (hfault : windowFault s q Q s.sync (Q.cmds.takeWhile fun c => c.uid ≠ k.uid) = some (c, st)) : runCommit s q = fail s q c.uid st := by
  unfold runCommit
  rw [hQ]
  dsimp only
  rw [hk]
  dsimp only
  rw [hwindow]
  dsimp only
  rw [if_neg (Nat.not_lt.2 hfirst), if_pos (by rw [hmay, hall]; rfl), hfault]

theorem runCommit_together (hQ : queueAt s q = some Q) (hk : (Q.cmds.find? fun c => c.op = 6 && c.state = .started) = some k)
    (hmay : mayCommit Q k = true) (hwindow : Q.window = some first) (hfirst : first ≤ k.uid)
    (hall : ((Q.cmds.takeWhile fun c => c.uid ≠ k.uid).all fun c => first ≤ c.uid && c.done && !c.failed && c.acked) = true)
    (hfault : windowFault s q Q s.sync (Q.cmds.takeWhile fun c => c.uid ≠ k.uid) = none) :
    runCommit s q = commitOne ((Q.cmds.takeWhile fun c => c.uid ≠ k.uid).foldl (fun s c => commitMember s q c)
      (updQueue s q fun Q => Q.withWindows Q.laterWindows)) q k 0 := by
  unfold runCommit
  rw [hQ]
  dsimp only
  rw [hk]
  dsimp only
  rw [hwindow]
  dsimp only
  rw [if_neg (Nat.not_lt.2 hfirst), if_pos (by rw [hmay, hall]; rfl), hfault]

end Commit

/-- Settles O14. -/
theorem commitWindow : Obligations.CommitWindow := by
  intro s q Q k hQ hk hmay before
  refine ⟨fun hwindow hbefore => ⟨_, rfl, ?_⟩, fun first hwindow hfirst hall => ⟨fun hnone => ⟨_, rfl, ?_⟩, fun c st hfault => ⟨_, rfl, ?_⟩⟩⟩
  · rw [runCommit_alone hQ hk hmay hwindow hbefore]
    exact commitOne_committed s q k 0 Q hQ
  · have heq := runCommit_together hQ hk hmay hwindow hfirst hall hnone
    have hclosed : WindowIs q Q.laterWindows.head? (updQueue s q fun Q => Q.withWindows Q.laterWindows) := by
      unfold WindowIs
      rw [queueAt_updQueue, if_pos rfl, hQ]
      rfl
    obtain ⟨hleft, hgone⟩ := foldl_commitMember before _ hclosed
    rw [heq]
    exact ⟨commitOne_gone _ q k 0 hleft.isSome, fun c hc => (hgone c hc).commitOne q k 0, hleft.commitOne q k 0⟩
  · have heq := runCommit_fault hQ hk hmay hwindow hfirst hall hfault
    have hmem : c ∈ Q.cmds := List.takeWhile_subset _ (windowFault_mem hfault)
    obtain ⟨d, hd⟩ := cmdAt_of_mem hmem
    rw [heq]
    exact ⟨fail_failed s q c.uid st Q d hQ hd, fail_sync s q c.uid st hQ hd⟩

end Sys2Proof.Machine

/-! PROOFS. NOP, YIELD and RUN; a command whose job is being restored. -/

namespace Sys2Proof.Machine

/-! ## NOP and YIELD -/

theorem oldestOf_some {s : State} {q op : Nat} {Q : Queue} {c : Cmd} (h : oldestOf s q op = some (Q, c)) :
    queueAt s q = some Q ∧ c.op = op ∧ (∃ rest, Q.cmds = c :: rest) ∧ c.state = .started := by
  unfold oldestOf at h
  split at h
  · cases h
  · next Q' hQ =>
    split at h
    · cases h
    · next c' rest hcmds =>
      split at h
      · next hcond =>
        cases h
        simp only [Bool.and_eq_true, decide_eq_true_eq] at hcond
        exact ⟨hQ, hcond.1.1.1, ⟨rest, hcmds⟩, hcond.1.1.2⟩
      · cases h

/-- The oldest command of its queue is the one of its number. -/
theorem cmdAt_oldest {Q : Queue} {c : Cmd} {rest : List Cmd} (h : Q.cmds = c :: rest) : cmdAt Q c.uid = some c := by
  unfold cmdAt
  rw [h]
  simp

/-- A queue that holds keeps what it has committed. -/
theorem Committed.holdQueue {Q : Queue} {t : State} {q : Nat} {c : Cmd} (h : Committed Q t q c) : Committed Q (holdQueue t q) q c := by
  obtain ⟨Q', hQ', hc, hseq, hrun⟩ := h
  obtain ⟨f, w, hf⟩ := holdQueue_queue t q q
  rw [hQ'] at hf
  exact ⟨_, hf, hc, hseq, hrun⟩

theorem runNop_oldest {s : State} {q : Nat} {Q : Queue} {c : Cmd} (h : oldestOf s q 15 = some (Q, c)) : runNop s q = commitOne s q c 0 := by
  unfold runNop
  rw [h]

theorem runNop_inWindow {s : State} {q : Nat} {Q : Queue} {c : Cmd} (h : oldestOf s q 15 = none) (hQ : queueAt s q = some Q)
    (hfind : (Q.cmds.find? fun c => c.op = 15 && c.state = .started && inWindow Q c) = some c) : runNop s q = finish s q c.uid 0 id := by
  unfold runNop
  rw [h, hQ]
  dsimp only
  rw [hfind]

theorem runYield_oldest {s : State} {q : Nat} {Q : Queue} {c : Cmd} (h : oldestOf s q 8 = some (Q, c)) :
    runYield s q = holdQueue (commitOne s q c 0) q := by
  unfold runYield
  rw [h]

/-! ## The stream of a RUN -/

/-- A queue with the commands and the running RUN of another. -/
theorem noteWaiting_queue (s : State) (q : Nat) {Q : Queue} (hQ : queueAt s q = some Q) :
    ∃ w, queueAt (noteWaiting s q) q = some { Q with waitingSince := w } := by
  unfold noteWaiting
  rw [hQ]
  dsimp only
  split
  · exact ⟨some (Q.waitingSince.getD s.now), by rw [queueAt_updQueue, if_pos rfl, hQ]; rfl⟩
  · exact ⟨Q.waitingSince, hQ⟩

theorem noteWaiting_others (s : State) (q : Nat) : OtherQueues q s (noteWaiting s q) := by
  unfold noteWaiting
  split
  · exact .refl s
  · exact .ite (updQueue_others ..) (.refl s)

theorem requestWake_queueAt (s : State) (core q : Nat) : queueAt (requestWake s core) q = queueAt s q :=
  (requestWake_only s core).queueAt (by decide) q

/-- A command joins the end of its queue. -/
theorem enqueue_queue (s : State) (q : Nat) (c : Cmd) {Q : Queue} (hQ : queueAt s q = some Q) :
    ∃ w, queueAt (enqueue s q c) q = some { Q with cmds := Q.cmds ++ [c], waitingSince := w } := by
  unfold enqueue
  extract_lets src s1
  have h1 : queueAt s1 q = some { Q with cmds := Q.cmds ++ [c] } := by
    have hjoin := queueAt_updQueue s q q fun Q => { Q with cmds := Q.cmds ++ [c] }
    rw [if_pos rfl, hQ] at hjoin
    exact hjoin
  have h2 : queueAt (if opEngine c.op then requestWake s1 c.core else s1) q = some { Q with cmds := Q.cmds ++ [c] } := by
    split
    · rw [requestWake_queueAt, h1]
    · exact h1
  obtain ⟨w, hw⟩ := noteWaiting_queue _ q h2
  exact ⟨w, hw⟩

theorem enqueue_others (s : State) (q : Nat) (c : Cmd) : OtherQueues q s (enqueue s q c) := by
  unfold enqueue
  extract_lets src s1
  have h1 : OtherQueues q s s1 := ⟨(updQueue_others s q fun Q => { Q with cmds := Q.cmds ++ [c] }).same⟩
  have h2 : OtherQueues q s1 (if opEngine c.op then requestWake s1 c.core else s1) :=
    .ite (.of_only (requestWake_only ..) (by decide)) (.refl s1)
  exact (h1.trans h2).trans (noteWaiting_others ..)

/-- The commands of a stream join the queue in order. -/
theorem foldl_enqueue_queue (q : Nat) (f : Nat → State → Cmd) (g : Nat → Option Nat × Nat × List Byte)
    (hf : ∀ i s, ((f i s).stream, (f i s).run, (f i s).bytes) = g i) (l : List Nat) (s : State) {Q : Queue} (hQ : queueAt s q = some Q) :
    ∃ new w, queueAt (l.foldl (fun s i => enqueue s q (f i s)) s) q = some { Q with cmds := Q.cmds ++ new, waitingSince := w }
      ∧ new.map (fun d => (d.stream, d.run, d.bytes)) = l.map g := by
  induction l generalizing s Q with
  | nil => exact ⟨[], Q.waitingSince, by simpa using hQ, rfl⟩
  | cons i l ih =>
    obtain ⟨w, hw⟩ := enqueue_queue s q (f i s) hQ
    obtain ⟨new, w', hnew, hmap⟩ := ih _ hw
    refine ⟨f i s :: new, w', ?_, ?_⟩
    · rw [List.foldl_cons, hnew]
      simp
    · rw [List.map_cons, hmap, List.map_cons, hf]

/-- The RUN that a queue runs stays while a command of its stream stands there. -/
theorem commitRuns_running (q n : Nat) {run d : Cmd} (hd : d.stream.isSome = true ∧ d.run = run.uid) :
    ∀ (s : State) (Q : Queue), queueAt s q = some Q → Q.running = some run → d ∈ Q.cmds →
      ∃ Q', queueAt (commitRuns n s q) q = some Q' ∧ Q'.cmds = Q.cmds ∧ Q'.running = some run := by
  induction n with
  | zero => exact fun s Q hQ hrun _ => ⟨Q, hQ, rfl, hrun⟩
  | succ n ih =>
    intro s Q hQ hrun hmem
    unfold commitRuns
    rw [hQ]
    dsimp only
    split
    · exact ⟨Q, hQ, rfl, hrun⟩
    · next r l hr =>
      split
      · exact ⟨Q, hQ, rfl, hrun⟩
      · next hended =>
        have hearlier : Q.earlierRuns.isEmpty = false := by
          rw [Bool.eq_false_iff]
          intro hempty
          rw [Queue.runs, List.isEmpty_iff.1 hempty, hrun] at hr
          cases hr
          refine hended ?_
          have hany : (Q.cmds.any fun c => (c.stream.isSome && c.run = run.uid) || c.uid < run.uid) = true :=
            List.any_eq_true.2 ⟨d, hmem, by simp [hd]⟩
          simp [runEnded, hany]
        generalize hs : updQueue _ q _ = s2
        have h2 : queueAt s2 q = some { Q with
            cpls := Q.cpls + 1, committed := r.seq, running := if Q.earlierRuns.isEmpty then none else Q.running
            earlierRuns := Q.earlierRuns.drop 1 } := by
          rw [← hs, queueAt_updQueue, if_pos rfl, putCompletion_queue _ q r 0 Q ((queueAt_trace ..).trans hQ)]
          rfl
        obtain ⟨f, w, hf⟩ := holdQueue_queue s2 q q
        rw [h2] at hf
        have hnext := (queueAt_releaseHeld (holdQueue s2 q) q).trans hf
        obtain ⟨Q', hQ', hcmds, hrunning⟩ := ih _ _ hnext (by rw [hearlier]; exact hrun) hmem
        exact ⟨Q', hQ', hcmds, hrunning⟩

theorem commitRun_running {s : State} {q : Nat} {Q : Queue} {run d : Cmd} (hQ : queueAt s q = some Q) (hrun : Q.running = some run)
    (hmem : d ∈ Q.cmds) (hd : d.stream.isSome = true ∧ d.run = run.uid) :
    ∃ Q', queueAt (commitRun s q) q = some Q' ∧ Q'.running = some run := by
  unfold commitRun
  rw [hQ]
  obtain ⟨Q', hQ', _, hrunning⟩ := commitRuns_running q Q.runs.length hd s Q hQ hrun hmem
  exact ⟨Q', hQ', hrunning⟩

/-! ## RUN -/

section Run

variable {s : State} {q : Nat} {Q : Queue} {c : Cmd}

theorem runRun_fails (hQ : queueAt s q = some Q) (hfind : (Q.cmds.find? fun c => c.op = 11 && c.state = .started) = some c)
    (hst : runStatus s q Q c ≠ 0) : runRun s q = fail s q c.uid (runStatus s q Q c) := by
  unfold runRun
  rw [hQ]
  dsimp only
  rw [hfind]
  exact if_pos hst

/-- The state in which a RUN has taken its place as the queue's running one. -/
def runTaken (s : State) (q j : Nat) (J : Job) (c : Cmd) : State :=
  let i := field c.bytes 16 4
  let s := if J.launched.isNone then journalLaunch s J else s
  let s := updJob s j fun J =>
    { J with launched := some (J.launched.getD s.now), ran := if J.ran.contains i then J.ran else J.ran ++ [i] }
  updQueue s q fun Q =>
    { Q with
      earlierRuns := Q.runs
      running := some { c with startedAt := s.now }
      cmds := Q.cmds.filter fun d => d.uid ≠ c.uid }

theorem runRun_starts {j : Nat} {J : Job} {st : Stream} (hQ : queueAt s q = some Q)
    (hfind : (Q.cmds.find? fun c => c.op = 11 && c.state = .started) = some c) (hst : runStatus s q Q c = 0) (hj : Q.job = some j)
    (hJ : jobAt s j = some J) (hstream : J.streams[field c.bytes 16 4]? = some st) :
    runRun s q = commitRun (streamCmds (runTaken s q j J c) q st c) q := by
  unfold runRun
  rw [hQ]
  dsimp only
  rw [hfind]
  dsimp only
  rw [if_neg (not_not.2 hst), hj, Option.bind_some, hJ, Option.map_some]
  dsimp only
  rw [List.getD_eq_getElem?_getD, hstream]
  rfl

theorem runTaken_queue (j : Nat) (J : Job) (hQ : queueAt s q = some Q) :
    ∃ n, queueAt (runTaken s q j J c) q = some { Q with
      earlierRuns := Q.runs, running := some { c with startedAt := n }, cmds := Q.cmds.filter fun d => d.uid ≠ c.uid } := by
  unfold runTaken
  extract_lets i s1 s2
  have h1 : Only [.dict, .tel, .pins, .hostOut] s s1 := .mono (by rfl) <| .ite (journalLaunch_only ..) (.refl s)
  have hupd : Only [.jobs] s1 s2 := updJob_only ..
  have h2 : queueAt s2 q = queueAt s q := (h1.trans hupd).queueAt (by decide) q
  refine ⟨s2.now, ?_⟩
  rw [queueAt_updQueue, if_pos rfl, h2, hQ]
  rfl

end Run

/-- Settles O28. -/
theorem nopYieldRun : Obligations.NopYieldRun := by
  refine ⟨fun s q Q c => ⟨fun h => ⟨_, rfl, ?_⟩, fun h => ⟨_, rfl, ?_⟩, fun h hQ hfind => ⟨_, rfl, ?_⟩⟩, fun s q Q c hQ hfind => ⟨fun hst => ⟨_, rfl, ?_⟩,
    fun hnone => ?_, fun j J st hst hj hJ hstream => ⟨_, rfl, ?_⟩⟩⟩
  · obtain ⟨hQ, hop, _, _⟩ := oldestOf_some h
    rw [runNop_oldest h]
    exact ⟨commitOne_committed s q c 0 Q hQ, commitOne_cores s q c 0 (by rw [hop]; rfl), (commitOne_only ..).same .now (by decide)⟩
  · obtain ⟨hQ, hop, _, _⟩ := oldestOf_some h
    have hhold := holdQueue_only (commitOne s q c 0) q
    rw [runYield_oldest h]
    exact ⟨(commitOne_committed s q c 0 Q hQ).holdQueue, (hhold.same .cores (by decide)).trans (commitOne_cores s q c 0 (by rw [hop]; rfl)),
      (hhold.same .now (by decide)).trans ((commitOne_only ..).same .now (by decide))⟩
  · obtain ⟨d, hd⟩ := cmdAt_of_mem (List.mem_of_find?_eq_some hfind)
    obtain ⟨Q', hQ', hd'⟩ := finish_finished s q c.uid 0 id Q d (fun _ => rfl) hQ hd
    rw [runNop_inWindow h hQ hfind]
    exact ⟨⟨Q', _, hQ', hd', rfl⟩, (finish_only ..).eq_overlay⟩
  · obtain ⟨d, hd⟩ := cmdAt_of_mem (List.mem_of_find?_eq_some hfind)
    rw [runRun_fails hQ hfind hst]
    exact fail_failed s q c.uid _ Q d hQ hd
  · unfold runStatus
    rw [hnone]
  · rw [runRun_starts hQ hfind hst hj hJ hstream]
    obtain ⟨n, htaken⟩ := runTaken_queue (c := c) j J hQ
    obtain ⟨new, w, hnew, hmap⟩ := foldl_enqueue_queue q
      (fun i s => { uid := s.uid, bytes := bindRecord st c.bytes i (st.cmds.getD i []), stream := some i, run := c.uid, fetchedAt := s.now })
      (fun i => (some i, c.uid, bindRecord st c.bytes i (st.cmds.getD i []))) (fun i s => rfl) (List.range st.cmds.length) _ htaken
    have hjoined : queueAt (streamCmds (runTaken s q j J c) q st c) q = _ := hnew
    obtain ⟨Q', hQ', hcmds, _⟩ := commitRun_window _ q hjoined
    refine ⟨Q', hQ', fun hsome => ?_, ?_, ?_⟩
    · obtain ⟨d, hd⟩ := List.exists_mem_of_ne_nil new (by
        rintro rfl
        refine hsome (List.length_eq_zero_iff.1 ?_)
        simpa using congrArg List.length hmap.symm)
      have hmem : (d.stream, d.run, d.bytes) ∈ (List.range st.cmds.length).map
          fun i => (some i, c.uid, bindRecord st c.bytes i (st.cmds.getD i [])) := hmap ▸ List.mem_map_of_mem hd
      obtain ⟨i, _, hi⟩ := List.mem_map.1 hmem
      simp only [Prod.mk.injEq] at hi
      obtain ⟨P, hP, hrunning⟩ := commitRun_running (run := { c with startedAt := n }) (d := d) hjoined rfl
        (List.mem_append_right _ hd) ⟨by rw [← hi.1]; rfl, hi.2.1.symm⟩
      rw [hQ'] at hP
      cases hP
      rw [hrunning]
      rfl
    · rw [hcmds]
      simp
    · rw [hcmds, ← hmap]
      simp

end Sys2Proof.Machine

/-! PROOFS. A queue whose job is being restored: its command does not start, and its waiting is not noted. -/

namespace Sys2Proof.Machine

/-- A RUN that has been fetched. -/
def fetchedRun : Cmd := { uid := 5, bytes := [11] }

/-- A queue of job 7 with a fetched RUN, which does not wait. -/
def restoredQueue : Queue :=
  { part := 0, fn := 0, page := 0, ringBase := 0, cplBase := 0, slots := 64, ringHbm := true, cplHbm := false, vector := 0
    job := some 7, cmds := [fetchedRun] }

/-- A job whose cores have been granted again, and whose saved contents are being restored (R314). -/
def restoredJob : Job :=
  { part := 0, fn := 0, priority := 4, seed := 0, batch := 0, updates := 0, moduleIdx := 0, modules := 1, digest := [], baseDigest := []
    grouped := false, roles := [0], streams := [], bufs := [], rings := [], reds := [], syncs := [], live := [], coreSet := [0]
    clipT := 65, calmL := 16, reserved := 0, grant := .restoring }

/-- The module with that queue and that job. -/
def restoredState : State := { State.reset with queues := [(0, restoredQueue)], jobs := [(7, restoredJob)] }

theorem nextStart_restored : nextStart restoredState 0 = some (restoredQueue, fetchedRun) := rfl

/-- The RUN is held back, and nothing is noted: the queue does not lack cores. -/
theorem commandStart_restored : commandStart restoredState 0 = restoredState := by
  unfold commandStart
  rw [nextStart_restored]
  rfl

/-- Refutes O25: a job whose saved contents are being restored has not been granted its cores, so its RUN does not start; but it
does not lack cores either, so the beat from which the queue waits is not noted. -/
theorem not_commandStarts : ¬ Obligations.CommandStarts := by
  intro h
  obtain ⟨hwaits, _⟩ := h restoredState 0 restoredQueue fetchedRun nextStart_restored
  obtain ⟨t, ht, _, hqueue⟩ := hwaits rfl rfl
  have hexec : exec (.commandStart 0) restoredState = .next restoredState := congrArg Host.Outcome.next commandStart_restored
  rw [hexec] at ht
  cases ht
  have hsince : (none : Option Nat) = some restoredState.now := congrArg (fun Q => Q.bind Queue.waitingSince) hqueue
  cases hsince

end Sys2Proof.Machine

/-! PROOFS. Fetch of a ring command, and the checks of its record. -/

namespace Sys2Proof.Machine

/-! ## The checks of a record -/

theorem opRing_iff (op : Nat) : opRing op = true ↔ op ∈ [4, 5, 6, 9, 10, 11, 15] := by
  simp [opRing, or_assoc]

section FetchStatus

variable {s : State} {Q : Queue} {r : List Byte}

theorem fetchStatus_quarantined (h : Q.quarantined = true) : fetchStatus s Q r = 0x0213 := if_pos h

theorem fetchStatus_reserved (h : Q.quarantined = false) (hop : opKnown (rOp r) = true) (hres : reservedOk r = false) :
    fetchStatus s Q r = 0x0302 := by
  unfold fetchStatus
  rw [if_neg (by rw [h]; decide), if_pos (by rw [hop, hres]; rfl)]

/-- The checks behind the reserved bits. -/
theorem fetchStatus_reserved_passed (h : Q.quarantined = false) (hres : reservedOk r = true ∨ opKnown (rOp r) = false) :
    fetchStatus s Q r = if !opRing (rOp r) then 0x0303
      else if rExt r then 0x0301
      else if rSeq r ≠ Q.expected then 0x030E
      else if !fieldsOk r then 0x0301
      else if rOp r = 9 && !allocSizeOk r then 0x0203
      else if rOp r = 4 && !corePart s Q.part (rCore r) then 0x030F
      else if rOp r = 5 then ringSyncStatus s Q r
      else 0 := by
  unfold fetchStatus
  rw [if_neg (by rw [h]; decide), if_neg (by rcases hres with h | h <;> simp [h])]

end FetchStatus

/-! ## The fetch -/

/-- A ring command may be fetched: the queue, its function and the way to its ring allow it. -/
def MayFetchNow (s : State) (Q : Queue) (records : List Byte) : Prop :=
  mayFetch Q (recordCount (fetchedRecords s Q records)) = true ∧ inReset s Q.fn = false ∧ fetchPaused s Q = false

/-- The bytes of the ring command that is fetched. -/
def fetchedBytes (s : State) (Q : Queue) (records : List Byte) : List Byte :=
  slice (fetchedRecords s Q records) 0 (64 * recordCount (fetchedRecords s Q records))

/-- The state in which the read of host memory has been recorded. -/
def fetchJournalled (s : State) (q : Nat) (Q : Queue) (r : List Byte) : State :=
  if Q.ringHbm then s else journal s 2 (moduleOf s q) q 0 (Q.ringBase + 64 * (Q.head % Q.slots)) r

theorem fetchJournalled_only (s : State) (q : Nat) (Q : Queue) (r : List Byte) :
    Only [.dict, .tel, .pins, .hostOut] s (fetchJournalled s q Q r) := by
  unfold fetchJournalled
  exact .mono (by rfl) <| .ite (.refl s) (journal_only ..)

theorem enqueue_uid (s : State) (q : Nat) (c : Cmd) : (enqueue s q c).uid = s.uid + 1 := by
  unfold enqueue
  extract_lets src s1
  have hwake : Only [.dict, .clusters, .cores] s1 (if opEngine c.op then requestWake s1 c.core else s1) :=
    .mono (by rfl) <| .ite (requestWake_only ..) (.refl s1)
  rw [show State.uid _ = _ from (noteWaiting_only ..).same .uid (by decide), show State.uid _ = _ from hwake.same .uid (by decide)]

section Fetch

variable {s : State} {q : Nat} {Q : Queue} {records : List Byte}

theorem ringFetch_not (hQ : queueAt s q = some Q) (h : ¬MayFetchNow s Q records) : ringFetch s q records = s := by
  unfold ringFetch
  rw [hQ]
  dsimp only
  refine if_pos ?_
  by_contra hcon
  simp only [Bool.or_eq_true, not_or, Bool.not_eq_true', Bool.not_eq_true, Bool.not_eq_false] at hcon
  exact h ⟨hcon.1.1, hcon.1.2, hcon.2⟩

/-- A fetched record that passes every check joins its queue. -/
theorem ringFetch_joins (hQ : queueAt s q = some Q) (h : MayFetchNow s Q records)
    (hst : fetchStatus (fetchJournalled s q Q (fetchedBytes s Q records)) Q (fetchedBytes s Q records) = 0) :
    (ringFetch s q records).uid = s.uid + 1 ∧ (∀ p, p ≠ q → queueAt (ringFetch s q records) p = queueAt s p)
      ∧ ∃ Q', queueAt (ringFetch s q records) q = some Q'
        ∧ Q'.head = (Q.head + recordCount (fetchedRecords s Q records)) % 2 ^ 32
        ∧ Q'.expected = (Q.expected + 1) % 2 ^ 32
        ∧ Q'.cmds = Q.cmds ++ [{ uid := s.uid, bytes := fetchedBytes s Q records, fetchedAt := s.now }] := by
  obtain ⟨hmay, hreset, hpaused⟩ := h
  have hjournal := fetchJournalled_only s q Q (fetchedBytes s Q records)
  generalize ht : ringFetch s q records = t
  unfold ringFetch at ht
  rw [hQ] at ht
  dsimp -zeta only at ht
  extract_lets recs n r s1 st c s2 at ht
  rw [if_neg (by rw [hmay, hreset, hpaused]; decide), if_neg (show ¬st ≠ 0 from not_not.2 hst)] at ht
  subst ht
  have huid : s1.uid = s.uid := hjournal.same .uid (by decide)
  have hnow : s1.now = s.now := hjournal.same .now (by decide)
  have hpast : queueAt s2 q = some { Q with head := (Q.head + n) % 2 ^ 32, expected := (Q.expected + 1) % 2 ^ 32 } := by
    show queueAt (updQueue s1 q _) q = _
    rw [queueAt_updQueue, if_pos rfl, show queueAt s1 q = some Q from (hjournal.queueAt (by decide) q).trans hQ]
    rfl
  have hothers : OtherQueues q s s2 := (OtherQueues.of_only hjournal (by decide)).trans (updQueue_others s1 q _)
  obtain ⟨w, hw⟩ := enqueue_queue s2 q c hpast
  refine ⟨?_, (hothers.trans (enqueue_others s2 q c)).same, _, hw, rfl, rfl, ?_⟩
  · rw [enqueue_uid]
    exact congrArg (· + 1) huid
  · rw [← huid, ← hnow]
    rfl

/-- A fetched record that fails a check fails with its status, and stops the queue past it. -/
theorem ringFetch_fails (hQ : queueAt s q = some Q) (h : MayFetchNow s Q records)
    (hst : fetchStatus (fetchJournalled s q Q (fetchedBytes s Q records)) Q (fetchedBytes s Q records) ≠ 0) :
    Failed (ringFetch s q records) q s.uid
        (fetchStatus (fetchJournalled s q Q (fetchedBytes s Q records)) Q (fetchedBytes s Q records))
      ∧ (queueAt (ringFetch s q records) q).map Queue.head
        = some ((Q.head + recordCount (fetchedRecords s Q records)) % 2 ^ 32) := by
  obtain ⟨hmay, hreset, hpaused⟩ := h
  have hjournal := fetchJournalled_only s q Q (fetchedBytes s Q records)
  generalize ht : ringFetch s q records = t
  unfold ringFetch at ht
  rw [hQ] at ht
  dsimp -zeta only at ht
  extract_lets recs n r s1 st c s2 src at ht
  rw [if_neg (by rw [hmay, hreset, hpaused]; decide), if_pos (show st ≠ 0 from hst)] at ht
  subst ht
  have huid : s1.uid = s.uid := hjournal.same .uid (by decide)
  have hpast : queueAt s2 q = some { Q with head := (Q.head + n) % 2 ^ 32, expected := (Q.expected + 1) % 2 ^ 32 } := by
    show queueAt (updQueue s1 q _) q = _
    rw [queueAt_updQueue, if_pos rfl, show queueAt s1 q = some Q from (hjournal.queueAt (by decide) q).trans hQ]
    rfl
  have hjoined := queueAt_updQueue s2 q q fun Q => { Q with cmds := Q.cmds ++ [c] }
  rw [if_pos rfl, hpast] at hjoined
  obtain ⟨d, hd⟩ := cmdAt_of_mem (c := c)
    (Q := { Q with head := (Q.head + n) % 2 ^ 32, expected := (Q.expected + 1) % 2 ^ 32, cmds := Q.cmds ++ [c] })
    (List.mem_append_right _ (List.mem_singleton_self c))
  have hfailed := fail_failed { src with uid := s2.uid + 1 } q c.uid st _ d hjoined hd
  obtain ⟨Q', hQ', hframe, -⟩ := failCmd_queue { src with uid := s2.uid + 1 } q c.uid st true hjoined hd
  have hhead : Q'.head = (Q.head + n) % 2 ^ 32 := congrArg Queue.head hframe
  refine ⟨?_, ?_⟩
  · rw [← huid]
    exact hfailed
  · show (queueAt (failCmd _ q c.uid st true) q).map Queue.head = _
    rw [hQ']
    exact congrArg some hhead

end Fetch

theorem replayInput_of_live {s : State} {j : Nat} (h : ∀ J, jobAt s j = some J → J.replay = none) (kind source value : Nat)
    (carried : List Byte) : replayInput s j kind source value carried = (s, none) := by
  unfold replayInput
  cases hJ : jobAt s j with
  | none => rfl
  | some J => rw [Option.bind_some, h J hJ]; rfl

section FetchInput

variable {s : State} {q : Nat} {Q : Queue} {records : List Byte}

/-- Of a job that does not replay the fetch is the ring's. -/
theorem ringFetchInput_live (hQ : queueAt s q = some Q)
    (h : Q.ringHbm = true ∨ ∀ j J, Q.job = some j → jobAt s j = some J → J.replay = none) :
    ringFetchInput s q records = ringFetch s q records := by
  unfold ringFetchInput
  rw [hQ]
  dsimp only
  rcases h with h | h
  · rw [if_pos (by rw [h]; rfl)]
  · refine (ite_eq_left_iff.2 fun _ => ?_)
    cases hj : Q.job with
    | none => rfl
    | some j => simp only [replayInput_of_live (h j · hj)]

/-- What the journal of a replay decides of a fetch from host memory. -/
theorem ringFetchInput_host (hQ : queueAt s q = some Q) (hmay : MayFetchNow s Q records) (hhbm : Q.ringHbm = false) {j : Nat}
    (hj : Q.job = some j) {s' : State} {due : Option Nat}
    (hreplay : replayInput s j 2 q 0 (fetchedBytes s Q records) = (s', due)) :
    ringFetchInput s q records
      = due.elim (ringFetch s' q records) (holdInput s' j · (.ringCommandFetch q records)) := by
  obtain ⟨hmay, hreset, hpaused⟩ := hmay
  have hrecords : fetchedRecords s Q records = records := by
    unfold fetchedRecords
    rw [if_neg (by rw [hhbm]; decide)]
  unfold fetchedBytes at hreplay
  rw [hrecords] at hmay hreplay
  unfold ringFetchInput
  rw [hQ]
  dsimp only
  rw [if_neg (by rw [hhbm, hmay, hreset, hpaused]; decide)]
  simp only [hj, hreplay]
  cases due <;> rfl

theorem ringFetchInput_not (hQ : queueAt s q = some Q) (h : ¬MayFetchNow s Q records) : ringFetchInput s q records = s := by
  cases hhbm : Q.ringHbm with
  | true => rw [ringFetchInput_live hQ (.inl hhbm), ringFetch_not hQ h]
  | false =>
    have hrecords : fetchedRecords s Q records = records := by
      unfold fetchedRecords
      rw [if_neg (by rw [hhbm]; decide)]
    unfold ringFetchInput
    rw [hQ]
    dsimp only
    rw [if_pos, ringFetch_not hQ h]
    unfold MayFetchNow at h
    rw [hrecords] at h
    by_contra hcon
    simp only [Bool.or_eq_true, not_or, Bool.not_eq_true', Bool.not_eq_true, Bool.not_eq_false] at hcon
    exact h ⟨hcon.1.1.2, hcon.1.2, hcon.2⟩

end FetchInput

/-- Settles O24: by whether the queue may fetch, what the record's checks answer, and what a replay decides of the read. -/
theorem ringFetch_law : Obligations.RingFetch := by
  refine ⟨fun s q Q records hQ => ⟨fun h => ⟨_, rfl, ringFetchInput_not hQ h⟩, fun hmay hlive => ⟨fun hst => ?_, fun hst => ?_⟩,
    fun j s' hmay hhbm hj => ⟨fun due h => ⟨_, rfl, ringFetchInput_host hQ hmay hhbm hj h⟩,
      fun h => ⟨_, rfl, ringFetchInput_host hQ hmay hhbm hj h⟩⟩⟩,
    fun s Q r => ⟨fetchStatus_quarantined, fetchStatus_reserved, fun h hres hop => ?_, fun h hres hop hext hseq => ?_⟩⟩
  · refine ⟨_, rfl, ?_⟩
    show State.uid (ringFetchInput s q records) = _ ∧ _
    rw [ringFetchInput_live hQ hlive]
    exact ringFetch_joins hQ hmay hst
  · refine ⟨_, rfl, ?_⟩
    show Failed (ringFetchInput s q records) _ _ _ ∧ _
    rw [ringFetchInput_live hQ hlive]
    exact ringFetch_fails hQ hmay hst
  · rw [fetchStatus_reserved_passed h hres, if_pos (by rw [← opRing_iff] at hop; simp [hop])]
  · rw [fetchStatus_reserved_passed h (.inl hres), if_neg (by rw [(opRing_iff _).2 hop]; decide), if_neg (by rw [hext]; decide),
      if_pos hseq]

end Sys2Proof.Machine

/-! PROOFS. What a commit does to the buffers, and the quotas. -/

namespace Sys2Proof.Machine

/-! ## The queue behind a commit -/

/-- What a commit may change of its queue. -/
def CommitFrame (P Q : Queue) : Prop :=
  Q = { P with
    cmds := Q.cmds, cpls := Q.cpls, committed := Q.committed, windowSweeps := Q.windowSweeps, running := Q.running
    earlierRuns := Q.earlierRuns, held := Q.held, waitingSince := Q.waitingSince }

theorem CommitFrame.refl (Q : Queue) : CommitFrame Q Q := rfl

theorem CommitFrame.trans {P Q R : Queue} (h : CommitFrame P Q) (k : CommitFrame Q R) : CommitFrame P R := by
  unfold CommitFrame at *
  rw [h] at k
  exact k

theorem CommitFrame.cplHbm {P Q : Queue} (h : CommitFrame P Q) : Q.cplHbm = P.cplHbm := by
  unfold CommitFrame at h
  rw [h]

theorem CommitFrame.offences {P Q : Queue} (h : CommitFrame P Q) : Q.offences = P.offences := by
  unfold CommitFrame at h
  rw [h]

/-- The queue goes on from `s` to `t` but for what a commit changes, and `t` keeps the buffers, the copies and the charges. -/
structure StoreApart (q : Nat) (s t : State) : Prop where
  bufs : t.bufs = s.bufs
  tiered : t.tiered = s.tiered
  charged : ∀ part fn tier, charged t part fn tier = charged s part fn tier
  queue : ∀ Q, queueAt s q = some Q → ∃ Q', queueAt t q = some Q' ∧ CommitFrame Q Q'

namespace StoreApart

variable {q : Nat} {s t u : State}

theorem refl (s : State) : StoreApart q s s := ⟨rfl, rfl, fun _ _ _ => rfl, fun Q hQ => ⟨Q, hQ, .refl Q⟩⟩

theorem trans (h : StoreApart q s t) (k : StoreApart q t u) : StoreApart q s u := by
  refine ⟨k.bufs.trans h.bufs, k.tiered.trans h.tiered, fun p f i => (k.charged p f i).trans (h.charged p f i), fun Q hQ => ?_⟩
  obtain ⟨R, hR, hQR⟩ := h.queue Q hQ
  obtain ⟨S, hS, hRS⟩ := k.queue R hR
  exact ⟨S, hS, hQR.trans hRS⟩

theorem of_only {F : List StateField} (h : Only F s t) (hF : ∀ f ∈ [.bufs, .tiered, .dict, .parts, .queues], f ∉ F) : StoreApart q s t := by
  refine ⟨h.same .bufs (hF _ (by decide)), h.same .tiered (hF _ (by decide)), fun part fn tier => ?_,
    fun Q hQ => ⟨Q, (h.queueAt (hF _ (by decide)) q).trans hQ, .refl Q⟩⟩
  unfold Machine.charged
  rw [h.partAt (hF _ (by decide)), h.dnum (hF _ (by decide))]

theorem ite {c : Prop} [Decidable c] (h : StoreApart q s t) (k : StoreApart q s u) : StoreApart q s (if c then t else u) := by
  split <;> assumption

theorem updQueue (s : State) (q : Nat) (f : Queue → Queue) (hf : ∀ Q, CommitFrame Q (f Q)) : StoreApart q s (updQueue s q f) :=
  ⟨rfl, rfl, fun _ _ _ => rfl, fun Q hQ => ⟨f Q, by rw [queueAt_updQueue, if_pos rfl, hQ]; rfl, hf Q⟩⟩

end StoreApart

/-! ## The charges that a trace record leaves -/

/-- No charge is kept under `sub`. -/
theorem charged_bump (s : State) (index sub n part fn tier : Nat) (hsub : sub < 256) (h : sub ≠ 3 ∧ sub ≠ 4) :
    charged (bump s index sub n) part fn tier = charged s part fn tier := by
  unfold charged
  refine congr (congrArg _ ?_) ?_
  · rfl
  · unfold dnum
    rw [dget_bump_other]
    unfold dkey
    split <;> omega

theorem traceEmit_apart (q : Nat) (s : State) (r : TraceRec) : StoreApart q s (traceEmit s r) := by
  unfold traceEmit
  extract_lets s1 w src s2
  have h1 : StoreApart q s s1 := .of_only (hostWrite_only ..) (by decide)
  have h2 : StoreApart q s1 s2 := ⟨rfl, rfl, fun _ _ _ => rfl, fun Q hQ => ⟨Q, hQ, .refl Q⟩⟩
  have h3 : StoreApart q s2 (bump s2 0x7200 5 1) :=
    ⟨rfl, rfl, fun part fn tier => charged_bump _ _ _ _ _ _ _ (by decide) (by decide), fun Q hQ => ⟨Q, hQ, .refl Q⟩⟩
  exact (h1.trans h2).trans h3

theorem traceDrain_apart (q fuel : Nat) (s : State) : StoreApart q s (traceDrain s fuel) := by
  induction fuel generalizing s with
  | zero => exact .refl s
  | succ n ih =>
    unfold traceDrain
    split
    · exact .refl s
    · next r l _ =>
      have h1 : StoreApart q s { s with tel := { s.tel with traceHeld := l } } := ⟨rfl, rfl, fun _ _ _ => rfl, fun Q hQ => ⟨Q, hQ, .refl Q⟩⟩
      exact .ite (.refl s) ((h1.trans (traceEmit_apart q _ r)).trans (ih _))

theorem trace_apart (q : Nat) (s : State) (kind source queue arg0 arg1 arg2 : Nat) :
    StoreApart q s (trace s kind source queue arg0 arg1 arg2) := by
  have htel (l : State) (x : State) (h : x = { l with tel := x.tel }) : StoreApart q l x := by
    rw [h]
    exact ⟨rfl, rfl, fun _ _ _ => rfl, fun Q hQ => ⟨Q, hQ, .refl Q⟩⟩
  have hbump (l : State) (sub n : Nat) (hsub : sub < 256) (h : sub ≠ 3 ∧ sub ≠ 4) : StoreApart q l (bump l 0x7200 sub n) :=
    ⟨rfl, rfl, fun part fn tier => charged_bump _ _ _ _ _ _ _ hsub h, fun Q hQ => ⟨Q, hQ, .refl Q⟩⟩
  unfold trace
  extract_lets r src gap s'
  have hgap : StoreApart q s s' := htel _ _ rfl
  refine .ite (.refl s) (.ite (traceEmit_apart q s r) (.ite (htel _ _ rfl) (.ite ?_ (htel _ _ rfl))))
  exact ((hgap.trans (hbump _ 6 _ (by decide) (by decide))).trans (hbump _ 7 _ (by decide) (by decide))).trans (traceDrain_apart q _ _)

/-! ## The steps of a commit -/

theorem logSweep_apart (s : State) (q : Nat) (r : SweepRec) : StoreApart q s (logSweep s q r) := by
  unfold logSweep
  split
  · exact .refl s
  · extract_lets s1
    have h1 : StoreApart q s s1 := .updQueue s q _ fun _ => rfl
    split
    · exact h1
    · exact h1.trans (.of_only (updJob_only ..) (by decide))

theorem holdQueue_apart (s : State) (q : Nat) : StoreApart q s (holdQueue s q) := by
  unfold holdQueue
  split
  · exact .refl s
  · refine .ite (.refl s) ?_
    extract_lets s1
    have h1 : StoreApart q s s1 := .updQueue s q _ fun _ => rfl
    exact .ite (h1.trans (.of_only (beginSave_only ..) (by decide))) h1

/-- What holds through a commit of `c` on queue `q` behind its staged writes: it needs no more than the buffers, the copies,
the charges and the queue, stands a completion record in HBM, the release of held storage, and the count of an ARRAY. -/
structure CommitKeeps (q : Nat) (c : Cmd) (P : State → Prop) : Prop where
  apart : ∀ s t, StoreApart q s t → P s → P t
  write : ∀ s Q a bs key off, queueAt s q = some Q → Q.cplHbm = true → hbmOwner s Q.part a = some (key, off) → P s →
    P (storeBuf s key off bs)
  release : ∀ s, P s → P (releaseHeld s)
  issued : c.op = 1 → ∀ s, P s → P (bump s (0x6300 + c.core) 3 1)

namespace CommitKeeps

variable {q : Nat} {c : Cmd} {P : State → Prop}

theorem putCompletion (h : CommitKeeps q c P) (s : State) (d : Cmd) (st : Status) (hs : P s) : P (putCompletion s q d st) := by
  unfold Machine.putCompletion
  split
  · exact hs
  · next Q hQ =>
    extract_lets addr bs s1 s2
    have h1 : P s1 := by
      simp only [s1]
      split
      · next hhbm =>
        unfold hbmWrite
        split
        · next key off howner => exact h.write s Q addr bs key off hQ hhbm howner hs
        · exact h.apart s _ ⟨rfl, rfl, fun _ _ _ => rfl, fun Q hQ => ⟨Q, hQ, .refl Q⟩⟩ hs
      · exact h.apart s _ (.of_only (hostWrite_only ..) (by decide)) hs
    have h2 : P s2 := h.apart s1 s2 (.updQueue s1 q _ fun _ => rfl) h1
    exact h.apart s2 _ (.ite (.of_only (msix_only ..) (by decide)) (.refl s2)) h2

theorem commitRuns (h : CommitKeeps q c P) (fuel : Nat) (s : State) (hs : P s) : P (commitRuns fuel s q) := by
  induction fuel generalizing s with
  | zero => exact hs
  | succ n ih =>
    unfold Machine.commitRuns
    split
    · exact hs
    · split
      · exact hs
      · next r _ _ =>
        split
        · exact hs
        · extract_lets s1 s2
          have h1 : P s1 := h.apart s s1 (trace_apart ..) hs
          have h2 : P s2 := h.apart _ s2 (.updQueue _ q _ fun _ => rfl) (h.putCompletion s1 r 0 h1)
          exact ih _ (h.release _ (h.apart s2 _ (holdQueue_apart ..) h2))

theorem commitRun (h : CommitKeeps q c P) (s : State) (hs : P s) : P (commitRun s q) := by
  unfold Machine.commitRun
  split
  · exact hs
  · exact h.commitRuns _ s hs

theorem commitOne (h : CommitKeeps q c P) (s : State) (st : Status) (hs : P (c.staged.foldl storeStaged s)) : P (commitOne s q c st) := by
  unfold Machine.commitOne
  extract_lets s1 s2 s3 s4 s5 s6 s7 s8 s9
  have h2 : P s2 := by
    refine h.apart s1 s2 ?_ hs
    simp only [s2]
    split
    · exact .refl _
    · exact .of_only (updJob_only ..) (by decide)
  have h3 : P s3 := by
    refine h.apart s2 s3 ?_ h2
    simp only [s3]
    split
    · exact .refl _
    · exact logSweep_apart ..
  have h4 : P s4 := by
    simp only [s4]
    split
    · next hop => exact h.issued hop s3 h3
    · exact h3
  have h5 : P s5 := h.apart s4 s5 (.ite (.of_only (updCore_only ..) (by decide)) (.refl s4)) h4
  have h6 : P s6 := h.apart s5 s6 (trace_apart ..) h5
  have h7 : P s7 := by
    simp only [s7]
    split
    · exact h.putCompletion s6 c st h6
    · exact h6
  have h8 : P s8 := h.apart s7 s8 (.of_only (tellRemote_only ..) (by decide)) h7
  have h9 : P s9 := h.apart s8 s9 (.updQueue s8 q _ fun _ => rfl) h8
  exact h.commitRun _ (h.release s9 h9)

end CommitKeeps

/-- A commit keeps its queue but for what a commit changes. -/
theorem commitOne_queue (s : State) (q : Nat) (c : Cmd) (st : Status) {Q : Queue} (hQ : queueAt s q = some Q) :
    ∃ Q', queueAt (commitOne s q c st) q = some Q' ∧ CommitFrame Q Q' := by
  have hkeeps : CommitKeeps q c fun t => ∃ Q', queueAt t q = some Q' ∧ CommitFrame Q Q' := by
    refine ⟨fun s t hst ⟨P, hP, hQP⟩ => ?_, fun s R a bs key off hR _ _ ⟨P, hP, hQP⟩ => ⟨P, ?_, hQP⟩,
      fun s ⟨P, hP, hQP⟩ => ⟨P, (queueAt_releaseHeld s q).trans hP, hQP⟩, fun _ s h => h⟩
    · obtain ⟨R, hR, hPR⟩ := hst.queue P hP
      exact ⟨R, hR, hQP.trans hPR⟩
    · exact ((storeBuf_only s key off bs).queueAt (by decide) q).trans hP
  refine hkeeps.commitOne s st ⟨Q, ?_, .refl Q⟩
  exact (queueAt_of_queues s _ q (foldl_queues _ (fun s w => storeStaged_queues s w) _ _)).trans hQ

/-! ## A buffer that a commit leaves alone -/

/-- Buffer `k` and its copy in HBM stand in `t` as in `s`. -/
structure BufKept (k : Nat) (s t : State) : Prop where
  mem : ∀ e ∈ t.bufs, e.1 = k → e ∈ s.bufs
  get : FMap.get? t.bufs k = FMap.get? s.bufs k
  tiered : FMap.get? t.tiered k = FMap.get? s.tiered k

namespace BufKept

variable {k : Nat} {s t u : State}

theorem refl (s : State) : BufKept k s s := ⟨fun _ h _ => h, rfl, rfl⟩

theorem trans (h : BufKept k s t) (g : BufKept k t u) : BufKept k s u :=
  ⟨fun e he hk => h.mem e (g.mem e he hk) hk, g.get.trans h.get, g.tiered.trans h.tiered⟩

theorem of_eq (hbufs : t.bufs = s.bufs) (htiered : t.tiered = s.tiered) : BufKept k s t :=
  ⟨fun e he _ => hbufs ▸ he, by rw [hbufs], by rw [htiered]⟩

theorem ite {c : Prop} [Decidable c] (h : BufKept k s t) (g : BufKept k s u) : BufKept k s (if c then t else u) := by
  split <;> assumption

theorem committed (h : BufKept k s t) : committed t k = Machine.committed s k := by
  unfold Machine.committed
  rw [h.get, h.tiered]

end BufKept

theorem uncharge_kept (k : Nat) (s : State) (part fn tier n : Nat) : BufKept k s (uncharge s part fn tier n) :=
  .of_eq ((uncharge_only ..).same .bufs (by decide)) ((uncharge_only ..).same .tiered (by decide))

theorem returnStorage_kept {k : Nat} (s : State) (part key : Nat) (b : Buf) (h : k ≠ key) : BufKept k s (returnStorage s part key b) := by
  unfold returnStorage
  extract_lets s1
  have h1 : BufKept k s s1 := .ite (.refl s) (uncharge_kept ..)
  split
  · exact h1
  · next t _ =>
    extract_lets s2
    have h2 : BufKept k s1 s2 := .ite (.refl s1) (uncharge_kept ..)
    exact (h1.trans h2).trans ⟨fun e he _ => he, rfl, FMap.get?_erase_other _ _ _ h⟩

theorem releaseHeld_kept {k : Nat} (s : State) (h : ∀ e ∈ s.bufs, e.1 = k → e.2.freed = false) : BufKept k s (releaseHeld s) := by
  have hfold (l : List (Nat × Buf)) (f : State → Nat × Buf → State) (hf : ∀ s, ∀ e ∈ l, BufKept k s (f s e)) (s : State) :
      BufKept k s (l.foldl f s) := by
    induction l generalizing s with
    | nil => exact .refl s
    | cons e l ih =>
      exact (hf s e List.mem_cons_self).trans (ih (fun s d hd => hf s d (List.mem_cons_of_mem _ hd)) _)
  unfold releaseHeld
  refine hfold _ _ (fun t e he => ?_) s
  obtain ⟨hmem, hfreed⟩ := List.mem_filter.1 he
  have hne : k ≠ e.1 := fun hk => by rw [h e hmem hk.symm] at hfreed; cases hfreed
  have herase : BufKept k t { t with bufs := FMap.erase t.bufs e.1 } :=
    ⟨fun d hd _ => (List.mem_filter.1 hd).1, FMap.get?_erase_other _ _ _ hne, rfl⟩
  exact .ite (.refl t) (herase.trans (returnStorage_kept _ _ _ _ hne))

theorem storeBuf_kept {k : Nat} (s : State) (key off : Nat) (data : List Byte) (h : k ≠ key) : BufKept k s (storeBuf s key off data) := by
  unfold storeBuf
  extract_lets s1 home
  have hhome : BufKept k s home := by
    refine ⟨fun e he hk => ?_, by simp only [home, FMap.get?_modify, if_neg h]; rfl, rfl⟩
    obtain ⟨d, hd, rfl⟩ := List.mem_map.1 he
    by_cases hkey : d.1 = key
    · rw [if_pos hkey] at hk
      exact absurd (hk.symm.trans hkey) h
    · rw [if_neg hkey]
      exact hd
  split
  · exact hhome
  · exact .ite ⟨fun e he _ => he, rfl, FMap.get?_set_other _ _ _ _ h⟩ hhome

/-- Buffer `k` stands with the storage that it has, in tier `tier`, and no completion record of queue `q` reaches it. -/
structure Standing (k tier q : Nat) (s : State) : Prop where
  mem : ∀ e ∈ s.bufs, e.1 = k → e.2.freed = false ∧ e.2.tier = tier
  ring : tier ≠ 1 ∨ ∀ Q, queueAt s q = some Q → Q.cplHbm = false

/-- A commit keeps a buffer to which it stages nothing. -/
theorem commitKeeps_bufKept (k tier q : Nat) (c : Cmd) (s : State) :
    CommitKeeps q c fun t => BufKept k s t ∧ Standing k tier q t ∧ (queueAt t q).isSome := by
  refine ⟨fun t u htu ⟨hkept, hstand, hsome⟩ => ?_, fun t Q a bs key off hQ hhbm howner ⟨hkept, hstand, hsome⟩ => ?_,
    fun t ⟨hkept, hstand, hsome⟩ => ?_,
    fun _ t ⟨hkept, hstand, hsome⟩ => ⟨hkept.trans (.of_eq rfl rfl), ⟨hstand.mem, hstand.ring⟩, hsome⟩⟩
  · obtain ⟨Q, hQ⟩ := Option.isSome_iff_exists.1 hsome
    obtain ⟨Q', hQ', hframe⟩ := htu.queue Q hQ
    refine ⟨hkept.trans (.of_eq htu.bufs htu.tiered), ⟨htu.bufs ▸ hstand.mem, hstand.ring.imp id fun h R hR => ?_⟩, by rw [hQ']; rfl⟩
    obtain rfl : Q' = R := Option.some.inj (hQ'.symm.trans hR)
    rw [hframe.cplHbm]
    exact h Q hQ
  · have hne : k ≠ key := by
      unfold hbmOwner at howner
      obtain ⟨e, he, heq⟩ := Option.map_eq_some_iff.1 howner
      have hspec := List.find?_some he
      simp only [Bool.and_eq_true, decide_eq_true_eq] at hspec
      obtain rfl : e.1 = key := congrArg Prod.fst heq
      rintro rfl
      have htier : tier = 1 := (hstand.mem e (List.mem_of_find?_eq_some he) rfl).2.symm.trans hspec.1.1.1.2
      rcases hstand.ring with h | h
      · exact h htier
      · rw [h Q hQ] at hhbm; cases hhbm
    have hqueue : queueAt (storeBuf t key off bs) q = queueAt t q := (storeBuf_only ..).queueAt (by decide) q
    have hstore := storeBuf_kept t key off bs hne
    exact ⟨hkept.trans hstore, ⟨fun e he hk => hstand.mem e (hstore.mem e he hk) hk, by rw [hqueue]; exact hstand.ring⟩, by rw [hqueue]; exact hsome⟩
  · have hqueue : queueAt (releaseHeld t) q = queueAt t q := queueAt_releaseHeld t q
    have hrel := releaseHeld_kept t fun e he hk => (hstand.mem e he hk).1
    exact ⟨hkept.trans hrel, ⟨fun e he hk => hstand.mem e (hrel.mem e he hk) hk, by rw [hqueue]; exact hstand.ring⟩, by rw [hqueue]; exact hsome⟩

/-! ## The staged writes of a commit -/

/-- A store into a buffer writes its committed bytes, in the copy in HBM where there is one. -/
theorem committed_storeBuf_self (s : State) (k off : Nat) (data : List Byte) {b : Buf} (hb : FMap.get? s.bufs k = some b) :
    committed (storeBuf s k off data) k = (committed s k).write off data
      ∧ (FMap.get? (storeBuf s k off data).bufs k).map Buf.gen = some b.gen := by
  unfold storeBuf committed clearPoison
  cases ht : FMap.get? s.tiered k with
  | none => simp [ht, hb]
  | some t => cases hstate : t.state <;> simp [ht, hb, hstate]

/-- A store changes nothing of an entry but its bytes. -/
theorem storeBuf_mem {p : Nat × Buf → Prop} (hp : ∀ k b data, p (k, b) → p (k, { b with data := data })) (s : State) (key off : Nat)
    (data : List Byte) (h : ∀ e ∈ s.bufs, p e) : ∀ e ∈ (storeBuf s key off data).bufs, p e := by
  unfold storeBuf
  extract_lets s1 home
  have hhome : ∀ e ∈ home.bufs, p e := by
    intro e he
    obtain ⟨d, hd, rfl⟩ := List.mem_map.1 he
    by_cases hkey : d.1 = key
    · rw [if_pos hkey]
      exact hp _ _ _ (h d hd)
    · rw [if_neg hkey]
      exact h d hd
  split
  · exact hhome
  · split
    · exact h
    · exact hhome

theorem storeStaged_other {k : Nat} (s : State) (w : StageWrite) (h : verBuf w.buf ≠ k) : BufKept k s (storeStaged s w) := by
  unfold storeStaged
  extract_lets key
  split
  · exact .ite (storeBuf_kept _ _ _ _ (Ne.symm h)) (.refl s)
  · exact .refl s

theorem storeStaged_at (s : State) (w : StageWrite) {b : Buf} (hb : FMap.get? s.bufs (verBuf w.buf) = some b) :
    storeStaged s w = if verKey (verBuf w.buf) b.gen = w.buf then storeBuf s (verBuf w.buf) w.off w.data else s := by
  unfold storeStaged
  extract_lets key
  rw [show FMap.get? s.bufs key = some b from hb]

/-- The committed bytes of a standing buffer behind a list of staged writes. -/
theorem committed_foldl_storeStaged {k tier gen : Nat} (hk : k < 2 ^ 25) (l : List StageWrite) (s : State)
    (hgen : (FMap.get? s.bufs k).map Buf.gen = some gen) (h : ∀ e ∈ s.bufs, e.1 = k → e.2.freed = false ∧ e.2.tier = tier) :
    committed (l.foldl storeStaged s) k = overlayWrites (committed s k) (verKey k gen) l
      ∧ ∀ e ∈ (l.foldl storeStaged s).bufs, e.1 = k → e.2.freed = false ∧ e.2.tier = tier := by
  induction l generalizing s with
  | nil => exact ⟨rfl, h⟩
  | cons w l ih =>
    obtain ⟨b, hb, rfl⟩ := Option.map_eq_some_iff.1 hgen
    have hver : w.buf = verKey k b.gen → verBuf w.buf = k := by
      unfold verKey verBuf
      omega
    have hstep : committed (storeStaged s w) k = (if w.buf = verKey k b.gen then (committed s k).write w.off w.data else committed s k)
        ∧ (FMap.get? (storeStaged s w).bufs k).map Buf.gen = some b.gen := by
      by_cases hkey : verBuf w.buf = k
      · subst hkey
        rw [storeStaged_at s w hb]
        by_cases hw : verKey (verBuf w.buf) b.gen = w.buf
        · rw [if_pos hw, if_pos hw.symm]
          exact committed_storeBuf_self s _ _ _ hb
        · rw [if_neg hw, if_neg (Ne.symm hw), hb]
          exact ⟨rfl, rfl⟩
      · rw [if_neg fun hw => hkey (hver hw)]
        have hkept := storeStaged_other s w hkey
        exact ⟨hkept.committed, by rw [hkept.get, hb]; rfl⟩
    have hmem : ∀ e ∈ (storeStaged s w).bufs, e.1 = k → e.2.freed = false ∧ e.2.tier = tier := by
      unfold storeStaged
      extract_lets key
      split
      · split
        · exact storeBuf_mem (p := fun e => e.1 = k → e.2.freed = false ∧ e.2.tier = tier) (fun _ _ _ hb hk => hb hk) s _ _ _ h
        · exact h
      · exact h
    obtain ⟨hbytes, hstands⟩ := ih (storeStaged s w) hstep.2 hmem
    refine ⟨hbytes.trans ?_, hstands⟩
    rw [hstep.1]
    rfl

theorem commandCommit_front (s : State) (q : Nat) (Q : Queue) (c : Cmd) (rest : List Cmd) (st : Status) (hQ : queueAt s q = some Q)
    (hcmds : Q.cmds = c :: rest) (hstate : c.state = .finished st) (hfailed : c.failed = false) (hacked : c.acked = true)
    (hheld : c.heldTo ≤ s.now) (hwin : inWindow Q c = false) (hmay : mayCommit Q c = true) :
    commandCommit s q = commitOne s q c st := by
  unfold commandCommit
  rw [hQ]
  dsimp only
  rw [hcmds]
  dsimp only
  rw [hstate]
  exact if_neg (by simp [hfailed, hacked, hwin, hmay, hheld])

/-- Settles O26: the commit's writes reach the buffers that they name, and what the commit does behind them keeps every
buffer that stands. -/
theorem commandCommits : Obligations.CommandCommits := by
  intro s q Q c rest st hQ hcmds hstate hfailed hacked hheld hwin hmay
  refine ⟨_, rfl, ?_⟩
  show Committed Q (commandCommit s q) q c ∧ _
  rw [commandCommit_front s q Q c rest st hQ hcmds hstate hfailed hacked hheld hwin hmay]
  refine ⟨commitOne_committed s q c st Q hQ, (commitOne_others s q c st).same, (commitOne_only s q c st).same .now (by decide),
    fun k b hb huniq hfreed hk hring => ?_⟩
  have hstands : ∀ e ∈ s.bufs, e.1 = k → e.2.freed = false ∧ e.2.tier = b.tier :=
    fun e he hek => by rw [huniq e he hek]; exact ⟨hfreed, rfl⟩
  obtain ⟨hbytes, hmem⟩ := committed_foldl_storeStaged hk c.staged s (by rw [hb]; rfl) hstands
  have hqueue : queueAt (c.staged.foldl storeStaged s) q = some Q :=
    (queueAt_of_queues s _ q (foldl_queues _ (fun s w => storeStaged_queues s w) _ _)).trans hQ
  have hkeeps := (commitKeeps_bufKept k b.tier q c (c.staged.foldl storeStaged s)).commitOne s st
    ⟨.refl _, ⟨hmem, hring.symm.imp id fun h R hR => by rw [← Option.some.inj (hqueue.symm.trans hR)]; exact h⟩, by rw [hqueue]; rfl⟩
  rw [hkeeps.1.committed, hbytes]

end Sys2Proof.Machine

/-! PROOFS. ALLOC and FREE. -/

namespace Sys2Proof.Machine

/-! ## The check of a handle -/

section FreeCheck

variable {s : State} {q : Nat} {Q : Queue} {h : Nat}

theorem freeCheck_never (hever : everHeld s Q.part h = false) : freeCheck s q Q h = 0x0201 := by
  unfold freeCheck
  rw [if_pos (by rw [hever]; rfl)]

theorem freeCheck_stale (hever : everHeld s Q.part h = true) (hgen : ∀ b, bufAt s Q.part h = some b → b.gen ≠ hGen h) :
    freeCheck s q Q h = 0x0212 := by
  unfold freeCheck
  rw [if_neg (by rw [hever]; decide)]
  split
  · rfl
  · next b hb => exact if_pos (hgen b hb)

theorem freeCheck_current (hever : everHeld s Q.part h = true) {b : Buf} (hb : bufAt s Q.part h = some b) (hgen : b.gen = hGen h) :
    freeCheck s q Q h = if b.base || b.ownerQ ≠ some q then 0x0211 else 0 := by
  unfold freeCheck
  rw [if_neg (by rw [hever]; decide), hb]
  exact if_neg (not_not.2 hgen)

end FreeCheck

/-! ## Buffers behind the commit of ALLOC or FREE -/

/-- The buffer under `k` stands but for its bytes. -/
structure Shaped (k : Nat) (b : Buf) (s : State) : Prop where
  mem : ∀ e ∈ s.bufs, e.1 = k → ∃ data, e.2 = { b with data := data }
  get : ∃ data, FMap.get? s.bufs k = some { b with data := data }

theorem Shaped.storeBuf {k : Nat} {b : Buf} {s : State} (h : Shaped k b s) (key off : Nat) (data : List Byte) :
    Shaped k b (storeBuf s key off data) := by
  refine ⟨storeBuf_mem (p := fun e => e.1 = k → ∃ data, e.2 = { b with data := data })
    (fun _ c data hc hk => ?_) s key off data h.mem, ?_⟩
  · obtain ⟨d, hd⟩ := hc hk
    exact ⟨data, by dsimp only at hd ⊢; rw [hd]⟩
  · obtain ⟨d, hd⟩ := h.get
    by_cases hk : k = key
    · subst hk
      unfold Machine.storeBuf
      extract_lets s1 home
      have hhome : FMap.get? home.bufs k = some { b with data := Mem.write d off data } := by
        simp only [home, FMap.get?_modify, if_true]
        rw [show s1.bufs = s.bufs from rfl, hd]
        rfl
      split
      · exact ⟨_, hhome⟩
      · split
        · exact ⟨d, hd⟩
        · exact ⟨_, hhome⟩
    · exact ⟨d, (storeBuf_kept s key off data hk).get.trans hd⟩

theorem Shaped.of_kept {k : Nat} {b : Buf} {s t : State} (h : Shaped k b s) (hst : BufKept k s t) : Shaped k b t :=
  ⟨fun e he hk => h.mem e (hst.mem e he hk) hk, h.get.imp fun _ hd => hst.get.trans hd⟩

theorem storeStaged_keeps (P : State → Prop) (h : ∀ s key off data, P s → P (storeBuf s key off data)) (s : State) (w : StageWrite)
    (hs : P s) : P (storeStaged s w) := by
  unfold storeStaged
  extract_lets key
  split
  · split
    · exact h _ _ _ _ hs
    · exact hs
  · exact hs

theorem commitKeeps_shaped (k q : Nat) (b : Buf) (c : Cmd) (hfreed : b.freed = false) : CommitKeeps q c (Shaped k b) := by
  refine ⟨fun s t hst h => h.of_kept (.of_eq hst.bufs hst.tiered), fun s _ _ bs key off _ _ _ h => h.storeBuf key off bs,
    fun s h => h.of_kept (releaseHeld_kept s fun e he hk => ?_), fun _ s h => h.of_kept (.of_eq rfl rfl)⟩
  obtain ⟨d, hd⟩ := h.mem e he hk
  rw [hd]
  exact hfreed

/-- A commit keeps all of a standing buffer but its bytes. -/
theorem commitOne_shaped {k : Nat} {b : Buf} {s : State} (h : Shaped k b s) (hfreed : b.freed = false) (q : Nat) (c : Cmd) (st : Status) :
    Shaped k b (commitOne s q c st) :=
  (commitKeeps_shaped k q b c hfreed).commitOne s st
    (foldl_keeps _ _ (storeStaged_keeps _ fun _ _ _ _ hs => hs.storeBuf _ _ _) _ s h)

/-- A commit that stages nothing, and whose records go to the host, keeps a standing buffer. -/
theorem commitOne_kept {k : Nat} {s : State} {Q : Queue} {q : Nat} {c : Cmd} {tier : Nat} (hQ : queueAt s q = some Q)
    (hmem : ∀ e ∈ s.bufs, e.1 = k → e.2.freed = false ∧ e.2.tier = tier) (hstaged : c.staged = []) (hring : Q.cplHbm = false)
    (st : Status) : BufKept k s (commitOne s q c st) := by
  have hkeeps := commitKeeps_bufKept k tier q c s
  refine (hkeeps.commitOne s st ?_).1
  rw [hstaged]
  exact ⟨.refl s, ⟨hmem, .inr fun R hR => by rw [← Option.some.inj (hQ.symm.trans hR)]; exact hring⟩, Option.isSome_iff_exists.2 ⟨Q, hQ⟩⟩

/-- What a commit of nothing staged keeps, as the statement of ALLOC and FREE says it. -/
theorem commitOne_kept_of_buf {k : Nat} {s t : State} {Q : Queue} {q : Nat} {c : Cmd} {x : Buf} (hst : BufKept k s t)
    (hQ : queueAt t q = some Q) (hx : FMap.get? s.bufs k = some x) (huniq : ∀ e ∈ s.bufs, e.1 = k → e.2 = x) (hfreed : x.freed = false)
    (hstaged : c.staged = []) (hring : Q.cplHbm = false) (st : Status) : FMap.get? (commitOne t q c st).bufs k = some x := by
  have hmem : ∀ e ∈ t.bufs, e.1 = k → e.2.freed = false ∧ e.2.tier = x.tier :=
    fun e he hk => by rw [huniq e (hst.mem e he hk) hk]; exact ⟨hfreed, rfl⟩
  rw [(commitOne_kept hQ hmem hstaged hring st).get, hst.get, hx]

/-- A buffer that is not there does not come with a commit. -/
theorem commitOne_absent {k : Nat} {s : State} (h : ∀ e ∈ s.bufs, e.1 ≠ k) (q : Nat) (c : Cmd) (st : Status) :
    FMap.get? (commitOne s q c st).bufs k = none := by
  have hkeeps : CommitKeeps q c fun t => ∀ e ∈ t.bufs, e.1 ≠ k :=
    ⟨fun s t hst h => hst.bufs ▸ h, fun s _ _ bs key off _ _ _ h => storeBuf_mem (p := fun e => e.1 ≠ k) (fun _ _ _ hb => hb) s _ _ _ h,
      fun s h e he hk => h e ((releaseHeld_kept s fun d hd hdk => absurd hdk (h d hd)).mem e he hk) hk, fun _ _ h => h⟩
  refine FMap.get?_eq_none_of_keys_ne _ k (hkeeps.commitOne s st ?_)
  exact foldl_keeps (fun t => ∀ e ∈ t.bufs, e.1 ≠ k) _
    (storeStaged_keeps _ fun s _ _ _ hs => storeBuf_mem (p := fun e => e.1 ≠ k) (fun _ _ _ hb => hb) s _ _ _ hs) _ s h

/-! ## The charge of a function -/

theorem releaseHeld_of_none {s : State} (h : NoHeldStorage s) : releaseHeld s = s := by
  unfold releaseHeld
  rw [List.filter_eq_nil_iff.2 fun e he => by rw [h e he]; decide]
  rfl

/-- Where no storage is held for a command, a commit that is no ARRAY's returns no charge. -/
theorem commitOne_charged {s : State} (h : NoHeldStorage s) (q : Nat) {c : Cmd} (hop : c.op ≠ 1) (st : Status) (part fn tier : Nat) :
    charged (commitOne s q c st) part fn tier = charged s part fn tier := by
  have hstore (t : State) (key off : Nat) (data : List Byte) (ht : NoHeldStorage t ∧ charged t part fn tier = charged s part fn tier) :
      NoHeldStorage (storeBuf t key off data) ∧ charged (storeBuf t key off data) part fn tier = charged s part fn tier := by
    have honly := storeBuf_only t key off data
    refine ⟨storeBuf_mem (p := fun e => e.2.freed = false) (fun _ _ _ hb => hb) t key off data ht.1, ?_⟩
    rw [← ht.2]
    unfold charged
    rw [honly.partAt (by decide), honly.dnum (by decide)]
  have hkeeps : CommitKeeps q c fun t => NoHeldStorage t ∧ charged t part fn tier = charged s part fn tier :=
    ⟨fun t u htu ht => ⟨by unfold NoHeldStorage; rw [htu.bufs]; exact ht.1, (htu.charged part fn tier).trans ht.2⟩,
      fun t _ _ bs key off _ _ _ ht => hstore t key off bs ht, fun t ht => by rw [releaseHeld_of_none ht.1]; exact ht,
      fun h => absurd h hop⟩
  exact (hkeeps.commitOne s st (foldl_keeps _ _ (storeStaged_keeps _ hstore) _ s ⟨h, rfl⟩)).2

theorem charged_charge (s : State) (part fn tier n : Nat) : charged (charge s part fn tier n) part fn tier = charged s part fn tier + n := by
  unfold charge setCharge
  by_cases hfn : fn = 0
  · rw [if_pos hfn]
    unfold charged updPart partAt
    rw [if_pos hfn, if_pos hfn]
    by_cases htier : tier = 1 <;> simp [htier, FMap.getD_put_self]
  · rw [if_neg hfn]
    extract_lets s1
    have h1 : charged s1 part fn tier = charged s part fn tier + n := by
      rw [charged, if_neg hfn]
      exact dnum_dset_self ..
    split
    · unfold charged at h1 ⊢
      rw [if_neg hfn] at h1 ⊢
      unfold raiseTo
      rw [dnum_dset_other _ _ _ _ _ _ (by unfold dkey; split <;> omega)]
      exact h1
    · exact h1

/-! ## The completion record -/

/-- A part of what has been written is read back. -/
theorem Mem.read_write_within (m : Mem) (a : Nat) (x y z : List Byte) :
    (m.write a (x ++ y ++ z)).read (a + x.length) y.length = y := by
  unfold Mem.read
  refine List.ext_getElem (by simp) fun i hi hi' => ?_
  rw [List.getElem_map, List.getElem_range, Nat.add_assoc, Mem.byte_write_in _ _ _ _ (by simp; omega)]
  simp [hi']

/-- A run ends in the queue that a commit leaves where it ends without the command. -/
theorem runEnded_left {P Q : Queue} {c : Cmd} (hstop : P.stopped = Q.stopped) (hcmds : P.cmds = Q.cmds)
    (hwindow : P.window = Q.window) (hlater : P.laterWindows = Q.laterWindows) (n : Nat) (r : Cmd) :
    runEnded { P with committed := n, cmds := (P.cmds.filter fun d => d.uid ≠ c.uid).map (passOn c) } r
      = runEnded (without Q c.uid) r := by
  have hany (p : Cmd → Bool) (hp : ∀ d, p (passOn c d) = p d) (l : List Cmd) : (l.map (passOn c)).any p = l.any p := by
    simp [List.any_map, Function.comp_def, hp]
  unfold runEnded inWindow windowOf without
  simp only [hstop, hcmds, hwindow, hlater]
  rw [hany (fun d => (d.stream.isSome && d.run = r.uid) || d.uid < r.uid) fun d => rfl]
  simp only [hany (fun d => d.op = 6 && _ ≤ d.uid && d.uid ≤ r.uid) fun d => rfl]

theorem logSweep_queueAt (s : State) (q : Nat) (r : SweepRec) {Q : Queue} (hQ : queueAt s q = some Q) :
    ∃ n, queueAt (logSweep s q r) q = some { Q with windowSweeps := n } := by
  unfold logSweep
  rw [hQ]
  dsimp -zeta only
  extract_lets s1
  have h1 : queueAt s1 q = some { Q with windowSweeps := Q.windowSweeps + 1 } := by
    show queueAt (updQueue s q _) q = _
    rw [queueAt_updQueue, if_pos rfl, hQ]
    rfl
  exact ⟨_, by split <;> exact h1⟩

/-- The RESULT field of a completion record in host memory. -/
theorem putCompletion_result (s : State) (q : Nat) (c : Cmd) (st : Status) {Q : Queue} (hQ : queueAt s q = some Q)
    (hring : Q.cplHbm = false) (hstream : c.stream = none) :
    (putCompletion s q c st).hostOut.read (Q.cplBase + 32 * (Q.cpls % Q.slots) + 12) 4 = toLe 4 c.result := by
  have hout : (putCompletion s q c st).hostOut
      = (hostWrite s (Q.cplBase + 32 * (Q.cpls % Q.slots)) (cplBytes s Q c st)).hostOut := by
    unfold putCompletion
    rw [hQ]
    dsimp -zeta only
    extract_lets addr bs s1 s2
    have h1 : s1 = hostWrite s addr bs := if_neg (by rw [hring]; decide)
    have h2 : s2.hostOut = s1.hostOut := rfl
    rw [← h1, ← h2]
    split
    · exact (msix_only ..).same .hostOut (by decide)
    · rfl
  rw [hout]
  have hparts : cplBytes s Q c st
      = (toLe 4 c.seq ++ toLe 4 (rTag c.bytes) ++ toLe 2 st
          ++ toLe 1 ((if Q.cpls / Q.slots % 2 = 0 then 1 else 0) + if c.stream.isSome then 2 else 0) ++ [0])
        ++ toLe 4 c.result ++ (toLe 8 s.now ++ toLe 4 c.reruns ++ zeros 4) := by
    unfold cplBytes
    rw [hstream]
    simp [List.append_assoc]
  rw [hparts]
  have hread := Mem.read_write_within s.hostOut (Q.cplBase + 32 * (Q.cpls % Q.slots))
    (toLe 4 c.seq ++ toLe 4 (rTag c.bytes) ++ toLe 2 st
      ++ toLe 1 ((if Q.cpls / Q.slots % 2 = 0 then 1 else 0) + if c.stream.isSome then 2 else 0) ++ [0])
    (toLe 4 c.result) (toLe 8 s.now ++ toLe 4 c.reruns ++ zeros 4)
  simp only [List.length_append, length_toLe, List.length_singleton] at hread
  exact hread

/-- The RESULT of a ring command's completion record, where no RUN ends with it. -/
theorem commitOne_result (s : State) (q : Nat) (c : Cmd) (st : Status) {Q : Queue} (hQ : queueAt s q = some Q)
    (hring : Q.cplHbm = false) (hstream : c.stream = none) (hrun : RunGoesOn Q c) :
    (commitOne s q c st).hostOut.read (Q.cplBase + 32 * (Q.cpls % Q.slots) + 12) 4 = toLe 4 c.result := by
  unfold commitOne
  extract_lets s1 s2 s3 s4 s5 s6 s7 s8 s9
  have h2 : queueAt s2 q = some Q := by
    have h1 : queueAt s1 q = some Q := (queueAt_of_queues s s1 q (foldl_queues _ (fun s w => storeStaged_queues s w) _ _)).trans hQ
    simp only [s2]
    split
    · exact h1
    · exact h1
  obtain ⟨n, h3⟩ : ∃ n, queueAt s3 q = some { Q with windowSweeps := n } := by
    simp only [s3]
    split
    · exact ⟨Q.windowSweeps, h2⟩
    · exact logSweep_queueAt s2 q _ h2
  have h5 : queueAt s5 q = queueAt s3 q := by
    simp only [s5, s4]
    split <;> split <;> rfl
  have h6 : queueAt s6 q = some { Q with windowSweeps := n } := (queueAt_trace ..).trans (h5.trans h3)
  have h7 : s7 = putCompletion s6 q c st := if_pos (by rw [hstream]; rfl)
  have hqueue7 : queueAt s7 q = some { Q with windowSweeps := n, cpls := Q.cpls + 1 } := by
    rw [h7]
    exact putCompletion_queue s6 q c st _ h6
  have hqueue8 : queueAt s8 q = some { Q with windowSweeps := n, cpls := Q.cpls + 1 } :=
    ((tellRemote_only ..).queueAt (by decide) q).trans hqueue7
  have hqueue9 : queueAt (releaseHeld s9) q = some { Q with
      windowSweeps := n, cpls := Q.cpls + 1, committed := c.seq, cmds := (Q.cmds.filter fun d => d.uid ≠ c.uid).map (passOn c) } := by
    rw [queueAt_releaseHeld]
    show queueAt (updQueue s8 q _) q = _
    rw [queueAt_updQueue, if_pos rfl, hqueue8]
    rfl
  have hended (r : Cmd) := runEnded_left (P := { Q with windowSweeps := n, cpls := Q.cpls + 1 }) (Q := Q) (c := c) rfl rfl rfl rfl c.seq r
  have hout : (releaseHeld s9).hostOut = s7.hostOut :=
    (((tellRemote_only ..).trans (updQueue_only ..)).trans (releaseHeld_only ..)).same .hostOut (by decide)
  rw [commitRun_of_running _ q _ hqueue9, hout, h7]
  · exact putCompletion_result s6 q c st (Q := { Q with windowSweeps := n }) h6 hring hstream
  · show Q.runs = [] ∨ ∃ r l, Q.runs = r :: l ∧ _
    unfold RunGoesOn at hrun
    cases hl : Q.runs with
    | nil => exact .inl rfl
    | cons r l =>
      rw [hl] at hrun
      exact .inr ⟨r, l, rfl, (hended r).trans (by simpa using hrun)⟩

/-! ## ALLOC -/

section Alloc

variable {s : State} {q : Nat} {Q : Queue} {c : Cmd}

/-- The buffer that an ALLOC makes. -/
def allocBuf (s : State) (q : Nat) (Q : Queue) (c : Cmd) : Buf :=
  { gen := nextGen s Q.part (lowestFree s Q.part), size := field c.bytes 20 8, tier := field c.bytes 16 1, cls := field c.bytes 17 1
    ownerQ := some q, fn := Q.fn, job := Q.job
    addr := newAddr s Q.part (field c.bytes 16 1) (field c.bytes 20 8) (2 ^ field c.bytes 18 1) }

/-- The state in which an ALLOC has placed and charged its buffer. -/
def allocPlaced (s : State) (q : Nat) (Q : Queue) (c : Cmd) : State :=
  charge (placeBuf s Q.part (lowestFree s Q.part) (2 ^ field c.bytes 18 1) { allocBuf s q Q c with addr := 0 }) Q.part Q.fn
    (field c.bytes 16 1) (charge64 (field c.bytes 20 8))

theorem runAlloc_eq (h : oldestOf s q 9 = some (Q, c)) :
    runAlloc s q = if 2 ^ 20 ≤ lowestFree s Q.part then fail s q c.uid 0x0202
      else if mayCharge s Q.part Q.fn (field c.bytes 16 1) (charge64 (field c.bytes 20 8)) = false then fail s q c.uid 0x0681
      else commitOne (allocPlaced s q Q c) q
        { c with result := mkHandle (nextGen s Q.part (lowestFree s Q.part)) (lowestFree s Q.part) } 0 := by
  unfold runAlloc
  rw [h]
  simp only [Bool.not_eq_true']
  rfl

theorem placeBuf_bufs (s : State) (part i align : Nat) (b : Buf) :
    (placeBuf s part i align b).bufs
      = FMap.set s.bufs (bufKey part i) { b with addr := newAddr s part b.tier b.size align } := by
  unfold placeBuf
  extract_lets key s1
  split <;> rfl

theorem placeBuf_tiered (s : State) (part i align k : Nat) (b : Buf) (h : k ≠ bufKey part i) :
    FMap.get? (placeBuf s part i align b).tiered k = FMap.get? s.tiered k := by
  unfold placeBuf
  extract_lets key s1
  split
  · exact FMap.get?_set_other _ _ _ _ h
  · rfl

theorem allocPlaced_bufs : (allocPlaced s q Q c).bufs = FMap.set s.bufs (bufKey Q.part (lowestFree s Q.part)) (allocBuf s q Q c) :=
  ((charge_only ..).same .bufs (by decide)).trans (placeBuf_bufs ..)

theorem mem_set {α : Type} {m : FMap α} {k : Nat} {v : α} {e : Nat × α} (h : e ∈ FMap.set m k v) : e = (k, v) ∨ e ∈ m ∧ e.1 ≠ k := by
  unfold FMap.set at h
  rcases List.mem_append.1 h with h | h
  · obtain ⟨hm, hlt⟩ := List.mem_filter.1 h
    exact .inr ⟨hm, by have := of_decide_eq_true hlt; omega⟩
  · rcases List.mem_cons.1 h with rfl | h
    · exact .inl rfl
    · obtain ⟨hm, hlt⟩ := List.mem_filter.1 h
      exact .inr ⟨hm, by have := of_decide_eq_true hlt; omega⟩

theorem allocPlaced_kept {k : Nat} (hk : k ≠ bufKey Q.part (lowestFree s Q.part)) : BufKept k s (allocPlaced s q Q c) := by
  refine ⟨fun e he hek => ?_, ?_, ?_⟩
  · rw [allocPlaced_bufs] at he
    rcases mem_set he with rfl | ⟨hm, -⟩
    · exact absurd hek.symm hk
    · exact hm
  · rw [allocPlaced_bufs]
    exact FMap.get?_set_other _ _ _ _ hk
  · rw [show (allocPlaced s q Q c).tiered = _ from (charge_only ..).same .tiered (by decide)]
    exact placeBuf_tiered _ _ _ _ _ _ hk

theorem allocPlaced_shaped : Shaped (bufKey Q.part (lowestFree s Q.part)) (allocBuf s q Q c) (allocPlaced s q Q c) := by
  refine ⟨fun e he hek => ?_, ⟨[], ?_⟩⟩
  · rw [allocPlaced_bufs] at he
    rcases mem_set he with rfl | ⟨-, hne⟩
    · exact ⟨[], rfl⟩
    · exact absurd hek hne
  · rw [allocPlaced_bufs]
    exact FMap.get?_set_self _ _ _

theorem placeBuf_queues (s : State) (part i align : Nat) (b : Buf) : (placeBuf s part i align b).queues = s.queues := by
  unfold placeBuf
  extract_lets key s1
  split <;> rfl

theorem allocPlaced_queueAt (p : Nat) : queueAt (allocPlaced s q Q c) p = queueAt s p :=
  queueAt_of_queues _ _ _ ((charge_queues ..).trans (placeBuf_queues ..))

theorem allocPlaced_index : ((FMap.get? (allocPlaced s q Q c).index (bufKey Q.part (lowestFree s Q.part))).map IndexState.live) = some true := by
  rw [show (allocPlaced s q Q c).index = _ from (charge_only ..).same .index (by decide)]
  unfold placeBuf
  extract_lets key s1
  split <;> exact congrArg (Option.map IndexState.live) (FMap.get?_set_self _ _ _)

theorem allocPlaced_none (h : NoHeldStorage s) : NoHeldStorage (allocPlaced s q Q c) := by
  intro e he
  rw [allocPlaced_bufs] at he
  rcases mem_set he with rfl | ⟨hm, -⟩
  · rfl
  · exact h e hm

theorem charged_placeBuf (s : State) (part i align : Nat) (b : Buf) (part' fn tier : Nat) :
    charged (placeBuf s part i align b) part' fn tier = charged s part' fn tier := by
  unfold placeBuf
  extract_lets key s1
  split <;> rfl

/-- The buffer that an ALLOC made, behind its commit. -/
theorem alloc_buffer (hQ : queueAt s q = some Q) (d : Cmd) :
    ∃ data, FMap.get? (commitOne (allocPlaced s q Q c) q d 0).bufs (bufKey Q.part (lowestFree s Q.part))
        = some { allocBuf s q Q c with data := data }
      ∧ (d.staged = [] → Q.cplHbm = false → data = []) := by
  obtain ⟨data, hdata⟩ := (commitOne_shaped (allocPlaced_shaped (s := s) (q := q) (Q := Q) (c := c)) rfl q d 0).get
  refine ⟨data, hdata, fun hstaged hring => ?_⟩
  have hmem : ∀ e ∈ (allocPlaced s q Q c).bufs, e.1 = bufKey Q.part (lowestFree s Q.part) →
      e.2.freed = false ∧ e.2.tier = field c.bytes 16 1 := by
    intro e he hk
    obtain ⟨d, hd⟩ := allocPlaced_shaped.mem e he hk
    rw [hd]
    exact ⟨rfl, rfl⟩
  have hkept := (commitOne_kept ((allocPlaced_queueAt q).trans hQ) hmem hstaged hring 0).get
  rw [hdata, allocPlaced_bufs, FMap.get?_set_self] at hkept
  exact congrArg Buf.data (Option.some.inj hkept)

theorem alloc_charged (hnone : NoHeldStorage s) (d : Cmd) (hop : d.op ≠ 1) :
    charged (commitOne (allocPlaced s q Q c) q d 0) Q.part Q.fn (field c.bytes 16 1)
      = charged s Q.part Q.fn (field c.bytes 16 1) + charge64 (field c.bytes 20 8) := by
  rw [commitOne_charged (allocPlaced_none hnone) q hop 0]
  exact (charged_charge ..).trans (by rw [charged_placeBuf])

end Alloc

/-! ## FREE -/

theorem endRequests_tiered (s : State) (part key k : Nat) (h : k ≠ key) :
    FMap.get? (endRequests s part key).tiered k = FMap.get? s.tiered k := by
  unfold endRequests
  split
  · rfl
  · extract_lets s1
    have h1 : s1.tiered = s.tiered := (Only.foldl (fun _ _ => placementDone_only ..) _ _).same .tiered (by decide)
    rw [← h1]
    exact FMap.get?_set_other _ _ _ _ h

theorem moveTiered_kept {k : Nat} (s : State) (key dest : Nat) (hk : k ≠ key) (hd : k ≠ dest) : BufKept k s (moveTiered s key dest) := by
  unfold moveTiered
  split
  · exact .refl s
  · exact ⟨fun e he _ => he, rfl, (FMap.get?_set_other _ _ _ _ hd).trans (FMap.get?_erase_other _ _ _ hk)⟩

section Free

variable {s : State} {key : Nat} {b : Buf}

/-- A FREE keeps every buffer but its own, and what it keeps of that for the commands that hold it. -/
theorem freeBuf_kept (hb : FMap.get? s.bufs key = some b) {k : Nat} (hk : k ≠ key) (hheld : k ≠ heldKey (verKey key b.gen)) :
    BufKept k s (freeBuf s key) := by
  unfold freeBuf
  rw [hb]
  dsimp -zeta only
  extract_lets ver held s1 src s2
  have h1 : BufKept k s s1 := by
    have hbufs : s1.bufs = s.bufs := (endRequests_only ..).same .bufs (by decide)
    exact ⟨fun e he _ => hbufs ▸ he, by rw [hbufs], endRequests_tiered _ _ _ _ hk⟩
  have h2 : BufKept k s1 s2 := ⟨fun e he _ => (List.mem_filter.1 he).1, FMap.get?_erase_other _ _ _ hk, rfl⟩
  have hset : BufKept k s2 { s2 with bufs := FMap.set s2.bufs (heldKey ver) { b with freed := true } } := by
    refine ⟨fun e he hek => ?_, FMap.get?_set_other _ _ _ _ hheld, rfl⟩
    rcases mem_set he with rfl | ⟨hm, -⟩
    · exact absurd hek.symm hheld
    · exact hm
  exact .ite ((h1.trans h2).trans (hset.trans (moveTiered_kept _ _ _ hk hheld))) ((h1.trans h2).trans (returnStorage_kept _ _ _ _ hk))

theorem freeBuf_absent (hb : FMap.get? s.bufs key = some b) : ∀ e ∈ (freeBuf s key).bufs, e.1 ≠ key := by
  unfold freeBuf
  rw [hb]
  dsimp -zeta only
  extract_lets ver held s1 src s2
  have h2 : ∀ e ∈ s2.bufs, e.1 ≠ key := fun e he => by simpa using (List.mem_filter.1 he).2
  split
  · rw [show (moveTiered _ key _).bufs = _ from (moveTiered_only ..).same .bufs (by decide)]
    intro e he
    rcases mem_set he with rfl | ⟨hm, -⟩
    · show heldKey ver ≠ key
      unfold heldKey
      have : key ≤ ver := Nat.le_add_left ..
      omega
    · exact h2 e hm
  · rw [show (returnStorage s2 (keyPart key) key b).bufs = _ from (returnStorage_only ..).same .bufs (by decide)]
    exact h2

theorem freeBuf_index (hb : FMap.get? s.bufs key = some b) :
    FMap.get? (freeBuf s key).index key
      = some { gen := if b.gen = 4095 then 4095 else b.gen + 1, ever := true, live := false, retired := b.gen = 4095 } := by
  unfold freeBuf
  rw [hb]
  dsimp -zeta only
  extract_lets ver held s1 src s2
  have h2 : FMap.get? s2.index key
      = some { gen := if b.gen = 4095 then 4095 else b.gen + 1, ever := true, live := false, retired := b.gen = 4095 } :=
    FMap.get?_set_self _ _ _
  split
  · rw [show (moveTiered _ key _).index = _ from (moveTiered_only ..).same .index (by decide)]
    exact h2
  · rw [show (returnStorage s2 (keyPart key) key b).index = _ from (returnStorage_only ..).same .index (by decide)]
    exact h2

end Free

theorem offence_offences (s : State) (q : Nat) (cmd : Option Nat) {Q : Queue} (hQ : queueAt s q = some Q) :
    (queueAt (offence s q cmd) q).map Queue.offences = some ((s.now :: Q.offences).take 16) := by
  unfold offence
  rw [queueAt_updQueue, if_pos rfl, hQ]
  dsimp only [Option.map_some]
  split <;> rfl

theorem Committed.offence {Q : Queue} {t : State} {q : Nat} {c : Cmd} (h : Committed Q t q c) (cmd : Option Nat) :
    Committed Q (offence t q cmd) q c := by
  obtain ⟨P, hP, hgone, hseq, hrun⟩ := h
  unfold Machine.offence
  refine ⟨_, by rw [queueAt_updQueue, if_pos rfl, hP]; rfl, ?_⟩
  dsimp only
  split <;> exact ⟨hgone, hseq, hrun⟩

theorem runFree_eq {s : State} {q : Nat} {Q : Queue} {c : Cmd} (h : oldestOf s q 10 = some (Q, c)) :
    runFree s q = if freeCheck s q Q (rH c.bytes 16) = 0x0201 then fail s q c.uid (freeCheck s q Q (rH c.bytes 16))
      else if freeCheck s q Q (rH c.bytes 16) ≠ 0 then
        (if freeCheck s q Q (rH c.bytes 16) = 0x0211 then
          offence (commitOne s q c (freeCheck s q Q (rH c.bytes 16))) q (some c.uid)
        else commitOne s q c (freeCheck s q Q (rH c.bytes 16)))
      else commitOne (freeBuf s (bufKey Q.part (hIndex (rH c.bytes 16)))) q c 0 := by
  unfold runFree
  rw [h]

/-- Settles O29: ALLOC and FREE change the buffer table before their commit, and the commit keeps every buffer that stands. -/
theorem allocAndFree : Obligations.AllocAndFree := by
  unfold Obligations.AllocAndFree
  refine ⟨fun s q Q c h => ?_, fun s q Q c h => ?_, fun s q Q h =>
    ⟨freeCheck_never, fun hever => ⟨freeCheck_stale hever, fun b hb hgen => ⟨fun hforeign => ?_, fun hbase howner => ?_⟩⟩⟩⟩
  · obtain ⟨hQ, hop, ⟨rest, hcmds⟩, -⟩ := oldestOf_some h
    have heq := runAlloc_eq h
    refine ⟨fun hi => ⟨_, rfl, ?_⟩, fun hi hmay => ⟨_, rfl, ?_⟩, fun hi hmay => ⟨runAlloc s q, rfl, ?_⟩⟩
    · show Failed (runAlloc s q) _ _ _
      rw [heq, if_pos hi]
      exact fail_failed s q c.uid _ Q c hQ (cmdAt_oldest hcmds)
    · show Failed (runAlloc s q) _ _ _
      rw [heq, if_neg (Nat.not_le.2 hi), if_pos hmay]
      exact fail_failed s q c.uid _ Q c hQ (cmdAt_oldest hcmds)
    · rw [heq, if_neg (Nat.not_le.2 hi), if_neg (by rw [hmay]; decide)]
      generalize hd : ({ c with result := mkHandle (nextGen s Q.part (lowestFree s Q.part)) (lowestFree s Q.part) } : Cmd) = d
      have hplaced : queueAt (allocPlaced s q Q c) q = some Q := (allocPlaced_queueAt q).trans hQ
      have hstaged : d.staged = c.staged := by rw [← hd]
      refine ⟨?_, ?_, fun k hk x hx huniq hfreed hnone hring => ?_, ?_, fun hnone => ?_, fun hstream hring hrun => ?_⟩
      · have hcommitted := commitOne_committed _ q d 0 Q hplaced
        subst hd
        exact hcommitted
      · obtain ⟨data, hdata, hempty⟩ := alloc_buffer (c := c) hQ d
        refine ⟨_, hdata, rfl, rfl, rfl, rfl, rfl, rfl, rfl, fun hnone hring => hempty (hstaged.trans hnone) hring⟩
      · exact commitOne_kept_of_buf (allocPlaced_kept hk) hplaced hx huniq hfreed (hstaged.trans hnone) hring 0
      · rw [show (commitOne (allocPlaced s q Q c) q d 0).index = (allocPlaced s q Q c).index from
          (commitOne_only ..).same .index (by decide)]
        exact allocPlaced_index
      · exact alloc_charged hnone d (by rw [← hd]; show c.op ≠ 1; rw [hop]; decide)
      · rw [commitOne_result _ q d 0 hplaced hring (by rw [← hd]; exact hstream) (by rw [← hd]; exact hrun), ← hd]
        rfl
  · obtain ⟨hQ, -, ⟨rest, hcmds⟩, -⟩ := oldestOf_some h
    have heq := runFree_eq h
    have hcommitted (st : Status) := commitOne_committed s q c st Q hQ
    refine ⟨fun hst => ⟨_, rfl, ?_⟩, fun hst => ⟨_, rfl, ?_⟩, fun hst => ⟨runFree s q, rfl, ?_⟩, fun b hst hb => ⟨runFree s q, rfl, ?_⟩⟩
    · show Failed (runFree s q) _ _ _
      rw [heq, if_pos hst, hst]
      exact fail_failed s q c.uid _ Q c hQ (cmdAt_oldest hcmds)
    · show Committed Q (runFree s q) q c ∧ ∀ k, ∀ x, _ → _ → _ → _ → _ → FMap.get? (runFree s q).bufs k = some x
      rw [heq, hst, if_neg (by decide), if_pos (by decide), if_neg (by decide)]
      exact ⟨hcommitted _, fun k x hx huniq hfreed hstaged hring =>
        commitOne_kept_of_buf (.refl s) hQ hx huniq hfreed hstaged hring _⟩
    · rw [heq, hst, if_neg (by decide), if_pos (by decide), if_pos rfl]
      obtain ⟨P, hP, hframe⟩ := commitOne_queue s q c 0x0211 hQ
      have hnow : (commitOne s q c 0x0211).now = s.now := (commitOne_only ..).same .now (by decide)
      refine ⟨(hcommitted _).offence _, fun k x hx huniq hfreed hstaged hring => ?_, ?_⟩
      · rw [show (offence _ q (some c.uid)).bufs = _ from (offence_only ..).same .bufs (by decide)]
        exact commitOne_kept_of_buf (.refl s) hQ hx huniq hfreed hstaged hring _
      · rw [offence_offences _ q _ hP, hframe.offences, hnow]
    · rw [heq, hst, if_neg (show ¬(0 : Status) = 0x0201 by decide), if_neg (show ¬(0 : Status) ≠ 0 by decide)]
      have hfree := freeBuf_only s (bufKey Q.part (hIndex (rH c.bytes 16)))
      have hQ' : queueAt (freeBuf s (bufKey Q.part (hIndex (rH c.bytes 16)))) q = some Q := (hfree.queueAt (by decide) q).trans hQ
      refine ⟨commitOne_committed _ q c 0 Q hQ', commitOne_absent (freeBuf_absent hb) q c 0,
        fun k hk hheld x hx huniq hfreed hstaged hring =>
          commitOne_kept_of_buf (freeBuf_kept hb hk hheld) hQ' hx huniq hfreed hstaged hring 0,
        ⟨{ gen := if b.gen = 4095 then 4095 else b.gen + 1, ever := true, live := false, retired := b.gen = 4095 }, ?_, rfl, rfl, rfl, rfl⟩⟩
      rw [show (commitOne _ q c 0).index = _ from (commitOne_only ..).same .index (by decide)]
      exact freeBuf_index hb
  · rw [freeCheck_current hever hb hgen, if_pos (by simpa using hforeign)]
  · rw [freeCheck_current hever hb hgen, if_neg (by simp [hbase, howner])]

end Sys2Proof.Machine

/-! PROOFS. STEP: arrival and the failures of a boundary; the dictionary entries that a failure leaves alone. -/

namespace Sys2Proof.Machine

/-! ## Dictionary entries that stand -/

/-- Dictionary entry `k` stands in `t` as in `s`. -/
def KeyKept (k : Nat) (s t : State) : Prop := dget t k = dget s k

namespace KeyKept

variable {k : Nat} {s t u : State}

theorem refl (s : State) : KeyKept k s s := rfl

theorem trans (h : KeyKept k s t) (g : KeyKept k t u) : KeyKept k s u := Eq.trans g h

theorem of_only {F : List StateField} (h : Only F s t) (hF : .dict ∉ F) : KeyKept k s t := h.dget hF k

theorem ite {c : Prop} [Decidable c] (h : KeyKept k s t) (g : KeyKept k s u) : KeyKept k s (if c then t else u) := by
  split <;> assumption

theorem foldl {α : Type} {f : State → α → State} (h : ∀ s a, KeyKept k s (f s a)) (l : List α) (s : State) :
    KeyKept k s (l.foldl f s) := by
  induction l generalizing s with
  | nil => exact .refl s
  | cons a l ih => exact (h s a).trans (ih _)

theorem dset (s : State) (i j n : Nat) (h : k ≠ dkey i j) : KeyKept k s (dset s i j n) := dget_dput_other _ _ _ _ h

theorem bump (s : State) (i j n : Nat) (h : k ≠ dkey i j) : KeyKept k s (bump s i j n) := dget_bump_other _ _ _ _ _ h

theorem raiseTo (s : State) (i j n : Nat) (h : k ≠ dkey i j) : KeyKept k s (raiseTo s i j n) := dset _ _ _ _ h

end KeyKept

theorem KeyKept.dnum {i j : Nat} {s t : State} (h : KeyKept (dkey i j) s t) : Machine.dnum t i j = Machine.dnum s i j :=
  congrArg DVal.toNat h

section Kept

variable {k : Nat}

theorem traceEmit_keyKept (h : k / 256 = 0x7200 → 7 < k % 256) (s : State) (r : TraceRec) : KeyKept k s (traceEmit s r) :=
  .bump _ _ _ _ (by unfold dkey; omega)

theorem traceDrain_keyKept (h : k / 256 = 0x7200 → 7 < k % 256) (fuel : Nat) (s : State) : KeyKept k s (traceDrain s fuel) := by
  induction fuel generalizing s with
  | zero => exact .refl s
  | succ n ih =>
    unfold traceDrain
    split
    · exact .refl s
    · next r l _ => exact .ite (.refl s) ((traceEmit_keyKept h { s with tel := { s.tel with traceHeld := l } } r).trans (ih _))

/-- A trace record changes the counters of the trace ring alone. -/
theorem trace_keyKept (h : k / 256 = 0x7200 → 7 < k % 256) (s : State) (kind source queue arg0 arg1 arg2 : Nat) :
    KeyKept k s (trace s kind source queue arg0 arg1 arg2) := by
  unfold trace
  extract_lets r src gap s'
  have hgap : KeyKept k s s' := rfl
  refine .ite (.refl s) (.ite (traceEmit_keyKept h s r) (.ite rfl (.ite ?_ rfl)))
  exact hgap.trans ((KeyKept.bump _ _ _ _ (by unfold dkey; omega)).trans
    ((KeyKept.bump _ _ _ _ (by unfold dkey; omega)).trans (traceDrain_keyKept h _ _)))

theorem stall_keyKept (h : k < 256 * 0x6400) (s : State) (cls cause n : Nat) : KeyKept k s (stall s cls cause n) :=
  (KeyKept.bump _ _ _ _ (by unfold dkey; omega)).trans (.bump _ _ _ _ (by unfold dkey; omega))

theorem missRecord_keyKept (h : k < 256 * 0x6A00) (s : State) (fn queue index planned arrived cause detail cls stream : Nat) :
    KeyKept k s (missRecord s fn queue index planned arrived cause detail cls stream) := by
  unfold missRecord
  extract_lets late n r s1 s2
  have h2 : KeyKept k s s2 := .ite (KeyKept.bump _ _ _ _ (by unfold dkey; omega)) rfl
  refine .ite (.refl s) (h2.trans ?_)
  exact ((KeyKept.bump _ _ _ _ (by unfold dkey; omega)).trans (.bump _ _ _ _ (by unfold dkey; omega))).trans
    (.raiseTo _ _ _ _ (by unfold dkey; omega))

theorem endStall_keyKept (h : k < 256 * 0x6300) (s : State) (q fn : Nat) (c : Cmd) : KeyKept k s (endStall s q fn c) := by
  unfold endStall
  extract_lets cls cause beats s1 s2
  have h1 : KeyKept k s s1 := stall_keyKept (by omega) ..
  have h2 : KeyKept k s s2 := h1.trans (trace_keyKept (by omega) ..)
  exact .ite (.refl s) (.ite (h2.trans (missRecord_keyKept (by omega) ..)) h2)

theorem countIssued_keyKept (h : k < 256 * 0x6300) (s : State) (c : Cmd) (n : Nat) : KeyKept k s (countIssued s c n) := by
  unfold countIssued
  exact (KeyKept.bump _ _ _ _ (by unfold dkey; omega)).trans (.bump _ _ _ _ (by unfold dkey; omega))

/-- Charges stand under SUB 3 to 5. -/
theorem uncharge_keyKept (h : k % 256 < 3 ∨ 5 < k % 256) (s : State) (part fn tier n : Nat) : KeyKept k s (uncharge s part fn tier n) := by
  unfold uncharge setCharge
  split
  · rfl
  · extract_lets s1
    have h1 : KeyKept k s s1 := .dset _ _ _ _ (by unfold dkey; split <;> omega)
    exact .ite (h1.trans (.raiseTo _ _ _ _ (by unfold dkey; omega))) h1

theorem returnStorage_keyKept (h : k % 256 < 3 ∨ 5 < k % 256) (s : State) (part key : Nat) (b : Buf) :
    KeyKept k s (returnStorage s part key b) := by
  unfold returnStorage
  extract_lets s1
  have h1 : KeyKept k s s1 := .ite (.refl s) (uncharge_keyKept h ..)
  split
  · exact h1
  · extract_lets s2
    have h2 : KeyKept k s s2 := .ite h1 (h1.trans (uncharge_keyKept h ..))
    exact h2

theorem releaseHeld_keyKept (h : k % 256 < 3 ∨ 5 < k % 256) (s : State) : KeyKept k s (releaseHeld s) := by
  unfold releaseHeld
  refine .foldl (fun t e => ?_) _ _
  exact .ite (.refl t) (.trans (t := { t with bufs := FMap.erase t.bufs e.1 }) rfl (returnStorage_keyKept h ..))

/-- A failure changes no entry before those of the cores but charges. -/
theorem failCmd_keyKept (h : k < 256 * 0x6300) (hsub : k % 256 < 3 ∨ 5 < k % 256) (s : State) (q uid : Nat) (st : Status) (stops : Bool) :
    KeyKept k s (failCmd s q uid st stops) := by
  unfold failCmd
  split
  · exact .refl s
  · next c _ =>
    extract_lets s1 s2 s3 s4 s5
    have h1 : KeyKept k s s1 := .trans
      (.of_only ((leaveEngines_only s q uid).trans ((discardArray_only _ q c).trans (withdraw_only _ q uid))) (by decide))
      (endStall_keyKept h ..)
    have h2 : KeyKept k s s2 := .ite (h1.trans (countIssued_keyKept h ..)) h1
    have h4 : KeyKept k s s4 := h2.trans (.of_only ((updCmd_only ..).trans (putCompletion_only ..)) (by decide))
    have h5 : KeyKept k s s5 := .ite (h4.trans (.of_only (offence_only ..) (by decide))) h4
    exact .trans (.ite (h5.trans (.of_only (stopQueue_only ..) (by decide))) h5) (releaseHeld_keyKept hsub _)

end Kept

/-! ## STEP -/

theorem stepOf_congr {s t : State} {q : Nat} (h : queueAt t q = queueAt s q) : stepOf t q = stepOf s q := by
  unfold stepOf
  rw [h]

theorem stepOf_some {s : State} {q : Nat} {Q : Queue} {c : Cmd} (h : stepOf s q = some (Q, c)) :
    queueAt s q = some Q ∧ c.op = 13 ∧ c.state = .started ∧ ∃ rest, Q.cmds = c :: rest := by
  unfold stepOf at h
  split at h
  · cases h
  · next P hP =>
    split at h
    · cases h
    · next d l hcmds =>
      split at h
      · next hcond =>
        cases h
        simp only [Bool.and_eq_true, decide_eq_true_eq] at hcond
        exact ⟨hP, hcond.1, hcond.2, l, hcmds⟩
      · cases h

theorem stepOf_of_front {s : State} {q : Nat} {Q : Queue} {c : Cmd} {l : List Cmd} (hQ : queueAt s q = some Q) (hcmds : Q.cmds = c :: l)
    (hop : c.op = 13) (hstate : c.state = .started) : stepOf s q = some (Q, c) := by
  unfold stepOf
  rw [hQ]
  dsimp only
  rw [hcmds]
  simp [hop, hstate]

/-- A STEP arrives: the queue has reached its boundary. -/
theorem runStep_arrives {s : State} {q j : Nat} {Q : Queue} {c : Cmd} {J : Job} (h : stepOf s q = some (Q, c)) (hj : Q.job = some j)
    (hJ : jobAt s j = some J) (harr : c.arrived = false) :
    let t := runStep s q
    t = { s with queues := t.queues, jobs := t.jobs } ∧ stepArrived t q = true
      ∧ jobAt t j = some { J with firstArrival := some (J.firstArrival.getD s.now), arrivedAt := s.now }
      ∧ ∀ p, p ≠ q → queueAt t p = queueAt s p := by
  obtain ⟨hQ, hop, hstate, l, hcmds⟩ := stepOf_some h
  intro t
  have ht : t = updJob (updCmd s q c.uid fun c => { c with arrived := true, waitSince := s.now }) j fun J =>
      { J with firstArrival := some (J.firstArrival.getD s.now), arrivedAt := s.now } := by
    show runStep s q = _
    unfold runStep
    rw [h]
    dsimp only
    rw [hj, harr]
    rfl
  rw [ht]
  refine ⟨rfl, ?_, ?_, fun p hp => (updCmd_others s q c.uid _).same p hp⟩
  · have hfront := updCmd_queue s q c.uid (fun c => { c with arrived := true, waitSince := s.now }) Q hQ
    unfold stepArrived
    rw [hcmds, List.map_cons, if_pos rfl] at hfront
    have hstep := stepOf_of_front (s := updJob (updCmd s q c.uid fun c => { c with arrived := true, waitSince := s.now }) j fun J =>
      { J with firstArrival := some (J.firstArrival.getD s.now), arrivedAt := s.now }) hfront rfl hop hstate
    rw [hstep]
    rfl
  · rw [jobAt_updJob, if_pos rfl, show jobAt (updCmd s q c.uid _) j = jobAt s j from rfl, hJ]
    rfl

/-! ## The failures of a boundary -/

/-- One STEP of a failing boundary. -/
def failStep (st : Status) (s : State) (q : Nat) : State :=
  match stepOf s q with
  | none => s
  | some (_, c) => if c.arrived then fail s q c.uid st else s

theorem failStep_others (st : Status) (s : State) (q : Nat) : OtherQueues q s (failStep st s q) := by
  unfold failStep
  split
  · exact .refl s
  · exact .ite (failCmd_others ..) (.refl s)

theorem failStep_keyKept {k : Nat} (h : k < 256 * 0x6300) (hsub : k % 256 < 3 ∨ 5 < k % 256) (st : Status) (s : State) (q : Nat) :
    KeyKept k s (failStep st s q) := by
  unfold failStep
  split
  · exact .refl s
  · exact .ite (failCmd_keyKept h hsub ..) (.refl s)

theorem failStep_now (st : Status) (s : State) (q : Nat) : (failStep st s q).now = s.now := by
  unfold failStep
  split
  · rfl
  · split
    · exact (fail_only ..).same .now (by decide)
    · rfl

/-- A STEP of a failing boundary has failed, and its queue has no other that could. -/
def StepFailed (t : State) (q uid : Nat) (st : Status) : Prop := Failed t q uid st ∧ stepOf t q = none

theorem failStep_failed {s : State} {q : Nat} {Q : Queue} {c : Cmd} (h : stepOf s q = some (Q, c)) (harr : c.arrived = true) (st : Status) :
    StepFailed (failStep st s q) q c.uid st := by
  obtain ⟨hQ, hop, hstate, l, hcmds⟩ := stepOf_some h
  have heq : failStep st s q = fail s q c.uid st := by
    unfold failStep
    rw [h]
    exact if_pos harr
  rw [heq]
  refine ⟨fail_failed s q c.uid st Q c hQ (cmdAt_oldest hcmds), ?_⟩
  obtain ⟨P, hP, -, hPcmds⟩ := failCmd_queue s q c.uid st true hQ (cmdAt_oldest hcmds)
  rw [hcmds, List.map_cons, if_pos rfl] at hPcmds
  unfold stepOf
  rw [show queueAt (fail s q c.uid st) q = some P from hP]
  dsimp only
  rw [hPcmds]
  simp

theorem StepFailed.failStep {s : State} {q uid : Nat} {st : Status} (h : StepFailed s q uid st) (p : Nat) :
    StepFailed (failStep st s p) q uid st := by
  by_cases hp : q = p
  · subst hp
    have heq : Machine.failStep st s q = s := by
      unfold Machine.failStep
      rw [h.2]
    rw [heq]
    exact h
  · have hsame := (failStep_others st s p).same q hp
    obtain ⟨⟨Q, c, hQ, hrest⟩, hnone⟩ := h
    exact ⟨⟨Q, c, hsame.trans hQ, hrest⟩, (stepOf_congr hsame).trans hnone⟩

theorem foldl_failStep_failed (st : Status) (l : List Nat) (s : State) {q : Nat} {Q : Queue} {c : Cmd} (hq : q ∈ l)
    (h : stepOf s q = some (Q, c)) (harr : c.arrived = true) : StepFailed (l.foldl (failStep st) s) q c.uid st := by
  induction l generalizing s with
  | nil => cases hq
  | cons p l ih =>
    rw [List.foldl_cons]
    by_cases hp : q = p
    · subst hp
      exact foldl_keeps (fun t => StepFailed t q c.uid st) _ (fun t p ht => ht.failStep p) l _ (failStep_failed h harr st)
    · have hmem : q ∈ l := (List.mem_cons.1 hq).resolve_left hp
      exact ih _ hmem ((stepOf_congr ((failStep_others st s p).same q hp)).trans h)

theorem failSteps_eq (s : State) (j : Nat) (J : Job) (st : Status) :
    failSteps s j J st = updJob (bump (J.roles.foldl (failStep st) s) (0x6200 + J.part) 7 1) j fun J => { J with firstArrival := none } := rfl

/-- Every arrived STEP of the job fails, and that is counted once. -/
theorem failSteps_failed (s : State) (j : Nat) (J : Job) (st : Status) (hpart : J.part < 32) :
    Counted s (failSteps s j J st) (0x6200 + J.part) 7 1
      ∧ ∀ q ∈ J.roles, ∀ Q c, stepOf s q = some (Q, c) → c.arrived = true → Failed (failSteps s j J st) q c.uid st := by
  rw [failSteps_eq]
  refine ⟨?_, fun q hq Q c h harr => (foldl_failStep_failed st J.roles s hq h harr).1⟩
  have hkey : KeyKept (dkey (0x6200 + J.part) 7) s (J.roles.foldl (failStep st) s) :=
    .foldl (fun s q => failStep_keyKept (by unfold dkey; omega) (by unfold dkey; omega) st s q) _ _
  unfold Counted
  rw [show dnum (updJob _ j _) (0x6200 + J.part) 7 = dnum (bump (J.roles.foldl (failStep st) s) (0x6200 + J.part) 7 1) _ _ from rfl,
    dnum_bump_self, hkey.dnum]

theorem failSteps_now (s : State) (j : Nat) (J : Job) (st : Status) : (failSteps s j J st).now = s.now := by
  rw [failSteps_eq]
  exact foldl_keeps (fun t => t.now = s.now) _ (fun t q ht => (failStep_now st t q).trans ht) J.roles s rfl

theorem nodup_eq (l : List Nat) : nodup l = decide l.Nodup := by
  induction l with
  | nil => rfl
  | cons a l ih => simp [nodup, ih]

/-- A list of rings all of which a table holds. -/
theorem length_filterMap_get? (rings : FMap Ring) (l : List Nat) :
    (l.filterMap fun r => FMap.get? rings r).length = l.length ↔ ∀ r ∈ l, FMap.has rings r = true := by
  rw [List.length_filterMap_eq_countP, List.countP_eq_length]
  rfl

section Boundary

variable {s : State} {j : Nat} {J : Job} {others : RemoteBoundary}

theorem stepBoundary_open (hJ : jobAt s j = some J) (harr : allArrived s J = true) (hroles : J.roles ≠ [])
    (hopen : openAccs s J + others.f.getD 1 0 ≠ 0) : stepBoundary s j others = failSteps s j J 0x0404 := by
  unfold stepBoundary
  rw [hJ]
  dsimp -zeta only
  extract_lets list l known crc word
  rw [if_neg (by simp [harr, hroles]), if_pos hopen]

theorem stepBoundary_list (hJ : jobAt s j = some J) (harr : allArrived s J = true) (hroles : J.roles ≠ [])
    (hopen : openAccs s J + others.f.getD 1 0 = 0)
    (hlist : ¬(stepList s J).Nodup ∨ (∃ r ∈ stepList s J, FMap.has J.rings r = false)
      ∨ (stepList s J).length + others.f.getD 2 0 ≠ J.modules * (stepList s J).length) :
    stepBoundary s j others = failSteps s j J 0x0407 := by
  unfold stepBoundary
  rw [hJ]
  dsimp -zeta only
  extract_lets list l known crc word
  have hfails : (!nodup list || decide (known.length ≠ l) || decide (word 2 l ≠ J.modules * l) || decide (word 3 crc ≠ J.modules * crc)) = true := by
    rcases hlist with h | ⟨r, hr, hring⟩ | h
    · simp [nodup_eq, show ¬list.Nodup from h]
    · have hlen : known.length ≠ l := fun heq => by
        rw [(length_filterMap_get? J.rings list).1 heq r hr] at hring
        cases hring
      simp [hlen]
    · simp [show word 2 l ≠ J.modules * l from h]
  rw [if_neg (by simp [harr, hroles]), if_neg (not_not.2 hopen), if_pos hfails]

theorem stepBound_expires (hJ : jobAt s j = some J) {b : Nat} (hfirst : J.firstArrival = some b)
    (h : allArrived s J = false ∨ J.modules ≠ 1) :
    stepBound s j = failSteps { s with now := max s.now (b + eff s 0x2210 1) } j J 0x0406 := by
  unfold stepBound
  rw [hJ]
  dsimp only
  rw [hfirst]
  exact if_neg (by rcases h with h | h <;> simp [h])

end Boundary

/-- Settles O22: a STEP that arrives changes its command and its job alone; each failure of a boundary fails the arrived STEPs
one after another. -/
theorem stepArrivesOrFails : Obligations.StepArrivesOrFails := by
  refine ⟨fun s q j Q c J h hj hJ harr hpoison => ⟨_, rfl, ?_⟩, fun s j J hJ hpart => ⟨fun others harr hroles =>
    ⟨fun hopen => ⟨_, rfl, ?_⟩, fun hopen hlist => ⟨_, rfl, ?_⟩⟩, fun b hfirst h => ⟨stepBound s j, rfl, ?_⟩⟩⟩
  · rw [h, unlessPoisoned_none hpoison]
    exact runStep_arrives h hj hJ harr
  · rw [stepBoundary_open hJ harr hroles hopen]
    exact failSteps_failed s j J _ hpart
  · rw [stepBoundary_list hJ harr hroles hopen hlist]
    exact failSteps_failed s j J _ hpart
  · rw [stepBound_expires hJ hfirst h]
    exact ⟨failSteps_failed { s with now := max s.now (b + eff s 0x2210 1) } j J _ hpart,
      (failSteps_now { s with now := max s.now (b + eff s 0x2210 1) } j J _).symm⟩

end Sys2Proof.Machine

/-! PROOFS. The boundary of a step: its decision, its counters and its rings. -/

namespace Sys2Proof.Machine

/-! ## The job behind a commit -/

/-- What a commit may change of a job. -/
def CommitJobOnly (J J' : Job) : Prop :=
  J' = { J with
    nf := J'.nf, obs := J'.obs, accs := J'.accs, sweepLog := J'.sweepLog, sweeps := J'.sweeps, grant := J'.grant, saved := J'.saved }

theorem CommitJobOnly.trans {J J' J'' : Job} (h : CommitJobOnly J J') (h' : CommitJobOnly J' J'') : CommitJobOnly J J'' := by
  unfold CommitJobOnly at *
  rw [h] at h'
  exact h'

/-- Job `j` goes on from `s` to `t` but for what a commit changes. -/
structure JobFrame (j : Nat) (s t : State) : Prop where
  job : ∀ J, jobAt s j = some J → ∃ J', jobAt t j = some J' ∧ CommitJobOnly J J'

namespace JobFrame

variable {j : Nat} {s t u : State}

theorem refl (s : State) : JobFrame j s s := ⟨fun J h => ⟨J, h, rfl⟩⟩

theorem trans (h : JobFrame j s t) (g : JobFrame j t u) : JobFrame j s u := by
  refine ⟨fun J hJ => ?_⟩
  obtain ⟨K, hK, hJK⟩ := h.job J hJ
  obtain ⟨L, hL, hKL⟩ := g.job K hK
  exact ⟨L, hL, hJK.trans hKL⟩

theorem of_only {F : List StateField} (h : Only F s t) (hF : .jobs ∉ F) : JobFrame j s t := ⟨fun J hJ => ⟨J, (h.jobAt hF j).trans hJ, rfl⟩⟩

theorem of_jobKept (h : JobKept s t j) : JobFrame j s t := by
  refine ⟨fun J hJ => ?_⟩
  obtain ⟨J', hJ', honly⟩ := h.some hJ
  refine ⟨J', hJ', ?_⟩
  unfold GrantOnly at honly
  rw [honly]
  rfl

theorem updJob (s : State) (i : Nat) (f : Job → Job) (hf : ∀ J, CommitJobOnly J (f J)) : JobFrame j s (updJob s i f) := by
  refine ⟨fun J hJ => ?_⟩
  rw [jobAt_updJob]
  split
  · exact ⟨f J, by rw [hJ]; rfl, hf J⟩
  · exact ⟨J, hJ, rfl⟩

theorem ite {c : Prop} [Decidable c] (h : JobFrame j s t) (g : JobFrame j s u) : JobFrame j s (if c then t else u) := by
  split <;> assumption

end JobFrame

theorem commitRuns_jobFrame (j fuel : Nat) (s : State) (q : Nat) : JobFrame j s (commitRuns fuel s q) := by
  induction fuel generalizing s with
  | zero => exact .refl s
  | succ n ih =>
    unfold commitRuns
    split
    · exact .refl s
    · split
      · exact .refl s
      · next r _ _ =>
        refine .ite (.refl s) ?_
        extract_lets s1 s2
        have h2 : JobFrame j s s2 := .of_only ((trace_only ..).trans ((putCompletion_only ..).trans (updQueue_only ..))) (by decide)
        exact h2.trans ((JobFrame.of_jobKept (holdQueue_jobKept s2 q j)).trans
          ((JobFrame.of_only (releaseHeld_only _) (by decide)).trans (ih _)))

theorem logSweep_jobFrame (j : Nat) (s : State) (q : Nat) (r : SweepRec) : JobFrame j s (logSweep s q r) := by
  unfold logSweep
  split
  · exact .refl s
  · extract_lets s1
    have h1 : JobFrame j s s1 := .of_only (updQueue_only ..) (by decide)
    split
    · exact h1
    · exact h1.trans (.updJob _ _ _ fun _ => rfl)

/-- A commit changes of a job its observations, its accumulators, its sweep log, and with a queue that holds its grant. -/
theorem commitOne_jobFrame (j : Nat) (s : State) (q : Nat) (c : Cmd) (st : Status) : JobFrame j s (commitOne s q c st) := by
  unfold commitOne
  extract_lets s1 s2 s3 s4 s5 s6 s7 s8 s9
  have h1 : JobFrame j s s1 := .of_only (.foldl (fun _ _ => storeStaged_only ..) _ _) (by decide)
  have h2 : JobFrame j s1 s2 := by
    simp only [s2]
    split
    · exact .refl _
    · refine .updJob _ _ _ fun J => ?_
      split
      · exact rfl
      · split <;> exact rfl
  have h3 : JobFrame j s2 s3 := by
    simp only [s3]
    split
    · exact .refl _
    · exact logSweep_jobFrame ..
  have h4 : JobFrame j s3 s4 := .ite (.of_only (bump_only ..) (by decide)) (.refl _)
  have h5 : JobFrame j s4 s5 := .ite (.of_only (updCore_only ..) (by decide)) (.refl _)
  have h6 : JobFrame j s5 s6 := .of_only (trace_only ..) (by decide)
  have h7 : JobFrame j s6 s7 := .ite (.of_only (putCompletion_only ..) (by decide)) (.refl _)
  have h9 : JobFrame j s7 (releaseHeld s9) :=
    .of_only ((tellRemote_only ..).trans ((updQueue_only ..).trans (releaseHeld_only _))) (by decide)
  have h10 : JobFrame j (releaseHeld s9) (commitRun (releaseHeld s9) q) := by
    unfold commitRun
    split
    · exact .refl _
    · exact commitRuns_jobFrame ..
  exact (((((((h1.trans h2).trans h3).trans h4).trans h5).trans h6).trans h7).trans h9).trans h10

/-! ## The decision -/

/-- A ring of the step that makes it skip: a non-finite element, or more clipped ones than the job allows. -/
def BadRing (J : Job) (e : RingSum) : Prop :=
  e.nonfinite ≠ 0 ∨ ∃ g, FMap.get? J.rings e.ring = some g ∧ g.checked = true ∧ J.clipT ≠ 0 ∧ e.elements * J.clipT < e.clipped * 65536

theorem absurd_iff (J : Job) (e : RingSum) : e.absurd J = true ↔
    ∃ g, FMap.get? J.rings e.ring = some g ∧ g.checked = true ∧ J.clipT ≠ 0 ∧ e.elements * J.clipT < e.clipped * 65536 := by
  unfold RingSum.absurd Ring.absurd
  simp [Option.any_eq_true, and_assoc]

/-- The step is skipped. -/
def Skips (J : Job) (sums : List RingSum) (nfWord : Nat) : Prop := nfWord ≠ 0 ∨ ∃ e ∈ sums, BadRing J e

theorem skips_iff (J : Job) (sums : List RingSum) (nfWord : Nat) :
    (decide (nfWord ≠ 0) || (sums.map fun e => decide (e.nonfinite ≠ 0) || e.absurd J).contains true) = true ↔ Skips J sums nfWord := by
  simp only [Bool.or_eq_true, decide_eq_true_eq, List.contains_iff_mem, List.mem_map, absurd_iff]
  rfl

/-- Rings of different numbers, each changed once. -/
theorem get?_foldl_modify (f : RingSum → Ring → Ring) (l : List RingSum) (m : FMap Ring) (hnodup : (l.map RingSum.ring).Nodup) {e : RingSum}
    (he : e ∈ l) : FMap.get? (l.foldl (fun m e => FMap.modify m e.ring (f e)) m) e.ring = (FMap.get? m e.ring).map (f e) := by
  have hother (l : List RingSum) (k : Nat) (m : FMap Ring) (hk : k ∉ l.map RingSum.ring) :
      FMap.get? (l.foldl (fun m e => FMap.modify m e.ring (f e)) m) k = FMap.get? m k := by
    induction l generalizing m with
    | nil => rfl
    | cons d l ih =>
      obtain ⟨hd, hl⟩ := not_or.1 fun h => hk (List.mem_cons.2 h)
      rw [List.foldl_cons, ih _ hl, FMap.get?_modify, if_neg hd]
  induction l generalizing m with
  | nil => cases he
  | cons d l ih =>
    obtain ⟨hd, hl⟩ := List.nodup_cons.1 hnodup
    rw [List.foldl_cons]
    rcases List.mem_cons.1 he with rfl | he
    · rw [hother l _ _ hd, FMap.get?_modify, if_pos rfl]
    · rw [ih _ hl he, FMap.get?_modify, if_neg fun h : e.ring = d.ring => hd (h ▸ List.mem_map_of_mem he)]

/-- The number of the updates that a job has committed behind a boundary. -/
def updatesAfter (J : Job) : Nat := if J.committedLast then J.updates + 1 else J.updates

/-- What a boundary decides, as the job keeps it. -/
theorem decide_fields (J : Job) (sums : List RingSum) (nfWord beat : Nat) :
    let J' := J.decide sums nfWord beat
    let status := (FMap.get? J'.stepLog (J.batch % 256)).map StepRec.status
    J'.batch = (J.batch + 1) % 2 ^ 64 ∧ J'.updates = updatesAfter J
      ∧ (Skips J sums nfWord → J'.window = .skipped ∧ status = some 0x0401)
      ∧ (¬Skips J sums nfWord → updatesAfter J ≠ 2 ^ 48 - 1 → J'.window = .committed ∧ status = some 0)
      ∧ (¬Skips J sums nfWord → updatesAfter J = 2 ^ 48 - 1 → J'.window = .refused ∧ status = some 0x0402) := by
  intro J' status
  have hskip := skips_iff J sums nfWord
  have hstatus : status = some (if decide (nfWord ≠ 0) || (sums.map fun e => decide (e.nonfinite ≠ 0) || e.absurd J).contains true then 0x0401
      else if updatesAfter J = 2 ^ 48 - 1 then 0x0402 else 0) := by
    show (FMap.get? (FMap.set J.stepLog (J.batch % 256) _) (J.batch % 256)).map StepRec.status = _
    rw [FMap.get?_set_self]
    rfl
  have hwindow : J'.window = if decide (nfWord ≠ 0) || (sums.map fun e => decide (e.nonfinite ≠ 0) || e.absurd J).contains true then .skipped
      else if updatesAfter J = 2 ^ 48 - 1 then .refused else .committed := rfl
  rw [hstatus, hwindow]
  refine ⟨rfl, rfl, fun h => ?_, fun h hupd => ?_, fun h hupd => ?_⟩
  · rw [if_pos (hskip.2 h), if_pos (hskip.2 h)]
    exact ⟨rfl, rfl⟩
  · rw [if_neg (mt hskip.1 h), if_neg (mt hskip.1 h), if_neg hupd, if_neg hupd]
    exact ⟨rfl, rfl⟩
  · rw [if_neg (mt hskip.1 h), if_neg (mt hskip.1 h), if_pos hupd, if_pos hupd]
    exact ⟨rfl, rfl⟩

/-- Every listed ring is closed once. -/
theorem decide_rings (J : Job) (sums : List RingSum) (nfWord beat : Nat) (hnodup : (sums.map RingSum.ring).Nodup) {e : RingSum} (he : e ∈ sums)
    {g : Ring} (hg : FMap.get? J.rings e.ring = some g) :
    ∃ b : Bool, (b = true ↔ Skips J sums nfWord) ∧ FMap.get? (J.decide sums nfWord beat).rings e.ring
      = some (g.close J.calmL e.amax (decide (e.nonfinite ≠ 0)) e.clipped e.elements b J.batch) := by
  refine ⟨_, skips_iff J sums nfWord, ?_⟩
  unfold Job.decide
  extract_lets updates bad skip status window kept obs rings total rec
  show FMap.get? rings e.ring = _
  refine (get?_foldl_modify (fun e g => g.close J.calmL e.amax (decide (e.nonfinite ≠ 0)) e.clipped e.elements skip J.batch) sums J.rings
    hnodup he).trans ?_
  rw [hg]
  rfl

/-! ## The boundary -/

/-- The job-wide observations of a step's rings. -/
def stepSums (s : State) (J : Job) (others : RemoteBoundary) : List RingSum :=
  ((List.range (stepList s J).length).zip (stepList s J)).map fun p => ringSum J others p.1 p.2

theorem stepSums_rings (s : State) (J : Job) (others : RemoteBoundary) : (stepSums s J others).map RingSum.ring = stepList s J := by
  unfold stepSums
  rw [List.map_map]
  exact List.map_snd_zip (by simp)

/-- One STEP of a boundary that has been decided. -/
def boundaryCommit (s : State) (q : Nat) : State :=
  match stepOf s q with
  | none => s
  | some (_, c) => updQueue (commitOne s q c 0) q fun Q => { Q with steps := Q.steps + 1, windowSweeps := 0 }

theorem boundaryCommit_others (s : State) (q : Nat) : OtherQueues q s (boundaryCommit s q) := by
  unfold boundaryCommit
  split
  · exact .refl s
  · exact (commitOne_others ..).trans (updQueue_others ..)

theorem boundaryCommit_jobFrame (j : Nat) (s : State) (q : Nat) : JobFrame j s (boundaryCommit s q) := by
  unfold boundaryCommit
  split
  · exact .refl s
  · exact (commitOne_jobFrame ..).trans (.of_only (updQueue_only ..) (by decide))

theorem boundaryCommit_now (s : State) (q : Nat) : (boundaryCommit s q).now = s.now := by
  unfold boundaryCommit
  split
  · rfl
  · exact (commitOne_only ..).same .now (by decide)

theorem Gone.updQueue {s : State} {q uid p : Nat} (h : Gone s q uid) (f : Queue → Queue) (hf : ∀ Q, (f Q).cmds = Q.cmds) :
    Gone (updQueue s p f) q uid := by
  obtain ⟨Q, hQ, hnone⟩ := h
  by_cases hp : q = p
  · subst hp
    refine ⟨f Q, by rw [queueAt_updQueue, if_pos rfl, hQ]; rfl, ?_⟩
    unfold cmdAt at hnone ⊢
    rw [hf]
    exact hnone
  · exact ⟨Q, by rw [queueAt_updQueue, if_neg hp, hQ], hnone⟩

theorem Gone.boundaryCommit {s : State} {q uid : Nat} (h : Gone s q uid) (p : Nat) : Gone (boundaryCommit s p) q uid := by
  unfold Machine.boundaryCommit
  split
  · exact h
  · exact (h.commitOne _ _ _).updQueue _ fun _ => rfl

theorem foldl_boundaryCommit_gone (l : List Nat) (s : State) {q : Nat} {Q : Queue} {c : Cmd} (hq : q ∈ l) (h : stepOf s q = some (Q, c)) :
    Gone (l.foldl boundaryCommit s) q c.uid := by
  induction l generalizing s with
  | nil => cases hq
  | cons p l ih =>
    rw [List.foldl_cons]
    by_cases hp : q = p
    · subst hp
      refine foldl_keeps (fun t => Gone t q c.uid) _ (fun t p ht => ht.boundaryCommit p) l _ ?_
      obtain ⟨hQ, -⟩ := stepOf_some h
      unfold boundaryCommit
      rw [h]
      exact (commitOne_gone s q c 0 (Option.isSome_iff_exists.2 ⟨Q, hQ⟩)).updQueue _ fun _ => rfl
    · exact ih _ ((List.mem_cons.1 hq).resolve_left hp) ((stepOf_congr ((boundaryCommit_others s p).same q hp)).trans h)

/-- The decision of the boundary, on a job. -/
def boundaryJob (s : State) (J : Job) (others : RemoteBoundary) (K : Job) : Job :=
  K.decide (stepSums s J others) (K.nf + others.f.getD 0 0)
    (K.arrivedAt + 236 + ceilDiv (stepList s J).length 2 + crossBeats J (stepList s J).length)

/-- The state in which a boundary has been decided, and no STEP has committed yet. -/
def boundaryDecided (s : State) (j : Nat) (J : Job) (others : RemoteBoundary) : State :=
  let l := (stepList s J).length
  let s := updJob s j (boundaryJob s J others)
  let s := { s with now := max s.now (J.arrivedAt + 300 + 2 * ceilDiv l 2 + crossBeats J l) }
  raiseTo (bump (bump s (0x6200 + J.part) 1 1) (0x6200 + J.part) 5 (300 + 2 * ceilDiv l 2 + crossBeats J l)) (0x6200 + J.part) 6
    (300 + 2 * ceilDiv l 2 + crossBeats J l)

/-- The word that the modules compare of a list of rings. -/
theorem known_crc (J : Job) (l : List Nat) (h : ∀ r ∈ l, FMap.has J.rings r = true) :
    ((l.filterMap fun r => FMap.get? J.rings r).flatMap fun g => toLe 4 g.tensorId)
      = l.flatMap fun r => toLe 4 (((FMap.get? J.rings r).map Ring.tensorId).getD 0) := by
  induction l with
  | nil => rfl
  | cons r l ih =>
    obtain ⟨g, hg⟩ := Option.isSome_iff_exists.1 (h r List.mem_cons_self)
    rw [List.filterMap_cons_some hg, List.flatMap_cons, List.flatMap_cons, ih fun r hr => h r (List.mem_cons_of_mem _ hr), hg]
    rfl

section

variable {s : State} {j : Nat} {J : Job} {others : RemoteBoundary}

theorem stepBoundary_decided (hJ : jobAt s j = some J) (hroles : J.roles ≠ []) (harr : allArrived s J = true)
    (hopen : openAccs s J + others.f.getD 1 0 = 0) (hnodup : (stepList s J).Nodup)
    (hrings : ∀ r ∈ stepList s J, FMap.has J.rings r = true)
    (hlen : (stepList s J).length + others.f.getD 2 0 = J.modules * (stepList s J).length)
    (hcrc : crc32c ((stepList s J).flatMap fun r => toLe 4 (((FMap.get? J.rings r).map Ring.tensorId).getD 0)) + others.f.getD 3 0
      = J.modules * crc32c ((stepList s J).flatMap fun r => toLe 4 (((FMap.get? J.rings r).map Ring.tensorId).getD 0))) :
    stepBoundary s j others = J.roles.foldl boundaryCommit (boundaryDecided s j J others) := by
  unfold stepBoundary
  rw [hJ]
  dsimp -zeta only
  extract_lets list l known crc word half x sums due s1 s2 i s3
  have hknown : known.length = l := (length_filterMap_get? J.rings list).2 hrings
  have hword : word 3 crc = J.modules * crc := by
    have hcrceq : crc = crc32c ((stepList s J).flatMap fun r => toLe 4 (((FMap.get? J.rings r).map Ring.tensorId).getD 0)) :=
      congrArg crc32c (known_crc J _ hrings)
    rw [hcrceq]
    exact hcrc
  have hpass : (!nodup list || decide (known.length ≠ l) || decide (word 2 l ≠ J.modules * l) || decide (word 3 crc ≠ J.modules * crc)) = false := by
    simp [nodup_eq, show list.Nodup from hnodup, hknown, hword, show word 2 l = J.modules * l from hlen]
  rw [if_neg (by simp [harr, hroles]), if_neg (not_not.2 hopen), if_neg (by rw [hpass]; decide)]
  rfl

theorem boundaryDecided_job (hJ : jobAt s j = some J) :
    jobAt (boundaryDecided s j J others) j = some (J.decide (stepSums s J others) (J.nf + others.f.getD 0 0)
      (J.arrivedAt + 236 + ceilDiv (stepList s J).length 2 + crossBeats J (stepList s J).length)) := by
  have h := jobAt_updJob s j j (boundaryJob s J others)
  rw [if_pos rfl, hJ] at h
  exact h

theorem boundaryDecided_queueAt (q : Nat) : queueAt (boundaryDecided s j J others) q = queueAt s q := rfl

end

theorem CommitJobOnly.fields {J J' : Job} (h : CommitJobOnly J J') :
    J'.batch = J.batch ∧ J'.updates = J.updates ∧ J'.window = J.window ∧ J'.stepLog = J.stepLog ∧ J'.rings = J.rings := by
  unfold CommitJobOnly at h
  rw [h]
  exact ⟨rfl, rfl, rfl, rfl, rfl⟩

/-- Settles O23: the job takes what the boundary decides, and the commits of its STEPs leave that alone. -/
theorem stepBoundary_law : Obligations.StepBoundary := by
  intro s j J others hJ hroles harr hopen hnodup hrings l crc hlen hcrc sums bad skip updates status
  refine ⟨stepBoundary s j others, rfl, ?_⟩
  rw [stepBoundary_decided hJ hroles harr hopen hnodup hrings hlen hcrc]
  have hframe : JobFrame j (boundaryDecided s j J others) (J.roles.foldl boundaryCommit (boundaryDecided s j J others)) :=
    foldl_keeps (fun t => JobFrame j (boundaryDecided s j J others) t) _ (fun t q ht => ht.trans (boundaryCommit_jobFrame j t q)) _ _ (.refl _)
  obtain ⟨J', hJ', honly⟩ := hframe.job _ (boundaryDecided_job hJ)
  obtain ⟨hbatch, hupdates, hwindow, hlog, hJrings⟩ := honly.fields
  have hdecide := decide_fields J sums (J.nf + others.f.getD 0 0) (J.arrivedAt + 236 + ceilDiv (stepList s J).length 2 + crossBeats J l)
  refine ⟨?_, ⟨J', hJ', ?_⟩, fun q hq Q c h => foldl_boundaryCommit_gone J.roles _ hq ((stepOf_congr (boundaryDecided_queueAt q)).trans h)⟩
  · have hnow := foldl_keeps (fun t => t.now = (boundaryDecided s j J others).now) _
      (fun t q ht => (boundaryCommit_now t q).trans ht) J.roles _ rfl
    exact hnow
  · dsimp only [status]
    rw [hbatch, hupdates, hwindow, hlog, hJrings]
    obtain ⟨h1, h2, h3, h4, h5⟩ := hdecide
    exact ⟨h1, h2, h3, h4, h5, fun e he g hg => decide_rings J sums _ _ ((stepSums_rings s J others).symm ▸ hnodup) he hg⟩

end Sys2Proof.Machine

/-! PROOFS. Merge entries, and the requests of the tile movers. -/

namespace Sys2Proof.Machine

/-- The changed command of a queue, by its number. -/
theorem cmdAt_updCmd {s : State} {q uid : Nat} {Q : Queue} {c : Cmd} (hQ : queueAt s q = some Q) (hc : cmdAt Q uid = some c)
    (f : Cmd → Cmd) (hf : ∀ c, (f c).uid = c.uid) : ∃ Q', queueAt (updCmd s q uid f) q = some Q' ∧ cmdAt Q' uid = some (f c) :=
  ⟨_, updCmd_queue s q uid f Q hQ, cmdAt_map_self Q.cmds uid f c hf hc⟩

theorem counted_bump (s : State) (i j n : Nat) : Counted s (bump s i j n) i j n := dnum_bump_self ..

theorem updCore_onlyCore (s : State) (core : Nat) (f : Core → Core) : OnlyCore s (updCore s core f) core :=
  ⟨rfl, fun c hc => coreAt_updCore_other s core c f hc⟩

/-! ## Merge entries -/

section Merge

variable {s : State} {core column : Nat}

theorem mergeEntry_stopped (h : clockStopped s (core / 4) = true) : mergeEntry s core column = s := by
  unfold mergeEntry
  exact if_pos h

theorem mergeEntry_joins (h : clockStopped s (core / 4) = false)
    (hwait : (coreAt s core).mergeOwner = none ∨ (coreAt s core).mergeWait ≠ some column) :
    mergeEntry s core column = updCore s core fun k =>
      if k.mergeQueue.length < 64 then { k with mergeQueue := k.mergeQueue ++ [column] }
      else { k with mergeHeld := k.mergeHeld ++ [column] } := by
  have hnone : ((coreAt s core).mergeOwner.filter fun _ => (coreAt s core).mergeWait = some column) = none := by
    rcases hwait with h | h <;> simp [h]
  unfold mergeEntry
  dsimp only
  rw [if_neg (by rw [h]; decide), hnone]

theorem mergeEntry_resumes {q uid : Nat} (h : clockStopped s (core / 4) = false) (howner : (coreAt s core).mergeOwner = some (q, uid))
    (hwait : (coreAt s core).mergeWait = some column) : mergeEntry s core column = mergeResume s core q uid := by
  have hsome : ((coreAt s core).mergeOwner.filter fun _ => (coreAt s core).mergeWait = some column) = some (q, uid) := by
    simp [howner, hwait]
  unfold mergeEntry
  dsimp only
  rw [if_neg (by rw [h]; decide), hsome]

/-- The core at the next hold of a merge plan. -/
def mergeNext (h : Nat × Nat) (rest : List (Nat × Nat)) (k : Core) : Core :=
  match rest with
  | [] => k.resume
  | x :: _ => { (k.readMerge (h.1 + 1) x.1) with mergeWait := some x.1, mergePlan := rest }

/-- A command behind a merge wait. -/
def mergedCmd (beats : Nat) (last : Bool) (c : Cmd) : Cmd := { c with shift := c.shift + beats, merged := last }

theorem mergeResume_eq {q uid : Nat} {h : Nat × Nat} {l : List (Nat × Nat)} (hplan : (coreAt s core).mergePlan = h :: l) :
    mergeResume s core q uid = updCore (updCmd (bump s (0x6300 + core) 8 h.2) q uid
      (mergedCmd (beatsOf s core h.2) (l.filter fun x => !(coreAt s core).mergeQueue.contains x.1).isEmpty)) core
      (mergeNext h (l.filter fun x => !(coreAt s core).mergeQueue.contains x.1)) := by
  unfold mergeResume
  rw [hplan]
  rfl

theorem mergeResume_core {q uid : Nat} {h : Nat × Nat} {l : List (Nat × Nat)} (howner : (coreAt s core).mergeOwner = some (q, uid))
    (hplan : (coreAt s core).mergePlan = h :: l) :
    let rest := l.filter fun x => !(coreAt s core).mergeQueue.contains x.1
    let t := mergeResume s core q uid
    (coreAt t core).mergeWait = rest.head?.map Prod.fst ∧ (coreAt t core).mergePlan = rest
      ∧ (coreAt t core).mergeOwner = (if rest = [] then none else some (q, uid)) := by
  intro rest t
  have hcore : coreAt t core = mergeNext h rest (coreAt s core) := by
    show coreAt (mergeResume s core q uid) core = _
    rw [mergeResume_eq hplan, coreAt_updCore_self]
    rfl
  rw [hcore]
  unfold mergeNext
  cases rest with
  | nil => exact ⟨rfl, rfl, rfl⟩
  | cons x rest => exact ⟨rfl, rfl, howner⟩

end Merge

/-! ## The order of the movers' requests -/

/-- The order of the movers' requests is a strict order in which requests of one place stand together. -/
theorem before_iff (a b : MoverReq) : a.before b = true ↔ a.deadline < b.deadline ∨ a.deadline = b.deadline ∧ (a.queue < b.queue
    ∨ a.queue = b.queue ∧ (a.cmd < b.cmd ∨ a.cmd = b.cmd ∧ a.offset < b.offset)) := by
  simp [MoverReq.before]

theorem before_irrefl (a : MoverReq) : a.before a = false := by
  rw [Bool.eq_false_iff]
  intro h
  rw [before_iff] at h
  omega

theorem not_before_trans {a b c : MoverReq} (hab : b.before a = false) (hbc : c.before b = false) : c.before a = false := by
  rw [Bool.eq_false_iff] at *
  rw [Ne, before_iff] at *
  omega

theorem not_before_of_before {a b : MoverReq} (h : a.before b = true) : b.before a = false := by
  rw [Bool.eq_false_iff, Ne, before_iff]
  rw [before_iff] at h
  omega

/-- The better of a request so far and another. -/
def betterReq (best : Option MoverReq) (x : MoverReq) : Option MoverReq :=
  match best with
  | none => some x
  | some b => if x.before b then some x else some b

theorem foldl_betterReq (l : List MoverReq) (b : MoverReq) :
    ∃ x, l.foldl betterReq (some b) = some x ∧ (x = b ∨ x ∈ l) ∧ b.before x = false ∧ ∀ y ∈ l, y.before x = false := by
  induction l generalizing b with
  | nil => exact ⟨b, rfl, .inl rfl, before_irrefl b, by simp⟩
  | cons a l ih =>
    cases hab : a.before b with
    | true =>
      obtain ⟨x, hx, hmem, hfirst, hall⟩ := ih a
      refine ⟨x, ?_, .inr ?_, not_before_trans hfirst (not_before_of_before hab), ?_⟩
      · rw [List.foldl_cons, show betterReq (some b) a = some a from if_pos hab, hx]
      · rcases hmem with rfl | hmem
        · exact List.mem_cons_self
        · exact List.mem_cons_of_mem _ hmem
      · exact List.forall_mem_cons.2 ⟨hfirst, hall⟩
    | false =>
      obtain ⟨x, hx, hmem, hfirst, hall⟩ := ih b
      refine ⟨x, ?_, hmem.imp_right (List.mem_cons_of_mem _), hfirst, List.forall_mem_cons.2 ⟨not_before_trans hfirst hab, hall⟩⟩
      rw [List.foldl_cons, show betterReq (some b) a = some b from if_neg (by rw [hab]; decide), hx]

theorem firstReq_eq (l : List MoverReq) : firstReq l = l.foldl betterReq none := rfl

/-- The request served first is one of the list, and none of the list comes before it. -/
theorem firstReq_first {l : List MoverReq} {x : MoverReq} (h : firstReq l = some x) : x ∈ l ∧ ∀ y ∈ l, y.before x = false := by
  rw [firstReq_eq] at h
  cases l with
  | nil => cases h
  | cons a l =>
    obtain ⟨z, hz, hmem, hfirst, hall⟩ := foldl_betterReq l a
    obtain rfl : z = x := Option.some.inj (hz.symm.trans h)
    exact ⟨List.mem_cons.2 hmem, List.forall_mem_cons.2 ⟨hfirst, hall⟩⟩

/-! ## Requests outstanding -/

theorem outstanding_append (k : Core) (m : Nat) (x : MoverReq) :
    outstanding { k with movers := k.movers ++ [x] } m ≤ outstanding k m + 1 := by
  unfold outstanding
  rw [List.filter_append, List.length_append]
  exact Nat.add_le_add_left (List.length_filter_le _ [x]) _

theorem issueReq_outstanding (s : State) (core m : Nat) (x : MoverReq) :
    outstanding (coreAt (issueReq s core x) core) m ≤ outstanding (coreAt s core) m + 1 := by
  unfold issueReq
  split
  · exact Nat.le_succ _
  · next Q _ =>
    extract_lets first slot s1
    have h1 : outstanding (coreAt s1 core) m ≤ outstanding (coreAt s core) m + 1 := by
      show outstanding (coreAt (updCore s core _) core) m ≤ _
      rw [coreAt_updCore_self]
      exact outstanding_append _ m x
    have hcount : coreAt (if first then countTile s1 Q core else s1) core = coreAt s1 core := by
      split
      · unfold countTile
        split <;> rfl
      · rfl
    split
    · show outstanding (coreAt (if first then countTile s1 Q core else s1) core) m ≤ _
      rw [hcount]
      exact h1
    · exact h1
    · exact h1

/-- A mover does not issue past 32 outstanding requests. -/
theorem refillFor_outstanding (fuel : Nat) (s : State) (core m : Nat) (h : outstanding (coreAt s core) m ≤ 32) :
    outstanding (coreAt (refillFor fuel s core m) core) m ≤ 32 := by
  induction fuel generalizing s with
  | zero => exact h
  | succ n ih =>
    unfold refillFor
    split
    · exact h
    · next hroom =>
      split
      · exact h
      · exact ih _ ((issueReq_outstanding ..).trans (by omega))

/-! ## Deliveries -/

/-- A request of a MOVE that comes in time leaves its command awaiting one less. -/
theorem delivered_move {s : State} {x : MoverReq} {Q : Queue} {c : Cmd} (hQ : queueAt s x.queue = some Q) (hc : cmdAt Q x.cmd = some c)
    (hop : c.op = 4) (hkind : x.kind = .moveData) (hdue : s.now ≤ x.deadline)
    (hbound : ∀ n, reqBound (updCmd s x.queue x.cmd fun c => { c with awaiting := c.awaiting - 1 }) Q { c with awaiting := c.awaiting - 1 } x
      = some n → s.now ≤ x.issuedAt + n) :
    delivered s x = updCmd s x.queue x.cmd fun c => { c with awaiting := c.awaiting - 1 } := by
  unfold delivered
  rw [hQ, Option.bind_some, hc, hkind]
  dsimp -zeta only [Option.map_some]
  extract_lets s1
  have hlate : s1 = updCmd s x.queue x.cmd fun c => { c with awaiting := c.awaiting - 1 } := by
    show lateRequest _ _ _ _ _ = _
    unfold lateRequest
    extract_lets planned
    refine if_pos ?_
    show s.now ≤ planned
    simp only [planned]
    cases hreq : reqBound _ Q (c.got .moveData) x with
    | none => exact hdue
    | some n => exact le_min hdue (hbound n hreq)
  have hhold : holdIssue s1 x.queue (c.got .moveData) x = s1 := by
    unfold holdIssue
    rw [hkind]
  rw [hhold, hlate]
  unfold begin0
  exact if_pos (by simp [show (c.got .moveData).op = 4 from hop])

/-! ## Cycle 0 of an ARRAY -/

section Begin

variable {s : State} {q cls : Nat} {Q : Queue} {c : Cmd}

/-- The state in which an ARRAY has begun. -/
def begun (s : State) (q : Nat) (c : Cmd) : State :=
  updCmd s q c.uid fun d => { d with cycle0 := some (max s.now (earliest0 s q c)) }

theorem begin0_eq (hop : c.op = 1) (hcycle : c.cycle0 = none) (hin : streamsIn s Q c = true) :
    begin0 s q Q c cls = if s.now ≤ earliest0 s q c then begun s q c
      else stall { begun s q c with fresh := s.fresh + 1 } cls (3 + Config.freeNat s.fresh % 2) (s.now - earliest0 s q c) := by
  unfold begin0
  rw [if_neg (by simp [hop, hcycle, hin])]
  rfl

theorem begin0_queues (hop : c.op = 1) (hcycle : c.cycle0 = none) (hin : streamsIn s Q c = true) :
    (begin0 s q Q c cls).queues = (begun s q c).queues := by
  rw [begin0_eq hop hcycle hin]
  split <;> rfl

theorem stall_counts (s : State) (cls cause n : Nat) :
    Counted s (stall s cls cause n) (0x6400 + cls) cause n ∧ Counted s (stall s cls cause n) (0x6400 + cls) (0x10 + cause) 1 := by
  have hfirst : KeyKept (dkey (0x6400 + cls) cause) (bump s (0x6400 + cls) cause n) (stall s cls cause n) :=
    .bump _ _ _ _ (by unfold dkey; omega)
  have hsecond : KeyKept (dkey (0x6400 + cls) (0x10 + cause)) s (bump s (0x6400 + cls) cause n) := .bump _ _ _ _ (by unfold dkey; omega)
  refine ⟨?_, ?_⟩
  · unfold Counted
    rw [hfirst.dnum]
    exact dnum_bump_self ..
  · unfold Counted
    rw [← hsecond.dnum]
    exact dnum_bump_self ..

end Begin

/-- Settles O16: each row by the state of the core's merge plan, of the mover's requests, and of the streams. -/
theorem mergesAndTiles : Obligations.MergesAndTiles := by
  refine ⟨fun s core column => ⟨fun h => ⟨_, rfl, mergeEntry_stopped h⟩, fun h hwait => ⟨_, rfl, ?_⟩,
      fun q uid h l hclock howner hwait hplan => ⟨mergeEntry s core column, rfl, ?_⟩⟩,
    fun l x h => firstReq_first h, fun s core m h => refillFor_outstanding 32 s core m h, fun s core m => ⟨fun h => ⟨_, rfl, ?_⟩, fun x h => ⟨_, rfl, ?_⟩⟩,
    fun s x Q c hQ hc hop hkind hdue hbound => ?_, fun s q cls Q c hQ hc hop hcycle hin hcls => ?_⟩
  · rw [mergeEntry_joins h hwait]
    exact ⟨updCore_onlyCore .., coreAt_updCore_self ..⟩
  · rw [mergeEntry_resumes hclock howner hwait]
    obtain ⟨hw, hp, ho⟩ := mergeResume_core howner hplan
    have heq := mergeResume_eq (s := s) (core := core) (q := q) (uid := uid) hplan
    refine ⟨by rw [heq]; rfl, by rw [heq]; exact counted_bump .., hw, hp, ho, fun Q c hQ hc => ?_⟩
    rw [heq]
    exact cmdAt_updCmd (s := bump s (0x6300 + core) 8 h.2) hQ hc (mergedCmd _ _) fun _ => rfl
  · unfold tileDone
    dsimp only
    rw [h]
  · unfold tileDone
    dsimp only
    rw [h]
  · rw [delivered_move hQ hc hop hkind hdue hbound]
    exact ⟨rfl, cmdAt_updCmd hQ hc _ fun _ => rfl⟩
  · obtain ⟨Q', hQ', hc'⟩ := cmdAt_updCmd (s := s) (q := q) hQ hc
      (fun d => { d with cycle0 := some (max s.now (earliest0 s q c)) }) fun _ => rfl
    refine ⟨⟨Q', (queueAt_of_queues _ _ q (begin0_queues hop hcycle hin)).trans hQ', hc'⟩, fun hearly => ?_, fun hlate => ?_⟩
    · rw [begin0_eq hop hcycle hin, if_pos hearly]
      rfl
    · rw [begin0_eq hop hcycle hin, if_neg (Nat.not_le.2 hlate)]
      obtain ⟨h1, h2⟩ := stall_counts { begun s q c with fresh := s.fresh + 1 } cls (3 + Config.freeNat s.fresh % 2) (s.now - earliest0 s q c)
      exact ⟨_, by omega, h1, h2⟩

end Sys2Proof.Machine

/-! PROOFS. ARRAY: its outcome, its staged features, and the value of a feature. -/

namespace Sys2Proof.Machine

/-! ## What an ARRAY counts -/

theorem lateReads_keyKept {k : Nat} (h : k < 256 * 0x6400) (s : State) (core q cls : Nat) : KeyKept k s (lateReads s core q cls) := by
  unfold lateReads
  extract_lets late cause s1
  have h1 : KeyKept k s s1 := rfl
  exact .ite h1 (h1.trans ((stall_keyKept h ..).trans (trace_keyKept (by omega) ..)))

theorem reedReads_keyKept {k : Nat} (h : k < 256 * 0x6400) (s : State) (q : Nat) (Q : Queue) (c : Cmd) : KeyKept k s (reedReads s q Q c) := by
  unfold reedReads
  extract_lets r x s1
  have h1 : KeyKept k s s1 := .ite (lateReads_keyKept h ..) (.refl s)
  exact .ite (h1.trans (lateReads_keyKept h ..)) h1

theorem countWhole_counted (s : State) (c : Cmd) :
    Counted s (countWhole s c) (0x6300 + c.core) 1 (if aZeroK c.bytes then 0 else aPasses c.bytes * aCols c.bytes) := by
  unfold countWhole
  extract_lets i s1
  have h1 : Counted s s1 (0x6300 + c.core) 1 (if aZeroK c.bytes then 0 else aPasses c.bytes * aCols c.bytes) := by
    unfold Counted
    rw [← dnum_bump_self]
    exact KeyKept.dnum (.bump _ _ _ _ (by unfold dkey; omega))
  have h2 : KeyKept (dkey (0x6300 + c.core) 1) s1 (if c.chained then bump s1 i 10 1 else s1) :=
    .ite (.bump _ _ _ _ (by unfold dkey; omega)) (.refl s1)
  unfold Counted
  rw [h2.dnum]
  exact h1

theorem countRootWait_keyKept {k : Nat} (s : State) (c : Cmd) (h : k ≠ dkey (0x6300 + c.core) 11) : KeyKept k s (countRootWait s c) := by
  unfold countRootWait
  exact .ite (.bump _ _ _ _ h) (.refl s)

/-! ## The bytes of a feature -/

/-- A list made of pieces of one length, piece by piece. -/
theorem flatMap_piece {α : Type} {m : Nat} (f : Nat → List α) (hf : ∀ i, (f i).length = m) (l : List Nat) (n : Nat) (hn : n < l.length) :
    ((l.flatMap f).drop (m * n)).take m = f l[n] := by
  induction l generalizing n with
  | nil => simp at hn
  | cons a l ih =>
    rw [List.flatMap_cons]
    cases n with
    | zero => simp [← hf a]
    | succ n =>
      rw [List.drop_append, hf a, show m * (n + 1) - m = m * n by rw [Nat.mul_succ]; omega,
        List.drop_eq_nil_of_le (by rw [hf a, Nat.mul_succ]; omega), List.nil_append, ih n (by simpa using hn), List.getElem_cons_succ]

/-- The bytes that one token's slot of a feature takes. -/
def tokenOut (a : ArrayIn) (root : Nat → Nat → W32) (d f t : Nat) : List Byte :=
  if tokenLive a.r t then
    if aFp32 a.r then toLe 4 (outputValue a root d f t).toNat
    else [BitVec.ofInt 8 (requantize (outputValue a root d f t) (ringRecip a.J (rRing a.r 43))).code]
  else if aFp32 a.r then zeros 4 else [0]

theorem featureOut_bytes (a : ArrayIn) (root : Nat → Nat → W32) (d f : Nat) :
    (featureOut a root d f).1 = tokens512.flatMap (tokenOut a root d f) := by
  unfold featureOut
  dsimp only
  rw [List.flatMap_map]
  refine List.flatMap_congr fun t _ => ?_
  unfold tokenOut
  cases tokenLive a.r t <;> rfl

theorem length_tokenOut (a : ArrayIn) (root : Nat → Nat → W32) (d f t : Nat) :
    (tokenOut a root d f t).length = if aFp32 a.r then 4 else 1 := by
  unfold tokenOut
  cases aFp32 a.r <;> cases tokenLive a.r t <;> simp [zeros]

section Feature

variable {a : ArrayIn} {root : Nat → Nat → W32} {d f n : Nat}

theorem featureOut_code {r : List Byte} (hr : a.r = r) (hfp : aFp32 r = false) (hn : n < 512) :
    (featureOut a root d f).1[n]? = some (if tokenLive r n then
      BitVec.ofInt 8 (requantize (outputValue a root d f n) (ringRecip a.J (rRing r 43))).code else 0) := by
  subst hr
  have hpiece := flatMap_piece (tokenOut a root d f) (m := 1) (fun t => by rw [length_tokenOut, hfp]; rfl) tokens512 n
    (by simpa [tokens512] using hn)
  rw [Nat.one_mul, show tokens512[n]'(by simpa [tokens512] using hn) = n by simp [tokens512], ← featureOut_bytes] at hpiece
  have hhead := congrArg List.head? hpiece
  rw [List.head?_take, if_neg (by decide), List.head?_drop] at hhead
  rw [hhead]
  unfold tokenOut
  rw [hfp]
  split <;> rfl

theorem featureOut_word {r : List Byte} (hr : a.r = r) (hfp : aFp32 r = true) (hn : n < 512) :
    ((featureOut a root d f).1.drop (4 * n)).take 4
      = if tokenLive r n then toLe 4 (outputValue a root d f n).toNat else zeros 4 := by
  subst hr
  have hpiece := flatMap_piece (tokenOut a root d f) (m := 4) (fun t => by rw [length_tokenOut, hfp]; rfl) tokens512 n
    (by simpa [tokens512] using hn)
  rw [show tokens512[n]'(by simpa [tokens512] using hn) = n by simp [tokens512], ← featureOut_bytes] at hpiece
  rw [hpiece]
  unfold tokenOut
  rw [hfp]
  split <;> rfl

/-- Each feature of a final reduction is staged. -/
theorem arrayOut_mem (outVer carryVer : Nat) (hd : d < aReds a.r) (hfinal : aFinal a.r d = true) (hf : f < aFeat a.r d) :
    (⟨outVer, featBytes a.r * (aBase a.r d + f), (featureOut a root d f).1⟩ : StageWrite) ∈ (arrayOut a root outVer carryVer).1 := by
  unfold arrayOut
  rw [foldl_fst_append (fun acc d => by dsimp only; rw [List.append_assoc])]
  refine List.mem_append_right _ (List.mem_flatMap.2 ⟨d, List.mem_range.2 hd, List.mem_append_right _ ?_⟩)
  rw [if_pos hfinal, List.map_map]
  exact List.mem_map.2 ⟨f, List.mem_range.2 hf, rfl⟩

end Feature

/-! ## The outcome -/

section Array

variable {s : State} {q job : Nat} {Q : Queue} {c : Cmd} {J : Job}

theorem arrayCmd_some (h : arrayCmd s q = some (Q, c, job, J)) : queueAt s q = some Q ∧ c ∈ Q.cmds := by
  unfold arrayCmd at h
  split at h
  · cases h
  · next P hP =>
    split at h
    · cases h
    · next d hd =>
      obtain ⟨j, -, hmap⟩ := Option.bind_eq_some_iff.1 h
      obtain ⟨K, -, heq⟩ := Option.map_eq_some_iff.1 hmap
      cases heq
      exact ⟨hP, (runningCmd_some (Option.filter_eq_some_iff.1 hd).1).1⟩

/-- The state behind an ARRAY's counts, and behind what its core keeps. -/
def arrayCounted (s : State) (c : Cmd) (a : ArrayIn) : State :=
  updCore (countRootWait (countWhole s c) c) c.core fun k =>
    let k' := if (covered c.bytes).isEmpty || aZeroK c.bytes then k else k.readMerge 0 (aPasses c.bytes * aCols c.bytes)
    { (k'.swapped a).resume with
      drainEven := (drained a (k.drainEven, k.drainOdd)).1, drainOdd := (drained a (k.drainEven, k.drainOdd)).2 }

/-- The command behind its ARRAY. -/
def arrayStaged (Q : Queue) (r : List Byte) (a : ArrayIn) (nf : Nat) (obs : List ObsDelta) (root : Nat → Nat → W32) (c : Cmd) : Cmd :=
  { c with
    staged := c.staged ++ (arrayOut a root (hVer Q.part (rH r 24)) (hVer Q.part (rH r 28))).1
    nf := c.nf + nf + ((arrayOut a root (hVer Q.part (rH r 24)) (hVer Q.part (rH r 28))).2.filter fun p => Fp.nonfinite p.1).length
    obs := c.obs ++ obs ++ observeAll (rRing r 43) (arrayOut a root (hVer Q.part (rH r 24)) (hVer Q.part (rH r 28))).2 }

theorem arrayDone_eq (s : State) (q : Nat) (Q : Queue) (c : Cmd) (a : ArrayIn) (nf : Nat) (obs : List ObsDelta) (root : Nat → Nat → W32) :
    arrayDone s q Q c a nf obs root = finish (reedReads (arrayCounted s c a) q Q c) q c.uid (if scalesOk a then 0 else 0x0F01)
      (arrayStaged Q c.bytes a nf obs root) := rfl

/-- What an ARRAY that completes does. -/
theorem arrayDone_done (hQ : queueAt s q = some Q) (hc : c ∈ Q.cmds) (a : ArrayIn) (ha : a.r = c.bytes) (nf : Nat) (obs : List ObsDelta)
    (root : Nat → Nat → W32) :
    let t := arrayDone s q Q c a nf obs root
    Finished t q c.uid (if scalesOk a then 0 else 0x0F01)
      ∧ t = { s with cores := t.cores, queues := t.queues, dict := t.dict, fresh := t.fresh, tel := t.tel, hostOut := t.hostOut }
      ∧ (c.core < 32 → Counted s t (0x6300 + c.core) 1 (if aZeroK c.bytes then 0 else aPasses c.bytes * aCols c.bytes))
      ∧ ∀ d f n, d < aReds c.bytes → aFinal c.bytes d = true → f < aFeat c.bytes d → n < 512 →
          ∃ Q' c' w, queueAt t q = some Q' ∧ cmdAt Q' c.uid = some c' ∧ w ∈ c'.staged
            ∧ w.buf = hVer Q.part (rH c.bytes 24) ∧ w.off = featBytes c.bytes * (aBase c.bytes d + f)
            ∧ (aFp32 c.bytes = false → w.data[n]? = some (if tokenLive c.bytes n then
                BitVec.ofInt 8 (requantize (outputValue a root d f n) (ringRecip a.J (rRing c.bytes 43))).code else 0))
            ∧ (aFp32 c.bytes = true → (w.data.drop (4 * n)).take 4
                = if tokenLive c.bytes n then toLe 4 (outputValue a root d f n).toNat else zeros 4) := by
  intro t
  have hcounted : Only [.cores, .dict] s (arrayCounted s c a) :=
    .mono (by rfl) <| (countWhole_only s c).trans ((countRootWait_only _ c).trans (updCore_only _ c.core _))
  have hreads : Only [.cores, .dict, .fresh, .tel, .hostOut] s (reedReads (arrayCounted s c a) q Q c) :=
    .mono (by rfl) <| hcounted.trans (reedReads_only ..)
  have hdone : t = finish (reedReads (arrayCounted s c a) q Q c) q c.uid (if scalesOk a then 0 else 0x0F01)
      (arrayStaged Q c.bytes a nf obs root) := arrayDone_eq ..
  obtain ⟨c₀, hc₀⟩ := cmdAt_of_mem hc
  obtain ⟨Q', hQ', hc'⟩ := finish_finished (reedReads (arrayCounted s c a) q Q c) q c.uid (if scalesOk a then 0 else 0x0F01)
    (arrayStaged Q c.bytes a nf obs root) Q c₀ (fun _ => rfl) ((hreads.queueAt (by decide) q).trans hQ) hc₀
  rw [← hdone] at hQ'
  refine ⟨⟨Q', _, hQ', hc', rfl⟩, ?_, fun hcore => ?_, fun d f n hd hfinal hf hn => ?_⟩
  · rw [hdone]
    exact (hreads.trans (finish_only _ q c.uid _ _)).eq_overlay
  · have hkept : KeyKept (dkey (0x6300 + c.core) 1) (countWhole s c) t := by
      rw [hdone]
      have hwait : KeyKept (dkey (0x6300 + c.core) 1) (countWhole s c) (arrayCounted s c a) :=
        (countRootWait_keyKept _ c (by unfold dkey; omega)).trans (.of_only (updCore_only ..) (by decide))
      exact (hwait.trans (reedReads_keyKept (by unfold dkey; omega) _ q Q c)).trans (.of_only (finish_only ..) (by decide))
    unfold Counted
    rw [hkept.dnum]
    exact countWhole_counted s c
  · have hmem := arrayOut_mem (root := root) (hVer Q.part (rH c.bytes 24)) (hVer Q.part (rH c.bytes 28)) (ha ▸ hd) (ha ▸ hfinal) (ha ▸ hf)
    generalize hw : (⟨_, _, _⟩ : StageWrite) = w at hmem
    have hdata : w.data = (featureOut a root d f).1 := by rw [← hw]
    refine ⟨Q', _, w, hQ', hc', List.mem_append_right _ hmem, by rw [← hw], by rw [← hw, ha], ?_, ?_⟩
    · rw [hdata]
      exact fun hfp => featureOut_code ha hfp hn
    · rw [hdata]
      exact fun hfp => featureOut_word ha hfp hn

/-! ## What an ARRAY that nothing holds does -/

theorem runArray_held (h : arrayCmd s q = some (Q, c, job, J)) (howner : (coreAt s c.core).mergeOwner ≠ some (q, c.uid)) {x : Nat × Nat}
    {l : List (Nat × Nat)} (hwaits : mergeWaits s c = x :: l) :
    runArray s q = updCore s c.core fun k => { k with mergeWait := some x.1, mergePlan := x :: l, mergeOwner := some (q, c.uid) } := by
  unfold runArray
  rw [h]
  dsimp only
  rw [if_neg howner, hwaits]

theorem runArray_unheld (h : arrayCmd s q = some (Q, c, job, J)) (howner : (coreAt s c.core).mergeOwner ≠ some (q, c.uid))
    (hwaits : mergeWaits s c = []) : runArray s q = runUnheld s q Q c job J := by
  unfold runArray
  rw [h]
  dsimp only
  rw [if_neg howner, hwaits]

theorem runUnheld_overflow {i col : Nat} (h : overflowAt (arrayIn s Q c job J).1 = some (i, col)) :
    runUnheld s q Q c job J = fail (countIssued s c (issueCycle c.bytes c.chained i col + 21)) q c.uid 0x0F02 := by
  unfold runUnheld
  dsimp only
  rw [h]

theorem runUnheld_plain (h : overflowAt (arrayIn s Q c job J).1 = none) (hmany : ¬(aGrouped c.bytes = true ∧ 256 < aRed c.bytes)) :
    runUnheld s q Q c job J = arrayDone s q Q c (arrayIn s Q c job J).1 (arrayIn s Q c job J).2.1 (arrayIn s Q c job J).2.2 fun _ _ => 0 := by
  unfold runUnheld
  dsimp only
  rw [h]
  exact if_neg (by simpa using hmany)

theorem runUnheld_many (h : overflowAt (arrayIn s Q c job J).1 = none) (hmany : aGrouped c.bytes = true ∧ 256 < aRed c.bytes) :
    runUnheld s q Q c job J = if c.sent = false then
        if (sendGroups s c (arrayIn s Q c job J).1).2 ≠ 0 then
          fail (sendGroups s c (arrayIn s Q c job J).1).1 q c.uid (sendGroups s c (arrayIn s Q c job J).1).2
        else updCmd (sendGroups s c (arrayIn s Q c job J).1).1 q c.uid fun d =>
          { d with sent := true, sentAt := (sendGroups s c (arrayIn s Q c job J).1).1.now }
      else if rootsHere s (arrayIn s Q c job J).1 = true then
        arrayDone s q Q c (arrayIn s Q c job J).1 (arrayIn s Q c job J).2.1 (arrayIn s Q c job J).2.2 fun n t =>
          (((rootOf s job (rH c.bytes 28 + n)).getD []).getD t 0).setWidth 32
      else s := by
  unfold runUnheld
  dsimp only
  rw [h]
  dsimp only
  rw [if_pos (by simpa using hmany)]
  simp only [Bool.not_eq_true']

end Array

/-! ## The value of a feature -/

theorem sumOver_eq_sum (n : Nat) (f : Nat → Int) : sumOver n f = ((List.range n).map f).sum := by
  unfold sumOver
  rw [List.sum_eq_foldl, List.foldl_map]

/-- One pass of the drain accumulator. -/
def drainPass (g : Nat → Int) (acc : Int × List Int) (p : Nat) : Int × List Int := (acc.1 + g p, acc.2 ++ [acc.1 + g p])

theorem foldl_drainPass (g : Nat → Int) (l : List Nat) (acc : Int × List Int) (h : acc.2.getLastD 0 = acc.1 ∨ l ≠ []) :
    (l.foldl (drainPass g) acc).2.getLastD 0 = acc.1 + (l.map g).sum := by
  induction l generalizing acc with
  | nil => simpa using h
  | cons p l ih =>
    rw [List.foldl_cons, ih _ (.inl (by simp [drainPass])), List.map_cons, List.sum_cons]
    exact add_assoc ..

/-- The sum that a reduction of at least one pass leaves: what it carries in, and its column sums. -/
theorem runningSums_last (a : ArrayIn) (d f t : Nat) (h : 1 ≤ aRed a.r) :
    (runningSums a d f t).getLastD 0 = (if aCarryIn a.r && d = 0 then signed 64 (leNat (a.carry.read ((f * 512 + t) * 8) 8)) else 0)
      + ((List.range (aRed a.r)).map fun p => columnSum a d p f t).sum :=
  foldl_drainPass (fun p => columnSum a d p f t) (List.range (aRed a.r)) (_, []) (.inr (by simp; omega))

theorem biasAdd_eq (a : ArrayIn) (n : Nat) (y : W32) :
    biasAdd a n y = if rH a.r 32 = 0 then y else Fp.add y (memFp a.bias (4 * n)) := rfl

theorem outputValue_zeroK {a : ArrayIn} (h : aZeroK a.r = true) (root : Nat → Nat → W32) (d f t : Nat) :
    outputValue a root d f t = biasAdd a (aBase a.r d + f) 0 := by
  unfold outputValue scaledSum
  simp only [h, if_true]

theorem outputValue_plain {a : ArrayIn} (hzero : aZeroK a.r = false) (hgrouped : aGrouped a.r = false) (hviews : a.views = [])
    (hred : 1 ≤ aRed a.r) (root : Nat → Nat → W32) (d f t : Nat) :
    outputValue a root d f t = biasAdd a (aBase a.r d + f) (convert (ringScale a.J (rRing a.r 40))
      (weightScale a ((d + 1) * aRed a.r - 1) f)
      ((if aCarryIn a.r && d = 0 then signed 64 (leNat (a.carry.read ((f * 512 + t) * 8) 8)) else 0)
        + ((List.range (aRed a.r)).map fun p => columnSum a d p f t).sum)) := by
  unfold outputValue scaledSum reedMerge
  simp only [hzero, hgrouped, hviews, runningSums_last a d f t hred, Bool.false_eq_true, if_false, List.find?_nil]

/-- Settles O15: what a running ARRAY does by its merge waits, its sums and its groups, and the value of a feature. -/
theorem arrayCompletes : Obligations.ArrayCompletes := by
  refine ⟨fun s q job Q c J h hpoison howner => ?_, fun a root d f t => ?_⟩
  · intro r a ring many done
    obtain ⟨hQ, hc⟩ := arrayCmd_some h
    obtain ⟨c₀, hc₀⟩ := cmdAt_of_mem hc
    have hrun : execArray q s = .next (runArray s q) := by
      unfold execArray
      rw [h]
      exact congrArg Host.Outcome.next (unlessPoisoned_none hpoison _)
    have hdone (root : Nat → Nat → W32) (hroot : runUnheld s q Q c job J
        = arrayDone s q Q c a (arrayIn s Q c job J).2.1 (arrayIn s Q c job J).2.2 root) : done root (runUnheld s q Q c job J) := by
      rw [hroot]
      exact arrayDone_done hQ hc a rfl _ _ root
    refine ⟨fun x l hwaits => ⟨_, hrun, ?_⟩, fun hwaits => ?_⟩
    · rw [runArray_held h howner hwaits]
      exact ⟨updCore_onlyCore .., coreAt_updCore_self ..⟩
    · rw [runArray_unheld h howner hwaits] at hrun
      refine ⟨fun i col hover => ⟨_, hrun, ?_⟩, fun hover => ⟨fun hmany => ⟨_, hrun, hdone _ (runUnheld_plain hover hmany)⟩,
        fun hmany hsent => ⟨fun hst => ⟨_, hrun, ?_⟩, fun hst => ⟨_, hrun, ?_⟩⟩,
        fun hmany hsent hroots => ⟨_, hrun, hdone _ ?_⟩, fun hmany hsent hroots => ⟨_, hrun, ?_⟩⟩⟩
      · rw [runUnheld_overflow hover]
        exact ⟨fail_failed _ q c.uid _ Q c₀ ((queueAt_of_queues _ _ q (countIssued_queues ..)).trans hQ) hc₀, rfl⟩
      · rw [runUnheld_many hover hmany, if_pos hsent, if_pos hst]
      · rw [runUnheld_many hover hmany, if_pos hsent, if_neg (not_not.2 hst)]
        rw [show (sendGroups s c a).1.now = s.now from (sendGroups_only ..).same .now (by decide)]
      · rw [runUnheld_many hover hmany, if_neg (by rw [hsent]; decide), if_pos hroots]
      · rw [runUnheld_many hover hmany, if_neg (by rw [hsent]; decide), if_neg (by rw [hroots]; decide)]
  · refine ⟨fun hzero => ?_, fun hzero hgrouped hviews hred => ?_⟩
    · rw [outputValue_zeroK hzero, biasAdd_eq]
    · rw [outputValue_plain hzero hgrouped hviews hred, biasAdd_eq]
      simp only [convert, columnSum, sumOver_eq_sum, Bool.and_eq_true, decide_eq_true_eq]

end Sys2Proof.Machine

/-! PROOFS. Queue doorbells, and the journal and the replay of inputs. -/

namespace Sys2Proof.Machine

/-! ## What the journal leaves alone -/

section Journal

variable {k : Nat}

theorem putAlarm_keyKept (h : k / 256 ≠ 0x7000) (s : State) (slot : Nat) (r : AlarmRec) : KeyKept k s (putAlarm s slot r) :=
  KeyKept.dset _ _ _ _ (by unfold dkey; omega)

theorem alarm_keyKept (h : k / 256 ≠ 0x7000) (s : State) (slot detail : Nat) : KeyKept k s (alarm s slot detail) := by
  have hnotify (u : State) : KeyKept k u (notifyAll u slot) :=
    KeyKept.trans (t := { u with tel := { u.tel with notifies := u.tel.notifies ++ u.tel.subscribers.map fun n => (n, slot) } }) rfl
      ((putAlarm_keyKept h ..).trans (.bump _ _ _ _ (by unfold dkey; omega)))
  unfold alarm
  extract_lets r t entering r' s1
  have h1 : KeyKept k s s1 := putAlarm_keyKept h ..
  exact .ite (h1.trans (KeyKept.trans (.of_only (msix_only ..) (by decide)) (hnotify _))) h1

theorem journalEmit_keyKept (h : k < 256 * 0x7300) (s : State) (r : List Byte) : KeyKept k s (journalEmit s r) :=
  KeyKept.trans (t := hostWrite s _ r) rfl (.dset _ _ _ _ (by unfold dkey; omega))

theorem journalDrain_keyKept (h : k < 256 * 0x7300) (fuel : Nat) (s : State) : KeyKept k s (journalDrain s fuel) := by
  induction fuel generalizing s with
  | zero => exact .refl s
  | succ n ih =>
    unfold journalDrain
    split
    · exact .refl s
    · next r l _ => exact .ite ((journalEmit_keyKept h { s with tel := { s.tel with journalHeld := l } } r).trans (ih _)) (.refl s)

theorem journalGap_keyKept (h : k < 256 * 0x7000) (s : State) : KeyKept k s (journalGap s) := by
  unfold journalGap
  refine .ite (.refl s) ?_
  extract_lets gap lost tel s1 s2
  have h1 : KeyKept k s s1 := rfl
  have h2 : KeyKept k s1 s2 := ((KeyKept.bump _ _ _ _ (by unfold dkey; omega)).trans (.bump _ _ _ _ (by unfold dkey; omega))).trans
    (.dset _ _ _ _ (by unfold dkey; omega))
  exact (h1.trans h2).trans ((alarm_keyKept (by omega) ..).trans (journalDrain_keyKept (by omega) _ _))

/-- The journal changes the entries of the alarms and of its ring alone. -/
theorem journal_keyKept (h : k < 256 * 0x7000) (s : State) (kind module source value addr : Nat) (carried : List Byte) :
    KeyKept k s (journal s kind module source value addr carried) := by
  unfold journal journalPut
  refine .ite ?_ (.refl s)
  extract_lets s1
  have h1 : KeyKept k s s1 := (journalDrain_keyKept (by omega) _ _).trans (journalGap_keyKept h _)
  exact .ite (h1.trans (journalEmit_keyKept (by omega) _ _)) (.ite h1 h1)

end Journal

/-! ## Replay -/

theorem diverge_counted (s : State) : Counted s (diverge s) 0x6F00 11 1 := by
  unfold diverge
  extract_lets s1
  have h : KeyKept (dkey 0x6F00 11) s1 (if dnum s1 0x6F00 12 = 0 then dset s1 0x6F00 12 s1.now else s1) :=
    .ite (.dset _ _ _ _ (by decide)) (.refl s1)
  unfold Counted
  rw [h.dnum]
  exact dnum_bump_self ..

section Replay

variable {s : State} {j kind source value : Nat} {carried : List Byte} {J : Job} {recs : List (List Byte)}

/-- The job behind a record that has been matched. -/
def pastRecord (J : Job) (recs : List (List Byte)) (r : List Byte) : Job := { J with replay := some (recs.erase r) }

theorem replayInput_unrecorded (hJ : jobAt s j = some J) (hrecs : J.replay = some recs)
    (h : ∀ r ∈ recs, ¬(field r 8 1 = kind ∧ field r 10 2 = source)) : replayInput s j kind source value carried = (diverge s, none) := by
  have hfind : (recs.find? fun r => field r 8 1 = kind && field r 10 2 = source) = none := by
    rw [List.find?_eq_none]
    intro r hr
    simpa using h r hr
  unfold replayInput
  rw [hJ, Option.bind_some, hrecs]
  simp only [Option.map_some, hfind]

/-- The record of a replayed input has been taken. -/
def recordTaken (s : State) (j : Nat) (recs : List (List Byte)) (r : List Byte) : State :=
  updJob s j fun J => { J with replay := some (recs.erase r) }

theorem recordTaken_job (hJ : jobAt s j = some J) (r : List Byte) : jobAt (recordTaken s j recs r) j = some (pastRecord J recs r) := by
  have h := jobAt_updJob s j j fun J => { J with replay := some (recs.erase r) }
  rw [if_pos rfl, hJ] at h
  exact h

theorem replayInput_recorded (hJ : jobAt s j = some J) (hrecs : J.replay = some recs) {r : List Byte}
    (hr : (recs.find? fun r => field r 8 1 = kind && field r 10 2 = source) = some r) :
    replayInput s j kind source value carried =
      if field r 12 4 ≠ value || field r 24 4 ≠ carried.length || field r 28 4 ≠ (if carried.isEmpty then 0 else crc32c carried) then
        (diverge (recordTaken s j recs r), none)
      else match J.launched with
        | none => (recordTaken s j recs r, none)
        | some l => if l + field r 0 8 - recordedLaunch recs < s.now then (diverge (recordTaken s j recs r), none)
          else if s.now < l + field r 0 8 - recordedLaunch recs then
            (recordTaken s j recs r, some (l + field r 0 8 - recordedLaunch recs))
          else (recordTaken s j recs r, none) := by
  unfold replayInput
  rw [hJ, Option.bind_some, hrecs]
  simp only [Option.map_some, hr]
  rfl

end Replay

/-! ## Queue doorbells -/

/-- A queue doorbell has been taken: TAIL alone is new. -/
def TailTaken (s t : State) (q : Nat) (Q : Queue) (tail : Nat) : Prop :=
  queueAt t q = some { Q with tail := tail } ∧ (∀ p, p ≠ q → queueAt t p = queueAt s p) ∧ t.cores = s.cores

section Doorbell

variable {s : State} {fn page q : Nat} {Q : Queue} {word : W64} {sized : Bool}

theorem takeDoorbell_taken (u : State) (hqueues : u.queues = s.queues) (hcores : u.cores = s.cores) (hQ : queueAt s q = some Q) (tail : Nat) :
    TailTaken s (takeDoorbell u q tail) q Q tail ∧ (takeDoorbell u q tail).jobs = u.jobs
      ∧ ∀ k < 256 * 0x7000, KeyKept k u (takeDoorbell u q tail) := by
  have hjournal := journal_only u 1 (moduleOf u q) q tail 0 []
  have hqueue (p : Nat) : queueAt (journal u 1 (moduleOf u q) q tail 0 []) p = queueAt s p :=
    (hjournal.queueAt (by decide) p).trans (queueAt_of_queues _ _ p hqueues)
  unfold takeDoorbell
  refine ⟨⟨?_, fun p hp => ?_, (hjournal.same .cores (by decide)).trans hcores⟩, hjournal.same .jobs (by decide), fun k hk => ?_⟩
  · rw [queueAt_updQueue, if_pos rfl, hqueue, hQ]
    rfl
  · rw [queueAt_updQueue, if_neg hp, hqueue]
  · exact (journal_keyKept hk ..).trans (.of_only (updQueue_only ..) (by decide))

theorem doorbell_paused (h : barsAnswer s = false) : doorbell s fn page word sized = s := by
  unfold doorbell
  rw [if_pos (by rw [h]; rfl)]

theorem doorbell_member (h : barsAnswer s = true) (hpage : 8192 ≤ page) :
    doorbell s fn page word sized = memberDoorbell s fn (page / 8192) := by
  unfold doorbell
  rw [if_neg (by rw [h]; decide), if_pos hpage]

theorem memberDoorbell_not {m : Nat} (h : fn ≠ 0 ∨ usable s fn = false ∨ domainModule s m = none) : memberDoorbell s fn m = s := by
  unfold memberDoorbell
  rcases h with h | h | h
  · rw [if_pos (by simp [h])]
  · rw [if_pos (by simp [h])]
  · rw [h]
    exact ite_self _

theorem memberDoorbell_sent {m dest : Nat} (husable : usable s 0 = true) (hdest : domainModule s m = some dest) :
    let t := memberDoorbell s 0 m
    t = { s with host := t.host, win := t.win } ∧ FMap.getD t.host.proxied m 0 = FMap.getD s.host.proxied m 0 + 1 := by
  unfold memberDoorbell
  rw [if_neg (by simp [husable]), hdest]
  dsimp -zeta only
  rw [sendFlits_eq]
  refine ⟨rfl, ?_⟩
  show FMap.getD (FMap.put 0 s.host.proxied m (FMap.getD s.host.proxied m 0 + 1)) m 0 = _
  rw [FMap.getD_put_self]

theorem doorbell_none (h : barsAnswer s = true) (hpage : page < 8192) (hnone : pageQueue s fn page = none ∨ usable s fn = false) :
    doorbell s fn page word sized = s := by
  unfold doorbell
  rw [if_neg (by rw [h]; decide), if_neg (by omega)]
  split
  · rfl
  · next p P hP =>
    rcases hnone with hnone | hnone
    · rw [hnone] at hP
      cases hP
    · exact if_pos (by rw [hnone]; rfl)

/-- What a doorbell of a usable function on a page of its queue does. -/
theorem doorbell_queue (h : barsAnswer s = true) (hpage : page < 8192) (hpq : pageQueue s fn page = some (q, Q))
    (husable : usable s fn = true) :
    doorbell s fn page word sized = if Q.quarantined then updQueue s q fun Q => { Q with badDoorbells := Q.badDoorbells + 1 }
      else if doorbellOk q Q word.toNat sized = false then
        updQueue s q fun Q => { Q with badDoorbells := Q.badDoorbells + 1, status := 0x0310 }
      else if bits word.toNat 31 0 = Q.tail then s
      else match Q.job with
        | none => takeDoorbell s q (bits word.toNat 31 0)
        | some j =>
          match replayInput s j 1 q (bits word.toNat 31 0) [] with
          | (s, none) => takeDoorbell s q (bits word.toNat 31 0)
          | (s, some due) => holdInput s j due (.doorbell fn page word sized) := by
  unfold doorbell
  rw [if_neg (by rw [h]; decide), if_neg (by omega), hpq]
  dsimp only
  rw [if_neg (by rw [husable]; decide)]
  simp only [Bool.not_eq_true'] <;> rfl

/-- What an accepted doorbell that moves TAIL does, by what the replay of the queue's job decides of it. -/
theorem doorbell_accepted (h : barsAnswer s = true) (hpage : page < 8192) (hpq : pageQueue s fn page = some (q, Q))
    (husable : usable s fn = true) (hquar : Q.quarantined = false) (hok : doorbellOk q Q word.toNat sized = true)
    (htail : bits word.toNat 31 0 ≠ Q.tail) {j : Nat} (hj : Q.job = some j) {s' : State} {due : Option Nat}
    (hreplay : replayInput s j 1 q (bits word.toNat 31 0) [] = (s', due)) :
    doorbell s fn page word sized
      = due.elim (takeDoorbell s' q (bits word.toNat 31 0)) (holdInput s' j · (.doorbell fn page word sized)) := by
  rw [doorbell_queue h hpage hpq husable, if_neg (by rw [hquar]; decide), if_neg (by rw [hok]; decide), if_neg htail]
  simp only [hj, hreplay]
  cases due <;> rfl

theorem doorbell_live (h : barsAnswer s = true) (hpage : page < 8192) (hpq : pageQueue s fn page = some (q, Q))
    (husable : usable s fn = true) (hquar : Q.quarantined = false) (hok : doorbellOk q Q word.toNat sized = true)
    (htail : bits word.toNat 31 0 ≠ Q.tail) (hlive : ∀ j J, Q.job = some j → jobAt s j = some J → J.replay = none) :
    doorbell s fn page word sized = takeDoorbell s q (bits word.toNat 31 0) := by
  cases hj : Q.job with
  | some j => exact doorbell_accepted h hpage hpq husable hquar hok htail hj (replayInput_of_live (hlive j · hj) 1 q _ [])
  | none =>
    rw [doorbell_queue h hpage hpq husable, if_neg (by rw [hquar]; decide), if_neg (by rw [hok]; decide), if_neg htail]
    simp only [hj]

end Doorbell

end Sys2Proof.Machine

/-! PROOFS. The mailbox page: its registers, its doorbell and its responses. -/

namespace Sys2Proof.Machine

theorem mboxAt_updMbox_other (s : State) (fn g : Nat) (f : Mailbox → Mailbox) (h : g ≠ fn) : mboxAt (updMbox s fn f) g = mboxAt s g :=
  FMap.getD_put_other _ _ _ _ _ _ h

/-! ## The page registers -/

theorem pageWrite_not {s : State} {fn : Nat} {page : W64} {vector : BitVec 6} (h : usable s fn = false ∨ barsAnswer s = false) :
    pageWrite s fn page vector = s := by
  unfold pageWrite
  exact if_pos (by rcases h with h | h <;> simp [h])

/-- A mailbox behind a write of MBX_PAGE. -/
def pagedBox (page : W64) (vector : BitVec 6) (m : Mailbox) : Mailbox :=
  { m with
    page := BitVec.ofNat 64 (page.toNat / 4096 * 4096 + page.toNat % 2)
    vector, fresh := true, seq := 0, posted := 0, consumed := 0, inbox := [], respWrite := 0, respRead := 0
    respFrame := 0, respFrames := [] }

theorem pageWrite_written {s : State} {fn : Nat} {page : W64} {vector : BitVec 6} (h : usable s fn = true) (hbars : barsAnswer s = true) :
    pageWrite s fn page vector = updMbox s fn (pagedBox page vector) := by
  unfold pageWrite
  exact if_neg (by simp [h, hbars])

theorem pagedBox_base (page : W64) (vector : BitVec 6) (m : Mailbox) : (pagedBox page vector m).base = page.toNat / 4096 * 4096 := by
  have hlt := page.isLt
  show (BitVec.ofNat 64 _).toNat / 4096 * 4096 = _
  rw [BitVec.toNat_ofNat]
  omega

theorem pagedBox_enabled (page : W64) (vector : BitVec 6) (m : Mailbox) : (pagedBox page vector m).enabled = page.getLsbD 0 := by
  have hlt := page.isLt
  show (BitVec.ofNat 64 _).getLsbD 0 = _
  simp only [BitVec.getLsbD, BitVec.toNat_ofNat, Nat.testBit_zero]
  congr 1
  exact propext ⟨fun h => by omega, fun h => by omega⟩

/-! ## Heads that are refused or served -/

theorem refuseHeads_of_served {s : State} {fn : Nat} (h : 64 ≤ (mboxAt s fn).held.length ∨ ∀ m, (mboxAt s fn).inbox.head? = some m → messageStatus fn m = 0)
    (n : Nat) : refuseHeads s fn n = s := by
  cases n with
  | zero => rfl
  | succ n =>
    rw [refuseHeads]
    split
    · rfl
    · next m hm =>
      have hhead : ¬64 ≤ (mboxAt s fn).held.length ∧ (mboxAt s fn).inbox.head? = some m := by
        unfold headMessage at hm
        dsimp only at hm
        split at hm
        · next hroom =>
          simp only [Bool.and_eq_true, decide_eq_true_eq] at hroom
          exact ⟨by omega, hm⟩
        · cases hm
      rw [(h.resolve_left hhead.1) m hhead.2]
      rfl

/-- One message that stands alone and cannot be taken is answered with its refusal. -/
theorem refuseHeads_of_refused {s : State} {fn : Nat} {m : MboxMsg} (husable : usable s fn = true) (hroom : (mboxAt s fn).held.length < 64)
    (hin : (mboxAt s fn).inbox = [m]) (hst : messageStatus fn m ≠ 0) (n : Nat) :
    refuseHeads s fn (n + 1) = answer (popMessage s fn m) fn m (messageStatus fn m) 0 := by
  have hhead : headMessage s fn = some m := by
    unfold headMessage
    simp [husable, hroom, hin]
  rw [refuseHeads, hhead]
  dsimp only
  split
  · next h => exact absurd h hst
  · refine refuseHeads_of_empty _ _ _ ?_
    obtain ⟨rest, heq⟩ := answer_eq_respond (popMessage s fn m) fn m (messageStatus fn m) 0
    rw [heq, respond, mboxAt_updMbox_self, popMessage, mboxAt_updMbox_self, hin]
    rfl

theorem messageStatus_lt (fn : Nat) (m : MboxMsg) : messageStatus fn m < 2 ^ 16 := by
  unfold messageStatus
  extract_lets op
  repeat' split
  all_goals decide

/-! ## The doorbell -/

/-- The message that an accepted doorbell posts. -/
def postedMsg (s : State) (w : Nat) (message : List Byte) : MboxMsg :=
  { cls := bits w 63 56, seq := bits w 31 0, frames := bits w 55 48, bytes := slice message 0 (64 * bits w 55 48), arrived := s.now }

/-- A mailbox behind a message that has been posted. -/
def postedBox (msg : MboxMsg) (m : Mailbox) : Mailbox :=
  { m with fresh := false, seq := msg.seq, posted := (m.posted + msg.frames) % 2 ^ 32, inbox := m.inbox ++ [msg] }

section Doorbell

variable {s : State} {fn : Nat} {word : W64} {sized : Bool} {message : List Byte}

theorem mailboxDoorbell_not (h : usable s fn = false ∨ barsAnswer s = false ∨ (mboxAt s fn).enabled = false) :
    mailboxDoorbell s fn word sized message = s := by
  unfold mailboxDoorbell
  exact if_pos (by rcases h with h | h | h <;> simp [h])

/-- What a doorbell of an enabled mailbox does. -/
theorem mailboxDoorbell_eq (husable : usable s fn = true) (hbars : barsAnswer s = true) (henabled : (mboxAt s fn).enabled = true) :
    mailboxDoorbell s fn word sized message = if (mboxAt s fn).accepts word.toNat sized = false then
        updMbox s fn fun m => { m with badDoorbells := m.badDoorbells + 1, status := 0x0807 }
      else match replayJob s fn with
        | none => postMessage s fn word.toNat message
        | some j =>
          match replayInput s j 4 fn (field (postedMsg s word.toNat message).bytes 0 1) (postedMsg s word.toNat message).bytes with
          | (s, none) => postMessage s fn word.toNat message
          | (s, some due) => holdInput s j due (.mailboxDoorbell fn word sized message) := by
  unfold mailboxDoorbell
  dsimp only
  rw [if_neg (by simp [husable, hbars, henabled])]
  simp only [Bool.not_eq_true']
  rfl

/-- The state in which a message stands posted. -/
def messagePosted (s : State) (fn w : Nat) (message : List Byte) : State :=
  updMbox (journal s 4 (messageModule s (bits w 63 56) (postedMsg s w message).bytes) fn (field (postedMsg s w message).bytes 0 1) 0
    (postedMsg s w message).bytes) fn (postedBox (postedMsg s w message))

theorem postMessage_eq (w : Nat) : postMessage s fn w message = refuseHeads (messagePosted s fn w message) fn 32 := rfl

theorem messagePosted_box (w : Nat) : mboxAt (messagePosted s fn w message) fn = postedBox (postedMsg s w message) (mboxAt s fn) := by
  unfold messagePosted
  rw [mboxAt_updMbox_self, (journal_only ..).mboxAt (by decide)]

theorem messagePosted_other (w : Nat) {g : Nat} (hg : g ≠ fn) : mboxAt (messagePosted s fn w message) g = mboxAt s g := by
  unfold messagePosted
  rw [mboxAt_updMbox_other _ _ _ _ hg, (journal_only ..).mboxAt (by decide)]

/-- A function stays usable where the dictionary is kept in front of the replay's entries. -/
theorem usable_of_kept {s t : State} (hhost : t.host = s.host) (hpwr : t.pwr = s.pwr) (h : ∀ k < 256 * 0x6F00, KeyKept k s t) (fn : Nat) :
    usable t fn = usable s fn := by
  have hassigned : assigned t fn = assigned s fn := by
    unfold assigned fnPart
    by_cases hfn : fn ≤ 1024
    · rw [(h (dkey (0x40FF + fn) 1) (by unfold dkey; omega)).dnum]
    · simp [hfn]
  unfold usable inReset droneOnly isHold
  rw [hassigned, hhost, hpwr, (h (dkey 0x1200 2) (by decide)).dnum]

theorem messagePosted_usable (w : Nat) : usable (messagePosted s fn w message) fn = usable s fn := by
  have hjournal := journal_only s 4 (messageModule s (bits w 63 56) (postedMsg s w message).bytes) fn
    (field (postedMsg s w message).bytes 0 1) 0 (postedMsg s w message).bytes
  refine usable_of_kept (hjournal.same .host (by decide)) (hjournal.same .pwr (by decide)) (fun k hk => ?_) fn
  exact journal_keyKept (k := k) (by omega) s 4 (messageModule s (bits w 63 56) (postedMsg s w message).bytes) fn
    (field (postedMsg s w message).bytes 0 1) 0 (postedMsg s w message).bytes

/-- A message that the head's request can take, or that waits behind held responses, stands posted. -/
theorem postMessage_served (w : Nat) (h : 64 ≤ (mboxAt s fn).held.length ∨ messageStatus fn ((mboxAt s fn).inbox.headD (postedMsg s w message)) = 0) :
    postMessage s fn w message = messagePosted s fn w message := by
  rw [postMessage_eq]
  refine refuseHeads_of_served ?_ 32
  rw [messagePosted_box]
  refine h.imp id fun hst m hm => ?_
  obtain rfl : (mboxAt s fn).inbox.headD (postedMsg s w message) = m := by
    unfold postedBox at hm
    cases hin : (mboxAt s fn).inbox <;> simp_all
  exact hst

theorem postMessage_answered (w : Nat) (husable : usable s fn = true) (hroom : (mboxAt s fn).held.length < 64) (hin : (mboxAt s fn).inbox = [])
    (hst : messageStatus fn (postedMsg s w message) ≠ 0) :
    Answered s (postMessage s fn w message) fn (postedMsg s w message) (messageStatus fn (postedMsg s w message)) := by
  have hbox := messagePosted_box (s := s) (fn := fn) (message := message) w
  have hinbox : (mboxAt (messagePosted s fn w message) fn).inbox = [postedMsg s w message] := by
    rw [hbox]
    show (mboxAt s fn).inbox ++ [_] = _
    rw [hin, List.nil_append]
  rw [postMessage_eq, refuseHeads_of_refused ((messagePosted_usable w).trans husable) (by rw [hbox]; exact hroom) hinbox hst]
  obtain ⟨⟨hempty, hconsumed⟩, r, hheld, hrest⟩ := answered_answer (messagePosted s fn w message) (popMessage (messagePosted s fn w message) fn
    (postedMsg s w message)) fn (postedMsg s w message) _ 0 hinbox rfl (messageStatus_lt fn _)
  rw [hbox] at hconsumed hheld
  exact ⟨⟨hempty, hconsumed⟩, r, hheld, hrest⟩

theorem refuseHeads_other {g : Nat} (hg : g ≠ fn) (n : Nat) (s : State) : mboxAt (refuseHeads s fn n) g = mboxAt s g := by
  induction n generalizing s with
  | zero => rfl
  | succ n ih =>
    rw [refuseHeads]
    split
    · rfl
    · next m _ =>
      split
      · rfl
      · rw [ih]
        obtain ⟨rest, heq⟩ := answer_eq_respond (popMessage s fn m) fn m (messageStatus fn m) 0
        rw [heq, respond, mboxAt_updMbox_other _ _ _ _ hg, popMessage, mboxAt_updMbox_other _ _ _ _ hg]

theorem postMessage_other (w : Nat) {g : Nat} (hg : g ≠ fn) : mboxAt (postMessage s fn w message) g = mboxAt s g := by
  rw [postMessage_eq, refuseHeads_other hg, messagePosted_other w hg]

end Doorbell

/-! ## Responses -/

section Response

variable {s : State} {fn : Nat} {read : BitVec 32}

/-- A mailbox behind a write of RESP_READ. -/
def readBox (read : BitVec 32) (m : Mailbox) : Mailbox :=
  { m with
    respRead := read.toNat
    respFrames := m.respFrames.drop (m.respFrames.length - (m.respWrite + 2 ^ 32 - read.toNat) % 2 ^ 32) }

theorem responseWrite_not (h : usable s fn = false ∨ barsAnswer s = false) : responseWrite s fn read = s := by
  unfold responseWrite
  exact if_pos (by rcases h with h | h <;> simp [h])

theorem responseWrite_eq (husable : usable s fn = true) (hbars : barsAnswer s = true) :
    responseWrite s fn read = refuseHeads (writeResponses (updMbox s fn (readBox read)) fn 64) fn 32 := by
  unfold responseWrite
  exact if_neg (by simp [husable, hbars])

theorem writeResponses_stays {m : Mailbox} (hm : mboxAt s fn = m)
    (h : m.enabled = false ∨ 16 ≤ m.unread ∨ ∀ r, m.held.head? = some r → 28 < m.respFrames.sum + r.frames) (n : Nat) :
    writeResponses s fn n = s := by
  cases n with
  | zero => rfl
  | succ n =>
    unfold writeResponses
    dsimp only
    split
    · rfl
    · next r l hheld =>
      refine if_neg ?_
      rw [hm] at hheld ⊢
      rcases h with h | h | h
      · simp [h]
      · simp [Nat.not_lt.2 h]
      · simp [Nat.not_le.2 (h r (by rw [hheld]; rfl))]

/-- The bytes of a response's descriptor. -/
def respDesc (s : State) (m : Mailbox) (r : MboxResp) : List Byte :=
  toLe 1 r.cls ++ toLe 1 r.frames ++ toLe 1 m.respFrame ++ toLe 1 (if m.respWrite / 16 % 2 = 0 then 1 else 0) ++ toLe 4 r.seq ++ toLe 8 s.now

/-- A mailbox behind the write of its first held response. -/
def writtenBox (frames : Nat) (m : Mailbox) : Mailbox :=
  { m with
    held := m.held.tail, respWrite := (m.respWrite + 1) % 2 ^ 32, respFrame := (m.respFrame + frames) % 28
    respFrames := m.respFrames ++ [frames] }

/-- The bytes of a response of one frame, and its descriptor, in host memory. -/
def responseStored (s : State) (m : Mailbox) (r : MboxResp) : State :=
  hostWrite (hostWrite s (m.base + 0x800 + 64 * (m.respFrame % 28)) (r.bytes ++ zeros 32)) (m.base + 0xF00 + 16 * (m.respWrite % 16))
    (respDesc s m r)

/-- A response of one frame is written into the next frame, and its descriptor behind it. -/
theorem writeResponse_one {r : MboxResp} (hlen : r.bytes.length = 32) :
    writeResponse s fn r = msix (updMbox (responseStored s (mboxAt s fn) r) fn (writtenBox 1)) fn (mboxAt s fn).vector.toNat := by
  have hframes : r.frames = 1 := by
    unfold MboxResp.frames
    rw [hlen]
    rfl
  have hchunks : chunks 64 (r.bytes ++ zeros (64 * r.frames - r.bytes.length)) = [r.bytes ++ zeros 32] := by
    have hfull : (r.bytes ++ zeros 32).length = 64 := by simp [zeros, hlen]
    unfold chunks
    rw [hframes, hlen, show 64 * 1 - 32 = 32 from rfl, hfull]
    show [((r.bytes ++ zeros 32).drop (64 * 0)).take 64] = _
    rw [Nat.mul_zero, List.drop_zero, List.take_of_length_le hfull.le]
  unfold writeResponse
  dsimp only
  rw [hchunks, hframes]
  unfold responseStored respDesc writtenBox
  rw [hframes]
  rfl

end Response

end Sys2Proof.Machine

/-! PROOFS. The responses of a mailbox page, and the settling of doorbells and mailboxes. -/

namespace Sys2Proof.Machine

section Response

variable {s : State} {fn : Nat}

theorem msix_counted (s : State) (fn v : Nat) :
    FMap.getD (msix s fn v).tel.msix (64 * fn + v) 0 = FMap.getD s.tel.msix (64 * fn + v) 0 + 1 := by
  show FMap.getD (FMap.put 0 s.tel.msix (64 * fn + v) (FMap.getD s.tel.msix (64 * fn + v) 0 + 1)) _ 0 = _
  rw [FMap.getD_put_self]

/-- What the write of a held response of one frame leaves. -/
theorem writeResponse_written {r : MboxResp} (hlen : r.bytes.length = 32) :
    let m := mboxAt s fn
    let t := writeResponse s fn r
    mboxAt t fn = { m with
        held := m.held.tail, respWrite := (m.respWrite + 1) % 2 ^ 32, respFrame := (m.respFrame + 1) % 28, respFrames := m.respFrames ++ [1] }
      ∧ t.hostOut.read (m.base + 0x800 + 64 * (m.respFrame % 28)) 32 = r.bytes
      ∧ t.hostOut.read (m.base + 0xF00 + 16 * (m.respWrite % 16)) 16
        = toLe 1 r.cls ++ [1] ++ toLe 1 m.respFrame ++ (if m.respWrite / 16 % 2 = 0 then [1] else [0]) ++ toLe 4 r.seq ++ toLe 8 s.now
      ∧ FMap.getD t.tel.msix (64 * fn + m.vector.toNat) 0 = FMap.getD s.tel.msix (64 * fn + m.vector.toNat) 0 + 1
      ∧ t.queues = s.queues ∧ t.jobs = s.jobs ∧ t.dict = s.dict ∧ ∀ g, g ≠ fn → mboxAt t g = mboxAt s g := by
  intro m t
  have hframes : r.frames = 1 := by
    unfold MboxResp.frames
    rw [hlen]
    rfl
  have ht := writeResponse_one (s := s) (fn := fn) hlen
  have hdesc : respDesc s m r
      = toLe 1 r.cls ++ [1] ++ toLe 1 m.respFrame ++ (if m.respWrite / 16 % 2 = 0 then [1] else [0]) ++ toLe 4 r.seq ++ toLe 8 s.now := by
    unfold respDesc
    rw [hframes]
    split <;> rfl
  have hlength : (respDesc s m r).length = 16 := by simp [respDesc]
  have hout : t.hostOut = (s.hostOut.write (m.base + 0x800 + 64 * (m.respFrame % 28)) (r.bytes ++ zeros 32)).write
      (m.base + 0xF00 + 16 * (m.respWrite % 16)) (respDesc s m r) := by
    show (writeResponse s fn r).hostOut = _
    rw [ht]
    rfl
  have hmsix (g : Nat) : mboxAt t g = mboxAt (updMbox (responseStored s m r) fn (writtenBox 1)) g := by
    show mboxAt (writeResponse s fn r) g = _
    rw [ht]
    exact (msix_only ..).mboxAt (by decide) g
  refine ⟨?_, ?_, ?_, ?_, by show (writeResponse s fn r).queues = _; rw [ht]; rfl, by show (writeResponse s fn r).jobs = _; rw [ht]; rfl,
    by show (writeResponse s fn r).dict = _; rw [ht]; rfl, fun g hg => ?_⟩
  · rw [hmsix, mboxAt_updMbox_self]
    rfl
  · rw [hout, Mem.read_write_apart _ _ _ _ _ (by omega)]
    have hread := Mem.read_write_within s.hostOut (m.base + 0x800 + 64 * (m.respFrame % 28)) [] r.bytes (zeros 32)
    rw [hlen] at hread
    simpa only [List.nil_append, List.length_nil, Nat.add_zero] using hread
  · have hread := Mem.read_write_same (s.hostOut.write (m.base + 0x800 + 64 * (m.respFrame % 28)) (r.bytes ++ zeros 32))
      (m.base + 0xF00 + 16 * (m.respWrite % 16)) (respDesc s m r)
    rw [hlength] at hread
    rw [hout, ← hdesc, hread]
  · show FMap.getD (writeResponse s fn r).tel.msix _ 0 = _
    rw [ht]
    exact msix_counted ..
  · rw [hmsix, mboxAt_updMbox_other _ _ _ _ hg]
    rfl

/-- A single held response of one frame that fits is written, and no other. -/
theorem writeResponses_one {r : MboxResp} (henabled : (mboxAt s fn).enabled = true) (hheld : (mboxAt s fn).held = [r])
    (hunread : (mboxAt s fn).unread < 16) (hlen : r.bytes.length = 32) (hframes : (mboxAt s fn).respFrames.sum < 28) :
    writeResponses s fn 64 = writeResponse s fn r := by
  have hframe : r.frames = 1 := by
    unfold MboxResp.frames
    rw [hlen]
    rfl
  have hheld' : (mboxAt (writeResponse s fn r) fn).held = [] := by
    rw [(writeResponse_written hlen).1]
    exact congrArg List.tail hheld
  unfold writeResponses
  dsimp only
  rw [hheld]
  dsimp only
  rw [if_pos (by simp [henabled, hunread, hframe]; omega)]
  exact writeResponses_stays rfl (.inr (.inr fun x hx => by rw [hheld'] at hx; cases hx)) 63

end Response

/-- A match of a replayed input leaves the inputs that are held. -/
theorem replayInput_replayHeld (s : State) (j kind source value : Nat) (carried : List Byte) (i : Nat) :
    (jobAt (replayInput s j kind source value carried).1 i).map Job.replayHeld = (jobAt s i).map Job.replayHeld := by
  have hdiverge (u : State) : jobAt (diverge u) i = jobAt u i := (diverge_only u).jobAt (by decide) i
  have htaken (recs : List (List Byte)) (r : List Byte) : (jobAt (recordTaken s j recs r) i).map Job.replayHeld = (jobAt s i).map Job.replayHeld := by
    unfold recordTaken
    rw [jobAt_updJob]
    split
    · rw [Option.map_map]
      rfl
    · rfl
  cases hJ : jobAt s j with
  | none => rw [replayInput_of_live (fun J h => by rw [hJ] at h; cases h)]
  | some J =>
    cases hrecs : J.replay with
    | none => rw [replayInput_of_live (fun K h => by rw [hJ] at h; cases h; exact hrecs)]
    | some recs =>
      cases hfind : recs.find? fun r => field r 8 1 = kind && field r 10 2 = source with
      | none =>
        rw [replayInput_unrecorded hJ hrecs fun r hr => by simpa using List.find?_eq_none.1 hfind r hr]
        exact congrArg (Option.map Job.replayHeld) (hdiverge s)
      | some r =>
        rw [replayInput_recorded hJ hrecs hfind]
        generalize (if carried.isEmpty = true then 0 else crc32c carried) = crc
        split
        · exact (congrArg (Option.map Job.replayHeld) (hdiverge _)).trans (htaken recs r)
        · split
          · exact htaken recs r
          · split
            · exact (congrArg (Option.map Job.replayHeld) (hdiverge _)).trans (htaken recs r)
            · split <;> exact htaken recs r

theorem holdInput_replayHeld (s : State) (j due : Nat) (i : Instr) :
    (jobAt (holdInput s j due i) j).map Job.replayHeld = ((jobAt s j).map Job.replayHeld).map (· ++ [(due, i)]) := by
  unfold holdInput
  rw [jobAt_updJob, if_pos rfl, Option.map_map, Option.map_map]
  rfl

/-- Settles O30: each doorbell, each write of a mailbox register and each response by the checks in front of it. -/
theorem doorbellsAndMailboxes : Obligations.DoorbellsAndMailboxes := by
  refine ⟨fun s₀ fn page word sized => ?_, fun s₀ fn page q Q word sized => ?_, fun s fn page vector => ?_,
    fun s₀ fn word sized message => ?_, fun s fn read => ?_⟩
  · intro s
    refine ⟨fun h => ⟨_, rfl, doorbell_paused h⟩, fun h hpage hnot => ⟨doorbell s fn page word sized, rfl, ?_⟩,
      fun dest h hpage hfn husable hdest => ⟨doorbell s fn page word sized, rfl, ?_⟩, fun h hpage hnone => ⟨_, rfl, doorbell_none h hpage hnone⟩⟩
    · rw [doorbell_member h hpage]
      exact memberDoorbell_not hnot
    · rw [doorbell_member h hpage, hfn]
      exact memberDoorbell_sent husable hdest
  · intro s hbars hpage hpq hQ husable tail ok taken
    have htaken (u : State) (hqueues : u.queues = s.queues) (hcores : u.cores = s.cores) := takeDoorbell_taken u hqueues hcores hQ tail
    refine ⟨fun hquar hok htail => ⟨fun hlive => ⟨doorbell s fn page word sized, rfl, ?_⟩, fun j J recs hj hJ hrecs => ?_⟩,
      fun hquar hok htail => ⟨doorbell s fn page word sized, rfl, ?_⟩, fun hquar hok => ⟨doorbell s fn page word sized, rfl, ?_⟩,
      fun hquar => ⟨doorbell s fn page word sized, rfl, ?_⟩⟩
    · rw [doorbell_live hbars hpage hpq husable hquar hok htail hlive]
      obtain ⟨htook, hjobs, -⟩ := htaken s rfl rfl
      exact ⟨htook, hjobs⟩
    · have haccept {u : State} {due : Option Nat} (h : replayInput s j 1 q tail [] = (u, due)) :=
        doorbell_accepted (sized := sized) hbars hpage hpq husable hquar hok htail hj h
      have hdiverged (u : State) (hqueues : u.queues = s.queues) (hcores : u.cores = s.cores) (hdict : u.dict = s.dict) :
          TailTaken s (takeDoorbell (diverge u) q tail) q Q tail ∧ (takeDoorbell (diverge u) q tail).jobs = u.jobs
            ∧ Counted s (takeDoorbell (diverge u) q tail) 0x6F00 11 1 := by
        obtain ⟨htook, hjobs, hkept⟩ := htaken (diverge u) (((diverge_only u).same .queues (by decide)).trans hqueues)
          (((diverge_only u).same .cores (by decide)).trans hcores)
        refine ⟨htook, hjobs.trans ((diverge_only u).same .jobs (by decide)), ?_⟩
        unfold Counted
        rw [(hkept (dkey 0x6F00 11) (by decide)).dnum, diverge_counted u]
        unfold dnum dget
        rw [hdict]
      refine ⟨fun hnone => ⟨doorbell s fn page word sized, rfl, ?_⟩, fun r hr => ?_⟩
      · rw [haccept (replayInput_unrecorded hJ hrecs hnone)]
        exact hdiverged s rfl rfl rfl
      · intro J'
        have hrecord := replayInput_recorded (value := tail) (carried := []) hJ hrecs hr
        have hjob := recordTaken_job (recs := recs) hJ r
        refine ⟨fun hwrong => ⟨doorbell s fn page word sized, rfl, ?_⟩, fun l hvalue hlen hcrc hlaunched => ?_⟩
        · rw [if_pos (by rcases hwrong with h | h | h <;> simp [h])] at hrecord
          rw [haccept hrecord]
          obtain ⟨htook, hjobs, hcounted⟩ := hdiverged (recordTaken s j recs r) rfl rfl rfl
          exact ⟨htook, by show jobAt (takeDoorbell _ q tail) j = _; unfold jobAt; rw [hjobs]; exact hjob, hcounted⟩
        · intro due
          rw [if_neg (by simp [hvalue, hlen, hcrc]), hlaunched] at hrecord
          dsimp only at hrecord
          refine ⟨fun hlate => ⟨doorbell s fn page word sized, rfl, ?_⟩, fun hon => ⟨doorbell s fn page word sized, rfl, ?_⟩,
            fun hpast => ⟨doorbell s fn page word sized, rfl, ?_⟩⟩
          · rw [if_neg (by omega), if_pos hlate] at hrecord
            rw [haccept hrecord]
            refine ⟨rfl, ?_⟩
            show jobAt (holdInput _ j due _) j = _
            unfold holdInput
            rw [jobAt_updJob, if_pos rfl, hjob]
            rfl
          · rw [if_neg (by omega), if_neg (by omega)] at hrecord
            rw [haccept hrecord]
            obtain ⟨htook, hjobs, -⟩ := htaken (recordTaken s j recs r) rfl rfl
            exact ⟨htook, by show jobAt (takeDoorbell _ q tail) j = _; unfold jobAt; rw [hjobs]; exact hjob⟩
          · rw [if_pos hpast] at hrecord
            rw [haccept hrecord]
            obtain ⟨htook, hjobs, hcounted⟩ := hdiverged (recordTaken s j recs r) rfl rfl rfl
            exact ⟨htook, by show jobAt (takeDoorbell _ q tail) j = _; unfold jobAt; rw [hjobs]; exact hjob, hcounted⟩
    · rw [doorbell_queue hbars hpage hpq husable, if_neg (by rw [hquar]; decide), if_neg (by rw [show doorbellOk _ _ _ _ = true from hok]; decide),
        if_pos htail]
    · rw [doorbell_queue hbars hpage hpq husable, if_neg (by rw [hquar]; decide), if_pos hok]
      refine ⟨rfl, by rw [queueAt_updQueue, if_pos rfl, hQ]; rfl, fun p hp => by rw [queueAt_updQueue, if_neg hp]⟩
    · rw [doorbell_queue hbars hpage hpq husable, if_pos hquar]
      refine ⟨rfl, by rw [queueAt_updQueue, if_pos rfl, hQ]; rfl, fun p hp => by rw [queueAt_updQueue, if_neg hp]⟩
  · refine ⟨fun h => ⟨_, rfl, pageWrite_not h⟩, fun h hbars => ⟨pageWrite s fn page vector, rfl, ?_⟩⟩
    rw [pageWrite_written h hbars]
    beta_reduce
    rw [mboxAt_updMbox_self]
    exact ⟨rfl, pagedBox_base .., pagedBox_enabled .., rfl, rfl, rfl, rfl, rfl, rfl, rfl, fun g hg => mboxAt_updMbox_other _ _ _ _ hg⟩
  · intro s m w msg posted
    refine ⟨fun h => ⟨_, rfl, mailboxDoorbell_not h⟩, fun husable hbars henabled => ?_⟩
    have heq := mailboxDoorbell_eq (sized := sized) (message := message) (word := word) husable hbars henabled
    refine ⟨fun hrefuse => ⟨mailboxDoorbell s fn word sized message, rfl, ?_⟩, fun haccept hjob => ⟨mailboxDoorbell s fn word sized message, rfl, ?_⟩,
      fun j haccept hjob => ?_⟩
    · rw [heq, if_pos hrefuse]
      exact ⟨rfl, mboxAt_updMbox_self .., fun g hg => mboxAt_updMbox_other _ _ _ _ hg⟩
    · rw [heq, if_neg (by rw [show Mailbox.accepts _ _ _ = true from haccept]; decide), hjob]
      refine ⟨fun hserved => ⟨?_, fun hquiet => ?_⟩, fun hroom hin hst => postMessage_answered w husable hroom hin hst,
        fun g hg => postMessage_other w hg⟩
      · rw [postMessage_served w hserved, messagePosted_box]
        rfl
      · rw [postMessage_served w hserved]
        unfold messagePosted journal
        rw [if_neg (by rw [hquiet]; decide)]
        rfl
    · intro r
      rw [if_neg (by rw [show Mailbox.accepts _ _ _ = true from haccept]; decide), hjob] at heq
      have honly := replayInput_only s j 4 fn (field msg.bytes 0 1) msg.bytes
      refine ⟨fun hnone => ⟨mailboxDoorbell s fn word sized message, rfl, fun hserved => ?_⟩,
        fun due hdue => ⟨mailboxDoorbell s fn word sized message, rfl, ?_⟩⟩
      · have hreplay : replayInput s j 4 fn (field (postedMsg s word.toNat message).bytes 0 1) (postedMsg s word.toNat message).bytes = (r.1, none) :=
          Prod.ext rfl hnone
        have hbox : mboxAt r.1 fn = m := honly.mboxAt (by decide) fn
        have hmsg : postedMsg r.1 word.toNat message = msg := by
          unfold postedMsg
          rw [show r.1.now = s.now from honly.same .now (by decide)]
        rw [heq]
        simp only [hreplay]
        rw [postMessage_served word.toNat (by rw [hbox, hmsg]; exact hserved), messagePosted_box, hbox, hmsg]
        rfl
      · have hreplay : replayInput s j 4 fn (field (postedMsg s word.toNat message).bytes 0 1) (postedMsg s word.toNat message).bytes = (r.1, some due) :=
          Prod.ext rfl hdue
        rw [heq]
        simp only [hreplay]
        refine ⟨rfl, honly.same .mbx (by decide), ?_⟩
        rw [holdInput_replayHeld, replayInput_replayHeld, Option.map_map]
        rfl
  · intro m unread frames
    refine ⟨fun h => ⟨_, rfl, responseWrite_not h⟩, fun husable hbars => ?_⟩
    have heq := responseWrite_eq (read := read) husable hbars
    have hbox : mboxAt (updMbox s fn (readBox read)) fn = readBox read m := mboxAt_updMbox_self ..
    refine ⟨fun hin hstays => ⟨responseWrite s fn read, rfl, ?_⟩, fun r henabled hheld hin hlen hunread hframes => ⟨responseWrite s fn read, rfl, ?_⟩⟩
    · rw [heq, writeResponses_stays hbox hstays, refuseHeads_of_empty _ _ _ (by rw [hbox]; exact hin)]
      exact ⟨rfl, hbox, fun g hg => mboxAt_updMbox_other _ _ _ _ hg⟩
    · have hstep : writeResponses (updMbox s fn (readBox read)) fn 64 = writeResponse (updMbox s fn (readBox read)) fn r := by
        refine writeResponses_one (by rw [hbox]; exact henabled) (by rw [hbox]; exact hheld) (by rw [hbox]; exact hunread) hlen ?_
        rw [hbox]
        exact hframes
      obtain ⟨hwritten, hbytes, hdesc, hmsix, hqueues, hjobs, hdict, hothers⟩ :=
        writeResponse_written (s := updMbox s fn (readBox read)) (fn := fn) hlen
      rw [hbox] at hwritten hbytes hdesc hmsix
      rw [heq, hstep, refuseHeads_of_empty _ _ _ (by rw [hwritten]; exact hin)]
      refine ⟨by rw [hwritten]; exact congrArg List.tail hheld, by rw [hwritten]; rfl, by rw [hwritten]; rfl, by rw [hwritten]; rfl, hbytes, hdesc, hmsix,
        hqueues, hjobs, hdict, fun g hg => (hothers g hg).trans (mboxAt_updMbox_other _ _ _ _ hg)⟩

end Sys2Proof.Machine

/-! PROOFS. The public-key engines: what a request leaves, and the end of an operation. -/

namespace Sys2Proof.Machine

/-! ## Requests at an engine -/

section Submit

variable {e : Engine} {now : Nat} {r : EngineReq}

theorem Engine.submit_of_idle (hrun : e.running = none) (hwait : e.waiting = []) (hheld : e.held = []) :
    e.submit now r = { e with running := some (now, r) } := by
  simp [Engine.submit, hrun, hwait, insertReq, Engine.advance, hheld]

theorem Engine.submit_of_later {t : Nat} {x : EngineReq} (hrun : e.running = some (t, x)) (h : t ≠ now ∨ r.before x = false)
    (hroom : e.waiting.length < 64) : e.submit now r = { e with waiting := insertReq r e.waiting } := by
  have hkeep : (decide (t = now) && r.before x) = false := by
    rcases h with h | h <;> simp [h]
  simp [Engine.submit, hrun, hkeep, hroom]

theorem Engine.submit_of_earlier {x : EngineReq} (hrun : e.running = some (now, x)) (h : r.before x = true)
    (hroom : e.waiting.length < 64) :
    e.submit now r = { e with running := some (now, r), waiting := insertReq x e.waiting } := by
  simp [Engine.submit, hrun, h, hroom]

theorem Engine.submit_of_full {p : Nat × EngineReq} (hrun : e.running = some p) (hfull : 64 ≤ e.waiting.length) :
    e.submit now r = { e with held := e.held ++ [r] } := by
  simp [Engine.submit, hrun, Nat.not_lt.mpr hfull]

theorem Engine.advance_running_none (hrun : e.running = none) (hwait : e.waiting = []) : (e.advance now).running = none := by
  simp [Engine.advance, hrun, hwait]

theorem Engine.advance_running_some {x : EngineReq} {l : List EngineReq} (hrun : e.running = none) (hwait : e.waiting = x :: l) :
    (e.advance now).running = some (now, x) := by
  simp only [Engine.advance, hrun, hwait]
  split <;> rfl

theorem Engine.advance_last : (e.advance now).last = e.last := by
  unfold Engine.advance
  split
  · dsimp only
    split <;> rfl
  · rfl

end Submit

@[simp] theorem engineAt_updEngine_self (s : State) (hub : Hub) (f : Engine → Engine) :
    engineAt (updEngine s hub f) hub = f (engineAt s hub) := by cases hub <;> rfl

theorem engineAt_updEngine_other (s : State) {hub g : Hub} (f : Engine → Engine) (h : g ≠ hub) :
    engineAt (updEngine s hub f) g = engineAt s g := by
  cases hub <;> cases g <;> trivial

theorem submitEngine_alone (s : State) (hub : Hub) (op : EngineOp) (src : EngineSource) (use : EngineUse) :
    let t := submitEngine s hub op src use
    t = { s with sec := t.sec } ∧ ∀ g, g ≠ hub → engineAt t g = engineAt s g :=
  ⟨(submitEngine_only s hub op src use).eq_overlay, fun _ hg => engineAt_updEngine_other s _ hg⟩

theorem engineAt_submitEngine (s : State) (hub : Hub) (op : EngineOp) (src : EngineSource) (use : EngineUse) :
    engineAt (submitEngine s hub op src use) hub = (engineAt s hub).submit s.now { op, src, arrived := s.now, use } :=
  engineAt_updEngine_self ..

/-! ## The end of an operation -/

theorem engineDone_of_idle {s : State} {hub : Hub} (h : (engineAt s hub).running = none) : engineDone s hub = s := by
  simp [engineDone, engineEnd, h]

/-- An operation whose answer nobody uses ends with `engineEnd` alone. -/
theorem engineDone_of_none {s : State} {hub : Hub} {t : Nat} {r : EngineReq} (h : (engineAt s hub).running = some (t, r))
    (hu : r.use = .none) : engineDone s hub = (engineEnd s hub).1 := by
  simp [engineDone, engineEnd, h, useResult, hu]

/-- The sub-index of 0x8200 that counts a hub's operations. -/
def engineSub (hub : Hub) : Nat := match hub with | .east => 1 | .west => 2

section End

variable {s : State} {hub : Hub} {t0 : Nat} {r : EngineReq}

/-- The state of an operation's end before the next request starts. -/
def engineCounted (s : State) (hub : Hub) (t0 : Nat) (r : EngineReq) : State :=
  let s := { s with now := max s.now (t0 + engineBeats) }
  let o := engineRun (engineAt s hub).healthy r.op (random512 s)
  let s := if r.op = .keygen then drawn s 64 else s
  let s := bump s 0x8200 (engineSub hub) 1
  if 0x0701 ≤ o.status && o.status ≤ 0x0703 then bump s 0x8200 3 1 else s

theorem engineEnd_of_running (h : (engineAt s hub).running = some (t0, r)) :
    (engineEnd s hub).1 = updEngine (engineCounted s hub t0 r) hub fun e =>
      ({ e with running := none, last := some (engineRun (engineAt s hub).healthy r.op (random512 s)) } : Engine).advance
        (engineCounted s hub t0 r).now := by
  simp only [engineEnd, h]
  rfl

theorem engineCounted_now : (engineCounted s hub t0 r).now = max s.now (t0 + 1200000) := by
  unfold engineCounted
  dsimp only
  split <;> split <;> rfl

theorem engineCounted_engineAt : engineAt (engineCounted s hub t0 r) hub = engineAt s hub := by
  unfold engineCounted
  dsimp only
  split <;> split <;> rfl

theorem engineCounted_counted : Counted s (engineCounted s hub t0 r) 0x8200 (engineSub hub) 1 := by
  have hdraw (u : State) : dnum (if r.op = .keygen then drawn u 64 else u) 0x8200 (engineSub hub) = dnum u 0x8200 (engineSub hub) := by
    split <;> rfl
  have hfail (u : State) (c : Prop) [Decidable c] : KeyKept (dkey 0x8200 (engineSub hub)) u (if c then bump u 0x8200 3 1 else u) :=
    .ite (.bump _ _ _ _ (by cases hub <;> decide)) (.refl _)
  unfold engineCounted Counted
  dsimp only
  rw [(hfail _ _).dnum, dnum_bump_self, hdraw]
  rfl

end End

/-- Settles O39. A request starts, waits or is held as `Engine.submit` places it; the end of an operation is `engineEnd`,
which counts it and starts the next one. -/
theorem engineOperations : Obligations.EngineOperations := by
  refine ⟨fun s hub src d r sg h key c hc => ?_, fun s hub hidle => ⟨_, rfl, engineDone_of_idle hidle⟩,
    fun s hub t0 r hrun huse => ?_⟩
  · have hrun : exec c.1 s = .next (submitEngine s hub c.2 src .none) := by
      simp only [List.mem_cons, List.not_mem_nil, or_false] at hc
      rcases hc with rfl | rfl | rfl | rfl | rfl <;> rfl
    have halone := submitEngine_alone s hub c.2 src .none
    have hat := engineAt_submitEngine s hub c.2 src .none
    exact ⟨⟨_, hrun, halone⟩, fun hr hw hh => ⟨_, hrun, halone, hat.trans (Engine.submit_of_idle hr hw hh)⟩,
      fun t0 x hr ho hl => ⟨_, hrun, halone, hat.trans (Engine.submit_of_later hr ho hl)⟩,
      fun x hr hb hl => ⟨_, hrun, halone, hat.trans (Engine.submit_of_earlier hr hb hl)⟩,
      fun p hr hl => ⟨_, hrun, halone, hat.trans (Engine.submit_of_full hr hl)⟩⟩
  · refine ⟨engineDone s hub, rfl, ?_⟩
    rw [engineDone_of_none hrun huse]
    have heq := engineEnd_of_running hrun
    have hnow : (engineEnd s hub).1.now = (engineCounted s hub t0 r).now := by
      rw [heq]
      exact (updEngine_only ..).same .now (by decide)
    have hat := congrArg (engineAt · hub) heq
    simp only [engineAt_updEngine_self, engineCounted_engineAt] at hat
    refine ⟨hnow.trans engineCounted_now, ?_, ?_, fun hw => ?_, fun x l hw => ?_, (engineEnd_only s hub).eq_overlay⟩
    · rw [heq]
      exact ((updEngine_only ..).dnum (by decide) 0x8200 (engineSub hub)).trans engineCounted_counted
    · rw [hat, Engine.advance_last]
    · rw [hat]
      exact Engine.advance_running_none rfl hw
    · rw [hat, hnow]
      exact Engine.advance_running_some rfl hw

end Sys2Proof.Machine

/-! PROOFS. Alarms: what raises one, what leaves one as it stands. Entries and alarms that the end of everything in progress
leaves (R372, R390). -/

namespace Sys2Proof.Machine

/-! ## Alarms that stand -/

theorem FMap.mem_of_get? {α : Type} {m : FMap α} {k : Nat} {v : α} (h : FMap.get? m k = some v) : (k, v) ∈ m := by
  induction m with
  | nil => simp at h
  | cons e m ih =>
    obtain ⟨j, w⟩ := e
    unfold FMap.get? at h
    split at h
    · next hj =>
      obtain rfl := Option.some.inj h
      exact hj ▸ List.mem_cons_self
    · exact List.mem_cons_of_mem _ (ih h)

/-- The record of alarm slot `k` stands in `t` as in `s`, and ALERT# stays low where the alarm holds it low. -/
structure AlarmStays (k : Nat) (s t : State) : Prop where
  record : alarmAt t k = alarmAt s k
  low : (alarmAt s k).state = 1 → s.pins.alertN = false → t.pins.alertN = false

namespace AlarmStays

variable {k : Nat} {s t u : State}

theorem of_same (ha : t.tel.alarms = s.tel.alarms) (hp : t.pins.alertN = s.pins.alertN) : AlarmStays k s t :=
  ⟨by unfold alarmAt; rw [ha], fun _ h => hp.trans h⟩

theorem refl (s : State) : AlarmStays k s s := of_same rfl rfl

theorem trans (h : AlarmStays k s t) (g : AlarmStays k t u) : AlarmStays k s u :=
  ⟨g.record.trans h.record, fun h1 h2 => g.low (by rw [h.record]; exact h1) (h.low h1 h2)⟩

theorem of_only {F : List StateField} (h : Only F s t) (ht : .tel ∉ F) (hp : .pins ∉ F) : AlarmStays k s t :=
  of_same (congrArg Telemetry.alarms (h.same .tel ht)) (congrArg Pins.alertN (h.same .pins hp))

theorem ite {c : Prop} [Decidable c] (h : AlarmStays k s t) (g : AlarmStays k s u) : AlarmStays k s (if c then t else u) := by
  split <;> assumption

theorem foldl {α : Type} {f : State → α → State} (h : ∀ s a, AlarmStays k s (f s a)) (l : List α) (s : State) :
    AlarmStays k s (l.foldl f s) := by
  induction l generalizing s with
  | nil => exact .refl s
  | cons a l ih => exact (h s a).trans (ih _)

end AlarmStays

theorem Raised.stays {k : Nat} {s t u : State} (h : Raised s t k) (g : AlarmStays k t u) : Raised s u k := by
  obtain ⟨hstate, hcount, halert⟩ := h
  exact ⟨by rw [g.record]; exact hstate, by rw [g.record]; exact hcount, g.low hstate halert⟩

theorem AlarmStays.raised {k : Nat} {s t u : State} (h : AlarmStays k s t) (g : Raised t u k) : Raised s u k := by
  obtain ⟨hstate, hcount, halert⟩ := g
  exact ⟨hstate, by rw [← h.record]; exact hcount, halert⟩

/-! ## An alarm is raised (R426) -/

theorem alarmAt_putAlarm_self (s : State) (slot : Nat) (r : AlarmRec) : alarmAt (putAlarm s slot r) slot = r :=
  FMap.getD_put_self ..

theorem alarmAt_putAlarm_other (s : State) {slot k : Nat} (r : AlarmRec) (h : k ≠ slot) :
    alarmAt (putAlarm s slot r) k = alarmAt s k :=
  FMap.getD_put_other _ _ _ _ _ _ h

/-- ALERT# is low while some alarm is active. -/
theorem putAlarm_low {s : State} {slot k : Nat} {r : AlarmRec} (h : (alarmAt (putAlarm s slot r) k).state = 1) :
    (putAlarm s slot r).pins.alertN = false := by
  have hget : ∃ x, FMap.get? (FMap.put {} s.tel.alarms slot r) k = some x ∧ x.state = 1 := by
    have hx : ((FMap.get? (FMap.put {} s.tel.alarms slot r) k).getD {}).state = 1 := h
    cases hg : FMap.get? (FMap.put {} s.tel.alarms slot r) k with
    | none => simp [hg] at hx
    | some x => exact ⟨x, rfl, by simpa [hg] using hx⟩
  obtain ⟨x, hx, hactive⟩ := hget
  have hmem : (k, x) ∈ (FMap.put {} s.tel.alarms slot r).filter fun e => e.2.state = 1 :=
    List.mem_filter.mpr ⟨FMap.mem_of_get? hx, by simp [hactive]⟩
  exact decide_eq_false (Nat.ne_of_gt (List.length_pos_of_mem hmem))

theorem putAlarm_stays {s : State} {slot k : Nat} (r : AlarmRec) (h : k ≠ slot) : AlarmStays k s (putAlarm s slot r) :=
  ⟨alarmAt_putAlarm_other s r h, fun ha _ => putAlarm_low (k := k) (by rw [alarmAt_putAlarm_other s r h]; exact ha)⟩

theorem notifyAll_record (s : State) (slot : Nat) :
    (alarmAt (notifyAll s slot) slot).state = (alarmAt s slot).state ∧ (alarmAt (notifyAll s slot) slot).count = (alarmAt s slot).count := by
  have h : alarmAt (notifyAll s slot) slot
      = { alarmAt s slot with notifiedAt := s.now, notifiedCount := (alarmAt s slot).count } := alarmAt_putAlarm_self ..
  rw [h]
  exact ⟨rfl, rfl⟩

theorem notifyAll_low {s : State} {slot k : Nat} (h : (alarmAt (notifyAll s slot) k).state = 1) : (notifyAll s slot).pins.alertN = false :=
  putAlarm_low (k := k) h

theorem notifyAll_stays {s : State} {slot k : Nat} (h : k ≠ slot) : AlarmStays k s (notifyAll s slot) :=
  AlarmStays.trans (t := { s with tel := { s.tel with notifies := s.tel.notifies ++ s.tel.subscribers.map fun n => (n, slot) } })
    (.of_same rfl rfl) ((putAlarm_stays _ h).trans (.of_only (bump_only ..) (by decide) (by decide)))

theorem msix_stays (k : Nat) (s : State) (fn v : Nat) : AlarmStays k s (msix s fn v) := .of_same rfl rfl

theorem alarm_stays {slot k : Nat} (h : k ≠ slot) (s : State) (detail : Nat) : AlarmStays k s (alarm s slot detail) := by
  unfold alarm
  extract_lets r t entering r' s1
  have h1 : AlarmStays k s s1 := putAlarm_stays _ h
  exact .ite (h1.trans ((msix_stays ..).trans (notifyAll_stays h))) h1

theorem alarm_raised (s : State) (slot detail : Nat) : Raised s (alarm s slot detail) slot := by
  unfold alarm
  extract_lets r t entering r' s1
  have hrec : alarmAt s1 slot = r' := alarmAt_putAlarm_self ..
  have h1 : Raised s s1 slot :=
    ⟨by rw [hrec], by rw [hrec], putAlarm_low (k := slot) (by show (alarmAt s1 slot).state = 1; rw [hrec])⟩
  split
  · have hm := h1.stays (msix_stays slot s1 0 0)
    obtain ⟨hstate, hcount, _⟩ := hm
    obtain ⟨hs, hc⟩ := notifyAll_record (msix s1 0 0) slot
    exact ⟨hs.trans hstate, hc.trans hcount, notifyAll_low (k := slot) (hs.trans hstate)⟩
  · exact h1

theorem logRecord_stays (k : Nat) (s : State) (severity code unit source : Nat) :
    AlarmStays k s (logRecord s severity code unit source) := by
  unfold logRecord
  extract_lets seq dropped params r src s1 s2
  have h2 : AlarmStays k s s2 :=
    .ite (AlarmStays.trans (t := s1) (.of_same rfl rfl) (.of_only (bump_only ..) (by decide) (by decide))) (.of_same rfl rfl)
  exact .ite (.refl s) (h2.trans (.of_only (bump_only ..) (by decide) (by decide)))

theorem detectLog_stays (k : Nat) (s : State) (code unit source : Nat) : AlarmStays k s (detectLog s code unit source) :=
  AlarmStays.trans (t := { s with fresh := s.fresh + 1 }) (.of_same rfl rfl) (logRecord_stays ..)

theorem alarmLog_stays {slot k : Nat} (h : k ≠ slot) (s : State) (detail source : Nat) :
    AlarmStays k s (alarmLog s slot detail source) := (alarm_stays h s detail).trans (detectLog_stays ..)

theorem alarmLog_raised (s : State) (slot detail source : Nat) : Raised s (alarmLog s slot detail source) slot :=
  (alarm_raised s slot detail).stays (detectLog_stays ..)

theorem logRecord_keyKept {k : Nat} (h : k / 256 ≠ 0x7100) (s : State) (severity code unit source : Nat) :
    KeyKept k s (logRecord s severity code unit source) := by
  unfold logRecord
  extract_lets seq dropped params r src s1 s2
  have h2 : KeyKept k s s2 := .ite (KeyKept.trans (t := s1) rfl (.bump _ _ _ _ (by unfold dkey; omega))) rfl
  exact .ite (.refl s) (h2.trans (.bump _ _ _ _ (by unfold dkey; omega)))

theorem detectLog_keyKept {k : Nat} (h : k / 256 ≠ 0x7100) (s : State) (code unit source : Nat) :
    KeyKept k s (detectLog s code unit source) :=
  KeyKept.trans (t := { s with fresh := s.fresh + 1 }) rfl (logRecord_keyKept h ..)

theorem alarmLog_keyKept {k : Nat} (h : k / 256 ≠ 0x7000) (h' : k / 256 ≠ 0x7100) (s : State) (slot detail source : Nat) :
    KeyKept k s (alarmLog s slot detail source) := (alarm_keyKept h s slot detail).trans (detectLog_keyKept h' ..)

/-! ## Alarms and the failures of commands -/

section Stays

variable {k : Nat}

theorem traceEmit_stays (s : State) (r : TraceRec) : AlarmStays k s (traceEmit s r) := .of_same rfl rfl

theorem traceDrain_stays (fuel : Nat) (s : State) : AlarmStays k s (traceDrain s fuel) := by
  induction fuel generalizing s with
  | zero => exact .refl s
  | succ n ih =>
    unfold traceDrain
    split
    · exact .refl s
    · next r t _ =>
      exact .ite (.refl s) (AlarmStays.trans (t := { s with tel := { s.tel with traceHeld := t } }) (.of_same rfl rfl)
        ((traceEmit_stays _ r).trans (ih _)))

theorem trace_stays (s : State) (kind source queue arg0 arg1 arg2 : Nat) : AlarmStays k s (trace s kind source queue arg0 arg1 arg2) := by
  unfold trace
  extract_lets r src gap s'
  have hgap : AlarmStays k s s' := .of_same rfl rfl
  refine .ite (.refl s) (.ite (traceEmit_stays s r) (.ite (.of_same rfl rfl) (.ite ?_ (.of_same rfl rfl))))
  exact hgap.trans ((AlarmStays.of_only ((bump_only ..).trans (bump_only ..)) (by decide) (by decide)).trans (traceDrain_stays ..))

theorem endStall_stays (s : State) (q fn : Nat) (c : Cmd) : AlarmStays k s (endStall s q fn c) := by
  unfold endStall
  extract_lets cls cause beats s1 s2
  have h2 : AlarmStays k s s2 := .trans (.of_only (stall_only s _ _ _) (by decide) (by decide)) (trace_stays ..)
  exact .ite (.refl s) (.ite (h2.trans (.of_only (missRecord_only ..) (by decide) (by decide))) h2)

theorem putCompletion_stays (s : State) (q : Nat) (c : Cmd) (st : Status) : AlarmStays k s (putCompletion s q c st) := by
  unfold putCompletion
  split
  · exact .refl s
  · extract_lets addr bs s1 s2
    have h1 : AlarmStays k s s1 :=
      .ite (.of_only (hbmWrite_only ..) (by decide) (by decide)) (.of_only (hostWrite_only ..) (by decide) (by decide))
    have h2 : AlarmStays k s s2 := h1.trans (.of_only (updQueue_only ..) (by decide) (by decide))
    exact .ite (h2.trans (msix_stays ..)) h2

/-- A failure raises no alarm. -/
theorem failCmd_stays (s : State) (q uid : Nat) (st : Status) (stops : Bool) : AlarmStays k s (failCmd s q uid st stops) := by
  unfold failCmd
  split
  · exact .refl s
  · next c _ =>
    extract_lets s1 s2 s3 s4 s5
    have h1 : AlarmStays k s s1 := .trans
      (.of_only ((leaveEngines_only s q uid).trans ((discardArray_only _ q c).trans (withdraw_only _ q uid))) (by decide) (by decide))
      (endStall_stays ..)
    have h2 : AlarmStays k s s2 := .ite (h1.trans (.of_only (countIssued_only ..) (by decide) (by decide))) h1
    have h4 : AlarmStays k s s4 := (h2.trans (.of_only (updCmd_only ..) (by decide) (by decide))).trans (putCompletion_stays ..)
    have h5 : AlarmStays k s s5 := .ite (h4.trans (.of_only (offence_only ..) (by decide) (by decide))) h4
    exact .trans (.ite (h5.trans (.of_only (stopQueue_only ..) (by decide) (by decide))) h5)
      (.of_only (releaseHeld_only _) (by decide) (by decide))

theorem failIncoming_stays (s : State) (part : Nat) (st : Status) : AlarmStays k s (failIncoming s part st) := by
  unfold failIncoming
  refine .foldl (fun t e => ?_) _ _
  split
  · exact .refl t
  · split
    · exact .refl t
    · exact failCmd_stays ..

end Stays

/-! ## The end of everything in progress -/

theorem abandonBase_stays {k : Nat} (s : State) (part : Nat) : AlarmStays k s (abandonBase s part) := by
  unfold abandonBase
  split
  · exact .refl s
  · next b _ =>
    extract_lets s1 src s2 s3 s4 s5
    have h2 : AlarmStays k s s2 := .trans (t := s1) (.of_only (updPart_only ..) (by decide) (by decide)) (.of_same rfl rfl)
    have h3 (u : State) (h : AlarmStays k s u) : AlarmStays k s
        (bumpBaseGen (failIncoming (updPart (noBase u part 4) part fun p => { p with brokenStatus := 0x0B04 }) part 0x0B04) part) :=
      ((h.trans (.of_only ((noBase_only u part 4).trans (updPart_only ..)) (by decide) (by decide))).trans (failIncoming_stays ..)).trans
        (.of_only (bumpBaseGen_only ..) (by decide) (by decide))
    have h5 : AlarmStays k s s5 := .ite h2 (h3 _ (.ite
      (h2.trans (.of_only (breakBase_only ..) (by decide) (by decide))) (h2.trans (.of_only (chargeBase_only ..) (by decide) (by decide)))))
    exact .ite h5 (h5.trans (.of_only (respond_only ..) (by decide) (by decide)))

section Start

variable {k : Nat} (h : k < 256 * 0x4000) (hsub : k % 256 < 3 ∨ 5 < k % 256)

include h

theorem placementDone_keyKept (s : State) (part : Nat) (r : PlaceReq) (st : Status) (done : Nat) :
    KeyKept k s (placementDone s part r st done) :=
  (KeyKept.dset _ _ _ _ (by unfold dkey; omega)).trans (.of_only (respond_only ..) (by decide))

theorem endRequests_keyKept (s : State) (part key : Nat) : KeyKept k s (endRequests s part key) := by
  unfold endRequests
  split
  · exact .refl s
  · exact (KeyKept.foldl (fun t r => placementDone_keyKept h t part r 0x0212 t.now) _ s).trans rfl

theorem chargeBase_keyKept (s : State) (part add sub : Nat) : KeyKept k s (chargeBase s part add sub) :=
  .dset _ _ _ _ (by unfold dkey; omega)

theorem noBase_keyKept (s : State) (part st : Nat) : KeyKept k s (noBase s part st) := by
  unfold noBase
  extract_lets s1 s2
  have h1 : KeyKept k s s1 := .dset _ _ _ _ (by unfold dkey; omega)
  have h2 : KeyKept k s s2 := h1.trans
    (KeyKept.trans (dget_dput_other _ _ _ _ (by unfold dkey; omega)) (dget_dput_other _ _ _ _ (by unfold dkey; omega)))
  exact h2.trans ((KeyKept.dset _ _ _ _ (by unfold dkey; omega)).trans (.dset _ _ _ _ (by unfold dkey; omega)))

include hsub

theorem freeBuf_keyKept (s : State) (key : Nat) : KeyKept k s (freeBuf s key) := by
  unfold freeBuf
  split
  · exact .refl s
  · next b _ =>
    extract_lets ver held s1 src s2
    have h2 : KeyKept k s s2 := (endRequests_keyKept h ..).trans rfl
    exact .ite
      (KeyKept.trans h2 ((moveTiered_only { s2 with bufs := FMap.set s2.bufs (heldKey ver) { b with freed := true } } key (heldKey ver)).dget
        (by decide) k))
      (h2.trans (returnStorage_keyKept hsub ..))

theorem freeBase_keyKept (s : State) (part : Nat) : KeyKept k s (freeBase s part) := by
  unfold freeBase
  exact ((KeyKept.foldl (fun t x => freeBuf_keyKept h hsub t _) _ s).trans (chargeBase_keyKept h ..)).trans
    (.of_only (updPart_only ..) (by decide))

theorem failIncoming_keyKept (s : State) (part : Nat) (st : Status) : KeyKept k s (failIncoming s part st) := by
  unfold failIncoming
  refine .foldl (fun t e => ?_) _ _
  split
  · exact .refl t
  · split
    · exact .refl t
    · exact failCmd_keyKept (by omega) hsub ..

theorem abandonBase_keyKept (s : State) (part : Nat) : KeyKept k s (abandonBase s part) := by
  unfold abandonBase
  split
  · exact .refl s
  · next b _ =>
    extract_lets s1 src s2 s3 s4 s5
    have h2 : KeyKept k s s2 := .trans (t := s1) (.of_only (updPart_only ..) (by decide)) rfl
    have h3 (u : State) (hu : KeyKept k s u) : KeyKept k s
        (bumpBaseGen (failIncoming (updPart (noBase u part 4) part fun p => { p with brokenStatus := 0x0B04 }) part 0x0B04) part) :=
      (((hu.trans (noBase_keyKept h ..)).trans (.of_only (updPart_only ..) (by decide))).trans (failIncoming_keyKept h hsub ..)).trans
        (KeyKept.trans (.dset _ (0x4E00 + part) 5 _ (by unfold dkey; omega)) rfl)
    have h5 : KeyKept k s s5 := .ite h2 (h3 _ (.ite
      ((h2.trans (.of_only (turnLayer_only ..) (by decide))).trans (freeBase_keyKept h hsub ..)) (h2.trans (chargeBase_keyKept h ..))))
    exact .ite h5 (h5.trans (.of_only (respond_only ..) (by decide)))

theorem clearRuntime_keyKept (s : State) : KeyKept k s (clearRuntime s) :=
  (KeyKept.foldl (fun t p => abandonBase_keyKept h hsub t p) _ s).trans rfl

end Start

theorem clearRuntime_stays {k : Nat} (s : State) : AlarmStays k s (clearRuntime s) :=
  (AlarmStays.foldl (fun t p => abandonBase_stays t p) _ s).trans (.of_same rfl rfl)

end Sys2Proof.Machine

/-! PROOFS. Power inputs and rails, and the die temperature (R372, R383, R460, R461). -/

namespace Sys2Proof.Machine

/-! ## A start begins -/

section Start

variable (s : State) (cold : Bool)

theorem beginStart_queues : (beginStart s cold).queues = [] := rfl

theorem beginStart_pwr : (beginStart s cold).pwr = s.pwr := (beginStart_only s cold).same .pwr (by decide)

theorem beginStart_drone : (beginStart s cold).drone = s.drone := (beginStart_only s cold).same .drone (by decide)

theorem beginStart_pwrGood : (beginStart s cold).pins.pwrGood = s.pins.pwrGood := by
  have hpins : (clearRuntime s).pins = s.pins := (clearRuntime_only s).same .pins (by decide)
  exact (congrArg Pins.pwrGood hpins : (clearRuntime s).pins.pwrGood = _)

theorem beginStart_state : dnum (beginStart s cold) 0x1200 2 = 1 := dnum_dset_self ..

theorem beginStart_kind : dnum (beginStart s cold) 0x1200 1 = if cold then 0 else 1 := by
  unfold beginStart
  rw [dnum_dset_other _ _ _ _ _ _ (by decide), dnum_dset_self]

end Start

/-! ## The rails come up -/

/-- Both inputs and PWR_EN allow the rails, and they are off. -/
def RailsFed (u : State) : Prop := u.pwr.rails = false ∧ u.pwr.pwrEn = true ∧ u.pwr.main48 = true ∧ u.pwr.aux12 = true

/-- What the check of the inputs leaves of `u`. -/
def RailsSupplied (u : State) (ok : Bool) (t : State) : Prop :=
  (¬RailsFed u → t = u)
  ∧ (RailsFed u → ok = false → t = { u with tel := t.tel, dict := t.dict, fresh := t.fresh })
  ∧ (RailsFed u → ok = true → t.pwr = { u.pwr with rails := true } ∧ t.pins.pwrGood = true
      ∧ t.drone = max u.drone (u.pwr.auxSince + 500000) + 300000
      ∧ (isHold u = false → dnum t 0x1200 2 = 1 ∧ dnum t 0x1200 1 = 0 ∧ t.queues = []))

/-- The state with the rails up. -/
def railsUp (u : State) : State :=
  { u with
    pwr := { u.pwr with rails := true }, pins := { u.pins with pwrGood := true }
    drone := max u.drone (u.pwr.auxSince + 500000) + 300000 }

theorem railsOn_of_not_fed {u : State} (h : ¬RailsFed u) (ok : Bool) : railsOn u ok = u := by
  have hguard : (u.pwr.rails || !u.pwr.pwrEn || !u.pwr.main48 || !u.pwr.aux12) = true := by
    cases hr : u.pwr.rails <;> cases he : u.pwr.pwrEn <;> cases hm : u.pwr.main48 <;> cases ha : u.pwr.aux12 <;>
      simp_all [RailsFed]
  simp [railsOn, hguard]

theorem railsOn_of_fed {u : State} (h : RailsFed u) (ok : Bool) :
    railsOn u ok = if ok then (if isHold u then railsUp u else beginStart (railsUp u) true) else detectFree u 0 8 := by
  obtain ⟨hr, he, hm, ha⟩ := h
  unfold railsOn
  rw [if_neg (by rw [hr, he, hm, ha]; decide)]
  cases ok <;> rfl

theorem railsOn_supplied (u : State) (ok : Bool) : RailsSupplied u ok (railsOn u ok) := by
  refine ⟨fun h => railsOn_of_not_fed h ok, ?_, ?_⟩
  · rintro h rfl
    rw [railsOn_of_fed h]
    exact (detectFree_only u 0 8).eq_overlay
  · rintro h rfl
    rw [railsOn_of_fed h, if_pos rfl]
    cases hhold : isHold u
    · rw [if_neg Bool.false_ne_true]
      exact ⟨beginStart_pwr .., beginStart_pwrGood .., beginStart_drone ..,
        fun _ => ⟨beginStart_state .., beginStart_kind .., beginStart_queues ..⟩⟩
    · rw [if_pos rfl]
      exact ⟨rfl, rfl, rfl, fun h => absurd h Bool.noConfusion⟩

/-! ## The rails go down -/

/-- The rails are off in `t`, and what they held in `s` is lost. -/
def RailsDown (s t : State) : Prop :=
  t.pwr.rails = false ∧ (s.pwr.rails = true → t.pins.pwrGood = false ∧ t.queues = [] ∧ t.jobs = []
      ∧ t.bufs = [] ∧ t.hbm = [] ∧ t.cores = [] ∧ t.cfg.rangeLost = true)

/-- The state whose rails have gone off. -/
def railsLost (s : State) : State :=
  let s := releasePins (clearMemory (tearCopy s))
  { s with
    cfg := { s.cfg with rangeLost := true, lastReady := false }
    pins := { s.pins with pwrGood := false }
    pwr := { s.pwr with rails := false, samples := [], belowSince := none, floorSince := none, hot := false, temps := [], lastHotStep := none } }

theorem railsOff_of_off {s : State} (h : s.pwr.rails = false) : railsOff s = s := by simp [railsOff, h]

theorem railsOff_of_on {s : State} (h : s.pwr.rails = true) :
    railsOff s = if isHold s then railsLost s else dset (railsLost s) 0x1200 2 1 := by
  unfold railsOff
  rw [if_neg (by rw [h]; decide)]
  rfl

theorem railsLost_pwr (s : State) : (railsLost s).pwr =
    { s.pwr with rails := false, samples := [], belowSince := none, floorSince := none, hot := false, temps := [], lastHotStep := none } := by
  have hpwr : (releasePins (clearMemory (tearCopy s))).pwr = s.pwr :=
    ((tearCopy_only s).trans ((clearMemory_only _).trans (releasePins_only _))).same .pwr (by decide)
  unfold railsLost
  dsimp only
  rw [hpwr]

theorem railsOff_down (s : State) : RailsDown s (railsOff s) := by
  cases h : s.pwr.rails
  · rw [railsOff_of_off h]
    exact ⟨h, fun h' => absurd (h.symm.trans h') Bool.noConfusion⟩
  · rw [railsOff_of_on h]
    split <;> exact ⟨rfl, fun _ => ⟨rfl, rfl, rfl, rfl, rfl, rfl, rfl⟩⟩

/-- The rails that go off leave the inputs as they are. -/
theorem railsOff_inputs (s : State) : (railsOff s).pwr.pwrEn = s.pwr.pwrEn ∧ (railsOff s).pwr.main48 = s.pwr.main48 := by
  cases h : s.pwr.rails
  · rw [railsOff_of_off h]
    exact ⟨rfl, rfl⟩
  · have hpwr : (railsOff s).pwr = (railsLost s).pwr := by
      rw [railsOff_of_on h]
      split <;> rfl
    rw [hpwr, railsLost_pwr]
    exact ⟨rfl, rfl⟩

theorem tearCopy_keyKept {k : Nat} (h : k ≠ dkey 0x2000 5) (s : State) : KeyKept k s (tearCopy s) := by
  unfold tearCopy
  split
  · exact .refl s
  · exact KeyKept.trans (t := { s with cfg := { s.cfg with copyA := [], writing := none } }) rfl (.dset _ _ _ _ h)
  · exact KeyKept.trans (t := { s with cfg := { s.cfg with copyB := [], writing := none } }) rfl (.dset _ _ _ _ h)

theorem railsLost_state (s : State) : dnum (railsLost s) 0x1200 2 = dnum s 0x1200 2 :=
  ((tearCopy_keyKept (by decide) s).trans ((clearRuntime_keyKept (by decide) (by decide) _).trans rfl)).dnum

/-- The loss of the rails neither enters nor leaves hold. -/
theorem isHold_railsOff (s : State) : isHold (railsOff s) = isHold s := by
  cases h : s.pwr.rails
  · rw [railsOff_of_off h]
  · rw [railsOff_of_on h]
    cases hhold : isHold s
    · rw [if_neg Bool.false_ne_true]
      unfold isHold
      rw [dnum_dset_self]
      rfl
    · rw [if_pos rfl, ← hhold]
      unfold isHold
      rw [railsLost_state]

theorem alarmAt_railsLost (s : State) (k : Nat) : alarmAt (railsLost s) k = alarmAt s k := by
  have hclear : alarmAt (clearRuntime (tearCopy s)) k = alarmAt s k :=
    ((AlarmStays.of_only (tearCopy_only s) (by decide) (by decide)).trans (clearRuntime_stays _)).record
  rw [← hclear]
  rfl

/-- The loss of the rails leaves the alarms as they are. -/
theorem alarmAt_railsOff (s : State) (k : Nat) : alarmAt (railsOff s) k = alarmAt s k := by
  cases h : s.pwr.rails
  · rw [railsOff_of_off h]
  · rw [railsOff_of_on h, ← alarmAt_railsLost s k]
    split <;> rfl

theorem RailsDown.of_pwr {s s' t : State} (h : RailsDown s' t) (hp : s'.pwr.rails = s.pwr.rails) : RailsDown s t :=
  ⟨h.1, fun hs => h.2 (hp.trans hs)⟩

/-- The state after the loss of 12 V, before hold is left. -/
def auxLost (s : State) : State :=
  let s := railsOff s
  { s with
    pwr := { s.pwr with aux12 := false }, drone := 0
    rel := { s.rel with repair := [] }
    cfg := { s.cfg with holdRequest := none, rangeLost := true }
    pins := { s.pins with thermtripN := true, gpioFn := [], gpioPark := [] } }

theorem aux12Low_of_present {s : State} (h : s.pwr.aux12 = true) :
    aux12Low s = if isHold s then dset (dset (auxLost s) 0x1200 2 1) 0x1200 5 0 else auxLost s := by
  unfold aux12Low
  rw [if_neg (by rw [h]; decide), ← isHold_railsOff]
  rfl

theorem auxLost_down (s : State) : RailsDown s (auxLost s) := by
  obtain ⟨hrails, hlost⟩ := railsOff_down s
  refine ⟨hrails, fun h => ?_⟩
  obtain ⟨hgood, hq, hj, hb, hh, hc, _⟩ := hlost h
  exact ⟨hgood, hq, hj, hb, hh, hc, rfl⟩

theorem isHold_auxLost (s : State) : isHold (auxLost s) = isHold s := isHold_railsOff s

/-- What the loss of 12 V leaves. -/
theorem aux12Low_lost {s : State} (h : s.pwr.aux12 = true) :
    let t := aux12Low s
    RailsDown s t ∧ t.pwr.aux12 = false ∧ t.drone = 0 ∧ t.rel.repair = [] ∧ t.cfg.holdRequest = none
      ∧ t.cfg.rangeLost = true ∧ isHold t = false ∧ (isHold s = true → dnum t 0x1200 2 = 1 ∧ dnum t 0x1200 5 = 0) := by
  intro t
  have ht : t = if isHold s then dset (dset (auxLost s) 0x1200 2 1) 0x1200 5 0 else auxLost s := aux12Low_of_present h
  cases hhold : isHold s
  · rw [hhold, if_neg Bool.false_ne_true] at ht
    rw [ht]
    exact ⟨auxLost_down s, rfl, rfl, rfl, rfl, rfl, (isHold_auxLost s).trans hhold, fun h => absurd h Bool.noConfusion⟩
  · rw [hhold, if_pos rfl] at ht
    have hstate : dnum t 0x1200 2 = 1 := by rw [ht, dnum_dset_other _ _ _ _ _ _ (by decide), dnum_dset_self]
    refine ⟨by rw [ht]; exact auxLost_down s, by rw [ht]; rfl, by rw [ht]; rfl, by rw [ht]; rfl, by rw [ht]; rfl, by rw [ht]; rfl,
      by unfold isHold; rw [hstate]; rfl, fun _ => ⟨hstate, ?_⟩⟩
    rw [ht, dnum_dset_self]

/-! ## Steps of every cluster -/

theorem requestStep_from (up : Bool) (l : List Nat) (s : State) {d : Nat} (hd : (clusterAt s d).inService = true) :
    let t := l.foldl (fun s c => if (clusterAt s c).inService then updCluster s c fun cl => { cl with step := some up } else s) s
    (clusterAt t d).inService = true ∧ (d ∈ l ∨ (clusterAt s d).step = some up → (clusterAt t d).step = some up) := by
  induction l generalizing s with
  | nil => exact ⟨hd, fun h => h.resolve_left List.not_mem_nil⟩
  | cons c l ih =>
    intro t
    let u := if (clusterAt s c).inService then updCluster s c fun cl => { cl with step := some up } else s
    have hu : clusterAt u d = if d = c then { clusterAt s d with step := some up } else clusterAt s d := by
      show clusterAt (if _ then _ else _) d = _
      by_cases hdc : d = c
      · subst hdc
        rw [if_pos hd, if_pos rfl, clusterAt_updCluster_self]
      · rw [if_neg hdc]
        split
        · exact clusterAt_updCluster_other _ _ _ _ hdc
        · rfl
    have hud : (clusterAt u d).inService = true := by
      rw [hu]
      split <;> exact hd
    obtain ⟨h1, h2⟩ := ih u hud
    refine ⟨h1, fun h => h2 ?_⟩
    by_cases hdc : d = c
    · exact .inr (by rw [hu, if_pos hdc])
    · rw [hu, if_neg hdc]
      exact h.imp (fun hm => (List.mem_cons.mp hm).resolve_left hdc) id

/-- A step of the clock is requested of every cluster in service. -/
theorem requestStep_step (s : State) (up : Bool) {d : Nat} (h8 : d < 8) (hd : (clusterAt s d).inService = true) :
    (clusterAt (requestStep s up) d).step = some up :=
  (requestStep_from up (List.range 8) s hd).2 (.inl (List.mem_range.mpr h8))

/-! ## The die temperature -/

section Die

variable {s : State} {die celsius : Nat}

/-- The state after the sensor's value has been taken. -/
def dieRead (s : State) (die celsius : Nat) : State :=
  let s := if die < 8 then raiseTo s (0x9200 + die) 9 (min celsius (2 ^ 31 - 1)) else s
  { s with pwr := { s.pwr with temps := FMap.put 0 s.pwr.temps die celsius } }

/-- A step for heat is due. -/
def hotStepDue (s : State) : Prop :=
  (match s.pwr.lastHotStep with | none => true | some b => decide (1000000 ≤ s.now - b)) = true

/-- Every cluster in service steps down for heat. -/
def heatSteps (s : State) : State := requestStep { s with pwr := { s.pwr with lastHotStep := some s.now } } false

/-- A hot module steps its clusters down, once in 1 ms. -/
def hotStep (s : State) : State :=
  if s.pwr.hot && (match s.pwr.lastHotStep with | none => true | some t => decide (1000000 ≤ s.now - t)) then heatSteps s
  else s

/-- The module has become hot. -/
def heated (s : State) : State :=
  let s := if s.pwr.hot then s else alarmLog s 13 0 (leaderSource s)
  { s with pwr := { s.pwr with hot := true } }

/-- Whether the sensors end the heat. -/
def cooled (s : State) : State :=
  if s.pwr.temps.all fun e => e.2 < 100 then { s with pwr := { s.pwr with hot := false } } else s

theorem dieTemperature_of_off (h : s.pwr.rails = false) : dieTemperature s die celsius = s := by simp [dieTemperature, h]

theorem dieTemperature_trip (h : s.pwr.rails = true) (hc : 115 ≤ celsius) : dieTemperature s die celsius =
    let u := railsOff (alarmLog (dieRead s die celsius) 13 0 (leaderSource (dieRead s die celsius)))
    { u with pins := { u.pins with thermtripN := false } } := by
  unfold dieTemperature
  rw [if_neg (by rw [h]; decide)]
  dsimp only
  rw [if_pos hc]
  rfl

theorem dieTemperature_hot (h : s.pwr.rails = true) (hhot : 105 < celsius) (hc : celsius < 115) :
    dieTemperature s die celsius = hotStep (heated (dieRead s die celsius)) := by
  unfold dieTemperature
  rw [if_neg (by rw [h]; decide)]
  dsimp only
  rw [if_neg (by omega : ¬115 ≤ celsius), if_pos hhot]
  rfl

theorem dieTemperature_not_hot (h : s.pwr.rails = true) (hc : celsius ≤ 105) :
    dieTemperature s die celsius = hotStep (cooled (dieRead s die celsius)) := by
  unfold dieTemperature
  rw [if_neg (by rw [h]; decide)]
  dsimp only
  rw [if_neg (by omega : ¬115 ≤ celsius), if_neg (by omega : ¬105 < celsius)]
  rfl

theorem dieRead_only : Only [.dict, .pwr] s (dieRead s die celsius) := by
  unfold dieRead
  exact .mono (by rfl) <| .trans (.ite (raiseTo_only ..) (.refl _)) (setPwr_only _ _)

theorem dieRead_pwr : (dieRead s die celsius).pwr = { s.pwr with temps := FMap.put 0 s.pwr.temps die celsius } := by
  unfold dieRead
  dsimp only
  split <;> rfl

theorem entryMax_dieTemperature : ∀ d < 8, entryMax (0x9200 + d) 9 = 2 ^ 32 - 1 := by decide +kernel

theorem dieRead_high (h : die < 8) : dnum (dieRead s die celsius) (0x9200 + die) 9
    = min (max (dnum s (0x9200 + die) 9) (min celsius (2 ^ 31 - 1))) (2 ^ 32 - 1) := by
  have hread : dieRead s die celsius = { raiseTo s (0x9200 + die) 9 (min celsius (2 ^ 31 - 1)) with
      pwr := { s.pwr with temps := FMap.put 0 s.pwr.temps die celsius } } := by
    unfold dieRead
    rw [if_pos h]
    rfl
  have hmax := entryMax_dieTemperature die h
  rw [hread, ← hmax]
  exact dnum_dset_self ..

theorem heatSteps_only (s : State) : Only [.pwr, .clusters] s (heatSteps s) := by
  unfold heatSteps
  exact .mono (by rfl) <| (setPwr_only _ _).trans (requestStep_only ..)

theorem heatSteps_pwr (s : State) : (heatSteps s).pwr = { s.pwr with lastHotStep := some s.now } :=
  (requestStep_only { s with pwr := { s.pwr with lastHotStep := some s.now } } false).same .pwr (by decide)

theorem hotStep_only (s : State) : Only [.pwr, .clusters] s (hotStep s) := by
  unfold hotStep
  exact .mono (by rfl) <| .ite (heatSteps_only s) (.refl _)

/-- The sensor's value stands in `t`. -/
def DieReading (s : State) (die celsius : Nat) (t : State) : Prop :=
  FMap.getD t.pwr.temps die 0 = celsius ∧ (die < 8 →
    dnum t (0x9200 + die) 9 = min (max (dnum s (0x9200 + die) 9) (min celsius (2 ^ 31 - 1))) (2 ^ 32 - 1))

theorem dieReading_of_kept {t : State} (htemps : t.pwr.temps = (dieRead s die celsius).pwr.temps)
    (hkept : KeyKept (dkey (0x9200 + die) 9) (dieRead s die celsius) t) : DieReading s die celsius t := by
  refine ⟨?_, fun h => hkept.dnum.trans (dieRead_high h)⟩
  rw [htemps, dieRead_pwr]
  exact FMap.getD_put_self ..

/-- The clusters were stepped down where a step was due. -/
def HeatStepped (s t : State) : Prop :=
  (hotStepDue s → t.pwr.lastHotStep = some s.now
      ∧ ∀ d, d < 8 → (clusterAt s d).inService = true → (clusterAt t d).step = some false)
    ∧ (¬hotStepDue s → t.clusters = s.clusters ∧ t.pwr.lastHotStep = s.pwr.lastHotStep)

theorem hotStep_of_cold (h : s.pwr.hot = false) : hotStep s = s := by simp [hotStep, h]

theorem hotStep_of_due (h : s.pwr.hot = true) (hdue : hotStepDue s) :
    hotStep s = heatSteps s := by
  unfold hotStep
  rw [if_pos]
  rw [h]
  exact hdue

theorem hotStep_of_not_due (h : s.pwr.hot = true) (hdue : ¬hotStepDue s) : hotStep s = s := by
  unfold hotStep
  rw [if_neg]
  rw [h]
  exact hdue

theorem hotStep_hot (s : State) : (hotStep s).pwr.hot = s.pwr.hot ∧ (hotStep s).pwr.temps = s.pwr.temps ∧ (hotStep s).pwr.rails = s.pwr.rails := by
  by_cases hhot : s.pwr.hot = true
  · by_cases hdue : hotStepDue s
    · rw [hotStep_of_due hhot hdue, heatSteps_pwr]
      exact ⟨rfl, rfl, rfl⟩
    · rw [hotStep_of_not_due hhot hdue]
      exact ⟨rfl, rfl, rfl⟩
  · rw [hotStep_of_cold (Bool.eq_false_iff.mpr hhot)]
    exact ⟨rfl, rfl, rfl⟩

theorem hotStep_stepped {u : State} (hhot : u.pwr.hot = true) (hlast : u.pwr.lastHotStep = s.pwr.lastHotStep) (hnow : u.now = s.now)
    (hcl : u.clusters = s.clusters) : HeatStepped s (hotStep u) := by
  have hdue : hotStepDue u ↔ hotStepDue s := by
    unfold hotStepDue
    rw [hlast, hnow]
  have hat (d : Nat) : clusterAt u d = clusterAt s d := by
    unfold clusterAt
    rw [hcl]
  refine ⟨fun h => ?_, fun h => ?_⟩
  · rw [hotStep_of_due hhot (hdue.mpr h), ← hnow, heatSteps_pwr]
    exact ⟨rfl, fun d hd hin => requestStep_step _ _ hd ((congrArg Cluster.inService (hat d)).trans hin)⟩
  · rw [hotStep_of_not_due hhot (fun hu => h (hdue.mp hu))]
    exact ⟨hcl, hlast⟩

theorem heated_only (s : State) : Only [.fresh, .dict, .tel, .pins, .pwr] s (heated s) := by
  unfold heated
  exact .mono (by rfl) <| .trans (.ite (.refl _) (alarmLog_only ..)) (setPwr_only _ _)

theorem heated_pwr (s : State) : (heated s).pwr = { s.pwr with hot := true } := by
  unfold heated
  dsimp only
  split
  · rfl
  · have hpwr := (alarmLog_only s 13 0 (leaderSource s)).same .pwr (by decide)
    rw [hpwr]

theorem heated_keyKept {k : Nat} (h : k / 256 ≠ 0x7000) (h' : k / 256 ≠ 0x7100) (s : State) : KeyKept k s (heated s) :=
  KeyKept.trans (.ite (.refl s) (alarmLog_keyKept h h' ..)) rfl

theorem heated_raised (h : s.pwr.hot = false) : Raised s (heated s) 13 := by
  have heq : heated s = { alarmLog s 13 0 (leaderSource s) with
      pwr := { (alarmLog s 13 0 (leaderSource s)).pwr with hot := true } } := by
    unfold heated
    rw [if_neg (by rw [h]; decide)]
  rw [heq]
  exact (alarmLog_raised ..).stays (.of_same rfl rfl)

theorem FMap.mem_put_self {α : Type} [DecidableEq α] {d v : α} (h : v ≠ d) (m : FMap α) (k : Nat) : (k, v) ∈ FMap.put d m k v := by
  unfold FMap.put FMap.set
  rw [if_neg h]
  exact List.mem_append_right _ List.mem_cons_self

theorem FMap.mem_put_other {α : Type} [DecidableEq α] (d v w : α) {m : FMap α} {k j : Nat} (hj : j ≠ k) :
    (j, w) ∈ FMap.put d m k v ↔ (j, w) ∈ m := by
  unfold FMap.put
  split
  · simp [FMap.erase, hj]
  · simp only [FMap.set, List.mem_append, List.mem_filter, List.mem_cons, Prod.mk.injEq, hj, false_and, false_or]
    have hlt : j < k ∨ k < j := by omega
    rcases hlt with h | h <;> simp [h, Nat.lt_asymm h]

theorem FMap.eq_of_mem_put {α : Type} [DecidableEq α] {d v w : α} {m : FMap α} {k : Nat} (h : (k, w) ∈ FMap.put d m k v) : w = v := by
  unfold FMap.put at h
  split at h
  · simp [FMap.erase] at h
  · simpa [FMap.set] using h

/-- Some other sensor reads 100 °C or more. -/
def OtherWarm (s : State) (die : Nat) : Prop := ∃ d c, (d, c) ∈ s.pwr.temps ∧ d ≠ die ∧ 100 ≤ c

theorem dieRead_cool_iff : ((dieRead s die celsius).pwr.temps.all fun e => e.2 < 100) = true ↔ celsius < 100 ∧ ¬OtherWarm s die := by
  rw [dieRead_pwr, List.all_eq_true]
  constructor
  · intro h
    refine ⟨Nat.lt_of_not_le fun hc => ?_, fun ⟨d, c, hm, hd, hc⟩ => ?_⟩
    · exact Nat.not_lt.mpr hc (of_decide_eq_true (h _ (FMap.mem_put_self (by omega) s.pwr.temps die)))
    · exact Nat.not_lt.mpr hc (of_decide_eq_true (h _ ((FMap.mem_put_other 0 celsius c hd).mpr hm)))
  · rintro ⟨hc, hwarm⟩ ⟨d, c⟩ hm
    refine decide_eq_true (Nat.lt_of_not_le fun h100 => ?_)
    by_cases hd : d = die
    · subst hd
      exact Nat.not_lt.mpr h100 (FMap.eq_of_mem_put hm ▸ hc)
    · exact hwarm ⟨d, c, (FMap.mem_put_other 0 celsius c hd).mp hm, hd, h100⟩

theorem cooled_of_warm (h : 100 ≤ celsius ∨ OtherWarm s die) : cooled (dieRead s die celsius) = dieRead s die celsius := by
  refine if_neg fun hall => ?_
  obtain ⟨hc, hwarm⟩ := dieRead_cool_iff.mp hall
  exact h.elim (Nat.not_le.mpr hc) hwarm

theorem cooled_of_cool (hc : celsius < 100) (hwarm : ¬OtherWarm s die) : cooled (dieRead s die celsius)
    = { dieRead s die celsius with pwr := { (dieRead s die celsius).pwr with hot := false } } :=
  if_pos (dieRead_cool_iff.mpr ⟨hc, hwarm⟩)

/-- The thermal trip: the rails are down, THERMTRIP# is low and the alarm has been counted. -/
theorem dieTemperature_tripped (h : s.pwr.rails = true) (hc : 115 ≤ celsius) :
    let t := dieTemperature s die celsius
    RailsDown s t ∧ t.pins.thermtripN = false ∧ (alarmAt t 13).count = min ((alarmAt s 13).count + 1) (2 ^ 32 - 1) := by
  intro t
  let r := dieRead s die celsius
  let a := alarmLog r 13 0 (leaderSource r)
  have ht : t = { railsOff a with pins := { (railsOff a).pins with thermtripN := false } } := dieTemperature_trip h hc
  have hrails : a.pwr.rails = s.pwr.rails := by
    have hpwr : a.pwr = r.pwr := (alarmLog_only ..).same .pwr (by decide)
    rw [hpwr, dieRead_pwr]
  have hstays : AlarmStays 13 s r := .of_only dieRead_only (by decide) (by decide)
  have hraised : Raised s a 13 := hstays.raised (alarmLog_raised ..)
  have hlost : alarmAt (railsOff a) 13 = alarmAt a 13 := alarmAt_railsOff a 13
  refine ⟨?_, by rw [ht], ?_⟩
  · rw [ht]
    exact (railsOff_down a).of_pwr hrails
  · obtain ⟨_, hcount, _⟩ := hraised
    rw [ht]
    exact (congrArg AlarmRec.count hlost).trans hcount

theorem dieTemperature_heats (h : s.pwr.rails = true) (hhot : 105 < celsius) (hc : celsius < 115) :
    let t := dieTemperature s die celsius
    t.pwr.hot = true ∧ t.pwr.rails = true ∧ t.queues = s.queues ∧ (s.pwr.hot = false → Raised s t 13) ∧ HeatStepped s t
      ∧ DieReading s die celsius t := by
  intro t
  let r := dieRead s die celsius
  have ht : t = hotStep (heated r) := dieTemperature_hot h hhot hc
  have hframe := (dieRead_only (s := s) (die := die) (celsius := celsius)).trans (heated_only r)
  have hpwr : (heated r).pwr = { s.pwr with temps := FMap.put 0 s.pwr.temps die celsius, hot := true } := by
    rw [heated_pwr, dieRead_pwr]
  obtain ⟨h1, h2, h3⟩ := hotStep_hot (heated r)
  have hq : (hotStep (heated r)).queues = s.queues := (hframe.trans (hotStep_only _)).same .queues (by decide)
  rw [ht]
  refine ⟨by rw [h1, hpwr], by rw [h3, hpwr]; exact h, hq, fun hcold => ?_,
    hotStep_stepped (by rw [hpwr]) (by rw [hpwr]) (hframe.same .now (by decide)) (hframe.same .clusters (by decide)), ?_⟩
  · have hstays : AlarmStays 13 s r := .of_only dieRead_only (by decide) (by decide)
    have hraised := hstays.raised (heated_raised (s := r) (by show (dieRead ..).pwr.hot = _; rw [dieRead_pwr]; exact hcold))
    exact hraised.stays (.of_only (hotStep_only _) (by decide) (by decide))
  · refine dieReading_of_kept (by rw [h2, heated_pwr]) ?_
    exact (heated_keyKept (by unfold dkey; omega) (by unfold dkey; omega) r).trans (.of_only (hotStep_only _) (by decide))

theorem dieTemperature_stays (h : s.pwr.rails = true) (hwarm : 100 ≤ celsius ∨ OtherWarm s die) (hc : celsius ≤ 105) :
    let t := dieTemperature s die celsius
    t.pwr.hot = s.pwr.hot ∧ t.queues = s.queues ∧ t.tel = s.tel ∧ (s.pwr.hot = true → HeatStepped s t)
      ∧ (s.pwr.hot = false → t.clusters = s.clusters) ∧ DieReading s die celsius t := by
  intro t
  have ht : t = hotStep (dieRead s die celsius) := by
    rw [← cooled_of_warm hwarm]
    exact dieTemperature_not_hot h hc
  have hframe := dieRead_only (s := s) (die := die) (celsius := celsius)
  have hall := hframe.trans (hotStep_only (dieRead s die celsius))
  obtain ⟨h1, h2, _⟩ := hotStep_hot (dieRead s die celsius)
  have hhot : (dieRead s die celsius).pwr.hot = s.pwr.hot := by rw [dieRead_pwr]
  rw [ht]
  refine ⟨h1.trans hhot, hall.same .queues (by decide), hall.same .tel (by decide), fun hs => ?_, fun hs => ?_, ?_⟩
  · exact hotStep_stepped (hhot.trans hs) (by rw [dieRead_pwr]) (hframe.same .now (by decide)) (hframe.same .clusters (by decide))
  · rw [hotStep_of_cold (hhot.trans hs)]
    exact hframe.same .clusters (by decide)
  · exact dieReading_of_kept h2 (.of_only (hotStep_only _) (by decide))

theorem dieTemperature_cools (h : s.pwr.rails = true) (hc : celsius < 100) (hwarm : ¬OtherWarm s die) :
    let t := dieTemperature s die celsius
    t = { s with pwr := { s.pwr with hot := false, temps := t.pwr.temps }, dict := t.dict } ∧ DieReading s die celsius t := by
  intro t
  have ht : t = { dieRead s die celsius with pwr := { (dieRead s die celsius).pwr with hot := false } } := by
    rw [← cooled_of_cool hc hwarm]
    refine (dieTemperature_not_hot h (by omega)).trans (hotStep_of_cold ?_)
    rw [cooled_of_cool hc hwarm]
  refine ⟨?_, ?_⟩
  · rw [ht, dieRead_pwr]
    unfold dieRead
    dsimp only
    split <;> rfl
  · rw [ht]
    exact dieReading_of_kept rfl rfl

end Die

/-- Settles O48. The inputs decide of the rails through `railsOn` and `railsOff`; a die sensor's value goes through the trip,
the heat, the wait or the end of the heat. -/
theorem inputsAndRails : Obligations.InputsAndRails := by
  refine ⟨fun s ok => ?_, fun s => ?_⟩
  · refine ⟨⟨_, rfl, railsOn_supplied _ ok⟩, ⟨_, rfl, railsOn_supplied _ ok⟩, ⟨_, rfl, railsOn_supplied _ true⟩, fun h => ?_, fun h => ?_⟩
    · exact ⟨_, rfl, by simp [aux12Applied, h]⟩
    · refine ⟨aux12Applied s, rfl, ?_⟩
      unfold aux12Applied
      rw [if_neg (by rw [h]; decide)]
      exact railsOn_supplied _ true
  · refine ⟨⟨pwrEnFall s, rfl, RailsDown.of_pwr (railsOff_down _) rfl, (railsOff_inputs _).1⟩, fun h => ?_, fun h => ?_,
      ⟨main48Out s, rfl, RailsDown.of_pwr (railsOff_down _) rfl, (railsOff_inputs _).2⟩, fun die celsius => ?_⟩
    · exact ⟨_, rfl, by simp [aux12Low, h]⟩
    · exact ⟨aux12Low s, rfl, aux12Low_lost h⟩
    · refine ⟨fun h => ⟨_, rfl, dieTemperature_of_off h⟩, fun h => ⟨fun hc => ?_, fun hhot hc => ?_, fun hwarm hc => ?_, fun hc hwarm => ?_⟩⟩
      · exact ⟨dieTemperature s die celsius, rfl, dieTemperature_tripped h hc⟩
      · exact ⟨dieTemperature s die celsius, rfl, dieTemperature_heats h hhot hc⟩
      · exact ⟨dieTemperature s die celsius, rfl, dieTemperature_stays h hwarm hc⟩
      · exact ⟨dieTemperature s die celsius, rfl, dieTemperature_cools h hc hwarm⟩

end Sys2Proof.Machine

/-! PROOFS. The beat counter: a pulse can change what the module takes its overlay from. -/

namespace Sys2Proof.Machine

/-- A locked module whose active base stop has the number 0x6F50, so that its overlay stands in the entry 0xA050.02, the
counter of pulses; the overlay enables BEAT_SYNC_IN (0xA000.07). -/
def overlaidHead : State :=
  { State.reset with
    dict := [(dkey 0x3000 1, .num 0x6F50), (dkey 0x6F00 2, .num 1), (dkey 0xA050 2, .blob (overlayRecord 0xA000 7 1 1))] }

theorem overlaidHead_head :
    isReady overlaidHead = true ∧ locked overlaidHead = true ∧ eff overlaidHead 0xA000 7 ≠ 0 ∧ isMember overlaidHead = false := by
  decide +kernel

/-- The pulse that is counted overwrites the overlay: no edge is expected. -/
theorem beatPulse_overlaid : (beatPulse overlaidHead).pins.missedEdges = 0 := by decide +kernel

/-- Refutes O49: the pulse counter 0xA050.02 may be the entry that a stop of an undefined number takes its overlay from; the
pulse then disables the input, and no missing edge is counted. -/
theorem not_beatCounter : ¬ Obligations.BeatCounter := by
  intro h
  have hpulse := (h.1 overlaidHead 0).2.2.2.2.2
  obtain ⟨hready, hlocked, hinput, hmember⟩ := overlaidHead_head
  obtain ⟨t, ht, _, _, _, _, hmissed, _⟩ := hpulse hready hlocked
  have hnext : beatPulse overlaidHead = t := Host.Outcome.next.inj ht
  have hone := (hmissed ⟨hready, hinput, hmember⟩ (by decide)).2
  rw [← hnext, beatPulse_overlaid] at hone
  cases hone

end Sys2Proof.Machine

/-! PROOFS. Core power: a wake's count can change the limit that its ramp is held against. -/

namespace Sys2Proof.Machine

/-- A module whose active base stop has the number 0x6100, so that its overlay stands in the entry 0x9200.02, the counter of
PLL starts of cluster 0; the overlay lets no core of a cluster ramp (0x9000.06). -/
def overlaidLimit : State :=
  { State.reset with dict := [(dkey 0x3000 1, .num 0x6100), (dkey 0x9200 2, .blob (overlayRecord 0x9000 6 1 0))] }

theorem overlaidLimit_wakes : (coreAt overlaidLimit 0).power = .gated ∧ inMask overlaidLimit (0 / 4) = true
    ∧ (coreAt overlaidLimit 0).inService = true ∧ eff overlaidLimit 0x9000 6 = 0 := by decide +kernel

/-- The PLL start that is counted overwrites the overlay, so core 0 ramps under the default limit. -/
theorem requestWake_overlaid : (coreAt (requestWake overlaidLimit 0) 0).power = .ramping := by decide +kernel

/-- Refutes O50: the entry 0x9200.02 may be the one that a stop of an undefined number takes its overlay from; the wake that
starts the PLL counts there before the ramps are compared with the limit, so the core ramps where the limit of the state before
lets it wait. -/
theorem not_corePower : ¬ Obligations.CorePower := by
  intro h
  obtain ⟨_, hwake, _⟩ := h overlaidLimit 0 0
  obtain ⟨hgated, hmask, hservice, hlimit⟩ := overlaidLimit_wakes
  obtain ⟨t, ht, _, _, _, _, _, _, hramp, _⟩ := hwake hgated hmask hservice
  have hnext : requestWake overlaidLimit 0 = t := Host.Outcome.next.inj ht
  have hwaits := hramp fun e he => absurd he List.not_mem_nil
  rw [← hnext, requestWake_overlaid, hlimit, if_neg (fun hlt => Nat.not_lt_zero _ hlt.1)] at hwaits
  cases hwaits

end Sys2Proof.Machine

/-! PROOFS. Power samples, power steps, droop throttles and brown-outs (R72, R73, R380 to R382). -/

namespace Sys2Proof.Machine

/-! ## Effective values -/

/-- An effective value reads the active stops, the overlays, which stand under SUB 2, and its own entry. -/
theorem eff_of_kept {s t : State} {i j : Nat} (h : KeyKept (dkey i j) s t)
    (hstops : ∀ g, g < 5 → KeyKept (dkey 0x3000 g) s t) (hover : ∀ n, KeyKept (dkey n 2) s t) : eff t i j = eff s i j := by
  have hstop (g : Nat) (hg : g < 5) : overlayValue (dblob t (0x3100 + activeStop t g) 2) i j
      = overlayValue (dblob s (0x3100 + activeStop s g) 2) i j := by
    have ha : activeStop t g = activeStop s g := (hstops g hg).dnum
    rw [ha, dblob, hover (0x3100 + activeStop s g), dblob]
  have hfind : ([1, 2, 3, 4].findSome? fun g => overlayValue (dblob t (0x3100 + activeStop t g) 2) i j)
      = [1, 2, 3, 4].findSome? fun g => overlayValue (dblob s (0x3100 + activeStop s g) 2) i j := by
    simp only [List.findSome?_cons, hstop 1 (by decide), hstop 2 (by decide), hstop 3 (by decide), hstop 4 (by decide),
      List.findSome?_nil]
  unfold eff
  rw [hfind, h.dnum]

/-! ## Power samples -/

section Sample

variable (s : State) (watts : Nat)

/-- The average of the samples at hand. -/
def sampleAverage : Nat := averagePower ((watts :: s.pwr.samples).take 100)

/-- The state after a sample, with the rest of the power state changed. -/
def sampled (f : Power → Power) : State :=
  dset { s with pwr := f { s.pwr with samples := (watts :: s.pwr.samples).take 100 } } 0x9100 1 (sampleAverage s watts)

theorem sampled_only (f : Power → Power) : Only [.pwr, .dict] s (sampled s watts f) := by
  unfold sampled
  exact .mono (by rfl) <| (setPwr_only _ _).trans (dset_only ..)

theorem sampled_average (f : Power → Power) : dnum (sampled s watts f) 0x9100 1 = sampleAverage s watts := dnum_dset_self ..

theorem sampled_keyKept {k : Nat} (h : k ≠ dkey 0x9100 1) (f : Power → Power) : KeyKept k s (sampled s watts f) :=
  KeyKept.trans (t := { s with pwr := f { s.pwr with samples := (watts :: s.pwr.samples).take 100 } }) rfl (.dset _ _ _ _ h)

theorem eff_sampled (f : Power → Power) : eff (sampled s watts f) 0x9000 2 = eff s 0x9000 2 :=
  eff_of_kept (sampled_keyKept s watts (by decide) f) (fun g _ => sampled_keyKept s watts (by unfold dkey; omega) f)
    (fun n => sampled_keyKept s watts (by unfold dkey; omega) f)

variable {s watts}

theorem powerSample_above (h : eff s 0x9000 1 < sampleAverage s watts) (hclock : 400 < commonClock s) :
    powerSample s watts = if s.pwr.stepped && s.now - s.pwr.lastStep < 1000000 then
        sampled s watts fun p => { p with belowSince := none, floorSince := none }
      else requestStep (sampled s watts fun p => { p with belowSince := none, floorSince := none, stepped := true, lastStep := s.now }) false := by
  unfold powerSample
  exact (if_pos h).trans (if_pos hclock)

theorem powerSample_floor (h : eff s 0x9000 1 < sampleAverage s watts) (hclock : commonClock s ≤ 400) :
    powerSample s watts = if 100000000 ≤ s.now - s.pwr.floorSince.getD s.now then
        bump (alarmLog (sampled s watts fun p => { p with belowSince := none, floorSince := some s.now }) 2 0
          (leaderSource (sampled s watts fun p => { p with belowSince := none }))) 0x9100 5 1
      else sampled s watts fun p => { p with belowSince := none, floorSince := some (s.pwr.floorSince.getD s.now) } := by
  unfold powerSample
  exact (if_pos h).trans (if_neg (Nat.not_lt.mpr hclock))

theorem powerSample_below (h : sampleAverage s watts ≤ eff s 0x9000 1) (hlow : sampleAverage s watts * 100 < eff s 0x9000 1 * 95) :
    powerSample s watts = if 10000000 ≤ s.now - s.pwr.belowSince.getD s.now ∧ commonClock s < eff s 0x9000 2 then
        requestStep (sampled s watts fun p => { p with floorSince := none, belowSince := some s.now }) true
      else sampled s watts fun p => { p with floorSince := none, belowSince := some (s.pwr.belowSince.getD s.now) } := by
  have heff : eff (sampled s watts fun p => { p with floorSince := none }) 0x9000 2 = eff s 0x9000 2 := eff_sampled ..
  rw [← heff]
  unfold powerSample
  refine (if_neg (Nat.not_lt.mpr h)).trans ((if_pos hlow).trans ?_)
  simp only [Bool.and_eq_true, decide_eq_true_eq] <;> rfl

theorem powerSample_between (h : sampleAverage s watts ≤ eff s 0x9000 1) (hlow : eff s 0x9000 1 * 95 ≤ sampleAverage s watts * 100) :
    powerSample s watts = sampled s watts fun p => { p with floorSince := none, belowSince := none } := by
  unfold powerSample
  exact (if_neg (Nat.not_lt.mpr h)).trans (if_neg (Nat.not_lt.mpr hlow))

end Sample

/-- Every cluster in service has a step requested. -/
def StepsAll (s : State) (b : Bool) (t : State) : Prop :=
  ∀ d, d < 8 → (clusterAt s d).inService = true → (clusterAt t d).step = some b

theorem sampled_steps (s : State) (watts : Nat) (f : Power → Power) (b : Bool) : StepsAll s b (requestStep (sampled s watts f) b) :=
  fun _ hd hin => requestStep_step _ b hd hin

theorem requestStep_pwr (s : State) (b : Bool) : (requestStep s b).pwr = s.pwr := (requestStep_only s b).same .pwr (by decide)

/-- What a sample of the power leaves. -/
theorem powerSample_law (s : State) (watts : Nat) :
    let avg := averagePower ((watts :: s.pwr.samples).take 100)
    let limit := eff s 0x9000 1
    let due := s.pwr.stepped = false ∨ 1000000 ≤ s.now - s.pwr.lastStep
    let t := powerSample s watts
    dnum t 0x9100 1 = avg ∧ t.cores = s.cores ∧ t.queues = s.queues ∧ t.now = s.now
      ∧ (limit < avg → t.pwr.belowSince = none
        ∧ (400 < commonClock s → t.pwr.floorSince = none ∧ (due → StepsAll s false t ∧ t.pwr.lastStep = s.now) ∧ (¬due → t.clusters = s.clusters))
        ∧ (commonClock s ≤ 400 → t.clusters = s.clusters ∧ let since := s.pwr.floorSince.getD s.now
            (100000000 ≤ s.now - since → Raised s t 2 ∧ Counted s t 0x9100 5 1 ∧ t.pwr.floorSince = some s.now)
            ∧ (s.now - since < 100000000 → t.tel = s.tel ∧ t.pwr.floorSince = some since)))
      ∧ (avg ≤ limit → avg * 100 < limit * 95 → t.pwr.floorSince = none ∧ let since := s.pwr.belowSince.getD s.now
        let up := 10000000 ≤ s.now - since ∧ commonClock s < eff s 0x9000 2
        (up → StepsAll s true t ∧ t.pwr.belowSince = some s.now) ∧ (¬up → t.clusters = s.clusters ∧ t.pwr.belowSince = some since))
      ∧ (avg ≤ limit → limit * 95 ≤ avg * 100 → t.clusters = s.clusters ∧ t.pwr.belowSince = none) := by
  intro avg limit due t
  have hframe : Only [.pwr, .dict, .clusters, .fresh, .tel, .pins] s t := .mono (by rfl) (powerSample_only s watts)
  have hsampled (f : Power → Power) := sampled_average s watts f
  have hstepped (f : Power → Power) (b : Bool) : dnum (requestStep (sampled s watts f) b) 0x9100 1 = avg :=
    ((requestStep_only _ b).dnum (by decide) 0x9100 1).trans (sampled_average s watts f)
  have hdue : (s.pwr.stepped && decide (s.now - s.pwr.lastStep < 1000000)) = true ↔ ¬due := by
    simp only [due, Bool.and_eq_true, decide_eq_true_eq, not_or, Bool.not_eq_false, Nat.not_le]
  have habove (h : limit < avg) : dnum t 0x9100 1 = avg ∧ t.pwr.belowSince = none
      ∧ (400 < commonClock s → t.pwr.floorSince = none ∧ (due → StepsAll s false t ∧ t.pwr.lastStep = s.now) ∧ (¬due → t.clusters = s.clusters))
      ∧ (commonClock s ≤ 400 → t.clusters = s.clusters ∧ let since := s.pwr.floorSince.getD s.now
          (100000000 ≤ s.now - since → Raised s t 2 ∧ Counted s t 0x9100 5 1 ∧ t.pwr.floorSince = some s.now)
          ∧ (s.now - since < 100000000 → t.tel = s.tel ∧ t.pwr.floorSince = some since)) := by
    by_cases hclock : 400 < commonClock s
    · have ht := powerSample_above h hclock
      by_cases hd : due
      · rw [if_neg (fun hc => hdue.mp hc hd)] at ht
        have hpwr := requestStep_pwr (sampled s watts fun p => { p with belowSince := none, floorSince := none, stepped := true, lastStep := s.now }) false
        rw [← ht] at hpwr
        refine ⟨by rw [show t = _ from ht]; exact hstepped .., by rw [hpwr]; rfl, fun _ => ⟨by rw [hpwr]; rfl, fun _ => ⟨?_, by rw [hpwr]; rfl⟩,
          fun hn => absurd hd hn⟩, fun hc => absurd hclock (Nat.not_lt.mpr hc)⟩
        rw [show t = _ from ht]
        exact sampled_steps s watts _ _
      · rw [if_pos (hdue.mpr hd)] at ht
        rw [show t = _ from ht]
        exact ⟨hsampled _, rfl, fun _ => ⟨rfl, fun h => absurd h hd, fun _ => rfl⟩, fun hc => absurd hclock (Nat.not_lt.mpr hc)⟩
    · have ht := powerSample_floor h (Nat.not_lt.mp hclock)
      by_cases hlong : 100000000 ≤ s.now - s.pwr.floorSince.getD s.now
      · rw [if_pos hlong] at ht
        let u := sampled s watts fun p => { p with belowSince := none, floorSince := some s.now }
        let a := alarmLog u 2 0 (leaderSource (sampled s watts fun p => { p with belowSince := none }))
        have htot : t = bump a 0x9100 5 1 := ht
        have halarm : Only [.fresh, .dict, .tel, .pins] u a := alarmLog_only ..
        have hpwr : t.pwr = u.pwr := by rw [htot]; exact halarm.same .pwr (by decide)
        have hcl : t.clusters = s.clusters := by rw [htot]; exact halarm.same .clusters (by decide)
        have hkept {k : Nat} (h1 : k / 256 ≠ 0x7000) (h2 : k / 256 ≠ 0x7100) : KeyKept k u a := alarmLog_keyKept h1 h2 ..
        refine ⟨?_, by rw [hpwr]; rfl, fun hc => absurd hc hclock, fun _ => ⟨hcl, fun _ => ⟨?_, ?_, by rw [hpwr]; rfl⟩,
          fun hshort => absurd hlong (Nat.not_le.mpr hshort)⟩⟩
        · rw [htot]
          exact ((hkept (by decide) (by decide)).trans (.bump _ _ _ _ (by decide))).dnum.trans (hsampled _)
        · have hstays : AlarmStays 2 s u := .of_only (sampled_only ..) (by decide) (by decide)
          rw [htot]
          exact (hstays.raised (alarmLog_raised ..)).stays (.of_only (bump_only ..) (by decide) (by decide))
        · have hold : dnum a 0x9100 5 = dnum s 0x9100 5 :=
            (KeyKept.trans (sampled_keyKept s watts (by decide) _) (hkept (by decide) (by decide))).dnum
          rw [htot, Counted, dnum_bump_self, hold]
      · rw [if_neg hlong] at ht
        rw [show t = _ from ht]
        exact ⟨hsampled _, rfl, fun hc => absurd hc hclock, fun _ => ⟨rfl, fun h => absurd h hlong, fun _ => ⟨rfl, rfl⟩⟩⟩
  have hbelow (h : avg ≤ limit) (hlow : avg * 100 < limit * 95) : dnum t 0x9100 1 = avg ∧ t.pwr.floorSince = none
      ∧ let since := s.pwr.belowSince.getD s.now
        let up := 10000000 ≤ s.now - since ∧ commonClock s < eff s 0x9000 2
        (up → StepsAll s true t ∧ t.pwr.belowSince = some s.now) ∧ (¬up → t.clusters = s.clusters ∧ t.pwr.belowSince = some since) := by
    have ht := powerSample_below h hlow
    by_cases hup : 10000000 ≤ s.now - s.pwr.belowSince.getD s.now ∧ commonClock s < eff s 0x9000 2
    · rw [if_pos hup] at ht
      have hpwr := requestStep_pwr (sampled s watts fun p => { p with floorSince := none, belowSince := some s.now }) true
      rw [← ht] at hpwr
      refine ⟨by rw [show t = _ from ht]; exact hstepped .., by rw [hpwr]; rfl, fun _ => ⟨?_, by rw [hpwr]; rfl⟩, fun hn => absurd hup hn⟩
      rw [show t = _ from ht]
      exact sampled_steps s watts _ _
    · rw [if_neg hup] at ht
      rw [show t = _ from ht]
      exact ⟨hsampled _, rfl, fun h => absurd h hup, fun _ => ⟨rfl, rfl⟩⟩
  have hbetween (h : avg ≤ limit) (hlow : limit * 95 ≤ avg * 100) : dnum t 0x9100 1 = avg ∧ t.clusters = s.clusters
      ∧ t.pwr.belowSince = none := by
    rw [show t = _ from powerSample_between h hlow]
    exact ⟨hsampled _, rfl, rfl⟩
  refine ⟨?_, hframe.same .cores (by decide), hframe.same .queues (by decide), hframe.same .now (by decide), fun h => (habove h).2,
    fun h hlow => (hbelow h hlow).2, fun h hlow => (hbetween h hlow).2⟩
  by_cases h : limit < avg
  · exact (habove h).1
  · by_cases hlow : avg * 100 < limit * 95
    · exact (hbelow (Nat.not_lt.mp h) hlow).1
    · exact (hbetween (Nat.not_lt.mp h) (Nat.not_lt.mp hlow)).1

end Sys2Proof.Machine

/-! PROOFS. What a kill leaves of alarms and of the queue that it strikes; droop throttles and brown-outs (R72, R73, R380). -/

namespace Sys2Proof.Machine

/-! ## Kills raise no alarm -/

section Stays

variable {k : Nat}

theorem giveUp_stays (s : State) (q : Nat) (c : Cmd) : AlarmStays k s (giveUp s q c) := by
  unfold giveUp
  extract_lets +onlyGivenNames s1 s2 s3 s4
  have h1 : AlarmStays k s s1 := .of_only ((leaveEngines_only ..).trans ((discardArray_only ..).trans
    ((withdraw_only ..).trans (withdrawPartials_only ..)))) (by decide) (by decide)
  have h2 : AlarmStays k s s2 := h1.trans (endStall_stays ..)
  have h3 : AlarmStays k s s3 := .ite (h2.trans (.of_only (countKilledArray_only ..) (by decide) (by decide))) h2
  have h4 : AlarmStays k s s4 := .ite (h3.trans (.of_only (recallSignal_only ..) (by decide) (by decide))) h3
  exact .ite (h4.trans (.of_only (tellRemote_only ..) (by decide) (by decide))) h4

theorem killCmd_stays (s : State) (q : Nat) (counts : Bool) (c : Cmd) : AlarmStays k s (killCmd s q counts c) := by
  unfold killCmd
  extract_lets +onlyGivenNames s1 d
  have h1 : AlarmStays k s s1 := (giveUp_stays s q c).trans (trace_stays ..)
  exact .ite ((h1.trans (.of_only (updCmd_only ..) (by decide) (by decide))).trans (failCmd_stays ..))
    ((h1.trans (putCompletion_stays s1 q c 0x0305)).trans (.of_only (updCmd_only ..) (by decide) (by decide)))

theorem strikeQueue_stays (s : State) (q : Nat) (kind : KillKind) : AlarmStays k s (strikeQueue s q kind) := by
  unfold strikeQueue
  split
  · exact .refl s
  · extract_lets lost s1 s2 s3
    have h1 : AlarmStays k s s1 := .ite (.of_only ((chargeLost_only ..).trans (bump_only ..)) (by decide) (by decide)) (.refl s)
    have h2 : AlarmStays k s s2 := h1.trans (.foldl (fun t c => killCmd_stays t q _ c) _ _)
    have h3 : AlarmStays k s s3 := h2.trans (.of_only ((updQueue_only s2 q _).trans (releaseHeld_only _)) (by decide) (by decide))
    exact .ite (h3.trans (.of_only (holdQueue_only ..) (by decide) (by decide))) h3

theorem killQueue_stays (s : State) (q : Nat) (kind : KillKind) : AlarmStays k s (killQueue s q kind) := by
  unfold killQueue
  split
  · exact .refl s
  · exact .ite (.of_only (updQueue_only ..) (by decide) (by decide)) (strikeQueue_stays ..)

theorem heldKills_stays (s : State) : AlarmStays k s (heldKills s) := by
  unfold heldKills
  refine .foldl (fun t e => ?_) _ _
  split
  · exact killQueue_stays ..
  · exact .refl t

theorem killOnCores_stays (s : State) (p : Nat → Bool) (kind : KillKind) : AlarmStays k s (killOnCores s p kind) := by
  unfold killOnCores
  exact .foldl (fun t e => .ite (killQueue_stays ..) (.refl t)) _ _

end Stays

/-! ## A queue that a kill has struck -/

/-- Queue `q` holds no kill back, and each of its commands stands fetched, has failed, or is fixed at beat `now`. -/
def Settled (now : Nat) (s : State) (q : Nat) : Prop :=
  ∃ Q, queueAt s q = some Q ∧ Q.heldKill = none ∧ ∀ d ∈ Q.cmds, d.state = .fetched ∨ d.failed = true ∨ d.fixed now = true

theorem strikeQueue_heldKill (s : State) (q : Nat) (kind : KillKind) {Q : Queue} (h : queueAt (strikeQueue s q kind) q = some Q)
    {P : Queue} (hP : queueAt s q = some P) : Q.heldKill = none := by
  revert h
  unfold strikeQueue
  rw [hP]
  dsimp -zeta only
  extract_lets lost s1 s2 s3
  have h3 (R : Queue) (hR : queueAt s3 q = some R) : R.heldKill = none := by
    have hlast : queueAt s3 q = _ := queueAt_releaseHeld _ q
    rw [hlast, queueAt_updQueue, if_pos rfl] at hR
    obtain ⟨R', _, rfl⟩ := Option.map_eq_some_iff.mp hR
    rfl
  split
  · intro h
    obtain ⟨f, w, hf⟩ := holdQueue_queue s3 q q
    rw [hf] at h
    obtain ⟨R, hR, rfl⟩ := Option.map_eq_some_iff.mp h
    exact h3 R hR
  · exact h3 Q

theorem throttledKill_false {s : State} {Q : Queue} (h : ∀ d ∈ Q.cmds, (clusterAt s (d.core / 4)).throttled = false) :
    throttledKill s Q = false := by
  refine List.any_eq_false.mpr fun d hd => ?_
  rw [h d (List.mem_of_mem_filter hd)]
  simp

/-- Nothing of a settled queue stands in a throttle. -/
theorem throttledKill_settled {s : State} {Q : Queue}
    (h : ∀ d ∈ Q.cmds, d.state = .fetched ∨ d.failed = true ∨ d.fixed s.now = true) : throttledKill s Q = false := by
  refine List.any_eq_false.mpr fun d hd => ?_
  have hmem := List.mem_of_mem_filter hd
  obtain ⟨_, hfailed, hfixed⟩ := (mem_struck hmem).mp hd
  have hfetched : d.state = .fetched := by simpa [hfailed, hfixed] using h d hmem
  simp [hfetched]

theorem killQueue_settles {s : State} {q : Nat} {Q : Queue} (kind : KillKind) (hQ : queueAt s q = some Q)
    (h : throttledKill s Q = false) : Settled s.now (killQueue s q kind) q := by
  obtain ⟨Q', hQ', hcmds, _⟩ := strikeQueue_queue s q kind hQ
  rw [killQueue_strikes kind hQ h]
  refine ⟨Q', hQ', strikeQueue_heldKill s q kind hQ' hQ, fun d hd => ?_⟩
  rw [hcmds] at hd
  exact killAll_settled hd

theorem killQueue_others (s : State) (q : Nat) (kind : KillKind) : OtherQueues q s (killQueue s q kind) := by
  unfold killQueue
  split
  · exact .refl s
  · exact .ite (updQueue_others ..) (strikeQueue_others ..)

/-- A later kill leaves a settled queue settled. -/
theorem Settled.killQueue {s : State} {q : Nat} (h : Settled s.now s q) (p : Nat) (kind : KillKind) :
    Settled s.now (killQueue s p kind) q := by
  obtain ⟨Q, hQ, hheld, hcmds⟩ := h
  by_cases hp : q = p
  · subst hp
    exact killQueue_settles kind hQ (throttledKill_settled hcmds)
  · exact ⟨Q, ((killQueue_others s p kind).same q hp).trans hQ, hheld, hcmds⟩

theorem Settled.heldKills {n : Nat} {s : State} {q : Nat} (h : Settled n s q) (hn : s.now = n) : Settled n (heldKills s) q := by
  have hfold (l : List (Nat × Queue)) (u : State) (hu : Settled n u q) (hnow : u.now = n) : Settled n
      (l.foldl (fun s e => match e.2.heldKill with | some kind => Machine.killQueue s e.1 kind | none => s) u) q := by
    induction l generalizing u with
    | nil => exact hu
    | cons e l ih =>
      rw [List.foldl_cons]
      cases e.2.heldKill with
      | none => exact ih u hu hnow
      | some kind =>
        refine ih _ ?_ (((killQueue_only u e.1 kind).same .now (by decide)).trans hnow)
        rw [← hnow]
        exact Settled.killQueue (by rw [hnow]; exact hu) e.1 kind
  exact hfold _ _ h hn

theorem heldKills_of_none {s : State} (h : ∀ e ∈ s.queues, e.2.heldKill = none) : heldKills s = s := by
  have hfold (l : List (Nat × Queue)) (hl : ∀ e ∈ l, e.2.heldKill = none) :
      l.foldl (fun s e => match e.2.heldKill with | some kind => killQueue s e.1 kind | none => s) s = s := by
    induction l with
    | nil => rfl
    | cons e l ih =>
      rw [List.foldl_cons, hl e List.mem_cons_self]
      exact ih fun x hx => hl x (List.mem_cons_of_mem _ hx)
  exact hfold _ h

/-- The kill that waited at the module's one queue takes effect. -/
theorem heldKills_one {s : State} {q : Nat} {Q : Queue} (hq : s.queues = [(q, Q)]) (hheld : Q.heldKill.isSome = true)
    (hth : throttledKill s Q = false) : Settled s.now (heldKills s) q := by
  obtain ⟨kind, hkind⟩ := Option.isSome_iff_exists.mp hheld
  have hQ : queueAt s q = some Q := by simp [queueAt, hq, FMap.get?]
  have hone : heldKills s = killQueue s q kind := by
    unfold heldKills
    rw [hq, List.foldl_cons, List.foldl_nil, hkind]
  rw [hone]
  exact killQueue_settles kind hQ hth

/-! ## The clusters -/

theorem requestStep_cluster (s : State) (up : Bool) (d : Nat) :
    ∃ x, clusterAt (requestStep s up) d = { clusterAt s d with step := x } := by
  unfold requestStep
  generalize List.range 8 = l
  induction l generalizing s with
  | nil => exact ⟨_, rfl⟩
  | cons c l ih =>
    rw [List.foldl_cons]
    obtain ⟨x, hx⟩ := ih (if (clusterAt s c).inService then updCluster s c fun cl => { cl with step := some up } else s)
    rw [hx]
    split
    · by_cases hd : d = c
      · subst hd
        exact ⟨x, by rw [clusterAt_updCluster_self]⟩
      · exact ⟨x, by rw [clusterAt_updCluster_other _ _ _ _ hd]⟩
    · exact ⟨x, rfl⟩

theorem Counted.from_kept {s t u : State} {i j n : Nat} (h : KeyKept (dkey i j) s t) (g : Counted t u i j n) : Counted s u i j n := by
  unfold Counted at g ⊢
  rw [g, h.dnum]

theorem Counted.kept {s t u : State} {i j n : Nat} (g : Counted s t i j n) (h : KeyKept (dkey i j) t u) : Counted s u i j n :=
  h.dnum.trans g

/-- One counter of consecutive entries, raised at those of a list for which `P` holds. -/
theorem foldl_bump_counted {P : State → Nat → Prop} [∀ s k, Decidable (P s k)]
    (hP : ∀ s i j n k, P (bump s i j n) k ↔ P s k) (base sub n : Nat) {l : List Nat} (hl : l.Nodup) {k : Nat} (hk : k ∈ l) (s : State)
    (hs : P s k) : Counted s (l.foldl (fun s k => if P s k then bump s (base + k) sub n else s) s) (base + k) sub n := by
  have hrest (l : List Nat) (s : State) (h : k ∉ l) : KeyKept (dkey (base + k) sub) s
      (l.foldl (fun s k => if P s k then bump s (base + k) sub n else s) s) := by
    induction l generalizing s with
    | nil => exact .refl s
    | cons c l ih =>
      have hc : k ≠ c ∧ k ∉ l := by simpa using h
      exact .trans (.ite (.bump _ _ _ _ (by unfold dkey; omega)) (.refl s)) (ih _ hc.2)
  induction l generalizing s with
  | nil => cases hk
  | cons c l ih =>
    obtain ⟨hcl, hl⟩ := List.nodup_cons.mp hl
    rw [List.foldl_cons]
    by_cases hkc : k = c
    · subst hkc
      rw [if_pos hs]
      exact (hrest l _ hcl).dnum.trans (counted_bump ..)
    · have hkl : k ∈ l := (List.mem_cons.mp hk).resolve_left hkc
      by_cases hc : P s c
      · rw [if_pos hc]
        have hnext := ih hl hkl (bump s (base + c) sub n) ((hP ..).mpr hs)
        have hold : KeyKept (dkey (base + k) sub) s (bump s (base + c) sub n) := .bump _ _ _ _ (by unfold dkey; omega)
        unfold Counted at hnext ⊢
        rw [← hold.dnum]
        exact hnext
      · rw [if_neg hc]
        exact ih hl hkl s hs

/-- A counter of the four cores of a cluster. -/
theorem four_bumps_counted (s : State) (base sub n : Nat) {k : Nat} (h : k < 4) :
    Counted s ([0, 1, 2, 3].foldl (fun s k => bump s (base + k) sub n) s) (base + k) sub n :=
  foldl_bump_counted (P := fun _ _ => True) (fun _ _ _ _ _ => Iff.rfl) base sub n (by decide)
    (by simp only [List.mem_cons, List.not_mem_nil, or_false]; omega) s trivial

theorem four_bumps_only (s : State) (base sub n : Nat) :
    Only [.dict] s ([0, 1, 2, 3].foldl (fun s k => bump s (base + k) sub n) s) :=
  .foldl (fun _ _ => bump_only ..) _ _

/-! ## Power steps -/

section Step

variable {s : State} {c : Nat}

theorem powerStep_of_blocked (h : clockStopped s c = true ∨ midPass s c = true ∨ (clusterAt s c).step = none) : powerStep s c = s := by
  unfold powerStep
  rcases h with h | h | h <;> simp [h]

/-- The clock that a step goes to. -/
def steppedClock (s : State) (c : Nat) (up : Bool) : Nat :=
  if up then min ((clusterAt s c).clock + 50) (eff s 0x9000 2) else max (min ((clusterAt s c).clock - 50) (eff s 0x9000 2)) 400

/-- The state in which the held cycles of a step have been counted. -/
def stepHeld (s : State) (c : Nat) : State :=
  [0, 1, 2, 3].foldl (fun t k =>
    if (coreAt t (4 * c + k)).power = .on then bump t (0x6300 + 4 * c + k) 9 (2000 * (clusterAt s c).clock / 1000) else t) s

/-- The state in which a cluster has its new clock. -/
def stepTaken (s : State) (c : Nat) (up : Bool) : State :=
  let s' := holdArrays { stepHeld s c with now := (stepHeld s c).now + 2000 } c 2000
  bump (updCluster s' c fun cl => { cl with clock := steppedClock s c up, step := none }) (0x9200 + c) (if up then 6 else 5) 1

variable {up : Bool}

theorem powerStep_of_end (hrun : clockStopped s c = false) (hpass : midPass s c = false) (hstep : (clusterAt s c).step = some up)
    (h : steppedClock s c up = (clusterAt s c).clock) : powerStep s c = updCluster s c fun cl => { cl with step := none } := by
  unfold powerStep
  simp only [hrun, hpass, hstep, Bool.or_self, Bool.false_eq_true, if_false]
  exact if_pos h

theorem powerStep_of_step (hrun : clockStopped s c = false) (hpass : midPass s c = false) (hstep : (clusterAt s c).step = some up)
    (h : steppedClock s c up ≠ (clusterAt s c).clock) :
    powerStep s c = trace (stepTaken s c up) 7 (24 + leaderSource (updCluster
      (holdArrays { stepHeld s c with now := (stepHeld s c).now + 2000 } c 2000) c
        fun cl => { cl with clock := steppedClock s c up, step := none })) 0 0 (steppedClock s c up) 0 := by
  unfold powerStep
  simp only [hrun, hpass, hstep, Bool.or_self, Bool.false_eq_true, if_false]
  exact if_neg h

theorem stepHeld_only (s : State) (c : Nat) : Only [.dict] s (stepHeld s c) :=
  .mono (by rfl) <| .foldl (fun _ _ => .ite (bump_only ..) (.refl _)) _ _

theorem stepHeld_keyKept {k : Nat} (h : k % 256 ≠ 9) (s : State) (c : Nat) : KeyKept k s (stepHeld s c) :=
  .foldl (fun t _ => .ite (.bump _ _ _ _ (by unfold dkey; omega)) (.refl t)) _ _

theorem stepHeld_counted {k : Nat} (h : k < 4) (hon : (coreAt s (4 * c + k)).power = .on) :
    Counted s (stepHeld s c) (0x6300 + 4 * c + k) 9 (2000 * (clusterAt s c).clock / 1000) :=
  foldl_bump_counted (P := fun t k => (coreAt t (4 * c + k)).power = .on) (fun _ _ _ _ _ => Iff.rfl) (0x6300 + 4 * c) 9 _ (by decide)
    (by simp only [List.mem_cons, List.not_mem_nil, or_false]; omega) s hon

/-- The state in which the arrays of the cluster stand still for the step. -/
def stepHalted (s : State) (c : Nat) : State := holdArrays { stepHeld s c with now := (stepHeld s c).now + 2000 } c 2000

theorem stepHalted_only (s : State) (c : Nat) : Only [.dict, .now, .queues] s (stepHalted s c) :=
  .mono (by rfl) <| (stepHeld_only s c).trans <| (setNow_only _ _).trans <| holdArrays_only ..

theorem stepTaken_only (s : State) (c : Nat) (up : Bool) : Only [.dict, .now, .queues, .clusters] s (stepTaken s c up) :=
  .mono (by rfl) <| (stepHalted_only s c).trans <| (updCluster_only ..).trans <| bump_only ..

/-- The cluster has its new clock. -/
def stepClocked (s : State) (c : Nat) (up : Bool) : State :=
  updCluster (stepHalted s c) c fun cl => { cl with clock := steppedClock s c up, step := none }

theorem stepClocked_later (s : State) (c : Nat) (up : Bool) : Only [.now, .queues, .clusters] (stepHeld s c) (stepClocked s c up) :=
  .mono (by rfl) <| (setNow_only _ _).trans <| (holdArrays_only ..).trans <| updCluster_only ..

theorem stepTaken_eq (s : State) (c : Nat) (up : Bool) :
    stepTaken s c up = bump (stepClocked s c up) (0x9200 + c) (if up then 6 else 5) 1 := rfl

theorem stepTaken_keyKept {k : Nat} (h : k % 256 = 9) (s : State) (c : Nat) (up : Bool) : KeyKept k (stepHeld s c) (stepTaken s c up) := by
  rw [stepTaken_eq]
  exact (KeyKept.of_only (stepClocked_later s c up) (by decide)).trans (.bump _ _ _ _ (by unfold dkey; split <;> omega))

/-- What a step of the clock leaves. -/
theorem powerStep_stepped (hrun : clockStopped s c = false) (hpass : midPass s c = false) (hstep : (clusterAt s c).step = some up)
    (h : steppedClock s c up ≠ (clusterAt s c).clock) :
    let t := powerStep s c
    t.now = s.now + 2000 ∧ clusterAt t c = { clusterAt s c with clock := steppedClock s c up, step := none }
      ∧ (∀ d, d ≠ c → clusterAt t d = clusterAt s d) ∧ Counted s t (0x9200 + c) (if up then 6 else 5) 1
      ∧ (∀ k, k < 4 → (coreAt s (4 * c + k)).power = .on → Counted s t (0x6300 + 4 * c + k) 9 (2000 * (clusterAt s c).clock / 1000))
      ∧ t.cores = s.cores ∧ t.bufs = s.bufs ∧ t.jobs = s.jobs := by
  intro t
  have ht : t = trace (stepTaken s c up) 7 (24 + leaderSource (stepClocked s c up)) 0 0 (steppedClock s c up) 0 :=
    powerStep_of_step hrun hpass hstep h
  have htrace : Only [.dict, .tel, .hostOut] (stepTaken s c up) t := by rw [ht]; exact trace_only ..
  have hkept {k : Nat} (hk : k / 256 = 0x7200 → 7 < k % 256) : KeyKept k (stepTaken s c up) t := by rw [ht]; exact trace_keyKept hk ..
  have hall := (stepTaken_only s c up).trans htrace
  have hcl (d : Nat) : clusterAt t d = clusterAt (stepClocked s c up) d := by
    unfold clusterAt
    rw [htrace.same .clusters (by decide), stepTaken_eq, bump_clusters]
  have hbefore (d : Nat) : clusterAt (stepHalted s c) d = clusterAt s d := by
    unfold clusterAt
    rw [(stepHalted_only s c).same .clusters (by decide)]
  refine ⟨?_, ?_, fun d hd => ?_, ?_, fun k hk hon => ?_, hall.same .cores (by decide), hall.same .bufs (by decide), hall.same .jobs (by decide)⟩
  · have hnow : (stepClocked s c up).now = (stepHeld s c).now + 2000 := rfl
    rw [htrace.same .now (by decide), stepTaken_eq, bump_now, hnow, (stepHeld_only s c).same .now (by decide)]
  · rw [hcl, stepClocked, clusterAt_updCluster_self, hbefore]
  · rw [hcl, stepClocked, clusterAt_updCluster_other _ _ _ _ hd, hbefore]
  · have hold : KeyKept (dkey (0x9200 + c) (if up then 6 else 5)) s (stepClocked s c up) :=
      (stepHeld_keyKept (by unfold dkey; split <;> omega) s c).trans (.of_only (stepClocked_later s c up) (by decide))
    have hcount : Counted (stepClocked s c up) (stepTaken s c up) (0x9200 + c) (if up then 6 else 5) 1 := counted_bump ..
    exact (hcount.from_kept hold).kept (hkept (by unfold dkey; split <;> omega))
  · exact (stepHeld_counted hk hon).kept ((stepTaken_keyKept (by unfold dkey; omega) s c up).trans (hkept (by unfold dkey; omega)))

end Step

/-! ## Throttles -/

section Throttle

variable {s : State} {c : Nat}

theorem beginThrottle_counted (s : State) (c : Nat) {k : Nat} (hk : k < 4) : Counted s (beginThrottle s c) (0x6300 + 4 * c + k) 6 1 := by
  unfold beginThrottle
  exact (four_bumps_counted _ (0x6300 + 4 * c) 6 1 hk).from_kept (.of_only (updCluster_only ..) (by decide))

theorem clusterAt_beginThrottle (s : State) (c d : Nat) : clusterAt (beginThrottle s c) d
    = clusterAt (updCluster s c fun cl => { cl with throttled := true, gap := false, gapDroop := false }) d := by
  unfold beginThrottle clusterAt
  rw [(four_bumps_only _ (0x6300 + 4 * c) 6 1).same .clusters (by decide)]

/-- What the beginning of a throttle leaves of a state that has `cl` at the cluster but for the throttle. -/
theorem beginThrottle_begun {u : State} (h : Only [.clusters] s u) {cl : Cluster}
    (hcl : clusterAt u c = cl) (hothers : ∀ d, d ≠ c → clusterAt u d = clusterAt s d) :
    let t := beginThrottle u c
    clusterAt t c = { cl with throttled := true, gap := false, gapDroop := false } ∧ (∀ d, d ≠ c → clusterAt t d = clusterAt s d)
      ∧ (∀ k, k < 4 → Counted s t (0x6300 + 4 * c + k) 6 1) ∧ t = { s with clusters := t.clusters, dict := t.dict } := by
  intro t
  refine ⟨by rw [clusterAt_beginThrottle, clusterAt_updCluster_self, hcl], fun d hd => ?_,
    fun k hk => (beginThrottle_counted u c hk).from_kept (.of_only h (by decide)), (h.trans (beginThrottle_only u c)).eq_overlay⟩
  rw [clusterAt_beginThrottle, clusterAt_updCluster_other _ _ _ _ hd, hothers d hd]

theorem droop_of_stopped (h : (clusterAt s c).throttled = true ∨ (clusterAt s c).brownedOut = true) : droop s c = s := by
  unfold droop
  rcases h with h | h <;> simp [h]

theorem droop_of_running (hth : (clusterAt s c).throttled = false) (hbrown : (clusterAt s c).brownedOut = false) :
    droop s c = if (clusterAt s c).gap then updCluster s c fun cl => { cl with gapDroop := true } else beginThrottle s c := by
  simp [droop, hth, hbrown]

theorem gapEnd_of_gap (h : (clusterAt s c).gap = true) (present : Bool) :
    gapEnd s c present = if present then beginThrottle (updCluster s c fun cl => { cl with gap := false, gapDroop := false }) c
      else updCluster s c fun cl => { cl with gap := false, gapDroop := false } := by
  simp [gapEnd, h]

/-- The state in which a throttle's cycles have been counted. -/
def throttleCounted (s : State) (c n : Nat) : State := [0, 1, 2, 3].foldl (fun s k => bump s (0x6300 + 4 * c + k) 7 n) s

/-- The state in which the cluster's arrays have stood still for the throttle. -/
def throttleHalted (s : State) (c n : Nat) : State :=
  holdArrays (throttleCounted s c n) c (beatsOf (throttleCounted s c n) (4 * c) n)

/-- The state in which the cluster's clock runs again. -/
def throttleFreed (s : State) (c n : Nat) (persists : Bool) : State :=
  updCluster (throttleHalted s c n) c fun cl => { cl with throttled := false, gap := true, gapDroop := persists }

/-- The state after a throttle's end, before the kills that waited for it. -/
def throttleOver (s : State) (c cycles : Nat) (persists : Bool) : State :=
  let n := min (max cycles 1) 16
  let s := throttleFreed s c n persists
  if persists && n = 16 then requestStep (bump (alarmLog s 10 c (leaderSource s)) (0x9200 + c) 7 1) false else s

theorem throttleEnd_of_throttled (h : (clusterAt s c).throttled = true) (cycles : Nat) (persists : Bool) :
    throttleEnd s c cycles persists = heldKills (throttleOver s c cycles persists) := by
  unfold throttleEnd
  rw [if_neg (by rw [h]; decide)]
  rfl

theorem holdArrays_queues_congr {s t : State} (h : t.queues = s.queues) (c b : Nat) : (holdArrays t c b).queues = (holdArrays s c b).queues := by
  unfold holdArrays
  rw [h]

/-- What a throttle's end leaves before the kills. -/
structure ThrottleOver (s : State) (c n : Nat) (persists : Bool) (u : State) : Prop where
  now : u.now = s.now
  queues : ∃ b, u.queues = (holdArrays s c b).queues
  self : ∃ x, clusterAt u c = { clusterAt s c with throttled := false, gap := true, gapDroop := persists, step := x }
  others : ∀ d, d ≠ c → ∃ x, clusterAt u d = { clusterAt s d with step := x }
  counted : c < 8 → ∀ k, k < 4 → Counted s u (0x6300 + 4 * c + k) 7 n

theorem throttleCounted_only (s : State) (c n : Nat) : Only [.dict] s (throttleCounted s c n) := four_bumps_only s (0x6300 + 4 * c) 7 n

theorem throttleFreed_later (s : State) (c n : Nat) (persists : Bool) :
    Only [.queues, .clusters] (throttleCounted s c n) (throttleFreed s c n persists) := by
  unfold throttleFreed throttleHalted
  exact .mono (by rfl) <| (holdArrays_only ..).trans <| updCluster_only ..

theorem throttleCounted_counted (s : State) (c n : Nat) {k : Nat} (hk : k < 4) :
    Counted s (throttleCounted s c n) (0x6300 + 4 * c + k) 7 n := by
  unfold throttleCounted
  exact four_bumps_counted s (0x6300 + 4 * c) 7 n hk

theorem throttleFreed_over (s : State) (c n : Nat) (persists : Bool) : ThrottleOver s c n persists (throttleFreed s c n persists) := by
  have hall := (throttleCounted_only s c n).trans (throttleFreed_later s c n persists)
  have hcl (d : Nat) : clusterAt (throttleHalted s c n) d = clusterAt s d := by
    unfold clusterAt throttleHalted
    rw [((throttleCounted_only s c n).trans (holdArrays_only ..)).same .clusters (by decide)]
  refine ⟨hall.same .now (by decide), ⟨beatsOf (throttleCounted s c n) (4 * c) n, ?_⟩, ⟨(clusterAt s c).step, ?_⟩,
    fun d hd => ⟨(clusterAt s d).step, ?_⟩, fun _ k hk => ?_⟩
  · have hq : (throttleCounted s c n).queues = s.queues := (throttleCounted_only s c n).same .queues (by decide)
    rw [throttleFreed, updCluster_queues, throttleHalted, holdArrays_queues_congr hq]
  · rw [throttleFreed, clusterAt_updCluster_self, hcl]
  · rw [throttleFreed, clusterAt_updCluster_other _ _ _ _ hd, hcl]
  · have hkept : KeyKept (dkey (0x6300 + 4 * c + k) 7) (throttleCounted s c n) (throttleFreed s c n persists) :=
      .of_only (throttleFreed_later s c n persists) (by decide)
    have hcount := throttleCounted_counted s c n hk
    exact hcount.kept hkept

/-- A droop that persists: the alarm, its count, and the step that it requests. -/
def throttlePersists (s : State) (c : Nat) : State := bump (alarmLog s 10 c (leaderSource s)) (0x9200 + c) 7 1

theorem throttlePersists_only (s : State) (c : Nat) : Only [.fresh, .dict, .tel, .pins] s (throttlePersists s c) :=
  .mono (by rfl) <| (alarmLog_only ..).trans (bump_only ..)

theorem throttleOver_law (s : State) (c cycles : Nat) (persists : Bool) :
    ThrottleOver s c (min (max cycles 1) 16) persists (throttleOver s c cycles persists)
      ∧ (persists = true → 16 ≤ cycles → Raised s (throttleOver s c cycles persists) 10
        ∧ ∀ d, d < 8 → (clusterAt s d).inService = true → (clusterAt (throttleOver s c cycles persists) d).step = some false) := by
  have hover : throttleOver s c cycles persists = if persists && min (max cycles 1) 16 = 16 then
      requestStep (throttlePersists (throttleFreed s c (min (max cycles 1) 16) persists) c) false
    else throttleFreed s c (min (max cycles 1) 16) persists := rfl
  have h16 : min (max cycles 1) 16 = 16 ↔ 16 ≤ cycles := by omega
  generalize min (max cycles 1) 16 = n at hover h16
  have h3 := throttleFreed_over s c n persists
  have hbefore : AlarmStays 10 s (throttleFreed s c n persists) :=
    .of_only ((throttleCounted_only s c n).trans (throttleFreed_later s c n persists)) (by decide) (by decide)
  have hin (d : Nat) (hd : (clusterAt s d).inService = true) : (clusterAt (throttleFreed s c n persists) d).inService = true := by
    by_cases hdc : d = c
    · obtain ⟨x, hx⟩ := h3.self
      rw [hdc, hx]
      exact hdc ▸ hd
    · obtain ⟨x, hx⟩ := h3.others d hdc
      rw [hx]
      exact hd
  generalize throttleFreed s c n persists = s3 at *
  by_cases hp : persists = true ∧ 16 ≤ cycles
  · rw [if_pos (by rw [hp.1, h16.mpr hp.2]; rfl)] at hover
    rw [hover]
    have halarm := throttlePersists_only s3 c
    have hstep : Only [.clusters] (throttlePersists s3 c) (requestStep (throttlePersists s3 c) false) := requestStep_only ..
    have hlater := halarm.trans hstep
    have hat (d : Nat) : clusterAt (throttlePersists s3 c) d = clusterAt s3 d := by
      unfold clusterAt
      rw [halarm.same .clusters (by decide)]
    obtain ⟨b, hb⟩ := h3.queues
    refine ⟨⟨(hlater.same .now (by decide)).trans h3.now, ⟨b, (hlater.same .queues (by decide)).trans hb⟩, ?_, fun d hd => ?_, fun hc k hk => ?_⟩,
      fun _ _ => ⟨?_, fun d hd hs => requestStep_step _ false hd (by rw [hat]; exact hin d hs)⟩⟩
    · obtain ⟨x, hx⟩ := requestStep_cluster (throttlePersists s3 c) false c
      obtain ⟨y, hy⟩ := h3.self
      exact ⟨x, by rw [hx, hat, hy]⟩
    · obtain ⟨x, hx⟩ := requestStep_cluster (throttlePersists s3 c) false d
      obtain ⟨y, hy⟩ := h3.others d hd
      exact ⟨x, by rw [hx, hat, hy]⟩
    · have hkept : KeyKept (dkey (0x6300 + 4 * c + k) 7) s3 (throttlePersists s3 c) :=
        (alarmLog_keyKept (by unfold dkey; omega) (by unfold dkey; omega) ..).trans (.bump _ _ _ _ (by unfold dkey; omega))
      exact (h3.counted hc k hk).kept (hkept.trans (.of_only hstep (by decide)))
    · have hraised : Raised s3 (throttlePersists s3 c) 10 :=
        (alarmLog_raised s3 10 c (leaderSource s3)).stays (.of_only (bump_only ..) (by decide) (by decide))
      exact (hbefore.raised hraised).stays (.of_only hstep (by decide) (by decide))
  · rw [if_neg (by rw [Bool.and_eq_true, decide_eq_true_eq, h16]; exact hp)] at hover
    rw [hover]
    exact ⟨h3, fun h1 h2 => absurd ⟨h1, h2⟩ hp⟩

/-- A command of an array that stands still for `b` beats. -/
def haltCmd (c b : Nat) (d : Cmd) : Cmd :=
  if d.op = 1 && d.core / 4 = c && d.state = .started && d.cycle0.isSome then { d with shift := d.shift + b } else d

theorem haltCmd_core (c b : Nat) (d : Cmd) : (haltCmd c b d).core = d.core := by
  unfold haltCmd
  split <;> rfl

/-- The module's one queue, whose commands stand in no throttle of another cluster. -/
def QueueAlone (s : State) (c q : Nat) (Q : Queue) : Prop :=
  s.queues = [(q, Q)] ∧ ∀ d ∈ Q.cmds, d.core / 4 ≠ c → (clusterAt s (d.core / 4)).throttled = false

/-- The kill that waited for a throttle takes effect at its end. -/
theorem heldKills_throttleOver {n q : Nat} {persists : Bool} {Q : Queue} {u : State} (hu : ThrottleOver s c n persists u)
    (halone : QueueAlone s c q Q) (hheld : Q.heldKill.isSome = true) : Settled s.now (heldKills u) q := by
  obtain ⟨hq, hcores⟩ := halone
  obtain ⟨b, hb⟩ := hu.queues
  rw [← hu.now]
  have hone : u.queues = [(q, { Q with cmds := Q.cmds.map (haltCmd c b) })] := by
    rw [hb]
    unfold holdArrays
    rw [hq]
    rfl
  refine heldKills_one hone hheld (throttledKill_false fun d hd => ?_)
  obtain ⟨e, he, rfl⟩ := List.mem_map.mp hd
  rw [haltCmd_core]
  by_cases hc : e.core / 4 = c
  · obtain ⟨x, hx⟩ := hu.self
    rw [hc, hx]
  · obtain ⟨x, hx⟩ := hu.others _ hc
    rw [hx]
    exact hcores e he hc

/-- What a throttle's end leaves. -/
theorem throttleEnd_law (cycles : Nat) (persists : Bool) (hc : c < 8) (h : (clusterAt s c).throttled = true) :
    let t := throttleEnd s c cycles persists
    (clusterAt t c).throttled = false ∧ (clusterAt t c).gap = true ∧ (clusterAt t c).gapDroop = persists
      ∧ ((∀ e ∈ s.queues, e.2.heldKill = none) → ∀ k, k < 4 → Counted s t (0x6300 + 4 * c + k) 7 (min (max cycles 1) 16))
      ∧ (persists = true → 16 ≤ cycles → Raised s t 10 ∧ ∀ d, d < 8 → (clusterAt s d).inService = true → (clusterAt t d).step = some false)
      ∧ ∀ q Q, QueueAlone s c q Q → Q.heldKill.isSome = true → Settled s.now t q := by
  intro t
  obtain ⟨hover, hpersists⟩ := throttleOver_law s c cycles persists
  have ht : t = heldKills (throttleOver s c cycles persists) := throttleEnd_of_throttled h cycles persists
  generalize throttleOver s c cycles persists = u at hover hpersists ht
  have hkills := heldKills_only u
  have hcl (d : Nat) : clusterAt t d = clusterAt u d := by
    unfold clusterAt
    rw [ht, hkills.same .clusters (by decide)]
  obtain ⟨x, hx⟩ := hover.self
  refine ⟨by rw [hcl, hx], by rw [hcl, hx], by rw [hcl, hx], fun hnone k hk => ?_, fun hp hn => ⟨?_, fun d hd hin => ?_⟩, fun q Q halone hheld => ?_⟩
  · obtain ⟨b, hb⟩ := hover.queues
    have hidle : heldKills u = u := heldKills_of_none fun e he => by
      rw [hb] at he
      obtain ⟨e0, he0, rfl⟩ := List.mem_map.mp he
      exact hnone e0 he0
    rw [ht, hidle]
    exact hover.counted hc k hk
  · rw [ht]
    exact (hpersists hp hn).1.stays (heldKills_stays u)
  · rw [hcl]
    exact (hpersists hp hn).2 d hd hin
  · rw [ht]
    exact heldKills_throttleOver hover halone hheld

/-! ## Brown-outs -/

/-- The state in which the cluster's clock stands still. -/
def brownedOut (s : State) (c : Nat) : State :=
  updCluster s c fun cl => { cl with throttled := false, gap := false, gapDroop := false, brownedOut := true }

/-- The state in which a brown-out's kills have taken effect. -/
def brownKilled (s : State) (c : Nat) : State := heldKills (killOnCores (brownedOut s c) (fun k => k / 4 = c) .fault)

theorem brownOut_eq (s : State) (c : Nat) : ∃ n, brownOut s c
    = bump (bump (alarmLog (brownKilled s c) 3 c c) (0x9200 + c) 8 1) (0xB100 + c) 6 n := ⟨_, rfl⟩

theorem brownKilled_only (s : State) (c : Nat) :
    Only [.dict, .tel, .cores, .queues, .jobs, .parts, .bufs, .tiered, .sync, .reds, .win, .miss, .rel, .hbm, .hostOut]
      (brownedOut s c) (brownKilled s c) :=
  .mono (by rfl) <| (killOnCores_only ..).trans (heldKills_only _)

/-- A brown-out strikes the module's one queue where it runs a command on the cluster. -/
theorem brownKilled_settled {q : Nat} {Q : Queue} {d : Cmd} (halone : QueueAlone s c q Q) (hd : d ∈ Q.cmds)
    (hop : opEngine d.op = true) (hcore : d.core / 4 = c) (hstate : d.state ≠ .fetched) (hfailed : d.failed = false) :
    Settled s.now (brownKilled s c) q := by
  obtain ⟨hq, hcores⟩ := halone
  have hQ : queueAt (brownedOut s c) q = some Q := by
    show FMap.get? s.queues q = some Q
    rw [hq]
    simp [FMap.get?]
  have hruns : (Q.cmds.any fun c' => opEngine c'.op && decide (c'.core / 4 = c) && decide (c'.state ≠ .fetched) && !c'.failed) = true :=
    List.any_eq_true.mpr ⟨d, hd, by simp [hop, hcore, hstate, hfailed]⟩
  have hkill : killOnCores (brownedOut s c) (fun k => k / 4 = c) .fault = killQueue (brownedOut s c) q .fault := by
    unfold killOnCores
    rw [show (brownedOut s c).queues = [(q, Q)] from hq, List.foldl_cons, List.foldl_nil, if_pos hruns]
  have hth : throttledKill (brownedOut s c) Q = false := throttledKill_false fun e he => by
    by_cases hc : e.core / 4 = c
    · rw [hc, brownedOut, clusterAt_updCluster_self]
    · rw [brownedOut, clusterAt_updCluster_other _ _ _ _ hc]
      exact hcores e he hc
  have hsettled : Settled s.now (killQueue (brownedOut s c) q .fault) q := killQueue_settles .fault hQ hth
  unfold brownKilled
  rw [hkill]
  exact hsettled.heldKills ((killQueue_only (brownedOut s c) q .fault).same .now (by decide))

/-- What a brown-out leaves. -/
theorem brownOut_law (s : State) (c : Nat) :
    let t := brownOut s c
    (clusterAt t c).brownedOut = true ∧ (clusterAt t c).throttled = false ∧ Raised s t 3
      ∧ ∀ q Q d, QueueAlone s c q Q → d ∈ Q.cmds → opEngine d.op = true → d.core / 4 = c → d.state ≠ .fetched → d.failed = false →
        Settled s.now t q := by
  intro t
  obtain ⟨n, hn⟩ := brownOut_eq s c
  have hlater : Only [.fresh, .dict, .tel, .pins] (brownKilled s c) t := by
    rw [show t = _ from hn]
    exact .mono (by rfl) <| (alarmLog_only ..).trans <| (bump_only ..).trans <| bump_only ..
  have hcl : clusterAt t c = clusterAt (brownedOut s c) c := by
    unfold clusterAt
    rw [hlater.same .clusters (by decide), (brownKilled_only s c).same .clusters (by decide)]
  have hself : clusterAt t c = { clusterAt s c with throttled := false, gap := false, gapDroop := false, brownedOut := true } := by
    rw [hcl, brownedOut, clusterAt_updCluster_self]
  refine ⟨by rw [hself], by rw [hself], ?_, fun q Q d halone hd hop hcore hstate hfailed => ?_⟩
  · have hstays : AlarmStays 3 s (brownKilled s c) := .trans (.of_only (updCluster_only ..) (by decide) (by decide))
      ((killOnCores_stays ..).trans (heldKills_stays _))
    rw [show t = _ from hn]
    exact (hstays.raised (alarmLog_raised ..)).stays (.of_only ((bump_only ..).trans (bump_only ..)) (by decide) (by decide))
  · obtain ⟨Q', hQ', hrest⟩ := brownKilled_settled halone hd hop hcore hstate hfailed
    exact ⟨Q', (hlater.queueAt (by decide) q).trans hQ', hrest⟩

end Throttle

/-- Settles O51. -/
theorem clockAndDroop : Obligations.ClockAndDroop := by
  refine ⟨fun s watts => ⟨powerSample s watts, rfl, powerSample_law s watts⟩, fun s c => ?_⟩
  refine ⟨fun h => ⟨_, rfl, powerStep_of_blocked (or_assoc.mp h)⟩, fun up hblocked hstep => ?_, fun h => ⟨_, rfl, droop_of_stopped h⟩,
    fun hth hbrown => ⟨fun hgap => ⟨droop s c, rfl, ?_⟩, fun hgap => ⟨droop s c, rfl, ?_⟩⟩,
    fun cycles persists h => ⟨_, rfl, by simp [throttleEnd, h]⟩,
    fun cycles persists hc h => ⟨throttleEnd s c cycles persists, rfl, throttleEnd_law cycles persists hc h⟩,
    fun b h => ⟨_, rfl, by simp [gapEnd, h]⟩, fun hgap => ⟨⟨gapEnd s c true, rfl, ?_⟩, ⟨gapEnd s c false, rfl, ?_⟩⟩,
    ⟨brownOut s c, rfl, brownOut_law s c⟩,
    ⟨brownOutRecovery s c, rfl, rfl, clusterAt_updCluster_self .., fun d hd => clusterAt_updCluster_other _ _ _ _ hd⟩⟩
  · obtain ⟨hrun, hpass⟩ := not_or.mp hblocked
    simp only [Bool.not_eq_true] at hrun hpass
    refine ⟨fun hsame => ⟨powerStep s c, rfl, ?_⟩, fun hmoves => ⟨powerStep s c, rfl, powerStep_stepped hrun hpass hstep hmoves⟩⟩
    rw [powerStep_of_end hrun hpass hstep hsame]
    exact ⟨rfl, clusterAt_updCluster_self .., fun d hd => clusterAt_updCluster_other _ _ _ _ hd⟩
  · rw [droop_of_running hth hbrown, if_neg (by rw [hgap]; decide)]
    exact beginThrottle_begun (.mono (by rfl) (.refl s)) rfl fun _ _ => rfl
  · rw [droop_of_running hth hbrown, if_pos hgap]
    exact ⟨rfl, clusterAt_updCluster_self .., fun d hd => clusterAt_updCluster_other _ _ _ _ hd⟩
  · rw [gapEnd_of_gap hgap, if_pos rfl]
    exact beginThrottle_begun (cl := { clusterAt s c with gap := false, gapDroop := false }) (updCluster_only ..)
      (clusterAt_updCluster_self ..) fun d hd => clusterAt_updCluster_other _ _ _ _ hd
  · rw [gapEnd_of_gap hgap, if_neg Bool.false_ne_true]
    exact ⟨rfl, clusterAt_updCluster_self .., fun d hd => clusterAt_updCluster_other _ _ _ _ hd⟩

end Sys2Proof.Machine

/-! PROOFS. The trace ring, the gap of the journal, the release of held inputs, the debug unlock and the health test. -/

namespace Sys2Proof.Machine

/-! ## The trace ring (R429) -/

section Trace

variable {s : State}

theorem traceDrain_of_empty (h : s.tel.traceHeld = []) (fuel : Nat) : traceDrain s fuel = s := by
  cases fuel <;> simp [traceDrain, h]

theorem traceDrain_of_full (h : traceFree s = 0) (fuel : Nat) : traceDrain s fuel = s := by
  cases fuel with
  | zero => rfl
  | succ n =>
    unfold traceDrain
    split
    · rfl
    · exact if_pos h

theorem traceDrain_one {r : TraceRec} (h : s.tel.traceHeld = [r]) (hfree : traceFree s ≠ 0) (fuel : Nat) :
    traceDrain s (fuel + 1) = traceEmit { s with tel := { s.tel with traceHeld := [] } } r := by
  unfold traceDrain
  rw [h]
  exact (if_neg hfree).trans (traceDrain_of_empty rfl fuel)

/-- The state in which READ has been read. -/
def readTaken (s : State) (read : BitVec 32) : State := { s with tel := { s.tel with traceRead := read.toNat } }

theorem traceFree_zero_iff (read : BitVec 32) (s : State) : traceFree (readTaken s read) = 0 ↔
    traceSlots s ≤ (s.tel.traceWrite + 2 ^ 32 - read.toNat) % 2 ^ 32 := Nat.sub_eq_zero_iff_le

end Trace

/-! ## The gap of the journal (R290) -/

section Journal

variable {s : State}

theorem journalDrain_of_empty (h : s.tel.journalHeld = []) (fuel : Nat) : journalDrain s fuel = s := by
  cases fuel <;> simp [journalDrain, h]

theorem journalDrain_of_full (h : journalRoom s = false) (fuel : Nat) : journalDrain s fuel = s := by
  cases fuel with
  | zero => rfl
  | succ n =>
    unfold journalDrain
    split
    · rfl
    · exact if_neg (by rw [h]; decide)

theorem journalDrain_one {r : List Byte} (h : s.tel.journalHeld = [r]) (hroom : journalRoom s = true) (fuel : Nat) :
    journalDrain s (fuel + 1) = journalEmit { s with tel := { s.tel with journalHeld := [] } } r := by
  unfold journalDrain
  rw [h]
  exact (if_pos hroom).trans (journalDrain_of_empty rfl fuel)

theorem journalEmit_other {k : Nat} (h : k ≠ dkey 0x7300 3) (s : State) (r : List Byte) : KeyKept k s (journalEmit s r) :=
  KeyKept.trans (t := hostWrite s (dnum s 0x7300 1 + 32 * dnum s 0x7300 3) r) rfl (.dset _ _ _ _ h)

theorem journalRoom_of_kept {t : State} (h : ∀ j, 2 ≤ j → j < 5 → KeyKept (dkey 0x7300 j) s t) : journalRoom t = journalRoom s := by
  unfold journalRoom journalSlots
  rw [(h 2 (by decide) (by decide)).dnum, (h 3 (by decide) (by decide)).dnum, (h 4 (by decide) (by decide)).dnum]

theorem alarm_journalHeld (s : State) (slot detail : Nat) : (alarm s slot detail).tel.journalHeld = s.tel.journalHeld := by
  unfold alarm
  extract_lets r t entering r' s1
  split <;> rfl

theorem alarm_journalDropped (s : State) (slot detail : Nat) : (alarm s slot detail).tel.journalDropped = s.tel.journalDropped := by
  unfold alarm
  extract_lets r t entering r' s1
  split <;> rfl

/-- The state in which a gap record stands held and the lost records are counted. -/
def gapTold (s : State) : State :=
  let s' := { s with tel := { s.tel with
    journalHeld := [journalBytes s.now 6 0 0 s.tel.journalDropped (s.now - s.tel.journalDropBeat) 0 0], journalDropped := 0 } }
  dset (bump (bump s' 0x7300 5 s.tel.journalDropped) 0x7300 6 1) 0x7300 7 0

theorem journalGap_of_lost (hheld : s.tel.journalHeld = []) (hdropped : s.tel.journalDropped ≠ 0) :
    journalGap s = journalFlush (alarm (gapTold s) 9 0) := by
  unfold journalGap
  rw [if_neg (by simp [hheld, hdropped])]
  unfold gapTold
  rw [hheld]
  rfl

theorem gapTold_counts (s : State) : dnum (gapTold s) 0x7300 7 = 0 ∧ Counted s (gapTold s) 0x7300 5 s.tel.journalDropped
    ∧ Counted s (gapTold s) 0x7300 6 1 := by
  refine ⟨dnum_dset_self .., ?_, ?_⟩
  · unfold Counted gapTold
    rw [dnum_dset_other _ _ _ _ _ _ (by decide), (KeyKept.bump _ 0x7300 6 1 (by decide)).dnum, dnum_bump_self]
    rfl
  · unfold Counted gapTold
    rw [dnum_dset_other _ _ _ _ _ _ (by decide), dnum_bump_self, (KeyKept.bump _ 0x7300 5 _ (by decide)).dnum]
    rfl

theorem gapTold_keyKept {k : Nat} (h : k < dkey 0x7300 5) (s : State) : KeyKept k s (gapTold s) := by
  have h5 : dkey 0x7300 5 = 256 * 0x7300 + 5 := rfl
  refine KeyKept.trans ?_ (.dset _ _ _ _ (by unfold dkey; omega))
  refine KeyKept.trans ?_ (.bump _ _ _ _ (by unfold dkey; omega))
  exact KeyKept.trans (t := { s with tel := { s.tel with
    journalHeld := [journalBytes s.now 6 0 0 s.tel.journalDropped (s.now - s.tel.journalDropBeat) 0 0], journalDropped := 0 } })
    rfl (.bump _ _ _ _ (by unfold dkey; omega))

/-- Lost records are told: the gap record, the counts, the flag and the alarm. -/
theorem journalGap_lost (hheld : s.tel.journalHeld = []) (hdropped : s.tel.journalDropped ≠ 0) :
    let t := journalGap (journalFlush s)
    t.tel.journalDropped = 0 ∧ dnum t 0x7300 7 = 0 ∧ Counted s t 0x7300 5 s.tel.journalDropped ∧ Counted s t 0x7300 6 1
      ∧ Raised s t 9 ∧ t.tel.journalHeld.length = (if journalRoom s then 0 else 1) := by
  intro t
  let a := alarm (gapTold s) 9 0
  have ht : t = journalDrain a 32768 := by
    show journalGap (journalDrain s 32768) = _
    rw [journalDrain_of_empty hheld]
    exact journalGap_of_lost hheld hdropped
  have hone : a.tel.journalHeld = [journalBytes s.now 6 0 0 s.tel.journalDropped (s.now - s.tel.journalDropBeat) 0 0] :=
    alarm_journalHeld (gapTold s) 9 0
  have hnone : a.tel.journalDropped = 0 := alarm_journalDropped (gapTold s) 9 0
  have halarm {k : Nat} (hk : k / 256 ≠ 0x7000) : KeyKept k (gapTold s) a := alarm_keyKept hk ..
  have hroom : journalRoom a = journalRoom s := journalRoom_of_kept fun j h2 h5 =>
    (gapTold_keyKept (by unfold dkey; omega) s).trans (halarm (by unfold dkey; omega))
  have hraised : Raised s a 9 := by
    have hbefore : AlarmStays 9 s (gapTold s) := .of_same rfl rfl
    exact hbefore.raised (alarm_raised ..)
  obtain ⟨hflag, hlost, hgaps⟩ := gapTold_counts s
  cases hr : journalRoom s
  · rw [journalDrain_of_full (hroom.trans hr)] at ht
    rw [ht]
    exact ⟨hnone, (halarm (by decide)).dnum.trans hflag, hlost.kept (halarm (by decide)), hgaps.kept (halarm (by decide)), hraised,
      by rw [hone]; rfl⟩
  · rw [journalDrain_one hone (hroom.trans hr)] at ht
    have hkept {k : Nat} (hk : k / 256 ≠ 0x7000) (h3 : k ≠ dkey 0x7300 3) : KeyKept k (gapTold s) t := by
      rw [ht]
      exact (halarm hk).trans (KeyKept.trans (t := { a with tel := { a.tel with journalHeld := [] } }) rfl (journalEmit_other h3 ..))
    refine ⟨by rw [ht]; exact hnone, (hkept (by decide) (by decide)).dnum.trans hflag, hlost.kept (hkept (by decide) (by decide)),
      hgaps.kept (hkept (by decide) (by decide)), ?_, by rw [ht]; rfl⟩
    rw [ht]
    exact hraised.stays (.of_same rfl rfl)

theorem journalGap_of_none (h : s.tel.journalDropped = 0) : journalGap s = s := by simp [journalGap, h]

/-- A held record moves to the ring. -/
theorem journalFlush_one {r : List Byte} (hheld : s.tel.journalHeld = [r]) (hroom : journalRoom s = true) (hdropped : s.tel.journalDropped = 0) :
    journalGap (journalFlush s) = journalEmit { s with tel := { s.tel with journalHeld := [] } } r := by
  unfold journalFlush
  rw [journalDrain_one hheld hroom]
  exact journalGap_of_none hdropped

end Journal

/-! ## Held inputs (R291) -/

theorem releaseInput_of_none {s : State} {j : Nat} (h : (jobAt s j).all (fun J => J.replayHeld.isEmpty) = true) : releaseInput s j = s := by
  unfold releaseInput
  cases hj : jobAt s j with
  | none => rfl
  | some J =>
    rw [hj] at h
    rw [Option.map_some, List.isEmpty_iff.mp h]

theorem releaseInput_of_held {s : State} {j : Nat} {J : Job} {due : Nat} {i : Instr} {rest : List (Nat × Instr)} (hJ : jobAt s j = some J)
    (h : J.replayHeld = (due, i) :: rest) :
    releaseInput s j = takeHeld (updJob { s with now := max s.now due } j fun J => { J with replayHeld := rest }) i := by
  unfold releaseInput
  rw [hJ, Option.map_some, h]

/-! ## The random source (R426) -/

theorem healthFailure_law (s : State) (hub : Hub) :
    let t := healthFailure s hub
    engineAt t hub = { engineAt s hub with healthy := false } ∧ Counted s t 0x8200 6 1 ∧ Raised s t 1
      ∧ (∀ g, g ≠ hub → engineAt t g = engineAt s g) ∧ t = { s with sec := t.sec, dict := t.dict, tel := t.tel, pins := t.pins } := by
  intro t
  let u := updEngine s hub fun e => { e with healthy := false }
  have hu : Only [.sec] s u := updEngine_only ..
  have hb : Only [.dict] u (bump u 0x8200 6 1) := bump_only ..
  have ha : Only [.dict, .tel, .pins] (bump u 0x8200 6 1) t := alarm_only ..
  have hat (g : Hub) : engineAt t g = engineAt u g := (hb.trans ha).engineAt (by decide) g
  refine ⟨by rw [hat, engineAt_updEngine_self], ?_, ?_, fun g hg => by rw [hat, engineAt_updEngine_other _ _ hg],
    (Only.mono (G := [.sec, .dict, .tel, .pins]) (by rfl) (hu.trans (hb.trans ha))).eq_overlay⟩
  · exact Counted.from_kept (.of_only hu (by decide)) ((counted_bump u 0x8200 6 1).kept (alarm_keyKept (by decide) ..))
  · exact (AlarmStays.of_only (hu.trans hb) (by decide) (by decide)).raised (alarm_raised ..)

/-- Settles O56. -/
theorem telemetryAndDebug : Obligations.TelemetryAndDebug := by
  intro s
  refine ⟨fun read => ?_, fun hheld hdropped => ⟨journalGap (journalFlush s), rfl, journalGap_lost hheld hdropped⟩,
    fun hdropped => ⟨fun hkeeps => ⟨journalGap (journalFlush s), rfl, ?_⟩, fun r hheld hroom => ⟨journalGap (journalFlush s), rfl, ?_⟩⟩,
    fun j h => ⟨_, rfl, releaseInput_of_none h⟩, fun j J due i rest hJ hheld => ?_, fun nonce r sg => ?_,
    fun hub => ⟨healthFailure s hub, rfl, healthFailure_law s hub⟩⟩
  · refine ⟨fun h => ⟨_, rfl, ?_⟩, fun hready hslots => ?_⟩
    · rcases h with h | h <;> simp [tracePoll, h]
    · have hpoll : tracePoll s read = traceDrain (readTaken s read) 16384 :=
        if_neg (by simp [hready, hslots])
      refine ⟨fun h => ⟨tracePoll s read, rfl, ?_⟩, fun r hheld hbehind => ⟨tracePoll s read, rfl, ?_⟩⟩
      · rw [hpoll]
        rcases h with h | h
        · exact traceDrain_of_empty (s := readTaken s read) h _
        · exact traceDrain_of_full ((traceFree_zero_iff read s).mpr h) _
      · have hfree : traceFree (readTaken s read) ≠ 0 := fun h => Nat.not_lt.mpr ((traceFree_zero_iff read s).mp h) hbehind
        rw [hpoll, traceDrain_one (s := readTaken s read) hheld hfree]
        exact ⟨rfl, rfl, counted_bump .., rfl⟩
  · have hflush : journalFlush s = s := hkeeps.elim (journalDrain_of_empty · _) (journalDrain_of_full · _)
    rw [hflush]
    exact journalGap_of_none hdropped
  · rw [journalFlush_one hheld hroom hdropped]
    exact ⟨rfl, rfl, dnum_dset_self ..⟩
  · intro u
    have ht : releaseInput s j = takeHeld u i := releaseInput_of_held hJ hheld
    refine ⟨fun q records hi => ⟨releaseInput s j, rfl, ?_⟩, fun fn page word sized hi => ⟨fun hpage => ⟨releaseInput s j, rfl, ?_⟩,
      fun q Q hpage => ⟨releaseInput s j, rfl, ?_⟩⟩, fun fn word sized message hi => ⟨releaseInput s j, rfl, ?_⟩,
      fun fn addr data hi => ⟨releaseInput s j, rfl, fun q key off htarget => ?_⟩, fun part tensor tile data hi => ⟨releaseInput s j, rfl, ?_⟩⟩
    · rw [ht, hi]
      rfl
    · have hu : pageQueue u fn page = none := hpage
      rw [ht, hi]
      unfold takeHeld
      dsimp only
      rw [hu]
    · have hu : pageQueue u fn page = some (q, Q) := hpage
      have htake : releaseInput s j = takeDoorbell u q (bits word.toNat 31 0) := by
        rw [ht, hi]
        unfold takeHeld
        dsimp only
        rw [hu]
      have hjournal := journal_only u 1 (moduleOf u q) q (bits word.toNat 31 0) 0 []
      have hqueue (p : Nat) : queueAt (journal u 1 (moduleOf u q) q (bits word.toNat 31 0) 0 []) p = queueAt s p :=
        hjournal.queueAt (by decide) p
      rw [htake]
      unfold takeDoorbell
      refine ⟨?_, hjournal.same .now (by decide), fun p hp => ?_, fun hQ => ?_⟩
      · have hjob : jobAt u j = some { J with replayHeld := rest } := by
          show jobAt (updJob _ j _) j = _
          unfold jobAt updJob at *
          rw [FMap.get?_modify, if_pos rfl, hJ]
          rfl
        exact (hjournal.jobAt (by decide) j).trans hjob
      · rw [queueAt_updQueue, if_neg hp, hqueue]
      · rw [queueAt_updQueue, if_pos rfl, hqueue, hQ]
        rfl
    · rw [ht, hi]
      rfl
    · rw [ht, hi]
      unfold takeHeld
      dsimp only
      rw [htarget]
    · rw [ht, hi]
      rfl
  · intro ok
    have hunlock : unlock s nonce r sg = if ok then { s with sec := { s.sec with unlocked := true } } else bump s 0x8200 5 1 := rfl
    refine ⟨fun hok => ⟨unlock s nonce r sg, rfl, hunlock.trans (if_pos hok)⟩, fun hok => ⟨unlock s nonce r sg, rfl, ?_⟩⟩
    rw [hunlock, if_neg (by rw [hok]; decide)]
    exact ⟨rfl, counted_bump ..⟩

end Sys2Proof.Machine

/-! PROOFS. Windway ports and their keys, crook links, the fabric manager and fences (R18, R327, R328, R339, R340). -/

namespace Sys2Proof.Machine

/-! ## Ports -/

@[simp] theorem portAt_updPort_self (s : State) (w : Nat) (f : Port → Port) : portAt (updPort s w f) w = f (portAt s w) := by
  simp [portAt, updPort]

theorem portAt_updPort_other (s : State) {w p : Nat} (f : Port → Port) (h : p ≠ w) : portAt (updPort s w f) p = portAt s p := by
  simp [portAt, updPort, h]

@[simp] theorem trunkAt_updTrunk_self (s : State) (d : Nat) (f : Trunk → Trunk) : trunkAt (updTrunk s d f) d = f (trunkAt s d) := by
  simp [trunkAt, updTrunk]

theorem trunkAt_of_win {s t : State} (h : t.win = s.win) (d : Nat) : trunkAt t d = trunkAt s d := by
  unfold trunkAt
  rw [h]

theorem portAt_of_win {s t : State} (h : t.win = s.win) (w : Nat) : portAt t w = portAt s w := by
  unfold portAt
  rw [h]

section Port

variable {s : State} {w : Nat}

/-- The state in which a tag failure has been logged and counted and its flit is replayed. -/
def tagCounted (s : State) (w : Nat) : State := requestFlit (bump (detectFree s w (portSource w)) (0xA010 + w) 3 1) w

theorem tagFailure_of_live (h : portState s w = 4) (again : Bool) : tagFailure s w again =
    if (if again then (portAt s w).tagFails + 1 else 1) < 8 then
      updPort (tagCounted s w) w fun p => { p with tagFails := if again then (portAt s w).tagFails + 1 else 1 }
    else inventoryChange (dset (updPort (tagCounted s w) w fun p => { p with tagFails := 0 }) (0xA010 + w) 1 2) w := by
  unfold tagFailure
  rw [if_neg (by simp [h])]
  rfl

theorem detectFree_keyKept {k : Nat} (h : k / 256 ≠ 0x7100) (s : State) (unit source : Nat) : KeyKept k s (detectFree s unit source) :=
  KeyKept.trans (t := { s with fresh := s.fresh + 1 }) rfl (detectLog_keyKept h ..)

theorem detectFree_stays (k : Nat) (s : State) (unit source : Nat) : AlarmStays k s (detectFree s unit source) :=
  AlarmStays.trans (t := { s with fresh := s.fresh + 1 }) (.of_same rfl rfl) (detectLog_stays ..)

theorem detectFree_win (s : State) (unit source : Nat) : (detectFree s unit source).win = s.win :=
  (detectFree_only s unit source).same .win (by decide)

theorem tagCounted_law (s : State) (w : Nat) :
    let a := tagCounted s w
    Counted s a (0xA010 + w) 3 1 ∧ KeyKept (dkey (0xA010 + w) 1) s a ∧ (∀ p, portAt a p = portAt s p)
      ∧ trunkAt a (trunkOf w) = { trunkAt s (trunkOf w) with replays := (trunkAt s (trunkOf w)).replays + 1 } ∧ AlarmStays 7 s a := by
  intro a
  let d := detectFree s w (portSource w)
  let b := bump d (0xA010 + w) 3 1
  have hd {k : Nat} (hk : k / 256 ≠ 0x7100) : KeyKept k s d := detectFree_keyKept hk ..
  have hflit : Only [.win] b a := requestFlit_only b w
  have hwin : b.win = s.win := detectFree_win ..
  have hcount : Counted d b (0xA010 + w) 3 1 := counted_bump ..
  refine ⟨(hcount.from_kept (hd (by unfold dkey; omega))).kept (.of_only hflit (by decide)),
    ((hd (by unfold dkey; omega)).trans (.bump _ _ _ _ (by unfold dkey; omega))).trans (.of_only hflit (by decide)),
    fun p => (portAt_updTrunk ..).trans (portAt_of_win hwin p), ?_, ?_⟩
  · show trunkAt (updTrunk b (trunkOf w) _) (trunkOf w) = _
    rw [trunkAt_updTrunk_self, trunkAt_of_win hwin]
  · exact (detectFree_stays ..).trans (.of_only ((bump_only ..).trans hflit) (by decide) (by decide))

/-- A tag failure of a live port. -/
theorem tagFailure_law (h : portState s w = 4) (again : Bool) :
    let n := if again then (portAt s w).tagFails + 1 else 1
    let t := tagFailure s w again
    Counted s t (0xA010 + w) 3 1 ∧ (∀ p, p ≠ w → portAt t p = portAt s p)
      ∧ (trunkAt t (trunkOf w)).replays = (trunkAt s (trunkOf w)).replays + 1
      ∧ (n < 8 → portState t w = 4 ∧ (portAt t w).tagFails = n) ∧ (8 ≤ n → portState t w = 2 ∧ (portAt t w).tagFails = 0 ∧ Raised s t 7) := by
  intro n t
  obtain ⟨hcount, hstate, hports, htrunk, hstays⟩ := tagCounted_law s w
  have ht : t = if n < 8 then updPort (tagCounted s w) w fun p => { p with tagFails := n }
      else inventoryChange (dset (updPort (tagCounted s w) w fun p => { p with tagFails := 0 }) (0xA010 + w) 1 2) w := tagFailure_of_live h again
  by_cases hn : n < 8
  · rw [if_pos hn] at ht
    rw [ht]
    refine ⟨hcount.kept rfl, fun p hp => (portAt_updPort_other _ _ hp).trans (hports p), ?_,
      fun _ => ⟨hstate.dnum.trans h, by rw [portAt_updPort_self]⟩, fun h8 => absurd hn (Nat.not_lt.mpr h8)⟩
    exact congrArg Trunk.replays htrunk
  · rw [if_neg hn] at ht
    let u := updPort (tagCounted s w) w fun p => { p with tagFails := 0 }
    let v := dset u (0xA010 + w) 1 2
    have hlast : Only [.dict, .tel, .pins] v t := by rw [ht]; exact inventoryChange_only ..
    have hwin : t.win = u.win := hlast.same .win (by decide)
    have hkept {k : Nat} (hk : k / 256 ≠ 0x7000) : KeyKept k v t := by rw [ht]; exact alarm_keyKept hk ..
    refine ⟨?_, fun p hp => ?_, ?_, fun h8 => absurd h8 hn, fun _ => ⟨?_, ?_, ?_⟩⟩
    · exact hcount.kept (KeyKept.trans (KeyKept.dset u _ _ _ (by unfold dkey; omega)) (hkept (by unfold dkey; omega)))
    · rw [portAt_of_win hwin, portAt_updPort_other _ _ hp, hports]
    · rw [trunkAt_of_win hwin]
      exact congrArg Trunk.replays htrunk
    · exact (hkept (by unfold dkey; omega)).dnum.trans (dnum_dset_self ..)
    · rw [portAt_of_win hwin, portAt_updPort_self]
    · have hbefore : AlarmStays 7 s v :=
        hstays.trans (.trans (t := u) (.of_same rfl rfl) (.of_only (dset_only ..) (by decide) (by decide)))
      rw [ht]
      exact hbefore.raised (alarm_raised ..)

theorem laneLoss_of_dead (h : portState s w = 0 ∨ portState s w = 5) : laneLoss s w = s := by
  unfold laneLoss
  rcases h with h | h <;> simp [h]

theorem laneLoss_of_live (h0 : portState s w ≠ 0) (h5 : portState s w ≠ 5) : laneLoss s w =
    if dnum s (0xA010 + w) 2 = 0 then dset (detectFree s w (portSource w)) (0xA010 + w) 2 1
    else inventoryChange (dset (updPort (detectFree s w (portSource w)) w fun p => { p with retryAt := none }) (0xA010 + w) 1 5) w := by
  have hspare : dnum (detectFree s w (portSource w)) (0xA010 + w) 2 = dnum s (0xA010 + w) 2 :=
    (detectFree_keyKept (by unfold dkey; omega) ..).dnum
  unfold laneLoss
  rw [if_neg (by simp [h0, h5]), ← hspare]

/-- A lane's spare takes its place. -/
theorem laneLoss_spare (h0 : portState s w ≠ 0) (h5 : portState s w ≠ 5) (h : dnum s (0xA010 + w) 2 = 0) :
    let t := laneLoss s w
    portState t w = portState s w ∧ dnum t (0xA010 + w) 2 = 1 ∧ t.win = s.win := by
  intro t
  have ht : t = dset (detectFree s w (portSource w)) (0xA010 + w) 2 1 := (laneLoss_of_live h0 h5).trans (if_pos h)
  rw [ht]
  refine ⟨?_, dnum_dset_self .., detectFree_win ..⟩
  exact ((detectFree_keyKept (by unfold dkey; omega) ..).trans (.dset _ _ _ _ (by unfold dkey; omega))).dnum

/-- With no spare lane left the port leaves service. -/
theorem laneLoss_dead (h0 : portState s w ≠ 0) (h5 : portState s w ≠ 5) (h : dnum s (0xA010 + w) 2 ≠ 0) :
    let t := laneLoss s w
    portState t w = 5 ∧ Raised s t 7 ∧ (portAt t w).retryAt = none ∧ ∀ p, p ≠ w → portAt t p = portAt s p := by
  intro t
  let d := detectFree s w (portSource w)
  let u := updPort d w fun p => { p with retryAt := none }
  let v := dset u (0xA010 + w) 1 5
  have ht : t = inventoryChange v w := (laneLoss_of_live h0 h5).trans (if_neg h)
  have hlast : Only [.dict, .tel, .pins] v t := by rw [ht]; exact inventoryChange_only ..
  have hwin : t.win = u.win := hlast.same .win (by decide)
  refine ⟨?_, ?_, by rw [portAt_of_win hwin, portAt_updPort_self], fun p hp => ?_⟩
  · have hkept : KeyKept (dkey (0xA010 + w) 1) v t := by rw [ht]; exact alarm_keyKept (by unfold dkey; omega) ..
    exact hkept.dnum.trans (dnum_dset_self ..)
  · have hbefore : AlarmStays 7 s v := (detectFree_stays 7 s w (portSource w)).trans
      (.trans (t := u) (.of_same rfl rfl) (.of_only (dset_only ..) (by decide) (by decide)))
    rw [ht]
    exact hbefore.raised (alarm_raised ..)
  · rw [portAt_of_win hwin, portAt_updPort_other _ _ hp, portAt_of_win (detectFree_win ..)]

/-! ## Keys -/

/-- The state in which the five operations of an exchange have been counted. -/
def exchangeCounted (s : State) (w : Nat) (peer : PeerHello) : State :=
  let s := bump s 0x8200 (engineSub (portHub w)) 5
  let bad := engineCheck true (.validate peer.eph)
  if 0x0701 ≤ bad && bad ≤ 0x0703 then bump s 0x8200 3 1 else s

/-- The state whose random draws an exchange has used. -/
def exchangeDrawn (s : State) (w : Nat) (peer : PeerHello) : State := drawn (drawn (exchangeCounted s w peer) 64) 48

/-- The keys of the exchange. -/
def exchangedKeys (s : State) (w : Nat) (peer : PeerHello) : List Byte :=
  let u := exchangeCounted s w peer
  linkKeys (freeBytes (drawn u 64) 48) (engineOutput (.ecdh (keyPairOf (random512 u)).1 peer.eph) 0).output

theorem exchangeDrawn_only (s : State) (w : Nat) (peer : PeerHello) : Only [.dict, .fresh] s (exchangeDrawn s w peer) := by
  unfold exchangeDrawn exchangeCounted
  exact .mono (by rfl) <| (bump_only ..).trans <| .trans (.ite (bump_only ..) (.refl _)) <| (setFresh_only _ _).trans <| setFresh_only _ _

theorem engineSub_le (hub : Hub) : engineSub hub ≤ 2 := by cases hub <;> decide

theorem exchangeDrawn_keyKept {k : Nat} (h : k / 256 ≠ 0x8200) (s : State) (w : Nat) (peer : PeerHello) :
    KeyKept k s (exchangeDrawn s w peer) := by
  have hsub := engineSub_le (portHub w)
  unfold exchangeDrawn exchangeCounted
  exact (KeyKept.bump _ _ _ _ (by unfold dkey; omega)).trans (KeyKept.trans (.ite (.bump _ _ _ _ (by unfold dkey; omega)) (.refl _)) rfl)

theorem exchangeDrawn_counted (s : State) (w : Nat) (peer : PeerHello) : Counted s (exchangeDrawn s w peer) 0x8200 (engineSub (portHub w)) 5 := by
  have hsub : dkey 0x8200 (engineSub (portHub w)) ≠ dkey 0x8200 3 := by
    cases portHub w <;> decide
  unfold exchangeDrawn exchangeCounted
  exact (counted_bump ..).kept (KeyKept.trans (.ite (.bump _ _ _ _ hsub) (.refl _)) rfl)

theorem exchangeKeys_of_keying (h : portState s w = 2 ∨ portState s w = 3) (peer : PeerHello) : exchangeKeys s w peer =
    let u := exchangeDrawn s w peer
    if helloOk s peer && (engineAt s (portHub w)).healthy then
      dset (dset (updPort u w fun p => { p with tagFails := 0, rekeys := 0, flits := 0, keys := exchangedKeys s w peer, retryAt := none })
        (0xA010 + w) 1 4) (0xA010 + w) 5 peer.module
    else alarmLog (bump (dset (updPort u w fun p => { p with keys := [], retryAt := some (s.now + 10 ^ 9) }) (0xA010 + w) 1 5) (0xA010 + w) 4 1)
      11 w (portSource w) := by
  have hnow : (exchangeDrawn s w peer).now = s.now := (exchangeDrawn_only s w peer).same .now (by decide)
  have hhello : helloOk (exchangeDrawn s w peer) peer = helloOk s peer := by
    unfold helloOk
    rw [(exchangeDrawn_keyKept (by decide) s w peer).dnum]
  have hengine : engineAt (exchangeDrawn s w peer) (portHub w) = engineAt s (portHub w) :=
    (exchangeDrawn_only s w peer).engineAt (by decide) _
  unfold exchangeKeys
  rw [if_neg (by rcases h with h | h <;> simp [h]), ← hnow, ← hhello, ← hengine]
  rfl

theorem exchangeKeys_of_other (h : ¬(portState s w = 2 ∨ portState s w = 3)) (peer : PeerHello) : exchangeKeys s w peer = s := by
  obtain ⟨h2, h3⟩ := not_or.mp h
  simp [exchangeKeys, h2, h3]

/-- An exchange that checks brings the port up. -/
theorem exchangeKeys_up (h : portState s w = 2 ∨ portState s w = 3) (peer : PeerHello) (hhello : helloOk s peer = true)
    (hhealthy : (engineAt s (portHub w)).healthy = true) :
    let t := exchangeKeys s w peer
    portState t w = 4 ∧ dnum t (0xA010 + w) 5 = peer.module ∧ (portAt t w).flits = 0 ∧ (portAt t w).tagFails = 0
      ∧ (portAt t w).retryAt = none ∧ Counted s t 0x8200 (engineSub (portHub w)) 5 ∧ ∀ p, p ≠ w → portAt t p = portAt s p := by
  intro t
  let u := exchangeDrawn s w peer
  let v := updPort u w fun p => { p with tagFails := 0, rekeys := 0, flits := 0, keys := exchangedKeys s w peer, retryAt := none }
  have ht : t = dset (dset v (0xA010 + w) 1 4) (0xA010 + w) 5 peer.module :=
    (exchangeKeys_of_keying h peer).trans (if_pos (by rw [hhello, hhealthy]; rfl))
  have hport (p : Nat) : portAt t p = portAt v p := by rw [ht]; rfl
  have hself : portAt t w = { portAt u w with tagFails := 0, rekeys := 0, flits := 0, keys := exchangedKeys s w peer, retryAt := none } := by
    rw [hport, portAt_updPort_self]
  refine ⟨?_, by rw [ht, dnum_dset_self], by rw [hself], by rw [hself], by rw [hself], ?_, fun p hp => ?_⟩
  · rw [ht, portState, dnum_dset_other _ _ _ _ _ _ (by unfold dkey; omega), dnum_dset_self]
  · have hsub := engineSub_le (portHub w)
    rw [ht]
    exact (exchangeDrawn_counted s w peer).kept (KeyKept.trans (KeyKept.dset v _ _ _ (by unfold dkey; omega)) (.dset _ _ _ _ (by unfold dkey; omega)))
  · rw [hport, portAt_updPort_other _ _ hp, portAt_of_win ((exchangeDrawn_only s w peer).same .win (by decide))]

/-- An exchange that does not check takes the port out for a second. -/
theorem exchangeKeys_out (h : portState s w = 2 ∨ portState s w = 3) (peer : PeerHello)
    (hbad : helloOk s peer = false ∨ (engineAt s (portHub w)).healthy = false) :
    let t := exchangeKeys s w peer
    portState t w = 5 ∧ (portAt t w).keys = [] ∧ (portAt t w).retryAt = some (s.now + 10 ^ 9) ∧ Counted s t (0xA010 + w) 4 1
      ∧ Raised s t 11 ∧ Counted s t 0x8200 (engineSub (portHub w)) 5 ∧ ∀ p, p ≠ w → portAt t p = portAt s p := by
  intro t
  let u := exchangeDrawn s w peer
  let v := updPort u w fun p => { p with keys := [], retryAt := some (s.now + 10 ^ 9) }
  let x := bump (dset v (0xA010 + w) 1 5) (0xA010 + w) 4 1
  have ht : t = alarmLog x 11 w (portSource w) := (exchangeKeys_of_keying h peer).trans (if_neg (by rcases hbad with hb | hb <;> simp [hb]))
  have hlast : Only [.fresh, .dict, .tel, .pins] x t := by rw [ht]; exact alarmLog_only ..
  have hkept {k : Nat} (h1 : k / 256 ≠ 0x7000) (h2 : k / 256 ≠ 0x7100) : KeyKept k x t := by rw [ht]; exact alarmLog_keyKept h1 h2 ..
  have hport (p : Nat) : portAt t p = portAt v p := portAt_of_win (hlast.same .win (by decide)) p
  have hself : portAt t w = { portAt u w with keys := [], retryAt := some (s.now + 10 ^ 9) } := by rw [hport, portAt_updPort_self]
  have hv : KeyKept (dkey (0xA010 + w) 4) s (dset v (0xA010 + w) 1 5) :=
    (exchangeDrawn_keyKept (by unfold dkey; omega) s w peer).trans (KeyKept.dset v _ _ _ (by unfold dkey; omega))
  refine ⟨?_, by rw [hself], by rw [hself], ?_, ?_, ?_, fun p hp => ?_⟩
  · rw [portState, (hkept (by unfold dkey; omega) (by unfold dkey; omega)).dnum, (KeyKept.bump _ _ _ _ (by unfold dkey; omega)).dnum, dnum_dset_self]
  · exact ((counted_bump _ _ _ _).from_kept hv).kept (hkept (by unfold dkey; omega) (by unfold dkey; omega))
  · have hbefore : AlarmStays 11 s x := (AlarmStays.of_only (exchangeDrawn_only s w peer) (by decide) (by decide)).trans
      (.trans (t := v) (.of_same rfl rfl) (.of_only ((dset_only ..).trans (bump_only ..)) (by decide) (by decide)))
    rw [ht]
    exact hbefore.raised (alarmLog_raised ..)
  · have hsub := engineSub_le (portHub w)
    have hx : KeyKept (dkey 0x8200 (engineSub (portHub w))) u x :=
      KeyKept.trans (KeyKept.dset v _ _ _ (by unfold dkey; omega)) (.bump _ _ _ _ (by unfold dkey; omega))
    exact (exchangeDrawn_counted s w peer).kept (hx.trans (hkept (by unfold dkey; omega) (by unfold dkey; omega)))
  · rw [hport, portAt_updPort_other _ _ hp, portAt_of_win ((exchangeDrawn_only s w peer).same .win (by decide))]

end Port

end Sys2Proof.Machine

/-! PROOFS. Crook links, the fabric manager, fences and their notices (R18, R340). -/

namespace Sys2Proof.Machine

/-! ## The numbers of the jobs, and spare state -/

/-- The jobs of `t` have the numbers of those of `s`, and the module is in spare state as in `s`. -/
structure JobsStand (s t : State) : Prop where
  jobs : t.jobs.map Prod.fst = s.jobs.map Prod.fst
  spare : t.win.spareState = s.win.spareState

namespace JobsStand

variable {s t u : State}

theorem refl (s : State) : JobsStand s s := ⟨rfl, rfl⟩

theorem trans (h : JobsStand s t) (g : JobsStand t u) : JobsStand s u := ⟨g.jobs.trans h.jobs, g.spare.trans h.spare⟩

theorem of_only {F : List StateField} (h : Only F s t) (hj : .jobs ∉ F) (hw : .win ∉ F) : JobsStand s t :=
  ⟨congrArg (List.map Prod.fst) (h.same .jobs hj), congrArg Windway.spareState (h.same .win hw)⟩

theorem ite {c : Prop} [Decidable c] (h : JobsStand s t) (g : JobsStand s u) : JobsStand s (if c then t else u) := by
  split <;> assumption

theorem foldl {α : Type} {f : State → α → State} (h : ∀ s a, JobsStand s (f s a)) (l : List α) (s : State) : JobsStand s (l.foldl f s) := by
  induction l generalizing s with
  | nil => exact .refl s
  | cons a l ih => exact (h s a).trans (ih _)

end JobsStand

theorem FMap.keys_modify {α : Type} (m : FMap α) (k : Nat) (f : α → α) : (FMap.modify m k f).map Prod.fst = m.map Prod.fst := by
  unfold FMap.modify
  rw [List.map_map]
  refine List.map_congr_left fun e _ => ?_
  show (if e.1 = k then (e.1, f e.2) else e).1 = e.1
  split <;> rfl

section Stand

theorem updJob_jobsStand (s : State) (j : Nat) (f : Job → Job) : JobsStand s (updJob s j f) := ⟨FMap.keys_modify .., rfl⟩

theorem sendFlits_jobsStand (s : State) (cls type dest bytes deadline : Nat) : JobsStand s (sendFlits s cls type dest bytes deadline) := by
  unfold sendFlits
  split
  · exact .refl s
  · exact .ite (.refl s) ⟨rfl, rfl⟩

theorem tellRemote_jobsStand (s : State) (q : Nat) (c : Cmd) (commit : Bool) : JobsStand s (tellRemote s q c commit) := by
  unfold tellRemote
  exact .ite (JobsStand.trans (t := { s with win := { s.win with sent := s.win.sent ++ [(q, c.uid, commit)] } }) ⟨rfl, rfl⟩
    (sendFlits_jobsStand ..)) (.refl s)

theorem holdQueue_jobsStand (s : State) (q : Nat) : JobsStand s (holdQueue s q) := by
  unfold holdQueue
  split
  · exact .refl s
  · extract_lets s1
    have h1 : JobsStand s s1 := .of_only (updQueue_only ..) (by decide) (by decide)
    exact .ite (.refl s) (.ite (h1.trans (updJob_jobsStand ..)) h1)

theorem commitRuns_jobsStand (fuel : Nat) (s : State) (q : Nat) : JobsStand s (commitRuns fuel s q) := by
  induction fuel generalizing s with
  | zero => exact .refl s
  | succ n ih =>
    unfold commitRuns
    split
    · exact .refl s
    · split
      · exact .refl s
      · next r _ _ =>
        extract_lets s1 s2
        have h2 : JobsStand s s2 := .of_only ((trace_only ..).trans ((putCompletion_only s1 q r 0).trans (updQueue_only ..)))
          (by decide) (by decide)
        exact .ite (.refl s) (((h2.trans (holdQueue_jobsStand ..)).trans (.of_only (releaseHeld_only _) (by decide) (by decide))).trans (ih _))

theorem commitRun_jobsStand (s : State) (q : Nat) : JobsStand s (commitRun s q) := by
  unfold commitRun
  split
  · exact .refl s
  · exact commitRuns_jobsStand ..

theorem logSweep_jobsStand (s : State) (q : Nat) (r : SweepRec) : JobsStand s (logSweep s q r) := by
  unfold logSweep
  split
  · exact .refl s
  · extract_lets s1
    have h1 : JobsStand s s1 := .of_only (updQueue_only ..) (by decide) (by decide)
    split
    · exact h1
    · exact h1.trans (updJob_jobsStand ..)

theorem commitOne_jobsStand (s : State) (q : Nat) (c : Cmd) (st : Status) : JobsStand s (commitOne s q c st) := by
  unfold commitOne
  extract_lets s1 s2 s3 s4 s5 s6 s7 s8 s9
  have h1 : JobsStand s s1 := .of_only (.foldl (fun _ _ => storeStaged_only ..) _ _) (by decide) (by decide)
  have h2 : JobsStand s s2 := by
    simp only [s2]
    split
    · exact h1
    · exact h1.trans (updJob_jobsStand ..)
  have h3 : JobsStand s s3 := by
    simp only [s3]
    split
    · exact h2
    · exact h2.trans (logSweep_jobsStand ..)
  have h4 : JobsStand s s4 := .ite (h3.trans (.of_only (bump_only ..) (by decide) (by decide))) h3
  have h5 : JobsStand s s5 := .ite (h4.trans (.of_only (updCore_only ..) (by decide) (by decide))) h4
  have h6 : JobsStand s s6 := h5.trans (.of_only (trace_only ..) (by decide) (by decide))
  have h7 : JobsStand s s7 := .ite (h6.trans (.of_only (putCompletion_only ..) (by decide) (by decide))) h6
  have h8 : JobsStand s s8 := h7.trans (tellRemote_jobsStand ..)
  have h9 : JobsStand s s9 := h8.trans (.of_only (updQueue_only ..) (by decide) (by decide))
  exact (h9.trans (.of_only (releaseHeld_only _) (by decide) (by decide))).trans (commitRun_jobsStand ..)

theorem reexamineOne_jobsStand (obj : Nat) (s : State) (w : Waiter) : JobsStand s (reexamineOne obj s w) := by
  unfold reexamineOne
  split
  · split
    · exact .refl s
    · split
      · exact .refl s
      · exact (JobsStand.of_only (putSync_only ..) (by decide) (by decide)).trans (commitOne_jobsStand ..)
  · exact .refl s

theorem reexamine_jobsStand (s : State) (obj : Nat) : JobsStand s (reexamine s obj) := by
  unfold reexamine
  split
  · exact .refl s
  · exact .foldl (reexamineOne_jobsStand obj) _ _

theorem abandonLocks_jobsStand (s : State) (q : Nat) : JobsStand s (abandonLocks s q) := by
  unfold abandonLocks
  refine .foldl (fun t e => ?_) _ _
  split
  · split
    · exact .refl t
    · exact (JobsStand.of_only ((putSync_only ..).trans (bump_only ..)) (by decide) (by decide)).trans (reexamine_jobsStand ..)
  · exact .refl t

theorem giveUp_jobsStand (s : State) (q : Nat) (c : Cmd) : JobsStand s (giveUp s q c) := by
  unfold giveUp
  extract_lets +onlyGivenNames s1 s2 s3 s4
  have h2 : JobsStand s s2 := .of_only ((leaveEngines_only ..).trans ((discardArray_only ..).trans
    ((withdraw_only ..).trans ((withdrawPartials_only ..).trans (endStall_only ..))))) (by decide) (by decide)
  have h3 : JobsStand s s3 := .ite (h2.trans (.of_only (countKilledArray_only ..) (by decide) (by decide))) h2
  have h4 : JobsStand s s4 := .ite (h3.trans ⟨rfl, rfl⟩) h3
  exact .ite (h4.trans (tellRemote_jobsStand ..)) h4

theorem dropCmd_jobsStand (s : State) (q : Nat) (c : Cmd) : JobsStand s (dropCmd s q c) := by
  unfold dropCmd
  exact .ite (giveUp_jobsStand ..) ((giveUp_jobsStand ..).trans (.of_only (trace_only ..) (by decide) (by decide)))

theorem resetQueue_jobsStand (s : State) (q : Nat) : JobsStand s (resetQueue s q) := by
  unfold resetQueue
  split
  · exact .refl s
  · extract_lets s1 s2 s3 s4
    have h1 : JobsStand s s1 := .foldl (fun t c => dropCmd_jobsStand t q c) _ _
    have h2 : JobsStand s s2 := h1.trans (.of_only (updQueue_only ..) (by decide) (by decide))
    have h3 : JobsStand s s3 := h2.trans (abandonLocks_jobsStand ..)
    exact h3.trans (.of_only ((updQueue_only ..).trans (releaseHeld_only _)) (by decide) (by decide))

theorem FMap.ne_of_get?_none {α : Type} {m : FMap α} {k : Nat} (h : FMap.get? m k = none) {e : Nat × α} (he : e ∈ m) : e.1 ≠ k := by
  induction m with
  | nil => exact absurd he List.not_mem_nil
  | cons x m ih =>
    unfold FMap.get? at h
    split at h
    · exact absurd h (Option.some_ne_none _)
    · next hx =>
      rcases List.mem_cons.mp he with rfl | he
      · exact hx
      · exact ih h he

theorem FMap.keys_erase {α : Type} (m : FMap α) (k : Nat) : (FMap.erase m k).map Prod.fst = (m.map Prod.fst).filter (· != k) := by
  unfold FMap.erase
  rw [List.filter_map]
  rfl

/-- The end of a job takes its number away, and leaves spare state as it is. -/
theorem endJob_jobs (s : State) (j : Nat) :
    (endJob s j).jobs.map Prod.fst = (s.jobs.map Prod.fst).filter (· != j) ∧ (endJob s j).win.spareState = s.win.spareState := by
  unfold endJob
  split
  · next hnone =>
    refine ⟨(List.filter_eq_self.mpr fun k hk => ?_).symm, rfl⟩
    obtain ⟨e, he, rfl⟩ := List.mem_map.mp hk
    exact bne_iff_ne.mpr (FMap.ne_of_get?_none hnone he)
  · next J hJ =>
    extract_lets s1 s2 s3 s4 keys s5 s6 s7 s8
    have h1 : JobsStand s s1 := .foldl (fun t q => (resetQueue_jobsStand t q).trans (.of_only (updQueue_only ..) (by decide) (by decide))) _ _
    have h4 : JobsStand s s4 := h1.trans (.of_only ((replayEnd_only ..).trans ((freeSync_only ..).trans ((uncharge_only ..).trans (uncharge_only ..))))
      (by decide) (by decide))
    have h5 : JobsStand s s5 := h4.trans (.foldl (fun t k => .of_only (freeBuf_only t k) (by decide) (by decide)) _ _)
    have h6 : JobsStand s s6 := h5.trans ⟨rfl, rfl⟩
    have h7 : JobsStand s s7 := h6.trans (.foldl (fun t e => .of_only (beginUnbind_only ..) (by decide) (by decide)) _ _)
    refine ⟨?_, h7.spare⟩
    rw [← h7.jobs]
    exact FMap.keys_erase ..

theorem foldl_endJob_jobs (l : List Nat) (s : State) :
    (l.foldl endJob s).jobs.map Prod.fst = (s.jobs.map Prod.fst).filter (fun k => !l.contains k)
      ∧ (l.foldl endJob s).win.spareState = s.win.spareState := by
  induction l generalizing s with
  | nil => exact ⟨(List.filter_eq_self.mpr fun _ _ => rfl).symm, rfl⟩
  | cons j l ih =>
    obtain ⟨hkeys, hspare⟩ := ih (endJob s j)
    obtain ⟨hj, hspare'⟩ := endJob_jobs s j
    refine ⟨?_, hspare.trans hspare'⟩
    rw [List.foldl_cons, hkeys, hj, List.filter_filter]
    refine List.filter_congr fun k _ => ?_
    rw [List.contains_cons, Bool.not_or, Bool.and_comm]
    rfl

/-- The end of every job leaves none. -/
theorem foldl_endJob_all (s : State) :
    ((s.jobs.map Prod.fst).foldl endJob s).jobs = [] ∧ ((s.jobs.map Prod.fst).foldl endJob s).win.spareState = s.win.spareState := by
  obtain ⟨hkeys, hspare⟩ := foldl_endJob_jobs (s.jobs.map Prod.fst) s
  refine ⟨List.map_eq_nil_iff.mp (hkeys.trans (List.filter_eq_nil_iff.mpr fun k hk => ?_)), hspare⟩
  simpa using hk

end Stand

/-! ## Crook links (R18) -/

section Crook

variable {s : State} {link module lanes : Nat}

/-- The state in which a link is down and the alarm raised. -/
def linkDowned (s : State) (link : Nat) : State :=
  let s := dset (dset s (0xB400 + link) 3 0) 0x1100 9 (setBit (dnum s 0x1100 9) link false)
  inventoryChange (alarmLog s 68 link (leaderSource s)) link

theorem linkLoss_down (h : linkUp s link = true) (hused : 2 < FMap.getD s.rel.crookLanes (5 * link + module) 0 + lanes) :
    linkLoss s link module lanes = checkReach (linkDowned s link) := by
  unfold linkLoss
  refine (if_neg (by rw [h]; decide)).trans (if_neg (Nat.not_le.mpr hused))

theorem linkLoss_repair (h : linkUp s link = true) (hused : FMap.getD s.rel.crookLanes (5 * link + module) 0 + lanes ≤ 2) :
    linkLoss s link module lanes = bump { s with rel := { s.rel with
      crookLanes := FMap.put 0 s.rel.crookLanes (5 * link + module) (FMap.getD s.rel.crookLanes (5 * link + module) 0 + lanes) } } (0xB400 + link) 2 lanes := by
  unfold linkLoss
  exact (if_neg (by rw [h]; decide)).trans (if_pos hused)

theorem linkDowned_law (s : State) (link : Nat) :
    let u := linkDowned s link
    u = { s with dict := u.dict, tel := u.tel, pins := u.pins, fresh := u.fresh } ∧ linkUp u link = false ∧ Raised s u 68 := by
  intro u
  let d := dset (dset s (0xB400 + link) 3 0) 0x1100 9 (setBit (dnum s 0x1100 9) link false)
  let a := alarmLog d 68 link (leaderSource d)
  have hd : Only [.dict] s d := .mono (by rfl) <| (dset_only ..).trans (dset_only ..)
  have ha : Only [.fresh, .dict, .tel, .pins] d a := alarmLog_only ..
  have hu : Only [.dict, .tel, .pins] a u := inventoryChange_only a link
  refine ⟨(Only.mono (G := [.dict, .tel, .pins, .fresh]) (by rfl) (hd.trans (ha.trans hu))).eq_overlay, ?_, ?_⟩
  · have hkept : KeyKept (dkey (0xB400 + link) 3) d u :=
      (alarmLog_keyKept (by unfold dkey; omega) (by unfold dkey; omega) ..).trans (alarm_keyKept (by unfold dkey; omega) ..)
    have hzero : dnum d (0xB400 + link) 3 = 0 := by
      rw [dnum_dset_other _ _ _ _ _ _ (by unfold dkey; omega), dnum_dset_self]
    unfold linkUp
    rw [hkept.dnum, hzero]
    rfl
  · exact ((AlarmStays.of_only hd (by decide) (by decide)).raised (alarmLog_raised ..)).stays (alarm_stays (by decide) a link)

theorem checkReach_of_reached {u : State} (h : ∀ c, c < 8 → (hubRoute (activeHub u) c).all (linkUp u) = true) : checkReach u = u := by
  have hfold (l : List Nat) (hl : ∀ c ∈ l, c < 8) :
      l.foldl (fun s c => if (hubRoute (activeHub s) c).all (linkUp s) then s else clusterOut s c) u = u := by
    induction l with
    | nil => rfl
    | cons c l ih =>
      rw [List.foldl_cons, if_pos (h c (hl c List.mem_cons_self))]
      exact ih fun x hx => hl x (List.mem_cons_of_mem _ hx)
  exact hfold _ fun c hc => List.mem_range.mp hc

end Crook

/-! ## The fabric manager (R340) -/

section Fabric

variable {s : State} {m epoch : Nat}

theorem fabricPacket_stale (h : epoch < dnum s 0xA000 4) (take : State → State) :
    fabricPacket s epoch take = { s with win := { s.win with stale := s.win.stale + 1, staleTold := s.win.staleTold ++ [epoch] } } := if_pos h

theorem fabricPacket_taken (h : dnum s 0xA000 4 ≤ epoch) (take : State → State) : fabricPacket s epoch take = take (dset s 0xA000 4 epoch) :=
  if_neg (Nat.not_lt.mpr h)

theorem candidates_of_kept {t : State} (h : KeyKept (dkey 0xA000 5) s t) : candidates t = candidates s := by
  unfold candidates dblob
  rw [h]

theorem manager_epoch (s : State) (epoch : Nat) : manager (dset s 0xA000 4 epoch) = manager s := by
  unfold manager
  rw [candidates_of_kept (.dset s 0xA000 4 epoch (by decide))]
  rfl

theorem managerRenewal_of_other (h : m ∉ candidates s) : managerRenewal s m epoch = s := by simp [managerRenewal, h]

theorem managerRenewal_of_candidate (h : m ∈ candidates s) : managerRenewal s m epoch = fabricPacket s epoch fun t =>
    { t with win := { t.win with
      manager := some (if dnum s 0xA000 4 < epoch then m else ((manager t).map fun h => min h m).getD m), missed := 0 } } := by
  unfold managerRenewal
  exact if_neg (by simp [h])

/-- A renewal at an epoch that is not stale. -/
theorem managerRenewal_taken (h : m ∈ candidates s) (he : dnum s 0xA000 4 ≤ epoch) :
    let t := managerRenewal s m epoch
    dnum t 0xA000 4 = epoch ∧ manager t = some (if dnum s 0xA000 4 < epoch then m else ((manager s).map fun h => min h m).getD m)
      ∧ t.win.missed = 0 ∧ t = { s with win := t.win, dict := t.dict } := by
  intro t
  have ht : t = _ := (managerRenewal_of_candidate h).trans (fabricPacket_taken he _)
  rw [ht]
  refine ⟨dnum_dset_self .., ?_, rfl, rfl⟩
  rw [← manager_epoch s epoch]
  rfl

theorem managerMissed_of_few (h : s.win.missed < 2) : managerMissed s = { s with win := { s.win with missed := s.win.missed + 1 } } :=
  if_pos (Nat.succ_lt_succ h)

/-- The candidates behind the one that holds the role. -/
def nextCandidates (s : State) : List Nat := ((candidates s).dropWhile fun x => some x ≠ manager s).drop 1

theorem managerMissed_last (h : 2 ≤ s.win.missed) (hnone : nextCandidates s = []) :
    managerMissed s = { s with win := { s.win with missed := 0 } } := by
  unfold nextCandidates at hnone
  unfold managerMissed
  rw [if_neg (by omega)]
  dsimp only
  rw [hnone]

theorem managerMissed_next (h : 2 ≤ s.win.missed) {x : Nat} {l : List Nat} (hnext : nextCandidates s = x :: l) :
    managerMissed s = (if x = moduleId s then bump { s with win := { s.win with missed := 0, manager := some x } } 0xA000 4 1
      else { s with win := { s.win with missed := 0, manager := some x } }) := by
  unfold nextCandidates at hnext
  unfold managerMissed
  rw [if_neg (by omega)]
  dsimp only
  rw [hnext]
  rfl

theorem fenceModule_fenced (h : dnum s 0xA000 4 ≤ epoch) :
    let t := fenceModule s m epoch false
    t = { s with win := t.win, dict := t.dict } ∧ dnum t 0xA000 4 = epoch
      ∧ FMap.get? t.win.fences m = some epoch ∧ ∀ n, n ≠ m → FMap.get? t.win.fences n = FMap.get? s.win.fences n := by
  intro t
  have ht : t = _ := fabricPacket_taken h _
  rw [ht]
  exact ⟨rfl, dnum_dset_self .., FMap.get?_set_self .., fun n hn => FMap.get?_set_other _ _ _ _ hn⟩

theorem fenceModule_lifted (h : dnum s 0xA000 4 ≤ epoch) :
    let t := fenceModule s m epoch true
    t = { s with win := t.win, dict := t.dict } ∧ dnum t 0xA000 4 = epoch
      ∧ FMap.get? t.win.fences m = none ∧ (∀ n, n ≠ m → FMap.get? t.win.fences n = FMap.get? s.win.fences n)
      ∧ t.win.spareState = (if m = moduleId s then false else s.win.spareState) := by
  have hself : moduleId (dset s 0xA000 4 epoch) = moduleId s := dnum_dset_other _ _ _ _ _ _ (by decide)
  intro t
  have ht : t = _ := fabricPacket_taken h _
  rw [ht]
  refine ⟨rfl, dnum_dset_self .., FMap.get?_erase_self .., fun n hn => FMap.get?_erase_other _ _ _ hn, ?_⟩
  rw [← hself]
  rfl

/-- A fence notice ends every job, but for a module in spare state. -/
theorem fencedNotice_law (h : dnum s 0xA000 4 ≤ epoch) :
    let t := fencedNotice s epoch
    (s.win.spareState = true → t = { s with dict := t.dict } ∧ dnum t 0xA000 4 = epoch)
      ∧ (s.win.spareState = false → t.win.spareState = true ∧ t.jobs = []) := by
  intro t
  have ht : t = _ := fabricPacket_taken h _
  refine ⟨fun hs => ?_, fun hs => ?_⟩
  · have hkeep : t = dset s 0xA000 4 epoch := ht.trans (if_pos hs)
    rw [hkeep]
    exact ⟨rfl, dnum_dset_self ..⟩
  · let u : State := { dset s 0xA000 4 epoch with win := { s.win with spareState := true } }
    have hend : t = (u.jobs.map Prod.fst).foldl endJob u := ht.trans (if_neg (show ¬s.win.spareState = true by rw [hs]; decide))
    obtain ⟨hjobs, hspare⟩ := foldl_endJob_all u
    rw [hend]
    exact ⟨hspare, hjobs⟩

end Fabric

/-- Settles O53. -/
theorem windwayPorts : Obligations.WindwayPorts := by
  refine ⟨fun s w => ?_, fun s link module lanes => ?_, fun s₀ m epoch => ?_⟩
  · intro others keys sub
    have hsub : sub = engineSub (portHub w) := rfl
    refine ⟨fun again => ⟨fun h => ⟨_, rfl, if_pos h⟩, fun h => ⟨tagFailure s w again, rfl, tagFailure_law h again⟩⟩,
      fun h => ⟨_, rfl, laneLoss_of_dead h⟩,
      fun h0 h5 => ⟨fun h => ⟨laneLoss s w, rfl, laneLoss_spare h0 h5 h⟩, fun h => ⟨laneLoss s w, rfl, laneLoss_dead h0 h5 h⟩⟩,
      fun peer h => ⟨_, rfl, exchangeKeys_of_other h peer⟩,
      fun peer h hhello hhealthy => ⟨exchangeKeys s w peer, rfl, exchangeKeys_up h peer hhello hhealthy⟩,
      fun peer h hbad => ⟨exchangeKeys s w peer, rfl, exchangeKeys_out h peer hbad⟩,
      fun h => ⟨_, rfl, if_pos h⟩, fun h => ⟨rekey s w, rfl, ?_⟩, fun h => ⟨keyRetry s w, rfl, ?_⟩, fun t0 h => ⟨keyRetry s w, rfl, ?_⟩⟩
    · have hrekey : rekey s w = drawn (updPort s w fun p => { p with keys := freeBytes s 72, flits := 0, rekeys := p.rekeys + 1 }) 72 :=
        if_neg (not_not.mpr h)
      rw [hrekey]
      have hport (p : Nat) : portAt (drawn (updPort s w fun p => { p with keys := freeBytes s 72, flits := 0, rekeys := p.rekeys + 1 }) 72) p
          = portAt (updPort s w fun p => { p with keys := freeBytes s 72, flits := 0, rekeys := p.rekeys + 1 }) p := rfl
      exact ⟨rfl, by rw [hport, portAt_updPort_self], by rw [hport, portAt_updPort_self], fun p hp => (hport p).trans (portAt_updPort_other _ _ hp)⟩
    · unfold keyRetry
      rw [h]
    · have hretry : keyRetry s w = dset (updPort { s with now := max s.now t0 } w fun p => { p with retryAt := none }) (0xA010 + w) 1 3 := by
        unfold keyRetry
        rw [h]
      rw [hretry]
      have hport (p : Nat) : portAt (dset (updPort { s with now := max s.now t0 } w fun p => { p with retryAt := none }) (0xA010 + w) 1 3) p
          = portAt (updPort { s with now := max s.now t0 } w fun p => { p with retryAt := none }) p := rfl
      exact ⟨dnum_dset_self .., by rw [hport, portAt_updPort_self], rfl, fun p hp => (hport p).trans (portAt_updPort_other _ _ hp)⟩
  · intro used
    refine ⟨fun h => ⟨linkLoss s link module lanes, rfl, if_pos (by rw [h]; rfl)⟩, fun h hused => ⟨linkLoss s link module lanes, rfl, ?_⟩,
      fun h hused => ⟨linkLoss s link module lanes, rfl, linkDowned s link, ?_⟩⟩
    · rw [linkLoss_repair h hused]
      refine ⟨rfl, ?_, counted_bump .., FMap.getD_put_self ..⟩
      have hkept : KeyKept (dkey (0xB400 + link) 3) s (linkLoss s link module lanes) := by
        rw [linkLoss_repair h hused]
        exact KeyKept.trans (t := { s with rel := { s.rel with crookLanes := FMap.put 0 s.rel.crookLanes (5 * link + module) (used + lanes) } })
          rfl (.bump _ _ _ _ (by unfold dkey; omega))
      rw [← linkLoss_repair h hused, ← h]
      unfold linkUp
      rw [hkept.dnum]
    · obtain ⟨hframe, hdown, hraised⟩ := linkDowned_law s link
      have ht : linkLoss s link module lanes = checkReach (linkDowned s link) := linkLoss_down h hused
      exact ⟨hframe, hdown, hraised, ht, fun hreach => ht.trans (checkReach_of_reached hreach)⟩
  · intro s seen stale
    refine ⟨fun h => ⟨_, rfl, managerRenewal_of_other h⟩,
      fun he => ⟨fun h => ⟨managerRenewal s m epoch, rfl, (managerRenewal_of_candidate h).trans (fabricPacket_stale he _)⟩,
        fun lift => ⟨fenceModule s m epoch lift, rfl, fabricPacket_stale he _⟩, ⟨fencedNotice s epoch, rfl, fabricPacket_stale he _⟩⟩,
      fun he h => ⟨managerRenewal s m epoch, rfl, managerRenewal_taken h he⟩, fun h => ⟨managerMissed s, rfl, managerMissed_of_few h⟩,
      fun h => ⟨managerMissed s, rfl, ?_⟩,
      fun he => ⟨⟨fenceModule s m epoch false, rfl, fenceModule_fenced he⟩, ⟨fenceModule s m epoch true, rfl, fenceModule_lifted he⟩,
        fun hs => ⟨fencedNotice s epoch, rfl, (fencedNotice_law he).1 hs⟩, fun hs => ⟨fencedNotice s epoch, rfl, (fencedNotice_law he).2 hs⟩⟩⟩
    have hcases : ∀ l, nextCandidates s = l → (managerMissed s).win.missed = 0
        ∧ managerMissed s = { s with win := (managerMissed s).win, dict := (managerMissed s).dict }
        ∧ match l with
          | [] => managerMissed s = { s with win := { s.win with missed := 0 } }
          | x :: _ => manager (managerMissed s) = some x ∧ (x = moduleId s → Counted s (managerMissed s) 0xA000 4 1)
            ∧ (x ≠ moduleId s → dnum (managerMissed s) 0xA000 4 = seen) := by
      intro l hl
      cases l with
      | nil =>
        rw [managerMissed_last h hl]
        exact ⟨rfl, rfl, rfl⟩
      | cons x l =>
        rw [managerMissed_next h hl]
        by_cases hx : x = moduleId s
        · rw [if_pos hx]
          exact ⟨rfl, rfl, rfl, fun _ => counted_bump .., fun hn => absurd hx hn⟩
        · rw [if_neg hx]
          exact ⟨rfl, rfl, rfl, fun he => absurd he hx, fun _ => rfl⟩
    exact hcases _ rfl

end Sys2Proof.Machine

/-! PROOFS. Takeover: what it gives back of a cancelled copy can undo what it counts. -/

namespace Sys2Proof.Machine

/-- A module with a promote under way whose copy is charged to a function of an undefined number, 0x5F01, so that its use of HBM
stands in the entry 0xB000.03, the counter of takeovers. -/
def chargedCopy : State :=
  { State.reset with
    tiered := [(0, { state := .promoting, charged := 0x5F01 })]
    bufs := [(0, { gen := 0, size := 64, tier := 2, cls := 0 })] }

theorem chargedCopy_follower : otherHub (leader chargedCopy) = .west ∧ chargedCopy.lease.upWest = true
    ∧ (arbiterAt chargedCopy .west).epoch = 1 ∧ dnum chargedCopy 0xB000 3 = 0
    ∧ (∀ e ∈ chargedCopy.parts, e.2.baseJob = none) ∧ (∀ e ∈ chargedCopy.queues, e.2.cmds = []) := by
  decide +kernel

/-- The charge that the takeover gives back takes its own count away. -/
theorem takeover_chargedCopy : dnum (startAfterCommit (afterReads (takeover chargedCopy))) 0xB000 3 = 0 := by decide +kernel

/-- Refutes O52: a takeover gives back what a promote under way has charged, and for a copy charged to a function whose number
is out of range that entry may be the counter of takeovers itself. -/
theorem not_leaderAndFailover : ¬ Obligations.LeaderAndFailover := by
  intro h
  obtain ⟨hfollower, hup, hepoch, hcount, hbase, hcmds⟩ := chargedCopy_follower
  obtain ⟨_, hlead, _⟩ := h
  obtain ⟨_, _, htakeover⟩ := hlead chargedCopy .west
  obtain ⟨_, _, hnew⟩ := htakeover hfollower.symm
  obtain ⟨t, ht, _, _, _, _, _, hquiet⟩ := hnew hup (by rw [hepoch]; decide)
  have hnext : startAfterCommit (afterReads (takeover chargedCopy)) = t := Host.Outcome.next.inj ht
  have hcounted := (hquiet ⟨rfl, rfl, rfl⟩ hbase hcmds).2.2
  rw [← hnext] at hcounted
  unfold Counted at hcounted
  rw [takeover_chargedCopy, hcount] at hcounted
  exact absurd hcounted (by decide)

end Sys2Proof.Machine

/-! PROOFS. Queue requests: create, reset, destroy and restart of a queue. -/

namespace Sys2Proof.Machine

/-! ## Mailboxes that only get responses -/

/-- What the requests in the mailboxes are, and how many have been consumed, is as before. -/
structure InboxKept (s t : State) : Prop where
  inbox : ∀ fn, (mboxAt t fn).inbox = (mboxAt s fn).inbox
  consumed : ∀ fn, (mboxAt t fn).consumed = (mboxAt s fn).consumed

namespace InboxKept

variable {s t u : State}

theorem refl (s : State) : InboxKept s s := ⟨fun _ => rfl, fun _ => rfl⟩

theorem trans (h : InboxKept s t) (g : InboxKept t u) : InboxKept s u :=
  ⟨fun fn => (g.inbox fn).trans (h.inbox fn), fun fn => (g.consumed fn).trans (h.consumed fn)⟩

theorem of_only {F : List StateField} (h : Only F s t) (hF : StateField.mbx ∉ F) : InboxKept s t :=
  ⟨fun fn => by rw [h.mboxAt hF], fun fn => by rw [h.mboxAt hF]⟩

theorem of_mbx (h : t.mbx = s.mbx) : InboxKept s t := by
  have hbox (fn : Nat) : mboxAt t fn = mboxAt s fn := by unfold mboxAt; rw [h]
  exact ⟨fun fn => by rw [hbox], fun fn => by rw [hbox]⟩

theorem foldl {α : Type} {f : State → α → State} (h : ∀ s a, InboxKept s (f s a)) (l : List α) (s : State) : InboxKept s (l.foldl f s) := by
  induction l generalizing s with
  | nil => exact .refl s
  | cons a l ih => exact (h s a).trans (ih _)

end InboxKept

theorem respond_inboxKept (s : State) (fn cls seq : Nat) (bytes : List Byte) : InboxKept s (respond s fn cls seq bytes) := by
  have hbox (g : Nat) : (mboxAt (respond s fn cls seq bytes) g).inbox = (mboxAt s g).inbox
      ∧ (mboxAt (respond s fn cls seq bytes) g).consumed = (mboxAt s g).consumed := by
    unfold respond
    by_cases hg : g = fn
    · rw [hg, mboxAt_updMbox_self]
      exact ⟨rfl, rfl⟩
    · rw [mboxAt_updMbox_other _ _ _ _ hg]
      exact ⟨rfl, rfl⟩
  exact ⟨fun g => (hbox g).1, fun g => (hbox g).2⟩

theorem placementDone_inboxKept (s : State) (part : Nat) (r : PlaceReq) (st : Status) (done : Nat) :
    InboxKept s (placementDone s part r st done) := by
  unfold placementDone
  exact (InboxKept.of_only (dset_only ..) (by decide)).trans (respond_inboxKept ..)

theorem endRequests_inboxKept (s : State) (part key : Nat) : InboxKept s (endRequests s part key) := by
  unfold endRequests
  split
  · exact .refl s
  · extract_lets s1
    have h1 : InboxKept s s1 := .foldl (fun t r => placementDone_inboxKept t part r 0x0212 t.now) _ _
    exact h1.trans (t := s1) (.of_mbx rfl)

theorem freeBuf_inboxKept (s : State) (key : Nat) : InboxKept s (freeBuf s key) := by
  unfold freeBuf
  split
  · exact .refl s
  · next b _ =>
    extract_lets +onlyGivenNames ver held s1 src s2
    have h1 : InboxKept s src := (endRequests_inboxKept s (keyPart key) key).trans (.of_only (clearPoison_only s1 _) (by decide))
    have h2 : InboxKept s s2 := h1.trans (t := src) (.of_mbx rfl)
    split
    · exact h2.trans (InboxKept.trans (t := { s2 with bufs := FMap.set s2.bufs (heldKey ver) { b with freed := true } }) (.of_mbx rfl)
        (.of_only (moveTiered_only ..) (by decide)))
    · exact h2.trans (.of_only (returnStorage_only ..) (by decide))

theorem beginUnbind_inboxKept (s : State) (ctx : Nat) : InboxKept s (beginUnbind s ctx) := by
  unfold beginUnbind
  split
  · exact .refl s
  · next x _ =>
    extract_lets s1
    have h1 : InboxKept s s1 := by
      simp only [s1]
      split
      · exact respond_inboxKept ..
      · exact .refl s
    exact h1.trans (.of_mbx rfl)

theorem endJob_inboxKept (s : State) (j : Nat) : InboxKept s (endJob s j) := by
  unfold endJob
  split
  · exact .refl s
  · next J _ =>
    extract_lets s1 s2 s3 s4 keys s5 s6 s7 src s8
    have h1 : InboxKept s s1 :=
      .foldl (fun t q => .of_only ((resetQueue_only t q).trans (updQueue_only ..)) (by decide)) _ _
    have h4 : InboxKept s s4 := h1.trans (.of_only ((replayEnd_only s1 J).trans ((freeSync_only s2 j).trans
      ((uncharge_only ..).trans (uncharge_only ..)))) (by decide))
    have h5 : InboxKept s s5 := h4.trans (.foldl freeBuf_inboxKept _ _)
    have h7 : InboxKept s s7 := (h5.trans (t := s5) (u := s6) (.of_mbx rfl)).trans (.foldl (f := fun t (e : Nat × Ctx) => beginUnbind t e.1) (fun t e => beginUnbind_inboxKept t e.1) _ _)
    exact (h7.trans (t := s7) (u := s8) (.of_mbx rfl)).trans (.of_only (dset_only ..) (by decide))

theorem resetWithJob_inboxKept (s : State) (q : Nat) : InboxKept s (resetWithJob s q) := by
  unfold resetWithJob
  split
  · exact .of_only (resetQueue_only ..) (by decide)
  · exact endJob_inboxKept ..

theorem destroyQueue_inboxKept (s : State) (q : Nat) : InboxKept s (destroyQueue s q) := by
  unfold destroyQueue
  split
  · exact .refl s
  · next Q _ =>
    extract_lets s1 s2 s3
    have h1 : InboxKept s s1 := (resetWithJob_inboxKept s q).trans (.foldl freeBuf_inboxKept _ _)
    have h2 : InboxKept s s2 := h1.trans (.of_mbx rfl)
    exact h2.trans ((InboxKept.of_only (dset_only s2 ..) (by decide)).trans (.of_only (dset_only s3 ..) (by decide)))

/-- A request taken from the mailbox whose run puts responses there is answered last. -/
theorem answeredLast_answer {s t : State} {fn : Nat} {m : MboxMsg} {st : Status} (n : Nat) (hin : (mboxAt s fn).inbox = [m])
    (ht : InboxKept (popMessage s fn m) t) (hst : st < 2 ^ 16) : AnsweredLast s (answer t fn m st n) fn m st := by
  obtain ⟨rest, e⟩ := answer_eq_respond t fn m st n
  have hpop : (mboxAt (popMessage s fn m) fn).inbox = [] ∧ (mboxAt (popMessage s fn m) fn).consumed
      = ((mboxAt s fn).consumed + m.frames) % 2 ^ 32 := by
    rw [popMessage, mboxAt_updMbox_self, hin]
    exact ⟨rfl, rfl⟩
  have hbox : mboxAt (answer t fn m st n) fn = { mboxAt t fn with
      held := (mboxAt t fn).held ++ [⟨m.cls, m.seq, toLe 4 (messageTag m.cls m.bytes) ++ (toLe 2 st ++ rest)⟩] } := by
    rw [e, respond, mboxAt_updMbox_self]
  refine ⟨⟨?_, ?_⟩, ⟨m.cls, m.seq, toLe 4 (messageTag m.cls m.bytes) ++ (toLe 2 st ++ rest)⟩, ?_, rfl, rfl, ?_⟩
  · rw [hbox]
    exact (ht.inbox fn).trans hpop.1
  · rw [hbox]
    exact (ht.consumed fn).trans hpop.2
  · rw [hbox]
    exact List.getLast?_concat
  · exact field_append_toLe _ rest 4 2 st (length_toLe 4 _) hst

/-- A queue request whose run puts responses into the mailbox: its own answer comes last. -/
theorem onMessage_queueRequest_last {s t : State} {fn op : Nat} {m : MboxMsg} {modes : Nat} {st : Status}
    {run : State → Nat → Nat → State × Status} (h : AtHead s fn m 1 op) (hok : queueRequestStatus s fn m.bytes modes = 0)
    (hrun : run (popMessage s fn m) (field m.bytes 8 2) (field m.bytes 1 1) = (t, st)) (ht : InboxKept (popMessage s fn m) t)
    (hlt : st < 2 ^ 16) :
    onMessage s fn 1 op (fun s m => queueRequest s fn m modes run) = answer t fn m st 0
      ∧ AnsweredLast s (answer t fn m st 0) fn m st := by
  have hq : queueRequest (popMessage s fn m) fn m modes run = answer t fn m st 0 := by simp [queueRequest, hok, hrun]
  obtain ⟨-, hin, -⟩ := id h
  have ha := answeredLast_answer 0 hin ht hlt
  have e := onMessage_of_atHead s fn 1 op m (fun s m => queueRequest s fn m modes run) h (by
    simp only [hq]; exact ha.1.1)
  exact ⟨e.trans hq, ha⟩

/-! ## Create (R306) -/

section Create

variable {s : State} {fn : Nat} {m : MboxMsg}

theorem createQueue_badField (h : requestPartOk fn m.bytes = false ∨ field m.bytes 1 1 ≠ 0) :
    createQueue s fn m = answer s fn m 0x0301 0 := by
  unfold createQueue
  exact if_pos (by rcases h with h | h <;> simp [h])

variable (hpart : requestPartOk fn m.bytes = true) (hmode : field m.bytes 1 1 = 0)
include hpart hmode

theorem createQueue_atLimit (h : dnum s (fnIndex fn) 2 ≤ dnum s (fnIndex fn) 3) : createQueue s fn m = answer s fn m 0x0802 0 := by
  unfold createQueue
  exact (if_neg (by simp [hpart, hmode])).trans (if_pos h)

variable (h : dnum s (fnIndex fn) 3 < dnum s (fnIndex fn) 2)
include h

theorem createQueue_noNumber (hfree : firstFree (FMap.has s.queues) (dnum s (0x4000 + requestPart s fn m.bytes) 2)
    (dnum s (0x4000 + requestPart s fn m.bytes) 3) = none) : createQueue s fn m = answer s fn m 0x0802 0 := by
  unfold createQueue
  refine (if_neg (by simp [hpart, hmode])).trans ((if_neg (Nat.not_le.mpr h)).trans ?_)
  rw [hfree]

/-- The queue that a descriptor gives. -/
def newQueue (s : State) (fn part : Nat) (d : List Byte) : Queue where
  part := part
  fn := fn
  page := (firstFree (fun i => (pageQueue s fn i).isSome) 0 8192).getD 0
  ringBase := field d 0 8
  cplBase := field d 8 8
  slots := field d 16 4
  ringHbm := bit (field d 20 1) 0
  cplHbm := bit (field d 20 1) 1
  vector := field d 21 1

/-- The created queue stands under its number, and both counts rise. -/
def withQueue (s : State) (fn part q : Nat) (d : List Byte) : State :=
  bump (bump { s with queues := FMap.set s.queues q (newQueue s fn part d) } (0x4000 + part) 10 1) (fnIndex fn) 3 1

variable {q : Nat} (hfree : firstFree (FMap.has s.queues) (dnum s (0x4000 + requestPart s fn m.bytes) 2)
    (dnum s (0x4000 + requestPart s fn m.bytes) 3) = some q)
include hfree

theorem createQueue_badDescriptor (hd : descriptorOk fn (slice m.bytes 64 64) = false) : createQueue s fn m = answer s fn m 0x080E 0 := by
  unfold createQueue
  refine (if_neg (by simp [hpart, hmode])).trans ((if_neg (Nat.not_le.mpr h)).trans ?_)
  rw [hfree]
  exact if_pos (by simp [hd])

theorem createQueue_created (hd : descriptorOk fn (slice m.bytes 64 64) = true) :
    createQueue s fn m = answer (withQueue s fn (requestPart s fn m.bytes) q (slice m.bytes 64 64)) fn m 0 q := by
  unfold createQueue
  refine (if_neg (by simp [hpart, hmode])).trans ((if_neg (Nat.not_le.mpr h)).trans ?_)
  rw [hfree]
  exact if_neg (by simp [hd])

end Create

/-- The low bytes of a number depend on its remainder alone. -/
theorem toLe_mod (n v : Nat) : toLe n v = toLe n (v % 256 ^ n) := by
  induction n generalizing v with
  | zero => rfl
  | succ n ih =>
    have hlow : v % 256 ^ (n + 1) % 256 = v % 256 := Nat.mod_mod_of_dvd v ⟨256 ^ n, by rw [Nat.pow_succ, Nat.mul_comm]⟩
    have hhigh : v % 256 ^ (n + 1) / 256 = v / 256 % 256 ^ n := by
      rw [Nat.pow_succ, Nat.mul_comm, Nat.mod_mul_right_div_self]
    have hbyte : BitVec.ofNat 8 v = BitVec.ofNat 8 (v % 256 ^ (n + 1)) := BitVec.eq_of_toNat_eq hlow.symm
    unfold toLe
    rw [hhigh, ← ih (v / 256), hbyte]

/-- The answer to a queue request carries its RESULT. -/
theorem answer_result (t : State) (fn : Nat) (m : MboxMsg) (st : Status) (n : Nat) (hcls : m.cls = 1) :
    ((mboxAt (answer t fn m st n) fn).held.getLast?).map (fun r => field r.bytes 8 4) = some (n % 2 ^ 32) := by
  have hanswer : answer t fn m st n = respond t fn m.cls m.seq (response32 t (messageTag m.cls m.bytes) st n) := by
    unfold answer
    exact if_neg (by simp [hcls])
  have hfield : field (response32 t (messageTag m.cls m.bytes) st n) 8 4 = n % 2 ^ 32 := by
    have hmod : toLe 4 n = toLe 4 (n % 2 ^ 32) := toLe_mod 4 n
    unfold response32
    rw [hmod, List.append_assoc, List.append_assoc, List.append_assoc, List.append_assoc, List.append_assoc, ← List.append_assoc,
      ← List.append_assoc]
    exact field_append_toLe _ _ 8 4 _ (by simp [zeros]) (Nat.mod_lt _ (by decide))
  rw [hanswer, respond, mboxAt_updMbox_self]
  simp [hfield]

theorem withQueue_queueAt (s : State) (fn part q : Nat) (d : List Byte) (p : Nat) :
    queueAt (withQueue s fn part q d) p = if p = q then some (newQueue s fn part d) else queueAt s p := by
  show FMap.get? (FMap.set s.queues q _) p = _
  split
  · next hp => rw [hp, FMap.get?_set_self]
  · next hp => exact FMap.get?_set_other _ _ _ _ hp

theorem withQueue_counted (s : State) (fn part q : Nat) (d : List Byte) :
    Counted s (withQueue s fn part q d) (0x4000 + part) 10 1 ∧ Counted s (withQueue s fn part q d) (fnIndex fn) 3 1 := by
  generalize hu : ({ s with queues := FMap.set s.queues q (newQueue s fn part d) } : State) = u
  have hdict (i j : Nat) : dnum u i j = dnum s i j := by rw [← hu]; rfl
  have hne : dkey (0x4000 + part) 10 ≠ dkey (fnIndex fn) 3 := by simp [dkey]; omega
  have hw : withQueue s fn part q d = bump (bump u (0x4000 + part) 10 1) (fnIndex fn) 3 1 := by rw [← hu]; rfl
  unfold Counted
  rw [hw, ← hdict, ← hdict]
  refine ⟨(congrArg DVal.toNat (dget_bump_other _ _ _ _ _ hne)).trans (counted_bump ..), (counted_bump ..).trans ?_⟩
  rw [show dnum (bump u (0x4000 + part) 10 1) (fnIndex fn) 3 = dnum u (fnIndex fn) 3 from
    congrArg DVal.toNat (dget_bump_other _ _ _ _ _ hne.symm)]

end Sys2Proof.Machine

/-! PROOFS. Queue requests: reset, destroy and restart of a queue, and the obligation. -/

namespace Sys2Proof.Machine

/-! ## Reset (R307) -/

/-- Queue `q` is `x`, present or not, and has no command. -/
structure IdleAs (q : Nat) (x : Option Queue) (s : State) : Prop where
  is : queueAt s q = x
  idle : ∀ Q ∈ x, Q.cmds = []

namespace IdleAs

variable {q : Nat} {x : Option Queue} {s t : State}

theorem of_some {Q : Queue} (h : queueAt s q = some Q) (hidle : Q.cmds = []) : IdleAs q (some Q) s :=
  ⟨h, fun _ hP => Option.some.inj hP ▸ hidle⟩

theorem of_none (h : queueAt s q = none) : IdleAs q none s := ⟨h, fun _ hP => absurd hP (by simp)⟩

theorem of_others {p : Nat} (h : IdleAs q x s) (ht : OtherQueues p s t) (hp : p ≠ q) : IdleAs q x t :=
  ⟨(ht.same q hp.symm).trans h.is, h.idle⟩

theorem of_queues (h : IdleAs q x s) (ht : t.queues = s.queues) : IdleAs q x t := ⟨(queueAt_of_queues _ _ q ht).trans h.is, h.idle⟩

/-- A queue without commands waits at no object. -/
theorem reexamineOne (obj : Nat) (h : IdleAs q x s) (w : Waiter) : IdleAs q x (reexamineOne obj s w) := by
  unfold Machine.reexamineOne
  split
  · next o Q' _ hQ =>
    split
    · exact h
    · next c hc =>
      split
      · exact h
      · refine (h.of_queues (t := putSync s obj _) rfl).of_others (commitOne_others ..) fun hq => ?_
        rw [hq, h.is] at hQ
        simp [cmdAt, h.idle _ hQ] at hc
  · exact h

theorem reexamine (obj : Nat) (h : IdleAs q x s) : IdleAs q x (reexamine s obj) := by
  unfold Machine.reexamine
  split
  · exact h
  · exact foldl_keeps (IdleAs q x) _ (fun t w ht => reexamineOne obj ht w) _ _ h

theorem abandonLocks (p : Nat) (h : IdleAs q x s) : IdleAs q x (abandonLocks s p) := by
  unfold Machine.abandonLocks
  refine foldl_keeps (IdleAs q x) _ (fun t e ht => ?_) _ _ h
  split
  · split
    · exact ht
    · exact (ht.of_queues (t := bump (putSync t e.1 _) 0x6F00 9 1) rfl).reexamine _
  · exact ht

end IdleAs

/-- What a reset leaves of a queue. -/
def Queue.afterReset (Q : Queue) : Queue :=
  { Q with
    cmds := [], running := none, earlierRuns := [], window := none, laterWindows := []
    gen := (Q.gen + 1) % 65536, tail := 0, head := 0, committed := 0, expected := 0, status := 0, stopped := false
    steps := 0, windowSweeps := 0, waitingSince := none, held := false, stopAt := none, heldKill := none }

theorem foldl_dropCmd_queues (q : Nat) (l : List Cmd) (s : State) : (l.foldl (fun s c => dropCmd s q c) s).queues = s.queues :=
  foldl_queues _ (fun t c => dropCmd_queues t q c) _ _

theorem resetQueue_queue {s : State} {q : Nat} {Q : Queue} (h : queueAt s q = some Q) : queueAt (resetQueue s q) q = some Q.afterReset := by
  unfold resetQueue
  split
  · next hnone => exact absurd (hnone.symm.trans h) (by simp)
  next Q' hQ' =>
  obtain rfl := Option.some.inj (hQ'.symm.trans h)
  extract_lets s1 s2 s3 s4
  have h1 : queueAt s1 q = some Q' := (queueAt_of_queues _ _ q (foldl_dropCmd_queues ..)).trans h
  have h2 : IdleAs q (some { Q' with cmds := [], running := none, earlierRuns := [], window := none, laterWindows := [] }) s2 := by
    refine .of_some ?_ rfl
    simp only [s2]
    rw [queueAt_updQueue, if_pos rfl, h1]
    rfl
  have h3 := h2.abandonLocks q
  rw [queueAt_releaseHeld]
  simp only [s4, s3]
  rw [queueAt_updQueue, if_pos rfl, h3.is]
  rfl

/-- The reset of another queue leaves a queue without commands as it is. -/
theorem IdleAs.resetQueue {q p : Nat} {x : Option Queue} {s : State} (h : IdleAs q x s) (hp : p ≠ q) : IdleAs q x (resetQueue s p) := by
  unfold Machine.resetQueue
  split
  · exact h
  · extract_lets s1 s2 s3 s4
    have h1 : IdleAs q x s1 := h.of_queues (foldl_dropCmd_queues ..)
    have h3 : IdleAs q x s3 := (h1.of_others (t := s2) (updQueue_others ..) hp).abandonLocks p
    exact (h3.of_others (t := s4) (updQueue_others ..) hp).of_queues (releaseHeld_queues _)

/-- Queue `q` is empty and serves no job. -/
def Emptied (q : Nat) (s : State) : Prop := ∃ Q, IdleAs q (some Q) s ∧ Q.runs = [] ∧ Q.job = none

theorem Emptied.of_queues {q : Nat} {s t : State} (h : Emptied q s) (ht : t.queues = s.queues) : Emptied q t := by
  obtain ⟨Q, hQ, hrest⟩ := h
  exact ⟨Q, hQ.of_queues ht, hrest⟩

/-- One queue of a job that ends. -/
def endRole (s : State) (q : Nat) : State := updQueue (resetQueue s q) q fun Q => { Q with job := none }

theorem endRole_emptied {s : State} {q : Nat} {Q : Queue} (h : queueAt s q = some Q) : Emptied q (endRole s q) := by
  refine ⟨{ Q.afterReset with job := none }, .of_some ?_ rfl, rfl, rfl⟩
  rw [endRole, queueAt_updQueue, if_pos rfl, resetQueue_queue h]
  rfl

theorem Emptied.endRole {q : Nat} {s : State} (h : Emptied q s) (p : Nat) : Emptied q (endRole s p) := by
  obtain ⟨Q, hQ, hrest⟩ := h
  by_cases hp : p = q
  · rw [hp]
    exact endRole_emptied hQ.is
  · exact ⟨Q, (hQ.resetQueue hp).of_others (updQueue_others ..) hp, hrest⟩

/-- A present queue stays present. -/
def Present (q : Nat) (s : State) : Prop := (queueAt s q).isSome = true

theorem Present.of_queues {q : Nat} {s t : State} (h : Present q s) (ht : t.queues = s.queues) : Present q t := by
  unfold Present
  rwa [queueAt_of_queues _ _ q ht]

theorem Present.updQueue {q : Nat} {s : State} (h : Present q s) (p : Nat) (f : Queue → Queue) : Present q (updQueue s p f) := by
  unfold Present
  rw [queueAt_updQueue]
  split
  · rw [Option.isSome_map]
    exact h
  · exact h

theorem Present.abandonLocks {q : Nat} {s : State} (h : Present q s) (p : Nat) : Present q (abandonLocks s p) := by
  unfold Machine.abandonLocks
  refine foldl_keeps (Present q) _ (fun t e ht => ?_) _ _ h
  split
  · split
    · exact ht
    · unfold reexamine
      split
      · exact ht.of_queues (t := bump (putSync t e.1 _) 0x6F00 9 1) rfl
      · exact foldl_reexamineOne_isSome e.1 _ _ (ht.of_queues (t := bump (putSync t e.1 _) 0x6F00 9 1) rfl)
  · exact ht

theorem Present.resetQueue {q : Nat} {s : State} (h : Present q s) (p : Nat) : Present q (resetQueue s p) := by
  unfold Machine.resetQueue
  split
  · exact h
  · extract_lets s1 s2 s3 s4
    have h1 : Present q s1 := h.of_queues (foldl_dropCmd_queues ..)
    exact (((h1.updQueue p _).abandonLocks p).updQueue p _).of_queues (releaseHeld_queues _)

theorem Present.endRole {q : Nat} {s : State} (h : Present q s) (p : Nat) : Present q (endRole s p) := (h.resetQueue p).updQueue p _

/-- Once a job's queues have been ended, each of them is empty and serves no job. -/
theorem foldl_endRole_emptied {q : Nat} (l : List Nat) (s : State) (hq : q ∈ l) (hs : Present q s) : Emptied q (l.foldl endRole s) := by
  induction l generalizing s with
  | nil => exact absurd hq List.not_mem_nil
  | cons p l ih =>
    rw [List.foldl_cons]
    by_cases hp : q = p
    · obtain ⟨Q, hQ⟩ := Option.isSome_iff_exists.mp hs
      rw [← hp]
      exact foldl_keeps (Emptied q) endRole (fun t p ht => ht.endRole p) l _ (endRole_emptied hQ)
    · exact ih _ ((List.mem_cons.mp hq).resolve_left hp) (hs.endRole p)

/-- The end of a job empties its queues, and the job is gone. -/
theorem endJob_emptied {s : State} {j q : Nat} {J : Job} (hJ : jobAt s j = some J) (hrole : q ∈ J.roles) (hq : Present q s) :
    Emptied q (endJob s j) := by
  unfold endJob
  split
  · next hnone => exact absurd (hnone.symm.trans hJ) (by simp)
  · next J' hJ' =>
    obtain rfl := Option.some.inj (hJ'.symm.trans hJ)
    extract_lets s1 s2 s3 s4 keys s5 s6 s7 src s8
    have h1 : Emptied q s1 := foldl_endRole_emptied J'.roles s hrole hq
    have h5 : Only [.dict, .parts, .bufs, .index, .tiered, .mbx, .rel, .sync, .ctxs] s1 s5 :=
      .mono (by rfl) <| (replayEnd_only s1 J').trans <| (freeSync_only s2 j).trans <| (uncharge_only ..).trans <|
        (uncharge_only ..).trans <| .foldl (fun t k => freeBuf_only t k) _ _
    have h7 : Only [.ctxs, .mbx] s6 s7 := .mono (by rfl) <| .foldl (fun t (e : Nat × Ctx) => beginUnbind_only t e.1) _ _
    exact ((h1.of_queues (h5.same .queues (by decide))).of_queues (t := s7) (h7.same .queues (by decide))).of_queues rfl

theorem endJob_gone (s : State) (j : Nat) : jobAt (endJob s j) j = none := by
  unfold endJob
  split
  · next hnone => exact hnone
  · extract_lets s1 s2 s3 s4 keys s5 s6 s7 src s8
    show FMap.get? (FMap.erase s7.jobs j) j = none
    exact FMap.get?_erase_self ..

/-! ## Destroy (R307) -/

/-- A buffer that is freed stands no more under its number; where a command holds its storage, it stands freed under the
number of its version. -/
theorem freeBuf_bufs {s : State} {k key : Nat} {b : Buf} (h : FMap.get? (freeBuf s k).bufs key = some b) :
    b.freed = true ∨ (FMap.get? s.bufs key = some b ∧ key ≠ k) := by
  unfold freeBuf at h
  split at h
  · next hnone => exact .inr ⟨h, fun hk => absurd (hnone.symm.trans (hk ▸ h)) (by simp)⟩
  · next x _ =>
    revert h
    extract_lets +onlyGivenNames ver held s1 src s2
    have h2 : FMap.get? s2.bufs key = some b → FMap.get? s.bufs key = some b ∧ key ≠ k := by
      have hsrc : src.bufs = s.bufs :=
        (clearPoison_only s1 _).same .bufs (by decide) |>.trans ((endRequests_only s (keyPart k) k).same .bufs (by decide))
      show FMap.get? (FMap.erase src.bufs k) key = some b → _
      rw [hsrc]
      intro hget
      have hk : key ≠ k := fun hk => by rw [hk, FMap.get?_erase_self] at hget; cases hget
      exact ⟨(FMap.get?_erase_other _ _ _ hk).symm.trans hget, hk⟩
    split
    · intro h
      rw [(moveTiered_only ..).same .bufs (by decide)] at h
      by_cases hver : key = heldKey ver
      · rw [hver] at h
        have hfreed := Option.some.inj ((FMap.get?_set_self ..).symm.trans h)
        exact .inl (by rw [← hfreed])
      · exact .inr (h2 ((FMap.get?_set_other _ _ _ _ hver).symm.trans h))
    · intro h
      rw [(returnStorage_only ..).same .bufs (by decide)] at h
      exact .inr (h2 h)

theorem foldl_freeBuf_bufs {l : List Nat} {s : State} {key : Nat} {b : Buf} (h : FMap.get? (l.foldl freeBuf s).bufs key = some b) :
    b.freed = true ∨ (FMap.get? s.bufs key = some b ∧ key ∉ l) := by
  induction l generalizing s with
  | nil => exact .inr ⟨h, List.not_mem_nil⟩
  | cons k l ih =>
    rcases ih h with hfreed | ⟨hget, hl⟩
    · exact .inl hfreed
    · rcases freeBuf_bufs hget with hfreed | ⟨hget, hk⟩
      · exact .inl hfreed
      · exact .inr ⟨hget, fun hmem => (List.mem_cons.mp hmem).elim hk hl⟩

/-- A queue owns no live buffer once those that it owned are freed. -/
theorem freeOwned_freed {s : State} {q key : Nat} {b : Buf} (h : FMap.get? (freeOwned s q).bufs key = some b) (howner : b.ownerQ = some q) :
    b.freed = true := by
  rcases foldl_freeBuf_bufs h with hfreed | ⟨hget, hkeys⟩
  · exact hfreed
  · refine Decidable.byContradiction fun hlive => hkeys (List.mem_map.mpr ⟨(key, b), List.mem_filter.mpr ⟨FMap.mem_of_get? hget, ?_⟩, rfl⟩)
    simp [howner, hlive]

theorem destroyQueue_eq {s : State} {q : Nat} {Q : Queue} (h : queueAt s q = some Q) :
    ∃ d, destroyQueue s q = { freeOwned (resetWithJob s q) q with queues := FMap.erase (freeOwned (resetWithJob s q) q).queues q, dict := d } := by
  unfold destroyQueue
  split
  · next hnone => exact absurd (hnone.symm.trans h) (by simp)
  · exact ⟨_, rfl⟩

theorem resetWithJob_of_none {s : State} {q : Nat} {Q : Queue} (h : queueAt s q = some Q) (hj : Q.job = none) :
    resetWithJob s q = resetQueue s q := by
  simp [resetWithJob, h, hj]

theorem resetWithJob_of_job {s : State} {q j : Nat} {Q : Queue} (h : queueAt s q = some Q) (hj : Q.job = some j) :
    resetWithJob s q = endJob s j := by
  simp [resetWithJob, h, hj]

/-! ## Restart (R308) -/

section Restart

/-- A command stands fetched again where its number is `uid`. -/
def fetchedAgain (uid : Nat) (c : Cmd) : Cmd := if c.uid = uid then { c.bare with state := .fetched } else c

theorem restartCmd_queue (s : State) (q : Nat) (c : Cmd) :
    queueAt (restartCmd s q c) q = (queueAt s q).map fun Q => { Q with cmds := Q.cmds.map (fetchedAgain c.uid) } := by
  unfold restartCmd
  extract_lets s1 s2 s3
  have h2 : s2.queues = s.queues := by
    simp only [s2]
    split <;> simp [s1]
  have h3 : queueAt s3 q = queueAt s q := queueAt_of_queues s s3 q (by
    simp only [s3]
    split <;> simp [h2])
  rw [updCmd, queueAt_updQueue, if_pos rfl, h3]
  rfl

theorem foldl_restartCmd_queue (q : Nat) (l : List Cmd) (s : State) :
    queueAt (l.foldl (fun s c => restartCmd s q c) s) q
      = (queueAt s q).map fun Q => { Q with cmds := Q.cmds.map fun d => l.foldl (fun d c => fetchedAgain c.uid d) d } := by
  induction l generalizing s with
  | nil => simp
  | cons c l ih =>
    rw [List.foldl_cons, ih, restartCmd_queue, Option.map_map]
    simp [Function.comp_def]

theorem fetchedAgain_uid (uid : Nat) (c : Cmd) : (fetchedAgain uid c).uid = c.uid := by
  unfold fetchedAgain
  split <;> rfl

theorem fetchedAgain_stream (uid : Nat) (c : Cmd) : (fetchedAgain uid c).stream = c.stream := by
  unfold fetchedAgain
  split <;> rfl

theorem foldl_fetchedAgain (l : List Cmd) (d : Cmd) :
    (l.foldl (fun d c => fetchedAgain c.uid d) d).uid = d.uid ∧ (l.foldl (fun d c => fetchedAgain c.uid d) d).stream = d.stream
      ∧ (d.state = .fetched ∨ (∃ c ∈ l, c.uid = d.uid) → (l.foldl (fun d c => fetchedAgain c.uid d) d).state = .fetched) := by
  induction l generalizing d with
  | nil => exact ⟨rfl, rfl, fun h => h.elim id fun ⟨_, hc, _⟩ => absurd hc List.not_mem_nil⟩
  | cons c l ih =>
    obtain ⟨huid, hstream, hstate⟩ := ih (fetchedAgain c.uid d)
    refine ⟨huid.trans (fetchedAgain_uid ..), hstream.trans (fetchedAgain_stream ..), fun h => hstate ?_⟩
    by_cases hc : d.uid = c.uid
    · exact .inl (by unfold fetchedAgain; rw [if_pos hc])
    · have hsame : fetchedAgain c.uid d = d := if_neg hc
      rw [hsame]
      rcases h with h | ⟨e, he, heq⟩
      · exact .inl h
      · rcases List.mem_cons.mp he with rfl | he
        · exact absurd heq.symm hc
        · exact .inr ⟨e, he, heq⟩

/-- The commands of a queue that a restart keeps: those of a stream, fetched again. -/
def restarted (cmds : List Cmd) : List Cmd :=
  (cmds.map fun d => (cmds.filter fun c => c.stream.isSome).foldl (fun d c => fetchedAgain c.uid d) d).filter fun c => c.stream.isSome

theorem restarted_uids (cmds : List Cmd) : (restarted cmds).map Cmd.uid = (cmds.filter fun c => c.stream.isSome).map Cmd.uid := by
  unfold restarted
  rw [List.filter_map, List.map_map]
  have hstream (d : Cmd) : ((fun c => c.stream.isSome) ∘ fun d => (cmds.filter fun c => c.stream.isSome).foldl (fun d c => fetchedAgain c.uid d) d) d
      = d.stream.isSome := congrArg Option.isSome (foldl_fetchedAgain _ d).2.1
  rw [List.filter_congr fun d _ => hstream d]
  exact List.map_congr_left fun d _ => (foldl_fetchedAgain _ d).1

theorem restarted_fetched {cmds : List Cmd} {c : Cmd} (h : c ∈ restarted cmds) : c.state = .fetched ∧ c.stream.isSome = true := by
  obtain ⟨hc, hstream⟩ := List.mem_filter.mp h
  obtain ⟨d, hd, rfl⟩ := List.mem_map.mp hc
  obtain ⟨_, hsame, hstate⟩ := foldl_fetchedAgain (cmds.filter fun c => c.stream.isSome) d
  rw [hsame] at hstream
  exact ⟨hstate (.inr ⟨d, List.mem_filter.mpr ⟨hd, hstream⟩, rfl⟩), by rw [hsame]; exact hstream⟩

/-- A queue that runs again, with the commands that it keeps, its head and the SEQ that it expects. -/
def Queue.resumed (Q : Queue) (cmds : List Cmd) (head expected : Nat) : Queue :=
  { Q.runWindows with stopped := false, stopAt := none, cmds, head, expected }

theorem Queue.resumed_runs (Q : Queue) (cmds : List Cmd) (head expected : Nat) : (Q.resumed cmds head expected).runs = Q.runs := rfl

theorem Queue.resumed_committed (Q : Queue) (cmds : List Cmd) (head expected : Nat) :
    (Q.resumed cmds head expected).committed = Q.committed := rfl

variable {s : State} {q : Nat} {Q : Queue} {skip : Bool} (hQ : queueAt s q = some Q)
include hQ

/-- Whether a restart would resume inside a stream. -/
def Queue.inStream (Q : Queue) : Bool := (Q.cmds.head?.any fun c => c.stream.isSome) || (Q.cmds.find? Cmd.failed).any fun c => c.stream.isSome

theorem restartQueue_refused (h : Q.stopped = false ∨ Q.quarantined = true ∨ (skip = true ∧ Q.inStream = true)) :
    restartQueue s q skip = (s, 0x080C) := by
  unfold restartQueue
  rw [hQ]
  exact if_pos (by
    rcases h with h | h | ⟨hskip, h⟩
    · simp [h]
    · simp [h]
    · unfold Queue.inStream at h
      simp [hskip, h])

variable (hstop : Q.stopped = true) (hfree : Q.quarantined = false)
include hstop hfree

theorem restartQueue_skips {f : Cmd} (hskip : skip = true) (hin : Q.inStream = false) (hf : Q.cmds.find? Cmd.failed = some f) :
    restartQueue s q skip =
      (updQueue (updQueue s q fun Q => { Q with stopped := false, stopAt := none }) q fun P =>
        { P with
          cmds := Q.cmds.takeWhile fun c => c.uid ≠ f.uid
          head := (P.head + 2 ^ 32 - ringRecords (Q.cmds.drop ((Q.cmds.takeWhile fun c => c.uid ≠ f.uid).length + 1))) % 2 ^ 32
          expected := (P.expected + 2 ^ 32 - (Q.cmds.drop ((Q.cmds.takeWhile fun c => c.uid ≠ f.uid).length + 1)).length) % 2 ^ 32
          committed := if (Q.cmds.takeWhile fun c => c.uid ≠ f.uid).isEmpty then f.seq else P.committed }, 0) := by
  unfold restartQueue
  rw [hQ]
  unfold Queue.inStream at hin
  rw [hskip]
  refine (if_neg (by simp [hstop, hfree, hin])).trans ?_
  rw [if_pos rfl, hf]

/-- What a restart does that skips no failed command. -/
theorem restartQueue_continues (h : skip = false ∨ (Q.cmds.find? Cmd.failed = none ∧ Q.inStream = false)) :
    (restartQueue s q skip).2 = 0 ∧ queueAt (restartQueue s q skip).1 q = some (Q.resumed (restarted Q.cmds)
      ((Q.head + 2 ^ 32 - ringRecords (Q.cmds.filter fun c => c.stream.isNone)) % 2 ^ 32)
      ((Q.expected + 2 ^ 32 - (Q.cmds.filter fun c => c.stream.isNone).length) % 2 ^ 32)) := by
  have hgo : (!Q.stopped || Q.quarantined || (skip && Q.inStream)) = false := by
    rcases h with h | ⟨-, h⟩ <;> simp [hstop, hfree, h]
  have hnone : (if skip then Q.cmds.find? Cmd.failed else none) = none := by
    rcases h with h | ⟨h, -⟩ <;> simp [h]
  unfold Queue.inStream at hgo
  unfold restartQueue
  rw [hQ]
  dsimp only
  rw [hgo, hnone]
  refine ⟨rfl, ?_⟩
  simp only [Bool.false_eq_true, if_false]
  rw [queueAt_releaseHeld, queueAt_updQueue, if_pos rfl, foldl_restartCmd_queue, queueAt_of_queues _ _ q (foldl_dropCmd_queues ..),
    queueAt_updQueue, if_pos rfl, hQ]
  rfl

end Restart

/-! ## The obligation -/

theorem queueRequestStatus_lt (s : State) (fn : Nat) (b : List Byte) (modes : Nat) : queueRequestStatus s fn b modes < 2 ^ 16 := by
  unfold queueRequestStatus
  split
  · decide
  split
  · decide
  split
  · decide
  split <;> decide

/-- A queue that is not the caller's is refused. -/
theorem queueRequestStatus_foreign {s : State} {fn : Nat} {b : List Byte} {Q : Queue} (hQ : queueAt s (field b 8 2) = some Q)
    (hmode : field b 1 1 ≤ 1) (hpart : requestPartOk fn b = true) (hop : field b 0 1 ≠ 5) (h : Q.part ≠ requestPart s fn b ∨ Q.fn ≠ fn) :
    queueRequestStatus s fn b 1 = 0x0803 := by
  unfold queueRequestStatus
  refine (if_neg (by simp [hpart, hmode])).trans ((if_neg (by simp [hop])).trans ?_)
  rw [hQ]
  exact if_pos (by rcases h with h | h <;> simp [h, hop])

section Settled

variable {s : State} {fn : Nat} {m : MboxMsg}

/-- A create request is answered with what the creation answers. -/
theorem queueCreate_runs {t : State} {st : Status} {n : Nat} (h : AtHead s fn m 1 1) (hrun : createQueue (popMessage s fn m) fn m = answer t fn m st n)
    (ht : mboxAt t fn = mboxAt (popMessage s fn m) fn) (hst : st < 2 ^ 16) :
    exec (.queueCreate fn) s = .next (answer t fn m st n) ∧ Answered s (answer t fn m st n) fn m st := by
  obtain ⟨-, hin, -⟩ := id h
  have ha := answered_answer s t fn m st n hin ht hst
  have hm := onMessage_of_atHead s fn 1 1 m (fun s m => createQueue s fn m) h (by
    simp only [hrun]
    exact ha.1.1)
  exact ⟨congrArg Host.Outcome.next (hm.trans hrun), ha⟩

/-- A refused create request changes no queue. -/
theorem queueCreate_refused {st : Status} (h : AtHead s fn m 1 1) (hrun : createQueue (popMessage s fn m) fn m = answer (popMessage s fn m) fn m st 0)
    (hst : st < 2 ^ 16) : Runs (.queueCreate fn) s fun t => Answered s t fn m st ∧ t.queues = s.queues := by
  obtain ⟨he, ha⟩ := queueCreate_runs h hrun rfl hst
  exact ⟨_, he, ha, answer_queues ..⟩

theorem queueCreate_created {q : Nat} (h : AtHead s fn m 1 1)
    (hrun : createQueue (popMessage s fn m) fn m
      = answer (withQueue (popMessage s fn m) fn (requestPart s fn m.bytes) q (slice m.bytes 64 64)) fn m 0 q) :
    Runs (.queueCreate fn) s fun t => Answered s t fn m 0
      ∧ ((mboxAt t fn).held.getLast?).map (fun r => field r.bytes 8 4) = some (q % 2 ^ 32)
      ∧ (∀ p, p ≠ q → queueAt t p = queueAt s p)
      ∧ Counted s t (0x4000 + requestPart s fn m.bytes) 10 1 ∧ Counted s t (fnIndex fn) 3 1
      ∧ queueAt t q = some (newQueue s fn (requestPart s fn m.bytes) (slice m.bytes 64 64)) := by
  obtain ⟨he, ha⟩ := queueCreate_runs h hrun rfl (by decide)
  obtain ⟨-, -, hcls, -⟩ := id h
  have hqueue (p : Nat) := queueAt_of_queues _ _ p (answer_queues (withQueue (popMessage s fn m) fn (requestPart s fn m.bytes) q
    (slice m.bytes 64 64)) fn m 0 q)
  have hdict (i j : Nat) : dnum (answer (withQueue (popMessage s fn m) fn (requestPart s fn m.bytes) q (slice m.bytes 64 64)) fn m 0 q) i j
      = dnum (withQueue (popMessage s fn m) fn (requestPart s fn m.bytes) q (slice m.bytes 64 64)) i j :=
    (answer_only ..).dnum (by decide) i j
  obtain ⟨hpart, hfn⟩ := withQueue_counted (popMessage s fn m) fn (requestPart s fn m.bytes) q (slice m.bytes 64 64)
  refine ⟨_, he, ha, answer_result _ fn m 0 q hcls, fun p hp => ?_, (hdict ..).trans hpart, (hdict ..).trans hfn, ?_⟩
  · rw [hqueue, withQueue_queueAt, if_neg hp]
    rfl
  · rw [hqueue, withQueue_queueAt, if_pos rfl]
    rfl

/-- The reset of a queue that serves no job. -/
theorem queueReset_alone {Q : Queue} (h : AtHead s fn m 1 3) (hQ : queueAt s (field m.bytes 8 2) = some Q)
    (hok : queueRequestStatus s fn m.bytes 1 = 0) (hj : Q.job = none) :
    Runs (.queueReset fn) s fun t => Answered s t fn m 0 ∧ queueAt t (field m.bytes 8 2) = some Q.afterReset := by
  have hpop : queueAt (popMessage s fn m) (field m.bytes 8 2) = some Q := hQ
  have hreset := resetWithJob_of_none hpop hj
  obtain ⟨he, ha⟩ := onMessage_queueRequest_run s (resetQueue (popMessage s fn m) (field m.bytes 8 2)) fn 3 m 1 0
    (fun s q _ => (resetWithJob s q, 0)) h hok (by rw [hreset]) ((resetQueue_only ..).mboxAt (by decide) fn) (by decide)
  exact ⟨_, congrArg Host.Outcome.next he, ha, (queueAt_of_queues _ _ _ (answer_queues ..)).trans (resetQueue_queue hpop)⟩

/-- The reset of a queue that serves a job ends the job. -/
theorem queueReset_withJob {Q : Queue} {j : Nat} {J : Job} (h : AtHead s fn m 1 3) (hQ : queueAt s (field m.bytes 8 2) = some Q)
    (hok : queueRequestStatus s fn m.bytes 1 = 0) (hj : Q.job = some j) (hJ : jobAt s j = some J) (hrole : field m.bytes 8 2 ∈ J.roles) :
    Runs (.queueReset fn) s fun t => AnsweredLast s t fn m 0 ∧ jobAt t j = none ∧ Emptied (field m.bytes 8 2) t := by
  have hpop : queueAt (popMessage s fn m) (field m.bytes 8 2) = some Q := hQ
  have hreset := resetWithJob_of_job hpop hj
  obtain ⟨he, ha⟩ := onMessage_queueRequest_last (t := endJob (popMessage s fn m) j) (run := fun s q _ => (resetWithJob s q, 0)) h hok
    (by rw [hreset]) (endJob_inboxKept ..) (by decide)
  refine ⟨_, congrArg Host.Outcome.next he, ha, ((answer_only ..).jobAt (by decide) j).trans (endJob_gone ..), ?_⟩
  exact (endJob_emptied (s := popMessage s fn m) hJ hrole (Option.isSome_iff_exists.mpr ⟨Q, hpop⟩)).of_queues (answer_queues ..)

/-- Destroy: the queue is gone, with its live buffers and its job. -/
theorem queueDestroy_gone {Q : Queue} (h : AtHead s fn m 1 2) (hQ : queueAt s (field m.bytes 8 2) = some Q)
    (hok : queueRequestStatus s fn m.bytes 1 = 0) :
    Runs (.queueDestroy fn) s fun t => AnsweredLast s t fn m 0 ∧ queueAt t (field m.bytes 8 2) = none
      ∧ (∀ key b, FMap.get? t.bufs key = some b → b.ownerQ = some (field m.bytes 8 2) → b.freed = true)
      ∧ ∀ j, Q.job = some j → jobAt t j = none := by
  have hpop : queueAt (popMessage s fn m) (field m.bytes 8 2) = some Q := hQ
  obtain ⟨he, ha⟩ := onMessage_queueRequest_last (t := destroyQueue (popMessage s fn m) (field m.bytes 8 2))
    (run := fun s q _ => (destroyQueue s q, 0)) h hok rfl (destroyQueue_inboxKept ..) (by decide)
  obtain ⟨d, hdestroy⟩ := destroyQueue_eq hpop
  refine ⟨_, congrArg Host.Outcome.next he, ha, ?_, fun key b hb howner => ?_, fun j hj => ?_⟩
  · rw [queueAt_of_queues _ _ _ (answer_queues ..), hdestroy]
    exact FMap.get?_erase_self ..
  · rw [(answer_only ..).same .bufs (by decide), hdestroy] at hb
    exact freeOwned_freed hb howner
  · rw [(answer_only ..).jobAt (by decide), hdestroy]
    have hgone := endJob_gone (popMessage s fn m) j
    rw [← resetWithJob_of_job hpop hj] at hgone
    exact ((freeOwned_only ..).jobAt (by decide) j).trans hgone

theorem exec_queueRestart (fn : Nat) (s : State) : exec (.queueRestart fn) s
    = .next (onMessage s fn 1 4 fun s m => queueRequest s fn m 1 fun s q mode => restartQueue s q (decide (mode = 1))) := rfl

theorem restartQueue_mbox {t : State} {q : Nat} {skip : Bool} {st : Status} (h : restartQueue s q skip = (t, st)) (fn : Nat) :
    mboxAt t fn = mboxAt s fn := by
  have ht : (restartQueue s q skip).1 = t := congrArg Prod.fst h
  rw [← ht]
  exact (restartQueue_only ..).mboxAt (by decide) fn

theorem onMessage_restart {t : State} {st : Status} (h : AtHead s fn m 1 4) (hok : queueRequestStatus s fn m.bytes 1 = 0)
    (hrun : restartQueue (popMessage s fn m) (field m.bytes 8 2) (decide (field m.bytes 1 1 = 1)) = (t, st)) (hst : st < 2 ^ 16)
    (hbox : mboxAt t fn = mboxAt (popMessage s fn m) fn) :
    onMessage s fn 1 4 (fun s m => queueRequest s fn m 1 fun s q mode => restartQueue s q (decide (mode = 1))) = answer t fn m st 0
      ∧ Answered s (answer t fn m st 0) fn m st :=
  onMessage_queueRequest_run s t fn 4 m 1 st (fun s q mode => restartQueue s q (decide (mode = 1))) h hok hrun hbox hst

/-- A restart is answered with its status. -/
theorem queueRestart_runs {t : State} {st : Status} (h : AtHead s fn m 1 4) (hok : queueRequestStatus s fn m.bytes 1 = 0)
    (hrun : restartQueue (popMessage s fn m) (field m.bytes 8 2) (decide (field m.bytes 1 1 = 1)) = (t, st)) (hst : st < 2 ^ 16) :
    exec (.queueRestart fn) s = .next (answer t fn m st 0) ∧ Answered s (answer t fn m st 0) fn m st := by
  obtain ⟨he, ha⟩ := onMessage_restart h hok hrun hst (restartQueue_mbox hrun fn)
  exact ⟨(exec_queueRestart fn s).trans (congrArg Host.Outcome.next he), ha⟩

end Settled

/-- Settles O31: each request runs at its mailbox's head and is answered with its status; a reset, a job's end and a restart are
followed queue by queue. -/
theorem queueRequests : Obligations.QueueRequests := by
  unfold Obligations.QueueRequests
  refine ⟨fun s fn m hat => ?_, fun s fn m hst => ?_, ?_, ?_, ?_⟩
  · refine ⟨fun h => queueCreate_refused hat (createQueue_badField h) (by decide), fun hpart hmode => ⟨fun h => ?_, fun h hfree => ?_,
      fun q h hfree => ⟨fun hd => ?_, fun hd => ?_⟩⟩⟩
    · exact queueCreate_refused hat (createQueue_atLimit (s := popMessage s fn m) hpart hmode h) (by decide)
    · exact queueCreate_refused hat (createQueue_noNumber (s := popMessage s fn m) hpart hmode h hfree) (by decide)
    · exact queueCreate_refused hat (createQueue_badDescriptor (s := popMessage s fn m) hpart hmode h hfree hd) (by decide)
    · obtain ⟨t, he, ha, hresult, hothers, hcpart, hcfn, hnew⟩ :=
        queueCreate_created hat (createQueue_created (s := popMessage s fn m) hpart hmode h hfree hd)
      exact ⟨t, he, ha, hresult, hothers, hcpart, hcfn, _, hnew, rfl, rfl, rfl, rfl, rfl, rfl, rfl, rfl, rfl, rfl, rfl, rfl, rfl, rfl⟩
  · have hrefused (op : Nat) (run : State → Nat → Nat → State × Status) (hat : AtHead s fn m 1 op) :=
      onMessage_queueRequest_refused s fn op m 1 run hat hst (queueRequestStatus_lt ..)
    refine ⟨fun hat => ?_, fun hat => ?_, fun hat => ?_⟩
    · obtain ⟨t, he, h⟩ := hrefused 2 (fun s q _ => (destroyQueue s q, 0)) hat
      exact ⟨t, congrArg Host.Outcome.next he, h⟩
    · obtain ⟨t, he, h⟩ := hrefused 3 (fun s q _ => (resetWithJob s q, 0)) hat
      exact ⟨t, congrArg Host.Outcome.next he, h⟩
    · obtain ⟨t, he, h⟩ := hrefused 4 (fun s q mode => restartQueue s q (mode = 1)) hat
      exact ⟨t, congrArg Host.Outcome.next he, h⟩
  · rintro s fn m q Q rfl hQ hmode hpart hop h
    exact queueRequestStatus_foreign hQ hmode hpart hop h
  · rintro s fn m q Q rfl hQ hok
    refine ⟨fun hj hat => ?_, fun j J hj hJ hrole hat => ?_, fun hat => ?_⟩
    · obtain ⟨t, he, ha, hq⟩ := queueReset_alone hat hQ hok hj
      exact ⟨t, he, ha, _, hq, rfl, rfl, rfl, rfl, rfl, rfl, rfl, rfl, rfl, rfl, rfl, rfl, rfl⟩
    · obtain ⟨t, he, ha, hgone, Q', hidle, hruns, hjob⟩ := queueReset_withJob hat hQ hok hj hJ hrole
      exact ⟨t, he, ha, hgone, Q', hidle.is, hidle.idle _ rfl, hruns, hjob⟩
    · obtain ⟨t, he, ha, hgone, hbufs, hjobs⟩ := queueDestroy_gone hat hQ hok
      exact ⟨t, he, ha, hgone, hbufs, fun j J hj _ => hjobs j hj⟩
  · rintro s fn m q Q hat rfl hQ hok
    have hpop : queueAt (popMessage s fn m) (field m.bytes 8 2) = some Q := hQ
    refine ⟨fun h => ?_, fun hstop hfree h => ?_, fun f hstop hfree hskip hin hf => ?_⟩
    · have hrun := restartQueue_refused (skip := decide (field m.bytes 1 1 = 1)) hpop h
      obtain ⟨he, ha⟩ := queueRestart_runs hat hok hrun (by decide)
      exact ⟨_, he, ha, answer_queues ..⟩
    · obtain ⟨hst, hQ'⟩ := restartQueue_continues (skip := decide (field m.bytes 1 1 = 1)) hpop hstop hfree h
      obtain ⟨he, ha⟩ := queueRestart_runs (st := 0)
        (t := (restartQueue (popMessage s fn m) (field m.bytes 8 2) (decide (field m.bytes 1 1 = 1))).1) hat hok (Prod.ext rfl hst) (by decide)
      refine ⟨_, he, ha, _, (queueAt_of_queues _ _ _ (answer_queues ..)).trans hQ', rfl, rfl, Q.resumed_committed .., Q.resumed_runs ..,
        restarted_uids ..,
        fun c hc => restarted_fetched hc, fun hruns => ?_, rfl, rfl⟩
      have hwindows : (Q.window.toList ++ Q.laterWindows).filter (fun f => Q.runs.any fun r => r.uid = f) = [] := by simp [hruns]
      unfold Queue.resumed Queue.runWindows
      rw [hwindows]
      exact ⟨rfl, rfl⟩
    · have hrun := restartQueue_skips hpop hstop hfree hskip hin hf
      obtain ⟨he, ha⟩ := queueRestart_runs hat hok hrun (by decide)
      refine ⟨_, he, ha, fun p hp => ?_, ?_⟩
      · rw [queueAt_of_queues _ _ _ (answer_queues ..), queueAt_updQueue, if_neg hp, queueAt_updQueue, if_neg hp]
        rfl
      · rw [queueAt_of_queues _ _ _ (answer_queues ..), queueAt_updQueue, if_pos rfl, queueAt_updQueue, if_pos rfl, hpop]
        rfl

end Sys2Proof.Machine

/-! PROOFS. Jobs: submission, and the end of a job. -/

namespace Sys2Proof.Machine

/-! ## What a submission leaves of the audit counter -/

/-- A fold that carries a list beside its state keeps what each of its steps keeps. -/
theorem foldl_fst_keeps {α β : Type} (P : State → Prop) (f : State × β → α → State × β) (l : List α)
    (h : ∀ p, ∀ a ∈ l, P p.1 → P (f p a).1) (p : State × β) (hp : P p.1) : P (l.foldl f p).1 := by
  induction l generalizing p with
  | nil => exact hp
  | cons a l ih => exact ih (fun p b hb => h p b (List.mem_cons_of_mem _ hb)) _ (h p a List.mem_cons_self hp)

section AuditCount

variable {k : Nat}

theorem charge_keyKept (h : k % 256 < 3 ∨ 5 < k % 256) (s : State) (part fn tier n : Nat) : KeyKept k s (charge s part fn tier n) := by
  unfold charge setCharge
  split
  · rfl
  · extract_lets s1
    have h1 : KeyKept k s s1 := .dset _ _ _ _ (by unfold dkey; split <;> omega)
    exact .ite (h1.trans (.raiseTo _ _ _ _ (by unfold dkey; omega))) h1

theorem placeBuf_keyKept (s : State) (part index align : Nat) (b : Buf) : KeyKept k s (placeBuf s part index align b) := by
  unfold placeBuf
  exact .ite rfl rfl

theorem placeBufs_keyKept (h : k % 256 < 3 ∨ 5 < k % 256) (s : State) (fn part job : Nat) (roles : List Nat) (c : List Byte) :
    KeyKept k s (placeBufs s fn part job roles c).1 := by
  unfold placeBufs
  refine foldl_fst_keeps (KeyKept k s) _ _ (fun p b _ hp => ?_) (s, []) (.refl s)
  exact .ite (hp.trans (placeBuf_keyKept ..)) ((hp.trans (placeBuf_keyKept ..)).trans (charge_keyKept h ..))

/-- The objects of a container whose entries name clusters 0 to 7 are counted in 0x6F10.01 to 0x6F10.08. -/
theorem placeSyncs_keyKept (hk : 256 * 0x6F11 ≤ k) (s : State) (part job : Nat) (c : List Byte) (h : ∀ e ∈ entriesOf c 10, ySecCluster e < 8) :
    KeyKept k s (placeSyncs s part job c).1 := by
  unfold placeSyncs
  refine foldl_fst_keeps (KeyKept k s) _ _ (fun p e he hp => ?_) (s, []) (.refl s)
  have := h e he
  split
  · exact hp
  · exact (hp.trans (t := p.1) (u := putSync p.1 _ _) rfl).trans (.bump _ _ _ _ (by unfold dkey; omega))

theorem createJob_keyKept (hk : 256 * 0x6F11 ≤ k) (h : k % 256 < 3) (s : State) (fn part : Nat) (b c : List Byte) (rings : FMap Ring)
    (digest : List Byte) (hsync : ∀ e ∈ entriesOf c 10, ySecCluster e < 8) : KeyKept k s (createJob s fn part b c rings digest) := by
  unfold createJob
  extract_lets +onlyGivenNames id roles journal recs reserved cap stores s1
  have h1 : KeyKept k s s1 := (charge_keyKept (.inl h) ..).trans (charge_keyKept (.inl h) ..)
  split
  next t handles heq =>
    have h2 : KeyKept k s t := by
      have hbufs := placeBufs_keyKept (.inl h) s1 fn part id roles c
      rw [heq] at hbufs
      exact h1.trans hbufs
    split
    next u syncs heq =>
      have h3 : KeyKept k s u := by
        have hsyncs := placeSyncs_keyKept hk t part id c hsync
        rw [heq] at hsyncs
        exact h2.trans hsyncs
      extract_lets +onlyGivenNames depth J s4 s5 s6
      have h5 : KeyKept k s s5 := (h3.trans (u := s4) rfl).trans (.of_only (.foldl (fun _ _ => updQueue_only ..) _ _) (by decide))
      have h6 : KeyKept k s s6 := .ite h5 (h5.trans ((KeyKept.dset _ _ _ _ (by unfold dkey; omega)).trans
        (.dset _ _ _ _ (by unfold dkey; omega))))
      exact h6.trans ((KeyKept.bump _ _ _ _ (by unfold dkey; omega)).trans (.dset _ _ _ _ (by unfold dkey; omega)))

/-- Erasing a sector of flash for the audit log leaves the log's own counter. -/
theorem eraseSector_keyKept (hk : 256 * 0x7001 ≤ k) (s : State) (h : Hub) (sector : Nat) : KeyKept k s (eraseSector s h sector) := by
  unfold eraseSector
  extract_lets +onlyGivenNames key n src count spare
  have hspare : spare ≤ 7 := by cases h <;> decide
  have hcount (m : Nat) : KeyKept k s (count m) := rfl
  refine .ite (hcount n) (.ite ?_ (.ite ?_ (.ite rfl (hcount _))))
  · exact (hcount 0).trans (.dset _ _ _ _ (by unfold dkey; omega))
  · exact ((hcount 100000).trans (.dset _ _ _ _ (by unfold dkey; omega))).trans (alarm_keyKept (by omega) ..)

theorem eraseAudit_keyKept (hk : 256 * 0x7001 ≤ k) (s : State) (seq : Nat) : KeyKept k s (eraseAudit s seq) := by
  unfold eraseAudit
  exact .ite ((eraseSector_keyKept hk ..).trans (eraseSector_keyKept hk ..)) (.refl s)

end AuditCount

/-- Each record of the audit log is counted once. -/
theorem auditAppend_counted (s : State) (role flags index sub event : Nat) (old new : List Byte) :
    dnum (auditAppend s role flags index sub event old new) 0x8300 1 = min (dnum s 0x8300 1 + 1) (2 ^ 64 - 1) := by
  unfold auditAppend auditAppendAt
  extract_lets seq s1 head chain s2 s3
  have h1 : KeyKept (dkey 0x8300 1) s s1 := eraseAudit_keyKept (by decide) ..
  have h3 : dnum s3 0x8300 1 = min (dnum s 0x8300 1 + 1) (2 ^ 64 - 1) := by
    have hcount := counted_bump s2 0x8300 1 1
    unfold Counted at hcount
    rw [entryMax_auditCount] at hcount
    rw [← h1.dnum]
    exact hcount
  split
  · exact (alarm_keyKept (by decide) s3 0 0 : KeyKept (dkey 0x8300 1) s3 _).dnum.trans h3
  · exact h3

theorem auditAdmission_counted (s : State) (fn jobId : Nat) (st : Status) (digest : List Byte) :
    dnum (auditAdmission s fn jobId st digest) 0x8300 1 = min (dnum s 0x8300 1 + 1) (2 ^ 64 - 1) := auditAppend_counted ..

/-! ## The job that a submission makes (R136) -/

/-- What a request and its container give a job. -/
structure JobAsSubmitted (J : Job) (fn part : Nat) (b k : List Byte) (rings : FMap Ring) (digest : List Byte) : Prop where
  part : J.part = part
  fn : J.fn = fn
  priority : J.priority = field b 1 1
  seed : J.seed = BitVec.ofNat 64 (field b 16 8)
  batch : J.batch = field b 24 8
  updates : J.updates = field b 32 6
  modules : J.modules = field b 66 2 + 1
  moduleIdx : J.moduleIdx = field b 64 2
  roles : J.roles = qRoles b
  rings : J.rings = rings
  digest : J.digest = digest
  grant : J.grant = .waiting
  nf : J.nf = 0

theorem foldl_updQueue_jobs (l : List Nat) (f : Queue → Queue) (s : State) : (l.foldl (fun s q => updQueue s q f) s).jobs = s.jobs := by
  induction l generalizing s with
  | nil => rfl
  | cons q l ih => exact ih _

theorem createJob_jobs (s : State) (fn part : Nat) (b k : List Byte) (rings : FMap Ring) (digest : List Byte) :
    ∃ J, (createJob s fn part b k rings digest).jobs = FMap.set s.jobs (qJob b) J ∧ JobAsSubmitted J fn part b k rings digest := by
  unfold createJob
  extract_lets +onlyGivenNames id roles journal recs reserved cap stores s1
  have h1 : Only [.dict, .parts] s s1 := .mono (by rfl) <| (charge_only ..).trans <| charge_only ..
  split
  next t handles heq =>
    have h2 : Only [.dict, .parts, .fresh, .bufs, .index, .tiered] s t := (Only.of_fst (h1.trans <| placeBufs_only ..) heq).mono (by rfl)
    split
    next u syncs heq =>
      have h3 : Only [.dict, .parts, .fresh, .bufs, .index, .tiered, .sync] s u :=
        (Only.of_fst (h2.trans <| placeSyncs_only ..) heq).mono (by rfl)
      extract_lets +onlyGivenNames depth J s4 s5 s6
      refine ⟨J, ?_, ⟨rfl, rfl, rfl, rfl, rfl, rfl, rfl, rfl, rfl, rfl, rfl, rfl, rfl⟩⟩
      have h5 : s5.jobs = FMap.set s.jobs id J := (foldl_updQueue_jobs ..).trans (congrArg (FMap.set · id J) (h3.same .jobs (by decide)))
      have h6 : s6.jobs = s5.jobs := by
        simp only [s6]
        split <;> rfl
      exact h6.trans h5

/-- A queue that a fold over `l` has assigned serves the job. -/
theorem foldl_serve {q id : Nat} (l : List Nat) (s : State) (h : q ∈ l ∨ ∀ Q, queueAt s q = some Q → Q.job = some id) (Q : Queue)
    (hQ : queueAt (l.foldl (fun s q => updQueue s q fun Q => { Q with job := some id }) s) q = some Q) : Q.job = some id := by
  induction l generalizing s with
  | nil => exact h.elim (fun hq => absurd hq List.not_mem_nil) fun h => h Q hQ
  | cons p l ih =>
    refine ih (updQueue s p fun Q => { Q with job := some id }) ?_ hQ
    by_cases hq : q = p
    · refine .inr fun P hP => ?_
      rw [queueAt_updQueue, if_pos hq] at hP
      obtain ⟨R, -, rfl⟩ := Option.map_eq_some_iff.mp hP
      rfl
    · refine h.imp (fun h => (List.mem_cons.mp h).resolve_left hq) fun h P hP => h P ?_
      rwa [queueAt_updQueue, if_neg hq] at hP

theorem createJob_queues {s : State} {fn part q : Nat} {b k : List Byte} {rings : FMap Ring} {digest : List Byte} {Q : Queue} (hq : q ∈ qRoles b)
    (hQ : queueAt (createJob s fn part b k rings digest) q = some Q) : Q.job = some (qJob b) := by
  unfold createJob at hQ
  revert hQ
  extract_lets +onlyGivenNames id roles journal recs reserved cap stores s1
  split
  next t handles _ =>
    split
    next u syncs _ =>
      extract_lets +onlyGivenNames depth J s4 s5 s6
      have h6 : s6.queues = s5.queues := by
        simp only [s6]
        split <;> rfl
      intro hQ
      exact foldl_serve roles s4 (.inl hq) Q ((queueAt_of_queues _ _ q h6).symm.trans hQ)

/-! ## Submission (R310, R311) -/

/-- A container that passes the checks names clusters 0 to 7 in its SYNC section. -/
theorem rangeCheck_syncs {s : State} {k : List Byte} {modules own roles : Nat} (h : rangeCheck s k modules own roles = 0) :
    ∀ e ∈ entriesOf k 10, ySecCluster e < 8 := by
  unfold rangeCheck at h
  revert h
  extract_lets reds rlen
  split
  · intro h
    cases h
  · next hall =>
    intro _ e he
    have hsync : (entriesOf k 10).all syncEntryCheck = true := by
      by_contra hn
      exact hall (by simp [hn])
    have hentry := List.all_eq_true.mp hsync e he
    unfold syncEntryCheck at hentry
    exact of_decide_eq_true (Bool.and_eq_true_iff.mp hentry).1

theorem admissionChecks_range {s : State} {fn part : Nat} {b k : List Byte} {rings : FMap Ring}
    (h : admissionChecks s fn part b k = .ok rings) : rangeCheck s k (qModules b) (qModule b) (field b 2 2) = 0 := by
  unfold admissionChecks at h
  by_contra hrange
  rw [if_pos hrange] at h
  split at h
  · cases h
  split at h
  · cases h
  split at h
  · cases h
  split at h
  · cases h
  split at h
  · cases h
  split at h <;> cases h

theorem submitChecks_range {s : State} {fn part : Nat} {b k : List Byte} {rings : FMap Ring} (h : submitChecks s fn part b k = .ok rings) :
    rangeCheck s k (qModules b) (qModule b) (field b 2 2) = 0 := by
  unfold submitChecks at h
  split at h
  · cases h
  · split at h
    · cases h
    · exact admissionChecks_range h

section Submit

variable {s : State} {fn : Nat} {m : MboxMsg} {container : List Byte}

theorem submitJob_full (h : auditFull s = true) : submitJob s fn m container = answer s fn m 0x0711 0 := by
  unfold submitJob
  exact if_pos h

theorem submitJob_refused {st : Status} (hroom : auditFull s = false)
    (h : submitChecks s fn (submitPart s fn (qRoles m.bytes)) m.bytes (container.take (field m.bytes 48 8)) = .error st) :
    submitJob s fn m container = answer (auditAdmission { s with fresh := s.fresh + 1 } fn (qJob m.bytes) st
      (sha384 (container.take (field m.bytes 48 8)))) fn m st 0 := by
  unfold submitJob
  refine (if_neg (by simp [hroom])).trans ?_
  dsimp only
  rw [h]

/-- The state in which an accepted job has been made. -/
def jobMade (s : State) (fn : Nat) (m : MboxMsg) (container : List Byte) (rings : FMap Ring) : State :=
  createJob { s with fresh := s.fresh + 1 } fn (submitPart s fn (qRoles m.bytes)) m.bytes (container.take (field m.bytes 48 8)) rings
    (sha384 (container.take (field m.bytes 48 8)))

theorem submitJob_accepted {rings : FMap Ring} (hroom : auditFull s = false)
    (h : submitChecks s fn (submitPart s fn (qRoles m.bytes)) m.bytes (container.take (field m.bytes 48 8)) = .ok rings) :
    submitJob s fn m container = answer (auditAdmission (jobMade s fn m container rings) fn (qJob m.bytes) 0
      (sha384 (container.take (field m.bytes 48 8)))) fn m 0 0 := by
  unfold submitJob
  refine (if_neg (by simp [hroom])).trans ?_
  dsimp only
  rw [h]
  rfl

theorem jobMade_only (s : State) (fn : Nat) (m : MboxMsg) (container : List Byte) (rings : FMap Ring) :
    Only [.fresh, .dict, .queues, .jobs, .parts, .bufs, .index, .tiered, .sync] s (jobMade s fn m container rings) :=
  .mono (by rfl) <| (setFresh_only s _).trans <| createJob_only ..

theorem jobMade_jobs (s : State) (fn : Nat) (m : MboxMsg) (container : List Byte) (rings : FMap Ring) :
    ∃ J, (jobMade s fn m container rings).jobs = FMap.set s.jobs (qJob m.bytes) J
      ∧ JobAsSubmitted J fn (submitPart s fn (qRoles m.bytes)) m.bytes (container.take (field m.bytes 48 8)) rings
        (sha384 (container.take (field m.bytes 48 8))) :=
  createJob_jobs { s with fresh := s.fresh + 1 } ..

theorem jobMade_counted {rings : FMap Ring}
    (h : submitChecks s fn (submitPart s fn (qRoles m.bytes)) m.bytes (container.take (field m.bytes 48 8)) = .ok rings) :
    dnum (jobMade s fn m container rings) 0x8300 1 = dnum s 0x8300 1 := by
  have hkept : KeyKept (dkey 0x8300 1) { s with fresh := s.fresh + 1 } (jobMade s fn m container rings) :=
    createJob_keyKept (by decide) (by decide) _ _ _ _ _ _ _ (rangeCheck_syncs (submitChecks_range h))
  exact hkept.dnum

/-- A submission is answered with its status. -/
theorem jobSubmit_runs {t : State} {st : Status} (h : AtHead s fn m 2 1) (hrun : submitJob (popMessage s fn m) fn m container = answer t fn m st 0)
    (ht : mboxAt t fn = mboxAt (popMessage s fn m) fn) (hst : st < 2 ^ 16) :
    exec (.jobSubmit fn container) s = .next (answer t fn m st 0) ∧ Answered s (answer t fn m st 0) fn m st := by
  obtain ⟨-, hin, -⟩ := id h
  have ha := answered_answer s t fn m st 0 hin ht hst
  have hm := onMessage_of_atHead s fn 2 1 m (fun s m => submitJob s fn m container) h (by
    simp only [hrun]
    exact ha.1.1)
  exact ⟨congrArg Host.Outcome.next (hm.trans hrun), ha⟩

/-- A submission that a check refuses makes no job and leaves one audit record. -/
theorem jobSubmit_refused {st : Status} (h : AtHead s fn m 2 1) (hroom : auditFull s = false) (hst : st < 2 ^ 16)
    (hchecks : submitChecks (popMessage s fn m) fn (submitPart (popMessage s fn m) fn (qRoles m.bytes)) m.bytes
      (container.take (field m.bytes 48 8)) = .error st) :
    Runs (.jobSubmit fn container) s fun t => Answered s t fn m st ∧ t.jobs = s.jobs ∧ t.queues = s.queues
      ∧ dnum t 0x8300 1 = min (dnum s 0x8300 1 + 1) (2 ^ 64 - 1) := by
  have hrun := submitJob_refused (s := popMessage s fn m) hroom hchecks
  have hfresh := setFresh_only (popMessage s fn m) ((popMessage s fn m).fresh + 1)
  generalize ({ popMessage s fn m with fresh := (popMessage s fn m).fresh + 1 } : State) = u at hrun hfresh
  have haudit := hfresh.trans (auditAdmission_only u fn (qJob m.bytes) st (sha384 (container.take (field m.bytes 48 8))))
  have hcount := auditAdmission_counted u fn (qJob m.bytes) st (sha384 (container.take (field m.bytes 48 8)))
  rw [hfresh.dnum (by decide)] at hcount
  obtain ⟨he, ha⟩ := jobSubmit_runs h hrun (haudit.mboxAt (by decide) fn) hst
  exact ⟨_, he, ha, ((answer_only ..).same .jobs (by decide)).trans (haudit.same .jobs (by decide)),
    (answer_queues ..).trans (haudit.same .queues (by decide)), ((answer_only ..).dnum (by decide) _ _).trans hcount⟩

/-- A submission that passes its checks. -/
theorem jobSubmit_accepted {rings : FMap Ring} (h : AtHead s fn m 2 1) (hroom : auditFull s = false)
    (hchecks : submitChecks (popMessage s fn m) fn (submitPart (popMessage s fn m) fn (qRoles m.bytes)) m.bytes
      (container.take (field m.bytes 48 8)) = .ok rings) :
    Runs (.jobSubmit fn container) s fun t => Answered s t fn m 0
      ∧ (∃ J, t.jobs = FMap.set s.jobs (field m.bytes 8 8) J
        ∧ JobAsSubmitted J fn (submitPart (popMessage s fn m) fn (qRoles m.bytes)) m.bytes (container.take (field m.bytes 48 8)) rings
          (sha384 (container.take (field m.bytes 48 8))))
      ∧ (∀ q ∈ qRoles m.bytes, ∀ Q, queueAt t q = some Q → Q.job = some (field m.bytes 8 8))
      ∧ dnum t 0x8300 1 = min (dnum s 0x8300 1 + 1) (2 ^ 64 - 1) := by
  have hrun := submitJob_accepted (s := popMessage s fn m) hroom hchecks
  have honly := jobMade_only (popMessage s fn m) fn m container rings
  have hdict := jobMade_counted hchecks
  obtain ⟨J, hjobs, hJ⟩ := jobMade_jobs (popMessage s fn m) fn m container rings
  have hserve (q : Nat) (hq : q ∈ qRoles m.bytes) (Q : Queue)
      (hQ : queueAt (jobMade (popMessage s fn m) fn m container rings) q = some Q) : Q.job = some (field m.bytes 8 8) :=
    createJob_queues hq hQ
  generalize jobMade (popMessage s fn m) fn m container rings = u at hrun honly hdict hjobs hserve
  have haudit := auditAdmission_only u fn (qJob m.bytes) 0 (sha384 (container.take (field m.bytes 48 8)))
  have hcount := auditAdmission_counted u fn (qJob m.bytes) 0 (sha384 (container.take (field m.bytes 48 8)))
  rw [hdict] at hcount
  obtain ⟨he, ha⟩ := jobSubmit_runs h hrun ((haudit.mboxAt (by decide) fn).trans (honly.mboxAt (by decide) fn)) (by decide)
  refine ⟨_, he, ha, ⟨J, ?_, hJ⟩, fun q hq Q hQ => ?_, ((answer_only ..).dnum (by decide) _ _).trans hcount⟩
  · exact ((answer_only ..).same .jobs (by decide)).trans ((haudit.same .jobs (by decide)).trans hjobs)
  · rw [queueAt_of_queues _ _ q (answer_queues ..), haudit.queueAt (by decide)] at hQ
    exact hserve q hq Q hQ

end Submit

/-! ## End of a job (R311) -/

/-- A queue that is not there stays away. -/
theorem foldl_endRole_absent {q : Nat} (l : List Nat) {s : State} (h : IdleAs q none s) : IdleAs q none (l.foldl endRole s) := by
  refine foldl_keeps (IdleAs q none) endRole (fun t p ht => ?_) l s h
  have hreset : IdleAs q none (resetQueue t p) := by
    by_cases hp : p = q
    · have hsame : resetQueue t p = t := by
        unfold resetQueue
        rw [hp, ht.is]
      rw [hsame]
      exact ht
    · exact ht.resetQueue hp
  refine .of_none ?_
  rw [endRole, queueAt_updQueue, hreset.is]
  split <;> rfl

/-- What the end of a job does to the queues is done with the end of its roles. -/
theorem endJob_queues {s : State} {j : Nat} {J : Job} (hJ : jobAt s j = some J) : (endJob s j).queues = (J.roles.foldl endRole s).queues := by
  unfold endJob
  split
  · next hnone => exact absurd (hnone.symm.trans hJ) (by simp)
  · next J' hJ' =>
    obtain rfl := Option.some.inj (hJ'.symm.trans hJ)
    extract_lets s1 s2 s3 s4 keys s5 s6 s7 src s8
    have h5 : Only [.dict, .parts, .bufs, .index, .tiered, .mbx, .rel, .sync, .ctxs] s1 s5 :=
      .mono (by rfl) <| (replayEnd_only s1 J').trans <| (freeSync_only s2 j).trans <| (uncharge_only ..).trans <|
        (uncharge_only ..).trans <| .foldl (fun t k => freeBuf_only t k) _ _
    have h7 : Only [.ctxs, .mbx] s6 s7 := .mono (by rfl) <| .foldl (fun t (e : Nat × Ctx) => beginUnbind_only t e.1) _ _
    exact (h7.same .queues (by decide) : s7.queues = s6.queues).trans (h5.same .queues (by decide))

/-- The queues of a job that has ended are empty and serve none. -/
theorem endJob_roles {s : State} {j q : Nat} {J : Job} (hJ : jobAt s j = some J) (hq : q ∈ J.roles) {Q : Queue}
    (hQ : queueAt (endJob s j) q = some Q) : Q.job = none ∧ Q.cmds = [] := by
  rw [queueAt_of_queues _ _ q (endJob_queues hJ)] at hQ
  cases hpresent : queueAt s q with
  | none => exact absurd ((foldl_endRole_absent J.roles (.of_none hpresent)).is.symm.trans hQ) (by simp)
  | some P =>
    obtain ⟨P', hidle, -, hjob⟩ := foldl_endRole_emptied J.roles s hq (Option.isSome_iff_exists.mpr ⟨P, hpresent⟩)
    obtain rfl := Option.some.inj (hidle.is.symm.trans hQ)
    exact ⟨hjob, hidle.idle _ rfl⟩

/-- The end of a job frees its sync objects. -/
theorem endJob_sync {s : State} {j o : Nat} {J : Job} (hJ : jobAt s j = some J) {O : SyncObj} (hO : syncAt (endJob s j) o = some O) :
    O.job ≠ j := by
  unfold endJob at hO
  split at hO
  · next hnone => exact absurd (hnone.symm.trans hJ) (by simp)
  · next J' _ =>
    revert hO
    extract_lets s1 s2 s3 s4 keys s5 s6 s7 src s8
    have h3 : ∀ e ∈ s3.sync, e.2.job ≠ j := by
      have hfree : s3.sync = s2.sync.filter fun e => e.2.job ≠ j := by
        simp only [s3, freeSync]
        exact (Only.foldl (F := [.dict]) (fun _ _ => dset_only ..) _ _).same .sync (by decide)
      intro e he
      rw [hfree] at he
      exact of_decide_eq_true (List.mem_filter.mp he).2
    have h7 : Only [.dict, .parts, .bufs, .index, .tiered, .mbx, .rel] s3 s5 :=
      .mono (by rfl) <| (uncharge_only ..).trans <| (uncharge_only ..).trans <| .foldl (fun t k => freeBuf_only t k) _ _
    have h8 : Only [.ctxs, .mbx] s6 s7 := .mono (by rfl) <| .foldl (fun t (e : Nat × Ctx) => beginUnbind_only t e.1) _ _
    intro hO
    have hsync : s8.sync = s3.sync := (h8.same .sync (by decide) : s7.sync = s6.sync).trans (h7.same .sync (by decide))
    exact h3 _ (hsync ▸ FMap.mem_of_get? hO)

/-- The cores that a job keeps at its end are being zeroed. -/
theorem endJob_cores {s : State} {j k : Nat} {J : Job} (hJ : jobAt s j = some J) (hk : (coreAt (endJob s j) k).holder = some j) :
    (coreAt (endJob s j) k).zeroing = true := by
  have hcores : ∃ m now, (endJob s j).cores = FMap.mapVal m fun _ k =>
      if k.holder = some j && !k.zeroing then { k with holder := none, idleSince := now } else k := by
    unfold endJob
    split
    · next hnone => exact absurd (hnone.symm.trans hJ) (by simp)
    · exact ⟨_, _, rfl⟩
  obtain ⟨m, now, hcores⟩ := hcores
  unfold coreAt FMap.getD at hk ⊢
  rw [hcores, FMap.get?_mapVal] at hk ⊢
  cases hget : FMap.get? m k with
  | none =>
    rw [hget] at hk
    cases hk
  | some x =>
    rw [hget] at hk
    revert hk
    show (if x.holder = some j && !x.zeroing then _ else x).holder = some j → (if x.holder = some j && !x.zeroing then _ else x).zeroing = true
    split
    · intro hk
      cases hk
    · next hkeeps =>
      intro hk
      simpa [hk] using hkeeps

theorem endJob_others {s : State} {i j : Nat} (h : i ≠ j) : (jobAt (endJob s j) i).isSome = (jobAt s i).isSome := by
  have hmem (u : State) : (jobAt u i).isSome = decide (i ∈ u.jobs.map Prod.fst) := by
    unfold jobAt
    cases hget : FMap.get? u.jobs i with
    | none =>
      refine (decide_eq_false fun hi => ?_).symm
      obtain ⟨e, he, hei⟩ := List.mem_map.mp hi
      exact FMap.ne_of_get?_none hget he hei
    | some J => exact (decide_eq_true (List.mem_map.mpr ⟨_, FMap.mem_of_get? hget, rfl⟩)).symm
  rw [hmem, hmem, (endJob_jobs s j).1]
  simp [h]

section EndRequest

variable {s : State} {fn : Nat} {m : MboxMsg}

theorem endRequest_badMode (h : 1 < field m.bytes 38 2) : endRequest s fn m = answer s fn m 0x0301 0 := by
  unfold endRequest
  exact if_pos h

theorem endRequest_foreign (hmode : field m.bytes 38 2 ≤ 1) (h : ((jobAt s (field m.bytes 8 8)).any fun J => J.fn = fn) = false) :
    endRequest s fn m = answer s fn m 0x0803 0 := by
  unfold endRequest qJob
  refine (if_neg (Nat.not_lt.mpr hmode)).trans (if_pos ?_)
  rw [h]
  rfl

theorem endRequest_ends {J : Job} (hmode : field m.bytes 38 2 ≤ 1) (hJ : jobAt s (field m.bytes 8 8) = some J) (hfn : J.fn = fn) :
    endRequest s fn m = answer (endJob s (field m.bytes 8 8)) fn m 0 0 := by
  unfold endRequest qJob
  refine (if_neg (Nat.not_lt.mpr hmode)).trans (if_neg ?_)
  simp [hJ, hfn]

/-- A refused end request changes nothing but the mailbox. -/
theorem jobEnd_refused {st : Status} (h : AtHead s fn m 2 2) (hrun : endRequest (popMessage s fn m) fn m = answer (popMessage s fn m) fn m st 0)
    (hst : st < 2 ^ 16) : Runs (.jobEnd fn) s fun t => Answered s t fn m st ∧ t.jobs = s.jobs ∧ t.queues = s.queues := by
  obtain ⟨-, hin, -⟩ := id h
  have ha := answered_answer s (popMessage s fn m) fn m st 0 hin rfl hst
  have hm := onMessage_of_atHead s fn 2 2 m (fun s m => endRequest s fn m) h (by
    simp only [hrun]
    exact ha.1.1)
  exact ⟨_, congrArg Host.Outcome.next (hm.trans hrun), ha, (answer_only ..).same .jobs (by decide), answer_queues ..⟩

theorem jobEnd_ends {J : Job} (h : AtHead s fn m 2 2) (hmode : field m.bytes 38 2 ≤ 1) (hJ : jobAt s (field m.bytes 8 8) = some J)
    (hfn : J.fn = fn) : exec (.jobEnd fn) s = .next (answer (endJob (popMessage s fn m) (field m.bytes 8 8)) fn m 0 0)
      ∧ AnsweredLast s (answer (endJob (popMessage s fn m) (field m.bytes 8 8)) fn m 0 0) fn m 0 := by
  obtain ⟨-, hin, -⟩ := id h
  have hrun := endRequest_ends (s := popMessage s fn m) hmode hJ hfn
  have ha := answeredLast_answer (s := s) 0 hin (endJob_inboxKept (popMessage s fn m) (field m.bytes 8 8)) (by decide : (0 : Status) < 2 ^ 16)
  have hm := onMessage_of_atHead s fn 2 2 m (fun s m => endRequest s fn m) h (by
    simp only [hrun]
    exact ha.1.1)
  exact ⟨congrArg Host.Outcome.next (hm.trans hrun), ha⟩

end EndRequest

/-! ## The obligation -/

/-- Settles O33: a submission runs its checks on the state behind its message, and the end of a job is read off the job's queues,
objects and cores one by one. -/
theorem jobSubmitAndEnd : Obligations.JobSubmitAndEnd := by
  unfold Obligations.JobSubmitAndEnd
  refine ⟨fun s fn m container hat => ⟨fun hfull => ?_, fun st hroom hchecks hst => ?_, fun rings hroom hchecks => ?_⟩,
    fun s fn m hat => ⟨fun h => ?_, fun hmode h => ?_, fun J hmode hJ hfn => ?_⟩⟩
  · obtain ⟨he, ha⟩ := jobSubmit_runs hat (submitJob_full (s := popMessage s fn m) hfull) rfl (by decide)
    exact ⟨_, he, ha, (answer_only ..).same .jobs (by decide), answer_queues ..⟩
  · exact jobSubmit_refused hat hroom hst hchecks
  · obtain ⟨t, he, ha, ⟨J, hjobs, hJ⟩, hserve, hcount⟩ := jobSubmit_accepted hat hroom hchecks
    refine ⟨t, he, ha, ⟨J, ?_, hJ.part, hJ.fn, hJ.priority, hJ.seed, hJ.batch, hJ.updates, hJ.modules, hJ.moduleIdx, hJ.roles, hJ.rings,
      hJ.digest, hJ.grant, hJ.nf⟩, hserve, fun j hj => ?_, hcount⟩
    · unfold jobAt
      rw [hjobs, FMap.get?_set_self]
    · unfold jobAt
      rw [hjobs, FMap.get?_set_other _ _ _ _ hj]
  · exact jobEnd_refused hat (endRequest_badMode h) (by decide)
  · exact jobEnd_refused hat (endRequest_foreign (s := popMessage s fn m) hmode h) (by decide)
  · obtain ⟨he, ha⟩ := jobEnd_ends hat hmode hJ hfn
    have hanswer := answer_only (endJob (popMessage s fn m) (field m.bytes 8 8)) fn m 0 0
    have hpop : jobAt (popMessage s fn m) (field m.bytes 8 8) = some J := hJ
    refine ⟨_, he, ha, (hanswer.jobAt (by decide) _).trans (endJob_gone ..), fun q hq Q hQ => ?_, fun o O hO => ?_, fun k hk => ?_,
      fun i hi => ?_⟩
    · rw [hanswer.queueAt (by decide)] at hQ
      exact endJob_roles hpop hq hQ
    · rw [hanswer.syncAt (by decide)] at hO
      exact endJob_sync hpop hO
    · rw [hanswer.coreAt (by decide)] at hk ⊢
      exact endJob_cores hpop hk
    · rw [hanswer.jobAt (by decide)]
      exact endJob_others (s := popMessage s fn m) hi

end Sys2Proof.Machine

/-! PROOFS. Core zeroing: it also ends what is poisoned in the core store. -/

namespace Sys2Proof.Machine

/-- A module that zeroes core 0, in whose core store a poisoned word of a buffer stands. -/
def poisonedStore : State :=
  { State.reset with
    cores := [(0, { zeroing := true })]
    bufs := [(0, { gen := 0, size := 64, tier := 0, cls := 0, core := 0 })]
    rel := { State.reset.rel with poison := [(0, 0)] } }

theorem poisonedStore_zeroing : (coreAt poisonedStore 0).zeroing = true ∧ poisonedStore.rel.poison ≠ [] := by decide +kernel

theorem coreZeroed_poison : (coreZeroed poisonedStore 0).rel.poison = [] := by decide +kernel

/-- Refutes O34: the end of a core's zeroing changes more than the core, the buffers and the jobs, since the words of its core store
that were poisoned no longer are. -/
theorem not_coreScheduling : ¬ Obligations.CoreScheduling := by
  intro h
  obtain ⟨hzeroing, hpoison⟩ := poisonedStore_zeroing
  obtain ⟨_, _, _, _, _, hdone, _⟩ := h
  obtain ⟨t, ht, ⟨hframe, _⟩, _⟩ := hdone poisonedStore 0 hzeroing
  have hnext : coreZeroed poisonedStore 0 = t := Host.Outcome.next.inj ht
  have hrel : t.rel = poisonedStore.rel := by rw [hframe]
  rw [← hnext] at hrel
  exact hpoison ((congrArg Reliability.poison hrel).symm.trans coreZeroed_poison)

end Sys2Proof.Machine

/-! PROOFS. Placement: the rows of Table 6.8a, and what serving requests leaves alone. -/

namespace Sys2Proof.Machine

/-! ## The record of a tiered object -/

theorem tieredAt_putTiered_self (s : State) (key : Nat) (t : Tiered) : tieredAt (putTiered s key t) key = t := by
  unfold tieredAt putTiered FMap.getD
  rw [FMap.get?_set_self]
  rfl

theorem tieredAt_putTiered_other (s : State) {key k : Nat} (t : Tiered) (h : k ≠ key) : tieredAt (putTiered s key t) k = tieredAt s k := by
  unfold tieredAt putTiered FMap.getD
  rw [FMap.get?_set_other _ _ _ _ h]

theorem tieredAt_of_only {F : List StateField} {s t : State} (h : Only F s t) (hF : StateField.tiered ∉ F) (k : Nat) :
    tieredAt t k = tieredAt s k := by
  unfold tieredAt
  rw [h.same .tiered hF]

/-! ## The response to a placement request -/

/-- The response that a placement request gets. -/
def placeResponse (r : PlaceReq) (st : Status) (done : Nat) : MboxResp :=
  ⟨3, r.seq, placementBytes done r.tag st r.arrived (if r.joined then done - r.arrived else r.waited)⟩

theorem placeResponse_status (r : PlaceReq) {st : Status} (done : Nat) (h : st < 2 ^ 16) : field (placeResponse r st done).bytes 4 2 = st := by
  unfold placeResponse placementBytes
  simp only [List.append_assoc]
  exact field_append_toLe _ _ 4 2 st (length_toLe ..) h

theorem mboxAt_placementDone (s : State) (part : Nat) (r : PlaceReq) (st : Status) (done fn : Nat) : mboxAt (placementDone s part r st done) fn
    = { mboxAt s fn with held := (mboxAt s fn).held ++ if fn = r.fn then [placeResponse r st done] else [] } := by
  unfold placementDone respond
  by_cases hfn : fn = r.fn
  · rw [hfn, mboxAt_updMbox_self, if_pos rfl]
    rfl
  · rw [mboxAt_updMbox_other _ _ _ _ hfn, if_neg hfn, List.append_nil]
    rfl

/-- Function `fn` has a held response to the placement request with SEQ `seq`, with status `st`. -/
def PlaceAnswered (fn seq : Nat) (st : Status) (s : State) : Prop := ∃ y ∈ (mboxAt s fn).held, y.cls = 3 ∧ y.seq = seq ∧ field y.bytes 4 2 = st

theorem placementDone_answered (s : State) (part : Nat) (r : PlaceReq) {st : Status} (done : Nat) (h : st < 2 ^ 16) :
    PlaceAnswered r.fn r.seq st (placementDone s part r st done) := by
  refine ⟨placeResponse r st done, ?_, rfl, rfl, placeResponse_status r done h⟩
  rw [mboxAt_placementDone, if_pos rfl]
  exact List.mem_append_right _ List.mem_cons_self

/-! ## What serving an object's requests leaves alone -/

/-- Object `key` is served: no message is taken or posted, responses are only added, and every other object is as before. -/
structure ObjectServed (key : Nat) (s t : State) : Prop where
  inbox : InboxKept s t
  held : ∀ fn, (mboxAt s fn).held ⊆ (mboxAt t fn).held
  others : ∀ k, k ≠ key → tieredAt t k = tieredAt s k

namespace ObjectServed

variable {key : Nat} {s t u : State}

theorem refl (s : State) : ObjectServed key s s := ⟨.refl s, fun _ => List.Subset.refl _, fun _ _ => rfl⟩

theorem trans (h : ObjectServed key s t) (g : ObjectServed key t u) : ObjectServed key s u :=
  ⟨h.inbox.trans g.inbox, fun fn => List.Subset.trans (h.held fn) (g.held fn), fun k hk => (g.others k hk).trans (h.others k hk)⟩

theorem of_only {F : List StateField} (h : Only F s t) (hm : .mbx ∉ F) (ht : .tiered ∉ F) : ObjectServed key s t :=
  ⟨.of_only h hm, fun fn => by rw [h.mboxAt hm]; exact List.Subset.refl _, fun k _ => tieredAt_of_only h ht k⟩

theorem putTiered (s : State) (key : Nat) (t : Tiered) : ObjectServed key s (putTiered s key t) :=
  ⟨.of_mbx rfl, fun _ => List.Subset.refl _, fun _ hk => tieredAt_putTiered_other s t hk⟩

theorem placementDone (s : State) (part : Nat) (r : PlaceReq) (st : Status) (done : Nat) :
    ObjectServed key s (placementDone s part r st done) := by
  refine ⟨placementDone_inboxKept .., fun fn => ?_, fun k _ => tieredAt_of_only (placementDone_only ..) (by decide) k⟩
  rw [mboxAt_placementDone]
  exact List.subset_append_left _ _

theorem ite {c : Prop} [Decidable c] (h : ObjectServed key s t) (g : ObjectServed key s u) : ObjectServed key s (if c then t else u) := by
  split <;> assumption

theorem foldl {α : Type} {f : State → α → State} (h : ∀ s a, ObjectServed key s (f s a)) (l : List α) (s : State) :
    ObjectServed key s (l.foldl f s) := by
  induction l generalizing s with
  | nil => exact .refl s
  | cons a l ih => exact (h s a).trans (ih _)

/-- What has been answered stays answered. -/
theorem answered {fn seq : Nat} {st : Status} (h : ObjectServed key s t) (hs : PlaceAnswered fn seq st s) : PlaceAnswered fn seq st t := by
  obtain ⟨y, hy, hrest⟩ := hs
  exact ⟨y, h.held fn hy, hrest⟩

end ObjectServed

theorem completeAll_served (key : Nat) (s : State) (part : Nat) (l : List PlaceReq) (st : Status) (done : Nat) :
    ObjectServed key s (completeAll s part l st done) := .foldl (fun t r => .placementDone t part r st done) _ _

/-- Every request of the list is answered. -/
theorem completeAll_answered {r : PlaceReq} (s : State) (part : Nat) (l : List PlaceReq) {st : Status} (done : Nat) (hst : st < 2 ^ 16) (hr : r ∈ l) :
    PlaceAnswered r.fn r.seq st (completeAll s part l st done) := by
  induction l generalizing s with
  | nil => exact absurd hr List.not_mem_nil
  | cons x l ih =>
    rcases List.mem_cons.mp hr with rfl | hr
    · exact (completeAll_served 0 _ part l st done).answered (placementDone_answered s part r done hst)
    · exact ih _ hr

theorem placeAnswer_served (s : State) (part key : Nat) (r : PlaceReq) (st : Status) : ObjectServed key s (placeAnswer s part key r st) :=
  .placementDone ..

theorem promoteAbsent_served (s : State) (part key : Nat) (r : PlaceReq) : ObjectServed key s (promoteAbsent s part key r) := by
  unfold promoteAbsent
  extract_lets n t copyAddr
  have hfresh (u : State) (n : Nat) : ObjectServed key u { u with fresh := n } := .of_only (setFresh_only u n) (by decide) (by decide)
  refine .ite (placeAnswer_served ..) (.ite ((hfresh s _).trans (placeAnswer_served ..)) ?_)
  exact ((ObjectServed.of_only (charge_only ..) (by decide) (by decide)).trans (hfresh _ _)).trans (.putTiered ..)

theorem promoteEvicting_served (s : State) (part key : Nat) (r : PlaceReq) : ObjectServed key s (promoteEvicting s part key r) := by
  unfold promoteEvicting
  extract_lets t n s1 src s2
  have h1 : ObjectServed key s s1 := .of_only ((uncharge_only ..).trans (charge_only ..)) (by decide) (by decide)
  have h2 : ObjectServed key s s2 := h1.trans (.putTiered ..)
  exact .ite (placeAnswer_served ..) ((h2.trans (completeAll_served ..)).trans (.placementDone ..))

theorem placeRow_served (s : State) (part key : Nat) (r : PlaceReq) : ObjectServed key s (placeRow s part key r) := by
  unfold placeRow
  extract_lets src t s1
  have h1 : ObjectServed key s s1 := .putTiered ..
  split
  · exact h1.trans (promoteAbsent_served ..)
  · exact h1.trans (placeAnswer_served ..)
  · exact h1.trans (placeAnswer_served ..)
  · exact h1.trans (placeAnswer_served ..)
  · exact h1.trans (.putTiered ..)
  · exact h1.trans (.putTiered ..)
  · exact h1.trans (placeAnswer_served ..)
  · exact h1.trans (.putTiered ..)
  · exact h1.trans ((ObjectServed.putTiered ..).trans (.placementDone ..))
  · exact h1.trans (placeAnswer_served ..)
  · exact .ite (h1.trans (.putTiered ..)) (h1.trans (promoteEvicting_served ..))
  · exact h1.trans (.putTiered ..)
  · exact h1.trans (.putTiered ..)
  · exact h1.trans (placeAnswer_served ..)
  · exact h1.trans ((ObjectServed.putTiered ..).trans (.placementDone ..))
  · exact h1.trans (placeAnswer_served ..)

theorem serveWaiters_served (part key fuel : Nat) (s : State) : ObjectServed key s (serveWaiters s part key fuel) := by
  induction fuel generalizing s with
  | zero => exact .refl s
  | succ n ih =>
    unfold serveWaiters
    extract_lets t s1
    have h1 : ObjectServed key s s1 := (ObjectServed.putTiered s key { t with waiters := [] }).trans
      (.foldl (fun _ _ => placeRow_served ..) _ _)
    exact .ite (.refl s) (h1.trans (ih _))

theorem serveAll_served (s : State) (part key : Nat) : ObjectServed key s (serveAll s part key) := serveWaiters_served ..

/-- Nobody is served while nobody waits, or a copy or an eviction is under way. -/
theorem serveAll_of_none {s : State} {key : Nat} (part : Nat)
    (h : (tieredAt s key).waiters = [] ∨ (tieredAt s key).state = .promoting ∨ (tieredAt s key).state = .evicting) :
    serveAll s part key = s := by
  unfold serveAll serveWaiters
  exact if_pos (by rcases h with h | h | h <;> simp [h])

theorem dropCopy_served (s : State) (part key : Nat) (st : Status) : ObjectServed key s (dropCopy s part key st) := by
  unfold dropCopy
  extract_lets t s1 s2
  have h1 : ObjectServed key s s1 := .of_only (uncharge_only ..) (by decide) (by decide)
  exact ((h1.trans (.putTiered ..)).trans (completeAll_served ..)).trans (serveAll_served ..)

end Sys2Proof.Machine

/-! PROOFS. Placement: each request's row of Table 6.8a. -/

namespace Sys2Proof.Machine

/-! ## Rows (Table 6.8a) -/

/-- The status with which a row completes a request at once, without a change of the object. -/
def rowStatus (st : TierState) (op : Nat) : Option Status :=
  match st, op with
  | .absent, 2 => some 0
  | .absent, 3 => some 0x0689
  | .absent, 4 => some 0x068A
  | .resident, 1 => some 0
  | .resident, 4 => some 0x068A
  | .pinned, 1 => some 0
  | .pinned, 2 => some 0x068C
  | .pinned, 3 => some 0
  | _, _ => none

/-- The object with the class of a request. -/
def classed (s : State) (key : Nat) (r : PlaceReq) : State := putTiered s key { tieredAt s key with objClass := r.cls }

section Rows

variable {s : State} {part key : Nat} {r : PlaceReq}

theorem tieredAt_classed (s : State) (key : Nat) (r : PlaceReq) : tieredAt (classed s key r) key = { tieredAt s key with objClass := r.cls } :=
  tieredAt_putTiered_self ..

theorem placeRow_answers {st : Status} (h : rowStatus (tieredAt s key).state r.op = some st) :
    placeRow s part key r = placeAnswer (classed s key r) part key r st := by
  unfold placeRow classed
  unfold rowStatus at h
  split at h
  case h_9 => cases h
  all_goals
    next hstate hop =>
    obtain rfl := Option.some.inj h
    simp only [hstate, hop]

theorem placeRow_joins (h : ((tieredAt s key).state = .promoting ∧ r.op = 1) ∨ ((tieredAt s key).state = .evicting ∧ r.op = 2)) :
    placeRow s part key r = joinCurrent (classed s key r) key r := by
  unfold placeRow classed
  rcases h with ⟨hstate, hop⟩ | ⟨hstate, hop⟩
  · simp only [hstate, hop]
  · simp only [hstate, hop]

theorem placeRow_waits (h : ((tieredAt s key).state = .promoting ∧ (r.op = 2 ∨ r.op = 3 ∨ r.op = 4))
    ∨ ((tieredAt s key).state = .evicting ∧ (r.op = 3 ∨ r.op = 4 ∨ (r.op = 1 ∧ (tieredAt s key).copying = true)))) :
    placeRow s part key r = placeWait (classed s key r) key r := by
  unfold placeRow classed
  rcases h with ⟨hstate, hop | hop | hop⟩ | ⟨hstate, hop | hop | ⟨hop, hcopying⟩⟩
  · simp only [hstate, hop]
  · simp only [hstate, hop]
  · simp only [hstate, hop]
  · simp only [hstate, hop]
  · simp only [hstate, hop]
  · simp only [hstate, hop, hcopying, if_true]

theorem placeRow_promoteAbsent (hstate : (tieredAt s key).state = .absent) (hop : r.op = 1) :
    placeRow s part key r = promoteAbsent (classed s key r) part key r := by
  unfold placeRow classed
  simp only [hstate, hop]

theorem placeRow_promoteEvicting (hstate : (tieredAt s key).state = .evicting) (hop : r.op = 1) (hcopying : (tieredAt s key).copying = false) :
    placeRow s part key r = promoteEvicting (classed s key r) part key r := by
  unfold placeRow classed
  simp only [hstate, hop, hcopying, Bool.false_eq_true, if_false]

theorem placeRow_evict (hstate : (tieredAt s key).state = .resident) (hop : r.op = 2) :
    placeRow s part key r = putTiered (classed s key r) key
      { (tieredAt (classed s key r) key).to (classed s key r) .evicting with copying := false, current := [r] } := by
  rw [tieredAt_classed]
  unfold placeRow classed
  simp only [hstate, hop]

theorem placeRow_changes {st : TierState} (h : ((tieredAt s key).state = .resident ∧ r.op = 3 ∧ st = .pinned)
    ∨ ((tieredAt s key).state = .pinned ∧ r.op = 4 ∧ st = .resident)) :
    placeRow s part key r = placeChange (classed s key r) part key r st := by
  unfold placeRow classed
  rcases h with ⟨hstate, hop, rfl⟩ | ⟨hstate, hop, rfl⟩
  · simp only [hstate, hop]
  · simp only [hstate, hop]

end Rows

end Sys2Proof.Machine

/-! PROOFS. Placement: the checks of a request, and the request that Table 6.8a takes. -/

namespace Sys2Proof.Machine

/-! ## A request taken -/

section Taken

variable {s : State} {fn op : Nat} {m : MboxMsg}

theorem popMessage_box (hin : (mboxAt s fn).inbox = [m]) : mboxAt (popMessage s fn m) fn
    = { mboxAt s fn with inbox := [], consumed := ((mboxAt s fn).consumed + m.frames) % 2 ^ 32 } := by
  rw [popMessage, mboxAt_updMbox_self, hin]
  rfl

/-- What takes no message leaves a taken one taken. -/
theorem consumed_of_kept {t : State} (hin : (mboxAt s fn).inbox = [m]) (h : InboxKept (popMessage s fn m) t) : Consumed s t fn m := by
  constructor
  · rw [h.inbox, popMessage_box hin]
  · rw [h.consumed, popMessage_box hin]

theorem answer_inboxKept (s : State) (fn : Nat) (m : MboxMsg) (st : Status) (n : Nat) : InboxKept s (answer s fn m st n) := by
  obtain ⟨_, e⟩ := answer_eq_respond s fn m st n
  rw [e]
  exact respond_inboxKept ..

theorem placeRequest_inboxKept (s : State) (fn : Nat) (m : MboxMsg) : InboxKept s (placeRequest s fn m) := by
  unfold placeRequest
  extract_lets b q hs src
  split
  · exact answer_inboxKept ..
  split
  · exact answer_inboxKept ..
  extract_lets st key r
  split
  · exact answer_inboxKept ..
  split
  · split
    · exact (answer_inboxKept ..).trans (.of_only (offence_only ..) (by decide))
    · exact answer_inboxKept ..
  split
  · exact answer_inboxKept ..
  · exact (InboxKept.of_only (bump_only ..) (by decide)).trans ((placeRow_served ..).inbox.trans (serveAll_served ..).inbox)

/-- A placement request at the head whose turn it is runs. -/
theorem onPlacement_of_turn (h : AtHead s fn m 3 op) (hturn : earlierHead s fn m (fun x => field x.bytes 8 2) (placeObject s) = false) :
    onPlacement s fn op = placeRequest (popMessage s fn m) fn m := by
  obtain ⟨hhead, hin, -⟩ := id h
  have he := onMessage_of_atHead s fn 3 op m (fun s m => placeRequest s fn m) h
    (by rw [(placeRequest_inboxKept ..).inbox, popMessage_box hin])
  unfold onPlacement
  rw [hhead]
  simp only [hturn]
  exact he

theorem onPlacement_of_no_turn (h : AtHead s fn m 3 op) (hturn : earlierHead s fn m (fun x => field x.bytes 8 2) (placeObject s) = true) :
    onPlacement s fn op = s := by
  obtain ⟨hhead, -⟩ := h
  unfold onPlacement
  rw [hhead]
  exact if_pos hturn

end Taken

/-! ## Its checks -/

section Checks

variable {s : State} {fn op : Nat} {m : MboxMsg} {Q : Queue} {cmd : Instr}

theorem placeRequest_badClass (h : 5 < field m.bytes 1 1) : placeRequest s fn m = answer s fn m 0x0301 0 := if_pos h

theorem placeRequest_foreign (hcls : field m.bytes 1 1 ≤ 5) (h : ((queueAt s (field m.bytes 8 2)).all fun Q => Q.fn ≠ fn) = true) :
    placeRequest s fn m = answer s fn m 0x0803 0 := by
  have hnone : ((queueAt s (field m.bytes 8 2)).filter fun Q => Q.fn = fn) = none := by
    cases hq : queueAt s (field m.bytes 8 2) with
    | none => rfl
    | some Q => simp_all
  unfold placeRequest
  extract_lets b q h src
  rw [if_neg (Nat.not_lt.mpr hcls)]
  simp only [b, q, hnone]

/-- The placement request in a message. -/
def placeReq (fn : Nat) (m : MboxMsg) : PlaceReq :=
  { op := field m.bytes 0 1, cls := field m.bytes 1 1, fn, queue := field m.bytes 8 2, tag := field m.bytes 16 4, seq := m.seq, arrived := m.arrived }

/-- A request of class 0 to 5 on a queue of the function. -/
theorem placeRequest_own (hcls : field m.bytes 1 1 ≤ 5) (hQ : queueAt s (field m.bytes 8 2) = some Q) (hfn : Q.fn = fn) :
    placeRequest s fn m
      = (let st := handleStatus s (field m.bytes 8 2) Q [field m.bytes 4 4]
        if 256 ≤ dnum s (0x5000 + Q.part) 8 then answer s fn m 0x068D 0
        else if st ≠ 0 then if isOffence st then offence (answer s fn m st 0) (field m.bytes 8 2) none else answer s fn m st 0
        else if !((bufAt s Q.part (field m.bytes 4 4)).any fun x => x.tier = 2) then answer s fn m 0x0682 0
        else
          let key := bufKey Q.part (hIndex (field m.bytes 4 4))
          serveAll (placeRow (bump s (0x5000 + Q.part) 8 1) Q.part key (placeReq fn m)) Q.part key) := by
  have hsome : ((queueAt s (field m.bytes 8 2)).filter fun Q => Q.fn = fn) = some Q := by
    rw [hQ]
    simp [hfn]
  unfold placeRequest
  extract_lets b q h src
  rw [if_neg (Nat.not_lt.mpr hcls)]
  simp only [b, q, hsome]
  rfl

/-- The request is refused with `st`: the state that answers it. -/
theorem placement_refused {st : Status} (hcmd : exec cmd s = .next (onPlacement s fn op)) (h : AtHead s fn m 3 op)
    (hturn : earlierHead s fn m (fun x => field x.bytes 8 2) (placeObject s) = false)
    (hrun : placeRequest (popMessage s fn m) fn m = answer (popMessage s fn m) fn m st 0) (hst : st < 2 ^ 16) :
    Runs cmd s fun t => Answered s t fn m st ∧ t.queues = s.queues ∧ t.tiered = s.tiered := by
  obtain ⟨-, hin, -⟩ := id h
  refine ⟨_, hcmd.trans (congrArg _ ((onPlacement_of_turn h hturn).trans hrun)), answered_answer s _ fn m st 0 hin rfl hst, ?_⟩
  have hsame : Only [.mbx] s (answer (popMessage s fn m) fn m st 0) := .mono (by rfl) <| (popMessage_only ..).trans (answer_only ..)
  exact ⟨hsame.same .queues (by decide), hsame.same .tiered (by decide)⟩

theorem handleStatus_lt (s : State) (q : Nat) (Q : Queue) (hs : List Nat) : handleStatus s q Q hs < 2 ^ 16 := by
  unfold handleStatus
  split
  · decide
  split
  · decide
  split
  · decide
  · decide

theorem isOffence_handleStatus (s : State) (q : Nat) (Q : Queue) (hs : List Nat) :
    isOffence (handleStatus s q Q hs) = decide (handleStatus s q Q hs = 0x0211) := by
  unfold handleStatus
  split
  · rfl
  split
  · rfl
  split
  · rfl
  · rfl

/-- A handle that the queue may not name is answered with its own status; a foreign one is an offence. -/
theorem placement_badHandle (hcmd : exec cmd s = .next (onPlacement s fn op)) (h : AtHead s fn m 3 op)
    (hturn : earlierHead s fn m (fun x => field x.bytes 8 2) (placeObject s) = false) (hcls : field m.bytes 1 1 ≤ 5)
    (hQ : queueAt s (field m.bytes 8 2) = some Q) (hfn : Q.fn = fn) (hroom : dnum s (0x5000 + Q.part) 8 < 256)
    (hst : handleStatus s (field m.bytes 8 2) Q [field m.bytes 4 4] ≠ 0) :
    Runs cmd s fun t => Answered s t fn m (handleStatus s (field m.bytes 8 2) Q [field m.bytes 4 4]) ∧ t.tiered = s.tiered
      ∧ (handleStatus s (field m.bytes 8 2) Q [field m.bytes 4 4] ≠ 0x0211 → t.queues = s.queues)
      ∧ (handleStatus s (field m.bytes 8 2) Q [field m.bytes 4 4] = 0x0211 →
        (queueAt t (field m.bytes 8 2)).map Queue.offences = some ((s.now :: Q.offences).take 16)) := by
  have hrun := placeRequest_own (s := popMessage s fn m) hcls hQ hfn
  extract_lets st at hrun
  rw [if_neg (show ¬ 256 ≤ dnum (popMessage s fn m) (0x5000 + Q.part) 8 from Nat.not_le.mpr hroom), if_pos (show st ≠ 0 from hst)] at hrun
  by_cases hoff : st = 0x0211
  · have hoffence : isOffence st = true := (isOffence_handleStatus ..).trans (decide_eq_true hoff)
    rw [if_pos hoffence] at hrun
    obtain ⟨-, hin, -⟩ := id h
    obtain ⟨⟨hinbox, hconsumed⟩, hheld⟩ := answered_answer s (popMessage s fn m) fn m st 0 hin rfl (handleStatus_lt ..)
    have hbox : mboxAt (offence (answer (popMessage s fn m) fn m st 0) (field m.bytes 8 2) none) fn
        = mboxAt (answer (popMessage s fn m) fn m st 0) fn := (offence_only ..).mboxAt (by decide) fn
    have hsame : Only [.mbx, .queues] s (offence (answer (popMessage s fn m) fn m st 0) (field m.bytes 8 2) none) :=
      .mono (by rfl) <| (popMessage_only ..).trans ((answer_only ..).trans (offence_only ..))
    refine ⟨_, hcmd.trans (congrArg _ ((onPlacement_of_turn h hturn).trans hrun)), ⟨⟨?_, ?_⟩, ?_⟩, hsame.same .tiered (by decide),
      fun hne => absurd hoff hne, fun _ => ?_⟩
    · rw [hbox]
      exact hinbox
    · rw [hbox]
      exact hconsumed
    · rw [hbox]
      exact hheld
    · have hmid : Only [.mbx] s (answer (popMessage s fn m) fn m st 0) := .mono (by rfl) <| (popMessage_only ..).trans (answer_only ..)
      have hoffs := offence_offences (answer (popMessage s fn m) fn m st 0) (field m.bytes 8 2) none
        ((hmid.queueAt (by decide) _).trans hQ)
      rw [hmid.same .now (by decide)] at hoffs
      exact hoffs
  · have hoffence : ¬ isOffence st = true := by
      rw [show isOffence st = decide (st = 0x0211) from isOffence_handleStatus .., decide_eq_true_iff]
      exact hoff
    rw [if_neg hoffence] at hrun
    obtain ⟨t, ht, ha, hqueues, htiered⟩ := placement_refused hcmd h hturn hrun (handleStatus_lt ..)
    exact ⟨t, ht, ha, htiered, fun _ => hqueues, fun heq => absurd heq hoff⟩

end Checks

end Sys2Proof.Machine

/-! PROOFS. Placement: a request that passes its checks, by its row. -/

namespace Sys2Proof.Machine

/-- The state in which a checked request runs its row: it is taken and counted as outstanding. -/
def placed (s : State) (fn : Nat) (m : MboxMsg) (part : Nat) : State := bump (popMessage s fn m) (0x5000 + part) 8 1

theorem placed_only (s : State) (fn : Nat) (m : MboxMsg) (part : Nat) : Only [.mbx, .dict] s (placed s fn m part) :=
  .mono (by rfl) <| (popMessage_only ..).trans (bump_only ..)

/-- Charges, quotas and the channels that a copy takes are not in the count of outstanding requests. -/
theorem dnum_placed (s : State) (fn : Nat) (m : MboxMsg) (part : Nat) {index sub : Nat} (h : sub < 8) :
    dnum (placed s fn m part) index sub = dnum s index sub := by
  unfold placed dnum
  rw [dget_bump_other _ _ _ _ _ (by unfold dkey; omega)]
  rfl

theorem charged_placed (s : State) (fn : Nat) (m : MboxMsg) (part p f tier : Nat) : charged (placed s fn m part) p f tier = charged s p f tier :=
  charged_bump _ _ _ _ _ _ _ (by decide) (by decide)

theorem mayCharge_placed (s : State) (fn : Nat) (m : MboxMsg) (part p f tier n : Nat) :
    mayCharge (placed s fn m part) p f tier n = mayCharge s p f tier n := by
  have hquota : quotaOf (placed s fn m part) p f tier = quotaOf s p f tier := by
    unfold quotaOf tierBytes partAccount quotaSum
    by_cases htier : tier = 1
    · simp only [htier, if_true, dnum_placed _ _ _ _ (show 1 < 8 by decide), dnum_placed _ _ _ _ (show 3 < 8 by decide),
        dnum_placed _ _ _ _ (show 5 < 8 by decide), dnum_placed _ _ _ _ (show 6 < 8 by decide)]
    · simp only [htier, if_false, dnum_placed _ _ _ _ (show 2 < 8 by decide), dnum_placed _ _ _ _ (show 4 < 8 by decide),
        dnum_placed _ _ _ _ (show 7 < 8 by decide)]
  unfold mayCharge
  rw [charged_placed, hquota]

theorem copyOut_placed (s : State) (fn : Nat) (m : MboxMsg) (part p key addr : Nat) :
    copyOut (placed s fn m part) p key addr = copyOut s p key addr := by
  have hquarters : quarters (placed s fn m part) p = quarters s p := congrArg _ (dnum_placed _ _ _ _ (by decide))
  have hchannels : channelsOf (placed s fn m part) p = channelsOf s p := by unfold channelsOf; rw [dnum_placed _ _ _ _ (by decide)]
  have hcap (a lo hi : Nat) : capTouched (placed s fn m part) p a lo hi = capTouched s p a lo hi := by
    unfold capTouched capUnit
    rw [hchannels]
  have hhbm (a lo hi : Nat) (b : Buf) : hbmTouched (placed s fn m part) p key a lo hi { b with base := false }
      = hbmTouched s p key a lo hi { b with base := false } := by
    unfold hbmTouched hbmUnit
    simp only [Bool.false_eq_true, if_false, hquarters]
  unfold copyOut
  simp only [hcap, hhbm]
  rfl

section Placing

variable {s : State} {fn op : Nat} {m : MboxMsg} {Q : Queue} {cmd : Instr}

/-- A request that passes its checks runs its row, and then those that waited for it. -/
theorem onPlacement_row (h : AtHead s fn m 3 op) (hturn : earlierHead s fn m (fun x => field x.bytes 8 2) (placeObject s) = false)
    (hcls : field m.bytes 1 1 ≤ 5) (hQ : queueAt s (field m.bytes 8 2) = some Q) (hfn : Q.fn = fn)
    (hst : handleStatus s (field m.bytes 8 2) Q [field m.bytes 4 4] = 0)
    (hcap : ((bufAt s Q.part (field m.bytes 4 4)).any fun b => b.tier = 2) = true) (hroom : dnum s (0x5000 + Q.part) 8 < 256) :
    onPlacement s fn op = serveAll (placeRow (placed s fn m Q.part) Q.part (bufKey Q.part (hIndex (field m.bytes 4 4))) (placeReq fn m)) Q.part
      (bufKey Q.part (hIndex (field m.bytes 4 4))) := by
  rw [onPlacement_of_turn h hturn]
  refine (placeRequest_own (s := popMessage s fn m) hcls hQ hfn).trans ?_
  extract_lets st key
  rw [if_neg (show ¬ 256 ≤ dnum (popMessage s fn m) (0x5000 + Q.part) 8 from Nat.not_le.mpr hroom), if_neg (show ¬ st ≠ 0 from not_not.mpr hst)]
  have hcap' : (!((bufAt (popMessage s fn m) Q.part (field m.bytes 4 4)).any fun x => x.tier = 2)) = false := by
    rw [Bool.not_eq_false']
    exact hcap
  rw [if_neg (by rw [hcap']; decide)]
  rfl

end Placing

/-! ## What a row leaves -/

section Outcome

variable {s : State} {fn part key : Nat} {m : MboxMsg}

/-- What Table 6.8a leaves alone: every other object, and everything but the mailboxes, the objects and the charges. -/
def PlaceFrame (s : State) (key cls : Nat) (t : State) : Prop :=
  (∀ k, k ≠ key → tieredAt t k = tieredAt s k) ∧ (tieredAt t key).objClass = cls
    ∧ t = { s with mbx := t.mbx, tiered := t.tiered, dict := t.dict, parts := t.parts, fresh := t.fresh }

/-- The object that the row sees: as it was, of the request's class. -/
def rowObject (s : State) (key : Nat) (m : MboxMsg) : Tiered := { tieredAt s key with objClass := field m.bytes 1 1 }

/-- The state in which a row acts: the request taken, its class noted. -/
def rowState (s : State) (fn part key : Nat) (m : MboxMsg) : State := classed (placed s fn m part) key (placeReq fn m)

theorem tieredAt_rowState (s : State) (fn part key : Nat) (m : MboxMsg) : tieredAt (rowState s fn part key m) key = rowObject s key m :=
  tieredAt_classed ..

/-- What the object's requests leave after the row. -/
def rowResult (s : State) (fn part key : Nat) (m : MboxMsg) : State :=
  serveAll (placeRow (placed s fn m part) part key (placeReq fn m)) part key

theorem PlaceFrame.of_class (hcls : (tieredAt (rowResult s fn part key m) key).objClass = field m.bytes 1 1) :
    PlaceFrame s key (field m.bytes 1 1) (rowResult s fn part key m) := by
  have hall : Only [.mbx, .tiered, .dict, .parts, .fresh] s (rowResult s fn part key m) :=
    .mono (by rfl) <| (placed_only s fn m part).trans ((placeRow_only ..).trans (serveAll_only ..))
  have hserved : ObjectServed key (placed s fn m part) (rowResult s fn part key m) := (placeRow_served ..).trans (serveAll_served ..)
  exact ⟨hserved.others, hcls, hall.eq_overlay⟩

/-- Nobody else is served after the row. -/
theorem rowResult_of_none {u : State} (hu : placeRow (placed s fn m part) part key (placeReq fn m) = u)
    (h : (tieredAt u key).waiters = [] ∨ (tieredAt u key).state = .promoting ∨ (tieredAt u key).state = .evicting) :
    rowResult s fn part key m = u := by
  unfold rowResult
  rw [hu, serveAll_of_none part h]

/-- A request answered in a row's state is answered. -/
theorem answered_row {t : State} {st : Status} (hin : (mboxAt s fn).inbox = [m]) (hm : m.cls = 3) (part' done : Nat) (hst : st < 2 ^ 16)
    (ht : mboxAt t fn = mboxAt (popMessage s fn m) fn) : Answered s (placementDone t part' (placeReq fn m) st done) fn m st := by
  have hbox := mboxAt_placementDone t part' (placeReq fn m) st done fn
  rw [if_pos (show fn = (placeReq fn m).fn from rfl), ht, popMessage_box hin] at hbox
  refine ⟨⟨by rw [hbox], by rw [hbox]⟩, _, by rw [hbox], hm.symm, rfl, placeResponse_status _ _ hst⟩

theorem waits_row {t : State} (hin : (mboxAt s fn).inbox = [m]) (ht : mboxAt t fn = mboxAt (popMessage s fn m) fn) :
    Consumed s t fn m ∧ (mboxAt t fn).held = (mboxAt s fn).held := by
  rw [popMessage_box hin] at ht
  exact ⟨⟨by rw [ht], by rw [ht]⟩, by rw [ht]⟩

end Outcome

end Sys2Proof.Machine

/-! PROOFS. Placement: the outcome of each row of Table 6.8a. -/

namespace Sys2Proof.Machine

/-- The object's state and its beat stay. -/
def PlaceStays (s : State) (key cls : Nat) (t : State) : Prop :=
  (tieredAt t key).state = (tieredAt s key).state ∧ (tieredAt t key).changed = (tieredAt s key).changed ∧ PlaceFrame s key cls t

/-- The object changes its state in the beat after. -/
def PlaceTurns (s : State) (key cls : Nat) (st : TierState) (t : State) : Prop :=
  (tieredAt t key).state = st ∧ (tieredAt t key).changed = max s.now (tieredAt s key).changed + 1 ∧ PlaceFrame s key cls t

section Outcome

variable {s : State} {fn part key : Nat} {m : MboxMsg} {u : State}

theorem mayCharge_putTiered (s : State) (key : Nat) (T : Tiered) (part fn tier n : Nat) :
    mayCharge (putTiered s key T) part fn tier n = mayCharge s part fn tier n := rfl

theorem copyOut_putTiered (s : State) (key : Nat) (T : Tiered) (part k addr : Nat) :
    copyOut (putTiered s key T) part k addr = copyOut s part k addr := rfl

/-- With no channel out of service a copy meets none. -/
theorem copyOut_of_none {s : State} (part key addr : Nat) (hl : s.rel.lpddrOut = []) (hh : s.rel.hbmOut = []) : copyOut s part key addr = false := by
  have hnone (l : List Nat) : l.any ([] : List Nat).contains = false := List.any_eq_false.mpr fun x _ => by simp
  unfold copyOut
  rw [hl, hh]
  cases FMap.get? s.bufs key with
  | none => rfl
  | some b => simp [hnone]

/-- A row that leaves object `T` behind, with nobody to serve: its result and its frame. -/
theorem rowResult_frame {T : Tiered} (hu : placeRow (placed s fn m part) part key (placeReq fn m) = u) (hT : tieredAt u key = T)
    (h : T.waiters = [] ∨ T.state = .promoting ∨ T.state = .evicting) (hcls : T.objClass = field m.bytes 1 1) :
    rowResult s fn part key m = u ∧ PlaceFrame s key (field m.bytes 1 1) u := by
  have he := rowResult_of_none hu (hT ▸ h)
  exact ⟨he, he ▸ PlaceFrame.of_class (by rw [he, hT]; exact hcls)⟩

theorem tieredAt_placementDone (s : State) (part' : Nat) (r : PlaceReq) (st : Status) (done : Nat) :
    tieredAt (placementDone s part' r st done) key = tieredAt s key := tieredAt_of_only (placementDone_only ..) (by decide) key

/-- A request that its row answers. -/
theorem row_answers {st : Status} (hin : (mboxAt s fn).inbox = [m]) (hm : m.cls = 3) (hst : st < 2 ^ 16)
    (hu : placeRow (placed s fn m part) part key (placeReq fn m) = placeAnswer (rowState s fn part key m) part key (placeReq fn m) st)
    (h : (tieredAt s key).waiters = [] ∨ (tieredAt s key).state = .promoting ∨ (tieredAt s key).state = .evicting) :
    Answered s (rowResult s fn part key m) fn m st ∧ PlaceStays s key (field m.bytes 1 1) (rowResult s fn part key m) := by
  have hT : tieredAt (placeAnswer (rowState s fn part key m) part key (placeReq fn m) st) key = rowObject s key m :=
    (tieredAt_placementDone ..).trans (tieredAt_rowState ..)
  obtain ⟨he, hframe⟩ := rowResult_frame hu hT h rfl
  rw [he]
  exact ⟨answered_row hin hm _ _ hst rfl, by rw [hT]; rfl, by rw [hT]; rfl, hframe⟩

theorem row_table {st : Status} (hin : (mboxAt s fn).inbox = [m]) (hm : m.cls = 3) (hw : (tieredAt s key).waiters = [])
    (h : rowStatus (tieredAt s key).state (field m.bytes 0 1) = some st) (hst : st < 2 ^ 16) :
    Answered s (rowResult s fn part key m) fn m st ∧ PlaceStays s key (field m.bytes 1 1) (rowResult s fn part key m) :=
  row_answers hin hm hst (placeRow_answers h) (.inl hw)

/-- A request joins the copy or the eviction under way. -/
theorem row_joins (hin : (mboxAt s fn).inbox = [m]) (h : ((tieredAt s key).state = .promoting ∧ field m.bytes 0 1 = 1)
      ∨ ((tieredAt s key).state = .evicting ∧ field m.bytes 0 1 = 2)) :
    (Consumed s (rowResult s fn part key m) fn m ∧ (mboxAt (rowResult s fn part key m) fn).held = (mboxAt s fn).held)
      ∧ PlaceStays s key (field m.bytes 1 1) (rowResult s fn part key m)
      ∧ (tieredAt (rowResult s fn part key m) key).waiters = (tieredAt s key).waiters
      ∧ (tieredAt (rowResult s fn part key m) key).current.length = (tieredAt s key).current.length + 1 := by
  have hT : tieredAt (joinCurrent (rowState s fn part key m) key (placeReq fn m)) key
      = { rowObject s key m with current := (tieredAt s key).current ++ [{ placeReq fn m with joined := true }] } := by
    unfold joinCurrent
    rw [tieredAt_putTiered_self, tieredAt_rowState]
    rfl
  have hu : placeRow (placed s fn m part) part key (placeReq fn m) = joinCurrent (rowState s fn part key m) key (placeReq fn m) := placeRow_joins h
  obtain ⟨he, hframe⟩ := rowResult_frame hu hT (.inr (h.imp And.left And.left)) rfl
  rw [he]
  refine ⟨waits_row hin rfl, ⟨by rw [hT]; rfl, by rw [hT]; rfl, hframe⟩, by rw [hT]; rfl, ?_⟩
  exact (congrArg (fun T => T.current.length) hT).trans List.length_append

/-- A request waits for the end of the copy or the eviction under way. -/
theorem row_waits (hin : (mboxAt s fn).inbox = [m]) (h : ((tieredAt s key).state = .promoting
      ∧ (field m.bytes 0 1 = 2 ∨ field m.bytes 0 1 = 3 ∨ field m.bytes 0 1 = 4))
    ∨ ((tieredAt s key).state = .evicting
      ∧ (field m.bytes 0 1 = 3 ∨ field m.bytes 0 1 = 4 ∨ (field m.bytes 0 1 = 1 ∧ (tieredAt s key).copying = true)))) :
    (Consumed s (rowResult s fn part key m) fn m ∧ (mboxAt (rowResult s fn part key m) fn).held = (mboxAt s fn).held)
      ∧ PlaceStays s key (field m.bytes 1 1) (rowResult s fn part key m)
      ∧ (tieredAt (rowResult s fn part key m) key).current = (tieredAt s key).current
      ∧ (tieredAt (rowResult s fn part key m) key).waiters.length = (tieredAt s key).waiters.length + 1 := by
  have hT : tieredAt (placeWait (rowState s fn part key m) key (placeReq fn m)) key
      = { rowObject s key m with waiters := (tieredAt s key).waiters ++ [placeReq fn m] } := by
    unfold placeWait
    rw [tieredAt_putTiered_self, tieredAt_rowState]
    rfl
  have hu : placeRow (placed s fn m part) part key (placeReq fn m) = placeWait (rowState s fn part key m) key (placeReq fn m) := placeRow_waits h
  obtain ⟨he, hframe⟩ := rowResult_frame hu hT (.inr (h.imp And.left And.left)) rfl
  rw [he]
  refine ⟨waits_row hin rfl, ⟨by rw [hT]; rfl, by rw [hT]; rfl, hframe⟩, by rw [hT]; rfl, ?_⟩
  exact (congrArg (fun T => T.waiters.length) hT).trans List.length_append

/-- Evict of a resident object starts the eviction. -/
theorem row_evict (hin : (mboxAt s fn).inbox = [m]) (hstate : (tieredAt s key).state = .resident) (hop : field m.bytes 0 1 = 2) :
    (Consumed s (rowResult s fn part key m) fn m ∧ (mboxAt (rowResult s fn part key m) fn).held = (mboxAt s fn).held)
      ∧ PlaceTurns s key (field m.bytes 1 1) .evicting (rowResult s fn part key m) := by
  have hu : placeRow (placed s fn m part) part key (placeReq fn m) = putTiered (rowState s fn part key m) key
      { (tieredAt (rowState s fn part key m) key).to (rowState s fn part key m) .evicting with copying := false, current := [placeReq fn m] } :=
    placeRow_evict hstate hop
  rw [tieredAt_rowState] at hu
  have hT := tieredAt_putTiered_self (rowState s fn part key m) key
    { (rowObject s key m).to (rowState s fn part key m) .evicting with copying := false, current := [placeReq fn m] }
  obtain ⟨he, hframe⟩ := rowResult_frame hu hT (.inr (.inr rfl)) rfl
  rw [he]
  exact ⟨waits_row hin rfl, by rw [hT]; rfl, by rw [hT]; rfl, hframe⟩

/-- Pin and unpin change the object's state at once. -/
theorem row_changes {st : TierState} (hin : (mboxAt s fn).inbox = [m]) (hm : m.cls = 3) (hw : (tieredAt s key).waiters = [])
    (h : ((tieredAt s key).state = .resident ∧ field m.bytes 0 1 = 3 ∧ st = .pinned)
      ∨ ((tieredAt s key).state = .pinned ∧ field m.bytes 0 1 = 4 ∧ st = .resident)) :
    Answered s (rowResult s fn part key m) fn m 0 ∧ PlaceTurns s key (field m.bytes 1 1) st (rowResult s fn part key m) := by
  have hT : tieredAt (placeChange (rowState s fn part key m) part key (placeReq fn m) st) key
      = (rowObject s key m).to s st := by
    unfold placeChange
    extract_lets t
    rw [tieredAt_placementDone, tieredAt_putTiered_self]
    unfold t
    rw [tieredAt_rowState]
    rfl
  have hu : placeRow (placed s fn m part) part key (placeReq fn m) = placeChange (rowState s fn part key m) part key (placeReq fn m) st :=
    placeRow_changes h
  obtain ⟨he, hframe⟩ := rowResult_frame hu hT (.inl hw) rfl
  rw [he]
  exact ⟨answered_row hin hm _ _ (by decide) rfl, by rw [hT]; rfl, by rw [hT]; rfl, hframe⟩

theorem mayCharge_rowState (n : Nat) : mayCharge (rowState s fn part key m) part fn 1 n = mayCharge s part fn 1 n :=
  (mayCharge_putTiered ..).trans (mayCharge_placed ..)

/-- Promote of an absent object with no room in the quota. -/
theorem row_promote_refused (hin : (mboxAt s fn).inbox = [m]) (hm : m.cls = 3) (hw : (tieredAt s key).waiters = [])
    (hstate : (tieredAt s key).state = .absent) (hop : field m.bytes 0 1 = 1) (hroom : mayCharge s part fn 1 (copyCharge s key) = false) :
    Answered s (rowResult s fn part key m) fn m 0x0681 ∧ PlaceStays s key (field m.bytes 1 1) (rowResult s fn part key m) := by
  refine row_answers hin hm (by decide) ?_ (.inl hw)
  refine (placeRow_promoteAbsent (s := placed s fn m part) (r := placeReq fn m) hstate hop).trans ?_
  exact if_pos (by rw [Bool.not_eq_true']; exact (mayCharge_rowState _).trans hroom)

/-- The address that a promote draws for its copy. -/
def drawnCopy (s : State) (part key : Nat) : Nat := newAddr s part 1 (copyCharge s key) 64

/-- The state after a draw. -/
def refreshed (s : State) : State := { s with fresh := s.fresh + 1 }

theorem tieredAt_refreshed (s : State) (key : Nat) : tieredAt (refreshed s) key = tieredAt s key := rfl

theorem promoteAbsent_out {r : PlaceReq} (hroom : mayCharge u part r.fn 1 (copyCharge u key) = true)
    (hout : copyOut u part key (drawnCopy u part key) = true) :
    promoteAbsent u part key r = placeAnswer (refreshed u) part key r 0x0685 :=
  (if_neg (by rw [hroom]; decide)).trans (if_pos hout)

/-- The object of a promote whose copy starts. -/
def promoted (u : State) (part key : Nat) (r : PlaceReq) : Tiered :=
  { (tieredAt u key).to u .promoting with
    copying := true, dirty := false, charged := r.fn, copyAddr := drawnCopy u part key, current := [r] }

/-- The state in which its copy is charged. -/
def copyCharged (u : State) (part key : Nat) (r : PlaceReq) : State :=
  { charge u part r.fn 1 (copyCharge u key) with fresh := u.fresh + 1 }

theorem promoteAbsent_starts {r : PlaceReq} (hroom : mayCharge u part r.fn 1 (copyCharge u key) = true)
    (hout : copyOut u part key (drawnCopy u part key) = false) :
    promoteAbsent u part key r = putTiered (copyCharged u part key r) key (promoted u part key r) :=
  (if_neg (by rw [hroom]; decide)).trans
    (if_neg (show ¬ copyOut u part key (drawnCopy u part key) = true by rw [hout]; decide))

theorem copyOut_rowState (addr : Nat) : copyOut (rowState s fn part key m) part key addr = copyOut s part key addr :=
  (copyOut_putTiered ..).trans (copyOut_placed ..)

/-- Promote of an absent object whose copy meets a channel out of service. -/
theorem row_promote_out (hin : (mboxAt s fn).inbox = [m]) (hm : m.cls = 3) (hw : (tieredAt s key).waiters = [])
    (hu : placeRow (placed s fn m part) part key (placeReq fn m)
      = placeAnswer (refreshed (rowState s fn part key m)) part key (placeReq fn m) 0x0685) :
    Answered s (rowResult s fn part key m) fn m 0x0685 ∧ PlaceStays s key (field m.bytes 1 1) (rowResult s fn part key m) := by
  have hT : tieredAt (placeAnswer (refreshed (rowState s fn part key m)) part key (placeReq fn m) 0x0685) key = rowObject s key m :=
    (tieredAt_placementDone ..).trans ((tieredAt_refreshed ..).trans (tieredAt_rowState ..))
  obtain ⟨he, hframe⟩ := rowResult_frame hu hT (.inl hw) rfl
  rw [he]
  exact ⟨answered_row hin hm _ _ (by decide) rfl, by rw [hT]; rfl, by rw [hT]; rfl, hframe⟩

theorem promoted_rowState : promoted (rowState s fn part key m) part key (placeReq fn m)
    = { (rowObject s key m).to s .promoting with
        copying := true, dirty := false, charged := fn, copyAddr := drawnCopy (rowState s fn part key m) part key, current := [placeReq fn m] } := by
  unfold promoted
  rw [tieredAt_rowState]
  rfl

/-- Promote of an absent object whose copy starts. -/
theorem row_promote_starts (hin : (mboxAt s fn).inbox = [m])
    (hout : copyOut s part key (drawnCopy (rowState s fn part key m) part key) = false)
    (hu : placeRow (placed s fn m part) part key (placeReq fn m) = putTiered (copyCharged (rowState s fn part key m) part key (placeReq fn m)) key
      (promoted (rowState s fn part key m) part key (placeReq fn m))) :
    (Consumed s (rowResult s fn part key m) fn m ∧ (mboxAt (rowResult s fn part key m) fn).held = (mboxAt s fn).held)
      ∧ PlaceTurns s key (field m.bytes 1 1) .promoting (rowResult s fn part key m)
      ∧ charged (rowResult s fn part key m) part fn 1 = charged s part fn 1 + copyCharge s key
      ∧ copyOut s part key (tieredAt (rowResult s fn part key m) key).copyAddr = false := by
  have hT := (tieredAt_putTiered_self (copyCharged (rowState s fn part key m) part key (placeReq fn m)) key
    (promoted (rowState s fn part key m) part key (placeReq fn m))).trans promoted_rowState
  obtain ⟨he, hframe⟩ := rowResult_frame hu hT (.inr (.inl rfl)) rfl
  rw [he]
  refine ⟨waits_row hin ?_, ⟨by rw [hT]; rfl, by rw [hT]; rfl, hframe⟩, ?_, by rw [hT]; exact hout⟩
  · exact (charge_only (rowState s fn part key m) part fn 1 (copyCharge (rowState s fn part key m) key)).mboxAt (by decide) fn
  · refine (charged_charge (rowState s fn part key m) part fn 1 (copyCharge (rowState s fn part key m) key)).trans ?_
    exact congrArg (· + copyCharge s key) (charged_placed s fn m part part fn 1)

/-- Promote of an absent object with room: the copy is charged and starts, or meets a channel out of service. -/
theorem row_promote (hin : (mboxAt s fn).inbox = [m]) (hm : m.cls = 3) (hw : (tieredAt s key).waiters = [])
    (hstate : (tieredAt s key).state = .absent) (hop : field m.bytes 0 1 = 1) (hroom : mayCharge s part fn 1 (copyCharge s key) = true) :
    ((Consumed s (rowResult s fn part key m) fn m ∧ (mboxAt (rowResult s fn part key m) fn).held = (mboxAt s fn).held)
        ∧ PlaceTurns s key (field m.bytes 1 1) .promoting (rowResult s fn part key m)
        ∧ charged (rowResult s fn part key m) part fn 1 = charged s part fn 1 + copyCharge s key
        ∧ copyOut s part key (tieredAt (rowResult s fn part key m) key).copyAddr = false)
      ∨ ((Answered s (rowResult s fn part key m) fn m 0x0685 ∧ PlaceStays s key (field m.bytes 1 1) (rowResult s fn part key m))
        ∧ ¬(s.rel.lpddrOut = [] ∧ s.rel.hbmOut = [])) := by
  have hu : placeRow (placed s fn m part) part key (placeReq fn m) = promoteAbsent (rowState s fn part key m) part key (placeReq fn m) :=
    placeRow_promoteAbsent hstate hop
  have hroom' := (mayCharge_rowState (s := s) (fn := fn) (part := part) (key := key) (m := m) (copyCharge s key)).trans hroom
  cases hout : copyOut s part key (drawnCopy (rowState s fn part key m) part key) with
  | true =>
    refine .inr ⟨row_promote_out hin hm hw (hu.trans (promoteAbsent_out hroom' ((copyOut_rowState _).trans hout))), fun ⟨hlpddr, hhbm⟩ => ?_⟩
    rw [copyOut_of_none part key _ hlpddr hhbm] at hout
    exact absurd hout (by decide)
  | false =>
    exact .inl (row_promote_starts hin hout (hu.trans (promoteAbsent_starts hroom' ((copyOut_rowState _).trans hout))))

/-- Promote of an object that is evicted, with no room in the quota. -/
theorem row_cancel_refused (hin : (mboxAt s fn).inbox = [m]) (hm : m.cls = 3) (hstate : (tieredAt s key).state = .evicting)
    (hop : field m.bytes 0 1 = 1) (hcopying : (tieredAt s key).copying = false) (hcharged : (tieredAt s key).charged ≠ fn)
    (hroom : mayCharge s part fn 1 (copyCharge s key) = false) :
    Answered s (rowResult s fn part key m) fn m 0x0681 ∧ PlaceStays s key (field m.bytes 1 1) (rowResult s fn part key m) := by
  refine row_answers hin hm (by decide) ?_ (.inr (.inr hstate))
  refine (placeRow_promoteEvicting (s := placed s fn m part) (r := placeReq fn m) hstate hop hcopying).trans ?_
  unfold promoteEvicting
  extract_lets t n s1 src s2
  refine if_pos ?_
  have ht : t = rowObject s key m := tieredAt_rowState ..
  rw [ht, Bool.and_eq_true, decide_eq_true_iff, Bool.not_eq_true']
  exact ⟨hcharged, (mayCharge_rowState _).trans hroom⟩

/-- Promote of an object whose copy home has not begun cancels its eviction. -/
theorem row_cancel (hin : (mboxAt s fn).inbox = [m]) (hstate : (tieredAt s key).state = .evicting)
    (hop : field m.bytes 0 1 = 1) (hcopying : (tieredAt s key).copying = false)
    (hroom : (tieredAt s key).charged = fn ∨ mayCharge s part fn 1 (copyCharge s key) = true) :
    Consumed s (rowResult s fn part key m) fn m ∧ PlaceAnswered fn m.seq 0 (rowResult s fn part key m)
      ∧ (∀ x ∈ (tieredAt s key).current, PlaceAnswered x.fn x.seq 0x0683 (rowResult s fn part key m))
      ∧ ((tieredAt s key).waiters = [] → PlaceTurns s key (field m.bytes 1 1) .resident (rowResult s fn part key m)
        ∧ (tieredAt (rowResult s fn part key m) key).charged = fn) := by
  have hu := placeRow_promoteEvicting (s := placed s fn m part) (part := part) (key := key) (r := placeReq fn m) hstate hop hcopying
  unfold promoteEvicting at hu
  extract_lets t n s1 src s2 at hu
  have ht : t = rowObject s key m := tieredAt_rowState ..
  have hn : s1.now = s.now := ((uncharge_only ..).trans (charge_only ..)).same .now (by decide)
  have hif : ¬ ((decide (t.charged ≠ (placeReq fn m).fn) && !mayCharge (classed (placed s fn m part) key (placeReq fn m)) part (placeReq fn m).fn 1 n)
      = true) := by
    rw [ht, Bool.and_eq_true, decide_eq_true_iff, Bool.not_eq_true', not_and_or, not_not, Bool.not_eq_false]
    exact hroom.imp id fun h => (mayCharge_rowState (key := key) _).trans h
  rw [if_neg hif] at hu
  have hT2 : tieredAt s2 key = { (rowObject s key m).to s .resident with charged := fn, current := [] } := by
    refine (tieredAt_putTiered_self ..).trans ?_
    unfold src Tiered.to Tiered.next
    rw [ht, hn]
    rfl
  have hT : tieredAt (placementDone (completeAll s2 part t.current 0x0683 (t.next s2)) part (placeReq fn m) 0 (t.next s2)) key
      = { (rowObject s key m).to s .resident with charged := fn, current := [] } :=
    (tieredAt_placementDone ..).trans ((tieredAt_of_only (completeAll_only ..) (by decide) key).trans hT2)
  have hserved : ObjectServed key (placementDone (completeAll s2 part t.current 0x0683 (t.next s2)) part (placeReq fn m) 0 (t.next s2))
      (rowResult s fn part key m) := by
    unfold rowResult
    rw [hu]
    exact serveAll_served ..
  have hall : ObjectServed key (placed s fn m part) (rowResult s fn part key m) := (placeRow_served ..).trans (serveAll_served ..)
  refine ⟨consumed_of_kept hin ((InboxKept.of_only (bump_only ..) (by decide)).trans hall.inbox),
    hserved.answered (placementDone_answered _ _ (placeReq fn m) _ (by decide)), fun x hx => hserved.answered ?_, fun hw => ?_⟩
  · exact (ObjectServed.placementDone (key := key) ..).answered
      (completeAll_answered s2 part t.current (t.next s2) (by decide) (by rw [ht]; exact hx))
  · obtain ⟨he, hframe⟩ := rowResult_frame hu hT (.inl hw) rfl
    rw [he]
    exact ⟨⟨by rw [hT]; rfl, by rw [hT]; rfl, hframe⟩, by rw [hT]⟩

end Outcome

end Sys2Proof.Machine

/-! PROOFS. O35: placement requests, and the copies of a tiered object. -/

namespace Sys2Proof.Machine

/-! ## The ends of copies and write-backs -/

section Copies

variable {s : State} {part key : Nat}

theorem tieredAt_completeAll (s : State) (l : List PlaceReq) (st : Status) (done : Nat) :
    tieredAt (completeAll s part l st done) key = tieredAt s key := tieredAt_of_only (completeAll_only ..) (by decide) key

/-- The requests under way are completed, then those that wait are served. -/
theorem serveAll_completeAll {l : List PlaceReq} {T : Tiered} {st : Status} (done : Nat) (hT : tieredAt s key = T) (hst : st < 2 ^ 16) :
    (∀ r ∈ l, PlaceAnswered r.fn r.seq st (serveAll (completeAll s part l st done) part key))
      ∧ (T.waiters = [] → tieredAt (serveAll (completeAll s part l st done) part key) key = T) := by
  refine ⟨fun r hr => (serveAll_served ..).answered (completeAll_answered s part l done hst hr), fun hw => ?_⟩
  have hcomplete : tieredAt (completeAll s part l st done) key = T := (tieredAt_completeAll ..).trans hT
  rw [serveAll_of_none part (.inl (by rw [hcomplete]; exact hw))]
  exact hcomplete

/-- A copy dropped: its requests are completed, and the object is absent. -/
theorem dropCopy_law (s : State) (part key : Nat) {st : Status} (hst : st < 2 ^ 16) :
    (∀ r ∈ (tieredAt s key).current, PlaceAnswered r.fn r.seq st (dropCopy s part key st))
      ∧ ((tieredAt s key).waiters = [] → (tieredAt (dropCopy s part key st) key).state = .absent) := by
  unfold dropCopy
  extract_lets t s1 src s2
  obtain ⟨hanswered, hkept⟩ := serveAll_completeAll (part := part) (l := t.current) (t.next s2) (tieredAt_putTiered_self s1 key _) hst
  exact ⟨hanswered, fun hw => congrArg Tiered.state (hkept hw)⟩

theorem dropCopy_frame (s : State) (part key : Nat) (st : Status) : (∀ k, k ≠ key → tieredAt (dropCopy s part key st) k = tieredAt s k)
    ∧ (dropCopy s part key st).queues = s.queues ∧ (dropCopy s part key st).jobs = s.jobs ∧ (dropCopy s part key st).bufs = s.bufs :=
  ⟨(dropCopy_served ..).others, (dropCopy_only ..).same .queues (by decide), (dropCopy_only ..).same .jobs (by decide),
    (dropCopy_only ..).same .bufs (by decide)⟩

theorem copyUsed_false_iff {s : State} {T : Tiered} : (decide (T.state ≠ .evicting) || T.copying || copyUsed s key) = false
    ↔ T.state = .evicting ∧ T.copying = false ∧ copyUsed s key = false := by
  rw [Bool.or_eq_false_iff, Bool.or_eq_false_iff, decide_eq_false_iff_not, not_not, and_assoc]

/-- What a copy's end may not touch. -/
def CopyOthers (s : State) (key : Nat) (t : State) : Prop := (∀ k, k ≠ key → tieredAt t k = tieredAt s k) ∧ t.queues = s.queues ∧ t.jobs = s.jobs

/-- Serving one object touches no other, no queue, no job and no buffer. -/
theorem CopyOthers.of_served {t : State} (h : ObjectServed key s t) (hsame : Only [.fresh, .dict, .parts, .tiered, .mbx] s t) :
    CopyOthers s key t ∧ t.bufs = s.bufs :=
  ⟨⟨h.others, hsame.same .queues (by decide), hsame.same .jobs (by decide)⟩, hsame.same .bufs (by decide)⟩

theorem copyFails_served (s : State) (part key : Nat) (st : Status) : ObjectServed key s (copyFails s part key st) := by
  unfold copyFails
  extract_lets t src s1
  exact .ite (.refl s) (.ite (dropCopy_served ..) (.ite ((ObjectServed.putTiered ..).trans ((completeAll_served ..).trans (serveAll_served ..)))
    (.refl s)))

/-- A copy home that fails: its requests are completed, and the object is resident again. -/
theorem copyFails_evicting {st : Status} (hstate : (tieredAt s key).state = .evicting) (hcopying : (tieredAt s key).copying = true) (hst : st < 2 ^ 16) :
    (∀ r ∈ (tieredAt s key).current, PlaceAnswered r.fn r.seq st (copyFails s part key st))
      ∧ ((tieredAt s key).waiters = [] → (tieredAt (copyFails s part key st) key).state = .resident
          ∧ (tieredAt (copyFails s part key st) key).dirty = true ∧ (tieredAt (copyFails s part key st) key).copy = (tieredAt s key).copy) := by
  unfold copyFails
  extract_lets t src s1
  have ht : t.state = .evicting := hstate
  rw [if_neg (by rw [show t.copying = true from hcopying]; decide), if_neg (by rw [ht]; decide), if_pos ht]
  obtain ⟨hanswered, hkept⟩ := serveAll_completeAll (part := part) (l := t.current) (t.next s1) (tieredAt_putTiered_self s key
    { src with copying := false, dirty := true, current := [] }) hst
  refine ⟨hanswered, fun hw => ?_⟩
  have hT := hkept hw
  exact ⟨congrArg Tiered.state hT, congrArg Tiered.dirty hT, (congrArg Tiered.copy hT).trans rfl⟩

end Copies

section Ends

variable {s : State} {part index : Nat}

/-- The end of a promote's copy. -/
theorem promoteDone_law {b : Buf} (hb : FMap.get? s.bufs (bufKey part index) = some b)
    (hstate : (tieredAt s (bufKey part index)).state = .promoting) :
    CopyOthers s (bufKey part index) (promoteDone s part index) ∧ (promoteDone s part index).bufs = s.bufs
      ∧ (∀ r ∈ (tieredAt s (bufKey part index)).current, PlaceAnswered r.fn r.seq 0 (promoteDone s part index))
      ∧ ((tieredAt s (bufKey part index)).waiters = [] →
        (tieredAt (promoteDone s part index) (bufKey part index)).state = .resident
          ∧ (tieredAt (promoteDone s part index) (bufKey part index)).copy = b.data
          ∧ (tieredAt (promoteDone s part index) (bufKey part index)).dirty = false
          ∧ (tieredAt (promoteDone s part index) (bufKey part index)).current = []
          ∧ (tieredAt (promoteDone s part index) (bufKey part index)).changed = max s.now (tieredAt s (bufKey part index)).changed + 1) := by
  unfold promoteDone
  extract_lets key t b' s1 src s2
  rw [if_neg (not_not.mpr hstate)]
  have hb' : b' = some b := hb
  have h1 : Only [.dict] s s1 := copyBytes_only ..
  have hserved : ObjectServed key s (serveAll (completeAll s2 part t.current 0 (t.next s2)) part key) :=
    (ObjectServed.of_only h1 (by decide) (by decide)).trans
      ((ObjectServed.putTiered ..).trans ((completeAll_served ..).trans (serveAll_served ..)))
  obtain ⟨hothers, hbufs⟩ := CopyOthers.of_served hserved
    (.mono (by rfl) <| h1.trans ((putTiered_only ..).trans ((completeAll_only ..).trans (serveAll_only ..))))
  obtain ⟨hanswered, hkept⟩ := serveAll_completeAll (part := part) (l := t.current) (t.next s2) (tieredAt_putTiered_self s1 key
    { src with copying := false, dirty := false, copy := (b'.map Buf.data).getD [], current := [] }) (show 0 < 2 ^ 16 by decide)
  refine ⟨hothers, hbufs, hanswered, fun hw => ?_⟩
  have hT := hkept hw
  refine ⟨congrArg Tiered.state hT, (congrArg Tiered.copy hT).trans (by rw [hb']; rfl), congrArg Tiered.dirty hT, congrArg Tiered.current hT,
    (congrArg Tiered.changed hT).trans ?_⟩
  show max s1.now t.changed + 1 = _
  rw [h1.same .now (by decide)]

/-- A write-back that starts while no channel is out: the copy home is under way. -/
theorem beginWriteBack_starts (hstate : (tieredAt s (bufKey part index)).state = .evicting) (hcopying : (tieredAt s (bufKey part index)).copying = false)
    (hused : copyUsed s (bufKey part index) = false) (hdirty : (tieredAt s (bufKey part index)).dirty = true)
    (hout : copyOut s part (bufKey part index) (tieredAt s (bufKey part index)).copyAddr = false) :
    beginWriteBack s part index = putTiered s (bufKey part index)
      { (tieredAt s (bufKey part index)).to s .evicting with copying := true } := by
  unfold beginWriteBack
  extract_lets key t src s1
  rw [if_neg (by rw [Bool.not_eq_true]; exact copyUsed_false_iff.mpr ⟨hstate, hcopying, hused⟩), if_pos (show t.dirty = true from hdirty)]
  exact if_neg (by rw [Bool.not_eq_true]; exact hout)

/-- A write-back that meets a channel out of service: the object is resident again. -/
theorem beginWriteBack_fails (hstate : (tieredAt s (bufKey part index)).state = .evicting) (hcopying : (tieredAt s (bufKey part index)).copying = false)
    (hused : copyUsed s (bufKey part index) = false) (hdirty : (tieredAt s (bufKey part index)).dirty = true)
    (hout : copyOut s part (bufKey part index) (tieredAt s (bufKey part index)).copyAddr = true) :
    CopyOthers s (bufKey part index) (beginWriteBack s part index) ∧ (beginWriteBack s part index).bufs = s.bufs
      ∧ (∀ r ∈ (tieredAt s (bufKey part index)).current, PlaceAnswered r.fn r.seq 0x0685 (beginWriteBack s part index))
      ∧ ((tieredAt s (bufKey part index)).waiters = [] →
        (tieredAt (beginWriteBack s part index) (bufKey part index)).state = .resident
          ∧ (tieredAt (beginWriteBack s part index) (bufKey part index)).dirty = true
          ∧ (tieredAt (beginWriteBack s part index) (bufKey part index)).copy = (tieredAt s (bufKey part index)).copy) := by
  have he : beginWriteBack s part index = copyFails (putTiered s (bufKey part index)
      { (tieredAt s (bufKey part index)).to s .evicting with copying := true }) part (bufKey part index) 0x0685 := by
    unfold beginWriteBack
    extract_lets key t src s1
    rw [if_neg (by rw [Bool.not_eq_true]; exact copyUsed_false_iff.mpr ⟨hstate, hcopying, hused⟩), if_pos (show t.dirty = true from hdirty)]
    exact if_pos hout
  rw [he]
  have hself := tieredAt_putTiered_self s (bufKey part index) { (tieredAt s (bufKey part index)).to s .evicting with copying := true }
  obtain ⟨hanswered, hkept⟩ := copyFails_evicting (part := part) (congrArg Tiered.state hself) (congrArg Tiered.copying hself)
    (show 0x0685 < 2 ^ 16 by decide)
  obtain ⟨hothers, hbufs⟩ := CopyOthers.of_served ((ObjectServed.putTiered s (bufKey part index)
      { (tieredAt s (bufKey part index)).to s .evicting with copying := true }).trans (copyFails_served _ part (bufKey part index) 0x0685))
    (.mono (by rfl) <| (putTiered_only ..).trans (copyFails_only ..))
  rw [hself] at hanswered hkept
  exact ⟨hothers, hbufs, hanswered, hkept⟩

/-- A write-back of a clean object drops its copy. -/
theorem beginWriteBack_drops (hstate : (tieredAt s (bufKey part index)).state = .evicting) (hcopying : (tieredAt s (bufKey part index)).copying = false)
    (hused : copyUsed s (bufKey part index) = false) (hdirty : (tieredAt s (bufKey part index)).dirty = false) :
    beginWriteBack s part index = dropCopy s part (bufKey part index) 0 := by
  unfold beginWriteBack
  extract_lets key t src s1
  rw [if_neg (by rw [Bool.not_eq_true]; exact copyUsed_false_iff.mpr ⟨hstate, hcopying, hused⟩)]
  exact if_neg (by rw [Bool.not_eq_true]; exact hdirty)

/-- The end of a write-back: the buffer takes the copy's contents, and the copy is dropped. -/
theorem endWriteBack_law {b : Buf} (hb : FMap.get? s.bufs (bufKey part index) = some b)
    (hstate : (tieredAt s (bufKey part index)).state = .evicting) (hcopying : (tieredAt s (bufKey part index)).copying = true) :
    CopyOthers s (bufKey part index) (endWriteBack s part index)
      ∧ (∀ r ∈ (tieredAt s (bufKey part index)).current, PlaceAnswered r.fn r.seq 0 (endWriteBack s part index))
      ∧ ((tieredAt s (bufKey part index)).waiters = [] → (tieredAt (endWriteBack s part index) (bufKey part index)).state = .absent)
      ∧ FMap.get? (endWriteBack s part index).bufs (bufKey part index) = some { b with data := (tieredAt s (bufKey part index)).copy }
      ∧ ∀ k, k ≠ bufKey part index → FMap.get? (endWriteBack s part index).bufs k = FMap.get? s.bufs k := by
  unfold endWriteBack
  extract_lets key t b' s1
  rw [if_neg (by rw [Bool.or_eq_true, decide_eq_true_iff, not_or, not_not]; exact ⟨hstate, by rw [show t.copying = true from hcopying]; decide⟩)]
  have h1 : Only [.dict] s s1 := copyBytes_only ..
  generalize hs2 : ({ s1 with bufs := FMap.modify s1.bufs key fun b => { b with data := t.copy } } : State) = s2
  have h2 : Only [.dict, .bufs] s s2 := .mono (by rfl) <| h1.trans (hs2 ▸ setBufs_only s1 _)
  have hT : tieredAt s2 key = t := tieredAt_of_only h2 (by decide) key
  obtain ⟨hanswered, hkept⟩ := dropCopy_law s2 part key (show 0 < 2 ^ 16 by decide)
  obtain ⟨hothers, hqueues, hjobs, hbufs⟩ := dropCopy_frame s2 part key 0
  rw [hT] at hanswered hkept
  have hbufs2 : (dropCopy s2 part key 0).bufs = FMap.modify s.bufs key fun b => { b with data := t.copy } := by
    rw [hbufs, ← hs2, ← h1.same .bufs (by decide)]
  refine ⟨⟨fun k hk => (hothers k hk).trans (tieredAt_of_only h2 (by decide) k), hqueues.trans (h2.same .queues (by decide)),
    hjobs.trans (h2.same .jobs (by decide))⟩, hanswered, hkept, ?_, fun k hk => ?_⟩
  · rw [hbufs2, FMap.get?_modify, if_pos rfl, show FMap.get? s.bufs key = some b from hb]
    rfl
  · rw [hbufs2, FMap.get?_modify, if_neg hk]

end Ends

/-! ## The requests -/

section Requests

variable {s : State} {fn op : Nat} {m : MboxMsg} {cmd : Instr}

/-- A request whose turn has come, refused: by its class, by its queue, by the count of requests, by its handle, by its tier. -/
theorem placement_checks (hcmd : exec cmd s = .next (onPlacement s fn op)) (h : AtHead s fn m 3 op) :
    let q := field m.bytes 8 2
    let h := field m.bytes 4 4
    let turn := !earlierHead s fn m (fun x => field x.bytes 8 2) (placeObject s)
    (turn = false → Runs cmd s (· = s))
    ∧ (turn = true → 5 < field m.bytes 1 1 → Runs cmd s fun t => Answered s t fn m 0x0301 ∧ t.queues = s.queues ∧ t.tiered = s.tiered)
    ∧ (turn = true → field m.bytes 1 1 ≤ 5 → ((queueAt s q).all fun Q => Q.fn ≠ fn) = true →
        Runs cmd s fun t => Answered s t fn m 0x0803 ∧ t.queues = s.queues ∧ t.tiered = s.tiered)
    ∧ ∀ Q, turn = true → field m.bytes 1 1 ≤ 5 → queueAt s q = some Q → Q.fn = fn →
      (256 ≤ dnum s (0x5000 + Q.part) 8 → Runs cmd s fun t => Answered s t fn m 0x068D ∧ t.queues = s.queues ∧ t.tiered = s.tiered)
      ∧ (dnum s (0x5000 + Q.part) 8 < 256 → handleStatus s q Q [h] ≠ 0 → Runs cmd s fun t =>
          Answered s t fn m (handleStatus s q Q [h]) ∧ t.tiered = s.tiered
            ∧ (handleStatus s q Q [h] ≠ 0x0211 → t.queues = s.queues)
            ∧ (handleStatus s q Q [h] = 0x0211 → (queueAt t q).map Queue.offences = some ((s.now :: Q.offences).take 16)))
      ∧ (dnum s (0x5000 + Q.part) 8 < 256 → handleStatus s q Q [h] = 0 → ((bufAt s Q.part h).any fun b => b.tier = 2) = false →
          Runs cmd s fun t => Answered s t fn m 0x0682 ∧ t.queues = s.queues ∧ t.tiered = s.tiered) := by
  intro q hdl turn
  have hturn (ht : turn = true) : earlierHead s fn m (fun x => field x.bytes 8 2) (placeObject s) = false := by
    rwa [show turn = !earlierHead s fn m (fun x => field x.bytes 8 2) (placeObject s) from rfl, Bool.not_eq_true'] at ht
  refine ⟨fun ht => ?_, fun ht hcls => ?_, fun ht hcls hforeign => ?_, fun Q ht hcls hQ hfn => ⟨fun hfull => ?_, fun hroom hst => ?_,
    fun hroom hst htier => ?_⟩⟩
  · refine ⟨_, hcmd.trans (congrArg _ (onPlacement_of_no_turn h ?_)), rfl⟩
    rwa [show turn = !earlierHead s fn m (fun x => field x.bytes 8 2) (placeObject s) from rfl, Bool.not_eq_false'] at ht
  · exact placement_refused hcmd h (hturn ht) (placeRequest_badClass hcls) (by decide)
  · exact placement_refused hcmd h (hturn ht) (placeRequest_foreign hcls hforeign) (by decide)
  · exact placement_refused hcmd h (hturn ht) ((placeRequest_own (s := popMessage s fn m) hcls hQ hfn).trans (if_pos hfull)) (by decide)
  · exact placement_badHandle hcmd h (hturn ht) hcls hQ hfn hroom hst
  · refine placement_refused hcmd h (hturn ht) ?_ (by decide)
    refine (placeRequest_own (s := popMessage s fn m) hcls hQ hfn).trans ?_
    extract_lets st key
    rw [if_neg (show ¬ 256 ≤ dnum (popMessage s fn m) (0x5000 + Q.part) 8 from Nat.not_le.mpr hroom), if_neg (show ¬ st ≠ 0 from not_not.mpr hst)]
    exact if_pos (by rw [Bool.not_eq_true']; exact htier)

/-- The command runs the request's row. -/
theorem placement_row {Q : Queue} (hcmd : exec cmd s = .next (onPlacement s fn op)) (h : AtHead s fn m 3 op)
    (hturn : earlierHead s fn m (fun x => field x.bytes 8 2) (placeObject s) = false)
    (hcls : field m.bytes 1 1 ≤ 5) (hQ : queueAt s (field m.bytes 8 2) = some Q) (hfn : Q.fn = fn)
    (hst : handleStatus s (field m.bytes 8 2) Q [field m.bytes 4 4] = 0)
    (hcap : ((bufAt s Q.part (field m.bytes 4 4)).any fun b => b.tier = 2) = true) (hroom : dnum s (0x5000 + Q.part) 8 < 256) {P : State → Prop}
    (hP : P (rowResult s fn Q.part (bufKey Q.part (hIndex (field m.bytes 4 4))) m)) : Runs cmd s P :=
  ⟨_, hcmd.trans (congrArg _ (onPlacement_row h hturn hcls hQ hfn hst hcap hroom)), hP⟩

end Requests

/-- Settles O35: a request that its checks pass runs its row of Table 6.8a, then those that waited for the object. -/
theorem placement_holds : Obligations.Placement := by
  unfold Obligations.Placement
  refine ⟨fun s fn op m hat hlo hhi => ?_, fun s fn op q h m Q hat hq hh hturn hcls hQ hfn hst hcap hpart hroom => ?_, fun s part index => ?_⟩
  · obtain rfl | rfl | rfl | rfl : op = 1 ∨ op = 2 ∨ op = 3 ∨ op = 4 := by omega
    · exact placement_checks (cmd := .promote fn) rfl hat
    · exact placement_checks (cmd := .evict fn) rfl hat
    · exact placement_checks (cmd := .pin fn) rfl hat
    · exact placement_checks (cmd := .unpin fn) rfl hat
  · subst hq hh
    obtain ⟨-, hin, hm, hop⟩ := id hat
    have hrow {cmd : Instr} {P : State → Prop} (hcmd : exec cmd s = .next (onPlacement s fn op))
        (hP : P (rowResult s fn Q.part (bufKey Q.part (hIndex (field m.bytes 4 4))) m)) : Runs cmd s P :=
      placement_row hcmd hat hturn hcls hQ hfn hst hcap hroom hP
    intro key T frame stays turns waits answers joins queues
    refine ⟨fun hw => ⟨?_, ?_, ?_, ?_, ?_, ?_, ?_, ?_, ?_, ?_, ?_⟩, fun hstate => ⟨?_, ?_, ?_, ?_⟩, fun hstate => ⟨?_, ?_, ?_, ?_, ?_, ?_⟩⟩
    · rintro rfl hstate
      refine hrow rfl (row_table hin hm hw ?_ (by decide))
      rcases hstate with hstate | hstate <;> rw [hstate, hop] <;> rfl
    · rintro rfl hstate hmay
      exact hrow rfl (row_promote_refused hin hm hw hstate hop hmay)
    · rintro rfl hstate hmay
      exact hrow rfl (row_promote hin hm hw hstate hop hmay)
    · rintro rfl hstate
      exact hrow rfl (row_evict hin hstate hop)
    · rintro rfl hstate
      exact hrow rfl (row_table hin hm hw (by rw [hstate, hop]; rfl) (by decide))
    · rintro rfl hstate
      exact hrow rfl (row_table hin hm hw (by rw [hstate, hop]; rfl) (by decide))
    · rintro rfl hstate
      exact hrow rfl (row_changes hin hm hw (.inl ⟨hstate, hop, rfl⟩))
    · rintro rfl hstate
      exact hrow rfl (row_table hin hm hw (by rw [hstate, hop]; rfl) (by decide))
    · rintro rfl hstate
      exact hrow rfl (row_table hin hm hw (by rw [hstate, hop]; rfl) (by decide))
    · rintro rfl hstate
      exact hrow rfl (row_changes hin hm hw (.inr ⟨hstate, hop, rfl⟩))
    · rintro rfl hstate
      refine hrow rfl (row_table hin hm hw ?_ (by decide))
      rcases List.mem_pair.mp hstate with hstate | hstate <;> rw [hstate, hop] <;> rfl
    · rintro rfl
      exact hrow rfl (row_joins hin (.inl ⟨hstate, hop⟩))
    · rintro rfl
      exact hrow rfl (row_waits hin (.inl ⟨hstate, .inl hop⟩))
    · rintro rfl
      exact hrow rfl (row_waits hin (.inl ⟨hstate, .inr (.inl hop)⟩))
    · rintro rfl
      exact hrow rfl (row_waits hin (.inl ⟨hstate, .inr (.inr hop)⟩))
    · rintro rfl
      exact hrow rfl (row_joins hin (.inr ⟨hstate, hop⟩))
    · rintro rfl
      exact hrow rfl (row_waits hin (.inr ⟨hstate, .inl hop⟩))
    · rintro rfl
      exact hrow rfl (row_waits hin (.inr ⟨hstate, .inr (.inl hop)⟩))
    · rintro rfl hcopying
      exact hrow rfl (row_waits hin (.inr ⟨hstate, .inr (.inr ⟨hop, hcopying⟩)⟩))
    · rintro rfl hcopying hcharged hmay
      exact hrow rfl (row_cancel_refused hin hm hstate hop hcopying hcharged hmay)
    · rintro rfl hcopying hmay
      refine hrow rfl ?_
      obtain ⟨hconsumed, ⟨y, hy, hcls', hseq, hfield⟩, hrest⟩ := row_cancel (part := Q.part) hin hstate hop hcopying hmay
      exact ⟨hconsumed, ⟨y, hy, hcls', hseq, hfield⟩, hrest⟩
  · intro key T others complete
    refine ⟨fun hstate => ⟨_, rfl, if_pos hstate⟩, fun h => ⟨_, rfl, ?_⟩, fun h => ⟨_, rfl, ?_⟩,
      fun b hb => ⟨fun hstate => ⟨_, rfl, ?_⟩, fun hstate hcopying hused hdirty => ⟨fun hout => ⟨_, rfl, ?_⟩, fun hout => ⟨_, rfl, ?_⟩⟩,
        fun hstate hcopying hused hdirty => ⟨_, rfl, ?_⟩, fun hstate hcopying => ⟨_, rfl, ?_⟩⟩⟩
    · refine if_pos ?_
      rw [Bool.or_eq_true, Bool.or_eq_true, decide_eq_true_iff, or_assoc]
      exact h
    · refine if_pos ?_
      rw [Bool.or_eq_true, decide_eq_true_iff, Bool.not_eq_true']
      exact h
    · exact promoteDone_law hb hstate
    · rw [beginWriteBack_starts hstate hcopying hused hdirty hout]
      have hself := tieredAt_putTiered_self s key { T.to s .evicting with copying := true }
      exact ⟨rfl, ⟨fun k hk => tieredAt_putTiered_other s _ hk, rfl, rfl⟩, congrArg Tiered.state hself, congrArg Tiered.copying hself,
        (congrArg Tiered.copy hself).trans rfl⟩
    · exact beginWriteBack_fails hstate hcopying hused hdirty hout
    · rw [beginWriteBack_drops hstate hcopying hused hdirty]
      obtain ⟨hanswered, habsent⟩ := dropCopy_law s part key (show 0 < 2 ^ 16 by decide)
      obtain ⟨hothers, hqueues, hjobs, hbufs⟩ := dropCopy_frame s part key 0
      exact ⟨⟨hothers, hqueues, hjobs⟩, hbufs, hanswered, habsent⟩
    · exact endWriteBack_law hb hstate hcopying

end Sys2Proof.Machine

/-! PROOFS. O36: reed requests, the reed directory, and owner keys. -/

namespace Sys2Proof.Machine

/-! ## A reed request taken -/

section Taken

variable {s t : State} {fn op : Nat} {m : MboxMsg} {run : State → MboxMsg → State} {st : Status} {n : Nat}

theorem requestReedPart_plain (s : State) (fn : Nat) {b : List Byte} (h : reedNeedsQueue (field b 0 1) = false) :
    requestReedPart s fn b = reedPart s fn := if_neg (by rw [h]; decide)

/-- A reed request of an operation that names no queue waits. -/
theorem onReed_waits (h : AtHead s fn m 4 op) (hwait : (entryLocked s (requestReedPart s fn m.bytes) (dIndex m.bytes)
      || earlierHead s fn m (fun x => dQueue x.bytes) (reedObject s)) = true) : onReed s fn op run = s := by
  obtain ⟨hhead, -⟩ := h
  unfold onReed
  rw [hhead]
  exact if_pos hwait

/-- A reed request whose turn it is runs, or is refused for its reserved fields. -/
theorem onReed_of_turn (h : AtHead s fn m 4 op) (hturn : (entryLocked s (requestReedPart s fn m.bytes) (dIndex m.bytes)
      || earlierHead s fn m (fun x => dQueue x.bytes) (reedObject s)) = false)
    (hrun : (if reedMessageOk m.bytes then run (popMessage s fn m) m else answer (popMessage s fn m) fn m 0x0102 0) = t)
    (ht : (mboxAt t fn).inbox = []) : onReed s fn op run = t := by
  obtain ⟨hhead, -⟩ := id h
  have he := onMessage_of_atHead s fn 4 op m (fun s m => if reedMessageOk m.bytes then run s m else answer s fn m 0x0102 0) h
    (by simp only [hrun]; exact ht)
  unfold onReed
  rw [hhead]
  simp only [hturn, Bool.false_eq_true, if_false]
  exact he.trans hrun

/-- A reed request that runs to an answer. -/
theorem onReed_answers (h : AtHead s fn m 4 op) (hturn : (entryLocked s (requestReedPart s fn m.bytes) (dIndex m.bytes)
      || earlierHead s fn m (fun x => dQueue x.bytes) (reedObject s)) = false) (hok : reedMessageOk m.bytes = true)
    (hrun : run (popMessage s fn m) m = answer t fn m st n) (ht : mboxAt t fn = mboxAt (popMessage s fn m) fn) (hst : st < 2 ^ 16) :
    onReed s fn op run = answer t fn m st n ∧ Answered s (answer t fn m st n) fn m st := by
  obtain ⟨-, hin, -⟩ := id h
  have ha := answered_answer s t fn m st n hin ht hst
  exact ⟨onReed_of_turn h hturn ((if_pos hok).trans hrun) ha.1.1, ha⟩

/-- A reed request with a reserved field set. -/
theorem onReed_badMessage (h : AtHead s fn m 4 op) (hturn : (entryLocked s (requestReedPart s fn m.bytes) (dIndex m.bytes)
      || earlierHead s fn m (fun x => dQueue x.bytes) (reedObject s)) = false) (hok : reedMessageOk m.bytes = false) :
    onReed s fn op run = answer (popMessage s fn m) fn m 0x0102 0
      ∧ Answered s (answer (popMessage s fn m) fn m 0x0102 0) fn m 0x0102 := by
  obtain ⟨-, hin, -⟩ := id h
  have ha := answered_answer s (popMessage s fn m) fn m 0x0102 0 hin rfl (by decide)
  exact ⟨onReed_of_turn h hturn (if_neg (by rw [hok]; decide)) ha.1.1, ha⟩

theorem answer_popped_only (s : State) (fn : Nat) (m : MboxMsg) (st : Status) (n : Nat) : Only [.mbx] s (answer (popMessage s fn m) fn m st n) :=
  .mono (by rfl) <| (popMessage_only ..).trans (answer_only ..)

end Taken

/-! ## The directory (R203) -/

section Directory

variable {s : State} {fn op : Nat} {m : MboxMsg} {cmd : Instr} {run : State → MboxMsg → State}

theorem namedStatus_lt (s : State) (fn part h : Nat) (tiers : List Nat) : namedStatus s fn part h tiers < 2 ^ 16 := by
  unfold namedStatus
  split
  · decide
  split
  · decide
  split
  · decide
  split
  · decide
  split
  · decide
  split <;> decide

theorem imageBufStatus_lt (s : State) (fn part location handle : Nat) : imageBufStatus s fn part location handle < 2 ^ 16 := by
  unfold imageBufStatus
  split
  · decide
  split
  · decide
  · exact namedStatus_lt ..

theorem registerStatus_lt (s : State) (fn part : Nat) (b im : List Byte) : registerStatus s fn part b im < 2 ^ 16 := by
  unfold registerStatus
  extract_lets c st rec_
  split
  · decide
  split
  · exact imageBufStatus_lt ..
  split
  · decide
  split
  · decide
  clear_value rec_
  cases rec_ with
  | none => exact (by decide : 0x0111 < 2 ^ 16)
  | some k =>
  dsimp only
  split
  · decide
  split
  · decide
  split
  · decide
  split
  · decide
  split <;> decide

/-- A refused request changes no entry. -/
theorem reed_refused {st : Status} (hcmd : exec cmd s = .next (onReed s fn op run)) (h : AtHead s fn m 4 op)
    (hturn : (entryLocked s (requestReedPart s fn m.bytes) (dIndex m.bytes)
      || earlierHead s fn m (fun x => dQueue x.bytes) (reedObject s)) = false) (hok : reedMessageOk m.bytes = true)
    (hrun : run (popMessage s fn m) m = answer (popMessage s fn m) fn m st 0) (hst : st < 2 ^ 16) :
    Runs cmd s fun t => Answered s t fn m st ∧ t.dirs = s.dirs := by
  obtain ⟨he, ha⟩ := onReed_answers h hturn hok hrun rfl hst
  exact ⟨_, hcmd.trans (congrArg _ he), ha, (answer_popped_only ..).same .dirs (by decide)⟩

/-- An accepted request writes one entry. -/
theorem reed_writes {dirs : FMap DirEntry} {key : Nat} (hcmd : exec cmd s = .next (onReed s fn op run)) (h : AtHead s fn m 4 op)
    (hturn : (entryLocked s (requestReedPart s fn m.bytes) (dIndex m.bytes)
      || earlierHead s fn m (fun x => dQueue x.bytes) (reedObject s)) = false) (hok : reedMessageOk m.bytes = true)
    (hrun : run (popMessage s fn m) m = answer { popMessage s fn m with dirs := dirs } fn m 0 0)
    (hdirs : ∀ k, k ≠ key → FMap.get? dirs k = FMap.get? s.dirs k) :
    Runs cmd s fun t => Answered s t fn m 0 ∧ ((∀ k, k ≠ key → FMap.get? t.dirs k = FMap.get? s.dirs k) ∧ t = { s with mbx := t.mbx, dirs := t.dirs })
      ∧ t.dirs = dirs := by
  obtain ⟨he, ha⟩ := onReed_answers h hturn hok hrun rfl (by decide)
  have hdirs' : (answer { popMessage s fn m with dirs := dirs } fn m 0 0).dirs = dirs := (answer_only ..).same .dirs (by decide)
  have hall : Only [.mbx, .dirs] s (answer { popMessage s fn m with dirs := dirs } fn m 0 0) :=
    .mono (by rfl) <| (popMessage_only s fn m).trans ((setDirs_only (popMessage s fn m) dirs).trans (answer_only ..))
  exact ⟨_, hcmd.trans (congrArg _ he), ha, ⟨fun k hk => by rw [hdirs']; exact hdirs k hk, hall.eq_overlay⟩, hdirs'⟩

/-- The entry that an accepted register request writes (R203). -/
def registered (s : State) (fn : Nat) (b im : List Byte) : DirEntry :=
  { reedId := field (imContract im) 8 8
    addr := if dLocation b ≤ 2 then 0 else field b 16 8
    imageBytes := imBytes im
    keyId := field (imContract im) 64 4
    version := field (imContract im) 68 4
    baseGen := baseGen s (reedPart s fn)
    location := dLocation b
    rank := coRank (imContract im)
    placement := coPlacement (imContract im)
    owner := field (imContract im) 4 4
    layers := coLayers (imContract im)
    purpose := coPurpose (imContract im)
    handle := if dLocation b ≤ 2 then dHandle b else 0
    contract := imContract im
    header := slice im 0 64 }

theorem registerReed_ok {image : List Byte}
    (h : registerStatus s fn (reedPart s fn) m.bytes (imageAt s (reedPart s fn) (dLocation m.bytes) (dHandle m.bytes) image) = 0) :
    registerReed s fn m image = answer
      { s with dirs := FMap.set s.dirs (dirKey (reedPart s fn) (dIndex m.bytes))
                (registered s fn m.bytes (imageAt s (reedPart s fn) (dLocation m.bytes) (dHandle m.bytes) image)) }
      fn m 0 0 := by
  unfold registerReed
  extract_lets b part loc im c st e
  exact if_neg (not_not.mpr h)

theorem registerReed_refused {image : List Byte}
    (h : registerStatus s fn (reedPart s fn) m.bytes (imageAt s (reedPart s fn) (dLocation m.bytes) (dHandle m.bytes) image) ≠ 0) :
    registerReed s fn m image = answer s fn m
      (registerStatus s fn (reedPart s fn) m.bytes (imageAt s (reedPart s fn) (dLocation m.bytes) (dHandle m.bytes) image)) 0 := by
  unfold registerReed
  extract_lets b part loc im c st e
  exact if_pos h

theorem relocateReed_absent {image : List Byte} (h : dirAt s (reedPart s fn) (dIndex m.bytes) = none) :
    relocateReed s fn m image = answer s fn m 0x0101 0 := by
  unfold relocateReed
  extract_lets b part loc
  simp only [part, b, h]

theorem removeReed_absent (h : dirAt s (reedPart s fn) (dIndex m.bytes) = none) : removeReed s fn m = answer s fn m 0x0101 0 := by
  unfold removeReed
  extract_lets part
  simp only [part, h]

/-- The checks of relocate on a used entry, in order. -/
def relocateStatus (s : State) (fn : Nat) (b im : List Byte) (e : DirEntry) : Status :=
  if e.baseGen ≠ baseGen s (reedPart s fn) then 0x0107
  else if e.bound then 0x0109
  else if imageBufStatus s fn (reedPart s fn) (dLocation b) (dHandle b) ≠ 0 then imageBufStatus s fn (reedPart s fn) (dLocation b) (dHandle b)
  else if (placementAllows e.placement (dLocation b) && reedImageOk im (imageRoom s (reedPart s fn) (dLocation b) (dHandle b))
      && decide (imContract im = e.contract)) = false then 0x0102
  else 0

theorem relocateStatus_lt (s : State) (fn : Nat) (b im : List Byte) (e : DirEntry) : relocateStatus s fn b im e < 2 ^ 16 := by
  unfold relocateStatus
  split
  · decide
  split
  · decide
  split
  · exact imageBufStatus_lt ..
  split <;> decide

theorem any_fails_iff (a b : Bool) (P : Prop) [Decidable P] : (!a || !b || decide (¬P)) = true ↔ (a && b && decide P) = false := by
  cases a <;> cases b <;> simp

theorem relocateReed_present {image : List Byte} {e : DirEntry} (h : dirAt s (reedPart s fn) (dIndex m.bytes) = some e) :
    relocateReed s fn m image =
      if relocateStatus s fn m.bytes (imageAt s (reedPart s fn) (dLocation m.bytes) (dHandle m.bytes) image) e ≠ 0
      then answer s fn m (relocateStatus s fn m.bytes (imageAt s (reedPart s fn) (dLocation m.bytes) (dHandle m.bytes) image) e) 0
      else answer (updDir s (reedPart s fn) (dIndex m.bytes) fun e => { e with
        location := dLocation m.bytes
        header := slice (imageAt s (reedPart s fn) (dLocation m.bytes) (dHandle m.bytes) image) 0 64
        addr := if dLocation m.bytes ≤ 2 then 0 else field m.bytes 16 8
        handle := if dLocation m.bytes ≤ 2 then dHandle m.bytes else 0 }) fn m 0 0 := by
  unfold relocateReed relocateStatus
  extract_lets b part loc im st s1
  simp only [part, b, h]
  by_cases hgen : e.baseGen ≠ baseGen s (reedPart s fn)
  · rw [if_pos hgen, if_pos hgen, if_pos (by decide)]
  rw [if_neg hgen, if_neg hgen]
  by_cases hbound : e.bound = true
  · rw [if_pos hbound, if_pos hbound, if_pos (by decide)]
  rw [if_neg hbound, if_neg hbound]
  by_cases hst : st ≠ 0
  · rw [if_pos hst, if_pos hst, if_pos hst]
  rw [if_neg hst, if_neg hst]
  by_cases hagrees : (placementAllows e.placement (dLocation m.bytes) && reedImageOk im (imageRoom s (reedPart s fn) (dLocation m.bytes) (dHandle m.bytes))
      && decide (imContract im = e.contract)) = false
  · rw [if_pos hagrees]
    exact (if_pos ((any_fails_iff _ _ _).mpr hagrees)).trans (if_pos (by decide)).symm
  · rw [if_neg hagrees]
    exact (if_neg (mt (any_fails_iff _ _ _).mp hagrees)).trans (if_neg (by decide)).symm

theorem removeReed_present {e : DirEntry} (h : dirAt s (reedPart s fn) (dIndex m.bytes) = some e) :
    removeReed s fn m = if e.bound then answer s fn m 0x0109 0
      else answer { s with dirs := FMap.erase s.dirs (dirKey (reedPart s fn) (dIndex m.bytes)) } fn m 0 0 := by
  unfold removeReed
  extract_lets part
  simp only [part, h]

theorem get?_dirs_of_dirAt {part index : Nat} {e : DirEntry} (h : dirAt s part index = some e) : FMap.get? s.dirs (dirKey part index) = some e := by
  unfold dirAt at h
  split at h
  · exact h
  · cases h

end Directory

end Sys2Proof.Machine

/-! PROOFS. O36: the theorem. -/

namespace Sys2Proof.Machine

/-! ## Owner keys (R195, R196) -/

section Keys

variable {s : State} {fn : Nat} {m : MboxMsg}

/-- A key request that runs to an answer. -/
theorem removeKey_runs {t : State} {st : Status} (h : AtHead s fn m 4 9)
    (hrun : (if reedMessageOk m.bytes then removeKey (popMessage s fn m) fn m else answer (popMessage s fn m) fn m 0x0102 0) = answer t fn m st 0)
    (ht : mboxAt t fn = mboxAt (popMessage s fn m) fn) (hst : st < 2 ^ 16) :
    exec (.removeKey fn) s = .next (answer t fn m st 0) ∧ Answered s (answer t fn m st 0) fn m st := by
  obtain ⟨-, hin, -⟩ := id h
  have ha := answered_answer s t fn m st 0 hin ht hst
  have hm := onMessage_of_atHead s fn 4 9 m (fun s m => if reedMessageOk m.bytes then removeKey s fn m else answer s fn m 0x0102 0) h
    (by simp only [hrun]; exact ha.1.1)
  exact ⟨congrArg Host.Outcome.next (hm.trans hrun), ha⟩

theorem removeKey_refused {st : Status} (h : AtHead s fn m 4 9)
    (hrun : (if reedMessageOk m.bytes then removeKey (popMessage s fn m) fn m else answer (popMessage s fn m) fn m 0x0102 0)
      = answer (popMessage s fn m) fn m st 0) (hst : st < 2 ^ 16) :
    Runs (.removeKey fn) s fun t => Answered s t fn m st ∧ t.keys = s.keys := by
  obtain ⟨he, ha⟩ := removeKey_runs h hrun rfl hst
  exact ⟨_, he, ha, (answer_popped_only ..).same .keys (by decide)⟩

theorem removeKey_foreign (h : ((keyFor s fn (field m.bytes 28 4)).all fun k => fn ≠ 0 && k.part ≠ reedPart s fn) = true) :
    removeKey s fn m = answer s fn m 0x0111 0 := by
  unfold removeKey
  extract_lets id slot src
  cases hk : keyFor s fn id with
  | none => rfl
  | some k =>
    rw [show keyFor s fn (field m.bytes 28 4) = some k from hk] at h
    exact if_pos h

/-- The state without a key's slot. -/
def keyRemoved (s : State) (id : Nat) (k : KeyRec) : State :=
  dset { s with
    keys := FMap.erase s.keys (id % 2 ^ 14)
    keyGens := FMap.put 0 s.keyGens (id % 2 ^ 14) ((FMap.getD s.keyGens (id % 2 ^ 14) 0 + 1) % 2 ^ 18) }
    (0x4E00 + k.part) 3 (dnum s (0x4E00 + k.part) 3 - 1)

theorem removeKey_own {k : KeyRec} (hk : keyFor s fn (field m.bytes 28 4) = some k) (hpart : fn = 0 ∨ k.part = reedPart s fn) :
    removeKey s fn m = if (s.dirs.any fun e => e.1 / 2 ^ 22 = k.part && e.2.keyId = field m.bytes 28 4) = true then answer s fn m 0x010C 0
      else answer (keyRemoved s (field m.bytes 28 4) k) fn m 0 0 := by
  have hmine : ¬ (decide (fn ≠ 0) && decide (k.part ≠ reedPart s fn)) = true := by
    rw [Bool.and_eq_true, decide_eq_true_iff, decide_eq_true_iff, not_and_or, not_not, not_not]
    exact hpart
  unfold removeKey
  extract_lets id slot src
  simp only [id, hk]
  exact if_neg hmine

/-- A registration whose message breaks R195. -/
theorem keyRegistration_badMessage (h : AtHead s fn m 4 8) (hok : keyMessageOk m.bytes = false) :
    Runs (.keyRegistration fn) s fun t => Answered s t fn m 0x0102 ∧ t = { s with mbx := t.mbx } := by
  obtain ⟨-, hin, -⟩ := id h
  have hrun : beginKeyRegistration (popMessage s fn m) fn m = answer (popMessage s fn m) fn m 0x0102 0 := if_pos (by rw [hok]; decide)
  have ha := answered_answer s (popMessage s fn m) fn m 0x0102 0 hin rfl (by decide)
  have hm := onMessage_of_atHead s fn 4 8 m (fun s m => beginKeyRegistration s fn m) h (by simp only [hrun]; exact ha.1.1)
  exact ⟨_, congrArg Host.Outcome.next (hm.trans hrun), ha, (answer_popped_only ..).eq_overlay⟩

/-- The signature that a registration's message carries (R195). -/
def keyVerification (b : List Byte) : EngineOp :=
  .verify (decodeKey (slice b 8 96)) (sha384 (slice b 0 288)) (beNat (slice b 288 48)) (beNat (slice b 336 48))

/-- A registration whose message keeps R195: its signature goes to the leader's engine. -/
theorem keyRegistration_verifies (h : AtHead s fn m 4 8) (hok : keyMessageOk m.bytes = true) :
    Runs (.keyRegistration fn) s fun t => Consumed s t fn m
      ∧ t = { s with mbx := t.mbx, sec := t.sec } ∧ (mboxAt t fn).held = (mboxAt s fn).held
      ∧ engineAt t (leader s) = (engineAt s (leader s)).submit s.now {
          op := keyVerification m.bytes, src := .reedKey, arrived := s.now, use := .keyVerify fn { message := m.bytes, seq := m.seq, part := reedPart s fn } }
      ∧ (∀ g, g ≠ leader s → engineAt t g = engineAt s g) := by
  obtain ⟨-, hin, -⟩ := id h
  have hrun : beginKeyRegistration (popMessage s fn m) fn m = submitEngine (popMessage s fn m) (leader s) (keyVerification m.bytes) .reedKey
      (.keyVerify fn { message := m.bytes, seq := m.seq, part := reedPart s fn }) := if_neg (by rw [hok]; decide)
  generalize ht : submitEngine (popMessage s fn m) (leader s) (keyVerification m.bytes) .reedKey
      (.keyVerify fn { message := m.bytes, seq := m.seq, part := reedPart s fn }) = t at hrun
  have hsame : Only [.sec] (popMessage s fn m) t := ht ▸ submitEngine_only ..
  have hkept : InboxKept (popMessage s fn m) t := .of_only hsame (by decide)
  have hall : Only [.mbx, .sec] s t := .mono (by rfl) <| (popMessage_only s fn m).trans hsame
  have hconsumed := consumed_of_kept hin hkept
  have hm := onMessage_of_atHead s fn 4 8 m (fun s m => beginKeyRegistration s fn m) h (by
    rw [show beginKeyRegistration (popMessage s fn m) fn m = t from hrun]
    exact hconsumed.1)
  refine ⟨t, congrArg Host.Outcome.next (hm.trans hrun), hconsumed, hall.eq_overlay, ?_, ?_, fun g hg => ?_⟩
  · rw [hsame.mboxAt (by decide), popMessage_box hin]
  · rw [← ht]
    exact engineAt_submitEngine (popMessage s fn m) (leader s) ..
  · rw [← ht]
    exact (submitEngine_alone (popMessage s fn m) (leader s) _ _ _).2 g hg

end Keys

/-! ## The directory requests -/

section Requests

variable {s : State} {fn : Nat} {m : MboxMsg} {image : List Byte}

/-- Whose turn it is, of a request that names no queue. -/
theorem reed_turn {op : Nat} (hat : AtHead s fn m 4 op) (hop : reedNeedsQueue op = false)
    (hlocked : entryLocked s (reedPart s fn) (dIndex m.bytes) = false)
    (hearlier : earlierHead s fn m (fun x => dQueue x.bytes) (reedObject s) = false) :
    (entryLocked s (requestReedPart s fn m.bytes) (dIndex m.bytes) || earlierHead s fn m (fun x => dQueue x.bytes) (reedObject s)) = false := by
  rw [requestReedPart_plain s fn (by rw [hat.2.2.2]; exact hop), hlocked, hearlier]
  rfl

theorem imageAt_popMessage (s : State) (fn : Nat) (m : MboxMsg) (part location handle : Nat) (image : List Byte) :
    imageAt (popMessage s fn m) part location handle image = imageAt s part location handle image := rfl

theorem registered_popMessage (s : State) (fn : Nat) (m : MboxMsg) (b im : List Byte) :
    registered (popMessage s fn m) fn b im = registered s fn b im := rfl

theorem reedPart_popMessage (s : State) (fn : Nat) (m : MboxMsg) : reedPart (popMessage s fn m) fn = reedPart s fn := rfl

theorem registerStatus_popMessage (s : State) (fn : Nat) (m : MboxMsg) (part : Nat) (b im : List Byte) :
    registerStatus (popMessage s fn m) fn part b im = registerStatus s fn part b im := rfl

/-- What register does with a request just taken. -/
theorem registerReed_popMessage {st : Status}
    (hst : registerStatus s fn (reedPart s fn) m.bytes (imageAt s (reedPart s fn) (dLocation m.bytes) (dHandle m.bytes) image) = st) :
    registerStatus (popMessage s fn m) fn (reedPart (popMessage s fn m) fn) m.bytes
      (imageAt (popMessage s fn m) (reedPart (popMessage s fn m) fn) (dLocation m.bytes) (dHandle m.bytes) image) = st := by
  rw [reedPart_popMessage, imageAt_popMessage, registerStatus_popMessage]
  exact hst

theorem registered_fields (s : State) (fn : Nat) (b im : List Byte) (dirs : FMap DirEntry) (key : Nat)
    (h : FMap.get? dirs key = some (registered s fn b im)) :
    ∃ e, FMap.get? dirs key = some e ∧ e.reedId = field (imContract im) 8 8 ∧ e.version = field (imContract im) 68 4
      ∧ e.location = dLocation b ∧ e.rank = coRank (imContract im) ∧ e.keyId = field (imContract im) 64 4
      ∧ e.owner = field (imContract im) 4 4 ∧ e.placement = coPlacement (imContract im) ∧ e.contract = imContract im
      ∧ e.addr = (if dLocation b ≤ 2 then 0 else field b 16 8) ∧ e.handle = (if dLocation b ≤ 2 then dHandle b else 0)
      ∧ e.baseGen = baseGen s (reedPart s fn) ∧ e.imageBytes = imBytes im ∧ e.purpose = coPurpose (imContract im)
      ∧ e.layers = coLayers (imContract im) ∧ e.bound = false :=
  ⟨registered s fn b im, h, rfl, rfl, rfl, rfl, rfl, rfl, rfl, rfl, rfl, rfl, rfl, rfl, rfl, rfl, rfl⟩

/-- An accepted register request. -/
theorem register_accepted (hat : AtHead s fn m 4 1) (hok : reedMessageOk m.bytes = true)
    (hlocked : entryLocked s (reedPart s fn) (dIndex m.bytes) = false)
    (hearlier : earlierHead s fn m (fun x => dQueue x.bytes) (reedObject s) = false)
    (hst : registerStatus s fn (reedPart s fn) m.bytes (imageAt s (reedPart s fn) (dLocation m.bytes) (dHandle m.bytes) image) = 0) :
    Runs (.register fn image) s fun t => Answered s t fn m 0
      ∧ ((∀ k, k ≠ dirKey (reedPart s fn) (dIndex m.bytes) → FMap.get? t.dirs k = FMap.get? s.dirs k) ∧ t = { s with mbx := t.mbx, dirs := t.dirs })
      ∧ FMap.get? t.dirs (dirKey (reedPart s fn) (dIndex m.bytes))
        = some (registered s fn m.bytes (imageAt s (reedPart s fn) (dLocation m.bytes) (dHandle m.bytes) image)) := by
  have hrun := registerReed_ok (s := popMessage s fn m) (fn := fn) (m := m) (image := image) (registerReed_popMessage hst)
  rw [registered_popMessage, imageAt_popMessage, show reedPart (popMessage s fn m) fn = reedPart s fn from rfl] at hrun
  obtain ⟨t, hexec, ha, hothers, hdirs⟩ := reed_writes (cmd := .register fn image) rfl hat (reed_turn hat rfl hlocked hearlier) hok hrun
    fun k hk => FMap.get?_set_other _ _ _ _ hk
  exact ⟨t, hexec, ha, hothers, by rw [hdirs, FMap.get?_set_self]⟩

theorem register_refused (hat : AtHead s fn m 4 1) (hok : reedMessageOk m.bytes = true)
    (hlocked : entryLocked s (reedPart s fn) (dIndex m.bytes) = false)
    (hearlier : earlierHead s fn m (fun x => dQueue x.bytes) (reedObject s) = false)
    (hst : registerStatus s fn (reedPart s fn) m.bytes (imageAt s (reedPart s fn) (dLocation m.bytes) (dHandle m.bytes) image) ≠ 0) :
    Runs (.register fn image) s fun t =>
      Answered s t fn m (registerStatus s fn (reedPart s fn) m.bytes (imageAt s (reedPart s fn) (dLocation m.bytes) (dHandle m.bytes) image))
        ∧ t.dirs = s.dirs := by
  have hst' := registerReed_popMessage (s := s) (fn := fn) (m := m) (image := image) rfl
  have hrun := registerReed_refused (s := popMessage s fn m) (fn := fn) (m := m) (image := image) (by rw [hst']; exact hst)
  rw [hst'] at hrun
  exact reed_refused (cmd := .register fn image) rfl hat (reed_turn hat rfl hlocked hearlier) hok hrun (registerStatus_lt ..)

/-- A relocate request on a used entry. -/
theorem relocate_refused {e : DirEntry} {st : Status} (hat : AtHead s fn m 4 2) (hok : reedMessageOk m.bytes = true)
    (hlocked : entryLocked s (reedPart s fn) (dIndex m.bytes) = false)
    (hearlier : earlierHead s fn m (fun x => dQueue x.bytes) (reedObject s) = false) (he : dirAt s (reedPart s fn) (dIndex m.bytes) = some e)
    (hst : relocateStatus s fn m.bytes (imageAt s (reedPart s fn) (dLocation m.bytes) (dHandle m.bytes) image) e = st) (hne : st ≠ 0) :
    Runs (.relocate fn image) s fun t => Answered s t fn m st ∧ t.dirs = s.dirs := by
  subst hst
  exact reed_refused (cmd := .relocate fn image) rfl hat (reed_turn hat rfl hlocked hearlier) hok
    ((relocateReed_present (s := popMessage s fn m) (image := image) he).trans (if_pos hne)) (relocateStatus_lt ..)

theorem relocate_accepted {e : DirEntry} (hat : AtHead s fn m 4 2) (hok : reedMessageOk m.bytes = true)
    (hlocked : entryLocked s (reedPart s fn) (dIndex m.bytes) = false)
    (hearlier : earlierHead s fn m (fun x => dQueue x.bytes) (reedObject s) = false) (he : dirAt s (reedPart s fn) (dIndex m.bytes) = some e)
    (hst : relocateStatus s fn m.bytes (imageAt s (reedPart s fn) (dLocation m.bytes) (dHandle m.bytes) image) e = 0) :
    Runs (.relocate fn image) s fun t => Answered s t fn m 0
      ∧ ((∀ k, k ≠ dirKey (reedPart s fn) (dIndex m.bytes) → FMap.get? t.dirs k = FMap.get? s.dirs k) ∧ t = { s with mbx := t.mbx, dirs := t.dirs })
      ∧ FMap.get? t.dirs (dirKey (reedPart s fn) (dIndex m.bytes)) = some { e with
          location := dLocation m.bytes
          header := slice (imageAt s (reedPart s fn) (dLocation m.bytes) (dHandle m.bytes) image) 0 64
          addr := if dLocation m.bytes ≤ 2 then 0 else field m.bytes 16 8
          handle := if dLocation m.bytes ≤ 2 then dHandle m.bytes else 0 } := by
  have hrun := (relocateReed_present (s := popMessage s fn m) (image := image) he).trans (if_neg (not_not.mpr hst))
  rw [imageAt_popMessage, show reedPart (popMessage s fn m) fn = reedPart s fn from rfl] at hrun
  obtain ⟨t, hexec, ha, hothers, hdirs⟩ := reed_writes (cmd := .relocate fn image) (key := dirKey (reedPart s fn) (dIndex m.bytes)) rfl hat
    (reed_turn hat rfl hlocked hearlier) hok hrun fun k hk => by rw [FMap.get?_modify, if_neg hk]; rfl
  refine ⟨t, hexec, ha, hothers, ?_⟩
  rw [hdirs, FMap.get?_modify, if_pos rfl, show FMap.get? (popMessage s fn m).dirs (dirKey (reedPart s fn) (dIndex m.bytes)) = some e from
    get?_dirs_of_dirAt he]
  rfl

/-- A remove request on an unbound entry. -/
theorem remove_accepted {e : DirEntry} (hat : AtHead s fn m 4 3) (hok : reedMessageOk m.bytes = true)
    (hlocked : entryLocked s (reedPart s fn) (dIndex m.bytes) = false)
    (hearlier : earlierHead s fn m (fun x => dQueue x.bytes) (reedObject s) = false) (he : dirAt s (reedPart s fn) (dIndex m.bytes) = some e)
    (hbound : e.bound = false) :
    Runs (.remove fn) s fun t => Answered s t fn m 0
      ∧ ((∀ k, k ≠ dirKey (reedPart s fn) (dIndex m.bytes) → FMap.get? t.dirs k = FMap.get? s.dirs k) ∧ t = { s with mbx := t.mbx, dirs := t.dirs })
      ∧ FMap.get? t.dirs (dirKey (reedPart s fn) (dIndex m.bytes)) = none := by
  have hrun := (removeReed_present (s := popMessage s fn m) he).trans (if_neg (by rw [hbound]; decide))
  obtain ⟨t, hexec, ha, hothers, hdirs⟩ := reed_writes (cmd := .remove fn) (key := dirKey (reedPart s fn) (dIndex m.bytes)) rfl hat
    (reed_turn hat rfl hlocked hearlier) hok hrun fun k hk => FMap.get?_erase_other _ _ _ hk
  exact ⟨t, hexec, ha, hothers, by rw [hdirs]; exact FMap.get?_erase_self ..⟩

/-- Register, relocate or remove waits, or is refused for its reserved fields. -/
theorem reed_waits {op : Nat} {cmd : Instr} {run : State → MboxMsg → State} (hcmd : exec cmd s = .next (onReed s fn op run)) (hat : AtHead s fn m 4 op)
    (hop : reedNeedsQueue op = false) :
    ((entryLocked s (reedPart s fn) (dIndex m.bytes) || earlierHead s fn m (fun x => dQueue x.bytes) (reedObject s)) = true → Runs cmd s (· = s))
    ∧ ((entryLocked s (reedPart s fn) (dIndex m.bytes) || earlierHead s fn m (fun x => dQueue x.bytes) (reedObject s)) = false →
      reedMessageOk m.bytes = false → Runs cmd s fun t => Answered s t fn m 0x0102 ∧ t.dirs = s.dirs) := by
  have hplain : requestReedPart s fn m.bytes = reedPart s fn := requestReedPart_plain s fn (by rw [hat.2.2.2]; exact hop)
  refine ⟨fun hwait => ⟨s, hcmd.trans (congrArg _ (onReed_waits hat (by rw [hplain]; exact hwait))), rfl⟩, fun hwait hok => ?_⟩
  obtain ⟨he, ha⟩ := onReed_badMessage (run := run) hat (by rw [hplain]; exact hwait) hok
  exact ⟨_, hcmd.trans (congrArg _ he), ha, (answer_popped_only ..).same .dirs (by decide)⟩

/-- An accepted remove-key request. -/
theorem removeKey_accepted {k : KeyRec} (hat : AtHead s fn m 4 9) (hok : reedMessageOk m.bytes = true)
    (hk : keyFor s fn (field m.bytes 28 4) = some k) (hpart : fn = 0 ∨ k.part = reedPart s fn)
    (hnamed : (s.dirs.any fun e => e.1 / 2 ^ 22 = k.part && e.2.keyId = field m.bytes 28 4) = false) :
    Runs (.removeKey fn) s fun t => Answered s t fn m 0
      ∧ FMap.get? t.keys (field m.bytes 28 4 % 2 ^ 14) = none
      ∧ (∀ n, n ≠ field m.bytes 28 4 % 2 ^ 14 → FMap.get? t.keys n = FMap.get? s.keys n)
      ∧ FMap.getD t.keyGens (field m.bytes 28 4 % 2 ^ 14) 0 = (FMap.getD s.keyGens (field m.bytes 28 4 % 2 ^ 14) 0 + 1) % 2 ^ 18
      ∧ keyRecord t (field m.bytes 28 4) = none
      ∧ t = { s with mbx := t.mbx, keys := t.keys, keyGens := t.keyGens, dict := t.dict } := by
  have hrun : (if reedMessageOk m.bytes then removeKey (popMessage s fn m) fn m else answer (popMessage s fn m) fn m 0x0102 0)
      = answer (keyRemoved (popMessage s fn m) (field m.bytes 28 4) k) fn m 0 0 := (if_pos hok).trans
    ((removeKey_own (s := popMessage s fn m) hk hpart).trans (if_neg (by rw [Bool.not_eq_true]; exact hnamed)))
  obtain ⟨he, ha⟩ := removeKey_runs hat hrun rfl (by decide)
  have hsame := answer_only (keyRemoved (popMessage s fn m) (field m.bytes 28 4) k) fn m 0 0
  have hkeys := hsame.same .keys (by decide)
  have hgens := hsame.same .keyGens (by decide)
  have hgone : FMap.get? (answer (keyRemoved (popMessage s fn m) (field m.bytes 28 4) k) fn m 0 0).keys (field m.bytes 28 4 % 2 ^ 14) = none := by
    rw [hkeys]
    exact FMap.get?_erase_self ..
  have hremoved : Only [.keys, .keyGens, .dict] (popMessage s fn m) (keyRemoved (popMessage s fn m) (field m.bytes 28 4) k) :=
    .mono (by rfl) <| (setKeys_only (popMessage s fn m) (FMap.erase s.keys (field m.bytes 28 4 % 2 ^ 14))).trans
      ((setKeyGens_only _ _).trans (dset_only ..))
  have hall : Only [.mbx, .keys, .keyGens, .dict] s (answer (keyRemoved (popMessage s fn m) (field m.bytes 28 4) k) fn m 0 0) :=
    .mono (by rfl) <| (popMessage_only ..).trans (hremoved.trans hsame)
  refine ⟨_, he, ha, hgone, fun n hn => ?_, ?_, ?_, hall.eq_overlay⟩
  · rw [hkeys]
    exact FMap.get?_erase_other _ _ _ hn
  · rw [hgens]
    exact FMap.getD_put_self ..
  · unfold keyRecord
    split
    · exact hgone
    · rfl

end Requests

/-- Settles O36: each request is taken by `onReed` or `onMessage` and runs to the answer that its checks give. -/
theorem reedPool : Obligations.ReedPool := by
  unfold Obligations.ReedPool
  refine ⟨fun s fn op m image hat hlo hhi => ?_, fun s fn m image => ?_, fun s fn m hat => ?_, fun s fn m hat => ?_⟩
  · obtain rfl | rfl | rfl : op = 1 ∨ op = 2 ∨ op = 3 := by omega
    · exact reed_waits (cmd := .register fn image) rfl hat rfl
    · exact reed_waits (cmd := .relocate fn image) rfl hat rfl
    · exact reed_waits (cmd := .remove fn) rfl hat rfl
  · intro b part im key buf others refused hok hlocked hearlier
    refine ⟨fun hat hst => ?_, fun hat hst => ?_, fun hat hnone => ?_, fun hat hnone => ?_, fun e he => ?_⟩
    · obtain ⟨t, hexec, ha, hothers, hentry⟩ := register_accepted hat hok hlocked hearlier hst
      exact ⟨t, hexec, ha, hothers, registered_fields s fn b im t.dirs key hentry⟩
    · exact register_refused hat hok hlocked hearlier hst
    · exact reed_refused (cmd := .relocate fn image) rfl hat (reed_turn hat rfl hlocked hearlier) hok
        (relocateReed_absent (s := popMessage s fn m) hnone) (by decide)
    · exact reed_refused (cmd := .remove fn) rfl hat (reed_turn hat rfl hlocked hearlier) hok
        (removeReed_absent (s := popMessage s fn m) hnone) (by decide)
    · intro agrees
      have hrefused {st : Status} (hat : AtHead s fn m 4 2) (hst : relocateStatus s fn b im e = st) (hne : st ≠ 0) :
          Runs (.relocate fn image) s (refused st) := relocate_refused hat hok hlocked hearlier he hst hne
      refine ⟨fun hat hgen hbound hbuf hagrees => ?_, fun hat hgen => ?_, fun hat hgen hbound => ?_, fun hat hgen hbound hbuf => ?_,
        fun hat hgen hbound hbuf hagrees => ?_, fun hat hbound => ?_, fun hat hbound => ?_⟩
      · refine relocate_accepted hat hok hlocked hearlier he ?_
        exact (if_neg (not_not.mpr hgen)).trans ((if_neg (by rw [hbound]; decide)).trans ((if_neg (not_not.mpr hbuf)).trans
          (if_neg (by rw [Bool.not_eq_false]; exact hagrees))))
      · exact hrefused hat (if_pos hgen) (by decide)
      · exact hrefused hat ((if_neg (not_not.mpr hgen)).trans (if_pos hbound)) (by decide)
      · exact hrefused hat ((if_neg (not_not.mpr hgen)).trans ((if_neg (by rw [hbound]; decide)).trans (if_pos hbuf))) hbuf
      · exact hrefused hat ((if_neg (not_not.mpr hgen)).trans ((if_neg (by rw [hbound]; decide)).trans ((if_neg (not_not.mpr hbuf)).trans
          (if_pos hagrees)))) (by decide)
      · exact remove_accepted hat hok hlocked hearlier he hbound
      · exact reed_refused (cmd := .remove fn) rfl hat (reed_turn hat rfl hlocked hearlier) hok
          ((removeReed_present (s := popMessage s fn m) he).trans (if_pos hbound)) (by decide)
  · intro id slot named
    refine ⟨fun hok => ?_, fun hok hall => ?_, fun k hok hk hpart => ⟨fun hnamed => ?_, fun hnamed => ?_⟩⟩
    · exact removeKey_refused hat (if_neg (by rw [hok]; decide)) (by decide)
    · exact removeKey_refused hat ((if_pos hok).trans (removeKey_foreign (s := popMessage s fn m) hall)) (by decide)
    · exact removeKey_refused hat ((if_pos hok).trans ((removeKey_own (s := popMessage s fn m) hk hpart).trans (if_pos hnamed))) (by decide)
    · exact removeKey_accepted hat hok hk hpart hnamed
  · exact ⟨keyRegistration_badMessage hat, keyRegistration_verifies hat⟩

end Sys2Proof.Machine

/-! PROOFS. O37: contexts, and the bind requests. -/

namespace Sys2Proof.Machine

/-! ## Directory entries and contexts -/

section Contexts

variable {s : State} {part index ctx : Nat} {e : DirEntry}

theorem dirAt_of_dirs {t : State} (h : t.dirs = s.dirs) : dirAt t part index = dirAt s part index := by
  unfold dirAt
  rw [h]

theorem dirAt_dset (s : State) (i j n : Nat) : dirAt (dset s i j n) part index = dirAt s part index := rfl

theorem dirAt_updDir_self (s : State) (part index : Nat) (f : DirEntry → DirEntry) : dirAt (updDir s part index f) part index = (dirAt s part index).map f := by
  unfold dirAt updDir
  split
  · rw [FMap.get?_modify, if_pos rfl]
  · rfl

/-- A context taken: its record, and its entry bound to it. -/
structure CtxTaken (s t : State) (ctx : Nat) (x : Ctx) : Prop where
  record : FMap.get? t.ctxs ctx = some x
  others : ∀ n, n ≠ ctx → FMap.get? t.ctxs n = FMap.get? s.ctxs n
  entry : ∀ e, dirAt s x.part x.dir = some e → (dirAt t x.part x.dir).map (fun e => (e.bound, e.context)) = some (true, ctx)

theorem takeCtx_taken (s : State) (ctx : Nat) (x : Ctx) : CtxTaken s (takeCtx s ctx x) ctx x := by
  have hctxs : (takeCtx s ctx x).ctxs = FMap.set s.ctxs ctx x := rfl
  refine ⟨by rw [hctxs, FMap.get?_set_self], fun n hn => by rw [hctxs, FMap.get?_set_other _ _ _ _ hn], fun e he => ?_⟩
  have hentry : dirAt (takeCtx s ctx x) x.part x.dir = (dirAt s x.part x.dir).map fun e => { e with bound := true, context := ctx } :=
    (dirAt_of_dirs (s := updDir s x.part x.dir fun e => { e with bound := true, context := ctx }) rfl).trans (dirAt_updDir_self ..)
  rw [hentry, he]
  rfl

theorem releaseCtx_of {x : Ctx} (h : FMap.get? s.ctxs ctx = some x) :
    FMap.get? (releaseCtx s ctx).ctxs ctx = none ∧ (∀ k, k ≠ ctx → FMap.get? (releaseCtx s ctx).ctxs k = FMap.get? s.ctxs k)
      ∧ dirAt (releaseCtx s ctx) x.part x.dir
        = (dirAt s x.part x.dir).map fun e => if e.context = ctx then { e with bound := false, context := 0 } else e := by
  unfold releaseCtx
  simp only [h]
  have hfreed : Only [.dict, .parts] { s with ctxs := FMap.erase s.ctxs ctx }
    (uncharge { s with ctxs := FMap.erase s.ctxs ctx } x.part x.fn 1 x.charge) := uncharge_only ..
  generalize huncharged : uncharge { s with ctxs := FMap.erase s.ctxs ctx } x.part x.fn 1 x.charge = u at hfreed
  have hctxs : u.ctxs = FMap.erase s.ctxs ctx := hfreed.same .ctxs (by decide)
  refine ⟨?_, fun k hk => ?_, ?_⟩
  · show FMap.get? u.ctxs ctx = none
    rw [hctxs, FMap.get?_erase_self]
  · show FMap.get? u.ctxs k = _
    rw [hctxs, FMap.get?_erase_other _ _ _ hk]
  · rw [dirAt_dset, dirAt_updDir_self, dirAt_of_dirs (s := s) (hfreed.same .dirs (by decide))]

theorem answerCtx_held {x : Ctx} {f seq tag : Nat} (st : Status) (n : Nat) (hst : st < 2 ^ 16) (h : x.answer = some (f, seq, tag)) :
    ∃ r, (mboxAt (answerCtx s x st n) f).held = (mboxAt s f).held ++ [r] ∧ r.cls = 4 ∧ r.seq = seq ∧ field r.bytes 4 2 = st := by
  unfold answerCtx respond
  simp only [h]
  refine ⟨⟨4, seq, response32 s tag st n⟩, by rw [mboxAt_updMbox_self], rfl, rfl, ?_⟩
  unfold response32
  simp only [List.append_assoc]
  exact field_append_toLe _ _ 4 2 st (length_toLe ..) hst

end Contexts

/-! ## Requests on a queue -/

section Requests

variable {s : State} {fn op : Nat} {m : MboxMsg} {Q : Queue}

theorem requestReedPart_queue (h : AtHead s fn m 4 op) (hop : reedNeedsQueue op = true) (hQ : reedQueue s fn m.bytes = some Q) :
    requestReedPart s fn m.bytes = Q.part := by
  unfold requestReedPart
  rw [if_pos (by rw [h.2.2.2]; exact hop), hQ]
  rfl

theorem withReedQueue_none {run : Queue → State} (h : reedQueue s fn m.bytes = none) : withReedQueue s fn m run = answer s fn m 0x0803 0 := by
  unfold withReedQueue
  rw [h]

theorem withReedQueue_some {run : Queue → State} (h : reedQueue s fn m.bytes = some Q) : withReedQueue s fn m run = run Q := by
  unfold withReedQueue
  rw [h]

/-- The turn of a request on a queue. -/
theorem queueReed_turn (hat : AtHead s fn m 4 op) (hop : reedNeedsQueue op = true) (hQ : reedQueue s fn m.bytes = some Q)
    (hlocked : entryLocked s Q.part (dIndex m.bytes) = false) (hearlier : earlierHead s fn m (fun x => dQueue x.bytes) (reedObject s) = false) :
    (entryLocked s (requestReedPart s fn m.bytes) (dIndex m.bytes) || earlierHead s fn m (fun x => dQueue x.bytes) (reedObject s)) = false := by
  rw [requestReedPart_queue hat hop hQ, hlocked, hearlier]
  rfl

theorem bindStatus_lt (s : State) (Q : Queue) (b : List Byte) (need : Nat) : (bindStatus s Q b need).1 < 2 ^ 16 := by
  unfold bindStatus
  extract_lets part
  split
  · exact (by decide : 0x0108 < 2 ^ 16)
  split
  · exact (by decide : 0x0101 < 2 ^ 16)
  split
  · exact (by decide : 0x0107 < 2 ^ 16)
  split
  · exact (by decide : 0x0102 < 2 ^ 16)
  split
  · exact (by decide : 0x0109 < 2 ^ 16)
  split
  · exact (by decide : 0x0105 < 2 ^ 16)
  split
  · exact (by decide : 0x0104 < 2 ^ 16)
  split
  · exact (by decide : 0x0103 < 2 ^ 16)
  · exact (by decide : 0 < 2 ^ 16)

/-- A request whose run answers it and offends at most its queue: its answer, and the contexts and entries as they were. -/
theorem queueReed_refused {cmd : Instr} {run : State → MboxMsg → State} {t : State} {st : Status} {n : Nat}
    (hcmd : exec cmd s = .next (onReed s fn op run)) (hat : AtHead s fn m 4 op)
    (hturn : (entryLocked s (requestReedPart s fn m.bytes) (dIndex m.bytes)
      || earlierHead s fn m (fun x => dQueue x.bytes) (reedObject s)) = false) (hok : reedMessageOk m.bytes = true)
    (hrun : run (popMessage s fn m) m = t) (ht : Only [.queues] (answer (popMessage s fn m) fn m st n) t) (hst : st < 2 ^ 16) :
    Runs cmd s fun t => Answered s t fn m st ∧ Only [.mbx, .queues] s t := by
  obtain ⟨-, hin, -⟩ := id hat
  obtain ⟨⟨hinbox, hconsumed⟩, hheld⟩ := answered_answer s (popMessage s fn m) fn m st n hin rfl hst
  have hbox : mboxAt t fn = mboxAt (answer (popMessage s fn m) fn m st n) fn := ht.mboxAt (by decide) fn
  have ha : Answered s t fn m st := by
    refine ⟨⟨?_, ?_⟩, ?_⟩
    · rw [hbox]
      exact hinbox
    · rw [hbox]
      exact hconsumed
    · rw [hbox]
      exact hheld
  have he := onReed_of_turn hat hturn ((if_pos hok).trans hrun) ha.1.1
  exact ⟨t, hcmd.trans (congrArg _ he), ha, .mono (by rfl) <| (answer_popped_only s fn m st n).trans ht⟩

end Requests

/-! ## Serve bind (R208) -/

section ServeBind

variable {s : State} {fn ctx j : Nat} {m : MboxMsg} {image : List Byte} {Q : Queue} {e : DirEntry} {J : Job}

theorem serveBind_refused (hQ : reedQueue s fn m.bytes = some Q) (h : (bindStatus s Q m.bytes 0).1 ≠ 0) :
    serveBind s fn m image = answer s fn m (bindStatus s Q m.bytes 0).1 (bindStatus s Q m.bytes 0).2 := by
  unfold serveBind
  rw [withReedQueue_some hQ]
  exact if_pos h

/-- The context of an accepted serve bind. -/
def bindingCtx (fn : Nat) (m : MboxMsg) (Q : Queue) (e : DirEntry) (j : Nat) (J : Job) : Ctx :=
  { state := .binding
    part := Q.part
    dir := dIndex m.bytes
    job := j
    queue := dQueue m.bytes
    serve := true
    rank := e.rank
    targets := (serveTargets e.rank (coTargets e.contract)).1
    baseGen := e.baseGen
    charge := charge64 (serveTargets e.rank (coTargets e.contract)).2
    fn := J.fn
    began := m.arrived
    answer := some (fn, m.seq, messageTag 4 m.bytes) }

/-- The entry with the header that the bind has read. -/
def withHeader (s : State) (Q : Queue) (m : MboxMsg) (im : List Byte) : State :=
  updDir s Q.part (dIndex m.bytes) fun e => { e with header := slice im 0 64 }

theorem serveBind_checked (hQ : reedQueue s fn m.bytes = some Q) (hst : (bindStatus s Q m.bytes 0).1 = 0)
    (he : dirAt s Q.part (dIndex m.bytes) = some e) (hctx : chosenCtx s Q.part m.bytes = some ctx) (hj : Q.job = some j) (hJ : jobAt s j = some J) :
    serveBind s fn m image =
      if mayCharge s Q.part J.fn 1 (charge64 (serveTargets e.rank (coTargets e.contract)).2) = false then answer s fn m 0x0681 0
      else if (reedImageOk (imageAt s Q.part e.location e.handle image) none
          && decide (imContract (imageAt s Q.part e.location e.handle image) = e.contract)) = false then answer s fn m 0x0102 0
      else takeCtx (charge (withHeader s Q m (imageAt s Q.part e.location e.handle image)) Q.part J.fn 1
        (charge64 (serveTargets e.rank (coTargets e.contract)).2)) ctx (bindingCtx fn m Q e j J) := by
  unfold serveBind
  rw [withReedQueue_some hQ]
  dsimp only
  rw [if_neg (not_not.mpr hst)]
  simp only [he, hctx, hj, Option.getD_some, hJ, Option.map_some]
  by_cases hmay : mayCharge s Q.part J.fn 1 (charge64 (serveTargets e.rank (coTargets e.contract)).2) = false
  · rw [if_pos hmay, if_pos (by rw [hmay]; decide)]
  rw [if_neg hmay, if_neg (by rw [Bool.not_eq_true']; exact hmay)]
  by_cases hok : (reedImageOk (imageAt s Q.part e.location e.handle image) none
      && decide (imContract (imageAt s Q.part e.location e.handle image) = e.contract)) = false
  · rw [if_pos hok]
    exact if_pos ((any_fails_iff true _ _).mpr (by simpa using hok))
  · rw [if_neg hok]
    exact if_neg (mt (any_fails_iff true _ _).mp (by simpa using hok))

end ServeBind

end Sys2Proof.Machine

/-! PROOFS. O37: the outcomes of the bind requests. -/

namespace Sys2Proof.Machine

section Binds

variable {s : State} {fn ctx j : Nat} {m : MboxMsg} {image : List Byte} {Q : Queue} {e : DirEntry} {J : Job}

/-- A context taken for queue `Q`'s entry: what the statement of a bind says of it. -/
def Took (s : State) (Q : Queue) (m : MboxMsg) (e : DirEntry) (ctx j : Nat) (t : State) (x : Ctx) : Prop :=
  FMap.get? t.ctxs ctx = some x ∧ x.part = Q.part ∧ x.dir = dIndex m.bytes ∧ x.job = j
    ∧ x.rank = e.rank ∧ x.invalid = false ∧ (∀ n, n ≠ ctx → FMap.get? t.ctxs n = FMap.get? s.ctxs n)
    ∧ (dirAt t Q.part (dIndex m.bytes)).map (fun e => (e.bound, e.context)) = some (true, ctx)
    ∧ t.bufs = s.bufs ∧ t.queues = s.queues ∧ t.jobs = s.jobs

/-- A charge in the HBM tier is not in the counts of contexts. -/
theorem charged_bump_reeds (s : State) (i sub n part fn : Nat) (hsub : sub < 256) (h : sub ≠ 3) :
    charged (bump s i sub n) part fn 1 = charged s part fn 1 := by
  unfold charged
  refine congr (congrArg _ rfl) ?_
  unfold dnum
  rw [dget_bump_other _ _ _ _ _ (by rw [if_pos rfl]; unfold dkey; omega)]

theorem charged_takeCtx (s : State) (ctx : Nat) (x : Ctx) (part fn : Nat) : charged (takeCtx s ctx x) part fn 1 = charged s part fn 1 :=
  charged_bump_reeds (updDir { s with ctxs := FMap.set s.ctxs ctx x } x.part x.dir fun e => { e with bound := true, context := ctx }) _ _ _ _ _
    (by decide) (by decide)

theorem mayCharge_popMessage (s : State) (fn : Nat) (m : MboxMsg) (part f tier n : Nat) :
    mayCharge (popMessage s fn m) part f tier n = mayCharge s part f tier n := rfl

/-- An accepted serve bind. -/
theorem serveBind_accepted (hat : AtHead s fn m 4 4) (hok : reedMessageOk m.bytes = true) (hQ : reedQueue s fn m.bytes = some Q)
    (hturn : (entryLocked s (requestReedPart s fn m.bytes) (dIndex m.bytes)
      || earlierHead s fn m (fun x => dQueue x.bytes) (reedObject s)) = false)
    (hst : (bindStatus s Q m.bytes 0).1 = 0) (he : dirAt s Q.part (dIndex m.bytes) = some e) (hctx : chosenCtx s Q.part m.bytes = some ctx)
    (hj : Q.job = some j) (hJ : jobAt s j = some J)
    (hmay : mayCharge s Q.part J.fn 1 (charge64 (serveTargets e.rank (coTargets e.contract)).2) = true)
    (himage : (reedImageOk (imageAt s Q.part e.location e.handle image) none
      && decide (imContract (imageAt s Q.part e.location e.handle image) = e.contract)) = true) :
    Runs (.serveBind fn image) s fun t => Consumed s t fn m ∧ (mboxAt t fn).held = (mboxAt s fn).held
      ∧ charged t Q.part J.fn 1 = charged s Q.part J.fn 1 + charge64 (serveTargets e.rank (coTargets e.contract)).2
      ∧ Took s Q m e ctx j t (bindingCtx fn m Q e j J) := by
  obtain ⟨-, hin, -⟩ := id hat
  have hrun := serveBind_checked (s := popMessage s fn m) (image := image) hQ hst he hctx hj hJ
  rw [imageAt_popMessage, mayCharge_popMessage, if_neg (by rw [hmay]; decide), if_neg (by rw [himage]; decide)] at hrun
  generalize hu : charge (withHeader (popMessage s fn m) Q m (imageAt s Q.part e.location e.handle image)) Q.part J.fn 1
    (charge64 (serveTargets e.rank (coTargets e.contract)).2) = u at hrun
  have hheader : dirAt (withHeader (popMessage s fn m) Q m (imageAt s Q.part e.location e.handle image)) Q.part (dIndex m.bytes)
      = some { e with header := slice (imageAt s Q.part e.location e.handle image) 0 64 } := by
    refine (dirAt_updDir_self ..).trans ?_
    rw [show dirAt (popMessage s fn m) Q.part (dIndex m.bytes) = some e from he]
    rfl
  have hcharge : Only [.dict, .parts] (withHeader (popMessage s fn m) Q m (imageAt s Q.part e.location e.handle image)) u := hu ▸ charge_only ..
  have hentry := (dirAt_of_dirs (part := Q.part) (index := dIndex m.bytes) (hcharge.same .dirs (by decide))).trans hheader
  have hpopped : Only [.dirs, .dict, .parts] (popMessage s fn m) u := .mono (by rfl) <| (updDir_only ..).trans hcharge
  obtain ⟨hrecord, hothers, hbound⟩ := takeCtx_taken u ctx (bindingCtx fn m Q e j J)
  have hall : Only [.dict, .parts, .dirs, .ctxs] (popMessage s fn m) (takeCtx u ctx (bindingCtx fn m Q e j J)) :=
    .mono (by rfl) <| hpopped.trans (takeCtx_only ..)
  have hconsumed := consumed_of_kept hin (.of_only hall (by decide))
  have hexec := onReed_of_turn (run := fun s m => serveBind s fn m image) hat hturn ((if_pos hok).trans hrun) hconsumed.1
  refine ⟨_, congrArg Host.Outcome.next hexec, hconsumed, ?_, ?_, hrecord, rfl, rfl, rfl, rfl, rfl, fun n hn => ?_, hbound _ hentry,
    hall.same .bufs (by decide), hall.same .queues (by decide), hall.same .jobs (by decide)⟩
  · rw [hall.mboxAt (by decide), popMessage_box hin]
  · rw [charged_takeCtx, ← hu, charged_charge]
    rfl
  · rw [hothers n hn, hpopped.same .ctxs (by decide)]
    rfl

/-! ## Train bind (R210) -/

/-- The targets of a train bind. -/
def trainTargets (e : DirEntry) (table : List Byte) : List ReedTarget :=
  (coTargets e.contract).zipIdx.map fun t =>
    let (a, b, r) := trainEntry table t.2
    { layer := t.1.1, k := t.1.2.1, nf := t.1.2.2, wqA := a, wqB := b, uRing := r }

/-- The train state table that a train bind names. -/
def trainTable (s : State) (Q : Queue) (m : MboxMsg) (e : DirEntry) : List Byte :=
  (committed s (bufKey Q.part (hIndex (dHandle m.bytes)))).read 0 (32 * e.layers)

/-- What the handle and the state table of a train bind answer. -/
def trainStatus (s : State) (Q : Queue) (m : MboxMsg) (e : DirEntry) (J : Job) : Status :=
  if handleStatus s (dQueue m.bytes) Q [dHandle m.bytes] ≠ 0 then handleStatus s (dQueue m.bytes) Q [dHandle m.bytes]
  else if !((bufAt s Q.part (dHandle m.bytes)).any fun x => x.tier ≠ 0) then 0x0204
  else if bufSize s Q.part (dHandle m.bytes) < 32 * e.layers then 0x0206
  else trainTableStatus s Q J (dQueue m.bytes) e.rank (coTargets e.contract) (trainTable s Q m e)

/-- The context of an accepted train bind. -/
def boundCtx (s : State) (fn : Nat) (m : MboxMsg) (Q : Queue) (e : DirEntry) (j : Nat) : Ctx :=
  { state := .bound
    part := Q.part
    dir := dIndex m.bytes
    job := j
    queue := dQueue m.bytes
    serve := false
    rank := e.rank
    targets := trainTargets e (trainTable s Q m e)
    baseGen := e.baseGen
    fn
    began := m.arrived }

/-- The beat in which a train bind is done, and its counts. -/
def trainDone (s : State) (m : MboxMsg) (part layers : Nat) : State :=
  let t := { s with now := max s.now (m.arrived + 400 + 4 * layers) }
  bump (bump t (0x4E00 + part) 6 1) (0x4E00 + part) 7 (t.now - m.arrived)

theorem trainBind_refused (hQ : reedQueue s fn m.bytes = some Q) (h : (bindStatus s Q m.bytes 1).1 ≠ 0) :
    trainBind s fn m = answer s fn m (bindStatus s Q m.bytes 1).1 (bindStatus s Q m.bytes 1).2 := by
  unfold trainBind
  rw [withReedQueue_some hQ]
  exact if_pos h

theorem trainBind_checked (hQ : reedQueue s fn m.bytes = some Q) (hst : (bindStatus s Q m.bytes 1).1 = 0)
    (he : dirAt s Q.part (dIndex m.bytes) = some e) (hctx : chosenCtx s Q.part m.bytes = some ctx) (hj : Q.job = some j) (hJ : jobAt s j = some J) :
    trainBind s fn m = if trainStatus s Q m e J ≠ 0 then
        (if isOffence (trainStatus s Q m e J) then offence (answer s fn m (trainStatus s Q m e J) 0) (dQueue m.bytes) none
          else answer s fn m (trainStatus s Q m e J) 0)
      else answer (trainDone (takeCtx s ctx (boundCtx s fn m Q e j)) m Q.part e.layers) fn m 0 ctx := by
  unfold trainBind
  rw [withReedQueue_some hQ]
  dsimp only
  rw [if_neg (not_not.mpr hst)]
  simp only [he, hctx, hj, Option.bind_some, Option.getD_some, hJ]
  rfl

theorem trainTableStatus_lt (s : State) (Q : Queue) (J : Job) (q rank : Nat) (ts : List (Nat × Nat × Nat)) (table : List Byte) :
    trainTableStatus s Q J q rank ts table < 2 ^ 16 := by
  unfold trainTableStatus
  extract_lets rows hs st
  split
  · decide
  split
  · exact handleStatus_lt ..
  split
  · decide
  split
  · decide
  split <;> decide

theorem trainStatus_lt (s : State) (Q : Queue) (m : MboxMsg) (e : DirEntry) (J : Job) : trainStatus s Q m e J < 2 ^ 16 := by
  unfold trainStatus
  split
  · exact handleStatus_lt ..
  split
  · decide
  split
  · decide
  · exact trainTableStatus_lt ..

theorem trainStatus_popMessage (s : State) (fn : Nat) (m : MboxMsg) (Q : Queue) (e : DirEntry) (J : Job) :
    trainStatus (popMessage s fn m) Q m e J = trainStatus s Q m e J := rfl

/-- An accepted train bind. -/
theorem trainBind_accepted (hat : AtHead s fn m 4 5) (hok : reedMessageOk m.bytes = true) (hQ : reedQueue s fn m.bytes = some Q)
    (hturn : (entryLocked s (requestReedPart s fn m.bytes) (dIndex m.bytes)
      || earlierHead s fn m (fun x => dQueue x.bytes) (reedObject s)) = false)
    (hst : (bindStatus s Q m.bytes 1).1 = 0) (he : dirAt s Q.part (dIndex m.bytes) = some e) (hctx : chosenCtx s Q.part m.bytes = some ctx)
    (hj : Q.job = some j) (hJ : jobAt s j = some J) (htrain : trainStatus s Q m e J = 0) :
    Runs (.trainBind fn) s fun t => Answered s t fn m 0 ∧ t.now = max s.now (m.arrived + 400 + 4 * e.layers)
      ∧ Took s Q m e ctx j t (boundCtx s fn m Q e j) := by
  have hrun := trainBind_checked (s := popMessage s fn m) hQ hst he hctx hj hJ
  rw [trainStatus_popMessage, if_neg (not_not.mpr htrain), show boundCtx (popMessage s fn m) fn m Q e j = boundCtx s fn m Q e j from rfl] at hrun
  generalize hu : takeCtx (popMessage s fn m) ctx (boundCtx s fn m Q e j) = u at hrun
  have htake : Only [.dict, .dirs, .ctxs] (popMessage s fn m) u := hu ▸ takeCtx_only ..
  obtain ⟨hrecord, hothers, hbound⟩ := takeCtx_taken (popMessage s fn m) ctx (boundCtx s fn m Q e j)
  rw [hu] at hrecord hothers hbound
  have hdone : Only [.now, .dict] u (trainDone u m Q.part e.layers) := .mono (by rfl) <| (setNow_only ..).trans ((bump_only ..).trans (bump_only ..))
  obtain ⟨hexec, ha⟩ := onReed_answers (run := fun s m => trainBind s fn m) (st := 0) hat hturn hok hrun (by rw [hdone.mboxAt (by decide), htake.mboxAt (by decide)]) (by decide)
  have hend : Only [.now, .dict, .mbx] u (answer (trainDone u m Q.part e.layers) fn m 0 ctx) := .mono (by rfl) <| hdone.trans (answer_only ..)
  have hall : Only [.now, .dict, .dirs, .ctxs, .mbx] s (answer (trainDone u m Q.part e.layers) fn m 0 ctx) :=
    .mono (by rfl) <| (popMessage_only s fn m).trans (htake.trans hend)
  refine ⟨_, congrArg Host.Outcome.next hexec, ha, ?_, ?_, rfl, rfl, rfl, rfl, rfl, fun n hn => ?_, ?_,
    hall.same .bufs (by decide), hall.same .queues (by decide), hall.same .jobs (by decide)⟩
  · rw [(answer_only ..).same .now (by decide)]
    show max u.now _ = _
    rw [htake.same .now (by decide)]
    rfl
  · rw [hend.same .ctxs (by decide)]
    exact hrecord
  · rw [hend.same .ctxs (by decide), hothers n hn]
    rfl
  · rw [dirAt_of_dirs (hend.same .dirs (by decide))]
    exact hbound e he

end Binds

end Sys2Proof.Machine

/-! PROOFS. O37: the end of a bind, unbind, and seal. -/

namespace Sys2Proof.Machine

/-! ## The end of a serve bind's stream -/

section Stream

variable {s : State} {ctx : Nat} {x : Ctx} {e : DirEntry} {blob : List Byte} {ok : Bool}

/-- The ciphertext and its tag, read from where the entry says. -/
def blobRead (s : State) (x : Ctx) (e : DirEntry) (blob : List Byte) : List Byte :=
  if e.location ≤ 2 then (committed s (bufKey x.part (hIndex e.handle))).read (imBlobOff e.header) (imBlobBytes e.header + 16)
  else slice blob 0 (imBlobBytes e.header + 16)

/-- The blob's plaintext, where its tag checks. -/
def blobPlain (s : State) (x : Ctx) (e : DirEntry) (blob : List Byte) : Option (List Byte) :=
  Gcm.open (((keyRecord s e.keyId).map KeyRec.key).getD []) (slice e.header 32 12) e.contract
    ((blobRead s x e blob).take (imBlobBytes e.header)) ((blobRead s x e blob).drop (imBlobBytes e.header))

theorem serveBindComplete_idle
    (h : ((FMap.get? s.ctxs ctx).all fun x => x.state ≠ .binding || (dirAt s x.part x.dir).isNone) = true) : serveBindComplete s ctx blob ok = s := by
  unfold serveBindComplete
  cases hx : FMap.get? s.ctxs ctx with
  | none => rfl
  | some x =>
    rw [hx, Option.all_some, Bool.or_eq_true, decide_eq_true_iff] at h
    dsimp only
    by_cases hstate : x.state ≠ .binding
    · exact if_pos hstate
    · rw [if_neg hstate, Option.isNone_iff_eq_none.mp (h.resolve_left hstate)]

/-- A serve bind that ends without its context. -/
theorem serveBindComplete_refuses {st : Status} (hx : FMap.get? s.ctxs ctx = some x) (hstate : x.state = .binding)
    (he : dirAt s x.part x.dir = some e) (h : (ok = false ∧ st = 0x0112) ∨ (ok = true ∧ blobPlain s x e blob = none ∧ st = 0x010A)
      ∨ (ok = true ∧ (∃ p, blobPlain s x e blob = some p) ∧ e.baseGen ≠ baseGen s x.part ∧ st = 0x0107)) :
    serveBindComplete s ctx blob ok = releaseCtx (answerCtx s x st 0) ctx := by
  unfold serveBindComplete
  simp only [hx, he]
  rw [if_neg (not_not.mpr hstate)]
  rcases h with ⟨rfl, rfl⟩ | ⟨rfl, hplain, rfl⟩ | ⟨rfl, ⟨p, hplain⟩, hgen, rfl⟩
  · rfl
  · rw [if_neg (by decide)]
    unfold blobPlain blobRead at hplain
    rw [hplain]
  · rw [if_neg (by decide)]
    unfold blobPlain blobRead at hplain
    rw [hplain]
    exact if_pos hgen

/-- The bound context. -/
def streamed (s : State) (ctx : Nat) (x : Ctx) (p : List Byte) : State :=
  bump (bump { s with ctxs := FMap.set s.ctxs ctx { x with state := .bound, copy := Mem.write [] 0 p, answer := none } }
    (0x4E00 + x.part) 6 1) (0x4E00 + x.part) 7 (s.now - x.began)

theorem serveBindComplete_binds {p : List Byte} (hx : FMap.get? s.ctxs ctx = some x) (hstate : x.state = .binding)
    (he : dirAt s x.part x.dir = some e) (hplain : blobPlain s x e blob = some p) (hgen : e.baseGen = baseGen s x.part) :
    serveBindComplete s ctx blob true = answerCtx (streamed s ctx x p) x 0 ctx := by
  unfold serveBindComplete
  simp only [hx, he]
  rw [if_neg (not_not.mpr hstate), if_neg (by decide)]
  unfold blobPlain blobRead at hplain
  rw [hplain]
  exact if_neg (not_not.mpr hgen)

theorem mboxAt_releaseCtx (s : State) (ctx f : Nat) : mboxAt (releaseCtx s ctx) f = mboxAt s f := (releaseCtx_only ..).mboxAt (by decide) f

/-- A context freed with its request answered. -/
theorem release_answered {st : Status} (hx : FMap.get? s.ctxs ctx = some x) (he : dirAt s x.part x.dir = some e) (hst : st < 2 ^ 16) :
    (∀ f seq tag, x.answer = some (f, seq, tag) → ∃ r, (mboxAt (releaseCtx (answerCtx s x st 0) ctx) f).held = (mboxAt s f).held ++ [r]
        ∧ r.cls = 4 ∧ r.seq = seq ∧ field r.bytes 4 2 = st)
      ∧ FMap.get? (releaseCtx (answerCtx s x st 0) ctx).ctxs ctx = none
      ∧ (∀ k, k ≠ ctx → FMap.get? (releaseCtx (answerCtx s x st 0) ctx).ctxs k = FMap.get? s.ctxs k)
      ∧ (e.context = ctx → (dirAt (releaseCtx (answerCtx s x st 0) ctx) x.part x.dir).map DirEntry.bound = some false) := by
  have hsame := answerCtx_only s x st 0
  obtain ⟨hgone, hothers, hentry⟩ := releaseCtx_of (s := answerCtx s x st 0) (ctx := ctx) (by rw [hsame.same .ctxs (by decide)]; exact hx)
  refine ⟨fun f seq tag hf => ?_, hgone, fun k hk => ?_, fun hc => ?_⟩
  · rw [mboxAt_releaseCtx]
    exact answerCtx_held st 0 hst hf
  · rw [hothers k hk, hsame.same .ctxs (by decide)]
  · rw [hentry, dirAt_of_dirs (hsame.same .dirs (by decide)), he, Option.map_some, if_pos hc]
    rfl

/-- The end of an unbind. -/
theorem unbindComplete_frees (hx : FMap.get? s.ctxs ctx = some x) (hstate : x.state = .unbinding) (hheld : ctxHeld s ctx = false) :
    unbindComplete s ctx = answerCtx (releaseCtx s ctx) x 0 0 := by
  unfold unbindComplete
  simp only [hx]
  exact if_neg (by rw [Bool.or_eq_true, decide_eq_true_iff, not_or, not_not, hheld]; exact ⟨hstate, by decide⟩)

theorem unbindComplete_idle
    (h : ((FMap.get? s.ctxs ctx).all fun x => x.state ≠ .unbinding) = true ∨ ctxHeld s ctx = true) : unbindComplete s ctx = s := by
  unfold unbindComplete
  cases hx : FMap.get? s.ctxs ctx with
  | none => rfl
  | some x =>
    refine if_pos ?_
    rw [Bool.or_eq_true]
    exact h.imp (fun h => by rwa [hx, Option.all_some] at h) id

end Stream

/-! ## Unbind (R209) -/

section Unbind

variable {s : State} {fn : Nat} {m : MboxMsg} {e : DirEntry} {x : Ctx}

theorem unbindReed_absent (h : dirAt s (reedPart s fn) (dIndex m.bytes) = none) : unbindReed s fn m = answer s fn m 0x0101 0 := by
  unfold unbindReed
  extract_lets part
  simp only [part, h]

theorem unbindReed_unbound (he : dirAt s (reedPart s fn) (dIndex m.bytes) = some e)
    (h : ((FMap.get? s.ctxs e.context).any fun x => e.bound && x.state = .bound) = false) : unbindReed s fn m = answer s fn m 0x0103 0 := by
  have hnone : ((FMap.get? s.ctxs e.context).filter fun x => e.bound && x.state = .bound) = none := by
    cases hx : FMap.get? s.ctxs e.context with
    | none => rfl
    | some x =>
      rw [hx] at h
      exact Option.filter_eq_none_iff.mpr fun y hy => by
        obtain rfl := Option.some.inj hy
        rw [Bool.not_eq_true]
        exact h
  unfold unbindReed
  extract_lets part
  simp only [part, he, hnone]

theorem unbindReed_bound (he : dirAt s (reedPart s fn) (dIndex m.bytes) = some e) (hbound : e.bound = true)
    (hx : FMap.get? s.ctxs e.context = some x) (hstate : x.state = .bound) :
    unbindReed s fn m = { s with ctxs := FMap.set s.ctxs e.context
                                  { x with state := .unbinding, answer := some (fn, m.seq, messageTag 4 m.bytes) } } := by
  have hsome : ((FMap.get? s.ctxs e.context).filter fun x => e.bound && x.state = .bound) = some x := by
    rw [hx]
    exact Option.filter_some_pos (by rw [hbound, hstate]; rfl)
  unfold unbindReed
  extract_lets part
  simp only [part, he, hsome]

/-- A request that names no queue, refused: nothing but its mailbox changes. -/
theorem plainReed_refused {op : Nat} {st : Status} {n : Nat} {cmd : Instr} {run : State → MboxMsg → State}
    (hcmd : exec cmd s = .next (onReed s fn op run)) (hat : AtHead s fn m 4 op)
    (hturn : (entryLocked s (requestReedPart s fn m.bytes) (dIndex m.bytes)
      || earlierHead s fn m (fun x => dQueue x.bytes) (reedObject s)) = false) (hok : reedMessageOk m.bytes = true)
    (hrun : run (popMessage s fn m) m = answer (popMessage s fn m) fn m st n) (hst : st < 2 ^ 16) :
    Runs cmd s fun t => Answered s t fn m st ∧ t = { s with mbx := t.mbx } := by
  obtain ⟨he, ha⟩ := onReed_answers hat hturn hok hrun rfl hst
  exact ⟨_, hcmd.trans (congrArg _ he), ha, (answer_popped_only ..).eq_overlay⟩

theorem unbind_accepted (hat : AtHead s fn m 4 6) (hok : reedMessageOk m.bytes = true)
    (hlocked : entryLocked s (reedPart s fn) (dIndex m.bytes) = false)
    (hearlier : earlierHead s fn m (fun x => dQueue x.bytes) (reedObject s) = false)
    (he : dirAt s (reedPart s fn) (dIndex m.bytes) = some e) (hbound : e.bound = true)
    (hx : FMap.get? s.ctxs e.context = some x) (hstate : x.state = .bound) :
    Runs (.unbind fn) s fun t => Consumed s t fn m ∧ (mboxAt t fn).held = (mboxAt s fn).held ∧ t = { s with mbx := t.mbx, ctxs := t.ctxs }
      ∧ FMap.get? t.ctxs e.context = some { x with state := .unbinding, answer := some (fn, m.seq, messageTag 4 m.bytes) } := by
  obtain ⟨-, hin, -⟩ := id hat
  have hrun := unbindReed_bound (s := popMessage s fn m) he hbound hx hstate
  have hset := setCtxs_only (popMessage s fn m)
    (FMap.set (popMessage s fn m).ctxs e.context { x with state := .unbinding, answer := some (fn, m.seq, messageTag 4 m.bytes) })
  have hconsumed := consumed_of_kept hin (.of_only hset (by decide))
  have hexec := onReed_of_turn (run := fun s m => unbindReed s fn m) hat (reed_turn hat rfl hlocked hearlier) ((if_pos hok).trans hrun) hconsumed.1
  have hall : Only [.mbx, .ctxs] s _ := .mono (by rfl) <| (popMessage_only s fn m).trans hset
  refine ⟨_, congrArg Host.Outcome.next hexec, hconsumed, ?_, hall.eq_overlay, FMap.get?_set_self ..⟩
  rw [hset.mboxAt (by decide), popMessage_box hin]

end Unbind

/-! ## Seal (R211) -/

section Seal

variable {s : State} {fn : Nat} {m : MboxMsg} {Q : Queue} {e : DirEntry} {x : Ctx} {J : Job} {k : KeyRec}

theorem sealReed_absent (hQ : reedQueue s fn m.bytes = some Q) (h : dirAt s Q.part (dIndex m.bytes) = none) :
    sealReed s fn m = answer s fn m 0x0101 0 := by
  unfold sealReed
  rw [withReedQueue_some hQ]
  simp only [h]

theorem sealReed_oldBase (hQ : reedQueue s fn m.bytes = some Q) (he : dirAt s Q.part (dIndex m.bytes) = some e)
    (h : e.baseGen ≠ baseGen s Q.part) : sealReed s fn m = answer s fn m 0x0107 0 := by
  unfold sealReed
  rw [withReedQueue_some hQ]
  simp only [he]
  exact if_pos h

theorem sealReed_unbound (hQ : reedQueue s fn m.bytes = some Q) (he : dirAt s Q.part (dIndex m.bytes) = some e)
    (hgen : e.baseGen = baseGen s Q.part) (h : ((FMap.get? s.ctxs e.context).any fun x => e.bound && x.state = .bound && !x.serve) = false) :
    sealReed s fn m = answer s fn m 0x0103 0 := by
  have hnone : ((FMap.get? s.ctxs e.context).filter fun x => e.bound && x.state = .bound && !x.serve) = none := by
    cases hx : FMap.get? s.ctxs e.context with
    | none => rfl
    | some x =>
      rw [hx] at h
      exact Option.filter_eq_none_iff.mpr fun y hy => by
        obtain rfl := Option.some.inj hy
        rw [Bool.not_eq_true]
        exact h
  unfold sealReed
  rw [withReedQueue_some hQ]
  simp only [he]
  rw [if_neg (not_not.mpr hgen), hnone]

/-- What the handle of a seal answers. -/
def sealStatus (s : State) (Q : Queue) (m : MboxMsg) (e : DirEntry) (k : KeyRec) : Status :=
  if k.sealCount = 2 ^ 64 - 1 then 0x010F
  else if handleStatus s (dQueue m.bytes) Q [dHandle m.bytes] ≠ 0 then handleStatus s (dQueue m.bytes) Q [dHandle m.bytes]
  else if !((bufAt s Q.part (dHandle m.bytes)).any fun b => b.tier ≠ 0 && !b.base) then 0x0204
  else if bufSize s Q.part (dHandle m.bytes) < max e.imageBytes (imBytes e.header) then 0x0206
  else 0

/-- The image that a seal writes. -/
def sealImage (s : State) (e : DirEntry) (k : KeyRec) (J : Job) (x : Ctx) : List Byte :=
  patch e.header 32 (toLe 8 k.sealCount ++ zeros 4) ++ e.contract ++ zeros (imBlobOff e.header - 64 - e.contract.length)
    ++ Gcm.encrypt k.key (toLe 8 k.sealCount ++ zeros 4) e.contract (trainPlain s J x)

/-- The state with an image stored and its seal counted. -/
def imageStored (s : State) (key slot : Nat) (image : List Byte) : State :=
  { storeBuf s key 0 image with
    keys := FMap.modify (storeBuf s key 0 image).keys slot fun k => { k with sealCount := k.sealCount + 1 } }

/-- A train-bound context: where its job or its key is gone, 0x0106. -/
theorem sealReed_noJob (hQ : reedQueue s fn m.bytes = some Q) (he : dirAt s Q.part (dIndex m.bytes) = some e)
    (hgen : e.baseGen = baseGen s Q.part) (hbound : e.bound = true) (hx : FMap.get? s.ctxs e.context = some x) (hstate : x.state = .bound)
    (hserve : x.serve = false) (h : Q.job ≠ some x.job ∨ jobAt s x.job = none ∨ keyRecord s e.keyId = none) :
    sealReed s fn m = answer s fn m 0x0106 0 := by
  have hsome : ((FMap.get? s.ctxs e.context).filter fun x => e.bound && x.state = .bound && !x.serve) = some x := by
    rw [hx]
    exact Option.filter_some_pos (by rw [hbound, hstate, hserve]; rfl)
  unfold sealReed
  rw [withReedQueue_some hQ]
  simp only [he]
  rw [if_neg (not_not.mpr hgen), hsome]
  dsimp only
  split
  next J k hJ hk =>
    obtain ⟨hjob, hown⟩ := Option.filter_eq_some_iff.mp hJ
    rw [hjob, hk] at h
    exact absurd (of_decide_eq_true hown) (by simpa using h)
  next => rfl

theorem sealReed_checked (hQ : reedQueue s fn m.bytes = some Q) (he : dirAt s Q.part (dIndex m.bytes) = some e)
    (hgen : e.baseGen = baseGen s Q.part) (hbound : e.bound = true) (hx : FMap.get? s.ctxs e.context = some x) (hstate : x.state = .bound)
    (hserve : x.serve = false) (hjob : Q.job = some x.job) (hJ : jobAt s x.job = some J) (hk : keyRecord s e.keyId = some k) :
    sealReed s fn m = if sealStatus s Q m e k ≠ 0 then
        (if isOffence (sealStatus s Q m e k) then offence (answer s fn m (sealStatus s Q m e k) 0) (dQueue m.bytes) none
          else answer s fn m (sealStatus s Q m e k) 0)
      else answer (imageStored s (bufKey Q.part (hIndex (dHandle m.bytes))) (e.keyId % 2 ^ 14) (sealImage s e k J x)) fn m 0 0 := by
  have hsome : ((FMap.get? s.ctxs e.context).filter fun x => e.bound && x.state = .bound && !x.serve) = some x := by
    rw [hx]
    exact Option.filter_some_pos (by rw [hbound, hstate, hserve]; rfl)
  have hfilter : ((jobAt s x.job).filter fun _ => Q.job = some x.job) = some J := by
    rw [hJ]
    exact Option.filter_some_pos (decide_eq_true hjob)
  unfold sealReed
  rw [withReedQueue_some hQ]
  simp only [he]
  rw [if_neg (not_not.mpr hgen), hsome]
  dsimp only
  rw [hfilter, hk]
  dsimp only
  unfold sealStatus
  by_cases hcount : k.sealCount = 2 ^ 64 - 1
  · rw [if_pos hcount, if_pos hcount]
    rfl
  rw [if_neg hcount, if_neg hcount]
  by_cases hst : handleStatus s (dQueue m.bytes) Q [dHandle m.bytes] ≠ 0
  · rw [if_pos hst, if_pos hst, if_pos hst]
  rw [if_neg hst, if_neg hst]
  by_cases htier : (!((bufAt s Q.part (dHandle m.bytes)).any fun b => b.tier ≠ 0 && !b.base)) = true
  · rw [if_pos htier, if_pos htier]
    rfl
  rw [if_neg htier, if_neg htier]
  by_cases hsize : bufSize s Q.part (dHandle m.bytes) < max e.imageBytes (imBytes e.header)
  · rw [if_pos hsize, if_pos hsize]
    rfl
  rw [if_neg hsize, if_neg hsize]
  rfl

/-- The poison that a store clears (R435). -/
def clearedBy (s : State) (key off : Nat) (data : List Byte) : State :=
  clearPoison s fun w => w.1 = key && off ≤ 8 * w.2 && 8 * w.2 + 8 ≤ off + data.length

/-- A store to the buffer's home. -/
def storedHome (s : State) (key off : Nat) (data : List Byte) : State :=
  { clearedBy s key off data with bufs := FMap.modify s.bufs key fun b => { b with data := b.data.write off data } }

theorem storeBuf_absent {key : Nat} (off : Nat) (data : List Byte) (h : FMap.get? s.tiered key = none) :
    storeBuf s key off data = storedHome s key off data := by
  unfold storeBuf
  extract_lets s1 home
  have h1 : FMap.get? s1.tiered key = none := h
  simp only [h1]
  rfl

theorem storeBuf_tiered {key : Nat} {t : Tiered} (off : Nat) (data : List Byte) (h : FMap.get? s.tiered key = some t) :
    storeBuf s key off data = if t.state = .resident || t.state = .pinned || t.state = .evicting then
        { clearedBy s key off data with tiered := FMap.set s.tiered key { t with copy := t.copy.write off data, dirty := true } }
      else storedHome s key off data := by
  unfold storeBuf
  extract_lets s1 home
  have h1 : FMap.get? s1.tiered key = some t := h
  simp only [h1]
  rfl

theorem storeBuf_popMessage (s : State) (fn : Nat) (m : MboxMsg) (key off : Nat) (data : List Byte) :
    storeBuf (popMessage s fn m) key off data = { storeBuf s key off data with mbx := (popMessage s fn m).mbx } := by
  cases ht : FMap.get? s.tiered key with
  | none =>
    rw [storeBuf_absent off data ht, storeBuf_absent (s := popMessage s fn m) off data ht]
    rfl
  | some t =>
    rw [storeBuf_tiered off data ht, storeBuf_tiered (s := popMessage s fn m) off data ht]
    split
    · rfl
    · rfl

theorem storeBuf_home {b : Buf} {key : Nat} (off : Nat) (data : List Byte) (hb : FMap.get? s.bufs key = some b) (ht : FMap.get? s.tiered key = none) :
    FMap.get? (storeBuf s key off data).bufs key = some { b with data := b.data.write off data } := by
  rw [storeBuf_absent off data ht, show (storedHome s key off data).bufs = FMap.modify s.bufs key fun b => { b with data := b.data.write off data }
    from rfl, FMap.get?_modify]
  rw [if_pos rfl, hb]
  rfl

theorem imageStored_keys (s : State) (key slot : Nat) (image : List Byte) :
    (imageStored s key slot image).keys = FMap.modify s.keys slot fun k => { k with sealCount := k.sealCount + 1 } := by
  show FMap.modify (storeBuf s key 0 image).keys slot (fun k => { k with sealCount := k.sealCount + 1 }) = _
  rw [(storeBuf_only ..).same .keys (by decide)]

/-- An accepted seal. -/
theorem seal_accepted (hat : AtHead s fn m 4 7) (hok : reedMessageOk m.bytes = true) (hwaits : sealWaits s fn = false)
    (hturn : (entryLocked s (requestReedPart s fn m.bytes) (dIndex m.bytes)
      || earlierHead s fn m (fun x => dQueue x.bytes) (reedObject s)) = false) {key : Nat} {image : List Byte}
    (hk : keyRecord s e.keyId = some k)
    (hrun : sealReed (popMessage s fn m) fn m = answer (imageStored (popMessage s fn m) key (e.keyId % 2 ^ 14) image) fn m 0 0) :
    Runs (.seal fn) s fun t => Answered s t fn m 0
      ∧ t = { storeBuf s key 0 image with mbx := t.mbx, keys := t.keys }
      ∧ (∀ b, FMap.get? s.bufs key = some b → FMap.get? s.tiered key = none →
          FMap.get? t.bufs key = some { b with data := b.data.write 0 image })
      ∧ (∀ n, n ≠ key → FMap.get? t.bufs n = FMap.get? s.bufs n)
      ∧ keyRecord t e.keyId = some { k with sealCount := k.sealCount + 1 } := by
  have hstored : Only [.bufs, .tiered, .rel, .keys] (popMessage s fn m) (imageStored (popMessage s fn m) key (e.keyId % 2 ^ 14) image) :=
    .mono (by rfl) <| (storeBuf_only ..).trans (setKeys_only ..)
  obtain ⟨hexec, ha⟩ := onReed_answers (run := fun s m => sealReed s fn m) (st := 0) hat hturn hok hrun (hstored.mboxAt (by decide) fn) (by decide)
  have hend := answer_only (imageStored (popMessage s fn m) key (e.keyId % 2 ^ 14) image) fn m 0 0
  have hexec' : exec (.seal fn) s = .next (answer (imageStored (popMessage s fn m) key (e.keyId % 2 ^ 14) image) fn m 0 0) :=
    congrArg Host.Outcome.next ((if_neg (by rw [hwaits]; decide)).trans hexec)
  have hbufs : (answer (imageStored (popMessage s fn m) key (e.keyId % 2 ^ 14) image) fn m 0 0).bufs = (storeBuf s key 0 image).bufs := by
    rw [hend.same .bufs (by decide)]
    show (storeBuf (popMessage s fn m) key 0 image).bufs = _
    rw [storeBuf_popMessage]
  refine ⟨_, hexec', ha, ?_, fun b hb ht => ?_, fun n hn => ?_, ?_⟩
  · have hstore : Only [.mbx] (storeBuf s key 0 image) (storeBuf (popMessage s fn m) key 0 image) := by
      rw [storeBuf_popMessage]
      exact setMbx_only ..
    have hall : Only [.mbx, .keys] (storeBuf s key 0 image) (answer (imageStored (popMessage s fn m) key (e.keyId % 2 ^ 14) image) fn m 0 0) :=
      .mono (by rfl) <| hstore.trans ((setKeys_only ..).trans hend)
    exact hall.eq_overlay
  · rw [hbufs]
    exact storeBuf_home 0 image hb ht
  · rw [hbufs]
    exact (storeBuf_kept s key 0 image hn).get
  · have hkeys : (answer (imageStored (popMessage s fn m) key (e.keyId % 2 ^ 14) image) fn m 0 0).keys
        = FMap.modify s.keys (e.keyId % 2 ^ 14) fun k => { k with sealCount := k.sealCount + 1 } := by
      rw [hend.same .keys (by decide)]
      exact imageStored_keys ..
    have hgens : (answer (imageStored (popMessage s fn m) key (e.keyId % 2 ^ 14) image) fn m 0 0).keyGens = s.keyGens := by
      rw [hend.same .keyGens (by decide), hstored.same .keyGens (by decide)]
      rfl
    unfold keyRecord keyIdOf at hk ⊢
    rw [hgens]
    split at hk
    next hid =>
      rw [if_pos hid, hkeys, FMap.get?_modify, if_pos rfl, hk]
      rfl
    next => cases hk

end Seal

end Sys2Proof.Machine

/-! PROOFS. O37: the theorem. -/

namespace Sys2Proof.Machine

section Requests

variable {s : State} {fn op : Nat} {m : MboxMsg} {Q : Queue}

/-- An answer that may count an offence of the queue changes nothing else. -/
theorem answer_offence_only (s : State) (fn : Nat) (m : MboxMsg) (st : Status) (q : Nat) :
    Only [.queues] (answer s fn m st 0) (if isOffence st then offence (answer s fn m st 0) q none else answer s fn m st 0) :=
  .ite (offence_only ..) (.self _)

/-- A request that waits for its entry, its turn or, a seal, its context. -/
theorem bindRequest_waits {cmd : Instr} {run : State → MboxMsg → State} (hcmd : exec cmd s = .next (onReed s fn op run)) (hat : AtHead s fn m 4 op)
    (h : (entryLocked s (requestReedPart s fn m.bytes) (dIndex m.bytes) || earlierHead s fn m (fun x => dQueue x.bytes) (reedObject s)) = true) :
    Runs cmd s (· = s) := ⟨s, hcmd.trans (congrArg _ (onReed_waits hat h)), rfl⟩

theorem bindRequest_badMessage {cmd : Instr} {run : State → MboxMsg → State} (hcmd : exec cmd s = .next (onReed s fn op run)) (hat : AtHead s fn m 4 op)
    (h : (entryLocked s (requestReedPart s fn m.bytes) (dIndex m.bytes) || earlierHead s fn m (fun x => dQueue x.bytes) (reedObject s)) = false)
    (hok : reedMessageOk m.bytes = false) : Runs cmd s fun t => Answered s t fn m 0x0102 ∧ t = { s with mbx := t.mbx } := by
  obtain ⟨he, ha⟩ := onReed_badMessage (run := run) hat h hok
  exact ⟨_, hcmd.trans (congrArg _ he), ha, (answer_popped_only ..).eq_overlay⟩

theorem execSeal_of_free (h : sealWaits s fn = false) : exec (.seal fn) s = .next (onReed s fn 7 fun s m => sealReed s fn m) :=
  congrArg Host.Outcome.next (if_neg (by rw [h]; decide))

/-- The requests that wait, break R202, or name no queue of their function. -/
theorem bindRequests_refused (image : List Byte) (hat : AtHead s fn m 4 op) (hlo : 4 ≤ op) (hhi : op ≤ 7) :
    let cmd : Instr := match op with | 4 => .serveBind fn image | 5 => .trainBind fn | 6 => .unbind fn | _ => .seal fn
    let waits := entryLocked s (requestReedPart s fn m.bytes) (dIndex m.bytes)
      || earlierHead s fn m (fun x => dQueue x.bytes) (reedObject s)
    let held := decide (op = 7) && sealWaits s fn
    let refused (st : Status) (t : State) : Prop := Answered s t fn m st ∧ t = { s with mbx := t.mbx }
    ((waits = true ∨ held = true) → Runs cmd s (· = s))
    ∧ (waits = false → held = false → reedMessageOk m.bytes = false → Runs cmd s (refused 0x0102))
    ∧ (waits = false → held = false → reedMessageOk m.bytes = true → op ≠ 6 → reedQueue s fn m.bytes = none → Runs cmd s (refused 0x0803)) := by
  have hnone {cmd : Instr} {run : State → MboxMsg → State} (hcmd : exec cmd s = .next (onReed s fn op run))
      (hturn : (entryLocked s (requestReedPart s fn m.bytes) (dIndex m.bytes)
        || earlierHead s fn m (fun x => dQueue x.bytes) (reedObject s)) = false) (hok : reedMessageOk m.bytes = true)
      (hrun : run (popMessage s fn m) m = answer (popMessage s fn m) fn m 0x0803 0) :
      Runs cmd s fun t => Answered s t fn m 0x0803 ∧ t = { s with mbx := t.mbx } := plainReed_refused hcmd hat hturn hok hrun (by decide)
  obtain rfl | rfl | rfl | rfl : op = 4 ∨ op = 5 ∨ op = 6 ∨ op = 7 := by omega
  · exact ⟨fun h => bindRequest_waits rfl hat (h.resolve_right (by simp)), fun h _ => bindRequest_badMessage rfl hat h,
      fun h _ hok _ hQ => hnone rfl h hok (withReedQueue_none (s := popMessage s fn m) hQ)⟩
  · exact ⟨fun h => bindRequest_waits rfl hat (h.resolve_right (by simp)), fun h _ => bindRequest_badMessage rfl hat h,
      fun h _ hok _ hQ => hnone rfl h hok (withReedQueue_none (s := popMessage s fn m) hQ)⟩
  · exact ⟨fun h => bindRequest_waits rfl hat (h.resolve_right (by simp)), fun h _ => bindRequest_badMessage rfl hat h,
      fun _ _ _ hne => absurd rfl hne⟩
  · refine ⟨fun h => ?_, fun h hheld => bindRequest_badMessage (execSeal_of_free hheld) hat h,
      fun h hheld hok _ hQ => hnone (execSeal_of_free hheld) h hok (withReedQueue_none (s := popMessage s fn m) hQ)⟩
    cases hwaits : sealWaits s fn with
    | true => exact ⟨s, congrArg Host.Outcome.next (if_pos hwaits), rfl⟩
    | false => exact bindRequest_waits (execSeal_of_free hwaits) hat (h.resolve_right (by rw [hwaits]; decide))

end Requests

section Seals

variable {s : State} {fn : Nat} {m : MboxMsg} {Q : Queue} {e : DirEntry} {x : Ctx}

/-- A seal refused: no buffer and no key changes. -/
theorem seal_refused {t : State} {st : Status} (hat : AtHead s fn m 4 7) (hok : reedMessageOk m.bytes = true) (hwaits : sealWaits s fn = false)
    (hturn : (entryLocked s (requestReedPart s fn m.bytes) (dIndex m.bytes)
      || earlierHead s fn m (fun x => dQueue x.bytes) (reedObject s)) = false) (hrun : sealReed (popMessage s fn m) fn m = t)
    (ht : Only [.queues] (answer (popMessage s fn m) fn m st 0) t) (hst : st < 2 ^ 16) :
    Runs (.seal fn) s fun t => Answered s t fn m st ∧ t.bufs = s.bufs ∧ t.keys = s.keys := by
  obtain ⟨u, hexec, ha, hsame⟩ := queueReed_refused (execSeal_of_free hwaits) hat hturn hok hrun ht hst
  exact ⟨u, hexec, ha, hsame.same .bufs (by decide), hsame.same .keys (by decide)⟩

theorem sealStatus_lt (s : State) (Q : Queue) (m : MboxMsg) (e : DirEntry) (k : KeyRec) : sealStatus s Q m e k < 2 ^ 16 := by
  unfold sealStatus
  split
  · decide
  split
  · exact handleStatus_lt ..
  split
  · decide
  split <;> decide

end Seals

/-- Settles O37: each request by its checks, in their order, and each end of a stream or an unbind by the context's state. -/
theorem reedBinding : Obligations.ReedBinding := by
  unfold Obligations.ReedBinding
  refine ⟨fun s fn op m image hat hlo hhi => ?_, fun s fn m image Q hok hQ _ hlocked hearlier => ?_, fun s ctx blob ok h => ?_,
    fun s ctx x e blob hx hstate _ he => ?_, fun s fn m hat hok hlocked hearlier => ?_, fun s ctx h => ?_, fun s ctx x hx hstate => ?_,
    fun s fn m Q hat hok hwaits hQ hlocked hearlier => ?_⟩
  · obtain rfl | rfl | rfl | rfl : op = 4 ∨ op = 5 ∨ op = 6 ∨ op = 7 := by omega
    · exact bindRequests_refused image hat hlo hhi
    · exact bindRequests_refused image hat hlo hhi
    · exact bindRequests_refused image hat hlo hhi
    · exact bindRequests_refused image hat hlo hhi
  · intro b refused
    have hturn {op : Nat} (hat : AtHead s fn m 4 op) (hop : reedNeedsQueue op = true) := queueReed_turn hat hop hQ hlocked hearlier
    have hrefused {op n : Nat} {cmd : Instr} {run : State → MboxMsg → State} {t : State} {st : Status}
        (hcmd : exec cmd s = .next (onReed s fn op run)) (hat : AtHead s fn m 4 op) (hop : reedNeedsQueue op = true)
        (hrun : run (popMessage s fn m) m = t) (ht : Only [.queues] (answer (popMessage s fn m) fn m st n) t) (hst : st < 2 ^ 16) :
        Runs cmd s (refused st) := by
      obtain ⟨u, hexec, ha, hsame⟩ := queueReed_refused hcmd hat (hturn hat hop) hok hrun ht hst
      exact ⟨u, hexec, ha, hsame.same .ctxs (by decide), hsame.same .dirs (by decide)⟩
    refine ⟨fun hat hst => ?_, fun hat hst => ?_, fun e ctx j J he hctx hj hJ => ?_⟩
    · exact hrefused (cmd := .serveBind fn image) rfl hat rfl (serveBind_refused (s := popMessage s fn m) hQ hst) (.self _) (bindStatus_lt ..)
    · exact hrefused (cmd := .trainBind fn) rfl hat rfl (trainBind_refused (s := popMessage s fn m) hQ hst) (.self _) (bindStatus_lt ..)
    · intro took im imageOk size h hs trainSt
      refine ⟨fun hat hst => ⟨fun hmay himage => ?_, fun hmay => ?_, fun hmay himage => ?_⟩, fun hat hst => ⟨fun htrain => ?_, fun htrain => ?_⟩⟩
      · obtain ⟨t, hexec, hconsumed, hheld, hcharged, htook⟩ := serveBind_accepted hat hok hQ (hturn hat rfl) hst he hctx hj hJ hmay himage
        exact ⟨t, hexec, hconsumed, hheld, hcharged, _, htook, rfl, rfl, rfl⟩
      · exact hrefused (cmd := .serveBind fn image) rfl hat rfl
          ((serveBind_checked (s := popMessage s fn m) hQ hst he hctx hj hJ).trans (if_pos hmay)) (.self _) (by decide)
      · exact hrefused (cmd := .serveBind fn image) rfl hat rfl ((serveBind_checked (s := popMessage s fn m) hQ hst he hctx hj hJ).trans
          ((if_neg (by rw [mayCharge_popMessage, hmay]; decide)).trans (if_pos himage))) (.self _) (by decide)
      · obtain ⟨t, hexec, ha, hnow, htook⟩ := trainBind_accepted hat hok hQ (hturn hat rfl) hst he hctx hj hJ htrain
        exact ⟨t, hexec, ha, hnow, _, htook, rfl, rfl, rfl⟩
      · exact hrefused (cmd := .trainBind fn) rfl hat rfl ((trainBind_checked (s := popMessage s fn m) hQ hst he hctx hj hJ).trans (if_pos htrain))
          (answer_offence_only ..) (trainStatus_lt ..)
  · exact ⟨s, congrArg Host.Outcome.next (serveBindComplete_idle h), rfl⟩
  · intro n data plain answers freed
    have hfreed {ok : Bool} {st : Status} (h : (ok = false ∧ st = 0x0112) ∨ (ok = true ∧ blobPlain s x e blob = none ∧ st = 0x010A)
        ∨ (ok = true ∧ (∃ p, blobPlain s x e blob = some p) ∧ e.baseGen ≠ baseGen s x.part ∧ st = 0x0107)) (hst : st < 2 ^ 16) :
        Runs (.serveBindComplete ctx blob ok) s (freed st) :=
      ⟨_, congrArg Host.Outcome.next (serveBindComplete_refuses hx hstate he h), release_answered hx he hst⟩
    refine ⟨hfreed (.inl ⟨rfl, rfl⟩) (by decide), fun hplain => hfreed (.inr (.inl ⟨rfl, hplain, rfl⟩)) (by decide), fun p hplain =>
      ⟨fun hgen => hfreed (.inr (.inr ⟨rfl, ⟨p, hplain⟩, hgen, rfl⟩)) (by decide), fun hgen => ?_⟩⟩
    have hstreamed : Only [.ctxs, .dict] s (streamed s ctx x p) := .mono (by rfl) <| (setCtxs_only ..).trans ((bump_only ..).trans (bump_only ..))
    have hall : Only [.ctxs, .dict, .mbx] s (answerCtx (streamed s ctx x p) x 0 ctx) := .mono (by rfl) <| hstreamed.trans (answerCtx_only ..)
    refine ⟨_, congrArg Host.Outcome.next (serveBindComplete_binds hx hstate he hplain hgen), fun f seq tag hf => ?_, ?_, hall.eq_overlay⟩
    · obtain ⟨r, hheld, hrest⟩ := answerCtx_held (s := streamed s ctx x p) 0 ctx (by decide) hf
      exact ⟨r, by rw [hheld, hstreamed.mboxAt (by decide)], hrest⟩
    · rw [(answerCtx_only ..).same .ctxs (by decide)]
      exact FMap.get?_set_self ..
  · have hturn := reed_turn hat rfl hlocked hearlier
    refine ⟨fun hnone => ?_, fun e he => ⟨fun hunbound => ?_, fun x hbound hx hstate => unbind_accepted hat hok hlocked hearlier he hbound hx hstate⟩⟩
    · exact plainReed_refused (cmd := .unbind fn) rfl hat hturn hok (unbindReed_absent (s := popMessage s fn m) hnone) (by decide)
    · exact plainReed_refused (cmd := .unbind fn) rfl hat hturn hok (unbindReed_unbound (s := popMessage s fn m) he hunbound) (by decide)
  · exact ⟨s, congrArg Host.Outcome.next (unbindComplete_idle (.inl h)), rfl⟩
  · refine ⟨fun hheld => ⟨s, congrArg Host.Outcome.next (unbindComplete_idle (.inr hheld)), rfl⟩, fun hheld => ?_⟩
    obtain ⟨hgone, hothers, hentry⟩ := releaseCtx_of hx
    have hsame := answerCtx_only (releaseCtx s ctx) x 0 0
    refine ⟨_, congrArg Host.Outcome.next (unbindComplete_frees hx hstate hheld), ?_, fun n hn => ?_, ?_, fun f seq tag hf => ?_⟩
    · rw [hsame.same .ctxs (by decide)]
      exact hgone
    · rw [hsame.same .ctxs (by decide)]
      exact hothers n hn
    · rw [dirAt_of_dirs (hsame.same .dirs (by decide))]
      exact hentry
    · obtain ⟨r, hheld', hrest⟩ := answerCtx_held (s := releaseCtx s ctx) 0 0 (by decide) hf
      exact ⟨r, by rw [hheld', mboxAt_releaseCtx], hrest⟩
  · have hturn := queueReed_turn hat rfl hQ hlocked hearlier
    intro refused
    refine ⟨fun hnone => ?_, fun e he => ⟨fun hgen => ?_, fun hgen hunbound => ?_, fun x hgen hbound hx hstate hserve => ⟨fun hgone => ?_,
      fun J k hjob hJ hk => ?_⟩⟩⟩
    · exact seal_refused hat hok hwaits hturn (sealReed_absent (s := popMessage s fn m) hQ hnone) (.self _) (by decide)
    · exact seal_refused hat hok hwaits hturn (sealReed_oldBase (s := popMessage s fn m) hQ he hgen) (.self _) (by decide)
    · exact seal_refused hat hok hwaits hturn (sealReed_unbound (s := popMessage s fn m) hQ he hgen hunbound) (.self _) (by decide)
    · exact seal_refused hat hok hwaits hturn (sealReed_noJob (s := popMessage s fn m) hQ he hgen hbound hx hstate hserve hgone) (.self _) (by decide)
    · intro h hs st key iv image
      have hrun := sealReed_checked (s := popMessage s fn m) hQ he hgen hbound hx hstate hserve hjob hJ hk
      refine ⟨fun hst => ?_, fun hst => ?_⟩
      · exact seal_refused hat hok hwaits hturn (hrun.trans (if_pos hst)) (answer_offence_only ..) (sealStatus_lt ..)
      · exact seal_accepted hat hok hwaits hturn hk (hrun.trans (if_neg (not_not.mpr hst)))

end Sys2Proof.Machine

/-! PROOFS. Bases: what keeps a partition's base, and the entries of its state. -/

namespace Sys2Proof.Machine

/-! ## A partition's base -/

/-- What a partition knows of its base. -/
def Part.bases (p : Part) : List Tensor × Option BaseJob × List Nat × List Nat := (p.tensors, p.baseJob, p.baseHandles, p.incoming)

/-- No partition's base changes. -/
structure BasesKept (s t : State) : Prop where
  kept : ∀ p, (partAt t p).bases = (partAt s p).bases

namespace BasesKept

variable {s t u : State}

theorem refl (s : State) : BasesKept s s := ⟨fun _ => rfl⟩

theorem trans (h : BasesKept s t) (g : BasesKept t u) : BasesKept s u := ⟨fun p => (g.kept p).trans (h.kept p)⟩

theorem of_only {F : List StateField} (h : Only F s t) (hF : .parts ∉ F) : BasesKept s t := ⟨fun p => by rw [h.partAt hF]⟩

theorem of_parts (h : t.parts = s.parts) : BasesKept s t := ⟨fun p => by unfold partAt; rw [h]⟩

theorem ite {c : Prop} [Decidable c] (h : BasesKept s t) (g : BasesKept s u) : BasesKept s (if c then t else u) := by
  split <;> assumption

theorem foldl {α : Type} {f : State → α → State} (h : ∀ s a, BasesKept s (f s a)) (l : List α) (s : State) : BasesKept s (l.foldl f s) := by
  induction l generalizing s with
  | nil => exact .refl s
  | cons a l ih => exact (h s a).trans (ih _)

theorem baseJobAt (h : BasesKept s t) (p : Nat) : baseJobAt t p = baseJobAt s p := congrArg (fun b => b.2.1) (h.kept p)

theorem tensors (h : BasesKept s t) (p : Nat) : (partAt t p).tensors = (partAt s p).tensors := congrArg (fun b => b.1) (h.kept p)

theorem baseHandles (h : BasesKept s t) (p : Nat) : (partAt t p).baseHandles = (partAt s p).baseHandles := congrArg (fun b => b.2.2.1) (h.kept p)

theorem incoming (h : BasesKept s t) (p : Nat) : (partAt t p).incoming = (partAt s p).incoming := congrArg (fun b => b.2.2.2) (h.kept p)

end BasesKept

theorem partAt_updPart_other (s : State) (f : Part → Part) {p q : Nat} (h : q ≠ p) : partAt (updPart s p f) q = partAt s q := by
  unfold updPart partAt
  exact FMap.getD_put_other _ _ _ _ _ _ h

theorem updPart_basesKept {f : Part → Part} (hf : ∀ p, (f p).bases = p.bases) (s : State) (part : Nat) : BasesKept s (updPart s part f) := by
  refine ⟨fun p => ?_⟩
  by_cases hp : p = part
  · rw [hp, partAt_updPart_self, hf]
  · rw [partAt_updPart_other s f hp]

theorem setCharge_basesKept (s : State) (part fn tier n : Nat) : BasesKept s (setCharge s part fn tier n) := by
  unfold setCharge
  extract_lets s1
  have h1 : BasesKept s s1 := .of_only (dset_only ..) (by decide)
  refine .ite (updPart_basesKept (fun p => ?_) s part) (.ite (h1.trans (.of_only (raiseTo_only ..) (by decide))) h1)
  split <;> rfl

theorem uncharge_basesKept (s : State) (part fn tier n : Nat) : BasesKept s (uncharge s part fn tier n) := setCharge_basesKept ..

theorem returnStorage_basesKept (s : State) (part key : Nat) (b : Buf) : BasesKept s (returnStorage s part key b) := by
  unfold returnStorage
  extract_lets s1
  have h1 : BasesKept s s1 := .ite (.refl s) (uncharge_basesKept ..)
  split
  · exact h1
  · extract_lets s2
    have h2 : BasesKept s s2 := .ite h1 (h1.trans (uncharge_basesKept ..))
    exact h2.trans (.of_parts rfl)

theorem freeBuf_basesKept (s : State) (key : Nat) : BasesKept s (freeBuf s key) := by
  unfold freeBuf
  split
  · exact .refl s
  · extract_lets ver held s1 src s2
    have h2 : BasesKept s s2 := (BasesKept.of_only (endRequests_only ..) (by decide)).trans (.of_parts rfl)
    refine .ite (h2.trans ?_) (h2.trans (returnStorage_basesKept ..))
    exact .of_only ((setBufs_only _ _).trans (moveTiered_only ..)) (by decide)

theorem releaseHeld_basesKept (s : State) : BasesKept s (releaseHeld s) := by
  unfold releaseHeld
  refine .foldl (fun t e => ?_) _ _
  extract_lets ver
  exact .ite (.refl t) ((BasesKept.of_only (setBufs_only t (FMap.erase t.bufs e.1)) (by decide)).trans (returnStorage_basesKept ..))

theorem failCmd_basesKept (s : State) (q uid : Nat) (st : Status) (stops : Bool) : BasesKept s (failCmd s q uid st stops) := by
  unfold failCmd
  split
  · exact .refl s
  · extract_lets s1 s2 s3 s4 s5
    have h1 : BasesKept s s1 := (BasesKept.of_only (leaveEngines_only ..) (by decide)).trans ((BasesKept.of_only (discardArray_only ..) (by decide)).trans
      ((BasesKept.of_only (withdraw_only ..) (by decide)).trans (.of_only (endStall_only ..) (by decide))))
    have h2 : BasesKept s s2 := .ite (h1.trans (.of_only (countIssued_only ..) (by decide))) h1
    have h4 : BasesKept s s4 := h2.trans ((BasesKept.of_only (updCmd_only ..) (by decide)).trans (.of_only (putCompletion_only ..) (by decide)))
    have h5 : BasesKept s s5 := .ite (h4.trans (.of_only (offence_only ..) (by decide))) h4
    exact BasesKept.trans (.ite (h5.trans (.of_only (stopQueue_only ..) (by decide))) h5) (releaseHeld_basesKept _)

theorem failIncoming_basesKept (s : State) (part : Nat) (st : Status) : BasesKept s (failIncoming s part st) := by
  unfold failIncoming
  refine .foldl (fun t e => ?_) _ _
  split
  · exact .refl t
  · split
    · exact .refl t
    · exact failCmd_basesKept ..

/-! ## A base freed -/

section Free

variable {part : Nat}

theorem freeBase_part (s : State) (part : Nat) : (partAt (freeBase s part) part).bases = ([], baseJobAt s part, [], []) := by
  unfold freeBase
  extract_lets ts s1
  rw [partAt_updPart_self]
  have h : BasesKept s (chargeBase s1 part 0 (baseCharge ts)) := (BasesKept.foldl (fun t x => freeBuf_basesKept t _) _ s).trans
    (.of_only (chargeBase_only ..) (by decide))
  exact congrArg (fun j => (([] : List Tensor), j, ([] : List Nat), ([] : List Nat))) (h.baseJobAt part)

theorem freeBase_inboxKept (s : State) (part : Nat) : InboxKept s (freeBase s part) := by
  unfold freeBase
  extract_lets ts s1
  exact (InboxKept.foldl (fun t x => freeBuf_inboxKept t _) _ s).trans
    ((InboxKept.of_only (chargeBase_only ..) (by decide)).trans (.of_only (updPart_only ..) (by decide)))

theorem partAt_updBaseJob (s : State) (part : Nat) (f : BaseJob → BaseJob) : baseJobAt (updBaseJob s part f) part = (baseJobAt s part).map f := by
  unfold baseJobAt updBaseJob
  rw [partAt_updPart_self]

end Free

/-! ## The entries of a base's state -/

section Entries

variable {s : State} {part : Nat}

theorem dget_dset_self (s : State) (i j n : Nat) : dget (dset s i j n) (dkey i j) = .num n := dget_dput_self ..

theorem noBase_state (s : State) (part st : Nat) : dnum (noBase s part st) (0x5600 + part) 1 = st := by
  unfold noBase
  extract_lets s1 s2
  have h : KeyKept (dkey (0x5600 + part) 1) s1 (dset (dset s2 (0x5600 + part) 4 0) (0x5600 + part) 5 0) :=
    (KeyKept.trans (dget_dput_other _ _ _ _ (by unfold dkey; omega)) (dget_dput_other _ _ _ _ (by unfold dkey; omega))).trans
      ((KeyKept.dset _ _ _ _ (by unfold dkey; omega)).trans (.dset _ _ _ _ (by unfold dkey; omega)))
  exact h.dnum.trans (dnum_dset_self ..)

theorem noBase_digest (s : State) (part st : Nat) : dblob (noBase s part st) (0x5600 + part) 2 = zeros 48 := by
  unfold noBase
  extract_lets s1 s2
  have h : KeyKept (dkey (0x5600 + part) 2) (dsetB s1 (0x5600 + part) 2 (zeros 48)) (dset (dset s2 (0x5600 + part) 4 0) (0x5600 + part) 5 0) :=
    KeyKept.trans (dget_dput_other _ _ _ _ (by unfold dkey; omega))
      ((KeyKept.dset _ _ _ _ (by unfold dkey; omega)).trans (.dset _ _ _ _ (by unfold dkey; omega)))
  exact (congrArg DVal.bytes h).trans (dblob_dsetB_self ..)

theorem bumpBaseGen_keyKept (s : State) (part : Nat) {i j : Nat} (h : dkey i j ≠ dkey (0x4E00 + part) 5) : KeyKept (dkey i j) s (bumpBaseGen s part) :=
  (KeyKept.dset s (0x4E00 + part) 5 ((baseGen s part + 1) % 2 ^ 32) h).trans rfl

end Entries

end Sys2Proof.Machine

/-! PROOFS. O38: loads, replacements and their abort. -/

namespace Sys2Proof.Machine

/-! ## Base requests -/

section Requests

variable {s t : State} {fn op : Nat} {m : MboxMsg} {cmd : Instr} {run : State → MboxMsg → State}

theorem baseBytes_status (s : State) (tag failed : Nat) (digest : List Byte) {st : Status} (h : st < 2 ^ 16) :
    field (baseBytes s tag st failed digest) 4 2 = st := by
  unfold baseBytes
  simp only [List.append_assoc]
  exact field_append_toLe _ _ 4 2 st (length_toLe ..) h

/-- A base request that runs: its message is taken. -/
theorem base_runs (hcmd : exec cmd s = .next (onMessage s fn 5 op run)) (hat : AtHead s fn m 5 op) (hrun : run (popMessage s fn m) m = t)
    (ht : InboxKept (popMessage s fn m) t) : exec cmd s = .next t ∧ Consumed s t fn m := by
  obtain ⟨-, hin, -⟩ := id hat
  have hconsumed := consumed_of_kept hin ht
  have he := onMessage_of_atHead s fn 5 op m run hat (by rw [hrun]; exact hconsumed.1)
  exact ⟨hcmd.trans (congrArg _ (he.trans hrun)), hconsumed⟩

/-- A base request refused changes nothing but its mailbox. -/
theorem base_refused {st : Status} {digest : List Byte} (hcmd : exec cmd s = .next (onMessage s fn 5 op run)) (hat : AtHead s fn m 5 op)
    (hrun : run (popMessage s fn m) m = refuseBase (popMessage s fn m) fn m st digest) (hst : st < 2 ^ 16) :
    Runs cmd s fun t => Answered s t fn m st ∧ t = { s with mbx := t.mbx } := by
  obtain ⟨-, hin, hcls, -⟩ := id hat
  obtain ⟨hexec, hconsumed⟩ := base_runs hcmd hat hrun (respond_inboxKept ..)
  have hall : Only [.mbx] s (refuseBase (popMessage s fn m) fn m st digest) := .mono (by rfl) <| (popMessage_only ..).trans (refuseBase_only ..)
  refine ⟨_, hexec, ⟨hconsumed,
    ⟨5, m.seq, baseBytes (popMessage s fn m) (messageTag 5 m.bytes) st (field m.bytes 8 8) digest⟩, ?_, hcls.symm, rfl, baseBytes_status _ _ _ _ hst⟩, hall.eq_overlay⟩
  unfold refuseBase respond
  rw [mboxAt_updMbox_self, popMessage_box hin]

end Requests

/-! ## The checks -/

section Checks

variable {s : State} {part : Nat} {keeps : Bool} {head : List Byte} {len : Nat}

theorem loadStatus_lt (s : State) (part : Nat) (keeps : Bool) (head : List Byte) (len : Nat) : loadStatus s part keeps head len < 2 ^ 16 := by
  unfold loadStatus
  split
  · decide
  split
  · decide
  split
  · decide
  split
  · decide
  split
  · decide
  split <;> decide

theorem replaceStatus_lt (s : State) (part : Nat) (keeps : Bool) (head : List Byte) (len : Nat) : replaceStatus s part keeps head len < 2 ^ 16 := by
  unfold replaceStatus
  extract_lets ts
  split
  · decide
  split
  · decide
  split
  · decide
  split
  · decide
  split
  · decide
  split <;> decide

/-- An `if` of statuses that gives 0 took no refusal. -/
theorem of_ite_eq_zero {c : Prop} [Decidable c] {a b : Status} (ha : a ≠ 0) (h : (if c then a else b) = 0) : ¬ c ∧ b = 0 := by
  split at h
  · exact absurd h ha
  · exact ⟨‹_›, h⟩

theorem baseHeadOk_of_load (h : loadStatus s part keeps head len = 0) : baseHeadOk head len = true := by
  unfold loadStatus at h
  obtain ⟨-, h⟩ := of_ite_eq_zero (by decide) h
  obtain ⟨-, h⟩ := of_ite_eq_zero (by decide) h
  obtain ⟨-, h⟩ := of_ite_eq_zero (by decide) h
  obtain ⟨hok, -⟩ := of_ite_eq_zero (by decide) h
  simpa using hok

theorem baseHeadOk_of_replace (h : replaceStatus s part keeps head len = 0) : baseHeadOk head len = true := by
  unfold replaceStatus at h
  extract_lets ts at h
  obtain ⟨-, h⟩ := of_ite_eq_zero (by decide) h
  obtain ⟨-, h⟩ := of_ite_eq_zero (by decide) h
  obtain ⟨-, h⟩ := of_ite_eq_zero (by decide) h
  obtain ⟨-, h⟩ := of_ite_eq_zero (by decide) h
  obtain ⟨hok, -⟩ := of_ite_eq_zero (by decide) h
  simpa using hok

/-- A well-formed image has a first tensor. -/
theorem readTensors_first (h : baseHeadOk head len = true) : ∃ x, (readTensors head)[0]? = some x := by
  have hsome : 1 ≤ hTensors head := by
    unfold baseHeadOk at h
    simp only [Bool.and_eq_true, decide_eq_true_eq] at h
    omega
  have hlen : 0 < (readTensors head).length := by
    unfold readTensors
    rw [List.length_map, List.length_range]
    omega
  exact ⟨_, List.getElem?_eq_getElem hlen⟩

end Checks

/-! ## A load -/

section Load

variable {s : State} {fn part : Nat} {m : MboxMsg} {b : BaseJob} {head : List Byte}

/-- The read of a base job's next tensor. -/
theorem readNext_read {x : Tensor} (h : b.tensors[b.next]? = some x) : FMap.get? (readNext s part b).host.reads s.host.nextRead
    = some { use := .baseTensor part, fn := b.fn, addr := b.hostAddr + x.offset, len := x.bytes } := by
  unfold readNext
  rw [h]
  exact FMap.get?_set_self ..

theorem beginLoad_inboxKept (s : State) (part : Nat) (b : BaseJob) : InboxKept s (beginLoad s part b) := by
  unfold beginLoad
  extract_lets s1
  have h1 : InboxKept s s1 := by
    unfold s1
    split
    · exact (freeBase_inboxKept ..).trans ((InboxKept.of_only (noBase_only ..) (by decide)).trans
        ((InboxKept.of_only (setBaseState_only ..) (by decide)).trans (.of_only (chargeBase_only ..) (by decide))))
    · exact .refl s
  exact h1.trans (.of_only (updPart_only ..) (by decide))

theorem beginLoad_job (s : State) (part : Nat) (b : BaseJob) : baseJobAt (beginLoad s part b) part = some b := by
  unfold beginLoad baseJobAt
  rw [partAt_updPart_self]

/-- A load of a base that this module keeps: its entries, and the resident base freed. -/
theorem beginLoad_keeps (s : State) (part : Nat) (h : b.keeps = true) : dnum (beginLoad s part b) (0x5600 + part) 1 = 1
    ∧ (partAt (beginLoad s part b) part).tensors = [] ∧ dblob (beginLoad s part b) (0x5600 + part) 2 = zeros 48 := by
  unfold beginLoad
  extract_lets s1
  have hs1 : s1 = chargeBase (setBaseState (noBase (freeBase s part) part 0) part 1) part (baseCharge b.tensors) 0 := if_pos h
  clear_value s1
  subst hs1
  refine ⟨?_, ?_, ?_⟩
  · refine ((updPart_only ..).dnum (by decide) _ _).trans ?_
    refine KeyKept.dnum (s := setBaseState (noBase (freeBase s part) part 0) part 1) (.dset _ _ _ _ (by unfold dkey; omega)) |>.trans ?_
    exact dnum_dset_self ..
  · rw [partAt_updPart_self]
    have h1 : Only [.dict] (freeBase s part) (chargeBase (setBaseState (noBase (freeBase s part) part 0) part 1) part (baseCharge b.tensors) 0) :=
      .mono (by rfl) <| (noBase_only ..).trans ((setBaseState_only ..).trans (chargeBase_only ..))
    rw [h1.partAt (by decide)]
    exact congrArg (fun x => x.1) (freeBase_part s part)
  · have h1 : KeyKept (dkey (0x5600 + part) 2) (noBase (freeBase s part) part 0)
        (chargeBase (setBaseState (noBase (freeBase s part) part 0) part 1) part (baseCharge b.tensors) 0) :=
      (KeyKept.dset _ _ _ _ (by unfold dkey; omega)).trans (.dset _ _ _ _ (by unfold dkey; omega))
    refine (congrArg DVal.bytes (show dget _ _ = dget _ _ from (updPart_only ..).dget (by decide) _)).trans ?_
    exact (congrArg DVal.bytes h1).trans (noBase_digest ..)

theorem beginLoad_host (s : State) (part : Nat) (b : BaseJob) : (beginLoad s part b).host = s.host := (beginLoad_only ..).same .host (by decide)

theorem loadBase_ok (hok : baseMessageOk m.bytes = true)
    (h : loadStatus s (bPart m.bytes) (bit (field m.bytes 8 1) 0) head (field m.bytes 24 8) = 0) :
    loadBase s fn m head = readNext (beginLoad s (bPart m.bytes) (baseJobOf fn m head false (readTensors head))) (bPart m.bytes)
      (baseJobOf fn m head false (readTensors head)) :=
  (if_neg (by rw [hok]; decide)).trans (if_neg (not_not.mpr h))

theorem loadBase_refused (hok : baseMessageOk m.bytes = true)
    (h : loadStatus s (bPart m.bytes) (bit (field m.bytes 8 1) 0) head (field m.bytes 24 8) ≠ 0) :
    loadBase s fn m head = refuseBase s fn m (loadStatus s (bPart m.bytes) (bit (field m.bytes 8 1) 0) head (field m.bytes 24 8))
      (if head.isEmpty then [] else headDigest head) :=
  (if_neg (by rw [hok]; decide)).trans (if_pos h)

theorem loadBase_badMessage (hok : baseMessageOk m.bytes = false) : loadBase s fn m head = refuseBase s fn m 0x0301 [] :=
  if_pos (by rw [hok]; decide)

theorem replaceBase_badMessage (hok : baseMessageOk m.bytes = false) : replaceBase s fn m head = refuseBase s fn m 0x0301 [] :=
  if_pos (by rw [hok]; decide)

theorem replaceBase_refused (hok : baseMessageOk m.bytes = true)
    (h : replaceStatus s (bPart m.bytes) (bit (field m.bytes 8 1) 0) head (field m.bytes 24 8) ≠ 0) :
    replaceBase s fn m head = refuseBase s fn m (replaceStatus s (bPart m.bytes) (bit (field m.bytes 8 1) 0) head (field m.bytes 24 8))
      (if head.isEmpty then [] else headDigest head) :=
  (if_neg (by rw [hok]; decide)).trans (if_pos h)

/-- A replacement that this module keeps. -/
theorem replaceBase_keeps (hok : baseMessageOk m.bytes = true)
    (h : replaceStatus s (bPart m.bytes) (bit (field m.bytes 8 1) 0) head (field m.bytes 24 8) = 0) (hkeeps : bit (field m.bytes 8 1) 0 = true) :
    replaceBase s fn m head = beginReplace s (bPart m.bytes)
      (baseJobOf fn m head true (withIndices s (bPart m.bytes) (readTensors head))) :=
  (if_neg (by rw [hok]; decide)).trans ((if_neg (not_not.mpr h)).trans (if_pos hkeeps))

/-- A replacement that this module only reads and forwards. -/
theorem replaceBase_forwards (hok : baseMessageOk m.bytes = true)
    (h : replaceStatus s (bPart m.bytes) (bit (field m.bytes 8 1) 0) head (field m.bytes 24 8) = 0) (hkeeps : bit (field m.bytes 8 1) 0 = false) :
    replaceBase s fn m head = readNext (beginLoad s (bPart m.bytes) (baseJobOf fn m head false (readTensors head))) (bPart m.bytes)
      (baseJobOf fn m head false (readTensors head)) :=
  (if_neg (by rw [hok]; decide)).trans ((if_neg (not_not.mpr h)).trans (if_neg (by rw [hkeeps]; decide)))

/-- A base load, or a replacement that is only forwarded, has begun. -/
theorem load_begun (hhead : ∃ x, (readTensors head)[0]? = some x) {t : State}
    (ht : t = readNext (beginLoad (popMessage s fn m) (bPart m.bytes) (baseJobOf fn m head false (readTensors head))) (bPart m.bytes)
      (baseJobOf fn m head false (readTensors head))) :
    InboxKept (popMessage s fn m) t
      ∧ baseJobAt t (bPart m.bytes) = some (baseJobOf fn m head false (readTensors head))
      ∧ (∃ x, (readTensors head)[0]? = some x ∧ FMap.get? t.host.reads s.host.nextRead
        = some { use := .baseTensor (bPart m.bytes), fn := fn, addr := field m.bytes 16 8 + x.offset, len := x.bytes })
      ∧ (bit (field m.bytes 8 1) 0 = true → dnum t (0x5600 + bPart m.bytes) 1 = 1 ∧ (partAt t (bPart m.bytes)).tensors = []
        ∧ dblob t (0x5600 + bPart m.bytes) 2 = zeros 48) := by
  subst ht
  have hread := readNext_only (beginLoad (popMessage s fn m) (bPart m.bytes) (baseJobOf fn m head false (readTensors head))) (bPart m.bytes)
    (baseJobOf fn m head false (readTensors head))
  obtain ⟨x, hx⟩ := hhead
  refine ⟨(beginLoad_inboxKept ..).trans (.of_only hread (by decide)), ?_, ⟨x, hx, ?_⟩, fun hkeeps => ?_⟩
  · unfold baseJobAt
    rw [hread.partAt (by decide)]
    exact beginLoad_job ..
  · have h := readNext_read (s := beginLoad (popMessage s fn m) (bPart m.bytes) (baseJobOf fn m head false (readTensors head)))
      (part := bPart m.bytes) (b := baseJobOf fn m head false (readTensors head)) hx
    rw [beginLoad_host] at h
    exact h
  · obtain ⟨hstate, htensors, hdigest⟩ := beginLoad_keeps (b := baseJobOf fn m head false (readTensors head)) (popMessage s fn m) (bPart m.bytes) hkeeps
    rw [hread.dnum (by decide), hread.partAt (by decide)]
    refine ⟨hstate, htensors, ?_⟩
    refine Eq.trans ?_ hdigest
    exact congrArg DVal.bytes (hread.dget (by decide) _)

end Load

end Sys2Proof.Machine

/-! PROOFS. O38: replacements that open, abort, swap their layers and end. -/

namespace Sys2Proof.Machine

/-! ## A replacement opens, and is aborted -/

section Replace

variable {s : State} {fn part : Nat} {m : MboxMsg} {b : BaseJob}

theorem beginReplace_law (s : State) (part : Nat) (b : BaseJob) :
    baseJobAt (beginReplace s part b) part = some { b with swapped := dnum s (0x5600 + part) 4 }
      ∧ (partAt (beginReplace s part b) part).incoming = handlesOf s part b.tensors 1
      ∧ dnum (beginReplace s part b) (0x5600 + part) 1 = 3 ∧ dblob (beginReplace s part b) (0x5600 + part) 3 = b.digest
      ∧ dnum (beginReplace s part b) (0x5600 + part) 4 = 0 := by
  unfold beginReplace
  extract_lets b' incoming s1
  have hupd (i j : Nat) := (updPart_only s1 part fun p => { p with baseJob := some b', incoming }).dget (by decide) (dkey i j)
  refine ⟨?_, ?_, ?_, ?_, ?_⟩
  · unfold baseJobAt
    rw [partAt_updPart_self]
  · rw [partAt_updPart_self]
  · refine (congrArg DVal.toNat (hupd _ _)).trans ?_
    have h : KeyKept (dkey (0x5600 + part) 1) (setBaseState s part 3) s1 :=
      KeyKept.trans (dget_dput_other _ _ _ _ (by unfold dkey; omega)) (.dset _ _ _ _ (by unfold dkey; omega))
    exact h.dnum.trans (dnum_dset_self ..)
  · refine (congrArg DVal.bytes (hupd _ _)).trans ?_
    have h : KeyKept (dkey (0x5600 + part) 3) (dsetB (setBaseState s part 3) (0x5600 + part) 3 b'.digest) s1 := .dset _ _ _ _ (by unfold dkey; omega)
    exact (congrArg DVal.bytes h).trans (dblob_dsetB_self ..)
  · exact (congrArg DVal.toNat (hupd _ _)).trans (congrArg DVal.toNat (dget_dset_self ..))

/-- The state of a partition whose replacement has been aborted. -/
def replaceAborted (s : State) (part : Nat) (b : BaseJob) : State :=
  dset (dsetB (setBaseState (updPart s part fun p => { p with baseJob := none, incoming := [] }) part 2) (0x5600 + part) 3 (zeros 48))
    (0x5600 + part) 4 b.swapped

theorem abortReplace_absent (hpart : bPart m.bytes < 32)
    (h : ((baseJobAt s (bPart m.bytes)).filter fun b => b.replace && b.next = 0 && b.swapping.isNone) = none) :
    abortReplace s fn m = refuseBase s fn m 0x0619 [] := by
  unfold abortReplace
  extract_lets part
  rw [if_neg (Nat.not_le.mpr hpart)]
  simp only [part, h]

/-- The answer to a replacement that an abort ends. -/
def abortAnswered (s : State) (part : Nat) (b : BaseJob) : State :=
  answerBase { replaceAborted s part b with fresh := (replaceAborted s part b).fresh + 1 } part b (unnamedRefusal (replaceAborted s part b))

theorem abortReplace_open (hpart : bPart m.bytes < 32) (hb : baseJobAt s (bPart m.bytes) = some b) (hreplace : b.replace = true)
    (hnext : b.next = 0) (hswapping : b.swapping = none) :
    abortReplace s fn m = respond (abortAnswered s (bPart m.bytes) b) fn 5 m.seq
      (baseBytes (abortAnswered s (bPart m.bytes) b) (messageTag 5 m.bytes) 0 0 b.digest) := by
  have hsome : ((baseJobAt s (bPart m.bytes)).filter fun b => b.replace && b.next = 0 && b.swapping.isNone) = some b := by
    rw [hb]
    exact Option.filter_some_pos (by rw [hreplace, hnext, hswapping]; rfl)
  unfold abortReplace
  extract_lets part
  rw [if_neg (Nat.not_le.mpr hpart)]
  simp only [part, hsome]
  rfl

theorem answerBase_inboxKept (s : State) (part : Nat) (b : BaseJob) (st : Status) : InboxKept s (answerBase s part b st) := by
  unfold answerBase
  split
  · split
    · exact .refl s
    · exact .of_only (reportBase_only ..) (by decide)
  · split
    exact (InboxKept.of_only (setFresh_only s (s.fresh + 2)) (by decide)).trans (respond_inboxKept ..)

theorem replaceAborted_law (s : State) (part : Nat) (b : BaseJob) : baseJobAt (replaceAborted s part b) part = none
    ∧ dnum (replaceAborted s part b) (0x5600 + part) 1 = 2 ∧ dblob (replaceAborted s part b) (0x5600 + part) 3 = zeros 48
    ∧ dnum (replaceAborted s part b) (0x5600 + part) 4 = b.swapped ∧ (partAt (replaceAborted s part b) part).incoming = []
    ∧ (partAt (replaceAborted s part b) part).tensors = (partAt s part).tensors := by
  generalize hu : updPart s part (fun p => { p with baseJob := none, incoming := [] }) = u
  have hpart : partAt (replaceAborted s part b) part = { partAt s part with baseJob := none, incoming := [] } := by
    have h : Only [.dict] u (replaceAborted s part b) := by
      unfold replaceAborted
      rw [hu]
      exact .mono (by rfl) <| (setBaseState_only ..).trans ((dsetB_only ..).trans (dset_only ..))
    rw [h.partAt (by decide), ← hu, partAt_updPart_self]
  refine ⟨congrArg Part.baseJob hpart, ?_, ?_, dnum_dset_self .., (congrArg Part.incoming hpart).trans rfl, (congrArg Part.tensors hpart).trans rfl⟩
  · unfold replaceAborted
    rw [hu]
    have h : KeyKept (dkey (0x5600 + part) 1) (setBaseState u part 2) (dset (dsetB (setBaseState u part 2) (0x5600 + part) 3 (zeros 48))
        (0x5600 + part) 4 b.swapped) := KeyKept.trans (dget_dput_other _ _ _ _ (by unfold dkey; omega)) (.dset _ _ _ _ (by unfold dkey; omega))
    exact h.dnum.trans (dnum_dset_self ..)
  · unfold replaceAborted
    rw [hu]
    have h : KeyKept (dkey (0x5600 + part) 3) (dsetB (setBaseState u part 2) (0x5600 + part) 3 (zeros 48))
        (dset (dsetB (setBaseState u part 2) (0x5600 + part) 3 (zeros 48)) (0x5600 + part) 4 b.swapped) := .dset _ _ _ _ (by unfold dkey; omega)
    exact (congrArg DVal.bytes h).trans (dblob_dsetB_self ..)

end Replace

/-! ## Layers (R188) -/

section Layers

variable {s : State} {part : Nat} {b : BaseJob} {x : Tensor}

theorem bufKey_injective {part i j : Nat} (h : bufKey part i = bufKey part j) : i = j := by
  unfold bufKey at h
  omega

theorem turnLayer_cons (s : State) (part : Nat) (t : Tensor) (ts : List Tensor) : ∃ u,
    turnLayer s part (t :: ts) = turnLayer u part ts
      ∧ u.bufs = FMap.modify s.bufs (bufKey part t.index) fun b => { b with gen := b.gen + 1 } := ⟨_, rfl, rfl⟩

theorem turnLayer_other {k : Nat} (s : State) (part : Nat) (ts : List Tensor) (h : ∀ y ∈ ts, k ≠ bufKey part y.index) :
    FMap.get? (turnLayer s part ts).bufs k = FMap.get? s.bufs k := by
  induction ts generalizing s with
  | nil => rfl
  | cons t ts ih =>
    obtain ⟨u, hu, hbufs⟩ := turnLayer_cons s part t ts
    rw [hu, ih u fun y hy => h y (List.mem_cons_of_mem _ hy), hbufs, FMap.get?_modify, if_neg (h t List.mem_cons_self)]

theorem turnLayer_gen {y : Tensor} (s : State) (part : Nat) (ts : List Tensor) (hnodup : (ts.map Tensor.index).Nodup) (hy : y ∈ ts) :
    (FMap.get? (turnLayer s part ts).bufs (bufKey part y.index)).map Buf.gen
      = (FMap.get? s.bufs (bufKey part y.index)).map fun v => v.gen + 1 := by
  induction ts generalizing s with
  | nil => exact absurd hy List.not_mem_nil
  | cons t ts ih =>
    obtain ⟨hfresh, hnodup⟩ := List.nodup_cons.mp hnodup
    have hne (z : Tensor) (hz : z ∈ ts) : bufKey part t.index ≠ bufKey part z.index := fun h =>
      hfresh (List.mem_map.mpr ⟨z, hz, (bufKey_injective h).symm⟩)
    obtain ⟨u, hu, hbufs⟩ := turnLayer_cons s part t ts
    rw [hu]
    rcases List.mem_cons.mp hy with rfl | hy
    · rw [turnLayer_other u part ts hne, hbufs, FMap.get?_modify, if_pos rfl, Option.map_map]
      rfl
    · rw [ih u hnodup hy, hbufs, FMap.get?_modify, if_neg (hne y hy).symm]

/-- A layer's bytes written: other buffers stay, and so do generations. -/
theorem writeTensors_law (s : State) (part : Nat) (l : List (Tensor × List Byte)) (k : Nat) :
    ((∀ p ∈ l, k ≠ bufKey part p.1.index) → FMap.get? (l.foldl (fun s p => writeTensor s part p.1 p.2) s).bufs k = FMap.get? s.bufs k)
      ∧ (FMap.get? (l.foldl (fun s p => writeTensor s part p.1 p.2) s).bufs k).map Buf.gen = (FMap.get? s.bufs k).map Buf.gen := by
  induction l generalizing s with
  | nil => exact ⟨fun _ => rfl, rfl⟩
  | cons p l ih =>
    obtain ⟨hother, hgen⟩ := ih (writeTensor s part p.1 p.2)
    have hget : FMap.get? (writeTensor s part p.1 p.2).bufs k
        = if k = bufKey part p.1.index then (FMap.get? s.bufs k).map fun b => { b with data := Mem.write [] 0 p.2 } else FMap.get? s.bufs k :=
      FMap.get?_modify s.bufs (bufKey part p.1.index) k fun b => { b with data := Mem.write [] 0 p.2 }
    refine ⟨fun h => ?_, ?_⟩
    · refine (hother fun q hq => h q (List.mem_cons_of_mem _ hq)).trans ?_
      rw [hget, if_neg (h p List.mem_cons_self)]
    · refine hgen.trans ?_
      rw [hget]
      split
      · rw [Option.map_map]
        rfl
      · rfl

/-- The generations of a layer's buffers have turned, and no other buffer has. -/
def LayerTurned (s : State) (part : Nat) (ts : List Tensor) (t : State) : Prop :=
  ∀ k, ((∀ y ∈ ts, k ≠ bufKey part y.index) → FMap.get? t.bufs k = FMap.get? s.bufs k)
    ∧ ((ts.map Tensor.index).Nodup → ∀ y ∈ ts, k = bufKey part y.index →
        (FMap.get? t.bufs k).map Buf.gen = (FMap.get? s.bufs k).map fun v => v.gen + 1)

theorem turnLayer_turned (s : State) (part : Nat) (ts : List Tensor) : LayerTurned s part ts (turnLayer s part ts) :=
  fun _ => ⟨turnLayer_other s part ts, fun hnodup _ hy hk => hk ▸ turnLayer_gen s part ts hnodup hy⟩

theorem LayerTurned.of_bufs {ts : List Tensor} {t u : State} (h : LayerTurned s part ts t) (hb : u.bufs = t.bufs) : LayerTurned s part ts u := by
  unfold LayerTurned
  rw [hb]
  exact h

theorem writeTensors_turned (s : State) (part : Nat) (ts : List Tensor) (data : List (List Byte)) :
    LayerTurned s part ts ((ts.zip data).foldl (fun s p => writeTensor s part p.1 p.2) (turnLayer s part ts)) := by
  intro k
  obtain ⟨hother, hgen⟩ := writeTensors_law (turnLayer s part ts) part (ts.zip data) k
  obtain ⟨hturn, hturnGen⟩ := turnLayer_turned s part ts k
  exact ⟨fun h => (hother fun p hp => h p.1 (List.of_mem_zip hp).1).trans (hturn h), fun hnodup y hy hk => hgen.trans (hturnGen hnodup y hy hk)⟩

theorem layerSwap_idle (h : ((baseJobAt s part).all fun b => !b.replace || b.swapping.isSome || decide (b.tensors.length ≤ b.next)) = true) :
    layerSwap s part = s := by
  unfold layerSwap
  cases hb : baseJobAt s part with
  | none => rfl
  | some b =>
    rw [hb, Option.all_some, Bool.or_eq_true, Bool.or_eq_true, decide_eq_true_iff] at h
    dsimp only
    split
    · rfl
    · next t ht =>
      have hlt : ¬ b.tensors.length ≤ b.next := Nat.not_le.mpr (List.getElem?_eq_some_iff.mp ht).1
      refine if_pos ?_
      rw [Bool.or_eq_true, Bool.or_eq_true]
      exact .inl (by simpa using h.resolve_right hlt)

/-- A layer whose swap is next. -/
theorem layerSwap_next (hb : baseJobAt s part = some b) (hx : b.tensors[b.next]? = some x) (hreplace : b.replace = true) (hswapping : b.swapping = none) :
    layerSwap s part = if layerHeld s part b x.layer = true then s
      else if b.member then
        if b.loaded.length < b.next + (layerTensors b x.layer).length then s
        else releaseLayer (updBaseJob (((layerTensors b x.layer).zip (b.loaded.drop b.next)).foldl (fun s p => writeTensor s part p.1 p.2)
          (turnLayer s part (layerTensors b x.layer))) part fun b' => { b' with next := b'.next + (layerTensors b x.layer).length }) part
      else readNext (updBaseJob (turnLayer s part (layerTensors b x.layer)) part fun b => { b with swapping := some x.layer }) part b := by
  unfold layerSwap
  simp only [hb, hx]
  rw [hreplace, hswapping]
  cases layerHeld s part b x.layer with
  | true => rfl
  | false => rfl

theorem updBaseJob_job (s : State) {part : Nat} {b : BaseJob} (f : BaseJob → BaseJob) {t : State} (hb : baseJobAt s part = some b)
    (ht : BasesKept s t) : baseJobAt (updBaseJob t part f) part = some (f b) := by
  rw [partAt_updBaseJob, ht.baseJobAt, hb]
  rfl

/-- The swap of a layer begins on the head. -/
theorem layerSwap_head (hb : baseJobAt s part = some b) (hx : b.tensors[b.next]? = some x) (hreplace : b.replace = true) (hswapping : b.swapping = none)
    (hheld : layerHeld s part b x.layer = false) (hmember : b.member = false) :
    Runs (.layerSwap part) s fun t => t = { s with bufs := t.bufs, index := t.index, parts := t.parts, host := t.host }
      ∧ LayerTurned s part (layerTensors b x.layer) t
      ∧ baseJobAt t part = some { b with swapping := some x.layer }
      ∧ FMap.get? t.host.reads s.host.nextRead
        = some { use := .baseTensor part, fn := b.fn, addr := b.hostAddr + x.offset, len := x.bytes } := by
  have hrun := layerSwap_next hb hx hreplace hswapping
  rw [if_neg (by rw [hheld]; decide), if_neg (by rw [hmember]; decide)] at hrun
  have hturn := turnLayer_only s part (layerTensors b x.layer)
  have hupd := updBaseJob_only (turnLayer s part (layerTensors b x.layer)) part fun b => { b with swapping := some x.layer }
  have hread := readNext_only (updBaseJob (turnLayer s part (layerTensors b x.layer)) part fun b => { b with swapping := some x.layer }) part b
  have hall : Only [.bufs, .index, .parts, .host] s (layerSwap s part) := hrun ▸ .mono (by rfl) (hturn.trans (hupd.trans hread))
  refine ⟨_, rfl, hall.eq_overlay, ?_, ?_, ?_⟩
  · rw [hrun]
    exact (turnLayer_turned s part _).of_bufs ((hread.same .bufs (by decide)).trans (hupd.same .bufs (by decide)))
  · rw [hrun]
    unfold baseJobAt
    rw [hread.partAt (by decide)]
    exact updBaseJob_job s _ hb (.of_only hturn (by decide))
  · rw [hrun]
    have hr := readNext_read (s := updBaseJob (turnLayer s part (layerTensors b x.layer)) part fun b => { b with swapping := some x.layer })
      (part := part) hx
    rw [hupd.same .host (by decide), hturn.same .host (by decide)] at hr
    exact hr

/-- The swap of a layer on a member that has it whole. -/
theorem layerSwap_member (hb : baseJobAt s part = some b) (hx : b.tensors[b.next]? = some x) (hreplace : b.replace = true) (hswapping : b.swapping = none)
    (hheld : layerHeld s part b x.layer = false) (hmember : b.member = true) (hwhole : b.next + (layerTensors b x.layer).length ≤ b.loaded.length) :
    Runs (.layerSwap part) s fun t => t = { s with bufs := t.bufs, index := t.index, parts := t.parts, dict := t.dict }
      ∧ LayerTurned s part (layerTensors b x.layer) t
      ∧ baseJobAt t part = some { b with next := b.next + (layerTensors b x.layer).length } ∧ Counted s t (0x5600 + part) 4 1 := by
  have hrun := layerSwap_next hb hx hreplace hswapping
  rw [if_neg (by rw [hheld]; decide), if_pos hmember, if_neg (Nat.not_lt.mpr hwhole)] at hrun
  have hturned := writeTensors_turned s part (layerTensors b x.layer) (b.loaded.drop b.next)
  have hwrite : Only [.bufs, .index] s (((layerTensors b x.layer).zip (b.loaded.drop b.next)).foldl (fun s p => writeTensor s part p.1 p.2)
      (turnLayer s part (layerTensors b x.layer))) :=
    .mono (by rfl) <| (turnLayer_only ..).trans (.foldl (fun _ _ => writeTensor_only ..) _ _)
  generalize ((layerTensors b x.layer).zip (b.loaded.drop b.next)).foldl (fun s p => writeTensor s part p.1 p.2)
    (turnLayer s part (layerTensors b x.layer)) = u at hrun hturned hwrite
  have hupd := updBaseJob_only u part fun b' => { b' with next := b'.next + (layerTensors b x.layer).length }
  generalize hv : (updBaseJob u part fun b' => { b' with next := b'.next + (layerTensors b x.layer).length }) = v at hrun hupd
  have hrelease := releaseLayer_only v part
  have hall : Only [.bufs, .index, .parts, .dict] s (layerSwap s part) := hrun ▸ .mono (by rfl) (hwrite.trans (hupd.trans hrelease))
  refine ⟨_, rfl, hall.eq_overlay, ?_, ?_, ?_⟩
  · rw [hrun]
    exact hturned.of_bufs ((hrelease.same .bufs (by decide)).trans (hupd.same .bufs (by decide)))
  · have hjob : baseJobAt v part = some { b with next := b.next + (layerTensors b x.layer).length } :=
      hv ▸ updBaseJob_job s _ hb (.of_only hwrite (by decide))
    rw [hrun]
    unfold releaseLayer baseJobAt
    rw [(bump_only ..).partAt (by decide)]
    refine (updBaseJob_job v _ hjob (.refl v)).trans ?_
    rw [← hswapping]
  · rw [hrun]
    unfold releaseLayer Counted
    rw [dnum_bump_self, (updBaseJob_only ..).dnum (by decide), hupd.dnum (by decide), hwrite.dnum (by decide)]

end Layers

end Sys2Proof.Machine

/-! PROOFS. O38: the final swap, and the tiles that arrive. -/

namespace Sys2Proof.Machine

/-! ## The answer of a base job -/

section BaseAnswer

variable {s : State} {part : Nat} {b : BaseJob}

/-- A job of the head answers its request once. -/
theorem answerBase_held (s : State) (part : Nat) {b : BaseJob} (hmember : b.member = false) :
    ∃ r, (mboxAt (answerBase s part b 0) b.fn).held = (mboxAt s b.fn).held ++ [r] ∧ r.cls = 5 ∧ r.seq = b.seq
      ∧ (setBit b.members.toNat 0 false = 0 → field r.bytes 4 2 = 0) := by
  have he : answerBase s part b 0 = respond { s with fresh := s.fresh + 2 } b.fn 5 b.seq
      (baseBytes { s with fresh := s.fresh + 2 } b.tag (memberReport s b 0).1 (memberReport s b 0).2 b.digest) := by
    unfold answerBase
    rw [if_neg (by rw [hmember]; decide)]
  rw [he]
  refine ⟨⟨5, b.seq, baseBytes { s with fresh := s.fresh + 2 } b.tag (memberReport s b 0).1 (memberReport s b 0).2 b.digest⟩, ?_, rfl, rfl, fun hothers => ?_⟩
  · unfold respond
    rw [mboxAt_updMbox_self]
    rfl
  · have hcode : (memberReport s b 0).1 = 0 := by
      unfold memberReport
      extract_lets others all failed mine
      have hfailed : failed = 0 := if_pos hothers
      dsimp only
      rw [hfailed]
      rfl
    rw [hcode]
    exact baseBytes_status _ _ _ _ (by decide)

theorem baseGen_bumpBaseGen (s : State) (part : Nat) : baseGen (bumpBaseGen s part) part = (baseGen s part + 1) % 2 ^ 32 :=
  dnum_dset_self ..

/-- A context of an earlier base of the partition is invalid. -/
theorem bumpBaseGen_invalid {c : Nat} {x : Ctx} (hx : FMap.get? s.ctxs c = some x) (hpart : x.part = part)
    (hgen : x.baseGen ≠ (baseGen s part + 1) % 2 ^ 32) : (FMap.get? (bumpBaseGen s part).ctxs c).map Ctx.invalid = some true := by
  unfold bumpBaseGen
  extract_lets gen s1
  have hx1 : FMap.get? s1.ctxs c = some x := hx
  dsimp only
  rw [FMap.get?_mapVal, hx1, Option.map_some, Option.map_some, if_pos (by rw [hpart, decide_eq_true rfl, decide_eq_true hgen]; rfl)]

end BaseAnswer

/-! ## The final swap (R189) -/

section Final

variable {s : State} {part : Nat} {b : BaseJob}

theorem finalSwap_idle (h : ((baseJobAt s part).all fun b => !b.replace || b.swapping.isSome || decide (b.next < b.tensors.length)) = true) :
    finalSwap s part = s := by
  have hnone : ((baseJobAt s part).filter fun b => b.replace && b.swapping.isNone && b.tensors.length ≤ b.next) = none := by
    rw [Option.filter_eq_none_iff]
    intro b hb
    rw [hb, Option.all_some, Bool.or_eq_true, Bool.or_eq_true, decide_eq_true_iff] at h
    rw [Bool.and_eq_true, Bool.and_eq_true, decide_eq_true_iff]
    rintro ⟨⟨hreplace, hswapping⟩, hlen⟩
    rw [hreplace, ← Option.not_isNone, hswapping] at h
    exact absurd (h.resolve_left (by decide)) (Nat.not_lt.mpr hlen)
  unfold finalSwap
  rw [hnone]

/-- The entries of the partition's base: resident, with its digest. -/
def residentEntries (s : State) (part : Nat) (digest : List Byte) : State := dsetB (setBaseState s part 2) (0x5600 + part) 2 digest

theorem residentEntries_only (s : State) (part : Nat) (digest : List Byte) : Only [.dict] s (residentEntries s part digest) :=
  .mono (by rfl) <| (setBaseState_only ..).trans (dsetB_only ..)

theorem residentEntries_state (s : State) (part : Nat) (digest : List Byte) : dnum (residentEntries s part digest) (0x5600 + part) 1 = 2 :=
  (KeyKept.dnum (dget_dput_other _ _ _ _ (by unfold dkey; omega))).trans (dnum_dset_self ..)

theorem residentEntries_digest (s : State) (part : Nat) (digest : List Byte) : dblob (residentEntries s part digest) (0x5600 + part) 2 = digest :=
  dblob_dsetB_self ..

/-- The incoming base has become the resident one. -/
def baseSwapped (s : State) (part : Nat) (b : BaseJob) : State :=
  dsetB (residentEntries (updPart s part fun p => { p with baseJob := none, tensors := b.tensors, baseHandles := p.incoming, incoming := [] }) part b.digest)
    (0x5600 + part) 3 (zeros 48)

theorem baseSwapped_only (s : State) (part : Nat) (b : BaseJob) : Only [.parts, .dict] s (baseSwapped s part b) :=
  .mono (by rfl) <| (updPart_only ..).trans ((residentEntries_only ..).trans (dsetB_only ..))

theorem finalSwap_ends (hb : baseJobAt s part = some b) (hreplace : b.replace = true) (hswapping : b.swapping = none)
    (hlen : b.tensors.length ≤ b.next) : finalSwap s part = answerBase (bumpBaseGen (baseSwapped s part b) part) part b 0 := by
  have hsome : ((baseJobAt s part).filter fun b => b.replace && b.swapping.isNone && b.tensors.length ≤ b.next) = some b := by
    rw [hb]
    exact Option.filter_some_pos (by rw [hreplace, hswapping, decide_eq_true hlen]; rfl)
  unfold finalSwap
  rw [hsome]
  rfl

theorem baseSwapped_law (s : State) (part : Nat) (b : BaseJob) :
    (partAt (baseSwapped s part b) part).bases = (b.tensors, none, (partAt s part).incoming, [])
      ∧ dnum (baseSwapped s part b) (0x5600 + part) 1 = 2 ∧ dblob (baseSwapped s part b) (0x5600 + part) 2 = b.digest
      ∧ dblob (baseSwapped s part b) (0x5600 + part) 3 = zeros 48 := by
  generalize hu : (updPart s part fun p => { p with baseJob := none, tensors := b.tensors, baseHandles := p.incoming, incoming := [] }) = u
  have hswap : baseSwapped s part b = dsetB (residentEntries u part b.digest) (0x5600 + part) 3 (zeros 48) := by
    unfold baseSwapped
    rw [hu]
  have hkept (j : Nat) (hj : j < 3) : KeyKept (dkey (0x5600 + part) j) (residentEntries u part b.digest) (baseSwapped s part b) := by
    rw [hswap]
    exact dget_dput_other _ _ _ _ (by unfold dkey; omega)
  refine ⟨?_, ?_, ?_, ?_⟩
  · have h : Only [.dict] u (baseSwapped s part b) := hswap ▸ .mono (by rfl) ((residentEntries_only ..).trans (dsetB_only ..))
    rw [h.partAt (by decide), ← hu, partAt_updPart_self]
    rfl
  · exact (hkept 1 (by decide)).dnum.trans (residentEntries_state ..)
  · exact (congrArg DVal.bytes (hkept 2 (by decide))).trans (residentEntries_digest ..)
  · rw [hswap]
    exact dblob_dsetB_self ..

/-- The final barrier makes the incoming base the resident one. -/
theorem finalSwap_swapped (hb : baseJobAt s part = some b) (hreplace : b.replace = true) (hswapping : b.swapping = none)
    (hlen : b.tensors.length ≤ b.next) : Runs (.finalSwapBarrier part) s fun t => baseJobAt t part = none ∧ (partAt t part).tensors = b.tensors
      ∧ (partAt t part).baseHandles = (partAt s part).incoming ∧ (partAt t part).incoming = []
      ∧ dnum t (0x5600 + part) 1 = 2 ∧ dblob t (0x5600 + part) 2 = b.digest ∧ dblob t (0x5600 + part) 3 = zeros 48
      ∧ baseGen t part = (baseGen s part + 1) % 2 ^ 32 ∧ t.bufs = s.bufs
      ∧ (b.member = false → ∃ r, (mboxAt t b.fn).held = (mboxAt s b.fn).held ++ [r] ∧ r.cls = 5 ∧ r.seq = b.seq
          ∧ (setBit b.members.toNat 0 false = 0 → field r.bytes 4 2 = 0))
      ∧ ∀ c x, FMap.get? s.ctxs c = some x → x.part = part → x.baseGen ≠ baseGen t part →
        (FMap.get? t.ctxs c).map Ctx.invalid = some true := by
  have hrun := finalSwap_ends hb hreplace hswapping hlen
  have hanswer := answerBase_only (bumpBaseGen (baseSwapped s part b) part) part b 0
  have hbump := bumpBaseGen_only (baseSwapped s part b) part
  have hswap := baseSwapped_only s part b
  obtain ⟨hbases, hstate, hdigest, hincoming⟩ := baseSwapped_law s part b
  have hpartAt : partAt (finalSwap s part) part = partAt (baseSwapped s part b) part := by
    rw [hrun, hanswer.partAt (by decide), hbump.partAt (by decide)]
  have hkept (j : Nat) (hj : j < 256) : KeyKept (dkey (0x5600 + part) j) (baseSwapped s part b) (finalSwap s part) :=
    (bumpBaseGen_keyKept _ _ (by unfold dkey; omega)).trans (hrun ▸ KeyKept.of_only hanswer (by decide))
  have hgenSwap : baseGen (baseSwapped s part b) part = baseGen s part := by
    have h : KeyKept (dkey (0x4E00 + part) 5) (updPart s part fun p => { p with baseJob := none, tensors := b.tensors, baseHandles := p.incoming, incoming := [] })
        (baseSwapped s part b) := KeyKept.trans (KeyKept.trans (KeyKept.dset _ _ _ _ (by unfold dkey; omega)) (dget_dput_other _ _ _ _ (by unfold dkey; omega)))
          (dget_dput_other _ _ _ _ (by unfold dkey; omega))
    exact h.dnum.trans ((updPart_only ..).dnum (by decide) _ _)
  have hgen : baseGen (finalSwap s part) part = (baseGen s part + 1) % 2 ^ 32 := by
    rw [hrun]
    exact (hanswer.dnum (by decide) _ _).trans ((baseGen_bumpBaseGen ..).trans (by rw [hgenSwap]))
  refine ⟨_, rfl, ?_, ?_, ?_, ?_, ?_, ?_, ?_, hgen, ?_, fun hmember => ?_, fun c x hx hxpart hxgen => ?_⟩
  · exact (congrArg Part.baseJob hpartAt).trans (congrArg (fun x => x.2.1) hbases)
  · exact (congrArg Part.tensors hpartAt).trans (congrArg (fun x => x.1) hbases)
  · exact (congrArg Part.baseHandles hpartAt).trans (congrArg (fun x => x.2.2.1) hbases)
  · exact (congrArg Part.incoming hpartAt).trans (congrArg (fun x => x.2.2.2) hbases)
  · exact (hkept 1 (by decide)).dnum.trans hstate
  · exact (congrArg DVal.bytes (hkept 2 (by decide))).trans hdigest
  · exact (congrArg DVal.bytes (hkept 3 (by decide))).trans hincoming
  · rw [hrun, hanswer.same .bufs (by decide), hbump.same .bufs (by decide), hswap.same .bufs (by decide)]
  · obtain ⟨r, hheld, hcls, hseq, hst⟩ := answerBase_held (bumpBaseGen (baseSwapped s part b) part) part hmember
    refine ⟨r, ?_, hcls, hseq, hst⟩
    rw [hrun, hheld, hbump.mboxAt (by decide), hswap.mboxAt (by decide)]
  · rw [hgen, ← hgenSwap] at hxgen
    rw [← hswap.same .ctxs (by decide)] at hx
    rw [hrun, hanswer.same .ctxs (by decide)]
    exact bumpBaseGen_invalid hx hxpart hxgen

end Final

end Sys2Proof.Machine

/-! PROOFS. O38: the tiles of a base that arrive at a member. -/

namespace Sys2Proof.Machine

/-! ## A base packet -/

section Packet

variable {s a : State} {part tensor tile : Nat} {data : List Byte} {b : BaseJob}

/-- A base packet has been journalled and forwarded, before its module looks at it. -/
structure PacketTaken (s a : State) : Prop where
  only : Only [.dict, .tel, .pins, .hostOut, .win] s a
  key : ∀ k, k < 256 * 0x7000 → KeyKept k s a
  forwarded : a.win.forwarded = s.win.forwarded + 1
  reports : a.win.baseReports = s.win.baseReports

theorem sendFlits_reports (s : State) (cls type dest bytes deadline : Nat) :
    (sendFlits s cls type dest bytes deadline).win.forwarded = s.win.forwarded
      ∧ (sendFlits s cls type dest bytes deadline).win.baseReports = s.win.baseReports := by
  rw [sendFlits_eq]
  exact ⟨rfl, rfl⟩

theorem forwardTiles_reports (s : State) (l : List Nat) (n : Nat) :
    (forwardTiles s l n).win.forwarded = s.win.forwarded + n ∧ (forwardTiles s l n).win.baseReports = s.win.baseReports := by
  unfold forwardTiles
  refine foldl_keeps (fun t => t.win.forwarded = s.win.forwarded + n ∧ t.win.baseReports = s.win.baseReports) _ (fun t m ht => ?_) _ _ ⟨rfl, rfl⟩
  refine foldl_keeps (fun t => t.win.forwarded = s.win.forwarded + n ∧ t.win.baseReports = s.win.baseReports) _ (fun t _ ht => ?_) _ _ ht
  obtain ⟨hforwarded, hreports⟩ := sendFlits_reports t 0 4 m 66560 (2 ^ 64)
  exact ⟨hforwarded.trans ht.1, hreports.trans ht.2⟩

/-- The packet on its way: the flits are taken, and the packet is journalled and forwarded. -/
def packetTaken (s : State) (data : List Byte) : State :=
  let taken := takeFlits s (domainHead s) data.length
  let s := journalArrival taken (arrivalPort taken (domainHead taken)) (domainHead taken) data
  forwardTiles s (domainModules s) 1

theorem packetTaken_taken (s : State) (data : List Byte) : PacketTaken s (packetTaken s data) := by
  unfold packetTaken
  extract_lets taken s1
  have htaken : Only [.win] s taken := takeFlits_only ..
  have hwin : taken.win.forwarded = s.win.forwarded ∧ taken.win.baseReports = s.win.baseReports := by
    unfold taken
    rw [takeFlits_eq]
    exact ⟨rfl, rfl⟩
  have hjournal : Only [.dict, .tel, .pins, .hostOut] taken s1 := journalArrival_only ..
  have hforward := forwardTiles_only s1 (domainModules s1) 1
  obtain ⟨hforwarded, hreports⟩ := forwardTiles_reports s1 (domainModules s1) 1
  refine ⟨.mono (by rfl) <| htaken.trans (hjournal.trans hforward), fun k hk => ?_, ?_, ?_⟩
  · exact (KeyKept.of_only htaken (by decide)).trans ((journal_keyKept hk ..).trans (.of_only hforward (by decide)))
  · rw [hforwarded, hjournal.same .win (by decide), hwin.1]
  · rw [hreports, hjournal.same .win (by decide), hwin.2]

/-- A packet that no replay holds goes to the base of its partition. -/
theorem baseMulticast_taken (hpart : part < 32) (hlive : s.jobs.find? (fun e => e.2.part = part && e.2.replay.isSome) = none) :
    baseMulticast s part tensor tile data = if tensor = headTensor then memberBegin (packetTaken s data) part tile data
      else memberTile (packetTaken s data) part tensor tile data := by
  have hjobs : (takeFlits s (domainHead s) data.length).jobs = s.jobs := (takeFlits_only ..).same .jobs (by decide)
  unfold baseMulticast
  extract_lets head taken
  have hfind : taken.jobs.find? (fun e => e.2.part = part && e.2.replay.isSome) = none := by
    rw [show taken.jobs = s.jobs from hjobs, hlive]
  rw [hfind]
  exact if_neg (Nat.not_le.mpr hpart)

/-- A packet that comes early in a replay is held until its recorded beat. -/
theorem baseMulticast_held {e : Nat × Job} {due : Nat} (he : s.jobs.find? (fun e => e.2.part = part && e.2.replay.isSome) = some e)
    (hdue : (replayInput (takeFlits s (domainHead s) data.length) e.1 5 (arrivalPort (takeFlits s (domainHead s) data.length) (domainHead s))
      (domainHead s) data).2 = some due) :
    (baseMulticast s part tensor tile data).parts = s.parts ∧ (baseMulticast s part tensor tile data).bufs = s.bufs
      ∧ (jobAt (baseMulticast s part tensor tile data) e.1).map Job.replayHeld
        = (jobAt s e.1).map fun J => J.replayHeld ++ [(due, .baseTileMulticast part tensor tile data)] := by
  have htaken := takeFlits_only s (domainHead s) data.length
  have hreplay := replayInput_only (takeFlits s (domainHead s) data.length) e.1 5
    (arrivalPort (takeFlits s (domainHead s) data.length) (domainHead s)) (domainHead s) data
  have hheld := replayInput_replayHeld (takeFlits s (domainHead s) data.length) e.1 5
    (arrivalPort (takeFlits s (domainHead s) data.length) (domainHead s)) (domainHead s) data e.1
  have hrun : baseMulticast s part tensor tile data = holdInput (replayInput (takeFlits s (domainHead s) data.length) e.1 5
      (arrivalPort (takeFlits s (domainHead s) data.length) (domainHead s)) (domainHead s) data).1 e.1 due (.baseTileMulticast part tensor tile data) := by
    unfold baseMulticast
    extract_lets head taken
    rw [show taken.jobs = s.jobs from htaken.same .jobs (by decide), he]
    dsimp only
    generalize replayInput taken e.1 5 (arrivalPort taken head) head data = r at hdue
    obtain ⟨u, d⟩ := r
    cases hdue
    rfl
  rw [hrun]
  have hall := htaken.trans (hreplay.trans (holdInput_only (replayInput (takeFlits s (domainHead s) data.length) e.1 5
      (arrivalPort (takeFlits s (domainHead s) data.length) (domainHead s)) (domainHead s) data).1 e.1 due (.baseTileMulticast part tensor tile data)))
  refine ⟨hall.same .parts (by decide), hall.same .bufs (by decide), ?_⟩
  rw [holdInput_replayHeld, hheld, htaken.jobAt (by decide), Option.map_map]
  rfl

end Packet

/-! ## A member begins -/

section Begin

variable {s a : State} {part tile : Nat} {head : List Byte}

theorem PacketTaken.replaceStatus (h : PacketTaken s a) (part : Nat) (keeps : Bool) (head : List Byte) (len : Nat) :
    replaceStatus a part keeps head len = replaceStatus s part keeps head len := by
  unfold Machine.replaceStatus baseJobAt
  rw [h.only.partAt (by decide), h.only.same .bufs (by decide)]

theorem PacketTaken.loadStatus (h : PacketTaken s a) {part : Nat} (hpart : part < 32) (keeps : Bool) (head : List Byte) (len : Nat) :
    loadStatus a part keeps head len = loadStatus s part keeps head len := by
  have hkey (j : Nat) (hj : j < 8) : dnum a (0x5000 + part) j = dnum s (0x5000 + part) j := (h.key _ (by unfold dkey; omega)).dnum
  unfold Machine.loadStatus baseJobAt baseReferenced baseFits quotaSum tierBytes
  rw [h.only.partAt (by decide), h.only.same .jobs (by decide), hkey 5 (by decide), if_pos rfl, if_pos rfl, hkey 6 (by decide), hkey 3 (by decide)]

/-- The job of a member that has read a head. -/
def memberJob (replace : Bool) (ts : List Tensor) (head : List Byte) : BaseJob :=
  { replace, tensors := ts, digest := headDigest head, fn := 0, seq := 0, tag := 0, members := 0, member := true }

theorem memberBegin_replace (h : replaceStatus a part true head (hImage head) = 0) :
    memberBegin a part 2 head = beginReplace a part (memberJob true (withIndices a part (readTensors head)) head) := by
  unfold memberBegin
  rw [if_pos rfl]
  exact if_neg (not_not.mpr h)

theorem memberBegin_load (htile : tile ≠ 2) (h : loadStatus a part true head (hImage head) = 0) :
    memberBegin a part tile head = beginLoad a part (memberJob false (readTensors head) head) :=
  (if_neg htile).trans (if_neg (not_not.mpr h))

theorem memberBegin_replaceRefused (h : replaceStatus a part true head (hImage head) ≠ 0) :
    memberBegin a part 2 head = reportBase a part (replaceStatus a part true head (hImage head)) := by
  unfold memberBegin
  rw [if_pos rfl]
  refine (if_pos h).trans ?_
  unfold memberRefuse
  exact if_pos rfl

/-- The state of a member that cannot take a base: it has none. -/
def memberRefused (s : State) (part : Nat) (st : Status) : State :=
  bumpBaseGen (updPart (noBase (freeBase (reportBase s part st) part) part 0) part fun p => { p with baseJob := none, brokenStatus := 0 }) part

theorem memberBegin_loadRefused (htile : tile ≠ 2) (h : loadStatus a part true head (hImage head) ≠ 0) :
    memberBegin a part tile head = memberRefused a part (loadStatus a part true head (hImage head)) :=
  (if_neg htile).trans ((if_pos h).trans (if_neg htile))

theorem reportBase_reports (s : State) (part : Nat) (st : Status) :
    (reportBase s part st).win.baseReports = s.win.baseReports ++ [(part, st)] := (sendFlits_reports ..).2

theorem memberRefused_law (s : State) (part : Nat) (st : Status) : baseJobAt (memberRefused s part st) part = none
    ∧ dnum (memberRefused s part st) (0x5600 + part) 1 = 0 ∧ (partAt (memberRefused s part st) part).tensors = []
    ∧ (memberRefused s part st).win.baseReports = s.win.baseReports ++ [(part, st)] := by
  generalize hu : noBase (freeBase (reportBase s part st) part) part 0 = u
  have hrun : memberRefused s part st = bumpBaseGen (updPart u part fun p => { p with baseJob := none, brokenStatus := 0 }) part := by
    unfold memberRefused
    rw [hu]
  have hbump := bumpBaseGen_only (updPart u part fun p => { p with baseJob := none, brokenStatus := 0 }) part
  have hupd := updPart_only u part fun p => { p with baseJob := none, brokenStatus := 0 }
  have hfree : Only [.dict, .parts, .bufs, .index, .tiered, .mbx, .rel] (reportBase s part st) u :=
    hu ▸ .mono (by rfl) ((freeBase_only ..).trans (noBase_only ..))
  have hpart : partAt (memberRefused s part st) part = { partAt u part with baseJob := none, brokenStatus := 0 } := by
    rw [hrun, hbump.partAt (by decide), partAt_updPart_self]
  refine ⟨congrArg Part.baseJob hpart, ?_, ?_, ?_⟩
  · rw [hrun, (bumpBaseGen_keyKept _ _ (by unfold dkey; omega)).dnum, hupd.dnum (by decide), ← hu, noBase_state]
  · refine (congrArg Part.tensors hpart).trans ?_
    have h : partAt u part = partAt (freeBase (reportBase s part st) part) part := hu ▸ (noBase_only ..).partAt (by decide) part
    rw [h]
    exact congrArg (fun x => x.1) (freeBase_part ..)
  · rw [hrun, hbump.same .win (by decide), hupd.same .win (by decide), hfree.same .win (by decide), reportBase_reports]

end Begin

/-! ## A member's tile -/

section Tile

variable {s a : State} {part tensor tile : Nat} {data : List Byte} {b : BaseJob} {x : Tensor}

theorem memberTile_idle (h : ((baseJobAt a part).all fun b => !b.member || b.loaded.length ≠ tensor || b.tileNext ≠ tile || (b.tensors[tensor]?).isNone) = true) :
    memberTile a part tensor tile data = a := by
  unfold memberTile
  cases hb : baseJobAt a part with
  | none => rfl
  | some b =>
    split
    · rfl
    · next b' hb' =>
      obtain ⟨hsome, hmatch⟩ := Option.filter_eq_some_iff.mp hb'
      obtain rfl := Option.some.inj hsome
      rw [hb, Option.all_some] at h
      have hnone : b.tensors[tensor]? = none := by
        simp only [Bool.and_eq_true, decide_eq_true_eq] at hmatch
        obtain ⟨⟨hmember, hlen⟩, htile⟩ := hmatch
        simpa [hmember, hlen, htile] using h
      rw [hnone]

/-- A member's job with one tile more of its tensor. -/
def tileTaken (b : BaseJob) (data : List Byte) : BaseJob :=
  { b with tileNext := b.tileNext + 1, tileData := b.tileData ++ slice data 0 65536, sideData := b.sideData ++ slice data 65536 1024 }

/-- The tensor's bytes once its last tile has come. -/
def wholeTensor (b : BaseJob) (data : List Byte) : List Byte := (tileTaken b data).tileData ++ (tileTaken b data).sideData

/-- A member's job whose tensor did not match its digest: it is awaited again. -/
def tensorAwaited (b : BaseJob) : BaseJob := { b with tileNext := 0, tileData := [], sideData := [], attempts := b.attempts + 1 }

/-- A member's job with one tensor more. -/
def tensorLoaded (b : BaseJob) (data : List Byte) : BaseJob :=
  { tensorAwaited b with loaded := b.loaded ++ [wholeTensor b data], attempts := 0 }

theorem memberTile_matches (hb : baseJobAt a part = some b) (hmember : b.member = true) (hloaded : b.loaded.length = tensor) (htile : b.tileNext = tile) :
    ((baseJobAt a part).filter fun b => b.member && b.loaded.length = tensor && b.tileNext = tile) = some b := by
  rw [hb]
  exact Option.filter_some_pos (by rw [hmember, decide_eq_true hloaded, decide_eq_true htile]; rfl)

section Matching

variable (hb : baseJobAt a part = some b) (hmember : b.member = true) (hloaded : b.loaded.length = tensor) (htile : b.tileNext = tile)
  (hx : b.tensors[tensor]? = some x)

include hb hmember hloaded htile hx

theorem memberTile_more (h : tile + 1 < x.tiles) : memberTile a part tensor tile data = updBaseJob a part fun _ => tileTaken b data := by
  unfold memberTile
  simp only [memberTile_matches hb hmember hloaded htile, hx]
  exact if_pos (by rw [htile]; exact h)

theorem memberTile_mismatch (h : x.tiles ≤ tile + 1) (hdigest : sha384 (wholeTensor b data) ≠ x.digest) :
    memberTile a part tensor tile data = if 3 ≤ (tensorAwaited b).attempts then baseFail a part (tensorAwaited b) 0x0613
      else updBaseJob a part fun _ => tensorAwaited b := by
  unfold memberTile
  simp only [memberTile_matches hb hmember hloaded htile, hx]
  refine (if_neg (by rw [htile]; exact Nat.not_lt.mpr h)).trans ?_
  have hgood : decide (sha384 (b.tileData ++ slice data 0 65536 ++ (b.sideData ++ slice data 65536 1024)) = x.digest) = false :=
    decide_eq_false hdigest
  rw [hgood]
  rfl

theorem memberTile_loaded (h : x.tiles ≤ tile + 1) (hdigest : sha384 (wholeTensor b data) = x.digest) :
    memberTile a part tensor tile data = if (b.replace || decide ((tensorLoaded b data).loaded.length < b.tensors.length)) = true then
        updBaseJob a part fun _ => tensorLoaded b data
      else publishBase a part (tensorLoaded b data) := by
  unfold memberTile
  simp only [memberTile_matches hb hmember hloaded htile, hx]
  refine (if_neg (by rw [htile]; exact Nat.not_lt.mpr h)).trans ?_
  have hgood : decide (sha384 (b.tileData ++ slice data 0 65536 ++ (b.sideData ++ slice data 65536 1024)) = x.digest) = true :=
    decide_eq_true hdigest
  rw [hgood]
  rfl

end Matching

/-- A base job given up is over. -/
theorem baseFail_job (s : State) (part : Nat) (b : BaseJob) (st : Status) : baseJobAt (baseFail s part b st) part = none := by
  have hnone (s : State) : baseJobAt (updPart s part fun p => { p with baseJob := none }) part = none := by
    unfold baseJobAt
    rw [partAt_updPart_self]
  have hfree (s : State) : baseJobAt (freeBase s part) part = baseJobAt s part := congrArg (fun x => x.2.1) (freeBase_part s part)
  unfold baseFail
  extract_lets s1 s2 s3
  have h1 : baseJobAt s1 part = none := hnone s
  split
  · exact ((BasesKept.of_only (answerBase_only ..) (by decide)).baseJobAt part).trans h1
  split
  · have h2 : baseJobAt s2 part = none :=
      ((BasesKept.of_only (noBase_only ..) (by decide)).baseJobAt part).trans
        ((hfree _).trans (((BasesKept.of_only (turnLayer_only ..) (by decide)).baseJobAt part).trans h1))
    have h3 : BasesKept s2 s3 := updPart_basesKept (f := fun p => { p with brokenStatus := st }) (fun _ => rfl) s2 part
    exact ((h3.trans ((failIncoming_basesKept ..).trans ((BasesKept.of_only (bumpBaseGen_only ..) (by decide)).trans
      (.of_only (answerBase_only ..) (by decide))))).baseJobAt part).trans h2
  · exact (((BasesKept.of_only (chargeBase_only ..) (by decide)).trans ((BasesKept.of_only (noBase_only ..) (by decide)).trans
      (.of_only (answerBase_only ..) (by decide)))).baseJobAt part).trans h1

theorem placeTensor_job (s : State) (part : Nat) (t : Tensor) (bytes : List Byte) (h : baseJobAt s part = none) :
    baseJobAt (placeTensor s part t bytes) part = none := by
  unfold placeTensor baseJobAt
  rw [partAt_updPart_self]
  refine Eq.trans ?_ h
  exact (BasesKept.of_only (placeBuf_only ..) (by decide)).baseJobAt part

/-- A base that is whole is published: it is the resident one. -/
theorem publishBase_published (hkeeps : b.keeps = true) (hroom : indicesUsed s part + b.tensors.length ≤ 2 ^ 20 - 1) :
    baseJobAt (publishBase s part b) part = none ∧ dnum (publishBase s part b) (0x5600 + part) 1 = 2
      ∧ dblob (publishBase s part b) (0x5600 + part) 2 = b.digest := by
  unfold publishBase
  extract_lets s1 s2 s3 s4 s5
  have hindex : indicesUsed s1 part = indicesUsed s part := by
    unfold indicesUsed
    rw [(updPart_only ..).same .index (by decide)]
  rw [if_neg (by rw [hkeeps]; decide), if_neg (by rw [hindex]; exact Nat.not_lt.mpr hroom)]
  have h1 : baseJobAt s1 part = none := by
    unfold baseJobAt s1
    rw [partAt_updPart_self]
  have h2 : baseJobAt s2 part = none :=
    foldl_keeps (fun t => baseJobAt t part = none) _ (fun t p ht => placeTensor_job t part p.1 p.2 ht) _ _ h1
  have h3 : baseJobAt s3 part = none := by
    unfold s3 baseJobAt
    rw [partAt_updPart_self]
    exact h2
  have h4 : s4 = residentEntries s3 part b.digest := rfl
  have h5 : KeyKept (dkey (0x5600 + part) 1) s4 s5 ∧ KeyKept (dkey (0x5600 + part) 2) s4 s5 :=
    ⟨.dset _ _ _ _ (by unfold dkey; omega), .dset _ _ _ _ (by unfold dkey; omega)⟩
  have hend (j : Nat) (hj : j < 256) : KeyKept (dkey (0x5600 + part) j) s5 (answerBase (bumpBaseGen s5 part) part b 0) :=
    (bumpBaseGen_keyKept _ _ (by unfold dkey; omega)).trans (.of_only (answerBase_only ..) (by decide))
  refine ⟨?_, ?_, ?_⟩
  · have h : BasesKept s3 (answerBase (bumpBaseGen s5 part) part b 0) := .of_only ((residentEntries_only s3 part b.digest).trans
      ((dset_only ..).trans ((bumpBaseGen_only ..).trans (answerBase_only ..)))) (by decide)
    exact (h.baseJobAt part).trans h3
  · rw [(hend 1 (by decide)).dnum, h5.1.dnum, h4, residentEntries_state]
  · exact (congrArg DVal.bytes (h5.2.trans (hend 2 (by decide)))).trans (residentEntries_digest ..)

end Tile

end Sys2Proof.Machine

/-! PROOFS. O38: the base requests by their checks, and a packet at its member. -/

namespace Sys2Proof.Machine

section BaseRequests

variable {s : State} {fn op : Nat} {m : MboxMsg} {head : List Byte}

theorem base_badMessage (hat : AtHead s fn m 5 op) (hop : op = 1 ∨ op = 2) (hbad : baseMessageOk m.bytes = false) :
    Runs (if op = 1 then .baseLoad fn head else .baseReplace fn head) s fun t => Answered s t fn m 0x0301 ∧ t = { s with mbx := t.mbx } := by
  rcases hop with rfl | rfl
  · exact base_refused rfl hat (loadBase_badMessage hbad) (by decide)
  · exact base_refused rfl hat (replaceBase_badMessage hbad) (by decide)

theorem baseLoad_loads (hok : baseMessageOk m.bytes = true) (hat : AtHead s fn m 5 1)
    (hst : loadStatus s (bPart m.bytes) (bit (field m.bytes 8 1) 0) head (field m.bytes 24 8) = 0) :
    Runs (.baseLoad fn head) s fun t => Consumed s t fn m
      ∧ baseJobAt t (bPart m.bytes) = some (baseJobOf fn m head false (readTensors head))
      ∧ (∃ x, (readTensors head)[0]? = some x ∧ FMap.get? t.host.reads s.host.nextRead
        = some { use := .baseTensor (bPart m.bytes), fn := fn, addr := field m.bytes 16 8 + x.offset, len := x.bytes })
      ∧ (bit (field m.bytes 8 1) 0 = true → dnum t (0x5600 + bPart m.bytes) 1 = 1 ∧ (partAt t (bPart m.bytes)).tensors = []
        ∧ dblob t (0x5600 + bPart m.bytes) 2 = zeros 48) := by
  obtain ⟨hinbox, hbegun⟩ := load_begun (s := s) (fn := fn) (m := m) (readTensors_first (baseHeadOk_of_load hst)) rfl
  obtain ⟨hexec, hconsumed⟩ := base_runs (cmd := .baseLoad fn head) rfl hat (loadBase_ok (s := popMessage s fn m) hok hst) hinbox
  exact ⟨_, hexec, hconsumed, hbegun⟩

theorem baseReplace_forwards (hok : baseMessageOk m.bytes = true) (hat : AtHead s fn m 5 2)
    (hst : replaceStatus s (bPart m.bytes) (bit (field m.bytes 8 1) 0) head (field m.bytes 24 8) = 0) (hkeeps : bit (field m.bytes 8 1) 0 = false) :
    Runs (.baseReplace fn head) s fun t => Consumed s t fn m
      ∧ baseJobAt t (bPart m.bytes) = some (baseJobOf fn m head false (readTensors head))
      ∧ (∃ x, (readTensors head)[0]? = some x ∧ FMap.get? t.host.reads s.host.nextRead
        = some { use := .baseTensor (bPart m.bytes), fn := fn, addr := field m.bytes 16 8 + x.offset, len := x.bytes })
      ∧ t = { s with mbx := t.mbx, parts := t.parts, host := t.host } := by
  obtain ⟨hinbox, hjob, hreads, -⟩ := load_begun (s := s) (fn := fn) (m := m) (readTensors_first (baseHeadOk_of_replace hst)) rfl
  obtain ⟨hexec, hconsumed⟩ := base_runs (cmd := .baseReplace fn head) rfl hat (replaceBase_forwards (s := popMessage s fn m) hok hst hkeeps) hinbox
  refine ⟨_, hexec, hconsumed, hjob, hreads, ?_⟩
  have hbegin : Only [.parts] (popMessage s fn m) (beginLoad (popMessage s fn m) (bPart m.bytes) (baseJobOf fn m head false (readTensors head))) := by
    unfold beginLoad
    extract_lets s1
    have hs1 : s1 = popMessage s fn m := if_neg (by rw [show (baseJobOf fn m head false (readTensors head)).keeps = false from hkeeps]; decide)
    rw [hs1]
    exact updPart_only ..
  have hall := Only.trans (popMessage_only s fn m) (hbegin.trans (readNext_only _ (bPart m.bytes) (baseJobOf fn m head false (readTensors head))))
  exact (hall.mono (G := [.mbx, .parts, .host]) (by rfl)).eq_overlay

theorem baseReplace_opens (hok : baseMessageOk m.bytes = true) (hat : AtHead s fn m 5 2)
    (hst : replaceStatus s (bPart m.bytes) (bit (field m.bytes 8 1) 0) head (field m.bytes 24 8) = 0) (hkeeps : bit (field m.bytes 8 1) 0 = true) :
    Runs (.baseReplace fn head) s fun t => Consumed s t fn m ∧ t = { s with mbx := t.mbx, dict := t.dict, parts := t.parts }
      ∧ baseJobAt t (bPart m.bytes) = some { baseJobOf fn m head true (withIndices s (bPart m.bytes) (readTensors head)) with
          swapped := dnum s (0x5600 + bPart m.bytes) 4 }
      ∧ (partAt t (bPart m.bytes)).incoming = handlesOf s (bPart m.bytes) (withIndices s (bPart m.bytes) (readTensors head)) 1
      ∧ dnum t (0x5600 + bPart m.bytes) 1 = 3 ∧ dblob t (0x5600 + bPart m.bytes) 3 = headDigest head
      ∧ dnum t (0x5600 + bPart m.bytes) 4 = 0 := by
  have hbegin := beginReplace_only (popMessage s fn m) (bPart m.bytes) (baseJobOf fn m head true (withIndices s (bPart m.bytes) (readTensors head)))
  have hall : Only [.mbx, .dict, .parts] s (beginReplace (popMessage s fn m) (bPart m.bytes)
      (baseJobOf fn m head true (withIndices s (bPart m.bytes) (readTensors head)))) := .mono (by rfl) <| (popMessage_only ..).trans hbegin
  obtain ⟨hexec, hconsumed⟩ := base_runs (cmd := .baseReplace fn head) rfl hat (replaceBase_keeps (s := popMessage s fn m) hok hst hkeeps)
    (.of_only hbegin (by decide))
  exact ⟨_, hexec, hconsumed, hall.eq_overlay, beginReplace_law (popMessage s fn m) (bPart m.bytes) _⟩

theorem abortAnswered_inboxKept (s : State) (part : Nat) (b : BaseJob) : InboxKept s (abortAnswered s part b) := by
  have h : Only [.parts, .dict] s (replaceAborted s part b) := by
    unfold replaceAborted
    exact .mono (by rfl) <| (updPart_only ..).trans ((setBaseState_only ..).trans ((dsetB_only ..).trans (dset_only ..)))
  exact (InboxKept.of_only (h.trans (setFresh_only _ _)) (by decide)).trans (answerBase_inboxKept ..)

theorem abortAnswered_kept (s : State) (part : Nat) (b : BaseJob) :
    Only [.fresh, .mbx, .win] (replaceAborted s part b) (abortAnswered s part b) :=
  .mono (by rfl) <| (setFresh_only _ ((replaceAborted s part b).fresh + 1)).trans (answerBase_only ..)

theorem baseReplaceAbort_aborts {b : BaseJob} (hat : AtHead s fn m 5 3) (hpart : bPart m.bytes < 32) (hb : baseJobAt s (bPart m.bytes) = some b)
    (hreplace : b.replace = true) (hnext : b.next = 0) (hswapping : b.swapping = none) :
    Runs (.baseReplaceAbort fn) s fun t => AnsweredLast s t fn m 0 ∧ baseJobAt t (bPart m.bytes) = none ∧ dnum t (0x5600 + bPart m.bytes) 1 = 2
      ∧ dblob t (0x5600 + bPart m.bytes) 3 = zeros 48 ∧ dnum t (0x5600 + bPart m.bytes) 4 = b.swapped
      ∧ (partAt t (bPart m.bytes)).incoming = [] ∧ (partAt t (bPart m.bytes)).tensors = (partAt s (bPart m.bytes)).tensors ∧ t.bufs = s.bufs := by
  obtain ⟨-, hin, hcls, -⟩ := id hat
  generalize hr : (baseBytes (abortAnswered (popMessage s fn m) (bPart m.bytes) b) (messageTag 5 m.bytes) 0 0 b.digest) = bytes
  have hrespond := respond_only (abortAnswered (popMessage s fn m) (bPart m.bytes) b) fn 5 m.seq bytes
  have hinbox := (abortAnswered_inboxKept (popMessage s fn m) (bPart m.bytes) b).trans (respond_inboxKept _ fn 5 m.seq bytes)
  obtain ⟨hexec, hconsumed⟩ := base_runs (cmd := .baseReplaceAbort fn) rfl hat
    (hr ▸ abortReplace_open (s := popMessage s fn m) hpart hb hreplace hnext hswapping) hinbox
  have hanswer := (abortAnswered_kept (popMessage s fn m) (bPart m.bytes) b).trans hrespond
  obtain ⟨hjob, hstate, hincomingDigest, hswapped, hincoming, htensors⟩ := replaceAborted_law (popMessage s fn m) (bPart m.bytes) b
  refine ⟨_, hexec, ⟨hconsumed, ⟨5, m.seq, bytes⟩, ?_, hcls.symm, rfl, ?_⟩, ?_, ?_, ?_, ?_, ?_, ?_, ?_⟩
  · unfold respond
    rw [mboxAt_updMbox_self]
    exact List.getLast?_concat ..
  · rw [← hr]
    exact baseBytes_status _ _ _ _ (by decide)
  · exact ((BasesKept.of_only hanswer (by decide)).baseJobAt _).trans hjob
  · exact (hanswer.dnum (by decide) _ _).trans hstate
  · exact (congrArg DVal.bytes (hanswer.dget (by decide) _)).trans hincomingDigest
  · exact (hanswer.dnum (by decide) _ _).trans hswapped
  · exact ((BasesKept.of_only hanswer (by decide)).incoming _).trans hincoming
  · exact ((BasesKept.of_only hanswer (by decide)).tensors _).trans htensors
  · have habort : Only [.parts, .dict] (popMessage s fn m) (replaceAborted (popMessage s fn m) (bPart m.bytes) b) := by
      unfold replaceAborted
      exact .mono (by rfl) <| (updPart_only ..).trans ((setBaseState_only ..).trans ((dsetB_only ..).trans (dset_only ..)))
    exact (hanswer.same .bufs (by decide)).trans ((habort.same .bufs (by decide)).trans ((popMessage_only ..).same .bufs (by decide)))

end BaseRequests

/-! ## A packet at its member -/

section AtMember

variable {s a : State} {part tensor tile : Nat} {data : List Byte} {b : BaseJob} {x : Tensor}

/-- What a member's tile does to its base job. -/
theorem memberTile_law (hta : PacketTaken s a) (hb : baseJobAt s part = some b) (hmember : b.member = true) (hloaded : b.loaded.length = tensor)
    (htile : b.tileNext = tile) (hx : b.tensors[tensor]? = some x) :
    let t := memberTile a part tensor tile data
    (tile + 1 < x.tiles → baseJobAt t part = some (tileTaken b data) ∧ t.bufs = s.bufs ∧ t.win.forwarded = s.win.forwarded + 1)
      ∧ (x.tiles ≤ tile + 1 → sha384 (wholeTensor b data) ≠ x.digest → (tensorAwaited b).attempts < 3 →
          baseJobAt t part = some (tensorAwaited b) ∧ t.bufs = s.bufs)
      ∧ (x.tiles ≤ tile + 1 → sha384 (wholeTensor b data) ≠ x.digest → 3 ≤ (tensorAwaited b).attempts → baseJobAt t part = none)
      ∧ (x.tiles ≤ tile + 1 → sha384 (wholeTensor b data) = x.digest → (b.replace = true ∨ tensor + 1 < b.tensors.length) →
          baseJobAt t part = some (tensorLoaded b data) ∧ t.bufs = s.bufs)
      ∧ (x.tiles ≤ tile + 1 → sha384 (wholeTensor b data) = x.digest → b.replace = false → b.tensors.length ≤ tensor + 1 → b.keeps = true →
          indicesUsed s part + b.tensors.length ≤ 2 ^ 20 - 1 → baseJobAt t part = none
            ∧ dnum t (0x5600 + part) 1 = 2 ∧ dblob t (0x5600 + part) 2 = b.digest) := by
  intro t
  have hba : baseJobAt a part = some b := by
    unfold baseJobAt
    rw [hta.only.partAt (by decide)]
    exact hb
  have hput (b' : BaseJob) : baseJobAt (updBaseJob a part fun _ => b') part = some b' ∧ (updBaseJob a part fun _ => b').bufs = s.bufs := by
    refine ⟨?_, ((updBaseJob_only ..).same .bufs (by decide)).trans (hta.only.same .bufs (by decide))⟩
    rw [partAt_updBaseJob, hba]
    rfl
  have hlength : (tensorLoaded b data).loaded.length = tensor + 1 := by
    rw [← hloaded]
    exact List.length_append ..
  refine ⟨fun hmore => ?_, fun hlast hdigest hfew => ?_, fun hlast hdigest hmany => ?_, fun hlast hdigest hgoes => ?_,
    fun hlast hdigest hreplace hends hkeeps hroom => ?_⟩
  · unfold t
    rw [memberTile_more hba hmember hloaded htile hx hmore]
    obtain ⟨hjob, hbufs⟩ := hput (tileTaken b data)
    exact ⟨hjob, hbufs, (congrArg (fun w => w.forwarded) ((updBaseJob_only ..).same .win (by decide))).trans hta.forwarded⟩
  · unfold t
    rw [memberTile_mismatch hba hmember hloaded htile hx hlast hdigest, if_neg (Nat.not_le.mpr hfew)]
    exact hput _
  · unfold t
    rw [memberTile_mismatch hba hmember hloaded htile hx hlast hdigest, if_pos hmany]
    exact baseFail_job ..
  · unfold t
    rw [memberTile_loaded hba hmember hloaded htile hx hlast hdigest, hlength, if_pos (by rw [Bool.or_eq_true, decide_eq_true_iff]; exact hgoes)]
    exact hput _
  · unfold t
    rw [memberTile_loaded hba hmember hloaded htile hx hlast hdigest, hlength,
      if_neg (by rw [hreplace, Bool.false_or, decide_eq_true_iff]; exact Nat.not_lt.mpr hends)]
    refine publishBase_published (b := tensorLoaded b data) hkeeps ?_
    have hindex : indicesUsed a part = indicesUsed s part := by
      unfold indicesUsed
      rw [hta.only.same .index (by decide)]
    rw [hindex]
    exact hroom

end AtMember

/-- Settles O38: each request by its checks, each layer by its swap, and each tile by the packet that brings it. -/
theorem bases : Obligations.Bases := by
  refine ⟨fun s fn op m head hat hop hbad => base_badMessage hat hop hbad, fun s fn m head hok => ?_, fun s fn m hat => ?_,
    fun s part h => ⟨_, rfl, layerSwap_idle h⟩, fun s part b x hb hreplace hswapping hx => ?_, fun s part h => ⟨_, rfl, finalSwap_idle h⟩,
    fun s part b _ hb hreplace hswapping hlen => finalSwap_swapped hb hreplace hswapping hlen, fun s₀ part tile tensor data => ?_⟩
  · intro part keeps len refused reads
    refine ⟨fun hat hst => ?_, fun hat hst => baseLoad_loads hok hat hst, fun hat hst => ?_,
      fun hat hst hkeeps => baseReplace_opens hok hat hst hkeeps, fun hat hst hkeeps => baseReplace_forwards hok hat hst hkeeps⟩
    · exact base_refused rfl hat (loadBase_refused (s := popMessage s fn m) hok hst) (loadStatus_lt ..)
    · exact base_refused rfl hat (replaceBase_refused (s := popMessage s fn m) hok hst) (replaceStatus_lt ..)
  · refine ⟨fun hpart => ?_, fun hpart hnone => ?_, fun b hpart hb hreplace hnext hswapping =>
      baseReplaceAbort_aborts hat hpart hb hreplace hnext hswapping⟩
    · exact base_refused rfl hat (if_pos hpart) (by decide)
    · exact base_refused rfl hat (abortReplace_absent (s := popMessage s fn m) hpart hnone) (by decide)
  · intro ts turned
    refine ⟨fun hheld => ?_, fun hheld hmember => layerSwap_head hb hx hreplace hswapping hheld hmember, fun hheld hmember hshort => ?_,
      fun hheld hmember hwhole => layerSwap_member hb hx hreplace hswapping hheld hmember hwhole⟩
    · exact ⟨_, rfl, (layerSwap_next hb hx hreplace hswapping).trans (if_pos hheld)⟩
    · refine ⟨_, rfl, (layerSwap_next hb hx hreplace hswapping).trans ((if_neg (by rw [hheld]; decide)).trans ((if_pos hmember).trans (if_pos hshort)))⟩
  · intro s taken port run
    have hruns {post : State → Prop} (h : post (baseMulticast s part tensor tile data)) : Runs (.baseTileMulticast part tensor tile data) s₀ post := ⟨_, rfl, h⟩
    refine ⟨fun e due he hdue => hruns (baseMulticast_held he hdue), fun hlive => ?_⟩
    have hta := packetTaken_taken s data
    have hparts : (packetTaken s data).parts = s.parts := hta.only.same .parts (by decide)
    have hbufs : (packetTaken s data).bufs = s.bufs := hta.only.same .bufs (by decide)
    have hhead (hpart : part < 32) (htensor : tensor = 65535) := (baseMulticast_taken (tensor := tensor) (tile := tile) (data := data) hpart hlive).trans (if_pos htensor)
    have htiles (hpart : part < 32) (htensor : tensor ≠ 65535) := (baseMulticast_taken (tensor := tensor) (tile := tile) (data := data) hpart hlive).trans (if_neg htensor)
    refine ⟨fun hpart htensor hidle => hruns ?_, fun hpart htensor htile hst => hruns ?_, fun hpart htensor htile hst => hruns ?_,
      fun hpart htensor htile hst => hruns ?_, fun hpart htensor htile hst => hruns ?_, fun b x hpart htensor hb hmember hloaded htile hx => ?_⟩
    · rw [htiles hpart htensor, memberTile_idle (by unfold baseJobAt at hidle ⊢; rw [hta.only.partAt (by decide)]; exact hidle)]
      exact ⟨hparts, hbufs, hta.forwarded⟩
    · rw [hhead hpart htensor, htile, memberBegin_replace (by rw [hta.replaceStatus]; exact hst)]
      have honly := beginReplace_only (packetTaken s data) part (memberJob true (withIndices (packetTaken s data) part (readTensors data)) data)
      obtain ⟨hjob, -, hstate, -⟩ := beginReplace_law (packetTaken s data) part (memberJob true (withIndices (packetTaken s data) part (readTensors data)) data)
      exact ⟨hstate, (honly.same .bufs (by decide)).trans hbufs, (congrArg (fun w => w.forwarded) (honly.same .win (by decide))).trans hta.forwarded,
        _, hjob, rfl, rfl, rfl⟩
    · rw [hhead hpart htensor, memberBegin_load htile (by rw [hta.loadStatus hpart]; exact hst)]
      have honly := beginLoad_only (packetTaken s data) part (memberJob false (readTensors data) data)
      obtain ⟨hstate, htensors, -⟩ := beginLoad_keeps (b := memberJob false (readTensors data) data) (packetTaken s data) part rfl
      exact ⟨hstate, htensors, (congrArg (fun w => w.forwarded) (honly.same .win (by decide))).trans hta.forwarded, _, beginLoad_job .., rfl, rfl, rfl⟩
    · rw [hhead hpart htensor, htile, memberBegin_replaceRefused (by rw [hta.replaceStatus]; exact hst), hta.replaceStatus]
      have honly := reportBase_only (packetTaken s data) part (replaceStatus s part true data (hImage data))
      exact ⟨(honly.same .parts (by decide)).trans hparts, (honly.same .bufs (by decide)).trans hbufs, (reportBase_reports ..).trans (by rw [hta.reports])⟩
    · rw [hhead hpart htensor, memberBegin_loadRefused htile (by rw [hta.loadStatus hpart]; exact hst), hta.loadStatus hpart]
      obtain ⟨hjob, hstate, htensors, hreports⟩ := memberRefused_law (packetTaken s data) part (loadStatus s part true data (hImage data))
      exact ⟨hjob, hstate, htensors, hreports.trans (by rw [hta.reports])⟩
    · intro b' whole again complete
      obtain ⟨hmore, hagain, hgiven, hcomplete, hpublished⟩ := memberTile_law (data := data) hta hb hmember hloaded htile hx
      rw [← htiles hpart htensor] at hmore hagain hgiven hcomplete hpublished
      have htaken : b' = tileTaken b data := by
        unfold b' tileTaken
        rw [htile]
      exact ⟨fun h => hruns (htaken ▸ hmore h), fun hlast hdigest hfew => hruns (hagain hlast hdigest hfew),
        fun hlast hdigest hmany => hruns (hgiven hlast hdigest hmany), fun hlast hdigest hgoes => hruns (hcomplete hlast hdigest hgoes),
        fun hlast hdigest hreplace hends hkeeps hroom => hruns (hpublished hlast hdigest hreplace hends hkeeps hroom)⟩

end Sys2Proof.Machine

/-! PROOFS. O40: the SPDM responder. -/

namespace Sys2Proof.Machine

section Responder

variable {s : State}

theorem respondSpdm_notReady (h : isReady s = false) (f : State → State) : respondSpdm s f = s := if_pos (by rw [h]; rfl)

/-- NEGOTIATE_ALGORITHMS through the responder's front. -/
theorem spdmAlgorithms_eq (s : State) (o : SpdmOffer) : spdmAlgorithms s o = respondSpdm s fun s =>
    spdmReply { s with sec := { s.sec with negotiated := o.ecdsaP384 && o.sha384 && o.secp384r1 && o.aes256gcm } }
      (.algorithms (o.ecdsaP384 && o.sha384 && o.secp384r1 && o.aes256gcm)) := rfl

theorem returned_iff : returned s = true ↔ s.sec.fuses.lifecycle = 7 := decide_eq_true_iff

theorem respondSpdm_returned (h : isReady s = true) (hret : s.sec.fuses.lifecycle = 7) (f : State → State) :
    respondSpdm s f = spdmReply s .invalidRequest :=
  (if_neg (by rw [h]; decide)).trans (if_pos (returned_iff.mpr hret))

theorem respondSpdm_ready (h : isReady s = true) (hret : s.sec.fuses.lifecycle ≠ 7) (f : State → State) : respondSpdm s f = f s :=
  (if_neg (by rw [h]; decide)).trans (if_neg (returned_iff.not.mpr hret))

/-- A responder that is not Ready answers no session request. -/
theorem ite_notReady (h : isReady s = false) {t : State} : (if !isReady s then s else t) = s := if_pos (by rw [h]; rfl)

theorem ite_ready (h : isReady s = true) {t : State} : (if !isReady s then s else t) = t := if_neg (by rw [h]; decide)

/-! ## Measurements -/

theorem measure_cons (s : State) (i : Nat) (l : List Nat) (done : List (Nat × List Byte)) :
    (i :: l).foldl (fun a i => ((block a.1 i).1, a.2 ++ [(i, (block a.1 i).2)])) (s, done)
      = l.foldl (fun a i => ((block a.1 i).1, a.2 ++ [(i, (block a.1 i).2)])) ((block s i).1, done ++ [(i, (block s i).2)]) := rfl

/-- The blocks of a snapshot are those asked for, in order. -/
theorem measure_indices (s : State) (l : List Nat) : (measure s l).2.map Prod.fst = l := by
  have h (l : List Nat) (s : State) (done : List (Nat × List Byte)) :
      (l.foldl (fun a i => ((block a.1 i).1, a.2 ++ [(i, (block a.1 i).2)])) (s, done)).2.map Prod.fst = done.map Prod.fst ++ l := by
    induction l generalizing s done with
    | nil => exact (List.append_nil _).symm
    | cons i l ih =>
      rw [measure_cons, ih, List.map_append, List.append_assoc]
      rfl
  exact h l s []

theorem spdmMeasurements_measures {index : Nat} (nonce : List Byte) (hready : isReady s = true) (hret : s.sec.fuses.lifecycle ≠ 7)
    (hindex : index = 0xFF ∨ index ∈ blockIndices) {m : State × List (Nat × List Byte)}
    (hm : m = measure s (if index = 0xFF then blockIndices else [index])) :
    spdmMeasurements s index nonce = submitEngine m.1 (leader m.1)
      (.sign m.1.sec.fuses.identityKey (Config.spdmDigest (nonce ++ m.2.flatMap fun e => toLe 1 e.1 ++ e.2))) .spdm (.measurements m.2 nonce) := by
  have hknown : ¬(index ≠ 0xFF && !blockIndices.contains index) = true := by
    rw [Bool.and_eq_true, decide_eq_true_iff, Bool.not_eq_true', ← Bool.not_eq_true, List.contains_iff_mem]
    exact fun h => hindex.elim h.1 h.2
  rw [hm]
  exact (ite_ready hready).trans ((if_neg (returned_iff.not.mpr hret)).trans (if_neg hknown))

theorem spdmMeasurements_unknown {index : Nat} (nonce : List Byte) (hready : isReady s = true) (hret : s.sec.fuses.lifecycle ≠ 7)
    (hall : index ≠ 0xFF) (hindex : index ∉ blockIndices) : spdmMeasurements s index nonce = spdmReply s .invalidRequest := by
  have hunknown : (index ≠ 0xFF && !blockIndices.contains index) = true := by
    rw [Bool.and_eq_true, decide_eq_true_iff, Bool.not_eq_true', ← Bool.not_eq_true, List.contains_iff_mem]
    exact ⟨hall, hindex⟩
  exact (ite_ready hready).trans ((if_neg (returned_iff.not.mpr hret)).trans (if_pos hunknown))

/-! ## Sessions -/

theorem spdmKeyExchange_opens {key : List Byte} {ok : Bool} {role : Role} (hready : isReady s = true) (hroom : s.sec.sessions.length < 8)
    (hok : ok = true) (hrole : roleOfKey s key = some role) : spdmKeyExchange s key ok
      = if (s.sec.fuses.lifecycle ≠ 3 && role ≠ .maker) = true then spdmReply s (.refused 0x0706)
        else spdmReply { s with sec := { s.sec with
          sessions := FMap.set s.sec.sessions s.sec.nextSession ⟨role, false⟩, nextSession := s.sec.nextSession + 1 } } (.session s.sec.nextSession) := by
  unfold spdmKeyExchange
  rw [ite_ready hready, if_neg (Nat.not_le.mpr hroom), if_neg (by rw [hok]; decide), hrole]

theorem spdmKeyExchange_refused {key : List Byte} {ok : Bool} (hready : isReady s = true) (hroom : s.sec.sessions.length < 8)
    (h : ok = false ∨ roleOfKey s key = none) : spdmKeyExchange s key ok = spdmReply s (.refused 0x0705) := by
  unfold spdmKeyExchange
  rw [ite_ready hready, if_neg (Nat.not_le.mpr hroom)]
  cases ok with
  | false => rfl
  | true => rw [if_neg (by decide), h.resolve_left (by decide)]

/-- The session `n` is over, and its responder has answered `r`. -/
theorem endSession_ended (s : State) (n : Nat) (r : SpdmResp) : let t := spdmReply (endSession s n) r
    FMap.get? t.sec.sessions n = none ∧ t.sec.spdmOut = some r ∧ (∀ k, k ≠ n → FMap.get? t.sec.sessions k = FMap.get? s.sec.sessions k)
      ∧ FMap.get? t.tel.staged (sessionRequester n) = none ∧ t = { s with sec := t.sec, tel := t.tel } :=
  ⟨FMap.get?_erase_self .., rfl, fun _ hk => FMap.get?_erase_other _ _ _ hk, FMap.get?_erase_self .., rfl⟩

theorem spdmFinish_none {n : Nat} (ok : Bool) (hready : isReady s = true) (h : FMap.get? s.sec.sessions n = none) :
    spdmFinish s n ok = spdmReply s .invalidRequest := by
  unfold spdmFinish
  rw [ite_ready hready, h]

theorem spdmFinish_some {n : Nat} {x : Session} (ok : Bool) (hready : isReady s = true) (h : FMap.get? s.sec.sessions n = some x) :
    spdmFinish s n ok = if x.finished = true then spdmReply s .invalidRequest
      else if ok = true then
        spdmReply { s with sec := { s.sec with sessions := FMap.set s.sec.sessions n { x with finished := true } } } .finished
      else spdmReply (endSession s n) .invalidRequest := by
  unfold spdmFinish
  rw [ite_ready hready, h]

theorem spdmEnd_eq {n : Nat} (hready : isReady s = true) :
    spdmEnd s n = if (FMap.get? s.sec.sessions n).isSome = true then spdmReply (endSession s n) .ended else spdmReply s .invalidRequest :=
  ite_ready hready

theorem spdmHeartbeat_eq {n : Nat} (hready : isReady s = true) :
    spdmHeartbeat s n = spdmReply s (if (FMap.get? s.sec.sessions n).isSome = true then .alive else .invalidRequest) :=
  ite_ready hready

end Responder

/-- Settles O40: the responder's replies, the measurements that wait for the leader's engine, and the sessions. -/
theorem spdmResponder : Obligations.SpdmResponder := by
  refine ⟨fun s h => ?_, fun s o a b c key nonce ok h => ?_, fun s o a b c nonce h hret => ?_, fun s h hret => ?_,
    fun s₀ index nonce => ?_, fun s key ok h => ?_, fun s n h => ?_⟩
  · simp only [List.forall_mem_cons]
    exact ⟨⟨_, rfl, respondSpdm_notReady h _⟩, ⟨_, rfl, respondSpdm_notReady h _⟩, ⟨_, rfl, respondSpdm_notReady h _⟩, List.forall_mem_nil _⟩
  · simp only [List.forall_mem_cons]
    exact ⟨⟨_, rfl, (spdmAlgorithms_eq s o).trans (respondSpdm_notReady h _)⟩, ⟨_, rfl, respondSpdm_notReady h _⟩, ⟨_, rfl, respondSpdm_notReady h _⟩, ⟨_, rfl, ite_notReady h⟩,
      ⟨_, rfl, ite_notReady h⟩, ⟨_, rfl, ite_notReady h⟩, ⟨_, rfl, ite_notReady h⟩, List.forall_mem_nil _⟩
  · simp only [List.forall_mem_cons]
    exact ⟨⟨_, rfl, respondSpdm_returned h hret _⟩, ⟨_, rfl, respondSpdm_returned h hret _⟩,
      ⟨_, rfl, (spdmAlgorithms_eq s o).trans (respondSpdm_returned h hret _)⟩,
      ⟨_, rfl, respondSpdm_returned h hret _⟩, ⟨_, rfl, respondSpdm_returned h hret _⟩, ⟨_, rfl, respondSpdm_returned h hret _⟩, List.forall_mem_nil _⟩
  · intro replies
    refine ⟨⟨_, rfl, respondSpdm_ready h hret _⟩, ⟨_, rfl, respondSpdm_ready h hret _⟩, fun o => ⟨_, rfl, (spdmAlgorithms_eq s o).trans (respondSpdm_ready h hret _)⟩,
      ⟨_, rfl, respondSpdm_ready h hret _⟩, fun slot offset len => ⟨fun hbad => ⟨_, rfl, ?_⟩, fun hslot hoff => ⟨_, rfl, ?_⟩⟩,
      fun slot nonce => ⟨fun hslot => ⟨_, rfl, (respondSpdm_ready h hret _).trans (if_pos hslot)⟩, fun hslot => ?_⟩⟩
    · exact (respondSpdm_ready h hret _).trans (if_pos (by rw [Bool.or_eq_true, decide_eq_true_iff, decide_eq_true_iff]; exact hbad))
    · exact (respondSpdm_ready h hret _).trans (if_neg (by rw [Bool.or_eq_true, decide_eq_true_iff, decide_eq_true_iff]; omega))
    · have hrun : spdmChallenge s slot nonce = submitEngine s (leader s) (.sign s.sec.fuses.identityKey (Config.spdmDigest nonce)) .spdm (.challenge nonce) :=
        (respondSpdm_ready h hret _).trans (if_neg (not_not.mpr hslot))
      obtain ⟨honly, hother⟩ := submitEngine_alone s (leader s) (.sign s.sec.fuses.identityKey (Config.spdmDigest nonce)) .spdm (.challenge nonce)
      exact ⟨_, congrArg Host.Outcome.next hrun, honly, engineAt_submitEngine .., hother⟩
  · intro s replies l
    refine ⟨fun h => ⟨_, rfl, ite_notReady h⟩, fun h hret hindex => ⟨_, rfl, ?_⟩, fun h hret hindex => ⟨_, rfl, ?_⟩,
      fun h hret hall hindex => ⟨_, rfl, spdmMeasurements_unknown nonce h hret hall hindex⟩, fun h hret hindex => ?_⟩
    · exact (ite_ready h).trans ((if_pos (returned_iff.mpr hret)).trans (if_neg hindex))
    · exact (ite_ready h).trans ((if_pos (returned_iff.mpr hret)).trans (if_pos hindex))
    · intro m
      obtain ⟨honly, -⟩ := submitEngine_alone m.1 (leader m.1)
        (.sign m.1.sec.fuses.identityKey (Config.spdmDigest (nonce ++ m.2.flatMap fun e => toLe 1 e.1 ++ e.2))) .spdm (.measurements m.2 nonce)
      refine ⟨measure_indices s l, _, congrArg Host.Outcome.next (spdmMeasurements_measures nonce h hret hindex rfl), honly,
        engineAt_submitEngine .., fun h5 => ?_⟩
      have hl : l = [5] := by
        unfold l
        rw [h5, if_neg (by decide)]
      unfold m
      rw [hl]
      rfl
  · intro replies
    refine ⟨fun hfull => ⟨_, rfl, (ite_ready h).trans (if_pos hfull)⟩, fun hroom hbad => ⟨_, rfl, spdmKeyExchange_refused h hroom hbad⟩,
      fun role hroom hok hrole => ⟨fun hfield hmaker => ⟨_, rfl, ?_⟩, fun hrole' => ?_⟩⟩
    · exact (spdmKeyExchange_opens h hroom hok hrole).trans (if_pos (by rw [Bool.and_eq_true, decide_eq_true_iff, decide_eq_true_iff]; exact ⟨hfield, hmaker⟩))
    · have hrun := (spdmKeyExchange_opens h hroom hok hrole).trans (if_neg (by
        rw [Bool.and_eq_true, decide_eq_true_iff, decide_eq_true_iff]; exact fun hn => hrole'.elim hn.1 hn.2))
      exact ⟨_, congrArg Host.Outcome.next hrun, rfl, rfl, rfl, FMap.get?_set_self .., fun k hk => FMap.get?_set_other _ _ _ _ hk⟩
  · intro replies ended
    refine ⟨fun hnone => ⟨fun ok => ⟨_, rfl, spdmFinish_none ok h hnone⟩, ⟨_, rfl, ?_⟩, ⟨_, rfl, ?_⟩⟩, fun x hx => ⟨⟨_, rfl, ?_⟩, ?_, fun hfin ok => ⟨_, rfl, ?_⟩,
      fun hfin => ?_, fun hfin => ?_⟩⟩
    · exact (spdmEnd_eq h).trans (if_neg (by rw [hnone]; decide))
    · exact (spdmHeartbeat_eq h).trans (by rw [hnone]; rfl)
    · exact (spdmHeartbeat_eq h).trans (by rw [hx]; rfl)
    · exact ⟨_, congrArg Host.Outcome.next ((spdmEnd_eq h).trans (if_pos (by rw [hx]; rfl))), endSession_ended s n .ended⟩
    · exact (spdmFinish_some ok h hx).trans (if_pos hfin)
    · have hrun := (spdmFinish_some false h hx).trans ((if_neg (by rw [hfin]; decide)).trans (if_neg (by decide)))
      exact ⟨_, congrArg Host.Outcome.next hrun, endSession_ended s n .invalidRequest⟩
    · have hrun := (spdmFinish_some true h hx).trans ((if_neg (by rw [hfin]; decide)).trans (if_pos rfl))
      exact ⟨_, congrArg Host.Outcome.next hrun, rfl, rfl, FMap.get?_set_self .., fun k hk => FMap.get?_set_other _ _ _ _ hk⟩

end Sys2Proof.Machine

/-! PROOFS. Writes to the dictionary: responses, the audit record of an accepted write, and its effect. -/

namespace Sys2Proof.Machine

/-! ## Responses -/

section Responses

variable {s : State} {who : Requester} {b : List Byte} {st : Status} {data : List Byte}

/-- What a response leaves of the telemetry: everything but the response and the window's registers. -/
structure ResponseOnly (s t : State) : Prop where
  only : Only [.tel] s t
  staged : t.tel.staged = s.tel.staged
  subscribers : t.tel.subscribers = s.tel.subscribers
  busy : t.tel.busy = s.tel.busy
  shadow : t.tel.shadow = s.tel.shadow
  held : t.tel.heldWrites = s.tel.heldWrites
  alarms : t.tel.alarms = s.tel.alarms

theorem ResponseOnly.refl (s : State) : ResponseOnly s s := ⟨.self s, rfl, rfl, rfl, rfl, rfl, rfl⟩

theorem fdpReply_responseOnly (s : State) (path : Path) (header : List Byte) (st : Status) (data : List Byte) :
    ResponseOnly s (fdpReply s path header st data) := by
  cases path with
  | bar0 => exact ⟨fdpReply_only .., rfl, rfl, rfl, rfl, rfl, rfl⟩
  | pcie => exact ⟨fdpReply_only .., rfl, rfl, rfl, rfl, rfl, rfl⟩
  | i3c => exact ⟨fdpReply_only .., rfl, rfl, rfl, rfl, rfl, rfl⟩

theorem replyWrite_responseOnly (s : State) (reply : Option Reply) (st : Status) : ResponseOnly s (replyWrite s reply st) := by
  cases reply with
  | none => exact .refl s
  | some r => exact fdpReply_responseOnly ..

theorem fdpReply_out (s : State) (path : Path) (header : List Byte) (st : Status) (data : List Byte) :
    FMap.get? (fdpReply s path header st data).tel.fdpOut (pathNumber path) = some (slice header 0 14 ++ toLe 2 st ++ data) := by
  cases path with
  | bar0 => exact FMap.get?_set_self ..
  | pcie => exact FMap.get?_set_self ..
  | i3c => exact FMap.get?_set_self ..

theorem fdpReply_replied (s : State) (who : Requester) (b : List Byte) (st : Status) (data : List Byte) :
    Replied (fdpReply s who.path b st data) who b st data := fdpReply_out ..

/-- A response is given on the header of its request. -/
theorem replyWrite_replied (s : State) (who : Requester) (h : 16 ≤ b.length) (st : Status) :
    Replied (replyWrite s (some ⟨who.path, slice b 0 16⟩) st) who b st [] := by
  refine (fdpReply_out s who.path (slice b 0 16) st []).trans ?_
  have hhead : slice b 0 16 = b.take 16 := by
    have hlen : 16 - (b.take 16).length = 0 := by rw [List.length_take]; omega
    unfold slice
    rw [List.drop_zero]
    dsimp only
    rw [hlen]
    exact List.append_nil _
  have hslice : slice (b.take 16) 0 14 = slice b 0 14 := by
    unfold slice
    rw [List.drop_zero, List.drop_zero, List.take_take]
    rfl
  rw [hhead, hslice]

end Responses

/-! ## A write is taken -/

section Write

variable {s u t : State} {role : Role} {who : Option Nat} {index sub : Nat} {v : DVal} {reply : Option Reply}

theorem writeEntry_refuses (hserved : served s = true) (hidle : FMap.has s.tel.busy (dkey index sub) = false ∨ index = 0x2000)
    (hst : writeStatus s role who index sub v ≠ 0) :
    writeEntry s role who index sub v reply = replyWrite (drawn s 1) reply (writeStatus s role who index sub v) := by
  unfold writeEntry
  rw [if_neg (by rw [hserved]; decide), if_neg (by rw [Bool.and_eq_true, decide_eq_true_iff]; rintro ⟨hbusy, hindex⟩; simp_all)]
  exact if_pos hst

theorem writeEntry_takes (hserved : served s = true) (hidle : FMap.has s.tel.busy (dkey index sub) = false)
    (hst : writeStatus s role who index sub v = 0) : writeEntry s role who index sub v reply = applyWrite s role index sub v reply := by
  unfold writeEntry
  rw [if_neg (by rw [hserved]; decide), if_neg (by rw [hidle, Bool.false_and]; decide)]
  exact if_neg (not_not.mpr hst)

/-- The state of an accepted write behind its effect: it waits, or is answered. -/
def writeEnded (r : State × Bool) (key : Nat) (reply : Option Reply) : State :=
  if r.2 then { r.1 with tel := { r.1.tel with busy := FMap.set r.1.tel.busy key reply } } else replyWrite r.1 reply 0

/-- The write's record stands in the audit log, and nothing else has changed. -/
structure Audited (s u : State) (role : Role) (index sub : Nat) : Prop where
  recorded : Recorded s u role index sub
  kept : ∀ k, k ≠ dkey 0x8300 1 → KeyKept k s u
  only : Only [.dict, .audit] s u

theorem recorded_of_kept (h : Recorded s u role index sub) (hcount : KeyKept (dkey 0x8300 1) u t) (haudit : t.audit = u.audit) :
    Recorded s t role index sub := by
  obtain ⟨hnum, hrecord⟩ := h
  exact ⟨hcount.dnum.trans hnum, by rw [haudit]; exact hrecord⟩

theorem auditWrite_audited (old new : DVal) (hroom : AuditRoom s) (hindex : index < 2 ^ 16) (hsub : sub < 2 ^ 8) :
    Audited s (auditWrite s role index sub old new) role index sub := by
  obtain ⟨hrecorded, hkept, hframe⟩ := auditWrite_of_room s role index sub old new hroom hindex hsub
  refine ⟨hrecorded, fun k hk => hkept k (by exact List.not_mem_nil) hk, ?_⟩
  have hall := auditWrite_only s role index sub old new
  generalize auditWrite s role index sub old new = u at hframe hall
  rw [hframe]
  exact .mono (by rfl) <| (setDict_only s u.dict).trans (setAudit_only _ u.audit)

theorem auditExempt_other (h : index ≠ 0x8300) : auditExempt index sub = false := by
  unfold auditExempt
  rw [decide_eq_false h]
  rfl

theorem auditLater_other (h : index ≠ 0x2000) (h' : index ≠ 0x8100) : auditLater index = false := by
  unfold auditLater
  rw [decide_eq_false h, decide_eq_false h']
  rfl

/-- An accepted write with its record first. -/
theorem applyWrite_audits (reply : Option Reply) (hroom : AuditRoom s) (hexempt : auditExempt index sub = false) (hlater : auditLater index = false)
    (hindex : index < 2 ^ 16) (hsub : sub < 2 ^ 8) : ∃ u, Audited s u role index sub
      ∧ applyWrite s role index sub v reply = writeEnded (writeEffect u role index sub (withoutReserved index sub v)) (dkey index sub) reply := by
  obtain ⟨-, -, hhold⟩ := id hroom
  refine ⟨_, auditWrite_audited (dget s (dkey index sub)) (withoutReserved index sub v) hroom hindex hsub, ?_⟩
  unfold applyWrite
  extract_lets v1 s1
  have hs1 : s1 = auditWrite s role index sub (dget s (dkey index sub)) v1 := if_neg (by rw [hexempt, hlater, hhold]; decide)
  rw [hs1]
  rfl

/-- An accepted write without a record of its own. -/
theorem applyWrite_unaudited (s : State) (role : Role) (v : DVal) (reply : Option Reply) (h : (auditExempt index sub || auditLater index) = true) :
    applyWrite s role index sub v reply = writeEnded (writeEffect s role index sub (withoutReserved index sub v)) (dkey index sub) reply := by
  unfold applyWrite
  extract_lets v1 s1
  have hs1 : s1 = s := if_pos (by rw [h]; rfl)
  rw [hs1]
  rfl

/-! ## Configuration entries -/

theorem withoutReserved_num {n : Nat} (hA : ¬(index = 0xA000 ∧ sub = 1)) (h7 : ¬(index = 0x7200 ∧ sub = 4)) :
    withoutReserved index sub (.num n) = .num n := by
  unfold withoutReserved
  dsimp only
  rw [if_neg (by simpa using hA), if_neg (by simpa using h7)]

theorem withoutReserved_config (v : DVal) (hlow : index < 0x3000) : withoutReserved index sub v = v := by
  cases v with
  | num n => exact withoutReserved_num (by omega) (by omega)
  | blob b => exact if_neg (by rw [Bool.and_eq_true, decide_eq_true_iff, decide_eq_true_iff]; omega)

theorem writeEffect_config (s : State) (role : Role) (v : DVal) (hhigh : 0x2100 ≤ index) (hlow : index < 0x3000) (hgpio : ¬(index = 0x2600 ∧ sub ≤ 8)) :
    writeEffect s role index sub v = (storeEntry s role index sub v, false) := by
  unfold writeEffect
  dsimp only
  rw [if_neg (by omega), if_neg (by omega), if_neg (by simpa using hgpio), if_neg (by simp only [Bool.and_eq_true, decide_eq_true_eq]; omega), if_neg (by simp only [Bool.and_eq_true, decide_eq_true_eq]; omega), if_neg (by simp only [Bool.and_eq_true, decide_eq_true_eq]; omega),
    if_neg (by simp only [Bool.and_eq_true, decide_eq_true_eq]; omega), if_neg (by simp only [Bool.and_eq_true, decide_eq_true_eq]; omega), if_neg (by omega), if_neg (by simp only [Bool.and_eq_true, decide_eq_true_eq]; omega), if_neg (by simp only [Bool.and_eq_true, decide_eq_true_eq]; omega), if_neg (by simp only [Bool.and_eq_true, decide_eq_true_eq]; omega),
    if_neg (by omega), if_neg (by simp only [Bool.and_eq_true, decide_eq_true_eq]; omega)]

theorem markPending_keyKept {k : Nat} (s : State) (role : Role) (key : Nat) (h : k ≠ dkey 0x2000 5) : KeyKept k s (markPending s role key) := by
  unfold markPending
  refine .ite ?_ (.refl s)
  extract_lets p src s1
  exact .ite (KeyKept.refl s) (KeyKept.dset s1 _ _ _ h)

/-- An entry stored has its value, and no other entry changes but the commit state. -/
theorem storeEntry_entries (s : State) (role : Role) (v : DVal) (h : dkey index sub ≠ dkey 0x2000 5) :
    dget (storeEntry s role index sub v) (dkey index sub) = v
      ∧ ∀ k, k ≠ dkey index sub → k ≠ dkey 0x2000 5 → KeyKept k s (storeEntry s role index sub v) := by
  refine ⟨?_, fun k hk hcommit => ?_⟩
  · exact Eq.trans (markPending_keyKept _ role (dkey index sub) h) (dget_dput_self ..)
  · exact KeyKept.trans (dget_dput_other _ _ _ _ hk) (markPending_keyKept _ role (dkey index sub) hcommit)

/-- An accepted write of a configuration entry. -/
theorem applyWrite_config (reply : Option Reply) (hroom : AuditRoom s) (hhigh : 0x2100 ≤ index) (hlow : index < 0x3000)
    (hgpio : ¬(index = 0x2600 ∧ sub ≤ 8)) (hsub : sub < 256) : ∃ u,
      applyWrite s role index sub v reply = replyWrite u reply 0 ∧ Recorded s u role index sub ∧ dget u (dkey index sub) = v
      ∧ (∀ k, k ≠ dkey index sub → k ≠ dkey 0x2000 5 → k ≠ dkey 0x8300 1 → KeyKept k s u) ∧ Only [.dict, .audit, .cfg] s u := by
  obtain ⟨u, haudited, hrun⟩ := applyWrite_audits (v := v) (role := role) (index := index) (sub := sub) reply hroom (auditExempt_other (by omega))
    (auditLater_other (by omega) (by omega)) (by omega) hsub
  rw [withoutReserved_config v hlow, writeEffect_config u role v hhigh hlow hgpio] at hrun
  obtain ⟨hvalue, hkept⟩ := storeEntry_entries (index := index) (sub := sub) u role v (by unfold dkey; omega)
  have hstore := storeEntry_only u role index sub v
  have hend : applyWrite s role index sub v reply = replyWrite (storeEntry u role index sub v) reply 0 := hrun
  refine ⟨storeEntry u role index sub v, hend, ?_, hvalue, fun k hk hcommit hcount => ?_, .mono (by rfl) <| haudited.only.trans hstore⟩
  · exact recorded_of_kept haudited.recorded (hkept _ (by unfold dkey; omega) (by unfold dkey; omega)) (hstore.same .audit (by decide))
  · exact (haudited.kept k hcount).trans (hkept k hk hcommit)

end Write

end Sys2Proof.Machine

/-! PROOFS. O41: dictionary requests and their responses. -/

namespace Sys2Proof.Machine

section Requests

variable {s s₀ : State} {who : Requester} {b : List Byte} {op : Nat} {run : State → Requester → List Byte → State}

/-! ## A request arrives -/

theorem request_eq (s₀ : State) (who : Requester) (b : List Byte) (op : Nat) (run : State → Requester → List Byte → State) :
    request s₀ who b op run
      = if (b.length < 16 || !reaches (settleAll s₀) who || (fOp b ≠ op && 1 ≤ fOp b && fOp b ≤ 6)) = true then settleAll s₀
        else if (who.path = .bar0 && (settleAll s₀).tel.dictBusy) = true then bump (settleAll s₀) 0x7000 4 1
        else if fdpHeaderOk who b = true then run (served0 (settleAll s₀) who b) who b
        else fdpReply (served0 (settleAll s₀) who b) who.path b 0x0D07 [] := rfl

/-- The request's bytes reach a server of its operation. -/
def requestHere (s : State) (who : Requester) (b : List Byte) (op : Nat) : Bool :=
  decide (16 ≤ b.length) && reaches s who && (fOp b = op || fOp b = 0 || 6 < fOp b)

theorem requestHere_iff (hop : 1 ≤ op) (hop' : op ≤ 6) :
    requestHere s who b op = !(b.length < 16 || !reaches s who || (fOp b ≠ op && 1 ≤ fOp b && fOp b ≤ 6)) := by
  have hlen : decide (16 ≤ b.length) = !decide (b.length < 16) := by
    rw [← decide_not]
    exact decide_eq_decide.mpr Nat.not_lt.symm
  have hfop : (decide (fOp b = op) || decide (fOp b = 0) || decide (6 < fOp b)) = !(decide (fOp b ≠ op) && decide (1 ≤ fOp b) && decide (fOp b ≤ 6)) := by
    rw [Bool.eq_iff_iff]
    simp only [Bool.or_eq_true, Bool.not_eq_true', Bool.and_eq_false_iff, decide_eq_true_eq, decide_eq_false_iff_not]
    omega
  unfold requestHere
  rw [hlen, hfop, Bool.not_or, Bool.not_or, Bool.not_not]

theorem request_elsewhere (hop : 1 ≤ op) (hop' : op ≤ 6) (h : requestHere (settleAll s₀) who b op = false) : request s₀ who b op run = settleAll s₀ := by
  rw [requestHere_iff hop hop', Bool.not_eq_false'] at h
  exact (request_eq ..).trans (if_pos h)

theorem request_here (hop : 1 ≤ op) (hop' : op ≤ 6) (h : requestHere (settleAll s₀) who b op = true) : request s₀ who b op run
    = if (who.path = .bar0 && (settleAll s₀).tel.dictBusy) = true then bump (settleAll s₀) 0x7000 4 1
      else if fdpHeaderOk who b = true then run (served0 (settleAll s₀) who b) who b
      else fdpReply (served0 (settleAll s₀) who b) who.path b 0x0D07 [] := by
  rw [requestHere_iff hop hop', Bool.not_eq_true'] at h
  exact (request_eq ..).trans (if_neg (by rw [h]; decide))

theorem window_free (h : who.path = .bar0 → s.tel.dictBusy = false) : ¬(who.path = .bar0 && s.tel.dictBusy) = true := by
  rw [Bool.and_eq_true, decide_eq_true_iff]
  rintro ⟨hpath, hbusy⟩
  rw [h hpath] at hbusy
  cases hbusy

theorem request_runs (hop : 1 ≤ op) (hop' : op ≤ 6) (h : RequestArrives (settleAll s₀) who b op) :
    request s₀ who b op run = run (served0 (settleAll s₀) who b) who b := by
  obtain ⟨hlen, hreach, hfop, hfree, hheader⟩ := h
  have hhere : requestHere (settleAll s₀) who b op = true := by
    unfold requestHere
    rw [decide_eq_true hlen, hreach, hfop, decide_eq_true rfl]
    rfl
  exact (request_here hop hop' hhere).trans ((if_neg (window_free hfree)).trans (if_pos hheader))

theorem served0_responseOnly (s : State) (who : Requester) (b : List Byte) : ResponseOnly s (served0 s who b) := by
  unfold served0
  split
  · exact ⟨setTel_only _ _, rfl, rfl, rfl, rfl, rfl, rfl⟩
  · exact .refl s

theorem ResponseOnly.trans {s t u : State} (h : ResponseOnly s t) (g : ResponseOnly t u) : ResponseOnly s u :=
  ⟨h.only.andThen g.only, g.staged.trans h.staged, g.subscribers.trans h.subscribers, g.busy.trans h.busy, g.shadow.trans h.shadow,
    g.held.trans h.held, g.alarms.trans h.alarms⟩

/-- A request of an operation by what arrives of it. -/
theorem request_arrival {c : Instr} (hexec : exec c s₀ = .next (request s₀ who b op run)) (hop : 1 ≤ op) (hop' : op ≤ 6) : let s := settleAll s₀
    (requestHere s who b op = false → Runs c s₀ fun t => t = s)
      ∧ (requestHere s who b op = true → who.path = .bar0 → s.tel.dictBusy = true →
          Runs c s₀ fun t => t = { s with dict := t.dict } ∧ Counted s t 0x7000 4 1)
      ∧ (requestHere s who b op = true → (who.path = .bar0 → s.tel.dictBusy = false) → fdpHeaderOk who b = false →
          Runs c s₀ fun t => t = { s with tel := t.tel } ∧ Replied t who b 0x0D07 []) := by
  intro s
  refine ⟨fun hhere => ⟨_, hexec, request_elsewhere hop hop' hhere⟩, fun hhere hpath hbusy => ?_, fun hhere hfree hheader => ?_⟩
  · have hrun : request s₀ who b op run = bump s 0x7000 4 1 :=
      (request_here hop hop' hhere).trans (if_pos (by rw [hpath, hbusy, decide_eq_true rfl]; rfl))
    exact ⟨_, hexec.trans (congrArg _ hrun), (bump_only ..).eq_overlay, dnum_bump_self ..⟩
  · have hrun : request s₀ who b op run = fdpReply (served0 s who b) who.path b 0x0D07 [] :=
      (request_here hop hop' hhere).trans ((if_neg (window_free hfree)).trans (if_neg (by rw [hheader]; decide)))
    exact ⟨_, hexec.trans (congrArg _ hrun), ((served0_responseOnly s who b).trans (fdpReply_responseOnly ..)).only.eq_overlay, fdpReply_replied ..⟩

/-- A request that its operation answers changes the telemetry alone. -/
theorem request_answers {c : Instr} {st : Status} {data : List Byte} (hexec : exec c s₀ = .next (request s₀ who b op run)) (hop : 1 ≤ op) (hop' : op ≤ 6)
    (harrives : RequestArrives (settleAll s₀) who b op)
    (hrun : run (served0 (settleAll s₀) who b) who b = fdpReply (served0 (settleAll s₀) who b) who.path b st data) :
    Runs c s₀ fun t => t = { settleAll s₀ with tel := t.tel } ∧ Replied t who b st data :=
  ⟨_, hexec.trans (congrArg _ ((request_runs hop hop' harrives).trans hrun)),
    ((served0_responseOnly ..).trans (fdpReply_responseOnly ..)).only.eq_overlay, fdpReply_replied ..⟩

end Requests

/-! ## GET -/

section Get

variable {s : State} {who : Requester} {b : List Byte}

theorem fdpGet_refused (h : getStatus s who b ≠ 0) : fdpGet s who b = fdpReply s who.path b (getStatus s who b) [] := if_pos h

theorem fdpGet_found (h : getStatus s who b = 0) : fdpGet s who b = afterGet (fdpReply s who.path b 0 (getData s b)) (fIndex b) (fSub b) :=
  if_neg (not_not.mpr h)

theorem afterGet_law (s : State) (index sub : Nat) : Only [.cfg, .sec] s (afterGet s index sub) ∧ (afterGet s index sub).tel = s.tel
    ∧ (afterGet s index sub).sec = { s.sec with nonces := s.sec.nonces + if index = 0x8200 ∧ sub = 4 then 1 else 0 } := by
  have honly : Only [.cfg, .sec] s (afterGet s index sub) := .mono (by rfl) <| afterGet_only s index sub
  refine ⟨honly, honly.same .tel (by decide), ?_⟩
  unfold afterGet
  split
  · next h =>
    rw [Bool.and_eq_true, decide_eq_true_iff, decide_eq_true_iff] at h
    have hnonce : ¬(index = 0x8200 ∧ sub = 4) := by omega
    rw [if_neg hnonce]
    rfl
  split
  · next h =>
    rw [Bool.and_eq_true, decide_eq_true_iff, decide_eq_true_iff] at h
    rw [if_pos h]
  · next h =>
    rw [Bool.and_eq_true, decide_eq_true_iff, decide_eq_true_iff] at h
    rw [if_neg h]
    rfl

end Get

/-! ## NEXT -/

section Next

variable {s : State} {who : Requester} {b : List Byte}

/-- The requester may walk from the entry. -/
def nextAllowed (s : State) (who : Requester) (b : List Byte) : Bool :=
  (roleOf s who).isSome || (0x1000 ≤ fIndex b && fIndex b < 0x2000) || (droneOnly s && reducedEntry (fIndex b) (fSub b))

theorem fdpNext_barred (h : nextAllowed s who b = false) : fdpNext s who b = fdpReply s who.path b 0x0706 [] :=
  if_pos (by rw [show ((roleOf s who).isSome || (0x1000 ≤ fIndex b && fIndex b < 0x2000) || (droneOnly s && reducedEntry (fIndex b) (fSub b))) = false from h]; rfl)

theorem fdpNext_allowed (h : nextAllowed s who b = true) : fdpNext s who b = if fLength b ≠ 0 then fdpReply s who.path b 0x0D02 []
    else match entryNext (dkey (fIndex b) (fSub b)) with
      | none => fdpReply s who.path b 0x0D01 []
      | some k => fdpReply s who.path b 0 (toLe 2 (k / 256) ++ toLe 1 (k % 256) ++ [0]) :=
  if_neg (by rw [show ((roleOf s who).isSome || (0x1000 ≤ fIndex b && fIndex b < 0x2000) || (droneOnly s && reducedEntry (fIndex b) (fSub b))) = true from h]; decide)

end Next

/-! ## SUBSCRIBE and SNAPSHOT -/

section Subscribe

variable {s : State} {who : Requester} {b : List Byte} {role : Role} {n : Nat}

theorem fdpSubscribe_barred (h : roleOf s who = none ∨ who.session = none ∨ roleOf s who = some .maker) :
    fdpSubscribe s who b = fdpReply s who.path b 0x0706 [] := by
  unfold fdpSubscribe
  dsimp only
  split
  · next r m hrole hsession =>
    have hmaker : r = .maker := by
      rcases h with h | h | h
      · rw [hrole] at h
        cases h
      · rw [hsession] at h
        cases h
      · exact Option.some.inj (hrole.symm.trans h)
    exact if_pos hmaker
  · rfl

theorem fdpSubscribe_role (hrole : roleOf s who = some role) (hsession : who.session = some n) (hmaker : role ≠ .maker) :
    fdpSubscribe s who b = if fLength b ≠ 1 then fdpReply s who.path b 0x0D02 []
      else if 1 < field (fData b) 0 1 then fdpReply s who.path b 0x0D03 []
      else if field (fData b) 0 1 = 0 then fdpReply (putSubscribers s (s.tel.subscribers.filter (· ≠ n))) who.path b 0 []
      else if s.tel.subscribers.contains n then fdpReply s who.path b 0 []
      else if 8 ≤ s.tel.subscribers.length then fdpReply s who.path b 0x0D08 []
      else fdpReply (putSubscribers s (s.tel.subscribers ++ [n])) who.path b 0 [] := by
  unfold fdpSubscribe
  rw [hrole, hsession]
  exact if_neg hmaker

/-- The subscribers have changed, and their count with them. -/
theorem putSubscribers_replied (s : State) (l : List Nat) (who : Requester) (b : List Byte) :
    let t := fdpReply (putSubscribers s l) who.path b 0 []
    Only [.tel, .dict] s t ∧ t.tel.subscribers = l ∧ dnum t 0x7000 2 = t.tel.subscribers.length := by
  intro t
  have hput : Only [.tel, .dict] s (putSubscribers s l) := .mono (by rfl) <| (setTel_only s _).trans (dset_only ..)
  have hreply := fdpReply_responseOnly (putSubscribers s l) who.path b 0 []
  have hsubscribers : t.tel.subscribers = l := hreply.subscribers
  refine ⟨.mono (by rfl) <| hput.trans hreply.only, hsubscribers, ?_⟩
  rw [hsubscribers]
  exact (hreply.only.dnum (by decide) _ _).trans (dnum_dset_self ..)

/-- The snapshot holds every counter as it stands. -/
theorem latch_shadow (s : State) {key : Nat} (hlow : 0x600000 ≤ key) (hhigh : key < 0x700000) (hbeat : key ≠ 0x6F0001) :
    FMap.getD (latch s).tel.shadow key (entryDefault key) = dget (latch s) key := by
  have hshadow : FMap.get? (latch s).tel.shadow key = FMap.get? (latch s).dict key :=
    (FMap.get?_set_other _ _ _ _ hbeat).trans
      (FMap.get?_filter_eq _ (fun j => 0x600000 ≤ j && j < 0x700000) key (by rw [decide_eq_true hlow, decide_eq_true hhigh]; rfl))
  unfold dget FMap.getD
  rw [hshadow]

theorem latch_beat (s : State) : dnum (latch s) 0x6000 1 = s.now := dnum_dset_self ..

end Subscribe

/-! ## SET -/

section Set

variable {s : State} {who : Requester} {b : List Byte} {e : Entry} {role : Role} {n index sub : Nat} {v : DVal} {reply : Option Reply}

theorem served_of_reaches (h : reaches s who = true) : served s = true := by
  unfold reaches at h
  unfold served
  rw [Bool.and_eq_true, Bool.or_eq_true, Bool.and_eq_true, Bool.and_eq_true] at h
  rw [Bool.or_eq_true]
  exact h.2.imp id fun h => h.1.1

theorem fdpSet_none (h : entryAt (fIndex b) (fSub b) = none) : fdpSet s who b
    = fdpReply s who.path b (if accessStatus s who (fIndex b) (fSub b) true = 0 then 0x0D01 else accessStatus s who (fIndex b) (fSub b) true) [] := by
  unfold fdpSet
  rw [h]

theorem fdpSet_barred (he : entryAt (fIndex b) (fSub b) = some e) (h : accessStatus s who (fIndex b) (fSub b) true ≠ 0) :
    fdpSet s who b = fdpReply s who.path b (accessStatus s who (fIndex b) (fSub b) true) [] := by
  unfold fdpSet
  rw [he]
  exact if_pos h

theorem fdpSet_scalar (he : entryAt (fIndex b) (fSub b) = some e) (h : accessStatus s who (fIndex b) (fSub b) true = 0) (hwidth : e.ty.width ≠ 0) :
    fdpSet s who b = if (fOffset b ≠ 0 || fLength b ≠ e.ty.width) = true then fdpReply s who.path b 0x0D02 []
      else writeEntry (endStaged s ((roleOf s who).getD .installer) (requesterNumber who) (fIndex b) (fSub b) (.num (leNat (fData b))))
        ((roleOf s who).getD .installer) (requesterNumber who) (fIndex b) (fSub b) (.num (leNat (fData b))) (some ⟨who.path, slice b 0 16⟩) := by
  unfold fdpSet
  rw [he]
  exact (if_neg (not_not.mpr h)).trans (if_pos hwidth)

theorem fdpSet_anonymous (he : entryAt (fIndex b) (fSub b) = some e) (h : accessStatus s who (fIndex b) (fSub b) true = 0) (hwidth : e.ty.width = 0)
    (hwho : requesterNumber who = none) : fdpSet s who b = fdpReply s who.path b 0x0706 [] := by
  unfold fdpSet
  rw [he]
  refine (if_neg (not_not.mpr h)).trans ((if_neg (not_not.mpr hwidth)).trans ?_)
  rw [hwho]

theorem fdpSet_segment (he : entryAt (fIndex b) (fSub b) = some e) (h : accessStatus s who (fIndex b) (fSub b) true = 0) (hwidth : e.ty.width = 0)
    (hwho : requesterNumber who = some n) : fdpSet s who b = fdpSegment s who n ((roleOf s who).getD .installer) e b := by
  unfold fdpSet
  rw [he]
  refine (if_neg (not_not.mpr h)).trans ((if_neg (not_not.mpr hwidth)).trans ?_)
  rw [hwho]

theorem fdpSegment_late (h : segmentBase s n b = none) : fdpSegment s who n role e b = fdpReply (dropStaged s n) who.path b 0x0D05 [] := by
  unfold fdpSegment
  rw [h]

theorem fdpSegment_base {base : List Byte} (h : segmentBase s n b = some base) : fdpSegment s who n role e b
    = if e.maxLen < (base ++ fData b).length then fdpReply s who.path b (valueStatus (fIndex b) (fSub b) (.blob (base ++ fData b))) []
      else if fLast b = true then
        writeEntry (endStaged s role (some n) (fIndex b) (fSub b) (.blob (base ++ fData b))) role (some n) (fIndex b) (fSub b) (.blob (base ++ fData b))
          (some ⟨who.path, slice b 0 16⟩)
      else if stagedByOther s (some n) (fIndex b) (fSub b) = true then fdpReply s who.path b 0x0D04 []
      else fdpReply { s with tel := { s.tel with
          staged := FMap.set s.tel.staged n { index := fIndex b, sub := fSub b, bytes := base ++ fData b, at_ := s.now } } } who.path b 0 [] := by
  unfold fdpSegment
  rw [h]

/-- A write that ends a staged value is checked as it was before: its own staged value does not stand in its way. -/
theorem writeStatus_dropStaged (s : State) (role : Role) (n index sub : Nat) (v : DVal) (hown : ∀ u : State, ownStatus u index sub v = 0) :
    writeStatus (dropStaged s n) role (some n) index sub v = writeStatus s role (some n) index sub v := by
  have hstaged : stagedByOther (dropStaged s n) (some n) index sub = stagedByOther s (some n) index sub := by
    unfold stagedByOther dropStaged FMap.erase
    rw [List.any_filter]
    refine congrArg (List.any _) (funext fun e => ?_)
    by_cases hn : e.1 = n
    · rw [hn, bne_self_eq_false, decide_eq_false (not_not.mpr rfl)]
      rfl
    · rw [bne_iff_ne.mpr hn, Bool.true_and]
  unfold writeStatus
  rw [hstaged, hown, hown]
  rfl

end Set

end Sys2Proof.Machine

/-! PROOFS. O41: SET as a write, and the dictionary's requests together. -/

namespace Sys2Proof.Machine

section SetWrites

variable {s s₀ : State} {who : Requester} {b : List Byte} {e : Entry} {role : Role} {req : Option Nat} {n index sub : Nat} {v : DVal}

theorem served_of_only {F : List StateField} {t : State} (h : Only F s t) (hpwr : .pwr ∉ F) (hdict : .dict ∉ F) : served t = served s := by
  unfold served isReady droneOnly isHold
  rw [h.same .pwr hpwr, h.dnum hdict]

theorem droneOnly_of_only {F : List StateField} {t : State} (h : Only F s t) (hpwr : .pwr ∉ F) (hdict : .dict ∉ F) : droneOnly t = droneOnly s := by
  unfold droneOnly isHold
  rw [h.same .pwr hpwr, h.dnum hdict]

theorem auditRoom_of_only {t : State} (h : Only [.tel] s t) (hroom : AuditRoom s) : AuditRoom t := by
  obtain ⟨hcount, hrun, hhold⟩ := hroom
  refine ⟨by rw [h.dnum (by decide)]; exact hcount, by rw [h.same .cfg (by decide)]; exact hrun, ?_⟩
  unfold isHold
  rw [h.dnum (by decide)]
  exact hhold

theorem ownStatus_config (s : State) (v : DVal) (hhigh : 0x2100 ≤ index) (hlow : index < 0x3000) : ownStatus s index sub v = 0 := by
  have htelemetry : telemetryStatus s index sub v.toNat = 0 := by
    unfold telemetryStatus
    dsimp only
    rw [if_neg (by simp only [Bool.and_eq_true, decide_eq_true_eq]; omega), if_neg (by simp only [Bool.and_eq_true, decide_eq_true_eq]; omega),
      if_neg (by simp only [Bool.and_eq_true, decide_eq_true_eq]; omega), if_neg (by simp only [Bool.and_eq_true, decide_eq_true_eq]; omega),
      if_neg (by simp only [Bool.and_eq_true, decide_eq_true_eq]; omega)]
  unfold ownStatus
  dsimp only
  rw [if_neg (by simp only [Bool.and_eq_true, decide_eq_true_eq]; omega), if_neg (by simp only [Bool.and_eq_true, decide_eq_true_eq]; omega),
    if_neg (by simp only [Bool.and_eq_true, decide_eq_true_eq]; omega), if_neg (by simp only [Bool.and_eq_true, decide_eq_true_eq]; omega),
    if_neg (by simp only [Bool.and_eq_true, decide_eq_true_eq]; omega), if_neg (by simp only [Bool.and_eq_true, decide_eq_true_eq]; omega),
    if_neg (by simp only [Bool.and_eq_true, decide_eq_true_eq]; omega), if_neg (by simp only [Bool.and_eq_true, decide_eq_true_eq]; omega),
    if_neg (by simp only [Bool.and_eq_true, decide_eq_true_eq]; omega), if_neg (by simp only [Bool.and_eq_true, decide_eq_true_eq]; omega), htelemetry]

theorem endStaged_refused (hidle : FMap.has s.tel.busy (dkey index sub) = false) (h : writeStatus s role req index sub v ≠ 0) :
    endStaged s role req index sub v = s := by
  unfold endStaged
  extract_lets waits
  have hwaits : waits = false := by
    unfold waits
    rw [hidle, Bool.false_and]
  cases req with
  | none => rfl
  | some n => exact if_neg (by rw [hwaits, Bool.false_or, decide_eq_true_iff]; exact h)

/-- A configuration write that is taken ends its requester's staged value, and is still taken. -/
theorem endStaged_config (hhigh : 0x2100 ≤ index) (hlow : index < 0x3000) (h : writeStatus s role req index sub v = 0) :
    Only [.tel] s (endStaged s role req index sub v) ∧ (endStaged s role req index sub v).tel.busy = s.tel.busy
      ∧ writeStatus (endStaged s role req index sub v) role req index sub v = 0 := by
  unfold endStaged
  extract_lets waits
  cases req with
  | none => exact ⟨.self s, rfl, h⟩
  | some n =>
    have hdrop : (if (waits || decide (writeStatus s role (some n) index sub v = 0)) = true then dropStaged s n else s) = dropStaged s n :=
      if_pos (by rw [h, decide_eq_true rfl, Bool.or_true])
    refine ⟨?_, ?_, ?_⟩
    · exact (congrArg (Only [.tel] s) hdrop).mpr (setTel_only s _)
    · exact (congrArg (fun u => u.tel.busy) hdrop).trans rfl
    · refine (congrArg (fun u => writeStatus u role (some n) index sub v) hdrop).trans ?_
      exact (writeStatus_dropStaged s role n index sub v fun u => ownStatus_config u v hhigh hlow).trans h

/-- A SET that its checks refuse leaves the staged values as they are. -/
theorem set_refused {st : Status} (hlen : 16 ≤ b.length) (hserved : served s = true) (hidle : FMap.has s.tel.busy (dkey index sub) = false)
    (hst : writeStatus s role req index sub v = st) (hne : st ≠ 0) :
    let t := writeEntry (endStaged s role req index sub v) role req index sub v (some ⟨who.path, slice b 0 16⟩)
    Only [.tel, .fresh] s t ∧ t.tel.staged = s.tel.staged ∧ Replied t who b st [] := by
  intro t
  have hrun : t = replyWrite (drawn s 1) (some ⟨who.path, slice b 0 16⟩) st := by
    unfold t
    rw [endStaged_refused hidle (by rw [hst]; exact hne), writeEntry_refuses hserved (.inl hidle) (by rw [hst]; exact hne), hst]
  rw [hrun]
  have hreply := replyWrite_responseOnly (drawn s 1) (some ⟨who.path, slice b 0 16⟩) st
  exact ⟨.mono (by rfl) <| (drawn_only s 1).trans hreply.only, hreply.staged, replyWrite_replied _ who hlen st⟩

/-- A SET of a configuration entry that its checks take. -/
theorem set_config (hlen : 16 ≤ b.length) (hserved : served s = true) (hidle : FMap.has s.tel.busy (dkey index sub) = false)
    (hroom : AuditRoom s) (hhigh : 0x2100 ≤ index) (hlow : index < 0x3000) (hgpio : ¬(index = 0x2600 ∧ sub ≤ 8)) (hsub : sub < 256)
    (hst : writeStatus s role req index sub v = 0) :
    let t := writeEntry (endStaged s role req index sub v) role req index sub v (some ⟨who.path, slice b 0 16⟩)
    dget t (dkey index sub) = v ∧ Replied t who b 0 [] ∧ Recorded s t role index sub := by
  intro t
  obtain ⟨hstaged, hbusy, hst'⟩ := endStaged_config hhigh hlow hst
  generalize hu : endStaged s role req index sub v = u at hstaged hbusy hst'
  have hserved' : served u = true := (served_of_only hstaged (by decide) (by decide)).trans hserved
  obtain ⟨w, hrun, hrecorded, hvalue, -, -⟩ := applyWrite_config (v := v) (role := role) (some ⟨who.path, slice b 0 16⟩)
    (auditRoom_of_only hstaged hroom) hhigh hlow hgpio hsub
  have htakes : t = replyWrite w (some ⟨who.path, slice b 0 16⟩) 0 := by
    unfold t
    rw [hu]
    exact (writeEntry_takes hserved' (by rw [hbusy]; exact hidle) hst').trans hrun
  rw [htakes]
  have honly := (replyWrite_responseOnly w (some ⟨who.path, slice b 0 16⟩) 0).only
  refine ⟨(honly.dget (by decide) _).trans hvalue, replyWrite_replied w who hlen 0, ?_⟩
  have hcount : dnum u 0x8300 1 = dnum s 0x8300 1 := hstaged.dnum (by decide) _ _
  unfold Recorded at hrecorded ⊢
  rw [hcount] at hrecorded
  rw [honly.dnum (by decide), honly.same .audit (by decide)]
  exact hrecorded

end SetWrites

/-! ## Timed events -/

section Timed

variable {s : State} {who : Requester} {n slot : Nat} {g : Staged}

theorem stagedTimeout_idle (h : ((requesterNumber who).all fun n => (stagedOf s n).isNone) = true) : stagedTimeout s who = s := by
  unfold stagedTimeout
  cases hwho : requesterNumber who with
  | none => rfl
  | some n =>
    rw [hwho, Option.all_some, Option.isNone_iff_eq_none] at h
    dsimp only
    rw [h]

theorem stagedTimeout_drops (hwho : requesterNumber who = some n) (hg : stagedOf s n = some g) :
    stagedTimeout s who = dropStaged { s with now := max s.now (g.at_ + 100000000) } n := by
  unfold stagedTimeout
  rw [hwho]
  dsimp only
  rw [hg]

theorem notifyRepeat_idle (h : (alarmAt s slot).state = 0 ∨ (alarmAt s slot).count = (alarmAt s slot).notifiedCount ∨ isReady s = false) :
    notifyRepeat s slot = s := by
  refine if_pos ?_
  rw [Bool.or_eq_true, Bool.or_eq_true, decide_eq_true_iff, decide_eq_true_iff, Bool.not_eq_true']
  exact or_assoc.mpr h

theorem notifyRepeat_again (hstate : (alarmAt s slot).state ≠ 0) (hcount : (alarmAt s slot).count ≠ (alarmAt s slot).notifiedCount)
    (hready : isReady s = true) : notifyRepeat s slot = notifyAll { s with now := max s.now ((alarmAt s slot).notifiedAt + 1000000) } slot := by
  refine if_neg ?_
  rw [Bool.or_eq_true, Bool.or_eq_true, decide_eq_true_iff, decide_eq_true_iff, hready]
  rintro ((h | h) | h)
  · exact hstate h
  · exact hcount h
  · cases h

/-- A notify goes to every subscriber, and is noted at its alarm alone. -/
theorem notifyAll_law (s : State) (slot : Nat) : (notifyAll s slot).now = s.now
    ∧ (notifyAll s slot).tel.notifies = s.tel.notifies ++ s.tel.subscribers.map (fun n => (n, slot))
    ∧ alarmAt (notifyAll s slot) slot = { alarmAt s slot with notifiedAt := s.now, notifiedCount := (alarmAt s slot).count }
    ∧ ∀ x, x ≠ slot → alarmAt (notifyAll s slot) x = alarmAt s x :=
  ⟨rfl, rfl, alarmAt_putAlarm_self .., fun _ hx => alarmAt_putAlarm_other _ _ hx⟩

end Timed

/-! ## The requests of a server -/

section Server

variable {s₀ : State} {who : Requester} {b : List Byte}

theorem leNat_lt (b : List Byte) : leNat b < 256 ^ b.length := by
  induction b with
  | nil => exact Nat.one_pos
  | cons x b ih =>
    unfold leNat
    rw [List.length_cons, Nat.pow_succ]
    have := x.isLt
    omega

theorem length_slice (b : List Byte) (off n : Nat) : (slice b off n).length = n := by
  unfold slice
  dsimp only
  rw [List.length_append, List.length_replicate, List.length_take]
  omega

theorem field_one_lt (b : List Byte) (off : Nat) : field b off 1 < 256 := by
  have h := leNat_lt (slice b off 1)
  rw [length_slice] at h
  exact h

/-- A SET that arrives, by the checks and the write that follows them. -/
theorem set_law (h : RequestArrives (settleAll s₀) who b 2) : let s := settleAll s₀
    let s0 := served0 s who b
    let i := fIndex b
    let k := fSub b
    let telOnly (t : State) : Prop := t = { s with tel := t.tel }
    let refused (st : Status) (t : State) : Prop := telOnly t ∧ Replied t who b st []
    let access := accessStatus s0 who i k true
    (entryAt i k = none → Runs (.set who b) s₀ (refused (if access = 0 then 0x0D01 else access)))
    ∧ ∀ e, entryAt i k = some e →
      (access ≠ 0 → Runs (.set who b) s₀ (refused access))
      ∧ (access = 0 → e.ty.width ≠ 0 → (fOffset b ≠ 0 ∨ fLength b ≠ e.ty.width) → Runs (.set who b) s₀ (refused 0x0D02))
      ∧ (access = 0 → e.ty.width ≠ 0 → fOffset b = 0 → fLength b = e.ty.width →
          let role := (roleOf s0 who).getD .installer
          let v : DVal := .num (leNat (fData b))
          (Runs (.set who b) s₀ fun t =>
            t = writeEntry (endStaged s0 role (requesterNumber who) i k v) role (requesterNumber who) i k v (some ⟨who.path, slice b 0 16⟩))
          ∧ (FMap.has s.tel.busy (dkey i k) = false → writeStatus s0 role (requesterNumber who) i k v ≠ 0 →
              Runs (.set who b) s₀ fun t => t = { s with tel := t.tel, fresh := t.fresh } ∧ t.tel.staged = s.tel.staged
                ∧ Replied t who b (writeStatus s0 role (requesterNumber who) i k v) [])
          ∧ (0x2100 ≤ i → i < 0x3000 → ¬(i = 0x2600 ∧ k ≤ 8) → FMap.has s.tel.busy (dkey i k) = false → AuditRoom s →
              writeStatus s0 role (requesterNumber who) i k v = 0 → Runs (.set who b) s₀ fun t =>
                dget t (dkey i k) = v ∧ Replied t who b 0 [] ∧ Recorded s t role i k))
      ∧ (access = 0 → e.ty.width = 0 → requesterNumber who = none → Runs (.set who b) s₀ (refused 0x0706))
      ∧ ∀ n, access = 0 → e.ty.width = 0 → requesterNumber who = some n →
        (segmentBase s0 n b = none → Runs (.set who b) s₀ fun t => refused 0x0D05 t ∧ stagedOf t n = none)
        ∧ ∀ base, segmentBase s0 n b = some base → let bytes := base ++ fData b
          (e.maxLen < bytes.length → Runs (.set who b) s₀ (refused (valueStatus i k (.blob bytes))))
          ∧ (bytes.length ≤ e.maxLen → fLast b = true → Runs (.set who b) s₀ fun t =>
              let role := (roleOf s0 who).getD .installer
              t = writeEntry (endStaged s0 role (some n) i k (.blob bytes)) role (some n) i k (.blob bytes) (some ⟨who.path, slice b 0 16⟩))
          ∧ (bytes.length ≤ e.maxLen → fLast b = false → stagedByOther s0 (some n) i k = true → Runs (.set who b) s₀ (refused 0x0D04))
          ∧ (bytes.length ≤ e.maxLen → fLast b = false → stagedByOther s0 (some n) i k = false → Runs (.set who b) s₀ fun t =>
              telOnly t ∧ Replied t who b 0 [] ∧ stagedOf t n = some { index := i, sub := k, bytes, at_ := s.now }) := by
  intro s s0 i k telOnly refused access
  have hwindow : ResponseOnly s s0 := served0_responseOnly s who b
  obtain ⟨hlen, hreach, -⟩ := id h
  have hserved : served s0 = true := (served_of_only hwindow.only (by decide) (by decide)).trans (served_of_reaches hreach)
  have hruns {t : State} (ht : fdpSet s0 who b = t) : exec (.set who b) s₀ = .next t :=
    congrArg _ ((request_runs (run := fdpSet) (by decide) (by decide) h).trans ht)
  have hrefused {st : Status} (ht : fdpSet s0 who b = fdpReply s0 who.path b st []) : Runs (.set who b) s₀ (refused st) :=
    request_answers (run := fdpSet) rfl (by decide) (by decide) h ht
  refine ⟨fun hnone => hrefused (fdpSet_none hnone), fun e he => ⟨fun haccess => hrefused (fdpSet_barred he haccess), fun haccess hwidth hbad => ?_,
    fun haccess hwidth hoffset hlength => ?_, fun haccess hwidth hwho => hrefused (fdpSet_anonymous he haccess hwidth hwho), fun n haccess hwidth hwho => ?_⟩⟩
  · exact hrefused ((fdpSet_scalar he haccess hwidth).trans (if_pos (by rw [Bool.or_eq_true, decide_eq_true_iff, decide_eq_true_iff]; exact hbad)))
  · intro role v
    have hset := (fdpSet_scalar he haccess hwidth).trans (if_neg (by
      rw [Bool.or_eq_true, decide_eq_true_iff, decide_eq_true_iff, hoffset, hlength]; exact fun hn => hn.elim (absurd rfl) (absurd rfl)))
    refine ⟨⟨_, hruns hset, rfl⟩, fun hidle hst => ?_, fun hhigh hlow hgpio hidle hroom hst => ?_⟩
    · obtain ⟨honly, hstaged, hreplied⟩ := set_refused (who := who) hlen hserved (by rw [hwindow.busy]; exact hidle) rfl hst
      exact ⟨_, hruns hset, (hwindow.only.trans honly).mono (G := [.tel, .fresh]) (by rfl) |>.eq_overlay, hstaged.trans hwindow.staged, hreplied⟩
    · obtain ⟨hvalue, hreplied, hrecorded⟩ := set_config (who := who) hlen hserved (by rw [hwindow.busy]; exact hidle)
        (auditRoom_of_only hwindow.only hroom) hhigh hlow hgpio (field_one_lt ..) hst
      unfold Recorded at hrecorded
      rw [hwindow.only.dnum (by decide)] at hrecorded
      exact ⟨_, hruns hset, hvalue, hreplied, hrecorded⟩
  · have hsegment := fdpSet_segment he haccess hwidth hwho
    refine ⟨fun hbase => ?_, fun base hbase => ?_⟩
    · have hreply := fdpReply_responseOnly (dropStaged s0 n) who.path b 0x0D05 []
      refine ⟨_, hruns (hsegment.trans (fdpSegment_late hbase)),
        ⟨(hwindow.only.andThen ((setTel_only s0 _).andThen hreply.only)).eq_overlay, fdpReply_replied ..⟩, ?_⟩
      unfold stagedOf
      rw [hreply.staged]
      exact FMap.get?_erase_self ..
    · intro bytes
      have hset := hsegment.trans (fdpSegment_base hbase)
      refine ⟨fun hlong => hrefused (hset.trans (if_pos hlong)), fun hfits hlast => ⟨_, hruns (hset.trans ((if_neg (Nat.not_lt.mpr hfits)).trans (if_pos hlast))), rfl⟩,
        fun hfits hlast hother => ?_, fun hfits hlast hother => ?_⟩
      · exact hrefused (hset.trans ((if_neg (Nat.not_lt.mpr hfits)).trans ((if_neg (by rw [hlast]; decide)).trans (if_pos hother))))
      · have hput : Only [.tel] s0 { s0 with tel := { s0.tel with
            staged := FMap.set s0.tel.staged n { index := i, sub := k, bytes, at_ := s0.now } } } := setTel_only s0 _
        generalize ht : ({ s0 with tel := { s0.tel with
            staged := FMap.set s0.tel.staged n { index := i, sub := k, bytes, at_ := s0.now } } } : State) = u at hput
        have hreply := fdpReply_responseOnly u who.path b 0 []
        refine ⟨fdpReply u who.path b 0 [], hruns (hset.trans ((if_neg (Nat.not_lt.mpr hfits)).trans ((if_neg (by rw [hlast]; decide)).trans
          ((if_neg (by rw [hother]; decide)).trans (congrArg (fun u => fdpReply u who.path b 0 []) ht))))),
          (hwindow.only.andThen (hput.andThen hreply.only)).eq_overlay, fdpReply_replied .., ?_⟩
        unfold stagedOf
        rw [hreply.staged, ← ht, ← hwindow.only.same .now (by decide)]
        exact FMap.get?_set_self ..

end Server

/-- Settles O41: each request by what arrives of it, then by its operation. -/
theorem dictionaryRequests : Obligations.DictionaryRequests := by
  refine ⟨fun s₀ who b => ?_, fun s₀ who b => ?_, fun s who h => ⟨_, rfl, stagedTimeout_idle h⟩, fun s who n g hwho hg => ?_, fun s slot => ⟨fun h => ?_, fun hstate hcount hready => ?_⟩⟩
  · simp only [List.forall_mem_cons]
    exact ⟨request_arrival (run := fdpGet) rfl (by decide) (by decide), request_arrival (run := fdpSet) rfl (by decide) (by decide),
      request_arrival (run := fdpInfo) rfl (by decide) (by decide), request_arrival (run := fdpNext) rfl (by decide) (by decide),
      request_arrival (run := fdpSubscribe) rfl (by decide) (by decide), request_arrival (run := fdpSnapshot) rfl (by decide) (by decide),
      List.forall_mem_nil _⟩
  · intro s s0 i k telOnly refused
    have hwindow : ResponseOnly s s0 := served0_responseOnly s who b
    refine ⟨fun h => ⟨fun hst => ?_, fun hst => ?_⟩, fun h => ?_, fun h => ?_, fun h => ?_, fun h => ?_, fun h => set_law h⟩
    · exact request_answers (run := fdpGet) rfl (by decide) (by decide) h (fdpGet_refused hst)
    · have hrun := (request_runs (run := fdpGet) (by decide) (by decide) h).trans (fdpGet_found hst)
      have hreply := fdpReply_responseOnly s0 who.path b 0 (getData s0 b)
      obtain ⟨hafter, htel, hsec⟩ := afterGet_law (fdpReply s0 who.path b 0 (getData s0 b)) i k
      refine ⟨_, congrArg Host.Outcome.next hrun, ?_, ?_, ?_⟩
      · exact ((hwindow.only.andThen hreply.only).trans hafter).mono (G := [.tel, .cfg, .sec]) (by rfl) |>.eq_overlay
      · unfold Replied
        rw [htel]
        exact fdpReply_replied ..
      · rw [hsec, hreply.only.same .sec (by decide), hwindow.only.same .sec (by decide)]
    · exact request_answers (run := fdpInfo) rfl (by decide) (by decide) h rfl
    · intro allowed
      have hnext : nextAllowed s0 who b = allowed := by
        unfold nextAllowed
        rw [droneOnly_of_only hwindow.only (by decide) (by decide)]
      refine ⟨fun hbar => ?_, fun hallow hlong => ?_, fun hallow hshort => ?_⟩
      · exact request_answers (run := fdpNext) rfl (by decide) (by decide) h (fdpNext_barred (hnext.trans hbar))
      · exact request_answers (run := fdpNext) rfl (by decide) (by decide) h ((fdpNext_allowed (hnext.trans hallow)).trans (if_pos hlong))
      · have hwalk := (fdpNext_allowed (hnext.trans hallow)).trans (if_neg (not_not.mpr hshort))
        cases hentry : entryNext (dkey i k) with
        | none =>
          rw [show entryNext (dkey (fIndex b) (fSub b)) = none from hentry] at hwalk
          exact request_answers (run := fdpNext) rfl (by decide) (by decide) h hwalk
        | some n =>
          rw [show entryNext (dkey (fIndex b) (fSub b)) = some n from hentry] at hwalk
          exact request_answers (run := fdpNext) rfl (by decide) (by decide) h hwalk
    · refine ⟨fun hbar => request_answers (run := fdpSubscribe) rfl (by decide) (by decide) h (fdpSubscribe_barred hbar),
        fun role n hrole hsession hmaker => ?_⟩
      have hrun := fdpSubscribe_role (b := b) hrole hsession hmaker
      have hanswers {st : Status} (ht : fdpSubscribe s0 who b = fdpReply s0 who.path b st []) : Runs (.subscribe who b) s₀ (refused st) :=
        request_answers (run := fdpSubscribe) rfl (by decide) (by decide) h ht
      have hputs {l : List Nat} (ht : fdpSubscribe s0 who b = fdpReply (putSubscribers s0 l) who.path b 0 []) :
          Runs (.subscribe who b) s₀ fun t => t = { s with tel := t.tel, dict := t.dict } ∧ Replied t who b 0 []
            ∧ t.tel.subscribers = l ∧ dnum t 0x7000 2 = t.tel.subscribers.length := by
        obtain ⟨honly, hlist, hcount⟩ := putSubscribers_replied s0 l who b
        exact ⟨_, congrArg Host.Outcome.next ((request_runs (run := fdpSubscribe) (by decide) (by decide) h).trans ht),
          (hwindow.only.trans honly).mono (G := [.tel, .dict]) (by rfl) |>.eq_overlay, fdpReply_replied .., hlist, hcount⟩
      have hsubscribers : s0.tel.subscribers = s.tel.subscribers := hwindow.subscribers
      refine ⟨fun hlen => hanswers (hrun.trans (if_pos hlen)), fun hlen hvalue => hanswers (hrun.trans ((if_neg (not_not.mpr hlen)).trans (if_pos hvalue))),
        fun hlen hvalue => ?_, fun hlen hvalue hmem => ?_, fun hlen hvalue hmem hroom => ?_, fun hlen hvalue hmem hfull => ?_⟩
      · rw [← hsubscribers]
        exact hputs (hrun.trans ((if_neg (not_not.mpr hlen)).trans ((if_neg (by rw [hvalue]; decide)).trans (if_pos hvalue))))
      all_goals
        have hone := hrun.trans ((if_neg (not_not.mpr hlen)).trans ((if_neg (by rw [hvalue]; decide)).trans (if_neg (by rw [hvalue]; decide))))
        rw [← hsubscribers] at hmem
      · exact hanswers (hone.trans (if_pos (List.contains_iff_mem.mpr hmem)))
      · rw [← hsubscribers] at hroom ⊢
        exact hputs (hone.trans ((if_neg (List.contains_iff_mem.not.mpr hmem)).trans (if_neg (Nat.not_le.mpr hroom))))
      · rw [← hsubscribers] at hfull
        exact hanswers (hone.trans ((if_neg (List.contains_iff_mem.not.mpr hmem)).trans (if_pos hfull)))
    · refine ⟨fun hnone => ?_, fun hsome hlong => ?_, fun hsome hshort => ?_⟩
      · exact request_answers (run := fdpSnapshot) rfl (by decide) (by decide) h (if_pos (by rw [hnone]; rfl))
      · exact request_answers (run := fdpSnapshot) rfl (by decide) (by decide) h
          ((if_neg (by rw [← Option.not_isSome, hsome]; decide)).trans (if_pos hlong))
      · have hrun : fdpSnapshot s0 who b = fdpReply (latch s0) who.path b 0 (toLe 8 s0.now) :=
          (if_neg (by rw [← Option.not_isSome, hsome]; decide)).trans (if_neg (not_not.mpr hshort))
        have hreply := fdpReply_responseOnly (latch s0) who.path b 0 (toLe 8 s0.now)
        have hnow : s0.now = s.now := hwindow.only.same .now (by decide)
        refine ⟨_, congrArg Host.Outcome.next ((request_runs (run := fdpSnapshot) (by decide) (by decide) h).trans hrun), ?_, ?_, ?_, fun key hlow hhigh hbeat => ?_⟩
        · exact (hwindow.only.trans ((latch_only s0).trans hreply.only)).mono (G := [.tel, .dict]) (by rfl) |>.eq_overlay
        · rw [← hnow]
          exact fdpReply_replied ..
        · rw [hreply.only.dnum (by decide), latch_beat, hnow]
        · rw [hreply.shadow, hreply.only.dget (by decide)]
          exact latch_shadow s0 hlow hhigh hbeat
  · exact ⟨_, congrArg Host.Outcome.next (stagedTimeout_drops hwho hg), rfl, rfl, FMap.get?_erase_self .., fun m hm => FMap.get?_erase_other _ _ _ hm⟩
  · exact ⟨_, rfl, notifyRepeat_idle h⟩
  · obtain ⟨hnow, hnotifies, hself, hother⟩ := notifyAll_law { s with now := max s.now ((alarmAt s slot).notifiedAt + 1000000) } slot
    refine ⟨_, congrArg Host.Outcome.next (notifyRepeat_again hstate hcount hready), hnow, hnotifies, ?_, hother⟩
    rw [hnow]
    exact hself

end Sys2Proof.Machine

/-! PROOFS. O42: writes of the dictionary by their entries. -/

namespace Sys2Proof.Machine

section Effects

variable {s u : State} {role : Role} {slot pin n : Nat}

/-! ## Alarms (R425) -/

theorem writeEffect_alarm (s : State) (role : Role) (hslot : slot < 128) (sub : Nat) (v : DVal) :
    writeEffect s role (0x7010 + slot) sub v = (alarmAction s slot v.toNat, false) := by
  unfold writeEffect
  dsimp only
  rw [if_neg (by omega), if_neg (by omega), if_neg (by simp only [Bool.and_eq_true, decide_eq_true_eq]; omega),
    if_neg (by simp only [Bool.and_eq_true, decide_eq_true_eq]; omega), if_neg (by simp only [Bool.and_eq_true, decide_eq_true_eq]; omega),
    if_neg (by simp only [Bool.and_eq_true, decide_eq_true_eq]; omega), if_pos (by simp only [Bool.and_eq_true, decide_eq_true_eq]; omega),
    Nat.add_sub_cancel_left]

/-- What an action on an alarm leaves: the other alarms, the audit log and its count. -/
structure AlarmActed (s t : State) (slot : Nat) : Prop where
  others : ∀ x, x ≠ slot → alarmAt t x = alarmAt s x
  audit : t.audit = s.audit
  count : KeyKept (dkey 0x8300 1) s t

theorem putAlarm_acted (s : State) (slot : Nat) (r : AlarmRec) : AlarmActed s (putAlarm s slot r) slot :=
  ⟨fun _ hx => alarmAt_putAlarm_other _ _ hx, (putAlarm_only ..).same .audit (by decide), putAlarm_keyKept (by decide) ..⟩

theorem alarmAction_acted (s : State) (slot n : Nat) : AlarmActed s (alarmAction s slot n) slot := by
  have hself : AlarmActed s s slot := ⟨fun _ _ => rfl, rfl, .refl s⟩
  unfold alarmAction
  extract_lets r
  split
  · exact hself
  split
  · split <;> exact putAlarm_acted ..
  split
  · exact putAlarm_acted ..
  · exact hself

theorem alarmAction_clear (h : (alarmAt s slot).state = 0) : alarmAction s slot n = s := if_pos h

/-- An acknowledgement in the beat of an occurrence counts what stood before it. -/
theorem alarmAction_late (hstate : (alarmAt s slot).state = 1) (hlast : (alarmAt s slot).last = stamp s) :
    alarmAt (alarmAction s slot 1) slot = { alarmAt s slot with countAck := (alarmAt s slot).count - (alarmAt s slot).atLast } := by
  unfold alarmAction
  extract_lets r
  rw [if_neg (by rw [show r.state = 1 from hstate]; decide), if_pos rfl,
    if_pos (by rw [show r.last = stamp s from hlast, show r.state = 1 from hstate, decide_eq_true rfl]; rfl)]
  exact alarmAt_putAlarm_self ..

theorem alarmAction_acknowledged (hstate : (alarmAt s slot).state ≠ 0) (h : (alarmAt s slot).state ≠ 1 ∨ (alarmAt s slot).last ≠ stamp s) :
    alarmAt (alarmAction s slot 1) slot = { alarmAt s slot with countAck := (alarmAt s slot).count, state := 2 } := by
  unfold alarmAction
  extract_lets r
  rw [if_neg hstate, if_pos rfl, if_neg (by
    rw [Bool.and_eq_true, decide_eq_true_iff, decide_eq_true_iff]; exact fun hn => h.elim (absurd hn.2) (absurd hn.1))]
  exact alarmAt_putAlarm_self ..

theorem alarmAction_cleared (hstate : (alarmAt s slot).state = 2) : alarmAt (alarmAction s slot 2) slot = {} := by
  unfold alarmAction
  extract_lets r
  rw [if_neg (by rw [show r.state = 2 from hstate]; decide), if_neg (by decide), if_pos hstate]
  exact alarmAt_putAlarm_self ..

/-- An accepted action on an alarm, with its record. -/
theorem alarm_written {sub : Nat} {v : DVal} (hslot : slot < 128) (hroom : AuditRoom s) (haccepted : Accepted s role (0x7010 + slot) sub v)
    (hsub : sub < 256) (hv : withoutReserved (0x7010 + slot) sub v = v) : ∃ u, Audited s u role (0x7010 + slot) sub
      ∧ writeEntry s role none (0x7010 + slot) sub v none = alarmAction u slot v.toNat := by
  obtain ⟨u, haudited, hrun⟩ := applyWrite_audits (v := v) (role := role) (index := 0x7010 + slot) (sub := sub) none hroom
    (auditExempt_other (by omega)) (auditLater_other (by omega) (by omega)) (by omega) hsub
  refine ⟨u, haudited, (writeEntry_of_accepted s role _ _ _ none haccepted).trans (hrun.trans ?_)⟩
  rw [hv, writeEffect_alarm u role hslot]
  rfl

/-- The record does not change the alarms. -/
theorem Audited.alarmAt {index sub : Nat} (h : Audited s u role index sub) (x : Nat) : alarmAt u x = alarmAt s x := h.only.alarmAt (by decide) x

theorem Audited.stamp {index sub : Nat} (h : Audited s u role index sub) (hsub : dkey 0x1200 2 ≠ dkey 0x8300 1) : stamp u = stamp s := by
  unfold Machine.stamp droneOnly isHold
  rw [h.only.same .pwr (by decide), h.only.same .drone (by decide), h.only.same .now (by decide), (h.kept _ hsub).dnum]

/-! ## The audit log's own entries (R367, R368) -/

theorem auditAppendAt_export (s : State) (time role flags index sub event : Nat) (old new : List Byte) :
    KeyKept (dkey 0x8300 2) s (auditAppendAt s time role flags index sub event old new) := by
  unfold auditAppendAt
  extract_lets seq s1 head chain s2 s3
  have h1 : KeyKept (dkey 0x8300 2) s s1 := eraseAudit_keyKept (by decide) ..
  have h3 : KeyKept (dkey 0x8300 2) s s3 := KeyKept.trans (h1.trans rfl) (.bump s2 _ _ _ (by decide))
  exact .ite (h3.trans (alarm_keyKept (by decide) ..)) h3

theorem recordHoldRequest_export (s : State) : KeyKept (dkey 0x8300 2) s (recordHoldRequest s) := by
  unfold recordHoldRequest
  split
  · exact .refl s
  · exact .ite (.refl s) (KeyKept.trans (t := { s with cfg := { s.cfg with holdRequest := none } }) rfl (auditAppendAt_export ..))

theorem writeEnded_waits (r : State) (key : Nat) (reply : Option Reply) : let t := writeEnded (r, true) key reply
    t = { r with tel := { r.tel with busy := FMap.set r.tel.busy key reply } } ∧ FMap.has t.tel.busy key = true := by
  refine ⟨rfl, ?_⟩
  unfold FMap.has
  rw [show (writeEnded (r, true) key reply).tel.busy = FMap.set r.tel.busy key reply from rfl, FMap.get?_set_self]
  rfl

/-- An operation given to an idle engine starts. -/
theorem submitEngine_started {hub : Hub} {op : EngineOp} {src : EngineSource} {use : EngineUse} {t : State} (hidle : EngineIdle s hub)
    (ht : engineAt t hub = (engineAt s hub).submit s.now { op, src, arrived := s.now, use }) : EngineStarted s t hub use := by
  obtain ⟨hrun, hwait, hheld⟩ := hidle
  unfold EngineStarted
  rw [ht, Engine.submit_of_idle hrun hwait hheld]
  rfl

/-! ## GPIO functions (R464) -/

theorem writeEffect_gpio (s : State) (role : Role) (hpin : pin < 8) (fn : Nat) :
    writeEffect s role 0x2600 (pin + 1) (.num fn) = gpioWrite s role pin fn := by
  have hsub : (decide (0x2600 = 0x2600) && decide (pin + 1 ≤ 8)) = true := by
    rw [Bool.and_eq_true, decide_eq_true_iff, decide_eq_true_iff]
    omega
  exact if_pos hsub

theorem gpioWrite_same {fn : Nat} (h : FMap.getD s.pins.gpioFn pin 0 = fn) : gpioWrite s role pin fn = (s, false) := if_pos h

theorem gpioWrite_parks {fn : Nat} (h : FMap.getD s.pins.gpioFn pin 0 ≠ fn) : ∃ u, gpioWrite s role pin fn = (u, true)
    ∧ FMap.get? u.pins.gpioPark pin = some fn ∧ FMap.get? u.pins.gpioFn pin = none ∧ KeyKept (dkey 0x8300 1) s u ∧ u.audit = s.audit := by
  refine ⟨_, if_neg h, FMap.get?_set_self .., FMap.get?_erase_self .., ?_, ?_⟩
  · exact KeyKept.trans (markPending_keyKept s role (dkey 0x2600 (pin + 1)) (by decide)) rfl
  · exact (markPending_only s role (dkey 0x2600 (pin + 1))).same .audit (by decide)

theorem runHeld_none {fuel key : Nat} (h : s.tel.heldWrites = []) : runHeld fuel s key = s := by
  cases fuel with
  | zero => rfl
  | succ fuel =>
    unfold runHeld
    split
    · rfl
    · rw [h]
      rfl

/-- The end of a write for which no other waits. -/
theorem writeDone_law (s : State) (key : Nat) (st : Status) (hheld : s.tel.heldWrites = []) :
    Only [.tel] s (writeDone s key st) ∧ FMap.has (writeDone s key st).tel.busy key = false := by
  unfold writeDone
  cases hbusy : FMap.get? s.tel.busy key with
  | none => exact ⟨.self s, by unfold FMap.has; rw [hbusy]; rfl⟩
  | some reply =>
    have hreply := replyWrite_responseOnly { s with tel := { s.tel with busy := FMap.erase s.tel.busy key } } reply st
    dsimp only
    rw [runHeld_none (hreply.held.trans hheld)]
    refine ⟨(setTel_only s _).andThen hreply.only, ?_⟩
    unfold FMap.has
    rw [hreply.busy, show ({ s with tel := { s.tel with busy := FMap.erase s.tel.busy key } } : State).tel.busy = FMap.erase s.tel.busy key from rfl,
      FMap.get?_erase_self]
    rfl

end Effects

end Sys2Proof.Machine

/-! PROOFS. O42: every command that names an entry is the write of that entry. -/

namespace Sys2Proof.Machine

/-- A choice of the next state is a choice of the outcome. -/
theorem next_ite {c : Bool} {p : Prop} [Decidable p] (h : c = true ↔ p) (a b : State) :
    (.next (if c then a else b) : Result) = if p then .next a else .next b := by
  by_cases hp : p
  · rw [if_pos hp, if_pos (h.mpr hp)]
  · rw [if_neg hp, if_neg (h.not.mpr hp)]

theorem next_ite_prop {p : Prop} [Decidable p] (a b : State) : (.next (if p then a else b) : Result) = if p then .next a else .next b := by
  split <;> rfl

theorem between_iff {lo n hi : Nat} : (decide (lo ≤ n) && decide (n ≤ hi)) = true ↔ lo ≤ n ∧ n ≤ hi := by
  rw [Bool.and_eq_true, decide_eq_true_iff, decide_eq_true_iff]

/-- The 64 bytes of a checkpoint (R368). -/
def checkpointContent (s : State) : List Byte := toLe 8 (lastSeq s) ++ s.audit.chain ++ toLe 8 s.now

section Writes

variable {s s₀ : State} {role : Role}

/-- A write of a configuration entry by a command. -/
theorem dictionaryWrite_config {index sub : Nat} {v : DVal} (hhigh : 0x2100 ≤ index) (hlow : index < 0x3000) (hgpio : ¬(index = 0x2600 ∧ sub ≤ 8))
    (hsub : sub < 256) (haccepted : Accepted (settleAll s₀) role index sub v) (hroom : AuditRoom (settleAll s₀)) : let s := settleAll s₀
    Runs (.dictionaryWrite role index sub v) s₀ fun t => Recorded s t role index sub ∧ dget t (dkey index sub) = v
      ∧ EntriesKept s t [dkey index sub, dkey 0x2000 5] ∧ t = { s with dict := t.dict, audit := t.audit, cfg := t.cfg } := by
  intro s
  obtain ⟨u, hrun, hrecorded, hvalue, hkept, honly⟩ := applyWrite_config (v := v) (role := role) none hroom hhigh hlow hgpio hsub
  refine ⟨u, congrArg Host.Outcome.next ((writeEntry_of_accepted s role index sub v none haccepted).trans hrun), hrecorded, hvalue, fun k hk hcount => ?_,
    honly.eq_overlay⟩
  rw [List.mem_cons, List.mem_singleton] at hk
  exact hkept k (fun h => hk (.inl h)) (fun h => hk (.inr h)) hcount

/-- An accepted function of a pin, with its record. -/
theorem gpio_written {pin fn : Nat} (hpin : pin < 8) (hroom : AuditRoom s) (haccepted : Accepted s role 0x2600 (pin + 1) (.num fn)) :
    ∃ u, Audited s u role 0x2600 (pin + 1)
      ∧ writeEntry s role none 0x2600 (pin + 1) (.num fn) none = writeEnded (gpioWrite u role pin fn) (dkey 0x2600 (pin + 1)) none := by
  obtain ⟨u, haudited, hrun⟩ := applyWrite_audits (v := .num fn) (role := role) (index := 0x2600) (sub := pin + 1) none hroom
    (auditExempt_other (by decide)) (auditLater_other (by decide) (by decide)) (by decide) (by omega)
  refine ⟨u, haudited, (writeEntry_of_accepted s role _ _ _ none haccepted).trans (hrun.trans ?_)⟩
  rw [withoutReserved_num (by omega) (by omega), writeEffect_gpio u role hpin]

theorem gpioParkEnd_law {pin fn : Nat} (hpark : FMap.get? s.pins.gpioPark pin = some fn) (hpin : pin < 8) (hheld : s.tel.heldWrites = []) :
    let t := gpioEnable s pin
    FMap.get? t.pins.gpioPark pin = none ∧ FMap.getD t.pins.gpioFn pin 0 = fn ∧ dnum t 0x2600 (pin + 1) = fn
      ∧ t.drone = s.drone + dnum s 0x2600 11 ∧ FMap.has t.tel.busy (dkey 0x2600 (pin + 1)) = false
      ∧ t = { s with pins := t.pins, dict := t.dict, tel := t.tel, drone := t.drone } := by
  intro t
  generalize hp : ({ s with
      drone := s.drone + dnum s 0x2600 11
      pins := { s.pins with gpioPark := FMap.erase s.pins.gpioPark pin, gpioFn := FMap.put 0 s.pins.gpioFn pin fn } } : State) = p
  have hset : Only [.dict] p (bump (dset p 0x2600 (pin + 1) fn) 0x2600 12 1) := .mono (by rfl) <| (dset_only ..).trans (bump_only ..)
  obtain ⟨hdone, hbusy⟩ := writeDone_law (bump (dset p 0x2600 (pin + 1) fn) 0x2600 12 1) (dkey 0x2600 (pin + 1)) 0
    (by rw [hset.same .tel (by decide), ← hp]; exact hheld)
  have ht : t = writeDone (bump (dset p 0x2600 (pin + 1) fn) 0x2600 12 1) (dkey 0x2600 (pin + 1)) 0 := by
    unfold t gpioEnable
    rw [hpark, ← hp]
  have hpins : t.pins = p.pins := by rw [ht, hdone.same .pins (by decide), hset.same .pins (by decide)]
  have hall : Only [.pins, .dict, .tel, .drone] s t := by
    have hparked : Only [.drone, .pins] s p := by
      rw [← hp]
      exact .mono (by rfl) ((setDrone_only s (s.drone + dnum s 0x2600 11)).trans (setPins_only { s with drone := s.drone + dnum s 0x2600 11 }
        { s.pins with gpioPark := FMap.erase s.pins.gpioPark pin, gpioFn := FMap.put 0 s.pins.gpioFn pin fn }))
    exact ht ▸ .mono (by rfl) (hparked.trans (hset.trans hdone))
  refine ⟨?_, ?_, ?_, ?_, ht ▸ hbusy, hall.eq_overlay⟩
  · rw [hpins, ← hp]
    exact FMap.get?_erase_self ..
  · rw [hpins, ← hp]
    exact FMap.getD_put_self ..
  · rw [ht, hdone.dnum (by decide), (KeyKept.bump (dset p 0x2600 (pin + 1) fn) 0x2600 12 1 (by unfold dkey; omega)).dnum]
    exact dnum_dset_self ..
  · rw [ht, hdone.same .drone (by decide), hset.same .drone (by decide), ← hp]

end Writes

/-- Settles O42: each write by its checks, its record and its entry's own effect. -/
theorem dictionaryWrites : Obligations.DictionaryWrites := by
  refine ⟨fun s role part n sub flag w bs => ?_, fun s₀ role => ?_, fun s pin => ⟨fun hpark => ⟨_, rfl, ?_⟩, fun fn hpark hpin => ⟨_, rfl, ?_⟩⟩⟩
  · intro W
    exact ⟨next_ite_prop .., next_ite between_iff .., next_ite between_iff .., next_ite (by simp [and_assoc]) .., next_ite between_iff .., rfl,
      next_ite_prop .., rfl, rfl, next_ite between_iff .., next_ite_prop .., next_ite between_iff .., rfl, rfl, next_ite_prop .., next_ite_prop ..,
      next_ite_prop .., next_ite_prop ..⟩
  · intro s
    refine ⟨fun index sub v => ⟨fun hserved => ⟨_, rfl, ?_⟩, fun hserved hbusy hindex => ⟨_, rfl, ?_⟩, fun hserved hidle hst => ?_⟩,
      fun index sub v hhigh hlow hgpio hsub haccepted hroom => dictionaryWrite_config hhigh hlow hgpio hsub haccepted hroom,
      fun slot hslot hroom => ⟨fun haccepted => ?_, fun haccepted => ?_⟩, fun n haccepted => ?_, fun haccepted => ?_,
      fun slot key hlow hhigh haccepted => ?_, fun pin fn hpin => ⟨fun haccepted hroom hfn => ?_, fun haccepted hroom hfn => ?_⟩⟩
    · exact if_pos (by rw [hserved]; rfl)
    · exact (if_neg (by rw [hserved]; decide)).trans (if_pos (by rw [hbusy, decide_eq_true hindex]; rfl))
    · exact ⟨drawn s 1, congrArg Host.Outcome.next ((writeEntry_refuses (reply := none) hserved hidle hst).trans rfl), rfl⟩
    · obtain ⟨u, haudited, hrun⟩ := alarm_written hslot hroom haccepted (by decide) (withoutReserved_num (by omega) (by omega))
      have hstamp := haudited.stamp (by decide)
      obtain ⟨hothers, haudit, hcount⟩ := alarmAction_acted u slot 1
      refine ⟨_, (congrArg Host.Outcome.next ((if_pos hslot).trans hrun)), recorded_of_kept haudited.recorded hcount haudit,
        fun x hx => (hothers x hx).trans (haudited.alarmAt x), fun hclear => ?_, fun hactive hlast => ?_, fun hstate hlate => ?_⟩
      · rw [← haudited.alarmAt] at hclear ⊢
        exact congrArg (fun u => alarmAt u slot) (alarmAction_clear hclear)
      · rw [← haudited.alarmAt, ← hstamp] at hlast
        rw [← haudited.alarmAt] at hactive ⊢
        exact alarmAction_late hactive hlast
      · rw [← haudited.alarmAt, ← hstamp] at hlate
        rw [← haudited.alarmAt] at hstate ⊢
        exact alarmAction_acknowledged hstate hlate
    · obtain ⟨u, haudited, hrun⟩ := alarm_written hslot hroom haccepted (by decide) (withoutReserved_num (by omega) (by omega))
      obtain ⟨hothers, haudit, hcount⟩ := alarmAction_acted u slot 2
      refine ⟨_, (congrArg Host.Outcome.next ((if_pos hslot).trans hrun)), recorded_of_kept haudited.recorded hcount haudit,
        fun x hx => (hothers x hx).trans (haudited.alarmAt x), fun hstate => ?_, fun hclear => ?_⟩
      · rw [← haudited.alarmAt] at hstate
        exact alarmAction_cleared hstate
      · rw [← haudited.alarmAt] at hclear ⊢
        exact congrArg (fun u => alarmAt u slot) (alarmAction_clear hclear)
    · have hrun : writeEntry s role none 0x8300 2 (.num n) none = recordHoldRequest (dset s 0x8300 2 n) :=
        (writeEntry_of_accepted s role _ _ _ none haccepted).trans (applyWrite_unaudited s role (.num n) none rfl)
      refine ⟨_, congrArg Host.Outcome.next hrun, (recordHoldRequest_export ..).dnum.trans (dnum_dset_self ..), fun hnone => ?_⟩
      have hsame : recordHoldRequest (dset s 0x8300 2 n) = dset s 0x8300 2 n := by
        unfold recordHoldRequest
        rw [show (dset s 0x8300 2 n).cfg.holdRequest = none from hnone]
      rw [hsame]
      exact ⟨rfl, (KeyKept.dset s 0x8300 2 n (by decide)).dnum, fun k hk _ => KeyKept.dset s 0x8300 2 n (by rwa [List.mem_singleton] at hk)⟩
    · have hrun : writeEntry s role none 0x8300 4 (.num 1) none = writeEnded (checkpoint s, true) (dkey 0x8300 4) none :=
        (writeEntry_of_accepted s role _ _ _ none haccepted).trans (applyWrite_unaudited s role (.num 1) none rfl)
      obtain ⟨ht, hbusy⟩ := writeEnded_waits (checkpoint s) (dkey 0x8300 4) none
      have hengine : engineAt (writeEnded (checkpoint s, true) (dkey 0x8300 4) none) (leader s) = (engineAt s (leader s)).submit s.now {
          op := .sign s.sec.fuses.identityKey (sha384 (checkpointContent s)), src := .firmware, arrived := s.now, use := .checkpoint (checkpointContent s) } :=
        engineAt_submitEngine (drawn s 1) (leader s) (.sign s.sec.fuses.identityKey (sha384 (checkpointContent s))) .firmware (.checkpoint (checkpointContent s))
      have hall : Only [.fresh, .sec, .tel] s (writeEnded (checkpoint s, true) (dkey 0x8300 4) none) :=
        .mono (by rfl) <| (drawn_only s 1).trans ((submitEngine_only ..).trans (setTel_only (checkpoint s) _))
      exact ⟨_, congrArg Host.Outcome.next hrun, hengine, fun hidle => submitEngine_started hidle hengine, hbusy, hall.eq_overlay⟩
    · have hrun : writeEntry s role none 0x8100 slot (.blob key) none
          = writeEnded (submitEngine s (leader s) (.validate (decodeKey key)) .firmware (.operatorKey role slot key), true) (dkey 0x8100 slot) none :=
        (writeEntry_of_accepted s role _ _ _ none haccepted).trans (applyWrite_unaudited s role (.blob key) none (by unfold auditLater; exact Bool.or_true _))
      generalize hu : submitEngine s (leader s) (.validate (decodeKey key)) .firmware (.operatorKey role slot key) = u at hrun
      obtain ⟨ht, hbusy⟩ := writeEnded_waits u (dkey 0x8100 slot) none
      have hengine : engineAt (writeEnded (u, true) (dkey 0x8100 slot) none) (leader s) = (engineAt s (leader s)).submit s.now {
          op := .validate (decodeKey key), src := .firmware, arrived := s.now, use := .operatorKey role slot key } := by
        rw [ht, ← hu]
        exact engineAt_submitEngine s (leader s) (.validate (decodeKey key)) .firmware (.operatorKey role slot key)
      have hall : Only [.sec, .tel] s (writeEnded (u, true) (dkey 0x8100 slot) none) := by
        rw [ht]
        exact .mono (by rfl) ((hu ▸ submitEngine_only ..).trans (setTel_only u _))
      exact ⟨_, congrArg Host.Outcome.next ((if_pos (between_iff.mpr ⟨hlow, hhigh⟩)).trans hrun), hengine, fun hidle => submitEngine_started hidle hengine, hbusy,
        hall.eq_overlay⟩
    · obtain ⟨u, haudited, hrun⟩ := gpio_written hpin hroom haccepted
      obtain ⟨t, ht, hpark, hgpioFn, hcount, haudit⟩ := gpioWrite_parks (role := role) (s := u) (pin := pin) (fn := fn)
        (by rw [haudited.only.same .pins (by decide)]; exact hfn)
      rw [ht] at hrun
      obtain ⟨-, hbusy⟩ := writeEnded_waits t (dkey 0x2600 (pin + 1)) none
      exact ⟨_, congrArg Host.Outcome.next ((if_pos hpin).trans hrun), recorded_of_kept haudited.recorded hcount haudit, hpark, hgpioFn, hbusy⟩
    · obtain ⟨u, haudited, hrun⟩ := gpio_written hpin hroom haccepted
      rw [gpioWrite_same (by rw [haudited.only.same .pins (by decide)]; exact hfn)] at hrun
      exact ⟨_, congrArg Host.Outcome.next ((if_pos hpin).trans hrun), haudited.recorded, haudited.only.same .pins (by decide)⟩
  · unfold gpioEnable
    rw [hpark]
  · exact fun hheld => gpioParkEnd_law hpark hpin hheld

end Sys2Proof.Machine

/-! PROOFS. O43: maps, quotas, assignments and pools. -/

namespace Sys2Proof.Machine

section PartitionEntries

variable {s u t : State} {role : Role} {part vf sub index n : Nat} {v w : DVal}

/-! ## The effect of a partition's entry -/

theorem writeEffect_partition (s : State) (role : Role) (sub : Nat) (v : DVal) (hlow : 0x4000 ≤ index) (hhigh : index < 0x5500) :
    writeEffect s role index sub v = partitionEffect s index sub v := by
  unfold writeEffect
  dsimp only
  rw [if_neg (by omega), if_neg (by omega), if_neg (by simp only [Bool.and_eq_true, decide_eq_true_eq]; omega),
    if_neg (by simp only [Bool.and_eq_true, decide_eq_true_eq]; omega), if_neg (by simp only [Bool.and_eq_true, decide_eq_true_eq]; omega),
    if_pos (by simp only [Bool.and_eq_true, decide_eq_true_eq]; omega)]

theorem withoutReserved_partition (v : DVal) (hlow : 0x4000 ≤ index) (hhigh : index < 0x5500) : withoutReserved index sub v = v := by
  cases v with
  | num n => exact withoutReserved_num (by omega) (by omega)
  | blob b => exact if_neg (by rw [Bool.and_eq_true, decide_eq_true_iff, decide_eq_true_iff]; omega)

/-- An accepted write of a partition's entry: its record, then its effect. -/
theorem partition_written (hlow : 0x4000 ≤ index) (hhigh : index < 0x5500) (hsub : sub < 256) (hroom : AuditRoom s)
    (haccepted : Accepted s role index sub v) : ∃ u, Audited s u role index sub
      ∧ writeEntry s role none index sub v none = writeEnded (partitionEffect u index sub v) (dkey index sub) none := by
  obtain ⟨u, haudited, hrun⟩ := applyWrite_audits (v := v) (role := role) (index := index) (sub := sub) none hroom
    (auditExempt_other (by omega)) (auditLater_other (by omega) (by omega)) (by omega) hsub
  refine ⟨u, haudited, (writeEntry_of_accepted s role _ _ _ none haccepted).trans (hrun.trans ?_)⟩
  rw [withoutReserved_partition v hlow hhigh, writeEffect_partition u role sub v hlow hhigh]

theorem partitionEffect_map (s : State) (hpart : part < 32) (v : DVal) :
    partitionEffect s (0x5000 + part) sub v = mapEffect s part sub v.toNat := by
  unfold partitionEffect
  dsimp only
  rw [if_neg (by omega), if_neg (by omega), if_neg (by omega), if_neg (by omega), if_pos (by omega), Nat.add_sub_cancel_left]

theorem partitionEffect_quota (s : State) (hvf : 1 ≤ vf) (v : DVal) :
    partitionEffect s (0x50FF + vf) sub v = (quotaEffect s vf sub v.toNat, false) := by
  unfold partitionEffect
  dsimp only
  rw [if_neg (by omega), if_neg (by omega), if_neg (by omega), if_neg (by omega), if_neg (by omega), Nat.add_sub_cancel_left]

theorem partitionEffect_assign (s : State) (hvf : 1 ≤ vf) (hvf' : vf ≤ 1024) (v : DVal) :
    partitionEffect s (0x40FF + vf) 1 v = (assignEffect s vf v.toNat, false) := by
  unfold partitionEffect
  dsimp only
  rw [if_neg (by omega), if_neg (by omega), if_pos (by omega), if_pos rfl, Nat.add_sub_cancel_left]

theorem partitionEffect_pool (s : State) (hpart : part < 32) (hsub : sub ≠ 8) (v : DVal) :
    partitionEffect s (0x4000 + part) sub v = (poolEffect s part sub v, false) := by
  unfold partitionEffect
  dsimp only
  rw [if_pos (by omega), if_neg hsub, Nat.add_sub_cancel_left]

/-! ## Maps (R143 to R145) -/

/-- The bytes of a tier that a map gives. -/
def mapBytes (sub map : Nat) : Nat := if sub = 1 then 9 * 2 ^ 30 * popcount 64 map else 48 * 2 ^ 30 * popcount 32 map

/-- A map that takes effect: its entry and its tier's bytes. -/
theorem applyMap_law (s : State) (part : Nat) (hsub : sub = 1 ∨ sub = 2) (map : Nat) :
    dnum (applyMap s part sub map) (0x5000 + part) sub = map
      ∧ dnum (applyMap s part sub map) (0x5000 + part) (if sub = 1 then 3 else 4) = mapBytes sub map
      ∧ ∀ k, k / 256 ≠ 0x5000 + part → KeyKept k s (applyMap s part sub map) := by
  have hset (s : State) (j n k : Nat) (h : k ≠ dkey (0x5000 + part) j) : KeyKept k s (dset s (0x5000 + part) j n) := .dset s _ _ _ h
  have hother (k j : Nat) (hk : k / 256 ≠ 0x5000 + part) (hj : j < 256) : k ≠ dkey (0x5000 + part) j := by unfold dkey; omega
  unfold mapBytes
  rcases hsub with rfl | rfl
  · generalize hs1 : dset (dset s (0x5000 + part) 1 map) (0x5000 + part) 3 (9 * 2 ^ 30 * popcount 64 map) = s1
    have hrun : applyMap s part 1 map = if dnum s (0x5000 + part) 1 = 0 && map ≠ 0 then dset s1 (0x5000 + part) 5 (dnum s1 (0x5000 + part) 5 + 128 * 2 ^ 20)
        else if dnum s (0x5000 + part) 1 ≠ 0 && map = 0 then dset s1 (0x5000 + part) 5 (dnum s1 (0x5000 + part) 5 - 128 * 2 ^ 20) else s1 := by
      rw [← hs1]
      rfl
    have hend (k : Nat) (h : k ≠ dkey (0x5000 + part) 5) : KeyKept k s1 (applyMap s part 1 map) := by
      rw [hrun]
      exact .ite (hset _ _ _ _ h) (.ite (hset _ _ _ _ h) (.refl s1))
    have h1 : dnum s1 (0x5000 + part) 1 = map := by
      rw [← hs1, (hset _ 3 _ _ (by unfold dkey; omega)).dnum]
      exact dnum_dset_self ..
    have h3 : dnum s1 (0x5000 + part) 3 = 9 * 2 ^ 30 * popcount 64 map := by
      rw [← hs1]
      exact dnum_dset_self ..
    refine ⟨(hend _ (by unfold dkey; omega)).dnum.trans h1, (hend (dkey (0x5000 + part) 3) (by unfold dkey; omega)).dnum.trans h3, fun k hk => ?_⟩
    rw [← hs1] at hend
    exact ((hset _ _ _ _ (hother k 1 hk (by decide))).trans (hset _ _ _ _ (hother k 3 hk (by decide)))).trans (hend k (hother k 5 hk (by decide)))
  · have hrun : applyMap s part 2 map = dset (dset s (0x5000 + part) 2 map) (0x5000 + part) 4 (48 * 2 ^ 30 * popcount 32 map) := rfl
    rw [hrun]
    refine ⟨?_, dnum_dset_self .., fun k hk => (hset _ _ _ _ (hother k 2 hk (by decide))).trans (hset _ _ _ _ (hother k 4 hk (by decide)))⟩
    rw [(hset _ 4 _ _ (by unfold dkey; omega)).dnum]
    exact dnum_dset_self ..

theorem mapEffect_applies (h : ((bitList 64 n).all fun u => bit (dnum s (0x5000 + part) sub) u) = true) :
    mapEffect s part sub n = (applyMap s part sub n, false) := if_pos h

theorem mapEffect_zeroes (h : ((bitList 64 n).all fun u => bit (dnum s (0x5000 + part) sub) u) = false) :
    mapEffect s part sub n = (updPart s part fun p => { p with zeroing := FMap.set p.zeroing sub n }, true) := if_neg (by rw [h]; decide)

/-! ## Quotas and assignments (R165, R297) -/

theorem quotaEffect_law (s : State) (hvf : 1 ≤ vf) (hvf' : vf ≤ 1024) (hsub : sub = 1 ∨ sub = 2) (n : Nat) :
    Only [.dict] s (quotaEffect s vf sub n) ∧ dnum (quotaEffect s vf sub n) (0x50FF + vf) sub = n
      ∧ KeyKept (dkey 0x8300 1) s (quotaEffect s vf sub n)
      ∧ ∀ p, fnPart s vf = some p → dnum (quotaEffect s vf sub n) (0x5000 + p) (sub + 5) = dnum s (0x5000 + p) (sub + 5) - dnum s (0x50FF + vf) sub + n := by
  have hset : Only [.dict] s (dset s (0x50FF + vf) sub n) := dset_only ..
  have hpart : fnPart (dset s (0x50FF + vf) sub n) vf = fnPart s vf := by
    unfold fnPart
    rw [(KeyKept.dset s (0x50FF + vf) sub n (by unfold dkey; omega)).dnum]
  have hcount : KeyKept (dkey 0x8300 1) s (dset s (0x50FF + vf) sub n) := .dset _ _ _ _ (by unfold dkey; omega)
  cases hp : fnPart s vf with
  | none =>
    have hrun : quotaEffect s vf sub n = dset s (0x50FF + vf) sub n := by
      unfold quotaEffect
      dsimp only
      rw [hpart, hp]
    rw [hrun]
    exact ⟨hset, dnum_dset_self .., hcount, fun p hp' => by cases hp'⟩
  | some p =>
    have hlt : p < 32 := by
      unfold fnPart at hp
      rw [if_neg (by omega)] at hp
      dsimp only at hp
      split at hp
      · cases hp
        assumption
      · cases hp
    have hrun : quotaEffect s vf sub n = dset (dset s (0x50FF + vf) sub n) (0x5000 + p) (sub + 5)
        (dnum (dset s (0x50FF + vf) sub n) (0x5000 + p) (sub + 5) - dnum s (0x50FF + vf) sub + n) := by
      unfold quotaEffect
      dsimp only
      rw [hpart, hp]
    rw [hrun]
    refine ⟨hset.andThen (dset_only ..), ?_, hcount.trans (.dset _ _ _ _ (by unfold dkey; omega)), fun q hq => ?_⟩
    · rw [(KeyKept.dset (dset s (0x50FF + vf) sub n) _ _ _ (by unfold dkey; omega)).dnum]
      exact dnum_dset_self ..
    · cases hq
      rw [dnum_dset_self, (KeyKept.dset s (0x50FF + vf) sub n (by unfold dkey; omega)).dnum]

/-- A function joins or leaves a partition: the count of its functions and its quota's sums. -/
theorem countVf_law (s : State) (vf p : Nat) (joins : Bool) :
    dnum (countVf s vf p joins) (0x4000 + p) 11 = (if joins then dnum s (0x4000 + p) 11 + 1 else dnum s (0x4000 + p) 11 - 1)
      ∧ ∀ k, k / 256 ≠ 0x5000 + p → k ≠ dkey (0x4000 + p) 11 → KeyKept k s (countVf s vf p joins) := by
  unfold countVf
  extract_lets i move s1
  have hset (u : State) (j n k : Nat) (hj : j < 256) (h : k / 256 ≠ 0x5000 + p) : KeyKept k u (dset u i j n) := .dset u _ _ _ (by unfold i dkey; omega)
  have hlast (k : Nat) (h : k / 256 ≠ 0x5000 + p) : KeyKept k s1
      (dset (dset s1 i 6 (move (dnum s1 i 6) (dnum s1 (0x50FF + vf) 1))) i 7 (move (dnum s1 i 7) (dnum s1 (0x50FF + vf) 2))) :=
    (hset _ 6 _ _ (by decide) h).trans (hset _ 7 _ _ (by decide) h)
  refine ⟨(hlast _ (by unfold dkey; omega)).dnum.trans (dnum_dset_self ..), fun k hk hcount => (KeyKept.dset s _ _ _ hcount).trans (hlast k hk)⟩

/-- The counters and quota entries of a function that joins a partition are 0. -/
def joinedEntries (s : State) (vf : Nat) : State :=
  dset (([1, 2, 3, 4] ++ (List.range 16).map (16 + ·)).foldl (fun s k => dset s (0x6500 + vf) k 0)
    ([1, 2, 3, 4, 5].foldl (fun s k => dset s (0x6A00 + vf) k 0) s)) (0x50FF + vf) 5 0

theorem joinedEntries_kept (s : State) (hvf' : vf ≤ 1024) {k : Nat} (h : k / 256 < 0x5000 ∨ k / 256 = 0x8300) : KeyKept k s (joinedEntries s vf) := by
  have hfold (i : Nat) (hi : 0x6500 ≤ i) (hi' : i < 0x7000) (l : List Nat) (hl : ∀ j ∈ l, j < 256) (s : State) :
      KeyKept k s (l.foldl (fun s j => dset s i j 0) s) := by
    induction l generalizing s with
    | nil => exact .refl s
    | cons j l ih =>
      have hj := hl j List.mem_cons_self
      exact (KeyKept.dset s i j 0 (by unfold dkey; omega)).trans (ih (fun j hj => hl j (List.mem_cons_of_mem _ hj)) _)
  unfold joinedEntries
  refine ((hfold (0x6A00 + vf) (by omega) (by omega) _ (by decide) s).trans (hfold (0x6500 + vf) (by omega) (by omega) _ (by decide) _)).trans
    (.dset _ _ _ _ (by unfold dkey; omega))

theorem joinedEntries_only (s : State) (vf : Nat) : Only [.dict] s (joinedEntries s vf) :=
  ((Only.foldl (fun _ _ => dset_only ..) _ _).andThen (Only.foldl (fun _ _ => dset_only ..) _ _)).andThen (dset_only ..)

/-- The function has left its partition, where it had one. -/
def leftPartition (s : State) (vf : Nat) : State :=
  match fnPart s vf with
  | none => s
  | some p => countVf s vf p false

theorem assignEffect_same (h : n = dnum s (0x40FF + vf) 1) : assignEffect s vf n = s := if_pos h

theorem assignEffect_moves (h : n ≠ dnum s (0x40FF + vf) 1) : assignEffect s vf n =
    (let s1 := dset (dset (leftPartition s vf) (0x40FF + vf) 1 n) (0x40FF + vf) 6 (if n < 32 then 1 else 0)
     if n < 32 then joinedEntries (countVf s1 vf n true) vf else s1) := by
  refine (if_neg h).trans ?_
  unfold leftPartition
  rfl

theorem fnPart_lt {p : Nat} (hvf : 1 ≤ vf) (h : fnPart s vf = some p) : p < 32 ∧ dnum s (0x40FF + vf) 1 = p := by
  unfold fnPart at h
  rw [if_neg (by omega)] at h
  dsimp only at h
  split at h
  · cases h
    exact ⟨‹_›, rfl⟩
  · cases h

theorem leftPartition_law (s : State) (hvf : 1 ≤ vf) : Only [.dict] s (leftPartition s vf)
    ∧ (∀ k, k / 256 < 0x4000 ∨ 0x4020 ≤ k / 256 → k / 256 < 0x5000 ∨ 0x5020 ≤ k / 256 → KeyKept k s (leftPartition s vf))
    ∧ (∀ q, fnPart s vf ≠ some q → q < 32 → KeyKept (dkey (0x4000 + q) 11) s (leftPartition s vf))
    ∧ ∀ p, fnPart s vf = some p → dnum (leftPartition s vf) (0x4000 + p) 11 = dnum s (0x4000 + p) 11 - 1 := by
  cases hp : fnPart s vf with
  | none =>
    have hrun : leftPartition s vf = s := by
      unfold leftPartition
      rw [hp]
    rw [hrun]
    exact ⟨.self s, fun k _ _ => .refl s, fun q _ _ => .refl s, fun p h => by cases h⟩
  | some p =>
    have hrun : leftPartition s vf = countVf s vf p false := by
      unfold leftPartition
      rw [hp]
    obtain ⟨hlt, -⟩ := fnPart_lt hvf hp
    obtain ⟨hself, hother⟩ := countVf_law s vf p false
    rw [hrun]
    refine ⟨countVf_only .., fun k h4 h5 => hother k (by omega) (by unfold dkey; omega), fun q hq hlt' => ?_, fun q hq => ?_⟩
    · have hne : q ≠ p := fun h => hq (by rw [h])
      exact hother _ (by unfold dkey; omega) (by unfold dkey; omega)
    · cases hq
      exact hself

/-- The entries of a function that is assigned anew. -/
theorem assignEffect_law (s : State) (hvf : 1 ≤ vf) (hvf' : vf ≤ 1024) (n : Nat) :
    Only [.dict] s (assignEffect s vf n) ∧ dnum (assignEffect s vf n) (0x40FF + vf) 1 = n ∧ KeyKept (dkey 0x8300 1) s (assignEffect s vf n)
      ∧ (dnum s (0x40FF + vf) 1 ≠ n → dnum (assignEffect s vf n) (0x40FF + vf) 6 = (if n < 32 then 1 else 0)
        ∧ (n < 32 → dnum (assignEffect s vf n) (0x4000 + n) 11 = dnum s (0x4000 + n) 11 + 1)
        ∧ ∀ p, fnPart s vf = some p → dnum (assignEffect s vf n) (0x4000 + p) 11 = dnum s (0x4000 + p) 11 - 1) := by
  by_cases hsame : n = dnum s (0x40FF + vf) 1
  · rw [assignEffect_same hsame]
    exact ⟨.self s, hsame.symm, .refl s, fun h => absurd hsame.symm h⟩
  obtain ⟨hleft, hleftKept, hleftOther, hleftSelf⟩ := leftPartition_law s hvf
  generalize hs1 : dset (dset (leftPartition s vf) (0x40FF + vf) 1 n) (0x40FF + vf) 6 (if n < 32 then 1 else 0) = s1
  have honly1 : Only [.dict] s s1 := hs1 ▸ (hleft.andThen (dset_only ..)).andThen (dset_only ..)
  have hkept1 (k : Nat) (hk : k / 256 ≠ 0x40FF + vf) : KeyKept k (leftPartition s vf) s1 :=
    hs1 ▸ (KeyKept.dset _ _ _ _ (by unfold dkey; omega)).trans (.dset _ _ _ _ (by unfold dkey; omega))
  have hpart1 : dnum s1 (0x40FF + vf) 1 = n := by
    rw [← hs1, (KeyKept.dset _ (0x40FF + vf) 6 _ (by unfold dkey; omega)).dnum]
    exact dnum_dset_self ..
  have hstate1 : dnum s1 (0x40FF + vf) 6 = if n < 32 then 1 else 0 := hs1 ▸ dnum_dset_self ..
  have hcount1 : KeyKept (dkey 0x8300 1) s s1 := (hleftKept _ (by decide) (by decide)).trans (hkept1 _ (by unfold dkey; omega))
  by_cases hlt : n < 32
  · have hrun : assignEffect s vf n = joinedEntries (countVf s1 vf n true) vf := by
      rw [assignEffect_moves hsame, hs1]
      exact if_pos hlt
    obtain ⟨hself, hother⟩ := countVf_law s1 vf n true
    have hjoined (k : Nat) (h : k / 256 < 0x5000 ∨ k / 256 = 0x8300) (hk : k ≠ dkey (0x4000 + n) 11) : KeyKept k s1 (assignEffect s vf n) := by
      rw [hrun]
      exact (hother k (by omega) hk).trans (joinedEntries_kept _ hvf' h)
    refine ⟨?_, (hjoined _ (by unfold dkey; omega) (by unfold dkey; omega)).dnum.trans hpart1,
      hcount1.trans (hjoined _ (by decide) (by unfold dkey; omega)), fun _ => ⟨?_, fun _ => ?_, fun p hp => ?_⟩⟩
    · rw [hrun]
      exact (honly1.andThen (countVf_only ..)).andThen (joinedEntries_only ..)
    · exact (hjoined (dkey (0x40FF + vf) 6) (by unfold dkey; omega) (by unfold dkey; omega)).dnum.trans hstate1
    · have hne : fnPart s vf ≠ some n := fun h => hsame (fnPart_lt hvf h).2.symm
      rw [hrun, (joinedEntries_kept (countVf s1 vf n true) hvf' (k := dkey (0x4000 + n) 11) (by unfold dkey; omega)).dnum, hself,
        (hkept1 (dkey (0x4000 + n) 11) (by unfold dkey; omega)).dnum, (hleftOther n hne hlt).dnum]
      rfl
    · obtain ⟨hplt, hpart⟩ := fnPart_lt hvf hp
      have hne : p ≠ n := fun h => hsame (h ▸ hpart.symm)
      rw [(hjoined (dkey (0x4000 + p) 11) (by unfold dkey; omega) (by unfold dkey; omega)).dnum,
        (hkept1 (dkey (0x4000 + p) 11) (by unfold dkey; omega)).dnum, hleftSelf p hp]
  · have hrun : assignEffect s vf n = s1 := by
      rw [assignEffect_moves hsame, hs1]
      exact if_neg hlt
    rw [hrun]
    refine ⟨honly1, hpart1, hcount1, fun _ => ⟨hstate1, fun h => absurd h hlt, fun p hp => ?_⟩⟩
    obtain ⟨hplt, hpart⟩ := fnPart_lt hvf hp
    rw [(hkept1 (dkey (0x4000 + p) 11) (by unfold dkey; omega)).dnum, hleftSelf p hp]

/-! ## Pools (R299, R300) -/

/-- The cores that leave a partition's pool are zeroed. -/
def coresLeave (s : State) (l : List Nat) : State :=
  l.foldl (fun s k => useCluster (updCore s k fun c => { c with zeroing := true }) (k / 4)) s

theorem coresLeave_only (s : State) (l : List Nat) : Only [.cores, .dict, .clusters] s (coresLeave s l) :=
  .foldl (fun _ _ => (updCore_only ..).trans (useCluster_only ..)) _ _

theorem coresLeave_keyKept (s : State) {l : List Nat} (hl : ∀ k ∈ l, k < 32) {key : Nat} (h : key / 256 < 0x9200 ∨ 0x9208 ≤ key / 256) :
    KeyKept key s (coresLeave s l) := by
  unfold coresLeave
  induction l generalizing s with
  | nil => exact .refl s
  | cons k l ih =>
    have hk := hl k List.mem_cons_self
    have huse (u : State) : KeyKept key u (useCluster u (k / 4)) := by
      unfold useCluster
      exact .ite (KeyKept.trans (.of_only (updCluster_only ..) (by decide)) (.bump _ _ _ _ (by unfold dkey; omega))) (.of_only (updCluster_only ..) (by decide))
    exact (KeyKept.of_only (updCore_only ..) (by decide)).trans ((huse _).trans (ih _ fun k hk => hl k (List.mem_cons_of_mem _ hk)))

theorem coresLeave_zeroing {l : List Nat} {k : Nat} (h : k ∈ l ∨ (coreAt s k).zeroing = true) : (coreAt (coresLeave s l) k).zeroing = true := by
  unfold coresLeave
  induction l generalizing s with
  | nil => exact h.resolve_left List.not_mem_nil
  | cons c l ih =>
    have hcore (x : Nat) : coreAt (useCluster (updCore s c fun c => { c with zeroing := true }) (c / 4)) x
        = coreAt (updCore s c fun c => { c with zeroing := true }) x := (useCluster_only ..).coreAt (by decide) x
    refine ih ?_
    rw [hcore]
    by_cases hck : k = c
    · rw [hck, coreAt_updCore_self]
      exact .inr rfl
    · rw [coreAt_updCore_other _ _ _ _ hck]
      exact h.imp (fun h => (List.mem_cons.mp h).resolve_left hck) id

/-- The cores of a pool's old map that its new map leaves out. -/
def coresGone (s : State) (part map : Nat) : List Nat := (bitList 32 (dnum s (0x4000 + part) 1)).filter fun k => !bit map k

theorem coresGone_lt {k : Nat} (h : k ∈ coresGone s part n) : k < 32 := by
  unfold coresGone bitList at h
  exact List.mem_range.mp (List.mem_of_mem_filter (List.mem_of_mem_filter h))

theorem poolEffect_other (h : sub ≠ 1) : poolEffect s part sub v = dput s (dkey (0x4000 + part) sub) v := if_pos h

theorem poolEffect_cores : poolEffect s part 1 v =
    (let s1 := coresLeave (dput s (dkey (0x4000 + part) 1) v) (coresGone s part v.toNat)
     if v.toNat = 0 then updPart s1 part fun p => { p with keyPair := none } else s1) := rfl

/-- A pool entry takes its value, and the cores that leave are zeroed. -/
theorem poolEffect_law (s : State) (hpart : part < 32) (v : DVal) :
    dget (poolEffect s part sub v) (dkey (0x4000 + part) sub) = v ∧ (sub < 256 → KeyKept (dkey 0x8300 1) s (poolEffect s part sub v))
      ∧ (poolEffect s part sub v).audit = s.audit ∧ (sub ≠ 1 → Only [.dict] s (poolEffect s part sub v))
      ∧ (sub = 1 → ∀ k ∈ coresGone s part v.toNat, (coreAt (poolEffect s part sub v) k).zeroing = true) := by
  by_cases hsub : sub = 1
  · subst hsub
    have hput := dput_only s (dkey (0x4000 + part) 1) v
    generalize hu : dput s (dkey (0x4000 + part) 1) v = u at hput
    generalize hl : coresGone s part v.toNat = l
    have hlt : ∀ k ∈ l, k < 32 := fun k hk => coresGone_lt (hl ▸ hk)
    have hend : Only [.parts] (coresLeave u l) (poolEffect s part 1 v) := by
      rw [poolEffect_cores, hu, hl]
      exact .ite (updPart_only ..) (.refl _)
    refine ⟨?_, fun _ => ?_, ?_, fun h => absurd rfl h, fun _ k hk => ?_⟩
    · rw [hend.dget (by decide), show dget (coresLeave u l) _ = dget u _ from coresLeave_keyKept u hlt (by unfold dkey; omega), ← hu]
      exact dget_dput_self ..
    · have hset : KeyKept (dkey 0x8300 1) s u := hu ▸ dget_dput_other _ _ _ _ (by unfold dkey; omega)
      exact hset.trans ((coresLeave_keyKept u hlt (by decide)).trans (.of_only hend (by decide)))
    · exact (hput.trans ((coresLeave_only u l).trans hend)).same .audit (by decide)
    · rw [hend.coreAt (by decide)]
      exact coresLeave_zeroing (.inl hk)
  · have hput := dput_only s (dkey (0x4000 + part) sub) v
    rw [poolEffect_other hsub]
    exact ⟨dget_dput_self .., fun hlt => dget_dput_other _ _ _ _ (by unfold dkey; omega), hput.same .audit (by decide), fun _ => hput, fun h => absurd h hsub⟩

end PartitionEntries

section Written

variable {s : State} {role : Role} {part sub v : Nat}

/-- An accepted map: it takes effect at once where it adds no unit, else once its units are zeroed. -/
theorem map_written (hpart : part < 32) (hsub : sub = 1 ∨ sub = 2) (haccepted : Accepted s role (0x5000 + part) sub (.num v)) (hroom : AuditRoom s) :
    let t := writeEntry s role none (0x5000 + part) sub (.num v) none
    Recorded s t role (0x5000 + part) sub
      ∧ (((bitList 64 v).all fun u => bit (dnum s (0x5000 + part) sub) u) = true →
        dnum t (0x5000 + part) sub = v ∧ dnum t (0x5000 + part) (if sub = 1 then 3 else 4) = mapBytes sub v ∧ t = { s with dict := t.dict, audit := t.audit })
      ∧ (((bitList 64 v).all fun u => bit (dnum s (0x5000 + part) sub) u) = false →
        FMap.get? (partAt t part).zeroing sub = some v ∧ dnum t (0x5000 + part) sub = dnum s (0x5000 + part) sub
          ∧ FMap.has t.tel.busy (dkey (0x5000 + part) sub) = true) := by
  intro t
  obtain ⟨u, haudited, hrun⟩ := partition_written (by omega) (by omega) (by omega) hroom haccepted
  rw [partitionEffect_map u hpart] at hrun
  have hentry : dnum u (0x5000 + part) sub = dnum s (0x5000 + part) sub := (haudited.kept _ (by unfold dkey; omega)).dnum
  have ht : t = writeEnded (mapEffect u part sub v) (dkey (0x5000 + part) sub) none := hrun
  rw [ht, ← hentry]
  cases hall : (bitList 64 v).all fun x => bit (dnum u (0x5000 + part) sub) x with
  | true =>
    rw [mapEffect_applies hall]
    obtain ⟨hmap, hbytes, hkept⟩ := applyMap_law u part hsub v
    refine ⟨recorded_of_kept haudited.recorded (hkept _ (by unfold dkey; omega)) ((applyMap_only ..).same .audit (by decide)),
      fun _ => ⟨hmap, hbytes, ?_⟩, fun h => by cases h⟩
    exact ((haudited.only.trans (applyMap_only u part sub v)).mono (G := [.dict, .audit]) (by rfl)).eq_overlay
  | false =>
    rw [mapEffect_zeroes hall]
    generalize hw : updPart u part (fun p => { p with zeroing := FMap.set p.zeroing sub v }) = w
    have hupd : Only [.parts] u w := hw ▸ updPart_only ..
    have hpartAt : partAt w part = { partAt u part with zeroing := FMap.set (partAt u part).zeroing sub v } := hw ▸ partAt_updPart_self ..
    obtain ⟨hframe, hbusy⟩ := writeEnded_waits w (dkey (0x5000 + part) sub) none
    have hend : Only [.parts, .tel] u (writeEnded (w, true) (dkey (0x5000 + part) sub) none) := hframe ▸ hupd.trans (setTel_only w _)
    refine ⟨recorded_of_kept haudited.recorded (.of_only hend (by decide)) (hend.same .audit (by decide)), fun h => (by cases h),
      fun _ => ⟨?_, hend.dnum (by decide) _ _, hbusy⟩⟩
    have hzeroing : (partAt (writeEnded (w, true) (dkey (0x5000 + part) sub) none) part).zeroing = FMap.set (partAt u part).zeroing sub v :=
      congrArg Part.zeroing hpartAt
    rw [hzeroing]
    exact FMap.get?_set_self ..

end Written

/-- Settles O43: each accepted write is its record and its entry's effect; the units of a map come when they are zeroed. -/
theorem partitionWrites : Obligations.PartitionWrites := by
  refine ⟨fun s₀ role part v hpart => ?_, fun s part hpart => ⟨fun hnone => ⟨_, rfl, ?_⟩, fun sub v l hsub hzeroing => ⟨_, rfl, fun hheld => ?_⟩⟩⟩
  · intro s
    refine ⟨fun pairs => ?_, fun vf capacity => ?_, fun vf hvf hvf' haccepted hroom => ?_, fun sub w hlow hhigh haccepted hroom => ?_⟩
    · intro i sub haccepted hroom
      have hexec : exec (.mapWrite role part pairs v) s₀ = .next (writeEntry s role none i sub (.num v) none) := congrArg Host.Outcome.next (if_pos hpart)
      have hsub : sub = 1 ∨ sub = 2 := by
        unfold sub
        cases pairs
        · exact .inl rfl
        · exact .inr rfl
      obtain ⟨hrecorded, happlied, hzeroed⟩ := map_written hpart hsub haccepted hroom
      refine ⟨fun hbits => ?_, fun hbits => ⟨_, hexec, hrecorded, hzeroed hbits⟩⟩
      obtain ⟨hmap, hbytes, hframe⟩ := happlied hbits
      refine ⟨_, hexec, hrecorded, hmap, ?_, hframe⟩
      unfold sub mapBytes at hbytes
      cases pairs
      · exact hbytes
      · exact hbytes
    · intro i sub hvf hvf' haccepted hroom
      have hsub : sub = 1 ∨ sub = 2 := by
        unfold sub
        cases capacity
        · exact .inl rfl
        · exact .inr rfl
      obtain ⟨u, haudited, hrun⟩ := partition_written (by unfold i; omega) (by unfold i; omega) (by omega) hroom haccepted
      rw [partitionEffect_quota u hvf] at hrun
      obtain ⟨honly, hquota, hcount, hsum⟩ := quotaEffect_law u hvf hvf' hsub v
      have hexec : exec (.vfQuotaWrite role vf capacity v) s₀ = .next (quotaEffect u vf sub v) :=
        congrArg Host.Outcome.next ((if_pos (between_iff.mpr ⟨hvf, hvf'⟩)).trans hrun)
      have hkept (i j : Nat) (h : dkey i j ≠ dkey 0x8300 1) : dnum u i j = dnum s i j := (haudited.kept _ h).dnum
      refine ⟨_, hexec, recorded_of_kept haudited.recorded hcount (honly.same .audit (by decide)), hquota,
        (haudited.only.trans honly).mono (G := [.dict, .audit]) (by rfl) |>.eq_overlay, fun p hp => ?_⟩
      obtain ⟨hplt, -⟩ := fnPart_lt hvf hp
      have hpart' : fnPart u vf = some p := by
        rw [← hp]
        unfold fnPart
        rw [hkept _ _ (by unfold dkey; omega)]
      rw [hsum p hpart', hkept _ _ (by unfold dkey; omega), hkept _ _ (by unfold dkey; omega)]
    · obtain ⟨u, haudited, hrun⟩ := partition_written (by omega) (by omega) (by decide) hroom haccepted
      rw [partitionEffect_assign u hvf hvf'] at hrun
      obtain ⟨honly, hassigned, hcount, hmoves⟩ := assignEffect_law u hvf hvf' v
      have hexec : exec (.vfPartitionWrite role vf v) s₀ = .next (assignEffect u vf v) :=
        congrArg Host.Outcome.next ((if_pos (between_iff.mpr ⟨hvf, hvf'⟩)).trans hrun)
      have hkept (i j : Nat) (h : dkey i j ≠ dkey 0x8300 1) : dnum u i j = dnum s i j := (haudited.kept _ h).dnum
      refine ⟨_, hexec, recorded_of_kept haudited.recorded hcount (honly.same .audit (by decide)),
        (haudited.only.trans honly).mono (G := [.dict, .audit]) (by rfl) |>.eq_overlay, hassigned, fun hne => ?_⟩
      obtain ⟨hstate, hjoins, hleaves⟩ := hmoves (by rw [hkept _ _ (by unfold dkey; omega)]; exact hne)
      refine ⟨hstate, fun hlt => ?_, fun p hp => ?_⟩
      · rw [hjoins hlt, hkept _ _ (by unfold dkey; omega)]
      · obtain ⟨hplt, -⟩ := fnPart_lt hvf hp
        have hpart' : fnPart u vf = some p := by
          rw [← hp]
          unfold fnPart
          rw [hkept _ _ (by unfold dkey; omega)]
        rw [hleaves p hpart', hkept _ _ (by unfold dkey; omega)]
    · obtain ⟨u, haudited, hrun⟩ := partition_written (by omega) (by omega) (by omega) hroom haccepted
      rw [partitionEffect_pool u hpart (by omega)] at hrun
      obtain ⟨hvalue, hcount, haudit, honly, hzeroing⟩ := poolEffect_law (sub := sub) u hpart w
      have hexec : exec (.poolWrite role part sub w) s₀ = .next (poolEffect u part sub w) :=
        congrArg Host.Outcome.next ((if_pos (by simp only [Bool.and_eq_true, decide_eq_true_eq]; omega)).trans hrun)
      refine ⟨_, hexec, recorded_of_kept haudited.recorded (hcount (by omega)) haudit, hvalue,
        fun hsub => (haudited.only.trans (honly hsub)).mono (G := [.dict, .audit]) (by rfl) |>.eq_overlay, fun hsub k hk hold hnew => hzeroing hsub k ?_⟩
      unfold coresGone bitList
      rw [(haudited.kept _ (by unfold dkey; omega)).dnum]
      exact List.mem_filter.mpr ⟨List.mem_filter.mpr ⟨List.mem_range.mpr hk, hold⟩, by rw [hnew]; rfl⟩
  · unfold unitsZeroed mapDone
    rw [hnone]
  · generalize hu : updPart s part (fun p => { p with zeroing := FMap.erase p.zeroing sub }) = u
    have hrun : unitsZeroed s part = writeDone (applyMap u part sub v) (dkey (0x5000 + part) sub) 0 := by
      unfold unitsZeroed mapDone
      rw [hzeroing, ← hu]
    have hupd : Only [.parts] s u := hu ▸ updPart_only ..
    have happly := applyMap_only u part sub v
    obtain ⟨hdone, hbusy⟩ := writeDone_law (applyMap u part sub v) (dkey (0x5000 + part) sub) 0
      (by rw [happly.same .tel (by decide), hupd.same .tel (by decide)]; exact hheld)
    obtain ⟨hmap, hbytes, -⟩ := applyMap_law u part hsub v
    rw [hrun]
    refine ⟨?_, (hdone.dnum (by decide) _ _).trans hmap, (hdone.dnum (by decide) _ _).trans hbytes, hbusy⟩
    rw [hdone.partAt (by decide), happly.partAt (by decide), ← hu, partAt_updPart_self, ← hzeroing]

end Sys2Proof.Machine

/-! PROOFS. O47 fails: a partition outside the 32 whose base job ends with the start overwrites the audit log's sequence. -/

namespace Sys2Proof.Machine

/-- The module after reset, but with a base job of a partition 0x2D00: that partition's base state is entry 0x8300.01. -/
def strayBaseWorld : State :=
  { State.reset with parts := [(0x2D00, { baseJob := some {
      replace := false, tensors := [], digest := [], members := 0, fn := 0, seq := 0, tag := 0, member := true } })] }

theorem strayBaseWorld_settled : settleAll strayBaseWorld = strayBaseWorld :=
  settleAll_of_idle _ (fun _ he => absurd he List.not_mem_nil) rfl

theorem strayBaseWorld_ready : isHold strayBaseWorld = false ∧ AuditRoom strayBaseWorld ∧ dnum strayBaseWorld 0x8300 1 = 0 := by
  simp only [AuditRoom]
  decide +kernel

theorem strayBaseWorld_accepts : Accepted strayBaseWorld .installer 0x1200 7 (.num 1) := by
  simp only [Accepted]
  decide +kernel

/-- The warm start ends the base job, and the partition's base state becomes 4. -/
theorem strayBaseWorld_started : dnum (writeEntry strayBaseWorld .installer none 0x1200 7 (.num 1) none) 0x8300 1 = 4 := by
  decide +kernel

/-- Refutes O47: the record of an accepted warm start request is counted, and the start then ends the base job of partition
0x2D00, whose base state is the audit log's sequence. -/
theorem not_starts : ¬ Obligations.Starts := by
  unfold Obligations.Starts
  rintro ⟨-, -, -, -, hrequest, -⟩
  obtain ⟨hhold, hroom, hcount⟩ := strayBaseWorld_ready
  obtain ⟨-, hwarm, -⟩ := hrequest strayBaseWorld .installer
  rw [strayBaseWorld_settled] at hwarm
  obtain ⟨t, hnext, ⟨hrecorded, -⟩, -⟩ := (hwarm hhold hroom).1 strayBaseWorld_accepts
  have hrun : exec (.startRequestWarm .installer false) strayBaseWorld
      = .next (writeEntry strayBaseWorld .installer none 0x1200 7 (.num 1) none) :=
    congrArg Host.Outcome.next ((if_pos hhold.symm).trans (by rw [strayBaseWorld_settled]; rfl))
  rw [hrun] at hnext
  cases hnext
  rw [strayBaseWorld_started, hcount] at hrecorded
  omega

end Sys2Proof.Machine

/-! PROOFS. O46: configuration commits, stops, overlays and firmware updates. -/

namespace Sys2Proof.Machine

section Configuration

variable {s u t : State} {role : Role} {index sub group stop n : Nat} {v : DVal} {value copy : List Byte} {h : Hub}

/-! ## Commits (R403) -/

/-- A commit that passes the checks goes to the leader's engine with the signature over the pending copy. -/
theorem commit_law (hserved : served s = true) (hst : writeStatus s role none 0x2000 4 (.blob value) = 0) :
    let image := pendingImage s
    let t := writeEntry s role none 0x2000 4 (.blob value) none
    engineAt t (leader s) = (engineAt s (leader s)).submit s.now {
        op := .verify (decodeKey (slice value 0 96)) (sha384 image) (beNat (slice value 96 48)) (beNat (slice value 144 48))
        src := .firmware, arrived := s.now, use := .configCommit role value image }
      ∧ engineAt t (otherHub (leader s)) = engineAt s (otherHub (leader s))
      ∧ FMap.has t.tel.busy (dkey 0x2000 4) = true ∧ t = { s with sec := t.sec, tel := t.tel } := by
  intro image t
  have hrun : t = writeEnded (beginCommit s role value, true) (dkey 0x2000 4) none := by
    have hguard : (FMap.has s.tel.busy (dkey 0x2000 4) && decide (0x2000 ≠ 0x2000)) = false := Bool.and_false _
    unfold t writeEntry
    dsimp only
    rw [hserved, if_neg (by decide), if_neg (by rw [hguard]; decide), hst, if_neg (by decide)]
    exact applyWrite_unaudited s role (.blob value) none (by unfold auditLater; exact Bool.or_true _)
  have hsubmit : beginCommit s role value = submitEngine s (leader s)
      (.verify (decodeKey (slice value 0 96)) (sha384 image) (beNat (slice value 96 48)) (beNat (slice value 144 48))) .firmware
      (.configCommit role value image) := rfl
  rw [hsubmit] at hrun
  generalize EngineOp.verify (decodeKey (slice value 0 96)) (sha384 image) (beNat (slice value 96 48)) (beNat (slice value 144 48)) = op at hrun ⊢
  generalize EngineUse.configCommit role value image = use at hrun ⊢
  generalize hu : submitEngine s (leader s) op .firmware use = u at hrun
  obtain ⟨-, hother⟩ := submitEngine_alone s (leader s) op .firmware use
  obtain ⟨ht, hbusy⟩ := writeEnded_waits u (dkey 0x2000 4) none
  rw [← hrun] at ht hbusy
  have hne : otherHub (leader s) ≠ leader s := by cases leader s <;> decide
  have hall : Only [.sec, .tel] s t := by
    rw [ht]
    exact .mono (by rfl) ((hu ▸ submitEngine_only ..).trans (setTel_only u _))
  refine ⟨?_, ?_, hbusy, hall.eq_overlay⟩
  · rw [ht, ← hu]
    exact engineAt_submitEngine s (leader s) op .firmware use
  · rw [ht]
    exact (congrArg (fun u => engineAt u (otherHub (leader s))) hu.symm).trans (hother _ hne)

/-! ## Stops and overlays (R405, R407) -/

theorem writeEffect_stop (s : State) (role : Role) (n : Nat) (hhigh : group ≤ 4) :
    writeEffect s role 0x3000 group (.num n) = (ceilingStep (dset s 0x3000 group n), false) := by
  unfold writeEffect
  dsimp only
  rw [if_neg (by decide), if_neg (by decide), if_neg (by rw [decide_eq_false (by decide)]; exact Bool.false_ne_true),
    if_pos (by rw [decide_eq_true hhigh]; rfl)]
  rfl

theorem writeEffect_overlay (s : State) (role : Role) (v : DVal) (hstop : stop < 10) :
    writeEffect s role (0x3100 + stop) 2 v
      = (ceilingStep (dset (storeEntry s role (0x3100 + stop) 2 v) (0x3100 + stop) 1 (v.bytes.length / 16)), false) := by
  unfold writeEffect
  dsimp only
  rw [if_neg (by omega), if_neg (by omega), if_neg (by simp only [Bool.and_eq_true, decide_eq_true_eq]; omega),
    if_neg (by simp only [Bool.and_eq_true, decide_eq_true_eq]; omega), if_pos (by simp only [Bool.and_eq_true, decide_eq_true_eq]; omega)]

theorem ceilingStep_keyKept (k : Nat) (s : State) : KeyKept k s (ceilingStep s) := .of_only (ceilingStep_only s) (by decide)

theorem ceilingStep_audit (s : State) : (ceilingStep s).audit = s.audit := (ceilingStep_only s).same .audit (by decide)

/-- An accepted stop: recorded, and in effect at once. -/
theorem stop_law (hlow : 1 ≤ group) (hhigh : group ≤ 4) (hroom : AuditRoom s) (haccepted : Accepted s role 0x3000 group (.num n)) :
    let t := writeEntry s role none 0x3000 group (.num n) none
    Recorded s t role 0x3000 group ∧ activeStop t group = n ∧ EntriesKept s t [dkey 0x3000 group]
      ∧ t = { s with dict := t.dict, audit := t.audit, clusters := t.clusters } := by
  intro t
  obtain ⟨u, haudited, hrun⟩ := applyWrite_audits (v := .num n) (role := role) (index := 0x3000) (sub := group) none hroom
    (auditExempt_other (by decide)) (auditLater_other (by decide) (by decide)) (by decide) (by omega)
  rw [withoutReserved_num (by omega) (by omega), writeEffect_stop u role n hhigh] at hrun
  have ht : t = ceilingStep (dset u 0x3000 group n) := (writeEntry_of_accepted s role _ _ _ none haccepted).trans hrun
  have hkept (k : Nat) (hk : k ≠ dkey 0x3000 group) : KeyKept k u t := by
    rw [ht]
    exact (KeyKept.dset u 0x3000 group n hk).trans (ceilingStep_keyKept k _)
  have hall : Only [.dict, .audit, .clusters] s t := by
    rw [ht]
    exact .mono (by rfl) (haudited.only.trans ((dset_only ..).trans (ceilingStep_only _)))
  refine ⟨recorded_of_kept haudited.recorded (hkept _ (by unfold dkey; omega)) (by rw [ht]; exact ceilingStep_audit _), ?_,
    fun k hk hcount => (haudited.kept k hcount).trans (hkept k (by rwa [List.mem_singleton] at hk)), hall.eq_overlay⟩
  rw [ht]
  exact (ceilingStep_keyKept _ _).dnum.trans (dnum_dset_self ..)

/-- An overlay without its reserved bytes. -/
def overlayStored (value : List Byte) : List Byte := (chunks 16 value).flatMap fun r => slice r 0 4 ++ zeros 4 ++ r.drop 8

/-- The rows of an overlay of whole rows have 16 bytes. -/
theorem length_of_mem_chunks (hrows : value.length % 16 = 0) {r : List Byte} (hr : r ∈ chunks 16 value) : r.length = 16 := by
  unfold chunks at hr
  obtain ⟨i, hi, rfl⟩ := List.mem_map.mp hr
  rw [List.mem_range] at hi
  unfold ceilDiv at hi
  rw [List.length_take, List.length_drop]
  omega

theorem length_overlayStored (hrows : value.length % 16 = 0) : (overlayStored value).length = value.length := by
  have hrow : ∀ r ∈ chunks 16 value, (slice r 0 4 ++ zeros 4 ++ r.drop 8).length = 16 := fun r hr => by
    rw [List.length_append, List.length_append, length_slice, List.length_drop, length_of_mem_chunks hrows hr]
    rfl
  unfold overlayStored
  rw [List.length_flatMap, List.map_congr_left hrow, List.map_const', List.sum_replicate]
  unfold chunks
  rw [List.length_map, List.length_range, smul_eq_mul]
  unfold ceilDiv
  omega

theorem withoutReserved_overlay (hstop : stop < 10) (hrows : value.length % 16 = 0) :
    withoutReserved (0x3100 + stop) sub (.blob value) = .blob (overlayStored value) := by
  unfold withoutReserved overlayStored
  dsimp only
  rw [if_pos (by simp only [Bool.and_eq_true, decide_eq_true_eq]; omega)]
  refine congrArg (fun rows : List (List Byte) => DVal.blob rows.flatten) (List.map_congr_left fun r hr => ?_)
  rw [length_of_mem_chunks hrows hr]
  rfl

/-- A write above the directory and key limits that is accepted passes the checks of its entry. -/
theorem ownStatus_of_accepted (hindex : index < 0x4E00) (hst : writeStatus s role none index sub v = 0) : ownStatus s index sub v = 0 := by
  unfold writeStatus at hst
  by_contra hown
  split at hst
  · contradiction
  · split at hst
    · rw [if_neg (by simp only [Bool.and_eq_true, decide_eq_true_eq]; omega)] at hst
      contradiction
    · exact hown hst

theorem overlay_rows (hstop : stop < 10) (hst : writeStatus s role none (0x3100 + stop) 2 (.blob value) = 0) : value.length % 16 = 0 := by
  have hown := ownStatus_of_accepted (by omega) hst
  unfold ownStatus at hown
  dsimp only at hown
  rw [if_neg (by simp only [Bool.and_eq_true, decide_eq_true_eq]; omega), if_neg (by simp only [Bool.and_eq_true, decide_eq_true_eq]; omega),
    if_pos (by simp only [Bool.and_eq_true, decide_eq_true_eq]; omega)] at hown
  unfold overlayStatus at hown
  by_contra hrows
  rw [if_pos (by rw [DVal.bytes, decide_eq_true hrows]; rfl)] at hown
  exact absurd hown (by decide)

/-- An accepted overlay: recorded, stored without its reserved bytes, its rows counted. -/
theorem overlay_law (hstop : stop < 10) (hroom : AuditRoom s) (haccepted : Accepted s role (0x3100 + stop) 2 (.blob value)) :
    let t := writeEntry s role none (0x3100 + stop) 2 (.blob value) none
    Recorded s t role (0x3100 + stop) 2 ∧ dnum t (0x3100 + stop) 1 = value.length / 16 ∧ dblob t (0x3100 + stop) 2 = overlayStored value
      ∧ EntriesKept s t [dkey (0x3100 + stop) 1, dkey (0x3100 + stop) 2, dkey 0x2000 5]
      ∧ t = { s with dict := t.dict, audit := t.audit, clusters := t.clusters, cfg := t.cfg } := by
  intro t
  have hrows : value.length % 16 = 0 := overlay_rows hstop haccepted.2.2
  obtain ⟨u, haudited, hrun⟩ := applyWrite_audits (v := .blob value) (role := role) (index := 0x3100 + stop) (sub := 2) none hroom
    (auditExempt_other (by omega)) (auditLater_other (by omega) (by omega)) (by omega) (by decide)
  rw [withoutReserved_overlay hstop hrows, writeEffect_overlay u role _ hstop] at hrun
  have hcount : (DVal.blob (overlayStored value)).bytes.length / 16 = value.length / 16 := by
    rw [DVal.bytes, length_overlayStored hrows]
  rw [hcount] at hrun
  obtain ⟨hvalue, hstored⟩ := storeEntry_entries (index := 0x3100 + stop) (sub := 2) u role (.blob (overlayStored value)) (by unfold dkey; omega)
  have hstore := storeEntry_only u role (0x3100 + stop) 2 (.blob (overlayStored value))
  generalize storeEntry u role (0x3100 + stop) 2 (.blob (overlayStored value)) = w at hrun hvalue hstored hstore
  have ht : t = ceilingStep (dset w (0x3100 + stop) 1 (value.length / 16)) := (writeEntry_of_accepted s role _ _ _ none haccepted).trans hrun
  have hkept (k : Nat) (hk : k ≠ dkey (0x3100 + stop) 1) : KeyKept k w t := by
    rw [ht]
    exact (KeyKept.dset w _ _ _ hk).trans (ceilingStep_keyKept k _)
  have hall : Only [.dict, .audit, .clusters, .cfg] s t := by
    rw [ht]
    exact .mono (by rfl) (haudited.only.trans (hstore.trans ((dset_only ..).trans (ceilingStep_only _))))
  have haudit : t.audit = u.audit := by
    rw [ht]
    exact (ceilingStep_audit _).trans (hstore.same .audit (by decide))
  refine ⟨recorded_of_kept haudited.recorded ((hstored _ (by unfold dkey; omega) (by decide)).trans (hkept _ (by unfold dkey; omega))) haudit, ?_, ?_,
    fun k hk hcount => ?_, hall.eq_overlay⟩
  · rw [ht]
    exact (ceilingStep_keyKept _ _).dnum.trans (dnum_dset_self ..)
  · exact congrArg DVal.bytes (Eq.trans (hkept (dkey (0x3100 + stop) 2) (by unfold dkey; omega)) hvalue)
  · simp only [List.mem_cons, List.not_mem_nil, or_false, not_or] at hk
    obtain ⟨h1, h2, hcommit⟩ := hk
    exact (haudited.kept k hcount).trans ((hstored k h2 hcommit).trans (hkept k h1))

/-! ## The copy has been written (R401, R403) -/

theorem copyWritten_entries (s : State) (h : Hub) (copy : List Byte) :
    dnum (copyWritten s h copy) 0x2000 1 = hubNumber h ∧ dnum (copyWritten s h copy) 0x2000 2 = copySeq copy := by
  unfold copyWritten
  extract_lets cfg
  have hlast (u : State) (k : Nat) (hk : k ≠ dkey 0x2000 5) : KeyKept k u (commitIdle u) := KeyKept.dset u _ _ _ hk
  refine ⟨?_, ?_⟩
  · rw [(hlast _ _ (by decide)).dnum, dnum_dset_other _ _ _ _ _ _ (by decide)]
    exact dnum_dset_self ..
  · rw [(hlast _ _ (by decide)).dnum]
    exact dnum_dset_self ..

theorem copyWritten_copies (s : State) (h : Hub) (copy : List Byte) :
    (copyWritten s h copy).cfg.writing = none ∧ (copyWritten s h copy).cfg.startWaits = s.cfg.startWaits
      ∧ copyOf (copyWritten s h copy) h = copy ∧ copyOf (copyWritten s h copy) (otherHub h) = copyOf s (otherHub h) := by
  cases h <;> exact ⟨rfl, rfl, rfl, rfl⟩

/-- The copy that was written is the active one in `t`. -/
structure CopyEnded (s : State) (h : Hub) (copy : List Byte) (t : State) : Prop where
  writing : t.cfg.writing = none
  written : copyOf t h = copy
  other : copyOf t (otherHub h) = copyOf s (otherHub h)
  hub : dnum t 0x2000 1 = hubNumber h
  seq : dnum t 0x2000 2 = copySeq copy
  answered : FMap.has t.tel.busy (dkey 0x2000 4) = false

/-- The state behind the copy's end, before a start that waits for it. -/
def copyDone (s : State) (h : Hub) (copy : List Byte) : State := writeDone (copyWritten s h copy) (dkey 0x2000 4) 0

theorem configurationDone_of_writing (hw : s.cfg.writing = some (h, copy)) : configurationDone s = startAfterCommit (copyDone s h copy) := by
  unfold configurationDone
  rw [hw]
  rfl

section Done

variable (hheld : s.tel.heldWrites = [])

include hheld

theorem copyDone_only (h : Hub) (copy : List Byte) : Only [.tel] (copyWritten s h copy) (copyDone s h copy)
    ∧ FMap.has (copyDone s h copy).tel.busy (dkey 0x2000 4) = false :=
  writeDone_law _ _ _ (by rw [(copyWritten_only s h copy).same .tel (by decide)]; exact hheld)

theorem copyDone_ended (h : Hub) (copy : List Byte) : CopyEnded s h copy (copyDone s h copy) := by
  obtain ⟨honly, hbusy⟩ := copyDone_only hheld h copy
  obtain ⟨hhub, hseq⟩ := copyWritten_entries s h copy
  obtain ⟨hwriting, -, hwritten, hother⟩ := copyWritten_copies s h copy
  have hcfg : (copyDone s h copy).cfg = (copyWritten s h copy).cfg := honly.same .cfg (by decide)
  have hcopy (g : Hub) : copyOf (copyDone s h copy) g = copyOf (copyWritten s h copy) g := by
    unfold copyOf
    rw [hcfg]
  exact ⟨by rw [hcfg]; exact hwriting, (hcopy h).trans hwritten, (hcopy _).trans hother, (honly.dnum (by decide) _ _).trans hhub,
    (honly.dnum (by decide) _ _).trans hseq, hbusy⟩

theorem copyDone_startWaits (h : Hub) (copy : List Byte) : (copyDone s h copy).cfg.startWaits = s.cfg.startWaits := by
  rw [(copyDone_only hheld h copy).1.same .cfg (by decide)]
  exact (copyWritten_copies s h copy).2.1

theorem committing_copyDone (h : Hub) (copy : List Byte) :
    committing (copyDone s h copy) = committing { s with cfg := { s.cfg with writing := none } } := by
  have honly := (copyDone_only hheld h copy).1
  have hsec : (copyDone s h copy).sec = s.sec := (honly.same .sec (by decide)).trans ((copyWritten_only s h copy).same .sec (by decide))
  unfold committing
  rw [hsec, (copyDone_ended hheld h copy).writing]

end Done

theorem startAfterCommit_stays (h : s.cfg.startWaits = none ∨ committing s = true) : startAfterCommit s = s := by
  unfold startAfterCommit
  rcases h with h | h
  · rw [h]
  · split
    · rfl
    · exact if_pos h

theorem startAfterCommit_begins {cold : Bool} (h : s.cfg.startWaits = some cold) (hidle : committing s = false) :
    startAfterCommit s = beginStart { s with cfg := { s.cfg with startWaits := none } } cold := by
  unfold startAfterCommit
  rw [h]
  exact if_neg (by rw [hidle]; decide)

/-- A start leaves the copies, and the entries that name the active one. -/
theorem CopyEnded.beginStart {s u : State} (hu : CopyEnded s h copy u) (cold : Bool) : CopyEnded s h copy (beginStart u cold) := by
  obtain ⟨hwriting, hwritten, hother, hhub, hseq, -⟩ := hu
  have hcfg : (clearRuntime u).cfg.copyA = u.cfg.copyA ∧ (clearRuntime u).cfg.copyB = u.cfg.copyB ∧ (clearRuntime u).cfg.writing = u.cfg.writing := by
    have hfold : ((u.parts.map Prod.fst).foldl abandonBase u).cfg = u.cfg :=
      (Only.foldl (fun _ _ => abandonBase_only ..) (u.parts.map Prod.fst) u).same .cfg (by decide)
    exact ⟨(congrArg ConfigStore.copyA hfold :), (congrArg ConfigStore.copyB hfold :), (congrArg ConfigStore.writing hfold :)⟩
  obtain ⟨hA, hB, hW⟩ := hcfg
  have hcopy (g : Hub) : copyOf (Machine.beginStart u cold) g = copyOf u g := by
    cases g
    · exact hA
    · exact hB
  have hkey (k : Nat) (hk : k < 256 * 0x4000) (hsub : k % 256 < 3) (h1 : k ≠ dkey 0x1200 1) (h2 : k ≠ dkey 0x1200 2) :
      KeyKept k u (Machine.beginStart u cold) :=
    (clearRuntime_keyKept hk (.inl hsub) u).trans (KeyKept.trans rfl ((KeyKept.dset _ _ _ _ h1).trans (.dset _ _ _ _ h2)))
  exact ⟨hW.trans hwriting, (hcopy h).trans hwritten, (hcopy _).trans hother,
    ((hkey (dkey 0x2000 1) (by decide) (by decide) (by decide) (by decide)).dnum).trans hhub,
    ((hkey (dkey 0x2000 2) (by decide) (by decide) (by decide) (by decide)).dnum).trans hseq, rfl⟩

/-! ## Firmware updates (R399, R400) -/

/-- The erased sectors of a slot are below the copies and the audit log: no alarm, and the slots stay. -/
theorem eraseSectors_slots (s : State) (h : Hub) (first n : Nat) :
    (eraseSectors s h first n).cfg.slots = s.cfg.slots ∧ (eraseSectors s h first n).cfg.updateStatus = s.cfg.updateStatus := by
  unfold eraseSectors
  refine foldl_keeps (fun u => u.cfg.slots = s.cfg.slots ∧ u.cfg.updateStatus = s.cfg.updateStatus) _ (fun u i hu => ?_) _ _ ⟨rfl, rfl⟩
  unfold eraseSector
  extract_lets +onlyGivenNames key m src count spare
  have hcount (x : Nat) : (count x).cfg.slots = u.cfg.slots ∧ (count x).cfg.updateStatus = u.cfg.updateStatus := ⟨rfl, rfl⟩
  have halarm (w : State) : (alarm w 5 0).cfg = w.cfg := (alarm_only w 5 0).same .cfg (by decide)
  split
  · exact hu
  · split
    · exact hu
    · split
      · rw [halarm]
        exact hu
      · split <;> exact hu

theorem eraseSectors_running (s : State) (h g : Hub) (first n : Nat) : runningSlot (eraseSectors s h first n) g = runningSlot s g := by
  have hkept : KeyKept (dkey 0x1200 8) s (eraseSectors s h first n) := by
    unfold eraseSectors
    refine .foldl (fun u i => ?_) _ _
    unfold eraseSector
    extract_lets +onlyGivenNames key m src count spare
    have hcount (x : Nat) : KeyKept (dkey 0x1200 8) u (count x) := rfl
    refine .ite (hcount m) (.ite ((hcount 0).trans (.dset _ _ _ _ (by cases h <;> decide)))
      (.ite (((hcount 100000).trans (.dset _ _ _ _ (by decide))).trans (alarm_keyKept (by decide) ..)) (.ite rfl (hcount _))))
  unfold runningSlot
  rw [hkept.dnum]

theorem firmware_refused {image : FwImage} (hready : droneOnly s = false) (hst : updateCheck s h image ≠ 0) :
    firmwareUpdate s h image = drawn { s with cfg := { s.cfg with updateStatus := s.cfg.updateStatus ++ [(h, updateCheck s h image)] } } 1 := by
  unfold firmwareUpdate
  rw [if_neg (by rw [hready]; decide)]
  exact if_pos hst

/-- The slot that the hub does not run takes the image. -/
theorem firmware_taken {image : FwImage} (hready : droneOnly s = false) (hst : updateCheck s h image = 0) :
    let t := firmwareUpdate s h image
    slotImage t h (1 - runningSlot s h) = some image ∧ runningSlot t h = runningSlot s h
      ∧ (∀ k, k ≠ 2 * hubNumber h + (1 - runningSlot s h) → FMap.get? t.cfg.slots k = FMap.get? s.cfg.slots k)
      ∧ t.cfg.updateStatus = s.cfg.updateStatus ++ [(h, 0)] ∧ t.queues = s.queues ∧ t.jobs = s.jobs ∧ t.sec = s.sec := by
  intro t
  let u := drawn { s with cfg := { s.cfg with updateStatus := s.cfg.updateStatus ++ [(h, 0)] } } 1
  let e := eraseSectors u h (512 * (1 - runningSlot s h)) (ceilDiv image.bytes 65536)
  have ht : t = { e with cfg := { e.cfg with slots := FMap.set e.cfg.slots (2 * hubNumber h + (1 - runningSlot s h)) image } } := by
    unfold t firmwareUpdate
    rw [if_neg (by rw [hready]; decide)]
    dsimp only
    rw [hst]
    rfl
  obtain ⟨hslots, hstatus⟩ := eraseSectors_slots u h (512 * (1 - runningSlot s h)) (ceilDiv image.bytes 65536)
  have hall : Only [.dict, .tel, .cfg, .pins, .fresh] s t := by
    rw [ht]
    exact .mono (by rfl) ((setCfg_only s _).trans ((drawn_only _ 1).trans ((eraseSectors_only u h _ _).trans (setCfg_only e _))))
  have hset : t.cfg.slots = FMap.set s.cfg.slots (2 * hubNumber h + (1 - runningSlot s h)) image := by
    rw [ht]
    exact congrArg (fun m => FMap.set m _ image) hslots
  refine ⟨?_, ?_, fun k hk => ?_, ?_, hall.same .queues (by decide), hall.same .jobs (by decide), hall.same .sec (by decide)⟩
  · unfold slotImage
    rw [hset, FMap.get?_set_self]
  · have hrunning : runningSlot t h = runningSlot e h := by rw [ht]; rfl
    exact hrunning.trans (eraseSectors_running u h h _ _)
  · rw [hset, FMap.get?_set_other _ _ _ _ hk]
  · rw [ht]
    exact hstatus

end Configuration

/-- Settles O46: each request is one write behind the settled events; the end of the copy is its entries, its answer, and the start
that waits for it. -/
theorem configurationStore : Obligations.ConfigurationStore := by
  unfold Obligations.ConfigurationStore
  refine ⟨fun s₀ role => ?_, fun s => ⟨fun hidle => ?_, fun h copy hw => ?_, fun hub image => ⟨fun hdrone => ?_, fun hready hst => ?_, fun hready hst => ?_⟩⟩⟩
  · intro s
    refine ⟨fun value => ⟨_, rfl, fun hserved => ?_, fun hserved hst => ?_, fun hserved hst => ?_⟩, fun group stop hlow hhigh haccepted hroom => ?_,
      fun stop value hstop haccepted hroom => ?_⟩
    · exact if_pos (by rw [show served (settleAll s₀) = false from hserved]; rfl)
    · have hrun : writeEntry s role none 0x2000 4 (.blob value) none = drawn s 1 := writeEntry_refuses hserved (.inr rfl) hst
      rw [show writeEntry (settleAll s₀) role none 0x2000 4 (.blob value) none = drawn s 1 from hrun]
      rfl
    · obtain ⟨hengine, hother, hbusy, ht⟩ := commit_law (role := role) hserved hst
      exact ⟨hengine, fun hidle => submitEngine_started hidle hengine, hother, hbusy, ht⟩
    · exact ⟨_, congrArg Host.Outcome.next (if_pos (between_iff.mpr ⟨hlow, hhigh⟩)), stop_law hlow hhigh hroom haccepted⟩
    · exact ⟨_, congrArg Host.Outcome.next (if_pos hstop), overlay_law hstop hroom haccepted⟩
  · refine ⟨_, rfl, ?_⟩
    unfold configurationDone
    rw [hidle]
  · refine ⟨_, congrArg Host.Outcome.next (configurationDone_of_writing hw), fun hheld hstay => ?_, fun cold hheld hwaits hidle => ?_⟩
    · have hsame : startAfterCommit (copyDone s h copy) = copyDone s h copy := startAfterCommit_stays (by
        rw [copyDone_startWaits hheld, committing_copyDone hheld]
        exact hstay)
      rw [hsame]
      obtain ⟨hwriting, hwritten, hother, hhub, hseq, hbusy⟩ := copyDone_ended hheld h copy
      have hall : Only [.cfg, .dict, .tel] s (copyDone s h copy) :=
        .mono (by rfl) ((copyWritten_only s h copy).trans (copyDone_only hheld h copy).1)
      exact ⟨⟨hwriting, hwritten, hother, hhub, hseq, hbusy⟩, hall.eq_overlay⟩
    · have hbegins : startAfterCommit (copyDone s h copy)
          = beginStart { copyDone s h copy with cfg := { (copyDone s h copy).cfg with startWaits := none } } cold :=
        startAfterCommit_begins ((copyDone_startWaits hheld h copy).trans hwaits) ((committing_copyDone hheld h copy).trans hidle)
      rw [hbegins]
      have hended := copyDone_ended hheld h copy
      generalize copyDone s h copy = d at hended
      have hended' : CopyEnded s h copy { d with cfg := { d.cfg with startWaits := none } } := by
        obtain ⟨hwriting, hwritten, hother, hhub, hseq, hbusy⟩ := hended
        exact ⟨hwriting, hwritten, hother, hhub, hseq, hbusy⟩
      obtain ⟨hwriting, hwritten, hother, hhub, hseq, hbusy⟩ := hended'.beginStart cold
      refine ⟨⟨hwriting, hwritten, hother, hhub, hseq, hbusy⟩, beginStart_state .., beginStart_kind .., rfl, beginStart_queues .., rfl, rfl⟩
  · exact ⟨_, rfl, if_pos hdrone⟩
  · refine ⟨_, congrArg Host.Outcome.next (firmware_refused hready hst), rfl⟩
  · exact ⟨_, rfl, firmware_taken hready hst⟩

end Sys2Proof.Machine

/-! PROOFS. What the end of a function's work leaves: the held writes, the entries of the functions' resets, the functions of queues and
jobs, the counts of the mailboxes. -/

namespace Sys2Proof.Machine

/-- A function's entries that its reset reads: its partition, its drain and its state. -/
def ResetKey (k : Nat) : Prop := k < 256 * 0x4500 ∧ (k % 256 = 1 ∨ k % 256 = 5 ∨ k % 256 = 6)

/-- The queue `R` is the queue `Q` later: of the same function, and as empty. -/
structure SameFunction (Q R : Queue) : Prop where
  fn : R.fn = Q.fn
  cmds : Q.cmds = [] → R.cmds = []
  runs : Q.runs = [] → R.runs = []

/-- From `s` to `t` no write is held or released, no function's reset entries change, no queue and no job comes, none changes its
function, an empty queue stays empty, and every mailbox keeps its count of bad doorbells. -/
structure Calm (s t : State) : Prop where
  held : t.tel.heldWrites = s.tel.heldWrites
  keys : ∀ k, ResetKey k → KeyKept k s t
  queues : ∀ q R, queueAt t q = some R → ∃ Q, queueAt s q = some Q ∧ SameFunction Q R
  jobs : ∀ j K, jobAt t j = some K → ∃ J, jobAt s j = some J ∧ K.fn = J.fn
  mail : ∀ fn, (mboxAt t fn).badDoorbells = (mboxAt s fn).badDoorbells

namespace SameFunction

theorem refl (Q : Queue) : SameFunction Q Q := ⟨rfl, id, id⟩

theorem trans {Q R T : Queue} (h : SameFunction Q R) (g : SameFunction R T) : SameFunction Q T :=
  ⟨g.fn.trans h.fn, fun e => g.cmds (h.cmds e), fun e => g.runs (h.runs e)⟩

end SameFunction

namespace Calm

variable {s t u : State}

theorem refl (s : State) : Calm s s :=
  ⟨rfl, fun _ _ => .refl s, fun _ R h => ⟨R, h, .refl R⟩, fun _ J h => ⟨J, h, rfl⟩, fun _ => rfl⟩

theorem trans (h : Calm s t) (g : Calm t u) : Calm s u := by
  refine ⟨g.held.trans h.held, fun k hk => (h.keys k hk).trans (g.keys k hk), fun q T hT => ?_, fun j L hL => ?_,
    fun fn => (g.mail fn).trans (h.mail fn)⟩
  · obtain ⟨R, hR, hRT⟩ := g.queues q T hT
    obtain ⟨Q, hQ, hQR⟩ := h.queues q R hR
    exact ⟨Q, hQ, hQR.trans hRT⟩
  · obtain ⟨K, hK, hKL⟩ := g.jobs j L hL
    obtain ⟨J, hJ, hJK⟩ := h.jobs j K hK
    exact ⟨J, hJ, hKL.trans hJK⟩

/-- Queues, jobs and mailboxes as they are. -/
theorem of_same (hq : t.queues = s.queues) (hj : t.jobs = s.jobs) (hm : t.mbx = s.mbx) (held : t.tel.heldWrites = s.tel.heldWrites)
    (keys : ∀ k, ResetKey k → KeyKept k s t) : Calm s t := by
  refine ⟨held, keys, fun q R h => ⟨R, ?_, .refl R⟩, fun j J h => ⟨J, ?_, rfl⟩, fun fn => ?_⟩
  · unfold queueAt at h ⊢
    rwa [← hq]
  · unfold jobAt at h ⊢
    rwa [← hj]
  · unfold mboxAt
    rw [hm]

theorem of_only {F : List StateField} (h : Only F s t) (hF : .dict ∉ F ∧ .tel ∉ F ∧ .queues ∉ F ∧ .jobs ∉ F ∧ .mbx ∉ F) : Calm s t := by
  obtain ⟨hd, ht, hq, hj, hm⟩ := hF
  exact of_same (h.same .queues hq) (h.same .jobs hj) (h.same .mbx hm) (congrArg Telemetry.heldWrites (h.same .tel ht)) fun k _ => .of_only h hd

theorem of_keys {F : List StateField} (h : Only F s t) (hF : .tel ∉ F ∧ .queues ∉ F ∧ .jobs ∉ F ∧ .mbx ∉ F)
    (keys : ∀ k, ResetKey k → KeyKept k s t) : Calm s t := by
  obtain ⟨ht, hq, hj, hm⟩ := hF
  exact of_same (h.same .queues hq) (h.same .jobs hj) (h.same .mbx hm) (congrArg Telemetry.heldWrites (h.same .tel ht)) keys

theorem ite {c : Prop} [Decidable c] (h : Calm s t) (g : Calm s u) : Calm s (if c then t else u) := by
  split <;> assumption

theorem foldl {α : Type} {f : State → α → State} (h : ∀ s a, Calm s (f s a)) (l : List α) (s : State) : Calm s (l.foldl f s) := by
  induction l generalizing s with
  | nil => exact .refl s
  | cons a l ih => exact (h s a).trans (ih _)

theorem dset (s : State) (i j n : Nat) (h : ¬ResetKey (dkey i j)) : Calm s (dset s i j n) :=
  of_keys (dset_only s i j n) (by decide) fun k hk => .dset _ _ _ _ fun e => h (e ▸ hk)

theorem bump (s : State) (i j n : Nat) (h : ¬ResetKey (dkey i j)) : Calm s (bump s i j n) := dset s i j _ h

theorem raiseTo (s : State) (i j n : Nat) (h : ¬ResetKey (dkey i j)) : Calm s (raiseTo s i j n) := dset s i j _ h

theorem updQueue (s : State) (q : Nat) (f : Queue → Queue) (hf : ∀ Q, SameFunction Q (f Q)) : Calm s (updQueue s q f) := by
  have h := updQueue_only s q f
  refine ⟨congrArg Telemetry.heldWrites (h.same .tel (by decide)), fun k _ => .of_only h (by decide), fun p R hR => ?_,
    fun j J hJ => ⟨J, hJ, rfl⟩, fun fn => rfl⟩
  rw [queueAt_updQueue] at hR
  split at hR
  · obtain ⟨Q, hQ, rfl⟩ := Option.map_eq_some_iff.mp hR
    exact ⟨Q, hQ, hf Q⟩
  · exact ⟨R, hR, .refl R⟩

theorem updJob (s : State) (j : Nat) (f : Job → Job) (hf : ∀ J, (f J).fn = J.fn) : Calm s (updJob s j f) := by
  have h := updJob_only s j f
  refine ⟨congrArg Telemetry.heldWrites (h.same .tel (by decide)), fun k _ => .of_only h (by decide), fun q Q hQ => ⟨Q, hQ, .refl Q⟩,
    fun i K hK => ?_, fun fn => rfl⟩
  rw [jobAt_updJob] at hK
  split at hK
  · obtain ⟨J, hJ, rfl⟩ := Option.map_eq_some_iff.mp hK
    exact ⟨J, hJ, hf J⟩
  · exact ⟨K, hK, rfl⟩

theorem updMbox (s : State) (fn : Nat) (f : Mailbox → Mailbox) (hf : ∀ m, (f m).badDoorbells = m.badDoorbells) : Calm s (updMbox s fn f) := by
  have h := updMbox_only s fn f
  refine ⟨congrArg Telemetry.heldWrites (h.same .tel (by decide)), fun k _ => .of_only h (by decide), fun q Q hQ => ⟨Q, hQ, .refl Q⟩,
    fun j J hJ => ⟨J, hJ, rfl⟩, fun g => ?_⟩
  by_cases hg : g = fn
  · rw [hg, mboxAt_updMbox_self]
    exact hf _
  · rw [mboxAt_updMbox_other _ _ _ _ hg]

end Calm

/-- An entry above the functions' is none of their reset entries. -/
theorem not_resetKey_of_index {i j : Nat} (h : 0x4500 ≤ i) : ¬ResetKey (dkey i j) := fun hk => by
  have := hk.1
  unfold dkey at this
  omega

theorem not_resetKey_of_sub {i j : Nat} (hj : j < 256) (h1 : j ≠ 1) (h5 : j ≠ 5) (h6 : j ≠ 6) : ¬ResetKey (dkey i j) := fun hk => by
  have := hk.2
  unfold dkey at this
  omega

section Calm

variable {k : Nat}

theorem ResetKey.low (h : ResetKey k) : k < 256 * 0x4500 := h.1

/-! ## Traces, completions, counters -/

theorem traceDrain_held (fuel : Nat) (s : State) : (traceDrain s fuel).tel.heldWrites = s.tel.heldWrites := by
  induction fuel generalizing s with
  | zero => rfl
  | succ n ih =>
    unfold traceDrain
    split
    · rfl
    · next r l _ =>
      split
      · rfl
      · exact ih (traceEmit { s with tel := { s.tel with traceHeld := l } } r)

theorem trace_calm (s : State) (kind source queue arg0 arg1 arg2 : Nat) : Calm s (trace s kind source queue arg0 arg1 arg2) := by
  have h := trace_only s kind source queue arg0 arg1 arg2
  refine .of_same (h.same .queues (by decide)) (h.same .jobs (by decide)) (h.same .mbx (by decide)) ?_ fun k hk => trace_keyKept ?_ ..
  · unfold trace
    extract_lets r src gap s'
    split
    · rfl
    · split
      · rfl
      · split
        · rfl
        · split
          · exact traceDrain_held _ _
          · rfl
  · have := hk.low
    omega

theorem msix_calm (s : State) (fn vector : Nat) : Calm s (msix s fn vector) := .of_same rfl rfl rfl rfl fun _ _ => rfl

theorem putCompletion_calm (s : State) (q : Nat) (c : Cmd) (st : Status) : Calm s (putCompletion s q c st) := by
  unfold putCompletion
  split
  · exact .refl s
  · next Q _ =>
    extract_lets addr bs s1 s2
    have h1 : Calm s s1 := .ite (.of_only (hbmWrite_only ..) (by decide)) (.of_only (hostWrite_only ..) (by decide))
    have h2 : Calm s s2 := h1.trans (.updQueue _ _ _ fun _ => by exact ⟨rfl, id, id⟩)
    exact .ite (h2.trans (msix_calm ..)) h2

theorem missRecord_calm (s : State) (fn queue index planned arrived cause detail cls stream : Nat) :
    Calm s (missRecord s fn queue index planned arrived cause detail cls stream) :=
  .of_keys (missRecord_only ..) (by decide) fun _ hk => missRecord_keyKept (by have := hk.low; omega) ..

theorem endStall_calm (s : State) (q fn : Nat) (c : Cmd) : Calm s (endStall s q fn c) := by
  unfold endStall
  extract_lets cls cause beats s1 s2
  have h1 : Calm s s1 := .of_keys (stall_only ..) (by decide) fun _ hk => stall_keyKept (by have := hk.low; omega) ..
  have h2 : Calm s s2 := h1.trans (trace_calm ..)
  exact .ite (.refl s) (.ite (h2.trans (missRecord_calm ..)) h2)

theorem countIssued_calm (s : State) (c : Cmd) (n : Nat) : Calm s (countIssued s c n) :=
  .of_keys (countIssued_only ..) (by decide) fun _ hk => countIssued_keyKept (by have := hk.low; omega) ..

theorem countKilledArray_calm (s : State) (c : Cmd) : Calm s (countKilledArray s c) := by
  have hcore (sub : Nat) : ¬ResetKey (dkey (0x6300 + c.core) sub) := not_resetKey_of_index (by omega)
  unfold countKilledArray
  extract_lets i
  refine .ite ?_ (.ite ((Calm.bump _ _ _ _ (hcore _)).trans (.bump _ _ _ _ (hcore _))) (.refl s))
  have hwait (t : State) : Calm t (countRootWait t c) :=
    .of_keys (countRootWait_only ..) (by decide) fun _ hk => countRootWait_keyKept _ _ fun e => hcore _ (e ▸ hk)
  exact (((Calm.bump s i 4 1 (hcore _)).trans (.bump (bump s i 4 1) i 5 (arrayCycles s c) (hcore _))).trans (countIssued_calm ..)).trans (hwait _)

/-! ## Storage -/

theorem setCharge_calm (s : State) (part fn tier n : Nat) : Calm s (setCharge s part fn tier n) := by
  have hfn (sub : Nat) : ¬ResetKey (dkey (0x50FF + fn) sub) := not_resetKey_of_index (by omega)
  unfold setCharge
  extract_lets s1
  have h1 : Calm s s1 := .dset _ _ _ _ (hfn _)
  exact .ite (.of_only (updPart_only ..) (by decide)) (.ite (h1.trans (.raiseTo _ _ _ _ (hfn _))) h1)

theorem uncharge_calm (s : State) (part fn tier n : Nat) : Calm s (uncharge s part fn tier n) := setCharge_calm ..

theorem returnStorage_calm (s : State) (part key : Nat) (b : Buf) : Calm s (returnStorage s part key b) := by
  unfold returnStorage
  extract_lets s1
  have h1 : Calm s s1 := .ite (.refl s) (uncharge_calm ..)
  split
  · exact h1
  · extract_lets s2
    have h2 : Calm s s2 := .ite h1 (h1.trans (uncharge_calm ..))
    exact h2.trans (.of_same rfl rfl rfl rfl fun _ _ => rfl)

theorem setBufs_calm (s : State) (v : FMap Buf) : Calm s { s with bufs := v } := .of_same rfl rfl rfl rfl fun _ _ => rfl

theorem releaseHeld_calm (s : State) : Calm s (releaseHeld s) := by
  unfold releaseHeld
  refine .foldl (fun t e => ?_) _ _
  exact .ite (.refl t) ((setBufs_calm ..).trans (returnStorage_calm ..))

theorem respond_calm (s : State) (fn cls seq : Nat) (bytes : List Byte) : Calm s (respond s fn cls seq bytes) := .updMbox _ _ _ fun _ => rfl

theorem placementDone_calm (s : State) (part : Nat) (r : PlaceReq) (st : Status) (done : Nat) : Calm s (placementDone s part r st done) :=
  (Calm.dset _ _ _ _ (not_resetKey_of_index (by omega))).trans (respond_calm ..)

theorem endRequests_calm (s : State) (part key : Nat) : Calm s (endRequests s part key) := by
  unfold endRequests
  split
  · exact .refl s
  · exact (Calm.foldl (fun t r => placementDone_calm t part r 0x0212 t.now) _ s).trans (.of_same rfl rfl rfl rfl fun _ _ => rfl)

theorem freeBuf_calm (s : State) (key : Nat) : Calm s (freeBuf s key) := by
  unfold freeBuf
  split
  · exact .refl s
  · next b _ =>
    extract_lets ver held s1 src s2
    have h2 : Calm s s2 := (endRequests_calm ..).trans (.of_same rfl rfl rfl rfl fun _ _ => rfl)
    exact .ite ((h2.trans (setBufs_calm ..)).trans (.of_only (moveTiered_only ..) (by decide))) (h2.trans (returnStorage_calm ..))

theorem freeOwned_calm (s : State) (q : Nat) : Calm s (freeOwned s q) := .foldl freeBuf_calm _ _

/-! ## Commits of waiting commands -/

theorem holdQueue_calm (s : State) (q : Nat) : Calm s (holdQueue s q) := by
  unfold holdQueue
  split
  · exact .refl s
  · extract_lets s1
    have h1 : Calm s s1 := .updQueue _ _ _ fun _ => by exact ⟨rfl, id, id⟩
    exact .ite (.refl s) (.ite (h1.trans (.updJob _ _ _ fun _ => rfl)) h1)

/-- The first run that ends leaves those behind it. -/
theorem runs_drop (Q : Queue) (seq : Nat) : SameFunction Q { Q with
    committed := seq, running := if Q.earlierRuns.isEmpty then none else Q.running, earlierRuns := Q.earlierRuns.drop 1 } := by
  refine ⟨rfl, id, fun h => ?_⟩
  obtain ⟨hearlier, hrunning⟩ := List.append_eq_nil_iff.mp h
  unfold Queue.runs
  simp only [hearlier, List.isEmpty_nil]
  rfl

theorem commitRuns_calm (fuel : Nat) (s : State) (q : Nat) : Calm s (commitRuns fuel s q) := by
  induction fuel generalizing s with
  | zero => exact .refl s
  | succ n ih =>
    unfold commitRuns
    split
    · exact .refl s
    · split
      · exact .refl s
      · next r _ _ =>
        extract_lets s1 s2
        have h1 : Calm s s1 := trace_calm ..
        have h2 : Calm s s2 := (h1.trans (putCompletion_calm ..)).trans (.updQueue _ _ _ fun Q => runs_drop Q _)
        exact .ite (.refl s) (((h2.trans (holdQueue_calm ..)).trans (releaseHeld_calm _)).trans (ih _))

theorem commitRun_calm (s : State) (q : Nat) : Calm s (commitRun s q) := by
  unfold commitRun
  split
  · exact .refl s
  · exact commitRuns_calm ..

theorem logSweep_calm (s : State) (q : Nat) (r : SweepRec) : Calm s (logSweep s q r) := by
  unfold logSweep
  split
  · exact .refl s
  · extract_lets s1
    have h1 : Calm s s1 := .updQueue _ _ _ fun _ => by exact ⟨rfl, id, id⟩
    split
    · exact h1
    · exact h1.trans (.updJob _ _ _ fun _ => rfl)

/-- A command that commits leaves the queue. -/
theorem cmds_leave (Q : Queue) (seq : Nat) (p : Cmd → Bool) (f : Cmd → Cmd) :
    SameFunction Q { Q with committed := seq, cmds := (Q.cmds.filter p).map f } :=
  ⟨rfl, fun h => by simp [h], id⟩

theorem commitOne_calm (s : State) (q : Nat) (c : Cmd) (st : Status) : Calm s (commitOne s q c st) := by
  unfold commitOne
  extract_lets s1 s2 s3 s4 s5 s6 s7 s8 s9
  have h1 : Calm s s1 := .of_only (.foldl (fun _ _ => storeStaged_only ..) _ _) (by decide)
  have h2 : Calm s s2 := by
    simp only [s2]
    split
    · exact h1
    · refine h1.trans (.updJob _ _ _ fun J => ?_)
      split
      · rfl
      · split <;> rfl
  have h3 : Calm s s3 := by
    simp only [s3]
    split
    · exact h2
    · exact h2.trans (logSweep_calm ..)
  have h4 : Calm s s4 := .ite (h3.trans (.bump _ _ _ _ (not_resetKey_of_index (by omega)))) h3
  have h5 : Calm s s5 := .ite (h4.trans (.of_only (updCore_only ..) (by decide))) h4
  have h6 : Calm s s6 := h5.trans (trace_calm ..)
  have h7 : Calm s s7 := .ite (h6.trans (putCompletion_calm ..)) h6
  have h8 : Calm s s8 := h7.trans (.of_only (tellRemote_only ..) (by decide))
  have h9 : Calm s s9 := h8.trans (.updQueue _ _ _ fun Q => cmds_leave Q _ _ _)
  exact (h9.trans (releaseHeld_calm _)).trans (commitRun_calm ..)

theorem reexamineOne_calm (obj : Nat) (s : State) (w : Waiter) : Calm s (reexamineOne obj s w) := by
  unfold reexamineOne
  split
  · split
    · exact .refl s
    · split
      · exact .refl s
      · exact (Calm.of_only (putSync_only ..) (by decide)).trans (commitOne_calm ..)
  · exact .refl s

theorem reexamine_calm (s : State) (obj : Nat) : Calm s (reexamine s obj) := by
  unfold reexamine
  split
  · exact .refl s
  · exact .foldl (reexamineOne_calm obj) _ _

theorem abandonLocks_calm (s : State) (q : Nat) : Calm s (abandonLocks s q) := by
  unfold abandonLocks
  refine .foldl (fun t e => ?_) _ _
  split
  · split
    · exact .refl t
    · exact ((Calm.of_only (putSync_only ..) (by decide)).trans (.bump _ _ _ _ (not_resetKey_of_index (by decide)))).trans (reexamine_calm ..)
  · exact .refl t

/-! ## Queues and jobs end -/

theorem giveUp_calm (s : State) (q : Nat) (c : Cmd) : Calm s (giveUp s q c) := by
  unfold giveUp
  extract_lets +onlyGivenNames s1 s2 s3 s4
  have h2 : Calm s s2 := (Calm.of_only ((leaveEngines_only ..).trans ((discardArray_only ..).trans
    ((withdraw_only ..).trans (withdrawPartials_only ..)))) (by decide)).trans (endStall_calm ..)
  have h3 : Calm s s3 := .ite (h2.trans (countKilledArray_calm ..)) h2
  have h4 : Calm s s4 := .ite (h3.trans (.of_only (recallSignal_only ..) (by decide))) h3
  exact .ite (h4.trans (.of_only (tellRemote_only ..) (by decide))) h4

theorem dropCmd_calm (s : State) (q : Nat) (c : Cmd) : Calm s (dropCmd s q c) := by
  unfold dropCmd
  exact .ite (giveUp_calm ..) ((giveUp_calm ..).trans (trace_calm ..))

/-- A queue whose commands and runs are dropped. -/
theorem cmds_dropped (Q : Queue) :
    SameFunction Q { Q with cmds := [], running := none, earlierRuns := [], window := none, laterWindows := [] } :=
  ⟨rfl, fun _ => rfl, fun _ => rfl⟩

theorem resetQueue_calm (s : State) (q : Nat) : Calm s (resetQueue s q) := by
  unfold resetQueue
  split
  · exact .refl s
  · extract_lets s1 s2 s3 s4
    have h1 : Calm s s1 := .foldl (fun t c => dropCmd_calm t q c) _ _
    have h2 : Calm s s2 := h1.trans (.updQueue _ _ _ cmds_dropped)
    have h3 : Calm s s3 := h2.trans (abandonLocks_calm ..)
    exact (h3.trans (.updQueue _ _ _ fun _ => by exact ⟨rfl, id, id⟩)).trans (releaseHeld_calm _)

theorem diverge_calm (s : State) : Calm s (diverge s) := by
  unfold diverge
  extract_lets s1
  have h1 : Calm s s1 := .bump _ _ _ _ (not_resetKey_of_index (by decide))
  exact .ite (h1.trans (.dset _ _ _ _ (not_resetKey_of_index (by decide)))) h1

theorem replayEnd_calm (s : State) (J : Job) : Calm s (replayEnd s J) := by
  unfold replayEnd
  split
  · exact .refl s
  · exact .foldl (fun t _ => diverge_calm t) _ _

theorem freeSync_calm (s : State) (j : Nat) : Calm s (freeSync s j) := by
  unfold freeSync
  exact Calm.trans (t := { s with sync := s.sync.filter fun e => e.2.job ≠ j }) (.of_same rfl rfl rfl rfl fun _ _ => rfl)
    (.foldl (fun t e => .dset _ _ _ _ (not_resetKey_of_index (by decide))) _ _)

theorem beginUnbind_calm (s : State) (ctx : Nat) : Calm s (beginUnbind s ctx) := by
  unfold beginUnbind
  split
  · exact .refl s
  · extract_lets s1
    have h1 : Calm s s1 := by
      simp only [s1]
      split
      · exact respond_calm ..
      · exact .refl s
    exact h1.trans (.of_same rfl rfl rfl rfl fun _ _ => rfl)

theorem eraseJob_calm (s : State) (j : Nat) (cores : FMap Core) (reds : FMap Reduction) (win : Windway) :
    Calm s { s with cores, reds, win, jobs := FMap.erase s.jobs j } := by
  refine ⟨rfl, fun _ _ => rfl, fun q Q hQ => ⟨Q, hQ, .refl Q⟩, fun i K hK => ?_, fun fn => rfl⟩
  have hK' : FMap.get? (FMap.erase s.jobs j) i = some K := hK
  by_cases hi : i = j
  · rw [hi, FMap.get?_erase_self] at hK'
    cases hK'
  · rw [FMap.get?_erase_other _ _ _ hi] at hK'
    exact ⟨K, hK', rfl⟩

theorem endJob_calm (s : State) (j : Nat) : Calm s (endJob s j) := by
  unfold endJob
  split
  · exact .refl s
  · next J _ =>
    extract_lets s1 s2 s3 s4 keys s5 s6 s7 s8
    have h1 : Calm s s1 := .foldl (fun t q => (resetQueue_calm t q).trans (.updQueue _ _ _ fun _ => by exact ⟨rfl, id, id⟩)) _ _
    have h4 : Calm s s4 := (((h1.trans (replayEnd_calm ..)).trans (freeSync_calm ..)).trans (uncharge_calm ..)).trans (uncharge_calm ..)
    have h5 : Calm s s5 := h4.trans (.foldl freeBuf_calm _ _)
    have h6 : Calm s s6 := h5.trans (setBufs_calm ..)
    have h7 : Calm s s7 := h6.trans (.foldl (f := fun t (e : Nat × Ctx) => beginUnbind t e.1) (fun t e => beginUnbind_calm t e.1) _ _)
    exact (h7.trans (eraseJob_calm s7 j _ _ _)).trans (.dset _ _ _ _ (not_resetKey_of_sub (by decide) (by decide) (by decide) (by decide)))

theorem resetWithJob_calm (s : State) (q : Nat) : Calm s (resetWithJob s q) := by
  unfold resetWithJob
  split
  · exact resetQueue_calm ..
  · exact endJob_calm ..

theorem eraseQueue_calm (s : State) (q : Nat) : Calm s { s with queues := FMap.erase s.queues q } := by
  refine ⟨rfl, fun _ _ => rfl, fun p R hR => ?_, fun j J hJ => ⟨J, hJ, rfl⟩, fun fn => rfl⟩
  have hR' : FMap.get? (FMap.erase s.queues q) p = some R := hR
  by_cases hp : p = q
  · rw [hp, FMap.get?_erase_self] at hR'
    cases hR'
  · rw [FMap.get?_erase_other _ _ _ hp] at hR'
    exact ⟨R, hR', .refl R⟩

theorem destroyQueue_calm (s : State) (q : Nat) : Calm s (destroyQueue s q) := by
  have hsub (i j : Nat) (hj : j = 3 ∨ j = 10) : ¬ResetKey (dkey i j) := not_resetKey_of_sub (by omega) (by omega) (by omega) (by omega)
  unfold destroyQueue
  split
  · exact .refl s
  · exact ((((resetWithJob_calm ..).trans (freeOwned_calm ..)).trans (eraseQueue_calm ..)).trans (.dset _ _ _ _ (hsub _ _ (.inr rfl)))).trans
      (.dset _ _ _ _ (hsub _ _ (.inl rfl)))

/-! ## Failures, and a base that is given up -/

theorem updCmd_calm (s : State) (q uid : Nat) (f : Cmd → Cmd) : Calm s (updCmd s q uid f) :=
  .updQueue _ _ _ fun _ => ⟨rfl, fun h => by simp [h], id⟩

theorem offence_calm (s : State) (q : Nat) (cmd : Option Nat) : Calm s (offence s q cmd) :=
  .updQueue _ _ _ fun Q => by
    dsimp only
    split <;> exact ⟨rfl, id, id⟩

theorem stopQueue_calm (s : State) (q : Nat) (st : Status) : Calm s (stopQueue s q st) :=
  (Calm.updQueue _ _ _ fun _ => by exact ⟨rfl, id, id⟩).trans (holdQueue_calm ..)

theorem failCmd_calm (s : State) (q uid : Nat) (st : Status) (stops : Bool) : Calm s (failCmd s q uid st stops) := by
  unfold failCmd
  split
  · exact .refl s
  · next c _ =>
    extract_lets s1 s2 s3 s4 s5
    have h1 : Calm s s1 := (Calm.of_only ((leaveEngines_only s q uid).trans ((discardArray_only _ q c).trans (withdraw_only _ q uid))) (by decide)).trans
      (endStall_calm ..)
    have h2 : Calm s s2 := .ite (h1.trans (countIssued_calm ..)) h1
    have h4 : Calm s s4 := (h2.trans (updCmd_calm ..)).trans (putCompletion_calm ..)
    have h5 : Calm s s5 := .ite (h4.trans (offence_calm ..)) h4
    exact (Calm.ite (h5.trans (stopQueue_calm ..)) h5).trans (releaseHeld_calm _)

theorem failIncoming_calm (s : State) (part : Nat) (st : Status) : Calm s (failIncoming s part st) := by
  unfold failIncoming
  refine .foldl (fun t e => ?_) _ _
  split
  · exact .refl t
  · split
    · exact .refl t
    · exact failCmd_calm ..

theorem chargeBase_calm (s : State) (part add sub : Nat) : Calm s (chargeBase s part add sub) := .dset _ _ _ _ (not_resetKey_of_index (by omega))

theorem noBase_calm (s : State) (part st : Nat) : Calm s (noBase s part st) := by
  refine .of_keys (noBase_only ..) (by decide) fun k hk => ?_
  have hne (j : Nat) : k ≠ dkey (0x5600 + part) j := fun e => not_resetKey_of_index (i := 0x5600 + part) (j := j) (by omega) (e ▸ hk)
  unfold noBase
  exact ((KeyKept.dset s (0x5600 + part) 1 st (hne _)).trans (KeyKept.trans (dget_dput_other _ _ _ _ (hne 2)) (dget_dput_other _ _ _ _ (hne 3)))).trans
    ((KeyKept.dset _ _ _ _ (hne _)).trans (.dset _ _ _ _ (hne _)))

theorem freeBase_calm (s : State) (part : Nat) : Calm s (freeBase s part) := by
  unfold freeBase
  exact ((Calm.foldl (fun t x => freeBuf_calm t _) _ s).trans (chargeBase_calm ..)).trans (.of_only (updPart_only ..) (by decide))

theorem bumpBaseGen_calm (s : State) (part : Nat) : Calm s (bumpBaseGen s part) := by
  refine .of_keys (bumpBaseGen_only ..) (by decide) fun k hk => ?_
  have hgen : KeyKept k s (dset s (0x4E00 + part) 5 ((baseGen s part + 1) % 2 ^ 32)) :=
    (Calm.dset _ _ _ _ (not_resetKey_of_index (by omega))).keys k hk
  exact hgen

theorem abandonBase_calm (s : State) (part : Nat) : Calm s (abandonBase s part) := by
  unfold abandonBase
  split
  · exact .refl s
  · next b _ =>
    extract_lets s1 src s2 s3 s4 s5
    have h2 : Calm s s2 := Calm.trans (t := s1) (.of_only (updPart_only ..) (by decide)) (.of_same rfl rfl rfl rfl fun _ _ => rfl)
    have h3 (u : State) (hu : Calm s u) : Calm s
        (bumpBaseGen (failIncoming (updPart (noBase u part 4) part fun p => { p with brokenStatus := 0x0B04 }) part 0x0B04) part) :=
      (((hu.trans (noBase_calm ..)).trans (.of_only (updPart_only ..) (by decide))).trans (failIncoming_calm ..)).trans (bumpBaseGen_calm ..)
    have h5 : Calm s s5 := .ite h2 (h3 _ (.ite
      ((h2.trans (.of_only (turnLayer_only ..) (by decide))).trans (freeBase_calm ..)) (h2.trans (chargeBase_calm ..))))
    exact .ite h5 (h5.trans (respond_calm ..))

/-! ## Pending requests -/

theorem dropPlacement_calm (s : State) (fn : Nat) : Calm s (dropPlacement s fn) := by
  unfold dropPlacement
  refine .foldl (fun t e => ?_) _ _
  exact (Calm.dset t (0x5000 + keyPart e.1) 8 _ (not_resetKey_of_index (by omega))).trans (.of_same rfl rfl rfl rfl fun _ _ => rfl)

theorem dropPending_calm (s : State) (fn : Nat) : Calm s (dropPending s fn) := by
  unfold dropPending
  extract_lets +onlyGivenNames s1 s2 s3
  have h2 : Calm s s2 := Calm.trans (t := s1) (.of_only (forgetAll_only ..) (by decide)) (.of_same rfl rfl rfl rfl fun _ _ => rfl)
  have h3 : Calm s s3 := .ite (h2.trans (.foldl abandonBase_calm _ _)) h2
  exact (h3.trans (dropPlacement_calm ..)).trans (.updMbox _ _ _ fun _ => rfl)

end Calm

end Sys2Proof.Machine

/-! PROOFS. Resets of functions: their end, their begin, the drain, the PF's turn (R316 to R318). -/

namespace Sys2Proof.Machine

/-- `Calm` but for the functions' states: a reset writes them. -/
structure Fewer (s t : State) : Prop where
  held : t.tel.heldWrites = s.tel.heldWrites
  keys : ∀ k, ResetKey k → k % 256 ≠ 6 → KeyKept k s t
  queues : ∀ q R, queueAt t q = some R → ∃ Q, queueAt s q = some Q ∧ SameFunction Q R
  jobs : ∀ j K, jobAt t j = some K → ∃ J, jobAt s j = some J ∧ K.fn = J.fn

section Resets

variable {s t u v : State} {fn vf q j : Nat}

theorem Calm.fewer (h : Calm s t) : Fewer s t := ⟨h.held, fun k hk _ => h.keys k hk, h.queues, h.jobs⟩

namespace Fewer

theorem refl (s : State) : Fewer s s := (Calm.refl s).fewer

theorem trans (h : Fewer s t) (g : Fewer t u) : Fewer s u := by
  refine ⟨g.held.trans h.held, fun k hk h6 => (h.keys k hk h6).trans (g.keys k hk h6), fun q T hT => ?_, fun j L hL => ?_⟩
  · obtain ⟨R, hR, hRT⟩ := g.queues q T hT
    obtain ⟨Q, hQ, hQR⟩ := h.queues q R hR
    exact ⟨Q, hQ, hQR.trans hRT⟩
  · obtain ⟨K, hK, hKL⟩ := g.jobs j L hL
    obtain ⟨J, hJ, hJK⟩ := h.jobs j K hK
    exact ⟨J, hJ, hKL.trans hJK⟩

theorem foldl {α : Type} {f : State → α → State} (h : ∀ s a, Fewer s (f s a)) (l : List α) (s : State) : Fewer s (l.foldl f s) := by
  induction l generalizing s with
  | nil => exact .refl s
  | cons a l ih => exact (h s a).trans (ih _)

/-- A function's state entry is written. -/
theorem state (s : State) (i n : Nat) : Fewer s (dset s i 6 n) :=
  ⟨rfl, fun k _ h6 => .dset _ _ _ _ fun e => h6 (by rw [e]; unfold dkey; omega), fun _ Q h => ⟨Q, h, .refl Q⟩, fun _ J h => ⟨J, h, rfl⟩⟩

theorem of_host (s : State) (v : HostIf) : Fewer s { s with host := v } :=
  (Calm.of_same (s := s) (t := { s with host := v }) rfl rfl rfl rfl fun _ _ => rfl).fewer

end Fewer

/-! ## No queue and no job of a function -/

/-- The function has no queue and no job. -/
def Idle (fn : Nat) (s : State) : Prop := (∀ q Q, queueAt s q = some Q → Q.fn ≠ fn) ∧ ∀ j J, jobAt s j = some J → J.fn ≠ fn

theorem Idle.later (h : Idle fn s) (g : Fewer s t) : Idle fn t := by
  obtain ⟨hq, hj⟩ := h
  refine ⟨fun q R hR => ?_, fun j K hK => ?_⟩
  · obtain ⟨Q, hQ, hQR⟩ := g.queues q R hR
    rw [hQR.fn]
    exact hq q Q hQ
  · obtain ⟨J, hJ, hJK⟩ := g.jobs j K hK
    rw [hJK]
    exact hj j J hJ

/-- What each step keeps, and the step of an element brings, stands for every element behind them all. -/
theorem foldl_brings {α : Type} {f : State → α → State} {P : α → State → Prop} {I : State → Prop} (hI : ∀ s a, I s → I (f s a))
    (hkeep : ∀ s a b, I s → P a s → P a (f s b)) (hbring : ∀ s a, I s → P a (f s a)) (l : List α) (s : State) (hs : I s) :
    ∀ a ∈ l, P a (l.foldl f s) := by
  induction l generalizing s with
  | nil => exact fun a ha => absurd ha List.not_mem_nil
  | cons b l ih =>
    intro a ha
    rcases List.mem_cons.mp ha with rfl | ha
    · exact (foldl_keeps (fun u => I u ∧ P a u) f (fun u c hu => ⟨hI u c hu.1, hkeep u a c hu.1 hu.2⟩) l (f s a) ⟨hI s a hs, hbring s a hs⟩).2
    · exact ih (f s b) (hI s b hs) a ha

theorem Calm.queue_gone (h : Calm s t) (hq : queueAt s q = none) : queueAt t q = none := by
  cases hR : queueAt t q with
  | none => rfl
  | some R =>
    obtain ⟨Q, hQ, -⟩ := h.queues q R hR
    rw [hq] at hQ
    cases hQ

theorem Calm.job_gone (h : Calm s t) (hj : jobAt s j = none) : jobAt t j = none := by
  cases hK : jobAt t j with
  | none => rfl
  | some K =>
    obtain ⟨J, hJ, -⟩ := h.jobs j K hK
    rw [hj] at hJ
    cases hJ

theorem destroyQueue_gone (s : State) (q : Nat) : queueAt (destroyQueue s q) q = none := by
  cases hQ : queueAt s q with
  | none => exact (destroyQueue_calm s q).queue_gone hQ
  | some Q =>
    obtain ⟨d, hd⟩ := destroyQueue_eq hQ
    rw [hd]
    exact FMap.get?_erase_self ..

/-- Every job of a function ends. -/
theorem jobs_ended (s : State) (fn : Nat) : ∀ j J, jobAt (((s.jobs.filter fun e => e.2.fn = fn).map Prod.fst).foldl endJob s) j = some J → J.fn ≠ fn := by
  intro j K hK hfn
  obtain ⟨J, hJ, hJK⟩ := (Calm.foldl endJob_calm ((s.jobs.filter fun e => e.2.fn = fn).map Prod.fst) s).jobs j K hK
  have hmem : j ∈ (s.jobs.filter fun e => e.2.fn = fn).map Prod.fst :=
    List.mem_map.mpr ⟨(j, J), List.mem_filter.mpr ⟨FMap.mem_of_get? hJ, decide_eq_true (hJK.symm.trans hfn)⟩, rfl⟩
  have hgone := foldl_brings (P := fun j u => jobAt u j = none) (I := fun _ => True) (fun _ _ _ => trivial)
    (fun u a b _ hu => (endJob_calm u b).job_gone hu) (fun u a _ => endJob_gone u a) _ s trivial j hmem
  rw [hgone] at hK
  cases hK

/-- Every queue of a function is destroyed. -/
theorem queues_destroyed (s : State) (fn : Nat) : ∀ q Q, queueAt ((queuesOf s fn).foldl destroyQueue s) q = some Q → Q.fn ≠ fn := by
  intro q R hR hfn
  obtain ⟨Q, hQ, hQR⟩ := (Calm.foldl destroyQueue_calm (queuesOf s fn) s).queues q R hR
  have hmem : q ∈ queuesOf s fn :=
    List.mem_map.mpr ⟨(q, Q), List.mem_filter.mpr ⟨FMap.mem_of_get? hQ, decide_eq_true (hQR.fn.symm.trans hfn)⟩, rfl⟩
  have hgone := foldl_brings (P := fun q u => queueAt u q = none) (I := fun _ => True) (fun _ _ _ => trivial)
    (fun u a b _ hu => (destroyQueue_calm u b).queue_gone hu) (fun u a _ => destroyQueue_gone u a) _ s trivial q hmem
  rw [hgone] at hR
  cases hR

/-! ## The end of a reset -/

/-- The state whose function has no work any more. -/
def workEnded (s : State) (fn : Nat) : State :=
  let s := ((s.jobs.filter fun e => e.2.fn = fn).map Prod.fst).foldl endJob s
  let s := ((s.bufs.filter fun e => e.2.fn = fn && !e.2.base && !e.2.freed).map Prod.fst).foldl freeBuf s
  (queuesOf s fn).foldl destroyQueue s

/-- The state whose function has neither work nor mailbox nor windows, and is no longer in reset. -/
def functionCleared (s : State) (fn : Nat) : State :=
  let s := workEnded s fn
  { s with
    mbx := FMap.put {} s.mbx fn { badDoorbells := (mboxAt s fn).badDoorbells }
    host := { s.host with
      windows := s.host.windows.filter fun e => e.1 / 8 ≠ fn, resetting := FMap.erase s.host.resetting fn } }

theorem finishReset_eq (s : State) (fn : Nat) :
    finishReset s fn = dset (functionCleared s fn) (fnIndex fn) 6 (readyState (functionCleared s fn) fn) := rfl

theorem workEnded_calm (s : State) (fn : Nat) : Calm s (workEnded s fn) :=
  ((Calm.foldl endJob_calm _ _).trans (.foldl freeBuf_calm _ _)).trans (.foldl destroyQueue_calm _ _)

theorem workEnded_host (s : State) (fn : Nat) : (workEnded s fn).host = s.host :=
  ((Only.foldl (fun _ _ => endJob_only ..) _ _).trans
    ((Only.foldl (fun _ _ => freeBuf_only ..) _ _).trans (.foldl (fun _ _ => destroyQueue_only ..) _ _))).same .host (by decide)

theorem workEnded_idle (s : State) (fn : Nat) : Idle fn (workEnded s fn) := by
  unfold workEnded
  generalize hv : ((s.jobs.filter fun e => e.2.fn = fn).map Prod.fst).foldl endJob s = v
  have hjobs : ∀ j J, jobAt v j = some J → J.fn ≠ fn := hv ▸ jobs_ended s fn
  dsimp only
  refine ⟨queues_destroyed _ fn, fun j K hK => ?_⟩
  obtain ⟨J, hJ, hJK⟩ := ((Calm.foldl freeBuf_calm _ v).trans (.foldl destroyQueue_calm _ _)).jobs j K hK
  rw [hJK]
  exact hjobs j J hJ

theorem functionCleared_mbox (s : State) (fn : Nat) :
    mboxAt (functionCleared s fn) fn = { badDoorbells := (mboxAt (workEnded s fn) fn).badDoorbells } := FMap.getD_put_self ..

theorem functionCleared_calm (s : State) (fn : Nat) : Calm s (functionCleared s fn) := by
  refine (workEnded_calm s fn).trans ⟨rfl, fun _ _ => rfl, fun q Q hQ => ⟨Q, hQ, .refl Q⟩, fun j J hJ => ⟨J, hJ, rfl⟩, fun g => ?_⟩
  by_cases hg : g = fn
  · rw [hg, functionCleared_mbox]
  · exact congrArg Mailbox.badDoorbells (FMap.getD_put_other _ _ _ _ _ _ hg)

theorem finishReset_fewer (s : State) (fn : Nat) : Fewer s (finishReset s fn) :=
  (functionCleared_calm s fn).fewer.trans (.state ..)

theorem finishReset_idle (s : State) (fn : Nat) : Idle fn (finishReset s fn) := (workEnded_idle s fn : Idle fn (functionCleared s fn))

theorem finishReset_mbox (s : State) (fn : Nat) : mboxAt (finishReset s fn) fn = { badDoorbells := (mboxAt s fn).badDoorbells } := by
  rw [← (workEnded_calm s fn).mail fn]
  exact functionCleared_mbox s fn

theorem fnPart_kept (hfn : fn ≠ 0) (hle : fn ≤ 1024) (h : Fewer s t) : fnPart t fn = fnPart s fn := by
  have hkey : KeyKept (dkey (0x40FF + fn) 1) s t := h.keys _ ⟨by unfold dkey; omega, by unfold dkey; omega⟩ (by unfold dkey; omega)
  unfold fnPart
  rw [if_neg hfn, if_neg hfn, hkey.dnum]

/-- An assigned function is ready again. -/
theorem finishReset_state (hfn : fn ≠ 0) (hle : fn ≤ 1024) (hassigned : assigned s fn = true) : dnum (finishReset s fn) (fnIndex fn) 6 = 1 := by
  rw [finishReset_eq, dnum_dset_self]
  unfold readyState
  refine if_pos ?_
  unfold assigned at hassigned ⊢
  rw [fnPart_kept hfn hle (functionCleared_calm s fn).fewer]
  exact hassigned

theorem finishReset_host (s : State) (fn : Nat) : (finishReset s fn).host = { s.host with
    windows := s.host.windows.filter fun e => e.1 / 8 ≠ fn, resetting := FMap.erase s.host.resetting fn } := by
  have h := workEnded_host s fn
  rw [← h]
  rfl

theorem inReset_finishReset (hfn : fn ≠ 0) : inReset (finishReset s fn) fn = false := by
  unfold inReset
  rw [finishReset_host, FMap.has, FMap.get?_erase_self, decide_eq_false hfn]
  rfl

/-! ## The begin of a reset -/

/-- The host interface has lost at most reads to squash. -/
structure ReadsOnly (s t : State) : Prop where
  rest : t.host = { s.host with reads := t.host.reads }
  none : s.host.reads = [] → t.host.reads = []

namespace ReadsOnly

theorem of_host (h : t.host = s.host) : ReadsOnly s t := ⟨by rw [h], fun hs => by rw [h]; exact hs⟩

theorem of_only {F : List StateField} (h : Only F s t) (hF : .host ∉ F) : ReadsOnly s t := of_host (h.same .host hF)

theorem trans (h : ReadsOnly s t) (g : ReadsOnly t u) : ReadsOnly s u :=
  ⟨by rw [g.rest, h.rest], fun hs => g.none (h.none hs)⟩

theorem foldl {α : Type} {f : State → α → State} (h : ∀ s a, ReadsOnly s (f s a)) (l : List α) (s : State) : ReadsOnly s (l.foldl f s) := by
  induction l generalizing s with
  | nil => exact of_host rfl
  | cons a l ih => exact (h s a).trans (ih _)

theorem resetting (h : ReadsOnly s t) : t.host.resetting = s.host.resetting := by rw [h.rest]

theorem pfReset (h : ReadsOnly s t) : t.host.pfReset = s.host.pfReset := by rw [h.rest]

end ReadsOnly

theorem squash_readsOnly (s : State) (f : Nat → HostRead → HostRead) :
    ReadsOnly s { s with host := { s.host with reads := FMap.mapVal s.host.reads f } } :=
  ⟨rfl, fun h => by rw [h]; rfl⟩

theorem abandonBase_readsOnly (s : State) (part : Nat) : ReadsOnly s (abandonBase s part) := by
  unfold abandonBase
  split
  · exact .of_host rfl
  · next b _ =>
    extract_lets s1 src s2 s3 s4 s5
    have h1 : ReadsOnly s s1 := .of_only (updPart_only ..) (by decide)
    have h2 : ReadsOnly s s2 := h1.trans (squash_readsOnly s1 _)
    have hcharge : ReadsOnly s s3 := by
      simp only [s3]
      split
      · exact h2.trans (.of_only ((turnLayer_only ..).trans (freeBase_only ..)) (by decide))
      · exact h2.trans (.of_only (chargeBase_only ..) (by decide))
    have h5 : ReadsOnly s s5 := by
      simp only [s5]
      split
      · exact h2
      · exact hcharge.trans (.of_only ((noBase_only ..).trans ((updPart_only ..).trans ((failIncoming_only ..).trans (bumpBaseGen_only ..)))) (by decide))
    split
    · exact h5
    · exact h5.trans (.of_only (respond_only ..) (by decide))

theorem dropPending_readsOnly (s : State) (fn : Nat) : ReadsOnly s (dropPending s fn) := by
  unfold dropPending
  extract_lets +onlyGivenNames s1 s2 s3
  have h1 : ReadsOnly s s1 := .of_only (forgetAll_only ..) (by decide)
  have h2 : ReadsOnly s s2 := h1.trans (.of_host rfl)
  have h3 : ReadsOnly s s3 := by
    simp only [s3]
    split
    · exact h2.trans (.foldl abandonBase_readsOnly _ _)
    · exact h2
  exact h3.trans (.of_only ((dropPlacement_only ..).trans (updMbox_only ..)) (by decide))

/-- Only the PF's reset gives up bases, and with them reads. -/
theorem dropPending_host (s : State) (hfn : fn ≠ 0) : (dropPending s fn).host = s.host := by
  unfold dropPending
  extract_lets +onlyGivenNames s1 s2 s3
  have h2 : s2.host = s.host := ((forgetAll_only s _).trans (setCtxs_only s1 _)).same .host (by decide)
  have h3 : s3 = s2 := if_neg hfn
  rw [((dropPlacement_only s3 fn).trans (updMbox_only ..)).same .host (by decide), h3]
  exact h2

/-- The state in which a function's reset has begun: nothing of it is pending, and its queues are empty. -/
def resetBegun (s : State) (fn : Nat) : State :=
  let s := dropPending (dset s (fnIndex fn) 6 2) fn
  (queuesOf s fn).foldl resetQueue s

/-- The reset drains reads of the function. -/
def drains (s : State) (fn : Nat) : Bool := decide (dnum s (fnIndex fn) 5 = 0) && readsOut s fn

/-- The function's reads squashed. -/
def readsSquashed (s : State) (fn : Nat) : State :=
  { s with host := { s.host with reads := FMap.mapVal s.host.reads fun _ r => if r.fn = fn then { r with squashed := true } else r } }

theorem beginReset_eq (h : inReset s fn = false) : beginReset s fn = if drains (resetBegun s fn) fn then
      { resetBegun s fn with host := { (resetBegun s fn).host with resetting := FMap.set (resetBegun s fn).host.resetting fn (resetBegun s fn).now } }
    else finishReset (readsSquashed (resetBegun s fn) fn) fn := by
  unfold beginReset
  rw [if_neg (by rw [h]; decide)]
  rfl

theorem beginReset_of_inReset (h : inReset s fn = true) : beginReset s fn = s := if_pos h

theorem resetBegun_calm (s : State) (fn : Nat) : Calm (dset s (fnIndex fn) 6 2) (resetBegun s fn) :=
  (dropPending_calm ..).trans (.foldl resetQueue_calm _ _)

theorem resetBegun_fewer (s : State) (fn : Nat) : Fewer s (resetBegun s fn) :=
  (Fewer.state s (fnIndex fn) 2).trans (resetBegun_calm s fn).fewer

theorem resetQueues_only (l : List Nat) (s : State) : Only [.dict, .tel, .cores, .queues, .jobs, .parts, .bufs, .tiered, .sync, .reds, .win, .miss, .rel,
    .hbm, .hostOut] s (l.foldl resetQueue s) := .foldl (fun _ _ => resetQueue_only ..) _ _

theorem resetBegun_now (s : State) (fn : Nat) : (resetBegun s fn).now = s.now :=
  ((dset_only s (fnIndex fn) 6 2).trans ((dropPending_only ..).trans (resetQueues_only ..))).same .now (by decide)

theorem resetBegun_readsOnly (s : State) (fn : Nat) : ReadsOnly s (resetBegun s fn) :=
  have hset : ReadsOnly s (dset s (fnIndex fn) 6 2) := .of_host rfl
  (hset.trans (dropPending_readsOnly _ fn)).trans (.of_only (resetQueues_only ..) (by decide))

theorem resetBegun_host (s : State) (hfn : fn ≠ 0) : (resetBegun s fn).host = s.host :=
  ((resetQueues_only ..).same .host (by decide)).trans (dropPending_host (dset s (fnIndex fn) 6 2) hfn)

theorem resetBegun_mbox (s : State) (fn : Nat) : (mboxAt (resetBegun s fn) fn).inbox = [] ∧ (mboxAt (resetBegun s fn) fn).held = [] := by
  have hmbx : mboxAt (resetBegun s fn) fn = mboxAt (dropPending (dset s (fnIndex fn) 6 2) fn) fn :=
    congrArg (fun m : FMap Mailbox => FMap.getD m fn {}) ((resetQueues_only (queuesOf _ fn) (dropPending (dset s (fnIndex fn) 6 2) fn)).same .mbx (by decide))
  rw [hmbx]
  unfold dropPending
  rw [mboxAt_updMbox_self]
  exact ⟨rfl, rfl⟩

/-- Every queue of the function is empty. -/
theorem resetBegun_emptied (s : State) (fn : Nat) : ∀ q Q, queueAt (resetBegun s fn) q = some Q → Q.fn = fn → Q.cmds = [] ∧ Q.runs = [] := by
  intro q R hR hfn
  let d := dropPending (dset s (fnIndex fn) 6 2) fn
  obtain ⟨Q, hQ, hQR⟩ := (Calm.foldl resetQueue_calm (queuesOf d fn) d).queues q R hR
  have hmem : q ∈ queuesOf d fn :=
    List.mem_map.mpr ⟨(q, Q), List.mem_filter.mpr ⟨FMap.mem_of_get? hQ, decide_eq_true (hQR.fn.symm.trans hfn)⟩, rfl⟩
  refine foldl_brings (P := fun q u => ∀ R, queueAt u q = some R → R.cmds = [] ∧ R.runs = []) (I := fun _ => True) (fun _ _ _ => trivial)
    (fun u a b _ hu R hR => ?_) (fun u a _ R hR => ?_) _ d trivial q hmem R hR
  · obtain ⟨Q, hQ, hQR⟩ := (resetQueue_calm u b).queues a R hR
    obtain ⟨hcmds, hruns⟩ := hu Q hQ
    exact ⟨hQR.cmds hcmds, hQR.runs hruns⟩
  · obtain ⟨Q, hQ, -⟩ := (resetQueue_calm u a).queues a R hR
    rw [resetQueue_queue hQ] at hR
    cases hR
    exact ⟨rfl, rfl⟩

theorem fnIndex_lt (h : fn ≤ 1024) : fnIndex fn < 0x4500 := by
  unfold fnIndex
  split <;> omega

/-- The begin of a reset leaves whether it drains. -/
theorem drains_resetBegun (s : State) (hfn : fn ≠ 0) (hle : fn ≤ 1024) : drains (resetBegun s fn) fn = drains s fn := by
  have hlt := fnIndex_lt hle
  have hkey : KeyKept (dkey (fnIndex fn) 5) s (resetBegun s fn) :=
    (resetBegun_fewer s fn).keys _ ⟨by unfold dkey; omega, by unfold dkey; omega⟩ (by unfold dkey; omega)
  unfold drains readsOut
  rw [hkey.dnum, resetBegun_host s hfn]

theorem resetBegun_state (s : State) (hle : fn ≤ 1024) : dnum (resetBegun s fn) (fnIndex fn) 6 = 2 := by
  have hlt := fnIndex_lt hle
  exact ((resetBegun_calm s fn).keys (dkey (fnIndex fn) 6) ⟨by unfold dkey; omega, by unfold dkey; omega⟩).dnum.trans (dnum_dset_self ..)

theorem readsSquashed_calm (s : State) (fn : Nat) : Calm s (readsSquashed s fn) := .of_same rfl rfl rfl rfl fun _ _ => rfl

theorem beginReset_fewer (s : State) (fn : Nat) : Fewer s (beginReset s fn) := by
  cases h : inReset s fn
  · rw [beginReset_eq h]
    split
    · exact (resetBegun_fewer s fn).trans (.of_host ..)
    · exact ((resetBegun_fewer s fn).trans (readsSquashed_calm ..).fewer).trans (finishReset_fewer ..)
  · rw [beginReset_of_inReset h]
    exact .refl s

/-- A reset with no read to drain is over at once. -/
theorem beginReset_done (hfn : fn ≠ 0) (hle : fn ≤ 1024) (hassigned : assigned s fn = true) (hidle : inReset s fn = false) (hdrains : drains s fn = false) :
    let t := beginReset s fn
    mboxAt t fn = { badDoorbells := (mboxAt s fn).badDoorbells } ∧ inReset t fn = false ∧ Idle fn t ∧ dnum t (fnIndex fn) 6 = 1 := by
  intro t
  have ht : t = finishReset (readsSquashed (resetBegun s fn) fn) fn := by
    unfold t
    rw [beginReset_eq hidle, drains_resetBegun s hfn hle, hdrains]
    rfl
  have hfewer : Fewer s (readsSquashed (resetBegun s fn) fn) := (resetBegun_fewer s fn).trans (readsSquashed_calm ..).fewer
  have hmail : (mboxAt (readsSquashed (resetBegun s fn) fn) fn).badDoorbells = (mboxAt s fn).badDoorbells :=
    ((resetBegun_calm s fn).trans (readsSquashed_calm ..)).mail fn
  generalize readsSquashed (resetBegun s fn) fn = u at ht hfewer hmail
  rw [ht]
  refine ⟨?_, inReset_finishReset hfn, finishReset_idle .., finishReset_state hfn hle ?_⟩
  · rw [finishReset_mbox, hmail]
  · unfold assigned at hassigned ⊢
    rw [fnPart_kept hfn hle hfewer]
    exact hassigned

/-- A reset that drains reads: its work is gone, and the function stays in reset. -/
theorem beginReset_drains (hfn : fn ≠ 0) (hle : fn ≤ 1024) (hidle : inReset s fn = false) (hdrains : drains s fn = true) :
    let t := beginReset s fn
    FMap.get? t.host.resetting fn = some s.now ∧ (mboxAt t fn).inbox = [] ∧ (mboxAt t fn).held = [] ∧ dnum t (fnIndex fn) 6 = 2
      ∧ ∀ q Q, queueAt t q = some Q → Q.fn = fn → Q.cmds = [] ∧ Q.runs = [] := by
  intro t
  have ht : t = { resetBegun s fn with host := { (resetBegun s fn).host with
      resetting := FMap.set (resetBegun s fn).host.resetting fn (resetBegun s fn).now } } := by
    unfold t
    rw [beginReset_eq hidle, drains_resetBegun s hfn hle, hdrains]
    rfl
  rw [ht]
  obtain ⟨hinbox, hheld⟩ := resetBegun_mbox s fn
  refine ⟨?_, hinbox, hheld, resetBegun_state s hle, resetBegun_emptied s fn⟩
  rw [← resetBegun_now s fn]
  exact FMap.get?_set_self ..

/-! ## The host interface behind a reset -/

/-- A VF's reset at a host interface: it is over, or it drains. -/
theorem beginReset_host (hfn : fn ≠ 0) (hle : fn ≤ 1024) (hidle : inReset s fn = false) :
    (beginReset s fn).host = if drains s fn then { s.host with resetting := FMap.set s.host.resetting fn s.now }
      else { s.host with
        reads := FMap.mapVal s.host.reads fun _ r => if r.fn = fn then { r with squashed := true } else r
        windows := s.host.windows.filter fun e => e.1 / 8 ≠ fn, resetting := FMap.erase s.host.resetting fn } := by
  rw [beginReset_eq hidle, drains_resetBegun s hfn hle]
  split
  · show { (resetBegun s fn).host with resetting := FMap.set (resetBegun s fn).host.resetting fn (resetBegun s fn).now } = _
    rw [resetBegun_host s hfn, resetBegun_now]
  · have hsquashed : (readsSquashed (resetBegun s fn) fn).host = (readsSquashed s fn).host := by
      unfold readsSquashed
      dsimp only
      rw [resetBegun_host s hfn]
    rw [finishReset_host, hsquashed]
    rfl

theorem FMap.get?_erase_none {α : Type} {m : FMap α} {k j : Nat} (h : FMap.get? m j = none) : FMap.get? (FMap.erase m k) j = none := by
  by_cases hj : j = k
  · rw [hj, FMap.get?_erase_self]
  · rw [FMap.get?_erase_other _ _ _ hj, h]

/-- Where no reads are in flight, no reset drains, and none comes. -/
theorem beginReset_readless (hreads : s.host.reads = []) (hresetting : s.host.resetting = []) (hidle : inReset s fn = false) :
    let t := beginReset s fn
    t.host.reads = [] ∧ t.host.resetting = [] ∧ t.host.pfReset = s.host.pfReset ∧ Idle fn t := by
  intro t
  have hbegun := resetBegun_readsOnly s fn
  have hnone : (resetBegun s fn).host.reads = [] := hbegun.none hreads
  have ht : t = finishReset (readsSquashed (resetBegun s fn) fn) fn := by
    have hdrains : drains (resetBegun s fn) fn = false := by
      unfold drains readsOut
      rw [hnone]
      exact Bool.and_false _
    unfold t
    rw [beginReset_eq hidle, hdrains]
    rfl
  have hr : (readsSquashed (resetBegun s fn) fn).host.reads = [] := by
    unfold readsSquashed
    dsimp only
    rw [hnone]
    rfl
  have hn : (readsSquashed (resetBegun s fn) fn).host.resetting = [] := hbegun.resetting.trans hresetting
  have hpf : (readsSquashed (resetBegun s fn) fn).host.pfReset = s.host.pfReset := hbegun.pfReset
  generalize readsSquashed (resetBegun s fn) fn = u at ht hr hn hpf
  rw [ht, finishReset_host]
  exact ⟨hr, by rw [hn]; rfl, hpf, finishReset_idle ..⟩

/-! ## The PF's turn and the PF's reset -/

theorem pfTurn_waits (h : s.host.pfReset = false ∨ s.host.resetting ≠ []) : pfTurn s = s := by
  unfold pfTurn
  refine if_neg fun hturn => ?_
  rw [Bool.and_eq_true, List.isEmpty_iff] at hturn
  obtain ⟨hpf, hempty⟩ := hturn
  rcases h with h | h
  · exact absurd (h.symm.trans hpf) Bool.noConfusion
  · exact h hempty

theorem pfTurn_begins (hpf : s.host.pfReset = true) (hempty : s.host.resetting = []) :
    pfTurn s = beginReset { s with host := { s.host with pfReset := false } } 0 := by
  unfold pfTurn
  exact if_pos (by rw [hpf, hempty]; rfl)

theorem pfTurn_fewer (s : State) : Fewer s (pfTurn s) := by
  unfold pfTurn
  split
  · exact (Fewer.of_host s { s.host with pfReset := false }).trans (beginReset_fewer ..)
  · exact .refl s

/-- The PF's turn leaves the other functions' resets. -/
theorem pfTurn_resetting (hfn : fn ≠ 0) (h : FMap.get? s.host.resetting fn = none) : FMap.get? (pfTurn s).host.resetting fn = none := by
  unfold pfTurn
  split
  · generalize hu : ({ s with host := { s.host with pfReset := false } } : State) = u
    have hnone : FMap.get? u.host.resetting fn = none := hu ▸ h
    cases hin : inReset u 0
    · have hbegun := (resetBegun_readsOnly u 0).resetting
      rw [beginReset_eq hin]
      split
      · show FMap.get? (FMap.set (resetBegun u 0).host.resetting 0 (resetBegun u 0).now) fn = none
        rw [FMap.get?_set_other _ _ _ _ hfn, hbegun, hnone]
      · rw [finishReset_host]
        show FMap.get? (FMap.erase (resetBegun u 0).host.resetting 0) fn = none
        rw [FMap.get?_erase_other _ _ _ hfn, hbegun, hnone]
    · rw [beginReset_of_inReset hin]
      exact hnone
  · exact h

/-- The PF's reset: the resets of the assigned VFs (of numbers less one), then the PF's turn. -/
theorem resetAll_eq (h : inReset s 0 = false) : ∃ l : List Nat, (∀ i, i ∈ l ↔ i < 1024 ∧ assigned s (i + 1) = true)
    ∧ ∃ v, v = l.foldl (fun s i => beginReset s (i + 1)) (dset s (fnIndex 0) 6 2)
      ∧ resetAll s = pfTurn { v with host := { v.host with pfReset := true } } := by
  refine ⟨(List.range 1024).filter fun i => assigned s (i + 1), fun i => ?_, _, rfl, ?_⟩
  · rw [List.mem_filter, List.mem_range]
  · unfold resetAll
    exact if_neg (by rw [h]; decide)

theorem idle_of_usable (h : usable s fn = true) : assigned s fn = true ∧ inReset s fn = false := by
  unfold usable at h
  simp only [Bool.and_eq_true, Bool.not_eq_true'] at h
  exact ⟨h.1.1, h.1.2⟩

theorem inReset_of_empty (hfn : fn ≠ 0) (h : s.host.resetting = []) : inReset s fn = false := by
  unfold inReset
  rw [h, decide_eq_false hfn]
  rfl

/-- With no read in flight the PF's reset is over at once, and no assigned function has a queue or a job. -/
theorem resetAll_readless (husable : usable s 0 = true) (hresetting : s.host.resetting = []) (hreads : s.host.reads = []) :
    let t := resetAll s
    inReset t 0 = false ∧ ∀ fn, assigned s fn = true → Idle fn t := by
  intro t
  obtain ⟨-, hidle⟩ := idle_of_usable husable
  let I (u : State) : Prop := u.host.reads = [] ∧ u.host.resetting = []
  have hstep (u : State) (i : Nat) (hu : I u) : I (beginReset u (i + 1)) ∧ Idle (i + 1) (beginReset u (i + 1)) := by
    obtain ⟨hr, hn, -, hi⟩ := beginReset_readless hu.1 hu.2 (inReset_of_empty (fn := i + 1) (by omega) hu.2)
    exact ⟨⟨hr, hn⟩, hi⟩
  obtain ⟨l, hl, v, hv, hall⟩ := resetAll_eq hidle
  have hbegun : I v := hv ▸ foldl_keeps I _ (fun u i hu => (hstep u i hu).1) l (dset s (fnIndex 0) 6 2) ⟨hreads, hresetting⟩
  have hvfs : ∀ i ∈ l, Idle (i + 1) v := hv ▸
    foldl_brings (P := fun i u => Idle (i + 1) u) (I := I) (fun u i hu => (hstep u i hu).1) (fun u i _ _ hi => hi.later (beginReset_fewer ..))
      (fun u i hu => (hstep u i hu).2) _ (dset s (fnIndex 0) 6 2) ⟨hreads, hresetting⟩
  obtain ⟨u, hu, hread, hresets, hpf, hlater⟩ : ∃ u, t = beginReset u 0 ∧ u.host.reads = [] ∧ u.host.resetting = [] ∧ u.host.pfReset = false
      ∧ Fewer v u := by
    refine ⟨{ v with host := { v.host with pfReset := false } }, ?_, hbegun.1, hbegun.2, rfl, .of_host v _⟩
    exact hall.trans (pfTurn_begins (s := { v with host := { v.host with pfReset := true } }) rfl hbegun.2)
  obtain ⟨-, hn, hpf', hidle0⟩ := beginReset_readless (fn := 0) hread hresets (by unfold inReset; rw [hresets, hpf]; rfl)
  rw [← hu] at hn hpf' hidle0
  refine ⟨?_, fun fn hassigned => ?_⟩
  · unfold inReset
    rw [hn, hpf', hpf]
    rfl
  · by_cases hfn : fn = 0
    · rw [hfn]
      exact hidle0
    · have hle : fn ≤ 1024 := by
        unfold assigned at hassigned
        rw [decide_eq_false hfn, Bool.false_or, Bool.and_eq_true, decide_eq_true_iff] at hassigned
        exact hassigned.1
      have hi := hvfs (fn - 1) ((hl _).mpr ⟨by omega, by rw [Nat.sub_add_cancel (by omega)]; exact hassigned⟩)
      rw [Nat.sub_add_cancel (by omega)] at hi
      rw [hu]
      exact hi.later (hlater.trans (beginReset_fewer ..))

/-- The function is to drain, or drains. -/
def Draining (fn : Nat) (s : State) : Prop := drains s fn = true ∨ (FMap.get? s.host.resetting fn).isSome = true

theorem readsOut_squashed {w : Nat} (m : FMap HostRead) (h : fn ≠ w) :
    (FMap.mapVal m fun _ r => if r.fn = w then { r with squashed := true } else r).any (fun e => e.2.fn = fn && !e.2.squashed)
      = m.any (fun e => e.2.fn = fn && !e.2.squashed) := by
  unfold FMap.mapVal
  rw [List.any_map]
  refine congrArg (List.any m) (funext fun e => ?_)
  show (decide ((if e.2.fn = w then { e.2 with squashed := true } else e.2).fn = fn) && !(if e.2.fn = w then { e.2 with squashed := true } else e.2).squashed) = _
  split
  · next hw =>
    rw [decide_eq_false (show ¬e.2.fn = fn from fun e' => h (e'.symm.trans hw))]
    rfl
  · rfl

/-- Another function's reset leaves that a function drains. -/
theorem Draining.other {w : Nat} (hw : w ≠ 0) (hwle : w ≤ 1024) (hle : fn ≤ 1024) (hne : fn ≠ w) (h : Draining fn s) : Draining fn (beginReset s w) := by
  cases hin : inReset s w
  · have hhost := beginReset_host hw hwle hin
    have hlt := fnIndex_lt hle
    have hkey : KeyKept (dkey (fnIndex fn) 5) s (beginReset s w) :=
      (beginReset_fewer s w).keys _ ⟨by unfold dkey; omega, by unfold dkey; omega⟩ (by unfold dkey; omega)
    refine h.imp (fun hd => ?_) fun hr => ?_
    · unfold drains readsOut at hd ⊢
      rw [hkey.dnum, hhost]
      split
      · exact hd
      · dsimp only
        rw [readsOut_squashed _ hne]
        exact hd
    · rw [hhost]
      split
      · dsimp only
        rw [FMap.get?_set_other _ _ _ _ hne]
        exact hr
      · dsimp only
        rw [FMap.get?_erase_other _ _ _ hne]
        exact hr
  · rw [beginReset_of_inReset hin]
    exact h

/-- A function that is to drain drains behind its reset's begin. -/
theorem Draining.own (hfn : fn ≠ 0) (hle : fn ≤ 1024) (h : Draining fn s) : (FMap.get? (beginReset s fn).host.resetting fn).isSome = true := by
  cases hin : inReset s fn
  · have hnone : FMap.get? s.host.resetting fn = none := by
      unfold inReset at hin
      rw [decide_eq_false hfn, Bool.false_and, Bool.or_false] at hin
      unfold FMap.has at hin
      exact Option.isSome_eq_false_iff.mp hin |> Option.isNone_iff_eq_none.mp
    have hd : drains s fn = true := h.resolve_right (by rw [hnone]; decide)
    rw [beginReset_host hfn hle hin, if_pos hd]
    dsimp only
    rw [FMap.get?_set_self]
    rfl
  · rw [beginReset_of_inReset hin]
    unfold inReset at hin
    rw [decide_eq_false hfn, Bool.false_and, Bool.or_false] at hin
    exact hin

theorem Draining.each {w : Nat} (hw : w ≠ 0) (hwle : w ≤ 1024) (hfn : fn ≠ 0) (hle : fn ≤ 1024) (h : Draining fn s) : Draining fn (beginReset s w) := by
  by_cases hne : fn = w
  · subst hne
    exact .inr (Draining.own hfn hle h)
  · exact Draining.other hw hwle hle hne h

theorem Draining.resetting_each {w : Nat} (hw : w ≠ 0) (hwle : w ≤ 1024) (hfn : fn ≠ 0) (hle : fn ≤ 1024)
    (h : (FMap.get? s.host.resetting fn).isSome = true) : (FMap.get? (beginReset s w).host.resetting fn).isSome = true := by
  by_cases hne : fn = w
  · subst hne
    exact Draining.own hfn hle (.inr h)
  · cases hin : inReset s w
    · rw [beginReset_host hw hwle hin]
      split
      · dsimp only
        rw [FMap.get?_set_other _ _ _ _ hne]
        exact h
      · dsimp only
        rw [FMap.get?_erase_other _ _ _ hne]
        exact h
    · rw [beginReset_of_inReset hin]
      exact h

/-- A VF of the list that is to drain drains behind the list's resets. -/
theorem foldl_drains (hvf : 1 ≤ vf) (hle : vf ≤ 1024) (l : List Nat) (hl : ∀ i ∈ l, i < 1024) (s : State) (h : Draining vf s)
    (hmem : vf - 1 ∈ l ∨ (FMap.get? s.host.resetting vf).isSome = true) :
    (FMap.get? (l.foldl (fun s i => beginReset s (i + 1)) s).host.resetting vf).isSome = true := by
  induction l generalizing s with
  | nil => exact hmem.resolve_left List.not_mem_nil
  | cons i l ih =>
    have hi : i + 1 ≤ 1024 := hl i (List.mem_cons_self ..)
    refine ih (fun j hj => hl j (List.mem_cons_of_mem _ hj)) (beginReset s (i + 1)) (h.each (by omega) hi (by omega) hle) ?_
    rcases hmem with hmem | hmem
    · rcases List.mem_cons.mp hmem with heq | hmem
      · have hvf' : vf = i + 1 := by omega
        subst hvf'
        exact .inr (Draining.own (by omega) hle h)
      · exact .inl hmem
    · exact .inr (Draining.resetting_each (by omega) hi (by omega) hle hmem)

/-- Where a VF drains, the PF waits in reset. -/
theorem resetAll_drains (husable : usable s 0 = true) (hvf : 1 ≤ vf) (hle : vf ≤ 1024) (hassigned : assigned s vf = true)
    (hdrains : drains s vf = true) : (resetAll s).host.pfReset = true ∧ inReset (resetAll s) 0 = true := by
  obtain ⟨-, hidle⟩ := idle_of_usable husable
  obtain ⟨l, hl, v, hv, hall⟩ := resetAll_eq hidle
  have hbegun : (FMap.get? v.host.resetting vf).isSome = true := by
    have hstart : Draining vf (dset s (fnIndex 0) 6 2) := .inl (by
      have hkey : KeyKept (dkey (fnIndex vf) 5) s (dset s (fnIndex 0) 6 2) := .dset _ _ _ _ (by unfold dkey; omega)
      unfold drains at hdrains ⊢
      rw [hkey.dnum]
      exact hdrains)
    rw [hv]
    exact foldl_drains hvf hle l (fun i hi => ((hl i).mp hi).1) _ hstart
      (.inl ((hl _).mpr ⟨by omega, by rw [Nat.sub_add_cancel hvf]; exact hassigned⟩))
  have hsome : v.host.resetting ≠ [] := fun h => by
    rw [h] at hbegun
    exact absurd hbegun Bool.false_ne_true
  have hwaits := pfTurn_waits (s := { v with host := { v.host with pfReset := true } }) (.inr hsome)
  rw [hall, hwaits]
  exact ⟨rfl, Bool.or_true _⟩

end Resets

end Sys2Proof.Machine

/-! PROOFS. O45: resets of functions, the drain limit, BAR4 windows. -/

namespace Sys2Proof.Machine

section ResetsAndWindows

variable {s t u : State} {fn vf q key off addr j : Nat} {role : Role} {data : List Byte}

/-! ## Writes that complete behind a reset -/

theorem writeDone_held (k : Nat) (st : Status) (hheld : s.tel.heldWrites = []) : (writeDone s k st).tel.heldWrites = [] := by
  unfold writeDone
  split
  · exact hheld
  · next reply _ =>
    have hreply := replyWrite_responseOnly { s with tel := { s.tel with busy := FMap.erase s.tel.busy k } } reply st
    dsimp only
    rw [runHeld_none (hreply.held.trans hheld)]
    exact hreply.held.trans hheld

/-- Where no write is held, the resets that have ended are answered, and nothing else happens. -/
theorem settleResets_answers (hheld : s.tel.heldWrites = []) : Only [.tel] s (settleResets s) := by
  unfold settleResets
  refine (foldl_keeps (fun u => Only [.tel] s u ∧ u.tel.heldWrites = []) _ (fun u k hu => ?_) _ s ⟨.self s, hheld⟩).1
  obtain ⟨honly, hnone⟩ := hu
  generalize hfn : (if k = 0x402006 then 0 else k / 256 - 0x40FF) = fn
  dsimp only
  split
  · exact ⟨.mono (by rfl) (honly.trans (writeDone_law u k 0 hnone).1), writeDone_held k 0 hnone⟩
  · exact ⟨honly, hnone⟩

theorem settleResets_idle (h : s.tel.busy = []) : settleResets s = s := by
  unfold settleResets
  rw [h]
  rfl

/-! ## The drain limit -/

theorem drainLimit_none (h : FMap.get? s.host.resetting fn = none) : drainLimit s fn = s := by
  unfold drainLimit
  rw [h]

/-- The state at the drain limit. -/
def limitReached (s : State) (fn began : Nat) : State := readsSquashed { s with now := max s.now (began + eff s 0x2400 2) } fn

theorem drainLimit_some {began : Nat} (h : FMap.get? s.host.resetting fn = some began) :
    drainLimit s fn = pfTurn (finishReset (limitReached s fn began) fn) := by
  unfold drainLimit
  rw [h]
  rfl

/-- At the drain limit the function's reset is over. -/
theorem drainLimit_law {began : Nat} (h : FMap.get? s.host.resetting fn = some began) (hheld : s.tel.heldWrites = [])
    (hpf : fn = 0 → s.host.pfReset = false) :
    let t := settleResets (drainLimit s fn)
    t.now = max s.now (began + eff s 0x2400 2) ∧ inReset t fn = false ∧ ∀ q Q, queueAt t q = some Q → Q.fn ≠ fn := by
  intro t
  have hd := drainLimit_some h
  generalize hl : limitReached s fn began = l at hd
  have hnow : l.now = max s.now (began + eff s 0x2400 2) := hl ▸ rfl
  have hlheld : l.tel.heldWrites = [] := (congrArg (fun u : State => u.tel.heldWrites) hl.symm).trans hheld
  have hlpf : fn = 0 → l.host.pfReset = false := fun h0 => (congrArg (fun u : State => u.host.pfReset) hl.symm).trans (hpf h0)
  have hended := (finishReset_fewer l fn).trans (pfTurn_fewer _)
  have honly := (finishReset_only l fn).trans (pfTurn_only _)
  have hidle : Idle fn (pfTurn (finishReset l fn)) := (finishReset_idle l fn).later (pfTurn_fewer _)
  have hdone : inReset (pfTurn (finishReset l fn)) fn = false := by
    by_cases hfn : fn = 0
    · subst hfn
      have hhost := finishReset_host l 0
      have hpf0 : (finishReset l 0).host.pfReset = false := by rw [hhost]; exact hlpf rfl
      rw [pfTurn_waits (.inl hpf0)]
      unfold inReset
      rw [hpf0, hhost, FMap.has, FMap.get?_erase_self]
      rfl
    · have hnone : FMap.get? (finishReset l fn).host.resetting fn = none := by
        rw [finishReset_host]
        exact FMap.get?_erase_self ..
      unfold inReset
      rw [FMap.has, pfTurn_resetting hfn hnone, decide_eq_false hfn]
      rfl
  rw [← hd] at hended honly hidle hdone
  have hsettled := settleResets_answers (hended.held.trans hlheld)
  refine ⟨(hsettled.same .now (by decide)).trans ((honly.same .now (by decide)).trans hnow), ?_, fun q Q hQ => ?_⟩
  · unfold inReset at hdone ⊢
    rw [hsettled.same .host (by decide)]
    exact hdone
  · rw [hsettled.queueAt (by decide)] at hQ
    exact hidle.1 q Q hQ

/-! ## A reset by a write -/

theorem partitionEffect_reset (s : State) (hvf : 1 ≤ vf) (hvf' : vf ≤ 1024) (v : DVal) :
    partitionEffect s (0x40FF + vf) 6 v = (beginReset s vf, inReset (beginReset s vf) vf) := by
  unfold partitionEffect
  dsimp only
  rw [if_neg (by omega), if_neg (by omega), if_pos (by omega), if_neg (by decide), if_pos rfl, Nat.add_sub_cancel_left]
  unfold resetEffect
  rw [if_neg (by omega)]

/-- Only an assigned function's reset is accepted. -/
theorem assigned_of_accepted {v : DVal} (hvf : 1 ≤ vf) (hvf' : vf ≤ 1024) (haccepted : Accepted s role (0x40FF + vf) 6 v) : assigned s vf = true := by
  have hown := ownStatus_of_accepted (by omega) haccepted.2.2
  unfold ownStatus at hown
  dsimp only at hown
  rw [if_neg (by simp only [Bool.and_eq_true, decide_eq_true_eq]; omega), if_neg (by simp only [Bool.and_eq_true, decide_eq_true_eq]; omega),
    if_neg (by simp only [Bool.and_eq_true, decide_eq_true_eq]; omega), if_neg (by simp only [Bool.and_eq_true, decide_eq_true_eq]; omega),
    if_neg (by simp only [Bool.and_eq_true, decide_eq_true_eq]; omega), if_pos (by simp only [Bool.and_eq_true, decide_eq_true_eq]; omega),
    if_neg (by decide), Nat.add_sub_cancel_left] at hown
  by_contra hnot
  rw [if_pos (by rw [Bool.not_eq_true _ |>.mp hnot]; rfl)] at hown
  exact absurd hown (by decide)

/-! ## BAR4 (R342, R343) -/

theorem bar4_refused (h : usable s fn = false ∨ barsAnswer s = false) (op : Bar4Op) : bar4 s fn op = s := by
  unfold bar4
  refine if_pos ?_
  rcases h with h | h <;> rw [h]
  · rfl
  · exact Bool.or_true _

/-- What a host write through BAR4 leaves: the buffer's bytes, no other buffer, and neither queues nor mailboxes nor cores. -/
structure Lands (s t : State) (key off : Nat) (data : List Byte) : Prop where
  queues : t.queues = s.queues
  mbx : t.mbx = s.mbx
  cores : t.cores = s.cores
  home : ∀ b, FMap.get? s.bufs key = some b → FMap.get? s.tiered key = none → FMap.get? t.bufs key = some { b with data := b.data.write off data }
  others : ∀ k, k ≠ key → FMap.get? t.bufs k = FMap.get? s.bufs k

theorem barWrite_lands (s : State) (q addr key off : Nat) (data : List Byte) : Lands s (barWrite s q addr key off data) key off data := by
  have hall := barWrite_only s q addr key off data
  have hjournal := journal_only s 3 (moduleOf s q) q 0 addr data
  have hbufs := hjournal.same .bufs (by decide)
  have htiered := hjournal.same .tiered (by decide)
  refine ⟨hall.same .queues (by decide), hall.same .mbx (by decide), hall.same .cores (by decide), fun b hb ht => ?_, fun k hk => ?_⟩
  · exact storeBuf_home off data (by rw [hbufs]; exact hb) (by rw [htiered]; exact ht)
  · exact (storeBuf_kept _ key off data hk).get.trans (congrArg (fun m => FMap.get? m k) hbufs)

theorem barWrite_unrecorded (h : recording s = false) : barWrite s q addr key off data = storeBuf s key off data := by
  unfold barWrite journal
  rw [if_neg (by rw [h]; decide)]

/-- A write lands where its job's replay does not hold it. -/
theorem Lands.of_replayed (hu : Only [.dict, .jobs] s u) : Lands s (barWrite u q addr key off data) key off data := by
  obtain ⟨hq, hm, hc, hhome, hothers⟩ := barWrite_lands u q addr key off data
  have hbufs := hu.same .bufs (by decide)
  have htiered := hu.same .tiered (by decide)
  refine ⟨hq.trans (hu.same .queues (by decide)), hm.trans (hu.same .mbx (by decide)), hc.trans (hu.same .cores (by decide)), fun b hb ht => ?_,
    fun k hk => (hothers k hk).trans (by rw [hbufs])⟩
  exact hhome b (by rw [hbufs]; exact hb) (by rw [htiered]; exact ht)

section Access

variable (husable : usable s fn = true) (hbars : barsAnswer s = true)

include husable hbars

theorem bar4_window (w : Nat) (handle : BitVec 32) (offset : Nat) : bar4 s fn (.window w handle offset) = if 8 ≤ w then s
    else { s with host := { s.host with windows := FMap.set s.host.windows (8 * fn + w) (handle, offset / 4096 * 4096) } } := by
  unfold bar4
  exact if_neg (by rw [husable, hbars]; decide)

theorem bar4_read_missed {len : Nat} (h : barTarget s fn addr len false = none) : bar4 s fn (.read addr len) = barRefuse s true := by
  unfold bar4
  rw [if_neg (by rw [husable, hbars]; decide)]
  dsimp only
  rw [h]

theorem bar4_read_reaches {len : Nat} (h : barTarget s fn addr len false = some (q, key, off)) :
    bar4 s fn (.read addr len) = { s with host := { s.host with
      lastRead := some ((committed s key).read off len, s.rel.poison.any fun w => w.1 = key && 8 * w.2 < off + len && off < 8 * w.2 + 8)
      unsupported := false } } := by
  unfold bar4
  rw [if_neg (by rw [husable, hbars]; decide)]
  dsimp only
  rw [h]

theorem bar4_write_missed (h : barTarget s fn addr data.length true = none) : bar4 s fn (.write addr data) = barRefuse s false := by
  unfold bar4
  rw [if_neg (by rw [husable, hbars]; decide)]
  dsimp only
  rw [h]

/-- A write of a queue without a job in replay lands. -/
theorem bar4_write_lands (h : barTarget s fn addr data.length true = some (q, key, off))
    (hlive : ∀ j J, (queueAt s q).bind Queue.job = some j → jobAt s j = some J → J.replay = none) :
    bar4 s fn (.write addr data) = barWrite s q addr key off data := by
  unfold bar4
  rw [if_neg (by rw [husable, hbars]; decide)]
  dsimp only
  rw [h]
  dsimp only
  cases hj : (queueAt s q).bind Queue.job with
  | none => rfl
  | some j =>
    dsimp only
    rw [replayInput_of_live (fun J hJ => hlive j J hj hJ)]

theorem bar4_write_replayed (h : barTarget s fn addr data.length true = some (q, key, off)) (hj : (queueAt s q).bind Queue.job = some j) :
    bar4 s fn (.write addr data) = match (replayInput s j 3 q 0 data).2 with
      | none => barWrite (replayInput s j 3 q 0 data).1 q addr key off data
      | some due => holdInput (replayInput s j 3 q 0 data).1 j due (.bar4Access fn (.write addr data)) := by
  unfold bar4
  rw [if_neg (by rw [husable, hbars]; decide)]
  dsimp only
  rw [h]
  dsimp only
  rw [hj]
  dsimp only
  generalize replayInput s j 3 q 0 data = r
  obtain ⟨u, due⟩ := r
  cases due <;> rfl

end Access

theorem functionReset_ignored (h : vf = 0 ∨ usable s vf = false) : (if 1 ≤ vf && usable s vf then beginReset s vf else s) = s := by
  refine if_neg ?_
  rw [Bool.and_eq_true, decide_eq_true_iff]
  rintro ⟨hvf, husable⟩
  rcases h with h | h
  · omega
  · exact absurd (h.symm.trans husable) Bool.noConfusion

theorem le_of_assigned (hfn : fn ≠ 0) (h : assigned s fn = true) : fn ≤ 1024 := by
  unfold assigned at h
  rw [decide_eq_false hfn, Bool.false_or, Bool.and_eq_true, decide_eq_true_iff] at h
  exact h.1

/-- An accepted reset: its record, then the reset. -/
theorem reset_written (hvf : 1 ≤ vf) (hle : vf ≤ 1024) (hroom : AuditRoom s) (haccepted : Accepted s role (0x40FF + vf) 6 (.num 2)) :
    ∃ u, Audited s u role (0x40FF + vf) 6 ∧ writeEntry s role none (0x40FF + vf) 6 (.num 2) none
      = writeEnded (beginReset u vf, inReset (beginReset u vf) vf) (dkey (0x40FF + vf) 6) none := by
  obtain ⟨u, haudited, hrun⟩ := partition_written (by omega) (by omega) (by decide) hroom haccepted
  rw [partitionEffect_reset u hvf hle] at hrun
  exact ⟨u, haudited, hrun⟩

/-- The record of a write leaves what a reset reads. -/
theorem Audited.function {index sub : Nat} (h : Audited s u role index sub) (hfn : fn ≠ 0) (hle : fn ≤ 1024) :
    mboxAt u fn = mboxAt s fn ∧ inReset u fn = inReset s fn ∧ assigned u fn = assigned s fn ∧ drains u fn = drains s fn := by
  have hhost : u.host = s.host := h.only.same .host (by decide)
  have hlt := fnIndex_lt hle
  have hkeep : KeyKept (dkey (fnIndex fn) 5) s u := h.kept _ (by unfold dkey; omega)
  have hpart : KeyKept (dkey (0x40FF + fn) 1) s u := h.kept _ (by unfold dkey; omega)
  refine ⟨h.only.mboxAt (by decide) fn, ?_, ?_, ?_⟩
  · unfold inReset
    rw [hhost]
  · unfold assigned fnPart
    rw [if_neg hfn, if_neg hfn, hpart.dnum]
  · unfold drains readsOut
    rw [hkeep.dnum, hhost]

/-- A VF's reset by an FLR, or by an accepted write of 2: over at once, or draining. -/
theorem functionReset_law {s₀ : State} {by_ : Option Role} (hvf : 1 ≤ vf) (hidle : inReset s vf = false)
    (hcase : by_ = none ∧ s₀ = s ∧ usable s vf = true
      ∨ s = settleAll s₀ ∧ vf ≤ 1024 ∧ AuditRoom s ∧ ∃ role, by_ = some role ∧ Accepted s role (0x40FF + vf) 6 (.num 2)) :
    (drains s vf = false → Runs (.functionReset vf by_) s₀ fun t =>
      mboxAt t vf = { badDoorbells := (mboxAt s vf).badDoorbells } ∧ inReset t vf = false
        ∧ (∀ q Q, queueAt t q = some Q → Q.fn ≠ vf) ∧ (∀ j J, jobAt t j = some J → J.fn ≠ vf) ∧ dnum t (fnIndex vf) 6 = 1)
    ∧ (drains s vf = true → Runs (.functionReset vf by_) s₀ fun t =>
      FMap.get? t.host.resetting vf = some s.now ∧ (mboxAt t vf).inbox = [] ∧ (mboxAt t vf).held = [] ∧ dnum t (fnIndex vf) 6 = 2
        ∧ (∀ q Q, queueAt t q = some Q → Q.fn = vf → Q.cmds = [] ∧ Q.runs = [])
        ∧ (by_ ≠ none → FMap.has t.tel.busy (dkey (0x40FF + vf) 6) = true)) := by
  have hne : vf ≠ 0 := by omega
  obtain ⟨rfl, rfl, husable⟩ | ⟨rfl, hle, hroom, role, rfl, haccepted⟩ := hcase
  · obtain ⟨hassigned, -⟩ := idle_of_usable husable
    have hle := le_of_assigned hne hassigned
    have hrun : exec (.functionReset vf none) s₀ = .next (beginReset s₀ vf) := congrArg Host.Outcome.next (if_pos (by
      rw [husable, decide_eq_true hvf]; rfl))
    refine ⟨fun hdrains => ⟨_, hrun, ?_⟩, fun hdrains => ⟨_, hrun, ?_⟩⟩
    · obtain ⟨hmbox, hin, ⟨hqueues, hjobs⟩, hstate⟩ := beginReset_done hne hle hassigned hidle hdrains
      exact ⟨hmbox, hin, hqueues, hjobs, hstate⟩
    · obtain ⟨hresetting, hinbox, hheld, hstate, hempty⟩ := beginReset_drains hne hle hidle hdrains
      exact ⟨hresetting, hinbox, hheld, hstate, hempty, fun h => absurd rfl h⟩
  · obtain ⟨u, haudited, hrun⟩ := reset_written hvf hle hroom haccepted
    have hassigned := assigned_of_accepted hvf hle haccepted
    have hrun : exec (.functionReset vf (some role)) s₀
        = .next (writeEnded (beginReset u vf, inReset (beginReset u vf) vf) (dkey (0x40FF + vf) 6) none) :=
      congrArg Host.Outcome.next ((if_pos (between_iff.mpr ⟨hvf, hle⟩)).trans hrun)
    obtain ⟨hmail, hidle', hassigned', hdrains'⟩ := haudited.function hne hle
    rw [← hidle'] at hidle
    rw [← hassigned'] at hassigned
    refine ⟨fun hdrains => ⟨_, hrun, ?_⟩, fun hdrains => ⟨_, hrun, ?_⟩⟩
    · obtain ⟨hmbox, hin, ⟨hqueues, hjobs⟩, hstate⟩ := beginReset_done hne hle hassigned hidle (hdrains'.trans hdrains)
      rw [hmail] at hmbox
      rw [hin]
      exact ⟨hmbox, hin, hqueues, hjobs, hstate⟩
    · obtain ⟨hresetting, hinbox, hheld, hstate, hempty⟩ := beginReset_drains hne hle hidle (hdrains'.trans hdrains)
      rw [haudited.only.same .now (by decide)] at hresetting
      have hin : inReset (beginReset u vf) vf = true := by
        unfold inReset
        rw [FMap.has, hresetting]
        rfl
      obtain ⟨-, hbusy⟩ := writeEnded_waits (beginReset u vf) (dkey (0x40FF + vf) 6) none
      rw [hin]
      exact ⟨hresetting, hinbox, hheld, hstate, hempty, fun _ => hbusy⟩

end ResetsAndWindows

/-- Settles O45: a reset is over or drains, the PF's waits for the VFs'; an access through BAR4 is taken as its window and buffer say. -/
theorem resetsAndHostWindows : Obligations.ResetsAndHostWindows := by
  unfold Obligations.ResetsAndHostWindows
  refine ⟨⟨fun s vf h => ⟨_, rfl, functionReset_ignored h⟩, fun s₀ s vf by_ hvf hidle hcase => ?_, fun s h => ⟨_, rfl, if_neg (by rw [h]; decide)⟩,
    fun s husable hresetting => ⟨fun hreads => ?_, ?_⟩,
    fun s fn hnone hbusy => ⟨_, rfl, ?_⟩, fun s fn began h => ⟨_, rfl, fun hheld hpf => drainLimit_law h hheld hpf⟩⟩,
    fun s₀ fn op h => ⟨_, rfl, bar4_refused h op⟩, fun s₀ fn addr husable hbars => ?_⟩
  · exact functionReset_law hvf hidle hcase
  · obtain ⟨hin, hidle⟩ := resetAll_readless husable hresetting hreads
    refine ⟨_, congrArg Host.Outcome.next (if_pos husable), hin, fun q Q hQ => ?_, fun j J hJ => ?_⟩
    · by_contra hassigned
      exact (hidle Q.fn (by rwa [Bool.not_eq_false] at hassigned)).1 q Q hQ rfl
    · by_contra hassigned
      exact (hidle J.fn (by rwa [Bool.not_eq_false] at hassigned)).2 j J hJ rfl
  · rintro ⟨vf, hvf, hle, hassigned, hkeeps, hreads⟩
    exact ⟨_, congrArg Host.Outcome.next (if_pos husable), resetAll_drains husable hvf hle hassigned (by
      unfold drains; rw [decide_eq_true hkeeps, hreads]; rfl)⟩
  · rw [drainLimit_none hnone]
    exact settleResets_idle hbusy
  · have hrun (op : Bar4Op) : exec (.bar4Access fn op) s₀ = .next (bar4 (settleAll s₀) fn op) := rfl
    generalize settleAll s₀ = s at hrun husable hbars ⊢
    refine ⟨fun w handle offset hw => ?_, fun w handle offset hw => ?_, fun len hmiss => ?_, fun len q key off htarget => ?_, fun data hmiss => ?_,
      fun data q key off htarget => ⟨fun hlive => ?_, fun j hj => ⟨fun hnone => ?_, fun due hdue => ?_⟩⟩⟩
    · exact ⟨_, (hrun _).trans (congrArg Host.Outcome.next ((bar4_window husable hbars w handle offset).trans (if_pos hw))), rfl⟩
    · exact ⟨_, (hrun _).trans (congrArg Host.Outcome.next ((bar4_window husable hbars w handle offset).trans (if_neg (by omega)))), rfl, FMap.get?_set_self ..,
        fun k hk => FMap.get?_set_other _ _ _ _ hk⟩
    · exact ⟨_, (hrun _).trans (congrArg Host.Outcome.next (bar4_read_missed husable hbars hmiss)), rfl, rfl, counted_bump ..⟩
    · exact ⟨_, (hrun _).trans (congrArg Host.Outcome.next (bar4_read_reaches husable hbars htarget)), rfl, rfl, rfl⟩
    · exact ⟨_, (hrun _).trans (congrArg Host.Outcome.next (bar4_write_missed husable hbars hmiss)), rfl, counted_bump ..⟩
    · obtain ⟨hqueues, hmbx, hcores, hhome, hothers⟩ := barWrite_lands s q addr key off data
      refine ⟨_, (hrun _).trans (congrArg Host.Outcome.next (bar4_write_lands husable hbars htarget hlive)), ⟨hqueues, hmbx, hcores, hhome, hothers⟩,
        (barWrite_only ..).same .jobs (by decide), fun hrecording => ?_⟩
      rw [barWrite_unrecorded hrecording]
      exact ((storeBuf_only s key off data).mono (by rfl : StateField.within _ [.bufs, .rel, .tiered] = true)).eq_overlay
    · have hwrite := bar4_write_replayed husable hbars htarget hj
      rw [hnone] at hwrite
      obtain ⟨hqueues, hmbx, hcores, hhome, hothers⟩ := Lands.of_replayed (q := q) (addr := addr) (key := key) (off := off) (data := data)
        (replayInput_only s j 3 q 0 data)
      exact ⟨_, (hrun _).trans (congrArg Host.Outcome.next hwrite), hqueues, hmbx, hcores, hhome, hothers⟩
    · have hwrite := bar4_write_replayed husable hbars htarget hj
      rw [hdue] at hwrite
      have hall := (replayInput_only s j 3 q 0 data).trans (holdInput_only _ j due (.bar4Access fn (.write addr data)))
      refine ⟨_, (hrun _).trans (congrArg Host.Outcome.next hwrite), hall.same .bufs (by decide), hall.same .queues (by decide), ?_⟩
      rw [holdInput_replayHeld, replayInput_replayHeld, Option.map_map]
      rfl

end Sys2Proof.Machine

/-! PROOFS. What kills, failures and copies leave of the inventory's entries and of the error records. -/

namespace Sys2Proof.Machine

/-! ## Entries before the functions' charges -/

section LowKeys

variable {k : Nat}

theorem uncharge_lowKept (h : k < 256 * 0x5000) (s : State) (part fn tier n : Nat) : KeyKept k s (uncharge s part fn tier n) := by
  unfold uncharge setCharge
  split
  · rfl
  · next hfn =>
    extract_lets s1
    have h1 : KeyKept k s s1 := .dset _ _ _ _ (by unfold dkey; split <;> omega)
    exact .ite (h1.trans (.raiseTo _ _ _ _ (by unfold dkey; omega))) h1

theorem returnStorage_lowKept (h : k < 256 * 0x5000) (s : State) (part key : Nat) (b : Buf) : KeyKept k s (returnStorage s part key b) := by
  unfold returnStorage
  extract_lets s1
  have h1 : KeyKept k s s1 := .ite (.refl s) (uncharge_lowKept h ..)
  split
  · exact h1
  · extract_lets s2
    have h2 : KeyKept k s s2 := .ite h1 (h1.trans (uncharge_lowKept h ..))
    exact h2

theorem releaseHeld_lowKept (h : k < 256 * 0x5000) (s : State) : KeyKept k s (releaseHeld s) := by
  unfold releaseHeld
  refine .foldl (fun t e => ?_) _ _
  exact .ite (.refl t) (.trans (t := { t with bufs := FMap.erase t.bufs e.1 }) rfl (returnStorage_lowKept h ..))

theorem failCmd_lowKept (h : k < 256 * 0x5000) (s : State) (q uid : Nat) (st : Status) (stops : Bool) :
    KeyKept k s (failCmd s q uid st stops) := by
  unfold failCmd
  split
  · exact .refl s
  · next c _ =>
    extract_lets s1 s2 s3 s4 s5
    have h1 : KeyKept k s s1 := .trans
      (.of_only ((leaveEngines_only s q uid).trans ((discardArray_only _ q c).trans (withdraw_only _ q uid))) (by decide))
      (endStall_keyKept (by omega) ..)
    have h2 : KeyKept k s s2 := .ite (h1.trans (countIssued_keyKept (by omega) ..)) h1
    have h4 : KeyKept k s s4 := h2.trans (.of_only ((updCmd_only ..).trans (putCompletion_only ..)) (by decide))
    have h5 : KeyKept k s s5 := .ite (h4.trans (.of_only (offence_only ..) (by decide))) h4
    exact .trans (.ite (h5.trans (.of_only (stopQueue_only ..) (by decide))) h5) (releaseHeld_lowKept h _)

theorem countKilledArray_lowKept (h : k < 256 * 0x5000) (s : State) (c : Cmd) : KeyKept k s (countKilledArray s c) := by
  unfold countKilledArray
  extract_lets i
  have hi : 256 * 0x5000 ≤ dkey i 0 := by unfold i dkey; omega
  have h2 (n : Nat) : KeyKept k s (bump (bump s i 4 1) i 5 n) :=
    (KeyKept.bump s i 4 1 (by unfold dkey at *; omega)).trans (.bump _ _ _ _ (by unfold dkey at *; omega))
  exact .ite ((h2 _).trans ((countIssued_keyKept (by omega) ..).trans (countRootWait_keyKept _ c (by unfold dkey; omega))))
    (.ite (h2 _) (.refl s))

theorem giveUp_lowKept (h : k < 256 * 0x5000) (s : State) (q : Nat) (c : Cmd) : KeyKept k s (giveUp s q c) := by
  unfold giveUp
  extract_lets +onlyGivenNames s1 s2 s3 s4
  have h1 : KeyKept k s s1 := .of_only ((leaveEngines_only ..).trans ((discardArray_only ..).trans
    ((withdraw_only ..).trans (withdrawPartials_only ..)))) (by decide)
  have h2 : KeyKept k s s2 := h1.trans (endStall_keyKept (by omega) ..)
  have h3 : KeyKept k s s3 := .ite (h2.trans (countKilledArray_lowKept h ..)) h2
  have h4 : KeyKept k s s4 := .ite (h3.trans (.of_only (recallSignal_only ..) (by decide))) h3
  exact .ite (h4.trans (.of_only (tellRemote_only ..) (by decide))) h4

theorem killCmd_lowKept (h : k < 256 * 0x5000) (s : State) (q : Nat) (counts : Bool) (c : Cmd) : KeyKept k s (killCmd s q counts c) := by
  unfold killCmd
  extract_lets +onlyGivenNames s1 d
  have h1 : KeyKept k s s1 := (giveUp_lowKept h s q c).trans (trace_keyKept (by omega) ..)
  exact .ite ((h1.trans (.of_only (updCmd_only ..) (by decide))).trans (failCmd_lowKept h ..))
    (h1.trans (.of_only ((putCompletion_only s1 q c 0x0305).trans (updCmd_only ..)) (by decide)))

theorem strikeQueue_lowKept (h : k < 256 * 0x5000) (s : State) (q : Nat) (kind : KillKind) : KeyKept k s (strikeQueue s q kind) := by
  unfold strikeQueue
  split
  · exact .refl s
  · extract_lets lost s1 s2 s3
    have h1 : KeyKept k s s1 := .ite (.trans (.of_only (chargeLost_only s q lost) (by decide)) (.bump _ _ _ _ (by unfold dkey; omega))) (.refl s)
    have h2 : KeyKept k s s2 := h1.trans (.foldl (fun t c => killCmd_lowKept h t q _ c) _ _)
    have h3 : KeyKept k s s3 := h2.trans (.trans (.of_only (updQueue_only s2 q _) (by decide)) (releaseHeld_lowKept h _))
    exact .ite (h3.trans (.of_only (holdQueue_only ..) (by decide))) h3

theorem strikeCore_lowKept (h : k < 256 * 0x5000) (s : State) (core : Nat) : KeyKept k s (strikeCore s core) := by
  unfold strikeCore
  exact .trans (.foldl (fun t e => .ite (strikeQueue_lowKept h ..) (.refl t)) _ _)
    (.foldl (fun t q => .of_only (stopQueue_only t q _) (by decide)) _ _)

end LowKeys

/-! ## The records of errors and of channels out of service -/

/-- The repair and error records are the same but for poisoned words. -/
def ErrorsKept (s t : State) : Prop := t.rel = { s.rel with poison := t.rel.poison }

namespace ErrorsKept

variable {s t u : State}

theorem refl (s : State) : ErrorsKept s s := rfl

theorem trans (h : ErrorsKept s t) (g : ErrorsKept t u) : ErrorsKept s u := by
  unfold ErrorsKept at *
  rw [g, h]

theorem of_only {F : List StateField} (h : Only F s t) (hF : .rel ∉ F) : ErrorsKept s t := by
  unfold ErrorsKept
  rw [h.same .rel hF]

theorem ite {c : Prop} [Decidable c] (h : ErrorsKept s t) (g : ErrorsKept s u) : ErrorsKept s (if c then t else u) := by
  split <;> assumption

theorem foldl {α : Type} {f : State → α → State} (h : ∀ s a, ErrorsKept s (f s a)) (l : List α) (s : State) : ErrorsKept s (l.foldl f s) := by
  induction l generalizing s with
  | nil => exact .refl s
  | cons a l ih => exact (h s a).trans (ih _)

theorem errors (h : ErrorsKept s t) : t.rel.errors = s.rel.errors := (congrArg Reliability.errors h :)

theorem unitOut (h : ErrorsKept s t) (u : MemUnit) : Machine.unitOut t u = Machine.unitOut s u := by
  unfold Machine.unitOut
  rw [show t.rel.hbmOut = s.rel.hbmOut from (congrArg Reliability.hbmOut h :), show t.rel.lpddrOut = s.rel.lpddrOut from (congrArg Reliability.lpddrOut h :)]

end ErrorsKept

theorem storeBuf_errorsKept (s : State) (key off : Nat) (data : List Byte) : ErrorsKept s (storeBuf s key off data) := by
  unfold storeBuf
  extract_lets s1 home
  split
  · rfl
  · exact .ite rfl rfl

theorem hbmWrite_errorsKept (s : State) (part a : Nat) (bs : List Byte) : ErrorsKept s (hbmWrite s part a bs) := by
  unfold hbmWrite
  split
  · exact storeBuf_errorsKept ..
  · rfl

theorem putCompletion_errorsKept (s : State) (q : Nat) (c : Cmd) (st : Status) : ErrorsKept s (putCompletion s q c st) := by
  unfold putCompletion
  split
  · exact .refl s
  · extract_lets addr bs s1 s2
    have h1 : ErrorsKept s s1 := .ite (hbmWrite_errorsKept ..) (.of_only (hostWrite_only ..) (by decide))
    have h2 : ErrorsKept s s2 := h1.trans (.of_only (updQueue_only ..) (by decide))
    exact .ite (h2.trans (.of_only (msix_only ..) (by decide))) h2

theorem failCmd_errorsKept (s : State) (q uid : Nat) (st : Status) (stops : Bool) : ErrorsKept s (failCmd s q uid st stops) := by
  unfold failCmd
  split
  · exact .refl s
  · next c _ =>
    extract_lets s1 s2 s3 s4 s5
    have h1 : ErrorsKept s s1 := .of_only ((leaveEngines_only s q uid).trans ((discardArray_only _ q c).trans
      ((withdraw_only _ q uid).trans (endStall_only ..)))) (by decide)
    have h2 : ErrorsKept s s2 := .ite (h1.trans (.of_only (countIssued_only ..) (by decide))) h1
    have h4 : ErrorsKept s s4 := (h2.trans (.of_only (updCmd_only ..) (by decide))).trans (putCompletion_errorsKept ..)
    have h5 : ErrorsKept s s5 := .ite (h4.trans (.of_only (offence_only ..) (by decide))) h4
    exact .trans (.ite (h5.trans (.of_only (stopQueue_only ..) (by decide))) h5) (.of_only (releaseHeld_only _) (by decide))

theorem poisonWord_errorsKept (s : State) (word : Option (Nat × Nat × Nat)) (p : Buf → Bool) : ErrorsKept s (poisonWord s word p) := by
  unfold poisonWord
  split
  · exact .refl s
  · extract_lets w
    exact .ite rfl rfl

theorem lowerRead_errorsKept (s : State) (read : LowerRead) : ErrorsKept s (lowerRead s read) := by
  unfold lowerRead
  split
  · split
    · exact .refl s
    · exact failCmd_errorsKept ..
  · exact .ite (.of_only (copyFails_only ..) (by decide)) (.refl s)
  · exact .ite (.of_only (copyFails_only ..) (by decide)) (.refl s)

theorem failTransfers_errorsKept (s : State) : ErrorsKept s (failTransfers s) := by
  unfold failTransfers
  refine .trans (.foldl (fun t e => ?_) _ _) (.foldl (fun t e => .ite (.of_only (copyFails_only ..) (by decide)) (.refl t)) _ _)
  split
  · exact .refl t
  · exact failCmd_errorsKept ..

/-! ## Alarms behind a lower tier's error -/

section Stays

variable {k : Nat}

theorem lowerRead_stays (s : State) (read : LowerRead) : AlarmStays k s (lowerRead s read) := by
  unfold lowerRead
  split
  · split
    · exact .refl s
    · exact failCmd_stays ..
  · exact .ite (.of_only (copyFails_only ..) (by decide) (by decide)) (.refl s)
  · exact .ite (.of_only (copyFails_only ..) (by decide) (by decide)) (.refl s)

theorem failTransfers_stays (s : State) : AlarmStays k s (failTransfers s) := by
  unfold failTransfers
  refine .trans (.foldl (fun t e => ?_) _ _) (.foldl (fun t e => .ite (.of_only (copyFails_only ..) (by decide) (by decide)) (.refl t)) _ _)
  split
  · exact .refl t
  · exact failCmd_stays ..

theorem strikeCore_stays (s : State) (core : Nat) : AlarmStays k s (strikeCore s core) := by
  unfold strikeCore
  exact .trans (.foldl (fun t e => .ite (strikeQueue_stays ..) (.refl t)) _ _)
    (.foldl (fun t q => .of_only (stopQueue_only t q _) (by decide) (by decide)) _ _)

end Stays

/-! ## Corrected errors and scrub (R434, R437, R438) -/

/-- The latest `n + 2` beats of a unit are all there, and the oldest of them is at most `d` beats back. -/
theorem recent_iff (now d n : Nat) (l : List Nat) :
    (decide (((now :: l).take (n + 2)).length = n + 2) && decide (now - ((now :: l).take (n + 2)).getD (n + 1) 0 ≤ d)) = true
      ↔ n + 1 ≤ l.length ∧ now - l.getD n 0 ≤ d := by
  have hlast : ((now :: l).take (n + 2)).getD (n + 1) 0 = l.getD n 0 := by
    rw [List.getD_eq_getElem?_getD, List.getElem?_take_of_lt (by omega), List.getElem?_cons_succ, ← List.getD_eq_getElem?_getD]
  rw [hlast, Bool.and_eq_true, decide_eq_true_eq, decide_eq_true_eq, List.length_take, List.length_cons]
  omega

section Units

theorem unitEntry_high (u : MemUnit) : 0xB100 ≤ (unitEntry u).1 := by
  cases u <;> simp only [unitEntry] <;> omega

theorem unitEntry_key (u : MemUnit) (channel : Nat) : dkey (unitEntry u).1 (unitEntry u).2.1 ≠ dkey (0x6440 + channel) 3 := by
  cases u <;> simp only [unitEntry, dkey] <;> omega

theorem corrected_law (s : State) (u : MemUnit) :
    let seen := FMap.getD s.rel.corrections (unitKey u) []
    let many := 1000 ≤ seen.length ∧ s.now - seen.getD 999 0 ≤ 10 ^ 9
    Counted s (corrected s u) (unitEntry u).1 (unitEntry u).2.1 1 ∧ (many → Raised s (corrected s u) 64)
      ∧ (¬many → alarmAt (corrected s u) 64 = alarmAt s 64) := by
  intro seen many
  have hhigh := unitEntry_high u
  have hother := unitEntry_key u
  unfold corrected
  generalize unitEntry u = e at *
  obtain ⟨i, c, d⟩ := e
  dsimp -zeta only at hhigh hother ⊢
  extract_lets key l src s1 s2
  have h2 : Only [.rel, .dict] s s2 ∧ KeyKept (dkey i c) s1 s2 := by
    have h1 : Only [.rel, .dict] s s1 := .mono (by rfl) <| (setRel_only _ _).trans (bump_only ..)
    unfold s2
    split
    · exact ⟨.mono (by rfl) (h1.trans (bump_only ..)), .bump _ _ _ _ (hother _)⟩
    · exact ⟨h1, .refl _⟩
  obtain ⟨honly, hkept⟩ := h2
  have hstays : AlarmStays 64 s s2 := .of_only honly (by decide) (by decide)
  have hcounted : Counted s s2 i c 1 := hkept.dnum.trans (counted_bump ..)
  have hkey : dkey i c / 256 ≠ 0x7000 ∧ dkey i c / 256 ≠ 0x7100 := by unfold dkey; omega
  have hrecent : (l.length = 1001 && s2.now - l.getD 1000 0 ≤ 10 ^ 9) = true ↔ many := by
    rw [honly.same .now (by decide)]
    exact recent_iff s.now (10 ^ 9) 999 seen
  split
  · next h =>
    exact ⟨hcounted.kept (alarmLog_keyKept hkey.1 hkey.2 ..), fun _ => hstays.raised (alarmLog_raised ..), fun hno => absurd (hrecent.mp h) hno⟩
  · next h =>
    exact ⟨hcounted.kept (detectFree_keyKept hkey.2 ..), fun hmany => absurd (hrecent.mpr hmany) h, fun _ => (hstays.trans (detectFree_stays ..)).record⟩

theorem repairRows_congr {s t : State} (h : t.rel.repair = s.rel.repair) (u : MemUnit) : repairRows t u = repairRows s u := by
  unfold repairRows
  rw [h]

theorem scrub_law (s : State) (u : MemUnit) (rows : List Nat) (seconds : Nat) :
    let t := scrub s u rows seconds
    (2 * scrubPeriod u < seconds → Raised s t 74) ∧ (seconds ≤ 2 * scrubPeriod u → t.tel = s.tel)
      ∧ ((∀ c, u ≠ .core c) → dnum t (unitEntry u).1 3 = repairRows t u ∧ dnum t (unitEntry u).1 5 = min seconds (2 ^ 32 - 1))
      ∧ (∀ c, u = .core c → t.rel = s.rel) := by
  intro t
  have hhigh := unitEntry_high u
  have ht : t = scrub s u rows seconds := rfl
  unfold scrub at ht
  generalize hentry : unitEntry u = e at *
  obtain ⟨i, c, d⟩ := e
  dsimp -zeta only at hhigh ht ⊢
  extract_lets v s1 at ht
  have h1 : Only [.rel, .dict] s s1 ∧ ((∀ c, u ≠ .core c) → dnum s1 i 3 = repairRows s1 u ∧ dnum s1 i 5 = min seconds (2 ^ 32 - 1))
      ∧ (∀ c, u = .core c → s1.rel = s.rel) := by
    have hrows : Only [.rel] s v := .foldl (fun t r => scrubRow_only u t r) _ _
    unfold s1
    split
    · next c => exact ⟨.self s, fun h => absurd rfl (h c), fun _ _ => rfl⟩
    · next hcore =>
      exact ⟨.mono (by rfl) (hrows.trans ((dset_only ..).trans (dset_only ..))),
        fun _ => ⟨(dnum_dset_other _ _ _ _ _ _ (by unfold dkey; omega)).trans (dnum_dset_self ..), dnum_dset_self ..⟩, fun c h => absurd h (hcore c)⟩
  obtain ⟨honly, hset, hsame⟩ := h1
  rw [ht]
  split
  · next hlate =>
    have hlog := alarmLog_only s1 74 (unitNumber u) (unitSource u)
    have hkept (j : Nat) : KeyKept (dkey i j) s1 (alarmLog s1 74 (unitNumber u) (unitSource u)) :=
      alarmLog_keyKept (by unfold dkey; omega) (by unfold dkey; omega) ..
    refine ⟨fun _ => (AlarmStays.of_only honly (by decide) (by decide)).raised (alarmLog_raised ..), fun h => absurd h (by omega), fun h => ?_,
      fun c h => (hlog.same .rel (by decide)).trans (hsame c h)⟩
    rw [(hkept 3).dnum, (hkept 5).dnum, repairRows_congr (congrArg Reliability.repair (hlog.same .rel (by decide)))]
    exact hset h
  · next hlate => exact ⟨fun h => absurd h hlate, fun _ => honly.same .tel (by decide), hset, hsame⟩

end Units

/-! ## Uncorrectable errors in a core (R435) -/

section Uncorrectable

variable {s : State} {core q : Nat} {Q : Queue}

/-- The error is counted and raises its alarm; queues, buffers and clusters stand. -/
theorem coreError_law (s : State) (core : Nat) :
    let t := alarmLog (bump s (0xB100 + core / 4) 5 1) 65 core (core / 4)
    Counted s t (0xB100 + core / 4) 5 1 ∧ Raised s t 65 ∧ Only [.dict, .fresh, .tel, .pins] s t :=
  ⟨(counted_bump ..).kept (alarmLog_keyKept (by unfold dkey; omega) (by unfold dkey; omega) ..),
    (AlarmStays.of_only (bump_only ..) (by decide) (by decide)).raised (alarmLog_raised ..), .mono (by rfl) ((bump_only ..).trans (alarmLog_only ..))⟩

theorem throttledKill_of_only {F : List StateField} {t : State} (h : Only F s t) (hclusters : .clusters ∉ F) (hnow : .now ∉ F) (Q : Queue) :
    throttledKill t Q = throttledKill s Q := by
  unfold throttledKill
  rw [h.same .now hnow]
  refine congrArg (fun p => (struck s.now Q).any p) (funext fun c => ?_)
  rw [h.clusterAt hclusters]

/-- Fewer than 16 fault kills declare no core dead. -/
theorem noteFaultKill_few (h : (coreAt s core).faultKills.length < 15) :
    noteFaultKill s core = bump (updCore s core fun k => { k with faultKills := (s.now :: (coreAt s core).faultKills).take 16 })
      (0xB100 + core / 4) 6 1 := by
  unfold noteFaultKill
  extract_lets l s1 s2
  have hfew : l.length ≠ 16 := by
    simp only [l, List.length_take, List.length_cons]
    omega
  exact if_neg (by simp [hfew])

/-- A word of a buffer in the core is poisoned. -/
theorem poisonWord_poisons {part index off : Nat} {b : Buf} {p : Buf → Bool} (hb : FMap.get? s.bufs (bufKey part index) = some b) (hp : p b = true)
    (hoff : off < b.size) : (bufKey part index, off / 8) ∈ (poisonWord s (some (part, index, off)) p).rel.poison := by
  unfold poisonWord
  dsimp -zeta only
  extract_lets +onlyGivenNames w
  have hany : (FMap.get? s.bufs w.1).any (fun b => p b && off < b.size) = true := by
    show (FMap.get? s.bufs (bufKey part index)).any _ = true
    rw [hb, Option.any_some, hp, decide_eq_true hoff]
    rfl
  rw [hany, Bool.true_and]
  split
  · exact List.mem_append_right _ List.mem_cons_self
  · next h => simpa using h

/-- A queue that has no command for a kill to strike is left alone. -/
theorem uncorrectable_unstruck (word : Option (Nat × Nat × Nat)) (hQ : queueAt s q = some Q) (hstruck : struck s.now Q = []) :
    Raised s (uncorrectable s core (some q) word) 65 ∧ (uncorrectable s core (some q) word).queues = s.queues := by
  obtain ⟨-, hraised, honly⟩ := coreError_law s core
  unfold uncorrectable
  extract_lets s1 s2
  have h2 : Only [.dict, .fresh, .tel, .pins, .rel] s s2 := .mono (by rfl) (honly.trans (poisonWord_only ..))
  dsimp only
  rw [if_neg (by rw [h2.queueAt (by decide), hQ, h2.same .now (by decide), Option.any_some, hstruck]; decide)]
  exact ⟨hraised.stays (.of_only (poisonWord_only ..) (by decide) (by decide)), h2.same .queues (by decide)⟩

/-- The queue that met the error is fault-killed. -/
theorem uncorrectable_kills (word : Option (Nat × Nat × Nat)) (hQ : queueAt s q = some Q) (hstruck : struck s.now Q ≠ [])
    (hthrottle : throttledKill s Q = false) (hfew : (coreAt s core).faultKills.length < 15) :
    Raised s (uncorrectable s core (some q) word) 65
      ∧ ∃ Q', queueAt (uncorrectable s core (some q) word) q = some Q'
        ∧ ∀ d ∈ Q'.cmds, d.state = .fetched ∨ d.failed = true ∨ d.fixed s.now = true := by
  obtain ⟨-, hraised, honly⟩ := coreError_law s core
  unfold uncorrectable
  extract_lets s1 s2
  have h2 : Only [.dict, .fresh, .tel, .pins, .rel] s s2 := .mono (by rfl) (honly.trans (poisonWord_only ..))
  have hQ2 : queueAt s2 q = some Q := (h2.queueAt (by decide) q).trans hQ
  have hnow : s2.now = s.now := h2.same .now (by decide)
  have hthrottle2 : throttledKill s2 Q = false := (throttledKill_of_only h2 (by decide) (by decide) Q).trans hthrottle
  dsimp only
  rw [if_pos (by rw [hQ2, hnow, Option.any_some]; simpa using hstruck)]
  have hcores : CoresKept s2 (killQueue s2 q .fault) := killQueue_strikes .fault hQ2 hthrottle2 ▸ strikeQueue_coresKept ..
  rw [noteFaultKill_few (by rw [hcores.faultKills, h2.coreAt (by decide)]; exact hfew)]
  obtain ⟨Q', hQ', -, hsettled⟩ := killQueue_settles .fault hQ2 hthrottle2
  refine ⟨?_, Q', hQ', fun d hd => hnow ▸ hsettled d hd⟩
  exact ((hraised.stays (.of_only (poisonWord_only ..) (by decide) (by decide))).stays (killQueue_stays s2 q .fault)).stays
    (.of_only ((updCore_only ..).trans (bump_only ..)) (by decide) (by decide))

end Uncorrectable

end Sys2Proof.Machine

/-! PROOFS. O55: lower tiers, poisoned words, dead cores, watchdogs. -/

namespace Sys2Proof.Machine

section Errors

variable {s t : State} {u : MemUnit} {q uid c k core : Nat}

/-! ## Lower tiers (R162, R435, R439) -/

theorem unitOut_congr (hhbm : t.rel.hbmOut = s.rel.hbmOut) (hlpddr : t.rel.lpddrOut = s.rel.lpddrOut) (u : MemUnit) : unitOut t u = unitOut s u := by
  unfold unitOut
  rw [hhbm, hlpddr]

/-- The fourth error of a channel in 24 h takes it out of service. -/
theorem channelOut_law (s : State) (hcore : ∀ c, u ≠ .core c) :
    unitOut (channelOut s u) u = true ∧ Raised s (channelOut s u) 69 ∧ Raised s (channelOut s u) 7
      ∧ ∀ k, k ≠ 69 → k ≠ 7 → AlarmStays k s (channelOut s u) := by
  unfold channelOut
  extract_lets src s1
  have h1 : Only [.rel, .dict] s s1 ∧ unitOut s1 u = true := by
    unfold s1
    split
    · exact absurd rfl (hcore _)
    · next stack channel _ =>
      extract_lets quarter v out w
      have hv : (v.rel.hbmOut).contains (32 * stack + channel) = true := by
        rw [List.contains_iff_mem]
        by_cases h : (32 * stack + channel) ∈ s.rel.hbmOut
        · exact List.mem_append_left _ h
        · refine List.mem_append_right _ (List.mem_filter.mpr ⟨List.mem_map.mpr ⟨channel % 8, List.mem_range.mpr (by omega), by omega⟩, by simpa using h⟩)
      have hv0 : Only [.rel] s v := setRel_only ..
      have hw : Only [.rel, .dict] s w := .mono (by rfl) (hv0.trans (dset_only ..))
      split
      · exact ⟨.mono (by rfl) (hw.trans (dset_only ..)), hv⟩
      · exact ⟨hw, hv⟩
    · next channel _ =>
      extract_lets v
      have hv : Only [.rel] s v := setRel_only ..
      refine ⟨.mono (by rfl) (hv.trans (dset_only ..)), List.contains_iff_mem.mpr (List.mem_append_right _ List.mem_cons_self)⟩
  obtain ⟨honly, hout⟩ := h1
  have hstays (k : Nat) : AlarmStays k s s1 := .of_only honly (by decide) (by decide)
  refine ⟨?_, ?_, ?_, fun k h69 h7 => ?_⟩
  · rw [(failTransfers_errorsKept _).unitOut, (ErrorsKept.of_only ((alarmLog_only ..).trans (inventoryChange_only ..)) (by decide)).unitOut]
    exact hout
  · exact (((hstays 69).raised (alarmLog_raised ..)).stays (alarm_stays (by decide) ..)).stays (failTransfers_stays _)
  · exact (((hstays 7).trans (alarmLog_stays (by decide) ..)).raised (alarm_raised ..)).stays (failTransfers_stays _)
  · exact ((hstays k).trans (alarmLog_stays h69 ..)).trans ((alarm_stays h7 ..).trans (failTransfers_stays _))

/-- An error of a lower tier raises its alarm. -/
theorem channelError_law (s : State) (hcore : ∀ c, u ≠ .core c) :
    let old := FMap.getD s.rel.errors (unitKey u) []
    Raised s (channelError s u) 65
      ∧ (3 ≤ old.length → s.now - old.getD 2 0 ≤ 86400 * 10 ^ 9 → unitOut s u = false →
          unitOut (channelError s u) u = true ∧ Raised s (channelError s u) 69 ∧ Raised s (channelError s u) 7)
      ∧ (old.length < 3 → Only [.dict, .fresh, .tel, .pins, .rel] s (channelError s u)) := by
  intro old
  unfold channelError
  split
  · exact absurd rfl (hcore _)
  · split
    next i x d _ =>
    extract_lets key l s1 src s2
    have h1 : Only [.dict, .fresh, .tel, .pins] s s1 := .mono (by rfl) ((bump_only ..).trans (alarmLog_only ..))
    have hraised : Raised s s1 65 := (AlarmStays.of_only (bump_only ..) (by decide) (by decide)).raised (alarmLog_raised ..)
    have h2 : Only [.dict, .fresh, .tel, .pins, .rel] s s2 := .mono (by rfl) (h1.trans (setRel_only ..))
    have hraised2 : Raised s s2 65 := hraised.stays (.of_same rfl rfl)
    have hother (k : Nat) (hk : k ≠ 65) : AlarmStays k s s2 :=
      (AlarmStays.of_only (bump_only ..) (by decide) (by decide)).trans ((alarmLog_stays hk ..).trans (.of_same rfl rfl))
    have hrecent : (l.length = 4 && s2.now - l.getD 3 0 ≤ 86400 * 10 ^ 9) = true ↔ 3 ≤ old.length ∧ s.now - old.getD 2 0 ≤ 86400 * 10 ^ 9 := by
      rw [h2.same .now (by decide)]
      exact recent_iff s.now (86400 * 10 ^ 9) 2 old
    have hrel : s1.rel = s.rel := h1.same .rel (by decide)
    have hunit : unitOut s2 u = unitOut s u :=
      unitOut_congr (congrArg Reliability.hbmOut hrel) (congrArg Reliability.lpddrOut hrel) u
    split
    · next h =>
      rw [Bool.and_eq_true] at h
      obtain ⟨hfull, -⟩ := h
      obtain ⟨hout, h69, h7, hstays⟩ := channelOut_law s2 hcore
      exact ⟨hraised2.stays (hstays 65 (by decide) (by decide)),
        fun _ _ _ => ⟨hout, (hother 69 (by decide)).raised h69, (hother 7 (by decide)).raised h7⟩,
        fun hfew => absurd (hrecent.mp hfull).1 (by omega)⟩
    · next h =>
      refine ⟨hraised2, fun hlen hbeat hin => absurd ?_ h, fun _ => h2⟩
      rw [hrecent.mpr ⟨hlen, hbeat⟩, hunit, hin]
      rfl

/-- The command that read fails. -/
theorem lowerRead_fails {Q : Queue} {c : Cmd} (hQ : queueAt s q = some Q)
    (hfind : (Q.cmds.find? fun c => c.state = .started && opEngine c.op) = some c) (hc : cmdAt Q c.uid = some c) :
    Failed (lowerRead s (.command q)) q c.uid 0x0684 := by
  unfold lowerRead
  dsimp only
  rw [hQ, Option.bind_some, hfind]
  exact fail_failed s q c.uid 0x0684 Q c hQ hc

theorem Failed.of_only {F : List StateField} {st : Status} (h : Failed s q uid st) (honly : Only F s t) (hF : .queues ∉ F) : Failed t q uid st := by
  obtain ⟨Q, c, hQ, hrest⟩ := h
  exact ⟨Q, c, (honly.queueAt hF q).trans hQ, hrest⟩

/-- Fewer than four errors of a channel touch no command, buffer or copy. -/
theorem channelError_few (s : State) (u : MemUnit) (hfew : (FMap.getD s.rel.errors (unitKey u) []).length < 3) :
    Only [.dict, .fresh, .tel, .pins, .rel] s (channelError s u) := by
  cases u with
  | core c => exact .self s
  | hbm a b d => exact (channelError_law s (by simp)).2.2 hfew
  | lpddr a b => exact (channelError_law s (by simp)).2.2 hfew

/-- A promote whose source fails drops its copy. -/
theorem lowerRead_promote {part index : Nat} (hwaiters : (tieredAt s (bufKey part index)).waiters = [])
    (hstate : (tieredAt s (bufKey part index)).state = .promoting) (hcopying : (tieredAt s (bufKey part index)).copying = true) :
    (tieredAt (lowerRead s (.promote part index)) (bufKey part index)).state = .absent
      ∧ (lowerRead s (.promote part index)).bufs = s.bufs := by
  have hrun : lowerRead s (.promote part index) = dropCopy s part (bufKey part index) 0x0684 := by
    unfold lowerRead copyFails
    dsimp only
    rw [if_pos hstate, if_neg (by rw [hcopying]; decide), if_pos hstate]
  rw [hrun]
  exact ⟨(dropCopy_law s part _ (by decide)).2 hwaiters, (dropCopy_only ..).same .bufs (by decide)⟩

/-- A write-back whose target fails leaves the object resident on its copy. -/
theorem lowerRead_writeBack {part index : Nat} {out : Bool} (hwaiters : (tieredAt s (bufKey part index)).waiters = [])
    (hstate : (tieredAt s (bufKey part index)).state = .evicting) (hcopying : (tieredAt s (bufKey part index)).copying = true) :
    let t := tieredAt (lowerRead s (.writeBack part index out)) (bufKey part index)
    t.state = .resident ∧ t.dirty = true ∧ t.copy = (tieredAt s (bufKey part index)).copy
      ∧ (lowerRead s (.writeBack part index out)).bufs = s.bufs := by
  have hrun : lowerRead s (.writeBack part index out) = copyFails s part (bufKey part index) (if out then 0x0685 else 0x0684) := if_pos hstate
  have hst : (if out then 0x0685 else 0x0684) < 2 ^ 16 := by split <;> decide
  obtain ⟨hresident, hdirty, hcopy⟩ := (copyFails_evicting (part := part) hstate hcopying hst).2 hwaiters
  rw [hrun]
  exact ⟨hresident, hdirty, hcopy, (copyFails_only ..).same .bufs (by decide)⟩

/-- A read of a lower tier's word that is poisoned: the error of its channel, whatever the read was for. -/
theorem uncorrectableLower_law (s : State) (read : LowerRead) (word : Option (Nat × Nat × Nat)) (hcore : ∀ c, u ≠ .core c) :
    let old := FMap.getD s.rel.errors (unitKey u) []
    let t := uncorrectableLower s read u word
    Raised s t 65 ∧ (3 ≤ old.length → s.now - old.getD 2 0 ≤ 86400 * 10 ^ 9 → unitOut s u = false →
      unitOut t u = true ∧ Raised s t 69 ∧ Raised s t 7) := by
  intro old
  unfold uncorrectableLower
  generalize hv : lowerRead (poisonWord s word fun b => b.tier ≠ 0) read = v
  have hkept : ErrorsKept s v := hv ▸ (poisonWord_errorsKept ..).trans (lowerRead_errorsKept ..)
  have hstays (k : Nat) : AlarmStays k s v :=
    hv ▸ (AlarmStays.of_only (poisonWord_only ..) (by decide) (by decide)).trans (lowerRead_stays ..)
  have hnow : v.now = s.now := hv ▸ ((poisonWord_only ..).trans (lowerRead_only ..)).same .now (by decide)
  obtain ⟨hraised, hout, -⟩ := channelError_law v hcore
  rw [hkept.errors, hkept.unitOut, hnow] at hout
  refine ⟨(hstays 65).raised hraised, fun hlen hbeat hin => ?_⟩
  obtain ⟨hunit, h69, h7⟩ := hout hlen hbeat hin
  exact ⟨hunit, (hstays 69).raised h69, (hstays 7).raised h7⟩

/-! ## A MOVE that reads a poisoned word (R436) -/

theorem runs_poisoned {Q : Queue} {c : Cmd} {w : Nat × Nat} {P : State → Prop} (hmove : moveCmd s q 0 = some (Q, c)) (hmet : poisonMet s Q c = some w)
    (h : P (meetPoison s q c.uid w)) : Runs (.moveCopy q) s P := by
  refine ⟨_, congrArg Host.Outcome.next (?_ : unlessPoisoned s q (moveCmd s q 0) (runMove s q 0) = _), h⟩
  unfold unlessPoisoned
  rw [hmove]
  dsimp only
  rw [hmet]

/-- A word's unit is a channel. -/
theorem wordUnit_ne_core {w : Nat × Nat} (h : wordUnit s w = some u) (c : Nat) : u ≠ .core c := by
  rintro rfl
  unfold wordUnit at h
  obtain ⟨b, -, hb⟩ := Option.bind_eq_some_iff.mp h
  generalize homeOf s w.1 b = p at hb
  obtain ⟨tier, addr⟩ := p
  dsimp only at hb
  split at hb
  · cases hb
  · obtain ⟨ch, -, hch⟩ := Option.map_eq_some_iff.mp hb
    cases hch
  · obtain ⟨ch, -, hch⟩ := Option.map_eq_some_iff.mp hb
    cases hch

/-- The word stands in a lower tier: the command fails, and its channel counts an error. -/
theorem meetPoison_lower {Q : Queue} {c : Cmd} {w : Nat × Nat} {b : Buf} (hQ : queueAt s q = some Q) (hc : cmdAt Q c.uid = some c)
    (hb : FMap.get? s.bufs w.1 = some b) (htier : b.tier ≠ 0)
    (hfew : ∀ u, wordUnit s w = some u → (FMap.getD s.rel.errors (unitKey u) []).length < 3) :
    Failed (meetPoison s q c.uid w) q c.uid 0x0684 ∧ (wordUnit s w ≠ none → Raised s (meetPoison s q c.uid w) 65) := by
  have hfailed := fail_failed s q c.uid 0x0684 Q c hQ hc
  unfold meetPoison
  rw [hb]
  dsimp only
  rw [if_neg htier]
  cases hunit : wordUnit s w with
  | none => exact ⟨hfailed, fun h => absurd rfl h⟩
  | some u =>
    have hkept : ErrorsKept s (fail s q c.uid 0x0684) := failCmd_errorsKept ..
    have honly := channelError_few (fail s q c.uid 0x0684) u (by rw [hkept.errors]; exact hfew u hunit)
    refine ⟨hfailed.of_only honly (by decide), fun _ => ?_⟩
    exact (failCmd_stays ..).raised (channelError_law (fail s q c.uid 0x0684) (wordUnit_ne_core hunit)).1

end Errors

end Sys2Proof.Machine

/-! PROOFS. O55: dead cores, watchdogs, and all of it together. -/

namespace Sys2Proof.Machine

section DeadCores

variable {s t : State} {c k core : Nat} {role : Role}

/-! ## What a wake leaves of a cluster and of a core's service -/

/-- Clusters are as before but for their PLL and its last use. -/
def PllOnly (s t : State) : Prop :=
  ∀ d, clusterAt t d = { clusterAt s d with pll := (clusterAt t d).pll, pllSince := (clusterAt t d).pllSince, lastUse := (clusterAt t d).lastUse }

theorem useCluster_pllOnly (s : State) (c : Nat) : PllOnly s (useCluster s c) := by
  intro d
  unfold useCluster
  extract_lets cl
  by_cases hd : d = c
  · subst hd
    split
    · rw [(bump_only ..).clusterAt (by decide), clusterAt_updCluster_self]
    · rw [clusterAt_updCluster_self]
  · split
    · rw [(bump_only ..).clusterAt (by decide), clusterAt_updCluster_other _ _ _ _ hd]
    · rw [clusterAt_updCluster_other _ _ _ _ hd]

theorem updCore_inService (s : State) (core : Nat) {f : Core → Core} (hf : ∀ x, (f x).inService = x.inService) (k : Nat) :
    (coreAt (updCore s core f) k).inService = (coreAt s k).inService := by
  by_cases hk : k = core
  · subst hk
    rw [coreAt_updCore_self, hf]
  · rw [coreAt_updCore_other _ _ _ _ hk]

theorem startRamps_inService (s : State) (k : Nat) : (coreAt (startRamps s) k).inService = (coreAt s k).inService := by
  unfold startRamps
  refine foldl_keeps (fun t => (coreAt t k).inService = (coreAt s k).inService) _ (fun t e ht => ?_) _ s rfl
  dsimp only
  split
  · refine (updCore_inService t e.2 ?_ k).trans ht
    exact fun _ => rfl
  · exact ht

theorem requestWake_inService (s : State) (core k : Nat) : (coreAt (requestWake s core) k).inService = (coreAt s k).inService := by
  unfold requestWake
  extract_lets x off s1 s2
  split
  · rfl
  · have h1 : (coreAt s1 k).inService = (coreAt s k).inService := congrArg Core.inService ((useCluster_only s (core / 4)).coreAt (by decide) k)
    have h2 : (coreAt s2 k).inService = (coreAt s1 k).inService := by
      refine updCore_inService s1 core ?_ k
      exact fun _ => rfl
    exact (startRamps_inService (bump s2 (0x9200 + core / 4) 1 1) k).trans (h2.trans h1)

theorem requestWake_pllOnly (s : State) (core : Nat) : PllOnly s (requestWake s core) := by
  unfold requestWake
  extract_lets x off s1 s2
  split
  · exact fun _ => rfl
  · intro d
    have hsame := ((updCore_only s1 core fun k => { k with power := .waiting, wakeAt := s1.now, wakePllOff := off }).trans
      ((bump_only ..).trans (startRamps_only (bump s2 (0x9200 + core / 4) 1 1)))).clusterAt (by decide) d
    rw [hsame]
    exact useCluster_pllOnly s (core / 4) d

theorem wakeSpare_law (s : State) (core : Nat) : (coreAt (wakeSpare s core) core).inService = true ∧ PllOnly s (wakeSpare s core) := by
  unfold wakeSpare
  extract_lets old s1
  refine ⟨(requestWake_inService ..).trans (by unfold s1; rw [coreAt_updCore_self]), fun d => ?_⟩
  have h := requestWake_pllOnly s1 core d
  rwa [(updCore_only ..).clusterAt (by decide)] at h

/-! ## A core declared dead (R441 to R445) -/

/-- The state in which the core's fence is set, its queues are struck and its store is lost. -/
def deadStruck (s : State) (core : Nat) : State :=
  loseStore (strikeCore (alarmLog (updCluster s (core / 4) fun cl => { cl with fenced := cl.fenced ++ [cl.names.getD (core % 4) 0] }) 66 core (core / 4))
    core) core

theorem deadStruck_law (s : State) (core : Nat) :
    Raised s (deadStruck s core) 66 ∧ (∀ k, k ≠ 66 → AlarmStays k s (deadStruck s core)) ∧ KeyKept (dkey 0x1100 3) s (deadStruck s core)
      ∧ clusterAt (deadStruck s core) (core / 4)
          = { clusterAt s (core / 4) with fenced := (clusterAt s (core / 4)).fenced ++ [(clusterAt s (core / 4)).names.getD (core % 4) 0] } := by
  unfold deadStruck
  generalize hv : updCluster s (core / 4) _ = v
  have honly : Only [.clusters] s v := hv ▸ updCluster_only ..
  have hstays (k : Nat) : AlarmStays k s v := .of_only honly (by decide) (by decide)
  have hstore (w : State) (k : Nat) : AlarmStays k w (loseStore w core) := .of_only (loseStore_only ..) (by decide) (by decide)
  refine ⟨((hstays 66).raised (alarmLog_raised ..)).stays ((strikeCore_stays ..).trans (hstore _ 66)),
    fun k hk => (hstays k).trans ((alarmLog_stays hk ..).trans ((strikeCore_stays ..).trans (hstore _ k))), ?_, ?_⟩
  · exact .trans (.of_only honly (by decide)) ((alarmLog_keyKept (by decide) (by decide) ..).trans
      ((strikeCore_lowKept (by decide) ..).trans (.of_only (loseStore_only ..) (by decide))))
  · rw [((alarmLog_only v 66 core (core / 4)).trans ((strikeCore_only ..).trans (loseStore_only ..))).clusterAt (by decide), ← hv,
      clusterAt_updCluster_self]

theorem declareDead_out (h : (coreAt s core).inService = false) : declareDead s core = s := if_pos (by rw [h]; rfl)

/-- The cluster's spare takes the name. -/
theorem declareDead_spared {p : Nat} (h : (coreAt s core).inService = true) (hspare : (clusterAt s (core / 4)).spare = some p) :
    let t := declareDead s core
    let cl := clusterAt s (core / 4)
    Raised s t 66 ∧ (clusterAt t (core / 4)).fenced = cl.fenced ++ [cl.names.getD (core % 4) 0] ∧ (clusterAt t (core / 4)).spare = none
      ∧ (clusterAt t (core / 4)).names = cl.names.set (core % 4) p ∧ (clusterAt t (core / 4)).takeoverCore = some (core % 4)
      ∧ (coreAt t core).inService = true := by
  obtain ⟨hraised, -, -, hcluster⟩ := deadStruck_law s core
  generalize hu : updCluster (deadStruck s core) (core / 4) (fun cl =>
    { cl with names := cl.names.set (core % 4) p, spare := none, takeoverCore := some (core % 4) }) = u
  have hrun : declareDead s core = wakeSpare u core := by
    rw [← hu]
    unfold declareDead
    extract_lets c k cl s1 s2 s3
    rw [if_neg (by rw [h]; decide), show cl.spare = some p from hspare]
    rfl
  obtain ⟨hin, hpll⟩ := wakeSpare_law u core
  have hcl := hpll (core / 4)
  have hat : clusterAt u (core / 4) = { clusterAt s (core / 4) with
      fenced := (clusterAt s (core / 4)).fenced ++ [(clusterAt s (core / 4)).names.getD (core % 4) 0]
      names := (clusterAt s (core / 4)).names.set (core % 4) p, spare := none, takeoverCore := some (core % 4) } := by
    rw [← hu, clusterAt_updCluster_self, hcluster]
  have hwoken : Raised s (wakeSpare u core) 66 := by
    rw [← hu]
    exact (hraised.stays (.of_only (updCluster_only ..) (by decide) (by decide))).stays (.of_only (wakeSpare_only ..) (by decide) (by decide))
  rw [hrun]
  exact ⟨hwoken, (congrArg Cluster.fenced hcl).trans (congrArg Cluster.fenced hat), (congrArg Cluster.spare hcl).trans (congrArg Cluster.spare hat),
    (congrArg Cluster.names hcl).trans (congrArg Cluster.names hat), (congrArg Cluster.takeoverCore hcl).trans (congrArg Cluster.takeoverCore hat), hin⟩

theorem inventoryCores_kept : KeyKept (dkey 0x1100 3) s (inventoryCores s) := by
  unfold inventoryCores
  exact (KeyKept.dset _ _ _ _ (by decide)).trans (.dset _ _ _ _ (by decide))

theorem coreOut_law (s : State) (core : Nat) : (coreAt (coreOut s core) core).inService = false ∧ (coreAt (coreOut s core) core).power = .gated
    ∧ dnum (coreOut s core) 0x1100 3 = setBit (dnum s 0x1100 3) core false := by
  unfold coreOut
  extract_lets s1
  have hcore : coreAt (inventoryCores (dset s1 0x1100 3 (setBit (dnum s1 0x1100 3) core false))) core
      = { coreAt s core with inService := false, power := .gated } :=
    (((dset_only ..).trans (inventoryCores_only _)).coreAt (by decide) core).trans (coreAt_updCore_self ..)
  refine ⟨congrArg Core.inService hcore, congrArg Core.power hcore, ?_⟩
  exact (inventoryCores_kept (s := dset s1 0x1100 3 (setBit (dnum s1 0x1100 3) core false))).dnum.trans (dnum_dset_self ..)

theorem inventoryChange_keyKept {k : Nat} (h : k / 256 ≠ 0x7000) (s : State) (detail : Nat) : KeyKept k s (inventoryChange s detail) :=
  alarm_keyKept h s 7 detail

theorem spareGone_kept (s : State) (c : Nat) {k : Nat} (hk : k ≠ dkey 0x1100 4) : KeyKept k s (spareGone s c) :=
  .trans (.of_only (updCluster_only ..) (by decide)) (.dset _ _ _ _ hk)

/-- Without a spare the core leaves service. -/
theorem declareDead_gone (h : (coreAt s core).inService = true) (hspare : (clusterAt s (core / 4)).spare = none) :
    let t := declareDead s core
    Raised s t 66 ∧ Raised s t 67 ∧ (coreAt t core).inService = false ∧ (coreAt t core).power = .gated
      ∧ dnum t 0x1100 3 = setBit (dnum s 0x1100 3) core false := by
  obtain ⟨hraised, hstays, hkept, -⟩ := deadStruck_law s core
  intro t
  have ht : t = declareDead s core := rfl
  unfold declareDead at ht
  extract_lets c k cl s1 s2 s3 served s4 s5 s6 at ht
  rw [if_neg (by rw [h]; decide), show cl.spare = none from hspare] at ht
  dsimp only at ht
  have h3 : s3 = deadStruck s core := rfl
  have h5 : Only [.dict, .clusters] s3 s5 ∧ KeyKept (dkey 0x1100 3) s3 s5 := by
    have h4 : Only [.dict] s3 s4 ∧ KeyKept (dkey 0x1100 3) s3 s4 := by
      unfold s4
      split
      · exact ⟨dset_only .., .dset _ _ _ _ (by unfold dkey; omega)⟩
      · exact ⟨.self _, .refl _⟩
    unfold s5
    split
    · exact ⟨.mono (by rfl) (h4.1.trans (spareGone_only ..)), h4.2.trans (spareGone_kept _ _ (by decide))⟩
    · exact ⟨.mono (by rfl) h4.1, h4.2⟩
  have h6 : Only [.cores, .jobs, .bufs] s5 s6 := .ite (zeroingDone_only ..) (.self _)
  have hbefore (k : Nat) : AlarmStays k s3 s6 := (AlarmStays.of_only h5.1 (by decide) (by decide)).trans (.of_only h6 (by decide) (by decide))
  have hafter (k : Nat) (hk : k ≠ 7) (v : State) : AlarmStays k v (inventoryChange (coreOut v core) core) :=
    (AlarmStays.of_only (coreOut_only ..) (by decide) (by decide)).trans (alarm_stays hk ..)
  obtain ⟨hin, hpower, hnum⟩ := coreOut_law (alarmLog s6 67 core c) core
  have hat := (inventoryChange_only (coreOut (alarmLog s6 67 core c) core) core).coreAt (by decide) core
  rw [ht]
  refine ⟨((hraised.stays (h3 ▸ hbefore 66)).stays (alarmLog_stays (by decide) ..)).stays (hafter 66 (by decide) _),
    (((hstays 67 (by decide)).trans (h3 ▸ hbefore 67)).raised (alarmLog_raised ..)).stays (hafter 67 (by decide) _), by rw [hat]; exact hin,
    by rw [hat]; exact hpower, ?_⟩
  have hmap : KeyKept (dkey 0x1100 3) s (alarmLog s6 67 core c) :=
    hkept.trans (h3 ▸ (h5.2.trans (.trans (.of_only h6 (by decide)) (alarmLog_keyKept (by decide) (by decide) ..))))
  have hlast := inventoryChange_keyKept (k := dkey 0x1100 3) (by decide) (coreOut (alarmLog s6 67 core c) core) core
  rw [hlast.dnum, hnum, hmap.dnum]

/-! ## Watchdogs (R435, R439) -/

/-- A core that is out of service stays out of it. -/
theorem zeroingDone_inService (s : State) (core k : Nat) : (coreAt (zeroingDone s core) k).inService = (coreAt s k).inService := by
  unfold zeroingDone
  extract_lets x s1 s2
  have h1 : (coreAt s1 k).inService = (coreAt s k).inService := by
    refine (updCore_inService _ core ?_ k).trans rfl
    exact fun _ => rfl
  have h2 : (coreAt s2 k).inService = (coreAt s k).inService := by
    refine (updCore_inService s1 core ?_ k).trans h1
    exact fun _ => rfl
  split
  · rfl
  · split
    · exact h2
    · split
      · exact h2
      · split
        · exact h2
        · exact h2

theorem coreOut_stays (s : State) (core : Nat) {k : Nat} (h : (coreAt s k).inService = false) : (coreAt (coreOut s core) k).inService = false := by
  by_cases hk : k = core
  · exact hk ▸ (coreOut_law s core).1
  · unfold coreOut
    extract_lets s1
    rw [((dset_only ..).trans (inventoryCores_only _)).coreAt (by decide), coreAt_updCore_other _ _ _ _ hk, h]

/-- A core of a cluster that leaves service. -/
def coreLeaves (c : Nat) (s : State) (k : Nat) : State :=
  coreOut (if (coreAt s (4 * c + k)).zeroing then zeroingDone s (4 * c + k) else s) (4 * c + k)

theorem coreLeaves_only (c : Nat) (s : State) (k : Nat) : Only [.dict, .cores, .jobs, .bufs] s (coreLeaves c s k) :=
  .mono (by rfl) (Only.trans (.ite (zeroingDone_only s _) (.self _) : Only [.cores, .jobs, .bufs] s _) (coreOut_only ..))

theorem coreLeaves_stays (c : Nat) (s : State) (j : Nat) {k : Nat} (h : (coreAt s k).inService = false) :
    (coreAt (coreLeaves c s j) k).inService = false := by
  refine coreOut_stays _ _ ?_
  split
  · rw [zeroingDone_inService, h]
  · exact h

theorem foldl_coreLeaves (c : Nat) (l : List Nat) (s : State) {k : Nat} (hk : k ∈ l) :
    (coreAt (l.foldl (coreLeaves c) s) (4 * c + k)).inService = false := by
  induction l generalizing s with
  | nil => cases hk
  | cons j l ih =>
    rcases List.mem_cons.mp hk with rfl | hk
    · exact foldl_keeps (fun t => (coreAt t (4 * c + k)).inService = false) _ (fun t j ht => coreLeaves_stays c t j ht) l _ (coreOut_law ..).1
    · exact ih _ hk

/-- A cluster in service leaves it with its cores. -/
theorem clusterOut_law (h : (clusterAt s c).inService = true) :
    let t := clusterOut s c
    (clusterAt t c).inService = false ∧ Raised s t 7 ∧ ∀ k, k < 4 → (coreAt t (4 * c + k)).inService = false := by
  intro t
  have ht : t = clusterOut s c := rfl
  unfold clusterOut at ht
  rw [if_neg (by rw [h]; decide)] at ht
  extract_lets s1 s2 s3 at ht
  have hs1 : Only [.clusters, .dict] s s1 := .mono (by rfl) ((updCluster_only ..).trans (spareGone_only ..))
  have hout : (clusterAt s1 c).inService = false := by
    unfold s1 spareGone
    rw [(dset_only ..).clusterAt (by decide), clusterAt_updCluster_self, clusterAt_updCluster_self]
  have h2 : AlarmStays 7 s1 s2 ∧ clusterAt s2 c = clusterAt s1 c := by
    refine foldl_keeps (fun t => AlarmStays 7 s1 t ∧ clusterAt t c = clusterAt s1 c) _ (fun t e ht => ?_) _ s1 ⟨.refl s1, rfl⟩
    obtain ⟨halarm, hat⟩ := ht
    split
    · exact ⟨halarm.trans (strikeQueue_stays ..), ((strikeQueue_only ..).clusterAt (by decide) c).trans hat⟩
    · exact ⟨halarm, hat⟩
  obtain ⟨halarm, hat⟩ := h2
  have h3 : Only [.dict, .cores, .jobs, .bufs] s2 s3 := .foldl (fun u k => coreLeaves_only c u k) _ _
  have hlast := inventoryChange_only s3 (4 * c)
  rw [ht]
  refine ⟨?_, ?_, fun k hk => ?_⟩
  · rw [(h3.trans hlast).clusterAt (by decide), hat, hout]
  · exact (((AlarmStays.of_only hs1 (by decide) (by decide)).trans halarm).trans (.of_only h3 (by decide) (by decide))).raised (alarm_raised ..)
  · rw [hlast.coreAt (by decide)]
    exact foldl_coreLeaves c [0, 1, 2, 3] s2 (by simp; omega)

/-- A control complex that a watchdog resets leads no longer. -/
theorem watchdog_control (s : State) (hub : Hub) :
    let t := watchdog s (.control hub)
    leads t hub = false ∧ leads t (otherHub hub) = leads s (otherHub hub)
      ∧ t = { s with lease := t.lease, tel := t.tel, dict := t.dict, fresh := t.fresh } := by
  have hdetect (unit source : Nat) := detectFree_only s unit source
  have hlease (unit source : Nat) : (detectFree s unit source).lease = s.lease := (hdetect unit source).same .lease (by decide)
  cases hub with
  | east =>
    refine ⟨rfl, (congrArg (fun l : Lease => l.leadsWest && l.upWest) (hlease 0 8) :), ?_⟩
    exact (Only.mono (by rfl) ((hdetect 0 8).trans (setLease_only _ _)) : Only [.lease, .tel, .dict, .fresh] _ _).eq_overlay
  | west =>
    refine ⟨rfl, (congrArg (fun l : Lease => l.leadsEast && l.upEast) (hlease 1 9) :), ?_⟩
    exact (Only.mono (by rfl) ((hdetect 1 9).trans (setLease_only _ _)) : Only [.lease, .tel, .dict, .fresh] _ _).eq_overlay

/-- The cluster's commands are fault-killed. -/
def watchdogKilled (s : State) (c : Nat) : State := killOnCores (detectFree s c c) (fun k => k / 4 = c) .fault

theorem watchdogKilled_clusters (s : State) (c : Nat) : (watchdogKilled s c).clusters = s.clusters :=
  ((detectFree_only s c c).trans (killOnCores_only ..)).same .clusters (by decide)

/-- The one queue, where a command of it stands on the cluster. -/
theorem watchdogKilled_settles {q : Nat} {Q : Queue} {d : Cmd} (hqueues : s.queues = [(q, Q)]) (hthrottle : throttledKill s Q = false)
    (hd : d ∈ Q.cmds) (hop : opEngine d.op = true) (hcore : d.core / 4 = c) (hstate : d.state ≠ .fetched) (hlive : d.failed = false) :
    Settled s.now (watchdogKilled s c) q := by
  have hdetect := detectFree_only s c c
  have hkill : watchdogKilled s c = killQueue (detectFree s c c) q .fault := by
    unfold watchdogKilled killOnCores
    rw [hdetect.same .queues (by decide), hqueues, List.foldl_cons, List.foldl_nil]
    refine if_pos (List.any_eq_true.mpr ⟨d, hd, ?_⟩)
    simp [hop, hcore, hstate, hlive]
  rw [hkill, ← hdetect.same .now (by decide)]
  refine killQueue_settles .fault ((hdetect.queueAt (by decide) q).trans ?_) ((throttledKill_of_only hdetect (by decide) (by decide) Q).trans hthrottle)
  show FMap.get? s.queues q = some Q
  rw [hqueues]
  exact if_pos rfl

/-- The commands that the cluster's reset counts. -/
def watchdogCount (s : State) (c : Nat) : Nat :=
  (s.queues.filter fun e => e.2.cmds.any fun d => opEngine d.op && d.core / 4 = c && d.state ≠ .fetched && !d.failed).length

theorem watchdog_works (s : State) (c : Nat) :
    watchdog s (.cluster c true) = bump (watchdogKilled s c) (0xB100 + c) 6 (watchdogCount s c) := by
  unfold watchdog
  exact if_pos rfl

/-- The reset of a cluster's controller is noted. -/
def resetNoted (s : State) (c : Nat) : State :=
  updCluster (bump (watchdogKilled s c) (0xB100 + c) 6 (watchdogCount s c)) c fun cl => 
    { cl with controllerResets := (s.now :: (clusterAt s c).controllerResets).take 2 }

theorem clusterAt_resetNoted (s : State) (c : Nat) :
    clusterAt (resetNoted s c) c = { clusterAt s c with controllerResets := (s.now :: (clusterAt s c).controllerResets).take 2 } := by
  have hat : clusterAt (watchdogKilled s c) c = clusterAt s c := by
    unfold clusterAt
    rw [watchdogKilled_clusters]
  unfold resetNoted
  rw [clusterAt_updCluster_self, (bump_only ..).clusterAt (by decide), hat]

theorem resetNoted_stays (s : State) (c : Nat) {k : Nat} : AlarmStays k s (resetNoted s c) :=
  (detectFree_stays k s c c).trans ((killOnCores_stays ..).trans (.of_only ((bump_only ..).trans (updCluster_only ..)) (by decide) (by decide)))

/-- The second failed reset in 1 s takes the cluster out of service. -/
theorem watchdog_fails (s : State) (c : Nat) :
    let again := ∃ b rest, (clusterAt s c).controllerResets = b :: rest ∧ s.now - b ≤ 10 ^ 9
    (again → watchdog s (.cluster c false) = clusterOut (resetNoted s c) c) ∧ (¬again → watchdog s (.cluster c false) = resetNoted s c) := by
  intro again
  have hnow : (bump (watchdogKilled s c) (0xB100 + c) 6 (watchdogCount s c)).now = s.now :=
    ((detectFree_only s c c).trans ((killOnCores_only ..).trans (bump_only ..))).same .now (by decide)
  have hresets : (clusterAt (bump (watchdogKilled s c) (0xB100 + c) 6 (watchdogCount s c)) c).controllerResets = (clusterAt s c).controllerResets := by
    rw [(bump_only ..).clusterAt (by decide)]
    unfold clusterAt
    rw [watchdogKilled_clusters]
  have hrun : watchdog s (.cluster c false) = if ((s.now :: (clusterAt s c).controllerResets).take 2).length = 2
      && s.now - ((s.now :: (clusterAt s c).controllerResets).take 2).getD 1 0 ≤ 10 ^ 9 then clusterOut (resetNoted s c) c else resetNoted s c := by
    unfold watchdog
    dsimp -zeta only
    extract_lets n v l w
    have hv : v = bump (watchdogKilled s c) (0xB100 + c) 6 (watchdogCount s c) := rfl
    have hl : l = (s.now :: (clusterAt s c).controllerResets).take 2 := by
      unfold l
      rw [hv, hnow, hresets]
    have hw : w = resetNoted s c := by
      unfold w resetNoted
      rw [hl, hv]
    have hwnow : w.now = s.now := hnow
    rw [if_neg (by decide), hl, hwnow, hw]
  have hagain : again ↔ 1 ≤ (clusterAt s c).controllerResets.length ∧ s.now - (clusterAt s c).controllerResets.getD 0 0 ≤ 10 ^ 9 := by
    unfold again
    cases (clusterAt s c).controllerResets with
    | nil => simp
    | cons b rest => simp
  rw [hagain, ← recent_iff, hrun]
  exact ⟨fun h => if_pos h, fun h => if_neg h⟩

/-! ## A core declared dead by a write -/

theorem writeEffect_declareDead (s : State) (role : Role) (v : DVal) (hc : c < 8) :
    writeEffect s role (0xB100 + c) 7 v = (declareDead s (4 * c + v.toNat), false) := by
  unfold writeEffect
  extract_lets n
  have hindex : 4 * (0xB100 + c - 0xB100) + n = 4 * c + n := by omega
  rw [if_neg (by omega), if_neg (by omega), if_neg (by simp only [Bool.and_eq_true, decide_eq_true_eq]; omega), if_neg (by simp only [Bool.and_eq_true, decide_eq_true_eq]; omega), if_neg (by simp only [Bool.and_eq_true, decide_eq_true_eq]; omega), if_neg (by simp only [Bool.and_eq_true, decide_eq_true_eq]; omega),
    if_neg (by simp only [Bool.and_eq_true, decide_eq_true_eq]; omega), if_neg (by simp only [Bool.and_eq_true, decide_eq_true_eq]; omega), if_neg (by omega), if_neg (by simp only [Bool.and_eq_true, decide_eq_true_eq]; omega), if_neg (by simp only [Bool.and_eq_true, decide_eq_true_eq]; omega), if_neg (by simp only [Bool.and_eq_true, decide_eq_true_eq]; omega),
    if_neg (by omega), if_pos (by simp only [Bool.and_eq_true, decide_eq_true_eq]; omega), hindex]

theorem declareDead_written (hc : c < 8) (haccepted : Accepted s role (0xB100 + c) 7 (.num k)) (hroom : AuditRoom s) :
    ∃ u, Audited s u role (0xB100 + c) 7 ∧ writeEntry s role none (0xB100 + c) 7 (.num k) none = declareDead u (4 * c + k) := by
  obtain ⟨u, haudited, hrun⟩ := applyWrite_audits (v := .num k) (role := role) (index := 0xB100 + c) (sub := 7) none hroom
    (auditExempt_other (by omega)) (auditLater_other (by omega) (by omega)) (by omega) (by omega)
  refine ⟨u, haudited, (writeEntry_of_accepted s role _ _ _ none haccepted).trans (hrun.trans ?_)⟩
  rw [withoutReserved_num (by omega) (by omega), writeEffect_declareDead u role _ hc]
  rfl

theorem Audited.raised {u : State} {index sub slot : Nat} (h : Audited s u role index sub) (hraised : Raised u t slot) : Raised s t slot :=
  (AlarmStays.of_only h.only (by decide) (by decide)).raised hraised

end DeadCores

/-- Settles O55: corrected errors and scrub, uncorrectable errors of cores and of lower tiers, poisoned words, dead cores, watchdogs. -/
theorem errors : Obligations.Errors := by
  refine ⟨fun s u => ⟨⟨_, rfl, ?_⟩, fun rows seconds => ⟨_, rfl, ?_⟩⟩, fun s core part index off => ⟨⟨_, rfl, ?_⟩, fun b hb htier hcore hoff => ⟨_, rfl, ?_⟩,
      fun q Q word hQ => ⟨fun hstruck => ⟨_, rfl, uncorrectable_unstruck word hQ hstruck⟩,
        fun hstruck hthrottle hfew => ⟨_, rfl, uncorrectable_kills word hQ hstruck hthrottle hfew⟩⟩⟩,
    fun s u read word => ⟨_, rfl, fun hcore => uncorrectableLower_law s read word hcore⟩, fun s u part index => ?_,
    fun s q Q c w b hmove hc hmet hb => ⟨fun htier hfew => ?_, fun htier hQ hstruck hthrottle hfew => ?_⟩, fun s₀ c k role hk => ?_,
    fun s => ⟨fun hub => ⟨_, rfl, watchdog_control s hub⟩, fun c => ?_⟩⟩
  · obtain ⟨hcounted, hmany, hfew⟩ := corrected_law s u
    exact ⟨hcounted, (Only.mono (by rfl) (corrected_only s u) : Only [.rel, .dict, .tel, .pins, .fresh] s _).eq_overlay, hmany, hfew⟩
  · exact ⟨(Only.mono (by rfl) (scrub_only s u rows seconds) : Only [.rel, .dict, .tel, .pins, .fresh] s _).eq_overlay, scrub_law s u rows seconds⟩
  · obtain ⟨hcounted, hraised, honly⟩ := coreError_law s core
    exact ⟨hcounted, hraised, honly.same .queues (by decide), honly.same .rel (by decide)⟩
  · obtain ⟨-, hraised, honly⟩ := coreError_law s core
    have hword : uncorrectable s core none (some (part, index, off))
        = poisonWord (alarmLog (bump s (0xB100 + core / 4) 5 1) 65 core (core / 4)) (some (part, index, off)) fun b => b.tier = 0 && b.core = core := rfl
    rw [hword]
    refine ⟨poisonWord_poisons (b := b) ?_ (by rw [htier, hcore]; simp) hoff, hraised.stays (.of_only (poisonWord_only ..) (by decide) (by decide))⟩
    exact (congrArg (FMap.get? · _) (honly.same .bufs (by decide))).trans hb
  · intro key T few
    have hlast (read : LowerRead) (hfew : few) : Only [.dict, .fresh, .tel, .pins, .rel] (lowerRead s read) (uncorrectableLower s read u none) :=
      channelError_few (lowerRead s read) u (by rw [(lowerRead_errorsKept s read).errors]; exact hfew)
    refine ⟨fun q Q c hQ hfind hc => ⟨_, rfl, fun hfew => ?_⟩, fun hwaiters hstate hcopying => ⟨_, rfl, fun hfew => ?_⟩,
      fun hwaiters hstate hcopying out => ⟨_, rfl, fun hfew => ?_⟩⟩
    · exact (lowerRead_fails hQ hfind hc).of_only (hlast _ hfew) (by decide)
    · obtain ⟨habsent, hbufs⟩ := lowerRead_promote hwaiters hstate hcopying
      have hat := tieredAt_of_only (hlast (.promote part index) hfew) (by decide) key
      exact ⟨(congrArg Tiered.state hat).trans habsent, ((hlast _ hfew).same .bufs (by decide)).trans hbufs⟩
    · obtain ⟨hresident, hdirty, hcopy, hbufs⟩ := lowerRead_writeBack (out := out) hwaiters hstate hcopying
      have hat := tieredAt_of_only (hlast (.writeBack part index out) hfew) (by decide) key
      exact ⟨(congrArg Tiered.state hat).trans hresident, (congrArg Tiered.dirty hat).trans hdirty, (congrArg Tiered.copy hat).trans hcopy,
        ((hlast _ hfew).same .bufs (by decide)).trans hbufs⟩
  · exact runs_poisoned hmove hmet (meetPoison_lower (moveCmd_some hmove) hc hb htier hfew)
  · refine runs_poisoned hmove hmet ?_
    have hmeet : meetPoison s q c.uid w = uncorrectable s b.core (some q) none := by
      unfold meetPoison
      rw [hb]
      exact if_pos htier
    rw [hmeet]
    exact uncorrectable_kills none hQ hstruck hthrottle hfew
  · have hdiv : (4 * c + k) / 4 = c := by omega
    have hmod : (4 * c + k) % 4 = k := by omega
    intro spared gone
    have hspared (s : State) (p : Nat) (hin : (coreAt s (4 * c + k)).inService = true) (hspare : (clusterAt s c).spare = some p) :
        spared s p (declareDead s (4 * c + k)) := by
      have h := declareDead_spared (core := 4 * c + k) (p := p) hin (by rw [hdiv]; exact hspare)
      rwa [hdiv, hmod] at h
    have hgone (s : State) (hin : (coreAt s (4 * c + k)).inService = true) (hspare : (clusterAt s c).spare = none) :
        gone s (declareDead s (4 * c + k)) := declareDead_gone (core := 4 * c + k) hin (by rw [hdiv]; exact hspare)
    refine ⟨fun s _ => ⟨fun hout => ⟨_, rfl, declareDead_out hout⟩, fun hin => ⟨fun p hspare => ⟨_, rfl, hspared s p hin hspare⟩,
      fun hspare => ⟨_, rfl, hgone s hin hspare⟩⟩⟩, fun s hs hc haccepted hroom => ?_⟩
    have hrun : exec (.declareDead role c k) s₀ = .next (writeEntry s role none (0xB100 + c) 7 (.num k) none) := by
      rw [hs]
      exact congrArg Host.Outcome.next (if_pos hc)
    obtain ⟨u, haudited, hwrite⟩ := declareDead_written hc haccepted hroom
    rw [hwrite] at hrun
    have hcore : coreAt u (4 * c + k) = coreAt s (4 * c + k) := haudited.only.coreAt (by decide) _
    have hcluster : clusterAt u c = clusterAt s c := haudited.only.clusterAt (by decide) _
    refine ⟨fun hout => ⟨_, hrun, ?_⟩, fun hin => ⟨fun p hspare => ⟨_, hrun, ?_⟩, fun hspare => ⟨_, hrun, ?_⟩⟩⟩
    · rw [declareDead_out (by rw [hcore]; exact hout)]
      exact ⟨haudited.recorded, haudited.only.eq_overlay⟩
    · obtain ⟨hraised, hrest⟩ := hspared u p (by rw [hcore]; exact hin) (by rw [hcluster]; exact hspare)
      rw [hcluster] at hrest
      exact ⟨haudited.raised hraised, hrest⟩
    · obtain ⟨h66, h67, hin', hpower, hmap⟩ := hgone u (by rw [hcore]; exact hin) (by rw [hcluster]; exact hspare)
      rw [(haudited.kept (dkey 0x1100 3) (by decide)).dnum] at hmap
      exact ⟨haudited.raised h66, haudited.raised h67, hin', hpower, hmap⟩
  · intro again
    obtain ⟨hagain, honce⟩ := watchdog_fails s c
    refine ⟨⟨_, rfl, ?_⟩, fun hno => ⟨_, rfl, ?_⟩, fun hyes hin => ⟨_, rfl, ?_⟩⟩
    · rw [watchdog_works]
      refine ⟨((bump_only ..).same .clusters (by decide)).trans (watchdogKilled_clusters s c), fun q Q d hqueues hthrottle hd hop hcore hstate hlive => ?_⟩
      obtain ⟨Q', hQ', -, hsettled⟩ := watchdogKilled_settles hqueues hthrottle hd hop hcore hstate hlive
      exact ⟨Q', hQ', hsettled⟩
    · rw [honce hno]
      exact clusterAt_resetNoted s c
    · rw [hagain hyes]
      have hcl := clusterAt_resetNoted s c
      obtain ⟨hout, hraised, hcores⟩ := clusterOut_law (s := resetNoted s c) (c := c) (by rw [hcl]; exact hin)
      exact ⟨hout, (resetNoted_stays s c).raised hraised, hcores⟩

end Sys2Proof.Machine

/-! PROOFS. What resets and the writes behind them leave of the host interface's answers; writes in progress. -/

namespace Sys2Proof.Machine

section Answers

variable {s t u : State} {fn k index : Nat}

/-- The count of discarded completions and the completions handed to members are the same. -/
def AnswersKept (s t : State) : Prop := t.host.discarded = s.host.discarded ∧ t.host.proxyOut = s.host.proxyOut

namespace AnswersKept

theorem of_host (h : t.host = s.host) : AnswersKept s t := ⟨by rw [h], by rw [h]⟩

theorem refl (s : State) : AnswersKept s s := of_host rfl

theorem of_only {F : List StateField} (h : Only F s t) (hF : .host ∉ F) : AnswersKept s t := of_host (h.same .host hF)

theorem of_reads (h : ReadsOnly s t) : AnswersKept s t := by
  have hrest := h.rest
  exact ⟨by rw [hrest], by rw [hrest]⟩

theorem trans (h : AnswersKept s t) (g : AnswersKept t u) : AnswersKept s u := ⟨g.1.trans h.1, g.2.trans h.2⟩

theorem ite {c : Prop} [Decidable c] (h : AnswersKept s t) (g : AnswersKept s u) : AnswersKept s (if c then t else u) := by
  split <;> assumption

theorem foldl {α : Type} {f : State → α → State} (h : ∀ s a, AnswersKept s (f s a)) (l : List α) (s : State) : AnswersKept s (l.foldl f s) := by
  induction l generalizing s with
  | nil => exact .refl s
  | cons a l ih => exact (h s a).trans (ih _)

end AnswersKept

theorem finishReset_answersKept (s : State) (fn : Nat) : AnswersKept s (finishReset s fn) := by
  have h := finishReset_host s fn
  exact ⟨by rw [h], by rw [h]⟩

theorem beginReset_answersKept (s : State) (fn : Nat) : AnswersKept s (beginReset s fn) := by
  have hbegun : AnswersKept s (resetBegun s fn) := .of_reads (resetBegun_readsOnly s fn)
  cases h : inReset s fn with
  | true =>
    rw [beginReset_of_inReset h]
    exact .refl s
  | false =>
    rw [beginReset_eq h]
    exact .ite (hbegun.trans ⟨rfl, rfl⟩) ((hbegun.trans ⟨rfl, rfl⟩).trans (finishReset_answersKept (readsSquashed (resetBegun s fn) fn) fn))

theorem pfTurn_answersKept (s : State) : AnswersKept s (pfTurn s) := by
  unfold pfTurn
  exact .ite (.trans ⟨rfl, rfl⟩ (beginReset_answersKept ..)) (.refl s)

theorem resetAll_answersKept (s : State) : AnswersKept s (resetAll s) := by
  unfold resetAll
  extract_lets vfs s1
  clear_value vfs
  have h1 : AnswersKept s s1 := .trans (.of_host rfl) (.foldl (fun t i => beginReset_answersKept t (i + 1)) vfs (dset s (fnIndex 0) 6 2))
  exact .ite (.refl s) ((h1.trans ⟨rfl, rfl⟩).trans (pfTurn_answersKept _))

theorem drainCheck_answersKept (s : State) : AnswersKept s (drainCheck s) := by
  unfold drainCheck
  exact .trans (.foldl (fun t fn => .ite (.refl t) (finishReset_answersKept t fn)) _ s) (pfTurn_answersKept _)

/-! ## Writes that waited for a reset -/

/-- The entries by which a reset is asked for (Table 12.6). -/
def ResetEntry (index : Nat) : Prop := index = 0x4020 ∨ (0x4100 ≤ index ∧ index < 0x4500)

theorem resetWrite_answersKept (hindex : ResetEntry index) (s : State) (role : Role) (v : DVal) (reply : Option Reply) :
    AnswersKept s (applyWrite s role index 6 v reply) := by
  unfold applyWrite
  extract_lets v' s1
  have h1 : AnswersKept s s1 := .ite (.refl s) (.of_only (auditWrite_only ..) (by decide))
  have heffect : writeEffect s1 role index 6 v' = partitionEffect s1 index 6 v' := by
    unfold ResetEntry at hindex
    exact writeEffect_partition (index := index) _ _ _ _ (by omega) (by omega)
  have hreset : ∃ fn, partitionEffect s1 index 6 v' = resetEffect s1 fn := by
    unfold partitionEffect
    dsimp only
    rcases hindex with rfl | ⟨hlow, hhigh⟩
    · exact ⟨0, rfl⟩
    · exact ⟨index - 0x40FF, by rw [if_neg (by omega), if_neg (by omega), if_pos hhigh, if_neg (by decide), if_pos rfl]⟩
  obtain ⟨fn, hfn⟩ := hreset
  rw [heffect, hfn]
  have h2 : AnswersKept s (resetEffect s1 fn).1 := by
    unfold resetEffect
    exact h1.trans (.ite (resetAll_answersKept s1) (beginReset_answersKept s1 fn))
  generalize resetEffect s1 fn = r at h2
  obtain ⟨s2, waits⟩ := r
  exact .ite (h2.trans ⟨rfl, rfl⟩) (h2.trans (.of_only (replyWrite_only ..) (by decide)))

theorem writeEntry_answersKept (hindex : ResetEntry index) (s : State) (role : Role) (who : Option Nat) (v : DVal) (reply : Option Reply) :
    AnswersKept s (writeEntry s role who index 6 v reply) := by
  unfold writeEntry
  extract_lets key st
  exact .ite (.refl s) (.ite ⟨rfl, rfl⟩ (.ite ((AnswersKept.of_only (drawn_only s 1) (by decide)).trans (.of_only (replyWrite_only ..) (by decide)))
    (resetWrite_answersKept hindex ..)))

theorem runHeld_answersKept (hindex : ResetEntry (k / 256)) (hsub : k % 256 = 6) (fuel : Nat) (s : State) : AnswersKept s (runHeld fuel s k) := by
  induction fuel generalizing s with
  | zero => exact .refl s
  | succ n ih =>
    unfold runHeld
    split
    · exact .refl s
    · split
      · exact .refl s
      · rw [hsub]
        refine .trans (.trans ?_ (writeEntry_answersKept hindex ..)) (ih _)
        exact ⟨rfl, rfl⟩

theorem writeDone_answersKept (hindex : ResetEntry (k / 256)) (hsub : k % 256 = 6) (s : State) (st : Status) : AnswersKept s (writeDone s k st) := by
  unfold writeDone
  split
  · exact .refl s
  · refine .trans (.trans ?_ (.of_only (replyWrite_only ..) (by decide))) (runHeld_answersKept hindex hsub _ _)
    exact ⟨rfl, rfl⟩

theorem settleResets_answersKept (s : State) : AnswersKept s (settleResets s) := by
  unfold settleResets
  extract_lets waiting
  have hwaiting : ∀ k ∈ waiting, ResetEntry (k / 256) ∧ k % 256 = 6 := by
    intro k hk
    have hcond := (List.mem_filter.mp hk).2
    simp only [Bool.or_eq_true, Bool.and_eq_true, decide_eq_true_eq] at hcond
    unfold ResetEntry
    omega
  generalize waiting = l at hwaiting
  have hfold (l : List Nat) (hl : ∀ k ∈ l, ResetEntry (k / 256) ∧ k % 256 = 6) (t : State) (ht : AnswersKept s t) : AnswersKept s
      (l.foldl (fun s k => let fn := if k = 0x402006 then 0 else k / 256 - 0x40FF; if !inReset s fn then writeDone s k 0 else s) t) := by
    induction l generalizing t with
    | nil => exact ht
    | cons k l ih =>
      obtain ⟨hindex, hsub⟩ := hl k List.mem_cons_self
      exact ih (fun x hx => hl x (List.mem_cons_of_mem _ hx)) _ (ht.trans (.ite (writeDone_answersKept hindex hsub t 0) (.refl t)))
  exact hfold l hwaiting s (.refl s)

/-- What follows on reads drops and hands over no completion. -/
theorem afterReads_answersKept (s : State) : AnswersKept s (afterReads s) :=
  (drainCheck_answersKept s).trans (settleResets_answersKept _)

/-- No reset is in progress, and no write waits for one. -/
def Quiet (s : State) : Prop := s.host.resetting = [] ∧ s.host.pfReset = false ∧ s.tel.busy = []

theorem drainCheck_quiet (h : Quiet s) : drainCheck s = s := by
  obtain ⟨hresetting, hpf, -⟩ := h
  unfold drainCheck
  rw [hresetting]
  exact pfTurn_waits (.inl hpf)

theorem afterReads_quiet (h : Quiet s) : afterReads s = s := by
  obtain ⟨-, -, hbusy⟩ := id h
  unfold afterReads
  rw [drainCheck_quiet h]
  exact settleResets_idle hbusy

/-- Resets and the writes in progress stand as they stood. -/
structure QuietKept (s t : State) : Prop where
  resetting : t.host.resetting = s.host.resetting
  pfReset : t.host.pfReset = s.host.pfReset
  busy : t.tel.busy = s.tel.busy

theorem Quiet.later (h : Quiet s) (g : QuietKept s t) : Quiet t := by
  obtain ⟨hresetting, hpf, hbusy⟩ := h
  exact ⟨g.resetting.trans hresetting, g.pfReset.trans hpf, g.busy.trans hbusy⟩

namespace QuietKept

theorem refl (s : State) : QuietKept s s := ⟨rfl, rfl, rfl⟩

theorem trans (h : QuietKept s t) (g : QuietKept t u) : QuietKept s u :=
  ⟨g.resetting.trans h.resetting, g.pfReset.trans h.pfReset, g.busy.trans h.busy⟩

theorem of_only {F : List StateField} (h : Only F s t) (hhost : .host ∉ F) (htel : .tel ∉ F) : QuietKept s t := by
  have hh := h.same .host hhost
  exact ⟨congrArg HostIf.resetting hh, congrArg HostIf.pfReset hh, congrArg Telemetry.busy (h.same .tel htel)⟩

theorem ite {c : Prop} [Decidable c] (h : QuietKept s t) (g : QuietKept s u) : QuietKept s (if c then t else u) := by
  split <;> assumption

theorem foldl {α : Type} {f : State → α → State} (h : ∀ s a, QuietKept s (f s a)) (l : List α) (s : State) : QuietKept s (l.foldl f s) := by
  induction l generalizing s with
  | nil => exact .refl s
  | cons a l ih => exact (h s a).trans (ih _)

end QuietKept

/-! ## Alarms, the journal, traces and failures leave the writes in progress -/

theorem alarm_quietKept (s : State) (slot detail : Nat) : QuietKept s (alarm s slot detail) := by
  unfold alarm
  extract_lets r t entering r' s1
  exact .ite ⟨rfl, rfl, rfl⟩ ⟨rfl, rfl, rfl⟩

theorem journalDrain_quietKept (fuel : Nat) (s : State) : QuietKept s (journalDrain s fuel) := by
  induction fuel generalizing s with
  | zero => exact .refl s
  | succ n ih =>
    unfold journalDrain
    split
    · exact .refl s
    · refine .ite (.trans ?_ (ih _)) (.refl s)
      exact ⟨rfl, rfl, rfl⟩

theorem journalGap_quietKept (s : State) : QuietKept s (journalGap s) := by
  unfold journalGap
  extract_lets gap lost src s1 s2
  have h2 : QuietKept s s2 := ⟨rfl, rfl, rfl⟩
  exact .ite (.refl s) (h2.trans ((alarm_quietKept ..).trans (journalDrain_quietKept ..)))

theorem journal_quietKept (s : State) (kind module source value addr : Nat) (carried : List Byte) :
    QuietKept s (journal s kind module source value addr carried) := by
  unfold journal journalPut
  extract_lets s1
  have h1 : QuietKept s s1 := (journalDrain_quietKept ..).trans (journalGap_quietKept _)
  exact .ite (.ite (h1.trans ⟨rfl, rfl, rfl⟩) (.ite (h1.trans ⟨rfl, rfl, rfl⟩) (h1.trans ⟨rfl, rfl, rfl⟩))) (.refl s)

theorem traceDrain_quietKept (fuel : Nat) (s : State) : QuietKept s (traceDrain s fuel) := by
  induction fuel generalizing s with
  | zero => exact .refl s
  | succ n ih =>
    unfold traceDrain
    split
    · exact .refl s
    · refine .ite (.refl s) (.trans ?_ (ih _))
      exact ⟨rfl, rfl, rfl⟩

theorem trace_quietKept (s : State) (kind source queue arg0 arg1 arg2 : Nat) : QuietKept s (trace s kind source queue arg0 arg1 arg2) := by
  unfold trace
  extract_lets r src gap s'
  refine .ite (.refl s) (.ite ⟨rfl, rfl, rfl⟩ (.ite ⟨rfl, rfl, rfl⟩ (.ite (.trans ?_ (traceDrain_quietKept ..)) ⟨rfl, rfl, rfl⟩)))
  exact ⟨rfl, rfl, rfl⟩

theorem endStall_quietKept (s : State) (q fn : Nat) (c : Cmd) : QuietKept s (endStall s q fn c) := by
  unfold endStall
  extract_lets cls cause beats s1 s2
  have h2 : QuietKept s s2 := .trans (.of_only (stall_only s _ _ _) (by decide) (by decide)) (trace_quietKept ..)
  exact .ite (.refl s) (.ite (h2.trans (.of_only (missRecord_only ..) (by decide) (by decide))) h2)

theorem putCompletion_quietKept (s : State) (q : Nat) (c : Cmd) (st : Status) : QuietKept s (putCompletion s q c st) := by
  unfold putCompletion
  split
  · exact .refl s
  · extract_lets addr bs s1 s2
    have h1 : QuietKept s s1 :=
      .ite (.of_only (hbmWrite_only ..) (by decide) (by decide)) (.of_only (hostWrite_only ..) (by decide) (by decide))
    have h2 : QuietKept s s2 := h1.trans (.of_only (updQueue_only ..) (by decide) (by decide))
    exact .ite (h2.trans ⟨rfl, rfl, rfl⟩) h2

theorem failCmd_quietKept (s : State) (q uid : Nat) (st : Status) (stops : Bool) : QuietKept s (failCmd s q uid st stops) := by
  unfold failCmd
  split
  · exact .refl s
  · next c _ =>
    extract_lets s1 s2 s3 s4 s5
    have h1 : QuietKept s s1 := .trans
      (.of_only ((leaveEngines_only s q uid).trans ((discardArray_only _ q c).trans (withdraw_only _ q uid))) (by decide) (by decide))
      (endStall_quietKept ..)
    have h2 : QuietKept s s2 := .ite (h1.trans (.of_only (countIssued_only ..) (by decide) (by decide))) h1
    have h4 : QuietKept s s4 := (h2.trans (.of_only (updCmd_only ..) (by decide) (by decide))).trans (putCompletion_quietKept ..)
    have h5 : QuietKept s s5 := .ite (h4.trans (.of_only (offence_only ..) (by decide) (by decide))) h4
    exact .trans (.ite (h5.trans (.of_only (stopQueue_only ..) (by decide) (by decide))) h5)
      (.of_only (releaseHeld_only _) (by decide) (by decide))

theorem failIncoming_quietKept (s : State) (part : Nat) (st : Status) : QuietKept s (failIncoming s part st) := by
  unfold failIncoming
  refine .foldl (fun t e => ?_) _ _
  split
  · exact .refl t
  · split
    · exact .refl t
    · exact failCmd_quietKept ..

theorem baseFail_quietKept (s : State) (part : Nat) (b : BaseJob) (st : Status) : QuietKept s (baseFail s part b st) := by
  unfold baseFail
  extract_lets s1 s2 s3
  have h1 : QuietKept s s1 := .of_only (updPart_only ..) (by decide) (by decide)
  have h3 : QuietKept s s3 := h1.trans (.of_only ((breakBase_only ..).trans ((noBase_only ..).trans (updPart_only ..))) (by decide) (by decide))
  refine .ite (h1.trans (.of_only (answerBase_only ..) (by decide) (by decide))) (.ite ?_ ?_)
  · exact (h3.trans (failIncoming_quietKept ..)).trans (.of_only ((bumpBaseGen_only ..).trans (answerBase_only ..)) (by decide) (by decide))
  · exact h1.trans (.of_only ((chargeBase_only ..).trans ((noBase_only ..).trans (answerBase_only ..))) (by decide) (by decide))

end Answers

end Sys2Proof.Machine

/-! PROOFS. O54: packets of remote MOVEs, their commit, and the host proxy. -/

namespace Sys2Proof.Machine

section RemotePackets

variable {s t : State} {job source cmd : Nat} {p : RemotePkt} {add : Bool} {J : Job} {ver : Nat}

/-! ## Trunks -/

/-- The state with other trunks. -/
def withTrunks (s : State) (trunks : FMap Trunk) : State := { s with win := { s.win with trunks } }

theorem sendFlits_trunks (s : State) (cls type dest bytes deadline : Nat) : ∃ tr, sendFlits s cls type dest bytes deadline = withTrunks s tr :=
  ⟨_, sendFlits_eq ..⟩

theorem takeFlits_trunks (s : State) (src bytes : Nat) : ∃ tr, takeFlits s src bytes = withTrunks s tr := ⟨_, takeFlits_eq ..⟩

theorem arriveFrom_trunks (s : State) (job source bytes : Nat) : ∃ tr, arriveFrom s job source bytes = withTrunks s tr := by
  unfold arriveFrom
  split
  · exact ⟨s.win.trunks, rfl⟩
  · exact takeFlits_trunks ..

theorem dropFenced_law (hJ : jobAt s job = some J) :
    let t := dropFenced s job source
    t = { s with dict := t.dict, win := { s.win with trunks := t.win.trunks, noticed := s.win.noticed ++ [jobModule s J source] } }
      ∧ Counted s t 0xA030 1 1 := by
  intro t
  have ht : t = dropFenced s job source := rfl
  unfold dropFenced at ht
  rw [hJ] at ht
  dsimp only at ht
  obtain ⟨tr, htr⟩ := sendFlits_trunks { bump s 0xA030 1 1 with win := { s.win with noticed := s.win.noticed ++ [jobModule s J source] } } 2 7
    (jobModule s J source) 32 0
  rw [ht, htr]
  exact ⟨rfl, counted_bump s 0xA030 1 1⟩

/-! ## Packets (R331 to R333, R340) -/

theorem remotePacket_fenced (h : fencedSource s p.job p.source = true) : remotePacket s p add = dropFenced s p.job p.source := if_pos h

theorem remotePacket_lost (h : fencedSource s p.job p.source = false) (htarget : remoteTarget s p = none) :
    ∃ tr, remotePacket s p add = withTrunks s tr := by
  obtain ⟨tr, htr⟩ := arriveFrom_trunks s p.job p.source p.data.length
  refine ⟨tr, ?_⟩
  unfold remotePacket
  rw [if_neg (by rw [h]; decide), htr]
  dsimp only
  rw [show remoteTarget (withTrunks s tr) p = none from htarget]

theorem remotePacket_refused (h : fencedSource s p.job p.source = false) (htarget : remoteTarget s p = some (J, ver))
    (hst : remoteRefusal s p J ver add ≠ 0) :
    let t := remotePacket s p add
    t = { s with win := { s.win with
      trunks := t.win.trunks, notices := s.win.notices ++ [(p.job, p.source, p.cmd, remoteRefusal s p J ver add)] } } := by
  obtain ⟨tr, htr⟩ := arriveFrom_trunks s p.job p.source p.data.length
  intro t
  have ht : t = remotePacket s p add := rfl
  unfold remotePacket at ht
  rw [if_neg (by rw [h]; decide), htr] at ht
  dsimp only at ht
  rw [show remoteTarget (withTrunks s tr) p = some (J, ver) from htarget] at ht
  dsimp only at ht
  have hsame : remoteRefusal (withTrunks s tr) p J ver add = remoteRefusal s p J ver add := rfl
  rw [hsame, if_pos hst] at ht
  obtain ⟨tr', htr'⟩ := sendFlits_trunks { withTrunks s tr with win := { (withTrunks s tr).win with
    notices := (withTrunks s tr).win.notices ++ [(p.job, p.source, p.cmd, remoteRefusal s p J ver add)] } } 2 7
    (jobModule (withTrunks s tr) J p.source) 32 0
  rw [ht, htr']
  rfl

/-- What is staged for a command with a packet's own bytes. -/
def packetOwn (s : State) (p : RemotePkt) (add : Bool) (ver : Nat) : RemoteStage :=
  let x := remoteAt s p.job p.source p.cmd
  if add then { x with adds := x.adds ++ [⟨ver, p.offset, p.data⟩] } else { x with writes := x.writes ++ [⟨ver, p.offset, p.data⟩] }

/-- What a packet leaves staged for its command. -/
def stagedBy (s : State) (p : RemotePkt) (add : Bool) (J : Job) (ver : Nat) : RemoteStage :=
  { (if p.last then remoteContribution s J (packetOwn s p add ver) ver else packetOwn s p add ver) with complete := p.last }

/-- A packet staged, and acknowledged where it is the last of its command. -/
def packetStaged (s : State) (p : RemotePkt) (x : RemoteStage) : State :=
  let s := putRemote s x
  if p.last then { s with win := { s.win with acks := s.win.acks ++ [(p.job, p.source, p.cmd)] } } else s

theorem packetStaged_law (s : State) (p : RemotePkt) (x : RemoteStage) :
    let t := packetStaged s p x
    t = { s with win := { s.win with staged := t.win.staged, acks := t.win.acks } } ∧ t.win.staged = (putRemote s x).win.staged
      ∧ t.win.acks = s.win.acks ++ (if p.last then [(p.job, p.source, p.cmd)] else []) := by
  intro t
  have ht : packetStaged s p x = t := rfl
  unfold packetStaged at ht
  extract_lets u at ht
  split at ht
  · next h =>
    rw [← ht, if_pos h]
    exact ⟨rfl, rfl, rfl⟩
  · next h =>
    rw [← ht, if_neg h, List.append_nil]
    exact ⟨rfl, rfl, rfl⟩

theorem remoteContribution_trunks (s : State) (tr : FMap Trunk) (J : Job) (x : RemoteStage) (ver : Nat) :
    remoteContribution (withTrunks s tr) J x ver = remoteContribution s J x ver := by
  have hacc : isAcc (withTrunks s tr) ver = isAcc s ver := rfl
  have hbytes : committed (withTrunks s tr) (verBuf ver) = committed s (verBuf ver) := rfl
  unfold remoteContribution
  rw [hacc, hbytes]

theorem stagedBy_trunks (s : State) (tr : FMap Trunk) (p : RemotePkt) (add : Bool) (J : Job) (ver : Nat) :
    stagedBy (withTrunks s tr) p add J ver = stagedBy s p add J ver := by
  have hown : packetOwn (withTrunks s tr) p add ver = packetOwn s p add ver := rfl
  unfold stagedBy
  rw [remoteContribution_trunks, hown]

theorem remotePacket_staged (h : fencedSource s p.job p.source = false) (htarget : remoteTarget s p = some (J, ver))
    (hst : remoteRefusal s p J ver add = 0) :
    ∃ tr, remotePacket s p add = packetStaged (withTrunks s tr) p (stagedBy s p add J ver) := by
  obtain ⟨tr, htr⟩ := arriveFrom_trunks s p.job p.source p.data.length
  refine ⟨tr, ?_⟩
  have hat : remoteTarget (withTrunks s tr) p = some (J, ver) := htarget
  have hsame : remoteRefusal (withTrunks s tr) p J ver add = 0 := hst
  rw [← stagedBy_trunks s tr]
  unfold remotePacket
  rw [if_neg (by rw [h]; decide), htr]
  generalize withTrunks s tr = u at hat hsame
  extract_lets v
  rw [show remoteTarget v p = some (J, ver) from hat]
  dsimp -zeta only
  extract_lets st
  rw [if_neg (by rw [show st = 0 from hsame]; decide)]
  rfl

theorem remoteAt_key (s : State) (job source cmd : Nat) :
    (remoteAt s job source cmd).job = job ∧ (remoteAt s job source cmd).source = source ∧ (remoteAt s job source cmd).cmd = cmd := by
  unfold remoteAt
  cases hx : s.win.staged.find? fun x => x.job = job && x.source = source && x.cmd = cmd with
  | none => exact ⟨rfl, rfl, rfl⟩
  | some x =>
    have hkey := List.find?_some hx
    simp only [Bool.and_eq_true, decide_eq_true_eq] at hkey
    obtain ⟨⟨hjob, hsource⟩, hcmd⟩ := hkey
    exact ⟨hjob, hsource, hcmd⟩

theorem remoteAt_putRemote (s : State) (x : RemoteStage) : remoteAt (putRemote s x) x.job x.source x.cmd = x := by
  unfold remoteAt putRemote
  dsimp only
  rw [List.find?_append, List.find?_eq_none.mpr (by
    intro y hy
    have hcond := (List.mem_filter.mp hy).2
    simp only [Bool.not_eq_true', Bool.and_eq_false_iff, decide_eq_false_iff_not] at hcond
    simp only [Bool.and_eq_true, decide_eq_true_eq]
    tauto)]
  simp

theorem packetOwn_law (s : State) (p : RemotePkt) (add : Bool) (ver : Nat) :
    let old := remoteAt s p.job p.source p.cmd
    let x := packetOwn s p add ver
    (x.job = p.job ∧ x.source = p.source ∧ x.cmd = p.cmd) ∧ x.adds = old.adds ++ (if add then [⟨ver, p.offset, p.data⟩] else [])
      ∧ x.writes = old.writes ++ (if add then [] else [⟨ver, p.offset, p.data⟩]) ∧ x.nf = old.nf ∧ x.obs = old.obs := by
  intro old x
  have hkey := remoteAt_key s p.job p.source p.cmd
  cases add with
  | true => exact ⟨hkey, rfl, (List.append_nil _).symm, rfl, rfl⟩
  | false => exact ⟨hkey, (List.append_nil _).symm, rfl, rfl, rfl⟩

theorem remoteContribution_none {x : RemoteStage} (h : isAcc s ver = false ∨ x.adds = []) : remoteContribution s J x ver = x := by
  refine if_pos ?_
  rcases h with h | h
  · rw [h, Bool.not_false, Bool.or_true]
  · rw [h]
    rfl

/-- A contribution that completes an add into an accumulator. -/
theorem remoteContribution_finishes {x : RemoteStage} (hacc : isAcc s ver = true) (hadds : x.adds ≠ []) :
    let f := accFinish J J.part ver ((x.adds.filter fun w => w.buf = ver).foldl addInto (committed s (verBuf ver)))
    remoteContribution s J x ver = { x with writes := x.writes ++ f.1, nf := f.2.1, obs := f.2.2 } := by
  unfold remoteContribution
  rw [if_neg (by rw [hacc]; simpa using hadds)]

theorem remoteContribution_same (s : State) (J : Job) (x : RemoteStage) (ver : Nat) :
    let y := remoteContribution s J x ver
    y.job = x.job ∧ y.source = x.source ∧ y.cmd = x.cmd ∧ y.adds = x.adds := by
  unfold remoteContribution
  split
  · exact ⟨rfl, rfl, rfl, rfl⟩
  · exact ⟨rfl, rfl, rfl, rfl⟩

theorem stagedBy_open (h : p.last = false) : stagedBy s p add J ver = { packetOwn s p add ver with complete := false } := by
  unfold stagedBy
  rw [h, if_neg (by decide)]

theorem stagedBy_last (h : p.last = true) : stagedBy s p add J ver = { remoteContribution s J (packetOwn s p add ver) ver with complete := true } := by
  unfold stagedBy
  rw [h, if_pos rfl]

/-- What a packet stages: its own bytes, and behind the last one the end of the contribution (R225, R227). -/
theorem stagedBy_law (s : State) (p : RemotePkt) (add : Bool) (J : Job) (ver : Nat) :
    let old := remoteAt s p.job p.source p.cmd
    let x := stagedBy s p add J ver
    let own := old.writes ++ (if add then [] else [⟨ver, p.offset, p.data⟩])
    (x.job = p.job ∧ x.source = p.source ∧ x.cmd = p.cmd) ∧ x.complete = p.last
      ∧ x.adds = old.adds ++ (if add then [⟨ver, p.offset, p.data⟩] else [])
      ∧ (p.last = false ∨ isAcc s ver = false ∨ x.adds = [] → x.nf = old.nf ∧ x.obs = old.obs ∧ x.writes = own)
      ∧ (p.last = true → isAcc s ver = true → x.adds ≠ [] →
        let f := accFinish J J.part ver ((x.adds.filter fun w => w.buf = ver).foldl addInto (committed s (verBuf ver)))
        x.writes = own ++ f.1 ∧ x.nf = f.2.1 ∧ x.obs = f.2.2) := by
  obtain ⟨⟨hjob, hsource, hcmd⟩, hadds, hwrites, hnf, hobs⟩ := packetOwn_law s p add ver
  intro old x own
  cases hlast : p.last with
  | false =>
    have hx : x = { packetOwn s p add ver with complete := false } := stagedBy_open hlast
    rw [hx]
    exact ⟨⟨hjob, hsource, hcmd⟩, rfl, hadds, fun _ => ⟨hnf, hobs, hwrites⟩, fun h => absurd h (by decide)⟩
  | true =>
    have hx : x = { remoteContribution s J (packetOwn s p add ver) ver with complete := true } := stagedBy_last hlast
    obtain ⟨cjob, csource, ccmd, cadds⟩ := remoteContribution_same s J (packetOwn s p add ver) ver
    rw [hx]
    refine ⟨⟨cjob.trans hjob, csource.trans hsource, ccmd.trans hcmd⟩, rfl, cadds.trans hadds, fun h => ?_, fun _ hacc hne => ?_⟩
    · have hnone : isAcc s ver = false ∨ (packetOwn s p add ver).adds = [] := by
        rcases h with h | h | h
        · cases h
        · exact .inl h
        · exact .inr (cadds.symm.trans h)
      rw [remoteContribution_none hnone]
      exact ⟨hnf, hobs, hwrites⟩
    · have hfinish := remoteContribution_finishes (J := J) hacc (fun h => hne (cadds.trans h))
      dsimp only
      rw [cadds]
      dsimp only at hfinish
      generalize accFinish J J.part ver _ = f at hfinish ⊢
      rw [hfinish]
      exact ⟨congrArg (· ++ f.1) hwrites, rfl, rfl⟩

end RemotePackets

end Sys2Proof.Machine

/-! PROOFS. O54: the commit of what a remote MOVE staged, and the host proxy. -/

namespace Sys2Proof.Machine

section RemoteCommits

variable {s t : State} {job source cmd : Nat} {x : RemoteStage} {w : StageWrite} {b : Buf}

theorem remoteCommit_fenced {discard : Bool} (h : fencedSource s job source = true) : remoteCommit s job source cmd discard = dropFenced s job source :=
  if_pos h

/-- What is staged for the command of another module. -/
def stagedFor (s : State) (job source cmd : Nat) : Option RemoteStage :=
  s.win.staged.find? fun x => x.job = job && x.source = source && x.cmd = cmd

theorem remoteCommit_none {discard : Bool} (h : fencedSource s job source = false) (hfound : stagedFor s job source cmd = none) :
    ∃ tr, remoteCommit s job source cmd discard = withTrunks s tr := by
  obtain ⟨tr, htr⟩ := arriveFrom_trunks s job source 32
  refine ⟨tr, ?_⟩
  unfold remoteCommit
  rw [if_neg (by rw [h]; decide), htr]
  extract_lets u
  rw [show (u.win.staged.find? fun x => x.job = job && x.source = source && x.cmd = cmd) = none from hfound]

/-- The state with what was staged taken out. -/
def stageTaken (s : State) (tr : FMap Trunk) (x : RemoteStage) : State :=
  { s with win := { s.win with trunks := tr, staged := s.win.staged.filter (· ≠ x) } }

/-- The job with the reports, the observations and the accumulators of what was staged. -/
def stageFolded (x : RemoteStage) (accs : List Nat) (J : Job) : Job :=
  { foldObs J x.nf x.obs with accs := (foldObs J x.nf x.obs).accs ++ accs.filter fun a => !(foldObs J x.nf x.obs).accs.contains a }

/-- What was staged takes effect. -/
def stageCommitted (s : State) (job : Nat) (x : RemoteStage) : State :=
  let s := x.writes.foldl storeStaged (x.adds.foldl remoteAdd s)
  updJob s job (stageFolded x ((x.adds.map StageWrite.buf).filter (isAcc s)).eraseDups)

theorem remoteCommit_found {discard : Bool} (h : fencedSource s job source = false) (hfound : stagedFor s job source cmd = some x) :
    ∃ tr, remoteCommit s job source cmd discard
      = if discard || !x.complete then stageTaken s tr x else stageCommitted (stageTaken s tr x) job x := by
  obtain ⟨tr, htr⟩ := arriveFrom_trunks s job source 32
  refine ⟨tr, ?_⟩
  unfold remoteCommit
  rw [if_neg (by rw [h]; decide), htr]
  extract_lets u
  rw [show (u.win.staged.find? fun x => x.job = job && x.source = source && x.cmd = cmd) = some x from hfound]
  rfl

theorem storeStaged_here (hb : FMap.get? s.bufs (verBuf w.buf) = some b) (hver : verKey (verBuf w.buf) b.gen = w.buf) :
    storeStaged s w = storeBuf s (verBuf w.buf) w.off w.data := by
  unfold storeStaged
  extract_lets key
  rw [show FMap.get? s.bufs key = some b from hb]
  exact if_pos hver

/-- Bytes stored in the buffer whose version the write names. -/
structure Stored (s t : State) (key : Nat) (b : Buf) (m : Mem) : Prop where
  self : FMap.get? t.bufs key = some { b with data := m }
  others : ∀ k, k ≠ key → FMap.get? t.bufs k = FMap.get? s.bufs k
  only : Only [.bufs, .tiered, .rel] s t

theorem storeStaged_stored (hb : FMap.get? s.bufs (verBuf w.buf) = some b) (hver : verKey (verBuf w.buf) b.gen = w.buf)
    (htiered : FMap.get? s.tiered (verBuf w.buf) = none) : Stored s (storeStaged s w) (verBuf w.buf) b (b.data.write w.off w.data) := by
  rw [storeStaged_here hb hver]
  exact ⟨storeBuf_home w.off w.data hb htiered, fun k hk => (storeBuf_kept s (verBuf w.buf) w.off w.data hk).get, storeBuf_only ..⟩

theorem remoteAdd_stored (hb : FMap.get? s.bufs (verBuf w.buf) = some b) (hver : verKey (verBuf w.buf) b.gen = w.buf)
    (htiered : FMap.get? s.tiered (verBuf w.buf) = none) :
    Stored s (remoteAdd s w) (verBuf w.buf) b (b.data.write w.off (addElems (b.data.read w.off w.data.length) w.data)) := by
  have hbytes : committed s (verBuf w.buf) = b.data := by
    unfold committed
    rw [htiered, hb]
    rfl
  unfold remoteAdd
  rw [hbytes]
  exact storeStaged_stored (w := { w with data := addElems (b.data.read w.off w.data.length) w.data }) hb hver htiered

theorem Stored.isAcc {key ver : Nat} {m : Mem} (h : Stored s t key b m) (hb : FMap.get? s.bufs key = some b) (hkey : verBuf ver = key) :
    isAcc t ver = isAcc s ver := by
  unfold Machine.isAcc bufOfVer
  rw [hkey, h.self, hb]
  by_cases hver : verKey key b.gen = ver <;> simp [Option.filter, hver]

/-- What was staged has been taken out, and its one write or add stands in its buffer. -/
theorem stageCommitted_stored {u : State} {key : Nat} {m : Mem} {tr : FMap Trunk} (f : Job → Job) (h : Stored (stageTaken s tr x) u key b m) :
    let t := updJob u job f
    (t.win = { s.win with trunks := t.win.trunks, staged := s.win.staged.filter (· ≠ x) } ∧ FMap.get? t.bufs key = some { b with data := m }
      ∧ ∀ k, k ≠ key → FMap.get? t.bufs k = FMap.get? s.bufs k) ∧ jobAt t job = (jobAt s job).map f := by
  intro t
  have hwin : u.win = (stageTaken s tr x).win := h.only.same .win (by decide)
  refine ⟨⟨?_, h.self, h.others⟩, ?_⟩
  · show u.win = { s.win with trunks := u.win.trunks, staged := s.win.staged.filter (· ≠ x) }
    rw [hwin]
    rfl
  · rw [jobAt_updJob, if_pos rfl, h.only.jobAt (by decide)]
    rfl

theorem stageFolded_none (x : RemoteStage) (J : Job) : stageFolded x [] J = foldObs J x.nf x.obs := by
  unfold stageFolded
  rw [List.filter_nil, List.append_nil]

theorem stageCommitted_write (s : State) (job : Nat) (hwrites : x.writes = [w]) (hadds : x.adds = []) :
    stageCommitted s job x = updJob (storeStaged s w) job fun J => foldObs J x.nf x.obs := by
  unfold stageCommitted
  rw [hwrites, hadds]
  exact congrArg (updJob (storeStaged s w) job) (funext fun J => stageFolded_none x J)

theorem stageFolded_one (x : RemoteStage) (acc : Bool) (ver : Nat) (J : Job) : stageFolded x (([ver].filter fun _ => acc).eraseDups) J
    = { foldObs J x.nf x.obs with accs := J.accs ++ if acc && !J.accs.contains ver then [ver] else [] } := by
  unfold stageFolded
  rw [show (foldObs J x.nf x.obs).accs = J.accs from rfl]
  cases acc with
  | false => rfl
  | true =>
    show { foldObs J x.nf x.obs with accs := J.accs ++ [ver].filter fun a => !J.accs.contains a } = _
    rw [List.filter_singleton, Bool.cond_eq_ite, Bool.true_and]

theorem stageCommitted_add (s : State) (job : Nat) (hwrites : x.writes = []) (hadds : x.adds = [w]) (hacc : isAcc (remoteAdd s w) w.buf = isAcc s w.buf) :
    stageCommitted s job x = updJob (remoteAdd s w) job fun J =>
      { foldObs J x.nf x.obs with accs := J.accs ++ if isAcc s w.buf && !J.accs.contains w.buf then [w.buf] else [] } := by
  have hfilter : [w.buf].filter (isAcc (remoteAdd s w)) = [w.buf].filter fun _ => isAcc s w.buf := by
    rw [List.filter_singleton, List.filter_singleton, hacc]
  unfold stageCommitted
  rw [hwrites, hadds]
  show updJob (remoteAdd s w) job (stageFolded x ([w.buf].filter (isAcc (remoteAdd s w))).eraseDups) = _
  rw [hfilter]
  exact congrArg (updJob (remoteAdd s w) job) (funext fun J => stageFolded_one x (isAcc s w.buf) w.buf J)

/-! ## The host proxy (R341) -/

/-- The state in which a member's access has been counted. -/
def proxyCounted (s : State) (member : Nat) (tr : FMap Trunk) : State :=
  { withTrunks s tr with host := { s.host with proxied := FMap.put 0 s.host.proxied member (FMap.getD s.host.proxied member 0 + 1) } }

theorem proxyCounted_passed (s : State) (member : Nat) (tr : FMap Trunk) :
    FMap.getD (proxyCounted s member tr).host.proxied member 0 = FMap.getD s.host.proxied member 0 + 1 := by
  unfold proxyCounted
  exact FMap.getD_put_self 0 s.host.proxied member (FMap.getD s.host.proxied member 0 + 1)

theorem proxyArrives (s : State) (member n : Nat) : ∃ tr, ((domainModule s member).elim s fun m => takeFlits s m n) = withTrunks s tr := by
  cases domainModule s member with
  | none => exact ⟨s.win.trunks, rfl⟩
  | some m => exact takeFlits_trunks ..

theorem hostProxy_write (s : State) (member addr : Nat) (bs : List Byte) (len : Nat) :
    ∃ tr, hostProxy s member addr (some bs) len = hostWrite (proxyCounted s member tr) addr bs := by
  obtain ⟨tr, htr⟩ := proxyArrives s member bs.length
  refine ⟨tr, ?_⟩
  unfold hostProxy
  rw [show ((some bs).map List.length).getD 8 = bs.length from rfl, htr]
  rfl

theorem hostProxy_read (s : State) (member addr len : Nat) :
    ∃ tr, hostProxy s member addr none len = issueRead (proxyCounted s member tr) { use := .proxy member, fn := 0, addr, len } := by
  obtain ⟨tr, htr⟩ := proxyArrives s member 8
  refine ⟨tr, ?_⟩
  unfold hostProxy
  rw [show ((none : Option (List Byte)).map List.length).getD 8 = 8 from rfl, htr]
  rfl

end RemoteCommits

end Sys2Proof.Machine

/-! PROOFS. O54: host reads and their ends, and all of it together. -/

namespace Sys2Proof.Machine

section HostReads

variable {s t : State} {id part member : Nat} {r : HostRead} {data : List Byte} {ok : Bool} {b : BaseJob} {x y : Tensor}

/-- The state with a read of host memory ended. -/
def readEnded (s : State) (id : Nat) : State := { s with host := { s.host with reads := FMap.erase s.host.reads id } }

theorem readEnded_left (s : State) (id : Nat) : FMap.get? (readEnded s id).host.reads id = none
    ∧ ∀ k, k ≠ id → FMap.get? (readEnded s id).host.reads k = FMap.get? s.host.reads k :=
  ⟨FMap.get?_erase_self .., fun _ hk => FMap.get?_erase_other _ _ _ hk⟩

theorem readEnded_quietKept (s : State) (id : Nat) : QuietKept s (readEnded s id) := ⟨rfl, rfl, rfl⟩

theorem hostReadDone_none (h : FMap.get? s.host.reads id = none) : hostReadDone s id ok data = s := by
  unfold hostReadDone
  rw [h]

theorem readTimeout_none (h : FMap.get? s.host.reads id = none) : readTimeout s id = s := by
  unfold readTimeout
  rw [h]

/-- The completion of a squashed read is discarded. -/
def readDiscarded (s : State) (id : Nat) : State :=
  { readEnded s id with host := { (readEnded s id).host with discarded := s.host.discarded + 1 } }

theorem hostReadDone_squashed (h : FMap.get? s.host.reads id = some r) (hsquashed : r.squashed = true) :
    hostReadDone s id ok data = readDiscarded s id := by
  unfold hostReadDone
  rw [h]
  exact if_pos hsquashed

theorem readTimeout_squashed (h : FMap.get? s.host.reads id = some r) (hsquashed : r.squashed = true) : readTimeout s id = readEnded s id := by
  unfold readTimeout
  rw [h]
  exact if_pos hsquashed

theorem readTimeout_live (h : FMap.get? s.host.reads id = some r) (hlive : r.squashed = false) : readTimeout s id = hostReadDone s id false [] := by
  unfold readTimeout
  rw [h]
  exact if_neg (by rw [hlive]; decide)

/-- A member's completion is handed over. -/
def readReturned (s : State) (id member : Nat) (ok : Bool) (bytes : List Byte) : State :=
  { readEnded s id with host := { (readEnded s id).host with proxyOut := s.host.proxyOut ++ [(member, ok, bytes)] } }

theorem hostReadDone_proxy (h : FMap.get? s.host.reads id = some r) (hlive : r.squashed = false) (huse : r.use = .proxy member) :
    ∃ tr, hostReadDone s id ok data = withTrunks (readReturned s id member ok (slice data 0 r.len)) tr := by
  have hrun : hostReadDone s id ok data = ((domainModule (readReturned s id member ok (slice data 0 r.len)) member).elim
      (readReturned s id member ok (slice data 0 r.len)) fun m => sendFlits (readReturned s id member ok (slice data 0 r.len)) 0 5 m r.len s.now) := by
    unfold hostReadDone
    rw [h]
    dsimp -zeta only
    extract_lets src u
    rw [if_neg (by rw [hlive]; decide), huse]
    rfl
  rw [hrun]
  generalize readReturned s id member ok (slice data 0 r.len) = u
  cases domainModule u member with
  | none => exact ⟨u.win.trunks, rfl⟩
  | some m => exact sendFlits_trunks ..

theorem hostReadDone_tensor (h : FMap.get? s.host.reads id = some r) (hlive : r.squashed = false) (huse : r.use = .baseTensor part) :
    hostReadDone s id ok data = tensorRead (if ok then journal (readEnded s id) 2 0 0 0 r.addr data else readEnded s id) part ok data := by
  unfold hostReadDone
  rw [h]
  dsimp -zeta only
  extract_lets src u
  rw [if_neg (by rw [hlive]; decide), huse]
  rfl

/-- A read of a base's tensor, before it is looked at. -/
structure TensorCame (s t : State) : Prop where
  quiet : QuietKept s t
  next : t.host.nextRead = s.host.nextRead
  bufs : t.bufs = s.bufs
  job : ∀ part, baseJobAt t part = baseJobAt s part

theorem TensorCame.trans {u : State} (h : TensorCame s t) (g : TensorCame t u) : TensorCame s u :=
  ⟨h.quiet.trans g.quiet, g.next.trans h.next, g.bufs.trans h.bufs, fun part => (g.job part).trans (h.job part)⟩

theorem tensorCame_of_read (s : State) (id : Nat) (ok : Bool) (addr : Nat) (data : List Byte) :
    TensorCame s (if ok then journal (readEnded s id) 2 0 0 0 addr data else readEnded s id) := by
  have hended : TensorCame s (readEnded s id) := ⟨readEnded_quietKept s id, rfl, rfl, fun _ => rfl⟩
  split
  · have honly := journal_only (readEnded s id) 2 0 0 0 addr data
    exact hended.trans ⟨journal_quietKept .., congrArg HostIf.nextRead (honly.same .host (by decide)), honly.same .bufs (by decide),
      (BasesKept.of_only honly (by decide)).baseJobAt⟩
  · exact hended

theorem sendTensor_came (s : State) (b : BaseJob) (data : List Byte) : TensorCame s (sendTensor s b data) :=
  have honly := sendTensor_only s b data
  ⟨.of_only honly (by decide) (by decide), congrArg HostIf.nextRead (honly.same .host (by decide)), honly.same .bufs (by decide),
    (BasesKept.of_only honly (by decide)).baseJobAt⟩

/-- The read of the tensor that the job waits for next, with the job as it stands now. -/
structure NextRead (s t : State) (part : Nat) (b : BaseJob) (x : Tensor) : Prop where
  quiet : QuietKept s t
  read : FMap.get? t.host.reads s.host.nextRead = some { use := .baseTensor part, fn := b.fn, addr := b.hostAddr + x.offset, len := x.bytes }
  bufs : t.bufs = s.bufs
  job : baseJobAt t part = some b

theorem NextRead.of_came {u : State} (h : TensorCame s t) (g : NextRead t u part b x) : NextRead s u part b x :=
  ⟨h.quiet.trans g.quiet, h.next ▸ g.read, g.bufs.trans h.bufs, g.job⟩

theorem readNext_law {c : BaseJob} (hc : baseJobAt s part = some c) (hx : b.tensors[b.next]? = some x) :
    NextRead s (readNext (updBaseJob s part fun _ => b) part b) part b x := by
  have hupd := updBaseJob_only s part fun _ => b
  have hhost : (updBaseJob s part fun _ => b).host = s.host := hupd.same .host (by decide)
  have hread := readNext_read (s := updBaseJob s part fun _ => b) (part := part) hx
  have hnext := readNext_only (updBaseJob s part fun _ => b) part b
  refine ⟨(QuietKept.of_only hupd (by decide) (by decide)).trans ?_, ?_, (hupd.trans hnext).same .bufs (by decide), ?_⟩
  · unfold readNext
    rw [hx]
    exact ⟨rfl, rfl, rfl⟩
  · rw [← hhost]
    exact hread
  · rw [(BasesKept.of_only hnext (by decide)).baseJobAt, partAt_updBaseJob, hc]
    rfl

section Tensors

variable (hb : baseJobAt s part = some b) (hmember : b.member = false) (hx : b.tensors[b.next]? = some x)

include hb hmember hx

theorem tensorRead_eq : tensorRead s part ok data =
    let u := if ok then sendTensor s b data else s
    if ok && (decide (data.length = x.bytes) && decide (sha384 data = x.digest)) then acceptTensor u part b x data
    else if b.attempts < 2 then readNext (updBaseJob u part fun _ => { b with attempts := b.attempts + 1 }) part { b with attempts := b.attempts + 1 }
    else baseFail u part b (if ok then 0x0613 else 0x0618) := by
  have hfilter : (baseJobAt s part).filter (fun b => !b.member) = some b := by
    rw [hb, Option.filter_some, hmember]
    rfl
  unfold tensorRead
  rw [hfilter]
  dsimp -zeta only
  rw [hx]

/-- The tensor is the one that the head expects: the read goes on to the next. -/
theorem tensorRead_next (hlength : data.length = x.bytes) (hdigest : sha384 data = x.digest) (hreplace : b.replace = false)
    (hy : b.tensors[b.next + 1]? = some y) : NextRead s (tensorRead s part true data) part
      { b with next := b.next + 1, attempts := 0, loaded := if b.keeps then b.loaded ++ [data] else b.loaded } y := by
  have hcame := sendTensor_came s b data
  have hmore : ¬ b.tensors.length ≤ b.next + 1 := by
    obtain ⟨hlt, -⟩ := List.getElem?_eq_some_iff.mp hy
    omega
  have haccept (u : State) : acceptTensor u part b x data = readNext (updBaseJob u part fun _ =>
      { b with next := b.next + 1, attempts := 0, loaded := if b.keeps then b.loaded ++ [data] else b.loaded }) part
      { b with next := b.next + 1, attempts := 0, loaded := if b.keeps then b.loaded ++ [data] else b.loaded } := by
    unfold acceptTensor
    dsimp only
    rw [hreplace, Bool.not_false, Bool.and_true, if_neg (by decide), if_neg hmore]
  rw [tensorRead_eq hb hmember hx]
  dsimp only
  rw [decide_eq_true hlength, decide_eq_true hdigest, if_pos rfl, if_pos rfl, haccept]
  exact .of_came hcame (readNext_law (b := { b with next := b.next + 1, attempts := 0, loaded := if b.keeps then b.loaded ++ [data] else b.loaded })
    ((hcame.job part).trans hb) hy)

/-- A tensor that is not good is read again, up to two more times. -/
theorem tensorRead_again (hbad : ok = false ∨ data.length ≠ x.bytes ∨ sha384 data ≠ x.digest) (hattempts : b.attempts < 2) :
    NextRead s (tensorRead s part ok data) part { b with attempts := b.attempts + 1 } x := by
  have hcame : TensorCame s (if ok then sendTensor s b data else s) := by
    split
    · exact sendTensor_came s b data
    · exact ⟨.refl s, rfl, rfl, fun _ => rfl⟩
  have hcond : (ok && (decide (data.length = x.bytes) && decide (sha384 data = x.digest))) = false := by
    rcases hbad with h | h | h
    · rw [h, Bool.false_and]
    · rw [decide_eq_false h, Bool.false_and, Bool.and_false]
    · rw [decide_eq_false h, Bool.and_false, Bool.and_false]
  rw [tensorRead_eq hb hmember hx]
  dsimp only
  rw [hcond, if_neg (by decide), if_pos hattempts]
  exact .of_came hcame (readNext_law (b := { b with attempts := b.attempts + 1 }) ((hcame.job part).trans hb) hx)

/-- The third read that fails ends the load. -/
theorem tensorRead_fails (hattempts : 2 ≤ b.attempts) : QuietKept s (tensorRead s part false data) ∧ baseJobAt (tensorRead s part false data) part = none := by
  rw [tensorRead_eq hb hmember hx]
  dsimp only
  simp only [Bool.false_and, Bool.false_eq_true, if_false]
  rw [if_neg (by omega)]
  exact ⟨baseFail_quietKept .., baseFail_job ..⟩

end Tensors

/-- A read that a base waits for, on its way to the next tensor or to the same one. -/
theorem read_reaches (h : FMap.get? s.host.reads id = some r) (hlive : r.squashed = false) (huse : r.use = .baseTensor part) {P : State → Prop}
    (hP : ∀ u, TensorCame s u → P (tensorRead u part ok data)) : P (hostReadDone s id ok data) := by
  rw [hostReadDone_tensor h hlive huse]
  exact hP _ (tensorCame_of_read ..)

/-! ## A fundamental reset (R456) -/

theorem perst_inactive {hub : Hub} (h : activeHub s ≠ hubNumber hub) : perst s hub = s := if_pos h

/-- The one read in flight ends as one that failed. -/
theorem perst_one {hub : Hub} (hhub : activeHub s = hubNumber hub) (hreads : s.host.reads = [(id, r)]) (hlive : r.squashed = false) :
    perst s hub = hostReadDone s id false [] := by
  unfold perst
  rw [if_neg (by simp [hhub]), hreads]
  dsimp only
  rw [List.filter_singleton, hlive]
  rfl

end HostReads

/-- Settles O54: packets of remote MOVEs and their commit, the host proxy, the ends of host reads, a fundamental reset. -/
theorem remoteAndHostTraffic : Obligations.RemoteAndHostTraffic := by
  refine ⟨fun s p => ?_, fun s job source cmd discard => ⟨fun J hJ hfenced => ⟨_, rfl, ?_⟩, fun hfree => ?_⟩, fun s member addr len bs => ?_,
    fun s id data => ?_⟩
  · intro old now c hc
    have hrun : ∃ add, c.2 = add ∧ exec c.1 s = .next (remotePacket s p add) := by
      rcases List.mem_cons.mp hc with rfl | hc
      · exact ⟨false, rfl, rfl⟩
      · obtain rfl := List.mem_singleton.mp hc
        exact ⟨true, rfl, rfl⟩
    obtain ⟨add, hadd, hrun⟩ := hrun
    rw [hadd]
    refine ⟨fun J hJ hfenced => ⟨_, hrun, ?_⟩, fun hfree htarget => ⟨_, hrun, ?_⟩, fun J ver hfree htarget => ?_⟩
    · rw [remotePacket_fenced hfenced]
      exact dropFenced_law hJ
    · obtain ⟨tr, htr⟩ := remotePacket_lost (add := add) hfree htarget
      rw [htr]
      rfl
    · intro st
      refine ⟨fun hst => ⟨_, hrun, remotePacket_refused hfree htarget hst⟩, fun hst => ⟨_, hrun, ?_⟩⟩
      obtain ⟨tr, htr⟩ := remotePacket_staged hfree htarget hst
      obtain ⟨honly, hstaged, hacks⟩ := packetStaged_law (withTrunks s tr) p (stagedBy s p add J ver)
      obtain ⟨⟨hjob, hsource, hcmd⟩, hcomplete, hadds, hopen, hends⟩ := stagedBy_law s p add J ver
      have hnow : now (packetStaged (withTrunks s tr) p (stagedBy s p add J ver)) = stagedBy s p add J ver := by
        have h := remoteAt_putRemote (withTrunks s tr) (stagedBy s p add J ver)
        rw [hjob, hsource, hcmd] at h
        unfold now remoteAt
        rw [hstaged]
        exact h
      rw [htr, hnow]
      refine ⟨?_, hcomplete, hacks, hadds, hopen, hends⟩
      generalize packetStaged (withTrunks s tr) p (stagedBy s p add J ver) = t at honly
      rw [honly]
      rfl
  · rw [remoteCommit_fenced hfenced]
    exact dropFenced_law hJ
  · intro found
    refine ⟨fun hfound => ⟨_, rfl, ?_⟩, fun x hfound => ?_⟩
    · obtain ⟨tr, htr⟩ := remoteCommit_none (discard := discard) hfree hfound
      rw [htr]
      rfl
    · intro dropped
      obtain ⟨tr, htr⟩ := remoteCommit_found (discard := discard) hfree hfound
      refine ⟨fun hdrop => ⟨_, rfl, ?_⟩, fun hkeep hcomplete w b => ?_⟩
      · rw [htr, if_pos (by rcases hdrop with h | h <;> simp [h])]
        exact ⟨rfl, rfl⟩
      · intro key hb hver htiered stored
        rw [if_neg (by rw [hkeep, hcomplete]; decide)] at htr
        have hhome : FMap.get? (stageTaken s tr x).bufs key = some b := hb
        refine ⟨fun hwrites hadds => ⟨_, rfl, ?_⟩, fun hwrites hadds => ⟨_, rfl, ?_⟩⟩
        · rw [htr, stageCommitted_write _ job hwrites hadds]
          exact stageCommitted_stored (fun J => foldObs J x.nf x.obs) (storeStaged_stored (s := stageTaken s tr x) hhome hver htiered)
        · have hstored := remoteAdd_stored (s := stageTaken s tr x) hhome hver htiered
          rw [htr, stageCommitted_add _ job hwrites hadds (hstored.isAcc hhome rfl)]
          exact stageCommitted_stored (fun J => { foldObs J x.nf x.obs with accs := J.accs ++ if isAcc s w.buf && !J.accs.contains w.buf then [w.buf] else [] })
            hstored
  · intro passed
    obtain ⟨tr, hwrite⟩ := hostProxy_write s member addr bs len
    obtain ⟨tr', hread⟩ := hostProxy_read s member addr len
    exact ⟨⟨_, congrArg Host.Outcome.next hwrite, proxyCounted_passed s member tr, rfl, rfl⟩,
      ⟨_, congrArg Host.Outcome.next hread, proxyCounted_passed s member tr', rfl, rfl, FMap.get?_set_self ..⟩⟩
  · intro quiet
    have hdone (ok : Bool) (P : State → Prop) (h : P (afterReads (hostReadDone s id ok data))) : Runs (.hostReadCompletion id ok data) s P := ⟨_, rfl, h⟩
    have htimeout (P : State → Prop) (h : P (afterReads (readTimeout s id))) : Runs (.completionTimeout id) s P := ⟨_, rfl, h⟩
    have hperst (hub : Hub) (P : State → Prop) (h : P (afterReads (perst s hub))) : Runs (.pcieFundamentalReset hub) s P := ⟨_, rfl, h⟩
    refine ⟨fun hnone => ⟨fun ok => hdone ok _ fun hquiet => ?_, htimeout _ fun hquiet => ?_⟩, fun hub hhub => hperst hub _ fun hquiet => ?_,
      fun r hr => ⟨fun ok hsquashed => hdone ok _ ?_, fun hsquashed => htimeout _ ?_, fun member huse hlive => ?_,
        fun part b x huse hlive hb hmember hx => ?_⟩⟩
    · rw [hostReadDone_none hnone]
      exact afterReads_quiet hquiet
    · rw [readTimeout_none hnone]
      exact afterReads_quiet hquiet
    · rw [perst_inactive hhub]
      exact afterReads_quiet hquiet
    · rw [hostReadDone_squashed hr hsquashed]
      refine ⟨(afterReads_answersKept _).1, fun hquiet => ?_⟩
      rw [afterReads_quiet (Quiet.later (t := readDiscarded s id) hquiet ⟨rfl, rfl, rfl⟩)]
      exact ⟨readEnded_left s id, rfl⟩
    · rw [readTimeout_squashed hr hsquashed]
      refine ⟨(afterReads_answersKept _).1, fun hquiet => ?_⟩
      rw [afterReads_quiet (Quiet.later hquiet (readEnded_quietKept s id))]
      exact ⟨readEnded_left s id, rfl⟩
    · have hreturned (ok : Bool) (bs : List Byte) : (afterReads (hostReadDone s id ok bs)).host.proxyOut = s.host.proxyOut ++ [(member, ok, slice bs 0 r.len)]
          ∧ (quiet → (FMap.get? (afterReads (hostReadDone s id ok bs)).host.reads id = none
              ∧ ∀ k, k ≠ id → FMap.get? (afterReads (hostReadDone s id ok bs)).host.reads k = FMap.get? s.host.reads k)
            ∧ afterReads (hostReadDone s id ok bs) = { s with
              host := (afterReads (hostReadDone s id ok bs)).host
              win := { s.win with trunks := (afterReads (hostReadDone s id ok bs)).win.trunks } }) := by
        obtain ⟨tr, htr⟩ := hostReadDone_proxy (ok := ok) (data := bs) hr hlive huse
        rw [htr]
        refine ⟨(afterReads_answersKept _).2, fun hquiet => ?_⟩
        rw [afterReads_quiet (Quiet.later (t := withTrunks (readReturned s id member ok (slice bs 0 r.len)) tr) hquiet ⟨rfl, rfl, rfl⟩)]
        exact ⟨readEnded_left s id, rfl⟩
      refine ⟨fun ok => hdone ok _ (hreturned ok data), htimeout _ ?_, fun hub hhub hreads => hperst hub _ ?_⟩
      · rw [readTimeout_live hr hlive]
        exact hreturned false []
      · rw [perst_one hhub hreads hlive]
        exact hreturned false []
    · intro reads again
      have hnext {c : BaseJob} {z : Tensor} {ok : Bool} {bs : List Byte} (h : NextRead s (hostReadDone s id ok bs) part c z) (hquiet : quiet) :
          NextRead s (afterReads (hostReadDone s id ok bs)) part c z := by
        rw [afterReads_quiet (Quiet.later hquiet h.quiet)]
        exact h
      have hagain {ok : Bool} {bs : List Byte} (hattempts : b.attempts < 2) (hbad : ok = false ∨ bs.length ≠ x.bytes ∨ sha384 bs ≠ x.digest) :
          again (afterReads (hostReadDone s id ok bs)) := by
        intro hquiet
        have h := hnext (read_reaches hr hlive huse (P := fun t => NextRead s t part { b with attempts := b.attempts + 1 } x)
          fun u hu => .of_came hu (tensorRead_again ((hu.job part).trans hb) hmember hx hbad hattempts)) hquiet
        have hread := h.read
        exact ⟨h.job, hread, h.bufs⟩
      refine ⟨fun y hlength hdigest hreplace hy => hdone true _ fun hquiet => ?_,
        fun hattempts => ⟨fun hbad => hdone true _ (hagain hattempts (.inr hbad)), hdone false _ (hagain hattempts (.inl rfl)), htimeout _ ?_⟩,
        fun hattempts => htimeout _ fun hquiet => ?_⟩
      · have h := hnext (read_reaches hr hlive huse (P := fun t => NextRead s t part
            { b with next := b.next + 1, attempts := 0, loaded := if b.keeps then b.loaded ++ [data] else b.loaded } y)
          fun u hu => .of_came hu (tensorRead_next ((hu.job part).trans hb) hmember hx hlength hdigest hreplace hy)) hquiet
        exact ⟨h.read, h.bufs, h.job⟩
      · rw [readTimeout_live hr hlive]
        exact hagain hattempts (.inl rfl)
      · rw [readTimeout_live hr hlive]
        obtain ⟨hkept, hjob⟩ := read_reaches hr hlive huse (P := fun t => QuietKept s t ∧ baseJobAt t part = none) (ok := false) (data := [])
          fun u hu => by
            obtain ⟨hkept, hjob⟩ := tensorRead_fails (data := []) ((hu.job part).trans hb) hmember hx hattempts
            exact ⟨hu.quiet.trans hkept, hjob⟩
        rw [afterReads_quiet (Quiet.later hquiet hkept)]
        exact hjob

end Sys2Proof.Machine
